-- ==== Sys2Proof/Word.lean ====
section
/-! DEFINITION. The word types of Icsar (spec/00_scope.md R6, spec/07_registers_and_encodings.md R144). -/
namespace Sys2Proof

/-- A 64-bit scalar value. -/
abbrev Word := BitVec 64

/-- A byte, the smallest unit of memory. -/
abbrev Byte := BitVec 8

/-- A 48-bit code address as the PC and the target registers hold it (R150). -/
abbrev CodeAddr := BitVec 48

/-- The bits of a vector register: 128 lanes of 32 bits (R144). -/
abbrev VecBits := BitVec 4096

end Sys2Proof
end

