-- ==== Sys2Proof/Config.lean ====
section
/-! DEFINITION. What the spec leaves open. Every constant here is uninterpreted: nothing can evaluate it or prove a value of
it, so what is proved holds for every value. The argument is the counter `free` of the state, advanced at every draw
(notes/assumptions/3.md, 7.md). -/
namespace Sys2Proof

/-- The cycle count of the running core (R157): time is not part of the model. -/
opaque Config.cycle : Nat → Word

/-- How many of a channel's newest items have not arrived yet where a twin looks (R83, R286). -/
opaque Config.inFlight : Nat → Nat

/-- How many of a channel's freed slots the sender does not know of yet where a twin looks (R83, R286). -/
opaque Config.slotsUnseen : Nat → Nat

/-- How many more groups than the fewest possible an MMA has accumulated where a pre-emption stops it (R359). -/
opaque Config.groupsRun : Nat → Nat

/-- What the management port answers where the spec gives no contents: certificates, measurements, sensor values (R370). -/
opaque Config.reading : Nat → Word

/-- A channel pointer (R138): how the sending or the receiving end of a channel with a slot area at an offset of so many slots
points into it after so many items put or taken. The spec gives the pointers no bits. -/
opaque Config.chanPointer : Bool → Nat → Nat → Nat → Word

/-- What a save writes into the words of a frame whose layout the spec does not give (R356). -/
opaque Config.framePart : Nat → Word

/-- What stands beside the value in a NOTIFY node's entry of the completion ring (R321), words 1 to 3: a function of the
launch's TAG, the address of the node's record, its iteration and its value, so that two runs on the same inputs post the same
notifications (R82). -/
opaque Config.notifyWord : Word → Nat → Nat → Word → Fin 3 → Word

/-- The 16 bytes of a host event log entry: the spec says what is logged and not how it stands there (R365). The first
argument numbers the rule that logs. -/
opaque Config.logEntry : Nat → Nat → Nat → BitVec 128

/-- The cell width, by its place among the widths a type admits, at which an image load joins the contents of a region: the
container does not say it (R26, R31). It is one for the line's address, the count of its bytes and the bytes: every load of one
image gives a line the same width (R82). -/
opaque Config.loadWidth : Nat → Nat → Nat → Nat

end Sys2Proof
end

