-- ==== Sys2Proof/Syntax.lean ====
section
/-! DEFINITION. The instructions and events of Icsar: one constructor for every row of the opcode table.
The first part holds the 204 encodings of spec/07_registers_and_encodings.md R158 to R165; the second the 94 steps of
spec/95_what_each_step_holds.md that have no encoding. -/
namespace Sys2Proof

/-- A 6-bit scalar specifier (R162). `q 0` is q1, the newest age; `rsv` stands for the reserved values 56 to 63. -/
inductive Scalar where
  | g (n : Fin 32)
  | q (age : Fin 16)
  | c (port : Fin 8)
  | rsv (n : Fin 8)
deriving DecidableEq, Repr

/-- A 5-bit vector specifier (R162). `y 0` is y1, the newest age. -/
inductive VSpec where
  | v (n : Fin 16)
  | y (age : Fin 8)
  | c (port : Fin 8)
deriving DecidableEq, Repr

/-- A context's name: its address space and its id, unique among the live contexts of it (R157, R355). -/
structure Key where
  asid : BitVec 12
  ctxid : BitVec 16
deriving DecidableEq, Repr

/-- What an uncorrectable error strikes (R79, R168, R350, R198). Addresses are numbers of the machine's byte spaces. -/
inductive ErrTarget where
  /-- a line in the home cache or in memory that holds field data: it becomes poisoned (R79) -/
  | line (pa : Nat)
  /-- `n` bytes of private memory at a physical address (R350) -/
  | memory (pa n : Nat)
  /-- `n` bytes of a core's scratchpad (R350) -/
  | scratch (core off n : Nat)
  /-- a word of a core's accumulator store (R350) -/
  | tile (core word : Nat)
  /-- a scalar register of a context (R350) -/
  | scalar (k : Key) (n : Fin 32)
  /-- a lane of a vector register of a context (R350) -/
  | lane (k : Key) (n : Fin 16) (lane : Fin 128)
  /-- an entry of a context's scalar queue by its age (R350) -/
  | queue (k : Key) (age : Fin 16)
  /-- a lane of an entry of a context's vector queue (R350) -/
  | queueLane (k : Key) (age : Fin 8) (lane : Fin 128)
  /-- a target register of a context (R350) -/
  | target (k : Key) (n : Fin 8)
  /-- `n` bytes of a handler's private area (R350, R145) -/
  | area (k : Key) (off n : Nat)
  /-- a lane of an item that stands in a channel, the oldest counted 0 (R350, R142) -/
  | item (chan i : Nat) (lane : Fin 128)
  /-- an instruction in a core's instruction cache (R168) -/
  | icache (core va : Nat)
deriving DecidableEq, Repr

/-- The two register spaces the host writes (R365, R366). -/
inductive Bar where
  | bar0
  | bar1
deriving DecidableEq, Repr

/-- One constructor per row of the opcode table. -/
inductive Instr where
  -- 16-bit encodings (R158, R159, R195, R196)
  | guard (sense : Bool) (bit : Fin 64) (n : Fin 32)
  | vguard (sense : Bool) (bit : Fin 32) (n : Fin 32)
  | nop16
  | yield16
  | vaddF32S (d s : VSpec)
  | vsubF32S (d s : VSpec)
  | vmulF32S (d s : VSpec)
  | vfmaF32S (d s : VSpec)
  | vmaxF32S (d s : VSpec)
  | vminF32S (d s : VSpec)
  | vaddBf16S (d s : VSpec)
  | vfmaBf16S (d s : VSpec)
  | viaddI32S (d s : VSpec)
  | visubI32S (d s : VSpec)
  | viandS (d s : VSpec)
  | viorS (d s : VSpec)
  | vixorS (d s : VSpec)
  | vimaxI32S (d s : VSpec)
  | vmovS (d s : VSpec)
  | viminI32S (d s : VSpec)
  -- ALU, major 0x00 (R207)
  | add (d a b : Scalar)
  | sub (d a b : Scalar)
  | and (d a b : Scalar)
  | or (d a b : Scalar)
  | xor (d a b : Scalar)
  | shl (d a b : Scalar)
  | shr (d a b : Scalar)
  | sra (d a b : Scalar)
  | min (d a b : Scalar)
  | max (d a b : Scalar)
  | minn (d a b : Scalar)
  | maxn (d a b : Scalar)
  | mul (d a b : Scalar)
  | mulh (d a b : Scalar)
  | mulhn (d a b : Scalar)
  | div (d a b : Scalar)
  | divn (d a b : Scalar)
  | rem (d a b : Scalar)
  | remn (d a b : Scalar)
  | clz (d a : Scalar)
  | popc (d a : Scalar)
  | bfx (d a b : Scalar)
  | bfi (d a b : Scalar)
  | cmp (d a b : Scalar)
  | cmpf (d a b : Scalar)
  | fadd (d a b : Scalar)
  | fsub (d a b : Scalar)
  | fmul (d a b : Scalar)
  | ftoi (d a : Scalar)
  | itof (d a : Scalar)
  -- immediate forms (R213, R214)
  | addi (d a : Scalar) (imm : BitVec 13)
  | andi (d a : Scalar) (imm : BitVec 13)
  | ori (d a : Scalar) (imm : BitVec 13)
  | xori (d a : Scalar) (imm : BitVec 13)
  | shli (d a : Scalar) (n : Fin 64)
  | shri (d a : Scalar) (n : Fin 64)
  | srai (d a : Scalar) (n : Fin 64)
  | cmpi (d a : Scalar) (imm : BitVec 13)
  | movi (d : Scalar) (imm : BitVec 19)
  | ldc (d : Scalar) (imm : BitVec 19)
  | addpc (d : Scalar) (imm : BitVec 19)
  -- loads and stores, form S (R215); `size` is the log of the access size in bytes
  | ld (data base : Scalar) (size : Fin 4) (off : BitVec 11)
  | ldz (data base : Scalar) (size : Fin 4) (off : BitVec 11)
  | st (data base : Scalar) (size : Fin 4) (off : BitVec 11)
  -- field instructions, major 0x14 (R218)
  | joinH (addr val : Scalar)
  | joinW (addr val : Scalar)
  | joinD (addr val : Scalar)
  | joinHRel (addr val : Scalar)
  | joinWRel (addr val : Scalar)
  | joinDRel (addr val : Scalar)
  | xjoinF (addr val : Scalar)
  | xjoinI (addr val : Scalar)
  | xjoinFRel (addr val : Scalar)
  | xjoinIRel (addr val : Scalar)
  | await (d addr trig : Scalar)
  | awaitAny (d addr list : Scalar)
  | awaitFilled (d addr : Scalar)
  | probe (d addr trig : Scalar)
  | ldxW (d addr : Scalar)
  | ldxD (d addr : Scalar)
  | freeze (addr len : Scalar)
  | fallow (addr len : Scalar)
  -- prepared control transfer (R200, R201, R203)
  | prep (n : Fin 8) (imm : BitVec 19)
  | prepr (n : Fin 8) (a : Scalar)
  | prepx (n : Fin 8) (table index : Scalar)
  | pmove (n l : Fin 8)
  | jmp (n : Fin 8)
  | brT (n : Fin 8) (g : Scalar) (bit : Fin 64)
  | brF (n : Fin 8) (g : Scalar) (bit : Fin 64)
  | call (n l : Fin 8)
  | bdec (n : Fin 8) (g : Scalar)
  -- system, major 0x1B (R291)
  | endTask
  | yield
  | trap (arg : Scalar)
  | eret (record act : Scalar)
  | halt
  | nop
  | sysrd (d : Scalar) (reg : Fin 64)
  | syswr (reg : Fin 64) (a : Scalar)
  | tlbinv (asid addr len : Scalar)
  | l1inv (asid addr len : Scalar)
  | spmarkKeep (off len : Scalar)
  | spmarkDiscard (off len : Scalar)
  | breakpt (arg : Scalar)
  -- tasks, major 0x1C (R279)
  | spawn (record arg : Scalar)
  | spawnw (record cell trig : Scalar)
  | send (core record : Scalar)
  | sendHi (core record : Scalar)
  | sendNb (d core record : Scalar)
  | sendHiNb (d core record : Scalar)
  -- channel twins, major 0x1D (R286)
  | ctryrecv (st port data : Scalar)
  | ctrysend (st port val : Scalar)
  | ctryrecvV (st port : Scalar) (data : VSpec)
  | ctrysendV (st port : Scalar) (val : VSpec)
  | ccount (d port : Scalar)
  -- fences, major 0x1E (R287)
  | fenceAcq (scope : Fin 4)
  | fenceRel (scope : Fin 4)
  | fenceFull (scope : Fin 4)
  -- VFLOAT, major 0x20 (R233)
  | vadd (t : Fin 8) (d a b : VSpec)
  | vsub (t : Fin 8) (d a b : VSpec)
  | vmul (t : Fin 8) (d a b : VSpec)
  | vfma (t : Fin 8) (d a b : VSpec)
  | vfms (t : Fin 8) (d a b : VSpec)
  | vmin (t : Fin 8) (d a b : VSpec)
  | vmax (t : Fin 8) (d a b : VSpec)
  | vabs (t : Fin 8) (d a : VSpec)
  | vneg (t : Fin 8) (d a : VSpec)
  | vsqrt (t : Fin 8) (d a : VSpec)
  | vrcp (t : Fin 8) (d a : VSpec)
  | vrsq (t : Fin 8) (d a : VSpec)
  | vexp2 (t : Fin 8) (d a : VSpec)
  | vlog2 (t : Fin 8) (d a : VSpec)
  | vscaleb (t : Fin 8) (d a b : VSpec)
  | vcmpeq (t : Fin 8) (d a b : VSpec)
  | vcmplt (t : Fin 8) (d a b : VSpec)
  | vcmple (t : Fin 8) (d a b : VSpec)
  -- VINT, major 0x21 (R238)
  | viadd (t : Fin 8) (d a b : VSpec)
  | visub (t : Fin 8) (d a b : VSpec)
  | vimul (t : Fin 8) (d a b : VSpec)
  | vimin (t : Fin 8) (d a b : VSpec)
  | vimax (t : Fin 8) (d a b : VSpec)
  | viminn (t : Fin 8) (d a b : VSpec)
  | vimaxn (t : Fin 8) (d a b : VSpec)
  | viand (t : Fin 8) (d a b : VSpec)
  | vior (t : Fin 8) (d a b : VSpec)
  | vixor (t : Fin 8) (d a b : VSpec)
  | vishl (t : Fin 8) (d a b : VSpec)
  | vishr (t : Fin 8) (d a b : VSpec)
  | visra (t : Fin 8) (d a b : VSpec)
  | viabs (t : Fin 8) (d a : VSpec)
  | vicmpeq (t : Fin 8) (d a b : VSpec)
  | vicmplt (t : Fin 8) (d a b : VSpec)
  | vicmpltn (t : Fin 8) (d a b : VSpec)
  | viaddsat (t : Fin 8) (d a b : VSpec)
  -- VMOVE, major 0x22 (R239)
  | vmov (d a : VSpec)
  | vsel (d a b : VSpec)
  | vbcast (d : VSpec) (s : Scalar)
  | vextr (d : Scalar) (i : Scalar) (a : VSpec)
  | vins (d : VSpec) (s i : Scalar)
  | viota (t : Fin 8) (d : VSpec)
  | vperm (d a ix : VSpec)
  | vkey (t : Fin 8) (d a : VSpec)
  -- VCVT, major 0x23 (R243, R244)
  | vcvtF2x (fmt : Fin 32) (d a : VSpec)
  | vcvtX2f (fmt : Fin 32) (d a : VSpec)
  | vcvtI2x (fmt : Fin 32) (d a : VSpec)
  | vcvtX2i (fmt : Fin 32) (d a : VSpec)
  | vpack (t : Fin 8) (d a b : VSpec)
  | vunpack (t : Fin 8) (d a : VSpec) (half sign : Bool)
  -- VREDUCE, major 0x24 (R245)
  | vrsum (t : Fin 8) (d a : VSpec)
  | vrmax (t : Fin 8) (d a : VSpec)
  | vrmin (t : Fin 8) (d a : VSpec)
  | vramax (t : Fin 8) (d a : VSpec)
  | vscan (t : Fin 8) (d a : VSpec) (op : Fin 32)
  -- VMEM, major 0x25 (R247)
  | vld (d : VSpec) (base off : Scalar)
  | vst (s : VSpec) (base off : Scalar)
  | vlds (d : VSpec) (base stride : Scalar)
  | vsts (s : VSpec) (base stride : Scalar)
  | vgather (d : VSpec) (base : Scalar) (ix : VSpec)
  | vscatter (s : VSpec) (base : Scalar) (ix : VSpec)
  | vldb (d : VSpec) (base off : Scalar)
  -- VFIELD, major 0x26 (R251)
  | vjoin (s : VSpec) (base : Scalar) (ix : VSpec)
  | vxjoin (s : VSpec) (base : Scalar) (ix : VSpec)
  -- VACC, major 0x27 (R253)
  | vlda (d : VSpec) (tile : Fin 16) (k : Scalar)
  | vsta (s : VSpec) (tile : Fin 16) (k : Scalar)
  | vadda (s : VSpec) (tile : Fin 16) (k : Scalar)
  -- COPY, major 0x30 (R259)
  | ccopy (a b : Scalar)
  | ccfg (a b : Scalar)
  | cgather (ix a b : Scalar)
  | cjoin (a b : Scalar)
  | cbar (off exp : Scalar)
  | waitb (d off ph : Scalar)
  -- MATRIX, major 0x31 (R265)
  | mcfg (view off : Scalar)
  | mzero (t : Scalar)
  | mma (a b : Scalar)
  | mscaleacc (a b : Scalar)
  | mload (a b : Scalar)
  | mstore (a b : Scalar)
  | mwait (d id : Scalar)
  | mdiscard (t : Scalar)
  -- LAMP, major 0x32 (R273)
  | lcfg (tile off : Scalar)
  | lspark (a b : Scalar)
  | lrun (a b : Scalar)
  | lstop (t : Scalar)
  | lwait (d id : Scalar)
  -- the legacy window's commands, run by the command processor (R303); `k` is the submitter
  | legacyCopy (k : Key)
  | legacyFill (k : Key)
  | legacyLaunch (k : Key)
  -- homes, gateways, routers and links; `m` names a message in flight
  | homeJoin (m : Nat)
  | homeFill (m : Nat)
  | homeFreeze (m : Nat)
  | thresholdTest (m : Nat)
  | homeStore (m : Nat)
  | homeLoad (m : Nat)
  | homeExactRead (m : Nat)
  | ackArrival (m : Nat)
  | wakeResult (m : Nat)
  | replicaTest (m : Nat)
  | gatewayResponsePass (m : Nat)
  | gatewayInvalidation (m : Nat)
  | routerForward (m : Nat) (channelBusy : Bool)
  | combinedJoinDepart (m : Nat)
  | heldJoinTimeout (core i : Nat)
  | flitReceive (m : Nat) (crcOk : Bool)
  | linkDown (l : Fin 12)
  -- engines; `seq` numbers a context's accepted commands, `u` a copy's unit in copy order
  | copyCommandStart (k : Key) (seq : Nat)
  | copyUnitPerformed (k : Key) (seq u : Nat)
  | matrixCommandStart (k : Key) (seq : Nat)
  | matrixCommandComplete (k : Key) (seq : Nat)
  | lampStep (k : Key) (seq : Nat)
  | sparkArrival (i : Nat)
  | tlbinvComplete (i : Nat)
  -- scheduling
  | coreDispatch (core : Nat)
  | highPriorityStart (core : Nat)
  | handlerOverrun (core : Nat)
  | timeSliceExpiry (core : Nat)
  | gleanPass (core : Nat)
  | gleanProbe (core : Nat)
  | gleanedRecordArrival (core : Nat)
  | dequeRecordArrival (i : Nat)
  | inboxRecordArrival (i : Nat)
  | crewStart (crew : Nat)
  | crewDeadlock (crew : Nat)
  | preemption (k : Key)
  | mmaPreemptBound (k : Key) (seq : Nat)
  | faultStop (k : Key)
  | faultRecordWrite (asid : BitVec 12)
  | faultQueueFullSignal (asid : BitVec 12)
  | resumeRecord (k : Key)
  | vectorRetention (k : Key)
  -- graphs; `g` names a live graph, `n` a node of it
  | nodeTaskset (g n : Nat)
  | nodeCrew (g n : Nat)
  | nodeCopy (g n : Nat)
  | nodeCond (g n : Nat)
  | nodeWhile (g n : Nat)
  | nodeFreeze (g n : Nat)
  | nodeFallow (g n : Nat)
  | nodeWaitcell (g n : Nat)
  | nodeNotify (g n : Nat)
  | nodeEnd (g n : Nat)
  | nodeComplete (g n : Nat)
  | graphComplete (g : Nat)
  | graphStallFail (g : Nat)
  -- host and command processor; `q` names a launch queue
  | doorbell (q : Fin 64) (tail : BitVec 32)
  | launchRecord (q : Fin 64)
  | launchGraph (q : Fin 64)
  | launchImageLoad (q : Fin 64)
  | bootTextReceive (load core : Nat)
  | imageLoadComplete (load : Nat)
  | queueSuspend (q : Fin 64)
  | queueResume (q : Fin 64)
  | teardown (q : Fin 64)
  | registerWrite (bar : Bar) (off : Nat) (val : BitVec 64)
  | offlineRequest (die : Fin 8)
  | offlineForced (die : Fin 8)
  | offlineComplete (die : Fin 8)
  | hostWriteHalf (off : BitVec 48) (data : BitVec 512)
  | hostRead (off : BitVec 48)
  | accessCounterHalving
  -- management and service life
  | ageingCheck (noMargin : List Nat)
  | mgmtReadLogs
  | deviceReset
  | fenceBaseDie (die : Fin 4)
  | quadTakeOut (die : Fin 4) (quad : Fin 48)
  | quadReturn (die : Fin 4) (quad : Fin 48)
  | coreRelease (core : Nat)
  | standbyTakeOver
  | standbyStandDown
  | standbySelfFence
  | setPackageId (id : BitVec 12)
  | firmwareUpdate (image : BitVec 64)
  | spdmMeasurement
  | sensorRead
  | dieEdgeFailure (edge : Fin 4)
  | watchdogTick
  | uncorrectableError (t : ErrTarget)
  | thermalThrottle
  | thermalTrip
  | linkTrained (l : Fin 12) (farId : BitVec 12)
deriving DecidableEq, Repr

end Sys2Proof
end

