-- ==== Sys2Proof/Machine/State.lean ====
section
/-! DEFINITION. The state of the package as plain data, and its reset. Every field names the rule that gives it; the
fields under "the model's own" are the model's. -/
namespace Sys2Proof.Machine

/-- The fault codes (R347). -/
inductive FaultCode where
  | illegalInstruction | illegalOperand | privilege | unpreparedTransfer | targetFault | transferInSlot
  | blockingInHandler | handlerOverrun | translation | permission | badType | widthMismatch | address
  | scratchBound | stackBound | prematureRead | writeAfterFreeze | fillConflict | unreachableThreshold
  | range | triggerSet | discardRead | poison | homeLost | dataLost | engineId | format | accBound
  | crewDeadlock | channelWidth | nondeterminism | teardown
deriving DecidableEq, Repr

/-- Why the model as a whole stops with a fault. The machine's own faults are next states (R351), so nothing raises this.
(notes/assumptions/68.md) -/
inductive Fault where
  /-- Raised by nobody: every fault of the spec is taken as the spec describes. Safe. -/
  | machineStopped
deriving DecidableEq, Repr

/-- Why the model refuses. (notes/assumptions/68.md) -/
inductive Refusal where
  /-- An instruction without a meaning yet, raised by its arm of `exec`. Safe: nothing can be proved of a run through it. -/
  | notModelled (mnemonic : String)
deriving DecidableEq, Repr

/-- A fault as it is reported: code, address, subcode, and level and cause of a failed walk (R157, R349, R353). `lo` and
`size` give the range the walk's stopping point covers (R97). -/
structure FaultInfo where
  code : FaultCode
  addr : Word := 0
  sub : BitVec 8 := 0
  level : Nat := 0
  cause : Nat := 0
  more : Nat := 0
  lo : Nat := 0
  size : Nat := 0
  /-- a failed walk had found a leaf, whose physical address is bad (R95) -/
  leaf : Bool := false
  /-- the id of the engine command that raised it (R353) -/
  engine : Option Nat := none
deriving DecidableEq, Repr

/-- A scalar value with its poison mark (R350). -/
structure Val where
  bits : Word
  mark : Bool := false
deriving DecidableEq, Repr

/-- A vector value with the poison marks of its lanes (R350). -/
structure Vec where
  bits : VecBits
  mark : BitVec 128 := 0
deriving DecidableEq, Repr

/-- A target register (R150); `sub` is the deferred fault subcode, 0 for none; `level` and `cause` are those of the failed
walk of subcode 0x04 (R349). (notes/assumptions/22.md) -/
structure Target where
  addr : CodeAddr := 0
  prepared : Bool := false
  sub : BitVec 8 := 0
  level : Nat := 0
  cause : Nat := 0
  /-- the poison marks of its address and of its flags (R350) -/
  marks : BitVec 2 := 0
deriving DecidableEq, Repr

/-- The bytes of one byte space in canonical form: addresses strictly rising, no zero listed; an unlisted address reads
as zero (notes/assumptions/1.md). -/
abbrev Memory := List Host.Cell

/-- A byte space with the poison marks of its bytes (R350), a mark being a byte of 1. -/
structure Mem where
  cells : Memory := []
  marks : Memory := []
deriving DecidableEq, Repr

/-- The registers that a unit's instructions change and that a fault in the unit gives back (R144, R194). -/
structure Regs where
  pc : CodeAddr
  g : Vector Val 32
  q : Vector Val 16
  v : Vector Vec 16
  y : Vector Vec 8
  b : Vector Target 8
  /-- R155 -/
  status : Word
  /-- R156 -/
  mode : Word
  seed : Word
  /-- R157 -/
  ndlog : Word
  /-- R48 -/
  icount : Word
deriving DecidableEq, Repr

/-- The unit in progress (R194 to R197, R203): what was saved for a fault, and what governs the next instruction. -/
structure UnitState where
  saved : Regs
  /-- the guard of the next instruction; `none` without a GUARD -/
  guard : Option Bool := none
  /-- the lanes of the next instruction; `none` without a VGUARD -/
  lanes : Option (BitVec 128) := none
  /-- the next instruction is a delay slot, and execution continues there after it -/
  slot : Option CodeAddr := none
  /-- the address in `slot` is the target of a taken transfer -/
  viaTarget : Bool := false
  /-- port items taken in the unit, to be put back if it faults: the channel and the item -/
  taken : List (Nat × Vec) := []
deriving DecidableEq, Repr

/-- The place of a resident context (R310). -/
inductive Slot where
  | h | a | b | c
deriving DecidableEq, Repr

/-- Which acknowledgements a context waits for: those that a release of a scope needs (R289), all of its own, those of its
joins and fills (R76), or those its test or freeze goes behind (R288). -/
inductive AckWait where
  | fence (scope : Nat) | all | fills | ahead
deriving DecidableEq, Repr

/-- What a context waits for, parked (R311) or keeping its core. -/
inductive Wait where
  /-- acknowledgements of joins, fills or stores -/
  | acks (a : AckWait)
  /-- the reply to a request the instruction has sent: a test, a freeze, lines -/
  | reply
  /-- an item or a free slot of a channel -/
  | channel (id : Nat)
  /-- room in the inbox, normal or high, that takes what is sent to a core -/
  | inbox (core : Nat) (high : Bool)
  /-- a TLBINV over the page of an address, whose translation has JBLOCK = 1 (R104) -/
  | jblock (va : Nat)
  /-- the phase of a barrier -/
  | barrier (off : Nat)
  /-- engine commands, by number -/
  | commands (seqs : List Nat)
  /-- TLBINV or L1INV -/
  | invalidation
  /-- one of the 64 fault records (R98) -/
  | record
deriving DecidableEq, Repr

/-- What a context does (R311 to R315, R351, R357). `stamp`s order wakes and parkings. -/
inductive Status where
  /-- executing on its core -/
  | running
  /-- suspended by slot H (R314) -/
  | suspended
  | ready (stamp : Nat)
  | parked (w : Wait) (stamp : Nat)
  /-- stopped at a fault, trap or breakpoint, on its way to its frame or in it -/
  | stopped
deriving DecidableEq, Repr

/-- A barrier object and its offset (R124, R125); `flips` counts the phases that have ended. -/
structure Barrier where
  off : Nat
  expected : Nat
  counted : Nat := 0
  phase : Bool := false
  flips : Nat := 0
deriving DecidableEq, Repr

/-- One end of a channel at a port (R141, R142). -/
structure PortEnd where
  chan : Nat
  sending : Bool
deriving DecidableEq, Repr

/-- A task record with what travels beside it: its address space, its launch and its task key (R304, R309, R377). -/
structure TaskRec where
  asid : BitVec 12
  launch : Nat
  key : Word := 0
  words : Vector Word 8
  /-- the mark of the argument that replaced word 2 (R282, R350) -/
  argMark : Bool := false
deriving DecidableEq, Repr

/-- What a threshold test asks (R68, R69, R71). -/
inductive TestKind where
  | await (trig : Word)
  | any (trigs : List Word)
  | filled
  | probe (trig : Word)
deriving DecidableEq, Repr

/-- To whom a response goes. -/
inductive Who where
  /-- an instruction of a context; `n` numbers its joins and stores, or its requests -/
  | ctx (k : Key) (n : Nat)
  /-- a unit of a copy command (R130) -/
  | copy (k : Key) (seq u : Nat)
  /-- the record of a SPAWNW (R283): the spawner, its core, the record and the PC -/
  | watch (k : Key) (core : Nat) (r : TaskRec) (pc : CodeAddr)
deriving DecidableEq, Repr

/-- A contributor of a join (R116, R117): who is acknowledged, and the virtual address of its cell. -/
structure Tag where
  who : Who
  va : Word
deriving DecidableEq, Repr

/-- A join on its way (R116): cell, width in bits, type and argument, operand or contribution, contribution count, the
poisoned mark, the release mark, and the contributors. -/
structure JoinReq where
  cell : Nat
  width : Nat
  ty : Nat
  arg : BitVec 8
  val : Int
  count : Nat := 1
  mark : Bool := false
  rel : Bool := false
  tags : List Tag
deriving DecidableEq, Repr

/-- What a test answers (R70, R71). -/
inductive TestResult where
  /-- passed: the index of the trigger passed, and the line's first doubleword -/
  | passed (index : Nat) (first : Word)
  | notPassed
  | poison
  | unreachable
  /-- the alignment against the line's WIDTH fails (R68) -/
  | misaligned
  | lost (code : FaultCode)
deriving DecidableEq, Repr

/-- A line as a response carries it: bytes, marks and metadata byte (R63, R109), and the generation of the translation it
was read through (R78). -/
structure LineSnap where
  line : Nat
  ty : Nat
  data : BitVec 1024
  marks : BitVec 128
  md : BitVec 8
  gen : BitVec 8 := 0
deriving DecidableEq, Repr

/-- What a message asks or answers (R114). -/
inductive Body where
  | join (j : JoinReq)
  | fill (line : Nat) (data : BitVec 1024) (mark : Bool) (tag : Tag)
  | freeze (line ty : Nat) (tag : Tag)
  | store (pa n : Nat) (data : BitVec 1024) (marks : BitVec 128) (tag : Tag)
  | load (line ty : Nat) (who : Who)
  | exact (line ty : Nat) (who : Who)
  | test (cell ty : Nat) (arg : BitVec 8) (k : TestKind) (who : Who)
  | ack (tag : Tag) (code : Option FaultCode)
  | data (who : Who) (code : Option FaultCode)
  | result (who : Who) (r : TestResult)
  /-- an invalidation of a replica on its way to a gateway (R111, R335) -/
  | inval (line : Nat) (gate : Nat)
deriving DecidableEq, Repr

/-- A place of the package where a message starts or ends: a core, a memory die's port, the CXL port on BD0, a gateway. -/
inductive Node where
  | core (c : Nat)
  | die (m port : Nat)
  | cxl
  | gate (g : Nat)
  /-- a home of another package (R80) -/
  | remote (pkg m : Nat)
deriving DecidableEq, Repr

/-- Where a message is. -/
inductive Loc where
  /-- in its core, before the mesh -/
  | source
  /-- at a router of a base die -/
  | router (bd x y : Nat)
  /-- held in a router's combining buffer (R116) -/
  | buffer (bd x y : Nat)
  /-- at a gateway cache (R109) -/
  | gate (g : Nat)
  /-- accepted by a scale-out link (R289) -/
  | link (l : Nat)
  /-- in another package -/
  | package (pkg : Nat)
  /-- at its destination -/
  | arrived
deriving DecidableEq, Repr

/-- A message in flight. `cnt` says that its translation has CNT = 1 (R101); `dateline` is its virtual channel on the
ring (R114). -/
structure Msg where
  id : Nat
  src : Node
  dst : Node
  body : Body
  loc : Loc := .source
  dateline : Bool := false
  cnt : Bool := false
  asid : BitVec 12 := 0
  va : Word := 0
  gen : BitVec 8 := 0
  /-- a response: the physical address it is about (R118) -/
  pa : Nat := 0
  snap : Option LineSnap := none
  /-- a response whose line its home has stored to, poisoned or reset since it left, or has unmapped: it leaves no replica
  (R335, R111, R77, R99) -/
  stale : Bool := false
  /-- an acknowledgement's wakes, which ready their contexts first (R325) -/
  behind : List Nat := []
  /-- sends of its flit that failed in a row (R120) -/
  fails : Nat := 0
  /-- between packages: the dimension whose ring it is on and whether it goes the positive way round, and whether it goes the
  opposite way because both links of its direction are down (R119, R120) -/
  way : Option (Nat × Bool) := none
  turned : Bool := false
  /-- a request under a REMOTE page of a bad physical address, which its home package tests (R94) -/
  bad : Bool := false
deriving DecidableEq, Repr

/-- A held wait (R67). -/
structure Watch where
  cell : Nat
  ty : Nat
  arg : BitVec 8
  kind : TestKind
  who : Who
  va : Word
  home : Node
  asid : BitVec 12
  gen : BitVec 8
deriving DecidableEq, Repr

/-- A join, fill or store of a context without its acknowledgement (R76, R289): its number, the line, whether it stores,
and how far it has gone. -/
structure Out where
  n : Nat
  /-- the core it was issued on -/
  core : Nat := 0
  line : Nat
  store : Bool
  va : Word
  held : Bool := false
  passedDie : Bool := false
  passedPkg : Bool := false
  homeBd : Nat := 0
  remote : Bool := false
deriving DecidableEq, Repr

/-- A posted fault of an acknowledged join (R76). -/
structure Posted where
  n : Nat
  code : FaultCode
  va : Word
deriving DecidableEq, Repr

/-- The kinds of engine commands with their operands at acceptance (R259, R265, R273). -/
inductive CmdKind where
  | ccopy (cfgA cfgB : Word) (src dst : BitVec 48) (migration : Bool)
  | cgather (cfgA cfgB : Word) (src dst : BitVec 48) (ix : BitVec 48)
  | cjoin (cfgA cfgB : Word) (src dst : BitVec 48)
  | mzero (t : Nat)
  | mdiscard (t : Nat)
  | mma (view : BitVec 256) (a b : Word)
  | mscaleacc (a b : Word)
  | mload (a b : Word)
  | mstore (a b : Word) (icount seed : Word)
  | lspark (a b : Word)
  | lrun (a b : Word)
deriving DecidableEq, Repr

/-- A copy unit that has been issued: its number, its byte count, the acknowledgements it still waits for, its fault of the
lowest address (R130, R134). -/
structure IssuedUnit where
  u : Nat
  n : Nat
  left : Nat := 0
  fault : Option FaultInfo := none
deriving DecidableEq, Repr

/-- The phase of the current step of an LRUN (R189). -/
inductive LampPhase where
  | integrate | settle | waiting
  /-- the test of its barrier cell has reached the cell's home (R101) -/
  | asked
deriving DecidableEq, Repr

/-- The state of an accepted engine command (R133, R134, R176, R179). -/
inductive CmdState where
  | accepted | started
  /-- a copy or run stopped on a TRANSLATION fault, waiting for its record (R134, R192) -/
  | stalled
  | done
deriving DecidableEq, Repr

/-- An accepted engine command. `preds` are the sequence numbers bound (R176); `pc` is its instruction; MZERO and MDISCARD
carry no id. -/
structure Cmd where
  seq : Nat
  id : Option Nat
  kind : CmdKind
  preds : List Nat
  pc : CodeAddr
  state : CmdState := .accepted
  fault : Option FaultInfo := none
  delivered : Bool := false
  /-- its place in the order of acceptance -/
  stamp : Nat
  /-- copy: the units issued and not counted, and the units and bytes counted in copy order -/
  units : List IssuedUnit := []
  counted : Nat := 0
  bytes : Nat := 0
  /-- CGATHER: the row being issued, where its index, read once, says it starts (R261) -/
  row : Option (Nat × Nat) := none
  /-- the phase of its barrier, by number, its last count fell into (R264) -/
  phase : Option Nat := none
  /-- LRUN: steps completed, the phase of the current one and FIRED after it, emitted sparks unsettled, faults of sparks -/
  steps : Nat := 0
  fired : Nat := 0
  lamp : LampPhase := .integrate
  unsettled : Nat := 0
  sparkFaults : List (Nat × FaultInfo) := []
  stopAsked : Bool := false
  /-- LRUN: the slice as it stood at acceptance, which the run takes its configuration, index and entries from (R276) -/
  bank : Mem := {}
  /-- MMA: the groups already accumulated (R359) -/
  groups : Nat := 0
deriving DecidableEq, Repr

/-- The reply an instruction's request has received. -/
structure Reply where
  n : Nat
  r : TestResult
deriving DecidableEq, Repr

/-- Why a context stopped (R351, R353): the record's kind, PC and argument. -/
structure StopRec where
  kind : Nat
  info : FaultInfo
  pc : CodeAddr
  /-- of a trap or breakpoint: gArg (R294), with its mark (R350) -/
  arg : Val := { bits := 0 }
  /-- of a fault: the id of its record (R97) -/
  record : Nat := 0
deriving DecidableEq, Repr

/-- A spark (R187, R190): target context and tile, cell, weight, step, and who emitted it at which place of the emission
order. -/
structure Spark where
  target : BitVec 26
  key : Option Key
  weight : BitVec 16
  step : Nat
  emitter : Key
  seq : Nat
  order : Nat
deriving DecidableEq, Repr

/-- A context (R144). -/
structure Context where
  key : Key
  core : Nat
  /-- the slot it stands in; `none` while it is in its frame (R310, R355) -/
  slot : Option Slot
  status : Status
  regs : Regs
  unit : Option UnitState := none
  /-- the next instruction was fetched through a target register (R168) -/
  viaTarget : Bool := false
  /-- the model's own: which start of a task this is; CTXIDs are used again -/
  born : Nat := 0
  /-- R157 -/
  faultCode : Word := 0
  faultAddr : Word := 0
  faultPc : Word := 0
  /-- CORE, ASID and CTXID where a store through the on-chip map has written another value, and what such a store has added
  to CYCLE (R147); which context it is they do not change (notes/assumptions/29.md) -/
  written : Vector (Option Word) 3 := Vector.replicate 3 none
  cycleOff : Word := 0
  stackBase : Word := 0
  stackSize : Word := 0
  /-- R301 -/
  cmdq : Vector Word 4 := Vector.replicate 4 0
  /-- R121, R140, R152: footprint in 4 KiB units, tile count, where they lie -/
  foot : Nat := 0
  tiles : Nat := 0
  base : Nat := 0
  tileMap : List Nat := []
  /-- R304, R309, R377 -/
  cell : BitVec 48 := 0
  launch : Nat := 0
  taskKey : Word := 0
  /-- R141 -/
  ports : Vector (Option PortEnd) 8 := Vector.replicate 8 none
  /-- R138: by how much a store through the on-chip map has made the channel pointers differ from what the channels give
  (notes/assumptions/8.md) -/
  chanPtr : Vector Word 8 := Vector.replicate 8 0
  crew : Option Nat := none
  /-- pre-empted or evicted with its crew, and on its way to its frame (R326, R357 to R359) -/
  leaving : Bool := false
  /-- pre-empted and not restored yet (R399) -/
  preempted : Bool := false
  /-- R145 -/
  area : Mem := {}
  /-- R122, R123 -/
  discLines : List Nat := []
  discTiles : BitVec 16 := 0
  /-- R125, R128, R182, R186 -/
  barriers : List Barrier := []
  copySets : Vector (Word × Word) 4 := Vector.replicate 4 (0, 0)
  views : Vector (BitVec 256) 8 := Vector.replicate 8 0
  lampCfg : Vector (Option Nat) 16 := Vector.replicate 16 none
  /-- R175 to R177: the commands accepted, in order -/
  cmds : List Cmd := []
  nextCmd : Nat := 0
  /-- in its frame: the entries of the spark queue for its banks (R356, R359) -/
  sparks : List Spark := []
  /-- R76, R289 -/
  outs : List Out := []
  nextOut : Nat := 0
  posted : List Posted := []
  /-- END's join of the completion cell, made once (R292) -/
  endJoin : Option Nat := none
  /-- the requests of the instruction in progress: their number, whether one is outstanding, the lines and the reply
  received, the pages already checked of a range -/
  nextReq : Nat := 0
  asked : Bool := false
  lines : List LineSnap := []
  /-- what L1 may not keep of those lines: the lines that another context of the core has stored to since they were asked
  for (R217), and, after an acquire of the core `some false`, those that are not FROZEN, or after an invalidation `some
  true`, all of them (R108, R99) -/
  spoilt : List Nat := []
  dropL1 : Option Bool := none
  reply : Option Reply := none
  lostReply : Option FaultInfo := none
  phase : Nat := 0
  /-- the operands the instruction in progress has read, and the port items among them -/
  operands : Option (List Val) := none
  voperand : Option Vec := none
  /-- joins whose acknowledgements the test in progress goes behind (R288), or the freezes of a FREEZE or FALLOW -/
  ahead : List (Key × Nat) := []
  items : List (Nat × Vec) := []
  /-- R351 -/
  stop : Option StopRec := none
  unitPc : CodeAddr := 0
  nextPc : CodeAddr := 0
deriving DecidableEq, Repr

/-- A join held in a core's combining buffer (R288). -/
structure Held where
  req : JoinReq
  dst : Node
  cnt : Bool
  asid : BitVec 12
  va : Word
  gen : BitVec 8
  /-- as of a message -/
  bad : Bool := false
deriving DecidableEq, Repr

/-- A line of an L1 data cache (R106, R108) or of an instruction cache. -/
structure L1Line where
  asid : BitVec 12
  va : Nat
  gen : BitVec 8
  snap : LineSnap
  frozen : Bool
deriving DecidableEq, Repr

/-- What a translation gives (R95). -/
structure Leaf where
  pa : Nat
  size : Nat
  ty : Nat
  arg : BitVec 8
  gen : BitVec 8
  w : Bool
  x : Bool
  sys : Bool
  cnt : Bool
  jblock : Bool
  remote : Bool
  pkg : Nat
deriving DecidableEq, Repr

/-- Where a translation is cached (R96): 0 an L1 TLB with its core, 1 an L2 TLB with its quad. -/
structure TlbEntry where
  level : Nat
  unit : Nat
  asid : BitVec 12
  page : Nat
  leaf : Leaf
deriving DecidableEq, Repr

/-- A cached table entry (R96): compute die, address space, the address it covers and its size, its place, its words. -/
structure TableEntry where
  die : Nat
  asid : BitVec 12
  lo : Nat
  size : Nat
  pa : Nat
  word0 : Word
  word1 : Word
deriving DecidableEq, Repr

/-- A glean in progress (R316, R317). -/
inductive Glean where
  | idle
  /-- probing: the cores left of the pass -/
  | probing (left : List Nat)
  /-- a record on its way -/
  | carrying (r : TaskRec)
deriving DecidableEq, Repr

/-- A core (R310, R308, R316, R296). -/
structure Core where
  num : Nat
  inbox : List TaskRec := []
  high : List TaskRec := []
  /-- bottom first -/
  deque : List TaskRec := []
  drained : Bool := false
  out : Bool := false
  hold : List Held := []
  sparks : List Spark := []
  l1 : List L1Line := []
  /-- the instruction cache (R3, R99): lines of code, newest first -/
  icache : List L1Line := []
  glean : Glean := .idle
  /-- instruction-cache errors (R168): addresses of halfwords -/
  icErrors : List (BitVec 12 × Nat) := []
  /-- what was preloaded of an image at boot (R34): addresses of its text and bytes -/
  warm : List (Nat × Nat) := []
deriving DecidableEq, Repr

/-- A dataflow channel of a crew (R141). -/
structure Channel where
  id : Nat
  crew : Nat
  src : Key
  dst : Key
  slots : Nat
  wide : Bool
  area : Nat
  /-- oldest first -/
  items : List Vec := []
  /-- the items the receiver has been shown and the free slots the sender has been shown (R286) -/
  arrived : Nat := 0
  freed : Nat := 0
  /-- the items put and taken so far, which the channel pointers go by (R138) -/
  puts : Nat := 0
  takes : Nat := 0
deriving DecidableEq, Repr

/-- A place held for a context on a core (R312, R326, R140): the slot, the first 4 KiB unit of its slice, its tiles. -/
structure Room where
  slot : Slot
  base : Nat
  tiles : List Nat
deriving DecidableEq, Repr

/-- A crew on its way or running (R326): `reserved` are the places held for its start or restart. -/
structure Crew where
  id : Nat
  launch : Nat
  order : Nat
  members : List (Nat × TaskRec)
  descs : List Word
  started : Bool := false
  keys : List Key := []
  reserved : List (Nat × Room) := []
deriving DecidableEq, Repr

/-- A record sent to a deque or an inbox and not there yet (R308, R284). -/
structure Transit where
  id : Nat
  core : Nat
  /-- 0 deque, 1 normal inbox, 2 high inbox, 3 deque in the order of a TASKSET node -/
  kind : Nat
  r : TaskRec
deriving DecidableEq, Repr

/-- A fault record (R353) and the state of its service (R97, R354): the contexts stopped at it, and the engine commands
stalled at it. -/
structure FaultRec where
  id : Nat
  asid : BitVec 12
  ctxid : BitVec 16
  kind : Nat
  info : FaultInfo
  pc : CodeAddr
  engine : Option (Nat × Nat) := none
  arg : Val := { bits := 0 }
  attached : List Key := []
  engines : List (Key × Nat) := []
  /-- where it stands in memory once written, and its index in the queue -/
  at_ : Option Nat := none
  idx : Nat := 0
  /-- KIND 7: the leading record and which sixteen of its contexts, counted from 1 -/
  lead : Option (Nat × Nat) := none
  live : Bool := true
  /-- in its queue; false from the fault until a context that has met it stands in its frame (R351) -/
  posted : Bool := true
deriving DecidableEq, Repr

/-- A replica in a gateway cache (R109); its state is that of `md`, PRIVATE for type 0. -/
structure Replica where
  gate : Nat
  snap : LineSnap
  gen : BitVec 8
  /-- the address spaces and line addresses it was read through -/
  names : List (BitVec 12 × Nat) := []
deriving DecidableEq, Repr

/-- A scale-out link (R118, R120, R372). -/
structure Link where
  up : Bool := false
  farId : Option (BitVec 12) := none
deriving DecidableEq, Repr

/-- A launch queue's registers (R366). -/
structure Queue where
  ring : Word := 0
  rsize : Word := 0
  tail : BitVec 32 := 0
  head : BitVec 32 := 0
  comp : Word := 0
  ctail : BitVec 32 := 0
  mode : BitVec 2 := 0
  suspend : Bool := false
  en : Bool := false
  suspended : Bool := false
  tdbuf : Word := 0
  tdcap : BitVec 32 := 0
  rlog : Word := 0
  rlogsize : BitVec 32 := 0
  rlogCount : Nat := 0
  /-- the keys of the tasks that have started since the log began (R377) -/
  rlogKeys : List Word := []
  /-- a teardown is under way: a task of the queue is still inside a unit (R361); and what it has counted so far: the tasks
  killed, the records dropped and the addresses of the cells orphaned (R362) -/
  tearing : Bool := false
  tornTasks : Nat := 0
  tornRecords : Nat := 0
  tornCells : List Word := []
deriving DecidableEq, Repr

/-- A live launch (R309, R332, R378). -/
structure Launch where
  id : Nat
  /-- the queue it came through; a legacy LAUNCH has none -/
  queue : Option (Fin 64)
  tag : Word
  mode : BitVec 2
  asid : BitVec 12
  /-- 0 record, 1 graph, 2 image load, 3 legacy -/
  kind : Nat
  ended : Nat := 0
  reaped : Nat := 0
  nd : Nat := 0
  ndPc : Option CodeAddr := none
  keys : List Word := []
  dup : Bool := false
deriving DecidableEq, Repr

/-- What a node of a live graph does (R323). -/
inductive NodeState where
  | pending | ready | running | completeRun | completeSkip
deriving DecidableEq, Repr

/-- A node of a live graph: pending count, whether a counted completion was a run, iteration and progress (R323, R327). -/
structure GNode where
  idx : Nat
  pending : Nat
  anyRun : Bool := false
  state : NodeState := .pending
  w : Nat := 0
  done : Nat := 0
  /-- COND: the edge that completes as run -/
  taken : Option Nat := none
  /-- COPY: it is a migration copy (R105, R129) -/
  mig : Bool := false
deriving DecidableEq, Repr

/-- A live graph on its walker (R319, R329). -/
structure Graph where
  id : Nat
  launch : Nat
  base : Nat
  count : Nat
  walker : Nat
  nodes : List GNode
  /-- the bodies of its WHILE nodes: the node, BODYFIRST and BODYLAST -/
  bodies : List (Nat × Nat × Nat) := []
  failed : Option (FaultCode × Nat) := none
  ended : Bool := false
deriving DecidableEq, Repr

/-- A command of the legacy window with the command processor (R303). -/
structure Legacy where
  k : Key
  core : Nat
  sys : Bool
  op : Nat
  src : BitVec 48
  dst : BitVec 48
  len : Nat
  cell : BitVec 48
  pc : CodeAddr
  launch : Nat
  key : Word
  /-- the units of a copy performed; 1 once the record of a LAUNCH is delivered -/
  done : Nat := 0
  /-- which start of a task submitted it -/
  born : Nat := 0
  /-- its copy is a migration copy (R105, R129) -/
  mig : Bool := false
deriving DecidableEq, Repr

/-- A TLBINV or an L1INV in progress (R99, R298, R299). -/
structure Inval where
  id : Nat
  by_ : Option Key
  asid : BitVec 12
  lo : Nat
  size : Nat
  l1Only : Bool
  /-- the messages in flight it waits for, whom their answers go to, and the joins, fills and stores it waits to see
  acknowledged -/
  msgs : List Nat
  whos : List Who := []
  outs : List (Key × Nat)
deriving DecidableEq, Repr

/-- An image load (R33 to R35). -/
structure Load where
  id : Nat
  launch : Nat
  asid : BitVec 12
  /-- the ranges of the images' sections, in which handlers may lie (R25, R35) -/
  texts : List (Nat × Nat)
  /-- the text of each image, in order: the image, an address and a size -/
  imageText : List (Nat × Nat × Nat) := []
  /-- the cores placed, each with its image -/
  placed : List (Nat × Nat)
  edges : List (Nat × Nat)
  /-- cores that have acknowledged -/
  acked : List Nat := []
  sent : List Nat := []
deriving DecidableEq, Repr

/-- BAR1's registers (R365) but for what other fields hold. -/
structure Regs1 where
  astbase : Word := 0
  svcbase : Word := 0
  notifybase : Word := 0
  cntthresh : Nat := 256
  timeslice : Nat := 2000
  hostasid : BitVec 12 := 0
  logbase : Word := 0
  logsize : Nat := 0
  pkgvalid : Bool := false
  pkgid : BitVec 12 := 0
  logprod : BitVec 32 := 0
deriving DecidableEq, Repr

/-- An entry of the record log (R377): what stands in memory for it, task key, instruction count, kind, outcome. -/
structure LogEntry where
  image : BitVec 256
  key : Word
  icount : Word
  kind : Nat
  outcome : List Word
deriving DecidableEq, Repr

/-- Who acts next: a core's context, or an event. -/
inductive Turn where
  | core (c : Nat)
  | event (i : Instr)
deriving DecidableEq, Repr

/-- The package. -/
structure State where
  /-- memory of every tier and package (R89, R80): the key is the package's index times 2^52 plus the physical address,
  index 0 being this package and index p + 1 the package of id p -/
  mem : Mem := {}
  /-- line metadata bytes by line number (R63) -/
  md : Memory := []
  watches : List Watch := []
  /-- scratchpads by core times 2^21 (R121) and accumulator stores by core times 2^18 (R138) -/
  scratch : Mem := {}
  acc : Mem := {}
  /-- the register blocks of slots that hold no context (R138, R139), by core times 2^24 plus the offset in the block -/
  spare : Mem := {}
  cur : Context
  busy : Bool := false
  ctxs : List Context := []
  cores : List Core := []
  chans : List Channel := []
  crews : List Crew := []
  transit : List Transit := []
  msgs : List Msg := []
  replicas : List Replica := []
  /-- lines a migration copy has moved, and where to (R105) -/
  forwards : List (Nat × Nat) := []
  tlb : List TlbEntry := []
  tableCache : List TableEntry := []
  counters : List (Nat × Nat) := []
  /-- lines whose poisoning waits for the gateways' acknowledgements (R111) -/
  poisoning : List Nat := []
  bar1 : Regs1 := {}
  queues : Vector Queue 64 := Vector.replicate 64 {}
  launches : List Launch := []
  graphs : List Graph := []
  records : List FaultRec := []
  /-- the joins into fault queues' cells that wait for a page with JBLOCK = 1 (R104, R352): address space and cell -/
  queueJoins : List (BitVec 12 × Nat) := []
  resumes : List (Key × Bool) := []
  legacy : List Legacy := []
  invals : List Inval := []
  loads : List Load := []
  halves : List (Nat × Bool × BitVec 512) := []
  links : Vector Link 12 := Vector.replicate 12 {}
  /-- the sizes of the torus's rings in x, y and z (R118, R119; notes/assumptions/12.md) -/
  rings : Vector Nat 3 := Vector.replicate 3 16
  /-- failed die-to-die edges, edge n joining BDn and BD(n + 1 mod 4) (R374) -/
  edges : BitVec 4 := 0
  /-- fenced base dies and memory dies (R371, R375), dies that have stopped issuing after a split (R374) -/
  fencedBase : BitVec 4 := 0
  fencedDies : BitVec 8 := 0
  stoppedDies : BitVec 4 := 0
  /-- the requests made through BAR1, in order, and the dies whose request has been carried out (R375) -/
  offline : List (Fin 8 × Bool) := []
  /-- the model's own: the offline orders that the management port has had carried out, of which a later contrary one of the
  host falls short (R371; notes/assumptions/57.md) -/
  mgmtOffline : List (Fin 8 × Bool) := []
  emptied : BitVec 8 := 0
  lost : List (Nat × Nat) := []
  /-- readings that uncorrectable errors would spoil: line number and whether of instructions (R198) -/
  fetchErrors : List Nat := []
  vectors : BitVec 66 := 0
  /-- what the host has received: data of its reads, `none` a poisoned completion (R364) -/
  hostReplies : List (Option (BitVec 512)) := []
  hostWrites : List Bool := []
  mgmtReplies : List Word := []
  poisonLog : List Nat := []
  rlog : List LogEntry := []
  standby : Bool := false
  standbyDown : Bool := false
  firmware : BitVec 64 := 0
  throttled : Bool := false
  /-- the model's own (notes/assumptions/5.md, 3.md, 6.md) -/
  turn : Nat := 0
  stalled : Bool := false
  sched : List Turn := []
  nextMsg : Nat := 0
  nextSeq : Nat := 0
  free : Nat := 0
  /-- what a cache still holds at the next look-ups, in turn; an empty list stands for held (notes/assumptions/7.md) -/
  choices : List Bool := []
  /-- how many of a queue's completions the host has not consumed at the next looks at a launch ring, in turn; an empty list
  stands for none (R367; notes/assumptions/39.md) -/
  unread : List Nat := []
  framePool : List Nat := []
  /-- how many responses a home may hold that have not left it (R114; notes/assumptions/73.md) -/
  homeRoom : Nat := 16
  /-- the next free 4 KiB frame for image loads, and the free pages, place and size, that an offline request may fill
  (notes/assumptions/14.md) -/
  loadPage : Nat := 0x4000000
  freePages : List (Nat × Nat) := []
deriving DecidableEq, Repr

/-- A register file of zeros (R144). -/
def Regs.zero : Regs where
  pc := 0
  g := Vector.replicate 32 { bits := 0 }
  q := Vector.replicate 16 { bits := 0 }
  v := Vector.replicate 16 { bits := 0 }
  y := Vector.replicate 8 { bits := 0 }
  b := Vector.replicate 8 {}
  status := 0
  mode := 0
  seed := 0
  ndlog := 0
  icount := 0

/-- The value of the `cur` field while no context has the turn; nothing reads it then. -/
def Context.empty : Context where
  key := { asid := 0, ctxid := 0 }
  core := 0
  slot := none
  status := .stopped
  regs := Regs.zero

/-- The package right after reset: the registers of BAR0 and BAR1 at their Reset columns (R365, R366), no context, no
record, empty queues and caches, every link down (R372). -/
def State.reset : State := { cur := Context.empty }

end Sys2Proof.Machine
end

