-- ==== Sys2Proof/Machine/Bits.lean ====
section
/-! DEFINITION. Bit fields, sign extension, byte order, and the operations on byte spaces. Byte order is decided here,
once (spec/00_scope.md R6). -/
namespace Sys2Proof.Machine

/-- Bits [lo + n - 1 : lo] of a number. -/
def bitsOf (x lo n : Nat) : Nat := x / 2 ^ lo % 2 ^ n

/-- Bits [lo + n - 1 : lo] of a word. -/
def wbits (x : Word) (lo n : Nat) : Nat := bitsOf x.toNat lo n

/-- The `n`-bit number `x` in two's complement. -/
def signed (n x : Nat) : Int := if x % 2 ^ n < 2 ^ (n - 1) then (x % 2 ^ n : Nat) else (x % 2 ^ n : Nat) - (2 ^ n : Nat)

/-- An integer as an `n`-bit pattern. -/
def unsignedOf (n : Nat) (x : Int) : Nat := (x % (2 ^ n : Nat)).toNat

/-- Sx(v, n) of R193 to 64 bits. -/
def sext64 {n : Nat} (v : BitVec n) : Word := v.signExtend 64

/-- `x` rounded down to a multiple of `n`. -/
def alignDown (x n : Nat) : Nat := x / n * n

/-- Whether two byte ranges share a byte. -/
def overlaps (a n b m : Nat) : Bool := decide (a < b + m) && decide (b < a + n) && decide (0 < n) && decide (0 < m)

/-- Whether [a, a + n) lies in [b, b + m). -/
def inside (a n b m : Nat) : Bool := decide (b ≤ a) && decide (a + n ≤ b + m)

/-- The byte at an address; an address that is not listed reads as zero. -/
def Memory.read : Memory → Nat → Byte
  | [], _ => 0
  | (a', b) :: r, a => if a = a' then b else Memory.read r a

/-- A memory with one byte written, in canonical form. -/
def Memory.write : Memory → Nat → Byte → Memory
  | [], a, b => if b = 0 then [] else [(a, b)]
  | (a', b') :: r, a, b =>
    if a < a' then (if b = 0 then (a', b') :: r else (a, b) :: (a', b') :: r)
    else if a = a' then (if b = 0 then r else (a, b) :: r)
    else (a', b') :: Memory.write r a b

/-- The canonical form: addresses strictly rising, no zero byte listed. -/
def Memory.wf : Memory → Bool
  | [] => true
  | (a, b) :: r => decide (b ≠ 0) && r.all (fun c => decide (a < c.1)) && Memory.wf r

/-- `n` bytes at rising addresses as a little-endian number (R6). -/
def Memory.readN (m : Memory) (a : Nat) : Nat → Nat
  | 0 => 0
  | n + 1 => (m.read a).toNat + 256 * Memory.readN m (a + 1) n

/-- The `n` low bytes of a number written at rising addresses, least significant first (R6). -/
def Memory.writeN (m : Memory) (a : Nat) : Nat → Nat → Memory
  | 0, _ => m
  | n + 1, x => Memory.writeN (m.write a (BitVec.ofNat 8 x)) (a + 1) n (x / 256)

/-- `n` bytes set to one value. -/
def Memory.fill (m : Memory) (a : Nat) (b : Byte) : Nat → Memory
  | 0 => m
  | n + 1 => Memory.fill (m.write a b) (a + 1) b n

/-- The bytes outside [a, a + n). -/
def Memory.clear (m : Memory) (a n : Nat) : Memory := m.filter (fun c => !(decide (a ≤ c.1) && decide (c.1 < a + n)))

/-- `n` bytes of a byte space as a number. -/
def Mem.readN (m : Mem) (a n : Nat) : Nat := m.cells.readN a n

/-- Whether any of `n` bytes carries a poison mark (R350). -/
def Mem.marked (m : Mem) (a n : Nat) : Bool := (List.range n).any (fun i => decide (m.marks.read (a + i) ≠ 0))

/-- The marks of `n` bytes, bit i for byte i. -/
def Mem.markBits (m : Mem) (a n : Nat) : Nat := (List.range n).foldl
  (fun acc i => if m.marks.read (a + i) ≠ 0 then acc + 2 ^ i else acc) 0

/-- `n` bytes written, with one mark for all of them (R350). -/
def Mem.writeN (m : Mem) (a n x : Nat) (mark : Bool) : Mem where
  cells := m.cells.writeN a n x
  marks := m.marks.fill a (if mark then 1 else 0) n

/-- `n` bytes written with a mark each, bit i for byte i. -/
def Mem.writeMarks (m : Mem) (a n x marks : Nat) : Mem where
  cells := m.cells.writeN a n x
  marks := (List.range n).foldl (fun k i => k.write (a + i) (if marks / 2 ^ i % 2 = 1 then 1 else 0)) m.marks

/-- `n` bytes set to zero, unmarked. -/
def Mem.clear (m : Mem) (a n : Nat) : Mem where
  cells := m.cells.clear a n
  marks := m.marks.clear a n

/-- Both parts are in canonical form. -/
def Mem.wf (m : Mem) : Bool := m.cells.wf && m.marks.wf

/-- Lane `l` of a vector (R169). -/
def lane (x : VecBits) (l : Nat) : BitVec 32 := x.extractLsb' (32 * l) 32

/-- Element `e` of width `w` of a vector, as a number (R169, R244). -/
def elemOf (x : VecBits) (w e : Nat) : Nat := (x.extractLsb' (w * e) w).toNat

/-- The elements of a list packed `w` bits each, the first lowest. -/
def packList (w : Nat) (xs : List Nat) : Nat := xs.foldr (fun x acc => x % 2 ^ w + 2 ^ w * acc) 0

/-- The vector whose element `e` of width `w` is `f e`, for e from 0 to n - 1. -/
def packElems (w n : Nat) (f : Nat → Nat) : VecBits := BitVec.ofNat 4096 (packList w ((List.range n).map f))

/-- The mask with all 32 bits of each lane of `m` set. -/
def laneMask (m : BitVec 128) : VecBits := packElems 32 128 (fun l => if m.getLsbD l then 2 ^ 32 - 1 else 0)

end Sys2Proof.Machine
end

