-- ==== Sys2Proof/Machine/Formats.lean ====
section
/-! DEFINITION. The 32 element formats, codebooks, exact values and rounding (spec/02_number_formats.md R36 to R51). -/
namespace Sys2Proof.Machine

/-! Exact values. -/

/-- An exact nonzero magnitude, or a magnitude between `mant` and `mant + 1` units of 2^`exp` when `sticky` is set. -/
structure Exact where
  neg : Bool
  mant : Nat
  exp : Int
  sticky : Bool := false
deriving DecidableEq, Repr

/-- What a code stands for (R37, R38). A NaN keeps its sign, its mantissa bits left-aligned to 23, and whether it is
signaling. -/
inductive FValue where
  | nan (neg : Bool) (payload : Nat) (signaling : Bool)
  | inf (neg : Bool)
  | zero (neg : Bool)
  /-- ± mant × 2^exp, mant not 0 -/
  | fin (neg : Bool) (mant : Nat) (exp : Int)
deriving DecidableEq, Repr

/-- A float format (R36, R38): exponent and mantissa bits, bias, the largest finite code, and what is above it. -/
structure FFmt where
  eb : Nat
  mb : Nat
  bias : Nat
  /-- the code without sign of the largest finite value -/
  maxCode : Nat
  /-- infinities and NaNs as in IEEE-754 -/
  ieee : Bool
  /-- the one NaN code of E4M3 -/
  nan4 : Bool := false
deriving DecidableEq, Repr

/-- A format with infinities. -/
def FFmt.ofIeee (eb mb bias : Nat) : FFmt where
  eb := eb
  mb := mb
  bias := bias
  maxCode := (2 ^ eb - 1) * 2 ^ mb - 1
  ieee := true

/-- A format all of whose codes are finite. -/
def FFmt.ofFinite (eb mb bias : Nat) : FFmt where
  eb := eb
  mb := mb
  bias := bias
  maxCode := 2 ^ (eb + mb) - 1
  ieee := false

/-- The float formats by code, E8M0 apart (R36). -/
def FFmt.ofCode : Nat → Option FFmt
  | 0 => some (.ofIeee 8 23 127)
  | 1 => some (.ofIeee 8 10 127)
  | 2 => some (.ofIeee 8 7 127)
  | 3 => some (.ofIeee 5 10 15)
  | 4 => some (.ofIeee 5 2 15)
  | 5 => some { eb := 4, mb := 3, bias := 7, maxCode := 0x7E, ieee := false, nan4 := true }
  | 6 => some (.ofFinite 3 4 3)
  | 7 => some (.ofFinite 2 5 1)
  | 8 => some (.ofFinite 3 2 3)
  | 9 => some (.ofFinite 2 3 1)
  | 10 => some (.ofFinite 2 1 1)
  | 11 => some (.ofFinite 1 2 0)
  | _ => none

/-- E8M23, called FP32. -/
def fp32 : FFmt := .ofIeee 8 23 127

/-- E5M10. -/
def e5m10 : FFmt := .ofIeee 5 10 15

/-- E8M7, called BF16. -/
def bf16 : FFmt := .ofIeee 8 7 127

/-- The bits of a code with its sign. -/
def FFmt.width (f : FFmt) : Nat := 1 + f.eb + f.mb

/-- The exponent of the smallest normal value. -/
def FFmt.emin (f : FFmt) : Int := 1 - (f.bias : Int)

/-- The infinity's code without sign. -/
def FFmt.infCode (f : FFmt) : Nat := (2 ^ f.eb - 1) * 2 ^ f.mb

/-- The canonical NaN (R49). -/
def FFmt.canonicalNan (f : FFmt) : Nat := if f.nan4 then 0x7F else f.infCode + 2 ^ (f.mb - 1)

/-- A code with a sign. -/
def FFmt.withSign (f : FFmt) (neg : Bool) (code : Nat) : Nat := code + (if neg then 2 ^ (f.eb + f.mb) else 0)

/-- The value of a code (R37, R38). (notes/assumptions/21.md) -/
def FFmt.decode (f : FFmt) (x : Nat) : FValue :=
  let neg := bitsOf x (f.eb + f.mb) 1 == 1
  let code := x % 2 ^ (f.eb + f.mb)
  let e := code / 2 ^ f.mb
  let m := code % 2 ^ f.mb
  if f.nan4 && code == 0x7F then .nan neg (7 * 2 ^ 20) false
  else if f.ieee && e == 2 ^ f.eb - 1 then
    if m = 0 then .inf neg else .nan neg (m * 2 ^ (23 - f.mb)) (decide (m < 2 ^ (f.mb - 1)))
  else if e = 0 then
    if m = 0 then .zero neg else .fin neg m (1 - (f.bias : Int) - f.mb)
  else .fin neg (2 ^ f.mb + m) ((e : Int) - f.bias - f.mb)

/-- An exact integer as a value: that 0 is +0 is the model's choice (notes/assumptions/81.md). -/
def FValue.ofInt (x : Int) : FValue := if x = 0 then .zero false else .fin (decide (x < 0)) x.natAbs 0

/-- The sign of a value. -/
def FValue.neg : FValue → Bool
  | .nan n _ _ => n
  | .inf n => n
  | .zero n => n
  | .fin n _ _ => n

/-- A value is a NaN. -/
def FValue.isNan : FValue → Bool
  | .nan .. => true
  | _ => false

/-- A value is a signaling NaN. -/
def FValue.isSignaling : FValue → Bool
  | .nan _ _ s => s
  | _ => false

/-- A value is an infinity. -/
def FValue.isInf : FValue → Bool
  | .inf _ => true
  | _ => false

/-- A value is a zero. -/
def FValue.isZero : FValue → Bool
  | .zero _ => true
  | _ => false

/-- A finite value as a signed multiple of a power of two. -/
def FValue.dyadic : FValue → Int × Int
  | .fin n m e => (if n then -(m : Int) else m, e)
  | _ => (0, 0)

/-- An exact integer scaled by a power of two, where it is not zero. -/
def Exact.ofDyadic (d : Int × Int) : Exact where
  neg := decide (d.1 < 0)
  mant := d.1.natAbs
  exp := d.2

/-- `x * 2^k`, for k not below the exponent the sum is aligned to. -/
def scaleInt (x : Int) (k : Int) : Int := x * (2 ^ k.toNat : Nat)

/-- An exact sum of two scaled integers. -/
def addDyadic (a b : Int × Int) : Int × Int :=
  if a.1 = 0 then b
  else if b.1 = 0 then a
  else
    let e := min a.2 b.2
    (scaleInt a.1 (a.2 - e) + scaleInt b.1 (b.2 - e), e)

/-- An exact product of two scaled integers. -/
def mulDyadic (a b : Int × Int) : Int × Int := (a.1 * b.1, a.2 + b.2)

/-! Rounding (R45 to R47). -/

/-- SrBits before the bits are taken, the mix of R47 and R377. -/
def srMix (seed icount elem : Nat) : Nat :=
  let m := 2 ^ 64
  let z := (seed ^^^ (icount * 4096 % m) ^^^ elem) % m
  let z := (z + 0x9E3779B97F4A7C15) % m
  let z := (z ^^^ (z / 2 ^ 30)) * 0xBF58476D1CE4E5B9 % m
  let z := (z ^^^ (z / 2 ^ 27)) * 0x94D049BB133111EB % m
  z ^^^ (z / 2 ^ 31)

/-- SrBits of R47. -/
def srBits (seed icount elem : Nat) : Nat := bitsOf (srMix seed icount elem) 40 24

/-- The place of the highest bit of a number that is not 0. -/
def topBit (n : Nat) : Nat := Nat.log2 n

/-- A rounding: the mode's code (R45), and what stochastic rounding draws from (R47). -/
structure Rounding where
  mode : Nat
  seed : Nat := 0
  icount : Nat := 0
  elem : Nat := 0
deriving DecidableEq, Repr

/-- Round to nearest even. -/
def rne : Rounding := { mode := 0 }

/-- Whether a magnitude `n + (rem [+ less than 1]) / 2^k` that is not a whole number is rounded up in magnitude. -/
def roundsUp (r : Rounding) (neg : Bool) (n rem k : Nat) (sticky : Bool) : Bool :=
  let half := 2 ^ (k - 1)
  let above := decide (half < rem) || (rem == half && sticky)
  let tie := rem == half && !sticky
  match r.mode with
  | 0 => above || (tie && n % 2 == 1)
  | 1 => false
  | 2 => neg
  | 3 => !neg
  | 4 => above || tie
  | _ =>
    let rnd := srBits r.seed r.icount r.elem
    if neg then
      let frac := ((2 ^ k - rem) * 2 ^ 24 - (if sticky then 1 else 0)) / 2 ^ k
      !decide (rnd < frac)
    else decide (rnd < rem * 2 ^ 24 / 2 ^ k)

/-- A rounded magnitude: `n` units of 2^`q`, and whether it differs from the exact value. -/
structure Rounded where
  neg : Bool
  n : Nat
  q : Int
  inexact : Bool
deriving DecidableEq, Repr

/-- A magnitude rounded to a multiple of 2^`q` (R45). -/
def roundAt (r : Rounding) (x : Exact) (q : Int) : Rounded :=
  if q ≤ x.exp then
    { neg := x.neg, n := x.mant * 2 ^ (x.exp - q).toNat, q := q, inexact := false }
  else
    let k := (q - x.exp).toNat
    let n := x.mant / 2 ^ k
    let rem := x.mant % 2 ^ k
    if rem = 0 && !x.sticky then { neg := x.neg, n := n, q := q, inexact := false }
    else { neg := x.neg, n := if roundsUp r x.neg n rem k x.sticky then n + 1 else n, q := q, inexact := true }

/-- The exponent of a magnitude. -/
def Exact.top (x : Exact) : Int := (topBit x.mant : Int) + x.exp

/-- A value rounded to a format taken with its exponent range unbounded above (R46). (notes/assumptions/17.md) -/
def FFmt.round (f : FFmt) (r : Rounding) (x : Exact) : Rounded := roundAt r x (max x.top f.emin - f.mb)

/-- The code without sign of a rounded magnitude, continued above the largest finite code (R46). -/
def FFmt.codeOf (f : FFmt) (r : Rounded) : Nat :=
  if r.n = 0 then 0
  else if r.n < 2 ^ f.mb then r.n
  else
    let up := decide (2 ^ (f.mb + 1) ≤ r.n)
    let n := if up then r.n / 2 else r.n
    let q := if up then r.q + 1 else r.q
    (q + f.mb + f.bias).toNat * 2 ^ f.mb + (n - 2 ^ f.mb)

/-- The code an overflow gives without saturation (R49): above the largest finite value the format has an infinity, the
NaN of E4M3, or nothing. (notes/assumptions/17.md) -/
def FFmt.overflowCode (f : FFmt) (r : Rounding) (neg : Bool) : Nat :=
  let top := if f.ieee then f.infCode else if f.nan4 then 0x7F else f.maxCode
  match r.mode with
  | 1 => f.maxCode
  | 2 => if neg then top else f.maxCode
  | 3 => if neg then f.maxCode else top
  | _ => top

/-! Integers and codebooks. -/

/-- An integer format: bits and whether it is signed; T2 and B1 apart (R42). -/
structure IFmt where
  bits : Nat
  signed : Bool
deriving DecidableEq, Repr

/-- The integer formats by code (R36). -/
def IFmt.ofCode : Nat → Option IFmt
  | 13 => some ⟨16, true⟩ | 14 => some ⟨16, false⟩ | 15 => some ⟨8, true⟩ | 16 => some ⟨8, false⟩
  | 17 => some ⟨6, true⟩ | 18 => some ⟨6, false⟩ | 19 => some ⟨4, true⟩ | 20 => some ⟨4, false⟩
  | 21 => some ⟨3, true⟩ | 22 => some ⟨3, false⟩ | 23 => some ⟨2, true⟩ | 24 => some ⟨2, false⟩
  | 27 => some ⟨1, false⟩
  | _ => none

/-- The stored width of a format (R36): 8n for a codebook CBn. -/
def fmtWidth : Nat → Nat
  | 0 => 32 | 1 => 32 | 2 => 16 | 3 => 16 | 4 => 8 | 5 => 8 | 6 => 8 | 7 => 8 | 8 => 6 | 9 => 6 | 10 => 4 | 11 => 4
  | 12 => 8 | 13 => 16 | 14 => 16 | 15 => 8 | 16 => 8 | 17 => 6 | 18 => 6 | 19 => 4 | 20 => 4 | 21 => 3 | 22 => 3
  | 23 => 2 | 24 => 2 | 25 => 2 | 26 => 1 | 27 => 1 | 28 => 8 | 29 => 16 | 30 => 24 | _ => 32

/-- Codes 13 to 27 are integers (R55). -/
def isIntFmt (c : Nat) : Bool := decide (13 ≤ c) && decide (c ≤ 27)

/-- Codes 28 to 31 are codebooks. -/
def isCodebook (c : Nat) : Bool := decide (28 ≤ c)

/-- The integer an element of an integer format stands for (R42). -/
def intValue (c x : Nat) : Int :=
  match c with
  | 25 => match x % 4 with
    | 1 => 1
    | 3 => -1
    | _ => 0
  | 26 => if x % 2 = 0 then 1 else -1
  | _ => match IFmt.ofCode c with
    | some f => if f.signed then signed f.bits x else (x % 2 ^ f.bits : Nat)
    | none => 0

/-- The value of an element of a float or integer format (R37 to R42). E8M10 reads the upper bits of its container (R40). -/
def elemValue (c x : Nat) : FValue :=
  match c with
  | 1 => (FFmt.ofIeee 8 10 127).decode (x / 2 ^ 13 % 2 ^ 19)
  | 12 => if x % 256 = 255 then .nan false (2 ^ 22) false else .fin false 1 ((x % 256 : Nat) - 127)
  | _ => match FFmt.ofCode c with
    | some f => f.decode (x % 2 ^ f.width)
    | none => .ofInt (intValue c x)

/-- DecodeCB of R43: twice the eight coordinates. -/
def decodeCb (n idx : Nat) : List Int :=
  let m := n - 1
  let half := bitsOf idx (8 * m + 7) 1 == 1
  let k (i : Nat) : Nat := if m = 0 then 0 else bitsOf idx (m * i) m
  let neg (i : Nat) : Bool := bitsOf idx (8 * m + i) 1 == 1
  let sgn (b : Bool) (x : Int) : Int := if b then -x else x
  if half then
    let lows := (List.range 7).map (fun i => sgn (neg i) (2 * k i + 1))
    let s2 : Int := lows.foldl (· + ·) 0 + (2 * k 7 + 1)
    let s := s2 / 2
    lows ++ [sgn (s % 2 != 0) (2 * k 7 + 1)]
  else
    let sum := ((List.range 7).map k).foldl (· + ·) 0
    let neg7 := decide (0 < m) && bitsOf idx (7 * m) 1 == 1
    let k7 := if m = 0 then 0 else k 7 - k 7 % 2 + sum % 2
    (List.range 7).map (fun i => sgn (neg i) (2 * k i)) ++ [sgn neg7 (2 * k7)]

/-- Coordinate `i` of a codebook index as a value (R44). -/
def cbValue (c idx i : Nat) : FValue :=
  let x := ((decodeCb (c - 27) idx)[i % 8]?).getD 0
  if x = 0 then .zero false else .fin (decide (x < 0)) x.natAbs (-1)

/-! Roots, powers and logarithms to more bits than any rounding looks at (notes/assumptions/10.md). -/

/-- The integer square root of a number below 4^`k`. -/
def isqrt : Nat → Nat → Nat
  | 0, _ => 0
  | k + 1, n =>
    let r := isqrt k (n / 4)
    if (2 * r + 1) * (2 * r + 1) ≤ n then 2 * r + 1 else 2 * r

/-- The square root of a value of positive sign. -/
def exactSqrt (m : Nat) (e : Int) : Exact :=
  let odd := e % 2 != 0
  let m1 := (if odd then 2 * m else m) * 4 ^ 64
  let e1 := (if odd then e - 1 else e) / 2 - 64
  let r := isqrt (topBit m1 / 2 + 1) m1
  { neg := false, mant := r, exp := e1, sticky := r * r != m1 }

/-- The reciprocal. -/
def exactRecip (neg : Bool) (m : Nat) (e : Int) : Exact :=
  let s := topBit m + 90
  { neg := neg, mant := 2 ^ s / m, exp := -e - s, sticky := 2 ^ s % m != 0 }

/-- The reciprocal of the square root of a value of positive sign. -/
def exactRsqrt (m : Nat) (e : Int) : Exact :=
  let odd := e % 2 != 0
  let m1 := if odd then 2 * m else m
  let e1 := (if odd then e - 1 else e) / 2
  let s := topBit m1 + 90
  let r := isqrt (s + 1) (4 ^ s / m1)
  { neg := false, mant := r, exp := -e1 - s, sticky := r * r * m1 != 4 ^ s }

/-- The working precision of powers and logarithms, in bits. -/
def workBits : Nat := 320

/-- ln 2 in units of 2^-320, from below: the sum of 1 / (k 2^k). -/
def ln2Work : Nat := (List.range 330).foldl (fun acc i => acc + 2 ^ workBits / ((i + 1) * 2 ^ (i + 1))) 0

/-- e^x in units of 2^-320 for x below 1 in the same units, from below: `n` terms of its series from the innermost. -/
def expSeries (x : Nat) : Nat → Nat → Nat
  | 0, _ => 2 ^ workBits
  | n + 1, k => 2 ^ workBits + x * expSeries x n (k + 1) / (k * 2 ^ workBits)

/-- 2^x for x = ± m × 2^e, with exponents out of every format's reach cut to ±4096. -/
def exactExp2 (neg : Bool) (m : Nat) (e : Int) : Exact :=
  let x := Exact.top { neg := neg, mant := m, exp := e }
  if 12 ≤ x then { neg := false, mant := 2 ^ 90, exp := if neg then -4096 - 90 else 4096 - 90, sticky := true }
  else if x < -300 then
    if neg then { neg := false, mant := 2 ^ 300 - 1, exp := -300, sticky := true }
    else { neg := false, mant := 2 ^ 300, exp := -300, sticky := true }
  else
    let sm : Int := if neg then -(m : Int) else m
    let scaled : Int := if 0 ≤ e + workBits then scaleInt sm (e + workBits) else sm / (2 ^ (-(e + workBits)).toNat : Nat)
    let i := scaled / (2 ^ workBits : Nat)
    let f := (scaled % (2 ^ workBits : Nat)).toNat
    if f = 0 then { neg := false, mant := 1, exp := i }
    else
      let y := expSeries (f * ln2Work / 2 ^ workBits) 80 1
      { neg := false, mant := y / 2 ^ 10, exp := i - workBits + 10, sticky := true }

/-- `n` binary digits of log2 t for t in [1, 2) in units of 2^-320, by repeated squaring. -/
def logDigits : Nat → Nat → Nat
  | 0, _ => 0
  | n + 1, t =>
    let s := t * t / 2 ^ workBits
    if 2 ^ (workBits + 1) ≤ s then 2 ^ n + logDigits n (s / 2) else logDigits n s

/-- log2 of m × 2^e; none where it is zero. -/
def exactLog2 (m : Nat) (e : Int) : Option Exact :=
  let t := topBit m
  let i := (t : Int) + e
  if m = 2 ^ t then
    if i = 0 then none else some { neg := decide (i < 0), mant := i.natAbs, exp := 0 }
  else
    let d := 110
    let y := logDigits d (m * 2 ^ workBits / 2 ^ t)
    let v : Int := i * (2 ^ d : Nat) + y
    if 0 ≤ i then some { neg := false, mant := v.toNat, exp := -110, sticky := true }
    else some { neg := true, mant := (-v - 1).toNat, exp := -110, sticky := true }

end Sys2Proof.Machine
end

