-- ==== Sys2Proof/WellFormed.lean ====
section
/-! DEFINITION. Which instructions pass step 3 of the checks of every issued instruction
(spec/07_registers_and_encodings.md R162, R163, R165, R166, R167), and the classes of instructions that the checks of
steps 1 and 2 and the rules on units look at. -/
namespace Sys2Proof

/-- A scalar specifier that may be a source (R162). -/
def Scalar.srcOk : Scalar → Bool
  | .rsv _ => false
  | _ => true

/-- A scalar specifier that may be a destination: a general register, q1 or a port (R162). -/
def Scalar.dstOk : Scalar → Bool
  | .g _ => true
  | .q a => a.val == 0
  | .c _ => true
  | .rsv _ => false

/-- A general register. -/
def Scalar.isG : Scalar → Bool
  | .g _ => true
  | _ => false

/-- A channel port. -/
def Scalar.isPort : Scalar → Bool
  | .c _ => true
  | _ => false

/-- A scalar destination that is read as well: no port (R208). -/
def Scalar.rwOk (x : Scalar) : Bool := x.dstOk && !x.isPort

/-- A vector specifier that may be a destination (R162). -/
def VSpec.dstOk : VSpec → Bool
  | .y a => a.val == 0
  | _ => true

/-- A channel port. -/
def VSpec.isPort : VSpec → Bool
  | .c _ => true
  | _ => false

/-- A vector destination that is read as well: no port (R159, R231). -/
def VSpec.rwOk (x : VSpec) : Bool := x.dstOk && !x.isPort

/-- The type field of VFLOAT, VINT, VIOTA and VKEY (R163): three values are assigned. -/
def laneTypeOk (t : Fin 8) : Bool := t.val < 3

/-- The type field of VREDUCE (R245). -/
def reduceTypeOk (t : Fin 8) : Bool := t.val != 3 && t.val != 7

/-- The type field of VPACK and VUNPACK (R244). -/
def packTypeOk (t : Fin 8) : Bool := t.val == 1 || t.val == 2 || t.val == 3

/-- The system register numbers R154 assigns. -/
def sysRegOk (n : Fin 64) : Bool := n.val < 14 || (16 ≤ n.val && n.val ≤ 20)

/-- The cores of the package are numbered 0 to 767 (R2). -/
def coreOk (n : Nat) : Bool := n < 768

/-- Step 3 of R167: specifiers, type fields and system register numbers. An event has no encoding and nothing to check. -/
def Instr.wf : Instr → Bool
  | .vguard _ _ n => n.val < 16
  | .vaddF32S d _ | .vsubF32S d _ | .vmulF32S d _ | .vfmaF32S d _ | .vmaxF32S d _ | .vminF32S d _
  | .vaddBf16S d _ | .vfmaBf16S d _ | .viaddI32S d _ | .visubI32S d _ | .viandS d _ | .viorS d _
  | .vixorS d _ | .vimaxI32S d _ | .viminI32S d _ => d.rwOk
  | .vmovS d _ => d.dstOk
  | .add d a b | .sub d a b | .and d a b | .or d a b | .xor d a b | .shl d a b | .shr d a b | .sra d a b
  | .min d a b | .max d a b | .minn d a b | .maxn d a b | .mul d a b | .mulh d a b | .mulhn d a b
  | .div d a b | .divn d a b | .rem d a b | .remn d a b | .bfx d a b | .cmp d a b | .cmpf d a b
  | .fadd d a b | .fsub d a b | .fmul d a b => d.dstOk && a.srcOk && b.srcOk
  | .bfi d a b => d.rwOk && a.srcOk && b.srcOk
  | .clz d a | .popc d a | .ftoi d a | .itof d a => d.dstOk && a.srcOk
  | .addi d a _ | .andi d a _ | .ori d a _ | .xori d a _ | .cmpi d a _ => d.dstOk && a.srcOk
  | .shli d a _ | .shri d a _ | .srai d a _ => d.dstOk && a.srcOk
  | .movi d _ | .ldc d _ | .addpc d _ => d.dstOk
  | .ld d b _ _ | .ldz d b _ _ => d.dstOk && b.srcOk
  | .st d b _ _ => d.srcOk && b.srcOk
  | .joinH a v | .joinW a v | .joinD a v | .joinHRel a v | .joinWRel a v | .joinDRel a v
  | .xjoinF a v | .xjoinI a v | .xjoinFRel a v | .xjoinIRel a v => a.srcOk && v.srcOk
  | .await d a t | .awaitAny d a t | .probe d a t => d.dstOk && a.srcOk && t.srcOk
  | .awaitFilled d a | .ldxW d a | .ldxD d a => d.dstOk && a.srcOk
  | .freeze a l | .fallow a l => a.srcOk && l.srcOk
  | .prepr _ a => a.srcOk
  | .prepx _ t i => t.srcOk && i.srcOk
  | .brT _ g _ | .brF _ g _ => g.srcOk
  | .bdec _ g => g.isG
  | .trap a | .breakpt a => a.srcOk
  | .eret r a => r.srcOk && a.srcOk
  | .sysrd d n => d.dstOk && sysRegOk n
  | .syswr n a => a.srcOk && sysRegOk n
  | .tlbinv a b c | .l1inv a b c => a.srcOk && b.srcOk && c.srcOk
  | .spmarkKeep o l | .spmarkDiscard o l => o.srcOk && l.srcOk
  | .spawn r a => r.srcOk && a.srcOk
  | .spawnw r c t => r.srcOk && c.srcOk && t.srcOk
  | .send c r | .sendHi c r => c.srcOk && r.srcOk
  | .sendNb d c r | .sendHiNb d c r => d.dstOk && c.srcOk && r.srcOk
  | .ctryrecv s p d => s.dstOk && p.isPort && d.dstOk
  | .ctrysend s p v => s.dstOk && p.isPort && v.srcOk && !v.isPort
  | .ctryrecvV s p d => s.dstOk && p.isPort && d.dstOk
  | .ctrysendV s p _ => s.dstOk && p.isPort
  | .ccount d p => d.dstOk && p.isPort
  | .vadd t d _ _ | .vsub t d _ _ | .vmul t d _ _ | .vmin t d _ _ | .vmax t d _ _ | .vscaleb t d _ _
  | .vcmpeq t d _ _ | .vcmplt t d _ _ | .vcmple t d _ _ => laneTypeOk t && d.dstOk
  | .vfma t d _ _ | .vfms t d _ _ => laneTypeOk t && d.rwOk
  | .vabs t d _ | .vneg t d _ | .vsqrt t d _ | .vrcp t d _ | .vrsq t d _ | .vexp2 t d _ | .vlog2 t d _ =>
      laneTypeOk t && d.dstOk
  | .viadd t d _ _ | .visub t d _ _ | .vimul t d _ _ | .vimin t d _ _ | .vimax t d _ _ | .viminn t d _ _
  | .vimaxn t d _ _ | .viand t d _ _ | .vior t d _ _ | .vixor t d _ _ | .vishl t d _ _ | .vishr t d _ _
  | .visra t d _ _ | .vicmpeq t d _ _ | .vicmplt t d _ _ | .vicmpltn t d _ _ | .viaddsat t d _ _ =>
      laneTypeOk t && d.dstOk
  | .viabs t d _ => laneTypeOk t && d.dstOk
  | .vmov d _ => d.dstOk
  | .vsel d _ _ => d.rwOk
  | .vbcast d s => d.dstOk && s.srcOk
  | .vextr d i _ => d.dstOk && i.srcOk
  | .vins d s i => d.rwOk && s.srcOk && i.srcOk
  | .viota t d => laneTypeOk t && d.dstOk
  | .vperm d _ _ => d.dstOk
  | .vkey t d _ => laneTypeOk t && d.dstOk
  | .vcvtF2x _ d _ | .vcvtX2f _ d _ | .vcvtI2x _ d _ | .vcvtX2i _ d _ => d.dstOk
  | .vpack t d _ _ => packTypeOk t && d.dstOk
  | .vunpack t d _ _ _ => packTypeOk t && d.dstOk
  | .vrsum t d _ | .vrmax t d _ | .vrmin t d _ | .vramax t d _ => reduceTypeOk t && d.dstOk
  | .vscan t d _ o => reduceTypeOk t && d.dstOk && o.val < 3
  | .vld d b o | .vldb d b o => d.dstOk && b.srcOk && o.srcOk
  | .vst _ b o | .vsts _ b o => b.srcOk && o.srcOk
  | .vlds d b o => d.dstOk && b.srcOk && o.srcOk
  | .vgather d b _ => d.dstOk && b.srcOk
  | .vscatter _ b _ | .vjoin _ b _ | .vxjoin _ b _ => b.srcOk
  | .vlda d _ k => d.dstOk && k.srcOk
  | .vsta _ _ k | .vadda _ _ k => k.srcOk
  | .ccopy a b | .ccfg a b | .cjoin a b | .cbar a b => a.srcOk && b.srcOk
  | .cgather i a b => i.srcOk && a.srcOk && b.srcOk
  | .waitb d o p => d.dstOk && o.srcOk && p.srcOk
  | .mcfg a b | .mma a b | .mscaleacc a b | .mload a b | .mstore a b => a.srcOk && b.srcOk
  | .mzero t | .mdiscard t => t.srcOk
  | .mwait d i | .lwait d i => d.dstOk && i.srcOk
  | .lcfg a b | .lspark a b | .lrun a b => a.srcOk && b.srcOk
  | .lstop t => t.srcOk
  | _ => true

/-- GUARD and VGUARD (R195, R196). -/
def Instr.isGuard : Instr → Bool
  | .guard .. | .vguard .. => true
  | _ => false

/-- The five transfers (R203). -/
def Instr.isTransfer : Instr → Bool
  | .jmp .. | .brT .. | .brF .. | .call .. | .bdec .. => true
  | _ => false

/-- The system registers closed to task contexts: CTXID, STACKBASE and the legacy window (R154). -/
def sysRegClosed (n : Fin 64) : Bool := n.val == 6 || n.val == 7 || (16 ≤ n.val && n.val ≤ 20)

/-- What faults with PRIVILEGE in a task context at step 2: the privileged encodings and the accesses to closed system
registers (R164, R166). -/
def Instr.isPrivileged : Instr → Bool
  | .fallow .. | .eret .. | .halt | .tlbinv .. | .l1inv .. => true
  | .sysrd _ n | .syswr n _ => sysRegClosed n
  | _ => false

/-- The sixteen 16-bit lane operations (R159). -/
def Instr.isShortLane : Instr → Bool
  | .vaddF32S .. | .vsubF32S .. | .vmulF32S .. | .vfmaF32S .. | .vmaxF32S .. | .vminF32S ..
  | .vaddBf16S .. | .vfmaBf16S .. | .viaddI32S .. | .visubI32S .. | .viandS .. | .viorS ..
  | .vixorS .. | .vimaxI32S .. | .vmovS .. | .viminI32S .. => true
  | _ => false

/-- The 16-bit lane operations and the majors 0x20 to 0x27: what a VGUARD may prefix (R197). -/
def Instr.isVector (i : Instr) : Bool :=
  i.isShortLane ||
  match i with
  | .vadd .. | .vsub .. | .vmul .. | .vfma .. | .vfms .. | .vmin .. | .vmax .. | .vabs .. | .vneg .. | .vsqrt ..
  | .vrcp .. | .vrsq .. | .vexp2 .. | .vlog2 .. | .vscaleb .. | .vcmpeq .. | .vcmplt .. | .vcmple ..
  | .viadd .. | .visub .. | .vimul .. | .vimin .. | .vimax .. | .viminn .. | .vimaxn .. | .viand .. | .vior ..
  | .vixor .. | .vishl .. | .vishr .. | .visra .. | .viabs .. | .vicmpeq .. | .vicmplt .. | .vicmpltn ..
  | .viaddsat .. | .vmov .. | .vsel .. | .vbcast .. | .vextr .. | .vins .. | .viota .. | .vperm .. | .vkey ..
  | .vcvtF2x .. | .vcvtX2f .. | .vcvtI2x .. | .vcvtX2i .. | .vpack .. | .vunpack .. | .vrsum .. | .vrmax ..
  | .vrmin .. | .vramax .. | .vscan .. | .vld .. | .vst .. | .vlds .. | .vsts .. | .vgather .. | .vscatter ..
  | .vldb .. | .vjoin .. | .vxjoin .. | .vlda .. | .vsta .. | .vadda .. => true
  | _ => false

/-- The MATRIX and LAMP encodings. -/
def Instr.isMatrixOrLamp : Instr → Bool
  | .mcfg .. | .mzero .. | .mma .. | .mscaleacc .. | .mload .. | .mstore .. | .mwait .. | .mdiscard ..
  | .lcfg .. | .lspark .. | .lrun .. | .lstop .. | .lwait .. => true
  | _ => false

/-- What slot H has no registers for: ILLEGAL_INSTRUCTION there (R145). -/
def Instr.slotHIllegal (i : Instr) : Bool :=
  i.isVector || i.isMatrixOrLamp || (match i with | .vguard .. => true | _ => false)

/-- Step 3 in slot H: the .V twins have no vector file there (R286). -/
def Instr.slotHOperand : Instr → Bool
  | .ctryrecvV .. | .ctrysendV .. => true
  | _ => false

/-- The instructions that round under MODE.RM (R170, R211, R212, R236, R243). -/
def Instr.roundsByMode : Instr → Bool
  | .fadd .. | .fsub .. | .fmul .. | .ftoi .. | .itof .. | .vaddF32S .. | .vsubF32S .. | .vmulF32S .. | .vfmaF32S ..
  | .vaddBf16S .. | .vfmaBf16S .. | .vadd .. | .vadda .. | .vsub .. | .vmul .. | .vfma .. | .vfms .. | .vsqrt .. | .vrcp .. | .vrsq ..
  | .vexp2 .. | .vlog2 .. | .vscaleb .. | .vcvtF2x .. | .vcvtX2f .. | .vcvtI2x .. | .vcvtX2i .. => true
  | _ => false

/-- What faults with BLOCKING_IN_HANDLER in slot H before any other check of its entry (R220, R258, R284, R291). -/
def Instr.blocksInHandler : Instr → Bool
  | .await .. | .awaitAny .. | .awaitFilled .. | .freeze .. | .fallow .. | .waitb .. | .send .. | .sendHi ..
  | .trap .. | .breakpt .. | .halt | .tlbinv .. | .l1inv .. => true
  | _ => false

/-- The bytes of an encoding: 2 or 4; 0 for an event (R6). -/
def Instr.len (i : Instr) : Nat :=
  if i.isShortLane then 2
  else match i with
  | .guard .. | .vguard .. | .nop16 | .yield16 => 2
  | .legacyCopy .. | .legacyFill .. | .legacyLaunch .. | .homeJoin .. | .homeFill .. | .homeFreeze ..
  | .thresholdTest .. | .homeStore .. | .homeLoad .. | .homeExactRead .. | .ackArrival .. | .wakeResult ..
  | .replicaTest .. | .gatewayResponsePass .. | .gatewayInvalidation .. | .routerForward ..
  | .combinedJoinDepart .. | .heldJoinTimeout .. | .flitReceive .. | .linkDown .. | .copyCommandStart ..
  | .copyUnitPerformed .. | .matrixCommandStart .. | .matrixCommandComplete .. | .lampStep .. | .sparkArrival ..
  | .tlbinvComplete .. | .coreDispatch .. | .highPriorityStart .. | .handlerOverrun .. | .timeSliceExpiry ..
  | .gleanPass .. | .gleanProbe .. | .gleanedRecordArrival .. | .dequeRecordArrival .. | .inboxRecordArrival ..
  | .crewStart .. | .crewDeadlock .. | .preemption .. | .mmaPreemptBound .. | .faultStop ..
  | .faultRecordWrite .. | .faultQueueFullSignal .. | .resumeRecord .. | .vectorRetention .. | .nodeTaskset ..
  | .nodeCrew .. | .nodeCopy .. | .nodeCond .. | .nodeWhile .. | .nodeFreeze .. | .nodeFallow ..
  | .nodeWaitcell .. | .nodeNotify .. | .nodeEnd .. | .nodeComplete .. | .graphComplete ..
  | .graphStallFail .. | .doorbell .. | .launchRecord .. | .launchGraph .. | .launchImageLoad ..
  | .bootTextReceive .. | .imageLoadComplete .. | .queueSuspend .. | .queueResume .. | .teardown ..
  | .registerWrite .. | .offlineRequest .. | .offlineForced .. | .offlineComplete .. | .hostWriteHalf ..
  | .hostRead .. | .accessCounterHalving | .ageingCheck .. | .mgmtReadLogs | .deviceReset | .fenceBaseDie ..
  | .quadTakeOut .. | .quadReturn .. | .coreRelease .. | .standbyTakeOver | .standbyStandDown
  | .standbySelfFence | .setPackageId .. | .firmwareUpdate .. | .spdmMeasurement | .sensorRead
  | .dieEdgeFailure .. | .watchdogTick | .uncorrectableError .. | .thermalThrottle | .thermalTrip
  | .linkTrained .. => 0
  | _ => 4

/-- Whether the row is a step without an encoding. -/
def Instr.isEvent (i : Instr) : Bool := i.len == 0

/-- A destination specifier that an instruction names: what a guarded-off instruction still pushes (R149). -/
inductive Dest where
  | scalar (d : Scalar)
  | vector (d : VSpec)
deriving DecidableEq, Repr

/-- The destinations an instruction names, in the order it writes them. -/
def Instr.dests : Instr → List Dest
  | .vaddF32S d _ | .vsubF32S d _ | .vmulF32S d _ | .vfmaF32S d _ | .vmaxF32S d _ | .vminF32S d _
  | .vaddBf16S d _ | .vfmaBf16S d _ | .viaddI32S d _ | .visubI32S d _ | .viandS d _ | .viorS d _
  | .vixorS d _ | .vimaxI32S d _ | .viminI32S d _ | .vmovS d _ => [.vector d]
  | .add d _ _ | .sub d _ _ | .and d _ _ | .or d _ _ | .xor d _ _ | .shl d _ _ | .shr d _ _ | .sra d _ _
  | .min d _ _ | .max d _ _ | .minn d _ _ | .maxn d _ _ | .mul d _ _ | .mulh d _ _ | .mulhn d _ _
  | .div d _ _ | .divn d _ _ | .rem d _ _ | .remn d _ _ | .bfx d _ _ | .cmp d _ _ | .cmpf d _ _
  | .fadd d _ _ | .fsub d _ _ | .fmul d _ _ | .bfi d _ _ => [.scalar d]
  | .clz d _ | .popc d _ | .ftoi d _ | .itof d _ => [.scalar d]
  | .addi d _ _ | .andi d _ _ | .ori d _ _ | .xori d _ _ | .cmpi d _ _ => [.scalar d]
  | .shli d _ _ | .shri d _ _ | .srai d _ _ => [.scalar d]
  | .movi d _ | .ldc d _ | .addpc d _ => [.scalar d]
  | .ld d _ _ _ | .ldz d _ _ _ => [.scalar d]
  | .await d _ _ | .awaitAny d _ _ | .probe d _ _ => [.scalar d]
  | .awaitFilled d _ | .ldxW d _ | .ldxD d _ => [.scalar d]
  | .sysrd d _ => [.scalar d]
  | .sendNb d _ _ | .sendHiNb d _ _ => [.scalar d]
  | .ctryrecv s _ d => [.scalar d, .scalar s]
  | .ctryrecvV s _ d => [.vector d, .scalar s]
  | .ctrysend s _ _ => [.scalar s]
  | .ctrysendV s _ _ => [.scalar s]
  | .ccount d _ => [.scalar d]
  | .vadd _ d _ _ | .vsub _ d _ _ | .vmul _ d _ _ | .vfma _ d _ _ | .vfms _ d _ _ | .vmin _ d _ _
  | .vmax _ d _ _ | .vscaleb _ d _ _ | .vcmpeq _ d _ _ | .vcmplt _ d _ _ | .vcmple _ d _ _ => [.vector d]
  | .vabs _ d _ | .vneg _ d _ | .vsqrt _ d _ | .vrcp _ d _ | .vrsq _ d _ | .vexp2 _ d _ | .vlog2 _ d _ =>
      [.vector d]
  | .viadd _ d _ _ | .visub _ d _ _ | .vimul _ d _ _ | .vimin _ d _ _ | .vimax _ d _ _ | .viminn _ d _ _
  | .vimaxn _ d _ _ | .viand _ d _ _ | .vior _ d _ _ | .vixor _ d _ _ | .vishl _ d _ _ | .vishr _ d _ _
  | .visra _ d _ _ | .vicmpeq _ d _ _ | .vicmplt _ d _ _ | .vicmpltn _ d _ _ | .viaddsat _ d _ _ => [.vector d]
  | .viabs _ d _ | .vkey _ d _ => [.vector d]
  | .vmov d _ | .vsel d _ _ | .vperm d _ _ | .viota _ d => [.vector d]
  | .vbcast d _ | .vins d _ _ => [.vector d]
  | .vextr d _ _ => [.scalar d]
  | .vcvtF2x _ d _ | .vcvtX2f _ d _ | .vcvtI2x _ d _ | .vcvtX2i _ d _ => [.vector d]
  | .vpack _ d _ _ | .vunpack _ d _ _ _ => [.vector d]
  | .vrsum _ d _ | .vrmax _ d _ | .vrmin _ d _ | .vramax _ d _ | .vscan _ d _ _ => [.vector d]
  | .vld d _ _ | .vldb d _ _ | .vlds d _ _ | .vgather d _ _ => [.vector d]
  | .vlda d _ _ => [.vector d]
  | .waitb d _ _ | .mwait d _ | .lwait d _ => [.scalar d]
  | _ => []

end Sys2Proof
end

