-- ==== Sys2Proof/Machine/Ops.lean ====
section
/-! DEFINITION. The named operations over the state: contexts, cores, registers, ports and messages; the checks every
issued instruction passes (spec/07 R166, R167), units (spec/09 R194 to R197), taking a fault (spec/14 R351) and resuming
(spec/14 R354). -/
namespace Sys2Proof.Machine

/-- The code of a fault (R347). -/
def FaultCode.num : FaultCode → Nat
  | .illegalInstruction => 0x01 | .illegalOperand => 0x02 | .privilege => 0x03 | .unpreparedTransfer => 0x04
  | .targetFault => 0x05 | .transferInSlot => 0x06 | .blockingInHandler => 0x07 | .handlerOverrun => 0x08
  | .translation => 0x10 | .permission => 0x11 | .badType => 0x12 | .widthMismatch => 0x13 | .address => 0x14
  | .scratchBound => 0x15 | .stackBound => 0x16 | .prematureRead => 0x20 | .writeAfterFreeze => 0x21
  | .fillConflict => 0x22 | .unreachableThreshold => 0x23 | .range => 0x24 | .triggerSet => 0x25
  | .discardRead => 0x26 | .poison => 0x30 | .homeLost => 0x31 | .dataLost => 0x32 | .engineId => 0x40
  | .format => 0x41 | .accBound => 0x42 | .crewDeadlock => 0x43 | .channelWidth => 0x44
  | .nondeterminism => 0x50 | .teardown => 0x60

/-- What the delivery of a fault leaves behind although the instruction has no other effect. -/
inductive Note where
  /-- the posted faults of the context have been delivered (R76) -/
  | posted
  /-- these posted faults have been delivered: those of the instruction's own freezes -/
  | taken (ns : List Nat)
  /-- the faults of these commands have been delivered (R134, R264, R278) -/
  | delivered (seqs : List Nat)
deriving DecidableEq, Repr

/-- How an instruction ends without completing: with a precise fault, parked, or keeping its core; the state is then as it
was before the instruction (R12). -/
inductive Stop where
  | fault (f : FaultInfo)
  /-- a fault of another instruction of the unit: the fetch of a delay slot (R203) -/
  | faultAt (pc : CodeAddr) (f : FaultInfo)
  /-- a precise fault that keeps what its instruction has asked of the homes -/
  | kept (f : FaultInfo) (s : State)
  /-- a fault posted or met by a command, delivered here -/
  | deliver (f : FaultInfo) (n : Note)
  | park (w : Wait)
  | stall
deriving DecidableEq, Repr

/-- How the effect of an instruction leaves its context when it keeps what it has done. -/
inductive Flow where
  /-- completed -/
  | done
  /-- a GUARD or VGUARD: what it says of the next instruction -/
  | guarded (g : Option Bool) (lanes : Option (BitVec 128))
  /-- a transfer: where execution goes after the slot, whether to its target, and the items it took -/
  | transfer (next : CodeAddr) (toTarget : Bool) (taken : List (Nat × Vec))
  /-- not completed; it runs again when the context is woken -/
  | park (w : Wait)
  /-- not completed; it runs again and the context keeps its core -/
  | stall
  /-- completed, and the context leaves its slot for the scheduler's choice (R293) -/
  | yield
  /-- completed, and the context stops with a service record (R294) -/
  | trap (kind : Nat) (arg : Val)
  /-- the context is gone -/
  | ended
deriving DecidableEq, Repr

/-- The effect of an instruction. -/
abbrev M := StateT State (Except Stop)

/-- A precise fault. -/
def raise {α : Type} (code : FaultCode) (addr : Word := 0) : M α := throw (.fault { code := code, addr := addr })

/-- A precise fault with all its fields. -/
def raiseInfo {α : Type} (f : FaultInfo) : M α := throw (.fault f)

/-- A precise fault met when requests of the instruction have reached their homes: these keep their counts (R101). -/
def raiseKept {α : Type} (f : FaultInfo) : M α := fun s => .error (.kept f s)

/-- A check of an entry: the fault `code` unless `ok`. -/
def check (ok : Bool) (code : FaultCode) (addr : Word := 0) : M Unit := if ok then pure () else raise code addr

/-- The current context. -/
def cur : M Context := do return (← get).cur

/-- The current context changed. -/
def modCur (f : Context → Context) : M Unit := modify fun s => { s with cur := f s.cur }

/-- The registers of the current context changed. -/
def modRegs (f : Regs → Regs) : M Unit := modCur fun c => { c with regs := f c.regs }

/-- A number to draw a free value at (notes/assumptions/3.md). -/
def draw : M Nat := do
  let s ← get
  set { s with free := s.free + 1 }
  return s.free

/-- Whether a cache that holds an entry still holds it where it is looked up: replacement is not fixed
(notes/assumptions/7.md). -/
def choose : M Bool := do
  let s ← get
  match s.choices with
  | [] => return true
  | b :: rest =>
    set { s with choices := rest }
    return b

/-! Contexts and cores. -/

/-- A list of contexts with one put in the place of its key, or at the end. -/
def putCtx : List Context → Context → List Context
  | [], c => [c]
  | x :: r, c => if x.key = c.key then c :: r else x :: putCtx r c

/-- The context of a key, wherever it is. -/
def State.ctx? (s : State) (k : Key) : Option Context :=
  if s.busy && s.cur.key == k then some s.cur else s.ctxs.find? (fun c => c.key == k)

/-- A context put back. -/
def State.setCtx (s : State) (c : Context) : State :=
  if s.busy && s.cur.key == c.key then { s with cur := c } else { s with ctxs := putCtx s.ctxs c }

/-- The context of a key changed, if it exists. -/
def State.modCtx (s : State) (k : Key) (f : Context → Context) : State :=
  match s.ctx? k with
  | some c => s.setCtx (f c)
  | none => s

/-- The context of a key gone. -/
def State.dropCtx (s : State) (k : Key) : State :=
  if s.busy && s.cur.key == k then { s with busy := false } else { s with ctxs := s.ctxs.filter (fun c => c.key != k) }

/-- Every live context. -/
def State.allCtxs (s : State) : List Context := (if s.busy then [s.cur] else []) ++ s.ctxs

/-- Every live context changed. -/
def State.mapCtxs (s : State) (f : Context → Context) : State :=
  { s with cur := if s.busy then f s.cur else s.cur, ctxs := s.ctxs.map f }

/-- A list of cores with one put in the place of its number, or at the end. -/
def putCore : List Core → Core → List Core
  | [], c => [c]
  | x :: r, c => if x.num = c.num then c :: r else x :: putCore r c

/-- A core by number; one that is not listed is as reset leaves it. -/
def State.core (s : State) (n : Nat) : Core := (s.cores.find? (fun c => c.num == n)).getD { num := n }

/-- A core put back. -/
def State.setCore (s : State) (c : Core) : State := { s with cores := putCore s.cores c }

/-- A core changed. -/
def State.modCore (s : State) (n : Nat) (f : Core → Core) : State := s.setCore (f (s.core n))

/-- The contexts standing on a core. -/
def State.residents (s : State) (n : Nat) : List Context := s.allCtxs.filter (fun c => c.core == n && c.slot.isSome)

/-- The context executing on a core. -/
def State.executing (s : State) (n : Nat) : Option Context :=
  (s.residents n).find? (fun c => c.status == .running)

/-- A parked context made ready; each wake readies its context once (R311). -/
def Context.wake (c : Context) (stamp : Nat) : Context :=
  match c.status with
  | .parked _ _ => { c with status := .ready stamp }
  | _ => c

/-- The parked contexts that satisfy `p` made ready. -/
def State.wakeWhere (s : State) (p : Context → Wait → Bool) : State :=
  { s.mapCtxs (fun c => match c.status with
      | .parked w _ => if p c w then c.wake s.nextSeq else c
      | _ => c) with nextSeq := s.nextSeq + 1 }

/-- An unacknowledged access counts as done for a release of a scope: 0 core, 1 die, 2 package, 3 domain (R289). `bd` is
the issuer's base die. -/
def Out.doneAt (o : Out) (scope bd : Nat) : Bool :=
  match scope with
  | 0 => true
  | 1 => (decide (o.homeBd ≠ bd) || o.remote) && (o.passedDie || o.passedPkg)
  | 2 => o.remote && o.passedPkg
  | _ => false

/-- A join of a context has been acknowledged. -/
def State.acked (s : State) (o : Key × Nat) : Bool :=
  match s.ctx? o.1 with
  | some c => !c.outs.any (fun x => x.n == o.2)
  | none => true

/-- The acknowledgements a context waits for have come. -/
def State.acksDone (s : State) (c : Context) (a : AckWait) : Bool :=
  match a with
  | .fence scope => c.outs.all (fun o => o.doneAt scope (c.core / 192))
  | .all => c.outs.isEmpty
  | .fills => c.outs.all Out.store
  | .ahead => c.ahead.all s.acked

/-- The contexts made ready whose acknowledgements have come (R311). -/
def State.wakeAcks (s : State) : State := s.wakeWhere (fun c w => match w with
  | .acks a => s.acksDone c a
  | _ => false)

/-- The current context put with the others; its core is free for the scheduler's choice (R313). -/
def State.leave (s : State) (c : Context) : State := { s with ctxs := putCtx s.ctxs c, busy := false, stalled := false }

/-! Status fields (R155, R156). -/

/-- The context's ASID register, which selects its address space (R91): that of its launch, unless a store through the on-chip
map has written another (R147, notes/assumptions/29.md). -/
def Context.asid (c : Context) : BitVec 12 := (c.written[1].map (fun x => x.setWidth 12)).getD c.key.asid

/-- STATUS.SYS -/
def Context.sys (c : Context) : Bool := c.regs.status.getLsbD 15

/-- Slot H (R310). -/
def Context.inH (c : Context) : Bool := c.slot == some .h

/-- STATUS.REPLAY -/
def Context.replaying (c : Context) : Bool := c.regs.status.getLsbD 11

/-- STATUS.RECORD -/
def Context.recording (c : Context) : Bool := c.regs.status.getLsbD 10

/-- MODE.STRICT -/
def Context.strict (c : Context) : Bool := c.regs.mode.getLsbD 0

/-- MODE.RM -/
def Context.rm (c : Context) : Nat := wbits c.regs.mode 1 3

/-- MODE.SAT -/
def Context.sat (c : Context) : Bool := c.regs.mode.getLsbD 4

/-- The bytes of a context's slice, or of the handler area in slot H (R121, R145). -/
def Context.sliceSize (c : Context) : Nat := if c.inH then 256 else c.foot * 4096

/-- STATUS.ND set, and NDLOG at the first use (R83). -/
def markNd : M Unit := modRegs fun r =>
  { r with
    status := r.status ||| 0x100
    ndlog := if r.ndlog.getLsbD 63 then r.ndlog else 0x8000000000000000 ||| r.pc.setWidth 64 }

/-- The sticky flags NV, DZ, OF, UF, NX in bits 4 to 0 set where `f` is 1 (R172). -/
def raiseFlags (f : BitVec 5) : M Unit := modRegs fun r => { r with status := r.status ||| f.setWidth 64 }

/-! Channels (R141 to R143). -/

/-- A channel by its number. -/
def State.chan? (s : State) (id : Nat) : Option Channel := s.chans.find? (fun c => c.id == id)

/-- A channel put back. -/
def State.setChan (s : State) (c : Channel) : State :=
  { s with chans := s.chans.map (fun x => if x.id = c.id then c else x) }

/-- The items a unit in progress at the receiver may still give back: they hold their slots (R194). -/
def State.heldItems (s : State) (c : Channel) : Nat :=
  match s.ctx? c.dst with
  | some x => (((match x.unit with
    | some u => u.taken
    | none => []) ++ x.items).filter (fun t => t.1 == c.id)).length
  | none => 0

/-- The checks of a port named in an instruction, before anything is taken or put (R142). (notes/assumptions/27.md) -/
def checkPort (p : Fin 8) (sending wide : Bool) : M Unit := do
  let s ← get
  check (!s.cur.inH) .blockingInHandler
  match s.cur.ports[p] with
  | none => raise .illegalOperand
  | some e =>
    check (e.sending == sending) .illegalOperand
    match s.chan? e.chan with
    | none => raise .illegalOperand
    | some ch => check (ch.wide == wide) .channelWidth

/-- The channel at a port, once its checks are made. -/
def portChan (p : Fin 8) : M Channel := do
  let s ← get
  match s.cur.ports[p] with
  | none => raise .illegalOperand
  | some e => match s.chan? e.chan with
    | none => raise .illegalOperand
    | some ch => return ch

/-- One item taken; parks until one is present (R142). Its slot is free, and a sender parked for one woken, once the unit is
complete (R194, R311).
(notes/assumptions/27.md) -/
def takeItem (p : Fin 8) : M Vec := do
  let ch ← portChan p
  match ch.items with
  | [] => throw (.park (.channel ch.id))
  | x :: rest =>
    modify fun s => s.setChan { ch with items := rest, arrived := ch.arrived - 1, takes := ch.takes + 1 }
    return x

/-- One item put; parks until a slot is free (R142). The receiver, if it is parked for an item, is woken. The items stand in
State.chans and not in the bytes of the slot area, since no layout of theirs is given (notes/assumptions/8.md, 29.md). -/
def putItem (p : Fin 8) (x : Vec) : M Unit := do
  let ch ← portChan p
  let s ← get
  if ch.items.length + s.heldItems ch < ch.slots then
    modify fun s => (s.setChan { ch with items := ch.items ++ [x], freed := ch.freed - 1, puts := ch.puts + 1 }).wakeWhere
      (fun c w => c.key == ch.dst && w == .channel ch.id)
  else throw (.park (.channel ch.id))

/-! Registers. -/

/-- A scalar as a channel item. -/
def Val.toItem (v : Val) : Vec where
  bits := v.bits.setWidth 4096
  mark := if v.mark then 1 else 0

/-- A channel item as a scalar. -/
def Vec.toVal (v : Vec) : Val where
  bits := v.bits.setWidth 64
  mark := v.mark.getLsbD 0

/-- A general register; g0 reads zero (R162). -/
def Regs.readG (r : Regs) (n : Fin 32) : Val := if n.val = 0 then { bits := 0 } else r.g[n]

/-- A general register written; a write to g0 is ignored (R162). -/
def Regs.writeG (r : Regs) (n : Fin 32) (x : Val) : Regs := if n.val = 0 then r else { r with g := r.g.set n x }

/-- A push onto q1 to q16 (R149). -/
def Regs.pushQ (r : Regs) (x : Val) : Regs :=
  { r with q := Vector.ofFn (fun i : Fin 16 => if i.val = 0 then x else r.q[i.val - 1]) }

/-- A push onto y1 to y8 (R149). -/
def Regs.pushY (r : Regs) (x : Vec) : Regs :=
  { r with y := Vector.ofFn (fun i : Fin 8 => if i.val = 0 then x else r.y[i.val - 1]) }

/-- Read(x) of R193. -/
def readScalar (x : Scalar) : M Val := do
  match x with
  | .g n => return (← get).cur.regs.readG n
  | .q a => return (← get).cur.regs.q[a]
  | .c p => return (← takeItem p).toVal
  | .rsv _ => return { bits := 0 }

/-- Write(x, v) of R193. -/
def writeScalar (x : Scalar) (v : Val) : M Unit :=
  match x with
  | .g n => modRegs fun r => r.writeG n v
  | .q _ => modRegs fun r => r.pushQ v
  | .c p => putItem p v.toItem
  | .rsv _ => pure ()

/-- The port checks of a scalar source. -/
def checkSrc (x : Scalar) : M Unit :=
  match x with
  | .c p => checkPort p false false
  | _ => pure ()

/-- The port checks of a scalar destination. -/
def checkDst (x : Scalar) : M Unit :=
  match x with
  | .c p => checkPort p true false
  | _ => pure ()

/-- The port checks of a vector source. -/
def checkVSrc (x : VSpec) : M Unit :=
  match x with
  | .c p => checkPort p false true
  | _ => pure ()

/-- The port checks of a vector destination. -/
def checkVDst (x : VSpec) : M Unit :=
  match x with
  | .c p => checkPort p true true
  | _ => pure ()

/-- A vector source read (R162). -/
def readVec (x : VSpec) : M Vec := do
  match x with
  | .v n => return (← get).cur.regs.v[n]
  | .y a => return (← get).cur.regs.y[a]
  | .c p => takeItem p

/-- The lanes the instruction acts on (R196, R231). -/
def activeLanes : M (BitVec 128) := do
  match (← cur).unit with
  | some u => return u.lanes.getD (BitVec.allOnes 128)
  | none => return BitVec.allOnes 128

/-- The value `new` in the lanes of `m` and `old` in the others. -/
def mergeLanes (m : BitVec 128) (new old : Vec) : Vec where
  bits := (new.bits &&& laneMask m) ||| (old.bits &&& ~~~ laneMask m)
  mark := (new.mark &&& m) ||| (old.mark &&& ~~~ m)

/-- WriteVector(vd, r) of R231. -/
def writeVec (x : VSpec) (r : Vec) : M Unit := do
  let m ← activeLanes
  match x with
  | .v n => modRegs fun rg => { rg with v := rg.v.set n (mergeLanes m r rg.v[n]) }
  | .y _ => modRegs fun rg => rg.pushY (mergeLanes m r { bits := 0 })
  | .c p => putItem p (mergeLanes m r { bits := 0 })

/-- A value used as an address, a condition, a target, a SYSWR value or an engine operand: POISON when it is marked
(R350). -/
def useClean (v : Val) : M Word := do
  check (!v.mark) .poison
  return v.bits

/-- A scalar read for such a use. -/
def readClean (x : Scalar) : M Word := do useClean (← readScalar x)

/-- Scalars read once for an instruction that may wait with its effects kept: when it runs again it finds what it read
then, and the items it took go back if it faults (R12, R142). (notes/assumptions/37.md) -/
def readOnce (xs : List Scalar) : M (List Val) := do
  match (← cur).operands with
  | some vs => return vs
  | none =>
    let vs ← xs.mapM (fun x => do
      match x with
      | .c p =>
        let ch ← portChan p
        let item ← takeItem p
        modCur fun c => { c with items := c.items ++ [(ch.id, item)] }
        return item.toVal
      | _ => readScalar x)
    modCur fun c => { c with operands := some vs }
    return vs

/-- A vector read once for such an instruction. (notes/assumptions/37.md) -/
def readVecOnce (x : VSpec) : M Vec := do
  match (← cur).voperand with
  | some v => return v
  | none =>
    let v ← match x with
      | .c p => do
        let ch ← portChan p
        let item ← takeItem p
        modCur fun c => { c with items := c.items ++ [(ch.id, item)] }
        pure item
      | _ => readVec x
    modCur fun c => { c with voperand := some v }
    return v

/-- The `i`-th operand. -/
def nthVal (vs : List Val) (i : Nat) : Val := (vs[i]?).getD { bits := 0 }

/-! Faults and units. -/

/-- FAULTCODE (R157). -/
def FaultInfo.word (f : FaultInfo) : Word :=
  BitVec.ofNat 64 (f.code.num + f.sub.toNat * 2 ^ 8 + f.level * 2 ^ 24 + f.cause * 2 ^ 27 + f.more % 256 * 2 ^ 32)

/-- A message sent: it gets its number and starts at its source. -/
def State.send (s : State) (m : Msg) : State :=
  { s with msgs := s.msgs ++ [{ m with id := s.nextMsg }], nextMsg := s.nextMsg + 1 }

/-- The joins held in a core's combining buffer that satisfy `p` leave for their homes (R288); the contexts that count
on them see them as having left the core (R289). -/
def State.drainHeld (s : State) (core : Nat) (p : Held → Bool) : State :=
  let c := s.core core
  let go := c.hold.filter p
  if go.isEmpty then s
  else
    let s1 := s.setCore { c with hold := c.hold.filter (fun h => !p h) }
    go.foldl (fun s h =>
      (h.req.tags.foldl (fun s t => match t.who with
        | .ctx k n => s.modCtx k (fun x => { x with outs := x.outs.map (fun o =>
            if o.n = n then { o with held := false } else o) })
        | _ => s) s).send
        { id := 0, src := .core core, dst := h.dst, body := .join h.req, cnt := h.cnt, asid := h.asid, va := h.va,
          gen := h.gen, bad := h.bad })
      s1

/-- Whether a held join has a contributor of the context. -/
def Held.ofCtx (k : Key) (h : Held) : Bool := h.req.tags.any (fun t => match t.who with
  | .ctx k' _ => k' == k
  | _ => false)

/-- The items of a faulting unit put back at the front of their channels (R194). -/
def State.putBack (s : State) (taken : List (Nat × Vec)) : State :=
  taken.foldr (fun t s => match s.chan? t.1 with
    | some ch => s.setChan { ch with items := t.2 :: ch.items, arrived := ch.arrived + 1, takes := ch.takes - 1 }
    | none => s) s

/-- The live record that a fault of an address space joins: its address lies in the range of the record's stopping point
(R97). -/
def State.attachTo (s : State) (asid : BitVec 12) (f : FaultInfo) : Option FaultRec :=
  if f.size = 0 then none
  else s.records.find? (fun r => r.live && r.asid == asid && (r.kind == 0 || r.kind == 8) &&
    decide (r.info.lo ≤ f.addr.toNat) && decide (f.addr.toNat < r.info.lo + r.info.size))

/-- A fault record made; FAULT_RECORD_WRITE writes it to its queue (R352). -/
def State.postRecord (s : State) (r : FaultRec) : State :=
  { s with records := s.records ++ [{ r with id := s.nextSeq }], nextSeq := s.nextSeq + 1 }

/-- The contexts a record lists, 16 bits each. -/
def attachedWords (ks : List Key) : List Nat :=
  (List.range 4).map (fun i => packList 16 (((ks.drop (4 * i)).take 4).map (fun k => k.ctxid.toNat)))

/-- The id of the engine command that raised a record's fault. -/
def FaultRec.cmdId (r : FaultRec) : Option Nat :=
  match r.engine with
  | some (_, id) => some id
  | none => r.info.engine

/-- The eight words of a record (R353). `leadIdx` is the index of the leading record of a continuation. -/
def FaultRec.words (r : FaultRec) (leadIdx : Nat) : List Nat :=
  let code := if r.kind = 1 || r.kind = 2 then 0 else r.info.word.toNat
  let w0 := code % 2 ^ 16 + bitsOf code 24 5 * 2 ^ 16 + bitsOf code 32 8 * 2 ^ 24 + r.kind * 2 ^ 32 + r.asid.toNat * 2 ^ 36 +
    r.ctxid.toNat * 2 ^ 48
  let w2 := if r.kind = 7 then leadIdx % 2 ^ 32
    else r.pc.toNat + (match r.cmdId with
      | some id => id % 64 * 2 ^ 48 + 2 ^ 54
      | none => 0)
  let w3 := if r.kind = 1 || r.kind = 2 then r.arg.bits.toNat else r.attached.length
  [w0, if r.kind = 1 || r.kind = 2 then 0 else r.info.addr.toNat, w2, w3] ++ attachedWords (r.attached.take 16)

/-- The index of the leading record of a continuation. -/
def State.leadIndex (s : State) (r : FaultRec) : Nat :=
  match r.lead with
  | some (id, _) => ((s.records.find? (fun x => x.id == id)).map (fun x => x.idx)).getD 0
  | none => 0

/-- A record written in memory: a trap's argument carries its mark (R350). -/
def Mem.putRecord (m : Mem) (pa : Nat) (r : FaultRec) (leadIdx : Nat) : Mem :=
  m.writeMarks pa 64 (packList 64 (r.words leadIdx)) (if r.arg.mark then 0xFF * 2 ^ 24 else 0)

/-- A record written again where it stands, in place (R395). -/
def State.rewriteRecord (s : State) (id : Nat) : State :=
  match s.records.find? (fun r => r.id == id) with
  | none => s
  | some r => match r.at_ with
    | some pa => { s with mem := s.mem.putRecord pa r (s.leadIndex r) }
    | none => s

/-- A record changed, in memory too. -/
def State.modRecord (s : State) (id : Nat) (f : FaultRec → FaultRec) : State :=
  let s1 : State := { s with records := s.records.map (fun r => if r.id = id then f r else r) }
  s1.rewriteRecord id

/-- FAULT_RECORD_ATTACH (R97, R353, R395): a context joins an outstanding record; from the 17th on continuation records list
it. -/
def State.attach (s : State) (r : FaultRec) (k : Key) : State :=
  let n := r.attached.length + 1
  let s1 := s.modRecord r.id (fun x => { x with attached := x.attached ++ [k] })
  if n ≤ 16 then s1
  else
    let chunk := (n - 1) / 16
    match s1.records.find? (fun x => x.lead == some (r.id, chunk)) with
    | some x => s1.modRecord x.id (fun y => { y with attached := y.attached ++ [k] })
    | none => s1.postRecord { id := 0, asid := r.asid, ctxid := 0, kind := 7, info := { code := r.info.code }, pc := 0
                              attached := [k], lead := some (r.id, chunk), live := false, posted := r.posted }

/-- A fault's record: the outstanding one of its page, which its context joins at once, or one of its own, which is posted
when a context that has met it stands in its frame (R97, R351, R395). (notes/assumptions/16.md) -/
def State.openRecord (s : State) (k : Key) (pc : CodeAddr) (f : FaultInfo) : State × Nat :=
  match s.attachTo k.asid f with
  | some r => (s.attach r k, r.id)
  | none => (s.postRecord { id := 0, asid := k.asid, ctxid := k.ctxid, kind := 0, info := f, pc := pc, attached := [k]
                            posted := false }, s.nextSeq)

/-- A fault's record with its continuations posted, behind every other record (R351, step 6). -/
def State.postFault (s : State) (id : Nat) : State :=
  let mine (r : FaultRec) : Bool := r.id == id || r.lead.any (fun l => l.1 == id)
  if s.records.any (fun r => r.id == id && !r.posted) then
    { s with records := s.records.filter (fun r => !mine r) ++
        (s.records.filter mine).map (fun r => { r with posted := true }) }
  else s

/-- A context has 64 outstanding records, and the fault would open one more (R98). -/
def State.recordsFull (s : State) (k : Key) (f : FaultInfo) : Bool :=
  (s.attachTo k.asid f).isNone &&
    decide (64 ≤ (s.records.filter (fun r => r.live && r.asid == k.asid && r.ctxid == k.ctxid)).length)

/-- TAKING A FAULT, steps 1 to 3 of R351: the context stops at the boundary of its unit with the registers it had there
(R194), FAULTCODE, FAULTADDR and FAULTPC are written, and its held joins leave. `pc` is the instruction that faulted. It
opens or joins its record (R97); the frame and the posting follow in FAULT_STOP. A fault that may not open its record yet
waits (R98). -/
def takeFaultAt (pc : CodeAddr) (f : FaultInfo) (s : State) : State :=
  let c := s.cur
  let regs := match c.unit with
    | some u => u.saved
    | none => c.regs
  let taken := (match c.unit with
    | some u => u.taken
    | none => []) ++ c.items
  let c1 := { c with
    regs := regs
    unit := none
    status := .stopped
    faultCode := f.word
    faultAddr := f.addr
    faultPc := pc.setWidth 64
    asked := false
    reply := none
    lines := []
    spoilt := []
    dropL1 := none
    lostReply := none
    phase := 0
    operands := none
    voperand := none
    ahead := []
    items := []
    unitPc := regs.pc
    stop := some { kind := 0, info := f, pc := pc, record := (s.openRecord c.key pc f).2 } }
  if s.recordsFull c.key f then { s with stalled := true }
  else (((s.openRecord c.key pc f).1.putBack taken).leave c1).drainHeld c.core (Held.ofCtx c.key)

/-- A fault of the instruction at the PC. -/
def takeFault (f : FaultInfo) (s : State) : State := takeFaultAt s.cur.regs.pc f s

/-- THE RETURN, a resume record at its context (R354): it is woken where it stopped, at the first instruction of its unit,
or after the unit of a trap or breakpoint when `after` is set (R295). A context that is not stopped is left alone.
(notes/assumptions/18.md) -/
def resumeCtx (k : Key) (after : Bool) (s : State) : State :=
  match s.ctx? k with
  | some c =>
    if c.status == .stopped then
      let pc := if after then c.nextPc else c.unitPc
      { s.setCtx { c with status := .ready s.nextSeq, stop := none, regs := { c.regs with pc := pc } } with
        nextSeq := s.nextSeq + 1 }
    else s
  | none => s

/-- The context parks (R311). (notes/assumptions/15.md) -/
def parkCur (w : Wait) (s : State) : State :=
  { s.leave { s.cur with status := .parked w s.nextSeq } with nextSeq := s.nextSeq + 1 }

/-- The PC after the instruction at the PC, of `len` bytes, and whether it ends its unit. -/
def nextOf (c : Context) (len : Nat) : CodeAddr :=
  match c.unit with
  | some u => u.slot.getD (c.regs.pc + BitVec.ofNat 48 len)
  | none => c.regs.pc + BitVec.ofNat 48 len

/-- An instruction of `len` bytes has completed: the count rises (R48), the PC moves on, and what the instruction was told
and what it has received are forgotten. -/
def Context.finish (c : Context) (len : Nat) : Context :=
  { c with
    regs := { c.regs with pc := nextOf c len, icount := c.regs.icount + 1 }
    unit := none
    viaTarget := match c.unit with
      | some u => u.viaTarget
      | none => false
    asked := false
    reply := none
    lines := []
    spoilt := []
    dropL1 := none
    lostReply := none
    phase := 0
    operands := none
    voperand := none
    ahead := []
    items := [] }

/-- The registers to give back if the unit faults. -/
def Context.unitStart (c : Context) : Regs :=
  match c.unit with
  | some u => u.saved
  | none => c.regs

/-- A context is parked for a slot of a channel into `k`, and one is free. -/
def State.slotFor (s : State) (k : Key) (c : Context) : Bool :=
  match c.status with
  | .parked (.channel id) _ => s.chans.any (fun ch => ch.id == id && ch.src == c.key && ch.dst == k &&
      decide (ch.items.length + s.heldItems ch < ch.slots))
  | _ => false

/-- A unit of the receiver `k` is complete, and gives no item back any more: whoever is parked for a slot that is free now is
ready (R194, R311). -/
def State.releaseSlots (s : State) (k : Key) : State :=
  if s.allCtxs.any (s.slotFor k) then s.wakeWhere (fun c _ => s.slotFor k c) else s

/-- The current context is `c`, whose unit is complete. -/
def State.completed (s : State) (c : Context) : State := { ({ s with cur := c } : State).releaseSlots c.key with cur := c }

/-- The end of an instruction of `len` bytes by its flow; `c0` is the context as the instruction found it.
(notes/assumptions/15.md, 18.md) -/
def settle (len : Nat) (c0 : Context) (f : Flow) (s : State) : State :=
  match f with
  | .done =>
    let c := s.cur.finish len
    s.completed c
  | .guarded g l =>
    let c := s.cur.finish len
    { s with cur := { c with unit := some { saved := c0.unitStart, guard := g, lanes := l } } }
  | .transfer next toTarget taken =>
    let c := s.cur.finish len
    { s with cur := { c with
        unit := some { saved := c0.unitStart, slot := some next, viaTarget := toTarget, taken := taken } } }
  | .park w => parkCur w s
  | .stall => { s with stalled := true }
  | .yield =>
    let c := s.cur.finish len
    let s1 := s.completed c
    { s1.leave { c with status := .ready s1.nextSeq } with nextSeq := s1.nextSeq + 1 }
  | .trap kind arg =>
    let c := s.cur.finish len
    ((s.completed c).leave { c with
      status := .stopped
      regs := { c.regs with pc := c0.unitStart.pc }
      unitPc := c0.unitStart.pc
      nextPc := c.regs.pc
      stop := some { kind := kind, info := { code := .illegalInstruction }, pc := c0.regs.pc, arg := arg } }).drainHeld
        c.core (Held.ofCtx c.key)
  | .ended => s.releaseSlots c0.key

/-- The zeros a guarded-off instruction still pushes (R149, R167). -/
def pushZeros (ds : List Dest) (c : Context) : Context :=
  ds.foldl (fun c d => match d with
    | .scalar (.q _) => { c with regs := c.regs.pushQ { bits := 0 } }
    | .vector (.y _) => { c with regs := c.regs.pushY { bits := 0 } }
    | _ => c) c

/-- Steps 1 to 3 of R167 on an instruction; `fieldsOk` says that its unused fields hold zero. Step 1 covers slot H (R145)
and what a guard may stand before (R166, R197). -/
def stepChecks (i : Instr) (fieldsOk : Bool) (c : Context) : Option FaultCode :=
  let prefixed := match c.unit with
    | some u => u.guard.isSome || u.lanes.isSome
    | none => false
  let laned := match c.unit with
    | some u => u.lanes.isSome
    | none => false
  if (i.isGuard && prefixed) || (c.inH && i.slotHIllegal) || (laned && !i.isVector) then some .illegalInstruction
  else if i.isPrivileged && !c.sys then some .privilege
  else if !fieldsOk || !i.wf || (c.inH && i.slotHOperand) then some .illegalOperand
  else none

/-- Whether the instruction is guarded off (R195). -/
def Context.guardedOff (c : Context) : Bool :=
  match c.unit with
  | some u => u.guard == some false
  | none => false

/-- The state in which a delivery is noted. -/
def Note.mark (n : Note) (s : State) : State :=
  match n with
  | .posted => { s with cur := { s.cur with posted := [] } }
  | .taken ns => { s with cur := { s.cur with posted := s.cur.posted.filter (fun p => !ns.contains p.n) } }
  | .delivered seqs => { s with cur := { s.cur with cmds := s.cur.cmds.map (fun m =>
      if seqs.contains m.seq then { m with delivered := true } else m) } }

/-- The outcome of an instruction's effect. -/
def runBody (i : Instr) (body : M Flow) (s : State) : Host.Outcome State Fault Refusal :=
  match body s with
  | .error (.fault f) => .next (takeFault f s)
  | .error (.faultAt pc f) => .next (takeFaultAt pc f s)
  | .error (.kept f s1) => .next (if s.recordsFull s.cur.key f then { s with stalled := true } else takeFault f s1)
  | .error (.deliver f n) => .next (if s.recordsFull s.cur.key f then { s with stalled := true } else takeFault f (n.mark s))
  | .error (.park w) => .next (parkCur w s)
  | .error .stall => .next { s with stalled := true }
  | .ok (f, s') => .next (settle i.len s.cur f s')

/-- MODE.RM holds a reserved code, which an instruction that rounds under it does not take (R45).
(notes/assumptions/74.md) -/
def Context.badRounding (c : Context) (i : Instr) : Bool := i.roundsByMode && decide (6 ≤ c.rm)

/-- AN ISSUED INSTRUCTION: steps 1 to 3 of R167, then nothing but its pushes when it is guarded off, then
BLOCKING_IN_HANDLER, then its own checks and effect, the check of MODE.RM first (notes/assumptions/74.md). -/
def issue (i : Instr) (body : M Flow) (s : State) : Host.Outcome State Fault Refusal :=
  if !s.busy then .next s
  else match stepChecks i true s.cur with
    | some code => .next (takeFault { code := code } s)
    | none =>
      if s.cur.guardedOff then .next (settle i.len s.cur .done { s with cur := pushZeros i.dests s.cur })
      else if s.cur.inH && i.blocksInHandler then .next (takeFault { code := .blockingInHandler } s)
      else if s.cur.badRounding i then .next (takeFault { code := .illegalOperand } s)
      else runBody i body s

/-- A word whose decoding was rejected at a field: steps 1 to 3 on the instruction it would be. -/
def issueBadField (i : Instr) (s : State) : State :=
  match stepChecks i false s.cur with
  | some code => takeFault { code := code } s
  | none => s

/-- A transfer: as `issue`, but its own body makes the check of TRANSFER_IN_SLOT when it is guarded off, too (R167,
R203). -/
def issueTransfer (i : Instr) (body : M Flow) (s : State) : Host.Outcome State Fault Refusal :=
  if !s.busy then .next s
  else match stepChecks i true s.cur with
    | some code => .next (takeFault { code := code } s)
    | none => runBody i body s

/-- An event whose meaning is a function of the state. -/
def event (f : State → State) (s : State) : Host.Outcome State Fault Refusal := .next (f s)

end Sys2Proof.Machine
end

