-- ==== Sys2Proof/Machine/Slice.lean ====
section
/-! DEFINITION. The slice of a context, its barriers and channel areas, its tiles, and the operand ranges of engine
commands (spec/06_scratchpad_copy_engine_channels.md R121 to R128, R136, R141; spec/08_arithmetic_units.md R178 to R188;
spec/11_instructions_engines_tasks_system.md R256, R266 to R276). -/
namespace Sys2Proof.Machine

/-! Where a slice lies. -/

/-- The place of slice byte 0 in the scratchpads' byte space (R140). -/
def Context.sliceBase (c : Context) : Nat := c.core * 2 ^ 21 + c.base * 4096

/-- `n` bytes of a context's slice, or of its handler area (R145). -/
def State.sliceRead (s : State) (c : Context) (off n : Nat) : Nat :=
  if c.inH then c.area.readN off n else s.scratch.readN (c.sliceBase + off) n

/-- The poison marks of `n` bytes of a slice. -/
def State.sliceMarks (s : State) (c : Context) (off n : Nat) : Nat :=
  if c.inH then c.area.markBits off n else s.scratch.markBits (c.sliceBase + off) n

/-- Whether one of `n` bytes of a slice carries a poison mark (R350). -/
def State.sliceMarked (s : State) (c : Context) (off n : Nat) : Bool :=
  let a := if c.inH then off else c.sliceBase + off
  (if c.inH then c.area.marks else s.scratch.marks).any (fun x => decide (a ≤ x.1) && decide (x.1 < a + n) && x.2 != 0)

/-- The lines that `n` bytes at an offset touch. -/
def linesOf (off n : Nat) : List Nat :=
  if n = 0 then [] else (List.range ((off + n - 1) / 128 - off / 128 + 1)).map (fun i => off / 128 + i)

/-- A slice's bytes cleared. -/
def State.sliceClear (s : State) (c : Context) (off n : Nat) : State :=
  if c.inH then s.modCtx c.key (fun x => { x with area := x.area.clear off n })
  else { s with scratch := s.scratch.clear (c.sliceBase + off) n }

/-- `n` bytes of a slice written, bit i of `marks` marking byte i. A discarded line it touches becomes live, its other
bytes zero (R122). -/
def State.sliceWrite (s : State) (k : Key) (off n x marks : Nat) : State :=
  match s.ctx? k with
  | none => s
  | some c =>
    let hit := (linesOf off n).filter (fun l => c.discLines.contains l)
    let s1 := hit.foldl (fun s l => s.sliceClear c (128 * l) 128) s
    let s2 := if hit.isEmpty then s1
      else s1.modCtx k (fun x => { x with discLines := x.discLines.filter (fun l => !hit.contains l) })
    if c.inH then s2.modCtx k (fun y => { y with area := y.area.writeMarks off n x marks })
    else { s2 with scratch := s2.scratch.writeMarks (c.sliceBase + off) n x marks }

/-! What slice bytes may not be touched, and what waits. -/

/-- The bytes of a context's slice, or of the handler area in slot H (R87, R145). -/
def Context.sliceFits (c : Context) (off n : Nat) : Bool := decide (off + n ≤ c.sliceSize)

/-- Whether a range touches a discarded line (R122). -/
def Context.touchesDiscarded (c : Context) (off n : Nat) : Bool := (linesOf off n).any (fun l => c.discLines.contains l)

/-- Whether a range overlaps a barrier object of the table (R125). -/
def Context.touchesBarrier (c : Context) (off n : Nat) : Bool := c.barriers.any (fun b => overlaps off n b.off 16)

/-- The bytes of a channel's slot area (R141). -/
def Channel.areaSize (ch : Channel) : Nat := ch.slots * (if ch.wide then 512 else 8)

/-- Whether a range of a context's slice overlaps the slot area of a channel that it receives from as a member of the channel's
crew (R141). -/
def State.touchesArea (s : State) (c : Context) (off n : Nat) : Bool :=
  s.chans.any (fun ch => ch.dst == c.key && c.crew == some ch.crew && overlaps off n ch.area ch.areaSize)

/-- A barrier's object (R124). -/
def Barrier.word (b : Barrier) : Nat := b.expected + b.counted * 2 ^ 32 + (if b.phase then 2 ^ 64 else 0)

/-- Fields of the slice written by an instruction of the current context. -/
def writeSlice (off n x marks : Nat) : M Unit := modify fun s => s.sliceWrite s.cur.key off n x marks

/-! Copy configurations (R128, R129, R260). -/

/-- A copy configuration set's fields. -/
structure CopyCfg where
  sstride : Nat
  rows : Nat
  len : Nat
  jw : Nat
  mode : Nat
  ben : Bool
  bar : Nat
  dstride : Nat
deriving DecidableEq, Repr

/-- The fields of a set (R128). -/
def copyCfg (a b : Word) : CopyCfg where
  sstride := wbits a 40 24
  rows := wbits a 24 16
  len := wbits a 0 24
  jw := wbits b 50 2
  mode := wbits b 46 2
  ben := b.getLsbD 45
  bar := wbits b 24 21
  dstride := wbits b 0 24

/-- The bytes of a joined element's cell (R129): H, W, D or 16 bytes. -/
def CopyCfg.cellBytes (g : CopyCfg) : Nat :=
  match g.jw with
  | 0 => 2 | 1 => 4 | 2 => 8 | _ => 16

/-- The bytes of a joined element in the source. -/
def CopyCfg.elemBytes (g : CopyCfg) : Nat := min g.cellBytes 8

/-- The destination bytes of a row: twice LEN for 16-byte cells in join mode (R129). -/
def CopyCfg.dstLen (g : CopyCfg) : Nat := if g.mode = 2 && g.jw = 3 then 2 * g.len else g.len

/-- The scratchpad window starts here. -/
def windowBase : Nat := 0x7FFFFFE00000

/-- A virtual address lies in the scratchpad window. -/
def inScratchWindow (va : Nat) : Bool := decide (windowBase ≤ va) && decide (va < 0x800000000000)

/-- The slice ranges of `rows` rows of `len` bytes at a window address. -/
def rowRanges (va stride rows len : Nat) : List (Nat × Nat) :=
  if inScratchWindow va then (List.range rows).map (fun r => (va - windowBase + r * stride, len)) else []

/-- The source address of row `r` of a gather (R136): its index stands at slice offset `ix`. -/
def State.gatherRow (s : State) (c : Context) (g : CopyCfg) (src ix r : Nat) : Nat :=
  src + s.sliceRead c (ix + 4 * r) 4 * g.sstride

/-! Views, runs and lamp configurations. -/

/-- Bits of a 256-bit descriptor. -/
def dbits (x : BitVec 256) (lo n : Nat) : Nat := bitsOf x.toNat lo n

/-- A view's fields (R182). -/
structure View where
  base : Nat
  c : Nat
  w : Nat
  h : Nat
  kh : Nat
  kw : Nat
  stride : Nat
  dil : Nat
  padt : Nat
  padl : Nat
  rows : Nat
  first : Nat
  padv : Nat
deriving DecidableEq, Repr

/-- A view descriptor read by R182, which the running example's own descriptor disagrees with (notes/assumptions/83.md). -/
def viewOf (x : BitVec 256) : View where
  base := dbits x 0 21
  c := dbits x 24 16
  w := dbits x 40 16
  h := dbits x 64 16
  kh := dbits x 80 4
  kw := dbits x 84 4
  stride := dbits x 88 4
  dil := dbits x 92 4
  padt := dbits x 96 4
  padl := dbits x 100 4
  rows := dbits x 104 7
  first := dbits x 128 32
  padv := dbits x 192 32

/-- The bytes of a run of `n` elements of `w` bits (R41). -/
def runBytes (n w : Nat) : Nat := (n * w + 7) / 8

/-- The bytes of the activation tensor of a view for an A format (R183): a codebook index of 8n bits holds 8 elements. -/
def View.bytes (v : View) (fmt : Nat) : Nat :=
  if isCodebook fmt then v.h * v.w * v.c / 8 * (fmt - 27) else runBytes (v.h * v.w * v.c) (fmtWidth fmt)

/-- The bytes of B for `g` groups (R184). -/
def bBytes (fmt g : Nat) : Nat := if isCodebook fmt then 64 * g * (fmt - 27) else 64 * (8 * g) * fmtWidth fmt / 8

/-- A lamp configuration's fields (R186). -/
structure LampCfg where
  theta : Int
  reset : Bool
  leak : Nat
  fanidx : Nat
  entries : Nat
  log : Nat
  logcap : Nat
  fired : Nat
  barrier : Nat
  p : Nat
  first : Nat
  step : Nat
deriving DecidableEq, Repr

/-- A lamp configuration read from its 64 bytes (R186). -/
def lampCfgOf (x : Nat) : LampCfg where
  theta := signed 32 (bitsOf x 32 32)
  reset := bitsOf x 5 1 == 1
  leak := bitsOf x 0 5
  fanidx := bitsOf x 64 21
  entries := bitsOf x (64 + 21) 21
  log := bitsOf x 128 21
  logcap := bitsOf x (128 + 42) 22
  fired := bitsOf x 192 32
  barrier := bitsOf x 256 48
  p := bitsOf x 320 32
  first := bitsOf x 352 32
  step := bitsOf x 384 32

/-- The reserved bits of a lamp configuration are zero (R186). -/
def lampReservedOk (x : Nat) : Bool :=
  bitsOf x 6 26 == 0 && bitsOf x (64 + 42) 22 == 0 && bitsOf x (128 + 21) 21 == 0 && bitsOf x (192 + 32) 32 == 0 &&
    bitsOf x (256 + 48) 16 == 0 && bitsOf x (384 + 32) 96 == 0

/-- Where the configuration of the bank on a tile stands, and what a run takes from the bytes `m` of the slice for it. -/
def Context.bankIn (c : Context) (tile : Nat) (m : Mem) : Option (Nat × LampCfg) :=
  (c.lampCfg[Fin.ofNat 16 tile]).map (fun off => (off, lampCfgOf (m.readN off 64)))

/-- The bytes of a context's slice with their marks, as a byte space of their own. -/
def State.sliceImage (s : State) (c : Context) : Mem :=
  let part (m : Memory) : Memory := (m.filter (fun x => decide (c.sliceBase ≤ x.1) &&
    decide (x.1 < c.sliceBase + c.sliceSize))).map (fun x => (x.1 - c.sliceBase, x.2))
  { cells := part s.scratch.cells, marks := part s.scratch.marks }

/-- The fan-out of a cell in the bytes of a slice (R187): first entry and count. -/
def LampCfg.fanOut (g : LampCfg) (m : Mem) (cell : Nat) : Nat × Nat :=
  let x := m.readN (g.fanidx + 4 * cell) 4
  (x % 2 ^ 20, x / 2 ^ 20)

/-- The slice ranges of a bank in the bytes of a slice: configuration, index, entries and log (R188). -/
def LampCfg.ranges (g : LampCfg) (m : Mem) (off : Nat) : List (Nat × Nat) :=
  [(off, 64), (g.fanidx, 16384), (g.log, 8 * g.logcap)] ++
    (List.range 4096).filterMap (fun cell =>
      let f := g.fanOut m cell
      if f.2 = 0 then none else some (g.entries + 8 * f.1, 8 * f.2))

/-! The operand ranges of a command (R178, R256). -/

/-- The slice ranges a command reads; a run goes by the bytes of the slice as they stood at its acceptance. -/
def State.cmdReads (s : State) (c : Context) (k : CmdKind) (bank : Mem) : List (Nat × Nat) :=
  match k with
  | .ccopy a b src _ _ =>
    let g := copyCfg a b
    rowRanges src.toNat g.sstride g.rows g.len
  | .cgather a b src _ ix =>
    let g := copyCfg a b
    let list := ix.toNat - windowBase
    (list, 4 * g.rows) :: (if inScratchWindow src.toNat then
        (List.range g.rows).map (fun r => (s.gatherRow c g src.toNat list r - windowBase, g.len)) else [])
  | .cjoin a b src _ =>
    let g := copyCfg a b
    rowRanges src.toNat g.sstride g.rows g.len
  | .mma view a b =>
    let v := viewOf view
    [(v.base, v.bytes (wbits b 4 5)), (wbits a 0 21, bBytes (wbits b 9 5) (wbits a 32 16))]
  | .mscaleacc a _ =>
    [(wbits a 0 21, 8 * fmtWidth (wbits a 21 5)), (wbits a 29 21, 8 * fmtWidth (wbits a 50 5))]
  | .mload a _ => [(wbits a 0 21, 512 * fmtWidth (wbits a 21 5))]
  | .lrun a _ => match c.bankIn (wbits a 0 4) bank with
    | some (off, g) => g.ranges bank off
    | none => []
  | .mzero _ | .mdiscard _ | .mstore .. | .lspark .. => []

/-- The slice ranges a command writes. -/
def Context.cmdWrites (c : Context) (k : CmdKind) (bank : Mem) : List (Nat × Nat) :=
  match k with
  | .ccopy a b _ dst _ =>
    let g := copyCfg a b
    if g.mode = 0 then rowRanges dst.toNat g.dstride g.rows g.len else []
  | .cgather a b _ dst _ =>
    let g := copyCfg a b
    rowRanges dst.toNat g.dstride g.rows g.len
  | .mstore a _ _ _ => [(wbits a 0 21, 512 * fmtWidth (wbits a 21 5))]
  | .lrun a _ => match c.bankIn (wbits a 0 4) bank with
    | some (off, g) => [(off, 64), (g.log, 8 * g.logcap)]
    | none => []
  | .cjoin .. | .mma .. | .mscaleacc .. | .mload .. | .mzero _ | .mdiscard _ | .lspark .. => []

/-- The tiles a command reads. -/
def CmdKind.tileReads : CmdKind → List Nat
  | .mma _ _ b => if b.getLsbD 35 then [] else [wbits b 0 4]
  | .mscaleacc _ b => if b.getLsbD 35 then [wbits b 4 4] else [wbits b 0 4, wbits b 4 4]
  | .mstore _ b _ _ => [wbits b 0 4]
  | .lrun a _ => [wbits a 0 4]
  | _ => []

/-- The tiles a command writes. -/
def CmdKind.tileWrites : CmdKind → List Nat
  | .mzero t => [t]
  | .mdiscard t => [t]
  | .mma _ _ b => [wbits b 0 4]
  | .mscaleacc _ b => [wbits b 0 4]
  | .mload _ b => [wbits b 0 4]
  | .lrun a _ => [wbits a 0 4]
  | _ => []

/-- A command is accepted and incomplete. -/
def Cmd.incomplete (m : Cmd) : Bool := m.state != .done

/-- Whether one of two lists of ranges shares a byte with the other. -/
def rangesMeet (xs ys : List (Nat × Nat)) : Bool := xs.any (fun x => ys.any (fun y => overlaps x.1 x.2 y.1 y.2))

/-- A load of slice bytes waits for a command that writes them (R178). -/
def Context.loadWaits (c : Context) (off n : Nat) : Bool :=
  c.cmds.any (fun m => m.incomplete && rangesMeet [(off, n)] (c.cmdWrites m.kind m.bank))

/-- A store to slice bytes waits for a command that reads or writes them (R178). -/
def State.storeWaits (s : State) (c : Context) (off n : Nat) : Bool :=
  c.cmds.any (fun m => m.incomplete &&
    (rangesMeet [(off, n)] (c.cmdWrites m.kind m.bank) || rangesMeet [(off, n)] (s.cmdReads c m.kind m.bank)))

/-- A VACC instruction waits for a command that names its tile (R178). -/
def Context.tileWaits (c : Context) (t : Nat) : Bool :=
  c.cmds.any (fun m => m.incomplete && (m.kind.tileReads.contains t || m.kind.tileWrites.contains t))

/-! Tiles (R138, R140, R181). -/

/-- The place of word `w` of a context's tile in the accumulator stores' byte space. -/
def Context.tileWord (c : Context) (t w : Nat) : Nat := c.core * 2 ^ 18 + (c.tileMap[t]?).getD 0 * 2 ^ 14 + 4 * w

/-- A word of a tile. -/
def State.tileRead (s : State) (c : Context) (t w : Nat) : Nat := s.acc.readN (c.tileWord t w) 4

/-- A word of a tile with its mark. -/
def State.tileWordOf (s : State) (c : Context) (t w : Nat) : Nat × Bool :=
  (s.tileRead c t w, s.acc.marked (c.tileWord t w) 4)

/-- A whole tile zeroed. -/
def State.tileZero (s : State) (c : Context) (t : Nat) : State :=
  { s with acc := s.acc.clear (c.tileWord t 0) (2 ^ 14) }

end Sys2Proof.Machine
end

