-- ==== Sys2Proof/Machine/Translate.lean ====
section
/-! DEFINITION. Addresses: windows, the physical map, the page walk, the translation caches and the fetch of instructions
(spec/04_translation_and_tiers.md R84 to R97, spec/03_field_memory.md R63, R81). -/
namespace Sys2Proof.Machine

/-- The windows of the virtual map (R84). -/
inductive Window where
  | guardPage | global | stack | scratch | onChip | device | unused
deriving DecidableEq, Repr

/-- The window an address lies in (R84). -/
def windowOf (va : Nat) : Window :=
  if va < 0x1000 then .guardPage
  else if va < 0x7FFFFE000000 then .global
  else if va < 0x7FFFFFE00000 then .stack
  else if va < 0x800000000000 then .scratch
  else if va < 0x800300000000 then .onChip
  else if va < 0x800400000000 then .device
  else .unused

/-- The base of the stack window. -/
def stackWindow : Nat := 0x7FFFFE000000

/-- The base of the scratchpad window. -/
def scratchWindow : Nat := 0x7FFFFFE00000

/-- [pa, pa + n) lies in HBM data: below the metadata region of one stack (R89, R90). -/
def hbmData (pa n : Nat) : Bool := decide (pa + n ≤ 2 ^ 39) && decide (pa % 2 ^ 36 + n ≤ 0xFE0000000)

/-- [pa, pa + n) lies in the second tier (R89). -/
def secondTier (pa n : Nat) : Bool := decide (2 ^ 40 ≤ pa) && decide (pa + n ≤ 2 ^ 41)

/-- [pa, pa + n) lies in host memory (R89). -/
def hostMemory (pa n : Nat) : Bool := decide (2 ^ 51 ≤ pa) && decide (pa + n ≤ 2 ^ 52)

/-- A place a table may have (R91, R92). -/
def goodTable (pa n : Nat) : Bool := hbmData pa n || secondTier pa n

/-- A place a page may have (R89, R90). -/
def goodPage (pa n : Nat) : Bool := hbmData pa n || secondTier pa n || hostMemory pa n

/-- The memory die that is the home of a physical address (R66), by stack or by second-tier range. -/
def homeDie (pa : Nat) : Nat := if pa % 2 ^ 52 < 2 ^ 40 then bitsOf pa 36 3 else bitsOf pa 37 3

/-- Whether a key of the byte space `mem` lies in another package, and in which. (notes/assumptions/30.md) -/
def keyPackage (key : Nat) : Option Nat := if key < 2 ^ 52 then none else some (key / 2 ^ 52 - 1)

/-- The home of a line as a node: a memory die and its port PA[8:7] (R112), the CXL port, or a remote home (R66).
(notes/assumptions/30.md) -/
def homeNode (key : Nat) : Node :=
  match keyPackage key with
  | some p => .remote p (homeDie (key % 2 ^ 52))
  | none => if key < 2 ^ 51 then .die (homeDie key) (bitsOf key 7 2) else .cxl

/-- The base die of a key's home in its package: host memory has its home at the CXL port on BD0. -/
def homeBd (key : Nat) : Nat := if key % 2 ^ 52 < 2 ^ 51 then homeDie key / 2 else 0

/-- What an access is for (R95). -/
inductive AccessKind where
  | read | write | fetch
deriving DecidableEq, Repr

/-- The address bits below which a level's entry covers memory (R92). -/
def levelShift : Nat → Nat
  | 0 => 12 | 1 => 16 | 2 => 21 | 3 => 30 | _ => 39

/-- The entries of a level's table (R92). -/
def levelEntries : Nat → Nat
  | 0 => 16 | 1 => 32 | _ => 512

/-- The size of a level's table (R92). -/
def tableSize (l : Nat) : Nat := levelEntries l * 16

/-- A TRANSLATION fault with its level, cause and the range its stopping point covers (R95, R97).
(notes/assumptions/66.md) -/
def walkFault (va level cause : Nat) : FaultInfo where
  code := .translation
  addr := BitVec.ofNat 64 va
  level := level
  cause := cause
  lo := if level = 5 then 0 else alignDown va (2 ^ levelShift level)
  size := if level = 5 then 2 ^ 48 else 2 ^ levelShift level

/-- Whether an entry is malformed at its level (R94). `own` is this package's id. -/
def malformed (w0 w1 : Word) (lvl : Nat) (own : Option (BitVec 12)) : Bool :=
  let leaf := w0.getLsbD 1
  let ty := wbits w0 2 4
  let remote := w0.getLsbD 10
  if leaf then
    decide (lvl = 4) || decide (wbits w0 52 12 ≠ 0) || decide (wbits w1 28 36 ≠ 0) ||
      decide (wbits w0 12 40 * 4096 % 2 ^ levelShift lvl ≠ 0) ||
      (remote && (decide (ty = 0) || decide (11 ≤ ty) || w0.getLsbD 7 ||
        (match own with
        | some id => decide (wbits w1 16 12 = id.toNat)
        | none => false)))
  else
    decide (lvl = 0) || decide (wbits w0 2 10 ≠ 0) || decide (wbits w0 52 12 ≠ 0) || decide (w1 ≠ 0) ||
      (decide (3 ≤ lvl) && w0.getLsbD 12)

/-- The page a leaf entry maps (R93). -/
def leafOf (w0 w1 : Word) (lvl : Nat) : Leaf where
  pa := wbits w0 12 40 * 4096
  size := 2 ^ levelShift lvl
  ty := wbits w0 2 4
  arg := BitVec.ofNat 8 (wbits w1 0 8)
  gen := BitVec.ofNat 8 (wbits w1 8 8)
  w := w0.getLsbD 6
  x := w0.getLsbD 7
  sys := w0.getLsbD 11
  cnt := w0.getLsbD 9
  jblock := w0.getLsbD 8
  remote := w0.getLsbD 10
  pkg := wbits w1 16 12

/-- The walk from a table at level `lvl` (R95). `rd` reads a 16-byte entry. Also answers the place of the leaf entry. -/
def walkFrom (rd : Nat → Word × Word) (own : Option (BitVec 12)) (va : Nat) :
    Nat → Nat → Except FaultInfo (Leaf × Nat)
  | lvl, table =>
    let pa := table + 16 * (va / 2 ^ levelShift lvl % levelEntries lvl)
    let e := rd pa
    if !e.1.getLsbD 0 then .error (walkFault va lvl 1)
    else if malformed e.1 e.2 lvl own then .error (walkFault va lvl 2)
    else if e.1.getLsbD 1 then
      let l := leafOf e.1 e.2 lvl
      if l.remote || goodPage l.pa l.size then .ok (l, pa) else .error { walkFault va lvl 3 with leaf := true }
    else match lvl with
      | 0 => .error (walkFault va 0 2)
      | n + 1 =>
        let next := wbits e.1 12 40 * 4096
        if goodTable next (tableSize n) then walkFrom rd own va n next else .error (walkFault va (n + 1) 3)

/-- The package's id, once it is set (R372). -/
def State.ownId (s : State) : Option (BitVec 12) := if s.bar1.pkgvalid then some s.bar1.pkgid else none

/-- A doubleword of memory. -/
def State.word (s : State) (pa : Nat) : Word := BitVec.ofNat 64 (s.mem.readN pa 8)

/-- The entries that a walk from a table at level `lvl` reads down to its leaf: the range each maps, and its place (R92,
R95). -/
def walkRows (rd : Nat → Word × Word) (va : Nat) : Nat → Nat → List (Nat × Nat × Nat)
  | lvl, table =>
    let pa := table + 16 * (va / 2 ^ levelShift lvl % levelEntries lvl)
    let e := rd pa
    (alignDown va (2 ^ levelShift lvl), 2 ^ levelShift lvl, pa) ::
      (if e.1.getLsbD 1 then []
      else match lvl with
        | 0 => []
        | n + 1 => walkRows rd va n (wbits e.1 12 40 * 4096))

/-- The whole walk of an address space (R91, R95), reading table entries by `rd`. -/
def walkWith (s : State) (rd : Nat → Word × Word) (asid : BitVec 12) (va : Nat) : Except FaultInfo (Leaf × Nat) :=
  let base := s.bar1.astbase.toNat
  if base = 0 then .error (walkFault va 5 1)
  else
    let d := rd (base + 16 * asid.toNat)
    let root := wbits d.1 12 40 * 4096
    if !d.1.getLsbD 0 then .error (walkFault va 5 1)
    else if decide (d.2 ≠ 0) || decide (wbits d.1 52 12 ≠ 0) || decide (wbits d.1 1 11 ≠ 0) || d.1.getLsbD 12 then
      .error (walkFault va 5 2)
    else if !goodTable root 8192 then .error (walkFault va 5 3)
    else walkFrom rd s.ownId va 4 root

/-- The walk that reads every entry from its home. -/
def walk (s : State) (asid : BitVec 12) (va : Nat) : Except FaultInfo (Leaf × Nat) :=
  walkWith s (fun pa => (s.word pa, s.word (pa + 8))) asid va

/-- The checks of R95 that follow the walk; X is checked by the fetch. -/
def leafChecks (l : Leaf) (kind : AccessKind) (sys : Bool) (va : Nat) : Except FaultInfo Unit :=
  let f (code : FaultCode) : FaultInfo :=
    { code := code, addr := BitVec.ofNat 64 va, lo := alignDown va l.size, size := l.size }
  if l.sys && !sys then .error (f .permission)
  else if decide (12 ≤ l.ty) then .error (f .badType)
  else if kind == .write && !l.w then .error (f .permission)
  else if hostMemory l.pa l.size && decide (l.ty ≠ 0) then .error (f .badType)
  else .ok ()

/-- The compute die and the quad of a core (R2). -/
def dieOf (core : Nat) : Nat := core / 192

/-- The number of a core's quad in the package. -/
def quadOf (core : Nat) : Nat := core / 4

/-- Whether a cached translation covers an address. -/
def TlbEntry.hits (e : TlbEntry) (level unit : Nat) (asid : BitVec 12) (va : Nat) : Bool :=
  e.level == level && e.unit == unit && e.asid == asid && decide (e.page ≤ va) && decide (va < e.page + e.leaf.size)

/-- A table entry as a walker of a die sees it: from the die's cache if it is there and the cache serves the walk, else
from its home (R96). -/
def readTable (s : State) (die : Nat) (cached : Bool) (asid : BitVec 12) (pa : Nat) : Word × Word :=
  match s.tableCache.find? (fun t => t.die == die && t.asid == asid && t.pa == pa) with
  | some t => if cached then (t.word0, t.word1) else (s.word pa, s.word (pa + 8))
  | none => (s.word pa, s.word (pa + 8))

/-- A list without the elements of a kind that follow the first `n` of them: a cache that holds `n` entries, newest first. -/
def keepFirst {α : Type} (p : α → Bool) : Nat → List α → List α
  | _, [] => []
  | n, x :: r =>
    if p x then match n with
      | 0 => keepFirst p 0 r
      | k + 1 => x :: keepFirst p k r
    else x :: keepFirst p n r

/-- The translation of a page put into the L1 TLB of a core and the L2 TLB of its quad, which hold 64 and 2,048 entries
(R96). -/
def State.putTlb (s : State) (core : Nat) (asid : BitVec 12) (va : Nat) (l : Leaf) : State :=
  let page := alignDown va l.size
  let at1 : TlbEntry := { level := 0, unit := core, asid := asid, page := page, leaf := l }
  let at2 : TlbEntry := { level := 1, unit := quadOf core, asid := asid, page := page, leaf := l }
  let rest := s.tlb.filter (fun e => !(e.hits 0 core asid va || e.hits 1 (quadOf core) asid va))
  { s with
    tlb := keepFirst (fun e => e.level == 0 && e.unit == core) 64
      (keepFirst (fun e => e.level == 1 && e.unit == quadOf core) 2048 (at1 :: at2 :: rest)) }

/-- The entries that a walk has read, put into the cache of table entries of a die, which holds 256 (R96). -/
def State.putRows (s : State) (die : Nat) (asid : BitVec 12) (rd : Nat → Word × Word) (rows : List (Nat × Nat × Nat)) :
    State :=
  let new := rows.map (fun r => ({ die := die, asid := asid, lo := r.1, size := r.2.1, pa := r.2.2
                                   word0 := (rd r.2.2).1, word1 := (rd r.2.2).2 } : TableEntry))
  let rest := s.tableCache.filter (fun t => !(t.die == die && t.asid == asid && rows.any (fun r => r.2.2 == t.pa)))
  { s with tableCache := keepFirst (fun t => t.die == die) 256 (new ++ rest) }

/-- What a translation cache answers where it may have replaced the entry (R96). -/
def serve (hit : Option TlbEntry) : M (Option Leaf) := do
  match hit with
  | some e =>
    let b ← choose
    return if b then some e.leaf else none
  | none => return none

/-- Translate of R95 for an agent of a core, through the L1 and L2 translation caches and the cache of table entries (R96).
A failed translation, a fetch without X among them, is not cached (R97). -/
def tryTranslate (core : Nat) (asid : BitVec 12) (sys : Bool) (kind : AccessKind) (va : Nat) :
    M (Except FaultInfo Leaf) := do
  let s ← get
  let hit1 := s.tlb.find? (fun e => e.hits 0 core asid va)
  let hit2 := s.tlb.find? (fun e => e.hits 1 (quadOf core) asid va)
  let first ← serve hit1
  let cached ← if first.isSome then pure first else serve hit2
  match cached with
  | some l =>
    match leafChecks l kind sys va with
    | .ok () => return .ok l
    | .error f => return .error f
  | none =>
    let fromCache ← if s.tableCache.isEmpty then pure false else choose
    let rd := readTable s (dieOf core) fromCache asid
    match walkWith s rd asid va with
    | .error f => return .error f
    | .ok (l, _) =>
      match leafChecks l kind sys va with
      | .error f => return .error f
      | .ok () =>
        if kind != .fetch || l.x then
          let root := wbits (rd (s.bar1.astbase.toNat + 16 * asid.toNat)).1 12 40 * 4096
          modify fun s => (s.putTlb core asid va l).putRows (dieOf core) asid rd (walkRows rd va 4 root)
        return .ok l

/-- Translate for the current context, its fault precise. -/
def translate (kind : AccessKind) (va : Nat) : M Leaf := do
  let c ← cur
  match (← tryTranslate c.core c.asid c.sys kind va) with
  | .ok l => return l
  | .error f => raiseInfo f

/-- The key in `mem` of an address of a page (R80, R89). -/
def Leaf.key (l : Leaf) (va : Nat) : Nat := (if l.remote then (l.pkg + 1) * 2 ^ 52 else 0) + l.pa + va % l.size

/-! Line metadata (R63). -/

/-- The metadata byte of the line at a key. -/
def State.meta_ (s : State) (key : Nat) : BitVec 8 := s.md.read (key / 128)

/-- STATE: 0 GROWING, 1 FILLED, 2 FROZEN. -/
def mdState (b : BitVec 8) : Nat := b.toNat % 4

/-- POISON -/
def mdPoison (b : BitVec 8) : Bool := b.getLsbD 2

/-- WIDTH: for types 2 to 10, 0 unset, 1 H, 2 W, 3 D or 16 bytes; for FILL1, 1 filled. -/
def mdWidth (b : BitVec 8) : Nat := b.toNat / 8 % 4

/-- WATCHED -/
def mdWatched (b : BitVec 8) : Bool := b.getLsbD 5

/-- A metadata byte from its fields. -/
def mdOf (watched : Bool) (width : Nat) (poison : Bool) (state : Nat) : BitVec 8 :=
  BitVec.ofNat 8 (state % 4 + (if poison then 4 else 0) + width % 4 * 8 + (if watched then 32 else 0))

/-- The metadata byte of a line set. -/
def State.setMd (s : State) (key : Nat) (b : BitVec 8) : State := { s with md := s.md.write (key / 128) b }

/-! Homes that cannot be reached (R120, R371, R374, R375). -/

/-- Two base dies are in one group: one of the two ways round the ring between them is whole (R374). Edge n joins BDn and
BD(n + 1 mod 4). -/
def joinedDies (dead : BitVec 4) (a b : Nat) : Bool :=
  let whole (x y : Nat) : Bool := (List.range ((y + 4 - x) % 4)).all (fun i => !dead.getLsbD ((x + i) % 4))
  whole a b || whole b a

/-- The edges that carry nothing: failed ones, and those of a fenced base die. -/
def State.deadEdges (s : State) : BitVec 4 :=
  s.edges ||| BitVec.ofNat 4 ((List.range 4).foldl (fun acc e =>
    if s.fencedBase.getLsbD e || s.fencedBase.getLsbD ((e + 1) % 4) then acc + 2 ^ e else acc) 0)

/-- Whether one base die cannot reach another: one of them is fenced, or the ring is split between them.
(notes/assumptions/55.md) -/
def State.apart (s : State) (a b : Nat) : Bool :=
  s.fencedBase.getLsbD a || s.fencedBase.getLsbD b || !joinedDies s.deadEdges a b

/-- Whether a base die is lost: fenced, or cut from BD0 by a split ring. -/
def State.bdLost (s : State) (bd : Nat) : Bool := s.fencedBase.getLsbD bd || s.apart 0 bd

/-- The links of a dimension and direction are up: links by number 0 +x a, 1 -x a, 2 +y a, 3 -y a, 4 +z a, 5 -z a, and 6 to
11 the b links in the same order (R118). -/
def State.linkUp (s : State) (l : Fin 12) : Bool := s.links[l].up

/-- The dimensions in which two packages differ, in the order in which a message is routed (R119). -/
def dimsBetween (a b : Nat) : List Nat := (List.range 3).filter (fun k => decide (bitsOf a (4 * k) 4 ≠ bitsOf b (4 * k) 4))

/-- One of this package's four links along a dimension is up. -/
def State.dimUp (s : State) (k : Nat) : Bool := (List.range 12).any (fun l => decide (l % 6 / 2 = k) && s.linkUp (Fin.ofNat 12 l))

/-- Whether package `p` can be reached over this package's links, and its answers can come back (R119, R120): a request leaves
along the first dimension that differs, and its answer comes in along the last. -/
def State.packageReached (s : State) (p : Nat) : Bool :=
  match s.ownId with
  | none => false
  | some own => (dimsBetween own.toNat p).head?.all s.dimUp && (dimsBetween own.toNat p).getLast?.all s.dimUp

/-- The fault of an access whose home is lost to the base die `bd` that makes it, or whose page a forced offline marked lost.
(notes/assumptions/55.md) -/
def State.lostCode (s : State) (key : Nat) (bd : Nat := 0) : Option FaultCode :=
  match keyPackage key with
  | some p => if s.packageReached p then none else some .homeLost
  | none =>
    if s.lost.any (fun r => decide (r.1 ≤ key) && decide (key < r.1 + r.2)) then some .dataLost
    else if key < 2 ^ 51 && (s.apart bd (homeDie key / 2) || s.fencedDies.getLsbD (homeDie key)) then some .homeLost
    else none

/-! Access counting (R101 to R103). -/

/-- The count of a 64 KiB unit. -/
def State.counter (s : State) (unit : Nat) : Nat := ((s.counters.find? (fun c => c.1 == unit)).map (fun c => c.2)).getD 0

/-- A counter set. -/
def State.setCounter (s : State) (unit n : Nat) : State :=
  let rest := s.counters.filter (fun c => c.1 != unit)
  { s with counters := if n = 0 then rest else (unit, n) :: rest }

/-- A notification of a unit whose counter has reached the threshold (R102, R103). (notes/assumptions/61.md) -/
def State.notify (s : State) (unit : Nat) (va : Word) (asid : BitVec 12) : State :=
  let base := s.bar1.notifybase.toNat
  if base = 0 then s
  else
    let prod := s.mem.readN base 8
    let cons := s.mem.readN (base + 8) 8
    let cap := s.mem.readN (base + 0x18) 8
    if cap = 0 || prod - cons = cap then
      { s with mem := s.mem.writeN (base + 0x10) 8 (s.mem.readN (base + 0x10) 8 + 1) false }
    else
      let source := if hostMemory (65536 * unit) 1 then 1 else 0
      let lo := asid.toNat + source * 2 ^ 12 + wbits va 16 32 * 2 ^ 16
      let m1 := s.mem.writeN (base + 64 + 16 * (prod % cap)) 16 (lo + 65536 * unit * 2 ^ 64) false
      { s with mem := m1.writeN base 8 (prod + 1) false }

/-- A request for a line that has reached its home through a translation whose CNT is `cnt` (R101, R102).
(notes/assumptions/60.md) -/
def State.countAt (s : State) (cnt : Bool) (key : Nat) (va : Word) (asid : BitVec 12) : State :=
  if cnt && (secondTier key 1 || hostMemory key 1) then
    let unit := key / 65536
    let n := s.counter unit
    if n < 65535 then
      let s1 := s.setCounter unit (n + 1)
      if n + 1 = s.bar1.cntthresh then s1.notify unit va asid else s1
    else s
  else s

/-! Lines (R63, R106). -/

/-- The line of an address of a page, numbered over all packages. -/
def Leaf.line (l : Leaf) (va : Nat) : Nat := l.key va / 128

/-- A line as its home holds it. -/
def State.snap (s : State) (line ty : Nat) : LineSnap where
  line := line
  ty := ty
  data := BitVec.ofNat 1024 (s.mem.readN (128 * line) 128)
  marks := BitVec.ofNat 128 (s.mem.markBits (128 * line) 128)
  md := s.md.read line

/-- `n` bytes of a line from a byte of it on. -/
def LineSnap.bytes (x : LineSnap) (at_ n : Nat) : Nat := bitsOf x.data.toNat (8 * at_) (8 * n)

/-- The marks of those bytes. -/
def LineSnap.markBits (x : LineSnap) (at_ n : Nat) : Nat := bitsOf x.marks.toNat at_ n

/-- A fault met after a leaf was found: it covers the leaf's page (R97). (notes/assumptions/66.md) -/
def pageFault (code : FaultCode) (va : Nat) (l : Leaf) : FaultInfo where
  code := code
  addr := BitVec.ofNat 64 va
  lo := alignDown va l.size
  size := l.size

/-- The line of a core's L1 data cache for an address, if it is there under the page's generation (R106, R78). -/
def Core.l1Line (k : Core) (asid : BitVec 12) (va : Nat) (gen : BitVec 8) (line : Nat) : Option L1Line :=
  k.l1.find? (fun x => x.asid == asid && x.va == va / 128 && x.gen == gen && x.snap.line == line)

/-- The level of the leaf that maps a page of a size (R92). -/
def levelOf (size : Nat) : Nat := if size ≤ 2 ^ 12 then 0 else if size ≤ 2 ^ 16 then 1 else if size ≤ 2 ^ 21 then 2 else 3

/-- The fault that a home's answer names at an address. One of TRANSLATION is the test of a REMOTE page's physical address,
made at the home package (R94): a bad physical address at the level of the leaf (R95). (notes/assumptions/71.md) -/
def State.answerFault (s : State) (asid : BitVec 12) (code : FaultCode) (va : Word) (more : Nat := 0) : FaultInfo :=
  if code = .translation then
    match walk s asid va.toNat with
    | .ok (l, _) => { code := code, addr := va, level := levelOf l.size, cause := 3, more := more
                      lo := alignDown va.toNat l.size, size := l.size }
    | .error _ => { code := code, addr := va, cause := 3, more := more }
  else { code := code, addr := va, more := more }

/-- A REMOTE page of a bad physical address: the whole page is judged (R89, R90, R94). -/
def Leaf.badPage (l : Leaf) : Bool := l.remote && !goodPage l.pa l.size

/-- The fault of a request at the home that holds an address of a page: the home or the page is lost, or the physical address of
a REMOTE page is bad (R94). (notes/assumptions/71.md) -/
def State.homeCode (s : State) (l : Leaf) (va : Nat) (bd : Nat := 0) : Option FaultCode :=
  match s.lostCode (l.key va) bd with
  | some code => some code
  | none => if l.badPage then some .translation else none

/-- A request of a context that its home performs at once, counted as an access (R101). -/
def State.countRead (s : State) (c : Context) (l : Leaf) (va : Nat) : State :=
  s.countAt l.cnt (l.key va) (BitVec.ofNat 64 va) c.asid

end Sys2Proof.Machine
end

