-- ==== Sys2Proof/Machine/Chip.lean ====
section
/-! DEFINITION. The system registers of a context as words, the on-chip physical map and the device block
(spec/07_registers_and_encodings.md R154 to R157, spec/06_scratchpad_copy_engine_channels.md R138 to R140,
spec/15_host_management_reliability.md R365). -/
namespace Sys2Proof.Machine

/-! System registers (R154 to R157, R301). CYCLE is not among them: its value is drawn. -/

/-- The number of a context's core (R157). -/
def Context.coreWord (c : Context) : Word := BitVec.ofNat 64 c.core

/-- A system register by number (R154). CORE, ASID and CTXID give what names the context unless a store through the on-chip
map has written another value there (R147). -/
def Context.sysWord (c : Context) (n : Nat) : Word :=
  match n with
  | 0 => c.regs.status
  | 1 => c.regs.mode
  | 2 => c.regs.seed
  | 4 => c.written[0].getD c.coreWord
  | 5 => c.asid.setWidth 64
  | 6 => c.written[2].getD (c.key.ctxid.setWidth 64)
  | 7 => c.stackBase
  | 8 => c.stackSize
  | 9 => c.faultCode
  | 10 => c.faultAddr
  | 11 => c.faultPc
  | 12 => c.regs.ndlog
  | 13 => c.regs.icount
  | 16 => c.cmdq[0]
  | 17 => c.cmdq[1]
  | 18 => c.cmdq[2]
  | 19 => c.cmdq[3]
  | _ => 0

/-- The reserved bits of a system register, which read as zero (R10, R155 to R157, R301). -/
def reservedBits (n : Nat) : Word :=
  match n with
  | 0 => 0xFFFFFFFFFFFF32E0
  | 1 => 0xFFFFFFFFFFFFFFE0
  | 4 => 0xFFFFFFFFFFFFFC00
  | 5 => 0xFFFFFFFFFFFFF000
  | 6 => 0xFFFFFFFFFFFF0000
  | 7 => 0xFFF0000000000FFF
  | 8 => 0xFFFFFFFFFE000FFF
  | 9 => 0xFFFFFF00E0FF0000
  | 11 => 0xFFFF000000000000
  | 12 => 0x7FFF000000000000
  | 16 => 0x000000000000FF00
  | 17 => 0xFFFF000000000000
  | 18 => 0xFFFF000000000000
  | 19 => 0xFFFFFFFF00000000
  | 20 => 0xFFFFFFFFFFFFFFFE
  | _ => 0

/-- What a store leaves in CORE, ASID or CTXID: nothing beside the name where it writes the name itself. -/
def Context.rename (c : Context) (i : Fin 3) (own x : Word) : Context :=
  { c with written := c.written.set i (if x = own then none else some x) }

/-- A system register with all its fields written, as a save or restore does (R147); its reserved bits stay zero (R10). ASID
selects the address space from then on (R91); which context it is stays whatever CORE, ASID and CTXID are written to, and
CYCLE, whose value now is `now`, counts on from what is written (notes/assumptions/29.md). -/
def Context.setSysWord (c : Context) (n : Nat) (y : Word) (now : Word := 0) : Context :=
  let x := y &&& ~~~ reservedBits n
  match n with
  | 0 => { c with regs := { c.regs with status := x } }
  | 1 => { c with regs := { c.regs with mode := x } }
  | 2 => { c with regs := { c.regs with seed := x } }
  | 3 => { c with cycleOff := x - now }
  | 4 => c.rename 0 c.coreWord x
  | 5 => c.rename 1 (c.key.asid.setWidth 64) x
  | 6 => c.rename 2 (c.key.ctxid.setWidth 64) x
  | 7 => { c with stackBase := x }
  | 8 => { c with stackSize := x }
  | 9 => { c with faultCode := x }
  | 10 => { c with faultAddr := x }
  | 11 => { c with faultPc := x }
  | 12 => { c with regs := { c.regs with ndlog := x } }
  | 13 => { c with regs := { c.regs with icount := x } }
  | 16 => { c with cmdq := c.cmdq.set 0 x }
  | 17 => { c with cmdq := c.cmdq.set 1 x }
  | 18 => { c with cmdq := c.cmdq.set 2 x }
  | 19 => { c with cmdq := c.cmdq.set 3 x }
  | _ => c

/-- The numbers that R154 assigns. -/
def sysNumOk (n : Nat) : Bool := decide (n < 14) || (decide (16 ≤ n) && decide (n ≤ 20))

/-! The register block of a slot (R138). -/

/-- The tile map of a placement record (R140). -/
def tileMapWord (m : List Nat) : Nat := packList 4 m

/-- The word of a target register's second half: prepared bit at byte 8 bit 0, subcode at byte 9. -/
def targetFlags (t : Target) : Word := BitVec.ofNat 64 ((if t.prepared then 1 else 0) + t.sub.toNat * 256)

/-- A word as memory holds it, bit i of `marks` marking byte i (R350). -/
structure MWord where
  bits : Word
  marks : BitVec 8 := 0
deriving DecidableEq, Repr

/-- A scalar as memory holds it: its mark marks every byte. -/
def Val.toWord (v : Val) : MWord where
  bits := v.bits
  marks := if v.mark then 0xFF else 0

/-- A scalar read back: marked where any of its bytes is. -/
def MWord.toVal (w : MWord) : Val where
  bits := w.bits
  mark := w.marks != 0

/-- Word `i` of a vector, two lanes, each lane's mark on its four bytes. -/
def vecWord (v : Vec) (i : Nat) : MWord where
  bits := v.bits.extractLsb' (64 * i) 64
  marks := (if v.mark.getLsbD (2 * i) then 0x0F else 0) ||| (if v.mark.getLsbD (2 * i + 1) then 0xF0 else 0)

/-- A vector with word `i` written; a lane is marked where any of its four bytes is. -/
def setVecWord (v : Vec) (i : Nat) (x : MWord) : Vec :=
  let m : BitVec 128 := 3#128 <<< (2 * i)
  let lanes : BitVec 128 := (if x.marks &&& 0x0F = 0 then 0 else 1) ||| (if x.marks &&& 0xF0 = 0 then 0 else 2)
  { bits := (mergeLanes m { bits := x.bits.setWidth 4096 <<< (64 * i) } v).bits
    mark := (lanes <<< (2 * i)) ||| (v.mark &&& ~~~ m) }

/-- The pointer of a port's channel: what its end of the channel gives, changed as a store through the on-chip map has changed
it; of a port with no channel, what such a store has left (R138, notes/assumptions/8.md). -/
def State.chanWord (s : State) (c : Context) (p : Fin 8) : Word :=
  c.chanPtr[p] ^^^ (match c.ports[p] with
    | none => 0
    | some e => match s.chan? e.chan with
      | none => 0
      | some ch => Config.chanPointer e.sending ch.area ch.slots (if e.sending then ch.puts else ch.takes))

/-- The word of a channel pointer at an offset of a slot's block, if it is one. -/
def portAt (off : Nat) : Option (Fin 8) := if 0x200 ≤ off && off < 0x240 then some (Fin.ofNat 8 ((off - 0x200) / 8)) else none

/-- An object's bytes where `n` bytes at `a` are written over it. -/
def Barrier.over (b : Barrier) (at_ a n x : Nat) : Barrier :=
  if overlaps a n at_ 16 then
    let bytes := ((({} : Mem).writeN at_ 16 b.word false).writeN a n x false).readN at_ 16
    { b with expected := bitsOf bytes 0 32, counted := bitsOf bytes 32 32, phase := bitsOf bytes 64 1 == 1 }
  else b

/-- The handler area with the barrier objects in it (R125, R145). -/
def Context.areaShown (c : Context) : Mem := c.barriers.foldl (fun m b => m.writeN b.off 16 b.word false) c.area

/-- The word at an 8-byte-aligned offset of a slot's register block, or none in a gap (R138, R139); a channel pointer without
what its channel gives. -/
def Context.fileWord (c : Context) (off : Nat) : Option MWord :=
  let i := off / 8
  if off < 0x100 then some c.regs.g[i % 32].toWord
  else if off < 0x180 then some c.regs.q[(i - 32) % 16].toWord
  else if off < 0x200 then
    let t := c.regs.b[((i - 48) / 2) % 8]
    some { bits := if i % 2 = 0 then t.addr.setWidth 64 else targetFlags t
           marks := if t.marks.getLsbD (i % 2) then 0xFF else 0 }
  else if off < 0x240 then some { bits := c.chanPtr[(i - 64) % 8] }
  else if off = 0x400 then some { bits := BitVec.ofNat 64 (c.base + c.foot * 512) }
  else if off = 0x408 then some { bits := BitVec.ofNat 64 (tileMapWord c.tileMap) }
  else if 0x1000 ≤ off && off < 0x3000 && !c.inH then
    some (vecWord (c.regs.v[((off - 0x1000) / 512) % 16]) (i % 64))
  else if 0x3000 ≤ off && off < 0x4000 && !c.inH then
    some (vecWord (c.regs.y[((off - 0x3000) / 512) % 8]) (i % 64))
  else if 0x4000 ≤ off && off < 0x4100 && c.inH then
    some { bits := BitVec.ofNat 64 (c.areaShown.readN (off - 0x4000) 8)
           marks := BitVec.ofNat 8 (c.area.markBits (off - 0x4000) 8) }
  else none

/-- The same word written. -/
def Context.setFileWord (c : Context) (off : Nat) (x : MWord) : Context :=
  let i := off / 8
  if off < 0x100 then { c with regs := { c.regs with g := c.regs.g.set (i % 32) x.toVal } }
  else if off < 0x180 then { c with regs := { c.regs with q := c.regs.q.set ((i - 32) % 16) x.toVal } }
  else if off < 0x200 then
    let n := ((i - 48) / 2) % 8
    let t := c.regs.b[n]
    let half : BitVec 2 := 1#2 <<< (i % 2)
    let marks := (t.marks &&& ~~~half) ||| (if x.marks = 0 then 0 else half)
    let t1 : Target := if i % 2 = 0 then { t with addr := x.bits.setWidth 48, marks := marks }
      else { t with marks := marks, prepared := x.bits.getLsbD 0, sub := BitVec.ofNat 8 (wbits x.bits 8 8) }
    { c with regs := { c.regs with b := c.regs.b.set n t1 } }
  else if off < 0x240 then { c with chanPtr := c.chanPtr.set ((i - 64) % 8) x.bits }
  else if off = 0x400 then { c with base := wbits x.bits 0 9, foot := wbits x.bits 9 10 }
  else if off = 0x408 then { c with tileMap := (List.range c.tiles).map (fun t => wbits x.bits (4 * t) 4) }
  else if 0x1000 ≤ off && off < 0x3000 && !c.inH then
    let n := ((off - 0x1000) / 512) % 16
    { c with regs := { c.regs with v := c.regs.v.set n (setVecWord c.regs.v[n] (i % 64) x) } }
  else if 0x3000 ≤ off && off < 0x4000 && !c.inH then
    let n := ((off - 0x3000) / 512) % 8
    { c with regs := { c.regs with y := c.regs.y.set n (setVecWord c.regs.y[n] (i % 64) x) } }
  else if 0x4000 ≤ off && off < 0x4100 && c.inH then
    { c with
      area := c.area.writeMarks (off - 0x4000) 8 x.bits.toNat x.marks.toNat
      barriers := c.barriers.map (fun b => b.over b.off (off - 0x4000) 8 x.bits.toNat) }
  else c

/-- The word of a context's register block (R138). -/
def State.fileWord (s : State) (c : Context) (off : Nat) : Option MWord :=
  match portAt off with
  | some p => some { bits := s.chanWord c p }
  | none => c.fileWord off

/-- The same word written: a channel pointer then reads as what is written. -/
def State.withFileWord (s : State) (c : Context) (off : Nat) (x : MWord) : Context :=
  match portAt off with
  | some p => { c with chanPtr := c.chanPtr.set p (c.chanPtr[p] ^^^ s.chanWord c p ^^^ x.bits) }
  | none => c.setFileWord off x

/-- The letter of a slot number (R138). -/
def slotOf (n : Nat) : Slot :=
  match n with
  | 0 => .h | 1 => .a | 2 => .b | _ => .c

/-- The context in a slot of a core. -/
def State.inSlot (s : State) (core : Nat) (sl : Slot) : Option Context :=
  (s.residents core).find? (fun c => c.slot == some sl)

/-- A context is stopped for save or restore (R139): at a fault, a trap or a breakpoint, or pre-empted and on its way to its
frame. -/
def Context.halted (c : Context) : Bool := c.status == .stopped || (c.leaving && c.status != .running)

/-- Whether a resident context of a core that is not stopped holds any of `n` bytes of its scratchpad (R139). -/
def State.scratchHeld (s : State) (core off n : Nat) : Bool :=
  (s.residents core).any (fun c => !c.halted && !c.inH && overlaps off n (c.base * 4096) (c.foot * 4096))

/-- Whether such a context holds a word of an accumulator tile. -/
def State.tileHeld (s : State) (core off n : Nat) : Bool :=
  (s.residents core).any (fun c => !c.halted &&
    (c.tileMap.take c.tiles).any (fun t => overlaps off n (t * 2 ^ 14) (2 ^ 14)))

/-- A place in the on-chip map. -/
inductive ChipPlace where
  | scratch (off : Nat)
  | acc (off : Nat)
  /-- an aligned word of a slot's register block -/
  | file (slot off : Nat)
  /-- aligned words of a slot's system registers -/
  | sys (slot off : Nat)
deriving DecidableEq, Repr

/-- The words that `n` bytes at an aligned offset touch. -/
def wordsOf (off n : Nat) : List Nat := (List.range ((n + 7) / 8)).map (fun i => off + 8 * i)

/-- Where `n` bytes of a core's block lie, or none: misaligned or in a gap (R138, R139). That a system-register number which is
not assigned is a gap is the model's choice (notes/assumptions/29.md). -/
def chipPlace (off n : Nat) : Option ChipPlace :=
  if off + n ≤ 0x200000 then some (.scratch off)
  else if 0x400000 ≤ off && off + n ≤ 0x440000 then some (.acc (off - 0x400000))
  else if 0x800000 ≤ off && off + n ≤ 0x840000 && off % 8 = 0 then some (.file ((off - 0x800000) / 0x10000) (off % 0x10000))
  else if 0xC00000 ≤ off && off + n ≤ 0xC04000 && off % 8 = 0 then
    let o := off % 0x1000
    if (wordsOf o n).all (fun w => sysNumOk (w / 8)) then some (.sys ((off - 0xC00000) / 0x1000) o) else none
  else none

/-- The word of a slot's register block, of its context or, in an empty slot, of what was left there. -/
def State.slotWord (s : State) (core slot off : Nat) : Option MWord :=
  match s.inSlot core (slotOf slot) with
  | some c => s.fileWord c off
  | none =>
    let shape : Context := { Context.empty with slot := some (slotOf slot) }
    let key := core * 2 ^ 24 + 0x800000 + slot * 0x10000 + off
    (shape.fileWord off).map (fun _ =>
      { bits := BitVec.ofNat 64 (s.spare.readN key 8), marks := BitVec.ofNat 8 (s.spare.markBits key 8) })

/-- The same word written. -/
def State.setSlotWord (s : State) (core slot off : Nat) (x : MWord) : State :=
  match s.inSlot core (slotOf slot) with
  | some c => s.setCtx (s.withFileWord c off x)
  | none => { s with
      spare := s.spare.writeMarks (core * 2 ^ 24 + 0x800000 + slot * 0x10000 + off) 8 x.bits.toNat x.marks.toNat }

/-- CYCLE as the next reading finds it (R157; notes/assumptions/3.md). -/
def State.cycleNow (s : State) : Word := Config.cycle s.free

/-- A system register of a slot, of its context or, in an empty slot, of what was left there. -/
def State.slotSys (s : State) (core slot num : Nat) : Word :=
  match s.inSlot core (slotOf slot) with
  | some c => if num = 3 then s.cycleNow + c.cycleOff else c.sysWord num
  | none => BitVec.ofNat 64 (s.spare.readN (core * 2 ^ 24 + 0xC00000 + slot * 0x1000 + 8 * num) 8)

/-- The same register written (R147). -/
def State.setSlotSys (s : State) (core slot num : Nat) (x : Word) : State :=
  match s.inSlot core (slotOf slot) with
  | some c => s.setCtx (c.setSysWord num x s.cycleNow)
  | none =>
    let key := core * 2 ^ 24 + 0xC00000 + slot * 0x1000 + 8 * num
    { s with spare := s.spare.writeN key 8 (x &&& ~~~ reservedBits num).toNat false }

/-- Bytes of barrier objects of stopped contexts, laid over the scratchpad's bytes (R125, R139); those of slot H stand in its
handler area. -/
def State.overlayBarriers (s : State) (core : Nat) (m : Mem) : Mem :=
  ((s.residents core).filter (fun c => !c.inH)).foldl (fun m c => c.barriers.foldl (fun m b =>
    m.writeN (core * 2 ^ 21 + c.base * 4096 + b.off) 16 b.word false) m) m

/-- A fault of an access at an address, or its data and marks. -/
abbrev Data := Except FaultInfo (Nat × Nat)

/-- `n` bytes of a core's block read (R139). (notes/assumptions/29.md) -/
def State.chipRead (s : State) (core off n : Nat) (va : Word) : Data :=
  match chipPlace off n with
  | none => .error { code := .address, addr := va }
  | some (.scratch o) =>
    if s.scratchHeld core o n then .error { code := .permission, addr := va }
    else
      let m := s.overlayBarriers core s.scratch
      .ok (m.readN (core * 2 ^ 21 + o) n, m.markBits (core * 2 ^ 21 + o) n)
  | some (.acc o) =>
    if s.tileHeld core o n then .error { code := .permission, addr := va }
    else .ok (s.acc.readN (core * 2 ^ 18 + o) n, s.acc.markBits (core * 2 ^ 18 + o) n)
  | some (.file slot o) =>
    if (s.inSlot core (slotOf slot)).any (fun c => !c.halted) then .error { code := .permission, addr := va }
    else
      let ws := (wordsOf o n).map (s.slotWord core slot)
      if ws.any Option.isNone then .error { code := .address, addr := va }
      else
        let vs := ws.filterMap id
        .ok (packList 64 (vs.map (fun v => v.bits.toNat)) % 2 ^ (8 * n),
          packList 8 (vs.map (fun v => v.marks.toNat)) % 2 ^ n)
  | some (.sys slot o) =>
    if (s.inSlot core (slotOf slot)).any (fun c => !c.halted) then .error { code := .permission, addr := va }
    else .ok (packList 64 ((wordsOf o n).map (fun w => (s.slotSys core slot (w / 8)).toNat)) % 2 ^ (8 * n), 0)

/-- A word with its low `n` bytes replaced. -/
def mergeBytes (old x n : Nat) : Nat := x % 2 ^ (8 * n) + old / 2 ^ (8 * n) * 2 ^ (8 * n)

/-- `n` bytes of a core's block written (R139, R147). (notes/assumptions/29.md) -/
def State.chipWrite (s : State) (core off n x marks : Nat) (va : Word) : Except FaultInfo State :=
  match chipPlace off n with
  | none => .error { code := .address, addr := va }
  | some (.scratch o) =>
    if s.scratchHeld core o n then .error { code := .permission, addr := va }
    else
      let s1 := { s with scratch := s.scratch.writeMarks (core * 2 ^ 21 + o) n x marks }
      .ok (((s.residents core).filter (fun c => !c.inH)).foldl (fun s c => s.modCtx c.key (fun c => { c with
        barriers := c.barriers.map (fun b => b.over (c.base * 4096 + b.off) o n x) })) s1)
  | some (.acc o) =>
    if s.tileHeld core o n then .error { code := .permission, addr := va }
    else .ok { s with acc := s.acc.writeMarks (core * 2 ^ 18 + o) n x marks }
  | some (.file slot o) =>
    if (s.inSlot core (slotOf slot)).any (fun c => !c.halted) then .error { code := .permission, addr := va }
    else if (wordsOf o n).any (fun w => (s.slotWord core slot w).isNone) then .error { code := .address, addr := va }
    else .ok ((wordsOf o n).foldl (fun s w =>
      let k := min 8 (n - (w - o))
      let old := (s.slotWord core slot w).getD { bits := 0 }
      s.setSlotWord core slot w
        { bits := BitVec.ofNat 64 (mergeBytes old.bits.toNat (x / 2 ^ (8 * (w - o))) k)
          marks := BitVec.ofNat 8 (bitsOf marks (w - o) k + old.marks.toNat / 2 ^ k * 2 ^ k) }) s)
  | some (.sys slot o) =>
    if (s.inSlot core (slotOf slot)).any (fun c => !c.halted) then .error { code := .permission, addr := va }
    else .ok ((wordsOf o n).foldl (fun s w =>
      let k := min 8 (n - (w - o))
      s.setSlotSys core slot (w / 8)
        (BitVec.ofNat 64 (mergeBytes (s.slotSys core slot (w / 8)).toNat (x / 2 ^ (8 * (w - o))) k))) s)

/-! Device registers (R365). -/

/-- The offsets of BAR1's registers. -/
def bar1Offsets : List Nat := [0x00, 0x08, 0x10, 0x18, 0x20, 0x28, 0x30, 0x38, 0x40, 0x48, 0x50]

/-- A BAR0 register read (R366): a field marked WO reads as zero (R9). (notes/assumptions/61.md) -/
def State.bar0Read (s : State) (off : Nat) : Word :=
  if 0x4000 ≤ off then 0
  else
    let r := s.queues[Fin.ofNat 64 (off / 0x100)]
    match off % 0x100 with
    | 0x00 => r.ring
    | 0x08 => r.rsize
    | 0x18 => r.head.setWidth 64
    | 0x20 => r.comp
    | 0x28 => r.ctail.setWidth 64
    | 0x30 => BitVec.ofNat 64 (r.mode.toNat * 16 + (if r.suspend then 2 else 0) + (if r.en then 1 else 0))
    | 0x38 => if r.suspended then 1 else 0
    | 0x40 => r.tdbuf
    | 0x48 => r.tdcap.setWidth 64
    | 0x50 => r.rlog
    | 0x58 => r.rlogsize.setWidth 64
    | _ => 0

/-- A BAR1 register read (R365). -/
def State.bar1Read (s : State) (off : Nat) : Word :=
  match off with
  | 0x00 => s.bar1.astbase
  | 0x08 => s.bar1.svcbase
  | 0x10 => s.bar1.notifybase
  | 0x18 => BitVec.ofNat 64 s.bar1.cntthresh
  | 0x20 => BitVec.ofNat 64 s.bar1.timeslice
  | 0x28 => s.bar1.hostasid.setWidth 64
  | 0x30 => s.bar1.logbase
  | 0x38 => BitVec.ofNat 64 s.bar1.logsize
  | 0x48 => (if s.bar1.pkgvalid then 0x8000000000000000 else 0) ||| s.bar1.pkgid.setWidth 64
  | 0x50 => s.bar1.logprod.setWidth 64
  | _ => 0

/-- The bits [hi:lo] of a word in their places, the rest zero. -/
def fieldBits (x : Word) (lo hi : Nat) : Word := BitVec.ofNat 64 (wbits x lo (hi + 1 - lo) * 2 ^ lo)

/-- A BAR1 register written (R365). A request to take a memory die offline is left for OFFLINE_REQUEST and
OFFLINE_FORCED. -/
def State.bar1Write (s : State) (off : Nat) (x : Word) : State :=
  match off with
  | 0x00 => { s with bar1 := { s.bar1 with astbase := fieldBits x 16 51 } }
  | 0x08 => { s with bar1 := { s.bar1 with svcbase := fieldBits x 17 51 } }
  | 0x10 => { s with bar1 := { s.bar1 with notifybase := fieldBits x 12 51 } }
  | 0x18 => if wbits x 0 16 = 0 then s else { s with bar1 := { s.bar1 with cntthresh := wbits x 0 16 } }
  | 0x20 =>
    let t := wbits x 0 17
    if 100 ≤ t && t ≤ 100000 then { s with bar1 := { s.bar1 with timeslice := t } } else s
  | 0x28 => { s with bar1 := { s.bar1 with hostasid := BitVec.ofNat 12 (wbits x 0 12) } }
  | 0x30 => { s with bar1 := { s.bar1 with logbase := fieldBits x 12 51, logprod := 0 } }
  | 0x38 => { s with bar1 := { s.bar1 with logsize := wbits x 0 16, logprod := 0 } }
  | 0x40 => if x.getLsbD 4 then { s with offline := s.offline ++ [(Fin.ofNat 8 (wbits x 0 3), x.getLsbD 3)] } else s
  | _ => s

/-- The device block: `n` bytes read at an offset of the window (R365). (notes/assumptions/61.md) -/
def State.deviceRead (s : State) (off n : Nat) (va : Word) : Data :=
  if bar1Offsets.contains off && decide (n ≤ 8) then .ok ((s.bar1Read off).toNat % 2 ^ (8 * n), 0)
  else .error { code := .address, addr := va }

/-- The device block: `n` bytes written at an offset of the window. -/
def State.deviceWrite (s : State) (off n x : Nat) (va : Word) : Except FaultInfo State :=
  if bar1Offsets.contains off && decide (n ≤ 8) then
    .ok (s.bar1Write off (BitVec.ofNat 64 (mergeBytes (s.bar1Read off).toNat x n)))
  else .error { code := .address, addr := va }

end Sys2Proof.Machine
end

