-- ==== Sys2Proof/Machine/Flags.lean ====
section
/-! DEFINITION. Condition words, the sticky flags, and the float operations and conversions with the flags they set
(spec/02_number_formats.md R49 to R52, spec/08_arithmetic_units.md R170 to R174, spec/09 R209 to R212). -/
namespace Sys2Proof.Machine

/-! The sticky flags as bits 4 to 0 of STATUS (R155). -/

/-- Invalid operation. -/
def flagNV : Nat := 16
/-- Divide by zero. -/
def flagDZ : Nat := 8
/-- Overflow. -/
def flagOF : Nat := 4
/-- Underflow. -/
def flagUF : Nat := 2
/-- Inexact. -/
def flagNX : Nat := 1

/-- A result's code and the flags it sets. -/
structure FResult where
  code : Nat
  flags : Nat := 0
deriving DecidableEq, Repr

/-- The flag's bit where a condition holds. -/
def flagIf (b : Bool) (f : Nat) : Nat := if b then f else 0

/-! Condition words. -/

/-- A condition word from its eight bits, bit 0 first. -/
def condWord (bs : List Bool) : Word := BitVec.ofNat 64 (bs.foldr (fun b acc => (if b then 1 else 0) + 2 * acc) 0)

/-- The condition word of CMP and CMPI (R209). -/
def cmpWord (a b : Word) : Word :=
  condWord [a == b, a != b, a.slt b, !a.slt b, a.ult b, !a.ult b, a.sle b, !a.sle b]

/-- The order of two values that are no NaN; the zeros are equal. -/
def fcompare (x y : FValue) : Ordering :=
  match x, y with
  | .inf nx, .inf ny => if nx == ny then .eq else if nx then .lt else .gt
  | .inf nx, _ => if nx then .lt else .gt
  | _, .inf ny => if ny then .gt else .lt
  | _, _ =>
    let d := addDyadic x.dyadic (-(y.dyadic.1), y.dyadic.2)
    if d.1 < 0 then .lt else if d.1 = 0 then .eq else .gt

/-- The condition word of CMPF (R210). -/
def cmpfWord (x y : FValue) : Word :=
  if x.isNan || y.isNan then condWord [false, true, false, false, true, false, false, false]
  else
    let o := fcompare x y
    condWord [o == .eq, o != .eq, o == .lt, o != .lt, false, true, o != .gt, o == .gt]

/-! Arithmetic (R170, R172). -/

/-- A nonzero exact result rounded once to a format with infinities, with OF, UF and NX. -/
def FFmt.finish (f : FFmt) (r : Rounding) (x : Exact) : FResult :=
  let rd := f.round r x
  let code := f.codeOf rd
  let ovf := decide (f.maxCode < code)
  let tiny := decide (x.top < f.emin)
  { code := f.withSign x.neg (if ovf then f.overflowCode r x.neg else code)
    flags := flagIf ovf flagOF + flagIf (tiny && rd.inexact) flagUF + flagIf (rd.inexact || ovf) flagNX }

/-- A NaN source returned quieted (R170). -/
def FFmt.quiet (f : FFmt) (v : FValue) : Nat :=
  match v with
  | .nan neg p _ => f.withSign neg (f.infCode + (p / 2 ^ (23 - f.mb)) % 2 ^ f.mb ||| 2 ^ (f.mb - 1))
  | _ => f.canonicalNan

/-- The result where some source is a NaN: the first NaN quieted, with NV for a signaling source or for `invalid`. -/
def nanResult (f : FFmt) (vs : List FValue) (invalid : Bool := false) : FResult :=
  { code := match vs.find? FValue.isNan with
      | some v => f.quiet v
      | none => f.canonicalNan
    flags := flagIf (invalid || vs.any FValue.isSignaling) flagNV }

/-- The sign of an exact zero sum of two terms (R170). -/
def zeroSumSign (r : Rounding) (a b : Bool) : Bool := if a == b then a else r.mode == 2

/-- x + y, each given with its sign taken into account by the caller. -/
def FFmt.addV (f : FFmt) (r : Rounding) (x y : FValue) : FResult :=
  match x, y with
  | .inf nx, .inf ny =>
    if nx == ny then { code := f.withSign nx f.infCode } else { code := f.canonicalNan, flags := flagNV }
  | .inf nx, _ => { code := f.withSign nx f.infCode }
  | _, .inf ny => { code := f.withSign ny f.infCode }
  | .zero nx, .zero ny => { code := f.withSign (zeroSumSign r nx ny) 0 }
  | _, _ =>
    let d := addDyadic x.dyadic y.dyadic
    if d.1 = 0 then { code := f.withSign (zeroSumSign r x.neg (!x.neg)) 0 } else f.finish r (.ofDyadic d)

/-- A value with its sign changed. -/
def FValue.negate : FValue → FValue
  | .nan n p s => .nan (!n) p s
  | .inf n => .inf (!n)
  | .zero n => .zero (!n)
  | .fin n m e => .fin (!n) m e

/-- x + y (R234). -/
def FFmt.add (f : FFmt) (r : Rounding) (x y : FValue) : FResult :=
  if x.isNan || y.isNan then nanResult f [x, y] else f.addV r x y

/-- x − y (R234): a NaN source keeps its sign. -/
def FFmt.sub (f : FFmt) (r : Rounding) (x y : FValue) : FResult :=
  if x.isNan || y.isNan then nanResult f [x, y] else f.addV r x y.negate

/-- 0 × ∞. -/
def mulInvalid (x y : FValue) : Bool := (x.isZero && y.isInf) || (x.isInf && y.isZero)

/-- x × y exactly, of values that are no NaN and not 0 × ∞. A zero has the exclusive or of the signs, with an integer 0 for one
factor too, which is the model's choice (R54, R55; notes/assumptions/81.md). -/
def mulValue (x y : FValue) : FValue :=
  let n := x.neg != y.neg
  if x.isInf || y.isInf then .inf n
  else if x.isZero || y.isZero then .zero n
  else
    let d := mulDyadic x.dyadic y.dyadic
    .fin n d.1.natAbs d.2

/-- A value rounded to a format. -/
def FFmt.ofValue (f : FFmt) (r : Rounding) (v : FValue) : FResult :=
  match v with
  | .nan .. => { code := f.quiet v }
  | .inf n => { code := f.withSign n f.infCode }
  | .zero n => { code := f.withSign n 0 }
  | .fin n m e => f.finish r { neg := n, mant := m, exp := e }

/-- x × y (R234). -/
def FFmt.mul (f : FFmt) (r : Rounding) (x y : FValue) : FResult :=
  if x.isNan || y.isNan then nanResult f [x, y]
  else if mulInvalid x y then { code := f.canonicalNan, flags := flagNV }
  else f.ofValue r (mulValue x y)

/-- z + x × y, or z − x × y, rounded once (R234). -/
def FFmt.fma (f : FFmt) (r : Rounding) (minus : Bool) (x y z : FValue) : FResult :=
  if x.isNan || y.isNan || z.isNan then nanResult f [x, y, z] (mulInvalid x y)
  else if mulInvalid x y then { code := f.canonicalNan, flags := flagNV }
  else
    let p := mulValue x y
    f.addV r z (if minus then p.negate else p)

/-- Whether x is below y, −0 below +0 (R171). -/
def minMaxLess (x y : FValue) : Bool :=
  match x, y with
  | .zero nx, .zero ny => nx && !ny
  | _, _ => fcompare x y == .lt

/-- VMIN or VMAX (R171) on the codes; they set no flag. -/
def FFmt.minMax (f : FFmt) (wantMax : Bool) (xc yc : Nat) : Nat :=
  let x := f.decode xc
  let y := f.decode yc
  if x.isNan && y.isNan then f.canonicalNan
  else if x.isNan then yc
  else if y.isNan then xc
  else if minMaxLess x y == wantMax then yc else xc

/-- √x (R235). -/
def FFmt.sqrt (f : FFmt) (r : Rounding) (x : FValue) : FResult :=
  match x with
  | .nan .. => nanResult f [x]
  | .inf n => if n then { code := f.canonicalNan, flags := flagNV } else { code := f.infCode }
  | .zero n => { code := f.withSign n 0 }
  | .fin n m e => if n then { code := f.canonicalNan, flags := flagNV } else f.finish r (exactSqrt m e)

/-- 1 / x (R235). -/
def FFmt.recip (f : FFmt) (r : Rounding) (x : FValue) : FResult :=
  match x with
  | .nan .. => nanResult f [x]
  | .inf n => { code := f.withSign n 0 }
  | .zero n => { code := f.withSign n f.infCode, flags := flagDZ }
  | .fin n m e => f.finish r (exactRecip n m e)

/-- 1 / √x (R235). -/
def FFmt.rsqrt (f : FFmt) (r : Rounding) (x : FValue) : FResult :=
  match x with
  | .nan .. => nanResult f [x]
  | .inf n => if n then { code := f.canonicalNan, flags := flagNV } else { code := 0 }
  | .zero n => { code := f.withSign n f.infCode, flags := flagDZ }
  | .fin n m e => if n then { code := f.canonicalNan, flags := flagNV } else f.finish r (exactRsqrt m e)

/-- 2^x (R235). -/
def FFmt.exp2 (f : FFmt) (r : Rounding) (x : FValue) : FResult :=
  match x with
  | .nan .. => nanResult f [x]
  | .inf n => { code := if n then 0 else f.infCode }
  | .zero _ => f.finish r { neg := false, mant := 1, exp := 0 }
  | .fin n m e => f.finish r (exactExp2 n m e)

/-- log2 x (R235). -/
def FFmt.log2 (f : FFmt) (r : Rounding) (x : FValue) : FResult :=
  match x with
  | .nan .. => nanResult f [x]
  | .inf n => if n then { code := f.canonicalNan, flags := flagNV } else { code := f.infCode }
  | .zero _ => { code := f.withSign true f.infCode, flags := flagDZ }
  | .fin n m e =>
    if n then { code := f.canonicalNan, flags := flagNV }
    else match exactLog2 m e with
      | none => { code := 0 }
      | some y => f.finish r y

/-- x × 2^n (R236): a zero or an infinity is unchanged. -/
def FFmt.scaleb (f : FFmt) (r : Rounding) (x : FValue) (n : Int) : FResult :=
  match x with
  | .nan .. => nanResult f [x]
  | .fin s m e => f.finish r { neg := s, mant := m, exp := e + n }
  | v => f.ofValue r v

/-- The three comparisons (R237): 0 equal, 1 less, 2 less or equal. The result is whether it holds, and the flags. -/
def fcmpMask (kind : Nat) (x y : FValue) : Bool × Nat :=
  if x.isNan || y.isNan then
    (false, flagIf (decide (kind ≠ 0) || x.isSignaling || y.isSignaling) flagNV)
  else
    let o := fcompare x y
    (match kind with
      | 0 => o == .eq
      | 1 => o == .lt
      | _ => o != .gt, 0)

/-! Conversions (R49 to R52). -/

/-- A value to a float format (R49), with the flags of R52. (notes/assumptions/21.md) -/
def FFmt.convert (f : FFmt) (r : Rounding) (sat : Bool) (v : FValue) : FResult :=
  match v with
  | .nan neg p sg =>
    if f.ieee then
      { code := f.withSign neg (f.infCode + (p / 2 ^ (23 - f.mb)) % 2 ^ f.mb ||| 2 ^ (f.mb - 1)), flags := flagIf sg flagNV }
    else if f.nan4 then { code := f.withSign neg 0x7F, flags := flagIf sg flagNV }
    else { code := 0, flags := flagNV }
  | .inf n =>
    if sat then { code := f.withSign n f.maxCode, flags := flagOF + flagNX }
    else if f.ieee then { code := f.withSign n f.infCode }
    else if f.nan4 then { code := f.withSign n 0x7F, flags := flagOF + flagNX }
    else { code := f.withSign n f.maxCode, flags := flagOF + flagNX }
  | .zero n => { code := f.withSign n 0 }
  | .fin n m e =>
    let x : Exact := { neg := n, mant := m, exp := e }
    let rd := f.round r x
    let code := f.codeOf rd
    let ovf := decide (f.maxCode < code)
    let tiny := decide (x.top < f.emin)
    { code := f.withSign n (if ovf then (if sat then f.maxCode else f.overflowCode r n) else code)
      flags := flagIf ovf flagOF + flagIf (tiny && rd.inexact) flagUF + flagIf (rd.inexact || ovf) flagNX }

/-- A value rounded to a whole number in units of 2^`q`; infinities and NaNs do not come here. -/
def roundInt (r : Rounding) (v : FValue) (q : Int) : Int × Bool :=
  match v with
  | .fin n m e =>
    let rd := roundAt r { neg := n, mant := m, exp := e } q
    (if n then -(rd.n : Int) else rd.n, rd.inexact)
  | _ => (0, false)

/-- A value to an integer range (R50), with the flags of R52 and R212. -/
def convertInt (r : Rounding) (lo hi : Int) (v : FValue) : Int × Nat :=
  match v with
  | .nan .. => (0, flagNV)
  | .inf n => (if n then lo else hi, flagNV)
  | _ =>
    let x := roundInt r v 0
    if x.1 < lo then (lo, flagNV) else if hi < x.1 then (hi, flagNV) else (x.1, flagIf x.2 flagNX)

/-- A value to E8M0 (R51), with the flags of R52. A tie goes to the even code under RNE. -/
def convertE8M0 (r : Rounding) (sat : Bool) (v : FValue) : FResult :=
  match v with
  | .nan .. => { code := 0xFF, flags := flagNV }
  | .zero _ => { code := 0, flags := flagNV }
  | .inf n => if n then { code := 0xFF, flags := flagNV }
      else if sat then { code := 0xFE, flags := flagOF + flagNX } else { code := 0xFF, flags := flagNV }
  | .fin n m e =>
    if n then { code := 0xFF, flags := flagNV }
    else
      let t := topBit m
      let lo : Int := (t : Int) + e + 127
      let rem := m - 2 ^ t
      let up := rem != 0 && roundsUp r false (lo % 2).toNat rem t false
      let code := if up then lo + 1 else lo
      if code < 0 then { code := 0, flags := flagUF + flagNX }
      else if 254 < code then (if sat then { code := 0xFE, flags := flagOF + flagNX } else { code := 0xFF, flags := flagNV })
      else { code := code.toNat
             flags := flagIf (decide (lo < 0)) flagUF + flagIf (rem != 0) flagNX }

/-- A value to any format that is a target (R49 to R51); the code is as the format stores it, E8M10 in its container
(R40). -/
def convertTo (c : Nat) (r : Rounding) (sat : Bool) (v : FValue) : FResult :=
  match c with
  | 12 => convertE8M0 r sat v
  | _ => match FFmt.ofCode c with
    | some f =>
      let x := f.convert r sat v
      if c = 1 then { x with code := x.code * 2 ^ 13 } else x
    | none => match IFmt.ofCode c with
      | some i =>
        let lo : Int := if i.signed then -(2 ^ (i.bits - 1) : Nat) else 0
        let hi : Int := if i.signed then (2 ^ (i.bits - 1) : Nat) - 1 else (2 ^ i.bits : Nat) - 1
        let x := convertInt r lo hi v
        { code := unsignedOf i.bits x.1, flags := x.2 }
      | none => { code := 0 }

/-- Whether a format may be a conversion target (R50, R243): not T2, B1 or a codebook. -/
def isTarget (c : Nat) : Bool := decide (c ≠ 25) && decide (c ≠ 26) && decide (c < 28)

/-- OrderKey of R61 on a pattern of `w` bits. -/
def orderKey (w x : Nat) : Nat := if bitsOf x (w - 1) 1 = 1 then 2 ^ w - 1 - x % 2 ^ w else x % 2 ^ w + 2 ^ (w - 1)

end Sys2Proof.Machine
end

