-- ==== Sys2Proof/Machine/Lattice.lean ====
section
/-! DEFINITION. The join algebra of the types of field memory (spec/03_field_memory.md R58 to R63, R68). -/
namespace Sys2Proof.Machine

/-- The bottom of a type at width `w` bits. -/
def cellBottom (ty w : Nat) : Nat :=
  match ty with
  | 2 => 2 ^ (w - 1)
  | 4 => 2 ^ w - 1
  | 5 => 2 ^ (w - 1) - 1
  | 6 => 2 ^ w - 1
  | 7 => 2 ^ (w - 1) - 1
  | _ => 0

/-- An FXSUM cell from its sum and count, as 16 bytes. -/
def fxCell (sum : Int) (count : Nat) : Nat := unsignedOf 96 sum + min count (2 ^ 32 - 1) * 2 ^ 96

/-- Join(old, new) of types 2 to 9 at width `w` bits. -/
def cellJoin (ty w old new : Nat) : Nat :=
  match ty with
  | 2 => if signed w old < signed w new then new else old
  | 3 => max old new
  | 4 => if orderKey w old < orderKey w new then new else old
  | 5 => if signed w new < signed w old then new else old
  | 6 => min old new
  | 7 => if orderKey w new < orderKey w old then new else old
  | 8 => old ||| new
  | 9 => min (old + new) (2 ^ w - 1)
  | _ => new

/-- Passed(value, trig) at width `w` bits; for FXSUM the value is the whole cell. -/
def cellPassed (ty w value : Nat) (trig : Word) : Bool :=
  let t := trig.toNat % 2 ^ w
  match ty with
  | 2 => decide (signed w t ≤ signed w value)
  | 3 => decide (t ≤ value)
  | 4 => decide (orderKey w t ≤ orderKey w value)
  | 5 => decide (signed w value ≤ signed w t)
  | 6 => decide (value ≤ t)
  | 7 => decide (orderKey w value ≤ orderKey w t)
  | 8 => decide (value &&& t = t)
  | 9 => decide (trig.toNat ≤ value)
  | 10 => decide (trig.toNat ≤ value / 2 ^ 96)
  | _ => false

/-- The cell bytes of a WIDTH code; 16 for FXSUM (R63). -/
def widthBytes (ty code : Nat) : Nat := if ty = 10 then 16 else 2 ^ code

/-- The WIDTH code of a cell of `w` bits: H 1, W 2, D 3 and 16-byte cells 3 (R63). -/
def widthCode (w : Nat) : Nat :=
  match w with
  | 16 => 1
  | 32 => 2
  | _ => 3

/-- A type's page admits joins of `w` bits (R58). -/
def admitsJoin (ty w : Nat) : Bool :=
  (decide (2 ≤ ty) && decide (ty ≤ 8) && decide (w ≤ 64)) || (decide (ty = 9) && (decide (w = 32) || decide (w = 64))) ||
    (decide (ty = 10) && decide (w = 128))

/-- A test passes while WIDTH is unset (R68). -/
def passesUnset (ty : Nat) (trig : Word) : Bool :=
  (decide (ty = 3) || decide (ty = 8) || decide (ty = 9) || decide (ty = 10)) && decide (trig = 0)

/-- Contribution of R62; none where it is a RANGE fault. -/
def contribution (isF : Bool) (operand : Word) (e : Int) : Option Int :=
  let c : Option Int := if isF then
      match fp32.decode (operand.toNat % 2 ^ 32) with
      | .nan .. => none
      | .inf _ => none
      | .zero _ => some 0
      | v => some (roundInt rne v e).1
    else some operand.toInt
  match c with
  | some x => if x.natAbs < 2 ^ 63 then some x else none
  | none => none

end Sys2Proof.Machine
end

