-- ==== Sys2Proof/Machine/Gateway.lean ====
section
/-! DEFINITION. The gateway caches: which gateway a core's request leaves by, what its replicas answer and what answers leave
there; and the reads that need FROZEN lines, constants and code (spec/05_caches_mesh_and_links.md R106 to R113, spec/13 R335,
spec/03 R81, spec/09 R198, R214, spec/14 R349). -/
namespace Sys2Proof.Machine

/-! The way round the ring (R113, R374). -/

/-- The edges of the path from one base die eastwards to another: edge n joins BDn and BD(n + 1 mod 4). -/
def eastEdges (a b : Nat) : List Nat := (List.range ((b + 4 - a) % 4)).map (fun i => (a + i) % 4)

/-- Whether a message goes east from a base die to another (R113); none where no path is left (R374). -/
def ringEast (dead : BitVec 4) (a b : Nat) : Option Bool :=
  let east := eastEdges a b
  let west := eastEdges b a
  let eastOk := !east.any (fun e => dead.getLsbD e)
  let westOk := !west.any (fun e => dead.getLsbD e)
  if eastOk && westOk then
    if east.length = west.length then some (!east.contains 3) else some (decide (east.length < west.length))
  else if eastOk then some true
  else if westOk then some false
  else none

/-- The gateway between two neighbouring base dies, on the side of `bd`: 2 bd for west, 2 bd + 1 for east. -/
def gateAt (bd : Nat) (east : Bool) : Nat := 2 * bd + (if east then 1 else 0)

/-- The gateway on the path from a core to a base die, if they lie apart. -/
def State.pathGate (s : State) (core bd : Nat) : Option Nat :=
  if core / 192 = bd then none else (ringEast s.deadEdges (core / 192) bd).map (gateAt (core / 192))

/-- The gateway by which a core's request for a line leaves its base die, and which the answer passes (R109, R113); none where
the line's home is on that die, or in another package. -/
def State.gateFor (s : State) (core key : Nat) : Option Nat := if 2 ^ 52 ≤ key then none else s.pathGate core (homeBd key)

/-! Replicas (R109 to R111). -/

/-- Whether a cache still holds what it is asked for (notes/assumptions/7.md). -/
def State.chooseNow (s : State) : Bool × State :=
  match s.choices with
  | [] => (true, s)
  | b :: rest => (b, { s with choices := rest })

/-- The replica of a line at a gateway. -/
def State.replica? (s : State) (g line : Nat) : Option Replica :=
  s.replicas.find? (fun r => r.gate == g && r.snap.line == line)

/-- A replica gone from a gateway. -/
def State.dropReplica (s : State) (g line : Nat) : State :=
  { s with replicas := s.replicas.filter (fun r => !(r.gate == g && r.snap.line == line)) }

/-- Whether a replica may answer a request under a generation: a FROZEN one only under its own (R78, R111), and a PRIVATE
one only with the bytes of its home, which a store on its way there, or one by an agent of the package, has changed
otherwise (R335). -/
def State.replicaGood (s : State) (r : Replica) (gen : BitVec 8) : Bool :=
  if r.snap.ty = 0 then r.snap.data == (s.snap r.snap.line 0).data && r.snap.marks == (s.snap r.snap.line 0).marks
  else decide (mdState r.snap.md ≠ 2) || r.gen == gen

/-- A GROWING line refreshed by joining the value of a response into it (R110). A response that left while WIDTH was unset
carries bottom, which changes nothing. -/
def LineSnap.grow (old new : LineSnap) : LineSnap :=
  if old.ty = new.ty && decide (2 ≤ old.ty) && decide (mdState old.md = 0) && decide (mdState new.md = 0) &&
      decide (mdWidth new.md = 0) && decide (mdWidth old.md ≠ 0) then old
  else if old.ty = new.ty && decide (2 ≤ old.ty) && decide (mdState old.md = 0) && decide (mdState new.md = 0) &&
      decide (mdWidth old.md = mdWidth new.md) && decide (mdWidth old.md ≠ 0) && decide (old.ty ≤ 8) then
    let w := 8 * widthBytes old.ty (mdWidth old.md)
    { new with data := BitVec.ofNat 1024 (packList w ((List.range (1024 / w)).map (fun i =>
        cellJoin old.ty w (bitsOf old.data.toNat (w * i) w) (bitsOf new.data.toNat (w * i) w)))) }
  else if old.ty = new.ty && decide (9 ≤ old.ty) && decide (mdState old.md = 0) && decide (mdState new.md = 0) &&
      decide (mdWidth old.md = mdWidth new.md) && decide (mdWidth old.md ≠ 0) then
    let w := 8 * widthBytes old.ty (mdWidth old.md)
    { new with data := BitVec.ofNat 1024 (packList w ((List.range (1024 / w)).map (fun i =>
        let a := bitsOf old.data.toNat (w * i) w
        let b := bitsOf new.data.toNat (w * i) w
        if old.ty = 9 then max a b else if b / 2 ^ 96 < a / 2 ^ 96 then a else b))) }
  else new

/-- A replica put into a gateway cache, which holds 16 MiB (R106). -/
def State.putReplica (s : State) (r : Replica) : State :=
  { s with replicas := keepFirst (fun x => x.gate == r.gate) 131072 (r :: (s.dropReplica r.gate r.snap.line).replicas) }

/-- The replica that a line's bytes leave at a gateway they pass, read through an address under a generation (R109): one that
is there is refreshed, and one is made where `makes` says so. Lines of host memory are held by no gateway (R107). -/
def State.refreshBy (s : State) (g : Nat) (x : LineSnap) (gen : BitVec 8) (name : BitVec 12 × Nat) (makes : Bool) : State :=
  match s.replica? g x.line with
  | some r =>
    s.putReplica { r with snap := r.snap.grow x, gen := gen, names := name :: r.names.filter (fun n => n != name) }
  | none =>
    let (kept, s1) := s.chooseNow
    if makes && kept && decide (x.line < 2 ^ 44) then
      s1.putReplica { gate := g, snap := x, gen := gen, names := [name] }
    else s1

/-- The replica of a line that a store has gone through holds what its home does (R111, R335). -/
def State.renewReplica (s : State) (g line : Nat) : State :=
  { s with replicas := s.replicas.map (fun r =>
      if r.gate = g && r.snap.line = line && r.snap.ty = 0 then { r with snap := { s.snap line 0 with gen := r.snap.gen } }
      else r) }

/-- A replica has been read through an address too: an invalidation of that address finds it (R99). -/
def State.nameReplica (s : State) (g line : Nat) (name : BitVec 12 × Nat) : State :=
  { s with replicas := s.replicas.map (fun r =>
      if r.gate = g && r.snap.line = line then { r with names := name :: r.names.filter (fun n => n != name) } else r) }

/-- A replica on a core's way that answers its read of a line, as `ok` judges what it holds (R109).
(notes/assumptions/7.md, 42.md) -/
def gateRead (core : Nat) (asid : BitVec 12) (key va : Nat) (gen : BitVec 8) (ok : LineSnap → Bool) : M (Option LineSnap) := do
  let s ← get
  match s.gateFor core key with
  | none => return none
  | some g => match s.replica? g (key / 128) with
    | none => return none
    | some r =>
      if !(← choose) || !s.replicaGood r gen then
        modify fun s => s.dropReplica g (key / 128)
        return none
      else if ok r.snap then
        modify fun s => s.nameReplica g (key / 128) (asid, va / 128)
        return some r.snap
      else return none

/-- What a line of a type, read at its home by a core, leaves in the gateway that the answer passes (R109). -/
def State.leaveReplica (s : State) (core : Nat) (asid : BitVec 12) (key va ty : Nat) (gen : BitVec 8) : State :=
  match s.gateFor core key with
  | none => s
  | some g => s.refreshBy g (s.snap (key / 128) ty) gen (asid, va / 128) true

/-- The answers on their way that carry a line as it was: they leave no replica (R335, R111). -/
def State.spoilReplies (s : State) (line : Nat) : State :=
  { s with msgs := s.msgs.map (fun m => if m.snap.any (fun x => x.line == line) then { m with stale := true } else m) }

/-- A store of a core to a PRIVATE line performed at once: the replicas of the line are gone, but the one on the core's own way,
which it updates (R111, R335), and no answer on its way makes one of the line as it was. -/
def State.storePerformed (s : State) (core line : Nat) : State :=
  let own := s.gateFor core (128 * line)
  let s1 := { s with replicas := s.replicas.filter (fun r => r.snap.line != line || some r.gate == own) }.spoilReplies line
  match own with
  | some g => s1.renewReplica g line
  | none => s1

/-! Stacks in memory (R86): what a core keeps of a line that a PRIVATE page maps too follows its stack stores (R217). -/

/-- What was issued on a core, or by a context that is on it now, has left the core's buffer and is not acknowledged: whose it
is and its number. -/
def State.outsOf (s : State) (core : Nat) (p : Out → Bool) : List (Key × Nat) :=
  s.allCtxs.flatMap (fun c =>
    (c.outs.filter (fun o => (o.core == core || c.core == core) && !o.held && p o)).map (fun o => (c.key, o.n)))

/-- A store of some context of a core to a line has left the core and is not acknowledged (R335). -/
def State.storeOut (s : State) (core line : Nat) : Bool :=
  !(s.outsOf core (fun o => o.store && o.line == line)).isEmpty

/-- A line gone from a core's L1 data cache, under whatever addresses it was read. -/
def State.l1Drop (s : State) (core line : Nat) : State :=
  s.modCore core (fun k => { k with l1 := k.l1.filter (fun y => y.snap.line != line) })

/-- A core stores to a line: its contexts that have asked for the line do not leave what they get in L1 (R217). -/
def State.spoilStored (s : State) (core line : Nat) : State :=
  s.mapCtxs (fun c => if c.core == core && (c.asked || !c.lines.isEmpty) then { c with spoilt := c.spoilt ++ [line] } else c)

/-- Bytes of a stack written for a core at their home: no copy of their lines that the core could read is older (R217, R335).
(notes/assumptions/25.md) -/
def State.stackStore (s : State) (core pa n x marks : Nat) : State :=
  (linesOf pa n).foldl (fun s line => ((s.storePerformed core line).l1Drop core line).spoilStored core line)
    { s with mem := s.mem.writeMarks pa n x marks }

/-- Bytes of a stack read at their physical address for a core, by the gateway on its way or at their home: memory of the
PRIVATE kind (R86, R109). -/
def stackBytes (core : Nat) (asid : BitVec 12) (pa n va : Nat) : M (Nat × Nat) := do
  let fits := decide (pa % 128 + n ≤ 128)
  match ← if fits then gateRead core asid pa va 0 (fun x => decide (x.ty = 0)) else pure none with
  | some x => return (x.bytes (pa % 128) n, x.markBits (pa % 128) n)
  | none =>
    modify fun s => if fits then s.leaveReplica core asid pa va 0 0 else s
    return ((← get).mem.readN pa n, (← get).mem.markBits pa n)

/-! Constants (R214). -/

/-- A FROZEN line that is not poisoned. -/
def LineSnap.frozenClean (x : LineSnap) : Bool := decide (1 ≤ x.ty) && decide (mdState x.md = 2) && !mdPoison x.md

/-- The line of an address of a FILL1 page as a core reads it for constants or code: from a FROZEN replica on its way, or from
its home, where the read is counted (R101, R109); or the fault of a home or page that is lost. -/
def readFrozen (core : Nat) (asid : BitVec 12) (l : Leaf) (va : Nat) : M (Except FaultCode LineSnap) := do
  let key := l.key va
  match ← gateRead core asid key va l.gen LineSnap.frozenClean with
  | some x => return .ok x
  | none =>
    let s ← get
    match s.homeCode l va (dieOf core) with
    | some code => return .error code
    | none =>
      let x := s.snap (key / 128) l.ty
      let s1 := s.countAt l.cnt key (BitVec.ofNat 64 va) asid
      set (if x.frozenClean then s1.leaveReplica core asid key va l.ty l.gen else s1)
      return .ok x

/-- A doubleword of a FILL1 page as LDC reads it (R101, R214): of a FROZEN line that is not poisoned. A fault keeps what the
read has counted. (notes/assumptions/60.md) -/
def readConst (l : Leaf) (e : Word) : M Word := do
  let c ← cur
  match ← readFrozen c.core c.asid l e.toNat with
  | .error code => raiseInfo ((← get).answerFault c.asid code e)
  | .ok x =>
    if mdPoison x.md then raiseKept { code := .poison, addr := e }
    else if mdState x.md ≠ 2 then raiseKept { code := .prematureRead, addr := e }
    else return BitVec.ofNat 64 (x.bytes (e.toNat % 128) 8)

/-! Instruction fetch (R81, R168, R198, R349). -/

/-- The subcodes of held causes and of sequential fetch faults (R349). -/
inductive Cause where
  | tableRead | targetAddress | targetAlignment | fetchTranslation (level cause : Nat) | fetchPermission | notCode
  | fetchPoison | fetchError
deriving DecidableEq, Repr

/-- A cause's subcode (R349). -/
def Cause.sub : Cause → BitVec 8
  | .tableRead => 1 | .targetAddress => 2 | .targetAlignment => 3 | .fetchTranslation _ _ => 4 | .fetchPermission => 5
  | .notCode => 6 | .fetchPoison => 7 | .fetchError => 8

/-- A sequential fetch fault (R81); for a failed walk LEVEL and CAUSE are filled as for TRANSLATION. -/
def Cause.info (c : Cause) (va : Nat) : FaultInfo where
  code := .targetFault
  addr := BitVec.ofNat 64 va
  sub := c.sub
  level := match c with
    | .fetchTranslation l _ => l
    | _ => 0
  cause := match c with
    | .fetchTranslation _ k => k
    | _ => 0
  lo := match c with
    | .fetchTranslation l _ => (walkFault va l 1).lo
    | _ => 0
  size := match c with
    | .fetchTranslation l _ => (walkFault va l 1).size
    | _ => 0

/-- The page of an address as a core's translation caches or the tables have it: its address and size. -/
def State.pageOf (s : State) (core : Nat) (asid : BitVec 12) (va : Nat) : Nat × Nat :=
  match s.tlb.find? (fun e => e.hits 0 core asid va) with
  | some e => (e.page, e.leaf.size)
  | none => match walk s asid va with
    | .ok (l, _) => (alignDown va l.size, l.size)
    | .error _ => (0, 0)

/-- A fetch fault as it is reported: one met after a leaf was found covers the leaf's page (R97). -/
def State.fetchFault (s : State) (core : Nat) (asid : BitVec 12) (c : Cause) (va : Nat) : FaultInfo :=
  match c with
  | .fetchPermission | .notCode | .fetchPoison | .fetchError =>
    { c.info va with lo := (s.pageOf core asid va).1, size := (s.pageOf core asid va).2 }
  | _ => c.info va

/-- A target register with the cause it holds, if any (R199, R349). (notes/assumptions/22.md) -/
def Target.hold (t : Target) (c : Option Cause) : Target :=
  match c with
  | none => { t with sub := 0, level := 0, cause := 0 }
  | some x => { t with sub := x.sub, level := (x.info 0).level, cause := (x.info 0).cause }

/-- The line of a core's instruction cache for an address, if it is there (R3, R99). -/
def Core.codeLine (k : Core) (asid : BitVec 12) (va : Nat) (gen : BitVec 8) (line : Nat) : Option L1Line :=
  k.icache.find? (fun x => x.asid == asid && x.va == va / 128 && x.gen == gen && x.snap.line == line)

/-- A frozen line of code put into a core's instruction cache, which holds 64 KiB (R3). -/
def State.codePut (s : State) (core : Nat) (x : L1Line) : State :=
  let k := s.core core
  s.setCore { k with icache := (x :: k.icache.filter (fun y => !(y.asid == x.asid && y.va == x.va))).take 512 }

/-- The line that a core's instruction cache still holds. -/
def codeHeld (core : Nat) (asid : BitVec 12) (va : Nat) (l : Leaf) : M (Option LineSnap) := do
  match ((← get).core core).codeLine asid va l.gen (l.line va) with
  | some x => return if (← choose) then some x.snap else none
  | none => return none

/-- One halfword of code at an address, or the cause that keeps it from being fetched (R81, R198). What the core's
instruction cache holds is not read again (R3). (notes/assumptions/19.md, 7.md) -/
def fetchHalf (core : Nat) (asid : BitVec 12) (sys : Bool) (va : Nat) : M (Except Cause Nat) := do
  if windowOf va != .global then return .error .targetAddress
  match (← tryTranslate core asid sys .fetch va) with
  | .error f =>
    if f.code == .translation then return .error (.fetchTranslation f.level f.cause) else return .error .fetchPermission
  | .ok l =>
    if !l.x then return .error .fetchPermission
    if l.ty ≠ 1 then return .error .notCode
    match (← codeHeld core asid va l) with
    | some x => return .ok (x.bytes (va % 128) 2)
    | none =>
      match (← readFrozen core asid l va) with
      | .error _ => return .error .fetchError
      | .ok x =>
        if mdState x.md ≠ 2 then return .error .notCode
        if mdPoison x.md then return .error .fetchPoison
        if (← get).fetchErrors.contains x.line then return .error .fetchError
        modify fun s => s.codePut core { asid := asid, va := va / 128, gen := l.gen, snap := x, frozen := true }
        return .ok (x.bytes (va % 128) 2)

/-- The bytes of the instruction at an address: its first halfword, and the second one when bit 0 of the first is 1.
(notes/assumptions/19.md) -/
def fetchBytes (core : Nat) (asid : BitVec 12) (sys : Bool) (va : Nat) : M (Except (Cause × Nat) (List Byte)) := do
  match (← fetchHalf core asid sys va) with
  | .error c => return .error (c, va)
  | .ok h =>
    let low := [BitVec.ofNat 8 h, BitVec.ofNat 8 (h / 256)]
    if h % 2 = 0 then return .ok low
    match (← fetchHalf core asid sys (va + 2)) with
    | .error c => return .error (c, va + 2)
    | .ok h2 => return .ok (low ++ [BitVec.ofNat 8 h2, BitVec.ofNat 8 (h2 / 256)])

/-- FetchCheck of R198 on a full 64-bit target address. -/
def fetchCheck (core : Nat) (asid : BitVec 12) (sys : Bool) (addr : Word) : M (Option Cause) := do
  let va := addr.toNat
  if windowOf va != .global then return some .targetAddress
  if va % 2 = 1 then return some .targetAlignment
  match (← fetchBytes core asid sys va) with
  | .error (c, _) => return some c
  | .ok _ => return none

end Sys2Proof.Machine
end

