-- ==== Sys2Proof/Machine/Operands.lean ====
section
/-! DEFINITION. The operand forms that several instructions share: scalar forms A, I and W, and the lane-wise forms of the
vector unit with their marks, masks and flags (spec/09 R193, spec/10 R231, R234, spec/14 R350). -/
namespace Sys2Proof.Machine

/-- The rounding of an instruction under MODE.RM, with what stochastic rounding draws from (R45, R47). -/
def Context.rounding (c : Context) (elem : Nat) : Rounding where
  mode := c.rm
  seed := c.regs.seed.toNat
  icount := c.regs.icount.toNat
  elem := elem

/-- Flags as a number raised in STATUS. -/
def raiseFlagsN (n : Nat) : M Unit := raiseFlags (BitVec.ofNat 5 n)

/-- d := Op(a, b) (R207). -/
def alu2 (d a b : Scalar) (f : Word → Word → Word) : M Flow := do
  checkSrc a
  checkSrc b
  checkDst d
  let x ← readScalar a
  let y ← readScalar b
  writeScalar d { bits := f x.bits y.bits, mark := x.mark || y.mark }
  return .done

/-- d := Op(a) (R207, R213). -/
def alu1 (d a : Scalar) (f : Word → Word) : M Flow := do
  checkSrc a
  checkDst d
  let x ← readScalar a
  writeScalar d { bits := f x.bits, mark := x.mark }
  return .done

/-- d := a constant. -/
def aluConst (d : Scalar) (x : Word) : M Flow := do
  checkDst d
  writeScalar d { bits := x }
  return .done

/-- An FP32 operation on the low words of a and b (R210 to R212): the result is zero-extended and the flags are raised. -/
def fpu2 (d a b : Scalar) (f : Rounding → FValue → FValue → FResult) : M Flow := do
  checkSrc a
  checkSrc b
  checkDst d
  let x ← readScalar a
  let y ← readScalar b
  let c ← cur
  let r := f (c.rounding 0) (fp32.decode (x.bits.toNat % 2 ^ 32)) (fp32.decode (y.bits.toNat % 2 ^ 32))
  writeScalar d { bits := BitVec.ofNat 64 r.code, mark := x.mark || y.mark }
  raiseFlagsN r.flags
  return .done

/-- A conversion of one scalar with flags (R212). -/
def fpu1 (d a : Scalar) (f : Rounding → Word → FResult) : M Flow := do
  checkSrc a
  checkDst d
  let x ← readScalar a
  let c ← cur
  let r := f (c.rounding 0) x.bits
  writeScalar d { bits := BitVec.ofNat 64 r.code, mark := x.mark }
  raiseFlagsN r.flags
  return .done

/-! Lane-wise forms. -/

/-- The float format of a lane type (R163). -/
def laneFmt (t : Fin 8) : FFmt :=
  match t.val with
  | 0 => fp32
  | 1 => e5m10
  | _ => bf16

/-- The element width of a float lane type. -/
def laneWidth (t : Fin 8) : Nat := if t.val = 0 then 32 else 16

/-- The element width of an integer lane type (R163). -/
def intWidth (t : Fin 8) : Nat :=
  match t.val with
  | 0 => 32
  | 1 => 16
  | _ => 8

/-- The results of `f` at the elements of width `w` that lie in lanes of `m`, and the OR of their flags (R172, R234). -/
def elementwise (w : Nat) (m : BitVec 128) (f : Nat → FResult) : VecBits × Nat :=
  let rs := (List.range (4096 / w)).map (fun e => if m.getLsbD (e * w / 32) then f e else { code := 0 })
  (BitVec.ofNat 4096 (packList w (rs.map FResult.code)), rs.foldl (fun acc r => acc ||| r.flags) 0)

/-- A vector instruction of two sources: `k` is given the context, the active lanes and the values. -/
def vec2 (d a b : VSpec) (k : Context → BitVec 128 → VecBits → VecBits → VecBits × Nat) : M Flow := do
  checkVSrc a
  checkVSrc b
  checkVDst d
  let x ← readVec a
  let y ← readVec b
  let m ← activeLanes
  let c ← cur
  let r := k c m x.bits y.bits
  writeVec d { bits := r.1, mark := x.mark ||| y.mark }
  raiseFlagsN r.2
  return .done

/-- A vector instruction of one source. -/
def vec1 (d a : VSpec) (k : Context → BitVec 128 → VecBits → VecBits × Nat) : M Flow := do
  checkVSrc a
  checkVDst d
  let x ← readVec a
  let m ← activeLanes
  let c ← cur
  let r := k c m x.bits
  writeVec d { bits := r.1, mark := x.mark }
  raiseFlagsN r.2
  return .done

/-- A vector instruction of two sources that reads its destination too. -/
def vec3 (d a b : VSpec) (k : Context → BitVec 128 → VecBits → VecBits → VecBits → VecBits × Nat) : M Flow := do
  checkVSrc a
  checkVSrc b
  let x ← readVec a
  let y ← readVec b
  let z ← readVec d
  let m ← activeLanes
  let c ← cur
  let r := k c m x.bits y.bits z.bits
  writeVec d { bits := r.1, mark := x.mark ||| y.mark ||| z.mark }
  raiseFlagsN r.2
  return .done

/-- A float operation of two sources at every element (R234). -/
def lanesF2 (t : Fin 8) (op : FFmt → Rounding → FValue → FValue → FResult)
    (c : Context) (m : BitVec 128) (x y : VecBits) : VecBits × Nat :=
  let w := laneWidth t
  let f := laneFmt t
  elementwise w m (fun e => op f (c.rounding e) (f.decode (elemOf x w e)) (f.decode (elemOf y w e)))

/-- A float operation of one source at every element (R234, R235). -/
def lanesF1 (t : Fin 8) (op : FFmt → Rounding → FValue → FResult)
    (c : Context) (m : BitVec 128) (x : VecBits) : VecBits × Nat :=
  let w := laneWidth t
  let f := laneFmt t
  elementwise w m (fun e => op f (c.rounding e) (f.decode (elemOf x w e)))

/-- A fused operation at every element (R234). -/
def lanesFma (t : Fin 8) (minus : Bool) (c : Context) (m : BitVec 128) (x y z : VecBits) : VecBits × Nat :=
  let w := laneWidth t
  let f := laneFmt t
  elementwise w m (fun e => f.fma (c.rounding e) minus (f.decode (elemOf x w e)) (f.decode (elemOf y w e))
    (f.decode (elemOf z w e)))

/-- An operation on codes at every element of width `w`, without flags (R171, R238). -/
def lanesCode2 (w : Nat) (op : Nat → Nat → Nat) (_c : Context) (m : BitVec 128) (x y : VecBits) : VecBits × Nat :=
  elementwise w m (fun e => { code := op (elemOf x w e) (elemOf y w e) })

/-- The same of one source. -/
def lanesCode1 (w : Nat) (op : Nat → Nat) (_c : Context) (m : BitVec 128) (x : VecBits) : VecBits × Nat :=
  elementwise w m (fun e => { code := op (elemOf x w e) })

/-- VMIN and VMAX at every element (R171). -/
def lanesMinMax (t : Fin 8) (wantMax : Bool) : Context → BitVec 128 → VecBits → VecBits → VecBits × Nat :=
  lanesCode2 (laneWidth t) ((laneFmt t).minMax wantMax)

/-- A comparison mask at every element (R237). -/
def lanesCmp (t : Fin 8) (kind : Nat) (_c : Context) (m : BitVec 128) (x y : VecBits) : VecBits × Nat :=
  let w := laneWidth t
  let f := laneFmt t
  elementwise w m (fun e =>
    let r := fcmpMask kind (f.decode (elemOf x w e)) (f.decode (elemOf y w e))
    { code := if r.1 then 2 ^ w - 1 else 0, flags := r.2 })

/-- The smaller or larger of two `w`-bit patterns, signed. -/
def pickSigned (w : Nat) (wantMax : Bool) (x y : Nat) : Nat :=
  if (decide (signed w x < signed w y)) == wantMax then y else x

/-- The smaller or larger of two patterns, unsigned. -/
def pickUnsigned (wantMax : Bool) (x y : Nat) : Nat := if (decide (x < y)) == wantMax then y else x

/-- An integer clamped to the signed range of `w` bits (R238). -/
def clampSigned (w : Nat) (x : Int) : Int :=
  max (-(2 ^ (w - 1) : Nat) : Int) (min x ((2 ^ (w - 1) : Nat) - 1))

/-- A mask of `w` ones where a condition holds. -/
def maskIf (w : Nat) (b : Bool) : Nat := if b then 2 ^ w - 1 else 0

/-- The bitwise operations on whole vectors. -/
def lanesBits2 (op : VecBits → VecBits → VecBits) (_c : Context) (_m : BitVec 128) (x y : VecBits) : VecBits × Nat :=
  (op x y, 0)

end Sys2Proof.Machine
end

