-- ==== Sys2Proof/Machine/Access.lean ====
section
/-! DEFINITION. Steering of accesses by window, lines read from and written to memory, and the scalar loads and stores
(spec/04_translation_and_tiers.md R84 to R88, spec/09_instructions_control_scalar_field.md R215 to R217,
spec/05_caches_mesh_and_links.md R108, spec/13_memory_consistency.md R335). -/
namespace Sys2Proof.Machine

/-- Where an access goes. -/
inductive Place where
  | page (l : Leaf)
  | stack (pa : Nat)
  | slice (off : Nat)
  | chip (core off : Nat)
  | device (off : Nat)
deriving DecidableEq, Repr

/-- A fault at an address. -/
def faultAtVa (code : FaultCode) (va : Nat) : FaultInfo where
  code := code
  addr := BitVec.ofNat 64 va

/-- The windows' rules for `n` bytes at an address that lie in one page (R84 to R88, R216): the page types that an
access admits are its own matter. -/
def steerFor (c : Context) (kind : AccessKind) (n va : Nat) : M (Except FaultInfo Place) := do
  let s ← get
  let w := windowOf va
  if va + n > 2 ^ 48 || windowOf (va + n - 1) != w then return .error (faultAtVa .address va)
  match w with
  | .guardPage | .unused => return .error (faultAtVa .address va)
  | .global =>
    match (← tryTranslate c.core c.asid c.sys kind va) with
    | .ok l => return .ok (.page l)
    | .error f => return .error f
  | .stack =>
    let o := va - stackWindow
    let pa := c.stackBase.toNat + o
    if o + n > c.stackSize.toNat then return .error (faultAtVa .stackBound va)
    else if hbmData pa n || secondTier pa n then return .ok (.stack pa)
    else return .error (faultAtVa .address va)
  | .scratch =>
    let o := va - scratchWindow
    if !c.sliceFits o n then return .error (faultAtVa .scratchBound va)
    else if kind == .read && c.touchesDiscarded o n then return .error (faultAtVa .discardRead va)
    else if c.touchesBarrier o n || s.touchesArea c o n then return .error (faultAtVa .illegalOperand va)
    else return .ok (.slice o)
  | .onChip =>
    if !c.sys then return .error (faultAtVa .permission va)
    else return .ok (.chip ((va - 0x800000000000) / 2 ^ 24) (va % 2 ^ 24))
  | .device =>
    if !c.sys then return .error (faultAtVa .permission va) else return .ok (.device (va - 0x800300000000))

/-- An Except of faults as an effect. -/
def orRaise {α : Type} (x : Except FaultInfo α) : M α :=
  match x with
  | .ok a => pure a
  | .error f => raiseInfo f

/-- The windows' rules for the current context. A load of a discarded line that an accepted command will write waits for the
command, which makes the line live (R178, R122). -/
def steer (kind : AccessKind) (n va : Nat) : M Place := do
  let s ← get
  let p ← steerFor s.cur kind n va
  match p with
  | .error f =>
    if f.code == .discardRead && s.cur.loadWaits (va - scratchWindow) n then throw .stall
    orRaise p
  | .ok _ => orRaise p

/-- The page types of loads and stores: PRIVATE, and DEVICE for a system context (R58, R59, R216). -/
def admitPrivate (sys : Bool) (l : Leaf) (va : Nat) : Except FaultInfo Unit :=
  if l.ty = 0 then .ok ()
  else if l.ty = 11 then (if sys then .ok () else .error (pageFault .permission va l))
  else .error (pageFault .badType va l)

/-! Lines of memory as a core reads them. -/

/-- A line with bytes replaced. -/
def LineSnap.put (x : LineSnap) (at_ n v marks : Nat) : LineSnap :=
  let m := (2 ^ (8 * n) - 1) * 2 ^ (8 * at_)
  let k := (2 ^ n - 1) * 2 ^ at_
  { x with
    data := (x.data &&& ~~~ BitVec.ofNat 1024 m) ||| (BitVec.ofNat 1024 (v * 2 ^ (8 * at_)) &&& BitVec.ofNat 1024 m)
    marks := (x.marks &&& ~~~ BitVec.ofNat 128 k) ||| (BitVec.ofNat 128 (marks * 2 ^ at_) &&& BitVec.ofNat 128 k) }

/-- A line put into a core's L1 data cache, which holds 1,024 lines (R106), in the place of every older copy of it (R335).
(notes/assumptions/7.md) -/
def State.l1Put (s : State) (core : Nat) (x : L1Line) : State :=
  (s.l1Drop core x.snap.line).modCore core (fun k => { k with
    l1 := (x :: k.l1.filter (fun y => !(y.asid == x.asid && y.va == x.va))).take 1024 })

/-- L1 keeps nothing that a context has asked for and not read yet, but for FROZEN lines where `all` is not set. -/
def Context.spoilL1 (c : Context) (all : Bool) : Context :=
  if c.asked || !c.lines.isEmpty then { c with dropL1 := some (all || c.dropL1 == some true) } else c

/-- Whether L1 may keep a line that the context has asked for: its core has not stored to it since, and no acquire or
invalidation has come between (R108, R217). -/
def Context.mayKeep (c : Context) (line : Nat) (frozen : Bool) : Bool :=
  !c.spoilt.contains line && (match c.dropL1 with
    | none => true
    | some all => frozen && !all)

/-- The current context has read a line: what its core's other contexts have asked for of it before is not left in L1 after
what it has read (R335). -/
def State.spoilRead (s : State) (line : Nat) : State :=
  s.mapCtxs (fun c => if c.core == s.cur.core && c.key != s.cur.key && (c.asked || !c.lines.isEmpty) then
    { c with spoilt := c.spoilt ++ [line] } else c)

/-- An acquire on a core: its L1 lines that are not FROZEN are dropped, and those on their way to it (R108, R338). -/
def State.acquireL1 (s : State) (core : Nat) : State :=
  (s.modCore core (fun k => { k with l1 := k.l1.filter (fun x => x.frozen) })).mapCtxs
    (fun c => if c.core == core then c.spoilL1 false else c)

/-- Whether L1 may hold lines of a page: PRIVATE lines, and lines of types 1 to 10 that are FILLED or FROZEN; none of
host memory, and of another package's only FROZEN ones (R107, R108). -/
def l1May (l : Leaf) (va : Nat) (md : BitVec 8) : Bool :=
  let st := mdState md
  decide (l.key va % 2 ^ 52 < 2 ^ 51) &&
    (if l.ty = 0 then !l.remote
    else decide (l.ty ≤ 10) && !mdPoison md && (decide (st = 2) || (decide (l.ty = 1) && decide (st = 1) && !l.remote)))

/-- A line that L1 answers, kept for the instruction in progress; or L1 has lost it. -/
def fromL1 (l : Leaf) (va : Nat) : M Bool := do
  let s ← get
  let c := s.cur
  if l.ty = 11 then return false
  match (s.core c.core).l1Line c.asid va l.gen (l.line va) with
  | none => return false
  | some x =>
    let held ← choose
    if held then
      modCur fun c => { c with lines := c.lines ++ [{ x.snap with gen := x.gen }] }
      return true
    else
      modify fun s => s.l1Drop c.core (l.line va)
      return false

/-- The lines of the list that the instruction in progress does not hold yet, after L1 has answered. -/
def missing : List (Leaf × Nat) → M (List (Leaf × Nat))
  | [] => pure []
  | (l, va) :: rest => do
    let have_ := (← cur).lines.any (fun x => x.line == l.line va && x.gen == l.gen)
    let hit ← if have_ then pure true else fromL1 l va
    let more ← missing rest
    return if hit then more else (l, va) :: more

/-- A request numbered for the instruction in progress. -/
def newRequest : M Who := do
  modCur fun c => { c with nextReq := c.nextReq + 1, asked := true }
  let c ← cur
  return .ctx c.key c.nextReq

/-- A request sent to the home of an address. -/
def sendHome (l : Leaf) (va : Nat) (b : Body) : M Unit := do
  let c ← cur
  modify fun s => s.send { id := 0, src := .core c.core, dst := homeNode (l.key va), body := b, cnt := l.cnt,
                           asid := c.asid, va := BitVec.ofNat 64 va, gen := l.gen, bad := l.badPage }

/-- The lines an instruction reads, obtained under their pages' generations: true when all are there. Otherwise requests are
under way, or a store of the core to one of the lines is not acknowledged, and the instruction waits (R335). `exact` marks
reads of field lines. -/
def obtain (exact : Bool) (need : List (Leaf × Nat)) : M Bool := do
  let s ← get
  let c := s.cur
  match c.lostReply with
  | some f => raiseInfo f
  | none =>
    if need.any (fun x => s.storeOut c.core (x.1.line x.2)) then return false
    let out ← missing need
    if out.isEmpty then return true
    else if c.asked then return false
    else
      let who ← newRequest
      let once := out.foldl (fun acc x => if acc.any (fun y => y.1.line y.2 == x.1.line x.2) then acc else acc ++ [x])
        ([] : List (Leaf × Nat))
      once.forM (fun x => sendHome x.1 x.2
        (if exact then .exact (x.1.line x.2) x.1.ty who else .load (x.1.line x.2) x.1.ty who))
      return false

/-- A line obtained, put into L1 where it may be, tagged with the generation it was read under (R78), and read; L1 keeps no
other copy of it, which could be older (R335). -/
def obtained (l : Leaf) (va : Nat) : M LineSnap := do
  let c ← cur
  match c.lines.find? (fun x => x.line == l.line va && x.gen == l.gen) with
  | some x =>
    let frozen := decide (mdState x.md = 2) && l.ty != 0
    let may := l1May l va x.md && c.mayKeep x.line frozen
    modify fun s => (if may then
      s.l1Put c.core { asid := c.asid, va := va / 128, gen := x.gen, snap := x, frozen := frozen }
      else s.l1Drop c.core x.line).spoilRead x.line
    return x
  | none => return { line := l.line va, ty := l.ty, data := 0, marks := 0, md := 0 }

/-! Accesses to each place. -/

/-- Whether an access at a place waits: in the slice for an engine command (R178), on the stack for a store of its core, made
through a page of the same memory, that is not acknowledged (R217, R335). -/
def placeWaits (kind : AccessKind) (p : Place) (n : Nat) : M Bool := do
  let s ← get
  match p with
  | .slice o => return if kind == .write then s.storeWaits s.cur o n else s.cur.loadWaits o n
  | .stack pa => return (linesOf pa n).any (fun line => s.storeOut s.cur.core line)
  | _ => return false

/-- `n` bytes read at a place; none while the instruction has to wait. (notes/assumptions/25.md) -/
def readPlace (p : Place) (n va : Nat) : M (Option (Nat × Nat)) := do
  let s ← get
  match p with
  | .page l =>
    if l.ty = 11 && s.cur.outs.any (fun o => o.store) then return none
    else if (← obtain false [(l, va)]) then
      let x ← obtained l va
      return some (x.bytes (va % 128) n, x.markBits (va % 128) n)
    else return none
  | .stack pa =>
    match s.lostCode pa (dieOf s.cur.core) with
    | some code => raise code (BitVec.ofNat 64 va)
    | none => return some (← stackBytes s.cur.core s.cur.asid pa n va)
  | .slice o => return some (s.sliceRead s.cur o n, s.sliceMarks s.cur o n)
  | .chip core off => return some (← orRaise (s.chipRead core off n (BitVec.ofNat 64 va)))
  | .device off => return some (← orRaise (s.deviceRead off n (BitVec.ofNat 64 va)))

/-- A join, fill or store of the current context on its way: its number (R76, R289). -/
def newOut (l : Leaf) (va : Nat) (store held : Bool) : M Nat := do
  let c ← cur
  modCur fun c => { c with
    nextOut := c.nextOut + 1
    outs := c.outs ++ [{ n := c.nextOut, core := c.core, line := l.line va, store := store, va := BitVec.ofNat 64 va, held := held,
                         homeBd := homeBd (l.key va), remote := l.remote }] }
  return c.nextOut

/-- A store to a page: the L1 copies of the line are updated and the store goes through to its home (R108, R217). -/
def storePage (l : Leaf) (va n x marks : Nat) : M Unit := do
  let c ← cur
  let num ← newOut l va true false
  modify fun s => (s.modCore c.core (fun k => { k with l1 := k.l1.map (fun y =>
    if y.snap.line == l.line va && l.ty = 0 then { y with snap := y.snap.put (va % 128) n x marks } else y) })).spoilStored
      c.core (l.line va)
  sendHome l va (.store (l.key va) n (BitVec.ofNat 1024 x) (BitVec.ofNat 128 marks)
    { who := .ctx c.key num, va := BitVec.ofNat 64 va })

/-- `n` bytes written at a place, with one mark. (notes/assumptions/25.md) -/
def writePlace (p : Place) (n va x marks : Nat) : M Unit := do
  let s ← get
  match p with
  | .page l => storePage l va n x marks
  | .stack pa =>
    match s.lostCode pa (dieOf s.cur.core) with
    | some code => raise code (BitVec.ofNat 64 va)
    | none => set (s.stackStore s.cur.core pa n x marks)
  | .slice o => writeSlice o n x marks
  | .chip core off => set (← orRaise (s.chipWrite core off n x marks (BitVec.ofNat 64 va)))
  | .device off => set (← orRaise (s.deviceWrite off n x (BitVec.ofNat 64 va)))

/-- Access of R216 for a scalar: its place, once every check has passed. A store to a page with JBLOCK = 1 parks (R104).
(notes/assumptions/26.md) -/
def access (kind : AccessKind) (n va : Nat) : M Place := do
  let p ← steer kind n va
  match p with
  | .page l =>
    orRaise (admitPrivate (← cur).sys l va)
    if kind == .write && l.jblock then throw (.park (.jblock va))
    return p
  | _ => return p

/-- The mark of a scalar from the marks of its bytes. -/
def anyMark (marks : Nat) : Bool := decide (marks ≠ 0)

/-- The address of a load or store (R215). -/
def scalarAddr (base : Word) (off : BitVec 11) (size : Fin 4) : Word := base + sext64 off * BitVec.ofNat 64 (2 ^ size.val)

/-- LD and LDZ (R215): `ext` extends the bytes read to 64 bits. -/
def loadScalar (data base : Scalar) (size : Fin 4) (off : BitVec 11) (ext : Nat → Nat → Word) : M Flow := do
  checkSrc base
  checkDst data
  let vs ← readOnce [base]
  let ea := scalarAddr (← useClean (nthVal vs 0)) off size
  let n := 2 ^ size.val
  let va := ea.toNat
  check (decide (va % n = 0)) .address ea
  let p ← access .read n va
  if (← placeWaits .read p n) then return .stall
  match (← readPlace p n va) with
  | none => return .stall
  | some (x, marks) =>
    writeScalar data { bits := ext (8 * n) x, mark := anyMark marks }
    return .done

/-- LD (R215) -/
def execLd (data base : Scalar) (size : Fin 4) (off : BitVec 11) (s : State) : Host.Outcome State Fault Refusal :=
  issue (.ld data base size off) (loadScalar data base size off (fun w x => BitVec.ofInt 64 (signed w x))) s

/-- LDZ (R215) -/
def execLdz (data base : Scalar) (size : Fin 4) (off : BitVec 11) (s : State) : Host.Outcome State Fault Refusal :=
  issue (.ldz data base size off) (loadScalar data base size off (fun _ x => BitVec.ofNat 64 x)) s

/-- The checks of R139 on a store into the on-chip map, which come before its data are taken (R216, R231). -/
def checkChip (p : Place) (n va : Nat) : M Unit := do
  match p with
  | .chip core off =>
    let _t ← orRaise ((← get).chipWrite core off n 0 0 (BitVec.ofNat 64 va))
    pure ()
  | _ => pure ()

/-- ST (R215): the data are read once the access has passed its checks. -/
def storeScalar (data base : Scalar) (size : Fin 4) (off : BitVec 11) : M Flow := do
  checkSrc base
  checkSrc data
  let ea := scalarAddr (← readClean base) off size
  let n := 2 ^ size.val
  let va := ea.toNat
  check (decide (va % n = 0)) .address ea
  let p ← access .write n va
  if (← placeWaits .write p n) then throw .stall
  match p with
  | .page l => if l.ty = 11 && (← cur).outs.any (fun o => o.store) then throw .stall
  | _ => pure ()
  checkChip p n va
  let v ← readScalar data
  writePlace p n va (v.bits.toNat % 2 ^ (8 * n)) (if v.mark then 2 ^ n - 1 else 0)
  return .done

/-- ST (R215) -/
def execSt (data base : Scalar) (size : Fin 4) (off : BitVec 11) (s : State) : Host.Outcome State Fault Refusal :=
  issue (.st data base size off) (storeScalar data base size off) s

end Sys2Proof.Machine
end

