-- ==== Sys2Proof/Decode.lean ====
section
/-! DEFINITION. From bytes to an instruction and back (spec/07_registers_and_encodings.md R158 to R166 and the encoding
tables of spec/09 to spec/11). Decoding is total: what is no instruction is rejected by name. -/
namespace Sys2Proof

/-- Why a word is no instruction. A word with the major and f7 of an instruction and a bad field keeps that instruction,
because steps 1 and 2 of R167 are made on it before step 3 faults. -/
inductive Reject where
  /-- reserved majors, unused f7 values and the unused 16-bit layouts, of `len` bytes (R166) -/
  | illegalInstruction (len : Nat)
  /-- an unused field that is not zero, or a vector specifier with its top bit set: step 3 of R167 on `i` (R166) -/
  | illegalOperand (i : Instr)
  /-- SPMARK with a kind of 2 to 63: the first own check of its entry (R300); `i` is the SPMARK of its operands -/
  | spmarkKind (i : Instr)
  /-- fewer bytes than the encoding has -/
  | truncated
deriving DecidableEq, Repr

/-- A 6-bit scalar specifier (R162). -/
def Scalar.ofNat (n : Nat) : Scalar :=
  if n < 32 then .g (Fin.ofNat 32 n)
  else if n < 48 then .q (Fin.ofNat 16 (n - 32))
  else if n < 56 then .c (Fin.ofNat 8 (n - 48))
  else .rsv (Fin.ofNat 8 (n - 56))

/-- The value of a scalar specifier. -/
def Scalar.toNat : Scalar → Nat
  | .g n => n.val
  | .q a => 32 + a.val
  | .c p => 48 + p.val
  | .rsv n => 56 + n.val

/-- A 5-bit vector specifier (R162). -/
def VSpec.ofNat (n : Nat) : VSpec :=
  if n < 16 then .v (Fin.ofNat 16 n)
  else if n < 24 then .y (Fin.ofNat 8 (n - 16))
  else .c (Fin.ofNat 8 (n - 24))

/-- The value of a vector specifier. -/
def VSpec.toNat : VSpec → Nat
  | .v n => n.val
  | .y a => 16 + a.val
  | .c p => 24 + p.val

/-- `i` where its unused fields hold zero, and step 3's fault where not. -/
def needZero (ok : Bool) (i : Instr) : Except Reject Instr :=
  if ok then .ok i else .error (.illegalOperand i)

/-- The 16-bit layouts (R158, R159). -/
def decode16 (h : Nat) : Except Reject Instr :=
  if h / 2 % 2 = 0 then
    let d := VSpec.ofNat (h / 64 % 32)
    let s := VSpec.ofNat (h / 2048 % 32)
    match h / 4 % 16 with
    | 0 => .ok (.vaddF32S d s)
    | 1 => .ok (.vsubF32S d s)
    | 2 => .ok (.vmulF32S d s)
    | 3 => .ok (.vfmaF32S d s)
    | 4 => .ok (.vmaxF32S d s)
    | 5 => .ok (.vminF32S d s)
    | 6 => .ok (.vaddBf16S d s)
    | 7 => .ok (.vfmaBf16S d s)
    | 8 => .ok (.viaddI32S d s)
    | 9 => .ok (.visubI32S d s)
    | 10 => .ok (.viandS d s)
    | 11 => .ok (.viorS d s)
    | 12 => .ok (.vixorS d s)
    | 13 => .ok (.vimaxI32S d s)
    | 14 => .ok (.vmovS d s)
    | _ => .ok (.viminI32S d s)
  else match h / 4 % 4 with
    | 0 => .ok (.guard (h / 32768 % 2 == 1) (Fin.ofNat 64 (h / 512 % 64)) (Fin.ofNat 32 (h / 16 % 32)))
    | 1 =>
      if h / 32768 % 2 = 0 then
        .ok (.vguard (h / 16384 % 2 == 1) (Fin.ofNat 32 (h / 512 % 32)) (Fin.ofNat 32 (h / 16 % 32)))
      else .error (.illegalInstruction 2)
    | 2 =>
      if h / 128 % 512 = 0 then
        match h / 16 % 8 with
        | 0 => .ok .nop16
        | 1 => .ok .yield16
        | _ => .error (.illegalInstruction 2)
      else .error (.illegalInstruction 2)
    | _ => .error (.illegalInstruction 2)

/-- Major 0x00, form A (R207). -/
def decodeAlu (f7 : Nat) (d a b : Scalar) (b0 : Bool) : Except Reject Instr :=
  match f7 with
  | 0 => .ok (.add d a b)
  | 1 => .ok (.sub d a b)
  | 2 => .ok (.and d a b)
  | 3 => .ok (.or d a b)
  | 4 => .ok (.xor d a b)
  | 5 => .ok (.shl d a b)
  | 6 => .ok (.shr d a b)
  | 7 => .ok (.sra d a b)
  | 8 => .ok (.min d a b)
  | 9 => .ok (.max d a b)
  | 10 => .ok (.minn d a b)
  | 11 => .ok (.maxn d a b)
  | 12 => .ok (.mul d a b)
  | 13 => .ok (.mulh d a b)
  | 14 => .ok (.mulhn d a b)
  | 15 => .ok (.div d a b)
  | 16 => .ok (.divn d a b)
  | 17 => .ok (.rem d a b)
  | 18 => .ok (.remn d a b)
  | 19 => needZero b0 (.clz d a)
  | 20 => needZero b0 (.popc d a)
  | 21 => .ok (.bfx d a b)
  | 22 => .ok (.bfi d a b)
  | 23 => .ok (.cmp d a b)
  | 24 => .ok (.cmpf d a b)
  | 25 => .ok (.fadd d a b)
  | 26 => .ok (.fsub d a b)
  | 27 => .ok (.fmul d a b)
  | 28 => needZero b0 (.ftoi d a)
  | 29 => needZero b0 (.itof d a)
  | _ => .error (.illegalInstruction 4)

/-- Major 0x14, form E (R218). `d0` and `b0` say that the d and s2 fields hold zero. -/
def decodeField (f7 : Nat) (d a b : Scalar) (d0 b0 : Bool) : Except Reject Instr :=
  match f7 with
  | 0 => needZero d0 (.joinH a b)
  | 1 => needZero d0 (.joinW a b)
  | 2 => needZero d0 (.joinD a b)
  | 3 => needZero d0 (.joinHRel a b)
  | 4 => needZero d0 (.joinWRel a b)
  | 5 => needZero d0 (.joinDRel a b)
  | 6 => needZero d0 (.xjoinF a b)
  | 7 => needZero d0 (.xjoinI a b)
  | 8 => needZero d0 (.xjoinFRel a b)
  | 9 => needZero d0 (.xjoinIRel a b)
  | 10 => .ok (.await d a b)
  | 11 => .ok (.awaitAny d a b)
  | 12 => needZero b0 (.awaitFilled d a)
  | 13 => .ok (.probe d a b)
  | 14 => needZero b0 (.ldxW d a)
  | 15 => needZero b0 (.ldxD d a)
  | 16 => needZero d0 (.freeze a b)
  | 17 => needZero d0 (.fallow a b)
  | _ => .error (.illegalInstruction 4)

/-- Major 0x19, form T (R201). -/
def decodePrepare (f7 : Nat) (n l : Fin 8) (g x : Scalar) (l0 g0 x0 : Bool) : Except Reject Instr :=
  match f7 with
  | 0 => needZero (x0 && l0) (.prepr n g)
  | 1 => needZero l0 (.prepx n g x)
  | 2 => needZero (x0 && g0) (.pmove n l)
  | _ => .error (.illegalInstruction 4)

/-- Major 0x1A, form T (R203). -/
def decodeTransfer (f7 : Nat) (n l : Fin 8) (g : Scalar) (bit : Fin 64) (l0 g0 bit0 : Bool) : Except Reject Instr :=
  match f7 with
  | 0 => needZero (bit0 && g0 && l0) (.jmp n)
  | 1 => needZero l0 (.brT n g bit)
  | 2 => needZero l0 (.brF n g bit)
  | 3 => needZero (bit0 && g0) (.call n l)
  | 4 => needZero (bit0 && l0) (.bdec n g)
  | _ => .error (.illegalInstruction 4)

/-- Major 0x1B, form A (R291); the s2 field of SYSRD and SYSWR is a plain number (R165), the d field of SPMARK too. -/
def decodeSystem (f7 : Nat) (d a b : Scalar) (dn bn : Nat) (d0 a0 b0 : Bool) : Except Reject Instr :=
  match f7 with
  | 0 => needZero (d0 && a0 && b0) .endTask
  | 1 => needZero (d0 && a0 && b0) .yield
  | 2 => needZero (d0 && b0) (.trap a)
  | 3 => needZero d0 (.eret a b)
  | 4 => needZero (d0 && a0 && b0) .halt
  | 5 => needZero (d0 && a0 && b0) .nop
  | 6 => needZero a0 (.sysrd d (Fin.ofNat 64 bn))
  | 7 => needZero d0 (.syswr (Fin.ofNat 64 bn) a)
  | 8 => .ok (.tlbinv d a b)
  | 9 => .ok (.l1inv d a b)
  | 10 =>
    match dn with
    | 0 => .ok (.spmarkKeep a b)
    | 1 => .ok (.spmarkDiscard a b)
    | _ => .error (.spmarkKind (.spmarkKeep a b))
  | 11 => needZero (d0 && b0) (.breakpt a)
  | _ => .error (.illegalInstruction 4)

/-- Major 0x1C, form E (R279). -/
def decodeTask (f7 : Nat) (d a b : Scalar) (d0 : Bool) : Except Reject Instr :=
  match f7 with
  | 0 => needZero d0 (.spawn a b)
  | 1 => .ok (.spawnw d a b)
  | 2 => needZero d0 (.send a b)
  | 3 => needZero d0 (.sendHi a b)
  | 4 => .ok (.sendNb d a b)
  | 5 => .ok (.sendHiNb d a b)
  | _ => .error (.illegalInstruction 4)

/-- Major 0x1D, form E (R286); `bn` is the s2 field, a vector specifier in the .V forms. -/
def decodeChannel (f7 : Nat) (d a b : Scalar) (bn : Nat) (b0 : Bool) : Except Reject Instr :=
  match f7 with
  | 0 => .ok (.ctryrecv d a b)
  | 1 => .ok (.ctrysend d a b)
  | 2 => needZero (decide (bn < 32)) (.ctryrecvV d a (VSpec.ofNat (bn % 32)))
  | 3 => needZero (decide (bn < 32)) (.ctrysendV d a (VSpec.ofNat (bn % 32)))
  | 4 => needZero b0 (.ccount d a)
  | _ => .error (.illegalInstruction 4)

/-- Major 0x1E (R287): kind in f7[1:0], scope in f7[3:2]. -/
def decodeFence (f7 : Nat) (fields0 : Bool) : Except Reject Instr :=
  if f7 / 16 = 0 then
    let scope := Fin.ofNat 4 (f7 / 4 % 4)
    match f7 % 4 with
    | 1 => needZero fields0 (.fenceAcq scope)
    | 2 => needZero fields0 (.fenceRel scope)
    | 3 => needZero fields0 (.fenceFull scope)
    | _ => .error (.illegalInstruction 4)
  else .error (.illegalInstruction 4)

/-- Major 0x20, form V (R233). -/
def decodeVFloat (f7 : Nat) (t : Fin 8) (d a b : VSpec) (b0 : Bool) : Except Reject Instr :=
  match f7 with
  | 0 => .ok (.vadd t d a b)
  | 1 => .ok (.vsub t d a b)
  | 2 => .ok (.vmul t d a b)
  | 3 => .ok (.vfma t d a b)
  | 4 => .ok (.vfms t d a b)
  | 5 => .ok (.vmin t d a b)
  | 6 => .ok (.vmax t d a b)
  | 7 => needZero b0 (.vabs t d a)
  | 8 => needZero b0 (.vneg t d a)
  | 9 => needZero b0 (.vsqrt t d a)
  | 10 => needZero b0 (.vrcp t d a)
  | 11 => needZero b0 (.vrsq t d a)
  | 12 => needZero b0 (.vexp2 t d a)
  | 13 => needZero b0 (.vlog2 t d a)
  | 14 => .ok (.vscaleb t d a b)
  | 15 => .ok (.vcmpeq t d a b)
  | 16 => .ok (.vcmplt t d a b)
  | 17 => .ok (.vcmple t d a b)
  | _ => .error (.illegalInstruction 4)

/-- Major 0x21, form V (R238). -/
def decodeVInt (f7 : Nat) (t : Fin 8) (d a b : VSpec) (b0 : Bool) : Except Reject Instr :=
  match f7 with
  | 0 => .ok (.viadd t d a b)
  | 1 => .ok (.visub t d a b)
  | 2 => .ok (.vimul t d a b)
  | 3 => .ok (.vimin t d a b)
  | 4 => .ok (.vimax t d a b)
  | 5 => .ok (.viminn t d a b)
  | 6 => .ok (.vimaxn t d a b)
  | 7 => .ok (.viand t d a b)
  | 8 => .ok (.vior t d a b)
  | 9 => .ok (.vixor t d a b)
  | 10 => .ok (.vishl t d a b)
  | 11 => .ok (.vishr t d a b)
  | 12 => .ok (.visra t d a b)
  | 13 => needZero b0 (.viabs t d a)
  | 14 => .ok (.vicmpeq t d a b)
  | 15 => .ok (.vicmplt t d a b)
  | 16 => .ok (.vicmpltn t d a b)
  | 17 => .ok (.viaddsat t d a b)
  | _ => .error (.illegalInstruction 4)

/-- Major 0x22 (R239), form V but for f7 0x02 to 0x04, which are form VX: `xd`, `x1` and `x2` are its 6-bit fields. -/
def decodeVMove (f7 : Nat) (t : Fin 8) (d a b : VSpec) (a0 b0 : Bool) (xd x1 x2 : Nat) : Except Reject Instr :=
  match f7 with
  | 0 => needZero (t.val == 0 && b0) (.vmov d a)
  | 1 => needZero (t.val == 0) (.vsel d a b)
  | 2 => needZero (decide (xd < 32) && x2 == 0) (.vbcast (VSpec.ofNat (xd % 32)) (Scalar.ofNat x1))
  | 3 => needZero (decide (x2 < 32)) (.vextr (Scalar.ofNat xd) (Scalar.ofNat x1) (VSpec.ofNat (x2 % 32)))
  | 4 => needZero (decide (xd < 32)) (.vins (VSpec.ofNat (xd % 32)) (Scalar.ofNat x1) (Scalar.ofNat x2))
  | 5 => needZero (a0 && b0) (.viota t d)
  | 6 => needZero (t.val == 0) (.vperm d a b)
  | 7 => needZero b0 (.vkey t d a)
  | _ => .error (.illegalInstruction 4)

/-- Major 0x23, form V (R243, R244): `bn` is the field [21:17], a format code in VCVT and half and sign in VUNPACK. -/
def decodeVCvt (f7 : Nat) (t : Fin 8) (d a b : VSpec) (bn : Nat) : Except Reject Instr :=
  match f7 with
  | 0 =>
    match t.val with
    | 0 => .ok (.vcvtF2x (Fin.ofNat 32 bn) d a)
    | 1 => .ok (.vcvtX2f (Fin.ofNat 32 bn) d a)
    | 2 => .ok (.vcvtI2x (Fin.ofNat 32 bn) d a)
    | 3 => .ok (.vcvtX2i (Fin.ofNat 32 bn) d a)
    | _ => .error (.illegalOperand (.vcvtF2x (Fin.ofNat 32 bn) d a))
  | 1 => .ok (.vpack t d a b)
  | 2 => needZero (decide (bn < 4)) (.vunpack t d a (bn % 2 == 1) (bn / 2 % 2 == 1))
  | _ => .error (.illegalInstruction 4)

/-- Major 0x24, form V (R245). -/
def decodeVReduce (f7 : Nat) (t : Fin 8) (d a : VSpec) (bn : Nat) : Except Reject Instr :=
  match f7 with
  | 0 => needZero (bn == 0) (.vrsum t d a)
  | 1 => needZero (bn == 0) (.vrmax t d a)
  | 2 => needZero (bn == 0) (.vrmin t d a)
  | 3 => needZero (bn == 0) (.vramax t d a)
  | 4 => .ok (.vscan t d a (Fin.ofNat 32 bn))
  | _ => .error (.illegalInstruction 4)

/-- Major 0x25, form VX (R247). -/
def decodeVMem (f7 : Nat) (xd x1 x2 : Nat) : Except Reject Instr :=
  let v := VSpec.ofNat (xd % 32)
  let b := Scalar.ofNat x1
  match f7 with
  | 0 => needZero (decide (xd < 32)) (.vld v b (Scalar.ofNat x2))
  | 1 => needZero (decide (xd < 32)) (.vst v b (Scalar.ofNat x2))
  | 2 => needZero (decide (xd < 32)) (.vlds v b (Scalar.ofNat x2))
  | 3 => needZero (decide (xd < 32)) (.vsts v b (Scalar.ofNat x2))
  | 4 => needZero (decide (xd < 32) && decide (x2 < 32)) (.vgather v b (VSpec.ofNat (x2 % 32)))
  | 5 => needZero (decide (xd < 32) && decide (x2 < 32)) (.vscatter v b (VSpec.ofNat (x2 % 32)))
  | 6 => needZero (decide (xd < 32)) (.vldb v b (Scalar.ofNat x2))
  | _ => .error (.illegalInstruction 4)

/-- Major 0x26, form VX (R251). -/
def decodeVField (f7 : Nat) (xd x1 x2 : Nat) : Except Reject Instr :=
  match f7 with
  | 0 => needZero (decide (xd < 32) && decide (x2 < 32))
      (.vjoin (VSpec.ofNat (xd % 32)) (Scalar.ofNat x1) (VSpec.ofNat (x2 % 32)))
  | 1 => needZero (decide (xd < 32) && decide (x2 < 32))
      (.vxjoin (VSpec.ofNat (xd % 32)) (Scalar.ofNat x1) (VSpec.ofNat (x2 % 32)))
  | _ => .error (.illegalInstruction 4)

/-- Major 0x27, form VX (R253): [22:19] is the tile number and [24:23] zero. -/
def decodeVAcc (f7 : Nat) (xd x1 x2 : Nat) : Except Reject Instr :=
  let ok := decide (xd < 32) && decide (x2 < 16)
  let v := VSpec.ofNat (xd % 32)
  let t := Fin.ofNat 16 (x2 % 16)
  match f7 with
  | 0 => needZero ok (.vlda v t (Scalar.ofNat x1))
  | 1 => needZero ok (.vsta v t (Scalar.ofNat x1))
  | 2 => needZero ok (.vadda v t (Scalar.ofNat x1))
  | _ => .error (.illegalInstruction 4)

/-- Major 0x30, form E (R259). -/
def decodeCopy (f7 : Nat) (d a b : Scalar) (d0 : Bool) : Except Reject Instr :=
  match f7 with
  | 0 => needZero d0 (.ccopy a b)
  | 1 => needZero d0 (.ccfg a b)
  | 2 => .ok (.cgather d a b)
  | 3 => needZero d0 (.cjoin a b)
  | 4 => needZero d0 (.cbar a b)
  | 5 => .ok (.waitb d a b)
  | _ => .error (.illegalInstruction 4)

/-- Major 0x31, form E (R265). -/
def decodeMatrix (f7 : Nat) (d a b : Scalar) (d0 b0 : Bool) : Except Reject Instr :=
  match f7 with
  | 0 => needZero d0 (.mcfg a b)
  | 1 => needZero (d0 && b0) (.mzero a)
  | 2 => needZero d0 (.mma a b)
  | 3 => needZero d0 (.mscaleacc a b)
  | 4 => needZero d0 (.mload a b)
  | 5 => needZero d0 (.mstore a b)
  | 6 => needZero b0 (.mwait d a)
  | 7 => needZero (d0 && b0) (.mdiscard a)
  | _ => .error (.illegalInstruction 4)

/-- Major 0x32, form E (R273). -/
def decodeLamp (f7 : Nat) (d a b : Scalar) (d0 b0 : Bool) : Except Reject Instr :=
  match f7 with
  | 0 => needZero d0 (.lcfg a b)
  | 1 => needZero d0 (.lspark a b)
  | 2 => needZero d0 (.lrun a b)
  | 3 => needZero (d0 && b0) (.lstop a)
  | 4 => needZero b0 (.lwait d a)
  | _ => .error (.illegalInstruction 4)

/-- The 32-bit forms (R160, R164). -/
def decode32 (w : Nat) : Except Reject Instr :=
  let dn := w / 128 % 64
  let an := w / 8192 % 64
  let bn := w / 524288 % 64
  let f7 := w / 33554432 % 128
  let d := Scalar.ofNat dn
  let a := Scalar.ofNat an
  let b := Scalar.ofNat bn
  let d0 := dn == 0
  let a0 := an == 0
  let b0 := bn == 0
  let t := Fin.ofNat 8 (w / 4194304 % 8)
  let vdn := w / 128 % 32
  let van := w / 4096 % 32
  let vbn := w / 131072 % 32
  let vd := VSpec.ofNat vdn
  let va := VSpec.ofNat van
  let vb := VSpec.ofNat vbn
  let imm13 := BitVec.ofNat 13 (w / 524288 % 8192)
  let imm19 := BitVec.ofNat 19 (w / 8192 % 524288)
  let n8 := Fin.ofNat 8 (w / 128 % 8)
  let l8 := Fin.ofNat 8 (w / 1024 % 8)
  let l0 := w / 1024 % 8 == 0
  let size := Fin.ofNat 4 (w / 524288 % 4)
  let off11 := BitVec.ofNat 11 (w / 2097152 % 2048)
  match w / 2 % 64 with
  | 0 => decodeAlu f7 d a b b0
  | 1 => .ok (.addi d a imm13)
  | 2 => .ok (.andi d a imm13)
  | 3 => .ok (.ori d a imm13)
  | 4 => .ok (.xori d a imm13)
  | 5 =>
    let z := w / 33554432 % 32 == 0
    match w / 1073741824 % 4 with
    | 0 => needZero z (.shli d a (Fin.ofNat 64 bn))
    | 1 => needZero z (.shri d a (Fin.ofNat 64 bn))
    | 2 => needZero z (.srai d a (Fin.ofNat 64 bn))
    | _ => .error (.illegalInstruction 4)
  | 6 => .ok (.cmpi d a imm13)
  | 7 => .ok (.movi d imm19)
  | 8 => .ok (.ldc d imm19)
  | 9 => .ok (.addpc d imm19)
  | 16 => .ok (.ld d a size off11)
  | 17 => .ok (.ldz d a size off11)
  | 18 => .ok (.st d a size off11)
  | 20 => decodeField f7 d a b d0 b0
  | 24 => needZero l0 (.prep n8 imm19)
  | 25 => decodePrepare f7 n8 l8 a b l0 a0 b0
  | 26 => decodeTransfer f7 n8 l8 a (Fin.ofNat 64 bn) l0 a0 b0
  | 27 => decodeSystem f7 d a b dn bn d0 a0 b0
  | 28 => decodeTask f7 d a b d0
  | 29 => decodeChannel f7 d a b bn b0
  | 30 => decodeFence f7 (d0 && a0 && b0)
  | 32 => decodeVFloat f7 t vd va vb (vbn == 0)
  | 33 => decodeVInt f7 t vd va vb (vbn == 0)
  | 34 => decodeVMove f7 t vd va vb (van == 0) (vbn == 0) dn an bn
  | 35 => decodeVCvt f7 t vd va vb vbn
  | 36 => decodeVReduce f7 t vd va vbn
  | 37 => decodeVMem f7 dn an bn
  | 38 => decodeVField f7 dn an bn
  | 39 => decodeVAcc f7 dn an bn
  | 48 => decodeCopy f7 d a b d0
  | 49 => decodeMatrix f7 d a b d0 b0
  | 50 => decodeLamp f7 d a b d0 b0
  | _ => .error (.illegalInstruction 4)

/-- An instruction from the bytes at rising addresses (R6): bit 0 of the first halfword tells its length. -/
def decode : List Byte → Except Reject Instr
  | b0 :: b1 :: rest =>
    let h := b0.toNat + 256 * b1.toNat
    if h % 2 = 0 then decode16 h
    else match rest with
      | b2 :: b3 :: _ => decode32 (h + 65536 * (b2.toNat + 256 * b3.toNat))
      | _ => .error .truncated
  | _ => .error .truncated

/-- Form A and form E (R160). -/
def encA (major f7 : Nat) (s2 s1 d : Nat) : Nat :=
  1 + 2 * major + 128 * d + 8192 * s1 + 524288 * s2 + 33554432 * f7

/-- Form I. -/
def encI (major : Nat) (imm : BitVec 13) (s1 d : Nat) : Nat := 1 + 2 * major + 128 * d + 8192 * s1 + 524288 * imm.toNat

/-- Form W. -/
def encW (major : Nat) (imm : BitVec 19) (d : Nat) : Nat := 1 + 2 * major + 128 * d + 8192 * imm.toNat

/-- Form S. -/
def encS (major : Nat) (off : BitVec 11) (size : Fin 4) (base data : Nat) : Nat :=
  1 + 2 * major + 128 * data + 8192 * base + 524288 * size.val + 2097152 * off.toNat

/-- Form T. -/
def encT (major f7 : Nat) (x g : Nat) (l n : Nat) : Nat :=
  1 + 2 * major + 128 * n + 1024 * l + 8192 * g + 524288 * x + 33554432 * f7

/-- Form V. -/
def encV (major f7 : Nat) (t vs2 vs1 vd : Nat) : Nat :=
  1 + 2 * major + 128 * vd + 4096 * vs1 + 131072 * vs2 + 4194304 * t + 33554432 * f7

/-- The 16-bit lane operations. -/
def encShort (op4 : Nat) (s d : VSpec) : Nat := 4 * op4 + 64 * d.toNat + 2048 * s.toNat

/-- The word of an instruction, as the encoding tables give it; 0 for an event. -/
def encodeWord : Instr → Nat
  | .guard s b n => 2 + 16 * n.val + 512 * b.val + 32768 * s.toNat
  | .vguard s b n => 6 + 16 * n.val + 512 * b.val + 16384 * s.toNat
  | .nop16 => 10
  | .yield16 => 26
  | .vaddF32S d s => encShort 0 s d
  | .vsubF32S d s => encShort 1 s d
  | .vmulF32S d s => encShort 2 s d
  | .vfmaF32S d s => encShort 3 s d
  | .vmaxF32S d s => encShort 4 s d
  | .vminF32S d s => encShort 5 s d
  | .vaddBf16S d s => encShort 6 s d
  | .vfmaBf16S d s => encShort 7 s d
  | .viaddI32S d s => encShort 8 s d
  | .visubI32S d s => encShort 9 s d
  | .viandS d s => encShort 10 s d
  | .viorS d s => encShort 11 s d
  | .vixorS d s => encShort 12 s d
  | .vimaxI32S d s => encShort 13 s d
  | .vmovS d s => encShort 14 s d
  | .viminI32S d s => encShort 15 s d
  | .add d a b => encA 0 0 b.toNat a.toNat d.toNat
  | .sub d a b => encA 0 1 b.toNat a.toNat d.toNat
  | .and d a b => encA 0 2 b.toNat a.toNat d.toNat
  | .or d a b => encA 0 3 b.toNat a.toNat d.toNat
  | .xor d a b => encA 0 4 b.toNat a.toNat d.toNat
  | .shl d a b => encA 0 5 b.toNat a.toNat d.toNat
  | .shr d a b => encA 0 6 b.toNat a.toNat d.toNat
  | .sra d a b => encA 0 7 b.toNat a.toNat d.toNat
  | .min d a b => encA 0 8 b.toNat a.toNat d.toNat
  | .max d a b => encA 0 9 b.toNat a.toNat d.toNat
  | .minn d a b => encA 0 10 b.toNat a.toNat d.toNat
  | .maxn d a b => encA 0 11 b.toNat a.toNat d.toNat
  | .mul d a b => encA 0 12 b.toNat a.toNat d.toNat
  | .mulh d a b => encA 0 13 b.toNat a.toNat d.toNat
  | .mulhn d a b => encA 0 14 b.toNat a.toNat d.toNat
  | .div d a b => encA 0 15 b.toNat a.toNat d.toNat
  | .divn d a b => encA 0 16 b.toNat a.toNat d.toNat
  | .rem d a b => encA 0 17 b.toNat a.toNat d.toNat
  | .remn d a b => encA 0 18 b.toNat a.toNat d.toNat
  | .clz d a => encA 0 19 0 a.toNat d.toNat
  | .popc d a => encA 0 20 0 a.toNat d.toNat
  | .bfx d a b => encA 0 21 b.toNat a.toNat d.toNat
  | .bfi d a b => encA 0 22 b.toNat a.toNat d.toNat
  | .cmp d a b => encA 0 23 b.toNat a.toNat d.toNat
  | .cmpf d a b => encA 0 24 b.toNat a.toNat d.toNat
  | .fadd d a b => encA 0 25 b.toNat a.toNat d.toNat
  | .fsub d a b => encA 0 26 b.toNat a.toNat d.toNat
  | .fmul d a b => encA 0 27 b.toNat a.toNat d.toNat
  | .ftoi d a => encA 0 28 0 a.toNat d.toNat
  | .itof d a => encA 0 29 0 a.toNat d.toNat
  | .addi d a imm => encI 1 imm a.toNat d.toNat
  | .andi d a imm => encI 2 imm a.toNat d.toNat
  | .ori d a imm => encI 3 imm a.toNat d.toNat
  | .xori d a imm => encI 4 imm a.toNat d.toNat
  | .shli d a n => encA 5 0 n.val a.toNat d.toNat
  | .shri d a n => encA 5 32 n.val a.toNat d.toNat
  | .srai d a n => encA 5 64 n.val a.toNat d.toNat
  | .cmpi d a imm => encI 6 imm a.toNat d.toNat
  | .movi d imm => encW 7 imm d.toNat
  | .ldc d imm => encW 8 imm d.toNat
  | .addpc d imm => encW 9 imm d.toNat
  | .ld d b z o => encS 16 o z b.toNat d.toNat
  | .ldz d b z o => encS 17 o z b.toNat d.toNat
  | .st d b z o => encS 18 o z b.toNat d.toNat
  | .joinH a b => encA 20 0 b.toNat a.toNat 0
  | .joinW a b => encA 20 1 b.toNat a.toNat 0
  | .joinD a b => encA 20 2 b.toNat a.toNat 0
  | .joinHRel a b => encA 20 3 b.toNat a.toNat 0
  | .joinWRel a b => encA 20 4 b.toNat a.toNat 0
  | .joinDRel a b => encA 20 5 b.toNat a.toNat 0
  | .xjoinF a b => encA 20 6 b.toNat a.toNat 0
  | .xjoinI a b => encA 20 7 b.toNat a.toNat 0
  | .xjoinFRel a b => encA 20 8 b.toNat a.toNat 0
  | .xjoinIRel a b => encA 20 9 b.toNat a.toNat 0
  | .await d a b => encA 20 10 b.toNat a.toNat d.toNat
  | .awaitAny d a b => encA 20 11 b.toNat a.toNat d.toNat
  | .awaitFilled d a => encA 20 12 0 a.toNat d.toNat
  | .probe d a b => encA 20 13 b.toNat a.toNat d.toNat
  | .ldxW d a => encA 20 14 0 a.toNat d.toNat
  | .ldxD d a => encA 20 15 0 a.toNat d.toNat
  | .freeze a b => encA 20 16 b.toNat a.toNat 0
  | .fallow a b => encA 20 17 b.toNat a.toNat 0
  | .prep n imm => 1 + 2 * 24 + 128 * n.val + 8192 * imm.toNat
  | .prepr n a => encT 25 0 0 a.toNat 0 n.val
  | .prepx n t i => encT 25 1 i.toNat t.toNat 0 n.val
  | .pmove n l => encT 25 2 0 0 l.val n.val
  | .jmp n => encT 26 0 0 0 0 n.val
  | .brT n g b => encT 26 1 b.val g.toNat 0 n.val
  | .brF n g b => encT 26 2 b.val g.toNat 0 n.val
  | .call n l => encT 26 3 0 0 l.val n.val
  | .bdec n g => encT 26 4 0 g.toNat 0 n.val
  | .endTask => encA 27 0 0 0 0
  | .yield => encA 27 1 0 0 0
  | .halt => encA 27 4 0 0 0
  | .nop => encA 27 5 0 0 0
  | .trap a => encA 27 2 0 a.toNat 0
  | .eret a b => encA 27 3 b.toNat a.toNat 0
  | .sysrd d n => encA 27 6 n.val 0 d.toNat
  | .syswr n a => encA 27 7 n.val a.toNat 0
  | .tlbinv d a b => encA 27 8 b.toNat a.toNat d.toNat
  | .l1inv d a b => encA 27 9 b.toNat a.toNat d.toNat
  | .spmarkKeep a b => encA 27 10 b.toNat a.toNat 0
  | .spmarkDiscard a b => encA 27 10 b.toNat a.toNat 1
  | .breakpt a => encA 27 11 0 a.toNat 0
  | .spawn a b => encA 28 0 b.toNat a.toNat 0
  | .spawnw d a b => encA 28 1 b.toNat a.toNat d.toNat
  | .send a b => encA 28 2 b.toNat a.toNat 0
  | .sendHi a b => encA 28 3 b.toNat a.toNat 0
  | .sendNb d a b => encA 28 4 b.toNat a.toNat d.toNat
  | .sendHiNb d a b => encA 28 5 b.toNat a.toNat d.toNat
  | .ctryrecv d a b => encA 29 0 b.toNat a.toNat d.toNat
  | .ctrysend d a b => encA 29 1 b.toNat a.toNat d.toNat
  | .ctryrecvV d a b => encA 29 2 b.toNat a.toNat d.toNat
  | .ctrysendV d a b => encA 29 3 b.toNat a.toNat d.toNat
  | .ccount d a => encA 29 4 0 a.toNat d.toNat
  | .fenceAcq s => encA 30 (1 + 4 * s.val) 0 0 0
  | .fenceRel s => encA 30 (2 + 4 * s.val) 0 0 0
  | .fenceFull s => encA 30 (3 + 4 * s.val) 0 0 0
  | .vadd t d a b => encV 32 0 t.val b.toNat a.toNat d.toNat
  | .vsub t d a b => encV 32 1 t.val b.toNat a.toNat d.toNat
  | .vmul t d a b => encV 32 2 t.val b.toNat a.toNat d.toNat
  | .vfma t d a b => encV 32 3 t.val b.toNat a.toNat d.toNat
  | .vfms t d a b => encV 32 4 t.val b.toNat a.toNat d.toNat
  | .vmin t d a b => encV 32 5 t.val b.toNat a.toNat d.toNat
  | .vmax t d a b => encV 32 6 t.val b.toNat a.toNat d.toNat
  | .vabs t d a => encV 32 7 t.val 0 a.toNat d.toNat
  | .vneg t d a => encV 32 8 t.val 0 a.toNat d.toNat
  | .vsqrt t d a => encV 32 9 t.val 0 a.toNat d.toNat
  | .vrcp t d a => encV 32 10 t.val 0 a.toNat d.toNat
  | .vrsq t d a => encV 32 11 t.val 0 a.toNat d.toNat
  | .vexp2 t d a => encV 32 12 t.val 0 a.toNat d.toNat
  | .vlog2 t d a => encV 32 13 t.val 0 a.toNat d.toNat
  | .vscaleb t d a b => encV 32 14 t.val b.toNat a.toNat d.toNat
  | .vcmpeq t d a b => encV 32 15 t.val b.toNat a.toNat d.toNat
  | .vcmplt t d a b => encV 32 16 t.val b.toNat a.toNat d.toNat
  | .vcmple t d a b => encV 32 17 t.val b.toNat a.toNat d.toNat
  | .viadd t d a b => encV 33 0 t.val b.toNat a.toNat d.toNat
  | .visub t d a b => encV 33 1 t.val b.toNat a.toNat d.toNat
  | .vimul t d a b => encV 33 2 t.val b.toNat a.toNat d.toNat
  | .vimin t d a b => encV 33 3 t.val b.toNat a.toNat d.toNat
  | .vimax t d a b => encV 33 4 t.val b.toNat a.toNat d.toNat
  | .viminn t d a b => encV 33 5 t.val b.toNat a.toNat d.toNat
  | .vimaxn t d a b => encV 33 6 t.val b.toNat a.toNat d.toNat
  | .viand t d a b => encV 33 7 t.val b.toNat a.toNat d.toNat
  | .vior t d a b => encV 33 8 t.val b.toNat a.toNat d.toNat
  | .vixor t d a b => encV 33 9 t.val b.toNat a.toNat d.toNat
  | .vishl t d a b => encV 33 10 t.val b.toNat a.toNat d.toNat
  | .vishr t d a b => encV 33 11 t.val b.toNat a.toNat d.toNat
  | .visra t d a b => encV 33 12 t.val b.toNat a.toNat d.toNat
  | .viabs t d a => encV 33 13 t.val 0 a.toNat d.toNat
  | .vicmpeq t d a b => encV 33 14 t.val b.toNat a.toNat d.toNat
  | .vicmplt t d a b => encV 33 15 t.val b.toNat a.toNat d.toNat
  | .vicmpltn t d a b => encV 33 16 t.val b.toNat a.toNat d.toNat
  | .viaddsat t d a b => encV 33 17 t.val b.toNat a.toNat d.toNat
  | .vmov d a => encV 34 0 0 0 a.toNat d.toNat
  | .vsel d a b => encV 34 1 0 b.toNat a.toNat d.toNat
  | .vbcast d s => encA 34 2 0 s.toNat d.toNat
  | .vextr d i a => encA 34 3 a.toNat i.toNat d.toNat
  | .vins d s i => encA 34 4 i.toNat s.toNat d.toNat
  | .viota t d => encV 34 5 t.val 0 0 d.toNat
  | .vperm d a b => encV 34 6 0 b.toNat a.toNat d.toNat
  | .vkey t d a => encV 34 7 t.val 0 a.toNat d.toNat
  | .vcvtF2x f d a => encV 35 0 0 f.val a.toNat d.toNat
  | .vcvtX2f f d a => encV 35 0 1 f.val a.toNat d.toNat
  | .vcvtI2x f d a => encV 35 0 2 f.val a.toNat d.toNat
  | .vcvtX2i f d a => encV 35 0 3 f.val a.toNat d.toNat
  | .vpack t d a b => encV 35 1 t.val b.toNat a.toNat d.toNat
  | .vunpack t d a h s => encV 35 2 t.val (h.toNat + 2 * s.toNat) a.toNat d.toNat
  | .vrsum t d a => encV 36 0 t.val 0 a.toNat d.toNat
  | .vrmax t d a => encV 36 1 t.val 0 a.toNat d.toNat
  | .vrmin t d a => encV 36 2 t.val 0 a.toNat d.toNat
  | .vramax t d a => encV 36 3 t.val 0 a.toNat d.toNat
  | .vscan t d a o => encV 36 4 t.val o.val a.toNat d.toNat
  | .vld v b o => encA 37 0 o.toNat b.toNat v.toNat
  | .vst v b o => encA 37 1 o.toNat b.toNat v.toNat
  | .vlds v b o => encA 37 2 o.toNat b.toNat v.toNat
  | .vsts v b o => encA 37 3 o.toNat b.toNat v.toNat
  | .vgather v b o => encA 37 4 o.toNat b.toNat v.toNat
  | .vscatter v b o => encA 37 5 o.toNat b.toNat v.toNat
  | .vldb v b o => encA 37 6 o.toNat b.toNat v.toNat
  | .vjoin v b o => encA 38 0 o.toNat b.toNat v.toNat
  | .vxjoin v b o => encA 38 1 o.toNat b.toNat v.toNat
  | .vlda v t k => encA 39 0 t.val k.toNat v.toNat
  | .vsta v t k => encA 39 1 t.val k.toNat v.toNat
  | .vadda v t k => encA 39 2 t.val k.toNat v.toNat
  | .ccopy a b => encA 48 0 b.toNat a.toNat 0
  | .ccfg a b => encA 48 1 b.toNat a.toNat 0
  | .cgather d a b => encA 48 2 b.toNat a.toNat d.toNat
  | .cjoin a b => encA 48 3 b.toNat a.toNat 0
  | .cbar a b => encA 48 4 b.toNat a.toNat 0
  | .waitb d a b => encA 48 5 b.toNat a.toNat d.toNat
  | .mcfg a b => encA 49 0 b.toNat a.toNat 0
  | .mzero a => encA 49 1 0 a.toNat 0
  | .mma a b => encA 49 2 b.toNat a.toNat 0
  | .mscaleacc a b => encA 49 3 b.toNat a.toNat 0
  | .mload a b => encA 49 4 b.toNat a.toNat 0
  | .mstore a b => encA 49 5 b.toNat a.toNat 0
  | .mwait d a => encA 49 6 0 a.toNat d.toNat
  | .mdiscard a => encA 49 7 0 a.toNat 0
  | .lcfg a b => encA 50 0 b.toNat a.toNat 0
  | .lspark a b => encA 50 1 b.toNat a.toNat 0
  | .lrun a b => encA 50 2 b.toNat a.toNat 0
  | .lstop a => encA 50 3 0 a.toNat 0
  | .lwait d a => encA 50 4 0 a.toNat d.toNat
  | _ => 0

/-- The `n` low bytes of a number, least significant first. -/
def bytesOfNat : Nat → Nat → List Byte
  | 0, _ => []
  | n + 1, w => BitVec.ofNat 8 w :: bytesOfNat n (w / 256)

/-- The bytes of an instruction at rising addresses (R6); none for an event. -/
def encode (i : Instr) : List Byte := bytesOfNat i.len (encodeWord i)

/-- The instruction the decoder reads from an instruction whose bits are `w`, laid out low byte first; what is above
`nbits` is zero up to the longest instruction. -/
def decodeTableWord (nbits w : Nat) : Option Instr :=
  match decode (bytesOfNat 4 (w % 2 ^ nbits)) with
  | .ok i => some i
  | .error _ => none

end Sys2Proof
end

