-- ==== Sys2Proof/Machine/Cells.lean ====
section
/-! DEFINITION. Lines of field memory, threshold tests, and joins on their way
(spec/03_field_memory.md R58 to R73, spec/05_caches_mesh_and_links.md R116, spec/11 R288). -/
namespace Sys2Proof.Machine

/-! Lines at their home. -/

/-- Every cell of a line at bottom, for a width of `w` bits. -/
def State.lineBottom (s : State) (line ty w : Nat) : State :=
  { s with mem :=
      { cells := s.mem.cells.writeN (128 * line) 128 (packList w (List.replicate (1024 / w) (cellBottom ty w)))
        marks := s.mem.marks.clear (128 * line) 128 } }

/-- The value of the cell of a key at the line's width. -/
def State.cell (s : State) (key bytes : Nat) : Nat := s.mem.readN (alignDown key bytes) bytes

/-- The place of a trigger in a list. -/
def trigIndex (trigs : List Word) (x : Word) : Option Nat :=
  let i := trigs.findIdx (fun t => t == x)
  if i < trigs.length then some i else none

/-- The value of a line's cell of `bytes` bytes that holds a key. -/
def LineSnap.cell (x : LineSnap) (key bytes : Nat) : Nat := x.bytes (alignDown key bytes % 128) bytes

/-- A threshold test on a line (R68 to R71); none where row 4 of R70 holds. -/
def LineSnap.test (x : LineSnap) (key : Nat) (k : TestKind) : Option TestResult :=
  let frozen := decide (mdState x.md = 2)
  if x.ty = 1 then
    let filled := decide (mdWidth x.md = 1)
    let first := BitVec.ofNat 64 (x.bytes 0 8)
    if mdPoison x.md then some .poison
    else match k with
      | .any trigs =>
        if filled then match trigIndex trigs first with
          | some i => some (.passed i first)
          | none => some .unreachable
        else if frozen then some .unreachable else none
      | _ => if filled then some (.passed 0 first) else if frozen then some .unreachable else none
  else
    let trig : Word := match k with
      | .await t => t
      | .probe t => t
      | _ => 0
    let code := mdWidth x.md
    let bytes := widthBytes x.ty code
    let isProbe := match k with
      | .probe _ => true
      | _ => false
    if decide (code ≠ 0) && !isProbe && decide (key % bytes ≠ 0) then some .misaligned
    else if mdPoison x.md then some .poison
    else if code = 0 then (if passesUnset x.ty trig then some (.passed 0 0) else none)
    else if cellPassed x.ty (8 * bytes) (x.cell key bytes) trig then some (.passed 0 0)
    else if frozen then some .unreachable
    else none

/-- A threshold test at the home. -/
def State.testLine (s : State) (key ty : Nat) (k : TestKind) : Option TestResult := (s.snap (key / 128) ty).test key k

/-! Joins on their way (R116). -/

/-- Two joins may merge: one cell with one TYPE, TYPEARG and width, and 8 tags at most. -/
def JoinReq.mayMerge (a b : JoinReq) : Bool :=
  a.cell == b.cell && a.ty == b.ty && a.arg == b.arg && a.width == b.width &&
    decide (a.tags.length + b.tags.length ≤ 8)

/-- The merged join (R116). -/
def JoinReq.merge (a b : JoinReq) : JoinReq :=
  { a with
    val := if a.ty = 10 then a.val + b.val else (cellJoin a.ty a.width a.val.toNat b.val.toNat : Nat)
    count := a.count + b.count
    mark := a.mark || b.mark
    rel := a.rel || b.rel
    tags := a.tags ++ b.tags }

/-- Two held joins may merge: both under pages of good physical addresses, or both under bad ones, which their home package
refuses (R94, R116). -/
def Held.mayMerge (x h : Held) : Bool := x.req.mayMerge h.req && x.bad == h.bad

/-- A held join put into a combining buffer: merged with one of its cell, or on its own. -/
def holdIn : List Held → Held → List Held
  | [], h => [h]
  | x :: r, h => if x.mayMerge h then { x with req := x.req.merge h.req, cnt := x.cnt || h.cnt } :: r
      else x :: holdIn r h

/-- The joins of a core's buffer that make way when it is full (R116): the oldest. -/
def State.makeRoom (s : State) (core : Nat) (h : Held) : State :=
  let k := s.core core
  if k.hold.any (fun x => x.mayMerge h) || decide (k.hold.length < 64) then s
  else match k.hold with
    | [] => s
    | x :: _ => s.drainHeld core (fun y => y == x)

/-- PostJoin (R221): a join is held in the core's buffer or, with a release mark, sent at once. `who` is acknowledged. -/
def State.postJoin (s : State) (core : Nat) (asid : BitVec 12) (l : Leaf) (va : Nat) (j : JoinReq) (hold : Bool) : State :=
  let h : Held := { req := j, dst := homeNode j.cell, cnt := l.cnt, asid := asid, va := BitVec.ofNat 64 va
                    gen := l.gen, bad := l.badPage }
  if hold then
    let s1 := s.makeRoom core h
    s1.modCore core (fun k => { k with hold := holdIn k.hold h })
  else s.send { id := 0, src := .core core, dst := h.dst, body := .join j, cnt := l.cnt, asid := asid,
                va := BitVec.ofNat 64 va, gen := l.gen, bad := l.badPage }

end Sys2Proof.Machine
end

