-- ==== Sys2Proof/Machine/Invalidate.lean ====
section
/-! DEFINITION. Invalidation of translations, of lines and of replicas, and what it waits for
(spec/04_translation_and_tiers.md R99, R100, R104, spec/11 R298, R299). -/
namespace Sys2Proof.Machine

/-- An address lies in the range of an invalidation; a size of 0 is the whole address space (R298). -/
def inRange (va lo size : Nat) : Bool := decide (size = 0) || (decide (lo ≤ va) && decide (va < lo + size))

/-- A page of `n` bytes meets the range. -/
def meetsRange (va n lo size : Nat) : Bool := decide (size = 0) || overlaps va n lo size

/-- The leaf entries below a table of level `lvl` that map addresses of the range: the page's address, the entry's place
and the page (R92 to R94). -/
def leavesFrom (s : State) (lo size : Nat) : Nat → Nat → Nat → List (Nat × Nat × Leaf)
  | lvl, table, base =>
    (List.range (levelEntries lvl)).flatMap (fun i =>
      let pa := table + 16 * i
      let va := base + i * 2 ^ levelShift lvl
      if !meetsRange va (2 ^ levelShift lvl) lo size then []
      else
        let w0 := s.word pa
        let w1 := s.word (pa + 8)
        if !w0.getLsbD 0 || malformed w0 w1 lvl s.ownId then []
        else if w0.getLsbD 1 then [(va, pa, leafOf w0 w1 lvl)]
        else match lvl with
          | 0 => []
          | n + 1 => leavesFrom s lo size n (wbits w0 12 40 * 4096) va)

/-- The leaf entries of an address space that map addresses of the range. -/
def State.leaves (s : State) (asid : BitVec 12) (lo size : Nat) : List (Nat × Nat × Leaf) :=
  let d := s.word (s.bar1.astbase.toNat + 16 * asid.toNat)
  if s.bar1.astbase = 0 || !d.getLsbD 0 then [] else leavesFrom s lo size 4 (wbits d 12 40 * 4096) 0

/-- The translations of the range gone from every translation cache, and the table entries that cover it (R99). -/
def State.dropTranslations (s : State) (asid : BitVec 12) (lo size : Nat) : State :=
  { s with
    tlb := s.tlb.filter (fun e => !(e.asid == asid && meetsRange e.page e.leaf.size lo size))
    tableCache := s.tableCache.filter (fun e => !(e.asid == asid && meetsRange e.lo e.size lo size)) }

/-- The lines of the range gone from every L1 data cache, and nothing on its way to one is kept (R99). -/
def State.dropLines (s : State) (asid : BitVec 12) (lo size : Nat) : State :=
  { s.mapCtxs (fun c => if c.asid == asid then c.spoilL1 true else c) with cores := s.cores.map (fun k =>
      { k with l1 := k.l1.filter (fun x => !(x.asid == asid && inRange (128 * x.va) lo size)) }) }

/-- The lines of the range gone from every instruction cache: they are fetched again (R99). -/
def State.dropCode (s : State) (asid : BitVec 12) (lo size : Nat) : State :=
  { s with cores := s.cores.map (fun k =>
      { k with
        icache := k.icache.filter (fun x => !(x.asid == asid && inRange (128 * x.va) lo size))
        icErrors := k.icErrors.filter (fun x => !(x.1 == asid && inRange x.2 lo size)) }) }

/-- Whether a page, at an address with its leaf, maps an address of the range onto a line. (notes/assumptions/72.md) -/
def namesLine (page : Nat) (l : Leaf) (lo size line : Nat) : Bool :=
  !l.remote && decide (l.pa ≤ 128 * line) && decide (128 * line < l.pa + l.size) &&
    inRange (page + (128 * line - l.pa)) lo size

/-- The replicas of lines that satisfy `p` gone, and no answer on its way leaves one of them behind. -/
def State.dropReplicasOf (s : State) (p : Nat → Bool) : State :=
  { s with
    replicas := s.replicas.filter (fun r => !p r.snap.line)
    msgs := s.msgs.map (fun m => if m.snap.any (fun x => p x.line) then { m with stale := true } else m) }

/-- The replicas gone from the gateway caches of the physical lines that an old mapping of the range named (R99): what a
translation cache holds of it, what the tables hold, and what a replica was read through. (notes/assumptions/72.md) -/
def State.dropReplicas (s : State) (asid : BitVec 12) (lo size : Nat) : State :=
  let held := (s.tlb.filter (fun e => e.asid == asid)).map (fun e => (e.page, e.leaf))
  let mapped := (s.leaves asid lo size).map (fun p => (p.1, p.2.2))
  let read := (s.replicas.filter (fun r => r.names.any (fun x => x.1 == asid && inRange (128 * x.2) lo size))).map
    (fun r => r.snap.line)
  s.dropReplicasOf (fun line => read.contains line || (held ++ mapped).any (fun p => namesLine p.1 p.2 lo size line))

/-- The replicas that the range's current translations name gone (R299). -/
def State.dropMapped (s : State) (asid : BitVec 12) (lo size : Nat) : State :=
  let mapped := s.leaves asid lo size
  s.dropReplicasOf (fun line => mapped.any (fun p => namesLine p.1 p.2.2 lo size line))

/-- The address space of whoever a response goes to. -/
def Who.asid : Who → BitVec 12
  | .ctx k _ => k.asid
  | .copy k _ _ => k.asid
  | .watch k _ _ _ => k.asid

/-- The contributors of a join, fill, freeze or store. -/
def Body.tags : Body → List Tag
  | .join j => j.tags
  | .fill _ _ _ t => [t]
  | .freeze _ _ t => [t]
  | .store _ _ _ _ t => [t]
  | _ => []

/-- A contributor has reached its line through a translation of the range. -/
def Tag.under (t : Tag) (asid : BitVec 12) (lo size : Nat) : Bool := t.who.asid == asid && inRange t.va.toNat lo size

/-- A message in flight under a translation of the range: its own, or that of a contributor merged into it (R116). -/
def Msg.under (m : Msg) (asid : BitVec 12) (lo size : Nat) : Bool :=
  (m.asid == asid && inRange m.va.toNat lo size) || m.body.tags.any (fun t => t.under asid lo size)

/-- To whom the answers to a message go, or whom it answers. -/
def Body.whos : Body → List Who
  | .join j => j.tags.map (fun t => t.who)
  | .fill _ _ _ t => [t.who]
  | .freeze _ _ t => [t.who]
  | .store _ _ _ _ t => [t.who]
  | .ack t _ => [t.who]
  | .load _ _ w => [w]
  | .exact _ _ w => [w]
  | .test _ _ _ _ w => [w]
  | .data w _ => [w]
  | .result w _ => [w]
  | .inval .. => []

/-- TLBINV begun (R99): the translations and lines of the range are dropped, held joins of the range leave, and what is in
flight through it is noted, with those it will answer. -/
def State.startInval (s : State) (by_ : Option Key) (asid : BitVec 12) (lo size : Nat) : State :=
  let s1 := s.cores.foldl (fun s k =>
    s.drainHeld k.num (fun h => h.req.tags.any (fun t => t.under asid lo size))) s
  let s2 := (((s1.dropReplicas asid lo size).dropTranslations asid lo size).dropLines asid lo size).dropCode asid lo size
  let under := s2.msgs.filter (fun m => m.under asid lo size)
  { s2 with
    nextSeq := s2.nextSeq + 1
    invals := s2.invals ++ [{
      id := s2.nextSeq
      by_ := by_
      asid := asid
      lo := lo
      size := size
      l1Only := false
      msgs := under.map (fun m => m.id)
      whos := under.flatMap (fun m => m.body.whos)
      outs := (s2.allCtxs.filter (fun c => c.asid == asid)).flatMap (fun c =>
        (c.outs.filter (fun o => inRange o.va.toNat lo size)).map (fun o => (c.key, o.n))) }] }

/-- L1INV (R299): every L1 line of the range, and every replica that its current translations name.
(notes/assumptions/67.md) -/
def State.l1inv (s : State) (asid : BitVec 12) (lo size : Nat) : State :=
  (s.dropLines asid lo size).dropMapped asid lo size

/-- What an invalidation waits for has ended (R99). -/
def State.invalDone (s : State) (v : Inval) : Bool :=
  !s.msgs.any (fun m => v.msgs.contains m.id || m.body.whos.any (fun w => v.whos.contains w)) &&
    !v.outs.any (fun o => match s.ctx? o.1 with
      | some c => c.outs.any (fun x => x.n == o.2)
      | none => false)

/-! Frames, as far as a re-armed target register needs them (R355, R356). -/

/-- Word `i` of the service-table entry of an address space. -/
def State.svcWord (s : State) (asid : BitVec 12) (i : Nat) : Word :=
  s.word (s.bar1.svcbase.toNat + 32 * asid.toNat + 8 * i)

/-- The place of a context's frame (R355): 4 MiB each, by context id. -/
def State.frameAt (s : State) (k : Key) : Nat := (s.svcWord k.asid 1).toNat + k.ctxid.toNat * 2 ^ 22

/-- A word of a frame written. -/
def State.putFrame (s : State) (f off : Nat) (v : MWord) : State :=
  { s with mem := s.mem.writeMarks (f + off) 8 v.bits.toNat v.marks.toNat }

/-- A word of a frame. -/
def State.frameWord (s : State) (f off : Nat) : MWord where
  bits := BitVec.ofNat 64 (s.mem.readN (f + off) 8)
  marks := BitVec.ofNat 8 (s.mem.markBits (f + off) 8)

/-- Whether an invalidation recomputes a target register (R100). -/
def Target.rearmed (t : Target) (lo size : Nat) : Bool :=
  t.prepared && inRange t.addr.toNat lo size && (decide (t.sub = 0) || decide (4 ≤ t.sub.toNat))

/-- The two words of a target register that a context's frame holds (R356), taken from it or written to it. -/
def targetWords (n : Fin 8) : List Nat := [0x180 + 16 * n.val, 0x188 + 16 * n.val]

/-- A target register fetched again, where an invalidation recomputes it (R100). -/
def State.refetch (s : State) (c : Context) (lo size : Nat) (t : Target) : Target × State :=
  if !t.rearmed lo size then (t, s)
  else match fetchCheck c.core c.asid c.sys (t.addr.setWidth 64) s with
    | .error _ => (t, s)
    | .ok (r, s1) => (t.hold r, s1)

/-- A target register replaced: in the registers, and inside a unit in those of its start. -/
def Context.putTargets (c : Context) (n : Fin 8) (now start : Target) : Context :=
  { c with
    regs := { c.regs with b := c.regs.b.set n now }
    unit := c.unit.map (fun u => { u with saved := { u.saved with b := u.saved.b.set n start } }) }

/-- One target register of a context fetched again (R100): what its registers hold, what the registers of its unit's start hold,
which a CALL in progress has replaced, and, where the context is in its frame, what the frame holds. -/
def State.rearm (s : State) (k : Key) (lo size : Nat) (n : Fin 8) : State :=
  match s.ctx? k with
  | none => s
  | some c =>
    let now := c.regs.b[n]
    let start := c.unitStart.b[n]
    let (now1, s1) := s.refetch c lo size now
    let (start1, s2) := if start = now then (now1, s1) else s1.refetch c lo size start
    if c.slot.isSome then s2.modCtx k (fun x => x.putTargets n now1 start1)
    else
      let f := s.frameAt k
      let held := (targetWords n).foldl (fun x off => x.setFileWord off (s.frameWord f (off + 0x200)))
        { c with regs := c.unitStart }
      let t := held.regs.b[n]
      let (t1, s3) := if t = start then (start1, s2) else s2.refetch c lo size t
      let start2 : Target := { start1 with level := t1.level, cause := t1.cause }
      let s4 := s3.modCtx k (fun x => x.putTargets n (if c.unit.isNone then start2 else now1) start2)
      let c1 : Context := { held with regs := { held.regs with b := held.regs.b.set n t1 } }
      if t1 = t then s4
      else (targetWords n).foldl (fun s off => match c1.fileWord off with
        | some v => s.putFrame f (off + 0x200) v
        | none => s) s4

/-- Every target register of the address space whose address lies in the range (R100). -/
def State.rearmAll (s : State) (asid : BitVec 12) (lo size : Nat) : State :=
  (s.allCtxs.filter (fun c => c.asid == asid)).foldl
    (fun s c => (List.finRange 8).foldl (fun s n => s.rearm c.key lo size n) s) s

/-- TLBINV reports completion (R99, R100, R104): what came in meanwhile is dropped, the target registers are armed again,
writers parked on a page of the range and the issuer are woken. -/
def State.endInval (s : State) (v : Inval) : State :=
  let s1 := { s with invals := s.invals.filter (fun x => x.id != v.id) }
  let s2 := ((s1.dropLines v.asid v.lo v.size).dropCode v.asid v.lo v.size).dropReplicas v.asid v.lo v.size
  (s2.rearmAll v.asid v.lo v.size).wakeWhere (fun c w => match w with
    | .jblock va => c.asid == v.asid && inRange va v.lo v.size
    | .invalidation => v.by_ == some c.key
    | _ => false)

end Sys2Proof.Machine
end

