-- ==== Sys2Proof/Machine/Vector.lean ====
section
/-! DEFINITION. The vector instructions that work on registers: the short lane operations, VFLOAT, VINT, VMOVE, VCVT and
VREDUCE (spec/10_instructions_vector.md R231 to R246, spec/08_arithmetic_units.md R169 to R174). -/
namespace Sys2Proof.Machine

/-- VSCALEB at every element (R236): the exponent is an integer of the element's width. -/
def lanesScaleb (t : Fin 8) (c : Context) (m : BitVec 128) (x y : VecBits) : VecBits × Nat :=
  let w := laneWidth t
  let f := laneFmt t
  elementwise w m (fun e => f.scaleb (c.rounding e) (f.decode (elemOf x w e)) (signed w (elemOf y w e)))

/-- A vector instruction without a source. -/
def vec0 (d : VSpec) (x : VecBits) : M Flow := do
  checkVDst d
  writeVec d { bits := x }
  return .done

/-- All marks where one is set. -/
def markAll (b : Bool) : BitVec 128 := if b then BitVec.allOnes 128 else 0

/-- VBCAST (R241). -/
def broadcastLanes (d : VSpec) (x : Scalar) : M Flow := do
  checkSrc x
  checkVDst d
  let v ← readScalar x
  writeVec d { bits := packElems 32 128 (fun _ => v.bits.toNat % 2 ^ 32), mark := markAll v.mark }
  return .done

/-- VEXTR (R241): the index is checked after both sources are read. -/
def extractLane (d i : Scalar) (a : VSpec) : M Flow := do
  checkSrc i
  checkVSrc a
  checkDst d
  let n ← readScalar i
  let x ← readVec a
  check (decide (n.bits.toNat < 128)) .illegalOperand
  let l := n.bits.toNat
  let m ← activeLanes
  if m.getLsbD l then writeScalar d { bits := (lane x.bits l).setWidth 64, mark := x.mark.getLsbD l || n.mark }
  else writeScalar d { bits := 0 }
  return .done

/-- VINS (R241). -/
def insertLane (d : VSpec) (x i : Scalar) : M Flow := do
  checkSrc x
  checkSrc i
  let v ← readScalar x
  let n ← readScalar i
  let old ← readVec d
  check (decide (n.bits.toNat < 128)) .illegalOperand
  let one : BitVec 128 := 1 <<< n.bits.toNat
  let new : Vec :=
    { bits := packElems 32 128 (fun _ => v.bits.toNat % 2 ^ 32)
      mark := markAll (v.mark || n.mark) }
  writeVec d (mergeLanes one new old)
  return .done

/-- VPERM (R240). -/
def permuteLanes (d a ix : VSpec) : M Flow := do
  checkVSrc a
  checkVSrc ix
  checkVDst d
  let x ← readVec a
  let i ← readVec ix
  let from_ (l : Nat) : Nat := (lane i.bits l).toNat % 128
  writeVec d
    { bits := packElems 32 128 (fun l => (lane x.bits (from_ l)).toNat)
      mark := i.mark ||| BitVec.ofNat 128 (packList 1
        ((List.range 128).map (fun l => if x.mark.getLsbD (from_ l) then 1 else 0))) }
  return .done

/-- A conversion of one element per lane (R243); `ok` says that the format may stand there. -/
def convertLanes (ok : Bool) (d a : VSpec) (f : Rounding → Bool → Nat → FResult) : M Flow := do
  checkVSrc a
  checkVDst d
  check ok .format
  vec1 d a (fun c m x => elementwise 32 m (fun l => f (c.rounding l) c.sat (lane x l).toNat))

/-- A value to I32 (R50), as VCVT.X2I does. -/
def toI32 (r : Rounding) (v : FValue) : FResult :=
  let y := convertInt r (-(2 ^ 31 : Nat)) ((2 ^ 31 : Nat) - 1) v
  { code := unsignedOf 32 y.1, flags := y.2 }

/-- The narrow width of VPACK and VUNPACK (R244). -/
def packWidth (t : Fin 8) : Nat :=
  match t.val with
  | 1 => 16
  | 2 => 8
  | _ => 4

/-- The marks of lanes: `f l` for lane l. -/
def marksOf (f : Nat → Bool) : BitVec 128 :=
  BitVec.ofNat 128 (packList 1 ((List.range 128).map (fun l => if f l then 1 else 0)))

/-- VPACK (R244): lane L of the result comes from lanes 2L and 2L + 1 of the two sources taken together. -/
def packLanes (n : Nat) (d a b : VSpec) : M Flow := do
  checkVSrc a
  checkVSrc b
  checkVDst d
  let x ← readVec a
  let y ← readVec b
  let half := 4096 / n / 2
  let src (l : Nat) : Bool := if l < 128 then x.mark.getLsbD l else y.mark.getLsbD (l - 128)
  writeVec d
    { bits := packElems n (4096 / n) (fun e => elemOf (if e < half then x.bits else y.bits) (2 * n) (e % half))
      mark := marksOf (fun l => src (2 * l) || src (2 * l + 1)) }
  return .done

/-- VUNPACK (R244): lane L of the result comes from lane 64 half + L div 2 of the source. -/
def unpackLanes (n : Nat) (half sign : Bool) (d a : VSpec) : M Flow := do
  checkVSrc a
  checkVDst d
  let x ← readVec a
  let h := if half then 1 else 0
  let ext (v : Nat) : Nat := if sign then unsignedOf (2 * n) (signed n v) else v
  writeVec d
    { bits := packElems (2 * n) (4096 / (2 * n)) (fun e => ext (elemOf x.bits n (h * (2048 / n) + e)))
      mark := marksOf (fun l => x.mark.getLsbD (h * 64 + l / 2)) }
  return .done

/-! Reductions and scans. -/

/-- The operations of VREDUCE (R245). -/
inductive ReduceOp where
  | sum | max | min | amax
deriving DecidableEq, Repr

/-- The operation of VSCAN (R245). -/
def scanOp (op : Fin 32) : ReduceOp :=
  match op.val with
  | 0 => .sum
  | 1 => .max
  | _ => .min

/-- The element width of VREDUCE's type (R245). -/
def reduceWidth (t : Fin 8) : Nat :=
  match t.val with
  | 0 => 32
  | 1 => 16
  | 2 => 16
  | 4 => 32
  | 5 => 16
  | _ => 8

/-- VREDUCE's type is a float type (R245). -/
def reduceFloat (t : Fin 8) : Bool := decide (t.val < 3)

/-- A packed float element as FP32, exactly (R173): a NaN keeps its sign, its bits and whether it is signaling. -/
def widenFp32 (f : FFmt) (x : Nat) : Nat :=
  match f.decode x with
  | .nan neg p _ => fp32.withSign neg (fp32.infCode + p)
  | v => (fp32.convert rne false v).code

/-- The identity of an inactive lane's elements (R173). -/
def reduceIdentity (op : ReduceOp) (float : Bool) : Nat :=
  match op, float with
  | .sum, true => 0x80000000
  | .sum, false => 0
  | .max, true => fp32.canonicalNan
  | .min, true => fp32.canonicalNan
  | .max, false => 0x80000000
  | .min, false => 0x7FFFFFFF
  | .amax, _ => 0

/-- Op of R173 on two FP32 codes or two 32-bit integers, with its flags. -/
def reduceStep (op : ReduceOp) (float : Bool) (x y : Nat) : FResult :=
  match op, float with
  | .sum, true => fp32.add rne (fp32.decode x) (fp32.decode y)
  | .sum, false => { code := (x + y) % 2 ^ 32 }
  | .max, true => { code := fp32.minMax true x y }
  | .min, true => { code := fp32.minMax false x y }
  | .amax, true => { code := fp32.minMax true x y }
  | .max, false => { code := pickSigned 32 true x y }
  | .min, false => { code := pickSigned 32 false x y }
  | .amax, false => { code := pickUnsigned true x y }

/-- The elements as they enter the tree or the scan (R173). -/
def reduceElems (op : ReduceOp) (t : Fin 8) (m : BitVec 128) (x : VecBits) : List FResult :=
  let w := reduceWidth t
  (List.range (4096 / w)).map (fun e =>
    if m.getLsbD (e * w / 32) then
      let v := elemOf x w e
      let wide := if reduceFloat t then (if w = 32 then v else widenFp32 (laneFmt t) v) else unsignedOf 32 (signed w v)
      { code := match op with
          | .amax => if reduceFloat t then wide % 2 ^ 31 else (signed 32 wide).natAbs
          | _ => wide }
    else { code := reduceIdentity op (reduceFloat t) })

/-- One level of the tree (R173). -/
def treeLevel (f : Nat → Nat → FResult) : List FResult → List FResult
  | x :: y :: rest =>
    let r := f x.code y.code
    { code := r.code, flags := x.flags ||| y.flags ||| r.flags } :: treeLevel f rest
  | xs => xs

/-- TreeReduce of R173: `n` levels. -/
def treeReduce (f : Nat → Nat → FResult) : Nat → List FResult → FResult
  | 0, xs => xs.headD { code := 0 }
  | n + 1, xs => treeReduce f n (treeLevel f xs)

/-- The four reductions (R246). -/
def reduceLanes (op : ReduceOp) (t : Fin 8) (d a : VSpec) : M Flow := do
  checkVSrc a
  checkVDst d
  let x ← readVec a
  let m ← activeLanes
  let r := treeReduce (reduceStep op (reduceFloat t)) 9 (reduceElems op t m x.bits)
  writeVec d { bits := packElems 32 128 (fun _ => r.code), mark := markAll (decide (x.mark &&& m ≠ 0)) }
  raiseFlagsN r.flags
  return .done

/-- The inclusive prefixes of R174. (notes/assumptions/31.md) -/
def prefixes (f : Nat → Nat → FResult) : FResult → List FResult → List FResult
  | p, [] => [p]
  | p, x :: rest => p :: prefixes f (f p.code x.code) rest

/-- VSCAN (R174, R246): each prefix is written in the element format of its lane. (notes/assumptions/31.md) -/
def scanLanes (op : ReduceOp) (t : Fin 8) (d a : VSpec) : M Flow := do
  checkVSrc a
  checkVDst d
  let x ← readVec a
  let m ← activeLanes
  let w := reduceWidth t
  let ps := match reduceElems op t m x.bits with
    | e :: rest => prefixes (reduceStep op (reduceFloat t)) e rest
    | [] => []
  let out := ps.mapIdx (fun e p =>
    if m.getLsbD (e * w / 32) then
      if reduceFloat t && w == 16 then
        let r := (laneFmt t).convert rne false (fp32.decode p.code)
        { code := r.code, flags := p.flags ||| r.flags }
      else { p with code := p.code % 2 ^ w }
    else { code := 0, flags := p.flags })
  writeVec d
    { bits := BitVec.ofNat 4096 (packList w (out.map FResult.code))
      mark := marksOf (fun l => decide ((x.mark &&& m).setWidth (l + 1) ≠ 0)) }
  raiseFlagsN (out.foldl (fun acc r => acc ||| r.flags) 0)
  return .done

/-! The sixteen-bit lane operations (R232): each as the form-V instruction it stands for. -/

/-- VADD.F32 vd, vs (R232) -/
def execVaddF32S (d b : VSpec) (s : State) : Host.Outcome State Fault Refusal :=
  issue (.vaddF32S d b) (vec2 d d b (lanesF2 0 FFmt.add)) s

/-- VSUB.F32 vd, vs (R232) -/
def execVsubF32S (d b : VSpec) (s : State) : Host.Outcome State Fault Refusal :=
  issue (.vsubF32S d b) (vec2 d d b (lanesF2 0 FFmt.sub)) s

/-- VMUL.F32 vd, vs (R232) -/
def execVmulF32S (d b : VSpec) (s : State) : Host.Outcome State Fault Refusal :=
  issue (.vmulF32S d b) (vec2 d d b (lanesF2 0 FFmt.mul)) s

/-- VFMA.F32 vd, vs, y1 (R232) -/
def execVfmaF32S (d b : VSpec) (s : State) : Host.Outcome State Fault Refusal :=
  issue (.vfmaF32S d b) (vec3 d b (.y 0) (lanesFma 0 false)) s

/-- VMAX.F32 vd, vs (R232) -/
def execVmaxF32S (d b : VSpec) (s : State) : Host.Outcome State Fault Refusal :=
  issue (.vmaxF32S d b) (vec2 d d b (lanesMinMax 0 true)) s

/-- VMIN.F32 vd, vs (R232) -/
def execVminF32S (d b : VSpec) (s : State) : Host.Outcome State Fault Refusal :=
  issue (.vminF32S d b) (vec2 d d b (lanesMinMax 0 false)) s

/-- VADD.BF16 vd, vs (R232) -/
def execVaddBf16S (d b : VSpec) (s : State) : Host.Outcome State Fault Refusal :=
  issue (.vaddBf16S d b) (vec2 d d b (lanesF2 2 FFmt.add)) s

/-- VFMA.BF16 vd, vs, y1 (R232) -/
def execVfmaBf16S (d b : VSpec) (s : State) : Host.Outcome State Fault Refusal :=
  issue (.vfmaBf16S d b) (vec3 d b (.y 0) (lanesFma 2 false)) s

/-- VIADD.I32 vd, vs (R232) -/
def execViaddI32S (d b : VSpec) (s : State) : Host.Outcome State Fault Refusal :=
  issue (.viaddI32S d b) (vec2 d d b (lanesCode2 32 (fun x y => x + y))) s

/-- VISUB.I32 vd, vs (R232) -/
def execVisubI32S (d b : VSpec) (s : State) : Host.Outcome State Fault Refusal :=
  issue (.visubI32S d b) (vec2 d d b (lanesCode2 32 (fun x y => x + 2 ^ 32 - y))) s

/-- VIAND vd, vs (R232) -/
def execViandS (d b : VSpec) (s : State) : Host.Outcome State Fault Refusal :=
  issue (.viandS d b) (vec2 d d b (lanesBits2 (fun x y => x &&& y))) s

/-- VIOR vd, vs (R232) -/
def execViorS (d b : VSpec) (s : State) : Host.Outcome State Fault Refusal :=
  issue (.viorS d b) (vec2 d d b (lanesBits2 (fun x y => x ||| y))) s

/-- VIXOR vd, vs (R232) -/
def execVixorS (d b : VSpec) (s : State) : Host.Outcome State Fault Refusal :=
  issue (.vixorS d b) (vec2 d d b (lanesBits2 (fun x y => x ^^^ y))) s

/-- VIMAX.I32 vd, vs (R232) -/
def execVimaxI32S (d b : VSpec) (s : State) : Host.Outcome State Fault Refusal :=
  issue (.vimaxI32S d b) (vec2 d d b (lanesCode2 32 (pickSigned 32 true))) s

/-- VMOV vd, vs (R232) -/
def execVmovS (d b : VSpec) (s : State) : Host.Outcome State Fault Refusal :=
  issue (.vmovS d b) (vec1 d b (fun _ _ x => (x, 0))) s

/-- VIMIN.I32 vd, vs (R232) -/
def execViminI32S (d b : VSpec) (s : State) : Host.Outcome State Fault Refusal :=
  issue (.viminI32S d b) (vec2 d d b (lanesCode2 32 (pickSigned 32 false))) s

/-! VFLOAT (R233 to R237). -/

/-- VADD (R234) -/
def execVadd (t : Fin 8) (d a b : VSpec) (s : State) : Host.Outcome State Fault Refusal :=
  issue (.vadd t d a b) (vec2 d a b (lanesF2 t FFmt.add)) s

/-- VSUB (R234) -/
def execVsub (t : Fin 8) (d a b : VSpec) (s : State) : Host.Outcome State Fault Refusal :=
  issue (.vsub t d a b) (vec2 d a b (lanesF2 t FFmt.sub)) s

/-- VMUL (R234) -/
def execVmul (t : Fin 8) (d a b : VSpec) (s : State) : Host.Outcome State Fault Refusal :=
  issue (.vmul t d a b) (vec2 d a b (lanesF2 t FFmt.mul)) s

/-- VFMA (R234) -/
def execVfma (t : Fin 8) (d a b : VSpec) (s : State) : Host.Outcome State Fault Refusal :=
  issue (.vfma t d a b) (vec3 d a b (lanesFma t false)) s

/-- VFMS (R234) -/
def execVfms (t : Fin 8) (d a b : VSpec) (s : State) : Host.Outcome State Fault Refusal :=
  issue (.vfms t d a b) (vec3 d a b (lanesFma t true)) s

/-- VMIN (R171) -/
def execVmin (t : Fin 8) (d a b : VSpec) (s : State) : Host.Outcome State Fault Refusal :=
  issue (.vmin t d a b) (vec2 d a b (lanesMinMax t false)) s

/-- VMAX (R171) -/
def execVmax (t : Fin 8) (d a b : VSpec) (s : State) : Host.Outcome State Fault Refusal :=
  issue (.vmax t d a b) (vec2 d a b (lanesMinMax t true)) s

/-- VABS (R234) -/
def execVabs (t : Fin 8) (d a : VSpec) (s : State) : Host.Outcome State Fault Refusal :=
  issue (.vabs t d a) (vec1 d a (lanesCode1 (laneWidth t) (fun x => x % 2 ^ (laneWidth t - 1)))) s

/-- VNEG (R234): the sum is taken modulo 2^w, so it inverts the sign bit alone -/
def execVneg (t : Fin 8) (d a : VSpec) (s : State) : Host.Outcome State Fault Refusal :=
  issue (.vneg t d a) (vec1 d a (lanesCode1 (laneWidth t) (fun x => x + 2 ^ (laneWidth t - 1)))) s

/-- VSQRT (R235) -/
def execVsqrt (t : Fin 8) (d a : VSpec) (s : State) : Host.Outcome State Fault Refusal :=
  issue (.vsqrt t d a) (vec1 d a (lanesF1 t FFmt.sqrt)) s

/-- VRCP (R235) -/
def execVrcp (t : Fin 8) (d a : VSpec) (s : State) : Host.Outcome State Fault Refusal :=
  issue (.vrcp t d a) (vec1 d a (lanesF1 t FFmt.recip)) s

/-- VRSQ (R235) -/
def execVrsq (t : Fin 8) (d a : VSpec) (s : State) : Host.Outcome State Fault Refusal :=
  issue (.vrsq t d a) (vec1 d a (lanesF1 t FFmt.rsqrt)) s

/-- VEXP2 (R235) -/
def execVexp2 (t : Fin 8) (d a : VSpec) (s : State) : Host.Outcome State Fault Refusal :=
  issue (.vexp2 t d a) (vec1 d a (lanesF1 t FFmt.exp2)) s

/-- VLOG2 (R235) -/
def execVlog2 (t : Fin 8) (d a : VSpec) (s : State) : Host.Outcome State Fault Refusal :=
  issue (.vlog2 t d a) (vec1 d a (lanesF1 t FFmt.log2)) s

/-- VSCALEB (R236) -/
def execVscaleb (t : Fin 8) (d a b : VSpec) (s : State) : Host.Outcome State Fault Refusal :=
  issue (.vscaleb t d a b) (vec2 d a b (lanesScaleb t)) s

/-- VCMPEQ (R237) -/
def execVcmpeq (t : Fin 8) (d a b : VSpec) (s : State) : Host.Outcome State Fault Refusal :=
  issue (.vcmpeq t d a b) (vec2 d a b (lanesCmp t 0)) s

/-- VCMPLT (R237) -/
def execVcmplt (t : Fin 8) (d a b : VSpec) (s : State) : Host.Outcome State Fault Refusal :=
  issue (.vcmplt t d a b) (vec2 d a b (lanesCmp t 1)) s

/-- VCMPLE (R237) -/
def execVcmple (t : Fin 8) (d a b : VSpec) (s : State) : Host.Outcome State Fault Refusal :=
  issue (.vcmple t d a b) (vec2 d a b (lanesCmp t 2)) s

/-! VINT (R238). -/

/-- VIADD (R238) -/
def execViadd (t : Fin 8) (d a b : VSpec) (s : State) : Host.Outcome State Fault Refusal :=
  issue (.viadd t d a b) (vec2 d a b (lanesCode2 (intWidth t) (fun x y => x + y))) s

/-- VISUB (R238) -/
def execVisub (t : Fin 8) (d a b : VSpec) (s : State) : Host.Outcome State Fault Refusal :=
  issue (.visub t d a b) (vec2 d a b (lanesCode2 (intWidth t) (fun x y => x + 2 ^ intWidth t - y))) s

/-- VIMUL (R238) -/
def execVimul (t : Fin 8) (d a b : VSpec) (s : State) : Host.Outcome State Fault Refusal :=
  issue (.vimul t d a b) (vec2 d a b (lanesCode2 (intWidth t) (fun x y => x * y))) s

/-- VIMIN (R238) -/
def execVimin (t : Fin 8) (d a b : VSpec) (s : State) : Host.Outcome State Fault Refusal :=
  issue (.vimin t d a b) (vec2 d a b (lanesCode2 (intWidth t) (pickSigned (intWidth t) false))) s

/-- VIMAX (R238) -/
def execVimax (t : Fin 8) (d a b : VSpec) (s : State) : Host.Outcome State Fault Refusal :=
  issue (.vimax t d a b) (vec2 d a b (lanesCode2 (intWidth t) (pickSigned (intWidth t) true))) s

/-- VIMINN (R238) -/
def execViminn (t : Fin 8) (d a b : VSpec) (s : State) : Host.Outcome State Fault Refusal :=
  issue (.viminn t d a b) (vec2 d a b (lanesCode2 (intWidth t) (pickUnsigned false))) s

/-- VIMAXN (R238) -/
def execVimaxn (t : Fin 8) (d a b : VSpec) (s : State) : Host.Outcome State Fault Refusal :=
  issue (.vimaxn t d a b) (vec2 d a b (lanesCode2 (intWidth t) (pickUnsigned true))) s

/-- VIAND (R238) -/
def execViand (t : Fin 8) (d a b : VSpec) (s : State) : Host.Outcome State Fault Refusal :=
  issue (.viand t d a b) (vec2 d a b (lanesBits2 (fun x y => x &&& y))) s

/-- VIOR (R238) -/
def execVior (t : Fin 8) (d a b : VSpec) (s : State) : Host.Outcome State Fault Refusal :=
  issue (.vior t d a b) (vec2 d a b (lanesBits2 (fun x y => x ||| y))) s

/-- VIXOR (R238) -/
def execVixor (t : Fin 8) (d a b : VSpec) (s : State) : Host.Outcome State Fault Refusal :=
  issue (.vixor t d a b) (vec2 d a b (lanesBits2 (fun x y => x ^^^ y))) s

/-- VISHL (R238) -/
def execVishl (t : Fin 8) (d a b : VSpec) (s : State) : Host.Outcome State Fault Refusal :=
  issue (.vishl t d a b) (vec2 d a b (lanesCode2 (intWidth t) (fun x y => x * 2 ^ (y % intWidth t)))) s

/-- VISHR (R238) -/
def execVishr (t : Fin 8) (d a b : VSpec) (s : State) : Host.Outcome State Fault Refusal :=
  issue (.vishr t d a b) (vec2 d a b (lanesCode2 (intWidth t) (fun x y => x / 2 ^ (y % intWidth t)))) s

/-- VISRA (R238) -/
def execVisra (t : Fin 8) (d a b : VSpec) (s : State) : Host.Outcome State Fault Refusal :=
  issue (.visra t d a b) (vec2 d a b (lanesCode2 (intWidth t) (fun x y => unsignedOf (intWidth t) (signed (intWidth t) x / (2 ^ (y % intWidth t) : Nat))))) s

/-- VICMPEQ (R238) -/
def execVicmpeq (t : Fin 8) (d a b : VSpec) (s : State) : Host.Outcome State Fault Refusal :=
  issue (.vicmpeq t d a b) (vec2 d a b (lanesCode2 (intWidth t) (fun x y => maskIf (intWidth t) (x == y)))) s

/-- VICMPLT (R238) -/
def execVicmplt (t : Fin 8) (d a b : VSpec) (s : State) : Host.Outcome State Fault Refusal :=
  issue (.vicmplt t d a b) (vec2 d a b (lanesCode2 (intWidth t) (fun x y => maskIf (intWidth t) (decide (signed (intWidth t) x < signed (intWidth t) y))))) s

/-- VICMPLTN (R238) -/
def execVicmpltn (t : Fin 8) (d a b : VSpec) (s : State) : Host.Outcome State Fault Refusal :=
  issue (.vicmpltn t d a b) (vec2 d a b (lanesCode2 (intWidth t) (fun x y => maskIf (intWidth t) (decide (x < y))))) s

/-- VIADDSAT (R238) -/
def execViaddsat (t : Fin 8) (d a b : VSpec) (s : State) : Host.Outcome State Fault Refusal :=
  issue (.viaddsat t d a b) (vec2 d a b (lanesCode2 (intWidth t) (fun x y => unsignedOf (intWidth t) (clampSigned (intWidth t) (signed (intWidth t) x + signed (intWidth t) y))))) s

/-- VIABS (R238) -/
def execViabs (t : Fin 8) (d a : VSpec) (s : State) : Host.Outcome State Fault Refusal :=
  issue (.viabs t d a) (vec1 d a (lanesCode1 (intWidth t) (fun x => (signed (intWidth t) x).natAbs))) s

/-! VMOVE (R239 to R242). -/

/-- VMOV (R240) -/
def execVmov (d a : VSpec) (s : State) : Host.Outcome State Fault Refusal :=
  issue (.vmov d a) (vec1 d a (fun _ _ x => (x, 0))) s

/-- VSEL (R240): the mask is read from vd after the two sources -/
def execVsel (d a b : VSpec) (s : State) : Host.Outcome State Fault Refusal :=
  issue (.vsel d a b) (vec3 d a b (fun _ _ x y m => ((m &&& x) ||| (~~~ m &&& y), 0))) s

/-- VBCAST (R241) -/
def execVbcast (d : VSpec) (x : Scalar) (s : State) : Host.Outcome State Fault Refusal :=
  issue (.vbcast d x) (broadcastLanes d x) s

/-- VEXTR (R241) -/
def execVextr (d i : Scalar) (a : VSpec) (s : State) : Host.Outcome State Fault Refusal :=
  issue (.vextr d i a) (extractLane d i a) s

/-- VINS (R241) -/
def execVins (d : VSpec) (x i : Scalar) (s : State) : Host.Outcome State Fault Refusal :=
  issue (.vins d x i) (insertLane d x i) s

/-- VIOTA (R240) -/
def execViota (t : Fin 8) (d : VSpec) (s : State) : Host.Outcome State Fault Refusal :=
  issue (.viota t d) (vec0 d (packElems (intWidth t) (4096 / intWidth t) (fun e => e))) s

/-- VPERM (R240) -/
def execVperm (d a ix : VSpec) (s : State) : Host.Outcome State Fault Refusal :=
  issue (.vperm d a ix) (permuteLanes d a ix) s

/-- VKEY (R242) -/
def execVkey (t : Fin 8) (d a : VSpec) (s : State) : Host.Outcome State Fault Refusal :=
  issue (.vkey t d a) (vec1 d a (lanesCode1 (laneWidth t) (orderKey (laneWidth t)))) s

/-! VCVT (R243, R244). -/

/-- VCVT.F2X (R243) -/
def execVcvtF2x (fmt : Fin 32) (d a : VSpec) (s : State) : Host.Outcome State Fault Refusal :=
  issue (.vcvtF2x fmt d a) (convertLanes (isTarget fmt.val) d a (fun r sat x => convertTo fmt.val r sat (elemValue 0 x))) s

/-- VCVT.X2F (R243): exact for every format, so nothing saturates (notes/assumptions/20.md) -/
def execVcvtX2f (fmt : Fin 32) (d a : VSpec) (s : State) : Host.Outcome State Fault Refusal :=
  issue (.vcvtX2f fmt d a) (convertLanes (!isCodebook fmt.val) d a (fun r _ x => convertTo 0 r false (elemValue fmt.val x))) s

/-- VCVT.I2X (R243) -/
def execVcvtI2x (fmt : Fin 32) (d a : VSpec) (s : State) : Host.Outcome State Fault Refusal :=
  issue (.vcvtI2x fmt d a) (convertLanes (isTarget fmt.val) d a (fun r sat x => convertTo fmt.val r sat (.ofInt (signed 32 x)))) s

/-- VCVT.X2I (R243) -/
def execVcvtX2i (fmt : Fin 32) (d a : VSpec) (s : State) : Host.Outcome State Fault Refusal :=
  issue (.vcvtX2i fmt d a) (convertLanes (!isCodebook fmt.val) d a (fun r _ x => toI32 r (elemValue fmt.val x))) s

/-- VPACK (R244) -/
def execVpack (t : Fin 8) (d a b : VSpec) (s : State) : Host.Outcome State Fault Refusal :=
  issue (.vpack t d a b) (packLanes (packWidth t) d a b) s

/-- VUNPACK (R244) -/
def execVunpack (t : Fin 8) (d a : VSpec) (half sign : Bool) (s : State) : Host.Outcome State Fault Refusal :=
  issue (.vunpack t d a half sign) (unpackLanes (packWidth t) half sign d a) s

/-! VREDUCE (R245, R246). -/

/-- VRSUM (R246) -/
def execVrsum (t : Fin 8) (d a : VSpec) (s : State) : Host.Outcome State Fault Refusal :=
  issue (.vrsum t d a) (reduceLanes .sum t d a) s

/-- VRMAX (R246) -/
def execVrmax (t : Fin 8) (d a : VSpec) (s : State) : Host.Outcome State Fault Refusal :=
  issue (.vrmax t d a) (reduceLanes .max t d a) s

/-- VRMIN (R246) -/
def execVrmin (t : Fin 8) (d a : VSpec) (s : State) : Host.Outcome State Fault Refusal :=
  issue (.vrmin t d a) (reduceLanes .min t d a) s

/-- VRAMAX (R246) -/
def execVramax (t : Fin 8) (d a : VSpec) (s : State) : Host.Outcome State Fault Refusal :=
  issue (.vramax t d a) (reduceLanes .amax t d a) s

/-- VSCAN (R174, R246) -/
def execVscan (t : Fin 8) (d a : VSpec) (op : Fin 32) (s : State) : Host.Outcome State Fault Refusal :=
  issue (.vscan t d a op) (scanLanes (scanOp op) t d a) s

end Sys2Proof.Machine
end

