-- ==== Sys2Proof/Machine/VecMem.lean ====
section
/-! DEFINITION. Vector loads and stores, and tile rows to and from vectors (spec/10_instructions_vector.md R247 to R250,
R253, R254). -/
namespace Sys2Proof.Machine

/-- A piece of a vector access: its place, its address and its bytes. -/
structure Piece where
  place : Place
  va : Nat
  n : Nat
deriving DecidableEq, Repr

/-- The page types of a vector access (R249). -/
def admitVector (sys : Bool) (l : Leaf) (va : Nat) : Except FaultInfo Unit :=
  if l.ty = 0 then .ok ()
  else if l.ty = 11 && !sys then .error (pageFault .permission va l)
  else .error (pageFault .badType va l)

/-- The piece of `n` bytes in one page or in another window. -/
def vecPiece (kind : AccessKind) (n va : Nat) : M Piece := do
  let p ← steer kind n va
  match p with
  | .page l =>
    orRaise (admitVector (← cur).sys l va)
    if kind == .write && l.jblock then throw (.park (.jblock va))
    return { place := p, va := va, n := n }
  | _ => return { place := p, va := va, n := n }

/-- A piece of a block in the global window: a fault is at the address of its page, whose size is that of its leaf (R92,
R248); where no leaf was found, of its 4 KiB unit (notes/assumptions/26.md). -/
def blockPiece (kind : AccessKind) (n va : Nat) : M Piece := fun s =>
  match vecPiece kind n va s with
  | .error (.fault f) =>
    let page := if (f.code = .translation && !f.leaf) || f.size = 0 then alignDown va 4096 else f.lo
    .error (.fault { f with addr := BitVec.ofNat 64 page })
  | r => r

/-- R249 for `n` bytes: the windows first, then the alignment, then the rules of the window; a block over two pages is
checked page by page (R85). -/
def vecPieces (kind : AccessKind) (block : Bool) (n va : Nat) : M (List Piece) := do
  let w := windowOf va
  let addr := BitVec.ofNat 64 va
  check (decide (va + n ≤ 2 ^ 48) && windowOf (va + n - 1) == w && w != .guardPage && w != .unused) .address addr
  check (decide (va % 4 = 0)) .address addr
  let sys := (← cur).sys
  if sys && (w == .device || (w == .onChip && !block)) then raise .address addr
  let first := 4096 - va % 4096
  if w == .global && first < n then
    let p ← blockPiece kind first va
    let q ← blockPiece kind (n - first) (va + first)
    return [p, q]
  else if w == .global && block then return [← blockPiece kind n va]
  else return [← vecPiece kind n va]

/-- The piece that holds an address. -/
def pieceOf (ps : List Piece) (va : Nat) : Option Piece := ps.find? (fun p => decide (p.va ≤ va) && decide (va < p.va + p.n))

/-- The active lanes in increasing order. -/
def laneList (m : BitVec 128) : List Nat := (List.range 128).filter (fun l => m.getLsbD l)

/-- Whether any piece waits for an engine command (R178, R250). -/
def piecesWait (kind : AccessKind) (ps : List Piece) : M Bool := ps.anyM (fun p => placeWaits kind p.place p.n)

/-- The words of lanes read from their pieces; none while the instruction has to wait. -/
def readLanes (ps : List Piece) (lanes : List (Nat × Nat)) : M (Option (List (Nat × Nat × Nat))) := do
  let need := lanes.filterMap (fun x => match pieceOf ps x.2 with
    | some p => match p.place with
      | .page l => some (l, x.2)
      | _ => none
    | none => none)
  if !(← obtain false need) then return none
  else
    let chip ← ps.mapM (fun p => do
      match p.place with
      | .chip core off => return (p.va, some (← orRaise ((← get).chipRead core off p.n (BitVec.ofNat 64 p.va))))
      | _ => return (p.va, none))
    let words ← lanes.mapM (fun x => do
      match pieceOf ps x.2 with
      | none => return (x.1, 0, 0)
      | some p =>
        match p.place with
        | .chip _ _ =>
          match chip.find? (fun y => y.1 == p.va) with
          | some (_, some d) =>
            return (x.1, bitsOf d.1 (8 * (x.2 - p.va)) 32, bitsOf d.2 (x.2 - p.va) 4)
          | _ => return (x.1, 0, 0)
        | .slice o =>
          let s ← get
          return (x.1, s.sliceRead s.cur (o + (x.2 - p.va)) 4, s.sliceMarks s.cur (o + (x.2 - p.va)) 4)
        | .stack pa =>
          match (← readPlace (.stack (pa + (x.2 - p.va))) 4 x.2) with
          | some d => return (x.1, d.1, d.2)
          | none => return (x.1, 0, 0)
        | other =>
          match (← readPlace other 4 x.2) with
          | some d => return (x.1, d.1, d.2)
          | none => return (x.1, 0, 0))
    return some words

/-- A vector from its lanes' words. -/
def vecOfWords (ws : List (Nat × Nat × Nat)) : Vec where
  bits := packElems 32 128 (fun l => ((ws.find? (fun w => w.1 == l)).map (fun w => w.2.1)).getD 0)
  mark := marksOf (fun l => ws.any (fun w => w.1 == l && decide (w.2.2 ≠ 0)))

/-- A vector load of the lanes at the given addresses, once its pieces have passed their checks. -/
def finishLoad (d : VSpec) (ps : List Piece) (lanes : List (Nat × Nat)) : M Flow := do
  if (← piecesWait .read ps) then return .stall
  match (← readLanes ps lanes) with
  | none => return .stall
  | some ws =>
    writeVec d (vecOfWords ws)
    return .done

/-- The word of a lane of a vector with its mark. -/
def laneWord (v : Vec) (l : Nat) : Nat × Nat := ((lane v.bits l).toNat, if v.mark.getLsbD l then 15 else 0)

/-- The words of lanes written to their pieces, in increasing lane order (R248). (notes/assumptions/28.md) -/
def writeLanes (ps : List Piece) (lanes : List (Nat × Nat)) (v : Vec) : M Unit := do
  lanes.forM (fun x => do
    match pieceOf ps x.2 with
    | none => pure ()
    | some p =>
      let w := laneWord v x.1
      match p.place with
      | .page l => storePage l x.2 4 w.1 w.2
      | .slice o => writeSlice (o + (x.2 - p.va)) 4 w.1 w.2
      | .stack pa => writePlace (.stack (pa + (x.2 - p.va))) 4 x.2 w.1 w.2
      | _ => pure ())
  ps.forM (fun p => do
    match p.place with
    | .chip core off =>
      let va := BitVec.ofNat 64 p.va
      let old ← orRaise ((← get).chipRead core off p.n va)
      let inPiece := lanes.filter (fun x => decide (p.va ≤ x.2) && decide (x.2 < p.va + p.n))
      let bytes := inPiece.foldl (fun acc x =>
        let at_ := x.2 - p.va
        acc % 2 ^ (8 * at_) + (laneWord v x.1).1 * 2 ^ (8 * at_) + acc / 2 ^ (8 * at_ + 32) * 2 ^ (8 * at_ + 32)) old.1
      let marks := inPiece.foldl (fun acc x =>
        let at_ := x.2 - p.va
        acc % 2 ^ at_ + (laneWord v x.1).2 * 2 ^ at_ + acc / 2 ^ (at_ + 4) * 2 ^ (at_ + 4)) old.2
      set (← orRaise ((← get).chipWrite core off p.n bytes marks va))
    | _ => pure ())

/-- A vector store once its pieces have passed their checks: the source is read last (R231).
(notes/assumptions/28.md) -/
def finishStore (src : VSpec) (ps : List Piece) (lanes : List (Nat × Nat)) : M Flow := do
  if (← piecesWait .write ps) then throw .stall
  ps.forM (fun p => checkChip p.place p.n p.va)
  let v ← readVec src
  writeLanes ps lanes v
  return .done

/-- POISON of a named scalar used as a base, offset or stride, which depends on no item and so comes before any item is waited
for (R231, R350). An instruction that has read its operands has passed it. -/
def checkNamed (x : Scalar) : M Unit := do
  match x with
  | .c _ => pure ()
  | _ => if (← cur).operands.isNone then let _ ← readClean x

/-- The same of a named vector of offsets, in its active lanes. -/
def checkNamedLanes (x : VSpec) : M Unit := do
  match x with
  | .c _ => pure ()
  | _ => if (← cur).voperand.isNone then check (decide ((← readVec x).mark &&& (← activeLanes) = 0)) .poison

/-- B + I of R247. -/
def blockAddr (vs : List Val) : M Nat := do
  let b ← useClean (nthVal vs 0)
  let i ← useClean (nthVal vs 1)
  return (b + i).toNat

/-- VLD (R247, R248): the whole block is checked, whatever the mask. -/
def execVld (d : VSpec) (base off : Scalar) (s : State) : Host.Outcome State Fault Refusal :=
  issue (.vld d base off) (do
    checkSrc base
    checkSrc off
    checkVDst d
    checkNamed base
    checkNamed off
    let va ← blockAddr (← readOnce [base, off])
    let ps ← vecPieces .read true 512 va
    finishLoad d ps ((laneList (← activeLanes)).map (fun l => (l, va + 4 * l)))) s

/-- VLDB (R247, R248) -/
def execVldb (d : VSpec) (base off : Scalar) (s : State) : Host.Outcome State Fault Refusal :=
  issue (.vldb d base off) (do
    checkSrc base
    checkSrc off
    checkVDst d
    checkNamed base
    checkNamed off
    let va ← blockAddr (← readOnce [base, off])
    let ps ← vecPieces .read false 4 va
    finishLoad d ps ((List.range 128).map (fun l => (l, va)))) s

/-- VST (R247, R248) -/
def execVst (x : VSpec) (base off : Scalar) (s : State) : Host.Outcome State Fault Refusal :=
  issue (.vst x base off) (do
    checkSrc base
    checkSrc off
    checkVSrc x
    checkNamed base
    checkNamed off
    let b ← readScalar base
    let i ← readScalar off
    let va ← blockAddr [b, i]
    let ps ← vecPieces .write true 512 va
    finishStore x ps ((laneList (← activeLanes)).map (fun l => (l, va + 4 * l)))) s

/-- The pieces of one word per lane, checked in increasing lane order (R248). -/
def lanePieces (kind : AccessKind) (lanes : List (Nat × Nat)) : M (List Piece) := do
  let ps ← lanes.mapM (fun x => vecPieces kind false 4 x.2)
  return ps.flatten

/-- The addresses of lanes with a stride (R247). -/
def strideLanes (m : BitVec 128) (b stride : Word) : List (Nat × Nat) :=
  (laneList m).map (fun l => (l, (b + BitVec.ofNat 64 l * stride).toNat))

/-- The addresses of lanes with offsets (R247); a marked offset of an active lane is POISON (R350). -/
def offsetLanes (m : BitVec 128) (b : Word) (ix : Vec) : M (List (Nat × Nat)) := do
  check (decide (ix.mark &&& m = 0)) .poison
  return (laneList m).map (fun l => (l, (b + (lane ix.bits l).setWidth 64).toNat))

/-- VLDS (R247, R248) -/
def execVlds (d : VSpec) (base stride : Scalar) (s : State) : Host.Outcome State Fault Refusal :=
  issue (.vlds d base stride) (do
    checkSrc base
    checkSrc stride
    checkVDst d
    checkNamed base
    checkNamed stride
    let vs ← readOnce [base, stride]
    let b ← useClean (nthVal vs 0)
    let st ← useClean (nthVal vs 1)
    let lanes := strideLanes (← activeLanes) b st
    finishLoad d (← lanePieces .read lanes) lanes) s

/-- VSTS (R247, R248) -/
def execVsts (x : VSpec) (base stride : Scalar) (s : State) : Host.Outcome State Fault Refusal :=
  issue (.vsts x base stride) (do
    checkSrc base
    checkSrc stride
    checkVSrc x
    checkNamed base
    checkNamed stride
    let b ← readClean base
    let st ← readClean stride
    let lanes := strideLanes (← activeLanes) b st
    finishStore x (← lanePieces .write lanes) lanes) s

/-- VGATHER (R247, R248) -/
def execVgather (d : VSpec) (base : Scalar) (ix : VSpec) (s : State) : Host.Outcome State Fault Refusal :=
  issue (.vgather d base ix) (do
    checkSrc base
    checkVSrc ix
    checkVDst d
    checkNamed base
    checkNamedLanes ix
    let vs ← readOnce [base]
    let i ← readVecOnce ix
    let b ← useClean (nthVal vs 0)
    let lanes ← offsetLanes (← activeLanes) b i
    finishLoad d (← lanePieces .read lanes) lanes) s

/-- VSCATTER (R247, R248) -/
def execVscatter (x : VSpec) (base : Scalar) (ix : VSpec) (s : State) : Host.Outcome State Fault Refusal :=
  issue (.vscatter x base ix) (do
    checkSrc base
    checkVSrc ix
    checkVSrc x
    checkNamed base
    checkNamedLanes ix
    let b ← readClean base
    let i ← readVec ix
    let lanes ← offsetLanes (← activeLanes) b i
    finishStore x (← lanePieces .write lanes) lanes) s

/-! VACC (R253, R254). -/

/-- The checks of R254 on the tile. -/
def vaccTile (tile : Fin 16) (reads : Bool) : M Unit := do
  let c ← cur
  check (decide (tile.val < c.tiles)) .accBound
  check (c.lampCfg[tile]).isNone .illegalOperand
  check (!(reads && c.discTiles.getLsbD tile.val)) .discardRead

/-- The chunk that k names. -/
def vaccIndex (k : Scalar) : M Nat := do
  let x ← readClean k
  check (decide (x.toNat < 32)) .illegalOperand
  return x.toNat

/-- The checks of R254 in order, and the chunk; an item that names it is taken after the checks of the tile, which depend on
no item (R231). -/
def vaccChunk (tile : Fin 16) (k : Scalar) (reads : Bool) : M Nat := do
  let n ← match k with
    | .c _ => do
      vaccTile tile reads
      vaccIndex k
    | _ => do
      let n ← vaccIndex k
      vaccTile tile reads
      pure n
  if (← cur).tileWaits tile.val then throw .stall
  return n

/-- The 128 words of a chunk as a vector. -/
def State.chunk (s : State) (c : Context) (tile k : Nat) : Vec where
  bits := BitVec.ofNat 4096 (s.acc.readN (c.tileWord tile (128 * k)) 512)
  mark := marksOf (fun l => s.acc.marked (c.tileWord tile (128 * k + l)) 4)

/-- A discarded tile made live, its words zero (R123, R254). -/
def reviveTile (t : Nat) : M Unit := do
  let c ← cur
  if c.discTiles.getLsbD t then
    modify fun s => s.tileZero c t
    modCur fun c => { c with discTiles := c.discTiles &&& ~~~ ((1 : BitVec 16) <<< t) }

/-- The words of active lanes of a chunk written. -/
def writeChunk (tile k : Nat) (m : BitVec 128) (v : Vec) : M Unit := do
  if m = 0 then pure ()
  else
    reviveTile tile
    let c ← cur
    modify fun s => { s with acc := (laneList m).foldl (fun acc l =>
      acc.writeN (c.tileWord tile (128 * k + l)) 4 (lane v.bits l).toNat (v.mark.getLsbD l)) s.acc }

/-- VLDA (R253) -/
def execVlda (d : VSpec) (tile : Fin 16) (k : Scalar) (s : State) : Host.Outcome State Fault Refusal :=
  issue (.vlda d tile k) (do
    checkSrc k
    checkVDst d
    let n ← vaccChunk tile k true
    let s ← get
    writeVec d (s.chunk s.cur tile.val n)
    return .done) s

/-- VSTA (R253) -/
def execVsta (x : VSpec) (tile : Fin 16) (k : Scalar) (s : State) : Host.Outcome State Fault Refusal :=
  issue (.vsta x tile k) (do
    checkSrc k
    checkVSrc x
    let n ← vaccChunk tile k false
    let v ← readVec x
    writeChunk tile.val n (← activeLanes) v
    return .done) s

/-- VADDA (R253): both operands are FP32, rounded once. -/
def execVadda (x : VSpec) (tile : Fin 16) (k : Scalar) (s : State) : Host.Outcome State Fault Refusal :=
  issue (.vadda x tile k) (do
    checkSrc k
    checkVSrc x
    let n ← vaccChunk tile k true
    let v ← readVec x
    let m ← activeLanes
    let s ← get
    let old := s.chunk s.cur tile.val n
    let r := lanesF2 0 FFmt.add s.cur m old.bits v.bits
    writeChunk tile.val n m { bits := r.1, mark := old.mark ||| v.mark }
    raiseFlagsN r.2
    return .done) s

end Sys2Proof.Machine
end

