-- ==== Sys2Proof/Machine/Field.lean ====
section
/-! DEFINITION. The field instructions: joins, waits, probes, exact reads, freezes and fallows, and the vector joins
(spec/09 R218 to R230, spec/10 R251, R252, spec/03 R68 to R77, spec/11 R288, spec/15 R377). -/
namespace Sys2Proof.Machine

/-- FieldAccess of R219: `refuse` names the fault of a page type that the instruction does not admit.
(notes/assumptions/24.md) -/
def fieldAccess (kind : AccessKind) (refuse : Leaf → Option FaultCode) (ea : Word) : M Leaf := do
  let va := ea.toNat
  match windowOf va with
  | .guardPage | .unused => raise .address ea
  | .stack | .scratch => raise .badType ea
  | .onChip | .device =>
    if (← cur).sys then raise .badType ea else raise .permission ea
  | .global =>
    let l ← translate kind va
    match refuse l with
    | some code => raiseInfo (pageFault code va l)
    | none =>
      if kind == .write && l.jblock then throw (.park (.jblock va))
      return l

/-- Every type but those of a predicate is BAD_TYPE. -/
def onlyTypes (p : Nat → Bool) (l : Leaf) : Option FaultCode := if p l.ty then none else some .badType

/-- Types 1 to 10 (R58). -/
def fieldType (ty : Nat) : Bool := decide (1 ≤ ty) && decide (ty ≤ 10)

/-! Waiting for acknowledgements and delivering posted faults (R76). -/

/-- The context's held joins leave, and whether every earlier join and fill, and with `stores` every store, has been
acknowledged (R76, R281). -/
def waitAcks (stores : Bool) : M Bool := do
  let c ← cur
  modify fun s => s.drainHeld c.core (Held.ofCtx c.key)
  return (← cur).outs.all (fun o => o.store && !stores)

/-- The earliest posted fault in program order. -/
def earliest : List Posted → Option Posted
  | [] => none
  | p :: r => match earliest r with
    | none => some p
    | some q => if q.n < p.n then some q else some p

/-- DeliverPosted (R76): the earliest posted fault, the others counted. -/
def deliverPosted : M Unit := do
  let c ← cur
  match earliest c.posted with
  | none => pure ()
  | some p =>
    throw (.deliver ((← get).answerFault c.asid p.code p.va (min 255 (c.posted.length - 1))) .posted)

/-- An acquire: the core's L1 lines that are not FROZEN are dropped (R108, R338). -/
def acquire : M Unit := do
  let c ← cur
  modify fun s => s.acquireL1 c.core

/-! Joins (R221 to R223). -/

/-- The join of a value into a cell of a page, numbered for the context; it is held in the core's buffer unless it is a
release (R221, R222, R288). -/
def joinCell (l : Leaf) (va w : Nat) (x : Int) (mark rel : Bool) : M Unit := do
  let n ← newOut l va false (!rel)
  let c ← cur
  let j : JoinReq := { cell := l.key va, width := w, ty := l.ty, arg := l.arg, val := x, mark := mark, rel := rel,
                       tags := [{ who := .ctx c.key n, va := BitVec.ofNat 64 va }] }
  modify fun s => s.postJoin c.core c.asid l va j (!rel)

/-- The types a join of `w` bits admits (R58, R221). -/
def refuseJoin (w : Nat) : Leaf → Option FaultCode := onlyTypes (fun ty => admitsJoin ty w && decide (ty ≠ 10))

/-- Join of R221. -/
def joinScalar (w : Nat) (rel : Bool) (addr val : Scalar) : M Flow := do
  checkSrc addr
  checkSrc val
  let vs ← readOnce [addr, val]
  let ea ← useClean (nthVal vs 0)
  let l ← fieldAccess .write (refuseJoin w) ea
  check (decide (ea.toNat % (w / 8) = 0)) .address ea
  if rel then
    if !(← waitAcks false) then return .park (.acks .fills)
    deliverPosted
  joinCell l ea.toNat w ((nthVal vs 1).bits.toNat % 2 ^ w : Nat) (nthVal vs 1).mark rel
  return .done

/-- XJoin of R223. -/
def xjoinScalar (isF rel : Bool) (addr val : Scalar) : M Flow := do
  checkSrc addr
  checkSrc val
  let vs ← readOnce [addr, val]
  let ea ← useClean (nthVal vs 0)
  let l ← fieldAccess .write (onlyTypes (fun ty => decide (ty = 10))) ea
  check (decide (ea.toNat % 16 = 0)) .address ea
  match contribution isF (nthVal vs 1).bits l.arg.toInt with
  | none => raise .range ea
  | some x =>
    if rel then
      if !(← waitAcks false) then return .park (.acks .fills)
      deliverPosted
    joinCell l ea.toNat 128 x (nthVal vs 1).mark rel
    return .done

/-- JOIN.H (R221) -/
def execJoinH (addr val : Scalar) (s : State) : Host.Outcome State Fault Refusal :=
  issue (.joinH addr val) (joinScalar 16 false addr val) s

/-- JOIN.W (R221) -/
def execJoinW (addr val : Scalar) (s : State) : Host.Outcome State Fault Refusal :=
  issue (.joinW addr val) (joinScalar 32 false addr val) s

/-- JOIN.D (R221) -/
def execJoinD (addr val : Scalar) (s : State) : Host.Outcome State Fault Refusal :=
  issue (.joinD addr val) (joinScalar 64 false addr val) s

/-- JOIN.H.REL (R221, R222) -/
def execJoinHRel (addr val : Scalar) (s : State) : Host.Outcome State Fault Refusal :=
  issue (.joinHRel addr val) (joinScalar 16 true addr val) s

/-- JOIN.W.REL (R221, R222) -/
def execJoinWRel (addr val : Scalar) (s : State) : Host.Outcome State Fault Refusal :=
  issue (.joinWRel addr val) (joinScalar 32 true addr val) s

/-- JOIN.D.REL (R221, R222) -/
def execJoinDRel (addr val : Scalar) (s : State) : Host.Outcome State Fault Refusal :=
  issue (.joinDRel addr val) (joinScalar 64 true addr val) s

/-- XJOIN.F (R223) -/
def execXjoinF (addr val : Scalar) (s : State) : Host.Outcome State Fault Refusal :=
  issue (.xjoinF addr val) (xjoinScalar true false addr val) s

/-- XJOIN.I (R223) -/
def execXjoinI (addr val : Scalar) (s : State) : Host.Outcome State Fault Refusal :=
  issue (.xjoinI addr val) (xjoinScalar false false addr val) s

/-- XJOIN.F.REL (R222, R223) -/
def execXjoinFRel (addr val : Scalar) (s : State) : Host.Outcome State Fault Refusal :=
  issue (.xjoinFRel addr val) (xjoinScalar true true addr val) s

/-- XJOIN.I.REL (R222, R223) -/
def execXjoinIRel (addr val : Scalar) (s : State) : Host.Outcome State Fault Refusal :=
  issue (.xjoinIRel addr val) (xjoinScalar false true addr val) s

/-! Threshold tests (R224 to R227). -/

/-- The held joins of a core to the cell that an address names (R288). (notes/assumptions/38.md) -/
def State.heldTo (s : State) (core key : Nat) : List Held :=
  (s.core core).hold.filter (fun h => decide (h.req.cell ≤ key) && decide (key < h.req.cell + h.req.width / 8))

/-- The held joins of the core that `drain` names leave, and the context notes them among all joins and fills of its core to
the lines of `at_` that are on their way: what it does next comes behind each of them (R336, R340, R341). -/
def goBehind (drain : State → Held → Bool) (at_ : Nat → Bool) : M Unit := do
  let c ← cur
  modify fun s => s.drainHeld c.core (drain s)
  modify fun s => { s with cur := { s.cur with
    phase := 1
    ahead := s.outsOf c.core (fun o => !o.store && at_ o.line) } }

/-- Whether all that the context has noted is acknowledged. -/
def behindAll : M Bool := do
  let s ← get
  return s.cur.ahead.all s.acked

/-- The held joins to the tested cell leave, and whether each of them, and each join of the core to its line that was on its way,
has been acknowledged (R288, R336, R341). (notes/assumptions/38.md) -/
def clearAhead (key : Nat) : M Bool := do
  let c ← cur
  if c.phase = 0 then goBehind (fun s h => (s.heldTo c.core key).contains h) (fun line => line == key / 128)
  behindAll

/-- The test sent to the home of the cell, once the held joins to it are acknowledged: whether it has been sent. -/
def sendTest (l : Leaf) (va : Nat) (k : TestKind) : M Bool := do
  if (← clearAhead (l.key va)) then
    let who ← newRequest
    sendHome l va (.test (l.key va) l.ty l.arg k who)
    return true
  else return false

/-- The outcome of a resolved wait (R70): its fault is precise at the wait. -/
def passedOr (ea : Word) (r : TestResult) : M (Nat × Word) := do
  match r with
  | .passed i first => return (i, first)
  | .poison => raise .poison ea
  | .misaligned => raise .address ea
  | .lost code => raiseInfo ((← get).answerFault (← cur).asid code ea)
  | .unreachable | .notPassed => raise .unreachableThreshold ea

/-- A wait once it has resolved: the result is written and the wait acquires (R338). (notes/assumptions/33.md) -/
def endWait (d : Scalar) (ea : Word) (mark : Bool) (r : TestResult) (pick : Nat → Word → Word) : M Flow := do
  let p ← passedOr ea r
  writeScalar d { bits := pick p.1 p.2, mark := mark }
  acquire
  return .done

/-- A context waits for the test it has sent: it parks once the home holds the watch, and keeps its core while it is not decided
whether the test passes at once (R70, R311; the table under R230). -/
def waitReply : M Flow := do
  let s ← get
  return if s.watches.any (fun w => w.who == .ctx s.cur.key s.cur.nextReq) then .park .reply else .stall

/-- What a wait does after its own checks: R76, then the test, then it waits until the test resolves. -/
def startWait (l : Leaf) (ea : Word) (k : TestKind) : M Flow := do
  if !(← waitAcks false) then return .park (.acks .fills)
  deliverPosted
  if (← sendTest l ea.toNat k) then waitReply else return .park (.acks .ahead)

/-- AWAIT of R224. -/
def awaitCell (d addr trig : Scalar) : M Flow := do
  checkSrc addr
  checkSrc trig
  checkDst d
  let vs ← readOnce [addr, trig]
  let ea ← useClean (nthVal vs 0)
  let c ← cur
  match c.reply with
  | some r => endWait d ea (nthVal vs 1).mark r.r (fun _ _ => 0)
  | none =>
    if c.asked then return (← waitReply)
    let l ← fieldAccess .read (onlyTypes fieldType) ea
    check (decide (l.ty ≠ 1) || decide (ea.toNat % 8 = 0)) .address ea
    startWait l ea (.await (nthVal vs 1).bits)

/-- AWAIT (R224) -/
def execAwait (d addr trig : Scalar) (s : State) : Host.Outcome State Fault Refusal :=
  issue (.await d addr trig) (awaitCell d addr trig) s

/-- Checks 1 to 5 of R225 and the triggers of the list. -/
def readTriggers (list ea : Word) : M (List Val) := do
  check (decide (wbits list 50 14 = 0)) .illegalOperand
  let at_ := wbits list 0 48
  let n := wbits list 48 2 + 1
  let a := BitVec.ofNat 64 at_
  check (windowOf at_ == .scratch && decide (at_ % 8 = 0)) .address a
  let s ← get
  let o := at_ - scratchWindow
  check (s.cur.sliceFits o (8 * n)) .scratchBound a
  if s.cur.loadWaits o (8 * n) then throw .stall
  check (!s.cur.touchesDiscarded o (8 * n)) .discardRead a
  check (!s.cur.touchesBarrier o (8 * n) && !s.touchesArea s.cur o (8 * n)) .illegalOperand a
  let ts := (List.range n).map (fun i =>
    ({ bits := BitVec.ofNat 64 (s.sliceRead s.cur (o + 8 * i) 8)
       mark := anyMark (s.sliceMarks s.cur (o + 8 * i) 8) } : Val))
  check (decide ((ts.map Val.bits).Nodup)) .triggerSet ea
  return ts

/-- AWAIT.ANY of R225. The triggers are read once and kept. -/
def awaitAnyCell (d addr list : Scalar) : M Flow := do
  checkSrc addr
  checkSrc list
  checkDst d
  let vs ← readOnce [addr, list]
  let ea ← useClean (nthVal vs 0)
  let lw ← useClean (nthVal vs 1)
  let c ← cur
  match c.reply with
  | some r => endWait d ea ((vs.drop 2).any Val.mark) r.r (fun i _ => BitVec.ofNat 64 i)
  | none =>
    if c.asked then return (← waitReply)
    let ts ← if vs.length ≤ 2 then readTriggers lw ea else pure (vs.drop 2)
    modCur fun c => { c with operands := some (vs.take 2 ++ ts) }
    let l ← fieldAccess .read (fun l =>
      if l.ty = 1 then none else if fieldType l.ty then some .triggerSet else some .badType) ea
    check (decide (ea.toNat % 8 = 0)) .address ea
    startWait l ea (.any (ts.map Val.bits))

/-- AWAIT.ANY (R225) -/
def execAwaitAny (d addr list : Scalar) (s : State) : Host.Outcome State Fault Refusal :=
  issue (.awaitAny d addr list) (awaitAnyCell d addr list) s

/-- AWAIT.FILLED (R226): the result is the line's first doubleword. -/
def awaitFilledCell (d addr : Scalar) : M Flow := do
  checkSrc addr
  checkDst d
  let vs ← readOnce [addr]
  let ea ← useClean (nthVal vs 0)
  let c ← cur
  match c.reply with
  | some r => endWait d ea false r.r (fun _ first => first)
  | none =>
    if c.asked then return (← waitReply)
    let l ← fieldAccess .read (onlyTypes (fun ty => decide (ty = 1))) ea
    check (decide (ea.toNat % 8 = 0)) .address ea
    startWait l ea .filled

/-- AWAIT.FILLED (R226) -/
def execAwaitFilled (d addr : Scalar) (s : State) : Host.Outcome State Fault Refusal :=
  issue (.awaitFilled d addr) (awaitFilledCell d addr) s

/-! Record and replay (R377, notes/assumptions/9.md). -/

/-- The queue through which a context's launch came. -/
def State.queueOf (s : State) (c : Context) : Option (Fin 64) :=
  match s.launches.find? (fun l => l.id == c.launch) with
  | some l => l.queue
  | none => none

/-- Entry `i` of a queue's record log in memory: key, count, kind and the first word of the outcome. -/
def State.logWords (s : State) (base i : Nat) : List Word := (List.range 4).map (fun w => s.word (base + 32 * i + 8 * w))

/-- The bytes of an entry. -/
def logImage (ws : List Word) : BitVec 256 := BitVec.ofNat 256 (packList 64 (ws.map BitVec.toNat))

/-- The outcome an entry in memory stands for: its word, or all that was logged with the entry it is. -/
def State.logOutcomeOf (s : State) (ws : List Word) : List Word :=
  match s.rlog.find? (fun e => e.image == logImage ws) with
  | some e => e.outcome
  | none => ws.drop 3

/-- In replay mode, the logged outcome of an instruction of R83, from the first entry of the log in memory with its key and
count; a missing entry or one of another kind is NONDETERMINISM. -/
def replayed (kind : Nat) : M (Option (List Word)) := do
  let s ← get
  let c := s.cur
  if !c.replaying then return none
  else
    match s.queueOf c with
    | none => raise .nondeterminism
    | some q =>
      let r := s.queues[q]
      let entries := (List.range r.rlogsize.toNat).map (s.logWords r.rlog.toNat)
      match entries.find? (fun ws => ws.take 2 == [c.taskKey, c.regs.icount]) with
      | none => raise .nondeterminism
      | some ws =>
        if ws[2]? = some (BitVec.ofNat 64 kind) then return some (s.logOutcomeOf ws)
        else raise .nondeterminism

/-- In record mode, the outcome of an instruction of R83 appended to its queue's log, and its entry of 32 bytes written
there. -/
def logOutcome (kind : Nat) (out : List Word) : M Unit := do
  let s ← get
  let c := s.cur
  if c.recording then
    match s.queueOf c with
    | none => pure ()
    | some q =>
      let r := s.queues[q]
      let r1 : Queue := { r with rlogCount := r.rlogCount + 1 }
      if r.rlogCount < r.rlogsize.toNat then
        let image := logImage [c.taskKey, c.regs.icount, BitVec.ofNat 64 kind, out.headD 0]
        modify fun s => { s with
          rlog := s.rlog.filter (fun e => e.image != image) ++
            [{ image := image, key := c.taskKey, icount := c.regs.icount, kind := kind, outcome := out }]
          queues := s.queues.set q r1
          mem := s.mem.writeN (r.rlog.toNat + 32 * r.rlogCount) 32 image.toNat false }

/-- The smallest cell of a type (R227). -/
def smallestCell (ty : Nat) : Nat :=
  match ty with
  | 1 => 8
  | 9 => 4
  | 10 => 16
  | _ => 2

/-- What PROBE writes (R71). -/
def probeCode (ea : Word) (r : TestResult) : M Nat := do
  match r with
  | .passed .. => return 1
  | .notPassed => return 0
  | .poison => return 2
  | .unreachable => return 3
  | .misaligned => raise .address ea
  | .lost code => raiseInfo ((← get).answerFault (← cur).asid code ea)

/-- PROBE's end: its result, the log and ND (R83, R227). (notes/assumptions/33.md) -/
def endProbe (d : Scalar) (mark : Bool) (x : Word) : M Flow := do
  writeScalar d { bits := x, mark := mark }
  logOutcome 0 [x]
  markNd
  return .done

/-- PROBE of R227. -/
def probeCell (d addr trig : Scalar) : M Flow := do
  check (!(← cur).strict) .nondeterminism
  checkSrc addr
  checkSrc trig
  checkDst d
  let vs ← readOnce [addr, trig]
  let ea ← useClean (nthVal vs 0)
  let c ← cur
  match c.reply with
  | some r => endProbe d (nthVal vs 1).mark (BitVec.ofNat 64 (← probeCode ea r.r))
  | none =>
    if c.asked then return .stall
    let l ← fieldAccess .read (onlyTypes fieldType) ea
    check (decide (ea.toNat % smallestCell l.ty = 0)) .address ea
    match (← replayed 0) with
    | some out => endProbe d (nthVal vs 1).mark (out.headD 0)
    | none =>
      let _sent ← sendTest l ea.toNat (.probe (nthVal vs 1).bits)
      return .stall

/-- PROBE (R227) -/
def execProbe (d addr trig : Scalar) (s : State) : Host.Outcome State Fault Refusal :=
  issue (.probe d addr trig) (probeCell d addr trig) s

/-- LDX of R228: the line's poison and state are judged where the line is read. -/
def loadExact (n : Nat) (d addr : Scalar) : M Flow := do
  checkSrc addr
  checkDst d
  let vs ← readOnce [addr]
  let ea ← useClean (nthVal vs 0)
  let l ← fieldAccess .read (onlyTypes fieldType) ea
  check (decide (ea.toNat % n = 0)) .address ea
  if (← obtain true [(l, ea.toNat)]) then
    let x ← obtained l ea.toNat
    writeScalar d { bits := BitVec.ofNat 64 (x.bytes (ea.toNat % 128) n)
                    mark := anyMark (x.markBits (ea.toNat % 128) n) }
    return .done
  else return .stall

/-- LDX.W (R228) -/
def execLdxW (d addr : Scalar) (s : State) : Host.Outcome State Fault Refusal :=
  issue (.ldxW d addr) (loadExact 4 d addr) s

/-- LDX.D (R228) -/
def execLdxD (d addr : Scalar) (s : State) : Host.Outcome State Fault Refusal :=
  issue (.ldxD d addr) (loadExact 8 d addr) s

/-! Freezes and fallows (R229, R230). -/

/-- A range in the global window (R229, R230). -/
def rangeOk (a n : Nat) : Bool := windowOf a == .global && decide (a + n ≤ stackWindow)

/-- Every page of a range in address order under FieldAccess (R229). A page is asked for at each of its 4 KiB units.
(notes/assumptions/26.md) -/
def rangePages (refuse : Leaf → Option FaultCode) (a n : Nat) : M (List (Nat × Leaf)) :=
  let first := alignDown a 4096
  (List.range ((a + n - first + 4095) / 4096)).mapM (fun i => do
    let va := first + 4096 * i
    let l ← fieldAccess .write refuse (BitVec.ofNat 64 va)
    return (va, l))

/-- The freeze of every line of a range sent to its home; the context waits for each as for a join (R74). -/
def freezeLines (pages : List (Nat × Leaf)) (a n : Nat) : M Unit :=
  pages.forM (fun p =>
    (List.range 32).forM (fun i => do
      let va := p.1 + 128 * i
      if a ≤ va && va < a + n then
        let num ← newOut p.2 va false false
        let c ← cur
        sendHome p.2 va (.freeze (p.2.line va) p.2.ty { who := .ctx c.key num, va := BitVec.ofNat 64 va })
        modCur fun c => { c with ahead := c.ahead ++ [(c.key, num)] }))

/-- A line of a range's pages that lies in the range. -/
def rangeHas (pages : List (Nat × Leaf)) (a n line : Nat) : Bool :=
  pages.any (fun p =>
    let first := p.2.line p.1
    let va := p.1 + 128 * (line - first)
    decide (first ≤ line) && decide (line < first + 32) && decide (a ≤ va) && decide (va < a + n))

/-- The freezes of a range, behind every join and fill of the core to its lines (R340, R341): whether they are on their way. -/
def freezeBehind (refuse : Leaf → Option FaultCode) (a n : Nat) : M Bool := do
  if !(← behindAll) then return false
  let pages ← rangePages refuse a n
  modCur fun c => { c with phase := 2, ahead := [] }
  freezeLines pages a n
  return true

/-- A failure of the instruction's own freezes, precise at it. -/
def ownFailure : M Unit := do
  let c ← cur
  let own := c.posted.filter (fun p => c.ahead.any (fun o => o.2 == p.n))
  match earliest own with
  | none => pure ()
  | some p => throw (.deliver ((← get).answerFault c.asid p.code p.va) (.taken (own.map Posted.n)))

/-- Checks 1 and 2 of R229 and R230, for a granule of `g` bytes. -/
def rangeOperands (g : Nat) (ea len : Word) : M Unit := do
  check (decide (len.toNat % g = 0) && decide (len ≠ 0) && decide (len.toNat ≤ 2 ^ 30)) .illegalOperand
  check (decide (ea.toNat % g = 0) && rangeOk ea.toNat len.toNat) .address ea

/-- FREEZE of R229 and R74. That a marked length is POISON is the model's choice (notes/assumptions/33.md).
(notes/assumptions/38.md) -/
def freezeRange (addr len : Scalar) : M Flow := do
  checkSrc addr
  checkSrc len
  let vs ← readOnce [addr, len]
  let ea ← useClean (nthVal vs 0)
  let n ← useClean (nthVal vs 1)
  if (← cur).phase = 0 then
    rangeOperands 128 ea n
    let pages ← rangePages (onlyTypes fieldType) ea.toNat n.toNat
    if !(← waitAcks false) then return .park (.acks .fills)
    deliverPosted
    goBehind (fun _ h => rangeHas pages ea.toNat n.toNat (h.req.cell / 128)) (rangeHas pages ea.toNat n.toNat)
  if (← cur).phase = 1 then
    if !(← freezeBehind (onlyTypes fieldType) ea.toNat n.toNat) then return .park (.acks .ahead)
  if !(← waitAcks false) then return .park (.acks .fills)
  ownFailure
  return .done

/-- FREEZE (R229) -/
def execFreeze (addr len : Scalar) (s : State) : Host.Outcome State Fault Refusal :=
  issue (.freeze addr len) (freezeRange addr len) s

/-- GEN raised in the leaf entry at a place (R77). -/
def State.bumpGen (s : State) (pa : Nat) : State :=
  let w := s.word (pa + 8)
  let g := (wbits w 8 8 + 1) % 256
  let w1 := w.toNat - wbits w 8 8 * 256 + g * 256
  { s with mem := s.mem.writeN (pa + 8) 8 w1 false }

/-- `n` lines from `first` on forgotten: no cache, no gateway, no answer on its way and no instruction in progress keeps
what they held, and a migration no longer forwards them (R77, R78, R105). -/
def State.forgetLines (s : State) (first n : Nat) : State :=
  let gone (line : Nat) : Bool := decide (first ≤ line) && decide (line < first + n)
  { s.mapCtxs (fun c => { c.spoilL1 true with lines := c.lines.filter (fun x => !gone x.line) }) with
    cores := s.cores.map (fun k => { k with
      l1 := k.l1.filter (fun x => !gone x.snap.line)
      icache := k.icache.filter (fun x => !gone x.snap.line) })
    replicas := s.replicas.filter (fun r => !gone r.snap.line)
    forwards := s.forwards.filter (fun f => !gone f.1)
    msgs := s.msgs.map (fun m =>
      if m.snap.any (fun x => gone x.line) then
        match m.body with
        | .data _ none => { m with snap := none, stale := true }
        | _ => { m with stale := true }
      else m) }

/-- The lines of a range reset: their metadata bytes, and what is kept of them (R63, R77, R78). (notes/assumptions/62.md) -/
def State.resetLines (s : State) (asid : BitVec 12) (lo size : Nat) : State :=
  (s.leaves asid lo size).foldl (fun s p =>
    let from_ := max lo p.1
    let to_ := min (lo + size) (p.1 + p.2.2.size)
    let first := (p.2.2.pa + (from_ - p.1)) / 128
    let n := (to_ - from_) / 128
    { s.forgetLines first n with md := s.md.clear first n }) s

/-- The page types FALLOW admits: BAD_TYPE outside types 1 to 10. -/
def refuseFallow : Leaf → Option FaultCode := onlyTypes fieldType

/-- FALLOW of R230 and R77. That a marked length is POISON is the model's choice (notes/assumptions/33.md).
(notes/assumptions/38.md, 62.md) -/
def fallowRange (addr len : Scalar) : M Flow := do
  checkSrc addr
  checkSrc len
  let vs ← readOnce [addr, len]
  let ea ← useClean (nthVal vs 0)
  let n ← useClean (nthVal vs 1)
  if (← cur).phase = 0 then
    rangeOperands 4096 ea n
    let pages ← rangePages refuseFallow ea.toNat n.toNat
    match pages.find? (fun p => p.2.remote) with
    | some p => raiseInfo (pageFault .permission p.1 p.2)
    | none => pure ()
    if !(← waitAcks false) then return .park (.acks .fills)
    goBehind (fun _ h => rangeHas pages ea.toNat n.toNat (h.req.cell / 128)) (rangeHas pages ea.toNat n.toNat)
  if (← cur).phase = 1 then
    if !(← freezeBehind refuseFallow ea.toNat n.toNat) then return .park (.acks .ahead)
  if (← cur).phase = 2 then
    if !(← waitAcks false) then return .park (.acks .fills)
    ownFailure
    let c ← cur
    modify fun s =>
      (((s.leaves c.asid ea.toNat n.toNat).map (fun p => p.2.1)).foldl State.bumpGen s).startInval (some c.key)
        c.asid ea.toNat n.toNat
    modCur fun c => { c with phase := 3 }
  let s ← get
  if s.invals.any (fun v => v.by_ == some s.cur.key) then return .park .invalidation
  modify fun s => s.resetLines s.cur.asid ea.toNat n.toNat
  return .done

/-- FALLOW (R230) -/
def execFallow (addr len : Scalar) (s : State) : Host.Outcome State Fault Refusal :=
  issue (.fallow addr len) (fallowRange addr len) s

/-! VFIELD (R251, R252). -/

/-- The values of a named vector, which are there before any item is taken; none of a port. -/
def namedVec (x : VSpec) : M (Option Vec) := do
  match x with
  | .c _ => return none
  | _ => return some (← readVec x)

/-- The joins of one instruction (R251): every lane is checked, in increasing order, before any join leaves; values that come
as an item are taken, and checked, last (R231). -/
def joinLanes (x : VSpec) (base : Scalar) (ix : VSpec) (refuse : Leaf → Option FaultCode) (w : Nat)
    (operand : Leaf → Word → Option Int) : M Flow := do
  checkSrc base
  checkVSrc ix
  checkVSrc x
  checkNamed base
  checkNamedLanes ix
  let b ← readClean base
  let i ← readVec ix
  let lanes ← offsetLanes (← activeLanes) b i
  let named ← namedVec x
  let cells ← lanes.mapM (fun p => do
    let ea := BitVec.ofNat 64 p.2
    let l ← fieldAccess .write refuse ea
    check (decide (p.2 % (w / 8) = 0)) .address ea
    check (named.all (fun v => (operand l ((lane v.bits p.1).setWidth 64)).isSome)) .range ea
    return (l, p.1, p.2))
  let v ← readVec x
  let js ← cells.mapM (fun p => match operand p.1 ((lane v.bits p.2.1).setWidth 64) with
    | none => raise .range (BitVec.ofNat 64 p.2.2)
    | some y => return (p.1, p.2.2, y, v.mark.getLsbD p.2.1))
  js.forM (fun j => joinCell j.1 j.2.1 w j.2.2.1 j.2.2.2 false)
  return .done

/-- VJOIN (R251) -/
def execVjoin (x : VSpec) (base : Scalar) (ix : VSpec) (s : State) : Host.Outcome State Fault Refusal :=
  issue (.vjoin x base ix) (joinLanes x base ix (refuseJoin 32) 32 (fun _ y => some (y.toNat : Nat))) s

/-- VXJOIN (R251) -/
def execVxjoin (x : VSpec) (base : Scalar) (ix : VSpec) (s : State) : Host.Outcome State Fault Refusal :=
  issue (.vxjoin x base ix) (joinLanes x base ix (onlyTypes (fun ty => decide (ty = 10))) 128
    (fun l y => contribution true y l.arg.toInt)) s

end Sys2Proof.Machine
end

