-- ==== Sys2Proof/Machine/Launch.lean ====
section
/-! DEFINITION. Task records, where they go, the launches that count their tasks, completions, and what is posted for the
host and the runtime (spec/12_tasks_and_scheduling.md R304, R305, R308, R309, R332, spec/11 R280, R284,
spec/14 R351, R353, spec/15 R365, R367, R377). -/
namespace Sys2Proof.Machine

/-! Task records (R304, R305). -/

/-- Word `i` of a record. -/
def TaskRec.word (r : TaskRec) (i : Fin 8) : Word := r.words[i]

/-- HANDLER -/
def TaskRec.handler (r : TaskRec) : CodeAddr := BitVec.ofNat 48 (wbits r.words[0] 0 48)

/-- CLASS -/
def TaskRec.cls (r : TaskRec) : Nat := wbits r.words[0] 48 2

/-- FOOT -/
def TaskRec.foot (r : TaskRec) : Nat := wbits r.words[0] 50 10

/-- TILES -/
def TaskRec.tiles (r : TaskRec) : Nat := wbits r.words[1] 0 5

/-- SYS -/
def TaskRec.sys (r : TaskRec) : Bool := r.words[1].getLsbD 5

/-- CELL -/
def TaskRec.cell (r : TaskRec) : BitVec 48 := BitVec.ofNat 48 (wbits r.words[1] 16 48)

/-- A record that is not malformed (R305). -/
def recordOk (ws : Vector Word 8) : Bool :=
  decide (wbits ws[0] 60 4 = 0) && decide (wbits ws[1] 6 10 = 0) && decide (wbits ws[0] 48 2 < 2) &&
    decide (wbits ws[0] 0 1 = 0) && decide (wbits ws[0] 50 10 ≤ 512) && decide (wbits ws[1] 0 5 ≤ 16) &&
    decide (wbits ws[1] 16 3 = 0) &&
    (decide (wbits ws[0] 48 2 = 0) || (decide (wbits ws[0] 50 10 = 0) && decide (wbits ws[1] 0 5 = 0)))

/-- A record with a word replaced. -/
def TaskRec.setWord (r : TaskRec) (i : Fin 8) (x : Word) : TaskRec := { r with words := r.words.set i x }

/-- The key of a task handed over (R377): Mix of its parent's key and the count of the handing instruction. That Mix takes 0 for
the element index of SrBits is the model's choice (notes/assumptions/9.md). -/
def mixKey (parent icount : Word) : Word := BitVec.ofNat 64 (srMix parent.toNat icount.toNat 0)

/-- Eight words of memory. -/
def wordsAt (f : Nat → Word) (a : Nat) : Vector Word 8 := Vector.ofFn (fun i : Fin 8 => f (a + 8 * i.val))

/-! Where records go (R284, R308). -/

/-- A core of a base die that has stopped issuing: a fenced one, or one of a lost group from its watchdog tick on (R371,
R374). -/
def State.coreLost (s : State) (c : Nat) : Bool := s.stoppedDies.getLsbD (dieOf c)

/-- A core can take records: it is in scheduling and not drained (R284, R296). -/
def State.canTake (s : State) (c : Nat) : Bool :=
  decide (c < 768) && !(s.core c).out && !(s.core c).drained && !s.coreLost c

/-- The core that takes a record sent to core `c` (R284) from base die `bd`. -/
def State.redirect (s : State) (c : Nat) (bd : Nat := 0) : Option Nat :=
  let die := dieOf c
  let order := [c] ++ (List.range 4).map (fun i => c / 4 * 4 + i) ++
    (List.range 4).flatMap (fun j => (List.range 192).map (fun i => (die + j) % 4 * 192 + i))
  order.find? (fun d => s.canTake d && !s.apart bd (dieOf d))

/-- Room in a core's inbox of a class: 64 entries, or 32 in the high one (R308). -/
def State.inboxRoom (s : State) (c : Nat) (high : Bool) : Bool :=
  if high then decide ((s.core c).high.length < 32) else decide ((s.core c).inbox.length < 64)

/-- The entries free in it. -/
def State.inboxFree (s : State) (c : Nat) (high : Bool) : Nat :=
  if high then 32 - (s.core c).high.length else 64 - (s.core c).inbox.length

/-- How long a context has been parked, as the stamp of its parking. -/
def Context.parkedAt (c : Context) : Option Nat :=
  match c.status with
  | .parked _ t => some t
  | _ => none

/-- The contexts parked for room in an inbox, longest-parked first, each with the inbox that takes its record now. -/
def State.senders (s : State) : List (Key × Nat × Bool) :=
  (s.allCtxs.mergeSort (fun x y => decide (x.parkedAt.getD 0 ≤ y.parkedAt.getD 0))).filterMap (fun c => match c.status with
    | .parked (.inbox n high) _ => (s.redirect n (dieOf c.core)).map (fun d => (c.key, d, high))
    | _ => none)

/-- A context woken. -/
def State.wakeCtx (s : State) (k : Key) : State :=
  { s.modCtx k (fun c => c.wake s.nextSeq) with nextSeq := s.nextSeq + 1 }

/-- A record has left an inbox: the context that has been parked longest for room there is woken (R311). -/
def State.inboxMoved (s : State) (core : Nat) (high : Bool) : State :=
  match s.senders.find? (fun x => x.2 == (core, high)) with
  | some x => if s.inboxRoom core high then s.wakeCtx x.1 else s
  | none => s

/-- The inboxes that take records have changed, or room has come in several: as many of the contexts parked for room are
woken as there is room for (R284, R318). -/
def State.wakeSenders (s : State) : State :=
  (s.senders.foldl (fun (p : State × List (Nat × Bool)) x =>
    if (p.2.filter (fun y => y == x.2)).length < s.inboxFree x.2.1 x.2.2 then (p.1.wakeCtx x.1, x.2 :: p.2) else p) (s, [])).1

/-- A record put into an inbox. -/
def State.putInbox (s : State) (c : Nat) (high : Bool) (r : TaskRec) : State :=
  s.modCore c (fun k => if high then { k with high := k.high ++ [r] } else { k with inbox := k.inbox ++ [r] })

/-- A record pushed onto the bottom of a deque. -/
def State.pushDeque (s : State) (c : Nat) (r : TaskRec) : State := s.modCore c (fun k => { k with deque := r :: k.deque })

/-- A record under way to a deque (0), a normal inbox (1) or a high one (2). -/
def State.sendRecord (s : State) (c kind : Nat) (r : TaskRec) : State :=
  { s with nextSeq := s.nextSeq + 1, transit := s.transit ++ [{ id := s.nextSeq, core := c, kind := kind, r := r }] }

/-! Launches (R309, R332). -/

/-- The records of a launch that have not started. -/
def State.pendingRecords (s : State) : List TaskRec :=
  s.transit.map (fun t => t.r) ++
    s.cores.flatMap (fun k => k.inbox ++ k.high ++ k.deque ++ (match k.glean with
      | .carrying r => [r]
      | _ => [])) ++
    s.crews.flatMap (fun w => if w.started then [] else w.members.map (fun m => m.2))

/-- A SPAWNW watch of the launch is held or on its way (R309). -/
def State.launchWatched (s : State) (id : Nat) : Bool :=
  let of (w : Who) : Bool := match w with
    | .watch _ _ r _ => r.launch == id
    | _ => false
  s.watches.any (fun w => of w.who) || s.msgs.any (fun m => match m.body with
    | .test _ _ _ _ w => of w
    | .result w _ => of w
    | _ => false)

/-- A task of the launch is live: started and not ended, or handed over and not started. -/
def State.launchLive (s : State) (id : Nat) : Bool :=
  s.allCtxs.any (fun c => c.launch == id) || s.pendingRecords.any (fun r => r.launch == id)

/-- A launch by its number. -/
def State.launch? (s : State) (id : Nat) : Option Launch := s.launches.find? (fun l => l.id == id)

/-- A launch changed. -/
def State.modLaunch (s : State) (id : Nat) (f : Launch → Launch) : State :=
  { s with launches := s.launches.map (fun l => if l.id = id then f l else l) }

/-- A vector raised (R363). -/
def State.raiseVector (s : State) (n : Nat) : State := { s with vectors := s.vectors ||| ((1 : BitVec 66) <<< n) }

/-- Four words written into a queue's completion ring, and its vector raised (R367). (notes/assumptions/39.md) -/
def State.postCompletion (s : State) (q : Fin 64) (ws : List Word) : State :=
  let r := s.queues[q]
  let at_ := r.comp.toNat + 32 * (r.ctail.toNat % 2 ^ wbits r.rsize 0 5)
  let r1 : Queue := { r with ctail := r.ctail + 1 }
  { s.raiseVector q.val with
    mem := s.mem.writeN at_ 32 (packList 64 (ws.map BitVec.toNat)) false
    queues := s.queues.set q r1 }

/-- The completion of a launch (R332); a log with two tasks of one key marks it (R377). -/
def Launch.words (l : Launch) (status code node : Nat) : List Word :=
  [l.tag,
   BitVec.ofNat 64 (status % 256 + code % 256 * 2 ^ 8 + (if l.dup then 0xFFFF else node % 2 ^ 16) * 2 ^ 16),
   BitVec.ofNat 64 (l.ended % 2 ^ 32 + l.reaped % 2 ^ 32 * 2 ^ 32),
   BitVec.ofNat 64 (l.nd % 2 ^ 16 + (match l.ndPc with
     | some pc => pc.toNat
     | none => 0) * 2 ^ 16)]

/-- A launch completes: its completion is posted and it is gone. -/
def State.complete (s : State) (id status code node : Nat) : State :=
  match s.launch? id with
  | none => s
  | some l =>
    let s1 : State := { s with launches := s.launches.filter (fun x => x.id != id) }
    match l.queue with
    | some q => s1.postCompletion q (l.words status code node)
    | none => s1

/-- The queue of a launch is being torn down: the launch completes with the teardown, with status 3 (R361). -/
def State.launchTorn (s : State) (l : Launch) : Bool :=
  match l.queue with
  | some q => s.queues[q].tearing
  | none => false

/-- A record launch or a legacy LAUNCH completes when no task of it is live and no SPAWNW watch of it is held (R309). -/
def State.settleLaunch (s : State) (id : Nat) : State :=
  match s.launch? id with
  | none => s
  | some l =>
    if (l.kind == 0 || l.kind == 3) && !s.launchTorn l && !s.launchLive id && !s.launchWatched id then s.complete id 0 0 0 else s

/-- The lower of two PCs. -/
def lowerPc (a : Option CodeAddr) (b : CodeAddr) : CodeAddr :=
  match a with
  | some x => if x.toNat ≤ b.toNat then x else b
  | none => b

/-- A task's end counted in its launch, with its ND bit and NDLOG (R292, R325, R332). -/
def State.countEnd (s : State) (c : Context) (reaped : Bool) : State :=
  s.modLaunch c.launch (fun l =>
    let l1 : Launch := if reaped then { l with reaped := l.reaped + 1 } else { l with ended := l.ended + 1 }
    if c.regs.status.getLsbD 8 then
      { l1 with nd := l1.nd + 1, ndPc := some (lowerPc l1.ndPc (c.regs.ndlog.setWidth 48)) }
    else l1)

/-! What is posted. -/

/-- An entry of the host event log (R365), for something that rule `rule` has logged; its layout is not fixed
(notes/assumptions/11.md). -/
def State.hostLog (s : State) (rule a b : Nat) : State :=
  let r := s.bar1
  if r.logsize = 0 then s
  else { s.raiseVector 64 with
    mem := s.mem.writeN (r.logbase.toNat + 16 * (r.logprod.toNat % r.logsize)) 16 (Config.logEntry rule a b).toNat false
    bar1 := { r with logprod := r.logprod + 1 } }

/-- SUSPENDED of every queue: every context of a suspended queue is in its frame (R368). -/
def State.refreshSuspended (s : State) : State :=
  { s with queues := Vector.ofFn (fun q : Fin 64 =>
      let r := s.queues[q]
      { r with suspended := r.suspend && s.allCtxs.all (fun c => c.slot.isNone || (match s.launch? c.launch with
        | some l => l.queue != some q
        | none => true)) }) }

/-! ReadRecord (R280). -/

/-- The part of a record in one page or window: its place, its address and its length. R280 gives no fault for a system
context's record in the on-chip or device window: ADDRESS is the model's choice (notes/assumptions/80.md). -/
def recordPart (n va : Nat) : M Piece := do
  let p ← steer .read n va
  match p with
  | .page l =>
    if l.ty = 0 || l.ty = 1 then return { place := p, va := va, n := n } else raiseInfo (pageFault .badType va l)
  | .chip .. | .device .. => raise .address (BitVec.ofNat 64 va)
  | _ => return { place := p, va := va, n := n }

/-- The parts of a record of 64 bytes (R85). -/
def recordParts (va : Nat) : M (List Piece) := do
  let first := 4096 - va % 4096
  if windowOf va == .global && first < 64 then
    let p ← recordPart first va
    let q ← recordPart (64 - first) (va + first)
    return [p, q]
  else return [← recordPart 64 va]

/-- The lines of PRIVATE pages among the parts. -/
def partLines (ps : List Piece) : List (Leaf × Nat) :=
  ps.flatMap (fun p => match p.place with
    | .page l => if l.ty = 0 then [(l, p.va), (l, p.va + p.n - 1)] else []
    | _ => [])

/-- The word of a record at an address, with its mark; a FILL1 line is read as LDC reads it (R214). -/
def recordWord (ps : List Piece) (va : Nat) : M Val := do
  match pieceOf ps va with
  | none => return { bits := 0 }
  | some p =>
    match p.place with
    | .page l =>
      if l.ty = 1 then return { bits := ← readConst l (BitVec.ofNat 64 va) }
      else match (← readPlace p.place 8 va) with
        | some d => return { bits := BitVec.ofNat 64 d.1, mark := anyMark d.2 }
        | none => return { bits := 0 }
    | .stack pa => match (← readPlace (.stack (pa + (va - p.va))) 8 va) with
      | some d => return { bits := BitVec.ofNat 64 d.1, mark := anyMark d.2 }
      | none => return { bits := 0 }
    | .slice o =>
      let s ← get
      return { bits := BitVec.ofNat 64 (s.sliceRead s.cur (o + (va - p.va)) 8)
               mark := anyMark (s.sliceMarks s.cur (o + (va - p.va)) 8) }
    | _ => return { bits := 0 }

/-- ReadRecord of R280: the eight words; none while the instruction has to wait. -/
def readRecord (ea : Word) (high : Bool) : M (Option (List Val)) := do
  check (decide (ea.toNat % 8 = 0)) .address ea
  let ps ← recordParts ea.toNat
  if (← piecesWait .read ps) then return none
  if !(← obtain false (partLines ps)) then return none
  let ws ← (List.range 8).mapM (fun i => recordWord ps (ea.toNat + 8 * i))
  check (!ws.any Val.mark) .poison ea
  let v : Vector Word 8 := Vector.ofFn (fun i : Fin 8 => (nthVal ws i.val).bits)
  check (recordOk v) .illegalOperand ea
  check (decide (wbits v[0] 48 2 = if high then 1 else 0)) .illegalOperand ea
  check (!(v[1].getLsbD 5 && !(← cur).sys)) .privilege ea
  return some ws

end Sys2Proof.Machine
end

