-- ==== Sys2Proof/Machine/Tasks.lean ====
section
/-! DEFINITION. The TASK instructions and the channel twins (spec/11_instructions_engines_tasks_system.md R279 to R286). -/
namespace Sys2Proof.Machine

/-- The record of a TASK instruction, read once and kept behind its `k` operands; none while it has to wait. -/
def takeRecord (k : Nat) (ea : Word) (high : Bool) : M (Option TaskRec) := do
  let c ← cur
  let vs := c.operands.getD []
  let make (ws : List Val) : TaskRec :=
    { asid := c.asid, launch := c.launch, key := mixKey c.taskKey c.regs.icount
      words := Vector.ofFn (fun i : Fin 8 => (nthVal ws i.val).bits) }
  if k < vs.length then return some (make (vs.drop k))
  else match (← readRecord ea high) with
    | none => return none
    | some ws =>
      modCur fun c => { c with operands := some (vs ++ ws) }
      return some (make ws)

/-- SPAWN of R282: with a second specifier other than 0, word 2 is replaced, and carries the mark of what replaced it
(R350). -/
def spawnTask (record arg : Scalar) : M Flow := do
  checkSrc record
  checkSrc arg
  let vs ← readOnce [record, arg]
  match (← takeRecord 2 (← useClean (nthVal vs 0)) false) with
  | none => return .stall
  | some r =>
    if !(← waitAcks true) then return .stall
    let c ← cur
    let r1 := if arg == .g 0 then r else { r.setWord 2 (nthVal vs 1).bits with argMark := (nthVal vs 1).mark }
    modify fun s => s.pushDeque c.core r1
    return .done

/-- SPAWN (R282) -/
def execSpawn (record arg : Scalar) (s : State) : Host.Outcome State Fault Refusal :=
  issue (.spawn record arg) (spawnTask record arg) s

/-- SPAWNW of R283: the test goes to the cell's home and is held there with the record. That the record is read and checked
before the cell is the model's choice (notes/assumptions/80.md). -/
def spawnWatch (record cell trig : Scalar) : M Flow := do
  checkSrc record
  checkSrc cell
  checkSrc trig
  let vs ← readOnce [record, cell, trig]
  match (← takeRecord 3 (← useClean (nthVal vs 0)) false) with
  | none => return .stall
  | some r =>
    let ea ← useClean (nthVal vs 1)
    let l ← fieldAccess .read (onlyTypes fieldType) ea
    check (decide (l.ty ≠ 1) || decide (ea.toNat % 8 = 0)) .address ea
    if !(← waitAcks true) then return .stall
    if !(← clearAhead (l.key ea.toNat)) then return .stall
    let c ← cur
    sendHome l ea.toNat (.test (l.key ea.toNat) l.ty l.arg (.await (nthVal vs 2).bits) (.watch c.key c.core r c.regs.pc))
    return .done

/-- SPAWNW (R283) -/
def execSpawnw (record cell trig : Scalar) (s : State) : Host.Outcome State Fault Refusal :=
  issue (.spawnw record cell trig) (spawnWatch record cell trig) s

/-- Check 2 of R284: the core. -/
def sendCore (x : Val) : M Nat := do
  let n ← useClean x
  check (decide (n.toNat < 768)) .illegalOperand
  return n.toNat

/-- One attempt to deliver a record (R284): whether it stands in the inbox. (notes/assumptions/36.md) -/
def tryDeliver (core : Nat) (high : Bool) (r : TaskRec) : M Bool := do
  let s ← get
  match s.redirect core (dieOf s.cur.core) with
  | none => return false
  | some d =>
    if s.inboxRoom d high then
      set (s.putInbox d high r)
      return true
    else return false

/-- SEND and SEND.HI of R284. (notes/assumptions/36.md) -/
def sendTask (high : Bool) (core record : Scalar) : M Flow := do
  checkSrc core
  checkSrc record
  let vs ← readOnce [core, record]
  let n ← sendCore (nthVal vs 0)
  match (← takeRecord 2 (← useClean (nthVal vs 1)) high) with
  | none => return .stall
  | some r =>
    if !(← waitAcks true) then return .stall
    if (← tryDeliver n high r) then return .done else return .park (.inbox n high)

/-- SEND (R284) -/
def execSend (core record : Scalar) (s : State) : Host.Outcome State Fault Refusal :=
  issue (.send core record) (sendTask false core record) s

/-- SEND.HI (R284) -/
def execSendHi (core record : Scalar) (s : State) : Host.Outcome State Fault Refusal :=
  issue (.sendHi core record) (sendTask true core record) s

/-- SEND.NB and SEND.HI.NB of R285. -/
def trySend (kind : Nat) (high : Bool) (d core record : Scalar) : M Flow := do
  check (!(← cur).strict) .nondeterminism
  checkSrc core
  checkSrc record
  checkDst d
  let vs ← readOnce [core, record]
  let n ← sendCore (nthVal vs 0)
  match (← takeRecord 2 (← useClean (nthVal vs 1)) high) with
  | none => return .stall
  | some r =>
    if !(← waitAcks true) then return .stall
    let logged ← replayed kind
    let sent ← match logged with
      | some out => if out.headD 0 = 0 then tryDeliver n high r else pure false
      | none => tryDeliver n high r
    match logged with
    | some out => if out.headD 0 = 0 && !sent then return .stall
    | none => pure ()
    let st : Word := if sent then 0 else 1
    writeScalar d { bits := st }
    logOutcome kind [st]
    markNd
    return .done

/-- SEND.NB (R285) -/
def execSendNb (d core record : Scalar) (s : State) : Host.Outcome State Fault Refusal :=
  issue (.sendNb d core record) (trySend 6 false d core record) s

/-- SEND.HI.NB (R285) -/
def execSendHiNb (d core record : Scalar) (s : State) : Host.Outcome State Fault Refusal :=
  issue (.sendHiNb d core record) (trySend 7 true d core record) s

/-! Channel twins (R286). -/

/-- The port a twin names: bound, of the end and the width it wants (R142). -/
def twinPort (x : Scalar) (sending : Option Bool) (wide : Option Bool) : M (Fin 8 × PortEnd × Channel) := do
  match x with
  | .c p =>
    match (← cur).ports[p] with
    | none => raise .illegalOperand
    | some e =>
      check (sending == none || sending == some e.sending) .illegalOperand
      match (← get).chan? e.chan with
      | none => raise .illegalOperand
      | some ch =>
        check (wide == none || wide == some ch.wide) .channelWidth
        return (p, e, ch)
  | _ => raise .illegalOperand

/-- The items of a channel that have arrived where a twin looks: how many are still under way is not fixed (R83), but an
item that a twin has found present is there until it is taken (R286). (notes/assumptions/3.md) -/
def itemsSeen (ch : Channel) : M Nat := do
  let n ← draw
  let k := max ch.arrived (ch.items.length - Config.inFlight n)
  modify fun s => s.setChan { ch with arrived := k }
  return k

/-- The free slots of a channel that the sender knows of: how many it does not know of yet is not fixed (R83), but a slot that
a twin has found free is free until it is used (R286). (notes/assumptions/3.md) -/
def slotsSeen (ch : Channel) : M Nat := do
  let n ← draw
  let s ← get
  let k := max ch.freed (ch.slots - (ch.items.length + s.heldItems ch) - Config.slotsUnseen n)
  set (s.setChan { ch with freed := k })
  return k

/-- Whether a twin acts: what its channel shows, or in replay what was logged; a logged success waits until it can be
repeated. -/
def twinActs (kind : Nat) (able : M Bool) (now : M Bool) : M Bool := do
  match (← replayed kind) with
  | none => able
  | some out =>
    if out.headD 0 = 1 then
      if (← now) then return true else throw .stall
    else return false

/-- The end of a twin: its status, the log and ND. -/
def endTwin (kind : Nat) (st : Scalar) (x : Word) (more : List Word) : M Flow := do
  writeScalar st { bits := x }
  logOutcome kind (x :: more)
  markNd
  return .done

/-- The words of a vector. -/
def Vec.wordList (v : Vec) : List Word := (List.range 64).map (fun i => v.bits.extractLsb' (64 * i) 64)

/-- An item taken by a receiving twin, if there is one. -/
def twinTake (kind : Nat) (p : Fin 8) (ch : Channel) : M (Option Vec) := do
  if (← twinActs kind (do return decide (0 < (← itemsSeen ch))) (pure (!ch.items.isEmpty))) then
    return some (← takeItem p)
  else return none

/-- CTRYRECV (R286): without an item, only a queue destination receives zero. -/
def execCtryrecv (st port data : Scalar) (s : State) : Host.Outcome State Fault Refusal :=
  issue (.ctryrecv st port data) (do
    check (!(← cur).strict) .nondeterminism
    let (p, _, ch) ← twinPort port (some false) (some false)
    checkDst data
    checkDst st
    match (← twinTake 1 p ch) with
    | some x =>
      writeScalar data x.toVal
      endTwin 1 st 1 [x.toVal.bits]
    | none =>
      match data with
      | .q _ => writeScalar data { bits := 0 }
      | _ => pure ()
      endTwin 1 st 0 [0]) s

/-- CTRYRECV.V (R286) -/
def execCtryrecvV (st port : Scalar) (data : VSpec) (s : State) : Host.Outcome State Fault Refusal :=
  issue (.ctryrecvV st port data) (do
    check (!(← cur).strict) .nondeterminism
    let (p, _, ch) ← twinPort port (some false) (some true)
    checkVDst data
    checkDst st
    match (← twinTake 3 p ch) with
    | some x =>
      writeVec data x
      endTwin 3 st 1 x.wordList
    | none =>
      match data with
      | .y _ => writeVec data { bits := 0 }
      | _ => pure ()
      endTwin 3 st 0 []) s

/-- A sending twin: the value is read whether or not a slot is free. (notes/assumptions/35.md) -/
def twinSend (kind : Nat) (st : Scalar) (p : Fin 8) (ch : Channel) (x : Vec) : M Flow := do
  let now : M Bool := do return decide (ch.items.length + (← get).heldItems ch < ch.slots)
  if (← twinActs kind (do return decide (0 < (← slotsSeen ch))) now) then
    putItem p x
    endTwin kind st 1 []
  else endTwin kind st 0 []

/-- CTRYSEND (R286) -/
def execCtrysend (st port val : Scalar) (s : State) : Host.Outcome State Fault Refusal :=
  issue (.ctrysend st port val) (do
    check (!(← cur).strict) .nondeterminism
    let (p, _, ch) ← twinPort port (some true) (some false)
    checkDst st
    let v ← readScalar val
    twinSend 2 st p ch v.toItem) s

/-- CTRYSEND.V (R286) (notes/assumptions/35.md) -/
def execCtrysendV (st port : Scalar) (val : VSpec) (s : State) : Host.Outcome State Fault Refusal :=
  issue (.ctrysendV st port val) (do
    check (!(← cur).strict) .nondeterminism
    let (p, _, ch) ← twinPort port (some true) (some true)
    checkVSrc val
    checkDst st
    let v ← readVec val
    twinSend 4 st p ch v) s

/-- CCOUNT (R286): items at a receiving end, free slots at a sending one. -/
def execCcount (d port : Scalar) (s : State) : Host.Outcome State Fault Refusal :=
  issue (.ccount d port) (do
    check (!(← cur).strict) .nondeterminism
    let (_, e, ch) ← twinPort port none none
    checkDst d
    match (← replayed 5) with
    | some out => endTwin 5 d (out.headD 0) []
    | none =>
      let n ← if e.sending then slotsSeen ch else itemsSeen ch
      endTwin 5 d (BitVec.ofNat 64 n) []) s

end Sys2Proof.Machine
end

