-- ==== Sys2Proof/Machine/System.lean ====
section
/-! DEFINITION. The fences and the system instructions: END, YIELD, traps and their return, HALT, system registers, the
legacy window's submission, invalidations and scratchpad marks (spec/11_instructions_engines_tasks_system.md R287 to R303,
spec/07 R154 to R157). -/
namespace Sys2Proof.Machine

/-! Fences (R287 to R290). -/

/-- FENCE: the release half, the delivery of posted faults, the acquire half. -/
def fence (acq rel : Bool) (scope : Fin 4) : M Flow := do
  if rel && scope.val ≠ 0 then
    let c ← cur
    modify fun s => s.drainHeld c.core (Held.ofCtx c.key)
    if !(← cur).outs.all (fun o => o.doneAt scope.val (dieOf c.core)) then return .park (.acks (.fence scope.val))
  deliverPosted
  if acq then acquire
  return .done

/-- FENCE.ACQ (R287, R290) -/
def execFenceAcq (scope : Fin 4) (s : State) : Host.Outcome State Fault Refusal :=
  issue (.fenceAcq scope) (fence true false scope) s

/-- FENCE.REL (R287, R289) -/
def execFenceRel (scope : Fin 4) (s : State) : Host.Outcome State Fault Refusal :=
  issue (.fenceRel scope) (fence false true scope) s

/-- FENCE.FULL (R287, R289, R290) -/
def execFenceFull (scope : Fin 4) (s : State) : Host.Outcome State Fault Refusal :=
  issue (.fenceFull scope) (fence true true scope) s

/-! END and HALT (R292, R296). -/

/-- A context gone, with what it owned (R292, R361): its slot, slice, tiles, tables and bindings, and the sparks waiting for
its tiles; in slot H the handler area is cleared. -/
def State.freeCtx (s : State) (c : Context) : State :=
  let s0 := s.dropCtx c.key
  let s1 := if c.inH then { s0 with spare := s0.spare.clear (c.core * 2 ^ 24 + 0x804000) 256 } else s0
  let s2 := s1.modCore c.core (fun k => { k with sparks := k.sparks.filter (fun x => x.key != some c.key) })
  let crews := (s2.crews.map (fun w => { w with keys := w.keys.filter (fun k => k != c.key) })).filter
    (fun w => !w.started || !w.keys.isEmpty)
  let s3 : State := { s2 with crews := crews, chans := s2.chans.filter (fun ch => crews.any (fun w => w.id == ch.crew)) }
  s3.refreshSuspended

/-- The context's task ends (R292, step 4): its completion is reported, and what it owned is free. -/
def finishTask : M Flow := do
  let c ← cur
  modify fun s => ((s.countEnd c false).freeCtx c).settleLaunch c.launch
  return .ended

/-- The earliest accepted command that is complete with a fault not delivered. -/
def Context.pendingFault (c : Context) : Option (Cmd × FaultInfo) :=
  match c.cmds.find? (fun m => !m.incomplete && m.fault.isSome && !m.delivered) with
  | some m => match m.fault with
    | some f => some (m, f)
    | none => none
  | none => none

/-- Step 2 of R292: every accepted command is complete; the fault of the earliest that has one is delivered. -/
def commandsDone : M Bool := do
  let c ← cur
  if c.cmds.any Cmd.incomplete then return false
  else match c.pendingFault with
    | some (m, f) => throw (.deliver f (.delivered [m.seq]))
    | none => return true

/-- Step 3 of R292: 1 joined into the completion cell, as JOIN.D.REL would. -/
def completionJoin (cell : BitVec 48) : M Unit := do
  let ea : Word := cell.setWidth 64
  let l ← fieldAccess .write (refuseJoin 64) ea
  check (decide (ea.toNat % 8 = 0)) .address ea
  let n := (← cur).nextOut
  joinCell l ea.toNat 64 1 false true
  modCur fun c => { c with endJoin := some n }

/-- The completion join's posted fault: a record of KIND 4, from which no context resumes. -/
def reportCompletionJoin : M Unit := do
  let c ← cur
  match c.posted.find? (fun p => c.endJoin == some p.n) with
  | none => pure ()
  | some p =>
    let r : FaultRec := { id := 0, asid := c.key.asid, ctxid := c.key.ctxid, kind := 4
                          info := { code := p.code, addr := p.va }, pc := c.regs.pc, live := false }
    modify fun s => s.postRecord r

/-- END of R292, and HALT of R296 without the completion join. The join is made once, whatever stops END behind it.
(notes/assumptions/69.md) -/
def endBody (halt : Bool) : M Flow := do
  if (← cur).endJoin.isNone then
    if !(← waitAcks true) then return .park (.acks .all)
    deliverPosted
    if !(← commandsDone) then return .park (.commands ((← cur).cmds.map Cmd.seq))
    let c ← cur
    if halt || decide (c.cell = 0) then
      let f ← finishTask
      if halt then modify fun s => (s.modCore c.core (fun k => { k with drained := true })).wakeSenders
      return f
    completionJoin c.cell
  if !(← waitAcks true) then return .park (.acks .all)
  reportCompletionJoin
  finishTask

/-- END (R292) -/
def execEndTask (s : State) : Host.Outcome State Fault Refusal := issue .endTask (endBody false) s

/-- HALT (R296) -/
def execHalt (s : State) : Host.Outcome State Fault Refusal := issue .halt (endBody true) s

/-! YIELD (R293). -/

/-- YIELD: in slot H nothing but the count (R291). (notes/assumptions/64.md, 69.md) -/
def yieldBody : M Flow := do
  if (← cur).inH then return .done else return .yield

/-- YIELD (R293) -/
def execYield (s : State) : Host.Outcome State Fault Refusal := issue .yield yieldBody s

/-- YIELD16 (R158, R293) -/
def execYield16 (s : State) : Host.Outcome State Fault Refusal := issue .yield16 yieldBody s

/-! Traps, breakpoints and their return (R294, R295). -/

/-- TRAP and BREAKPT: the context stops after the instruction; the record it needs may have to wait (R98). -/
def trapBody (kind : Nat) (arg : Scalar) : M Flow := do
  checkSrc arg
  let s ← get
  if s.recordsFull s.cur.key { code := .illegalInstruction } then throw .stall
  let v ← readScalar arg
  return .trap kind v

/-- TRAP (R294) -/
def execTrap (arg : Scalar) (s : State) : Host.Outcome State Fault Refusal := issue (.trap arg) (trapBody 1 arg) s

/-- BREAKPT (R294) -/
def execBreakpt (arg : Scalar) (s : State) : Host.Outcome State Fault Refusal := issue (.breakpt arg) (trapBody 2 arg) s

/-- A stalled command takes its way again: a copy when a stream is free, a run at once (R133, R192). -/
def Cmd.restart (m : Cmd) : Cmd :=
  if m.state != .stalled then m
  else match m.kind with
    | .lrun .. => { m with state := .started }
    | _ => { m with state := .accepted }

/-- The service of a record ended (R295, R354): its stalled commands go on at their restart points, and a resume record goes
to every context stopped at it. -/
def State.endService (s : State) (r : FaultRec) (after : Bool) : State :=
  let s1 := r.engines.foldl (fun s e => s.modCtx e.1 (fun c => { c with cmds := c.cmds.map (fun m =>
    if m.seq = e.2 then m.restart else m) })) s
  { s1 with
    records := s1.records.map (fun x => if x.id = r.id then { x with live := false } else x)
    resumes := s1.resumes ++ r.attached.map (fun k => (k, after)) }

/-- ERET of R295. Where two live records stand at the place, that the older one is ended is the model's choice
(notes/assumptions/16.md). -/
def eretBody (record act : Scalar) : M Flow := do
  checkSrc record
  checkSrc act
  let ea ← readClean record
  let a ← readClean act
  check (decide (wbits a 1 63 = 0)) .illegalOperand
  check (decide (ea.toNat % 8 = 0)) .address ea
  let c ← cur
  let key ← match windowOf ea.toNat with
    | .global => do
      match (← tryTranslate c.core c.asid c.sys .read ea.toNat) with
      | .ok l => pure (if l.remote then none else some (l.key ea.toNat))
      | .error _ => pure none
    | _ => pure none
  match (← get).records.find? (fun r => r.live && r.at_.isSome && r.at_ == key) with
  | none => raise .illegalOperand
  | some r =>
    check (!(a.getLsbD 0 && decide (r.kind ≠ 1) && decide (r.kind ≠ 2))) .illegalOperand
    modify fun s => s.endService r (a.getLsbD 0)
    return .done

/-- ERET (R295) -/
def execEret (record act : Scalar) (s : State) : Host.Outcome State Fault Refusal :=
  issue (.eret record act) (eretBody record act) s

/-! System registers (R154 to R157, R297). -/

/-- What CYCLE, or else CORE, reads. -/
def liveReading (cycle : Bool) : M Word := do
  let c ← cur
  if cycle then return Config.cycle (← draw) + c.cycleOff else return c.sysWord 4

/-- SYSRD of R297; CYCLE is a free value (notes/assumptions/3.md). -/
def sysrdBody (d : Scalar) (reg : Fin 64) : M Flow := do
  if reg.val = 3 || reg.val = 4 then
    check (!(← cur).strict) .nondeterminism
    checkDst d
    let kind := if reg.val = 3 then 8 else 9
    let x ← match (← replayed kind) with
      | some out => pure (out.headD 0)
      | none => liveReading (reg.val = 3)
    writeScalar d { bits := x }
    logOutcome kind [x]
    markNd
    return .done
  else
    checkDst d
    writeScalar d { bits := (← cur).sysWord reg.val }
    return .done

/-- SYSRD (R297) -/
def execSysrd (d : Scalar) (reg : Fin 64) (s : State) : Host.Outcome State Fault Refusal :=
  issue (.sysrd d reg) (sysrdBody d reg) s

/-- The registers a SYSWR changes by storing the value: MODE, SEED, the stack registers of a system context, and the four
queue registers (R154). -/
def storesWord (sys : Bool) (n : Nat) : Bool :=
  n == 1 || n == 2 || (sys && (n == 7 || n == 8)) || (decide (16 ≤ n) && decide (n ≤ 19))

/-- Check 2 of R303: the length of an operation of the legacy window. -/
def legacyLenOk (op len : Nat) : Bool :=
  match op with
  | 1 => decide (len ≠ 0)
  | 2 => decide (len ≠ 0) && decide (len % 128 = 0)
  | _ => decide (len = 0)

/-- CMDGO with GO = 1 (R303): the checks, the release, and the command passed to the command processor. -/
def submitLegacy : M Flow := do
  let c ← cur
  let op := wbits c.cmdq[0] 0 8
  let src := BitVec.ofNat 48 (wbits c.cmdq[1] 0 48)
  let dst := BitVec.ofNat 48 (wbits c.cmdq[2] 0 48)
  let len := wbits c.cmdq[3] 0 32
  check (decide (1 ≤ op) && decide (op ≤ 3)) .illegalOperand
  check (legacyLenOk op len) .illegalOperand
  check (!(op == 3 && decide (768 ≤ dst.toNat))) .illegalOperand
  check (!(op == 2 && (decide (src.toNat % 128 ≠ 0) || decide (dst.toNat % 128 ≠ 0)))) .illegalOperand
  if !(← waitAcks true) then return .stall
  let l : Legacy := { k := c.key, core := c.core, sys := c.sys, op := op, src := src, dst := dst, len := len
                      cell := BitVec.ofNat 48 (wbits c.cmdq[0] 16 48), pc := c.regs.pc, launch := c.launch
                      key := mixKey c.taskKey c.regs.icount, born := c.born }
  modify fun s => { s with legacy := s.legacy ++ [l] }
  return .done

/-- SYSWR of R297. -/
def syswrBody (reg : Fin 64) (a : Scalar) : M Flow := do
  checkSrc a
  let vs ← readOnce [a]
  let x ← useClean (nthVal vs 0)
  check (decide (x &&& reservedBits reg.val = 0)) .illegalOperand
  let c ← cur
  if reg.val = 0 then
    modRegs fun r => { r with status := r.status &&& ~~~ (x &&& 0x1F) }
    return .done
  else if reg.val = 20 then
    if x.getLsbD 0 then submitLegacy else return .done
  else
    check (!(reg.val = 1 && decide (6 ≤ wbits x 1 3))) .illegalOperand
    check (!(reg.val = 8 && c.sys && decide (0x1E00000 < x.toNat))) .illegalOperand
    if storesWord c.sys reg.val then modCur fun c => c.setSysWord reg.val x
    return .done

/-- SYSWR (R297, R302, R303) -/
def execSyswr (reg : Fin 64) (a : Scalar) (s : State) : Host.Outcome State Fault Refusal :=
  issue (.syswr reg a) (syswrBody reg a) s

/-! TLBINV and L1INV (R298, R299). -/

/-- The checks of R298, and the range. -/
def invalOperands (asid addr len : Scalar) : M (BitVec 12 × Nat × Nat) := do
  checkSrc asid
  checkSrc addr
  checkSrc len
  let vs ← readOnce [asid, addr, len]
  let a ← useClean (nthVal vs 0)
  let ea ← useClean (nthVal vs 1)
  let n ← useClean (nthVal vs 2)
  check (decide (wbits a 12 52 = 0) && decide (wbits n 0 12 = 0)) .illegalOperand
  check (decide (n = 0) || (decide (wbits ea 0 12 = 0) && rangeOk ea.toNat n.toNat)) .address ea
  return (a.setWidth 12, ea.toNat, n.toNat)

/-- TLBINV of R298: it begins once the context's stores are acknowledged, and completes under R99. -/
def tlbinvBody (asid addr len : Scalar) : M Flow := do
  let (a, lo, size) ← invalOperands asid addr len
  if (← cur).phase = 0 then
    if (← cur).outs.any (fun o => o.store) then return .stall
    modify fun s => s.startInval (some s.cur.key) a lo size
    modCur fun c => { c with phase := 1 }
  let s ← get
  if s.invals.any (fun v => v.by_ == some s.cur.key) then return .stall else return .done

/-- TLBINV (R298) -/
def execTlbinv (asid addr len : Scalar) (s : State) : Host.Outcome State Fault Refusal :=
  issue (.tlbinv asid addr len) (tlbinvBody asid addr len) s

/-- L1INV (R299) (notes/assumptions/67.md) -/
def execL1inv (asid addr len : Scalar) (s : State) : Host.Outcome State Fault Refusal :=
  issue (.l1inv asid addr len) (do
    let (a, lo, size) ← invalOperands asid addr len
    modify fun s => s.l1inv a lo size
    return .done) s

/-! SPMARK (R300). -/

/-- SPMARK: the lines of a slice range marked kept or discarded (R122). -/
def spmarkBody (discard : Bool) (off len : Scalar) : M Flow := do
  checkSrc off
  checkSrc len
  let vs ← readOnce [off, len]
  let o ← useClean (nthVal vs 0)
  let n ← useClean (nthVal vs 1)
  check (decide (wbits o 0 7 = 0) && decide (wbits n 0 7 = 0) && decide (n ≠ 0) && decide (wbits o 21 43 = 0))
    .illegalOperand
  let s ← get
  let c := s.cur
  let va := BitVec.ofNat 64 (windowBase + o.toNat)
  check (c.sliceFits o.toNat n.toNat) .scratchBound va
  check (!s.touchesArea c o.toNat n.toNat) .illegalOperand
  if s.storeWaits c o.toNat n.toNat then return .stall
  let ls := linesOf o.toNat n.toNat
  if discard then
    modCur fun c => { c with discLines := c.discLines.filter (fun l => !ls.contains l) ++ ls }
  else
    modify fun s => (ls.filter (fun l => c.discLines.contains l)).foldl (fun s l => s.sliceClear s.cur (128 * l) 128) s
    modCur fun c => { c with discLines := c.discLines.filter (fun l => !ls.contains l) }
  return .done

/-- SPMARK KEEP (R300) -/
def execSpmarkKeep (off len : Scalar) (s : State) : Host.Outcome State Fault Refusal :=
  issue (.spmarkKeep off len) (spmarkBody false off len) s

/-- SPMARK DISCARD (R300) -/
def execSpmarkDiscard (off len : Scalar) (s : State) : Host.Outcome State Fault Refusal :=
  issue (.spmarkDiscard off len) (spmarkBody true off len) s

end Sys2Proof.Machine
end

