-- ==== Sys2Proof/Machine/Net.lean ====
section
/-! DEFINITION. The mesh, the ring, the gateways and the links: how a message moves, what a gateway answers, and how a
response goes back (spec/05_caches_mesh_and_links.md R106 to R120, spec/11 R288, R289, spec/13 R335). -/
namespace Sys2Proof.Machine

/-! Places and routes (R112, R113, R118, R119). -/

/-- The router at which a node attaches: base die, column and row (R112). The places of the CXL port and of a gateway's row
are the model's (notes/assumptions/12.md). -/
def Node.place : Node → Nat × Nat × Nat
  | .core c => (c / 192, c % 192 / 4 % 8, c % 192 / 4 / 8)
  | .die m p => (m / 2, p + 4 * (m % 2), 6)
  | .cxl => (0, 0, 0)
  | .gate g => (g / 2, if g % 2 = 0 then 0 else 7, 0)
  | .remote _ _ => (0, 0, 0)

/-- One step of a coordinate towards another. -/
def towards (x t : Nat) : Nat := if x < t then x + 1 else if t < x then x - 1 else x

/-- The base die a scale-out link attaches to (R118): links 0 to 5 are +x, -x, +y, -y, +z, -z of a, 6 to 11 those of b. -/
def linkDie (l : Nat) : Nat := (if l < 6 then 0 else 2) + (if l % 6 < 3 then 0 else 1)

/-- The link of a direction that is up: the one PA[7] names, else the other (R118, R120). -/
def State.linkOf (s : State) (dir : Nat) (pa : Nat) : Option Nat :=
  let a := dir + (if bitsOf pa 7 1 = 0 then 0 else 6)
  let b := dir + (if bitsOf pa 7 1 = 0 then 6 else 0)
  if s.linkUp (Fin.ofNat 12 a) then some a else if s.linkUp (Fin.ofNat 12 b) then some b else none

/-- The size of the ring of a dimension. -/
def State.ring (s : State) (k : Nat) : Nat := s.rings[Fin.ofNat 3 k]

/-- Whether the way from a coordinate to another of a dimension is the positive one: the shorter way round, or either on a
tie (R119). -/
def State.positive (s : State) (k a b : Nat) : Bool := decide (2 * ((b + s.ring k - a) % s.ring k) ≤ s.ring k)

/-- The link on which a message leaves for another package: x, then y, then z, the shorter way round, the positive one on a
tie; the other way when both links of a direction are down (R119, R120). -/
def State.linkFor (s : State) (pkg pa : Nat) : Option Nat :=
  match s.ownId with
  | none => none
  | some own =>
    match dimsBetween own.toNat pkg with
    | [] => none
    | k :: _ =>
      let up := s.positive k (bitsOf own.toNat (4 * k) 4) (bitsOf pkg (4 * k) 4)
      match s.linkOf (2 * k + (if up then 0 else 1)) pa with
      | some l => some l
      | none => s.linkOf (2 * k + (if up then 1 else 0)) pa

/-- The link by which a message that goes round a dimension's ring in a direction comes in from the last package before this one
(R118, R120). -/
def State.linkInto (s : State) (k : Nat) (up : Bool) (pa : Nat) : Option Nat := s.linkOf (2 * k + (if up then 1 else 0)) pa

/-- The dimension and direction in which a message at a package goes on to another one: the first dimension in which it is not
there yet, on the way round it is on already, else on the shorter one (R119). None at its destination. -/
def State.heading (s : State) (way : Option (Nat × Bool)) (a b : Nat) : Option (Nat × Bool) :=
  (dimsBetween a b).head?.map (fun k =>
    let short := s.positive k (bitsOf a (4 * k) 4) (bitsOf b (4 * k) 4)
    match way with
    | some (j, up) => (k, if j = k then up else short)
    | none => (k, short))

/-- The next package round a dimension's ring in a direction, and whether the hop crosses the ring's dateline, between the last
coordinate and 0 (R119). -/
def State.neighbour (s : State) (a k : Nat) (up : Bool) : Nat × Bool :=
  let x := bitsOf a (4 * k) 4
  let n := s.ring k
  let y := if up then (if x + 1 < n then x + 1 else 0) else (if x = 0 then n - 1 else x - 1)
  (a - x * 2 ^ (4 * k) + y * 2 ^ (4 * k), if up then decide (y = 0) else decide (x = 0))

/-- The virtual channel of a message (R114): its class, 0 requests, 1 responses and 2 invalidations, and whether it has
crossed the dateline of the ring it is on. -/
def Msg.channel (m : Msg) : Nat × Bool :=
  (match m.body with
    | .ack .. | .data .. | .result .. => 1
    | .inval .. => 2
    | _ => 0, m.dateline)

/-- The line address of a request, as a key of `mem`; responses have none. -/
def Body.key : Body → Nat
  | .join j => j.cell
  | .fill line .. => 128 * line
  | .freeze line .. => 128 * line
  | .store pa .. => pa
  | .load line _ _ => 128 * line
  | .exact line .. => 128 * line
  | .test cell .. => cell
  | _ => 0

/-- A request (R114). -/
def Body.isRequest : Body → Bool
  | .join _ | .fill .. | .freeze .. | .store .. | .load .. | .exact .. | .test .. => true
  | _ => false

/-- A request that a gateway may answer (R109). -/
def Body.isRead : Body → Bool
  | .load .. | .exact .. | .test .. => true
  | _ => false

/-- A response (R114). -/
def Body.isResponse : Body → Bool
  | .ack .. | .data .. | .result .. => true
  | _ => false

/-! Messages in the state. -/

/-- A message by its number. -/
def State.msg? (s : State) (id : Nat) : Option Msg := s.msgs.find? (fun m => m.id == id)

/-- A message gone. -/
def State.dropMsg (s : State) (id : Nat) : State := { s with msgs := s.msgs.filter (fun m => m.id != id) }

/-- A message changed. -/
def State.putMsg (s : State) (m : Msg) : State := { s with msgs := s.msgs.map (fun x => if x.id = m.id then m else x) }

/-- The core of whoever a response goes to; none if it is gone. -/
def State.coreOf (s : State) (w : Who) : Option Nat :=
  match w with
  | .ctx k _ => (s.ctx? k).map (fun c => c.core)
  | .copy k _ _ => (s.ctx? k).map (fun c => c.core)
  | .watch _ core _ _ => some core

/-- A response sent to whoever asked; nothing is sent to one that is gone (R361). `loc` is where it starts, `key` what it is
about. -/
def State.respond (s : State) (src : Node) (loc : Loc) (w : Who) (asid : BitVec 12) (va : Word) (gen : BitVec 8)
    (b : Body) (snap : Option LineSnap) (key : Nat := 0) : State :=
  match s.coreOf w with
  | none => s
  | some c => s.send { id := 0, src := src, dst := .core c, body := b, loc := loc, asid := asid, va := va, gen := gen,
                       snap := snap, pa := key % 2 ^ 52 }

/-- Where a response of a home starts: in its package. -/
def homeLoc : Node → Loc
  | .remote p _ => .package p
  | _ => .source

/-- A message that cannot be delivered fails its access (R120, R347): its issuer receives the code as it would a reply. -/
def State.failMsg (s : State) (m : Msg) (code : FaultCode) : State :=
  let s1 := s.dropMsg m.id
  match m.body with
  | .load _ _ w => s1.respond m.src .arrived w m.asid m.va m.gen (.data w (some code)) none
  | .exact _ _ w => s1.respond m.src .arrived w m.asid m.va m.gen (.data w (some code)) none
  | .test _ _ _ _ w => s1.respond m.src .arrived w m.asid m.va m.gen (.result w (.lost code)) none
  | b => b.tags.foldl (fun s t => s.respond m.src .arrived t.who m.asid t.va m.gen (.ack t (some code)) none) s1

/-- What is left of an answer that cannot reach its issuer: HOME_LOST. -/
def Body.lost : Body → Body
  | .ack t _ => .ack t (some .homeLost)
  | .data w _ => .data w (some .homeLost)
  | .result w _ => .result w (.lost .homeLost)
  | b => b

/-- An answer that cannot be delivered: its access fails with HOME_LOST (R120, R374). -/
def State.loseAnswer (s : State) (m : Msg) : State :=
  s.putMsg { m with body := m.body.lost, loc := .arrived, snap := none, behind := [], fails := 0 }

/-- What has passed a die-to-die port or a link counts as done at the narrower scopes (R289); the contexts that wait for it
look again. -/
def State.markPassed (s : State) (b : Body) (link : Bool) : State :=
  let ks := b.tags.filterMap (fun t => match t.who with
    | .ctx k n => some (k, n)
    | _ => none)
  if ks.isEmpty then s
  else (ks.foldl (fun s o => s.modCtx o.1 (fun c => { c with outs := c.outs.map (fun x =>
      if x.n = o.2 then (if link then { x with passedPkg := true } else { x with passedDie := true }) else x) })) s).wakeAcks

/-- A message crosses the edge of a die (R113): into the gateway of the core it answers, or onto the router it enters at. -/
def crossEdge (m : Msg) (bd y : Nat) (east : Bool) : Msg :=
  let next := if east then (bd + 1) % 4 else (bd + 3) % 4
  let wrap := if east then decide (bd = 3) else decide (bd = 0)
  let m1 := { m with dateline := m.dateline || wrap }
  let home := match m.dst with
    | .core c => m.body.isResponse && decide (c / 192 = next)
    | _ => false
  if home then { m1 with loc := .gate (gateAt next (!east)) }
  else { m1 with loc := .router next (if east then 0 else 7) y }

/-- One hop of a message from a router (R113, R118); none where no way is left. -/
def State.hop (s : State) (m : Msg) (bd x y : Nat) : Option Msg :=
  let link := match m.dst with
    | .remote p _ => s.linkFor p (m.body.key % 2 ^ 52)
    | _ => none
  let unreachable := match m.dst with
    | .remote _ _ => link.isNone
    | _ => false
  let t := match link with
    | some l => (linkDie l, x, y)
    | none => m.dst.place
  if unreachable then none
  else if bd ≠ t.1 then
    match ringEast s.deadEdges bd t.1 with
    | none => none
    | some east =>
      let col := if east then 7 else 0
      if x ≠ col then some { m with loc := .router bd (towards x col) y }
      else
        let own := match m.src with
          | .core c => m.body.isRequest && decide (c / 192 = bd)
          | _ => false
        if own then some { m with loc := .gate (gateAt bd east) } else some (crossEdge m bd y east)
  else match link with
    | some l => some { m with loc := .link l, dateline := false }
    | none =>
      if x ≠ t.2.1 then some { m with loc := .router bd (towards x t.2.1) y }
      else match m.dst with
        | .gate g => some { m with loc := .gate g }
        | _ => if y ≠ t.2.2 then some { m with loc := .router bd x (towards y t.2.2) } else some { m with loc := .arrived }

/-- A hop made: what the hop passes is marked. -/
def State.moveTo (s : State) (m : Msg) : State :=
  let s1 := s.putMsg m
  match m.loc with
  | .gate _ => if m.body.isRequest then s1.markPassed m.body false else s1
  | .link _ => s1.markPassed m.body true
  | _ => s1

/-- The message hops from a router, or, where it cannot, its access fails with HOME_LOST: a request, and an answer that cannot
reach its issuer (R120, R374). An invalidation for a gateway of the lost group does not hold up what waits for it: the gateway
counts as having it (notes/assumptions/55.md). -/
def State.forward (s : State) (m : Msg) (bd x y : Nat) : State :=
  match s.hop m bd x y with
  | some m1 => s.moveTo m1
  | none =>
    if m.body.isRequest then s.failMsg m .homeLost
    else if m.body.isResponse then s.loseAnswer m
    else match m.body with
      | .inval _ g => s.putMsg { m with loc := .gate g }
      | _ => s.dropMsg m.id

/-- The joins held in a router's combining buffer. -/
def State.buffered (s : State) (bd x y : Nat) : List Msg := s.msgs.filter (fun m => m.loc == .buffer bd x y)

/-- A join enters a router's combining buffer, merged with one of its cell if there is one (R116); at a full buffer it
stays where it is. -/
def State.enterBuffer (s : State) (m : Msg) (j : JoinReq) (bd x y : Nat) : State :=
  let inBuf := s.buffered bd x y
  let other := inBuf.find? (fun o => match o.body with
    | .join k => k.mayMerge j && o.bad == m.bad
    | _ => false)
  match other with
  | some o => match o.body with
    | .join k =>
      let merged := { o with id := min o.id m.id, body := .join (k.merge j), cnt := o.cnt || m.cnt
                             dateline := o.dateline || m.dateline }
      { s with msgs := (s.msgs.filter (fun z => z.id != m.id)).map (fun z => if z.id = o.id then merged else z) }
    | _ => s
  | none => if inBuf.length < 32 then s.putMsg { m with loc := .buffer bd x y } else s

/-- A join that waits at a package in between merges with another one that does (R116, R119). -/
def State.mergeAway (s : State) (m : Msg) (j : JoinReq) (p : Nat) : State :=
  match s.msgs.find? (fun o => o.id != m.id && o.loc == .package p && o.dst == m.dst && o.way == m.way && (match o.body with
    | .join k => k.mayMerge j && o.bad == m.bad
    | _ => false)) with
  | some o => match o.body with
    | .join k =>
      let merged := { o with body := .join (k.merge j), cnt := o.cnt || m.cnt, dateline := o.dateline || m.dateline }
      (s.dropMsg m.id).putMsg merged
    | _ => s
  | none => s

/-- The fault of a request to a memory die of this package whose page or home is lost to its source. -/
def State.lostAhead (s : State) (m : Msg) : Option FaultCode :=
  match m.dst with
  | .die _ _ => if m.body.isRequest then s.lostCode m.body.key m.src.place.1 else none
  | _ => none

/-- Where a message stands once it has left its source (R112); a request whose page or home is lost fails at once. -/
def State.enterMesh (s : State) (m : Msg) : State :=
  match s.lostAhead m with
  | some code => s.failMsg m code
  | none =>
    let p := m.src.place
    s.putMsg { m with loc := .router p.1 p.2.1 p.2.2 }

/-- A message goes on from a gateway: a request across the edge, a response into the die. -/
def State.leaveGate (s : State) (m : Msg) (g : Nat) : State :=
  let y := m.src.place.2.2
  if m.body.isRequest then s.putMsg (crossEdge m (g / 2) y (decide (g % 2 = 1)))
  else s.putMsg { m with loc := .router (g / 2) (if g % 2 = 0 then 0 else 7) y }

/-- A private store updates a PRIVATE replica of its line at the gateway in place (R111). -/
def State.storeThrough (s : State) (m : Msg) (g : Nat) : State :=
  match m.body with
  | .store pa n data marks _ =>
    { s with replicas := s.replicas.map (fun r =>
        if r.gate = g && r.snap.ty = 0 && r.snap.line = pa / 128 then
          { r with snap := r.snap.put (pa % 128) n data.toNat marks.toNat }
        else r) }
  | _ => s

/-- ROUTER_FORWARD (R113): one hop of a message. With its output channel busy a join waits in the router's combining buffer
(R116), and any other message where it is; in a package in between it may merge with another join that waits there (R119).
`channelBusy` says that the output has no room on the message's own virtual channel, `Msg.channel` (R114). -/
def routerForward (m : Nat) (channelBusy : Bool) (s : State) : State :=
  match s.msg? m with
  | none => s
  | some x =>
    match x.loc with
    | .source => s.enterMesh x
    | .router bd cx cy =>
      if channelBusy then
        match x.body with
        | .join j => s.enterBuffer x j bd cx cy
        | _ => s
      else s.forward x bd cx cy
    | .gate g =>
      if x.body.isRequest && !x.body.isRead then (s.storeThrough x g).leaveGate x g else s
    | .package p =>
      if channelBusy then
        match x.body with
        | .join j => s.mergeAway x j p
        | _ => s
      else s
    | _ => s

/-- ROUTER_FORWARD (R113) -/
def execRouterForward (m : Nat) (channelBusy : Bool) (s : State) : Host.Outcome State Fault Refusal :=
  event (routerForward m channelBusy) s

/-- COMBINED_JOIN_DEPART (R116): the channel is free, and the join leaves the buffer. -/
def combinedJoinDepart (m : Nat) (s : State) : State :=
  match s.msg? m with
  | none => s
  | some x =>
    match x.loc with
    | .buffer bd cx cy => s.forward x bd cx cy
    | _ => s

/-- COMBINED_JOIN_DEPART (R116) -/
def execCombinedJoinDepart (m : Nat) (s : State) : Host.Outcome State Fault Refusal := event (combinedJoinDepart m) s

/-- HELD_JOIN_TIMEOUT (R288): the i-th join held in a core's combining buffer leaves. -/
def heldJoinTimeout (core i : Nat) (s : State) : State :=
  match (s.core core).hold[i]? with
  | none => s
  | some h => s.drainHeld core (fun x => x == h)

/-- HELD_JOIN_TIMEOUT (R288) -/
def execHeldJoinTimeout (core i : Nat) (s : State) : Host.Outcome State Fault Refusal := event (heldJoinTimeout core i) s

/-! Gateways (R109 to R111). -/

/-- What a replica answers to a read-class request (R109, R110): only "passed", and only FILLED, FROZEN or PRIVATE bytes.
(notes/assumptions/7.md) -/
def Replica.answer (r : Replica) (b : Body) : Option Body :=
  match b with
  | .test cell _ _ k w => match r.snap.test cell k with
    | some (.passed i first) => some (.result w (.passed i first))
    | _ => none
  | .exact _ _ w =>
    if decide (1 ≤ r.snap.ty) && !mdPoison r.snap.md && decide (1 ≤ mdState r.snap.md) then some (.data w none) else none
  | .load _ ty w => if r.snap.ty = 0 && ty = 0 then some (.data w none) else none
  | _ => none

/-- REPLICA_TEST (R110): a test or read at a gateway is answered there or goes on to its home. -/
def replicaTest (m : Nat) (s : State) : State :=
  match s.msg? m with
  | none => s
  | some x =>
    match x.loc with
    | .gate g =>
      if !x.body.isRead then s
      else match s.replica? g (x.body.key / 128) with
        | none => s.leaveGate x g
        | some r =>
          let (kept, s1) := s.chooseNow
          if !kept || !s.replicaGood r x.gen then
            (s1.dropReplica g r.snap.line).leaveGate x g
          else match r.answer x.body, (match x.body with
              | .test _ _ _ _ w => some w
              | .exact _ _ w => some w
              | .load _ _ w => some w
              | _ => none) with
            | some b, some w =>
              ((s1.nameReplica g r.snap.line (x.asid, x.va.toNat / 128)).dropMsg x.id).respond (.gate g) .source w x.asid
                x.va x.gen b (some r.snap)
            | _, _ => s1.leaveGate x g
    | _ => s

/-- REPLICA_TEST (R110) -/
def execReplicaTest (m : Nat) (s : State) : Host.Outcome State Fault Refusal := event (replicaTest m) s

/-- The replica that a response leaves at the gateway it passes (R109): a response to a read makes one, any other refreshes
one that is there. One that has been overtaken leaves none. -/
def State.refresh (s : State) (g : Nat) (m : Msg) (x : LineSnap) : State :=
  let makes := match m.body with
    | .data _ none => true
    | .result _ _ => true
    | _ => false
  if m.stale then s else s.refreshBy g x m.gen (m.asid, m.va.toNat / 128) makes

/-- GATEWAY_RESPONSE_PASS (R109) -/
def gatewayResponsePass (m : Nat) (s : State) : State :=
  match s.msg? m with
  | none => s
  | some x =>
    match x.loc with
    | .gate g =>
      if !x.body.isResponse then s
      else match x.snap with
        | some y => if y.ty = 11 then s.leaveGate x g else (s.refresh g x y).leaveGate x g
        | none => s.leaveGate x g
    | _ => s

/-- GATEWAY_RESPONSE_PASS (R109) -/
def execGatewayResponsePass (m : Nat) (s : State) : Host.Outcome State Fault Refusal := event (gatewayResponsePass m) s

/-! Links (R118 to R120). -/

/-- A message on its way between packages one hop on: its way round the ring, and its virtual channel there (R119). -/
def State.hopPackage (s : State) (m : Msg) (at_ dest k : Nat) (up : Bool) : Msg :=
  let r := s.neighbour at_ k up
  let same := (dimsBetween r.1 dest).head? == some k
  { m with
    loc := .package r.1
    fails := 0
    way := some (k, up)
    turned := m.turned && same
    dateline := same && (m.dateline || r.2) }

/-- A response on the last hop to this package: it comes in by a link of its direction, at router (0, 0) of the link's base
die, since the spec gives no router to which a link attaches (notes/assumptions/12.md). Where both links are down it turns and
goes the opposite way round the ring, and where that has brought it here its access fails with HOME_LOST (R120). -/
def State.comeIn (s : State) (m : Msg) (k : Nat) (up : Bool) : State :=
  match s.linkInto k up m.pa with
  | some l => s.putMsg { m with loc := .router (linkDie l) 0 0, fails := 0, dateline := false, way := none, turned := false }
  | none =>
    if m.turned then s.loseAnswer m
    else s.putMsg { m with fails := 0, dateline := false, way := some (k, !up), turned := true }

/-- The link of this package over which a message from another one is coming in. -/
def State.inLink (s : State) (m : Msg) : Option Nat :=
  match m.dst, m.loc, s.ownId with
  | .remote _ _, _, _ => none
  | _, .package q, some own => match s.heading m.way q own.toNat with
    | some (k, up) => if (s.neighbour q k up).1 = own.toNat then s.linkInto k up m.pa else none
    | none => none
  | _, _, _ => none

/-- A flit is on a link of this package, on its way out or in. -/
def State.onLink (s : State) (l : Nat) (m : Msg) : Bool := m.loc == .link l || s.inLink m == some l

/-- A flit received (R118, R119): a request at the far package of its link, a message at the next package on its way, which is
its home, passes it on or is this one. -/
def State.flitArrives (s : State) (m : Msg) : State :=
  let arrived (m : Msg) : Msg := { m with loc := .arrived, fails := 0, dateline := false, way := none, turned := false }
  match m.dst, m.loc with
  | .remote p _, .link l =>
    let (k, up) := (l % 6 / 2, decide (l % 2 = 0))
    let far := match s.links[Fin.ofNat 12 l].farId with
      | some id => id.toNat
      | none => p
    let crosses := match s.ownId with
      | some own => (s.neighbour own.toNat k up).2
      | none => false
    if far = p then s.putMsg (arrived m)
    else s.putMsg { m with loc := .package far, fails := 0, way := some (k, up), turned := false
                           dateline := crosses && (dimsBetween far p).head? == some k }
  | .remote p _, .package q =>
    match s.heading m.way q p with
    | some (k, up) => if (s.neighbour q k up).1 = p then s.putMsg (arrived m) else s.putMsg (s.hopPackage m q p k up)
    | none => s.putMsg (arrived m)
  | _, .package q =>
    match s.ownId with
    | none => s
    | some own => match s.heading m.way q own.toNat with
      | some (k, up) =>
        if (s.neighbour q k up).1 = own.toNat then s.comeIn m k up else s.putMsg (s.hopPackage m q own.toNat k up)
      | none => s
  | _, _ => s

/-- FLIT_RECEIVE (R120): a flit whose CRC is right is taken, once; one whose CRC is wrong is sent again. -/
def flitReceive (m : Nat) (crcOk : Bool) (s : State) : State :=
  match s.msg? m with
  | none => s
  | some x =>
    let onLink := match x.loc with
      | .link _ => true
      | .package _ => true
      | _ => false
    if !onLink then s
    else if crcOk then s.flitArrives x
    else s.putMsg { x with fails := x.fails + 1 }

/-- FLIT_RECEIVE (R120) -/
def execFlitReceive (m : Nat) (crcOk : Bool) (s : State) : Host.Outcome State Fault Refusal := event (flitReceive m crcOk) s

/-- A link down: what it holds is routed again (R120), and what the far end holds for it is sent again from there. The spec does
not name the router where it enters the mesh again: that it is (0, 0) of the link's base die is the model's choice
(notes/assumptions/12.md). -/
def State.linkFails (s : State) (l : Fin 12) : State :=
  { s with
    links := s.links.set l { s.links[l] with up := false }
    msgs := s.msgs.map (fun m => if m.loc == .link l.val then { m with loc := .router (linkDie l.val) 0 0, fails := 0 }
      else if s.inLink m == some l.val then { m with fails := 0 } else m) }

/-- LINK_DOWN (R120): after 16 failed sends of a flit, whichever way it goes. -/
def linkDown (l : Fin 12) (s : State) : State :=
  if s.msgs.any (fun m => s.onLink l.val m && decide (16 ≤ m.fails)) then s.linkFails l else s

/-- LINK_DOWN (R120) -/
def execLinkDown (l : Fin 12) (s : State) : Host.Outcome State Fault Refusal := event (linkDown l) s

end Sys2Proof.Machine
end

