-- ==== Sys2Proof/Machine/Home.lean ====
section
/-! DEFINITION. Homes: joins, fills, freezes, tests, stores and reads performed, watches, access counting, and what comes
back to issuers (spec/03_field_memory.md R60 to R79, spec/04 R101 to R105, spec/05 R111, R117, spec/13 R335,
spec/14 R347). -/
namespace Sys2Proof.Machine

/-! Access counting (R101 to R103). -/

/-- A request that has reached its home is counted when its translation has CNT = 1 (R101, R102). -/
def State.countAccess (s : State) (m : Msg) : State := s.countAt m.cnt m.body.key m.va m.asid

/-- ACCESS_COUNTER_HALVING (R101) -/
def execAccessCounterHalving (s : State) : Host.Outcome State Fault Refusal :=
  event (fun s => { s with counters := (s.counters.map (fun c => (c.1, c.2 / 2))).filter (fun c => c.2 != 0) }) s

/-! Watches (R67). -/

/-- WATCHED of a line set to whether a watch is held on it. -/
def State.markWatched (s : State) (line : Nat) : State :=
  let md := s.md.read line
  let held := s.watches.any (fun w => w.cell / 128 == line)
  { s with md := s.md.write line (mdOf held (mdWidth md) (mdPoison md) (mdState md)) }

/-- The watches that `p` picks gone; WATCHED of their lines follows (R63). -/
def State.endWatches (s : State) (p : Watch → Bool) : State :=
  ((s.watches.filter p).map (fun w => w.cell / 128)).foldl State.markWatched { s with watches := s.watches.filter (fun w => !p w) }

/-- The watches of those whom `p` picks gone. -/
def State.dropWatches (s : State) (p : Who → Bool) : State := s.endWatches (fun w => p w.who)

/-- The tests of those whom `p` picks gone: watches, tests on their way and results on their way. -/
def State.dropTests (s : State) (p : Who → Bool) : State :=
  { s with msgs := s.msgs.filter (fun m => match m.body with
      | .test _ _ _ _ w => !p w
      | .result w _ => !p w
      | _ => true) }.dropWatches p

/-- A watch on a line tested again: retired with its outcome, or held on. -/
def State.retestOne (s : State) (w : Watch) : State :=
  match s.testLine w.cell w.ty w.kind with
  | none => s
  | some r =>
    let s1 := { s with watches := s.watches.filter (fun x => !(x == w)) }
    s1.respond w.home (homeLoc w.home) w.who w.asid w.va w.gen (.result w.who r) (some (s.snap (w.cell / 128) w.ty)) w.cell

/-- After a join, fill, poisoning or freeze of a line every watch on it is tested (R67). -/
def State.retest (s : State) (line : Nat) : State :=
  let ws := s.watches.filter (fun w => w.cell / 128 == line)
  if ws.isEmpty then s else (ws.foldl State.retestOne s).markWatched line

/-! What a home performs. -/

/-- A migration no longer forwards a line that is written anew (R105). -/
def State.endForward (s : State) (line : Nat) : State :=
  if s.forwards.isEmpty then s else { s with forwards := s.forwards.filter (fun f => f.1 != line) }

/-- Every replica of a line gone. -/
def State.dropAllReplicas (s : State) (line : Nat) : State :=
  { s with replicas := s.replicas.filter (fun r => r.snap.line != line) }

/-- Invalidations of a line on their way to gateways of the package. -/
def State.invalidating (s : State) (line : Nat) : Bool := s.msgs.any (fun m => match m.body with
  | .inval l _ => l == line
  | _ => false)

/-- Invalidations of a line sent to gateways (R111, R335). -/
def State.sendInvals (s : State) (src : Node) (line : Nat) (gates : List Nat) : State :=
  gates.foldl (fun s g => s.send { id := 0, src := src, dst := .gate g, body := .inval line g }) s

/-- A gateway may still answer for a line: it holds a replica, or its acknowledgement of the line's invalidation has not come
(R111). -/
def State.gatewaysHold (s : State) (line : Nat) : Bool := s.invalidating line || s.replicas.any (fun r => r.snap.line == line)

/-- The line's invalidation sent to all eight gateways of the package, unless it is under way (R111). -/
def State.invalidateAll (s : State) (line : Nat) : State :=
  if s.invalidating line then s else s.sendInvals (homeNode (128 * line)) line (List.range 8)

/-- A line poisoned (R79), once no gateway answers for it (R111): no answer on its way makes a replica of it as it was, and
the home logs it. -/
def State.poisonLine (s : State) (line : Nat) : State :=
  let md := s.md.read line
  let s1 := s.spoilReplies line
  ({ s1 with
    md := s1.md.write line (mdOf (mdWatched md) (mdWidth md) true (mdState md))
    poisonLog := s1.poisonLog ++ [line] }).hostLog 79 (128 * line) 0

/-- A join performed or dropped (R60, R62, R64, R75, R79): what its acknowledgement carries.
(notes/assumptions/32.md) -/
def State.joinAt (s : State) (j : JoinReq) : State × Option FaultCode :=
  let line := j.cell / 128
  let md := s.md.read line
  let code := widthCode j.width
  if mdState md = 2 then (s, some .writeAfterFreeze)
  else if mdWidth md ≠ 0 && mdWidth md ≠ code then (s, some .widthMismatch)
  else
    let s0 := s.endForward line
    let s1 := if mdWidth md = 0 then
        { s0.lineBottom line j.ty j.width with
          md := s0.md.write line (mdOf (mdWatched md) code (mdPoison md) (mdState md)) }
      else s0
    let n := j.width / 8
    let old := s1.mem.readN j.cell n
    let new := if j.ty = 10 then fxCell (signed 96 old + j.val) (old / 2 ^ 96 + j.count)
      else cellJoin j.ty j.width old j.val.toNat
    let s2 := { s1 with mem := { s1.mem with cells := s1.mem.cells.writeN j.cell n new } }
    let s3 := if j.mark then s2.poisonLine line else s2
    (s3.retest line, none)

/-- A fill performed (R73). -/
def State.fillAt (s : State) (line : Nat) (data : BitVec 1024) (mark : Bool) : State × Option FaultCode :=
  let md := s.md.read line
  if mdState md = 2 then (s, some .writeAfterFreeze)
  else if mdState md = 1 then
    if s.mem.readN (128 * line) 128 = data.toNat then
      (if mark then (s.poisonLine line).retest line else s, none)
    else ((s.poisonLine line).retest line, some .fillConflict)
  else
    let s0 := s.endForward line
    let s1 := { s0 with
      mem := s0.mem.writeN (128 * line) 128 data.toNat false
      md := s0.md.write line (mdOf (mdWatched md) 1 (mdPoison md) 1) }
    ((if mark then s1.poisonLine line else s1).retest line, none)

/-- A fill poisons its line: its operand is marked, or it conflicts with what the line holds (R73, R79). -/
def State.fillPoisons (s : State) (line : Nat) (data : BitVec 1024) (mark : Bool) : Bool :=
  let st := mdState (s.md.read line)
  decide (st ≠ 2) && (mark || (decide (st = 1) && decide (s.mem.readN (128 * line) 128 ≠ data.toNat)))

/-- A poisoning that no request of an issuer makes: performed once all eight gateways have acknowledged its invalidation
(R111). -/
def State.poisonSoon (s : State) (line : Nat) : State :=
  if s.gatewaysHold line then
    { s.invalidateAll line with poisoning := if s.poisoning.contains line then s.poisoning else s.poisoning ++ [line] }
  else ({ s with poisoning := s.poisoning.filter (fun l => l != line) }.poisonLine line).retest line

/-- A freeze of a line performed (R73, R74). -/
def State.freezeAt (s : State) (line ty : Nat) : State :=
  let md := s.md.read line
  let s0 := s.endForward line
  if mdState md = 2 then s0
  else
    let s1 :=
      if ty = 1 then
        { s0 with
          mem := if mdWidth md = 0 then s0.mem.clear (128 * line) 128 else s0.mem
          md := s0.md.write line (mdOf (mdWatched md) (mdWidth md) (mdPoison md) 2) }
      else if mdWidth md = 0 then
        let w := if ty = 10 then 128 else 64
        { s0.lineBottom line ty w with md := s0.md.write line (mdOf (mdWatched md) 3 (mdPoison md) 2) }
      else { s0 with md := s0.md.write line (mdOf (mdWatched md) (mdWidth md) (mdPoison md) 2) }
    s1.retest line

/-- An exact read of a line (R72): the fault it meets, if any. -/
def State.exactFault (s : State) (line : Nat) : Option FaultCode :=
  let md := s.md.read line
  if mdPoison md then some .poison else if mdState md = 0 then some .prematureRead else none

/-! Requests at their home. -/

/-- A home holds room for the answers to a request (R114): with those that have not left it they are no more than it may
hold. (notes/assumptions/73.md) -/
def State.hasRoom (s : State) (x : Msg) : Bool :=
  let waiting := (s.msgs.filter (fun m => m.src == x.dst && m.channel.1 == 1 && m.loc == .source)).length
  decide (waiting = 0) || decide (waiting + max 1 x.body.tags.length ≤ s.homeRoom)

/-- A request at its home, which accepts it once it has room for its answers (R114). (notes/assumptions/73.md) -/
def State.atHome (s : State) (m : Nat) : Option Msg :=
  match s.msg? m with
  | some x => if x.loc == .arrived && x.body.isRequest && s.hasRoom x then some x else none
  | none => none

/-- The fault of a request whose home or page is lost, or whose REMOTE page has a bad physical address: that is tested at its
home package (R94), which keeps its own losses. -/
def State.homeFault (s : State) (x : Msg) : Option FaultCode :=
  if x.body.key < 2 ^ 52 then s.lostCode x.body.key x.src.place.1
  else if x.bad then some .translation else none

/-- The acknowledgements of a request to each of its contributors (R117). They come behind the wakes it caused: the
messages numbered from `n0` on (R325). -/
def State.ackAll (s : State) (x : Msg) (n0 : Nat) (code : Option FaultCode) (snap : Option LineSnap) : State :=
  let n1 := s.nextMsg
  let wakes := (List.range (n1 - n0)).map (fun i => n0 + i)
  let s1 := x.body.tags.foldl
    (fun s t => s.respond x.dst (homeLoc x.dst) t.who t.who.asid t.va x.gen (.ack t code) snap x.body.key) s
  { s1 with msgs := s1.msgs.map (fun m => if n1 ≤ m.id then { m with behind := wakes } else m) }

/-- HOME_JOIN (R60, R64, R75): a marked join waits until every gateway has dropped its replica of the line (R111). -/
def homeJoin (m : Nat) (s : State) : State :=
  match s.atHome m with
  | none => s
  | some x =>
    match x.body with
    | .join j =>
      let line := j.cell / 128
      match s.homeFault x with
      | some code => (s.dropMsg x.id).ackAll x s.nextMsg (some code) none
      | none =>
        if j.mark && mdState (s.md.read line) ≠ 2 && s.gatewaysHold line then s.invalidateAll line
        else
          let r := ((s.dropMsg x.id).countAccess x).joinAt j
          r.1.ackAll x s.nextMsg r.2 (some (r.1.snap line j.ty))
    | _ => s

/-- HOME_JOIN (R60) -/
def execHomeJoin (m : Nat) (s : State) : Host.Outcome State Fault Refusal := event (homeJoin m) s

/-- HOME_FILL (R73): one that poisons its line waits as a marked join does (R111). -/
def homeFill (m : Nat) (s : State) : State :=
  match s.atHome m with
  | none => s
  | some x =>
    match x.body with
    | .fill line data mark _ =>
      match s.homeFault x with
      | some code => (s.dropMsg x.id).ackAll x s.nextMsg (some code) none
      | none =>
        if s.fillPoisons line data mark && s.gatewaysHold line then s.invalidateAll line
        else
          let r := ((s.dropMsg x.id).countAccess x).fillAt line data mark
          r.1.ackAll x s.nextMsg r.2 (some (r.1.snap line 1))
    | _ => s

/-- HOME_FILL (R73) -/
def execHomeFill (m : Nat) (s : State) : Host.Outcome State Fault Refusal := event (homeFill m) s

/-- HOME_FREEZE (R74) -/
def homeFreeze (m : Nat) (s : State) : State :=
  match s.atHome m with
  | none => s
  | some x =>
    match x.body with
    | .freeze line ty _ =>
      match s.homeFault x with
      | some code => (s.dropMsg x.id).ackAll x s.nextMsg (some code) none
      | none =>
        let s1 := ((s.dropMsg x.id).countAccess x).freezeAt line ty
        s1.ackAll x s.nextMsg none (some (s1.snap line ty))
    | _ => s

/-- HOME_FREEZE (R74) -/
def execHomeFreeze (m : Nat) (s : State) : Host.Outcome State Fault Refusal := event (homeFreeze m) s

/-- Where a line that migration copies have moved is now (R105). -/
def State.movedKey (s : State) : Nat → Nat → Nat
  | 0, key => key
  | n + 1, key => match s.forwards.find? (fun f => f.1 == key / 128) with
    | some f => s.movedKey n (128 * f.2 + key % 128)
    | none => key

/-- The places of a line, where it was and where each migration copy has moved it (R105). -/
def State.movedKeys (s : State) : Nat → Nat → List Nat
  | 0, key => [key]
  | n + 1, key => key :: (match s.forwards.find? (fun f => f.1 == key / 128) with
    | some f => s.movedKeys n (128 * f.2 + key % 128)
    | none => [])

/-- A test sent on to the home of a line that a migration copy has moved (R105). (notes/assumptions/34.md) -/
def State.forwardTest (s : State) (x : Msg) (line : Nat) : State :=
  match x.body with
  | .test cell ty arg k w =>
    let cell1 := 128 * line + cell % 128
    s.putMsg { x with body := .test cell1 ty arg k w, src := x.dst, dst := homeNode cell1, loc := .source }
  | _ => s

/-- THRESHOLD_TEST (R70, R71): the test is counted (R101); it goes on where its line has moved (R105), else it resolves, or a
watch is held; a probe is answered at once. -/
def thresholdTest (m : Nat) (s : State) : State :=
  match s.atHome m with
  | none => s
  | some x =>
    match x.body with
    | .test cell ty arg k w =>
      let line := cell / 128
      match s.homeFault x with
      | some code => (s.dropMsg x.id).respond x.dst (homeLoc x.dst) w x.asid x.va x.gen (.result w (.lost code)) none cell
      | none =>
        match s.forwards.find? (fun f => f.1 == line) with
        | some f => (s.countAccess x).forwardTest x f.2
        | none =>
          let s1 := (s.dropMsg x.id).countAccess x
          let snap := some (s1.snap line ty)
          match s1.testLine cell ty k with
          | some r => s1.respond x.dst (homeLoc x.dst) w x.asid x.va x.gen (.result w r) snap cell
          | none =>
            match k with
            | .probe _ => s1.respond x.dst (homeLoc x.dst) w x.asid x.va x.gen (.result w .notPassed) snap cell
            | _ =>
              let held : Watch := { cell := cell, ty := ty, arg := arg, kind := k, who := w, va := x.va, home := x.dst
                                    asid := x.asid, gen := x.gen }
              ({ s1 with watches := s1.watches ++ [held] }).markWatched line
    | _ => s

/-- THRESHOLD_TEST (R70) -/
def execThresholdTest (m : Nat) (s : State) : Host.Outcome State Fault Refusal := event (thresholdTest m) s

/-- A store of the same context to shared bytes was issued before this one and is not performed (R217). -/
def State.olderStore (s : State) (x : Msg) : Bool :=
  match x.body with
  | .store pa n _ _ t => s.msgs.any (fun y => match y.body with
      | .store pa' n' _ _ t' => decide (y.id < x.id) && overlaps pa n pa' n' && (match t.who, t'.who with
          | .ctx k _, .ctx k' _ => k == k'
          | _, _ => false)
      | _ => false)
  | _ => false

/-- HOME_STORE (R335): the replicas of the line, but for the one on the store's own path, go first. No answer that left
before the store makes a replica of the line. -/
def homeStore (m : Nat) (s : State) : State :=
  match s.atHome m with
  | none => s
  | some x =>
    match x.body with
    | .store pa n data marks _ =>
      let line := pa / 128
      match s.homeFault x with
      | some code => (s.dropMsg x.id).ackAll x s.nextMsg (some code) none
      | none =>
        let own := match x.src with
          | .core c => s.pathGate c (homeBd pa)
          | _ => none
        let gates := (s.replicas.filter (fun r => r.snap.line == line && some r.gate != own)).map (fun r => r.gate)
        if s.olderStore x || s.invalidating line then s
        else if !gates.isEmpty then s.sendInvals x.dst line gates
        else
          let s1 := (s.dropMsg x.id).countAccess x
          let s2 := ({ s1 with mem := s1.mem.writeMarks pa n data.toNat marks.toNat }).spoilReplies line
          (match own with
            | some g => s2.renewReplica g line
            | none => s2).ackAll x s.nextMsg none none
    | _ => s

/-- HOME_STORE (R335) -/
def execHomeStore (m : Nat) (s : State) : Host.Outcome State Fault Refusal := event (homeStore m) s

/-- A read answered by its home. -/
def State.answerRead (s : State) (x : Msg) (w : Who) (line ty : Nat) (code : Option FaultCode) : State :=
  let s1 := if (s.homeFault x).isSome then s.dropMsg x.id else (s.dropMsg x.id).countAccess x
  match code with
  | some c => s1.respond x.dst (homeLoc x.dst) w x.asid x.va x.gen (.data w (some c)) none (128 * line)
  | none => s1.respond x.dst (homeLoc x.dst) w x.asid x.va x.gen (.data w none) (some (s1.snap line ty)) (128 * line)

/-- HOME_LOAD (R335, R101) -/
def homeLoad (m : Nat) (s : State) : State :=
  match s.atHome m with
  | none => s
  | some x =>
    match x.body with
    | .load line ty w => s.answerRead x w line ty (s.homeFault x)
    | _ => s

/-- HOME_LOAD (R335) -/
def execHomeLoad (m : Nat) (s : State) : Host.Outcome State Fault Refusal := event (homeLoad m) s

/-- HOME_EXACT_READ (R72) -/
def homeExactRead (m : Nat) (s : State) : State :=
  match s.atHome m with
  | none => s
  | some x =>
    match x.body with
    | .exact line ty w =>
      match s.homeFault x with
      | some code => s.answerRead x w line ty (some code)
      | none => s.answerRead x w line ty (s.exactFault line)
    | _ => s

/-- HOME_EXACT_READ (R72) -/
def execHomeExactRead (m : Nat) (s : State) : Host.Outcome State Fault Refusal := event (homeExactRead m) s

/-! What comes back. -/

/-- A unit of a copy command changed. -/
def State.modUnit (s : State) (k : Key) (seq u : Nat) (f : IssuedUnit → IssuedUnit) : State :=
  s.modCtx k (fun c => { c with cmds := c.cmds.map (fun m =>
    if m.seq = seq then { m with units := m.units.map (fun x => if x.u = u then f x else x) } else m) })

/-- An acknowledgement at its issuer (R76, R130): a fault it carries is posted to the context or kept by the copy unit. -/
def State.takeAck (s : State) (t : Tag) (code : Option FaultCode) : State :=
  match t.who with
  | .ctx k n =>
    match s.ctx? k with
    | none => s
    | some _ =>
      let s1 := s.modCtx k (fun c => { c with
        outs := c.outs.filter (fun o => o.n != n)
        posted := match code with
          | some x => c.posted ++ [{ n := n, code := x, va := t.va }]
          | none => c.posted })
      s1.wakeAcks
  | .copy k seq u =>
    s.modUnit k seq u (fun x => { x with
      left := x.left - 1
      fault := match x.fault, code with
        | some f, some e => if t.va.toNat < f.addr.toNat then some (s.answerFault k.asid e t.va) else some f
        | some f, none => some f
        | none, some e => some (s.answerFault k.asid e t.va)
        | none, none => none })
  | .watch .. => s

/-- A line, or the failure to read it, at the instruction that asked for it, under the generation it asked with (R78). -/
def State.takeData (s : State) (w : Who) (code : Option FaultCode) (va : Word) (gen : BitVec 8) (snap : Option LineSnap) :
    State :=
  match w with
  | .ctx k n => s.modCtx k (fun c =>
      if c.asked && c.nextReq == n then
        match code, snap with
        | some e, _ => { c with lostReply := some (s.answerFault k.asid e va) }
        | none, some x => { c with lines := c.lines ++ [{ x with gen := gen }] }
        | none, none => c
      else c)
  | _ => s

/-- Whether the instruction that asked still waits for lines: it looks again when none of its reads is on its way. -/
def State.readsOut (s : State) (w : Who) : Bool := s.msgs.any (fun m => match m.body with
  | .load _ _ x => x == w
  | .exact _ _ x => x == w
  | .data x _ => x == w
  | _ => false)

/-- The reads of an instruction have all been answered: it may ask again. -/
def State.endAsk (s : State) (w : Who) : State :=
  match w with
  | .ctx k n => if s.readsOut w then s else s.modCtx k (fun c => if c.nextReq == n then { c with asked := false } else c)
  | _ => s

/-- ACK_ARRIVAL (R76): an acknowledgement or data at the issuer. -/
def ackArrival (m : Nat) (s : State) : State :=
  match s.msg? m with
  | none => s
  | some x =>
    if x.loc != .arrived || s.msgs.any (fun y => x.behind.contains y.id) then s
    else match x.body with
      | .ack t code => (s.dropMsg x.id).takeAck t code
      | .data w code => ((s.dropMsg x.id).takeData w code x.va x.gen x.snap).endAsk w
      | _ => s

/-- ACK_ARRIVAL (R76) -/
def execAckArrival (m : Nat) (s : State) : Host.Outcome State Fault Refusal := event (ackArrival m) s

/-- The code that a SPAWNW record is dropped with (R283). -/
def TestResult.code : TestResult → Option FaultCode
  | .passed .. => none
  | .poison => some .poison
  | .misaligned => some .address
  | .lost c => some c
  | .unreachable | .notPassed => some .unreachableThreshold

/-- The outcome of a test at whoever made it (R283, R311). -/
def State.takeResult (s : State) (w : Who) (r : TestResult) (va : Word) : State :=
  match w with
  | .ctx k n =>
    match s.ctx? k with
    | none => s
    | some c =>
      if c.asked && c.nextReq == n && c.reply.isNone then
        (s.modCtx k (fun c => { c with reply := some { n := n, r := r } })).wakeWhere (fun x w => x.key == k && w == .reply)
      else s
  | .copy .. => s
  | .watch k core rec pc =>
    match r.code with
    | none => s.sendRecord core 0 rec
    | some code =>
      (s.postRecord { id := 0, asid := k.asid, ctxid := k.ctxid, kind := 3, info := s.answerFault k.asid code va, pc := pc,
                      live := false }).settleLaunch rec.launch

/-- The watches that `p` picks end with a fault code at whoever holds them (R374, R375, R347).
(notes/assumptions/55.md) -/
def State.failWatches (s : State) (p : Watch → Bool) (code : FaultCode) : State :=
  (s.watches.filter p).foldl (fun s w => s.takeResult w.who (.lost code) w.va) (s.endWatches p)

/-- WAKE_RESULT (R311) -/
def wakeResult (m : Nat) (s : State) : State :=
  match s.msg? m with
  | none => s
  | some x =>
    if x.loc != .arrived then s
    else match x.body with
      | .result w r => (s.dropMsg x.id).takeResult w r x.va
      | _ => s

/-- WAKE_RESULT (R311) -/
def execWakeResult (m : Nat) (s : State) : Host.Outcome State Fault Refusal := event (wakeResult m) s

/-! Invalidations at gateways (R111). -/

/-- GATEWAY_INVALIDATION (R111): the replica is dropped, and the home has its acknowledgement; a poisoning that waits for the
last of them is performed. -/
def gatewayInvalidation (m : Nat) (s : State) : State :=
  match s.msg? m with
  | none => s
  | some x =>
    match x.loc, x.body with
    | .gate _, .inval line g =>
      let s1 := (s.dropReplica g line).dropMsg x.id
      if s1.poisoning.contains line && !s1.invalidating line then s1.poisonSoon line else s1
    | _, _ => s

/-- GATEWAY_INVALIDATION (R111) -/
def execGatewayInvalidation (m : Nat) (s : State) : Host.Outcome State Fault Refusal := event (gatewayInvalidation m) s

/-- TLBINV_COMPLETE (R99): the i-th invalidation, once what it waits for has ended. -/
def tlbinvComplete (i : Nat) (s : State) : State :=
  match s.invals[i]? with
  | none => s
  | some v => if s.invalDone v then s.endInval v else s

/-- TLBINV_COMPLETE (R99) -/
def execTlbinvComplete (i : Nat) (s : State) : Host.Outcome State Fault Refusal := event (tlbinvComplete i) s

end Sys2Proof.Machine
end

