-- ==== Sys2Proof/Machine/Engine.lean ====
section
/-! DEFINITION. Engine commands in common: ids and predecessors, conflicts, the checks of slice ranges, acceptance and
completion, and the waits for them (spec/08_arithmetic_units.md R175 to R179, spec/11 R255, R256, R272, R278,
spec/06 R122 to R127, R134). -/
namespace Sys2Proof.Machine

/-! Kinds. -/

/-- A copy command. -/
def CmdKind.isCopy : CmdKind → Bool
  | .ccopy .. | .cgather .. | .cjoin .. => true
  | _ => false

/-- A lamp command. -/
def CmdKind.isLamp : CmdKind → Bool
  | .lspark .. | .lrun .. => true
  | _ => false

/-- A matrix command, MZERO and MDISCARD among them (R175). -/
def CmdKind.isMatrix (k : CmdKind) : Bool := !k.isCopy && !k.isLamp

/-- The copy configuration of a copy command. -/
def CmdKind.cfg : CmdKind → Option CopyCfg
  | .ccopy a b .. => some (copyCfg a b)
  | .cgather a b .. => some (copyCfg a b)
  | .cjoin a b .. => some (copyCfg a b)
  | _ => none

/-- The offset of the barrier a command counts into. -/
def CmdKind.barrier (k : CmdKind) : Option Nat :=
  match k.cfg with
  | some g => if g.ben then some g.bar else none
  | none => none

/-! Commands of a context. -/

/-- A command by its number. -/
def Context.cmd? (c : Context) (seq : Nat) : Option Cmd := c.cmds.find? (fun m => m.seq == seq)

/-- The most recent accepted command that carries an id (R176). -/
def Context.holder (c : Context) (id : Nat) : Option Cmd := c.cmds.reverse.find? (fun m => m.id == some id)

/-- The commands that predecessor fields name; 63 names none (R176). -/
def Context.bound (c : Context) (ps : List Nat) : List Cmd :=
  ps.filterMap (fun p => if p = 63 then none else c.holder p)

/-- A command of a context changed. -/
def State.modCmd (s : State) (k : Key) (seq : Nat) (f : Cmd → Cmd) : State :=
  s.modCtx k (fun c => { c with cmds := c.cmds.map (fun m => if m.seq = seq then f m else m) })

/-- Whether every predecessor bound has completed (R176), and for a matrix command every earlier one of its context
(R179). -/
def Context.predsDone (c : Context) (m : Cmd) : Bool :=
  c.cmds.all (fun x => !x.incomplete ||
    !(m.preds.contains x.seq || (m.kind.isMatrix && x.kind.isMatrix && decide (x.seq < m.seq))))

/-- The sequence numbers of the commands already placed before a new one: those it binds, for a matrix command the earlier
matrix commands, and whatever is placed before these. The list runs from the latest command back. -/
def placedBefore : List Cmd → List Nat → Bool → List Nat
  | [], set, _ => set
  | m :: r, set, matrix =>
    if set.contains m.seq || (matrix && m.kind.isMatrix) then
      placedBefore r (m.seq :: set ++ m.preds) (matrix || m.kind.isMatrix)
    else placedBefore r set matrix

/-- Whether an accepted command writes a slice byte or a tile word that a new one reads or writes, or the other way round
(R256). -/
def State.conflict (s : State) (c : Context) (m : Cmd) (k : CmdKind) : Bool :=
  let hits (a : CmdKind) (x : Mem) (b : CmdKind) (y : Mem) : Bool :=
    rangesMeet (c.cmdWrites a x) (s.cmdReads c b y ++ c.cmdWrites b y) ||
      a.tileWrites.any (fun t => b.tileReads.contains t || b.tileWrites.contains t)
  let now := s.sliceImage c
  hits m.kind m.bank k now || hits k now m.kind m.bank

/-- The stalls of acceptance (R256): the id is held, a bound copy or lamp command is incomplete, or a command that nothing
places before this one conflicts. (notes/assumptions/41.md) -/
def stallsAccept (id : Option Nat) (ps : List Nat) (k : CmdKind) : M Unit := do
  let s ← get
  let c := s.cur
  let held := match id with
    | some i => (c.holder i).any Cmd.incomplete
    | none => false
  let bs := c.bound ps
  let before := placedBefore c.cmds.reverse (bs.map Cmd.seq) k.isMatrix
  if held || bs.any (fun m => m.incomplete && !m.kind.isMatrix) ||
      c.cmds.any (fun m => m.incomplete && !before.contains m.seq && s.conflict c m k) then
    throw .stall

/-- Acceptance, after every check: a bound predecessor that completed with a fault delivers it (R177); else the command
takes its place. Of two such predecessors the one accepted first delivers: the spec gives no order
(notes/assumptions/41.md). -/
def acceptCmd (id : Option Nat) (ps : List Nat) (k : CmdKind) : M Unit := do
  let c ← cur
  let bs := c.bound ps
  match c.cmds.find? (fun m => bs.any (fun b => b.seq == m.seq) && !m.incomplete && m.fault.isSome && !m.delivered) with
  | some m =>
    match m.fault with
    | some f => throw (.deliver f (.delivered [m.seq]))
    | none => pure ()
  | none => pure ()
  let m : Cmd := { seq := c.nextCmd, id := id, kind := k, preds := (bs.filter Cmd.incomplete).map Cmd.seq, pc := c.regs.pc
                   stamp := (← get).nextSeq }
  modify fun s => { s with nextSeq := s.nextSeq + 1 }
  modCur fun c => { c with cmds := c.cmds ++ [m], nextCmd := c.nextCmd + 1 }

/-- A command complete, with the fault it carries; whoever waits for it, and for no other that is incomplete, is woken. -/
def State.completeCmd (s : State) (k : Key) (seq : Nat) (f : Option FaultInfo) : State :=
  (s.modCmd k seq (fun m => { m with
    state := .done
    fault := f.map (fun x => { x with engine := m.id }) })).wakeWhere (fun c w => match w with
    | .commands seqs => c.key == k && !c.cmds.any (fun m => seqs.contains m.seq && m.incomplete)
    | _ => false)

/-- Engines begin nothing for a context that is in its frame or on its way there (R359). -/
def Context.engaged (c : Context) : Bool := c.slot.isSome && c.status != .stopped && !c.leaving

/-- A command that is ready to start. -/
def Context.readyCmd (c : Context) (m : Cmd) : Bool := c.engaged && m.state == .accepted && c.predsDone m

/-- Every command of the contexts of a core that satisfies a predicate. -/
def State.coreCmds (s : State) (core : Nat) (p : Context → Cmd → Bool) : List Cmd :=
  (s.allCtxs.filter (fun c => c.core == core)).flatMap (fun c => c.cmds.filter (p c))

/-! Operand checks in common. -/

/-- The window address of a slice offset. -/
def sliceVa (off : Nat) : Word := BitVec.ofNat 64 (windowBase + off)

/-- Step 3 of R255: SCRATCH_BOUND, then DISCARD_READ of what is read, then barrier objects and channel slot areas. A discarded
line that an earlier command will write is read as it stands after that command: acceptance waits for it (R178). -/
def checkSlice (reads writes : List (Nat × Nat)) : M Unit := do
  let s ← get
  let c := s.cur
  let all := reads ++ writes
  match all.find? (fun r => !c.sliceFits r.1 r.2) with
  | some r => raise .scratchBound (sliceVa r.1)
  | none => pure ()
  match reads.find? (fun r => c.touchesDiscarded r.1 r.2) with
  | some r => if c.loadWaits r.1 r.2 then throw .stall else raise .discardRead (sliceVa r.1)
  | none => pure ()
  match all.find? (fun r => c.touchesBarrier r.1 r.2 || s.touchesArea c r.1 r.2) with
  | some r => raise .illegalOperand (sliceVa r.1)
  | none => pure ()

/-- An id that a command may carry (R176). -/
def checkId (id : Nat) : M Unit := check (decide (id ≠ 63)) .engineId

/-- A tile that a command names stands below the tile count (R152). -/
def checkCount (t : Nat) : M Unit := do check (decide (t < (← cur).tiles)) .accBound

/-- A tile of a matrix command is not in event mode (R181). -/
def checkEvent (t : Nat) : M Unit := do check ((← cur).lampCfg[Fin.ofNat 16 t]).isNone .illegalOperand

/-- A tile that a matrix command names. -/
def checkTile (t : Nat) : M Unit := do
  checkCount t
  checkEvent t

/-- A tile whose words a command takes (R123). -/
def checkLive (t : Nat) : M Unit := do check (!(← cur).discTiles.getLsbD t) .discardRead

/-- A tile's discard mark set or taken away at acceptance (R123, R268). -/
def markTile (t : Nat) (discarded : Bool) : M Unit := modCur fun c => { c with
  discTiles := if discarded then c.discTiles ||| ((1 : BitVec 16) <<< t) else c.discTiles &&& ~~~ ((1 : BitVec 16) <<< t) }

/-! Waits (R179, R272, R278). -/

/-- The commands that a wait's id names: all of the class for 63; ENGINE_ID for a command of another class. -/
def waitedFor (cls : CmdKind → Bool) (id : Word) : M (List Cmd) := do
  check (decide (wbits id 6 58 = 0)) .illegalOperand
  let c ← cur
  if wbits id 0 6 = 63 then return c.cmds.filter (fun m => cls m.kind)
  else match c.holder (wbits id 0 6) with
    | none => return []
    | some m =>
      check (cls m.kind) .engineId
      return [m]

/-- MWAIT and LWAIT: parked until the commands are complete; a fault of theirs is delivered. -/
def waitEngine (cls : CmdKind → Bool) (d id : Scalar) : M Flow := do
  checkSrc id
  checkDst d
  let vs ← readOnce [id]
  let ms ← waitedFor cls (← useClean (nthVal vs 0))
  if ms.any Cmd.incomplete then return .park (.commands (ms.map Cmd.seq))
  match ms.find? (fun m => m.fault.isSome && !m.delivered) with
  | some m =>
    match m.fault with
    | some f => throw (.deliver f (.delivered [m.seq]))
    | none => pure ()
  | none => pure ()
  writeScalar d { bits := 0 }
  return .done

/-! Barriers (R126). -/

/-- CountUnit: the phase that ended, if one did, wakes the context that waits for it (R311). -/
def State.countUnit (s : State) (k : Key) (off n : Nat) : State :=
  let s1 := s.modCtx k (fun c => { c with barriers := c.barriers.map (fun b =>
    if b.off ≠ off then b
    else if b.expected ≤ b.counted + n then
      { b with counted := b.counted + n - b.expected, phase := !b.phase, flips := b.flips + 1 }
    else { b with counted := b.counted + n }) })
  let ended := (s.ctx? k).any (fun c => c.barriers.any (fun b => b.off == off && decide (b.expected ≤ b.counted + n)))
  if ended then s1.wakeWhere (fun c w => c.key == k && w == .barrier off) else s1

/-- The number of the phase in progress of a barrier. -/
def Context.phaseOf (c : Context) (off : Nat) : Option Nat := (c.barriers.find? (fun b => b.off == off)).map Barrier.flips

/-! What engines do outside their instructions. -/

/-- An effect run for an engine: its value and state, or nothing where it stops. -/
def State.runM {α : Type} (s : State) (m : M α) : Option (α × State) :=
  match m s with
  | .ok r => some r
  | .error _ => none

/-- A test as it reaches the home of an address, and each home to which migration copies have moved its line (R105): counted there
(R101). (notes/assumptions/60.md) -/
def State.countTest (s : State) (c : Context) (l : Leaf) (va : Nat) : State :=
  (s.movedKeys s.forwards.length (l.key va)).foldl (fun s key => s.countAt l.cnt key (BitVec.ofNat 64 va) c.asid) s

/-- A test held at the home of an address, or at the home to which migration copies have moved its line (R105). -/
def testAt (l : Leaf) (va : Nat) (k : TestKind) (s : State) : Option TestResult :=
  s.testLine (s.movedKey s.forwards.length (l.key va)) l.ty k

/-- A command stalls at a TRANSLATION fault: it joins the outstanding record of the page or opens one of KIND 8 (R97, R134).
Where that would be the context's 65th, it only waits (R98). -/
def State.stallCmd (s : State) (c : Context) (m : Cmd) (f : FaultInfo) : State :=
  if s.recordsFull c.key f then s
  else
    let s1 := s.modCmd c.key m.seq (fun x => { x with state := .stalled })
    match s.attachTo c.key.asid f with
    | some r =>
      { s1 with records := s1.records.map (fun x =>
          if x.id = r.id then { x with engines := x.engines ++ [(c.key, m.seq)] } else x) }
    | none =>
      s1.postRecord { id := 0, asid := c.key.asid, ctxid := c.key.ctxid, kind := 8, info := f, pc := m.pc
                      engine := some (1, m.id.getD 0), engines := [(c.key, m.seq)] }

end Sys2Proof.Machine
end

