-- ==== Sys2Proof/Machine/Copy.lean ====
section
/-! DEFINITION. The copy engine: configuration sets, barrier objects, acceptance of copies, their units, and WAITB
(spec/06_scratchpad_copy_engine_channels.md R124 to R137, spec/11 R258 to R264, spec/04 R105). -/
namespace Sys2Proof.Machine

/-! Configuration sets and barrier objects. -/

/-- CCFG of R128 and R262. -/
def ccfgBody (a b : Scalar) : M Flow := do
  checkSrc a
  checkSrc b
  let wa ← readClean a
  let wb ← readClean b
  let g := copyCfg wa wb
  check (decide (g.len ≠ 0) && decide (g.rows ≠ 0) && decide (g.len ≤ 0x200000) && decide (g.mode ≠ 3) &&
    (decide (g.jw = 0) || decide (g.mode = 2)) && decide (wbits wb 52 12 = 0)) .illegalOperand
  modCur fun c => { c with copySets := c.copySets.set (wbits wb 48 2 % 4) (wa, wb) }
  return .done

/-- CCFG (R262) -/
def execCcfg (a b : Scalar) (s : State) : Host.Outcome State Fault Refusal := issue (.ccfg a b) (ccfgBody a b) s

/-- An incomplete copy of the context names a barrier. -/
def Context.copyNames (c : Context) (off : Nat) : Bool :=
  c.cmds.any (fun m => m.incomplete && m.kind.barrier == some off)

/-- The table entered, rewritten or left (R125). A removed object leaves its 16 bytes as they stand; the faults of earlier
commands are no longer those of a phase of the object. (notes/assumptions/40.md) -/
def State.setBarrier (s : State) (k : Key) (off exp : Nat) : State :=
  let old : Option Barrier := match s.ctx? k with
    | some c => c.barriers.find? (fun b => b.off == off)
    | none => none
  let s1 := s.modCtx k (fun c => { c with
    barriers := c.barriers.filter (fun b => b.off != off)
    cmds := c.cmds.map (fun m => if m.kind.barrier == some off then { m with phase := none } else m) })
  if exp = 0 then match old with
    | some b => s1.sliceWrite k off 16 b.word 0
    | none => s1
  else (s1.sliceWrite k off 16 0 0).modCtx k (fun c => { c with barriers := c.barriers ++ [{ off := off, expected := exp }] })

/-- CBAR of R263. That check 5 is made where gExp = 0 names no object too is the model's choice (notes/assumptions/80.md). -/
def cbarBody (off exp : Scalar) : M Flow := do
  checkSrc off
  checkSrc exp
  let o ← readClean off
  let e ← readClean exp
  check (decide (wbits o 21 43 = 0) && decide (wbits o 0 4 = 0)) .illegalOperand
  let s ← get
  let c := s.cur
  let at_ := o.toNat
  check (c.sliceFits at_ 16) .scratchBound (sliceVa at_)
  check (decide (wbits e 32 32 = 0)) .illegalOperand
  let known := c.barriers.any (fun b => b.off == at_)
  check (known || decide (e = 0) || decide (c.barriers.length < 16)) .illegalOperand
  check (!s.touchesArea c at_ 16) .illegalOperand
  if known && c.copyNames at_ then throw .stall
  if !known && e ≠ 0 && s.storeWaits c at_ 16 then throw .stall
  modify fun s => s.setBarrier s.cur.key at_ e.toNat
  return .done

/-- CBAR (R263) -/
def execCbar (off exp : Scalar) (s : State) : Host.Outcome State Fault Refusal := issue (.cbar off exp) (cbarBody off exp) s

/-- The earliest accepted command whose fault a WAITB of the barrier takes (R264). -/
def Context.phaseFault (c : Context) (off flips : Nat) : Option (Cmd × FaultInfo) :=
  match c.cmds.find? (fun m => !m.incomplete && m.fault.isSome && !m.delivered && m.kind.barrier == some off &&
    decide (1 ≤ flips) && m.phase == some (flips - 1)) with
  | some m => m.fault.map (fun f => (m, f))
  | none => none

/-- WAITB of R264; it acquires where it completes (R127, R338). -/
def waitbBody (d off ph : Scalar) : M Flow := do
  checkSrc off
  checkSrc ph
  checkDst d
  let vs ← readOnce [off, ph]
  let o ← useClean (nthVal vs 0)
  let p ← useClean (nthVal vs 1)
  check (decide (wbits o 21 43 = 0) && decide (wbits o 0 4 = 0)) .illegalOperand
  let c ← cur
  match c.barriers.find? (fun b => b.off == o.toNat) with
  | none => raise .illegalOperand
  | some b =>
    if b.phase = p.getLsbD 0 then return .park (.barrier b.off)
    match c.phaseFault b.off b.flips with
    | some (m, f) => throw (.deliver f (.delivered [m.seq]))
    | none => pure ()
    writeScalar d { bits := if b.phase then 1 else 0 }
    acquire
    return .done

/-- WAITB (R264) -/
def execWaitb (d off ph : Scalar) (s : State) : Host.Outcome State Fault Refusal :=
  issue (.waitb d off ph) (waitbBody d off ph) s

/-! Where copies read and write (R129, R216). -/

/-- The page types a copy reads (R58, R129). -/
def refuseSource (sys : Bool) (l : Leaf) : Option FaultCode :=
  if l.ty = 11 then (if sys then some .badType else some .permission) else none

/-- The page types a plain copy writes. -/
def refusePlain (sys : Bool) (l : Leaf) : Option FaultCode :=
  if l.ty = 0 then none else if l.ty = 11 && !sys then some .permission else some .badType

/-- The page types the destination of a configuration's mode admits. -/
def CopyCfg.refuse (g : CopyCfg) (sys : Bool) : Leaf → Option FaultCode :=
  match g.mode with
  | 0 => refusePlain sys
  | 1 => onlyTypes (fun ty => decide (ty = 1))
  | _ => onlyTypes (fun ty => admitsJoin ty (8 * g.cellBytes))

/-- Where `n` bytes of an operand lie: FieldAccess for fills and joins, else the windows of R216.
(notes/assumptions/24.md) -/
def copyPlace (c : Context) (kind : AccessKind) (field : Bool) (refuse : Leaf → Option FaultCode) (n va : Nat) :
    M (Except FaultInfo Place) := do
  let bad : Option FaultCode := match windowOf va with
    | .stack | .scratch => some .badType
    | .onChip | .device => some (if c.sys then .badType else .permission)
    | _ => none
  match bad, field with
  | some code, true => return .error (faultAtVa code va)
  | _, _ =>
    match (← steerFor c kind n va) with
    | .error f => return .error f
    | .ok (.page l) => match refuse l with
      | some code => return .error (pageFault code va l)
      | none => return .ok (.page l)
    | .ok p => return .ok p

/-- Two pages between which a plain copy of a system context is a migration copy (R105, R129).
(notes/assumptions/43.md) -/
def migrates (c : Context) (g : CopyCfg) (a b : Leaf) : Bool :=
  c.sys && decide (g.mode = 0) && a.jblock && b.jblock && a.ty == b.ty && a.arg == b.arg && a.size == b.size &&
    decide (1 ≤ a.ty) && decide (a.ty ≤ 10)

/-- The leaf an address has, if it is in the global window and can be translated. -/
def leafAt (c : Context) (kind : AccessKind) (va : Nat) : M (Option Leaf) := do
  if windowOf va != .global then return none
  match (← tryTranslate c.core c.asid c.sys kind va) with
  | .ok l => return some l
  | .error _ => return none

/-- The two pages of a migration copy at a pair of addresses. (notes/assumptions/43.md) -/
def migrationAt (c : Context) (g : CopyCfg) (src dst : Nat) : M (Option (Leaf × Leaf)) := do
  if !(c.sys && decide (g.mode = 0)) then return none
  match (← leafAt c .read src) with
  | none => return none
  | some a =>
    if !a.jblock then return none
    match (← leafAt c .write dst) with
    | none => return none
    | some b => return if migrates c g a b then some (a, b) else none

/-! Acceptance (R255 to R261). -/

/-- The three copy commands. -/
inductive CopyOp where
  | copy | gather | join
deriving DecidableEq, Repr

/-- The modes a command accepts (R129). -/
def CopyOp.accepts (op : CopyOp) (mode : Nat) : Bool :=
  match op with
  | .copy => decide (mode ≤ 1)
  | .gather => decide (mode = 0)
  | .join => decide (mode = 2)

/-- The command with its operands. -/
def CopyOp.kind (op : CopyOp) (cfg : Word × Word) (src dst ix : BitVec 48) (migration : Bool) : CmdKind :=
  match op with
  | .copy => .ccopy cfg.1 cfg.2 src dst migration
  | .gather => .cgather cfg.1 cfg.2 src dst ix
  | .join => .cjoin cfg.1 cfg.2 src dst

/-- The limits of R129 and R131 on the set and the addresses. -/
def CopyCfg.limitsOk (g : CopyCfg) (dst : Nat) : Bool :=
  match g.mode with
  | 1 => decide (g.len % 128 = 0) && decide (g.sstride % 128 = 0) && decide (g.dstride % 128 = 0) &&
      decide (dst % 128 = 0) && !(decide (1 < g.rows) && decide (g.dstride < g.len))
  | 2 => decide (g.len % g.elemBytes = 0)
  | _ => true

/-- Step 4 of R255: the first source page, then the first destination page, and whether the copy is a migration copy. That a
CGATHER's first source page is the one at SRC, whatever its first index is, is the model's choice (notes/assumptions/80.md). -/
def copyOperands (op : CopyOp) (g : CopyCfg) (src dst : Nat) : M Bool := do
  let c ← cur
  if op != .join && !(op == .gather && inScratchWindow src) then
    let _src ← orRaise (← copyPlace c .read false (refuseSource c.sys) 1 src)
  let mig ← if op == .copy then migrationAt c g src dst else pure none
  match mig with
  | some _ =>
    check (decide (g.len % 128 = 0) && decide (g.sstride % 128 = 0) && decide (g.dstride % 128 = 0) &&
      decide (src % 128 = 0) && decide (dst % 128 = 0)) .illegalOperand
    return true
  | none =>
    let _dst ← orRaise (← copyPlace c .write (decide (g.mode ≠ 0)) (g.refuse c.sys) 1 dst)
    check (decide (g.mode ≠ 2) || decide (dst % g.cellBytes = 0)) .address (BitVec.ofNat 64 dst)
    return false

/-- The index list of a CGATHER (R261), as a window address. -/
def gatherList (ix : Word) (rows : Nat) : M Unit := do
  let c ← cur
  let o := ix.toNat - windowBase
  check (inScratchWindow ix.toNat && decide (ix.toNat % 4 = 0)) .address ix
  check (c.sliceFits o (4 * rows)) .scratchBound ix
  if c.touchesDiscarded o (4 * rows) then
    if c.loadWaits o (4 * rows) then throw .stall else raise .discardRead ix
  check (!c.touchesBarrier o (4 * rows) && !(← get).touchesArea c o (4 * rows)) .illegalOperand ix

/-- CopyCommand of R260. (notes/assumptions/41.md) -/
def copyCommand (op : CopyOp) (a b : Scalar) (ix : Option Scalar) : M Flow := do
  checkSrc a
  checkSrc b
  match ix with
  | some x => checkSrc x
  | none => pure ()
  let wa ← readClean a
  let wb ← readClean b
  let iv ← match ix with
    | some x => readScalar x
    | none => pure { bits := 0 }
  check (decide (wbits wa 62 2 = 0) && decide (wbits wb 54 10 = 0)) .illegalOperand
  let id := wbits wa 50 6
  checkId id
  let c ← cur
  let cfg := c.copySets[wbits wa 48 2 % 4]'(Nat.mod_lt _ (by decide))
  let g := copyCfg cfg.1 cfg.2
  let src := wbits wa 0 48
  let dst := wbits wb 0 48
  check (decide (g.len ≠ 0)) .illegalOperand
  check (op.accepts g.mode) .illegalOperand
  check (!g.ben || c.barriers.any (fun x => x.off == g.bar)) .illegalOperand
  check (g.limitsOk dst) .illegalOperand
  check (op != .join || inScratchWindow src) .illegalOperand
  let ps := [wbits wa 56 6, wbits wb 48 6]
  let k := op.kind cfg (BitVec.ofNat 48 src) (BitVec.ofNat 48 dst) (iv.bits.setWidth 48) false
  stallsAccept (some id) ps k
  checkSlice (if op == .gather then [] else rowRanges src g.sstride g.rows g.len)
    (if g.mode = 0 then rowRanges dst g.dstride g.rows g.len else [])
  let mig ← copyOperands op g src dst
  if op == .gather then gatherList (← useClean iv) g.rows
  acceptCmd (some id) ps (op.kind cfg (BitVec.ofNat 48 src) (BitVec.ofNat 48 dst) (iv.bits.setWidth 48) mig)
  return .done

/-- CCOPY (R260) -/
def execCcopy (a b : Scalar) (s : State) : Host.Outcome State Fault Refusal :=
  issue (.ccopy a b) (copyCommand .copy a b none) s

/-- CGATHER (R260, R261) -/
def execCgather (ix a b : Scalar) (s : State) : Host.Outcome State Fault Refusal :=
  issue (.cgather ix a b) (copyCommand .gather a b (some ix)) s

/-- CJOIN (R260) -/
def execCjoin (a b : Scalar) (s : State) : Host.Outcome State Fault Refusal :=
  issue (.cjoin a b) (copyCommand .join a b none) s

/-! Units (R130). -/

/-- A unit: its row, its place in the source row, its addresses, its source bytes and its destination bytes. -/
structure CopyUnit where
  row : Nat
  off : Nat := 0
  src : Nat
  dst : Nat
  n : Nat
  dn : Nat
deriving DecidableEq, Repr

/-- The units of a row of `len` destination bytes at an address: one for each destination line. -/
def rowUnits (dst len : Nat) : Nat := (dst % 128 + len + 127) / 128

/-- The place of unit `u` in copy order, from row `r` on with `rows` rows left: row, offset in the row and length, in
destination bytes. -/
def unitPlace (dst stride len : Nat) : Nat → Nat → Nat → Option (Nat × Nat × Nat)
  | 0, _, _ => none
  | rows + 1, r, u =>
    let d := dst + r * stride
    let k := rowUnits d len
    if u < k then
      let from_ := if u = 0 then 0 else 128 * u - d % 128
      let to_ := min len (128 * (u + 1) - d % 128)
      some (r, from_, to_ - from_)
    else unitPlace dst stride len rows (r + 1) (u - k)

/-- The addresses of a copy command. -/
def CmdKind.copyAddrs : CmdKind → Nat × Nat
  | .ccopy _ _ src dst _ => (src.toNat, dst.toNat)
  | .cgather _ _ src dst _ => (src.toNat, dst.toNat)
  | .cjoin _ _ src dst => (src.toNat, dst.toNat)
  | _ => (0, 0)

/-- Source bytes for destination bytes: half of them for 16-byte cells. -/
def CopyCfg.sourceBytes (g : CopyCfg) (n : Nat) : Nat := if g.mode = 2 && g.jw = 3 then n / 2 else n

/-- Unit `u` of a copy command (R130, R136). -/
def State.copyUnit (s : State) (c : Context) (k : CmdKind) (u : Nat) : Option CopyUnit :=
  match k.cfg with
  | none => none
  | some g =>
    let dst := k.copyAddrs.2
    match unitPlace dst g.dstride g.dstLen g.rows 0 u with
    | none => none
    | some (r, o, n) =>
      let row := match k with
        | .cgather _ _ src _ ix => s.gatherRow c g src.toNat (ix.toNat - windowBase) r
        | _ => k.copyAddrs.1 + r * g.sstride
      some { row := r, off := g.sourceBytes o, src := row + g.sourceBytes o, dst := dst + r * g.dstride + o, n := g.sourceBytes n, dn := n }

/-- A unit of a row whose index has been read already: it starts where that index said (R261). -/
def Cmd.fixRow (m : Cmd) (x : CopyUnit) : CopyUnit :=
  match m.row with
  | some (r, at_) => if r = x.row then { x with src := at_ + x.off } else x
  | none => x

/-- POISON where a CGATHER reads a marked index for a new row (R261, R350). -/
def State.markedRow (s : State) (c : Context) (m : Cmd) (x : CopyUnit) : Option FaultInfo :=
  match m.kind with
  | .cgather _ _ _ _ ix =>
    let o := ix.toNat - windowBase + 4 * x.row
    if (m.row.map (fun r => r.1)) != some x.row && anyMark (s.sliceMarks c o 4) then some (faultAtVa .poison (windowBase + o))
    else none
  | _ => none

/-- What reading a unit's source gives. -/
inductive UnitData where
  | ok (x marks : Nat)
  | fault (f : FaultInfo)
  | wait
deriving DecidableEq, Repr

/-- The state in which a copy reads a line of a type (R132). -/
def lineReadable (ty : Nat) (md : BitVec 8) : Except FaultCode Bool :=
  if ty = 0 then .ok true
  else if mdPoison md then .error .poison
  else if ty = 1 then .ok (decide (mdState md ≠ 0))
  else if mdState md = 2 then .ok true else .error .prematureRead

/-- `n` bytes of one line read at an address (R132, R343), at a gateway that may answer or at its home. -/
def readPart (c : Context) (va n : Nat) : M UnitData := do
  match (← copyPlace c .read false (refuseSource c.sys) n va) with
  | .error f => return .fault f
  | .ok p =>
    let s ← get
    match p with
    | .page l =>
      let key := l.key va
      if c.outs.any (fun o => o.store && o.line == key / 128) then return .wait
      match (← gateRead c.core c.asid key va l.gen (fun x => lineReadable x.ty x.md matches .ok true)) with
      | some x => return .ok (x.bytes (va % 128) n) (x.markBits (va % 128) n)
      | none =>
        match s.homeCode l va (dieOf c.core) with
        | some code => return .fault (s.answerFault c.asid code (BitVec.ofNat 64 va))
        | none =>
          modify fun s => s.countRead c l va
          match lineReadable l.ty (s.meta_ key) with
          | .error code => return .fault (faultAtVa code va)
          | .ok false => return .wait
          | .ok true =>
            modify fun s => s.leaveReplica c.core c.asid key va l.ty l.gen
            return .ok (s.mem.readN key n) (s.mem.markBits key n)
    | .stack pa =>
      if c.outs.any (fun o => o.store && o.line == pa / 128) then return .wait
      match s.lostCode pa (dieOf c.core) with
      | some code => return .fault (faultAtVa code va)
      | none =>
        let (x, marks) ← stackBytes c.core c.asid pa n va
        return .ok x marks
    | .slice o => return .ok (s.sliceRead c o n) (s.sliceMarks c o n)
    | .chip core off => match s.chipRead core off n (BitVec.ofNat 64 va) with
      | .ok d => return .ok d.1 d.2
      | .error f => return .fault f
    | .device off => match s.deviceRead off n (BitVec.ofNat 64 va) with
      | .ok d => return .ok d.1 d.2
      | .error f => return .fault f

/-- The parts of `n` bytes at an address that lie in one line each. -/
def lineParts (va n : Nat) : List (Nat × Nat) :=
  (linesOf va n).map (fun l =>
    let a := max va (128 * l)
    (a, min (va + n) (128 * l + 128) - a))

/-- Two parts read one after the other, `n` bytes apart. -/
def UnitData.join (n : Nat) (x y : UnitData) : UnitData :=
  match x, y with
  | .wait, _ => .wait
  | _, .wait => .wait
  | .fault f, _ => .fault f
  | _, .fault f => .fault f
  | .ok a ma, .ok b mb => .ok (a + b * 2 ^ (8 * n)) (ma + mb * 2 ^ n)

/-- The source of a unit read, line by line. -/
def readParts (c : Context) : List (Nat × Nat) → M UnitData
  | [] => pure (.ok 0 0)
  | p :: rest => do
    let x ← readPart c p.1 p.2
    match x with
    | .fault f => return .fault f
    | _ =>
      let y ← readParts c rest
      return x.join p.2 y

/-- The bytes of a unit's source (R85, R132). -/
def readUnit (c : Context) (va n : Nat) : M UnitData := do
  if windowOf va != windowOf (va + n - 1) then return .fault (faultAtVa .address va)
  readParts c (lineParts va n)

/-- The joins of a unit's elements: address, value and mark of each (R129, R260); RANGE for a contribution that has none. -/
def CopyCfg.elements (g : CopyCfg) (l : Leaf) (dst n x marks : Nat) : Except FaultInfo (List (Nat × Int × Bool)) :=
  (List.range (n / g.elemBytes)).mapM (fun i =>
    let va := dst + i * g.cellBytes
    let bits := bitsOf x (8 * g.elemBytes * i) (8 * g.elemBytes)
    let mark := anyMark (bitsOf marks (g.elemBytes * i) g.elemBytes)
    if g.jw = 3 then match contribution false (BitVec.ofNat 64 bits) l.arg.toInt with
      | some v => .ok (va, v, mark)
      | none => .error (faultAtVa .range va)
    else .ok (va, (bits : Nat), mark))

/-- A message of a copy unit sent to the home of an address. -/
def State.sendUnit (s : State) (c : Context) (l : Leaf) (va : Nat) (b : Body) : State :=
  s.send { id := 0, src := .core c.core, dst := homeNode (l.key va), body := b, cnt := l.cnt, asid := c.asid
           va := BitVec.ofNat 64 va, gen := l.gen, bad := l.badPage }

/-- What performing a unit comes to. -/
inductive UnitResult where
  /-- on its way, with so many acknowledgements to come -/
  | sent (left : Nat) (s : State)
  | fault (f : FaultInfo)
  | wait

/-- The bytes of a unit written at its destination, or its messages sent (R130). -/
def State.writeUnit (s : State) (c : Context) (m : Cmd) (g : CopyCfg) (u : Nat) (x : CopyUnit) (p : Place)
    (v marks : Nat) : UnitResult :=
  let tag (va : Nat) : Tag := { who := .copy c.key m.seq u, va := BitVec.ofNat 64 va }
  match p with
  | .slice o => .sent 0 (s.sliceWrite c.key o x.n v marks)
  | .stack pa => match s.lostCode pa (dieOf c.core) with
    | some code => .fault (faultAtVa code x.dst)
    | none => .sent 0 (s.stackStore c.core pa x.n v marks)
  | .chip core off => match s.chipWrite core off x.n v marks (BitVec.ofNat 64 x.dst) with
    | .ok t => .sent 0 t
    | .error f => .fault f
  | .device off => match s.deviceWrite off x.n v (BitVec.ofNat 64 x.dst) with
    | .ok t => .sent 0 t
    | .error f => .fault f
  | .page l =>
    if l.jblock then .wait
    else match g.mode with
      | 0 => .sent 1 (s.sendUnit c l x.dst (.store (l.key x.dst) x.n (BitVec.ofNat 1024 v) (BitVec.ofNat 128 marks)
          (tag x.dst)))
      | 1 => .sent 1 (s.sendUnit c l x.dst (.fill (l.line x.dst) (BitVec.ofNat 1024 v) (anyMark marks) (tag x.dst)))
      | _ =>
        if x.dst % g.cellBytes ≠ 0 then .fault (faultAtVa .address x.dst)
        else match g.elements l x.dst x.n v marks with
          | .error f => .fault f
          | .ok es => .sent es.length (es.foldl (fun s e => s.sendUnit c l e.1 (.join
              { cell := l.key e.1, width := 8 * g.cellBytes, ty := l.ty, arg := l.arg, val := e.2.1, mark := e.2.2
                tags := [tag e.1] })) s)

/-- A line of a migration copy moved (R105): bytes, marks, metadata, watches, and the half of it that the host has written
(R398). (notes/assumptions/34.md) -/
def State.moveLine (s : State) (a b : Nat) : State :=
  let cells := s.mem.readN (128 * a) 128
  let marks := s.mem.markBits (128 * a) 128
  let s1 : State := { s with
    mem := s.mem.writeMarks (128 * b) 128 cells marks
    md := s.md.write b (s.md.read a)
    forwards := (a, b) :: s.forwards.filter (fun f => f.1 != a && f.1 != b)
    watches := s.watches.map (fun (w : Watch) =>
      if w.cell / 128 = a then { w with cell := 128 * b + w.cell % 128, home := homeNode (128 * b) } else w)
    halves := s.halves.map (fun h => if h.1 = a then (b, h.2) else h) }
  (s1.markWatched a).markWatched b

/-- A unit of a migration copy, a whole line; it does not read a line with an unacknowledged store of its context (R343), and
waits while either line is about to be poisoned (R111). A pair of pages that does not qualify, after a first pair that did,
is BAD_TYPE (notes/assumptions/43.md). -/
def migrateUnit (c : Context) (g : CopyCfg) (x : CopyUnit) : M UnitResult := do
  match (← copyPlace c .read false (refuseSource c.sys) x.n x.src), (← copyPlace c .write false (fun _ => none) x.n x.dst) with
  | .error f, _ => return .fault f
  | _, .error f => return .fault f
  | .ok (.page a), .ok (.page b) =>
    let s ← get
    if !migrates c g a b then return .fault (pageFault .badType x.dst b)
    if c.outs.any (fun o => o.store && o.line == a.line x.src) then return .wait
    if s.poisoning.contains (a.line x.src) || s.poisoning.contains (b.line x.dst) then return .wait
    match s.homeCode a x.src (dieOf c.core), s.homeCode b x.dst (dieOf c.core) with
    | some code, _ => return .fault (s.answerFault c.asid code (BitVec.ofNat 64 x.src))
    | _, some code => return .fault (s.answerFault c.asid code (BitVec.ofNat 64 x.dst))
    | none, none =>
      return .sent 0 (((s.countRead c a x.src).countRead c b x.dst).moveLine (a.line x.src) (b.line x.dst))
  | _, _ => return .fault (faultAtVa .badType x.dst)

/-- A unit performed or sent (R130, R134): its source is read, then its destination checked. -/
def performUnit (c : Context) (m : Cmd) (g : CopyCfg) (u : Nat) (x : CopyUnit) : M UnitResult := do
  let migration := match m.kind with
    | .ccopy _ _ _ _ b => b
    | _ => false
  if migration then migrateUnit c g x
  else
    match (← readUnit c x.src x.n) with
    | .wait => return .wait
    | .fault f => return .fault f
    | .ok v marks =>
      if windowOf x.dst != windowOf (x.dst + x.dn - 1) then return .fault (faultAtVa .address x.dst)
      match (← copyPlace c .write (decide (g.mode ≠ 0)) (g.refuse c.sys) x.dn x.dst) with
      | .error f => return .fault f
      | .ok p => return (← get).writeUnit c m g u x p v marks

/-! Streams and counting (R126, R130, R133 to R135). -/

/-- A command that holds a copy stream. -/
def Cmd.holdsStream (m : Cmd) : Bool :=
  m.kind.isCopy && (m.state == .started || (m.state == .stalled && !m.units.isEmpty))

/-- COPY_COMMAND_START (R133) -/
def copyCommandStart (k : Key) (seq : Nat) (s : State) : State :=
  match s.ctx? k with
  | none => s
  | some c =>
    match c.cmd? seq with
    | none => s
    | some m =>
      let earlier := s.coreCmds c.core (fun x y => y.kind.isCopy && x.readyCmd y && decide (y.stamp < m.stamp))
      if m.kind.isCopy && c.readyCmd m && earlier.isEmpty &&
          decide ((s.coreCmds c.core (fun _ y => y.holdsStream)).length < 4) then
        s.modCmd k seq (fun m => { m with state := .started })
      else s

/-- COPY_COMMAND_START (R133) -/
def execCopyCommandStart (k : Key) (seq : Nat) (s : State) : Host.Outcome State Fault Refusal :=
  event (copyCommandStart k seq) s

/-- Bytes counted for a command: into its barrier when it has one, whose phase is noted (R126, R264). -/
def State.countBytes (s : State) (k : Key) (seq n : Nat) : State :=
  match s.ctx? k with
  | none => s
  | some c =>
    match c.cmd? seq with
    | none => s
    | some m =>
      let s1 := s.modCmd k seq (fun m => { m with bytes := m.bytes + n, phase := match m.kind.barrier with
        | some off => c.phaseOf off
        | none => none })
      match m.kind.barrier with
      | some off => s1.countUnit k off n
      | none => s1

/-- The units counted in copy order as far as they are performed; at the first that faults the rest is abandoned, and the
command completes with its fault once nothing it has issued is outstanding (R130, R134). `n` bounds the units looked at. -/
def State.countUnits (s : State) (k : Key) (seq : Nat) : Nat → State
  | 0 => s
  | n + 1 =>
    match s.ctx? k with
    | none => s
    | some c =>
      match c.cmd? seq with
      | none => s
      | some m =>
        let total := match m.kind.cfg with
          | some g => g.rows * g.len
          | none => 0
        match m.units with
        | [] => if m.bytes = total then s.completeCmd k seq none else s
        | x :: rest =>
          if x.left ≠ 0 then s
          else match x.fault with
            | some f =>
              if rest.all (fun y => decide (y.left = 0)) then
                ((s.countBytes k seq (total - m.bytes)).modCmd k seq (fun m => { m with units := [] })).completeCmd k seq
                  (some f)
              else s
            | none =>
              ((s.countBytes k seq x.n).modCmd k seq
                (fun m => { m with units := rest, counted := m.counted + 1 })).countUnits k seq n

/-- The number of the next unit a command issues. -/
def Cmd.nextUnit (m : Cmd) : Nat := m.counted + m.units.length

/-- An earlier unit of the command that is not performed writes bytes of this one (R131). (notes/assumptions/42.md) -/
def State.unitWaits (s : State) (c : Context) (m : Cmd) (x : CopyUnit) : Bool :=
  m.units.any (fun y => decide (y.left ≠ 0) && (match s.copyUnit c m.kind y.u with
    | some z => overlaps x.dst x.dn z.dst z.dn
    | none => false))

/-- The next unit issued: a TRANSLATION fault stalls the command at it, another fault is kept with it (R134).
(notes/assumptions/42.md) -/
def State.issueUnit (s : State) (c : Context) (m : Cmd) (g : CopyCfg) (u : Nat) (x : CopyUnit) : State :=
  if s.unitWaits c m x || m.units.any (fun y => y.fault.isSome) then s
  else match s.runM (match s.markedRow c m x with
      | some f => pure (.fault f)
      | none => performUnit c m g u x) with
    | none => s
    | some (r, s1) =>
      let add (s : State) (left : Nat) (f : Option FaultInfo) : State := s.modCmd c.key m.seq (fun m =>
        { m with
          units := m.units ++ [{ u := u, n := x.n, left := left, fault := f }]
          row := some (x.row, x.src - x.off) })
      match r with
      | .wait => s
      | .sent left s2 => add s2 left none
      | .fault f => if f.code == .translation then s1.stallCmd c m f else add s1 0 (some f)

/-- COPY_UNIT_PERFORMED (R130): the next unit of a running copy is issued, and what is performed is counted in copy order. The
units issued for a context on its way to its frame are performed and counted, and no more are issued (R359). -/
def copyUnitPerformed (k : Key) (seq u : Nat) (s : State) : State :=
  match s.ctx? k with
  | none => s
  | some c =>
    match c.cmd? seq with
    | none => s
    | some m =>
      if !m.kind.isCopy || c.slot.isNone || (m.state != .started && m.state != .stalled) then s
      else
        let s1 := if u = m.nextUnit && m.state == .started && c.engaged then
            match m.kind.cfg, s.copyUnit c m.kind u with
            | some g, some x => s.issueUnit c m g u (m.fixRow x)
            | _, _ => s
          else s
        s1.countUnits k seq (m.units.length + 2)

/-- COPY_UNIT_PERFORMED (R130) -/
def execCopyUnitPerformed (k : Key) (seq u : Nat) (s : State) : Host.Outcome State Fault Refusal :=
  event (copyUnitPerformed k seq u) s

end Sys2Proof.Machine
end

