-- ==== Sys2Proof/Machine/Lamp.lean ====
section
/-! DEFINITION. Lamp banks: configuration, sparks and their queues, runs and their steps
(spec/08_arithmetic_units.md R185 to R192, spec/11 R273 to R278, spec/14 R359). -/
namespace Sys2Proof.Machine

/-! Addresses and configurations (R185 to R188). -/

/-- The core of a lamp address. -/
def lampCore (a : BitVec 26) : Nat := bitsOf a.toNat 0 10

/-- Its tile. -/
def lampTile (a : BitVec 26) : Nat := bitsOf a.toNat 10 4

/-- Its cell. -/
def lampCell (a : BitVec 26) : Nat := bitsOf a.toNat 14 12

/-- The context whose tile a lamp address names, for an emitter: the emitter on its own core, else its crew's member there
(R185). -/
def State.lampOwner (s : State) (e : Context) (a : BitVec 26) : Option Context :=
  if lampCore a = e.core then some e
  else match e.crew with
    | none => none
    | some w => s.allCtxs.find? (fun c => c.crew == some w && c.core == lampCore a)

/-- The fields of a fan-out entry (R187): target, delay and weight. -/
def fanEntry (x : Nat) : BitVec 26 × Nat × BitVec 16 :=
  (BitVec.ofNat 26 (bitsOf x 0 26), bitsOf x 26 6, BitVec.ofNat 16 (bitsOf x 32 16))

/-- Step 4 of R188 for one entry; a marked one is POISON (R350). (notes/assumptions/44.md, 75.md) -/
def checkEntry (g : LampCfg) (i : Nat) : M Unit := do
  let at_ := g.entries + 8 * i
  checkSlice [(at_, 8)] []
  let s ← get
  check (!s.sliceMarked s.cur at_ 8) .poison
  let x := s.sliceRead s.cur at_ 8
  check (decide (bitsOf x 26 6 ≠ 0) && decide (bitsOf x 0 10 ≤ 767) && decide (bitsOf x 48 16 = 0)) .illegalOperand

/-- Steps 2 to 4 of R188 on the configuration at an offset. R188 does not place DISCARD_READ, barrier objects and slot areas
(R255): they stand with the range they concern, index and log in step 3, each entry's own before its delay and its core
(notes/assumptions/44.md). Marked bytes are POISON where they are read (notes/assumptions/75.md). -/
def checkLampCfg (off : Nat) : M Unit := do
  let s ← get
  check (!s.sliceMarked s.cur off 64) .poison
  let x := s.sliceRead s.cur off 64
  let g := lampCfgOf x
  check (decide (0 ≤ g.theta) && decide (g.leak ≤ 30) && lampReservedOk x && decide (g.p ≠ 0) &&
    decide (g.fanidx % 4 = 0) && decide (g.entries % 8 = 0) && decide (g.log % 8 = 0)) .illegalOperand
  checkSlice [(g.fanidx, 16384)] (if g.logcap = 0 then [] else [(g.log, 8 * g.logcap)])
  if s.cur.loadWaits g.fanidx 16384 then throw .stall
  check (!s.sliceMarked s.cur g.fanidx 16384) .poison
  let image := s.sliceImage s.cur
  (List.range 4096).forM (fun cell => do
    let f := g.fanOut image cell
    if s.cur.loadWaits (g.entries + 8 * f.1) (8 * f.2) then throw .stall
    (List.range f.2).forM (fun i => checkEntry g (f.1 + i)))

/-- The sparks queued for a tile dropped (R191). -/
def State.dropSparks (s : State) (c : Context) (t : Nat) : State :=
  s.modCore c.core (fun k => { k with sparks := k.sparks.filter (fun x => !(x.key == some c.key && lampTile x.target == t)) })

/-- FIRED and STEP written into the slice copy (R186, R189). -/
def State.writeBank (s : State) (k : Key) (off fired step : Nat) : State :=
  (s.sliceWrite k (off + 24) 4 fired 0).sliceWrite k (off + 48) 4 step 0

/-- The members, ended ones too, that a context's crew has on the context's core (R185). -/
def State.crewOn (s : State) (c : Context) : Nat :=
  match s.crews.find? (fun w => some w.id == c.crew) with
  | some w => (w.members.filter (fun m => m.1 == c.core)).length
  | none => 0

/-- LCFG of R274: with THETA = 0 only THETA is read, and no check but its own follows that of the slice. -/
def lcfgBody (tile off : Scalar) : M Flow := do
  checkSrc tile
  checkSrc off
  let gt ← readClean tile
  let go ← readClean off
  check (decide (wbits gt 4 60 = 0) && decide (wbits go 21 43 = 0)) .illegalOperand
  check (decide (wbits go 0 6 = 0)) .illegalOperand
  let t := gt.toNat
  let o := go.toNat
  let s ← get
  let c := s.cur
  if c.tileWaits t || (c.sliceFits o 64 && s.storeWaits c o 64) then throw .stall
  checkCount t
  check (c.sliceFits o 64) .scratchBound (sliceVa o)
  checkSlice [(o + 4, 4)] []
  if (lampCfgOf (s.sliceRead c o 64)).theta = 0 then
    check (!s.sliceMarked c (o + 4) 4) .poison
    modCur fun c => { c with lampCfg := c.lampCfg.set (t % 16) none }
    modify fun s => s.dropSparks s.cur t
    return .done
  checkLive t
  checkSlice [(o, 64)] []
  checkLampCfg o
  check (decide (s.crewOn c ≤ 1)) .illegalOperand
  modify fun s => (s.dropSparks s.cur t).writeBank s.cur.key o 0 (lampCfgOf (s.sliceRead s.cur o 64)).first
  modCur fun c => { c with lampCfg := c.lampCfg.set (t % 16) (some o) }
  return .done

/-- LCFG (R274) -/
def execLcfg (tile off : Scalar) (s : State) : Host.Outcome State Fault Refusal := issue (.lcfg tile off) (lcfgBody tile off) s

/-! Acceptance (R275 to R278). -/

/-- LSPARK of R275. That an id of 63 is found before a target core above 767, and that a target which resolves to an ended crew
member is refused here, are the model's choices (notes/assumptions/80.md). -/
def lsparkBody (ra rb : Scalar) : M Flow := do
  checkSrc ra
  checkSrc rb
  let a ← readClean ra
  let b ← readClean rb
  check (decide (wbits a 48 16 = 0) && decide (wbits a 26 6 = 0) && decide (wbits b 0 14 = 0)) .illegalOperand
  checkId (wbits b 14 6)
  let target := BitVec.ofNat 26 (wbits a 0 26)
  check (decide (lampCore target ≤ 767)) .illegalOperand
  let k : CmdKind := .lspark a b
  stallsAccept (some (wbits b 14 6)) [wbits b 20 6, wbits b 26 6] k
  let s ← get
  check ((s.lampOwner s.cur target).isSome) .illegalOperand
  acceptCmd (some (wbits b 14 6)) [wbits b 20 6, wbits b 26 6] k
  return .done

/-- LSPARK (R275) -/
def execLspark (a b : Scalar) (s : State) : Host.Outcome State Fault Refusal := issue (.lspark a b) (lsparkBody a b) s

/-- LRUN of R276: THETA = 0 is refused before the checks of R188, and STEP + N after them (notes/assumptions/44.md). The run
keeps the slice as it stands now for its configuration, index and entries. -/
def lrunBody (ra rb : Scalar) : M Flow := do
  checkSrc ra
  checkSrc rb
  let a ← readClean ra
  let b ← readClean rb
  check (decide (wbits a 4 28 = 0) && decide (wbits a 32 32 ≠ 0) && decide (wbits b 32 32 = 0) &&
    decide (wbits b 0 14 = 0)) .illegalOperand
  checkId (wbits b 14 6)
  let k : CmdKind := .lrun a b
  stallsAccept (some (wbits b 14 6)) [wbits b 20 6, wbits b 26 6] k
  let t := wbits a 0 4
  checkCount t
  let s ← get
  match s.cur.lampCfg[t % 16]'(Nat.mod_lt _ (by decide)) with
  | none => raise .illegalOperand
  | some o =>
    checkSlice [(o, 64)] []
    let g := lampCfgOf (s.sliceRead s.cur o 64)
    check (!s.sliceMarked s.cur (o + 4) 4) .poison
    check (decide (g.theta ≠ 0)) .illegalOperand
    checkLampCfg o
    check (decide (g.step + wbits a 32 32 ≤ 2 ^ 32)) .illegalOperand
    let seq := (← cur).nextCmd
    acceptCmd (some (wbits b 14 6)) [wbits b 20 6, wbits b 26 6] k
    let image := s.sliceImage s.cur
    modCur fun c => { c with cmds := c.cmds.map (fun m => if m.seq = seq then { m with bank := image, fired := g.fired } else m) }
    return .done

/-- LRUN (R276) -/
def execLrun (a b : Scalar) (s : State) : Host.Outcome State Fault Refusal := issue (.lrun a b) (lrunBody a b) s

/-- The tile of a run. -/
def CmdKind.runTile : CmdKind → Option Nat
  | .lrun a _ => some (wbits a 0 4)
  | _ => none

/-- LSTOP of R277: a run that has started is asked to end, in its frame and out of it (R192); one that has not completes. -/
def lstopBody (t : Scalar) : M Flow := do
  checkSrc t
  let x ← readClean t
  check (decide (wbits x 4 60 = 0)) .illegalOperand
  checkCount x.toNat
  let c ← cur
  check ((c.lampCfg[x.toNat % 16]'(Nat.mod_lt _ (by decide))).isSome) .illegalOperand
  let ms := c.cmds.filter (fun m => m.incomplete && m.kind.runTile == some x.toNat)
  modify fun s => ms.foldl (fun s m =>
    if m.state == .accepted then s.completeCmd c.key m.seq none
    else s.modCmd c.key m.seq (fun m => { m with stopAsked := true })) s
  return .done

/-- LSTOP (R277) -/
def execLstop (t : Scalar) (s : State) : Host.Outcome State Fault Refusal := issue (.lstop t) (lstopBody t) s

/-- LWAIT (R278) -/
def execLwait (d id : Scalar) (s : State) : Host.Outcome State Fault Refusal :=
  issue (.lwait d id) (waitEngine CmdKind.isLamp d id) s

/-! Sparks (R190). -/

/-- A spark under way to the queue of its target's core. (notes/assumptions/44.md) -/
def State.emit (s : State) (e : Context) (seq : Nat) (target : BitVec 26) (weight : BitVec 16) (step : Nat) : State :=
  let x : Spark := { target := target, key := none, weight := weight, step := step % 2 ^ 32, emitter := e.key, seq := seq
                     order := s.nextSeq }
  ({ s with nextSeq := s.nextSeq + 1 }.modCore (lampCore target) (fun k => { k with sparks := k.sparks ++ [x] })).modCmd
    e.key seq (fun m => { m with unsettled := m.unsettled + 1 })

/-- A bank has begun the integration of its step: a run of it is past it (R190). -/
def Context.stepBegun (c : Context) (t : Nat) : Bool :=
  c.cmds.any (fun m => m.incomplete && m.kind.runTile == some t && m.lamp != .integrate)

/-- The STEP of a bank (R190): that of its incomplete run, else the slice copy's, in the frame where the slice is there. -/
def State.bankStep (s : State) (c : Context) (t off : Nat) : Nat :=
  match c.cmds.find? (fun m => m.incomplete && m.state != .accepted && m.kind.runTile == some t) with
  | some m => (lampCfgOf (m.bank.readN off 64)).step + m.steps
  | none =>
    if c.slot.isSome then s.sliceRead c (off + 48) 4
    else if c.discLines.contains ((off + 48) / 128) then 0
    else s.mem.readN (s.frameAt c.key + 0x5000 + off + 48) 4

/-- Why a spark that has reached its target's core is dropped, or whose it is (R190). -/
def State.sparkFate (s : State) (x : Spark) : Except FaultCode Key :=
  let owner := match s.ctx? x.emitter with
    | some e => s.lampOwner e x.target
    | none => none
  match owner with
  | none => .error .accBound
  | some c =>
    let t := lampTile x.target
    match c.lampCfg[t % 16]'(Nat.mod_lt _ (by decide)) with
    | none => .error .accBound
    | some o =>
      let step := s.bankStep c t o
      if x.step < step || (x.step = step && c.stepBegun t) then .error .range else .ok c.key

/-- The faults of a command's sparks: the earliest emission's, the others counted (R192). -/
def Cmd.sparkFault (m : Cmd) : Option FaultInfo :=
  let best := m.sparkFaults.foldl (fun (acc : Option (Nat × FaultInfo)) x => match acc with
    | some y => if y.1 ≤ x.1 then some y else some x
    | none => some x) none
  best.map (fun y => { y.2 with more := min 255 (m.sparkFaults.length - 1) })

/-- A spark settled at the command that emitted it; an LSPARK is then complete (R275). -/
def State.settleSpark (s : State) (x : Spark) (code : Option FaultCode) : State :=
  let s1 := s.modCmd x.emitter x.seq (fun m => { m with
    unsettled := m.unsettled - 1
    sparkFaults := match code with
      | some e => m.sparkFaults ++ [(x.order, { code := e, addr := x.target.setWidth 64 })]
      | none => m.sparkFaults })
  match s1.ctx? x.emitter with
  | none => s1
  | some c => match c.cmd? x.seq with
    | none => s1
    | some m => match m.kind with
      | .lspark .. => s1.completeCmd x.emitter x.seq m.sparkFault
      | _ => s1

/-- The sparks under way. -/
def State.sparksUnderWay (s : State) : List Spark := s.cores.flatMap (fun k => k.sparks.filter (fun x => x.key.isNone))

/-- SPARK_ARRIVAL (R190): the i-th spark under way reaches its queue, or is dropped. -/
def sparkArrival (i : Nat) (s : State) : State :=
  match s.sparksUnderWay[i]? with
  | none => s
  | some x =>
    let core := lampCore x.target
    let others (k : Core) : List Spark := k.sparks.filter (fun y => y.order != x.order)
    match s.sparkFate x with
    | .ok key =>
      let y : Spark := { x with key := some key }
      (s.modCore core (fun k => { k with sparks := others k ++ [y] })).settleSpark x none
    | .error code => (s.modCore core (fun k => { k with sparks := others k })).settleSpark x (some code)

/-- SPARK_ARRIVAL (R190) -/
def execSparkArrival (i : Nat) (s : State) : Host.Outcome State Fault Refusal := event (sparkArrival i) s

/-! Steps (R189). -/

/-- What a cell's fan-out emits at step `t`, by the tables of the run's acceptance (R276). -/
def State.fireCell (s : State) (c : Context) (m : Cmd) (g : LampCfg) (t cell : Nat) : State :=
  let f := g.fanOut m.bank cell
  (List.range f.2).foldl (fun s i =>
    let e := fanEntry (m.bank.readN (g.entries + 8 * (f.1 + i)) 8)
    s.emit c m.seq e.1 e.2.2 (t + e.2.1)) s

/-- The exact sum of the weights queued for a cell at a step. -/
def weightSum (xs : List Spark) (t cell : Nat) : Int :=
  (xs.filter (fun x => decide (x.step = t) && lampCell x.target == cell)).foldl (fun a x => a + x.weight.toInt) 0

/-- Saturation to a signed 32-bit number. -/
def saturate32 (x : Int) : Int := max (-(2 ^ 31)) (min (2 ^ 31 - 1) x)

/-- One cell's part of LampStep; `fired` counts on. -/
def State.stepCell (s : State) (c : Context) (m : Cmd) (tile : Nat) (g : LampCfg) (t : Nat) (xs : List Spark)
    (fired cell : Nat) : State × Nat :=
  let w := s.tileWordOf c tile cell
  let v0 := signed 32 w.1
  let v1 := if g.leak = 0 then v0 else v0 - v0 / 2 ^ g.leak
  let v := saturate32 (v1 + weightSum xs t cell)
  let put (s : State) (x : Int) : State :=
    { s with acc := s.acc.writeN (c.tileWord tile cell) 4 (unsignedOf 32 x) w.2 }
  if v < g.theta then (put s v, fired)
  else
    let s1 := if fired < g.logcap then
        s.sliceWrite c.key (g.log + 8 * fired) 8 (t % 2 ^ 32 + cell * 2 ^ 32 + tile * 2 ^ 44) 0
      else s
    (put (s1.fireCell c m g t cell) (if g.reset then 0 else v - g.theta), min (fired + 1) (2 ^ 32 - 1))

/-- The integration of a step: every cell in order, and the sparks it used are gone. -/
def State.integrate (s : State) (c : Context) (m : Cmd) (tile : Nat) (g : LampCfg) : State :=
  let t := g.step
  let mine (x : Spark) : Bool := x.key == some c.key && lampTile x.target == tile && decide (x.step = t)
  let xs := (s.core c.core).sparks.filter mine
  let r := (List.range 4096).foldl (fun (p : State × Nat) cell => p.1.stepCell c m tile g t xs p.2 cell) (s, g.fired)
  (r.1.modCore c.core (fun k => { k with sparks := k.sparks.filter (fun x => !mine x) })).modCmd c.key m.seq
    (fun m => { m with fired := r.2, lamp := .settle })

/-- The end of a step (R189, R192): FIRED and STEP are written; the run goes on, or is complete. A fault of the barrier comes
before the spark faults, which are counted. A run that LSTOP has asked to end completes without a fault (R277). -/
def State.endStep (s : State) (c : Context) (m : Cmd) (off : Nat) (g : LampCfg) (f : Option FaultInfo) : State :=
  let s1 := s.writeBank c.key off m.fired (g.step + 1)
  let total := match m.kind with
    | .lrun a _ => wbits a 32 32
    | _ => 0
  if m.stopAsked then s1.completeCmd c.key m.seq none
  else match f with
  | some x => s1.completeCmd c.key m.seq (some { x with more := min 255 m.sparkFaults.length })
  | none =>
    if total ≤ m.steps + 1 then s1.completeCmd c.key m.seq m.sparkFault
    else s1.modCmd c.key m.seq (fun m => { m with steps := m.steps + 1, lamp := .integrate })

/-- The barrier cell's page for a join or a test (R189, R219), or the fault that stops there. -/
def barrierPage (c : Context) (kind : AccessKind) (va : Nat) : M (Except FaultInfo Leaf) := do
  match (← copyPlace c kind true (onlyTypes (fun ty => decide (ty = 9))) 1 va) with
  | .error f => return .error f
  | .ok (.page l) =>
    if va % 8 ≠ 0 then return .error (faultAtVa .address va)
    match (← get).homeCode l va (dieOf c.core) with
    | some code => return .error ((← get).answerFault c.asid code (BitVec.ofNat 64 va))
    | none => return .ok l
  | .ok _ => return .error (faultAtVa .address va)

/-- The barrier join of a step, performed at its home (R189, R192). -/
def State.barrierJoin (s : State) (c : Context) (m : Cmd) (off : Nat) (g : LampCfg) : State :=
  match s.runM (barrierPage c .write g.barrier) with
  | none => s
  | some (.error f, s1) => if f.code == .translation then s1.stallCmd c m f else s1.endStep c m off g (some f)
  | some (.ok l, s1) =>
    if l.jblock then s
    else
      let j : JoinReq := { cell := l.key g.barrier, width := 64, ty := 9, arg := l.arg, val := 1, rel := true, tags := [] }
      let r := ((s1.countRead c l g.barrier).joinAt j)
      match r.2 with
      | some code => r.1.endStep c m off g (some (faultAtVa code g.barrier))
      | none => r.1.modCmd c.key m.seq (fun m => { m with lamp := .waiting })

/-- The barrier wait of a step: tested at its home, which counts the test once, however long it is held (R101, R189, R192). -/
def State.barrierWait (s : State) (c : Context) (m : Cmd) (off : Nat) (g : LampCfg) : State :=
  match s.runM (barrierPage c .read g.barrier) with
  | none => s
  | some (.error f, s1) => if f.code == .translation then s1.stallCmd c m f else s1.endStep c m off g (some f)
  | some (.ok l, s1) =>
    let trig := BitVec.ofInt 64 ((g.p : Int) * ((g.step : Int) + 1 - g.first))
    let s2 := if m.lamp = .asked then s1
      else (s1.countTest c l g.barrier).modCmd c.key m.seq (fun m => { m with lamp := .asked })
    match testAt l g.barrier (.await trig) s2 with
    | none => s2
    | some r => s2.endStep c m off g (r.code.map (fun code => faultAtVa code g.barrier))

/-- A started run carried on by its own configuration (R276): integration, then the barrier join once its sparks are settled,
then the barrier wait. A context on its way to its frame begins no step and waits no further (R359). -/
def State.runStep (s : State) (c : Context) (m : Cmd) (tile : Nat) : State :=
  match c.bankIn tile m.bank with
  | none => s
  | some (off, g0) =>
    let g : LampCfg := { g0 with step := g0.step + m.steps, fired := m.fired }
    match m.lamp with
    | .integrate => if c.engaged then s.integrate c m tile g else s
    | .settle => if m.unsettled = 0 then s.barrierJoin c m off g else s
    | .waiting | .asked => if c.engaged then s.barrierWait c m off g else s

/-- LAMP_STEP (R189): a ready lamp command starts; a run goes on with its step. -/
def lampStep (k : Key) (seq : Nat) (s : State) : State :=
  match s.ctx? k with
  | none => s
  | some c =>
    match c.cmd? seq with
    | none => s
    | some m =>
      match m.kind with
      | .lspark a b =>
        if c.readyCmd m then
          (s.modCmd k seq (fun m => { m with state := .started })).emit c seq (BitVec.ofNat 26 (wbits a 0 26))
            (BitVec.ofNat 16 (wbits a 32 16)) (wbits b 32 32)
        else s
      | .lrun a _ =>
        if c.readyCmd m then
          (s.modCmd k seq (fun m => { m with state := .started })).runStep c m (wbits a 0 4)
        else if c.slot.isSome && m.state == .started then s.runStep c m (wbits a 0 4)
        else s
      | _ => s

/-- LAMP_STEP (R189) -/
def execLampStep (k : Key) (seq : Nat) (s : State) : Host.Outcome State Fault Refusal := event (lampStep k seq) s

end Sys2Proof.Machine
end

