-- ==== Sys2Proof/Machine/Frames.lean ====
section
/-! DEFINITION. The service table, frames and their layout, room on a core, saving and restoring a context
(spec/14_faults_and_preemption.md R355 to R360, spec/12_tasks_and_scheduling.md R310, R312, spec/06 R140, spec/15 R365). -/
namespace Sys2Proof.Machine

/-! The service table (R365). -/

/-- The fault queue of an address space; 0 for none. -/
def State.faultQueue (s : State) (asid : BitVec 12) : Nat := (s.svcWord asid 0).toNat

/-- The frames an address space has (R355). -/
def State.frameCount (s : State) (asid : BitVec 12) : Nat := wbits (s.svcWord asid 2) 0 16

/-- The stack of each context in bytes (R306). -/
def State.stackBytes (s : State) (asid : BitVec 12) : Nat := wbits (s.svcWord asid 2) 16 13 * 4096

/-- The stack area of an address space. -/
def State.stackArea (s : State) (asid : BitVec 12) : Nat := wbits (s.svcWord asid 3) 12 40 * 4096

/-- A frame is held from task start until the context's end (R355). -/
def State.frameHeld (s : State) (asid : BitVec 12) (n : Nat) : Bool :=
  s.allCtxs.any (fun c => c.key.asid == asid && decide (c.key.ctxid.toNat = n))

/-- The frame a task of an address space gets: the head of the model's list where it is free, else the lowest free one
(notes/assumptions/6.md). -/
def State.freeFrame (s : State) (asid : BitVec 12) : Option (BitVec 16) :=
  let ok (n : Nat) : Bool := decide (n < s.frameCount asid) && !s.frameHeld asid n
  let pick := match s.framePool with
    | n :: _ => if ok n then some n else none
    | [] => none
  match pick with
  | some n => some (BitVec.ofNat 16 n)
  | none => ((List.range (s.frameCount asid)).find? ok).map (BitVec.ofNat 16)

/-- The head of that list used up. -/
def State.popFrame (s : State) : State := { s with framePool := s.framePool.tail }

/-! Suspended queues (R368). -/

/-- The launch of a number came through a queue that is suspended. -/
def State.launchSuspended (s : State) (id : Nat) : Bool :=
  match s.launch? id with
  | some l => match l.queue with
    | some q => s.queues[q].suspend
    | none => false
  | none => false

/-! Room on a core (R310, R312, R140). -/

/-- The runs of 4 KiB units of a core's scratchpad that are held, but for those of the contexts `gone`. -/
def State.heldRuns (s : State) (core : Nat) (gone : List Key) : List (Nat × Nat) :=
  ((s.residents core).filter (fun c => !c.inH && !gone.contains c.key)).map (fun c => (c.base, c.foot)) ++
    s.crews.flatMap (fun w => (w.reserved.filter (fun r => r.1 == core)).map (fun r =>
      (r.2.base, match w.keys.find? (fun k => (s.ctx? k).any (fun c => c.core == core)) with
        | some k => ((s.ctx? k).map (fun c => c.foot)).getD 0
        | none => ((w.members.find? (fun m => m.1 == core)).map (fun m => m.2.foot)).getD 0)))

/-- The tiles of a core that are held. -/
def State.heldTiles (s : State) (core : Nat) (gone : List Key) : List Nat :=
  ((s.residents core).filter (fun c => !gone.contains c.key)).flatMap (fun c => c.tileMap.take c.tiles) ++
    s.crews.flatMap (fun w => (w.reserved.filter (fun r => r.1 == core)).flatMap (fun r => r.2.tiles))

/-- The slots of a core that are held. -/
def State.heldSlots (s : State) (core : Nat) (gone : List Key) : List Slot :=
  ((s.residents core).filter (fun c => !gone.contains c.key)).filterMap (fun c => c.slot) ++
    s.crews.flatMap (fun w => (w.reserved.filter (fun r => r.1 == core)).map (fun r => r.2.slot))

/-- Room for FOOT and TILES in one of the slots A to C, the first free run and the first free tiles.
(notes/assumptions/46.md) -/
def State.room (s : State) (core foot tiles : Nat) (gone : List Key) : Option Room :=
  let slots := s.heldSlots core gone
  let runs := s.heldRuns core gone
  let used := s.heldTiles core gone
  let freeTiles := (List.range 16).filter (fun t => !used.contains t)
  match [Slot.a, Slot.b, Slot.c].find? (fun x => !slots.contains x),
      (List.range (513 - foot)).find? (fun b => runs.all (fun r => !overlaps b foot r.1 r.2)) with
  | some x, some b => if tiles ≤ freeTiles.length then some { slot := x, base := b, tiles := freeTiles.take tiles } else none
  | _, _ => none

/-- The place of a slot in the order of their letters. -/
def Slot.order : Slot → Nat
  | .h => 0 | .a => 1 | .b => 2 | .c => 3

/-- A parked context that may be evicted: every command it has accepted is complete (R312). -/
def Context.evictable (c : Context) : Bool :=
  c.parkedAt.isSome && !c.inH && c.slot.isSome && !c.cmds.any Cmd.incomplete

/-- No member of a context's crew that stands in a slot holds an incomplete command: an eviction takes them all (R326), and what
is evicted has none (R312, R357). -/
def State.crewDone (s : State) (c : Context) : Bool :=
  match c.crew with
  | none => true
  | some w => s.allCtxs.all (fun x => x.crew != some w || x.slot.isNone || !x.cmds.any Cmd.incomplete)

/-- The contexts of a core that may be evicted, longest-parked first, ties by slot letter. -/
def State.evictables (s : State) (core : Nat) : List Context :=
  ((s.residents core).filter (fun c => c.evictable && s.crewDone c)).mergeSort (fun x y =>
    let a := x.parkedAt.getD 0
    let b := y.parkedAt.getD 0
    decide (a < b) || (decide (a = b) && decide ((x.slot.map Slot.order).getD 0 ≤ (y.slot.map Slot.order).getD 0)))

/-- The shortest beginning of the list of evictable contexts whose eviction makes room, with the room.
(notes/assumptions/46.md) -/
def State.roomAfter (s : State) (core foot tiles : Nat) : List Context → List Key → Option (List Key × Room)
  | [], gone => (s.room core foot tiles gone).map (fun r => (gone, r))
  | c :: rest, gone => match s.room core foot tiles gone with
    | some r => some (gone, r)
    | none => s.roomAfter core foot tiles rest (gone ++ [c.key])

/-- Whether FOOT and TILES could be taken by a core under R312. -/
def State.couldFit (s : State) (core foot tiles : Nat) : Bool :=
  (s.room core foot tiles ((s.evictables core).map (fun c => c.key))).isSome

/-! Saving (R356, R359). -/

/-- Nothing of the context's commands is still under way (R359). -/
def Context.settled (c : Context) : Bool :=
  c.cmds.all (fun m => !m.incomplete || (
    if m.kind.isCopy then m.units.isEmpty
    else if m.kind.isMatrix then m.state != .started
    else match m.kind with
      | .lspark .. => true
      | _ => m.state != .started || m.lamp != .settle))

/-- A command as a record: it starts again from where it stands, an LSPARK with its spark still to be sent; a run goes on
where it waits, at a barrier or between two steps (R359). -/
def Cmd.record (m : Cmd) : Cmd :=
  if m.state == .started && m.kind.runTile.isNone then { m with state := .accepted, unsettled := 0 } else m

/-- The sparks of a context's banks taken out of its core's queue into the frame, and those of its LSPARK commands that no queue
has accepted taken back (R359). -/
def State.takeSparks (s : State) (c : Context) : State × List Spark :=
  let ofSpark (x : Spark) : Bool := x.emitter == c.key && x.key.isNone && c.cmds.any (fun m => m.seq == x.seq && m.kind.runTile.isNone)
  let mine := (s.core c.core).sparks.filter (fun x => x.key == some c.key)
  ({ s with cores := s.cores.map (fun k => { k with
      sparks := k.sparks.filter (fun x => !(k.num == c.core && x.key == some c.key) && !ofSpark x) }) }, mine)

/-- Bytes copied from one byte space to another with their marks, 128 at a time. -/
def Mem.copyFrom (m : Mem) (b : Nat) (src : Mem) (a n : Nat) : Mem :=
  (List.range (n / 128)).foldl (fun m i =>
    m.writeMarks (b + 128 * i) 128 (src.readN (a + 128 * i) 128) (src.markBits (a + 128 * i) 128)) m

/-- The offsets of the register files in a slot's block that a frame holds at the same distance: those of g, q, b and c lie
0x200 higher in the frame. -/
def fileOffsets (inH : Bool) : List Nat :=
  (List.range 72).map (fun i => 8 * i) ++
    (if inH then (List.range 32).map (fun i => 0x4000 + 8 * i) else (List.range 1536).map (fun i => 0x1000 + 8 * i))

/-- The offset in the frame of an offset of the block. -/
def frameOffset (off : Nat) : Nat := if off < 0x240 then off + 0x200 else off

/-- The registers of a context written into its frame: inside a unit those of its start, for a unit has no effect until it is
complete (R194). The rest of the resume state, the engine records and the unacknowledged joins have no layout in the spec: what
stands there is not fixed (notes/assumptions/8.md). -/
def State.saveRegs (s : State) (x : Context) : State :=
  let c := { x with regs := x.unitStart }
  let f := s.frameAt c.key
  let sys (n : Nat) : Word := if n = 3 then s.cycleNow + c.cycleOff else c.sysWord n
  let s1 := (List.range 64).foldl (fun s n => s.putFrame f (8 * n) { bits := sys n }) s
  let s2 := (fileOffsets c.inH).foldl (fun s off => match s.fileWord c off with
    | some v => s.putFrame f (frameOffset off) v
    | none => s) s1
  let s3 := s2.putFrame f 0x440 { bits := c.regs.pc.setWidth 64 }
  let open_ := (List.range 7).map (fun i => 0x448 + 8 * i) ++ (List.range 256).map (fun i => 0x800 + 8 * i)
  { (open_.foldl (fun s off => s.putFrame f off { bits := Config.framePart (s.free + off) }) s3) with free := s.free + 4096 }

/-- The tables of a context written into its frame: barriers, views, copy sets and lamp configurations. -/
def State.saveTables (s : State) (c : Context) : State :=
  let f := s.frameAt c.key
  let s1 := (List.range 16).foldl (fun (s : State) i =>
    let x : Nat := match c.barriers[i]? with
      | some b => b.off + 2 ^ 63 + b.word * 2 ^ 128
      | none => 0
    { s with mem := s.mem.writeN (f + 0x480 + 32 * i) 32 x false }) s
  let s2 := (List.finRange 8).foldl (fun (s : State) i =>
    { s with mem := s.mem.writeN (f + 0x680 + 32 * i.val) 32 c.views[i].toNat false }) s1
  let s3 := (List.finRange 4).foldl (fun (s : State) i =>
    { s with mem := s.mem.writeN (f + 0x780 + 16 * i.val) 16 (c.copySets[i].1.toNat + c.copySets[i].2.toNat * 2 ^ 64) false }) s2
  (List.finRange 16).foldl (fun (s : State) i =>
    let x : Nat := match c.lampCfg[i] with
      | some off => off + 2 ^ 31
      | none => 0
    { s with mem := s.mem.writeN (f + 0x7C0 + 4 * i.val) 4 x false }) s3

/-- The lines of a context's slice, or of the handler area. -/
def Context.sliceLines (c : Context) : Nat := if c.inH then 2 else 32 * c.foot

/-- Whether a line of a context's slice, or a tile, is live (R122, R123). -/
def Context.liveLine (c : Context) (l : Nat) : Bool := decide (l < c.sliceLines) && !c.discLines.contains l

/-- Whether a tile is live. -/
def Context.liveTile (c : Context) (t : Nat) : Bool := decide (t < c.tiles) && !c.discTiles.getLsbD t

/-- The barrier objects of a context in the live lines of the slice image in its frame `f` (R124, R356). -/
def State.saveBarriers (s : State) (f : Nat) (c : Context) : State :=
  (c.barriers.filter (fun b => !c.inH && c.liveLine (b.off / 128))).foldl (fun (s : State) b =>
    { s with mem := s.mem.writeN (f + 0x5000 + b.off) 16 b.word false }) s

/-- The slice, with the barrier objects in it, and the tiles of a context written into its frame with their live map: live
lines and tiles only. The handler area stands among the registers. -/
def State.saveSlice (s : State) (c : Context) : State :=
  let f := s.frameAt c.key
  let lines := packList 1 ((List.range 16384).map (fun l => if c.liveLine l then 1 else 0))
  let tiles := packList 1 ((List.range 16).map (fun t => if c.liveTile t then 1 else 0))
  let s1 : State := { s with mem := (s.mem.writeN (f + 0x4100) 2048 lines false).writeN (f + 0x4900) 8 tiles false }
  let s2 := ((List.range (32 * c.foot)).filter c.liveLine).foldl (fun (s : State) l =>
    { s with mem := s.mem.copyFrom (f + 0x5000 + 128 * l) s.scratch (c.sliceBase + 128 * l) 128 }) s1
  ((List.range c.tiles).filter c.liveTile).foldl (fun (s : State) t =>
    { s with mem := s.mem.copyFrom (f + 0x5000 + 4096 * c.foot + 2 ^ 14 * t) s.acc (c.tileWord t 0) (2 ^ 14) })
      (s2.saveBarriers f c)

/-- The spark queue of a context's banks written into its frame, 16 bytes a spark, whose layout the spec does not give (R356;
notes/assumptions/8.md). -/
def State.saveSparks (s : State) (c : Context) (n : Nat) : State :=
  let at_ := 0x5000 + 4096 * c.foot + 2 ^ 14 * c.tiles
  let base := s.frameAt c.key
  { (List.range (2 * n)).foldl (fun (s : State) i =>
      s.putFrame base (at_ + 8 * i) { bits := Config.framePart (s.free + i) }) s with free := s.free + 2 * n }

/-- The context taken out of its slot into its frame (R351, R356): its slot, slice and tiles are free. -/
def State.saveCtx (s : State) (k : Key) : State :=
  match s.ctx? k with
  | none => s
  | some c =>
    if c.slot.isNone then s.saveRegs c
    else
      let (s0, sparks) := s.takeSparks c
      let s2 := (((s0.saveRegs c).saveTables c).saveSlice c).saveSparks c sparks.length
      let c1 : Context := { c with
        slot := none, leaving := false, tileMap := [], cmds := c.cmds.map Cmd.record, sparks := sparks }
      let s3 : State := if s2.busy && s2.cur.key == k then s2.leave c1 else s2.setCtx c1
      (s3.drainHeld c.core (Held.ofCtx k)).refreshSuspended

/-- The other members of a context's crew that stand in slots leave them with it (R326): pre-empted where it is (`pre`, R357),
evicted where it is (R312). -/
def State.pullCrew (s : State) (c : Context) (pre : Bool) : State :=
  match c.crew with
  | none => s
  | some w => s.mapCtxs (fun x =>
      if x.crew == some w && x.key != c.key && x.slot.isSome && x.status != .stopped then
        { x with leaving := true, preempted := x.preempted || pre } else x)

/-- Contexts evicted (R312). -/
def State.evict (s : State) (ks : List Key) : State :=
  ks.foldl (fun s k => match s.ctx? k with
    | some c => (s.pullCrew c false).saveCtx k
    | none => s) s

/-- Room made on a core for FOOT and TILES: what is evicted for it, or nothing where evicting everything would not do. -/
def State.makeFit (s : State) (core foot tiles : Nat) : Option (State × Room) :=
  if !s.couldFit core foot tiles then none
  else (s.roomAfter core foot tiles (s.evictables core) []).map (fun p => (s.evict p.1, p.2))

/-! Restoring (R360). -/

/-- Whether the registers a frame has given back are those its context was saved with at the start of the unit it is in. -/
def Context.sameUnit (c : Context) (r : Regs) : Bool := decide (r = c.unitStart)

/-- A context with the registers of its frame: it goes on inside its unit where they are those of the unit's start, else it
runs the unit again with what the frame gives (R194, R358; notes/assumptions/50.md). -/
def Context.reload (c : Context) (r : Regs) : Context :=
  if c.unit.isNone then { c with regs := r }
  else if c.sameUnit r then c
  else { c with
    regs := r, unit := none, asked := false, reply := none, lines := [], spoilt := [], dropL1 := none, lostReply := none
    phase := 0, operands := none, voperand := none, ahead := [], items := [] }

/-- The registers and tables of a context as its frame holds them. A barrier keeps its number of phases.
(notes/assumptions/50.md) -/
def State.loadRegs (s : State) (x : Context) : Context :=
  let c := { x with regs := x.unitStart }
  let f := s.frameAt c.key
  let c1 := ((List.range 64).filter (fun n => sysNumOk n && n != 3)).foldl
    (fun c n => c.setSysWord n (s.frameWord f (8 * n)).bits) c
  let c2 := (fileOffsets c.inH).foldl (fun c off => s.withFileWord c off (s.frameWord f (frameOffset off))) c1
  let bs := (List.range 16).filterMap (fun i =>
    let x := s.mem.readN (f + 0x480 + 32 * i) 32
    let off := bitsOf x 0 21
    if bitsOf x 63 1 = 0 then none
    else some ({ off := off, expected := bitsOf x 128 32, counted := bitsOf x 160 32, phase := bitsOf x 192 1 == 1
                 flips := ((c.barriers.find? (fun b => b.off == off)).map Barrier.flips).getD 0 } : Barrier))
  let c3 := ({ c2 with regs := x.regs } : Context).reload { c2.regs with pc := (s.frameWord f 0x440).bits.setWidth 48 }
  { c3 with
    barriers := bs
    views := Vector.ofFn (fun i : Fin 8 => BitVec.ofNat 256 (s.mem.readN (f + 0x680 + 32 * i.val) 32))
    copySets := Vector.ofFn (fun i : Fin 4 =>
      ((s.frameWord f (0x780 + 16 * i.val)).bits, (s.frameWord f (0x788 + 16 * i.val)).bits))
    lampCfg := Vector.ofFn (fun i : Fin 16 =>
      let x := s.mem.readN (f + 0x7C0 + 4 * i.val) 4
      if bitsOf x 31 1 = 1 then some (bitsOf x 0 21) else none)
    discLines := (List.range c.sliceLines).filter (fun l => bitsOf (s.mem.readN (f + 0x4100 + l / 8) 1) (l % 8) 1 = 0)
    discTiles := BitVec.ofNat 16 (packList 1 ((List.range 16).map (fun t =>
      if t < c.tiles && bitsOf (s.mem.readN (f + 0x4900) 2) t 1 = 0 then 1 else 0))) }

/-- A context restored into a slot of its core: registers and tables from its frame, the live lines and tiles copied to the
places chosen (R139, R140, R360). A start or restore refetches the target-register buffers, which hold no state.
(notes/assumptions/50.md) -/
def State.restoreCtx (s : State) (k : Key) (p : Room) : State :=
  match s.ctx? k with
  | none => s
  | some c0 =>
    let c := s.loadRegs { c0 with slot := some p.slot, base := p.base, tileMap := p.tiles, leaving := false, preempted := false }
    let f := s.frameAt k
    let gone := match c0.unit with
      | some u => if c.unit.isNone then u.taken ++ c0.items else []
      | none => []
    let s0 := (s.putBack gone).modCore c.core (fun k => { k with sparks := k.sparks ++ c0.sparks })
    let s1 := ((List.range (32 * c.foot)).filter c.liveLine).foldl (fun (s : State) l =>
      { s with scratch := s.scratch.copyFrom (c.sliceBase + 128 * l) s.mem (f + 0x5000 + 128 * l) 128 }) s0
    let s2 := ((List.range c.tiles).filter c.liveTile).foldl (fun (s : State) t =>
      { s with acc := s.acc.copyFrom (c.tileWord t 0) s.mem (f + 0x5000 + 4096 * c.foot + 2 ^ 14 * t) (2 ^ 14) }) s1
    s2.setCtx { c with base := p.base, tileMap := p.tiles, foot := c0.foot, sparks := [] }

/-! A context other than the current one faulting. -/

/-- The current context put with the others. -/
def State.unload (s : State) : State :=
  if s.busy then { s with ctxs := putCtx s.ctxs s.cur, busy := false } else s

/-- A context of the list made the current one. -/
def State.load (s : State) (k : Key) : State :=
  match s.ctxs.find? (fun c => c.key == k) with
  | some c => { s with cur := c, busy := true, ctxs := s.ctxs.filter (fun x => x.key != k) }
  | none => s

/-- A context takes a fault at the instruction it has reached, whoever has the turn. -/
def State.faultAt (s : State) (k : Key) (f : FaultInfo) : State :=
  if s.busy && s.cur.key == k then takeFault f s
  else
    let s1 := s.unload.load k
    if !s1.busy then s
    else
      let s2 := { (takeFault f s1).unload with stalled := s.stalled }
      if s.busy then s2.load s.cur.key else s2

end Sys2Proof.Machine
end

