-- ==== Sys2Proof/Machine/Sched.lean ====
section
/-! DEFINITION. The scheduler: task starts, what a core runs next, high-priority starts, time slices, gleaning, arrivals
and crews (spec/12_tasks_and_scheduling.md R306 to R318, R326, spec/06_scratchpad_copy_engine_channels.md R141). -/
namespace Sys2Proof.Machine

/-! Running and starting (R306, R313). -/

/-- A context put to run on its core; where that core has the turn it is the current one. -/
def State.run (s : State) (c : Context) : State :=
  let c1 : Context := { c with status := .running }
  if s.turn = c.core && !s.busy then
    { s with cur := c1, busy := true, stalled := false, ctxs := s.ctxs.filter (fun x => x.key != c.key) }
  else s.setCtx c1

/-- The status word a task starts with: SYS, HI in slot H, and RECORD or REPLAY by the mode of its launch (R306, R378). -/
def State.startStatus (s : State) (r : TaskRec) (high : Bool) : Word :=
  let mode := match s.launch? r.launch with
    | some l => l.mode.toNat
    | none => 0
  BitVec.ofNat 64 ((if r.sys then 2 ^ 15 else 0) + (if high then 2 ^ 14 else 0) + (if mode = 1 then 2 ^ 10 else 0) +
    (if mode = 2 then 2 ^ 11 else 0))

/-- The payload in g1 to g6 (R306). -/
def TaskRec.regs (r : TaskRec) (status : Word) : Regs :=
  { Regs.zero with
    pc := r.handler
    status := status
    g := Vector.ofFn (fun i : Fin 32 =>
      if 1 ≤ i.val && i.val ≤ 6 then
        { bits := r.words[(i.val + 1) % 8]'(Nat.mod_lt _ (by decide)), mark := i.val == 1 && r.argMark }
      else { bits := 0 }) }

/-- The context of a task at its start (R306). -/
def State.newContext (s : State) (r : TaskRec) (core : Nat) (p : Room) (id : BitVec 16) : Context :=
  let size := s.stackBytes r.asid
  { key := { asid := r.asid, ctxid := id }
    core := core
    slot := some p.slot
    status := .ready s.nextSeq
    born := s.nextSeq
    regs := r.regs (s.startStatus r (p.slot == .h))
    stackBase := if size = 0 then 0 else BitVec.ofNat 64 (s.stackArea r.asid + id.toNat * size)
    stackSize := BitVec.ofNat 64 size
    foot := r.foot
    tiles := r.tiles
    base := p.base
    tileMap := p.tiles
    cell := r.cell
    launch := r.launch
    taskKey := r.key }

/-- A task's key noted in the log of a recording queue; a key already there marks the log in the completions of the live
launches that have a task of that key (R377). -/
def State.noteKey (s : State) (id : Nat) (key : Word) : State :=
  match s.launch? id with
  | none => s
  | some l =>
    match l.queue with
    | none => s
    | some q =>
      if l.mode ≠ 1 then s
      else
        let r := s.queues[q]
        let known := r.rlogKeys.contains key
        let s1 := s.modLaunch id (fun l => { l with keys := l.keys ++ [key] })
        let r1 : Queue := { r with rlogKeys := r.rlogKeys ++ [key] }
        { s1 with
          queues := s1.queues.set q r1
          launches := s1.launches.map (fun (x : Launch) =>
            if known && x.queue == some q && x.keys.contains key then { x with dup := true } else x) }

/-- TASK_START (R306): a task placed in a slot, its slice and tiles zeroed; a start is an acquire (R108). It is ready. -/
def State.startTask (s : State) (r : TaskRec) (core : Nat) (p : Room) (id : BitVec 16) : State × Context :=
  let c := s.newContext r core p id
  let s1 : State := { s.popFrame with
    nextSeq := s.nextSeq + 1
    ctxs := putCtx s.ctxs c
    scratch := s.scratch.clear c.sliceBase (4096 * c.foot)
    acc := p.tiles.foldl (fun m t => m.clear (core * 2 ^ 18 + t * 2 ^ 14) (2 ^ 14)) s.acc }
  ((s1.acquireL1 core).noteKey r.launch r.key, c)

/-- A record's handler lies in an image that is still being loaded into its address space, in whichever of its sections
(R35). (notes/assumptions/78.md) -/
def State.handlerLoading (s : State) (r : TaskRec) : Bool :=
  s.loads.any (fun l => l.asid == r.asid && l.texts.any (fun t =>
    decide (t.1 ≤ r.handler.toNat) && decide (r.handler.toNat < t.1 + t.2)))

/-- A record that may not be dispatched now: its queue is suspended (R368), or its image is loading. R35 speaks of records in
a launch queue; that one which comes through no queue (a SPAWN, a send, a TASKSET node) is held where it stands, as its
handler's text may not be there yet, is the model's choice (notes/assumptions/78.md). -/
def State.recordHeld (s : State) (r : TaskRec) : Bool := s.launchSuspended r.launch || s.handlerLoading r

/-! The levels of R313. -/

/-- The head of the high inbox can start in slot H (R314). -/
def State.highReady (s : State) (core : Nat) : Option (TaskRec × BitVec 16) :=
  if !s.canTake core || (s.inSlot core .h).isSome then none
  else match (s.core core).high with
    | [] => none
    | r :: _ => if s.recordHeld r then none else (s.freeFrame r.asid).map (fun id => (r, id))

/-- Level 1: the head of the high inbox into slot H. -/
def State.startHigh (s : State) (core : Nat) : Option State :=
  match s.highReady core with
  | none => none
  | some (r, id) =>
    let s1 := (s.modCore core (fun k => { k with high := k.high.drop 1 })).inboxMoved core true
    let (s2, c) := s1.startTask r core { slot := .h, base := 0, tiles := [] } id
    some (s2.run c)

/-- When slot H is free the context it suspended continues (R314). -/
def State.continueSuspended (s : State) (core : Nat) : Option State :=
  if (s.inSlot core .h).isSome then none
  else ((s.residents core).find? (fun c => c.status == .suspended && !c.leaving)).map s.run

/-- The members of a context's crew, but for stopped ones, are all in their frames: they restart together (R326). -/
def State.crewOut (s : State) (c : Context) : Bool :=
  match c.crew with
  | none => false
  | some w => s.allCtxs.all (fun x => x.crew != some w || x.status == .stopped || x.slot.isNone)

/-- A member of the crew is on its way to its frame. -/
def State.crewLeaving (s : State) (c : Context) : Bool :=
  match c.crew with
  | none => false
  | some w => s.allCtxs.any (fun x => x.crew == some w && x.leaving)

/-- When a ready context was woken. -/
def Context.readyAt (c : Context) : Option Nat :=
  match c.status with
  | .ready t => some t
  | _ => none

/-- A woken context that a core may run (R313). -/
def State.mayRun (s : State) (core : Nat) (c : Context) : Bool :=
  c.core == core && c.readyAt.isSome && !c.leaving && !s.launchSuspended c.launch &&
    (c.slot.isSome || !(s.crewOut c || s.crewLeaving c))

/-- The woken contexts of a core: earliest wake first, ties by lower context id. -/
def State.woken (s : State) (core : Nat) : List Context :=
  (s.allCtxs.filter (s.mayRun core)).mergeSort (fun x y =>
    let a := x.readyAt.getD 0
    let b := y.readyAt.getD 0
    decide (a < b) || (decide (a = b) && decide (x.key.ctxid.toNat ≤ y.key.ctxid.toNat)))

/-- A woken context run: from its slot, or restored into one (R312, R360). A frame saved from slot H goes back there. -/
def State.runWoken (s : State) (core : Nat) (c : Context) : Option State :=
  let go (s : State) : State := match s.ctx? c.key with
    | some x => s.run x
    | none => s
  if c.slot.isSome then some (go s)
  else if c.regs.status.getLsbD 14 then
    if (s.inSlot core .h).isSome then none else some (go (s.restoreCtx c.key { slot := .h, base := 0, tiles := [] }))
  else match s.makeFit core c.foot c.tiles with
    | some (s1, p) => some (go (s1.restoreCtx c.key p))
    | none => none

/-- Level 2: the first woken context that can run. -/
def State.runFirst (s : State) (core : Nat) : List Context → Option State
  | [] => none
  | c :: rest => match s.runWoken core c with
    | some s1 => some s1
    | none => s.runFirst core rest

/-- The records of a crew's members that have not started, or its members in frames. -/
def State.crewNeed (s : State) (w : Crew) (core : Nat) : Option (Nat × Nat) :=
  if w.started then
    match s.allCtxs.find? (fun c => c.crew == some w.id && c.core == core && c.status != .stopped && c.slot.isNone) with
    | some c => some (c.foot, c.tiles)
    | none => none
  else (w.members.find? (fun m => m.1 == core)).map (fun m => (m.2.foot, m.2.tiles))

/-- A crew waits for a place on a core: it has not started, and the core takes tasks, or all its members are in their frames;
what has started runs on, on a drained core too (R296, R376). A crew of which no member is woken takes only a place that is
free, so that nothing is evicted for it (notes/assumptions/48.md). -/
def State.crewWaits (s : State) (w : Crew) (core : Nat) : Bool :=
  !s.launchSuspended w.launch && !w.reserved.any (fun r => r.1 == core) &&
    match s.crewNeed w core with
    | none => false
    | some (foot, tiles) =>
      if !w.started then s.canTake core
      else s.allCtxs.all (fun c => c.crew != some w.id || c.status == .stopped || c.slot.isNone) &&
        (s.allCtxs.any (fun c => c.crew == some w.id && c.readyAt.isSome) || (s.room core foot tiles []).isSome)

/-- A crew changed. -/
def State.modCrew (s : State) (id : Nat) (f : Crew → Crew) : State :=
  { s with crews := s.crews.map (fun w => if w.id = id then f w else w) }

/-- Level 3: the earliest crew held for the core reserves a place there (R326). (notes/assumptions/48.md) -/
def State.reserveCrew (s : State) (core : Nat) : Option State :=
  match (s.crews.filter (fun w => s.crewWaits w core)).mergeSort (fun x y => decide (x.order ≤ y.order)) with
  | [] => none
  | w :: _ =>
    match s.crewNeed w core with
    | none => none
    | some (foot, tiles) =>
      match s.makeFit core foot tiles with
      | none => none
      | some (s1, p) => some (s1.modCrew w.id (fun w => { w with reserved := w.reserved ++ [(core, p)] }))

/-- A record dispatched into one of the slots A to C (R312), or none where a frame or room is lacking. -/
def State.dispatch (s : State) (core : Nat) (r : TaskRec) : Option State :=
  if s.recordHeld r then none
  else match s.freeFrame r.asid with
    | none => none
    | some id => match s.makeFit core r.foot r.tiles with
      | none => none
      | some (s1, p) =>
        let (s2, c) := s1.startTask r core p id
        some (s2.run c)

/-- Level 4: the head of the normal inbox. -/
def State.takeInbox (s : State) (core : Nat) : Option State :=
  match (s.core core).inbox with
  | [] => none
  | r :: _ => (s.dispatch core r).map (fun s => (s.modCore core (fun k => { k with inbox := k.inbox.drop 1 })).inboxMoved core false)

/-- Level 5: the bottom of the core's own deque. -/
def State.takeDeque (s : State) (core : Nat) : Option State :=
  match (s.core core).deque with
  | [] => none
  | r :: _ => (s.dispatch core r).map (fun s => s.modCore core (fun k => { k with deque := k.deque.drop 1 }))

/-- What a core runs next, levels 1 to 5 of R313; a drained core and one out of scheduling take only what has started
(R296, R376). -/
def State.chooseWork (s : State) (core : Nat) : Option State :=
  if (s.executing core).isSome || s.coreLost core then none
  else match s.startHigh core with
    | some s1 => some s1
    | none => match s.continueSuspended core with
      | some s1 => some s1
      | none => match s.runFirst core (s.woken core) with
        | some s1 => some s1
        | none => match s.reserveCrew core with
          | some s1 => some s1
          | none =>
            if !s.canTake core then none
            else match s.takeInbox core with
              | some s1 => some s1
              | none => s.takeDeque core

/-- CORE_DISPATCH (R313) -/
def coreDispatch (core : Nat) (s : State) : State := (s.chooseWork core).getD s

/-- CORE_DISPATCH (R313) -/
def execCoreDispatch (core : Nat) (s : State) : Host.Outcome State Fault Refusal := event (coreDispatch core) s

/-- The executing context of a core leaves its place at a unit boundary. -/
def State.setAside (s : State) (core : Nat) (st : Status) : Option State :=
  match s.executing core with
  | none => none
  | some c =>
    if c.unit.isSome then none
    else
      let c1 : Context := { c with status := st }
      some { (if s.busy && s.cur.key == c.key then s.leave c1 else s.setCtx c1) with nextSeq := s.nextSeq + 1 }

/-- HIGH_PRIORITY_START (R314): the executing context is suspended at the boundary of its unit. -/
def highPriorityStart (core : Nat) (s : State) : State :=
  if (s.highReady core).isNone then s
  else match s.setAside core .suspended with
    | none => s
    | some s1 => (s1.startHigh core).getD s

/-- HIGH_PRIORITY_START (R314) -/
def execHighPriorityStart (core : Nat) (s : State) : Host.Outcome State Fault Refusal := event (highPriorityStart core) s

/-- A context has reached END, or HALT: it is the instruction at its PC, and no guard switches it off. -/
def State.atEnd (s : State) (c : Context) : Bool :=
  !c.guardedOff && (match fetchBytes c.core c.asid c.sys c.regs.pc.toNat s with
    | .ok (.ok bytes, _) => (match decode bytes with
      | .ok .endTask | .ok .halt => true
      | _ => false)
    | _ => false)

/-- HANDLER_OVERRUN (R314): the fault is precise at the instruction the handler has reached. One that has reached END does not
overrun, however long END waits. (notes/assumptions/64.md) -/
def handlerOverrun (core : Nat) (s : State) : State :=
  match s.inSlot core .h with
  | none => s
  | some c => if c.status == .stopped || s.atEnd c then s else s.faultAt c.key { code := .handlerOverrun }

/-- HANDLER_OVERRUN (R314) -/
def execHandlerOverrun (core : Nat) (s : State) : Host.Outcome State Fault Refusal := event (handlerOverrun core) s

/-- Work of levels 2 to 5 is ready on a core (R315). -/
def State.workWaits (s : State) (core : Nat) : Bool :=
  !(s.woken core).isEmpty || s.crews.any (fun w => s.crewWaits w core) ||
    (s.canTake core && ((s.core core).inbox.take 1 ++ (s.core core).deque.take 1).any (fun r => !s.recordHeld r))

/-- TIME_SLICE_EXPIRY (R315): the context is moved aside as YIELD moves it; a handler has no slice. -/
def timeSliceExpiry (core : Nat) (s : State) : State :=
  match s.executing core with
  | none => s
  | some c => if c.inH || !s.workWaits core then s else (s.setAside core (.ready s.nextSeq)).getD s

/-- TIME_SLICE_EXPIRY (R315) -/
def execTimeSliceExpiry (core : Nat) (s : State) : Host.Outcome State Fault Refusal := event (timeSliceExpiry core) s

/-! Gleaning (R316, R317). -/

/-- The order in which a core probes (R317). -/
def victims (core : Nat) : List Nat :=
  let die := core / 192
  let q := core % 192 / 4
  let m := core % 4
  [1, 2, 3].map (fun i => die * 192 + q * 4 + (m + i) % 4) ++
    (List.range 47).map (fun k => die * 192 + (q + 1 + (37 * k + 5 * q) % 47) % 48 * 4 + m) ++
    [1, 2, 3].flatMap (fun j => (List.range 48).map (fun k => (die + j) % 4 * 192 + (q + 37 * k) % 48 * 4 + m))

/-- GLEAN_PASS (R317): a core with nothing to run on levels 1 to 5 starts a pass. (notes/assumptions/47.md) -/
def gleanPass (core : Nat) (s : State) : State :=
  if (s.executing core).isSome || !s.canTake core || (s.core core).glean != .idle || (s.chooseWork core).isSome then s
  else s.modCore core (fun k => { k with glean := .probing ((victims core).filter (fun v => !(s.core v).out)) })

/-- GLEAN_PASS (R317) -/
def execGleanPass (core : Nat) (s : State) : Host.Outcome State Fault Refusal := event (gleanPass core) s

/-- GLEAN_PROBE (R316): the next core of the pass yields the top record of its deque if it fits the gleaner; a gleaner that is
drained or out of scheduling gleans nothing (R296, R376). (notes/assumptions/47.md) -/
def gleanProbe (core : Nat) (s : State) : State :=
  match (s.core core).glean with
  | .probing [] => s.modCore core (fun k => { k with glean := .idle })
  | .probing (v :: rest) =>
    if !s.canTake core then s.modCore core (fun k => { k with glean := .idle })
    else match (s.core v).deque.getLast? with
    | none => s.modCore core (fun k => { k with glean := .probing rest })
    | some r =>
      if s.couldFit core r.foot r.tiles && !s.launchSuspended r.launch && !s.coreLost v && !s.apart (dieOf core) (dieOf v) then
        (s.modCore v (fun k => { k with deque := k.deque.dropLast })).modCore core (fun k => { k with glean := .carrying r })
      else s.modCore core (fun k => { k with glean := .probing rest })
  | _ => s

/-- GLEAN_PROBE (R316) -/
def execGleanProbe (core : Nat) (s : State) : Host.Outcome State Fault Refusal := event (gleanProbe core) s

/-- GLEANED_RECORD_ARRIVAL (R316): the record is dispatched, or goes to the bottom of the gleaner's own deque. -/
def gleanedRecordArrival (core : Nat) (s : State) : State :=
  match (s.core core).glean with
  | .carrying r =>
    let s1 := s.modCore core (fun k => { k with glean := .idle })
    let started := if (s1.executing core).isNone && s1.canTake core then s1.dispatch core r else none
    match started with
    | some s2 => s2
    | none => s1.pushDeque core r
  | _ => s

/-- GLEANED_RECORD_ARRIVAL (R316) -/
def execGleanedRecordArrival (core : Nat) (s : State) : Host.Outcome State Fault Refusal :=
  event (gleanedRecordArrival core) s

/-! Arrivals (R284, R308). -/

/-- A record's way over. -/
def State.dropTransit (s : State) (id : Nat) : State := { s with transit := s.transit.filter (fun t => t.id != id) }

/-- DEQUE_RECORD_ARRIVAL (R308): the i-th record under way reaches the bottom of its core's deque; those of a TASKSET node
in their order (R324). -/
def dequeRecordArrival (i : Nat) (s : State) : State :=
  match s.transit[i]? with
  | none => s
  | some t =>
    let later := t.kind = 3 && (s.transit.take i).any (fun x => x.kind == 3 && x.r.launch == t.r.launch)
    if (t.kind = 0 || t.kind = 3) && !later then (s.dropTransit t.id).pushDeque t.core t.r else s

/-- DEQUE_RECORD_ARRIVAL (R308) -/
def execDequeRecordArrival (i : Nat) (s : State) : Host.Outcome State Fault Refusal := event (dequeRecordArrival i) s

/-- INBOX_RECORD_ARRIVAL (R308, R284): the i-th record under way reaches an inbox, of another core where its own cannot take
it; at a full inbox it waits. -/
def inboxRecordArrival (i : Nat) (s : State) : State :=
  match s.transit[i]? with
  | none => s
  | some t =>
    if t.kind = 0 || t.kind = 3 then s
    else match s.redirect t.core with
      | none => s
      | some core =>
        let high := decide (t.kind = 2)
        if s.inboxRoom core high then (s.dropTransit t.id).putInbox core high t.r else s

/-- INBOX_RECORD_ARRIVAL (R308) -/
def execInboxRecordArrival (i : Nat) (s : State) : Host.Outcome State Fault Refusal := event (inboxRecordArrival i) s

/-! Crews (R326, R141). -/

/-- The fields of a channel descriptor (R141). -/
structure ChanDesc where
  area : Nat
  slots : Nat
  wide : Bool
  dport : Nat
  sport : Nat
  dcore : Nat
  score : Nat
deriving DecidableEq, Repr

/-- A descriptor read (R141). -/
def chanDesc (w : Word) : ChanDesc where
  area := wbits w 34 21
  slots := wbits w 27 7
  wide := w.getLsbD 26
  dport := wbits w 23 3
  sport := wbits w 20 3
  dcore := wbits w 10 10
  score := wbits w 0 10

/-- A port of a context bound. -/
def Context.bind (c : Context) (port : Nat) (e : PortEnd) : Context :=
  { c with ports := c.ports.set (port % 8) (some e) (Nat.mod_lt _ (by decide)) }

/-- The members of a crew started, in order: their contexts stand in the places held (R326). -/
def State.startMembers (s : State) (w : Crew) : List (Nat × TaskRec) → Option State
  | [] => some s
  | (core, r) :: rest =>
    match w.reserved.find? (fun x => x.1 == core), s.freeFrame r.asid with
    | some (_, p), some id =>
      let (s1, c) := s.startTask r core p id
      ((s1.modCtx c.key (fun x => { x with crew := some w.id })).modCrew w.id
        (fun w => { w with keys := w.keys ++ [c.key] })).startMembers w rest
    | _, _ => none

/-- A channel of a crew made, its ports bound (R141, R142). -/
def State.bindChannel (s : State) (w : Nat) (d : ChanDesc) : State :=
  let member (core : Nat) : Option Context := s.allCtxs.find? (fun c => c.crew == some w && c.core == core)
  match member d.score, member d.dcore with
  | some a, some b =>
    let id := s.nextSeq
    let s1 : State := { s with nextSeq := s.nextSeq + 1, chans := s.chans ++
      [{ id := id, crew := w, src := a.key, dst := b.key, slots := d.slots, wide := d.wide, area := d.area }] }
    (s1.modCtx a.key (fun c => c.bind d.sport { chan := id, sending := true })).modCtx b.key
      (fun c => c.bind d.dport { chan := id, sending := false })
  | _, _ => s

/-- The places a crew holds given up. -/
def State.unreserve (s : State) (id : Nat) : State := s.modCrew id (fun w => { w with reserved := [] })

/-- The members of a crew restored into the places held, all together (R326). -/
def State.restartMembers (s : State) (w : Crew) : State :=
  let cs := s.allCtxs.filter (fun c => c.crew == some w.id && c.status != .stopped && c.slot.isNone)
  cs.foldl (fun s c => match w.reserved.find? (fun x => x.1 == c.core) with
    | some (_, p) => s.restoreCtx c.key p
    | none => s) (s.unreserve w.id)

/-- CREW_START (R326): every member's core has reserved, and all start or restart together. (notes/assumptions/48.md) -/
def crewStart (crew : Nat) (s : State) : State :=
  match s.crews.find? (fun w => w.id == crew) with
  | none => s
  | some w =>
    if s.launchSuspended w.launch then s
    else if w.started then
      let cs := s.allCtxs.filter (fun c => c.crew == some w.id && c.status != .stopped)
      if !w.reserved.isEmpty && cs.all (fun c => c.slot.isNone && w.reserved.any (fun r => r.1 == c.core)) then
        s.restartMembers w
      else s
    else if w.members.all (fun m => s.canTake m.1 && w.reserved.any (fun r => r.1 == m.1)) && !w.members.any (fun m => s.handlerLoading m.2) then
      match s.startMembers w w.members with
      | some s1 =>
        let s2 := s1.modCrew w.id (fun w => { w with started := true, reserved := [] })
        w.descs.foldl (fun s d => s.bindChannel w.id (chanDesc d)) s2
      | none => s
    else s

/-- CREW_START (R326) -/
def execCrewStart (crew : Nat) (s : State) : Host.Outcome State Fault Refusal := event (crewStart crew) s

/-- A context is parked on a blocking channel access that cannot go on: the channel has no item for it, or no slot. -/
def State.channelStuck (s : State) (c : Context) : Bool :=
  match c.status with
  | .parked (.channel id) _ => (s.chan? id).any (fun ch => (ch.dst == c.key && ch.items.isEmpty) ||
      (ch.src == c.key && decide (ch.slots ≤ ch.items.length + s.heldItems ch)))
  | _ => false

/-- CREW_DEADLOCK (R326): every member is parked on a channel that has nothing for it, so that no wake can come. -/
def crewDeadlock (crew : Nat) (s : State) : State :=
  match s.crews.find? (fun w => w.id == crew) with
  | none => s
  | some w =>
    let cs := w.keys.filterMap s.ctx?
    if !cs.isEmpty && cs.all s.channelStuck then
      cs.foldl (fun s c => s.faultAt c.key { code := .crewDeadlock }) s
    else s

/-- CREW_DEADLOCK (R326) -/
def execCrewDeadlock (crew : Nat) (s : State) : Host.Outcome State Fault Refusal := event (crewDeadlock crew) s

end Sys2Proof.Machine
end

