-- ==== Sys2Proof/Machine/Stops.lean ====
section
/-! DEFINITION. Pre-emption, the stop of a faulted context, fault records and their queues, and resumption
(spec/14_faults_and_preemption.md R351 to R359, spec/04_translation_and_tiers.md R97, spec/15 R369). -/
namespace Sys2Proof.Machine

/-! Pre-emption (R357 to R359). -/

/-- A context that is to be saved: its crew is pre-empted, or its queue is suspended (R357). -/
def State.mustLeave (s : State) (c : Context) : Bool := c.leaving || s.launchSuspended c.launch

/-- The context marked as on its way to its frame: a running or suspended one is then ready, a parked one stays parked
(R358). It is pre-empted, unless its crew's eviction alone has called it out (R326, R312). (notes/assumptions/49.md) -/
def State.halt (s : State) (c : Context) : State :=
  let pre := c.preempted || s.launchSuspended c.launch || !c.leaving
  let c1 : Context := { c with
    leaving := true
    preempted := pre
    status := match c.status with
      | .running => .ready s.nextSeq
      | .suspended => .ready s.nextSeq
      | st => st }
  let s1 := { s with nextSeq := s.nextSeq + 1 }
  ((if s1.busy && s1.cur.key == c.key then s1.leave c1 else s1.setCtx c1).pullCrew c1 pre).drainHeld c.core (Held.ofCtx c.key)

/-- PREEMPTION (R357): a context stops at a unit boundary, a parked one where it is; once its engine commands are settled
(R359) it is saved. (notes/assumptions/49.md) -/
def preemption (k : Key) (s : State) : State :=
  match s.ctx? k with
  | none => s
  | some c =>
    if c.slot.isNone || c.status == .stopped || !s.mustLeave c || (c.status == .running && c.unit.isSome) then s
    else
      let s1 := if c.leaving && c.status != .running then s else s.halt c
      if c.settled then s1.saveCtx k else s1

/-- PREEMPTION (R357) -/
def execPreemption (k : Key) (s : State) : Host.Outcome State Fault Refusal := event (preemption k) s

/-! Fault records (R353, R395). -/

/-- The record of a stopped context is in its queue from here on (R351, step 6): the one its fault opened or joined, or the
service record of a trap or breakpoint. (notes/assumptions/16.md) -/
def State.recordStop (s : State) (c : Context) (x : StopRec) : State :=
  if x.kind = 0 then s.postFault x.record
  else s.postRecord { id := 0, asid := c.key.asid, ctxid := c.key.ctxid, kind := x.kind, info := x.info, pc := x.pc
                      arg := x.arg, attached := [c.key] }

/-- FAULT_STOP (R351, steps 4 to 6): once its engine commands are settled the stopped context is written to its frame, its
slot, slice and tiles are free, and its record is posted. -/
def faultStop (k : Key) (s : State) : State :=
  match s.ctx? k with
  | none => s
  | some c =>
    match c.stop with
    | none => s
    | some x =>
      if c.status == .stopped && c.settled then
        ((s.modCtx k (fun c => { c with stop := none })).recordStop c x).saveCtx k
      else s

/-- FAULT_STOP (R351) -/
def execFaultStop (k : Key) (s : State) : Host.Outcome State Fault Refusal := event (faultStop k) s

/-! Fault queues (R352, R369). -/

/-- The next record of an address space that has not been written. -/
def State.nextRecord (s : State) (asid : BitVec 12) : Option FaultRec :=
  s.records.find? (fun r => r.asid == asid && r.at_.isNone && r.posted)

/-- The producer, consumer and capacity of a fault queue. -/
def State.queueHeader (s : State) (fq : Nat) : Nat × Nat × Nat :=
  (s.mem.readN fq 8, s.mem.readN (fq + 8) 8, s.mem.readN (fq + 0x10) 8)

/-- A fault queue is full. -/
def State.queueFull (s : State) (fq : Nat) : Bool :=
  let h := s.queueHeader fq
  decide (h.2.2 ≤ h.1 - h.2.1)

/-- The join into a fault queue's cell (R352): a system access in the address space; one that is impossible or dropped is
logged for the host. None while the page's translation has JBLOCK = 1 (R104). (notes/assumptions/54.md) -/
def State.joinQueueCell (s : State) (asid : BitVec 12) (cell : Nat) : Option State :=
  let log (s : State) : State := s.hostLog 352 asid.toNat cell
  if cell = 0 then some s
  else match walk s asid cell with
    | .error _ => some (log s)
    | .ok (l, _) =>
      match windowOf cell == .global && decide (l.ty = 9) && decide (cell % 8 = 0), leafChecks l .write true cell with
      | true, .ok () =>
        if l.jblock then none
        else match s.homeCode l cell with
          | some _ => some (log s)
          | none =>
            let one : JoinReq :=
              { cell := l.key cell, width := 64, ty := 9, arg := l.arg, val := 1, rel := true, tags := [] }
            let r := (s.countAt l.cnt (l.key cell) (BitVec.ofNat 64 cell) asid).joinAt one
            some (if r.2.isSome then log r.1 else r.1)
      | _, _ => some (log s)

/-- The join into a fault queue's cell, which waits by itself where it has to. (notes/assumptions/54.md) -/
def State.askQueueCell (s : State) (asid : BitVec 12) (cell : Nat) : State :=
  (s.joinQueueCell asid cell).getD { s with queueJoins := s.queueJoins ++ [(asid, cell)] }

/-- The joins of an address space that wait are tried again: those that wait on keep their places. -/
def State.retryQueueJoins (s : State) (asid : BitVec 12) : State :=
  let r := s.queueJoins.foldl (fun (r : State × List (BitVec 12 × Nat)) x =>
    match if x.1 == asid then r.1.joinQueueCell asid x.2 else none with
    | some t => (t, r.2)
    | none => (r.1, r.2 ++ [x])) (s, [])
  { r.1 with queueJoins := r.2 }

/-- The next record of an address space written and producer raised; nothing while the entry names no queue or the queue is
full. -/
def State.writeNextRecord (s : State) (asid : BitVec 12) : State :=
  let fq := s.faultQueue asid
  match s.nextRecord asid with
  | none => s
  | some r =>
    if fq = 0 || s.queueFull fq then s
    else
      let (prod, _, cap) := s.queueHeader fq
      let pa := fq + 64 + 64 * (prod % cap)
      let kept (x : FaultRec) : Bool := x.live || x.kind == 7
      let s1 : State := { s with
        mem := (s.mem.putRecord pa r (s.leadIndex r)).writeN fq 8 (prod + 1) false
        records := (s.records.map (fun x => if x.id = r.id then { x with at_ := some pa, idx := prod } else x)).filter
          (fun x => x.id != r.id || kept x) }
      (s1.raiseVector 64).askQueueCell asid (s.mem.readN (fq + 0x18) 8)

/-- FAULT_RECORD_WRITE (R352): the next record of an address space is written, producer is raised, and the queue's cell is
joined, or the joins that have waited. (notes/assumptions/54.md) -/
def faultRecordWrite (asid : BitVec 12) (s : State) : State := (s.retryQueueJoins asid).writeNextRecord asid

/-- FAULT_RECORD_WRITE (R352) -/
def execFaultRecordWrite (asid : BitVec 12) (s : State) : Host.Outcome State Fault Refusal :=
  event (faultRecordWrite asid) s

/-- FAULT_QUEUE_FULL_SIGNAL (R369): a record waits for a full queue. -/
def faultQueueFullSignal (asid : BitVec 12) (s : State) : State :=
  let fq := s.faultQueue asid
  if (s.nextRecord asid).isSome && fq ≠ 0 && s.queueFull fq then s.raiseVector 64 else s

/-- FAULT_QUEUE_FULL_SIGNAL (R369) -/
def execFaultQueueFullSignal (asid : BitVec 12) (s : State) : Host.Outcome State Fault Refusal :=
  event (faultQueueFullSignal asid) s

/-! Resumption (R354). -/

/-- The first resume record of a context gone. -/
def dropResume (k : Key) : List (Key × Bool) → List (Key × Bool)
  | [] => []
  | x :: r => if x.1 = k then r else x :: dropResume k r

/-- RESUME_RECORD (R354): the context is woken at level 2 where its frame's PC says, or after its trap; a record for a
context that is gone is dropped, and one for a context on its way to its frame waits for it. -/
def resumeRecord (k : Key) (s : State) : State :=
  match s.resumes.find? (fun r => r.1 == k) with
  | none => s
  | some (_, after) =>
    let s1 : State := { s with resumes := dropResume k s.resumes }
    match s1.ctx? k with
    | none => s1
    | some c =>
      if c.stop.isSome then s
      else
        let s2 := resumeCtx k after s1
        if after && c.status == .stopped && c.slot.isNone then
          s2.putFrame (s2.frameAt k) 0x440 { bits := c.nextPc.setWidth 64 }
        else s2

/-- RESUME_RECORD (R354) -/
def execResumeRecord (k : Key) (s : State) : Host.Outcome State Fault Refusal := event (resumeRecord k) s

/-- VECTOR_RETENTION (R153): retention preserves contents and changes no value that programs can see. -/
def vectorRetention (_k : Key) (s : State) : State := s

/-- VECTOR_RETENTION (R153) -/
def execVectorRetention (k : Key) (s : State) : Host.Outcome State Fault Refusal := event (vectorRetention k) s

end Sys2Proof.Machine
end

