-- ==== Sys2Proof/Machine/Agents.lean ====
section
/-! DEFINITION. What the command processors and the graph walkers do in memory for themselves: constants, records, tests,
joins, freezes and copies, performed at the homes (spec/11_instructions_engines_tasks_system.md R280, R301 to R303,
spec/12_tasks_and_scheduling.md R319, R321, R327, R328; notes/assumptions/13.md). They answer a fault where one is met and
stop with `stall` where they have to wait. -/
namespace Sys2Proof.Machine

/-- The context that stands for an agent at a base die, with its address space and rights; it holds no slice or stack. -/
def agentCtx (asid : BitVec 12) (sys : Bool) (core : Nat) : Context :=
  { Context.empty with
    key := { asid := asid, ctxid := 0xFFFF }
    core := core
    regs := { Regs.zero with status := if sys then 0x8000 else 0 } }

/-- A constant read as LDC reads it (R214); `asks` says that it goes to the home as a request of its own, which is counted there
(R101), and is not of a line that the agent has asked for already. -/
def agentConst (c : Context) (va : Nat) (asks : Bool) : M (Except FaultInfo Word) := do
  let bad (code : FaultCode) : Except FaultInfo Word := .error (faultAtVa code va)
  if va % 8 ≠ 0 || windowOf va != .global then return bad .address
  match (← tryTranslate c.core c.asid c.sys .read va) with
  | .error f => return .error f
  | .ok l =>
    if l.ty ≠ 1 then return bad .badType
    let s ← get
    let key := l.key va
    match s.homeCode l va (dieOf c.core) with
    | some code => return .error (s.answerFault c.asid code (BitVec.ofNat 64 va))
    | none =>
      set (if asks then s.countRead c l va else s)
      if mdPoison (s.meta_ key) then return bad .poison
      else if mdState (s.meta_ key) ≠ 2 then return bad .prematureRead
      else return .ok (s.word key)

/-- A doubleword at rising addresses from `first` on is the first that is read of its line. -/
def newLine (first va : Nat) : Bool := decide (va = first) || decide (va % 128 = 0)

/-- The next `n` constants at rising addresses, which began at `first`: one request for each line (R101). -/
def agentConstsFrom (c : Context) (first va : Nat) : Nat → M (Except FaultInfo (List Word))
  | 0 => pure (.ok [])
  | n + 1 => do
    match (← agentConst c va (newLine first va)) with
    | .error f => return .error f
    | .ok x => match (← agentConstsFrom c first (va + 8) n) with
      | .error f => return .error f
      | .ok xs => return .ok (x :: xs)

/-- `n` constants at rising addresses. -/
def agentConsts (c : Context) (va n : Nat) : M (Except FaultInfo (List Word)) := agentConstsFrom c va va n

/-- A page of field memory (R219): a write waits while its translation has JBLOCK = 1 (R104). -/
def agentField (c : Context) (kind : AccessKind) (refuse : Leaf → Option FaultCode) (align va : Nat) :
    M (Except FaultInfo Leaf) := do
  match (← copyPlace c kind true refuse 1 va) with
  | .error f => return .error f
  | .ok (.page l) =>
    if va % align ≠ 0 then return .error (faultAtVa .address va)
    if kind == .write && l.jblock then throw .stall
    match (← get).homeCode l va (dieOf c.core) with
    | some code => return .error ((← get).answerFault c.asid code (BitVec.ofNat 64 va))
    | none => return .ok l
  | .ok _ => return .error (faultAtVa .address va)

/-- A doubleword read as LDX.D reads it (R228). -/
def agentExact (c : Context) (va : Nat) : M (Except FaultInfo Word) := do
  match (← agentField c .read (onlyTypes fieldType) 8 va) with
  | .error f => return .error f
  | .ok l =>
    modify fun s => s.countRead c l va
    match (← get).exactFault (l.line va) with
    | some code => return .error (faultAtVa code va)
    | none => return .ok ((← get).word (l.key va))

/-- The test of a cell set out for its home, a request that is counted once, however long it is held there (R101).
(notes/assumptions/60.md) -/
def agentAsk (c : Context) (types : Nat → Bool) (va : Nat) : M Unit := do
  match (← agentField c .read (onlyTypes types) 1 va) with
  | .error _ => pure ()
  | .ok l => modify fun s => s.countTest c l va

/-- A cell tested as AWAIT tests it (R224); false while it does not pass. A FILL1 cell is 8-byte aligned; of the other types the
home judges the alignment against the line's WIDTH (R68). -/
def agentTest (c : Context) (types : Nat → Bool) (va : Nat) (trig : Word) : M (Except FaultInfo Bool) := do
  match (← agentField c .read (onlyTypes types) 1 va) with
  | .error f => return .error f
  | .ok l =>
    if l.ty = 1 && va % 8 ≠ 0 then return .error (faultAtVa .address va)
    match testAt l va (.await trig) (← get) with
    | none => return .ok false
    | some (.passed ..) => return .ok true
    | some .poison => return .error (faultAtVa .poison va)
    | some .misaligned => return .error (faultAtVa .address va)
    | some (.lost code) => return .error (faultAtVa code va)
    | some .unreachable | some .notPassed => return .error (faultAtVa .unreachableThreshold va)

/-- A release join of 1, as JOIN.D.REL makes it. -/
def agentJoin (c : Context) (va : Nat) : M (Option FaultInfo) := do
  match (← agentField c .write (refuseJoin 64) 8 va) with
  | .error f => return some f
  | .ok l =>
    let s ← get
    let r := (s.countRead c l va).joinAt { cell := l.key va, width := 64, ty := l.ty, arg := l.arg, val := 1, rel := true, tags := [] }
    set r.1
    return r.2.map (fun code => faultAtVa code va)

/-! Records (R280). -/

/-- A doubleword of a record: of a FILL1 line as LDC reads it, else as a load reads it. -/
def agentRecordWord (c : Context) (va : Nat) (asks : Bool) : M (Except FaultInfo Val) := do
  match (← copyPlace c .read false (fun l => if l.ty ≤ 1 then none else some .badType) 8 va) with
  | .error f => return .error f
  | .ok (.page l) =>
    if l.ty = 1 then return (← agentConst c va asks).map (fun x => { bits := x })
    else
      let s ← get
      match s.homeCode l va (dieOf c.core) with
      | some code => return .error (s.answerFault c.asid code (BitVec.ofNat 64 va))
      | none =>
        set (if asks then s.countRead c l va else s)
        return .ok { bits := s.word (l.key va), mark := s.mem.marked (l.key va) 8 }
  | .ok (.stack pa) =>
    let s ← get
    if let some code := s.lostCode pa (dieOf c.core) then return .error (faultAtVa code va)
    return .ok { bits := s.word pa, mark := s.mem.marked pa 8 }
  | .ok (.slice o) =>
    let s ← get
    return .ok { bits := BitVec.ofNat 64 (s.sliceRead c o 8), mark := anyMark (s.sliceMarks c o 8) }
  | .ok _ => return .error (faultAtVa .address va)

/-- The next doublewords of a record at `first`: one request for each line (R101). -/
def agentRecordWords (c : Context) (first va : Nat) : Nat → M (Except FaultInfo (List Val))
  | 0 => pure (.ok [])
  | n + 1 => do
    match (← agentRecordWord c va (newLine first va)) with
    | .error f => return .error f
    | .ok x => match (← agentRecordWords c first (va + 8) n) with
      | .error f => return .error f
      | .ok xs => return .ok (x :: xs)

/-- A record read and checked as ReadRecord does, of either class. -/
def agentRecord (c : Context) (launch : Nat) (va : Nat) : M (Except FaultInfo TaskRec) := do
  if va % 8 ≠ 0 then return .error (faultAtVa .address va)
  match (← agentRecordWords c va va 8) with
  | .error f => return .error f
  | .ok ws =>
    if ws.any Val.mark then return .error (faultAtVa .poison va)
    let v : Vector Word 8 := Vector.ofFn (fun i : Fin 8 => (nthVal ws i.val).bits)
    if !recordOk v then return .error (faultAtVa .illegalOperand va)
    if v[1].getLsbD 5 && !c.sys then return .error (faultAtVa .privilege va)
    return .ok { asid := c.asid, launch := launch, words := v }

/-! Ranges (R229, R230). -/

/-- The 4 KiB units of a range. -/
def rangeUnits (a n : Nat) : List Nat :=
  (List.range ((a + n - alignDown a 4096 + 4095) / 4096)).map (fun i => alignDown a 4096 + 4096 * i)

/-- Every page of a range under FieldAccess. -/
def agentPages (c : Context) (local_ : Bool) : List Nat → M (Except FaultInfo (List (Nat × Leaf)))
  | [] => pure (.ok [])
  | va :: rest => do
    match (← agentField c .write (onlyTypes fieldType) 1 va) with
    | .error f => return .error f
    | .ok l =>
      if local_ && l.remote then return .error (pageFault .permission va l)
      match (← agentPages c local_ rest) with
      | .error f => return .error f
      | .ok ps => return .ok ((va, l) :: ps)

/-- Checks 1 and 2 of R229 and R230. -/
def rangeFault (g a n : Nat) : Option FaultInfo :=
  if n % g ≠ 0 || n = 0 || 2 ^ 30 < n then some { code := .illegalOperand }
  else if a % g ≠ 0 || !rangeOk a n then some (faultAtVa .address a)
  else none

/-- Every line of a range frozen at its home (R74), each freeze a request that is counted there (R101). -/
def agentFreeze (c : Context) (local_ : Bool) (a n : Nat) : M (Option FaultInfo) := do
  match (← agentPages c local_ (rangeUnits a n)) with
  | .error f => return some f
  | .ok ps =>
    modify fun s => ps.foldl (fun s p => (List.range 32).foldl (fun s i =>
      let va := p.1 + 128 * i
      if a ≤ va && va < a + n then (s.countRead c p.2 va).freezeAt (p.2.line va) p.2.ty else s) s) s
    return none

/-! Copies (R303, R321): a row of LEN bytes, or LEN / 128 filled lines, unit after unit. -/

/-- The units of such a copy. -/
def agentUnit (src dst : BitVec 48) (len u : Nat) : Option CopyUnit :=
  match unitPlace dst.toNat 0 len 1 0 u with
  | none => none
  | some (r, o, n) => some { row := r, src := src.toNat + o, dst := dst.toNat + o, n := n, dn := n }

/-- The bytes of a unit written at their home. -/
def State.agentWrite (s : State) (c : Context) (fill : Bool) (x : CopyUnit) (p : Place) (v marks : Nat) :
    Except FaultInfo State :=
  match p with
  | .slice o => .ok (s.sliceWrite c.key o x.n v marks)
  | .stack pa => match s.lostCode pa (dieOf c.core) with
    | some code => .error (faultAtVa code x.dst)
    | none => .ok (s.stackStore c.core pa x.n v marks)
  | .chip core off => s.chipWrite core off x.n v marks (BitVec.ofNat 64 x.dst)
  | .device off => s.deviceWrite off x.n v (BitVec.ofNat 64 x.dst)
  | .page l =>
    match s.homeCode l x.dst (dieOf c.core) with
    | some code => .error (s.answerFault c.asid code (BitVec.ofNat 64 x.dst))
    | none =>
      let s1 := s.countRead c l x.dst
      if fill then
        let r := s1.fillAt (l.line x.dst) (BitVec.ofNat 1024 v) (anyMark marks)
        match r.2 with
        | some code => .error (faultAtVa code x.dst)
        | none => .ok r.1
      else .ok { (s1.dropAllReplicas (l.line x.dst)).spoilReplies (l.line x.dst) with
                 mem := s1.mem.writeMarks (l.key x.dst) x.n v marks }

/-- A fill or store of an agent waits until the gateways have dropped the line: a fill that poisons it (R111), and a store to a
PRIVATE line (R335). -/
def State.agentHeld (s : State) (fill : Bool) (x : CopyUnit) (p : Place) (v marks : Nat) : Option Nat :=
  match p with
  | .page l =>
    let line := l.line x.dst
    let poisons := s.fillPoisons line (BitVec.ofNat 1024 v) (anyMark marks)
    if s.gatewaysHold line && (!fill || poisons) then some line else none
  | _ => none

/-- What a unit of such a copy comes to. -/
inductive AgentUnit where
  | done
  | fault (f : FaultInfo)
  /-- it waits, what it has begun kept: invalidations are on their way to the gateways -/
  | wait
deriving DecidableEq, Repr

/-- The configuration of such a copy: plain, without a barrier. -/
def agentCfg : CopyCfg := copyCfg 0 0

/-- Whether such a copy is a migration copy, as its first pair of pages says, with its further limits (R105, R129).
(notes/assumptions/43.md) -/
def agentMigrates (c : Context) (fill : Bool) (src dst : BitVec 48) (len : Nat) : M (Except FaultInfo Bool) := do
  if fill then return .ok false
  match (← migrationAt c agentCfg src.toNat dst.toNat) with
  | none => return .ok false
  | some _ =>
    if len % 128 = 0 && src.toNat % 128 = 0 && dst.toNat % 128 = 0 then return .ok true
    else return .error { code := .illegalOperand }

/-- A unit performed: of a migration copy as of one that CCOPY makes. -/
def agentCopyUnit (c : Context) (fill mig : Bool) (x : CopyUnit) : M AgentUnit := do
  if mig then
    match (← migrateUnit c agentCfg x) with
    | .sent _ s1 =>
      set s1
      return .done
    | .fault f => return .fault f
    | .wait => throw .stall
  match (← readUnit c x.src x.n) with
  | .wait => throw .stall
  | .fault f => return .fault f
  | .ok v marks =>
    if windowOf x.dst != windowOf (x.dst + x.dn - 1) then return .fault (faultAtVa .address x.dst)
    let refuse := if fill then onlyTypes (fun ty => decide (ty = 1)) else refusePlain c.sys
    match (← copyPlace c .write fill refuse x.dn x.dst) with
    | .error f => return .fault f
    | .ok p =>
      match p with
      | .page l => if l.jblock then throw .stall
      | _ => pure ()
      match (← get).agentHeld fill x p v marks with
      | some line =>
        modify fun s => s.invalidateAll line
        return .wait
      | none =>
        match (← get).agentWrite c fill x p v marks with
        | .error f => return .fault f
        | .ok s1 =>
          set s1
          return .done

/-! The legacy window's commands (R303). -/

/-- The first command of a context with the command processor, if it is of an operation. -/
def State.legacyHead (s : State) (k : Key) (op : Nat) : Option Legacy :=
  match s.legacy.find? (fun l => l.k == k) with
  | some l => if l.op = op then some l else none
  | none => none

/-- The first command of a context taken from the list, or changed. -/
def State.setLegacy (s : State) (l : Legacy) (new : Option Legacy) : State :=
  let rec go : List Legacy → List Legacy
    | [] => []
    | x :: r => if x = l then (match new with
        | some y => y :: r
        | none => r) else x :: go r
  { s with legacy := go s.legacy }

/-- The context that submitted a command, if it lives: a new task of the same CTXID is another one.
(notes/assumptions/51.md) -/
def State.submitter (s : State) (l : Legacy) : Option Context := (s.ctx? l.k).filter (fun c => c.born == l.born)

/-- Who a command acts for: its context, or one of its address space and rights where the context is gone.
(notes/assumptions/51.md) -/
def State.legacyCtx (s : State) (l : Legacy) : Context := (s.submitter l).getD (agentCtx l.k.asid l.sys l.core)

/-- A command that faults: its record of KIND 6, with the PC of its go store. -/
def State.legacyFault (s : State) (l : Legacy) (f : FaultInfo) : State :=
  (s.setLegacy l none).postRecord { id := 0, asid := l.k.asid, ctxid := l.k.ctxid, kind := 6, info := f, pc := l.pc
                                    live := false }

/-- A command finished: CELL receives its release join; none while that has to wait. -/
def State.legacyDone (s : State) (l : Legacy) : Option State :=
  if l.cell = 0 then some (s.setLegacy l none)
  else match s.runM (agentJoin (s.legacyCtx l) l.cell.toNat) with
    | none => none
    | some (none, s1) => some (s1.setLegacy l none)
    | some (some f, s1) => some (s1.legacyFault l f)

/-- A command reads or writes the slice of a context that is in its frame: it waits until the context is back.
(notes/assumptions/51.md) -/
def State.legacyAway (s : State) (l : Legacy) (vas : List Nat) : Bool :=
  (s.submitter l).any (fun c => c.slot.isNone) && vas.any (fun va => windowOf va == .scratch)

/-- The next unit of a COPY or FILL, or its end. -/
def State.legacyCopyStep (s : State) (l : Legacy) (fill : Bool) : State :=
  match agentUnit l.src l.dst l.len l.done with
  | none => (s.legacyDone l).getD s
  | some x =>
    if s.legacyAway l [x.src, x.dst] then s
    else
      let act : M (Except FaultInfo (Bool × AgentUnit)) := do
        match (← if l.done = 0 then agentMigrates (s.legacyCtx l) fill l.src l.dst l.len else pure (.ok l.mig)) with
        | .error f => return .error f
        | .ok mig => return .ok (mig, ← agentCopyUnit (s.legacyCtx l) fill mig x)
      match s.runM act with
      | none => s
      | some (.ok (_, .wait), s1) => s1
      | some (.error f, s1) | some (.ok (_, .fault f), s1) => s1.legacyFault l f
      | some (.ok (mig, .done), s1) => s1.setLegacy l (some { l with done := l.done + 1, mig := mig })

/-- LEGACY_COPY (R303) -/
def legacyCopy (k : Key) (s : State) : State :=
  match s.legacyHead k 1 with
  | none => s
  | some l => s.legacyCopyStep l false

/-- LEGACY_COPY (R303) -/
def execLegacyCopy (k : Key) (s : State) : Host.Outcome State Fault Refusal := event (legacyCopy k) s

/-- LEGACY_FILL (R303) -/
def legacyFill (k : Key) (s : State) : State :=
  match s.legacyHead k 2 with
  | none => s
  | some l => s.legacyCopyStep l true

/-- LEGACY_FILL (R303) -/
def execLegacyFill (k : Key) (s : State) : Host.Outcome State Fault Refusal := event (legacyFill k) s

/-- LEGACY_LAUNCH (R303): the record goes to an inbox by its class once there is room; its tasks are a launch of their own
(R309). Then CELL is joined. (notes/assumptions/51.md) -/
def legacyLaunch (k : Key) (s : State) : State :=
  match s.legacyHead k 3 with
  | none => s
  | some l =>
    if l.done ≠ 0 then (s.legacyDone l).getD s
    else if s.legacyAway l [l.src.toNat] then s
    else match s.runM (agentRecord (s.legacyCtx l) 0 l.src.toNat) with
    | none => s
    | some (.error f, s1) => s1.legacyFault l f
    | some (.ok r, s1) =>
      match s1.redirect (l.dst.toNat % 1024) with
      | none => s
      | some core =>
        if !s1.inboxRoom core (decide (r.cls = 1)) then s
        else
          let x : Launch := { id := s1.nextSeq, queue := none, tag := 0, mode := 0, asid := l.k.asid, kind := 3 }
          let s2 : State := { s1 with nextSeq := s1.nextSeq + 1, launches := s1.launches ++ [x] }
          let l1 : Legacy := { l with done := 1 }
          let s3 := (s2.putInbox core (decide (r.cls = 1)) { r with key := l.key, launch := x.id }).setLegacy l (some l1)
          (s3.legacyDone l1).getD s3

/-- LEGACY_LAUNCH (R303) -/
def execLegacyLaunch (k : Key) (s : State) : Host.Outcome State Fault Refusal := event (legacyLaunch k) s

end Sys2Proof.Machine
end

