-- ==== Sys2Proof/Machine/Alu.lean ====
section
/-! DEFINITION. Scalar arithmetic, major 0x00, and the immediate forms (spec/09_instructions_control_scalar_field.md R207 to
R213). LDC, which reads memory, stands with the loads. -/
namespace Sys2Proof.Machine

/-- DIV (R207): by zero all ones; the one overflow wraps to itself. -/
def divSigned (a b : Word) : Word :=
  if b = 0 then BitVec.allOnes 64 else BitVec.ofInt 64 (Int.tdiv a.toInt b.toInt)

/-- REM (R207): by zero the dividend. -/
def remSigned (a b : Word) : Word :=
  if b = 0 then a else BitVec.ofInt 64 (a.toInt - b.toInt * (divSigned a b).toInt)

/-- DIVN (R207). -/
def divUnsigned (a b : Word) : Word := if b = 0 then BitVec.allOnes 64 else a / b

/-- REMN (R207). -/
def remUnsigned (a b : Word) : Word := if b = 0 then a else a % b

/-- MULH (R207). -/
def mulHigh (a b : Word) : Word := BitVec.ofInt 64 (a.toInt * b.toInt / (2 ^ 64 : Nat))

/-- MULHN (R207). -/
def mulHighUnsigned (a b : Word) : Word := BitVec.ofNat 64 (a.toNat * b.toNat / 2 ^ 64)

/-- The shift amount b[5:0]. -/
def shiftAmount (b : Word) : Nat := b.toNat % 64

/-- CLZ (R207). -/
def leadingZeros (a : Word) : Word := if a = 0 then 64 else BitVec.ofNat 64 (63 - topBit a.toNat)

/-- POPC (R207). -/
def oneBits (a : Word) : Word := BitVec.ofNat 64 ((List.range 64).countP (fun i => a.getLsbD i))

/-- BFX (R208). -/
def extractField (a b : Word) : Word :=
  let lo := wbits b 0 6
  let width := wbits b 6 6 + 1
  let f := a.toNat / 2 ^ lo % 2 ^ width
  if b.getLsbD 12 && bitsOf f (width - 1) 1 == 1 then BitVec.ofInt 64 ((f : Int) - (2 ^ width : Nat)) else BitVec.ofNat 64 f

/-- BFI (R208): `old` is the value read from d. -/
def insertField (old a b : Word) : Word :=
  let lo := wbits b 0 6
  let width := wbits b 6 6 + 1
  let m : Word := BitVec.ofNat 64 ((2 ^ width - 1) * 2 ^ lo)
  (old &&& ~~~ m) ||| (BitVec.ofNat 64 (a.toNat * 2 ^ lo) &&& m)

/-- ADD -/
def execAdd (d a b : Scalar) (s : State) : Host.Outcome State Fault Refusal :=
  issue (.add d a b) (alu2 d a b (fun x y => x + y)) s

/-- SUB -/
def execSub (d a b : Scalar) (s : State) : Host.Outcome State Fault Refusal :=
  issue (.sub d a b) (alu2 d a b (fun x y => x - y)) s

/-- AND -/
def execAnd (d a b : Scalar) (s : State) : Host.Outcome State Fault Refusal :=
  issue (.and d a b) (alu2 d a b (fun x y => x &&& y)) s

/-- OR -/
def execOr (d a b : Scalar) (s : State) : Host.Outcome State Fault Refusal :=
  issue (.or d a b) (alu2 d a b (fun x y => x ||| y)) s

/-- XOR -/
def execXor (d a b : Scalar) (s : State) : Host.Outcome State Fault Refusal :=
  issue (.xor d a b) (alu2 d a b (fun x y => x ^^^ y)) s

/-- SHL -/
def execShl (d a b : Scalar) (s : State) : Host.Outcome State Fault Refusal :=
  issue (.shl d a b) (alu2 d a b (fun x y => x <<< shiftAmount y)) s

/-- SHR -/
def execShr (d a b : Scalar) (s : State) : Host.Outcome State Fault Refusal :=
  issue (.shr d a b) (alu2 d a b (fun x y => x >>> shiftAmount y)) s

/-- SRA -/
def execSra (d a b : Scalar) (s : State) : Host.Outcome State Fault Refusal :=
  issue (.sra d a b) (alu2 d a b (fun x y => x.sshiftRight (shiftAmount y))) s

/-- MIN -/
def execMin (d a b : Scalar) (s : State) : Host.Outcome State Fault Refusal :=
  issue (.min d a b) (alu2 d a b (fun x y => if x.slt y then x else y)) s

/-- MAX -/
def execMax (d a b : Scalar) (s : State) : Host.Outcome State Fault Refusal :=
  issue (.max d a b) (alu2 d a b (fun x y => if x.slt y then y else x)) s

/-- MINN -/
def execMinn (d a b : Scalar) (s : State) : Host.Outcome State Fault Refusal :=
  issue (.minn d a b) (alu2 d a b (fun x y => if x.ult y then x else y)) s

/-- MAXN -/
def execMaxn (d a b : Scalar) (s : State) : Host.Outcome State Fault Refusal :=
  issue (.maxn d a b) (alu2 d a b (fun x y => if x.ult y then y else x)) s

/-- MUL -/
def execMul (d a b : Scalar) (s : State) : Host.Outcome State Fault Refusal :=
  issue (.mul d a b) (alu2 d a b (fun x y => x * y)) s

/-- MULH -/
def execMulh (d a b : Scalar) (s : State) : Host.Outcome State Fault Refusal :=
  issue (.mulh d a b) (alu2 d a b mulHigh) s

/-- MULHN -/
def execMulhn (d a b : Scalar) (s : State) : Host.Outcome State Fault Refusal :=
  issue (.mulhn d a b) (alu2 d a b mulHighUnsigned) s

/-- DIV -/
def execDiv (d a b : Scalar) (s : State) : Host.Outcome State Fault Refusal :=
  issue (.div d a b) (alu2 d a b divSigned) s

/-- DIVN -/
def execDivn (d a b : Scalar) (s : State) : Host.Outcome State Fault Refusal :=
  issue (.divn d a b) (alu2 d a b divUnsigned) s

/-- REM -/
def execRem (d a b : Scalar) (s : State) : Host.Outcome State Fault Refusal :=
  issue (.rem d a b) (alu2 d a b remSigned) s

/-- REMN -/
def execRemn (d a b : Scalar) (s : State) : Host.Outcome State Fault Refusal :=
  issue (.remn d a b) (alu2 d a b remUnsigned) s

/-- CLZ -/
def execClz (d a : Scalar) (s : State) : Host.Outcome State Fault Refusal :=
  issue (.clz d a) (alu1 d a leadingZeros) s

/-- POPC -/
def execPopc (d a : Scalar) (s : State) : Host.Outcome State Fault Refusal :=
  issue (.popc d a) (alu1 d a oneBits) s

/-- BFX -/
def execBfx (d a b : Scalar) (s : State) : Host.Outcome State Fault Refusal :=
  issue (.bfx d a b) (alu2 d a b extractField) s

/-- BFI: d is read as a source before it is written (R208). -/
def execBfi (d a b : Scalar) (s : State) : Host.Outcome State Fault Refusal :=
  issue (.bfi d a b) (do
    checkSrc a
    checkSrc b
    let old ← readScalar d
    let x ← readScalar a
    let y ← readScalar b
    writeScalar d { bits := insertField old.bits x.bits y.bits, mark := old.mark || x.mark || y.mark }
    return .done) s

/-- CMP -/
def execCmp (d a b : Scalar) (s : State) : Host.Outcome State Fault Refusal :=
  issue (.cmp d a b) (alu2 d a b cmpWord) s

/-- CMPF (R210): NV for an unordered pair. -/
def execCmpf (d a b : Scalar) (s : State) : Host.Outcome State Fault Refusal :=
  issue (.cmpf d a b) (fpu2 d a b (fun _ x y =>
    { code := (cmpfWord x y).toNat, flags := flagIf (x.isNan || y.isNan) flagNV })) s

/-- FADD (R211) -/
def execFadd (d a b : Scalar) (s : State) : Host.Outcome State Fault Refusal :=
  issue (.fadd d a b) (fpu2 d a b fp32.add) s

/-- FSUB (R211) -/
def execFsub (d a b : Scalar) (s : State) : Host.Outcome State Fault Refusal :=
  issue (.fsub d a b) (fpu2 d a b fp32.sub) s

/-- FMUL (R211) -/
def execFmul (d a b : Scalar) (s : State) : Host.Outcome State Fault Refusal :=
  issue (.fmul d a b) (fpu2 d a b fp32.mul) s

/-- FTOI (R212) -/
def execFtoi (d a : Scalar) (s : State) : Host.Outcome State Fault Refusal :=
  issue (.ftoi d a) (fpu1 d a (fun r x =>
    let y := convertInt r (-(2 ^ 63 : Nat)) ((2 ^ 63 : Nat) - 1) (fp32.decode (x.toNat % 2 ^ 32))
    { code := unsignedOf 64 y.1, flags := y.2 })) s

/-- ITOF (R212) -/
def execItof (d a : Scalar) (s : State) : Host.Outcome State Fault Refusal :=
  issue (.itof d a) (fpu1 d a (fun r x => fp32.ofValue r (.ofInt x.toInt))) s

/-- ADDI -/
def execAddi (d a : Scalar) (imm : BitVec 13) (s : State) : Host.Outcome State Fault Refusal :=
  issue (.addi d a imm) (alu1 d a (fun x => x + sext64 imm)) s

/-- ANDI -/
def execAndi (d a : Scalar) (imm : BitVec 13) (s : State) : Host.Outcome State Fault Refusal :=
  issue (.andi d a imm) (alu1 d a (fun x => x &&& sext64 imm)) s

/-- ORI -/
def execOri (d a : Scalar) (imm : BitVec 13) (s : State) : Host.Outcome State Fault Refusal :=
  issue (.ori d a imm) (alu1 d a (fun x => x ||| sext64 imm)) s

/-- XORI -/
def execXori (d a : Scalar) (imm : BitVec 13) (s : State) : Host.Outcome State Fault Refusal :=
  issue (.xori d a imm) (alu1 d a (fun x => x ^^^ sext64 imm)) s

/-- SHLI -/
def execShli (d a : Scalar) (n : Fin 64) (s : State) : Host.Outcome State Fault Refusal :=
  issue (.shli d a n) (alu1 d a (fun x => x <<< n.val)) s

/-- SHRI -/
def execShri (d a : Scalar) (n : Fin 64) (s : State) : Host.Outcome State Fault Refusal :=
  issue (.shri d a n) (alu1 d a (fun x => x >>> n.val)) s

/-- SRAI -/
def execSrai (d a : Scalar) (n : Fin 64) (s : State) : Host.Outcome State Fault Refusal :=
  issue (.srai d a n) (alu1 d a (fun x => x.sshiftRight n.val)) s

/-- CMPI (R209) -/
def execCmpi (d a : Scalar) (imm : BitVec 13) (s : State) : Host.Outcome State Fault Refusal :=
  issue (.cmpi d a imm) (alu1 d a (fun x => cmpWord x (sext64 imm))) s

/-- MOVI -/
def execMovi (d : Scalar) (imm : BitVec 19) (s : State) : Host.Outcome State Fault Refusal :=
  issue (.movi d imm) (aluConst d (sext64 imm)) s

/-- PC + 2 × Sx(imm19, 19) modulo 2^64 (R21, R161). -/
def pcRelative (pc : CodeAddr) (imm : BitVec 19) : Word := pc.setWidth 64 + 2 * sext64 imm

/-- ADDPC -/
def execAddpc (d : Scalar) (imm : BitVec 19) (s : State) : Host.Outcome State Fault Refusal :=
  issue (.addpc d imm) (do aluConst d (pcRelative (← cur).regs.pc imm)) s

end Sys2Proof.Machine
end

