-- ==== Sys2Proof/Machine/Control.lean ====
section
/-! DEFINITION. Guards, prepared control transfer and the constant load (spec/09_instructions_control_scalar_field.md R195
to R206, R214). -/
namespace Sys2Proof.Machine

/-- The 16-bit NOP (R158). -/
def execNop16 (s : State) : Host.Outcome State Fault Refusal := issue .nop16 (pure .done) s

/-- NOP (R291). -/
def execNop (s : State) : Host.Outcome State Fault Refusal := issue .nop (pure .done) s

/-- GUARD (R195). -/
def execGuard (sense : Bool) (bit : Fin 64) (n : Fin 32) (s : State) : Host.Outcome State Fault Refusal :=
  issue (.guard sense bit n) (do
    let x := (← cur).regs.readG n
    return .guarded (some (x.bits.getLsbD bit.val == sense)) none) s

/-- VGUARD (R196): the mask is read before the guarded instruction runs. -/
def execVguard (sense : Bool) (bit : Fin 32) (n : Fin 32) (s : State) : Host.Outcome State Fault Refusal :=
  issue (.vguard sense bit n) (do
    let x := (← cur).regs.v[n.val % 16]
    return .guarded none (some (BitVec.ofNat 128 (packList 1
      ((List.range 128).map (fun l => if (lane x.bits l).getLsbD bit.val == sense then 1 else 0)))))) s

/-! Prepares. -/

/-- A target register written. -/
def setTarget (n : Fin 8) (t : Target) : M Unit := modRegs fun r => { r with b := r.b.set n t }

/-- PrepareTarget of R198: a cause met is held. -/
def prepareTarget (n : Fin 8) (addr : Word) (cause : Option Cause) : M Unit := do
  let c ← cur
  let held ← match cause with
    | some k => pure (some k)
    | none => fetchCheck c.core c.asid c.sys addr
  setTarget n (({ addr := addr.setWidth 48, prepared := true : Target }).hold held)

/-- CodeRead of R202: `size` bytes of a frozen line of a FILL1 page, whatever its X bit; none where the read fails. -/
def codeRead (addr : Word) (size : Nat) : M (Option Nat) := do
  let c ← cur
  let va := addr.toNat
  if va % size ≠ 0 || windowOf va != .global then return none
  match (← tryTranslate c.core c.asid c.sys .read va) with
  | .error _ => return none
  | .ok l =>
    if l.ty ≠ 1 then return none
    match (← readFrozen c.core c.asid l va) with
    | .error _ => return none
    | .ok x => return if x.frozenClean then some (x.bytes (va % 128) size) else none

/-- PREP (R200) -/
def execPrep (n : Fin 8) (imm : BitVec 19) (s : State) : Host.Outcome State Fault Refusal :=
  issue (.prep n imm) (do
    prepareTarget n ((← cur).regs.pc.setWidth 64 + 2 * sext64 imm) none
    return .done) s

/-- PREPR (R201) (notes/assumptions/23.md) -/
def execPrepr (n : Fin 8) (a : Scalar) (s : State) : Host.Outcome State Fault Refusal :=
  issue (.prepr n a) (do
    checkSrc a
    prepareTarget n (← readClean a) none
    return .done) s

/-- The target PREPX selects, or the address of the word it cannot read (R201, R202). -/
def jumpTable (t i : Word) : M (Word × Option Cause) := do
  match (← codeRead t 8) with
  | none => return (t, some .tableRead)
  | some hdr =>
    let target (off : Nat) : Word := t + 2 * sext64 (BitVec.ofNat 32 off)
    if i.toNat < hdr % 2 ^ 32 then
      let at_ := t + 8 + 4 * i
      match (← codeRead at_ 4) with
      | none => return (at_, some .tableRead)
      | some off => return (target off, none)
    else return (target (hdr / 2 ^ 32), none)

/-- PREPX (R201, R202) (notes/assumptions/23.md) -/
def execPrepx (n : Fin 8) (table index : Scalar) (s : State) : Host.Outcome State Fault Refusal :=
  issue (.prepx n table index) (do
    checkSrc table
    checkSrc index
    let t ← readClean table
    let i ← readClean index
    let (addr, cause) ← jumpTable t i
    prepareTarget n addr cause
    return .done) s

/-- PMOVE (R201) -/
def execPmove (n l : Fin 8) (s : State) : Host.Outcome State Fault Refusal :=
  issue (.pmove n l) (do
    setTarget n (← cur).regs.b[l]
    return .done) s

/-! Transfers. -/

/-- What a delay slot may not hold (R203), whether or not the rest of its fields is right. -/
def slotRefused (bytes : List Byte) : Bool :=
  match decode bytes with
  | .ok i => i.isTransfer || i.isGuard
  | .error (.illegalOperand i) => i.isTransfer || i.isGuard
  | .error _ => false

/-- The delay slot of the transfer at the PC: fetched and checked, with its length (R81, R168, R203). -/
def delaySlot : M Nat := do
  let s ← get
  let c := s.cur
  let at_ := c.regs.pc + 4
  match (← fetchBytes c.core c.asid c.sys at_.toNat) with
  | .error (cause, va) => throw (.faultAt at_ (s.fetchFault c.core c.asid cause va))
  | .ok bytes =>
    if (s.core c.core).icErrors.contains (c.asid, at_.toNat) then throw (.faultAt at_ { code := .illegalInstruction })
    check (!slotRefused bytes) .transferInSlot (at_.setWidth 64)
    return bytes.length

/-- The TARGET_FAULT of a transfer through a register that holds a cause; one of a failed walk or of a page covers what it
stopped at (R97, R199). -/
def State.heldFault (s : State) (c : Context) (t : Target) : FaultInfo :=
  let f : FaultInfo :=
    { code := .targetFault, addr := t.addr.setWidth 64, sub := t.sub, level := t.level, cause := t.cause }
  if t.sub = 4 then { f with lo := (walkFault t.addr.toNat t.level 1).lo, size := (walkFault t.addr.toNat t.level 1).size }
  else if 5 ≤ t.sub.toNat then
    { f with lo := (s.pageOf c.core c.asid t.addr.toNat).1, size := (s.pageOf c.core c.asid t.addr.toNat).2 }
  else f

/-- POISON of a marked target register (R350), then TARGET_FAULT for a held cause; a held "not code" is checked again and
cleared where the line has become FROZEN (R199, R205). Where the line has, and the instruction's second halfword, on another
page, fails the walk or X, the spec does not say whether the transfer proceeds: that the held cause stays is the model's choice
(notes/assumptions/80.md). -/
def checkTarget (n : Fin 8) (tgt : Target) : M Unit := do
  let s ← get
  let c := s.cur
  let fault := s.heldFault c tgt
  check (decide (tgt.marks = 0)) .poison
  if tgt.sub = 0 then pure ()
  else if tgt.sub = Cause.notCode.sub then
    match (← fetchCheck c.core c.asid c.sys (tgt.addr.setWidth 64)) with
    | none | some .fetchPoison | some .fetchError => setTarget n (tgt.hold none)
    | some _ => raiseInfo fault
  else raiseInfo fault

/-- Transfer of R203: `cond` decides whether it is taken and gives the items it took; `link` is CALL's return register.
A guarded-off transfer only fetches and checks its slot. -/
def transfer (n : Fin 8) (cond : M (Bool × List (Nat × Vec))) (link : Option (Fin 8)) : M Flow := do
  let c ← cur
  let tgt := c.regs.b[n]
  let on := !c.guardedOff
  check (!on || tgt.prepared) .unpreparedTransfer
  let len ← delaySlot
  let next := c.regs.pc + 4 + BitVec.ofNat 48 len
  if !on then return .transfer next false []
  let (taken, items) ← cond
  if taken then checkTarget n tgt
  match link with
  | some l => prepareTarget l (next.setWidth 64) none
  | none => pure ()
  return .transfer (if taken then tgt.addr else next) taken items

/-- A transfer's condition bit, with the port item it took (R203, R350). -/
def branchBit (g : Scalar) (bit : Fin 64) (sense : Bool) : M (Bool × List (Nat × Vec)) := do
  match g with
  | .c p =>
    let ch ← portChan p
    let item ← takeItem p
    let x ← useClean item.toVal
    return (x.getLsbD bit.val == sense, [(ch.id, item)])
  | _ =>
    let x ← readClean g
    return (x.getLsbD bit.val == sense, [])

/-- A port named as a transfer's condition, where the transfer is not guarded off. -/
def checkCondition (g : Scalar) : M Unit := do
  if (← cur).guardedOff then pure () else checkSrc g

/-- JMP (R203) -/
def execJmp (n : Fin 8) (s : State) : Host.Outcome State Fault Refusal :=
  issueTransfer (.jmp n) (transfer n (pure (true, [])) none) s

/-- BR.T (R203) -/
def execBrT (n : Fin 8) (g : Scalar) (bit : Fin 64) (s : State) : Host.Outcome State Fault Refusal :=
  issueTransfer (.brT n g bit) (do
    checkCondition g
    transfer n (branchBit g bit true) none) s

/-- BR.F (R203) -/
def execBrF (n : Fin 8) (g : Scalar) (bit : Fin 64) (s : State) : Host.Outcome State Fault Refusal :=
  issueTransfer (.brF n g bit) (do
    checkCondition g
    transfer n (branchBit g bit false) none) s

/-- CALL (R203, R204) -/
def execCall (n l : Fin 8) (s : State) : Host.Outcome State Fault Refusal :=
  issueTransfer (.call n l) (transfer n (pure (true, [])) (some l)) s

/-- BDEC (R203): the counter is decremented before the slot runs (R204). -/
def execBdec (n : Fin 8) (g : Scalar) (s : State) : Host.Outcome State Fault Refusal :=
  issueTransfer (.bdec n g) (transfer n (do
    let x ← readClean g
    let y := x - 1
    writeScalar g { bits := y }
    return (decide (y ≠ 0), [])) none) s

/-! The constant load. -/

/-- LDC (R214) (notes/assumptions/60.md) -/
def execLdc (d : Scalar) (imm : BitVec 19) (s : State) : Host.Outcome State Fault Refusal :=
  issue (.ldc d imm) (do
    checkDst d
    let e := (← cur).regs.pc.setWidth 64 + 2 * sext64 imm
    let va := e.toNat
    check (decide (va % 8 = 0) && windowOf va == .global) .address e
    let l ← translate .read va
    check (decide (l.ty = 1)) .badType e
    writeScalar d { bits := ← readConst l e }
    return .done) s

end Sys2Proof.Machine
end

