-- ==== Sys2Proof/Machine/Graphs.lean ====
section
/-! DEFINITION. The graph walkers: nodes, their completion and edges, quiescence and reaping, failures
(spec/12_tasks_and_scheduling.md R319 to R330, spec/18 R390, spec/20 R399). -/
namespace Sys2Proof.Machine

/-! Graphs and nodes in the state. -/

/-- A live graph. -/
def State.graph? (s : State) (g : Nat) : Option Graph := s.graphs.find? (fun x => x.id == g)

/-- A graph changed. -/
def State.modGraph (s : State) (g : Nat) (f : Graph → Graph) : State :=
  { s with graphs := s.graphs.map (fun x => if x.id = g then f x else x) }

/-- A node of a graph. -/
def Graph.node? (x : Graph) (n : Nat) : Option GNode := x.nodes.find? (fun y => y.idx == n)

/-- A node changed. -/
def State.modNode (s : State) (g n : Nat) (f : GNode → GNode) : State :=
  s.modGraph g (fun x => { x with nodes := x.nodes.map (fun y => if y.idx = n then f y else y) })

/-- The address of a node (R319). -/
def Graph.nodeVa (x : Graph) (n : Nat) : Nat := x.base + 64 * n

/-- Who the walker of a graph acts as: the launch's address space with system rights (R319). -/
def State.walkerCtx (s : State) (x : Graph) : Context :=
  agentCtx (match s.launch? x.launch with
    | some l => l.asid
    | none => 0) true (192 * x.walker)

/-- The WHILE node whose body holds a node. -/
def Graph.encl (x : Graph) (n : Nat) : Option Nat :=
  (x.bodies.find? (fun b => decide (b.2.1 ≤ n) && decide (n ≤ b.2.2))).map (fun b => b.1)

/-- w of R324: the iteration of the enclosing WHILE, or 0. -/
def Graph.iteration (x : Graph) (n : Nat) : Nat :=
  match x.encl n with
  | some w => ((x.node? w).map (fun y => y.w)).getD 0
  | none => 0

/-! Failures (R329). -/

/-- A node fails: its record goes to the fault queue, and the walker releases no further node. -/
def State.failNode (s : State) (x : Graph) (n : Nat) (code : FaultCode) : State :=
  if x.failed.isSome then s
  else
    let asid := (s.walkerCtx x).key.asid
    (s.modGraph x.id (fun x => { x with failed := some (code, n) })).postRecord
      { id := 0, asid := asid, ctxid := 0, kind := 5, info := faultAtVa code (x.nodeVa n), pc := 0, live := false }

/-! The words of a node (R320, R321). -/

/-- Word `i` of a node. -/
def nodeWord (ws : List Word) (i : Nat) : Word := (ws[i]?).getD 0

/-- KIND -/
def nodeKind (ws : List Word) : Nat := wbits (nodeWord ws 0) 0 4

/-- QUIESCE -/
def nodeQuiet (ws : List Word) : Bool := (nodeWord ws 0).getLsbD 4

/-- The words 1 and 3 to 5 that a kind uses (R320, R321). -/
def usedWords : Nat → List Nat
  | 1 | 2 => [1, 3, 4, 5]
  | 3 => [3, 4, 5]
  | 4 | 9 => [3]
  | 5 | 6 | 7 | 8 => [3, 4]
  | _ => []

/-- The limits of R320 and R321 that every node obeys. -/
def nodeOk (ws : List Word) : Bool :=
  decide (1 ≤ nodeKind ws) && decide (nodeKind ws ≤ 10) && decide (wbits (nodeWord ws 0) 5 11 = 0) &&
    decide (wbits (nodeWord ws 0) 32 32 = 0) && (!nodeQuiet ws || decide (nodeKind ws = 1)) &&
    [1, 3, 4, 5].all (fun i => (usedWords (nodeKind ws)).contains i || decide (nodeWord ws i = 0)) &&
    decide (nodeWord ws 6 = 0) && decide (nodeWord ws 7 = 0) && decide (wbits (nodeWord ws 2) 0 4 = 0)

/-- The limits of R327 on a WHILE node's body. -/
def Graph.whileOk (x : Graph) (n first last : Nat) : Bool :=
  decide (first ≤ last) && decide (last < x.count) && !(decide (first ≤ n) && decide (n ≤ last)) &&
    !x.bodies.any (fun b => decide (first ≤ b.1) && decide (b.1 ≤ last))

/-- What starting a node of a kind is given: the graph, the node, and its words. -/
structure NodeAt where
  g : Graph
  n : GNode
  ws : List Word

/-- A graph on which its walker may act: it has not failed, and its queue is not suspended (R329, R399). -/
def State.walks (s : State) (x : Graph) : Bool := x.failed.isNone && !s.launchSuspended x.launch

/-- A node that may start as one of kind `kind`: ready to run, of the ready nodes the first (R323). -/
def State.startable (s : State) (g n kind : Nat) : Option (NodeAt × State) :=
  match s.graph? g with
  | none => none
  | some x =>
    match x.node? n with
    | none => none
    | some y =>
      if !s.walks x || y.state != .ready || !y.anyRun ||
          x.nodes.any (fun z => z.state == .ready && decide (z.idx < n)) then none
      else match s.runM (agentConsts (s.walkerCtx x) (x.nodeVa n) 8) with
        | some (.ok ws, s1) => if nodeKind ws = kind then some ({ g := x, n := y, ws := ws }, s1) else none
        | _ => none

/-- A node started by an action that may fail or have to wait; it then runs. -/
def State.startNode (s : State) (g n kind : Nat) (act : NodeAt → M (Except FaultCode Unit)) : State :=
  match s.startable g n kind with
  | none => s
  | some (a, s1) =>
    if !nodeOk a.ws then s1.failNode a.g n .illegalOperand
    else match (s1.modNode g n (fun y => { y with state := .running, done := 0, taken := none })).runM (act a) with
      | none => s
      | some (.ok (), s2) => s2
      | some (.error code, s2) => s2.failNode a.g n code

/-- A limit of a node. -/
def limit (ok : Bool) (k : M (Except FaultCode Unit)) : M (Except FaultCode Unit) :=
  if ok then k else pure (.error .illegalOperand)

/-! TASKSET and CREW (R324, R326). -/

/-- Mix(TAG, node × 2^32 + index) of R377. -/
def State.graphKey (s : State) (x : Graph) (n i : Nat) : Word :=
  match s.launch? x.launch with
  | some l => mixKey l.tag (BitVec.ofNat 64 (n * 2 ^ 32 + i))
  | none => 0

/-- Record i of a TASKSET. -/
def State.tasksetRecord (s : State) (a : NodeAt) (r : TaskRec) (i : Nat) : TaskRec :=
  let w1 := r.words[1].toNat % 2 ^ 16 + wbits (nodeWord a.ws 1) 0 48 * 2 ^ 16
  let p := wbits (nodeWord a.ws 4) 32 3
  { (r.setWord 1 (BitVec.ofNat 64 w1)).setWord (Fin.ofNat 8 (2 + p)) (BitVec.ofNat 64 i) with key := s.graphKey a.g a.n.idx i }

/-- A COUNT cell (R320): an aligned cell of a SATC page, whose line has width D or none yet; anything else is a broken limit
(R329). -/
def countCell (c : Context) (va : Nat) : M (Option FaultCode) := do
  if va % 8 ≠ 0 || windowOf va != .global then return some .illegalOperand
  match (← agentField c .read (fun l => if l.ty = 9 then none else some .illegalOperand) 8 va) with
  | .error f => return some f.code
  | .ok l =>
    let w := mdWidth ((← get).meta_ (l.key va))
    return if w = 0 || w = widthCode 64 then none else some .illegalOperand

/-- NODE_TASKSET: the records are built and sent in order. The spec does not speak of a template of the high class: that it
fails the node with ILLEGAL_OPERAND is the model's choice, and so is that a bit of word 4 or 5 without a field does
(notes/assumptions/80.md). -/
def tasksetBody (a : NodeAt) : M (Except FaultCode Unit) := do
  let w4 := nodeWord a.ws 4
  let w5 := nodeWord a.ws 5
  let n := wbits w4 0 32
  let first := wbits w5 0 10
  let cores := wbits w5 10 10
  limit (decide (1 ≤ n) && decide (wbits w4 32 3 ≤ 5) && decide (wbits w4 35 29 = 0) && decide (wbits w5 20 44 = 0) &&
    decide (1 ≤ cores) && decide (cores ≤ 768)) do
    let c := (← get).walkerCtx a.g
    match (← agentRecord c a.g.launch (nodeWord a.ws 3).toNat) with
    | .error f => return .error f.code
    | .ok r =>
      if r.cls ≠ 0 then return .error .illegalOperand
      match (← countCell c (nodeWord a.ws 1).toNat) with
      | some code => return .error code
      | none =>
        modify fun s => (List.range n).foldl (fun s i =>
          s.sendRecord ((first + i % cores) % 768) 3 (s.tasksetRecord a r i)) s
        if !nodeQuiet a.ws then agentAsk c (fun ty => decide (ty = 9)) (nodeWord a.ws 1).toNat
        return .ok ()

/-- NODE_TASKSET (R324) -/
def execNodeTaskset (g n : Nat) (s : State) : Host.Outcome State Fault Refusal :=
  event (fun s => s.startNode g n 1 tasksetBody) s

/-- The member entries of a crew (R326), from the `i`-th on. That a bit of word 1 without a field fails the node is the model's
choice (notes/assumptions/80.md). -/
def crewMembers (a : NodeAt) (c : Context) (i : Nat) : Nat → M (Except FaultCode (List (Nat × TaskRec)))
  | 0 => pure (.ok [])
  | m + 1 => do
    match (← agentConsts c ((nodeWord a.ws 3).toNat + 16 * i) 2) with
    | .error f => return .error f.code
    | .ok ws =>
      let core := wbits (nodeWord ws 1) 0 10
      if 767 < core || wbits (nodeWord ws 1) 10 54 ≠ 0 then return .error .illegalOperand
      match (← agentRecord c a.g.launch (nodeWord ws 0).toNat) with
      | .error f => return .error f.code
      | .ok r =>
        if r.cls ≠ 0 then return .error .illegalOperand
        match (← crewMembers a c (i + 1) m) with
        | .error code => return .error code
        | .ok rest => return .ok ((core, { r with key := (← get).graphKey a.g a.n.idx i }) :: rest)

/-- The limits of R141 on a channel descriptor of a crew. -/
def descOk (ms : List (Nat × TaskRec)) (w : Word) : Bool :=
  let d := chanDesc w
  decide (wbits w 55 9 = 0) && decide (8 ≤ d.slots) && decide (d.slots ≤ 64) && decide (d.area % 128 = 0) &&
    ms.any (fun m => m.1 == d.score) &&
    (match ms.find? (fun m => m.1 == d.dcore) with
      | some m => decide (d.area + d.slots * (if d.wide then 512 else 8) ≤ 4096 * m.2.foot)
      | none => false)

/-- The ports that descriptors bind. -/
def descPorts (ws : List Word) : List (Nat × Nat) :=
  ws.flatMap (fun w => [((chanDesc w).score, (chanDesc w).sport), ((chanDesc w).dcore, (chanDesc w).dport)])

/-- NODE_CREW: the crew starts are held for the members' cores. That a bit of word 4 without a field fails the node is the
model's choice (notes/assumptions/80.md). -/
def crewBody (a : NodeAt) : M (Except FaultCode Unit) := do
  let w4 := nodeWord a.ws 4
  let m := wbits w4 0 4
  let ch := wbits w4 4 6
  limit (decide (1 ≤ m) && decide (m ≤ 8) && decide (ch ≤ 32) && decide (wbits w4 10 54 = 0)) do
    let c := (← get).walkerCtx a.g
    match (← crewMembers a c 0 m) with
    | .error code => return .error code
    | .ok ms =>
      if !decide ((ms.map (fun m => m.1)).Nodup) then return .error .illegalOperand
      match (← agentConsts c (nodeWord a.ws 5).toNat ch) with
      | .error f => return .error f.code
      | .ok ds =>
        if !(ds.all (descOk ms) && decide ((descPorts ds).Nodup)) then return .error .illegalOperand
        match (← countCell c (nodeWord a.ws 1).toNat) with
        | some code => return .error code
        | none =>
          modify fun s => { s with nextSeq := s.nextSeq + 1, crews := s.crews ++
            [{ id := s.nextSeq, launch := a.g.launch, order := s.nextSeq, members := ms, descs := ds }] }
          agentAsk c (fun ty => decide (ty = 9)) (nodeWord a.ws 1).toNat
          return .ok ()

/-- NODE_CREW (R326) -/
def execNodeCrew (g n : Nat) (s : State) : Host.Outcome State Fault Refusal := event (fun s => s.startNode g n 2 crewBody) s

/-! COPY, COND and WHILE (R321, R327). -/

/-- The copy of a COPY node: whether it fills, source, destination, length. -/
def nodeCopyOf (ws : List Word) : Bool × BitVec 48 × BitVec 48 × Nat :=
  (wbits (nodeWord ws 5) 32 2 = 1, (nodeWord ws 3).setWidth 48, (nodeWord ws 4).setWidth 48, wbits (nodeWord ws 5) 0 32)

/-- The limits of a COPY node (R303, R321). That a bit without a field in words 3 to 5 breaks them is the model's choice
(notes/assumptions/80.md). -/
def nodeCopyOk (ws : List Word) : Bool :=
  let k := nodeCopyOf ws
  decide (wbits (nodeWord ws 5) 32 32 ≤ 1) && legacyLenOk (if k.1 then 2 else 1) k.2.2.2 &&
    decide (wbits (nodeWord ws 3) 48 16 = 0) && decide (wbits (nodeWord ws 4) 48 16 = 0) &&
    (!k.1 || (decide (k.2.1.toNat % 128 = 0) && decide (k.2.2.1.toNat % 128 = 0)))

/-- A unit of a running COPY node performed. -/
def State.nodeCopyStep (s : State) (x : Graph) (y : GNode) (ws : List Word) : State :=
  let k := nodeCopyOf ws
  match agentUnit k.2.1 k.2.2.1 k.2.2.2 y.done with
  | none => s
  | some u => match s.runM (agentCopyUnit (s.walkerCtx x) k.1 y.mig u) with
    | none => s
    | some (.wait, s1) => s1
    | some (.fault f, s1) => s1.failNode x y.idx f.code
    | some (.done, s1) => s1.modNode x.id y.idx (fun y => { y with done := y.done + 1 })

/-- A COPY node started: whether its copy is a migration copy is noted (R105, R129). -/
def copyBody (a : NodeAt) : M (Except FaultCode Unit) := do
  let k := nodeCopyOf a.ws
  match (← agentMigrates ((← get).walkerCtx a.g) k.1 k.2.1 k.2.2.1 k.2.2.2) with
  | .error f => return .error f.code
  | .ok mig =>
    modify fun s => s.modNode a.g.id a.n.idx (fun y => { y with mig := mig })
    return .ok ()

/-- NODE_COPY (R321): the node starts, or performs the next unit of its copy. -/
def nodeCopy (g n : Nat) (s : State) : State :=
  match s.graph? g with
  | none => s
  | some x =>
    match x.node? n with
    | none => s
    | some y =>
      if y.state == .running && s.walks x then
        match s.runM (agentConsts (s.walkerCtx x) (x.nodeVa n) 8) with
        | some (.ok ws, s1) => if nodeKind ws = 3 then s1.nodeCopyStep x y ws else s
        | _ => s
      else s.startNode g n 3 (fun a => limit (nodeCopyOk a.ws) (copyBody a))

/-- NODE_COPY (R321) -/
def execNodeCopy (g n : Nat) (s : State) : Host.Outcome State Fault Refusal := event (nodeCopy g n) s

/-- NODE_COND: which edge completes as run. -/
def condBody (a : NodeAt) : M (Except FaultCode Unit) :=
  limit (decide (wbits (nodeWord a.ws 2) 48 16 = 2)) do
    match (← agentExact ((← get).walkerCtx a.g) (nodeWord a.ws 3).toNat) with
    | .error f => return .error f.code
    | .ok x =>
      modify fun s => s.modNode a.g.id a.n.idx (fun y => { y with taken := some (if x = 0 then 1 else 0) })
      return .ok ()

/-- NODE_COND (R327) -/
def execNodeCond (g n : Nat) (s : State) : Host.Outcome State Fault Refusal := event (fun s => s.startNode g n 4 condBody) s

/-- The pending counts of a body set anew, BODYFIRST ready (R327, step 2). -/
def State.startBody (s : State) (g first last : Nat) (preds : List Nat) : State :=
  s.modGraph g (fun x => { x with nodes := x.nodes.map (fun y =>
    if first ≤ y.idx && y.idx ≤ last then
      { y with pending := (preds[y.idx - first]?).getD 0, anyRun := y.idx = first, done := 0, taken := none
               state := if y.idx = first then .ready else .pending }
    else y) })

/-- The NPRED fields of `k` nodes from the `i`-th on. -/
def nodePreds (c : Context) (x : Graph) (i : Nat) : Nat → M (Except FaultCode (List Nat))
  | 0 => pure (.ok [])
  | k + 1 => do
    match (← agentConst c (x.nodeVa i) true) with
    | .error f => return .error f.code
    | .ok w => match (← nodePreds c x (i + 1) k) with
      | .error code => return .error code
      | .ok rest => return .ok (wbits w 16 16 :: rest)

/-- NODE_WHILE: once the limits on its body hold, the condition is read, and an iteration begins or the node completes. -/
def whileBody (a : NodeAt) : M (Except FaultCode Unit) := do
  let w4 := nodeWord a.ws 4
  let first := wbits w4 0 16
  let last := wbits w4 16 16
  limit (a.g.whileOk a.n.idx first last) do
    let c := (← get).walkerCtx a.g
    match (← nodePreds c a.g first (last + 1 - first)) with
    | .error code => return .error code
    | .ok ps =>
      limit (decide (ps.headD 0 = 0)) do
        match (← agentExact c (nodeWord a.ws 3).toNat) with
        | .error f => return .error f.code
        | .ok x =>
          let more := x ≠ 0 && a.n.w < wbits w4 32 32
          modify fun s =>
            if more then s.startBody a.g.id first last ps
            else s.modNode a.g.id a.n.idx (fun y => { y with taken := some 0 })
          return .ok ()

/-- NODE_WHILE (R327) -/
def execNodeWhile (g n : Nat) (s : State) : Host.Outcome State Fault Refusal := event (fun s => s.startNode g n 5 whileBody) s

/-! FREEZE, FALLOW, WAITCELL, NOTIFY and END (R321). -/

/-- NODE_FREEZE: the range is frozen as FREEZE freezes it. -/
def freezeBody (a : NodeAt) : M (Except FaultCode Unit) := do
  let va := (nodeWord a.ws 3).toNat
  let n := (nodeWord a.ws 4).toNat
  match rangeFault 128 va n with
  | some f => return .error f.code
  | none => match (← agentFreeze ((← get).walkerCtx a.g) false va n) with
    | some f => return .error f.code
    | none => return .ok ()

/-- NODE_FREEZE (R321) -/
def execNodeFreeze (g n : Nat) (s : State) : Host.Outcome State Fault Refusal := event (fun s => s.startNode g n 6 freezeBody) s

/-- NODE_FALLOW: the lines are frozen, GEN is raised, and the invalidation of the range begins (R77); `done` holds its
number, counted from 1. -/
def fallowBody (a : NodeAt) : M (Except FaultCode Unit) := do
  let va := (nodeWord a.ws 3).toNat
  let n := (nodeWord a.ws 4).toNat
  let c := (← get).walkerCtx a.g
  match rangeFault 4096 va n with
  | some f => return .error f.code
  | none => match (← agentFreeze c true va n) with
    | some f => return .error f.code
    | none =>
      modify fun s =>
        let id := s.nextSeq
        ((((s.leaves c.key.asid va n).map (fun p => p.2.1)).foldl State.bumpGen s).startInval none c.key.asid va n).modNode
          a.g.id a.n.idx (fun y => { y with done := id + 1 })
      return .ok ()

/-- NODE_FALLOW (R321) -/
def execNodeFallow (g n : Nat) (s : State) : Host.Outcome State Fault Refusal := event (fun s => s.startNode g n 7 fallowBody) s

/-- NODE_WAITCELL: the cell's test goes to its home, and is held there until it passes. -/
def waitcellBody (a : NodeAt) : M (Except FaultCode Unit) := do
  agentAsk ((← get).walkerCtx a.g) fieldType (nodeWord a.ws 3).toNat
  match (← agentTest ((← get).walkerCtx a.g) fieldType (nodeWord a.ws 3).toNat (nodeWord a.ws 4)) with
  | .error f => return .error f.code
  | .ok _ => return .ok ()

/-- NODE_WAITCELL (R321) -/
def execNodeWaitcell (g n : Nat) (s : State) : Host.Outcome State Fault Refusal :=
  event (fun s => s.startNode g n 8 waitcellBody) s

/-- NODE_NOTIFY: the value stands in the first word of an entry; its other words are not fixed, and the same in every run on
the same inputs (R82, notes/assumptions/3.md). -/
def notifyBody (a : NodeAt) : M (Except FaultCode Unit) := do
  modify fun s => match s.launch? a.g.launch with
    | some l => match l.queue with
      | some q => s.postCompletion q (nodeWord a.ws 3 ::
          (List.finRange 3).map (Config.notifyWord l.tag (a.g.nodeVa a.n.idx) a.n.w (nodeWord a.ws 3)))
      | none => s
    | none => s
  return .ok ()

/-- NODE_NOTIFY (R321) -/
def execNodeNotify (g n : Nat) (s : State) : Host.Outcome State Fault Refusal := event (fun s => s.startNode g n 9 notifyBody) s

/-- NODE_END: the graph completes once none of its tasks is live (R330). -/
def endNodeBody (a : NodeAt) : M (Except FaultCode Unit) := do
  modify fun s => s.modGraph a.g.id (fun x => { x with ended := true })
  return .ok ()

/-- NODE_END (R330) -/
def execNodeEnd (g n : Nat) (s : State) : Host.Outcome State Fault Refusal := event (fun s => s.startNode g n 10 endNodeBody) s

/-! Quiescence (R325, R399, R390). -/

/-- A command of a parked context that can go on, and so make a task ready from within. -/
def State.cmdMoves (s : State) (c : Context) (m : Cmd) : Bool :=
  if !m.incomplete || m.state == .stalled then false
  else if c.readyCmd m then true
  else if m.state != .started then false
  else match m.kind with
    | .lrun .. => lampStep c.key m.seq s != s
    | .ccopy .. | .cgather .. | .cjoin .. => !m.units.isEmpty || copyUnitPerformed c.key m.seq m.nextUnit s != s
    | _ => true

/-- A request or answer on its way for one of whom `p` picks: it may ready a context or start a task. -/
def State.onItsWay (s : State) (p : Who → Bool) : Bool := s.msgs.any (fun m => m.body.whos.any p)

/-- Who asks for a context, or for a copy command of it. -/
def asksFor (k : Key) : Who → Bool
  | .ctx k' _ => k' == k
  | .copy k' _ _ => k' == k
  | .watch .. => false

/-- A task at rest: parked, not pre-empted, nothing of its joins, fills and stores outstanding, none of its requests or their
answers on its way, and no command that goes on. (notes/assumptions/63.md) -/
def State.atRest (s : State) (c : Context) : Bool :=
  c.parkedAt.isSome && !c.preempted && c.outs.isEmpty && !s.onItsWay (asksFor c.key) && !c.cmds.any (s.cmdMoves c)

/-- The registration of a task of a launch. -/
def Who.registers (launch : Nat) : Who → Bool
  | .watch _ _ r _ => r.launch == launch
  | _ => false

/-- Every task of a launch has ended or is parked (R325), and no test of a registration of it is on its way.
(notes/assumptions/63.md) -/
def State.quiescent (s : State) (launch : Nat) : Bool :=
  !s.pendingRecords.any (fun r => r.launch == launch) && !s.onItsWay (Who.registers launch) &&
    s.allCtxs.all (fun c => c.launch != launch || s.atRest c)

/-- Whether a test was made by an instruction of a context. -/
def Who.ofCtx (k : Key) : Who → Bool
  | .ctx k' _ => k' == k
  | _ => false

/-- The watches and requests of a context gone (R325, R361, R390). -/
def State.dropRequests (s : State) (k : Key) : State := s.dropTests (Who.ofCtx k)

/-- REAP (R325): a parked task ends without its completion join. -/
def State.reap (s : State) (c : Context) : State :=
  ((s.dropRequests c.key).countEnd c true).freeCtx c

/-- The tasks of a launch reaped. -/
def State.reapAll (s : State) (launch : Nat) : State :=
  (s.allCtxs.filter (fun c => c.launch == launch)).foldl State.reap s

/-! Completion and edges (R322, R323, R328). -/

/-- One region of an edge (R322, R328): a field region is frozen, a private one dropped from the caches. -/
def regionDone (c : Context) (va : Nat) : M (Option FaultCode) := do
  match (← agentConsts c va 2) with
  | .error f => return some f.code
  | .ok ws =>
    let w0 := nodeWord ws 0
    let n := (nodeWord ws 1).toNat
    let a := wbits w0 0 48
    if wbits w0 49 15 ≠ 0 || a % 128 ≠ 0 || n % 128 ≠ 0 || n < 128 || 2 ^ 30 < n then return some .illegalOperand
    else if w0.getLsbD 48 then
      modify fun s => s.l1inv c.key.asid a n
      return none
    else if !rangeOk a n then return some .address
    else match (← agentFreeze c false a n) with
      | some f => return some f.code
      | none => return none

/-- The regions of an edge in order. -/
def regionsDone (c : Context) (va : Nat) : Nat → M (Option FaultCode)
  | 0 => pure none
  | n + 1 => do
    match (← regionDone c va) with
    | some code => return some code
    | none => regionsDone c (va + 16) n

/-- A completion counted into a successor (R323, R329). -/
def countInto (x : Graph) (n succ : Nat) (run : Bool) : M (Option FaultCode) := do
  let now := ((← get).graph? x.id).bind (fun g => g.node? succ)
  match now with
  | none => return some .illegalOperand
  | some y =>
    if y.pending = 0 || x.encl n != x.encl succ then return some .illegalOperand
    modify fun s => s.modNode x.id succ (fun y =>
      let any := y.anyRun || run
      if y.pending = 1 then { y with pending := 0, anyRun := any, state := .ready }
      else { y with pending := y.pending - 1, anyRun := any })
    return none

/-- The edges of a node in list order, from the `i`-th on; `runs` says which complete as run. An edge whose SUCC is 0xFFFF
has no successor to count into (R319). -/
def edgesDone (c : Context) (x : Graph) (n va : Nat) (runs : Nat → Bool) (i : Nat) : Nat → M (Option FaultCode)
  | 0 => pure none
  | k + 1 => do
    match (← agentConsts c (va + 16 * i) 2) with
    | .error f => return some f.code
    | .ok ws =>
      let w0 := nodeWord ws 0
      let w1 := nodeWord ws 1
      let succ := wbits w0 0 16
      if wbits w0 32 32 ≠ 0 || wbits w1 48 16 ≠ 0 || (succ ≠ 0xFFFF && x.count ≤ succ) then return some .illegalOperand
      match (← if runs i then regionsDone c (wbits w1 0 48) (wbits w0 16 16) else pure none) with
      | some code => return some code
      | none =>
        match (← if succ = 0xFFFF then pure none else countInto x n succ (runs i)) with
        | some code => return some code
        | none => edgesDone c x n va runs (i + 1) k

/-- BODYLAST has completed: the WHILE node raises w and looks again (R327). -/
def State.endIteration (s : State) (x : Graph) (n : Nat) : State :=
  match x.bodies.find? (fun b => decide (b.2.2 = n)) with
  | some b => s.modNode x.id b.1 (fun y => { y with w := y.w + 1, state := .ready })
  | none => s

/-- The edges performed, and the node complete. -/
def State.finishNode (s : State) (x : Graph) (y : GNode) (ws : List Word) (run : Bool) : State :=
  let k := wbits (nodeWord ws 2) 48 16
  let runs (i : Nat) : Bool := run && (nodeKind ws ≠ 4 || y.taken == some i)
  let done : NodeState := if run then .completeRun else .completeSkip
  match (s.modNode x.id y.idx (fun y => { y with state := done })).runM
      (edgesDone (s.walkerCtx x) x y.idx (wbits (nodeWord ws 2) 0 48) runs 0 k) with
  | none => s
  | some (none, s1) => s1.endIteration x y.idx
  | some (some code, s1) => s1.failNode x y.idx code

/-- Whether a running node's action is done; `stall` while it is not. -/
def nodeDone (x : Graph) (y : GNode) (ws : List Word) (c : Context) : M (Option FaultCode) := do
  let counted (n : Nat) : M (Option FaultCode) := do
    match (← agentTest c (fun ty => decide (ty = 9)) (nodeWord ws 1).toNat (BitVec.ofNat 64 (n * (x.iteration y.idx + 1)))) with
    | .error f => return some f.code
    | .ok true => return none
    | .ok false => throw .stall
  match nodeKind ws with
  | 1 =>
    if nodeQuiet ws then
      if (← get).quiescent x.launch then
        modify fun s => s.reapAll x.launch
        return none
      else throw .stall
    else counted (wbits (nodeWord ws 4) 0 32)
  | 2 => counted (wbits (nodeWord ws 4) 0 4)
  | 3 =>
    let k := nodeCopyOf ws
    if (agentUnit k.2.1 k.2.2.1 k.2.2.2 y.done).isSome then throw .stall else return none
  | 5 => if y.taken.isSome then return none else throw .stall
  | 7 =>
    let s ← get
    if s.invals.any (fun v => v.id + 1 == y.done) then throw .stall
    modify fun s => s.resetLines c.key.asid (nodeWord ws 3).toNat (nodeWord ws 4).toNat
    return none
  | 8 =>
    match (← agentTest c fieldType (nodeWord ws 3).toNat (nodeWord ws 4)) with
    | .error f => return some f.code
    | .ok true => return none
    | .ok false => throw .stall
  | _ => return none

/-- NODE_COMPLETE (R328): a node whose action is done, or one that is skipped, performs its edges. A ready node that breaks
a limit of R320 or R321, or whose words cannot be read, fails (R329). -/
def nodeComplete (g n : Nat) (s : State) : State :=
  match s.graph? g with
  | none => s
  | some x =>
    match x.node? n with
    | none => s
    | some y =>
      if !s.walks x then s
      else match s.runM (agentConsts (s.walkerCtx x) (x.nodeVa n) 8) with
        | none => s
        | some (.error f, s1) => if y.state == .ready || y.state == .running then s1.failNode x n f.code else s
        | some (.ok ws, s1) =>
          match y.state with
          | .ready =>
            if !y.anyRun then s1.finishNode x y ws false
            else if nodeOk ws then s else s1.failNode x n .illegalOperand
          | .running =>
            match s1.runM (nodeDone x y ws (s1.walkerCtx x)) with
            | none => s
            | some (some code, s2) => s2.failNode x n code
            | some (none, s2) => s2.finishNode x y ws true
          | _ => s

/-- NODE_COMPLETE (R328) -/
def execNodeComplete (g n : Nat) (s : State) : Host.Outcome State Fault Refusal := event (nodeComplete g n) s

/-! The end of a graph (R329, R330). -/

/-- GRAPH_COMPLETE (R330): the END node was ready, or the graph has failed, and none of its tasks is live. -/
def graphComplete (g : Nat) (s : State) : State :=
  match s.graph? g with
  | none => s
  | some x =>
    if s.launchLive x.launch then s
    else
      let s1 : State := { s with graphs := s.graphs.filter (fun y => y.id != g) }
      match x.failed with
      | some (code, n) => s1.complete x.launch 2 code.num n
      | none => if x.ended then s1.complete x.launch 0 0 0 else s

/-- GRAPH_COMPLETE (R330) -/
def execGraphComplete (g : Nat) (s : State) : Host.Outcome State Fault Refusal := event (graphComplete g) s

/-- GRAPH_STALL_FAIL (R329): nothing runs or is ready, no task is live, and END has not become ready. Where no node has a
predecessor to wait for, the spec names no node to report: that such a graph stays as it is is the model's choice
(notes/assumptions/63.md). -/
def graphStallFail (g : Nat) (s : State) : State :=
  match s.graph? g with
  | none => s
  | some x =>
    let still := x.nodes.all (fun y => y.state != .running && y.state != .ready)
    if !s.walks x || x.ended || !still || s.launchLive x.launch then s
    else match x.nodes.find? (fun y => decide (0 < y.pending)) with
      | some y => s.failNode x y.idx .illegalOperand
      | none => s

/-- GRAPH_STALL_FAIL (R329) -/
def execGraphStallFail (g : Nat) (s : State) : Host.Outcome State Fault Refusal := event (graphStallFail g) s

end Sys2Proof.Machine
end

