-- ==== Sys2Proof/Machine/Loads.lean ====
section
/-! DEFINITION. Image loads: the container, its checks, the sections mapped, written and frozen, and the boot tree
(spec/01_annotated_listing.md R25, R26, R30 to R35, spec/15 R369). -/
namespace Sys2Proof.Machine

/-! The container (R30 to R32). -/

/-- A section entry (R31). -/
structure Section where
  image : Nat
  kind : Nat
  ty : Nat
  arg : BitVec 8
  frozen : Bool
  host : Bool
  size : Nat
  va : Nat
  at_ : Nat
  len : Nat
deriving DecidableEq, Repr

/-- What a container holds. -/
structure Container where
  magic : Nat
  version : Nat
  images : Nat
  sections : List Section
  /-- first core, last core, image -/
  places : List (Nat × Nat × Nat)
  /-- parent, child -/
  edges : List (Nat × Nat)
deriving DecidableEq, Repr

/-- Bytes of the container read as a copy would read them, or none. -/
def fileBytes (c : Context) (base off n : Nat) : M (Option Nat) := do
  if n = 0 then return some 0
  if !rangeOk (base + off) n then return none
  match (← readParts c (lineParts (base + off) n)) with
  | .ok x _ => return some x
  | _ => return none

/-- A section entry of an image at a file offset. Its reserved fields and flag bits 7 to 2 are not looked at
(notes/assumptions/52.md). -/
def sectionAt (c : Context) (base image off : Nat) : M (Option Section) := do
  match (← fileBytes c base off 32) with
  | none => return none
  | some x => return some {
      image := image, kind := bitsOf x 0 8, ty := bitsOf x 8 8, arg := BitVec.ofNat 8 (bitsOf x 16 8)
      frozen := bitsOf x 24 1 == 1, host := bitsOf x 25 1 == 1, size := bitsOf x 32 32, va := bitsOf x 64 64
      at_ := bitsOf x 128 64, len := bitsOf x 192 64 }

/-- The elements of a table read one by one; none if any of them cannot be read. -/
def readAll {α : Type} (f : Nat → M (Option α)) (i : Nat) : Nat → M (Option (List α))
  | 0 => pure (some [])
  | n + 1 => do
    match (← f i) with
    | none => return none
    | some x => match (← readAll f (i + 1) n) with
      | none => return none
      | some xs => return some (x :: xs)

/-- The sections of image `i` of a directory. -/
def imageSections (c : Context) (base dir i : Nat) : M (Option (List Section)) := do
  match (← fileBytes c base (dir + 32 * i) 32) with
  | none => return none
  | some x => readAll (fun j => sectionAt c base i (bitsOf x 192 64 + 32 * j)) 0 (bitsOf x 128 32)

/-- The container at an address; none where it cannot be read. That reserved fields of the header, of the directory and of a
placement are ignored is the model's choice (notes/assumptions/52.md, 70.md). -/
def readContainer (c : Context) (base : Nat) : M (Option Container) := do
  match (← fileBytes c base 0 64) with
  | none => return none
  | some h =>
    let images := bitsOf h 96 32
    if images = 0 || 64 < images then return none
    match (← readAll (imageSections c base (bitsOf h 128 64)) 0 images),
        (← readAll (fun i => fileBytes c base (bitsOf h 192 64 + 8 * i) 8) 0 (bitsOf h 320 32)),
        (← readAll (fun i => fileBytes c base (bitsOf h 256 64 + 4 * i) 4) 0 (bitsOf h 352 32)) with
    | some ss, some ps, some es => return some {
        magic := bitsOf h 0 64, version := bitsOf h 64 32, images := images, sections := ss.flatten
        places := ps.map (fun p => (bitsOf p 0 16, bitsOf p 16 16, bitsOf p 32 16))
        edges := es.map (fun e => (bitsOf e 0 16, bitsOf e 16 16)) }
    | _, _, _ => return none

/-! The checks of R33. -/

/-- The cores placed, each with its image. -/
def Container.cores (k : Container) : List (Nat × Nat) :=
  k.places.flatMap (fun p => (List.range (p.2.1 + 1 - p.1)).map (fun i => (p.1 + i, p.2.2)))

/-- The image a core is placed with. -/
def Container.imageOf (k : Container) (core : Nat) : Option Nat :=
  (k.places.find? (fun p => decide (p.1 ≤ core) && decide (core ≤ p.2.1))).map (fun p => p.2.2)

/-- The parent of a core. -/
def parentOf (edges : List (Nat × Nat)) (core : Nat) : Option Nat := (edges.find? (fun e => e.2 == core)).map (fun e => e.1)

/-- The way from a core to the command processor ends within `n` edges. -/
def reachesCp (edges : List (Nat × Nat)) : Nat → Nat → Bool
  | 0, core => decide (core = 0xFFFF)
  | n + 1, core => decide (core = 0xFFFF) || (match parentOf edges core with
    | some p => reachesCp edges n p
    | none => false)

/-- The placement and the boot tree obey R33; a range that ends before it begins, and an image number that is no image's, are
rejected too, which R33 does not list (notes/assumptions/52.md). -/
def Container.treeOk (k : Container) : Bool :=
  let cores := k.cores
  k.places.all (fun p => decide (p.1 ≤ p.2.1) && decide (p.2.1 ≤ 767) && decide (p.2.2 < k.images)) &&
    decide ((cores.map (fun c => c.1)).Nodup) &&
    cores.all (fun c => decide ((k.edges.filter (fun e => e.2 == c.1)).length = 1)) &&
    k.edges.all (fun e => (k.imageOf e.2).isSome && (decide (e.1 = 0xFFFF) || k.imageOf e.1 == k.imageOf e.2)) &&
    cores.all (fun c => reachesCp k.edges k.edges.length c.1) &&
    decide ((k.edges.filter (fun e => e.1 == 0xFFFF)).length ≤ 16) &&
    cores.all (fun c => decide ((k.edges.filter (fun e => e.1 == c.1)).length ≤ 8))

/-- A section obeys the layout of R25, R26 and R31. R33 does not list one that does not: that its container is rejected is the
model's choice (notes/assumptions/79.md). -/
def Section.ok (x : Section) : Bool :=
  decide (x.kind ≤ 3) && decide (x.va % 4096 = 0) && decide (x.size % 4096 = 0) && decide (x.size ≠ 0) &&
    rangeOk x.va x.size && decide (x.len ≤ x.size) && decide (x.ty ≤ 10) && (decide (x.kind ≠ 3) || decide (1 ≤ x.ty))

/-- Two sections overlap. -/
def sectionsMeet : List Section → Bool
  | [] => false
  | x :: r => r.any (fun y => overlaps x.va x.size y.va y.size) || sectionsMeet r

/-- A page of the section is mapped already (R33), or cannot be mapped, as the table path to it or the address space's
descriptor is malformed: that such a container is rejected too is the model's choice (notes/assumptions/79.md). -/
def State.sectionBlocked (s : State) (asid : BitVec 12) (x : Section) : Bool :=
  (List.range (x.size / 4096)).any (fun i => match walk s asid (x.va + 4096 * i) with
    | .ok _ => true
    | .error f => decide (f.cause ≠ 1) || decide (f.level = 5))

/-- R33: the container may be loaded. (notes/assumptions/52.md) -/
def State.containerOk (s : State) (asid : BitVec 12) (k : Container) : Bool :=
  decide (k.magic = 0x01474D495842574B) && decide (k.version = 1) && k.treeOk && k.sections.all Section.ok &&
    !sectionsMeet k.sections && !k.sections.any (s.sectionBlocked asid)

/-! Mapping and writing (R25, R26, R34 phase 1). -/

/-- Free frames taken for a load: `n` frames of 4 KiB, at a multiple of two of them (notes/assumptions/14.md). -/
def State.takeFrames (s : State) (n : Nat) : Nat × State :=
  let first := (s.loadPage + 1) / 2 * 2
  let pa := 4096 * first
  (pa, { s with
    loadPage := first + n
    mem := s.mem.clear pa (4096 * n)
    md := s.md.clear (pa / 128) (32 * n) })

/-- A 16-byte table entry written. -/
def State.putEntry (s : State) (pa : Nat) (w0 w1 : Nat) : State :=
  { s with mem := s.mem.writeN pa 16 (w0 + w1 * 2 ^ 64) false }

/-- A 4 KiB page mapped at an address, below a table of level `lvl`: the tables it lacks are made. -/
def mapBelow (va w0 w1 : Nat) : Nat → Nat → State → State
  | 0, table, s => s.putEntry (table + 16 * (va / 2 ^ levelShift 0 % levelEntries 0)) w0 w1
  | n + 1, table, s =>
    let pa := table + 16 * (va / 2 ^ levelShift (n + 1) % levelEntries (n + 1))
    let e := s.word pa
    if e.getLsbD 0 then mapBelow va w0 w1 n (wbits e 12 40 * 4096) s
    else
      let (t, s1) := s.takeFrames 2
      mapBelow va w0 w1 n t (s1.putEntry pa (t + 1) 0)

/-- A page of a section mapped with the attributes of R25. -/
def State.mapPage (s : State) (asid : BitVec 12) (x : Section) (va pa : Nat) : State :=
  let code := decide (x.kind ≤ 1)
  let ty := if code then 1 else if x.kind = 2 then 0 else x.ty
  let w0 := pa + 3 + ty * 4 + (if code then 128 else 64)
  let w1 := if x.kind = 3 then x.arg.toNat else 0
  let root := wbits (s.word (s.bar1.astbase.toNat + 16 * asid.toNat)) 12 40 * 4096
  mapBelow va w0 w1 4 root s

/-- The widths in bits that a type admits for a cell, narrowest first (R58). -/
def cellWidths (ty : Nat) : List Nat := [16, 32, 64, 128].filter (admitsJoin ty)

/-- The width of the items of a line whose contents are `n` bytes: one that the type admits and that divides them, which the
container does not name (a free value, notes/assumptions/3.md); the narrowest one where none does. -/
def itemWidth (x : Section) (va data n : Nat) : Nat :=
  let ws := cellWidths x.ty
  let fit := ws.filter (fun w => decide (n % (w / 8) = 0))
  match fit[Config.loadWidth va n data % fit.length]? with
  | some w => w
  | none => ws.headD 64

/-- The contents of a line of a join-type region, all of them, joined into cells at bottom (R26); `va` is the line's
address. -/
def State.joinLine (s : State) (x : Section) (va line data n : Nat) : State :=
  let w := itemWidth x va data n
  (List.range ((n + w / 8 - 1) / (w / 8))).foldl (fun (s : State) i =>
    let v := bitsOf data (w * i) w
    let j : JoinReq := { cell := 128 * line + w / 8 * i, width := w, ty := x.ty, arg := x.arg
                         val := if x.ty = 10 then signed 96 v else (v : Nat), count := if x.ty = 10 then v / 2 ^ 96 else 1
                         tags := [] }
    (s.joinAt j).1) s

/-- The contents of a section written at its frames, and the section frozen where it is to be (R25, R26). One with both the
frozen and the host flag gets no contents and is frozen: the spec gives no meaning to the pair (notes/assumptions/52.md). -/
def State.writeSection (s : State) (x : Section) (pa data : Nat) : State :=
  let lines := (List.range ((x.len + 127) / 128)).map (fun i => (i, bitsOf data (1024 * i) 1024, min 128 (x.len - 128 * i)))
  let fill (s : State) : State := lines.foldl (fun s l => (s.fillAt (pa / 128 + l.1) (BitVec.ofNat 1024 l.2.1) false).1) s
  let freeze (s : State) (ty : Nat) : State := (List.range (x.size / 128)).foldl (fun s i => s.freezeAt (pa / 128 + i) ty) s
  match x.kind with
  | 0 | 1 => freeze (fill s) 1
  | 2 => { s with mem := lines.foldl (fun m l => m.writeN (pa + 128 * l.1) l.2.2 l.2.1 false) s.mem }
  | _ =>
    let s1 := if x.host then s else if x.ty = 1 then fill s
      else lines.foldl (fun s l => s.joinLine x (x.va + 128 * l.1) (pa / 128 + l.1) l.2.1 l.2.2) s
    if x.frozen then freeze s1 x.ty else s1

/-- A section loaded; its contents could be read when the container was checked. -/
def State.loadSection (s : State) (c : Context) (base : Nat) (x : Section) : State :=
  match s.runM (fileBytes c base x.at_ x.len) with
  | some (some data, s0) =>
    let (pa, s1) := s0.takeFrames (x.size / 4096)
    let s2 := (List.range (x.size / 4096)).foldl
      (fun s i => s.mapPage c.key.asid x (x.va + 4096 * i) (pa + 4096 * i)) s1
    s2.writeSection x pa data
  | _ => s

/-- The contents of every section can be read; a container where they cannot is rejected, of which R33 says nothing
(notes/assumptions/52.md). -/
def State.contentsOk (s : State) (c : Context) (base : Nat) (k : Container) : Bool :=
  k.sections.all (fun x => match s.runM (fileBytes c base x.at_ x.len) with
    | some (some _, _) => true
    | _ => false)

/-- Phase 1 of R34: the container at an address loaded for a launch; none where R33 rejects it. -/
def State.loadImage (s : State) (launch : Nat) (asid : BitVec 12) (base : Nat) : Option State :=
  let c := agentCtx asid true 0
  match s.runM (readContainer c base) with
  | some (some k, s1) =>
    if s1.containerOk asid k && s1.contentsOk c base k then
      let s2 := k.sections.foldl (fun s x => s.loadSection c base x) s1
      let texts := k.sections.map (fun x => (x.va, x.size))
      let own := (k.sections.filter (fun x => decide (x.kind = 0))).map (fun x => (x.image, x.va, x.size))
      let l : Load := { id := s2.nextSeq, launch := launch, asid := asid, texts := texts, imageText := own
                        placed := k.cores, edges := k.edges }
      some { s2 with nextSeq := s2.nextSeq + 1, loads := s2.loads ++ [l] }
    else none
  | _ => none

/-! The boot tree (R34 phases 2 and 3, R35). -/

/-- A core has been served: it has its text, or it is out of scheduling and its children are served by its parent. -/
def State.served (s : State) (l : Load) (core : Nat) : Bool := l.acked.contains core || (s.core core).out

/-- Who sends to a core: its parent, or the nearest one above it that is in scheduling. -/
def State.sender (s : State) (edges : List (Nat × Nat)) : Nat → Nat → Nat
  | 0, _ => 0xFFFF
  | n + 1, core => match parentOf edges core with
    | none => 0xFFFF
    | some p => if p ≠ 0xFFFF && (s.core p).out then s.sender edges n p else p

/-- The children that its parent's list names before a core. -/
def elderSiblings (edges : List (Nat × Nat)) (core : Nat) : List Nat :=
  match parentOf edges core with
  | none => []
  | some p => ((edges.takeWhile (fun e => e.2 != core)).filter (fun e => e.1 == p)).map (fun e => e.2)

/-- The first `n` bytes of ranges taken in order. -/
def firstBytes : Nat → List (Nat × Nat) → List (Nat × Nat)
  | _, [] => []
  | n, r :: rest => if n = 0 then [] else (r.1, min n r.2) :: firstBytes (n - min n r.2) rest

/-- A line of text put into a core's instruction cache at boot (R34). -/
def State.preloadLine (s : State) (core : Nat) (asid : BitVec 12) (va : Nat) : State :=
  match walk s asid va with
  | .ok (l, _) => s.codePut core { asid := asid, va := va / 128, gen := l.gen, snap := s.snap (l.line va) 1, frozen := true }
  | .error _ => s

/-- BOOT_TEXT_RECEIVE (R34): a placed core whose parent has its text receives it, after its elder siblings, and preloads the
first 64 KiB of it, or all of it where it is less. The spec does not say what the size of an image's text is: that it counts the
whole pages of its text sections, taken in table order, is the model's choice (notes/assumptions/79.md). -/
def bootTextReceive (load core : Nat) (s : State) : State :=
  match s.loads.find? (fun l => l.id == load) with
  | none => s
  | some l =>
    match l.placed.find? (fun p => p.1 == core) with
    | none => s
    | some (_, image) =>
      let from_ := s.sender l.edges l.edges.length core
      if s.served l core || !(decide (from_ = 0xFFFF) || l.acked.contains from_) ||
          !(elderSiblings l.edges core).all (s.served l) then s
      else
        let first := firstBytes 65536 ((l.imageText.filter (fun t => t.1 == image)).map (fun t => t.2))
        let lines := first.flatMap (fun r => (List.range ((r.2 + 127) / 128)).map (fun i => r.1 + 128 * i))
        let l1 : Load := { l with acked := l.acked ++ [core] }
        let s1 : State := { s with loads := s.loads.map (fun x => if x.id = load then l1 else x) }
        lines.foldl (fun s va => s.preloadLine core l.asid va) (s1.modCore core (fun k => { k with warm := k.warm ++ first }))

/-- BOOT_TEXT_RECEIVE (R34) -/
def execBootTextReceive (load core : Nat) (s : State) : Host.Outcome State Fault Refusal := event (bootTextReceive load core) s

/-- IMAGE_LOAD_COMPLETE (R34): every placed core has acknowledged. -/
def imageLoadComplete (load : Nat) (s : State) : State :=
  match s.loads.find? (fun l => l.id == load) with
  | none => s
  | some l =>
    if l.placed.all (fun p => s.served l p.1) then
      ({ s with loads := s.loads.filter (fun x => x.id != load) }).complete l.launch 0 0 0
    else s

/-- IMAGE_LOAD_COMPLETE (R34) -/
def execImageLoadComplete (load : Nat) (s : State) : Host.Outcome State Fault Refusal := event (imageLoadComplete load) s

end Sys2Proof.Machine
end

