-- ==== Sys2Proof/Machine/Matrix.lean ====
section
/-! DEFINITION. The matrix engine: views, MMA, scaling, loads and stores of tiles, and its order
(spec/08_arithmetic_units.md R178 to R184, spec/02_number_formats.md R53 to R57, spec/11 R265 to R272, spec/14 R359). -/
namespace Sys2Proof.Machine

/-! Views (R182, R183). -/

/-- The reserved bits of a descriptor are zero, and every field is in its range. -/
def viewFieldsOk (x : BitVec 256) : Bool :=
  let v := viewOf x
  decide (dbits x 21 3 = 0) && decide (dbits x 56 8 = 0) && decide (dbits x 111 17 = 0) && decide (dbits x 160 32 = 0) &&
    decide (dbits x 224 32 = 0) && decide (1 ≤ v.c) && decide (1 ≤ v.w) && decide (1 ≤ v.h) && decide (1 ≤ v.kh) &&
    decide (1 ≤ v.kw) && decide (1 ≤ v.stride) && decide (1 ≤ v.dil) && decide (1 ≤ v.rows) && decide (v.rows ≤ 64)

/-- The output positions along an axis of `n` inputs, `pad` on both sides and a kernel of `k` (R183). -/
def outCount (n pad dil k stride : Nat) : Int := ((n : Int) + 2 * pad - dil * ((k : Int) - 1) - 1) / stride + 1

/-- OW of R183 -/
def View.ow (v : View) : Int := outCount v.w v.padl v.dil v.kw v.stride

/-- OH of R183 -/
def View.oh (v : View) : Int := outCount v.h v.padt v.dil v.kh v.stride

/-- MCFG of R182 and R267; a marked descriptor is POISON (R350, notes/assumptions/75.md). -/
def mcfgBody (view off : Scalar) : M Flow := do
  checkSrc view
  checkSrc off
  let gv ← readClean view
  let o ← readClean off
  check (decide (wbits gv 3 61 = 0) && decide (wbits o 0 5 = 0)) .illegalOperand
  let c ← cur
  if c.sliceFits o.toNat 32 && c.loadWaits o.toNat 32 then throw .stall
  checkSlice [(o.toNat, 32)] []
  check (!(← get).sliceMarked c o.toNat 32) .poison
  let x := BitVec.ofNat 256 ((← get).sliceRead c o.toNat 32)
  check (viewFieldsOk x) .illegalOperand
  check (decide (1 ≤ (viewOf x).ow) && decide (1 ≤ (viewOf x).oh)) .illegalOperand
  modCur fun c => { c with views := c.views.set (gv.toNat % 8) x }
  return .done

/-- MCFG (R267) -/
def execMcfg (view off : Scalar) (s : State) : Host.Outcome State Fault Refusal :=
  issue (.mcfg view off) (mcfgBody view off) s

/-! Acceptance (R268 to R271). -/

/-- MZERO and MDISCARD of R268: the discard mark changes at acceptance. -/
def zeroTile (discard : Bool) (t : Scalar) : M Flow := do
  checkSrc t
  let x ← readClean t
  check (decide (wbits x 4 60 = 0)) .illegalOperand
  checkTile x.toNat
  let k : CmdKind := if discard then .mdiscard x.toNat else .mzero x.toNat
  stallsAccept none [] k
  acceptCmd none [] k
  markTile x.toNat discard
  return .done

/-- MZERO (R268) (notes/assumptions/45.md) -/
def execMzero (t : Scalar) (s : State) : Host.Outcome State Fault Refusal := issue (.mzero t) (zeroTile false t) s

/-- MDISCARD (R268) (notes/assumptions/45.md) -/
def execMdiscard (t : Scalar) (s : State) : Host.Outcome State Fault Refusal := issue (.mdiscard t) (zeroTile true t) s

/-- The id of a matrix command (R266). -/
def matrixId (b : Word) : Nat := wbits b 14 6

/-- The predecessors of a matrix command (R266). -/
def matrixPreds (b : Word) : List Nat := [wbits b 20 6, wbits b 26 6]

/-- MMA's step 3 (R269), with the view captured. (notes/assumptions/83.md) -/
def mmaRanges (x : BitVec 256) (a b : Word) : M Unit := do
  let v := viewOf x
  let fa := wbits b 4 5
  check (decide (v.rows ≠ 0)) .illegalOperand
  check (!(isCodebook fa && decide (v.c % 8 ≠ 0))) .format
  check (decide (fmtWidth fa < 16) || decide (v.base % (fmtWidth fa / 8) = 0)) .illegalOperand
  checkSlice [(v.base, v.bytes fa), (wbits a 0 21, bBytes (wbits b 9 5) (wbits a 32 16))] []

/-- MMA of R269. The reserved bits of gA and G = 0, which the rule's list does not name, follow the id with the other fields of
R266 (notes/assumptions/76.md). -/
def mmaBody (ra rb : Scalar) : M Flow := do
  checkSrc ra
  checkSrc rb
  let a ← readClean ra
  let b ← readClean rb
  check (decide (wbits a 21 4 < 8) && decide (wbits a 0 7 = 0)) .illegalOperand
  checkId (matrixId b)
  check (decide (wbits a 48 16 = 0) && decide (wbits a 25 7 = 0) && decide (wbits a 32 16 ≠ 0) &&
    decide (wbits b 36 28 = 0) && decide (wbits b 32 3 = 0)) .illegalOperand
  let c ← cur
  let x := c.views[wbits a 21 4 % 8]'(Nat.mod_lt _ (by decide))
  let k : CmdKind := .mma x a b
  stallsAccept (some (matrixId b)) (matrixPreds b) k
  let t := wbits b 0 4
  checkTile t
  if !b.getLsbD 35 then checkLive t
  mmaRanges x a b
  acceptCmd (some (matrixId b)) (matrixPreds b) k
  if b.getLsbD 35 then markTile t false
  return .done

/-- MMA (R269) -/
def execMma (a b : Scalar) (s : State) : Host.Outcome State Fault Refusal := issue (.mma a b) (mmaBody a b) s

/-- MSCALEACC of R270: the scale formats stand with the packing, after the id, and both tile counts before what the tiles
hold (R255; notes/assumptions/76.md). -/
def mscaleaccBody (ra rb : Scalar) : M Flow := do
  checkSrc ra
  checkSrc rb
  let a ← readClean ra
  let b ← readClean rb
  check (decide (wbits a 55 9 = 0) && decide (wbits a 26 3 = 0) && decide (wbits a 0 2 = 0) &&
    decide (wbits a 29 2 = 0)) .illegalOperand
  check (decide (wbits b 36 28 = 0) && decide (wbits b 33 2 = 0) && decide (wbits b 8 6 = 0)) .illegalOperand
  checkId (matrixId b)
  check (decide (wbits a 21 5 ≤ 12) && decide (wbits a 50 5 ≤ 12)) .format
  let k : CmdKind := .mscaleacc a b
  stallsAccept (some (matrixId b)) (matrixPreds b) k
  let t := wbits b 0 4
  let src := wbits b 4 4
  checkCount src
  checkCount t
  checkEvent src
  checkEvent t
  checkLive src
  if !b.getLsbD 35 then checkLive t
  checkSlice [(wbits a 0 21, 8 * fmtWidth (wbits a 21 5)), (wbits a 29 21, 8 * fmtWidth (wbits a 50 5))] []
  acceptCmd (some (matrixId b)) (matrixPreds b) k
  if b.getLsbD 35 then markTile t false
  return .done

/-- MSCALEACC (R270) -/
def execMscaleacc (a b : Scalar) (s : State) : Host.Outcome State Fault Refusal :=
  issue (.mscaleacc a b) (mscaleaccBody a b) s

/-- MLOAD of R271. The check of its format, whose place the rule does not give, comes last (notes/assumptions/76.md). -/
def mloadBody (ra rb : Scalar) : M Flow := do
  checkSrc ra
  checkSrc rb
  let a ← readClean ra
  let b ← readClean rb
  check (decide (wbits a 26 38 = 0) && decide (wbits a 0 7 = 0)) .illegalOperand
  check (decide (wbits b 32 32 = 0) && decide (wbits b 4 10 = 0)) .illegalOperand
  checkId (matrixId b)
  let k : CmdKind := .mload a b
  stallsAccept (some (matrixId b)) (matrixPreds b) k
  let t := wbits b 0 4
  checkTile t
  checkSlice [(wbits a 0 21, 512 * fmtWidth (wbits a 21 5))] []
  check (!isCodebook (wbits a 21 5)) .format
  acceptCmd (some (matrixId b)) (matrixPreds b) k
  markTile t false
  return .done

/-- MLOAD (R271) -/
def execMload (a b : Scalar) (s : State) : Host.Outcome State Fault Refusal := issue (.mload a b) (mloadBody a b) s

/-- MSTORE of R271, its format checked last as in MLOAD: SR goes by the instruction count and SEED at issue. -/
def mstoreBody (ra rb : Scalar) : M Flow := do
  checkSrc ra
  checkSrc rb
  let a ← readClean ra
  let b ← readClean rb
  check (decide (wbits a 30 34 = 0) && decide (wbits a 26 3 < 6) && decide (wbits a 0 7 = 0)) .illegalOperand
  check (decide (wbits b 33 31 = 0) && decide (wbits b 4 10 = 0)) .illegalOperand
  checkId (matrixId b)
  let c ← cur
  let k : CmdKind := .mstore a b c.regs.icount c.regs.seed
  stallsAccept (some (matrixId b)) (matrixPreds b) k
  let t := wbits b 0 4
  checkTile t
  checkLive t
  checkSlice [] [(wbits a 0 21, 512 * fmtWidth (wbits a 21 5))]
  check (isTarget (wbits a 21 5)) .format
  acceptCmd (some (matrixId b)) (matrixPreds b) k
  return .done

/-- MSTORE (R271) -/
def execMstore (a b : Scalar) (s : State) : Host.Outcome State Fault Refusal := issue (.mstore a b) (mstoreBody a b) s

/-- MWAIT (R272) -/
def execMwait (d id : Scalar) (s : State) : Host.Outcome State Fault Refusal :=
  issue (.mwait d id) (waitEngine CmdKind.isMatrix d id) s

/-! Elements. A value goes with the poison mark of what it was read from (R350). -/

/-- Element `e` of a run of `w`-bit elements at a slice offset (R41). -/
def State.runElem (s : State) (c : Context) (off w e : Nat) : Nat × Bool :=
  let first := e * w / 8
  let n := (e * w + w + 7) / 8 - first
  (bitsOf (s.sliceRead c (off + first) n) (e * w % 8) w, anyMark (s.sliceMarks c (off + first) n))

/-- AElement of R183. -/
def State.aElement (s : State) (c : Context) (v : View) (fmt i k : Nat) : FValue × Bool :=
  let p : Int := v.first + i
  let dec (x co : Nat) : FValue := if isCodebook fmt then cbValue fmt x co else elemValue fmt x
  if v.rows ≤ i || v.oh * v.ow ≤ p || v.kh * v.kw * v.c ≤ k then (.zero false, false)
  else
    let y : Int := p / v.ow * v.stride - v.padt + (k / (v.c * v.kw) : Nat) * v.dil
    let x : Int := p % v.ow * v.stride - v.padl + (k / v.c % v.kw : Nat) * v.dil
    if y < 0 || v.h ≤ y || x < 0 || v.w ≤ x then (dec (v.padv % 2 ^ fmtWidth fmt) (k % 8), false)
    else
      let e := (y.toNat * v.w + x.toNat) * v.c + k % v.c
      let r := s.runElem c v.base (fmtWidth fmt) (if isCodebook fmt then e / 8 else e)
      (dec r.1 (e % 8), r.2)

/-- B[k][j] of R184. -/
def State.bElement (s : State) (c : Context) (off fmt k j : Nat) : FValue × Bool :=
  if isCodebook fmt then
    let r := s.runElem c off (fmtWidth fmt) (64 * (k / 8) + j)
    (cbValue fmt r.1 (k % 8), r.2)
  else
    let r := s.runElem c off (fmtWidth fmt) (64 * k + j)
    (elemValue fmt r.1, r.2)

/-- The canonical NaN as a value. -/
def canonicalNaN : FValue := .nan false (2 ^ 22) false

/-- The exact product of factors (R54, R57). -/
def product (vs : List FValue) : FValue :=
  if vs.any FValue.isNan || (vs.any FValue.isInf && vs.any FValue.isZero) then canonicalNaN
  else vs.foldl mulValue (.fin false 1 0)

/-- The sum of a group's products (R53, R54). -/
def groupSum (ps : List FValue) : FValue :=
  if ps.any FValue.isNan || (ps.contains (.inf false) && ps.contains (.inf true)) then canonicalNaN
  else match ps.find? FValue.isInf with
    | some x => x
    | none =>
      let d := ps.foldl (fun acc p => addDyadic acc p.dyadic) (0, 0)
      if d.1 = 0 then .zero (ps.all (fun p => p.isZero && p.neg)) else .fin (decide (d.1 < 0)) d.1.natAbs d.2

/-- RoundFP32(acc + s, RNE) on a tile word (R54). -/
def addWord (acc : Nat) (x : FValue) : Nat :=
  let a := fp32.decode acc
  if a.isNan || x.isNan then fp32.canonicalNan else (fp32.addV rne a x).code

/-- One group added to a word (R53, R55). -/
def addGroup (integer : Bool) (acc : Nat) (xs ys : List FValue) : Nat :=
  if integer then
    unsignedOf 32 ((acc : Int) + (List.zip xs ys).foldl (fun t p => t + p.1.dyadic.1 * p.2.dyadic.1) 0)
  else addWord acc (groupSum ((List.zip xs ys).map (fun p => product [p.1, p.2])))

/-- MmaElement of R53 over the groups `g0` to `g0 + n - 1`. -/
def State.mmaElement (s : State) (c : Context) (v : View) (a b : Word) (i j g0 n : Nat) (acc : Nat × Bool) : Nat × Bool :=
  let fa := wbits b 4 5
  let fb := wbits b 9 5
  (List.range n).foldl (fun acc d =>
    let ks := (List.range 8).map (fun e => 8 * (g0 + d) + e)
    let xs := ks.map (fun k => s.aElement c v fa i k)
    let ys := ks.map (fun k => s.bElement c (wbits a 0 21) fb k j)
    (addGroup (isIntFmt fa && isIntFmt fb) acc.1 (xs.map Prod.fst) (ys.map Prod.fst),
      acc.2 || xs.any Prod.snd || ys.any Prod.snd)) acc

/-- Every word of a tile written. -/
def State.tileFill (s : State) (c : Context) (t : Nat) (f : Nat → Nat × Bool) : State :=
  { s with acc := (List.range 4096).foldl (fun m w => m.writeN (c.tileWord t w) 4 (f w).1 (f w).2) s.acc }

/-- The groups `g0` to `g0 + n - 1` of an MMA accumulated (R269, R359): ZF holds for the first of them only. -/
def State.runMma (s : State) (c : Context) (view : BitVec 256) (a b : Word) (g0 n : Nat) : State :=
  let t := wbits b 0 4
  s.tileFill c t (fun w => s.mmaElement c (viewOf view) a b (w / 64) (w % 64) g0 n
    (if b.getLsbD 35 && decide (g0 = 0) then (0, false) else s.tileWordOf c t w))

/-- A tile word as MSCALEACC and MSTORE read it. -/
def wordValue (int : Bool) (x : Nat) : FValue := if int then .ofInt (signed 32 x) else fp32.decode x

/-- MSCALEACC (R57, R270): with ZF the destination is zeroed before anything is read, a source in the same tile with it. -/
def State.runScale (s : State) (c : Context) (a b : Word) : State :=
  let t := wbits b 0 4
  let scale (off fmt i : Nat) : FValue × Bool :=
    let r := s.runElem c off (fmtWidth fmt) i
    (elemValue fmt r.1, r.2)
  let s0 := if b.getLsbD 35 then s.tileZero c t else s
  s0.tileFill c t (fun w =>
    let x := s0.tileWordOf c (wbits b 4 4) w
    let r := scale (wbits a 0 21) (wbits a 21 5) (w / 64)
    let k := scale (wbits a 29 21) (wbits a 50 5) (w % 64)
    let old := s0.tileWordOf c t w
    (addWord old.1 (product [wordValue (b.getLsbD 32) x.1, r.1, k.1]), old.2 || x.2 || r.2 || k.2))

/-- MLOAD (R181, R271). -/
def State.runLoad (s : State) (c : Context) (a b : Word) : State :=
  let fmt := wbits a 21 5
  s.tileFill c (wbits b 0 4) (fun w =>
    let r := s.runElem c (wbits a 0 21) (fmtWidth fmt) w
    (if isIntFmt fmt then unsignedOf 32 (intValue fmt r.1) else (fp32.convert rne false (elemValue fmt r.1)).code, r.2))

/-- MSTORE (R181, R271): the run is written whole. -/
def State.runStore (s : State) (c : Context) (a b icount seed : Word) : State :=
  let fmt := wbits a 21 5
  let w := fmtWidth fmt
  let xs := (List.range 4096).map (fun e => s.tileWordOf c (wbits b 0 4) e)
  let codes := (List.zip (List.range 4096) xs).map (fun p =>
    (convertTo fmt { mode := wbits a 26 3, seed := seed.toNat, icount := icount.toNat, elem := p.1 } (a.getLsbD 29)
      (wordValue (b.getLsbD 32) p.2.1)).code)
  let ones := packList w (xs.map (fun x => if x.2 then 2 ^ w - 1 else 0))
  let marks := packList 1 ((List.range (512 * w)).map (fun i => if bitsOf ones (8 * i) 8 = 0 then 0 else 1))
  s.sliceWrite c.key (wbits a 0 21) (512 * w) (packList w codes) marks

/-- What a matrix command does, from where it stands. -/
def State.runMatrix (s : State) (c : Context) (m : Cmd) : State :=
  match m.kind with
  | .mzero t => s.tileZero c t
  | .mma view a b => s.runMma c view a b m.groups (wbits a 32 16 - m.groups)
  | .mscaleacc a b => s.runScale c a b
  | .mload a b => s.runLoad c a b
  | .mstore a b icount seed => s.runStore c a b icount seed
  | _ => s

/-! The engine (R179, R180, R359). -/

/-- MATRIX_COMMAND_START (R179): one command at a time, ready ones in acceptance order. -/
def matrixCommandStart (k : Key) (seq : Nat) (s : State) : State :=
  match s.ctx? k with
  | none => s
  | some c =>
    match c.cmd? seq with
    | none => s
    | some m =>
      let busy := s.coreCmds c.core (fun _ y => y.kind.isMatrix && y.state == .started)
      let earlier := s.coreCmds c.core (fun x y => y.kind.isMatrix && x.readyCmd y && decide (y.stamp < m.stamp))
      if m.kind.isMatrix && c.readyCmd m && busy.isEmpty && earlier.isEmpty then
        s.modCmd k seq (fun m => { m with state := .started })
      else s

/-- MATRIX_COMMAND_START (R179) -/
def execMatrixCommandStart (k : Key) (seq : Nat) (s : State) : Host.Outcome State Fault Refusal :=
  event (matrixCommandStart k seq) s

/-- MATRIX_COMMAND_COMPLETE (R180) -/
def matrixCommandComplete (k : Key) (seq : Nat) (s : State) : State :=
  match s.ctx? k with
  | none => s
  | some c =>
    match c.cmd? seq with
    | none => s
    | some m =>
      if m.kind.isMatrix && m.state == .started then (s.runMatrix c m).completeCmd k seq none else s

/-- MATRIX_COMMAND_COMPLETE (R180) -/
def execMatrixCommandComplete (k : Key) (seq : Nat) (s : State) : Host.Outcome State Fault Refusal :=
  event (matrixCommandComplete k seq) s

/-- The cycles of a group of 8 by the rate class of a format (R36, R180). -/
def fmtClk (fmt : Nat) : Nat :=
  if fmt = 0 then 32
  else if [1, 2, 3, 13, 14].contains fmt then 8
  else if [4, 5, 6, 7, 8, 9, 12, 15, 16, 17, 18].contains fmt then 4
  else 2

/-- The groups an MMA has accumulated at least by the first boundary 4,096 cycles after a stop, its start of 12 cycles among
them (R180, R359). (notes/assumptions/77.md) -/
def groupsBound (b : Word) : Nat :=
  let clk := max (fmtClk (wbits b 4 5)) (fmtClk (wbits b 9 5))
  (4084 + clk - 1) / clk

/-- MMA_PREEMPT_BOUND (R359): a running MMA of a stopped context that cannot complete within 4,096 cycles stops at the group
boundary after them, and waits as a record. How far it was when the context stopped, and so how many groups that leaves, is not
fixed (notes/assumptions/77.md). -/
def mmaPreemptBound (k : Key) (seq : Nat) (s : State) : State :=
  match s.ctx? k with
  | none => s
  | some c =>
    match c.cmd? seq with
    | none => s
    | some m =>
      match m.kind with
      | .mma view a b =>
        let left := wbits a 32 16 - m.groups
        let low := groupsBound b
        if (c.status == .stopped || c.leaving) && m.state == .started && decide (low < left) then
          let n := low + Config.groupsRun s.free % (left - low)
          { (s.runMma c view a b m.groups n).modCmd k seq (fun m => { m with groups := m.groups + n, state := .accepted }) with
            free := s.free + 1 }
        else s
      | _ => s

/-- MMA_PREEMPT_BOUND (R359) -/
def execMmaPreemptBound (k : Key) (seq : Nat) (s : State) : Host.Outcome State Fault Refusal :=
  event (mmaPreemptBound k seq) s

end Sys2Proof.Machine
end

