-- ==== Sys2Proof/Machine/HostPort.lean ====
section
/-! DEFINITION. The host: launch queues and their entries, suspension, teardown, registers, and CXL.mem accesses
(spec/15_host_management_reliability.md R363 to R369, spec/12 R331, R332, spec/14 R361, R362, spec/20 R398, R399). -/
namespace Sys2Proof.Machine

/-- A queue changed. -/
def State.modQueue (s : State) (q : Fin 64) (f : Queue → Queue) : State := { s with queues := s.queues.set q (f s.queues[q]) }

/-! Launch entries (R331, R367). -/

/-- DOORBELL (R367): TAIL is written; during a teardown the doorbell is discarded (R368). -/
def doorbell (q : Fin 64) (tail : BitVec 32) (s : State) : State :=
  if s.queues[q].tearing then s else s.modQueue q (fun r => { r with tail := tail })

/-- DOORBELL (R367) -/
def execDoorbell (q : Fin 64) (tail : BitVec 32) (s : State) : Host.Outcome State Fault Refusal := event (doorbell q tail) s

/-- The live launches of a queue, whose completions are still to be written. -/
def State.openLaunches (s : State) (q : Fin 64) : Nat := (s.launches.filter (fun l => l.queue == some q)).length

/-- One more launch would overrun the completion ring of a queue: those that are live and those whose completions the host has
not consumed fill it (R367; notes/assumptions/39.md). -/
def State.ringFull (s : State) (q : Fin 64) : Bool :=
  decide (2 ^ wbits s.queues[q].rsize 0 5 ≤ s.openLaunches q + s.unread.headD 0)

/-- A launch ring has been looked at. -/
def State.looked (s : State) : State := { s with unread := s.unread.drop 1 }

/-- The next entry of a queue, if the device may accept one (R367); a queue being torn down accepts none (R361).
(notes/assumptions/39.md) -/
def State.nextEntry (s : State) (q : Fin 64) : Option (List Word) :=
  let r := s.queues[q]
  if r.en && !r.suspend && !r.tearing && r.head != r.tail && !s.ringFull q then
    let at_ := r.ring.toNat + 64 * (r.head.toNat % 2 ^ wbits r.rsize 0 5)
    some ((List.range 8).map (fun i => s.word (at_ + 8 * i)))
  else none

/-- KIND of an entry: 1 record, 2 graph, 3 image load; 0 is reserved. -/
def entryKind (ws : List Word) : Nat := wbits (nodeWord ws 0) 0 2

/-- ASID of an entry. -/
def entryAsid (ws : List Word) : BitVec 12 := BitVec.ofNat 12 (wbits (nodeWord ws 0) 16 12)

/-- ADDR of an entry. -/
def entryAddr (ws : List Word) : Nat := wbits (nodeWord ws 2) 0 48

/-- CORE of an entry. -/
def entryCore (ws : List Word) : Nat := wbits (nodeWord ws 0) 48 10

/-- NODES of an entry. -/
def entryNodes (ws : List Word) : Nat := wbits (nodeWord ws 3) 0 16

/-- The descriptor of an address space is valid (R91, R331). -/
def State.asidValid (s : State) (asid : BitVec 12) : Bool :=
  s.bar1.astbase != 0 && (s.word (s.bar1.astbase.toNat + 16 * asid.toNat)).getLsbD 0

/-- The limits of R331 on an entry, and those of R365 on its address space. -/
def State.entryOk (s : State) (ws : List Word) : Bool :=
  decide (entryKind ws ≠ 0) && decide (wbits (nodeWord ws 0) 2 14 = 0) && decide (wbits (nodeWord ws 0) 28 20 = 0) &&
    decide (wbits (nodeWord ws 0) 58 6 = 0) && decide (wbits (nodeWord ws 2) 48 16 = 0) &&
    decide (wbits (nodeWord ws 3) 18 46 = 0) && [4, 5, 6, 7].all (fun i => decide (nodeWord ws i = 0)) &&
    (decide (entryKind ws ≠ 1) || decide (entryCore ws ≤ 767)) && (decide (entryKind ws ≠ 2) || decide (1 ≤ entryNodes ws)) &&
    s.asidValid (entryAsid ws) && decide (s.frameCount (entryAsid ws) ≠ 0) && decide (s.faultQueue (entryAsid ws) ≠ 0)

/-- An entry accepted: HEAD is raised, and its launch is live, in the queue's mode (R367, R378). -/
def State.accept (s : State) (q : Fin 64) (ws : List Word) : State × Nat :=
  let l : Launch := { id := s.nextSeq, queue := some q, tag := nodeWord ws 1, mode := s.queues[q].mode
                      asid := entryAsid ws, kind := entryKind ws - 1 }
  ({ (s.looked.modQueue q (fun r => { r with head := r.head + 1 })) with
      nextSeq := s.nextSeq + 1, launches := s.launches ++ [l] }, s.nextSeq)

/-- A launch rejected (R332). -/
def State.reject (s : State) (id : Nat) (code : FaultCode) : State := s.complete id 1 code.num 0

/-- LAUNCH_RECORD (R331): the next entry is a record launch, or of the reserved kind. The record goes to the named core's
inbox by its class; one whose handler's image is loading waits in the queue (R35). -/
def launchRecord (q : Fin 64) (s : State) : State :=
  match s.nextEntry q with
  | none => s.looked
  | some ws =>
    if 1 < entryKind ws then s
    else
      let (s1, id) := s.accept q ws
      if !s.entryOk ws then s1.reject id .illegalOperand
      else match s1.runM (agentRecord (agentCtx (entryAsid ws) true 0) id (entryAddr ws)) with
        | none => s
        | some (.error f, s2) => s2.reject id f.code
        | some (.ok r, s2) =>
          if s.handlerLoading r then s
          else s2.sendRecord (entryCore ws) (if r.cls = 1 then 2 else 1) { r with key := nodeWord ws 1 }

/-- LAUNCH_RECORD (R331) -/
def execLaunchRecord (q : Fin 64) (s : State) : Host.Outcome State Fault Refusal := event (launchRecord q) s

/-- The nodes of a graph as its launch finds them (R323), from the `i`-th on: pending counts and WHILE bodies, or the first
node that cannot be read. -/
def readNodes (c : Context) (base i : Nat) : Nat → M (Except (Nat × FaultCode) (List (GNode × Option (Nat × Nat × Nat))))
  | 0 => pure (.ok [])
  | k + 1 => do
    match (← agentConsts c (base + 64 * i) 5) with
    | .error f => return .error (i, f.code)
    | .ok ws =>
      let p := wbits (nodeWord ws 0) 16 16
      let body := if nodeKind ws = 5 then some (i, wbits (nodeWord ws 4) 0 16, wbits (nodeWord ws 4) 16 16) else none
      match (← readNodes c base (i + 1) k) with
      | .error e => return .error e
      | .ok rest => return .ok (({ idx := i, pending := p }, body) :: rest)

/-- A graph set on its walker: the nodes with NPRED = 0 outside every WHILE body are ready. -/
def makeGraph (id launch base count walker : Nat) (ns : List (GNode × Option (Nat × Nat × Nat))) : Graph :=
  let bodies := ns.filterMap (fun n => n.2)
  let inside_ (i : Nat) : Bool := bodies.any (fun b => decide (b.2.1 ≤ i) && decide (i ≤ b.2.2))
  { id := id, launch := launch, base := base, count := count, walker := walker, bodies := bodies
    nodes := ns.map (fun n =>
      if n.1.pending = 0 && !inside_ n.1.idx then { n.1 with state := .ready, anyRun := true } else n.1) }

/-- LAUNCH_GRAPH (R331) -/
def launchGraph (q : Fin 64) (s : State) : State :=
  match s.nextEntry q with
  | none => s.looked
  | some ws =>
    if entryKind ws ≠ 2 then s
    else
      let (s1, id) := s.accept q ws
      if !s.entryOk ws then s1.reject id .illegalOperand
      else
        let base := entryAddr ws
        let walker := wbits (nodeWord ws 3) 16 2
        let start (s : State) (ns : List (GNode × Option (Nat × Nat × Nat))) : State × Graph :=
          let x := makeGraph s.nextSeq id base (entryNodes ws) walker ns
          ({ s with nextSeq := s.nextSeq + 1, graphs := s.graphs ++ [x] }, x)
        match s1.runM (readNodes (agentCtx (entryAsid ws) true (192 * walker)) base 0 (entryNodes ws)) with
        | none => s
        | some (.ok ns, s2) => (start s2 ns).1
        | some (.error (n, code), s2) =>
          let (s3, x) := start s2 []
          s3.failNode x n code

/-- LAUNCH_GRAPH (R331) -/
def execLaunchGraph (q : Fin 64) (s : State) : Host.Outcome State Fault Refusal := event (launchGraph q) s

/-- LAUNCH_IMAGE_LOAD (R33, R34, R369) -/
def launchImageLoad (q : Fin 64) (s : State) : State :=
  match s.nextEntry q with
  | none => s.looked
  | some ws =>
    if entryKind ws ≠ 3 then s
    else
      let (s1, id) := s.accept q ws
      if !s.entryOk ws then s1.reject id .illegalOperand
      else (s1.loadImage id (entryAsid ws) (entryAddr ws)).getD (s1.reject id .illegalOperand)

/-- LAUNCH_IMAGE_LOAD (R34) -/
def execLaunchImageLoad (q : Fin 64) (s : State) : Host.Outcome State Fault Refusal := event (launchImageLoad q) s

/-! Suspension (R368). -/

/-- QUEUE_SUSPEND (R368): nothing more is dispatched from the queue, and PREEMPTION saves its contexts. -/
def queueSuspend (q : Fin 64) (s : State) : State :=
  let s1 := s.modQueue q (fun r => { r with suspend := true })
  let s2 : State := { s1 with
    crews := s1.crews.map (fun (w : Crew) => if s1.launchSuspended w.launch then { w with reserved := [] } else w) }
  s2.refreshSuspended

/-- QUEUE_SUSPEND (R368) -/
def execQueueSuspend (q : Fin 64) (s : State) : Host.Outcome State Fault Refusal := event (queueSuspend q) s

/-- A context of a resumed queue: one in its frame is woken to be restored, parked or not; one still in its slot stays
(R360, R399). -/
def Context.resume (c : Context) (stamp : Nat) : Context :=
  if !c.preempted then c
  else if c.slot.isSome then { c with leaving := false, preempted := false }
  else c.wake stamp

/-- QUEUE_RESUME (R368) -/
def queueResume (q : Fin 64) (s : State) : State :=
  let mine (c : Context) : Bool := match s.launch? c.launch with
    | some l => l.queue == some q
    | none => false
  let s1 := s.mapCtxs (fun c => if mine c then c.resume s.nextSeq else c)
  ({ s1 with nextSeq := s1.nextSeq + 1 }.modQueue q (fun r => { r with suspend := false })).refreshSuspended

/-- QUEUE_RESUME (R368) -/
def execQueueResume (q : Fin 64) (s : State) : Host.Outcome State Fault Refusal := event (queueResume q) s

/-! Teardown (R361, R362). -/

/-- Records taken out of every deque, inbox, glean, transit and crew start. -/
def State.dropRecords (s : State) (p : TaskRec → Bool) : State :=
  let keep (xs : List TaskRec) : List TaskRec := xs.filter (fun r => !p r)
  { s with
    transit := s.transit.filter (fun t => !p t.r)
    cores := s.cores.map (fun k => { k with
      inbox := keep k.inbox
      high := keep k.high
      deque := keep k.deque
      glean := match k.glean with
        | .carrying r => if p r then .idle else .carrying r
        | g => g })
    crews := s.crews.filter (fun w => w.started || !w.members.any (fun m => p m.2)) }

/-- The SPAWNW registration that a request carries. -/
def Who.record? : Who → Option TaskRec
  | .watch _ _ r _ => some r
  | _ => none

/-- The SPAWNW registrations of records dropped. -/
def State.dropSpawnWatches (s : State) (p : TaskRec → Bool) : State := s.dropTests (fun w => w.record?.any p)

/-- Whether a watch is of a context that `k` picks, or a registration that `p` picks. -/
def Watch.orphaned (w : Watch) (k : Key → Bool) (p : TaskRec → Bool) : Bool :=
  match w.who with
  | .ctx c _ => k c
  | .watch _ _ r _ => p r
  | .copy .. => false

/-- A task killed (R361): it makes no completion join; a matrix command that runs completes first, the unit in which a parked
one stands leaves nothing, its watches are dropped, and what it owned is free. (notes/assumptions/53.md) -/
def State.kill (s : State) (c : Context) : State :=
  let s1 := c.cmds.foldl (fun s m => if m.kind.isMatrix && m.state == .started then s.runMatrix c m else s) s
  let taken := (match c.unit with
    | some u => u.taken
    | none => []) ++ c.items
  (((s1.putBack taken).dropRequests c.key).drainHeld c.core (Held.ofCtx c.key)).freeCtx c

/-- The fault records of killed contexts are dead (R361, step 4); a record that others are attached to lives on for them, and
one that no living context is left to post is gone. -/
def State.deadRecords (s : State) (dead : Key → Bool) : State :=
  { s with
    resumes := s.resumes.filter (fun r => !dead r.1)
    records := (s.records.filter (fun r => r.posted || r.attached.any (fun k => !dead k))).map (fun r =>
      let ks := r.attached.filter (fun k => !dead k)
      let es := r.engines.filter (fun e => !dead e.1)
      if dead { asid := r.asid, ctxid := r.ctxid } && ks.isEmpty && es.isEmpty then { r with live := false }
      else { r with attached := if r.live then ks else r.attached, engines := es }) }

/-- A task of a launch is running inside a unit: a teardown reaches it at the boundary of the unit. -/
def Context.insideUnit (c : Context) : Bool := c.status == .running && c.unit.isSome

/-- The end of a teardown, when no task of the queue is left (R362, R368): the teardown record and the cells are written, EN
goes to 0 and HEAD to TAIL. -/
def State.tearEnd (s : State) (q : Fin 64) : State :=
  let r := s.queues[q]
  let words := [q.val + 0x6000, r.tornTasks % 2 ^ 32 + r.tornRecords % 2 ^ 32 * 2 ^ 32, r.tornCells.length, 0, 0, 0, 0, 0] ++
    (r.tornCells.take r.tdcap.toNat).map BitVec.toNat
  let s1 : State := if r.tdbuf = 0 then s
    else { s with mem := s.mem.writeN r.tdbuf.toNat (8 * words.length) (packList 64 words) false }
  (s1.modQueue q (fun r => { r with
    en := false, head := r.tail, tearing := false, tornTasks := 0, tornRecords := 0, tornCells := [] })).refreshSuspended

/-- A teardown as far as it comes now (R361, R362): the records and registrations of the queue's launches go and their graphs
and image loads stop (steps 1 and 2); every task but those inside a unit is killed (step 3), its records are dead (step 4); a
launch of which no task is left completes with status 3. A cell is counted and listed for every watch or registration on it
(R392); their order is the model's choice (notes/assumptions/53.md). -/
def State.tearDown (s : State) (q : Fin 64) : State :=
  let ids := (s.launches.filter (fun l => l.queue == some q)).map (fun l => l.id)
  let mine (r : TaskRec) : Bool := ids.contains r.launch
  let tasks := s.allCtxs.filter (fun c => ids.contains c.launch && !c.insideUnit)
  let left := s.allCtxs.filter (fun c => ids.contains c.launch && c.insideUnit)
  let dead (k : Key) : Bool := tasks.any (fun c => c.key == k)
  let dropped := (s.pendingRecords.filter mine).length
  let cells := (s.watches.filter (fun w => w.orphaned dead mine)).map (fun w => w.va)
  let s1 := ((s.dropRecords mine).dropSpawnWatches mine).wakeSenders
  let s2 : State := { s1 with
    graphs := s1.graphs.filter (fun x => !ids.contains x.launch)
    loads := s1.loads.filter (fun l => !ids.contains l.launch) }
  let s3 := (tasks.foldl State.kill s2).deadRecords dead
  let s4 := (ids.filter (fun id => !left.any (fun c => c.launch == id))).foldl (fun s id => s.complete id 3 0 0) s3
  let s5 := s4.modQueue q (fun r => { r with
    tearing := true
    tornTasks := r.tornTasks + tasks.length
    tornRecords := r.tornRecords + dropped
    tornCells := r.tornCells ++ cells })
  if left.isEmpty then s5.tearEnd q else s5

/-- TEARDOWN (R361): the first steps come at once; a task inside a unit is killed at the boundary of that unit, where the
teardown goes on. (notes/assumptions/53.md) -/
def teardown (q : Fin 64) (s : State) : State := s.tearDown q

/-- TEARDOWN (R361) -/
def execTeardown (q : Fin 64) (s : State) : Host.Outcome State Fault Refusal := event (teardown q) s

/-! Register writes (R365, R366). -/

/-- A write of a queue's control word: MODE and EN, then SUSPEND, then TEARDOWN. -/
def State.controlWrite (s : State) (q : Fin 64) (x : Word) : State :=
  let m := BitVec.ofNat 2 (wbits x 4 2)
  let old := s.queues[q].suspend
  let s1 := s.modQueue q (fun r => { r with mode := if m = 3 then r.mode else m, en := x.getLsbD 0 })
  let s2 := if x.getLsbD 1 && !old then queueSuspend q s1 else if !x.getLsbD 1 && old then queueResume q s1 else s1
  if x.getLsbD 2 then teardown q s2 else s2

/-- A BAR0 register written. A new log begins where RLOG or RLOGSIZE is written (notes/assumptions/9.md); that RSIZE takes any
value is the model's choice (notes/assumptions/82.md). -/
def State.bar0Write (s : State) (off : Nat) (x : Word) : State :=
  if 0x4000 ≤ off then s
  else
    let q : Fin 64 := Fin.ofNat 64 (off / 0x100)
    match off % 0x100 with
    | 0x00 => s.modQueue q (fun r => { r with ring := fieldBits x 12 51 })
    | 0x08 => s.modQueue q (fun r => { r with rsize := fieldBits x 0 4 })
    | 0x10 => doorbell q (BitVec.ofNat 32 (wbits x 0 32)) s
    | 0x20 => s.modQueue q (fun r => { r with comp := fieldBits x 12 51 })
    | 0x30 => s.controlWrite q x
    | 0x40 => s.modQueue q (fun r => { r with tdbuf := fieldBits x 3 51 })
    | 0x48 => s.modQueue q (fun r => { r with tdcap := BitVec.ofNat 32 (wbits x 0 32) })
    | 0x50 => s.modQueue q (fun r => { r with rlog := fieldBits x 12 51, rlogCount := 0, rlogKeys := [] })
    | 0x58 => s.modQueue q (fun r => { r with rlogsize := BitVec.ofNat 32 (wbits x 0 32), rlogCount := 0, rlogKeys := [] })
    | _ => s

/-- REGISTER_WRITE (R365, R366) -/
def registerWrite (bar : Bar) (off : Nat) (val : BitVec 64) (s : State) : State :=
  match bar with
  | .bar0 => s.bar0Write off val
  | .bar1 => s.bar1Write off val

/-- REGISTER_WRITE (R365) -/
def execRegisterWrite (bar : Bar) (off : Nat) (val : BitVec 64) (s : State) : Host.Outcome State Fault Refusal :=
  event (registerWrite bar off val) s

/-! CXL.mem (R364, R398). -/

/-- A host access that is not admitted: a poisoned completion and a log entry (R364). -/
def State.badHostWrite (s : State) (off : Nat) : State := { s.hostLog 364 off 0 with hostWrites := s.hostWrites ++ [false] }

/-- The fill that both halves of a line make, and the completion of the second (R364, R398). -/
def State.hostFill (s : State) (c : Context) (l : Leaf) (va : Nat) (data : Nat) : State :=
  let s0 := s.countRead c l va
  let line := l.line va
  let conflict := s0.fillPoisons line (BitVec.ofNat 1024 data) false
  let r := if conflict then (s0.poisonSoon line, some FaultCode.fillConflict) else s0.fillAt line (BitVec.ofNat 1024 data) false
  let s1 := if r.2.isSome then r.1.hostLog 364 va 1 else r.1
  { s1 with hostWrites := s1.hostWrites ++ [true] }

/-- HOST_WRITE_HALF (R364, R398): a 64-byte half of a FILL1 line. -/
def hostWriteHalf (off : BitVec 48) (data : BitVec 512) (s : State) : State :=
  let va := off.toNat
  let c := agentCtx s.bar1.hostasid true 0
  if va % 64 ≠ 0 || windowOf va != .global then s.badHostWrite va
  else match s.runM (tryTranslate 0 c.key.asid true .write va) with
    | none => s
    | some (.error _, s1) => s1.badHostWrite va
    | some (.ok l, s1) =>
      if l.ty ≠ 1 || (s1.homeCode l va).isSome then s1.badHostWrite va
      else if l.jblock then s
      else
        let line := l.line va
        let high := decide (va % 128 = 64)
        let rest := s1.halves.filter (fun h => !(h.1 == line && h.2.1 == high))
        match s1.halves.find? (fun h => h.1 == line && h.2.1 != high) with
        | some other =>
          let lo := if high then other.2.2.toNat else data.toNat
          let hi := if high then data.toNat else other.2.2.toNat
          ({ s1 with halves := s1.halves.filter (fun h => h.1 != line) }).hostFill c l va (lo + hi * 2 ^ 512)
        | none =>
          if s1.halves.any (fun h => h.1 == line) || decide (s1.halves.length < 4096) then
            { s1 with halves := rest ++ [(line, high, data)], hostWrites := s1.hostWrites ++ [true] }
          else s1.badHostWrite va

/-- HOST_WRITE_HALF (R364) -/
def execHostWriteHalf (off : BitVec 48) (data : BitVec 512) (s : State) : Host.Outcome State Fault Refusal :=
  event (hostWriteHalf off data) s

/-- A line that the host may read (R364). -/
def hostReadable (ty : Nat) (md : BitVec 8) : Bool :=
  !mdPoison md && ((decide (ty = 1) && decide (1 ≤ mdState md)) ||
    (decide (2 ≤ ty) && decide (ty ≤ 10) && decide (mdState md = 2)))

/-- HOST_READ (R364): 64 bytes of a line, or a poisoned completion. -/
def hostRead (off : BitVec 48) (s : State) : State :=
  let va := off.toNat
  let c := agentCtx s.bar1.hostasid true 0
  let bad (s : State) : State := { s.hostLog 364 va 2 with hostReplies := s.hostReplies ++ [none] }
  if va % 64 ≠ 0 || windowOf va != .global then bad s
  else match s.runM (tryTranslate 0 c.key.asid true .read va) with
    | none => s
    | some (.error _, s1) => bad s1
    | some (.ok l, s1) =>
      if (s1.homeCode l va).isSome then bad s1
      else if !hostReadable l.ty (s1.meta_ (l.key va)) then bad (s1.countRead c l va)
      else { s1.countRead c l va with hostReplies := s1.hostReplies ++ [some (BitVec.ofNat 512 (s1.mem.readN (l.key va) 64))] }

/-- HOST_READ (R364) -/
def execHostRead (off : BitVec 48) (s : State) : Host.Outcome State Fault Refusal := event (hostRead off) s

end Sys2Proof.Machine
end

