-- ==== Sys2Proof/Machine/Manage.lean ====
section
/-! DEFINITION. The management port, service life, errors and the offlining of memory dies
(spec/15_host_management_reliability.md R370 to R379, spec/14_faults_and_preemption.md R350, spec/03_field_memory.md R79,
spec/07_registers_and_encodings.md R168). -/
namespace Sys2Proof.Machine

/-! Memory dies taken offline (R375). -/

/-- The leaf entries of every address space (R91): the address space, the page's address, its entry's place, the page. -/
def State.allLeaves (s : State) : List (BitVec 12 × Nat × Nat × Leaf) :=
  (List.range 4096).flatMap (fun a => (s.leaves (BitVec.ofNat 12 a) 0 0).map (fun l => (BitVec.ofNat 12 a, l.1, l.2.1, l.2.2)))

/-- Place and size of every page of this package homed at a memory die; a page inside another is part of it.
(notes/assumptions/56.md) -/
def State.pagesAt (s : State) (die : Fin 8) : List (Nat × Nat) :=
  let ps := (s.allLeaves.filter (fun l => !l.2.2.2.remote && decide (l.2.2.2.pa < 2 ^ 51) &&
    decide (homeDie l.2.2.2.pa = die.val))).map (fun l => (l.2.2.2.pa, l.2.2.2.size))
  (ps.filter (fun p => !ps.any (fun q => decide (p.2 < q.2) && inside p.1 p.2 q.1 q.2))).dedup

/-- Pages paired with free pages of their size on other dies: the pairs, the pages left over and the free pages left. -/
def pairPages (ok : Nat → Bool) : List (Nat × Nat) → List (Nat × Nat) →
    List (Nat × Nat × Nat) × List (Nat × Nat) × List (Nat × Nat)
  | [], free => ([], [], free)
  | p :: r, free =>
    match free.find? (fun q => decide (q.2 = p.2) && ok q.1) with
    | some q =>
      let x := pairPages ok r (free.filter (fun f => f != q))
      ((p.1, q.1, p.2) :: x.1, x.2.1, x.2.2)
    | none =>
      let x := pairPages ok r free
      (x.1, p :: x.2.1, x.2.2)

/-- The bytes of [a, a + n) copied to `b`. -/
def Memory.copyRange (m : Memory) (a b n : Nat) : Memory :=
  (m.filter (fun c => decide (a ≤ c.1) && decide (c.1 < a + n))).foldl (fun k c => k.write (c.1 - a + b) c.2) (m.clear b n)

/-- A page migrated as R105 says: contents, marks, metadata and watches go to the new frame, every leaf entry that maps it
names the new frame, and the translations of the page are invalidated. (notes/assumptions/56.md) -/
def State.movePage (s : State) (a b n : Nat) : State :=
  let hit (l : BitVec 12 × Nat × Nat × Leaf) : Bool := !l.2.2.2.remote && inside l.2.2.2.pa l.2.2.2.size a n
  let leaves := s.allLeaves.filter hit
  let s1 : State := { s with
    mem := { cells := s.mem.cells.copyRange a b n, marks := s.mem.marks.copyRange a b n }
    md := s.md.copyRange (a / 128) (b / 128) (n / 128)
    watches := s.watches.map (fun (w : Watch) =>
      if a ≤ w.cell && w.cell < a + n then { w with cell := w.cell - a + b, home := homeNode (w.cell - a + b) } else w)
    halves := s.halves.map (fun h => if a / 128 ≤ h.1 && h.1 < (a + n) / 128 then (h.1 - a / 128 + b / 128, h.2) else h) }
  leaves.foldl (fun s l =>
    let w0 := (s.word l.2.2.1).toNat
    let w := w0 % 2 ^ 12 + (l.2.2.2.pa - a + b) + w0 / 2 ^ 52 * 2 ^ 52
    (s.putEntry l.2.2.1 w (s.word (l.2.2.1 + 8)).toNat).startInval none l.1 l.2.1 l.2.2.2.size) s1

/-- Nothing is on its way to the homes of a memory die, and none of its lines is about to be poisoned (R111). -/
def State.dieQuiet (s : State) (die : Fin 8) : Bool :=
  let at_ (x : Node) : Bool := match x with
    | .die m _ => decide (m = die.val)
    | _ => false
  !s.msgs.any (fun m => at_ m.dst && m.body.isRequest) && !s.cores.any (fun k => k.hold.any (fun h => at_ h.dst)) &&
    !s.poisoning.any (fun l => decide (homeDie (128 * l) = die.val))

/-- The pairing of the pages of a die with the free capacity of the other dies (R375). -/
def State.offlinePlan (s : State) (die : Fin 8) : List (Nat × Nat × Nat) × List (Nat × Nat) × List (Nat × Nat) :=
  pairPages (fun pa => decide (homeDie pa ≠ die.val) && !s.fencedDies.getLsbD (homeDie pa) && !s.bdLost (homeDie pa / 2))
    (s.pagesAt die) s.freePages

/-- The request on a die carried out: what is paired has moved. -/
def State.emptyDie (s : State) (die : Fin 8) (pairs : List (Nat × Nat × Nat)) (free : List (Nat × Nat)) : State :=
  let s1 := pairs.foldl (fun s p => s.movePage p.1 p.2.1 p.2.2) s
  { s1 with freePages := free, emptied := s1.emptied ||| ((1 : BitVec 8) <<< die.val) }

/-- The requests on a die are over. -/
def State.endOffline (s : State) (die : Fin 8) : State := { s with offline := s.offline.filter (fun x => x.1 != die) }

/-- An order on a die that the host has not given is the management port's: one of the host for the other thing there is gone,
and the host receives vector 65 (R371). (notes/assumptions/57.md) -/
def State.overrule (s : State) (die : Fin 8) (forced : Bool) : State :=
  if s.offline.contains (die, !forced) && !s.offline.contains (die, forced) then
    { s.raiseVector 65 with offline := s.offline.filter (fun x => x != (die, !forced)) }
  else s

/-- An offline order carried out is noted where the management port has given it. -/
def State.noteOrder (s : State) (die : Fin 8) (forced : Bool) : State :=
  if s.offline.contains (die, forced) then s else { s with mgmtOffline := (die, forced) :: s.mgmtOffline }

/-- An offline request of the host for a die comes after a contrary order of the management port: its base die is fenced, or the
other of a forced and an unforced offline has been carried out there (R371). -/
def State.overtaken (s : State) (die : Fin 8) : Bool :=
  [false, true].any (fun f => s.offline.contains (die, f) && (s.fencedBase.getLsbD (die.val / 2) || s.mgmtOffline.contains (die, !f)))

/-- The requests on a die that is empty or fenced already are over; the host receives vector 65 where the management port has
ordered otherwise (R371). -/
def State.offlineOver (s : State) (die : Fin 8) : State :=
  (if s.overtaken die then s.raiseVector 65 else s).endOffline die

/-- A request on a die that is fenced is over, and so is one that an order carried out has overtaken; else a request on a die
that is empty is complete when the die is fenced (R371, R375). -/
def State.offlineLate (s : State) (die : Fin 8) : State :=
  if s.fencedDies.getLsbD die.val || s.overtaken die then s.offlineOver die else s

/-- OFFLINE_REQUEST (R375): every page of the die migrates, or the request is refused and nothing moves; a forced request of the
host for the die is not refused with it. -/
def offlineRequest (die : Fin 8) (s : State) : State :=
  let x := s.offlinePlan die
  if s.fencedDies.getLsbD die.val || s.emptied.getLsbD die.val then s.offlineLate die
  else if !x.2.1.isEmpty then
    let s1 := s.overrule die false
    { s1 with offline := s1.offline.filter (fun y => y != (die, false)) }
  else if !s.dieQuiet die then s
  else ((s.emptyDie die x.1 x.2.2).noteOrder die false).overrule die false

/-- OFFLINE_REQUEST (R375) -/
def execOfflineRequest (die : Fin 8) (s : State) : Host.Outcome State Fault Refusal := event (offlineRequest die) s

/-- OFFLINE_FORCED (R375): what fits migrates, the other pages are lost, the watches on these end with DATA_LOST, and the host
is told of each page. -/
def offlineForced (die : Fin 8) (s : State) : State :=
  let x := s.offlinePlan die
  if s.fencedDies.getLsbD die.val || s.emptied.getLsbD die.val then s.offlineLate die
  else if !s.dieQuiet die then s
  else
    let s1 := s.emptyDie die x.1 x.2.2
    let s2 : State := { s1 with lost := s1.lost ++ x.2.1 }
    let s3 := s2.failWatches (fun w => x.2.1.any (fun p => decide (p.1 ≤ w.cell) && decide (w.cell < p.1 + p.2))) .dataLost
    ((x.2.1.foldl (fun (s : State) p => s.hostLog 375 p.1 p.2) s3).noteOrder die true).overrule die true

/-- OFFLINE_FORCED (R375) -/
def execOfflineForced (die : Fin 8) (s : State) : Host.Outcome State Fault Refusal := event (offlineForced die) s

/-- OFFLINE_COMPLETE (R375): the die is fenced, and the requests on it are over. -/
def offlineComplete (die : Fin 8) (s : State) : State :=
  if !s.emptied.getLsbD die.val then s
  else
    let b : BitVec 8 := (1 : BitVec 8) <<< die.val
    ({ s with fencedDies := s.fencedDies ||| b, emptied := s.emptied &&& ~~~ b }).offlineOver die

/-- OFFLINE_COMPLETE (R375) -/
def execOfflineComplete (die : Fin 8) (s : State) : Host.Outcome State Fault Refusal := event (offlineComplete die) s

/-! Scheduling orders (R371, R376). -/

/-- The four cores of a quad, numbered over the package (R2), taken out of scheduling or returned to it. -/
def State.setQuad (s : State) (quad : Nat) (out : Bool) : State :=
  (List.range 4).foldl (fun s i => s.modCore (4 * quad + i) (fun k => { k with out := out })) s

/-- AGEING_CHECK (R376): the quads without margin, 48 to a die, are taken out of scheduling. -/
def execAgeingCheck (noMargin : List Nat) (s : State) : Host.Outcome State Fault Refusal :=
  event (fun s => ((noMargin.filter (fun q => decide (q < 192))).foldl (fun s q => s.setQuad q true) s).wakeSenders) s

/-- QUAD_TAKE_OUT (R371) -/
def execQuadTakeOut (die : Fin 4) (quad : Fin 48) (s : State) : Host.Outcome State Fault Refusal :=
  event (fun s => (s.setQuad (48 * die.val + quad.val) true).wakeSenders) s

/-- QUAD_RETURN (R371) -/
def execQuadReturn (die : Fin 4) (quad : Fin 48) (s : State) : Host.Outcome State Fault Refusal :=
  event (fun s => (s.setQuad (48 * die.val + quad.val) false).wakeSenders) s

/-- CORE_RELEASE (R296, R371): the core leaves the drained state. -/
def execCoreRelease (core : Nat) (s : State) : Host.Outcome State Fault Refusal :=
  event (fun s => (s.modCore core (fun k => { k with drained := false })).wakeSenders) s

/-! The management port (R370). -/

/-- Words answered through the management port. -/
def State.reply (s : State) (ws : List Word) : State := { s with mgmtReplies := s.mgmtReplies ++ ws }

/-- A word whose value the spec does not give (notes/assumptions/3.md). (notes/assumptions/59.md) -/
def State.replyReading (s : State) : State :=
  let s1 := s.reply [Config.reading s.free]
  { s1 with free := s1.free + 1 }

/-- MGMT_READ_LOGS (R371): the homes' logs of poisonings (R79), then the entries of the host event log.
(notes/assumptions/59.md) -/
def mgmtReadLogs (s : State) : State :=
  let r := s.bar1
  s.reply (s.poisonLog.map (fun l => BitVec.ofNat 64 (128 * l)) ++
    (List.range (2 * min r.logprod.toNat r.logsize)).map (fun i => s.word (r.logbase.toNat + 8 * i)))

/-- MGMT_READ_LOGS (R371) -/
def execMgmtReadLogs (s : State) : Host.Outcome State Fault Refusal := event mgmtReadLogs s

/-- SPDM_MEASUREMENT (R370) -/
def execSpdmMeasurement (s : State) : Host.Outcome State Fault Refusal := event State.replyReading s

/-- SENSOR_READ (R370) -/
def execSensorRead (s : State) : Host.Outcome State Fault Refusal := event State.replyReading s

/-- FIRMWARE_UPDATE (R370) -/
def execFirmwareUpdate (image : BitVec 64) (s : State) : Host.Outcome State Fault Refusal :=
  event (fun s => { s with firmware := image }) s

/-- SET_PACKAGE_ID (R372): once per boot. -/
def setPackageId (id : BitVec 12) (s : State) : State :=
  if s.bar1.pkgvalid then s
  else
    let r : Regs1 := { s.bar1 with pkgvalid := true, pkgid := id }
    { s with bar1 := r }

/-- SET_PACKAGE_ID (R372) -/
def execSetPackageId (id : BitVec 12) (s : State) : Host.Outcome State Fault Refusal := event (setPackageId id) s

/-- Two links whose far ends are two packages: they differ in dimension, or in direction on a ring of more than two (R118,
R119). -/
def State.otherEnds (s : State) (a b : Nat) : Bool :=
  decide (a % 6 / 2 ≠ b % 6 / 2) || (decide (a % 2 ≠ b % 2) && decide (s.ring (a % 6 / 2) ≠ 2))

/-- The links whose far ends are not the one of link `l` and report its id: a duplicated id (R372). -/
def State.duplicates (s : State) (l : Fin 12) (farId : BitVec 12) : List (Fin 12) :=
  (List.finRange 12).filter (fun k => s.links[k].farId == some farId && s.otherEnds k.val l.val)

/-- LINK_TRAINED (R372): once the package has its id a link reports the id of its far end through the management port and is
up; the links of a duplicated id, this package's own or that of two far ends, are held down. (notes/assumptions/58.md) -/
def linkTrained (l : Fin 12) (farId : BitVec 12) (s : State) : State :=
  if !s.bar1.pkgvalid then s
  else
    let dups := s.duplicates l farId
    let down := dups.foldl (fun (v : Vector Link 12) (k : Fin 12) =>
      let x : Link := { v[k] with up := false }
      v.set k x) s.links
    { s with
      links := down.set l { up := decide (farId ≠ s.bar1.pkgid) && dups.isEmpty, farId := some farId }
      mgmtReplies := s.mgmtReplies ++ [BitVec.ofNat 64 l.val, farId.setWidth 64] }

/-- LINK_TRAINED (R372) -/
def execLinkTrained (l : Fin 12) (farId : BitVec 12) (s : State) : Host.Outcome State Fault Refusal :=
  event (linkTrained l farId) s

/-! Reset (R9, R371, R379). -/

/-- DEVICE_RESET (R371): every register at its Reset column and nothing running, no watch held (R63); what memory holds, what
is broken, the firmware and what the outside has received stay (notes/assumptions/14.md). -/
def deviceReset (s : State) : State :=
  { State.reset with
    mem := s.mem
    md := (s.dropWatches (fun _ => true)).md
    edges := s.edges
    hostReplies := s.hostReplies
    hostWrites := s.hostWrites
    mgmtReplies := s.mgmtReplies
    firmware := s.firmware
    turn := s.turn
    sched := s.sched
    nextMsg := s.nextMsg
    nextSeq := s.nextSeq
    free := s.free
    choices := s.choices
    framePool := s.framePool
    loadPage := s.loadPage
    freePages := s.freePages }

/-- DEVICE_RESET (R371) -/
def execDeviceReset (s : State) : Host.Outcome State Fault Refusal := event deviceReset s

/-- THERMAL_THROTTLE (R379): only timing changes. -/
def execThermalThrottle (s : State) : Host.Outcome State Fault Refusal := event (fun s => { s with throttled := true }) s

/-- THERMAL_TRIP (R379): the device is reset and the event logged. -/
def execThermalTrip (s : State) : Host.Outcome State Fault Refusal := event (fun s => (deviceReset s).replyReading) s

/-! Lost dies and the command processors (R371, R373, R374). -/

/-- A compute die stops (R374): its tasks are killed, its records are gone, and the launches of these, and of the graphs its
walker walks, complete with status 3 and HOME_LOST. The watches held at its homes end with HOME_LOST.
(notes/assumptions/55.md) -/
def State.loseDie (s : State) (bd : Nat) : State :=
  let tasks := s.allCtxs.filter (fun c => decide (dieOf c.core = bd))
  let recs := (s.transit.filter (fun t => decide (dieOf t.core = bd))).map (fun t => t.r) ++
    (s.cores.filter (fun k => decide (dieOf k.num = bd))).flatMap (fun k => k.inbox ++ k.high ++ k.deque ++
      (match k.glean with
        | .carrying r => [r]
        | _ => []))
  let ids := (tasks.map (fun c => c.launch) ++ recs.map (fun r => r.launch) ++
    (s.graphs.filter (fun x => decide (x.walker = bd))).map (fun x => x.launch)).dedup
  let s1 := (tasks.foldl State.kill s).deadRecords (fun k => tasks.any (fun c => c.key == k))
  let s2 : State := { s1 with
    stoppedDies := s1.stoppedDies ||| ((1 : BitVec 4) <<< bd)
    transit := s1.transit.filter (fun t => !decide (dieOf t.core = bd))
    cores := s1.cores.map (fun (k : Core) =>
      if dieOf k.num = bd then { k with inbox := [], high := [], deque := [], glean := .idle } else k)
    graphs := s1.graphs.filter (fun x => !decide (x.walker = bd)) }
  let s3 := ids.foldl (fun s id => s.complete id 3 FaultCode.homeLost.num 0) s2
  (s3.failWatches (fun w => decide (w.cell < 2 ^ 51) && decide (homeBd w.cell = bd)) .homeLost).wakeSenders

/-- The host's requests to take a memory die of a fenced base die offline is overruled (R371).
(notes/assumptions/57.md) -/
def State.endOfflineOf (s : State) (die : Fin 4) : State :=
  let mine (x : Fin 8 × Bool) : Bool := decide (x.1.val / 2 = die.val)
  if s.offline.any mine then { s.raiseVector 65 with offline := s.offline.filter (fun x => !mine x) } else s

/-- FENCE_BASE_DIE (R371): a base die fenced together with its compute and memory dies. (notes/assumptions/55.md) -/
def fenceBaseDie (die : Fin 4) (s : State) : State :=
  let s1 : State := { s with
    fencedBase := s.fencedBase ||| ((1 : BitVec 4) <<< die.val)
    fencedDies := s.fencedDies ||| ((3 : BitVec 8) <<< (2 * die.val)) }
  (s1.loseDie die.val).endOfflineOf die

/-- FENCE_BASE_DIE (R371) -/
def execFenceBaseDie (die : Fin 4) (s : State) : Host.Outcome State Fault Refusal := event (fenceBaseDie die) s

/-- DIE_EDGE_FAILURE (R374): the edge carries nothing more. -/
def execDieEdgeFailure (edge : Fin 4) (s : State) : Host.Outcome State Fault Refusal :=
  event (fun s => { s with edges := s.edges ||| ((1 : BitVec 4) <<< edge.val) }) s

/-- WATCHDOG_TICK (R374): the dies of a lost group stop issuing. -/
def watchdogTick (s : State) : State :=
  (List.range 4).foldl (fun t bd => if s.bdLost bd && !s.stoppedDies.getLsbD bd then t.loseDie bd else t) s

/-- WATCHDOG_TICK (R374) -/
def execWatchdogTick (s : State) : Host.Outcome State Fault Refusal := event watchdogTick s

/-- STANDBY_TAKE_OVER (R373): launches in flight continue, and entries not accepted are read from HEAD, which stands.
(notes/assumptions/58.md) -/
def execStandbyTakeOver (s : State) : Host.Outcome State Fault Refusal :=
  event (fun s => if s.standbyDown then s else { s with standby := true }) s

/-- STANDBY_STAND_DOWN (R374) (notes/assumptions/58.md) -/
def execStandbyStandDown (s : State) : Host.Outcome State Fault Refusal :=
  event (fun s => { s with standby := false, standbyDown := true }) s

/-- STANDBY_SELF_FENCE (R374): a standby in the lost group fences itself. -/
def execStandbySelfFence (s : State) : Host.Outcome State Fault Refusal :=
  event (fun s => if s.bdLost 2 then { s with standby := false, standbyDown := true } else s) s

/-! Uncorrectable errors (R79, R168, R198, R350). -/

/-- Bytes marked (R350). -/
def Mem.strike (m : Mem) (a n : Nat) : Mem := { m with marks := m.marks.fill a 1 n }

/-- UNCORRECTABLE_ERROR: a line of field memory is poisoned; what is read of private data carries a mark; an instruction
in the instruction cache is noted with the address space that executes there. The poisoning of a line waits for the gateways
(R111). -/
def uncorrectableError (t : ErrTarget) (s : State) : State :=
  match t with
  | .line pa => s.poisonSoon (pa / 128)
  | .memory pa n =>
    { s with
      mem := s.mem.strike pa n
      fetchErrors := s.fetchErrors ++ (List.range ((pa % 128 + n + 127) / 128)).map (fun i => pa / 128 + i) }
  | .scratch core off n => if core < 768 && off + n ≤ 2 ^ 21 then { s with scratch := s.scratch.strike (core * 2 ^ 21 + off) n } else s
  | .tile core w => if core < 768 && w < 2 ^ 16 then { s with acc := s.acc.strike (core * 2 ^ 18 + 4 * w) 4 } else s
  | .scalar k n => s.modCtx k (fun c =>
    let v : Val := { c.regs.g[n] with mark := true }
    { c with regs := { c.regs with g := c.regs.g.set n v } })
  | .lane k n l => s.modCtx k (fun c =>
    let v : Vec := { c.regs.v[n] with mark := c.regs.v[n].mark ||| ((1 : BitVec 128) <<< l.val) }
    { c with regs := { c.regs with v := c.regs.v.set n v } })
  | .queue k n => s.modCtx k (fun c =>
    let v : Val := { c.regs.q[n] with mark := true }
    { c with regs := { c.regs with q := c.regs.q.set n v } })
  | .queueLane k n l => s.modCtx k (fun c =>
    let v : Vec := { c.regs.y[n] with mark := c.regs.y[n].mark ||| ((1 : BitVec 128) <<< l.val) }
    { c with regs := { c.regs with y := c.regs.y.set n v } })
  | .target k n => s.modCtx k (fun c =>
    let t : Target := { c.regs.b[n] with marks := 3 }
    { c with regs := { c.regs with b := c.regs.b.set n t } })
  | .area k off n => s.modCtx k (fun c =>
    if c.inH && decide (off + n ≤ 256) then { c with area := c.area.strike off n } else c)
  | .item chan i l =>
    { s with chans := s.chans.map (fun ch => if ch.id = chan then { ch with items := ch.items.modify i (fun v =>
        { v with mark := v.mark ||| ((1 : BitVec 128) <<< l.val) }) } else ch) }
  | .icache core va =>
    match s.executing core with
    | some c => s.modCore core (fun k => { k with icErrors := (c.asid, va) :: k.icErrors })
    | none => s

/-- UNCORRECTABLE_ERROR (R350) -/
def execUncorrectableError (t : ErrTarget) (s : State) : Host.Outcome State Fault Refusal := event (uncorrectableError t) s

end Sys2Proof.Machine
end

