-- ==== Sys2Proof/Machine/Dispatch.lean ====
section
/-! DEFINITION. One arm per constructor of Instr: a direct call of its meaning. -/
namespace Sys2Proof.Machine

def exec (i : Instr) (s : State) : Host.Outcome State Fault Refusal :=
  match i with
  | .guard sense bit n => Sys2Proof.Machine.execGuard sense bit n s
  | .vguard sense bit n => Sys2Proof.Machine.execVguard sense bit n s
  | .nop16 => Sys2Proof.Machine.execNop16 s
  | .yield16 => Sys2Proof.Machine.execYield16 s
  | .vaddF32S d x => Sys2Proof.Machine.execVaddF32S d x s
  | .vsubF32S d x => Sys2Proof.Machine.execVsubF32S d x s
  | .vmulF32S d x => Sys2Proof.Machine.execVmulF32S d x s
  | .vfmaF32S d x => Sys2Proof.Machine.execVfmaF32S d x s
  | .vmaxF32S d x => Sys2Proof.Machine.execVmaxF32S d x s
  | .vminF32S d x => Sys2Proof.Machine.execVminF32S d x s
  | .vaddBf16S d x => Sys2Proof.Machine.execVaddBf16S d x s
  | .vfmaBf16S d x => Sys2Proof.Machine.execVfmaBf16S d x s
  | .viaddI32S d x => Sys2Proof.Machine.execViaddI32S d x s
  | .visubI32S d x => Sys2Proof.Machine.execVisubI32S d x s
  | .viandS d x => Sys2Proof.Machine.execViandS d x s
  | .viorS d x => Sys2Proof.Machine.execViorS d x s
  | .vixorS d x => Sys2Proof.Machine.execVixorS d x s
  | .vimaxI32S d x => Sys2Proof.Machine.execVimaxI32S d x s
  | .vmovS d x => Sys2Proof.Machine.execVmovS d x s
  | .viminI32S d x => Sys2Proof.Machine.execViminI32S d x s
  | .add d a b => Sys2Proof.Machine.execAdd d a b s
  | .sub d a b => Sys2Proof.Machine.execSub d a b s
  | .and d a b => Sys2Proof.Machine.execAnd d a b s
  | .or d a b => Sys2Proof.Machine.execOr d a b s
  | .xor d a b => Sys2Proof.Machine.execXor d a b s
  | .shl d a b => Sys2Proof.Machine.execShl d a b s
  | .shr d a b => Sys2Proof.Machine.execShr d a b s
  | .sra d a b => Sys2Proof.Machine.execSra d a b s
  | .min d a b => Sys2Proof.Machine.execMin d a b s
  | .max d a b => Sys2Proof.Machine.execMax d a b s
  | .minn d a b => Sys2Proof.Machine.execMinn d a b s
  | .maxn d a b => Sys2Proof.Machine.execMaxn d a b s
  | .mul d a b => Sys2Proof.Machine.execMul d a b s
  | .mulh d a b => Sys2Proof.Machine.execMulh d a b s
  | .mulhn d a b => Sys2Proof.Machine.execMulhn d a b s
  | .div d a b => Sys2Proof.Machine.execDiv d a b s
  | .divn d a b => Sys2Proof.Machine.execDivn d a b s
  | .rem d a b => Sys2Proof.Machine.execRem d a b s
  | .remn d a b => Sys2Proof.Machine.execRemn d a b s
  | .clz d a => Sys2Proof.Machine.execClz d a s
  | .popc d a => Sys2Proof.Machine.execPopc d a s
  | .bfx d a b => Sys2Proof.Machine.execBfx d a b s
  | .bfi d a b => Sys2Proof.Machine.execBfi d a b s
  | .cmp d a b => Sys2Proof.Machine.execCmp d a b s
  | .cmpf d a b => Sys2Proof.Machine.execCmpf d a b s
  | .fadd d a b => Sys2Proof.Machine.execFadd d a b s
  | .fsub d a b => Sys2Proof.Machine.execFsub d a b s
  | .fmul d a b => Sys2Proof.Machine.execFmul d a b s
  | .ftoi d a => Sys2Proof.Machine.execFtoi d a s
  | .itof d a => Sys2Proof.Machine.execItof d a s
  | .addi d a imm => Sys2Proof.Machine.execAddi d a imm s
  | .andi d a imm => Sys2Proof.Machine.execAndi d a imm s
  | .ori d a imm => Sys2Proof.Machine.execOri d a imm s
  | .xori d a imm => Sys2Proof.Machine.execXori d a imm s
  | .shli d a n => Sys2Proof.Machine.execShli d a n s
  | .shri d a n => Sys2Proof.Machine.execShri d a n s
  | .srai d a n => Sys2Proof.Machine.execSrai d a n s
  | .cmpi d a imm => Sys2Proof.Machine.execCmpi d a imm s
  | .movi d imm => Sys2Proof.Machine.execMovi d imm s
  | .ldc d imm => Sys2Proof.Machine.execLdc d imm s
  | .addpc d imm => Sys2Proof.Machine.execAddpc d imm s
  | .ld data base size off => Sys2Proof.Machine.execLd data base size off s
  | .ldz data base size off => Sys2Proof.Machine.execLdz data base size off s
  | .st data base size off => Sys2Proof.Machine.execSt data base size off s
  | .joinH addr val => Sys2Proof.Machine.execJoinH addr val s
  | .joinW addr val => Sys2Proof.Machine.execJoinW addr val s
  | .joinD addr val => Sys2Proof.Machine.execJoinD addr val s
  | .joinHRel addr val => Sys2Proof.Machine.execJoinHRel addr val s
  | .joinWRel addr val => Sys2Proof.Machine.execJoinWRel addr val s
  | .joinDRel addr val => Sys2Proof.Machine.execJoinDRel addr val s
  | .xjoinF addr val => Sys2Proof.Machine.execXjoinF addr val s
  | .xjoinI addr val => Sys2Proof.Machine.execXjoinI addr val s
  | .xjoinFRel addr val => Sys2Proof.Machine.execXjoinFRel addr val s
  | .xjoinIRel addr val => Sys2Proof.Machine.execXjoinIRel addr val s
  | .await d addr trig => Sys2Proof.Machine.execAwait d addr trig s
  | .awaitAny d addr list => Sys2Proof.Machine.execAwaitAny d addr list s
  | .awaitFilled d addr => Sys2Proof.Machine.execAwaitFilled d addr s
  | .probe d addr trig => Sys2Proof.Machine.execProbe d addr trig s
  | .ldxW d addr => Sys2Proof.Machine.execLdxW d addr s
  | .ldxD d addr => Sys2Proof.Machine.execLdxD d addr s
  | .freeze addr len => Sys2Proof.Machine.execFreeze addr len s
  | .fallow addr len => Sys2Proof.Machine.execFallow addr len s
  | .prep n imm => Sys2Proof.Machine.execPrep n imm s
  | .prepr n a => Sys2Proof.Machine.execPrepr n a s
  | .prepx n table index => Sys2Proof.Machine.execPrepx n table index s
  | .pmove n l => Sys2Proof.Machine.execPmove n l s
  | .jmp n => Sys2Proof.Machine.execJmp n s
  | .brT n g bit => Sys2Proof.Machine.execBrT n g bit s
  | .brF n g bit => Sys2Proof.Machine.execBrF n g bit s
  | .call n l => Sys2Proof.Machine.execCall n l s
  | .bdec n g => Sys2Proof.Machine.execBdec n g s
  | .endTask => Sys2Proof.Machine.execEndTask s
  | .yield => Sys2Proof.Machine.execYield s
  | .trap arg => Sys2Proof.Machine.execTrap arg s
  | .eret record act => Sys2Proof.Machine.execEret record act s
  | .halt => Sys2Proof.Machine.execHalt s
  | .nop => Sys2Proof.Machine.execNop s
  | .sysrd d reg => Sys2Proof.Machine.execSysrd d reg s
  | .syswr reg a => Sys2Proof.Machine.execSyswr reg a s
  | .tlbinv asid addr len => Sys2Proof.Machine.execTlbinv asid addr len s
  | .l1inv asid addr len => Sys2Proof.Machine.execL1inv asid addr len s
  | .spmarkKeep off len => Sys2Proof.Machine.execSpmarkKeep off len s
  | .spmarkDiscard off len => Sys2Proof.Machine.execSpmarkDiscard off len s
  | .breakpt arg => Sys2Proof.Machine.execBreakpt arg s
  | .spawn record arg => Sys2Proof.Machine.execSpawn record arg s
  | .spawnw record cell trig => Sys2Proof.Machine.execSpawnw record cell trig s
  | .send core record => Sys2Proof.Machine.execSend core record s
  | .sendHi core record => Sys2Proof.Machine.execSendHi core record s
  | .sendNb d core record => Sys2Proof.Machine.execSendNb d core record s
  | .sendHiNb d core record => Sys2Proof.Machine.execSendHiNb d core record s
  | .ctryrecv st port data => Sys2Proof.Machine.execCtryrecv st port data s
  | .ctrysend st port val => Sys2Proof.Machine.execCtrysend st port val s
  | .ctryrecvV st port data => Sys2Proof.Machine.execCtryrecvV st port data s
  | .ctrysendV st port val => Sys2Proof.Machine.execCtrysendV st port val s
  | .ccount d port => Sys2Proof.Machine.execCcount d port s
  | .fenceAcq scope => Sys2Proof.Machine.execFenceAcq scope s
  | .fenceRel scope => Sys2Proof.Machine.execFenceRel scope s
  | .fenceFull scope => Sys2Proof.Machine.execFenceFull scope s
  | .vadd t d a b => Sys2Proof.Machine.execVadd t d a b s
  | .vsub t d a b => Sys2Proof.Machine.execVsub t d a b s
  | .vmul t d a b => Sys2Proof.Machine.execVmul t d a b s
  | .vfma t d a b => Sys2Proof.Machine.execVfma t d a b s
  | .vfms t d a b => Sys2Proof.Machine.execVfms t d a b s
  | .vmin t d a b => Sys2Proof.Machine.execVmin t d a b s
  | .vmax t d a b => Sys2Proof.Machine.execVmax t d a b s
  | .vabs t d a => Sys2Proof.Machine.execVabs t d a s
  | .vneg t d a => Sys2Proof.Machine.execVneg t d a s
  | .vsqrt t d a => Sys2Proof.Machine.execVsqrt t d a s
  | .vrcp t d a => Sys2Proof.Machine.execVrcp t d a s
  | .vrsq t d a => Sys2Proof.Machine.execVrsq t d a s
  | .vexp2 t d a => Sys2Proof.Machine.execVexp2 t d a s
  | .vlog2 t d a => Sys2Proof.Machine.execVlog2 t d a s
  | .vscaleb t d a b => Sys2Proof.Machine.execVscaleb t d a b s
  | .vcmpeq t d a b => Sys2Proof.Machine.execVcmpeq t d a b s
  | .vcmplt t d a b => Sys2Proof.Machine.execVcmplt t d a b s
  | .vcmple t d a b => Sys2Proof.Machine.execVcmple t d a b s
  | .viadd t d a b => Sys2Proof.Machine.execViadd t d a b s
  | .visub t d a b => Sys2Proof.Machine.execVisub t d a b s
  | .vimul t d a b => Sys2Proof.Machine.execVimul t d a b s
  | .vimin t d a b => Sys2Proof.Machine.execVimin t d a b s
  | .vimax t d a b => Sys2Proof.Machine.execVimax t d a b s
  | .viminn t d a b => Sys2Proof.Machine.execViminn t d a b s
  | .vimaxn t d a b => Sys2Proof.Machine.execVimaxn t d a b s
  | .viand t d a b => Sys2Proof.Machine.execViand t d a b s
  | .vior t d a b => Sys2Proof.Machine.execVior t d a b s
  | .vixor t d a b => Sys2Proof.Machine.execVixor t d a b s
  | .vishl t d a b => Sys2Proof.Machine.execVishl t d a b s
  | .vishr t d a b => Sys2Proof.Machine.execVishr t d a b s
  | .visra t d a b => Sys2Proof.Machine.execVisra t d a b s
  | .viabs t d a => Sys2Proof.Machine.execViabs t d a s
  | .vicmpeq t d a b => Sys2Proof.Machine.execVicmpeq t d a b s
  | .vicmplt t d a b => Sys2Proof.Machine.execVicmplt t d a b s
  | .vicmpltn t d a b => Sys2Proof.Machine.execVicmpltn t d a b s
  | .viaddsat t d a b => Sys2Proof.Machine.execViaddsat t d a b s
  | .vmov d a => Sys2Proof.Machine.execVmov d a s
  | .vsel d a b => Sys2Proof.Machine.execVsel d a b s
  | .vbcast d x => Sys2Proof.Machine.execVbcast d x s
  | .vextr d n a => Sys2Proof.Machine.execVextr d n a s
  | .vins d x n => Sys2Proof.Machine.execVins d x n s
  | .viota t d => Sys2Proof.Machine.execViota t d s
  | .vperm d a ix => Sys2Proof.Machine.execVperm d a ix s
  | .vkey t d a => Sys2Proof.Machine.execVkey t d a s
  | .vcvtF2x fmt d a => Sys2Proof.Machine.execVcvtF2x fmt d a s
  | .vcvtX2f fmt d a => Sys2Proof.Machine.execVcvtX2f fmt d a s
  | .vcvtI2x fmt d a => Sys2Proof.Machine.execVcvtI2x fmt d a s
  | .vcvtX2i fmt d a => Sys2Proof.Machine.execVcvtX2i fmt d a s
  | .vpack t d a b => Sys2Proof.Machine.execVpack t d a b s
  | .vunpack t d a half sign => Sys2Proof.Machine.execVunpack t d a half sign s
  | .vrsum t d a => Sys2Proof.Machine.execVrsum t d a s
  | .vrmax t d a => Sys2Proof.Machine.execVrmax t d a s
  | .vrmin t d a => Sys2Proof.Machine.execVrmin t d a s
  | .vramax t d a => Sys2Proof.Machine.execVramax t d a s
  | .vscan t d a op => Sys2Proof.Machine.execVscan t d a op s
  | .vld d base off => Sys2Proof.Machine.execVld d base off s
  | .vst x base off => Sys2Proof.Machine.execVst x base off s
  | .vlds d base stride => Sys2Proof.Machine.execVlds d base stride s
  | .vsts x base stride => Sys2Proof.Machine.execVsts x base stride s
  | .vgather d base ix => Sys2Proof.Machine.execVgather d base ix s
  | .vscatter x base ix => Sys2Proof.Machine.execVscatter x base ix s
  | .vldb d base off => Sys2Proof.Machine.execVldb d base off s
  | .vjoin x base ix => Sys2Proof.Machine.execVjoin x base ix s
  | .vxjoin x base ix => Sys2Proof.Machine.execVxjoin x base ix s
  | .vlda d tile k => Sys2Proof.Machine.execVlda d tile k s
  | .vsta x tile k => Sys2Proof.Machine.execVsta x tile k s
  | .vadda x tile k => Sys2Proof.Machine.execVadda x tile k s
  | .ccopy a b => Sys2Proof.Machine.execCcopy a b s
  | .ccfg a b => Sys2Proof.Machine.execCcfg a b s
  | .cgather ix a b => Sys2Proof.Machine.execCgather ix a b s
  | .cjoin a b => Sys2Proof.Machine.execCjoin a b s
  | .cbar off exp => Sys2Proof.Machine.execCbar off exp s
  | .waitb d off ph => Sys2Proof.Machine.execWaitb d off ph s
  | .mcfg view off => Sys2Proof.Machine.execMcfg view off s
  | .mzero t => Sys2Proof.Machine.execMzero t s
  | .mma a b => Sys2Proof.Machine.execMma a b s
  | .mscaleacc a b => Sys2Proof.Machine.execMscaleacc a b s
  | .mload a b => Sys2Proof.Machine.execMload a b s
  | .mstore a b => Sys2Proof.Machine.execMstore a b s
  | .mwait d id => Sys2Proof.Machine.execMwait d id s
  | .mdiscard t => Sys2Proof.Machine.execMdiscard t s
  | .lcfg tile off => Sys2Proof.Machine.execLcfg tile off s
  | .lspark a b => Sys2Proof.Machine.execLspark a b s
  | .lrun a b => Sys2Proof.Machine.execLrun a b s
  | .lstop t => Sys2Proof.Machine.execLstop t s
  | .lwait d id => Sys2Proof.Machine.execLwait d id s
  | .legacyCopy k => Sys2Proof.Machine.execLegacyCopy k s
  | .legacyFill k => Sys2Proof.Machine.execLegacyFill k s
  | .legacyLaunch k => Sys2Proof.Machine.execLegacyLaunch k s
  | .homeJoin m => Sys2Proof.Machine.execHomeJoin m s
  | .homeFill m => Sys2Proof.Machine.execHomeFill m s
  | .homeFreeze m => Sys2Proof.Machine.execHomeFreeze m s
  | .thresholdTest m => Sys2Proof.Machine.execThresholdTest m s
  | .homeStore m => Sys2Proof.Machine.execHomeStore m s
  | .homeLoad m => Sys2Proof.Machine.execHomeLoad m s
  | .homeExactRead m => Sys2Proof.Machine.execHomeExactRead m s
  | .ackArrival m => Sys2Proof.Machine.execAckArrival m s
  | .wakeResult m => Sys2Proof.Machine.execWakeResult m s
  | .replicaTest m => Sys2Proof.Machine.execReplicaTest m s
  | .gatewayResponsePass m => Sys2Proof.Machine.execGatewayResponsePass m s
  | .gatewayInvalidation m => Sys2Proof.Machine.execGatewayInvalidation m s
  | .routerForward m channelBusy => Sys2Proof.Machine.execRouterForward m channelBusy s
  | .combinedJoinDepart m => Sys2Proof.Machine.execCombinedJoinDepart m s
  | .heldJoinTimeout core n => Sys2Proof.Machine.execHeldJoinTimeout core n s
  | .flitReceive m crcOk => Sys2Proof.Machine.execFlitReceive m crcOk s
  | .linkDown l => Sys2Proof.Machine.execLinkDown l s
  | .copyCommandStart k seq => Sys2Proof.Machine.execCopyCommandStart k seq s
  | .copyUnitPerformed k seq u => Sys2Proof.Machine.execCopyUnitPerformed k seq u s
  | .matrixCommandStart k seq => Sys2Proof.Machine.execMatrixCommandStart k seq s
  | .matrixCommandComplete k seq => Sys2Proof.Machine.execMatrixCommandComplete k seq s
  | .lampStep k seq => Sys2Proof.Machine.execLampStep k seq s
  | .sparkArrival n => Sys2Proof.Machine.execSparkArrival n s
  | .tlbinvComplete n => Sys2Proof.Machine.execTlbinvComplete n s
  | .coreDispatch core => Sys2Proof.Machine.execCoreDispatch core s
  | .highPriorityStart core => Sys2Proof.Machine.execHighPriorityStart core s
  | .handlerOverrun core => Sys2Proof.Machine.execHandlerOverrun core s
  | .timeSliceExpiry core => Sys2Proof.Machine.execTimeSliceExpiry core s
  | .gleanPass core => Sys2Proof.Machine.execGleanPass core s
  | .gleanProbe core => Sys2Proof.Machine.execGleanProbe core s
  | .gleanedRecordArrival core => Sys2Proof.Machine.execGleanedRecordArrival core s
  | .dequeRecordArrival n => Sys2Proof.Machine.execDequeRecordArrival n s
  | .inboxRecordArrival n => Sys2Proof.Machine.execInboxRecordArrival n s
  | .crewStart crew => Sys2Proof.Machine.execCrewStart crew s
  | .crewDeadlock crew => Sys2Proof.Machine.execCrewDeadlock crew s
  | .preemption k => Sys2Proof.Machine.execPreemption k s
  | .mmaPreemptBound k seq => Sys2Proof.Machine.execMmaPreemptBound k seq s
  | .faultStop k => Sys2Proof.Machine.execFaultStop k s
  | .faultRecordWrite asid => Sys2Proof.Machine.execFaultRecordWrite asid s
  | .faultQueueFullSignal asid => Sys2Proof.Machine.execFaultQueueFullSignal asid s
  | .resumeRecord k => Sys2Proof.Machine.execResumeRecord k s
  | .vectorRetention k => Sys2Proof.Machine.execVectorRetention k s
  | .nodeTaskset g n => Sys2Proof.Machine.execNodeTaskset g n s
  | .nodeCrew g n => Sys2Proof.Machine.execNodeCrew g n s
  | .nodeCopy g n => Sys2Proof.Machine.execNodeCopy g n s
  | .nodeCond g n => Sys2Proof.Machine.execNodeCond g n s
  | .nodeWhile g n => Sys2Proof.Machine.execNodeWhile g n s
  | .nodeFreeze g n => Sys2Proof.Machine.execNodeFreeze g n s
  | .nodeFallow g n => Sys2Proof.Machine.execNodeFallow g n s
  | .nodeWaitcell g n => Sys2Proof.Machine.execNodeWaitcell g n s
  | .nodeNotify g n => Sys2Proof.Machine.execNodeNotify g n s
  | .nodeEnd g n => Sys2Proof.Machine.execNodeEnd g n s
  | .nodeComplete g n => Sys2Proof.Machine.execNodeComplete g n s
  | .graphComplete g => Sys2Proof.Machine.execGraphComplete g s
  | .graphStallFail g => Sys2Proof.Machine.execGraphStallFail g s
  | .doorbell q tail => Sys2Proof.Machine.execDoorbell q tail s
  | .launchRecord q => Sys2Proof.Machine.execLaunchRecord q s
  | .launchGraph q => Sys2Proof.Machine.execLaunchGraph q s
  | .launchImageLoad q => Sys2Proof.Machine.execLaunchImageLoad q s
  | .bootTextReceive load core => Sys2Proof.Machine.execBootTextReceive load core s
  | .imageLoadComplete load => Sys2Proof.Machine.execImageLoadComplete load s
  | .queueSuspend q => Sys2Proof.Machine.execQueueSuspend q s
  | .queueResume q => Sys2Proof.Machine.execQueueResume q s
  | .teardown q => Sys2Proof.Machine.execTeardown q s
  | .registerWrite bar off val => Sys2Proof.Machine.execRegisterWrite bar off val s
  | .offlineRequest die => Sys2Proof.Machine.execOfflineRequest die s
  | .offlineForced die => Sys2Proof.Machine.execOfflineForced die s
  | .offlineComplete die => Sys2Proof.Machine.execOfflineComplete die s
  | .hostWriteHalf off data => Sys2Proof.Machine.execHostWriteHalf off data s
  | .hostRead off => Sys2Proof.Machine.execHostRead off s
  | .accessCounterHalving => Sys2Proof.Machine.execAccessCounterHalving s
  | .ageingCheck noMargin => Sys2Proof.Machine.execAgeingCheck noMargin s
  | .mgmtReadLogs => Sys2Proof.Machine.execMgmtReadLogs s
  | .deviceReset => Sys2Proof.Machine.execDeviceReset s
  | .fenceBaseDie die => Sys2Proof.Machine.execFenceBaseDie die s
  | .quadTakeOut die quad => Sys2Proof.Machine.execQuadTakeOut die quad s
  | .quadReturn die quad => Sys2Proof.Machine.execQuadReturn die quad s
  | .coreRelease core => Sys2Proof.Machine.execCoreRelease core s
  | .standbyTakeOver => Sys2Proof.Machine.execStandbyTakeOver s
  | .standbyStandDown => Sys2Proof.Machine.execStandbyStandDown s
  | .standbySelfFence => Sys2Proof.Machine.execStandbySelfFence s
  | .setPackageId id => Sys2Proof.Machine.execSetPackageId id s
  | .firmwareUpdate image => Sys2Proof.Machine.execFirmwareUpdate image s
  | .spdmMeasurement => Sys2Proof.Machine.execSpdmMeasurement s
  | .sensorRead => Sys2Proof.Machine.execSensorRead s
  | .dieEdgeFailure edge => Sys2Proof.Machine.execDieEdgeFailure edge s
  | .watchdogTick => Sys2Proof.Machine.execWatchdogTick s
  | .uncorrectableError t => Sys2Proof.Machine.execUncorrectableError t s
  | .thermalThrottle => Sys2Proof.Machine.execThermalThrottle s
  | .thermalTrip => Sys2Proof.Machine.execThermalTrip s
  | .linkTrained l farId => Sys2Proof.Machine.execLinkTrained l farId s

end Sys2Proof.Machine
end

