-- ==== Sys2Proof/Machine/Auto.lean ====
section
/-! DEFINITION. The default order of the agents' steps (notes/assumptions/5.md): which event comes next where no schedule
names one. -/
namespace Sys2Proof.Machine

/-- A meaning of an event at its arguments. -/
abbrev Event := State → Host.Outcome State Fault Refusal

/-- The events that may be due of a message, by where it is. -/
def messageEvents (m : Msg) : List Event :=
  let i := m.id
  match m.loc with
  | .source => [execRouterForward i false]
  | .router _ _ _ => [execRouterForward i false]
  | .buffer _ _ _ => [execCombinedJoinDepart i]
  | .gate _ => [execReplicaTest i, execGatewayResponsePass i, execGatewayInvalidation i, execRouterForward i false]
  | .link _ => [execFlitReceive i true]
  | .package _ => [execFlitReceive i true]
  | .arrived => [execHomeJoin i, execHomeFill i, execHomeFreeze i, execThresholdTest i, execHomeStore i, execHomeLoad i,
      execHomeExactRead i, execAckArrival i, execWakeResult i, execGatewayInvalidation i]

/-- The events that may be due of a context's commands. -/
def commandEvents (c : Context) : List Event :=
  c.cmds.flatMap (fun m => [execCopyCommandStart c.key m.seq, execCopyUnitPerformed c.key m.seq m.nextUnit,
    execMatrixCommandStart c.key m.seq, execMatrixCommandComplete c.key m.seq, execLampStep c.key m.seq])

/-- The events that may be due of a context that stops or leaves its slot. -/
def stopEvents (c : Context) : List Event := [execFaultStop c.key, execPreemption c.key]

/-- The events that may be due of a core. -/
def coreEvents (s : State) (n : Nat) : List Event :=
  let fits (k : Core) : Bool := match k.deque.getLast? with
    | some r => s.couldFit n r.foot r.tiles && !s.launchSuspended r.launch
    | none => false
  [execHighPriorityStart n, execCoreDispatch n, execGleanedRecordArrival n, execGleanProbe n] ++
    (if s.cores.any (fun k => decide (k.num ≠ n) && fits k) then [execGleanPass n] else [])

/-- The events that may be due of a graph. -/
def graphEvents (x : Graph) : List Event :=
  let g := x.id
  x.nodes.flatMap (fun y => [execNodeTaskset g y.idx, execNodeCrew g y.idx, execNodeCopy g y.idx, execNodeCond g y.idx,
    execNodeWhile g y.idx, execNodeFreeze g y.idx, execNodeFallow g y.idx, execNodeWaitcell g y.idx,
    execNodeNotify g y.idx, execNodeEnd g y.idx, execNodeComplete g y.idx]) ++ [execGraphComplete g, execGraphStallFail g]

/-- The numbers of the cores that are listed, hold a context or take part in a crew. -/
def State.activeCores (s : State) : List Nat :=
  (s.cores.map (fun k => k.num) ++ s.allCtxs.map (fun c => c.core) ++
    s.crews.flatMap (fun w => w.members.map (fun m => m.1))).dedup

/-- The events that may be due, in the default order. -/
def State.dueEvents (s : State) : List Event :=
  s.msgs.flatMap messageEvents ++
    s.allCtxs.flatMap commandEvents ++
    (List.range s.sparksUnderWay.length).map (fun i => execSparkArrival i) ++
    (List.range s.transit.length).flatMap (fun i => [execDequeRecordArrival i, execInboxRecordArrival i]) ++
    s.allCtxs.flatMap stopEvents ++
    (s.records.map (fun r => r.asid) ++ s.queueJoins.map (fun x => x.1)).map execFaultRecordWrite ++
    s.resumes.map (fun r => execResumeRecord r.1) ++
    (List.range s.invals.length).map (fun i => execTlbinvComplete i) ++
    s.crews.flatMap (fun w => [execCrewStart w.id, execCrewDeadlock w.id]) ++
    s.activeCores.flatMap (coreEvents s) ++
    s.legacy.flatMap (fun l => [execLegacyCopy l.k, execLegacyFill l.k, execLegacyLaunch l.k]) ++
    s.graphs.flatMap graphEvents ++
    s.loads.flatMap (fun l => l.placed.map (fun p => execBootTextReceive l.id p.1) ++ [execImageLoadComplete l.id]) ++
    ((List.finRange 64).filter (fun q => s.queues[q].en)).flatMap (fun q =>
      [execLaunchRecord q, execLaunchGraph q, execLaunchImageLoad q]) ++
    ((List.finRange 64).filter (fun q => s.queues[q].tearing)).map execTeardown ++
    s.offline.map (fun x => if x.2 then execOfflineForced x.1 else execOfflineRequest x.1) ++
    ((List.finRange 8).filter (fun d => s.emptied.getLsbD d.val)).map execOfflineComplete ++
    s.cores.flatMap (fun k => if k.hold.isEmpty then [] else [execHeldJoinTimeout k.num 0])

/-- What the first event of a list that changes the state gives. -/
def firstChange (s : State) : List Event → Option State
  | [] => none
  | f :: r => match f s with
    | .next t => if t = s then firstChange s r else some t
    | _ => firstChange s r

/-- What the event that comes next by default gives, if one is due. -/
def autoNext (s : State) : Option State := firstChange s s.dueEvents

end Sys2Proof.Machine
end

