-- ==== Sys2Proof/Machine/Run.lean ====
section
/-! DEFINITION. What a step does next: whose turn it is, the fetch and decoding of an instruction, and how a word is placed
for the next step (notes/assumptions/5.md). -/
namespace Sys2Proof.Machine

/-- What a step is to do: run an instruction or event at a state, or nothing more. -/
inductive Action where
  | run (i : Instr) (s : State)
  | done (s : State)

/-- The instruction at the PC of the current context, fetched and decoded (R81, R166, R168), or the state after the fault
that fetching or decoding raises. -/
def issueNext (s : State) : Action :=
  let c := s.cur
  let pc := c.regs.pc.toNat
  if s.stoppedDies.getLsbD (dieOf c.core) then .done s
  else match fetchBytes c.core c.asid c.sys pc s with
    | .error _ => .done s
    | .ok (.error (cause, va), s1) => .done (takeFault (s1.fetchFault c.core c.asid cause va) s1)
    | .ok (.ok bytes, s1) =>
      if (s1.core c.core).icErrors.contains (c.asid, pc) then
        if c.viaTarget then .done (takeFault (s1.fetchFault c.core c.asid .fetchError pc) s1)
        else .done (takeFault { code := .illegalInstruction } s1)
      else match decode bytes with
        | .ok i => .run i s1
        | .error (.illegalOperand i) => .done (issueBadField i s1)
        | .error (.spmarkKind i) =>
          match issue i (raise .illegalOperand) s1 with
          | .next s2 => .done s2
          | _ => .done s1
        | .error (.illegalInstruction _) => .done (takeFault { code := .illegalInstruction } s1)
        | .error .truncated => .done (takeFault { code := .illegalInstruction } s1)

/-- The queue of the current context's launch, while it is being torn down. -/
def State.tornQueue (s : State) : Option (Fin 64) :=
  match s.launch? s.cur.launch with
  | none => none
  | some l => l.queue.filter (fun q => s.queues[q].tearing)

/-- The context that has the turn goes on. What takes effect at the boundary of its unit comes first (R194): the teardown of its
queue (R361), its pre-emption (R357, R358), a high-priority record that can start (R314); else its next instruction runs. -/
def runOn (s : State) : Action :=
  if s.cur.unit.isSome || s.stoppedDies.getLsbD (dieOf s.cur.core) then issueNext s
  else match s.tornQueue with
    | some q => .done (teardown q s)
    | none =>
      if s.mustLeave s.cur then .done (preemption s.cur.key s)
      else if (s.highReady s.cur.core).isSome then .done (highPriorityStart s.cur.core s)
      else issueNext s

/-- The turn passes to the context executing on a core, if there is one. -/
def switchTo (core : Nat) (s : State) : State :=
  if s.turn = core then s
  else
    let s1 : State := if s.busy then { s with ctxs := putCtx s.ctxs s.cur, busy := false } else s
    match s1.ctxs.find? (fun c => c.core == core && c.status == .running && c.slot.isSome) with
    | some c =>
      { s1 with cur := c, busy := true, turn := core, stalled := false, ctxs := s1.ctxs.filter (fun x => x.key != c.key) }
    | none => { s1 with turn := core, stalled := false }

/-- The core, other than the one that has the turn, with a context to run. -/
def otherCore (s : State) : Option Nat :=
  match s.ctxs.find? (fun c => c.status == .running && c.slot.isSome && c.core != s.turn) with
  | some c => some c.core
  | none => none

/-- What the next step does: the head of the schedule if there is one; else the current context's next instruction; else,
when it waits or no context has the turn, the next event by default, another core's context, or a choice of work. -/
def nextAction (s : State) : Action :=
  match s.sched with
  | .event i :: rest => if i.isEvent then .run i { s with sched := rest } else .done { s with sched := rest }
  | .core c :: rest =>
    let s1 := switchTo c { s with sched := rest }
    if s1.busy then runOn s1 else .run (.coreDispatch c) s1
  | [] =>
    if s.busy && !s.stalled then runOn s
    else match autoNext s with
      | some t => .done { t with stalled := false }
      | none =>
        match otherCore s with
        | some c => runOn (switchTo c { s with stalled := false })
        | none => if s.busy then runOn { s with stalled := false } else .run (.coreDispatch s.turn) s

/-- The context that a placed word runs in: a system context without slice or tiles, at the first page of the global
window (notes/assumptions/5.md). -/
def placedContext (core : Nat) : Context where
  key := { asid := 0, ctxid := 0 }
  core := core
  slot := some .a
  status := .running
  regs := { Regs.zero with pc := 0x1000, status := 0x8000 }

/-- A word placed: a valid address space 0 at physical address 0x10000 with one frozen, executable FILL1 page at 0x1000
(R91 to R93, R81), the word's bytes in it, and a context about to run them. -/
def placeWord (s : State) (nbits w : Nat) : State :=
  let cells := (((((s.mem.cells.writeN 0x10000 16 0x20001).writeN 0x20000 16 0x22001).writeN 0x22000 16 0x24001).writeN
    0x24000 16 0x26001).writeN 0x26000 16 0x27001).writeN 0x27010 16 0x28087
  { s with
    mem := { s.mem with cells := cells.writeN 0x28000 4 (w % 2 ^ nbits) }
    md := s.md.write 0x500 0x0A
    bar1 := { s.bar1 with astbase := 0x10000 }
    cur := placedContext s.turn
    ctxs := s.ctxs.filter (fun c => c.key != (placedContext s.turn).key)
    busy := true
    stalled := false
    tlb := []
    tableCache := []
    cores := s.cores.map (fun k => { k with icache := [] })
    sched := [] }

end Sys2Proof.Machine
end

