-- ==== Sys2Proof/Machine/Step.lean ====
section
/-! DEFINITION. One step of the package, and a word placed where the next step fetches. -/
namespace Sys2Proof.Machine

/-- One step: an instruction of the context that has the turn, or an event (notes/assumptions/5.md). -/
def step (s : State) : Host.Outcome State Fault Refusal :=
  match nextAction s with
  | .run i s1 => exec i s1
  | .done s1 => .next s1

/-- The state with the instruction of `nbits` bits `w` placed where the next step fetches, in a context that is about to
run it: this stands for the load and launch of a program (notes/assumptions/5.md). -/
def State.withFetchWord (s : State) (nbits w : Nat) : State := placeWord s nbits w

end Sys2Proof.Machine
end

