-- ==== Sys2Proof/Safety.lean ====
section
/-! DEFINITION. What counts as a safe run, the well-formedness of the byte spaces, and the words the claims are said in. -/
namespace Sys2Proof.Safety

/-- The byte spaces are in canonical form. -/
def memoryOk (s : Machine.State) : Prop :=
  s.mem.wf = true ∧ s.scratch.wf = true ∧ s.acc.wf = true ∧ s.md.wf = true

/-- A run of `n` steps is safe when it stops nowhere with a fault or a refusal of the model. -/
def safeRun (n : Nat) (s : Machine.State) : Prop := ∃ t, Sys2Proof.core.run n s = .next t

end Sys2Proof.Safety

namespace Sys2Proof.Claims
open Sys2Proof.Machine

/-- `i` is issued in the context that has the turn: steps 1 to 3 of R167 pass, its guard is on or absent, slot H does not
bar it, and MODE.RM holds no reserved code where it rounds (R45). -/
def issues (i : Instr) (s : State) : Bool :=
  s.busy && (stepChecks i true s.cur).isNone && !s.cur.guardedOff && !(s.cur.inH && i.blocksInHandler) && !s.cur.badRounding i

/-- `m` succeeds at `s` with the value `x` and leaves `t`. -/
def Gives {α : Type} (m : M α) (s : State) (x : α) (t : State) : Prop := m s = .ok (x, t)

/-- The instruction completes: its effect has led from `s` to `t`, and it ends by `f`. -/
def Ends (i : Instr) (s : State) (f : Flow) (t : State) : Prop := exec i s = .next (settle i.len s.cur f t)

/-- The instruction completes and the next one follows. -/
def Completes (i : Instr) (s t : State) : Prop := Ends i s .done t

/-- The instruction takes a fault at the PC. -/
def Faults (i : Instr) (s : State) (f : FaultInfo) : Prop := exec i s = .next (takeFault f s)

/-- A port named as a scalar source or destination is bound for it; any other specifier needs nothing. -/
def srcBound (a : Scalar) (s : State) : Prop := Gives (checkSrc a) s () s
/-- As a destination. -/
def dstBound (d : Scalar) (s : State) : Prop := Gives (checkDst d) s () s
/-- A vector source. -/
def vsrcBound (a : VSpec) (s : State) : Prop := Gives (checkVSrc a) s () s
/-- A vector destination. -/
def vdstBound (d : VSpec) (s : State) : Prop := Gives (checkVDst d) s () s

/-- The lanes the instruction acts on (R231). -/
def lanesAt (s : State) : BitVec 128 :=
  match s.cur.unit with
  | some u => u.lanes.getD (BitVec.allOnes 128)
  | none => BitVec.allOnes 128

end Sys2Proof.Claims
end

