-- ==== Sys2Proof/Certificates/Slice0/Obligations.lean ====
section
/-! DEFINITION. The statements for the provers, and the words they are said in. -/
open Sys2Proof Sys2Proof.Machine

namespace Sys2Proof.Claims

/-! The scalar tables of R207 and R213, each operation in the spec's words. -/

/-- Signed quotient truncated toward zero, with the two corners of R207. -/
def quotient (a b : Word) : Word := if b = 0 then BitVec.allOnes 64 else BitVec.ofInt 64 (a.toInt.tdiv b.toInt)

/-- Bits `lo` up to `lo + width - 1` of a number, those above bit 63 zero. -/
def fieldOf (a : Word) (lo width : Nat) : Nat := a.toNat / 2 ^ lo % 2 ^ width

/-- `old` with the low bits of `a` in the field that `b` selects (R208). -/
def withField (old a b : Word) : Word :=
  let m : Word := BitVec.ofNat 64 ((2 ^ (b.toNat / 64 % 64 + 1) - 1) * 2 ^ (b.toNat % 64))
  (old &&& ~~~ m) ||| (BitVec.ofNat 64 (a.toNat * 2 ^ (b.toNat % 64)) &&& m)

/-- The condition word of R209, bit by bit. -/
def conditionBits (a b : Word) : List Bool :=
  [decide (a = b), decide (a ≠ b), decide (a.toInt < b.toInt), decide (b.toInt ≤ a.toInt), decide (a.toNat < b.toNat),
    decide (b.toNat ≤ a.toNat), decide (a.toInt ≤ b.toInt), decide (b.toInt < a.toInt)]

/-- The word whose low bits are a list. -/
def wordOfBits (l : List Bool) : Word := BitVec.ofNat 64 (l.foldr (fun b n => b.toNat + 2 * n) 0)

/-- The two-operand ALU operations (R207, R208, R209). -/
def binaryTable : List ((Scalar → Scalar → Scalar → Instr) × (Word → Word → Word)) :=
  [(.add, fun a b => BitVec.ofNat 64 (a.toNat + b.toNat)),
   (.sub, fun a b => BitVec.ofInt 64 (a.toInt - b.toInt)),
   (.and, fun a b => a &&& b),
   (.or, fun a b => a ||| b),
   (.xor, fun a b => a ^^^ b),
   (.shl, fun a b => BitVec.ofNat 64 (a.toNat * 2 ^ (b.toNat % 64))),
   (.shr, fun a b => BitVec.ofNat 64 (a.toNat / 2 ^ (b.toNat % 64))),
   (.sra, fun a b => BitVec.ofInt 64 (a.toInt / (2 ^ (b.toNat % 64) : Nat))),
   (.min, fun a b => if a.toInt ≤ b.toInt then a else b),
   (.max, fun a b => if a.toInt ≤ b.toInt then b else a),
   (.minn, fun a b => if a.toNat ≤ b.toNat then a else b),
   (.maxn, fun a b => if a.toNat ≤ b.toNat then b else a),
   (.mul, fun a b => BitVec.ofNat 64 (a.toNat * b.toNat)),
   (.mulh, fun a b => BitVec.ofInt 64 ((a.toInt * b.toInt) / (2 ^ 64 : Nat))),
   (.mulhn, fun a b => BitVec.ofNat 64 (a.toNat * b.toNat / 2 ^ 64)),
   (.div, quotient),
   (.divn, fun a b => if b = 0 then BitVec.allOnes 64 else BitVec.ofNat 64 (a.toNat / b.toNat)),
   (.rem, fun a b => if b = 0 then a else BitVec.ofInt 64 (a.toInt - b.toInt * (quotient a b).toInt)),
   (.remn, fun a b => BitVec.ofNat 64 (a.toNat - b.toNat * (a.toNat / b.toNat))),
   (.bfx, fun a b =>
     let width := b.toNat / 64 % 64 + 1
     let f := fieldOf a (b.toNat % 64) width
     if b.getLsbD 12 && decide (2 ^ (width - 1) ≤ f) then BitVec.ofInt 64 ((f : Int) - 2 ^ width) else BitVec.ofNat 64 f),
   (.cmp, fun a b => wordOfBits (conditionBits a b))]

/-- The one-operand ALU operations and the immediate forms (R207, R213). -/
def unaryTable : List ((Scalar → Scalar → Instr) × (Word → Word)) :=
  [(.clz, fun a => BitVec.ofNat 64 ((List.range 64).countP (fun i => decide (a.toNat < 2 ^ i)))),
   (.popc, fun a => BitVec.ofNat 64 (((List.range 64).map (fun i => a.toNat / 2 ^ i % 2)).sum))]

/-- The immediate forms of R213 with a 13-bit immediate: the operation at the value `a` and the extended immediate. -/
def immediateTable : List ((Scalar → Scalar → BitVec 13 → Instr) × (Word → Word → Word)) :=
  [(.addi, fun a b => BitVec.ofNat 64 (a.toNat + b.toNat)),
   (.andi, fun a b => a &&& b),
   (.ori, fun a b => a ||| b),
   (.xori, fun a b => a ^^^ b),
   (.cmpi, fun a b => wordOfBits (conditionBits a b))]

/-- The shifts by an immediate amount. -/
def shiftTable : List ((Scalar → Scalar → Fin 64 → Instr) × (Word → Nat → Word)) :=
  [(.shli, fun a n => BitVec.ofNat 64 (a.toNat * 2 ^ n)),
   (.shri, fun a n => BitVec.ofNat 64 (a.toNat / 2 ^ n)),
   (.srai, fun a n => BitVec.ofInt 64 (a.toInt / (2 ^ n : Nat)))]

end Sys2Proof.Claims

open Sys2Proof.Claims

/-- R207, R208, R209: every two-operand ALU instruction reads s1, then s2, writes d with the table's operation and
completes; a mark of either operand goes to the result (R350). R207, R208, R213: the one-operand ALU instructions, the
immediate forms and BFI complete with their results. BFI reads d first, and MOVI and ADDPC write a constant. -/
def Obligations.ScalarArithmeticCompletes : Prop :=
  (∀ p ∈ binaryTable, ∀ (d a b : Scalar) (s s1 s2 t : State) (x y : Val),
    issues (p.1 d a b) s = true → srcBound a s → srcBound b s → dstBound d s →
    Gives (readScalar a) s x s1 → Gives (readScalar b) s1 y s2 →
    Gives (writeScalar d { bits := p.2 x.bits y.bits, mark := x.mark || y.mark }) s2 () t →
    Completes (p.1 d a b) s t) ∧
  ((∀ p ∈ unaryTable, ∀ (d a : Scalar) (s s1 t : State) (x : Val),
    issues (p.1 d a) s = true → srcBound a s → dstBound d s → Gives (readScalar a) s x s1 →
    Gives (writeScalar d { bits := p.2 x.bits, mark := x.mark }) s1 () t → Completes (p.1 d a) s t) ∧
  (∀ p ∈ immediateTable, ∀ (d a : Scalar) (imm : BitVec 13) (s s1 t : State) (x : Val),
    issues (p.1 d a imm) s = true → srcBound a s → dstBound d s → Gives (readScalar a) s x s1 →
    Gives (writeScalar d { bits := p.2 x.bits (imm.signExtend 64), mark := x.mark }) s1 () t →
    Completes (p.1 d a imm) s t) ∧
  (∀ p ∈ shiftTable, ∀ (d a : Scalar) (n : Fin 64) (s s1 t : State) (x : Val),
    issues (p.1 d a n) s = true → srcBound a s → dstBound d s → Gives (readScalar a) s x s1 →
    Gives (writeScalar d { bits := p.2 x.bits n.val, mark := x.mark }) s1 () t → Completes (p.1 d a n) s t) ∧
  (∀ (d a b : Scalar) (s s0 s1 s2 t : State) (z x y : Val),
    issues (.bfi d a b) s = true → srcBound a s → srcBound b s → Gives (readScalar d) s z s0 →
    Gives (readScalar a) s0 x s1 → Gives (readScalar b) s1 y s2 →
    Gives (writeScalar d { bits := withField z.bits x.bits y.bits, mark := z.mark || x.mark || y.mark }) s2 () t → Completes (.bfi d a b) s t) ∧
  (∀ (d : Scalar) (imm : BitVec 19) (s t : State), issues (.movi d imm) s = true → dstBound d s →
    Gives (writeScalar d { bits := imm.signExtend 64 }) s () t → Completes (.movi d imm) s t) ∧
  (∀ (d : Scalar) (imm : BitVec 19) (s t : State), issues (.addpc d imm) s = true → dstBound d s →
    Gives (writeScalar d { bits := BitVec.ofInt 64 ((s.cur.regs.pc.toNat : Int) + 2 * imm.toInt) }) s () t →
    Completes (.addpc d imm) s t))

namespace Sys2Proof.Claims

/-- Element `e` of width `w` lies in an active lane (R169). -/
def activeElem (w : Nat) (s : State) (e : Nat) : Bool := decide (e < 4096 / w) && (lanesAt s).getLsbD (e * w / 32)

/-- The active elements of `r` are the codes `op` gives. -/
def Elements (w : Nat) (s : State) (r : VecBits) (op : Nat → FResult) : Prop :=
  ∀ e, activeElem w s e = true → elemOf r w e = (op e).code % 2 ^ w

/-- A flag is set where it is at some active element (R172). -/
def FlagsOf (w : Nat) (s : State) (flags : Nat) (op : Nat → FResult) : Prop :=
  ∀ k, flags.testBit k = true ↔ ∃ e, activeElem w s e = true ∧ (op e).flags.testBit k = true

/-- A vector instruction of two sources computes each active element with `op`, writes d under the mask with the marks of
both sources, raises the flags and completes (R231, R234, R350). -/
def TwoSources (i : Instr) (w : Nat) (op : Rounding → Nat → Nat → FResult) (d a b : VSpec) : Prop :=
  ∀ (s s1 s2 : State) (x y : Vec), issues i s = true → vsrcBound a s → vsrcBound b s → vdstBound d s →
    Gives (readVec a) s x s1 → Gives (readVec b) s1 y s2 →
    ∃ (r : VecBits) (flags : Nat),
      Elements w s2 r (fun e => op (s2.cur.rounding e) (elemOf x.bits w e) (elemOf y.bits w e)) ∧
      FlagsOf w s2 flags (fun e => op (s2.cur.rounding e) (elemOf x.bits w e) (elemOf y.bits w e)) ∧
      ∀ t, Gives (do writeVec d { bits := r, mark := x.mark ||| y.mark }; raiseFlagsN flags) s2 () t → Completes i s t

/-- The same of one source. -/
def OneSource (i : Instr) (w : Nat) (op : Rounding → Nat → FResult) (d a : VSpec) : Prop :=
  ∀ (s s1 : State) (x : Vec), issues i s = true → vsrcBound a s → vdstBound d s → Gives (readVec a) s x s1 →
    ∃ (r : VecBits) (flags : Nat),
      Elements w s1 r (fun e => op (s1.cur.rounding e) (elemOf x.bits w e)) ∧
      FlagsOf w s1 flags (fun e => op (s1.cur.rounding e) (elemOf x.bits w e)) ∧
      ∀ t, Gives (do writeVec d { bits := r, mark := x.mark }; raiseFlagsN flags) s1 () t → Completes i s t

/-- The same of two sources and the destination, which is read after them. -/
def ThreeSources (i : Instr) (w : Nat) (op : Rounding → Nat → Nat → Nat → FResult) (d a b : VSpec) : Prop :=
  ∀ (s s1 s2 s3 : State) (x y z : Vec), issues i s = true → vsrcBound a s → vsrcBound b s →
    Gives (readVec a) s x s1 → Gives (readVec b) s1 y s2 → Gives (readVec d) s2 z s3 →
    ∃ (r : VecBits) (flags : Nat),
      Elements w s3 r (fun e => op (s3.cur.rounding e) (elemOf x.bits w e) (elemOf y.bits w e) (elemOf z.bits w e)) ∧
      FlagsOf w s3 flags (fun e => op (s3.cur.rounding e) (elemOf x.bits w e) (elemOf y.bits w e) (elemOf z.bits w e)) ∧
      ∀ t, Gives (do writeVec d { bits := r, mark := x.mark ||| y.mark ||| z.mark }; raiseFlagsN flags) s3 () t →
        Completes i s t

/-- A code without flags. -/
def plain (n : Nat) : FResult := { code := n }

/-- All ones of width `w`, or zero. -/
def ones (w : Nat) (p : Prop) [Decidable p] : FResult := { code := if p then 2 ^ w - 1 else 0 }

/-- VFLOAT's two-source operations at an element of type `t` (R233 to R237, R171). -/
def floatTwo : List ((Fin 8 → VSpec → VSpec → VSpec → Instr) × (Fin 8 → Rounding → Nat → Nat → FResult)) :=
  [(.vadd, fun t r x y => (laneFmt t).add r ((laneFmt t).decode x) ((laneFmt t).decode y)),
   (.vsub, fun t r x y => (laneFmt t).sub r ((laneFmt t).decode x) ((laneFmt t).decode y)),
   (.vmul, fun t r x y => (laneFmt t).mul r ((laneFmt t).decode x) ((laneFmt t).decode y)),
   (.vmin, fun t _ x y => plain ((laneFmt t).minMax false x y)),
   (.vmax, fun t _ x y => plain ((laneFmt t).minMax true x y)),
   (.vscaleb, fun t r x y => (laneFmt t).scaleb r ((laneFmt t).decode x) (signed (laneWidth t) y)),
   (.vcmpeq, fun t _ x y =>
     let u := (laneFmt t).decode x
     let v := (laneFmt t).decode y
     { code := if !u.isNan && !v.isNan && fcompare u v == .eq then 2 ^ laneWidth t - 1 else 0
       flags := flagIf (u.isSignaling || v.isSignaling) flagNV }),
   (.vcmplt, fun t _ x y =>
     let u := (laneFmt t).decode x
     let v := (laneFmt t).decode y
     { code := if !u.isNan && !v.isNan && fcompare u v == .lt then 2 ^ laneWidth t - 1 else 0
       flags := flagIf (u.isNan || v.isNan) flagNV }),
   (.vcmple, fun t _ x y =>
     let u := (laneFmt t).decode x
     let v := (laneFmt t).decode y
     { code := if !u.isNan && !v.isNan && (fcompare u v == .lt || fcompare u v == .eq) then 2 ^ laneWidth t - 1 else 0
       flags := flagIf (u.isNan || v.isNan) flagNV })]

/-- VFLOAT's one-source operations, and VKEY (R233 to R235, R242): VABS and VNEG change the sign bit alone. -/
def floatOne : List ((Fin 8 → VSpec → VSpec → Instr) × (Fin 8 → Rounding → Nat → FResult)) :=
  [(.vabs, fun t _ x => plain (x % 2 ^ (laneWidth t - 1))),
   (.vneg, fun t _ x => plain (x ^^^ 2 ^ (laneWidth t - 1))),
   (.vsqrt, fun t r x => (laneFmt t).sqrt r ((laneFmt t).decode x)),
   (.vrcp, fun t r x => (laneFmt t).recip r ((laneFmt t).decode x)),
   (.vrsq, fun t r x => (laneFmt t).rsqrt r ((laneFmt t).decode x)),
   (.vexp2, fun t r x => (laneFmt t).exp2 r ((laneFmt t).decode x)),
   (.vlog2, fun t r x => (laneFmt t).log2 r ((laneFmt t).decode x)),
   (.vkey, fun t _ x => plain (if x.testBit (laneWidth t - 1) then 2 ^ laneWidth t - 1 - x else x + 2 ^ (laneWidth t - 1)))]

/-- A number clamped to the signed range of `w` bits. -/
def clamp (w : Nat) (z : Int) : Int :=
  if z < -(2 ^ (w - 1)) then -(2 ^ (w - 1)) else if 2 ^ (w - 1) ≤ z then 2 ^ (w - 1) - 1 else z

/-- VINT's two-source operations at an element of width `w` (R238). -/
def intTwo : List ((Fin 8 → VSpec → VSpec → VSpec → Instr) × (Nat → Nat → Nat → FResult)) :=
  [(.viadd, fun w x y => plain ((x + y) % 2 ^ w)),
   (.visub, fun w x y => plain (((x : Int) - y) % 2 ^ w).toNat),
   (.vimul, fun w x y => plain (x * y % 2 ^ w)),
   (.vimin, fun w x y => plain (if signed w x ≤ signed w y then x else y)),
   (.vimax, fun w x y => plain (if signed w x ≤ signed w y then y else x)),
   (.viminn, fun _ x y => plain (Nat.min x y)),
   (.vimaxn, fun _ x y => plain (Nat.max x y)),
   (.viand, fun _ x y => plain (x &&& y)),
   (.vior, fun _ x y => plain (x ||| y)),
   (.vixor, fun _ x y => plain (x ^^^ y)),
   (.vishl, fun w x y => plain (x * 2 ^ (y % w) % 2 ^ w)),
   (.vishr, fun w x y => plain (x / 2 ^ (y % w))),
   (.visra, fun w x y => plain (signed w x / (2 ^ (y % w) : Nat) % 2 ^ w).toNat),
   (.vicmpeq, fun w x y => ones w (x = y)),
   (.vicmplt, fun w x y => ones w (signed w x < signed w y)),
   (.vicmpltn, fun w x y => ones w (x < y)),
   (.viaddsat, fun w x y => plain (clamp w (signed w x + signed w y) % 2 ^ w).toNat)]

/-- The 16-bit lane operations of two operands, with the 32-bit instruction each is (R159, R232). -/
def shortTwo : List ((VSpec → VSpec → Instr) × Nat × (Rounding → Nat → Nat → FResult)) :=
  [(.vaddF32S, 32, fun r x y => fp32.add r (fp32.decode x) (fp32.decode y)),
   (.vsubF32S, 32, fun r x y => fp32.sub r (fp32.decode x) (fp32.decode y)),
   (.vmulF32S, 32, fun r x y => fp32.mul r (fp32.decode x) (fp32.decode y)),
   (.vmaxF32S, 32, fun _ x y => plain (fp32.minMax true x y)),
   (.vminF32S, 32, fun _ x y => plain (fp32.minMax false x y)),
   (.vaddBf16S, 16, fun r x y => bf16.add r (bf16.decode x) (bf16.decode y)),
   (.viaddI32S, 32, fun _ x y => plain ((x + y) % 2 ^ 32)),
   (.visubI32S, 32, fun _ x y => plain (((x : Int) - y) % 2 ^ 32).toNat),
   (.viandS, 32, fun _ x y => plain (x &&& y)),
   (.viorS, 32, fun _ x y => plain (x ||| y)),
   (.vixorS, 32, fun _ x y => plain (x ^^^ y)),
   (.vimaxI32S, 32, fun _ x y => plain (if signed 32 x ≤ signed 32 y then y else x)),
   (.viminI32S, 32, fun _ x y => plain (if signed 32 x ≤ signed 32 y then x else y))]

/-- The scalar float operations of two operands (R210, R211). -/
def scalarFloat : List ((Scalar → Scalar → Scalar → Instr) × (Rounding → FValue → FValue → FResult)) :=
  [(.fadd, fp32.add), (.fsub, fp32.sub), (.fmul, fp32.mul),
   (.cmpf, fun _ x y =>
     let un := x.isNan || y.isNan
     let o := fcompare x y
     { code := (wordOfBits [!un && o == .eq, un || o != .eq, !un && o == .lt, !un && o != .lt, un, !un, !un && o != .gt,
         !un && o == .gt]).toNat
       flags := flagIf un flagNV })]

end Sys2Proof.Claims

/-- R210 to R212: FADD, FSUB, FMUL and CMPF work on the FP32 values in the low words under MODE.RM, write the zero-extended
result and raise its flags; FTOI clamps to the signed 64-bit range, and ITOF rounds to FP32. -/
def Obligations.ScalarFloatOperationsComplete : Prop :=
  (∀ p ∈ scalarFloat, ∀ (d a b : Scalar) (s s1 s2 t : State) (x y : Val),
    issues (p.1 d a b) s = true → srcBound a s → srcBound b s → dstBound d s →
    Gives (readScalar a) s x s1 → Gives (readScalar b) s1 y s2 →
    (let r := p.2 (s2.cur.rounding 0) (fp32.decode (x.bits.toNat % 2 ^ 32)) (fp32.decode (y.bits.toNat % 2 ^ 32))
     Gives (do writeScalar d { bits := BitVec.ofNat 64 r.code, mark := x.mark || y.mark }; raiseFlagsN r.flags) s2 () t) →
    Completes (p.1 d a b) s t) ∧
  (∀ (d a : Scalar) (s s1 t : State) (x : Val), issues (.ftoi d a) s = true → srcBound a s → dstBound d s →
    Gives (readScalar a) s x s1 →
    (let r := convertInt (s1.cur.rounding 0) (-(2 ^ 63)) (2 ^ 63 - 1) (fp32.decode (x.bits.toNat % 2 ^ 32))
     Gives (do writeScalar d { bits := BitVec.ofInt 64 r.1, mark := x.mark }; raiseFlagsN r.2) s1 () t) →
    Completes (.ftoi d a) s t) ∧
  (∀ (d a : Scalar) (s s1 t : State) (x : Val), issues (.itof d a) s = true → srcBound a s → dstBound d s →
    Gives (readScalar a) s x s1 →
    (let r := fp32.ofValue (s1.cur.rounding 0) (.ofInt x.bits.toInt)
     Gives (do writeScalar d { bits := BitVec.ofNat 64 r.code, mark := x.mark }; raiseFlagsN r.flags) s1 () t) →
    Completes (.itof d a) s t)

/-- R233 to R238, R242: every VFLOAT, VINT and VKEY instruction computes each active element alone with the operation of
its table, and completes. R159, R232: each 16-bit lane operation is the 32-bit instruction of its name on vd and vs;
VFMA adds the product of vs and y1 to vd, and VMOV copies vs. -/
def Obligations.LaneOperationsComplete : Prop :=
  ((∀ p ∈ floatTwo, ∀ t d a b, TwoSources (p.1 t d a b) (laneWidth t) (p.2 t) d a b) ∧
  (∀ p ∈ floatOne, ∀ t d a, OneSource (p.1 t d a) (laneWidth t) (p.2 t) d a) ∧
  (∀ t d a b, ThreeSources (.vfma t d a b) (laneWidth t)
    (fun r x y z => (laneFmt t).fma r false ((laneFmt t).decode x) ((laneFmt t).decode y) ((laneFmt t).decode z)) d a b) ∧
  (∀ t d a b, ThreeSources (.vfms t d a b) (laneWidth t)
    (fun r x y z => (laneFmt t).fma r true ((laneFmt t).decode x) ((laneFmt t).decode y) ((laneFmt t).decode z)) d a b) ∧
  (∀ p ∈ intTwo, ∀ t d a b, TwoSources (p.1 t d a b) (intWidth t) (fun _ => p.2 (intWidth t)) d a b) ∧
  (∀ t d a, OneSource (.viabs t d a) (intWidth t) (fun _ x => plain (signed (intWidth t) x).natAbs) d a)) ∧
  ((∀ p ∈ shortTwo, ∀ d b, TwoSources (p.1 d b) p.2.1 p.2.2 d d b) ∧
  (∀ d b, ThreeSources (.vfmaF32S d b) 32 (fun r x y z => fp32.fma r false (fp32.decode x) (fp32.decode y) (fp32.decode z))
    d b (.y 0)) ∧
  (∀ d b, ThreeSources (.vfmaBf16S d b) 16 (fun r x y z => bf16.fma r false (bf16.decode x) (bf16.decode y) (bf16.decode z))
    d b (.y 0)) ∧
  (∀ d b, OneSource (.vmovS d b) 32 (fun _ x => plain x) d b))

namespace Sys2Proof.Claims

/-- The lanes of a vector, as a function. -/
def LanesAre (r : VecBits) (f : Nat → BitVec 32) : Prop := ∀ l, l < 128 → lane r l = f l

/-- The bits of a mark, as a function of the lane. -/
def MarksAre (m : BitVec 128) (f : Nat → Bool) : Prop := ∀ l, l < 128 → m.getLsbD l = f l

/-- A vector write of d followed by nothing completes the instruction. -/
def WritesVector (i : Instr) (d : VSpec) (r : VecBits) (m : BitVec 128) (s s' : State) : Prop :=
  ∀ t, Gives (writeVec d { bits := r, mark := m }) s' () t → Completes i s t

/-- A conversion works at each active lane with `op`, which is given the context, the lane number and the lane. -/
def ConvertsLanes (i : Instr) (d a : VSpec) (op : Context → Nat → Nat → FResult) : Prop :=
  ∀ (s s1 : State) (x : Vec), issues i s = true → vsrcBound a s → vdstBound d s → Gives (readVec a) s x s1 →
    ∃ (r : VecBits) (flags : Nat),
      Elements 32 s1 r (fun l => op s1.cur l (elemOf x.bits 32 l)) ∧
      FlagsOf 32 s1 flags (fun l => op s1.cur l (elemOf x.bits 32 l)) ∧
      ∀ t, Gives (do writeVec d { bits := r, mark := x.mark }; raiseFlagsN flags) s1 () t → Completes i s t

/-- The tree of R173 over elements 2^k·i to 2^k·(i + 1) − 1: neighbours first. -/
def tree (op : Nat → Nat → FResult) (e : Nat → Nat) : Nat → Nat → FResult
  | 0, i => plain (e i)
  | k + 1, i =>
    let x := tree op e k (2 * i)
    let y := tree op e k (2 * i + 1)
    let z := op x.code y.code
    { code := z.code, flags := x.flags ||| y.flags ||| z.flags }

/-- The prefixes of R174. -/
def prefixAt (op : Nat → Nat → FResult) (e : Nat → Nat) : Nat → FResult
  | 0 => plain (e 0)
  | m + 1 => op (prefixAt op e m).code (e (m + 1))

/-- What element `e` enters a reduction as (R173, R246): an inactive one as the identity, a float as FP32, an integer
extended to 32 bits, and for VRAMAX its magnitude. -/
def entering (op : ReduceOp) (t : Fin 8) (s : State) (x : VecBits) (e : Nat) : Nat :=
  let w := reduceWidth t
  let v := elemOf x w e
  if activeElem w s e then
    if t.val < 3 then
      let f := if w = 32 then v else widenFp32 (laneFmt t) v
      if op = .amax then f % 2 ^ 31 else f
    else if op = .amax then (signed w v).natAbs else (signed w v % 2 ^ 32).toNat
  else match op, decide (t.val < 3) with
    | .sum, true => 0x80000000
    | .max, true => 0x7FC00000
    | .min, true => 0x7FC00000
    | .max, false => 0x80000000
    | .min, false => 0x7FFFFFFF
    | _, _ => 0

/-- The four reductions. -/
def reductions : List ((Fin 8 → VSpec → VSpec → Instr) × ReduceOp) :=
  [(.vrsum, .sum), (.vrmax, .max), (.vrmin, .min), (.vramax, .amax)]

/-- The levels of the tree: 7, 8 or 9, as a lane holds 1, 2 or 4 elements. -/
def levels (t : Fin 8) : Nat := if reduceWidth t = 32 then 7 else if reduceWidth t = 16 then 8 else 9

end Sys2Proof.Claims

/-- R239 to R241: the lane moves. VMOV, VSEL, VIOTA and VPERM write whole vectors under the mask; VBCAST, VEXTR and VINS
move between a scalar and lanes, the index being below 128. -/
def Obligations.LaneMovesComplete : Prop :=
  (∀ d a s s1 x, issues (.vmov d a) s = true → vsrcBound a s → vdstBound d s → Gives (readVec a) s x s1 →
    ∀ t, Gives (writeVec d x) s1 () t → Completes (.vmov d a) s t) ∧
  (∀ d a b s s1 s2 s3 x y z, issues (.vsel d a b) s = true → vsrcBound a s → vsrcBound b s → Gives (readVec a) s x s1 →
    Gives (readVec b) s1 y s2 → Gives (readVec d) s2 z s3 →
    ∃ r : VecBits, (∀ k, r.getLsbD k = if z.bits.getLsbD k then x.bits.getLsbD k else y.bits.getLsbD k) ∧
      WritesVector (.vsel d a b) d r (x.mark ||| y.mark ||| z.mark) s s3) ∧
  (∀ ty d s, issues (.viota ty d) s = true → vdstBound d s →
    ∃ r, (∀ e, e < 4096 / intWidth ty → elemOf r (intWidth ty) e = e % 2 ^ intWidth ty) ∧
      WritesVector (.viota ty d) d r 0 s s) ∧
  (∀ d a ix s s1 s2 x n, issues (.vperm d a ix) s = true → vsrcBound a s → vsrcBound ix s → vdstBound d s →
    Gives (readVec a) s x s1 → Gives (readVec ix) s1 n s2 →
    ∃ r m, LanesAre r (fun l => lane x.bits ((lane n.bits l).toNat % 128)) ∧
      MarksAre m (fun l => x.mark.getLsbD ((lane n.bits l).toNat % 128) || n.mark.getLsbD l) ∧
      WritesVector (.vperm d a ix) d r m s s2) ∧
  (∀ d a s s1 x, issues (.vbcast d a) s = true → srcBound a s → vdstBound d s → Gives (readScalar a) s x s1 →
    ∃ r m, LanesAre r (fun _ => x.bits.setWidth 32) ∧ MarksAre m (fun _ => x.mark) ∧
      WritesVector (.vbcast d a) d r m s s1) ∧
  (∀ d i a s s1 s2 t n x, issues (.vextr d i a) s = true → srcBound i s → vsrcBound a s → dstBound d s →
    Gives (readScalar i) s n s1 → Gives (readVec a) s1 x s2 → n.bits.toNat < 128 →
    Gives (writeScalar d (if (lanesAt s2).getLsbD n.bits.toNat
      then { bits := (lane x.bits n.bits.toNat).setWidth 64, mark := x.mark.getLsbD n.bits.toNat || n.mark }
      else { bits := 0 })) s2 () t → Completes (.vextr d i a) s t) ∧
  (∀ d a i s s1 s2 s3 x n z, issues (.vins d a i) s = true → srcBound a s → srcBound i s →
    Gives (readScalar a) s x s1 → Gives (readScalar i) s1 n s2 → Gives (readVec d) s2 z s3 → n.bits.toNat < 128 →
    ∃ r m, LanesAre r (fun l => if l = n.bits.toNat then x.bits.setWidth 32 else lane z.bits l) ∧
      MarksAre m (fun l => if l = n.bits.toNat then x.mark || n.mark else z.mark.getLsbD l) ∧
      WritesVector (.vins d a i) d r m s s3)

/-- R243, R244: the conversions work lane by lane under MODE.RM and MODE.SAT where the format is admitted; VPACK keeps the
low half of each wide element, and VUNPACK extends each narrow one. -/
def Obligations.ConversionsAndPackingComplete : Prop :=
  (∀ (fmt : Fin 32) d a, fmt.val ≠ 25 → fmt.val ≠ 26 → fmt.val < 28 → ConvertsLanes (.vcvtF2x fmt d a) d a
    (fun c l x => convertTo fmt.val (c.rounding l) (c.regs.mode.getLsbD 4) (elemValue 0 x))) ∧
  (∀ (fmt : Fin 32) d a, fmt.val ≠ 25 → fmt.val ≠ 26 → fmt.val < 28 → ConvertsLanes (.vcvtI2x fmt d a) d a
    (fun c l x => convertTo fmt.val (c.rounding l) (c.regs.mode.getLsbD 4) (.ofInt (signed 32 x)))) ∧
  (∀ (fmt : Fin 32) d a, fmt.val < 28 → ConvertsLanes (.vcvtX2f fmt d a) d a
    (fun c l x => convertTo 0 (c.rounding l) false (elemValue fmt.val x))) ∧
  (∀ (fmt : Fin 32) d a, fmt.val < 28 → ConvertsLanes (.vcvtX2i fmt d a) d a
    (fun c l x =>
      let y := convertInt (c.rounding l) (-(2 ^ 31)) (2 ^ 31 - 1) (elemValue fmt.val x)
      { code := (y.1 % 2 ^ 32).toNat, flags := y.2 })) ∧
  (∀ ty d a b s s1 s2 x y, issues (.vpack ty d a b) s = true → vsrcBound a s → vsrcBound b s → vdstBound d s →
    Gives (readVec a) s x s1 → Gives (readVec b) s1 y s2 →
    ∃ r m, (∀ e, e < 4096 / packWidth ty → elemOf r (packWidth ty) e =
        elemOf (if e < 2048 / packWidth ty then x.bits else y.bits) (2 * packWidth ty) (e % (2048 / packWidth ty)) %
          2 ^ packWidth ty) ∧
      MarksAre m (fun l => if l < 64 then x.mark.getLsbD (2 * l) || x.mark.getLsbD (2 * l + 1)
        else y.mark.getLsbD (2 * l - 128) || y.mark.getLsbD (2 * l - 127)) ∧
      WritesVector (.vpack ty d a b) d r m s s2) ∧
  (∀ ty d a half sign s s1 x, issues (.vunpack ty d a half sign) s = true → vsrcBound a s → vdstBound d s →
    Gives (readVec a) s x s1 →
    ∃ r m, (∀ e, e < 2048 / packWidth ty →
        let v := elemOf x.bits (packWidth ty) ((if half then 2048 / packWidth ty else 0) + e)
        elemOf r (2 * packWidth ty) e =
          if sign then (signed (packWidth ty) v % 2 ^ (2 * packWidth ty)).toNat else v) ∧
      MarksAre m (fun l => x.mark.getLsbD ((if half then 64 else 0) + l / 2)) ∧
      WritesVector (.vunpack ty d a half sign) d r m s s1)

/-- R173, R174, R245, R246: a reduction writes the root of the fixed tree to every lane, and VSCAN writes each prefix in the
element format. -/
def Obligations.ReductionsUseTheFixedTree : Prop :=
  (∀ p ∈ reductions, ∀ ty d a s s1 x, issues (p.1 ty d a) s = true → vsrcBound a s → vdstBound d s →
    Gives (readVec a) s x s1 →
    let root := tree (reduceStep p.2 (decide (ty.val < 3))) (entering p.2 ty s1 x.bits) (levels ty) 0
    ∃ r m, LanesAre r (fun _ => BitVec.ofNat 32 root.code) ∧
      MarksAre m (fun _ => decide (x.mark &&& lanesAt s1 ≠ 0)) ∧
      ∀ t, Gives (do writeVec d { bits := r, mark := m }; raiseFlagsN root.flags) s1 () t → Completes (p.1 ty d a) s t) ∧
  (∀ ty d a (op : Fin 32) s s1 x, issues (.vscan ty d a op) s = true → vsrcBound a s → vdstBound d s →
    Gives (readVec a) s x s1 →
    ∃ r m flags,
      (∀ e, activeElem (reduceWidth ty) s1 e = true →
        let p := prefixAt (reduceStep (scanOp op) (decide (ty.val < 3))) (entering (scanOp op) ty s1 x.bits) e
        elemOf r (reduceWidth ty) e =
          if ty.val < 3 ∧ reduceWidth ty = 16 then ((laneFmt ty).convert rne false (fp32.decode p.code)).code % 2 ^ 16
          else p.code % 2 ^ reduceWidth ty) ∧
      MarksAre m (fun l => (List.range (l + 1)).any (fun k => x.mark.getLsbD k && (lanesAt s1).getLsbD k)) ∧
      (∀ k, flags.testBit k = true ↔ ∃ e, e < 4096 / reduceWidth ty ∧
        let p := prefixAt (reduceStep (scanOp op) (decide (ty.val < 3))) (entering (scanOp op) ty s1 x.bits) e
        (p.flags.testBit k = true ∨ (activeElem (reduceWidth ty) s1 e = true ∧ ty.val < 3 ∧ reduceWidth ty = 16 ∧
          ((laneFmt ty).convert rne false (fp32.decode p.code)).flags.testBit k = true))) ∧
      ∀ t, Gives (do writeVec d { bits := r, mark := m }; raiseFlagsN flags) s1 () t → Completes (.vscan ty d a op) s t)
namespace Sys2Proof.Claims

/-- `t` differs from `s` in the registers of the context that has the turn alone. -/
def OnlyRegs (s t : State) : Prop := t = { s with cur := { s.cur with regs := t.cur.regs } }

/-- The channel bound at a port of the context that has the turn. -/
def boundAt (s : State) (p : Fin 8) (e : PortEnd) (ch : Channel) : Prop :=
  s.cur.ports[p] = some e ∧ s.chan? e.chan = some ch

/-- `t` differs from `s` in one channel, and in the statuses of contexts that were waiting for it. -/
def OnlyChannel (s t : State) (id : Nat) (ch : Channel) : Prop :=
  t.chan? id = some ch ∧ (∀ k, k ≠ id → t.chan? k = s.chan? k) ∧ t.cur.regs = s.cur.regs ∧ t.mem = s.mem ∧
    t.scratch = s.scratch ∧ t.acc = s.acc ∧ t.md = s.md ∧ t.msgs = s.msgs ∧ t.cores = s.cores

/-- The mask instruction `i` of a unit sees next. -/
def unitOf (s : State) (g : Option Bool) (l : Option (BitVec 128)) : UnitState :=
  { saved := s.cur.unitStart, guard := g, lanes := l }

/-- A target register written. -/
def withTarget (s : State) (n : Fin 8) (t : Target) : State :=
  { s with cur := { s.cur with regs := { s.cur.regs with b := s.cur.regs.b.set n t } } }

/-- What PrepareTarget holds at an address with a cause (R198). -/
def prepared (addr : Word) (cause : Option Cause) : Target :=
  ({ addr := addr.setWidth 48, prepared := true : Target }).hold cause

/-- The check of the target's first instruction, by the context that has the turn. -/
def checked (s : State) (addr : Word) : M (Option Cause) := fetchCheck s.cur.core s.cur.asid s.cur.sys addr

/-- The address after a transfer's delay slot of `len` bytes (R203). -/
def afterSlot (s : State) (len : Nat) : CodeAddr := s.cur.regs.pc + 4 + BitVec.ofNat 48 len

/-- A transfer through target register `n`. -/
def TransferThrough (i : Instr) (n : Fin 8) : Prop :=
  i = .jmp n ∨ (∃ l, i = .call n l) ∨ (∃ g bit, i = .brT n g bit) ∨ (∃ g bit, i = .brF n g bit) ∨ ∃ g, i = .bdec n g

/-- A port that a transfer tests is bound for reading. -/
def ConditionBound (i : Instr) (s : State) : Prop := ∀ n g bit, (i = .brT n g bit ∨ i = .brF n g bit) → srcBound g s

/-- An unmarked target register holds a cause that stands: a held "not code" is looked at again (R199, R205). -/
def StillHeld (s : State) (t : Target) : Prop :=
  t.marks = 0 ∧ t.sub ≠ 0 ∧ (t.sub ≠ Cause.notCode.sub ∨
    ∃ c s1, Gives (checked s (t.addr.setWidth 64)) s (some c) s1 ∧ c ≠ .fetchPoison ∧ c ≠ .fetchError)

/-- TARGET_FAULT, with the address and the subcode that a target register holds (R205). -/
def TargetFaults (i : Instr) (s : State) (t : Target) : Prop :=
  ∃ f, Faults i s f ∧ f.code = .targetFault ∧ f.addr = t.addr.setWidth 64 ∧ f.sub = t.sub

/-- A transfer through a target register does not proceed: POISON where the register is marked (R350), and else TARGET_FAULT
where it holds a cause that stands, at the state `s1` in which it is looked at. -/
def TargetRefused (i : Instr) (s s1 : State) (t : Target) : Prop :=
  (t.marks ≠ 0 → Faults i s { code := .poison }) ∧ (StillHeld s1 t → TargetFaults i s t)

/-- A taken transfer proceeds through a target register that is not marked: it holds no cause, or a "not code" that is looked at again, no longer
stands and is cleared (R199, R205). -/
def Proceeds (n : Fin 8) (t : Target) (s s1 : State) : Prop :=
  t.marks = 0 ∧ ((t.sub = 0 ∧ s1 = s) ∨ (t.sub = Cause.notCode.sub ∧ ∃ c u, Gives (checked s (t.addr.setWidth 64)) s c u ∧
    (c = none ∨ c = some .fetchPoison ∨ c = some .fetchError) ∧ s1 = withTarget u n (t.hold none)))

/-- The same of a transfer that may not be taken. -/
def ProceedsIf (taken : Bool) (n : Fin 8) (t : Target) (s s1 : State) : Prop :=
  (taken = true → Proceeds n t s s1) ∧ (taken = false → s1 = s)

/-- A transfer is on: issued, not guarded off, through a prepared register whose slot is `len` bytes. -/
def TransferOn (i : Instr) (n : Fin 8) (s s1 : State) (len : Nat) : Prop :=
  s.busy = true ∧ stepChecks i true s.cur = none ∧ s.cur.guardedOff = false ∧ s.cur.regs.b[n].prepared = true ∧
    Gives delaySlot s len s1

end Sys2Proof.Claims

/-- R149, R162, R193: how a scalar specifier is read and written. g0 reads zero and discards; a push moves every age on.
R149, R162, R231: how a vector specifier is read and written under the mask. A named vector keeps its inactive lanes; a
push to y1 holds zero there and moves every age on. -/
def Obligations.OperandsAreReadAndWritten : Prop :=
  ((∀ (n : Fin 32) (s : State), Gives (readScalar (.g n)) s (if n.val = 0 then { bits := 0 } else s.cur.regs.g[n]) s) ∧
  (∀ (a : Fin 16) (s : State), Gives (readScalar (.q a)) s s.cur.regs.q[a] s) ∧
  (∀ (v : Val) (s : State), Gives (writeScalar (.g 0) v) s () s) ∧
  (∀ (n : Fin 32) (v : Val) (s : State), n.val ≠ 0 → ∃ t : State, Gives (writeScalar (.g n) v) s () t ∧ OnlyRegs s t ∧
    t.cur.regs = { s.cur.regs with g := t.cur.regs.g } ∧
    ∀ k : Fin 32, t.cur.regs.g[k] = if k = n then v else s.cur.regs.g[k]) ∧
  (∀ (a : Fin 16) (v : Val) (s : State), ∃ t : State, Gives (writeScalar (.q a) v) s () t ∧ OnlyRegs s t ∧
    t.cur.regs = { s.cur.regs with q := t.cur.regs.q } ∧ t.cur.regs.q[0] = v ∧
    ∀ k : Fin 15, t.cur.regs.q[k.val + 1] = s.cur.regs.q[k.val])) ∧
  ((∀ (n : Fin 16) (s : State), Gives (readVec (.v n)) s s.cur.regs.v[n] s) ∧
  (∀ (a : Fin 8) (s : State), Gives (readVec (.y a)) s s.cur.regs.y[a] s) ∧
  (∀ (n : Fin 16) (r : Vec) (s : State), ∃ t : State, Gives (writeVec (.v n) r) s () t ∧ OnlyRegs s t ∧
    t.cur.regs = { s.cur.regs with v := t.cur.regs.v } ∧ (∀ k : Fin 16, k ≠ n → t.cur.regs.v[k] = s.cur.regs.v[k]) ∧
    ∀ l, l < 128 → lane t.cur.regs.v[n].bits l =
      if (lanesAt s).getLsbD l then lane r.bits l else lane s.cur.regs.v[n].bits l) ∧
  (∀ (a : Fin 8) (r : Vec) (s : State), ∃ t : State, Gives (writeVec (.y a) r) s () t ∧ OnlyRegs s t ∧
    t.cur.regs = { s.cur.regs with y := t.cur.regs.y } ∧ (∀ k : Fin 7, t.cur.regs.y[k.val + 1] = s.cur.regs.y[k.val]) ∧
    ∀ l, l < 128 → lane t.cur.regs.y[0].bits l = if (lanesAt s).getLsbD l then lane r.bits l else 0))

/-- R142: a read of a port takes the oldest item and parks on an empty channel; a write puts an item and parks on a full
one, counting the slots of items a unit in progress still holds. R194, R311: one parked so is ready once a unit of the receiver
is complete and a slot is free, whatever instruction took the item. How many items and slots a twin has seen (`arrived`,
`freed`) is the model's own (notes/assumptions/3.md), and so is the count of items by which the channel pointers go (`puts`,
`takes`; notes/assumptions/8.md). -/
def Obligations.PortsTakeAndPutItems : Prop :=
  (∀ (p : Fin 8) (s : State) (e : PortEnd) (ch : Channel) (x : Vec) (rest : List Vec), boundAt s p e ch →
    ch.items = x :: rest → ∃ t : State, Gives (takeItem p) s x t ∧
      OnlyChannel s t e.chan { ch with items := rest, arrived := ch.arrived - 1, takes := ch.takes + 1 }) ∧
  (∀ (p : Fin 8) (s : State) (e : PortEnd) (ch : Channel), boundAt s p e ch → ch.items = [] →
    takeItem p s = .error (.park (.channel e.chan))) ∧
  (∀ (p : Fin 8) (s : State) (e : PortEnd) (ch : Channel) (x : Vec), boundAt s p e ch →
    ch.items.length + s.heldItems ch < ch.slots →
    ∃ t : State, Gives (putItem p x) s () t ∧
      OnlyChannel s t e.chan { ch with items := ch.items ++ [x], freed := ch.freed - 1, puts := ch.puts + 1 }) ∧
  (∀ (p : Fin 8) (s : State) (e : PortEnd) (ch : Channel) (x : Vec), boundAt s p e ch →
    ch.slots ≤ ch.items.length + s.heldItems ch → putItem p x s = .error (.park (.channel e.chan))) ∧
  (∀ (len n : Nat) (c x : Context) (ch : Channel) (s : State),
    (let u : State := { s with cur := s.cur.finish len }
     x ∈ s.ctxs → x.status = .parked (.channel ch.id) n → ch ∈ s.chans → ch.src = x.key → ch.dst = s.cur.key →
     ch.items.length + u.heldItems ch < ch.slots →
     ∃ y ∈ (settle len c .done s).ctxs, y = { x with status := y.status } ∧ ∃ k, y.status = .ready k))

/-- R145, R154, R166, R167: every encoding is checked in the order of R167, whether or not it is guarded off, and the
first check that fails is the fault it takes. R45: an instruction that rounds under MODE.RM takes ILLEGAL_OPERAND while
that holds 6 or 7; that this comes before its other own checks is the model's reading (notes/assumptions/74.md). R149, R167,
R195: an instruction that is guarded off makes no further
check; it pushes zero where its destination is a queue, is counted, and changes nothing else. -/
def Obligations.ChecksAndGuardsComeFirst : Prop :=
  ((∀ (i : Instr) (s : State) (code : FaultCode), i.isEvent = false → s.busy = true →
    stepChecks i true s.cur = some code → Faults i s { code := code }) ∧
  (∀ (i : Instr) (s : State), i.isEvent = false → s.busy = true → s.cur.slot = some .h → i.slotHIllegal = true →
    Faults i s { code := .illegalInstruction }) ∧
  (∀ (i : Instr) (s : State), i.isEvent = false → s.busy = true → s.cur.unit = none → i.isPrivileged = true →
    i.slotHIllegal = false → s.cur.sys = false → Faults i s { code := .privilege }) ∧
  (∀ (i : Instr) (s : State), i.isEvent = false → s.busy = true → s.cur.unit = none → i.isPrivileged = false →
    s.cur.slot ≠ some .h → i.wf = false → Faults i s { code := .illegalOperand }) ∧
  (∀ (i : Instr) (s : State), i.isEvent = false → s.busy = true → stepChecks i true s.cur = none →
    s.cur.guardedOff = false → s.cur.slot = some .h → i.blocksInHandler = true →
    Faults i s { code := .blockingInHandler }) ∧
  (∀ (i : Instr) (s : State), i.isEvent = false → i.isTransfer = false → s.busy = true → stepChecks i true s.cur = none →
    s.cur.guardedOff = false → (s.cur.slot = some .h → i.blocksInHandler = false) → i.roundsByMode = true →
    6 ≤ wbits s.cur.regs.mode 1 3 → Faults i s { code := .illegalOperand })) ∧
  (∀ (i : Instr) (s : State), i.isEvent = false → i.isTransfer = false → s.busy = true →
    stepChecks i true s.cur = none → s.cur.guardedOff = true →
    Completes i s { s with cur := pushZeros i.dests s.cur } ∧
    ((∀ d ∈ i.dests, (∀ a, d ≠ .scalar (.q a)) ∧ (∀ a, d ≠ .vector (.y a))) → pushZeros i.dests s.cur = s.cur) ∧
    (i.dests = [.scalar (.q 0)] → pushZeros i.dests s.cur =
      { s.cur with regs := s.cur.regs.pushQ { bits := 0 } }) ∧
    (i.dests = [.vector (.y 0)] → pushZeros i.dests s.cur =
      { s.cur with regs := s.cur.regs.pushY { bits := 0 } }))

/-- R48, R194, R203, R204: a completed instruction moves the PC past itself, or to where the transfer before its slot
leads, is counted, and ends its unit; the registers it wrote stand. R195, R196, R291: GUARD and VGUARD complete and set
what the next instruction runs under; the no-operations only move on. -/
def Obligations.GuardsCompleteAndCompletionAdvances : Prop :=
  (∀ (len : Nat) (c : Context) (t : State), let u := settle len c .done t
    u.cur.regs.pc = (match t.cur.unit with
      | some x => x.slot.getD (t.cur.regs.pc + BitVec.ofNat 48 len)
      | none => t.cur.regs.pc + BitVec.ofNat 48 len) ∧
    u.cur.regs.icount = t.cur.regs.icount + 1 ∧ u.cur.unit = none ∧
    u.cur.regs = { t.cur.regs with pc := u.cur.regs.pc, icount := u.cur.regs.icount } ∧
    u.busy = t.busy ∧ u.mem = t.mem ∧ u.md = t.md ∧ u.scratch = t.scratch ∧ u.acc = t.acc ∧ u.chans = t.chans ∧
    u.cores = t.cores ∧ u.msgs = t.msgs ∧ u.turn = t.turn) ∧
  ((∀ (sense : Bool) (bit : Fin 64) (n : Fin 32) (s : State), issues (.guard sense bit n) s = true →
    ∃ t : State, exec (.guard sense bit n) s = .next t ∧ t = { s with cur := t.cur } ∧
      t.cur.unit = some (unitOf s (some ((if n.val = 0 then 0 else s.cur.regs.g[n].bits).getLsbD bit.val == sense)) none) ∧
      t.cur.regs = { s.cur.regs with pc := nextOf s.cur 2, icount := s.cur.regs.icount + 1 }) ∧
  (∀ (sense : Bool) (bit : Fin 32) (n : Fin 32) (s : State), issues (.vguard sense bit n) s = true →
    ∃ t m, exec (.vguard sense bit n) s = .next t ∧ t = { s with cur := t.cur } ∧
      t.cur.unit = some (unitOf s none (some m)) ∧
      (∀ l, l < 128 → m.getLsbD l = ((lane (s.cur.regs.v[n.val % 16]'(Nat.mod_lt _ (by decide))).bits l).getLsbD bit.val ==
        sense)) ∧
      t.cur.regs = { s.cur.regs with pc := nextOf s.cur 2, icount := s.cur.regs.icount + 1 }) ∧
  (∀ s, issues .nop16 s = true → Completes .nop16 s s) ∧ (∀ s, issues .nop s = true → Completes .nop s s))

/-- R198, R200 to R202, R206: the prepares complete whatever the target holds: a cause met is held, and for a table that
cannot be read the address of the word of it that failed. -/
def Obligations.PreparesHoldTheirCauses : Prop :=
  (∀ n imm s s1 cause, issues (.prep n imm) s = true →
    (let a := s.cur.regs.pc.setWidth 64 + 2 * imm.signExtend 64
     Gives (checked s a) s cause s1 → Completes (.prep n imm) s (withTarget s1 n (prepared a cause)))) ∧
  (∀ n a s s1 s2 x cause, issues (.prepr n a) s = true → srcBound a s → Gives (readClean a) s x s1 →
    Gives (checked s1 x) s1 cause s2 → Completes (.prepr n a) s (withTarget s2 n (prepared x cause))) ∧
  (∀ n a b s s1 s2 s3 s4 s5 x y hdr off cause, issues (.prepx n a b) s = true → srcBound a s → srcBound b s →
    Gives (readClean a) s x s1 → Gives (readClean b) s1 y s2 → Gives (codeRead x 8) s2 (some hdr) s3 →
    y.toNat < hdr % 2 ^ 32 → Gives (codeRead (x + 8 + 4 * y) 4) s3 (some off) s4 →
    (let z := x + 2 * (BitVec.ofNat 32 off).signExtend 64
     Gives (checked s4 z) s4 cause s5 → Completes (.prepx n a b) s (withTarget s5 n (prepared z cause)))) ∧
  (∀ n a b s s1 s2 s3 s4 x y hdr cause, issues (.prepx n a b) s = true → srcBound a s → srcBound b s →
    Gives (readClean a) s x s1 → Gives (readClean b) s1 y s2 → Gives (codeRead x 8) s2 (some hdr) s3 →
    hdr % 2 ^ 32 ≤ y.toNat →
    (let z := x + 2 * (BitVec.ofNat 32 (hdr / 2 ^ 32)).signExtend 64
     Gives (checked s3 z) s3 cause s4 → Completes (.prepx n a b) s (withTarget s4 n (prepared z cause)))) ∧
  (∀ n a b s s1 s2 s3 x y, issues (.prepx n a b) s = true → srcBound a s → srcBound b s →
    Gives (readClean a) s x s1 → Gives (readClean b) s1 y s2 → Gives (codeRead x 8) s2 none s3 →
    Completes (.prepx n a b) s (withTarget s3 n (prepared x (some .tableRead)))) ∧
  (∀ n a b s s1 s2 s3 s4 x y hdr, issues (.prepx n a b) s = true → srcBound a s → srcBound b s →
    Gives (readClean a) s x s1 → Gives (readClean b) s1 y s2 → Gives (codeRead x 8) s2 (some hdr) s3 →
    y.toNat < hdr % 2 ^ 32 → Gives (codeRead (x + 8 + 4 * y) 4) s3 none s4 →
    Completes (.prepx n a b) s (withTarget s4 n (prepared (x + 8 + 4 * y) (some .tableRead)))) ∧
  (∀ n l s, issues (.pmove n l) s = true → Completes (.pmove n l) s (withTarget s n s.cur.regs.b[l]))

/-- R203 to R205: each transfer through a prepared register goes, after its slot, to the target when it is taken, and else to
the instruction after the slot. CALL prepares its return register, BDEC decrements before the slot runs. R195, R199, R203,
R205: one that is guarded off only runs its slot; one through a register that holds a "not code" which no longer stands clears
it and proceeds; one that is on through a register not prepared takes UNPREPARED_TRANSFER, and a taken one through a register
that holds a cause TARGET_FAULT, or POISON where the register is marked (R350); a transfer or guard in the slot is TRANSFER_IN_SLOT, guarded off or not. The instruction in
the slot runs next, and where the transfer leads is kept until it has completed. -/
def Obligations.TransfersGoWhereTheyWerePrepared : Prop :=
  (∀ n s s1 s2 len, TransferOn (.jmp n) n s s1 len → Proceeds n s.cur.regs.b[n] s1 s2 →
    Ends (.jmp n) s (.transfer s.cur.regs.b[n].addr true []) s2) ∧
  (∀ n l s s1 s2 s3 len cause, TransferOn (.call n l) n s s1 len → Proceeds n s.cur.regs.b[n] s1 s2 →
    Gives (checked s2 ((afterSlot s len).setWidth 64)) s2 cause s3 →
    Ends (.call n l) s (.transfer s.cur.regs.b[n].addr true [])
      (withTarget s3 l (prepared ((afterSlot s len).setWidth 64) cause))) ∧
  (∀ n g bit s s1 s2 s3 len x, TransferOn (.brT n g bit) n s s1 len → g.isPort = false → Gives (readClean g) s1 x s2 →
    ProceedsIf (x.getLsbD bit.val) n s.cur.regs.b[n] s2 s3 →
    Ends (.brT n g bit) s (.transfer (if x.getLsbD bit.val then s.cur.regs.b[n].addr else afterSlot s len)
      (x.getLsbD bit.val) []) s3) ∧
  (∀ n g bit s s1 s2 s3 len x, TransferOn (.brF n g bit) n s s1 len → g.isPort = false → Gives (readClean g) s1 x s2 →
    ProceedsIf (!x.getLsbD bit.val) n s.cur.regs.b[n] s2 s3 →
    Ends (.brF n g bit) s (.transfer (if x.getLsbD bit.val then afterSlot s len else s.cur.regs.b[n].addr)
      (!x.getLsbD bit.val) []) s3) ∧
  (∀ n p bit s s1 s2 s3 len e ch x, TransferOn (.brT n (.c p) bit) n s s1 len → srcBound (.c p) s → boundAt s1 p e ch →
    Gives (takeItem p) s1 x s2 → x.toVal.mark = false →
    ProceedsIf (x.toVal.bits.getLsbD bit.val) n s.cur.regs.b[n] s2 s3 →
    Ends (.brT n (.c p) bit) s (.transfer (if x.toVal.bits.getLsbD bit.val then s.cur.regs.b[n].addr else afterSlot s len)
      (x.toVal.bits.getLsbD bit.val) [(ch.id, x)]) s3) ∧
  (∀ n p bit s s1 s2 s3 len e ch x, TransferOn (.brF n (.c p) bit) n s s1 len → srcBound (.c p) s → boundAt s1 p e ch →
    Gives (takeItem p) s1 x s2 → x.toVal.mark = false →
    ProceedsIf (!x.toVal.bits.getLsbD bit.val) n s.cur.regs.b[n] s2 s3 →
    Ends (.brF n (.c p) bit) s (.transfer (if x.toVal.bits.getLsbD bit.val then afterSlot s len else s.cur.regs.b[n].addr)
      (!x.toVal.bits.getLsbD bit.val) [(ch.id, x)]) s3) ∧
  (∀ n (k : Fin 32) s s1 s2 len, TransferOn (.bdec n (.g k)) n s s1 len → (s1.cur.regs.readG k).mark = false →
    (let x := (s1.cur.regs.readG k).bits
     ProceedsIf (decide (x ≠ 1)) n s.cur.regs.b[n]
       { s1 with cur := { s1.cur with regs := s1.cur.regs.writeG k { bits := x - 1 } } } s2 →
     Ends (.bdec n (.g k)) s
       (.transfer (if x = 1 then afterSlot s len else s.cur.regs.b[n].addr) (decide (x ≠ 1)) []) s2)) ∧
  (∀ (len : Nat) (c : Context) (next : CodeAddr) (toTarget : Bool) (taken : List (Nat × Vec)) (t : State),
    let u := settle len c (.transfer next toTarget taken) t
    u.cur.regs = { t.cur.regs with pc := nextOf t.cur len, icount := t.cur.regs.icount + 1 } ∧
    u.cur.unit = some { saved := c.unitStart, slot := some next, viaTarget := toTarget, taken := taken } ∧
    u.busy = t.busy ∧ u.mem = t.mem ∧ u.md = t.md ∧ u.scratch = t.scratch ∧ u.acc = t.acc ∧ u.chans = t.chans ∧
    u.cores = t.cores ∧ u.ctxs = t.ctxs ∧ u.msgs = t.msgs ∧ u.turn = t.turn) ∧
  (∀ i n s, TransferThrough i n → ConditionBound i s → s.busy = true → stepChecks i true s.cur = none →
    s.cur.guardedOff = false → s.cur.regs.b[n].prepared = false → Faults i s { code := .unpreparedTransfer }) ∧
  (∀ i n s s1 len, TransferThrough i n → s.busy = true → stepChecks i true s.cur = none → s.cur.guardedOff = true →
    Gives delaySlot s len s1 → Ends i s (.transfer (afterSlot s len) false []) s1) ∧
  (∀ i n s s1 bytes, TransferThrough i n → s.busy = true → stepChecks i true s.cur = none →
    (s.cur.guardedOff = true ∨ (ConditionBound i s ∧ s.cur.regs.b[n].prepared = true)) →
    Gives (fetchBytes s.cur.core s.cur.asid s.cur.sys (s.cur.regs.pc + 4).toNat) s (.ok bytes) s1 →
    (s.core s.cur.core).icErrors.contains (s.cur.asid, (s.cur.regs.pc + 4).toNat) = false → slotRefused bytes = true →
    Faults i s { code := .transferInSlot, addr := (s.cur.regs.pc + 4).setWidth 64 }) ∧
  (∀ i n s s1 len, (i = .jmp n ∨ ∃ l, i = .call n l) → TransferOn i n s s1 len →
    TargetRefused i s s1 s.cur.regs.b[n]) ∧
  (∀ i n g bit (sense : Bool) s s1 s2 len items, i = (if sense then .brT n g bit else .brF n g bit) → srcBound g s →
    TransferOn i n s s1 len → Gives (branchBit g bit sense) s1 (true, items) s2 → TargetRefused i s s2 s.cur.regs.b[n]) ∧
  (∀ n (k : Fin 32) s s1 s2 len, TransferOn (.bdec n (.g k)) n s s1 len → (s1.cur.regs.readG k).mark = false →
    (s1.cur.regs.readG k).bits ≠ 1 →
    s2 = { s1 with cur := { s1.cur with regs := s1.cur.regs.writeG k { bits := (s1.cur.regs.readG k).bits - 1 } } } →
    TargetRefused (.bdec n (.g k)) s s2 s.cur.regs.b[n])
namespace Sys2Proof.Claims

/-- The scalar operands of an instruction read once, in order. -/
def Operands (xs : List Scalar) (s : State) (vs : List Val) (t : State) : Prop := Gives (readOnce xs) s vs t

/-- An address that names a field page passes FieldAccess (R219) and gives its page; the type is the instruction's matter. -/
def Admitted (kind : AccessKind) (ea : Word) (s : State) (l : Leaf) (t : State) : Prop :=
  Gives (fieldAccess kind (fun _ => none) ea) s l t

/-- The wait of R76 has ended: the context's held joins have left the core and every earlier join and fill, and with
`stores` every store, is acknowledged. -/
def Acknowledged (stores : Bool) (s t : State) : Prop :=
  t = s.drainHeld s.cur.core (Held.ofCtx s.cur.key) ∧ ∀ o ∈ t.cur.outs, o.store = true ∧ stores = false

/-- The joins of a value, with their width and whether they release (R221, R222). -/
def joins : List ((Scalar → Scalar → Instr) × Nat × Bool) :=
  [(.joinH, 16, false), (.joinW, 32, false), (.joinD, 64, false), (.joinHRel, 16, true), (.joinWRel, 32, true),
   (.joinDRel, 64, true)]

/-- The contributions, with whether the operand is a float, and whether they release (R222, R223). -/
def xjoins : List ((Scalar → Scalar → Instr) × Bool × Bool) :=
  [(.xjoinF, true, false), (.xjoinI, false, false), (.xjoinFRel, true, true), (.xjoinIRel, false, true)]

/-- The join that the context that has the turn posts. -/
def joinOf (l : Leaf) (va w : Nat) (x : Int) (mark rel : Bool) (s : State) : JoinReq :=
  { cell := l.key va, width := w, ty := l.ty, arg := l.arg, val := x, mark := mark, rel := rel
    tags := [{ who := .ctx s.cur.key s.cur.nextOut, va := BitVec.ofNat 64 va }] }

/-- Two joins of one cell that may merge (R116). -/
def SameCell (a b : JoinReq) : Prop :=
  a.cell = b.cell ∧ a.ty = b.ty ∧ a.arg = b.arg ∧ a.width = b.width ∧ a.tags.length + b.tags.length ≤ 8

/-- A join that a buffer holds may merge with one under a page of a good, or of a bad, physical address (R94, R116). -/
def Joinable (h : Held) (j : JoinReq) (bad : Bool) : Prop := SameCell h.req j ∧ h.bad = bad

/-- What they merge into (R60, R116). -/
def MergedJoin (a b r : JoinReq) : Prop :=
  r.cell = a.cell ∧ r.width = a.width ∧ r.ty = a.ty ∧ r.arg = a.arg ∧
    r.val = (if a.ty = 10 then a.val + b.val else (cellJoin a.ty a.width a.val.toNat b.val.toNat : Nat)) ∧
    r.count = a.count + b.count ∧ r.mark = (a.mark || b.mark) ∧ r.rel = (a.rel || b.rel) ∧ r.tags = a.tags ++ b.tags

/-- A releasing join waits as R76 says and has no posted fault to deliver; another waits for nothing. -/
def Released (rel : Bool) (s t : State) : Prop :=
  if rel then Acknowledged false s t ∧ t.cur.posted = [] else t = s

/-- The two loads with the value they make of `w` bits. -/
def loads : List ((Scalar → Scalar → Fin 4 → BitVec 11 → Instr) × (Nat → Nat → Word)) :=
  [(.ld, fun w x => BitVec.ofInt 64 (signed w x)), (.ldz, fun _ x => BitVec.ofNat 64 x)]

/-- The address of a load or store (R215). -/
def effective (base : Word) (off : BitVec 11) (size : Fin 4) : Word :=
  BitVec.ofInt 64 (base.toNat + off.toInt * (2 ^ size.val : Nat))

/-- The state after an acquire of the context that has the turn (R108, R338); `AcquireDropsL1` says what that leaves. -/
def afterAcquire (s : State) : State := s.acquireL1 s.cur.core

/-- An acquire drops the lines of its core's L1 that are not frozen, and no other core's. -/
def AcquireDropsL1 : Prop :=
  ∀ s : State, ((afterAcquire s).core s.cur.core).l1 = (s.core s.cur.core).l1.filter (fun x => x.frozen) ∧
    (∀ n, n ≠ s.cur.core → (afterAcquire s).core n = s.core n) ∧ (afterAcquire s).cur.regs = s.cur.regs ∧
    (afterAcquire s).mem = s.mem ∧ (afterAcquire s).md = s.md ∧ (afterAcquire s).msgs = s.msgs

/-- Where a core's read of a line of constants or code gets it (R101, R109, R111, R214): a home on its own die answers, and
counts the read; a frozen replica at the gateway on its way answers, and its page's home counts nothing; with none there the
home answers and a frozen line leaves its replica. A home that is lost answers with its fault. -/
def FrozenLinesAreRead : Prop :=
  ∀ (core : Nat) (asid : BitVec 12) (l : Leaf) (va : Nat) (s : State),
    (let key := l.key va
     let home := s.snap (key / 128) l.ty
     let counted := s.countAt l.cnt key (BitVec.ofNat 64 va) asid
     let noReplica := ∀ g, s.gateFor core key = some g → s.replica? g (key / 128) = none
     (∀ code, noReplica → s.homeCode l va (dieOf core) = some code →
       Gives (readFrozen core asid l va) s (.error code) s) ∧
     (s.gateFor core key = none → s.homeCode l va (dieOf core) = none →
       Gives (readFrozen core asid l va) s (.ok home) counted) ∧
     (∀ g, s.gateFor core key = some g → s.replica? g (key / 128) = none → s.homeCode l va (dieOf core) = none →
       (home.frozenClean = false → Gives (readFrozen core asid l va) s (.ok home) counted) ∧
       (home.frozenClean = true → ∃ t : State, Gives (readFrozen core asid l va) s (.ok home) t ∧
         t = { counted with replicas := t.replicas, choices := t.choices } ∧
         (counted.choices = [] → key < 2 ^ 51 → ∃ r ∈ t.replicas, r.gate = g ∧
           r.snap = counted.snap (key / 128) l.ty ∧ r.gen = l.gen ∧ r.names = [(asid, va / 128)]))) ∧
     (∀ g r, s.gateFor core key = some g → s.replica? g (key / 128) = some r → s.choices = [] →
       r.snap.frozenClean = true → r.gen = l.gen → ∃ t : State, Gives (readFrozen core asid l va) s (.ok r.snap) t ∧
         t = { s with replicas := t.replicas } ∧ t.replicas.map Replica.snap = s.replicas.map Replica.snap ∧
         ∃ r' ∈ t.replicas, r'.gate = g ∧ r'.snap = r.snap ∧ (asid, va / 128) ∈ r'.names))

/-- The word a resolved wait writes (R224 to R226), by instruction. -/
def Resolves (i : Instr) (operands : List Scalar) (d : Scalar) (pick : Nat → Word → Word) (markOf : List Val → Bool) : Prop :=
  ∀ (s s1 t : State) (vs : List Val) (r : Reply) (k : Nat) (first : Word), issues i s = true →
    (∀ x ∈ operands, srcBound x s) → dstBound d s → Operands operands s vs s1 → (nthVal vs 0).mark = false →
    s1.cur.reply = some r → r.r = .passed k first →
    Gives (writeScalar d { bits := pick k first, mark := markOf vs }) s1 () t → Completes i s (afterAcquire t)

/-- A wait that has sent its test and has no answer parks while its home holds the watch, and else looks again (R67, R224). -/
def StillAsks (i : Instr) (s s1 : State) : Prop :=
  s1.cur.reply = none → s1.cur.asked = true →
    ((∃ w ∈ s1.watches, w.who = .ctx s1.cur.key s1.cur.nextReq) → Ends i s (.park .reply) s1) ∧
    ((∀ w ∈ s1.watches, w.who ≠ .ctx s1.cur.key s1.cur.nextReq) → Ends i s .stall s1)

/-- That, of the waits with scalar operands alone. -/
def WaitsForReply (i : Instr) (operands : List Scalar) (d : Scalar) : Prop :=
  ∀ (s s1 : State) (vs : List Val), issues i s = true → (∀ x ∈ operands, srcBound x s) → dstBound d s →
    Operands operands s vs s1 → (nthVal vs 0).mark = false → StillAsks i s s1

/-- A tile's chunk passes the checks of R254, but for a discarded tile, and no engine command names the tile (R178). -/
def TileChunk (s : State) (tile : Fin 16) (k : Word) : Prop :=
  k.toNat < 32 ∧ tile.val < s.cur.tiles ∧ s.cur.lampCfg[tile] = none ∧ s.cur.tileWaits tile.val = false

end Sys2Proof.Claims

/-- R219, R221 to R223: the joins and contributions, releasing or not, check their cell and send one join of the low bits of
the value, or of the contribution, with its mark. R116, R221, R222, R288: a posted join is numbered and outstanding for its
context. Joins under pages of good and of bad physical addresses (R94) do not merge. One with the release mark is sent toward
its home at once; another goes into the combining buffer of its core: it merges with the first join of its cell that it may
merge with, stands behind the others where there is none, and where the buffer of 64 is full the oldest leaves for it. That a
core holds what it may hold, and which one leaves, is the model's choice (notes/assumptions/38.md). None of them touches
memory. -/
def Obligations.FieldJoinsCompleteAndStayOutstanding : Prop :=
  ((∀ p ∈ joins, ∀ (a v : Scalar) (s s1 s2 s3 t : State) (vs : List Val) (l : Leaf),
    issues (p.1 a v) s = true → srcBound a s → srcBound v s → Operands [a, v] s vs s1 → (nthVal vs 0).mark = false →
    Admitted .write (nthVal vs 0).bits s1 l s2 → 2 ≤ l.ty → l.ty ≤ 9 → (l.ty = 9 → p.2.1 ≠ 16) →
    (nthVal vs 0).bits.toNat % (p.2.1 / 8) = 0 → Released p.2.2 s2 s3 →
    Gives (joinCell l (nthVal vs 0).bits.toNat p.2.1 ((nthVal vs 1).bits.toNat % 2 ^ p.2.1 : Nat) (nthVal vs 1).mark p.2.2)
      s3 () t → Completes (p.1 a v) s t) ∧
  (∀ p ∈ xjoins, ∀ (a v : Scalar) (s s1 s2 s3 t : State) (vs : List Val) (l : Leaf) (x : Int),
    issues (p.1 a v) s = true → srcBound a s → srcBound v s → Operands [a, v] s vs s1 → (nthVal vs 0).mark = false →
    Admitted .write (nthVal vs 0).bits s1 l s2 → l.ty = 10 → (nthVal vs 0).bits.toNat % 16 = 0 →
    contribution p.2.1 (nthVal vs 1).bits l.arg.toInt = some x → Released p.2.2 s2 s3 →
    Gives (joinCell l (nthVal vs 0).bits.toNat 128 x (nthVal vs 1).mark p.2.2) s3 () t → Completes (p.1 a v) s t)) ∧
  (∀ (l : Leaf) (va w : Nat) (x : Int) (mark rel : Bool) (s : State),
    ∃ t : State, Gives (joinCell l va w x mark rel) s () t ∧
      t.cur = { s.cur with nextOut := s.cur.nextOut + 1, outs := t.cur.outs } ∧
      (∃ o ∈ t.cur.outs, o.n = s.cur.nextOut ∧ o.line = l.key va / 128 ∧ o.store = false) ∧
      (rel = true → ∃ (o : Out) (m : Msg), t.cur.outs = s.cur.outs ++ [o] ∧ o.n = s.cur.nextOut ∧ o.line = l.key va / 128 ∧
        o.store = false ∧ o.held = false ∧ t.msgs = s.msgs ++ [m] ∧ m.src = .core s.cur.core ∧ m.loc = .source ∧
        m.dst = homeNode (l.key va) ∧ m.body = .join (joinOf l va w x mark true s) ∧ t.cores = s.cores) ∧
      (let hold := (s.core s.cur.core).hold
       let j := joinOf l va w x mark false s
       rel = false →
         (∀ pre y rest, hold = pre ++ y :: rest → (∀ z ∈ pre, ¬ Joinable z j l.badPage) → Joinable y j l.badPage →
           (∃ o, t.cur.outs = s.cur.outs ++ [o] ∧ o.held = true) ∧ t.msgs = s.msgs ∧
           ∃ y', (t.core s.cur.core).hold = pre ++ y' :: rest ∧ MergedJoin y.req j y'.req ∧ y'.dst = y.dst ∧
             y'.bad = y.bad) ∧
         ((∀ z ∈ hold, ¬ Joinable z j l.badPage) → hold.length < 64 →
           (∃ o, t.cur.outs = s.cur.outs ++ [o] ∧ o.held = true) ∧ t.msgs = s.msgs ∧
           ∃ h, (t.core s.cur.core).hold = hold ++ [h] ∧ h.req = j ∧ h.dst = homeNode (l.key va) ∧ h.bad = l.badPage) ∧
         (∀ y rest, hold = y :: rest → (∀ z ∈ hold, ¬ Joinable z j l.badPage) → 64 ≤ hold.length →
           (∃ m ∈ t.msgs, m.src = .core s.cur.core ∧ m.loc = .source ∧ m.dst = y.dst ∧ m.body = .join y.req) ∧
           ∃ h, (t.core s.cur.core).hold = rest.filter (fun z => !(z == y)) ++ [h] ∧ h.req = j ∧
             h.dst = homeNode (l.key va) ∧ h.bad = l.badPage)) ∧
      t.mem = s.mem ∧ t.md = s.md ∧ t.scratch = s.scratch ∧ t.acc = s.acc)

/-- R224 to R228: a wait whose test has passed writes 0, the index or the first doubleword, acquires and completes; one whose
test is on its way keeps its core, and parks once its home holds the watch. PROBE writes its code and sets ND; LDX writes the
bytes of the line it has obtained. That a marked trigger, and a marked list entry of AWAIT.ANY, marks what the wait writes is
the model's reading (notes/assumptions/33.md), and the kind number of the log entry of a PROBE its choice
(notes/assumptions/9.md). -/
def Obligations.FieldWaitsAndReadsComplete : Prop :=
  (∀ d a t, Resolves (.await d a t) [a, t] d (fun _ _ => 0) (fun vs => (nthVal vs 1).mark)) ∧
  (∀ d a, Resolves (.awaitFilled d a) [a] d (fun _ first => first) (fun _ => false)) ∧
  (∀ d a t, WaitsForReply (.await d a t) [a, t] d) ∧ (∀ d a, WaitsForReply (.awaitFilled d a) [a] d) ∧
  (∀ (d a g : Scalar) (s s1 : State) (vs : List Val), issues (.awaitAny d a g) s = true → srcBound a s → srcBound g s →
    dstBound d s → Operands [a, g] s vs s1 → (nthVal vs 0).mark = false → (nthVal vs 1).mark = false →
    StillAsks (.awaitAny d a g) s s1) ∧
  (∀ (d a g : Scalar) (s s1 t : State) (vs : List Val) (r : Reply) (k : Nat) (first : Word),
    issues (.awaitAny d a g) s = true → srcBound a s → srcBound g s → dstBound d s → Operands [a, g] s vs s1 →
    (nthVal vs 0).mark = false → (nthVal vs 1).mark = false → s1.cur.reply = some r → r.r = .passed k first →
    Gives (writeScalar d { bits := BitVec.ofNat 64 k, mark := (vs.drop 2).any Val.mark }) s1 () t →
    Completes (.awaitAny d a g) s (afterAcquire t)) ∧
  (∀ (d a g : Scalar) (s s1 s2 t : State) (vs : List Val) (r : Reply) (x : Word),
    issues (.probe d a g) s = true → s.cur.strict = false → srcBound a s → srcBound g s → dstBound d s →
    Operands [a, g] s vs s1 → (nthVal vs 0).mark = false → s1.cur.reply = some r →
    ((r.r = .notPassed ∧ x = 0) ∨ (∃ k f, r.r = .passed k f ∧ x = 1) ∨ (r.r = .poison ∧ x = 2) ∨
      (r.r = .unreachable ∧ x = 3)) →
    Gives (writeScalar d { bits := x, mark := (nthVal vs 1).mark }) s1 () s2 → Gives (do logOutcome 0 [x]; markNd) s2 () t →
    Completes (.probe d a g) s t) ∧
  (∀ p ∈ ([(.ldxW, 4), (.ldxD, 8)] : List ((Scalar → Scalar → Instr) × Nat)),
    ∀ (d a : Scalar) (s s1 s2 s3 s4 t : State) (vs : List Val) (l : Leaf) (x : LineSnap),
    issues (p.1 d a) s = true → srcBound a s → dstBound d s → Operands [a] s vs s1 → (nthVal vs 0).mark = false →
    Admitted .read (nthVal vs 0).bits s1 l s2 → 1 ≤ l.ty → l.ty ≤ 10 → (nthVal vs 0).bits.toNat % p.2 = 0 →
    Gives (obtain true [(l, (nthVal vs 0).bits.toNat)]) s2 true s3 → Gives (obtained l (nthVal vs 0).bits.toNat) s3 x s4 →
    Gives (writeScalar d
        { bits := BitVec.ofNat 64 (x.data.toNat / 2 ^ (8 * ((nthVal vs 0).bits.toNat % 128)) % 2 ^ (8 * p.2))
          mark := decide (x.marks.toNat / 2 ^ ((nthVal vs 0).bits.toNat % 128) % 2 ^ p.2 ≠ 0) }) s4 () t →
    Completes (p.1 d a) s t)

namespace Sys2Proof.Claims

/-- The two instructions over a range, with the granule of their operands (R229, R230). -/
def rangeInstrs : List ((Scalar → Scalar → Instr) × Nat) := [(.freeze, 128), (.fallow, 4096)]

end Sys2Proof.Claims

/-- R74, R229, R230, R77: a FREEZE whose freezes have gone out completes when every home has confirmed; a FALLOW completes
once its invalidation is done, and then every line of its pages is back at its reset metadata. R340, R341: both first send the
held joins of their core to the lines of the range, and send no freeze while one of the core's joins or fills to those lines is
on its way: that the core's and not only the context's own are waited for is the model's reading (notes/assumptions/38.md). -/
def Obligations.FreezesAndFallowsComplete : Prop :=
  (∀ (a n : Scalar) (s s1 t : State) (vs : List Val), issues (.freeze a n) s = true → srcBound a s → srcBound n s →
    Operands [a, n] s vs s1 → (nthVal vs 0).mark = false → (nthVal vs 1).mark = false → s1.cur.phase = 2 →
    Acknowledged false s1 t → t.cur.posted = [] → Completes (.freeze a n) s t) ∧
  (∀ (a n : Scalar) (s s1 : State) (vs : List Val), issues (.fallow a n) s = true → srcBound a s → srcBound n s →
    Operands [a, n] s vs s1 → (nthVal vs 0).mark = false → (nthVal vs 1).mark = false → s1.cur.phase = 3 →
    (∀ v ∈ s1.invals, v.by_ ≠ some s1.cur.key) →
    Completes (.fallow a n) s (s1.resetLines s1.cur.asid (nthVal vs 0).bits.toNat (nthVal vs 1).bits.toNat)) ∧
  (∀ p ∈ rangeInstrs, ∀ (a n : Scalar) (s s1 s2 s3 : State) (vs : List Val) (pages : List (Nat × Leaf)),
    issues (p.1 a n) s = true → srcBound a s → srcBound n s → Operands [a, n] s vs s1 → (nthVal vs 0).mark = false →
    (nthVal vs 1).mark = false → s1.cur.phase = 0 → Gives (rangeOperands p.2 (nthVal vs 0).bits (nthVal vs 1).bits) s1 () s1 →
    Gives (rangePages (onlyTypes fieldType) (nthVal vs 0).bits.toNat (nthVal vs 1).bits.toNat) s1 pages s2 →
    (∀ x ∈ pages, x.2.remote = false) → Acknowledged false s2 s3 → s3.cur.posted = [] →
    (let inRange := rangeHas pages (nthVal vs 0).bits.toNat (nthVal vs 1).bits.toNat
     let ahead := s3.outsOf s3.cur.core (fun o => !o.store && inRange o.line)
     (∃ w ∈ ahead, s3.acked w = false) →
     ∃ t : State, Ends (p.1 a n) s (.park (.acks .ahead)) t ∧ t.cur.phase = 1 ∧ (∀ w ∈ ahead, w ∈ t.cur.ahead) ∧
       (∀ h ∈ (t.core s3.cur.core).hold, inRange (h.req.cell / 128) = false) ∧ t.mem = s3.mem ∧ t.md = s3.md)) ∧
  (∀ p ∈ rangeInstrs, ∀ (a n : Scalar) (s s1 : State) (vs : List Val), issues (p.1 a n) s = true → srcBound a s →
    srcBound n s → Operands [a, n] s vs s1 → (nthVal vs 0).mark = false → (nthVal vs 1).mark = false → s1.cur.phase = 1 →
    (∃ w ∈ s1.cur.ahead, s1.acked w = false) → Ends (p.1 a n) s (.park (.acks .ahead)) s1)

/-- R214 to R217: loads and stores through every window. A load takes the bytes of the place its address leads to, a store
puts the low bytes of its data there, and LDC takes the doubleword of a frozen line, which comes from its home or from a replica
on its way there. -/
def Obligations.ScalarMemoryAccessesComplete : Prop :=
  (∀ p ∈ loads, ∀ (d b : Scalar) (size : Fin 4) (off : BitVec 11) (s s1 s2 s3 s4 t : State) (vs : List Val) (pl : Place)
      (x m : Nat), issues (p.1 d b size off) s = true → srcBound b s → dstBound d s → Operands [b] s vs s1 →
    (nthVal vs 0).mark = false →
    (let ea := effective (nthVal vs 0).bits off size
     ea.toNat % 2 ^ size.val = 0 → Gives (access .read (2 ^ size.val) ea.toNat) s1 pl s2 →
     Gives (placeWaits .read pl (2 ^ size.val)) s2 false s3 →
     Gives (readPlace pl (2 ^ size.val) ea.toNat) s3 (some (x, m)) s4 →
     Gives (writeScalar d { bits := p.2 (8 * 2 ^ size.val) x, mark := decide (m ≠ 0) }) s4 () t →
     Completes (p.1 d b size off) s t)) ∧
  (∀ (v b : Scalar) (size : Fin 4) (off : BitVec 11) (s s1 s2 s3 s4 t : State) (x : Word) (pl : Place) (y : Val),
    issues (.st v b size off) s = true → srcBound b s → srcBound v s → Gives (readClean b) s x s1 →
    (let ea := effective x off size
     ea.toNat % 2 ^ size.val = 0 → Gives (access .write (2 ^ size.val) ea.toNat) s1 pl s2 →
     Gives (placeWaits .write pl (2 ^ size.val)) s2 false s3 →
     (∀ l, pl = .page l → l.ty = 11 → ∀ o ∈ s3.cur.outs, o.store = false) →
     Gives (checkChip pl (2 ^ size.val) ea.toNat) s3 () s3 → Gives (readScalar v) s3 y s4 →
     Gives (writePlace pl (2 ^ size.val) ea.toNat (y.bits.toNat % 2 ^ (8 * 2 ^ size.val))
       (if y.mark then 2 ^ 2 ^ size.val - 1 else 0)) s4 () t →
     Completes (.st v b size off) s t)) ∧
  (∀ (d : Scalar) (imm : BitVec 19) (s s1 s2 t : State) (l : Leaf) (x : LineSnap), issues (.ldc d imm) s = true →
    dstBound d s → (let e : Word := s.cur.regs.pc.setWidth 64 + 2 * imm.signExtend 64
     e.toNat % 8 = 0 → windowOf e.toNat = .global → Gives (translate .read e.toNat) s l s1 → l.ty = 1 →
     Gives (readFrozen s1.cur.core s1.cur.asid l e.toNat) s1 (.ok x) s2 → mdPoison x.md = false → mdState x.md = 2 →
     Gives (writeScalar d { bits := BitVec.ofNat 64 (x.bytes (e.toNat % 128) 8) }) s2 () t →
     Completes (.ldc d imm) s t)) ∧
  FrozenLinesAreRead

/-- R247 to R250, R253, R254: the vector loads and stores and the tile accesses complete with the words of their active
lanes, once their addresses pass the checks and no engine command bars them. R178: an access to a tile that an incomplete
engine command names waits, and has no effect until then. -/
def Obligations.VectorMemoryAccessesComplete : Prop :=
  (∀ p ∈ ([(.vld, true, 512), (.vldb, false, 4)] : List ((VSpec → Scalar → Scalar → Instr) × Bool × Nat)),
    ∀ (d : VSpec) (b o : Scalar) (s s1 s2 s3 s4 t : State) (vs : List Val) (ps : List Piece) (ws : List (Nat × Nat × Nat)),
    issues (p.1 d b o) s = true → srcBound b s → srcBound o s → vdstBound d s → Operands [b, o] s vs s1 →
    (nthVal vs 0).mark = false → (nthVal vs 1).mark = false →
    (let va := ((nthVal vs 0).bits + (nthVal vs 1).bits).toNat
     Gives (vecPieces .read p.2.1 p.2.2 va) s1 ps s2 → Gives (piecesWait .read ps) s2 false s3 →
     Gives (readLanes ps (if p.2.1 then (laneList (lanesAt s2)).map (fun l => (l, va + 4 * l))
       else (List.range 128).map (fun l => (l, va)))) s3 (some ws) s4 →
     Gives (writeVec d (vecOfWords ws)) s4 () t → Completes (p.1 d b o) s t)) ∧
  (∀ (d : VSpec) (b st : Scalar) (s s1 s2 s3 s4 t : State) (vs : List Val) (ps : List Piece)
      (ws : List (Nat × Nat × Nat)), issues (.vlds d b st) s = true → srcBound b s → srcBound st s → vdstBound d s →
    Operands [b, st] s vs s1 → (nthVal vs 0).mark = false → (nthVal vs 1).mark = false →
    (let lanes := (laneList (lanesAt s1)).map (fun l =>
       (l, ((nthVal vs 0).bits + BitVec.ofNat 64 l * (nthVal vs 1).bits).toNat))
     Gives (lanePieces .read lanes) s1 ps s2 → Gives (piecesWait .read ps) s2 false s3 →
     Gives (readLanes ps lanes) s3 (some ws) s4 → Gives (writeVec d (vecOfWords ws)) s4 () t →
     Completes (.vlds d b st) s t)) ∧
  (∀ (d : VSpec) (b : Scalar) (ix : VSpec) (s s1 s2 s3 s4 s5 t : State) (vs : List Val) (i : Vec) (ps : List Piece)
      (ws : List (Nat × Nat × Nat)), issues (.vgather d b ix) s = true → srcBound b s → vsrcBound ix s → vdstBound d s →
    Operands [b] s vs s1 → Gives (readVecOnce ix) s1 i s2 → (nthVal vs 0).mark = false → i.mark &&& lanesAt s2 = 0 →
    (let lanes := (laneList (lanesAt s2)).map (fun l => (l, ((nthVal vs 0).bits + (lane i.bits l).setWidth 64).toNat))
     Gives (lanePieces .read lanes) s2 ps s3 → Gives (piecesWait .read ps) s3 false s4 →
     Gives (readLanes ps lanes) s4 (some ws) s5 → Gives (writeVec d (vecOfWords ws)) s5 () t →
     Completes (.vgather d b ix) s t)) ∧
  (∀ (x : VSpec) (b o : Scalar) (s s1 s2 s3 s4 s5 t : State) (u v : Val) (ps : List Piece) (w : Vec),
    issues (.vst x b o) s = true → srcBound b s → srcBound o s → vsrcBound x s → Gives (readScalar b) s u s1 →
    Gives (readScalar o) s1 v s2 → u.mark = false → v.mark = false →
    Gives (vecPieces .write true 512 (u.bits + v.bits).toNat) s2 ps s3 → Gives (piecesWait .write ps) s3 false s4 →
    Gives (ps.forM (fun p => checkChip p.place p.n p.va)) s4 () s4 → Gives (readVec x) s4 w s5 →
    Gives (writeLanes ps ((laneList (lanesAt s3)).map (fun l => (l, (u.bits + v.bits).toNat + 4 * l))) w) s5 () t →
    Completes (.vst x b o) s t) ∧
  (∀ (x : VSpec) (b st : Scalar) (s s1 s2 s3 s4 s5 t : State) (u v : Word) (ps : List Piece) (w : Vec),
    issues (.vsts x b st) s = true → srcBound b s → srcBound st s → vsrcBound x s → Gives (readClean b) s u s1 →
    Gives (readClean st) s1 v s2 →
    (let lanes := (laneList (lanesAt s2)).map (fun l => (l, (u + BitVec.ofNat 64 l * v).toNat))
     Gives (lanePieces .write lanes) s2 ps s3 → Gives (piecesWait .write ps) s3 false s4 →
     Gives (ps.forM (fun p => checkChip p.place p.n p.va)) s4 () s4 → Gives (readVec x) s4 w s5 →
     Gives (writeLanes ps lanes w) s5 () t → Completes (.vsts x b st) s t)) ∧
  (∀ (x : VSpec) (b : Scalar) (ix : VSpec) (s s1 s2 s3 s4 s5 t : State) (u : Word) (i : Vec) (ps : List Piece) (w : Vec),
    issues (.vscatter x b ix) s = true → srcBound b s → vsrcBound ix s → vsrcBound x s → Gives (readClean b) s u s1 →
    Gives (readVec ix) s1 i s2 → i.mark &&& lanesAt s2 = 0 →
    (let lanes := (laneList (lanesAt s2)).map (fun l => (l, (u + (lane i.bits l).setWidth 64).toNat))
     Gives (lanePieces .write lanes) s2 ps s3 → Gives (piecesWait .write ps) s3 false s4 →
     Gives (ps.forM (fun p => checkChip p.place p.n p.va)) s4 () s4 → Gives (readVec x) s4 w s5 →
     Gives (writeLanes ps lanes w) s5 () t → Completes (.vscatter x b ix) s t)) ∧
  (∀ (d : VSpec) (tile : Fin 16) (k : Scalar) (s s1 t : State) (x : Word), issues (.vlda d tile k) s = true →
    srcBound k s → vdstBound d s → Gives (readClean k) s x s1 → TileChunk s1 tile x →
    s1.cur.discTiles.getLsbD tile.val = false →
    Gives (writeVec d (s1.chunk s1.cur tile.val x.toNat)) s1 () t → Completes (.vlda d tile k) s t) ∧
  (∀ (v : VSpec) (tile : Fin 16) (k : Scalar) (s s1 s2 t : State) (x : Word) (w : Vec), issues (.vsta v tile k) s = true →
    srcBound k s → vsrcBound v s → Gives (readClean k) s x s1 → TileChunk s1 tile x → Gives (readVec v) s1 w s2 →
    Gives (writeChunk tile.val x.toNat (lanesAt s2) w) s2 () t → Completes (.vsta v tile k) s t) ∧
  (∀ (v : VSpec) (tile : Fin 16) (k : Scalar) (s s1 s2 : State) (x : Word) (w : Vec), issues (.vadda v tile k) s = true →
    srcBound k s → vsrcBound v s → Gives (readClean k) s x s1 → TileChunk s1 tile x →
    s1.cur.discTiles.getLsbD tile.val = false → Gives (readVec v) s1 w s2 →
    ∃ r flags,
      Elements 32 s2 r (fun l => fp32.add (s2.cur.rounding l)
        (fp32.decode (elemOf (s2.chunk s2.cur tile.val x.toNat).bits 32 l)) (fp32.decode (elemOf w.bits 32 l))) ∧
      FlagsOf 32 s2 flags (fun l => fp32.add (s2.cur.rounding l)
        (fp32.decode (elemOf (s2.chunk s2.cur tile.val x.toNat).bits 32 l)) (fp32.decode (elemOf w.bits 32 l))) ∧
      ∀ t, Gives (do
          writeChunk tile.val x.toNat (lanesAt s2)
            { bits := r, mark := (s2.chunk s2.cur tile.val x.toNat).mark ||| w.mark }
          raiseFlagsN flags) s2 () t → Completes (.vadda v tile k) s t) ∧
  (∀ (d v : VSpec) (tile : Fin 16) (k : Scalar), ∀ i ∈ ([.vlda d tile k, .vsta v tile k, .vadda v tile k] : List Instr),
    ∀ (s s1 : State) (x : Word), issues i s = true → srcBound k s → vdstBound d s → vsrcBound v s →
    Gives (readClean k) s x s1 → x.toNat < 32 → tile.val < s1.cur.tiles → s1.cur.lampCfg[tile] = none →
    s1.cur.discTiles.getLsbD tile.val = false → s1.cur.tileWaits tile.val = true →
    exec i s = .next { s with stalled := true })

/-- R231, R251, R252: VJOIN and VXJOIN check every active lane in increasing order, take their values, and send one join per
active lane. -/
def Obligations.VectorJoinsComplete : Prop :=
  (∀ (x : VSpec) (b : Scalar) (ix : VSpec) (s s1 s2 s3 s4 t : State) (u : Word) (i v : Vec) (ls : List Leaf),
    issues (.vjoin x b ix) s = true → srcBound b s → vsrcBound ix s → vsrcBound x s → Gives (readClean b) s u s1 →
    Gives (readVec ix) s1 i s2 → i.mark &&& lanesAt s2 = 0 →
    (let at_ (l : Nat) : Nat := (u + (lane i.bits l).setWidth 64).toNat
     Gives ((laneList (lanesAt s2)).mapM (fun l => fieldAccess .write (fun _ => none) (BitVec.ofNat 64 (at_ l)))) s2 ls s3 →
     (∀ l ∈ ls, 2 ≤ l.ty ∧ l.ty ≤ 9) → (∀ l ∈ laneList (lanesAt s2), at_ l % 4 = 0) → Gives (readVec x) s3 v s4 →
     Gives (((laneList (lanesAt s2)).zip ls).forM (fun p =>
       joinCell p.2 (at_ p.1) 32 ((lane v.bits p.1).toNat : Nat) (v.mark.getLsbD p.1) false)) s4 () t →
     Completes (.vjoin x b ix) s t)) ∧
  (∀ (x : VSpec) (b : Scalar) (ix : VSpec) (s s1 s2 s3 s4 t : State) (u : Word) (i v : Vec) (ls : List Leaf)
      (ys : List Int),
    issues (.vxjoin x b ix) s = true → srcBound b s → vsrcBound ix s → vsrcBound x s → Gives (readClean b) s u s1 →
    Gives (readVec ix) s1 i s2 → i.mark &&& lanesAt s2 = 0 →
    (let at_ (l : Nat) : Nat := (u + (lane i.bits l).setWidth 64).toNat
     Gives ((laneList (lanesAt s2)).mapM (fun l => fieldAccess .write (fun _ => none) (BitVec.ofNat 64 (at_ l)))) s2 ls s3 →
     (∀ l ∈ ls, l.ty = 10) → (∀ l ∈ laneList (lanesAt s2), at_ l % 16 = 0) → Gives (readVec x) s3 v s4 →
     ((laneList (lanesAt s2)).zip ls).map (fun p => contribution true ((lane v.bits p.1).setWidth 64) p.2.arg.toInt) =
       ys.map some →
     Gives ((((laneList (lanesAt s2)).zip ls).zip ys).forM (fun p =>
       joinCell p.1.2 (at_ p.1.1) 128 p.2 (v.mark.getLsbD p.1.1) false)) s4 () t →
     Completes (.vxjoin x b ix) s t))
namespace Sys2Proof.Claims

/-- The record of a TASK instruction is at hand and every earlier join, fill and store is acknowledged (R280, R281); `k`
operands stand before it, and `addr` is its address. -/
def RecordAtHand (k : Nat) (addr : Val) (high : Bool) (s : State) (r : TaskRec) (t : State) : Prop :=
  addr.mark = false ∧ ∃ m, Gives (takeRecord k addr.bits high) s (some r) m ∧ Acknowledged true m t

/-- A send may name the core (R284). -/
def Sendable (core : Val) : Prop := core.mark = false ∧ core.bits.toNat < 768

/-- The two sends that wait for room, with their class. -/
def sends : List ((Scalar → Scalar → Instr) × Bool) := [(.send, false), (.sendHi, true)]

/-- The two that do not, with the kind of their log entry (R377). -/
def trySends : List ((Scalar → Scalar → Scalar → Instr) × Nat × Bool) := [(.sendNb, 6, false), (.sendHiNb, 7, true)]

/-- The queue of the context's launch, and the first entry of its log with the context's key and instruction count (R377,
notes/assumptions/9.md). -/
def LogHas (s : State) (q : Fin 64) (ws : List Word) : Prop :=
  s.queueOf s.cur = some q ∧ ∃ i, i < s.queues[q].rlogsize.toNat ∧ ws = s.logWords s.queues[q].rlog.toNat i ∧
    ws.take 2 = [s.cur.taskKey, s.cur.regs.icount] ∧
    ∀ j, j < i → (s.logWords s.queues[q].rlog.toNat j).take 2 ≠ [s.cur.taskKey, s.cur.regs.icount]

/-- A twin may run: it is issued, MODE.STRICT is 0, and its port is bound with the end and the width it wants. -/
def TwinOn (i : Instr) (s : State) (p : Fin 8) (e : PortEnd) (ch : Channel) : Prop :=
  issues i s = true ∧ s.cur.strict = false ∧ boundAt s p e ch

end Sys2Proof.Claims

/-- R281 to R283: SPAWN pushes the record on its core's deque, with word 2 replaced when a second operand other than 0
is named; SPAWNW sends the test of its cell, with the record, to the cell's home. R284, R285: a send puts the record
into the inbox of the core that takes it, and parks while that has no room; the forms that do not wait write 0 when it
was put there and 1 when not, or when no core takes records in its place (R376), and set ND; in replay mode (R377) they write
what the log has, and wait for room where it says 0. That a record stands in the inbox in the send's own step is the model's
choice (notes/assumptions/36.md), and so are the kinds 6 and 7 of the log entries and how an entry is found
(notes/assumptions/9.md). -/
def Obligations.SpawnsAndSendsComplete : Prop :=
  ((∀ (rec arg : Scalar) (s s1 s2 : State) (vs : List Val) (r : TaskRec), issues (.spawn rec arg) s = true → srcBound rec s →
    srcBound arg s → Operands [rec, arg] s vs s1 → RecordAtHand 2 (nthVal vs 0) false s1 r s2 →
    Completes (.spawn rec arg) s
      (s2.pushDeque s2.cur.core (if arg = .g 0 then r else
        { r.setWord 2 (nthVal vs 1).bits with argMark := (nthVal vs 1).mark }))) ∧
  (∀ (rec cell trig : Scalar) (s s1 s2 s3 s4 s5 t : State) (vs : List Val) (r : TaskRec) (l : Leaf),
    issues (.spawnw rec cell trig) s = true → srcBound rec s → srcBound cell s → srcBound trig s →
    Operands [rec, cell, trig] s vs s1 → (nthVal vs 0).mark = false →
    Gives (takeRecord 3 (nthVal vs 0).bits false) s1 (some r) s2 → (nthVal vs 1).mark = false →
    (let ea := (nthVal vs 1).bits
     Admitted .read ea s2 l s3 → 1 ≤ l.ty → l.ty ≤ 10 → (l.ty = 1 → ea.toNat % 8 = 0) → Acknowledged true s3 s4 →
     Gives (clearAhead (l.key ea.toNat)) s4 true s5 →
     Gives (sendHome l ea.toNat (.test (l.key ea.toNat) l.ty l.arg (.await (nthVal vs 2).bits)
       (.watch s5.cur.key s5.cur.core r s5.cur.regs.pc))) s5 () t →
     Completes (.spawnw rec cell trig) s t))) ∧
  ((∀ p ∈ sends, ∀ (core rec : Scalar) (s s1 s2 : State) (vs : List Val) (r : TaskRec),
    issues (p.1 core rec) s = true → srcBound core s → srcBound rec s → Operands [core, rec] s vs s1 →
    Sendable (nthVal vs 0) → RecordAtHand 2 (nthVal vs 1) p.2 s1 r s2 →
    (let n := (nthVal vs 0).bits.toNat
     (∀ d, s2.redirect n (dieOf s2.cur.core) = some d → s2.inboxRoom d p.2 = true →
       Completes (p.1 core rec) s (s2.putInbox d p.2 r)) ∧
     ((∀ d, s2.redirect n (dieOf s2.cur.core) = some d → s2.inboxRoom d p.2 = false) →
       Ends (p.1 core rec) s (.park (.inbox n p.2)) s2))) ∧
  (∀ p ∈ trySends, ∀ (x core rec : Scalar) (s s1 s2 : State) (vs : List Val) (r : TaskRec) (d : Nat),
    issues (p.1 x core rec) s = true → s.cur.strict = false → srcBound core s → srcBound rec s → dstBound x s →
    Operands [core, rec] s vs s1 → Sendable (nthVal vs 0) → RecordAtHand 2 (nthVal vs 1) p.2.2 s1 r s2 →
    s2.cur.replaying = false → s2.redirect (nthVal vs 0).bits.toNat (dieOf s2.cur.core) = some d →
    (∀ t, s2.inboxRoom d p.2.2 = true →
      Gives (do writeScalar x { bits := 0 }; logOutcome p.2.1 [0]; markNd) (s2.putInbox d p.2.2 r) () t →
      Completes (p.1 x core rec) s t) ∧
    (∀ t, s2.inboxRoom d p.2.2 = false → Gives (do writeScalar x { bits := 1 }; logOutcome p.2.1 [1]; markNd) s2 () t →
      Completes (p.1 x core rec) s t)) ∧
  (∀ p ∈ trySends, ∀ (x core rec : Scalar) (s s1 s2 t : State) (vs : List Val) (r : TaskRec),
    issues (p.1 x core rec) s = true → s.cur.strict = false → srcBound core s → srcBound rec s → dstBound x s →
    Operands [core, rec] s vs s1 → Sendable (nthVal vs 0) → RecordAtHand 2 (nthVal vs 1) p.2.2 s1 r s2 →
    s2.cur.replaying = false → s2.redirect (nthVal vs 0).bits.toNat (dieOf s2.cur.core) = none →
    Gives (do writeScalar x { bits := 1 }; logOutcome p.2.1 [1]; markNd) s2 () t → Completes (p.1 x core rec) s t) ∧
  (∀ p ∈ trySends, ∀ (x core rec : Scalar) (s s1 s2 : State) (vs : List Val) (r : TaskRec) (q : Fin 64) (ws : List Word),
    issues (p.1 x core rec) s = true → s.cur.strict = false → srcBound core s → srcBound rec s → dstBound x s →
    Operands [core, rec] s vs s1 → Sendable (nthVal vs 0) → RecordAtHand 2 (nthVal vs 1) p.2.2 s1 r s2 →
    s2.cur.replaying = true → LogHas s2 q ws →
    (let out := (s2.logOutcomeOf ws).headD 0
     let n := (nthVal vs 0).bits.toNat
     (ws[2]? ≠ some (BitVec.ofNat 64 p.2.1) → Faults (p.1 x core rec) s { code := .nondeterminism }) ∧
     (ws[2]? = some (BitVec.ofNat 64 p.2.1) →
       (∀ t, out ≠ 0 → Gives (do writeScalar x { bits := 1 }; logOutcome p.2.1 [1]; markNd) s2 () t →
         Completes (p.1 x core rec) s t) ∧
       (∀ d t, out = 0 → s2.redirect n (dieOf s2.cur.core) = some d → s2.inboxRoom d p.2.2 = true →
         Gives (do writeScalar x { bits := 0 }; logOutcome p.2.1 [0]; markNd) (s2.putInbox d p.2.2 r) () t →
         Completes (p.1 x core rec) s t) ∧
       (out = 0 → (∀ d, s2.redirect n (dieOf s2.cur.core) = some d → s2.inboxRoom d p.2.2 = false) →
         Ends (p.1 x core rec) s .stall s2)))) ∧
  (∀ (c bd : Nat) (s : State), c < 768 → (s.core c).out = false → (s.core c).drained = false → s.coreLost c = false →
    s.apart bd (dieOf c) = false → s.redirect c bd = some c) ∧
  (∀ (c : Nat) (high : Bool) (r : TaskRec) (s : State), let t := s.putInbox c high r
    (t.core c).inbox = (s.core c).inbox ++ (if high then [] else [r]) ∧
    (t.core c).high = (s.core c).high ++ (if high then [r] else []) ∧ (∀ k, k ≠ c → t.core k = s.core k) ∧
    t.cur = s.cur ∧ t.mem = s.mem))

/-- R286: the receiving twins take the oldest item when one is seen, and write 1, else 0 and zero for a queue's data; the
sending twins put their value when a slot is seen; CCOUNT writes what its end sees. All set ND. How many
items and slots a twin has seen is the model's choice (notes/assumptions/3.md), and so are the kinds 1 to 5 of their log entries
(notes/assumptions/9.md). -/
def Obligations.ChannelTwinsTakeOrAnswer : Prop :=
  (∀ (st data : Scalar) (p : Fin 8) (s s1 s2 t : State) (e : PortEnd) (ch : Channel) (n : Nat) (x : Vec),
    TwinOn (.ctryrecv st (.c p) data) s p e ch → e.sending = false → ch.wide = false → dstBound data s → dstBound st s →
    s.cur.replaying = false → Gives (itemsSeen ch) s n s1 →
    ((0 < n → Gives (takeItem p) s1 x s2 →
        Gives (do writeScalar data x.toVal; endTwin 1 st 1 [x.toVal.bits]) s2 .done t →
        Completes (.ctryrecv st (.c p) data) s t) ∧
     (n = 0 → Gives (do
          match data with
          | .q _ => writeScalar data { bits := 0 }
          | _ => pure ()
          endTwin 1 st 0 [0]) s1 .done t → Completes (.ctryrecv st (.c p) data) s t))) ∧
  (∀ (st : Scalar) (data : VSpec) (p : Fin 8) (s s1 s2 t : State) (e : PortEnd) (ch : Channel) (n : Nat) (x : Vec),
    TwinOn (.ctryrecvV st (.c p) data) s p e ch → e.sending = false → ch.wide = true → vdstBound data s → dstBound st s →
    s.cur.replaying = false → Gives (itemsSeen ch) s n s1 →
    ((0 < n → Gives (takeItem p) s1 x s2 → Gives (do writeVec data x; endTwin 3 st 1 x.wordList) s2 .done t →
        Completes (.ctryrecvV st (.c p) data) s t) ∧
     (n = 0 → Gives (do
          match data with
          | .y _ => writeVec data { bits := 0 }
          | _ => pure ()
          endTwin 3 st 0 []) s1 .done t → Completes (.ctryrecvV st (.c p) data) s t))) ∧
  (∀ (st val : Scalar) (p : Fin 8) (s s1 s2 s3 t : State) (e : PortEnd) (ch : Channel) (n : Nat) (v : Val),
    TwinOn (.ctrysend st (.c p) val) s p e ch → e.sending = true → ch.wide = false → dstBound st s →
    Gives (readScalar val) s v s1 → s1.cur.replaying = false → Gives (slotsSeen ch) s1 n s2 →
    ((0 < n → Gives (putItem p v.toItem) s2 () s3 → Gives (endTwin 2 st 1 []) s3 .done t →
        Completes (.ctrysend st (.c p) val) s t) ∧
     (n = 0 → Gives (endTwin 2 st 0 []) s2 .done t → Completes (.ctrysend st (.c p) val) s t))) ∧
  (∀ (st : Scalar) (val : VSpec) (p : Fin 8) (s s1 s2 s3 t : State) (e : PortEnd) (ch : Channel) (n : Nat) (v : Vec),
    TwinOn (.ctrysendV st (.c p) val) s p e ch → e.sending = true → ch.wide = true → vsrcBound val s → dstBound st s →
    Gives (readVec val) s v s1 → s1.cur.replaying = false → Gives (slotsSeen ch) s1 n s2 →
    ((0 < n → Gives (putItem p v) s2 () s3 → Gives (endTwin 4 st 1 []) s3 .done t →
        Completes (.ctrysendV st (.c p) val) s t) ∧
     (n = 0 → Gives (endTwin 4 st 0 []) s2 .done t → Completes (.ctrysendV st (.c p) val) s t))) ∧
  (∀ (d : Scalar) (p : Fin 8) (s s1 t : State) (e : PortEnd) (ch : Channel) (n : Nat),
    TwinOn (.ccount d (.c p)) s p e ch → dstBound d s → s.cur.replaying = false →
    Gives (if e.sending then slotsSeen ch else itemsSeen ch) s n s1 →
    Gives (endTwin 5 d (BitVec.ofNat 64 n) []) s1 .done t → Completes (.ccount d (.c p)) s t)
namespace Sys2Proof.Claims

/-- The release half of a fence is done (R287, R289): with a scope other than the core's, the held joins have left and every
unacknowledged access counts as done for the scope. -/
def ReleaseDone (scope : Fin 4) (s t : State) : Prop :=
  if scope.val = 0 then t = s
  else t = s.drainHeld s.cur.core (Held.ofCtx s.cur.key) ∧
    ∀ o ∈ t.cur.outs, o.doneAt scope.val (dieOf s.cur.core) = true

/-- No accepted command is incomplete, and none has a fault that is not delivered (R292). -/
def CommandsDone (c : Context) : Prop := ∀ m ∈ c.cmds, m.incomplete = false ∧ (m.fault.isSome = true → m.delivered = true)

/-- The task that has the turn has ended (R292): it is counted, what it owned is free, and its launch completes if it was the
last. -/
def finished (s : State) : State := ((s.countEnd s.cur false).freeCtx s.cur).settleLaunch s.cur.launch

/-- The system registers that SYSRD reads without an outcome of R83 (R154 to R157). A store through the on-chip map may have
given ASID and CTXID another value than the name they give (notes/assumptions/29.md). -/
def registers : List (Nat × (Context → Word)) :=
  [(0, fun c => c.regs.status), (1, fun c => c.regs.mode), (2, fun c => c.regs.seed), (5, fun c => c.written[1].getD (c.key.asid.setWidth 64)),
   (6, fun c => c.written[2].getD (c.key.ctxid.setWidth 64)), (7, fun c => c.stackBase), (8, fun c => c.stackSize), (9, fun c => c.faultCode),
   (10, fun c => c.faultAddr), (11, fun c => c.faultPc), (12, fun c => c.regs.ndlog), (13, fun c => c.regs.icount),
   (16, fun c => c.cmdq[0]), (17, fun c => c.cmdq[1]), (18, fun c => c.cmdq[2]), (19, fun c => c.cmdq[3]),
   (20, fun _ => 0)]

/-- A system register is written with a value whose reserved bits are 0 (R154, R297). -/
def Writes (reg : Fin 64) (a : Scalar) (s : State) (x : Word) (s1 : State) : Prop :=
  issues (.syswr reg a) s = true ∧ srcBound a s ∧
    ∃ vs, Operands [a] s vs s1 ∧ (nthVal vs 0).mark = false ∧ (nthVal vs 0).bits = x ∧ x &&& reservedBits reg.val = 0

/-- The operands of an invalidation pass the checks of R298. -/
def InvalOperands (i : Instr) (asid addr len : Scalar) (s : State) (vs : List Val) (s1 : State) : Prop :=
  issues i s = true ∧ srcBound asid s ∧ srcBound addr s ∧ srcBound len s ∧ Operands [asid, addr, len] s vs s1 ∧
    (nthVal vs 0).mark = false ∧ (nthVal vs 1).mark = false ∧ (nthVal vs 2).mark = false ∧
    (nthVal vs 0).bits.toNat < 4096 ∧ (nthVal vs 2).bits.toNat % 4096 = 0 ∧
    ((nthVal vs 2).bits = 0 ∨
      ((nthVal vs 1).bits.toNat % 4096 = 0 ∧ rangeOk (nthVal vs 1).bits.toNat (nthVal vs 2).bits.toNat = true))

/-- The operands of an SPMARK pass the checks of R300, and no engine command reads or writes the range. -/
def MarkOperands (i : Instr) (off len : Scalar) (s : State) (o n : Nat) (s1 : State) : Prop :=
  issues i s = true ∧ srcBound off s ∧ srcBound len s ∧ ∃ vs, Operands [off, len] s vs s1 ∧ (nthVal vs 0).mark = false ∧
    (nthVal vs 1).mark = false ∧ (nthVal vs 0).bits.toNat = o ∧ (nthVal vs 1).bits.toNat = n ∧ o % 128 = 0 ∧ n % 128 = 0 ∧
    n ≠ 0 ∧ o < 2 ^ 21 ∧ s1.cur.sliceFits o n = true ∧ s1.touchesArea s1.cur o n = false ∧
    s1.storeWaits s1.cur o n = false

end Sys2Proof.Claims

/-- R292, R296: END of a task without a completion cell ends it once its accesses are acknowledged and its
commands done; with one it joins 1 there first and ends when that is acknowledged. HALT makes no such join, and leaves
its core drained. R293, R294, R291: YIELD makes its context ready and frees the core, in slot H it only counts; TRAP and
BREAKPT stop theirs after the instruction, with the kind and argument of the service record and both ways to go on.
R295, R354: ERET on an outstanding record ends its service: the record is live no more, and every context attached to it
gets a resume record, after its unit when the second operand says so. -/
def Obligations.TasksEndYieldTrapAndReturn : Prop :=
  ((∀ s t, issues .endTask s = true → s.cur.endJoin = none → Acknowledged true s t → t.cur.posted = [] → CommandsDone t.cur →
    t.cur.cell = 0 → Ends .endTask s .ended (finished t)) ∧
  (∀ s t t1 t2 t3 l, issues .endTask s = true → s.cur.endJoin = none → Acknowledged true s t → t.cur.posted = [] →
    CommandsDone t.cur → t.cur.cell ≠ 0 → Admitted .write (t.cur.cell.setWidth 64) t l t1 → 2 ≤ l.ty → l.ty ≤ 9 →
    t.cur.cell.toNat % 8 = 0 → Gives (joinCell l t.cur.cell.toNat 64 1 false true) t1 () t2 →
    Gives (waitAcks true) { t2 with cur := { t2.cur with endJoin := some t1.cur.nextOut } } false t3 →
    Ends .endTask s (.park (.acks .all)) t3) ∧
  (∀ s t n, issues .endTask s = true → s.cur.endJoin = some n → Acknowledged true s t →
    (∀ p ∈ t.cur.posted, p.n ≠ n) → Ends .endTask s .ended (finished t)) ∧
  (∀ s t, issues .halt s = true → s.cur.endJoin = none → Acknowledged true s t → t.cur.posted = [] → CommandsDone t.cur →
    Ends .halt s .ended ((finished t).modCore t.cur.core (fun k => { k with drained := true })).wakeSenders) ∧
  (∀ s, s.busy = true → (finished s).busy = false ∧ (finished s).ctxs = s.ctxs ∧
    ∀ w ∈ (finished s).crews, s.cur.key ∉ w.keys)) ∧
  ((∀ i ∈ [Instr.yield, .yield16], ∀ s, issues i s = true → s.cur.inH = true → Completes i s s) ∧
  (∀ i ∈ [Instr.yield, .yield16], ∀ s, issues i s = true → s.cur.inH = false →
    ∃ t : State, exec i s = .next t ∧ t.busy = false ∧ ∃ c ∈ t.ctxs, c.key = s.cur.key ∧ c.slot = s.cur.slot ∧
      (∃ n, c.status = .ready n) ∧ c.regs = { s.cur.regs with pc := nextOf s.cur i.len, icount := s.cur.regs.icount + 1 }) ∧
  (∀ p ∈ ([(.trap, 1), (.breakpt, 2)] : List ((Scalar → Instr) × Nat)), ∀ (a : Scalar) (s s1 : State) (v : Val),
    issues (p.1 a) s = true → srcBound a s → s.recordsFull s.cur.key { code := .illegalInstruction } = false →
    Gives (readScalar a) s v s1 → Ends (p.1 a) s (.trap p.2 v) s1) ∧
  (∀ (len kind : Nat) (arg : Val) (c : Context) (s : State), s.busy = true → (s.core s.cur.core).hold = [] →
    (let t := settle len c (.trap kind arg) s
     t.busy = false ∧ ∃ x ∈ t.ctxs, x.key = s.cur.key ∧ x.status = .stopped ∧ x.unitPc = c.unitStart.pc ∧
       x.regs.pc = c.unitStart.pc ∧
       x.nextPc = nextOf s.cur len ∧ x.regs.icount = s.cur.regs.icount + 1 ∧
       x.stop = some { kind := kind, info := { code := .illegalInstruction }, pc := c.regs.pc, arg := arg }))) ∧
  ((∀ (rec act : Scalar) (s s1 s2 s3 : State) (x a : Word) (l : Leaf) (r : FaultRec), issues (.eret rec act) s = true →
    srcBound rec s → srcBound act s → Gives (readClean rec) s x s1 → Gives (readClean act) s1 a s2 → a.toNat ≤ 1 →
    x.toNat % 8 = 0 → windowOf x.toNat = .global →
    Gives (tryTranslate s2.cur.core s2.cur.asid s2.cur.sys .read x.toNat) s2 (.ok l) s3 → l.remote = false →
    s3.records.find? (fun r => r.live && r.at_.isSome && r.at_ == some (l.key x.toNat)) = some r →
    (a = 1 → r.kind = 1 ∨ r.kind = 2) → Completes (.eret rec act) s (s3.endService r (a.getLsbD 0))) ∧
  (∀ (s : State) (r : FaultRec) (after : Bool), let t := s.endService r after
    t.resumes = s.resumes ++ r.attached.map (fun k => (k, after)) ∧
    t.records = s.records.map (fun x => if x.id = r.id then { x with live := false } else x) ∧ t.mem = s.mem))

/-- R154 to R157, R297: SYSRD reads every register of R154; CYCLE and CORE, outside strict mode, set ND as well. That CYCLE
is a free value plus what a store through the on-chip map has set it on by is the model's choice (notes/assumptions/3.md,
29.md), and so are the kinds 8 and 9 of their log entries (notes/assumptions/9.md). R154 to
R157, R301 to R303: what SYSWR does to each register: STATUS flags cleared by ones, MODE, SEED, a system context's stack
registers and the queue registers stored, the read-only ones left, CMDGO passing a command on. -/
def Obligations.SystemRegistersAreReadAndWritten : Prop :=
  ((∀ p ∈ registers, ∀ (d : Scalar) (reg : Fin 64) (s t : State), reg.val = p.1 → issues (.sysrd d reg) s = true →
    dstBound d s → Gives (writeScalar d { bits := p.2 s.cur }) s () t → Completes (.sysrd d reg) s t) ∧
  (∀ (d : Scalar) (reg : Fin 64) (s s1 t : State), reg.val = 4 → issues (.sysrd d reg) s = true → s.cur.strict = false →
    s.cur.replaying = false → dstBound d s →
    (let x := s.cur.written[0].getD (BitVec.ofNat 64 s.cur.core)
     Gives (writeScalar d { bits := x }) s () s1 → Gives (do logOutcome 9 [x]; markNd) s1 () t →
     Completes (.sysrd d reg) s t)) ∧
  (∀ (d : Scalar) (reg : Fin 64) (s s1 t : State), reg.val = 3 → issues (.sysrd d reg) s = true → s.cur.strict = false →
    s.cur.replaying = false → dstBound d s →
    (let x := Config.cycle s.free + s.cur.cycleOff
     Gives (writeScalar d { bits := x }) { s with free := s.free + 1 } () s1 →
     Gives (do logOutcome 8 [x]; markNd) s1 () t → Completes (.sysrd d reg) s t)) ∧
  (∀ (d : Scalar) (reg : Fin 64) (s : State), (reg.val = 3 ∨ reg.val = 4) → issues (.sysrd d reg) s = true →
    s.cur.strict = true → Faults (.sysrd d reg) s { code := .nondeterminism })) ∧
  ((∀ reg a s x s1, reg.val = 0 → Writes reg a s x s1 → Completes (.syswr reg a) s { s1 with cur := { s1.cur with
    regs := { s1.cur.regs with status := s1.cur.regs.status &&& ~~~ (x &&& 0x1F) } } }) ∧
  (∀ reg a s x s1, reg.val = 1 → Writes reg a s x s1 → (x >>> 1 &&& 7).toNat < 6 → Completes (.syswr reg a) s
    { s1 with cur := { s1.cur with regs := { s1.cur.regs with mode := x } } }) ∧
  (∀ reg a s x s1, reg.val = 2 → Writes reg a s x s1 → Completes (.syswr reg a) s
    { s1 with cur := { s1.cur with regs := { s1.cur.regs with seed := x } } }) ∧
  (∀ reg a s x s1, reg.val = 7 → Writes reg a s x s1 → Completes (.syswr reg a) s
    (if s1.cur.sys then { s1 with cur := { s1.cur with stackBase := x } } else s1)) ∧
  (∀ reg a s x s1, reg.val = 8 → Writes reg a s x s1 → (s1.cur.sys = true → x.toNat ≤ 0x1E00000) →
    Completes (.syswr reg a) s (if s1.cur.sys then { s1 with cur := { s1.cur with stackSize := x } } else s1)) ∧
  (∀ (n : Fin 4) reg a s x s1, reg.val = 16 + n.val → Writes reg a s x s1 → Completes (.syswr reg a) s
    { s1 with cur := { s1.cur with cmdq := s1.cur.cmdq.set n x } }) ∧
  (∀ (reg : Fin 64) a s x s1, reg.val ∈ [3, 4, 5, 6, 9, 10, 11, 12, 13] → Writes reg a s x s1 →
    Completes (.syswr reg a) s s1) ∧
  (∀ reg a s s1, reg.val = 20 → Writes reg a s 0 s1 → Completes (.syswr reg a) s s1) ∧
  (∀ reg a s s1 t, reg.val = 20 → Writes reg a s 1 s1 →
    (let q := s1.cur.cmdq
     let op := q[0].toNat % 256
     let src := q[1].toNat % 2 ^ 48
     let dst := q[2].toNat % 2 ^ 48
     let len := q[3].toNat % 2 ^ 32
     ((op = 1 ∧ len ≠ 0) ∨ (op = 2 ∧ len ≠ 0 ∧ len % 128 = 0 ∧ src % 128 = 0 ∧ dst % 128 = 0) ∨
       (op = 3 ∧ len = 0 ∧ dst < 768)) →
     Acknowledged true s1 t →
     Completes (.syswr reg a) s { t with legacy := t.legacy ++
       [{ k := t.cur.key, core := t.cur.core, sys := t.cur.sys, op := op, src := BitVec.ofNat 48 src
          dst := BitVec.ofNat 48 dst, len := len, cell := BitVec.ofNat 48 (q[0].toNat / 2 ^ 16)
          pc := t.cur.regs.pc, launch := t.cur.launch, key := mixKey t.cur.taskKey t.cur.regs.icount, born := t.cur.born }] })))

/-- R287, R289, R290: a fence whose release half is done, with no posted fault to deliver, completes; one that acquires
drops the lines of the core's L1 that are not frozen; one that is not done parks. R122, R298 to R300: TLBINV begins its
invalidation once no store is outstanding and completes when that is done; L1INV drops its lines; SPMARK marks lines
discarded, or kept, a discarded line becoming zeros. That L1INV completes in its own step, and that TLBINV keeps its core while
it waits, is the model's reading (notes/assumptions/67.md, 15.md). -/
def Obligations.FencesInvalidationsAndMarksComplete : Prop :=
  AcquireDropsL1 ∧
  ((∀ k s, issues (.fenceAcq k) s = true → s.cur.posted = [] → Completes (.fenceAcq k) s (afterAcquire s)) ∧
  (∀ k s t, issues (.fenceRel k) s = true → ReleaseDone k s t → t.cur.posted = [] → Completes (.fenceRel k) s t) ∧
  (∀ k s t, issues (.fenceFull k) s = true → ReleaseDone k s t → t.cur.posted = [] →
    Completes (.fenceFull k) s (afterAcquire t)) ∧
  (∀ k s, issues (.fenceRel k) s = true → k.val ≠ 0 →
    (∃ o ∈ (s.drainHeld s.cur.core (Held.ofCtx s.cur.key)).cur.outs, o.doneAt k.val (dieOf s.cur.core) = false) →
    Ends (.fenceRel k) s (.park (.acks (.fence k.val))) (s.drainHeld s.cur.core (Held.ofCtx s.cur.key)))) ∧
  ((∀ asid addr len s vs s1, InvalOperands (.tlbinv asid addr len) asid addr len s vs s1 → s1.cur.phase = 0 →
    (∀ o ∈ s1.cur.outs, o.store = false) →
    (let u := s1.startInval (some s1.cur.key) ((nthVal vs 0).bits.setWidth 12) (nthVal vs 1).bits.toNat
        (nthVal vs 2).bits.toNat
     Ends (.tlbinv asid addr len) s .stall { u with cur := { u.cur with phase := 1 } })) ∧
  (∀ asid addr len s vs s1, InvalOperands (.tlbinv asid addr len) asid addr len s vs s1 → s1.cur.phase = 1 →
    (∀ v ∈ s1.invals, v.by_ ≠ some s1.cur.key) → Completes (.tlbinv asid addr len) s s1) ∧
  (∀ asid addr len s vs s1, InvalOperands (.l1inv asid addr len) asid addr len s vs s1 →
    Completes (.l1inv asid addr len) s
      (s1.l1inv ((nthVal vs 0).bits.setWidth 12) (nthVal vs 1).bits.toNat (nthVal vs 2).bits.toNat)) ∧
  (∀ off len s o n s1, MarkOperands (.spmarkDiscard off len) off len s o n s1 → ∃ t : State,
    Completes (.spmarkDiscard off len) s t ∧ t = { s1 with cur := { s1.cur with discLines := t.cur.discLines } } ∧
    ∀ l, l ∈ t.cur.discLines ↔ (l ∈ s1.cur.discLines ∨ (o / 128 ≤ l ∧ l < (o + n) / 128))) ∧
  (∀ off len s o n s1, MarkOperands (.spmarkKeep off len) off len s o n s1 → ∃ t : State,
    Completes (.spmarkKeep off len) s t ∧ t.mem = s1.mem ∧ t.acc = s1.acc ∧ t.cur.regs = s1.cur.regs ∧
    (∀ l, l ∈ t.cur.discLines ↔ (l ∈ s1.cur.discLines ∧ ¬ (o / 128 ≤ l ∧ l < (o + n) / 128))) ∧
    (∀ l b, l ∈ s1.cur.discLines → o / 128 ≤ l → l < (o + n) / 128 → b < 128 →
      (if t.cur.inH then t.cur.area.cells.read (128 * l + b)
       else t.scratch.cells.read (t.cur.sliceBase + 128 * l + b)) = 0)))

namespace Sys2Proof.Claims

/-- Nothing holds a command up at acceptance (R256): its id is free, its incomplete predecessors are matrix commands, and
every incomplete command that conflicts with it is placed before it. -/
def Unhindered (id : Option Nat) (ps : List Nat) (k : CmdKind) (s : State) : Prop :=
  (∀ n m, id = some n → s.cur.holder n = some m → m.incomplete = false) ∧
  (∀ m ∈ s.cur.bound ps, m.incomplete = true → m.kind.isMatrix = true) ∧
  (∀ m ∈ s.cur.cmds, m.incomplete = true →
    m.seq ∈ placedBefore s.cur.cmds.reverse ((s.cur.bound ps).map Cmd.seq) k.isMatrix ∨
      s.conflict s.cur m k = false)

/-- No predecessor bound has a fault to deliver (R177). -/
def NoneFailed (ps : List Nat) (s : State) : Prop :=
  ∀ m ∈ s.cur.cmds, (∃ b ∈ s.cur.bound ps, b.seq = m.seq) → m.incomplete = true ∨ m.fault = none ∨ m.delivered = true

/-- The command is accepted (R175, R176). -/
def accepted (s : State) (id : Option Nat) (ps : List Nat) (k : CmdKind) : State :=
  { s with
    nextSeq := s.nextSeq + 1
    cur := { s.cur with
      cmds := s.cur.cmds ++ [{ seq := s.cur.nextCmd, id := id, kind := k
                               preds := ((s.cur.bound ps).filter Cmd.incomplete).map Cmd.seq
                               pc := s.cur.regs.pc, stamp := s.nextSeq }]
      nextCmd := s.cur.nextCmd + 1 } }

/-- A tile's discard mark set or cleared. -/
def marked (s : State) (t : Nat) (discarded : Bool) : State :=
  { s with cur := { s.cur with discTiles :=
      if discarded then s.cur.discTiles ||| ((1 : BitVec 16) <<< t) else s.cur.discTiles &&& ~~~ ((1 : BitVec 16) <<< t) } }

/-- Two operands of a command read and unmarked. -/
def TwoOperands (i : Instr) (a b : Scalar) (s : State) (x y : Word) (t : State) : Prop :=
  issues i s = true ∧ srcBound a s ∧ srcBound b s ∧ ∃ m, Gives (readClean a) s x m ∧ Gives (readClean b) m y t

/-- Checks 1 to 3 of R260, and the release from R256: what a copy command with the words `x` and `y` needs. -/
def CopyOn (op : CopyOp) (x y : Word) (cfg : Word × Word) (k : CmdKind) (s : State) : Prop :=
  wbits x 62 2 = 0 ∧ wbits y 54 10 = 0 ∧ wbits x 50 6 ≠ 63 ∧ s.cur.copySets[wbits x 48 2 % 4]'(Nat.mod_lt _ (by decide)) = cfg ∧
    (copyCfg cfg.1 cfg.2).len ≠ 0 ∧ op.accepts (copyCfg cfg.1 cfg.2).mode = true ∧
    ((copyCfg cfg.1 cfg.2).ben = true → ∃ b ∈ s.cur.barriers, b.off = (copyCfg cfg.1 cfg.2).bar) ∧
    (copyCfg cfg.1 cfg.2).limitsOk (wbits y 0 48) = true ∧ (op = .join → inScratchWindow (wbits x 0 48) = true) ∧
    Unhindered (some (wbits x 50 6)) [wbits x 56 6, wbits y 48 6] k s

/-- A tile that a matrix command may name (R152, R181). -/
def TileOk (s : State) (t : Nat) : Prop := t < s.cur.tiles ∧ s.cur.lampCfg[t % 16]'(Nat.mod_lt _ (by decide)) = none

/-- A tile that is not discarded (R123). -/
def TileLive (s : State) (t : Nat) : Prop := s.cur.discTiles.getLsbD t = false

end Sys2Proof.Claims

/-- R124, R125, R128, R262, R263: CCFG keeps its set, and CBAR makes or removes a barrier object. R175, R176, R255 to
R261: the copy commands are accepted once their checks pass, with the set they name and their operands. -/
def Obligations.CopySetsBarriersAndCopiesComplete : Prop :=
  ((∀ (a b : Scalar) (s t : State) (x y : Word), TwoOperands (.ccfg a b) a b s x y t →
    (copyCfg x y).len ≠ 0 → (copyCfg x y).rows ≠ 0 → (copyCfg x y).len ≤ 0x200000 → (copyCfg x y).mode ≠ 3 →
    ((copyCfg x y).jw = 0 ∨ (copyCfg x y).mode = 2) → wbits y 52 12 = 0 →
    Completes (.ccfg a b) s
      { t with cur := { t.cur with copySets := t.cur.copySets.set (wbits y 48 2 % 4) (x, y) } }) ∧
  (∀ (off exp : Scalar) (s u : State) (o e : Word), TwoOperands (.cbar off exp) off exp s o e u → o.toNat < 2 ^ 21 →
    o.toNat % 16 = 0 → u.cur.sliceFits o.toNat 16 = true → e.toNat < 2 ^ 32 →
    ((∃ b ∈ u.cur.barriers, b.off = o.toNat) ∨ e = 0 ∨ u.cur.barriers.length < 16) →
    u.touchesArea u.cur o.toNat 16 = false → ((∃ b ∈ u.cur.barriers, b.off = o.toNat) → u.cur.copyNames o.toNat = false) →
    ((∀ b ∈ u.cur.barriers, b.off ≠ o.toNat) → e ≠ 0 → u.storeWaits u.cur o.toNat 16 = false) →
    ∃ t : State, Completes (.cbar off exp) s t ∧ t.mem = u.mem ∧ t.cur.regs = u.cur.regs ∧
      t.cur.barriers = u.cur.barriers.filter (fun b => b.off != o.toNat) ++
        (if e = 0 then [] else [{ off := o.toNat, expected := e.toNat }]))) ∧
  ((∀ (a b : Scalar) (s s2 t : State) (x y : Word) (cfg : Word × Word) (mig : Bool),
    TwoOperands (.ccopy a b) a b s x y s2 →
    (let g := copyCfg cfg.1 cfg.2
     let src := wbits x 0 48
     let dst := wbits y 0 48
     let k (m : Bool) : CmdKind := .ccopy cfg.1 cfg.2 (BitVec.ofNat 48 src) (BitVec.ofNat 48 dst) m
     CopyOn .copy x y cfg (k false) s2 →
     Gives (checkSlice (rowRanges src g.sstride g.rows g.len)
       (if g.mode = 0 then rowRanges dst g.dstride g.rows g.len else [])) s2 () s2 →
     Gives (copyOperands .copy g src dst) s2 mig t → NoneFailed [wbits x 56 6, wbits y 48 6] t →
     Completes (.ccopy a b) s (accepted t (some (wbits x 50 6)) [wbits x 56 6, wbits y 48 6] (k mig)))) ∧
  (∀ (ix a b : Scalar) (s s2 s3 t u : State) (x y : Word) (v : Val) (cfg : Word × Word),
    TwoOperands (.cgather ix a b) a b s x y s2 → srcBound ix s → Gives (readScalar ix) s2 v s3 →
    (let g := copyCfg cfg.1 cfg.2
     let src := wbits x 0 48
     let dst := wbits y 0 48
     let k : CmdKind := .cgather cfg.1 cfg.2 (BitVec.ofNat 48 src) (BitVec.ofNat 48 dst) (v.bits.setWidth 48)
     CopyOn .gather x y cfg k s3 → Gives (checkSlice [] (rowRanges dst g.dstride g.rows g.len)) s3 () s3 →
     Gives (copyOperands .gather g src dst) s3 false t → v.mark = false → Gives (gatherList v.bits g.rows) t () u →
     NoneFailed [wbits x 56 6, wbits y 48 6] u →
     Completes (.cgather ix a b) s (accepted u (some (wbits x 50 6)) [wbits x 56 6, wbits y 48 6] k))) ∧
  (∀ (a b : Scalar) (s s2 t : State) (x y : Word) (cfg : Word × Word) (mig : Bool),
    TwoOperands (.cjoin a b) a b s x y s2 →
    (let g := copyCfg cfg.1 cfg.2
     let src := wbits x 0 48
     let dst := wbits y 0 48
     let k : CmdKind := .cjoin cfg.1 cfg.2 (BitVec.ofNat 48 src) (BitVec.ofNat 48 dst)
     CopyOn .join x y cfg k s2 → Gives (checkSlice (rowRanges src g.sstride g.rows g.len) []) s2 () s2 →
     Gives (copyOperands .join g src dst) s2 mig t → NoneFailed [wbits x 56 6, wbits y 48 6] t →
     Completes (.cjoin a b) s (accepted t (some (wbits x 50 6)) [wbits x 56 6, wbits y 48 6] k))))

/-- R181, R182, R265 to R271: MCFG keeps the view it reads; a matrix command is accepted once its checks pass, and the tile
it writes whole loses its discard mark, or MDISCARD's gets one. That a marked descriptor keeps MCFG from completing is the
model's choice (notes/assumptions/75.md). -/
def Obligations.MatrixCommandsAreAccepted : Prop :=
  (∀ (view off : Scalar) (s t : State) (x o : Word), TwoOperands (.mcfg view off) view off s x o t → x.toNat < 8 →
    o.toNat % 32 = 0 → t.cur.loadWaits o.toNat 32 = false → t.sliceMarked t.cur o.toNat 32 = false →
    Gives (checkSlice [(o.toNat, 32)] []) t () t →
    (let d := BitVec.ofNat 256 (t.sliceRead t.cur o.toNat 32)
     viewFieldsOk d = true → 1 ≤ (viewOf d).ow → 1 ≤ (viewOf d).oh →
     Completes (.mcfg view off) s { t with cur := { t.cur with views := t.cur.views.set (x.toNat % 8) d } })) ∧
  (∀ p ∈ ([(.mzero, .mzero, false), (.mdiscard, .mdiscard, true)] : List ((Scalar → Instr) × (Nat → CmdKind) × Bool)),
    ∀ (a : Scalar) (s t : State) (x : Word), issues (p.1 a) s = true → srcBound a s → Gives (readClean a) s x t →
    x.toNat < 16 → TileOk t x.toNat → Unhindered none [] (p.2.1 x.toNat) t →
    Completes (p.1 a) s (marked (accepted t none [] (p.2.1 x.toNat)) x.toNat p.2.2)) ∧
  (∀ (ra rb : Scalar) (s t : State) (a b : Word), TwoOperands (.mma ra rb) ra rb s a b t → wbits a 21 4 < 8 →
    a.toNat % 128 = 0 → matrixId b ≠ 63 → wbits a 25 7 = 0 → wbits a 48 16 = 0 → wbits a 32 16 ≠ 0 → wbits b 32 3 = 0 →
    wbits b 36 28 = 0 →
    (let d := t.cur.views[wbits a 21 4 % 8]'(Nat.mod_lt _ (by decide))
     let zf := b.getLsbD 35
     let u := accepted t (some (matrixId b)) (matrixPreds b) (.mma d a b)
     Unhindered (some (matrixId b)) (matrixPreds b) (.mma d a b) t → TileOk t (wbits b 0 4) →
     (zf = false → TileLive t (wbits b 0 4)) → Gives (mmaRanges d a b) t () t → NoneFailed (matrixPreds b) t →
     Completes (.mma ra rb) s (if zf then marked u (wbits b 0 4) false else u))) ∧
  (∀ (ra rb : Scalar) (s t : State) (a b : Word), TwoOperands (.mscaleacc ra rb) ra rb s a b t → wbits a 55 9 = 0 →
    wbits a 26 3 = 0 → wbits a 29 2 = 0 → a.toNat % 4 = 0 → wbits b 36 28 = 0 → wbits b 33 2 = 0 → wbits b 8 6 = 0 →
    matrixId b ≠ 63 →
    (let zf := b.getLsbD 35
     let u := accepted t (some (matrixId b)) (matrixPreds b) (.mscaleacc a b)
     Unhindered (some (matrixId b)) (matrixPreds b) (.mscaleacc a b) t → TileOk t (wbits b 4 4) → TileLive t (wbits b 4 4) →
     TileOk t (wbits b 0 4) → (zf = false → TileLive t (wbits b 0 4)) →
     Gives (checkSlice [(wbits a 0 21, 8 * fmtWidth (wbits a 21 5)), (wbits a 29 21, 8 * fmtWidth (wbits a 50 5))] [])
       t () t → wbits a 21 5 ≤ 12 → wbits a 50 5 ≤ 12 → NoneFailed (matrixPreds b) t →
     Completes (.mscaleacc ra rb) s (if zf then marked u (wbits b 0 4) false else u))) ∧
  (∀ (ra rb : Scalar) (s t : State) (a b : Word), TwoOperands (.mload ra rb) ra rb s a b t → wbits a 26 38 = 0 →
    a.toNat % 128 = 0 → wbits b 32 32 = 0 → wbits b 4 10 = 0 → matrixId b ≠ 63 →
    Unhindered (some (matrixId b)) (matrixPreds b) (.mload a b) t → TileOk t (wbits b 0 4) →
    Gives (checkSlice [(wbits a 0 21, 512 * fmtWidth (wbits a 21 5))] []) t () t → isCodebook (wbits a 21 5) = false →
    NoneFailed (matrixPreds b) t → Completes (.mload ra rb) s
      (marked (accepted t (some (matrixId b)) (matrixPreds b) (.mload a b)) (wbits b 0 4) false)) ∧
  (∀ (ra rb : Scalar) (s t : State) (a b : Word), TwoOperands (.mstore ra rb) ra rb s a b t → wbits a 30 34 = 0 →
    wbits a 26 3 < 6 → a.toNat % 128 = 0 → wbits b 33 31 = 0 → wbits b 4 10 = 0 → matrixId b ≠ 63 →
    (let k : CmdKind := .mstore a b t.cur.regs.icount t.cur.regs.seed
     Unhindered (some (matrixId b)) (matrixPreds b) k t → TileOk t (wbits b 0 4) → TileLive t (wbits b 0 4) →
     Gives (checkSlice [] [(wbits a 0 21, 512 * fmtWidth (wbits a 21 5))]) t () t → isTarget (wbits a 21 5) = true →
     NoneFailed (matrixPreds b) t →
     Completes (.mstore ra rb) s (accepted t (some (matrixId b)) (matrixPreds b) k)))

/-- R179, R272, R278: MWAIT and LWAIT write 0 once the commands they name are complete without a fault to deliver, and
park while one is not. R185 to R191, R273 to R277: LCFG makes a bank of a tile, or with a threshold of 0 makes it a
plain tile, its THETA alone being read; LSPARK and LRUN are accepted once their checks pass, and a run keeps the configuration, index and entries its
slice holds then (R276); LSTOP completes a run that has not started and asks one that has to end. -/
def Obligations.EngineWaitsAndLampCommandsComplete : Prop :=
  (∀ p ∈ ([(.mwait, CmdKind.isMatrix), (.lwait, CmdKind.isLamp)] : List ((Scalar → Scalar → Instr) × (CmdKind → Bool))),
    ∀ (d id : Scalar) (s u : State) (vs : List Val) (ms : List Cmd), issues (p.1 d id) s = true → srcBound id s →
    dstBound d s → Operands [id] s vs u → (nthVal vs 0).mark = false → (nthVal vs 0).bits.toNat < 64 →
    ((nthVal vs 0).bits = 63 → ms = u.cur.cmds.filter (fun m => p.2 m.kind)) →
    ((nthVal vs 0).bits ≠ 63 → ms = (u.cur.holder (nthVal vs 0).bits.toNat).toList ∧ ∀ m ∈ ms, p.2 m.kind = true) →
    (((∃ m ∈ ms, m.incomplete = true) → Ends (p.1 d id) s (.park (.commands (ms.map Cmd.seq))) u) ∧
     ((∀ m ∈ ms, m.incomplete = false ∧ (m.fault = none ∨ m.delivered = true)) → ∀ t,
       Gives (writeScalar d { bits := 0 }) u () t → Completes (p.1 d id) s t))) ∧
  ((∀ (tile off : Scalar) (s u : State) (x o : Word), TwoOperands (.lcfg tile off) tile off s x o u → x.toNat < 16 →
    o.toNat < 2 ^ 21 → o.toNat % 64 = 0 → u.cur.tileWaits x.toNat = false → u.storeWaits u.cur o.toNat 64 = false →
    x.toNat < u.cur.tiles → u.cur.sliceFits o.toNat 64 = true → Gives (checkSlice [(o.toNat + 4, 4)] []) u () u →
    (let theta := (lampCfgOf (u.sliceRead u.cur o.toNat 64)).theta
     (theta = 0 → u.sliceMarked u.cur (o.toNat + 4) 4 = false → Completes (.lcfg tile off) s
       (let v : State := { u with cur := { u.cur with lampCfg := u.cur.lampCfg.set (x.toNat % 16) none } }
        v.dropSparks v.cur x.toNat)) ∧
     (theta ≠ 0 → TileLive u x.toNat → Gives (checkSlice [(o.toNat, 64)] []) u () u → Gives (checkLampCfg o.toNat) u () u →
       u.crewOn u.cur ≤ 1 →
       Completes (.lcfg tile off) s
         (let v := (u.dropSparks u.cur x.toNat).writeBank u.cur.key o.toNat 0
            (lampCfgOf (u.sliceRead u.cur o.toNat 64)).first
          { v with cur := { v.cur with lampCfg := v.cur.lampCfg.set (x.toNat % 16) (some o.toNat) } })))) ∧
  (∀ (ra rb : Scalar) (s u : State) (a b : Word), TwoOperands (.lspark ra rb) ra rb s a b u → wbits a 48 16 = 0 →
    wbits a 26 6 = 0 → wbits b 0 14 = 0 → wbits b 14 6 ≠ 63 → lampCore (BitVec.ofNat 26 (wbits a 0 26)) ≤ 767 →
    (let ps := [wbits b 20 6, wbits b 26 6]
     Unhindered (some (wbits b 14 6)) ps (.lspark a b) u →
     (u.lampOwner u.cur (BitVec.ofNat 26 (wbits a 0 26))).isSome = true → NoneFailed ps u →
     Completes (.lspark ra rb) s (accepted u (some (wbits b 14 6)) ps (.lspark a b)))) ∧
  (∀ (ra rb : Scalar) (s u : State) (a b : Word) (o : Nat), TwoOperands (.lrun ra rb) ra rb s a b u → wbits a 4 28 = 0 →
    wbits a 32 32 ≠ 0 → wbits b 32 32 = 0 → wbits b 0 14 = 0 → wbits b 14 6 ≠ 63 → wbits a 0 4 < u.cur.tiles →
    u.cur.lampCfg[wbits a 0 4 % 16]'(Nat.mod_lt _ (by decide)) = some o → Gives (checkSlice [(o, 64)] []) u () u →
    (let g := lampCfgOf (u.sliceRead u.cur o 64)
     let ps := [wbits b 20 6, wbits b 26 6]
     Unhindered (some (wbits b 14 6)) ps (.lrun a b) u → u.sliceMarked u.cur (o + 4) 4 = false → g.theta ≠ 0 →
     Gives (checkLampCfg o) u () u →
     g.step + wbits a 32 32 ≤ 2 ^ 32 → NoneFailed ps u →
     (let v := accepted u (some (wbits b 14 6)) ps (.lrun a b)
      Completes (.lrun ra rb) s { v with cur := { v.cur with cmds := v.cur.cmds.map (fun m =>
        if m.seq = u.cur.nextCmd then { m with bank := u.sliceImage u.cur, fired := g.fired } else m) } }))) ∧
  (∀ (r : Scalar) (s u : State) (x : Word), issues (.lstop r) s = true → srcBound r s → Gives (readClean r) s x u →
    x.toNat < 16 → x.toNat < u.cur.tiles → (u.cur.lampCfg[x.toNat % 16]'(Nat.mod_lt _ (by decide))).isSome = true →
    ∃ t : State, Completes (.lstop r) s t ∧ t.cur.regs = u.cur.regs ∧ t.mem = u.mem ∧
      ((∀ m ∈ u.cur.cmds, m.incomplete = false ∨ m.kind.runTile ≠ some x.toNat) → t = u) ∧
      (∀ m, u.cur.cmds = [m] → m.incomplete = true → m.kind.runTile = some x.toNat →
        t.cur.cmds = [if m.state = .accepted then { m with state := .done, fault := none } else { m with stopAsked := true }])))

namespace Sys2Proof.Claims

/-- Words the spec works out, with the instruction each stands for: of 32 bits in R158 to R166 and the entries of spec/09
to spec/11, of 16 bits in R195, R196 and R159. -/
def workedWords : List (Nat × Nat × Instr) :=
  [(16, 0xA252, .guard true 17 5), (16, 0x0882, .guard false 4 8), (16, 0x3E36, .vguard false 31 3),
   (16, 0x0050, .vmaxF32S (.v 1) (.v 0)),
   (32, 0x017C2181, .add (.g 3) (.q 1) (.q 15)), (32, 0x00000001, .add (.g 0) (.g 0) (.g 0)),
   (32, 0x1A288181, .mulh (.g 3) (.g 4) (.g 5)), (32, 0xFFFACB03, .addi (.g 22) (.g 22) (-1)),
   (32, 0x81F8818B, .srai (.g 3) (.g 4) 63), (32, 0x0C000A8F, .movi (.g 21) 0x6000),
   (32, 0xFFF843A5, .st (.g 7) (.g 2) 3 (-1)), (32, 0x006841A1, .ld (.g 3) (.g 2) 1 3),
   (32, 0x0A830029, .joinDRel (.g 24) (.g 16)), (32, 0x101B0029, .xjoinFRel (.g 24) (.g 3)),
   (32, 0x141300A9, .await (.g 1) (.g 24) (.g 2)), (32, 0x1E0302A9, .ldxD (.g 5) (.g 24)),
   (32, 0x20CB0029, .freeze (.g 24) (.g 25)), (32, 0x0002E1B3, .prepr 3 (.g 23)),
   (32, 0x02594133, .prepx 2 (.g 10) (.g 11)), (32, 0x040006B3, .pmove 5 1), (32, 0x00000135, .jmp 2),
   (32, 0x060008B5, .call 1 2), (32, 0x0288A1B5, .brT 3 (.g 5) 17), (32, 0x05F92035, .brF 0 (.g 9) 63),
   (32, 0x0800E335, .bdec 6 (.g 7)), (32, 0x0C100237, .sysrd (.g 4) 2), (32, 0x0E086037, .syswr 1 (.g 3)),
   (32, 0x101840B7, .tlbinv (.g 1) (.g 2) (.g 3)), (32, 0x142060B7, .spmarkDiscard (.g 3) (.g 4)),
   (32, 0x00184039, .spawn (.g 2) (.g 3)), (32, 0x02288139, .spawnw (.g 2) (.g 4) (.g 5)),
   (32, 0x0838C2B9, .sendNb (.g 5) (.g 6) (.g 7)), (32, 0x001600BB, .ctryrecv (.g 1) (.c 0) (.g 2)),
   (32, 0x1400003D, .fenceRel 2), (32, 0x0A00003D, .fenceAcq 1), (32, 0x1E00003D, .fenceFull 3),
   (32, 0x062041C1, .vfma 0 (.v 3) (.v 4) (.y 0)), (32, 0x204C5141, .vcmplt 1 (.v 2) (.v 5) (.v 6)),
   (32, 0x228410C3, .viaddsat 2 (.v 1) (.v 1) (.v 2)), (32, 0x00009445, .vmov (.v 8) (.v 9)),
   (32, 0x0402E0C5, .vbcast (.v 1) (.g 23)), (32, 0x000A1147, .vcvtF2x 5 (.v 2) (.v 1)),
   (32, 0x000080CB, .vld (.v 1) (.g 4) (.g 0)), (32, 0x0200A0CB, .vst (.v 1) (.g 5) (.g 0)),
   (32, 0x020841CD, .vxjoin (.v 3) (.g 2) (.v 1)), (32, 0x0009214F, .vlda (.v 2) 1 (.g 9)),
   (32, 0x02EB8061, .ccfg (.g 28) (.g 29)), (32, 0x08DB4061, .cbar (.g 26) (.g 27)),
   (32, 0x0A034DE1, .waitb (.g 27) (.g 26) (.g 0)), (32, 0x04BAC063, .mma (.g 22) (.g 23)),
   (32, 0x06BAC063, .mscaleacc (.g 22) (.g 23)), (32, 0x0C02A063, .mwait (.g 0) (.g 21)),
   (32, 0x04288065, .lrun (.g 4) (.g 5))]

/-- Words the spec works out that are no instruction, with the fault each takes (R166, R167). -/
def rejectedWords : List (Nat × Reject) :=
  [(0x0000007F, .illegalInstruction 4), (0x3C000001, .illegalInstruction 4), (0x0000000E, .illegalInstruction 2),
   (0x20A0005B, .illegalInstruction 4), (0x28000037, .illegalInstruction 4), (0x24001141, .illegalInstruction 4),
   (0x0E000061, .illegalInstruction 4), (0x1000003D, .illegalInstruction 4),
   (0x0E021141, .illegalOperand (.vabs 0 (.v 2) (.v 1))), (0x000000E3, .illegalOperand (.mcfg (.g 0) (.g 0)))]

/-- The bytes of a 32-bit word at rising addresses (R6). -/
def wordBytes (w : BitVec 32) : List Byte :=
  [w.extractLsb' 0 8, w.extractLsb' 8 8, w.extractLsb' 16 8, w.extractLsb' 24 8]

/-- The majors with an instruction (R164). -/
def assignedMajors : List Nat :=
  [0, 1, 2, 3, 4, 5, 6, 7, 8, 9, 16, 17, 18, 20, 24, 25, 26, 27, 28, 29, 30, 32, 33, 34, 35, 36, 37, 38, 39, 48, 49, 50]

/-- The f7 values of the majors whose f7 numbers their operations: all from 0 to below the second number are used. -/
def usedF7 : List (Nat × Nat) :=
  [(0, 30), (20, 18), (25, 3), (26, 5), (27, 12), (28, 6), (29, 5), (32, 18), (33, 18), (34, 8), (35, 3), (36, 5), (37, 7),
   (38, 2), (39, 3), (48, 6), (49, 8), (50, 5)]

/-- No schedule says otherwise, and the context that has the turn goes on. -/
def HasTurn (s : State) : Prop :=
  s.sched = [] ∧ s.busy = true ∧ s.stalled = false ∧ s.stoppedDies.getLsbD (dieOf s.cur.core) = false

/-- Nothing takes effect at the boundary of its unit first (R194): the next step is its next instruction. -/
def Runs (s : State) : Prop :=
  HasTurn s ∧ (s.cur.unit = none → s.tornQueue = none ∧ s.mustLeave s.cur = false ∧ s.highReady s.cur.core = none)

/-- What a fetch at the PC gives: the bytes of one instruction, or the cause and address of the failure. -/
def Fetches (s : State) (r : Except (Cause × Nat) (List Byte)) (t : State) : Prop :=
  Gives (fetchBytes s.cur.core s.cur.asid s.cur.sys s.cur.regs.pc.toNat) s r t

end Sys2Proof.Claims

/-- R158 to R166: the words the spec works out decode to the instructions they stand for, and those it rejects are rejected
as it says. A sanity statement on fixed words. -/
def Obligations.WorkedWordsDecode : Prop :=
  (∀ p ∈ workedWords, decodeTableWord p.1 p.2.1 = some p.2.2) ∧
  (∀ p ∈ rejectedWords, decode (bytesOfNat 4 p.1) = .error p.2)

/-- R6, R158 to R165: every instruction that has an encoding, with every operand at every value, is what its encoding decodes
to, whatever bytes follow. -/
def Obligations.DecodeEncodeRoundTrip : Prop :=
  ∀ (i : Instr) (rest : List Byte), i.isEvent = false → decode (encode i ++ rest) = .ok i

/-- R166: a word has one meaning: what decodes is the encoding of what it decodes to, so every unused field is zero; majors
and f7 values that are not assigned are rejected. -/
def Obligations.EveryWordHasOneMeaning : Prop :=
  (∀ (bs : List Byte) (i : Instr), decode bs = .ok i → i.isEvent = false ∧ ∃ rest, bs = encode i ++ rest) ∧
  (∀ (w : BitVec 32) (rest : List Byte), w.toNat % 2 = 1 → w.toNat / 2 % 64 ∉ assignedMajors →
    decode (wordBytes w ++ rest) = .error (.illegalInstruction 4)) ∧
  (∀ p ∈ usedF7, ∀ (w : BitVec 32) (rest : List Byte), w.toNat % 2 = 1 → w.toNat / 2 % 64 = p.1 →
    p.2 ≤ w.toNat / 2 ^ 25 → decode (wordBytes w ++ rest) = .error (.illegalInstruction 4))

/-- R81, R166 to R168: when the bytes at the PC decode to an instruction, a step is that instruction at the state the fetch
leaves; a word that does not decode, or cannot be fetched, faults there; an event at the head of the schedule is a step. R194,
R314, R357, R361: at the boundary of its unit the teardown of its queue, its pre-emption or a high-priority record that can
start comes before its next instruction, in this order by the model's choice (notes/assumptions/5.md). -/
def Obligations.AStepRunsTheDecodedInstruction : Prop :=
  (∀ (s s1 : State) (bytes : List Byte) (i : Instr), Runs s → Fetches s (.ok bytes) s1 →
    (s1.core s.cur.core).icErrors.contains (s.cur.asid, s.cur.regs.pc.toNat) = false → decode bytes = .ok i →
    step s = exec i s1) ∧
  (∀ (s s1 : State) (bytes : List Byte) (n : Nat), Runs s → Fetches s (.ok bytes) s1 →
    decode bytes = .error (.illegalInstruction n) → s.cur.viaTarget = false →
    step s = .next (takeFault { code := .illegalInstruction } s1)) ∧
  (∀ (s s1 : State) (cause : Cause) (va : Nat), Runs s → Fetches s (.error (cause, va)) s1 →
    step s = .next (takeFault (s1.fetchFault s.cur.core s.cur.asid cause va) s1)) ∧
  (∀ (s : State) (i : Instr) (rest : List Turn), s.sched = .event i :: rest → i.isEvent = true →
    step s = exec i { s with sched := rest }) ∧
  (∀ s : State, HasTurn s → s.cur.unit = none →
    (∀ q, s.tornQueue = some q → step s = exec (.teardown q) s) ∧
    (s.tornQueue = none → s.mustLeave s.cur = true → step s = exec (.preemption s.cur.key) s) ∧
    (s.tornQueue = none → s.mustLeave s.cur = false → (s.highReady s.cur.core).isSome = true →
      step s = exec (.highPriorityStart s.cur.core) s))

/-- R365, R366, R372: what reset leaves: every queue register zero, the threshold 256, the time slice 2 ms in µs, no package
id, every link down, no context, record, launch, graph or message. That memory lists nothing is the model's choice (log
entry 1), as are the values of its own fields. -/
def Obligations.ResetLeavesWhatTheSpecSays : Prop :=
  let s := State.reset
  (∀ q : Fin 64, s.queues[q].ring = 0 ∧ s.queues[q].rsize = 0 ∧ s.queues[q].tail = 0 ∧ s.queues[q].head = 0 ∧
    s.queues[q].comp = 0 ∧ s.queues[q].ctail = 0 ∧ s.queues[q].mode = 0 ∧ s.queues[q].suspend = false ∧
    s.queues[q].en = false ∧ s.queues[q].tdbuf = 0 ∧ s.queues[q].tdcap = 0 ∧ s.queues[q].rlog = 0 ∧
    s.queues[q].rlogsize = 0) ∧
  s.bar1.astbase = 0 ∧ s.bar1.svcbase = 0 ∧ s.bar1.notifybase = 0 ∧ s.bar1.cntthresh = 256 ∧ s.bar1.timeslice = 2000 ∧
  s.bar1.hostasid = 0 ∧ s.bar1.logbase = 0 ∧ s.bar1.logsize = 0 ∧ s.bar1.pkgvalid = false ∧
  (∀ l : Fin 12, s.links[l].up = false) ∧ s.allCtxs = [] ∧ s.records = [] ∧ s.launches = [] ∧ s.graphs = [] ∧ s.msgs = [] ∧
  s.watches = [] ∧ s.chans = [] ∧ s.crews = [] ∧ s.edges = 0 ∧ s.fencedBase = 0 ∧ s.fencedDies = 0 ∧
  (∀ n, s.core n = { num := n }) ∧ (∀ a, s.mem.cells.read a = 0 ∧ s.mem.marks.read a = 0 ∧ s.md.read a = 0)

/-- Every instruction and event, at every state, has a next state: the faults of the spec are taken, none stops the model.
That no instruction or event stops the machine is the model's reading (notes/assumptions/68.md). -/
def Obligations.EveryStepHasANextState : Prop :=
  (∀ (i : Instr) (s : State), ∃ t : State, exec i s = .next t) ∧ (∀ s : State, ∃ t : State, step s = .next t)

/-- Every step keeps every byte space in its canonical form, from any state that has it. -/
def Obligations.EveryStepKeepsByteSpacesCanonical : Prop :=
  ∀ s t : State, Sys2Proof.Safety.memoryOk s → step s = .next t → Sys2Proof.Safety.memoryOk t

/-- The byte spaces have their canonical form at reset. -/
def Obligations.ByteSpacesAreCanonicalAtReset : Prop := Sys2Proof.Safety.memoryOk State.reset

namespace Sys2Proof.Claims

/-- The event answers `t`. -/
def Leads (i : Instr) (s t : State) : Prop := exec i s = .next t

/-- The service-table entry of the context's address space lies outside its frame. -/
def FrameApart (s : State) (k : Key) : Prop :=
  let e := s.bar1.svcbase.toNat + 32 * k.asid.toNat
  e + 32 ≤ s.frameAt k ∨ s.frameAt k + 2 ^ 22 ≤ e

/-- What is saved of the context fits its frame (R355, R356). -/
def FrameHolds (s : State) (c : Context) : Prop :=
  0x5000 + 4096 * c.foot + 2 ^ 14 * c.tiles + 16 * (s.takeSparks c).2.length ≤ 2 ^ 22

/-- `c'` is `c` in its frame, with its registers. -/
def InFrame (c c' : Context) : Prop := c'.slot = none ∧ c'.leaving = false ∧ c'.regs = c.regs

end Sys2Proof.Claims

/-- R354, R357 to R359: a context that must leave stops at a unit boundary, at once where it is parked, and is in its frame
once its engine commands are settled; the barrier objects of its slice stand in the slice's image there (R124, R356); a running MMA that cannot complete in 4,096 cycles stops at a group boundary after them
(which one is left open, notes/assumptions/77.md). A resume record readies its context at its unit, or after its trap; one for
a context on its way to its frame waits. -/
def Obligations.ContextsLeaveAndResume : Prop :=
  (∀ (k : Key) (s : State) (c : Context), s.ctx? k = some c → c.slot.isSome = true → c.status ≠ .stopped →
    s.mustLeave c = true → (c.status = .running → c.unit = none) → c.settled = true → s.mem.wf = true → FrameApart s k →
    FrameHolds s c →
    ∃ (t : State) (c' : Context), Leads (.preemption k) s t ∧ t.ctx? k = some c' ∧ InFrame c c' ∧
      (c.status = .running → ∃ n, c'.status = .ready n) ∧ (∀ w n, c.status = .parked w n → c'.status = c.status) ∧
      t.mem.readN (s.frameAt k + 0x440) 8 = c.unitStart.pc.toNat ∧
      (∀ n : Fin 32, t.mem.readN (s.frameAt k + 0x200 + 8 * n.val) 8 = c.unitStart.g[n].bits.toNat) ∧
      ∀ b ∈ c.barriers, (∀ x ∈ c.barriers, x = b ∨ x.off + 16 ≤ b.off ∨ b.off + 16 ≤ x.off) → b.off % 16 = 0 →
        c.inH = false → c.liveLine (b.off / 128) = true →
        t.mem.readN (s.frameAt k + 0x5000 + b.off) 16 = b.word % 2 ^ 128) ∧
  (∀ (k : Key) (s : State) (c : Context), s.ctx? k = some c → c.status = .running → c.unit.isSome = true →
    Leads (.preemption k) s s) ∧
  (∀ (k : Key) (s : State) (c : Context), s.ctx? k = some c → c.slot.isSome = true → c.status = .running → c.unit = none →
    s.mustLeave c = true → c.settled = false →
    ∃ (t : State) (c' : Context), Leads (.preemption k) s t ∧ t.ctx? k = some c' ∧ c'.slot = c.slot ∧ c'.leaving = true ∧
      c'.status = .ready s.nextSeq ∧ c'.regs = c.regs ∧ t.mem = s.mem) ∧
  (∀ (k : Key) (seq : Nat) (s : State) (c : Context) (m : Cmd) (view : BitVec 256) (a b : Word), s.ctx? k = some c →
    c.cmd? seq = some m → m.kind = .mma view a b → (c.status = .stopped ∨ c.leaving = true) → m.state = .started →
    (groupsBound b < wbits a 32 16 - m.groups →
      ∃ (t : State) (c' : Context) (n : Nat), Leads (.mmaPreemptBound k seq) s t ∧ t.ctx? k = some c' ∧
        groupsBound b ≤ n ∧ m.groups + n < wbits a 32 16 ∧
        c'.cmd? seq = some { m with groups := m.groups + n, state := .accepted } ∧
        t.acc = (s.runMma c view a b m.groups n).acc ∧ t.mem = s.mem ∧ t.scratch = s.scratch ∧ c'.regs = c.regs) ∧
    (wbits a 32 16 - m.groups ≤ groupsBound b → Leads (.mmaPreemptBound k seq) s s)) ∧
  (∀ (k : Key) (after : Bool) (s : State) (c : Context), s.resumes.find? (fun r => r.1 == k) = some (k, after) →
    s.ctx? k = some c → c.status = .stopped → c.stop = none →
    ∃ (t : State) (c' : Context), Leads (.resumeRecord k) s t ∧ t.ctx? k = some c' ∧ c'.status = .ready s.nextSeq ∧ c'.stop = none ∧
      c'.regs = { c.regs with pc := if after then c.nextPc else c.unitPc } ∧ t.resumes = dropResume k s.resumes) ∧
  (∀ (k : Key) (after : Bool) (s : State) (c : Context), s.resumes.find? (fun r => r.1 == k) = some (k, after) →
    s.ctx? k = some c → c.stop.isSome = true → Leads (.resumeRecord k) s s) ∧
  (∀ (k : Key) (after : Bool) (s : State), s.resumes.find? (fun r => r.1 == k) = some (k, after) → s.ctx? k = none →
    Leads (.resumeRecord k) s { s with resumes := dropResume k s.resumes }) ∧
  (∀ (k : Key) (s : State), Leads (.vectorRetention k) s s)

namespace Sys2Proof.Claims

/-- The join into a queue's cell has to wait for its page: the page admits it, but for JBLOCK = 1 (R104, R352). -/
def QueueCellBlocked (s : State) (asid : BitVec 12) (cell : Nat) : Prop :=
  ∃ l n, walk s asid cell = .ok (l, n) ∧ windowOf cell = .global ∧ l.ty = 9 ∧ cell % 8 = 0 ∧ cell ≠ 0 ∧
    leafChecks l .write true cell = .ok () ∧ l.jblock = true

end Sys2Proof.Claims

/-- R194, R347, R351: a fault stops its context at the boundary of its unit with the registers it had there, writes
FAULTCODE, FAULTADDR and FAULTPC and frees the core; at the limit of 64 records it waits instead (R98). R97, R351 to R353,
R369, R395: the fault opens a record, changing no byte, or joins the outstanding record of its page, which is rewritten where
it stands; the stopped context goes to its frame and the record is then posted; records are written to the fault queue of
their address space in order, producer rising by one, and a full queue raises its vector. The queue's cell is joined after that; a
join that its page holds back (JBLOCK) holds no record back, and is tried again (notes/assumptions/54.md). That the record is opened when the
context stops is the model's choice (notes/assumptions/16.md). -/
def Obligations.FaultsStopAndAreRecorded : Prop :=
  ((∀ (f : FaultInfo) (pc : CodeAddr) (s : State), s.busy = true → s.recordsFull s.cur.key f = false →
    let t := takeFaultAt pc f s
    t.busy = false ∧ t.md = s.md ∧ t.scratch = s.scratch ∧ t.acc = s.acc ∧
    (s.attachTo s.cur.key.asid f = none → t.mem = s.mem ∧ ∃ r : FaultRec, t.records = s.records ++ [r] ∧ r.id = s.nextSeq ∧
      r.asid = s.cur.key.asid ∧ r.ctxid = s.cur.key.ctxid ∧ r.kind = 0 ∧ r.info = f ∧ r.pc = pc ∧ r.attached = [s.cur.key] ∧
      r.at_ = none ∧ r.live = true ∧ r.posted = false) ∧
    (∀ r : FaultRec, s.attachTo s.cur.key.asid f = some r → (∀ y ∈ s.records, y.id = r.id → y = r) → r.attached.length < 16 →
      t.records = s.records.map (fun y => if y.id = r.id then { y with attached := y.attached ++ [s.cur.key] } else y) ∧
      (∀ a, (∀ pa, r.at_ = some pa → a < pa ∨ pa + 64 ≤ a) → t.mem.cells.read a = s.mem.cells.read a)) ∧
    ∃ c, t.ctx? s.cur.key = some c ∧ c.status = .stopped ∧ c.regs = s.cur.unitStart ∧ c.unit = none ∧
      c.slot = s.cur.slot ∧ c.core = s.cur.core ∧ wbits c.faultCode 0 8 = f.code.num ∧ wbits c.faultCode 8 8 = f.sub.toNat ∧
      c.faultAddr = f.addr ∧ c.faultPc = pc.setWidth 64 ∧ c.unitPc = s.cur.unitStart.pc ∧
      c.stop = some { kind := 0, info := f, pc := pc, record := ((s.attachTo s.cur.key.asid f).map FaultRec.id).getD s.nextSeq }) ∧
  (∀ (f : FaultInfo) (pc : CodeAddr) (s : State), s.recordsFull s.cur.key f = true →
    takeFaultAt pc f s = { s with stalled := true })) ∧
  ((∀ (k : Key) (s : State) (c : Context) (x : StopRec), s.ctx? k = some c → c.status = .stopped → c.stop = some x →
    c.settled = true → c.slot.isSome = true → x.kind ≠ 0 →
    ∃ (t : State) (c' : Context) (r : FaultRec), Leads (.faultStop k) s t ∧ t.ctx? k = some c' ∧ InFrame c c' ∧ c'.status = .stopped ∧ c'.stop = none ∧
      t.records = s.records ++ [r] ∧ r.asid = k.asid ∧ r.ctxid = k.ctxid ∧ r.kind = x.kind ∧ r.info = x.info ∧ r.pc = x.pc ∧
      r.arg = x.arg ∧ r.attached = [k] ∧ r.at_ = none ∧ r.live = true ∧ r.posted = true) ∧
  (∀ (k : Key) (s : State) (c : Context) (x : StopRec), s.ctx? k = some c → c.status = .stopped →
    c.stop = some x → c.settled = true → c.slot.isSome = true → x.kind = 0 →
    ∃ (t : State) (c' : Context), Leads (.faultStop k) s t ∧ t.ctx? k = some c' ∧ InFrame c c' ∧ c'.status = .stopped ∧ c'.stop = none ∧
      ((∀ y ∈ s.records, y.id = x.record → y.posted = true) → t.records = s.records) ∧
      (∀ y ∈ s.records, y.id = x.record → y.posted = false →
        t.records.find? (fun z => z.id == x.record) =
          (s.records.find? (fun z => z.id == x.record)).map (fun z => { z with posted := true }) ∧
        (∀ z, z.id ≠ x.record → (∀ n, z.lead ≠ some (x.record, n)) → (z ∈ t.records ↔ z ∈ s.records)))) ∧
  (∀ (asid : BitVec 12) (s : State) (r : FaultRec), (∀ x ∈ s.queueJoins, x.1 ≠ asid) → s.nextRecord asid = some r →
    r.kind < 16 →
    (let fq := s.faultQueue asid
     let h := s.queueHeader fq
     let pa := fq + 64 + 64 * (h.1 % h.2.2)
     fq ≠ 0 → s.queueFull fq = false → h.1 + 1 < 2 ^ 64 → s.mem.wf = true →
     ∃ t : State, Leads (.faultRecordWrite asid) s (t.askQueueCell asid (s.mem.readN (fq + 0x18) 8)) ∧ t.mem.readN fq 8 = h.1 + 1 ∧ t.vectors = s.vectors ||| ((1 : BitVec 66) <<< 64) ∧
       t.mem.readN (pa + 4) 1 % 16 = r.kind ∧ t.mem.readN (pa + 6) 2 = r.ctxid.toNat ∧
       (r.kind ≠ 1 → r.kind ≠ 2 → t.mem.readN pa 1 = r.info.code.num ∧ t.mem.readN (pa + 8) 8 = r.info.addr.toNat ∧
         (r.kind ≠ 7 → t.mem.readN (pa + 16) 6 = r.pc.toNat ∧
           (∀ id, r.cmdId = some id → t.mem.readN (pa + 22) 1 = id % 64 + 64))) ∧
       (r.live = true → ∃ y ∈ t.records, y.id = r.id ∧ y.at_ = some pa) ∧
       (∀ a, (a < pa ∨ pa + 64 ≤ a) → (a < fq ∨ fq + 8 ≤ a) → t.mem.cells.read a = s.mem.cells.read a))) ∧
  (∀ (asid : BitVec 12) (t : State), t.askQueueCell asid 0 = t) ∧
  (∀ (asid : BitVec 12) (cell : Nat) (t : State), QueueCellBlocked t asid cell →
    t.askQueueCell asid cell = { t with queueJoins := t.queueJoins ++ [(asid, cell)] }) ∧
  (∀ (asid : BitVec 12) (cell : Nat) (s : State), s.queueJoins = [(asid, cell)] → s.nextRecord asid = none →
    (QueueCellBlocked s asid cell → Leads (.faultRecordWrite asid) s s) ∧
    (cell ≠ 0 → ¬ QueueCellBlocked s asid cell →
      ∃ t : State, Leads (.faultRecordWrite asid) s { t with queueJoins := [] } ∧ t = s.askQueueCell asid cell ∧
        t.queueJoins = s.queueJoins)) ∧
  (∀ (asid : BitVec 12) (s : State) (r : FaultRec), s.nextRecord asid = some r → s.faultQueue asid ≠ 0 →
    s.queueFull (s.faultQueue asid) = true →
    ((∀ x ∈ s.queueJoins, x.1 ≠ asid) → Leads (.faultRecordWrite asid) s s) ∧
    Leads (.faultQueueFullSignal asid) s { s with vectors := s.vectors ||| ((1 : BitVec 66) <<< 64) }))

namespace Sys2Proof.Claims

/-- The instructions that act on registers, and channels, alone and never set a flag. -/
def flagFree : Instr → Bool
  | .guard .. | .vguard .. | .nop16 | .nop | .viaddI32S .. | .visubI32S .. | .viandS .. | .viorS .. | .vixorS ..
  | .vimaxI32S .. | .viminI32S .. | .vmovS .. | .vmaxF32S .. | .vminF32S ..
  | .add .. | .sub .. | .and .. | .or .. | .xor .. | .shl .. | .shr .. | .sra .. | .min .. | .max .. | .minn .. | .maxn ..
  | .mul .. | .mulh .. | .mulhn .. | .div .. | .divn .. | .rem .. | .remn .. | .clz .. | .popc .. | .bfx .. | .bfi ..
  | .cmp .. | .addi .. | .andi .. | .ori .. | .xori .. | .shli .. | .shri .. | .srai .. | .cmpi .. | .movi .. | .addpc ..
  | .vmin .. | .vmax .. | .vabs .. | .vneg .. | .viadd .. | .visub .. | .vimul .. | .vimin .. | .vimax .. | .viminn ..
  | .vimaxn .. | .viand .. | .vior .. | .vixor .. | .vishl .. | .vishr .. | .visra .. | .viabs .. | .vicmpeq .. | .vicmplt ..
  | .vicmpltn .. | .viaddsat .. | .vmov .. | .vsel .. | .vbcast .. | .vextr .. | .vins .. | .viota .. | .vperm .. | .vkey ..
  | .vpack .. | .vunpack .. => true
  | _ => false

/-- Those that may set flags. -/
def flagSetting : Instr → Bool
  | .cmpf .. | .fadd .. | .fsub .. | .fmul .. | .ftoi .. | .itof .. | .vaddF32S .. | .vsubF32S .. | .vmulF32S ..
  | .vfmaF32S .. | .vaddBf16S .. | .vfmaBf16S .. | .vadd .. | .vsub .. | .vmul .. | .vfma .. | .vfms .. | .vsqrt ..
  | .vrcp .. | .vrsq .. | .vexp2 .. | .vlog2 .. | .vscaleb .. | .vcmpeq .. | .vcmplt .. | .vcmple .. | .vcvtF2x ..
  | .vcvtX2f .. | .vcvtI2x .. | .vcvtX2i .. | .vrsum .. | .vrmax .. | .vrmin .. | .vramax .. | .vscan .. => true
  | _ => false

/-- The loads, exact reads and waits, and the joins and contributions, which change no byte when they are issued. -/
def readsOrJoins : Instr → Bool
  | .ldc .. | .ld .. | .ldz .. | .ldxW .. | .ldxD .. | .await .. | .awaitAny .. | .awaitFilled .. | .joinH .. | .joinW ..
  | .joinD .. | .joinHRel .. | .joinWRel .. | .joinDRel .. | .xjoinF .. | .xjoinI .. | .xjoinFRel .. | .xjoinIRel ..
  | .vld .. | .vlds .. | .vgather .. | .vldb .. | .vjoin .. | .vxjoin .. | .vlda .. => true
  | _ => false

/-- The registers after an instruction: only the destinations it names, the PC, ICOUNT and the sticky flags differ. -/
def RegisterFrame (i : Instr) (s t : State) : Prop :=
  t.cur.regs = { s.cur.regs with
    pc := t.cur.regs.pc, g := t.cur.regs.g, q := t.cur.regs.q, v := t.cur.regs.v, y := t.cur.regs.y
    status := t.cur.regs.status, icount := t.cur.regs.icount } ∧
  (∀ n : Fin 32, (n.val = 0 ∨ Dest.scalar (.g n) ∉ i.dests) → t.cur.regs.g[n] = s.cur.regs.g[n]) ∧
  ((∀ a, Dest.scalar (.q a) ∉ i.dests) → t.cur.regs.q = s.cur.regs.q) ∧
  (∀ n : Fin 16, Dest.vector (.v n) ∉ i.dests → t.cur.regs.v[n] = s.cur.regs.v[n]) ∧
  ((∀ a, Dest.vector (.y a) ∉ i.dests) → t.cur.regs.y = s.cur.regs.y)

/-- A context after a store on its core to some lines: what it has asked for is not left in L1 if it is one of them (R217). -/
def Spoiled (core : Nat) (lines : List Nat) (c : Context) : Context :=
  if c.core = core ∧ (c.asked = true ∨ c.lines ≠ []) then { c with spoilt := c.spoilt ++ lines } else c

end Sys2Proof.Claims

/-- R12, R143, R172, R193, R231: what a register instruction leaves alone, in whatever form, when the context goes on:
every byte of every space, every other core's work, every register but its destinations, the PC and ICOUNT, and every
status bit but the sticky flags, which it only sets, and only if it is one that has flags. R217, R221 to R228, R247 to
R253: a load, an exact read, a wait or a join that takes no fault changes no byte of memory, no metadata, no scratchpad byte,
no accumulator word and no watch when it is issued, and no register but its destination; LDC reads its home at once, and may
notify the host of it (R101, R102). -/
def Obligations.RegisterAndReadingFrames : Prop :=
  (∀ (i : Instr) (s t : State), (flagFree i = true ∨ flagSetting i = true) → s.busy = true → s.cur.status = .running →
    exec i s = .next t → t.busy = true →
    t = { s with cur := t.cur, chans := t.chans, ctxs := t.ctxs, nextSeq := t.nextSeq, stalled := t.stalled } ∧
    t.ctxs.map (fun c => (c.key, c.regs)) = s.ctxs.map (fun c => (c.key, c.regs)) ∧ RegisterFrame i s t ∧
    (flagFree i = true → t.cur.regs.status = s.cur.regs.status) ∧
    (∀ k, t.cur.regs.status.getLsbD k = true → s.cur.regs.status.getLsbD k = true ∨ k < 5) ∧
    (∀ k, s.cur.regs.status.getLsbD k = true → t.cur.regs.status.getLsbD k = true) ∧
    t.cur = { s.cur with
      regs := t.cur.regs, unit := t.cur.unit, viaTarget := t.cur.viaTarget, asked := t.cur.asked, reply := t.cur.reply
      lines := t.cur.lines, spoilt := t.cur.spoilt, dropL1 := t.cur.dropL1, lostReply := t.cur.lostReply, phase := t.cur.phase, operands := t.cur.operands
      voperand := t.cur.voperand, ahead := t.cur.ahead, items := t.cur.items }) ∧
  (∀ (i : Instr) (s t : State), readsOrJoins i = true → s.busy = true → s.cur.status = .running → exec i s = .next t →
    t.md = s.md ∧ t.scratch = s.scratch ∧ t.acc = s.acc ∧ t.spare = s.spare ∧ t.watches = s.watches ∧
    t.launches = s.launches ∧ t.bar1 = s.bar1 ∧ t.queues = s.queues ∧
    ((∀ c, t.ctx? s.cur.key = some c → c.status ≠ .stopped) → t.records = s.records ∧
      ((s.bar1.notifybase = 0 ∨ ∀ d imm, i ≠ .ldc d imm) → t.mem = s.mem) ∧
      ((∀ d imm, i ≠ .ldc d imm) → t.counters = s.counters)) ∧
    (t.busy = true → RegisterFrame i s t ∧ t.cur.regs.status = s.cur.regs.status))

/-- R121, R215, R217: a scalar store to the slice writes its bytes there and no other byte of any byte space. R86, R88,
R217: where a store's bytes go: a page's travel to their home as one message, the stack's and the slice's stand in
memory and the scratchpad at once, and nothing else of any byte space changes; of the lines of a stack only the replicas on the
store's own way are left, no answer on its way makes another, and none is left in the core's L1 (R111, R335). That a store to the stack stands in memory in
its own step is the model's choice (notes/assumptions/25.md). -/
def Obligations.StoresTakeTheirBytesAlone : Prop :=
  (∀ (v b : Fin 32) (size : Fin 4) (off : BitVec 11) (s : State),
    issues (.st (.g v) (.g b) size off) s = true → s.cur.slot = some .a → (s.cur.regs.readG b).mark = false →
    (let ea := (effective (s.cur.regs.readG b).bits off size).toNat
     let o := ea - 0x7FFFFFE00000
     ea % 2 ^ size.val = 0 → 0x7FFFFFE00000 ≤ ea → ea < 0x800000000000 → o + 2 ^ size.val ≤ s.cur.foot * 4096 →
     s.scratch.wf = true → s.cur.touchesBarrier o (2 ^ size.val) = false → s.touchesArea s.cur o (2 ^ size.val) = false →
     s.storeWaits s.cur o (2 ^ size.val) = false → s.cur.touchesDiscarded o (2 ^ size.val) = false →
     ∃ t : State, exec (.st (.g v) (.g b) size off) s = .next t ∧
       t.scratch.readN (s.cur.sliceBase + o) (2 ^ size.val) = (s.cur.regs.readG v).bits.toNat % 2 ^ (8 * 2 ^ size.val) ∧
       (∀ a, (a < s.cur.sliceBase + o ∨ s.cur.sliceBase + o + 2 ^ size.val ≤ a) →
         t.scratch.cells.read a = s.scratch.cells.read a ∧ t.scratch.marks.read a = s.scratch.marks.read a) ∧
       t.mem = s.mem ∧ t.md = s.md ∧ t.acc = s.acc ∧ t.msgs = s.msgs ∧
       t.cur.regs = { s.cur.regs with pc := nextOf s.cur 4, icount := s.cur.regs.icount + 1 })) ∧
  ((∀ (l : Leaf) (n va x marks : Nat) (s : State), ∃ (t : State) (m : Msg), Gives (writePlace (.page l) n va x marks) s () t ∧
    t.mem = s.mem ∧ t.md = s.md ∧ t.scratch = s.scratch ∧ t.acc = s.acc ∧ t.cur.regs = s.cur.regs ∧
    t.msgs = s.msgs ++ [m] ∧ m.src = .core s.cur.core ∧ m.dst = homeNode (l.key va) ∧ m.loc = .source ∧
    m.body = .store (l.key va) n (BitVec.ofNat 1024 x) (BitVec.ofNat 128 marks)
      { who := .ctx s.cur.key s.cur.nextOut, va := BitVec.ofNat 64 va }) ∧
  (∀ (pa n va x marks : Nat) (s : State), s.lostCode pa (dieOf s.cur.core) = none → s.mem.wf = true →
    ∃ t : State, Gives (writePlace (.stack pa) n va x marks) s () t ∧
      t = { s with mem := t.mem, replicas := t.replicas, msgs := t.msgs, cores := t.cores, ctxs := t.ctxs, cur := t.cur } ∧
      (∀ r ∈ t.replicas, r.snap.line ∈ linesOf pa n → some r.gate = s.gateFor s.cur.core (128 * r.snap.line) ∧
        (r.snap.ty = 0 → r.snap.data = (t.snap r.snap.line 0).data)) ∧
      (∀ r, r.snap.line ∉ linesOf pa n → (r ∈ t.replicas ↔ r ∈ s.replicas)) ∧
      t.msgs.map (fun m => (m.id, m.body, m.loc)) = s.msgs.map (fun m => (m.id, m.body, m.loc)) ∧
      (∀ m ∈ t.msgs, ∀ y, m.snap = some y → y.line ∈ linesOf pa n → m.stale = true) ∧
      (∀ y ∈ (t.core s.cur.core).l1, y.snap.line ∉ linesOf pa n) ∧
      (∀ y, y.snap.line ∉ linesOf pa n → (y ∈ (t.core s.cur.core).l1 ↔ y ∈ (s.core s.cur.core).l1)) ∧
      (∀ k, k ≠ s.cur.core → t.core k = s.core k) ∧
      t.ctxs = s.ctxs.map (Spoiled s.cur.core (linesOf pa n)) ∧
      t.cur = (if s.busy then Spoiled s.cur.core (linesOf pa n) s.cur else s.cur) ∧
      t.mem.readN pa n = x % 2 ^ (8 * n) ∧
      (∀ a, (a < pa ∨ pa + n ≤ a) → t.mem.cells.read a = s.mem.cells.read a ∧ t.mem.marks.read a = s.mem.marks.read a)) ∧
  (∀ (o n va x marks : Nat) (s : State), s.busy = true → s.cur.inH = false → s.cur.touchesDiscarded o n = false →
    s.scratch.wf = true →
    ∃ t : State, Gives (writePlace (.slice o) n va x marks) s () t ∧ t = { s with scratch := t.scratch } ∧
      t.scratch.readN (s.cur.sliceBase + o) n = x % 2 ^ (8 * n) ∧
      (∀ a, (a < s.cur.sliceBase + o ∨ s.cur.sliceBase + o + n ≤ a) →
        t.scratch.cells.read a = s.scratch.cells.read a ∧ t.scratch.marks.read a = s.scratch.marks.read a)) ∧
  (∀ (o n va x marks : Nat) (s : State), s.busy = true → s.cur.inH = true → s.cur.touchesDiscarded o n = false →
    s.cur.area.wf = true →
    ∃ t : State, Gives (writePlace (.slice o) n va x marks) s () t ∧ t = { s with cur := { s.cur with area := t.cur.area } } ∧
      t.cur.area.readN o n = x % 2 ^ (8 * n) ∧
      (∀ a, (a < o ∨ o + n ≤ a) → t.cur.area.cells.read a = s.cur.area.cells.read a)))

namespace Sys2Proof.Claims

/-- A request of a body stands at its home, which is reached and has room for the answers (R114), and its translation is not
counted. -/
def AtHome (s : State) (m : Nat) (x : Msg) (b : Body) : Prop :=
  s.msg? m = some x ∧ x.loc = .arrived ∧ x.body = b ∧ s.homeFault x = none ∧ x.cnt = false ∧ s.hasRoom x = true

/-- The request is gone, and whoever asked has an answer on its way from the home, if it still exists. -/
def Answered (s t : State) (m : Nat) (x : Msg) (w : Who) (b : Body) : Prop :=
  (m < s.nextMsg → t.msg? m = none) ∧
    ∀ core, s.coreOf w = some core → ∃ a ∈ t.msgs, a.body = b ∧ a.src = x.dst ∧ a.dst = .core core

/-- Every contributor has an acknowledgement on its way (R117). -/
def AllAcked (s t : State) (m : Nat) (x : Msg) (code : Option FaultCode) : Prop :=
  ∀ tag ∈ x.body.tags, Answered s t m x tag.who (.ack tag code)

/-- The join of two values of `w` bits, by type (R60). -/
def Joined (ty w old new r : Nat) : Prop :=
  r < 2 ^ w ∧ match ty with
    | 2 => signed w r = max (signed w old) (signed w new)
    | 3 => r = max old new
    | 4 => orderKey w r = max (orderKey w old) (orderKey w new)
    | 5 => signed w r = min (signed w old) (signed w new)
    | 6 => r = min old new
    | 7 => orderKey w r = min (orderKey w old) (orderKey w new)
    | 8 => r = old ||| new
    | 9 => r = min (old + new) (2 ^ w - 1)
    | _ => False

/-- A value passes a threshold, by type (R61). -/
def Passes (ty w value : Nat) (trig : Word) : Prop :=
  let t := trig.toNat % 2 ^ w
  match ty with
  | 2 => signed w t ≤ signed w value
  | 3 => t ≤ value
  | 4 => orderKey w t ≤ orderKey w value
  | 5 => signed w value ≤ signed w t
  | 6 => value ≤ t
  | 7 => orderKey w value ≤ orderKey w t
  | 8 => value &&& t = t
  | 9 => trig.toNat ≤ value
  | 10 => trig.toNat ≤ value / 2 ^ 96
  | _ => False

/-- The bytes outside a range of memory are as before. -/
def MemOutside (s t : State) (a n : Nat) : Prop :=
  ∀ b, (b < a ∨ a + n ≤ b) → t.mem.cells.read b = s.mem.cells.read b ∧ t.mem.marks.read b = s.mem.marks.read b

/-- The watches of a line have been tested again (R67): one whose test resolves is retired and its answer on its way, one whose
test does not is held on, as is every watch of another line; WATCHED says whether one is held (R63). -/
def Retested (s t : State) (line : Nat) : Prop :=
  (∀ w ∈ t.watches, w ∈ s.watches) ∧ (∀ w ∈ s.watches, w.cell / 128 ≠ line → w ∈ t.watches) ∧
  (∀ w ∈ s.watches, w.cell / 128 = line →
    (t.testLine w.cell w.ty w.kind = none → w ∈ t.watches) ∧
    ∀ r, t.testLine w.cell w.ty w.kind = some r → w ∉ t.watches ∧
      ∀ core, s.coreOf w.who = some core → ∃ a ∈ t.msgs, a.body = .result w.who r ∧ a.src = w.home ∧ a.dst = .core core) ∧
  ((∃ w ∈ s.watches, w.cell / 128 = line) →
    (mdWatched (t.md.read line) = true ↔ ∃ w ∈ t.watches, w.cell / 128 = line))

/-- No gateway answers for the line any more, or may (R111). -/
def NoReplica (s : State) (line : Nat) : Prop := s.invalidating line = false ∧ ∀ r ∈ s.replicas, r.snap.line ≠ line

/-- A request under a counting translation stands at its home: there, and in what it does, it is as one that is not counted,
once its access has been (R101, R102). -/
def CountsFirst (i : Nat → Instr) (s : State) (m : Nat) (x : Msg) : Prop :=
  s.msg? m = some x → x.loc = .arrived → s.homeFault x = none → x.cnt = true → s.hasRoom x = true →
    exec (i m) s = exec (i m) ((s.countAt true x.body.key x.va x.asid).putMsg { x with cnt := false })

/-- What counting an access does (R101): the counter of the 64 KiB of second-tier or host memory goes on by 1, to 65,535 at
most, and nothing else changes but where it reaches the threshold. -/
def CountingRule : Prop :=
  ∀ (cnt : Bool) (key : Nat) (va : Word) (asid : BitVec 12) (s : State),
    (let t := s.countAt cnt key va asid
     let counted := cnt && (secondTier key 1 || hostMemory key 1)
     (counted = false → t = s) ∧
     (counted = true → t.counter (key / 65536) = min 65535 (s.counter (key / 65536) + 1) ∨
       65535 < s.counter (key / 65536)) ∧
     (∀ u, u ≠ key / 65536 → t.counter u = s.counter u) ∧
     (s.counter (key / 65536) + 1 ≠ s.bar1.cntthresh → t = { s with counters := t.counters }))

/-- The metadata of every other line is as before. -/
def MdOutside (s t : State) (line : Nat) : Prop := ∀ k, k ≠ line → t.md.read k = s.md.read k

end Sys2Proof.Claims

/-- R60, R62 to R64, R75, R79: a join at its home: the cell becomes the join of old and new, starting from the bottom of its
type in a line without a width, whose other cells become bottom; FXSUM adds exactly and counts. A frozen line or another width
is refused with nothing changed. R67: the watches of the line are tested again; R101: a request under a counting translation
is counted first. R111: a marked join waits until no gateway answers for the line. Every contributor is acknowledged. That a
frozen line of another width is refused with WRITE_AFTER_FREEZE is the model's choice (notes/assumptions/32.md). -/
def Obligations.HomesPerformJoins : Prop :=
  (∀ (m : Nat) (s : State) (x : Msg) (j : JoinReq), AtHome s m x (.join j) → j.mark = false →
    Sys2Proof.Safety.memoryOk s → 2 ≤ j.ty → j.ty ≤ 9 → j.width ∈ [16, 32, 64] → j.cell % (j.width / 8) = 0 → 0 ≤ j.val →
    j.val < 2 ^ j.width →
    (let line := j.cell / 128
     let n := j.width / 8
     let unset := mdWidth (s.md.read line) = 0
     mdState (s.md.read line) ≠ 2 → (unset ∨ mdWidth (s.md.read line) = widthCode j.width) →
     ∃ t : State, Leads (.homeJoin m) s t ∧ AllAcked s t m x none ∧
       Joined j.ty j.width (if unset then cellBottom j.ty j.width else s.mem.readN j.cell n) j.val.toNat (t.mem.readN j.cell n) ∧
       (∀ k, k < 128 / n → 128 * line + k * n ≠ j.cell → t.mem.readN (128 * line + k * n) n =
         if unset then cellBottom j.ty j.width else s.mem.readN (128 * line + k * n) n) ∧
       MemOutside s t (128 * line) 128 ∧ MdOutside s t line ∧ mdWidth (t.md.read line) = widthCode j.width ∧
       mdState (t.md.read line) = mdState (s.md.read line) ∧ mdPoison (t.md.read line) = mdPoison (s.md.read line) ∧
       Retested s t line)) ∧
  (∀ (m : Nat) (s : State) (x : Msg) (j : JoinReq), AtHome s m x (.join j) → j.mark = false → Sys2Proof.Safety.memoryOk s →
    j.ty = 10 → j.width = 128 → j.cell % 16 = 0 → mdState (s.md.read (j.cell / 128)) ≠ 2 →
    (let unset := mdWidth (s.md.read (j.cell / 128)) = 0
     let old := if unset then 0 else s.mem.readN j.cell 16
     (unset ∨ mdWidth (s.md.read (j.cell / 128)) = 3) →
     ∃ t : State, Leads (.homeJoin m) s t ∧ AllAcked s t m x none ∧
       t.mem.readN j.cell 12 = ((signed 96 old + j.val) % 2 ^ 96).toNat ∧
       t.mem.readN (j.cell + 12) 4 = min (old / 2 ^ 96 + j.count) (2 ^ 32 - 1) ∧
       MemOutside s t (128 * (j.cell / 128)) 128 ∧ mdWidth (t.md.read (j.cell / 128)) = 3 ∧
       Retested s t (j.cell / 128))) ∧
  (∀ (m : Nat) (s : State) (x : Msg) (j : JoinReq), AtHome s m x (.join j) → mdState (s.md.read (j.cell / 128)) = 2 →
    ∃ t : State, Leads (.homeJoin m) s t ∧ AllAcked s t m x (some .writeAfterFreeze) ∧ t.mem = s.mem ∧ t.md = s.md) ∧
  (∀ (m : Nat) (s : State) (x : Msg) (j : JoinReq), AtHome s m x (.join j) →
    (j.mark = true → NoReplica s (j.cell / 128)) →
    mdState (s.md.read (j.cell / 128)) ≠ 2 → mdWidth (s.md.read (j.cell / 128)) ≠ 0 →
    mdWidth (s.md.read (j.cell / 128)) ≠ widthCode j.width →
    ∃ t : State, Leads (.homeJoin m) s t ∧ AllAcked s t m x (some .widthMismatch) ∧ t.mem = s.mem ∧ t.md = s.md) ∧
  (∀ (m : Nat) (s : State) (x : Msg) (j : JoinReq), AtHome s m x (.join j) → j.mark = true → Sys2Proof.Safety.memoryOk s →
    (let line := j.cell / 128
     mdState (s.md.read line) ≠ 2 → (mdWidth (s.md.read line) = 0 ∨ mdWidth (s.md.read line) = widthCode j.width) →
     NoReplica s line →
     ∃ t : State, Leads (.homeJoin m) s t ∧ AllAcked s t m x none ∧ mdPoison (t.md.read line) = true ∧
       mdState (t.md.read line) = mdState (s.md.read line) ∧ mdWidth (t.md.read line) = widthCode j.width ∧
       Retested s t line ∧ (s.bar1.logsize = 0 → j.width ∈ [16, 32, 64, 128] → j.cell % (j.width / 8) = 0 →
         MemOutside s t (128 * line) 128 ∧
         (2 ≤ j.ty → j.ty ≤ 9 → j.width ≤ 64 → 0 ≤ j.val → j.val < 2 ^ j.width →
           Joined j.ty j.width (if mdWidth (s.md.read line) = 0 then cellBottom j.ty j.width
             else s.mem.readN j.cell (j.width / 8)) j.val.toNat (t.mem.readN j.cell (j.width / 8)))))) ∧
  (∀ (m : Nat) (s : State) (x : Msg) (j : JoinReq), AtHome s m x (.join j) → j.mark = true →
    mdState (s.md.read (j.cell / 128)) ≠ 2 → ¬ NoReplica s (j.cell / 128) →
    Leads (.homeJoin m) s (s.invalidateAll (j.cell / 128))) ∧
  CountingRule ∧
  (∀ (m : Nat) (s : State) (x : Msg) (j : JoinReq), x.body = .join j →
    (j.mark = true → NoReplica s (j.cell / 128)) → CountsFirst .homeJoin s m x)

/-- R73, R74, R77, R79, R105, R335: fills, freezes, stores and reads at their home: what they leave in the line and its
metadata, and what is answered; a fill that poisons its line waits for the gateways (R111), and after a store no answer that
left before it makes a replica of the line. A freeze of a line without a width leaves bottom in every cell, zeros in a FILL1
line. The watches of the line are tested again. R61, R67 to R71: a threshold test: on a poisoned line, or of an address that
is no cell of it, it ends so; else it passes, or cannot pass any more, or is held as a watch; a probe is answered at once.
R101: a request under a counting translation is counted first, and so is a test at each home it is sent on from (R105;
notes/assumptions/60.md). -/
def Obligations.HomesFillFreezeReadAndTest : Prop :=
  ((∀ (m line : Nat) (data : BitVec 1024) (tag : Tag) (s : State) (x : Msg), AtHome s m x (.fill line data false tag) →
    Sys2Proof.Safety.memoryOk s → (let md := s.md.read line
    (mdState md = 0 → ∃ t : State, Leads (.homeFill m) s t ∧ AllAcked s t m x none ∧ t.mem.readN (128 * line) 128 = data.toNat ∧
      MemOutside s t (128 * line) 128 ∧ MdOutside s t line ∧ mdState (t.md.read line) = 1 ∧ mdWidth (t.md.read line) = 1 ∧
      mdPoison (t.md.read line) = mdPoison md ∧ Retested s t line) ∧
    (mdState md = 1 → s.mem.readN (128 * line) 128 = data.toNat →
      ∃ t : State, Leads (.homeFill m) s t ∧ AllAcked s t m x none ∧ t.mem = s.mem ∧ t.md = s.md) ∧
    (mdState md = 1 → s.mem.readN (128 * line) 128 ≠ data.toNat →
      ((s.invalidating line = true ∨ ∃ r ∈ s.replicas, r.snap.line = line) → Leads (.homeFill m) s (s.invalidateAll line)) ∧
      (s.invalidating line = false → (∀ r ∈ s.replicas, r.snap.line ≠ line) →
        ∃ t : State, Leads (.homeFill m) s t ∧ AllAcked s t m x (some .fillConflict) ∧ mdPoison (t.md.read line) = true ∧
          Retested s t line)) ∧
    (mdState md = 2 → ∃ t : State, Leads (.homeFill m) s t ∧ AllAcked s t m x (some .writeAfterFreeze) ∧ t.mem = s.mem ∧
      t.md = s.md))) ∧
  (∀ (m line : Nat) (data : BitVec 1024) (tag : Tag) (s : State) (x : Msg), AtHome s m x (.fill line data true tag) →
    Sys2Proof.Safety.memoryOk s → (let md := s.md.read line
    (mdState md ≠ 2 → ¬ NoReplica s line → Leads (.homeFill m) s (s.invalidateAll line)) ∧
    (mdState md = 0 → NoReplica s line → ∃ t : State, Leads (.homeFill m) s t ∧ AllAcked s t m x none ∧
      (s.bar1.logsize = 0 → t.mem.readN (128 * line) 128 = data.toNat ∧ MemOutside s t (128 * line) 128) ∧
      MdOutside s t line ∧ mdState (t.md.read line) = 1 ∧ mdWidth (t.md.read line) = 1 ∧ mdPoison (t.md.read line) = true ∧
      Retested s t line) ∧
    (mdState md = 1 → NoReplica s line → ∃ t : State, Leads (.homeFill m) s t ∧
      AllAcked s t m x (if s.mem.readN (128 * line) 128 = data.toNat then none else some .fillConflict) ∧
      (s.bar1.logsize = 0 → t.mem = s.mem) ∧ mdState (t.md.read line) = 1 ∧ mdPoison (t.md.read line) = true ∧
      Retested s t line) ∧
    (mdState md = 2 → ∃ t : State, Leads (.homeFill m) s t ∧ AllAcked s t m x (some .writeAfterFreeze) ∧ t.mem = s.mem ∧
      t.md = s.md))) ∧
  (∀ (m line ty : Nat) (tag : Tag) (s : State) (x : Msg), AtHome s m x (.freeze line ty tag) →
    Sys2Proof.Safety.memoryOk s → ∃ t : State, Leads (.homeFreeze m) s t ∧ AllAcked s t m x none ∧ mdState (t.md.read line) = 2 ∧
      mdPoison (t.md.read line) = mdPoison (s.md.read line) ∧ MemOutside s t (128 * line) 128 ∧ MdOutside s t line ∧
      (mdWidth (s.md.read line) ≠ 0 → t.mem = s.mem ∧ mdWidth (t.md.read line) = mdWidth (s.md.read line)) ∧
      (mdState (s.md.read line) = 2 → t.mem = s.mem ∧ t.md = s.md) ∧
      (mdState (s.md.read line) ≠ 2 → Retested s t line ∧ (mdWidth (s.md.read line) = 0 →
        (ty = 1 → t.mem.readN (128 * line) 128 = 0 ∧ mdWidth (t.md.read line) = 0) ∧
        (ty ≠ 1 → let n := if ty = 10 then 16 else 8
          mdWidth (t.md.read line) = 3 ∧
            ∀ k, k < 128 / n → t.mem.readN (128 * line + k * n) n = cellBottom ty (8 * n))))) ∧
  (∀ (m pa n : Nat) (data : BitVec 1024) (marks : BitVec 128) (tag : Tag) (s : State) (x : Msg),
    AtHome s m x (.store pa n data marks tag) → Sys2Proof.Safety.memoryOk s → s.olderStore x = false →
    s.invalidating (pa / 128) = false → (∀ r ∈ s.replicas, r.snap.line ≠ pa / 128) →
    ∃ t : State, Leads (.homeStore m) s t ∧ AllAcked s t m x none ∧ t.mem.readN pa n = data.toNat % 2 ^ (8 * n) ∧
      MemOutside s t pa n ∧ t.md = s.md ∧ ∀ a ∈ t.msgs, ∀ y, a.snap = some y → y.line = pa / 128 → a.stale = true) ∧
  (∀ (m line ty : Nat) (w : Who) (s : State) (x : Msg), AtHome s m x (.load line ty w) →
    ∃ t : State, Leads (.homeLoad m) s t ∧ Answered s t m x w (.data w none) ∧ t.mem = s.mem ∧ t.md = s.md ∧
      ∀ a ∈ t.msgs, a ∉ s.msgs → a.snap = some (s.snap line ty)) ∧
  (∀ (m line ty : Nat) (w : Who) (s : State) (x : Msg), AtHome s m x (.exact line ty w) →
    (let md := s.md.read line
     ∃ t : State, Leads (.homeExactRead m) s t ∧ t.mem = s.mem ∧ t.md = s.md ∧
       (mdPoison md = true → Answered s t m x w (.data w (some .poison))) ∧
       (mdPoison md = false → mdState md = 0 → Answered s t m x w (.data w (some .prematureRead))) ∧
       (mdPoison md = false → mdState md ≠ 0 → Answered s t m x w (.data w none) ∧
         ∀ a ∈ t.msgs, a ∉ s.msgs → a.snap = some (s.snap line ty))))) ∧
  ((∀ (m cell ty : Nat) (arg : BitVec 8) (k : TestKind) (trig : Word) (w : Who) (s : State) (x : Msg),
    AtHome s m x (.test cell ty arg k w) → (k = .await trig ∨ k = .probe trig) →
    (∀ f ∈ s.forwards, f.1 ≠ cell / 128) → 2 ≤ ty → ty ≤ 10 →
    (let line := cell / 128
     let md := s.md.read line
     let n := widthBytes ty (mdWidth md)
     let unset := mdWidth md = 0
     let passes := if unset then trig = 0 ∧ (ty = 3 ∨ ty = 8 ∨ ty = 9 ∨ ty = 10)
       else Passes ty (8 * n) (s.mem.readN cell n) trig
     mdPoison md = false → (unset → mdState md = 0) → (¬ unset → cell % n = 0) →
     ∃ t : State, Leads (.thresholdTest m) s t ∧ t.mem = s.mem ∧
       (passes → Answered s t m x w (.result w (.passed 0 0)) ∧ t.watches = s.watches ∧ t.md = s.md) ∧
       (¬ passes → mdState md = 2 → Answered s t m x w (.result w .unreachable) ∧ t.watches = s.watches ∧ t.md = s.md) ∧
       (¬ passes → mdState md ≠ 2 → k = .probe trig →
         Answered s t m x w (.result w .notPassed) ∧ t.watches = s.watches ∧ t.md = s.md) ∧
       (¬ passes → mdState md ≠ 2 → k = .await trig →
         (Sys2Proof.Safety.memoryOk s → MdOutside s t line ∧ mdWatched (t.md.read line) = true) ∧
         t.watches = s.watches ++ [{ cell := cell, ty := ty, arg := arg, kind := k, who := w, va := x.va, home := x.dst
                                     asid := x.asid, gen := x.gen }]))) ∧
  (∀ (m cell : Nat) (arg : BitVec 8) (w : Who) (s : State) (x : Msg), AtHome s m x (.test cell 1 arg .filled w) →
    (∀ f ∈ s.forwards, f.1 ≠ cell / 128) →
    (let md := s.md.read (cell / 128)
     mdPoison md = false → ∃ t : State, Leads (.thresholdTest m) s t ∧ t.mem = s.mem ∧
       (mdWidth md = 1 → Answered s t m x w (.result w (.passed 0
         (BitVec.ofNat 64 (s.mem.readN (128 * (cell / 128)) 8)))) ∧ t.watches = s.watches) ∧
       (mdWidth md ≠ 1 → mdState md = 2 → Answered s t m x w (.result w .unreachable) ∧ t.watches = s.watches) ∧
       (mdWidth md ≠ 1 → mdState md ≠ 2 → ∃ h : Watch, t.watches = s.watches ++ [h] ∧ h.cell = cell ∧ h.who = w)))) ∧
  ((∀ (m cell ty : Nat) (arg : BitVec 8) (k : TestKind) (w : Who) (s : State) (x : Msg),
    AtHome s m x (.test cell ty arg k w) → (∀ f ∈ s.forwards, f.1 ≠ cell / 128) → 1 ≤ ty → ty ≤ 10 →
    (let md := s.md.read (cell / 128)
     let n := widthBytes ty (mdWidth md)
     let apart := ty ≠ 1 ∧ mdWidth md ≠ 0 ∧ cell % n ≠ 0
     ∃ t : State, Leads (.thresholdTest m) s t ∧ t.mem = s.mem ∧
       (apart → (∀ trig, k ≠ .probe trig) → Answered s t m x w (.result w .misaligned) ∧ t.watches = s.watches ∧ t.md = s.md) ∧
       (mdPoison md = true → (¬ apart ∨ ∃ trig, k = .probe trig) →
         Answered s t m x w (.result w .poison) ∧ t.watches = s.watches ∧ t.md = s.md) ∧
       (∀ trig, mdPoison md = false → apart → k = .probe trig →
         (let passes := Passes ty (8 * n) (s.mem.readN (cell - cell % n) n) trig
          (passes → Answered s t m x w (.result w (.passed 0 0))) ∧
          (¬ passes → mdState md = 2 → Answered s t m x w (.result w .unreachable)) ∧
          (¬ passes → mdState md ≠ 2 → Answered s t m x w (.result w .notPassed)))))) ∧
  (∀ (m cell : Nat) (arg : BitVec 8) (trigs : List Word) (w : Who) (s : State) (x : Msg),
    AtHome s m x (.test cell 1 arg (.any trigs) w) → (∀ f ∈ s.forwards, f.1 ≠ cell / 128) →
    (let md := s.md.read (cell / 128)
     let first : Word := BitVec.ofNat 64 (s.mem.readN (128 * (cell / 128)) 8)
     mdPoison md = false → ∃ t : State, Leads (.thresholdTest m) s t ∧ t.mem = s.mem ∧
       (∀ i : Nat, mdWidth md = 1 → trigs[i]? = some first → (∀ j : Nat, j < i → trigs[j]? ≠ some first) →
         Answered s t m x w (.result w (.passed i first)) ∧ t.watches = s.watches) ∧
       ((mdWidth md = 1 ∧ first ∉ trigs ∨ mdWidth md ≠ 1 ∧ mdState md = 2) →
         Answered s t m x w (.result w .unreachable) ∧ t.watches = s.watches) ∧
       (mdWidth md ≠ 1 → mdState md ≠ 2 → ∃ h : Watch, t.watches = s.watches ++ [h] ∧ h.cell = cell ∧ h.who = w))) ∧
  (∀ (m : Nat) (s : State) (x : Msg),
    (∀ line data mark tag, x.body = .fill line data mark tag →
      (NoReplica s line ∨ s.fillPoisons line data mark = false ∧ s.counter (line / 512) + 1 ≠ s.bar1.cntthresh) →
      CountsFirst .homeFill s m x) ∧
    (∀ line ty tag, x.body = .freeze line ty tag → CountsFirst .homeFreeze s m x) ∧
    (∀ pa n data marks tag, x.body = .store pa n data marks tag → s.olderStore x = false → NoReplica s (pa / 128) →
      CountsFirst .homeStore s m x) ∧
    (∀ line ty w, x.body = .load line ty w → CountsFirst .homeLoad s m x) ∧
    (∀ line ty w, x.body = .exact line ty w → CountsFirst .homeExactRead s m x) ∧
    (∀ cell ty arg k w, x.body = .test cell ty arg k w → (∀ f ∈ s.forwards, f.1 ≠ cell / 128) →
      CountsFirst .thresholdTest s m x)) ∧
  (∀ (m cell ty dest : Nat) (arg : BitVec 8) (k : TestKind) (w : Who) (s : State) (x : Msg),
    AtHome s m x (.test cell ty arg k w) → s.forwards.find? (fun f => f.1 == cell / 128) = some (cell / 128, dest) →
    ∃ (t : State) (y : Msg), Leads (.thresholdTest m) s t ∧ t.msg? m = some y ∧ y.loc = .source ∧ y.src = x.dst ∧
      y.dst = homeNode (128 * dest + cell % 128) ∧ y.body = .test (128 * dest + cell % 128) ty arg k w ∧ t.watches = s.watches ∧
      t.mem = s.mem ∧ t.md = s.md) ∧
  (∀ (m cell ty dest : Nat) (arg : BitVec 8) (k : TestKind) (w : Who) (s : State) (x : Msg), s.msg? m = some x →
    x.loc = .arrived → x.body = .test cell ty arg k w → s.homeFault x = none → x.cnt = true → s.hasRoom x = true →
    s.forwards.find? (fun f => f.1 == cell / 128) = some (cell / 128, dest) →
    ∃ (t : State) (y : Msg), Leads (.thresholdTest m) s t ∧ t.msg? m = some y ∧ y.loc = .source ∧
      y.body = .test (128 * dest + cell % 128) ty arg k w ∧ y.cnt = true ∧
      t.counters = (s.countAt true x.body.key x.va x.asid).counters ∧ t.watches = s.watches))

namespace Sys2Proof.Claims

/-- A message stands at a place. -/
def Stands (s : State) (m : Nat) (x : Msg) (l : Loc) : Prop := s.msg? m = some x ∧ x.loc = l

/-- The message goes on to a place and nothing else changes; a request that enters a gateway or a link counts as having
passed it (R289). -/
def MovesTo (s t : State) (x : Msg) (l : Loc) : Prop :=
  ∃ y : Msg, t.msg? x.id = some y ∧
    y = { x with loc := l, dateline := y.dateline, fails := y.fails, way := y.way, turned := y.turned } ∧
    (∀ k, k ≠ x.id → t.msg? k = s.msg? k) ∧ t.mem = s.mem ∧ t.md = s.md ∧ t.scratch = s.scratch ∧
    t.replicas = s.replicas

/-- The message goes on to a place on another ring edge or link: what it carries of its way there. -/
def GoesRound (s t : State) (x : Msg) (l : Loc) (way : Option (Nat × Bool)) (dateline : Bool) : Prop :=
  MovesTo s t x l ∧ ∀ y, t.msg? x.id = some y → y.way = way ∧ y.dateline = dateline

/-- The access of a request has failed with a code: whoever asked has that as its answer, at its core (R120, R347). -/
def FailedWith (s t : State) (x : Msg) (code : FaultCode) : Prop :=
  (x.id < s.nextMsg → t.msg? x.id = none) ∧ t.mem = s.mem ∧ t.md = s.md ∧
    ∀ (w : Who) (core : Nat), s.coreOf w = some core →
      (∀ line ty, (x.body = .load line ty w ∨ x.body = .exact line ty w) →
        ∃ a ∈ t.msgs, a.body = .data w (some code) ∧ a.dst = .core core ∧ a.loc = .arrived) ∧
      (∀ cell ty arg k, x.body = .test cell ty arg k w →
        ∃ a ∈ t.msgs, a.body = .result w (.lost code) ∧ a.dst = .core core ∧ a.loc = .arrived) ∧
      ∀ tag ∈ x.body.tags, tag.who = w →
        ∃ a ∈ t.msgs, a.body = .ack tag (some code) ∧ a.dst = .core core ∧ a.loc = .arrived

/-- An answer that cannot reach its issuer: HOME_LOST stands at the issuer in its place (R120, R374). -/
def AnswerLost (t : State) (x : Msg) : Prop :=
  ∃ y : Msg, t.msg? x.id = some y ∧ y.loc = .arrived ∧ y.dst = x.dst ∧ y.snap = none ∧
    (∀ tag c, x.body = .ack tag c → y.body = .ack tag (some .homeLost)) ∧
    (∀ w c, x.body = .data w c → y.body = .data w (some .homeLost)) ∧
    (∀ w r, x.body = .result w r → y.body = .result w (.lost .homeLost))

/-- The base die a message makes for: its destination's, or that of the link on which it leaves the package (R113, R118). -/
def MakesFor (s : State) (x : Msg) (die : Nat) : Prop :=
  ((∀ p d, x.dst ≠ .remote p d) ∧ x.dst.place.1 = die) ∨
    ∃ p d l, x.dst = .remote p d ∧ s.linkFor p (x.body.key % 2 ^ 52) = some l ∧ linkDie l = die

/-- The way round the ring of base dies (R113, R374): no edge of it has failed, where one way is whole; the shorter one where
both are, and of two equally long ones that without the edge from BD3 to BD0. -/
def RingRule : Prop :=
  ∀ (dead : BitVec 4) (a b : Nat), a < 4 → b < 4 → a ≠ b →
    (let whole (es : List Nat) : Prop := ∀ e ∈ es, dead.getLsbD e = false
     let east := eastEdges a b
     let west := eastEdges b a
     (ringEast dead a b = none ↔ ¬ whole east ∧ ¬ whole west) ∧ (whole east → ¬ whole west → ringEast dead a b = some true) ∧
     (whole west → ¬ whole east → ringEast dead a b = some false) ∧
     (whole east → whole west → east.length < west.length → ringEast dead a b = some true) ∧
     (whole east → whole west → west.length < east.length → ringEast dead a b = some false) ∧
     (whole east → whole west → east.length = west.length → ringEast dead a b = some (decide (3 ∉ east))))

/-- The link on which a message leaves for another package (R118 to R120): of the first dimension in which they differ, the
shorter way round, the positive one on a tie; of its two links the one PA[7] names, else the other, and with both down one of
the opposite direction. -/
def LinkRule : Prop :=
  ∀ (s : State) (own : BitVec 12) (pkg pa k : Nat), s.ownId = some own → k < 3 →
    (∀ j, j < k → bitsOf own.toNat (4 * j) 4 = bitsOf pkg (4 * j) 4) →
    bitsOf own.toNat (4 * k) 4 ≠ bitsOf pkg (4 * k) 4 →
    (let n := s.ring k
     let up := decide (2 * ((bitsOf pkg (4 * k) 4 + n - bitsOf own.toNat (4 * k) 4) % n) ≤ n)
     let link (u b : Bool) : Fin 12 := Fin.ofNat 12 (2 * k + (if u then 0 else 1) + (if b then 6 else 0))
     let b := decide (bitsOf pa 7 1 = 1)
     s.linkFor pkg pa = if s.linkUp (link up b) then some (link up b).val else if s.linkUp (link up !b) then some (link up !b).val
       else if s.linkUp (link (!up) b) then some (link (!up) b).val
       else if s.linkUp (link (!up) !b) then some (link (!up) !b).val else none)

/-- The next package on the way round a dimension's ring, and where the dateline lies (R119). -/
def NeighbourRule : Prop :=
  ∀ (s : State) (a k : Nat) (up : Bool), k < 3 → s.ring k ≤ 16 → bitsOf a (4 * k) 4 < s.ring k →
    (let x := bitsOf a (4 * k) 4
     let n := s.ring k
     bitsOf (s.neighbour a k up).1 (4 * k) 4 = (if up then (x + 1) % n else (x + n - 1) % n) ∧
     (∀ j, j < 3 → j ≠ k → bitsOf (s.neighbour a k up).1 (4 * j) 4 = bitsOf a (4 * j) 4) ∧
     ((s.neighbour a k up).2 = true ↔ if up then x + 1 = n else x = 0))

/-- The dimension and the direction in which a message goes on (R119, R120): the way it is on, until that coordinate is right.
-/
def HeadingRule : Prop :=
  ∀ (s : State) (way : Option (Nat × Bool)) (a b k : Nat), k < 3 →
    (∀ j, j < k → bitsOf a (4 * j) 4 = bitsOf b (4 * j) 4) → bitsOf a (4 * k) 4 ≠ bitsOf b (4 * k) 4 →
    (∀ up, way = some (k, up) → s.heading way a b = some (k, up)) ∧
    ((∀ up, way ≠ some (k, up)) → s.heading way a b = some (k,
      decide (2 * ((bitsOf b (4 * k) 4 + s.ring k - bitsOf a (4 * k) 4) % s.ring k) ≤ s.ring k)))

/-- A message from another package is on a link of this one, on its last hop: from the package before this one round the ring,
by the link of that direction that is up (R118 to R120). -/
def ComingIn (s : State) (m : Msg) (l : Nat) : Prop :=
  ∃ q k up own, m.loc = .package q ∧ (∀ p d, m.dst ≠ .remote p d) ∧ s.ownId = some own ∧
    s.heading m.way q own.toNat = some (k, up) ∧ (s.neighbour q k up).1 = own.toNat ∧
    s.linkOf (2 * k + (if up then 1 else 0)) m.pa = some l

/-- Whether a message that has gone on round a dimension's ring to a package is on the second virtual channel there: it goes
on in that dimension, and has crossed the dateline (R119). -/
def stillCrossed (k next dest : Nat) (crossed : Bool) : Bool := (dimsBetween next dest).head? == some k && crossed

/-- The router next to one on its base die, in the direction X first, then Y (R113). -/
def nextRouter (bd x y : Nat) (goal : Nat × Nat) : Loc :=
  if x < goal.1 then .router bd (x + 1) y else if goal.1 < x then .router bd (x - 1) y
  else if y < goal.2 then .router bd x (y + 1) else if goal.2 < y then .router bd x (y - 1) else .arrived

end Sys2Proof.Claims

/-- R112 to R116, R288: a message leaves its source for its router, goes one hop along the row and then along the column of
its die, and arrives; a join whose channel is busy stands in the combining buffer, merged with one of its cell, and departs
later; a held join leaves its core. R113, R118 to R120, R374: between dies a message takes the shorter way round the ring,
entering through the gateway of its own die; between packages it leaves on a link and arrives, or is passed on round the rings
of its dimensions, its virtual channel changing at the dateline; where both links of a direction are down it takes the
opposite one, and where no way is left its access fails with HOME_LOST. A flit with a bad CRC is sent again, and after 16
failures, on its way out or in, its link goes down, what it held being routed again. Training reports the far end and brings a link up, but for a
duplicated id (R372). Where links attach and how messages go on beyond this package are the model's choices
(notes/assumptions/12.md), as is which links count as duplicates (notes/assumptions/58.md). -/
def Obligations.MessagesCrossMeshDiesAndLinks : Prop :=
  ((∀ (m : Nat) (b : Bool) (s : State) (x : Msg), Stands s m x .source →
    s.lostAhead x = none →
    ∃ t : State, Leads (.routerForward m b) s t ∧ MovesTo s t x (.router x.src.place.1 x.src.place.2.1 x.src.place.2.2)) ∧
  (∀ (m bd cx cy : Nat) (s : State) (x : Msg), Stands s m x (.router bd cx cy) → x.dst.place.1 = bd →
    (∀ p d, x.dst ≠ .remote p d) → (∀ g, x.dst ≠ .gate g) →
    ∃ t : State, Leads (.routerForward m false) s t ∧ MovesTo s t x (nextRouter bd cx cy x.dst.place.2)) ∧
  (∀ (m bd cx cy : Nat) (s : State) (x : Msg), Stands s m x (.router bd cx cy) → (∀ j, x.body ≠ .join j) →
    Leads (.routerForward m true) s s) ∧
  (∀ (m bd cx cy : Nat) (s : State) (x : Msg) (j : JoinReq), Stands s m x (.router bd cx cy) → x.body = .join j →
    (s.buffered bd cx cy).length < 32 →
    (∀ o ∈ s.buffered bd cx cy, ∀ k, o.body = .join k → k.mayMerge j = true → o.bad ≠ x.bad) →
    ∃ t : State, Leads (.routerForward m true) s t ∧ MovesTo s t x (.buffer bd cx cy)) ∧
  (∀ (m bd cx cy : Nat) (s : State) (x o : Msg) (j k : JoinReq), Stands s m x (.router bd cx cy) → x.body = .join j →
    s.buffered bd cx cy = [o] → o.body = .join k → k.mayMerge j = true → o.bad = x.bad → o.id ≠ m →
    ∃ (t : State) (z : Msg), Leads (.routerForward m true) s t ∧ t.msg? (Nat.min o.id m) = some z ∧ t.msg? (Nat.max o.id m) = none ∧
      z.loc = .buffer bd cx cy ∧ z.body = .join (k.merge j) ∧ t.mem = s.mem) ∧
  (∀ (m bd cx cy : Nat) (s : State) (x : Msg), Stands s m x (.buffer bd cx cy) → x.dst.place.1 = bd →
    (∀ p d, x.dst ≠ .remote p d) → (∀ g, x.dst ≠ .gate g) →
    ∃ t : State, Leads (.combinedJoinDepart m) s t ∧ MovesTo s t x (nextRouter bd cx cy x.dst.place.2)) ∧
  (∀ (core i : Nat) (h : Held) (s : State), (s.core core).hold[i]? = some h → (∀ y ∈ (s.core core).hold.eraseIdx i, y ≠ h) →
    ∃ (t : State) (m : Msg), Leads (.heldJoinTimeout core i) s t ∧ (t.core core).hold = (s.core core).hold.eraseIdx i ∧ t.msgs = s.msgs ++ [m] ∧
      m.src = .core core ∧ m.dst = h.dst ∧ m.body = .join h.req ∧ m.loc = .source ∧ t.mem = s.mem ∧ t.md = s.md)) ∧
  (RingRule ∧ LinkRule ∧ NeighbourRule ∧ HeadingRule ∧
  (∀ (m bd cx cy die : Nat) (e : Bool) (s : State) (x : Msg), Stands s m x (.router bd cx cy) → MakesFor s x die →
    bd ≠ die → ringEast s.deadEdges bd die = some e → cx ≠ (if e then 7 else 0) →
    ∃ t : State, Leads (.routerForward m false) s t ∧ MovesTo s t x (.router bd (if cx < (if e then 7 else 0) then cx + 1 else cx - 1) cy)) ∧
  (∀ (m bd cx cy die c : Nat) (e : Bool) (s : State) (x : Msg), Stands s m x (.router bd cx cy) → MakesFor s x die →
    bd ≠ die → ringEast s.deadEdges bd die = some e → cx = (if e then 7 else 0) → x.src = .core c → c / 192 = bd →
    x.body.isRequest = true →
    ∃ t : State, Leads (.routerForward m false) s t ∧ MovesTo s t x (.gate (gateAt bd e))) ∧
  (∀ (m bd cx cy die : Nat) (e : Bool) (s : State) (x : Msg), Stands s m x (.router bd cx cy) → MakesFor s x die →
    bd ≠ die → ringEast s.deadEdges bd die = some e → cx = (if e then 7 else 0) →
    (∀ c, x.src = .core c → x.body.isRequest = true → c / 192 ≠ bd) →
    (let next := if e then (bd + 1) % 4 else (bd + 3) % 4
     let crossed := x.dateline || (if e then decide (bd = 3) else decide (bd = 0))
     ∃ t : State, Leads (.routerForward m false) s t ∧
       ((∃ c, x.dst = .core c ∧ x.body.isResponse = true ∧ c / 192 = next) →
         GoesRound s t x (.gate (gateAt next (!e))) x.way crossed) ∧
       ((∀ c, x.dst = .core c → x.body.isResponse = true → c / 192 ≠ next) →
         GoesRound s t x (.router next (if e then 0 else 7) cy) x.way crossed))) ∧
  (∀ (m g : Nat) (s : State) (x : Msg), Stands s m x (.gate g) → x.body.isRequest = true → x.body.isRead = false →
    (∀ pa n data marks tag, x.body ≠ .store pa n data marks tag) →
    (let e := decide (g % 2 = 1)
     ∃ t : State, Leads (.routerForward m false) s t ∧ GoesRound s t x
       (.router (if e then (g / 2 + 1) % 4 else (g / 2 + 3) % 4) (if e then 0 else 7) x.src.place.2.2) x.way
       (x.dateline || (if e then decide (g / 2 = 3) else decide (g / 2 = 0))))) ∧
  (∀ (m bd cx cy p d l : Nat) (s : State) (x : Msg), Stands s m x (.router bd cx cy) → x.dst = .remote p d →
    s.linkFor p (x.body.key % 2 ^ 52) = some l → bd = linkDie l →
    ∃ t : State, Leads (.routerForward m false) s t ∧ GoesRound s t x (.link l) x.way false) ∧
  (∀ (m bd cx cy : Nat) (s : State) (x : Msg), Stands s m x (.router bd cx cy) →
    ((∃ p d, x.dst = .remote p d ∧ s.linkFor p (x.body.key % 2 ^ 52) = none) ∨
      ∃ die, MakesFor s x die ∧ bd ≠ die ∧ ringEast s.deadEdges bd die = none) →
    ∃ t : State, Leads (.routerForward m false) s t ∧ (x.body.isRequest = true → FailedWith s t x .homeLost) ∧
      (x.body.isResponse = true → AnswerLost t x)) ∧
  (∀ (m : Nat) (code : FaultCode) (s : State) (x : Msg), Stands s m x .source → s.lostAhead x = some code →
    ∃ t : State, Leads (.routerForward m false) s t ∧ FailedWith s t x code) ∧
  (∀ (m l p d : Nat) (s : State) (x : Msg), Stands s m x (.link l) → x.dst = .remote p d → l < 12 →
    (s.links[Fin.ofNat 12 l].farId = none ∨ s.links[Fin.ofNat 12 l].farId = some (BitVec.ofNat 12 p)) → p < 4096 →
    ∃ t : State, Leads (.flitReceive m true) s t ∧ MovesTo s t x .arrived) ∧
  (∀ (m l p d : Nat) (f own : BitVec 12) (s : State) (x : Msg), Stands s m x (.link l) → x.dst = .remote p d → l < 12 →
    s.links[Fin.ofNat 12 l].farId = some f → f.toNat ≠ p → s.ownId = some own →
    (let k := l % 6 / 2
     let up := decide (l % 2 = 0)
     ∃ t : State, Leads (.flitReceive m true) s t ∧ GoesRound s t x (.package f.toNat) (some (k, up))
       (stillCrossed k f.toNat p (s.neighbour own.toNat k up).2))) ∧
  (∀ (m q p d k : Nat) (up : Bool) (s : State) (x : Msg), Stands s m x (.package q) → x.dst = .remote p d →
    s.heading x.way q p = some (k, up) →
    (let r := s.neighbour q k up
     ∃ t : State, Leads (.flitReceive m true) s t ∧ (r.1 = p → MovesTo s t x .arrived) ∧
       (r.1 ≠ p → GoesRound s t x (.package r.1) (some (k, up)) (stillCrossed k r.1 p (x.dateline || r.2))))) ∧
  (∀ (m q k : Nat) (up : Bool) (own : BitVec 12) (s : State) (x : Msg), Stands s m x (.package q) →
    (∀ p d, x.dst ≠ .remote p d) → s.ownId = some own → s.heading x.way q own.toNat = some (k, up) →
    (let r := s.neighbour q k up
     ∃ t : State, Leads (.flitReceive m true) s t ∧
       (r.1 ≠ own.toNat → GoesRound s t x (.package r.1) (some (k, up)) (stillCrossed k r.1 own.toNat (x.dateline || r.2))) ∧
       (∀ l, r.1 = own.toNat → s.linkOf (2 * k + (if up then 1 else 0)) x.pa = some l →
         GoesRound s t x (.router (linkDie l) 0 0) none false) ∧
       (r.1 = own.toNat → s.linkOf (2 * k + (if up then 1 else 0)) x.pa = none →
         (x.turned = false → GoesRound s t x (.package q) (some (k, !up)) false ∧ ∀ y, t.msg? m = some y → y.turned = true) ∧
         (x.turned = true → AnswerLost t x)))) ∧
  (∀ (m l : Nat) (s : State) (x : Msg), Stands s m x (.link l) →
    ∃ t : State, Leads (.flitReceive m false) s t ∧ MovesTo s t x (.link l) ∧
      t.msg? m = some { x with fails := x.fails + 1 }) ∧
  (∀ (l : Fin 12) (s : State), (∃ m ∈ s.msgs, (m.loc = .link l.val ∨ ComingIn s m l.val) ∧ 16 ≤ m.fails) →
    ∃ t : State, Leads (.linkDown l) s t ∧ t.links[l].up = false ∧ (∀ k : Fin 12, k ≠ l → t.links[k] = s.links[k]) ∧
      (∀ m ∈ t.msgs, m.loc ≠ .link l.val) ∧ (∀ m ∈ s.msgs, ComingIn s m l.val → { m with fails := 0 } ∈ t.msgs) ∧
      t.msgs.map Msg.id = s.msgs.map Msg.id ∧ t.mem = s.mem) ∧
  (∀ (l : Fin 12) (s : State), (∀ m ∈ s.msgs, m.loc = .link l.val ∨ ComingIn s m l.val → m.fails < 16) →
    Leads (.linkDown l) s s) ∧
  (∀ (l : Fin 12) (far : BitVec 12) (s : State), s.bar1.pkgvalid = true →
    ∃ t : State, Leads (.linkTrained l far) s t ∧
      t = { s with links := t.links, mgmtReplies := s.mgmtReplies ++ [BitVec.ofNat 64 l.val, far.setWidth 64] } ∧
      (t.links[l].up = true ↔ far ≠ s.bar1.pkgid ∧ s.duplicates l far = []) ∧ t.links[l].farId = some far ∧
      ∀ k : Fin 12, k ≠ l → t.links[k] = if k ∈ s.duplicates l far then { s.links[k] with up := false } else s.links[k]))

namespace Sys2Proof.Claims

/-- A read stands at a gateway that holds a replica of its line and has not let it go. -/
def AtReplica (s : State) (m g : Nat) (x : Msg) (b : Body) (line : Nat) (r : Replica) : Prop :=
  Stands s m x (.gate g) ∧ x.body = b ∧ s.replica? g line = some r ∧ s.choices = []

/-- A FROZEN replica was read under the generation of the request (R78, R111). -/
def SameGen (x : Msg) (r : Replica) : Prop := mdState r.snap.md = 2 → r.gen = x.gen

/-- The gateway answers the request itself, and its replica has been read through the request's address too (R99). -/
def AnsweredAt (s t : State) (m g core line : Nat) (x a : Msg) (b : Body) : Prop :=
  t.msgs = s.msgs.filter (fun y => y.id != m) ++ [a] ∧ a.body = b ∧ a.src = .gate g ∧ a.dst = .core core ∧ t.mem = s.mem ∧
    t.md = s.md ∧ t.watches = s.watches ∧
    t.replicas.map (fun r => (r.gate, r.snap, r.gen)) = s.replicas.map (fun r => (r.gate, r.snap, r.gen)) ∧
    ∀ r ∈ t.replicas, r.gate = g → r.snap.line = line → (x.asid, x.va.toNat / 128) ∈ r.names

/-- What a response makes of the line a replica holds (R110): cell by cell the join of the two values while the line grows,
where the response's width is the replica's; a response that left while WIDTH was unset changes nothing; any other takes its
place. -/
def GrowRule : Prop :=
  ∀ old new : LineSnap,
    (old.ty = new.ty → 2 ≤ old.ty → mdState old.md = 0 → mdState new.md = 0 → mdWidth old.md ≠ 0 →
      (let n := widthBytes old.ty (mdWidth old.md)
       let x := old.grow new
       (mdWidth new.md = 0 → x = old) ∧
       (mdWidth new.md = mdWidth old.md → x = { new with data := x.data } ∧ ∀ k, k < 128 / n →
         (old.ty ≤ 8 → Joined old.ty (8 * n) (old.bytes (k * n) n) (new.bytes (k * n) n) (x.bytes (k * n) n)) ∧
         (old.ty = 9 → x.bytes (k * n) n = max (old.bytes (k * n) n) (new.bytes (k * n) n)) ∧
         (old.ty = 10 → x.bytes (k * n) n =
           if new.bytes (k * n) n / 2 ^ 96 < old.bytes (k * n) n / 2 ^ 96 then old.bytes (k * n) n
           else new.bytes (k * n) n)))) ∧
    ((old.ty ≠ new.ty ∨ old.ty < 2 ∨ mdState old.md ≠ 0 ∨ mdState new.md ≠ 0 ∨ mdWidth old.md = 0) → old.grow new = new)

/-- The request goes on from the gateway to its home. -/
def GoesOn (s t : State) (m g : Nat) (x : Msg) : Prop :=
  ∃ y : Msg, t.msg? m = some y ∧ y.body = x.body ∧ y.loc ≠ .gate g ∧ t.msgs.length = s.msgs.length ∧ t.mem = s.mem

end Sys2Proof.Claims

/-- R78, R109 to R111, R335: what a replica answers at a gateway: a test (AWAIT, AWAIT.FILLED, PROBE) that it passes, an exact
read of a FILLED or FROZEN line that is not poisoned, and a load of a PRIVATE line; everything else goes on to its home, as
does what meets a FROZEN replica of another generation. A response it passes leaves a replica, or refreshes one, a growing
line by joining its value, but for a response that a store or a poisoning has overtaken; a store that passes a PRIVATE replica
changes its bytes there; an invalidation drops it, and the last one that a poisoning waits for lets it be performed. That a
replica stands until a choice lets it go, and that a PRIVATE one answers only with the bytes of its home, are the model's
choices (notes/assumptions/7.md). -/
def Obligations.GatewaysAnswerWhatTheirReplicasMay : Prop :=
  (∀ (m g : Nat) (s : State) (x : Msg), Stands s m x (.gate g) → x.body.isRead = true →
    s.replica? g (x.body.key / 128) = none →
    ∃ t : State, Leads (.replicaTest m) s t ∧ GoesOn s t m g x ∧ t.replicas = s.replicas) ∧
  (∀ (m g cell ty : Nat) (arg : BitVec 8) (k : TestKind) (w : Who) (core i : Nat) (first : Word) (s : State) (x : Msg)
      (r : Replica), AtReplica s m g x (.test cell ty arg k w) (cell / 128) r → r.snap.ty ≠ 0 → SameGen x r →
    s.coreOf w = some core → r.snap.test cell k = some (.passed i first) →
    ∃ (t : State) (a : Msg), Leads (.replicaTest m) s t ∧
      AnsweredAt s t m g core (cell / 128) x a (.result w (.passed i first))) ∧
  (∀ (m g cell ty : Nat) (arg : BitVec 8) (k : TestKind) (w : Who) (s : State) (x : Msg) (r : Replica),
    AtReplica s m g x (.test cell ty arg k w) (cell / 128) r →
    (∀ i first, r.snap.test cell k ≠ some (.passed i first)) →
    ∃ t : State, Leads (.replicaTest m) s t ∧ GoesOn s t m g x) ∧
  (∀ (m g line ty : Nat) (w : Who) (core : Nat) (s : State) (x : Msg) (r : Replica),
    AtReplica s m g x (.exact line ty w) line r → r.snap.ty ≠ 0 → SameGen x r → s.coreOf w = some core →
    (mdPoison r.snap.md = false → mdState r.snap.md ≠ 0 →
      ∃ (t : State) (a : Msg), Leads (.replicaTest m) s t ∧ AnsweredAt s t m g core line x a (.data w none) ∧
        a.snap = some r.snap) ∧
    ((mdPoison r.snap.md = true ∨ mdState r.snap.md = 0) → ∃ t : State, Leads (.replicaTest m) s t ∧ GoesOn s t m g x)) ∧
  (∀ (m g line : Nat) (w : Who) (core : Nat) (s : State) (x : Msg) (r : Replica),
    AtReplica s m g x (.load line 0 w) line r → r.snap.ty = 0 → s.coreOf w = some core →
    (r.snap.data = (s.snap line 0).data → r.snap.marks = (s.snap line 0).marks →
      ∃ (t : State) (a : Msg), Leads (.replicaTest m) s t ∧ AnsweredAt s t m g core line x a (.data w none) ∧
        a.snap = some r.snap) ∧
    (r.snap.data ≠ (s.snap line 0).data → ∃ t : State, Leads (.replicaTest m) s t ∧ GoesOn s t m g x ∧ t.replica? g line = none)) ∧
  (∀ (m g : Nat) (s : State) (x : Msg) (r : Replica), Stands s m x (.gate g) → x.body.isRead = true →
    s.replica? g (x.body.key / 128) = some r → s.choices = [] → r.snap.ty ≠ 0 → mdState r.snap.md = 2 → r.gen ≠ x.gen →
    ∃ t : State, Leads (.replicaTest m) s t ∧ GoesOn s t m g x ∧ t.replica? g (x.body.key / 128) = none) ∧
  (∀ (m g : Nat) (s : State) (x : Msg) (y : LineSnap), Stands s m x (.gate g) → x.body.isResponse = true →
    x.snap = some y → y.ty ≠ 11 → s.replica? g y.line = none → s.choices = [] → y.line < 2 ^ 44 → x.stale = false →
    (s.replicas.filter (fun r => r.gate == g)).length < 131072 →
    ((∃ w, x.body = .data w none) ∨ (∃ w r, x.body = .result w r)) →
    ∃ (t : State) (r : Replica) (z : Msg), Leads (.gatewayResponsePass m) s t ∧ t.replicas = r :: s.replicas ∧ r.gate = g ∧
      r.snap = y ∧ r.gen = x.gen ∧ t.msg? m = some z ∧ (∃ cx cy, z.loc = .router (g / 2) cx cy) ∧ t.mem = s.mem) ∧
  GrowRule ∧
  (∀ (m g : Nat) (s : State) (x : Msg) (y : LineSnap) (r : Replica), Stands s m x (.gate g) → x.body.isResponse = true →
    x.snap = some y → y.ty ≠ 11 → s.replica? g y.line = some r → x.stale = false →
    ∃ (t : State) (r' : Replica), Leads (.gatewayResponsePass m) s t ∧ r' ∈ t.replicas ∧ r'.gate = g ∧
      r'.snap = r.snap.grow y ∧ r'.gen = x.gen ∧ (x.asid, x.va.toNat / 128) ∈ r'.names ∧ (∀ n ∈ r.names, n ∈ r'.names) ∧
      (∀ z ∈ t.replicas, z ≠ r' → z ∈ s.replicas) ∧ t.mem = s.mem) ∧
  (∀ (m g pa n : Nat) (data : BitVec 1024) (marks : BitVec 128) (tag : Tag) (s : State) (x : Msg), Stands s m x (.gate g) →
    x.body = .store pa n data marks tag → pa % 128 + n ≤ 128 →
    ∃ t : State, Leads (.routerForward m false) s t ∧ GoesOn s t m g x ∧
      (∀ r ∈ s.replicas, (r.gate ≠ g ∨ r.snap.ty ≠ 0 ∨ r.snap.line ≠ pa / 128) → r ∈ t.replicas) ∧
      (∀ r ∈ s.replicas, r.gate = g → r.snap.ty = 0 → r.snap.line = pa / 128 → ∃ r' ∈ t.replicas, r'.gate = g ∧
        r'.snap.line = r.snap.line ∧ r'.snap.ty = 0 ∧ r'.snap.bytes (pa % 128) n = data.toNat % 2 ^ (8 * n) ∧
        ∀ b, b < 128 → (b < pa % 128 ∨ pa % 128 + n ≤ b) → r'.snap.bytes b 1 = r.snap.bytes b 1)) ∧
  (∀ (m g : Nat) (s : State) (x : Msg) (tag : Tag) (code : Option FaultCode) (y : LineSnap), Stands s m x (.gate g) →
    x.body = .ack tag code → x.snap = some y → y.ty ≠ 11 → s.replica? g y.line = none → s.choices = [] →
    ∃ t : State, Leads (.gatewayResponsePass m) s t ∧ t.replicas = s.replicas) ∧
  (∀ (m g : Nat) (s : State) (x : Msg), Stands s m x (.gate g) → x.body.isResponse = true → x.stale = true →
    ∃ t : State, Leads (.gatewayResponsePass m) s t ∧ t.replicas = s.replicas) ∧
  (∀ (m g line k : Nat) (s : State) (x : Msg), Stands s m x (.gate k) → x.body = .inval line g →
    (line ∉ s.poisoning →
      ∃ t : State, Leads (.gatewayInvalidation m) s t ∧ t.msg? m = none ∧ t.replica? g line = none ∧
        (∀ r ∈ s.replicas, (r.gate ≠ g ∨ r.snap.line ≠ line) → r ∈ t.replicas) ∧ t.mem = s.mem ∧ t.md = s.md) ∧
    (line ∈ s.poisoning → Sys2Proof.Safety.memoryOk s → (∀ r ∈ s.replicas, r.snap.line = line → r.gate = g) →
      (∀ y ∈ s.msgs, y.id ≠ m → ∀ h, y.body ≠ .inval line h) →
      ∃ t : State, Leads (.gatewayInvalidation m) s t ∧ t.msg? m = none ∧ line ∉ t.poisoning ∧ mdPoison (t.md.read line) = true))

namespace Sys2Proof.Claims

/-- A context holds a command. -/
def HasCmd (s : State) (k : Key) (seq : Nat) (c : Context) (m : Cmd) : Prop := s.ctx? k = some c ∧ c.cmd? seq = some m

/-- No engine of the kind has an earlier ready command on the core (R133, R179). -/
def FirstReady (s : State) (c : Context) (m : Cmd) (kind : CmdKind → Bool) : Prop :=
  kind m.kind = true ∧ c.readyCmd m = true ∧
    s.coreCmds c.core (fun x y => kind y.kind && x.readyCmd y && decide (y.stamp < m.stamp)) = []

/-- A running copy is about to issue its next unit, of the row its index named where it was read, and nothing it has issued is
outstanding. -/
def Issuing (s : State) (k : Key) (seq u : Nat) (c : Context) (m : Cmd) (g : CopyCfg) (x : CopyUnit) : Prop :=
  HasCmd s k seq c m ∧ m.kind.isCopy = true ∧ (∀ a b p q, m.kind ≠ .ccopy a b p q true) ∧ m.state = .started ∧
    c.engaged = true ∧ m.units = [] ∧ u = m.counted ∧ m.kind.cfg = some g ∧ (∃ y, s.copyUnit c m.kind u = some y ∧ x = m.fixRow y) ∧ s.markedRow c m x = none ∧
    windowOf x.dst = windowOf (x.dst + x.dn - 1)

/-- The same behind earlier units, of which the first is not performed, none has faulted, and none writes bytes of this one
(R131). -/
def IssuingBehind (s : State) (k : Key) (seq u : Nat) (c : Context) (m : Cmd) (g : CopyCfg) (x : CopyUnit) : Prop :=
  HasCmd s k seq c m ∧ m.kind.isCopy = true ∧ (∀ a b p q, m.kind ≠ .ccopy a b p q true) ∧ m.state = .started ∧
    c.engaged = true ∧ (∃ y rest, m.units = y :: rest ∧ y.left ≠ 0) ∧ (∀ y ∈ m.units, y.fault = none) ∧
    u = m.counted + m.units.length ∧ m.kind.cfg = some g ∧ (∃ y, s.copyUnit c m.kind u = some y ∧ x = m.fixRow y) ∧
    s.markedRow c m x = none ∧ windowOf x.dst = windowOf (x.dst + x.dn - 1) ∧
    ∀ y ∈ m.units, y.left ≠ 0 → ∀ z, s.copyUnit c m.kind y.u = some z → overlaps x.dst x.dn z.dst z.dn = false

/-- What a unit sends to the home of the page it goes into (R128 to R130). -/
def unitBodies (c : Context) (m : Cmd) (g : CopyCfg) (u : Nat) (x : CopyUnit) (l : Leaf) (v marks : Nat)
    (es : List (Nat × Int × Bool)) : List Body :=
  let tag (va : Nat) : Tag := { who := .copy c.key m.seq u, va := BitVec.ofNat 64 va }
  if g.mode = 0 then [.store (l.key x.dst) x.n (BitVec.ofNat 1024 v) (BitVec.ofNat 128 marks) (tag x.dst)]
  else if g.mode = 1 then [.fill (l.line x.dst) (BitVec.ofNat 1024 v) (anyMark marks) (tag x.dst)]
  else es.map (fun e => .join { cell := l.key e.1, width := 8 * g.cellBytes, ty := l.ty, arg := l.arg, val := e.2.1
                                mark := e.2.2, tags := [tag e.1] })

/-- The elements of a join unit are cells of their page. -/
def UnitElements (g : CopyCfg) (x : CopyUnit) (l : Leaf) (v marks : Nat) (es : List (Nat × Int × Bool)) : Prop :=
  2 ≤ g.mode → x.dst % g.cellBytes = 0 ∧ g.elements l x.dst x.n v marks = .ok es ∧ es ≠ []

/-- The command after its next unit has been counted: done when that was the last of its bytes (R130). -/
def Counted (t : State) (k : Key) (seq n : Nat) (m : Cmd) (g : CopyCfg) : Prop :=
  ∃ (c' : Context) (m' : Cmd), HasCmd t k seq c' m' ∧ m'.units = [] ∧ m'.counted = m.counted + 1 ∧ m'.bytes = m.bytes + n ∧
    (m.fault = none → m'.fault = none) ∧ m'.state = (if m.bytes + n = g.rows * g.len then .done else m.state)

/-- The command has completed with a fault, all its bytes counted (R134). -/
def CompletedFaulted (t : State) (k : Key) (seq : Nat) (m : Cmd) (g : CopyCfg) (f : FaultInfo) : Prop :=
  ∃ (c' : Context) (m' : Cmd), HasCmd t k seq c' m' ∧ m'.state = .done ∧ m'.fault = some { f with engine := m.id } ∧
    m'.units = [] ∧ m'.bytes = g.rows * g.len

/-- The unit's source has been read as `v` with `marks`, and its destination is at a place. -/
def UnitReady (s s1 s2 : State) (c : Context) (g : CopyCfg) (x : CopyUnit) (v marks : Nat) (p : Place) : Prop :=
  Gives (readUnit c x.src x.n) s (.ok v marks) s1 ∧
    Gives (copyPlace c .write (decide (g.mode ≠ 0)) (g.refuse c.sys) x.dn x.dst) s1 (.ok p) s2

/-- A matrix command runs. -/
def RunsMatrix (s : State) (k : Key) (seq : Nat) (c : Context) (m : Cmd) : Prop :=
  HasCmd s k seq c m ∧ m.state = .started ∧ s.acc.wf = true

/-- Element `i` of a list of scales in the slice, with its mark (R270). -/
def scaleAt (s : State) (c : Context) (off fmt i : Nat) : FValue × Bool :=
  (elemValue fmt (s.runElem c off (fmtWidth fmt) i).1, (s.runElem c off (fmtWidth fmt) i).2)

/-- A word of a tile as a command finds it: zero where the command zeroes its tile first (ZF). -/
def wordBefore (s : State) (c : Context) (zeroed : Bool) (tile w : Nat) : Nat × Bool :=
  if zeroed then (0, false) else s.tileWordOf c tile w

/-- The spark weights queued for a cell of a bank at a step. -/
def queued (s : State) (c : Context) (tile step cell : Nat) : List Int :=
  ((s.core c.core).sparks.filter (fun x => x.key == some c.key && lampTile x.target == tile && decide (x.step = step) &&
    lampCell x.target == cell)).map (fun x => x.weight.toInt)

/-- V of a cell after the leak and the weights of a step, saturated (R189). -/
def integrated (s : State) (c : Context) (tile : Nat) (g : LampCfg) (cell : Nat) : Int :=
  let v0 := signed 32 (s.tileRead c tile cell)
  clamp 32 ((if g.leak = 0 then v0 else v0 - v0 / 2 ^ g.leak) + (queued s c tile g.step cell).sum)

end Sys2Proof.Claims

/-- R126, R130, R133: a ready copy takes a free stream; its units are issued in order: a unit into the slice, a stack, a
scratchpad through the on-chip window or a register moves its bytes at once, is counted into the command and its barrier, and
the last one completes the command; a unit into a page sends its store, fill or joins and stays outstanding, behind others
that are, until it is acknowledged, and is counted then; the row of a unit, where its index puts it, is kept for the units
after it (R261). R134: a unit that faults completes its command with the fault and all its bytes counted, and a TRANSLATION
fault stalls it. R105, R129: a unit of a migration copy moves its line, with metadata and watches, whose old home sends each
new test on. That units are issued in order, and that a slice unit's bytes move in the step that issues it, is the model's
choice (notes/assumptions/42.md). -/
def Obligations.CopiesRunInUnits : Prop :=
  (∀ (k : Key) (seq : Nat) (s : State) (c : Context) (m : Cmd), HasCmd s k seq c m → FirstReady s c m CmdKind.isCopy →
    (s.coreCmds c.core (fun _ y => y.holdsStream)).length < 4 →
    ∃ (t : State) (c' : Context), Leads (.copyCommandStart k seq) s t ∧ HasCmd t k seq c' { m with state := .started } ∧ t.mem = s.mem ∧
      t.scratch = s.scratch) ∧
  (∀ (k : Key) (seq u v marks o : Nat) (s s1 s2 : State) (c : Context) (m : Cmd) (g : CopyCfg) (x : CopyUnit),
    Issuing s k seq u c m g x → UnitReady s s1 s2 c g x v marks (.slice o) → s2.ctx? k = some c → c.inH = false →
    s2.scratch.wf = true →
    ∃ (t : State) (c' : Context) (m' : Cmd), Leads (.copyUnitPerformed k seq u) s t ∧ HasCmd t k seq c' m' ∧ m'.units = [] ∧
      m'.counted = m.counted + 1 ∧ m'.bytes = m.bytes + x.n ∧
      m'.state = (if m.bytes + x.n = g.rows * g.len then .done else .started) ∧
      t.scratch.readN (c.sliceBase + o) x.n = v % 2 ^ (8 * x.n) ∧
      (∀ off b, m.kind.barrier = some off → c.barriers.find? (fun y => y.off == off) = some b →
        c'.barriers.find? (fun y => y.off == off) = some (if b.expected ≤ b.counted + x.n then
          { b with counted := b.counted + x.n - b.expected, phase := !b.phase, flips := b.flips + 1 }
          else { b with counted := b.counted + x.n }))) ∧
  (∀ (k : Key) (seq u v marks : Nat) (l : Leaf) (s s1 s2 : State) (c : Context) (m : Cmd) (g : CopyCfg) (x : CopyUnit)
      (es : List (Nat × Int × Bool)),
    Issuing s k seq u c m g x → UnitReady s s1 s2 c g x v marks (.page l) → s2.ctx? k = some c → l.jblock = false →
    UnitElements g x l v marks es →
    (let bodies := unitBodies c m g u x l v marks es
     ∃ (t : State) (c' : Context) (ms : List Msg), Leads (.copyUnitPerformed k seq u) s t ∧ t.msgs = s2.msgs ++ ms ∧ ms.map Msg.body = bodies ∧
       t.mem = s2.mem ∧ t.scratch = s2.scratch ∧
       HasCmd t k seq c' { m with
         units := [{ u := u, n := x.n, left := bodies.length }], row := some (x.row, x.src - x.off) })) ∧
  (∀ (k : Key) (seq u v marks : Nat) (l : Leaf) (s s1 s2 : State) (c : Context) (m : Cmd) (g : CopyCfg) (x : CopyUnit)
      (es : List (Nat × Int × Bool)),
    IssuingBehind s k seq u c m g x → UnitReady s s1 s2 c g x v marks (.page l) → s2.ctx? k = some c → l.jblock = false →
    UnitElements g x l v marks es →
    (let bodies := unitBodies c m g u x l v marks es
     ∃ (t : State) (c' : Context) (ms : List Msg), Leads (.copyUnitPerformed k seq u) s t ∧ t.msgs = s2.msgs ++ ms ∧ ms.map Msg.body = bodies ∧
       t.mem = s2.mem ∧ t.scratch = s2.scratch ∧
       HasCmd t k seq c' { m with
         units := m.units ++ [{ u := u, n := x.n, left := bodies.length }], row := some (x.row, x.src - x.off) })) ∧
  ((∀ (k : Key) (seq u v marks pa : Nat) (s s1 s2 : State) (c : Context) (m : Cmd) (g : CopyCfg) (x : CopyUnit),
    Issuing s k seq u c m g x → UnitReady s s1 s2 c g x v marks (.stack pa) → s2.ctx? k = some c → s2.mem.wf = true →
    s2.lostCode pa (dieOf c.core) = none →
    ∃ t : State, Leads (.copyUnitPerformed k seq u) s t ∧ Counted t k seq x.n m g ∧
      t.mem.readN pa x.n = v % 2 ^ (8 * x.n) ∧ MemOutside s2 t pa x.n ∧ t.scratch = s2.scratch) ∧
  (∀ (k : Key) (seq u v marks core off : Nat) (s s1 s2 w : State) (c c1 : Context) (m : Cmd) (g : CopyCfg) (x : CopyUnit),
    Issuing s k seq u c m g x → UnitReady s s1 s2 c g x v marks (.chip core off) →
    s2.chipWrite core off x.n v marks (BitVec.ofNat 64 x.dst) = .ok w → w.ctx? k = some c1 → c1.cmd? seq = some m →
    ∃ t : State, Leads (.copyUnitPerformed k seq u) s t ∧ Counted t k seq x.n m g ∧ t.mem = w.mem ∧ t.scratch = w.scratch ∧
      t.acc = w.acc) ∧
  (∀ (k : Key) (seq u v marks off : Nat) (s s1 s2 w : State) (c c1 : Context) (m : Cmd) (g : CopyCfg) (x : CopyUnit),
    Issuing s k seq u c m g x → UnitReady s s1 s2 c g x v marks (.device off) →
    s2.deviceWrite off x.n v (BitVec.ofNat 64 x.dst) = .ok w → w.ctx? k = some c1 → c1.cmd? seq = some m →
    ∃ t : State, Leads (.copyUnitPerformed k seq u) s t ∧ Counted t k seq x.n m g ∧ t.bar1 = w.bar1 ∧ t.mem = w.mem)) ∧
  ((∀ (m u seq : Nat) (k : Key) (va : Word) (code : Option FaultCode) (s : State) (x : Msg) (c : Context) (y : Cmd)
      (z : IssuedUnit), s.msg? m = some x → x.loc = .arrived → (∀ w ∈ s.msgs, w.id ∉ x.behind) →
    x.body = .ack { who := .copy k seq u, va := va } code → HasCmd s k seq c y → y.units = [z] → z.u = u → z.fault = none →
    ∃ (t : State) (c' : Context), Leads (.ackArrival m) s t ∧ t.msg? m = none ∧
      HasCmd t k seq c' { y with units := [{ z with left := z.left - 1
                                                    fault := code.map (fun e => s.answerFault k.asid e va) }] } ∧
      t.mem = s.mem ∧ t.md = s.md) ∧
  (∀ (k : Key) (seq u : Nat) (s : State) (c : Context) (m : Cmd) (g : CopyCfg) (z : IssuedUnit), HasCmd s k seq c m →
    m.kind.isCopy = true → m.kind.cfg = some g → (m.state = .started ∨ m.state = .stalled) → c.slot.isSome = true →
    m.units = [z] → z.left = 0 → m.bytes + z.n ≤ g.rows * g.len → u ≠ m.counted + 1 →
    ∃ t : State, Leads (.copyUnitPerformed k seq u) s t ∧ t.mem = s.mem ∧ t.scratch = s.scratch ∧
      (z.fault = none → Counted t k seq z.n m g) ∧ ∀ f, z.fault = some f → CompletedFaulted t k seq m g f) ∧
  (∀ (k : Key) (seq u : Nat) (f : FaultInfo) (s s1 : State) (c : Context) (m : Cmd) (g : CopyCfg) (x : CopyUnit),
    Issuing s k seq u c m g x → s1.ctx? k = some c → m.bytes < g.rows * g.len →
    (Gives (readUnit c x.src x.n) s (.fault f) s1 ∨ ∃ s0 v marks, Gives (readUnit c x.src x.n) s (.ok v marks) s0 ∧
      Gives (copyPlace c .write (decide (g.mode ≠ 0)) (g.refuse c.sys) x.dn x.dst) s0 (.error f) s1) →
    ∃ t : State, Leads (.copyUnitPerformed k seq u) s t ∧ t.mem = s1.mem ∧ t.scratch = s1.scratch ∧
      (f.code ≠ .translation → CompletedFaulted t k seq m g f) ∧
      (f.code = .translation → s1.recordsFull k f = false → s1.attachTo k.asid f = none →
        (∃ c', HasCmd t k seq c' { m with state := .stalled }) ∧ ∃ r : FaultRec, t.records = s1.records ++ [r] ∧ r.kind = 8 ∧
          r.info = f ∧ r.pc = m.pc ∧ r.asid = k.asid ∧ r.ctxid = k.ctxid ∧ r.engines = [(k, seq)])) ∧
  (∀ (k : Key) (seq u : Nat) (f : FaultInfo) (s : State) (c : Context) (m : Cmd) (g : CopyCfg) (x : CopyUnit) (y : CopyUnit),
    HasCmd s k seq c m → m.kind.isCopy = true → m.state = .started → c.engaged = true → m.units = [] → u = m.counted →
    m.kind.cfg = some g → s.copyUnit c m.kind u = some y → x = m.fixRow y → s.markedRow c m x = some f →
    m.bytes < g.rows * g.len →
    f.code = .poison ∧ ∃ t : State, Leads (.copyUnitPerformed k seq u) s t ∧ CompletedFaulted t k seq m g f)) ∧
  (∀ (k : Key) (seq u : Nat) (a b : Leaf) (s s1 s2 : State) (c : Context) (m : Cmd) (g : CopyCfg) (x : CopyUnit) (p q : Word)
      (src dst : BitVec 48), HasCmd s k seq c m → m.kind = .ccopy p q src dst true → m.state = .started → c.engaged = true →
    m.units = [] → m.row = none → u = m.counted → m.kind.cfg = some g → s.copyUnit c m.kind u = some x → x.n = 128 →
    Gives (copyPlace c .read false (refuseSource c.sys) x.n x.src) s (.ok (.page a)) s1 →
    Gives (copyPlace c .write false (fun _ => none) x.n x.dst) s1 (.ok (.page b)) s2 → migrates c g a b = true →
    (∀ o ∈ c.outs, o.store = false) → a.line x.src ∉ s2.poisoning → b.line x.dst ∉ s2.poisoning →
    s2.homeCode a x.src (dieOf c.core) = none → s2.homeCode b x.dst (dieOf c.core) = none → a.cnt = false → b.cnt = false →
    a.line x.src ≠ b.line x.dst → s2.ctx? k = some c →
    Sys2Proof.Safety.memoryOk s2 →
    (let la := a.line x.src
     let lb := b.line x.dst
     ∃ t : State, Leads (.copyUnitPerformed k seq u) s t ∧ Counted t k seq 128 m g ∧
       t.mem.readN (128 * lb) 128 = s2.mem.readN (128 * la) 128 ∧ MemOutside s2 t (128 * lb) 128 ∧
       mdState (t.md.read lb) = mdState (s2.md.read la) ∧ mdWidth (t.md.read lb) = mdWidth (s2.md.read la) ∧
       mdPoison (t.md.read lb) = mdPoison (s2.md.read la) ∧ t.forwards.find? (fun f => f.1 == la) = some (la, lb) ∧
       ∀ w ∈ s2.watches, w.cell / 128 = la →
         { w with cell := 128 * lb + w.cell % 128, home := homeNode (128 * lb) } ∈ t.watches))

/-- R53 to R55, R57, R179 to R181, R269 to R271, R350: one matrix command at a time starts, in acceptance order, and completes
with its work done and no fault: MZERO clears its tile, an integer MMA adds its products modulo 2^32, and another MMA rounds
the exact sum of each group of eight into its word, group by group; MSCALEACC adds the products of a tile's words with their
row's and column's scale, zeros where ZF has cleared that tile; MLOAD makes words of its run, and MSTORE rounds the words of
its tile into its run. A mark of what a result is made of goes with it. -/
def Obligations.MatrixCommandsRun : Prop :=
  (∀ (k : Key) (seq : Nat) (s : State) (c : Context) (m : Cmd), HasCmd s k seq c m → FirstReady s c m CmdKind.isMatrix →
    s.coreCmds c.core (fun _ y => y.kind.isMatrix && y.state == .started) = [] →
    ∃ (t : State) (c' : Context), Leads (.matrixCommandStart k seq) s t ∧ HasCmd t k seq c' { m with state := .started } ∧ t.acc = s.acc ∧
      t.scratch = s.scratch ∧ t.mem = s.mem) ∧
  (∀ (k : Key) (seq : Nat) (s : State) (c : Context) (m : Cmd), HasCmd s k seq c m → m.kind.isMatrix = true →
    m.state = .started →
    ∃ (t : State) (c' : Context), Leads (.matrixCommandComplete k seq) s t ∧ HasCmd t k seq c' { m with state := .done, fault := none } ∧
      t.acc = (s.runMatrix c m).acc ∧ t.scratch = (s.runMatrix c m).scratch ∧ t.mem = s.mem ∧ t.md = s.md ∧
      ∀ seqs n, c.status = .parked (.commands seqs) n →
        (∀ y ∈ c.cmds, y.seq ∈ seqs → y.seq = seq ∨ y.incomplete = false) → c'.status = .ready s.nextSeq) ∧
  (∀ (k : Key) (seq tile : Nat) (s : State) (c : Context) (m : Cmd), HasCmd s k seq c m → m.kind = .mzero tile →
    m.state = .started → s.acc.wf = true →
    ∃ t : State, Leads (.matrixCommandComplete k seq) s t ∧ (∀ w, w < 4096 → t.tileRead c tile w = 0) ∧
      ∀ a, (a < c.tileWord tile 0 ∨ c.tileWord tile 4096 ≤ a) → t.acc.cells.read a = s.acc.cells.read a) ∧
  (∀ (k : Key) (seq : Nat) (s : State) (c : Context) (m : Cmd) (view : BitVec 256) (a b : Word), HasCmd s k seq c m →
    m.kind = .mma view a b → m.state = .started → m.groups = 0 → s.acc.wf = true → isIntFmt (wbits b 4 5) = true →
    isIntFmt (wbits b 9 5) = true →
    ∃ t : State, Leads (.matrixCommandComplete k seq) s t ∧ ∀ i j, i < 64 → j < 64 →
      t.tileRead c (wbits b 0 4) (64 * i + j) =
        (((if b.getLsbD 35 then 0 else (s.tileRead c (wbits b 0 4) (64 * i + j) : Int)) +
          ((List.range (8 * wbits a 32 16)).map (fun q =>
            (s.aElement c (viewOf view) (wbits b 4 5) i q).1.dyadic.1 *
            (s.bElement c (wbits a 0 21) (wbits b 9 5) q j).1.dyadic.1)).sum) % 2 ^ 32).toNat) ∧
  (∀ (k : Key) (seq : Nat) (s : State) (c : Context) (m : Cmd) (view : BitVec 256) (a b : Word), RunsMatrix s k seq c m →
    m.kind = .mma view a b →
    (let tile := wbits b 0 4
     let groups := wbits a 32 16 - m.groups
     let zeroed := b.getLsbD 35 && decide (m.groups = 0)
     let x (i q : Nat) := s.aElement c (viewOf view) (wbits b 4 5) i q
     let y (q j : Nat) := s.bElement c (wbits a 0 21) (wbits b 9 5) q j
     ∃ t : State, Leads (.matrixCommandComplete k seq) s t ∧ t.scratch = s.scratch ∧ t.mem = s.mem ∧
       ∀ i j, i < 64 → j < 64 →
         ((isIntFmt (wbits b 4 5) && isIntFmt (wbits b 9 5)) = false → ∃ f : Nat → Nat,
           f 0 = (wordBefore s c zeroed tile (64 * i + j)).1 ∧
           (∀ d, f (d + 1) = addWord (f d) (groupSum ((List.range 8).map (fun e =>
             product [(x i (8 * (m.groups + d) + e)).1, (y (8 * (m.groups + d) + e) j).1])))) ∧
           t.tileRead c tile (64 * i + j) = f groups % 2 ^ 32) ∧
         (t.tileWordOf c tile (64 * i + j)).2 = ((wordBefore s c zeroed tile (64 * i + j)).2 ||
           (List.range (8 * groups)).any (fun q => (x i (8 * m.groups + q)).2 || (y (8 * m.groups + q) j).2)))) ∧
  (∀ (k : Key) (seq : Nat) (s : State) (c : Context) (m : Cmd) (a b : Word), RunsMatrix s k seq c m →
    m.kind = .mscaleacc a b →
    (let tile := wbits b 0 4
     let source := wbits b 4 4
     let zf := b.getLsbD 35
     ∃ t : State, Leads (.matrixCommandComplete k seq) s t ∧ t.scratch = s.scratch ∧ t.mem = s.mem ∧ ∀ w, w < 4096 →
       (source = tile ∨ (c.tileMap[source]?).getD 0 ≠ (c.tileMap[tile]?).getD 0) →
       (let x := wordBefore s c (zf && decide (source = tile)) source w
        let old := wordBefore s c zf tile w
        let row := scaleAt s c (wbits a 0 21) (wbits a 21 5) (w / 64)
        let col := scaleAt s c (wbits a 29 21) (wbits a 50 5) (w % 64)
        t.tileWordOf c tile w =
          (addWord old.1 (product [wordValue (b.getLsbD 32) x.1, row.1, col.1]) % 2 ^ 32, old.2 || x.2 || row.2 || col.2)))) ∧
  (∀ (k : Key) (seq : Nat) (s : State) (c : Context) (m : Cmd) (a b : Word), RunsMatrix s k seq c m → m.kind = .mload a b →
    (let fmt := wbits a 21 5
     ∃ t : State, Leads (.matrixCommandComplete k seq) s t ∧ t.scratch = s.scratch ∧ t.mem = s.mem ∧ ∀ w, w < 4096 →
       (let e := s.runElem c (wbits a 0 21) (fmtWidth fmt) w
        t.tileWordOf c (wbits b 0 4) w =
          (if isIntFmt fmt then unsignedOf 32 (intValue fmt e.1) else (fp32.convert rne false (elemValue fmt e.1)).code % 2 ^ 32,
            e.2)))) ∧
  (∀ (k : Key) (seq : Nat) (s : State) (c : Context) (m : Cmd) (a b icount seed : Word), RunsMatrix s k seq c m →
    m.kind = .mstore a b icount seed → s.scratch.wf = true → c.area.wf = true →
    (let fmt := wbits a 21 5
     let off := wbits a 0 21
     let n := 512 * fmtWidth fmt
     ∃ (t : State) (c' : Context), Leads (.matrixCommandComplete k seq) s t ∧
       HasCmd t k seq c' { m with state := .done, fault := none } ∧ t.acc = s.acc ∧ t.mem = s.mem ∧
       (∀ e, e < 4096 →
         (let x := s.tileWordOf c (wbits b 0 4) e
          (t.runElem c' off (fmtWidth fmt) e).1 =
            (convertTo fmt { mode := wbits a 26 3, seed := seed.toNat, icount := icount.toNat, elem := e } (a.getLsbD 29)
              (wordValue (b.getLsbD 32) x.1)).code % 2 ^ fmtWidth fmt ∧
          (x.2 = true → fmtWidth fmt ≠ 0 → (t.runElem c' off (fmtWidth fmt) e).2 = true))) ∧
       (c.inH = false → c.touchesDiscarded off n = false → ∀ p, (p < c.sliceBase + off ∨ c.sliceBase + off + n ≤ p) →
         t.scratch.cells.read p = s.scratch.cells.read p)))

/-- The cells of a bank that fire in a step (R189). -/
def firing (s : State) (c : Context) (tile : Nat) (g : LampCfg) : List Nat :=
  (List.range 4096).filter (fun cell => decide (g.theta ≤ integrated s c tile g cell))

/-- A run stands between two phases of the step `g` tells, its bank's configuration at `off` (R276). -/
def RunAt (s : State) (k : Key) (seq : Nat) (c : Context) (m : Cmd) (a b : Word) (off : Nat) (g : LampCfg) (ph : LampPhase) : Prop :=
  HasCmd s k seq c m ∧ m.kind = .lrun a b ∧ c.slot.isSome = true ∧ m.state = .started ∧ m.lamp = ph ∧
    ∃ g0, c.bankIn (wbits a 0 4) m.bank = some (off, g0) ∧ g = { g0 with step := g0.step + m.steps, fired := m.fired }

/-- A lamp command has completed with a fault of its barrier cell (R189, R192), or without one where LSTOP has asked it to end
(R277). -/
def BarrierFaulted (t : State) (k : Key) (seq : Nat) (stopped : Bool) (g : LampCfg) (code : FaultCode) : Prop :=
  ∃ (c' : Context) (m' : Cmd), HasCmd t k seq c' m' ∧ m'.state = .done ∧
    if stopped then m'.fault = none
    else ∃ f, m'.fault = some f ∧ f.code = code ∧ f.addr = BitVec.ofNat 64 g.barrier

/-- FIRED and STEP of a bank stand in the slice (R186, R189). -/
def BankWritten (t : State) (k : Key) (off fired step : Nat) : Prop :=
  ∀ c', t.ctx? k = some c' → t.sliceRead c' (off + 24) 4 = fired % 2 ^ 32 ∧ t.sliceRead c' (off + 48) 4 = step % 2 ^ 32

/-- R185, R187, R189, R190, R192, R275: an LSPARK puts one spark on its way; a run integrates every cell of its bank: the
leak, the weights queued for the step, saturation, and a firing at the threshold, which resets V or subtracts THETA, by the
configuration as it stood at acceptance (R276); each firing is counted, logged while the log has room, and sends its fan-out's
sparks on their way. The step goes on when they are settled: 1 is joined to the barrier cell, and when that has reached the
step's threshold FIRED and STEP are written and the next step begins, or the run completes; what the barrier cell refuses
completes the run with its fault, and a run that LSTOP has asked to end completes without one (R277). That the run joins and
tests the cell at its home in its own step, where the test is counted once, is the model's choice (notes/assumptions/13.md,
44.md, 60.md). A spark reaches its queue, or is dropped when its step has passed, or begun, or its tile is
gone. -/
def Obligations.LampBanksStepAndSpark : Prop :=
  (∀ (k : Key) (seq : Nat) (s : State) (c : Context) (m : Cmd) (a b : Word), HasCmd s k seq c m → m.kind = .lspark a b →
    c.readyCmd m = true →
    (let target := BitVec.ofNat 26 (wbits a 0 26)
     ∃ (t : State) (c' : Context), Leads (.lampStep k seq) s t ∧
       HasCmd t k seq c' { m with state := .started, unsettled := m.unsettled + 1 } ∧
       (t.core (lampCore target)).sparks = (s.core (lampCore target)).sparks ++
         [{ target := target, key := none, weight := BitVec.ofNat 16 (wbits a 32 16), step := wbits b 32 32
            emitter := k, seq := seq, order := s.nextSeq }])) ∧
  (∀ (k : Key) (seq off tile : Nat) (s : State) (c : Context) (m : Cmd) (a b : Word) (g0 g : LampCfg), HasCmd s k seq c m →
    m.kind = .lrun a b → tile = wbits a 0 4 → c.engaged = true → (c.readyCmd m = true ∨ m.state = .started) →
    m.lamp = .integrate → c.bankIn tile m.bank = some (off, g0) →
    g = { g0 with step := g0.step + m.steps, fired := m.fired } → Sys2Proof.Safety.memoryOk s →
    ∃ (t : State) (c' : Context) (m' : Cmd), Leads (.lampStep k seq) s t ∧ HasCmd t k seq c' m' ∧ m'.lamp = .settle ∧ m'.state = .started ∧
      m'.steps = m.steps ∧ t.mem = s.mem ∧
      (∀ cell, cell < 4096 → t.tileRead c tile cell = (let v := integrated s c tile g cell
        unsignedOf 32 (if v < g.theta then v else if g.reset then 0 else v - g.theta))) ∧
      (let fs := firing s c tile g
       (m.fired < 2 ^ 32 → m'.fired = min (m.fired + fs.length) (2 ^ 32 - 1)) ∧
       (∀ (i cell : Nat), fs[i]? = some cell → m.fired + fs.length < 2 ^ 32 → m.fired + i < g.logcap → c.area.wf = true →
         t.sliceRead c' (g.log + 8 * (m.fired + i)) 8 = g.step % 2 ^ 32 + cell * 2 ^ 32 + tile * 2 ^ 44) ∧
       m'.unsettled = m.unsettled + (fs.map (fun cell => (g.fanOut m.bank cell).2)).sum ∧
       ∀ cell ∈ fs, ∀ i, i < (g.fanOut m.bank cell).2 →
         (let e := fanEntry (m.bank.readN (g.entries + 8 * ((g.fanOut m.bank cell).1 + i)) 8)
          ∃ x ∈ (t.core (lampCore e.1)).sparks, x.target = e.1 ∧ x.key = none ∧ x.weight = e.2.2 ∧
            x.step = (g.step + e.2.1) % 2 ^ 32 ∧ x.emitter = k ∧ x.seq = seq))) ∧
  (∀ (i o : Nat) (s : State) (x : Spark) (e c : Context) (m : Cmd), s.sparksUnderWay[i]? = some x →
    HasCmd s x.emitter x.seq e m → (∀ a b, m.kind ≠ .lspark a b) → s.lampOwner e x.target = some c →
    c.lampCfg[lampTile x.target % 16]'(Nat.mod_lt _ (by decide)) = some o →
    (let step := s.bankStep c (lampTile x.target) o
     ∃ (t : State) (c' : Context) (m' : Cmd), Leads (.sparkArrival i) s t ∧ HasCmd t x.emitter x.seq c' m' ∧ m'.unsettled = m.unsettled - 1 ∧
       ((step < x.step ∨ (x.step = step ∧ c.stepBegun (lampTile x.target) = false)) → { x with key := some c.key } ∈ (t.core (lampCore x.target)).sparks ∧
         m'.sparkFaults = m.sparkFaults) ∧
       ((x.step < step ∨ (x.step = step ∧ c.stepBegun (lampTile x.target) = true)) → (∀ y ∈ (t.core (lampCore x.target)).sparks, y.order ≠ x.order) ∧
         m'.sparkFaults = m.sparkFaults ++ [(x.order, { code := .range, addr := x.target.setWidth 64 })]))) ∧
  (∀ (i : Nat) (s : State) (x : Spark) (e : Context) (m : Cmd), s.sparksUnderWay[i]? = some x →
    HasCmd s x.emitter x.seq e m → (∀ a b, m.kind ≠ .lspark a b) → s.lampOwner e x.target = none →
    ∃ (t : State) (c' : Context) (m' : Cmd), Leads (.sparkArrival i) s t ∧ HasCmd t x.emitter x.seq c' m' ∧
      (∀ y ∈ (t.core (lampCore x.target)).sparks, y.order ≠ x.order) ∧
      m'.sparkFaults = m.sparkFaults ++ [(x.order, { code := .accBound, addr := x.target.setWidth 64 })]) ∧
  ((∀ (i : Nat) (s : State) (x : Spark) (e : Context) (m : Cmd) (a b : Word), s.sparksUnderWay[i]? = some x →
    HasCmd s x.emitter x.seq e m → m.kind = .lspark a b → m.sparkFaults = [] →
    ∃ (t : State) (c' : Context) (m' : Cmd), Leads (.sparkArrival i) s t ∧ HasCmd t x.emitter x.seq c' m' ∧ m'.state = .done ∧
      ((s.lampOwner e x.target = none ∨ ∃ c, s.lampOwner e x.target = some c ∧
          c.lampCfg[lampTile x.target % 16]'(Nat.mod_lt _ (by decide)) = none) → (∀ y ∈ (t.core (lampCore x.target)).sparks, y.order ≠ x.order) ∧
        ∃ f, m'.fault = some f ∧ f.code = .accBound ∧ f.addr = x.target.setWidth 64) ∧
      (∀ c o, s.lampOwner e x.target = some c → c.lampCfg[lampTile x.target % 16]'(Nat.mod_lt _ (by decide)) = some o →
        (let step := s.bankStep c (lampTile x.target) o
         ((step < x.step ∨ (x.step = step ∧ c.stepBegun (lampTile x.target) = false)) →
           { x with key := some c.key } ∈ (t.core (lampCore x.target)).sparks ∧ m'.fault = none) ∧
         ((x.step < step ∨ (x.step = step ∧ c.stepBegun (lampTile x.target) = true)) →
           (∀ y ∈ (t.core (lampCore x.target)).sparks, y.order ≠ x.order) ∧
           ∃ f, m'.fault = some f ∧ f.code = .range ∧ f.addr = x.target.setWidth 64)))) ∧
  (∀ (k : Key) (seq off : Nat) (l : Leaf) (s s1 : State) (c : Context) (m : Cmd) (a b : Word) (g : LampCfg),
    RunAt s k seq c m a b off g .settle → m.unsettled = 0 → Gives (barrierPage c .write g.barrier) s (.ok l) s1 →
    l.jblock = false → l.cnt = false → l.key g.barrier % 8 = 0 → s1.ctx? k = some c → Sys2Proof.Safety.memoryOk s1 →
    (let key := l.key g.barrier
     let md := s1.md.read (key / 128)
     (mdState md ≠ 2 → (mdWidth md = 0 ∨ mdWidth md = 3) → ∃ (t : State) (c' : Context), Leads (.lampStep k seq) s t ∧
       HasCmd t k seq c' { m with lamp := .waiting } ∧ Retested s1 t (key / 128) ∧
       t.mem.readN key 8 = min ((if mdWidth md = 0 then 0 else s1.mem.readN key 8) + 1) (2 ^ 64 - 1) ∧
       MemOutside s1 t (128 * (key / 128)) 128) ∧
     (mdState md = 2 → ∃ t : State, Leads (.lampStep k seq) s t ∧ BarrierFaulted t k seq m.stopAsked g .writeAfterFreeze ∧ t.mem = s1.mem) ∧
     (mdState md ≠ 2 → mdWidth md ≠ 0 → mdWidth md ≠ 3 →
       ∃ t : State, Leads (.lampStep k seq) s t ∧ BarrierFaulted t k seq m.stopAsked g .widthMismatch ∧ t.mem = s1.mem))) ∧
  (∀ (k : Key) (seq : Nat) (s : State) (c : Context) (m : Cmd) (a b : Word) (off : Nat) (g : LampCfg),
    RunAt s k seq c m a b off g .settle → m.unsettled ≠ 0 → Leads (.lampStep k seq) s s) ∧
  (∀ ph ∈ ([.waiting, .asked] : List LampPhase), ∀ (k : Key) (seq off : Nat) (l : Leaf) (s s1 : State) (c : Context) (m : Cmd)
      (a b : Word) (g : LampCfg), RunAt s k seq c m a b off g ph → c.engaged = true →
    Gives (barrierPage c .read g.barrier) s (.ok l) s1 →
    s1.ctx? k = some c → s1.scratch.wf = true → c.area.wf = true →
    (let r := testAt l g.barrier (.await (BitVec.ofInt 64 ((g.p : Int) * ((g.step : Int) + 1 - g.first)))) s1
     ∃ (t : State) (c' : Context) (m' : Cmd), Leads (.lampStep k seq) s t ∧ HasCmd t k seq c' m' ∧ t.mem = s1.mem ∧
       t.counters = (if ph = .asked then s1 else s1.countTest c l g.barrier).counters ∧
       (r = none → m' = { m with lamp := .asked }) ∧
       (∀ x, r = some x → x.code = none → BankWritten t k off m.fired (g.step + 1) ∧
         (m.stopAsked = true → m' = { m with lamp := .asked, state := .done, fault := none }) ∧
         (m.stopAsked = false → wbits a 32 32 ≤ m.steps + 1 →
           m' = { m with lamp := .asked, state := .done, fault := m.sparkFault.map (fun x => { x with engine := m.id }) }) ∧
         (m.stopAsked = false → m.steps + 1 < wbits a 32 32 → m' = { m with steps := m.steps + 1, lamp := .integrate })) ∧
       (∀ x code, r = some x → x.code = some code →
         BarrierFaulted t k seq m.stopAsked g code ∧ BankWritten t k off m.fired (g.step + 1)))))

/-- R76, R130, R283, R311: what arrives at its issuer: an acknowledgement ends its join or posts its fault, a line is
there for the read that asked, a test's outcome is there for its context, and a SPAWNW record sets out for its deque; a
context parked for it is woken. R99, R100, R104: an invalidation ends once what it waits for has: no line of its range
is left in an L1 data cache, its entry is gone, and a writer parked on a page of the range is woken. -/
def Obligations.AnswersAndInvalidationsArrive : Prop :=
  ((∀ (m n : Nat) (k : Key) (va : Word) (code : Option FaultCode) (s : State) (x : Msg) (c : Context), s.msg? m = some x →
    x.loc = .arrived → (∀ y ∈ s.msgs, y.id ∉ x.behind) → x.body = .ack { who := .ctx k n, va := va } code → s.ctx? k = some c →
    ∃ (t : State) (c' : Context), Leads (.ackArrival m) s t ∧ t.msg? m = none ∧ t.ctx? k = some c' ∧ c'.outs = c.outs.filter (fun o => o.n != n) ∧
      c'.posted = c.posted ++ (match code with
        | some e => [{ n := n, code := e, va := va }]
        | none => []) ∧ c'.regs = c.regs ∧
      (∀ a st, c.status = .parked (.acks a) st →
        c'.status = if t.acksDone c' a then .ready s.nextSeq else c.status) ∧ t.mem = s.mem ∧ t.md = s.md) ∧
  (∀ (m n : Nat) (k : Key) (s : State) (x : Msg) (c : Context) (y : LineSnap), s.msg? m = some x → x.loc = .arrived →
    (∀ z ∈ s.msgs, z.id ∉ x.behind) → x.body = .data (.ctx k n) none → x.snap = some y → s.ctx? k = some c → c.asked = true →
    c.nextReq = n → ∃ (t : State) (c' : Context), Leads (.ackArrival m) s t ∧ t.msg? m = none ∧ t.ctx? k = some c' ∧ c'.lines = c.lines ++ [{ y with gen := x.gen }] ∧
      c'.regs = c.regs ∧ t.mem = s.mem) ∧
  (∀ (m n : Nat) (k : Key) (r : TestResult) (s : State) (x : Msg) (c : Context), s.msg? m = some x → x.loc = .arrived →
    x.body = .result (.ctx k n) r → s.ctx? k = some c → c.asked = true → c.nextReq = n → c.reply = none →
    ∃ (t : State) (c' : Context), Leads (.wakeResult m) s t ∧ t.msg? m = none ∧ t.ctx? k = some c' ∧ c'.reply = some { n := n, r := r } ∧
      (∀ st, c.status = .parked .reply st → c'.status = .ready s.nextSeq) ∧ c'.regs = c.regs ∧ t.mem = s.mem) ∧
  (∀ (m core i : Nat) (k : Key) (rec : TaskRec) (pc : CodeAddr) (first : Word) (s : State) (x : Msg), s.msg? m = some x →
    x.loc = .arrived → x.body = .result (.watch k core rec pc) (.passed i first) →
    ∃ t : State, Leads (.wakeResult m) s t ∧ t.msg? m = none ∧
      t.transit = s.transit ++ [{ id := s.nextSeq, core := core, kind := 0, r := rec }] ∧ t.mem = s.mem)) ∧
  ((∀ (i : Nat) (s : State) (v : Inval), s.invals[i]? = some v → s.invalDone v = true →
    ∃ t : State, Leads (.tlbinvComplete i) s t ∧ (∀ y ∈ t.invals, y.id ≠ v.id) ∧
      (∀ y ∈ s.invals, y.id ≠ v.id → y ∈ t.invals) ∧
      (∀ n, ∀ y ∈ (t.core n).l1, y.asid = v.asid → inRange (128 * y.va) v.lo v.size = false) ∧
      (∀ (k : Key) (c : Context) (va n : Nat), s.ctx? k = some c → c.status = .parked (.jblock va) n → c.asid = v.asid →
        inRange va v.lo v.size = true → ∃ c' st, t.ctx? k = some c' ∧ c'.status = .ready st) ∧ t.md = s.md ∧
      ((∀ c ∈ s.allCtxs, c.asid = v.asid → c.slot.isSome = true ∧ ∀ n : Fin 8, c.regs.b[n].rearmed v.lo v.size = false ∧
          c.unitStart.b[n].rearmed v.lo v.size = false) →
        t.mem = s.mem)) ∧
  (∀ (i : Nat) (s : State) (v : Inval), s.invals[i]? = some v → s.invalDone v = false → Leads (.tlbinvComplete i) s s))

namespace Sys2Proof.Claims

/-- A node of a kind has been started: it was the first ready node of a graph whose walker may act, its words are constants
within their limits, and it runs (R323). -/
def Starts (s : State) (g n kind : Nat) (a : NodeAt) (u : State) : Prop :=
  ∃ s1, s.startable g n kind = some (a, s1) ∧ nodeOk a.ws = true ∧
    u = s1.modNode g n (fun y => { y with state := .running, done := 0, taken := none })

/-- A node's start has led to `e`, and then its test of a COUNT cell sets out for the cell's home, where it is counted once, as
one request (R101; notes/assumptions/60.md); a node that makes no such test stays at `e`. -/
def CountsTest (i : Instr) (s e : State) (c : Context) (quiet : Bool) (cell : Nat) : Prop :=
  (quiet = true → Leads i s e) ∧
    (quiet = false → ∀ t, Gives (agentAsk c (fun ty => decide (ty = 9)) cell) e () t → Leads i s t)

/-- The walker's context for a node. -/
def walkerOf (a : NodeAt) (s : State) : Context := s.walkerCtx a.g

/-- Bits of a word of a node. -/
def nw (a : NodeAt) (i lo n : Nat) : Nat := wbits (nodeWord a.ws i) lo n

/-- A node of a live graph as it stands. -/
def NodeIs (s : State) (g n : Nat) (y : GNode) : Prop := ∃ x, s.graph? g = some x ∧ x.node? n = some y

/-- The place of a queue's next completion entry (R367). -/
def completionAt (s : State) (q : Fin 64) : Nat :=
  s.queues[q].comp.toNat + 32 * (s.queues[q].ctail.toNat % 2 ^ wbits s.queues[q].rsize 0 5)

/-- A completion stands in its queue's ring, CTAIL has moved on, and the queue's vector is raised (R332, R367). -/
def Posted (s t : State) (q : Fin 64) (ws : List Word) : Prop :=
  (∀ i, i < 4 → t.mem.readN (completionAt s q + 8 * i) 8 = ((ws[i]?).getD 0).toNat) ∧
    t.queues[q] = { s.queues[q] with ctail := s.queues[q].ctail + 1 } ∧ t.vectors = s.vectors ||| ((1 : BitVec 66) <<< q.val)

end Sys2Proof.Claims

/-- R320, R321, R324, R326, R327: what each kind of node does when it starts: TASKSET sends its records round its cores, CREW
holds a crew, COPY begins and performs unit after unit, COND chooses its edge, WHILE sets its body going, FREEZE freezes,
FALLOW freezes and begins its invalidation, WAITCELL tests, NOTIFY posts its word, END ends the graph. The agents act at the
home in the step that starts or carries on the node, and only on what is settled: the model's choices (notes/assumptions/13.md,
63.md), and so is that the test of a cell is counted where it starts (notes/assumptions/60.md). -/
def Obligations.GraphNodesDoTheirWork : Prop :=
  (∀ (g n : Nat) (s u v t : State) (a : NodeAt) (r : TaskRec), Starts s g n 1 a u →
    (1 ≤ nw a 4 0 32 ∧ nw a 4 32 3 ≤ 5 ∧ nw a 4 35 29 = 0 ∧ nw a 5 20 44 = 0 ∧ 1 ≤ nw a 5 10 10 ∧
      nw a 5 10 10 ≤ 768) →
    Gives (agentRecord (walkerOf a u) a.g.launch (nodeWord a.ws 3).toNat) u (.ok r) v → r.cls = 0 →
    Gives (countCell (walkerOf a u) (nodeWord a.ws 1).toNat) v none t →
    ∃ e : State, CountsTest (.nodeTaskset g n) s e (walkerOf a u) (nodeQuiet a.ws) (nodeWord a.ws 1).toNat ∧
      e.transit.map (fun x => (x.core, x.kind, x.r)) = t.transit.map (fun x => (x.core, x.kind, x.r)) ++
        (List.range (nw a 4 0 32)).map (fun i => ((nw a 5 0 10 + i % nw a 5 10 10) % 768, 3, t.tasksetRecord a r i)) ∧
      e.mem = t.mem ∧
      ∀ i, i < 2 ^ 32 → (t.tasksetRecord a r i).handler = r.handler ∧
        (t.tasksetRecord a r i).cell.toNat = nw a 1 0 48 ∧
        (t.tasksetRecord a r i).words[(2 + nw a 4 32 3) % 8]'(Nat.mod_lt _ (by decide)) = BitVec.ofNat 64 i) ∧
  (∀ (g n : Nat) (s u v w t : State) (a : NodeAt) (ms : List (Nat × TaskRec)) (ds : List Word), Starts s g n 2 a u →
    (1 ≤ nw a 4 0 4 ∧ nw a 4 0 4 ≤ 8 ∧ nw a 4 4 6 ≤ 32 ∧ nw a 4 10 54 = 0) →
    Gives (crewMembers a (walkerOf a u) 0 (nw a 4 0 4)) u (.ok ms) v → (ms.map (fun m => m.1)).Nodup →
    Gives (agentConsts (walkerOf a u) (nodeWord a.ws 5).toNat (nw a 4 4 6)) v (.ok ds) w → ds.all (descOk ms) = true →
    (descPorts ds).Nodup → Gives (countCell (walkerOf a u) (nodeWord a.ws 1).toNat) w none t →
    CountsTest (.nodeCrew g n) s { t with
      nextSeq := t.nextSeq + 1
      crews := t.crews ++ [{ id := t.nextSeq, launch := a.g.launch, order := t.nextSeq, members := ms, descs := ds }] }
      (walkerOf a u) false (nodeWord a.ws 1).toNat) ∧
  (∀ (g n : Nat) (s u v : State) (a : NodeAt) (mig : Bool), Starts s g n 3 a u → nodeCopyOk a.ws = true →
    (let k := nodeCopyOf a.ws
     Gives (agentMigrates (walkerOf a u) k.1 k.2.1 k.2.2.1 k.2.2.2) u (.ok mig) v →
     Leads (.nodeCopy g n) s (v.modNode a.g.id a.n.idx (fun y => { y with mig := mig })))) ∧
  (∀ (g n : Nat) (s s1 t : State) (x : Graph) (y : GNode) (ws : List Word) (z : CopyUnit), s.graph? g = some x →
    x.node? n = some y → y.state = .running → s.walks x = true →
    Gives (agentConsts (s.walkerCtx x) (x.nodeVa n) 8) s (.ok ws) s1 → nodeKind ws = 3 →
    (let k := nodeCopyOf ws
     agentUnit k.2.1 k.2.2.1 k.2.2.2 y.done = some z → Gives (agentCopyUnit (s1.walkerCtx x) k.1 y.mig z) s1 .done t →
     Leads (.nodeCopy g n) s (t.modNode x.id y.idx (fun y => { y with done := y.done + 1 })))) ∧
  (∀ (g n : Nat) (s u t : State) (a : NodeAt) (x : Word), Starts s g n 4 a u → nw a 2 48 16 = 2 →
    Gives (agentExact (walkerOf a u) (nodeWord a.ws 3).toNat) u (.ok x) t →
    Leads (.nodeCond g n) s (t.modNode a.g.id a.n.idx (fun y => { y with taken := some (if x = 0 then 1 else 0) }))) ∧
  (∀ (g n : Nat) (s u v t : State) (a : NodeAt) (x : Word) (ps : List Nat), Starts s g n 5 a u →
    a.g.whileOk a.n.idx (nw a 4 0 16) (nw a 4 16 16) = true →
    Gives (nodePreds (walkerOf a u) a.g (nw a 4 0 16) (nw a 4 16 16 + 1 - nw a 4 0 16)) u (.ok ps) v → ps.headD 0 = 0 →
    Gives (agentExact (walkerOf a u) (nodeWord a.ws 3).toNat) v (.ok x) t →
    ((x = 0 ∨ nw a 4 32 32 ≤ a.n.w) →
      Leads (.nodeWhile g n) s (t.modNode a.g.id a.n.idx (fun y => { y with taken := some 0 }))) ∧
    (x ≠ 0 → a.n.w < nw a 4 32 32 →
      Leads (.nodeWhile g n) s (t.startBody a.g.id (nw a 4 0 16) (nw a 4 16 16) ps))) ∧
  (∀ (g n : Nat) (s u t : State) (a : NodeAt), Starts s g n 6 a u →
    rangeFault 128 (nodeWord a.ws 3).toNat (nodeWord a.ws 4).toNat = none →
    Gives (agentFreeze (walkerOf a u) false (nodeWord a.ws 3).toNat (nodeWord a.ws 4).toNat) u none t →
    Leads (.nodeFreeze g n) s t) ∧
  (∀ (g n : Nat) (s u t : State) (a : NodeAt), Starts s g n 7 a u →
    rangeFault 4096 (nodeWord a.ws 3).toNat (nodeWord a.ws 4).toNat = none →
    Gives (agentFreeze (walkerOf a u) true (nodeWord a.ws 3).toNat (nodeWord a.ws 4).toNat) u none t →
    ∃ (e : State) (v : Inval), Leads (.nodeFallow g n) s e ∧ e.invals = t.invals ++ [v] ∧ v.asid = (walkerOf a u).key.asid ∧
      v.lo = (nodeWord a.ws 3).toNat ∧ v.size = (nodeWord a.ws 4).toNat ∧ v.by_ = none) ∧
  (∀ (g n : Nat) (s u v t : State) (a : NodeAt) (b : Bool), Starts s g n 8 a u →
    Gives (agentAsk (walkerOf a u) fieldType (nodeWord a.ws 3).toNat) u () v →
    Gives (agentTest (walkerOf a v) fieldType (nodeWord a.ws 3).toNat (nodeWord a.ws 4)) v (.ok b) t →
    Leads (.nodeWaitcell g n) s t) ∧
  (∀ (g n : Nat) (s u : State) (a : NodeAt) (l : Launch) (q : Fin 64), Starts s g n 9 a u →
    u.launch? a.g.launch = some l → l.queue = some q → u.mem.wf = true →
    ∃ (t : State) (ws : List Word), Leads (.nodeNotify g n) s t ∧ Posted u t q ws ∧ ws.length = 4 ∧ ws[0]? = some (nodeWord a.ws 3)) ∧
  (∀ (g n : Nat) (s u : State) (a : NodeAt), Starts s g n 10 a u →
    Leads (.nodeEnd g n) s (u.modGraph a.g.id (fun x => { x with ended := true })))

namespace Sys2Proof.Claims

/-- A node of kind `k` is running, and its walker reads its words. -/
def RunsAs (s : State) (g n k : Nat) (x : Graph) (y : GNode) (ws : List Word) (s1 : State) : Prop :=
  s.graph? g = some x ∧ x.node? n = some y ∧ s.walks x = true ∧ y.state = .running ∧
    Gives (agentConsts (s.walkerCtx x) (x.nodeVa n) 8) s (.ok ws) s1 ∧ nodeKind ws = k

/-- The node completes: its state is noted, its edges are performed as `runs` says, and at a body's last node the WHILE node
looks again; an edge that fails fails the node. -/
def NodeEnds (s : State) (g n : Nat) (x : Graph) (y : GNode) (ws : List Word) (st : NodeState) (runs : Nat → Bool) (t : State) :
    Prop :=
  ∀ (o : Option FaultCode) (v : State),
    Gives (edgesDone (t.walkerCtx x) x y.idx (wbits (nodeWord ws 2) 0 48) runs 0 (wbits (nodeWord ws 2) 48 16))
      (t.modNode x.id y.idx (fun y => { y with state := st })) o v →
    Leads (.nodeComplete g n) s (match o with
      | none => v.endIteration x y.idx
      | some code => v.failNode x y.idx code)

/-- The threshold of a COUNT cell: n times the iterations so far (R324, R326). -/
def countTrigger (x : Graph) (y : GNode) (n : Nat) : Word := BitVec.ofNat 64 (n * (x.iteration y.idx + 1))

/-- The place a node takes after one more completion counted into it. -/
def CountedInto (z z' : GNode) (run : Bool) : Prop :=
  z'.pending = z.pending - 1 ∧ z'.anyRun = (z.anyRun || run) ∧ (z.pending = 1 → z'.state = .ready) ∧
    (z.pending ≠ 1 → z'.state = z.state)

end Sys2Proof.Claims

/-- R323, R325, R327 to R330: a node whose action is done completes as run, and one that no run reaches as skipped; an edge
lowers its successor's count, and the last one makes it ready. A graph that has ended, with no task live, posts its
completion, a failed one with its code; a graph that cannot go on fails. A TASKSET and a CREW are done once their COUNT cell
passes, a QUIESCE once every task of the launch is at rest (those still parked are reaped), a COPY once no unit is left, a
COND at its edge, a WHILE when its condition ends it, a FALLOW once its invalidation has ended (the lines then take their
reset state), a WAITCELL once its cell passes. The regions of an edge are frozen or dropped before it counts. An edge to
0xFFFF has no successor (R319). When an action counts as done, and a task as at rest, is in part the model's choice
(notes/assumptions/13.md, 63.md). -/
def Obligations.GraphNodesAndGraphsComplete : Prop :=
  (∀ (g n : Nat) (s s1 : State) (x : Graph) (y : GNode) (ws : List Word), s.graph? g = some x → x.node? n = some y →
    s.walks x = true → Gives (agentConsts (s.walkerCtx x) (x.nodeVa n) 8) s (.ok ws) s1 → wbits (nodeWord ws 2) 48 16 = 0 →
    (∀ b ∈ x.bodies, b.2.2 ≠ n) →
    ((y.state = .running → nodeKind ws ∈ [6, 9, 10] →
       Leads (.nodeComplete g n) s (s1.modNode x.id y.idx (fun y => { y with state := .completeRun }))) ∧
     (y.state = .ready → y.anyRun = false →
       Leads (.nodeComplete g n) s (s1.modNode x.id y.idx (fun y => { y with state := .completeSkip }))))) ∧
  (∀ (g n : Nat) (s s1 t : State) (x : Graph) (y z : GNode) (ws : List Word) (w0 w1 : Word), s.graph? g = some x →
    x.node? n = some y → s.walks x = true → y.state = .running →
    Gives (agentConsts (s.walkerCtx x) (x.nodeVa n) 8) s (.ok ws) s1 → nodeKind ws ∈ [6, 9, 10] →
    wbits (nodeWord ws 2) 48 16 = 1 → (∀ b ∈ x.bodies, b.2.2 ≠ n) →
    (let u := s1.modNode x.id y.idx (fun y => { y with state := .completeRun })
     Gives (agentConsts (u.walkerCtx x) (wbits (nodeWord ws 2) 0 48) 2) u (.ok [w0, w1]) t → wbits w0 16 48 = 0 →
     wbits w1 48 16 = 0 →
     (wbits w0 0 16 = 0xFFFF → Leads (.nodeComplete g n) s t) ∧
     (wbits w0 0 16 ≠ 0xFFFF → wbits w0 0 16 < x.count → NodeIs t g (wbits w0 0 16) z → 1 ≤ z.pending →
     x.encl n = x.encl (wbits w0 0 16) →
     ∃ (e : State) (z' : GNode), Leads (.nodeComplete g n) s e ∧ NodeIs e g (wbits w0 0 16) z' ∧ z'.pending = z.pending - 1 ∧ z'.anyRun = true ∧
       (z.pending = 1 → z'.state = .ready) ∧ (z.pending ≠ 1 → z'.state = z.state)))) ∧
  (∀ (g n k : Nat) (s s1 t : State) (x : Graph) (y : GNode) (ws : List Word), RunsAs s g n k x y ws s1 →
    (let c := s1.walkerCtx x
     let satc (ty : Nat) : Bool := decide (ty = 9)
     let cell := (nodeWord ws 1).toNat
     let ends := NodeEnds s g n x y ws .completeRun
     let all (_ : Nat) : Bool := true
     (k = 1 → nodeQuiet ws = false →
        (Gives (agentTest c satc cell (countTrigger x y (wbits (nodeWord ws 4) 0 32))) s1 (.ok true) t → ends all t) ∧
        (Gives (agentTest c satc cell (countTrigger x y (wbits (nodeWord ws 4) 0 32))) s1 (.ok false) t →
          Leads (.nodeComplete g n) s s)) ∧
     (k = 1 → nodeQuiet ws = true →
        (s1.quiescent x.launch = true → ends all (s1.reapAll x.launch)) ∧
        (s1.quiescent x.launch = false → Leads (.nodeComplete g n) s s)) ∧
     (k = 2 →
        (Gives (agentTest c satc cell (countTrigger x y (wbits (nodeWord ws 4) 0 4))) s1 (.ok true) t → ends all t) ∧
        (Gives (agentTest c satc cell (countTrigger x y (wbits (nodeWord ws 4) 0 4))) s1 (.ok false) t →
          Leads (.nodeComplete g n) s s)) ∧
     (k = 3 →
        (let u := agentUnit (nodeCopyOf ws).2.1 (nodeCopyOf ws).2.2.1 (nodeCopyOf ws).2.2.2 y.done
         (u = none → ends all s1) ∧ (u.isSome = true → Leads (.nodeComplete g n) s s))) ∧
     (k = 4 → ∀ i, y.taken = some i → ends (fun j => decide (i = j)) s1) ∧
     (k = 5 → (y.taken.isSome = true → ends all s1) ∧ (y.taken = none → Leads (.nodeComplete g n) s s)) ∧
     (k = 7 →
        ((∀ v ∈ s1.invals, v.id + 1 ≠ y.done) →
          ends all (s1.resetLines c.key.asid (nodeWord ws 3).toNat (nodeWord ws 4).toNat)) ∧
        ((∃ v ∈ s1.invals, v.id + 1 = y.done) → Leads (.nodeComplete g n) s s)) ∧
     (k = 8 →
        (Gives (agentTest c fieldType (nodeWord ws 3).toNat (nodeWord ws 4)) s1 (.ok true) t → ends all t) ∧
        (Gives (agentTest c fieldType (nodeWord ws 3).toNat (nodeWord ws 4)) s1 (.ok false) t →
          Leads (.nodeComplete g n) s s)) ∧
     (k = 6 ∨ k = 9 ∨ k = 10 → ends all s1))) ∧
  (∀ (g n : Nat) (s s1 : State) (x : Graph) (y : GNode) (ws : List Word), s.graph? g = some x → x.node? n = some y →
    s.walks x = true → y.state = .ready → y.anyRun = false →
    Gives (agentConsts (s.walkerCtx x) (x.nodeVa n) 8) s (.ok ws) s1 →
    NodeEnds s g n x y ws .completeSkip (fun _ => false) s1) ∧
  (∀ (s : State) (L : Nat) (l : Launch), s.launch? L = some l →
    (let t := s.reapAll L
     t.mem = s.mem ∧ (∀ c ∈ t.allCtxs, c.launch ≠ L) ∧
       (∀ c ∈ s.allCtxs, (∀ d ∈ s.allCtxs, d.launch = L → d.key ≠ c.key) → c ∈ t.allCtxs) ∧
       (∀ w ∈ t.watches, ∀ c ∈ s.allCtxs, c.launch = L → Who.ofCtx c.key w.who = false) ∧
       ∃ l', t.launch? L = some l' ∧ l'.ended = l.ended ∧
         l'.reaped = l.reaped + (s.allCtxs.filter (fun c => c.launch == L)).length)) ∧
  (∀ (s : State) (L : Nat), s.quiescent L = true →
    (∀ r ∈ s.pendingRecords, r.launch ≠ L) ∧ ∀ c ∈ s.allCtxs, c.launch = L → c.parkedAt.isSome = true ∧ c.outs = [] ∧
      ∀ m ∈ s.msgs, ∀ w ∈ m.body.whos, asksFor c.key w = false) ∧
  (∀ (x : Graph) (n : Nat) (t : State) (b : Nat × Nat × Nat) (z : GNode), x.bodies.find? (fun b => decide (b.2.2 = n)) = some b →
    NodeIs t x.id b.1 z → NodeIs (t.endIteration x n) x.id b.1 { z with w := z.w + 1, state := .ready }) ∧
  (∀ (c : Context) (x : Graph) (n va i k : Nat) (runs : Nat → Bool) (u v w : State) (w0 w1 : Word) (z : GNode),
    Gives (agentConsts c (va + 16 * i) 2) u (.ok [w0, w1]) v → wbits w0 32 32 = 0 → wbits w1 48 16 = 0 →
    wbits w0 0 16 < x.count → wbits w0 0 16 ≠ 0xFFFF →
    (runs i = true → Gives (regionsDone c (wbits w1 0 48) (wbits w0 16 16)) v none w) → (runs i = false → w = v) →
    NodeIs w x.id (wbits w0 0 16) z → x.encl n = x.encl (wbits w0 0 16) →
    (1 ≤ z.pending → ∃ (t : State) (z' : GNode), NodeIs t x.id (wbits w0 0 16) z' ∧ CountedInto z z' (runs i) ∧ t.mem = w.mem ∧
      ∀ o e, Gives (edgesDone c x n va runs (i + 1) k) t o e → Gives (edgesDone c x n va runs i (k + 1)) u o e) ∧
    (z.pending = 0 → Gives (edgesDone c x n va runs i (k + 1)) u (some .illegalOperand) w)) ∧
  (∀ (c : Context) (va k : Nat) (u v : State) (w0 w1 : Word), Gives (agentConsts c va 2) u (.ok [w0, w1]) v → wbits w0 49 15 = 0 →
    wbits w0 0 48 % 128 = 0 → w1.toNat % 128 = 0 → 128 ≤ w1.toNat → w1.toNat ≤ 2 ^ 30 →
    (w0.getLsbD 48 = true → ∀ o e, Gives (regionsDone c (va + 16) k) (v.l1inv c.key.asid (wbits w0 0 48) w1.toNat) o e →
      Gives (regionsDone c va (k + 1)) u o e) ∧
    (w0.getLsbD 48 = false → rangeOk (wbits w0 0 48) w1.toNat = true →
      ∀ w, Gives (agentFreeze c false (wbits w0 0 48) w1.toNat) v none w →
        ∀ o e, Gives (regionsDone c (va + 16) k) w o e → Gives (regionsDone c va (k + 1)) u o e)) ∧
  (∀ (g : Nat) (s : State) (x : Graph) (l : Launch) (q : Fin 64), s.graph? g = some x → s.launchLive x.launch = false →
    s.launch? x.launch = some l → l.queue = some q → s.mem.wf = true →
    (∀ status code node, (x.failed = none ∧ x.ended = true ∧ status = 0 ∧ code = 0 ∧ node = 0 ∨
        ∃ c, x.failed = some (c, node) ∧ status = 2 ∧ code = c.num) →
     ∃ t : State, Leads (.graphComplete g) s t ∧ Posted s t q (l.words status code node) ∧ t.graph? g = none ∧
       t.launch? x.launch = none)) ∧
  (∀ (g : Nat) (s : State) (x : Graph) (y : GNode), s.graph? g = some x → s.walks x = true → x.ended = false →
    (∀ z ∈ x.nodes, z.state ≠ .running ∧ z.state ≠ .ready) → s.launchLive x.launch = false →
    x.nodes.find? (fun z => decide (0 < z.pending)) = some y →
    ∃ (t : State) (r : FaultRec) (x' : Graph), Leads (.graphStallFail g) s t ∧ t.graph? g = some x' ∧ x'.failed = some (.illegalOperand, y.idx) ∧
      t.records = s.records ++ [r] ∧ r.kind = 5 ∧ r.info.code = .illegalOperand ∧
      r.info.addr = BitVec.ofNat 64 (x.nodeVa y.idx) ∧ r.at_ = none)
namespace Sys2Proof.Claims

/-- A task has been started from a record on a core, in a slot (R306): its registers are zero but for PC, the payload in g1
to g6 and the status; its slice is zero. -/
def StartedAs (t : State) (r : TaskRec) (core : Nat) (sl : Slot) (id : BitVec 16) (running : Bool) : Prop :=
  ∃ c, t.ctx? { asid := r.asid, ctxid := id } = some c ∧ c.core = core ∧ c.slot = some sl ∧ c.cell = r.cell ∧
    c.launch = r.launch ∧ c.taskKey = r.key ∧ c.foot = r.foot ∧ c.tiles = r.tiles ∧ c.unit = none ∧ c.cmds = [] ∧
    c.regs = { Regs.zero with pc := r.handler, g := c.regs.g, status := c.regs.status } ∧
    (∀ i : Fin 32, c.regs.g[i] = if h : 1 ≤ i.val ∧ i.val ≤ 6 then { bits := r.words[i.val + 1]'(by omega), mark := decide (i.val = 1) && r.argMark }
      else { bits := 0 }) ∧
    c.regs.status.getLsbD 15 = r.sys ∧ c.regs.status.getLsbD 14 = decide (sl = .h) ∧ wbits c.regs.status 0 10 = 0 ∧
    (running = true → c.status = .running) ∧ (running = false → ∃ n, c.status = .ready n) ∧
    ∀ o, o < 4096 * r.foot → t.scratch.cells.read (c.sliceBase + o) = 0

/-- A core may be given work: nothing executes there, and its die is up. -/
def CoreFree (s : State) (core : Nat) : Prop := s.executing core = none ∧ s.coreLost core = false

/-- The context `c` of `s` stands in `t` as `c'`, running in the room `p`, as its frame held it (R356, R360). -/
def Restored (s t : State) (c c' : Context) (p : Room) : Prop :=
  let f := s.frameAt c.key
  c'.status = .running ∧ c'.core = c.core ∧ c'.slot = some p.slot ∧ c'.base = p.base ∧ c'.tileMap = p.tiles ∧
    c'.foot = c.foot ∧ c'.leaving = false ∧ c'.cmds = c.cmds ∧
    c'.regs.pc.toNat = s.mem.readN (f + 0x440) 8 % 2 ^ 48 ∧
    (∀ n : Fin 32, c'.regs.g[n].bits.toNat = s.mem.readN (f + 0x200 + 8 * n.val) 8) ∧
    ∀ l b, l < 32 * c.foot → b < 128 → bitsOf (s.mem.readN (f + 0x4100 + l / 8) 1) (l % 8) 1 = 1 →
      t.scratch.cells.read (c'.sliceBase + 128 * l + b) = s.mem.cells.read (f + 0x5000 + 128 * l + b)

/-- The PC or a general register in the frame of a context is not as it was saved. -/
def FrameDiffers (s : State) (k : Key) (r : Regs) : Prop :=
  let f := s.frameAt k
  s.mem.readN (f + 0x440) 8 % 2 ^ 48 ≠ r.pc.toNat ∨ ∃ n : Fin 32, s.mem.readN (f + 0x200 + 8 * n.val) 8 ≠ r.g[n].bits.toNat

/-- A context runs, with its registers. -/
def RunsNow (t : State) (c : Context) : Prop := ∃ c' : Context, t.ctx? c.key = some c' ∧ c'.status = .running ∧ c'.regs = c.regs ∧ c'.core = c.core

end Sys2Proof.Claims

/-- R306, R308, R312, R313: a free core runs, in this order, a record of its high inbox, the context that a handler suspended,
a woken context, a place held for the earliest crew that waits for one, a record of its normal inbox, the bottom record of its
deque; with none of these it stays as it is. R356, R360: a woken context in its frame is restored into the room made for it,
or into slot H if it was saved from there, with the registers and the live lines that its frame holds. Inside a unit it goes
on where it was, or runs the unit again from its frame where the frame has been changed: the model's choice, as is which
crew's place is held when (notes/assumptions/48.md, 50.md). -/
def Obligations.CoresChooseWorkInOrder : Prop :=
  (∀ (core : Nat) (s : State) (r : TaskRec) (id : BitVec 16), CoreFree s core → s.highReady core = some (r, id) →
    Sys2Proof.Safety.memoryOk s →
    ∃ t : State, Leads (.coreDispatch core) s t ∧ StartedAs t r core .h id true ∧
      (t.core core).high = (s.core core).high.drop 1) ∧
  (∀ (core : Nat) (s : State) (c : Context), CoreFree s core → s.startHigh core = none → s.inSlot core .h = none →
    (s.residents core).find? (fun c => c.status == .suspended && !c.leaving) = some c →
    ∃ t : State, Leads (.coreDispatch core) s t ∧ RunsNow t c ∧ t.mem = s.mem) ∧
  (∀ (core : Nat) (s : State) (c : Context) (rest : List Context), CoreFree s core → s.startHigh core = none →
    s.continueSuspended core = none → s.woken core = c :: rest → c.slot.isSome = true → s.ctx? c.key = some c →
    ∃ t : State, Leads (.coreDispatch core) s t ∧ RunsNow t c ∧ t.mem = s.mem) ∧
  (∀ (core : Nat) (s s1 : State) (c : Context) (rest : List Context) (p : Room), CoreFree s core → s.startHigh core = none →
    s.continueSuspended core = none → s.woken core = c :: rest → c.slot = none → s.ctx? c.key = some c →
    c.regs.status.getLsbD 14 = false → c.unit = none → s.makeFit core c.foot c.tiles = some (s1, p) →
    Sys2Proof.Safety.memoryOk s1 →
    ∃ (t : State) (c' : Context), Leads (.coreDispatch core) s t ∧ t.ctx? c.key = some c' ∧ Restored s1 t c c' p) ∧
  (∀ (core : Nat) (s : State) (c : Context) (rest : List Context), CoreFree s core → s.startHigh core = none →
    s.continueSuspended core = none → s.woken core = c :: rest → c.slot = none → s.ctx? c.key = some c →
    c.regs.status.getLsbD 14 = true → s.inSlot core .h = none → c.unit = none → Sys2Proof.Safety.memoryOk s →
    ∃ (t : State) (c' : Context), Leads (.coreDispatch core) s t ∧ t.ctx? c.key = some c' ∧
      Restored s t c c' { slot := .h, base := 0, tiles := [] }) ∧
  (∀ (core : Nat) (s s1 : State) (c : Context) (rest : List Context) (p : Room) (u : UnitState), CoreFree s core →
    s.startHigh core = none → s.continueSuspended core = none → s.woken core = c :: rest → c.slot = none →
    s.ctx? c.key = some c → c.regs.status.getLsbD 14 = false → c.unit = some u →
    s.makeFit core c.foot c.tiles = some (s1, p) → Sys2Proof.Safety.memoryOk s1 →
    ∃ (t : State) (c' : Context), Leads (.coreDispatch core) s t ∧ t.ctx? c.key = some c' ∧ c'.status = .running ∧ c'.core = c.core ∧
      c'.slot = some p.slot ∧ c'.base = p.base ∧ c'.cmds = c.cmds ∧
      (c'.unit.isSome = true → c'.unit = c.unit ∧ c'.regs = c.regs) ∧
      (FrameDiffers s1 c.key u.saved → c'.unit = none ∧ Restored s1 t c c' p)) ∧
  (∀ (core : Nat) (s s1 : State) (w : Crew) (foot tiles : Nat) (p : Room), CoreFree s core → s.startHigh core = none →
    s.continueSuspended core = none → s.runFirst core (s.woken core) = none → w ∈ s.crews → s.crewWaits w core = true →
    (∀ v ∈ s.crews, s.crewWaits v core = true → v = w ∨ w.order < v.order) → s.crewNeed w core = some (foot, tiles) →
    s.makeFit core foot tiles = some (s1, p) →
    Leads (.coreDispatch core) s { s1 with crews := s1.crews.map (fun v =>
      if v.id = w.id then { v with reserved := v.reserved ++ [(core, p)] } else v) }) ∧
  (∀ (core : Nat) (s s1 : State) (r : TaskRec) (rest : List TaskRec) (id : BitVec 16) (p : Room), CoreFree s core →
    s.startHigh core = none → s.continueSuspended core = none → s.runFirst core (s.woken core) = none →
    s.canTake core = true → s.reserveCrew core = none → (s.core core).inbox = r :: rest → s.recordHeld r = false →
    s.freeFrame r.asid = some id → s.makeFit core r.foot r.tiles = some (s1, p) → Sys2Proof.Safety.memoryOk s →
    ∃ t : State, Leads (.coreDispatch core) s t ∧ StartedAs t r core p.slot id true ∧ (t.core core).inbox = rest) ∧
  (∀ (core : Nat) (s s1 : State) (r : TaskRec) (rest : List TaskRec) (id : BitVec 16) (p : Room), CoreFree s core →
    s.startHigh core = none → s.continueSuspended core = none → s.runFirst core (s.woken core) = none →
    s.canTake core = true → s.reserveCrew core = none → s.takeInbox core = none → (s.core core).deque = r :: rest →
    s.recordHeld r = false → s.freeFrame r.asid = some id → s.makeFit core r.foot r.tiles = some (s1, p) →
    Sys2Proof.Safety.memoryOk s →
    ∃ t : State, Leads (.coreDispatch core) s t ∧ StartedAs t r core p.slot id true ∧ (t.core core).deque = rest) ∧
  (∀ (core : Nat) (s : State), s.chooseWork core = none → Leads (.coreDispatch core) s s)

namespace Sys2Proof.Claims

/-- A context is parked on a channel that has no item for it, or no free slot, the items of a unit in progress included (R194,
R326). -/
def StuckOnChannel (s : State) (c : Context) : Prop :=
  ∃ ch n, c.status = .parked (.channel ch.id) n ∧ s.chan? ch.id = some ch ∧
    ((ch.dst = c.key ∧ ch.items = []) ∨ (ch.src = c.key ∧ ch.slots ≤ ch.items.length + s.heldItems ch))

end Sys2Proof.Claims

/-- R308, R314 to R317: a high-priority record suspends what runs, at a unit boundary; a handler that overruns faults; a time
slice that ends moves its context aside when other work waits; an idle core gleans, probing core after core; records arrive at
deques and inboxes. Which core a pass probes when, how places are reserved, and what an overrun faults at are in part the
model's choices (notes/assumptions/47.md, 48.md, 64.md). R141, R326: a crew whose members' places are all held starts them
together, ready, with its channels between them; a crew all of whose members wait on channels is stopped with CREW_DEADLOCK.
-/
def Obligations.CoresAndCrewsShareWork : Prop :=
  ((∀ (core : Nat) (s : State) (c : Context) (r : TaskRec) (id : BitVec 16), s.highReady core = some (r, id) →
    s.executing core = some c → s.ctx? c.key = some c → c.unit = none → Sys2Proof.Safety.memoryOk s →
    ∃ (t : State) (c' : Context), Leads (.highPriorityStart core) s t ∧ StartedAs t r core .h id true ∧ t.ctx? c.key = some c' ∧
      c'.status = .suspended ∧ c'.regs = c.regs ∧ (t.core core).high = (s.core core).high.drop 1) ∧
  (∀ (core : Nat) (s : State) (c : Context), s.inSlot core .h = some c → s.ctx? c.key = some c → c.status ≠ .stopped →
    s.recordsFull c.key { code := .handlerOverrun } = false → s.atEnd c = false →
    ∃ (t : State) (c' : Context), Leads (.handlerOverrun core) s t ∧ t.ctx? c.key = some c' ∧ c'.status = .stopped ∧
      wbits c'.faultCode 0 8 = 0x08 ∧ c'.faultPc = c.regs.pc.setWidth 64 ∧ c'.regs = c.unitStart ∧ t.mem = s.mem) ∧
  (∀ (core : Nat) (s : State) (c : Context), s.inSlot core .h = some c → s.atEnd c = true → Leads (.handlerOverrun core) s s) ∧
  (∀ (core : Nat) (s : State) (c : Context), s.executing core = some c → s.ctx? c.key = some c → c.inH = false →
    s.workWaits core = true →
    (c.unit = none → ∃ (t : State) (c' : Context), Leads (.timeSliceExpiry core) s t ∧ t.ctx? c.key = some c' ∧ c'.status = .ready s.nextSeq ∧
      c'.regs = c.regs ∧ c'.slot = c.slot ∧ t.mem = s.mem) ∧
    (c.unit.isSome = true → Leads (.timeSliceExpiry core) s s)) ∧
  (∀ (core : Nat) (s : State), s.executing core = none → s.canTake core = true → (s.core core).glean = .idle →
    s.chooseWork core = none →
    ∃ t : State, Leads (.gleanPass core) s t ∧
      (t.core core).glean = .probing ((victims core).filter (fun v => !(s.core v).out)) ∧ t.mem = s.mem) ∧
  (∀ (core v : Nat) (rest : List Nat) (s : State), core ≠ v → (s.core core).glean = .probing (v :: rest) →
    (s.canTake core = false → ∃ t : State, Leads (.gleanProbe core) s t ∧ (t.core core).glean = .idle) ∧
    (s.canTake core = true → (s.core v).deque = [] →
      ∃ t : State, Leads (.gleanProbe core) s t ∧ (t.core core).glean = .probing rest) ∧
    (∀ r, s.canTake core = true → s.apart (dieOf core) (dieOf v) = false → (s.core v).deque.getLast? = some r → s.couldFit core r.foot r.tiles = true → s.launchSuspended r.launch = false →
      s.coreLost v = false → ∃ t : State, Leads (.gleanProbe core) s t ∧ (t.core core).glean = .carrying r ∧
        (t.core v).deque = (s.core v).deque.dropLast)) ∧
  (∀ (core : Nat) (r : TaskRec) (s : State) (c : Context), (s.core core).glean = .carrying r → s.executing core = some c →
    ∃ t : State, Leads (.gleanedRecordArrival core) s t ∧ (t.core core).glean = .idle ∧
      (t.core core).deque = r :: (s.core core).deque) ∧
  (∀ (core : Nat) (r : TaskRec) (s s1 : State) (id : BitVec 16) (p : Room), (s.core core).glean = .carrying r →
    s.executing core = none → s.canTake core = true → s.recordHeld r = false → s.freeFrame r.asid = some id →
    (s.modCore core (fun k => { k with glean := .idle })).makeFit core r.foot r.tiles = some (s1, p) →
    Sys2Proof.Safety.memoryOk s →
    ∃ t : State, Leads (.gleanedRecordArrival core) s t ∧ (t.core core).glean = .idle ∧ StartedAs t r core p.slot id true) ∧
  (∀ (i : Nat) (s : State) (x : Transit), s.transit[i]? = some x → x.kind = 0 →
    ∃ t : State, Leads (.dequeRecordArrival i) s t ∧ t.transit = s.transit.filter (fun y => y.id != x.id) ∧
      (t.core x.core).deque = x.r :: (s.core x.core).deque) ∧
  (∀ (i core : Nat) (s : State) (x : Transit), s.transit[i]? = some x → (x.kind = 1 ∨ x.kind = 2) →
    s.redirect x.core = some core →
    (s.inboxRoom core (decide (x.kind = 2)) = true → ∃ t : State, Leads (.inboxRecordArrival i) s t ∧
      t.transit = s.transit.filter (fun y => y.id != x.id) ∧
      (x.kind = 1 → (t.core core).inbox = (s.core core).inbox ++ [x.r] ∧ (t.core core).high = (s.core core).high) ∧
      (x.kind = 2 → (t.core core).high = (s.core core).high ++ [x.r] ∧ (t.core core).inbox = (s.core core).inbox)) ∧
    (s.inboxRoom core (decide (x.kind = 2)) = false → Leads (.inboxRecordArrival i) s s))) ∧
  ((∀ (crew : Nat) (s s1 : State) (w : Crew), s.crews.find? (fun x => x.id == crew) = some w → w.started = false →
    s.launchSuspended w.launch = false → (∀ m ∈ w.members, s.canTake m.1 = true ∧ (∃ r ∈ w.reserved, r.1 = m.1) ∧ s.handlerLoading m.2 = false) →
    s.startMembers w w.members = some s1 →
    ∃ (t : State) (w' : Crew), Leads (.crewStart crew) s t ∧ t.crews.find? (fun x => x.id == crew) = some w' ∧ w'.started = true ∧
      w'.reserved = [] ∧ w'.keys.length = w.keys.length + w.members.length ∧
      (∀ m ∈ w.members, ∃ k ∈ w'.keys, ∃ c, t.ctx? k = some c ∧ c.core = m.1 ∧ c.crew = some w.id ∧
        c.regs.pc = m.2.handler ∧ ∃ n, c.status = .ready n) ∧
      (∀ d ∈ w.descs, (∃ m ∈ w.members, m.1 = (chanDesc d).score) → (∃ m ∈ w.members, m.1 = (chanDesc d).dcore) →
        ∃ ch ∈ t.chans, ch.crew = w.id ∧ ch.slots = (chanDesc d).slots ∧ ch.wide = (chanDesc d).wide ∧
          ch.area = (chanDesc d).area ∧ ch.items = [])) ∧
  (∀ (crew : Nat) (s : State) (w : Crew), s.crews.find? (fun x => x.id == crew) = some w →
    w.keys.filterMap s.ctx? ≠ [] → (∀ c ∈ w.keys.filterMap s.ctx?, StuckOnChannel s c ∧
      s.recordsFull c.key { code := .crewDeadlock } = false) →
    ∃ t : State, Leads (.crewDeadlock crew) s t ∧ t.mem = s.mem ∧
      ∀ k ∈ w.keys, ∀ c, s.ctx? k = some c → ∃ c' : Context, t.ctx? k = some c' ∧ c'.status = .stopped ∧
        wbits c'.faultCode 0 8 = 0x43) ∧
  (∀ (crew : Nat) (s : State) (w : Crew), s.crews.find? (fun x => x.id == crew) = some w →
    (∃ c ∈ w.keys.filterMap s.ctx?, ¬ StuckOnChannel s c) → Leads (.crewDeadlock crew) s s))

namespace Sys2Proof.Claims

/-- A queue's registers changed, and nothing else. -/
def QueueSet (s t : State) (q : Fin 64) (r : Queue) : Prop :=
  t.queues[q] = r ∧ (∀ k : Fin 64, k ≠ q → t.queues[k] = s.queues[k]) ∧ t = { s with queues := t.queues }

/-- An entry accepted (R367, R378). -/
def entryTaken (s : State) (q : Fin 64) (ws : List Word) : State :=
  { s with
    queues := s.queues.set q { s.queues[q] with head := s.queues[q].head + 1 }
    unread := s.unread.drop 1
    nextSeq := s.nextSeq + 1
    launches := s.launches ++ [{ id := s.nextSeq, queue := some q, tag := nodeWord ws 1, mode := s.queues[q].mode
                                 asid := entryAsid ws, kind := entryKind ws - 1 }] }

/-- The registers of BAR1 that software writes whole, with the bits kept and the register after it (R365). -/
def bar1Table : List (Nat × Word × (Regs1 → Word → Regs1)) :=
  [(0x00, 0x000FFFFFFFFF0000, fun r x => { r with astbase := x }),
   (0x08, 0x000FFFFFFFFE0000, fun r x => { r with svcbase := x }),
   (0x10, 0x000FFFFFFFFFF000, fun r x => { r with notifybase := x }),
   (0x28, 0x0000000000000FFF, fun r x => { r with hostasid := x.setWidth 12 }),
   (0x30, 0x000FFFFFFFFFF000, fun r x => { r with logbase := x, logprod := 0 }),
   (0x38, 0x000000000000FFFF, fun r x => { r with logsize := x.toNat, logprod := 0 })]

/-- The same of a queue's registers in BAR0 (R366). -/
def bar0Table : List (Nat × Word × (Queue → Word → Queue)) :=
  [(0x00, 0x000FFFFFFFFFF000, fun r x => { r with ring := x }),
   (0x08, 0x000000000000001F, fun r x => { r with rsize := x }),
   (0x10, 0x00000000FFFFFFFF, fun r x => { r with tail := x.setWidth 32 }),
   (0x20, 0x000FFFFFFFFFF000, fun r x => { r with comp := x }),
   (0x40, 0x000FFFFFFFFFFFF8, fun r x => { r with tdbuf := x }),
   (0x48, 0x00000000FFFFFFFF, fun r x => { r with tdcap := x.setWidth 32 }),
   (0x50, 0x000FFFFFFFFFF000, fun r x => { r with rlog := x, rlogCount := 0, rlogKeys := [] }),
   (0x58, 0x00000000FFFFFFFF, fun r x => { r with rlogsize := x.setWidth 32, rlogCount := 0, rlogKeys := [] })]

/-- An entry stands in the host event log, where there is one, and its vector is raised (R364, R365). -/
def HostLogged (s t : State) : Prop :=
  (s.bar1.logsize = 0 → t.mem = s.mem ∧ t.bar1 = s.bar1) ∧
    (s.bar1.logsize ≠ 0 → t.bar1 = { s.bar1 with logprod := s.bar1.logprod + 1 } ∧ t.vectors.getLsbD 64 = true)

/-- A host address translated for an access. -/
def HostPage (s : State) (kind : AccessKind) (off : BitVec 48) (l : Leaf) (s1 : State) : Prop :=
  off.toNat % 64 = 0 ∧ windowOf off.toNat = .global ∧ Gives (tryTranslate 0 s.bar1.hostasid true kind off.toNat) s (.ok l) s1

end Sys2Proof.Claims

namespace Sys2Proof.Claims

/-- Whether a legacy copy is a migration copy (R105, R129), found at its first unit and kept. -/
def Migrates (s : State) (l : Legacy) (fill : Bool) (r : Except FaultInfo Bool) (t : State) : Prop :=
  Gives (if l.done = 0 then agentMigrates (s.legacyCtx l) fill l.src l.dst l.len else pure (.ok l.mig)) s r t

end Sys2Proof.Claims

/-- R303, R309: the command processor runs a context's legacy commands in order: a COPY or FILL unit by unit, its cell joined
when it has ended, a unit that faults recorded; a LAUNCH puts its record into an inbox as a launch of its own, and then its
cell is joined, which alone waits where it has to. The model's choices are the launch that a LAUNCH makes, of normal mode, of
no queue and without a completion, and that a command which reads or writes the slice of a context that stands in its frame
waits until the context is back (notes/assumptions/51.md); and that the units and the join act at the homes in the command's
own step (notes/assumptions/13.md). -/
def Obligations.LegacyCommandsRun : Prop :=
  (∀ p ∈ ([(.legacyCopy, 1, false), (.legacyFill, 2, true)] : List ((Key → Instr) × Nat × Bool)),
    ∀ (k : Key) (s : State) (l : Legacy), s.legacyHead k p.2.1 = some l →
    (∀ x s0 s1 mig, agentUnit l.src l.dst l.len l.done = some x → s.legacyAway l [x.src, x.dst] = false →
      Migrates s l p.2.2 (.ok mig) s0 → Gives (agentCopyUnit (s.legacyCtx l) p.2.2 mig x) s0 .done s1 →
      Leads (p.1 k) s (s1.setLegacy l (some { l with done := l.done + 1, mig := mig }))) ∧
    (∀ x s0 s1 f, agentUnit l.src l.dst l.len l.done = some x → s.legacyAway l [x.src, x.dst] = false →
      ((∃ mig, Migrates s l p.2.2 (.ok mig) s0 ∧ Gives (agentCopyUnit (s.legacyCtx l) p.2.2 mig x) s0 (.fault f) s1) ∨
        Migrates s l p.2.2 (.error f) s1) →
      ∃ (t : State) (r : FaultRec), Leads (p.1 k) s t ∧ t.legacy = (s1.setLegacy l none).legacy ∧ t.records = s1.records ++ [r] ∧ r.kind = 6 ∧
        r.info = f ∧ r.pc = l.pc ∧ r.asid = l.k.asid ∧ r.ctxid = l.k.ctxid) ∧
    (∀ x, agentUnit l.src l.dst l.len l.done = some x → s.legacyAway l [x.src, x.dst] = true → Leads (p.1 k) s s) ∧
    (agentUnit l.src l.dst l.len l.done = none → l.cell = 0 → Leads (p.1 k) s (s.setLegacy l none)) ∧
    (∀ s1, agentUnit l.src l.dst l.len l.done = none → l.cell ≠ 0 →
      Gives (agentJoin (s.legacyCtx l) l.cell.toNat) s none s1 → Leads (p.1 k) s (s1.setLegacy l none))) ∧
  (∀ (k : Key) (s s1 : State) (l : Legacy) (r : TaskRec) (core : Nat), s.legacyHead k 3 = some l →
    l.done = 0 → s.legacyAway l [l.src.toNat] = false → Gives (agentRecord (s.legacyCtx l) 0 l.src.toNat) s (.ok r) s1 →
    s1.redirect (l.dst.toNat % 1024) = some core → s1.inboxRoom core (decide (r.cls = 1)) = true →
    (let r1 : TaskRec := { r with key := l.key, launch := s1.nextSeq }
     let l1 : Legacy := { l with done := 1 }
     ∃ s2 t : State, Leads (.legacyLaunch k) s t ∧ s2.legacy = (s1.setLegacy l (some l1)).legacy ∧ s2.launches = s1.launches ++
         [{ id := s1.nextSeq, queue := none, tag := 0, mode := 0, asid := l.k.asid, kind := 3 }] ∧
       (r.cls = 1 → (s2.core core).high = (s1.core core).high ++ [r1]) ∧
       (r.cls ≠ 1 → (s2.core core).inbox = (s1.core core).inbox ++ [r1]) ∧
       (l.cell = 0 → t = { s2 with legacy := (s1.setLegacy l none).legacy }) ∧
       (∀ s3, l.cell ≠ 0 → Gives (agentJoin (s2.legacyCtx l1) l.cell.toNat) s2 none s3 → t = s3.setLegacy l1 none) ∧
       (l.cell ≠ 0 → s2.runM (agentJoin (s2.legacyCtx l1) l.cell.toNat) = none → t = s2))) ∧
  (∀ (k : Key) (s s1 : State) (l : Legacy), s.legacyHead k 3 = some l → l.done ≠ 0 → l.cell ≠ 0 →
    Gives (agentJoin (s.legacyCtx l) l.cell.toNat) s none s1 → Leads (.legacyLaunch k) s (s1.setLegacy l none)) ∧
  (∀ (k : Key) (s s1 : State) (l : Legacy) (f : FaultInfo), s.legacyHead k 3 = some l → l.done = 0 →
    s.legacyAway l [l.src.toNat] = false → Gives (agentRecord (s.legacyCtx l) 0 l.src.toNat) s (.error f) s1 →
    ∃ (t : State) (r : FaultRec), Leads (.legacyLaunch k) s t ∧ t.records = s1.records ++ [r] ∧ r.kind = 6 ∧ r.info = f ∧ r.pc = l.pc)

/-- R34, R323, R331, R332, R361, R367, R368: a doorbell moves TAIL; an entry accepted raises HEAD and becomes a live launch: a
record sets out for its core, a graph is set on its walker, an image is loaded and goes down the boot tree; one that breaks a
limit completes with status 1. Suspending, resuming and tearing down a queue; while it is torn down, a doorbell is discarded
and no entry accepted. The model's choices: how the host consumes completions (notes/assumptions/39.md), what parks and wakes
a context of a resumed queue (49.md), what an image load places and where (52.md, 79.md), and that a teardown takes its first
steps at once and waits for the boundary of each unit in which a task runs (53.md). -/
def Obligations.LaunchQueuesAreServed : Prop :=
  (∀ (q : Fin 64) (tail : BitVec 32) (s : State), s.queues[q].tearing = false →
    ∃ t : State, Leads (.doorbell q tail) s t ∧ QueueSet s t q { s.queues[q] with tail := tail }) ∧
  (∀ (q : Fin 64) (s : State), s.queues[q].tearing = true →
    (∀ tail : BitVec 32, Leads (.doorbell q tail) s s) ∧
    ∀ i ∈ ([.launchRecord, .launchGraph, .launchImageLoad] : List (Fin 64 → Instr)),
      Leads (i q) s { s with unread := s.unread.drop 1 }) ∧
  (∀ (q : Fin 64) (s s2 : State) (ws : List Word) (r : TaskRec), s.nextEntry q = some ws → entryKind ws = 1 →
    s.entryOk ws = true → Gives (agentRecord (agentCtx (entryAsid ws) true 0) s.nextSeq (entryAddr ws)) (entryTaken s q ws)
      (.ok r) s2 → s.handlerLoading r = false →
    ∃ t : State, Leads (.launchRecord q) s t ∧ t.queues = s2.queues ∧ t.launches = s2.launches ∧
      t.transit = s2.transit ++ [{ id := s2.nextSeq, core := entryCore ws, kind := if r.cls = 1 then 2 else 1
                                   r := { r with key := nodeWord ws 1 } }]) ∧
  (∀ p ∈ ([(.launchRecord, 1), (.launchGraph, 2), (.launchImageLoad, 3)] : List ((Fin 64 → Instr) × Nat)),
    ∀ (q : Fin 64) (s : State) (ws : List Word), s.nextEntry q = some ws → entryKind ws = p.2 → s.entryOk ws = false →
    (∀ l ∈ s.launches, l.id ≠ s.nextSeq) → s.mem.wf = true →
    ∃ (t : State) (l : Launch), Leads (p.1 q) s t ∧ t.launches = s.launches ∧ l.tag = nodeWord ws 1 ∧ l.ended = 0 ∧
      Posted (entryTaken s q ws) t q (l.words 1 FaultCode.illegalOperand.num 0)) ∧
  (∀ (q : Fin 64) (s s2 : State) (ws : List Word) (ns : List (GNode × Option (Nat × Nat × Nat))), s.nextEntry q = some ws →
    entryKind ws = 2 → s.entryOk ws = true →
    Gives (readNodes (agentCtx (entryAsid ws) true (192 * wbits (nodeWord ws 3) 16 2)) (entryAddr ws) 0 (entryNodes ws))
      (entryTaken s q ws) (.ok ns) s2 →
    ∃ (t : State) (x : Graph), Leads (.launchGraph q) s t ∧ t.graphs = s2.graphs ++ [x] ∧ x.launch = s.nextSeq ∧ x.base = entryAddr ws ∧
      x.count = entryNodes ws ∧ x.failed = none ∧ x.bodies = ns.filterMap Prod.snd ∧ x.nodes.map GNode.idx = ns.map (fun n => n.1.idx) ∧
      (∀ y ∈ x.nodes, y.state = .ready → y.pending = 0 ∧ y.anyRun = true ∧
        ∀ b ∈ x.bodies, y.idx < b.2.1 ∨ b.2.2 < y.idx) ∧
      ∀ y ∈ ns, y.1.pending = 0 → (∀ b ∈ x.bodies, y.1.idx < b.2.1 ∨ b.2.2 < y.1.idx) →
        { y.1 with state := .ready, anyRun := true } ∈ x.nodes) ∧
  (∀ (q : Fin 64) (s t : State) (ws : List Word), s.nextEntry q = some ws → entryKind ws = 3 → s.entryOk ws = true →
    (entryTaken s q ws).loadImage s.nextSeq (entryAsid ws) (entryAddr ws) = some t →
    Leads (.launchImageLoad q) s t ∧ ∃ l ∈ t.loads, l.launch = s.nextSeq ∧ l.asid = entryAsid ws ∧ l.acked = []) ∧
  (∀ (load core image : Nat) (s : State) (l : Load), s.loads.find? (fun x => x.id == load) = some l →
    l.placed.find? (fun p => p.1 == core) = some (core, image) → s.served l core = false →
    (s.sender l.edges l.edges.length core = 0xFFFF ∨ s.sender l.edges l.edges.length core ∈ l.acked) →
    (∀ e ∈ elderSiblings l.edges core, s.served l e = true) →
    ∃ (t : State) (l' : Load), Leads (.bootTextReceive load core) s t ∧ t.loads.find? (fun x => x.id == load) = some l' ∧
      l' = { l with acked := l.acked ++ [core] } ∧ 
      let texts := (l.imageText.filter (fun r => r.1 == image)).map (fun r => r.2)
      ∃ xs : List (Nat × Nat), (t.core core).warm = (s.core core).warm ++ xs ∧
        (xs.map Prod.snd).sum = min 65536 (texts.map Prod.snd).sum ∧ ∀ x ∈ xs, ∃ r ∈ texts, x.1 = r.1 ∧ x.2 ≤ r.2) ∧
  (∀ (load : Nat) (q : Fin 64) (s : State) (l : Load) (x : Launch), s.loads.find? (fun y => y.id == load) = some l →
    (∀ p ∈ l.placed, s.served l p.1 = true) → s.launch? l.launch = some x → x.queue = some q → s.mem.wf = true →
    ∃ t : State, Leads (.imageLoadComplete load) s t ∧ (∀ y ∈ t.loads, y.id ≠ load) ∧ Posted s t q (x.words 0 0 0)) ∧
  (∀ (q : Fin 64) (s : State), ∃ t : State, Leads (.queueSuspend q) s t ∧ t.queues[q].suspend = true ∧ t.ctxs = s.ctxs ∧ t.mem = s.mem ∧
    ∀ k : Fin 64, k ≠ q → t.queues[k].suspend = s.queues[k].suspend) ∧
  (∀ (q : Fin 64) (s : State), ∃ t : State, Leads (.queueResume q) s t ∧ t.queues[q].suspend = false ∧ t.mem = s.mem ∧
    ∀ (k : Key) (c : Context) (l : Launch), s.ctx? k = some c → s.launch? c.launch = some l → l.queue = some q →
      c.preempted = true → (c.slot = none → ∀ w n, c.status = .parked w n →
          ∃ c' : Context, t.ctx? k = some c' ∧ c'.status = .ready s.nextSeq) ∧
        (c.slot.isSome = true → ∃ c' : Context, t.ctx? k = some c' ∧ c'.leaving = false ∧ c'.preempted = false ∧ c'.status = c.status)) ∧
  (∀ (q : Fin 64) (s : State) (c : Context) (l : Launch), c ∈ s.allCtxs → s.launches.find? (fun x => x.id == c.launch) = some l →
    l.queue = some q → c.insideUnit = true → (s.allCtxs.map Context.key).Nodup →
    ∃ t : State, Leads (.teardown q) s t ∧ t.queues[q] = { t.queues[q] with tearing := true, tail := s.queues[q].tail, en := s.queues[q].en } ∧
      (∀ x ∈ t.allCtxs, ∀ y ∈ s.launches, y.queue = some q → x.launch = y.id → x.insideUnit = true) ∧
      (∀ r ∈ t.transit, ∀ y ∈ s.launches, y.queue = some q → r.r.launch ≠ y.id) ∧
      (∀ x ∈ t.graphs, ∀ y ∈ s.launches, y.queue = some q → x.launch ≠ y.id) ∧ t.ctx? c.key = some c ∧ l ∈ t.launches) ∧
  (∀ (q : Fin 64) (s : State), (∀ c ∈ s.allCtxs, ∀ l ∈ s.launches, l.queue = some q → c.launch = l.id → c.insideUnit = false) →
    (s.allCtxs.map Context.key).Nodup →
    ∃ t : State, Leads (.teardown q) s t ∧ (∀ l ∈ t.launches, l.queue ≠ some q) ∧
      (∀ c ∈ t.allCtxs, ∀ l ∈ s.launches, l.queue = some q → c.launch ≠ l.id) ∧
      (∀ r ∈ t.transit, ∀ l ∈ s.launches, l.queue = some q → r.r.launch ≠ l.id) ∧
      t.queues[q].en = false ∧ t.queues[q].head = s.queues[q].tail ∧ t.queues[q].tearing = false)

/-- R101, R363 to R366, R368, R398: what the host's register writes leave, bit by bit, a TAIL written during a teardown
discarded; the two halves of a line fill it, a half held is replaced by one of its kind, a 4,097th waiting line is refused,
and a fill that conflicts or comes after a freeze is logged; a read answers 64 bytes of a line that is filled or frozen, and a
poisoned completion for any other; halving. The layout of a log entry is the model's free value (notes/assumptions/11.md). -/
def Obligations.TheHostReadsAndWrites : Prop :=
  (∀ p ∈ bar1Table, ∀ (x : BitVec 64) (s : State),
    Leads (.registerWrite .bar1 p.1 x) s { s with bar1 := p.2.2 s.bar1 (x &&& p.2.1) }) ∧
  (∀ (x : BitVec 64) (s : State), Leads (.registerWrite .bar1 0x18 x) s
    (if x.toNat % 2 ^ 16 = 0 then s else { s with bar1 := { s.bar1 with cntthresh := x.toNat % 2 ^ 16 } })) ∧
  (∀ (x : BitVec 64) (s : State), Leads (.registerWrite .bar1 0x20 x) s
    (if 100 ≤ x.toNat % 2 ^ 17 ∧ x.toNat % 2 ^ 17 ≤ 100000 then
      { s with bar1 := { s.bar1 with timeslice := x.toNat % 2 ^ 17 } } else s)) ∧
  (∀ (x : BitVec 64) (s : State), x.getLsbD 4 = true →
    Leads (.registerWrite .bar1 0x40 x) s { s with offline := s.offline ++ [(Fin.ofNat 8 (x.toNat % 8), x.getLsbD 3)] }) ∧
  (∀ off ∈ [0x48, 0x50], ∀ (x : BitVec 64) (s : State), Leads (.registerWrite .bar1 off x) s s) ∧
  (∀ (q : Fin 64) (x : BitVec 64) (s : State), s.queues[q].tearing = true →
    Leads (.registerWrite .bar0 (0x100 * q.val + 0x10) x) s s) ∧
  (∀ p ∈ bar0Table, ∀ (q : Fin 64) (x : BitVec 64) (s : State), (p.1 = 0x10 → s.queues[q].tearing = false) →
    ∃ t : State, Leads (.registerWrite .bar0 (0x100 * q.val + p.1) x) s t ∧ QueueSet s t q (p.2.2 s.queues[q] (x &&& p.2.1))) ∧
  (∀ (q : Fin 64) (x : BitVec 64) (s : State), x.getLsbD 1 = s.queues[q].suspend → x.getLsbD 2 = false →
    ∃ t : State, Leads (.registerWrite .bar0 (0x100 * q.val + 0x30) x) s t ∧ t.queues[q].en = x.getLsbD 0 ∧
      t.queues[q].mode = (if x.toNat / 16 % 4 = 3 then s.queues[q].mode else BitVec.ofNat 2 (x.toNat / 16 % 4)) ∧
      t.queues[q].suspend = s.queues[q].suspend ∧ t = { s with queues := t.queues }) ∧
  (∀ (off : BitVec 48) (data : BitVec 512) (l : Leaf) (s s1 : State), HostPage s .write off l s1 → l.ty = 1 →
    s1.homeCode l off.toNat = none → l.jblock = false →
    (let line := l.line off.toNat
     let high := decide (off.toNat % 128 = 64)
     ((∀ h ∈ s1.halves, h.1 ≠ line) → s1.halves.length < 4096 →
       Leads (.hostWriteHalf off data) s
         { s1 with halves := s1.halves ++ [(line, high, data)], hostWrites := s1.hostWrites ++ [true] }) ∧
     ((∃ h ∈ s1.halves, h.1 = line) → (∀ h ∈ s1.halves, h.1 = line → h.2.1 = high) →
       Leads (.hostWriteHalf off data) s { s1 with
         halves := s1.halves.filter (fun h => !decide (h.1 = line)) ++ [(line, high, data)]
         hostWrites := s1.hostWrites ++ [true] }) ∧
     ((∀ h ∈ s1.halves, h.1 ≠ line) → 4096 ≤ s1.halves.length →
       ∃ t : State, Leads (.hostWriteHalf off data) s t ∧ t.halves = s1.halves ∧ t.hostWrites = s1.hostWrites ++ [false] ∧
         t.md = s1.md ∧ HostLogged s1 t) ∧
     (∀ other : BitVec 512, s1.halves.find? (fun h => h.1 == line && h.2.1 != high) = some (line, !high, other) →
       mdState (s1.md.read line) ≠ 0 → l.cnt = false → s1.gatewaysHold line = false → Sys2Proof.Safety.memoryOk s1 →
       (let half (i : Bool) : Nat := if high = i then data.toNat else other.toNat
        mdState (s1.md.read line) = 2 ∨ s1.mem.readN (128 * line) 128 ≠ half false + half true * 2 ^ 512 →
        ∃ t : State, Leads (.hostWriteHalf off data) s t ∧ t.hostWrites = s1.hostWrites ++ [true] ∧ (∀ h ∈ t.halves, h.1 ≠ line) ∧
          HostLogged s1 t ∧ mdState (t.md.read line) = mdState (s1.md.read line) ∧
          (mdState (s1.md.read line) = 1 → mdPoison (t.md.read line) = true) ∧
          (mdState (s1.md.read line) = 2 → t.md = s1.md))) ∧
     (∀ other : BitVec 512, s1.halves.find? (fun h => h.1 == line && h.2.1 != high) = some (line, !high, other) →
       mdState (s1.md.read line) = 0 → l.cnt = false → Sys2Proof.Safety.memoryOk s1 →
       ∃ t : State, Leads (.hostWriteHalf off data) s t ∧ t.hostWrites = s1.hostWrites ++ [true] ∧ (∀ h ∈ t.halves, h.1 ≠ line) ∧
         t.mem.readN (128 * line + (if high then 64 else 0)) 64 = data.toNat ∧
         t.mem.readN (128 * line + (if high then 0 else 64)) 64 = other.toNat ∧ mdState (t.md.read line) = 1))) ∧
  (∀ (off : BitVec 48) (data : BitVec 512) (l : Leaf) (s s1 : State), HostPage s .write off l s1 → l.ty ≠ 1 →
    ∃ t : State, Leads (.hostWriteHalf off data) s t ∧ t.hostWrites = s1.hostWrites ++ [false] ∧ t.halves = s1.halves) ∧
  (∀ (off : BitVec 48) (l : Leaf) (s s1 : State), HostPage s .read off l s1 → s1.homeCode l off.toNat = none →
    (hostReadable l.ty (s1.md.read (l.line off.toNat)) = true →
      ∃ t : State, Leads (.hostRead off) s t ∧
        t.hostReplies = s1.hostReplies ++ [some (BitVec.ofNat 512 (s1.mem.readN (l.key off.toNat) 64))]) ∧
    (hostReadable l.ty (s1.md.read (l.line off.toNat)) = false →
      ∃ t : State, Leads (.hostRead off) s t ∧ t.hostReplies = s1.hostReplies ++ [none])) ∧
  (∀ s : State, (s.counters.map Prod.fst).Nodup → ∃ t : State, Leads .accessCounterHalving s t ∧ t = { s with counters := t.counters } ∧
    ∀ u, t.counter u = s.counter u / 2)
namespace Sys2Proof.Claims

/-- The cores of a quad are in or out of scheduling, every other core as before (R371, R376). -/
def QuadSet (s t : State) (quads : List Nat) (out : Bool) : Prop :=
  ∀ n, (n / 4 ∈ quads → t.core n = { s.core n with out := out }) ∧ (n / 4 ∉ quads → t.core n = s.core n)

/-- The context that holds a watch has the code as the outcome of its test, and runs again if it was parked for it. -/
def WatchLost (s t : State) (w : Watch) (code : FaultCode) : Prop :=
  ∀ (k : Key) (n : Nat) (c : Context), w.who = .ctx k n → s.ctx? k = some c → c.asked = true → c.nextReq = n → c.reply = none →
    ∃ c' : Context, t.ctx? k = some c' ∧ c'.reply = some { n := n, r := .lost code } ∧ c'.regs = c.regs ∧
      ∀ st, c.status = .parked .reply st → ∃ st', c'.status = .ready st'

/-- The host has asked for an offline of the die that an order of the management port has overtaken (R371). -/
def Overtaken (s : State) (die : Fin 8) : Prop :=
  ∃ f, (die, f) ∈ s.offline ∧ (s.fencedBase.getLsbD (die.val / 2) = true ∨ (die, !f) ∈ s.mgmtOffline)

/-- A request to take a die offline may act on it: it is up, has not been emptied, and nothing is on its way to it. -/
def MayEmpty (s : State) (die : Fin 8) : Prop :=
  s.fencedDies.getLsbD die.val = false ∧ s.emptied.getLsbD die.val = false ∧ s.dieQuiet die = true

end Sys2Proof.Claims

/-- R105, R375: a request moves every page of its die, or none; forced, it also gives up the pages that fit nowhere; the die
is fenced when it is empty. A watch on a page given up ends with DATA_LOST (R347). The host receives vector 65 where the
management port has ordered otherwise (R371). A page moved keeps its bytes and metadata. Which pages a die holds and which go
where is the model's choice (notes/assumptions/56.md), as are the free pages it finds (notes/assumptions/14.md) and the order
in which an overruled request is reported (notes/assumptions/57.md). -/
def Obligations.MemoryDiesGoOffline : Prop :=
  (∀ (die : Fin 8) (s : State), MayEmpty s die → (s.offlinePlan die).2.1 = [] →
    ∃ t : State, Leads (.offlineRequest die) s t ∧ t.emptied = s.emptied ||| ((1 : BitVec 8) <<< die.val) ∧
      t.freePages = (s.offlinePlan die).2.2 ∧ t.lost = s.lost ∧
      ((die, false) ∉ s.offline → (die, false) ∈ t.mgmtOffline) ∧
      ((s.offlinePlan die).1 = [] → t.mem = s.mem ∧ t.md = s.md)) ∧
  (∀ (die : Fin 8) (f : Bool) (s : State), MayEmpty s die → (s.offlinePlan die).2.1 ≠ [] → (die, f) ∈ s.offline →
    ∃ t : State, Leads (.offlineRequest die) s t ∧ t = { s with offline := t.offline, vectors := t.vectors } ∧
      (∀ x, x ∈ t.offline ↔ x ∈ s.offline ∧ x ≠ (die, false) ∧ (x = (die, true) → (die, false) ∈ s.offline)) ∧
      ((die, true) ∈ s.offline → (die, false) ∉ s.offline → t.vectors.getLsbD 65 = true) ∧
      ((die, false) ∈ s.offline → t.vectors = s.vectors)) ∧
  (∀ (die : Fin 8) (s : State), MayEmpty s die →
    ∃ t : State, Leads (.offlineForced die) s t ∧ t.emptied = s.emptied ||| ((1 : BitVec 8) <<< die.val) ∧
      t.lost = s.lost ++ (s.offlinePlan die).2.1 ∧ t.freePages = (s.offlinePlan die).2.2 ∧
      ((die, true) ∉ s.offline → (die, true) ∈ t.mgmtOffline) ∧
      ((die, false) ∈ s.offline → (die, true) ∉ s.offline → t.vectors.getLsbD 65 = true ∧ (die, false) ∉ t.offline) ∧
      ((s.offlinePlan die).1 = [] → ∀ w ∈ s.watches, ∀ p ∈ (s.offlinePlan die).2.1, p.1 ≤ w.cell → w.cell < p.1 + p.2 →
        w ∉ t.watches ∧ WatchLost s t w .dataLost)) ∧
  (∀ i ∈ ([.offlineRequest, .offlineForced] : List (Fin 8 → Instr)), ∀ (die : Fin 8) (s : State),
    (s.fencedDies.getLsbD die.val = true ∨ s.emptied.getLsbD die.val = true) →
    (s.fencedDies.getLsbD die.val = true ∨ Overtaken s die →
      ∃ t : State, Leads (i die) s t ∧ t = { s with offline := t.offline, vectors := t.vectors } ∧
        (∀ x, x ∈ t.offline ↔ x ∈ s.offline ∧ x.1 ≠ die) ∧
        (Overtaken s die → t.vectors = s.vectors ||| ((1 : BitVec 66) <<< 65)) ∧ (¬ Overtaken s die → t.vectors = s.vectors)) ∧
    (s.fencedDies.getLsbD die.val = false → ¬ Overtaken s die → Leads (i die) s s)) ∧
  (∀ (die : Fin 8) (s : State), s.emptied.getLsbD die.val = true →
    ∃ t : State, Leads (.offlineComplete die) s t ∧ t.fencedDies = s.fencedDies ||| ((1 : BitVec 8) <<< die.val) ∧
      t.emptied.getLsbD die.val = false ∧ t.mem = s.mem ∧ t.md = s.md ∧ (∀ x, x ∈ t.offline ↔ x ∈ s.offline ∧ x.1 ≠ die) ∧
      (Overtaken s die → t.vectors = s.vectors ||| ((1 : BitVec 66) <<< 65)) ∧ (¬ Overtaken s die → t.vectors = s.vectors)) ∧
  (∀ (a b n : Nat) (s : State), Sys2Proof.Safety.memoryOk s → a % 128 = 0 → b % 128 = 0 → n % 128 = 0 →
    (a + n ≤ b ∨ b + n ≤ a) → (∀ l ∈ s.allLeaves, l.2.2.1 + 16 ≤ b ∨ b + n ≤ l.2.2.1) →
    (∀ o, o < n → (s.movePage a b n).mem.cells.read (b + o) = s.mem.cells.read (a + o) ∧
      (s.movePage a b n).mem.marks.read (b + o) = s.mem.marks.read (a + o)) ∧
    ∀ k, k < n / 128 → (s.movePage a b n).md.read (b / 128 + k) = s.md.read (a / 128 + k))

/-- R63, R371, R373, R374, R376, R379: what the management port and service life do to the package: quads and cores leave and
return to scheduling; reset, which leaves no line WATCHED; a fenced or lost die kills its tasks and completes their launches,
and the watches at its homes end with HOME_LOST (R347); a fence overrules the host's request for a memory die of that base
die; the standby; throttling. What a reset keeps (notes/assumptions/14.md), when a lost die's tasks end
(notes/assumptions/55.md), vector 65 (notes/assumptions/57.md), the standby's part (notes/assumptions/58.md) and the words the
management port answers (notes/assumptions/59.md) are the model's choices. -/
def Obligations.ThePackageIsManaged : Prop :=
  (∀ (qs : List Nat) (s : State), (∀ q ∈ qs, q < 192) → ∃ t : State, Leads (.ageingCheck qs) s t ∧ QuadSet s t qs true ∧ t.mem = s.mem) ∧
  (∀ (die : Fin 4) (quad : Fin 48) (s : State),
    (∃ t : State, Leads (.quadTakeOut die quad) s t ∧ QuadSet s t [48 * die.val + quad.val] true ∧ t.mem = s.mem) ∧
    ∃ t : State, Leads (.quadReturn die quad) s t ∧ QuadSet s t [48 * die.val + quad.val] false ∧ t.mem = s.mem) ∧
  (∀ (core : Nat) (s : State), ∃ t : State, Leads (.coreRelease core) s t ∧ t.core core = { s.core core with drained := false } ∧
    ∀ n, n ≠ core → t.core n = s.core n) ∧
  (∀ s : State, ∃ t : State, Leads .deviceReset s t ∧ t.mem = s.mem ∧ t.md = (s.dropWatches (fun _ => true)).md ∧ t.firmware = s.firmware ∧ t.edges = s.edges ∧
    t.bar1 = State.reset.bar1 ∧ t.queues = State.reset.queues ∧ t.links = State.reset.links ∧ t.allCtxs = [] ∧ t.cores = [] ∧
    t.launches = [] ∧ t.graphs = [] ∧ t.records = [] ∧ t.msgs = [] ∧ t.watches = [] ∧ t.transit = [] ∧
    (Sys2Proof.Safety.memoryOk s → ∀ w ∈ s.watches, mdWatched (t.md.read (w.cell / 128)) = false)) ∧
  (∀ s : State, ∃ (t : State) (x : Word), Leads .thermalTrip s t ∧ t.mem = s.mem ∧ t.allCtxs = [] ∧ t.bar1 = State.reset.bar1 ∧
    t.mgmtReplies = s.mgmtReplies ++ [x]) ∧
  (∀ s : State, Leads .thermalThrottle s { s with throttled := true }) ∧
  (∀ (die : Fin 4) (s : State), (s.allCtxs.map Context.key).Nodup →
    ∃ t : State, Leads (.fenceBaseDie die) s t ∧ t.fencedBase = s.fencedBase ||| ((1 : BitVec 4) <<< die.val) ∧
      t.fencedDies = s.fencedDies ||| ((3 : BitVec 8) <<< (2 * die.val)) ∧ t.stoppedDies.getLsbD die.val = true ∧
      (∀ c ∈ t.allCtxs, dieOf c.core ≠ die.val) ∧ (∀ x ∈ t.transit, dieOf x.core ≠ die.val) ∧
      (∀ x ∈ t.graphs, x.walker ≠ die.val) ∧
      (∀ c ∈ s.allCtxs, dieOf c.core = die.val → t.launch? c.launch = none) ∧
      (∀ x ∈ t.offline, x.1.val / 2 ≠ die.val) ∧
      ((∃ x ∈ s.offline, x.1.val / 2 = die.val) → t.vectors.getLsbD 65 = true) ∧
      (∀ w ∈ s.watches, w.cell < 2 ^ 51 → homeBd w.cell = die.val → w ∉ t.watches ∧
        ((∀ (k : Key) (n : Nat) (c : Context), w.who = .ctx k n → s.ctx? k = some c → dieOf c.core ≠ die.val) →
          WatchLost s t w .homeLost))) ∧
  (∀ (edge : Fin 4) (s : State), Leads (.dieEdgeFailure edge) s { s with edges := s.edges ||| ((1 : BitVec 4) <<< edge.val) }) ∧
  (∀ s : State, ((∀ bd, bd < 4 → s.bdLost bd = false ∨ s.stoppedDies.getLsbD bd = true) → Leads .watchdogTick s s) ∧
    ((s.allCtxs.map Context.key).Nodup → ∃ t : State, Leads .watchdogTick s t ∧ ∀ bd, bd < 4 → s.bdLost bd = true →
      s.stoppedDies.getLsbD bd = false → t.stoppedDies.getLsbD bd = true ∧ (∀ c ∈ t.allCtxs, dieOf c.core ≠ bd) ∧
        ∀ w ∈ t.watches, w.cell < 2 ^ 51 → homeBd w.cell ≠ bd)) ∧
  (∀ s : State, (s.standbyDown = false → Leads .standbyTakeOver s { s with standby := true }) ∧
    (s.standbyDown = true → Leads .standbyTakeOver s s) ∧
    Leads .standbyStandDown s { s with standby := false, standbyDown := true } ∧
    (s.bdLost 2 = true → Leads .standbySelfFence s { s with standby := false, standbyDown := true }) ∧
    (s.bdLost 2 = false → Leads .standbySelfFence s s)) ∧
  (∀ (id : BitVec 12) (s : State),
    (s.bar1.pkgvalid = false → Leads (.setPackageId id) s { s with bar1 := { s.bar1 with pkgvalid := true, pkgid := id } }) ∧
    (s.bar1.pkgvalid = true → Leads (.setPackageId id) s s)) ∧
  (∀ (image : BitVec 64) (s : State), Leads (.firmwareUpdate image) s { s with firmware := image }) ∧
  (∀ i ∈ ([.spdmMeasurement, .sensorRead] : List Instr), ∀ s : State, ∃ (t : State) (x : Word), Leads i s t ∧
    t = { s with mgmtReplies := s.mgmtReplies ++ [x], free := s.free + 1 }) ∧
  (∀ s : State, ∃ t : State, Leads .mgmtReadLogs s t ∧ t = { s with mgmtReplies := t.mgmtReplies } ∧
    t.mgmtReplies = s.mgmtReplies ++ s.poisonLog.map (fun l => BitVec.ofNat 64 (128 * l)) ++
      (List.range (2 * min s.bar1.logprod.toNat s.bar1.logsize)).map
        (fun i => BitVec.ofNat 64 (s.mem.readN (s.bar1.logbase.toNat + 8 * i) 8)))

/-- R79, R168, R350: an uncorrectable error poisons a line of field memory, and marks what else it strikes: bytes of private
memory, of a scratchpad, of a handler's area, an accumulator word, a register, target registers among them, or queue entry, an
item of a channel, or a lane of one; in an instruction cache it is found at the fetch. R111: a line is poisoned once no gateway holds a replica of it. -/
def Obligations.ErrorsPoisonOrMark : Prop :=
  (∀ (pa : Nat) (s : State), Sys2Proof.Safety.memoryOk s → s.invalidating (pa / 128) = false →
    (∀ r ∈ s.replicas, r.snap.line ≠ pa / 128) →
    ∃ t : State, Leads (.uncorrectableError (.line pa)) s t ∧ mdPoison (t.md.read (pa / 128)) = true ∧
      mdState (t.md.read (pa / 128)) = mdState (s.md.read (pa / 128)) ∧ (∀ k, k ≠ pa / 128 → t.md.read k = s.md.read k)) ∧
  (∀ (pa : Nat) (s : State), (s.invalidating (pa / 128) = true ∨ ∃ r ∈ s.replicas, r.snap.line = pa / 128) →
    ∃ t : State, Leads (.uncorrectableError (.line pa)) s t ∧ pa / 128 ∈ t.poisoning ∧ t.invalidating (pa / 128) = true ∧
      t.md = s.md ∧ t.mem = s.mem) ∧
  (∀ (pa n : Nat) (s : State), s.mem.wf = true →
    ∃ t : State, Leads (.uncorrectableError (.memory pa n)) s t ∧ t.mem.cells = s.mem.cells ∧ t.md = s.md ∧
      (∀ a, t.mem.marks.read a = if pa ≤ a ∧ a < pa + n then 1 else s.mem.marks.read a)) ∧
  (∀ (core off n : Nat) (s : State), core < 768 → off + n ≤ 2 ^ 21 → s.scratch.wf = true →
    ∃ t : State, Leads (.uncorrectableError (.scratch core off n)) s t ∧ t.scratch.cells = s.scratch.cells ∧
      (∀ a, t.scratch.marks.read a =
        if core * 2 ^ 21 + off ≤ a ∧ a < core * 2 ^ 21 + off + n then 1 else s.scratch.marks.read a)) ∧
  (∀ (core w : Nat) (s : State), core < 768 → w < 2 ^ 16 → s.acc.wf = true →
    ∃ t : State, Leads (.uncorrectableError (.tile core w)) s t ∧ t.acc.cells = s.acc.cells ∧
      (∀ a, t.acc.marks.read a =
        if core * 2 ^ 18 + 4 * w ≤ a ∧ a < core * 2 ^ 18 + 4 * w + 4 then 1 else s.acc.marks.read a)) ∧
  (∀ (k : Key) (n : Fin 32) (s : State) (c : Context), s.ctx? k = some c →
    ∃ (t : State) (c' : Context), Leads (.uncorrectableError (.scalar k n)) s t ∧ t.ctx? k = some c' ∧
      c'.regs.g[n] = { c.regs.g[n] with mark := true } ∧ (∀ i : Fin 32, i ≠ n → c'.regs.g[i] = c.regs.g[i])) ∧
  (∀ (k : Key) (n : Fin 16) (l : Fin 128) (s : State) (c : Context), s.ctx? k = some c →
    ∃ (t : State) (c' : Context), Leads (.uncorrectableError (.lane k n l)) s t ∧ t.ctx? k = some c' ∧ c'.regs.v[n].bits = c.regs.v[n].bits ∧
      c'.regs.v[n].mark = c.regs.v[n].mark ||| ((1 : BitVec 128) <<< l.val)) ∧
  (∀ (k : Key) (n : Fin 16) (s : State) (c : Context), s.ctx? k = some c →
    ∃ (t : State) (c' : Context), Leads (.uncorrectableError (.queue k n)) s t ∧ t.ctx? k = some c' ∧
      c'.regs.q[n] = { c.regs.q[n] with mark := true } ∧ (∀ i : Fin 16, i ≠ n → c'.regs.q[i] = c.regs.q[i]) ∧ c'.regs.g = c.regs.g) ∧
  (∀ (k : Key) (n : Fin 8) (l : Fin 128) (s : State) (c : Context), s.ctx? k = some c →
    ∃ (t : State) (c' : Context), Leads (.uncorrectableError (.queueLane k n l)) s t ∧ t.ctx? k = some c' ∧
      c'.regs.y[n].bits = c.regs.y[n].bits ∧ c'.regs.y[n].mark = c.regs.y[n].mark ||| ((1 : BitVec 128) <<< l.val) ∧
      c'.regs.v = c.regs.v) ∧
  (∀ (k : Key) (n : Fin 8) (s : State) (c : Context), s.ctx? k = some c →
    ∃ (t : State) (c' : Context), Leads (.uncorrectableError (.target k n)) s t ∧ t.ctx? k = some c' ∧ c'.regs.b[n].marks ≠ 0 ∧
      c'.regs.b[n] = { c.regs.b[n] with marks := c'.regs.b[n].marks } ∧ (∀ i : Fin 8, i ≠ n → c'.regs.b[i] = c.regs.b[i]) ∧
      t.mem = s.mem) ∧
  (∀ (k : Key) (off n : Nat) (s : State) (c : Context), s.ctx? k = some c → c.inH = true → off + n ≤ 256 → c.area.wf = true →
    ∃ (t : State) (c' : Context), Leads (.uncorrectableError (.area k off n)) s t ∧ t.ctx? k = some c' ∧ c'.area.cells = c.area.cells ∧
      c'.regs = c.regs ∧ t.mem = s.mem ∧ t.scratch = s.scratch ∧
      (∀ a, c'.area.marks.read a = if off ≤ a ∧ a < off + n then 1 else c.area.marks.read a)) ∧
  (∀ (chan i : Nat) (l : Fin 128) (s : State) (ch : Channel) (v : Vec), s.chans.find? (fun x => x.id == chan) = some ch →
    ch.items[i]? = some v →
    ∃ (t : State) (ch' : Channel) (v' : Vec), Leads (.uncorrectableError (.item chan i l)) s t ∧
      t.chans.find? (fun x => x.id == chan) = some ch' ∧ ch'.items[i]? = some v' ∧ v'.bits = v.bits ∧
      v'.mark = v.mark ||| ((1 : BitVec 128) <<< l.val) ∧ (∀ j, j ≠ i → ch'.items[j]? = ch.items[j]?) ∧ t.mem = s.mem) ∧
  (∀ (core va : Nat) (s : State) (c : Context), s.executing core = some c →
    ∃ t : State, Leads (.uncorrectableError (.icache core va)) s t ∧
      (t.core core).icErrors = (c.asid, va) :: (s.core core).icErrors)
namespace Sys2Proof.Claims

/-- The condition word of R209 for a and b: bits 63 to 8 zero, and bits 0 to 7 set as its table says. -/
def IsConditionWord (w a b : Word) : Prop :=
  w.toNat < 256 ∧ w.getLsbD 0 = decide (a = b) ∧ w.getLsbD 1 = decide (a ≠ b) ∧
    w.getLsbD 2 = decide (a.toInt < b.toInt) ∧ w.getLsbD 3 = decide (a.toInt ≥ b.toInt) ∧
    w.getLsbD 4 = decide (a.toNat < b.toNat) ∧ w.getLsbD 5 = decide (a.toNat ≥ b.toNat) ∧
    w.getLsbD 6 = decide (a.toInt ≤ b.toInt) ∧ w.getLsbD 7 = decide (a.toInt > b.toInt) ∧
    (a.toInt < b.toInt ∧ a.toNat < b.toNat → w = 0x56) ∧ (a.toInt > b.toInt ∧ a.toNat > b.toNat → w = 0xAA)

/-- A float layout in bits: its width, its exponent bits and the code of its canonical NaN (R49). -/
structure Layout where
  width : Nat
  exponent : Nat
  nan : Nat

/-- A code that is a NaN: an exponent of ones and a fraction that is not zero. -/
def Layout.isNan (f : Layout) (x : Nat) : Prop :=
  x / 2 ^ (f.width - 1 - f.exponent) % 2 ^ f.exponent = 2 ^ f.exponent - 1 ∧ x % 2 ^ (f.width - 1 - f.exponent) ≠ 0

/-- The place of a number's code in the order of the numbers, −0 just below +0. -/
def Layout.rank (f : Layout) (x : Nat) : Int :=
  if 2 ^ (f.width - 1) ≤ x then -(x - 2 ^ (f.width - 1) : Nat) - 1 else x

/-- R171: what VMAX and VMIN make of two codes. -/
def IsMinMax (f : Layout) (wantMax : Bool) (x y r : Nat) : Prop :=
  (f.isNan x ∧ f.isNan y → r = f.nan) ∧ (f.isNan x ∧ ¬ f.isNan y → r = y) ∧ (¬ f.isNan x ∧ f.isNan y → r = x) ∧
  (¬ f.isNan x ∧ ¬ f.isNan y → (r = x ∨ r = y) ∧
    if wantMax then f.rank x ≤ f.rank r ∧ f.rank y ≤ f.rank r else f.rank r ≤ f.rank x ∧ f.rank r ≤ f.rank y)

/-- The instruction reads a and b, puts the minimum or maximum of each pair of active elements into d, with no flag
written, and completes. -/
def TakesMinMax (i : Instr) (f : Layout) (wantMax : Bool) (d a b : VSpec) : Prop :=
  ∀ (s s1 s2 : State) (x y : Vec), issues i s = true → vsrcBound a s → vsrcBound b s → vdstBound d s →
    Gives (readVec a) s x s1 → Gives (readVec b) s1 y s2 →
    ∃ r : VecBits,
      (∀ e, activeElem f.width s2 e = true →
        IsMinMax f wantMax (elemOf x.bits f.width e) (elemOf y.bits f.width e) (elemOf r f.width e)) ∧
      ∀ t, Gives (writeVec d { bits := r, mark := x.mark ||| y.mark }) s2 () t → Completes i s t

/-- The layouts of the float lane types (R163): FP32, E5M10, BF16. -/
def laneLayouts : List (Fin 8 × Layout) := [(0, ⟨32, 8, 0x7FC00000⟩), (1, ⟨16, 5, 0x7E00⟩), (2, ⟨16, 8, 0x7FC0⟩)]

end Sys2Proof.Claims

/-- R209: CMP writes the condition word of s1 and s2, and CMPI that of s1 and the sign-extended immediate. -/
def Obligations.ConditionWordsAreWritten : Prop :=
  (∀ (d a b : Scalar) (s s1 s2 : State) (x y : Val), issues (.cmp d a b) s = true → srcBound a s → srcBound b s →
    dstBound d s → Gives (readScalar a) s x s1 → Gives (readScalar b) s1 y s2 →
    ∃ w : Word, IsConditionWord w x.bits y.bits ∧
      ∀ t, Gives (writeScalar d { bits := w, mark := x.mark || y.mark }) s2 () t → Completes (.cmp d a b) s t) ∧
  (∀ (d a : Scalar) (imm : BitVec 13) (s s1 : State) (x : Val), issues (.cmpi d a imm) s = true → srcBound a s →
    dstBound d s → Gives (readScalar a) s x s1 →
    ∃ w : Word, IsConditionWord w x.bits (imm.signExtend 64) ∧
      ∀ t, Gives (writeScalar d { bits := w, mark := x.mark }) s1 () t → Completes (.cmpi d a imm) s t)

/-- R171: VMAX and VMIN, in both lengths: −0 is below +0, a number beats a NaN, two NaNs give the canonical NaN, and no
flag is set. -/
def Obligations.MaximumAndMinimumOrderZerosAndNans : Prop :=
  (∀ p ∈ laneLayouts, ∀ d a b : VSpec, TakesMinMax (.vmax p.1 d a b) p.2 true d a b ∧
    TakesMinMax (.vmin p.1 d a b) p.2 false d a b) ∧
  ∀ d b : VSpec, TakesMinMax (.vmaxF32S d b) ⟨32, 8, 0x7FC00000⟩ true d d b ∧
    TakesMinMax (.vminF32S d b) ⟨32, 8, 0x7FC00000⟩ false d d b

namespace Sys2Proof.Claims

/-- The fault is taken where the instruction has left `t`, unless the limit of 64 records makes it wait (R98). -/
def FaultsKept (i : Instr) (s : State) (f : FaultInfo) (t : State) : Prop :=
  exec i s = .next (if s.recordsFull s.cur.key f then { s with stalled := true } else takeFault f t)

/-- The address of LDC's constant: (PC + 2 × Sx(imm19, 19)) mod 2^64. -/
def constantAt (s : State) (imm : BitVec 19) : Nat := (((s.cur.regs.pc.toNat : Int) + 2 * imm.toInt) % 2 ^ 64).toNat

end Sys2Proof.Claims

/-- R214: LDC reads the constant at e and writes it to d, or faults by the first of its conditions: an address that is not a
multiple of 8 below 2^48 in the global window, a failed walk, a page that is not FILL1, a poisoned line, a line that is not
frozen. The line is as its home has it, where no gateway lies between (`readFrozen`; FrozenLinesAreRead says where else a core
reads it from); that its home answers is a hypothesis (R94, R374, R375), and what the read counts (R101) stands in the state
that it leaves, and stays where it faults (notes/assumptions/60.md). -/
def Obligations.LdcReadsAFrozenConstant : Prop :=
  ∀ (d : Scalar) (imm : BitVec 19) (s : State), issues (.ldc d imm) s = true → dstBound d s →
    (let e := constantAt s imm
     ((e % 8 ≠ 0 ∨ 2 ^ 48 ≤ e ∨ windowOf e ≠ .global) →
       ∃ f : FaultInfo, Faults (.ldc d imm) s f ∧ f.code = .address ∧ f.addr.toNat = e) ∧
     (e % 8 = 0 → e < 2 ^ 48 → windowOf e = .global →
       (∀ (f : FaultInfo) (s1 : State), Gives (tryTranslate s.cur.core s.cur.asid s.cur.sys .read e) s (.error f) s1 →
         Faults (.ldc d imm) s f) ∧
       ∀ (l : Leaf) (s1 : State), Gives (tryTranslate s.cur.core s.cur.asid s.cur.sys .read e) s (.ok l) s1 →
         (l.ty ≠ 1 → ∃ f : FaultInfo, Faults (.ldc d imm) s f ∧ f.code = .badType ∧ f.addr.toNat = e) ∧
         (l.ty = 1 → s1.homeCode l e (dieOf s1.cur.core) = none → s1.gateFor s1.cur.core (l.key e) = none →
           Gives (readFrozen s1.cur.core s1.cur.asid l e) s1 (.ok (s1.snap (l.key e / 128) 1))
             (s1.countAt l.cnt (l.key e) (BitVec.ofNat 64 e) s1.cur.asid)) ∧
         (∀ (x : LineSnap) (s2 : State), l.ty = 1 → Gives (readFrozen s1.cur.core s1.cur.asid l e) s1 (.ok x) s2 →
           (mdPoison x.md = true → ∃ f : FaultInfo, FaultsKept (.ldc d imm) s f s2 ∧ f.code = .poison ∧ f.addr.toNat = e) ∧
           (mdPoison x.md = false → mdState x.md ≠ 2 →
             ∃ f : FaultInfo, FaultsKept (.ldc d imm) s f s2 ∧ f.code = .prematureRead ∧ f.addr.toNat = e) ∧
           (mdPoison x.md = false → mdState x.md = 2 →
             ∀ t : State, Gives (writeScalar d { bits := BitVec.ofNat 64 (x.data.toNat / 2 ^ (8 * (e % 128)) % 2 ^ 64) })
                 s2 () t → Completes (.ldc d imm) s t))))

/-- R127, R264, R338: WAITB parks until the phase of its barrier differs from its operand; then it takes the undelivered fault
of the earliest command whose last count fell into the phase that ended, or writes the new phase and acquires. An offset with
other bits set, or that names no barrier, faults. -/
def Obligations.WaitbWaitsForItsPhase : Prop :=
  ∀ (d off ph : Scalar) (s u : State) (vs : List Val), issues (.waitb d off ph) s = true → srcBound off s →
    srcBound ph s → dstBound d s → Operands [off, ph] s vs u → (nthVal vs 0).mark = false → (nthVal vs 1).mark = false →
    (let o := (nthVal vs 0).bits.toNat
     ((2 ^ 21 ≤ o ∨ o % 16 ≠ 0 ∨ ∀ b ∈ u.cur.barriers, b.off ≠ o) →
       Faults (.waitb d off ph) s { code := .illegalOperand }) ∧
     ∀ b : Barrier, o < 2 ^ 21 → o % 16 = 0 → u.cur.barriers.find? (fun x => x.off == o) = some b →
       (b.phase = (nthVal vs 1).bits.getLsbD 0 → Ends (.waitb d off ph) s (.park (.barrier o)) u) ∧
       (b.phase ≠ (nthVal vs 1).bits.getLsbD 0 →
         (let ended := u.cur.cmds.filter (fun m => m.state == .done && m.fault.isSome && !m.delivered &&
            m.kind.barrier == some o && decide (0 < b.flips) && m.phase == some (b.flips - 1))
          (∀ (m : Cmd) (f : FaultInfo), ended.head? = some m → m.fault = some f → s.recordsFull s.cur.key f = false →
            exec (.waitb d off ph) s = .next (takeFault f ((Note.delivered [m.seq]).mark s))) ∧
          (ended = [] → ∀ t : State, Gives (writeScalar d { bits := if b.phase then 1 else 0 }) u () t →
            Completes (.waitb d off ph) s (afterAcquire t)))))
end

