-- ==== Sys2Proof/Laws/Issue.lean ====
section
/-! SUPPORT. What an issued instruction answers, said once: with its effect, with a fault of its entry, parked, turned away
by steps 1 to 3, guarded off; and what the shared operand forms leave. -/
namespace Sys2Proof.Machine
open Sys2Proof.Claims

theorem issues_iff (i : Instr) (s : State) : issues i s = true ↔
    s.busy = true ∧ stepChecks i true s.cur = none ∧ s.cur.guardedOff = false ∧
      (s.cur.inH && i.blocksInHandler) = false ∧ s.cur.badRounding i = false := by
  unfold issues
  cases h : s.cur.inH && i.blocksInHandler <;> simp [Option.isNone_iff_eq_none, and_assoc]

/-- The instruction ends as its effect says. -/
theorem issue_gives {i : Instr} {body : M Flow} {s t : State} {f : Flow} (h : issues i s = true)
    (hb : Gives body s f t) : issue i body s = .next (settle i.len s.cur f t) := by
  obtain ⟨h1, h2, h3, h4, h5⟩ := (issues_iff i s).1 h
  have hb' : body s = .ok (f, t) := hb
  simp [issue, h1, h2, h3, h4, h5, runBody, hb']

/-- The instruction faults where its effect does. -/
theorem issue_raises {i : Instr} {body : M Flow} {s : State} {f : FaultInfo} (h : issues i s = true)
    (hb : body s = .error (.fault f)) : issue i body s = .next (takeFault f s) := by
  obtain ⟨h1, h2, h3, h4, h5⟩ := (issues_iff i s).1 h
  simp [issue, h1, h2, h3, h4, h5, runBody, hb]

/-- The instruction parks where its effect does. -/
theorem issue_parks {i : Instr} {body : M Flow} {s : State} {w : Wait} (h : issues i s = true)
    (hb : body s = .error (.park w)) : issue i body s = .next (parkCur w s) := by
  obtain ⟨h1, h2, h3, h4, h5⟩ := (issues_iff i s).1 h
  simp [issue, h1, h2, h3, h4, h5, runBody, hb]

/-- A transfer ends as its effect says. -/
theorem issueTransfer_gives {i : Instr} {body : M Flow} {s t : State} {f : Flow} (h1 : s.busy = true)
    (h2 : stepChecks i true s.cur = none) (hb : Gives body s f t) :
    issueTransfer i body s = .next (settle i.len s.cur f t) := by
  have hb' : body s = .ok (f, t) := hb
  simp [issueTransfer, h1, h2, runBody, hb']

/-- Every issued instruction answers a next state. -/
theorem runBody_next (i : Instr) (body : M Flow) (s : State) : ∃ t, runBody i body s = .next t := by
  unfold runBody
  split <;> exact ⟨_, rfl⟩

theorem issue_next (i : Instr) (body : M Flow) (s : State) : ∃ t, issue i body s = .next t := by
  unfold issue
  repeat' split
  all_goals first | exact runBody_next i body s | exact ⟨_, rfl⟩

theorem issueTransfer_next (i : Instr) (body : M Flow) (s : State) : ∃ t, issueTransfer i body s = .next t := by
  unfold issueTransfer
  split
  · exact ⟨_, rfl⟩
  · split
    · exact ⟨_, rfl⟩
    · exact runBody_next i body s

/-! Effects in sequence. -/

theorem gives_pure {α : Type} (x : α) (s : State) : Gives (pure x) s x s := rfl

theorem gives_bind {α β : Type} {m : M α} {k : α → M β} {s t u : State} {x : α} {y : β} (h1 : Gives m s x t)
    (h2 : Gives (k x) t y u) : Gives (m >>= k) s y u := by
  have h1' : m s = .ok (x, t) := h1
  have h2' : k x t = .ok (y, u) := h2
  simp [Gives, bind, StateT.bind, Except.bind, h1', h2']

theorem alu2_gives {d a b : Scalar} {f : Word → Word → Word} {s s1 s2 t : State} {x y : Val} (ha : srcBound a s)
    (hb : srcBound b s) (hd : dstBound d s) (hx : Gives (readScalar a) s x s1) (hy : Gives (readScalar b) s1 y s2)
    (hw : Gives (writeScalar d { bits := f x.bits y.bits, mark := x.mark || y.mark }) s2 () t) :
    Gives (alu2 d a b f) s .done t :=
  gives_bind ha (gives_bind hb (gives_bind hd (gives_bind hx (gives_bind hy (gives_bind hw (gives_pure _ _))))))

theorem alu1_gives {d a : Scalar} {f : Word → Word} {s s1 t : State} {x : Val} (ha : srcBound a s) (hd : dstBound d s)
    (hx : Gives (readScalar a) s x s1) (hw : Gives (writeScalar d { bits := f x.bits, mark := x.mark }) s1 () t) :
    Gives (alu1 d a f) s .done t :=
  gives_bind ha (gives_bind hd (gives_bind hx (gives_bind hw (gives_pure _ _))))

theorem aluConst_gives {d : Scalar} {x : Word} {s t : State} (hd : dstBound d s)
    (hw : Gives (writeScalar d { bits := x }) s () t) : Gives (aluConst d x) s .done t :=
  gives_bind hd (gives_bind hw (gives_pure _ _))

end Sys2Proof.Machine
end

