-- ==== Sys2Proof/Laws/Lanes.lean ====
section
/-! SUPPORT. Lists packed into vectors and read back, and what the lane-wise forms leave. -/
namespace Sys2Proof.Machine
open Sys2Proof.Claims

theorem packList_lt (w : Nat) (xs : List Nat) : packList w xs < 2 ^ (w * xs.length) := by
  induction xs with
  | nil => simp [packList]
  | cons x xs ih =>
    have h : packList w (x :: xs) = x % 2 ^ w + 2 ^ w * packList w xs := rfl
    rw [h, List.length_cons, Nat.mul_add, Nat.mul_one, Nat.pow_add, Nat.mul_comm (2 ^ (w * xs.length))]
    have h1 : x % 2 ^ w < 2 ^ w := Nat.mod_lt _ (Nat.two_pow_pos w)
    calc x % 2 ^ w + 2 ^ w * packList w xs < 2 ^ w + 2 ^ w * packList w xs := by omega
      _ = 2 ^ w * (packList w xs + 1) := by rw [Nat.mul_add, Nat.mul_one, Nat.add_comm]
      _ ≤ 2 ^ w * 2 ^ (w * xs.length) := Nat.mul_le_mul_left _ ih

/-- Element `e` of a packed list. -/
theorem packList_elem (w : Nat) (xs : List Nat) (e : Nat) (h : e < xs.length) :
    packList w xs / 2 ^ (w * e) % 2 ^ w = xs[e] % 2 ^ w := by
  induction xs generalizing e with
  | nil => simp at h
  | cons x xs ih =>
    have hc : packList w (x :: xs) = x % 2 ^ w + 2 ^ w * packList w xs := rfl
    cases e with
    | zero => simp [hc]
    | succ e =>
      have hd : (x % 2 ^ w + 2 ^ w * packList w xs) / 2 ^ w = packList w xs := by
        rw [Nat.add_mul_div_left _ _ (Nat.two_pow_pos w), Nat.div_eq_of_lt (Nat.mod_lt _ (Nat.two_pow_pos w)),
          Nat.zero_add]
      rw [hc, Nat.mul_add, Nat.mul_one, Nat.add_comm (w * e), Nat.pow_add, ← Nat.div_div_eq_div_mul, hd]
      simpa using ih e (by simpa using h)

theorem elemOf_packed (w : Nat) (xs : List Nat) (e : Nat) (h : e < xs.length) (hl : w * xs.length ≤ 4096) :
    elemOf (BitVec.ofNat 4096 (packList w xs)) w e = xs[e] % 2 ^ w := by
  have h1 : packList w xs < 2 ^ 4096 := Nat.lt_of_lt_of_le (packList_lt w xs) (Nat.pow_le_pow_right (by decide) hl)
  rw [elemOf, BitVec.extractLsb'_toNat, BitVec.toNat_ofNat, Nat.mod_eq_of_lt h1, Nat.shiftRight_eq_div_pow]
  exact packList_elem w xs e h

theorem elementwise_elem (w : Nat) (m : BitVec 128) (f : Nat → FResult) (e : Nat) (h : e < 4096 / w)
    (hm : m.getLsbD (e * w / 32) = true) : elemOf (elementwise w m f).1 w e = (f e).code % 2 ^ w := by
  unfold elementwise
  rw [elemOf_packed]
  · simp [hm]
  · simpa using h
  · simpa using Nat.mul_div_le 4096 w

theorem foldl_or_testBit (l : List FResult) (a k : Nat) :
    (l.foldl (fun acc r => acc ||| r.flags) a).testBit k = true ↔
      a.testBit k = true ∨ ∃ r ∈ l, r.flags.testBit k = true := by
  induction l generalizing a with
  | nil => simp
  | cons x l ih =>
    rw [List.foldl_cons, ih]
    simp [or_assoc]

theorem elementwise_flags (w : Nat) (m : BitVec 128) (f : Nat → FResult) (k : Nat) :
    (elementwise w m f).2.testBit k = true ↔
      ∃ e, (decide (e < 4096 / w) && m.getLsbD (e * w / 32)) = true ∧ (f e).flags.testBit k = true := by
  unfold elementwise
  rw [foldl_or_testBit]
  constructor
  · rintro (h | ⟨r, hr, h⟩)
    · simp at h
    · obtain ⟨e, he, rfl⟩ := List.mem_map.1 hr
      rw [List.mem_range] at he
      refine ⟨e, ?_, ?_⟩
      · by_cases hm : m.getLsbD (e * w / 32) = true
        · simp [he, hm]
        · simp [hm] at h
      · by_cases hm : m.getLsbD (e * w / 32) = true
        · simpa [hm] using h
        · simp [hm] at h
  · rintro ⟨e, he, h⟩
    simp only [Bool.and_eq_true, decide_eq_true_eq] at he
    exact .inr ⟨f e, List.mem_map.2 ⟨e, List.mem_range.2 he.1, by simp [he.2]⟩, h⟩

theorem activeLanes_gives (s : State) : Gives activeLanes s (lanesAt s) s := by
  unfold Gives activeLanes lanesAt
  cases h : s.cur.unit <;> simp [cur, bind, StateT.bind, get, getThe, MonadStateOf.get, StateT.get, pure, StateT.pure,
    Except.bind, Except.pure, h]

theorem cur_gives (s : State) : Gives cur s s.cur s := rfl

/-- What a vector instruction of two sources leaves. -/
theorem vec2_gives {d a b : VSpec} {k : Context → BitVec 128 → VecBits → VecBits → VecBits × Nat} {s s1 s2 t : State}
    {x y : Vec} (ha : vsrcBound a s) (hb : vsrcBound b s) (hd : vdstBound d s) (hx : Gives (readVec a) s x s1)
    (hy : Gives (readVec b) s1 y s2)
    (hw : Gives (do
        writeVec d { bits := (k s2.cur (lanesAt s2) x.bits y.bits).1, mark := x.mark ||| y.mark }
        raiseFlagsN (k s2.cur (lanesAt s2) x.bits y.bits).2) s2 () t) :
    Gives (vec2 d a b k) s .done t := by
  refine gives_bind ha (gives_bind hb (gives_bind hd (gives_bind hx (gives_bind hy
    (gives_bind (activeLanes_gives _) (gives_bind (cur_gives _) ?_))))))
  have := gives_bind (k := fun _ => pure Flow.done) hw (gives_pure Flow.done t)
  rwa [bind_assoc] at this

/-- Of one source. -/
theorem vec1_gives {d a : VSpec} {k : Context → BitVec 128 → VecBits → VecBits × Nat} {s s1 t : State}
    {x : Vec} (ha : vsrcBound a s) (hd : vdstBound d s) (hx : Gives (readVec a) s x s1)
    (hw : Gives (do
        writeVec d { bits := (k s1.cur (lanesAt s1) x.bits).1, mark := x.mark }
        raiseFlagsN (k s1.cur (lanesAt s1) x.bits).2) s1 () t) :
    Gives (vec1 d a k) s .done t := by
  refine gives_bind ha (gives_bind hd (gives_bind hx
    (gives_bind (activeLanes_gives _) (gives_bind (cur_gives _) ?_))))
  have := gives_bind (k := fun _ => pure Flow.done) hw (gives_pure Flow.done t)
  rwa [bind_assoc] at this

/-- Of two sources and the destination. -/
theorem vec3_gives {d a b : VSpec} {k : Context → BitVec 128 → VecBits → VecBits → VecBits → VecBits × Nat}
    {s s1 s2 s3 t : State} {x y z : Vec} (ha : vsrcBound a s) (hb : vsrcBound b s) (hx : Gives (readVec a) s x s1)
    (hy : Gives (readVec b) s1 y s2) (hz : Gives (readVec d) s2 z s3)
    (hw : Gives (do
        writeVec d
          { bits := (k s3.cur (lanesAt s3) x.bits y.bits z.bits).1, mark := x.mark ||| y.mark ||| z.mark }
        raiseFlagsN (k s3.cur (lanesAt s3) x.bits y.bits z.bits).2) s3 () t) :
    Gives (vec3 d a b k) s .done t := by
  refine gives_bind ha (gives_bind hb (gives_bind hx (gives_bind hy (gives_bind hz
    (gives_bind (activeLanes_gives _) (gives_bind (cur_gives _) ?_))))))
  have := gives_bind (k := fun _ => pure Flow.done) hw (gives_pure Flow.done t)
  rwa [bind_assoc] at this

end Sys2Proof.Machine
end

