-- ==== Sys2Proof/Laws/Memory.lean ====
section
/-! SUPPORT. Byte spaces: every operation keeps the canonical form; a read after a write gives the byte written there and
the old byte elsewhere. -/
namespace Sys2Proof.Machine

theorem Memory.wf_cons {a : Nat} {b : Byte} {r : Memory} :
    Memory.wf ((a, b) :: r) = true ↔ b ≠ 0 ∧ (∀ c ∈ r, a < c.1) ∧ Memory.wf r = true := by
  simp [Memory.wf, and_assoc]

theorem Memory.wf_tail {x : Host.Cell} {r : Memory} (h : Memory.wf (x :: r) = true) : Memory.wf r = true :=
  (Memory.wf_cons.1 h).2.2

theorem Memory.wf_cons_rule {a : Nat} {b : Byte} {r : Memory} (hb : b ≠ 0) (hr : ∀ c ∈ r, a < c.1)
    (h : Memory.wf r = true) : Memory.wf ((a, b) :: r) = true := Memory.wf_cons.2 ⟨hb, hr, h⟩

/-- An address below every listed one reads as zero. -/
theorem Memory.read_below {a : Nat} : ∀ {m : Memory}, (∀ c ∈ m, a < c.1) → m.read a = 0
  | [], _ => rfl
  | (a', b') :: r, h => by
    have h1 : a < a' := h (a', b') (by simp)
    rw [Memory.read, if_neg (by omega)]
    exact Memory.read_below (fun c hc => h c (by simp [hc]))

/-- A write lists no address but its own and the old ones. -/
theorem Memory.mem_write {a : Nat} {b : Byte} : ∀ {m : Memory} {c : Host.Cell}, c ∈ m.write a b → c = (a, b) ∨ c ∈ m
  | [], c, h => by
    by_cases hb : b = 0 <;> simp_all [Memory.write]
  | (a', b') :: r, c, h => by
    by_cases hb : b = 0 <;> simp only [Memory.write, hb, if_true, if_false] at h <;> split at h <;> (try split at h) <;>
      simp only [List.mem_cons] at h ⊢ <;> first
        | tauto
        | (rcases h with h | h
           · exact .inr (.inl h)
           · rcases Memory.mem_write h with h | h <;> simp_all)

theorem Memory.write_wf {a : Nat} {b : Byte} : ∀ {m : Memory}, m.wf = true → (m.write a b).wf = true
  | [], _ => by
    unfold Memory.write
    split
    · rfl
    · exact Memory.wf_cons_rule ‹_› (by simp) rfl
  | (a', b') :: r, h => by
    obtain ⟨h1, h2, h3⟩ := Memory.wf_cons.1 h
    simp only [Memory.write]
    split
    · split
      · exact h
      · refine Memory.wf_cons_rule ‹_› (fun c hc => ?_) h
        rcases List.mem_cons.1 hc with rfl | hc
        · assumption
        · have := h2 c hc; omega
    · split
      · split
        · exact h3
        · subst a; exact Memory.wf_cons_rule ‹_› h2 h3
      · refine Memory.wf_cons_rule h1 (fun c hc => ?_) (Memory.write_wf h3)
        rcases Memory.mem_write hc with rfl | hc
        · show a' < a; omega
        · exact h2 c hc

/-- Read after write. -/
theorem Memory.read_write {a x : Nat} {b : Byte} : ∀ {m : Memory}, m.wf = true →
    (m.write a b).read x = if x = a then b else m.read x
  | [], _ => by
    unfold Memory.write
    split <;> by_cases hx : x = a <;> simp [Memory.read, hx, *]
  | (a', b') :: r, h => by
    obtain ⟨h1, h2, h3⟩ := Memory.wf_cons.1 h
    have low : x ≤ a' → Memory.read r x = 0 := fun hx => Memory.read_below (fun c hc => by have := h2 c hc; omega)
    simp only [Memory.write]
    split
    · by_cases hx : x = a
      · subst hx
        split
        · rw [Memory.read, if_neg (by omega), low (by omega)]; simp_all
        · simp [Memory.read]
      · split <;> simp [Memory.read, hx]
    · split
      · subst a
        by_cases hx : x = a'
        · subst hx
          split
          · rw [low (by omega)]; simp_all
          · simp [Memory.read]
        · split <;> simp [Memory.read, hx]
      · rw [Memory.read, Memory.read, Memory.read_write h3]
        by_cases hx : x = a'
        · subst hx
          rw [if_pos rfl, if_neg (by omega), if_pos rfl]
        · rw [if_neg hx, if_neg hx]

theorem Memory.fill_wf {b : Byte} : ∀ (n a : Nat) {m : Memory}, m.wf = true → (m.fill a b n).wf = true
  | 0, _, _, h => h
  | n + 1, a, _, h => Memory.fill_wf n (a + 1) (Memory.write_wf h)

theorem Memory.read_fill {b : Byte} {x : Nat} : ∀ (n a : Nat) {m : Memory}, m.wf = true →
    (m.fill a b n).read x = if a ≤ x ∧ x < a + n then b else m.read x
  | 0, a, m, _ => by rw [Memory.fill, if_neg (by omega)]
  | n + 1, a, m, h => by
    rw [Memory.fill, Memory.read_fill n (a + 1) (Memory.write_wf h), Memory.read_write h]
    split
    · rw [if_pos (by omega)]
    · split
      · rw [if_pos (by omega)]
      · rw [if_neg (by omega)]

theorem Memory.writeN_wf : ∀ (n a x : Nat) {m : Memory}, m.wf = true → (m.writeN a n x).wf = true
  | 0, _, _, _, h => h
  | n + 1, a, x, _, h => Memory.writeN_wf n (a + 1) (x / 256) (Memory.write_wf h)

/-- A write of `n` bytes leaves the others. -/
theorem Memory.read_writeN_other {y : Nat} : ∀ (n a x : Nat) {m : Memory}, m.wf = true → (y < a ∨ a + n ≤ y) →
    (m.writeN a n x).read y = m.read y
  | 0, _, _, _, _, _ => rfl
  | n + 1, a, x, m, h, hy => by
    rw [Memory.writeN, Memory.read_writeN_other n (a + 1) (x / 256) (Memory.write_wf h) (by omega), Memory.read_write h,
      if_neg (by omega)]

/-- A number written is the number read. -/
theorem Memory.readN_writeN : ∀ (n a x : Nat) {m : Memory}, m.wf = true → (m.writeN a n x).readN a n = x % 2 ^ (8 * n)
  | 0, _, x, _, _ => by simp [Memory.readN, Nat.mod_one]
  | n + 1, a, x, m, h => by
    have hw := Memory.write_wf (a := a) (b := BitVec.ofNat 8 x) h
    rw [Memory.readN, Memory.writeN, Memory.readN_writeN n (a + 1) (x / 256) hw,
      Memory.read_writeN_other n (a + 1) (x / 256) hw (by omega), Memory.read_write h, if_pos rfl, BitVec.toNat_ofNat]
    have e : 2 ^ (8 * (n + 1)) = 256 * 2 ^ (8 * n) := by rw [Nat.mul_add, Nat.pow_add]; omega
    rw [e, Nat.mod_mul]

theorem Memory.filter_wf {p : Host.Cell → Bool} : ∀ {m : Memory}, m.wf = true → Memory.wf (m.filter p) = true
  | [], _ => rfl
  | (a, b) :: r, h => by
    obtain ⟨h1, h2, h3⟩ := Memory.wf_cons.1 h
    rw [List.filter_cons]
    split
    · exact Memory.wf_cons_rule h1 (fun c hc => h2 c (List.mem_filter.1 hc).1) (Memory.filter_wf h3)
    · exact Memory.filter_wf h3

theorem Memory.clear_wf {m : Memory} {a n : Nat} (h : m.wf = true) : (m.clear a n).wf = true := Memory.filter_wf h

/-- A cleared range reads as zero, and the rest as before. -/
theorem Memory.read_clear {a n x : Nat} : ∀ {m : Memory}, m.wf = true →
    (m.clear a n).read x = if a ≤ x ∧ x < a + n then 0 else m.read x
  | [], _ => by simp [Memory.clear, Memory.read]
  | (a', b') :: r, h => by
    obtain ⟨h1, h2, h3⟩ := Memory.wf_cons.1 h
    have ih := Memory.read_clear (a := a) (n := n) (x := x) h3
    have low : x ≤ a' → Memory.read r x = 0 := fun hx => Memory.read_below (fun c hc => by have := h2 c hc; omega)
    unfold Memory.clear at ih ⊢
    rw [List.filter_cons]
    split
    · rename_i hp
      rw [Memory.read, Memory.read, ih]
      by_cases hx : x = a'
      · subst hx
        rw [if_pos rfl, if_pos rfl, if_neg]
        rintro ⟨h4, h5⟩
        simp [h4, h5] at hp
      · rw [if_neg hx, if_neg hx]
    · rename_i hp
      rw [ih, Memory.read]
      by_cases hx : x = a'
      · subst hx
        have hp' : a ≤ x ∧ x < a + n := by simpa using hp
        rw [if_pos hp', if_pos hp']
      · rw [if_neg hx]

end Sys2Proof.Machine
end

