-- ==== Sys2Proof/Laws/PerInstr.lean ====
section
/-! SUPPORT. The family "Length": an instruction's encoding has the length its first halfword's bit 0 gives it (R6), and no
bit of its word lies outside it; an event has none. -/
namespace Sys2Proof

theorem Scalar.toNat_lt (x : Scalar) : x.toNat < 64 := by cases x <;> simp only [Scalar.toNat] <;> omega

theorem VSpec.toNat_lt (x : VSpec) : x.toNat < 32 := by cases x <;> simp only [VSpec.toNat] <;> omega

theorem bytesOfNat_length : ∀ n w : Nat, (bytesOfNat n w).length = n
  | 0, _ => rfl
  | n + 1, w => congrArg (· + 1) (bytesOfNat_length n (w / 256))

theorem encode_length (i : Instr) : (encode i).length = i.len := bytesOfNat_length _ _

end Sys2Proof

namespace Sys2Proof.Laws.Length

/-- The encoding has the instruction's length, and its word fits in it. -/
def Statement (i : Instr) : Prop := (encode i).length = i.len ∧ encodeWord i < 2 ^ (8 * i.len)

theorem guard (s : Bool) (b : Fin 64) (n : Fin 32) : Statement (.guard s b n) := ⟨encode_length _, by
  show 2 + 16 * n.val + 512 * b.val + 32768 * s.toNat < 2 ^ 16
  have := s.toNat_lt; have := b.isLt; have := n.isLt; omega⟩
theorem vguard (s : Bool) (b : Fin 32) (n : Fin 32) : Statement (.vguard s b n) := ⟨encode_length _, by
  show 6 + 16 * n.val + 512 * b.val + 16384 * s.toNat < 2 ^ 16
  have := s.toNat_lt; have := b.isLt; have := n.isLt; omega⟩
theorem nop16 : Statement .nop16 := ⟨encode_length _, by
  show 10 < 2 ^ 16
  omega⟩
theorem yield16 : Statement .yield16 := ⟨encode_length _, by
  show 26 < 2 ^ 16
  omega⟩
theorem vaddF32S (d : VSpec) (s : VSpec) : Statement (.vaddF32S d s) := ⟨encode_length _, by
  show encShort 0 s d < 2 ^ 16
  have := d.toNat_lt; have := s.toNat_lt; unfold encShort; omega⟩
theorem vsubF32S (d : VSpec) (s : VSpec) : Statement (.vsubF32S d s) := ⟨encode_length _, by
  show encShort 1 s d < 2 ^ 16
  have := d.toNat_lt; have := s.toNat_lt; unfold encShort; omega⟩
theorem vmulF32S (d : VSpec) (s : VSpec) : Statement (.vmulF32S d s) := ⟨encode_length _, by
  show encShort 2 s d < 2 ^ 16
  have := d.toNat_lt; have := s.toNat_lt; unfold encShort; omega⟩
theorem vfmaF32S (d : VSpec) (s : VSpec) : Statement (.vfmaF32S d s) := ⟨encode_length _, by
  show encShort 3 s d < 2 ^ 16
  have := d.toNat_lt; have := s.toNat_lt; unfold encShort; omega⟩
theorem vmaxF32S (d : VSpec) (s : VSpec) : Statement (.vmaxF32S d s) := ⟨encode_length _, by
  show encShort 4 s d < 2 ^ 16
  have := d.toNat_lt; have := s.toNat_lt; unfold encShort; omega⟩
theorem vminF32S (d : VSpec) (s : VSpec) : Statement (.vminF32S d s) := ⟨encode_length _, by
  show encShort 5 s d < 2 ^ 16
  have := d.toNat_lt; have := s.toNat_lt; unfold encShort; omega⟩
theorem vaddBf16S (d : VSpec) (s : VSpec) : Statement (.vaddBf16S d s) := ⟨encode_length _, by
  show encShort 6 s d < 2 ^ 16
  have := d.toNat_lt; have := s.toNat_lt; unfold encShort; omega⟩
theorem vfmaBf16S (d : VSpec) (s : VSpec) : Statement (.vfmaBf16S d s) := ⟨encode_length _, by
  show encShort 7 s d < 2 ^ 16
  have := d.toNat_lt; have := s.toNat_lt; unfold encShort; omega⟩
theorem viaddI32S (d : VSpec) (s : VSpec) : Statement (.viaddI32S d s) := ⟨encode_length _, by
  show encShort 8 s d < 2 ^ 16
  have := d.toNat_lt; have := s.toNat_lt; unfold encShort; omega⟩
theorem visubI32S (d : VSpec) (s : VSpec) : Statement (.visubI32S d s) := ⟨encode_length _, by
  show encShort 9 s d < 2 ^ 16
  have := d.toNat_lt; have := s.toNat_lt; unfold encShort; omega⟩
theorem viandS (d : VSpec) (s : VSpec) : Statement (.viandS d s) := ⟨encode_length _, by
  show encShort 10 s d < 2 ^ 16
  have := d.toNat_lt; have := s.toNat_lt; unfold encShort; omega⟩
theorem viorS (d : VSpec) (s : VSpec) : Statement (.viorS d s) := ⟨encode_length _, by
  show encShort 11 s d < 2 ^ 16
  have := d.toNat_lt; have := s.toNat_lt; unfold encShort; omega⟩
theorem vixorS (d : VSpec) (s : VSpec) : Statement (.vixorS d s) := ⟨encode_length _, by
  show encShort 12 s d < 2 ^ 16
  have := d.toNat_lt; have := s.toNat_lt; unfold encShort; omega⟩
theorem vimaxI32S (d : VSpec) (s : VSpec) : Statement (.vimaxI32S d s) := ⟨encode_length _, by
  show encShort 13 s d < 2 ^ 16
  have := d.toNat_lt; have := s.toNat_lt; unfold encShort; omega⟩
theorem vmovS (d : VSpec) (s : VSpec) : Statement (.vmovS d s) := ⟨encode_length _, by
  show encShort 14 s d < 2 ^ 16
  have := d.toNat_lt; have := s.toNat_lt; unfold encShort; omega⟩
theorem viminI32S (d : VSpec) (s : VSpec) : Statement (.viminI32S d s) := ⟨encode_length _, by
  show encShort 15 s d < 2 ^ 16
  have := d.toNat_lt; have := s.toNat_lt; unfold encShort; omega⟩
theorem add (d : Scalar) (a : Scalar) (b : Scalar) : Statement (.add d a b) := ⟨encode_length _, by
  show encA 0 0 b.toNat a.toNat d.toNat < 2 ^ 32
  have := d.toNat_lt; have := a.toNat_lt; have := b.toNat_lt; unfold encA; omega⟩
theorem sub (d : Scalar) (a : Scalar) (b : Scalar) : Statement (.sub d a b) := ⟨encode_length _, by
  show encA 0 1 b.toNat a.toNat d.toNat < 2 ^ 32
  have := d.toNat_lt; have := a.toNat_lt; have := b.toNat_lt; unfold encA; omega⟩
theorem and (d : Scalar) (a : Scalar) (b : Scalar) : Statement (.and d a b) := ⟨encode_length _, by
  show encA 0 2 b.toNat a.toNat d.toNat < 2 ^ 32
  have := d.toNat_lt; have := a.toNat_lt; have := b.toNat_lt; unfold encA; omega⟩
theorem or (d : Scalar) (a : Scalar) (b : Scalar) : Statement (.or d a b) := ⟨encode_length _, by
  show encA 0 3 b.toNat a.toNat d.toNat < 2 ^ 32
  have := d.toNat_lt; have := a.toNat_lt; have := b.toNat_lt; unfold encA; omega⟩
theorem xor (d : Scalar) (a : Scalar) (b : Scalar) : Statement (.xor d a b) := ⟨encode_length _, by
  show encA 0 4 b.toNat a.toNat d.toNat < 2 ^ 32
  have := d.toNat_lt; have := a.toNat_lt; have := b.toNat_lt; unfold encA; omega⟩
theorem shl (d : Scalar) (a : Scalar) (b : Scalar) : Statement (.shl d a b) := ⟨encode_length _, by
  show encA 0 5 b.toNat a.toNat d.toNat < 2 ^ 32
  have := d.toNat_lt; have := a.toNat_lt; have := b.toNat_lt; unfold encA; omega⟩
theorem shr (d : Scalar) (a : Scalar) (b : Scalar) : Statement (.shr d a b) := ⟨encode_length _, by
  show encA 0 6 b.toNat a.toNat d.toNat < 2 ^ 32
  have := d.toNat_lt; have := a.toNat_lt; have := b.toNat_lt; unfold encA; omega⟩
theorem sra (d : Scalar) (a : Scalar) (b : Scalar) : Statement (.sra d a b) := ⟨encode_length _, by
  show encA 0 7 b.toNat a.toNat d.toNat < 2 ^ 32
  have := d.toNat_lt; have := a.toNat_lt; have := b.toNat_lt; unfold encA; omega⟩
theorem min (d : Scalar) (a : Scalar) (b : Scalar) : Statement (.min d a b) := ⟨encode_length _, by
  show encA 0 8 b.toNat a.toNat d.toNat < 2 ^ 32
  have := d.toNat_lt; have := a.toNat_lt; have := b.toNat_lt; unfold encA; omega⟩
theorem max (d : Scalar) (a : Scalar) (b : Scalar) : Statement (.max d a b) := ⟨encode_length _, by
  show encA 0 9 b.toNat a.toNat d.toNat < 2 ^ 32
  have := d.toNat_lt; have := a.toNat_lt; have := b.toNat_lt; unfold encA; omega⟩
theorem minn (d : Scalar) (a : Scalar) (b : Scalar) : Statement (.minn d a b) := ⟨encode_length _, by
  show encA 0 10 b.toNat a.toNat d.toNat < 2 ^ 32
  have := d.toNat_lt; have := a.toNat_lt; have := b.toNat_lt; unfold encA; omega⟩
theorem maxn (d : Scalar) (a : Scalar) (b : Scalar) : Statement (.maxn d a b) := ⟨encode_length _, by
  show encA 0 11 b.toNat a.toNat d.toNat < 2 ^ 32
  have := d.toNat_lt; have := a.toNat_lt; have := b.toNat_lt; unfold encA; omega⟩
theorem mul (d : Scalar) (a : Scalar) (b : Scalar) : Statement (.mul d a b) := ⟨encode_length _, by
  show encA 0 12 b.toNat a.toNat d.toNat < 2 ^ 32
  have := d.toNat_lt; have := a.toNat_lt; have := b.toNat_lt; unfold encA; omega⟩
theorem mulh (d : Scalar) (a : Scalar) (b : Scalar) : Statement (.mulh d a b) := ⟨encode_length _, by
  show encA 0 13 b.toNat a.toNat d.toNat < 2 ^ 32
  have := d.toNat_lt; have := a.toNat_lt; have := b.toNat_lt; unfold encA; omega⟩
theorem mulhn (d : Scalar) (a : Scalar) (b : Scalar) : Statement (.mulhn d a b) := ⟨encode_length _, by
  show encA 0 14 b.toNat a.toNat d.toNat < 2 ^ 32
  have := d.toNat_lt; have := a.toNat_lt; have := b.toNat_lt; unfold encA; omega⟩
theorem div (d : Scalar) (a : Scalar) (b : Scalar) : Statement (.div d a b) := ⟨encode_length _, by
  show encA 0 15 b.toNat a.toNat d.toNat < 2 ^ 32
  have := d.toNat_lt; have := a.toNat_lt; have := b.toNat_lt; unfold encA; omega⟩
theorem divn (d : Scalar) (a : Scalar) (b : Scalar) : Statement (.divn d a b) := ⟨encode_length _, by
  show encA 0 16 b.toNat a.toNat d.toNat < 2 ^ 32
  have := d.toNat_lt; have := a.toNat_lt; have := b.toNat_lt; unfold encA; omega⟩
theorem rem (d : Scalar) (a : Scalar) (b : Scalar) : Statement (.rem d a b) := ⟨encode_length _, by
  show encA 0 17 b.toNat a.toNat d.toNat < 2 ^ 32
  have := d.toNat_lt; have := a.toNat_lt; have := b.toNat_lt; unfold encA; omega⟩
theorem remn (d : Scalar) (a : Scalar) (b : Scalar) : Statement (.remn d a b) := ⟨encode_length _, by
  show encA 0 18 b.toNat a.toNat d.toNat < 2 ^ 32
  have := d.toNat_lt; have := a.toNat_lt; have := b.toNat_lt; unfold encA; omega⟩
theorem clz (d : Scalar) (a : Scalar) : Statement (.clz d a) := ⟨encode_length _, by
  show encA 0 19 0 a.toNat d.toNat < 2 ^ 32
  have := d.toNat_lt; have := a.toNat_lt; unfold encA; omega⟩
theorem popc (d : Scalar) (a : Scalar) : Statement (.popc d a) := ⟨encode_length _, by
  show encA 0 20 0 a.toNat d.toNat < 2 ^ 32
  have := d.toNat_lt; have := a.toNat_lt; unfold encA; omega⟩
theorem bfx (d : Scalar) (a : Scalar) (b : Scalar) : Statement (.bfx d a b) := ⟨encode_length _, by
  show encA 0 21 b.toNat a.toNat d.toNat < 2 ^ 32
  have := d.toNat_lt; have := a.toNat_lt; have := b.toNat_lt; unfold encA; omega⟩
theorem bfi (d : Scalar) (a : Scalar) (b : Scalar) : Statement (.bfi d a b) := ⟨encode_length _, by
  show encA 0 22 b.toNat a.toNat d.toNat < 2 ^ 32
  have := d.toNat_lt; have := a.toNat_lt; have := b.toNat_lt; unfold encA; omega⟩
theorem cmp (d : Scalar) (a : Scalar) (b : Scalar) : Statement (.cmp d a b) := ⟨encode_length _, by
  show encA 0 23 b.toNat a.toNat d.toNat < 2 ^ 32
  have := d.toNat_lt; have := a.toNat_lt; have := b.toNat_lt; unfold encA; omega⟩
theorem cmpf (d : Scalar) (a : Scalar) (b : Scalar) : Statement (.cmpf d a b) := ⟨encode_length _, by
  show encA 0 24 b.toNat a.toNat d.toNat < 2 ^ 32
  have := d.toNat_lt; have := a.toNat_lt; have := b.toNat_lt; unfold encA; omega⟩
theorem fadd (d : Scalar) (a : Scalar) (b : Scalar) : Statement (.fadd d a b) := ⟨encode_length _, by
  show encA 0 25 b.toNat a.toNat d.toNat < 2 ^ 32
  have := d.toNat_lt; have := a.toNat_lt; have := b.toNat_lt; unfold encA; omega⟩
theorem fsub (d : Scalar) (a : Scalar) (b : Scalar) : Statement (.fsub d a b) := ⟨encode_length _, by
  show encA 0 26 b.toNat a.toNat d.toNat < 2 ^ 32
  have := d.toNat_lt; have := a.toNat_lt; have := b.toNat_lt; unfold encA; omega⟩
theorem fmul (d : Scalar) (a : Scalar) (b : Scalar) : Statement (.fmul d a b) := ⟨encode_length _, by
  show encA 0 27 b.toNat a.toNat d.toNat < 2 ^ 32
  have := d.toNat_lt; have := a.toNat_lt; have := b.toNat_lt; unfold encA; omega⟩
theorem ftoi (d : Scalar) (a : Scalar) : Statement (.ftoi d a) := ⟨encode_length _, by
  show encA 0 28 0 a.toNat d.toNat < 2 ^ 32
  have := d.toNat_lt; have := a.toNat_lt; unfold encA; omega⟩
theorem itof (d : Scalar) (a : Scalar) : Statement (.itof d a) := ⟨encode_length _, by
  show encA 0 29 0 a.toNat d.toNat < 2 ^ 32
  have := d.toNat_lt; have := a.toNat_lt; unfold encA; omega⟩
theorem addi (d : Scalar) (a : Scalar) (imm : BitVec 13) : Statement (.addi d a imm) := ⟨encode_length _, by
  show encI 1 imm a.toNat d.toNat < 2 ^ 32
  have := d.toNat_lt; have := a.toNat_lt; have := BitVec.isLt imm; unfold encI; omega⟩
theorem andi (d : Scalar) (a : Scalar) (imm : BitVec 13) : Statement (.andi d a imm) := ⟨encode_length _, by
  show encI 2 imm a.toNat d.toNat < 2 ^ 32
  have := d.toNat_lt; have := a.toNat_lt; have := BitVec.isLt imm; unfold encI; omega⟩
theorem ori (d : Scalar) (a : Scalar) (imm : BitVec 13) : Statement (.ori d a imm) := ⟨encode_length _, by
  show encI 3 imm a.toNat d.toNat < 2 ^ 32
  have := d.toNat_lt; have := a.toNat_lt; have := BitVec.isLt imm; unfold encI; omega⟩
theorem xori (d : Scalar) (a : Scalar) (imm : BitVec 13) : Statement (.xori d a imm) := ⟨encode_length _, by
  show encI 4 imm a.toNat d.toNat < 2 ^ 32
  have := d.toNat_lt; have := a.toNat_lt; have := BitVec.isLt imm; unfold encI; omega⟩
theorem shli (d : Scalar) (a : Scalar) (n : Fin 64) : Statement (.shli d a n) := ⟨encode_length _, by
  show encA 5 0 n.val a.toNat d.toNat < 2 ^ 32
  have := d.toNat_lt; have := a.toNat_lt; have := n.isLt; unfold encA; omega⟩
theorem shri (d : Scalar) (a : Scalar) (n : Fin 64) : Statement (.shri d a n) := ⟨encode_length _, by
  show encA 5 32 n.val a.toNat d.toNat < 2 ^ 32
  have := d.toNat_lt; have := a.toNat_lt; have := n.isLt; unfold encA; omega⟩
theorem srai (d : Scalar) (a : Scalar) (n : Fin 64) : Statement (.srai d a n) := ⟨encode_length _, by
  show encA 5 64 n.val a.toNat d.toNat < 2 ^ 32
  have := d.toNat_lt; have := a.toNat_lt; have := n.isLt; unfold encA; omega⟩
theorem cmpi (d : Scalar) (a : Scalar) (imm : BitVec 13) : Statement (.cmpi d a imm) := ⟨encode_length _, by
  show encI 6 imm a.toNat d.toNat < 2 ^ 32
  have := d.toNat_lt; have := a.toNat_lt; have := BitVec.isLt imm; unfold encI; omega⟩
theorem movi (d : Scalar) (imm : BitVec 19) : Statement (.movi d imm) := ⟨encode_length _, by
  show encW 7 imm d.toNat < 2 ^ 32
  have := d.toNat_lt; have := BitVec.isLt imm; unfold encW; omega⟩
theorem ldc (d : Scalar) (imm : BitVec 19) : Statement (.ldc d imm) := ⟨encode_length _, by
  show encW 8 imm d.toNat < 2 ^ 32
  have := d.toNat_lt; have := BitVec.isLt imm; unfold encW; omega⟩
theorem addpc (d : Scalar) (imm : BitVec 19) : Statement (.addpc d imm) := ⟨encode_length _, by
  show encW 9 imm d.toNat < 2 ^ 32
  have := d.toNat_lt; have := BitVec.isLt imm; unfold encW; omega⟩
theorem ld (d : Scalar) (b : Scalar) (z : Fin 4) (o : BitVec 11) : Statement (.ld d b z o) := ⟨encode_length _, by
  show encS 16 o z b.toNat d.toNat < 2 ^ 32
  have := d.toNat_lt; have := b.toNat_lt; have := z.isLt; have := BitVec.isLt o; unfold encS; omega⟩
theorem ldz (d : Scalar) (b : Scalar) (z : Fin 4) (o : BitVec 11) : Statement (.ldz d b z o) := ⟨encode_length _, by
  show encS 17 o z b.toNat d.toNat < 2 ^ 32
  have := d.toNat_lt; have := b.toNat_lt; have := z.isLt; have := BitVec.isLt o; unfold encS; omega⟩
theorem st (d : Scalar) (b : Scalar) (z : Fin 4) (o : BitVec 11) : Statement (.st d b z o) := ⟨encode_length _, by
  show encS 18 o z b.toNat d.toNat < 2 ^ 32
  have := d.toNat_lt; have := b.toNat_lt; have := z.isLt; have := BitVec.isLt o; unfold encS; omega⟩
theorem joinH (a : Scalar) (b : Scalar) : Statement (.joinH a b) := ⟨encode_length _, by
  show encA 20 0 b.toNat a.toNat 0 < 2 ^ 32
  have := a.toNat_lt; have := b.toNat_lt; unfold encA; omega⟩
theorem joinW (a : Scalar) (b : Scalar) : Statement (.joinW a b) := ⟨encode_length _, by
  show encA 20 1 b.toNat a.toNat 0 < 2 ^ 32
  have := a.toNat_lt; have := b.toNat_lt; unfold encA; omega⟩
theorem joinD (a : Scalar) (b : Scalar) : Statement (.joinD a b) := ⟨encode_length _, by
  show encA 20 2 b.toNat a.toNat 0 < 2 ^ 32
  have := a.toNat_lt; have := b.toNat_lt; unfold encA; omega⟩
theorem joinHRel (a : Scalar) (b : Scalar) : Statement (.joinHRel a b) := ⟨encode_length _, by
  show encA 20 3 b.toNat a.toNat 0 < 2 ^ 32
  have := a.toNat_lt; have := b.toNat_lt; unfold encA; omega⟩
theorem joinWRel (a : Scalar) (b : Scalar) : Statement (.joinWRel a b) := ⟨encode_length _, by
  show encA 20 4 b.toNat a.toNat 0 < 2 ^ 32
  have := a.toNat_lt; have := b.toNat_lt; unfold encA; omega⟩
theorem joinDRel (a : Scalar) (b : Scalar) : Statement (.joinDRel a b) := ⟨encode_length _, by
  show encA 20 5 b.toNat a.toNat 0 < 2 ^ 32
  have := a.toNat_lt; have := b.toNat_lt; unfold encA; omega⟩
theorem xjoinF (a : Scalar) (b : Scalar) : Statement (.xjoinF a b) := ⟨encode_length _, by
  show encA 20 6 b.toNat a.toNat 0 < 2 ^ 32
  have := a.toNat_lt; have := b.toNat_lt; unfold encA; omega⟩
theorem xjoinI (a : Scalar) (b : Scalar) : Statement (.xjoinI a b) := ⟨encode_length _, by
  show encA 20 7 b.toNat a.toNat 0 < 2 ^ 32
  have := a.toNat_lt; have := b.toNat_lt; unfold encA; omega⟩
theorem xjoinFRel (a : Scalar) (b : Scalar) : Statement (.xjoinFRel a b) := ⟨encode_length _, by
  show encA 20 8 b.toNat a.toNat 0 < 2 ^ 32
  have := a.toNat_lt; have := b.toNat_lt; unfold encA; omega⟩
theorem xjoinIRel (a : Scalar) (b : Scalar) : Statement (.xjoinIRel a b) := ⟨encode_length _, by
  show encA 20 9 b.toNat a.toNat 0 < 2 ^ 32
  have := a.toNat_lt; have := b.toNat_lt; unfold encA; omega⟩
theorem await (d : Scalar) (a : Scalar) (b : Scalar) : Statement (.await d a b) := ⟨encode_length _, by
  show encA 20 10 b.toNat a.toNat d.toNat < 2 ^ 32
  have := d.toNat_lt; have := a.toNat_lt; have := b.toNat_lt; unfold encA; omega⟩
theorem awaitAny (d : Scalar) (a : Scalar) (b : Scalar) : Statement (.awaitAny d a b) := ⟨encode_length _, by
  show encA 20 11 b.toNat a.toNat d.toNat < 2 ^ 32
  have := d.toNat_lt; have := a.toNat_lt; have := b.toNat_lt; unfold encA; omega⟩
theorem awaitFilled (d : Scalar) (a : Scalar) : Statement (.awaitFilled d a) := ⟨encode_length _, by
  show encA 20 12 0 a.toNat d.toNat < 2 ^ 32
  have := d.toNat_lt; have := a.toNat_lt; unfold encA; omega⟩
theorem probe (d : Scalar) (a : Scalar) (b : Scalar) : Statement (.probe d a b) := ⟨encode_length _, by
  show encA 20 13 b.toNat a.toNat d.toNat < 2 ^ 32
  have := d.toNat_lt; have := a.toNat_lt; have := b.toNat_lt; unfold encA; omega⟩
theorem ldxW (d : Scalar) (a : Scalar) : Statement (.ldxW d a) := ⟨encode_length _, by
  show encA 20 14 0 a.toNat d.toNat < 2 ^ 32
  have := d.toNat_lt; have := a.toNat_lt; unfold encA; omega⟩
theorem ldxD (d : Scalar) (a : Scalar) : Statement (.ldxD d a) := ⟨encode_length _, by
  show encA 20 15 0 a.toNat d.toNat < 2 ^ 32
  have := d.toNat_lt; have := a.toNat_lt; unfold encA; omega⟩
theorem freeze (a : Scalar) (b : Scalar) : Statement (.freeze a b) := ⟨encode_length _, by
  show encA 20 16 b.toNat a.toNat 0 < 2 ^ 32
  have := a.toNat_lt; have := b.toNat_lt; unfold encA; omega⟩
theorem fallow (a : Scalar) (b : Scalar) : Statement (.fallow a b) := ⟨encode_length _, by
  show encA 20 17 b.toNat a.toNat 0 < 2 ^ 32
  have := a.toNat_lt; have := b.toNat_lt; unfold encA; omega⟩
theorem prep (n : Fin 8) (imm : BitVec 19) : Statement (.prep n imm) := ⟨encode_length _, by
  show 1 + 2 * 24 + 128 * n.val + 8192 * imm.toNat < 2 ^ 32
  have := n.isLt; have := BitVec.isLt imm; omega⟩
theorem prepr (n : Fin 8) (a : Scalar) : Statement (.prepr n a) := ⟨encode_length _, by
  show encT 25 0 0 a.toNat 0 n.val < 2 ^ 32
  have := n.isLt; have := a.toNat_lt; unfold encT; omega⟩
theorem prepx (n : Fin 8) (t : Scalar) (i : Scalar) : Statement (.prepx n t i) := ⟨encode_length _, by
  show encT 25 1 i.toNat t.toNat 0 n.val < 2 ^ 32
  have := n.isLt; have := t.toNat_lt; have := i.toNat_lt; unfold encT; omega⟩
theorem pmove (n : Fin 8) (l : Fin 8) : Statement (.pmove n l) := ⟨encode_length _, by
  show encT 25 2 0 0 l.val n.val < 2 ^ 32
  have := n.isLt; have := l.isLt; unfold encT; omega⟩
theorem jmp (n : Fin 8) : Statement (.jmp n) := ⟨encode_length _, by
  show encT 26 0 0 0 0 n.val < 2 ^ 32
  have := n.isLt; unfold encT; omega⟩
theorem brT (n : Fin 8) (g : Scalar) (b : Fin 64) : Statement (.brT n g b) := ⟨encode_length _, by
  show encT 26 1 b.val g.toNat 0 n.val < 2 ^ 32
  have := n.isLt; have := g.toNat_lt; have := b.isLt; unfold encT; omega⟩
theorem brF (n : Fin 8) (g : Scalar) (b : Fin 64) : Statement (.brF n g b) := ⟨encode_length _, by
  show encT 26 2 b.val g.toNat 0 n.val < 2 ^ 32
  have := n.isLt; have := g.toNat_lt; have := b.isLt; unfold encT; omega⟩
theorem call (n : Fin 8) (l : Fin 8) : Statement (.call n l) := ⟨encode_length _, by
  show encT 26 3 0 0 l.val n.val < 2 ^ 32
  have := n.isLt; have := l.isLt; unfold encT; omega⟩
theorem bdec (n : Fin 8) (g : Scalar) : Statement (.bdec n g) := ⟨encode_length _, by
  show encT 26 4 0 g.toNat 0 n.val < 2 ^ 32
  have := n.isLt; have := g.toNat_lt; unfold encT; omega⟩
theorem endTask : Statement .endTask := ⟨encode_length _, by
  show encA 27 0 0 0 0 < 2 ^ 32
  unfold encA; omega⟩
theorem yield : Statement .yield := ⟨encode_length _, by
  show encA 27 1 0 0 0 < 2 ^ 32
  unfold encA; omega⟩
theorem trap (a : Scalar) : Statement (.trap a) := ⟨encode_length _, by
  show encA 27 2 0 a.toNat 0 < 2 ^ 32
  have := a.toNat_lt; unfold encA; omega⟩
theorem eret (a : Scalar) (b : Scalar) : Statement (.eret a b) := ⟨encode_length _, by
  show encA 27 3 b.toNat a.toNat 0 < 2 ^ 32
  have := a.toNat_lt; have := b.toNat_lt; unfold encA; omega⟩
theorem halt : Statement .halt := ⟨encode_length _, by
  show encA 27 4 0 0 0 < 2 ^ 32
  unfold encA; omega⟩
theorem nop : Statement .nop := ⟨encode_length _, by
  show encA 27 5 0 0 0 < 2 ^ 32
  unfold encA; omega⟩
theorem sysrd (d : Scalar) (n : Fin 64) : Statement (.sysrd d n) := ⟨encode_length _, by
  show encA 27 6 n.val 0 d.toNat < 2 ^ 32
  have := d.toNat_lt; have := n.isLt; unfold encA; omega⟩
theorem syswr (n : Fin 64) (a : Scalar) : Statement (.syswr n a) := ⟨encode_length _, by
  show encA 27 7 n.val a.toNat 0 < 2 ^ 32
  have := n.isLt; have := a.toNat_lt; unfold encA; omega⟩
theorem tlbinv (d : Scalar) (a : Scalar) (b : Scalar) : Statement (.tlbinv d a b) := ⟨encode_length _, by
  show encA 27 8 b.toNat a.toNat d.toNat < 2 ^ 32
  have := d.toNat_lt; have := a.toNat_lt; have := b.toNat_lt; unfold encA; omega⟩
theorem l1inv (d : Scalar) (a : Scalar) (b : Scalar) : Statement (.l1inv d a b) := ⟨encode_length _, by
  show encA 27 9 b.toNat a.toNat d.toNat < 2 ^ 32
  have := d.toNat_lt; have := a.toNat_lt; have := b.toNat_lt; unfold encA; omega⟩
theorem spmarkKeep (a : Scalar) (b : Scalar) : Statement (.spmarkKeep a b) := ⟨encode_length _, by
  show encA 27 10 b.toNat a.toNat 0 < 2 ^ 32
  have := a.toNat_lt; have := b.toNat_lt; unfold encA; omega⟩
theorem spmarkDiscard (a : Scalar) (b : Scalar) : Statement (.spmarkDiscard a b) := ⟨encode_length _, by
  show encA 27 10 b.toNat a.toNat 1 < 2 ^ 32
  have := a.toNat_lt; have := b.toNat_lt; unfold encA; omega⟩
theorem breakpt (a : Scalar) : Statement (.breakpt a) := ⟨encode_length _, by
  show encA 27 11 0 a.toNat 0 < 2 ^ 32
  have := a.toNat_lt; unfold encA; omega⟩
theorem spawn (a : Scalar) (b : Scalar) : Statement (.spawn a b) := ⟨encode_length _, by
  show encA 28 0 b.toNat a.toNat 0 < 2 ^ 32
  have := a.toNat_lt; have := b.toNat_lt; unfold encA; omega⟩
theorem spawnw (d : Scalar) (a : Scalar) (b : Scalar) : Statement (.spawnw d a b) := ⟨encode_length _, by
  show encA 28 1 b.toNat a.toNat d.toNat < 2 ^ 32
  have := d.toNat_lt; have := a.toNat_lt; have := b.toNat_lt; unfold encA; omega⟩
theorem send (a : Scalar) (b : Scalar) : Statement (.send a b) := ⟨encode_length _, by
  show encA 28 2 b.toNat a.toNat 0 < 2 ^ 32
  have := a.toNat_lt; have := b.toNat_lt; unfold encA; omega⟩
theorem sendHi (a : Scalar) (b : Scalar) : Statement (.sendHi a b) := ⟨encode_length _, by
  show encA 28 3 b.toNat a.toNat 0 < 2 ^ 32
  have := a.toNat_lt; have := b.toNat_lt; unfold encA; omega⟩
theorem sendNb (d : Scalar) (a : Scalar) (b : Scalar) : Statement (.sendNb d a b) := ⟨encode_length _, by
  show encA 28 4 b.toNat a.toNat d.toNat < 2 ^ 32
  have := d.toNat_lt; have := a.toNat_lt; have := b.toNat_lt; unfold encA; omega⟩
theorem sendHiNb (d : Scalar) (a : Scalar) (b : Scalar) : Statement (.sendHiNb d a b) := ⟨encode_length _, by
  show encA 28 5 b.toNat a.toNat d.toNat < 2 ^ 32
  have := d.toNat_lt; have := a.toNat_lt; have := b.toNat_lt; unfold encA; omega⟩
theorem ctryrecv (d : Scalar) (a : Scalar) (b : Scalar) : Statement (.ctryrecv d a b) := ⟨encode_length _, by
  show encA 29 0 b.toNat a.toNat d.toNat < 2 ^ 32
  have := d.toNat_lt; have := a.toNat_lt; have := b.toNat_lt; unfold encA; omega⟩
theorem ctrysend (d : Scalar) (a : Scalar) (b : Scalar) : Statement (.ctrysend d a b) := ⟨encode_length _, by
  show encA 29 1 b.toNat a.toNat d.toNat < 2 ^ 32
  have := d.toNat_lt; have := a.toNat_lt; have := b.toNat_lt; unfold encA; omega⟩
theorem ctryrecvV (d : Scalar) (a : Scalar) (b : VSpec) : Statement (.ctryrecvV d a b) := ⟨encode_length _, by
  show encA 29 2 b.toNat a.toNat d.toNat < 2 ^ 32
  have := d.toNat_lt; have := a.toNat_lt; have := b.toNat_lt; unfold encA; omega⟩
theorem ctrysendV (d : Scalar) (a : Scalar) (b : VSpec) : Statement (.ctrysendV d a b) := ⟨encode_length _, by
  show encA 29 3 b.toNat a.toNat d.toNat < 2 ^ 32
  have := d.toNat_lt; have := a.toNat_lt; have := b.toNat_lt; unfold encA; omega⟩
theorem ccount (d : Scalar) (a : Scalar) : Statement (.ccount d a) := ⟨encode_length _, by
  show encA 29 4 0 a.toNat d.toNat < 2 ^ 32
  have := d.toNat_lt; have := a.toNat_lt; unfold encA; omega⟩
theorem fenceAcq (s : Fin 4) : Statement (.fenceAcq s) := ⟨encode_length _, by
  show encA 30 (1 + 4 * s.val) 0 0 0 < 2 ^ 32
  have := s.isLt; unfold encA; omega⟩
theorem fenceRel (s : Fin 4) : Statement (.fenceRel s) := ⟨encode_length _, by
  show encA 30 (2 + 4 * s.val) 0 0 0 < 2 ^ 32
  have := s.isLt; unfold encA; omega⟩
theorem fenceFull (s : Fin 4) : Statement (.fenceFull s) := ⟨encode_length _, by
  show encA 30 (3 + 4 * s.val) 0 0 0 < 2 ^ 32
  have := s.isLt; unfold encA; omega⟩
theorem vadd (t : Fin 8) (d : VSpec) (a : VSpec) (b : VSpec) : Statement (.vadd t d a b) := ⟨encode_length _, by
  show encV 32 0 t.val b.toNat a.toNat d.toNat < 2 ^ 32
  have := t.isLt; have := d.toNat_lt; have := a.toNat_lt; have := b.toNat_lt; unfold encV; omega⟩
theorem vsub (t : Fin 8) (d : VSpec) (a : VSpec) (b : VSpec) : Statement (.vsub t d a b) := ⟨encode_length _, by
  show encV 32 1 t.val b.toNat a.toNat d.toNat < 2 ^ 32
  have := t.isLt; have := d.toNat_lt; have := a.toNat_lt; have := b.toNat_lt; unfold encV; omega⟩
theorem vmul (t : Fin 8) (d : VSpec) (a : VSpec) (b : VSpec) : Statement (.vmul t d a b) := ⟨encode_length _, by
  show encV 32 2 t.val b.toNat a.toNat d.toNat < 2 ^ 32
  have := t.isLt; have := d.toNat_lt; have := a.toNat_lt; have := b.toNat_lt; unfold encV; omega⟩
theorem vfma (t : Fin 8) (d : VSpec) (a : VSpec) (b : VSpec) : Statement (.vfma t d a b) := ⟨encode_length _, by
  show encV 32 3 t.val b.toNat a.toNat d.toNat < 2 ^ 32
  have := t.isLt; have := d.toNat_lt; have := a.toNat_lt; have := b.toNat_lt; unfold encV; omega⟩
theorem vfms (t : Fin 8) (d : VSpec) (a : VSpec) (b : VSpec) : Statement (.vfms t d a b) := ⟨encode_length _, by
  show encV 32 4 t.val b.toNat a.toNat d.toNat < 2 ^ 32
  have := t.isLt; have := d.toNat_lt; have := a.toNat_lt; have := b.toNat_lt; unfold encV; omega⟩
theorem vmin (t : Fin 8) (d : VSpec) (a : VSpec) (b : VSpec) : Statement (.vmin t d a b) := ⟨encode_length _, by
  show encV 32 5 t.val b.toNat a.toNat d.toNat < 2 ^ 32
  have := t.isLt; have := d.toNat_lt; have := a.toNat_lt; have := b.toNat_lt; unfold encV; omega⟩
theorem vmax (t : Fin 8) (d : VSpec) (a : VSpec) (b : VSpec) : Statement (.vmax t d a b) := ⟨encode_length _, by
  show encV 32 6 t.val b.toNat a.toNat d.toNat < 2 ^ 32
  have := t.isLt; have := d.toNat_lt; have := a.toNat_lt; have := b.toNat_lt; unfold encV; omega⟩
theorem vabs (t : Fin 8) (d : VSpec) (a : VSpec) : Statement (.vabs t d a) := ⟨encode_length _, by
  show encV 32 7 t.val 0 a.toNat d.toNat < 2 ^ 32
  have := t.isLt; have := d.toNat_lt; have := a.toNat_lt; unfold encV; omega⟩
theorem vneg (t : Fin 8) (d : VSpec) (a : VSpec) : Statement (.vneg t d a) := ⟨encode_length _, by
  show encV 32 8 t.val 0 a.toNat d.toNat < 2 ^ 32
  have := t.isLt; have := d.toNat_lt; have := a.toNat_lt; unfold encV; omega⟩
theorem vsqrt (t : Fin 8) (d : VSpec) (a : VSpec) : Statement (.vsqrt t d a) := ⟨encode_length _, by
  show encV 32 9 t.val 0 a.toNat d.toNat < 2 ^ 32
  have := t.isLt; have := d.toNat_lt; have := a.toNat_lt; unfold encV; omega⟩
theorem vrcp (t : Fin 8) (d : VSpec) (a : VSpec) : Statement (.vrcp t d a) := ⟨encode_length _, by
  show encV 32 10 t.val 0 a.toNat d.toNat < 2 ^ 32
  have := t.isLt; have := d.toNat_lt; have := a.toNat_lt; unfold encV; omega⟩
theorem vrsq (t : Fin 8) (d : VSpec) (a : VSpec) : Statement (.vrsq t d a) := ⟨encode_length _, by
  show encV 32 11 t.val 0 a.toNat d.toNat < 2 ^ 32
  have := t.isLt; have := d.toNat_lt; have := a.toNat_lt; unfold encV; omega⟩
theorem vexp2 (t : Fin 8) (d : VSpec) (a : VSpec) : Statement (.vexp2 t d a) := ⟨encode_length _, by
  show encV 32 12 t.val 0 a.toNat d.toNat < 2 ^ 32
  have := t.isLt; have := d.toNat_lt; have := a.toNat_lt; unfold encV; omega⟩
theorem vlog2 (t : Fin 8) (d : VSpec) (a : VSpec) : Statement (.vlog2 t d a) := ⟨encode_length _, by
  show encV 32 13 t.val 0 a.toNat d.toNat < 2 ^ 32
  have := t.isLt; have := d.toNat_lt; have := a.toNat_lt; unfold encV; omega⟩
theorem vscaleb (t : Fin 8) (d : VSpec) (a : VSpec) (b : VSpec) : Statement (.vscaleb t d a b) := ⟨encode_length _, by
  show encV 32 14 t.val b.toNat a.toNat d.toNat < 2 ^ 32
  have := t.isLt; have := d.toNat_lt; have := a.toNat_lt; have := b.toNat_lt; unfold encV; omega⟩
theorem vcmpeq (t : Fin 8) (d : VSpec) (a : VSpec) (b : VSpec) : Statement (.vcmpeq t d a b) := ⟨encode_length _, by
  show encV 32 15 t.val b.toNat a.toNat d.toNat < 2 ^ 32
  have := t.isLt; have := d.toNat_lt; have := a.toNat_lt; have := b.toNat_lt; unfold encV; omega⟩
theorem vcmplt (t : Fin 8) (d : VSpec) (a : VSpec) (b : VSpec) : Statement (.vcmplt t d a b) := ⟨encode_length _, by
  show encV 32 16 t.val b.toNat a.toNat d.toNat < 2 ^ 32
  have := t.isLt; have := d.toNat_lt; have := a.toNat_lt; have := b.toNat_lt; unfold encV; omega⟩
theorem vcmple (t : Fin 8) (d : VSpec) (a : VSpec) (b : VSpec) : Statement (.vcmple t d a b) := ⟨encode_length _, by
  show encV 32 17 t.val b.toNat a.toNat d.toNat < 2 ^ 32
  have := t.isLt; have := d.toNat_lt; have := a.toNat_lt; have := b.toNat_lt; unfold encV; omega⟩
theorem viadd (t : Fin 8) (d : VSpec) (a : VSpec) (b : VSpec) : Statement (.viadd t d a b) := ⟨encode_length _, by
  show encV 33 0 t.val b.toNat a.toNat d.toNat < 2 ^ 32
  have := t.isLt; have := d.toNat_lt; have := a.toNat_lt; have := b.toNat_lt; unfold encV; omega⟩
theorem visub (t : Fin 8) (d : VSpec) (a : VSpec) (b : VSpec) : Statement (.visub t d a b) := ⟨encode_length _, by
  show encV 33 1 t.val b.toNat a.toNat d.toNat < 2 ^ 32
  have := t.isLt; have := d.toNat_lt; have := a.toNat_lt; have := b.toNat_lt; unfold encV; omega⟩
theorem vimul (t : Fin 8) (d : VSpec) (a : VSpec) (b : VSpec) : Statement (.vimul t d a b) := ⟨encode_length _, by
  show encV 33 2 t.val b.toNat a.toNat d.toNat < 2 ^ 32
  have := t.isLt; have := d.toNat_lt; have := a.toNat_lt; have := b.toNat_lt; unfold encV; omega⟩
theorem vimin (t : Fin 8) (d : VSpec) (a : VSpec) (b : VSpec) : Statement (.vimin t d a b) := ⟨encode_length _, by
  show encV 33 3 t.val b.toNat a.toNat d.toNat < 2 ^ 32
  have := t.isLt; have := d.toNat_lt; have := a.toNat_lt; have := b.toNat_lt; unfold encV; omega⟩
theorem vimax (t : Fin 8) (d : VSpec) (a : VSpec) (b : VSpec) : Statement (.vimax t d a b) := ⟨encode_length _, by
  show encV 33 4 t.val b.toNat a.toNat d.toNat < 2 ^ 32
  have := t.isLt; have := d.toNat_lt; have := a.toNat_lt; have := b.toNat_lt; unfold encV; omega⟩
theorem viminn (t : Fin 8) (d : VSpec) (a : VSpec) (b : VSpec) : Statement (.viminn t d a b) := ⟨encode_length _, by
  show encV 33 5 t.val b.toNat a.toNat d.toNat < 2 ^ 32
  have := t.isLt; have := d.toNat_lt; have := a.toNat_lt; have := b.toNat_lt; unfold encV; omega⟩
theorem vimaxn (t : Fin 8) (d : VSpec) (a : VSpec) (b : VSpec) : Statement (.vimaxn t d a b) := ⟨encode_length _, by
  show encV 33 6 t.val b.toNat a.toNat d.toNat < 2 ^ 32
  have := t.isLt; have := d.toNat_lt; have := a.toNat_lt; have := b.toNat_lt; unfold encV; omega⟩
theorem viand (t : Fin 8) (d : VSpec) (a : VSpec) (b : VSpec) : Statement (.viand t d a b) := ⟨encode_length _, by
  show encV 33 7 t.val b.toNat a.toNat d.toNat < 2 ^ 32
  have := t.isLt; have := d.toNat_lt; have := a.toNat_lt; have := b.toNat_lt; unfold encV; omega⟩
theorem vior (t : Fin 8) (d : VSpec) (a : VSpec) (b : VSpec) : Statement (.vior t d a b) := ⟨encode_length _, by
  show encV 33 8 t.val b.toNat a.toNat d.toNat < 2 ^ 32
  have := t.isLt; have := d.toNat_lt; have := a.toNat_lt; have := b.toNat_lt; unfold encV; omega⟩
theorem vixor (t : Fin 8) (d : VSpec) (a : VSpec) (b : VSpec) : Statement (.vixor t d a b) := ⟨encode_length _, by
  show encV 33 9 t.val b.toNat a.toNat d.toNat < 2 ^ 32
  have := t.isLt; have := d.toNat_lt; have := a.toNat_lt; have := b.toNat_lt; unfold encV; omega⟩
theorem vishl (t : Fin 8) (d : VSpec) (a : VSpec) (b : VSpec) : Statement (.vishl t d a b) := ⟨encode_length _, by
  show encV 33 10 t.val b.toNat a.toNat d.toNat < 2 ^ 32
  have := t.isLt; have := d.toNat_lt; have := a.toNat_lt; have := b.toNat_lt; unfold encV; omega⟩
theorem vishr (t : Fin 8) (d : VSpec) (a : VSpec) (b : VSpec) : Statement (.vishr t d a b) := ⟨encode_length _, by
  show encV 33 11 t.val b.toNat a.toNat d.toNat < 2 ^ 32
  have := t.isLt; have := d.toNat_lt; have := a.toNat_lt; have := b.toNat_lt; unfold encV; omega⟩
theorem visra (t : Fin 8) (d : VSpec) (a : VSpec) (b : VSpec) : Statement (.visra t d a b) := ⟨encode_length _, by
  show encV 33 12 t.val b.toNat a.toNat d.toNat < 2 ^ 32
  have := t.isLt; have := d.toNat_lt; have := a.toNat_lt; have := b.toNat_lt; unfold encV; omega⟩
theorem viabs (t : Fin 8) (d : VSpec) (a : VSpec) : Statement (.viabs t d a) := ⟨encode_length _, by
  show encV 33 13 t.val 0 a.toNat d.toNat < 2 ^ 32
  have := t.isLt; have := d.toNat_lt; have := a.toNat_lt; unfold encV; omega⟩
theorem vicmpeq (t : Fin 8) (d : VSpec) (a : VSpec) (b : VSpec) : Statement (.vicmpeq t d a b) := ⟨encode_length _, by
  show encV 33 14 t.val b.toNat a.toNat d.toNat < 2 ^ 32
  have := t.isLt; have := d.toNat_lt; have := a.toNat_lt; have := b.toNat_lt; unfold encV; omega⟩
theorem vicmplt (t : Fin 8) (d : VSpec) (a : VSpec) (b : VSpec) : Statement (.vicmplt t d a b) := ⟨encode_length _, by
  show encV 33 15 t.val b.toNat a.toNat d.toNat < 2 ^ 32
  have := t.isLt; have := d.toNat_lt; have := a.toNat_lt; have := b.toNat_lt; unfold encV; omega⟩
theorem vicmpltn (t : Fin 8) (d : VSpec) (a : VSpec) (b : VSpec) : Statement (.vicmpltn t d a b) := ⟨encode_length _, by
  show encV 33 16 t.val b.toNat a.toNat d.toNat < 2 ^ 32
  have := t.isLt; have := d.toNat_lt; have := a.toNat_lt; have := b.toNat_lt; unfold encV; omega⟩
theorem viaddsat (t : Fin 8) (d : VSpec) (a : VSpec) (b : VSpec) : Statement (.viaddsat t d a b) := ⟨encode_length _, by
  show encV 33 17 t.val b.toNat a.toNat d.toNat < 2 ^ 32
  have := t.isLt; have := d.toNat_lt; have := a.toNat_lt; have := b.toNat_lt; unfold encV; omega⟩
theorem vmov (d : VSpec) (a : VSpec) : Statement (.vmov d a) := ⟨encode_length _, by
  show encV 34 0 0 0 a.toNat d.toNat < 2 ^ 32
  have := d.toNat_lt; have := a.toNat_lt; unfold encV; omega⟩
theorem vsel (d : VSpec) (a : VSpec) (b : VSpec) : Statement (.vsel d a b) := ⟨encode_length _, by
  show encV 34 1 0 b.toNat a.toNat d.toNat < 2 ^ 32
  have := d.toNat_lt; have := a.toNat_lt; have := b.toNat_lt; unfold encV; omega⟩
theorem vbcast (d : VSpec) (s : Scalar) : Statement (.vbcast d s) := ⟨encode_length _, by
  show encA 34 2 0 s.toNat d.toNat < 2 ^ 32
  have := d.toNat_lt; have := s.toNat_lt; unfold encA; omega⟩
theorem vextr (d : Scalar) (i : Scalar) (a : VSpec) : Statement (.vextr d i a) := ⟨encode_length _, by
  show encA 34 3 a.toNat i.toNat d.toNat < 2 ^ 32
  have := d.toNat_lt; have := i.toNat_lt; have := a.toNat_lt; unfold encA; omega⟩
theorem vins (d : VSpec) (s : Scalar) (i : Scalar) : Statement (.vins d s i) := ⟨encode_length _, by
  show encA 34 4 i.toNat s.toNat d.toNat < 2 ^ 32
  have := d.toNat_lt; have := s.toNat_lt; have := i.toNat_lt; unfold encA; omega⟩
theorem viota (t : Fin 8) (d : VSpec) : Statement (.viota t d) := ⟨encode_length _, by
  show encV 34 5 t.val 0 0 d.toNat < 2 ^ 32
  have := t.isLt; have := d.toNat_lt; unfold encV; omega⟩
theorem vperm (d : VSpec) (a : VSpec) (b : VSpec) : Statement (.vperm d a b) := ⟨encode_length _, by
  show encV 34 6 0 b.toNat a.toNat d.toNat < 2 ^ 32
  have := d.toNat_lt; have := a.toNat_lt; have := b.toNat_lt; unfold encV; omega⟩
theorem vkey (t : Fin 8) (d : VSpec) (a : VSpec) : Statement (.vkey t d a) := ⟨encode_length _, by
  show encV 34 7 t.val 0 a.toNat d.toNat < 2 ^ 32
  have := t.isLt; have := d.toNat_lt; have := a.toNat_lt; unfold encV; omega⟩
theorem vcvtF2x (f : Fin 32) (d : VSpec) (a : VSpec) : Statement (.vcvtF2x f d a) := ⟨encode_length _, by
  show encV 35 0 0 f.val a.toNat d.toNat < 2 ^ 32
  have := f.isLt; have := d.toNat_lt; have := a.toNat_lt; unfold encV; omega⟩
theorem vcvtX2f (f : Fin 32) (d : VSpec) (a : VSpec) : Statement (.vcvtX2f f d a) := ⟨encode_length _, by
  show encV 35 0 1 f.val a.toNat d.toNat < 2 ^ 32
  have := f.isLt; have := d.toNat_lt; have := a.toNat_lt; unfold encV; omega⟩
theorem vcvtI2x (f : Fin 32) (d : VSpec) (a : VSpec) : Statement (.vcvtI2x f d a) := ⟨encode_length _, by
  show encV 35 0 2 f.val a.toNat d.toNat < 2 ^ 32
  have := f.isLt; have := d.toNat_lt; have := a.toNat_lt; unfold encV; omega⟩
theorem vcvtX2i (f : Fin 32) (d : VSpec) (a : VSpec) : Statement (.vcvtX2i f d a) := ⟨encode_length _, by
  show encV 35 0 3 f.val a.toNat d.toNat < 2 ^ 32
  have := f.isLt; have := d.toNat_lt; have := a.toNat_lt; unfold encV; omega⟩
theorem vpack (t : Fin 8) (d : VSpec) (a : VSpec) (b : VSpec) : Statement (.vpack t d a b) := ⟨encode_length _, by
  show encV 35 1 t.val b.toNat a.toNat d.toNat < 2 ^ 32
  have := t.isLt; have := d.toNat_lt; have := a.toNat_lt; have := b.toNat_lt; unfold encV; omega⟩
theorem vunpack (t : Fin 8) (d : VSpec) (a : VSpec) (h : Bool) (s : Bool) : Statement (.vunpack t d a h s) := ⟨encode_length _, by
  show encV 35 2 t.val (h.toNat + 2 * s.toNat) a.toNat d.toNat < 2 ^ 32
  have := t.isLt; have := d.toNat_lt; have := a.toNat_lt; have := h.toNat_lt; have := s.toNat_lt; unfold encV; omega⟩
theorem vrsum (t : Fin 8) (d : VSpec) (a : VSpec) : Statement (.vrsum t d a) := ⟨encode_length _, by
  show encV 36 0 t.val 0 a.toNat d.toNat < 2 ^ 32
  have := t.isLt; have := d.toNat_lt; have := a.toNat_lt; unfold encV; omega⟩
theorem vrmax (t : Fin 8) (d : VSpec) (a : VSpec) : Statement (.vrmax t d a) := ⟨encode_length _, by
  show encV 36 1 t.val 0 a.toNat d.toNat < 2 ^ 32
  have := t.isLt; have := d.toNat_lt; have := a.toNat_lt; unfold encV; omega⟩
theorem vrmin (t : Fin 8) (d : VSpec) (a : VSpec) : Statement (.vrmin t d a) := ⟨encode_length _, by
  show encV 36 2 t.val 0 a.toNat d.toNat < 2 ^ 32
  have := t.isLt; have := d.toNat_lt; have := a.toNat_lt; unfold encV; omega⟩
theorem vramax (t : Fin 8) (d : VSpec) (a : VSpec) : Statement (.vramax t d a) := ⟨encode_length _, by
  show encV 36 3 t.val 0 a.toNat d.toNat < 2 ^ 32
  have := t.isLt; have := d.toNat_lt; have := a.toNat_lt; unfold encV; omega⟩
theorem vscan (t : Fin 8) (d : VSpec) (a : VSpec) (o : Fin 32) : Statement (.vscan t d a o) := ⟨encode_length _, by
  show encV 36 4 t.val o.val a.toNat d.toNat < 2 ^ 32
  have := t.isLt; have := d.toNat_lt; have := a.toNat_lt; have := o.isLt; unfold encV; omega⟩
theorem vld (v : VSpec) (b : Scalar) (o : Scalar) : Statement (.vld v b o) := ⟨encode_length _, by
  show encA 37 0 o.toNat b.toNat v.toNat < 2 ^ 32
  have := v.toNat_lt; have := b.toNat_lt; have := o.toNat_lt; unfold encA; omega⟩
theorem vst (v : VSpec) (b : Scalar) (o : Scalar) : Statement (.vst v b o) := ⟨encode_length _, by
  show encA 37 1 o.toNat b.toNat v.toNat < 2 ^ 32
  have := v.toNat_lt; have := b.toNat_lt; have := o.toNat_lt; unfold encA; omega⟩
theorem vlds (v : VSpec) (b : Scalar) (o : Scalar) : Statement (.vlds v b o) := ⟨encode_length _, by
  show encA 37 2 o.toNat b.toNat v.toNat < 2 ^ 32
  have := v.toNat_lt; have := b.toNat_lt; have := o.toNat_lt; unfold encA; omega⟩
theorem vsts (v : VSpec) (b : Scalar) (o : Scalar) : Statement (.vsts v b o) := ⟨encode_length _, by
  show encA 37 3 o.toNat b.toNat v.toNat < 2 ^ 32
  have := v.toNat_lt; have := b.toNat_lt; have := o.toNat_lt; unfold encA; omega⟩
theorem vgather (v : VSpec) (b : Scalar) (o : VSpec) : Statement (.vgather v b o) := ⟨encode_length _, by
  show encA 37 4 o.toNat b.toNat v.toNat < 2 ^ 32
  have := v.toNat_lt; have := b.toNat_lt; have := o.toNat_lt; unfold encA; omega⟩
theorem vscatter (v : VSpec) (b : Scalar) (o : VSpec) : Statement (.vscatter v b o) := ⟨encode_length _, by
  show encA 37 5 o.toNat b.toNat v.toNat < 2 ^ 32
  have := v.toNat_lt; have := b.toNat_lt; have := o.toNat_lt; unfold encA; omega⟩
theorem vldb (v : VSpec) (b : Scalar) (o : Scalar) : Statement (.vldb v b o) := ⟨encode_length _, by
  show encA 37 6 o.toNat b.toNat v.toNat < 2 ^ 32
  have := v.toNat_lt; have := b.toNat_lt; have := o.toNat_lt; unfold encA; omega⟩
theorem vjoin (v : VSpec) (b : Scalar) (o : VSpec) : Statement (.vjoin v b o) := ⟨encode_length _, by
  show encA 38 0 o.toNat b.toNat v.toNat < 2 ^ 32
  have := v.toNat_lt; have := b.toNat_lt; have := o.toNat_lt; unfold encA; omega⟩
theorem vxjoin (v : VSpec) (b : Scalar) (o : VSpec) : Statement (.vxjoin v b o) := ⟨encode_length _, by
  show encA 38 1 o.toNat b.toNat v.toNat < 2 ^ 32
  have := v.toNat_lt; have := b.toNat_lt; have := o.toNat_lt; unfold encA; omega⟩
theorem vlda (v : VSpec) (t : Fin 16) (k : Scalar) : Statement (.vlda v t k) := ⟨encode_length _, by
  show encA 39 0 t.val k.toNat v.toNat < 2 ^ 32
  have := v.toNat_lt; have := t.isLt; have := k.toNat_lt; unfold encA; omega⟩
theorem vsta (v : VSpec) (t : Fin 16) (k : Scalar) : Statement (.vsta v t k) := ⟨encode_length _, by
  show encA 39 1 t.val k.toNat v.toNat < 2 ^ 32
  have := v.toNat_lt; have := t.isLt; have := k.toNat_lt; unfold encA; omega⟩
theorem vadda (v : VSpec) (t : Fin 16) (k : Scalar) : Statement (.vadda v t k) := ⟨encode_length _, by
  show encA 39 2 t.val k.toNat v.toNat < 2 ^ 32
  have := v.toNat_lt; have := t.isLt; have := k.toNat_lt; unfold encA; omega⟩
theorem ccopy (a : Scalar) (b : Scalar) : Statement (.ccopy a b) := ⟨encode_length _, by
  show encA 48 0 b.toNat a.toNat 0 < 2 ^ 32
  have := a.toNat_lt; have := b.toNat_lt; unfold encA; omega⟩
theorem ccfg (a : Scalar) (b : Scalar) : Statement (.ccfg a b) := ⟨encode_length _, by
  show encA 48 1 b.toNat a.toNat 0 < 2 ^ 32
  have := a.toNat_lt; have := b.toNat_lt; unfold encA; omega⟩
theorem cgather (d : Scalar) (a : Scalar) (b : Scalar) : Statement (.cgather d a b) := ⟨encode_length _, by
  show encA 48 2 b.toNat a.toNat d.toNat < 2 ^ 32
  have := d.toNat_lt; have := a.toNat_lt; have := b.toNat_lt; unfold encA; omega⟩
theorem cjoin (a : Scalar) (b : Scalar) : Statement (.cjoin a b) := ⟨encode_length _, by
  show encA 48 3 b.toNat a.toNat 0 < 2 ^ 32
  have := a.toNat_lt; have := b.toNat_lt; unfold encA; omega⟩
theorem cbar (a : Scalar) (b : Scalar) : Statement (.cbar a b) := ⟨encode_length _, by
  show encA 48 4 b.toNat a.toNat 0 < 2 ^ 32
  have := a.toNat_lt; have := b.toNat_lt; unfold encA; omega⟩
theorem waitb (d : Scalar) (a : Scalar) (b : Scalar) : Statement (.waitb d a b) := ⟨encode_length _, by
  show encA 48 5 b.toNat a.toNat d.toNat < 2 ^ 32
  have := d.toNat_lt; have := a.toNat_lt; have := b.toNat_lt; unfold encA; omega⟩
theorem mcfg (a : Scalar) (b : Scalar) : Statement (.mcfg a b) := ⟨encode_length _, by
  show encA 49 0 b.toNat a.toNat 0 < 2 ^ 32
  have := a.toNat_lt; have := b.toNat_lt; unfold encA; omega⟩
theorem mzero (a : Scalar) : Statement (.mzero a) := ⟨encode_length _, by
  show encA 49 1 0 a.toNat 0 < 2 ^ 32
  have := a.toNat_lt; unfold encA; omega⟩
theorem mma (a : Scalar) (b : Scalar) : Statement (.mma a b) := ⟨encode_length _, by
  show encA 49 2 b.toNat a.toNat 0 < 2 ^ 32
  have := a.toNat_lt; have := b.toNat_lt; unfold encA; omega⟩
theorem mscaleacc (a : Scalar) (b : Scalar) : Statement (.mscaleacc a b) := ⟨encode_length _, by
  show encA 49 3 b.toNat a.toNat 0 < 2 ^ 32
  have := a.toNat_lt; have := b.toNat_lt; unfold encA; omega⟩
theorem mload (a : Scalar) (b : Scalar) : Statement (.mload a b) := ⟨encode_length _, by
  show encA 49 4 b.toNat a.toNat 0 < 2 ^ 32
  have := a.toNat_lt; have := b.toNat_lt; unfold encA; omega⟩
theorem mstore (a : Scalar) (b : Scalar) : Statement (.mstore a b) := ⟨encode_length _, by
  show encA 49 5 b.toNat a.toNat 0 < 2 ^ 32
  have := a.toNat_lt; have := b.toNat_lt; unfold encA; omega⟩
theorem mwait (d : Scalar) (a : Scalar) : Statement (.mwait d a) := ⟨encode_length _, by
  show encA 49 6 0 a.toNat d.toNat < 2 ^ 32
  have := d.toNat_lt; have := a.toNat_lt; unfold encA; omega⟩
theorem mdiscard (a : Scalar) : Statement (.mdiscard a) := ⟨encode_length _, by
  show encA 49 7 0 a.toNat 0 < 2 ^ 32
  have := a.toNat_lt; unfold encA; omega⟩
theorem lcfg (a : Scalar) (b : Scalar) : Statement (.lcfg a b) := ⟨encode_length _, by
  show encA 50 0 b.toNat a.toNat 0 < 2 ^ 32
  have := a.toNat_lt; have := b.toNat_lt; unfold encA; omega⟩
theorem lspark (a : Scalar) (b : Scalar) : Statement (.lspark a b) := ⟨encode_length _, by
  show encA 50 1 b.toNat a.toNat 0 < 2 ^ 32
  have := a.toNat_lt; have := b.toNat_lt; unfold encA; omega⟩
theorem lrun (a : Scalar) (b : Scalar) : Statement (.lrun a b) := ⟨encode_length _, by
  show encA 50 2 b.toNat a.toNat 0 < 2 ^ 32
  have := a.toNat_lt; have := b.toNat_lt; unfold encA; omega⟩
theorem lstop (a : Scalar) : Statement (.lstop a) := ⟨encode_length _, by
  show encA 50 3 0 a.toNat 0 < 2 ^ 32
  have := a.toNat_lt; unfold encA; omega⟩
theorem lwait (d : Scalar) (a : Scalar) : Statement (.lwait d a) := ⟨encode_length _, by
  show encA 50 4 0 a.toNat d.toNat < 2 ^ 32
  have := d.toNat_lt; have := a.toNat_lt; unfold encA; omega⟩
theorem legacyCopy (a0 : Key) : Statement (.legacyCopy a0) := ⟨encode_length _, Nat.zero_lt_one⟩
theorem legacyFill (a0 : Key) : Statement (.legacyFill a0) := ⟨encode_length _, Nat.zero_lt_one⟩
theorem legacyLaunch (a0 : Key) : Statement (.legacyLaunch a0) := ⟨encode_length _, Nat.zero_lt_one⟩
theorem homeJoin (a0 : Nat) : Statement (.homeJoin a0) := ⟨encode_length _, Nat.zero_lt_one⟩
theorem homeFill (a0 : Nat) : Statement (.homeFill a0) := ⟨encode_length _, Nat.zero_lt_one⟩
theorem homeFreeze (a0 : Nat) : Statement (.homeFreeze a0) := ⟨encode_length _, Nat.zero_lt_one⟩
theorem thresholdTest (a0 : Nat) : Statement (.thresholdTest a0) := ⟨encode_length _, Nat.zero_lt_one⟩
theorem homeStore (a0 : Nat) : Statement (.homeStore a0) := ⟨encode_length _, Nat.zero_lt_one⟩
theorem homeLoad (a0 : Nat) : Statement (.homeLoad a0) := ⟨encode_length _, Nat.zero_lt_one⟩
theorem homeExactRead (a0 : Nat) : Statement (.homeExactRead a0) := ⟨encode_length _, Nat.zero_lt_one⟩
theorem ackArrival (a0 : Nat) : Statement (.ackArrival a0) := ⟨encode_length _, Nat.zero_lt_one⟩
theorem wakeResult (a0 : Nat) : Statement (.wakeResult a0) := ⟨encode_length _, Nat.zero_lt_one⟩
theorem replicaTest (a0 : Nat) : Statement (.replicaTest a0) := ⟨encode_length _, Nat.zero_lt_one⟩
theorem gatewayResponsePass (a0 : Nat) : Statement (.gatewayResponsePass a0) := ⟨encode_length _, Nat.zero_lt_one⟩
theorem gatewayInvalidation (a0 : Nat) : Statement (.gatewayInvalidation a0) := ⟨encode_length _, Nat.zero_lt_one⟩
theorem routerForward (a0 : Nat) (a1 : Bool) : Statement (.routerForward a0 a1) := ⟨encode_length _, Nat.zero_lt_one⟩
theorem combinedJoinDepart (a0 : Nat) : Statement (.combinedJoinDepart a0) := ⟨encode_length _, Nat.zero_lt_one⟩
theorem heldJoinTimeout (a0 : Nat) (a1 : Nat) : Statement (.heldJoinTimeout a0 a1) := ⟨encode_length _, Nat.zero_lt_one⟩
theorem flitReceive (a0 : Nat) (a1 : Bool) : Statement (.flitReceive a0 a1) := ⟨encode_length _, Nat.zero_lt_one⟩
theorem linkDown (a0 : Fin 12) : Statement (.linkDown a0) := ⟨encode_length _, Nat.zero_lt_one⟩
theorem copyCommandStart (a0 : Key) (a1 : Nat) : Statement (.copyCommandStart a0 a1) := ⟨encode_length _, Nat.zero_lt_one⟩
theorem copyUnitPerformed (a0 : Key) (a1 : Nat) (a2 : Nat) : Statement (.copyUnitPerformed a0 a1 a2) := ⟨encode_length _, Nat.zero_lt_one⟩
theorem matrixCommandStart (a0 : Key) (a1 : Nat) : Statement (.matrixCommandStart a0 a1) := ⟨encode_length _, Nat.zero_lt_one⟩
theorem matrixCommandComplete (a0 : Key) (a1 : Nat) : Statement (.matrixCommandComplete a0 a1) := ⟨encode_length _, Nat.zero_lt_one⟩
theorem lampStep (a0 : Key) (a1 : Nat) : Statement (.lampStep a0 a1) := ⟨encode_length _, Nat.zero_lt_one⟩
theorem sparkArrival (a0 : Nat) : Statement (.sparkArrival a0) := ⟨encode_length _, Nat.zero_lt_one⟩
theorem tlbinvComplete (a0 : Nat) : Statement (.tlbinvComplete a0) := ⟨encode_length _, Nat.zero_lt_one⟩
theorem coreDispatch (a0 : Nat) : Statement (.coreDispatch a0) := ⟨encode_length _, Nat.zero_lt_one⟩
theorem highPriorityStart (a0 : Nat) : Statement (.highPriorityStart a0) := ⟨encode_length _, Nat.zero_lt_one⟩
theorem handlerOverrun (a0 : Nat) : Statement (.handlerOverrun a0) := ⟨encode_length _, Nat.zero_lt_one⟩
theorem timeSliceExpiry (a0 : Nat) : Statement (.timeSliceExpiry a0) := ⟨encode_length _, Nat.zero_lt_one⟩
theorem gleanPass (a0 : Nat) : Statement (.gleanPass a0) := ⟨encode_length _, Nat.zero_lt_one⟩
theorem gleanProbe (a0 : Nat) : Statement (.gleanProbe a0) := ⟨encode_length _, Nat.zero_lt_one⟩
theorem gleanedRecordArrival (a0 : Nat) : Statement (.gleanedRecordArrival a0) := ⟨encode_length _, Nat.zero_lt_one⟩
theorem dequeRecordArrival (a0 : Nat) : Statement (.dequeRecordArrival a0) := ⟨encode_length _, Nat.zero_lt_one⟩
theorem inboxRecordArrival (a0 : Nat) : Statement (.inboxRecordArrival a0) := ⟨encode_length _, Nat.zero_lt_one⟩
theorem crewStart (a0 : Nat) : Statement (.crewStart a0) := ⟨encode_length _, Nat.zero_lt_one⟩
theorem crewDeadlock (a0 : Nat) : Statement (.crewDeadlock a0) := ⟨encode_length _, Nat.zero_lt_one⟩
theorem preemption (a0 : Key) : Statement (.preemption a0) := ⟨encode_length _, Nat.zero_lt_one⟩
theorem mmaPreemptBound (a0 : Key) (a1 : Nat) : Statement (.mmaPreemptBound a0 a1) := ⟨encode_length _, Nat.zero_lt_one⟩
theorem faultStop (a0 : Key) : Statement (.faultStop a0) := ⟨encode_length _, Nat.zero_lt_one⟩
theorem faultRecordWrite (a0 : BitVec 12) : Statement (.faultRecordWrite a0) := ⟨encode_length _, Nat.zero_lt_one⟩
theorem faultQueueFullSignal (a0 : BitVec 12) : Statement (.faultQueueFullSignal a0) := ⟨encode_length _, Nat.zero_lt_one⟩
theorem resumeRecord (a0 : Key) : Statement (.resumeRecord a0) := ⟨encode_length _, Nat.zero_lt_one⟩
theorem vectorRetention (a0 : Key) : Statement (.vectorRetention a0) := ⟨encode_length _, Nat.zero_lt_one⟩
theorem nodeTaskset (a0 : Nat) (a1 : Nat) : Statement (.nodeTaskset a0 a1) := ⟨encode_length _, Nat.zero_lt_one⟩
theorem nodeCrew (a0 : Nat) (a1 : Nat) : Statement (.nodeCrew a0 a1) := ⟨encode_length _, Nat.zero_lt_one⟩
theorem nodeCopy (a0 : Nat) (a1 : Nat) : Statement (.nodeCopy a0 a1) := ⟨encode_length _, Nat.zero_lt_one⟩
theorem nodeCond (a0 : Nat) (a1 : Nat) : Statement (.nodeCond a0 a1) := ⟨encode_length _, Nat.zero_lt_one⟩
theorem nodeWhile (a0 : Nat) (a1 : Nat) : Statement (.nodeWhile a0 a1) := ⟨encode_length _, Nat.zero_lt_one⟩
theorem nodeFreeze (a0 : Nat) (a1 : Nat) : Statement (.nodeFreeze a0 a1) := ⟨encode_length _, Nat.zero_lt_one⟩
theorem nodeFallow (a0 : Nat) (a1 : Nat) : Statement (.nodeFallow a0 a1) := ⟨encode_length _, Nat.zero_lt_one⟩
theorem nodeWaitcell (a0 : Nat) (a1 : Nat) : Statement (.nodeWaitcell a0 a1) := ⟨encode_length _, Nat.zero_lt_one⟩
theorem nodeNotify (a0 : Nat) (a1 : Nat) : Statement (.nodeNotify a0 a1) := ⟨encode_length _, Nat.zero_lt_one⟩
theorem nodeEnd (a0 : Nat) (a1 : Nat) : Statement (.nodeEnd a0 a1) := ⟨encode_length _, Nat.zero_lt_one⟩
theorem nodeComplete (a0 : Nat) (a1 : Nat) : Statement (.nodeComplete a0 a1) := ⟨encode_length _, Nat.zero_lt_one⟩
theorem graphComplete (a0 : Nat) : Statement (.graphComplete a0) := ⟨encode_length _, Nat.zero_lt_one⟩
theorem graphStallFail (a0 : Nat) : Statement (.graphStallFail a0) := ⟨encode_length _, Nat.zero_lt_one⟩
theorem doorbell (a0 : Fin 64) (a1 : BitVec 32) : Statement (.doorbell a0 a1) := ⟨encode_length _, Nat.zero_lt_one⟩
theorem launchRecord (a0 : Fin 64) : Statement (.launchRecord a0) := ⟨encode_length _, Nat.zero_lt_one⟩
theorem launchGraph (a0 : Fin 64) : Statement (.launchGraph a0) := ⟨encode_length _, Nat.zero_lt_one⟩
theorem launchImageLoad (a0 : Fin 64) : Statement (.launchImageLoad a0) := ⟨encode_length _, Nat.zero_lt_one⟩
theorem bootTextReceive (a0 : Nat) (a1 : Nat) : Statement (.bootTextReceive a0 a1) := ⟨encode_length _, Nat.zero_lt_one⟩
theorem imageLoadComplete (a0 : Nat) : Statement (.imageLoadComplete a0) := ⟨encode_length _, Nat.zero_lt_one⟩
theorem queueSuspend (a0 : Fin 64) : Statement (.queueSuspend a0) := ⟨encode_length _, Nat.zero_lt_one⟩
theorem queueResume (a0 : Fin 64) : Statement (.queueResume a0) := ⟨encode_length _, Nat.zero_lt_one⟩
theorem teardown (a0 : Fin 64) : Statement (.teardown a0) := ⟨encode_length _, Nat.zero_lt_one⟩
theorem registerWrite (a0 : Bar) (a1 : Nat) (a2 : BitVec 64) : Statement (.registerWrite a0 a1 a2) := ⟨encode_length _, Nat.zero_lt_one⟩
theorem offlineRequest (a0 : Fin 8) : Statement (.offlineRequest a0) := ⟨encode_length _, Nat.zero_lt_one⟩
theorem offlineForced (a0 : Fin 8) : Statement (.offlineForced a0) := ⟨encode_length _, Nat.zero_lt_one⟩
theorem offlineComplete (a0 : Fin 8) : Statement (.offlineComplete a0) := ⟨encode_length _, Nat.zero_lt_one⟩
theorem hostWriteHalf (a0 : BitVec 48) (a1 : BitVec 512) : Statement (.hostWriteHalf a0 a1) := ⟨encode_length _, Nat.zero_lt_one⟩
theorem hostRead (a0 : BitVec 48) : Statement (.hostRead a0) := ⟨encode_length _, Nat.zero_lt_one⟩
theorem accessCounterHalving : Statement .accessCounterHalving := ⟨encode_length _, Nat.zero_lt_one⟩
theorem ageingCheck (a0 : List Nat) : Statement (.ageingCheck a0) := ⟨encode_length _, Nat.zero_lt_one⟩
theorem mgmtReadLogs : Statement .mgmtReadLogs := ⟨encode_length _, Nat.zero_lt_one⟩
theorem deviceReset : Statement .deviceReset := ⟨encode_length _, Nat.zero_lt_one⟩
theorem fenceBaseDie (a0 : Fin 4) : Statement (.fenceBaseDie a0) := ⟨encode_length _, Nat.zero_lt_one⟩
theorem quadTakeOut (a0 : Fin 4) (a1 : Fin 48) : Statement (.quadTakeOut a0 a1) := ⟨encode_length _, Nat.zero_lt_one⟩
theorem quadReturn (a0 : Fin 4) (a1 : Fin 48) : Statement (.quadReturn a0 a1) := ⟨encode_length _, Nat.zero_lt_one⟩
theorem coreRelease (a0 : Nat) : Statement (.coreRelease a0) := ⟨encode_length _, Nat.zero_lt_one⟩
theorem standbyTakeOver : Statement .standbyTakeOver := ⟨encode_length _, Nat.zero_lt_one⟩
theorem standbyStandDown : Statement .standbyStandDown := ⟨encode_length _, Nat.zero_lt_one⟩
theorem standbySelfFence : Statement .standbySelfFence := ⟨encode_length _, Nat.zero_lt_one⟩
theorem setPackageId (a0 : BitVec 12) : Statement (.setPackageId a0) := ⟨encode_length _, Nat.zero_lt_one⟩
theorem firmwareUpdate (a0 : BitVec 64) : Statement (.firmwareUpdate a0) := ⟨encode_length _, Nat.zero_lt_one⟩
theorem spdmMeasurement : Statement .spdmMeasurement := ⟨encode_length _, Nat.zero_lt_one⟩
theorem sensorRead : Statement .sensorRead := ⟨encode_length _, Nat.zero_lt_one⟩
theorem dieEdgeFailure (a0 : Fin 4) : Statement (.dieEdgeFailure a0) := ⟨encode_length _, Nat.zero_lt_one⟩
theorem watchdogTick : Statement .watchdogTick := ⟨encode_length _, Nat.zero_lt_one⟩
theorem uncorrectableError (a0 : ErrTarget) : Statement (.uncorrectableError a0) := ⟨encode_length _, Nat.zero_lt_one⟩
theorem thermalThrottle : Statement .thermalThrottle := ⟨encode_length _, Nat.zero_lt_one⟩
theorem thermalTrip : Statement .thermalTrip := ⟨encode_length _, Nat.zero_lt_one⟩
theorem linkTrained (a0 : Fin 12) (a1 : BitVec 12) : Statement (.linkTrained a0 a1) := ⟨encode_length _, Nat.zero_lt_one⟩

end Sys2Proof.Laws.Length
end

