-- ==== Sys2Proof/Laws/State.lean ====
section
/-! SUPPORT. The fields of State under its named updates: what each update leaves, field by field. -/
namespace Sys2Proof.Machine

/-! `State.setCore`. -/

@[simp] theorem State.setCore_mem (s : State) (c : Core) : (s.setCore c).mem = s.mem := rfl
@[simp] theorem State.setCore_md (s : State) (c : Core) : (s.setCore c).md = s.md := rfl
@[simp] theorem State.setCore_watches (s : State) (c : Core) : (s.setCore c).watches = s.watches := rfl
@[simp] theorem State.setCore_scratch (s : State) (c : Core) : (s.setCore c).scratch = s.scratch := rfl
@[simp] theorem State.setCore_acc (s : State) (c : Core) : (s.setCore c).acc = s.acc := rfl
@[simp] theorem State.setCore_spare (s : State) (c : Core) : (s.setCore c).spare = s.spare := rfl
@[simp] theorem State.setCore_cur (s : State) (c : Core) : (s.setCore c).cur = s.cur := rfl
@[simp] theorem State.setCore_busy (s : State) (c : Core) : (s.setCore c).busy = s.busy := rfl
@[simp] theorem State.setCore_ctxs (s : State) (c : Core) : (s.setCore c).ctxs = s.ctxs := rfl
@[simp] theorem State.setCore_chans (s : State) (c : Core) : (s.setCore c).chans = s.chans := rfl
@[simp] theorem State.setCore_crews (s : State) (c : Core) : (s.setCore c).crews = s.crews := rfl
@[simp] theorem State.setCore_transit (s : State) (c : Core) : (s.setCore c).transit = s.transit := rfl
@[simp] theorem State.setCore_msgs (s : State) (c : Core) : (s.setCore c).msgs = s.msgs := rfl
@[simp] theorem State.setCore_replicas (s : State) (c : Core) : (s.setCore c).replicas = s.replicas := rfl
@[simp] theorem State.setCore_forwards (s : State) (c : Core) : (s.setCore c).forwards = s.forwards := rfl
@[simp] theorem State.setCore_tlb (s : State) (c : Core) : (s.setCore c).tlb = s.tlb := rfl
@[simp] theorem State.setCore_tableCache (s : State) (c : Core) : (s.setCore c).tableCache = s.tableCache := rfl
@[simp] theorem State.setCore_counters (s : State) (c : Core) : (s.setCore c).counters = s.counters := rfl
@[simp] theorem State.setCore_poisoning (s : State) (c : Core) : (s.setCore c).poisoning = s.poisoning := rfl
@[simp] theorem State.setCore_bar1 (s : State) (c : Core) : (s.setCore c).bar1 = s.bar1 := rfl
@[simp] theorem State.setCore_queues (s : State) (c : Core) : (s.setCore c).queues = s.queues := rfl
@[simp] theorem State.setCore_launches (s : State) (c : Core) : (s.setCore c).launches = s.launches := rfl
@[simp] theorem State.setCore_graphs (s : State) (c : Core) : (s.setCore c).graphs = s.graphs := rfl
@[simp] theorem State.setCore_records (s : State) (c : Core) : (s.setCore c).records = s.records := rfl
@[simp] theorem State.setCore_queueJoins (s : State) (c : Core) : (s.setCore c).queueJoins = s.queueJoins := rfl
@[simp] theorem State.setCore_resumes (s : State) (c : Core) : (s.setCore c).resumes = s.resumes := rfl
@[simp] theorem State.setCore_legacy (s : State) (c : Core) : (s.setCore c).legacy = s.legacy := rfl
@[simp] theorem State.setCore_invals (s : State) (c : Core) : (s.setCore c).invals = s.invals := rfl
@[simp] theorem State.setCore_loads (s : State) (c : Core) : (s.setCore c).loads = s.loads := rfl
@[simp] theorem State.setCore_halves (s : State) (c : Core) : (s.setCore c).halves = s.halves := rfl
@[simp] theorem State.setCore_links (s : State) (c : Core) : (s.setCore c).links = s.links := rfl
@[simp] theorem State.setCore_rings (s : State) (c : Core) : (s.setCore c).rings = s.rings := rfl
@[simp] theorem State.setCore_edges (s : State) (c : Core) : (s.setCore c).edges = s.edges := rfl
@[simp] theorem State.setCore_fencedBase (s : State) (c : Core) : (s.setCore c).fencedBase = s.fencedBase := rfl
@[simp] theorem State.setCore_fencedDies (s : State) (c : Core) : (s.setCore c).fencedDies = s.fencedDies := rfl
@[simp] theorem State.setCore_stoppedDies (s : State) (c : Core) : (s.setCore c).stoppedDies = s.stoppedDies := rfl
@[simp] theorem State.setCore_offline (s : State) (c : Core) : (s.setCore c).offline = s.offline := rfl
@[simp] theorem State.setCore_mgmtOffline (s : State) (c : Core) : (s.setCore c).mgmtOffline = s.mgmtOffline := rfl
@[simp] theorem State.setCore_emptied (s : State) (c : Core) : (s.setCore c).emptied = s.emptied := rfl
@[simp] theorem State.setCore_lost (s : State) (c : Core) : (s.setCore c).lost = s.lost := rfl
@[simp] theorem State.setCore_fetchErrors (s : State) (c : Core) : (s.setCore c).fetchErrors = s.fetchErrors := rfl
@[simp] theorem State.setCore_vectors (s : State) (c : Core) : (s.setCore c).vectors = s.vectors := rfl
@[simp] theorem State.setCore_hostReplies (s : State) (c : Core) : (s.setCore c).hostReplies = s.hostReplies := rfl
@[simp] theorem State.setCore_hostWrites (s : State) (c : Core) : (s.setCore c).hostWrites = s.hostWrites := rfl
@[simp] theorem State.setCore_mgmtReplies (s : State) (c : Core) : (s.setCore c).mgmtReplies = s.mgmtReplies := rfl
@[simp] theorem State.setCore_poisonLog (s : State) (c : Core) : (s.setCore c).poisonLog = s.poisonLog := rfl
@[simp] theorem State.setCore_rlog (s : State) (c : Core) : (s.setCore c).rlog = s.rlog := rfl
@[simp] theorem State.setCore_standby (s : State) (c : Core) : (s.setCore c).standby = s.standby := rfl
@[simp] theorem State.setCore_standbyDown (s : State) (c : Core) : (s.setCore c).standbyDown = s.standbyDown := rfl
@[simp] theorem State.setCore_firmware (s : State) (c : Core) : (s.setCore c).firmware = s.firmware := rfl
@[simp] theorem State.setCore_throttled (s : State) (c : Core) : (s.setCore c).throttled = s.throttled := rfl
@[simp] theorem State.setCore_turn (s : State) (c : Core) : (s.setCore c).turn = s.turn := rfl
@[simp] theorem State.setCore_stalled (s : State) (c : Core) : (s.setCore c).stalled = s.stalled := rfl
@[simp] theorem State.setCore_sched (s : State) (c : Core) : (s.setCore c).sched = s.sched := rfl
@[simp] theorem State.setCore_nextMsg (s : State) (c : Core) : (s.setCore c).nextMsg = s.nextMsg := rfl
@[simp] theorem State.setCore_nextSeq (s : State) (c : Core) : (s.setCore c).nextSeq = s.nextSeq := rfl
@[simp] theorem State.setCore_free (s : State) (c : Core) : (s.setCore c).free = s.free := rfl
@[simp] theorem State.setCore_choices (s : State) (c : Core) : (s.setCore c).choices = s.choices := rfl
@[simp] theorem State.setCore_unread (s : State) (c : Core) : (s.setCore c).unread = s.unread := rfl
@[simp] theorem State.setCore_framePool (s : State) (c : Core) : (s.setCore c).framePool = s.framePool := rfl
@[simp] theorem State.setCore_homeRoom (s : State) (c : Core) : (s.setCore c).homeRoom = s.homeRoom := rfl
@[simp] theorem State.setCore_loadPage (s : State) (c : Core) : (s.setCore c).loadPage = s.loadPage := rfl
@[simp] theorem State.setCore_freePages (s : State) (c : Core) : (s.setCore c).freePages = s.freePages := rfl

/-! `State.setMd`. -/

@[simp] theorem State.setMd_mem (s : State) (key : Nat) (b : BitVec 8) : (s.setMd key b).mem = s.mem := rfl
@[simp] theorem State.setMd_watches (s : State) (key : Nat) (b : BitVec 8) : (s.setMd key b).watches = s.watches := rfl
@[simp] theorem State.setMd_scratch (s : State) (key : Nat) (b : BitVec 8) : (s.setMd key b).scratch = s.scratch := rfl
@[simp] theorem State.setMd_acc (s : State) (key : Nat) (b : BitVec 8) : (s.setMd key b).acc = s.acc := rfl
@[simp] theorem State.setMd_spare (s : State) (key : Nat) (b : BitVec 8) : (s.setMd key b).spare = s.spare := rfl
@[simp] theorem State.setMd_cur (s : State) (key : Nat) (b : BitVec 8) : (s.setMd key b).cur = s.cur := rfl
@[simp] theorem State.setMd_busy (s : State) (key : Nat) (b : BitVec 8) : (s.setMd key b).busy = s.busy := rfl
@[simp] theorem State.setMd_ctxs (s : State) (key : Nat) (b : BitVec 8) : (s.setMd key b).ctxs = s.ctxs := rfl
@[simp] theorem State.setMd_cores (s : State) (key : Nat) (b : BitVec 8) : (s.setMd key b).cores = s.cores := rfl
@[simp] theorem State.setMd_chans (s : State) (key : Nat) (b : BitVec 8) : (s.setMd key b).chans = s.chans := rfl
@[simp] theorem State.setMd_crews (s : State) (key : Nat) (b : BitVec 8) : (s.setMd key b).crews = s.crews := rfl
@[simp] theorem State.setMd_transit (s : State) (key : Nat) (b : BitVec 8) : (s.setMd key b).transit = s.transit := rfl
@[simp] theorem State.setMd_msgs (s : State) (key : Nat) (b : BitVec 8) : (s.setMd key b).msgs = s.msgs := rfl
@[simp] theorem State.setMd_replicas (s : State) (key : Nat) (b : BitVec 8) : (s.setMd key b).replicas = s.replicas := rfl
@[simp] theorem State.setMd_forwards (s : State) (key : Nat) (b : BitVec 8) : (s.setMd key b).forwards = s.forwards := rfl
@[simp] theorem State.setMd_tlb (s : State) (key : Nat) (b : BitVec 8) : (s.setMd key b).tlb = s.tlb := rfl
@[simp] theorem State.setMd_tableCache (s : State) (key : Nat) (b : BitVec 8) : (s.setMd key b).tableCache = s.tableCache := rfl
@[simp] theorem State.setMd_counters (s : State) (key : Nat) (b : BitVec 8) : (s.setMd key b).counters = s.counters := rfl
@[simp] theorem State.setMd_poisoning (s : State) (key : Nat) (b : BitVec 8) : (s.setMd key b).poisoning = s.poisoning := rfl
@[simp] theorem State.setMd_bar1 (s : State) (key : Nat) (b : BitVec 8) : (s.setMd key b).bar1 = s.bar1 := rfl
@[simp] theorem State.setMd_queues (s : State) (key : Nat) (b : BitVec 8) : (s.setMd key b).queues = s.queues := rfl
@[simp] theorem State.setMd_launches (s : State) (key : Nat) (b : BitVec 8) : (s.setMd key b).launches = s.launches := rfl
@[simp] theorem State.setMd_graphs (s : State) (key : Nat) (b : BitVec 8) : (s.setMd key b).graphs = s.graphs := rfl
@[simp] theorem State.setMd_records (s : State) (key : Nat) (b : BitVec 8) : (s.setMd key b).records = s.records := rfl
@[simp] theorem State.setMd_queueJoins (s : State) (key : Nat) (b : BitVec 8) : (s.setMd key b).queueJoins = s.queueJoins := rfl
@[simp] theorem State.setMd_resumes (s : State) (key : Nat) (b : BitVec 8) : (s.setMd key b).resumes = s.resumes := rfl
@[simp] theorem State.setMd_legacy (s : State) (key : Nat) (b : BitVec 8) : (s.setMd key b).legacy = s.legacy := rfl
@[simp] theorem State.setMd_invals (s : State) (key : Nat) (b : BitVec 8) : (s.setMd key b).invals = s.invals := rfl
@[simp] theorem State.setMd_loads (s : State) (key : Nat) (b : BitVec 8) : (s.setMd key b).loads = s.loads := rfl
@[simp] theorem State.setMd_halves (s : State) (key : Nat) (b : BitVec 8) : (s.setMd key b).halves = s.halves := rfl
@[simp] theorem State.setMd_links (s : State) (key : Nat) (b : BitVec 8) : (s.setMd key b).links = s.links := rfl
@[simp] theorem State.setMd_rings (s : State) (key : Nat) (b : BitVec 8) : (s.setMd key b).rings = s.rings := rfl
@[simp] theorem State.setMd_edges (s : State) (key : Nat) (b : BitVec 8) : (s.setMd key b).edges = s.edges := rfl
@[simp] theorem State.setMd_fencedBase (s : State) (key : Nat) (b : BitVec 8) : (s.setMd key b).fencedBase = s.fencedBase := rfl
@[simp] theorem State.setMd_fencedDies (s : State) (key : Nat) (b : BitVec 8) : (s.setMd key b).fencedDies = s.fencedDies := rfl
@[simp] theorem State.setMd_stoppedDies (s : State) (key : Nat) (b : BitVec 8) : (s.setMd key b).stoppedDies = s.stoppedDies := rfl
@[simp] theorem State.setMd_offline (s : State) (key : Nat) (b : BitVec 8) : (s.setMd key b).offline = s.offline := rfl
@[simp] theorem State.setMd_mgmtOffline (s : State) (key : Nat) (b : BitVec 8) : (s.setMd key b).mgmtOffline = s.mgmtOffline := rfl
@[simp] theorem State.setMd_emptied (s : State) (key : Nat) (b : BitVec 8) : (s.setMd key b).emptied = s.emptied := rfl
@[simp] theorem State.setMd_lost (s : State) (key : Nat) (b : BitVec 8) : (s.setMd key b).lost = s.lost := rfl
@[simp] theorem State.setMd_fetchErrors (s : State) (key : Nat) (b : BitVec 8) : (s.setMd key b).fetchErrors = s.fetchErrors := rfl
@[simp] theorem State.setMd_vectors (s : State) (key : Nat) (b : BitVec 8) : (s.setMd key b).vectors = s.vectors := rfl
@[simp] theorem State.setMd_hostReplies (s : State) (key : Nat) (b : BitVec 8) : (s.setMd key b).hostReplies = s.hostReplies := rfl
@[simp] theorem State.setMd_hostWrites (s : State) (key : Nat) (b : BitVec 8) : (s.setMd key b).hostWrites = s.hostWrites := rfl
@[simp] theorem State.setMd_mgmtReplies (s : State) (key : Nat) (b : BitVec 8) : (s.setMd key b).mgmtReplies = s.mgmtReplies := rfl
@[simp] theorem State.setMd_poisonLog (s : State) (key : Nat) (b : BitVec 8) : (s.setMd key b).poisonLog = s.poisonLog := rfl
@[simp] theorem State.setMd_rlog (s : State) (key : Nat) (b : BitVec 8) : (s.setMd key b).rlog = s.rlog := rfl
@[simp] theorem State.setMd_standby (s : State) (key : Nat) (b : BitVec 8) : (s.setMd key b).standby = s.standby := rfl
@[simp] theorem State.setMd_standbyDown (s : State) (key : Nat) (b : BitVec 8) : (s.setMd key b).standbyDown = s.standbyDown := rfl
@[simp] theorem State.setMd_firmware (s : State) (key : Nat) (b : BitVec 8) : (s.setMd key b).firmware = s.firmware := rfl
@[simp] theorem State.setMd_throttled (s : State) (key : Nat) (b : BitVec 8) : (s.setMd key b).throttled = s.throttled := rfl
@[simp] theorem State.setMd_turn (s : State) (key : Nat) (b : BitVec 8) : (s.setMd key b).turn = s.turn := rfl
@[simp] theorem State.setMd_stalled (s : State) (key : Nat) (b : BitVec 8) : (s.setMd key b).stalled = s.stalled := rfl
@[simp] theorem State.setMd_sched (s : State) (key : Nat) (b : BitVec 8) : (s.setMd key b).sched = s.sched := rfl
@[simp] theorem State.setMd_nextMsg (s : State) (key : Nat) (b : BitVec 8) : (s.setMd key b).nextMsg = s.nextMsg := rfl
@[simp] theorem State.setMd_nextSeq (s : State) (key : Nat) (b : BitVec 8) : (s.setMd key b).nextSeq = s.nextSeq := rfl
@[simp] theorem State.setMd_free (s : State) (key : Nat) (b : BitVec 8) : (s.setMd key b).free = s.free := rfl
@[simp] theorem State.setMd_choices (s : State) (key : Nat) (b : BitVec 8) : (s.setMd key b).choices = s.choices := rfl
@[simp] theorem State.setMd_unread (s : State) (key : Nat) (b : BitVec 8) : (s.setMd key b).unread = s.unread := rfl
@[simp] theorem State.setMd_framePool (s : State) (key : Nat) (b : BitVec 8) : (s.setMd key b).framePool = s.framePool := rfl
@[simp] theorem State.setMd_homeRoom (s : State) (key : Nat) (b : BitVec 8) : (s.setMd key b).homeRoom = s.homeRoom := rfl
@[simp] theorem State.setMd_loadPage (s : State) (key : Nat) (b : BitVec 8) : (s.setMd key b).loadPage = s.loadPage := rfl
@[simp] theorem State.setMd_freePages (s : State) (key : Nat) (b : BitVec 8) : (s.setMd key b).freePages = s.freePages := rfl

/-! `State.raiseVector`. -/

@[simp] theorem State.raiseVector_mem (s : State) (n : Nat) : (s.raiseVector n).mem = s.mem := rfl
@[simp] theorem State.raiseVector_md (s : State) (n : Nat) : (s.raiseVector n).md = s.md := rfl
@[simp] theorem State.raiseVector_watches (s : State) (n : Nat) : (s.raiseVector n).watches = s.watches := rfl
@[simp] theorem State.raiseVector_scratch (s : State) (n : Nat) : (s.raiseVector n).scratch = s.scratch := rfl
@[simp] theorem State.raiseVector_acc (s : State) (n : Nat) : (s.raiseVector n).acc = s.acc := rfl
@[simp] theorem State.raiseVector_spare (s : State) (n : Nat) : (s.raiseVector n).spare = s.spare := rfl
@[simp] theorem State.raiseVector_cur (s : State) (n : Nat) : (s.raiseVector n).cur = s.cur := rfl
@[simp] theorem State.raiseVector_busy (s : State) (n : Nat) : (s.raiseVector n).busy = s.busy := rfl
@[simp] theorem State.raiseVector_ctxs (s : State) (n : Nat) : (s.raiseVector n).ctxs = s.ctxs := rfl
@[simp] theorem State.raiseVector_cores (s : State) (n : Nat) : (s.raiseVector n).cores = s.cores := rfl
@[simp] theorem State.raiseVector_chans (s : State) (n : Nat) : (s.raiseVector n).chans = s.chans := rfl
@[simp] theorem State.raiseVector_crews (s : State) (n : Nat) : (s.raiseVector n).crews = s.crews := rfl
@[simp] theorem State.raiseVector_transit (s : State) (n : Nat) : (s.raiseVector n).transit = s.transit := rfl
@[simp] theorem State.raiseVector_msgs (s : State) (n : Nat) : (s.raiseVector n).msgs = s.msgs := rfl
@[simp] theorem State.raiseVector_replicas (s : State) (n : Nat) : (s.raiseVector n).replicas = s.replicas := rfl
@[simp] theorem State.raiseVector_forwards (s : State) (n : Nat) : (s.raiseVector n).forwards = s.forwards := rfl
@[simp] theorem State.raiseVector_tlb (s : State) (n : Nat) : (s.raiseVector n).tlb = s.tlb := rfl
@[simp] theorem State.raiseVector_tableCache (s : State) (n : Nat) : (s.raiseVector n).tableCache = s.tableCache := rfl
@[simp] theorem State.raiseVector_counters (s : State) (n : Nat) : (s.raiseVector n).counters = s.counters := rfl
@[simp] theorem State.raiseVector_poisoning (s : State) (n : Nat) : (s.raiseVector n).poisoning = s.poisoning := rfl
@[simp] theorem State.raiseVector_bar1 (s : State) (n : Nat) : (s.raiseVector n).bar1 = s.bar1 := rfl
@[simp] theorem State.raiseVector_queues (s : State) (n : Nat) : (s.raiseVector n).queues = s.queues := rfl
@[simp] theorem State.raiseVector_launches (s : State) (n : Nat) : (s.raiseVector n).launches = s.launches := rfl
@[simp] theorem State.raiseVector_graphs (s : State) (n : Nat) : (s.raiseVector n).graphs = s.graphs := rfl
@[simp] theorem State.raiseVector_records (s : State) (n : Nat) : (s.raiseVector n).records = s.records := rfl
@[simp] theorem State.raiseVector_queueJoins (s : State) (n : Nat) : (s.raiseVector n).queueJoins = s.queueJoins := rfl
@[simp] theorem State.raiseVector_resumes (s : State) (n : Nat) : (s.raiseVector n).resumes = s.resumes := rfl
@[simp] theorem State.raiseVector_legacy (s : State) (n : Nat) : (s.raiseVector n).legacy = s.legacy := rfl
@[simp] theorem State.raiseVector_invals (s : State) (n : Nat) : (s.raiseVector n).invals = s.invals := rfl
@[simp] theorem State.raiseVector_loads (s : State) (n : Nat) : (s.raiseVector n).loads = s.loads := rfl
@[simp] theorem State.raiseVector_halves (s : State) (n : Nat) : (s.raiseVector n).halves = s.halves := rfl
@[simp] theorem State.raiseVector_links (s : State) (n : Nat) : (s.raiseVector n).links = s.links := rfl
@[simp] theorem State.raiseVector_rings (s : State) (n : Nat) : (s.raiseVector n).rings = s.rings := rfl
@[simp] theorem State.raiseVector_edges (s : State) (n : Nat) : (s.raiseVector n).edges = s.edges := rfl
@[simp] theorem State.raiseVector_fencedBase (s : State) (n : Nat) : (s.raiseVector n).fencedBase = s.fencedBase := rfl
@[simp] theorem State.raiseVector_fencedDies (s : State) (n : Nat) : (s.raiseVector n).fencedDies = s.fencedDies := rfl
@[simp] theorem State.raiseVector_stoppedDies (s : State) (n : Nat) : (s.raiseVector n).stoppedDies = s.stoppedDies := rfl
@[simp] theorem State.raiseVector_offline (s : State) (n : Nat) : (s.raiseVector n).offline = s.offline := rfl
@[simp] theorem State.raiseVector_mgmtOffline (s : State) (n : Nat) : (s.raiseVector n).mgmtOffline = s.mgmtOffline := rfl
@[simp] theorem State.raiseVector_emptied (s : State) (n : Nat) : (s.raiseVector n).emptied = s.emptied := rfl
@[simp] theorem State.raiseVector_lost (s : State) (n : Nat) : (s.raiseVector n).lost = s.lost := rfl
@[simp] theorem State.raiseVector_fetchErrors (s : State) (n : Nat) : (s.raiseVector n).fetchErrors = s.fetchErrors := rfl
@[simp] theorem State.raiseVector_hostReplies (s : State) (n : Nat) : (s.raiseVector n).hostReplies = s.hostReplies := rfl
@[simp] theorem State.raiseVector_hostWrites (s : State) (n : Nat) : (s.raiseVector n).hostWrites = s.hostWrites := rfl
@[simp] theorem State.raiseVector_mgmtReplies (s : State) (n : Nat) : (s.raiseVector n).mgmtReplies = s.mgmtReplies := rfl
@[simp] theorem State.raiseVector_poisonLog (s : State) (n : Nat) : (s.raiseVector n).poisonLog = s.poisonLog := rfl
@[simp] theorem State.raiseVector_rlog (s : State) (n : Nat) : (s.raiseVector n).rlog = s.rlog := rfl
@[simp] theorem State.raiseVector_standby (s : State) (n : Nat) : (s.raiseVector n).standby = s.standby := rfl
@[simp] theorem State.raiseVector_standbyDown (s : State) (n : Nat) : (s.raiseVector n).standbyDown = s.standbyDown := rfl
@[simp] theorem State.raiseVector_firmware (s : State) (n : Nat) : (s.raiseVector n).firmware = s.firmware := rfl
@[simp] theorem State.raiseVector_throttled (s : State) (n : Nat) : (s.raiseVector n).throttled = s.throttled := rfl
@[simp] theorem State.raiseVector_turn (s : State) (n : Nat) : (s.raiseVector n).turn = s.turn := rfl
@[simp] theorem State.raiseVector_stalled (s : State) (n : Nat) : (s.raiseVector n).stalled = s.stalled := rfl
@[simp] theorem State.raiseVector_sched (s : State) (n : Nat) : (s.raiseVector n).sched = s.sched := rfl
@[simp] theorem State.raiseVector_nextMsg (s : State) (n : Nat) : (s.raiseVector n).nextMsg = s.nextMsg := rfl
@[simp] theorem State.raiseVector_nextSeq (s : State) (n : Nat) : (s.raiseVector n).nextSeq = s.nextSeq := rfl
@[simp] theorem State.raiseVector_free (s : State) (n : Nat) : (s.raiseVector n).free = s.free := rfl
@[simp] theorem State.raiseVector_choices (s : State) (n : Nat) : (s.raiseVector n).choices = s.choices := rfl
@[simp] theorem State.raiseVector_unread (s : State) (n : Nat) : (s.raiseVector n).unread = s.unread := rfl
@[simp] theorem State.raiseVector_framePool (s : State) (n : Nat) : (s.raiseVector n).framePool = s.framePool := rfl
@[simp] theorem State.raiseVector_homeRoom (s : State) (n : Nat) : (s.raiseVector n).homeRoom = s.homeRoom := rfl
@[simp] theorem State.raiseVector_loadPage (s : State) (n : Nat) : (s.raiseVector n).loadPage = s.loadPage := rfl
@[simp] theorem State.raiseVector_freePages (s : State) (n : Nat) : (s.raiseVector n).freePages = s.freePages := rfl

/-! `State.modLaunch`. -/

@[simp] theorem State.modLaunch_mem (s : State) (id : Nat) (f : Launch → Launch) : (s.modLaunch id f).mem = s.mem := rfl
@[simp] theorem State.modLaunch_md (s : State) (id : Nat) (f : Launch → Launch) : (s.modLaunch id f).md = s.md := rfl
@[simp] theorem State.modLaunch_watches (s : State) (id : Nat) (f : Launch → Launch) : (s.modLaunch id f).watches = s.watches := rfl
@[simp] theorem State.modLaunch_scratch (s : State) (id : Nat) (f : Launch → Launch) : (s.modLaunch id f).scratch = s.scratch := rfl
@[simp] theorem State.modLaunch_acc (s : State) (id : Nat) (f : Launch → Launch) : (s.modLaunch id f).acc = s.acc := rfl
@[simp] theorem State.modLaunch_spare (s : State) (id : Nat) (f : Launch → Launch) : (s.modLaunch id f).spare = s.spare := rfl
@[simp] theorem State.modLaunch_cur (s : State) (id : Nat) (f : Launch → Launch) : (s.modLaunch id f).cur = s.cur := rfl
@[simp] theorem State.modLaunch_busy (s : State) (id : Nat) (f : Launch → Launch) : (s.modLaunch id f).busy = s.busy := rfl
@[simp] theorem State.modLaunch_ctxs (s : State) (id : Nat) (f : Launch → Launch) : (s.modLaunch id f).ctxs = s.ctxs := rfl
@[simp] theorem State.modLaunch_cores (s : State) (id : Nat) (f : Launch → Launch) : (s.modLaunch id f).cores = s.cores := rfl
@[simp] theorem State.modLaunch_chans (s : State) (id : Nat) (f : Launch → Launch) : (s.modLaunch id f).chans = s.chans := rfl
@[simp] theorem State.modLaunch_crews (s : State) (id : Nat) (f : Launch → Launch) : (s.modLaunch id f).crews = s.crews := rfl
@[simp] theorem State.modLaunch_transit (s : State) (id : Nat) (f : Launch → Launch) : (s.modLaunch id f).transit = s.transit := rfl
@[simp] theorem State.modLaunch_msgs (s : State) (id : Nat) (f : Launch → Launch) : (s.modLaunch id f).msgs = s.msgs := rfl
@[simp] theorem State.modLaunch_replicas (s : State) (id : Nat) (f : Launch → Launch) : (s.modLaunch id f).replicas = s.replicas := rfl
@[simp] theorem State.modLaunch_forwards (s : State) (id : Nat) (f : Launch → Launch) : (s.modLaunch id f).forwards = s.forwards := rfl
@[simp] theorem State.modLaunch_tlb (s : State) (id : Nat) (f : Launch → Launch) : (s.modLaunch id f).tlb = s.tlb := rfl
@[simp] theorem State.modLaunch_tableCache (s : State) (id : Nat) (f : Launch → Launch) : (s.modLaunch id f).tableCache = s.tableCache := rfl
@[simp] theorem State.modLaunch_counters (s : State) (id : Nat) (f : Launch → Launch) : (s.modLaunch id f).counters = s.counters := rfl
@[simp] theorem State.modLaunch_poisoning (s : State) (id : Nat) (f : Launch → Launch) : (s.modLaunch id f).poisoning = s.poisoning := rfl
@[simp] theorem State.modLaunch_bar1 (s : State) (id : Nat) (f : Launch → Launch) : (s.modLaunch id f).bar1 = s.bar1 := rfl
@[simp] theorem State.modLaunch_queues (s : State) (id : Nat) (f : Launch → Launch) : (s.modLaunch id f).queues = s.queues := rfl
@[simp] theorem State.modLaunch_graphs (s : State) (id : Nat) (f : Launch → Launch) : (s.modLaunch id f).graphs = s.graphs := rfl
@[simp] theorem State.modLaunch_records (s : State) (id : Nat) (f : Launch → Launch) : (s.modLaunch id f).records = s.records := rfl
@[simp] theorem State.modLaunch_queueJoins (s : State) (id : Nat) (f : Launch → Launch) : (s.modLaunch id f).queueJoins = s.queueJoins := rfl
@[simp] theorem State.modLaunch_resumes (s : State) (id : Nat) (f : Launch → Launch) : (s.modLaunch id f).resumes = s.resumes := rfl
@[simp] theorem State.modLaunch_legacy (s : State) (id : Nat) (f : Launch → Launch) : (s.modLaunch id f).legacy = s.legacy := rfl
@[simp] theorem State.modLaunch_invals (s : State) (id : Nat) (f : Launch → Launch) : (s.modLaunch id f).invals = s.invals := rfl
@[simp] theorem State.modLaunch_loads (s : State) (id : Nat) (f : Launch → Launch) : (s.modLaunch id f).loads = s.loads := rfl
@[simp] theorem State.modLaunch_halves (s : State) (id : Nat) (f : Launch → Launch) : (s.modLaunch id f).halves = s.halves := rfl
@[simp] theorem State.modLaunch_links (s : State) (id : Nat) (f : Launch → Launch) : (s.modLaunch id f).links = s.links := rfl
@[simp] theorem State.modLaunch_rings (s : State) (id : Nat) (f : Launch → Launch) : (s.modLaunch id f).rings = s.rings := rfl
@[simp] theorem State.modLaunch_edges (s : State) (id : Nat) (f : Launch → Launch) : (s.modLaunch id f).edges = s.edges := rfl
@[simp] theorem State.modLaunch_fencedBase (s : State) (id : Nat) (f : Launch → Launch) : (s.modLaunch id f).fencedBase = s.fencedBase := rfl
@[simp] theorem State.modLaunch_fencedDies (s : State) (id : Nat) (f : Launch → Launch) : (s.modLaunch id f).fencedDies = s.fencedDies := rfl
@[simp] theorem State.modLaunch_stoppedDies (s : State) (id : Nat) (f : Launch → Launch) : (s.modLaunch id f).stoppedDies = s.stoppedDies := rfl
@[simp] theorem State.modLaunch_offline (s : State) (id : Nat) (f : Launch → Launch) : (s.modLaunch id f).offline = s.offline := rfl
@[simp] theorem State.modLaunch_mgmtOffline (s : State) (id : Nat) (f : Launch → Launch) : (s.modLaunch id f).mgmtOffline = s.mgmtOffline := rfl
@[simp] theorem State.modLaunch_emptied (s : State) (id : Nat) (f : Launch → Launch) : (s.modLaunch id f).emptied = s.emptied := rfl
@[simp] theorem State.modLaunch_lost (s : State) (id : Nat) (f : Launch → Launch) : (s.modLaunch id f).lost = s.lost := rfl
@[simp] theorem State.modLaunch_fetchErrors (s : State) (id : Nat) (f : Launch → Launch) : (s.modLaunch id f).fetchErrors = s.fetchErrors := rfl
@[simp] theorem State.modLaunch_vectors (s : State) (id : Nat) (f : Launch → Launch) : (s.modLaunch id f).vectors = s.vectors := rfl
@[simp] theorem State.modLaunch_hostReplies (s : State) (id : Nat) (f : Launch → Launch) : (s.modLaunch id f).hostReplies = s.hostReplies := rfl
@[simp] theorem State.modLaunch_hostWrites (s : State) (id : Nat) (f : Launch → Launch) : (s.modLaunch id f).hostWrites = s.hostWrites := rfl
@[simp] theorem State.modLaunch_mgmtReplies (s : State) (id : Nat) (f : Launch → Launch) : (s.modLaunch id f).mgmtReplies = s.mgmtReplies := rfl
@[simp] theorem State.modLaunch_poisonLog (s : State) (id : Nat) (f : Launch → Launch) : (s.modLaunch id f).poisonLog = s.poisonLog := rfl
@[simp] theorem State.modLaunch_rlog (s : State) (id : Nat) (f : Launch → Launch) : (s.modLaunch id f).rlog = s.rlog := rfl
@[simp] theorem State.modLaunch_standby (s : State) (id : Nat) (f : Launch → Launch) : (s.modLaunch id f).standby = s.standby := rfl
@[simp] theorem State.modLaunch_standbyDown (s : State) (id : Nat) (f : Launch → Launch) : (s.modLaunch id f).standbyDown = s.standbyDown := rfl
@[simp] theorem State.modLaunch_firmware (s : State) (id : Nat) (f : Launch → Launch) : (s.modLaunch id f).firmware = s.firmware := rfl
@[simp] theorem State.modLaunch_throttled (s : State) (id : Nat) (f : Launch → Launch) : (s.modLaunch id f).throttled = s.throttled := rfl
@[simp] theorem State.modLaunch_turn (s : State) (id : Nat) (f : Launch → Launch) : (s.modLaunch id f).turn = s.turn := rfl
@[simp] theorem State.modLaunch_stalled (s : State) (id : Nat) (f : Launch → Launch) : (s.modLaunch id f).stalled = s.stalled := rfl
@[simp] theorem State.modLaunch_sched (s : State) (id : Nat) (f : Launch → Launch) : (s.modLaunch id f).sched = s.sched := rfl
@[simp] theorem State.modLaunch_nextMsg (s : State) (id : Nat) (f : Launch → Launch) : (s.modLaunch id f).nextMsg = s.nextMsg := rfl
@[simp] theorem State.modLaunch_nextSeq (s : State) (id : Nat) (f : Launch → Launch) : (s.modLaunch id f).nextSeq = s.nextSeq := rfl
@[simp] theorem State.modLaunch_free (s : State) (id : Nat) (f : Launch → Launch) : (s.modLaunch id f).free = s.free := rfl
@[simp] theorem State.modLaunch_choices (s : State) (id : Nat) (f : Launch → Launch) : (s.modLaunch id f).choices = s.choices := rfl
@[simp] theorem State.modLaunch_unread (s : State) (id : Nat) (f : Launch → Launch) : (s.modLaunch id f).unread = s.unread := rfl
@[simp] theorem State.modLaunch_framePool (s : State) (id : Nat) (f : Launch → Launch) : (s.modLaunch id f).framePool = s.framePool := rfl
@[simp] theorem State.modLaunch_homeRoom (s : State) (id : Nat) (f : Launch → Launch) : (s.modLaunch id f).homeRoom = s.homeRoom := rfl
@[simp] theorem State.modLaunch_loadPage (s : State) (id : Nat) (f : Launch → Launch) : (s.modLaunch id f).loadPage = s.loadPage := rfl
@[simp] theorem State.modLaunch_freePages (s : State) (id : Nat) (f : Launch → Launch) : (s.modLaunch id f).freePages = s.freePages := rfl

/-! `State.reply`. -/

@[simp] theorem State.reply_mem (s : State) (ws : List Word) : (s.reply ws).mem = s.mem := rfl
@[simp] theorem State.reply_md (s : State) (ws : List Word) : (s.reply ws).md = s.md := rfl
@[simp] theorem State.reply_watches (s : State) (ws : List Word) : (s.reply ws).watches = s.watches := rfl
@[simp] theorem State.reply_scratch (s : State) (ws : List Word) : (s.reply ws).scratch = s.scratch := rfl
@[simp] theorem State.reply_acc (s : State) (ws : List Word) : (s.reply ws).acc = s.acc := rfl
@[simp] theorem State.reply_spare (s : State) (ws : List Word) : (s.reply ws).spare = s.spare := rfl
@[simp] theorem State.reply_cur (s : State) (ws : List Word) : (s.reply ws).cur = s.cur := rfl
@[simp] theorem State.reply_busy (s : State) (ws : List Word) : (s.reply ws).busy = s.busy := rfl
@[simp] theorem State.reply_ctxs (s : State) (ws : List Word) : (s.reply ws).ctxs = s.ctxs := rfl
@[simp] theorem State.reply_cores (s : State) (ws : List Word) : (s.reply ws).cores = s.cores := rfl
@[simp] theorem State.reply_chans (s : State) (ws : List Word) : (s.reply ws).chans = s.chans := rfl
@[simp] theorem State.reply_crews (s : State) (ws : List Word) : (s.reply ws).crews = s.crews := rfl
@[simp] theorem State.reply_transit (s : State) (ws : List Word) : (s.reply ws).transit = s.transit := rfl
@[simp] theorem State.reply_msgs (s : State) (ws : List Word) : (s.reply ws).msgs = s.msgs := rfl
@[simp] theorem State.reply_replicas (s : State) (ws : List Word) : (s.reply ws).replicas = s.replicas := rfl
@[simp] theorem State.reply_forwards (s : State) (ws : List Word) : (s.reply ws).forwards = s.forwards := rfl
@[simp] theorem State.reply_tlb (s : State) (ws : List Word) : (s.reply ws).tlb = s.tlb := rfl
@[simp] theorem State.reply_tableCache (s : State) (ws : List Word) : (s.reply ws).tableCache = s.tableCache := rfl
@[simp] theorem State.reply_counters (s : State) (ws : List Word) : (s.reply ws).counters = s.counters := rfl
@[simp] theorem State.reply_poisoning (s : State) (ws : List Word) : (s.reply ws).poisoning = s.poisoning := rfl
@[simp] theorem State.reply_bar1 (s : State) (ws : List Word) : (s.reply ws).bar1 = s.bar1 := rfl
@[simp] theorem State.reply_queues (s : State) (ws : List Word) : (s.reply ws).queues = s.queues := rfl
@[simp] theorem State.reply_launches (s : State) (ws : List Word) : (s.reply ws).launches = s.launches := rfl
@[simp] theorem State.reply_graphs (s : State) (ws : List Word) : (s.reply ws).graphs = s.graphs := rfl
@[simp] theorem State.reply_records (s : State) (ws : List Word) : (s.reply ws).records = s.records := rfl
@[simp] theorem State.reply_queueJoins (s : State) (ws : List Word) : (s.reply ws).queueJoins = s.queueJoins := rfl
@[simp] theorem State.reply_resumes (s : State) (ws : List Word) : (s.reply ws).resumes = s.resumes := rfl
@[simp] theorem State.reply_legacy (s : State) (ws : List Word) : (s.reply ws).legacy = s.legacy := rfl
@[simp] theorem State.reply_invals (s : State) (ws : List Word) : (s.reply ws).invals = s.invals := rfl
@[simp] theorem State.reply_loads (s : State) (ws : List Word) : (s.reply ws).loads = s.loads := rfl
@[simp] theorem State.reply_halves (s : State) (ws : List Word) : (s.reply ws).halves = s.halves := rfl
@[simp] theorem State.reply_links (s : State) (ws : List Word) : (s.reply ws).links = s.links := rfl
@[simp] theorem State.reply_rings (s : State) (ws : List Word) : (s.reply ws).rings = s.rings := rfl
@[simp] theorem State.reply_edges (s : State) (ws : List Word) : (s.reply ws).edges = s.edges := rfl
@[simp] theorem State.reply_fencedBase (s : State) (ws : List Word) : (s.reply ws).fencedBase = s.fencedBase := rfl
@[simp] theorem State.reply_fencedDies (s : State) (ws : List Word) : (s.reply ws).fencedDies = s.fencedDies := rfl
@[simp] theorem State.reply_stoppedDies (s : State) (ws : List Word) : (s.reply ws).stoppedDies = s.stoppedDies := rfl
@[simp] theorem State.reply_offline (s : State) (ws : List Word) : (s.reply ws).offline = s.offline := rfl
@[simp] theorem State.reply_mgmtOffline (s : State) (ws : List Word) : (s.reply ws).mgmtOffline = s.mgmtOffline := rfl
@[simp] theorem State.reply_emptied (s : State) (ws : List Word) : (s.reply ws).emptied = s.emptied := rfl
@[simp] theorem State.reply_lost (s : State) (ws : List Word) : (s.reply ws).lost = s.lost := rfl
@[simp] theorem State.reply_fetchErrors (s : State) (ws : List Word) : (s.reply ws).fetchErrors = s.fetchErrors := rfl
@[simp] theorem State.reply_vectors (s : State) (ws : List Word) : (s.reply ws).vectors = s.vectors := rfl
@[simp] theorem State.reply_hostReplies (s : State) (ws : List Word) : (s.reply ws).hostReplies = s.hostReplies := rfl
@[simp] theorem State.reply_hostWrites (s : State) (ws : List Word) : (s.reply ws).hostWrites = s.hostWrites := rfl
@[simp] theorem State.reply_poisonLog (s : State) (ws : List Word) : (s.reply ws).poisonLog = s.poisonLog := rfl
@[simp] theorem State.reply_rlog (s : State) (ws : List Word) : (s.reply ws).rlog = s.rlog := rfl
@[simp] theorem State.reply_standby (s : State) (ws : List Word) : (s.reply ws).standby = s.standby := rfl
@[simp] theorem State.reply_standbyDown (s : State) (ws : List Word) : (s.reply ws).standbyDown = s.standbyDown := rfl
@[simp] theorem State.reply_firmware (s : State) (ws : List Word) : (s.reply ws).firmware = s.firmware := rfl
@[simp] theorem State.reply_throttled (s : State) (ws : List Word) : (s.reply ws).throttled = s.throttled := rfl
@[simp] theorem State.reply_turn (s : State) (ws : List Word) : (s.reply ws).turn = s.turn := rfl
@[simp] theorem State.reply_stalled (s : State) (ws : List Word) : (s.reply ws).stalled = s.stalled := rfl
@[simp] theorem State.reply_sched (s : State) (ws : List Word) : (s.reply ws).sched = s.sched := rfl
@[simp] theorem State.reply_nextMsg (s : State) (ws : List Word) : (s.reply ws).nextMsg = s.nextMsg := rfl
@[simp] theorem State.reply_nextSeq (s : State) (ws : List Word) : (s.reply ws).nextSeq = s.nextSeq := rfl
@[simp] theorem State.reply_free (s : State) (ws : List Word) : (s.reply ws).free = s.free := rfl
@[simp] theorem State.reply_choices (s : State) (ws : List Word) : (s.reply ws).choices = s.choices := rfl
@[simp] theorem State.reply_unread (s : State) (ws : List Word) : (s.reply ws).unread = s.unread := rfl
@[simp] theorem State.reply_framePool (s : State) (ws : List Word) : (s.reply ws).framePool = s.framePool := rfl
@[simp] theorem State.reply_homeRoom (s : State) (ws : List Word) : (s.reply ws).homeRoom = s.homeRoom := rfl
@[simp] theorem State.reply_loadPage (s : State) (ws : List Word) : (s.reply ws).loadPage = s.loadPage := rfl
@[simp] theorem State.reply_freePages (s : State) (ws : List Word) : (s.reply ws).freePages = s.freePages := rfl

/-! `State.setCtx`. -/

@[simp] theorem State.setCtx_mem (s : State) (c : Context) : (s.setCtx c).mem = s.mem := by
  unfold State.setCtx; split <;> rfl
@[simp] theorem State.setCtx_md (s : State) (c : Context) : (s.setCtx c).md = s.md := by
  unfold State.setCtx; split <;> rfl
@[simp] theorem State.setCtx_watches (s : State) (c : Context) : (s.setCtx c).watches = s.watches := by
  unfold State.setCtx; split <;> rfl
@[simp] theorem State.setCtx_scratch (s : State) (c : Context) : (s.setCtx c).scratch = s.scratch := by
  unfold State.setCtx; split <;> rfl
@[simp] theorem State.setCtx_acc (s : State) (c : Context) : (s.setCtx c).acc = s.acc := by
  unfold State.setCtx; split <;> rfl
@[simp] theorem State.setCtx_spare (s : State) (c : Context) : (s.setCtx c).spare = s.spare := by
  unfold State.setCtx; split <;> rfl
@[simp] theorem State.setCtx_busy (s : State) (c : Context) : (s.setCtx c).busy = s.busy := by
  unfold State.setCtx; split <;> rfl
@[simp] theorem State.setCtx_cores (s : State) (c : Context) : (s.setCtx c).cores = s.cores := by
  unfold State.setCtx; split <;> rfl
@[simp] theorem State.setCtx_chans (s : State) (c : Context) : (s.setCtx c).chans = s.chans := by
  unfold State.setCtx; split <;> rfl
@[simp] theorem State.setCtx_crews (s : State) (c : Context) : (s.setCtx c).crews = s.crews := by
  unfold State.setCtx; split <;> rfl
@[simp] theorem State.setCtx_transit (s : State) (c : Context) : (s.setCtx c).transit = s.transit := by
  unfold State.setCtx; split <;> rfl
@[simp] theorem State.setCtx_msgs (s : State) (c : Context) : (s.setCtx c).msgs = s.msgs := by
  unfold State.setCtx; split <;> rfl
@[simp] theorem State.setCtx_replicas (s : State) (c : Context) : (s.setCtx c).replicas = s.replicas := by
  unfold State.setCtx; split <;> rfl
@[simp] theorem State.setCtx_forwards (s : State) (c : Context) : (s.setCtx c).forwards = s.forwards := by
  unfold State.setCtx; split <;> rfl
@[simp] theorem State.setCtx_tlb (s : State) (c : Context) : (s.setCtx c).tlb = s.tlb := by
  unfold State.setCtx; split <;> rfl
@[simp] theorem State.setCtx_tableCache (s : State) (c : Context) : (s.setCtx c).tableCache = s.tableCache := by
  unfold State.setCtx; split <;> rfl
@[simp] theorem State.setCtx_counters (s : State) (c : Context) : (s.setCtx c).counters = s.counters := by
  unfold State.setCtx; split <;> rfl
@[simp] theorem State.setCtx_poisoning (s : State) (c : Context) : (s.setCtx c).poisoning = s.poisoning := by
  unfold State.setCtx; split <;> rfl
@[simp] theorem State.setCtx_bar1 (s : State) (c : Context) : (s.setCtx c).bar1 = s.bar1 := by
  unfold State.setCtx; split <;> rfl
@[simp] theorem State.setCtx_queues (s : State) (c : Context) : (s.setCtx c).queues = s.queues := by
  unfold State.setCtx; split <;> rfl
@[simp] theorem State.setCtx_launches (s : State) (c : Context) : (s.setCtx c).launches = s.launches := by
  unfold State.setCtx; split <;> rfl
@[simp] theorem State.setCtx_graphs (s : State) (c : Context) : (s.setCtx c).graphs = s.graphs := by
  unfold State.setCtx; split <;> rfl
@[simp] theorem State.setCtx_records (s : State) (c : Context) : (s.setCtx c).records = s.records := by
  unfold State.setCtx; split <;> rfl
@[simp] theorem State.setCtx_queueJoins (s : State) (c : Context) : (s.setCtx c).queueJoins = s.queueJoins := by
  unfold State.setCtx; split <;> rfl
@[simp] theorem State.setCtx_resumes (s : State) (c : Context) : (s.setCtx c).resumes = s.resumes := by
  unfold State.setCtx; split <;> rfl
@[simp] theorem State.setCtx_legacy (s : State) (c : Context) : (s.setCtx c).legacy = s.legacy := by
  unfold State.setCtx; split <;> rfl
@[simp] theorem State.setCtx_invals (s : State) (c : Context) : (s.setCtx c).invals = s.invals := by
  unfold State.setCtx; split <;> rfl
@[simp] theorem State.setCtx_loads (s : State) (c : Context) : (s.setCtx c).loads = s.loads := by
  unfold State.setCtx; split <;> rfl
@[simp] theorem State.setCtx_halves (s : State) (c : Context) : (s.setCtx c).halves = s.halves := by
  unfold State.setCtx; split <;> rfl
@[simp] theorem State.setCtx_links (s : State) (c : Context) : (s.setCtx c).links = s.links := by
  unfold State.setCtx; split <;> rfl
@[simp] theorem State.setCtx_rings (s : State) (c : Context) : (s.setCtx c).rings = s.rings := by
  unfold State.setCtx; split <;> rfl
@[simp] theorem State.setCtx_edges (s : State) (c : Context) : (s.setCtx c).edges = s.edges := by
  unfold State.setCtx; split <;> rfl
@[simp] theorem State.setCtx_fencedBase (s : State) (c : Context) : (s.setCtx c).fencedBase = s.fencedBase := by
  unfold State.setCtx; split <;> rfl
@[simp] theorem State.setCtx_fencedDies (s : State) (c : Context) : (s.setCtx c).fencedDies = s.fencedDies := by
  unfold State.setCtx; split <;> rfl
@[simp] theorem State.setCtx_stoppedDies (s : State) (c : Context) : (s.setCtx c).stoppedDies = s.stoppedDies := by
  unfold State.setCtx; split <;> rfl
@[simp] theorem State.setCtx_offline (s : State) (c : Context) : (s.setCtx c).offline = s.offline := by
  unfold State.setCtx; split <;> rfl
@[simp] theorem State.setCtx_mgmtOffline (s : State) (c : Context) : (s.setCtx c).mgmtOffline = s.mgmtOffline := by
  unfold State.setCtx; split <;> rfl
@[simp] theorem State.setCtx_emptied (s : State) (c : Context) : (s.setCtx c).emptied = s.emptied := by
  unfold State.setCtx; split <;> rfl
@[simp] theorem State.setCtx_lost (s : State) (c : Context) : (s.setCtx c).lost = s.lost := by
  unfold State.setCtx; split <;> rfl
@[simp] theorem State.setCtx_fetchErrors (s : State) (c : Context) : (s.setCtx c).fetchErrors = s.fetchErrors := by
  unfold State.setCtx; split <;> rfl
@[simp] theorem State.setCtx_vectors (s : State) (c : Context) : (s.setCtx c).vectors = s.vectors := by
  unfold State.setCtx; split <;> rfl
@[simp] theorem State.setCtx_hostReplies (s : State) (c : Context) : (s.setCtx c).hostReplies = s.hostReplies := by
  unfold State.setCtx; split <;> rfl
@[simp] theorem State.setCtx_hostWrites (s : State) (c : Context) : (s.setCtx c).hostWrites = s.hostWrites := by
  unfold State.setCtx; split <;> rfl
@[simp] theorem State.setCtx_mgmtReplies (s : State) (c : Context) : (s.setCtx c).mgmtReplies = s.mgmtReplies := by
  unfold State.setCtx; split <;> rfl
@[simp] theorem State.setCtx_poisonLog (s : State) (c : Context) : (s.setCtx c).poisonLog = s.poisonLog := by
  unfold State.setCtx; split <;> rfl
@[simp] theorem State.setCtx_rlog (s : State) (c : Context) : (s.setCtx c).rlog = s.rlog := by
  unfold State.setCtx; split <;> rfl
@[simp] theorem State.setCtx_standby (s : State) (c : Context) : (s.setCtx c).standby = s.standby := by
  unfold State.setCtx; split <;> rfl
@[simp] theorem State.setCtx_standbyDown (s : State) (c : Context) : (s.setCtx c).standbyDown = s.standbyDown := by
  unfold State.setCtx; split <;> rfl
@[simp] theorem State.setCtx_firmware (s : State) (c : Context) : (s.setCtx c).firmware = s.firmware := by
  unfold State.setCtx; split <;> rfl
@[simp] theorem State.setCtx_throttled (s : State) (c : Context) : (s.setCtx c).throttled = s.throttled := by
  unfold State.setCtx; split <;> rfl
@[simp] theorem State.setCtx_turn (s : State) (c : Context) : (s.setCtx c).turn = s.turn := by
  unfold State.setCtx; split <;> rfl
@[simp] theorem State.setCtx_stalled (s : State) (c : Context) : (s.setCtx c).stalled = s.stalled := by
  unfold State.setCtx; split <;> rfl
@[simp] theorem State.setCtx_sched (s : State) (c : Context) : (s.setCtx c).sched = s.sched := by
  unfold State.setCtx; split <;> rfl
@[simp] theorem State.setCtx_nextMsg (s : State) (c : Context) : (s.setCtx c).nextMsg = s.nextMsg := by
  unfold State.setCtx; split <;> rfl
@[simp] theorem State.setCtx_nextSeq (s : State) (c : Context) : (s.setCtx c).nextSeq = s.nextSeq := by
  unfold State.setCtx; split <;> rfl
@[simp] theorem State.setCtx_free (s : State) (c : Context) : (s.setCtx c).free = s.free := by
  unfold State.setCtx; split <;> rfl
@[simp] theorem State.setCtx_choices (s : State) (c : Context) : (s.setCtx c).choices = s.choices := by
  unfold State.setCtx; split <;> rfl
@[simp] theorem State.setCtx_unread (s : State) (c : Context) : (s.setCtx c).unread = s.unread := by
  unfold State.setCtx; split <;> rfl
@[simp] theorem State.setCtx_framePool (s : State) (c : Context) : (s.setCtx c).framePool = s.framePool := by
  unfold State.setCtx; split <;> rfl
@[simp] theorem State.setCtx_homeRoom (s : State) (c : Context) : (s.setCtx c).homeRoom = s.homeRoom := by
  unfold State.setCtx; split <;> rfl
@[simp] theorem State.setCtx_loadPage (s : State) (c : Context) : (s.setCtx c).loadPage = s.loadPage := by
  unfold State.setCtx; split <;> rfl
@[simp] theorem State.setCtx_freePages (s : State) (c : Context) : (s.setCtx c).freePages = s.freePages := by
  unfold State.setCtx; split <;> rfl

/-! `State.dropCtx`. -/

@[simp] theorem State.dropCtx_mem (s : State) (k : Key) : (s.dropCtx k).mem = s.mem := by
  unfold State.dropCtx; split <;> rfl
@[simp] theorem State.dropCtx_md (s : State) (k : Key) : (s.dropCtx k).md = s.md := by
  unfold State.dropCtx; split <;> rfl
@[simp] theorem State.dropCtx_watches (s : State) (k : Key) : (s.dropCtx k).watches = s.watches := by
  unfold State.dropCtx; split <;> rfl
@[simp] theorem State.dropCtx_scratch (s : State) (k : Key) : (s.dropCtx k).scratch = s.scratch := by
  unfold State.dropCtx; split <;> rfl
@[simp] theorem State.dropCtx_acc (s : State) (k : Key) : (s.dropCtx k).acc = s.acc := by
  unfold State.dropCtx; split <;> rfl
@[simp] theorem State.dropCtx_spare (s : State) (k : Key) : (s.dropCtx k).spare = s.spare := by
  unfold State.dropCtx; split <;> rfl
@[simp] theorem State.dropCtx_cur (s : State) (k : Key) : (s.dropCtx k).cur = s.cur := by
  unfold State.dropCtx; split <;> rfl
@[simp] theorem State.dropCtx_cores (s : State) (k : Key) : (s.dropCtx k).cores = s.cores := by
  unfold State.dropCtx; split <;> rfl
@[simp] theorem State.dropCtx_chans (s : State) (k : Key) : (s.dropCtx k).chans = s.chans := by
  unfold State.dropCtx; split <;> rfl
@[simp] theorem State.dropCtx_crews (s : State) (k : Key) : (s.dropCtx k).crews = s.crews := by
  unfold State.dropCtx; split <;> rfl
@[simp] theorem State.dropCtx_transit (s : State) (k : Key) : (s.dropCtx k).transit = s.transit := by
  unfold State.dropCtx; split <;> rfl
@[simp] theorem State.dropCtx_msgs (s : State) (k : Key) : (s.dropCtx k).msgs = s.msgs := by
  unfold State.dropCtx; split <;> rfl
@[simp] theorem State.dropCtx_replicas (s : State) (k : Key) : (s.dropCtx k).replicas = s.replicas := by
  unfold State.dropCtx; split <;> rfl
@[simp] theorem State.dropCtx_forwards (s : State) (k : Key) : (s.dropCtx k).forwards = s.forwards := by
  unfold State.dropCtx; split <;> rfl
@[simp] theorem State.dropCtx_tlb (s : State) (k : Key) : (s.dropCtx k).tlb = s.tlb := by
  unfold State.dropCtx; split <;> rfl
@[simp] theorem State.dropCtx_tableCache (s : State) (k : Key) : (s.dropCtx k).tableCache = s.tableCache := by
  unfold State.dropCtx; split <;> rfl
@[simp] theorem State.dropCtx_counters (s : State) (k : Key) : (s.dropCtx k).counters = s.counters := by
  unfold State.dropCtx; split <;> rfl
@[simp] theorem State.dropCtx_poisoning (s : State) (k : Key) : (s.dropCtx k).poisoning = s.poisoning := by
  unfold State.dropCtx; split <;> rfl
@[simp] theorem State.dropCtx_bar1 (s : State) (k : Key) : (s.dropCtx k).bar1 = s.bar1 := by
  unfold State.dropCtx; split <;> rfl
@[simp] theorem State.dropCtx_queues (s : State) (k : Key) : (s.dropCtx k).queues = s.queues := by
  unfold State.dropCtx; split <;> rfl
@[simp] theorem State.dropCtx_launches (s : State) (k : Key) : (s.dropCtx k).launches = s.launches := by
  unfold State.dropCtx; split <;> rfl
@[simp] theorem State.dropCtx_graphs (s : State) (k : Key) : (s.dropCtx k).graphs = s.graphs := by
  unfold State.dropCtx; split <;> rfl
@[simp] theorem State.dropCtx_records (s : State) (k : Key) : (s.dropCtx k).records = s.records := by
  unfold State.dropCtx; split <;> rfl
@[simp] theorem State.dropCtx_queueJoins (s : State) (k : Key) : (s.dropCtx k).queueJoins = s.queueJoins := by
  unfold State.dropCtx; split <;> rfl
@[simp] theorem State.dropCtx_resumes (s : State) (k : Key) : (s.dropCtx k).resumes = s.resumes := by
  unfold State.dropCtx; split <;> rfl
@[simp] theorem State.dropCtx_legacy (s : State) (k : Key) : (s.dropCtx k).legacy = s.legacy := by
  unfold State.dropCtx; split <;> rfl
@[simp] theorem State.dropCtx_invals (s : State) (k : Key) : (s.dropCtx k).invals = s.invals := by
  unfold State.dropCtx; split <;> rfl
@[simp] theorem State.dropCtx_loads (s : State) (k : Key) : (s.dropCtx k).loads = s.loads := by
  unfold State.dropCtx; split <;> rfl
@[simp] theorem State.dropCtx_halves (s : State) (k : Key) : (s.dropCtx k).halves = s.halves := by
  unfold State.dropCtx; split <;> rfl
@[simp] theorem State.dropCtx_links (s : State) (k : Key) : (s.dropCtx k).links = s.links := by
  unfold State.dropCtx; split <;> rfl
@[simp] theorem State.dropCtx_rings (s : State) (k : Key) : (s.dropCtx k).rings = s.rings := by
  unfold State.dropCtx; split <;> rfl
@[simp] theorem State.dropCtx_edges (s : State) (k : Key) : (s.dropCtx k).edges = s.edges := by
  unfold State.dropCtx; split <;> rfl
@[simp] theorem State.dropCtx_fencedBase (s : State) (k : Key) : (s.dropCtx k).fencedBase = s.fencedBase := by
  unfold State.dropCtx; split <;> rfl
@[simp] theorem State.dropCtx_fencedDies (s : State) (k : Key) : (s.dropCtx k).fencedDies = s.fencedDies := by
  unfold State.dropCtx; split <;> rfl
@[simp] theorem State.dropCtx_stoppedDies (s : State) (k : Key) : (s.dropCtx k).stoppedDies = s.stoppedDies := by
  unfold State.dropCtx; split <;> rfl
@[simp] theorem State.dropCtx_offline (s : State) (k : Key) : (s.dropCtx k).offline = s.offline := by
  unfold State.dropCtx; split <;> rfl
@[simp] theorem State.dropCtx_mgmtOffline (s : State) (k : Key) : (s.dropCtx k).mgmtOffline = s.mgmtOffline := by
  unfold State.dropCtx; split <;> rfl
@[simp] theorem State.dropCtx_emptied (s : State) (k : Key) : (s.dropCtx k).emptied = s.emptied := by
  unfold State.dropCtx; split <;> rfl
@[simp] theorem State.dropCtx_lost (s : State) (k : Key) : (s.dropCtx k).lost = s.lost := by
  unfold State.dropCtx; split <;> rfl
@[simp] theorem State.dropCtx_fetchErrors (s : State) (k : Key) : (s.dropCtx k).fetchErrors = s.fetchErrors := by
  unfold State.dropCtx; split <;> rfl
@[simp] theorem State.dropCtx_vectors (s : State) (k : Key) : (s.dropCtx k).vectors = s.vectors := by
  unfold State.dropCtx; split <;> rfl
@[simp] theorem State.dropCtx_hostReplies (s : State) (k : Key) : (s.dropCtx k).hostReplies = s.hostReplies := by
  unfold State.dropCtx; split <;> rfl
@[simp] theorem State.dropCtx_hostWrites (s : State) (k : Key) : (s.dropCtx k).hostWrites = s.hostWrites := by
  unfold State.dropCtx; split <;> rfl
@[simp] theorem State.dropCtx_mgmtReplies (s : State) (k : Key) : (s.dropCtx k).mgmtReplies = s.mgmtReplies := by
  unfold State.dropCtx; split <;> rfl
@[simp] theorem State.dropCtx_poisonLog (s : State) (k : Key) : (s.dropCtx k).poisonLog = s.poisonLog := by
  unfold State.dropCtx; split <;> rfl
@[simp] theorem State.dropCtx_rlog (s : State) (k : Key) : (s.dropCtx k).rlog = s.rlog := by
  unfold State.dropCtx; split <;> rfl
@[simp] theorem State.dropCtx_standby (s : State) (k : Key) : (s.dropCtx k).standby = s.standby := by
  unfold State.dropCtx; split <;> rfl
@[simp] theorem State.dropCtx_standbyDown (s : State) (k : Key) : (s.dropCtx k).standbyDown = s.standbyDown := by
  unfold State.dropCtx; split <;> rfl
@[simp] theorem State.dropCtx_firmware (s : State) (k : Key) : (s.dropCtx k).firmware = s.firmware := by
  unfold State.dropCtx; split <;> rfl
@[simp] theorem State.dropCtx_throttled (s : State) (k : Key) : (s.dropCtx k).throttled = s.throttled := by
  unfold State.dropCtx; split <;> rfl
@[simp] theorem State.dropCtx_turn (s : State) (k : Key) : (s.dropCtx k).turn = s.turn := by
  unfold State.dropCtx; split <;> rfl
@[simp] theorem State.dropCtx_stalled (s : State) (k : Key) : (s.dropCtx k).stalled = s.stalled := by
  unfold State.dropCtx; split <;> rfl
@[simp] theorem State.dropCtx_sched (s : State) (k : Key) : (s.dropCtx k).sched = s.sched := by
  unfold State.dropCtx; split <;> rfl
@[simp] theorem State.dropCtx_nextMsg (s : State) (k : Key) : (s.dropCtx k).nextMsg = s.nextMsg := by
  unfold State.dropCtx; split <;> rfl
@[simp] theorem State.dropCtx_nextSeq (s : State) (k : Key) : (s.dropCtx k).nextSeq = s.nextSeq := by
  unfold State.dropCtx; split <;> rfl
@[simp] theorem State.dropCtx_free (s : State) (k : Key) : (s.dropCtx k).free = s.free := by
  unfold State.dropCtx; split <;> rfl
@[simp] theorem State.dropCtx_choices (s : State) (k : Key) : (s.dropCtx k).choices = s.choices := by
  unfold State.dropCtx; split <;> rfl
@[simp] theorem State.dropCtx_unread (s : State) (k : Key) : (s.dropCtx k).unread = s.unread := by
  unfold State.dropCtx; split <;> rfl
@[simp] theorem State.dropCtx_framePool (s : State) (k : Key) : (s.dropCtx k).framePool = s.framePool := by
  unfold State.dropCtx; split <;> rfl
@[simp] theorem State.dropCtx_homeRoom (s : State) (k : Key) : (s.dropCtx k).homeRoom = s.homeRoom := by
  unfold State.dropCtx; split <;> rfl
@[simp] theorem State.dropCtx_loadPage (s : State) (k : Key) : (s.dropCtx k).loadPage = s.loadPage := by
  unfold State.dropCtx; split <;> rfl
@[simp] theorem State.dropCtx_freePages (s : State) (k : Key) : (s.dropCtx k).freePages = s.freePages := by
  unfold State.dropCtx; split <;> rfl

/-! `State.modCtx`. -/

@[simp] theorem State.modCtx_mem (s : State) (k : Key) (f : Context → Context) : (s.modCtx k f).mem = s.mem := by
  unfold State.modCtx; split <;> simp
@[simp] theorem State.modCtx_md (s : State) (k : Key) (f : Context → Context) : (s.modCtx k f).md = s.md := by
  unfold State.modCtx; split <;> simp
@[simp] theorem State.modCtx_watches (s : State) (k : Key) (f : Context → Context) : (s.modCtx k f).watches = s.watches := by
  unfold State.modCtx; split <;> simp
@[simp] theorem State.modCtx_scratch (s : State) (k : Key) (f : Context → Context) : (s.modCtx k f).scratch = s.scratch := by
  unfold State.modCtx; split <;> simp
@[simp] theorem State.modCtx_acc (s : State) (k : Key) (f : Context → Context) : (s.modCtx k f).acc = s.acc := by
  unfold State.modCtx; split <;> simp
@[simp] theorem State.modCtx_spare (s : State) (k : Key) (f : Context → Context) : (s.modCtx k f).spare = s.spare := by
  unfold State.modCtx; split <;> simp
@[simp] theorem State.modCtx_busy (s : State) (k : Key) (f : Context → Context) : (s.modCtx k f).busy = s.busy := by
  unfold State.modCtx; split <;> simp
@[simp] theorem State.modCtx_cores (s : State) (k : Key) (f : Context → Context) : (s.modCtx k f).cores = s.cores := by
  unfold State.modCtx; split <;> simp
@[simp] theorem State.modCtx_chans (s : State) (k : Key) (f : Context → Context) : (s.modCtx k f).chans = s.chans := by
  unfold State.modCtx; split <;> simp
@[simp] theorem State.modCtx_crews (s : State) (k : Key) (f : Context → Context) : (s.modCtx k f).crews = s.crews := by
  unfold State.modCtx; split <;> simp
@[simp] theorem State.modCtx_transit (s : State) (k : Key) (f : Context → Context) : (s.modCtx k f).transit = s.transit := by
  unfold State.modCtx; split <;> simp
@[simp] theorem State.modCtx_msgs (s : State) (k : Key) (f : Context → Context) : (s.modCtx k f).msgs = s.msgs := by
  unfold State.modCtx; split <;> simp
@[simp] theorem State.modCtx_replicas (s : State) (k : Key) (f : Context → Context) : (s.modCtx k f).replicas = s.replicas := by
  unfold State.modCtx; split <;> simp
@[simp] theorem State.modCtx_forwards (s : State) (k : Key) (f : Context → Context) : (s.modCtx k f).forwards = s.forwards := by
  unfold State.modCtx; split <;> simp
@[simp] theorem State.modCtx_tlb (s : State) (k : Key) (f : Context → Context) : (s.modCtx k f).tlb = s.tlb := by
  unfold State.modCtx; split <;> simp
@[simp] theorem State.modCtx_tableCache (s : State) (k : Key) (f : Context → Context) : (s.modCtx k f).tableCache = s.tableCache := by
  unfold State.modCtx; split <;> simp
@[simp] theorem State.modCtx_counters (s : State) (k : Key) (f : Context → Context) : (s.modCtx k f).counters = s.counters := by
  unfold State.modCtx; split <;> simp
@[simp] theorem State.modCtx_poisoning (s : State) (k : Key) (f : Context → Context) : (s.modCtx k f).poisoning = s.poisoning := by
  unfold State.modCtx; split <;> simp
@[simp] theorem State.modCtx_bar1 (s : State) (k : Key) (f : Context → Context) : (s.modCtx k f).bar1 = s.bar1 := by
  unfold State.modCtx; split <;> simp
@[simp] theorem State.modCtx_queues (s : State) (k : Key) (f : Context → Context) : (s.modCtx k f).queues = s.queues := by
  unfold State.modCtx; split <;> simp
@[simp] theorem State.modCtx_launches (s : State) (k : Key) (f : Context → Context) : (s.modCtx k f).launches = s.launches := by
  unfold State.modCtx; split <;> simp
@[simp] theorem State.modCtx_graphs (s : State) (k : Key) (f : Context → Context) : (s.modCtx k f).graphs = s.graphs := by
  unfold State.modCtx; split <;> simp
@[simp] theorem State.modCtx_records (s : State) (k : Key) (f : Context → Context) : (s.modCtx k f).records = s.records := by
  unfold State.modCtx; split <;> simp
@[simp] theorem State.modCtx_queueJoins (s : State) (k : Key) (f : Context → Context) : (s.modCtx k f).queueJoins = s.queueJoins := by
  unfold State.modCtx; split <;> simp
@[simp] theorem State.modCtx_resumes (s : State) (k : Key) (f : Context → Context) : (s.modCtx k f).resumes = s.resumes := by
  unfold State.modCtx; split <;> simp
@[simp] theorem State.modCtx_legacy (s : State) (k : Key) (f : Context → Context) : (s.modCtx k f).legacy = s.legacy := by
  unfold State.modCtx; split <;> simp
@[simp] theorem State.modCtx_invals (s : State) (k : Key) (f : Context → Context) : (s.modCtx k f).invals = s.invals := by
  unfold State.modCtx; split <;> simp
@[simp] theorem State.modCtx_loads (s : State) (k : Key) (f : Context → Context) : (s.modCtx k f).loads = s.loads := by
  unfold State.modCtx; split <;> simp
@[simp] theorem State.modCtx_halves (s : State) (k : Key) (f : Context → Context) : (s.modCtx k f).halves = s.halves := by
  unfold State.modCtx; split <;> simp
@[simp] theorem State.modCtx_links (s : State) (k : Key) (f : Context → Context) : (s.modCtx k f).links = s.links := by
  unfold State.modCtx; split <;> simp
@[simp] theorem State.modCtx_rings (s : State) (k : Key) (f : Context → Context) : (s.modCtx k f).rings = s.rings := by
  unfold State.modCtx; split <;> simp
@[simp] theorem State.modCtx_edges (s : State) (k : Key) (f : Context → Context) : (s.modCtx k f).edges = s.edges := by
  unfold State.modCtx; split <;> simp
@[simp] theorem State.modCtx_fencedBase (s : State) (k : Key) (f : Context → Context) : (s.modCtx k f).fencedBase = s.fencedBase := by
  unfold State.modCtx; split <;> simp
@[simp] theorem State.modCtx_fencedDies (s : State) (k : Key) (f : Context → Context) : (s.modCtx k f).fencedDies = s.fencedDies := by
  unfold State.modCtx; split <;> simp
@[simp] theorem State.modCtx_stoppedDies (s : State) (k : Key) (f : Context → Context) : (s.modCtx k f).stoppedDies = s.stoppedDies := by
  unfold State.modCtx; split <;> simp
@[simp] theorem State.modCtx_offline (s : State) (k : Key) (f : Context → Context) : (s.modCtx k f).offline = s.offline := by
  unfold State.modCtx; split <;> simp
@[simp] theorem State.modCtx_mgmtOffline (s : State) (k : Key) (f : Context → Context) : (s.modCtx k f).mgmtOffline = s.mgmtOffline := by
  unfold State.modCtx; split <;> simp
@[simp] theorem State.modCtx_emptied (s : State) (k : Key) (f : Context → Context) : (s.modCtx k f).emptied = s.emptied := by
  unfold State.modCtx; split <;> simp
@[simp] theorem State.modCtx_lost (s : State) (k : Key) (f : Context → Context) : (s.modCtx k f).lost = s.lost := by
  unfold State.modCtx; split <;> simp
@[simp] theorem State.modCtx_fetchErrors (s : State) (k : Key) (f : Context → Context) : (s.modCtx k f).fetchErrors = s.fetchErrors := by
  unfold State.modCtx; split <;> simp
@[simp] theorem State.modCtx_vectors (s : State) (k : Key) (f : Context → Context) : (s.modCtx k f).vectors = s.vectors := by
  unfold State.modCtx; split <;> simp
@[simp] theorem State.modCtx_hostReplies (s : State) (k : Key) (f : Context → Context) : (s.modCtx k f).hostReplies = s.hostReplies := by
  unfold State.modCtx; split <;> simp
@[simp] theorem State.modCtx_hostWrites (s : State) (k : Key) (f : Context → Context) : (s.modCtx k f).hostWrites = s.hostWrites := by
  unfold State.modCtx; split <;> simp
@[simp] theorem State.modCtx_mgmtReplies (s : State) (k : Key) (f : Context → Context) : (s.modCtx k f).mgmtReplies = s.mgmtReplies := by
  unfold State.modCtx; split <;> simp
@[simp] theorem State.modCtx_poisonLog (s : State) (k : Key) (f : Context → Context) : (s.modCtx k f).poisonLog = s.poisonLog := by
  unfold State.modCtx; split <;> simp
@[simp] theorem State.modCtx_rlog (s : State) (k : Key) (f : Context → Context) : (s.modCtx k f).rlog = s.rlog := by
  unfold State.modCtx; split <;> simp
@[simp] theorem State.modCtx_standby (s : State) (k : Key) (f : Context → Context) : (s.modCtx k f).standby = s.standby := by
  unfold State.modCtx; split <;> simp
@[simp] theorem State.modCtx_standbyDown (s : State) (k : Key) (f : Context → Context) : (s.modCtx k f).standbyDown = s.standbyDown := by
  unfold State.modCtx; split <;> simp
@[simp] theorem State.modCtx_firmware (s : State) (k : Key) (f : Context → Context) : (s.modCtx k f).firmware = s.firmware := by
  unfold State.modCtx; split <;> simp
@[simp] theorem State.modCtx_throttled (s : State) (k : Key) (f : Context → Context) : (s.modCtx k f).throttled = s.throttled := by
  unfold State.modCtx; split <;> simp
@[simp] theorem State.modCtx_turn (s : State) (k : Key) (f : Context → Context) : (s.modCtx k f).turn = s.turn := by
  unfold State.modCtx; split <;> simp
@[simp] theorem State.modCtx_stalled (s : State) (k : Key) (f : Context → Context) : (s.modCtx k f).stalled = s.stalled := by
  unfold State.modCtx; split <;> simp
@[simp] theorem State.modCtx_sched (s : State) (k : Key) (f : Context → Context) : (s.modCtx k f).sched = s.sched := by
  unfold State.modCtx; split <;> simp
@[simp] theorem State.modCtx_nextMsg (s : State) (k : Key) (f : Context → Context) : (s.modCtx k f).nextMsg = s.nextMsg := by
  unfold State.modCtx; split <;> simp
@[simp] theorem State.modCtx_nextSeq (s : State) (k : Key) (f : Context → Context) : (s.modCtx k f).nextSeq = s.nextSeq := by
  unfold State.modCtx; split <;> simp
@[simp] theorem State.modCtx_free (s : State) (k : Key) (f : Context → Context) : (s.modCtx k f).free = s.free := by
  unfold State.modCtx; split <;> simp
@[simp] theorem State.modCtx_choices (s : State) (k : Key) (f : Context → Context) : (s.modCtx k f).choices = s.choices := by
  unfold State.modCtx; split <;> simp
@[simp] theorem State.modCtx_unread (s : State) (k : Key) (f : Context → Context) : (s.modCtx k f).unread = s.unread := by
  unfold State.modCtx; split <;> simp
@[simp] theorem State.modCtx_framePool (s : State) (k : Key) (f : Context → Context) : (s.modCtx k f).framePool = s.framePool := by
  unfold State.modCtx; split <;> simp
@[simp] theorem State.modCtx_homeRoom (s : State) (k : Key) (f : Context → Context) : (s.modCtx k f).homeRoom = s.homeRoom := by
  unfold State.modCtx; split <;> simp
@[simp] theorem State.modCtx_loadPage (s : State) (k : Key) (f : Context → Context) : (s.modCtx k f).loadPage = s.loadPage := by
  unfold State.modCtx; split <;> simp
@[simp] theorem State.modCtx_freePages (s : State) (k : Key) (f : Context → Context) : (s.modCtx k f).freePages = s.freePages := by
  unfold State.modCtx; split <;> simp

/-! What the updates write. -/

@[simp] theorem State.setCore_cores (s : State) (c : Core) : (s.setCore c).cores = putCore s.cores c := rfl
@[simp] theorem State.setMd_md (s : State) (key : Nat) (b : BitVec 8) : (s.setMd key b).md = s.md.write (key / 128) b := rfl
@[simp] theorem State.raiseVector_vectors (s : State) (n : Nat) :
    (s.raiseVector n).vectors = s.vectors ||| ((1 : BitVec 66) <<< n) := rfl
@[simp] theorem State.reply_mgmtReplies (s : State) (ws : List Word) : (s.reply ws).mgmtReplies = s.mgmtReplies ++ ws := rfl

theorem putCore_find (c : Core) : ∀ l : List Core, (putCore l c).find? (fun x => x.num == c.num) = some c
  | [] => by simp [putCore]
  | x :: r => by
    unfold putCore
    split
    · simp
    · rename_i h
      rw [List.find?_cons_of_neg (by simpa using h)]
      exact putCore_find c r

theorem putCore_find_other (c : Core) {n : Nat} (h : c.num ≠ n) :
    ∀ l : List Core, (putCore l c).find? (fun x => x.num == n) = l.find? (fun x => x.num == n)
  | [] => by simp [putCore, h]
  | x :: r => by
    unfold putCore
    split
    · rename_i hx
      rw [List.find?_cons_of_neg (by simpa using h), List.find?_cons_of_neg (by simpa [hx] using h)]
    · by_cases hx : x.num = n
      · rw [List.find?_cons_of_pos (by simpa using hx), List.find?_cons_of_pos (by simpa using hx)]
      · rw [List.find?_cons_of_neg (by simpa using hx), List.find?_cons_of_neg (by simpa using hx)]
        exact putCore_find_other c h r

/-- A core put back is the core found. -/
theorem State.core_setCore (s : State) (c : Core) : (s.setCore c).core c.num = c := by
  simp [State.core, putCore_find]

/-- The other cores are as before. -/
theorem State.core_setCore_other (s : State) (c : Core) {n : Nat} (h : c.num ≠ n) : (s.setCore c).core n = s.core n := by
  simp [State.core, putCore_find_other c h]

theorem State.core_num (s : State) (n : Nat) : (s.core n).num = n := by
  unfold State.core
  cases h : s.cores.find? (fun c => c.num == n) with
  | none => rfl
  | some c => simpa using List.find?_some h

theorem putCtx_find (c : Context) : ∀ l : List Context, (putCtx l c).find? (fun x => x.key == c.key) = some c
  | [] => by simp [putCtx]
  | x :: r => by
    unfold putCtx
    split
    · simp
    · rename_i h
      rw [List.find?_cons_of_neg (by simpa using h)]
      exact putCtx_find c r

/-- A context put back is the context found. -/
theorem State.ctx_setCtx (s : State) (c : Context) : (s.setCtx c).ctx? c.key = some c := by
  by_cases h : (s.busy && s.cur.key == c.key) = true
  · have hb : s.busy = true := (Bool.and_eq_true_iff.1 h).1
    have e : s.setCtx c = { s with cur := c } := by unfold State.setCtx; rw [if_pos h]
    rw [e]
    unfold State.ctx?
    rw [if_pos (by simp [hb])]
  · have e : s.setCtx c = { s with ctxs := putCtx s.ctxs c } := by unfold State.setCtx; rw [if_neg h]
    rw [e]
    unfold State.ctx?
    rw [if_neg h]
    exact putCtx_find c s.ctxs

end Sys2Proof.Machine
end

