-- ==== Sys2Proof/Tests/Slice0.lean ====
section
/-! SUPPORT. Tests: ill-formed terms are refused; words written out from the spec's encodings decode; and for every statement
of Certificates/Slice0 a state and operands that meet its hypotheses. -/
namespace Sys2Proof.Tests
open Sys2Proof.Machine Sys2Proof.Claims
set_option linter.unusedVariables false
set_option Elab.async false

/-- Whether an effect succeeds. -/
def works {α : Type} (m : M α) (s : State) : Bool :=
  match m s with
  | .ok _ => true
  | .error _ => false

/-- What a successful effect answers. -/
def out {α : Type} (m : M α) (s : State) (h : works m s = true) : α :=
  match e : m s with
  | .ok p => p.1
  | .error _ => absurd h (by simp [works, e])

/-- The state an effect leaves. -/
def after {α : Type} (m : M α) (s : State) : State :=
  match m s with
  | .ok p => p.2
  | .error _ => s

theorem ran {α : Type} {m : M α} {s : State} (h : works m s = true) : Gives m s (out m s h) (after m s) := by
  unfold Gives out after
  split
  · rename_i p e
    rw [e]
  · rename_i e
    simp [works, e] at h

theorem did {m : M Unit} {s : State} (h : works m s = true) : Gives m s () (after m s) := ran h

/-- Whether an effect succeeds with the answer `x`. -/
def answers {α : Type} [DecidableEq α] (m : M α) (s : State) (x : α) : Bool :=
  match m s with
  | .ok p => decide (p.1 = x)
  | .error _ => false

theorem ranAs {α : Type} [DecidableEq α] {m : M α} {s : State} {x : α} (h : answers m s x = true) :
    Gives m s x (after m s) := by
  unfold answers at h
  unfold Gives after
  split at h
  · rename_i p e
    rw [e]
    simp at h
    simp [← h]
  · simp at h

/-- Whether an effect succeeds with the answer `x` and changes nothing. -/
def keeps {α : Type} [DecidableEq α] (m : M α) (s : State) (x : α) : Bool :=
  match m s with
  | .ok p => decide (p.1 = x ∧ p.2 = s)
  | .error _ => false

theorem kept {α : Type} [DecidableEq α] {m : M α} {s : State} {x : α} (h : keeps m s x = true) : Gives m s x s := by
  unfold keeps at h
  unfold Gives
  split at h
  · rename_i p e
    obtain ⟨h1, h2⟩ := of_decide_eq_true h
    rw [e, ← h1]
    exact congrArg (fun z => Except.ok (p.1, z)) h2
  · simp at h

/-- A context that runs in slot A of core 0, its g1 and up holding `g`. -/
def runner (g : List Word) : Context :=
  { Context.empty with
    key := { asid := 1, ctxid := 2 }
    slot := some .a
    status := .running
    regs := { Regs.zero with pc := 0x10000, g := Vector.ofFn (fun i : Fin 32 => { bits := (0 :: g).getD i.val 0 }) }
    foot := 16
    tiles := 4
    tileMap := [0, 1, 2, 3]
    launch := 1 }

/-- The package with one context, which has the turn. -/
def with1 (c : Context) : State := { State.reset with cur := c, busy := true }

/-- Registers g1 = 1, g2 = 2, g3 = 3. -/
def plainState : State := with1 (runner [1, 2, 3])


/-- A channel of numbered width and room between this context and another. -/
def theChannel (wide : Bool) (slots : Nat) (items : List Vec) : Channel :=
  { id := 7, crew := 1, src := { asid := 1, ctxid := 2 }, dst := { asid := 1, ctxid := 3 }, slots := slots, wide := wide
    area := 0x8000, items := items }

/-- A context whose ports are all one end of that channel. -/
def chanState (sending wide : Bool) (slots : Nat) (items : List Vec) : State :=
  let c : Context := { runner [1, 2, 3] with ports := Vector.replicate 8 (some { chan := 7, sending := sending }), crew := some 1 }
  { with1 c with chans := [theChannel wide slots items] }

/-- A system context. -/
def sysRunner (g : List Word) : Context := { runner g with regs := { (runner g).regs with status := 0x8000 } }

/-- A context in slot H. -/
def handler (g : List Word) : Context := { sysRunner g with slot := some .h }

/-- A context whose next instruction is guarded off. -/
def guarded : State := with1 { runner [1, 2, 3] with unit := some { saved := Regs.zero, guard := some false } }

/-- A page of 4 KiB at a physical address. -/
def leafAt (pa ty : Nat) : Leaf :=
  { pa := pa, size := 4096, ty := ty, arg := 0, gen := 0, w := true, x := true, sys := false, cnt := false, jblock := false
    remote := false, pkg := 0 }

/-- The context with two translations at hand: its code at 0x10000, and a page of type `ty` at 0x20000. -/
def paged (c : Context) (ty : Nat) : State :=
  { with1 c with
    tlb := [{ level := 0, unit := 0, asid := 1, page := 0x20000, leaf := leafAt 0x40000 ty },
            { level := 0, unit := 0, asid := 1, page := 0x10000, leaf := leafAt 0x30000 1 }]
    md := [(0x600, 2)]
    mem := { cells := [(0x30000, 10), (0x30004, 10), (0x30040, 1)] } }

/-- A context with every target register prepared for its own code. -/
def ready (g : List Word) : Context :=
  { runner g with regs := { (runner g).regs with b := Vector.replicate 8 { addr := 0x10000, prepared := true } } }

/-- The state a joining instruction begins from. -/
def releasedState (rel : Bool) (s : State) : State := if rel then s.drainHeld s.cur.core (Held.ofCtx s.cur.key) else s

theorem released {rel : Bool} {s : State} (h : ∀ o ∈ (releasedState true s).cur.outs, o.store = true)
    (hp : (releasedState true s).cur.posted = []) : Released rel s (releasedState rel s) := by
  cases rel
  · rfl
  · exact ⟨⟨rfl, fun o ho => ⟨h o ho, rfl⟩⟩, hp⟩


/-- Whether an effect succeeds with something. -/
def takes {α : Type} (m : M (Option α)) (s : State) : Bool :=
  match m s with
  | .ok (some _, _) => true
  | _ => false

/-- What it is. -/
def outSome {α : Type} (m : M (Option α)) (s : State) (h : takes m s = true) : α :=
  match e : m s with
  | .ok (some x, _) => x
  | .ok (none, _) => absurd h (by simp [takes, e])
  | .error _ => absurd h (by simp [takes, e])

theorem ranSome {α : Type} {m : M (Option α)} {s : State} (h : takes m s = true) :
    Gives m s (some (outSome m s h)) (after m s) := by
  unfold Gives outSome after
  split
  · rename_i e
    rw [e]
  · rename_i e
    simp [takes, e] at h
  · rename_i e
    simp [takes, e] at h

/-- A context under a VGUARD of the first lane. -/
def oneLane (g : List Word) : Context := { runner g with unit := some { saved := Regs.zero, lanes := some 1 } }

/-- A context with the scratchpad window's base in g1. -/
def sliceState : State := with1 (oneLane [0x7FFFFFE00000, 0x40])

theorem acknowledged {stores : Bool} {s : State}
    (h : ∀ o ∈ (s.drainHeld s.cur.core (Held.ofCtx s.cur.key)).cur.outs, o.store = true ∧ stores = false) :
    Acknowledged stores s (s.drainHeld s.cur.core (Held.ofCtx s.cur.key)) := ⟨rfl, h⟩

/-- A record of zeros. -/
def aRecord : TaskRec := { asid := 1, launch := 1, words := Vector.replicate 8 0 }

/-- A state whose context sends the record at the beginning of its slice to core 5, whose inboxes may be full. -/
def sendState (high full : Bool) : State :=
  { with1 (runner [5, 0x7FFFFFE00000]) with
    scratch := { cells := if high then [(6, 1)] else [] }
    cores := if full then [{ num := 5, inbox := List.replicate 64 aRecord, high := List.replicate 32 aRecord }] else [] }

/-- Items of which at least one has arrived, however many are under way. -/
def someItems : List Vec := List.replicate (Config.inFlight 0 + 1) { bits := 5 }

theorem someItems_seen : 0 < someItems.length - Config.inFlight 0 := by simp [someItems]

/-- A join held in the combining buffer of core 0, to a cell whose home is a memory die, by the first access of `runner`. -/
def heldJoin : Held :=
  { req := { cell := 0x40000, width := 64, ty := 3, arg := 0, val := 1, tags := [{ who := .ctx { asid := 1, ctxid := 2 } 0, va := 0x20000 }] }
    dst := .die 0 0, cnt := false, asid := 1, va := 0x20000, gen := 0 }

theorem unhindered {id : Option Nat} {ps : List Nat} {k : CmdKind} {s : State} (h : s.cur.cmds = []) :
    Unhindered id ps k s := by
  refine ⟨fun n m _ e => ?_, fun m e => ?_, fun m e => ?_⟩
  · simp [Context.holder, h] at e
  · simp [Context.bound, Context.holder, h] at e
  · simp [h] at e

theorem noneFailed {ps : List Nat} {s : State} (h : s.cur.cmds = []) : NoneFailed ps s := by
  intro m e
  simp [h] at e

/-- A context whose four copy sets are the same. -/
def copier (x y : Word) (g : List Word) : Context := { runner g with copySets := Vector.replicate 4 (x, y) }

/-- A view of one row of one element. -/
def aView : BitVec 256 := BitVec.ofNat 256 (2 ^ 24 + 2 ^ 40 + 2 ^ 64 + 17 * 2 ^ 80 + 17 * 2 ^ 88 + 2 ^ 104)

/-- A slice that begins with that view. -/
def viewState (g : List Word) : State :=
  { with1 { runner g with views := Vector.replicate 8 aView } with
    scratch := { cells := [(3, 1), (5, 1), (8, 1), (10, 17), (11, 17), (13, 1)] } }

/-- A lamp bank configured at the beginning of the slice, THETA 1. -/
def lampState (g : List Word) : State :=
  { with1 { runner g with lampCfg := #v[some 0, none, none, none, none, none, none, none, none, none, none, none, none, none, none, none] } with
    scratch := { cells := [(4, 1), (40, 1)] } }

/-- Whether an outcome is a next state. -/
def goes (o : Host.Outcome State Fault Refusal) : Bool :=
  match o with
  | .next _ => true
  | _ => false

/-- That state. -/
def gone (o : Host.Outcome State Fault Refusal) : State :=
  match o with
  | .next t => t
  | _ => State.reset

theorem went {o : Host.Outcome State Fault Refusal} (h : goes o = true) : o = .next (gone o) := by
  cases o with
  | next t => rfl
  | fault f => simp [goes] at h
  | refused r => simp [goes] at h

/-- Whether an effect answers `.ok`. -/
def fine {ε α : Type} (m : M (Except ε α)) (s : State) : Bool :=
  match m s with
  | .ok (.ok _, _) => true
  | _ => false

/-- What it answers. -/
def outOk {ε α : Type} (m : M (Except ε α)) (s : State) (h : fine m s = true) : α :=
  match e : m s with
  | .ok (.ok x, _) => x
  | .ok (.error _, _) => absurd h (by simp [fine, e])
  | .error _ => absurd h (by simp [fine, e])

theorem ranOk {ε α : Type} {m : M (Except ε α)} {s : State} (h : fine m s = true) :
    Gives m s (.ok (outOk m s h)) (after m s) := by
  unfold Gives outOk after
  split
  · rename_i e
    rw [e]
  · rename_i e
    simp [fine, e] at h
  · rename_i e
    simp [fine, e] at h

/-- Whether an effect answers an error, not a fault. -/
def failing {ε α : Type} (m : M (Except ε α)) (s : State) : Bool :=
  match m s with
  | .ok (.error _, _) => true
  | _ => false

/-- Which. -/
def outErr {ε α : Type} (m : M (Except ε α)) (s : State) (h : failing m s = true) : ε :=
  match e : m s with
  | .ok (.error x, _) => x
  | .ok (.ok _, _) => absurd h (by simp [failing, e])
  | .error _ => absurd h (by simp [failing, e])

theorem ranErr {ε α : Type} {m : M (Except ε α)} {s : State} (h : failing m s = true) :
    Gives m s (.error (outErr m s h)) (after m s) := by
  unfold Gives outErr after
  split
  · rename_i e
    rw [e]
  · rename_i e
    simp [failing, e] at h
  · rename_i e
    simp [failing, e] at h

/-- A command of a kind, with an id. -/
def aCmd (id : Nat) (k : CmdKind) (st : CmdState) : Cmd :=
  { seq := id, id := some id, kind := k, preds := [], pc := 0x10000, state := st, stamp := id }

/-- A package with contexts, none of which has the turn. -/
def holding (cs : List Context) : State := { State.reset with ctxs := cs }

/-- The key of `runner`. -/
def aKey : Key := { asid := 1, ctxid := 2 }

/-- A stopped context, with its reason. -/
def stoppedFor (x : StopRec) : Context := { runner [] with status := .stopped, stop := some x }

/-- A TRANSLATION fault of a page. -/
def pageMiss : FaultInfo := { code := .translation, addr := 0x20000, lo := 0x20000, size := 4096 }

/-- A record of a fault, kind 0. -/
def aRecordOf (f : FaultInfo) : FaultRec := { id := 1, asid := 1, ctxid := 2, kind := 0, info := f, pc := 0x10000 }

/-- A request at the port of memory die 0 where it is performed. -/
def request (b : Body) : Msg := { id := 0, src := .core 0, dst := .die 0 0, body := b, loc := .arrived }

/-- A package with one message. -/
def mailed (x : Msg) : State := { State.reset with msgs := [x], nextMsg := 1 }

/-- Whom an access of `runner` answers to. -/
def aTag : Tag := { who := .ctx aKey 0, va := 0x20000 }

/-- A join of 5 into the cell at 0x40000. -/
def aJoin (ty w : Nat) (mark : Bool) : JoinReq :=
  { cell := 0x40000, width := w, ty := ty, arg := 0, val := 5, mark := mark, tags := [aTag] }

/-- A package with that join at its home, whose line has a metadata byte. -/
def joining (ty w : Nat) (mark : Bool) (md : Byte) : State :=
  { mailed (request (.join (aJoin ty w mark))) with md := if md = 0 then [] else [(0x800, md)] }

/-- A request at its home, whose line at 0x40000 has a metadata byte. -/
def filling (b : Body) (md : Byte) : State := { mailed (request b) with md := if md = 0 then [] else [(0x800, md)] }

/-- A message from core 0 to memory die 0. -/
def mail (b : Body) (l : Loc) : Msg := { id := 0, src := .core 0, dst := .die 0 0, body := b, loc := l }

/-- A message from core 0 to memory die 2, of another base die. -/
def mailFar (b : Body) (l : Loc) : Msg := { id := 0, src := .core 0, dst := .die 2 0, body := b, loc := l }

/-- A load of the line at 0x40000. -/
def aLoad : Body := .load 0x800 0 (.ctx aKey 0)

/-- A message on its way, to other packages. -/
def abroad : Msg := { id := 0, src := .core 0, dst := .remote 5 0, body := aLoad, loc := .link 0 }

/-- A copy of one row of 128 bytes from the beginning of the slice. -/
def aCopy (dst : BitVec 48) : CmdKind := .ccopy 0x1000080 0 0x7FFFFFE00000 dst false

/-- Its one unit. -/
def aUnit (dst : Nat) : CopyUnit := { row := 0, src := 0x7FFFFFE00000, dst := dst, n := 128, dn := 128 }

/-- A context with one command. -/
def commanding (k : CmdKind) (st : CmdState) : Context := { runner [] with cmds := [aCmd 1 k st] }

/-- A response with the line it carries, as a gateway sees it. -/
def reply (b : Body) : Msg :=
  { id := 0, src := .die 2 0, dst := .core 0, body := b, loc := .gate 0
    snap := some { line := 0x800, ty := 3, data := 0, marks := 0, md := mdOf false 3 false 2 } }

/-- A replica of the line at 0x40000, which has width 64 and holds 5. -/
def aReplica : Replica :=
  { gate := 0, snap := { line := 0x800, ty := 3, data := 5, marks := 0, md := mdOf false 3 false 2 }, gen := 0 }

/-- A spark to tile 0 of core 0, emitted by the command of `runner`. -/
def aSpark (target : BitVec 26) : Spark :=
  { target := target, key := none, weight := 1, step := 0, emitter := aKey, seq := 1, order := 1 }

/-- An invalidation that waits for message 0. -/
def anInval : Inval := { id := 1, by_ := some aKey, asid := 1, lo := 0, size := 4096, l1Only := false, msgs := [0], outs := [] }

/-- Whether an effect answers `.ok x`. -/
def fineAs {ε α : Type} [DecidableEq α] (m : M (Except ε α)) (s : State) (x : α) : Bool :=
  match m s with
  | .ok (.ok y, _) => decide (y = x)
  | _ => false

theorem ranOkAs {ε α : Type} [DecidableEq α] {m : M (Except ε α)} {s : State} {x : α} (h : fineAs m s x = true) :
    Gives m s (.ok x) (after m s) := by
  unfold fineAs at h
  unfold Gives after
  split at h
  · rename_i e
    rw [e]
    simp at h
    simp [← h]
  · simp at h

/-- A live launch of queue 0. -/
def aLaunch : Launch := { id := 1, queue := some 0, tag := 0, mode := 0, asid := 1, kind := 1 }

/-- A node, ready to run. -/
def aNode (st : NodeState) : GNode := { idx := 0, pending := 0, anyRun := true, state := st }

/-- A node that waits for another. -/
def secondNode : GNode := { idx := 1, pending := 1 }

/-- A graph of two nodes at 0x10000. -/
def aGraph (y : GNode) : Graph := { id := 1, launch := 1, base := 0x10000, count := 2, walker := 0, nodes := [y, secondNode] }

/-- A package with that graph: its nodes' bytes, and a page of type `ty` at 0x20000. -/
def graphState (cells : Memory) (ty : Nat) (y : GNode) : State :=
  { paged (runner []) ty with
    cur := Context.empty, busy := false
    mem := { cells := cells }
    md := [(0x600, 2), (0x601, 2), (0x800, mdOf false 3 false 2)]
    launches := [aLaunch], graphs := [aGraph y] }

/-- Whether a node starts. -/
def canStart (s : State) (g n k : Nat) : Bool :=
  match s.startable g n k with
  | some (a, _) => nodeOk a.ws
  | none => false

/-- The node that starts. -/
def startAt (s : State) (g n k : Nat) (h : canStart s g n k = true) : NodeAt :=
  match e : s.startable g n k with
  | some (a, _) => a
  | none => absurd h (by simp [canStart, e])

/-- The state in which it runs. -/
def startsIn (s : State) (g n k : Nat) : State :=
  match s.startable g n k with
  | some (_, s1) => s1.modNode g n (fun y => { y with state := .running, done := 0, taken := none })
  | none => s

theorem started {s : State} {g n k : Nat} (h : canStart s g n k = true) :
    Starts s g n k (startAt s g n k h) (startsIn s g n k) := by
  unfold startAt startsIn
  split
  · rename_i a s1 e
    refine ⟨s1, e, ?_, ?_⟩
    · simpa [canStart, e] using h
    · rw [e]
  · rename_i e
    simp [canStart, e] at h

/-- A core with work waiting, in a package whose address space 1 has frames. -/
def waitingCore (high inbox deque : List TaskRec) (cs : List Context) : State :=
  { State.reset with
    bar1 := { svcbase := 0x1000 }
    mem := { cells := [(0x1030, 4)] }
    cores := [{ num := 0, high := high, inbox := inbox, deque := deque }]
    ctxs := cs }

theorem woken_one {s : State} {core : Nat} {c : Context} (h : s.allCtxs.filter (s.mayRun core) = [c]) :
    s.woken core = [c] := by simp [State.woken, h]

theorem madeFit {s : State} {core foot tiles : Nat} (h : (s.makeFit core foot tiles).isSome = true) :
    s.makeFit core foot tiles = some (((s.makeFit core foot tiles).get h).1, ((s.makeFit core foot tiles).get h).2) :=
  (Option.some_get h).symm

theorem noLeaves {s : State} (h : s.bar1.astbase = 0) : s.allLeaves = [] := by simp [State.allLeaves, State.leaves, h]

theorem noPlan {s : State} {die : Fin 8} (h : s.bar1.astbase = 0) (hf : s.freePages = []) : (s.offlinePlan die).2.1 = [] := by
  unfold State.offlinePlan State.pagesAt
  rw [noLeaves h, hf]
  rfl

theorem noneOf {s : State} {p : BitVec 12 × Nat × Nat × Leaf → Prop} (h : s.bar1.astbase = 0) : ∀ l ∈ s.allLeaves, p l := by
  rw [noLeaves h]
  intro l e
  cases e

theorem got {α : Type} {o : Option α} (h : o.isSome = true) : o = some (o.get h) := (Option.some_get h).symm

/-- A crew of one member with its place held. -/
def aCrew : Crew :=
  { id := 1, launch := 1, order := 1, members := [(0, aRecord)], descs := []
    reserved := [(0, { slot := .a, base := 0, tiles := [] })] }

/-- A crew whose member runs. -/
def aRunningCrew : Crew := { aCrew with started := true, keys := [aKey] }

/-- A channel into `runner` with nothing in it. -/
def stuckChannel : Channel := { id := 7, crew := 1, src := { asid := 1, ctxid := 9 }, dst := aKey, slots := 2, wide := false, area := 0 }

/-- A command of the legacy window. -/
def aLegacy (op : Nat) (src dst : BitVec 48) (cell : BitVec 48) (done : Nat) : Legacy :=
  { k := aKey, core := 0, sys := true, op := op, src := src, dst := dst, len := 128, cell := cell, pc := 0, launch := 1
    key := 0, done := done }

/-- A package with that command. -/
def legacyState (l : Legacy) (ty : Nat) : State := { paged (sysRunner []) ty with legacy := [l] }

/-- A queue with one entry, at 0x50000. -/
def aQueue : Queue := { ring := 0x50000, en := true, tail := 1 }

/-- A package with an entry in its first queue, for address space 1, which is valid and has frames and a fault queue. -/
def queueState (ty : Nat) (cells : Memory) : State :=
  { paged (runner []) ty with
    cur := Context.empty, busy := false
    bar1 := { astbase := 0x60000, svcbase := 0x1000 }
    queues := Vector.replicate 64 aQueue
    mem := { cells := [(0x1021, 32), (0x1030, 4)] ++ cells ++ [(0x60010, 1), (0x60012, 2)] } }

/-- An image load of one core. -/
def aLoadOf (placed : List (Nat × Nat)) : Load :=
  { id := 1, launch := 1, asid := 1, texts := [(0x10000, 4096)], placed := placed, edges := [(0xFFFF, 0)] }

/-- A package whose host uses address space 1, with a page of type `ty` at 0x20000 whose first line has `md`. -/
def hostState (ty : Nat) (md : Byte) (halves : List (Nat × Bool × BitVec 512)) : State :=
  { paged (runner []) ty with bar1 := { hostasid := 1 }, md := if md = 0 then [] else [(0x800, md)], halves := halves }

/-- A package whose first line at 0x20000, of a page of type `ty`, has `md`. -/
def constState (ty : Nat) (md : Byte) : State := { paged (runner []) ty with md := if md = 0 then [] else [(0x800, md)] }

/-- A copy with the barrier at 0x40, which has failed in its first phase. -/
def aFailedCopy : Cmd :=
  { aCmd 1 (.ccopy 0x1000080 (0x40 * 2 ^ 24 + 2 ^ 45) 0 0 false) .done with
    fault := some { code := .translation }, phase := some 0 }
/-- Target registers that hold a cause, and what a fault there depends on. -/
def heldTargets (g : List Word) : Context :=
  { ready g with regs := { (ready g).regs with b := Vector.replicate 8 { addr := 0x10000, prepared := true, sub := 1 } } }

/-- A context that a state does not show stopped. -/
theorem notStopped {k : Key} {t : State} (h : (match t.ctx? k with | some c => c.status != .stopped | none => true) = true) :
    ∀ c, t.ctx? k = some c → c.status ≠ .stopped := by
  intro c e
  rw [e] at h
  simpa using h

/-- A sender of a replayed launch, whose log has one entry, of a kind, with an outcome. -/
def replaySend (high full : Bool) (kind out : Byte) : State :=
  let s := sendState high full
  { s with
    cur := { s.cur with launch := 1, regs := { s.cur.regs with status := 0x800 } }
    launches := [aLaunch]
    queues := s.queues.set 0 { s.queues[0] with rlog := 0x50000, rlogsize := 1 }
    mem := { cells := if out = 0 then [(0x50010, kind)] else [(0x50010, kind), (0x50018, out)] } }

/-- The state of an effect that may fault. -/
def okOf (x : Except FaultInfo State) : State :=
  match x with
  | .ok t => t
  | .error _ => State.reset

theorem wasOk {x : Except FaultInfo State} (h : x.isOk = true) : x = .ok (okOf x) := by
  cases x with
  | ok t => rfl
  | error f => simp [Except.isOk, Except.toBool] at h

/-- A context of system rights with one command. -/
def sysCommanding (k : CmdKind) : Context := { commanding k .started with regs := (sysRunner []).regs }

/-- The command of a context that has issued one unit. -/
def outstanding (k : CmdKind) (left : Nat) : Cmd := { aCmd 1 k .started with units := [{ u := 0, n := 128, left := left }] }

/-- A page whose joins and stores are blocked. -/
def blocked (pa : Nat) : Leaf := { leafAt pa 3 with jblock := true }

/-- A bank that fires at 1 and whose barrier cell is at 0x20000, with one member. -/
def theLamp : LampCfg := lampCfgOf (2 ^ 32 + 2 * 2 ^ 272 + 2 ^ 320)

/-- A run of that bank in a phase, with sparks not settled. -/
def aRun (ph : LampPhase) (n : Nat) : Cmd :=
  { aCmd 1 (.lrun 0x100000000 0) .started with
    lamp := ph, unsettled := n, bank := { cells := [(4, 1), (34, 2), (40, 1)] } }

/-- A context with that run. -/
def lamplighter (ph : LampPhase) (n : Nat) : Context :=
  { runner [] with
    lampCfg := #v[some 0, none, none, none, none, none, none, none, none, none, none, none, none, none, none, none]
    cmds := [aRun ph n] }

/-- A package with it, where the line of the barrier cell has `md`, and the cell the value `x`. -/
def lampHouse (ph : LampPhase) (n : Nat) (md : Byte) (x : Byte) : State :=
  { paged (lamplighter ph n) 9 with
    md := if md = 0 then [] else [(0x800, md)], mem := { cells := if x = 0 then [] else [(0x40000, x)] } }

/-- A node that runs, or one as it stands, in a graph whose cells' line has `md`. -/
def walking (cells : Memory) (ty : Nat) (md : Byte) (y : GNode) : State :=
  { graphState cells ty y with md := [(0x600, 2), (0x601, 2), (0x800, md)] }

/-- A graph whose second node waits for `n` others. -/
def waitingFor (n : Nat) : Graph := { aGraph (aNode .running) with nodes := [aNode .running, { idx := 1, pending := n }] }

/-- A parked context in its frame, woken. -/
def inFrame (status : Word) (u : Option UnitState) : Context :=
  { runner [] with slot := none, tileMap := [], status := .ready 1, unit := u
                   regs := { (runner []).regs with status := status } }

theorem witness_ScalarArithmeticCompletes_1 : ∀ p ∈ binaryTable, ∃ (d a b : Scalar) (s s1 s2 t : State) (x y : Val), issues (p.1 d a b) s = true ∧
    srcBound a s ∧
    srcBound b s ∧
    dstBound d s ∧
    Gives (readScalar a) s x s1 ∧
    Gives (readScalar b) s1 y s2 ∧
    Gives (writeScalar d { bits := p.2 x.bits y.bits, mark := x.mark || y.mark }) s2 () t := by
  have h : ∀ p ∈ binaryTable, issues (p.1 (.g 4) (.g 1) (.g 2)) plainState = true := by decide +kernel
  exact fun p hp => ⟨.g 4, .g 1, .g 2, plainState, _, _, _, _, _, h p hp, rfl, rfl, rfl, ran (by decide +kernel), ran (by decide +kernel), ran rfl⟩

theorem witness_ScalarArithmeticCompletes_2 : ∀ p ∈ unaryTable, ∃ (d a : Scalar) (s s1 t : State) (x : Val), issues (p.1 d a) s = true ∧
    srcBound a s ∧
    dstBound d s ∧
    Gives (readScalar a) s x s1 ∧
    Gives (writeScalar d { bits := p.2 x.bits, mark := x.mark }) s1 () t := by
  have h : ∀ p ∈ unaryTable, issues (p.1 (.g 4) (.g 1)) plainState = true := by decide +kernel
  exact fun p hp => ⟨.g 4, .g 1, plainState, _, _, _, h p hp, rfl, rfl, ran (by decide +kernel), ran rfl⟩

theorem witness_ScalarArithmeticCompletes_3 : ∀ p ∈ immediateTable, ∃ (d a : Scalar) (imm : BitVec 13) (s s1 t : State) (x : Val), issues (p.1 d a imm) s = true ∧
    srcBound a s ∧
    dstBound d s ∧
    Gives (readScalar a) s x s1 ∧
    Gives (writeScalar d { bits := p.2 x.bits (imm.signExtend 64), mark := x.mark }) s1 () t := by
  have h : ∀ p ∈ immediateTable, issues (p.1 (.g 4) (.g 1) 5) plainState = true := by decide +kernel
  exact fun p hp => ⟨.g 4, .g 1, 5, plainState, _, _, _, h p hp, rfl, rfl, ran (by decide +kernel), ran rfl⟩

theorem witness_ScalarArithmeticCompletes_4 : ∀ p ∈ shiftTable, ∃ (d a : Scalar) (n : Fin 64) (s s1 t : State) (x : Val), issues (p.1 d a n) s = true ∧
    srcBound a s ∧
    dstBound d s ∧
    Gives (readScalar a) s x s1 ∧
    Gives (writeScalar d { bits := p.2 x.bits n.val, mark := x.mark }) s1 () t := by
  have h : ∀ p ∈ shiftTable, issues (p.1 (.g 4) (.g 1) 63) plainState = true := by decide +kernel
  exact fun p hp => ⟨.g 4, .g 1, 63, plainState, _, _, _, h p hp, rfl, rfl, ran (by decide +kernel), ran rfl⟩

theorem witness_ScalarArithmeticCompletes_5 : ∃ (d a b : Scalar) (s s0 s1 s2 t : State) (z x y : Val), issues (.bfi d a b) s = true ∧
    srcBound a s ∧
    srcBound b s ∧
    Gives (readScalar d) s z s0 ∧
    Gives (readScalar a) s0 x s1 ∧
    Gives (readScalar b) s1 y s2 ∧
    Gives (writeScalar d { bits := withField z.bits x.bits y.bits, mark := z.mark || x.mark || y.mark }) s2 () t :=
  ⟨.g 4, .g 1, .g 2, plainState, _, _, _, _, _, _, _, by decide +kernel, rfl, rfl, ran (by decide +kernel), ran (by decide +kernel), ran (by decide +kernel), did (by decide +kernel)⟩

theorem witness_ScalarArithmeticCompletes_6 : ∃ (d : Scalar) (imm : BitVec 19) (s t : State), issues (.movi d imm) s = true ∧
    dstBound d s ∧
    Gives (writeScalar d { bits := imm.signExtend 64 }) s () t :=
  ⟨.g 4, 5, plainState, _, by decide +kernel, rfl, did (by decide +kernel)⟩

theorem witness_ScalarArithmeticCompletes_7 : ∃ (d : Scalar) (imm : BitVec 19) (s t : State), issues (.addpc d imm) s = true ∧
    dstBound d s ∧
    Gives (writeScalar d { bits := BitVec.ofInt 64 ((s.cur.regs.pc.toNat : Int) + 2 * imm.toInt) }) s () t :=
  ⟨.g 4, 5, plainState, _, by decide +kernel, rfl, did (by decide +kernel)⟩

theorem witness_ScalarFloatOperationsComplete_1 : ∀ p ∈ scalarFloat, ∃ (d a b : Scalar) (s s1 s2 t : State) (x y : Val), issues (p.1 d a b) s = true ∧
    srcBound a s ∧
    srcBound b s ∧
    dstBound d s ∧
    Gives (readScalar a) s x s1 ∧
    Gives (readScalar b) s1 y s2 ∧
    (let r := p.2 (s2.cur.rounding 0) (fp32.decode (x.bits.toNat % 2 ^ 32)) (fp32.decode (y.bits.toNat % 2 ^ 32))
     Gives (do writeScalar d { bits := BitVec.ofNat 64 r.code, mark := x.mark || y.mark }; raiseFlagsN r.flags) s2 () t) := by
  have h : ∀ p ∈ scalarFloat, issues (p.1 (.g 4) (.g 1) (.g 2)) plainState = true := by decide +kernel
  exact fun p hp => ⟨.g 4, .g 1, .g 2, plainState, _, _, _, _, _, h p hp, rfl, rfl, rfl, ran (by decide +kernel), ran (by decide +kernel), ran rfl⟩

theorem witness_ScalarFloatOperationsComplete_2 : ∃ (d a : Scalar) (s s1 t : State) (x : Val), issues (.ftoi d a) s = true ∧
    srcBound a s ∧
    dstBound d s ∧
    Gives (readScalar a) s x s1 ∧
    (let r := convertInt (s1.cur.rounding 0) (-(2 ^ 63)) (2 ^ 63 - 1) (fp32.decode (x.bits.toNat % 2 ^ 32))
     Gives (do writeScalar d { bits := BitVec.ofInt 64 r.1, mark := x.mark }; raiseFlagsN r.2) s1 () t) :=
  ⟨.g 4, .g 1, plainState, _, _, _, by decide +kernel, rfl, rfl, ran (by decide +kernel), did (by decide +kernel)⟩

theorem witness_ScalarFloatOperationsComplete_3 : ∃ (d a : Scalar) (s s1 t : State) (x : Val), issues (.itof d a) s = true ∧
    srcBound a s ∧
    dstBound d s ∧
    Gives (readScalar a) s x s1 ∧
    (let r := fp32.ofValue (s1.cur.rounding 0) (.ofInt x.bits.toInt)
     Gives (do writeScalar d { bits := BitVec.ofNat 64 r.code, mark := x.mark }; raiseFlagsN r.flags) s1 () t) :=
  ⟨.g 4, .g 1, plainState, _, _, _, by decide +kernel, rfl, rfl, ran (by decide +kernel), did (by decide +kernel)⟩

theorem witness_LaneMovesComplete_1 : ∃ d a s s1 x, issues (.vmov d a) s = true ∧
    vsrcBound a s ∧
    vdstBound d s ∧
    Gives (readVec a) s x s1 ∧
    ∃ t, Gives (writeVec d x) s1 () t :=
  ⟨.v 1, .v 2, plainState, _, _, by decide +kernel, rfl, rfl, ran (by decide +kernel), _, did (by decide +kernel)⟩

theorem witness_LaneMovesComplete_2 : ∃ d a b s s1 s2 s3 x y z, issues (.vsel d a b) s = true ∧
    vsrcBound a s ∧
    vsrcBound b s ∧
    Gives (readVec a) s x s1 ∧
    Gives (readVec b) s1 y s2 ∧
    Gives (readVec d) s2 z s3 :=
  ⟨.v 1, .v 2, .v 3, plainState, _, _, _, _, _, _, by decide +kernel, rfl, rfl, ran (by decide +kernel), ran (by decide +kernel), ran (by decide +kernel)⟩

theorem witness_LaneMovesComplete_3 : ∃ ty d s, issues (.viota ty d) s = true ∧
    vdstBound d s :=
  ⟨0, .v 1, plainState, by decide +kernel, rfl⟩

theorem witness_LaneMovesComplete_4 : ∃ d a ix s s1 s2 x n, issues (.vperm d a ix) s = true ∧
    vsrcBound a s ∧
    vsrcBound ix s ∧
    vdstBound d s ∧
    Gives (readVec a) s x s1 ∧
    Gives (readVec ix) s1 n s2 :=
  ⟨.v 1, .v 2, .v 3, plainState, _, _, _, _, by decide +kernel, rfl, rfl, rfl, ran (by decide +kernel), ran (by decide +kernel)⟩

theorem witness_LaneMovesComplete_5 : ∃ d a s s1 x, issues (.vbcast d a) s = true ∧
    srcBound a s ∧
    vdstBound d s ∧
    Gives (readScalar a) s x s1 :=
  ⟨.v 1, .g 1, plainState, _, _, by decide +kernel, rfl, rfl, ran (by decide +kernel)⟩

theorem witness_LaneMovesComplete_6 : ∃ d i a s s1 s2 t n x, issues (.vextr d i a) s = true ∧
    srcBound i s ∧
    vsrcBound a s ∧
    dstBound d s ∧
    Gives (readScalar i) s n s1 ∧
    Gives (readVec a) s1 x s2 ∧
    n.bits.toNat < 128 ∧
    Gives (writeScalar d (if (lanesAt s2).getLsbD n.bits.toNat then { bits := (lane x.bits n.bits.toNat).setWidth 64, mark := x.mark.getLsbD n.bits.toNat || n.mark } else { bits := 0 })) s2 () t :=
  ⟨.g 4, .g 1, .v 3, plainState, _, _, _, _, _, by decide +kernel, rfl, rfl, rfl, ran (by decide +kernel), ran (by decide +kernel), by decide +kernel, did (by decide +kernel)⟩

theorem witness_LaneMovesComplete_7 : ∃ d a i s s1 s2 s3 x n z, issues (.vins d a i) s = true ∧
    srcBound a s ∧
    srcBound i s ∧
    Gives (readScalar a) s x s1 ∧
    Gives (readScalar i) s1 n s2 ∧
    Gives (readVec d) s2 z s3 ∧
    n.bits.toNat < 128 :=
  ⟨.v 4, .g 1, .g 2, plainState, _, _, _, _, _, _, by decide +kernel, rfl, rfl, ran (by decide +kernel), ran (by decide +kernel), ran (by decide +kernel), by decide +kernel⟩

theorem witness_ConversionsAndPackingComplete_3 : ∃ ty d a b s s1 s2 x y, issues (.vpack ty d a b) s = true ∧
    vsrcBound a s ∧
    vsrcBound b s ∧
    vdstBound d s ∧
    Gives (readVec a) s x s1 ∧
    Gives (readVec b) s1 y s2 :=
  ⟨1, .v 1, .v 2, .v 3, plainState, _, _, _, _, by decide +kernel, rfl, rfl, rfl, ran (by decide +kernel), ran (by decide +kernel)⟩

theorem witness_ConversionsAndPackingComplete_4 : ∃ ty d a half sign s s1 x, issues (.vunpack ty d a half sign) s = true ∧
    vsrcBound a s ∧
    vdstBound d s ∧
    Gives (readVec a) s x s1 :=
  ⟨1, .v 1, .v 2, true, true, plainState, _, _, by decide +kernel, rfl, rfl, ran (by decide +kernel)⟩

theorem witness_ReductionsUseTheFixedTree_1 : ∀ p ∈ reductions, ∃ ty d a s s1 x, issues (p.1 ty d a) s = true ∧
    vsrcBound a s ∧
    vdstBound d s ∧
    Gives (readVec a) s x s1 := by
  have h : ∀ p ∈ reductions, issues (p.1 0 (.v 1) (.v 2)) plainState = true := by decide +kernel
  exact fun p hp => ⟨0, .v 1, .v 2, plainState, _, _, h p hp, rfl, rfl, ran (by decide +kernel)⟩

theorem witness_ReductionsUseTheFixedTree_2 : ∃ ty d a, ∃ (op : Fin 32), ∃ s s1 x, issues (.vscan ty d a op) s = true ∧
    vsrcBound a s ∧
    vdstBound d s ∧
    Gives (readVec a) s x s1 :=
  ⟨0, .v 1, .v 2, 0, plainState, _, _, by decide +kernel, rfl, rfl, ran (by decide +kernel)⟩

theorem witness_OperandsAreReadAndWritten_1 : ∃ (n : Fin 32) (v : Val) (s : State), n.val ≠ 0 :=
  ⟨1, { bits := 5 }, plainState, by decide +kernel⟩

theorem witness_PortsTakeAndPutItems_1 : ∃ (p : Fin 8) (s : State) (e : PortEnd) (ch : Channel) (x : Vec) (rest : List Vec), boundAt s p e ch ∧
    ch.items = x :: rest :=
  ⟨0, chanState false true 2 [{ bits := 5 }], { chan := 7, sending := false }, theChannel true 2 [{ bits := 5 }], { bits := 5 }, [], ⟨by decide +kernel, by decide +kernel⟩, by decide +kernel⟩

theorem witness_PortsTakeAndPutItems_2 : ∃ (p : Fin 8) (s : State) (e : PortEnd) (ch : Channel), boundAt s p e ch ∧
    ch.items = [] :=
  ⟨0, chanState false true 2 [], { chan := 7, sending := false }, theChannel true 2 [], ⟨by decide +kernel, by decide +kernel⟩, by decide +kernel⟩

theorem witness_PortsTakeAndPutItems_3 : ∃ (p : Fin 8) (s : State) (e : PortEnd) (ch : Channel) (x : Vec), boundAt s p e ch ∧
    ch.items.length + s.heldItems ch < ch.slots :=
  ⟨0, chanState true true 2 [], { chan := 7, sending := true }, theChannel true 2 [], { bits := 5 }, ⟨by decide +kernel, by decide +kernel⟩, by decide +kernel⟩

theorem witness_PortsTakeAndPutItems_4 : ∃ (p : Fin 8) (s : State) (e : PortEnd) (ch : Channel) (x : Vec), boundAt s p e ch ∧
    ch.slots ≤ ch.items.length + s.heldItems ch :=
  ⟨0, chanState true true 1 [{ bits := 5 }], { chan := 7, sending := true }, theChannel true 1 [{ bits := 5 }], { bits := 5 }, ⟨by decide +kernel, by decide +kernel⟩, by decide +kernel⟩

/-- The other end of `theChannel`, parked for a slot of it. -/
def parkedSender : Context := { runner [] with key := { asid := 1, ctxid := 3 }, slot := some .b, status := .parked (.channel 7) 0 }

theorem witness_PortsTakeAndPutItems_5 : ∃ (len n : Nat) (c x : Context) (ch : Channel) (s : State),
    (let u : State := { s with cur := s.cur.finish len }
   x ∈ s.ctxs ∧
    x.status = .parked (.channel ch.id) n ∧
    ch ∈ s.chans ∧
    ch.src = x.key ∧
    ch.dst = s.cur.key ∧
    ch.items.length + u.heldItems ch < ch.slots) :=
  ⟨4, 0, runner [], parkedSender, { theChannel true 1 [] with src := { asid := 1, ctxid := 3 }, dst := { asid := 1, ctxid := 2 } }, { with1 (runner []) with ctxs := [parkedSender], chans := [{ theChannel true 1 [] with src := { asid := 1, ctxid := 3 }, dst := { asid := 1, ctxid := 2 } }] }, List.mem_singleton.2 rfl, rfl, List.mem_singleton.2 rfl, by decide +kernel, by decide +kernel, by decide +kernel⟩

theorem witness_ChecksAndGuardsComeFirst_1 : ∃ (i : Instr) (s : State) (code : FaultCode), i.isEvent = false ∧
    s.busy = true ∧
    stepChecks i true s.cur = some code :=
  ⟨.add (.q 3) (.g 1) (.g 2), plainState, .illegalOperand, by decide +kernel, by decide +kernel, by decide +kernel⟩

theorem witness_ChecksAndGuardsComeFirst_2 : ∃ (i : Instr) (s : State), i.isEvent = false ∧
    s.busy = true ∧
    s.cur.slot = some .h ∧
    i.slotHIllegal = true :=
  ⟨.vmov (.v 1) (.v 2), with1 (handler []), by decide +kernel, by decide +kernel, by decide +kernel, by decide +kernel⟩

theorem witness_ChecksAndGuardsComeFirst_3 : ∃ (i : Instr) (s : State), i.isEvent = false ∧
    s.busy = true ∧
    s.cur.unit = none ∧
    i.isPrivileged = true ∧
    i.slotHIllegal = false ∧
    s.cur.sys = false :=
  ⟨.halt, plainState, by decide +kernel⟩

theorem witness_ChecksAndGuardsComeFirst_4 : ∃ (i : Instr) (s : State), i.isEvent = false ∧
    s.busy = true ∧
    s.cur.unit = none ∧
    i.isPrivileged = false ∧
    s.cur.slot ≠ some .h ∧
    i.wf = false :=
  ⟨.add (.q 3) (.g 1) (.g 2), plainState, by decide +kernel⟩

theorem witness_ChecksAndGuardsComeFirst_5 : ∃ (i : Instr) (s : State), i.isEvent = false ∧
    s.busy = true ∧
    stepChecks i true s.cur = none ∧
    s.cur.guardedOff = false ∧
    s.cur.slot = some .h ∧
    i.blocksInHandler = true :=
  ⟨.await (.g 1) (.g 2) (.g 3), with1 (handler []), by decide +kernel⟩

theorem witness_ChecksAndGuardsComeFirst_6 : ∃ (i : Instr) (s : State), i.isEvent = false ∧
    i.isTransfer = false ∧
    s.busy = true ∧
    stepChecks i true s.cur = none ∧
    s.cur.guardedOff = true ∧
    (∀ d ∈ i.dests, (∀ a, d ≠ .scalar (.q a)) ∧ (∀ a, d ≠ .vector (.y a))) :=
  ⟨.add (.g 4) (.g 1) (.g 2), guarded, by decide +kernel⟩

theorem witness_ChecksAndGuardsComeFirst_7 : ∃ (i : Instr) (s : State), i.isEvent = false ∧
    i.isTransfer = false ∧
    s.busy = true ∧
    stepChecks i true s.cur = none ∧
    s.cur.guardedOff = true ∧
    i.dests = [.scalar (.q 0)] :=
  ⟨.add (.q 0) (.g 1) (.g 2), guarded, by decide +kernel⟩

theorem witness_ChecksAndGuardsComeFirst_8 : ∃ (i : Instr) (s : State), i.isEvent = false ∧
    i.isTransfer = false ∧
    s.busy = true ∧
    stepChecks i true s.cur = none ∧
    s.cur.guardedOff = true ∧
    i.dests = [.vector (.y 0)] :=
  ⟨.vadd 0 (.y 0) (.v 1) (.v 2), guarded, by decide +kernel⟩

theorem witness_ChecksAndGuardsComeFirst_9 : ∃ (i : Instr) (s : State), i.isEvent = false ∧
    i.isTransfer = false ∧
    s.busy = true ∧
    stepChecks i true s.cur = none ∧
    s.cur.guardedOff = false ∧
    (s.cur.slot = some .h → i.blocksInHandler = false) ∧
    i.roundsByMode = true ∧
    6 ≤ wbits s.cur.regs.mode 1 3 :=
  ⟨.fadd (.g 4) (.g 1) (.g 2), with1 { runner [] with regs := { Regs.zero with mode := 12 } }, by decide +kernel⟩

theorem witness_GuardsCompleteAndCompletionAdvances_1 : ∃ (sense : Bool) (bit : Fin 64) (n : Fin 32) (s : State), issues (.guard sense bit n) s = true :=
  ⟨true, 1, 4, plainState, by decide +kernel⟩

theorem witness_GuardsCompleteAndCompletionAdvances_2 : ∃ (sense : Bool) (bit : Fin 32) (n : Fin 32) (s : State), issues (.vguard sense bit n) s = true :=
  ⟨true, 1, 4, plainState, by decide +kernel⟩

theorem witness_GuardsCompleteAndCompletionAdvances_3 : ∃ s, issues .nop16 s = true :=
  ⟨plainState, by decide +kernel⟩

theorem witness_GuardsCompleteAndCompletionAdvances_4 : ∃ s, issues .nop s = true :=
  ⟨plainState, by decide +kernel⟩

theorem witness_PreparesHoldTheirCauses_1 : ∃ n imm s s1 cause, issues (.prep n imm) s = true ∧
    (let a := s.cur.regs.pc.setWidth 64 + 2 * imm.signExtend 64
   Gives (checked s a) s cause s1) :=
  ⟨1, 4, plainState, _, _, by decide +kernel, ran (by decide +kernel)⟩

theorem witness_PreparesHoldTheirCauses_2 : ∃ n a s s1 s2 x cause, issues (.prepr n a) s = true ∧
    srcBound a s ∧
    Gives (readClean a) s x s1 ∧
    Gives (checked s1 x) s1 cause s2 :=
  ⟨1, .g 1, plainState, _, _, _, _, by decide +kernel, rfl, ran (by decide +kernel), ran (by decide +kernel)⟩

theorem witness_PreparesHoldTheirCauses_3 : ∃ n a b s s1 s2 s3 s4 s5 x y hdr off cause, issues (.prepx n a b) s = true ∧
    srcBound a s ∧
    srcBound b s ∧
    Gives (readClean a) s x s1 ∧
    Gives (readClean b) s1 y s2 ∧
    Gives (codeRead x 8) s2 (some hdr) s3 ∧
    y.toNat < hdr % 2 ^ 32 ∧
    Gives (codeRead (x + 8 + 4 * y) 4) s3 (some off) s4 ∧
    (let z := x + 2 * (BitVec.ofNat 32 off).signExtend 64
   Gives (checked s4 z) s4 cause s5) :=
  ⟨1, .g 1, .g 2, paged (runner [0x10040, 0]) 2, _, _, _, _, _, _, _, 1, 0, _, by decide +kernel, rfl, rfl, ran (by decide +kernel), ran (by decide +kernel), ranAs (by decide +kernel), by decide +kernel, ranAs (by decide +kernel), ran (by decide +kernel)⟩

theorem witness_PreparesHoldTheirCauses_4 : ∃ n a b s s1 s2 s3 s4 x y hdr cause, issues (.prepx n a b) s = true ∧
    srcBound a s ∧
    srcBound b s ∧
    Gives (readClean a) s x s1 ∧
    Gives (readClean b) s1 y s2 ∧
    Gives (codeRead x 8) s2 (some hdr) s3 ∧
    hdr % 2 ^ 32 ≤ y.toNat ∧
    (let z := x + 2 * (BitVec.ofNat 32 (hdr / 2 ^ 32)).signExtend 64
   Gives (checked s3 z) s3 cause s4) :=
  ⟨1, .g 1, .g 2, paged (runner [0x10040, 7]) 2, _, _, _, _, _, _, 1, _, by decide +kernel, rfl, rfl, ran (by decide +kernel), ran (by decide +kernel), ranAs (by decide +kernel), by decide +kernel, ran (by decide +kernel)⟩

theorem witness_PreparesHoldTheirCauses_5 : ∃ n a b s s1 s2 s3 x y, issues (.prepx n a b) s = true ∧
    srcBound a s ∧
    srcBound b s ∧
    Gives (readClean a) s x s1 ∧
    Gives (readClean b) s1 y s2 ∧
    Gives (codeRead x 8) s2 none s3 :=
  ⟨1, .g 1, .g 2, plainState, _, _, _, _, _, by decide +kernel, rfl, rfl, ran (by decide +kernel), ran (by decide +kernel), ranAs (by decide +kernel)⟩

theorem witness_PreparesHoldTheirCauses_6 : ∃ n l s, issues (.pmove n l) s = true :=
  ⟨1, 2, plainState, by decide +kernel⟩

theorem witness_PreparesHoldTheirCauses_7 : ∃ n a b s s1 s2 s3 s4 x y hdr, issues (.prepx n a b) s = true ∧
    srcBound a s ∧
    srcBound b s ∧
    Gives (readClean a) s x s1 ∧
    Gives (readClean b) s1 y s2 ∧
    Gives (codeRead x 8) s2 (some hdr) s3 ∧
    y.toNat < hdr % 2 ^ 32 ∧
    Gives (codeRead (x + 8 + 4 * y) 4) s3 none s4 :=
  ⟨1, .g 1, .g 2, { paged (runner [0x10040, 0x3EE]) 2 with mem := { cells := [(0x30042, 1)] } }, _, _, _, _, _, _, 65536, by decide +kernel, rfl, rfl, ran (by decide +kernel), ran (by decide +kernel), ranAs (by decide +kernel), by decide +kernel, ranAs (by decide +kernel)⟩

theorem witness_TransfersGoWhereTheyWerePrepared_1 : ∃ n s s1 s2 len, TransferOn (.jmp n) n s s1 len ∧
    Proceeds n s.cur.regs.b[n] s1 s2 :=
  ⟨1, paged (ready [2, 0]) 2, _, _, 2, ⟨by decide +kernel, by decide +kernel, by decide +kernel, by decide +kernel, ranAs (by decide +kernel)⟩, ⟨by decide +kernel, Or.inl ⟨by decide +kernel, rfl⟩⟩⟩

theorem witness_TransfersGoWhereTheyWerePrepared_2 : ∃ n l s s1 s2 s3 len cause, TransferOn (.call n l) n s s1 len ∧
    Proceeds n s.cur.regs.b[n] s1 s2 ∧
    Gives (checked s2 ((afterSlot s len).setWidth 64)) s2 cause s3 :=
  ⟨1, 2, paged (ready [2, 0]) 2, _, _, _, 2, _, ⟨by decide +kernel, by decide +kernel, by decide +kernel, by decide +kernel, ranAs (by decide +kernel)⟩, ⟨by decide +kernel, Or.inl ⟨by decide +kernel, rfl⟩⟩, ran (by decide +kernel)⟩

theorem witness_TransfersGoWhereTheyWerePrepared_3 : ∃ n g bit s s1 s2 s3 len x, TransferOn (.brT n g bit) n s s1 len ∧
    g.isPort = false ∧
    Gives (readClean g) s1 x s2 ∧
    ProceedsIf (x.getLsbD bit.val) n s.cur.regs.b[n] s2 s3 :=
  ⟨1, .g 1, 1, paged (ready [2, 0]) 2, _, _, _, 2, _, ⟨by decide +kernel, by decide +kernel, by decide +kernel, by decide +kernel, ranAs (by decide +kernel)⟩, by decide +kernel, ran (by decide +kernel), ⟨fun _ => ⟨by decide +kernel, Or.inl ⟨by decide +kernel, rfl⟩⟩, fun h => absurd h (by decide +kernel)⟩⟩

theorem witness_TransfersGoWhereTheyWerePrepared_4 : ∃ n g bit s s1 s2 s3 len x, TransferOn (.brF n g bit) n s s1 len ∧
    g.isPort = false ∧
    Gives (readClean g) s1 x s2 ∧
    ProceedsIf (!x.getLsbD bit.val) n s.cur.regs.b[n] s2 s3 :=
  ⟨1, .g 1, 0, paged (ready [2, 0]) 2, _, _, _, 2, _, ⟨by decide +kernel, by decide +kernel, by decide +kernel, by decide +kernel, ranAs (by decide +kernel)⟩, by decide +kernel, ran (by decide +kernel), ⟨fun _ => ⟨by decide +kernel, Or.inl ⟨by decide +kernel, rfl⟩⟩, fun h => absurd h (by decide +kernel)⟩⟩

theorem witness_TransfersGoWhereTheyWerePrepared_5 : ∃ n p bit s s1 s2 s3 len e ch x, TransferOn (.brT n (.c p) bit) n s s1 len ∧
    srcBound (.c p) s ∧
    boundAt s1 p e ch ∧
    Gives (takeItem p) s1 x s2 ∧
    x.toVal.mark = false ∧
    ProceedsIf (x.toVal.bits.getLsbD bit.val) n s.cur.regs.b[n] s2 s3 :=
  ⟨1, 0, 1, { paged { ready [2, 0] with ports := Vector.replicate 8 (some { chan := 7, sending := false }), crew := some 1 } 2 with chans := [theChannel false 2 [{ bits := 2 }]] }, _, _, _, 2, { chan := 7, sending := false }, theChannel false 2 [{ bits := 2 }], _, ⟨by decide +kernel, by decide +kernel, by decide +kernel, by decide +kernel, ranAs (by decide +kernel)⟩, rfl, ⟨by decide +kernel, by decide +kernel⟩, ran (by decide +kernel), by decide +kernel, ⟨fun _ => ⟨by decide +kernel, Or.inl ⟨by decide +kernel, rfl⟩⟩, fun h => absurd h (by decide +kernel)⟩⟩

theorem witness_TransfersGoWhereTheyWerePrepared_6 : ∃ n p bit s s1 s2 s3 len e ch x, TransferOn (.brF n (.c p) bit) n s s1 len ∧
    srcBound (.c p) s ∧
    boundAt s1 p e ch ∧
    Gives (takeItem p) s1 x s2 ∧
    x.toVal.mark = false ∧
    ProceedsIf (!x.toVal.bits.getLsbD bit.val) n s.cur.regs.b[n] s2 s3 :=
  ⟨1, 0, 1, { paged { ready [2, 0] with ports := Vector.replicate 8 (some { chan := 7, sending := false }), crew := some 1 } 2 with chans := [theChannel false 2 [{ bits := 0 }]] }, _, _, _, 2, { chan := 7, sending := false }, theChannel false 2 [{ bits := 0 }], _, ⟨by decide +kernel, by decide +kernel, by decide +kernel, by decide +kernel, ranAs (by decide +kernel)⟩, rfl, ⟨by decide +kernel, by decide +kernel⟩, ran (by decide +kernel), by decide +kernel, ⟨fun _ => ⟨by decide +kernel, Or.inl ⟨by decide +kernel, rfl⟩⟩, fun h => absurd h (by decide +kernel)⟩⟩

theorem witness_TransfersGoWhereTheyWerePrepared_7 : ∃ n, ∃ (k : Fin 32), ∃ s s1 s2 len, TransferOn (.bdec n (.g k)) n s s1 len ∧
    (s1.cur.regs.readG k).mark = false ∧
    (let x := (s1.cur.regs.readG k).bits
   ProceedsIf (decide (x ≠ 1)) n s.cur.regs.b[n] { s1 with cur := { s1.cur with regs := s1.cur.regs.writeG k { bits := x - 1 } } } s2) :=
  ⟨1, 1, paged (ready [2, 0]) 2, _, _, 2, ⟨by decide +kernel, by decide +kernel, by decide +kernel, by decide +kernel, ranAs (by decide +kernel)⟩, by decide +kernel, ⟨fun _ => ⟨by decide +kernel, Or.inl ⟨by decide +kernel, rfl⟩⟩, fun h => absurd h (by decide +kernel)⟩⟩

theorem witness_TransfersGoWhereTheyWerePrepared_8 : ∃ i n s, TransferThrough i n ∧
    ConditionBound i s ∧
    s.busy = true ∧
    stepChecks i true s.cur = none ∧
    s.cur.guardedOff = false ∧
    s.cur.regs.b[n].prepared = false :=
  ⟨.jmp 1, 1, plainState, Or.inl rfl, (by unfold ConditionBound; rintro n g bit (h | h) <;> cases h), by decide +kernel⟩

theorem witness_TransfersGoWhereTheyWerePrepared_9 : ∃ i n s s1 len, TransferThrough i n ∧
    s.busy = true ∧
    stepChecks i true s.cur = none ∧
    s.cur.guardedOff = true ∧
    Gives delaySlot s len s1 :=
  ⟨.jmp 1, 1, paged { ready [2, 0] with unit := some { saved := Regs.zero, guard := some false } } 2, _, 2, Or.inl rfl, by decide +kernel, by decide +kernel, by decide +kernel, ranAs (by decide +kernel)⟩

theorem witness_TransfersGoWhereTheyWerePrepared_10 : ∃ i n s s1 bytes, TransferThrough i n ∧
    s.busy = true ∧
    stepChecks i true s.cur = none ∧
    (s.cur.guardedOff = true ∨ (ConditionBound i s ∧ s.cur.regs.b[n].prepared = true)) ∧
    Gives (fetchBytes s.cur.core s.cur.asid s.cur.sys (s.cur.regs.pc + 4).toNat) s (.ok bytes) s1 ∧
    (s.core s.cur.core).icErrors.contains (s.cur.asid, (s.cur.regs.pc + 4).toNat) = false ∧
    slotRefused bytes = true :=
  ⟨.jmp 1, 1, { paged (ready [2, 0]) 2 with mem := { cells := [(0x30000, 10), (0x30004, 2)] } }, _, _, Or.inl rfl, by decide +kernel, by decide +kernel, Or.inr ⟨(by unfold ConditionBound; rintro n g bit (h | h) <;> cases h), by decide +kernel⟩, ranOk (by decide +kernel), by decide +kernel, by decide +kernel⟩

theorem witness_TransfersGoWhereTheyWerePrepared_11 : ∃ i n s s1 len, (i = .jmp n ∨ ∃ l, i = .call n l) ∧
    TransferOn i n s s1 len ∧
    StillHeld s1 s.cur.regs.b[n] :=
  ⟨.jmp 1, 1, paged (heldTargets [2, 0]) 2, _, 2, Or.inl rfl, ⟨by decide +kernel, by decide +kernel, by decide +kernel, by decide +kernel, ranAs (by decide +kernel)⟩, ⟨by decide +kernel, by decide +kernel, Or.inl (by decide +kernel)⟩⟩

theorem witness_TransfersGoWhereTheyWerePrepared_12 : ∃ i n g bit, ∃ (sense : Bool), ∃ s s1 s2 len items, i = (if sense then .brT n g bit else .brF n g bit) ∧
    srcBound g s ∧
    TransferOn i n s s1 len ∧
    Gives (branchBit g bit sense) s1 (true, items) s2 ∧
    StillHeld s2 s.cur.regs.b[n] :=
  ⟨.brT 1 (.g 1) 1, 1, .g 1, 1, true, paged (heldTargets [2, 0]) 2, _, _, 2, [], rfl, rfl, ⟨by decide +kernel, by decide +kernel, by decide +kernel, by decide +kernel, ranAs (by decide +kernel)⟩, ranAs (by decide +kernel), ⟨by decide +kernel, by decide +kernel, Or.inl (by decide +kernel)⟩⟩

theorem witness_TransfersGoWhereTheyWerePrepared_13 : ∃ n, ∃ (k : Fin 32), ∃ s s1 s2 len, TransferOn (.bdec n (.g k)) n s s1 len ∧
    (s1.cur.regs.readG k).mark = false ∧
    (s1.cur.regs.readG k).bits ≠ 1 ∧
    s2 = { s1 with cur := { s1.cur with regs := s1.cur.regs.writeG k { bits := (s1.cur.regs.readG k).bits - 1 } } } ∧
    StillHeld s2 s.cur.regs.b[n] :=
  ⟨1, 1, paged (heldTargets [2, 0]) 2, _, _, 2, ⟨by decide +kernel, by decide +kernel, by decide +kernel, by decide +kernel, ranAs (by decide +kernel)⟩, by decide +kernel, by decide +kernel, rfl, ⟨by decide +kernel, by decide +kernel, Or.inl (by decide +kernel)⟩⟩

/-- A context whose target registers are marked. -/
def markedTargets (g : List Word) : Context :=
  { ready g with regs := { (ready g).regs with b := Vector.replicate 8 { addr := 0x10000, prepared := true, marks := 3 } } }

theorem witness_TransfersGoWhereTheyWerePrepared_14 : ∃ i n s s1 len, (i = .jmp n ∨ ∃ l, i = .call n l) ∧
    TransferOn i n s s1 len ∧
    s.cur.regs.b[n].marks ≠ 0 :=
  ⟨.jmp 1, 1, paged (markedTargets [2, 0]) 2, _, 2, Or.inl rfl, ⟨by decide +kernel, by decide +kernel, by decide +kernel, by decide +kernel, ranAs (by decide +kernel)⟩, by decide +kernel⟩

theorem witness_TransfersGoWhereTheyWerePrepared_15 : ∃ i n g bit, ∃ (sense : Bool), ∃ s s1 s2 len items, i = (if sense then .brT n g bit else .brF n g bit) ∧
    srcBound g s ∧
    TransferOn i n s s1 len ∧
    Gives (branchBit g bit sense) s1 (true, items) s2 ∧
    s.cur.regs.b[n].marks ≠ 0 :=
  ⟨.brT 1 (.g 1) 1, 1, .g 1, 1, true, paged (markedTargets [2, 0]) 2, _, _, 2, [], rfl, rfl, ⟨by decide +kernel, by decide +kernel, by decide +kernel, by decide +kernel, ranAs (by decide +kernel)⟩, ranAs (by decide +kernel), by decide +kernel⟩

theorem witness_TransfersGoWhereTheyWerePrepared_16 : ∃ n, ∃ (k : Fin 32), ∃ s s1 s2 len, TransferOn (.bdec n (.g k)) n s s1 len ∧
    (s1.cur.regs.readG k).mark = false ∧
    (s1.cur.regs.readG k).bits ≠ 1 ∧
    s2 = { s1 with cur := { s1.cur with regs := s1.cur.regs.writeG k { bits := (s1.cur.regs.readG k).bits - 1 } } } ∧
    s.cur.regs.b[n].marks ≠ 0 :=
  ⟨1, 1, paged (markedTargets [2, 0]) 2, _, _, 2, ⟨by decide +kernel, by decide +kernel, by decide +kernel, by decide +kernel, ranAs (by decide +kernel)⟩, by decide +kernel, by decide +kernel, rfl, by decide +kernel⟩

theorem witness_FieldJoinsCompleteAndStayOutstanding_1 : ∀ p ∈ joins, ∃ (a v : Scalar) (s s1 s2 s3 t : State) (vs : List Val) (l : Leaf), issues (p.1 a v) s = true ∧
    srcBound a s ∧
    srcBound v s ∧
    Operands [a, v] s vs s1 ∧
    (nthVal vs 0).mark = false ∧
    Admitted .write (nthVal vs 0).bits s1 l s2 ∧
    2 ≤ l.ty ∧
    l.ty ≤ 9 ∧
    (l.ty = 9 → p.2.1 ≠ 16) ∧
    (nthVal vs 0).bits.toNat % (p.2.1 / 8) = 0 ∧
    Released p.2.2 s2 s3 ∧
    Gives (joinCell l (nthVal vs 0).bits.toNat p.2.1 ((nthVal vs 1).bits.toNat % 2 ^ p.2.1 : Nat) (nthVal vs 1).mark p.2.2) s3 () t := by
  intro p hp
  simp only [joins, List.mem_cons, List.not_mem_nil, or_false] at hp
  rcases hp with rfl | rfl | rfl | rfl | rfl | rfl <;>
  exact ⟨.g 1, .g 2, paged (runner [0x20000, 5]) 3, _, _, _, _, _, _, by decide +kernel, rfl, rfl, ran (by decide +kernel), by decide +kernel, ran (by decide +kernel), by decide +kernel, by decide +kernel, by decide +kernel, by decide +kernel, released (by decide +kernel) (by decide +kernel), did (by decide +kernel)⟩

theorem witness_FieldJoinsCompleteAndStayOutstanding_2 : ∀ p ∈ xjoins, ∃ (a v : Scalar) (s s1 s2 s3 t : State) (vs : List Val) (l : Leaf) (x : Int), issues (p.1 a v) s = true ∧
    srcBound a s ∧
    srcBound v s ∧
    Operands [a, v] s vs s1 ∧
    (nthVal vs 0).mark = false ∧
    Admitted .write (nthVal vs 0).bits s1 l s2 ∧
    l.ty = 10 ∧
    (nthVal vs 0).bits.toNat % 16 = 0 ∧
    contribution p.2.1 (nthVal vs 1).bits l.arg.toInt = some x ∧
    Released p.2.2 s2 s3 ∧
    Gives (joinCell l (nthVal vs 0).bits.toNat 128 x (nthVal vs 1).mark p.2.2) s3 () t := by
  intro p hp
  simp only [xjoins, List.mem_cons, List.not_mem_nil, or_false] at hp
  rcases hp with rfl | rfl | rfl | rfl <;>
  exact ⟨.g 1, .g 2, paged (runner [0x20000, 0]) 10, _, _, _, _, _, _, _, by decide +kernel, rfl, rfl, ran (by decide +kernel), by decide +kernel, ran (by decide +kernel), by decide +kernel, by decide +kernel, rfl, released (by decide +kernel) (by decide +kernel), did (by decide +kernel)⟩

/-- The cores, core 0 with a combining buffer. -/
def buffering (hold : List Held) : State := { paged (runner []) 3 with cores := [{ num := 0, hold := hold }] }

theorem witness_FieldJoinsCompleteAndStayOutstanding_3 : ∃ (l : Leaf) (va w : Nat) (x : Int) (mark : Bool) (s : State)
    (pre rest : List Held) (y : Held), (s.core s.cur.core).hold = pre ++ y :: rest ∧
    (∀ z ∈ pre, ¬ Joinable z (joinOf l va w x mark false s) l.badPage) ∧ Joinable y (joinOf l va w x mark false s) l.badPage :=
  ⟨leafAt 0x40000 3, 0x20000, 64, 5, false, buffering [heldJoin], [], [], heldJoin, rfl, (by intro z h; cases h),
    by unfold Joinable SameCell; decide +kernel⟩

theorem witness_FieldJoinsCompleteAndStayOutstanding_4 : ∃ (l : Leaf) (va w : Nat) (x : Int) (mark : Bool) (s : State),
    (∀ z ∈ (s.core s.cur.core).hold, ¬ Joinable z (joinOf l va w x mark false s) l.badPage) ∧
    (s.core s.cur.core).hold.length < 64 :=
  ⟨leafAt 0x40000 3, 0x20008, 64, 5, false, buffering [heldJoin], by unfold Joinable SameCell; decide +kernel, by decide +kernel⟩

theorem witness_FieldJoinsCompleteAndStayOutstanding_5 : ∃ (l : Leaf) (va w : Nat) (x : Int) (mark : Bool) (s : State)
    (rest : List Held) (y : Held), (s.core s.cur.core).hold = y :: rest ∧
    (∀ z ∈ (s.core s.cur.core).hold, ¬ Joinable z (joinOf l va w x mark false s) l.badPage) ∧
    64 ≤ (s.core s.cur.core).hold.length :=
  ⟨leafAt 0x40000 3, 0x20008, 64, 5, false, buffering (List.replicate 64 heldJoin), List.replicate 63 heldJoin, heldJoin,
    rfl, by unfold Joinable SameCell; decide +kernel, by decide +kernel⟩

theorem witness_FieldWaitsAndReadsComplete_1 : ∃ (d a g : Scalar) (s s1 t : State) (vs : List Val) (r : Reply) (k : Nat) (first : Word), issues (.awaitAny d a g) s = true ∧
    srcBound a s ∧
    srcBound g s ∧
    dstBound d s ∧
    Operands [a, g] s vs s1 ∧
    (nthVal vs 0).mark = false ∧
    (nthVal vs 1).mark = false ∧
    s1.cur.reply = some r ∧
    r.r = .passed k first ∧
    Gives (writeScalar d { bits := BitVec.ofNat 64 k, mark := (vs.drop 2).any Val.mark }) s1 () t :=
  ⟨.g 4, .g 1, .g 2, with1 { runner [0x20000, 0x20100] with reply := some { n := 0, r := .passed 0 9 } }, _, _, _, { n := 0, r := .passed 0 9 }, 0, 9, by decide +kernel, rfl, rfl, rfl, ran (by decide +kernel), by decide +kernel, by decide +kernel, by decide +kernel, by decide +kernel, did (by decide +kernel)⟩

theorem witness_FieldWaitsAndReadsComplete_2 : ∃ (d a g : Scalar) (s s1 s2 t : State) (vs : List Val) (r : Reply) (x : Word), issues (.probe d a g) s = true ∧
    s.cur.strict = false ∧
    srcBound a s ∧
    srcBound g s ∧
    dstBound d s ∧
    Operands [a, g] s vs s1 ∧
    (nthVal vs 0).mark = false ∧
    s1.cur.reply = some r ∧
    ((r.r = .notPassed ∧ x = 0) ∨ (∃ k f, r.r = .passed k f ∧ x = 1) ∨ (r.r = .poison ∧ x = 2) ∨ (r.r = .unreachable ∧ x = 3)) ∧
    Gives (writeScalar d { bits := x, mark := (nthVal vs 1).mark }) s1 () s2 ∧
    Gives (do logOutcome 0 [x]; markNd) s2 () t :=
  ⟨.g 4, .g 1, .g 2, with1 { runner [0x20000, 0x20100] with reply := some { n := 0, r := .passed 0 9 } }, _, _, _, _, { n := 0, r := .passed 0 9 }, 1, by decide +kernel, by decide +kernel, rfl, rfl, rfl, ran (by decide +kernel), by decide +kernel, by decide +kernel, Or.inr (Or.inl ⟨0, 9, rfl, rfl⟩), did (by decide +kernel), did (by decide +kernel)⟩

theorem witness_FieldWaitsAndReadsComplete_3 : ∀ p ∈ ([(.ldxW, 4), (.ldxD, 8)] : List ((Scalar → Scalar → Instr) × Nat)), ∃ (d a : Scalar) (s s1 s2 s3 s4 t : State) (vs : List Val) (l : Leaf) (x : LineSnap), issues (p.1 d a) s = true ∧
    srcBound a s ∧
    dstBound d s ∧
    Operands [a] s vs s1 ∧
    (nthVal vs 0).mark = false ∧
    Admitted .read (nthVal vs 0).bits s1 l s2 ∧
    1 ≤ l.ty ∧
    l.ty ≤ 10 ∧
    (nthVal vs 0).bits.toNat % p.2 = 0 ∧
    Gives (obtain true [(l, (nthVal vs 0).bits.toNat)]) s2 true s3 ∧
    Gives (obtained l (nthVal vs 0).bits.toNat) s3 x s4 ∧
    Gives (writeScalar d { bits := BitVec.ofNat 64 (x.data.toNat / 2 ^ (8 * ((nthVal vs 0).bits.toNat % 128)) % 2 ^ (8 * p.2)), mark := decide (x.marks.toNat / 2 ^ ((nthVal vs 0).bits.toNat % 128) % 2 ^ p.2 ≠ 0) }) s4 () t := by
  intro p hp
  simp only [List.mem_cons, List.not_mem_nil, or_false] at hp
  rcases hp with rfl | rfl <;>
  exact ⟨.g 4, .g 1, paged { runner [0x20000] with asked := true, lines := [{ line := 0x800, ty := 2, data := 0, marks := 0, md := 0 }] } 2, _, _, _, _, _, _, _, _, by decide +kernel, rfl, rfl, ran (by decide +kernel), by decide +kernel, ran (by decide +kernel), by decide +kernel, by decide +kernel, by decide +kernel, ranAs (by decide +kernel), ran (by decide +kernel), did (by decide +kernel)⟩

theorem witness_FreezesAndFallowsComplete_1 : ∃ (a n : Scalar) (s s1 t : State) (vs : List Val), issues (.freeze a n) s = true ∧
    srcBound a s ∧
    srcBound n s ∧
    Operands [a, n] s vs s1 ∧
    (nthVal vs 0).mark = false ∧
    (nthVal vs 1).mark = false ∧
    s1.cur.phase = 2 ∧
    Acknowledged false s1 t ∧
    t.cur.posted = [] :=
  ⟨.g 1, .g 2, with1 { runner [0x20000, 0x80] with phase := 2 }, _, _, _, by decide +kernel, rfl, rfl, ran (by decide +kernel), by decide +kernel, by decide +kernel, by decide +kernel, ⟨rfl, by decide +kernel⟩, by decide +kernel⟩

theorem witness_FreezesAndFallowsComplete_2 : ∃ (a n : Scalar) (s s1 : State) (vs : List Val), issues (.fallow a n) s = true ∧
    srcBound a s ∧
    srcBound n s ∧
    Operands [a, n] s vs s1 ∧
    (nthVal vs 0).mark = false ∧
    (nthVal vs 1).mark = false ∧
    s1.cur.phase = 3 ∧
    (∀ v ∈ s1.invals, v.by_ ≠ some s1.cur.key) :=
  ⟨.g 1, .g 2, with1 { sysRunner [0x20000, 0x1000] with phase := 3 }, _, _, by decide +kernel, rfl, rfl, ran (by decide +kernel), by decide +kernel, by decide +kernel, by decide +kernel, by decide +kernel⟩

/-- Another context of the core has a join on its way to the first line of the page of type 3 at 0x20000. -/
def joinedAhead (phase : Nat) (ahead : List (Key × Nat)) : State :=
  { paged { sysRunner [0x20000, 0x1000] with phase := phase, ahead := ahead } 3 with
    ctxs := [{ runner [] with
      key := { asid := 1, ctxid := 3 }, status := .ready 0, slot := none
      outs := [{ n := 4, line := 0x800, store := false, va := 0x20000 }] }] }

theorem witness_FreezesAndFallowsComplete_3 : ∀ p ∈ rangeInstrs, ∃ (a n : Scalar) (s s1 s2 s3 : State) (vs : List Val) (pages : List (Nat × Leaf)), issues (p.1 a n) s = true ∧
    srcBound a s ∧
    srcBound n s ∧
    Operands [a, n] s vs s1 ∧
    (nthVal vs 0).mark = false ∧
    (nthVal vs 1).mark = false ∧
    s1.cur.phase = 0 ∧
    Gives (rangeOperands p.2 (nthVal vs 0).bits (nthVal vs 1).bits) s1 () s1 ∧
    Gives (rangePages (onlyTypes fieldType) (nthVal vs 0).bits.toNat (nthVal vs 1).bits.toNat) s1 pages s2 ∧
    (∀ x ∈ pages, x.2.remote = false) ∧
    Acknowledged false s2 s3 ∧
    s3.cur.posted = [] ∧
    (let inRange := rangeHas pages (nthVal vs 0).bits.toNat (nthVal vs 1).bits.toNat
   let ahead := s3.outsOf s3.cur.core (fun o => !o.store && inRange o.line)
   ∃ w ∈ ahead, s3.acked w = false) := by
  intro p hp
  simp only [rangeInstrs, List.mem_cons, List.not_mem_nil, or_false] at hp
  rcases hp with rfl | rfl <;>
  exact ⟨.g 1, .g 2, joinedAhead 0 [], _, _, _, _, _, by decide +kernel, rfl, rfl, ran (by decide +kernel), by decide +kernel, by decide +kernel, by decide +kernel, kept (by decide +kernel), ran (by decide +kernel), by decide +kernel, ⟨rfl, by decide +kernel⟩, by decide +kernel, by decide +kernel⟩

theorem witness_FreezesAndFallowsComplete_4 : ∀ p ∈ rangeInstrs, ∃ (a n : Scalar) (s s1 : State) (vs : List Val), issues (p.1 a n) s = true ∧
    srcBound a s ∧
    srcBound n s ∧
    Operands [a, n] s vs s1 ∧
    (nthVal vs 0).mark = false ∧
    (nthVal vs 1).mark = false ∧
    s1.cur.phase = 1 ∧
    (∃ w ∈ s1.cur.ahead, s1.acked w = false) := by
  intro p hp
  simp only [rangeInstrs, List.mem_cons, List.not_mem_nil, or_false] at hp
  rcases hp with rfl | rfl <;>
  exact ⟨.g 1, .g 2, joinedAhead 1 [({ asid := 1, ctxid := 3 }, 4)], _, _, by decide +kernel, rfl, rfl, ran (by decide +kernel), by decide +kernel, by decide +kernel, by decide +kernel, by decide +kernel⟩

theorem witness_ScalarMemoryAccessesComplete_1 : ∀ p ∈ loads, ∃ (d b : Scalar) (size : Fin 4) (off : BitVec 11) (s s1 s2 s3 s4 t : State) (vs : List Val) (pl : Place) (x m : Nat), issues (p.1 d b size off) s = true ∧
    srcBound b s ∧
    dstBound d s ∧
    Operands [b] s vs s1 ∧
    (nthVal vs 0).mark = false ∧
    (let ea := effective (nthVal vs 0).bits off size
   ea.toNat % 2 ^ size.val = 0 ∧
    Gives (access .read (2 ^ size.val) ea.toNat) s1 pl s2 ∧
    Gives (placeWaits .read pl (2 ^ size.val)) s2 false s3 ∧
    Gives (readPlace pl (2 ^ size.val) ea.toNat) s3 (some (x, m)) s4 ∧
    Gives (writeScalar d { bits := p.2 (8 * 2 ^ size.val) x, mark := decide (m ≠ 0) }) s4 () t) := by
  intro p hp
  simp only [loads, List.mem_cons, List.not_mem_nil, or_false] at hp
  rcases hp with rfl | rfl <;>
  exact ⟨.g 4, .g 1, 3, 0, with1 (runner [0x7FFFFFE00000]), _, _, _, _, _, _, .slice 0, 0, 0, by decide +kernel, rfl, rfl, ran (by decide +kernel), by decide +kernel, by decide +kernel, ranAs (by decide +kernel), ranAs (by decide +kernel), ranAs (by decide +kernel), did (by decide +kernel)⟩

theorem witness_ScalarMemoryAccessesComplete_2 : ∃ (v b : Scalar) (size : Fin 4) (off : BitVec 11) (s s1 s2 s3 s4 t : State) (x : Word) (pl : Place) (y : Val), issues (.st v b size off) s = true ∧
    srcBound b s ∧
    srcBound v s ∧
    Gives (readClean b) s x s1 ∧
    (let ea := effective x off size
   ea.toNat % 2 ^ size.val = 0 ∧
    Gives (access .write (2 ^ size.val) ea.toNat) s1 pl s2 ∧
    Gives (placeWaits .write pl (2 ^ size.val)) s2 false s3 ∧
    (∀ l, pl = .page l → l.ty = 11 → ∀ o ∈ s3.cur.outs, o.store = false) ∧
    Gives (checkChip pl (2 ^ size.val) ea.toNat) s3 () s3 ∧
    Gives (readScalar v) s3 y s4 ∧
    Gives (writePlace pl (2 ^ size.val) ea.toNat (y.bits.toNat % 2 ^ (8 * 2 ^ size.val)) (if y.mark then 2 ^ 2 ^ size.val - 1 else 0)) s4 () t) :=
  ⟨.g 2, .g 1, 3, 0, with1 (runner [0x7FFFFFE00000, 7]), _, _, _, _, _, _, .slice 0, _, by decide +kernel, rfl, rfl, ran (by decide +kernel), by decide +kernel, ranAs (by decide +kernel), ranAs (by decide +kernel), (by intro l h; cases h), kept (by decide +kernel), ran (by decide +kernel), did (by decide +kernel)⟩

theorem witness_ScalarMemoryAccessesComplete_3 : ∃ (d : Scalar) (imm : BitVec 19) (s s1 s2 t : State) (l : Leaf) (x : LineSnap), issues (.ldc d imm) s = true ∧
    dstBound d s ∧
    (let e : Word := s.cur.regs.pc.setWidth 64 + 2 * imm.signExtend 64
   e.toNat % 8 = 0 ∧
    windowOf e.toNat = .global ∧
    Gives (translate .read e.toNat) s l s1 ∧
    l.ty = 1 ∧
    Gives (readFrozen s1.cur.core s1.cur.asid l e.toNat) s1 (.ok x) s2 ∧
    mdPoison x.md = false ∧
    mdState x.md = 2 ∧
    Gives (writeScalar d { bits := BitVec.ofNat 64 (x.bytes (e.toNat % 128) 8) }) s2 () t) :=
  ⟨.g 4, 0x8000, constState 1 (mdOf false 1 false 2), _, _, _, leafAt 0x40000 1, _, by decide +kernel, rfl, by decide +kernel, by decide +kernel, ranAs (by decide +kernel), by decide +kernel, ranOk (by decide +kernel), by decide +kernel, by decide +kernel, did (by decide +kernel)⟩

theorem witness_StoresTakeTheirBytesAlone_1 : ∃ (v b : Fin 32) (size : Fin 4) (off : BitVec 11) (s : State), issues (.st (.g v) (.g b) size off) s = true ∧
    s.cur.slot = some .a ∧
    (s.cur.regs.readG b).mark = false ∧
    (let ea := (effective (s.cur.regs.readG b).bits off size).toNat
   (let o := ea - 0x7FFFFFE00000
   ea % 2 ^ size.val = 0 ∧
    0x7FFFFFE00000 ≤ ea ∧
    ea < 0x800000000000 ∧
    o + 2 ^ size.val ≤ s.cur.foot * 4096 ∧
    s.scratch.wf = true ∧
    s.cur.touchesBarrier o (2 ^ size.val) = false ∧
    s.touchesArea s.cur o (2 ^ size.val) = false ∧
    s.storeWaits s.cur o (2 ^ size.val) = false ∧
    s.cur.touchesDiscarded o (2 ^ size.val) = false)) :=
  ⟨2, 1, 3, 0, with1 (runner [0x7FFFFFE00000, 7]), by decide +kernel⟩

theorem witness_VectorMemoryAccessesComplete_1 : ∀ p ∈ ([(.vld, true, 512), (.vldb, false, 4)] : List ((VSpec → Scalar → Scalar → Instr) × Bool × Nat)), ∃ (d : VSpec) (b o : Scalar) (s s1 s2 s3 s4 t : State) (vs : List Val) (ps : List Piece) (ws : List (Nat × Nat × Nat)), issues (p.1 d b o) s = true ∧
    srcBound b s ∧
    srcBound o s ∧
    vdstBound d s ∧
    Operands [b, o] s vs s1 ∧
    (nthVal vs 0).mark = false ∧
    (nthVal vs 1).mark = false ∧
    (let va := ((nthVal vs 0).bits + (nthVal vs 1).bits).toNat
   Gives (vecPieces .read p.2.1 p.2.2 va) s1 ps s2 ∧
    Gives (piecesWait .read ps) s2 false s3 ∧
    Gives (readLanes ps (if p.2.1 then (laneList (lanesAt s2)).map (fun l => (l, va + 4 * l)) else (List.range 128).map (fun l => (l, va)))) s3 (some ws) s4 ∧
    Gives (writeVec d (vecOfWords ws)) s4 () t) := by
  intro p hp
  simp only [List.mem_cons, List.not_mem_nil, or_false] at hp
  rcases hp with rfl | rfl <;>
  exact ⟨.v 1, .g 1, .g 2, sliceState, _, _, _, _, _, _, _, _, by decide +kernel, rfl, rfl, rfl, ran (by decide +kernel), by decide +kernel, by decide +kernel, ran (by decide +kernel), ranAs (by decide +kernel), ranSome (by decide +kernel), did (by decide +kernel)⟩

theorem witness_VectorMemoryAccessesComplete_2 : ∃ (d : VSpec) (b st : Scalar) (s s1 s2 s3 s4 t : State) (vs : List Val) (ps : List Piece) (ws : List (Nat × Nat × Nat)), issues (.vlds d b st) s = true ∧
    srcBound b s ∧
    srcBound st s ∧
    vdstBound d s ∧
    Operands [b, st] s vs s1 ∧
    (nthVal vs 0).mark = false ∧
    (nthVal vs 1).mark = false ∧
    (let lanes := (laneList (lanesAt s1)).map (fun l =>
           (l, ((nthVal vs 0).bits + BitVec.ofNat 64 l * (nthVal vs 1).bits).toNat))
   Gives (lanePieces .read lanes) s1 ps s2 ∧
    Gives (piecesWait .read ps) s2 false s3 ∧
    Gives (readLanes ps lanes) s3 (some ws) s4 ∧
    Gives (writeVec d (vecOfWords ws)) s4 () t) :=
  ⟨.v 1, .g 1, .g 2, sliceState, _, _, _, _, _, _, _, _, by decide +kernel, rfl, rfl, rfl, ran (by decide +kernel), by decide +kernel, by decide +kernel, ran (by decide +kernel), ranAs (by decide +kernel), ranSome (by decide +kernel), did (by decide +kernel)⟩

theorem witness_VectorMemoryAccessesComplete_3 : ∃ (d : VSpec) (b : Scalar) (ix : VSpec) (s s1 s2 s3 s4 s5 t : State) (vs : List Val) (i : Vec) (ps : List Piece) (ws : List (Nat × Nat × Nat)), issues (.vgather d b ix) s = true ∧
    srcBound b s ∧
    vsrcBound ix s ∧
    vdstBound d s ∧
    Operands [b] s vs s1 ∧
    Gives (readVecOnce ix) s1 i s2 ∧
    (nthVal vs 0).mark = false ∧
    i.mark &&& lanesAt s2 = 0 ∧
    (let lanes := (laneList (lanesAt s2)).map (fun l => (l, ((nthVal vs 0).bits + (lane i.bits l).setWidth 64).toNat))
   Gives (lanePieces .read lanes) s2 ps s3 ∧
    Gives (piecesWait .read ps) s3 false s4 ∧
    Gives (readLanes ps lanes) s4 (some ws) s5 ∧
    Gives (writeVec d (vecOfWords ws)) s5 () t) :=
  ⟨.v 1, .g 1, .v 2, sliceState, _, _, _, _, _, _, _, _, _, _, by decide +kernel, rfl, rfl, rfl, ran (by decide +kernel), ran (by decide +kernel), by decide +kernel, by decide +kernel, ran (by decide +kernel), ranAs (by decide +kernel), ranSome (by decide +kernel), did (by decide +kernel)⟩

theorem witness_VectorMemoryAccessesComplete_4 : ∃ (x : VSpec) (b o : Scalar) (s s1 s2 s3 s4 s5 t : State) (u v : Val) (ps : List Piece) (w : Vec), issues (.vst x b o) s = true ∧
    srcBound b s ∧
    srcBound o s ∧
    vsrcBound x s ∧
    Gives (readScalar b) s u s1 ∧
    Gives (readScalar o) s1 v s2 ∧
    u.mark = false ∧
    v.mark = false ∧
    Gives (vecPieces .write true 512 (u.bits + v.bits).toNat) s2 ps s3 ∧
    Gives (piecesWait .write ps) s3 false s4 ∧
    Gives (ps.forM (fun p => checkChip p.place p.n p.va)) s4 () s4 ∧
    Gives (readVec x) s4 w s5 ∧
    Gives (writeLanes ps ((laneList (lanesAt s3)).map (fun l => (l, (u.bits + v.bits).toNat + 4 * l))) w) s5 () t :=
  ⟨.v 1, .g 1, .g 2, sliceState, _, _, _, _, _, _, _, _, _, _, by decide +kernel, rfl, rfl, rfl, ran (by decide +kernel), ran (by decide +kernel), by decide +kernel, by decide +kernel, ran (by decide +kernel), ranAs (by decide +kernel), kept (by decide +kernel), ran (by decide +kernel), did (by decide +kernel)⟩

theorem witness_VectorMemoryAccessesComplete_5 : ∃ (x : VSpec) (b st : Scalar) (s s1 s2 s3 s4 s5 t : State) (u v : Word) (ps : List Piece) (w : Vec), issues (.vsts x b st) s = true ∧
    srcBound b s ∧
    srcBound st s ∧
    vsrcBound x s ∧
    Gives (readClean b) s u s1 ∧
    Gives (readClean st) s1 v s2 ∧
    (let lanes := (laneList (lanesAt s2)).map (fun l => (l, (u + BitVec.ofNat 64 l * v).toNat))
   Gives (lanePieces .write lanes) s2 ps s3 ∧
    Gives (piecesWait .write ps) s3 false s4 ∧
    Gives (ps.forM (fun p => checkChip p.place p.n p.va)) s4 () s4 ∧
    Gives (readVec x) s4 w s5 ∧
    Gives (writeLanes ps lanes w) s5 () t) :=
  ⟨.v 1, .g 1, .g 2, sliceState, _, _, _, _, _, _, _, _, _, _, by decide +kernel, rfl, rfl, rfl, ran (by decide +kernel), ran (by decide +kernel), ran (by decide +kernel), ranAs (by decide +kernel), kept (by decide +kernel), ran (by decide +kernel), did (by decide +kernel)⟩

theorem witness_VectorMemoryAccessesComplete_6 : ∃ (x : VSpec) (b : Scalar) (ix : VSpec) (s s1 s2 s3 s4 s5 t : State) (u : Word) (i : Vec) (ps : List Piece) (w : Vec), issues (.vscatter x b ix) s = true ∧
    srcBound b s ∧
    vsrcBound ix s ∧
    vsrcBound x s ∧
    Gives (readClean b) s u s1 ∧
    Gives (readVec ix) s1 i s2 ∧
    i.mark &&& lanesAt s2 = 0 ∧
    (let lanes := (laneList (lanesAt s2)).map (fun l => (l, (u + (lane i.bits l).setWidth 64).toNat))
   Gives (lanePieces .write lanes) s2 ps s3 ∧
    Gives (piecesWait .write ps) s3 false s4 ∧
    Gives (ps.forM (fun p => checkChip p.place p.n p.va)) s4 () s4 ∧
    Gives (readVec x) s4 w s5 ∧
    Gives (writeLanes ps lanes w) s5 () t) :=
  ⟨.v 1, .g 1, .v 2, sliceState, _, _, _, _, _, _, _, _, _, _, by decide +kernel, rfl, rfl, rfl, ran (by decide +kernel), ran (by decide +kernel), by decide +kernel, ran (by decide +kernel), ranAs (by decide +kernel), kept (by decide +kernel), ran (by decide +kernel), did (by decide +kernel)⟩

theorem witness_VectorMemoryAccessesComplete_7 : ∃ (d : VSpec) (tile : Fin 16) (k : Scalar) (s s1 t : State) (x : Word), issues (.vlda d tile k) s = true ∧
    srcBound k s ∧
    vdstBound d s ∧
    Gives (readClean k) s x s1 ∧
    TileChunk s1 tile x ∧
    s1.cur.discTiles.getLsbD tile.val = false ∧
    Gives (writeVec d (s1.chunk s1.cur tile.val x.toNat)) s1 () t :=
  ⟨.v 1, 1, .g 3, sliceState, _, _, _, by decide +kernel, rfl, rfl, ran (by decide +kernel), ⟨by decide +kernel, by decide +kernel, by decide +kernel, by decide +kernel⟩, by decide +kernel, did (by decide +kernel)⟩

theorem witness_VectorMemoryAccessesComplete_8 : ∃ (v : VSpec) (tile : Fin 16) (k : Scalar) (s s1 s2 t : State) (x : Word) (w : Vec), issues (.vsta v tile k) s = true ∧
    srcBound k s ∧
    vsrcBound v s ∧
    Gives (readClean k) s x s1 ∧
    TileChunk s1 tile x ∧
    Gives (readVec v) s1 w s2 ∧
    Gives (writeChunk tile.val x.toNat (lanesAt s2) w) s2 () t :=
  ⟨.v 1, 1, .g 3, sliceState, _, _, _, _, _, by decide +kernel, rfl, rfl, ran (by decide +kernel), ⟨by decide +kernel, by decide +kernel, by decide +kernel, by decide +kernel⟩, ran (by decide +kernel), did (by decide +kernel)⟩

theorem witness_VectorMemoryAccessesComplete_9 : ∃ (v : VSpec) (tile : Fin 16) (k : Scalar) (s s1 s2 : State) (x : Word) (w : Vec), issues (.vadda v tile k) s = true ∧
    srcBound k s ∧
    vsrcBound v s ∧
    Gives (readClean k) s x s1 ∧
    TileChunk s1 tile x ∧
    s1.cur.discTiles.getLsbD tile.val = false ∧
    Gives (readVec v) s1 w s2 :=
  ⟨.v 1, 1, .g 3, sliceState, _, _, _, _, by decide +kernel, rfl, rfl, ran (by decide +kernel), ⟨by decide +kernel, by decide +kernel, by decide +kernel, by decide +kernel⟩, by decide +kernel, ran (by decide +kernel)⟩

theorem witness_VectorMemoryAccessesComplete_10 : ∃ (d v : VSpec) (tile : Fin 16) (k : Scalar) (i : Instr) (s s1 : State) (x : Word),
    i ∈ ([.vlda d tile k, .vsta v tile k, .vadda v tile k] : List Instr) ∧
    issues i s = true ∧
    srcBound k s ∧
    vdstBound d s ∧
    vsrcBound v s ∧
    Gives (readClean k) s x s1 ∧
    x.toNat < 32 ∧
    tile.val < s1.cur.tiles ∧
    s1.cur.lampCfg[tile] = none ∧
    s1.cur.discTiles.getLsbD tile.val = false ∧
    s1.cur.tileWaits tile.val = true :=
  ⟨.v 1, .v 2, 1, .g 3, .vlda (.v 1) 1 (.g 3),
    with1 { oneLane [0x7FFFFFE00000, 0x40] with cmds := [aCmd 1 (.mload 0 1) .started] }, _, _,
    List.mem_cons_self, by decide +kernel, rfl, rfl, rfl, ran (by decide +kernel), by decide +kernel, by decide +kernel,
    by decide +kernel, by decide +kernel, by decide +kernel⟩

/-- A tile access waits for an engine command that names the tile (R178). -/
theorem test_tile_access_waits : (match exec (.vlda (.v 1) 1 (.g 3))
      (with1 { oneLane [0x7FFFFFE00000, 0x40] with cmds := [aCmd 1 (.mload 0 1) .started] }) with
    | .next t => t.stalled
    | _ => false) = true := by decide +kernel

theorem witness_VectorJoinsComplete_1 : ∃ (x : VSpec) (b : Scalar) (ix : VSpec) (s s1 s2 s3 s4 t : State) (u : Word) (i v : Vec) (ls : List Leaf), issues (.vjoin x b ix) s = true ∧
    srcBound b s ∧
    vsrcBound ix s ∧
    vsrcBound x s ∧
    Gives (readClean b) s u s1 ∧
    Gives (readVec ix) s1 i s2 ∧
    i.mark &&& lanesAt s2 = 0 ∧
    (let at_ (l : Nat) : Nat := (u + (lane i.bits l).setWidth 64).toNat
   Gives ((laneList (lanesAt s2)).mapM (fun l => fieldAccess .write (fun _ => none) (BitVec.ofNat 64 (at_ l)))) s2 ls s3 ∧
    (∀ l ∈ ls, 2 ≤ l.ty ∧ l.ty ≤ 9) ∧
    (∀ l ∈ laneList (lanesAt s2), at_ l % 4 = 0) ∧
    Gives (readVec x) s3 v s4 ∧
    Gives (((laneList (lanesAt s2)).zip ls).forM (fun p => joinCell p.2 (at_ p.1) 32 ((lane v.bits p.1).toNat : Nat) (v.mark.getLsbD p.1) false)) s4 () t) :=
  ⟨.v 1, .g 1, .v 2, paged (oneLane [0x20000, 0x40]) 3, _, _, _, _, _, _, _, _, _, by decide +kernel, rfl, rfl, rfl, ran (by decide +kernel), ran (by decide +kernel), by decide +kernel, ran (by decide +kernel), by decide +kernel, by decide +kernel, ran (by decide +kernel), did (by decide +kernel)⟩

theorem witness_VectorJoinsComplete_2 : ∃ (x : VSpec) (b : Scalar) (ix : VSpec) (s s1 s2 s3 s4 t : State) (u : Word) (i v : Vec) (ls : List Leaf) (ys : List Int), issues (.vxjoin x b ix) s = true ∧
    srcBound b s ∧
    vsrcBound ix s ∧
    vsrcBound x s ∧
    Gives (readClean b) s u s1 ∧
    Gives (readVec ix) s1 i s2 ∧
    i.mark &&& lanesAt s2 = 0 ∧
    (let at_ (l : Nat) : Nat := (u + (lane i.bits l).setWidth 64).toNat
   Gives ((laneList (lanesAt s2)).mapM (fun l => fieldAccess .write (fun _ => none) (BitVec.ofNat 64 (at_ l)))) s2 ls s3 ∧
    (∀ l ∈ ls, l.ty = 10) ∧
    (∀ l ∈ laneList (lanesAt s2), at_ l % 16 = 0) ∧
    Gives (readVec x) s3 v s4 ∧
    ((laneList (lanesAt s2)).zip ls).map (fun p => contribution true ((lane v.bits p.1).setWidth 64) p.2.arg.toInt) = ys.map some ∧
    Gives ((((laneList (lanesAt s2)).zip ls).zip ys).forM (fun p => joinCell p.1.2 (at_ p.1.1) 128 p.2 (v.mark.getLsbD p.1.1) false)) s4 () t) :=
  ⟨.v 1, .g 1, .v 2, paged (oneLane [0x20000, 0x40]) 10, _, _, _, _, _, _, _, _, _, [0], by decide +kernel, rfl, rfl, rfl, ran (by decide +kernel), ran (by decide +kernel), by decide +kernel, ran (by decide +kernel), by decide +kernel, by decide +kernel, ran (by decide +kernel), by decide +kernel, did (by decide +kernel)⟩

theorem witness_SpawnsAndSendsComplete_1 : ∃ (rec arg : Scalar) (s s1 s2 : State) (vs : List Val) (r : TaskRec), issues (.spawn rec arg) s = true ∧
    srcBound rec s ∧
    srcBound arg s ∧
    Operands [rec, arg] s vs s1 ∧
    RecordAtHand 2 (nthVal vs 0) false s1 r s2 :=
  ⟨.g 1, .g 2, with1 (runner [0x7FFFFFE00000, 0x40]), _, _, _, _, by decide +kernel, rfl, rfl, ran (by decide +kernel), ⟨by decide +kernel, _, ranSome (by decide +kernel), acknowledged (by decide +kernel)⟩⟩

theorem witness_SpawnsAndSendsComplete_2 : ∃ (rec cell trig : Scalar) (s s1 s2 s3 s4 s5 t : State) (vs : List Val) (r : TaskRec) (l : Leaf), issues (.spawnw rec cell trig) s = true ∧
    srcBound rec s ∧
    srcBound cell s ∧
    srcBound trig s ∧
    Operands [rec, cell, trig] s vs s1 ∧
    (nthVal vs 0).mark = false ∧
    Gives (takeRecord 3 (nthVal vs 0).bits false) s1 (some r) s2 ∧
    (nthVal vs 1).mark = false ∧
    (let ea := (nthVal vs 1).bits
   Admitted .read ea s2 l s3 ∧
    1 ≤ l.ty ∧
    l.ty ≤ 10 ∧
    (l.ty = 1 → ea.toNat % 8 = 0) ∧
    Acknowledged true s3 s4 ∧
    Gives (clearAhead (l.key ea.toNat)) s4 true s5 ∧
    Gives (sendHome l ea.toNat (.test (l.key ea.toNat) l.ty l.arg (.await (nthVal vs 2).bits) (.watch s5.cur.key s5.cur.core r s5.cur.regs.pc))) s5 () t) :=
  ⟨.g 1, .g 2, .g 3, paged (runner [0x7FFFFFE00000, 0x20000, 5]) 3, _, _, _, _, _, _, _, _, _, by decide +kernel, rfl, rfl, rfl, ran (by decide +kernel), by decide +kernel, ranSome (by decide +kernel), by decide +kernel, ran (by decide +kernel), by decide +kernel, by decide +kernel, by decide +kernel, acknowledged (by decide +kernel), ranAs (by decide +kernel), did (by decide +kernel)⟩

theorem witness_SpawnsAndSendsComplete_3 : ∀ p ∈ sends, ∃ (core rec : Scalar) (s s1 s2 : State) (vs : List Val) (r : TaskRec), issues (p.1 core rec) s = true ∧
    srcBound core s ∧
    srcBound rec s ∧
    Operands [core, rec] s vs s1 ∧
    Sendable (nthVal vs 0) ∧
    RecordAtHand 2 (nthVal vs 1) p.2 s1 r s2 ∧
    (let n := (nthVal vs 0).bits.toNat
   ∃ d, s2.redirect n (dieOf s2.cur.core) = some d ∧
    s2.inboxRoom d p.2 = true) := by
  intro p hp
  simp only [sends, List.mem_cons, List.not_mem_nil, or_false] at hp
  rcases hp with rfl | rfl
  · exact ⟨.g 1, .g 2, sendState false false, _, _, _, _, by decide +kernel, rfl, rfl, ran (by decide +kernel), ⟨by decide +kernel, by decide +kernel⟩, ⟨by decide +kernel, _, ranSome (by decide +kernel), acknowledged (by decide +kernel)⟩, 5, by decide +kernel, by decide +kernel⟩
  · exact ⟨.g 1, .g 2, sendState true false, _, _, _, _, by decide +kernel, rfl, rfl, ran (by decide +kernel), ⟨by decide +kernel, by decide +kernel⟩, ⟨by decide +kernel, _, ranSome (by decide +kernel), acknowledged (by decide +kernel)⟩, 5, by decide +kernel, by decide +kernel⟩

theorem witness_SpawnsAndSendsComplete_4 : ∀ p ∈ sends, ∃ (core rec : Scalar) (s s1 s2 : State) (vs : List Val) (r : TaskRec), issues (p.1 core rec) s = true ∧
    srcBound core s ∧
    srcBound rec s ∧
    Operands [core, rec] s vs s1 ∧
    Sendable (nthVal vs 0) ∧
    RecordAtHand 2 (nthVal vs 1) p.2 s1 r s2 ∧
    (let n := (nthVal vs 0).bits.toNat
   (∀ d, s2.redirect n (dieOf s2.cur.core) = some d → s2.inboxRoom d p.2 = false)) := by
  intro p hp
  simp only [sends, List.mem_cons, List.not_mem_nil, or_false] at hp
  rcases hp with rfl | rfl
  · exact ⟨.g 1, .g 2, sendState false true, _, _, _, _, by decide +kernel, rfl, rfl, ran (by decide +kernel), ⟨by decide +kernel, by decide +kernel⟩, ⟨by decide +kernel, _, ranSome (by decide +kernel), acknowledged (by decide +kernel)⟩, (by intro n d h; obtain rfl : d = 5 := Option.some.inj (h.symm.trans (by decide +kernel)); decide +kernel)⟩
  · exact ⟨.g 1, .g 2, sendState true true, _, _, _, _, by decide +kernel, rfl, rfl, ran (by decide +kernel), ⟨by decide +kernel, by decide +kernel⟩, ⟨by decide +kernel, _, ranSome (by decide +kernel), acknowledged (by decide +kernel)⟩, (by intro n d h; obtain rfl : d = 5 := Option.some.inj (h.symm.trans (by decide +kernel)); decide +kernel)⟩

theorem witness_SpawnsAndSendsComplete_5 : ∀ p ∈ trySends, ∃ (x core rec : Scalar) (s s1 s2 : State) (vs : List Val) (r : TaskRec) (d : Nat), issues (p.1 x core rec) s = true ∧
    s.cur.strict = false ∧
    srcBound core s ∧
    srcBound rec s ∧
    dstBound x s ∧
    Operands [core, rec] s vs s1 ∧
    Sendable (nthVal vs 0) ∧
    RecordAtHand 2 (nthVal vs 1) p.2.2 s1 r s2 ∧
    s2.cur.replaying = false ∧
    s2.redirect (nthVal vs 0).bits.toNat (dieOf s2.cur.core) = some d ∧
    ∃ t, s2.inboxRoom d p.2.2 = true ∧
    Gives (do writeScalar x { bits := 0 }; logOutcome p.2.1 [0]; markNd) (s2.putInbox d p.2.2 r) () t := by
  intro p hp
  simp only [trySends, List.mem_cons, List.not_mem_nil, or_false] at hp
  rcases hp with rfl | rfl
  · exact ⟨.g 3, .g 1, .g 2, sendState false false, _, _, _, _, 5, by decide +kernel, by decide +kernel, rfl, rfl, rfl, ran (by decide +kernel), ⟨by decide +kernel, by decide +kernel⟩, ⟨by decide +kernel, _, ranSome (by decide +kernel), acknowledged (by decide +kernel)⟩, by decide +kernel, by decide +kernel, _, by decide +kernel, did (by decide +kernel)⟩
  · exact ⟨.g 3, .g 1, .g 2, sendState true false, _, _, _, _, 5, by decide +kernel, by decide +kernel, rfl, rfl, rfl, ran (by decide +kernel), ⟨by decide +kernel, by decide +kernel⟩, ⟨by decide +kernel, _, ranSome (by decide +kernel), acknowledged (by decide +kernel)⟩, by decide +kernel, by decide +kernel, _, by decide +kernel, did (by decide +kernel)⟩

theorem witness_SpawnsAndSendsComplete_6 : ∀ p ∈ trySends, ∃ (x core rec : Scalar) (s s1 s2 : State) (vs : List Val) (r : TaskRec) (d : Nat), issues (p.1 x core rec) s = true ∧
    s.cur.strict = false ∧
    srcBound core s ∧
    srcBound rec s ∧
    dstBound x s ∧
    Operands [core, rec] s vs s1 ∧
    Sendable (nthVal vs 0) ∧
    RecordAtHand 2 (nthVal vs 1) p.2.2 s1 r s2 ∧
    s2.cur.replaying = false ∧
    s2.redirect (nthVal vs 0).bits.toNat (dieOf s2.cur.core) = some d ∧
    ∃ t, s2.inboxRoom d p.2.2 = false ∧
    Gives (do writeScalar x { bits := 1 }; logOutcome p.2.1 [1]; markNd) s2 () t := by
  intro p hp
  simp only [trySends, List.mem_cons, List.not_mem_nil, or_false] at hp
  rcases hp with rfl | rfl
  · exact ⟨.g 3, .g 1, .g 2, sendState false true, _, _, _, _, 5, by decide +kernel, by decide +kernel, rfl, rfl, rfl, ran (by decide +kernel), ⟨by decide +kernel, by decide +kernel⟩, ⟨by decide +kernel, _, ranSome (by decide +kernel), acknowledged (by decide +kernel)⟩, by decide +kernel, by decide +kernel, _, by decide +kernel, did (by decide +kernel)⟩
  · exact ⟨.g 3, .g 1, .g 2, sendState true true, _, _, _, _, 5, by decide +kernel, by decide +kernel, rfl, rfl, rfl, ran (by decide +kernel), ⟨by decide +kernel, by decide +kernel⟩, ⟨by decide +kernel, _, ranSome (by decide +kernel), acknowledged (by decide +kernel)⟩, by decide +kernel, by decide +kernel, _, by decide +kernel, did (by decide +kernel)⟩

theorem witness_SpawnsAndSendsComplete_7 : ∀ p ∈ trySends, ∃ (x core rec : Scalar) (s s1 s2 t : State) (vs : List Val) (r : TaskRec), issues (p.1 x core rec) s = true ∧
    s.cur.strict = false ∧
    srcBound core s ∧
    srcBound rec s ∧
    dstBound x s ∧
    Operands [core, rec] s vs s1 ∧
    Sendable (nthVal vs 0) ∧
    RecordAtHand 2 (nthVal vs 1) p.2.2 s1 r s2 ∧
    s2.cur.replaying = false ∧
    s2.redirect (nthVal vs 0).bits.toNat (dieOf s2.cur.core) = none ∧
    Gives (do writeScalar x { bits := 1 }; logOutcome p.2.1 [1]; markNd) s2 () t := by
  intro p hp
  simp only [trySends, List.mem_cons, List.not_mem_nil, or_false] at hp
  rcases hp with rfl | rfl
  · exact ⟨.g 3, .g 1, .g 2, { sendState false false with stoppedDies := 15 }, _, _, _, _, _, by decide +kernel, by decide +kernel, rfl, rfl, rfl, ran (by decide +kernel), ⟨by decide +kernel, by decide +kernel⟩, ⟨by decide +kernel, _, ranSome (by decide +kernel), acknowledged (by decide +kernel)⟩, by decide +kernel, by decide +kernel, did (by decide +kernel)⟩
  · exact ⟨.g 3, .g 1, .g 2, { sendState true false with stoppedDies := 15 }, _, _, _, _, _, by decide +kernel, by decide +kernel, rfl, rfl, rfl, ran (by decide +kernel), ⟨by decide +kernel, by decide +kernel⟩, ⟨by decide +kernel, _, ranSome (by decide +kernel), acknowledged (by decide +kernel)⟩, by decide +kernel, by decide +kernel, did (by decide +kernel)⟩

theorem witness_SpawnsAndSendsComplete_8 : ∃ (c : Nat) (high : Bool) (r : TaskRec) (s : State), (let t := s.putInbox c high r
   ∃ k, k ≠ c) :=
  ⟨5, true, aRecord, plainState, 6, by decide⟩

theorem witness_SpawnsAndSendsComplete_9 : ∀ p ∈ trySends, ∃ (x core rec : Scalar) (s s1 s2 : State) (vs : List Val) (r : TaskRec) (q : Fin 64) (ws : List Word), issues (p.1 x core rec) s = true ∧
    s.cur.strict = false ∧
    srcBound core s ∧
    srcBound rec s ∧
    dstBound x s ∧
    Operands [core, rec] s vs s1 ∧
    Sendable (nthVal vs 0) ∧
    RecordAtHand 2 (nthVal vs 1) p.2.2 s1 r s2 ∧
    s2.cur.replaying = true ∧
    LogHas s2 q ws ∧
    (let out := (s2.logOutcomeOf ws).headD 0
   (let n := (nthVal vs 0).bits.toNat
   ws[2]? ≠ some (BitVec.ofNat 64 p.2.1))) := by
  intro p hp
  simp only [trySends, List.mem_cons, List.not_mem_nil, or_false] at hp
  rcases hp with rfl | rfl
  · exact ⟨.g 3, .g 1, .g 2, replaySend false false 7 0, _, _, _, _, 0, _, by decide +kernel, by decide +kernel, rfl, rfl, rfl, ran (by decide +kernel), ⟨by decide +kernel, by decide +kernel⟩, ⟨by decide +kernel, _, ranSome (by decide +kernel), acknowledged (by decide +kernel)⟩, by decide +kernel, ⟨by decide +kernel, 0, by decide +kernel, rfl, by decide +kernel, fun j h => absurd h (by omega)⟩, by decide +kernel⟩
  · exact ⟨.g 3, .g 1, .g 2, replaySend true false 6 0, _, _, _, _, 0, _, by decide +kernel, by decide +kernel, rfl, rfl, rfl, ran (by decide +kernel), ⟨by decide +kernel, by decide +kernel⟩, ⟨by decide +kernel, _, ranSome (by decide +kernel), acknowledged (by decide +kernel)⟩, by decide +kernel, ⟨by decide +kernel, 0, by decide +kernel, rfl, by decide +kernel, fun j h => absurd h (by omega)⟩, by decide +kernel⟩

theorem witness_SpawnsAndSendsComplete_10 : ∀ p ∈ trySends, ∃ (x core rec : Scalar) (s s1 s2 : State) (vs : List Val) (r : TaskRec) (q : Fin 64) (ws : List Word), issues (p.1 x core rec) s = true ∧
    s.cur.strict = false ∧
    srcBound core s ∧
    srcBound rec s ∧
    dstBound x s ∧
    Operands [core, rec] s vs s1 ∧
    Sendable (nthVal vs 0) ∧
    RecordAtHand 2 (nthVal vs 1) p.2.2 s1 r s2 ∧
    s2.cur.replaying = true ∧
    LogHas s2 q ws ∧
    (let out := (s2.logOutcomeOf ws).headD 0
   (let n := (nthVal vs 0).bits.toNat
   ws[2]? = some (BitVec.ofNat 64 p.2.1) ∧
    ∃ t, out ≠ 0 ∧
    Gives (do writeScalar x { bits := 1 }; logOutcome p.2.1 [1]; markNd) s2 () t)) := by
  intro p hp
  simp only [trySends, List.mem_cons, List.not_mem_nil, or_false] at hp
  rcases hp with rfl | rfl
  · exact ⟨.g 3, .g 1, .g 2, replaySend false false 6 1, _, _, _, _, 0, _, by decide +kernel, by decide +kernel, rfl, rfl, rfl, ran (by decide +kernel), ⟨by decide +kernel, by decide +kernel⟩, ⟨by decide +kernel, _, ranSome (by decide +kernel), acknowledged (by decide +kernel)⟩, by decide +kernel, ⟨by decide +kernel, 0, by decide +kernel, rfl, by decide +kernel, fun j h => absurd h (by omega)⟩, by decide +kernel, _, by decide +kernel, did (by decide +kernel)⟩
  · exact ⟨.g 3, .g 1, .g 2, replaySend true false 7 1, _, _, _, _, 0, _, by decide +kernel, by decide +kernel, rfl, rfl, rfl, ran (by decide +kernel), ⟨by decide +kernel, by decide +kernel⟩, ⟨by decide +kernel, _, ranSome (by decide +kernel), acknowledged (by decide +kernel)⟩, by decide +kernel, ⟨by decide +kernel, 0, by decide +kernel, rfl, by decide +kernel, fun j h => absurd h (by omega)⟩, by decide +kernel, _, by decide +kernel, did (by decide +kernel)⟩

theorem witness_SpawnsAndSendsComplete_11 : ∀ p ∈ trySends, ∃ (x core rec : Scalar) (s s1 s2 : State) (vs : List Val) (r : TaskRec) (q : Fin 64) (ws : List Word), issues (p.1 x core rec) s = true ∧
    s.cur.strict = false ∧
    srcBound core s ∧
    srcBound rec s ∧
    dstBound x s ∧
    Operands [core, rec] s vs s1 ∧
    Sendable (nthVal vs 0) ∧
    RecordAtHand 2 (nthVal vs 1) p.2.2 s1 r s2 ∧
    s2.cur.replaying = true ∧
    LogHas s2 q ws ∧
    (let out := (s2.logOutcomeOf ws).headD 0
   (let n := (nthVal vs 0).bits.toNat
   ws[2]? = some (BitVec.ofNat 64 p.2.1) ∧
    ∃ d t, out = 0 ∧
    s2.redirect n (dieOf s2.cur.core) = some d ∧
    s2.inboxRoom d p.2.2 = true ∧
    Gives (do writeScalar x { bits := 0 }; logOutcome p.2.1 [0]; markNd) (s2.putInbox d p.2.2 r) () t)) := by
  intro p hp
  simp only [trySends, List.mem_cons, List.not_mem_nil, or_false] at hp
  rcases hp with rfl | rfl
  · exact ⟨.g 3, .g 1, .g 2, replaySend false false 6 0, _, _, _, _, 0, _, by decide +kernel, by decide +kernel, rfl, rfl, rfl, ran (by decide +kernel), ⟨by decide +kernel, by decide +kernel⟩, ⟨by decide +kernel, _, ranSome (by decide +kernel), acknowledged (by decide +kernel)⟩, by decide +kernel, ⟨by decide +kernel, 0, by decide +kernel, rfl, by decide +kernel, fun j h => absurd h (by omega)⟩, by decide +kernel, 5, _, by decide +kernel, by decide +kernel, by decide +kernel, did (by decide +kernel)⟩
  · exact ⟨.g 3, .g 1, .g 2, replaySend true false 7 0, _, _, _, _, 0, _, by decide +kernel, by decide +kernel, rfl, rfl, rfl, ran (by decide +kernel), ⟨by decide +kernel, by decide +kernel⟩, ⟨by decide +kernel, _, ranSome (by decide +kernel), acknowledged (by decide +kernel)⟩, by decide +kernel, ⟨by decide +kernel, 0, by decide +kernel, rfl, by decide +kernel, fun j h => absurd h (by omega)⟩, by decide +kernel, 5, _, by decide +kernel, by decide +kernel, by decide +kernel, did (by decide +kernel)⟩

theorem witness_SpawnsAndSendsComplete_12 : ∀ p ∈ trySends, ∃ (x core rec : Scalar) (s s1 s2 : State) (vs : List Val) (r : TaskRec) (q : Fin 64) (ws : List Word), issues (p.1 x core rec) s = true ∧
    s.cur.strict = false ∧
    srcBound core s ∧
    srcBound rec s ∧
    dstBound x s ∧
    Operands [core, rec] s vs s1 ∧
    Sendable (nthVal vs 0) ∧
    RecordAtHand 2 (nthVal vs 1) p.2.2 s1 r s2 ∧
    s2.cur.replaying = true ∧
    LogHas s2 q ws ∧
    (let out := (s2.logOutcomeOf ws).headD 0
   (let n := (nthVal vs 0).bits.toNat
   ws[2]? = some (BitVec.ofNat 64 p.2.1) ∧
    out = 0 ∧
    (∀ d, s2.redirect n (dieOf s2.cur.core) = some d → s2.inboxRoom d p.2.2 = false))) := by
  intro p hp
  simp only [trySends, List.mem_cons, List.not_mem_nil, or_false] at hp
  rcases hp with rfl | rfl
  · exact ⟨.g 3, .g 1, .g 2, replaySend false true 6 0, _, _, _, _, 0, _, by decide +kernel, by decide +kernel, rfl, rfl, rfl, ran (by decide +kernel), ⟨by decide +kernel, by decide +kernel⟩, ⟨by decide +kernel, _, ranSome (by decide +kernel), acknowledged (by decide +kernel)⟩, by decide +kernel, ⟨by decide +kernel, 0, by decide +kernel, rfl, by decide +kernel, fun j h => absurd h (by omega)⟩, by decide +kernel, by decide +kernel, (by intro d e; have h5 : some 5 = some d := (by rw [← e]; decide +kernel); cases h5; decide +kernel)⟩
  · exact ⟨.g 3, .g 1, .g 2, replaySend true true 7 0, _, _, _, _, 0, _, by decide +kernel, by decide +kernel, rfl, rfl, rfl, ran (by decide +kernel), ⟨by decide +kernel, by decide +kernel⟩, ⟨by decide +kernel, _, ranSome (by decide +kernel), acknowledged (by decide +kernel)⟩, by decide +kernel, ⟨by decide +kernel, 0, by decide +kernel, rfl, by decide +kernel, fun j h => absurd h (by omega)⟩, by decide +kernel, by decide +kernel, (by intro d e; have h5 : some 5 = some d := (by rw [← e]; decide +kernel); cases h5; decide +kernel)⟩

theorem witness_SpawnsAndSendsComplete_13 : ∃ (c bd : Nat) (s : State), c < 768 ∧
    (s.core c).out = false ∧
    (s.core c).drained = false ∧
    s.coreLost c = false ∧
    s.apart bd (dieOf c) = false :=
  ⟨5, 0, plainState, by decide +kernel⟩

theorem witness_ChannelTwinsTakeOrAnswer_1 : ∃ (st data : Scalar) (p : Fin 8) (s s1 s2 t : State) (e : PortEnd) (ch : Channel) (n : Nat) (x : Vec), TwinOn (.ctryrecv st (.c p) data) s p e ch ∧
    e.sending = false ∧
    ch.wide = false ∧
    dstBound data s ∧
    dstBound st s ∧
    s.cur.replaying = false ∧
    Gives (itemsSeen ch) s n s1 ∧
    0 < n ∧
    Gives (takeItem p) s1 x s2 ∧
    Gives (do writeScalar data x.toVal; endTwin 1 st 1 [x.toVal.bits]) s2 .done t :=
  ⟨.g 5, .g 4, 0, chanState false false 1 someItems, _, _, _, { chan := 7, sending := false }, theChannel false 1 someItems, someItems.length - Config.inFlight 0, _, ⟨by decide +kernel, by decide +kernel, rfl, rfl⟩, by decide +kernel, by decide +kernel, rfl, rfl, by decide +kernel, rfl, someItems_seen, ran (by decide +kernel), ranAs (by decide +kernel)⟩

theorem witness_ChannelTwinsTakeOrAnswer_2 : ∃ (st data : Scalar) (p : Fin 8) (s s1 s2 t : State) (e : PortEnd) (ch : Channel) (n : Nat) (x : Vec), TwinOn (.ctryrecv st (.c p) data) s p e ch ∧
    e.sending = false ∧
    ch.wide = false ∧
    dstBound data s ∧
    dstBound st s ∧
    s.cur.replaying = false ∧
    Gives (itemsSeen ch) s n s1 ∧
    n = 0 ∧
    Gives (do
          match data with
          | .q _ => writeScalar data { bits := 0 }
          | _ => pure ()
          endTwin 1 st 0 [0]) s1 .done t :=
  ⟨.g 5, .g 4, 0, chanState false false 1 [], _, plainState, _, { chan := 7, sending := false }, theChannel false 1 [], [].length - Config.inFlight 0, { bits := 0 }, ⟨by decide +kernel, by decide +kernel, rfl, rfl⟩, by decide +kernel, by decide +kernel, rfl, rfl, by decide +kernel, rfl, Nat.zero_sub _, ranAs (by decide +kernel)⟩

theorem witness_ChannelTwinsTakeOrAnswer_3 : ∃ (st : Scalar) (data : VSpec) (p : Fin 8) (s s1 s2 t : State) (e : PortEnd) (ch : Channel) (n : Nat) (x : Vec), TwinOn (.ctryrecvV st (.c p) data) s p e ch ∧
    e.sending = false ∧
    ch.wide = true ∧
    vdstBound data s ∧
    dstBound st s ∧
    s.cur.replaying = false ∧
    Gives (itemsSeen ch) s n s1 ∧
    0 < n ∧
    Gives (takeItem p) s1 x s2 ∧
    Gives (do writeVec data x; endTwin 3 st 1 x.wordList) s2 .done t :=
  ⟨.g 5, .v 4, 0, chanState false true 1 someItems, _, _, _, { chan := 7, sending := false }, theChannel true 1 someItems, someItems.length - Config.inFlight 0, _, ⟨by decide +kernel, by decide +kernel, rfl, rfl⟩, by decide +kernel, by decide +kernel, rfl, rfl, by decide +kernel, rfl, someItems_seen, ran (by decide +kernel), ranAs (by decide +kernel)⟩

theorem witness_ChannelTwinsTakeOrAnswer_4 : ∃ (st : Scalar) (data : VSpec) (p : Fin 8) (s s1 s2 t : State) (e : PortEnd) (ch : Channel) (n : Nat) (x : Vec), TwinOn (.ctryrecvV st (.c p) data) s p e ch ∧
    e.sending = false ∧
    ch.wide = true ∧
    vdstBound data s ∧
    dstBound st s ∧
    s.cur.replaying = false ∧
    Gives (itemsSeen ch) s n s1 ∧
    n = 0 ∧
    Gives (do
          match data with
          | .y _ => writeVec data { bits := 0 }
          | _ => pure ()
          endTwin 3 st 0 []) s1 .done t :=
  ⟨.g 5, .v 4, 0, chanState false true 1 [], _, plainState, _, { chan := 7, sending := false }, theChannel true 1 [], [].length - Config.inFlight 0, { bits := 0 }, ⟨by decide +kernel, by decide +kernel, rfl, rfl⟩, by decide +kernel, by decide +kernel, rfl, rfl, by decide +kernel, rfl, Nat.zero_sub _, ranAs (by decide +kernel)⟩

theorem witness_ChannelTwinsTakeOrAnswer_5 : ∃ (st val : Scalar) (p : Fin 8) (s s1 s2 s3 t : State) (e : PortEnd) (ch : Channel) (n : Nat) (v : Val), TwinOn (.ctrysend st (.c p) val) s p e ch ∧
    e.sending = true ∧
    ch.wide = false ∧
    dstBound st s ∧
    Gives (readScalar val) s v s1 ∧
    s1.cur.replaying = false ∧
    Gives (slotsSeen ch) s1 n s2 ∧
    0 < n ∧
    Gives (putItem p v.toItem) s2 () s3 ∧
    Gives (endTwin 2 st 1 []) s3 .done t :=
  ⟨.g 5, .g 4, 0, chanState true false (Config.slotsUnseen 0 + 1) [], _, _, _, _, { chan := 7, sending := true }, theChannel false (Config.slotsUnseen 0 + 1) [], (Config.slotsUnseen 0 + 1) - 0 - Config.slotsUnseen 0, _, ⟨by decide +kernel, by decide +kernel, rfl, rfl⟩, by decide +kernel, by decide +kernel, rfl, ran (by decide +kernel), by decide +kernel, rfl, (by simp), did (by decide +kernel), ranAs (by decide +kernel)⟩

theorem witness_ChannelTwinsTakeOrAnswer_6 : ∃ (st val : Scalar) (p : Fin 8) (s s1 s2 s3 t : State) (e : PortEnd) (ch : Channel) (n : Nat) (v : Val), TwinOn (.ctrysend st (.c p) val) s p e ch ∧
    e.sending = true ∧
    ch.wide = false ∧
    dstBound st s ∧
    Gives (readScalar val) s v s1 ∧
    s1.cur.replaying = false ∧
    Gives (slotsSeen ch) s1 n s2 ∧
    n = 0 ∧
    Gives (endTwin 2 st 0 []) s2 .done t :=
  ⟨.g 5, .g 4, 0, chanState true false 0 [], _, _, plainState, _, { chan := 7, sending := true }, theChannel false 0 [], 0 - 0 - Config.slotsUnseen 0, _, ⟨by decide +kernel, by decide +kernel, rfl, rfl⟩, by decide +kernel, by decide +kernel, rfl, ran (by decide +kernel), by decide +kernel, rfl, (by simp), ranAs (by decide +kernel)⟩

theorem witness_ChannelTwinsTakeOrAnswer_7 : ∃ (st : Scalar) (val : VSpec) (p : Fin 8) (s s1 s2 s3 t : State) (e : PortEnd) (ch : Channel) (n : Nat) (v : Vec), TwinOn (.ctrysendV st (.c p) val) s p e ch ∧
    e.sending = true ∧
    ch.wide = true ∧
    vsrcBound val s ∧
    dstBound st s ∧
    Gives (readVec val) s v s1 ∧
    s1.cur.replaying = false ∧
    Gives (slotsSeen ch) s1 n s2 ∧
    0 < n ∧
    Gives (putItem p v) s2 () s3 ∧
    Gives (endTwin 4 st 1 []) s3 .done t :=
  ⟨.g 5, .v 4, 0, chanState true true (Config.slotsUnseen 0 + 1) [], _, _, _, _, { chan := 7, sending := true }, theChannel true (Config.slotsUnseen 0 + 1) [], (Config.slotsUnseen 0 + 1) - 0 - Config.slotsUnseen 0, _, ⟨by decide +kernel, by decide +kernel, rfl, rfl⟩, by decide +kernel, by decide +kernel, rfl, rfl, ran (by decide +kernel), by decide +kernel, rfl, (by simp), did (by decide +kernel), ranAs (by decide +kernel)⟩

theorem witness_ChannelTwinsTakeOrAnswer_8 : ∃ (st : Scalar) (val : VSpec) (p : Fin 8) (s s1 s2 s3 t : State) (e : PortEnd) (ch : Channel) (n : Nat) (v : Vec), TwinOn (.ctrysendV st (.c p) val) s p e ch ∧
    e.sending = true ∧
    ch.wide = true ∧
    vsrcBound val s ∧
    dstBound st s ∧
    Gives (readVec val) s v s1 ∧
    s1.cur.replaying = false ∧
    Gives (slotsSeen ch) s1 n s2 ∧
    n = 0 ∧
    Gives (endTwin 4 st 0 []) s2 .done t :=
  ⟨.g 5, .v 4, 0, chanState true true 0 [], _, _, plainState, _, { chan := 7, sending := true }, theChannel true 0 [], 0 - 0 - Config.slotsUnseen 0, _, ⟨by decide +kernel, by decide +kernel, rfl, rfl⟩, by decide +kernel, by decide +kernel, rfl, rfl, ran (by decide +kernel), by decide +kernel, rfl, (by simp), ranAs (by decide +kernel)⟩

theorem witness_ChannelTwinsTakeOrAnswer_9 : ∃ (d : Scalar) (p : Fin 8) (s s1 t : State) (e : PortEnd) (ch : Channel) (n : Nat), TwinOn (.ccount d (.c p)) s p e ch ∧
    dstBound d s ∧
    s.cur.replaying = false ∧
    Gives (if e.sending then slotsSeen ch else itemsSeen ch) s n s1 ∧
    Gives (endTwin 5 d (BitVec.ofNat 64 n) []) s1 .done t :=
  ⟨.g 5, 0, chanState true false (Config.slotsUnseen 0 + 1) [], _, _, { chan := 7, sending := true }, theChannel false (Config.slotsUnseen 0 + 1) [], (Config.slotsUnseen 0 + 1) - 0 - Config.slotsUnseen 0, ⟨by decide +kernel, by decide +kernel, rfl, rfl⟩, rfl, by decide +kernel, rfl, ranAs (by decide +kernel)⟩

theorem witness_FencesInvalidationsAndMarksComplete_1 : ∃ k s, issues (.fenceAcq k) s = true ∧
    s.cur.posted = [] := ⟨1, plainState, by decide +kernel, rfl⟩

theorem witness_FencesInvalidationsAndMarksComplete_2 : ∃ k s t, issues (.fenceRel k) s = true ∧
    ReleaseDone k s t ∧
    t.cur.posted = [] :=
  ⟨1, plainState, _, by decide +kernel, ⟨rfl, by decide +kernel⟩, by decide +kernel⟩

theorem witness_FencesInvalidationsAndMarksComplete_3 : ∃ k s t, issues (.fenceFull k) s = true ∧
    ReleaseDone k s t ∧
    t.cur.posted = [] :=
  ⟨1, plainState, _, by decide +kernel, ⟨rfl, by decide +kernel⟩, by decide +kernel⟩

theorem witness_FencesInvalidationsAndMarksComplete_4 : ∃ k s, issues (.fenceRel k) s = true ∧
    k.val ≠ 0 ∧
    (∃ o ∈ (s.drainHeld s.cur.core (Held.ofCtx s.cur.key)).cur.outs, o.doneAt k.val (dieOf s.cur.core) = false) :=
  ⟨1, with1 { runner [] with outs := [{ n := 0, line := 0, store := false, va := 0, homeBd := 1 }] }, by decide +kernel, by decide +kernel, by decide +kernel⟩

theorem witness_TasksEndYieldTrapAndReturn_1 : ∃ s t, issues .endTask s = true ∧
    s.cur.endJoin = none ∧
    Acknowledged true s t ∧
    t.cur.posted = [] ∧
    CommandsDone t.cur ∧
    t.cur.cell = 0 :=
  ⟨plainState, _, by decide +kernel, by decide +kernel, acknowledged (by decide +kernel), by decide +kernel, (by unfold CommandsDone; decide +kernel), by decide +kernel⟩

theorem witness_TasksEndYieldTrapAndReturn_2 : ∃ s t t1 t2 t3 l, issues .endTask s = true ∧
    s.cur.endJoin = none ∧
    Acknowledged true s t ∧
    t.cur.posted = [] ∧
    CommandsDone t.cur ∧
    t.cur.cell ≠ 0 ∧
    Admitted .write (t.cur.cell.setWidth 64) t l t1 ∧
    2 ≤ l.ty ∧
    l.ty ≤ 9 ∧
    t.cur.cell.toNat % 8 = 0 ∧
    Gives (joinCell l t.cur.cell.toNat 64 1 false true) t1 () t2 ∧
    Gives (waitAcks true) { t2 with cur := { t2.cur with endJoin := some t1.cur.nextOut } } false t3 :=
  ⟨paged { runner [] with cell := 0x20000 } 3, _, _, _, _, _, by decide +kernel, by decide +kernel, acknowledged (by decide +kernel), by decide +kernel, (by unfold CommandsDone; decide +kernel), by decide +kernel, ran (by decide +kernel), by decide +kernel, by decide +kernel, by decide +kernel, did (by decide +kernel), ranAs (by decide +kernel)⟩

theorem witness_TasksEndYieldTrapAndReturn_3 : ∃ s t n, issues .endTask s = true ∧
    s.cur.endJoin = some n ∧
    Acknowledged true s t ∧
    (∀ p ∈ t.cur.posted, p.n ≠ n) :=
  ⟨with1 { runner [] with endJoin := some 3 }, _, 3, by decide +kernel, by decide +kernel, acknowledged (by decide +kernel), by decide +kernel⟩

theorem witness_TasksEndYieldTrapAndReturn_4 : ∃ s t, issues .halt s = true ∧
    s.cur.endJoin = none ∧
    Acknowledged true s t ∧
    t.cur.posted = [] ∧
    CommandsDone t.cur :=
  ⟨with1 (sysRunner []), _, by decide +kernel, by decide +kernel, acknowledged (by decide +kernel), by decide +kernel, (by unfold CommandsDone; decide +kernel)⟩

theorem witness_TasksEndYieldTrapAndReturn_5 : ∃ (s : State), s.busy = true :=
  ⟨plainState, by decide +kernel⟩

theorem witness_TasksEndYieldTrapAndReturn_6 : ∀ i ∈ [Instr.yield, .yield16], ∃ s, issues i s = true ∧
    s.cur.inH = true := by
  intro i hp
  simp only [List.mem_cons, List.not_mem_nil, or_false] at hp
  rcases hp with rfl | rfl <;>
  exact ⟨with1 (handler []), by decide +kernel, by decide +kernel⟩

theorem witness_TasksEndYieldTrapAndReturn_7 : ∀ i ∈ [Instr.yield, .yield16], ∃ s, issues i s = true ∧
    s.cur.inH = false := by
  intro i hp
  simp only [List.mem_cons, List.not_mem_nil, or_false] at hp
  rcases hp with rfl | rfl <;>
  exact ⟨plainState, by decide +kernel, by decide +kernel⟩

theorem witness_TasksEndYieldTrapAndReturn_8 : ∀ p ∈ ([(.trap, 1), (.breakpt, 2)] : List ((Scalar → Instr) × Nat)), ∃ (a : Scalar) (s s1 : State) (v : Val), issues (p.1 a) s = true ∧
    srcBound a s ∧
    s.recordsFull s.cur.key { code := .illegalInstruction } = false ∧
    Gives (readScalar a) s v s1 := by
  intro p hp
  simp only [List.mem_cons, List.not_mem_nil, or_false] at hp
  rcases hp with rfl | rfl <;>
  exact ⟨.g 1, plainState, _, _, by decide +kernel, rfl, by decide +kernel, ran (by decide +kernel)⟩

theorem witness_TasksEndYieldTrapAndReturn_9 : ∃ (len kind : Nat) (arg : Word) (c : Context) (s : State), s.busy = true ∧
    (s.core s.cur.core).hold = [] :=
  ⟨4, 1, 0, plainState.cur, plainState, by decide +kernel, by decide +kernel⟩

theorem witness_TasksEndYieldTrapAndReturn_10 : ∃ (rec act : Scalar) (s s1 s2 s3 : State) (x a : Word) (l : Leaf) (r : FaultRec), issues (.eret rec act) s = true ∧
    srcBound rec s ∧
    srcBound act s ∧
    Gives (readClean rec) s x s1 ∧
    Gives (readClean act) s1 a s2 ∧
    a.toNat ≤ 1 ∧
    x.toNat % 8 = 0 ∧
    windowOf x.toNat = .global ∧
    Gives (tryTranslate s2.cur.core s2.cur.asid s2.cur.sys .read x.toNat) s2 (.ok l) s3 ∧
    l.remote = false ∧
    s3.records.find? (fun r => r.live && r.at_.isSome && r.at_ == some (l.key x.toNat)) = some r ∧
    (a = 1 → r.kind = 1 ∨ r.kind = 2) :=
  ⟨.g 1, .g 2, { paged (sysRunner [0x20000, 1]) 0 with records := [{ id := 1, asid := 1, ctxid := 3, kind := 1, info := { code := .illegalInstruction }, pc := 0, at_ := some 0x40000 }] }, _, _, _, _, _, leafAt 0x40000 0, { id := 1, asid := 1, ctxid := 3, kind := 1, info := { code := .illegalInstruction }, pc := 0, at_ := some 0x40000 }, by decide +kernel, rfl, rfl, ran (by decide +kernel), ran (by decide +kernel), by decide +kernel, by decide +kernel, by decide +kernel, ranOkAs (by decide +kernel), by decide +kernel, by decide +kernel, by decide +kernel⟩

theorem witness_SystemRegistersAreReadAndWritten_1 : ∀ p ∈ registers, ∃ (d : Scalar) (reg : Fin 64) (s t : State), reg.val = p.1 ∧
    issues (.sysrd d reg) s = true ∧
    dstBound d s ∧
    Gives (writeScalar d { bits := p.2 s.cur }) s () t := by
  have h : ∀ p ∈ registers, (Fin.ofNat 64 p.1).val = p.1 ∧ issues (.sysrd (.g 4) (Fin.ofNat 64 p.1)) (with1 (sysRunner [])) = true := by decide +kernel
  exact fun p hp => ⟨.g 4, Fin.ofNat 64 p.1, with1 (sysRunner []), _, (h p hp).1, (h p hp).2, rfl, did rfl⟩

theorem witness_SystemRegistersAreReadAndWritten_2 : ∃ (d : Scalar) (reg : Fin 64) (s s1 t : State), reg.val = 4 ∧
    issues (.sysrd d reg) s = true ∧
    s.cur.strict = false ∧
    s.cur.replaying = false ∧
    dstBound d s ∧
    (let x := s.cur.written[0].getD (BitVec.ofNat 64 s.cur.core)
   Gives (writeScalar d { bits := x }) s () s1 ∧
    Gives (do logOutcome 9 [x]; markNd) s1 () t) :=
  ⟨.g 4, 4, with1 (sysRunner []), _, _, by decide +kernel, by decide +kernel, by decide +kernel, by decide +kernel, rfl, did (by decide +kernel), did (by decide +kernel)⟩

theorem witness_SystemRegistersAreReadAndWritten_3 : ∃ (d : Scalar) (reg : Fin 64) (s s1 t : State), reg.val = 3 ∧
    issues (.sysrd d reg) s = true ∧
    s.cur.strict = false ∧
    s.cur.replaying = false ∧
    dstBound d s ∧
    (let x := Config.cycle s.free + s.cur.cycleOff
   Gives (writeScalar d { bits := x }) { s with free := s.free + 1 } () s1 ∧
    Gives (do logOutcome 8 [x]; markNd) s1 () t) :=
  ⟨.g 4, 3, with1 (sysRunner []), _, _, by decide +kernel, by decide +kernel, by decide +kernel, by decide +kernel, rfl, did rfl, did rfl⟩

theorem witness_SystemRegistersAreReadAndWritten_4 : ∃ (d : Scalar) (reg : Fin 64) (s : State), (reg.val = 3 ∨ reg.val = 4) ∧
    issues (.sysrd d reg) s = true ∧
    s.cur.strict = true :=
  ⟨.g 4, 4, with1 { sysRunner [] with regs := { (sysRunner []).regs with mode := 1 } }, Or.inr rfl, by decide +kernel, by decide +kernel⟩

theorem witness_SystemRegistersAreReadAndWritten_5 : ∃ reg a s x s1, reg.val = 0 ∧
    Writes reg a s x s1 :=
  ⟨0, .g 1, with1 (sysRunner [0]), _, _, by decide, ⟨by decide +kernel, rfl, _, ran (by decide +kernel), by decide +kernel, rfl, by decide +kernel⟩⟩

theorem witness_SystemRegistersAreReadAndWritten_6 : ∃ reg a s x s1, reg.val = 1 ∧
    Writes reg a s x s1 ∧
    (x >>> 1 &&& 7).toNat < 6 :=
  ⟨1, .g 1, with1 (sysRunner [2]), _, _, by decide, ⟨by decide +kernel, rfl, _, ran (by decide +kernel), by decide +kernel, rfl, by decide +kernel⟩, by decide +kernel⟩

theorem witness_SystemRegistersAreReadAndWritten_7 : ∃ reg a s x s1, reg.val = 2 ∧
    Writes reg a s x s1 :=
  ⟨2, .g 1, with1 (sysRunner [5]), _, _, by decide, ⟨by decide +kernel, rfl, _, ran (by decide +kernel), by decide +kernel, rfl, by decide +kernel⟩⟩

theorem witness_SystemRegistersAreReadAndWritten_8 : ∃ reg a s x s1, reg.val = 7 ∧
    Writes reg a s x s1 :=
  ⟨7, .g 1, with1 (sysRunner [65536]), _, _, by decide, ⟨by decide +kernel, rfl, _, ran (by decide +kernel), by decide +kernel, rfl, by decide +kernel⟩⟩

theorem witness_SystemRegistersAreReadAndWritten_9 : ∃ reg a s x s1, reg.val = 8 ∧
    Writes reg a s x s1 ∧
    (s1.cur.sys = true → x.toNat ≤ 0x1E00000) :=
  ⟨8, .g 1, with1 (sysRunner [31457280]), _, _, by decide, ⟨by decide +kernel, rfl, _, ran (by decide +kernel), by decide +kernel, rfl, by decide +kernel⟩, by decide +kernel⟩

theorem witness_SystemRegistersAreReadAndWritten_10 : ∃ (n : Fin 4), ∃ reg a s x s1, reg.val = 16 + n.val ∧
    Writes reg a s x s1 :=
  ⟨0, 16, .g 1, with1 (sysRunner [5]), _, _, by decide +kernel, ⟨by decide +kernel, rfl, _, ran (by decide +kernel), by decide +kernel, rfl, by decide +kernel⟩⟩

theorem witness_SystemRegistersAreReadAndWritten_11 : ∃ (reg : Fin 64), ∃ a s x s1, reg.val ∈ [3, 4, 5, 6, 9, 10, 11, 12, 13] ∧
    Writes reg a s x s1 :=
  ⟨5, .g 1, with1 (sysRunner [0]), _, _, by decide +kernel, ⟨by decide +kernel, rfl, _, ran (by decide +kernel), by decide +kernel, rfl, by decide +kernel⟩⟩

theorem witness_SystemRegistersAreReadAndWritten_12 : ∃ reg a s s1, reg.val = 20 ∧
    Writes reg a s 0 s1 :=
  ⟨20, .g 1, with1 (sysRunner [0]), _, by decide +kernel, ⟨by decide +kernel, rfl, _, ran (by decide +kernel), by decide +kernel, by decide +kernel, by decide +kernel⟩⟩

theorem witness_SystemRegistersAreReadAndWritten_13 : ∃ reg a s s1 t, reg.val = 20 ∧
    Writes reg a s 1 s1 ∧
    (let q := s1.cur.cmdq
   (let op := q[0].toNat % 256
   (let src := q[1].toNat % 2 ^ 48
   (let dst := q[2].toNat % 2 ^ 48
   (let len := q[3].toNat % 2 ^ 32
   ((op = 1 ∧ len ≠ 0) ∨ (op = 2 ∧ len ≠ 0 ∧ len % 128 = 0 ∧ src % 128 = 0 ∧ dst % 128 = 0) ∨ (op = 3 ∧ len = 0 ∧ dst < 768)) ∧
    Acknowledged true s1 t))))) :=
  ⟨20, .g 1, with1 { sysRunner [1] with cmdq := #v[1, 0, 0, 64] }, _, _, by decide +kernel, ⟨by decide +kernel, rfl, _, ran (by decide +kernel), by decide +kernel, by decide +kernel, by decide +kernel⟩, Or.inl (by decide +kernel), acknowledged (by decide +kernel)⟩

theorem witness_FencesInvalidationsAndMarksComplete_5 : ∃ asid addr len s vs s1, InvalOperands (.tlbinv asid addr len) asid addr len s vs s1 ∧
    s1.cur.phase = 0 ∧
    (∀ o ∈ s1.cur.outs, o.store = false) :=
  ⟨.g 1, .g 2, .g 3, with1 (sysRunner [1, 0x20000, 0]), _, _, ⟨by decide +kernel, rfl, rfl, rfl, ran (by decide +kernel), by decide +kernel, by decide +kernel, by decide +kernel, by decide +kernel, by decide +kernel, Or.inl (by decide +kernel)⟩, by decide +kernel, by decide +kernel⟩

theorem witness_FencesInvalidationsAndMarksComplete_6 : ∃ asid addr len s vs s1, InvalOperands (.tlbinv asid addr len) asid addr len s vs s1 ∧
    s1.cur.phase = 1 ∧
    (∀ v ∈ s1.invals, v.by_ ≠ some s1.cur.key) :=
  ⟨.g 1, .g 2, .g 3, with1 { sysRunner [1, 0x20000, 0] with phase := 1 }, _, _, ⟨by decide +kernel, rfl, rfl, rfl, ran (by decide +kernel), by decide +kernel, by decide +kernel, by decide +kernel, by decide +kernel, by decide +kernel, Or.inl (by decide +kernel)⟩, by decide +kernel, by decide +kernel⟩

theorem witness_FencesInvalidationsAndMarksComplete_7 : ∃ asid addr len s vs s1, InvalOperands (.l1inv asid addr len) asid addr len s vs s1 :=
  ⟨.g 1, .g 2, .g 3, with1 (sysRunner [1, 0x20000, 0]), _, _, ⟨by decide +kernel, rfl, rfl, rfl, ran (by decide +kernel), by decide +kernel, by decide +kernel, by decide +kernel, by decide +kernel, by decide +kernel, Or.inl (by decide +kernel)⟩⟩

theorem witness_FencesInvalidationsAndMarksComplete_8 : ∃ off len s o n s1, MarkOperands (.spmarkDiscard off len) off len s o n s1 :=
  ⟨.g 1, .g 2, with1 (runner [0, 0x80]), _, _, _, ⟨by decide +kernel, rfl, rfl, _, ran (by decide +kernel), by decide +kernel, by decide +kernel, rfl, rfl, by decide +kernel, by decide +kernel, by decide +kernel, by decide +kernel, by decide +kernel, by decide +kernel, by decide +kernel⟩⟩

theorem witness_FencesInvalidationsAndMarksComplete_9 : ∃ off len s o n s1, MarkOperands (.spmarkKeep off len) off len s o n s1 :=
  ⟨.g 1, .g 2, with1 (runner [0, 0x80]), _, _, _, ⟨by decide +kernel, rfl, rfl, _, ran (by decide +kernel), by decide +kernel, by decide +kernel, rfl, rfl, by decide +kernel, by decide +kernel, by decide +kernel, by decide +kernel, by decide +kernel, by decide +kernel, by decide +kernel⟩⟩

theorem witness_CopySetsBarriersAndCopiesComplete_1 : ∃ (a b : Scalar) (s t : State) (x y : Word), TwoOperands (.ccfg a b) a b s x y t ∧
    (copyCfg x y).len ≠ 0 ∧
    (copyCfg x y).rows ≠ 0 ∧
    (copyCfg x y).len ≤ 0x200000 ∧
    (copyCfg x y).mode ≠ 3 ∧
    ((copyCfg x y).jw = 0 ∨ (copyCfg x y).mode = 2) ∧
    wbits y 52 12 = 0 :=
  ⟨.g 1, .g 2, with1 (runner [0x1000080, 0]), _, _, _, ⟨by decide +kernel, rfl, rfl, _, ran (by decide +kernel), ran (by decide +kernel)⟩, by decide +kernel⟩

theorem witness_CopySetsBarriersAndCopiesComplete_2 : ∃ (off exp : Scalar) (s u : State) (o e : Word), TwoOperands (.cbar off exp) off exp s o e u ∧
    o.toNat < 2 ^ 21 ∧
    o.toNat % 16 = 0 ∧
    u.cur.sliceFits o.toNat 16 = true ∧
    e.toNat < 2 ^ 32 ∧
    ((∃ b ∈ u.cur.barriers, b.off = o.toNat) ∨ e = 0 ∨ u.cur.barriers.length < 16) ∧
    u.touchesArea u.cur o.toNat 16 = false ∧
    ((∃ b ∈ u.cur.barriers, b.off = o.toNat) → u.cur.copyNames o.toNat = false) ∧
    ((∀ b ∈ u.cur.barriers, b.off ≠ o.toNat) → e ≠ 0 → u.storeWaits u.cur o.toNat 16 = false) :=
  ⟨.g 1, .g 2, with1 (runner [0, 2]), _, _, _, ⟨by decide +kernel, rfl, rfl, _, ran (by decide +kernel), ran (by decide +kernel)⟩, by decide +kernel, by decide +kernel, by decide +kernel, by decide +kernel, Or.inr (Or.inr (by decide +kernel)), by decide +kernel, by decide +kernel, by decide +kernel⟩

theorem witness_CopySetsBarriersAndCopiesComplete_3 : ∃ (a b : Scalar) (s s2 t : State) (x y : Word) (cfg : Word × Word) (mig : Bool), TwoOperands (.ccopy a b) a b s x y s2 ∧
    (let g := copyCfg cfg.1 cfg.2
   (let src := wbits x 0 48
   (let dst := wbits y 0 48
   (let k (m : Bool) : CmdKind := .ccopy cfg.1 cfg.2 (BitVec.ofNat 48 src) (BitVec.ofNat 48 dst) m
   CopyOn .copy x y cfg (k false) s2 ∧
    Gives (checkSlice (rowRanges src g.sstride g.rows g.len) (if g.mode = 0 then rowRanges dst g.dstride g.rows g.len else [])) s2 () s2 ∧
    Gives (copyOperands .copy g src dst) s2 mig t ∧
    NoneFailed [wbits x 56 6, wbits y 48 6] t)))) :=
  ⟨.g 1, .g 2, with1 (copier 0x1000080 0 [0x7FFFFFE00000, 0x7FFFFFE01000]), _, _, _, _, (0x1000080, 0), _, ⟨by decide +kernel, rfl, rfl, _, ran (by decide +kernel), ran (by decide +kernel)⟩, ⟨by decide +kernel, by decide +kernel, by decide +kernel, rfl, by decide +kernel, by decide +kernel, by decide +kernel, by decide +kernel, by decide +kernel, unhindered rfl⟩, kept (by decide +kernel), ran (by decide +kernel), noneFailed rfl⟩

theorem witness_CopySetsBarriersAndCopiesComplete_4 : ∃ (ix a b : Scalar) (s s2 s3 t u : State) (x y : Word) (v : Val) (cfg : Word × Word), TwoOperands (.cgather ix a b) a b s x y s2 ∧
    srcBound ix s ∧
    Gives (readScalar ix) s2 v s3 ∧
    (let g := copyCfg cfg.1 cfg.2
   (let src := wbits x 0 48
   (let dst := wbits y 0 48
   (let k : CmdKind := .cgather cfg.1 cfg.2 (BitVec.ofNat 48 src) (BitVec.ofNat 48 dst) (v.bits.setWidth 48)
   CopyOn .gather x y cfg k s3 ∧
    Gives (checkSlice [] (rowRanges dst g.dstride g.rows g.len)) s3 () s3 ∧
    Gives (copyOperands .gather g src dst) s3 false t ∧
    v.mark = false ∧
    Gives (gatherList v.bits g.rows) t () u ∧
    NoneFailed [wbits x 56 6, wbits y 48 6] u)))) :=
  ⟨.g 1, .g 1, .g 2, with1 (copier 0x1000080 0 [0x7FFFFFE00000, 0x7FFFFFE01000]), _, _, _, _, _, _, _, (0x1000080, 0), ⟨by decide +kernel, rfl, rfl, _, ran (by decide +kernel), ran (by decide +kernel)⟩, rfl, ran (by decide +kernel), ⟨by decide +kernel, by decide +kernel, by decide +kernel, rfl, by decide +kernel, by decide +kernel, by decide +kernel, by decide +kernel, by decide +kernel, unhindered rfl⟩, kept (by decide +kernel), ranAs (by decide +kernel), by decide +kernel, did (by decide +kernel), noneFailed rfl⟩

theorem witness_CopySetsBarriersAndCopiesComplete_5 : ∃ (a b : Scalar) (s s2 t : State) (x y : Word) (cfg : Word × Word) (mig : Bool), TwoOperands (.cjoin a b) a b s x y s2 ∧
    (let g := copyCfg cfg.1 cfg.2
   (let src := wbits x 0 48
   (let dst := wbits y 0 48
   (let k : CmdKind := .cjoin cfg.1 cfg.2 (BitVec.ofNat 48 src) (BitVec.ofNat 48 dst)
   CopyOn .join x y cfg k s2 ∧
    Gives (checkSlice (rowRanges src g.sstride g.rows g.len) []) s2 () s2 ∧
    Gives (copyOperands .join g src dst) s2 mig t ∧
    NoneFailed [wbits x 56 6, wbits y 48 6] t)))) :=
  ⟨.g 1, .g 2, paged (copier 0x1000080 (2 * 2 ^ 46) [0x7FFFFFE00000, 0x20000]) 3, _, _, _, _, (0x1000080, 2 * 2 ^ 46), _, ⟨by decide +kernel, rfl, rfl, _, ran (by decide +kernel), ran (by decide +kernel)⟩, ⟨by decide +kernel, by decide +kernel, by decide +kernel, rfl, by decide +kernel, by decide +kernel, by decide +kernel, by decide +kernel, by decide +kernel, unhindered rfl⟩, kept (by decide +kernel), ran (by decide +kernel), noneFailed rfl⟩

theorem witness_MatrixCommandsAreAccepted_1 : ∃ (view off : Scalar) (s t : State) (x o : Word), TwoOperands (.mcfg view off) view off s x o t ∧
    x.toNat < 8 ∧
    o.toNat % 32 = 0 ∧
    t.cur.loadWaits o.toNat 32 = false ∧
    t.sliceMarked t.cur o.toNat 32 = false ∧
    Gives (checkSlice [(o.toNat, 32)] []) t () t ∧
    (let d := BitVec.ofNat 256 (t.sliceRead t.cur o.toNat 32)
   viewFieldsOk d = true ∧
    1 ≤ (viewOf d).ow ∧
    1 ≤ (viewOf d).oh) :=
  ⟨.g 1, .g 2, viewState [1, 0], _, _, _, ⟨by decide +kernel, rfl, rfl, _, ran (by decide +kernel), ran (by decide +kernel)⟩, by decide +kernel, by decide +kernel, by decide +kernel, by decide +kernel, kept (by decide +kernel), by decide +kernel, by decide +kernel, by decide +kernel⟩

theorem witness_MatrixCommandsAreAccepted_2 : ∀ p ∈ ([(.mzero, .mzero, false), (.mdiscard, .mdiscard, true)] : List ((Scalar → Instr) × (Nat → CmdKind) × Bool)), ∃ (a : Scalar) (s t : State) (x : Word), issues (p.1 a) s = true ∧
    srcBound a s ∧
    Gives (readClean a) s x t ∧
    x.toNat < 16 ∧
    TileOk t x.toNat ∧
    Unhindered none [] (p.2.1 x.toNat) t := by
  intro p hp
  simp only [List.mem_cons, List.not_mem_nil, or_false] at hp
  rcases hp with rfl | rfl <;>
  exact ⟨.g 1, plainState, _, _, by decide +kernel, rfl, ran (by decide +kernel), by decide +kernel, ⟨by decide +kernel, by decide +kernel⟩, unhindered rfl⟩

theorem witness_MatrixCommandsAreAccepted_3 : ∃ (ra rb : Scalar) (s t : State) (a b : Word), TwoOperands (.mma ra rb) ra rb s a b t ∧
    wbits a 21 4 < 8 ∧
    a.toNat % 128 = 0 ∧
    matrixId b ≠ 63 ∧
    wbits a 25 7 = 0 ∧
    wbits a 48 16 = 0 ∧
    wbits a 32 16 ≠ 0 ∧
    wbits b 32 3 = 0 ∧
    wbits b 36 28 = 0 ∧
    (let d := t.cur.views[wbits a 21 4 % 8]'(Nat.mod_lt _ (by decide))
   (let zf := b.getLsbD 35
   (let u := accepted t (some (matrixId b)) (matrixPreds b) (.mma d a b)
   Unhindered (some (matrixId b)) (matrixPreds b) (.mma d a b) t ∧
    TileOk t (wbits b 0 4) ∧
    (zf = false → TileLive t (wbits b 0 4)) ∧
    Gives (mmaRanges d a b) t () t ∧
    NoneFailed (matrixPreds b) t))) :=
  ⟨.g 1, .g 2, viewState [0x100000000, 0], _, _, _, ⟨by decide +kernel, rfl, rfl, _, ran (by decide +kernel), ran (by decide +kernel)⟩, by decide +kernel, by decide +kernel, by decide +kernel, by decide +kernel, by decide +kernel, by decide +kernel, by decide +kernel, by decide +kernel, unhindered rfl, ⟨by decide +kernel, by decide +kernel⟩, (by unfold TileLive; decide +kernel), kept (by decide +kernel), noneFailed rfl⟩

theorem witness_MatrixCommandsAreAccepted_4 : ∃ (ra rb : Scalar) (s t : State) (a b : Word), TwoOperands (.mscaleacc ra rb) ra rb s a b t ∧
    wbits a 55 9 = 0 ∧
    wbits a 26 3 = 0 ∧
    wbits a 29 2 = 0 ∧
    a.toNat % 4 = 0 ∧
    wbits b 36 28 = 0 ∧
    wbits b 33 2 = 0 ∧
    wbits b 8 6 = 0 ∧
    matrixId b ≠ 63 ∧
    (let zf := b.getLsbD 35
   (let u := accepted t (some (matrixId b)) (matrixPreds b) (.mscaleacc a b)
   Unhindered (some (matrixId b)) (matrixPreds b) (.mscaleacc a b) t ∧
    TileOk t (wbits b 4 4) ∧
    TileLive t (wbits b 4 4) ∧
    TileOk t (wbits b 0 4) ∧
    (zf = false → TileLive t (wbits b 0 4)) ∧
    Gives (checkSlice [(wbits a 0 21, 8 * fmtWidth (wbits a 21 5)), (wbits a 29 21, 8 * fmtWidth (wbits a 50 5))] []) t () t ∧
    wbits a 21 5 ≤ 12 ∧
    wbits a 50 5 ≤ 12 ∧
    NoneFailed (matrixPreds b) t)) :=
  ⟨.g 1, .g 2, with1 (runner [0, 0x10]), _, _, _, ⟨by decide +kernel, rfl, rfl, _, ran (by decide +kernel), ran (by decide +kernel)⟩, by decide +kernel, by decide +kernel, by decide +kernel, by decide +kernel, by decide +kernel, by decide +kernel, by decide +kernel, by decide +kernel, unhindered rfl, ⟨by decide +kernel, by decide +kernel⟩, (by unfold TileLive; decide +kernel), ⟨by decide +kernel, by decide +kernel⟩, (by unfold TileLive; decide +kernel), kept (by decide +kernel), by decide +kernel, by decide +kernel, noneFailed rfl⟩

theorem witness_MatrixCommandsAreAccepted_5 : ∃ (ra rb : Scalar) (s t : State) (a b : Word), TwoOperands (.mload ra rb) ra rb s a b t ∧
    wbits a 26 38 = 0 ∧
    a.toNat % 128 = 0 ∧
    wbits b 32 32 = 0 ∧
    wbits b 4 10 = 0 ∧
    matrixId b ≠ 63 ∧
    Unhindered (some (matrixId b)) (matrixPreds b) (.mload a b) t ∧
    TileOk t (wbits b 0 4) ∧
    Gives (checkSlice [(wbits a 0 21, 512 * fmtWidth (wbits a 21 5))] []) t () t ∧
    isCodebook (wbits a 21 5) = false ∧
    NoneFailed (matrixPreds b) t :=
  ⟨.g 1, .g 2, with1 (runner [0, 0]), _, _, _, ⟨by decide +kernel, rfl, rfl, _, ran (by decide +kernel), ran (by decide +kernel)⟩, by decide +kernel, by decide +kernel, by decide +kernel, by decide +kernel, by decide +kernel, unhindered rfl, ⟨by decide +kernel, by decide +kernel⟩, kept (by decide +kernel), by decide +kernel, noneFailed rfl⟩

theorem witness_MatrixCommandsAreAccepted_6 : ∃ (ra rb : Scalar) (s t : State) (a b : Word), TwoOperands (.mstore ra rb) ra rb s a b t ∧
    wbits a 30 34 = 0 ∧
    wbits a 26 3 < 6 ∧
    a.toNat % 128 = 0 ∧
    wbits b 33 31 = 0 ∧
    wbits b 4 10 = 0 ∧
    matrixId b ≠ 63 ∧
    (let k : CmdKind := .mstore a b t.cur.regs.icount t.cur.regs.seed
   Unhindered (some (matrixId b)) (matrixPreds b) k t ∧
    TileOk t (wbits b 0 4) ∧
    TileLive t (wbits b 0 4) ∧
    Gives (checkSlice [] [(wbits a 0 21, 512 * fmtWidth (wbits a 21 5))]) t () t ∧
    isTarget (wbits a 21 5) = true ∧
    NoneFailed (matrixPreds b) t) :=
  ⟨.g 1, .g 2, with1 (runner [0, 0]), _, _, _, ⟨by decide +kernel, rfl, rfl, _, ran (by decide +kernel), ran (by decide +kernel)⟩, by decide +kernel, by decide +kernel, by decide +kernel, by decide +kernel, by decide +kernel, by decide +kernel, unhindered rfl, ⟨by decide +kernel, by decide +kernel⟩, (by unfold TileLive; decide +kernel), kept (by decide +kernel), by decide +kernel, noneFailed rfl⟩

theorem witness_EngineWaitsAndLampCommandsComplete_1 : ∀ p ∈ ([(.mwait, CmdKind.isMatrix), (.lwait, CmdKind.isLamp)] : List ((Scalar → Scalar → Instr) × (CmdKind → Bool))), ∃ (d id : Scalar) (s u : State) (vs : List Val) (ms : List Cmd), issues (p.1 d id) s = true ∧
    srcBound id s ∧
    dstBound d s ∧
    Operands [id] s vs u ∧
    (nthVal vs 0).mark = false ∧
    (nthVal vs 0).bits.toNat < 64 ∧
    ((nthVal vs 0).bits = 63 → ms = u.cur.cmds.filter (fun m => p.2 m.kind)) ∧
    ((nthVal vs 0).bits ≠ 63 → ms = (u.cur.holder (nthVal vs 0).bits.toNat).toList ∧ ∀ m ∈ ms, p.2 m.kind = true) ∧
    (∃ m ∈ ms, m.incomplete = true) := by
  intro p hp
  simp only [List.mem_cons, List.not_mem_nil, or_false] at hp
  rcases hp with rfl | rfl <;>
  exact ⟨.g 4, .g 1, with1 { runner [63] with cmds := [aCmd 1 (.mload 0 0) .accepted, aCmd 2 (.lrun 0 0) .accepted] }, _, _, _, by decide +kernel, rfl, rfl, ran (by decide +kernel), by decide +kernel, by decide +kernel, (fun _ => rfl), (fun h => absurd (by decide +kernel) h), by decide +kernel⟩

theorem witness_EngineWaitsAndLampCommandsComplete_2 : ∀ p ∈ ([(.mwait, CmdKind.isMatrix), (.lwait, CmdKind.isLamp)] : List ((Scalar → Scalar → Instr) × (CmdKind → Bool))), ∃ (d id : Scalar) (s u : State) (vs : List Val) (ms : List Cmd), issues (p.1 d id) s = true ∧
    srcBound id s ∧
    dstBound d s ∧
    Operands [id] s vs u ∧
    (nthVal vs 0).mark = false ∧
    (nthVal vs 0).bits.toNat < 64 ∧
    ((nthVal vs 0).bits = 63 → ms = u.cur.cmds.filter (fun m => p.2 m.kind)) ∧
    ((nthVal vs 0).bits ≠ 63 → ms = (u.cur.holder (nthVal vs 0).bits.toNat).toList ∧ ∀ m ∈ ms, p.2 m.kind = true) ∧
    (∀ m ∈ ms, m.incomplete = false ∧ (m.fault = none ∨ m.delivered = true)) ∧
    ∃ t, Gives (writeScalar d { bits := 0 }) u () t := by
  intro p hp
  simp only [List.mem_cons, List.not_mem_nil, or_false] at hp
  rcases hp with rfl | rfl <;>
  exact ⟨.g 4, .g 1, with1 (runner [63]), _, _, _, by decide +kernel, rfl, rfl, ran (by decide +kernel), by decide +kernel, by decide +kernel, (fun _ => rfl), (fun h => absurd (by decide +kernel) h), by decide +kernel, _, did (by decide +kernel)⟩

theorem witness_EngineWaitsAndLampCommandsComplete_3 : ∃ (tile off : Scalar) (s u : State) (x o : Word), TwoOperands (.lcfg tile off) tile off s x o u ∧
    x.toNat < 16 ∧
    o.toNat < 2 ^ 21 ∧
    o.toNat % 64 = 0 ∧
    u.cur.tileWaits x.toNat = false ∧
    u.storeWaits u.cur o.toNat 64 = false ∧
    x.toNat < u.cur.tiles ∧
    u.cur.sliceFits o.toNat 64 = true ∧
    Gives (checkSlice [(o.toNat + 4, 4)] []) u () u ∧
    (let theta := (lampCfgOf (u.sliceRead u.cur o.toNat 64)).theta
   theta = 0 ∧
    u.sliceMarked u.cur (o.toNat + 4) 4 = false) :=
  ⟨.g 1, .g 2, with1 { runner [0, 0] with barriers := [{ off := 16, expected := 1 }] }, _, _, _, ⟨by decide +kernel, rfl, rfl, _, ran (by decide +kernel), ran (by decide +kernel)⟩, by decide +kernel, by decide +kernel, by decide +kernel, by decide +kernel, by decide +kernel, by decide +kernel, by decide +kernel, kept (by decide +kernel), by decide +kernel, by decide +kernel⟩

theorem witness_EngineWaitsAndLampCommandsComplete_4 : ∃ (tile off : Scalar) (s u : State) (x o : Word), TwoOperands (.lcfg tile off) tile off s x o u ∧
    x.toNat < 16 ∧
    o.toNat < 2 ^ 21 ∧
    o.toNat % 64 = 0 ∧
    u.cur.tileWaits x.toNat = false ∧
    u.storeWaits u.cur o.toNat 64 = false ∧
    x.toNat < u.cur.tiles ∧
    u.cur.sliceFits o.toNat 64 = true ∧
    Gives (checkSlice [(o.toNat + 4, 4)] []) u () u ∧
    (let theta := (lampCfgOf (u.sliceRead u.cur o.toNat 64)).theta
   theta ≠ 0 ∧
    TileLive u x.toNat ∧
    Gives (checkSlice [(o.toNat, 64)] []) u () u ∧
    Gives (checkLampCfg o.toNat) u () u ∧
    u.crewOn u.cur ≤ 1) :=
  ⟨.g 1, .g 2, lampState [1, 0], _, _, _, ⟨by decide +kernel, rfl, rfl, _, ran (by decide +kernel), ran (by decide +kernel)⟩, by decide +kernel, by decide +kernel, by decide +kernel, by decide +kernel, by decide +kernel, by decide +kernel, by decide +kernel, kept (by decide +kernel), by decide +kernel, (by unfold TileLive; decide +kernel), kept (by decide +kernel), kept (by decide +kernel), by decide +kernel⟩

theorem witness_EngineWaitsAndLampCommandsComplete_5 : ∃ (ra rb : Scalar) (s u : State) (a b : Word), TwoOperands (.lspark ra rb) ra rb s a b u ∧
    wbits a 48 16 = 0 ∧
    wbits a 26 6 = 0 ∧
    wbits b 0 14 = 0 ∧
    wbits b 14 6 ≠ 63 ∧
    lampCore (BitVec.ofNat 26 (wbits a 0 26)) ≤ 767 ∧
    (let ps := [wbits b 20 6, wbits b 26 6]
   Unhindered (some (wbits b 14 6)) ps (.lspark a b) u ∧
    (u.lampOwner u.cur (BitVec.ofNat 26 (wbits a 0 26))).isSome = true ∧
    NoneFailed ps u) :=
  ⟨.g 1, .g 2, lampState [0, 0], _, _, _, ⟨by decide +kernel, rfl, rfl, _, ran (by decide +kernel), ran (by decide +kernel)⟩, by decide +kernel, by decide +kernel, by decide +kernel, by decide +kernel, by decide +kernel, unhindered rfl, by decide +kernel, noneFailed rfl⟩

theorem witness_EngineWaitsAndLampCommandsComplete_6 : ∃ (ra rb : Scalar) (s u : State) (a b : Word) (o : Nat), TwoOperands (.lrun ra rb) ra rb s a b u ∧
    wbits a 4 28 = 0 ∧
    wbits a 32 32 ≠ 0 ∧
    wbits b 32 32 = 0 ∧
    wbits b 0 14 = 0 ∧
    wbits b 14 6 ≠ 63 ∧
    wbits a 0 4 < u.cur.tiles ∧
    u.cur.lampCfg[wbits a 0 4 % 16]'(Nat.mod_lt _ (by decide)) = some o ∧
    Gives (checkSlice [(o, 64)] []) u () u ∧
    (let g := lampCfgOf (u.sliceRead u.cur o 64)
   (let ps := [wbits b 20 6, wbits b 26 6]
   Unhindered (some (wbits b 14 6)) ps (.lrun a b) u ∧
    u.sliceMarked u.cur (o + 4) 4 = false ∧
    g.theta ≠ 0 ∧
    Gives (checkLampCfg o) u () u ∧
    g.step + wbits a 32 32 ≤ 2 ^ 32 ∧
    NoneFailed ps u)) :=
  ⟨.g 1, .g 2, lampState [0x100000000, 0], _, _, _, 0, ⟨by decide +kernel, rfl, rfl, _, ran (by decide +kernel), ran (by decide +kernel)⟩, by decide +kernel, by decide +kernel, by decide +kernel, by decide +kernel, by decide +kernel, by decide +kernel, by decide +kernel, kept (by decide +kernel), unhindered rfl, by decide +kernel, by decide +kernel, kept (by decide +kernel), by decide +kernel, noneFailed rfl⟩

theorem witness_EngineWaitsAndLampCommandsComplete_7 : ∃ (r : Scalar) (s u : State) (x : Word), issues (.lstop r) s = true ∧
    srcBound r s ∧
    Gives (readClean r) s x u ∧
    x.toNat < 16 ∧
    x.toNat < u.cur.tiles ∧
    (u.cur.lampCfg[x.toNat % 16]'(Nat.mod_lt _ (by decide))).isSome = true :=
  ⟨.g 1, lampState [0], _, _, by decide +kernel, rfl, ran (by decide +kernel), by decide +kernel, by decide +kernel, by decide +kernel⟩

theorem witness_DecodeEncodeRoundTrip_1 : ∃ (i : Instr) (rest : List Byte), i.isEvent = false :=
  ⟨.nop, [], by decide +kernel⟩

theorem witness_EveryWordHasOneMeaning_1 : ∃ (bs : List Byte) (i : Instr), decode bs = .ok i :=
  ⟨[10, 0], .nop16, rfl⟩

theorem witness_EveryWordHasOneMeaning_2 : ∃ (w : BitVec 32) (rest : List Byte), w.toNat % 2 = 1 ∧
    w.toNat / 2 % 64 ∉ assignedMajors :=
  ⟨0x7F, [], by decide +kernel, by decide +kernel⟩

theorem witness_EveryWordHasOneMeaning_3 : ∀ p ∈ usedF7, ∃ (w : BitVec 32) (rest : List Byte), w.toNat % 2 = 1 ∧
    w.toNat / 2 % 64 = p.1 ∧
    p.2 ≤ w.toNat / 2 ^ 25 := by
  have h : ∀ p ∈ usedF7, (BitVec.ofNat 32 (2 ^ 32 - 127 + 2 * p.1)).toNat % 2 = 1 ∧ (BitVec.ofNat 32 (2 ^ 32 - 127 + 2 * p.1)).toNat / 2 % 64 = p.1 ∧
      p.2 ≤ (BitVec.ofNat 32 (2 ^ 32 - 127 + 2 * p.1)).toNat / 2 ^ 25 := by decide +kernel
  exact fun p hp => ⟨_, [], h p hp⟩

theorem witness_AStepRunsTheDecodedInstruction_1 : ∃ (s s1 : State) (bytes : List Byte) (i : Instr), Runs s ∧
    Fetches s (.ok bytes) s1 ∧
    (s1.core s.cur.core).icErrors.contains (s.cur.asid, s.cur.regs.pc.toNat) = false ∧
    decode bytes = .ok i :=
  ⟨paged (runner []) 2, _, _, .nop16, ⟨⟨rfl, rfl, rfl, by decide +kernel⟩, fun _ => ⟨by decide +kernel, by decide +kernel, by decide +kernel⟩⟩, ranOk (by decide +kernel), by decide +kernel, by decide +kernel⟩

theorem witness_AStepRunsTheDecodedInstruction_2 : ∃ (s s1 : State) (bytes : List Byte) (n : Nat), Runs s ∧
    Fetches s (.ok bytes) s1 ∧
    decode bytes = .error (.illegalInstruction n) ∧
    s.cur.viaTarget = false :=
  ⟨{ paged (runner []) 2 with mem := { cells := [(0x30000, 14)] } }, _, _, 2, ⟨⟨rfl, rfl, rfl, by decide +kernel⟩, fun _ => ⟨by decide +kernel, by decide +kernel, by decide +kernel⟩⟩, ranOk (by decide +kernel), by decide +kernel, by decide +kernel⟩

theorem witness_AStepRunsTheDecodedInstruction_3 : ∃ (s s1 : State) (cause : Cause) (va : Nat), Runs s ∧
    Fetches s (.error (cause, va)) s1 :=
  ⟨plainState, _, _, _, ⟨⟨rfl, rfl, rfl, by decide +kernel⟩, fun _ => ⟨by decide +kernel, by decide +kernel, by decide +kernel⟩⟩, ranErr (by decide +kernel)⟩

theorem witness_AStepRunsTheDecodedInstruction_4 : ∃ (s : State) (i : Instr) (rest : List Turn), s.sched = .event i :: rest ∧
    i.isEvent = true :=
  ⟨{ State.reset with sched := [.event (.coreDispatch 0)] }, .coreDispatch 0, [], rfl, by decide +kernel⟩

theorem witness_AStepRunsTheDecodedInstruction_5 : ∃ s : State, HasTurn s ∧
    s.cur.unit = none ∧
    ∃ q, s.tornQueue = some q :=
  ⟨{ with1 { runner [] with launch := 1 } with launches := [aLaunch], queues := Vector.replicate 64 { tearing := true } }, ⟨rfl, rfl, rfl, by decide +kernel⟩, rfl, 0, by decide +kernel⟩

theorem witness_AStepRunsTheDecodedInstruction_6 : ∃ s : State, HasTurn s ∧
    s.cur.unit = none ∧
    s.tornQueue = none ∧
    s.mustLeave s.cur = true :=
  ⟨with1 { runner [] with leaving := true }, ⟨rfl, rfl, rfl, by decide +kernel⟩, rfl, by decide +kernel, by decide +kernel⟩

theorem witness_AStepRunsTheDecodedInstruction_7 : ∃ s : State, HasTurn s ∧
    s.cur.unit = none ∧
    s.tornQueue = none ∧
    s.mustLeave s.cur = false ∧
    (s.highReady s.cur.core).isSome = true :=
  ⟨{ plainState with bar1 := { svcbase := 0x1000 }, mem := { cells := [(0x1030, 4)] }, cores := [{ num := 0, high := [aRecord] }] }, ⟨rfl, rfl, rfl, by decide +kernel⟩, rfl, by decide +kernel, by decide +kernel, by decide +kernel⟩

theorem witness_EveryStepKeepsByteSpacesCanonical_1 : ∃ s t : State, Sys2Proof.Safety.memoryOk s ∧
    step s = .next t :=
  ⟨State.reset, _, ⟨by decide +kernel, by decide +kernel, by decide +kernel, by decide +kernel⟩, went (by decide +kernel)⟩

theorem witness_FaultsStopAndAreRecorded_1 : ∃ (f : FaultInfo) (pc : CodeAddr) (s : State), s.busy = true ∧
    s.recordsFull s.cur.key f = false ∧
    (let t := takeFaultAt pc f s
   s.attachTo s.cur.key.asid f = none) :=
  ⟨{ code := .poison }, 0, plainState, by decide +kernel, by decide +kernel, by decide +kernel⟩

theorem witness_FaultsStopAndAreRecorded_2 : ∃ (f : FaultInfo) (pc : CodeAddr) (s : State), s.recordsFull s.cur.key f = true :=
  ⟨{ code := .poison }, 0, { plainState with records := List.replicate 64 (aRecordOf pageMiss) }, by decide +kernel⟩

theorem witness_ContextsLeaveAndResume_1 : ∃ (k : Key) (s : State) (c : Context), s.ctx? k = some c ∧
    c.slot.isSome = true ∧
    c.status ≠ .stopped ∧
    s.mustLeave c = true ∧
    (c.status = .running → c.unit = none) ∧
    c.settled = true ∧
    s.mem.wf = true ∧
    FrameApart s k ∧
    FrameHolds s c :=
  ⟨aKey, holding [{ runner [5] with leaving := true }], { runner [5] with leaving := true }, rfl, by decide +kernel, (by decide), by decide +kernel, (fun _ => rfl), by decide +kernel, by decide +kernel, (by unfold FrameApart; decide +kernel), (by unfold FrameHolds; decide +kernel)⟩

/-- A context that leaves with a barrier object at the end of its slice. -/
def leavingWithBarrier : Context := { runner [5] with leaving := true, barriers := [{ off := 0xFFF0, expected := 2, counted := 1 }] }

theorem witness_ContextsLeaveAndResume_9 : ∃ (k : Key) (s : State) (c : Context), s.ctx? k = some c ∧
    c.slot.isSome = true ∧
    c.status ≠ .stopped ∧
    s.mustLeave c = true ∧
    (c.status = .running → c.unit = none) ∧
    c.settled = true ∧
    s.mem.wf = true ∧
    FrameApart s k ∧
    FrameHolds s c ∧
    ∃ b ∈ c.barriers, (∀ x ∈ c.barriers, x = b ∨ x.off + 16 ≤ b.off ∨ b.off + 16 ≤ x.off) ∧
      b.off % 16 = 0 ∧
      c.inH = false ∧
      c.liveLine (b.off / 128) = true :=
  ⟨aKey, holding [leavingWithBarrier], leavingWithBarrier, rfl, by decide +kernel, (by decide), by decide +kernel, (fun _ => rfl), by decide +kernel, by decide +kernel, (by unfold FrameApart; decide +kernel), (by unfold FrameHolds; decide +kernel), by decide +kernel⟩

theorem witness_ContextsLeaveAndResume_2 : ∃ (k : Key) (s : State) (c : Context), s.ctx? k = some c ∧
    c.status = .running ∧
    c.unit.isSome = true :=
  ⟨aKey, holding [{ runner [] with unit := some { saved := Regs.zero } }], { runner [] with unit := some { saved := Regs.zero } }, rfl, by decide +kernel, by decide +kernel⟩

theorem witness_ContextsLeaveAndResume_3 : ∃ (k : Key) (s : State) (c : Context), s.ctx? k = some c ∧
    c.slot.isSome = true ∧
    c.status = .running ∧
    c.unit = none ∧
    s.mustLeave c = true ∧
    c.settled = false :=
  ⟨aKey, holding [{ runner [] with leaving := true, cmds := [aCmd 1 (.mload 0 0) .started] }], { runner [] with leaving := true, cmds := [aCmd 1 (.mload 0 0) .started] }, rfl, by decide +kernel, by decide +kernel, by decide +kernel, by decide +kernel, by decide +kernel⟩

theorem witness_ContextsLeaveAndResume_4 : ∃ (k : Key) (seq : Nat) (s : State) (c : Context) (m : Cmd) (view : BitVec 256) (a b : Word), s.ctx? k = some c ∧
    c.cmd? seq = some m ∧
    m.kind = .mma view a b ∧
    (c.status = .stopped ∨ c.leaving = true) ∧
    m.state = .started ∧
    groupsBound b < wbits a 32 16 - m.groups :=
  ⟨aKey, 1, holding [{ runner [] with leaving := true, cmds := [aCmd 1 (.mma 0 0xFFFF00000000 0) .started] }], { runner [] with leaving := true, cmds := [aCmd 1 (.mma 0 0xFFFF00000000 0) .started] }, aCmd 1 (.mma 0 0xFFFF00000000 0) .started, 0, 0xFFFF00000000, 0, rfl, rfl, rfl, Or.inr rfl, rfl, by decide +kernel⟩

theorem witness_ContextsLeaveAndResume_5 : ∃ (k : Key) (after : Bool) (s : State) (c : Context), s.resumes.find? (fun r => r.1 == k) = some (k, after) ∧
    s.ctx? k = some c ∧
    c.status = .stopped ∧
    c.stop = none :=
  ⟨aKey, false, { holding [{ runner [] with status := .stopped }] with resumes := [(aKey, false)] }, { runner [] with status := .stopped }, by decide +kernel, rfl, by decide +kernel, rfl⟩

theorem witness_ContextsLeaveAndResume_6 : ∃ (k : Key) (after : Bool) (s : State), s.resumes.find? (fun r => r.1 == k) = some (k, after) ∧
    s.ctx? k = none :=
  ⟨aKey, false, { State.reset with resumes := [(aKey, false)] }, by decide +kernel, rfl⟩

theorem witness_ContextsLeaveAndResume_7 : ∃ (k : Key) (seq : Nat) (s : State) (c : Context) (m : Cmd) (view : BitVec 256) (a b : Word), s.ctx? k = some c ∧
    c.cmd? seq = some m ∧
    m.kind = .mma view a b ∧
    (c.status = .stopped ∨ c.leaving = true) ∧
    m.state = .started ∧
    wbits a 32 16 - m.groups ≤ groupsBound b :=
  ⟨aKey, 1, holding [{ runner [] with leaving := true, cmds := [aCmd 1 (.mma 0 0x200000000 0) .started] }], { runner [] with leaving := true, cmds := [aCmd 1 (.mma 0 0x200000000 0) .started] }, aCmd 1 (.mma 0 0x200000000 0) .started, 0, 0x200000000, 0, rfl, rfl, rfl, Or.inr rfl, rfl, by decide +kernel⟩

theorem witness_ContextsLeaveAndResume_8 : ∃ (k : Key) (after : Bool) (s : State) (c : Context), s.resumes.find? (fun r => r.1 == k) = some (k, after) ∧
    s.ctx? k = some c ∧
    c.stop.isSome = true :=
  ⟨aKey, false, { holding [stoppedFor { kind := 1, info := { code := .poison }, pc := 0x10000 }] with resumes := [(aKey, false)] }, stoppedFor { kind := 1, info := { code := .poison }, pc := 0x10000 }, by decide +kernel, rfl, by decide +kernel⟩

theorem witness_FaultsStopAndAreRecorded_3 : ∃ (k : Key) (s : State) (c : Context) (x : StopRec), s.ctx? k = some c ∧
    c.status = .stopped ∧
    c.stop = some x ∧
    c.settled = true ∧
    c.slot.isSome = true ∧
    x.kind ≠ 0 :=
  ⟨aKey, holding [stoppedFor { kind := 1, info := { code := .poison }, pc := 0x10000 }], stoppedFor { kind := 1, info := { code := .poison }, pc := 0x10000 }, { kind := 1, info := { code := .poison }, pc := 0x10000 }, rfl, by decide +kernel, rfl, by decide +kernel, by decide +kernel, by decide +kernel⟩

theorem witness_FaultsStopAndAreRecorded_4 : ∃ (k : Key) (s : State) (c : Context) (x : StopRec), s.ctx? k = some c ∧
    c.status = .stopped ∧
    c.stop = some x ∧
    c.settled = true ∧
    c.slot.isSome = true ∧
    x.kind = 0 :=
  ⟨aKey, holding [stoppedFor { kind := 0, info := pageMiss, pc := 0x10000 }], stoppedFor { kind := 0, info := pageMiss, pc := 0x10000 }, { kind := 0, info := pageMiss, pc := 0x10000 }, rfl, by decide +kernel, rfl, by decide +kernel, by decide +kernel, by decide +kernel⟩

theorem witness_FaultsStopAndAreRecorded_5 : ∃ (asid : BitVec 12) (s : State) (r : FaultRec), (∀ x ∈ s.queueJoins, x.1 ≠ asid) ∧
    s.nextRecord asid = some r ∧
    r.kind < 16 ∧
    (let fq := s.faultQueue asid
   (let h := s.queueHeader fq
   (let pa := fq + 64 + 64 * (h.1 % h.2.2)
   fq ≠ 0 ∧
    s.queueFull fq = false ∧
    h.1 + 1 < 2 ^ 64 ∧
    s.mem.wf = true))) :=
  ⟨1, { State.reset with records := [aRecordOf pageMiss], bar1 := { svcbase := 0x1000 }, mem := { cells := [(0x1021, 32), (0x2010, 64)] } }, aRecordOf pageMiss, by decide +kernel⟩

theorem witness_FaultsStopAndAreRecorded_6 : ∃ (asid : BitVec 12) (s : State) (r : FaultRec), s.nextRecord asid = some r ∧
    s.faultQueue asid ≠ 0 ∧
    s.queueFull (s.faultQueue asid) = true ∧
    (∀ x ∈ s.queueJoins, x.1 ≠ asid) :=
  ⟨1, { State.reset with records := [aRecordOf pageMiss], bar1 := { svcbase := 0x1000 }, mem := { cells := [(0x1021, 32), (0x2000, 64), (0x2010, 64)] } }, aRecordOf pageMiss, by decide +kernel, by decide +kernel, by decide +kernel, by decide +kernel⟩

/-- A package with one page of 1 GiB of type 9 in address space 0, which holds joins back. -/
def blockedCell : State :=
  { State.reset with
    bar1 := { astbase := 0x10000 }
    mem := { cells := [(0x10000, 1), (0x10002, 2), (0x20000, 1), (0x20001, 0x20), (0x20002, 2), (0x22000, 0x67), (0x22001, 1)] }
    queueJoins := [(0, 0x8000)] }

/-- Its page. -/
def blockedLeaf : Leaf :=
  { pa := 0, size := 2 ^ 30, ty := 9, arg := 0, gen := 0, w := true, x := false, sys := false, cnt := false, jblock := true
    remote := false, pkg := 0 }

theorem okIs {ε α : Type} [DecidableEq α] {x : Except ε α} {a : α}
    (h : (match x with | .ok b => decide (b = a) | .error _ => false) = true) : x = .ok a := by
  split at h
  · simp at h
    simp [h]
  · simp at h

theorem blockedCell_blocked : QueueCellBlocked blockedCell 0 0x8000 :=
  ⟨blockedLeaf, 0x22000, okIs (by decide +kernel), by decide +kernel, rfl, rfl, by decide, okIs (by decide +kernel), rfl⟩

theorem witness_FaultsStopAndAreRecorded_8 : ∃ (asid : BitVec 12) (cell : Nat) (t : State), QueueCellBlocked t asid cell :=
  ⟨0, 0x8000, blockedCell, blockedCell_blocked⟩

theorem witness_FaultsStopAndAreRecorded_9 : ∃ (asid : BitVec 12) (cell : Nat) (s : State), s.queueJoins = [(asid, cell)] ∧
    s.nextRecord asid = none ∧
    QueueCellBlocked s asid cell :=
  ⟨0, 0x8000, blockedCell, rfl, rfl, blockedCell_blocked⟩

theorem witness_FaultsStopAndAreRecorded_10 : ∃ (asid : BitVec 12) (cell : Nat) (s : State), s.queueJoins = [(asid, cell)] ∧
    s.nextRecord asid = none ∧
    cell ≠ 0 ∧
    ¬ QueueCellBlocked s asid cell :=
  ⟨0, 0x8000, { State.reset with queueJoins := [(0, 0x8000)] }, rfl, rfl, by decide +kernel, fun ⟨_, _, h, _⟩ => nomatch h⟩

theorem witness_FaultsStopAndAreRecorded_7 : ∃ (f : FaultInfo) (pc : CodeAddr) (s : State), s.busy = true ∧
    s.recordsFull s.cur.key f = false ∧
    (let t := takeFaultAt pc f s
   ∃ r : FaultRec, s.attachTo s.cur.key.asid f = some r ∧
    (∀ y ∈ s.records, y.id = r.id → y = r) ∧
    r.attached.length < 16 ∧
    ∃ a, (∀ pa, r.at_ = some pa → a < pa ∨ pa + 64 ≤ a)) :=
  ⟨pageMiss, 0, { with1 (runner []) with records := [aRecordOf pageMiss] }, by decide +kernel, by decide +kernel, aRecordOf pageMiss, by decide +kernel, by decide +kernel, by decide +kernel, 0, by decide +kernel⟩

theorem witness_RegisterAndReadingFrames_1 : ∃ (i : Instr) (s t : State), (flagFree i = true ∨ flagSetting i = true) ∧
    s.busy = true ∧
    s.cur.status = .running ∧
    exec i s = .next t ∧
    t.busy = true ∧
    flagFree i = true :=
  ⟨.add (.g 4) (.g 1) (.g 2), plainState, _, by decide +kernel, by decide +kernel, by decide +kernel, went (by decide +kernel), by decide +kernel, by decide +kernel⟩

theorem witness_RegisterAndReadingFrames_2 : ∃ (i : Instr) (s t : State), (flagFree i = true ∨ flagSetting i = true) ∧
    s.busy = true ∧
    s.cur.status = .running ∧
    exec i s = .next t ∧
    t.busy = true ∧
    ∃ k : Nat, t.cur.regs.status.getLsbD k = true :=
  ⟨.fadd (.g 4) (.g 1) (.g 2), with1 { runner [1, 2] with regs := { (runner [1, 2]).regs with status := 1 } }, _, by decide +kernel, by decide +kernel, by decide +kernel, went (by decide +kernel), by decide +kernel, 0, by decide +kernel⟩

theorem witness_RegisterAndReadingFrames_3 : ∃ (i : Instr) (s t : State), (flagFree i = true ∨ flagSetting i = true) ∧
    s.busy = true ∧
    s.cur.status = .running ∧
    exec i s = .next t ∧
    t.busy = true ∧
    ∃ k : Nat, s.cur.regs.status.getLsbD k = true :=
  ⟨.fadd (.g 4) (.g 1) (.g 2), with1 { runner [1, 2] with regs := { (runner [1, 2]).regs with status := 1 } }, _, by decide +kernel, by decide +kernel, by decide +kernel, went (by decide +kernel), by decide +kernel, 0, by decide +kernel⟩

theorem witness_RegisterAndReadingFrames_4 : ∃ (i : Instr) (s t : State), readsOrJoins i = true ∧
    s.busy = true ∧
    s.cur.status = .running ∧
    exec i s = .next t ∧
    (∀ c, t.ctx? s.cur.key = some c → c.status ≠ .stopped) ∧
    (s.bar1.notifybase = 0 ∨ ∀ d imm, i ≠ .ldc d imm) :=
  ⟨.ld (.g 4) (.g 1) 3 0, with1 (runner [0x7FFFFFE00000]), _, by decide +kernel, by decide +kernel, by decide +kernel, went (by decide +kernel), notStopped (by decide +kernel), Or.inl (by decide +kernel)⟩

theorem witness_RegisterAndReadingFrames_5 : ∃ (i : Instr) (s t : State), readsOrJoins i = true ∧
    s.busy = true ∧
    s.cur.status = .running ∧
    exec i s = .next t ∧
    (∀ c, t.ctx? s.cur.key = some c → c.status ≠ .stopped) ∧
    (∀ d imm, i ≠ .ldc d imm) :=
  ⟨.ld (.g 4) (.g 1) 3 0, with1 (runner [0x7FFFFFE00000]), _, by decide +kernel, by decide +kernel, by decide +kernel, went (by decide +kernel), notStopped (by decide +kernel), (by intro d imm h; cases h)⟩

theorem witness_RegisterAndReadingFrames_6 : ∃ (i : Instr) (s t : State), readsOrJoins i = true ∧
    s.busy = true ∧
    s.cur.status = .running ∧
    exec i s = .next t ∧
    t.busy = true :=
  ⟨.ld (.g 4) (.g 1) 3 0, with1 (runner [0x7FFFFFE00000]), _, by decide +kernel, by decide +kernel, by decide +kernel, went (by decide +kernel), by decide +kernel⟩

theorem witness_StoresTakeTheirBytesAlone_2 : ∃ (pa n va x marks : Nat) (s : State), s.lostCode pa (dieOf s.cur.core) = none ∧
    s.mem.wf = true :=
  ⟨0x40000, 8, 0, 5, 0, plainState, by decide +kernel, by decide +kernel⟩

theorem witness_StoresTakeTheirBytesAlone_3 : ∃ (o n va x marks : Nat) (s : State), s.busy = true ∧
    s.cur.inH = false ∧
    s.cur.touchesDiscarded o n = false ∧
    s.scratch.wf = true :=
  ⟨0, 8, 0, 5, 0, plainState, by decide +kernel, by decide +kernel, by decide +kernel, by decide +kernel⟩

theorem witness_StoresTakeTheirBytesAlone_4 : ∃ (o n va x marks : Nat) (s : State), s.busy = true ∧
    s.cur.inH = true ∧
    s.cur.touchesDiscarded o n = false ∧
    s.cur.area.wf = true :=
  ⟨0, 8, 0, 5, 0, with1 (handler []), by decide +kernel, by decide +kernel, by decide +kernel, by decide +kernel⟩

theorem witness_HomesPerformJoins_1 : ∃ (m : Nat) (s : State) (x : Msg) (j : JoinReq), AtHome s m x (.join j) ∧
    j.mark = false ∧
    Sys2Proof.Safety.memoryOk s ∧
    2 ≤ j.ty ∧
    j.ty ≤ 9 ∧
    j.width ∈ [16, 32, 64] ∧
    j.cell % (j.width / 8) = 0 ∧
    0 ≤ j.val ∧
    j.val < 2 ^ j.width ∧
    (let line := j.cell / 128
   (let n := j.width / 8
   (let unset := mdWidth (s.md.read line) = 0
   mdState (s.md.read line) ≠ 2 ∧
    (unset ∨ mdWidth (s.md.read line) = widthCode j.width)))) :=
  ⟨0, joining 3 64 false 0, request (.join (aJoin 3 64 false)), aJoin 3 64 false, ⟨rfl, rfl, rfl, by decide +kernel, rfl, by decide +kernel⟩, by decide +kernel, ⟨by decide +kernel, by decide +kernel, by decide +kernel, by decide +kernel⟩, by decide +kernel⟩

theorem witness_HomesPerformJoins_2 : ∃ (m : Nat) (s : State) (x : Msg) (j : JoinReq), AtHome s m x (.join j) ∧
    j.mark = false ∧
    Sys2Proof.Safety.memoryOk s ∧
    j.ty = 10 ∧
    j.width = 128 ∧
    j.cell % 16 = 0 ∧
    mdState (s.md.read (j.cell / 128)) ≠ 2 ∧
    (let unset := mdWidth (s.md.read (j.cell / 128)) = 0
   (let old := if unset then 0 else s.mem.readN j.cell 16
   (unset ∨ mdWidth (s.md.read (j.cell / 128)) = 3))) :=
  ⟨0, joining 10 128 false 0, request (.join (aJoin 10 128 false)), aJoin 10 128 false, ⟨rfl, rfl, rfl, by decide +kernel, rfl, by decide +kernel⟩, by decide +kernel, ⟨by decide +kernel, by decide +kernel, by decide +kernel, by decide +kernel⟩, by decide +kernel, by decide +kernel, by decide +kernel, by decide +kernel, by decide +kernel⟩

theorem witness_HomesPerformJoins_3 : ∃ (m : Nat) (s : State) (x : Msg) (j : JoinReq), AtHome s m x (.join j) ∧
    mdState (s.md.read (j.cell / 128)) = 2 :=
  ⟨0, joining 3 64 false (mdOf false 3 false 2), request (.join (aJoin 3 64 false)), aJoin 3 64 false, ⟨rfl, rfl, rfl, by decide +kernel, rfl, by decide +kernel⟩, by decide +kernel⟩

theorem witness_HomesPerformJoins_4 : ∃ (m : Nat) (s : State) (x : Msg) (j : JoinReq), AtHome s m x (.join j) ∧
    (j.mark = true → NoReplica s (j.cell / 128)) ∧
    mdState (s.md.read (j.cell / 128)) ≠ 2 ∧
    mdWidth (s.md.read (j.cell / 128)) ≠ 0 ∧
    mdWidth (s.md.read (j.cell / 128)) ≠ widthCode j.width :=
  ⟨0, joining 3 32 false (mdOf false 3 false 0), request (.join (aJoin 3 32 false)), aJoin 3 32 false, ⟨rfl, rfl, rfl, by decide +kernel, rfl, by decide +kernel⟩, (by intro h; cases h), by decide +kernel, by decide +kernel, by decide +kernel⟩

theorem witness_HomesPerformJoins_5 : ∃ (m : Nat) (s : State) (x : Msg) (j : JoinReq), AtHome s m x (.join j) ∧
    j.mark = true ∧
    Sys2Proof.Safety.memoryOk s ∧
    (let line := j.cell / 128
   mdState (s.md.read line) ≠ 2 ∧
    (mdWidth (s.md.read line) = 0 ∨ mdWidth (s.md.read line) = widthCode j.width) ∧
    NoReplica s line) :=
  ⟨0, joining 3 64 true 0, request (.join (aJoin 3 64 true)), aJoin 3 64 true, ⟨rfl, rfl, rfl, by decide +kernel, rfl, by decide +kernel⟩, rfl, ⟨by decide +kernel, by decide +kernel, by decide +kernel, by decide +kernel⟩, by decide +kernel, Or.inl (by decide +kernel), ⟨by decide +kernel, by intro r h; cases h⟩⟩

theorem witness_HomesPerformJoins_6 : ∃ (m : Nat) (s : State) (x : Msg) (j : JoinReq), AtHome s m x (.join j) ∧
    j.mark = true ∧
    mdState (s.md.read (j.cell / 128)) ≠ 2 ∧
    ¬ NoReplica s (j.cell / 128) :=
  ⟨0, { joining 3 64 true 0 with replicas := [aReplica] }, request (.join (aJoin 3 64 true)), aJoin 3 64 true, ⟨rfl, rfl, rfl, by decide +kernel, rfl, by decide +kernel⟩, rfl, by decide +kernel, (by rintro ⟨_, h⟩; exact h aReplica (by decide +kernel) (by decide +kernel))⟩

theorem witness_HomesPerformJoins_7 : ∃ (m : Nat) (s : State) (x : Msg) (j : JoinReq), x.body = .join j ∧
    (j.mark = true → NoReplica s (j.cell / 128)) :=
  ⟨0, State.reset, { request (.join (aJoin 3 64 false)) with cnt := true }, aJoin 3 64 false, rfl, by intro h; cases h⟩

theorem witness_HomesFillFreezeReadAndTest_1 : ∃ (m line : Nat) (data : BitVec 1024) (tag : Tag) (s : State) (x : Msg), AtHome s m x (.fill line data false tag) ∧
    Sys2Proof.Safety.memoryOk s ∧
    (let md := s.md.read line
   mdState md = 0) :=
  ⟨0, 0x800, 0, aTag, filling (.fill 0x800 0 false aTag) 0, request (.fill 0x800 0 false aTag), ⟨rfl, rfl, rfl, by decide +kernel, rfl, by decide +kernel⟩, ⟨by decide +kernel, by decide +kernel, by decide +kernel, by decide +kernel⟩, by decide +kernel⟩

theorem witness_HomesFillFreezeReadAndTest_2 : ∃ (m line : Nat) (data : BitVec 1024) (tag : Tag) (s : State) (x : Msg), AtHome s m x (.fill line data false tag) ∧
    Sys2Proof.Safety.memoryOk s ∧
    (let md := s.md.read line
   mdState md = 1 ∧
    s.mem.readN (128 * line) 128 = data.toNat) :=
  ⟨0, 0x800, 0, aTag, filling (.fill 0x800 0 false aTag) (mdOf false 1 false 1), request (.fill 0x800 0 false aTag), ⟨rfl, rfl, rfl, by decide +kernel, rfl, by decide +kernel⟩, ⟨by decide +kernel, by decide +kernel, by decide +kernel, by decide +kernel⟩, by decide +kernel, by decide +kernel⟩

theorem witness_HomesFillFreezeReadAndTest_3 : ∃ (m line : Nat) (data : BitVec 1024) (tag : Tag) (s : State) (x : Msg), AtHome s m x (.fill line data false tag) ∧
    Sys2Proof.Safety.memoryOk s ∧
    (let md := s.md.read line
   mdState md = 1 ∧
    s.mem.readN (128 * line) 128 ≠ data.toNat ∧
    s.invalidating line = false ∧
    (∀ r ∈ s.replicas, r.snap.line ≠ line)) :=
  ⟨0, 0x800, 1, aTag, filling (.fill 0x800 1 false aTag) (mdOf false 1 false 1), request (.fill 0x800 1 false aTag), ⟨rfl, rfl, rfl, by decide +kernel, rfl, by decide +kernel⟩, ⟨by decide +kernel, by decide +kernel, by decide +kernel, by decide +kernel⟩, by decide +kernel⟩

theorem witness_HomesFillFreezeReadAndTest_4 : ∃ (m line : Nat) (data : BitVec 1024) (tag : Tag) (s : State) (x : Msg), AtHome s m x (.fill line data false tag) ∧
    Sys2Proof.Safety.memoryOk s ∧
    (let md := s.md.read line
   mdState md = 2) :=
  ⟨0, 0x800, 0, aTag, filling (.fill 0x800 0 false aTag) (mdOf false 1 false 2), request (.fill 0x800 0 false aTag), ⟨rfl, rfl, rfl, by decide +kernel, rfl, by decide +kernel⟩, ⟨by decide +kernel, by decide +kernel, by decide +kernel, by decide +kernel⟩, by decide +kernel⟩

theorem witness_HomesFillFreezeReadAndTest_5 : ∃ (m line ty : Nat) (tag : Tag) (s : State) (x : Msg), AtHome s m x (.freeze line ty tag) ∧
    Sys2Proof.Safety.memoryOk s :=
  ⟨0, 0x800, 3, aTag, filling (.freeze 0x800 3 aTag) 0, request (.freeze 0x800 3 aTag), ⟨rfl, rfl, rfl, by decide +kernel, rfl, by decide +kernel⟩, ⟨by decide +kernel, by decide +kernel, by decide +kernel, by decide +kernel⟩⟩

theorem witness_HomesFillFreezeReadAndTest_6 : ∃ (m pa n : Nat) (data : BitVec 1024) (marks : BitVec 128) (tag : Tag) (s : State) (x : Msg), AtHome s m x (.store pa n data marks tag) ∧
    Sys2Proof.Safety.memoryOk s ∧
    s.olderStore x = false ∧
    s.invalidating (pa / 128) = false ∧
    (∀ r ∈ s.replicas, r.snap.line ≠ pa / 128) :=
  ⟨0, 0x40000, 8, 5, 0, aTag, filling (.store 0x40000 8 5 0 aTag) 0, request (.store 0x40000 8 5 0 aTag), ⟨rfl, rfl, rfl, by decide +kernel, rfl, by decide +kernel⟩, ⟨by decide +kernel, by decide +kernel, by decide +kernel, by decide +kernel⟩, by decide +kernel, by decide +kernel, by decide +kernel⟩

theorem witness_HomesFillFreezeReadAndTest_7 : ∃ (m line ty : Nat) (w : Who) (s : State) (x : Msg), AtHome s m x (.load line ty w) :=
  ⟨0, 0x800, 0, .ctx aKey 0, filling (.load 0x800 0 (.ctx aKey 0)) 0, request (.load 0x800 0 (.ctx aKey 0)), ⟨rfl, rfl, rfl, by decide +kernel, rfl, by decide +kernel⟩⟩

theorem witness_HomesFillFreezeReadAndTest_8 : ∃ (m line ty : Nat) (w : Who) (s : State) (x : Msg), AtHome s m x (.exact line ty w) :=
  ⟨0, 0x800, 0, .ctx aKey 0, filling (.exact 0x800 0 (.ctx aKey 0)) 0, request (.exact 0x800 0 (.ctx aKey 0)), ⟨rfl, rfl, rfl, by decide +kernel, rfl, by decide +kernel⟩⟩

theorem witness_HomesFillFreezeReadAndTest_9 : ∃ (m cell ty : Nat) (arg : BitVec 8) (k : TestKind) (trig : Word) (w : Who) (s : State) (x : Msg), AtHome s m x (.test cell ty arg k w) ∧
    (k = .await trig ∨ k = .probe trig) ∧
    (∀ f ∈ s.forwards, f.1 ≠ cell / 128) ∧
    2 ≤ ty ∧
    ty ≤ 10 ∧
    (let line := cell / 128
   (let md := s.md.read line
   (let n := widthBytes ty (mdWidth md)
   (let unset := mdWidth md = 0
   (let passes := if unset then trig = 0 ∧ (ty = 3 ∨ ty = 8 ∨ ty = 9 ∨ ty = 10)
           else Passes ty (8 * n) (s.mem.readN cell n) trig
   mdPoison md = false ∧
    (unset → mdState md = 0) ∧
    (¬ unset → cell % n = 0)))))) :=
  ⟨0, 0x40000, 3, 0, .await 5, 5, .ctx aKey 0, filling (.test 0x40000 3 0 (.await 5) (.ctx aKey 0)) 0, request (.test 0x40000 3 0 (.await 5) (.ctx aKey 0)), ⟨rfl, rfl, rfl, by decide +kernel, rfl, by decide +kernel⟩, Or.inl rfl, by decide +kernel⟩

theorem witness_HomesFillFreezeReadAndTest_10 : ∃ (m cell : Nat) (arg : BitVec 8) (w : Who) (s : State) (x : Msg), AtHome s m x (.test cell 1 arg .filled w) ∧
    (∀ f ∈ s.forwards, f.1 ≠ cell / 128) ∧
    (let md := s.md.read (cell / 128)
   mdPoison md = false) :=
  ⟨0, 0x40000, 0, .ctx aKey 0, filling (.test 0x40000 1 0 .filled (.ctx aKey 0)) 0, request (.test 0x40000 1 0 .filled (.ctx aKey 0)), ⟨rfl, rfl, rfl, by decide +kernel, rfl, by decide +kernel⟩, by decide +kernel, by decide +kernel⟩

theorem witness_HomesFillFreezeReadAndTest_11 : ∃ (m line : Nat) (data : BitVec 1024) (tag : Tag) (s : State) (x : Msg), AtHome s m x (.fill line data false tag) ∧
    Sys2Proof.Safety.memoryOk s ∧
    (let md := s.md.read line
   mdState md = 1 ∧
    s.mem.readN (128 * line) 128 ≠ data.toNat ∧
    (s.invalidating line = true ∨ ∃ r ∈ s.replicas, r.snap.line = line)) :=
  ⟨0, 0x800, 1, aTag, { filling (.fill 0x800 1 false aTag) (mdOf false 1 false 1) with replicas := [aReplica] }, request (.fill 0x800 1 false aTag), ⟨rfl, rfl, rfl, by decide +kernel, rfl, by decide +kernel⟩, ⟨by decide +kernel, by decide +kernel, by decide +kernel, by decide +kernel⟩, by decide +kernel, by decide +kernel, Or.inr ⟨aReplica, by decide +kernel, by decide +kernel⟩⟩

theorem witness_HomesFillFreezeReadAndTest_12 : ∃ (m line : Nat) (data : BitVec 1024) (tag : Tag) (s : State) (x : Msg), AtHome s m x (.fill line data true tag) ∧
    Sys2Proof.Safety.memoryOk s ∧
    (let md := s.md.read line
   mdState md ≠ 2 ∧
    ¬ NoReplica s line) :=
  ⟨0, 0x800, 0, aTag, { filling (.fill 0x800 0 true aTag) 0 with replicas := [aReplica] }, request (.fill 0x800 0 true aTag), ⟨rfl, rfl, rfl, by decide +kernel, rfl, by decide +kernel⟩, ⟨by decide +kernel, by decide +kernel, by decide +kernel, by decide +kernel⟩, by decide +kernel, (by rintro ⟨_, h⟩; exact h aReplica (by decide +kernel) (by decide +kernel))⟩

theorem witness_HomesFillFreezeReadAndTest_13 : ∃ (m line : Nat) (data : BitVec 1024) (tag : Tag) (s : State) (x : Msg), AtHome s m x (.fill line data true tag) ∧
    Sys2Proof.Safety.memoryOk s ∧
    (let md := s.md.read line
   mdState md = 0 ∧
    NoReplica s line) :=
  ⟨0, 0x800, 0, aTag, filling (.fill 0x800 0 true aTag) 0, request (.fill 0x800 0 true aTag), ⟨rfl, rfl, rfl, by decide +kernel, rfl, by decide +kernel⟩, ⟨by decide +kernel, by decide +kernel, by decide +kernel, by decide +kernel⟩, by decide +kernel, ⟨by decide +kernel, by intro r h; cases h⟩⟩

theorem witness_HomesFillFreezeReadAndTest_14 : ∃ (m line : Nat) (data : BitVec 1024) (tag : Tag) (s : State) (x : Msg), AtHome s m x (.fill line data true tag) ∧
    Sys2Proof.Safety.memoryOk s ∧
    (let md := s.md.read line
   mdState md = 1 ∧
    NoReplica s line) :=
  ⟨0, 0x800, 0, aTag, filling (.fill 0x800 0 true aTag) (mdOf false 1 false 1), request (.fill 0x800 0 true aTag), ⟨rfl, rfl, rfl, by decide +kernel, rfl, by decide +kernel⟩, ⟨by decide +kernel, by decide +kernel, by decide +kernel, by decide +kernel⟩, by decide +kernel, ⟨by decide +kernel, by intro r h; cases h⟩⟩

theorem witness_HomesFillFreezeReadAndTest_15 : ∃ (m line : Nat) (data : BitVec 1024) (tag : Tag) (s : State) (x : Msg), AtHome s m x (.fill line data true tag) ∧
    Sys2Proof.Safety.memoryOk s ∧
    (let md := s.md.read line
   mdState md = 2) :=
  ⟨0, 0x800, 0, aTag, filling (.fill 0x800 0 true aTag) (mdOf false 1 false 2), request (.fill 0x800 0 true aTag), ⟨rfl, rfl, rfl, by decide +kernel, rfl, by decide +kernel⟩, ⟨by decide +kernel, by decide +kernel, by decide +kernel, by decide +kernel⟩, by decide +kernel⟩

theorem witness_HomesFillFreezeReadAndTest_16 : ∃ (m cell ty : Nat) (arg : BitVec 8) (k : TestKind) (w : Who) (s : State) (x : Msg), AtHome s m x (.test cell ty arg k w) ∧
    (∀ f ∈ s.forwards, f.1 ≠ cell / 128) ∧
    1 ≤ ty ∧
    ty ≤ 10 :=
  ⟨0, 0x40001, 3, 0, .await 5, .ctx aKey 0, filling (.test 0x40001 3 0 (.await 5) (.ctx aKey 0)) (mdOf false 3 false 0), request (.test 0x40001 3 0 (.await 5) (.ctx aKey 0)), ⟨rfl, rfl, rfl, by decide +kernel, rfl, by decide +kernel⟩, (by intro f h; cases h), by decide +kernel, by decide +kernel⟩

theorem witness_HomesFillFreezeReadAndTest_17 : ∃ (m cell : Nat) (arg : BitVec 8) (trigs : List Word) (w : Who) (s : State) (x : Msg), AtHome s m x (.test cell 1 arg (.any trigs) w) ∧
    (∀ f ∈ s.forwards, f.1 ≠ cell / 128) ∧
    (let md := s.md.read (cell / 128)
   (let first : Word := BitVec.ofNat 64 (s.mem.readN (128 * (cell / 128)) 8)
   mdPoison md = false)) :=
  ⟨0, 0x40000, 0, [7, 5], .ctx aKey 0, filling (.test 0x40000 1 0 (.any [7, 5]) (.ctx aKey 0)) (mdOf false 1 false 1), request (.test 0x40000 1 0 (.any [7, 5]) (.ctx aKey 0)), ⟨rfl, rfl, rfl, by decide +kernel, rfl, by decide +kernel⟩, (by intro f h; cases h), by decide +kernel⟩

theorem witness_HomesFillFreezeReadAndTest_18 : ∃ (m : Nat) (s : State) (x : Msg), ∃ line data mark tag, x.body = .fill line data mark tag ∧
    (NoReplica s line ∨ s.fillPoisons line data mark = false ∧ s.counter (line / 512) + 1 ≠ s.bar1.cntthresh) :=
  ⟨0, State.reset, request (.fill 0x800 0 false aTag), 0x800, 0, false, aTag, rfl, Or.inl ⟨by decide +kernel, by intro r h; cases h⟩⟩

theorem witness_HomesFillFreezeReadAndTest_19 : ∃ (m : Nat) (s : State) (x : Msg), ∃ line ty tag, x.body = .freeze line ty tag :=
  ⟨0, State.reset, request (.freeze 0x800 3 aTag), 0x800, 3, aTag, rfl⟩

theorem witness_HomesFillFreezeReadAndTest_20 : ∃ (m : Nat) (s : State) (x : Msg), ∃ pa n data marks tag, x.body = .store pa n data marks tag ∧
    s.olderStore x = false ∧
    NoReplica s (pa / 128) :=
  ⟨0, State.reset, request (.store 0x40000 8 5 0 aTag), 0x40000, 8, 5, 0, aTag, rfl, by decide +kernel, ⟨by decide +kernel, by intro r h; cases h⟩⟩

theorem witness_HomesFillFreezeReadAndTest_21 : ∃ (m : Nat) (s : State) (x : Msg), ∃ line ty w, x.body = .load line ty w :=
  ⟨0, State.reset, request aLoad, 0x800, 0, .ctx aKey 0, rfl⟩

theorem witness_HomesFillFreezeReadAndTest_22 : ∃ (m : Nat) (s : State) (x : Msg), ∃ line ty w, x.body = .exact line ty w :=
  ⟨0, State.reset, request (.exact 0x800 0 (.ctx aKey 0)), 0x800, 0, .ctx aKey 0, rfl⟩

theorem witness_HomesFillFreezeReadAndTest_23 : ∃ (m : Nat) (s : State) (x : Msg), ∃ cell ty arg k w, x.body = .test cell ty arg k w ∧
    (∀ f ∈ s.forwards, f.1 ≠ cell / 128) :=
  ⟨0, State.reset, request (.test 0x40001 3 0 (.await 5) (.ctx aKey 0)), 0x40001, 3, 0, .await 5, .ctx aKey 0, rfl, (by intro f h; cases h)⟩

theorem witness_HomesFillFreezeReadAndTest_24 : ∃ (m cell ty dest : Nat) (arg : BitVec 8) (k : TestKind) (w : Who) (s : State) (x : Msg), AtHome s m x (.test cell ty arg k w) ∧
    s.forwards.find? (fun f => f.1 == cell / 128) = some (cell / 128, dest) :=
  ⟨0, 0x40001, 3, 0x900, 0, .await 5, .ctx aKey 0, { filling (.test 0x40001 3 0 (.await 5) (.ctx aKey 0)) 0 with forwards := [(0x800, 0x900)] }, request (.test 0x40001 3 0 (.await 5) (.ctx aKey 0)), ⟨rfl, rfl, rfl, by decide +kernel, rfl, by decide +kernel⟩, by decide +kernel⟩

theorem witness_HomesFillFreezeReadAndTest_25 : ∃ (m cell ty dest : Nat) (arg : BitVec 8) (k : TestKind) (w : Who) (s : State) (x : Msg), s.msg? m = some x ∧
    x.loc = .arrived ∧
    x.body = .test cell ty arg k w ∧
    s.homeFault x = none ∧
    x.cnt = true ∧
    s.hasRoom x = true ∧
    s.forwards.find? (fun f => f.1 == cell / 128) = some (cell / 128, dest) :=
  let x : Msg := { request (.test 0x40001 3 0 (.await 5) (.ctx aKey 0)) with cnt := true }
  ⟨0, 0x40001, 3, 0x900, 0, .await 5, .ctx aKey 0, { filling (.test 0x40001 3 0 (.await 5) (.ctx aKey 0)) 0 with forwards := [(0x800, 0x900)], msgs := [x] }, x, rfl, rfl, rfl, by decide +kernel, rfl, by decide +kernel, by decide +kernel⟩

theorem witness_AnswersAndInvalidationsArrive_1 : ∃ (m n : Nat) (k : Key) (va : Word) (code : Option FaultCode) (s : State) (x : Msg) (c : Context), s.msg? m = some x ∧
    x.loc = .arrived ∧
    (∀ y ∈ s.msgs, y.id ∉ x.behind) ∧
    x.body = .ack { who := .ctx k n, va := va } code ∧
    s.ctx? k = some c :=
  ⟨0, 0, aKey, 0x20000, none, { mailed (request (.ack aTag none)) with ctxs := [runner []] }, request (.ack aTag none), runner [], rfl, rfl, by decide +kernel, rfl, rfl⟩

theorem witness_AnswersAndInvalidationsArrive_2 : ∃ (m n : Nat) (k : Key) (s : State) (x : Msg) (c : Context) (y : LineSnap), s.msg? m = some x ∧
    x.loc = .arrived ∧
    (∀ z ∈ s.msgs, z.id ∉ x.behind) ∧
    x.body = .data (.ctx k n) none ∧
    x.snap = some y ∧
    s.ctx? k = some c ∧
    c.asked = true ∧
    c.nextReq = n :=
  ⟨0, 0, aKey, { mailed { request (.data (.ctx aKey 0) none) with snap := some { line := 0x800, ty := 0, data := 0, marks := 0, md := 0 } } with ctxs := [{ runner [] with asked := true }] }, { request (.data (.ctx aKey 0) none) with snap := some { line := 0x800, ty := 0, data := 0, marks := 0, md := 0 } }, { runner [] with asked := true }, { line := 0x800, ty := 0, data := 0, marks := 0, md := 0 }, rfl, rfl, by decide +kernel, rfl, rfl, rfl, by decide +kernel, by decide +kernel⟩

theorem witness_AnswersAndInvalidationsArrive_3 : ∃ (m n : Nat) (k : Key) (r : TestResult) (s : State) (x : Msg) (c : Context), s.msg? m = some x ∧
    x.loc = .arrived ∧
    x.body = .result (.ctx k n) r ∧
    s.ctx? k = some c ∧
    c.asked = true ∧
    c.nextReq = n ∧
    c.reply = none :=
  ⟨0, 0, aKey, .notPassed, { mailed (request (.result (.ctx aKey 0) .notPassed)) with ctxs := [{ runner [] with asked := true }] }, request (.result (.ctx aKey 0) .notPassed), { runner [] with asked := true }, rfl, rfl, rfl, rfl, by decide +kernel, by decide +kernel, by decide +kernel⟩

theorem witness_AnswersAndInvalidationsArrive_4 : ∃ (m core i : Nat) (k : Key) (rec : TaskRec) (pc : CodeAddr) (first : Word) (s : State) (x : Msg), s.msg? m = some x ∧
    x.loc = .arrived ∧
    x.body = .result (.watch k core rec pc) (.passed i first) :=
  ⟨0, 0, 0, aKey, aRecord, 0x10000, 5, mailed (request (.result (.watch aKey 0 aRecord 0x10000) (.passed 0 5))), request (.result (.watch aKey 0 aRecord 0x10000) (.passed 0 5)), rfl, rfl, rfl⟩

theorem witness_MessagesCrossMeshDiesAndLinks_1 : ∃ (m : Nat) (b : Bool) (s : State) (x : Msg), Stands s m x .source ∧
    s.lostAhead x = none :=
  ⟨0, true, mailed (mail aLoad .source), mail aLoad .source, ⟨rfl, rfl⟩, by decide +kernel⟩

theorem witness_MessagesCrossMeshDiesAndLinks_2 : ∃ (m bd cx cy : Nat) (s : State) (x : Msg), Stands s m x (.router bd cx cy) ∧
    x.dst.place.1 = bd ∧
    (∀ p d, x.dst ≠ .remote p d) ∧
    (∀ g, x.dst ≠ .gate g) :=
  ⟨0, 0, 1, 1, mailed (mail aLoad (.router 0 1 1)), mail aLoad (.router 0 1 1), ⟨rfl, rfl⟩, by decide +kernel, (by intros; intro h; cases h), (by intros; intro h; cases h)⟩

theorem witness_MessagesCrossMeshDiesAndLinks_3 : ∃ (m bd cx cy : Nat) (s : State) (x : Msg), Stands s m x (.router bd cx cy) ∧
    (∀ j, x.body ≠ .join j) :=
  ⟨0, 0, 1, 1, mailed (mail aLoad (.router 0 1 1)), mail aLoad (.router 0 1 1), ⟨rfl, rfl⟩, (by intros; intro h; cases h)⟩

theorem witness_MessagesCrossMeshDiesAndLinks_4 : ∃ (m bd cx cy : Nat) (s : State) (x : Msg) (j : JoinReq), Stands s m x (.router bd cx cy) ∧
    x.body = .join j ∧
    (s.buffered bd cx cy).length < 32 ∧
    (∀ o ∈ s.buffered bd cx cy, ∀ k, o.body = .join k → k.mayMerge j = true → o.bad ≠ x.bad) :=
  ⟨0, 0, 1, 1, mailed (mail (.join (aJoin 3 64 false)) (.router 0 1 1)), mail (.join (aJoin 3 64 false)) (.router 0 1 1), aJoin 3 64 false, ⟨rfl, rfl⟩, rfl, by decide +kernel, (by intro o h; rw [show State.buffered _ _ _ _ = [] from rfl] at h; cases h)⟩

theorem witness_MessagesCrossMeshDiesAndLinks_5 : ∃ (m bd cx cy : Nat) (s : State) (x o : Msg) (j k : JoinReq), Stands s m x (.router bd cx cy) ∧
    x.body = .join j ∧
    s.buffered bd cx cy = [o] ∧
    o.body = .join k ∧
    k.mayMerge j = true ∧
    o.bad = x.bad ∧
    o.id ≠ m :=
  ⟨0, 0, 1, 1, { mailed (mail (.join (aJoin 3 64 false)) (.router 0 1 1)) with msgs := [mail (.join (aJoin 3 64 false)) (.router 0 1 1), { mail (.join (aJoin 3 64 false)) (.buffer 0 1 1) with id := 1 }], nextMsg := 2 }, mail (.join (aJoin 3 64 false)) (.router 0 1 1), { mail (.join (aJoin 3 64 false)) (.buffer 0 1 1) with id := 1 }, aJoin 3 64 false, aJoin 3 64 false, ⟨rfl, rfl⟩, rfl, rfl, rfl, by decide +kernel, rfl, by decide +kernel⟩

theorem witness_MessagesCrossMeshDiesAndLinks_6 : ∃ (m bd cx cy : Nat) (s : State) (x : Msg), Stands s m x (.buffer bd cx cy) ∧
    x.dst.place.1 = bd ∧
    (∀ p d, x.dst ≠ .remote p d) ∧
    (∀ g, x.dst ≠ .gate g) :=
  ⟨0, 0, 1, 1, mailed (mail (.join (aJoin 3 64 false)) (.buffer 0 1 1)), mail (.join (aJoin 3 64 false)) (.buffer 0 1 1), ⟨rfl, rfl⟩, by decide +kernel, (by intros; intro h; cases h), (by intros; intro h; cases h)⟩

theorem witness_MessagesCrossMeshDiesAndLinks_7 : ∃ (core i : Nat) (h : Held) (s : State), (s.core core).hold[i]? = some h ∧
    (∀ y ∈ (s.core core).hold.eraseIdx i, y ≠ h) :=
  ⟨0, 0, heldJoin, { State.reset with cores := [{ num := 0, hold := [heldJoin] }] }, rfl, by decide +kernel⟩

theorem witness_MessagesCrossMeshDiesAndLinks_8 : ∃ (m bd cx cy die : Nat) (e : Bool) (s : State) (x : Msg), Stands s m x (.router bd cx cy) ∧
    MakesFor s x die ∧
    bd ≠ die ∧
    ringEast s.deadEdges bd die = some e ∧
    cx ≠ (if e then 7 else 0) :=
  ⟨0, 0, 1, 1, 1, true, mailed (mailFar aLoad (.router 0 1 1)), mailFar aLoad (.router 0 1 1), ⟨rfl, rfl⟩, Or.inl ⟨(by intros; intro h; cases h), by decide +kernel⟩, by decide +kernel, by decide +kernel, by decide +kernel⟩

theorem witness_MessagesCrossMeshDiesAndLinks_9 : ∃ (m bd cx cy die c : Nat) (e : Bool) (s : State) (x : Msg), Stands s m x (.router bd cx cy) ∧
    MakesFor s x die ∧
    bd ≠ die ∧
    ringEast s.deadEdges bd die = some e ∧
    cx = (if e then 7 else 0) ∧
    x.src = .core c ∧
    c / 192 = bd ∧
    x.body.isRequest = true :=
  ⟨0, 0, 7, 1, 1, 0, true, mailed (mailFar aLoad (.router 0 7 1)), mailFar aLoad (.router 0 7 1), ⟨rfl, rfl⟩, Or.inl ⟨(by intros; intro h; cases h), by decide +kernel⟩, by decide +kernel, by decide +kernel, by decide +kernel, rfl, by decide +kernel, by decide +kernel⟩

theorem witness_MessagesCrossMeshDiesAndLinks_10 : ∃ (m bd cx cy die : Nat) (e : Bool) (s : State) (x : Msg), Stands s m x (.router bd cx cy) ∧
    MakesFor s x die ∧
    bd ≠ die ∧
    ringEast s.deadEdges bd die = some e ∧
    cx = (if e then 7 else 0) ∧
    (∀ c, x.src = .core c → x.body.isRequest = true → c / 192 ≠ bd) :=
  ⟨0, 1, 7, 1, 2, true, mailed { mailFar aLoad (.router 1 7 1) with dst := .die 4 0 }, { mailFar aLoad (.router 1 7 1) with dst := .die 4 0 }, ⟨rfl, rfl⟩, Or.inl ⟨(by intros; intro h; cases h), by decide +kernel⟩, by decide +kernel, by decide +kernel, by decide +kernel, (by intro c h _; cases h; decide)⟩

theorem witness_MessagesCrossMeshDiesAndLinks_11 : ∃ (m g : Nat) (s : State) (x : Msg), Stands s m x (.gate g) ∧
    x.body.isRequest = true ∧
    x.body.isRead = false ∧
    (∀ pa n data marks tag, x.body ≠ .store pa n data marks tag) :=
  ⟨0, 1, mailed (mailFar (.join (aJoin 3 64 false)) (.gate 1)), mailFar (.join (aJoin 3 64 false)) (.gate 1), ⟨rfl, rfl⟩, by decide +kernel, by decide +kernel, (by intros; intro h; cases h)⟩

theorem witness_MessagesCrossMeshDiesAndLinks_12 : ∃ (m bd cx cy p d l : Nat) (s : State) (x : Msg), Stands s m x (.router bd cx cy) ∧
    x.dst = .remote p d ∧
    s.linkFor p (x.body.key % 2 ^ 52) = some l ∧
    bd = linkDie l :=
  ⟨0, 0, 1, 1, 5, 0, 0, { mailed { abroad with loc := .router 0 1 1 } with bar1 := { pkgvalid := true, pkgid := 4 }, links := Vector.replicate 12 { up := true }, rings := #v[8, 8, 8] }, { abroad with loc := .router 0 1 1 }, ⟨rfl, rfl⟩, rfl, by decide +kernel, by decide +kernel⟩

theorem witness_MessagesCrossMeshDiesAndLinks_13 : ∃ (m bd cx cy : Nat) (s : State) (x : Msg), Stands s m x (.router bd cx cy) ∧
    ((∃ p d, x.dst = .remote p d ∧ s.linkFor p (x.body.key % 2 ^ 52) = none) ∨ ∃ die, MakesFor s x die ∧ bd ≠ die ∧ ringEast s.deadEdges bd die = none) :=
  ⟨0, 0, 1, 1, mailed { abroad with loc := .router 0 1 1 }, { abroad with loc := .router 0 1 1 }, ⟨rfl, rfl⟩, Or.inl ⟨5, 0, rfl, by decide +kernel⟩⟩

theorem witness_MessagesCrossMeshDiesAndLinks_14 : ∃ (m : Nat) (code : FaultCode) (s : State) (x : Msg), Stands s m x .source ∧
    s.lostAhead x = some code :=
  ⟨0, .dataLost, { mailed (mail aLoad .source) with lost := [(0x40000, 0x10000)] }, mail aLoad .source, ⟨rfl, rfl⟩, by decide +kernel⟩

theorem witness_MessagesCrossMeshDiesAndLinks_15 : ∃ (l : Fin 12) (far : BitVec 12) (s : State), s.bar1.pkgvalid = true :=
  ⟨0, 7, { State.reset with bar1 := { pkgvalid := true } }, by decide +kernel⟩

theorem witness_MessagesCrossMeshDiesAndLinks_17 : ∃ (m q p d k : Nat) (up : Bool) (s : State) (x : Msg), Stands s m x (.package q) ∧
    x.dst = .remote p d ∧
    s.heading x.way q p = some (k, up) :=
  ⟨0, 3, 5, 0, 0, true, { mailed { abroad with loc := .package 3 } with rings := #v[8, 8, 8] }, { abroad with loc := .package 3 }, ⟨rfl, rfl⟩, rfl, by decide +kernel⟩

theorem witness_MessagesCrossMeshDiesAndLinks_18 : ∃ (m q k : Nat) (up : Bool) (own : BitVec 12) (s : State) (x : Msg), Stands s m x (.package q) ∧
    (∀ p d, x.dst ≠ .remote p d) ∧
    s.ownId = some own ∧
    s.heading x.way q own.toNat = some (k, up) :=
  ⟨0, 3, 0, true, 4, { mailed { mail aLoad (.package 3) with src := .remote 3 0 } with bar1 := { pkgvalid := true, pkgid := 4 }, links := Vector.replicate 12 { up := true }, rings := #v[8, 8, 8] }, { mail aLoad (.package 3) with src := .remote 3 0 }, ⟨rfl, rfl⟩, (by intros; intro h; cases h), rfl, by decide +kernel⟩

theorem witness_MessagesCrossMeshDiesAndLinks_16 : ∃ (m l p d : Nat) (f own : BitVec 12) (s : State) (x : Msg), Stands s m x (.link l) ∧
    x.dst = .remote p d ∧
    l < 12 ∧
    s.links[Fin.ofNat 12 l].farId = some f ∧
    f.toNat ≠ p ∧
    s.ownId = some own :=
  ⟨0, 0, 5, 0, 7, 4, { mailed abroad with links := State.reset.links.set 0 { up := true, farId := some 7 }, bar1 := { pkgvalid := true, pkgid := 4 } }, abroad, ⟨rfl, rfl⟩, rfl, by decide +kernel, by decide +kernel, by decide +kernel, rfl⟩

theorem witness_MessagesCrossMeshDiesAndLinks_22 : ∃ (m l p d : Nat) (s : State) (x : Msg), Stands s m x (.link l) ∧
    x.dst = .remote p d ∧
    l < 12 ∧
    (s.links[Fin.ofNat 12 l].farId = none ∨ s.links[Fin.ofNat 12 l].farId = some (BitVec.ofNat 12 p)) ∧
    p < 4096 :=
  ⟨0, 0, 5, 0, mailed abroad, abroad, ⟨rfl, rfl⟩, rfl, by decide +kernel, Or.inl rfl, by decide +kernel⟩

theorem witness_MessagesCrossMeshDiesAndLinks_19 : ∃ (m l : Nat) (s : State) (x : Msg), Stands s m x (.link l) :=
  ⟨0, 0, mailed abroad, abroad, ⟨rfl, rfl⟩⟩

theorem witness_MessagesCrossMeshDiesAndLinks_20 : ∃ (l : Fin 12) (s : State), (∃ m ∈ s.msgs, (m.loc = .link l.val ∨ ComingIn s m l.val) ∧ 16 ≤ m.fails) :=
  ⟨0, mailed { abroad with fails := 16 }, _, List.mem_singleton.2 rfl, Or.inl rfl, by decide⟩

/-- An answer from package 3 on its last hop to this one, which is 4. -/
def comingMail : Msg := { mail aLoad (.package 3) with src := .remote 3 0, fails := 16 }

theorem witness_MessagesCrossMeshDiesAndLinks_23 : ∃ (l : Fin 12) (s : State), (∃ m ∈ s.msgs, (m.loc = .link l.val ∨ ComingIn s m l.val) ∧ 16 ≤ m.fails) ∧
    ∃ m ∈ s.msgs, ComingIn s m l.val :=
  let s : State := { mailed comingMail with bar1 := { pkgvalid := true, pkgid := 4 }, links := Vector.replicate 12 { up := true }, rings := #v[8, 8, 8] }
  have h : ComingIn s comingMail 1 := ⟨3, 0, true, 4, rfl, (by intros; intro h; cases h), rfl, by decide +kernel, by decide +kernel, by decide +kernel⟩
  ⟨1, s, ⟨comingMail, List.mem_singleton.2 rfl, Or.inr h, by decide⟩, comingMail, List.mem_singleton.2 rfl, h⟩

theorem witness_MessagesCrossMeshDiesAndLinks_21 : ∃ (l : Fin 12) (s : State), (∀ m ∈ s.msgs, m.loc = .link l.val ∨ ComingIn s m l.val → m.fails < 16) :=
  ⟨0, mailed abroad, fun m h _ => by cases List.mem_singleton.1 h; decide⟩

theorem witness_GatewaysAnswerWhatTheirReplicasMay_1 : ∃ (m g : Nat) (s : State) (x : Msg), Stands s m x (.gate g) ∧
    x.body.isRead = true ∧
    s.replica? g (x.body.key / 128) = none :=
  ⟨0, 0, mailed { mail aLoad (.gate 0) with dst := .die 2 0 }, { mail aLoad (.gate 0) with dst := .die 2 0 }, ⟨rfl, rfl⟩, by decide +kernel, by decide +kernel⟩

theorem witness_GatewaysAnswerWhatTheirReplicasMay_2 : ∃ (m g cell ty : Nat) (arg : BitVec 8) (k : TestKind) (w : Who) (core i : Nat) (first : Word) (s : State) (x : Msg) (r : Replica), AtReplica s m g x (.test cell ty arg k w) (cell / 128) r ∧
    r.snap.ty ≠ 0 ∧
    SameGen x r ∧
    s.coreOf w = some core ∧
    r.snap.test cell k = some (.passed i first) :=
  ⟨0, 0, 0x40000, 3, 0, .await 5, .ctx aKey 0, 0, 0, 0, { mailed { mail (.test 0x40000 3 0 (.await 5) (.ctx aKey 0)) (.gate 0) with dst := .die 2 0 } with replicas := [aReplica], ctxs := [runner []] }, { mail (.test 0x40000 3 0 (.await 5) (.ctx aKey 0)) (.gate 0) with dst := .die 2 0 }, aReplica, ⟨⟨rfl, rfl⟩, rfl, rfl, by decide +kernel⟩, by decide +kernel, fun _ => rfl, by decide +kernel, by decide +kernel⟩

theorem witness_GatewaysAnswerWhatTheirReplicasMay_3 : ∃ (m g cell ty : Nat) (arg : BitVec 8) (k : TestKind) (w : Who) (s : State) (x : Msg) (r : Replica), AtReplica s m g x (.test cell ty arg k w) (cell / 128) r ∧
    (∀ i first, r.snap.test cell k ≠ some (.passed i first)) :=
  ⟨0, 0, 0x40000, 3, 0, .await 6, .ctx aKey 0, { mailed { mail (.test 0x40000 3 0 (.await 6) (.ctx aKey 0)) (.gate 0) with dst := .die 2 0 } with replicas := [aReplica], ctxs := [runner []] }, { mail (.test 0x40000 3 0 (.await 6) (.ctx aKey 0)) (.gate 0) with dst := .die 2 0 }, aReplica, ⟨⟨rfl, rfl⟩, rfl, rfl, by decide +kernel⟩, (by intro i f h; rw [show LineSnap.test aReplica.snap 0x40000 (.await 6) = some .unreachable from by decide +kernel] at h; cases h)⟩

theorem witness_GatewaysAnswerWhatTheirReplicasMay_4 : ∃ (m g : Nat) (s : State) (x : Msg) (y : LineSnap), Stands s m x (.gate g) ∧
    x.body.isResponse = true ∧
    x.snap = some y ∧
    y.ty ≠ 11 ∧
    s.replica? g y.line = none ∧
    s.choices = [] ∧
    y.line < 2 ^ 44 ∧
    x.stale = false ∧
    (s.replicas.filter (fun r => r.gate == g)).length < 131072 ∧
    ((∃ w, x.body = .data w none) ∨ (∃ w r, x.body = .result w r)) :=
  ⟨0, 0, mailed (reply (.result (.ctx aKey 0) .notPassed)), reply (.result (.ctx aKey 0) .notPassed), { line := 0x800, ty := 3, data := 0, marks := 0, md := mdOf false 3 false 2 }, ⟨rfl, rfl⟩, by decide +kernel, rfl, by decide +kernel, by decide +kernel, by decide +kernel, by decide +kernel, by decide +kernel, by decide +kernel, Or.inr ⟨_, _, rfl⟩⟩

theorem witness_GatewaysAnswerWhatTheirReplicasMay_5 : ∃ (m g : Nat) (s : State) (x : Msg) (tag : Tag) (code : Option FaultCode) (y : LineSnap), Stands s m x (.gate g) ∧
    x.body = .ack tag code ∧
    x.snap = some y ∧
    y.ty ≠ 11 ∧
    s.replica? g y.line = none ∧
    s.choices = [] :=
  ⟨0, 0, mailed (reply (.ack aTag none)), reply (.ack aTag none), aTag, none, { line := 0x800, ty := 3, data := 0, marks := 0, md := mdOf false 3 false 2 }, ⟨rfl, rfl⟩, rfl, rfl, by decide +kernel, by decide +kernel, by decide +kernel⟩

theorem witness_GatewaysAnswerWhatTheirReplicasMay_6 : ∃ (m g line k : Nat) (s : State) (x : Msg), Stands s m x (.gate k) ∧
    x.body = .inval line g ∧
    line ∉ s.poisoning :=
  ⟨0, 0, 0x800, 3, mailed { mail (.inval 0x800 0) (.gate 3) with dst := .gate 0 }, { mail (.inval 0x800 0) (.gate 3) with dst := .gate 0 }, ⟨rfl, rfl⟩, rfl, by decide +kernel⟩

theorem witness_GatewaysAnswerWhatTheirReplicasMay_7 : ∃ (m g line ty : Nat) (w : Who) (core : Nat) (s : State) (x : Msg) (r : Replica), AtReplica s m g x (.exact line ty w) line r ∧
    r.snap.ty ≠ 0 ∧
    SameGen x r ∧
    s.coreOf w = some core ∧
    mdPoison r.snap.md = false ∧
    mdState r.snap.md ≠ 0 :=
  ⟨0, 0, 0x800, 3, .ctx aKey 0, 0, { mailed { mail (.exact 0x800 3 (.ctx aKey 0)) (.gate 0) with dst := .die 2 0 } with replicas := [aReplica], ctxs := [runner []] }, { mail (.exact 0x800 3 (.ctx aKey 0)) (.gate 0) with dst := .die 2 0 }, aReplica, ⟨⟨rfl, rfl⟩, rfl, rfl, by decide +kernel⟩, by decide +kernel, fun _ => rfl, by decide +kernel, by decide +kernel, by decide +kernel⟩

theorem witness_GatewaysAnswerWhatTheirReplicasMay_8 : ∃ (m g line ty : Nat) (w : Who) (core : Nat) (s : State) (x : Msg) (r : Replica), AtReplica s m g x (.exact line ty w) line r ∧
    r.snap.ty ≠ 0 ∧
    SameGen x r ∧
    s.coreOf w = some core ∧
    (mdPoison r.snap.md = true ∨ mdState r.snap.md = 0) :=
  ⟨0, 0, 0x800, 3, .ctx aKey 0, 0, { mailed { mail (.exact 0x800 3 (.ctx aKey 0)) (.gate 0) with dst := .die 2 0 } with replicas := [{ aReplica with snap := { aReplica.snap with md := mdOf false 3 false 0 } }], ctxs := [runner []] }, { mail (.exact 0x800 3 (.ctx aKey 0)) (.gate 0) with dst := .die 2 0 }, { aReplica with snap := { aReplica.snap with md := mdOf false 3 false 0 } }, ⟨⟨rfl, rfl⟩, rfl, rfl, by decide +kernel⟩, by decide +kernel, fun _ => rfl, by decide +kernel, Or.inr (by decide +kernel)⟩

theorem witness_GatewaysAnswerWhatTheirReplicasMay_9 : ∃ (m g line : Nat) (w : Who) (core : Nat) (s : State) (x : Msg) (r : Replica), AtReplica s m g x (.load line 0 w) line r ∧
    r.snap.ty = 0 ∧
    s.coreOf w = some core ∧
    r.snap.data = (s.snap line 0).data ∧
    r.snap.marks = (s.snap line 0).marks :=
  ⟨0, 0, 0x800, .ctx aKey 0, 0, { mailed { mail (.load 0x800 0 (.ctx aKey 0)) (.gate 0) with dst := .die 2 0 } with replicas := [{ aReplica with snap := { line := 0x800, ty := 0, data := 0, marks := 0, md := 0 } }], ctxs := [runner []] }, { mail (.load 0x800 0 (.ctx aKey 0)) (.gate 0) with dst := .die 2 0 }, { aReplica with snap := { line := 0x800, ty := 0, data := 0, marks := 0, md := 0 } }, ⟨⟨rfl, rfl⟩, rfl, rfl, by decide +kernel⟩, by decide +kernel⟩

theorem witness_GatewaysAnswerWhatTheirReplicasMay_10 : ∃ (m g : Nat) (s : State) (x : Msg) (y : LineSnap) (r : Replica), Stands s m x (.gate g) ∧
    x.body.isResponse = true ∧
    x.snap = some y ∧
    y.ty ≠ 11 ∧
    s.replica? g y.line = some r ∧
    x.stale = false :=
  ⟨0, 0, { mailed (reply (.data (.ctx aKey 0) none)) with replicas := [aReplica] }, reply (.data (.ctx aKey 0) none), { line := 0x800, ty := 3, data := 0, marks := 0, md := mdOf false 3 false 2 }, aReplica, ⟨rfl, rfl⟩, by decide +kernel, rfl, by decide +kernel, by decide +kernel, rfl⟩

theorem witness_GatewaysAnswerWhatTheirReplicasMay_11 : ∃ (m g pa n : Nat) (data : BitVec 1024) (marks : BitVec 128) (tag : Tag) (s : State) (x : Msg), Stands s m x (.gate g) ∧
    x.body = .store pa n data marks tag ∧
    pa % 128 + n ≤ 128 :=
  ⟨0, 1, 0x40000, 8, 5, 0, aTag, mailed (mailFar (.store 0x40000 8 5 0 aTag) (.gate 1)), mailFar (.store 0x40000 8 5 0 aTag) (.gate 1), ⟨rfl, rfl⟩, rfl, by decide +kernel⟩

theorem witness_GatewaysAnswerWhatTheirReplicasMay_12 : ∃ (m g : Nat) (s : State) (x : Msg), Stands s m x (.gate g) ∧
    x.body.isResponse = true ∧
    x.stale = true :=
  ⟨0, 0, mailed { reply (.ack aTag none) with stale := true }, { reply (.ack aTag none) with stale := true }, ⟨rfl, rfl⟩, by decide +kernel, rfl⟩

theorem witness_GatewaysAnswerWhatTheirReplicasMay_13 : ∃ (m g line k : Nat) (s : State) (x : Msg), Stands s m x (.gate k) ∧
    x.body = .inval line g ∧
    line ∈ s.poisoning ∧
    Sys2Proof.Safety.memoryOk s ∧
    (∀ r ∈ s.replicas, r.snap.line = line → r.gate = g) ∧
    (∀ y ∈ s.msgs, y.id ≠ m → ∀ h, y.body ≠ .inval line h) :=
  ⟨0, 0, 0x800, 3, { mailed { mail (.inval 0x800 0) (.gate 3) with dst := .gate 0 } with poisoning := [0x800] }, { mail (.inval 0x800 0) (.gate 3) with dst := .gate 0 }, ⟨rfl, rfl⟩, rfl, by decide +kernel, ⟨by decide +kernel, by decide +kernel, by decide +kernel, by decide +kernel⟩, by decide +kernel, (by intro y h n; cases List.mem_singleton.1 h; exact absurd rfl n)⟩

theorem witness_GatewaysAnswerWhatTheirReplicasMay_15 : ∃ (m g line : Nat) (w : Who) (core : Nat) (s : State) (x : Msg) (r : Replica), AtReplica s m g x (.load line 0 w) line r ∧
    r.snap.ty = 0 ∧
    s.coreOf w = some core ∧
    r.snap.data ≠ (s.snap line 0).data :=
  ⟨0, 0, 0x800, .ctx aKey 0, 0, { mailed { mail (.load 0x800 0 (.ctx aKey 0)) (.gate 0) with dst := .die 2 0 } with replicas := [{ aReplica with snap := { line := 0x800, ty := 0, data := 5, marks := 0, md := 0 } }], ctxs := [runner []] }, { mail (.load 0x800 0 (.ctx aKey 0)) (.gate 0) with dst := .die 2 0 }, { aReplica with snap := { line := 0x800, ty := 0, data := 5, marks := 0, md := 0 } }, ⟨⟨rfl, rfl⟩, rfl, rfl, by decide +kernel⟩, by decide +kernel, by decide +kernel, by decide +kernel⟩

theorem witness_GatewaysAnswerWhatTheirReplicasMay_14 : ∃ (m g : Nat) (s : State) (x : Msg) (r : Replica), Stands s m x (.gate g) ∧
    x.body.isRead = true ∧
    s.replica? g (x.body.key / 128) = some r ∧
    s.choices = [] ∧
    r.snap.ty ≠ 0 ∧
    mdState r.snap.md = 2 ∧
    r.gen ≠ x.gen :=
  ⟨0, 0, { mailed { mail (.test 0x40000 3 0 (.await 5) (.ctx aKey 0)) (.gate 0) with dst := .die 2 0, gen := 1 } with replicas := [aReplica], ctxs := [runner []] }, { mail (.test 0x40000 3 0 (.await 5) (.ctx aKey 0)) (.gate 0) with dst := .die 2 0, gen := 1 }, aReplica, ⟨rfl, rfl⟩, by decide +kernel, rfl, by decide +kernel⟩

theorem witness_CopiesRunInUnits_1 : ∃ (k : Key) (seq : Nat) (s : State) (c : Context) (m : Cmd), HasCmd s k seq c m ∧
    FirstReady s c m CmdKind.isCopy ∧
    (s.coreCmds c.core (fun _ y => y.holdsStream)).length < 4 :=
  ⟨aKey, 1, holding [commanding (aCopy 0x7FFFFFE01000) .accepted], commanding (aCopy 0x7FFFFFE01000) .accepted, aCmd 1 (aCopy 0x7FFFFFE01000) .accepted, ⟨rfl, rfl⟩, ⟨by decide +kernel, by decide +kernel, by decide +kernel⟩, by decide +kernel⟩

theorem witness_CopiesRunInUnits_2 : ∃ (k : Key) (seq u v marks o : Nat) (s s1 s2 : State) (c : Context) (m : Cmd) (g : CopyCfg) (x : CopyUnit), Issuing s k seq u c m g x ∧
    UnitReady s s1 s2 c g x v marks (.slice o) ∧
    s2.ctx? k = some c ∧
    c.inH = false ∧
    s2.scratch.wf = true :=
  ⟨aKey, 1, 0, 0, 0, 0x1000, holding [commanding (aCopy 0x7FFFFFE01000) .started], _, _, commanding (aCopy 0x7FFFFFE01000) .started, aCmd 1 (aCopy 0x7FFFFFE01000) .started, copyCfg 0x1000080 0, aUnit 0x7FFFFFE01000, ⟨⟨rfl, rfl⟩, rfl, (by intros; intro h; cases h), rfl, rfl, rfl, rfl, rfl, by decide +kernel, by decide +kernel⟩, ⟨ranAs (by decide +kernel), ranOkAs (by decide +kernel)⟩, by decide +kernel, by decide +kernel, by decide +kernel⟩

theorem witness_CopiesRunInUnits_3 : ∃ (k : Key) (seq u v marks : Nat) (l : Leaf) (s s1 s2 : State) (c : Context) (m : Cmd) (g : CopyCfg) (x : CopyUnit) (es : List (Nat × Int × Bool)), Issuing s k seq u c m g x ∧
    UnitReady s s1 s2 c g x v marks (.page l) ∧
    s2.ctx? k = some c ∧
    l.jblock = false ∧
    UnitElements g x l v marks es :=
  ⟨aKey, 1, 0, 0, 0, leafAt 0x40000 0, paged (commanding (aCopy 0x20000) .started) 0, _, _, commanding (aCopy 0x20000) .started, aCmd 1 (aCopy 0x20000) .started, copyCfg 0x1000080 0, aUnit 0x20000, [], ⟨⟨rfl, rfl⟩, rfl, (by intros; intro h; cases h), rfl, rfl, rfl, rfl, rfl, ⟨aUnit 0x20000, by decide +kernel, rfl⟩, by decide +kernel, by decide +kernel⟩, ⟨ranAs (by decide +kernel), ranOkAs (by decide +kernel)⟩, by decide +kernel, by decide +kernel, (fun h => absurd h (by decide))⟩

theorem witness_CopiesRunInUnits_4 : ∃ (k : Key) (seq u v marks : Nat) (l : Leaf) (s s1 s2 : State) (c : Context) (m : Cmd) (g : CopyCfg) (x : CopyUnit) (es : List (Nat × Int × Bool)), IssuingBehind s k seq u c m g x ∧
    UnitReady s s1 s2 c g x v marks (.page l) ∧
    s2.ctx? k = some c ∧
    l.jblock = false ∧
    UnitElements g x l v marks es :=
  ⟨aKey, 1, 1, 0, 0, leafAt 0x40000 0, paged { runner [] with cmds := [outstanding (.ccopy 0x2000080 0x80 0x7FFFFFE00000 0x20000 false) 1] } 0, _, _, { runner [] with cmds := [outstanding (.ccopy 0x2000080 0x80 0x7FFFFFE00000 0x20000 false) 1] }, outstanding (.ccopy 0x2000080 0x80 0x7FFFFFE00000 0x20000 false) 1, copyCfg 0x2000080 0x80, { row := 1, src := 0x7FFFFFE00000, dst := 0x20080, n := 128, dn := 128 }, [], ⟨⟨rfl, rfl⟩, rfl, (by intros; intro h; cases h), rfl, rfl, ⟨_, _, rfl, by decide⟩, (by decide), rfl, rfl, ⟨{ row := 1, src := 0x7FFFFFE00000, dst := 0x20080, n := 128, dn := 128 }, by decide +kernel, rfl⟩, by decide +kernel, by decide +kernel, (by intro y h _ z e; cases List.mem_singleton.mp h; have e0 : some (aUnit 0x20000) = some z := (by rw [← e]; decide +kernel); cases e0; decide)⟩, ⟨ranAs (by decide +kernel), ranOkAs (by decide +kernel)⟩, by decide +kernel, by decide +kernel, (fun h => absurd h (by decide))⟩

theorem witness_CopiesRunInUnits_5 : ∃ (k : Key) (seq u v marks pa : Nat) (s s1 s2 : State) (c : Context) (m : Cmd) (g : CopyCfg) (x : CopyUnit), Issuing s k seq u c m g x ∧
    UnitReady s s1 s2 c g x v marks (.stack pa) ∧
    s2.ctx? k = some c ∧
    s2.mem.wf = true ∧
    s2.lostCode pa (dieOf c.core) = none :=
  ⟨aKey, 1, 0, 0, 0, 0x70000, with1 { commanding (aCopy 0x7FFFFE000000) .started with stackBase := 0x70000, stackSize := 0x2000 }, _, _, { commanding (aCopy 0x7FFFFE000000) .started with stackBase := 0x70000, stackSize := 0x2000 }, aCmd 1 (aCopy 0x7FFFFE000000) .started, copyCfg 0x1000080 0, aUnit 0x7FFFFE000000, ⟨⟨rfl, rfl⟩, rfl, (by intros; intro h; cases h), rfl, rfl, rfl, rfl, rfl, ⟨aUnit 0x7FFFFE000000, by decide +kernel, rfl⟩, by decide +kernel, by decide +kernel⟩, ⟨ranAs (by decide +kernel), ranOkAs (by decide +kernel)⟩, by decide +kernel, by decide +kernel, by decide +kernel⟩

theorem witness_CopiesRunInUnits_6 : ∃ (k : Key) (seq u v marks core off : Nat) (s s1 s2 w : State) (c c1 : Context) (m : Cmd) (g : CopyCfg) (x : CopyUnit), Issuing s k seq u c m g x ∧
    UnitReady s s1 s2 c g x v marks (.chip core off) ∧
    s2.chipWrite core off x.n v marks (BitVec.ofNat 64 x.dst) = .ok w ∧
    w.ctx? k = some c1 ∧
    c1.cmd? seq = some m :=
  ⟨aKey, 1, 0, 0, 0, 1, 0x1000, with1 (sysCommanding (aCopy 0x800001001000)), _, _, _, sysCommanding (aCopy 0x800001001000), _, aCmd 1 (aCopy 0x800001001000) .started, copyCfg 0x1000080 0, aUnit 0x800001001000, ⟨⟨rfl, rfl⟩, rfl, (by intros; intro h; cases h), rfl, rfl, rfl, rfl, rfl, ⟨aUnit 0x800001001000, by decide +kernel, rfl⟩, by decide +kernel, by decide +kernel⟩, ⟨ranAs (by decide +kernel), ranOkAs (by decide +kernel)⟩, wasOk (by decide +kernel), got (by decide +kernel), by decide +kernel⟩

theorem witness_CopiesRunInUnits_7 : ∃ (k : Key) (seq u v marks off : Nat) (s s1 s2 w : State) (c c1 : Context) (m : Cmd) (g : CopyCfg) (x : CopyUnit), Issuing s k seq u c m g x ∧
    UnitReady s s1 s2 c g x v marks (.device off) ∧
    s2.deviceWrite off x.n v (BitVec.ofNat 64 x.dst) = .ok w ∧
    w.ctx? k = some c1 ∧
    c1.cmd? seq = some m :=
  ⟨aKey, 1, 0, 0, 0, 0, with1 (sysCommanding (.ccopy 0x1000008 0 0x7FFFFFE00000 0x800300000000 false)), _, _, _, sysCommanding (.ccopy 0x1000008 0 0x7FFFFFE00000 0x800300000000 false), _, aCmd 1 (.ccopy 0x1000008 0 0x7FFFFFE00000 0x800300000000 false) .started, copyCfg 0x1000008 0, { row := 0, src := 0x7FFFFFE00000, dst := 0x800300000000, n := 8, dn := 8 }, ⟨⟨rfl, rfl⟩, rfl, (by intros; intro h; cases h), rfl, rfl, rfl, rfl, rfl, ⟨{ row := 0, src := 0x7FFFFFE00000, dst := 0x800300000000, n := 8, dn := 8 }, by decide +kernel, rfl⟩, by decide +kernel, by decide +kernel⟩, ⟨ranAs (by decide +kernel), ranOkAs (by decide +kernel)⟩, wasOk (by decide +kernel), got (by decide +kernel), by decide +kernel⟩

theorem witness_CopiesRunInUnits_8 : ∃ (m u seq : Nat) (k : Key) (va : Word) (code : Option FaultCode) (s : State) (x : Msg) (c : Context) (y : Cmd) (z : IssuedUnit), s.msg? m = some x ∧
    x.loc = .arrived ∧
    (∀ w ∈ s.msgs, w.id ∉ x.behind) ∧
    x.body = .ack { who := .copy k seq u, va := va } code ∧
    HasCmd s k seq c y ∧
    y.units = [z] ∧
    z.u = u ∧
    z.fault = none :=
  ⟨0, 0, 1, aKey, 0x20000, none, { with1 { runner [] with cmds := [outstanding (aCopy 0x20000) 1] } with msgs := [{ id := 0, src := .die 0 0, dst := .core 0, body := .ack { who := .copy aKey 1 0, va := 0x20000 } none, loc := .arrived }] }, { id := 0, src := .die 0 0, dst := .core 0, body := .ack { who := .copy aKey 1 0, va := 0x20000 } none, loc := .arrived }, { runner [] with cmds := [outstanding (aCopy 0x20000) 1] }, outstanding (aCopy 0x20000) 1, _, rfl, rfl, (by intro w h; cases List.mem_singleton.mp h; decide), rfl, ⟨rfl, rfl⟩, rfl, rfl, rfl⟩

theorem witness_CopiesRunInUnits_9 : ∃ (k : Key) (seq u : Nat) (s : State) (c : Context) (m : Cmd) (g : CopyCfg) (z : IssuedUnit), HasCmd s k seq c m ∧
    m.kind.isCopy = true ∧
    m.kind.cfg = some g ∧
    (m.state = .started ∨ m.state = .stalled) ∧
    c.slot.isSome = true ∧
    m.units = [z] ∧
    z.left = 0 ∧
    m.bytes + z.n ≤ g.rows * g.len ∧
    u ≠ m.counted + 1 :=
  ⟨aKey, 1, 0, with1 { runner [] with cmds := [outstanding (aCopy 0x20000) 0] }, { runner [] with cmds := [outstanding (aCopy 0x20000) 0] }, outstanding (aCopy 0x20000) 0, copyCfg 0x1000080 0, _, ⟨rfl, rfl⟩, rfl, rfl, Or.inl rfl, rfl, rfl, rfl, by decide +kernel, by decide +kernel⟩

theorem witness_CopiesRunInUnits_10 : ∃ (k : Key) (seq u : Nat) (f : FaultInfo) (s s1 : State) (c : Context) (m : Cmd) (g : CopyCfg) (x : CopyUnit), Issuing s k seq u c m g x ∧
    s1.ctx? k = some c ∧
    m.bytes < g.rows * g.len ∧
    (Gives (readUnit c x.src x.n) s (.fault f) s1 ∨ ∃ s0 v marks, Gives (readUnit c x.src x.n) s (.ok v marks) s0 ∧ Gives (copyPlace c .write (decide (g.mode ≠ 0)) (g.refuse c.sys) x.dn x.dst) s0 (.error f) s1) :=
  ⟨aKey, 1, 0, _, holding [commanding (aCopy 0x20000) .started], _, commanding (aCopy 0x20000) .started, aCmd 1 (aCopy 0x20000) .started, copyCfg 0x1000080 0, aUnit 0x20000, ⟨⟨rfl, rfl⟩, rfl, (by intros; intro h; cases h), rfl, rfl, rfl, rfl, rfl, ⟨aUnit 0x20000, by decide +kernel, rfl⟩, by decide +kernel, by decide +kernel⟩, by decide +kernel, by decide +kernel, Or.inr ⟨_, 0, 0, ranAs (by decide +kernel), ranErr (by decide +kernel)⟩⟩

theorem witness_CopiesRunInUnits_11 : ∃ (k : Key) (seq u : Nat) (f : FaultInfo) (s : State) (c : Context) (m : Cmd) (g : CopyCfg) (x : CopyUnit) (y : CopyUnit), HasCmd s k seq c m ∧
    m.kind.isCopy = true ∧
    m.state = .started ∧
    c.engaged = true ∧
    m.units = [] ∧
    u = m.counted ∧
    m.kind.cfg = some g ∧
    s.copyUnit c m.kind u = some y ∧
    x = m.fixRow y ∧
    s.markedRow c m x = some f ∧
    m.bytes < g.rows * g.len :=
  ⟨aKey, 1, 0, _, { with1 (commanding (.cgather 0x1000080 0 0x20000 0x7FFFFFE01000 0x7FFFFFE00000) .started) with scratch := { cells := [], marks := [(0, 1)] } }, commanding (.cgather 0x1000080 0 0x20000 0x7FFFFFE01000 0x7FFFFFE00000) .started, aCmd 1 (.cgather 0x1000080 0 0x20000 0x7FFFFFE01000 0x7FFFFFE00000) .started, copyCfg 0x1000080 0, { row := 0, src := 0x20000, dst := 0x7FFFFFE01000, n := 128, dn := 128 }, { row := 0, src := 0x20000, dst := 0x7FFFFFE01000, n := 128, dn := 128 }, ⟨rfl, rfl⟩, rfl, rfl, rfl, rfl, rfl, rfl, by decide +kernel, rfl, got (by decide +kernel), by decide +kernel⟩

theorem witness_CopiesRunInUnits_12 : ∃ (k : Key) (seq u : Nat) (a b : Leaf) (s s1 s2 : State) (c : Context) (m : Cmd) (g : CopyCfg) (x : CopyUnit) (p q : Word) (src dst : BitVec 48), HasCmd s k seq c m ∧
    m.kind = .ccopy p q src dst true ∧
    m.state = .started ∧
    c.engaged = true ∧
    m.units = [] ∧
    m.row = none ∧
    u = m.counted ∧
    m.kind.cfg = some g ∧
    s.copyUnit c m.kind u = some x ∧
    x.n = 128 ∧
    Gives (copyPlace c .read false (refuseSource c.sys) x.n x.src) s (.ok (.page a)) s1 ∧
    Gives (copyPlace c .write false (fun _ => none) x.n x.dst) s1 (.ok (.page b)) s2 ∧
    migrates c g a b = true ∧
    (∀ o ∈ c.outs, o.store = false) ∧
    a.line x.src ∉ s2.poisoning ∧
    b.line x.dst ∉ s2.poisoning ∧
    s2.homeCode a x.src (dieOf c.core) = none ∧
    s2.homeCode b x.dst (dieOf c.core) = none ∧
    a.cnt = false ∧
    b.cnt = false ∧
    a.line x.src ≠ b.line x.dst ∧
    s2.ctx? k = some c ∧
    Sys2Proof.Safety.memoryOk s2 :=
  ⟨aKey, 1, 0, blocked 0x40000, blocked 0x50000, { with1 (sysCommanding (.ccopy 0x1000080 0 0x20000 0x21000 true)) with tlb := [{ level := 0, unit := 0, asid := 1, page := 0x20000, leaf := blocked 0x40000 }, { level := 0, unit := 0, asid := 1, page := 0x21000, leaf := blocked 0x50000 }] }, _, _, (sysCommanding (.ccopy 0x1000080 0 0x20000 0x21000 true)), aCmd 1 (.ccopy 0x1000080 0 0x20000 0x21000 true) .started, copyCfg 0x1000080 0, { row := 0, src := 0x20000, dst := 0x21000, n := 128, dn := 128 }, 0x1000080, 0, 0x20000, 0x21000, ⟨rfl, rfl⟩, rfl, rfl, rfl, rfl, rfl, rfl, rfl, by decide +kernel, rfl, ranOkAs (by decide +kernel), ranOkAs (by decide +kernel), by decide +kernel, (by intro o h; cases h), by decide +kernel, by decide +kernel, by decide +kernel, by decide +kernel, rfl, rfl, by decide +kernel, by decide +kernel, ⟨by decide +kernel, by decide +kernel, by decide +kernel, by decide +kernel⟩⟩

theorem witness_MatrixCommandsRun_1 : ∃ (k : Key) (seq : Nat) (s : State) (c : Context) (m : Cmd), HasCmd s k seq c m ∧
    FirstReady s c m CmdKind.isMatrix ∧
    s.coreCmds c.core (fun _ y => y.kind.isMatrix && y.state == .started) = [] :=
  ⟨aKey, 1, holding [commanding (.mzero 0) .accepted], commanding (.mzero 0) .accepted, aCmd 1 (.mzero 0) .accepted, ⟨rfl, rfl⟩, ⟨by decide +kernel, by decide +kernel, by decide +kernel⟩, by decide +kernel⟩

theorem witness_MatrixCommandsRun_2 : ∃ (k : Key) (seq : Nat) (s : State) (c : Context) (m : Cmd), HasCmd s k seq c m ∧
    m.kind.isMatrix = true ∧
    m.state = .started :=
  ⟨aKey, 1, holding [commanding (.mzero 0) .started], commanding (.mzero 0) .started, aCmd 1 (.mzero 0) .started, ⟨rfl, rfl⟩, by decide +kernel, by decide +kernel⟩

theorem witness_MatrixCommandsRun_3 : ∃ (k : Key) (seq tile : Nat) (s : State) (c : Context) (m : Cmd), HasCmd s k seq c m ∧
    m.kind = .mzero tile ∧
    m.state = .started ∧
    s.acc.wf = true :=
  ⟨aKey, 1, 0, holding [commanding (.mzero 0) .started], commanding (.mzero 0) .started, aCmd 1 (.mzero 0) .started, ⟨rfl, rfl⟩, rfl, by decide +kernel, by decide +kernel⟩

theorem witness_MatrixCommandsRun_4 : ∃ (k : Key) (seq : Nat) (s : State) (c : Context) (m : Cmd) (view : BitVec 256) (a b : Word), HasCmd s k seq c m ∧
    m.kind = .mma view a b ∧
    m.state = .started ∧
    m.groups = 0 ∧
    s.acc.wf = true ∧
    isIntFmt (wbits b 4 5) = true ∧
    isIntFmt (wbits b 9 5) = true :=
  ⟨aKey, 1, holding [commanding (.mma aView 0x100000000 0x1EF0) .started], commanding (.mma aView 0x100000000 0x1EF0) .started, aCmd 1 (.mma aView 0x100000000 0x1EF0) .started, aView, 0x100000000, 0x1EF0, ⟨rfl, rfl⟩, rfl, by decide +kernel, by decide +kernel, by decide +kernel, by decide +kernel, by decide +kernel⟩

theorem witness_MatrixCommandsRun_5 : ∃ (k : Key) (seq : Nat) (s : State) (c : Context) (m : Cmd) (view : BitVec 256) (a b : Word), RunsMatrix s k seq c m ∧
    m.kind = .mma view a b :=
  ⟨aKey, 1, holding [commanding (.mma aView 0x100000000 0x1EF0) .started], commanding (.mma aView 0x100000000 0x1EF0) .started, aCmd 1 (.mma aView 0x100000000 0x1EF0) .started, aView, 0x100000000, 0x1EF0, ⟨⟨rfl, rfl⟩, rfl, by decide +kernel⟩, rfl⟩

theorem witness_MatrixCommandsRun_6 : ∃ (k : Key) (seq : Nat) (s : State) (c : Context) (m : Cmd) (a b : Word), RunsMatrix s k seq c m ∧
    m.kind = .mscaleacc a b :=
  ⟨aKey, 1, holding [commanding (.mscaleacc 0 0) .started], commanding (.mscaleacc 0 0) .started, aCmd 1 (.mscaleacc 0 0) .started, 0, 0, ⟨⟨rfl, rfl⟩, rfl, by decide +kernel⟩, rfl⟩

theorem witness_MatrixCommandsRun_7 : ∃ (k : Key) (seq : Nat) (s : State) (c : Context) (m : Cmd) (a b : Word), RunsMatrix s k seq c m ∧
    m.kind = .mload a b :=
  ⟨aKey, 1, holding [commanding (.mload 0 0) .started], commanding (.mload 0 0) .started, aCmd 1 (.mload 0 0) .started, 0, 0, ⟨⟨rfl, rfl⟩, rfl, by decide +kernel⟩, rfl⟩

theorem witness_MatrixCommandsRun_8 : ∃ (k : Key) (seq : Nat) (s : State) (c : Context) (m : Cmd) (a b icount seed : Word), RunsMatrix s k seq c m ∧
    m.kind = .mstore a b icount seed ∧
    s.scratch.wf = true ∧
    c.area.wf = true :=
  ⟨aKey, 1, holding [commanding (.mstore 0 0 0 0) .started], commanding (.mstore 0 0 0 0) .started, aCmd 1 (.mstore 0 0 0 0) .started, 0, 0, 0, 0, ⟨⟨rfl, rfl⟩, rfl, by decide +kernel⟩, rfl, by decide +kernel, by decide +kernel⟩

theorem witness_LampBanksStepAndSpark_1 : ∃ (k : Key) (seq : Nat) (s : State) (c : Context) (m : Cmd) (a b : Word), HasCmd s k seq c m ∧
    m.kind = .lspark a b ∧
    c.readyCmd m = true :=
  ⟨aKey, 1, holding [commanding (.lspark 0 0) .accepted], commanding (.lspark 0 0) .accepted, aCmd 1 (.lspark 0 0) .accepted, 0, 0, ⟨rfl, rfl⟩, rfl, by decide +kernel⟩

theorem witness_LampBanksStepAndSpark_2 : ∃ (k : Key) (seq off tile : Nat) (s : State) (c : Context) (m : Cmd) (a b : Word) (g0 g : LampCfg), HasCmd s k seq c m ∧
    m.kind = .lrun a b ∧
    tile = wbits a 0 4 ∧
    c.engaged = true ∧
    (c.readyCmd m = true ∨ m.state = .started) ∧
    m.lamp = .integrate ∧
    c.bankIn tile m.bank = some (off, g0) ∧
    g = { g0 with step := g0.step + m.steps, fired := m.fired } ∧
    Sys2Proof.Safety.memoryOk s :=
  ⟨aKey, 1, 0, 0, holding [{ commanding (.lrun 0x100000000 0) .started with lampCfg := #v[some 0, none, none, none, none, none, none, none, none, none, none, none, none, none, none, none] }], { commanding (.lrun 0x100000000 0) .started with lampCfg := #v[some 0, none, none, none, none, none, none, none, none, none, none, none, none, none, none, none] }, aCmd 1 (.lrun 0x100000000 0) .started, 0x100000000, 0, lampCfgOf 0, _, ⟨rfl, rfl⟩, rfl, rfl, by decide +kernel, Or.inr rfl, rfl, by decide +kernel, rfl, ⟨by decide +kernel, by decide +kernel, by decide +kernel, by decide +kernel⟩⟩

theorem witness_LampBanksStepAndSpark_3 : ∃ (i o : Nat) (s : State) (x : Spark) (e c : Context) (m : Cmd), s.sparksUnderWay[i]? = some x ∧
    HasCmd s x.emitter x.seq e m ∧
    (∀ a b, m.kind ≠ .lspark a b) ∧
    s.lampOwner e x.target = some c ∧
    c.lampCfg[lampTile x.target % 16]'(Nat.mod_lt _ (by decide)) = some o :=
  ⟨0, 0, { holding [{ commanding (.lrun 0x100000000 0) .started with lampCfg := #v[some 0, none, none, none, none, none, none, none, none, none, none, none, none, none, none, none] }] with cores := [{ num := 0, sparks := [aSpark 0] }] }, aSpark 0, { commanding (.lrun 0x100000000 0) .started with lampCfg := #v[some 0, none, none, none, none, none, none, none, none, none, none, none, none, none, none, none] }, { commanding (.lrun 0x100000000 0) .started with lampCfg := #v[some 0, none, none, none, none, none, none, none, none, none, none, none, none, none, none, none] }, aCmd 1 (.lrun 0x100000000 0) .started, rfl, ⟨rfl, rfl⟩, (by intros; intro h; cases h), rfl, by decide +kernel⟩

theorem witness_LampBanksStepAndSpark_4 : ∃ (i : Nat) (s : State) (x : Spark) (e : Context) (m : Cmd), s.sparksUnderWay[i]? = some x ∧
    HasCmd s x.emitter x.seq e m ∧
    (∀ a b, m.kind ≠ .lspark a b) ∧
    s.lampOwner e x.target = none :=
  ⟨0, { holding [{ commanding (.lrun 0x100000000 0) .started with lampCfg := #v[some 0, none, none, none, none, none, none, none, none, none, none, none, none, none, none, none] }] with cores := [{ num := 0, sparks := [aSpark 0x3FFFFFF] }] }, aSpark 0x3FFFFFF, { commanding (.lrun 0x100000000 0) .started with lampCfg := #v[some 0, none, none, none, none, none, none, none, none, none, none, none, none, none, none, none] }, aCmd 1 (.lrun 0x100000000 0) .started, rfl, ⟨rfl, rfl⟩, (by intros; intro h; cases h), rfl⟩

theorem witness_LampBanksStepAndSpark_5 : ∃ (i : Nat) (s : State) (x : Spark) (e : Context) (m : Cmd) (a b : Word), s.sparksUnderWay[i]? = some x ∧
    HasCmd s x.emitter x.seq e m ∧
    m.kind = .lspark a b ∧
    m.sparkFaults = [] :=
  ⟨0, { holding [commanding (.lspark 0 0) .started] with cores := [{ num := 0, sparks := [aSpark 0] }] }, aSpark 0, commanding (.lspark 0 0) .started, aCmd 1 (.lspark 0 0) .started, 0, 0, rfl, ⟨rfl, rfl⟩, rfl, rfl⟩

theorem witness_LampBanksStepAndSpark_6 : ∃ (k : Key) (seq off : Nat) (l : Leaf) (s s1 : State) (c : Context) (m : Cmd) (a b : Word) (g : LampCfg), RunAt s k seq c m a b off g .settle ∧
    m.unsettled = 0 ∧
    Gives (barrierPage c .write g.barrier) s (.ok l) s1 ∧
    l.jblock = false ∧
    l.cnt = false ∧
    l.key g.barrier % 8 = 0 ∧
    s1.ctx? k = some c ∧
    Sys2Proof.Safety.memoryOk s1 ∧
    (let key := l.key g.barrier
   (let md := s1.md.read (key / 128)
   mdState md ≠ 2 ∧
    (mdWidth md = 0 ∨ mdWidth md = 3))) :=
  ⟨aKey, 1, 0, leafAt 0x40000 9, lampHouse .settle 0 0 0, _, lamplighter .settle 0, aRun .settle 0, 0x100000000, 0, theLamp, ⟨⟨rfl, rfl⟩, rfl, rfl, rfl, rfl, theLamp, by decide +kernel, by decide +kernel⟩, rfl, ranOkAs (by decide +kernel), rfl, rfl, by decide +kernel, by decide +kernel, ⟨by decide +kernel, by decide +kernel, by decide +kernel, by decide +kernel⟩, by decide +kernel, Or.inl (by decide +kernel)⟩

theorem witness_LampBanksStepAndSpark_7 : ∃ (k : Key) (seq off : Nat) (l : Leaf) (s s1 : State) (c : Context) (m : Cmd) (a b : Word) (g : LampCfg), RunAt s k seq c m a b off g .settle ∧
    m.unsettled = 0 ∧
    Gives (barrierPage c .write g.barrier) s (.ok l) s1 ∧
    l.jblock = false ∧
    l.cnt = false ∧
    l.key g.barrier % 8 = 0 ∧
    s1.ctx? k = some c ∧
    Sys2Proof.Safety.memoryOk s1 ∧
    (let key := l.key g.barrier
   (let md := s1.md.read (key / 128)
   mdState md = 2)) :=
  ⟨aKey, 1, 0, leafAt 0x40000 9, lampHouse .settle 0 (mdOf false 3 false 2) 0, _, lamplighter .settle 0, aRun .settle 0, 0x100000000, 0, theLamp, ⟨⟨rfl, rfl⟩, rfl, rfl, rfl, rfl, theLamp, by decide +kernel, by decide +kernel⟩, rfl, ranOkAs (by decide +kernel), rfl, rfl, by decide +kernel, by decide +kernel, ⟨by decide +kernel, by decide +kernel, by decide +kernel, by decide +kernel⟩, by decide +kernel⟩

theorem witness_LampBanksStepAndSpark_8 : ∃ (k : Key) (seq off : Nat) (l : Leaf) (s s1 : State) (c : Context) (m : Cmd) (a b : Word) (g : LampCfg), RunAt s k seq c m a b off g .settle ∧
    m.unsettled = 0 ∧
    Gives (barrierPage c .write g.barrier) s (.ok l) s1 ∧
    l.jblock = false ∧
    l.cnt = false ∧
    l.key g.barrier % 8 = 0 ∧
    s1.ctx? k = some c ∧
    Sys2Proof.Safety.memoryOk s1 ∧
    (let key := l.key g.barrier
   (let md := s1.md.read (key / 128)
   mdState md ≠ 2 ∧
    mdWidth md ≠ 0 ∧
    mdWidth md ≠ 3)) :=
  ⟨aKey, 1, 0, leafAt 0x40000 9, lampHouse .settle 0 (mdOf false 2 false 0) 0, _, lamplighter .settle 0, aRun .settle 0, 0x100000000, 0, theLamp, ⟨⟨rfl, rfl⟩, rfl, rfl, rfl, rfl, theLamp, by decide +kernel, by decide +kernel⟩, rfl, ranOkAs (by decide +kernel), rfl, rfl, by decide +kernel, by decide +kernel, ⟨by decide +kernel, by decide +kernel, by decide +kernel, by decide +kernel⟩, by decide +kernel, by decide +kernel, by decide +kernel⟩

theorem witness_LampBanksStepAndSpark_9 : ∃ (k : Key) (seq : Nat) (s : State) (c : Context) (m : Cmd) (a b : Word) (off : Nat) (g : LampCfg), RunAt s k seq c m a b off g .settle ∧
    m.unsettled ≠ 0 :=
  ⟨aKey, 1, lampHouse .settle 1 0 0, lamplighter .settle 1, aRun .settle 1, 0x100000000, 0, 0, theLamp, ⟨⟨rfl, rfl⟩, rfl, rfl, rfl, rfl, theLamp, by decide +kernel, by decide +kernel⟩, by decide⟩

theorem witness_LampBanksStepAndSpark_10 : ∀ ph ∈ ([.waiting, .asked] : List LampPhase), ∃ (k : Key) (seq off : Nat) (l : Leaf) (s s1 : State) (c : Context) (m : Cmd) (a b : Word) (g : LampCfg), RunAt s k seq c m a b off g ph ∧
    c.engaged = true ∧
    Gives (barrierPage c .read g.barrier) s (.ok l) s1 ∧
    s1.ctx? k = some c ∧
    s1.scratch.wf = true ∧
    c.area.wf = true ∧
    testAt l g.barrier (.await (BitVec.ofInt 64 ((g.p : Int) * ((g.step : Int) + 1 - g.first)))) s1 = none := by
  intro ph hp
  simp only [List.mem_cons, List.not_mem_nil, or_false] at hp
  rcases hp with rfl | rfl
  · exact ⟨aKey, 1, 0, leafAt 0x40000 9, lampHouse .waiting 0 0 0, _, lamplighter .waiting 0, aRun .waiting 0, 0x100000000, 0, theLamp, ⟨⟨rfl, rfl⟩, rfl, rfl, rfl, rfl, theLamp, by decide +kernel, by decide +kernel⟩, rfl, ranOkAs (by decide +kernel), by decide +kernel, by decide +kernel, by decide +kernel, by decide +kernel⟩
  · exact ⟨aKey, 1, 0, leafAt 0x40000 9, lampHouse .asked 0 0 0, _, lamplighter .asked 0, aRun .asked 0, 0x100000000, 0, theLamp, ⟨⟨rfl, rfl⟩, rfl, rfl, rfl, rfl, theLamp, by decide +kernel, by decide +kernel⟩, rfl, ranOkAs (by decide +kernel), by decide +kernel, by decide +kernel, by decide +kernel, by decide +kernel⟩

theorem witness_LampBanksStepAndSpark_11 : ∀ ph ∈ ([.waiting, .asked] : List LampPhase), ∃ (k : Key) (seq off : Nat) (l : Leaf) (s s1 : State) (c : Context) (m : Cmd) (a b : Word) (g : LampCfg), RunAt s k seq c m a b off g ph ∧
    c.engaged = true ∧
    Gives (barrierPage c .read g.barrier) s (.ok l) s1 ∧
    s1.ctx? k = some c ∧
    s1.scratch.wf = true ∧
    c.area.wf = true ∧
    ∃ x, testAt l g.barrier (.await (BitVec.ofInt 64 ((g.p : Int) * ((g.step : Int) + 1 - g.first)))) s1 = some x ∧ x.code = none := by
  intro ph hp
  simp only [List.mem_cons, List.not_mem_nil, or_false] at hp
  rcases hp with rfl | rfl
  · exact ⟨aKey, 1, 0, leafAt 0x40000 9, lampHouse .waiting 0 (mdOf false 3 false 0) 1, _, lamplighter .waiting 0, aRun .waiting 0, 0x100000000, 0, theLamp, ⟨⟨rfl, rfl⟩, rfl, rfl, rfl, rfl, theLamp, by decide +kernel, by decide +kernel⟩, rfl, ranOkAs (by decide +kernel), by decide +kernel, by decide +kernel, by decide +kernel, .passed 0 0, by decide +kernel, rfl⟩
  · exact ⟨aKey, 1, 0, leafAt 0x40000 9, lampHouse .asked 0 (mdOf false 3 false 0) 1, _, lamplighter .asked 0, aRun .asked 0, 0x100000000, 0, theLamp, ⟨⟨rfl, rfl⟩, rfl, rfl, rfl, rfl, theLamp, by decide +kernel, by decide +kernel⟩, rfl, ranOkAs (by decide +kernel), by decide +kernel, by decide +kernel, by decide +kernel, .passed 0 0, by decide +kernel, rfl⟩

theorem witness_LampBanksStepAndSpark_12 : ∀ ph ∈ ([.waiting, .asked] : List LampPhase), ∃ (k : Key) (seq off : Nat) (l : Leaf) (s s1 : State) (c : Context) (m : Cmd) (a b : Word) (g : LampCfg), RunAt s k seq c m a b off g ph ∧
    c.engaged = true ∧
    Gives (barrierPage c .read g.barrier) s (.ok l) s1 ∧
    s1.ctx? k = some c ∧
    s1.scratch.wf = true ∧
    c.area.wf = true ∧
    ∃ x code, testAt l g.barrier (.await (BitVec.ofInt 64 ((g.p : Int) * ((g.step : Int) + 1 - g.first)))) s1 = some x ∧ x.code = some code := by
  intro ph hp
  simp only [List.mem_cons, List.not_mem_nil, or_false] at hp
  rcases hp with rfl | rfl
  · exact ⟨aKey, 1, 0, leafAt 0x40000 9, lampHouse .waiting 0 (mdOf false 3 true 0) 0, _, lamplighter .waiting 0, aRun .waiting 0, 0x100000000, 0, theLamp, ⟨⟨rfl, rfl⟩, rfl, rfl, rfl, rfl, theLamp, by decide +kernel, by decide +kernel⟩, rfl, ranOkAs (by decide +kernel), by decide +kernel, by decide +kernel, by decide +kernel, .poison, _, by decide +kernel, rfl⟩
  · exact ⟨aKey, 1, 0, leafAt 0x40000 9, lampHouse .asked 0 (mdOf false 3 true 0) 0, _, lamplighter .asked 0, aRun .asked 0, 0x100000000, 0, theLamp, ⟨⟨rfl, rfl⟩, rfl, rfl, rfl, rfl, theLamp, by decide +kernel, by decide +kernel⟩, rfl, ranOkAs (by decide +kernel), by decide +kernel, by decide +kernel, by decide +kernel, .poison, _, by decide +kernel, rfl⟩

theorem witness_AnswersAndInvalidationsArrive_5 : ∃ (i : Nat) (s : State) (v : Inval), s.invals[i]? = some v ∧
    s.invalDone v = true :=
  ⟨0, { State.reset with invals := [anInval] }, anInval, by decide +kernel, by decide +kernel⟩

theorem witness_AnswersAndInvalidationsArrive_6 : ∃ (i : Nat) (s : State) (v : Inval), s.invals[i]? = some v ∧
    s.invalDone v = false :=
  ⟨0, { mailed (mail aLoad .source) with invals := [anInval] }, anInval, by decide +kernel, by decide +kernel⟩

theorem witness_GraphNodesDoTheirWork_1 : ∃ (g n : Nat) (s u v t : State) (a : NodeAt) (r : TaskRec), Starts s g n 1 a u ∧
    (1 ≤ nw a 4 0 32 ∧ nw a 4 32 3 ≤ 5 ∧ nw a 4 35 29 = 0 ∧ nw a 5 20 44 = 0 ∧ 1 ≤ nw a 5 10 10 ∧ nw a 5 10 10 ≤ 768) ∧
    Gives (agentRecord (walkerOf a u) a.g.launch (nodeWord a.ws 3).toNat) u (.ok r) v ∧
    r.cls = 0 ∧
    Gives (countCell (walkerOf a u) (nodeWord a.ws 1).toNat) v none t :=
  ⟨1, 0, graphState [(0x30000, 1), (0x3000A, 2), (0x30018, 64), (0x3001A, 1), (0x30020, 1), (0x30029, 4)] 9 (aNode .ready), _, _, _, _, _, started (by decide +kernel), by decide +kernel, ranOk (by decide +kernel), by decide +kernel, ranAs (by decide +kernel)⟩

theorem witness_GraphNodesDoTheirWork_13 : ∃ (g n : Nat) (s u v t w : State) (a : NodeAt) (r : TaskRec), Starts s g n 1 a u ∧
    (1 ≤ nw a 4 0 32 ∧ nw a 4 32 3 ≤ 5 ∧ nw a 4 35 29 = 0 ∧ nw a 5 20 44 = 0 ∧ 1 ≤ nw a 5 10 10 ∧ nw a 5 10 10 ≤ 768) ∧
    Gives (agentRecord (walkerOf a u) a.g.launch (nodeWord a.ws 3).toNat) u (.ok r) v ∧
    r.cls = 0 ∧
    Gives (countCell (walkerOf a u) (nodeWord a.ws 1).toNat) v none t ∧
    nodeQuiet a.ws = false ∧
    Gives (agentAsk (walkerOf a u) (fun ty => decide (ty = 9)) (nodeWord a.ws 1).toNat) t () w :=
  ⟨1, 0, graphState [(0x30000, 1), (0x3000A, 2), (0x30018, 64), (0x3001A, 1), (0x30020, 1), (0x30029, 4)] 9 (aNode .ready), _, _, _, _, _, _, started (by decide +kernel), by decide +kernel, ranOk (by decide +kernel), by decide +kernel, ranAs (by decide +kernel), by decide +kernel, did (by decide +kernel)⟩

theorem witness_GraphNodesDoTheirWork_2 : ∃ (g n : Nat) (s u v w t : State) (a : NodeAt) (ms : List (Nat × TaskRec)) (ds : List Word), Starts s g n 2 a u ∧
    (1 ≤ nw a 4 0 4 ∧ nw a 4 0 4 ≤ 8 ∧ nw a 4 4 6 ≤ 32 ∧ nw a 4 10 54 = 0) ∧
    Gives (crewMembers a (walkerOf a u) 0 (nw a 4 0 4)) u (.ok ms) v ∧
    (ms.map (fun m => m.1)).Nodup ∧
    Gives (agentConsts (walkerOf a u) (nodeWord a.ws 5).toNat (nw a 4 4 6)) v (.ok ds) w ∧
    ds.all (descOk ms) = true ∧
    (descPorts ds).Nodup ∧
    Gives (countCell (walkerOf a u) (nodeWord a.ws 1).toNat) w none t :=
  ⟨1, 0, graphState [(0x30000, 2), (0x3000A, 2), (0x30018, 64), (0x3001A, 1), (0x30020, 1), (0x30040, 128), (0x30042, 1)] 9 (aNode .ready), _, _, _, _, _, _, _, started (by decide +kernel), by decide +kernel, ranOk (by decide +kernel), by decide +kernel, ranOk (by decide +kernel), by decide +kernel, by decide +kernel, ranAs (by decide +kernel)⟩

theorem witness_GraphNodesDoTheirWork_3 : ∃ (g n : Nat) (s u v : State) (a : NodeAt) (mig : Bool), Starts s g n 3 a u ∧
    nodeCopyOk a.ws = true ∧
    (let k := nodeCopyOf a.ws
   Gives (agentMigrates (walkerOf a u) k.1 k.2.1 k.2.2.1 k.2.2.2) u (.ok mig) v) :=
  ⟨1, 0, graphState [(0x30000, 3), (0x30028, 64)] 0 (aNode .ready), _, _, _, false, started (by decide +kernel), by decide +kernel, ranOkAs (by decide +kernel)⟩

theorem witness_GraphNodesDoTheirWork_4 : ∃ (g n : Nat) (s s1 t : State) (x : Graph) (y : GNode) (ws : List Word) (z : CopyUnit), s.graph? g = some x ∧
    x.node? n = some y ∧
    y.state = .running ∧
    s.walks x = true ∧
    Gives (agentConsts (s.walkerCtx x) (x.nodeVa n) 8) s (.ok ws) s1 ∧
    nodeKind ws = 3 ∧
    (let k := nodeCopyOf ws
   agentUnit k.2.1 k.2.2.1 k.2.2.2 y.done = some z ∧
    Gives (agentCopyUnit (s1.walkerCtx x) k.1 y.mig z) s1 .done t) :=
  ⟨1, 0, graphState [(0x30000, 3), (0x3001A, 2), (0x30020, 128), (0x30022, 2), (0x30028, 64)] 0 (aNode .running), _, _, aGraph (aNode .running), aNode .running, _, { row := 0, src := 0x20000, dst := 0x20080, n := 64, dn := 64 }, rfl, rfl, by decide +kernel, by decide +kernel, ranOk (by decide +kernel), by decide +kernel, by decide +kernel, ranAs (by decide +kernel)⟩

theorem witness_GraphNodesDoTheirWork_5 : ∃ (g n : Nat) (s u t : State) (a : NodeAt) (x : Word), Starts s g n 4 a u ∧
    nw a 2 48 16 = 2 ∧
    Gives (agentExact (walkerOf a u) (nodeWord a.ws 3).toNat) u (.ok x) t :=
  ⟨1, 0, graphState [(0x30000, 4), (0x30016, 2), (0x3001A, 2)] 3 (aNode .ready), _, _, _, _, started (by decide +kernel), by decide +kernel, ranOk (by decide +kernel)⟩

theorem witness_GraphNodesDoTheirWork_6 : ∃ (g n : Nat) (s u v t : State) (a : NodeAt) (x : Word) (ps : List Nat), Starts s g n 5 a u ∧
    a.g.whileOk a.n.idx (nw a 4 0 16) (nw a 4 16 16) = true ∧
    Gives (nodePreds (walkerOf a u) a.g (nw a 4 0 16) (nw a 4 16 16 + 1 - nw a 4 0 16)) u (.ok ps) v ∧
    ps.headD 0 = 0 ∧
    Gives (agentExact (walkerOf a u) (nodeWord a.ws 3).toNat) v (.ok x) t ∧
    (x = 0 ∨ nw a 4 32 32 ≤ a.n.w) :=
  ⟨1, 0, graphState [(0x30000, 5), (0x3001A, 2), (0x30020, 1), (0x30022, 1)] 3 (aNode .ready), _, _, _, _, _, _, started (by decide +kernel), by decide +kernel, ranOk (by decide +kernel), by decide +kernel, ranOk (by decide +kernel), Or.inl (by decide +kernel)⟩

theorem witness_GraphNodesDoTheirWork_7 : ∃ (g n : Nat) (s u v t : State) (a : NodeAt) (x : Word) (ps : List Nat), Starts s g n 5 a u ∧
    a.g.whileOk a.n.idx (nw a 4 0 16) (nw a 4 16 16) = true ∧
    Gives (nodePreds (walkerOf a u) a.g (nw a 4 0 16) (nw a 4 16 16 + 1 - nw a 4 0 16)) u (.ok ps) v ∧
    ps.headD 0 = 0 ∧
    Gives (agentExact (walkerOf a u) (nodeWord a.ws 3).toNat) v (.ok x) t ∧
    x ≠ 0 ∧
    a.n.w < nw a 4 32 32 :=
  ⟨1, 0, graphState [(0x30000, 5), (0x3001A, 2), (0x30020, 1), (0x30022, 1), (0x30024, 1), (0x40000, 1)] 3 (aNode .ready), _, _, _, _, _, _, started (by decide +kernel), by decide +kernel, ranOk (by decide +kernel), by decide +kernel, ranOk (by decide +kernel), by decide +kernel, by decide +kernel⟩

theorem witness_GraphNodesDoTheirWork_8 : ∃ (g n : Nat) (s u t : State) (a : NodeAt), Starts s g n 6 a u ∧
    rangeFault 128 (nodeWord a.ws 3).toNat (nodeWord a.ws 4).toNat = none ∧
    Gives (agentFreeze (walkerOf a u) false (nodeWord a.ws 3).toNat (nodeWord a.ws 4).toNat) u none t :=
  ⟨1, 0, graphState [(0x30000, 6), (0x3001A, 2), (0x30020, 128)] 3 (aNode .ready), _, _, _, started (by decide +kernel), by decide +kernel, ranAs (by decide +kernel)⟩

theorem witness_GraphNodesDoTheirWork_9 : ∃ (g n : Nat) (s u t : State) (a : NodeAt), Starts s g n 7 a u ∧
    rangeFault 4096 (nodeWord a.ws 3).toNat (nodeWord a.ws 4).toNat = none ∧
    Gives (agentFreeze (walkerOf a u) true (nodeWord a.ws 3).toNat (nodeWord a.ws 4).toNat) u none t :=
  ⟨1, 0, graphState [(0x30000, 7), (0x3001A, 2), (0x30021, 16)] 3 (aNode .ready), _, _, _, started (by decide +kernel), by decide +kernel, ranAs (by decide +kernel)⟩

theorem witness_GraphNodesDoTheirWork_10 : ∃ (g n : Nat) (s u v t : State) (a : NodeAt) (b : Bool), Starts s g n 8 a u ∧
    Gives (agentAsk (walkerOf a u) fieldType (nodeWord a.ws 3).toNat) u () v ∧
    Gives (agentTest (walkerOf a v) fieldType (nodeWord a.ws 3).toNat (nodeWord a.ws 4)) v (.ok b) t :=
  ⟨1, 0, graphState [(0x30000, 8), (0x3001A, 2)] 3 (aNode .ready), _, _, _, _, _, started (by decide +kernel), did (by decide +kernel), ranOk (by decide +kernel)⟩

theorem witness_GraphNodesDoTheirWork_11 : ∃ (g n : Nat) (s u : State) (a : NodeAt) (l : Launch) (q : Fin 64), Starts s g n 9 a u ∧
    u.launch? a.g.launch = some l ∧
    l.queue = some q ∧
    u.mem.wf = true :=
  ⟨1, 0, graphState [(0x30000, 9)] 3 (aNode .ready), _, _, aLaunch, 0, started (by decide +kernel), rfl, rfl, by decide +kernel⟩

theorem witness_GraphNodesDoTheirWork_12 : ∃ (g n : Nat) (s u : State) (a : NodeAt), Starts s g n 10 a u :=
  ⟨1, 0, graphState [(0x30000, 10)] 3 (aNode .ready), _, _, started (by decide +kernel)⟩

theorem witness_GraphNodesAndGraphsComplete_1 : ∃ (g n : Nat) (s s1 : State) (x : Graph) (y : GNode) (ws : List Word), s.graph? g = some x ∧
    x.node? n = some y ∧
    s.walks x = true ∧
    Gives (agentConsts (s.walkerCtx x) (x.nodeVa n) 8) s (.ok ws) s1 ∧
    wbits (nodeWord ws 2) 48 16 = 0 ∧
    (∀ b ∈ x.bodies, b.2.2 ≠ n) ∧
    y.state = .running ∧
    nodeKind ws ∈ [6, 9, 10] :=
  ⟨1, 0, graphState [(0x30000, 10)] 3 (aNode .running), _, aGraph (aNode .running), aNode .running, _, rfl, rfl, by decide +kernel, ranOk (by decide +kernel), by decide +kernel, by decide +kernel, by decide +kernel, by decide +kernel⟩

theorem witness_GraphNodesAndGraphsComplete_2 : ∃ (g n : Nat) (s s1 : State) (x : Graph) (y : GNode) (ws : List Word), s.graph? g = some x ∧
    x.node? n = some y ∧
    s.walks x = true ∧
    Gives (agentConsts (s.walkerCtx x) (x.nodeVa n) 8) s (.ok ws) s1 ∧
    wbits (nodeWord ws 2) 48 16 = 0 ∧
    (∀ b ∈ x.bodies, b.2.2 ≠ n) ∧
    y.state = .ready ∧
    y.anyRun = false :=
  ⟨1, 0, graphState [(0x30000, 10)] 3 { idx := 0, pending := 0, state := .ready }, _, aGraph { idx := 0, pending := 0, state := .ready }, { idx := 0, pending := 0, state := .ready }, _, rfl, rfl, by decide +kernel, ranOk (by decide +kernel), by decide +kernel, by decide +kernel, by decide +kernel, by decide +kernel⟩

theorem witness_GraphNodesAndGraphsComplete_3 : ∃ (g n : Nat) (s s1 t : State) (x : Graph) (y z : GNode) (ws : List Word) (w0 w1 : Word), s.graph? g = some x ∧
    x.node? n = some y ∧
    s.walks x = true ∧
    y.state = .running ∧
    Gives (agentConsts (s.walkerCtx x) (x.nodeVa n) 8) s (.ok ws) s1 ∧
    nodeKind ws ∈ [6, 9, 10] ∧
    wbits (nodeWord ws 2) 48 16 = 1 ∧
    (∀ b ∈ x.bodies, b.2.2 ≠ n) ∧
    (let u := s1.modNode x.id y.idx (fun y => { y with state := .completeRun })
   Gives (agentConsts (u.walkerCtx x) (wbits (nodeWord ws 2) 0 48) 2) u (.ok [w0, w1]) t ∧
    wbits w0 16 48 = 0 ∧
    wbits w1 48 16 = 0 ∧
    wbits w0 0 16 ≠ 0xFFFF ∧
    wbits w0 0 16 < x.count ∧
    NodeIs t g (wbits w0 0 16) z ∧
    1 ≤ z.pending ∧
    x.encl n = x.encl (wbits w0 0 16)) :=
  ⟨1, 0, graphState [(0x30000, 10), (0x30010, 64), (0x30012, 1), (0x30016, 1), (0x30040, 1)] 3 (aNode .running), _, _, aGraph (aNode .running), aNode .running, secondNode, _, 1, 0, rfl, rfl, by decide +kernel, by decide +kernel, ranOk (by decide +kernel), by decide +kernel, by decide +kernel, by decide +kernel, ranOkAs (by decide +kernel), by decide +kernel, by decide +kernel, by decide +kernel, by decide +kernel, ⟨_, rfl, rfl⟩, by decide +kernel, by decide +kernel⟩

theorem witness_GraphNodesAndGraphsComplete_4 : ∃ (g : Nat) (s : State) (x : Graph) (l : Launch) (q : Fin 64), s.graph? g = some x ∧
    s.launchLive x.launch = false ∧
    s.launch? x.launch = some l ∧
    l.queue = some q ∧
    s.mem.wf = true ∧
    ∃ status code node, (x.failed = none ∧ x.ended = true ∧ status = 0 ∧ code = 0 ∧ node = 0 ∨ ∃ c, x.failed = some (c, node) ∧ status = 2 ∧ code = c.num) :=
  ⟨1, { State.reset with graphs := [{ aGraph (aNode .completeRun) with ended := true }], launches := [aLaunch] }, { aGraph (aNode .completeRun) with ended := true }, aLaunch, 0, rfl, by decide +kernel, rfl, rfl, by decide +kernel, 0, 0, 0, Or.inl ⟨rfl, rfl, rfl, rfl, rfl⟩⟩

theorem witness_GraphNodesAndGraphsComplete_5 : ∃ (g : Nat) (s : State) (x : Graph) (y : GNode), s.graph? g = some x ∧
    s.walks x = true ∧
    x.ended = false ∧
    (∀ z ∈ x.nodes, z.state ≠ .running ∧ z.state ≠ .ready) ∧
    s.launchLive x.launch = false ∧
    x.nodes.find? (fun z => decide (0 < z.pending)) = some y :=
  ⟨1, { State.reset with graphs := [aGraph (aNode .completeRun)], launches := [aLaunch] }, aGraph (aNode .completeRun), secondNode, rfl, by decide +kernel, by decide +kernel, by decide +kernel, by decide +kernel, rfl⟩

theorem witness_GraphNodesAndGraphsComplete_6 : ∃ (g n k : Nat) (s s1 t : State) (x : Graph) (y : GNode) (ws : List Word), RunsAs s g n k x y ws s1 ∧
    (let c := s1.walkerCtx x
   (let satc (ty : Nat) : Bool := decide (ty = 9)
   (let cell := (nodeWord ws 1).toNat
   (let ends := NodeEnds s g n x y ws .completeRun
   (let all (_ : Nat) : Bool := true
   k = 1 ∧
    nodeQuiet ws = false ∧
    Gives (agentTest c satc cell (countTrigger x y (wbits (nodeWord ws 4) 0 32))) s1 (.ok true) t))))) :=
  ⟨1, 0, 1, walking [(0x30000, 1), (0x3000A, 2), (0x30020, 1), (0x40000, 1)] 9 (mdOf false 3 false 0) (aNode .running), _, _, aGraph (aNode .running), aNode .running, _, ⟨rfl, rfl, by decide +kernel, rfl, ranOk (by decide +kernel), by decide +kernel⟩, rfl, by decide +kernel, ranOkAs (by decide +kernel)⟩

theorem witness_GraphNodesAndGraphsComplete_7 : ∃ (g n k : Nat) (s s1 t : State) (x : Graph) (y : GNode) (ws : List Word), RunsAs s g n k x y ws s1 ∧
    (let c := s1.walkerCtx x
   (let satc (ty : Nat) : Bool := decide (ty = 9)
   (let cell := (nodeWord ws 1).toNat
   (let ends := NodeEnds s g n x y ws .completeRun
   (let all (_ : Nat) : Bool := true
   k = 1 ∧
    nodeQuiet ws = false ∧
    Gives (agentTest c satc cell (countTrigger x y (wbits (nodeWord ws 4) 0 32))) s1 (.ok false) t))))) :=
  ⟨1, 0, 1, walking [(0x30000, 1), (0x3000A, 2), (0x30020, 1)] 9 (mdOf false 3 false 0) (aNode .running), _, _, aGraph (aNode .running), aNode .running, _, ⟨rfl, rfl, by decide +kernel, rfl, ranOk (by decide +kernel), by decide +kernel⟩, rfl, by decide +kernel, ranOkAs (by decide +kernel)⟩

theorem witness_GraphNodesAndGraphsComplete_8 : ∃ (g n k : Nat) (s s1 t : State) (x : Graph) (y : GNode) (ws : List Word), RunsAs s g n k x y ws s1 ∧
    (let c := s1.walkerCtx x
   (let satc (ty : Nat) : Bool := decide (ty = 9)
   (let cell := (nodeWord ws 1).toNat
   (let ends := NodeEnds s g n x y ws .completeRun
   (let all (_ : Nat) : Bool := true
   k = 1 ∧
    nodeQuiet ws = true ∧
    s1.quiescent x.launch = true))))) :=
  ⟨1, 0, 1, walking [(0x30000, 0x11)] 9 (mdOf false 3 false 0) (aNode .running), _, State.reset, aGraph (aNode .running), aNode .running, _, ⟨rfl, rfl, by decide +kernel, rfl, ranOk (by decide +kernel), by decide +kernel⟩, rfl, by decide +kernel, by decide +kernel⟩

theorem witness_GraphNodesAndGraphsComplete_9 : ∃ (g n k : Nat) (s s1 t : State) (x : Graph) (y : GNode) (ws : List Word), RunsAs s g n k x y ws s1 ∧
    (let c := s1.walkerCtx x
   (let satc (ty : Nat) : Bool := decide (ty = 9)
   (let cell := (nodeWord ws 1).toNat
   (let ends := NodeEnds s g n x y ws .completeRun
   (let all (_ : Nat) : Bool := true
   k = 1 ∧
    nodeQuiet ws = true ∧
    s1.quiescent x.launch = false))))) :=
  ⟨1, 0, 1, { walking [(0x30000, 0x11)] 9 (mdOf false 3 false 0) (aNode .running) with ctxs := [runner []] }, _, State.reset, aGraph (aNode .running), aNode .running, _, ⟨rfl, rfl, by decide +kernel, rfl, ranOk (by decide +kernel), by decide +kernel⟩, rfl, by decide +kernel, by decide +kernel⟩

theorem witness_GraphNodesAndGraphsComplete_10 : ∃ (g n k : Nat) (s s1 t : State) (x : Graph) (y : GNode) (ws : List Word), RunsAs s g n k x y ws s1 ∧
    (let c := s1.walkerCtx x
   (let satc (ty : Nat) : Bool := decide (ty = 9)
   (let cell := (nodeWord ws 1).toNat
   (let ends := NodeEnds s g n x y ws .completeRun
   (let all (_ : Nat) : Bool := true
   k = 2 ∧
    Gives (agentTest c satc cell (countTrigger x y (wbits (nodeWord ws 4) 0 4))) s1 (.ok true) t))))) :=
  ⟨1, 0, 2, walking [(0x30000, 2), (0x3000A, 2), (0x30020, 1), (0x40000, 1)] 9 (mdOf false 3 false 0) (aNode .running), _, _, aGraph (aNode .running), aNode .running, _, ⟨rfl, rfl, by decide +kernel, rfl, ranOk (by decide +kernel), by decide +kernel⟩, rfl, ranOkAs (by decide +kernel)⟩

theorem witness_GraphNodesAndGraphsComplete_11 : ∃ (g n k : Nat) (s s1 t : State) (x : Graph) (y : GNode) (ws : List Word), RunsAs s g n k x y ws s1 ∧
    (let c := s1.walkerCtx x
   (let satc (ty : Nat) : Bool := decide (ty = 9)
   (let cell := (nodeWord ws 1).toNat
   (let ends := NodeEnds s g n x y ws .completeRun
   (let all (_ : Nat) : Bool := true
   k = 2 ∧
    Gives (agentTest c satc cell (countTrigger x y (wbits (nodeWord ws 4) 0 4))) s1 (.ok false) t))))) :=
  ⟨1, 0, 2, walking [(0x30000, 2), (0x3000A, 2), (0x30020, 1)] 9 (mdOf false 3 false 0) (aNode .running), _, _, aGraph (aNode .running), aNode .running, _, ⟨rfl, rfl, by decide +kernel, rfl, ranOk (by decide +kernel), by decide +kernel⟩, rfl, ranOkAs (by decide +kernel)⟩

theorem witness_GraphNodesAndGraphsComplete_12 : ∃ (g n k : Nat) (s s1 t : State) (x : Graph) (y : GNode) (ws : List Word), RunsAs s g n k x y ws s1 ∧
    (let c := s1.walkerCtx x
   (let satc (ty : Nat) : Bool := decide (ty = 9)
   (let cell := (nodeWord ws 1).toNat
   (let ends := NodeEnds s g n x y ws .completeRun
   (let all (_ : Nat) : Bool := true
   k = 3 ∧
    (let u := agentUnit (nodeCopyOf ws).2.1 (nodeCopyOf ws).2.2.1 (nodeCopyOf ws).2.2.2 y.done
   u = none)))))) :=
  ⟨1, 0, 3, walking [(0x30000, 3), (0x3001A, 2), (0x30020, 128), (0x30022, 2), (0x30028, 64)] 0 (mdOf false 3 false 0) { aNode .running with done := 1 }, _, State.reset, aGraph { aNode .running with done := 1 }, { aNode .running with done := 1 }, _, ⟨rfl, rfl, by decide +kernel, rfl, ranOk (by decide +kernel), by decide +kernel⟩, rfl, by decide +kernel⟩

theorem witness_GraphNodesAndGraphsComplete_13 : ∃ (g n k : Nat) (s s1 t : State) (x : Graph) (y : GNode) (ws : List Word), RunsAs s g n k x y ws s1 ∧
    (let c := s1.walkerCtx x
   (let satc (ty : Nat) : Bool := decide (ty = 9)
   (let cell := (nodeWord ws 1).toNat
   (let ends := NodeEnds s g n x y ws .completeRun
   (let all (_ : Nat) : Bool := true
   k = 3 ∧
    (let u := agentUnit (nodeCopyOf ws).2.1 (nodeCopyOf ws).2.2.1 (nodeCopyOf ws).2.2.2 y.done
   u.isSome = true)))))) :=
  ⟨1, 0, 3, walking [(0x30000, 3), (0x3001A, 2), (0x30020, 128), (0x30022, 2), (0x30028, 64)] 0 (mdOf false 3 false 0) (aNode .running), _, State.reset, aGraph (aNode .running), aNode .running, _, ⟨rfl, rfl, by decide +kernel, rfl, ranOk (by decide +kernel), by decide +kernel⟩, rfl, by decide +kernel⟩

theorem witness_GraphNodesAndGraphsComplete_14 : ∃ (g n k : Nat) (s s1 t : State) (x : Graph) (y : GNode) (ws : List Word), RunsAs s g n k x y ws s1 ∧
    (let c := s1.walkerCtx x
   (let satc (ty : Nat) : Bool := decide (ty = 9)
   (let cell := (nodeWord ws 1).toNat
   (let ends := NodeEnds s g n x y ws .completeRun
   (let all (_ : Nat) : Bool := true
   k = 4 ∧
    ∃ i, y.taken = some i))))) :=
  ⟨1, 0, 4, walking [(0x30000, 4)] 9 (mdOf false 3 false 0) { aNode .running with taken := some 0 }, _, State.reset, aGraph { aNode .running with taken := some 0 }, { aNode .running with taken := some 0 }, _, ⟨rfl, rfl, by decide +kernel, rfl, ranOk (by decide +kernel), by decide +kernel⟩, rfl, 0, rfl⟩

theorem witness_GraphNodesAndGraphsComplete_15 : ∃ (g n k : Nat) (s s1 t : State) (x : Graph) (y : GNode) (ws : List Word), RunsAs s g n k x y ws s1 ∧
    (let c := s1.walkerCtx x
   (let satc (ty : Nat) : Bool := decide (ty = 9)
   (let cell := (nodeWord ws 1).toNat
   (let ends := NodeEnds s g n x y ws .completeRun
   (let all (_ : Nat) : Bool := true
   k = 5 ∧
    y.taken.isSome = true))))) :=
  ⟨1, 0, 5, walking [(0x30000, 5)] 9 (mdOf false 3 false 0) { aNode .running with taken := some 0 }, _, State.reset, aGraph { aNode .running with taken := some 0 }, { aNode .running with taken := some 0 }, _, ⟨rfl, rfl, by decide +kernel, rfl, ranOk (by decide +kernel), by decide +kernel⟩, rfl, rfl⟩

theorem witness_GraphNodesAndGraphsComplete_16 : ∃ (g n k : Nat) (s s1 t : State) (x : Graph) (y : GNode) (ws : List Word), RunsAs s g n k x y ws s1 ∧
    (let c := s1.walkerCtx x
   (let satc (ty : Nat) : Bool := decide (ty = 9)
   (let cell := (nodeWord ws 1).toNat
   (let ends := NodeEnds s g n x y ws .completeRun
   (let all (_ : Nat) : Bool := true
   k = 5 ∧
    y.taken = none))))) :=
  ⟨1, 0, 5, walking [(0x30000, 5)] 9 (mdOf false 3 false 0) (aNode .running), _, State.reset, aGraph (aNode .running), aNode .running, _, ⟨rfl, rfl, by decide +kernel, rfl, ranOk (by decide +kernel), by decide +kernel⟩, rfl, rfl⟩

theorem witness_GraphNodesAndGraphsComplete_17 : ∃ (g n k : Nat) (s s1 t : State) (x : Graph) (y : GNode) (ws : List Word), RunsAs s g n k x y ws s1 ∧
    (let c := s1.walkerCtx x
   (let satc (ty : Nat) : Bool := decide (ty = 9)
   (let cell := (nodeWord ws 1).toNat
   (let ends := NodeEnds s g n x y ws .completeRun
   (let all (_ : Nat) : Bool := true
   k = 7 ∧
    (∀ v ∈ s1.invals, v.id + 1 ≠ y.done)))))) :=
  ⟨1, 0, 7, walking [(0x30000, 7)] 9 (mdOf false 3 false 0) { aNode .running with done := 2 }, _, State.reset, aGraph { aNode .running with done := 2 }, { aNode .running with done := 2 }, _, ⟨rfl, rfl, by decide +kernel, rfl, ranOk (by decide +kernel), by decide +kernel⟩, rfl, (by intro v h; cases h)⟩

theorem witness_GraphNodesAndGraphsComplete_18 : ∃ (g n k : Nat) (s s1 t : State) (x : Graph) (y : GNode) (ws : List Word), RunsAs s g n k x y ws s1 ∧
    (let c := s1.walkerCtx x
   (let satc (ty : Nat) : Bool := decide (ty = 9)
   (let cell := (nodeWord ws 1).toNat
   (let ends := NodeEnds s g n x y ws .completeRun
   (let all (_ : Nat) : Bool := true
   k = 7 ∧
    (∃ v ∈ s1.invals, v.id + 1 = y.done)))))) :=
  ⟨1, 0, 7, { walking [(0x30000, 7)] 9 (mdOf false 3 false 0) { aNode .running with done := 2 } with invals := [anInval] }, _, State.reset, aGraph { aNode .running with done := 2 }, { aNode .running with done := 2 }, _, ⟨rfl, rfl, by decide +kernel, rfl, ranOk (by decide +kernel), by decide +kernel⟩, rfl, anInval, by decide +kernel, rfl⟩

theorem witness_GraphNodesAndGraphsComplete_19 : ∃ (g n k : Nat) (s s1 t : State) (x : Graph) (y : GNode) (ws : List Word), RunsAs s g n k x y ws s1 ∧
    (let c := s1.walkerCtx x
   (let satc (ty : Nat) : Bool := decide (ty = 9)
   (let cell := (nodeWord ws 1).toNat
   (let ends := NodeEnds s g n x y ws .completeRun
   (let all (_ : Nat) : Bool := true
   k = 8 ∧
    Gives (agentTest c fieldType (nodeWord ws 3).toNat (nodeWord ws 4)) s1 (.ok true) t))))) :=
  ⟨1, 0, 8, walking [(0x30000, 8), (0x3001A, 2), (0x30020, 1), (0x40000, 1)] 9 (mdOf false 3 false 0) (aNode .running), _, _, aGraph (aNode .running), aNode .running, _, ⟨rfl, rfl, by decide +kernel, rfl, ranOk (by decide +kernel), by decide +kernel⟩, rfl, ranOkAs (by decide +kernel)⟩

theorem witness_GraphNodesAndGraphsComplete_20 : ∃ (g n k : Nat) (s s1 t : State) (x : Graph) (y : GNode) (ws : List Word), RunsAs s g n k x y ws s1 ∧
    (let c := s1.walkerCtx x
   (let satc (ty : Nat) : Bool := decide (ty = 9)
   (let cell := (nodeWord ws 1).toNat
   (let ends := NodeEnds s g n x y ws .completeRun
   (let all (_ : Nat) : Bool := true
   k = 8 ∧
    Gives (agentTest c fieldType (nodeWord ws 3).toNat (nodeWord ws 4)) s1 (.ok false) t))))) :=
  ⟨1, 0, 8, walking [(0x30000, 8), (0x3001A, 2), (0x30020, 1)] 9 (mdOf false 3 false 0) (aNode .running), _, _, aGraph (aNode .running), aNode .running, _, ⟨rfl, rfl, by decide +kernel, rfl, ranOk (by decide +kernel), by decide +kernel⟩, rfl, ranOkAs (by decide +kernel)⟩

theorem witness_GraphNodesAndGraphsComplete_21 : ∃ (g n k : Nat) (s s1 t : State) (x : Graph) (y : GNode) (ws : List Word), RunsAs s g n k x y ws s1 ∧
    (let c := s1.walkerCtx x
   (let satc (ty : Nat) : Bool := decide (ty = 9)
   (let cell := (nodeWord ws 1).toNat
   (let ends := NodeEnds s g n x y ws .completeRun
   (let all (_ : Nat) : Bool := true
   (k = 6 ∨ k = 9 ∨ k = 10)))))) :=
  ⟨1, 0, 6, walking [(0x30000, 6)] 9 (mdOf false 3 false 0) (aNode .running), _, State.reset, aGraph (aNode .running), aNode .running, _, ⟨rfl, rfl, by decide +kernel, rfl, ranOk (by decide +kernel), by decide +kernel⟩, Or.inl rfl⟩

theorem witness_GraphNodesAndGraphsComplete_22 : ∃ (g n : Nat) (s s1 : State) (x : Graph) (y : GNode) (ws : List Word), s.graph? g = some x ∧
    x.node? n = some y ∧
    s.walks x = true ∧
    y.state = .ready ∧
    y.anyRun = false ∧
    Gives (agentConsts (s.walkerCtx x) (x.nodeVa n) 8) s (.ok ws) s1 :=
  ⟨1, 0, walking [(0x30000, 6)] 9 0 { aNode .ready with anyRun := false }, _, aGraph { aNode .ready with anyRun := false }, { aNode .ready with anyRun := false }, _, rfl, rfl, by decide +kernel, rfl, rfl, ranOk (by decide +kernel)⟩

theorem witness_GraphNodesAndGraphsComplete_23 : ∃ (s : State) (L : Nat) (l : Launch), s.launch? L = some l ∧
    (let t := s.reapAll L
   ∀ c ∈ s.allCtxs, (∀ d ∈ s.allCtxs, d.launch = L → d.key ≠ c.key)) :=
  ⟨{ holding [{ runner [] with launch := 2 }] with launches := [aLaunch] }, 1, aLaunch, rfl, (by intro c _ d hd e; cases List.mem_singleton.mp hd; cases e)⟩

theorem witness_GraphNodesAndGraphsComplete_24 : ∃ (s : State) (L : Nat) (l : Launch), s.launch? L = some l ∧
    (let t := s.reapAll L
   ∀ w ∈ t.watches, ∀ c ∈ s.allCtxs, c.launch = L) :=
  ⟨{ holding [runner []] with launches := [aLaunch] }, 1, aLaunch, rfl, (by intro t w _ c h; cases List.mem_singleton.mp h; rfl)⟩

theorem witness_GraphNodesAndGraphsComplete_25 : ∃ (s : State) (L : Nat), s.quiescent L = true ∧
    ∀ c ∈ s.allCtxs, c.launch = L :=
  ⟨holding [{ runner [] with status := .parked .reply 0 }], 1, by decide +kernel, (by intro c h; cases List.mem_singleton.mp h; rfl)⟩

theorem witness_GraphNodesAndGraphsComplete_26 : ∃ (x : Graph) (n : Nat) (t : State) (b : Nat × Nat × Nat) (z : GNode), x.bodies.find? (fun b => decide (b.2.2 = n)) = some b ∧
    NodeIs t x.id b.1 z :=
  ⟨{ aGraph (aNode .running) with bodies := [(0, 1, 1)] }, 1, graphState [] 3 (aNode .running), (0, 1, 1), aNode .running, rfl, _, rfl, rfl⟩

theorem witness_GraphNodesAndGraphsComplete_27 : ∃ (c : Context) (x : Graph) (n va i k : Nat) (runs : Nat → Bool) (u v w : State) (w0 w1 : Word) (z : GNode), Gives (agentConsts c (va + 16 * i) 2) u (.ok [w0, w1]) v ∧
    wbits w0 32 32 = 0 ∧
    wbits w1 48 16 = 0 ∧
    wbits w0 0 16 < x.count ∧
    wbits w0 0 16 ≠ 0xFFFF ∧
    (runs i = true → Gives (regionsDone c (wbits w1 0 48) (wbits w0 16 16)) v none w) ∧
    (runs i = false → w = v) ∧
    NodeIs w x.id (wbits w0 0 16) z ∧
    x.encl n = x.encl (wbits w0 0 16) ∧
    1 ≤ z.pending :=
  ⟨agentCtx 1 true 0, waitingFor 1, 0, 0x10040, 0, 0, fun _ => true, { graphState [(0x30040, 1)] 3 (aNode .running) with graphs := [waitingFor 1] }, _, _, 1, 0, { idx := 1, pending := 1 }, ranOkAs (by decide +kernel), by decide +kernel, by decide +kernel, by decide +kernel, by decide +kernel, (fun _ => ranAs (by decide +kernel)), (fun h => absurd h (by decide)), ⟨waitingFor 1, by decide +kernel, by decide +kernel⟩, by decide +kernel, by decide +kernel⟩

theorem witness_GraphNodesAndGraphsComplete_28 : ∃ (c : Context) (x : Graph) (n va i k : Nat) (runs : Nat → Bool) (u v w : State) (w0 w1 : Word) (z : GNode), Gives (agentConsts c (va + 16 * i) 2) u (.ok [w0, w1]) v ∧
    wbits w0 32 32 = 0 ∧
    wbits w1 48 16 = 0 ∧
    wbits w0 0 16 < x.count ∧
    wbits w0 0 16 ≠ 0xFFFF ∧
    (runs i = true → Gives (regionsDone c (wbits w1 0 48) (wbits w0 16 16)) v none w) ∧
    (runs i = false → w = v) ∧
    NodeIs w x.id (wbits w0 0 16) z ∧
    x.encl n = x.encl (wbits w0 0 16) ∧
    z.pending = 0 :=
  ⟨agentCtx 1 true 0, waitingFor 0, 0, 0x10040, 0, 0, fun _ => true, { graphState [(0x30040, 1)] 3 (aNode .running) with graphs := [waitingFor 0] }, _, _, 1, 0, { idx := 1, pending := 0 }, ranOkAs (by decide +kernel), by decide +kernel, by decide +kernel, by decide +kernel, by decide +kernel, (fun _ => ranAs (by decide +kernel)), (fun h => absurd h (by decide)), ⟨waitingFor 0, by decide +kernel, by decide +kernel⟩, by decide +kernel, rfl⟩

theorem witness_GraphNodesAndGraphsComplete_29 : ∃ (c : Context) (va k : Nat) (u v : State) (w0 w1 : Word), Gives (agentConsts c va 2) u (.ok [w0, w1]) v ∧
    wbits w0 49 15 = 0 ∧
    wbits w0 0 48 % 128 = 0 ∧
    w1.toNat % 128 = 0 ∧
    128 ≤ w1.toNat ∧
    w1.toNat ≤ 2 ^ 30 ∧
    w0.getLsbD 48 = true ∧
    ∃ o e, Gives (regionsDone c (va + 16) k) (v.l1inv c.key.asid (wbits w0 0 48) w1.toNat) o e :=
  ⟨agentCtx 1 true 0, 0x10040, 0, graphState [(0x30042, 2), (0x30046, 1), (0x30048, 128)] 3 (aNode .running), _, 0x1000000020000, 128, ranOkAs (by decide +kernel), by decide +kernel, by decide +kernel, by decide +kernel, by decide +kernel, by decide +kernel, by decide +kernel, none, _, ranAs (by decide +kernel)⟩

theorem witness_GraphNodesAndGraphsComplete_30 : ∃ (c : Context) (va k : Nat) (u v : State) (w0 w1 : Word), Gives (agentConsts c va 2) u (.ok [w0, w1]) v ∧
    wbits w0 49 15 = 0 ∧
    wbits w0 0 48 % 128 = 0 ∧
    w1.toNat % 128 = 0 ∧
    128 ≤ w1.toNat ∧
    w1.toNat ≤ 2 ^ 30 ∧
    w0.getLsbD 48 = false ∧
    rangeOk (wbits w0 0 48) w1.toNat = true ∧
    ∃ w, Gives (agentFreeze c false (wbits w0 0 48) w1.toNat) v none w ∧
    ∃ o e, Gives (regionsDone c (va + 16) k) w o e :=
  ⟨agentCtx 1 true 0, 0x10040, 0, graphState [(0x30042, 2), (0x30048, 128)] 3 (aNode .running), _, 0x20000, 128, ranOkAs (by decide +kernel), by decide +kernel, by decide +kernel, by decide +kernel, by decide +kernel, by decide +kernel, by decide +kernel, by decide +kernel, _, ranAs (by decide +kernel), none, _, ranAs (by decide +kernel)⟩

theorem witness_GraphNodesAndGraphsComplete_33 : ∃ (g n : Nat) (s s1 t : State) (x : Graph) (y z : GNode) (ws : List Word) (w0 w1 : Word), s.graph? g = some x ∧
    x.node? n = some y ∧
    s.walks x = true ∧
    y.state = .running ∧
    Gives (agentConsts (s.walkerCtx x) (x.nodeVa n) 8) s (.ok ws) s1 ∧
    nodeKind ws ∈ [6, 9, 10] ∧
    wbits (nodeWord ws 2) 48 16 = 1 ∧
    (∀ b ∈ x.bodies, b.2.2 ≠ n) ∧
    (let u := s1.modNode x.id y.idx (fun y => { y with state := .completeRun })
   Gives (agentConsts (u.walkerCtx x) (wbits (nodeWord ws 2) 0 48) 2) u (.ok [w0, w1]) t ∧
    wbits w0 16 48 = 0 ∧
    wbits w1 48 16 = 0 ∧
    wbits w0 0 16 = 0xFFFF) :=
  ⟨1, 0, graphState [(0x30000, 10), (0x30010, 64), (0x30012, 1), (0x30016, 1), (0x30040, 0xFF), (0x30041, 0xFF)] 3 (aNode .running), _, _, aGraph (aNode .running), aNode .running, secondNode, _, 0xFFFF, 0, rfl, rfl, by decide +kernel, by decide +kernel, ranOk (by decide +kernel), by decide +kernel, by decide +kernel, by decide +kernel, ranOkAs (by decide +kernel), by decide +kernel, by decide +kernel, by decide +kernel⟩

theorem witness_CoresChooseWorkInOrder_1 : ∃ (core : Nat) (s : State) (r : TaskRec) (id : BitVec 16), CoreFree s core ∧
    s.highReady core = some (r, id) ∧
    Sys2Proof.Safety.memoryOk s :=
  ⟨0, waitingCore [aRecord] [] [] [], aRecord, 0, ⟨by decide +kernel, by decide +kernel⟩, rfl, ⟨by decide +kernel, by decide +kernel, by decide +kernel, by decide +kernel⟩⟩

theorem witness_CoresChooseWorkInOrder_2 : ∃ (core : Nat) (s : State) (c : Context), CoreFree s core ∧
    s.startHigh core = none ∧
    s.inSlot core .h = none ∧
    (s.residents core).find? (fun c => c.status == .suspended && !c.leaving) = some c :=
  ⟨0, waitingCore [] [] [] [{ runner [] with status := .suspended }], { runner [] with status := .suspended }, ⟨by decide +kernel, by decide +kernel⟩, rfl, rfl, rfl⟩

theorem witness_CoresChooseWorkInOrder_3 : ∃ (core : Nat) (s : State) (c : Context) (rest : List Context), CoreFree s core ∧
    s.startHigh core = none ∧
    s.continueSuspended core = none ∧
    s.woken core = c :: rest ∧
    c.slot.isSome = true ∧
    s.ctx? c.key = some c :=
  ⟨0, waitingCore [] [] [] [{ runner [] with status := .ready 1 }], { runner [] with status := .ready 1 }, [], ⟨by decide +kernel, by decide +kernel⟩, rfl, rfl, woken_one (by decide +kernel), by decide +kernel, by decide +kernel⟩

theorem witness_CoresChooseWorkInOrder_4 : ∃ (core : Nat) (s s1 : State) (r : TaskRec) (rest : List TaskRec) (id : BitVec 16) (p : Room), CoreFree s core ∧
    s.startHigh core = none ∧
    s.continueSuspended core = none ∧
    s.runFirst core (s.woken core) = none ∧
    s.canTake core = true ∧
    s.reserveCrew core = none ∧
    (s.core core).inbox = r :: rest ∧
    s.recordHeld r = false ∧
    s.freeFrame r.asid = some id ∧
    s.makeFit core r.foot r.tiles = some (s1, p) ∧
    Sys2Proof.Safety.memoryOk s :=
  ⟨0, waitingCore [] [aRecord] [] [], _, aRecord, [], 0, _, ⟨by decide +kernel, by decide +kernel⟩, rfl, rfl, by decide +kernel, by decide +kernel, by decide +kernel, by decide +kernel, by decide +kernel, by decide +kernel, madeFit (by decide +kernel), ⟨by decide +kernel, by decide +kernel, by decide +kernel, by decide +kernel⟩⟩

theorem witness_CoresChooseWorkInOrder_5 : ∃ (core : Nat) (s s1 : State) (r : TaskRec) (rest : List TaskRec) (id : BitVec 16) (p : Room), CoreFree s core ∧
    s.startHigh core = none ∧
    s.continueSuspended core = none ∧
    s.runFirst core (s.woken core) = none ∧
    s.canTake core = true ∧
    s.reserveCrew core = none ∧
    s.takeInbox core = none ∧
    (s.core core).deque = r :: rest ∧
    s.recordHeld r = false ∧
    s.freeFrame r.asid = some id ∧
    s.makeFit core r.foot r.tiles = some (s1, p) ∧
    Sys2Proof.Safety.memoryOk s :=
  ⟨0, waitingCore [] [] [aRecord] [], _, aRecord, [], 0, _, ⟨by decide +kernel, by decide +kernel⟩, rfl, rfl, by decide +kernel, by decide +kernel, by decide +kernel, by decide +kernel, by decide +kernel, by decide +kernel, by decide +kernel, madeFit (by decide +kernel), ⟨by decide +kernel, by decide +kernel, by decide +kernel, by decide +kernel⟩⟩

theorem witness_CoresChooseWorkInOrder_6 : ∃ (core : Nat) (s : State), s.chooseWork core = none :=
  ⟨0, State.reset, by decide +kernel⟩

theorem witness_CoresChooseWorkInOrder_7 : ∃ (core : Nat) (s s1 : State) (c : Context) (rest : List Context) (p : Room), CoreFree s core ∧
    s.startHigh core = none ∧
    s.continueSuspended core = none ∧
    s.woken core = c :: rest ∧
    c.slot = none ∧
    s.ctx? c.key = some c ∧
    c.regs.status.getLsbD 14 = false ∧
    c.unit = none ∧
    s.makeFit core c.foot c.tiles = some (s1, p) ∧
    Sys2Proof.Safety.memoryOk s1 :=
  ⟨0, waitingCore [] [] [] [{ runner [] with slot := none, tileMap := [], status := .ready 1 }], _, { runner [] with slot := none, tileMap := [], status := .ready 1 }, [], _, ⟨by decide +kernel, by decide +kernel⟩, rfl, rfl, woken_one (by decide +kernel), rfl, by decide +kernel, by decide +kernel, rfl, madeFit (by decide +kernel), ⟨by decide +kernel, by decide +kernel, by decide +kernel, by decide +kernel⟩⟩

theorem witness_CoresChooseWorkInOrder_8 : ∃ (core : Nat) (s : State) (c : Context) (rest : List Context), CoreFree s core ∧
    s.startHigh core = none ∧
    s.continueSuspended core = none ∧
    s.woken core = c :: rest ∧
    c.slot = none ∧
    s.ctx? c.key = some c ∧
    c.regs.status.getLsbD 14 = true ∧
    s.inSlot core .h = none ∧
    c.unit = none ∧
    Sys2Proof.Safety.memoryOk s :=
  ⟨0, waitingCore [] [] [] [inFrame 0x4000 none], inFrame 0x4000 none, [], ⟨by decide +kernel, by decide +kernel⟩, rfl, rfl, woken_one (by decide +kernel), rfl, by decide +kernel, by decide +kernel, rfl, rfl, ⟨by decide +kernel, by decide +kernel, by decide +kernel, by decide +kernel⟩⟩

theorem witness_CoresChooseWorkInOrder_9 : ∃ (core : Nat) (s s1 : State) (c : Context) (rest : List Context) (p : Room) (u : UnitState), CoreFree s core ∧
    s.startHigh core = none ∧
    s.continueSuspended core = none ∧
    s.woken core = c :: rest ∧
    c.slot = none ∧
    s.ctx? c.key = some c ∧
    c.regs.status.getLsbD 14 = false ∧
    c.unit = some u ∧
    s.makeFit core c.foot c.tiles = some (s1, p) ∧
    Sys2Proof.Safety.memoryOk s1 :=
  ⟨0, waitingCore [] [] [] [inFrame 0 (some { saved := Regs.zero })], _, inFrame 0 (some { saved := Regs.zero }), [], _, { saved := Regs.zero }, ⟨by decide +kernel, by decide +kernel⟩, rfl, rfl, woken_one (by decide +kernel), rfl, by decide +kernel, by decide +kernel, rfl, madeFit (by decide +kernel), ⟨by decide +kernel, by decide +kernel, by decide +kernel, by decide +kernel⟩⟩

theorem witness_CoresChooseWorkInOrder_10 : ∃ (core : Nat) (s s1 : State) (w : Crew) (foot tiles : Nat) (p : Room), CoreFree s core ∧
    s.startHigh core = none ∧
    s.continueSuspended core = none ∧
    s.runFirst core (s.woken core) = none ∧
    w ∈ s.crews ∧
    s.crewWaits w core = true ∧
    (∀ v ∈ s.crews, s.crewWaits v core = true → v = w ∨ w.order < v.order) ∧
    s.crewNeed w core = some (foot, tiles) ∧
    s.makeFit core foot tiles = some (s1, p) :=
  ⟨0, { waitingCore [] [] [] [] with crews := [{ aCrew with reserved := [] }] }, _, { aCrew with reserved := [] }, 0, 0, _, ⟨by decide +kernel, by decide +kernel⟩, rfl, rfl, (by simp [State.woken, State.allCtxs, waitingCore, State.reset, State.runFirst]), List.mem_singleton_self _, by decide +kernel, (by intro v h _; exact Or.inl (List.mem_singleton.mp h)), by decide +kernel, madeFit (by decide +kernel)⟩

theorem witness_CoresAndCrewsShareWork_1 : ∃ (core : Nat) (s : State) (c : Context) (r : TaskRec) (id : BitVec 16), s.highReady core = some (r, id) ∧
    s.executing core = some c ∧
    s.ctx? c.key = some c ∧
    c.unit = none ∧
    Sys2Proof.Safety.memoryOk s :=
  ⟨0, waitingCore [aRecord] [] [] [runner []], runner [], aRecord, 0, rfl, rfl, by decide +kernel, rfl, ⟨by decide +kernel, by decide +kernel, by decide +kernel, by decide +kernel⟩⟩

theorem witness_CoresAndCrewsShareWork_2 : ∃ (core : Nat) (s : State) (c : Context), s.inSlot core .h = some c ∧
    s.ctx? c.key = some c ∧
    c.status ≠ .stopped ∧
    s.recordsFull c.key { code := .handlerOverrun } = false ∧
    s.atEnd c = false :=
  ⟨0, waitingCore [] [] [] [handler []], handler [], rfl, by decide +kernel, by decide +kernel, by decide +kernel, by decide +kernel⟩

theorem witness_CoresAndCrewsShareWork_18 : ∃ (core : Nat) (s : State) (c : Context), s.inSlot core .h = some c ∧
    s.atEnd c = true :=
  let p := State.reset.withFetchWord 32 0x37
  let c := { p.cur with slot := some Slot.h }
  ⟨0, { p with cur := c }, c, by decide +kernel, by decide +kernel⟩

theorem witness_CoresAndCrewsShareWork_3 : ∃ (core : Nat) (s : State) (c : Context), s.executing core = some c ∧
    s.ctx? c.key = some c ∧
    c.inH = false ∧
    s.workWaits core = true ∧
    c.unit = none :=
  ⟨0, waitingCore [] [aRecord] [] [runner []], runner [], rfl, by decide +kernel, by decide +kernel, by decide +kernel, rfl⟩

theorem witness_CoresAndCrewsShareWork_4 : ∃ (core : Nat) (s : State) (c : Context), s.executing core = some c ∧
    s.ctx? c.key = some c ∧
    c.inH = false ∧
    s.workWaits core = true ∧
    c.unit.isSome = true :=
  ⟨0, waitingCore [] [aRecord] [] [{ runner [] with unit := some { saved := Regs.zero } }], { runner [] with unit := some { saved := Regs.zero } }, rfl, by decide +kernel, by decide +kernel, by decide +kernel, by decide +kernel⟩

theorem witness_CoresAndCrewsShareWork_5 : ∃ (core : Nat) (s : State), s.executing core = none ∧
    s.canTake core = true ∧
    (s.core core).glean = .idle ∧
    s.chooseWork core = none :=
  ⟨0, State.reset, by decide +kernel, by decide +kernel, by decide +kernel, by decide +kernel⟩

theorem witness_CoresAndCrewsShareWork_6 : ∃ (core v : Nat) (rest : List Nat) (s : State), core ≠ v ∧
    (s.core core).glean = .probing (v :: rest) ∧
    s.canTake core = true ∧
    (s.core v).deque = [] :=
  ⟨0, 1, [], { State.reset with cores := [{ num := 0, glean := .probing [1] }] }, by decide +kernel, rfl, by decide +kernel, rfl⟩

theorem witness_CoresAndCrewsShareWork_7 : ∃ (core v : Nat) (rest : List Nat) (s : State), core ≠ v ∧
    (s.core core).glean = .probing (v :: rest) ∧
    ∃ r, s.canTake core = true ∧
    s.apart (dieOf core) (dieOf v) = false ∧
    (s.core v).deque.getLast? = some r ∧
    s.couldFit core r.foot r.tiles = true ∧
    s.launchSuspended r.launch = false ∧
    s.coreLost v = false :=
  ⟨0, 1, [], { State.reset with cores := [{ num := 0, glean := .probing [1] }, { num := 1, deque := [aRecord] }] }, by decide +kernel, rfl, aRecord, by decide +kernel, by decide +kernel, rfl, by decide +kernel, by decide +kernel, by decide +kernel⟩

theorem witness_CoresAndCrewsShareWork_8 : ∃ (core : Nat) (r : TaskRec) (s : State) (c : Context), (s.core core).glean = .carrying r ∧
    s.executing core = some c :=
  ⟨0, aRecord, { waitingCore [] [] [] [runner []] with cores := [{ num := 0, glean := .carrying aRecord }] }, runner [], rfl, rfl⟩

theorem witness_CoresAndCrewsShareWork_9 : ∃ (core : Nat) (r : TaskRec) (s s1 : State) (id : BitVec 16) (p : Room), (s.core core).glean = .carrying r ∧
    s.executing core = none ∧
    s.canTake core = true ∧
    s.recordHeld r = false ∧
    s.freeFrame r.asid = some id ∧
    (s.modCore core (fun k => { k with glean := .idle })).makeFit core r.foot r.tiles = some (s1, p) ∧
    Sys2Proof.Safety.memoryOk s :=
  ⟨0, aRecord, { waitingCore [] [] [] [] with cores := [{ num := 0, glean := .carrying aRecord }] }, _, 0, _, rfl, by decide +kernel, by decide +kernel, by decide +kernel, by decide +kernel, madeFit (by decide +kernel), ⟨by decide +kernel, by decide +kernel, by decide +kernel, by decide +kernel⟩⟩

theorem witness_CoresAndCrewsShareWork_10 : ∃ (i : Nat) (s : State) (x : Transit), s.transit[i]? = some x ∧
    x.kind = 0 :=
  ⟨0, { State.reset with transit := [{ id := 1, core := 5, kind := 0, r := aRecord }] }, { id := 1, core := 5, kind := 0, r := aRecord }, rfl, by decide +kernel⟩

theorem witness_CoresAndCrewsShareWork_11 : ∃ (i core : Nat) (s : State) (x : Transit), s.transit[i]? = some x ∧
    (x.kind = 1 ∨ x.kind = 2) ∧
    s.redirect x.core = some core ∧
    s.inboxRoom core (decide (x.kind = 2)) = true :=
  ⟨0, 5, { State.reset with transit := [{ id := 1, core := 5, kind := 1, r := aRecord }] }, { id := 1, core := 5, kind := 1, r := aRecord }, rfl, Or.inl rfl, by decide +kernel, by decide +kernel⟩

theorem witness_CoresAndCrewsShareWork_12 : ∃ (i core : Nat) (s : State) (x : Transit), s.transit[i]? = some x ∧
    (x.kind = 1 ∨ x.kind = 2) ∧
    s.redirect x.core = some core ∧
    s.inboxRoom core (decide (x.kind = 2)) = false :=
  ⟨0, 5, { sendState false true with transit := [{ id := 1, core := 5, kind := 1, r := aRecord }] }, { id := 1, core := 5, kind := 1, r := aRecord }, rfl, Or.inl rfl, by decide +kernel, by decide +kernel⟩

theorem witness_CoresAndCrewsShareWork_13 : ∃ (crew : Nat) (s s1 : State) (w : Crew), s.crews.find? (fun x => x.id == crew) = some w ∧
    w.started = false ∧
    s.launchSuspended w.launch = false ∧
    (∀ m ∈ w.members, s.canTake m.1 = true ∧ (∃ r ∈ w.reserved, r.1 = m.1) ∧ s.handlerLoading m.2 = false) ∧
    s.startMembers w w.members = some s1 :=
  ⟨1, { waitingCore [] [] [] [] with crews := [aCrew] }, _, aCrew, rfl, by decide +kernel, by decide +kernel, by decide +kernel, got (by decide +kernel)⟩

theorem witness_CoresAndCrewsShareWork_14 : ∃ (crew : Nat) (s : State) (w : Crew), s.crews.find? (fun x => x.id == crew) = some w ∧
    w.keys.filterMap s.ctx? ≠ [] ∧
    (∀ c ∈ w.keys.filterMap s.ctx?, StuckOnChannel s c ∧ s.recordsFull c.key { code := .crewDeadlock } = false) := by
  let x : Context := { runner [] with status := .parked (.channel 7) 1, crew := some 1 }
  let s : State := { holding [x] with crews := [aRunningCrew], chans := [stuckChannel] }
  have e : aRunningCrew.keys.filterMap s.ctx? = [x] := by decide +kernel
  refine ⟨1, s, aRunningCrew, rfl, by rw [e]; simp, ?_⟩
  intro c hc
  rw [e, List.mem_singleton] at hc
  subst hc
  exact ⟨⟨stuckChannel, 1, rfl, rfl, Or.inl ⟨rfl, rfl⟩⟩, by decide +kernel⟩

theorem witness_CoresAndCrewsShareWork_16 : ∃ (crew : Nat) (s : State) (w : Crew), s.crews.find? (fun x => x.id == crew) = some w ∧
    ∃ c ∈ w.keys.filterMap s.ctx?, ¬ StuckOnChannel s c :=
  ⟨1, { holding [runner []] with crews := [aRunningCrew] }, aRunningCrew, rfl, runner [], by decide +kernel, by rintro ⟨ch, n, h, -⟩; cases h⟩

theorem witness_CoresAndCrewsShareWork_15 : ∃ (core v : Nat) (rest : List Nat) (s : State), core ≠ v ∧
    (s.core core).glean = .probing (v :: rest) ∧
    s.canTake core = false :=
  ⟨0, 1, [], { State.reset with cores := [{ num := 0, drained := true, glean := .probing [1] }] }, by decide +kernel, rfl, by decide +kernel⟩

theorem witness_LegacyCommandsRun_1 : ∀ p ∈ ([(.legacyCopy, 1, false), (.legacyFill, 2, true)] : List ((Key → Instr) × Nat × Bool)), ∃ (k : Key) (s : State) (l : Legacy), s.legacyHead k p.2.1 = some l ∧
    ∃ x s0 s1 mig, agentUnit l.src l.dst l.len l.done = some x ∧
    s.legacyAway l [x.src, x.dst] = false ∧
    Migrates s l p.2.2 (.ok mig) s0 ∧
    Gives (agentCopyUnit (s.legacyCtx l) p.2.2 mig x) s0 .done s1 := by
  intro p hp
  simp only [List.mem_cons, List.not_mem_nil, or_false] at hp
  rcases hp with rfl | rfl
  · exact ⟨aKey, legacyState (aLegacy 1 0x10000 0x20000 0 0) 0, aLegacy 1 0x10000 0x20000 0 0, rfl, _, _, _, false, got (by decide +kernel), by decide +kernel, ranOkAs (by decide +kernel), ranAs (by decide +kernel)⟩
  · exact ⟨aKey, legacyState (aLegacy 2 0x10000 0x20000 0 0) 1, aLegacy 2 0x10000 0x20000 0 0, rfl, _, _, _, false, got (by decide +kernel), by decide +kernel, ranOkAs (by decide +kernel), ranAs (by decide +kernel)⟩

theorem witness_LegacyCommandsRun_2 : ∀ p ∈ ([(.legacyCopy, 1, false), (.legacyFill, 2, true)] : List ((Key → Instr) × Nat × Bool)), ∃ (k : Key) (s : State) (l : Legacy), s.legacyHead k p.2.1 = some l ∧
    ∃ x s0 s1 f, agentUnit l.src l.dst l.len l.done = some x ∧
    s.legacyAway l [x.src, x.dst] = false ∧
    ((∃ mig, Migrates s l p.2.2 (.ok mig) s0 ∧ Gives (agentCopyUnit (s.legacyCtx l) p.2.2 mig x) s0 (.fault f) s1) ∨ Migrates s l p.2.2 (.error f) s1) := by
  intro p hp
  simp only [List.mem_cons, List.not_mem_nil, or_false] at hp
  rcases hp with rfl | rfl
  · exact ⟨aKey, legacyState (aLegacy 1 0x30000 0x20000 0 0) 0, aLegacy 1 0x30000 0x20000 0 0, rfl, _, _, _, { code := .translation, addr := 0x30000, level := 5, cause := 1, size := 2 ^ 48 }, got (by decide +kernel), by decide +kernel, Or.inl ⟨false, ranOkAs (by decide +kernel), ranAs (by decide +kernel)⟩⟩
  · exact ⟨aKey, legacyState (aLegacy 2 0x30000 0x20000 0 0) 1, aLegacy 2 0x30000 0x20000 0 0, rfl, _, _, _, { code := .translation, addr := 0x30000, level := 5, cause := 1, size := 2 ^ 48 }, got (by decide +kernel), by decide +kernel, Or.inl ⟨false, ranOkAs (by decide +kernel), ranAs (by decide +kernel)⟩⟩

theorem witness_LegacyCommandsRun_3 : ∀ p ∈ ([(.legacyCopy, 1, false), (.legacyFill, 2, true)] : List ((Key → Instr) × Nat × Bool)), ∃ (k : Key) (s : State) (l : Legacy), s.legacyHead k p.2.1 = some l ∧
    agentUnit l.src l.dst l.len l.done = none ∧
    l.cell = 0 := by
  intro p hp
  simp only [List.mem_cons, List.not_mem_nil, or_false] at hp
  rcases hp with rfl | rfl
  · exact ⟨aKey, legacyState (aLegacy 1 0x10000 0x20000 0 1) 0, aLegacy 1 0x10000 0x20000 0 1, rfl, by decide +kernel, by decide +kernel⟩
  · exact ⟨aKey, legacyState (aLegacy 2 0x10000 0x20000 0 1) 1, aLegacy 2 0x10000 0x20000 0 1, rfl, by decide +kernel, by decide +kernel⟩

theorem witness_LegacyCommandsRun_4 : ∀ p ∈ ([(.legacyCopy, 1, false), (.legacyFill, 2, true)] : List ((Key → Instr) × Nat × Bool)), ∃ (k : Key) (s : State) (l : Legacy), s.legacyHead k p.2.1 = some l ∧
    ∃ s1, agentUnit l.src l.dst l.len l.done = none ∧
    l.cell ≠ 0 ∧
    Gives (agentJoin (s.legacyCtx l) l.cell.toNat) s none s1 := by
  intro p hp
  simp only [List.mem_cons, List.not_mem_nil, or_false] at hp
  rcases hp with rfl | rfl
  · exact ⟨aKey, legacyState (aLegacy 1 0x10000 0x20000 0x20000 1) 3, aLegacy 1 0x10000 0x20000 0x20000 1, rfl, _, by decide +kernel, by decide +kernel, ranAs (by decide +kernel)⟩
  · exact ⟨aKey, legacyState (aLegacy 2 0x10000 0x20000 0x20000 1) 3, aLegacy 2 0x10000 0x20000 0x20000 1, rfl, _, by decide +kernel, by decide +kernel, ranAs (by decide +kernel)⟩

theorem witness_LegacyCommandsRun_5 : ∃ (k : Key) (s s1 : State) (l : Legacy) (r : TaskRec) (core : Nat), s.legacyHead k 3 = some l ∧
    l.done = 0 ∧
    s.legacyAway l [l.src.toNat] = false ∧
    Gives (agentRecord (s.legacyCtx l) 0 l.src.toNat) s (.ok r) s1 ∧
    s1.redirect (l.dst.toNat % 1024) = some core ∧
    s1.inboxRoom core (decide (r.cls = 1)) = true :=
  ⟨aKey, legacyState (aLegacy 3 0x20000 5 0 0) 0, _, aLegacy 3 0x20000 5 0 0, _, 5, rfl, rfl, by decide +kernel, ranOk (by decide +kernel), by decide +kernel, by decide +kernel⟩

theorem witness_LegacyCommandsRun_8 : ∃ (k : Key) (s s1 : State) (l : Legacy), s.legacyHead k 3 = some l ∧
    l.done ≠ 0 ∧
    l.cell ≠ 0 ∧
    Gives (agentJoin (s.legacyCtx l) l.cell.toNat) s none s1 :=
  ⟨aKey, legacyState (aLegacy 3 0x20000 5 0x20000 1) 3, _, aLegacy 3 0x20000 5 0x20000 1, rfl, by decide, by decide, ranAs (by decide +kernel)⟩

theorem witness_LegacyCommandsRun_6 : ∃ (k : Key) (s s1 : State) (l : Legacy) (f : FaultInfo), s.legacyHead k 3 = some l ∧
    l.done = 0 ∧
    s.legacyAway l [l.src.toNat] = false ∧
    Gives (agentRecord (s.legacyCtx l) 0 l.src.toNat) s (.error f) s1 :=
  ⟨aKey, legacyState (aLegacy 3 0x30000 5 0 0) 0, _, aLegacy 3 0x30000 5 0 0, _, rfl, rfl, by decide +kernel, ranErr (by decide +kernel)⟩

theorem witness_LegacyCommandsRun_7 : ∀ p ∈ ([(.legacyCopy, 1, false), (.legacyFill, 2, true)] : List ((Key → Instr) × Nat × Bool)), ∃ (k : Key) (s : State) (l : Legacy), s.legacyHead k p.2.1 = some l ∧
    ∃ x, agentUnit l.src l.dst l.len l.done = some x ∧
    s.legacyAway l [x.src, x.dst] = true := by
  intro p hp
  simp only [List.mem_cons, List.not_mem_nil, or_false] at hp
  rcases hp with rfl | rfl
  · exact ⟨aKey, { legacyState (aLegacy 1 0x7FFFFFE00000 0x20000 0 0) 0 with cur := { sysRunner [] with slot := none } }, aLegacy 1 0x7FFFFFE00000 0x20000 0 0, rfl, _, got (by decide +kernel), by decide +kernel⟩
  · exact ⟨aKey, { legacyState (aLegacy 2 0x7FFFFFE00000 0x20000 0 0) 1 with cur := { sysRunner [] with slot := none } }, aLegacy 2 0x7FFFFFE00000 0x20000 0 0, rfl, _, got (by decide +kernel), by decide +kernel⟩

theorem witness_LaunchQueuesAreServed_1 : ∃ (q : Fin 64) (s s2 : State) (ws : List Word) (r : TaskRec), s.nextEntry q = some ws ∧
    entryKind ws = 1 ∧
    s.entryOk ws = true ∧
    Gives (agentRecord (agentCtx (entryAsid ws) true 0) s.nextSeq (entryAddr ws)) (entryTaken s q ws) (.ok r) s2 ∧
    s.handlerLoading r = false :=
  ⟨0, queueState 0 [(0x50000, 1), (0x50002, 1), (0x50012, 2)], _, _, _, got (by decide +kernel), by decide +kernel, by decide +kernel, ranOk (by decide +kernel), by decide +kernel⟩

theorem witness_LaunchQueuesAreServed_2 : ∀ p ∈ ([(.launchRecord, 1), (.launchGraph, 2), (.launchImageLoad, 3)] : List ((Fin 64 → Instr) × Nat)), ∃ (q : Fin 64) (s : State) (ws : List Word), s.nextEntry q = some ws ∧
    entryKind ws = p.2 ∧
    s.entryOk ws = false ∧
    (∀ l ∈ s.launches, l.id ≠ s.nextSeq) ∧
    s.mem.wf = true := by
  intro p hp
  simp only [List.mem_cons, List.not_mem_nil, or_false] at hp
  rcases hp with rfl | rfl | rfl
  · exact ⟨0, { State.reset with queues := Vector.replicate 64 aQueue, mem := { cells := [(0x50000, 1)] } }, _, got (by decide +kernel), by decide +kernel, by decide +kernel, by decide +kernel, by decide +kernel⟩
  · exact ⟨0, { State.reset with queues := Vector.replicate 64 aQueue, mem := { cells := [(0x50000, 2)] } }, _, got (by decide +kernel), by decide +kernel, by decide +kernel, by decide +kernel, by decide +kernel⟩
  · exact ⟨0, { State.reset with queues := Vector.replicate 64 aQueue, mem := { cells := [(0x50000, 3)] } }, _, got (by decide +kernel), by decide +kernel, by decide +kernel, by decide +kernel, by decide +kernel⟩

theorem witness_LaunchQueuesAreServed_3 : ∃ (q : Fin 64) (s s2 : State) (ws : List Word) (ns : List (GNode × Option (Nat × Nat × Nat))), s.nextEntry q = some ws ∧
    entryKind ws = 2 ∧
    s.entryOk ws = true ∧
    Gives (readNodes (agentCtx (entryAsid ws) true (192 * wbits (nodeWord ws 3) 16 2)) (entryAddr ws) 0 (entryNodes ws)) (entryTaken s q ws) (.ok ns) s2 :=
  ⟨0, queueState 0 [(0x50000, 2), (0x50002, 1), (0x50012, 1), (0x50018, 1)], _, _, _, got (by decide +kernel), by decide +kernel, by decide +kernel, ranOk (by decide +kernel)⟩

theorem witness_LaunchQueuesAreServed_4 : ∃ (q : Fin 64) (s t : State) (ws : List Word), s.nextEntry q = some ws ∧
    entryKind ws = 3 ∧
    s.entryOk ws = true ∧
    (entryTaken s q ws).loadImage s.nextSeq (entryAsid ws) (entryAddr ws) = some t :=
  ⟨0, queueState 0 [(0x40000, 75), (0x40001, 87), (0x40002, 66), (0x40003, 88), (0x40004, 73), (0x40005, 77), (0x40006, 71), (0x40007, 1), (0x40008, 1), (0x4000C, 1), (0x40010, 64), (0x50000, 3), (0x50002, 1), (0x50012, 2)], _, _, got (by decide +kernel), by decide +kernel, by decide +kernel, got (by decide +kernel)⟩

theorem witness_LaunchQueuesAreServed_5 : ∃ (load core image : Nat) (s : State) (l : Load), s.loads.find? (fun x => x.id == load) = some l ∧
    l.placed.find? (fun p => p.1 == core) = some (core, image) ∧
    s.served l core = false ∧
    (s.sender l.edges l.edges.length core = 0xFFFF ∨ s.sender l.edges l.edges.length core ∈ l.acked) ∧
    (∀ e ∈ elderSiblings l.edges core, s.served l e = true) :=
  ⟨1, 0, 0, { State.reset with loads := [{ aLoadOf [(0, 0)] with imageText := [(0, 0x10000, 4096)] }] }, { aLoadOf [(0, 0)] with imageText := [(0, 0x10000, 4096)] }, rfl, rfl, by decide +kernel, Or.inl (by decide +kernel), by decide +kernel⟩

theorem witness_LaunchQueuesAreServed_6 : ∃ (load : Nat) (q : Fin 64) (s : State) (l : Load) (x : Launch), s.loads.find? (fun y => y.id == load) = some l ∧
    (∀ p ∈ l.placed, s.served l p.1 = true) ∧
    s.launch? l.launch = some x ∧
    x.queue = some q ∧
    s.mem.wf = true :=
  ⟨1, 0, { State.reset with loads := [aLoadOf []], launches := [aLaunch] }, aLoadOf [], aLaunch, rfl, by decide +kernel, rfl, rfl, by decide +kernel⟩

theorem witness_LaunchQueuesAreServed_7 : ∃ (q : Fin 64) (tail : BitVec 32) (s : State), s.queues[q].tearing = false :=
  ⟨0, 1, State.reset, by decide +kernel⟩

theorem witness_LaunchQueuesAreServed_8 : ∃ (q : Fin 64) (s : State), s.queues[q].tearing = true :=
  ⟨0, { State.reset with queues := Vector.replicate 64 { tearing := true } }, by decide +kernel⟩

theorem witness_LaunchQueuesAreServed_9 : ∃ (q : Fin 64) (s : State) (c : Context) (l : Launch), c ∈ s.allCtxs ∧
    s.launches.find? (fun x => x.id == c.launch) = some l ∧
    l.queue = some q ∧
    c.insideUnit = true ∧
    (s.allCtxs.map Context.key).Nodup :=
  ⟨0, { with1 { runner [] with unit := some { saved := Regs.zero } } with launches := [aLaunch] }, _, aLaunch, List.mem_singleton_self _, rfl, rfl, by decide +kernel, by decide +kernel⟩

theorem witness_LaunchQueuesAreServed_10 : ∃ (q : Fin 64) (s : State), (∀ c ∈ s.allCtxs, ∀ l ∈ s.launches, l.queue = some q → c.launch = l.id → c.insideUnit = false) ∧
    (s.allCtxs.map Context.key).Nodup :=
  ⟨0, State.reset, (by intro c h; cases h), by decide +kernel⟩

theorem witness_TheHostReadsAndWrites_1 : ∃ (x : BitVec 64) (s : State), x.getLsbD 4 = true :=
  ⟨16, State.reset, by decide +kernel⟩

theorem witness_TheHostReadsAndWrites_2 : ∃ (q : Fin 64) (x : BitVec 64) (s : State), s.queues[q].tearing = true :=
  ⟨0, 0, { State.reset with queues := Vector.replicate 64 { tearing := true } }, by decide +kernel⟩

theorem witness_TheHostReadsAndWrites_3 : ∀ p ∈ bar0Table, ∃ (q : Fin 64) (x : BitVec 64) (s : State), (p.1 = 0x10 → s.queues[q].tearing = false) := by
  intro p hp
  exact ⟨0, 0, State.reset, fun _ => by decide +kernel⟩

theorem witness_TheHostReadsAndWrites_4 : ∃ (q : Fin 64) (x : BitVec 64) (s : State), x.getLsbD 1 = s.queues[q].suspend ∧
    x.getLsbD 2 = false :=
  ⟨0, 0, State.reset, by decide +kernel, by decide +kernel⟩

theorem witness_TheHostReadsAndWrites_5 : ∃ (off : BitVec 48) (data : BitVec 512) (l : Leaf) (s s1 : State), HostPage s .write off l s1 ∧
    l.ty = 1 ∧
    s1.homeCode l off.toNat = none ∧
    l.jblock = false ∧
    (let line := l.line off.toNat
   (let high := decide (off.toNat % 128 = 64)
   (∀ h ∈ s1.halves, h.1 ≠ line) ∧
    s1.halves.length < 4096)) :=
  ⟨0x20000, 0, leafAt 0x40000 1, hostState 1 0 [], _, ⟨by decide +kernel, by decide +kernel, ranOkAs (by decide +kernel)⟩, rfl, by decide +kernel, rfl, (by intro h e; cases e), by decide +kernel⟩

theorem witness_TheHostReadsAndWrites_6 : ∃ (off : BitVec 48) (data : BitVec 512) (l : Leaf) (s s1 : State), HostPage s .write off l s1 ∧
    l.ty = 1 ∧
    s1.homeCode l off.toNat = none ∧
    l.jblock = false ∧
    (let line := l.line off.toNat
   (let high := decide (off.toNat % 128 = 64)
   (∃ h ∈ s1.halves, h.1 = line) ∧
    (∀ h ∈ s1.halves, h.1 = line → h.2.1 = high))) :=
  ⟨0x20000, 0, leafAt 0x40000 1, hostState 1 0 [(0x800, false, 5)], _, ⟨by decide +kernel, by decide +kernel, ranOkAs (by decide +kernel)⟩, rfl, by decide +kernel, rfl, ⟨_, List.mem_singleton_self _, by decide +kernel⟩, by decide +kernel⟩

theorem witness_TheHostReadsAndWrites_7 : ∃ (off : BitVec 48) (data : BitVec 512) (l : Leaf) (s s1 : State), HostPage s .write off l s1 ∧
    l.ty = 1 ∧
    s1.homeCode l off.toNat = none ∧
    l.jblock = false ∧
    (let line := l.line off.toNat
   (let high := decide (off.toNat % 128 = 64)
   (∀ h ∈ s1.halves, h.1 ≠ line) ∧
    4096 ≤ s1.halves.length)) :=
  ⟨0x20000, 0, leafAt 0x40000 1, hostState 1 0 (List.replicate 4096 (0x900, false, 5)), _, ⟨by decide +kernel, by decide +kernel, ranOkAs (by decide +kernel)⟩, rfl, by decide +kernel, rfl, (by intro h e; cases List.eq_of_mem_replicate e; decide +kernel), by decide +kernel⟩

theorem witness_TheHostReadsAndWrites_8 : ∃ (off : BitVec 48) (data : BitVec 512) (l : Leaf) (s s1 : State), HostPage s .write off l s1 ∧
    l.ty = 1 ∧
    s1.homeCode l off.toNat = none ∧
    l.jblock = false ∧
    (let line := l.line off.toNat
   (let high := decide (off.toNat % 128 = 64)
   ∃ other : BitVec 512, s1.halves.find? (fun h => h.1 == line && h.2.1 != high) = some (line, !high, other) ∧
    mdState (s1.md.read line) ≠ 0 ∧
    l.cnt = false ∧
    s1.gatewaysHold line = false ∧
    Sys2Proof.Safety.memoryOk s1 ∧
    (let half (i : Bool) : Nat := if high = i then data.toNat else other.toNat
   (mdState (s1.md.read line) = 2 ∨ s1.mem.readN (128 * line) 128 ≠ half false + half true * 2 ^ 512)))) :=
  ⟨0x20000, 0, leafAt 0x40000 1, hostState 1 (mdOf false 1 false 1) [(0x800, true, 5)], _, ⟨by decide +kernel, by decide +kernel, ranOkAs (by decide +kernel)⟩, rfl, by decide +kernel, rfl, 5, by decide +kernel, by decide +kernel, rfl, by decide +kernel, ⟨by decide +kernel, by decide +kernel, by decide +kernel, by decide +kernel⟩, Or.inr (by decide +kernel)⟩

theorem witness_TheHostReadsAndWrites_9 : ∃ (off : BitVec 48) (data : BitVec 512) (l : Leaf) (s s1 : State), HostPage s .write off l s1 ∧
    l.ty = 1 ∧
    s1.homeCode l off.toNat = none ∧
    l.jblock = false ∧
    (let line := l.line off.toNat
   (let high := decide (off.toNat % 128 = 64)
   ∃ other : BitVec 512, s1.halves.find? (fun h => h.1 == line && h.2.1 != high) = some (line, !high, other) ∧
    mdState (s1.md.read line) = 0 ∧
    l.cnt = false ∧
    Sys2Proof.Safety.memoryOk s1)) :=
  ⟨0x20000, 0, leafAt 0x40000 1, hostState 1 0 [(0x800, true, 5)], _, ⟨by decide +kernel, by decide +kernel, ranOkAs (by decide +kernel)⟩, rfl, by decide +kernel, rfl, 5, by decide +kernel, by decide +kernel, rfl, ⟨by decide +kernel, by decide +kernel, by decide +kernel, by decide +kernel⟩⟩

theorem witness_TheHostReadsAndWrites_11 : ∃ (off : BitVec 48) (l : Leaf) (s s1 : State), HostPage s .read off l s1 ∧
    s1.homeCode l off.toNat = none ∧
    hostReadable l.ty (s1.md.read (l.line off.toNat)) = true :=
  ⟨0x20000, leafAt 0x40000 3, hostState 3 (mdOf false 3 false 2) [], _, ⟨by decide +kernel, by decide +kernel, ranOkAs (by decide +kernel)⟩, by decide +kernel, by decide +kernel⟩

theorem witness_TheHostReadsAndWrites_12 : ∃ (off : BitVec 48) (l : Leaf) (s s1 : State), HostPage s .read off l s1 ∧
    s1.homeCode l off.toNat = none ∧
    hostReadable l.ty (s1.md.read (l.line off.toNat)) = false :=
  ⟨0x20000, leafAt 0x40000 3, hostState 3 0 [], _, ⟨by decide +kernel, by decide +kernel, ranOkAs (by decide +kernel)⟩, by decide +kernel, by decide +kernel⟩

theorem witness_TheHostReadsAndWrites_10 : ∃ (off : BitVec 48) (data : BitVec 512) (l : Leaf) (s s1 : State), HostPage s .write off l s1 ∧
    l.ty ≠ 1 :=
  ⟨0x20000, 0, leafAt 0x40000 3, hostState 3 0 [], _, ⟨by decide +kernel, by decide +kernel, ranOkAs (by decide +kernel)⟩, by decide +kernel⟩

theorem witness_TheHostReadsAndWrites_13 : ∃ s : State, (s.counters.map Prod.fst).Nodup :=
  ⟨State.reset, by decide +kernel⟩

theorem witness_MemoryDiesGoOffline_1 : ∃ (die : Fin 8) (s : State), MayEmpty s die ∧
    (s.offlinePlan die).2.1 = [] :=
  ⟨0, State.reset, ⟨by decide +kernel, by decide +kernel, by decide +kernel⟩, noPlan rfl rfl⟩

theorem witness_MemoryDiesGoOffline_3 : ∃ (die : Fin 8) (s : State), s.emptied.getLsbD die.val = true ∧
    ¬ Overtaken s die :=
  ⟨0, { State.reset with emptied := 1, offline := [(0, false)] }, by decide +kernel, by unfold Overtaken; decide +kernel⟩

theorem witness_MemoryDiesGoOffline_6 : ∃ (die : Fin 8) (s : State), s.emptied.getLsbD die.val = true ∧
    Overtaken s die :=
  ⟨0, { State.reset with emptied := 1, offline := [(0, false)], mgmtOffline := [(0, true)] }, by decide +kernel, by unfold Overtaken; decide +kernel⟩

theorem witness_MemoryDiesGoOffline_4 : ∃ (a b n : Nat) (s : State), Sys2Proof.Safety.memoryOk s ∧
    a % 128 = 0 ∧
    b % 128 = 0 ∧
    n % 128 = 0 ∧
    (a + n ≤ b ∨ b + n ≤ a) ∧
    (∀ l ∈ s.allLeaves, l.2.2.1 + 16 ≤ b ∨ b + n ≤ l.2.2.1) ∧
    ∃ o, o < n :=
  ⟨0, 128, 128, State.reset, ⟨by decide +kernel, by decide +kernel, by decide +kernel, by decide +kernel⟩, by decide +kernel, by decide +kernel, by decide +kernel, by decide +kernel, noneOf rfl, 0, by decide +kernel⟩

theorem witness_MemoryDiesGoOffline_5 : ∃ (a b n : Nat) (s : State), Sys2Proof.Safety.memoryOk s ∧
    a % 128 = 0 ∧
    b % 128 = 0 ∧
    n % 128 = 0 ∧
    (a + n ≤ b ∨ b + n ≤ a) ∧
    (∀ l ∈ s.allLeaves, l.2.2.1 + 16 ≤ b ∨ b + n ≤ l.2.2.1) ∧
    ∃ k, k < n / 128 :=
  ⟨0, 128, 128, State.reset, ⟨by decide +kernel, by decide +kernel, by decide +kernel, by decide +kernel⟩, by decide +kernel, by decide +kernel, by decide +kernel, by decide +kernel, noneOf rfl, 0, by decide +kernel⟩

theorem witness_ThePackageIsManaged_1 : ∃ (qs : List Nat) (s : State), (∀ q ∈ qs, q < 192) :=
  ⟨[5], State.reset, by decide +kernel⟩

theorem witness_ThePackageIsManaged_2 : ∃ (die : Fin 4) (s : State), (s.allCtxs.map Context.key).Nodup :=
  ⟨0, State.reset, by decide +kernel⟩

theorem witness_ThePackageIsManaged_3 : ∃ s : State, (∀ bd, bd < 4 → s.bdLost bd = false ∨ s.stoppedDies.getLsbD bd = true) :=
  ⟨State.reset, by decide +kernel⟩

theorem witness_ThePackageIsManaged_4 : ∃ s : State, (s.allCtxs.map Context.key).Nodup :=
  ⟨State.reset, by decide +kernel⟩

theorem witness_ThePackageIsManaged_5 : ∃ s : State, s.standbyDown = false :=
  ⟨State.reset, by decide +kernel⟩

theorem witness_ThePackageIsManaged_6 : ∃ s : State, s.standbyDown = true :=
  ⟨{ State.reset with standbyDown := true }, by decide +kernel⟩

theorem witness_ThePackageIsManaged_7 : ∃ s : State, s.bdLost 2 = true :=
  ⟨{ State.reset with fencedBase := 4 }, by decide +kernel⟩

theorem witness_ThePackageIsManaged_8 : ∃ s : State, s.bdLost 2 = false :=
  ⟨State.reset, by decide +kernel⟩

theorem witness_ThePackageIsManaged_9 : ∃ (id : BitVec 12) (s : State), s.bar1.pkgvalid = false :=
  ⟨7, State.reset, by decide +kernel⟩

theorem witness_ThePackageIsManaged_10 : ∃ (id : BitVec 12) (s : State), s.bar1.pkgvalid = true :=
  ⟨7, { State.reset with bar1 := { pkgvalid := true } }, by decide +kernel⟩

theorem witness_ThePackageIsManaged_11 : ∃ (die : Fin 4) (m : Fin 8) (f : Bool) (s : State),
    (s.allCtxs.map Context.key).Nodup ∧ (m, f) ∈ s.offline ∧ m.val / 2 = die.val :=
  ⟨0, 1, false, { State.reset with offline := [(1, false)] }, by decide +kernel⟩

theorem witness_ThePackageIsManaged_12 : ∃ (die : Fin 4) (c : Context) (s : State),
    (s.allCtxs.map Context.key).Nodup ∧ c ∈ s.allCtxs ∧ dieOf c.core = die.val :=
  ⟨0, placedContext 0, { State.reset with cur := placedContext 0, busy := true }, by decide +kernel,
    by simp [State.allCtxs], rfl⟩

theorem witness_ErrorsPoisonOrMark_1 : ∃ (pa : Nat) (s : State), Sys2Proof.Safety.memoryOk s ∧
    s.invalidating (pa / 128) = false ∧
    (∀ r ∈ s.replicas, r.snap.line ≠ pa / 128) :=
  ⟨0, State.reset, ⟨by decide +kernel, by decide +kernel, by decide +kernel, by decide +kernel⟩, by decide +kernel, by decide +kernel⟩

theorem witness_ErrorsPoisonOrMark_2 : ∃ (pa n : Nat) (s : State), s.mem.wf = true :=
  ⟨0, 8, State.reset, by decide +kernel⟩

theorem witness_ErrorsPoisonOrMark_3 : ∃ (core off n : Nat) (s : State), core < 768 ∧
    off + n ≤ 2 ^ 21 ∧
    s.scratch.wf = true :=
  ⟨5, 0, 8, State.reset, by decide +kernel, by decide +kernel, by decide +kernel⟩

theorem witness_ErrorsPoisonOrMark_4 : ∃ (core w : Nat) (s : State), core < 768 ∧
    w < 2 ^ 16 ∧
    s.acc.wf = true :=
  ⟨5, 0, State.reset, by decide +kernel, by decide +kernel, by decide +kernel⟩

theorem witness_ErrorsPoisonOrMark_5 : ∃ (k : Key) (n : Fin 32) (s : State) (c : Context), s.ctx? k = some c :=
  ⟨aKey, 3, holding [runner []], runner [], rfl⟩

theorem witness_ErrorsPoisonOrMark_6 : ∃ (k : Key) (n : Fin 16) (l : Fin 128) (s : State) (c : Context), s.ctx? k = some c :=
  ⟨aKey, 3, 5, holding [runner []], runner [], rfl⟩

theorem witness_ErrorsPoisonOrMark_7 : ∃ (core va : Nat) (s : State) (c : Context), s.executing core = some c :=
  ⟨0, 0, holding [runner []], runner [], rfl⟩

theorem witness_ErrorsPoisonOrMark_8 : ∃ (pa : Nat) (s : State), (s.invalidating (pa / 128) = true ∨ ∃ r ∈ s.replicas, r.snap.line = pa / 128) :=
  ⟨0x40000, { State.reset with replicas := [aReplica] }, Or.inr ⟨aReplica, by decide +kernel, by decide +kernel⟩⟩

theorem witness_ErrorsPoisonOrMark_9 : ∃ (k : Key) (n : Fin 16) (s : State) (c : Context), s.ctx? k = some c :=
  ⟨aKey, 3, holding [runner []], runner [], rfl⟩

theorem witness_ErrorsPoisonOrMark_10 : ∃ (k : Key) (n : Fin 8) (l : Fin 128) (s : State) (c : Context), s.ctx? k = some c :=
  ⟨aKey, 3, 5, holding [runner []], runner [], rfl⟩

theorem witness_ErrorsPoisonOrMark_13 : ∃ (k : Key) (n : Fin 8) (s : State) (c : Context), s.ctx? k = some c :=
  ⟨aKey, 3, holding [runner []], runner [], rfl⟩

theorem witness_ErrorsPoisonOrMark_11 : ∃ (k : Key) (off n : Nat) (s : State) (c : Context), s.ctx? k = some c ∧
    c.inH = true ∧
    off + n ≤ 256 ∧
    c.area.wf = true :=
  ⟨aKey, 0, 256, holding [handler []], handler [], rfl, rfl, by decide +kernel, by decide +kernel⟩

theorem witness_ErrorsPoisonOrMark_12 : ∃ (chan i : Nat) (l : Fin 128) (s : State) (ch : Channel) (v : Vec), s.chans.find? (fun x => x.id == chan) = some ch ∧
    ch.items[i]? = some v :=
  ⟨7, 0, 5, chanState false true 1 [{ bits := 5 }], theChannel true 1 [{ bits := 5 }], { bits := 5 }, rfl, rfl⟩

theorem witness_ConditionWordsAreWritten_1 : ∃ (d a b : Scalar) (s s1 s2 : State) (x y : Val), issues (.cmp d a b) s = true ∧
    srcBound a s ∧
    srcBound b s ∧
    dstBound d s ∧
    Gives (readScalar a) s x s1 ∧
    Gives (readScalar b) s1 y s2 :=
  ⟨.g 4, .g 1, .g 2, plainState, _, _, _, _, by decide +kernel, rfl, rfl, rfl, ran (by decide +kernel), ran (by decide +kernel)⟩

theorem witness_ConditionWordsAreWritten_2 : ∃ (d a : Scalar) (imm : BitVec 13) (s s1 : State) (x : Val), issues (.cmpi d a imm) s = true ∧
    srcBound a s ∧
    dstBound d s ∧
    Gives (readScalar a) s x s1 :=
  ⟨.g 4, .g 1, 5, plainState, _, _, by decide +kernel, rfl, rfl, ran (by decide +kernel)⟩

theorem witness_LdcReadsAFrozenConstant_1 : ∃ (d : Scalar) (imm : BitVec 19) (s : State), issues (.ldc d imm) s = true ∧
    dstBound d s ∧
    (let e := constantAt s imm
   (e % 8 ≠ 0 ∨ 2 ^ 48 ≤ e ∨ windowOf e ≠ .global)) :=
  ⟨.g 4, 1, plainState, by decide +kernel, rfl, Or.inl (by decide +kernel)⟩

theorem witness_LdcReadsAFrozenConstant_2 : ∃ (d : Scalar) (imm : BitVec 19) (s : State), issues (.ldc d imm) s = true ∧
    dstBound d s ∧
    (let e := constantAt s imm
   e % 8 = 0 ∧
    e < 2 ^ 48 ∧
    windowOf e = .global ∧
    ∃ (f : FaultInfo) (s1 : State), Gives (tryTranslate s.cur.core s.cur.asid s.cur.sys .read e) s (.error f) s1) :=
  ⟨.g 4, 0, plainState, by decide +kernel, rfl, by decide +kernel, by decide +kernel, by decide +kernel, _, _, ranErr (by decide +kernel)⟩

theorem witness_LdcReadsAFrozenConstant_3 : ∃ (d : Scalar) (imm : BitVec 19) (s : State), issues (.ldc d imm) s = true ∧
    dstBound d s ∧
    (let e := constantAt s imm
   e % 8 = 0 ∧
    e < 2 ^ 48 ∧
    windowOf e = .global ∧
    ∃ (l : Leaf) (s1 : State), Gives (tryTranslate s.cur.core s.cur.asid s.cur.sys .read e) s (.ok l) s1 ∧
    l.ty ≠ 1) :=
  ⟨.g 4, 0x8000, constState 3 0, by decide +kernel, rfl, by decide +kernel, by decide +kernel, by decide +kernel, leafAt 0x40000 3, _, ranOkAs (by decide +kernel), by decide +kernel⟩

theorem witness_LdcReadsAFrozenConstant_4 : ∃ (d : Scalar) (imm : BitVec 19) (s : State), issues (.ldc d imm) s = true ∧
    dstBound d s ∧
    (let e := constantAt s imm
   e % 8 = 0 ∧
    e < 2 ^ 48 ∧
    windowOf e = .global ∧
    ∃ (l : Leaf) (s1 : State), Gives (tryTranslate s.cur.core s.cur.asid s.cur.sys .read e) s (.ok l) s1 ∧
    l.ty = 1 ∧
    s1.homeCode l e (dieOf s1.cur.core) = none ∧
    s1.gateFor s1.cur.core (l.key e) = none) :=
  ⟨.g 4, 0x8000, constState 1 (mdOf false 1 false 2), by decide +kernel, rfl, by decide +kernel, by decide +kernel, by decide +kernel, leafAt 0x40000 1, _, ranOkAs (by decide +kernel), by decide +kernel, by decide +kernel, by decide +kernel⟩

theorem witness_LdcReadsAFrozenConstant_5 : ∃ (d : Scalar) (imm : BitVec 19) (s : State), issues (.ldc d imm) s = true ∧
    dstBound d s ∧
    (let e := constantAt s imm
   e % 8 = 0 ∧
    e < 2 ^ 48 ∧
    windowOf e = .global ∧
    ∃ (l : Leaf) (s1 : State), Gives (tryTranslate s.cur.core s.cur.asid s.cur.sys .read e) s (.ok l) s1 ∧
    ∃ (x : LineSnap) (s2 : State), l.ty = 1 ∧
    Gives (readFrozen s1.cur.core s1.cur.asid l e) s1 (.ok x) s2 ∧
    mdPoison x.md = true) :=
  ⟨.g 4, 0x8000, constState 1 (mdOf false 1 true 2), by decide +kernel, rfl, by decide +kernel, by decide +kernel, by decide +kernel, leafAt 0x40000 1, _, ranOkAs (by decide +kernel), _, _, by decide +kernel, ranOk (by decide +kernel), by decide +kernel⟩

theorem witness_LdcReadsAFrozenConstant_6 : ∃ (d : Scalar) (imm : BitVec 19) (s : State), issues (.ldc d imm) s = true ∧
    dstBound d s ∧
    (let e := constantAt s imm
   e % 8 = 0 ∧
    e < 2 ^ 48 ∧
    windowOf e = .global ∧
    ∃ (l : Leaf) (s1 : State), Gives (tryTranslate s.cur.core s.cur.asid s.cur.sys .read e) s (.ok l) s1 ∧
    ∃ (x : LineSnap) (s2 : State), l.ty = 1 ∧
    Gives (readFrozen s1.cur.core s1.cur.asid l e) s1 (.ok x) s2 ∧
    mdPoison x.md = false ∧
    mdState x.md ≠ 2) :=
  ⟨.g 4, 0x8000, constState 1 0, by decide +kernel, rfl, by decide +kernel, by decide +kernel, by decide +kernel, leafAt 0x40000 1, _, ranOkAs (by decide +kernel), _, _, by decide +kernel, ranOk (by decide +kernel), by decide +kernel, by decide +kernel⟩

theorem witness_LdcReadsAFrozenConstant_7 : ∃ (d : Scalar) (imm : BitVec 19) (s : State), issues (.ldc d imm) s = true ∧
    dstBound d s ∧
    (let e := constantAt s imm
   e % 8 = 0 ∧
    e < 2 ^ 48 ∧
    windowOf e = .global ∧
    ∃ (l : Leaf) (s1 : State), Gives (tryTranslate s.cur.core s.cur.asid s.cur.sys .read e) s (.ok l) s1 ∧
    ∃ (x : LineSnap) (s2 : State), l.ty = 1 ∧
    Gives (readFrozen s1.cur.core s1.cur.asid l e) s1 (.ok x) s2 ∧
    mdPoison x.md = false ∧
    mdState x.md = 2 ∧
    ∃ t : State, Gives (writeScalar d { bits := BitVec.ofNat 64 (x.data.toNat / 2 ^ (8 * (e % 128)) % 2 ^ 64) }) s2 () t) :=
  ⟨.g 4, 0x8000, constState 1 (mdOf false 1 false 2), by decide +kernel, rfl, by decide +kernel, by decide +kernel, by decide +kernel, leafAt 0x40000 1, _, ranOkAs (by decide +kernel), _, _, by decide +kernel, ranOk (by decide +kernel), by decide +kernel, by decide +kernel, _, did (by decide +kernel)⟩

theorem witness_WaitbWaitsForItsPhase_1 : ∃ (d off ph : Scalar) (s u : State) (vs : List Val), issues (.waitb d off ph) s = true ∧
    srcBound off s ∧
    srcBound ph s ∧
    dstBound d s ∧
    Operands [off, ph] s vs u ∧
    (nthVal vs 0).mark = false ∧
    (nthVal vs 1).mark = false ∧
    (let o := (nthVal vs 0).bits.toNat
   (2 ^ 21 ≤ o ∨ o % 16 ≠ 0 ∨ ∀ b ∈ u.cur.barriers, b.off ≠ o)) :=
  ⟨.g 4, .g 1, .g 2, with1 (runner [0x40, 0]), _, _, by decide +kernel, rfl, rfl, rfl, ran (by decide +kernel), by decide +kernel, by decide +kernel, Or.inr (Or.inr (by decide +kernel))⟩

theorem witness_WaitbWaitsForItsPhase_2 : ∃ (d off ph : Scalar) (s u : State) (vs : List Val), issues (.waitb d off ph) s = true ∧
    srcBound off s ∧
    srcBound ph s ∧
    dstBound d s ∧
    Operands [off, ph] s vs u ∧
    (nthVal vs 0).mark = false ∧
    (nthVal vs 1).mark = false ∧
    (let o := (nthVal vs 0).bits.toNat
   ∃ b : Barrier, o < 2 ^ 21 ∧
    o % 16 = 0 ∧
    u.cur.barriers.find? (fun x => x.off == o) = some b ∧
    b.phase = (nthVal vs 1).bits.getLsbD 0) :=
  ⟨.g 4, .g 1, .g 2, with1 { runner [0x40, 0] with barriers := [{ off := 0x40, expected := 1, phase := false, flips := 0 }] }, _, _, by decide +kernel, rfl, rfl, rfl, ran (by decide +kernel), by decide +kernel, by decide +kernel, { off := 0x40, expected := 1, phase := false, flips := 0 }, by decide +kernel, by decide +kernel, by decide +kernel, by decide +kernel⟩

theorem witness_WaitbWaitsForItsPhase_3 : ∃ (d off ph : Scalar) (s u : State) (vs : List Val), issues (.waitb d off ph) s = true ∧
    srcBound off s ∧
    srcBound ph s ∧
    dstBound d s ∧
    Operands [off, ph] s vs u ∧
    (nthVal vs 0).mark = false ∧
    (nthVal vs 1).mark = false ∧
    (let o := (nthVal vs 0).bits.toNat
   ∃ b : Barrier, o < 2 ^ 21 ∧
    o % 16 = 0 ∧
    u.cur.barriers.find? (fun x => x.off == o) = some b ∧
    b.phase ≠ (nthVal vs 1).bits.getLsbD 0 ∧
    (let ended := u.cur.cmds.filter (fun m => m.state == .done && m.fault.isSome && !m.delivered &&
                m.kind.barrier == some o && decide (0 < b.flips) && m.phase == some (b.flips - 1))
   ∃ (m : Cmd) (f : FaultInfo), ended.head? = some m ∧
    m.fault = some f ∧
    s.recordsFull s.cur.key f = false)) :=
  ⟨.g 4, .g 1, .g 2, with1 { runner [0x40, 0] with barriers := [{ off := 0x40, expected := 1, phase := true, flips := 1 }], cmds := [aFailedCopy] }, _, _, by decide +kernel, rfl, rfl, rfl, ran (by decide +kernel), by decide +kernel, by decide +kernel, { off := 0x40, expected := 1, phase := true, flips := 1 }, by decide +kernel, by decide +kernel, by decide +kernel, by decide +kernel, aFailedCopy, { code := .translation }, by decide +kernel, by decide +kernel, by decide +kernel⟩

theorem witness_WaitbWaitsForItsPhase_4 : ∃ (d off ph : Scalar) (s u : State) (vs : List Val), issues (.waitb d off ph) s = true ∧
    srcBound off s ∧
    srcBound ph s ∧
    dstBound d s ∧
    Operands [off, ph] s vs u ∧
    (nthVal vs 0).mark = false ∧
    (nthVal vs 1).mark = false ∧
    (let o := (nthVal vs 0).bits.toNat
   ∃ b : Barrier, o < 2 ^ 21 ∧
    o % 16 = 0 ∧
    u.cur.barriers.find? (fun x => x.off == o) = some b ∧
    b.phase ≠ (nthVal vs 1).bits.getLsbD 0 ∧
    (let ended := u.cur.cmds.filter (fun m => m.state == .done && m.fault.isSome && !m.delivered &&
                m.kind.barrier == some o && decide (0 < b.flips) && m.phase == some (b.flips - 1))
   ended = [] ∧
    ∃ t : State, Gives (writeScalar d { bits := if b.phase then 1 else 0 }) u () t)) :=
  ⟨.g 4, .g 1, .g 2, with1 { runner [0x40, 0] with barriers := [{ off := 0x40, expected := 1, phase := true, flips := 1 }] }, _, _, by decide +kernel, rfl, rfl, rfl, ran (by decide +kernel), by decide +kernel, by decide +kernel, { off := 0x40, expected := 1, phase := true, flips := 1 }, by decide +kernel, by decide +kernel, by decide +kernel, by decide +kernel, by decide +kernel, _, did (by decide +kernel)⟩

theorem witness_LaneOperationsComplete_1 : ∀ p ∈ floatTwo, ∃ (t : Fin 8) (d a b : VSpec) (s s1 s2 u : State) (x y : Vec), issues (p.1 t d a b) s = true ∧
    vsrcBound a s ∧ vsrcBound b s ∧ vdstBound d s ∧ Gives (readVec a) s x s1 ∧ Gives (readVec b) s1 y s2 ∧
    Gives (writeVec d x) s2 () u := by
  have h : ∀ p ∈ floatTwo, issues (p.1 0 (.v 1) (.v 2) (.v 3)) plainState = true := by decide +kernel
  exact fun p hp => ⟨0, .v 1, .v 2, .v 3, plainState, _, _, _, _, _, h p hp, rfl, rfl, rfl, ran rfl, ran rfl, ran rfl⟩

theorem witness_LaneOperationsComplete_2 : ∀ p ∈ floatOne, ∃ (t : Fin 8) (d a : VSpec) (s s1 u : State) (x : Vec), issues (p.1 t d a) s = true ∧
    vsrcBound a s ∧ vdstBound d s ∧ Gives (readVec a) s x s1 ∧ Gives (writeVec d x) s1 () u := by
  have h : ∀ p ∈ floatOne, issues (p.1 0 (.v 1) (.v 2)) plainState = true := by decide +kernel
  exact fun p hp => ⟨0, .v 1, .v 2, plainState, _, _, _, h p hp, rfl, rfl, ran rfl, ran rfl⟩

theorem witness_LaneOperationsComplete_3 : ∀ p ∈ [Instr.vfma, .vfms], ∃ (t : Fin 8) (d a b : VSpec) (s s1 s2 u : State) (x y : Vec), issues (p t d a b) s = true ∧
    vsrcBound a s ∧ vsrcBound b s ∧ vdstBound d s ∧ Gives (readVec a) s x s1 ∧ Gives (readVec b) s1 y s2 ∧
    Gives (writeVec d x) s2 () u := by
  have h : ∀ p ∈ [Instr.vfma, .vfms], issues (p 0 (.v 1) (.v 2) (.v 3)) plainState = true := by decide +kernel
  exact fun p hp => ⟨0, .v 1, .v 2, .v 3, plainState, _, _, _, _, _, h p hp, rfl, rfl, rfl, ran rfl, ran rfl, ran rfl⟩

theorem witness_LaneOperationsComplete_4 : ∀ p ∈ intTwo, ∃ (t : Fin 8) (d a b : VSpec) (s s1 s2 u : State) (x y : Vec), issues (p.1 t d a b) s = true ∧
    vsrcBound a s ∧ vsrcBound b s ∧ vdstBound d s ∧ Gives (readVec a) s x s1 ∧ Gives (readVec b) s1 y s2 ∧
    Gives (writeVec d x) s2 () u := by
  have h : ∀ p ∈ intTwo, issues (p.1 0 (.v 1) (.v 2) (.v 3)) plainState = true := by decide +kernel
  exact fun p hp => ⟨0, .v 1, .v 2, .v 3, plainState, _, _, _, _, _, h p hp, rfl, rfl, rfl, ran rfl, ran rfl, ran rfl⟩

theorem witness_LaneOperationsComplete_5 : ∀ p ∈ [Instr.viabs], ∃ (t : Fin 8) (d a : VSpec) (s s1 u : State) (x : Vec), issues (p t d a) s = true ∧
    vsrcBound a s ∧ vdstBound d s ∧ Gives (readVec a) s x s1 ∧ Gives (writeVec d x) s1 () u := by
  have h : ∀ p ∈ [Instr.viabs], issues (p 0 (.v 1) (.v 2)) plainState = true := by decide +kernel
  exact fun p hp => ⟨0, .v 1, .v 2, plainState, _, _, _, h p hp, rfl, rfl, ran rfl, ran rfl⟩

theorem witness_LaneOperationsComplete_6 : ∀ p ∈ shortTwo, ∃ (d b : VSpec) (s s1 s2 u : State) (x y : Vec),
    issues (p.1 d b) s = true ∧ vsrcBound d s ∧ vsrcBound b s ∧ vdstBound d s ∧ Gives (readVec d) s x s1 ∧
    Gives (readVec b) s1 y s2 ∧ Gives (writeVec d x) s2 () u := by
  have h : ∀ p ∈ shortTwo, issues (p.1 (.v 1) (.v 2)) plainState = true := by decide +kernel
  exact fun p hp => ⟨.v 1, .v 2, plainState, _, _, _, _, _, h p hp, rfl, rfl, rfl, ran rfl, ran rfl, ran rfl⟩

theorem witness_LaneOperationsComplete_7 : ∀ p ∈ [Instr.vfmaF32S, .vfmaBf16S, .vmovS],
    ∃ (d b : VSpec) (s s1 s2 s3 u : State) (x y z : Vec),
    issues (p d b) s = true ∧ vsrcBound d s ∧ vsrcBound b s ∧ vdstBound d s ∧ Gives (readVec b) s x s1 ∧
    Gives (readVec (.y 0)) s1 y s2 ∧ Gives (readVec d) s2 z s3 ∧ Gives (writeVec d x) s3 () u := by
  have h : ∀ p ∈ [Instr.vfmaF32S, .vfmaBf16S, .vmovS], issues (p (.v 1) (.v 2)) plainState = true := by decide +kernel
  exact fun p hp => ⟨.v 1, .v 2, plainState, _, _, _, _, _, _, _, h p hp, rfl, rfl, rfl, ran rfl, ran rfl, ran rfl, ran rfl⟩

theorem witness_ConversionsAndPackingComplete_1 : ∀ p ∈ [Instr.vcvtF2x, .vcvtX2f, .vcvtI2x, .vcvtX2i],
    ∃ (fmt : Fin 32) (d a : VSpec) (s s1 u : State) (x : Vec), fmt.val ≠ 25 ∧ fmt.val ≠ 26 ∧ fmt.val < 28 ∧
    issues (p fmt d a) s = true ∧ vsrcBound a s ∧ vdstBound d s ∧ Gives (readVec a) s x s1 ∧
    Gives (writeVec d x) s1 () u := by
  have h : ∀ p ∈ [Instr.vcvtF2x, .vcvtX2f, .vcvtI2x, .vcvtX2i], issues (p 0 (.v 1) (.v 2)) plainState = true := by
    decide +kernel
  exact fun p hp => ⟨0, .v 1, .v 2, plainState, _, _, _, by decide, by decide, by decide, h p hp, rfl, rfl, ran rfl, ran rfl⟩

theorem witness_MaximumAndMinimumOrderZerosAndNans_1 : ∀ q ∈ laneLayouts, ∀ p ∈ [Instr.vmax, .vmin],
    ∃ (d a b : VSpec) (s s1 s2 u : State) (x y : Vec), issues (p q.1 d a b) s = true ∧
    vsrcBound a s ∧ vsrcBound b s ∧ vdstBound d s ∧ Gives (readVec a) s x s1 ∧ Gives (readVec b) s1 y s2 ∧
    Gives (writeVec d x) s2 () u := by
  have h : ∀ q ∈ laneLayouts, ∀ p ∈ [Instr.vmax, .vmin], issues (p q.1 (.v 1) (.v 2) (.v 3)) plainState = true := by
    decide +kernel
  exact fun q hq p hp =>
    ⟨.v 1, .v 2, .v 3, plainState, _, _, _, _, _, h q hq p hp, rfl, rfl, rfl, ran rfl, ran rfl, ran rfl⟩

theorem witness_MaximumAndMinimumOrderZerosAndNans_2 : ∀ p ∈ [Instr.vmaxF32S, .vminF32S],
    ∃ (d b : VSpec) (s s1 s2 u : State) (x y : Vec), issues (p d b) s = true ∧
    vsrcBound d s ∧ vsrcBound b s ∧ vdstBound d s ∧ Gives (readVec d) s x s1 ∧ Gives (readVec b) s1 y s2 ∧
    Gives (writeVec d x) s2 () u := by
  have h : ∀ p ∈ [Instr.vmaxF32S, .vminF32S], issues (p (.v 1) (.v 2)) plainState = true := by decide +kernel
  exact fun p hp => ⟨.v 1, .v 2, plainState, _, _, _, _, _, h p hp, rfl, rfl, rfl, ran rfl, ran rfl, ran rfl⟩

/-- The cases of R171: a NaN against a number, two NaNs, zeros of two signs, two numbers. -/
theorem witness_MaximumAndMinimumOrderZerosAndNans_3 :
    (∃ x y : Nat, Layout.isNan ⟨16, 8, 0x7FC0⟩ x ∧ Layout.isNan ⟨16, 8, 0x7FC0⟩ y) ∧
    (∃ x y : Nat, Layout.isNan ⟨16, 8, 0x7FC0⟩ x ∧ ¬ Layout.isNan ⟨16, 8, 0x7FC0⟩ y) ∧
    (∃ x y : Nat, ¬ Layout.isNan ⟨16, 8, 0x7FC0⟩ x ∧ ¬ Layout.isNan ⟨16, 8, 0x7FC0⟩ y) :=
  ⟨⟨0x7FC1, 0xFFC0, by unfold Layout.isNan; decide, by unfold Layout.isNan; decide⟩,
    ⟨0x7FC1, 0x3F80, by unfold Layout.isNan; decide, by unfold Layout.isNan; decide⟩,
    ⟨0x8000, 0, by unfold Layout.isNan; decide, by unfold Layout.isNan; decide⟩⟩

theorem readN_zero {m : Memory} : ∀ (n a : Nat), (∀ c ∈ m, c.1 < a ∨ a + n ≤ c.1) → m.readN a n = 0 := by
  have hr : ∀ {m : Memory} {a : Nat}, (∀ c ∈ m, c.1 ≠ a) → m.read a = 0 := by
    intro m
    induction m with
    | nil => intros; rfl
    | cons c r ih =>
      intro a h
      rw [Memory.read, if_neg (fun e => h c (by simp) e.symm)]
      exact ih (fun x hx => h x (by simp [hx]))
  intro n
  induction n with
  | zero => intros; rfl
  | succ n ih =>
    intro a h
    rw [Memory.readN, hr (fun c hc e => by have := h c hc; omega), ih (a + 1) (fun c hc => by have := h c hc; omega)]
    rfl

/-- A package with one page of 1 GiB, in address space 0, and a forced request to take its die offline. -/
def onePage : State :=
  { State.reset with
    bar1 := { astbase := 0x10000 }
    mem := { cells := [(0x10000, 1), (0x10002, 2), (0x20000, 1), (0x20001, 0x20), (0x20002, 2), (0x22000, 3)] }
    offline := [(0, true)] }

theorem onePage_leaves : onePage.allLeaves = (onePage.leaves 0 0 0).map (fun l => (0, l.1, l.2.1, l.2.2)) := by
  have h : ∀ a, a < 4095 → onePage.leaves (BitVec.ofNat 12 (a + 1)) 0 0 = [] := by
    intro a ha
    have e : (BitVec.ofNat 12 (a + 1)).toNat = a + 1 := by
      rw [BitVec.toNat_ofNat]
      omega
    have z : onePage.word (onePage.bar1.astbase.toNat + 16 * (BitVec.ofNat 12 (a + 1)).toNat) = 0 := by
      rw [e, State.word, Mem.readN, readN_zero 8]
      · rfl
      · intro c hc
        have b : onePage.bar1.astbase.toNat = 65536 := rfl
        simp only [onePage, List.mem_cons, List.not_mem_nil, or_false] at hc
        rcases hc with rfl | rfl | rfl | rfl | rfl | rfl <;> simp only [b] <;> omega
    unfold State.leaves
    simp only [z]
    rfl
  rw [State.allLeaves, show List.range 4096 = 0 :: (List.range 4095).map Nat.succ from List.range_succ_eq_map,
    List.flatMap_cons, List.flatMap_map]
  rw [show List.flatMap (fun a => (onePage.leaves (BitVec.ofNat 12 a.succ) 0 0).map
    (fun l => (BitVec.ofNat 12 a.succ, l.1, l.2.1, l.2.2))) (List.range 4095) = [] from
    List.flatMap_eq_nil_iff.2 (fun a ha => by rw [h a (List.mem_range.1 ha)]; rfl)]
  exact List.append_nil _

theorem witness_MemoryDiesGoOffline_2 : ∃ (die : Fin 8) (f : Bool) (s : State), MayEmpty s die ∧
    (s.offlinePlan die).2.1 ≠ [] ∧ (die, f) ∈ s.offline := by
  refine ⟨0, true, onePage, ⟨rfl, rfl, by decide +kernel⟩, ?_, List.mem_singleton.2 rfl⟩
  unfold State.offlinePlan State.pagesAt
  rw [onePage_leaves]
  decide +kernel

theorem witness_MemoryDiesGoOffline_8 : ∀ i ∈ ([.offlineRequest, .offlineForced] : List (Fin 8 → Instr)), ∃ (die : Fin 8) (s : State), (s.fencedDies.getLsbD die.val = true ∨ s.emptied.getLsbD die.val = true) ∧
    (s.fencedDies.getLsbD die.val = true ∨ Overtaken s die) := by
  intro i hi
  exact ⟨0, { State.reset with emptied := 1, offline := [(0, false)], mgmtOffline := [(0, true)] }, Or.inr (by decide +kernel), Or.inr (by unfold Overtaken; decide +kernel)⟩

theorem witness_MemoryDiesGoOffline_9 : ∀ i ∈ ([.offlineRequest, .offlineForced] : List (Fin 8 → Instr)), ∃ (die : Fin 8) (s : State), (s.fencedDies.getLsbD die.val = true ∨ s.emptied.getLsbD die.val = true) ∧
    s.fencedDies.getLsbD die.val = false ∧
    ¬ Overtaken s die := by
  intro i hi
  exact ⟨0, { State.reset with emptied := 1, offline := [(0, false)] }, Or.inr (by decide +kernel), by decide +kernel, by unfold Overtaken; decide +kernel⟩

theorem witness_FieldWaitsAndReadsComplete_4 : ∃ (d a t : Scalar) (s s1 u : State) (vs : List Val) (r : Reply) (k : Nat) (first : Word),
    issues (.await d a t) s = true ∧ srcBound a s ∧ srcBound t s ∧ dstBound d s ∧ Operands [a, t] s vs s1 ∧
    (nthVal vs 0).mark = false ∧ s1.cur.reply = some r ∧ r.r = .passed k first ∧
    Gives (writeScalar d { bits := 0, mark := (nthVal vs 1).mark }) s1 () u :=
  ⟨.g 4, .g 1, .g 2, with1 { runner [0x20000, 5] with reply := some { n := 0, r := .passed 0 9 } }, _, _, _,
    { n := 0, r := .passed 0 9 }, 0, 9, by decide +kernel, rfl, rfl, rfl, ran (by decide +kernel), by decide +kernel,
    by decide +kernel, rfl, did (by decide +kernel)⟩

theorem witness_FieldWaitsAndReadsComplete_5 : ∃ (d a : Scalar) (s s1 u : State) (vs : List Val) (r : Reply) (k : Nat) (first : Word),
    issues (.awaitFilled d a) s = true ∧ srcBound a s ∧ dstBound d s ∧ Operands [a] s vs s1 ∧
    (nthVal vs 0).mark = false ∧ s1.cur.reply = some r ∧ r.r = .passed k first ∧
    Gives (writeScalar d { bits := first }) s1 () u :=
  ⟨.g 4, .g 1, with1 { runner [0x20000, 5] with reply := some { n := 0, r := .passed 0 9 } }, _, _, _,
    { n := 0, r := .passed 0 9 }, 0, 9, by decide +kernel, rfl, rfl, ran (by decide +kernel), by decide +kernel,
    by decide +kernel, rfl, did (by decide +kernel)⟩

theorem witness_FieldWaitsAndReadsComplete_6 : ∃ (d a g : Scalar) (s s1 : State) (vs : List Val), issues (.awaitAny d a g) s = true ∧
    srcBound a s ∧
    srcBound g s ∧
    dstBound d s ∧
    Operands [a, g] s vs s1 ∧
    (nthVal vs 0).mark = false ∧
    (nthVal vs 1).mark = false :=
  ⟨.g 4, .g 1, .g 2, plainState, _, _, by decide +kernel, rfl, rfl, rfl, ran (by decide +kernel), by decide +kernel, by decide +kernel⟩

/-- R158, R159, R195, R196: the words of 16 bits. -/
theorem test_decode_16 : ∀ p ∈ ([
    (16, 0b1_101001_01101_0010, .guard true 41 13),
    (16, 0b0_1_01101_01101_0110, .vguard true 13 13),
    (16, 0b0000000000001010, .nop16),
    (16, 0b0000000000011010, .yield16),
    (16, 0b10010_01001_000000, .vaddF32S (.v 9) (.y 2)),
    (16, 0b10010_01001_000100, .vsubF32S (.v 9) (.y 2)),
    (16, 0b10010_01001_001000, .vmulF32S (.v 9) (.y 2)),
    (16, 0b10010_01001_001100, .vfmaF32S (.v 9) (.y 2)),
    (16, 0b10010_01001_010000, .vmaxF32S (.v 9) (.y 2)),
    (16, 0b10010_01001_010100, .vminF32S (.v 9) (.y 2)),
    (16, 0b10010_01001_011000, .vaddBf16S (.v 9) (.y 2)),
    (16, 0b10010_01001_011100, .vfmaBf16S (.v 9) (.y 2)),
    (16, 0b10010_01001_100000, .viaddI32S (.v 9) (.y 2)),
    (16, 0b10010_01001_100100, .visubI32S (.v 9) (.y 2)),
    (16, 0b10010_01001_101000, .viandS (.v 9) (.y 2)),
    (16, 0b10010_01001_101100, .viorS (.v 9) (.y 2)),
    (16, 0b10010_01001_110000, .vixorS (.v 9) (.y 2)),
    (16, 0b10010_01001_110100, .vimaxI32S (.v 9) (.y 2)),
    (16, 0b10010_01001_111000, .vmovS (.v 9) (.y 2)),
    (16, 0b10010_01001_111100, .viminI32S (.v 9) (.y 2))] : List (Nat × Nat × Instr)), decodeTableWord p.1 p.2.1 = some p.2.2 := by
  decide +kernel

/-- R160 to R165 and the encoding tables of spec/09 to spec/11: words of 32 bits, field by field. -/
theorem test_decode_32_1 : ∀ p ∈ ([
    (32, 0b0000000_001011_100110_010101_0000001, .add (.g 21) (.q 6) (.g 11)),
    (32, 0b0000001_001011_100110_010101_0000001, .sub (.g 21) (.q 6) (.g 11)),
    (32, 0b0000010_001011_100110_010101_0000001, .and (.g 21) (.q 6) (.g 11)),
    (32, 0b0000011_001011_100110_010101_0000001, .or (.g 21) (.q 6) (.g 11)),
    (32, 0b0000100_001011_100110_010101_0000001, .xor (.g 21) (.q 6) (.g 11)),
    (32, 0b0000101_001011_100110_010101_0000001, .shl (.g 21) (.q 6) (.g 11)),
    (32, 0b0000110_001011_100110_010101_0000001, .shr (.g 21) (.q 6) (.g 11)),
    (32, 0b0000111_001011_100110_010101_0000001, .sra (.g 21) (.q 6) (.g 11)),
    (32, 0b0001000_001011_100110_010101_0000001, .min (.g 21) (.q 6) (.g 11)),
    (32, 0b0001001_001011_100110_010101_0000001, .max (.g 21) (.q 6) (.g 11)),
    (32, 0b0001010_001011_100110_010101_0000001, .minn (.g 21) (.q 6) (.g 11)),
    (32, 0b0001011_001011_100110_010101_0000001, .maxn (.g 21) (.q 6) (.g 11)),
    (32, 0b0001100_001011_100110_010101_0000001, .mul (.g 21) (.q 6) (.g 11)),
    (32, 0b0001101_001011_100110_010101_0000001, .mulh (.g 21) (.q 6) (.g 11)),
    (32, 0b0001110_001011_100110_010101_0000001, .mulhn (.g 21) (.q 6) (.g 11)),
    (32, 0b0001111_001011_100110_010101_0000001, .div (.g 21) (.q 6) (.g 11)),
    (32, 0b0010000_001011_100110_010101_0000001, .divn (.g 21) (.q 6) (.g 11)),
    (32, 0b0010001_001011_100110_010101_0000001, .rem (.g 21) (.q 6) (.g 11)),
    (32, 0b0010010_001011_100110_010101_0000001, .remn (.g 21) (.q 6) (.g 11)),
    (32, 0b0010011000000_100110_010101_0000001, .clz (.g 21) (.q 6)),
    (32, 0b0010100000000_100110_010101_0000001, .popc (.g 21) (.q 6)),
    (32, 0b0010101_001011_100110_010101_0000001, .bfx (.g 21) (.q 6) (.g 11)),
    (32, 0b0010110_001011_100110_010101_0000001, .bfi (.g 21) (.q 6) (.g 11))] : List (Nat × Nat × Instr)), decodeTableWord p.1 p.2.1 = some p.2.2 := by
  decide +kernel

/-- R160 to R165 and the encoding tables of spec/09 to spec/11: words of 32 bits, field by field. -/
theorem test_decode_32_2 : ∀ p ∈ ([
    (32, 0b0010111_001011_100110_010101_0000001, .cmp (.g 21) (.q 6) (.g 11)),
    (32, 0b0011000_001011_100110_010101_0000001, .cmpf (.g 21) (.q 6) (.g 11)),
    (32, 0b0011001_001011_100110_010101_0000001, .fadd (.g 21) (.q 6) (.g 11)),
    (32, 0b0011010_001011_100110_010101_0000001, .fsub (.g 21) (.q 6) (.g 11)),
    (32, 0b0011011_001011_100110_010101_0000001, .fmul (.g 21) (.q 6) (.g 11)),
    (32, 0b0011100000000_100110_010101_0000001, .ftoi (.g 21) (.q 6)),
    (32, 0b0011101000000_100110_010101_0000001, .itof (.g 21) (.q 6)),
    (32, 0b1111111111101_100110_010101_0000011, .addi (.g 21) (.q 6) (-3)),
    (32, 0b1111111111101_100110_010101_0000101, .andi (.g 21) (.q 6) (-3)),
    (32, 0b1111111111101_100110_010101_0000111, .ori (.g 21) (.q 6) (-3)),
    (32, 0b1111111111101_100110_010101_0001001, .xori (.g 21) (.q 6) (-3)),
    (32, 0b0000000_101001_100110_010101_0001011, .shli (.g 21) (.q 6) 41),
    (32, 0b0100000_101001_100110_010101_0001011, .shri (.g 21) (.q 6) 41),
    (32, 0b1000000_101001_100110_010101_0001011, .srai (.g 21) (.q 6) 41),
    (32, 0b1111111111101_100110_010101_0001101, .cmpi (.g 21) (.q 6) (-3)),
    (32, 0b1111111111111111101_010101_0001111, .movi (.g 21) (-3)),
    (32, 0b1111111111111111101_010101_0010001, .ldc (.g 21) (-3)),
    (32, 0b1111111111111111101_010101_0010011, .addpc (.g 21) (-3)),
    (32, 0b11111111101_10_100110_010101_0100001, .ld (.g 21) (.q 6) 2 (-3)),
    (32, 0b11111111101_10_100110_010101_0100011, .ldz (.g 21) (.q 6) 2 (-3)),
    (32, 0b11111111101_10_100110_010101_0100101, .st (.g 21) (.q 6) 2 (-3)),
    (32, 0b0000000_100110_010101_0000000101001, .joinH (.g 21) (.q 6)),
    (32, 0b0000001_100110_010101_0000000101001, .joinW (.g 21) (.q 6))] : List (Nat × Nat × Instr)), decodeTableWord p.1 p.2.1 = some p.2.2 := by
  decide +kernel

/-- R160 to R165 and the encoding tables of spec/09 to spec/11: words of 32 bits, field by field. -/
theorem test_decode_32_3 : ∀ p ∈ ([
    (32, 0b0000010_100110_010101_0000000101001, .joinD (.g 21) (.q 6)),
    (32, 0b0000011_100110_010101_0000000101001, .joinHRel (.g 21) (.q 6)),
    (32, 0b0000100_100110_010101_0000000101001, .joinWRel (.g 21) (.q 6)),
    (32, 0b0000101_100110_010101_0000000101001, .joinDRel (.g 21) (.q 6)),
    (32, 0b0000110_100110_010101_0000000101001, .xjoinF (.g 21) (.q 6)),
    (32, 0b0000111_100110_010101_0000000101001, .xjoinI (.g 21) (.q 6)),
    (32, 0b0001000_100110_010101_0000000101001, .xjoinFRel (.g 21) (.q 6)),
    (32, 0b0001001_100110_010101_0000000101001, .xjoinIRel (.g 21) (.q 6)),
    (32, 0b0001010_001011_100110_010101_0101001, .await (.g 21) (.q 6) (.g 11)),
    (32, 0b0001011_001011_100110_010101_0101001, .awaitAny (.g 21) (.q 6) (.g 11)),
    (32, 0b0001100000000_100110_010101_0101001, .awaitFilled (.g 21) (.q 6)),
    (32, 0b0001101_001011_100110_010101_0101001, .probe (.g 21) (.q 6) (.g 11)),
    (32, 0b0001110000000_100110_010101_0101001, .ldxW (.g 21) (.q 6)),
    (32, 0b0001111000000_100110_010101_0101001, .ldxD (.g 21) (.q 6)),
    (32, 0b0010000_100110_010101_0000000101001, .freeze (.g 21) (.q 6)),
    (32, 0b0010001_100110_010101_0000000101001, .fallow (.g 21) (.q 6)),
    (32, 0b1111111111111111101_000_010_0110001, .prep 2 (-3)),
    (32, 0b0000000000000_010101_000_010_0110011, .prepr 2 (.g 21)),
    (32, 0b0000001_100110_010101_000_010_0110011, .prepx 2 (.g 21) (.q 6)),
    (32, 0b0000010000000000000_101_010_0110011, .pmove 2 5),
    (32, 0b0000000000000000000000_010_0110101, .jmp 2),
    (32, 0b0000001_101001_010101_000_010_0110101, .brT 2 (.g 21) 41),
    (32, 0b0000010_101001_010101_000_010_0110101, .brF 2 (.g 21) 41)] : List (Nat × Nat × Instr)), decodeTableWord p.1 p.2.1 = some p.2.2 := by
  decide +kernel

/-- R160 to R165 and the encoding tables of spec/09 to spec/11: words of 32 bits, field by field. -/
theorem test_decode_32_4 : ∀ p ∈ ([
    (32, 0b0000011000000000000_101_010_0110101, .call 2 5),
    (32, 0b0000100000000_010101_000_010_0110101, .bdec 2 (.g 21)),
    (32, 0b00000000000000000000000000110111, .endTask),
    (32, 0b00000010000000000000000000110111, .yield),
    (32, 0b0000010000000_010101_0000000110111, .trap (.g 21)),
    (32, 0b0000011_100110_010101_0000000110111, .eret (.g 21) (.q 6)),
    (32, 0b00001000000000000000000000110111, .halt),
    (32, 0b00001010000000000000000000110111, .nop),
    (32, 0b0000110_101001_000000_010101_0110111, .sysrd (.g 21) 41),
    (32, 0b0000111_101001_010101_0000000110111, .syswr 41 (.g 21)),
    (32, 0b0001000_001011_100110_010101_0110111, .tlbinv (.g 21) (.q 6) (.g 11)),
    (32, 0b0001001_001011_100110_010101_0110111, .l1inv (.g 21) (.q 6) (.g 11)),
    (32, 0b0001010_100110_010101_0000000110111, .spmarkKeep (.g 21) (.q 6)),
    (32, 0b0001010_100110_010101_0000010110111, .spmarkDiscard (.g 21) (.q 6)),
    (32, 0b0001011000000_010101_0000000110111, .breakpt (.g 21)),
    (32, 0b0000000_100110_010101_0000000111001, .spawn (.g 21) (.q 6)),
    (32, 0b0000001_001011_100110_010101_0111001, .spawnw (.g 21) (.q 6) (.g 11)),
    (32, 0b0000010_100110_010101_0000000111001, .send (.g 21) (.q 6)),
    (32, 0b0000011_100110_010101_0000000111001, .sendHi (.g 21) (.q 6)),
    (32, 0b0000100_001011_100110_010101_0111001, .sendNb (.g 21) (.q 6) (.g 11)),
    (32, 0b0000101_001011_100110_010101_0111001, .sendHiNb (.g 21) (.q 6) (.g 11)),
    (32, 0b0000000_001011_110010_010101_0111011, .ctryrecv (.g 21) (.c 2) (.g 11)),
    (32, 0b0000001_001011_110010_010101_0111011, .ctrysend (.g 21) (.c 2) (.g 11))] : List (Nat × Nat × Instr)), decodeTableWord p.1 p.2.1 = some p.2.2 := by
  decide +kernel

/-- R160 to R165 and the encoding tables of spec/09 to spec/11: words of 32 bits, field by field. -/
theorem test_decode_32_5 : ∀ p ∈ ([
    (32, 0b00000100_01001_110010_010101_0111011, .ctryrecvV (.g 21) (.c 2) (.v 9)),
    (32, 0b00000110_01001_110010_010101_0111011, .ctrysendV (.g 21) (.c 2) (.v 9)),
    (32, 0b0000100000000_110010_010101_0111011, .ccount (.g 21) (.c 2)),
    (32, 0b000_10_010000000000000000000111101, .fenceAcq 2),
    (32, 0b000_10_100000000000000000000111101, .fenceRel 2),
    (32, 0b000_10_110000000000000000000111101, .fenceFull 2),
    (32, 0b0000000_010_11101_10010_01001_1000001, .vadd 2 (.v 9) (.y 2) (.c 5)),
    (32, 0b0000001_010_11101_10010_01001_1000001, .vsub 2 (.v 9) (.y 2) (.c 5)),
    (32, 0b0000010_010_11101_10010_01001_1000001, .vmul 2 (.v 9) (.y 2) (.c 5)),
    (32, 0b0000011_010_11101_10010_01001_1000001, .vfma 2 (.v 9) (.y 2) (.c 5)),
    (32, 0b0000100_010_11101_10010_01001_1000001, .vfms 2 (.v 9) (.y 2) (.c 5)),
    (32, 0b0000101_010_11101_10010_01001_1000001, .vmin 2 (.v 9) (.y 2) (.c 5)),
    (32, 0b0000110_010_11101_10010_01001_1000001, .vmax 2 (.v 9) (.y 2) (.c 5)),
    (32, 0b0000111_010_00000_10010_01001_1000001, .vabs 2 (.v 9) (.y 2)),
    (32, 0b0001000_010_00000_10010_01001_1000001, .vneg 2 (.v 9) (.y 2)),
    (32, 0b0001001_010_00000_10010_01001_1000001, .vsqrt 2 (.v 9) (.y 2)),
    (32, 0b0001010_010_00000_10010_01001_1000001, .vrcp 2 (.v 9) (.y 2)),
    (32, 0b0001011_010_00000_10010_01001_1000001, .vrsq 2 (.v 9) (.y 2)),
    (32, 0b0001100_010_00000_10010_01001_1000001, .vexp2 2 (.v 9) (.y 2)),
    (32, 0b0001101_010_00000_10010_01001_1000001, .vlog2 2 (.v 9) (.y 2)),
    (32, 0b0001110_010_11101_10010_01001_1000001, .vscaleb 2 (.v 9) (.y 2) (.c 5)),
    (32, 0b0001111_010_11101_10010_01001_1000001, .vcmpeq 2 (.v 9) (.y 2) (.c 5)),
    (32, 0b0010000_010_11101_10010_01001_1000001, .vcmplt 2 (.v 9) (.y 2) (.c 5))] : List (Nat × Nat × Instr)), decodeTableWord p.1 p.2.1 = some p.2.2 := by
  decide +kernel

/-- R160 to R165 and the encoding tables of spec/09 to spec/11: words of 32 bits, field by field. -/
theorem test_decode_32_6 : ∀ p ∈ ([
    (32, 0b0010001_010_11101_10010_01001_1000001, .vcmple 2 (.v 9) (.y 2) (.c 5)),
    (32, 0b0000000_010_11101_10010_01001_1000011, .viadd 2 (.v 9) (.y 2) (.c 5)),
    (32, 0b0000001_010_11101_10010_01001_1000011, .visub 2 (.v 9) (.y 2) (.c 5)),
    (32, 0b0000010_010_11101_10010_01001_1000011, .vimul 2 (.v 9) (.y 2) (.c 5)),
    (32, 0b0000011_010_11101_10010_01001_1000011, .vimin 2 (.v 9) (.y 2) (.c 5)),
    (32, 0b0000100_010_11101_10010_01001_1000011, .vimax 2 (.v 9) (.y 2) (.c 5)),
    (32, 0b0000101_010_11101_10010_01001_1000011, .viminn 2 (.v 9) (.y 2) (.c 5)),
    (32, 0b0000110_010_11101_10010_01001_1000011, .vimaxn 2 (.v 9) (.y 2) (.c 5)),
    (32, 0b0000111_010_11101_10010_01001_1000011, .viand 2 (.v 9) (.y 2) (.c 5)),
    (32, 0b0001000_010_11101_10010_01001_1000011, .vior 2 (.v 9) (.y 2) (.c 5)),
    (32, 0b0001001_010_11101_10010_01001_1000011, .vixor 2 (.v 9) (.y 2) (.c 5)),
    (32, 0b0001010_010_11101_10010_01001_1000011, .vishl 2 (.v 9) (.y 2) (.c 5)),
    (32, 0b0001011_010_11101_10010_01001_1000011, .vishr 2 (.v 9) (.y 2) (.c 5)),
    (32, 0b0001100_010_11101_10010_01001_1000011, .visra 2 (.v 9) (.y 2) (.c 5)),
    (32, 0b0001101_010_00000_10010_01001_1000011, .viabs 2 (.v 9) (.y 2)),
    (32, 0b0001110_010_11101_10010_01001_1000011, .vicmpeq 2 (.v 9) (.y 2) (.c 5)),
    (32, 0b0001111_010_11101_10010_01001_1000011, .vicmplt 2 (.v 9) (.y 2) (.c 5)),
    (32, 0b0010000_010_11101_10010_01001_1000011, .vicmpltn 2 (.v 9) (.y 2) (.c 5)),
    (32, 0b0010001_010_11101_10010_01001_1000011, .viaddsat 2 (.v 9) (.y 2) (.c 5)),
    (32, 0b000000000000000_10010_01001_1000101, .vmov (.v 9) (.y 2)),
    (32, 0b0000001000_11101_10010_01001_1000101, .vsel (.v 9) (.y 2) (.c 5)),
    (32, 0b0000010000000_010101_0_01001_1000101, .vbcast (.v 9) (.g 21)),
    (32, 0b00000110_01001_100110_010101_1000101, .vextr (.g 21) (.q 6) (.v 9))] : List (Nat × Nat × Instr)), decodeTableWord p.1 p.2.1 = some p.2.2 := by
  decide +kernel

/-- R160 to R165 and the encoding tables of spec/09 to spec/11: words of 32 bits, field by field. -/
theorem test_decode_32_7 : ∀ p ∈ ([
    (32, 0b0000100_100110_010101_0_01001_1000101, .vins (.v 9) (.g 21) (.q 6)),
    (32, 0b0000101_010_0000000000_01001_1000101, .viota 2 (.v 9)),
    (32, 0b0000110000_11101_10010_01001_1000101, .vperm (.v 9) (.y 2) (.c 5)),
    (32, 0b0000111_010_00000_10010_01001_1000101, .vkey 2 (.v 9) (.y 2)),
    (32, 0b0000000000_01101_10010_01001_1000111, .vcvtF2x 13 (.v 9) (.y 2)),
    (32, 0b0000000001_01101_10010_01001_1000111, .vcvtX2f 13 (.v 9) (.y 2)),
    (32, 0b0000000010_01101_10010_01001_1000111, .vcvtI2x 13 (.v 9) (.y 2)),
    (32, 0b0000000011_01101_10010_01001_1000111, .vcvtX2i 13 (.v 9) (.y 2)),
    (32, 0b0000001_010_11101_10010_01001_1000111, .vpack 2 (.v 9) (.y 2) (.c 5)),
    (32, 0b0000010_010_000_1_1_10010_01001_1000111, .vunpack 2 (.v 9) (.y 2) true true),
    (32, 0b0000000_010_00000_10010_01001_1001001, .vrsum 2 (.v 9) (.y 2)),
    (32, 0b0000001_010_00000_10010_01001_1001001, .vrmax 2 (.v 9) (.y 2)),
    (32, 0b0000010_010_00000_10010_01001_1001001, .vrmin 2 (.v 9) (.y 2)),
    (32, 0b0000011_010_00000_10010_01001_1001001, .vramax 2 (.v 9) (.y 2)),
    (32, 0b0000100_010_01101_10010_01001_1001001, .vscan 2 (.v 9) (.y 2) 13),
    (32, 0b0000000_100110_010101_0_01001_1001011, .vld (.v 9) (.g 21) (.q 6)),
    (32, 0b0000001_100110_010101_0_01001_1001011, .vst (.v 9) (.g 21) (.q 6)),
    (32, 0b0000010_100110_010101_0_01001_1001011, .vlds (.v 9) (.g 21) (.q 6)),
    (32, 0b0000011_100110_010101_0_01001_1001011, .vsts (.v 9) (.g 21) (.q 6)),
    (32, 0b00001000_10010_010101_0_01001_1001011, .vgather (.v 9) (.g 21) (.y 2)),
    (32, 0b00001010_10010_010101_0_01001_1001011, .vscatter (.v 9) (.g 21) (.y 2)),
    (32, 0b0000110_100110_010101_0_01001_1001011, .vldb (.v 9) (.g 21) (.q 6)),
    (32, 0b00000000_10010_010101_0_01001_1001101, .vjoin (.v 9) (.g 21) (.y 2))] : List (Nat × Nat × Instr)), decodeTableWord p.1 p.2.1 = some p.2.2 := by
  decide +kernel

/-- R160 to R165 and the encoding tables of spec/09 to spec/11: words of 32 bits, field by field. -/
theorem test_decode_32_8 : ∀ p ∈ ([
    (32, 0b00000010_10010_010101_0_01001_1001101, .vxjoin (.v 9) (.g 21) (.y 2)),
    (32, 0b000000000_1011_010101_0_01001_1001111, .vlda (.v 9) 11 (.g 21)),
    (32, 0b000000100_1011_010101_0_01001_1001111, .vsta (.v 9) 11 (.g 21)),
    (32, 0b000001000_1011_010101_0_01001_1001111, .vadda (.v 9) 11 (.g 21)),
    (32, 0b0000000_100110_010101_0000001100001, .ccopy (.g 21) (.q 6)),
    (32, 0b0000001_100110_010101_0000001100001, .ccfg (.g 21) (.q 6)),
    (32, 0b0000010_001011_100110_010101_1100001, .cgather (.g 21) (.q 6) (.g 11)),
    (32, 0b0000011_100110_010101_0000001100001, .cjoin (.g 21) (.q 6)),
    (32, 0b0000100_100110_010101_0000001100001, .cbar (.g 21) (.q 6)),
    (32, 0b0000101_001011_100110_010101_1100001, .waitb (.g 21) (.q 6) (.g 11)),
    (32, 0b0000000_100110_010101_0000001100011, .mcfg (.g 21) (.q 6)),
    (32, 0b0000001000000_010101_0000001100011, .mzero (.g 21)),
    (32, 0b0000010_100110_010101_0000001100011, .mma (.g 21) (.q 6)),
    (32, 0b0000011_100110_010101_0000001100011, .mscaleacc (.g 21) (.q 6)),
    (32, 0b0000100_100110_010101_0000001100011, .mload (.g 21) (.q 6)),
    (32, 0b0000101_100110_010101_0000001100011, .mstore (.g 21) (.q 6)),
    (32, 0b0000110000000_100110_010101_1100011, .mwait (.g 21) (.q 6)),
    (32, 0b0000111000000_010101_0000001100011, .mdiscard (.g 21)),
    (32, 0b0000000_100110_010101_0000001100101, .lcfg (.g 21) (.q 6)),
    (32, 0b0000001_100110_010101_0000001100101, .lspark (.g 21) (.q 6)),
    (32, 0b0000010_100110_010101_0000001100101, .lrun (.g 21) (.q 6)),
    (32, 0b0000011000000_010101_0000001100101, .lstop (.g 21)),
    (32, 0b0000100000000_100110_010101_1100101, .lwait (.g 21) (.q 6))] : List (Nat × Nat × Instr)), decodeTableWord p.1 p.2.1 = some p.2.2 := by
  decide +kernel

/-! Ill-formed terms are refused by step 3 of R167. -/

/-- Ill-formed scalar instructions (R162). -/
theorem test_ill_formed_1 : ∀ i ∈ ([
    .vguard true 0 16, .add (.q 1) (.g 1) (.g 1), .add (.g 1) (.rsv 0) (.g 1), .add (.g 1) (.g 1) (.rsv 0),
    .bfi (.c 0) (.g 1) (.g 1), .bfi (.g 1) (.rsv 0) (.g 1), .bfi (.g 1) (.g 1) (.rsv 0), .clz (.rsv 0) (.g 1),
    .clz (.g 1) (.rsv 0), .addi (.q 1) (.g 1) 0, .addi (.g 1) (.rsv 0) 0, .shli (.q 1) (.g 1) 0,
    .shli (.g 1) (.rsv 0) 0, .movi (.rsv 0) 0, .ldc (.q 2) 0, .addpc (.q 2) 0, .ld (.q 1) (.g 1) 0 0,
    .ld (.g 1) (.rsv 0) 0 0, .st (.rsv 0) (.g 1) 0 0, .st (.g 1) (.rsv 0) 0 0, .prepr 0 (.rsv 0),
    .prepx 0 (.rsv 0) (.g 1), .prepx 0 (.g 1) (.rsv 0), .brT 0 (.rsv 0) 0, .brF 0 (.rsv 0) 0, .bdec 0 (.q 0),
    .trap (.rsv 0), .breakpt (.rsv 0), .eret (.rsv 0) (.g 1), .eret (.g 1) (.rsv 0)] : List Instr), i.wf = false := by decide +kernel

/-- Ill-formed field, task and channel instructions (R162). -/
theorem test_ill_formed_2 : ∀ i ∈ ([
    .joinD (.rsv 0) (.g 1), .joinD (.g 1) (.rsv 0), .xjoinF (.rsv 0) (.g 1), .xjoinF (.g 1) (.rsv 0),
    .await (.q 1) (.g 1) (.g 1), .await (.g 1) (.rsv 0) (.g 1), .await (.g 1) (.g 1) (.rsv 0),
    .awaitFilled (.q 1) (.g 1), .awaitFilled (.g 1) (.rsv 0), .ldxD (.q 1) (.g 1), .ldxD (.g 1) (.rsv 0),
    .freeze (.rsv 0) (.g 1), .freeze (.g 1) (.rsv 0), .fallow (.rsv 0) (.g 1), .spawn (.rsv 0) (.g 1),
    .spawn (.g 1) (.rsv 0), .spawnw (.rsv 0) (.g 1) (.g 1), .spawnw (.g 1) (.rsv 0) (.g 1),
    .spawnw (.g 1) (.g 1) (.rsv 0), .send (.rsv 0) (.g 1), .send (.g 1) (.rsv 0), .sendNb (.q 1) (.g 1) (.g 1),
    .sendNb (.g 1) (.rsv 0) (.g 1), .sendNb (.g 1) (.g 1) (.rsv 0), .ctryrecv (.q 1) (.c 0) (.g 1),
    .ctryrecv (.g 1) (.g 1) (.g 1), .ctryrecv (.g 1) (.c 0) (.q 1), .ctrysend (.q 1) (.c 0) (.g 1),
    .ctrysend (.g 1) (.g 1) (.g 1), .ctrysend (.g 1) (.c 0) (.c 1), .ctryrecvV (.g 1) (.c 0) (.y 1),
    .ctrysendV (.g 1) (.g 1) (.v 1), .ccount (.q 1) (.c 0), .ccount (.g 1) (.g 1)] : List Instr), i.wf = false := by decide +kernel

/-- Ill-formed system registers, invalidations and marks (R154, R162). -/
theorem test_ill_formed_3 : ∀ i ∈ ([
    .sysrd (.q 1) 0, .sysrd (.g 1) 14, .sysrd (.g 1) 15, .sysrd (.g 1) 21, .syswr 21 (.g 1), .syswr 0 (.rsv 0),
    .tlbinv (.rsv 0) (.g 1) (.g 1), .tlbinv (.g 1) (.rsv 0) (.g 1), .tlbinv (.g 1) (.g 1) (.rsv 0),
    .l1inv (.rsv 0) (.g 1) (.g 1), .spmarkKeep (.rsv 0) (.g 1), .spmarkDiscard (.g 1) (.rsv 0)] : List Instr), i.wf = false := by decide +kernel

/-- Ill-formed vector instructions (R159, R162, R163, R231, R244, R245). -/
theorem test_ill_formed_4 : ∀ i ∈ ([
    .vaddF32S (.c 0) (.v 1), .vaddF32S (.y 1) (.v 1), .vmovS (.y 1) (.v 1), .vadd 3 (.v 1) (.v 1) (.v 1),
    .vadd 0 (.y 1) (.v 1) (.v 1), .vfma 0 (.c 0) (.v 1) (.v 1), .vfma 3 (.v 1) (.v 1) (.v 1),
    .vabs 3 (.v 1) (.v 1), .vabs 0 (.y 1) (.v 1), .viadd 3 (.v 1) (.v 1) (.v 1), .viadd 0 (.y 1) (.v 1) (.v 1),
    .viabs 3 (.v 1) (.v 1), .viabs 0 (.y 1) (.v 1), .vmov (.y 1) (.v 1), .vsel (.c 0) (.v 1) (.v 1),
    .vbcast (.y 1) (.g 1), .vbcast (.v 1) (.rsv 0), .vextr (.q 1) (.g 1) (.v 1), .vextr (.g 1) (.rsv 0) (.v 1),
    .vins (.c 0) (.g 1) (.g 1), .vins (.v 1) (.rsv 0) (.g 1), .vins (.v 1) (.g 1) (.rsv 0), .viota 3 (.v 1),
    .viota 0 (.y 1), .vperm (.y 1) (.v 1) (.v 1), .vkey 3 (.v 1) (.v 1), .vkey 0 (.y 1) (.v 1),
    .vcvtF2x 0 (.y 1) (.v 1), .vpack 0 (.v 1) (.v 1) (.v 1), .vpack 1 (.y 1) (.v 1) (.v 1),
    .vunpack 4 (.v 1) (.v 1) true true, .vunpack 1 (.y 1) (.v 1) true true, .vrsum 3 (.v 1) (.v 1),
    .vrsum 7 (.v 1) (.v 1), .vrsum 0 (.y 1) (.v 1), .vscan 3 (.v 1) (.v 1) 0, .vscan 0 (.y 1) (.v 1) 0,
    .vscan 0 (.v 1) (.v 1) 3] : List Instr), i.wf = false := by decide +kernel

/-- Ill-formed vector memory and engine instructions (R162). -/
theorem test_ill_formed_5 : ∀ i ∈ ([
    .vld (.y 1) (.g 1) (.g 1), .vld (.v 1) (.rsv 0) (.g 1), .vld (.v 1) (.g 1) (.rsv 0),
    .vst (.v 1) (.rsv 0) (.g 1), .vst (.v 1) (.g 1) (.rsv 0), .vlds (.y 1) (.g 1) (.g 1),
    .vlds (.v 1) (.rsv 0) (.g 1), .vlds (.v 1) (.g 1) (.rsv 0), .vgather (.y 1) (.g 1) (.v 1),
    .vgather (.v 1) (.rsv 0) (.v 1), .vscatter (.v 1) (.rsv 0) (.v 1), .vjoin (.v 1) (.rsv 0) (.v 1),
    .vlda (.y 1) 0 (.g 1), .vlda (.v 1) 0 (.rsv 0), .vsta (.v 1) 0 (.rsv 0), .ccopy (.rsv 0) (.g 1),
    .ccopy (.g 1) (.rsv 0), .cgather (.rsv 0) (.g 1) (.g 1), .cgather (.g 1) (.rsv 0) (.g 1),
    .cgather (.g 1) (.g 1) (.rsv 0), .waitb (.q 1) (.g 1) (.g 1), .waitb (.g 1) (.rsv 0) (.g 1),
    .waitb (.g 1) (.g 1) (.rsv 0), .mma (.rsv 0) (.g 1), .mma (.g 1) (.rsv 0), .mzero (.rsv 0),
    .mwait (.q 1) (.g 1), .mwait (.g 1) (.rsv 0), .lcfg (.rsv 0) (.g 1), .lcfg (.g 1) (.rsv 0), .lstop (.rsv 0)] : List Instr), i.wf = false := by decide +kernel

/-! One step each; the expected values are worked out from the rules by hand, or stand in the spec as examples. -/

/-- A general register after an instruction on g1 and g2. -/
def gAfter (i : Instr) (a b : Word) (n : Fin 32) : Word := ((gone (exec i (with1 (runner [a, b])))).cur.regs.readG n).bits

/-- R207: sums wrap; products of high parts round toward minus infinity; quotients truncate. -/
theorem test_arithmetic : gAfter (.add (.g 3) (.g 1) (.g 2)) (-1) 2 3 = 1 ∧ gAfter (.mulh (.g 3) (.g 1) (.g 2)) (-1) 2 3 = -1 ∧
    gAfter (.mulhn (.g 3) (.g 1) (.g 2)) (-1) 2 3 = 1 ∧ gAfter (.div (.g 3) (.g 1) (.g 2)) (-7) 2 3 = -3 ∧
    gAfter (.rem (.g 3) (.g 1) (.g 2)) (-7) 2 3 = -1 ∧ gAfter (.sra (.g 3) (.g 1) (.g 2)) (-8) 65 3 = -4 ∧
    gAfter (.clz (.g 3) (.g 1)) 1 0 3 = 63 ∧ gAfter (.popc (.g 3) (.g 1)) 0xFF 0 3 = 8 := by decide +kernel

/-- R208's example: with lo 8 and width 8, BFX takes a[15:8]; BFI writes there and keeps the rest. -/
theorem test_bit_fields : gAfter (.bfx (.g 3) (.g 1) (.g 2)) 0xABCD 0x1C8 3 = 0xAB ∧
    gAfter (.bfi (.g 1) (.g 1) (.g 2)) 0xABCD 0x1C8 1 = 0xCDCD := by decide +kernel

/-- R162: g0 takes no value. -/
theorem test_g0 : gAfter (.add (.g 0) (.g 1) (.g 2)) 5 6 0 = 0 := by decide +kernel

/-- R209, R210: the condition words of −1 and 1, and of a NaN. -/
theorem test_conditions : gAfter (.cmp (.g 3) (.g 1) (.g 2)) (-1) 1 3 = 0x66 ∧
    gAfter (.cmpf (.g 3) (.g 1) (.g 2)) 0x7FC00000 0 3 = 0x12 := by decide +kernel

/-- R211, R212: 1 + 2, 1.5 × 1.5, 2.5 to an integer under RNE, and 3 to FP32. -/
theorem test_floats : gAfter (.fadd (.g 3) (.g 1) (.g 2)) 0x3F800000 0x40000000 3 = 0x40400000 ∧
    gAfter (.fmul (.g 3) (.g 1) (.g 2)) 0x3FC00000 0x3FC00000 3 = 0x40100000 ∧
    gAfter (.ftoi (.g 3) (.g 1)) 0x40200000 0 3 = 2 ∧ gAfter (.itof (.g 3) (.g 1)) 3 0 3 = 0x40400000 := by decide +kernel

/-- R49 and R243's examples: FP32 500.0 to E4M3 without and with saturation, and FP32 0.3, which is inexact. -/
theorem test_conversions : (convertTo 5 rne false (elemValue 0 0x43FA0000)).code = 0x7F ∧
    (convertTo 5 rne true (elemValue 0 0x43FA0000)).code = 0x7E ∧
    (convertTo 5 rne false (elemValue 0 0x3E99999A)).code = 0x2A := by decide +kernel

/-- A vector whose first lane is `x`. -/
def vectorState (x y : VecBits) : State :=
  with1 { runner [] with regs := { Regs.zero with v := (Vector.replicate 16 { bits := 0 } |>.set 1 { bits := x } |>.set 2 { bits := y }) } }

/-- R235's example: VIADDSAT.I8 of 0x70 and 0x20 gives 0x7F; VIADD wraps. -/
theorem test_lanes : ((gone (exec (.viaddsat 2 (.v 1) (.v 1) (.v 2)) (vectorState 0x70 0x20))).cur.regs.v[1]).bits = 0x7F ∧
    ((gone (exec (.viadd 2 (.v 1) (.v 1) (.v 2)) (vectorState 0xF0 0x20))).cur.regs.v[1]).bits = 0x10 := by decide +kernel

/-- R112's example: core 9 sits at router (2, 0) of BD0, and PA 0x4000_D040 has its home at MD0, port 0, router (0, 6). -/
theorem test_places : (Node.core 9).place = (0, 2, 0) ∧ homeNode 0x4000D040 = .die 0 0 ∧ (Node.die 0 0).place = (0, 0, 6) ∧
    dieOf 646 = 3 := by decide

/-- R166, R167: HALT in a task context is PRIVILEGE, 0x03. -/
theorem test_privilege : ((gone (exec .halt plainState)).ctx? aKey).map (fun c => c.faultCode) = some 3 := by decide +kernel

/-- A word placed after reset is the next step's: MOVI g21, 0x6000 of R161. -/
theorem test_placed_word : let t := gone (step (State.reset.withFetchWord 32 0x0C000A8F))
    t.cur.regs.g[21] = { bits := 0x6000 } ∧ t.cur.regs.pc = 0x1004 := by decide +kernel

end Sys2Proof.Tests
end

section
/-! PROOFS. R171: what VMAX and VMIN make of two codes of a format with infinities. The exact comparison of values is carried
to the order of their codes, −0 just below +0. -/
namespace Sys2Proof.Machine
open Sys2Proof.Claims

/-! Scaled integers as rational numbers. -/

/-- The rational number that a scaled integer stands for. -/
def dyadicValue (d : Int × Int) : ℚ := d.1 * 2 ^ d.2

theorem dyadicValue_scaleInt {a : Int × Int} {e : Int} (h : e ≤ a.2) :
    dyadicValue (scaleInt a.1 (a.2 - e), e) = dyadicValue a := by
  have hn : (((a.2 - e).toNat : Nat) : Int) = a.2 - e := Int.toNat_of_nonneg (by omega)
  simp only [dyadicValue, scaleInt]
  push_cast
  rw [mul_assoc, ← zpow_natCast, hn, ← zpow_add₀ two_ne_zero, sub_add_cancel]

theorem dyadicValue_addDyadic (a b : Int × Int) :
    dyadicValue (addDyadic a b) = dyadicValue a + dyadicValue b := by
  unfold addDyadic
  split
  next ha => simp [dyadicValue, ha]
  next =>
    split
    next hb => simp [dyadicValue, hb]
    next =>
      rw [← dyadicValue_scaleInt (min_le_left a.2 b.2), ← dyadicValue_scaleInt (min_le_right a.2 b.2)]
      simp [dyadicValue, add_mul]

theorem dyadicValue_neg_iff (d : Int × Int) : dyadicValue d < 0 ↔ d.1 < 0 := by
  have hp : (0 : ℚ) < 2 ^ d.2 := zpow_pos two_pos _
  rw [dyadicValue, mul_neg_iff]
  simp [hp, hp.not_gt]

/-! The order of values. -/

theorem fcompare_inf_left {n : Bool} {y : FValue} (hy : y.isInf = false) :
    fcompare (.inf n) y = if n then .lt else .gt := by
  cases y with
  | inf => cases hy
  | _ => rfl

theorem fcompare_inf_right {n : Bool} {x : FValue} (hx : x.isInf = false) :
    fcompare x (.inf n) = if n then .gt else .lt := by
  cases x with
  | inf => cases hx
  | _ => rfl

theorem fcompare_of_not_inf {x y : FValue} (hx : x.isInf = false) (hy : y.isInf = false) :
    fcompare x y = let d := addDyadic x.dyadic (-(y.dyadic.1), y.dyadic.2)
      if d.1 < 0 then .lt else if d.1 = 0 then .eq else .gt := by
  cases x with
  | inf => cases hx
  | _ =>
    cases y with
    | inf => cases hy
    | _ => rfl

theorem fcompare_lt_iff {x y : FValue} (hx : x.isInf = false) (hy : y.isInf = false) :
    fcompare x y = .lt ↔ dyadicValue x.dyadic < dyadicValue y.dyadic := by
  have hneg : dyadicValue (-(y.dyadic.1), y.dyadic.2) = -dyadicValue y.dyadic := by simp [dyadicValue]
  have hd : dyadicValue x.dyadic < dyadicValue y.dyadic ↔
      (addDyadic x.dyadic (-(y.dyadic.1), y.dyadic.2)).1 < 0 := by
    rw [← dyadicValue_neg_iff, dyadicValue_addDyadic, hneg, ← sub_eq_add_neg, sub_neg]
  rw [fcompare_of_not_inf hx hy, hd]
  dsimp only
  split
  · simp [*]
  · split <;> simp [*]

theorem minMaxLess_of_not_zero {x y : FValue} (h : x.isZero = false ∨ y.isZero = false) :
    minMaxLess x y = (fcompare x y == .lt) := by
  cases x with
  | zero =>
    cases y with
    | zero => simp [FValue.isZero] at h
    | _ => rfl
  | _ => rfl

/-! The codes of a format with infinities. -/

/-- A format coded as in IEEE-754, with infinities and NaNs above the finite values (R37). -/
structure FFmt.IsIeee (f : FFmt) : Prop where
  ieee : f.ieee = true
  nan4 : f.nan4 = false
  eb_pos : 0 < f.eb

/-- The finite magnitude of a code without sign, in units of the smallest subnormal. -/
def FFmt.magnitude (f : FFmt) (c : Nat) : Nat :=
  if c / 2 ^ f.mb = 0 then c else (2 ^ f.mb + c % 2 ^ f.mb) * 2 ^ (c / 2 ^ f.mb - 1)

theorem FFmt.magnitude_lt (f : FFmt) (c : Nat) : f.magnitude c < 2 ^ f.mb * 2 ^ (c / 2 ^ f.mb) := by
  have hm : c % 2 ^ f.mb < 2 ^ f.mb := Nat.mod_lt _ (Nat.two_pow_pos _)
  unfold magnitude
  split
  next he => simpa [he] using (Nat.div_eq_zero_iff_lt (Nat.two_pow_pos _)).1 he
  next he =>
    obtain ⟨k, hk⟩ := Nat.exists_eq_succ_of_ne_zero he
    rw [hk, Nat.succ_sub_one, pow_succ', ← mul_assoc]
    exact Nat.mul_lt_mul_of_pos_right (by omega) (Nat.two_pow_pos k)

theorem FFmt.le_magnitude (f : FFmt) {c : Nat} (h : c / 2 ^ f.mb ≠ 0) :
    2 ^ f.mb * 2 ^ (c / 2 ^ f.mb - 1) ≤ f.magnitude c := by
  rw [magnitude, if_neg h]
  exact Nat.mul_le_mul_right _ (Nat.le_add_right _ _)

theorem FFmt.magnitude_strictMono (f : FFmt) : StrictMono f.magnitude := by
  intro c d hcd
  obtain hlt | heq := (Nat.div_le_div_right (c := 2 ^ f.mb) hcd.le).lt_or_eq
  · calc f.magnitude c < 2 ^ f.mb * 2 ^ (c / 2 ^ f.mb) := f.magnitude_lt c
      _ ≤ 2 ^ f.mb * 2 ^ (d / 2 ^ f.mb - 1) := by gcongr; exacts [one_le_two, Nat.le_sub_one_of_lt hlt]
      _ ≤ f.magnitude d := f.le_magnitude (Nat.ne_zero_of_lt hlt)
  · have hm : c % 2 ^ f.mb < d % 2 ^ f.mb := by
      rw [← Nat.div_add_mod c (2 ^ f.mb), ← Nat.div_add_mod d (2 ^ f.mb), heq] at hcd
      exact Nat.lt_of_add_lt_add_left hcd
    unfold magnitude
    rw [heq]
    split
    · exact hcd
    · exact Nat.mul_lt_mul_of_pos_right (Nat.add_lt_add_left hm _) (Nat.two_pow_pos _)

theorem FFmt.magnitude_zero (f : FFmt) : f.magnitude 0 = 0 := by simp [magnitude]

/-- What a sign and a code without sign stand for: a NaN, an infinity, a zero or a finite value. -/
inductive FFmt.Reads (f : FFmt) (neg : Bool) (c : Nat) : FValue → Prop
  | nan (p : Nat) (s : Bool) (h : f.infCode < c) : f.Reads neg c (.nan neg p s)
  | inf (h : c = f.infCode) : f.Reads neg c (.inf neg)
  | zero (h : c = 0) (hlt : c < f.infCode) : f.Reads neg c (.zero neg)
  | fin (m : Nat) (e : Int) (h : 0 < c) (hlt : c < f.infCode)
      (hv : (m : ℚ) * 2 ^ e = f.magnitude c * 2 ^ (f.emin - f.mb)) : f.Reads neg c (.fin neg m e)

/-- The sign bit of a code. -/
def FFmt.signOf (f : FFmt) (x : Nat) : Bool := bitsOf x (f.eb + f.mb) 1 == 1

/-- A code without its sign. -/
def FFmt.unsigned (f : FFmt) (x : Nat) : Nat := x % 2 ^ (f.eb + f.mb)

theorem FFmt.unsigned_div_lt (f : FFmt) (x : Nat) : f.unsigned x / 2 ^ f.mb < 2 ^ f.eb := by
  rw [Nat.div_lt_iff_lt_mul (Nat.two_pow_pos _), ← pow_add]
  exact Nat.mod_lt _ (Nat.two_pow_pos _)

/-- The code of an infinity has an exponent of ones and no fraction. -/
theorem FFmt.infCode_lt_iff (f : FFmt) {c : Nat} (h : c / 2 ^ f.mb < 2 ^ f.eb) :
    f.infCode < c ↔ c / 2 ^ f.mb = 2 ^ f.eb - 1 ∧ c % 2 ^ f.mb ≠ 0 := by
  have hle : f.infCode ≤ c ↔ 2 ^ f.eb - 1 ≤ c / 2 ^ f.mb := (Nat.le_div_iff_mul_le (Nat.two_pow_pos _)).symm
  have hc := Nat.div_add_mod' c (2 ^ f.mb)
  constructor
  · intro hlt
    have he : c / 2 ^ f.mb = 2 ^ f.eb - 1 := by omega
    rw [he] at hc
    refine ⟨he, fun h0 => ?_⟩
    unfold infCode at hlt
    omega
  · rintro ⟨he, hm⟩
    rw [he] at hc
    unfold infCode
    omega

theorem FFmt.lt_infCode_iff (f : FFmt) {c : Nat} : c < f.infCode ↔ c / 2 ^ f.mb < 2 ^ f.eb - 1 :=
  (Nat.div_lt_iff_lt_mul (Nat.two_pow_pos _)).symm

/-- `FFmt.decode` by the sign, the exponent and the fraction of the code. -/
theorem FFmt.decode_of_isIeee {f : FFmt} (hf : f.IsIeee) (x : Nat) : f.decode x =
    if f.unsigned x / 2 ^ f.mb = 2 ^ f.eb - 1 then
      if f.unsigned x % 2 ^ f.mb = 0 then .inf (f.signOf x)
      else .nan (f.signOf x) (f.unsigned x % 2 ^ f.mb * 2 ^ (23 - f.mb))
        (decide (f.unsigned x % 2 ^ f.mb < 2 ^ (f.mb - 1)))
    else if f.unsigned x / 2 ^ f.mb = 0 then
      if f.unsigned x % 2 ^ f.mb = 0 then .zero (f.signOf x)
      else .fin (f.signOf x) (f.unsigned x % 2 ^ f.mb) (f.emin - f.mb)
    else .fin (f.signOf x) (2 ^ f.mb + f.unsigned x % 2 ^ f.mb)
      (((f.unsigned x / 2 ^ f.mb : Nat) : Int) - f.bias - f.mb) := by
  simp only [decode, hf.ieee, hf.nan4, Bool.false_and, Bool.true_and, Bool.false_eq_true, if_false, beq_iff_eq]
  rfl

theorem FFmt.reads_decode {f : FFmt} (hf : f.IsIeee) (x : Nat) :
    f.Reads (f.signOf x) (f.unsigned x) (f.decode x) := by
  have hlt := f.unsigned_div_lt x
  have hc := Nat.div_add_mod' (f.unsigned x) (2 ^ f.mb)
  rw [decode_of_isIeee hf]
  generalize f.unsigned x = c at *
  split
  next he =>
    split
    next hm => exact .inf (by rw [← hc, he, hm]; rfl)
    next hm => exact .nan _ _ ((f.infCode_lt_iff hlt).2 ⟨he, hm⟩)
  next he =>
    have hfin : c < f.infCode := f.lt_infCode_iff.2 (by omega)
    split
    next he0 =>
      rw [he0, zero_mul, zero_add] at hc
      split
      next hm => exact .zero (by omega) hfin
      next hm => exact .fin _ _ (by omega) hfin (by rw [magnitude, if_pos he0, hc])
    next he0 =>
      have hpos : 0 < c := Nat.pos_of_ne_zero fun h => he0 (by simp [h])
      obtain ⟨k, hk⟩ := Nat.exists_eq_succ_of_ne_zero he0
      have hexp : ((k.succ : Nat) : Int) - f.bias - f.mb = (k : Int) + (f.emin - f.mb) := by
        unfold emin
        omega
      refine .fin _ _ hpos hfin ?_
      rw [magnitude, if_neg he0, hk, hexp, zpow_add₀ two_ne_zero, zpow_natCast, Nat.succ_sub_one]
      push_cast
      ring

/-- A magnitude with its sign. -/
def FFmt.signedMagnitude (f : FFmt) (neg : Bool) (c : Nat) : Int := if neg then -(f.magnitude c : Int) else f.magnitude c

/-- The place of a code in the order of the numbers, −0 just below +0. -/
def signedPlace (neg : Bool) (c : Nat) : Int := if neg then -(c : Int) - 1 else c

section
variable {f : FFmt} {nx ny : Bool} {c d : Nat} {u v : FValue}

theorem FFmt.Reads.isNan_iff (h : f.Reads nx c u) : u.isNan = true ↔ f.infCode < c := by
  cases h with
  | nan _ _ h => simp [FValue.isNan, h]
  | inf h => simp [FValue.isNan, h]
  | zero _ h => simp [FValue.isNan, h.le]
  | fin _ _ _ h => simp [FValue.isNan, h.le]

theorem FFmt.Reads.eq_inf (h : f.Reads nx c u) (hc : c = f.infCode) : u = .inf nx := by
  cases h with
  | inf => rfl
  | nan _ _ h => omega
  | zero _ h => omega
  | fin _ _ _ h => omega

theorem FFmt.Reads.isInf_eq_false (h : f.Reads nx c u) (hc : c < f.infCode) : u.isInf = false := by
  cases h with
  | inf h => omega
  | _ => rfl

theorem FFmt.Reads.isZero_eq_false (h : f.Reads nx c u) (hc : c ≠ 0) : u.isZero = false := by
  cases h with
  | zero h => exact absurd h hc
  | _ => rfl

theorem FFmt.Reads.eq_zero (h : f.Reads nx c u) (hc : c = 0) (hi : c < f.infCode) : u = .zero nx := by
  cases h with
  | zero => rfl
  | nan _ _ h => omega
  | inf h => omega
  | fin _ _ h => omega

theorem FFmt.Reads.dyadicValue_eq (h : f.Reads nx c u) (hc : c < f.infCode) :
    dyadicValue u.dyadic = f.signedMagnitude nx c * 2 ^ (f.emin - f.mb) := by
  cases h with
  | nan _ _ h => omega
  | inf h => omega
  | zero h => simp [dyadicValue, FValue.dyadic, signedMagnitude, h, magnitude_zero]
  | fin m e _ _ hv => cases nx <;> simp [dyadicValue, FValue.dyadic, signedMagnitude, hv]

theorem signedPlace_lt_iff_of_gt (h : d < c) : signedPlace nx c < signedPlace ny d ↔ nx = true := by
  unfold signedPlace
  cases nx <;> cases ny <;> simp <;> omega

theorem signedPlace_lt_iff_of_lt (h : c < d) : signedPlace nx c < signedPlace ny d ↔ ny = false := by
  unfold signedPlace
  cases nx <;> cases ny <;> simp <;> omega

theorem signedPlace_lt_same : signedPlace nx c < signedPlace ny c ↔ nx = true ∧ ny = false := by
  unfold signedPlace
  cases nx <;> cases ny <;> simp
  omega

/-- Away from the two zeros, magnitudes with signs are in the order of their codes. -/
theorem FFmt.signedMagnitude_lt_iff (f : FFmt) (h : c ≠ 0 ∨ d ≠ 0) :
    f.signedMagnitude nx c < f.signedMagnitude ny d ↔ signedPlace nx c < signedPlace ny d := by
  have hcd : f.magnitude c < f.magnitude d ↔ c < d := f.magnitude_strictMono.lt_iff_lt
  have hdc : f.magnitude d < f.magnitude c ↔ d < c := f.magnitude_strictMono.lt_iff_lt
  have hc : 0 < f.magnitude c ↔ 0 < c := by simpa [magnitude_zero] using f.magnitude_strictMono.lt_iff_lt (a := 0)
  have hd : 0 < f.magnitude d ↔ 0 < d := by simpa [magnitude_zero] using f.magnitude_strictMono.lt_iff_lt (a := 0)
  cases nx <;> cases ny <;> simp only [signedMagnitude, signedPlace, if_true, if_false, Bool.false_eq_true] <;> omega

/-- The model's comparison is the order of the codes, for codes that are no NaN. -/
theorem FFmt.Reads.minMaxLess_iff (hx : f.Reads nx c u) (hy : f.Reads ny d v) (hpos : 0 < f.infCode)
    (hc : c ≤ f.infCode) (hd : d ≤ f.infCode) :
    minMaxLess u v = true ↔ signedPlace nx c < signedPlace ny d := by
  by_cases hz : c = 0 ∧ d = 0
  · obtain ⟨rfl, rfl⟩ := hz
    rw [hx.eq_zero rfl hpos, hy.eq_zero rfl hpos]
    simp [minMaxLess, signedPlace_lt_same]
  · have hnz : c ≠ 0 ∨ d ≠ 0 := by omega
    rw [minMaxLess_of_not_zero (hnz.imp hx.isZero_eq_false hy.isZero_eq_false), beq_iff_eq]
    obtain hcl | hci := hc.lt_or_eq
    · obtain hdl | hdi := hd.lt_or_eq
      · have hunit : (0 : ℚ) < 2 ^ (f.emin - f.mb) := zpow_pos two_pos _
        rw [fcompare_lt_iff (hx.isInf_eq_false hcl) (hy.isInf_eq_false hdl), hx.dyadicValue_eq hcl,
          hy.dyadicValue_eq hdl, mul_lt_mul_iff_left₀ hunit, Int.cast_lt, f.signedMagnitude_lt_iff hnz]
      · rw [hy.eq_inf hdi, fcompare_inf_right (hx.isInf_eq_false hcl), signedPlace_lt_iff_of_lt (hdi ▸ hcl)]
        cases ny <;> simp
    · obtain hdl | hdi := hd.lt_or_eq
      · rw [hx.eq_inf hci, fcompare_inf_left (hy.isInf_eq_false hdl), signedPlace_lt_iff_of_gt (hci ▸ hdl)]
        cases nx <;> simp
      · rw [hx.eq_inf hci, hy.eq_inf hdi, hci, hdi, signedPlace_lt_same]
        cases nx <;> cases ny <;> simp [fcompare]

end

/-! R171 on codes. -/

/-- A format's layout in bits. -/
def FFmt.layout (f : FFmt) : Layout := ⟨f.width, f.eb, f.canonicalNan⟩

theorem FFmt.layout_fraction (f : FFmt) : f.layout.width - 1 - f.layout.exponent = f.mb := by
  simp only [layout, width]
  omega

theorem FFmt.layout_isNan_iff (f : FFmt) (x : Nat) : f.layout.isNan x ↔ f.infCode < f.unsigned x := by
  have hdiv : f.unsigned x / 2 ^ f.mb = x / 2 ^ f.mb % 2 ^ f.eb := by
    rw [unsigned, add_comm, pow_add, Nat.mod_mul_right_div_self]
  have hmod : f.unsigned x % 2 ^ f.mb = x % 2 ^ f.mb :=
    Nat.mod_mod_of_dvd _ (pow_dvd_pow 2 (Nat.le_add_left _ _))
  rw [f.infCode_lt_iff (f.unsigned_div_lt x), hdiv, hmod, Layout.isNan, layout_fraction]
  rfl

theorem FFmt.layout_rank (f : FFmt) {x : Nat} (hx : x < 2 ^ f.width) :
    f.layout.rank x = signedPlace (f.signOf x) (f.unsigned x) := by
  have hw : f.layout.width - 1 = f.eb + f.mb := by simp only [layout, width]; omega
  have hx2 : x < 2 * 2 ^ (f.eb + f.mb) := by
    rwa [width, add_assoc, pow_add, pow_one] at hx
  rw [Layout.rank, hw, signOf, bitsOf, unsigned, signedPlace]
  by_cases h : 2 ^ (f.eb + f.mb) ≤ x
  · have hdiv : x / 2 ^ (f.eb + f.mb) = 1 := Nat.div_eq_of_lt_le (by omega) (by omega)
    have hmod : x % 2 ^ (f.eb + f.mb) = x - 2 ^ (f.eb + f.mb) := by
      rw [Nat.mod_eq_sub_mod h, Nat.mod_eq_of_lt (by omega)]
    simp [h, hdiv, hmod]
  · simp [h, Nat.div_eq_of_lt (not_le.1 h), Nat.mod_eq_of_lt (not_le.1 h)]

section
variable {f : FFmt} {x y : Nat}

theorem FFmt.decode_isNan_iff (hf : f.IsIeee) (x : Nat) : (f.decode x).isNan = true ↔ f.layout.isNan x := by
  rw [(reads_decode hf x).isNan_iff, layout_isNan_iff]

theorem FFmt.IsIeee.infCode_pos (hf : f.IsIeee) : 0 < f.infCode :=
  Nat.mul_pos (Nat.sub_pos_of_lt (Nat.one_lt_two_pow hf.eb_pos.ne')) (Nat.two_pow_pos _)

theorem FFmt.minMaxLess_decode_iff (hf : f.IsIeee) (hx : x < 2 ^ f.width) (hy : y < 2 ^ f.width)
    (hnx : ¬ f.layout.isNan x) (hny : ¬ f.layout.isNan y) :
    minMaxLess (f.decode x) (f.decode y) = true ↔ f.layout.rank x < f.layout.rank y := by
  rw [layout_isNan_iff, not_lt] at hnx hny
  rw [(reads_decode hf x).minMaxLess_iff (reads_decode hf y) hf.infCode_pos hnx hny, f.layout_rank hx, f.layout_rank hy]

/-- R171 on two codes of one format. -/
theorem FFmt.minMax_isMinMax (hf : f.IsIeee) (wantMax : Bool) (hx : x < 2 ^ f.width) (hy : y < 2 ^ f.width) :
    IsMinMax f.layout wantMax x y (f.minMax wantMax x y) := by
  have hnx := decode_isNan_iff hf x
  have hny := decode_isNan_iff hf y
  refine ⟨fun ⟨h1, h2⟩ => ?_, fun ⟨h1, h2⟩ => ?_, fun ⟨h1, h2⟩ => ?_, fun ⟨h1, h2⟩ => ?_⟩
  · simp [minMax, hnx.2 h1, hny.2 h2, layout]
  · simp [minMax, hnx.2 h1, mt hny.1 h2]
  · simp [minMax, hny.2 h2, mt hnx.1 h1]
  · have hless := minMaxLess_decode_iff hf hx hy h1 h2
    have hval : f.minMax wantMax x y = if minMaxLess (f.decode x) (f.decode y) == wantMax then y else x := by
      simp [minMax, mt hnx.1 h1, mt hny.1 h2]
    rw [hval]
    by_cases hlt : f.layout.rank x < f.layout.rank y
    · rw [hless.2 hlt]
      cases wantMax <;> simp [hlt.le]
    · rw [Bool.eq_false_iff.2 (mt hless.1 hlt)]
      cases wantMax <;> simp [not_lt.1 hlt]

theorem FFmt.minMax_lt (hn : f.canonicalNan < 2 ^ f.width) (wantMax : Bool) (hx : x < 2 ^ f.width)
    (hy : y < 2 ^ f.width) : f.minMax wantMax x y < 2 ^ f.width := by
  unfold minMax
  dsimp only
  split_ifs <;> assumption

end

/-! R171 at the elements of an instruction. -/

theorem elemOf_lt (x : VecBits) (w e : Nat) : elemOf x w e < 2 ^ w := BitVec.isLt _

theorem raiseFlagsN_zero_gives (s : State) : Gives (raiseFlagsN 0) s () s := by
  have h : raiseFlagsN 0 s = .ok ((), { s with cur := { s.cur with regs := { s.cur.regs with
      status := s.cur.regs.status ||| 0#64 } } }) := rfl
  rw [Gives, h, BitVec.or_zero]

theorem lanesCode2_flags (w : Nat) (op : Nat → Nat → Nat) (c : Context) (m : BitVec 128) (x y : VecBits) :
    (lanesCode2 w op c m x y).2 = 0 := by
  refine Nat.zero_of_testBit_eq_false fun k => Bool.eq_false_iff.2 fun h => ?_
  obtain ⟨e, -, hk⟩ := (elementwise_flags _ _ _ k).1 h
  simp at hk

theorem lanesCode2_elem {w : Nat} {op : Nat → Nat → Nat} {c : Context} {s : State} {x y : VecBits} {e : Nat}
    (he : activeElem w s e = true) :
    elemOf (lanesCode2 w op c (lanesAt s) x y).1 w e = op (elemOf x w e) (elemOf y w e) % 2 ^ w := by
  rw [activeElem, Bool.and_eq_true, decide_eq_true_eq] at he
  exact elementwise_elem _ _ _ _ he.1 he.2

/-- An instruction whose meaning is the lane-wise minimum or maximum does as R171 says. -/
theorem takesMinMax_of_exec {i : Instr} {t : Fin 8} {wantMax : Bool} {d a b : VSpec}
    (hexec : ∀ s, exec i s = issue i (vec2 d a b (lanesMinMax t wantMax)) s) (hf : (laneFmt t).IsIeee)
    (hw : laneWidth t = (laneFmt t).width) (hn : (laneFmt t).canonicalNan < 2 ^ (laneFmt t).width) :
    TakesMinMax i (laneFmt t).layout wantMax d a b := by
  intro s s1 s2 x y hi ha hb hd hx hy
  refine ⟨(lanesMinMax t wantMax s2.cur (lanesAt s2) x.bits y.bits).1, fun e he => ?_, fun u hu => ?_⟩
  · have hwidth : (laneFmt t).layout.width = (laneFmt t).width := rfl
    rw [hwidth] at he ⊢
    rw [lanesMinMax, hw]
    have hxlt := elemOf_lt x.bits (laneFmt t).width e
    have hylt := elemOf_lt y.bits (laneFmt t).width e
    rw [lanesCode2_elem he, Nat.mod_eq_of_lt (FFmt.minMax_lt hn wantMax hxlt hylt)]
    exact FFmt.minMax_isMinMax hf wantMax hxlt hylt
  · have hbody : Gives (vec2 d a b (lanesMinMax t wantMax)) s .done u := by
      refine vec2_gives ha hb hd hx hy (gives_bind hu ?_)
      rw [lanesMinMax, lanesCode2_flags]
      exact raiseFlagsN_zero_gives u
    exact (hexec s).trans (issue_gives hi hbody)

theorem laneFmt_isIeee (t : Fin 8) : (laneFmt t).IsIeee := by
  unfold laneFmt
  split <;> exact ⟨rfl, rfl, by decide⟩

theorem laneWidth_eq_width (t : Fin 8) : laneWidth t = (laneFmt t).width := by
  decide +revert

theorem laneFmt_canonicalNan_lt (t : Fin 8) : (laneFmt t).canonicalNan < 2 ^ (laneFmt t).width := by
  decide +revert

theorem laneLayouts_eq_layout : ∀ p ∈ laneLayouts, p.2 = (laneFmt p.1).layout := by
  simp only [laneLayouts, List.forall_mem_cons, List.not_mem_nil]
  exact ⟨rfl, rfl, rfl, nofun⟩

/-- VMAX and VMIN of a lane type, in the long form. -/
theorem vmax_takesMinMax (t : Fin 8) (d a b : VSpec) : TakesMinMax (.vmax t d a b) (laneFmt t).layout true d a b :=
  takesMinMax_of_exec (fun _ => rfl) (laneFmt_isIeee t) (laneWidth_eq_width t) (laneFmt_canonicalNan_lt t)

theorem vmin_takesMinMax (t : Fin 8) (d a b : VSpec) : TakesMinMax (.vmin t d a b) (laneFmt t).layout false d a b :=
  takesMinMax_of_exec (fun _ => rfl) (laneFmt_isIeee t) (laneWidth_eq_width t) (laneFmt_canonicalNan_lt t)

theorem vmaxF32S_takesMinMax (d b : VSpec) : TakesMinMax (.vmaxF32S d b) (laneFmt 0).layout true d d b :=
  takesMinMax_of_exec (fun _ => rfl) (laneFmt_isIeee 0) (laneWidth_eq_width 0) (laneFmt_canonicalNan_lt 0)

theorem vminF32S_takesMinMax (d b : VSpec) : TakesMinMax (.vminF32S d b) (laneFmt 0).layout false d d b :=
  takesMinMax_of_exec (fun _ => rfl) (laneFmt_isIeee 0) (laneWidth_eq_width 0) (laneFmt_canonicalNan_lt 0)

/-- Settles O58: each instruction is the lane-wise `FFmt.minMax` of its lane type, which orders codes as R171 says. -/
theorem maximumAndMinimumOrderZerosAndNans : Obligations.MaximumAndMinimumOrderZerosAndNans := by
  refine ⟨fun p hp d a b => ?_, fun d b => ⟨vmaxF32S_takesMinMax d b, vminF32S_takesMinMax d b⟩⟩
  rw [laneLayouts_eq_layout p hp]
  exact ⟨vmax_takesMinMax p.1 d a b, vmin_takesMinMax p.1 d a b⟩

end Sys2Proof.Machine
end

section
/-! PROOFS. R209: the condition word of two integers. Its bits are those of the list that it is made from. -/
namespace Sys2Proof.Machine
open Sys2Proof.Claims

theorem toNat_ofBoolListLE (bs : List Bool) :
    (BitVec.ofBoolListLE bs).toNat = bs.foldr (fun b acc => (if b then 1 else 0) + 2 * acc) 0 := by
  induction bs with
  | nil => rfl
  | cons b bs ih =>
    rw [BitVec.ofBoolListLE, BitVec.toNat_concat, ih, List.foldr_cons]
    cases b <;> simp <;> omega

theorem condWord_eq_setWidth (bs : List Bool) : condWord bs = (BitVec.ofBoolListLE bs).setWidth 64 := by
  rw [condWord, ← toNat_ofBoolListLE, BitVec.ofNat_toNat]

theorem condWord_getLsbD (bs : List Bool) {i : Nat} (hi : i < 64) : (condWord bs).getLsbD i = bs.getD i false := by
  rw [condWord_eq_setWidth, BitVec.getLsbD_setWidth, BitVec.getLsbD_ofBoolListLE, decide_eq_true hi, Bool.true_and]

theorem condWord_lt {bs : List Bool} {n : Nat} (h : bs.length = n) : (condWord bs).toNat < 2 ^ n := by
  rw [condWord_eq_setWidth, BitVec.toNat_setWidth, ← h]
  exact (Nat.mod_le _ _).trans_lt (BitVec.isLt _)

/-- The eight bits of CMP's word as comparisons of the integers that the words stand for. -/
theorem cmpWord_eq_condWord (a b : Word) : cmpWord a b = condWord
    [decide (a = b), decide (a ≠ b), decide (a.toInt < b.toInt), decide (a.toInt ≥ b.toInt),
      decide (a.toNat < b.toNat), decide (a.toNat ≥ b.toNat), decide (a.toInt ≤ b.toInt), decide (a.toInt > b.toInt)] := by
  simp only [cmpWord, BitVec.slt, BitVec.ult, BitVec.sle, bne, beq_eq_decide, ← decide_not, not_lt, not_le, ge_iff_le,
    gt_iff_lt, ne_eq]

/-- The word of the walk in which a is below b, both signed and unsigned. -/
theorem cmpWord_of_lt {a b : Word} (hs : a.toInt < b.toInt) (hu : a.toNat < b.toNat) : cmpWord a b = 0x56 := by
  have hne : a ≠ b := fun h => absurd hu (h ▸ lt_irrefl _)
  rw [cmpWord_eq_condWord]
  simp only [hs, hu, hne, hs.le, hs.not_ge, hu.not_ge, hs.not_gt, ne_eq, not_false_eq_true]
  rfl

theorem cmpWord_of_gt {a b : Word} (hs : a.toInt > b.toInt) (hu : a.toNat > b.toNat) : cmpWord a b = 0xAA := by
  have hne : a ≠ b := fun h => absurd hu (h ▸ lt_irrefl _)
  rw [gt_iff_lt] at hs hu
  rw [cmpWord_eq_condWord]
  simp only [hs, hu.le, hne, hs.le, hs.not_ge, hs.not_gt, hu.not_gt, ne_eq, not_false_eq_true]
  rfl

theorem cmpWord_lt (a b : Word) : (cmpWord a b).toNat < 2 ^ 8 := condWord_lt rfl

theorem cmpWord_isConditionWord (a b : Word) : IsConditionWord (cmpWord a b) a b := by
  have hbit := fun i (hi : i < 64) =>
    (congrArg (fun w : Word => w.getLsbD i) (cmpWord_eq_condWord a b)).trans (condWord_getLsbD _ hi)
  exact ⟨cmpWord_lt a b, hbit 0 (by decide), hbit 1 (by decide), hbit 2 (by decide),
    hbit 3 (by decide), hbit 4 (by decide), hbit 5 (by decide), hbit 6 (by decide), hbit 7 (by decide),
    fun ⟨hs, hu⟩ => cmpWord_of_lt hs hu, fun ⟨hs, hu⟩ => cmpWord_of_gt hs hu⟩

/-- Settles O57: both instructions write `cmpWord` of their operands, which is the condition word. -/
theorem conditionWordsAreWritten : Obligations.ConditionWordsAreWritten := by
  constructor
  · intro d a b s s1 s2 x y hi ha hb hd hx hy
    exact ⟨cmpWord x.bits y.bits, cmpWord_isConditionWord _ _, fun t ht =>
      issue_gives hi (alu2_gives ha hb hd hx hy ht)⟩
  · intro d a imm s s1 x hi ha hd hx
    exact ⟨cmpWord x.bits (sext64 imm), cmpWord_isConditionWord _ _, fun t ht =>
      issue_gives hi (alu1_gives (f := fun w => cmpWord w (sext64 imm)) ha hd hx ht)⟩

end Sys2Proof.Machine
end

section
/-! PROOFS. R214: LDC. Its address check, its walk, its page check and its read of the constant are one effect, `loadConst`,
which answers the constant or stops by the first condition that fails. -/
namespace Sys2Proof.Machine
open Sys2Proof.Claims

/-! Effects in sequence, run at a state. -/

section
variable {α β : Type} {m : M α} {s t : State}

theorem bind_of_gives {x : α} (h : Gives m s x t) (k : α → M β) : (m >>= k) s = k x t := by
  have h' : m s = .ok (x, t) := h
  simp only [bind, StateT.bind, Except.bind, h']

theorem bind_of_error {e : Stop} (h : m s = .error e) (k : α → M β) : (m >>= k) s = .error e := by
  simp only [bind, StateT.bind, Except.bind, h]

end

theorem get_gives (s : State) : Gives (get : M State) s s s := rfl

theorem check_of_true {ok : Bool} (h : ok = true) (code : FaultCode) (addr : Word) (s : State) :
    Gives (check ok code addr) s () s := by
  rw [check, if_pos h]
  rfl

theorem check_of_false {ok : Bool} (h : ok = false) (code : FaultCode) (addr : Word) (s : State) :
    check ok code addr s = .error (.fault { code := code, addr := addr }) := by
  rw [check, h]
  rfl

/-- An instruction whose effect stops with a fault that keeps what it has changed. -/
theorem issue_raisesKept {i : Instr} {body : M Flow} {s t : State} {f : FaultInfo} (h : issues i s = true)
    (hb : body s = .error (.kept f t)) :
    issue i body s = .next (if s.recordsFull s.cur.key f then { s with stalled := true } else takeFault f t) := by
  obtain ⟨hbusy, hsteps, hon, hblock, hround⟩ := (issues_iff i s).1 h
  simp [issue, hbusy, hsteps, hon, hblock, hround, runBody, hb]

/-! The way of a read through a gateway is not touched by what the read counts (R101). -/

/-- A notification writes memory only. -/
theorem State.notify_eq (s : State) (unit : Nat) (va : Word) (asid : BitVec 12) :
    ∃ m, s.notify unit va asid = { s with mem := m } := by
  unfold notify
  dsimp only
  split_ifs
  · exact ⟨s.mem, rfl⟩
  all_goals exact ⟨_, rfl⟩

/-- Counting a read changes counters, and memory where it notifies. -/
theorem State.countAt_eq (s : State) (cnt : Bool) (key : Nat) (va : Word) (asid : BitVec 12) :
    ∃ m cs, s.countAt cnt key va asid = { s with mem := m, counters := cs } := by
  unfold countAt
  dsimp only
  split_ifs
  · obtain ⟨m, hm⟩ := (s.setCounter (key / 65536) (s.counter (key / 65536) + 1)).notify_eq (key / 65536) va asid
    exact ⟨m, _, hm⟩
  · exact ⟨s.mem, _, rfl⟩
  · exact ⟨s.mem, s.counters, rfl⟩
  · exact ⟨s.mem, s.counters, rfl⟩

@[simp] theorem State.countAt_gateFor (s : State) (cnt : Bool) (key : Nat) (va : Word) (asid : BitVec 12)
    (core k : Nat) : (s.countAt cnt key va asid).gateFor core k = s.gateFor core k := by
  obtain ⟨m, cs, h⟩ := s.countAt_eq cnt key va asid
  rw [h]
  rfl

/-! A line read where no gateway lies between the core and its home. -/

section
variable {s : State} {core : Nat} {asid : BitVec 12}

theorem gateRead_of_no_gate {key : Nat} (h : s.gateFor core key = none) (va : Nat) (gen : BitVec 8)
    (ok : LineSnap → Bool) : Gives (gateRead core asid key va gen ok) s none s := by
  refine gives_bind (get_gives s) ?_
  rw [h]
  exact gives_pure none s

theorem State.leaveReplica_of_no_gate {key : Nat} (h : s.gateFor core key = none) (va ty : Nat) (gen : BitVec 8) :
    s.leaveReplica core asid key va ty gen = s := by
  rw [leaveReplica, h]

/-- The home answers with its line, and has counted the read. -/
theorem readFrozen_of_no_gate {l : Leaf} {va : Nat} (hgate : s.gateFor core (l.key va) = none)
    (hhome : s.homeCode l va (dieOf core) = none) :
    Gives (readFrozen core asid l va) s (.ok (s.snap (l.key va / 128) l.ty))
      (s.countAt l.cnt (l.key va) (BitVec.ofNat 64 va) asid) := by
  refine gives_bind (gateRead_of_no_gate hgate va l.gen _) (gives_bind (get_gives s) ?_)
  rw [hhome]
  refine gives_bind (x := ⟨⟩) ?_ (gives_pure _ _)
  rw [State.leaveReplica_of_no_gate (by rw [State.countAt_gateFor, hgate]), ite_self]
  rfl

end

/-! The constant that a line of a FILL1 page holds. -/

/-- `readConst` judges the line that `readFrozen` answers, and keeps what the read has left. -/
theorem readConst_of_readFrozen {l : Leaf} {e : Word} {s t : State} {x : LineSnap}
    (h : Gives (readFrozen s.cur.core s.cur.asid l e.toNat) s (.ok x) t) :
    readConst l e s =
      if mdPoison x.md then .error (.kept { code := .poison, addr := e } t)
      else if mdState x.md ≠ 2 then .error (.kept { code := .prematureRead, addr := e } t)
      else .ok (BitVec.ofNat 64 (x.bytes (e.toNat % 128) 8), t) := by
  rw [readConst, bind_of_gives (cur_gives s), bind_of_gives h]
  dsimp only
  split_ifs <;> rfl

/-! LDC's effect. -/

/-- The address of LDC's constant, as a word. -/
def ldcAddr (s : State) (imm : BitVec 19) : Word := s.cur.regs.pc.setWidth 64 + 2 * sext64 imm

theorem toNat_ldcAddr (s : State) (imm : BitVec 19) : (ldcAddr s imm).toNat = constantAt s imm := by
  have hpc : s.cur.regs.pc.setWidth 64 = BitVec.ofInt 64 s.cur.regs.pc.toNat := by
    rw [BitVec.ofInt_natCast, BitVec.ofNat_toNat]
  have himm : sext64 imm = BitVec.ofInt 64 imm.toInt := by
    rw [sext64, ← BitVec.toInt_signExtend_of_le (x := imm) (v := 64) (by decide), BitVec.ofInt_toInt]
  have haddr : ldcAddr s imm = BitVec.ofInt 64 (s.cur.regs.pc.toNat + 2 * imm.toInt) := by
    rw [BitVec.ofInt_add, BitVec.ofInt_mul, ← hpc, ← himm]
    rfl
  rw [haddr, BitVec.toNat_ofInt, constantAt]
  norm_num

/-- The constant of R214 at an address, read for the current context after the checks that come before the read. -/
def loadConst (e : Word) : M Word := do
  check (decide (e.toNat % 8 = 0) && windowOf e.toNat == .global) .address e
  let l ← translate .read e.toNat
  check (decide (l.ty = 1)) .badType e
  readConst l e

/-- LDC puts the constant at its address into its destination. -/
theorem exec_ldc (d : Scalar) (imm : BitVec 19) (s : State) : exec (.ldc d imm) s = issue (.ldc d imm) (do
    checkDst d
    let c ← cur
    let w ← loadConst (c.regs.pc.setWidth 64 + 2 * sext64 imm)
    writeScalar d { bits := w }
    return .done) s := by
  simp only [loadConst, bind_assoc]
  rfl

section
variable {d : Scalar} {imm : BitVec 19} {s t u : State} {f : FaultInfo} {w : Word}

theorem ldc_faults (hi : issues (.ldc d imm) s = true) (hd : dstBound d s)
    (h : loadConst (ldcAddr s imm) s = .error (.fault f)) : Faults (.ldc d imm) s f := by
  refine (exec_ldc d imm s).trans (issue_raises hi ?_)
  rw [bind_of_gives hd, bind_of_gives (cur_gives s)]
  exact bind_of_error h _

theorem ldc_faultsKept (hi : issues (.ldc d imm) s = true) (hd : dstBound d s)
    (h : loadConst (ldcAddr s imm) s = .error (.kept f t)) : FaultsKept (.ldc d imm) s f t := by
  refine (exec_ldc d imm s).trans (issue_raisesKept hi ?_)
  rw [bind_of_gives hd, bind_of_gives (cur_gives s)]
  exact bind_of_error h _

theorem ldc_completes (hi : issues (.ldc d imm) s = true) (hd : dstBound d s)
    (h : Gives (loadConst (ldcAddr s imm)) s w t) (hw : Gives (writeScalar d { bits := w }) t () u) :
    Completes (.ldc d imm) s u :=
  (exec_ldc d imm s).trans (issue_gives hi
    (gives_bind hd (gives_bind (cur_gives s) (gives_bind h (gives_bind hw (gives_pure _ _))))))

end

section
variable {e : Word} {s t : State} {f : FaultInfo} {l : Leaf}

theorem windowOf_global_lt {va : Nat} (h : windowOf va = .global) : va < 2 ^ 48 := by
  unfold windowOf at h
  split_ifs at h
  omega

theorem loadConst_of_bad_address (h : e.toNat % 8 ≠ 0 ∨ 2 ^ 48 ≤ e.toNat ∨ windowOf e.toNat ≠ .global) :
    loadConst e s = .error (.fault { code := .address, addr := e }) := by
  have hbad : (decide (e.toNat % 8 = 0) && windowOf e.toNat == .global) = false := by
    rw [Bool.and_eq_false_iff, decide_eq_false_iff_not, beq_eq_false_iff_ne]
    exact h.imp_right (Or.elim · (fun hge hw => hge.not_gt (windowOf_global_lt hw)) id)
  exact bind_of_error (check_of_false hbad _ _ s) _

variable (h8 : e.toNat % 8 = 0) (hw : windowOf e.toNat = .global)
include h8 hw

theorem loadConst_of_good_address : loadConst e s =
    (do let l ← translate .read e.toNat
        check (decide (l.ty = 1)) .badType e
        readConst l e : M Word) s :=
  bind_of_gives (check_of_true (by simp [h8, hw]) _ _ s) _

theorem loadConst_of_failed_walk
    (h : Gives (tryTranslate s.cur.core s.cur.asid s.cur.sys .read e.toNat) s (.error f) t) :
    loadConst e s = .error (.fault f) := by
  rw [loadConst_of_good_address h8 hw]
  refine bind_of_error ?_ _
  rw [translate, bind_of_gives (cur_gives s), bind_of_gives h]
  rfl

variable (h : Gives (tryTranslate s.cur.core s.cur.asid s.cur.sys .read e.toNat) s (.ok l) t)
include h

omit h8 hw in
theorem translate_gives : Gives (translate .read e.toNat) s l t :=
  gives_bind (cur_gives s) (gives_bind h (gives_pure l t))

theorem loadConst_of_bad_type (hty : l.ty ≠ 1) : loadConst e s = .error (.fault { code := .badType, addr := e }) := by
  rw [loadConst_of_good_address h8 hw, bind_of_gives (translate_gives h)]
  exact bind_of_error (check_of_false (decide_eq_false hty) _ _ t) _

theorem loadConst_of_fill1 (hty : l.ty = 1) : loadConst e s = readConst l e t := by
  rw [loadConst_of_good_address h8 hw, bind_of_gives (translate_gives h)]
  exact bind_of_gives (check_of_true (decide_eq_true hty) _ _ t) _

end

/-- Settles O59: `loadConst` stops by the first condition that fails, and otherwise answers the doubleword of the line. -/
theorem ldcReadsAFrozenConstant : Obligations.LdcReadsAFrozenConstant := by
  intro d imm s hi hd
  dsimp only
  rw [← toNat_ldcAddr]
  constructor
  · intro hbad
    exact ⟨_, ldc_faults hi hd (loadConst_of_bad_address hbad), rfl, rfl⟩
  intro h8 _ hw
  constructor
  · intro f s1 hwalk
    exact ldc_faults hi hd (loadConst_of_failed_walk h8 hw hwalk)
  intro l s1 hleaf
  refine ⟨fun hty => ?_, fun hty hhome hgate => ?_, fun x s2 hty hread => ?_⟩
  · exact ⟨_, ldc_faults hi hd (loadConst_of_bad_type h8 hw hleaf hty), rfl, rfl⟩
  · exact hty ▸ readFrozen_of_no_gate hgate hhome
  have hload := (loadConst_of_fill1 h8 hw hleaf hty).trans (readConst_of_readFrozen hread)
  refine ⟨fun hpoison => ?_, fun hclean hstate => ?_, fun hclean hfrozen t ht => ?_⟩
  · rw [if_pos hpoison] at hload
    exact ⟨_, ldc_faultsKept hi hd hload, rfl, rfl⟩
  · rw [if_neg (Bool.eq_false_iff.1 hclean), if_pos hstate] at hload
    exact ⟨_, ldc_faultsKept hi hd hload, rfl, rfl⟩
  · rw [if_neg (Bool.eq_false_iff.1 hclean), if_neg (not_not.2 hfrozen)] at hload
    exact ldc_completes hi hd hload ht

end Sys2Proof.Machine
end

section
/-! PROOFS. R264: WAITB. What it does once its operands are read is one effect, `awaitBarrier`, which faults, or finds its
barrier and goes by its phase, `passPhase`. -/
namespace Sys2Proof.Machine
open Sys2Proof.Claims

/-! The offset of a barrier object. -/

theorem wbits_eq_zero_iff_lt {lo : Nat} (h : lo ≤ 64) (x : Word) : wbits x lo (64 - lo) = 0 ↔ x.toNat < 2 ^ lo := by
  have hlt : x.toNat / 2 ^ lo < 2 ^ (64 - lo) := by
    rw [Nat.div_lt_iff_lt_mul (Nat.two_pow_pos _), ← pow_add, Nat.sub_add_cancel h]
    exact x.isLt
  rw [wbits, bitsOf, Nat.mod_eq_of_lt hlt, Nat.div_eq_zero_iff_lt (Nat.two_pow_pos _)]

theorem wbits_zero_eq_mod (x : Word) (n : Nat) : wbits x 0 n = x.toNat % 2 ^ n := by
  rw [wbits, bitsOf, pow_zero, Nat.div_one]

/-- Check 1 of R264: an offset within the slice, at a multiple of 16. -/
theorem barrierOffset_ok_iff (o : Word) :
    (decide (wbits o 21 43 = 0) && decide (wbits o 0 4 = 0)) = true ↔ o.toNat < 2 ^ 21 ∧ o.toNat % 16 = 0 := by
  rw [Bool.and_eq_true, decide_eq_true_eq, decide_eq_true_eq, wbits_eq_zero_iff_lt (lo := 21) (by decide),
    wbits_zero_eq_mod]
  rfl

/-! The fault that a WAITB takes. -/

/-- The fault of the earliest command whose last count fell into the phase that ended: the first in the table, which is in
the order of acceptance. -/
theorem Context.phaseFault_eq_head? (c : Context) (off flips : Nat) : c.phaseFault off flips =
    (c.cmds.filter (fun m => m.state == .done && m.fault.isSome && !m.delivered && m.kind.barrier == some off &&
      decide (0 < flips) && m.phase == some (flips - 1))).head?.bind (fun m => m.fault.map (fun f => (m, f))) := by
  rw [List.head?_filter, phaseFault]
  simp only [Cmd.incomplete, bne, Bool.not_not, Nat.succ_le_iff]
  cases c.cmds.find? _ with
  | none => rfl
  | some m => rfl

/-! WAITB's effect. -/

/-- What a WAITB does at its barrier as its context knows it: it parks, delivers a fault, or writes the phase and acquires. -/
def passPhase (d : Scalar) (p : Word) (c : Context) (b : Barrier) : M Flow := do
  if b.phase = p.getLsbD 0 then return .park (.barrier b.off)
  match c.phaseFault b.off b.flips with
  | some (m, f) => throw (.deliver f (.delivered [m.seq]))
  | none => pure ()
  writeScalar d { bits := if b.phase then 1 else 0 }
  acquire
  return .done

/-- What a WAITB does once it has read its offset and its phase. -/
def awaitBarrier (d : Scalar) (o p : Word) : M Flow := do
  check (decide (wbits o 21 43 = 0) && decide (wbits o 0 4 = 0)) .illegalOperand
  let c ← cur
  match c.barriers.find? (fun b => b.off == o.toNat) with
  | none => raise .illegalOperand
  | some b => passPhase d p c b

section
variable {d : Scalar} {p : Word} {b : Barrier} {c : Context} {s t : State}

theorem passPhase_parks (h : b.phase = p.getLsbD 0) : Gives (passPhase d p c b) s (.park (.barrier b.off)) s := by
  rw [passPhase, if_pos h]
  exact gives_pure _ s

theorem passPhase_delivers {m : Cmd} {f : FaultInfo} (h : b.phase ≠ p.getLsbD 0)
    (hf : c.phaseFault b.off b.flips = some (m, f)) :
    passPhase d p c b s = .error (.deliver f (.delivered [m.seq])) := by
  rw [passPhase, if_neg h, hf]
  rfl

/-- The acquire of R127 is that of the core of the context. -/
theorem acquire_gives (s : State) : Gives acquire s () (afterAcquire s) := rfl

theorem passPhase_acquires (h : b.phase ≠ p.getLsbD 0) (hf : c.phaseFault b.off b.flips = none)
    (hw : Gives (writeScalar d { bits := if b.phase then 1 else 0 }) s () t) :
    Gives (passPhase d p c b) s .done (afterAcquire t) := by
  rw [passPhase, if_neg h, hf]
  exact gives_bind hw (gives_bind (acquire_gives t) (gives_pure _ _))

end

section
variable {d : Scalar} {o p : Word} {b : Barrier} {s : State}

/-- Checks 1 and 2 of R264. -/
theorem awaitBarrier_faults
    (h : 2 ^ 21 ≤ o.toNat ∨ o.toNat % 16 ≠ 0 ∨ ∀ b ∈ s.cur.barriers, b.off ≠ o.toNat) :
    awaitBarrier d o p s = .error (.fault { code := .illegalOperand }) := by
  rw [awaitBarrier]
  by_cases hok : o.toNat < 2 ^ 21 ∧ o.toNat % 16 = 0
  · have hnone : s.cur.barriers.find? (fun b => b.off == o.toNat) = none := by
      rw [List.find?_eq_none]
      have hall := (h.resolve_left hok.1.not_ge).resolve_left (not_not.2 hok.2)
      exact fun b hb => by simpa using hall b hb
    rw [bind_of_gives (check_of_true ((barrierOffset_ok_iff o).2 hok) _ _ s), bind_of_gives (cur_gives s), hnone]
    rfl
  · have hbad := Bool.eq_false_iff.2 (mt (barrierOffset_ok_iff o).1 hok)
    exact bind_of_error (check_of_false hbad _ _ s) _

theorem awaitBarrier_of_found (hlt : o.toNat < 2 ^ 21) (h16 : o.toNat % 16 = 0)
    (hb : s.cur.barriers.find? (fun x => x.off == o.toNat) = some b) :
    awaitBarrier d o p s = passPhase d p s.cur b s := by
  rw [awaitBarrier, bind_of_gives (check_of_true ((barrierOffset_ok_iff o).2 ⟨hlt, h16⟩) _ _ s),
    bind_of_gives (cur_gives s), hb]

end

/-! WAITB ends as `awaitBarrier` does. -/

/-- A value that is not marked is read as it is. -/
theorem useClean_gives {v : Val} (h : v.mark = false) (s : State) : Gives (useClean v) s v.bits s :=
  gives_bind (check_of_true (by rw [h]; rfl) _ _ s) (gives_pure _ s)

/-- An instruction whose effect stops with a fault that it delivers, where there is room for the record. -/
theorem issue_delivers {i : Instr} {body : M Flow} {s : State} {f : FaultInfo} {n : Note} (h : issues i s = true)
    (hb : body s = .error (.deliver f n)) (hroom : s.recordsFull s.cur.key f = false) :
    issue i body s = .next (takeFault f (n.mark s)) := by
  obtain ⟨hbusy, hsteps, hon, hblock, hround⟩ := (issues_iff i s).1 h
  simp [issue, hbusy, hsteps, hon, hblock, hround, runBody, hb, hroom]

/-- WAITB reads both operands, which may not be marked, and goes by them. -/
theorem waitbBody_of_operands {d off ph : Scalar} {s u : State} {vs : List Val} (hoff : srcBound off s)
    (hph : srcBound ph s) (hd : dstBound d s) (hvs : Operands [off, ph] s vs u) (h0 : (nthVal vs 0).mark = false)
    (h1 : (nthVal vs 1).mark = false) :
    waitbBody d off ph s = awaitBarrier d (nthVal vs 0).bits (nthVal vs 1).bits u := by
  rw [waitbBody, bind_of_gives hoff, bind_of_gives hph, bind_of_gives hd, bind_of_gives hvs,
    bind_of_gives (useClean_gives h0 u), bind_of_gives (useClean_gives h1 u)]
  rfl

/-- Settles O60: `awaitBarrier` makes both checks, and then its barrier's phase decides. -/
theorem waitbWaitsForItsPhase : Obligations.WaitbWaitsForItsPhase := by
  intro d off ph s u vs hi hoff hph hd hvs h0 h1
  have hbody := waitbBody_of_operands hoff hph hd hvs h0 h1
  refine ⟨fun hbad => issue_raises hi (hbody.trans (awaitBarrier_faults hbad)), fun b hlt h16 hb => ?_⟩
  rw [awaitBarrier_of_found hlt h16 hb] at hbody
  have hat : b.off = (nthVal vs 0).bits.toNat := by simpa using List.find?_some hb
  dsimp only
  rw [← hat]
  refine ⟨fun hsame => ?_, fun hdiff => ⟨fun m f hm hf hroom => ?_, fun hnone t ht => ?_⟩⟩
  · exact issue_gives hi (hbody.trans (passPhase_parks hsame))
  · have hfault : u.cur.phaseFault b.off b.flips = some (m, f) := by
      rw [Context.phaseFault_eq_head?, hm, Option.bind_some, hf, Option.map_some]
    exact issue_delivers hi (hbody.trans (passPhase_delivers hdiff hfault)) hroom
  · have hfault : u.cur.phaseFault b.off b.flips = none := by
      rw [Context.phaseFault_eq_head?, hnone, List.head?_nil, Option.bind_none]
    exact issue_gives hi (hbody.trans (passPhase_acquires hdiff hfault ht))

end Sys2Proof.Machine
end

section
/-! PROOFS. R158 to R166: decoding and encoding are inverse to each other. A word is cut into the fields of its form; each
major's decoder is then read at those fields. -/
namespace Sys2Proof

/-! Specifiers. -/

@[simp] theorem Scalar.ofNat_toNat (x : Scalar) : Scalar.ofNat x.toNat = x := by
  cases x with
  | g n => simp [toNat, ofNat]
  | q n => rw [toNat, ofNat, if_neg (by omega), if_pos (by omega)]; simp
  | c n => rw [toNat, ofNat, if_neg (by omega), if_neg (by omega), if_pos (by omega)]; simp
  | rsv n => rw [toNat, ofNat, if_neg (by omega), if_neg (by omega), if_neg (by omega)]; simp

@[simp] theorem VSpec.ofNat_toNat (x : VSpec) : VSpec.ofNat x.toNat = x := by
  cases x with
  | v n => simp [toNat, ofNat]
  | y n => rw [toNat, ofNat, if_neg (by omega), if_pos (by omega)]; simp
  | c n => rw [toNat, ofNat, if_neg (by omega), if_neg (by omega)]; simp

theorem Scalar.toNat_ofNat {n : Nat} (h : n < 64) : (Scalar.ofNat n).toNat = n := by
  unfold Scalar.ofNat
  split_ifs <;> simp only [Scalar.toNat, Fin.val_ofNat] <;> omega

theorem VSpec.toNat_ofNat {n : Nat} (h : n < 32) : (VSpec.ofNat n).toNat = n := by
  unfold VSpec.ofNat
  split_ifs <;> simp only [VSpec.toNat, Fin.val_ofNat] <;> omega

@[simp] theorem needZero_eq_ok_iff {ok : Bool} {i j : Instr} : needZero ok i = .ok j ↔ ok = true ∧ i = j := by
  cases ok <;> simp [needZero]

/-! The fields of each form (R160), read back from a word. -/

section
variable {m f7 bn an dn : Nat}

theorem encA_major (hm : m < 64) : encA m f7 bn an dn / 2 % 64 = m := by unfold encA; omega
theorem encA_d (hm : m < 64) (hd : dn < 64) : encA m f7 bn an dn / 128 % 64 = dn := by unfold encA; omega
theorem encA_s1 (hm : m < 64) (hd : dn < 64) (ha : an < 64) : encA m f7 bn an dn / 8192 % 64 = an := by
  unfold encA; omega
theorem encA_s2 (hm : m < 64) (hd : dn < 64) (ha : an < 64) (hb : bn < 64) :
    encA m f7 bn an dn / 524288 % 64 = bn := by unfold encA; omega
theorem encA_f7 (hm : m < 64) (hd : dn < 64) (ha : an < 64) (hb : bn < 64) (hf : f7 < 128) :
    encA m f7 bn an dn / 33554432 % 128 = f7 := by unfold encA; omega

variable (hd : dn < 64) (ha : an < 64) (hb : bn < 64) (hf : f7 < 128)
include hd ha hb hf

theorem decode32_alu : decode32 (encA 0 f7 bn an dn) =
    decodeAlu f7 (.ofNat dn) (.ofNat an) (.ofNat bn) (bn == 0) := by
  simp [decode32, encA_major, encA_d, encA_s1, encA_s2, encA_f7, *]

theorem decode32_field : decode32 (encA 20 f7 bn an dn) =
    decodeField f7 (.ofNat dn) (.ofNat an) (.ofNat bn) (dn == 0) (bn == 0) := by
  simp [decode32, encA_major, encA_d, encA_s1, encA_s2, encA_f7, *]

theorem decode32_system : decode32 (encA 27 f7 bn an dn) =
    decodeSystem f7 (.ofNat dn) (.ofNat an) (.ofNat bn) dn bn (dn == 0) (an == 0) (bn == 0) := by
  simp [decode32, encA_major, encA_d, encA_s1, encA_s2, encA_f7, *]

theorem decode32_task : decode32 (encA 28 f7 bn an dn) =
    decodeTask f7 (.ofNat dn) (.ofNat an) (.ofNat bn) (dn == 0) := by
  simp [decode32, encA_major, encA_d, encA_s1, encA_s2, encA_f7, *]

theorem decode32_channel : decode32 (encA 29 f7 bn an dn) =
    decodeChannel f7 (.ofNat dn) (.ofNat an) (.ofNat bn) bn (bn == 0) := by
  simp [decode32, encA_major, encA_d, encA_s1, encA_s2, encA_f7, *]

theorem decode32_fence : decode32 (encA 30 f7 bn an dn) =
    decodeFence f7 (dn == 0 && an == 0 && bn == 0) := by
  simp [decode32, encA_major, encA_d, encA_s1, encA_s2, encA_f7, *]

theorem decode32_vmem : decode32 (encA 37 f7 bn an dn) =
    decodeVMem f7 dn an bn := by
  simp [decode32, encA_major, encA_d, encA_s1, encA_s2, encA_f7, *]

theorem decode32_vfield : decode32 (encA 38 f7 bn an dn) =
    decodeVField f7 dn an bn := by
  simp [decode32, encA_major, encA_d, encA_s1, encA_s2, encA_f7, *]

theorem decode32_vacc : decode32 (encA 39 f7 bn an dn) =
    decodeVAcc f7 dn an bn := by
  simp [decode32, encA_major, encA_d, encA_s1, encA_s2, encA_f7, *]

theorem decode32_copy : decode32 (encA 48 f7 bn an dn) =
    decodeCopy f7 (.ofNat dn) (.ofNat an) (.ofNat bn) (dn == 0) := by
  simp [decode32, encA_major, encA_d, encA_s1, encA_s2, encA_f7, *]

theorem decode32_matrix : decode32 (encA 49 f7 bn an dn) =
    decodeMatrix f7 (.ofNat dn) (.ofNat an) (.ofNat bn) (dn == 0) (bn == 0) := by
  simp [decode32, encA_major, encA_d, encA_s1, encA_s2, encA_f7, *]

theorem decode32_lamp : decode32 (encA 50 f7 bn an dn) =
    decodeLamp f7 (.ofNat dn) (.ofNat an) (.ofNat bn) (dn == 0) (bn == 0) := by
  simp [decode32, encA_major, encA_d, encA_s1, encA_s2, encA_f7, *]

/-- Major 0x22 in form VX. -/
theorem decode32_vmove_encA : decode32 (encA 34 f7 bn an dn) =
    decodeVMove f7 (Fin.ofNat 8 (encA 34 f7 bn an dn / 4194304 % 8)) (.ofNat (encA 34 f7 bn an dn / 128 % 32))
      (.ofNat (encA 34 f7 bn an dn / 4096 % 32)) (.ofNat (encA 34 f7 bn an dn / 131072 % 32))
      (encA 34 f7 bn an dn / 4096 % 32 == 0) (encA 34 f7 bn an dn / 131072 % 32 == 0) dn an bn := by
  simp [decode32, encA_major, encA_d, encA_s1, encA_s2, encA_f7, *]

end

section
variable {m f7 t bn an dn : Nat}

theorem encV_major (hm : m < 64) : encV m f7 t bn an dn / 2 % 64 = m := by unfold encV; omega
theorem encV_vd (hm : m < 64) (hd : dn < 32) : encV m f7 t bn an dn / 128 % 32 = dn := by unfold encV; omega
theorem encV_vs1 (hm : m < 64) (hd : dn < 32) (ha : an < 32) : encV m f7 t bn an dn / 4096 % 32 = an := by
  unfold encV; omega
theorem encV_vs2 (hm : m < 64) (hd : dn < 32) (ha : an < 32) (hb : bn < 32) :
    encV m f7 t bn an dn / 131072 % 32 = bn := by unfold encV; omega
theorem encV_t (hm : m < 64) (hd : dn < 32) (ha : an < 32) (hb : bn < 32) (ht : t < 8) :
    encV m f7 t bn an dn / 4194304 % 8 = t := by unfold encV; omega
theorem encV_f7 (hm : m < 64) (hd : dn < 32) (ha : an < 32) (hb : bn < 32) (ht : t < 8) (hf : f7 < 128) :
    encV m f7 t bn an dn / 33554432 % 128 = f7 := by unfold encV; omega

variable (hd : dn < 32) (ha : an < 32) (hb : bn < 32) (ht : t < 8) (hf : f7 < 128)
include hd ha hb ht hf

theorem decode32_vfloat : decode32 (encV 32 f7 t bn an dn) =
    decodeVFloat f7 (Fin.ofNat 8 t) (.ofNat dn) (.ofNat an) (.ofNat bn) (bn == 0) := by
  simp [decode32, encV_major, encV_vd, encV_vs1, encV_vs2, encV_t, encV_f7, *]

theorem decode32_vint : decode32 (encV 33 f7 t bn an dn) =
    decodeVInt f7 (Fin.ofNat 8 t) (.ofNat dn) (.ofNat an) (.ofNat bn) (bn == 0) := by
  simp [decode32, encV_major, encV_vd, encV_vs1, encV_vs2, encV_t, encV_f7, *]

theorem decode32_vmove : decode32 (encV 34 f7 t bn an dn) =
    decodeVMove f7 (Fin.ofNat 8 t) (.ofNat dn) (.ofNat an) (.ofNat bn) (an == 0) (bn == 0)
      (encV 34 f7 t bn an dn / 128 % 64) (encV 34 f7 t bn an dn / 8192 % 64) (encV 34 f7 t bn an dn / 524288 % 64) := by
  simp [decode32, encV_major, encV_vd, encV_vs1, encV_vs2, encV_t, encV_f7, *]

theorem decode32_vcvt : decode32 (encV 35 f7 t bn an dn) =
    decodeVCvt f7 (Fin.ofNat 8 t) (.ofNat dn) (.ofNat an) (.ofNat bn) bn := by
  simp [decode32, encV_major, encV_vd, encV_vs1, encV_vs2, encV_t, encV_f7, *]

theorem decode32_vreduce : decode32 (encV 36 f7 t bn an dn) =
    decodeVReduce f7 (Fin.ofNat 8 t) (.ofNat dn) (.ofNat an) bn := by
  simp [decode32, encV_major, encV_vd, encV_vs1, encV_vs2, encV_t, encV_f7, *]

end

/-! Every encoding of four bytes decodes to its instruction. -/

theorem VSpec.toNat_lt_64 (x : VSpec) : x.toNat < 64 := x.toNat_lt.trans (by decide)

theorem decode32_encI {m : Nat} {imm : BitVec 13} {an dn : Nat} {i : Scalar → Scalar → BitVec 13 → Instr}
    (hi : ∀ w, w / 2 % 64 = m → decode32 w =
      .ok (i (.ofNat (w / 128 % 64)) (.ofNat (w / 8192 % 64)) (BitVec.ofNat 13 (w / 524288 % 8192))))
    (hm : m < 64) (hd : dn < 64) (ha : an < 64) :
    decode32 (encI m imm an dn) = .ok (i (.ofNat dn) (.ofNat an) imm) := by
  have himm := imm.isLt
  have hmaj : encI m imm an dn / 2 % 64 = m := by unfold encI; omega
  have hdn : encI m imm an dn / 128 % 64 = dn := by unfold encI; omega
  have han : encI m imm an dn / 8192 % 64 = an := by unfold encI; omega
  have hin : encI m imm an dn / 524288 % 8192 = imm.toNat := by unfold encI; omega
  rw [hi _ hmaj, hdn, han, hin, BitVec.ofNat_toNat, BitVec.setWidth_eq]

theorem decode32_encW {m : Nat} {imm : BitVec 19} {dn : Nat} {i : Scalar → BitVec 19 → Instr}
    (hi : ∀ w, w / 2 % 64 = m →
      decode32 w = .ok (i (.ofNat (w / 128 % 64)) (BitVec.ofNat 19 (w / 8192 % 524288))))
    (hm : m < 64) (hd : dn < 64) : decode32 (encW m imm dn) = .ok (i (.ofNat dn) imm) := by
  have himm := imm.isLt
  have hmaj : encW m imm dn / 2 % 64 = m := by unfold encW; omega
  have hdn : encW m imm dn / 128 % 64 = dn := by unfold encW; omega
  have hin : encW m imm dn / 8192 % 524288 = imm.toNat := by unfold encW; omega
  rw [hi _ hmaj, hdn, hin, BitVec.ofNat_toNat, BitVec.setWidth_eq]

theorem decode32_encS {m : Nat} {off : BitVec 11} {z : Fin 4} {bn dn : Nat}
    {i : Scalar → Scalar → Fin 4 → BitVec 11 → Instr}
    (hi : ∀ w, w / 2 % 64 = m → decode32 w = .ok (i (.ofNat (w / 128 % 64)) (.ofNat (w / 8192 % 64))
      (Fin.ofNat 4 (w / 524288 % 4)) (BitVec.ofNat 11 (w / 2097152 % 2048))))
    (hm : m < 64) (hd : dn < 64) (hb : bn < 64) :
    decode32 (encS m off z bn dn) = .ok (i (.ofNat dn) (.ofNat bn) z off) := by
  have hoff := off.isLt
  have hz := z.isLt
  have hmaj : encS m off z bn dn / 2 % 64 = m := by unfold encS; omega
  have hdn : encS m off z bn dn / 128 % 64 = dn := by unfold encS; omega
  have hbn : encS m off z bn dn / 8192 % 64 = bn := by unfold encS; omega
  have hzn : encS m off z bn dn / 524288 % 4 = z.val := by unfold encS; omega
  have hon : encS m off z bn dn / 2097152 % 2048 = off.toNat := by unfold encS; omega
  rw [hi _ hmaj, hdn, hbn, hzn, hon, BitVec.ofNat_toNat, BitVec.setWidth_eq, Fin.ofNat_eq_cast, Fin.cast_val_eq_self]

section
variable {m f7 x g l n : Nat}

theorem encT_major (hm : m < 64) : encT m f7 x g l n / 2 % 64 = m := by unfold encT; omega
theorem encT_n (hm : m < 64) (hn : n < 8) : encT m f7 x g l n / 128 % 8 = n := by unfold encT; omega
theorem encT_l (hm : m < 64) (hn : n < 8) (hl : l < 8) : encT m f7 x g l n / 1024 % 8 = l := by unfold encT; omega
theorem encT_g (hm : m < 64) (hn : n < 8) (hl : l < 8) (hg : g < 64) : encT m f7 x g l n / 8192 % 64 = g := by
  unfold encT; omega
theorem encT_x (hm : m < 64) (hn : n < 8) (hl : l < 8) (hg : g < 64) (hx : x < 64) :
    encT m f7 x g l n / 524288 % 64 = x := by unfold encT; omega
theorem encT_f7 (hm : m < 64) (hn : n < 8) (hl : l < 8) (hg : g < 64) (hx : x < 64) (hf : f7 < 128) :
    encT m f7 x g l n / 33554432 % 128 = f7 := by unfold encT; omega

variable (hn : n < 8) (hl : l < 8) (hg : g < 64) (hx : x < 64) (hf : f7 < 128)
include hn hl hg hx hf

theorem decode32_prepare : decode32 (encT 25 f7 x g l n) =
    decodePrepare f7 (Fin.ofNat 8 n) (Fin.ofNat 8 l) (.ofNat g) (.ofNat x) (l == 0) (g == 0) (x == 0) := by
  simp [decode32, encT_major, encT_n, encT_l, encT_g, encT_x, encT_f7, *]

theorem decode32_transfer : decode32 (encT 26 f7 x g l n) =
    decodeTransfer f7 (Fin.ofNat 8 n) (Fin.ofNat 8 l) (.ofNat g) (Fin.ofNat 64 x) (l == 0) (g == 0) (x == 0) := by
  simp [decode32, encT_major, encT_n, encT_l, encT_g, encT_x, encT_f7, *]

end

theorem decode32_prep (n : Fin 8) (imm : BitVec 19) :
    decode32 (1 + 2 * 24 + 128 * n.val + 8192 * imm.toNat) = .ok (.prep n imm) := by
  have himm := imm.isLt
  have hn := n.isLt
  generalize hw : 1 + 2 * 24 + 128 * n.val + 8192 * imm.toNat = w
  have hmaj : w / 2 % 64 = 24 := by omega
  have hnn : w / 128 % 8 = n.val := by omega
  have hl : w / 1024 % 8 = 0 := by omega
  have hin : w / 8192 % 524288 = imm.toNat := by omega
  simp [decode32, needZero, hmaj, hnn, hl, hin]

theorem decode32_shift {k : Nat} {an dn bn : Nat} (hk : k < 3) (hd : dn < 64) (ha : an < 64) (hb : bn < 64) :
    decode32 (encA 5 (32 * k) bn an dn) = .ok (match k with
      | 0 => .shli (.ofNat dn) (.ofNat an) (Fin.ofNat 64 bn)
      | 1 => .shri (.ofNat dn) (.ofNat an) (Fin.ofNat 64 bn)
      | _ => .srai (.ofNat dn) (.ofNat an) (Fin.ofNat 64 bn)) := by
  have hz : encA 5 (32 * k) bn an dn / 33554432 % 32 = 0 := by unfold encA; omega
  have hkn : encA 5 (32 * k) bn an dn / 1073741824 % 4 = k := by unfold encA; omega
  simp only [decode32, encA_major, encA_d, encA_s1, encA_s2, hz, hkn, hd, ha, hb, Nat.reduceLT]
  interval_cases k <;> rfl

/-- A fence's f7 holds its kind and its scope. -/
theorem decodeFence_at (z : Fin 4) {k : Nat} (hk : k < 4) (fields0 : Bool) :
    decodeFence (k + 4 * z.val) fields0 = (match (generalizing := false) k with
      | 1 => needZero fields0 (.fenceAcq z)
      | 2 => needZero fields0 (.fenceRel z)
      | 3 => needZero fields0 (.fenceFull z)
      | _ => .error (.illegalInstruction 4)) := by
  have hz := z.isLt
  have h0 : (k + 4 * z.val) / 16 = 0 := by omega
  have hs : (k + 4 * z.val) / 4 % 4 = z.val := by omega
  have hm : (k + 4 * z.val) % 4 = k := by omega
  simp [decodeFence, h0, hs, hm] <;> rfl

/-! The 16-bit layouts (R158, R159). -/

theorem decode16_encShort {op : Nat} (hop : op < 16) (s d : VSpec) : decode16 (encShort op s d) =
    (match (generalizing := false) op with
    | 0 => .ok (.vaddF32S d s)
    | 1 => .ok (.vsubF32S d s)
    | 2 => .ok (.vmulF32S d s)
    | 3 => .ok (.vfmaF32S d s)
    | 4 => .ok (.vmaxF32S d s)
    | 5 => .ok (.vminF32S d s)
    | 6 => .ok (.vaddBf16S d s)
    | 7 => .ok (.vfmaBf16S d s)
    | 8 => .ok (.viaddI32S d s)
    | 9 => .ok (.visubI32S d s)
    | 10 => .ok (.viandS d s)
    | 11 => .ok (.viorS d s)
    | 12 => .ok (.vixorS d s)
    | 13 => .ok (.vimaxI32S d s)
    | 14 => .ok (.vmovS d s)
    | _ => .ok (.viminI32S d s)) := by
  have hs := s.toNat_lt
  have hd := d.toNat_lt
  have hlane : encShort op s d / 2 % 2 = 0 := by unfold encShort; omega
  have hopn : encShort op s d / 4 % 16 = op := by unfold encShort; omega
  have hdn : encShort op s d / 64 % 32 = d.toNat := by unfold encShort; omega
  have hsn : encShort op s d / 2048 % 32 = s.toNat := by unfold encShort; omega
  simp only [decode16, hlane, hopn, hdn, hsn, if_true, VSpec.ofNat_toNat] <;> rfl

theorem decode16_guard (sense : Bool) (bit : Fin 64) (n : Fin 32) :
    decode16 (encodeWord (.guard sense bit n)) = .ok (.guard sense bit n) := by
  change decode16 (2 + 16 * n.val + 512 * bit.val + 32768 * sense.toNat) = _
  have hb := bit.isLt
  have hn := n.isLt
  have hs := sense.toNat_lt
  generalize hw : 2 + 16 * n.val + 512 * bit.val + 32768 * sense.toNat = w
  have h2 : w / 2 % 2 = 1 := by omega
  have h4 : w / 4 % 4 = 0 := by omega
  have hbn : w / 512 % 64 = bit.val := by omega
  have hnn : w / 16 % 32 = n.val := by omega
  have hsn : w / 32768 % 2 = sense.toNat := by omega
  simp only [decode16, h2, h4, hbn, hnn, hsn]
  cases sense <;> simp

theorem decode16_vguard (sense : Bool) (bit n : Fin 32) :
    decode16 (encodeWord (.vguard sense bit n)) = .ok (.vguard sense bit n) := by
  change decode16 (6 + 16 * n.val + 512 * bit.val + 16384 * sense.toNat) = _
  have hb := bit.isLt
  have hn := n.isLt
  have hs := sense.toNat_lt
  generalize hw : 6 + 16 * n.val + 512 * bit.val + 16384 * sense.toNat = w
  have h2 : w / 2 % 2 = 1 := by omega
  have h4 : w / 4 % 4 = 1 := by omega
  have h0 : w / 32768 % 2 = 0 := by omega
  have hbn : w / 512 % 32 = bit.val := by omega
  have hnn : w / 16 % 32 = n.val := by omega
  have hsn : w / 16384 % 2 = sense.toNat := by omega
  simp only [decode16, h2, h4, h0, hbn, hnn, hsn]
  cases sense <;> simp

theorem decode16_encodeWord (i : Instr) (h : i.len = 2) : decode16 (encodeWord i) = .ok i := by
  cases i with
  | guard sense bit n => exact decode16_guard sense bit n
  | vguard sense bit n => exact decode16_vguard sense bit n
  | nop16 | yield16 => rfl
  | vaddF32S d s | vsubF32S d s | vmulF32S d s | vfmaF32S d s | vmaxF32S d s | vminF32S d s | vaddBf16S d s
  | vfmaBf16S d s | viaddI32S d s | visubI32S d s | viandS d s | viorS d s | vixorS d s | vimaxI32S d s | vmovS d s
  | viminI32S d s => exact decode16_encShort (by decide) s d
  | _ => nomatch h

/-! The bytes of a word. The decoder reads the low bytes alone. -/

theorem field_mod {b lo n : Nat} (h : lo * n ∣ b) (w : Nat) : w % b / lo % n = w / lo % n := by
  rw [← Nat.mod_mul_right_div_self (w % b), Nat.mod_mod_of_dvd w h, Nat.mod_mul_right_div_self]

theorem decode16_mod (w : Nat) : decode16 (w % 65536) = decode16 w := by
  have field {lo n : Nat} (h : lo * n ∣ 65536) : w % 65536 / lo % n = w / lo % n := field_mod h w
  simp (disch := decide) only [decode16, field]

theorem decode32_mod (w : Nat) : decode32 (w % 4294967296) = decode32 w := by
  have field {lo n : Nat} (h : lo * n ∣ 4294967296) : w % 4294967296 / lo % n = w / lo % n := field_mod h w
  simp (disch := decide) only [decode32, field]

theorem decode_bytes2 {w : Nat} (hev : w % 2 = 0) (rest : List Byte) : decode (bytesOfNat 2 w ++ rest) = decode16 w := by
  have hlow : (w % 256 + 256 * (w / 256 % 256)) % 2 = 0 := by omega
  have hsum : w % 256 + 256 * (w / 256 % 256) = w % 65536 := by omega
  rw [← decode16_mod, ← hsum]
  simp [bytesOfNat, decode, hlow]

theorem decode_bytes4 {w : Nat} (hodd : w % 2 = 1) (rest : List Byte) : decode (bytesOfNat 4 w ++ rest) = decode32 w := by
  have hlow : (w % 256 + 256 * (w / 256 % 256)) % 2 = 1 := by omega
  have hsum : w % 256 + 256 * (w / 256 % 256) + 65536 * (w / 65536 % 256 + 256 * (w / 16777216 % 256)) =
      w % 4294967296 := by omega
  rw [← decode32_mod, ← hsum]
  simp [bytesOfNat, decode, hlow, Nat.div_div_eq_div_mul]

/-! Bit 0 tells the length (R6): every form of four bytes sets it, and no layout of two. -/

theorem encA_odd (m f7 bn an dn : Nat) : encA m f7 bn an dn % 2 = 1 := by unfold encA; omega
theorem encI_odd (m : Nat) (imm : BitVec 13) (an dn : Nat) : encI m imm an dn % 2 = 1 := by unfold encI; omega
theorem encW_odd (m : Nat) (imm : BitVec 19) (dn : Nat) : encW m imm dn % 2 = 1 := by unfold encW; omega
theorem encS_odd (m : Nat) (off : BitVec 11) (z : Fin 4) (bn dn : Nat) : encS m off z bn dn % 2 = 1 := by
  unfold encS; omega
theorem encT_odd (m f7 x g l n : Nat) : encT m f7 x g l n % 2 = 1 := by unfold encT; omega
theorem encV_odd (m f7 t bn an dn : Nat) : encV m f7 t bn an dn % 2 = 1 := by unfold encV; omega
theorem encShort_even (op : Nat) (s d : VSpec) : encShort op s d % 2 = 0 := by unfold encShort; omega

theorem prepWord_odd (n : Fin 8) (imm : BitVec 19) : (1 + 2 * 24 + 128 * n.val + 8192 * imm.toNat) % 2 = 1 := by omega

theorem decode_bytes4_of {w : Nat} {r : Except Reject Instr} {rest : List Byte} (hodd : w % 2 = 1) (h : decode32 w = r) :
    decode (bytesOfNat 4 w ++ rest) = r := (decode_bytes4 hodd rest).trans h

/-- Every encoding of four bytes decodes to its instruction. -/
theorem decode_encode_of_len_four (i : Instr) (h : i.len = 4) (rest : List Byte) :
    decode (bytesOfNat 4 (encodeWord i) ++ rest) = .ok i := by
  cases i with
  | add d a b | sub d a b | and d a b | or d a b | xor d a b | shl d a b | shr d a b | sra d a b | min d a b | max d a b
  | minn d a b | maxn d a b | mul d a b | mulh d a b | mulhn d a b | div d a b | divn d a b | rem d a b | remn d a b
  | bfx d a b | bfi d a b | cmp d a b | cmpf d a b | fadd d a b | fsub d a b | fmul d a b =>
    exact decode_bytes4_of (encA_odd ..)
      ((decode32_alu d.toNat_lt a.toNat_lt b.toNat_lt (by decide)).trans (by simp [decodeAlu]))
  | clz d a | popc d a | ftoi d a | itof d a =>
    exact decode_bytes4_of (encA_odd ..)
      ((decode32_alu d.toNat_lt a.toNat_lt (by decide) (by decide)).trans (by simp [decodeAlu]))
  | addi d a imm | andi d a imm | ori d a imm | xori d a imm | cmpi d a imm =>
    exact decode_bytes4_of (encI_odd ..)
      ((decode32_encI (fun w hw => by simp only [decode32, hw]; rfl) (by decide) d.toNat_lt a.toNat_lt).trans (by simp))
  | shli d a n =>
    exact decode_bytes4_of (encA_odd ..)
      ((decode32_shift (k := 0) (by decide) d.toNat_lt a.toNat_lt n.isLt).trans (by simp))
  | shri d a n =>
    exact decode_bytes4_of (encA_odd ..)
      ((decode32_shift (k := 1) (by decide) d.toNat_lt a.toNat_lt n.isLt).trans (by simp))
  | srai d a n =>
    exact decode_bytes4_of (encA_odd ..)
      ((decode32_shift (k := 2) (by decide) d.toNat_lt a.toNat_lt n.isLt).trans (by simp))
  | movi d imm | ldc d imm | addpc d imm =>
    exact decode_bytes4_of (encW_odd ..)
      ((decode32_encW (fun w hw => by simp only [decode32, hw]; rfl) (by decide) d.toNat_lt).trans (by simp))
  | ld d b z o | ldz d b z o | st d b z o =>
    exact decode_bytes4_of (encS_odd ..)
      ((decode32_encS (fun w hw => by simp only [decode32, hw]; rfl) (by decide) d.toNat_lt b.toNat_lt).trans (by simp))
  | joinH a b | joinW a b | joinD a b | joinHRel a b | joinWRel a b | joinDRel a b | xjoinF a b | xjoinI a b
  | xjoinFRel a b | xjoinIRel a b | freeze a b | fallow a b =>
    exact decode_bytes4_of (encA_odd ..)
      ((decode32_field (by decide) a.toNat_lt b.toNat_lt (by decide)).trans (by simp [decodeField]))
  | await d a b | awaitAny d a b | probe d a b =>
    exact decode_bytes4_of (encA_odd ..)
      ((decode32_field d.toNat_lt a.toNat_lt b.toNat_lt (by decide)).trans (by simp [decodeField]))
  | awaitFilled d a | ldxW d a | ldxD d a =>
    exact decode_bytes4_of (encA_odd ..)
      ((decode32_field d.toNat_lt a.toNat_lt (by decide) (by decide)).trans (by simp [decodeField]))
  | prep n imm =>
    exact decode_bytes4_of (prepWord_odd n imm) (decode32_prep n imm)
  | prepr n a =>
    exact decode_bytes4_of (encT_odd ..)
      ((decode32_prepare n.isLt (by decide) a.toNat_lt (by decide) (by decide)).trans (by simp [decodePrepare]))
  | prepx n a b =>
    exact decode_bytes4_of (encT_odd ..)
      ((decode32_prepare n.isLt (by decide) a.toNat_lt b.toNat_lt (by decide)).trans (by simp [decodePrepare]))
  | pmove n l =>
    exact decode_bytes4_of (encT_odd ..)
      ((decode32_prepare n.isLt l.isLt (by decide) (by decide) (by decide)).trans (by simp [decodePrepare]))
  | jmp n =>
    exact decode_bytes4_of (encT_odd ..)
      ((decode32_transfer n.isLt (by decide) (by decide) (by decide) (by decide)).trans (by simp [decodeTransfer]))
  | brT n g bit | brF n g bit =>
    exact decode_bytes4_of (encT_odd ..)
      ((decode32_transfer n.isLt (by decide) g.toNat_lt bit.isLt (by decide)).trans (by simp [decodeTransfer]))
  | call n l =>
    exact decode_bytes4_of (encT_odd ..)
      ((decode32_transfer n.isLt l.isLt (by decide) (by decide) (by decide)).trans (by simp [decodeTransfer]))
  | bdec n g =>
    exact decode_bytes4_of (encT_odd ..)
      ((decode32_transfer n.isLt (by decide) g.toNat_lt (by decide) (by decide)).trans (by simp [decodeTransfer]))
  | endTask | yield | halt | nop =>
    exact decode_bytes4_of (encA_odd ..)
      ((decode32_system (by decide) (by decide) (by decide) (by decide)).trans (by simp [decodeSystem]))
  | trap a | breakpt a =>
    exact decode_bytes4_of (encA_odd ..)
      ((decode32_system (by decide) a.toNat_lt (by decide) (by decide)).trans (by simp [decodeSystem]))
  | eret a b | spmarkKeep a b | spmarkDiscard a b =>
    exact decode_bytes4_of (encA_odd ..)
      ((decode32_system (by decide) a.toNat_lt b.toNat_lt (by decide)).trans (by simp [decodeSystem]))
  | sysrd d n =>
    exact decode_bytes4_of (encA_odd ..)
      ((decode32_system d.toNat_lt (by decide) n.isLt (by decide)).trans (by simp [decodeSystem]))
  | syswr n a =>
    exact decode_bytes4_of (encA_odd ..)
      ((decode32_system (by decide) a.toNat_lt n.isLt (by decide)).trans (by simp [decodeSystem]))
  | tlbinv d a b | l1inv d a b =>
    exact decode_bytes4_of (encA_odd ..)
      ((decode32_system d.toNat_lt a.toNat_lt b.toNat_lt (by decide)).trans (by simp [decodeSystem]))
  | spawn a b | send a b | sendHi a b =>
    exact decode_bytes4_of (encA_odd ..)
      ((decode32_task (by decide) a.toNat_lt b.toNat_lt (by decide)).trans (by simp [decodeTask]))
  | spawnw d a b | sendNb d a b | sendHiNb d a b =>
    exact decode_bytes4_of (encA_odd ..)
      ((decode32_task d.toNat_lt a.toNat_lt b.toNat_lt (by decide)).trans (by simp [decodeTask]))
  | ctryrecv d a b | ctrysend d a b =>
    exact decode_bytes4_of (encA_odd ..)
      ((decode32_channel d.toNat_lt a.toNat_lt b.toNat_lt (by decide)).trans (by simp [decodeChannel]))
  | ctryrecvV d a b | ctrysendV d a b =>
    exact decode_bytes4_of (encA_odd ..)
      ((decode32_channel d.toNat_lt a.toNat_lt b.toNat_lt_64 (by decide)).trans
          (by simp [decodeChannel, b.toNat_lt, Nat.mod_eq_of_lt]))
  | ccount d a =>
    exact decode_bytes4_of (encA_odd ..)
      ((decode32_channel d.toNat_lt a.toNat_lt (by decide) (by decide)).trans (by simp [decodeChannel]))
  | fenceAcq z | fenceRel z | fenceFull z =>
    exact decode_bytes4_of (encA_odd ..)
      ((decode32_fence (by decide) (by decide) (by decide) (by omega)).trans
          ((decodeFence_at z (by decide) _).trans (by simp)))
  | vadd t d a b | vsub t d a b | vmul t d a b | vfma t d a b | vfms t d a b | vmin t d a b | vmax t d a b
  | vscaleb t d a b | vcmpeq t d a b | vcmplt t d a b | vcmple t d a b =>
    exact decode_bytes4_of (encV_odd ..)
      ((decode32_vfloat d.toNat_lt a.toNat_lt b.toNat_lt t.isLt (by decide)).trans (by simp [decodeVFloat]))
  | vabs t d a | vneg t d a | vsqrt t d a | vrcp t d a | vrsq t d a | vexp2 t d a | vlog2 t d a =>
    exact decode_bytes4_of (encV_odd ..)
      ((decode32_vfloat d.toNat_lt a.toNat_lt (by decide) t.isLt (by decide)).trans (by simp [decodeVFloat]))
  | viadd t d a b | visub t d a b | vimul t d a b | vimin t d a b | vimax t d a b | viminn t d a b | vimaxn t d a b
  | viand t d a b | vior t d a b | vixor t d a b | vishl t d a b | vishr t d a b | visra t d a b | vicmpeq t d a b
  | vicmplt t d a b | vicmpltn t d a b | viaddsat t d a b =>
    exact decode_bytes4_of (encV_odd ..)
      ((decode32_vint d.toNat_lt a.toNat_lt b.toNat_lt t.isLt (by decide)).trans (by simp [decodeVInt]))
  | viabs t d a =>
    exact decode_bytes4_of (encV_odd ..)
      ((decode32_vint d.toNat_lt a.toNat_lt (by decide) t.isLt (by decide)).trans (by simp [decodeVInt]))
  | vmov d a =>
    exact decode_bytes4_of (encV_odd ..)
      ((decode32_vmove d.toNat_lt a.toNat_lt (by decide) (by decide) (by decide)).trans (by simp [decodeVMove]))
  | vsel d a b | vperm d a b =>
    exact decode_bytes4_of (encV_odd ..)
      ((decode32_vmove d.toNat_lt a.toNat_lt b.toNat_lt (by decide) (by decide)).trans (by simp [decodeVMove]))
  | viota t d =>
    exact decode_bytes4_of (encV_odd ..)
      ((decode32_vmove d.toNat_lt (by decide) (by decide) t.isLt (by decide)).trans (by simp [decodeVMove]))
  | vkey t d a =>
    exact decode_bytes4_of (encV_odd ..)
      ((decode32_vmove d.toNat_lt a.toNat_lt (by decide) t.isLt (by decide)).trans (by simp [decodeVMove]))
  | vbcast d s =>
    exact decode_bytes4_of (encA_odd ..)
      ((decode32_vmove_encA d.toNat_lt_64 s.toNat_lt (by decide) (by decide)).trans
          (by simp [decodeVMove, d.toNat_lt, Nat.mod_eq_of_lt]))
  | vextr d n a =>
    exact decode_bytes4_of (encA_odd ..)
      ((decode32_vmove_encA d.toNat_lt n.toNat_lt a.toNat_lt_64 (by decide)).trans
          (by simp [decodeVMove, a.toNat_lt, Nat.mod_eq_of_lt]))
  | vins d s n =>
    exact decode_bytes4_of (encA_odd ..)
      ((decode32_vmove_encA d.toNat_lt_64 s.toNat_lt n.toNat_lt (by decide)).trans
          (by simp [decodeVMove, d.toNat_lt, Nat.mod_eq_of_lt]))
  | vcvtF2x f d a | vcvtX2f f d a | vcvtI2x f d a | vcvtX2i f d a =>
    exact decode_bytes4_of (encV_odd ..)
      ((decode32_vcvt d.toNat_lt a.toNat_lt f.isLt (by decide) (by decide)).trans (by simp [decodeVCvt]))
  | vpack t d a b =>
    exact decode_bytes4_of (encV_odd ..)
      ((decode32_vcvt d.toNat_lt a.toNat_lt b.toNat_lt t.isLt (by decide)).trans (by simp [decodeVCvt]))
  | vunpack t d a half sign =>
    exact decode_bytes4_of (encV_odd ..)
      ((decode32_vcvt d.toNat_lt a.toNat_lt (by cases half <;> cases sign <;> decide) t.isLt (by decide)).trans
          (by cases half <;> cases sign <;> simp [decodeVCvt]))
  | vrsum t d a | vrmax t d a | vrmin t d a | vramax t d a =>
    exact decode_bytes4_of (encV_odd ..)
      ((decode32_vreduce d.toNat_lt a.toNat_lt (by decide) t.isLt (by decide)).trans (by simp [decodeVReduce]))
  | vscan t d a op =>
    exact decode_bytes4_of (encV_odd ..)
      ((decode32_vreduce d.toNat_lt a.toNat_lt op.isLt t.isLt (by decide)).trans (by simp [decodeVReduce]))
  | vld v b o | vst v b o | vlds v b o | vsts v b o | vldb v b o =>
    exact decode_bytes4_of (encA_odd ..)
      ((decode32_vmem v.toNat_lt_64 b.toNat_lt o.toNat_lt (by decide)).trans
          (by simp [decodeVMem, v.toNat_lt, Nat.mod_eq_of_lt]))
  | vgather v b o | vscatter v b o =>
    exact decode_bytes4_of (encA_odd ..)
      ((decode32_vmem v.toNat_lt_64 b.toNat_lt o.toNat_lt_64 (by decide)).trans
          (by simp [decodeVMem, v.toNat_lt, o.toNat_lt, Nat.mod_eq_of_lt]))
  | vjoin v b o | vxjoin v b o =>
    exact decode_bytes4_of (encA_odd ..)
      ((decode32_vfield v.toNat_lt_64 b.toNat_lt o.toNat_lt_64 (by decide)).trans
          (by simp [decodeVField, v.toNat_lt, o.toNat_lt, Nat.mod_eq_of_lt]))
  | vlda v t k | vsta v t k | vadda v t k =>
    exact decode_bytes4_of (encA_odd ..)
      ((decode32_vacc v.toNat_lt_64 k.toNat_lt (t.isLt.trans (by decide)) (by decide)).trans
          (by simp [decodeVAcc, v.toNat_lt, Nat.mod_eq_of_lt]))
  | ccopy a b | ccfg a b | cjoin a b | cbar a b =>
    exact decode_bytes4_of (encA_odd ..)
      ((decode32_copy (by decide) a.toNat_lt b.toNat_lt (by decide)).trans (by simp [decodeCopy]))
  | cgather d a b | waitb d a b =>
    exact decode_bytes4_of (encA_odd ..)
      ((decode32_copy d.toNat_lt a.toNat_lt b.toNat_lt (by decide)).trans (by simp [decodeCopy]))
  | mcfg a b | mma a b | mscaleacc a b | mload a b | mstore a b =>
    exact decode_bytes4_of (encA_odd ..)
      ((decode32_matrix (by decide) a.toNat_lt b.toNat_lt (by decide)).trans (by simp [decodeMatrix]))
  | mzero a | mdiscard a =>
    exact decode_bytes4_of (encA_odd ..)
      ((decode32_matrix (by decide) a.toNat_lt (by decide) (by decide)).trans (by simp [decodeMatrix]))
  | mwait d a =>
    exact decode_bytes4_of (encA_odd ..)
      ((decode32_matrix d.toNat_lt a.toNat_lt (by decide) (by decide)).trans (by simp [decodeMatrix]))
  | lcfg a b | lspark a b | lrun a b =>
    exact decode_bytes4_of (encA_odd ..)
      ((decode32_lamp (by decide) a.toNat_lt b.toNat_lt (by decide)).trans (by simp [decodeLamp]))
  | lstop a =>
    exact decode_bytes4_of (encA_odd ..)
      ((decode32_lamp (by decide) a.toNat_lt (by decide) (by decide)).trans (by simp [decodeLamp]))
  | lwait d a =>
    exact decode_bytes4_of (encA_odd ..)
      ((decode32_lamp d.toNat_lt a.toNat_lt (by decide) (by decide)).trans (by simp [decodeLamp]))
  | _ => nomatch h

theorem encodeWord_even (i : Instr) (h : i.len = 2) : encodeWord i % 2 = 0 := by
  cases i with
  | guard sense bit n => change (2 + 16 * n.val + 512 * bit.val + 32768 * sense.toNat) % 2 = 0; omega
  | vguard sense bit n => change (6 + 16 * n.val + 512 * bit.val + 16384 * sense.toNat) % 2 = 0; omega
  | nop16 | yield16 => rfl
  | vaddF32S d s | vsubF32S d s | vmulF32S d s | vfmaF32S d s | vmaxF32S d s | vminF32S d s | vaddBf16S d s
  | vfmaBf16S d s | viaddI32S d s | visubI32S d s | viandS d s | viorS d s | vixorS d s | vimaxI32S d s | vmovS d s
  | viminI32S d s => exact encShort_even _ _ _
  | _ => nomatch h

theorem Instr.len_cases (i : Instr) : (i.len == 0 || i.len == 2 || i.len == 4) = true := by
  cases i <;> rfl

/-- Settles O28: by length, each form's word is decoded back field by field. -/
theorem decodeEncodeRoundTrip : Obligations.DecodeEncodeRoundTrip := by
  intro i rest hi
  rw [encode]
  obtain (h | h) | h : (i.len = 0 ∨ i.len = 2) ∨ i.len = 4 := by simpa using i.len_cases
  · simp [Instr.isEvent, h] at hi
  · rw [h, decode_bytes2 (encodeWord_even i h), decode16_encodeWord i h]
  · rw [h, decode_encode_of_len_four i h]

end Sys2Proof
end

section
/-! PROOFS. R166: a word has one meaning. What a major's decoder accepts has the word that its fields make; the words of
unassigned majors and f7 values are rejected. -/
namespace Sys2Proof
open Sys2Proof.Claims

/-- `i` is the instruction of the four-byte word `w`. -/
def IsWordOf (i : Instr) (w : Nat) : Prop := i.len = 4 ∧ encodeWord i = w

theorem IsWordOf.of_eq {i : Instr} {v w : Nat} (h : IsWordOf i v) (e : w = v) : IsWordOf i w := e ▸ h

theorem fin_ofNat_val {n k : Nat} [NeZero n] (h : k < n) : (Fin.ofNat n k).val = k := Nat.mod_eq_of_lt h

theorem fin_ofNat_mod_val {n k : Nat} [NeZero n] (h : k < n) : (Fin.ofNat n (k % n)).val = k := by
  rw [Nat.mod_eq_of_lt h, fin_ofNat_val h]

theorem VSpec.toNat_ofNat_mod {k : Nat} (h : k < 32) : (VSpec.ofNat (k % 32)).toNat = k := by
  rw [Nat.mod_eq_of_lt h, toNat_ofNat h]

/-! What each major accepts. -/

section
variable {m f7 t bn an dn : Nat} {i : Instr}

theorem isWordOf_encA {b a d : Nat} (hl : i.len = 4) (hw : encodeWord i = encA m f7 b a d) (hb : b = bn) (ha : a = an)
    (hd : d = dn) : IsWordOf i (encA m f7 bn an dn) := ⟨hl, hb ▸ ha ▸ hd ▸ hw⟩

theorem isWordOf_encV {t' b a d : Nat} (hl : i.len = 4) (hw : encodeWord i = encV m f7 t' b a d) (ht : t' = t) (hb : b = bn)
    (ha : a = an) (hd : d = dn) : IsWordOf i (encV m f7 t bn an dn) := ⟨hl, ht ▸ hb ▸ ha ▸ hd ▸ hw⟩

theorem isWordOf_encT {x' g' l' n' x g l n : Nat} (hl : i.len = 4) (hw : encodeWord i = encT m f7 x' g' l' n') (hx : x' = x)
    (hg : g' = g) (hll : l' = l) (hn : n' = n) : IsWordOf i (encT m f7 x g l n) := ⟨hl, hx ▸ hg ▸ hll ▸ hn ▸ hw⟩

section
variable (hd : dn < 64) (ha : an < 64) (hb : bn < 64)
include hd ha hb

theorem decodeAlu_ok (h : decodeAlu f7 (.ofNat dn) (.ofNat an) (.ofNat bn) (bn == 0) = .ok i) :
    IsWordOf i (encA 0 f7 bn an dn) := by
  unfold decodeAlu at h
  split at h <;>
    simp only [needZero_eq_ok_iff, Except.ok.injEq, reduceCtorEq, beq_iff_eq] at h
  case h_20 | h_21 | h_29 | h_30 =>
    obtain ⟨hb0, rfl⟩ := h
    exact isWordOf_encA rfl rfl hb0.symm (Scalar.toNat_ofNat ha) (Scalar.toNat_ofNat hd)
  case h_1 | h_2 | h_3 | h_4 | h_5 | h_6 | h_7 | h_8 | h_9 | h_10 | h_11 | h_12 | h_13 | h_14 | h_15 | h_16 | h_17 | h_18 | h_19 | h_22 | h_23 | h_24 | h_25 | h_26 | h_27 | h_28 =>
    obtain rfl := h
    exact isWordOf_encA rfl rfl (Scalar.toNat_ofNat hb) (Scalar.toNat_ofNat ha) (Scalar.toNat_ofNat hd)

theorem decodeField_ok (h : decodeField f7 (.ofNat dn) (.ofNat an) (.ofNat bn) (dn == 0) (bn == 0) = .ok i) :
    IsWordOf i (encA 20 f7 bn an dn) := by
  unfold decodeField at h
  split at h <;>
    simp only [needZero_eq_ok_iff, Except.ok.injEq, reduceCtorEq, beq_iff_eq] at h
  case h_1 | h_2 | h_3 | h_4 | h_5 | h_6 | h_7 | h_8 | h_9 | h_10 | h_17 | h_18 =>
    obtain ⟨hd0, rfl⟩ := h
    exact isWordOf_encA rfl rfl (Scalar.toNat_ofNat hb) (Scalar.toNat_ofNat ha) hd0.symm
  case h_11 | h_12 | h_14 =>
    obtain rfl := h
    exact isWordOf_encA rfl rfl (Scalar.toNat_ofNat hb) (Scalar.toNat_ofNat ha) (Scalar.toNat_ofNat hd)
  case h_13 | h_15 | h_16 =>
    obtain ⟨hb0, rfl⟩ := h
    exact isWordOf_encA rfl rfl hb0.symm (Scalar.toNat_ofNat ha) (Scalar.toNat_ofNat hd)

theorem decodeTask_ok (h : decodeTask f7 (.ofNat dn) (.ofNat an) (.ofNat bn) (dn == 0) = .ok i) :
    IsWordOf i (encA 28 f7 bn an dn) := by
  unfold decodeTask at h
  split at h <;>
    simp only [needZero_eq_ok_iff, Except.ok.injEq, reduceCtorEq, beq_iff_eq] at h
  case h_1 | h_3 | h_4 =>
    obtain ⟨hd0, rfl⟩ := h
    exact isWordOf_encA rfl rfl (Scalar.toNat_ofNat hb) (Scalar.toNat_ofNat ha) hd0.symm
  case h_2 | h_5 | h_6 =>
    obtain rfl := h
    exact isWordOf_encA rfl rfl (Scalar.toNat_ofNat hb) (Scalar.toNat_ofNat ha) (Scalar.toNat_ofNat hd)

theorem decodeSystem_ok
    (h : decodeSystem f7 (.ofNat dn) (.ofNat an) (.ofNat bn) dn bn (dn == 0) (an == 0) (bn == 0) = .ok i) :
    IsWordOf i (encA 27 f7 bn an dn) := by
  unfold decodeSystem at h
  split at h
  case h_11 =>
    split at h <;> simp only [Except.ok.injEq, reduceCtorEq] at h <;> subst h <;>
      exact isWordOf_encA rfl rfl (Scalar.toNat_ofNat hb) (Scalar.toNat_ofNat ha) rfl
  all_goals
    simp only [needZero_eq_ok_iff, Except.ok.injEq, reduceCtorEq, beq_iff_eq, Bool.and_eq_true] at h
  case h_1 | h_2 | h_5 | h_6 =>
    obtain ⟨⟨⟨hd0, ha0⟩, hb0⟩, rfl⟩ := h
    exact isWordOf_encA rfl rfl hb0.symm ha0.symm hd0.symm
  case h_3 | h_12 =>
    obtain ⟨⟨hd0, hb0⟩, rfl⟩ := h
    exact isWordOf_encA rfl rfl hb0.symm (Scalar.toNat_ofNat ha) hd0.symm
  case h_4 =>
    obtain ⟨hd0, rfl⟩ := h
    exact isWordOf_encA rfl rfl (Scalar.toNat_ofNat hb) (Scalar.toNat_ofNat ha) hd0.symm
  case h_7 =>
    obtain ⟨ha0, rfl⟩ := h
    exact isWordOf_encA rfl rfl (fin_ofNat_val hb) ha0.symm (Scalar.toNat_ofNat hd)
  case h_8 =>
    obtain ⟨hd0, rfl⟩ := h
    exact isWordOf_encA rfl rfl (fin_ofNat_val hb) (Scalar.toNat_ofNat ha) hd0.symm
  case h_9 | h_10 =>
    obtain rfl := h
    exact isWordOf_encA rfl rfl (Scalar.toNat_ofNat hb) (Scalar.toNat_ofNat ha) (Scalar.toNat_ofNat hd)

theorem decodeChannel_ok (h : decodeChannel f7 (.ofNat dn) (.ofNat an) (.ofNat bn) bn (bn == 0) = .ok i) :
    IsWordOf i (encA 29 f7 bn an dn) := by
  unfold decodeChannel at h
  split at h <;>
    simp only [needZero_eq_ok_iff, Except.ok.injEq, reduceCtorEq, beq_iff_eq, decide_eq_true_eq] at h
  case h_1 | h_2 =>
    obtain rfl := h
    exact isWordOf_encA rfl rfl (Scalar.toNat_ofNat hb) (Scalar.toNat_ofNat ha) (Scalar.toNat_ofNat hd)
  case h_3 | h_4 =>
    obtain ⟨hlt, rfl⟩ := h
    exact isWordOf_encA rfl rfl (VSpec.toNat_ofNat_mod hlt) (Scalar.toNat_ofNat ha) (Scalar.toNat_ofNat hd)
  case h_5 =>
    obtain ⟨hb0, rfl⟩ := h
    exact isWordOf_encA rfl rfl hb0.symm (Scalar.toNat_ofNat ha) (Scalar.toNat_ofNat hd)

theorem decodeCopy_ok (h : decodeCopy f7 (.ofNat dn) (.ofNat an) (.ofNat bn) (dn == 0) = .ok i) :
    IsWordOf i (encA 48 f7 bn an dn) := by
  unfold decodeCopy at h
  split at h <;>
    simp only [needZero_eq_ok_iff, Except.ok.injEq, reduceCtorEq, beq_iff_eq] at h
  case h_1 | h_2 | h_4 | h_5 =>
    obtain ⟨hd0, rfl⟩ := h
    exact isWordOf_encA rfl rfl (Scalar.toNat_ofNat hb) (Scalar.toNat_ofNat ha) hd0.symm
  case h_3 | h_6 =>
    obtain rfl := h
    exact isWordOf_encA rfl rfl (Scalar.toNat_ofNat hb) (Scalar.toNat_ofNat ha) (Scalar.toNat_ofNat hd)

theorem decodeMatrix_ok (h : decodeMatrix f7 (.ofNat dn) (.ofNat an) (.ofNat bn) (dn == 0) (bn == 0) = .ok i) :
    IsWordOf i (encA 49 f7 bn an dn) := by
  unfold decodeMatrix at h
  split at h <;>
    simp only [needZero_eq_ok_iff, reduceCtorEq, beq_iff_eq, Bool.and_eq_true] at h
  case h_1 | h_3 | h_4 | h_5 | h_6 =>
    obtain ⟨hd0, rfl⟩ := h
    exact isWordOf_encA rfl rfl (Scalar.toNat_ofNat hb) (Scalar.toNat_ofNat ha) hd0.symm
  case h_2 | h_8 =>
    obtain ⟨⟨hd0, hb0⟩, rfl⟩ := h
    exact isWordOf_encA rfl rfl hb0.symm (Scalar.toNat_ofNat ha) hd0.symm
  case h_7 =>
    obtain ⟨hb0, rfl⟩ := h
    exact isWordOf_encA rfl rfl hb0.symm (Scalar.toNat_ofNat ha) (Scalar.toNat_ofNat hd)

theorem decodeLamp_ok (h : decodeLamp f7 (.ofNat dn) (.ofNat an) (.ofNat bn) (dn == 0) (bn == 0) = .ok i) :
    IsWordOf i (encA 50 f7 bn an dn) := by
  unfold decodeLamp at h
  split at h <;>
    simp only [needZero_eq_ok_iff, reduceCtorEq, beq_iff_eq, Bool.and_eq_true] at h
  case h_1 | h_2 | h_3 =>
    obtain ⟨hd0, rfl⟩ := h
    exact isWordOf_encA rfl rfl (Scalar.toNat_ofNat hb) (Scalar.toNat_ofNat ha) hd0.symm
  case h_4 =>
    obtain ⟨⟨hd0, hb0⟩, rfl⟩ := h
    exact isWordOf_encA rfl rfl hb0.symm (Scalar.toNat_ofNat ha) hd0.symm
  case h_5 =>
    obtain ⟨hb0, rfl⟩ := h
    exact isWordOf_encA rfl rfl hb0.symm (Scalar.toNat_ofNat ha) (Scalar.toNat_ofNat hd)

omit hd in
theorem decodeVMem_ok (h : decodeVMem f7 dn an bn = .ok i) :
    IsWordOf i (encA 37 f7 bn an dn) := by
  unfold decodeVMem at h
  dsimp only at h
  split at h <;>
    simp only [needZero_eq_ok_iff, reduceCtorEq, Bool.and_eq_true, decide_eq_true_eq] at h
  case h_1 | h_2 | h_3 | h_4 | h_7 =>
    obtain ⟨hlt, rfl⟩ := h
    exact isWordOf_encA rfl rfl (Scalar.toNat_ofNat hb) (Scalar.toNat_ofNat ha) (VSpec.toNat_ofNat_mod hlt)
  case h_5 | h_6 =>
    obtain ⟨⟨hlt, hlt2⟩, rfl⟩ := h
    exact isWordOf_encA rfl rfl (VSpec.toNat_ofNat_mod hlt2) (Scalar.toNat_ofNat ha) (VSpec.toNat_ofNat_mod hlt)

omit hd hb in
theorem decodeVField_ok (h : decodeVField f7 dn an bn = .ok i) :
    IsWordOf i (encA 38 f7 bn an dn) := by
  unfold decodeVField at h
  split at h <;>
    simp only [needZero_eq_ok_iff, reduceCtorEq, Bool.and_eq_true, decide_eq_true_eq] at h
  case h_1 | h_2 =>
    obtain ⟨⟨hlt, hlt2⟩, rfl⟩ := h
    exact isWordOf_encA rfl rfl (VSpec.toNat_ofNat_mod hlt2) (Scalar.toNat_ofNat ha) (VSpec.toNat_ofNat_mod hlt)

omit hd hb in
theorem decodeVAcc_ok (h : decodeVAcc f7 dn an bn = .ok i) :
    IsWordOf i (encA 39 f7 bn an dn) := by
  unfold decodeVAcc at h
  dsimp only at h
  split at h <;>
    simp only [needZero_eq_ok_iff, reduceCtorEq, Bool.and_eq_true, decide_eq_true_eq] at h
  case h_1 | h_2 | h_3 =>
    obtain ⟨⟨hlt, hlt2⟩, rfl⟩ := h
    exact isWordOf_encA rfl rfl (fin_ofNat_mod_val hlt2) (Scalar.toNat_ofNat ha) (VSpec.toNat_ofNat_mod hlt)

omit hd ha hb in
theorem decodeFence_ok (h : decodeFence f7 (dn == 0 && an == 0 && bn == 0) = .ok i) :
    IsWordOf i (encA 30 f7 bn an dn) := by
  unfold decodeFence at h
  split at h
  case isFalse => simp at h
  dsimp only at h
  have hscope : (Fin.ofNat 4 (f7 / 4 % 4)).val = f7 / 4 % 4 := fin_ofNat_val (Nat.mod_lt _ (by decide))
  split at h <;>
    simp only [needZero_eq_ok_iff, reduceCtorEq, beq_iff_eq, Bool.and_eq_true] at h
  all_goals
    obtain ⟨⟨⟨hd0, ha0⟩, hb0⟩, rfl⟩ := h
    refine ⟨rfl, ?_⟩
    change encA 30 (_ + 4 * (Fin.ofNat 4 (f7 / 4 % 4)).val) 0 0 0 = _
    rw [hscope, hd0, ha0, hb0]
    congr 1
    omega

end

section
variable {x g l n : Nat} (hn : n < 8) (hl : l < 8) (hg : g < 64) (hx : x < 64)
include hn hl hg hx

theorem decodePrepare_ok (h : decodePrepare f7 (Fin.ofNat 8 n) (Fin.ofNat 8 l) (.ofNat g) (.ofNat x)
    (l == 0) (g == 0) (x == 0) = .ok i) : IsWordOf i (encT 25 f7 x g l n) := by
  unfold decodePrepare at h
  split at h <;>
    simp only [needZero_eq_ok_iff, reduceCtorEq, beq_iff_eq, Bool.and_eq_true] at h
  case h_1 =>
    obtain ⟨⟨hx0, hl0⟩, rfl⟩ := h
    exact isWordOf_encT rfl rfl hx0.symm (Scalar.toNat_ofNat hg) hl0.symm (fin_ofNat_val hn)
  case h_2 =>
    obtain ⟨hl0, rfl⟩ := h
    exact isWordOf_encT rfl rfl (Scalar.toNat_ofNat hx) (Scalar.toNat_ofNat hg) hl0.symm (fin_ofNat_val hn)
  case h_3 =>
    obtain ⟨⟨hx0, hg0⟩, rfl⟩ := h
    exact isWordOf_encT rfl rfl hx0.symm hg0.symm (fin_ofNat_val hl) (fin_ofNat_val hn)

theorem decodeTransfer_ok (h : decodeTransfer f7 (Fin.ofNat 8 n) (Fin.ofNat 8 l) (.ofNat g) (Fin.ofNat 64 x)
    (l == 0) (g == 0) (x == 0) = .ok i) : IsWordOf i (encT 26 f7 x g l n) := by
  unfold decodeTransfer at h
  split at h <;>
    simp only [needZero_eq_ok_iff, reduceCtorEq, beq_iff_eq, Bool.and_eq_true] at h
  case h_1 =>
    obtain ⟨⟨⟨hx0, hg0⟩, hl0⟩, rfl⟩ := h
    exact isWordOf_encT rfl rfl hx0.symm hg0.symm hl0.symm (fin_ofNat_val hn)
  case h_2 | h_3 =>
    obtain ⟨hl0, rfl⟩ := h
    exact isWordOf_encT rfl rfl (fin_ofNat_val hx) (Scalar.toNat_ofNat hg) hl0.symm (fin_ofNat_val hn)
  case h_4 =>
    obtain ⟨⟨hx0, hg0⟩, rfl⟩ := h
    exact isWordOf_encT rfl rfl hx0.symm hg0.symm (fin_ofNat_val hl) (fin_ofNat_val hn)
  case h_5 =>
    obtain ⟨⟨hx0, hl0⟩, rfl⟩ := h
    exact isWordOf_encT rfl rfl hx0.symm (Scalar.toNat_ofNat hg) hl0.symm (fin_ofNat_val hn)

end

section
variable (hd : dn < 32) (ha : an < 32) (hb : bn < 32) (ht : t < 8)
include hd ha hb ht

theorem decodeVFloat_ok (h : decodeVFloat f7 (Fin.ofNat 8 t) (.ofNat dn) (.ofNat an) (.ofNat bn) (bn == 0) = .ok i) :
    IsWordOf i (encV 32 f7 t bn an dn) := by
  unfold decodeVFloat at h
  split at h <;>
    simp only [needZero_eq_ok_iff, Except.ok.injEq, reduceCtorEq, beq_iff_eq] at h
  case h_8 | h_9 | h_10 | h_11 | h_12 | h_13 | h_14 =>
    obtain ⟨hb0, rfl⟩ := h
    exact isWordOf_encV rfl rfl (fin_ofNat_val ht) hb0.symm (VSpec.toNat_ofNat ha) (VSpec.toNat_ofNat hd)
  case h_1 | h_2 | h_3 | h_4 | h_5 | h_6 | h_7 | h_15 | h_16 | h_17 | h_18 =>
    obtain rfl := h
    exact isWordOf_encV rfl rfl (fin_ofNat_val ht) (VSpec.toNat_ofNat hb) (VSpec.toNat_ofNat ha)
      (VSpec.toNat_ofNat hd)

theorem decodeVInt_ok (h : decodeVInt f7 (Fin.ofNat 8 t) (.ofNat dn) (.ofNat an) (.ofNat bn) (bn == 0) = .ok i) :
    IsWordOf i (encV 33 f7 t bn an dn) := by
  unfold decodeVInt at h
  split at h <;>
    simp only [needZero_eq_ok_iff, Except.ok.injEq, reduceCtorEq, beq_iff_eq] at h
  case h_14 =>
    obtain ⟨hb0, rfl⟩ := h
    exact isWordOf_encV rfl rfl (fin_ofNat_val ht) hb0.symm (VSpec.toNat_ofNat ha) (VSpec.toNat_ofNat hd)
  case h_1 | h_2 | h_3 | h_4 | h_5 | h_6 | h_7 | h_8 | h_9 | h_10 | h_11 | h_12 | h_13 | h_15 | h_16 | h_17 | h_18 =>
    obtain rfl := h
    exact isWordOf_encV rfl rfl (fin_ofNat_val ht) (VSpec.toNat_ofNat hb) (VSpec.toNat_ofNat ha)
      (VSpec.toNat_ofNat hd)

theorem decodeVReduce_ok (h : decodeVReduce f7 (Fin.ofNat 8 t) (.ofNat dn) (.ofNat an) bn = .ok i) :
    IsWordOf i (encV 36 f7 t bn an dn) := by
  unfold decodeVReduce at h
  split at h <;>
    simp only [needZero_eq_ok_iff, Except.ok.injEq, reduceCtorEq, beq_iff_eq] at h
  case h_1 | h_2 | h_3 | h_4 =>
    obtain ⟨hb0, rfl⟩ := h
    exact isWordOf_encV rfl rfl (fin_ofNat_val ht) hb0.symm (VSpec.toNat_ofNat ha) (VSpec.toNat_ofNat hd)
  case h_5 =>
    obtain rfl := h
    exact isWordOf_encV rfl rfl (fin_ofNat_val ht) (fin_ofNat_val hb) (VSpec.toNat_ofNat ha) (VSpec.toNat_ofNat hd)

theorem decodeVCvt_ok (h : decodeVCvt f7 (Fin.ofNat 8 t) (.ofNat dn) (.ofNat an) (.ofNat bn) bn = .ok i) :
    IsWordOf i (encV 35 f7 t bn an dn) := by
  have ht' : (Fin.ofNat 8 t).val = t := fin_ofNat_val ht
  unfold decodeVCvt at h
  split at h
  case h_1 =>
    split at h <;> simp only [Except.ok.injEq, reduceCtorEq] at h
    all_goals
      rename_i hk
      subst h
      exact isWordOf_encV rfl rfl (hk.symm.trans ht') (fin_ofNat_val hb) (VSpec.toNat_ofNat ha) (VSpec.toNat_ofNat hd)
  all_goals
    simp only [needZero_eq_ok_iff, Except.ok.injEq, reduceCtorEq, decide_eq_true_eq] at h
  case h_2 =>
    obtain rfl := h
    exact isWordOf_encV rfl rfl (fin_ofNat_val ht) (VSpec.toNat_ofNat hb) (VSpec.toNat_ofNat ha)
      (VSpec.toNat_ofNat hd)
  case h_3 =>
    obtain ⟨hlt, rfl⟩ := h
    refine isWordOf_encV rfl rfl (fin_ofNat_val ht) ?_ (VSpec.toNat_ofNat ha) (VSpec.toNat_ofNat hd)
    interval_cases bn <;> rfl

/-- Major 0x22 reads one word in two forms. -/
theorem decodeVMove_ok {w xd x1 x2 : Nat} (hV : w = encV 34 f7 t bn an dn) (hA : w = encA 34 f7 x2 x1 xd) (h1 : x1 < 64)
    (h2 : x2 < 64) (hxd : xd < 64)
    (h : decodeVMove f7 (Fin.ofNat 8 t) (.ofNat dn) (.ofNat an) (.ofNat bn) (an == 0) (bn == 0) xd x1 x2 = .ok i) :
    IsWordOf i w := by
  have ht' : (Fin.ofNat 8 t).val = t := fin_ofNat_val ht
  unfold decodeVMove at h
  split at h <;>
    simp only [needZero_eq_ok_iff, reduceCtorEq, beq_iff_eq, Bool.and_eq_true, decide_eq_true_eq] at h
  case h_1 =>
    obtain ⟨⟨ht0, hb0⟩, rfl⟩ := h
    exact hV ▸ isWordOf_encV rfl rfl (ht0.symm.trans ht') hb0.symm (VSpec.toNat_ofNat ha) (VSpec.toNat_ofNat hd)
  case h_2 | h_7 =>
    obtain ⟨ht0, rfl⟩ := h
    exact hV ▸ isWordOf_encV rfl rfl (ht0.symm.trans ht') (VSpec.toNat_ofNat hb) (VSpec.toNat_ofNat ha) (VSpec.toNat_ofNat hd)
  case h_3 =>
    obtain ⟨⟨hlt, h20⟩, rfl⟩ := h
    exact hA ▸ isWordOf_encA rfl rfl h20.symm (Scalar.toNat_ofNat h1) (VSpec.toNat_ofNat_mod hlt)
  case h_4 =>
    obtain ⟨hlt, rfl⟩ := h
    exact hA ▸ isWordOf_encA rfl rfl (VSpec.toNat_ofNat_mod hlt) (Scalar.toNat_ofNat h1) (Scalar.toNat_ofNat hxd)
  case h_5 =>
    obtain ⟨hlt, rfl⟩ := h
    exact hA ▸ isWordOf_encA rfl rfl (Scalar.toNat_ofNat h2) (Scalar.toNat_ofNat h1) (VSpec.toNat_ofNat_mod hlt)
  case h_6 =>
    obtain ⟨⟨ha0, hb0⟩, rfl⟩ := h
    exact hV ▸ isWordOf_encV rfl rfl ht' hb0.symm ha0.symm (VSpec.toNat_ofNat hd)
  case h_8 =>
    obtain ⟨hb0, rfl⟩ := h
    exact hV ▸ isWordOf_encV rfl rfl ht' hb0.symm (VSpec.toNat_ofNat ha) (VSpec.toNat_ofNat hd)

end

end

/-! A word in the fields of its form. -/

theorem scalar_toNat_field (k : Nat) : (Scalar.ofNat (k % 64)).toNat = k % 64 := Scalar.toNat_ofNat (Nat.mod_lt _ (by decide))

section
variable {w : Nat} (hodd : w % 2 = 1) (hlt : w < 4294967296)
include hodd hlt

theorem eq_encA : w = encA (w / 2 % 64) (w / 33554432 % 128) (w / 524288 % 64) (w / 8192 % 64) (w / 128 % 64) := by
  unfold encA; omega

theorem eq_encV : w = encV (w / 2 % 64) (w / 33554432 % 128) (w / 4194304 % 8) (w / 131072 % 32) (w / 4096 % 32)
    (w / 128 % 32) := by unfold encV; omega

theorem eq_encT : w = encT (w / 2 % 64) (w / 33554432 % 128) (w / 524288 % 64) (w / 8192 % 64) (w / 1024 % 8)
    (w / 128 % 8) := by unfold encT; omega

theorem encI_eq {m : Nat} (hm : w / 2 % 64 = m) : encI m (BitVec.ofNat 13 (w / 524288 % 8192)) (Scalar.ofNat (w / 8192 % 64)).toNat
    (Scalar.ofNat (w / 128 % 64)).toNat = w := by
  rw [encI, BitVec.toNat_ofNat, scalar_toNat_field, scalar_toNat_field]; omega

theorem encW_eq {m : Nat} (hm : w / 2 % 64 = m) :
    encW m (BitVec.ofNat 19 (w / 8192 % 524288)) (Scalar.ofNat (w / 128 % 64)).toNat = w := by
  rw [encW, BitVec.toNat_ofNat, scalar_toNat_field]; omega

theorem encS_eq {m : Nat} (hm : w / 2 % 64 = m) :
    encS m (BitVec.ofNat 11 (w / 2097152 % 2048)) (Fin.ofNat 4 (w / 524288 % 4)) (Scalar.ofNat (w / 8192 % 64)).toNat (Scalar.ofNat (w / 128 % 64)).toNat = w := by
  rw [encS, BitVec.toNat_ofNat, Fin.val_ofNat, scalar_toNat_field, scalar_toNat_field]; omega

theorem encA_shift_eq (h5 : w / 2 % 64 = 5) (h0 : w / 33554432 % 32 = 0) {k : Nat} (hk : w / 1073741824 % 4 = k) :
    encA 5 (32 * k) (Fin.ofNat 64 (w / 524288 % 64)).val (Scalar.ofNat (w / 8192 % 64)).toNat
      (Scalar.ofNat (w / 128 % 64)).toNat = w := by
  rw [encA, Fin.val_ofNat, scalar_toNat_field, scalar_toNat_field]; omega

theorem prepWord_eq (h : w / 2 % 64 = 24) (h0 : w / 1024 % 8 = 0) :
    1 + 2 * 24 + 128 * (Fin.ofNat 8 (w / 128 % 8)).val + 8192 * (BitVec.ofNat 19 (w / 8192 % 524288)).toNat = w := by
  rw [BitVec.toNat_ofNat, Fin.val_ofNat]; omega

/-- What a four-byte word decodes to has that word. -/
theorem decode32_ok {i : Instr} (h : decode32 w = .ok i) : IsWordOf i w := by
  have hA := eq_encA hodd hlt
  have hV := eq_encV hodd hlt
  have hT := eq_encT hodd hlt
  have hlt64 : ∀ k, k % 64 < 64 := fun k => Nat.mod_lt k (by decide)
  have hlt32 : ∀ k, k % 32 < 32 := fun k => Nat.mod_lt k (by decide)
  have hlt8 : ∀ k, k % 8 < 8 := fun k => Nat.mod_lt k (by decide)
  unfold decode32 at h
  dsimp only at h
  generalize hm : w / 2 % 64 = m at h hA hV hT
  split at h
  case h_1 => exact (decodeAlu_ok (hlt64 _) (hlt64 _) (hlt64 _) h).of_eq hA
  case h_2 | h_3 | h_4 | h_5 | h_7 =>
    cases h
    exact ⟨rfl, encI_eq hodd hlt hm⟩
  case h_6 =>
    split at h <;> simp only [needZero_eq_ok_iff, reduceCtorEq, beq_iff_eq] at h
    all_goals
      rename_i hk
      obtain ⟨h0, rfl⟩ := h
      exact ⟨rfl, encA_shift_eq hodd hlt hm h0 hk⟩
  case h_8 | h_9 | h_10 =>
    cases h
    exact ⟨rfl, encW_eq hodd hlt hm⟩
  case h_11 | h_12 | h_13 =>
    cases h
    exact ⟨rfl, encS_eq hodd hlt hm⟩
  case h_14 => exact (decodeField_ok (hlt64 _) (hlt64 _) (hlt64 _) h).of_eq hA
  case h_15 =>
    rw [needZero_eq_ok_iff, beq_iff_eq] at h
    obtain ⟨h0, rfl⟩ := h
    exact ⟨rfl, prepWord_eq hodd hlt hm h0⟩
  case h_16 => exact (decodePrepare_ok (hlt8 _) (hlt8 _) (hlt64 _) (hlt64 _) h).of_eq hT
  case h_17 => exact (decodeTransfer_ok (hlt8 _) (hlt8 _) (hlt64 _) (hlt64 _) h).of_eq hT
  case h_18 => exact (decodeSystem_ok (hlt64 _) (hlt64 _) (hlt64 _) h).of_eq hA
  case h_19 => exact (decodeTask_ok (hlt64 _) (hlt64 _) (hlt64 _) h).of_eq hA
  case h_20 => exact (decodeChannel_ok (hlt64 _) (hlt64 _) (hlt64 _) h).of_eq hA
  case h_21 => exact (decodeFence_ok h).of_eq hA
  case h_22 => exact (decodeVFloat_ok (hlt32 _) (hlt32 _) (hlt32 _) (hlt8 _) h).of_eq hV
  case h_23 => exact (decodeVInt_ok (hlt32 _) (hlt32 _) (hlt32 _) (hlt8 _) h).of_eq hV
  case h_24 =>
    exact decodeVMove_ok (hlt32 _) (hlt32 _) (hlt32 _) (hlt8 _) hV hA (hlt64 _) (hlt64 _) (hlt64 _) h
  case h_25 => exact (decodeVCvt_ok (hlt32 _) (hlt32 _) (hlt32 _) (hlt8 _) h).of_eq hV
  case h_26 => exact (decodeVReduce_ok (hlt32 _) (hlt32 _) (hlt32 _) (hlt8 _) h).of_eq hV
  case h_27 => exact (decodeVMem_ok (hlt64 _) (hlt64 _) h).of_eq hA
  case h_28 => exact (decodeVField_ok (hlt64 _) h).of_eq hA
  case h_29 => exact (decodeVAcc_ok (hlt64 _) h).of_eq hA
  case h_30 => exact (decodeCopy_ok (hlt64 _) (hlt64 _) (hlt64 _) h).of_eq hA
  case h_31 => exact (decodeMatrix_ok (hlt64 _) (hlt64 _) (hlt64 _) h).of_eq hA
  case h_32 => exact (decodeLamp_ok (hlt64 _) (hlt64 _) (hlt64 _) h).of_eq hA
  case h_33 => cases h

end

/-! The 16-bit layouts. -/

theorem vspec_toNat_field (k : Nat) : (VSpec.ofNat (k % 32)).toNat = k % 32 := VSpec.toNat_ofNat (Nat.mod_lt _ (by decide))

theorem toNat_beq_one {k : Nat} (h : k < 2) : (k == 1).toNat = k := by
  interval_cases k <;> rfl

section
variable {h : Nat} (heven : h % 2 = 0) (hlt : h < 65536)
include heven hlt

theorem encShort_eq (h0 : h / 2 % 2 = 0) {op : Nat} (hop : h / 4 % 16 = op) :
    encShort op (.ofNat (h / 2048 % 32)) (.ofNat (h / 64 % 32)) = h := by
  rw [encShort, vspec_toNat_field, vspec_toNat_field]; omega

theorem guardWord_eq (h1 : h / 2 % 2 ≠ 0) (h4 : h / 4 % 4 = 0) : encodeWord (.guard (h / 32768 % 2 == 1)
    (Fin.ofNat 64 (h / 512 % 64)) (Fin.ofNat 32 (h / 16 % 32))) = h := by
  change 2 + 16 * (h / 16 % 32 % 32) + 512 * (h / 512 % 64 % 64) + 32768 * (h / 32768 % 2 == 1).toNat = h
  rw [toNat_beq_one (Nat.mod_lt _ (by decide))]
  omega

theorem vguardWord_eq (h1 : h / 2 % 2 ≠ 0) (h4 : h / 4 % 4 = 1) (h0 : h / 32768 % 2 = 0) :
    encodeWord (.vguard (h / 16384 % 2 == 1) (Fin.ofNat 32 (h / 512 % 32)) (Fin.ofNat 32 (h / 16 % 32))) = h := by
  change 6 + 16 * (h / 16 % 32 % 32) + 512 * (h / 512 % 32 % 32) + 16384 * (h / 16384 % 2 == 1).toNat = h
  rw [toNat_beq_one (Nat.mod_lt _ (by decide))]
  omega

/-- What a halfword decodes to has that halfword. -/
theorem decode16_ok {i : Instr} (hi : decode16 h = .ok i) : i.len = 2 ∧ encodeWord i = h := by
  unfold decode16 at hi
  split at hi
  case isTrue h0 =>
    have hlt16 : h / 4 % 16 < 16 := Nat.mod_lt _ (by decide)
    generalize hop : h / 4 % 16 = op at hi hlt16
    interval_cases op <;> cases hi <;> exact ⟨rfl, encShort_eq heven hlt h0 hop⟩
  case isFalse h1 =>
    split at hi
    case h_1 h4 =>
      cases hi
      exact ⟨rfl, guardWord_eq heven hlt h1 h4⟩
    case h_2 h4 =>
      split at hi <;> cases hi
      exact ⟨rfl, vguardWord_eq heven hlt h1 h4 ‹_›⟩
    case h_3 h4 =>
      split at hi
      case isTrue h0 =>
        split at hi <;> cases hi
        · exact ⟨rfl, show 10 = h by omega⟩
        · exact ⟨rfl, show 26 = h by omega⟩
      case isFalse => cases hi
    case h_4 => cases hi

end

/-! The bytes of a word. -/

theorem bytesOfNat_two (b0 b1 : Byte) : bytesOfNat 2 (b0.toNat + 256 * b1.toNat) = [b0, b1] := by
  have h0 := b0.isLt
  have h1 := b1.isLt
  simp only [bytesOfNat, List.cons.injEq, and_true]
  exact ⟨by bv_omega, by bv_omega⟩

theorem bytesOfNat_four (b0 b1 b2 b3 : Byte) :
    bytesOfNat 4 (b0.toNat + 256 * b1.toNat + 65536 * (b2.toNat + 256 * b3.toNat)) = [b0, b1, b2, b3] := by
  have h0 := b0.isLt
  have h1 := b1.isLt
  have h2 := b2.isLt
  have h3 := b3.isLt
  simp only [bytesOfNat, List.cons.injEq, and_true]
  exact ⟨by bv_omega, by bv_omega, by bv_omega, by bv_omega⟩

/-- What decodes starts with the encoding of what it decodes to. -/
theorem decode_ok {bs : List Byte} {i : Instr} (h : decode bs = .ok i) :
    i.isEvent = false ∧ ∃ rest, bs = encode i ++ rest := by
  unfold decode at h
  split at h
  case h_2 => cases h
  case h_1 b0 b1 rest =>
    have h0 := b0.isLt
    have h1 := b1.isLt
    dsimp only at h
    split at h
    case isTrue heven =>
      obtain ⟨hlen, hword⟩ := decode16_ok heven (by omega) h
      refine ⟨by simp [Instr.isEvent, hlen], rest, ?_⟩
      rw [encode, hlen, hword, bytesOfNat_two]
      rfl
    case isFalse hodd =>
      split at h
      case h_2 => cases h
      case h_1 b2 b3 tail =>
        have h2 := b2.isLt
        have h3 := b3.isLt
        obtain ⟨hlen, hword⟩ := decode32_ok (by omega) (by omega) h
        refine ⟨by simp [Instr.isEvent, hlen], tail, ?_⟩
        rw [encode, hlen, hword, bytesOfNat_four]
        rfl

theorem wordBytes_eq (w : BitVec 32) : wordBytes w = bytesOfNat 4 w.toNat := by
  simp [wordBytes, bytesOfNat, BitVec.extractLsb', Nat.shiftRight_eq_div_pow, Nat.div_div_eq_div_mul]

/-! What is not assigned. -/

theorem decode32_of_unassigned {w : Nat} (h : w / 2 % 64 ∉ assignedMajors) : decode32 w = .error (.illegalInstruction 4) := by
  unfold decode32
  dsimp only
  generalize w / 2 % 64 = m at h
  split
  case h_33 => rfl
  all_goals exact absurd (by decide) h

/-- Each major rejects what is past its last operation. -/
theorem decode32_of_unused_f7 : ∀ p ∈ usedF7, ∀ w : Nat, w / 2 % 64 = p.1 → p.2 ≤ w / 33554432 % 128 →
    decode32 w = .error (.illegalInstruction 4) := by
  simp only [usedF7, List.forall_mem_cons, List.not_mem_nil, false_imp_iff, implies_true, and_true]
  refine ⟨?_, ?_, ?_, ?_, ?_, ?_, ?_, ?_, ?_, ?_, ?_, ?_, ?_, ?_, ?_, ?_, ?_, ?_⟩
  all_goals
    intro w hm hf
    obtain ⟨k, hk⟩ := Nat.exists_eq_add_of_le' hf
    simp only [decode32, hm, hk]
    rfl

/-- Settles O29: by the form of a major, a word that decodes is made of the fields it is decoded from. -/
theorem everyWordHasOneMeaning : Obligations.EveryWordHasOneMeaning := by
  refine ⟨fun bs i h => decode_ok h, fun w rest hodd hm => ?_, fun p hp w rest hodd hm hf => ?_⟩
  · rw [wordBytes_eq, decode_bytes4 hodd, decode32_of_unassigned hm]
  · have hw := w.isLt
    rw [wordBytes_eq, decode_bytes4 hodd, decode32_of_unused_f7 p hp _ hm (by omega)]

end Sys2Proof
end

section
/-! PROOFS. What a step runs, and what reset leaves. -/
namespace Sys2Proof.Machine
open Sys2Proof.Claims

/-! The words that the spec works out. -/

/-- Settles O27: evaluation of the decoder at each word. -/
theorem workedWordsDecode : Obligations.WorkedWordsDecode := by
  constructor
  · decide
  · decide

/-! What a step runs. -/

/-- The instruction runs where the step is to run it, and the step ends where it is done. -/
theorem step_of_run {s s1 : State} {i : Instr} (h : nextAction s = .run i s1) : step s = exec i s1 := by
  rw [step, h]

theorem step_of_done {s s1 : State} (h : nextAction s = .done s1) : step s = .next s1 := by
  rw [step, h]

section
variable {s s1 : State}

theorem nextAction_of_hasTurn (h : HasTurn s) : nextAction s = runOn s := by
  obtain ⟨hsched, hbusy, hstalled, -⟩ := h
  simp [nextAction, hsched, hbusy, hstalled]

theorem runOn_of_boundary (h : HasTurn s) (hu : s.cur.unit = none) : runOn s =
    match s.tornQueue with
    | some q => .done (teardown q s)
    | none =>
      if s.mustLeave s.cur then .done (preemption s.cur.key s)
      else if (s.highReady s.cur.core).isSome then .done (highPriorityStart s.cur.core s)
      else issueNext s := by
  obtain ⟨-, -, -, hdie⟩ := h
  rw [runOn, hu, hdie]
  rfl

theorem nextAction_of_runs (h : Runs s) : nextAction s = issueNext s := by
  obtain ⟨hturn, hunit⟩ := h
  rw [nextAction_of_hasTurn hturn]
  cases hu : s.cur.unit with
  | some u => simp [runOn, hu]
  | none =>
    obtain ⟨hq, hleave, hhigh⟩ := hunit hu
    simp [runOn_of_boundary hturn hu, hq, hleave, hhigh]

/-- What the next instruction does once its bytes are fetched. -/
theorem issueNext_of_fetches {r : Except (Cause × Nat) (List Byte)} (h : Runs s) (hf : Fetches s r s1) : issueNext s =
    match r with
    | .error (cause, va) => .done (takeFault (s1.fetchFault s.cur.core s.cur.asid cause va) s1)
    | .ok bytes =>
      if (s1.core s.cur.core).icErrors.contains (s.cur.asid, s.cur.regs.pc.toNat) then
        if s.cur.viaTarget then
          .done (takeFault (s1.fetchFault s.cur.core s.cur.asid .fetchError s.cur.regs.pc.toNat) s1)
        else .done (takeFault { code := .illegalInstruction } s1)
      else match decode bytes with
        | .ok i => .run i s1
        | .error (.illegalOperand i) => .done (issueBadField i s1)
        | .error (.spmarkKind i) =>
          match issue i (raise .illegalOperand) s1 with
          | .next s2 => .done s2
          | _ => .done s1
        | .error (.illegalInstruction _) => .done (takeFault { code := .illegalInstruction } s1)
        | .error .truncated => .done (takeFault { code := .illegalInstruction } s1) := by
  obtain ⟨⟨-, -, -, hdie⟩, -⟩ := h
  have hf' : fetchBytes s.cur.core s.cur.asid s.cur.sys s.cur.regs.pc.toNat s = .ok (r, s1) := hf
  rw [issueNext, hdie, hf']
  cases r <;> rfl

theorem nextAction_of_decoded {bytes : List Byte} {i : Instr} (h : Runs s) (hf : Fetches s (.ok bytes) s1)
    (hic : (s1.core s.cur.core).icErrors.contains (s.cur.asid, s.cur.regs.pc.toNat) = false) (hd : decode bytes = .ok i) :
    nextAction s = .run i s1 := by
  rw [nextAction_of_runs h, issueNext_of_fetches h hf]
  simp only [hic, hd, Bool.false_eq_true, if_false]

theorem nextAction_of_illegal {bytes : List Byte} {n : Nat} (h : Runs s) (hf : Fetches s (.ok bytes) s1)
    (hd : decode bytes = .error (.illegalInstruction n)) (hv : s.cur.viaTarget = false) :
    nextAction s = .done (takeFault { code := .illegalInstruction } s1) := by
  rw [nextAction_of_runs h, issueNext_of_fetches h hf]
  simp only [hd, hv, Bool.false_eq_true, if_false, ite_self]

theorem nextAction_of_unfetched {cause : Cause} {va : Nat} (h : Runs s) (hf : Fetches s (.error (cause, va)) s1) :
    nextAction s = .done (takeFault (s1.fetchFault s.cur.core s.cur.asid cause va) s1) := by
  rw [nextAction_of_runs h, issueNext_of_fetches h hf]

theorem nextAction_of_event {i : Instr} {rest : List Turn} (h : s.sched = .event i :: rest) (hi : i.isEvent = true) :
    nextAction s = .run i { s with sched := rest } := by
  rw [nextAction, h]
  simp only [hi, if_true]

end

/-- Settles O30: by what the next action is in each case. -/
theorem aStepRunsTheDecodedInstruction : Obligations.AStepRunsTheDecodedInstruction := by
  refine ⟨fun s s1 bytes i h hf hic hd => step_of_run (nextAction_of_decoded h hf hic hd),
    fun s s1 bytes n h hf hd hv => step_of_done (nextAction_of_illegal h hf hd hv),
    fun s s1 cause va h hf => step_of_done (nextAction_of_unfetched h hf),
    fun s i rest h hi => step_of_run (nextAction_of_event h hi), fun s hturn hu => ?_⟩
  have hnext := (nextAction_of_hasTurn hturn).trans (runOn_of_boundary hturn hu)
  refine ⟨fun q hq => ?_, fun hq hleave => ?_, fun hq hleave hhigh => ?_⟩
  · rw [hq] at hnext
    exact step_of_done hnext
  · simp only [hq, hleave, if_true] at hnext
    exact step_of_done hnext
  · simp only [hq, hleave, hhigh, Bool.false_eq_true, if_false, if_true] at hnext
    exact step_of_done hnext

/-! Reset. -/

/-- Settles O31: every field is at its default. -/
theorem resetLeavesWhatTheSpecSays : Obligations.ResetLeavesWhatTheSpecSays := by
  have hq (q : Fin 64) : State.reset.queues[q] = {} := by simp [State.reset]
  have hl (l : Fin 12) : State.reset.links[l] = {} := by simp [State.reset]
  refine ⟨fun q => ?_, rfl, rfl, rfl, rfl, rfl, rfl, rfl, rfl, rfl, fun l => ?_, rfl, rfl, rfl, rfl, rfl, rfl, rfl, rfl, rfl,
    rfl, rfl, fun n => rfl, fun a => ⟨rfl, rfl, rfl⟩⟩
  · rw [hq]
    exact ⟨rfl, rfl, rfl, rfl, rfl, rfl, rfl, rfl, rfl, rfl, rfl, rfl, rfl⟩
  · rw [hl]

/-- Settles O34: every space is empty. -/
theorem byteSpacesAreCanonicalAtReset : Obligations.ByteSpacesAreCanonicalAtReset := ⟨rfl, rfl, rfl, rfl⟩

end Sys2Proof.Machine
end

section
/-! PROOFS. No instruction and no event stops the machine. -/
namespace Sys2Proof.Machine

/-- A transfer is issued by `issueTransfer`, an event is a function of the state, and any other instruction is issued. -/
theorem exec_next (i : Instr) (s : State) : ∃ t, exec i s = .next t := by
  cases i with
  | jmp | brT | brF | call | bdec => exact issueTransfer_next _ _ s
  | legacyCopy | legacyFill | legacyLaunch | homeJoin | homeFill | homeFreeze | thresholdTest | homeStore | homeLoad
  | homeExactRead | ackArrival | wakeResult | replicaTest | gatewayResponsePass | gatewayInvalidation | routerForward
  | combinedJoinDepart | heldJoinTimeout | flitReceive | linkDown | copyCommandStart | copyUnitPerformed
  | matrixCommandStart | matrixCommandComplete | lampStep | sparkArrival | tlbinvComplete | coreDispatch
  | highPriorityStart | handlerOverrun | timeSliceExpiry | gleanPass | gleanProbe | gleanedRecordArrival
  | dequeRecordArrival | inboxRecordArrival | crewStart | crewDeadlock | preemption | mmaPreemptBound | faultStop
  | faultRecordWrite | faultQueueFullSignal | resumeRecord | vectorRetention | nodeTaskset | nodeCrew | nodeCopy
  | nodeCond | nodeWhile | nodeFreeze | nodeFallow | nodeWaitcell | nodeNotify | nodeEnd | nodeComplete
  | graphComplete | graphStallFail | doorbell | launchRecord | launchGraph | launchImageLoad | bootTextReceive
  | imageLoadComplete | queueSuspend | queueResume | teardown | registerWrite | offlineRequest | offlineForced
  | offlineComplete | hostWriteHalf | hostRead | accessCounterHalving | ageingCheck | mgmtReadLogs | deviceReset
  | fenceBaseDie | quadTakeOut | quadReturn | coreRelease | standbyTakeOver | standbyStandDown | standbySelfFence
  | setPackageId | firmwareUpdate | spdmMeasurement | sensorRead | dieEdgeFailure | watchdogTick | uncorrectableError
  | thermalThrottle | thermalTrip | linkTrained => exact ⟨_, rfl⟩
  | _ => exact issue_next _ _ s

theorem step_next (s : State) : ∃ t, step s = .next t := by
  cases h : nextAction s with
  | run i s1 => exact step_of_run h ▸ exec_next i s1
  | done s1 => exact ⟨s1, step_of_done h⟩

/-- Settles O32. -/
theorem everyStepHasANextState : Obligations.EveryStepHasANextState := ⟨exec_next, step_next⟩

end Sys2Proof.Machine
end

section
/-! PROOFS. R207 to R213: the scalar operations. Each operation of the model is the one its table gives, and the operand form
of its instruction does the rest. -/
namespace Sys2Proof.Machine
open Sys2Proof.Claims

/-! The integer operations in the words of the tables. -/

section
variable (a b : Word)

theorem add_eq_ofNat : a + b = BitVec.ofNat 64 (a.toNat + b.toNat) := BitVec.eq_of_toNat_eq (by simp)

theorem sub_eq_ofInt : a - b = BitVec.ofInt 64 (a.toInt - b.toInt) := by
  rw [Int.sub_eq_add_neg, BitVec.ofInt_add, BitVec.ofInt_neg, BitVec.ofInt_toInt, BitVec.ofInt_toInt, BitVec.sub_eq_add_neg]

theorem mul_eq_ofNat : a * b = BitVec.ofNat 64 (a.toNat * b.toNat) := BitVec.eq_of_toNat_eq (by simp)

theorem shiftLeft_eq_ofNat (n : Nat) : a <<< n = BitVec.ofNat 64 (a.toNat * 2 ^ n) :=
  BitVec.eq_of_toNat_eq (by simp [Nat.shiftLeft_eq])

theorem ushiftRight_eq_ofNat (n : Nat) : a >>> n = BitVec.ofNat 64 (a.toNat / 2 ^ n) := by
  refine BitVec.eq_of_toNat_eq ?_
  rw [BitVec.toNat_ushiftRight, BitVec.toNat_ofNat, Nat.shiftRight_eq_div_pow,
    Nat.mod_eq_of_lt ((Nat.div_le_self _ _).trans_lt a.isLt)]

theorem sshiftRight_eq_ofInt (n : Nat) : a.sshiftRight n = BitVec.ofInt 64 (a.toInt / (2 ^ n : Nat)) := by
  rw [BitVec.sshiftRight, Int.shiftRight_eq_div_pow]

theorem slt_eq_decide : a.slt b = decide (a.toInt < b.toInt) := rfl

theorem ult_eq_decide : a.ult b = decide (a.toNat < b.toNat) := rfl

theorem signed_min : (if a.slt b then a else b) = if a.toInt ≤ b.toInt then a else b := by
  rcases lt_trichotomy a.toInt b.toInt with h | h | h
  · simp [slt_eq_decide, h, h.le]
  · simp [BitVec.eq_of_toInt_eq h]
  · simp [slt_eq_decide, h.not_gt, h.not_ge]

theorem signed_max : (if a.slt b then b else a) = if a.toInt ≤ b.toInt then b else a := by
  rcases lt_trichotomy a.toInt b.toInt with h | h | h
  · simp [slt_eq_decide, h, h.le]
  · simp [BitVec.eq_of_toInt_eq h]
  · simp [slt_eq_decide, h.not_gt, h.not_ge]

theorem unsigned_min : (if a.ult b then a else b) = if a.toNat ≤ b.toNat then a else b := by
  rcases lt_trichotomy a.toNat b.toNat with h | h | h
  · simp [ult_eq_decide, h, h.le]
  · simp [BitVec.eq_of_toNat_eq h]
  · simp [ult_eq_decide, h.not_gt, h.not_ge]

theorem unsigned_max : (if a.ult b then b else a) = if a.toNat ≤ b.toNat then b else a := by
  rcases lt_trichotomy a.toNat b.toNat with h | h | h
  · simp [ult_eq_decide, h, h.le]
  · simp [BitVec.eq_of_toNat_eq h]
  · simp [ult_eq_decide, h.not_gt, h.not_ge]

theorem divUnsigned_eq : divUnsigned a b = if b = 0 then BitVec.allOnes 64 else BitVec.ofNat 64 (a.toNat / b.toNat) := by
  rw [divUnsigned]
  congr 1
  refine BitVec.eq_of_toNat_eq ?_
  rw [BitVec.toNat_udiv, BitVec.toNat_ofNat, Nat.mod_eq_of_lt ((Nat.div_le_self _ _).trans_lt a.isLt)]

theorem remUnsigned_eq : remUnsigned a b = BitVec.ofNat 64 (a.toNat - b.toNat * (a.toNat / b.toNat)) := by
  rw [remUnsigned]
  split_ifs with hb
  · simp [hb]
  · refine BitVec.eq_of_toNat_eq ?_
    rw [BitVec.toNat_umod, BitVec.toNat_ofNat, Nat.mod_eq_sub_mul_div,
      Nat.mod_eq_of_lt ((Nat.sub_le _ _).trans_lt a.isLt)]

theorem wbits_low (n : Nat) : wbits b 0 n = b.toNat % 2 ^ n := wbits_zero_eq_mod b n

theorem bitsOf_top_eq_one_iff {f n : Nat} (h : f < 2 ^ (n + 1)) : bitsOf f n 1 = 1 ↔ 2 ^ n ≤ f := by
  rw [pow_succ] at h
  have hlt : f / 2 ^ n < 2 := (Nat.div_lt_iff_lt_mul (Nat.two_pow_pos n)).2 (by omega)
  have hle := Nat.le_div_iff_mul_le (Nat.two_pow_pos n) (x := 1) (y := f)
  rw [bitsOf, pow_one, Nat.mod_eq_of_lt hlt]
  omega

/-- BFX's field and its sign. -/
theorem extractField_eq : extractField a b =
    (let width := b.toNat / 64 % 64 + 1
     let f := fieldOf a (b.toNat % 64) width
     if b.getLsbD 12 && decide (2 ^ (width - 1) ≤ f) then BitVec.ofInt 64 ((f : Int) - 2 ^ width) else BitVec.ofNat 64 f) := by
  have hlow : wbits b 0 6 = b.toNat % 64 := wbits_low b 6
  have hhigh : wbits b 6 6 = b.toNat / 64 % 64 := rfl
  have hlt : fieldOf a (b.toNat % 64) (b.toNat / 64 % 64 + 1) < 2 ^ (b.toNat / 64 % 64 + 1) :=
    Nat.mod_lt _ (Nat.two_pow_pos _)
  unfold fieldOf at hlt ⊢
  simp only [extractField, hlow, hhigh, Nat.add_sub_cancel, Nat.cast_pow, Nat.cast_ofNat]
  rw [beq_eq_decide, decide_eq_decide.2 (bitsOf_top_eq_one_iff hlt)]

theorem insertField_eq (old : Word) : insertField old a b = withField old a b := by
  have hlow : wbits b 0 6 = b.toNat % 64 := wbits_low b 6
  have hhigh : wbits b 6 6 = b.toNat / 64 % 64 := rfl
  rw [insertField, withField, hlow, hhigh]

theorem wordOfBits_eq_condWord (l : List Bool) : wordOfBits l = condWord l := by
  rw [wordOfBits, condWord]
  congr 2
  funext x n
  cases x <;> rfl

theorem cmpWord_eq : cmpWord a b = wordOfBits (conditionBits a b) := by
  rw [cmpWord_eq_condWord, wordOfBits_eq_condWord]
  rfl

end

theorem countP_range_lt (k n : Nat) : (List.range n).countP (fun i => decide (k < i)) = n - 1 - k := by
  induction n with
  | zero => simp
  | succ n ih =>
    rw [List.range_succ, List.countP_append, ih, List.countP_cons, List.countP_nil]
    split_ifs with h <;> simp at h <;> omega

/-- The places above the highest bit, where there is one. -/
theorem leadingZeros_eq (a : Word) :
    leadingZeros a = BitVec.ofNat 64 ((List.range 64).countP (fun i => decide (a.toNat < 2 ^ i))) := by
  rw [leadingZeros]
  split_ifs with h
  · subst h
    rfl
  · have h0 : a.toNat ≠ 0 := fun hz => h (BitVec.eq_of_toNat_eq hz)
    have hlog : (fun i => decide (a.toNat < 2 ^ i)) = fun i => decide (topBit a.toNat < i) :=
      funext fun i => decide_eq_decide.2 (Nat.log2_lt h0).symm
    rw [hlog, countP_range_lt]

theorem countP_eq_sum_map {α : Type} (p : α → Bool) (l : List α) : l.countP p = (l.map (fun x => if p x then 1 else 0)).sum := by
  induction l with
  | nil => simp
  | cons x l ih => rw [List.countP_cons, List.map_cons, List.sum_cons, ih, add_comm]

theorem oneBits_eq (a : Word) : oneBits a = BitVec.ofNat 64 (((List.range 64).map (fun i => a.toNat / 2 ^ i % 2)).sum) := by
  have hbit (i : Nat) : a.toNat / 2 ^ i % 2 = if a.getLsbD i then 1 else 0 := by
    rw [BitVec.getLsbD, Nat.testBit_eq_decide_div_mod_eq]
    simp only [decide_eq_true_eq]
    split_ifs with h <;> omega
  rw [oneBits, countP_eq_sum_map]
  simp only [hbit]

/-- The PC-relative word of R21. -/
theorem pcRelative_eq (s : State) (imm : BitVec 19) :
    pcRelative s.cur.regs.pc imm = BitVec.ofInt 64 ((s.cur.regs.pc.toNat : Int) + 2 * imm.toInt) := by
  refine BitVec.eq_of_toNat_eq ((toNat_ldcAddr s imm).trans ?_)
  rw [constantAt, BitVec.toNat_ofInt]
  rfl

/-! The instructions of each form complete with their operation. -/

/-- Each instruction of `i` is the two-operand form at an operation with the values of `g`. -/
def IsAlu2 (i : Scalar → Scalar → Scalar → Instr) (g : Word → Word → Word) : Prop :=
  ∃ f : Word → Word → Word, (∀ d a b s, exec (i d a b) s = issue (i d a b) (alu2 d a b f) s) ∧ ∀ x y, f x y = g x y

section
variable {s s1 s2 t : State} {x y : Val} {d a b : Scalar}

theorem IsAlu2.completes {i : Scalar → Scalar → Scalar → Instr} {g : Word → Word → Word} (h : IsAlu2 i g)
    (hi : issues (i d a b) s = true) (ha : srcBound a s) (hb : srcBound b s) (hd : dstBound d s)
    (hx : Gives (readScalar a) s x s1) (hy : Gives (readScalar b) s1 y s2)
    (hw : Gives (writeScalar d { bits := g x.bits y.bits, mark := x.mark || y.mark }) s2 () t) : Completes (i d a b) s t := by
  obtain ⟨f, hexec, hfg⟩ := h
  rw [← hfg] at hw
  exact (hexec d a b s).trans (issue_gives hi (alu2_gives ha hb hd hx hy hw))

/-- An instruction with one operand. -/
theorem completes_of_alu1 {i : Instr} {f : Word → Word} (hexec : ∀ s, exec i s = issue i (alu1 d a f) s) {v : Word}
    (hi : issues i s = true) (ha : srcBound a s) (hd : dstBound d s) (hx : Gives (readScalar a) s x s1)
    (hv : f x.bits = v) (hw : Gives (writeScalar d { bits := v, mark := x.mark }) s1 () t) : Completes i s t :=
  (hexec s).trans (issue_gives hi (alu1_gives ha hd hx (by rwa [hv])))

end

/-- The two-operand operations are those of the table. -/
theorem binaryTable_isAlu2 : ∀ p ∈ binaryTable, IsAlu2 p.1 p.2 := by
  simp only [binaryTable, List.forall_mem_cons, List.not_mem_nil, false_imp_iff, implies_true, and_true]
  exact ⟨⟨_, fun _ _ _ _ => rfl, add_eq_ofNat⟩, ⟨_, fun _ _ _ _ => rfl, sub_eq_ofInt⟩,
    ⟨_, fun _ _ _ _ => rfl, fun _ _ => rfl⟩, ⟨_, fun _ _ _ _ => rfl, fun _ _ => rfl⟩,
    ⟨_, fun _ _ _ _ => rfl, fun _ _ => rfl⟩, ⟨_, fun _ _ _ _ => rfl, fun x _ => shiftLeft_eq_ofNat x _⟩,
    ⟨_, fun _ _ _ _ => rfl, fun x _ => ushiftRight_eq_ofNat x _⟩,
    ⟨_, fun _ _ _ _ => rfl, fun x _ => sshiftRight_eq_ofInt x _⟩,
    ⟨_, fun _ _ _ _ => rfl, signed_min⟩, ⟨_, fun _ _ _ _ => rfl, signed_max⟩,
    ⟨_, fun _ _ _ _ => rfl, unsigned_min⟩, ⟨_, fun _ _ _ _ => rfl, unsigned_max⟩,
    ⟨_, fun _ _ _ _ => rfl, mul_eq_ofNat⟩, ⟨_, fun _ _ _ _ => rfl, fun _ _ => rfl⟩,
    ⟨_, fun _ _ _ _ => rfl, fun _ _ => rfl⟩, ⟨_, fun _ _ _ _ => rfl, fun _ _ => rfl⟩,
    ⟨_, fun _ _ _ _ => rfl, divUnsigned_eq⟩, ⟨_, fun _ _ _ _ => rfl, fun _ _ => rfl⟩,
    ⟨_, fun _ _ _ _ => rfl, remUnsigned_eq⟩, ⟨_, fun _ _ _ _ => rfl, extractField_eq⟩,
    ⟨_, fun _ _ _ _ => rfl, cmpWord_eq⟩⟩

theorem unary_complete : ∀ p ∈ unaryTable, ∀ (d a : Scalar) (s s1 t : State) (x : Val),
    issues (p.1 d a) s = true → srcBound a s → dstBound d s → Gives (readScalar a) s x s1 →
    Gives (writeScalar d { bits := p.2 x.bits, mark := x.mark }) s1 () t → Completes (p.1 d a) s t := by
  simp only [unaryTable, List.forall_mem_cons, List.not_mem_nil, false_imp_iff, implies_true, and_true]
  exact ⟨fun d a s s1 t x hi ha hd hx hw => completes_of_alu1 (fun _ => rfl) hi ha hd hx (leadingZeros_eq _) hw,
    fun d a s s1 t x hi ha hd hx hw => completes_of_alu1 (fun _ => rfl) hi ha hd hx (oneBits_eq _) hw⟩

theorem immediate_complete : ∀ p ∈ immediateTable, ∀ (d a : Scalar) (imm : BitVec 13) (s s1 t : State) (x : Val),
    issues (p.1 d a imm) s = true → srcBound a s → dstBound d s → Gives (readScalar a) s x s1 →
    Gives (writeScalar d { bits := p.2 x.bits (imm.signExtend 64), mark := x.mark }) s1 () t →
    Completes (p.1 d a imm) s t := by
  simp only [immediateTable, List.forall_mem_cons, List.not_mem_nil, false_imp_iff, implies_true, and_true]
  exact ⟨fun d a imm s s1 t x hi ha hd hx hw => completes_of_alu1 (fun _ => rfl) hi ha hd hx (add_eq_ofNat _ _) hw,
    fun d a imm s s1 t x hi ha hd hx hw => completes_of_alu1 (fun _ => rfl) hi ha hd hx rfl hw,
    fun d a imm s s1 t x hi ha hd hx hw => completes_of_alu1 (fun _ => rfl) hi ha hd hx rfl hw,
    fun d a imm s s1 t x hi ha hd hx hw => completes_of_alu1 (fun _ => rfl) hi ha hd hx rfl hw,
    fun d a imm s s1 t x hi ha hd hx hw => completes_of_alu1 (fun _ => rfl) hi ha hd hx (cmpWord_eq _ _) hw⟩

theorem shift_complete : ∀ p ∈ shiftTable, ∀ (d a : Scalar) (n : Fin 64) (s s1 t : State) (x : Val),
    issues (p.1 d a n) s = true → srcBound a s → dstBound d s → Gives (readScalar a) s x s1 →
    Gives (writeScalar d { bits := p.2 x.bits n.val, mark := x.mark }) s1 () t → Completes (p.1 d a n) s t := by
  simp only [shiftTable, List.forall_mem_cons, List.not_mem_nil, false_imp_iff, implies_true, and_true]
  exact ⟨fun d a n s s1 t x hi ha hd hx hw => completes_of_alu1 (fun _ => rfl) hi ha hd hx (shiftLeft_eq_ofNat _ _) hw,
    fun d a n s s1 t x hi ha hd hx hw => completes_of_alu1 (fun _ => rfl) hi ha hd hx (ushiftRight_eq_ofNat _ _) hw,
    fun d a n s s1 t x hi ha hd hx hw => completes_of_alu1 (fun _ => rfl) hi ha hd hx (sshiftRight_eq_ofInt _ _) hw⟩

/-- Settles O1: each instruction writes its operation, which is the table's. -/
theorem scalarArithmeticCompletes : Obligations.ScalarArithmeticCompletes := by
  refine ⟨fun p hp _ _ _ _ _ _ _ _ _ => (binaryTable_isAlu2 p hp).completes, unary_complete, immediate_complete, shift_complete,
    fun d a b s s0 s1 s2 t z x y hi ha hb hz hx hy hw => ?_, fun d imm s t hi hd hw => ?_, fun d imm s t hi hd hw => ?_⟩
  · rw [← insertField_eq] at hw
    exact issue_gives hi (gives_bind ha (gives_bind hb (gives_bind hz (gives_bind hx (gives_bind hy
      (gives_bind hw (gives_pure _ _)))))))
  · exact issue_gives hi (aluConst_gives hd hw)
  · rw [← pcRelative_eq] at hw
    exact issue_gives hi (gives_bind (cur_gives s) (aluConst_gives hd hw))

/-! R210 to R212: the scalar float operations. -/

section
variable {s s1 s2 t : State} {x y : Val} {d a b : Scalar}

theorem fpu2_gives {f : Rounding → FValue → FValue → FResult} {r : FResult} (ha : srcBound a s) (hb : srcBound b s)
    (hd : dstBound d s) (hx : Gives (readScalar a) s x s1) (hy : Gives (readScalar b) s1 y s2)
    (hr : f (s2.cur.rounding 0) (fp32.decode (x.bits.toNat % 2 ^ 32)) (fp32.decode (y.bits.toNat % 2 ^ 32)) = r)
    (hw : Gives (do writeScalar d { bits := BitVec.ofNat 64 r.code, mark := x.mark || y.mark }; raiseFlagsN r.flags) s2 () t) :
    Gives (fpu2 d a b f) s .done t := by
  subst hr
  refine gives_bind ha (gives_bind hb (gives_bind hd (gives_bind hx (gives_bind hy (gives_bind (cur_gives _) ?_)))))
  have := gives_bind (k := fun _ => pure Flow.done) hw (gives_pure Flow.done t)
  rwa [bind_assoc] at this

theorem fpu1_gives {f : Rounding → Word → FResult} {bits : Word} {flags : Nat} (ha : srcBound a s) (hd : dstBound d s)
    (hx : Gives (readScalar a) s x s1) (hbits : BitVec.ofNat 64 (f (s1.cur.rounding 0) x.bits).code = bits)
    (hflags : (f (s1.cur.rounding 0) x.bits).flags = flags)
    (hw : Gives (do writeScalar d { bits := bits, mark := x.mark }; raiseFlagsN flags) s1 () t) :
    Gives (fpu1 d a f) s .done t := by
  subst hbits hflags
  refine gives_bind ha (gives_bind hd (gives_bind hx (gives_bind (cur_gives _) ?_)))
  have := gives_bind (k := fun _ => pure Flow.done) hw (gives_pure Flow.done t)
  rwa [bind_assoc] at this

/-- Each instruction of `i` is the two-operand float form at an operation with the values of `g`. -/
def IsFpu2 (i : Scalar → Scalar → Scalar → Instr) (g : Rounding → FValue → FValue → FResult) : Prop :=
  ∃ f, (∀ d a b s, exec (i d a b) s = issue (i d a b) (fpu2 d a b f) s) ∧ ∀ r x y, f r x y = g r x y

theorem IsFpu2.completes {i : Scalar → Scalar → Scalar → Instr} {g : Rounding → FValue → FValue → FResult} (h : IsFpu2 i g)
    (hi : issues (i d a b) s = true) (ha : srcBound a s) (hb : srcBound b s) (hd : dstBound d s)
    (hx : Gives (readScalar a) s x s1) (hy : Gives (readScalar b) s1 y s2)
    (hw : let r := g (s2.cur.rounding 0) (fp32.decode (x.bits.toNat % 2 ^ 32)) (fp32.decode (y.bits.toNat % 2 ^ 32))
      Gives (do writeScalar d { bits := BitVec.ofNat 64 r.code, mark := x.mark || y.mark }; raiseFlagsN r.flags) s2 () t) :
    Completes (i d a b) s t := by
  obtain ⟨f, hexec, hfg⟩ := h
  exact (hexec d a b s).trans (issue_gives hi (fpu2_gives ha hb hd hx hy (hfg _ _ _) hw))

end

/-- The condition word of two floats. -/
theorem cmpfWord_eq (x y : FValue) : cmpfWord x y =
    (let un := x.isNan || y.isNan
     let o := fcompare x y
     wordOfBits [!un && o == .eq, un || o != .eq, !un && o == .lt, !un && o != .lt, un, !un, !un && o != .gt,
       !un && o == .gt]) := by
  rw [cmpfWord, wordOfBits_eq_condWord]
  cases x.isNan || y.isNan <;> simp

theorem ofNat_unsignedOf (z : Int) : BitVec.ofNat 64 (unsignedOf 64 z) = BitVec.ofInt 64 z := by
  refine BitVec.eq_of_toNat_eq ?_
  rw [unsignedOf, BitVec.toNat_ofNat, BitVec.toNat_ofInt, Nat.mod_eq_of_lt]
  omega

theorem scalarFloat_isFpu2 : ∀ p ∈ scalarFloat, IsFpu2 p.1 p.2 := by
  simp only [scalarFloat, List.forall_mem_cons, List.not_mem_nil, false_imp_iff, implies_true, and_true]
  exact ⟨⟨_, fun _ _ _ _ => rfl, fun _ _ _ => rfl⟩, ⟨_, fun _ _ _ _ => rfl, fun _ _ _ => rfl⟩,
    ⟨_, fun _ _ _ _ => rfl, fun _ _ _ => rfl⟩, ⟨_, fun _ _ _ _ => rfl, fun _ x y => by rw [cmpfWord_eq]⟩⟩

/-- Settles O2: the operand forms give the result and the flags of their operation. -/
theorem scalarFloatOperationsComplete : Obligations.ScalarFloatOperationsComplete := by
  refine ⟨?_, fun d a s s1 t x hi ha hd hx hw => ?_, fun d a s s1 t x hi ha hd hx hw => ?_⟩
  · exact fun p hp _ _ _ _ _ _ _ _ _ => (scalarFloat_isFpu2 p hp).completes
  · exact issue_gives hi (fpu1_gives ha hd hx (ofNat_unsignedOf _) rfl hw)
  · exact issue_gives hi (fpu1_gives ha hd hx rfl rfl hw)

end Sys2Proof.Machine
end

section
/-! PROOFS. The vector arithmetic instructions (R231 to R238, R242): each lane-wise form of the model computes every active
element with the operation of its table. -/
namespace Sys2Proof.Machine
open Sys2Proof.Claims

/-- Two results that stand for the same element of `w` bits, with the same flags. -/
def SameElem (w : Nat) (r q : FResult) : Prop := r.code % 2 ^ w = q.code % 2 ^ w ∧ r.flags = q.flags

theorem SameElem.rfl {w : Nat} {r : FResult} : SameElem w r r := ⟨Eq.refl _, Eq.refl _⟩

/-- The value of a lane-wise form at `s`: its elements and its flags are those of `op`. -/
def ComputesAt (w : Nat) (s : State) (r : VecBits × Nat) (op : Nat → FResult) : Prop :=
  Elements w s r.1 op ∧ FlagsOf w s r.2 op

theorem elementwise_computesAt {w : Nat} {s : State} {f op : Nat → FResult} (h : ∀ e, SameElem w (f e) (op e)) :
    ComputesAt w s (elementwise w (lanesAt s) f) op := by
  refine ⟨fun e he => ?_, fun k => ?_⟩
  · rw [activeElem, Bool.and_eq_true, decide_eq_true_eq] at he
    rw [elementwise_elem _ _ _ _ he.1 he.2, (h e).1]
  · simp only [elementwise_flags, (h _).2, activeElem]

/-- A form of two sources. -/
def Computes2 (w : Nat) (k : Context → BitVec 128 → VecBits → VecBits → VecBits × Nat)
    (op : Rounding → Nat → Nat → FResult) : Prop :=
  ∀ (s : State) (x y : VecBits), ComputesAt w s (k s.cur (lanesAt s) x y)
    (fun e => op (s.cur.rounding e) (elemOf x w e) (elemOf y w e))

/-- Of one source. -/
def Computes1 (w : Nat) (k : Context → BitVec 128 → VecBits → VecBits × Nat) (op : Rounding → Nat → FResult) : Prop :=
  ∀ (s : State) (x : VecBits), ComputesAt w s (k s.cur (lanesAt s) x) (fun e => op (s.cur.rounding e) (elemOf x w e))

theorem Computes2.twoSources {w : Nat} {k : Context → BitVec 128 → VecBits → VecBits → VecBits × Nat}
    {op : Rounding → Nat → Nat → FResult} {i : Instr} {d a b : VSpec} (h : Computes2 w k op)
    (hexec : ∀ s, exec i s = issue i (vec2 d a b k) s) : TwoSources i w op d a b := by
  intro s s1 s2 x y hi ha hb hd hx hy
  obtain ⟨helem, hflags⟩ := h s2 x.bits y.bits
  exact ⟨_, _, helem, hflags, fun t ht => (hexec s).trans (issue_gives hi (vec2_gives ha hb hd hx hy ht))⟩

theorem Computes1.oneSource {w : Nat} {k : Context → BitVec 128 → VecBits → VecBits × Nat}
    {op : Rounding → Nat → FResult} {i : Instr} {d a : VSpec} (h : Computes1 w k op)
    (hexec : ∀ s, exec i s = issue i (vec1 d a k) s) : OneSource i w op d a := by
  intro s s1 x hi ha hd hx
  obtain ⟨helem, hflags⟩ := h s1 x.bits
  exact ⟨_, _, helem, hflags, fun t ht => (hexec s).trans (issue_gives hi (vec1_gives ha hd hx ht))⟩

/-- The fused operations. -/
theorem fma_threeSources {t : Fin 8} {minus : Bool} {i : Instr} {d a b : VSpec}
    (hexec : ∀ s, exec i s = issue i (vec3 d a b (lanesFma t minus)) s) :
    ThreeSources i (laneWidth t)
      (fun r x y z => (laneFmt t).fma r minus ((laneFmt t).decode x) ((laneFmt t).decode y) ((laneFmt t).decode z)) d a b := by
  intro s s1 s2 s3 x y z hi ha hb hx hy hz
  obtain ⟨helem, hflags⟩ := elementwise_computesAt (w := laneWidth t) (s := s3)
    (f := fun e => (laneFmt t).fma (s3.cur.rounding e) minus ((laneFmt t).decode (elemOf x.bits (laneWidth t) e))
      ((laneFmt t).decode (elemOf y.bits (laneWidth t) e)) ((laneFmt t).decode (elemOf z.bits (laneWidth t) e)))
    (fun _ => SameElem.rfl)
  exact ⟨_, _, helem, hflags, fun u hu => (hexec s).trans (issue_gives hi (vec3_gives ha hb hx hy hz hu))⟩

theorem lanesF2_computes (t : Fin 8) (f : FFmt → Rounding → FValue → FValue → FResult) :
    Computes2 (laneWidth t) (lanesF2 t f) (fun r x y => f (laneFmt t) r ((laneFmt t).decode x) ((laneFmt t).decode y)) :=
  fun _ _ _ => elementwise_computesAt fun _ => SameElem.rfl

theorem lanesF1_computes (t : Fin 8) (f : FFmt → Rounding → FValue → FResult) :
    Computes1 (laneWidth t) (lanesF1 t f) (fun r x => f (laneFmt t) r ((laneFmt t).decode x)) :=
  fun _ _ => elementwise_computesAt fun _ => SameElem.rfl

theorem lanesScaleb_computes (t : Fin 8) : Computes2 (laneWidth t) (lanesScaleb t)
    (fun r x y => (laneFmt t).scaleb r ((laneFmt t).decode x) (signed (laneWidth t) y)) :=
  fun _ _ _ => elementwise_computesAt fun _ => SameElem.rfl

/-- A comparison, with the mask and the flags of its table entry. -/
theorem lanesCmp_computes (t : Fin 8) (kind : Nat) {op : Nat → Nat → FResult}
    (h : ∀ x y, (let m := fcmpMask kind ((laneFmt t).decode x) ((laneFmt t).decode y)
      ({ code := if m.1 then 2 ^ laneWidth t - 1 else 0, flags := m.2 } : FResult)) = op x y) :
    Computes2 (laneWidth t) (lanesCmp t kind) (fun _ => op) :=
  fun _ _ _ => elementwise_computesAt fun _ => h _ _ ▸ SameElem.rfl

/-- An operation on codes, with the values modulo 2^w that its table entry gives. -/
theorem lanesCode2_computes {w : Nat} {f g : Nat → Nat → Nat}
    (h : ∀ x y, x < 2 ^ w → y < 2 ^ w → f x y % 2 ^ w = g x y % 2 ^ w) :
    Computes2 w (lanesCode2 w f) (fun _ x y => plain (g x y)) :=
  fun _ _ _ => elementwise_computesAt fun e => ⟨h _ _ (elemOf_lt _ w e) (elemOf_lt _ w e), rfl⟩

theorem lanesCode1_computes {w : Nat} {f g : Nat → Nat} (h : ∀ x, x < 2 ^ w → f x % 2 ^ w = g x % 2 ^ w) :
    Computes1 w (lanesCode1 w f) (fun _ x => plain (g x)) :=
  fun _ _ => elementwise_computesAt fun e => ⟨h _ (elemOf_lt _ w e), rfl⟩

/-- An operation on whole vectors that works on each element alone and sets no flag. -/
theorem computesAt_of_elem {w : Nat} {s : State} {r : VecBits} {g : Nat → Nat}
    (h : ∀ e, elemOf r w e = g e) : ComputesAt w s (r, 0) (fun e => plain (g e)) := by
  refine ⟨fun e _ => ?_, fun k => ?_⟩
  · have hlt := elemOf_lt r w e
    rw [h] at hlt
    rw [h]
    exact (Nat.mod_eq_of_lt hlt).symm
  · simp [plain]

theorem and_computes (w : Nat) : Computes2 w (lanesBits2 (fun x y => x &&& y)) (fun _ x y => plain (x &&& y)) :=
  fun _ _ _ => computesAt_of_elem fun e => by rw [elemOf, BitVec.extractLsb'_and, BitVec.toNat_and, elemOf, elemOf]

theorem or_computes (w : Nat) : Computes2 w (lanesBits2 (fun x y => x ||| y)) (fun _ x y => plain (x ||| y)) :=
  fun _ _ _ => computesAt_of_elem fun e => by rw [elemOf, BitVec.extractLsb'_or, BitVec.toNat_or, elemOf, elemOf]

theorem xor_computes (w : Nat) : Computes2 w (lanesBits2 (fun x y => x ^^^ y)) (fun _ x y => plain (x ^^^ y)) :=
  fun _ _ _ => computesAt_of_elem fun e => by rw [elemOf, BitVec.extractLsb'_xor, BitVec.toNat_xor, elemOf, elemOf]

theorem move_computes : Computes1 32 (fun _ _ x => (x, 0)) (fun _ x => plain x) :=
  fun _ _ => computesAt_of_elem fun _ => rfl

/-! The integer operations at two elements of `w` bits. -/

section
variable {w : Nat} {x y : Nat}

theorem sub_mod_eq (hy : y < 2 ^ w) : (x + 2 ^ w - y) % 2 ^ w = (((x : Int) - y) % 2 ^ w).toNat % 2 ^ w := by
  have h : (((x + 2 ^ w - y : Nat) : Int)) = (x : Int) - y + 2 ^ w := by push_cast [Nat.cast_sub (by omega : y ≤ x + 2 ^ w)]; ring
  have hm : (((x + 2 ^ w - y) % 2 ^ w : Nat) : Int) = ((x : Int) - y) % 2 ^ w := by
    push_cast [h]
    exact Int.add_emod_right _ _
  rw [← hm, Int.toNat_natCast, Nat.mod_mod]

theorem unsignedOf_eq (w : Nat) (z : Int) : unsignedOf w z = (z % 2 ^ w).toNat := by
  rw [unsignedOf]
  push_cast
  rfl

theorem signed_inj (hx : x < 2 ^ w) (hy : y < 2 ^ w) (h : signed w x = signed w y) : x = y := by
  rw [signed, signed, Nat.mod_eq_of_lt hx, Nat.mod_eq_of_lt hy] at h
  split_ifs at h <;> omega

theorem pickSigned_min (hx : x < 2 ^ w) (hy : y < 2 ^ w) :
    pickSigned w false x y = if signed w x ≤ signed w y then x else y := by
  rw [pickSigned]
  rcases lt_trichotomy (signed w x) (signed w y) with h | h | h
  · simp [h, h.le]
  · simp [signed_inj hx hy h]
  · simp [h.not_gt, h.not_ge]

theorem pickSigned_max (hx : x < 2 ^ w) (hy : y < 2 ^ w) :
    pickSigned w true x y = if signed w x ≤ signed w y then y else x := by
  rw [pickSigned]
  rcases lt_trichotomy (signed w x) (signed w y) with h | h | h
  · simp [h, h.le]
  · simp [signed_inj hx hy h]
  · simp [h.not_gt, h.not_ge]

theorem pickUnsigned_min : pickUnsigned false x y = min x y := by
  rw [pickUnsigned, Nat.min_def]
  rcases lt_trichotomy x y with h | h | h
  · simp [h, h.le]
  · simp [h]
  · simp [h.not_gt, h.not_ge]

theorem pickUnsigned_max : pickUnsigned true x y = max x y := by
  rw [pickUnsigned, Nat.max_def]
  rcases lt_trichotomy x y with h | h | h
  · simp [h, h.le]
  · simp [h]
  · simp [h.not_gt, h.not_ge]

theorem clampSigned_eq_clamp (w : Nat) (z : Int) : clampSigned w z = clamp w z := by
  rw [clampSigned, clamp]
  have hp : (0 : Int) < 2 ^ (w - 1) := by positivity
  push_cast
  omega

/-- Adding 2^(w − 1) modulo 2^w inverts bit w − 1 alone. -/
theorem add_top_mod_eq (hw : 0 < w) : (x + 2 ^ (w - 1)) % 2 ^ w = (x ^^^ 2 ^ (w - 1)) % 2 ^ w := by
  refine Nat.eq_of_testBit_eq fun j => ?_
  rw [Nat.testBit_mod_two_pow, Nat.testBit_mod_two_pow, Nat.testBit_xor, Nat.testBit_two_pow, Nat.add_comm]
  rcases lt_trichotomy j (w - 1) with h | h | h
  · rw [Nat.testBit_two_pow_add_gt h, decide_eq_false (by omega : ¬w - 1 = j), Bool.xor_false]
  · rw [h, Nat.testBit_two_pow_add_eq, decide_eq_true rfl, Bool.xor_true]
  · rw [decide_eq_false (by omega : ¬j < w), Bool.false_and, Bool.false_and]

theorem orderKey_eq (hx : x < 2 ^ w) :
    orderKey w x = if x.testBit (w - 1) then 2 ^ w - 1 - x else x + 2 ^ (w - 1) := by
  rw [orderKey, Nat.mod_eq_of_lt hx, bitsOf, Nat.testBit_eq_decide_div_mod_eq]
  simp

end

theorem laneWidth_pos (t : Fin 8) : 0 < laneWidth t := by
  rw [laneWidth]
  split <;> decide

/-! The comparisons: a NaN makes them false; only VCMPEQ takes a quiet one without a flag. -/

section
variable (u v : FValue)

theorem not_isSignaling_of_not_isNan {u : FValue} (h : u.isNan = false) : u.isSignaling = false := by
  cases u with
  | nan _ _ _ => simp [FValue.isNan] at h
  | inf _ | zero _ | fin _ _ _ => rfl

theorem fcmpMask_eq : fcmpMask 0 u v = (!u.isNan && !v.isNan && fcompare u v == .eq,
    flagIf (u.isSignaling || v.isSignaling) flagNV) := by
  rw [fcmpMask]
  cases hu : u.isNan <;> cases hv : v.isNan <;>
    simp [flagIf, not_isSignaling_of_not_isNan, hu, hv]

theorem fcmpMask_lt : fcmpMask 1 u v = (!u.isNan && !v.isNan && fcompare u v == .lt,
    flagIf (u.isNan || v.isNan) flagNV) := by
  rw [fcmpMask]
  cases u.isNan <;> cases v.isNan <;> simp [flagIf]

theorem fcmpMask_le : fcmpMask 2 u v = (!u.isNan && !v.isNan && (fcompare u v == .lt || fcompare u v == .eq),
    flagIf (u.isNan || v.isNan) flagNV) := by
  rw [fcmpMask]
  cases u.isNan <;> cases v.isNan <;> cases fcompare u v <;> simp [flagIf]

end

/-! Each table, entry by entry. -/

theorem floatTwo_twoSources :
    ∀ p ∈ floatTwo, ∀ t d a b, TwoSources (p.1 t d a b) (laneWidth t) (p.2 t) d a b := by
  simp only [floatTwo, List.forall_mem_cons, List.not_mem_nil, false_imp_iff, implies_true, and_true]
  exact ⟨fun t d a b => (lanesF2_computes t FFmt.add).twoSources fun _ => rfl,
    fun t d a b => (lanesF2_computes t FFmt.sub).twoSources fun _ => rfl,
    fun t d a b => (lanesF2_computes t FFmt.mul).twoSources fun _ => rfl,
    fun t d a b => Computes2.twoSources (k := lanesMinMax t false) (lanesCode2_computes fun _ _ _ _ => rfl) fun _ => rfl,
    fun t d a b => Computes2.twoSources (k := lanesMinMax t true) (lanesCode2_computes fun _ _ _ _ => rfl) fun _ => rfl,
    fun t d a b => (lanesScaleb_computes t).twoSources fun _ => rfl,
    fun t d a b => (lanesCmp_computes t 0 fun x y => by rw [fcmpMask_eq]).twoSources fun _ => rfl,
    fun t d a b => (lanesCmp_computes t 1 fun x y => by rw [fcmpMask_lt]).twoSources fun _ => rfl,
    fun t d a b => (lanesCmp_computes t 2 fun x y => by rw [fcmpMask_le]).twoSources fun _ => rfl⟩

theorem floatOne_oneSource : ∀ p ∈ floatOne, ∀ t d a, OneSource (p.1 t d a) (laneWidth t) (p.2 t) d a := by
  simp only [floatOne, List.forall_mem_cons, List.not_mem_nil, false_imp_iff, implies_true, and_true]
  exact ⟨fun t d a => (lanesCode1_computes fun _ _ => rfl).oneSource fun _ => rfl,
    fun t d a => (lanesCode1_computes fun _ _ => add_top_mod_eq (laneWidth_pos t)).oneSource fun _ => rfl,
    fun t d a => (lanesF1_computes t FFmt.sqrt).oneSource fun _ => rfl,
    fun t d a => (lanesF1_computes t FFmt.recip).oneSource fun _ => rfl,
    fun t d a => (lanesF1_computes t FFmt.rsqrt).oneSource fun _ => rfl,
    fun t d a => (lanesF1_computes t FFmt.exp2).oneSource fun _ => rfl,
    fun t d a => (lanesF1_computes t FFmt.log2).oneSource fun _ => rfl,
    fun t d a => (lanesCode1_computes fun x hx => by rw [orderKey_eq hx]).oneSource fun _ => rfl⟩

theorem intTwo_twoSources :
    ∀ p ∈ intTwo, ∀ t d a b, TwoSources (p.1 t d a b) (intWidth t) (fun _ => p.2 (intWidth t)) d a b := by
  simp only [intTwo, List.forall_mem_cons, List.not_mem_nil, false_imp_iff, implies_true, and_true]
  exact ⟨fun t d a b => (lanesCode2_computes fun _ _ _ _ => (Nat.mod_mod _ _).symm).twoSources fun _ => rfl,
    fun t d a b => (lanesCode2_computes fun _ _ _ hy => sub_mod_eq hy).twoSources fun _ => rfl,
    fun t d a b => (lanesCode2_computes fun _ _ _ _ => (Nat.mod_mod _ _).symm).twoSources fun _ => rfl,
    fun t d a b => (lanesCode2_computes fun _ _ hx hy => by rw [pickSigned_min hx hy]).twoSources fun _ => rfl,
    fun t d a b => (lanesCode2_computes fun _ _ hx hy => by rw [pickSigned_max hx hy]).twoSources fun _ => rfl,
    fun t d a b => (lanesCode2_computes fun _ _ _ _ => by rw [pickUnsigned_min]).twoSources fun _ => rfl,
    fun t d a b => (lanesCode2_computes fun _ _ _ _ => by rw [pickUnsigned_max]).twoSources fun _ => rfl,
    fun t d a b => (and_computes _).twoSources fun _ => rfl,
    fun t d a b => (or_computes _).twoSources fun _ => rfl,
    fun t d a b => (xor_computes _).twoSources fun _ => rfl,
    fun t d a b => (lanesCode2_computes fun _ _ _ _ => (Nat.mod_mod _ _).symm).twoSources fun _ => rfl,
    fun t d a b => (lanesCode2_computes fun _ _ _ _ => rfl).twoSources fun _ => rfl,
    fun t d a b => (lanesCode2_computes fun _ _ _ _ => by rw [unsignedOf_eq]).twoSources fun _ => rfl,
    fun t d a b => (lanesCode2_computes (g := fun x y => (ones (intWidth t) (x = y)).code) fun _ _ _ _ => by
      simp [maskIf, ones]).twoSources fun _ => rfl,
    fun t d a b => (lanesCode2_computes (g := fun x y => (ones (intWidth t) (signed (intWidth t) x < signed (intWidth t) y)).code)
      fun _ _ _ _ => by simp [maskIf, ones]).twoSources fun _ => rfl,
    fun t d a b => (lanesCode2_computes (g := fun x y => (ones (intWidth t) (x < y)).code) fun _ _ _ _ => by
      simp [maskIf, ones]).twoSources fun _ => rfl,
    fun t d a b => (lanesCode2_computes fun _ _ _ _ => by rw [unsignedOf_eq, clampSigned_eq_clamp]).twoSources fun _ => rfl⟩

theorem shortTwo_twoSources : ∀ p ∈ shortTwo, ∀ d b, TwoSources (p.1 d b) p.2.1 p.2.2 d d b := by
  simp only [shortTwo, List.forall_mem_cons, List.not_mem_nil, false_imp_iff, implies_true, and_true]
  exact ⟨fun d b => (lanesF2_computes 0 FFmt.add).twoSources fun _ => rfl,
    fun d b => (lanesF2_computes 0 FFmt.sub).twoSources fun _ => rfl,
    fun d b => (lanesF2_computes 0 FFmt.mul).twoSources fun _ => rfl,
    fun d b => Computes2.twoSources (k := lanesMinMax 0 true) (lanesCode2_computes fun _ _ _ _ => rfl) fun _ => rfl,
    fun d b => Computes2.twoSources (k := lanesMinMax 0 false) (lanesCode2_computes fun _ _ _ _ => rfl) fun _ => rfl,
    fun d b => (lanesF2_computes 2 FFmt.add).twoSources fun _ => rfl,
    fun d b => (lanesCode2_computes fun _ _ _ _ => (Nat.mod_mod _ _).symm).twoSources fun _ => rfl,
    fun d b => (lanesCode2_computes fun _ _ _ hy => sub_mod_eq hy).twoSources fun _ => rfl,
    fun d b => (and_computes _).twoSources fun _ => rfl,
    fun d b => (or_computes _).twoSources fun _ => rfl,
    fun d b => (xor_computes _).twoSources fun _ => rfl,
    fun d b => (lanesCode2_computes fun _ _ hx hy => by rw [pickSigned_max hx hy]).twoSources fun _ => rfl,
    fun d b => (lanesCode2_computes fun _ _ hx hy => by rw [pickSigned_min hx hy]).twoSources fun _ => rfl⟩

/-- Settles O3: every table entry is one of the model's lane-wise forms at its operation. -/
theorem laneOperationsComplete : Obligations.LaneOperationsComplete :=
  ⟨⟨floatTwo_twoSources, floatOne_oneSource, fun _ _ _ _ => fma_threeSources fun _ => rfl,
      fun _ _ _ _ => fma_threeSources fun _ => rfl, intTwo_twoSources,
      fun _ _ _ => (lanesCode1_computes fun _ _ => rfl).oneSource fun _ => rfl⟩,
    shortTwo_twoSources, fun _ _ => fma_threeSources (t := 0) fun _ => rfl,
    fun _ _ => fma_threeSources (t := 2) fun _ => rfl, fun _ _ => move_computes.oneSource fun _ => rfl⟩

end Sys2Proof.Machine
end

section
/-! PROOFS. The lane moves, the conversions, VPACK and VUNPACK (R239 to R244). -/
namespace Sys2Proof.Machine
open Sys2Proof.Claims

/-! Lanes and elements of packed and merged vectors. -/

theorem elemOf_packElems {w n : Nat} (f : Nat → Nat) {e : Nat} (he : e < n) (hn : w * n ≤ 4096) :
    elemOf (packElems w n f) w e = f e % 2 ^ w := by
  rw [packElems, elemOf_packed w _ e (by simpa using he) (by simpa using hn)]
  simp

theorem lane_packElems (f : Nat → Nat) {l : Nat} (hl : l < 128) : lane (packElems 32 128 f) l = BitVec.ofNat 32 (f l) := by
  refine BitVec.eq_of_toNat_eq ?_
  rw [BitVec.toNat_ofNat]
  exact elemOf_packElems f hl (by decide)

theorem getLsbD_packList_one (f : Nat → Bool) {l : Nat} (hl : l < 128) :
    (BitVec.ofNat 128 (packList 1 ((List.range 128).map fun k => if f k then 1 else 0))).getLsbD l = f l := by
  have h := packList_elem 1 ((List.range 128).map fun k => if f k then 1 else 0) l (by simpa using hl)
  rw [BitVec.getLsbD_ofNat, Nat.testBit_eq_decide_div_mod_eq, decide_eq_true hl, Bool.true_and]
  rw [Nat.one_mul, Nat.pow_one] at h
  rw [h]
  cases hf : f l <;> simp [hf]

theorem marksOf_marksAre (f : Nat → Bool) : MarksAre (marksOf f) f := fun _ hl => getLsbD_packList_one f hl

theorem markAll_marksAre (b : Bool) : MarksAre (markAll b) fun _ => b := by
  intro l hl
  cases b
  · exact BitVec.getLsbD_zero
  · rw [markAll, if_pos rfl, BitVec.getLsbD_allOnes, decide_eq_true hl]

theorem lane_laneMask (m : BitVec 128) {l : Nat} (hl : l < 128) :
    lane (laneMask m) l = if m.getLsbD l then BitVec.allOnes 32 else 0 := by
  rw [laneMask, lane_packElems _ hl]
  split <;> rfl

theorem lane_not (x : VecBits) {l : Nat} (hl : l < 128) : lane (~~~x) l = ~~~lane x l := by
  refine BitVec.eq_of_getLsbD_eq fun i hi => ?_
  simp only [lane, BitVec.getLsbD_extractLsb', BitVec.getLsbD_not, decide_eq_true hi, Bool.true_and,
    decide_eq_true (by omega : 32 * l + i < 4096)]

theorem lane_mergeLanes (m : BitVec 128) (new old : Vec) {l : Nat} (hl : l < 128) :
    lane (mergeLanes m new old).bits l = if m.getLsbD l then lane new.bits l else lane old.bits l := by
  calc lane (mergeLanes m new old).bits l
      = (lane new.bits l &&& lane (laneMask m) l) ||| (lane old.bits l &&& lane (~~~laneMask m) l) := by
        simp only [mergeLanes, lane, BitVec.extractLsb'_or, BitVec.extractLsb'_and]
    _ = if m.getLsbD l then lane new.bits l else lane old.bits l := by
        rw [lane_not _ hl, lane_laneMask m hl]
        split
        · rw [BitVec.and_allOnes, BitVec.not_allOnes]
          simp
        · rw [show (0 : BitVec 32) = 0#32 from rfl, BitVec.not_zero, BitVec.and_allOnes]
          simp

theorem mark_mergeLanes (m : BitVec 128) (new old : Vec) {l : Nat} (hl : l < 128) :
    (mergeLanes m new old).mark.getLsbD l = if m.getLsbD l then new.mark.getLsbD l else old.mark.getLsbD l := by
  simp only [mergeLanes, BitVec.getLsbD_or, BitVec.getLsbD_and, BitVec.getLsbD_not, decide_eq_true hl]
  cases m.getLsbD l <;> simp

/-- A vector form whose last step is the write of its destination. -/
theorem gives_write_done {d : VSpec} {v : Vec} {s t : State} (h : Gives (writeVec d v) s () t) :
    Gives (do writeVec d v; return Flow.done) s .done t := gives_bind h (gives_pure _ _)

/-! The moves, one by one. -/

section
variable {s s1 s2 s3 t : State} {a b d : VSpec} {x y z : Vec}

theorem vmov_completes (hi : issues (.vmov d a) s = true) (ha : vsrcBound a s) (hd : vdstBound d s)
    (hx : Gives (readVec a) s x s1) (ht : Gives (writeVec d x) s1 () t) : Completes (.vmov d a) s t :=
  issue_gives hi (vec1_gives ha hd hx (gives_bind ht (raiseFlagsN_zero_gives t)))

/-- VSEL takes each bit from the first source where the destination's old bit is set. -/
theorem getLsbD_select (x y z : VecBits) (k : Nat) :
    ((z &&& x) ||| (~~~ z &&& y)).getLsbD k = if z.getLsbD k then x.getLsbD k else y.getLsbD k := by
  by_cases hk : k < 4096
  · simp only [BitVec.getLsbD_or, BitVec.getLsbD_and, BitVec.getLsbD_not, decide_eq_true hk]
    cases z.getLsbD k <;> simp
  · simp [BitVec.getLsbD_of_ge _ k (Nat.le_of_not_lt hk)]

theorem vsel_completes (hi : issues (.vsel d a b) s = true) (ha : vsrcBound a s) (hb : vsrcBound b s)
    (hx : Gives (readVec a) s x s1) (hy : Gives (readVec b) s1 y s2) (hz : Gives (readVec d) s2 z s3) :
    ∃ r : VecBits, (∀ k, r.getLsbD k = if z.bits.getLsbD k then x.bits.getLsbD k else y.bits.getLsbD k) ∧
      WritesVector (.vsel d a b) d r (x.mark ||| y.mark ||| z.mark) s s3 :=
  ⟨_, getLsbD_select x.bits y.bits z.bits, fun t ht =>
    issue_gives hi (vec3_gives ha hb hx hy hz (gives_bind ht (raiseFlagsN_zero_gives t)))⟩

theorem intWidth_mul_le (ty : Fin 8) : intWidth ty * (4096 / intWidth ty) ≤ 4096 := Nat.mul_div_le _ _

theorem viota_completes {ty : Fin 8} (hi : issues (.viota ty d) s = true) (hd : vdstBound d s) :
    ∃ r, (∀ e, e < 4096 / intWidth ty → elemOf r (intWidth ty) e = e % 2 ^ intWidth ty) ∧
      WritesVector (.viota ty d) d r 0 s s :=
  ⟨_, fun _ he => elemOf_packElems (fun e => e) he (intWidth_mul_le ty),
    fun _ ht => issue_gives hi (gives_bind hd (gives_write_done ht))⟩

theorem vperm_completes {ix : VSpec} {n : Vec} (hi : issues (.vperm d a ix) s = true) (ha : vsrcBound a s)
    (hix : vsrcBound ix s) (hd : vdstBound d s) (hx : Gives (readVec a) s x s1) (hn : Gives (readVec ix) s1 n s2) :
    ∃ r m, LanesAre r (fun l => lane x.bits ((lane n.bits l).toNat % 128)) ∧
      MarksAre m (fun l => x.mark.getLsbD ((lane n.bits l).toNat % 128) || n.mark.getLsbD l) ∧
      WritesVector (.vperm d a ix) d r m s s2 := by
  refine ⟨_, _, fun l hl => (lane_packElems _ hl).trans ((BitVec.ofNat_toNat _ _).trans (BitVec.setWidth_eq _)), fun l hl => ?_, fun t ht =>
    issue_gives hi (gives_bind ha (gives_bind hix (gives_bind hd (gives_bind hx (gives_bind hn (gives_write_done ht))))))⟩
  rw [BitVec.getLsbD_or, getLsbD_packList_one (fun l => x.mark.getLsbD ((lane n.bits l).toNat % 128)) hl, Bool.or_comm]

/-- A scalar's low 32 bits in every lane. -/
theorem lanesAre_low (x : Word) : LanesAre (packElems 32 128 fun _ => x.toNat % 2 ^ 32) fun _ => x.setWidth 32 := by
  intro l hl
  rw [lane_packElems _ hl]
  exact BitVec.eq_of_toNat_eq (by simp)

theorem vbcast_completes {a : Scalar} {x : Val} (hi : issues (.vbcast d a) s = true) (ha : srcBound a s)
    (hd : vdstBound d s) (hx : Gives (readScalar a) s x s1) :
    ∃ r m, LanesAre r (fun _ => x.bits.setWidth 32) ∧ MarksAre m (fun _ => x.mark) ∧
      WritesVector (.vbcast d a) d r m s s1 :=
  ⟨_, _, lanesAre_low x.bits, markAll_marksAre x.mark,
    fun _ ht => issue_gives hi (gives_bind ha (gives_bind hd (gives_bind hx (gives_write_done ht))))⟩

theorem vextr_completes {d i : Scalar} {n : Val} (hi : issues (.vextr d i a) s = true) (hs : srcBound i s)
    (ha : vsrcBound a s) (hd : dstBound d s) (hn : Gives (readScalar i) s n s1) (hx : Gives (readVec a) s1 x s2)
    (hlt : n.bits.toNat < 128)
    (ht : Gives (writeScalar d (if (lanesAt s2).getLsbD n.bits.toNat
      then { bits := (lane x.bits n.bits.toNat).setWidth 64, mark := x.mark.getLsbD n.bits.toNat || n.mark }
      else { bits := 0 })) s2 () t) : Completes (.vextr d i a) s t := by
  refine issue_gives hi (gives_bind hs (gives_bind ha (gives_bind hd (gives_bind hn (gives_bind hx
    (gives_bind (check_of_true (decide_eq_true hlt) _ _ s2) (gives_bind (activeLanes_gives s2) ?_)))))))
  dsimp only
  split at ht
  case isTrue hact =>
    rw [if_pos hact]
    exact gives_bind ht (gives_pure _ _)
  case isFalse hact =>
    rw [if_neg hact]
    exact gives_bind ht (gives_pure _ _)

/-- The one lane that VINS replaces. -/
theorem getLsbD_oneLane (n : Nat) {l : Nat} (hl : l < 128) :
    (BitVec.ofNat 128 (1 <<< n)).getLsbD l = decide (l = n) := by
  rw [BitVec.getLsbD_ofNat, decide_eq_true hl, Bool.true_and, Nat.one_shiftLeft, Nat.testBit_two_pow]
  exact decide_eq_decide.2 eq_comm

theorem vins_completes {a i : Scalar} {x n : Val} (hi : issues (.vins d a i) s = true) (ha : srcBound a s)
    (hs : srcBound i s) (hx : Gives (readScalar a) s x s1) (hn : Gives (readScalar i) s1 n s2)
    (hz : Gives (readVec d) s2 z s3) (hlt : n.bits.toNat < 128) :
    ∃ r m, LanesAre r (fun l => if l = n.bits.toNat then x.bits.setWidth 32 else lane z.bits l) ∧
      MarksAre m (fun l => if l = n.bits.toNat then x.mark || n.mark else z.mark.getLsbD l) ∧
      WritesVector (.vins d a i) d r m s s3 := by
  let new : Vec := { bits := packElems 32 128 fun _ => x.bits.toNat % 2 ^ 32, mark := markAll (x.mark || n.mark) }
  let out : Vec := mergeLanes (BitVec.ofNat 128 (1 <<< n.bits.toNat)) new z
  refine ⟨out.bits, out.mark, fun l hl => ?_, fun l hl => ?_, fun t ht => issue_gives hi (gives_bind ha (gives_bind hs
    (gives_bind hx (gives_bind hn (gives_bind hz (gives_bind (check_of_true (decide_eq_true hlt) _ _ s3)
    (gives_write_done ht)))))))⟩
  · rw [lane_mergeLanes _ _ _ hl, getLsbD_oneLane _ hl, lanesAre_low x.bits l hl]
    simp
  · rw [mark_mergeLanes _ _ _ hl, getLsbD_oneLane _ hl, markAll_marksAre _ l hl]
    simp

end

/-- Settles O4: each move writes what its form computes. -/
theorem laneMovesComplete : Obligations.LaneMovesComplete :=
  ⟨fun _ _ _ _ _ hi ha hd hx _ ht => vmov_completes hi ha hd hx ht,
    fun _ _ _ _ _ _ _ _ _ _ hi ha hb hx hy hz => vsel_completes hi ha hb hx hy hz,
    fun _ _ _ hi hd => viota_completes hi hd,
    fun _ _ _ _ _ _ _ _ hi ha hix hd hx hn => vperm_completes hi ha hix hd hx hn,
    fun _ _ _ _ _ hi ha hd hx => vbcast_completes hi ha hd hx,
    fun _ _ _ _ _ _ _ _ _ hi hs ha hd hn hx hlt ht => vextr_completes hi hs ha hd hn hx hlt ht,
    fun _ _ _ _ _ _ _ _ _ _ hi ha hs hx hn hz hlt => vins_completes hi ha hs hx hn hz hlt⟩

/-! R243: the conversions. -/

/-- A conversion whose format is admitted. -/
theorem convertLanes_converts {ok : Bool} {d a : VSpec} {f : Rounding → Bool → Nat → FResult} {i : Instr} (hok : ok = true)
    (hexec : ∀ s, exec i s = issue i (convertLanes ok d a f) s) :
    ConvertsLanes i d a (fun c l x => f (c.rounding l) (c.regs.mode.getLsbD 4) x) := by
  intro s s1 x hi ha hd hx
  obtain ⟨helem, hflags⟩ := elementwise_computesAt (w := 32) (s := s1)
    (f := fun l => f (s1.cur.rounding l) s1.cur.sat (lane x.bits l).toNat) (fun _ => SameElem.rfl)
  exact ⟨_, _, helem, hflags, fun t ht => (hexec s).trans (issue_gives hi
    (gives_bind ha (gives_bind hd (gives_bind (check_of_true hok _ _ s) (vec1_gives ha hd hx ht)))))⟩

theorem isTarget_of {n : Nat} (h25 : n ≠ 25) (h26 : n ≠ 26) (h28 : n < 28) : isTarget n = true := by
  simp [isTarget, h25, h26, h28]

theorem isCodebook_of_lt {n : Nat} (h : n < 28) : (!isCodebook n) = true := by
  simp [isCodebook]
  omega

theorem toI32_eq (r : Rounding) (v : FValue) : toI32 r v =
    { code := ((convertInt r (-(2 ^ 31)) (2 ^ 31 - 1) v).1 % 2 ^ 32).toNat
      flags := (convertInt r (-(2 ^ 31)) (2 ^ 31 - 1) v).2 } := rfl

/-! R244: packing and unpacking. -/

theorem packWidth_cases (ty : Fin 8) : packWidth ty = 16 ∨ packWidth ty = 8 ∨ packWidth ty = 4 := by
  unfold packWidth
  split <;> simp

section
variable {s s1 s2 : State} {d a b : VSpec} {x y : Vec} {ty : Fin 8}

theorem vpack_completes (hi : issues (.vpack ty d a b) s = true) (ha : vsrcBound a s) (hb : vsrcBound b s)
    (hd : vdstBound d s) (hx : Gives (readVec a) s x s1) (hy : Gives (readVec b) s1 y s2) :
    ∃ r m, (∀ e, e < 4096 / packWidth ty → elemOf r (packWidth ty) e =
        elemOf (if e < 2048 / packWidth ty then x.bits else y.bits) (2 * packWidth ty) (e % (2048 / packWidth ty)) %
          2 ^ packWidth ty) ∧
      MarksAre m (fun l => if l < 64 then x.mark.getLsbD (2 * l) || x.mark.getLsbD (2 * l + 1)
        else y.mark.getLsbD (2 * l - 128) || y.mark.getLsbD (2 * l - 127)) ∧
      WritesVector (.vpack ty d a b) d r m s s2 := by
  refine ⟨_, _, fun e he => ?_, fun l hl => ?_, fun t ht => issue_gives hi
    (gives_bind ha (gives_bind hb (gives_bind hd (gives_bind hx (gives_bind hy (gives_write_done ht))))))⟩
  · rw [elemOf_packElems _ he (Nat.mul_div_le _ _), show 4096 / packWidth ty / 2 = 2048 / packWidth ty by
      rw [Nat.div_div_eq_div_mul, Nat.mul_comm, ← Nat.div_div_eq_div_mul]]
  · rw [marksOf_marksAre _ l hl]
    by_cases h : l < 64
    · simp [h, show 2 * l < 128 by omega, show 2 * l + 1 < 128 by omega]
    · simp [h, show ¬2 * l < 128 by omega, show ¬2 * l + 1 < 128 by omega, show 2 * l + 1 - 128 = 2 * l - 127 by omega]

theorem vunpack_completes {half sign : Bool} (hi : issues (.vunpack ty d a half sign) s = true) (ha : vsrcBound a s)
    (hd : vdstBound d s) (hx : Gives (readVec a) s x s1) :
    ∃ r m, (∀ e, e < 2048 / packWidth ty →
        let v := elemOf x.bits (packWidth ty) ((if half then 2048 / packWidth ty else 0) + e)
        elemOf r (2 * packWidth ty) e =
          if sign then (signed (packWidth ty) v % 2 ^ (2 * packWidth ty)).toNat else v) ∧
      MarksAre m (fun l => x.mark.getLsbD ((if half then 64 else 0) + l / 2)) ∧
      WritesVector (.vunpack ty d a half sign) d r m s s1 := by
  refine ⟨_, _, fun e he => ?_, fun l hl => ?_, fun t ht => issue_gives hi
    (gives_bind ha (gives_bind hd (gives_bind hx (gives_write_done ht))))⟩
  · have hw : 4096 / (2 * packWidth ty) = 2048 / packWidth ty := by rw [← Nat.div_div_eq_div_mul]
    have hidx : (if half then 1 else 0) * (2048 / packWidth ty) = if half then 2048 / packWidth ty else 0 := by
      cases half <;> simp
    dsimp only
    rw [elemOf_packElems _ (hw ▸ he) (Nat.mul_div_le _ _), hidx]
    refine Nat.mod_eq_of_lt ?_
    cases sign with
    | true =>
      rw [if_pos rfl, unsignedOf_eq]
      have := Int.emod_lt_of_pos
        (signed (packWidth ty) (elemOf x.bits (packWidth ty) ((if half then 2048 / packWidth ty else 0) + e)))
        (by positivity : (0 : Int) < 2 ^ (2 * packWidth ty))
      zify
      omega
    | false =>
      exact Nat.lt_of_lt_of_le (elemOf_lt _ _ _) (Nat.pow_le_pow_right (by decide) (by omega))
  · rw [marksOf_marksAre _ l hl]
    cases half <;> simp

end

/-- Settles O5: the conversions are one lane-wise form, and VPACK and VUNPACK pack their elements. -/
theorem conversionsAndPackingComplete : Obligations.ConversionsAndPackingComplete :=
  ⟨fun fmt _ _ h25 h26 h28 => convertLanes_converts
      (f := fun r sat x => convertTo fmt.val r sat (elemValue 0 x)) (isTarget_of h25 h26 h28) fun _ => rfl,
    fun fmt _ _ h25 h26 h28 => convertLanes_converts
      (f := fun r sat x => convertTo fmt.val r sat (.ofInt (signed 32 x))) (isTarget_of h25 h26 h28) fun _ => rfl,
    fun fmt _ _ h28 => convertLanes_converts (f := fun r _ x => convertTo 0 r false (elemValue fmt.val x))
      (isCodebook_of_lt h28) fun _ => rfl,
    fun fmt _ _ h28 => by
      simpa only [toI32_eq] using convertLanes_converts (f := fun r _ x => toI32 r (elemValue fmt.val x))
        (isCodebook_of_lt h28) fun _ => rfl,
    fun _ _ _ _ _ _ _ _ _ hi ha hb hd hx hy => vpack_completes hi ha hb hd hx hy,
    fun _ _ _ _ _ _ _ _ hi ha hd hx => vunpack_completes hi ha hd hx⟩

end Sys2Proof.Machine
end

section
/-! PROOFS. The reductions and VSCAN (R173, R174, R245, R246): the levels over a list are the tree over its indices, and the
running prefixes those of the same operation. -/
namespace Sys2Proof.Machine
open Sys2Proof.Claims

/-! The fixed tree of R173. -/

section
variable (f : Nat → Nat → FResult) (g : Nat → Nat)

/-- One level over the subtrees of `k` levels gives those of `k + 1`. -/
theorem treeLevel_tree (k n a : Nat) : treeLevel f ((List.range' (2 * a) (2 * n)).map (tree f g k)) =
    (List.range' a n).map (tree f g (k + 1)) := by
  induction n generalizing a with
  | zero => rfl
  | succ n ih =>
    have h : List.range' (2 * a) (2 * (n + 1)) = 2 * a :: (2 * a + 1) :: List.range' (2 * (a + 1)) (2 * n) := by
      rw [Nat.mul_add, Nat.mul_add, List.range'_succ, List.range'_succ]
    rw [h, List.range'_succ, List.map_cons, List.map_cons, List.map_cons, treeLevel, ih]
    rfl

/-- Levels over one value leave it. -/
theorem treeReduce_singleton (m : Nat) (x : FResult) : treeReduce f m [x] = x := by
  induction m with
  | zero => rfl
  | succ m ih => exact ih

/-- Enough levels over 2^j subtrees give the root over them. -/
theorem treeReduce_tree (k j m : Nat) :
    treeReduce f (j + m) ((List.range' 0 (2 ^ j)).map (tree f g k)) = tree f g (k + j) 0 := by
  induction j generalizing k with
  | zero => exact (Nat.zero_add m).symm ▸ treeReduce_singleton f m _
  | succ j ih =>
    have h := treeLevel_tree f g k (2 ^ j) 0
    rw [Nat.mul_zero, ← Nat.pow_succ'] at h
    rw [Nat.add_right_comm, treeReduce, h, ih, Nat.add_right_comm, Nat.add_assoc]

end

/-- The root over the elements that enter. -/
theorem treeReduce_range (f : Nat → Nat → FResult) (g : Nat → Nat) (j m : Nat) :
    treeReduce f (j + m) ((List.range (2 ^ j)).map fun e => plain (g e)) = tree f g j 0 := by
  have h := treeReduce_tree f g 0 j m
  rw [Nat.zero_add, ← List.range_eq_range'] at h
  exact h

/-! What enters. -/

theorem reduceWidth_cases (t : Fin 8) : reduceWidth t = 32 ∨ reduceWidth t = 16 ∨ reduceWidth t = 8 := by
  unfold reduceWidth
  split <;> simp

theorem signed_bounds {w : Nat} (h0 : 0 < w) (h : w ≤ 32) (v : Nat) :
    -(2 ^ 31 : Int) ≤ signed w v ∧ signed w v < 2 ^ 31 := by
  have hp : 2 ^ w = 2 * 2 ^ (w - 1) := by rw [← Nat.pow_succ', Nat.succ_eq_add_one, Nat.sub_add_cancel h0]
  have hle : 2 ^ (w - 1) ≤ 2 ^ 31 := Nat.pow_le_pow_right (by decide) (by omega)
  have hlt := Nat.mod_lt v (Nat.two_pow_pos w)
  rw [signed]
  split <;> omega

theorem signed_unsignedOf {z : Int} (h : -(2 ^ 31 : Int) ≤ z ∧ z < 2 ^ 31) : signed 32 (unsignedOf 32 z) = z := by
  rw [signed, unsignedOf]
  split <;> omega

/-- An integer of at most 32 bits keeps its value when it is extended to 32 bits. -/
theorem signed_unsignedOf_signed {w : Nat} (h0 : 0 < w) (h : w ≤ 32) (v : Nat) :
    signed 32 (unsignedOf 32 (signed w v)) = signed w v := signed_unsignedOf (signed_bounds h0 h v)

theorem reduceElems_elem (op : ReduceOp) (t : Fin 8) (s : State) (x : VecBits) {e : Nat} (he : e < 4096 / reduceWidth t) :
    (if (lanesAt s).getLsbD (e * reduceWidth t / 32) then
      let v := elemOf x (reduceWidth t) e
      let wide := if reduceFloat t then (if reduceWidth t = 32 then v else widenFp32 (laneFmt t) v)
        else unsignedOf 32 (signed (reduceWidth t) v)
      ({ code := match op with
          | .amax => if reduceFloat t then wide % 2 ^ 31 else (signed 32 wide).natAbs
          | _ => wide } : FResult)
    else { code := reduceIdentity op (reduceFloat t) }) = plain (entering op t s x e) := by
  have hw : 0 < reduceWidth t ∧ reduceWidth t ≤ 32 := by rcases reduceWidth_cases t with h | h | h <;> simp [h]
  simp only [entering, activeElem, decide_eq_true he, Bool.true_and, reduceFloat]
  by_cases hm : (lanesAt s).getLsbD (e * reduceWidth t / 32) = true
  · by_cases hf : t.val < 3
    · cases op <;> simp [hm, hf, plain]
    · cases op with
      | amax => simp [hm, hf, plain, signed_unsignedOf_signed hw.1 hw.2]
      | sum | max | min => simp [hm, hf, plain, unsignedOf_eq]
  · by_cases hf : t.val < 3
    · cases op <;> simp [hm, hf, plain, reduceIdentity] <;> rfl
    · cases op <;> simp [hm, hf, plain, reduceIdentity]

theorem reduceElems_eq (op : ReduceOp) (t : Fin 8) (s : State) (x : VecBits) :
    reduceElems op t (lanesAt s) x = (List.range (4096 / reduceWidth t)).map fun e => plain (entering op t s x e) :=
  List.map_congr_left fun _ he => reduceElems_elem op t s x (List.mem_range.1 he)

theorem two_pow_levels (t : Fin 8) : 4096 / reduceWidth t = 2 ^ levels t := by
  rw [levels]
  rcases reduceWidth_cases t with h | h | h <;> rw [h] <;> rfl

theorem levels_le (t : Fin 8) : levels t ≤ 9 := by
  rw [levels]
  split_ifs <;> decide

/-- The root of the tree over what enters. -/
theorem treeReduce_eq (op : ReduceOp) (t : Fin 8) (s : State) (x : VecBits) :
    treeReduce (reduceStep op (reduceFloat t)) 9 (reduceElems op t (lanesAt s) x) =
      tree (reduceStep op (decide (t.val < 3))) (entering op t s x) (levels t) 0 := by
  have h := treeReduce_range (reduceStep op (reduceFloat t)) (entering op t s x) (levels t) (9 - levels t)
  rwa [Nat.add_sub_cancel' (levels_le t), ← two_pow_levels, ← reduceElems_eq] at h

/-- Each instruction of the list is the reduction by its operation. -/
theorem reductions_exec : ∀ p ∈ reductions, ∀ ty d a s, exec (p.1 ty d a) s = issue (p.1 ty d a) (reduceLanes p.2 ty d a) s := by
  simp only [reductions, List.forall_mem_cons, List.not_mem_nil, false_imp_iff, implies_true, and_true]
  exact ⟨fun _ _ _ _ => rfl, fun _ _ _ _ => rfl, fun _ _ _ _ => rfl, fun _ _ _ _ => rfl⟩

theorem reduceLanes_gives {op : ReduceOp} {ty : Fin 8} {d a : VSpec} {s s1 t : State} {x : Vec} (ha : vsrcBound a s)
    (hd : vdstBound d s) (hx : Gives (readVec a) s x s1)
    (ht : let r := treeReduce (reduceStep op (reduceFloat ty)) 9 (reduceElems op ty (lanesAt s1) x.bits)
      Gives (do
        writeVec d { bits := packElems 32 128 (fun _ => r.code), mark := markAll (decide (x.mark &&& lanesAt s1 ≠ 0)) }
        raiseFlagsN r.flags) s1 () t) : Gives (reduceLanes op ty d a) s .done t := by
  refine gives_bind ha (gives_bind hd (gives_bind hx (gives_bind (activeLanes_gives s1) ?_)))
  have := gives_bind (k := fun _ => pure Flow.done) ht (gives_pure Flow.done t)
  rwa [bind_assoc] at this

/-! The prefixes of R174. -/

theorem prefixes_eq (f : Nat → Nat → FResult) (g : Nat → Nat) (n k : Nat) :
    prefixes f (prefixAt f g k) ((List.range' (k + 1) n).map fun e => plain (g e)) =
      (List.range' k (n + 1)).map (prefixAt f g) := by
  induction n generalizing k with
  | zero => rfl
  | succ n ih =>
    rw [List.range'_succ, List.map_cons, prefixes, List.range'_succ, List.map_cons, ← ih]
    rfl

/-- The prefixes that VSCAN writes. -/
def scanPrefixes (op : ReduceOp) (t : Fin 8) (m : BitVec 128) (x : VecBits) : List FResult :=
  match reduceElems op t m x with
  | e :: rest => prefixes (reduceStep op (reduceFloat t)) e rest
  | [] => []

theorem scanPrefixes_eq (op : ReduceOp) (t : Fin 8) (s : State) (x : VecBits) :
    scanPrefixes op t (lanesAt s) x = (List.range (4096 / reduceWidth t)).map
      (prefixAt (reduceStep op (decide (t.val < 3))) (entering op t s x)) := by
  obtain ⟨n, hn⟩ : ∃ n, 4096 / reduceWidth t = n + 1 :=
    ⟨4096 / reduceWidth t - 1, by rcases reduceWidth_cases t with h | h | h <;> rw [h]⟩
  rw [scanPrefixes, reduceElems_eq, hn, List.range_eq_range', List.range'_succ, List.map_cons]
  exact (prefixes_eq _ _ n 0).trans (by rw [List.range'_succ]; rfl)

/-- A partial result as it is written into element `e` (R246). -/
def scanElem (t : Fin 8) (m : BitVec 128) (e : Nat) (p : FResult) : FResult :=
  if m.getLsbD (e * reduceWidth t / 32) then
    if reduceFloat t && reduceWidth t == 16 then
      let r := (laneFmt t).convert rne false (fp32.decode p.code)
      { code := r.code, flags := p.flags ||| r.flags }
    else { p with code := p.code % 2 ^ reduceWidth t }
  else { code := 0, flags := p.flags }

/-- What VSCAN writes, element by element. -/
def scanOut (op : ReduceOp) (t : Fin 8) (m : BitVec 128) (x : VecBits) : List FResult :=
  (scanPrefixes op t m x).mapIdx (scanElem t m)

theorem scanLanes_gives {op : ReduceOp} {ty : Fin 8} {d a : VSpec} {s s1 t : State} {x : Vec} (ha : vsrcBound a s)
    (hd : vdstBound d s) (hx : Gives (readVec a) s x s1)
    (ht : Gives (do
        writeVec d
          { bits := BitVec.ofNat 4096 (packList (reduceWidth ty) ((scanOut op ty (lanesAt s1) x.bits).map FResult.code))
            mark := marksOf (fun l => decide ((x.mark &&& lanesAt s1).setWidth (l + 1) ≠ 0)) }
        raiseFlagsN ((scanOut op ty (lanesAt s1) x.bits).foldl (fun acc r => acc ||| r.flags) 0)) s1 () t) :
    Gives (scanLanes op ty d a) s .done t := by
  refine gives_bind ha (gives_bind hd (gives_bind hx (gives_bind (activeLanes_gives s1) ?_)))
  have := gives_bind (k := fun _ => pure Flow.done) ht (gives_pure Flow.done t)
  rwa [bind_assoc] at this

section
variable (op : ReduceOp) (t : Fin 8) (s : State) (x : VecBits)

theorem scanOut_length : (scanOut op t (lanesAt s) x).length = 4096 / reduceWidth t := by
  rw [scanOut, List.length_mapIdx, scanPrefixes_eq, List.length_map, List.length_range]

theorem scanOut_elem {e : Nat} (he : e < (scanOut op t (lanesAt s) x).length) : (scanOut op t (lanesAt s) x)[e] =
    scanElem t (lanesAt s) e (prefixAt (reduceStep op (decide (t.val < 3))) (entering op t s x) e) := by
  simp only [scanOut, List.getElem_mapIdx, scanPrefixes_eq, List.getElem_map, List.getElem_range]

/-- The element that VSCAN writes in an active lane. -/
theorem scan_elem {e : Nat} (he : activeElem (reduceWidth t) s e = true) :
    (let p := prefixAt (reduceStep op (decide (t.val < 3))) (entering op t s x) e
     elemOf (BitVec.ofNat 4096 (packList (reduceWidth t) ((scanOut op t (lanesAt s) x).map FResult.code))) (reduceWidth t) e =
       if t.val < 3 ∧ reduceWidth t = 16 then ((laneFmt t).convert rne false (fp32.decode p.code)).code % 2 ^ 16
       else p.code % 2 ^ reduceWidth t) := by
  rw [activeElem, Bool.and_eq_true, decide_eq_true_eq] at he
  have hlen := scanOut_length op t s x
  rw [elemOf_packed _ _ e (by rw [List.length_map, hlen]; exact he.1) (by
    rw [List.length_map, hlen]; exact Nat.mul_div_le _ _), List.getElem_map, scanOut_elem]
  by_cases h : t.val < 3 ∧ reduceWidth t = 16
  · simp only [scanElem, he.2, if_true, reduceFloat, decide_eq_true h.1, beq_iff_eq.2 h.2, Bool.and_self, if_pos h]
    rw [h.2]
  · simp only [scanElem, he.2, if_true, reduceFloat, Bool.and_eq_true, decide_eq_true_eq, beq_iff_eq, if_neg h, Nat.mod_mod]

/-- The flags that VSCAN raises. -/
theorem scan_flags (k : Nat) :
    ((scanOut op t (lanesAt s) x).foldl (fun acc (r : FResult) => acc ||| r.flags) 0).testBit k = true ↔
      ∃ e, e < 4096 / reduceWidth t ∧
        let p := prefixAt (reduceStep op (decide (t.val < 3))) (entering op t s x) e
        (p.flags.testBit k = true ∨ (activeElem (reduceWidth t) s e = true ∧ t.val < 3 ∧ reduceWidth t = 16 ∧
          ((laneFmt t).convert rne false (fp32.decode p.code)).flags.testBit k = true)) := by
  have hflag : ∀ e p, e < 4096 / reduceWidth t → ((scanElem t (lanesAt s) e p).flags.testBit k = true ↔
      p.flags.testBit k = true ∨ (activeElem (reduceWidth t) s e = true ∧ t.val < 3 ∧ reduceWidth t = 16 ∧
        ((laneFmt t).convert rne false (fp32.decode p.code)).flags.testBit k = true)) := by
    intro e p he
    simp only [scanElem, activeElem, decide_eq_true he, Bool.true_and, reduceFloat, Bool.and_eq_true, decide_eq_true_eq,
      beq_iff_eq]
    split_ifs with hm hf
    · rw [Nat.testBit_or, Bool.or_eq_true]
      exact or_congr_right ⟨fun hr => ⟨hm, hf.1, hf.2, hr⟩, fun ⟨_, _, _, hr⟩ => hr⟩
    · simp only [hm, true_and, ← and_assoc, hf, false_and, or_false]
    · simp [hm]
  rw [foldl_or_testBit, Nat.zero_testBit, List.exists_mem_iff_exists_getElem]
  constructor
  · rintro (h | ⟨e, he, h⟩)
    · exact absurd h Bool.false_ne_true
    · have he' := he
      rw [scanOut_length] at he'
      rw [scanOut_elem] at h
      exact ⟨e, he', (hflag e _ he').1 h⟩
  · rintro ⟨e, he, h⟩
    have he' := he
    rw [← scanOut_length op t s x] at he'
    exact .inr ⟨e, he', by rw [scanOut_elem]; exact (hflag e _ he).2 h⟩

end

/-- A mark is carried from the first marked active lane on (R174). -/
theorem marked_upTo (a b : BitVec 128) {l : Nat} (hl : l < 128) : decide ((a &&& b).setWidth (l + 1) ≠ 0) =
    (List.range (l + 1)).any fun k => a.getLsbD k && b.getLsbD k := by
  rw [Bool.eq_iff_iff, decide_eq_true_eq, List.any_eq_true]
  constructor
  · intro h
    by_contra hn
    refine h (BitVec.eq_of_getLsbD_eq fun k hk => ?_)
    rw [BitVec.getLsbD_setWidth, decide_eq_true hk, Bool.true_and, BitVec.getLsbD_and]
    exact (Bool.eq_false_iff.2 fun hb => hn ⟨k, List.mem_range.2 hk, hb⟩).trans BitVec.getLsbD_zero.symm
  · rintro ⟨k, hk, hb⟩ h
    have := congrArg (fun v => v.getLsbD k) h
    simp only [BitVec.getLsbD_setWidth, decide_eq_true (List.mem_range.1 hk), Bool.true_and, BitVec.getLsbD_and, hb] at this
    exact absurd this (by simp)

/-- Settles O6: the levels over the list give the tree's root, and the running prefixes its prefixes. -/
theorem reductionsUseTheFixedTree : Obligations.ReductionsUseTheFixedTree := by
  refine ⟨fun p hp ty d a s s1 x hi ha hd hx => ?_, fun ty d a op s s1 x hi ha hd hx => ?_⟩
  · refine ⟨_, _, fun l hl => lane_packElems _ hl, markAll_marksAre _, fun t ht => ?_⟩
    rw [← treeReduce_eq] at ht
    exact (reductions_exec p hp ty d a s).trans (issue_gives hi (reduceLanes_gives ha hd hx ht))
  · exact ⟨_, _, _, fun e he => scan_elem (scanOp op) ty s1 x.bits he,
      fun l hl => (marksOf_marksAre _ l hl).trans (marked_upTo _ _ hl), scan_flags (scanOp op) ty s1 x.bits,
      fun t ht => issue_gives hi (scanLanes_gives ha hd hx ht)⟩

end Sys2Proof.Machine
end

section
/-! PROOFS. Operands and ports (R142, R149, R162, R231), the checks of every encoding (R167), guards and completion (R194,
R195). -/
namespace Sys2Proof.Machine
open Sys2Proof.Claims

/-! The registers written and pushed. -/

theorem modRegs_gives (f : Regs → Regs) (s : State) :
    Gives (modRegs f) s () { s with cur := { s.cur with regs := f s.cur.regs } } := rfl

theorem readScalar_g_gives (n : Fin 32) (s : State) :
    Gives (readScalar (.g n)) s (if n.val = 0 then { bits := 0 } else s.cur.regs.g[n]) s := rfl

theorem writeScalar_g_gives {n : Fin 32} (h : n.val ≠ 0) (v : Val) (s : State) : Gives (writeScalar (.g n) v) s ()
    { s with cur := { s.cur with regs := { s.cur.regs with g := s.cur.regs.g.set n v } } } := by
  have hw : s.cur.regs.writeG n v = { s.cur.regs with g := s.cur.regs.g.set n v } := if_neg h
  exact hw ▸ modRegs_gives (fun r => r.writeG n v) s

theorem writeScalar_g0_gives (v : Val) (s : State) : Gives (writeScalar (.g 0) v) s () s := rfl

theorem pushQ_newest (r : Regs) (v : Val) : (r.pushQ v).q[0] = v := by simp [Regs.pushQ]

theorem pushQ_older (r : Regs) (v : Val) (k : Fin 15) : (r.pushQ v).q[k.val + 1] = r.q[k.val] := by simp [Regs.pushQ]

theorem pushY_newest (r : Regs) (v : Vec) : (r.pushY v).y[0] = v := by simp [Regs.pushY]

theorem pushY_older (r : Regs) (v : Vec) (k : Fin 7) : (r.pushY v).y[k.val + 1] = r.y[k.val] := by simp [Regs.pushY]

theorem writeVec_v_gives (n : Fin 16) (r : Vec) (s : State) : Gives (writeVec (.v n) r) s ()
    { s with cur := { s.cur with regs :=
      { s.cur.regs with v := s.cur.regs.v.set n (mergeLanes (lanesAt s) r s.cur.regs.v[n]) } } } :=
  gives_bind (activeLanes_gives s) (modRegs_gives _ s)

theorem writeVec_y_gives (a : Fin 8) (r : Vec) (s : State) : Gives (writeVec (.y a) r) s ()
    { s with cur := { s.cur with regs := s.cur.regs.pushY (mergeLanes (lanesAt s) r { bits := 0 }) } } :=
  gives_bind (activeLanes_gives s) (modRegs_gives _ s)

theorem lane_zero (l : Nat) : lane 0 l = 0 := BitVec.extractLsb'_zero

/-- Settles O7: each specifier is one change of the register file. -/
theorem operandsAreReadAndWritten : Obligations.OperandsAreReadAndWritten := by
  refine ⟨⟨readScalar_g_gives, fun _ _ => rfl, writeScalar_g0_gives, fun n v s h => ?_, fun a v s => ?_⟩,
    fun _ _ => rfl, fun _ _ => rfl, fun n r s => ?_, fun a r s => ?_⟩
  · refine ⟨_, writeScalar_g_gives h v s, rfl, rfl, fun k => ?_⟩
    simp only [Fin.getElem_fin, Vector.getElem_set, Fin.ext_iff, eq_comm]
  · exact ⟨_, modRegs_gives (fun r => r.pushQ v) s, rfl, rfl, pushQ_newest _ v, pushQ_older _ v⟩
  · refine ⟨_, writeVec_v_gives n r s, rfl, rfl, fun k hk => ?_, fun l hl => ?_⟩
    · exact Vector.getElem_set_ne n.isLt k.isLt fun h => hk (Fin.ext h.symm)
    · simp only [Fin.getElem_fin, Vector.getElem_set_self, lane_mergeLanes _ _ _ hl]
  · refine ⟨_, writeVec_y_gives a r s, rfl, rfl, pushY_older _ _, fun l hl => ?_⟩
    simp only [pushY_newest, lane_mergeLanes _ _ _ hl]
    rw [lane_zero]

/-! Channels by number, and the contexts woken for them. -/

section
variable {s : State}

theorem chan_id {id : Nat} {ch : Channel} (h : s.chan? id = some ch) : ch.id = id := by
  simpa using List.find?_some h

theorem chan_setChan_same {ch c : Channel} (h : s.chan? c.id = some ch) : (s.setChan c).chan? c.id = some c := by
  rw [State.chan?] at h
  rw [State.chan?, State.setChan, List.find?_map]
  have hp : ((fun x : Channel => x.id == c.id) ∘ fun x => if x.id = c.id then c else x) = fun x => x.id == c.id := by
    funext x
    by_cases hx : x.id = c.id <;> simp [hx]
  rw [hp, h, Option.map_some, if_pos (chan_id (s := s) h)]

theorem chan_setChan_other {c : Channel} {k : Nat} (hk : k ≠ c.id) : (s.setChan c).chan? k = s.chan? k := by
  rw [State.chan?, State.setChan, List.find?_map]
  have hp : ((fun x : Channel => x.id == k) ∘ fun x => if x.id = c.id then c else x) = fun x => x.id == k := by
    funext x
    by_cases hx : x.id = c.id
    · simp [hx]
    · simp [hx]
  rw [hp, State.chan?]
  cases h : s.chans.find? (fun x => x.id == k) with
  | none => rfl
  | some x =>
    have hx : x.id = k := by simpa using List.find?_some h
    rw [Option.map_some, if_neg (hx ▸ hk)]

/-- What waking a context changes in it. -/
theorem wake_eq (c : Context) (n : Nat) : ∃ st, c.wake n = { c with status := st } := by
  rw [Context.wake]
  split
  · exact ⟨_, rfl⟩
  · exact ⟨c.status, rfl⟩

/-- A context as it is after those that satisfy `p` have been woken. -/
def Context.wokenIf (p : Context → Wait → Bool) (n : Nat) (c : Context) : Context :=
  match c.status with
  | .parked w _ => if p c w then c.wake n else c
  | _ => c

theorem wokenIf_eq (p : Context → Wait → Bool) (n : Nat) (c : Context) : ∃ st, c.wokenIf p n = { c with status := st } := by
  rw [Context.wokenIf]
  split
  · split
    · exact wake_eq c n
    · exact ⟨c.status, rfl⟩
  · exact ⟨c.status, rfl⟩

theorem wakeWhere_map (s : State) (p : Context → Wait → Bool) : s.wakeWhere p =
    { s with
      cur := if s.busy then s.cur.wokenIf p s.nextSeq else s.cur
      ctxs := s.ctxs.map (Context.wokenIf p s.nextSeq)
      nextSeq := s.nextSeq + 1 } := rfl

/-- Waking contexts changes their statuses and the stamp alone. -/
theorem wakeWhere_eq (s : State) (p : Context → Wait → Bool) : ∃ st ctxs, s.wakeWhere p =
    { s with cur := { s.cur with status := st }, ctxs := ctxs, nextSeq := s.nextSeq + 1 } := by
  rw [wakeWhere_map]
  split
  · obtain ⟨st, hst⟩ := wokenIf_eq p s.nextSeq s.cur
    exact ⟨st, _, by rw [hst]⟩
  · exact ⟨s.cur.status, _, rfl⟩

theorem releaseSlots_eq (s : State) (k : Key) : ∃ st ctxs n, s.releaseSlots k =
    { s with cur := { s.cur with status := st }, ctxs := ctxs, nextSeq := n } := by
  rw [State.releaseSlots]
  split
  · obtain ⟨st, ctxs, h⟩ := wakeWhere_eq s fun c _ => s.slotFor k c
    exact ⟨st, ctxs, _, h⟩
  · exact ⟨s.cur.status, s.ctxs, s.nextSeq, rfl⟩

theorem completed_eq (s : State) (c : Context) : ∃ ctxs n, s.completed c = { s with cur := c, ctxs := ctxs, nextSeq := n } := by
  obtain ⟨st, ctxs, n, h⟩ := releaseSlots_eq { s with cur := c } c.key
  exact ⟨ctxs, n, by rw [State.completed, h]⟩

end

/-! R142: an item taken, an item put. -/

section
variable {p : Fin 8} {s : State} {e : PortEnd} {ch : Channel}

theorem portChan_gives (h : boundAt s p e ch) : Gives (portChan p) s ch s := by
  obtain ⟨hport, hchan⟩ := h
  have hbody : portChan p s = (match s.cur.ports[p] with
    | none => (raise .illegalOperand : M Channel)
    | some e => match s.chan? e.chan with
      | none => raise .illegalOperand
      | some ch => return ch) s := rfl
  rw [Gives, hbody, hport]
  simp only [hchan]
  rfl

theorem takeItem_gives {x : Vec} {rest : List Vec} (h : boundAt s p e ch) (hitems : ch.items = x :: rest) :
    Gives (takeItem p) s x (s.setChan { ch with items := rest, arrived := ch.arrived - 1, takes := ch.takes + 1 }) := by
  refine gives_bind (portChan_gives h) ?_
  rw [hitems]
  rfl

theorem takeItem_parks (h : boundAt s p e ch) (hitems : ch.items = []) :
    takeItem p s = .error (.park (.channel e.chan)) := by
  refine (bind_of_gives (portChan_gives h) _).trans ?_
  rw [hitems, ← chan_id h.2]
  rfl

/-- The channel with one more item. -/
def Channel.withItem (ch : Channel) (x : Vec) : Channel :=
  { ch with items := ch.items ++ [x], freed := ch.freed - 1, puts := ch.puts + 1 }

theorem putItem_gives {x : Vec} (h : boundAt s p e ch) (hroom : ch.items.length + s.heldItems ch < ch.slots) :
    Gives (putItem p x) s () ((s.setChan (ch.withItem x)).wakeWhere fun c w => c.key == ch.dst && w == .channel ch.id) := by
  refine gives_bind (portChan_gives h) (gives_bind (get_gives s) ?_)
  rw [if_pos hroom]
  rfl

theorem putItem_parks {x : Vec} (h : boundAt s p e ch) (hfull : ch.slots ≤ ch.items.length + s.heldItems ch) :
    putItem p x s = .error (.park (.channel e.chan)) := by
  refine (bind_of_gives (portChan_gives h) _).trans ((bind_of_gives (get_gives s) _).trans ?_)
  rw [if_neg (Nat.not_lt.2 hfull), ← chan_id h.2]
  rfl

theorem onlyChannel_setChan {id : Nat} {c : Channel} (h : s.chan? id = some ch) (hid : c.id = id) :
    OnlyChannel s (s.setChan c) id c := by
  subst hid
  exact ⟨chan_setChan_same h, fun _ hk => chan_setChan_other hk, rfl, rfl, rfl, rfl, rfl, rfl, rfl⟩

theorem OnlyChannel.wakeWhere {t : State} {id : Nat} {c : Channel} (h : OnlyChannel s t id c)
    (q : Context → Wait → Bool) : OnlyChannel s (t.wakeWhere q) id c := by
  obtain ⟨st, ctxs, heq⟩ := wakeWhere_eq t q
  rw [heq]
  exact h

end

/-- A context that waits for a slot of a channel, which is free now, is ready when the receiver's unit is complete. -/
theorem releaseSlots_readies {s : State} {k : Key} {x : Context} {ch : Channel} {n : Nat} (hx : x ∈ s.ctxs)
    (hst : x.status = .parked (.channel ch.id) n) (hch : ch ∈ s.chans) (hsrc : ch.src = x.key) (hdst : ch.dst = k)
    (hroom : ch.items.length + s.heldItems ch < ch.slots) :
    { x with status := .ready s.nextSeq } ∈ (s.releaseSlots k).ctxs := by
  have hslot : s.slotFor k x = true := by
    rw [State.slotFor, hst]
    exact List.any_eq_true.2 ⟨ch, hch, by simp [hsrc, hdst, hroom]⟩
  have hany : s.allCtxs.any (s.slotFor k) = true :=
    List.any_eq_true.2 ⟨x, List.mem_append_right _ hx, hslot⟩
  rw [State.releaseSlots, if_pos hany]
  refine List.mem_map.2 ⟨x, hx, ?_⟩
  simp only [hst, hslot, if_true, Context.wake]

/-- Settles O8. -/
theorem portsTakeAndPutItems : Obligations.PortsTakeAndPutItems := by
  refine ⟨fun p s e ch x rest h hi => ?_, fun p s e ch h hi => takeItem_parks h hi, fun p s e ch x h hroom => ?_,
    fun p s e ch x h hfull => putItem_parks h hfull, fun len n c x ch s hx hst hch hsrc hdst hroom => ?_⟩
  · have hid : ch.id = e.chan := chan_id h.2
    exact ⟨_, takeItem_gives h hi, onlyChannel_setChan h.2 hid⟩
  · have hid : ch.id = e.chan := chan_id h.2
    exact ⟨_, putItem_gives h hroom, OnlyChannel.wakeWhere (onlyChannel_setChan (c := ch.withItem x) h.2 hid) _⟩
  · exact ⟨_, releaseSlots_readies (s := { s with cur := s.cur.finish len }) hx hst hch hsrc hdst hroom, rfl, _, rfl⟩

/-! R167: the checks come first, and then the guard. -/

/-- The effect of an instruction that is neither an event nor a transfer. -/
theorem exec_isIssue (i : Instr) (he : i.isEvent = false) (ht : i.isTransfer = false) :
    ∃ body, ∀ s, exec i s = issue i body s := by
  cases i with
  | jmp | brT | brF | call | bdec => nomatch ht
  | legacyCopy | legacyFill | legacyLaunch | homeJoin | homeFill | homeFreeze | thresholdTest | homeStore | homeLoad
  | homeExactRead | ackArrival | wakeResult | replicaTest | gatewayResponsePass | gatewayInvalidation | routerForward
  | combinedJoinDepart | heldJoinTimeout | flitReceive | linkDown | copyCommandStart | copyUnitPerformed
  | matrixCommandStart | matrixCommandComplete | lampStep | sparkArrival | tlbinvComplete | coreDispatch
  | highPriorityStart | handlerOverrun | timeSliceExpiry | gleanPass | gleanProbe | gleanedRecordArrival
  | dequeRecordArrival | inboxRecordArrival | crewStart | crewDeadlock | preemption | mmaPreemptBound | faultStop
  | faultRecordWrite | faultQueueFullSignal | resumeRecord | vectorRetention | nodeTaskset | nodeCrew | nodeCopy
  | nodeCond | nodeWhile | nodeFreeze | nodeFallow | nodeWaitcell | nodeNotify | nodeEnd | nodeComplete
  | graphComplete | graphStallFail | doorbell | launchRecord | launchGraph | launchImageLoad | bootTextReceive
  | imageLoadComplete | queueSuspend | queueResume | teardown | registerWrite | offlineRequest | offlineForced
  | offlineComplete | hostWriteHalf | hostRead | accessCounterHalving | ageingCheck | mgmtReadLogs | deviceReset
  | fenceBaseDie | quadTakeOut | quadReturn | coreRelease | standbyTakeOver | standbyStandDown | standbySelfFence
  | setPackageId | firmwareUpdate | spdmMeasurement | sensorRead | dieEdgeFailure | watchdogTick | uncorrectableError
  | thermalThrottle | thermalTrip | linkTrained => nomatch he
  | _ => exact ⟨_, fun _ => rfl⟩

theorem exec_isIssueTransfer (i : Instr) (ht : i.isTransfer = true) : ∃ body, ∀ s, exec i s = issueTransfer i body s := by
  cases i with
  | jmp | brT | brF | call | bdec => exact ⟨_, fun _ => rfl⟩
  | _ => nomatch ht

section
variable {i : Instr} {s : State}

theorem faults_of_stepChecks {code : FaultCode} (he : i.isEvent = false) (hbusy : s.busy = true)
    (hcode : stepChecks i true s.cur = some code) : Faults i s { code := code } := by
  cases ht : i.isTransfer with
  | false =>
    obtain ⟨body, hbody⟩ := exec_isIssue i he ht
    rw [Faults, hbody, issue, hbusy, hcode]
    rfl
  | true =>
    obtain ⟨body, hbody⟩ := exec_isIssueTransfer i ht
    rw [Faults, hbody, issueTransfer, hbusy, hcode]
    rfl

theorem stepChecks_slotH (hh : s.cur.slot = some .h) (hi : i.slotHIllegal = true) :
    stepChecks i true s.cur = some .illegalInstruction := by
  simp [stepChecks, Context.inH, hh, hi]

theorem stepChecks_privilege (hu : s.cur.unit = none) (hp : i.isPrivileged = true) (hh : i.slotHIllegal = false)
    (hsys : s.cur.sys = false) : stepChecks i true s.cur = some .privilege := by
  simp [stepChecks, hu, hp, hh, hsys]

theorem stepChecks_operand (hu : s.cur.unit = none) (hp : i.isPrivileged = false) (hh : s.cur.slot ≠ some .h)
    (hwf : i.wf = false) : stepChecks i true s.cur = some .illegalOperand := by
  simp [stepChecks, hu, hp, hh, hwf, Context.inH]

theorem isTransfer_of_blocksInHandler (h : i.blocksInHandler = true) : i.isTransfer = false := by
  cases i with
  | jmp | brT | brF | call | bdec => nomatch h
  | _ => rfl

theorem faults_of_blocking (he : i.isEvent = false) (hbusy : s.busy = true) (hok : stepChecks i true s.cur = none)
    (hon : s.cur.guardedOff = false) (hh : s.cur.slot = some .h) (hb : i.blocksInHandler = true) :
    Faults i s { code := .blockingInHandler } := by
  obtain ⟨body, hbody⟩ := exec_isIssue i he (isTransfer_of_blocksInHandler hb)
  rw [Faults, hbody]
  simp [issue, hbusy, hok, hon, Context.inH, hh, hb]

theorem faults_of_rounding (he : i.isEvent = false) (ht : i.isTransfer = false) (hbusy : s.busy = true)
    (hok : stepChecks i true s.cur = none) (hon : s.cur.guardedOff = false)
    (hb : s.cur.slot = some .h → i.blocksInHandler = false) (hr : i.roundsByMode = true) (hrm : 6 ≤ wbits s.cur.regs.mode 1 3) :
    Faults i s { code := .illegalOperand } := by
  obtain ⟨body, hbody⟩ := exec_isIssue i he ht
  have hblock : (s.cur.inH && i.blocksInHandler) = false := by
    cases hh : s.cur.inH with
    | false => rfl
    | true => exact hb (by simpa [Context.inH] using hh)
  have hbad : s.cur.badRounding i = true := by
    rw [Context.badRounding, hr, Bool.true_and]
    exact decide_eq_true hrm
  rw [Faults, hbody]
  simp [issue, hbusy, hok, hon, hblock, hbad]

theorem completes_of_guardedOff (he : i.isEvent = false) (ht : i.isTransfer = false) (hbusy : s.busy = true)
    (hok : stepChecks i true s.cur = none) (hoff : s.cur.guardedOff = true) :
    Completes i s { s with cur := pushZeros i.dests s.cur } := by
  obtain ⟨body, hbody⟩ := exec_isIssue i he ht
  rw [Completes, Ends, hbody]
  simp [issue, hbusy, hok, hoff]

end

theorem pushZeros_of_no_queue {ds : List Dest} (c : Context)
    (h : ∀ d ∈ ds, (∀ a, d ≠ .scalar (.q a)) ∧ (∀ a, d ≠ .vector (.y a))) : pushZeros ds c = c := by
  induction ds with
  | nil => rfl
  | cons d ds ih =>
    have hd := h d (List.mem_cons_self ..)
    have hrest : pushZeros ds c = c := ih fun d' hd' => h d' (List.mem_cons_of_mem _ hd')
    rw [pushZeros, List.foldl_cons]
    split
    · exact absurd rfl (hd.1 _)
    · exact absurd rfl (hd.2 _)
    · exact hrest

/-- Settles O9. -/
theorem checksAndGuardsComeFirst : Obligations.ChecksAndGuardsComeFirst := by
  refine ⟨⟨fun i s code he hb hc => faults_of_stepChecks he hb hc,
      fun i s he hb hh hi => faults_of_stepChecks he hb (stepChecks_slotH hh hi),
      fun i s he hb hu hp hi hs => faults_of_stepChecks he hb (stepChecks_privilege hu hp hi hs),
      fun i s he hb hu hp hh hw => faults_of_stepChecks he hb (stepChecks_operand hu hp hh hw),
      fun i s he hb hok hon hh hbl => faults_of_blocking he hb hok hon hh hbl,
      fun i s he ht hb hok hon hh hr hrm => faults_of_rounding he ht hb hok hon hh hr hrm⟩,
    fun i s he ht hb hok hoff => ⟨completes_of_guardedOff he ht hb hok hoff, pushZeros_of_no_queue s.cur,
      fun hd => ?_, fun hd => ?_⟩⟩
  · rw [hd]
    rfl
  · rw [hd]
    rfl

/-! R48, R194 to R196, R291: completion, and the guards. -/

theorem settle_done_eq (len : Nat) (c : Context) (t : State) : ∃ ctxs n, settle len c .done t =
    { t with cur := t.cur.finish len, ctxs := ctxs, nextSeq := n } := completed_eq t (t.cur.finish len)

theorem readG_bits (r : Regs) (n : Fin 32) : (r.readG n).bits = if n.val = 0 then 0 else r.g[n].bits := by
  rw [Regs.readG]
  split <;> rfl

/-- Settles O10. -/
theorem guardsCompleteAndCompletionAdvances : Obligations.GuardsCompleteAndCompletionAdvances := by
  refine ⟨fun len c t => ?_, fun sense bit n s hi => ?_, fun sense bit n s hi => ?_,
    fun s hi => issue_gives hi (gives_pure _ s), fun s hi => issue_gives hi (gives_pure _ s)⟩
  · obtain ⟨ctxs, n, h⟩ := settle_done_eq len c t
    rw [h]
    exact ⟨rfl, rfl, rfl, rfl, rfl, rfl, rfl, rfl, rfl, rfl, rfl, rfl, rfl⟩
  · refine ⟨_, issue_gives hi (gives_bind (cur_gives s) (gives_pure _ s)), rfl, ?_, rfl⟩
    rw [← readG_bits]
    rfl
  · exact ⟨_, _, issue_gives hi (gives_bind (cur_gives s) (gives_pure _ s)), rfl, rfl,
      fun l hl => getLsbD_packList_one (fun l => (lane _ l).getLsbD bit.val == sense) hl, rfl⟩

end Sys2Proof.Machine
end

section
/-! PROOFS. The prepares (R198 to R202) and the transfers through a prepared register (R203 to R205). -/
namespace Sys2Proof.Machine
open Sys2Proof.Claims

/-! R198 to R202: a prepare completes, holding its cause. -/

section
variable {n : Fin 8} {imm : BitVec 19} {s s1 s2 : State} {addr x y : Word} {a b : Scalar} {cause : Option Cause} {hdr : Nat}

theorem setTarget_gives (n : Fin 8) (t : Target) (s : State) : Gives (setTarget n t) s () (withTarget s n t) := rfl

theorem prepareTarget_gives (h : Gives (checked s addr) s cause s1) :
    Gives (prepareTarget n addr none) s () (withTarget s1 n (prepared addr cause)) :=
  gives_bind (cur_gives s) (gives_bind h (setTarget_gives n _ s1))

/-- With a cause met before the target is looked at. -/
theorem prepareTarget_some_gives (n : Fin 8) (addr : Word) (c : Cause) (s : State) :
    Gives (prepareTarget n addr (some c)) s () (withTarget s n (prepared addr (some c))) := rfl

theorem prep_completes (hi : issues (.prep n imm) s = true)
    (h : Gives (checked s (s.cur.regs.pc.setWidth 64 + 2 * imm.signExtend 64)) s cause s1) :
    Completes (.prep n imm) s (withTarget s1 n (prepared (s.cur.regs.pc.setWidth 64 + 2 * imm.signExtend 64) cause)) :=
  issue_gives hi (gives_bind (cur_gives s) (gives_bind (prepareTarget_gives h) (gives_pure _ _)))

theorem prepr_completes (hi : issues (.prepr n a) s = true) (ha : srcBound a s) (hx : Gives (readClean a) s x s1)
    (h : Gives (checked s1 x) s1 cause s2) : Completes (.prepr n a) s (withTarget s2 n (prepared x cause)) :=
  issue_gives hi (gives_bind ha (gives_bind hx (gives_bind (prepareTarget_gives h) (gives_pure _ _))))

theorem prepx_completes {t u : State} {z : Word} {met : Option Cause} (hi : issues (.prepx n a b) s = true)
    (ha : srcBound a s) (hb : srcBound b s) (hx : Gives (readClean a) s x s1) (hy : Gives (readClean b) s1 y s2)
    (hz : Gives (jumpTable x y) s2 (z, met) t) (h : Gives (prepareTarget n z met) t () u) : Completes (.prepx n a b) s u :=
  issue_gives hi (gives_bind ha (gives_bind hb (gives_bind hx (gives_bind hy (gives_bind hz
    (gives_bind h (gives_pure _ _)))))))

theorem jumpTable_entry {off : Nat} (hh : Gives (codeRead x 8) s (some hdr) s1) (hlt : y.toNat < hdr % 2 ^ 32)
    (ho : Gives (codeRead (x + 8 + 4 * y) 4) s1 (some off) s2) :
    Gives (jumpTable x y) s (x + 2 * (BitVec.ofNat 32 off).signExtend 64, none) s2 := by
  refine gives_bind hh ?_
  dsimp only
  rw [if_pos hlt]
  exact gives_bind ho (gives_pure _ _)

theorem jumpTable_default (hh : Gives (codeRead x 8) s (some hdr) s1) (hge : hdr % 2 ^ 32 ≤ y.toNat) :
    Gives (jumpTable x y) s (x + 2 * (BitVec.ofNat 32 (hdr / 2 ^ 32)).signExtend 64, none) s1 := by
  refine gives_bind hh ?_
  dsimp only
  rw [if_neg (Nat.not_lt.2 hge)]
  exact gives_pure _ _

theorem jumpTable_noHeader (hh : Gives (codeRead x 8) s none s1) :
    Gives (jumpTable x y) s (x, some .tableRead) s1 := gives_bind hh (gives_pure _ _)

theorem jumpTable_noEntry (hh : Gives (codeRead x 8) s (some hdr) s1) (hlt : y.toNat < hdr % 2 ^ 32)
    (ho : Gives (codeRead (x + 8 + 4 * y) 4) s1 none s2) :
    Gives (jumpTable x y) s (x + 8 + 4 * y, some .tableRead) s2 := by
  refine gives_bind hh ?_
  dsimp only
  rw [if_pos hlt]
  exact gives_bind ho (gives_pure _ _)

end

/-- Settles O11: what the table gives is prepared, with the cause it met. -/
theorem preparesHoldTheirCauses : Obligations.PreparesHoldTheirCauses :=
  ⟨fun _ _ _ _ _ hi h => prep_completes hi h,
    fun _ _ _ _ _ _ _ hi ha hx h => prepr_completes hi ha hx h,
    fun _ _ _ _ _ _ _ _ _ _ _ _ _ _ hi ha hb hx hy hh hlt ho h =>
      prepx_completes hi ha hb hx hy (jumpTable_entry hh hlt ho) (prepareTarget_gives h),
    fun _ _ _ _ _ _ _ _ _ _ _ _ hi ha hb hx hy hh hge h =>
      prepx_completes hi ha hb hx hy (jumpTable_default hh hge) (prepareTarget_gives h),
    fun _ _ _ _ _ _ _ _ _ hi ha hb hx hy hh =>
      prepx_completes hi ha hb hx hy (jumpTable_noHeader hh) (prepareTarget_some_gives _ _ _ _),
    fun _ _ _ _ _ _ _ _ _ _ _ hi ha hb hx hy hh hlt ho =>
      prepx_completes hi ha hb hx hy (jumpTable_noEntry hh hlt ho) (prepareTarget_some_gives _ _ _ _),
    fun n l s hi => issue_gives hi (gives_bind (cur_gives s) (gives_bind (setTarget_gives n s.cur.regs.b[l] s) (gives_pure _ _)))⟩

/-! R203 to R205: the transfers. -/

section
variable {n : Fin 8} {t : Target} {s s1 s2 s3 s4 : State} {len : Nat} {i : Instr}

/-- The target of a transfer is looked at. -/
theorem checkTarget_gives (h : Proceeds n t s s1) : Gives (checkTarget n t) s () s1 := by
  obtain ⟨hmarks, h⟩ := h
  refine gives_bind (get_gives s) (gives_bind (check_of_true (decide_eq_true hmarks) _ _ s) ?_)
  rcases h with ⟨hsub, rfl⟩ | ⟨hsub, c, u, hc, hcause, rfl⟩
  · rw [if_pos hsub]
    exact gives_pure _ _
  · rw [if_neg (hsub ▸ by decide), if_pos hsub]
    refine gives_bind hc ?_
    rcases hcause with rfl | rfl | rfl <;> exact setTarget_gives _ _ _

theorem checkTarget_marked (h : t.marks ≠ 0) : checkTarget n t s = .error (.fault { code := .poison }) := by
  refine (bind_of_gives (get_gives s) _).trans ?_
  exact bind_of_error (check_of_false (decide_eq_false h) _ _ s) _

theorem checkTarget_held (h : StillHeld s t) : checkTarget n t s = .error (.fault (s.heldFault s.cur t)) := by
  obtain ⟨hmarks, hsub, h⟩ := h
  refine (bind_of_gives (get_gives s) _).trans ((bind_of_gives (check_of_true (decide_eq_true hmarks) _ _ s) _).trans ?_)
  rw [if_neg hsub]
  by_cases hnc : t.sub = Cause.notCode.sub
  · obtain ⟨c, u, hc, hp, he⟩ := h.resolve_left (not_not_intro hnc)
    rw [if_pos hnc]
    refine (bind_of_gives hc _).trans ?_
    cases c with
    | fetchPoison => exact absurd rfl hp
    | fetchError => exact absurd rfl he
    | _ => rfl
  · rw [if_neg hnc]
    rfl

theorem heldFault_code (s : State) (c : Context) (t : Target) : (s.heldFault c t).code = .targetFault ∧
    (s.heldFault c t).addr = t.addr.setWidth 64 ∧ (s.heldFault c t).sub = t.sub := by
  rw [State.heldFault]
  split_ifs <;> exact ⟨rfl, rfl, rfl⟩

/-- The return register, where the transfer is a CALL. -/
def linkTo (link : Option (Fin 8)) (addr : Word) : M Unit :=
  match link with
  | some l => prepareTarget l addr none
  | none => pure ()

/-- The check of the target of a transfer that is taken. -/
def checkIf (taken : Bool) (n : Fin 8) (t : Target) : M Unit := if taken then checkTarget n t else pure ()

theorem checkIf_gives {taken : Bool} (h : ProceedsIf taken n t s s1) : Gives (checkIf taken n t) s () s1 := by
  cases taken with
  | true => exact checkTarget_gives (h.1 rfl)
  | false => exact h.2 rfl ▸ gives_pure _ _

/-- The transfer once its slot is checked. -/
def afterSlotOf (n : Fin 8) (t : Target) (next : CodeAddr) (cond : M (Bool × List (Nat × Vec))) (link : Option (Fin 8)) :
    M Flow := do
  let x ← cond
  checkIf x.1 n t
  linkTo link (next.setWidth 64)
  return .transfer (if x.1 then t.addr else next) x.1 x.2

/-- A transfer that is on, through a register that is prepared, is what follows its slot. -/
theorem transfer_on {cond : M (Bool × List (Nat × Vec))} {link : Option (Fin 8)} (hon : s.cur.guardedOff = false)
    (hprep : s.cur.regs.b[n].prepared = true) (hslot : Gives delaySlot s len s1) :
    transfer n cond link s = afterSlotOf n s.cur.regs.b[n] (afterSlot s len) cond link s1 := by
  refine (bind_of_gives (cur_gives s) _).trans ((bind_of_gives (check_of_true (by rw [hon, hprep]; rfl) _ _ s) _).trans
    ((bind_of_gives hslot _).trans ?_))
  rw [hon]
  cases hc : cond s1 with
  | error e => exact (bind_of_error hc _).trans (bind_of_error hc _).symm
  | ok r =>
    obtain ⟨⟨taken, items⟩, s2⟩ := r
    refine (bind_of_gives hc _).trans (Eq.trans ?_ (bind_of_gives hc _).symm)
    cases taken <;> cases link <;> rfl

theorem afterSlotOf_gives {cond : M (Bool × List (Nat × Vec))} {link : Option (Fin 8)} {next : CodeAddr} {taken : Bool}
    {items : List (Nat × Vec)} (hc : Gives cond s (taken, items) s1) (ht : ProceedsIf taken n t s1 s2)
    (hl : Gives (linkTo link (next.setWidth 64)) s2 () s3) :
    Gives (afterSlotOf n t next cond link) s (.transfer (if taken then t.addr else next) taken items) s3 :=
  gives_bind hc (gives_bind (checkIf_gives ht) (gives_bind hl (gives_pure _ _)))

theorem afterSlotOf_refused {cond : M (Bool × List (Nat × Vec))} {link : Option (Fin 8)} {next : CodeAddr}
    {items : List (Nat × Vec)} {e : Stop} (hc : Gives cond s (true, items) s1) (ht : checkTarget n t s1 = .error e) :
    afterSlotOf n t next cond link s = .error e := by
  refine (bind_of_gives hc _).trans (bind_of_error ?_ _)
  exact ht

/-! Each of the five transfers. -/

/-- The condition of a transfer. -/
def condOf : Instr → M (Bool × List (Nat × Vec))
  | .brT _ g bit => branchBit g bit true
  | .brF _ g bit => branchBit g bit false
  | .bdec _ g => do
    let x ← readClean g
    let y := x - 1
    writeScalar g { bits := y }
    return (decide (y ≠ 0), [])
  | _ => pure (true, [])

/-- Its return register. -/
def linkOf : Instr → Option (Fin 8)
  | .call _ l => some l
  | _ => none

theorem checkCondition_gives {g : Scalar} (h : s.cur.guardedOff = true ∨ srcBound g s) : Gives (checkCondition g) s () s := by
  refine gives_bind (cur_gives s) ?_
  split
  case isTrue => exact gives_pure _ _
  case isFalse hoff => exact h.resolve_left hoff

theorem issueTransfer_congr {body body' : M Flow} (h : body s = body' s) : issueTransfer i body s = issueTransfer i body' s := by
  simp only [issueTransfer, runBody, h]

/-- A transfer whose condition can be read is issued as `transfer`. -/
theorem exec_transfer (hi : TransferThrough i n) (hb : s.cur.guardedOff = true ∨ ConditionBound i s) :
    exec i s = issueTransfer i (transfer n (condOf i) (linkOf i)) s := by
  rcases hi with rfl | ⟨l, rfl⟩ | ⟨g, bit, rfl⟩ | ⟨g, bit, rfl⟩ | ⟨g, rfl⟩
  · rfl
  · rfl
  · have hc : Gives (checkCondition g) s () s := checkCondition_gives (hb.imp_right fun h => h n g bit (.inl rfl))
    exact issueTransfer_congr (bind_of_gives hc _)
  · have hc : Gives (checkCondition g) s () s := checkCondition_gives (hb.imp_right fun h => h n g bit (.inr rfl))
    exact issueTransfer_congr (bind_of_gives hc _)
  · rfl

/-- A transfer that is on and proceeds. -/
theorem transfer_ends {taken : Bool} {items : List (Nat × Vec)} (hi : TransferThrough i n) (hb : ConditionBound i s)
    (hon : TransferOn i n s s1 len) (hc : Gives (condOf i) s1 (taken, items) s2)
    (ht : ProceedsIf taken n s.cur.regs.b[n] s2 s3) (hl : Gives (linkTo (linkOf i) ((afterSlot s len).setWidth 64)) s3 () s4) :
    Ends i s (.transfer (if taken then s.cur.regs.b[n].addr else afterSlot s len) taken items) s4 := by
  obtain ⟨hbusy, hok, hoff, hprep, hslot⟩ := hon
  rw [Ends, exec_transfer hi (.inr hb)]
  exact issueTransfer_gives hbusy hok ((transfer_on hoff hprep hslot).trans (afterSlotOf_gives hc ht hl))

theorem faults_of_transfer {f : FaultInfo} (hi : TransferThrough i n) (hb : s.cur.guardedOff = true ∨ ConditionBound i s)
    (hbusy : s.busy = true) (hok : stepChecks i true s.cur = none)
    (h : transfer n (condOf i) (linkOf i) s = .error (.fault f)) : Faults i s f := by
  rw [Faults, exec_transfer hi hb]
  simp [issueTransfer, runBody, hbusy, hok, h]

/-- A taken transfer whose target is refused. -/
theorem transfer_refused {items : List (Nat × Vec)} (hi : TransferThrough i n) (hb : ConditionBound i s)
    (hon : TransferOn i n s s1 len) (hc : Gives (condOf i) s1 (true, items) s2) : TargetRefused i s s2 s.cur.regs.b[n] := by
  obtain ⟨hbusy, hok, hoff, hprep, hslot⟩ := hon
  have hf {f : FaultInfo} (ht : checkTarget n s.cur.regs.b[n] s2 = .error (.fault f)) : Faults i s f :=
    faults_of_transfer hi (.inr hb) hbusy hok ((transfer_on hoff hprep hslot).trans (afterSlotOf_refused hc ht))
  exact ⟨fun hm => hf (checkTarget_marked hm), fun hh => ⟨_, hf (checkTarget_held hh), heldFault_code _ _ _⟩⟩

theorem transfer_unprepared (hi : TransferThrough i n) (hb : ConditionBound i s) (hbusy : s.busy = true)
    (hok : stepChecks i true s.cur = none) (hoff : s.cur.guardedOff = false) (hprep : s.cur.regs.b[n].prepared = false) :
    Faults i s { code := .unpreparedTransfer } := by
  refine faults_of_transfer hi (.inr hb) hbusy hok ?_
  refine (bind_of_gives (cur_gives s) _).trans (bind_of_error (check_of_false ?_ _ _ s) _)
  rw [hoff, hprep]
  rfl

theorem transfer_off (hi : TransferThrough i n) (hbusy : s.busy = true) (hok : stepChecks i true s.cur = none)
    (hoff : s.cur.guardedOff = true) (hslot : Gives delaySlot s len s1) :
    Ends i s (.transfer (afterSlot s len) false []) s1 := by
  rw [Ends, exec_transfer hi (.inl hoff)]
  refine issueTransfer_gives hbusy hok (gives_bind (cur_gives s) (gives_bind (check_of_true (by rw [hoff]; rfl) _ _ s)
    (gives_bind hslot ?_)))
  rw [hoff]
  exact gives_pure _ _

theorem delaySlot_refused {bytes : List Byte}
    (hf : Gives (fetchBytes s.cur.core s.cur.asid s.cur.sys (s.cur.regs.pc + 4).toNat) s (.ok bytes) s1)
    (hic : (s.core s.cur.core).icErrors.contains (s.cur.asid, (s.cur.regs.pc + 4).toNat) = false)
    (hr : slotRefused bytes = true) :
    delaySlot s = .error (.fault { code := .transferInSlot, addr := (s.cur.regs.pc + 4).setWidth 64 }) := by
  refine (bind_of_gives (get_gives s) _).trans ((bind_of_gives hf _).trans ?_)
  dsimp only
  rw [hic]
  exact bind_of_error (check_of_false (by rw [hr]; rfl) _ _ s1) _

theorem transfer_inSlot {bytes : List Byte} (hi : TransferThrough i n) (hbusy : s.busy = true)
    (hok : stepChecks i true s.cur = none)
    (hon : s.cur.guardedOff = true ∨ (ConditionBound i s ∧ s.cur.regs.b[n].prepared = true))
    (hf : Gives (fetchBytes s.cur.core s.cur.asid s.cur.sys (s.cur.regs.pc + 4).toNat) s (.ok bytes) s1)
    (hic : (s.core s.cur.core).icErrors.contains (s.cur.asid, (s.cur.regs.pc + 4).toNat) = false)
    (hr : slotRefused bytes = true) : Faults i s { code := .transferInSlot, addr := (s.cur.regs.pc + 4).setWidth 64 } := by
  refine faults_of_transfer hi (hon.imp_right And.left) hbusy hok ?_
  refine (bind_of_gives (cur_gives s) _).trans ((bind_of_gives (check_of_true ?_ _ _ s) _).trans
    (bind_of_error (delaySlot_refused hf hic hr) _))
  rcases hon with hoff | ⟨-, hprep⟩
  · rw [hoff]
    rfl
  · rw [hprep, Bool.or_true]

/-! What the conditions give. -/

theorem branchBit_gives {g : Scalar} {x : Word} (bit : Fin 64) (sense : Bool) (hg : g.isPort = false)
    (hx : Gives (readClean g) s x s1) : Gives (branchBit g bit sense) s (x.getLsbD bit.val == sense, []) s1 := by
  cases g with
  | c p => nomatch hg
  | g _ | q _ | rsv _ => exact gives_bind hx (gives_pure _ _)

theorem branchBit_port_gives {p : Fin 8} {e : PortEnd} {ch : Channel} {x : Vec} (bit : Fin 64) (sense : Bool)
    (hch : boundAt s p e ch) (hx : Gives (takeItem p) s x s1) (hm : x.toVal.mark = false) :
    Gives (branchBit (.c p) bit sense) s (x.toVal.bits.getLsbD bit.val == sense, [(ch.id, x)]) s1 :=
  gives_bind (portChan_gives hch) (gives_bind hx (gives_bind (useClean_gives hm s1) (gives_pure _ _)))

theorem sub_one_ne_zero_iff (x : Word) : decide (x - 1 ≠ 0) = decide (x ≠ 1) :=
  decide_eq_decide.2 (not_congr sub_eq_zero)

/-- The state after BDEC's counter has been lowered. -/
def counted (s : State) (k : Fin 32) : State :=
  { s with cur := { s.cur with regs := s.cur.regs.writeG k { bits := (s.cur.regs.readG k).bits - 1 } } }

theorem bdec_condition_gives (k : Fin 32) (hm : (s.cur.regs.readG k).mark = false) :
    Gives (condOf (.bdec n (.g k))) s (decide ((s.cur.regs.readG k).bits ≠ 1), []) (counted s k) := by
  have hread : Gives (readClean (.g k)) s (s.cur.regs.readG k).bits s :=
    gives_bind (readScalar_g_gives k s) (useClean_gives hm s)
  have hwrite : Gives (writeScalar (.g k) { bits := (s.cur.regs.readG k).bits - 1 }) s () (counted s k) := rfl
  rw [← sub_one_ne_zero_iff]
  exact gives_bind hread (gives_bind hwrite (gives_pure _ _))

/-! A branch is taken where its bit has the sense. -/

theorem conditionBound_of_not_branch (h : ∀ n g bit, i ≠ .brT n g bit ∧ i ≠ .brF n g bit) : ConditionBound i s :=
  fun n g bit hi => absurd hi (not_or.2 (h n g bit))

theorem srcBound_of_not_port {g : Scalar} (h : g.isPort = false) (s : State) : srcBound g s := by
  cases g with
  | c p => nomatch h
  | g _ | q _ | rsv _ => exact gives_pure _ _

theorem conditionBound_brT {g : Scalar} {bit : Fin 64} (h : srcBound g s) : ConditionBound (.brT n g bit) s := by
  rintro m g' b' (heq | heq)
  · cases heq
    exact h
  · nomatch heq

theorem conditionBound_brF {g : Scalar} {bit : Fin 64} (h : srcBound g s) : ConditionBound (.brF n g bit) s := by
  rintro m g' b' (heq | heq)
  · nomatch heq
  · cases heq
    exact h

theorem brT_ends {g : Scalar} {bit : Fin 64} {b : Bool} {items : List (Nat × Vec)} (hg : srcBound g s)
    (hon : TransferOn (.brT n g bit) n s s1 len) (hc : Gives (branchBit g bit true) s1 (b == true, items) s2)
    (ht : ProceedsIf b n s.cur.regs.b[n] s2 s3) :
    Ends (.brT n g bit) s (.transfer (if b then s.cur.regs.b[n].addr else afterSlot s len) b items) s3 := by
  rw [beq_true] at hc
  exact transfer_ends (.inr (.inr (.inl ⟨g, bit, rfl⟩))) (conditionBound_brT hg) hon hc ht (gives_pure _ _)

theorem brF_ends {g : Scalar} {bit : Fin 64} {b : Bool} {items : List (Nat × Vec)} (hg : srcBound g s)
    (hon : TransferOn (.brF n g bit) n s s1 len) (hc : Gives (branchBit g bit false) s1 (b == false, items) s2)
    (ht : ProceedsIf (!b) n s.cur.regs.b[n] s2 s3) :
    Ends (.brF n g bit) s (.transfer (if b then afterSlot s len else s.cur.regs.b[n].addr) (!b) items) s3 := by
  rw [beq_false] at hc
  have h := transfer_ends (.inr (.inr (.inr (.inl ⟨g, bit, rfl⟩)))) (conditionBound_brF hg) hon hc ht (gives_pure _ _)
  cases b <;> exact h

theorem bdec_ends {k : Fin 32} (hon : TransferOn (.bdec n (.g k)) n s s1 len) (hm : (s1.cur.regs.readG k).mark = false)
    (ht : ProceedsIf (decide ((s1.cur.regs.readG k).bits ≠ 1)) n s.cur.regs.b[n] (counted s1 k) s2) :
    Ends (.bdec n (.g k)) s (.transfer (if (s1.cur.regs.readG k).bits = 1 then afterSlot s len else s.cur.regs.b[n].addr)
      (decide ((s1.cur.regs.readG k).bits ≠ 1)) []) s2 := by
  have h := transfer_ends (.inr (.inr (.inr (.inr ⟨_, rfl⟩)))) (conditionBound_of_not_branch fun _ _ _ => ⟨nofun, nofun⟩)
    hon (bdec_condition_gives k hm) ht (gives_pure _ _)
  by_cases hx : (s1.cur.regs.readG k).bits = 1
  · simpa [hx] using h
  · simpa [hx] using h

theorem jmp_ends (hon : TransferOn (.jmp n) n s s1 len) (ht : Proceeds n s.cur.regs.b[n] s1 s2) :
    Ends (.jmp n) s (.transfer s.cur.regs.b[n].addr true []) s2 :=
  transfer_ends (.inl rfl) (conditionBound_of_not_branch fun _ _ _ => ⟨nofun, nofun⟩) hon (gives_pure _ _)
    ⟨fun _ => ht, nofun⟩ (gives_pure _ _)

theorem call_ends {l : Fin 8} {cause : Option Cause} (hon : TransferOn (.call n l) n s s1 len)
    (ht : Proceeds n s.cur.regs.b[n] s1 s2) (hc : Gives (checked s2 ((afterSlot s len).setWidth 64)) s2 cause s3) :
    Ends (.call n l) s (.transfer s.cur.regs.b[n].addr true [])
      (withTarget s3 l (prepared ((afterSlot s len).setWidth 64) cause)) :=
  transfer_ends (.inr (.inl ⟨l, rfl⟩)) (conditionBound_of_not_branch fun _ _ _ => ⟨nofun, nofun⟩) hon (gives_pure _ _)
    ⟨fun _ => ht, nofun⟩ (prepareTarget_gives hc)

theorem jump_refused (hi : i = .jmp n ∨ ∃ l, i = .call n l) (hon : TransferOn i n s s1 len) :
    TargetRefused i s s1 s.cur.regs.b[n] := by
  rcases hi with rfl | ⟨l, rfl⟩
  · exact transfer_refused (.inl rfl) (conditionBound_of_not_branch fun _ _ _ => ⟨nofun, nofun⟩) hon (gives_pure _ _)
  · exact transfer_refused (.inr (.inl ⟨l, rfl⟩)) (conditionBound_of_not_branch fun _ _ _ => ⟨nofun, nofun⟩) hon
      (gives_pure _ _)

theorem branch_refused {g : Scalar} {bit : Fin 64} {sense : Bool} {items : List (Nat × Vec)}
    (hi : i = if sense then .brT n g bit else .brF n g bit) (hg : srcBound g s) (hon : TransferOn i n s s1 len)
    (hc : Gives (branchBit g bit sense) s1 (true, items) s2) : TargetRefused i s s2 s.cur.regs.b[n] := by
  cases sense with
  | true =>
    subst hi
    exact transfer_refused (.inr (.inr (.inl ⟨g, bit, rfl⟩))) (conditionBound_brT hg) hon hc
  | false =>
    subst hi
    exact transfer_refused (.inr (.inr (.inr (.inl ⟨g, bit, rfl⟩)))) (conditionBound_brF hg) hon hc

theorem bdec_refused {k : Fin 32} (hon : TransferOn (.bdec n (.g k)) n s s1 len) (hm : (s1.cur.regs.readG k).mark = false)
    (hx : (s1.cur.regs.readG k).bits ≠ 1) : TargetRefused (.bdec n (.g k)) s (counted s1 k) s.cur.regs.b[n] := by
  have hc := bdec_condition_gives (n := n) k hm
  rw [decide_eq_true hx] at hc
  exact transfer_refused (.inr (.inr (.inr (.inr ⟨_, rfl⟩)))) (conditionBound_of_not_branch fun _ _ _ => ⟨nofun, nofun⟩) hon hc

end

/-- Settles O12: a transfer is what follows its slot, and its target is looked at there. -/
theorem transfersGoWhereTheyWerePrepared : Obligations.TransfersGoWhereTheyWerePrepared :=
  ⟨fun _ _ _ _ _ hon ht => jmp_ends hon ht,
    fun _ _ _ _ _ _ _ _ hon ht hc => call_ends hon ht hc,
    fun _ _ bit _ _ _ _ _ _ hon hg hx ht =>
      brT_ends (srcBound_of_not_port hg _) hon (branchBit_gives bit true hg hx) ht,
    fun _ _ bit _ _ _ _ _ _ hon hg hx ht =>
      brF_ends (srcBound_of_not_port hg _) hon (branchBit_gives bit false hg hx) ht,
    fun _ _ bit _ _ _ _ _ _ _ _ hon hg hch hx hm ht => brT_ends hg hon (branchBit_port_gives bit true hch hx hm) ht,
    fun _ _ bit _ _ _ _ _ _ _ _ hon hg hch hx hm ht => brF_ends hg hon (branchBit_port_gives bit false hch hx hm) ht,
    fun _ _ _ _ _ _ hon hm ht => bdec_ends hon hm ht,
    fun _ _ _ _ _ _ => ⟨rfl, rfl, rfl, rfl, rfl, rfl, rfl, rfl, rfl, rfl, rfl, rfl⟩,
    fun _ _ _ hi hb hbusy hok hoff hprep => transfer_unprepared hi hb hbusy hok hoff hprep,
    fun _ _ _ _ _ hi hbusy hok hoff hslot => transfer_off hi hbusy hok hoff hslot,
    fun _ _ _ _ _ hi hbusy hok hon hf hic hr => transfer_inSlot hi hbusy hok hon hf hic hr,
    fun _ _ _ _ _ hi hon => jump_refused hi hon,
    fun _ _ _ _ _ _ _ _ _ _ hi hg hon hc => branch_refused hi hg hon hc,
    fun _ _ _ _ _ _ hon hm hx hs => hs ▸ bdec_refused hon hm hx⟩

end Sys2Proof.Machine
end

section
/-! PROOFS. Joins held in a core's combining buffer and joins that leave it (R116, R288), and the instructions that post them
(R221 to R223). -/
namespace Sys2Proof.Machine
open Sys2Proof.Claims

theorem core_congr {s t : State} (h : s.cores = t.cores) (n : Nat) : s.core n = t.core n := by
  rw [State.core, h, State.core]

theorem core_setCore_of_num (s : State) {c : Core} {n : Nat} (h : c.num = n) : (s.setCore c).core n = c :=
  h ▸ State.core_setCore s c

/-! What a held join that leaves changes: the contexts that count on it, and the messages. -/

/-- `c'` is `c`, some of whose outstanding accesses have left the core's buffer. -/
def Context.Freed (c c' : Context) : Prop :=
  ∃ g : Out → Out, (∀ o, g o = { o with held := (g o).held }) ∧ (∀ o, (g o).held = true → o.held = true) ∧
    c' = { c with outs := c.outs.map g }

theorem Context.Freed.refl (c : Context) : c.Freed c :=
  ⟨id, fun _ => rfl, fun _ h => h, by rw [List.map_id]⟩

theorem Context.Freed.trans {a b c : Context} (h1 : a.Freed b) (h2 : b.Freed c) : a.Freed c := by
  obtain ⟨g, hg, hm, rfl⟩ := h1
  obtain ⟨g', hg', hm', rfl⟩ := h2
  refine ⟨g' ∘ g, fun o => ?_, fun o h => hm o (hm' _ h), by rw [List.map_map]⟩
  have h := hg' (g o)
  rw [Function.comp_apply, h, hg o]

theorem Context.Freed.key {c c' : Context} (h : c.Freed c') : c'.key = c.key := by
  obtain ⟨g, -, -, rfl⟩ := h
  rfl

/-- An access that has left is still there, under its number. -/
theorem Context.Freed.out {c c' : Context} (h : c.Freed c') {o : Out} (ho : o ∈ c.outs) :
    ∃ o' ∈ c'.outs, o' = { o with held := o'.held } ∧ (o'.held = true → o.held = true) := by
  obtain ⟨g, hg, hm, rfl⟩ := h
  exact ⟨g o, List.mem_map_of_mem ho, hg o, hm o⟩

theorem Context.Freed.any_n {c c' : Context} (h : c.Freed c') (n : Nat) :
    c'.outs.any (fun o => o.n == n) = c.outs.any (fun o => o.n == n) := by
  obtain ⟨g, hg, -, rfl⟩ := h
  have hn : ((fun o : Out => o.n == n) ∘ g) = fun o => o.n == n := by
    funext o
    rw [Function.comp_apply, hg o]
  rw [List.any_map, hn]

/-- `t` is `s` after held joins have left cores' buffers, up to what stands in the buffers. -/
def State.Freed (s t : State) : Prop :=
  ∃ cur ctxs cores msgs n, t = { s with cur := cur, ctxs := ctxs, cores := cores, msgs := msgs, nextMsg := n } ∧
    s.cur.Freed cur ∧ List.Forall₂ Context.Freed s.ctxs ctxs

theorem forall₂_freed_refl (l : List Context) : List.Forall₂ Context.Freed l l := by
  induction l with
  | nil => exact .nil
  | cons c l ih => exact .cons (.refl c) ih

theorem forall₂_freed_trans {a b c : List Context} (h1 : List.Forall₂ Context.Freed a b)
    (h2 : List.Forall₂ Context.Freed b c) : List.Forall₂ Context.Freed a c := by
  induction h1 generalizing c with
  | nil => exact h2
  | cons h _ ih =>
    cases h2 with
    | cons h' hrest => exact .cons (h.trans h') (ih hrest)

theorem State.Freed.refl (s : State) : s.Freed s :=
  ⟨s.cur, s.ctxs, s.cores, s.msgs, s.nextMsg, rfl, .refl _, forall₂_freed_refl _⟩

theorem State.Freed.trans {a b c : State} (h1 : a.Freed b) (h2 : b.Freed c) : a.Freed c := by
  obtain ⟨cur, ctxs, cores, msgs, n, rfl, hcur, hctxs⟩ := h1
  obtain ⟨cur', ctxs', cores', msgs', n', rfl, hcur', hctxs'⟩ := h2
  exact ⟨cur', ctxs', cores', msgs', n', rfl, hcur.trans hcur', forall₂_freed_trans hctxs hctxs'⟩

theorem freed_send (s : State) (m : Msg) : s.Freed (s.send m) :=
  ⟨_, _, _, _, _, rfl, .refl _, forall₂_freed_refl _⟩

theorem freed_setCore (s : State) (c : Core) : s.Freed (s.setCore c) :=
  ⟨_, _, _, _, _, rfl, .refl _, forall₂_freed_refl _⟩

theorem putCtx_freed {l : List Context} {c c' : Context} (hf : l.find? (fun x => x.key == c'.key) = some c) (h : c.Freed c') :
    List.Forall₂ Context.Freed l (putCtx l c') := by
  induction l with
  | nil => nomatch hf
  | cons x l ih =>
    rw [putCtx]
    by_cases hx : x.key = c'.key
    · rw [List.find?_cons_of_pos (by simpa using hx)] at hf
      cases hf
      rw [if_pos hx]
      exact .cons h (forall₂_freed_refl l)
    · rw [List.find?_cons_of_neg (by simpa using hx)] at hf
      rw [if_neg hx]
      exact .cons (.refl x) (ih hf)

theorem freed_modCtx (s : State) (k : Key) {f : Context → Context} (hf : ∀ c : Context, c.Freed (f c)) : s.Freed (s.modCtx k f) := by
  rw [State.modCtx]
  split
  case h_2 => exact .refl s
  case h_1 c hc =>
    have hkey : (f c).key = c.key := (hf c).key
    rw [State.ctx?] at hc
    rw [State.setCtx, hkey]
    by_cases hcur : (s.busy && s.cur.key == k) = true
    · rw [if_pos hcur] at hc
      cases hc
      have hbusy : (s.busy && s.cur.key == s.cur.key) = true := by
        rw [beq_self_eq_true, Bool.and_true]
        exact (Bool.and_eq_true_iff.1 hcur).1
      rw [if_pos hbusy]
      exact ⟨_, _, _, _, _, rfl, hf _, forall₂_freed_refl _⟩
    · rw [if_neg hcur] at hc
      have hk : c.key = k := by simpa using List.find?_some hc
      rw [hk, if_neg hcur]
      exact ⟨_, _, _, _, _, rfl, .refl _, putCtx_freed (by rwa [hkey, hk]) (hf c)⟩

/-- An access of a context that has left its core's buffer. -/
def Context.release (n : Nat) (x : Context) : Context :=
  { x with outs := x.outs.map (fun o => if o.n = n then { o with held := false } else o) }

theorem freed_release (n : Nat) (c : Context) : c.Freed (c.release n) := by
  refine ⟨_, fun o => ?_, fun o h => ?_, rfl⟩
  · split <;> rfl
  · split at h
    · nomatch h
    · exact h

/-- The contributors of a join that leaves. -/
def releaseTags (ts : List Tag) (s : State) : State :=
  ts.foldl (fun s t => match t.who with
    | .ctx k n => s.modCtx k (Context.release n)
    | _ => s) s

/-- The message of a held join. -/
def Held.msg (core : Nat) (h : Held) : Msg :=
  { id := 0, src := .core core, dst := h.dst, body := .join h.req, cnt := h.cnt, asid := h.asid, va := h.va, gen := h.gen
    bad := h.bad }

/-- One held join leaves. -/
def sendHeld (core : Nat) (s : State) (h : Held) : State := (releaseTags h.req.tags s).send (h.msg core)

/-- A core whose buffer keeps what `p` does not name. -/
def Core.without (p : Held → Bool) (c : Core) : Core := { c with hold := c.hold.filter fun h => !p h }

/-- A core whose buffer has taken a join. -/
def Core.putHeld (h : Held) (c : Core) : Core := { c with hold := holdIn c.hold h }

theorem drainHeld_eq (s : State) (core : Nat) (p : Held → Bool) : s.drainHeld core p =
    if ((s.core core).hold.filter p).isEmpty then s
    else ((s.core core).hold.filter p).foldl (sendHeld core)
      (s.setCore ((s.core core).without p)) := rfl

theorem releaseTags_induction {P : State → Prop} (hmod : ∀ s k n, P s → P (s.modCtx k (Context.release n)))
    (ts : List Tag) {s : State} (h : P s) : P (releaseTags ts s) := by
  induction ts generalizing s with
  | nil => exact h
  | cons t ts ih =>
    rw [releaseTags, List.foldl_cons]
    refine ih ?_
    split
    · exact hmod _ _ _ h
    · exact h

theorem freed_releaseTags (ts : List Tag) (s : State) : s.Freed (releaseTags ts s) :=
  releaseTags_induction (P := s.Freed) (fun _ k n h => h.trans (freed_modCtx _ k (freed_release n))) ts (.refl s)

theorem releaseTags_cores (ts : List Tag) (s : State) : (releaseTags ts s).cores = s.cores :=
  releaseTags_induction (P := fun t => t.cores = s.cores) (fun _ _ _ h => (State.modCtx_cores _ _ _).trans h) ts rfl

theorem releaseTags_msgs (ts : List Tag) (s : State) : (releaseTags ts s).msgs = s.msgs :=
  releaseTags_induction (P := fun t => t.msgs = s.msgs) (fun _ _ _ h => (State.modCtx_msgs _ _ _).trans h) ts rfl

theorem freed_sendHelds (core : Nat) (hs : List Held) (s : State) : s.Freed (hs.foldl (sendHeld core) s) := by
  induction hs generalizing s with
  | nil => exact .refl s
  | cons h hs ih => exact ((freed_releaseTags _ s).trans (freed_send _ _)).trans (ih _)

theorem sendHelds_cores (core : Nat) (hs : List Held) (s : State) : (hs.foldl (sendHeld core) s).cores = s.cores := by
  induction hs generalizing s with
  | nil => rfl
  | cons h hs ih => exact (ih _).trans (releaseTags_cores _ s)

/-- Every message that was on its way is, and one for each join that leaves. -/
theorem sendHelds_msgs (core : Nat) (hs : List Held) (s : State) : (∀ m ∈ s.msgs, m ∈ (hs.foldl (sendHeld core) s).msgs) ∧
    ∀ h ∈ hs, ∃ n, { h.msg core with id := n } ∈ (hs.foldl (sendHeld core) s).msgs := by
  induction hs generalizing s with
  | nil => exact ⟨fun _ hm => hm, nofun⟩
  | cons h hs ih =>
    obtain ⟨hold, hnew⟩ := ih (sendHeld core s h)
    have hmsgs : (sendHeld core s h).msgs = s.msgs ++ [{ h.msg core with id := (releaseTags h.req.tags s).nextMsg }] :=
      congrArg (· ++ [_]) (releaseTags_msgs _ s)
    refine ⟨fun m hm => hold m ?_, fun x hx => ?_⟩
    · rw [hmsgs]
      exact List.mem_append_left _ hm
    · rcases List.mem_cons.1 hx with rfl | hx
      · exact ⟨_, hold _ (hmsgs ▸ List.mem_append_right _ (List.mem_singleton_self _))⟩
      · exact hnew x hx

section
variable (s : State) (core : Nat) (p : Held → Bool)

theorem freed_drainHeld : s.Freed (s.drainHeld core p) := by
  rw [drainHeld_eq]
  split
  · exact .refl s
  · exact (freed_setCore s _).trans (freed_sendHelds core _ _)

/-- A buffer keeps what does not leave. -/
theorem drainHeld_hold : ((s.drainHeld core p).core core).hold = (s.core core).hold.filter fun h => !p h := by
  rw [drainHeld_eq]
  split
  case isTrue he =>
    refine (List.filter_eq_self.2 fun h hh => ?_).symm
    have := List.filter_eq_nil_iff.1 (List.isEmpty_iff.1 he) h hh
    simpa using this
  case isFalse =>
    rw [core_congr (sendHelds_cores core _ _),
      core_setCore_of_num s (c := (s.core core).without p) (State.core_num s core)]
    rfl

theorem drainHeld_core_other {n : Nat} (h : n ≠ core) : (s.drainHeld core p).core n = s.core n := by
  rw [drainHeld_eq]
  split
  · rfl
  · rw [core_congr (sendHelds_cores core _ _), State.core_setCore_other _ _ (by
      rw [show ((s.core core).without p).num = core from State.core_num s core]
      exact h.symm)]

/-- What leaves is on its way. -/
theorem drainHeld_msg {h : Held} (hh : h ∈ (s.core core).hold) (hp : p h = true) :
    ∃ n, { h.msg core with id := n } ∈ (s.drainHeld core p).msgs := by
  have hmem : h ∈ (s.core core).hold.filter p := List.mem_filter.2 ⟨hh, hp⟩
  have hne : ¬((s.core core).hold.filter p).isEmpty = true := fun he => by
    rw [List.isEmpty_iff.1 he] at hmem
    nomatch hmem
  rw [drainHeld_eq, if_neg hne]
  exact (sendHelds_msgs core _ _).2 h hmem

end

/-! R116: the combining buffer. -/

section
variable {x h : Held} {l : List Held}

theorem mayMerge_iff : x.mayMerge h = true ↔ Joinable x h.req h.bad := by
  simp [Held.mayMerge, JoinReq.mayMerge, Joinable, SameCell, and_assoc]

theorem merge_mergedJoin (a b : JoinReq) : MergedJoin a b (a.merge b) := ⟨rfl, rfl, rfl, rfl, rfl, rfl, rfl, rfl, rfl⟩

theorem holdIn_append (hl : ∀ z ∈ l, ¬Joinable z h.req h.bad) : holdIn l h = l ++ [h] := by
  induction l with
  | nil => rfl
  | cons x l ih =>
    rw [holdIn, if_neg fun hm => hl x (List.mem_cons_self ..) (mayMerge_iff.1 hm),
      ih fun z hz => hl z (List.mem_cons_of_mem _ hz), List.cons_append]

theorem holdIn_merge {pre : List Held} (hpre : ∀ z ∈ pre, ¬Joinable z h.req h.bad) (hx : Joinable x h.req h.bad) :
    holdIn (pre ++ x :: l) h = pre ++ { x with req := x.req.merge h.req, cnt := x.cnt || h.cnt } :: l := by
  induction pre with
  | nil => exact if_pos (mayMerge_iff.2 hx)
  | cons y pre ih =>
    rw [List.cons_append, holdIn, if_neg fun hm => hpre y (List.mem_cons_self ..) (mayMerge_iff.1 hm),
      ih fun z hz => hpre z (List.mem_cons_of_mem _ hz), List.cons_append]

variable {s : State} {core : Nat}

theorem makeRoom_of_joinable (hx : x ∈ (s.core core).hold) (hj : Joinable x h.req h.bad) : s.makeRoom core h = s := by
  have hany : ((s.core core).hold.any fun z => z.mayMerge h) = true := List.any_eq_true.2 ⟨x, hx, mayMerge_iff.2 hj⟩
  rw [State.makeRoom]
  exact if_pos (by rw [hany, Bool.true_or])

theorem makeRoom_of_room (hlen : (s.core core).hold.length < 64) : s.makeRoom core h = s := by
  rw [State.makeRoom]
  exact if_pos (by rw [decide_eq_true hlen, Bool.or_true])

theorem makeRoom_of_full (hl : (s.core core).hold = x :: l) (hn : ∀ z ∈ (s.core core).hold, ¬Joinable z h.req h.bad)
    (hlen : 64 ≤ (s.core core).hold.length) : s.makeRoom core h = s.drainHeld core (fun y => y == x) := by
  have hany : ((s.core core).hold.any fun z => z.mayMerge h) = false :=
    List.any_eq_false.2 fun z hz hm => hn z hz (mayMerge_iff.1 hm)
  rw [State.makeRoom]
  rw [if_neg (by rw [hany, decide_eq_false (Nat.not_lt.2 hlen)]; exact Bool.false_ne_true), hl]

theorem freed_makeRoom (s : State) (core : Nat) (h : Held) : s.Freed (s.makeRoom core h) := by
  rw [State.makeRoom]
  split
  · exact .refl s
  · split
    · exact .refl s
    · exact freed_drainHeld s core _

end

/-! R221, R222: a join posted. -/

section
variable (l : Leaf) (va w : Nat) (x : Int) (mark rel : Bool) (s : State)

/-- The access that a join, fill or store of the context begins. -/
def outFor (l : Leaf) (va : Nat) (store held : Bool) (c : Context) : Out :=
  { n := c.nextOut, core := c.core, line := l.line va, store := store, va := BitVec.ofNat 64 va, held := held
    homeBd := homeBd (l.key va), remote := l.remote }

/-- The state once it is numbered. -/
def withOut (l : Leaf) (va : Nat) (store held : Bool) (s : State) : State :=
  { s with cur := { s.cur with nextOut := s.cur.nextOut + 1, outs := s.cur.outs ++ [outFor l va store held s.cur] } }

theorem newOut_gives (store held : Bool) : Gives (newOut l va store held) s s.cur.nextOut (withOut l va store held s) := rfl

/-- The state once the join is posted. -/
def joined (l : Leaf) (va w : Nat) (x : Int) (mark rel : Bool) (s : State) : State :=
  (withOut l va false (!rel) s).postJoin s.cur.core s.cur.asid l va (joinOf l va w x mark rel s) (!rel)

theorem joinCell_gives : Gives (joinCell l va w x mark rel) s () (joined l va w x mark rel s) := rfl

/-- The join as its core's buffer holds it. -/
def heldFor (l : Leaf) (va w : Nat) (x : Int) (mark : Bool) (s : State) : Held :=
  { req := joinOf l va w x mark false s, dst := homeNode (l.key va), cnt := l.cnt, asid := s.cur.asid
    va := BitVec.ofNat 64 va, gen := l.gen, bad := l.badPage }

theorem joined_held : joined l va w x mark false s =
    ((withOut l va false true s).makeRoom s.cur.core (heldFor l va w x mark s)).modCore s.cur.core
      (Core.putHeld (heldFor l va w x mark s)) := rfl

theorem freed_modCore (t : State) (n : Nat) (f : Core → Core) : t.Freed (t.modCore n f) := freed_setCore _ _

/-- A join that is posted changes no more than the context's accesses, the buffers and the messages. -/
theorem joined_freed : (withOut l va false (!rel) s).Freed (joined l va w x mark rel s) := by
  cases rel with
  | true => exact freed_send _ _
  | false => exact joined_held l va w x mark s ▸ (freed_makeRoom _ _ _).trans (freed_modCore _ _ _)

theorem core_modCore_same (t : State) (n : Nat) {f : Core → Core} (hf : ∀ c, (f c).num = c.num) :
    (t.modCore n f).core n = f (t.core n) := core_setCore_of_num _ ((hf _).trans (State.core_num t n))

theorem joined_hold : ((joined l va w x mark false s).core s.cur.core).hold =
    holdIn (((withOut l va false true s).makeRoom s.cur.core (heldFor l va w x mark s)).core s.cur.core).hold
      (heldFor l va w x mark s) := by
  rw [joined_held, core_modCore_same _ _ (f := Core.putHeld (heldFor l va w x mark s)) fun _ => rfl]
  rfl

/-- A held join that the buffer has room for, or merges, leaves no other. -/
theorem joined_of_makeRoom
    (h : (withOut l va false true s).makeRoom s.cur.core (heldFor l va w x mark s) = withOut l va false true s) :
    (∃ o, (joined l va w x mark false s).cur.outs = s.cur.outs ++ [o] ∧ o.held = true) ∧
      (joined l va w x mark false s).msgs = s.msgs ∧
      ((joined l va w x mark false s).core s.cur.core).hold = holdIn (s.core s.cur.core).hold (heldFor l va w x mark s) := by
  refine ⟨⟨outFor l va false true s.cur, ?_, rfl⟩, ?_, ?_⟩
  · rw [joined_held, h]
    rfl
  · rw [joined_held, h]
    rfl
  · rw [joined_hold, h]
    rfl

end

/-! R219, R76: the checks of a join, and the wait before a releasing one. -/

section
variable {s s1 s2 s3 t : State} {l : Leaf} {ea : Word} {kind : AccessKind}

/-- An instruction that admits the page's type gets it. -/
theorem fieldAccess_gives {refuse : Leaf → Option FaultCode} (h : Admitted kind ea s l t) (hr : refuse l = none) :
    Gives (fieldAccess kind refuse ea) s l t := by
  rw [Admitted, fieldAccess] at h
  rw [fieldAccess]
  cases hw : windowOf ea.toNat with
  | global =>
    rw [hw] at h
    dsimp only at h ⊢
    cases htr : translate kind ea.toNat s with
    | error e =>
      rw [Gives, bind_of_error htr] at h
      nomatch h
    | ok r =>
      obtain ⟨l', u⟩ := r
      rw [Gives, bind_of_gives htr] at h
      have hl : l' = l := by
        split at h
        · nomatch h
        · cases h
          rfl
      subst hl
      rw [Gives, bind_of_gives htr, hr]
      exact h
  | guardPage | unused | stack | scratch =>
    rw [hw] at h
    nomatch h
  | onChip | device =>
    rw [hw] at h
    dsimp only at h
    rw [Gives, bind_of_gives (cur_gives s)] at h
    split at h <;> nomatch h

theorem onlyTypes_none {p : Nat → Bool} (h : p l.ty = true) : onlyTypes p l = none := if_pos h

/-- The wait of R76 has ended. -/
theorem waitAcks_gives {stores : Bool} (h : Acknowledged stores s t) : Gives (waitAcks stores) s true t := by
  obtain ⟨rfl, hall⟩ := h
  have hbody : waitAcks stores s = .ok ((s.drainHeld s.cur.core (Held.ofCtx s.cur.key)).cur.outs.all
      (fun o => o.store && !stores), s.drainHeld s.cur.core (Held.ofCtx s.cur.key)) := rfl
  have hones : (s.drainHeld s.cur.core (Held.ofCtx s.cur.key)).cur.outs.all (fun o => o.store && !stores) = true := by
    refine List.all_eq_true.2 fun o ho => ?_
    obtain ⟨hst, rfl⟩ := hall o ho
    rw [hst]
    rfl
  rw [Gives, hbody, hones]

theorem deliverPosted_gives (h : s.cur.posted = []) : Gives deliverPosted s () s := by
  refine gives_bind (cur_gives s) ?_
  rw [h]
  exact gives_pure _ _

/-- What follows a join's release half. -/
theorem released_gives {rel : Bool} {m : M Flow} {f : Flow} (h : Released rel s s1) (hm : Gives m s1 f t) :
    Gives (if rel then do
        let b ← waitAcks false
        if !b then return .park (.acks .fills)
        deliverPosted
        m
      else m) s f t := by
  cases rel with
  | false =>
    have hs : s1 = s := h
    exact hs ▸ hm
  | true =>
    obtain ⟨hack, hposted⟩ : Acknowledged false s s1 ∧ s1.cur.posted = [] := h
    exact gives_bind (waitAcks_gives hack) (gives_bind (deliverPosted_gives hposted) hm)

end

section
variable {s s1 s2 s3 t : State} {a v : Scalar} {vs : List Val} {l : Leaf} {w : Nat} {rel : Bool}

theorem joinScalar_gives (ha : srcBound a s) (hv : srcBound v s) (hvs : Operands [a, v] s vs s1)
    (hm : (nthVal vs 0).mark = false) (hl : Admitted .write (nthVal vs 0).bits s1 l s2) (hty : refuseJoin w l = none)
    (hal : (nthVal vs 0).bits.toNat % (w / 8) = 0) (hrel : Released rel s2 s3)
    (hj : Gives (joinCell l (nthVal vs 0).bits.toNat w ((nthVal vs 1).bits.toNat % 2 ^ w : Nat) (nthVal vs 1).mark rel) s3 () t) :
    Gives (joinScalar w rel a v) s .done t :=
  gives_bind ha (gives_bind hv (gives_bind hvs (gives_bind (useClean_gives hm s1) (gives_bind (fieldAccess_gives hl hty)
    (gives_bind (check_of_true (decide_eq_true hal) _ _ s2) (released_gives hrel (gives_bind hj (gives_pure _ _))))))))

theorem xjoinScalar_gives {isF : Bool} {x : Int} (ha : srcBound a s) (hv : srcBound v s) (hvs : Operands [a, v] s vs s1)
    (hm : (nthVal vs 0).mark = false) (hl : Admitted .write (nthVal vs 0).bits s1 l s2) (hty : l.ty = 10)
    (hal : (nthVal vs 0).bits.toNat % 16 = 0) (hx : contribution isF (nthVal vs 1).bits l.arg.toInt = some x)
    (hrel : Released rel s2 s3) (hj : Gives (joinCell l (nthVal vs 0).bits.toNat 128 x (nthVal vs 1).mark rel) s3 () t) :
    Gives (xjoinScalar isF rel a v) s .done t := by
  refine gives_bind ha (gives_bind hv (gives_bind hvs (gives_bind (useClean_gives hm s1)
    (gives_bind (fieldAccess_gives hl (onlyTypes_none (decide_eq_true hty)))
    (gives_bind (check_of_true (decide_eq_true hal) _ _ s2) ?_)))))
  rw [hx]
  exact released_gives hrel (gives_bind hj (gives_pure _ _))

theorem refuseJoin_none (hw : w = 16 ∨ w = 32 ∨ w = 64) (h2 : 2 ≤ l.ty) (h9 : l.ty ≤ 9) (h16 : l.ty = 9 → w ≠ 16) :
    refuseJoin w l = none := by
  refine onlyTypes_none ?_
  have h10 : l.ty ≠ 10 := by omega
  rcases hw with rfl | rfl | rfl
  · simp [admitsJoin, h2, h10, show l.ty ≤ 8 by have := h16; omega]
  · simp [admitsJoin, h2, h10]
    omega
  · simp [admitsJoin, h2, h10]
    omega

end

/-- Each instruction of the list is the join of its width. -/
theorem joins_exec : ∀ p ∈ joins, (∀ a v s, exec (p.1 a v) s = issue (p.1 a v) (joinScalar p.2.1 p.2.2 a v) s) ∧
    (p.2.1 = 16 ∨ p.2.1 = 32 ∨ p.2.1 = 64) := by
  simp only [joins, List.forall_mem_cons, List.not_mem_nil, false_imp_iff, implies_true, and_true]
  exact ⟨⟨fun _ _ _ => rfl, by decide⟩, ⟨fun _ _ _ => rfl, by decide⟩, ⟨fun _ _ _ => rfl, by decide⟩,
    ⟨fun _ _ _ => rfl, by decide⟩, ⟨fun _ _ _ => rfl, by decide⟩, ⟨fun _ _ _ => rfl, by decide⟩⟩

theorem xjoins_exec : ∀ p ∈ xjoins, ∀ a v s, exec (p.1 a v) s = issue (p.1 a v) (xjoinScalar p.2.1 p.2.2 a v) s := by
  simp only [xjoins, List.forall_mem_cons, List.not_mem_nil, false_imp_iff, implies_true, and_true]
  exact ⟨fun _ _ _ => rfl, fun _ _ _ => rfl, fun _ _ _ => rfl, fun _ _ _ => rfl⟩

/-! What a posted join leaves. -/

section
variable (l : Leaf) (va w : Nat) (x : Int) (mark rel : Bool) (s : State)

/-- It is outstanding. -/
theorem joined_out : ∃ o ∈ (joined l va w x mark rel s).cur.outs, o.n = s.cur.nextOut ∧ o.line = l.key va / 128 ∧
    o.store = false := by
  obtain ⟨cur, ctxs, cores, msgs, n, heq, hcur, -⟩ := joined_freed l va w x mark rel s
  have hmem : outFor l va false (!rel) s.cur ∈ (withOut l va false (!rel) s).cur.outs :=
    List.mem_append_right _ (List.mem_singleton_self _)
  obtain ⟨o, ho, hoeq, -⟩ := hcur.out hmem
  rw [heq]
  refine ⟨o, ho, ?_⟩
  rw [hoeq]
  exact ⟨rfl, rfl, rfl⟩

theorem joined_cur : (joined l va w x mark rel s).cur =
    { s.cur with nextOut := s.cur.nextOut + 1, outs := (joined l va w x mark rel s).cur.outs } := by
  obtain ⟨cur, ctxs, cores, msgs, n, heq, ⟨g, -, -, hg⟩, -⟩ := joined_freed l va w x mark rel s
  rw [heq, hg]
  rfl

theorem joined_spaces : (joined l va w x mark rel s).mem = s.mem ∧ (joined l va w x mark rel s).md = s.md ∧
    (joined l va w x mark rel s).scratch = s.scratch ∧ (joined l va w x mark rel s).acc = s.acc := by
  obtain ⟨cur, ctxs, cores, msgs, n, heq, -⟩ := joined_freed l va w x mark rel s
  rw [heq]
  exact ⟨rfl, rfl, rfl, rfl⟩

/-- A releasing join is sent. -/
theorem joined_released : ∃ (o : Out) (m : Msg), (joined l va w x mark true s).cur.outs = s.cur.outs ++ [o] ∧
    o.n = s.cur.nextOut ∧ o.line = l.key va / 128 ∧ o.store = false ∧ o.held = false ∧
    (joined l va w x mark true s).msgs = s.msgs ++ [m] ∧ m.src = .core s.cur.core ∧ m.loc = .source ∧
    m.dst = homeNode (l.key va) ∧ m.body = .join (joinOf l va w x mark true s) ∧
    (joined l va w x mark true s).cores = s.cores :=
  ⟨outFor l va false false s.cur, _, rfl, rfl, rfl, rfl, rfl, rfl, rfl, rfl, rfl, rfl, rfl⟩

variable {pre rest : List Held} {y : Held}

/-- One of its cell takes it. -/
theorem joined_merged (hhold : (s.core s.cur.core).hold = pre ++ y :: rest)
    (hpre : ∀ z ∈ pre, ¬Joinable z (joinOf l va w x mark false s) l.badPage)
    (hy : Joinable y (joinOf l va w x mark false s) l.badPage) :
    (∃ o, (joined l va w x mark false s).cur.outs = s.cur.outs ++ [o] ∧ o.held = true) ∧
      (joined l va w x mark false s).msgs = s.msgs ∧
      ∃ y', ((joined l va w x mark false s).core s.cur.core).hold = pre ++ y' :: rest ∧
        MergedJoin y.req (joinOf l va w x mark false s) y'.req ∧ y'.dst = y.dst ∧ y'.bad = y.bad := by
  have hmem : y ∈ (s.core s.cur.core).hold := hhold ▸ List.mem_append_right _ (List.mem_cons_self ..)
  obtain ⟨houts, hmsgs, hh⟩ := joined_of_makeRoom l va w x mark s
    (makeRoom_of_joinable (s := withOut l va false true s) hmem hy)
  rw [hhold, holdIn_merge hpre hy] at hh
  exact ⟨houts, hmsgs, _, hh, merge_mergedJoin _ _, rfl, rfl⟩

/-- It stands behind the others. -/
theorem joined_appended (hn : ∀ z ∈ (s.core s.cur.core).hold, ¬Joinable z (joinOf l va w x mark false s) l.badPage)
    (hlen : (s.core s.cur.core).hold.length < 64) :
    (∃ o, (joined l va w x mark false s).cur.outs = s.cur.outs ++ [o] ∧ o.held = true) ∧
      (joined l va w x mark false s).msgs = s.msgs ∧
      ∃ h, ((joined l va w x mark false s).core s.cur.core).hold = (s.core s.cur.core).hold ++ [h] ∧
        h.req = joinOf l va w x mark false s ∧ h.dst = homeNode (l.key va) ∧ h.bad = l.badPage := by
  obtain ⟨houts, hmsgs, hh⟩ := joined_of_makeRoom l va w x mark s (makeRoom_of_room (s := withOut l va false true s) hlen)
  rw [holdIn_append hn] at hh
  exact ⟨houts, hmsgs, _, hh, rfl, rfl, rfl⟩

/-- The oldest makes way for it. -/
theorem joined_full (hhold : (s.core s.cur.core).hold = y :: rest)
    (hn : ∀ z ∈ (s.core s.cur.core).hold, ¬Joinable z (joinOf l va w x mark false s) l.badPage)
    (hlen : 64 ≤ (s.core s.cur.core).hold.length) :
    (∃ m ∈ (joined l va w x mark false s).msgs, m.src = .core s.cur.core ∧ m.loc = .source ∧ m.dst = y.dst ∧
      m.body = .join y.req) ∧
    ∃ h, ((joined l va w x mark false s).core s.cur.core).hold = rest.filter (fun z => !(z == y)) ++ [h] ∧
      h.req = joinOf l va w x mark false s ∧ h.dst = homeNode (l.key va) ∧ h.bad = l.badPage := by
  have hroom := makeRoom_of_full (s := withOut l va false true s) (h := heldFor l va w x mark s) hhold hn hlen
  have hy : y ∈ ((withOut l va false true s).core s.cur.core).hold := by
    rw [show (withOut l va false true s).core s.cur.core = s.core s.cur.core from rfl, hhold]
    exact List.mem_cons_self ..
  constructor
  · obtain ⟨n, hm⟩ := drainHeld_msg _ _ (fun z => z == y) hy (beq_self_eq_true y)
    refine ⟨{ y.msg s.cur.core with id := n }, ?_, rfl, rfl, rfl, rfl⟩
    rw [joined_held, hroom]
    exact hm
  · have hkept : (((withOut l va false true s).drainHeld s.cur.core fun z => z == y).core s.cur.core).hold =
        rest.filter fun z => !(z == y) := by
      rw [drainHeld_hold, show (withOut l va false true s).core s.cur.core = s.core s.cur.core from rfl, hhold,
        List.filter_cons_of_neg (by simp)]
    have hrest : ∀ z ∈ rest.filter fun z => !(z == y), ¬Joinable z (joinOf l va w x mark false s) l.badPage := by
      intro z hz
      refine hn z ?_
      rw [hhold]
      exact List.mem_cons_of_mem _ (List.mem_filter.1 hz).1
    refine ⟨heldFor l va w x mark s, ?_, rfl, rfl, rfl⟩
    rw [joined_hold, hroom, hkept, holdIn_append hrest]

end

/-- Settles O13. -/
theorem fieldJoinsCompleteAndStayOutstanding : Obligations.FieldJoinsCompleteAndStayOutstanding := by
  refine ⟨⟨fun p hp a v s s1 s2 s3 t vs l hi ha hv hvs hm hl h2 h9 h16 hal hrel hj => ?_,
      fun p hp a v s s1 s2 s3 t vs l x hi ha hv hvs hm hl hty hal hx hrel hj => ?_⟩,
    fun l va w x mark rel s => ⟨_, joinCell_gives l va w x mark rel s, joined_cur l va w x mark rel s,
      joined_out l va w x mark rel s, fun hrel => ?_, fun hrel => ?_, joined_spaces l va w x mark rel s⟩⟩
  · obtain ⟨hexec, hw⟩ := joins_exec p hp
    exact (hexec a v s).trans (issue_gives hi (joinScalar_gives ha hv hvs hm hl (refuseJoin_none hw h2 h9 h16) hal hrel hj))
  · exact (xjoins_exec p hp a v s).trans (issue_gives hi (xjoinScalar_gives ha hv hvs hm hl hty hal hx hrel hj))
  · subst hrel
    exact joined_released l va w x mark s
  · subst hrel
    exact ⟨fun pre y rest hhold hpre hy => joined_merged l va w x mark s hhold hpre hy,
      fun hn hlen => joined_appended l va w x mark s hn hlen,
      fun y rest hhold hn hlen => joined_full l va w x mark s hhold hn hlen⟩

end Sys2Proof.Machine
end

section
/-! PROOFS. Waits, probes and exact reads (R224 to R228), freezes and fallows (R229, R230). -/
namespace Sys2Proof.Machine
open Sys2Proof.Claims

/-! R224 to R226: a wait with its answer, and one without. -/

section
variable {s s1 t : State} {d a g : Scalar} {ea : Word} {r : Reply}

theorem passedOr_gives (ea : Word) (k : Nat) (first : Word) (s : State) :
    Gives (passedOr ea (.passed k first)) s (k, first) s := gives_pure _ s

theorem endWait_gives {mark : Bool} {k : Nat} {first : Word} {pick : Nat → Word → Word}
    (h : Gives (writeScalar d { bits := pick k first, mark := mark }) s () t) :
    Gives (endWait d ea mark (.passed k first) pick) s .done (afterAcquire t) :=
  gives_bind (passedOr_gives ea k first s) (gives_bind h (gives_bind (acquire_gives t) (gives_pure _ _)))

/-- What a wait that has sent its test does. -/
def waitFlow (s : State) : Flow :=
  if s.watches.any (fun w => w.who == .ctx s.cur.key s.cur.nextReq) then .park .reply else .stall

theorem waitReply_gives (s : State) : Gives waitReply s (waitFlow s) s := rfl

theorem waitFlow_parks (h : ∃ w ∈ s.watches, w.who = .ctx s.cur.key s.cur.nextReq) : waitFlow s = .park .reply := by
  obtain ⟨w, hw, hwho⟩ := h
  exact if_pos (List.any_eq_true.2 ⟨w, hw, by simp [hwho]⟩)

theorem waitFlow_stalls (h : ∀ w ∈ s.watches, w.who ≠ .ctx s.cur.key s.cur.nextReq) : waitFlow s = .stall :=
  if_neg fun hany => by
    obtain ⟨w, hw, hwho⟩ := List.any_eq_true.1 hany
    exact h w hw (beq_iff_eq.1 hwho)

/-- An instruction that then ends by `waitReply` still asks. -/
theorem stillAsks_of_ends {i : Instr} (h : s1.cur.reply = none → s1.cur.asked = true → Ends i s (waitFlow s1) s1) :
    StillAsks i s s1 := by
  intro hr ha
  refine ⟨fun hw => ?_, fun hw => ?_⟩
  · rw [← waitFlow_parks hw]
    exact h hr ha
  · rw [← waitFlow_stalls hw]
    exact h hr ha

variable {trig : Scalar} {vs : List Val}

theorem awaitCell_reply_gives {k : Nat} {first : Word} (ha : srcBound a s) (ht : srcBound trig s) (hd : dstBound d s)
    (hvs : Operands [a, trig] s vs s1) (hm : (nthVal vs 0).mark = false) (hr : s1.cur.reply = some r)
    (hp : r.r = .passed k first) (hw : Gives (writeScalar d { bits := 0, mark := (nthVal vs 1).mark }) s1 () t) :
    Gives (awaitCell d a trig) s .done (afterAcquire t) := by
  refine gives_bind ha (gives_bind ht (gives_bind hd (gives_bind hvs (gives_bind (useClean_gives hm s1)
    (gives_bind (cur_gives s1) ?_)))))
  rw [hr]
  dsimp only
  rw [hp]
  exact endWait_gives (pick := fun _ _ => 0) hw

theorem awaitCell_asked_gives (ha : srcBound a s) (ht : srcBound trig s) (hd : dstBound d s)
    (hvs : Operands [a, trig] s vs s1) (hm : (nthVal vs 0).mark = false) (hr : s1.cur.reply = none)
    (hask : s1.cur.asked = true) : Gives (awaitCell d a trig) s (waitFlow s1) s1 := by
  refine gives_bind ha (gives_bind ht (gives_bind hd (gives_bind hvs (gives_bind (useClean_gives hm s1)
    (gives_bind (cur_gives s1) ?_)))))
  rw [hr, hask]
  exact waitReply_gives s1

theorem awaitFilledCell_reply_gives {k : Nat} {first : Word} (ha : srcBound a s) (hd : dstBound d s)
    (hvs : Operands [a] s vs s1) (hm : (nthVal vs 0).mark = false) (hr : s1.cur.reply = some r)
    (hp : r.r = .passed k first) (hw : Gives (writeScalar d { bits := first, mark := false }) s1 () t) :
    Gives (awaitFilledCell d a) s .done (afterAcquire t) := by
  refine gives_bind ha (gives_bind hd (gives_bind hvs (gives_bind (useClean_gives hm s1) (gives_bind (cur_gives s1) ?_))))
  rw [hr]
  dsimp only
  rw [hp]
  exact endWait_gives (pick := fun _ first => first) hw

theorem awaitFilledCell_asked_gives (ha : srcBound a s) (hd : dstBound d s) (hvs : Operands [a] s vs s1)
    (hm : (nthVal vs 0).mark = false) (hr : s1.cur.reply = none) (hask : s1.cur.asked = true) :
    Gives (awaitFilledCell d a) s (waitFlow s1) s1 := by
  refine gives_bind ha (gives_bind hd (gives_bind hvs (gives_bind (useClean_gives hm s1) (gives_bind (cur_gives s1) ?_))))
  rw [hr, hask]
  exact waitReply_gives s1

theorem awaitAnyCell_reply_gives {k : Nat} {first : Word} (ha : srcBound a s) (hg : srcBound g s) (hd : dstBound d s)
    (hvs : Operands [a, g] s vs s1) (hm : (nthVal vs 0).mark = false) (hm1 : (nthVal vs 1).mark = false)
    (hr : s1.cur.reply = some r) (hp : r.r = .passed k first)
    (hw : Gives (writeScalar d { bits := BitVec.ofNat 64 k, mark := (vs.drop 2).any Val.mark }) s1 () t) :
    Gives (awaitAnyCell d a g) s .done (afterAcquire t) := by
  refine gives_bind ha (gives_bind hg (gives_bind hd (gives_bind hvs (gives_bind (useClean_gives hm s1)
    (gives_bind (useClean_gives hm1 s1) (gives_bind (cur_gives s1) ?_))))))
  rw [hr]
  dsimp only
  rw [hp]
  exact endWait_gives (pick := fun i _ => BitVec.ofNat 64 i) hw

theorem awaitAnyCell_asked_gives (ha : srcBound a s) (hg : srcBound g s) (hd : dstBound d s)
    (hvs : Operands [a, g] s vs s1) (hm : (nthVal vs 0).mark = false) (hm1 : (nthVal vs 1).mark = false)
    (hr : s1.cur.reply = none) (hask : s1.cur.asked = true) : Gives (awaitAnyCell d a g) s (waitFlow s1) s1 := by
  refine gives_bind ha (gives_bind hg (gives_bind hd (gives_bind hvs (gives_bind (useClean_gives hm s1)
    (gives_bind (useClean_gives hm1 s1) (gives_bind (cur_gives s1) ?_))))))
  rw [hr]
  dsimp only
  rw [hask]
  exact waitReply_gives s1

/-! R227, R228: PROBE and LDX. -/

/-- What PROBE's answer makes it write. -/
theorem probeCode_gives {x : Word} (s : State) (h : (r.r = .notPassed ∧ x = 0) ∨ (∃ k f, r.r = .passed k f ∧ x = 1) ∨
      (r.r = .poison ∧ x = 2) ∨ (r.r = .unreachable ∧ x = 3)) :
    ∃ n, Gives (probeCode ea r.r) s n s ∧ BitVec.ofNat 64 n = x := by
  rcases h with ⟨hr, rfl⟩ | ⟨k, f, hr, rfl⟩ | ⟨hr, rfl⟩ | ⟨hr, rfl⟩ <;> rw [hr] <;> exact ⟨_, gives_pure _ s, rfl⟩

theorem endProbe_gives {mark : Bool} {x : Word} {s2 : State} (hw : Gives (writeScalar d { bits := x, mark := mark }) s () s2)
    (hlog : Gives (do logOutcome 0 [x]; markNd) s2 () t) : Gives (endProbe d mark x) s .done t := by
  refine gives_bind hw ?_
  have := gives_bind (k := fun _ => pure Flow.done) hlog (gives_pure Flow.done t)
  rwa [bind_assoc] at this

theorem probeCell_gives {x : Word} {s2 : State} (hstrict : s.cur.strict = false) (ha : srcBound a s) (hg : srcBound g s)
    (hd : dstBound d s) (hvs : Operands [a, g] s vs s1) (hm : (nthVal vs 0).mark = false) (hr : s1.cur.reply = some r)
    (hx : (r.r = .notPassed ∧ x = 0) ∨ (∃ k f, r.r = .passed k f ∧ x = 1) ∨ (r.r = .poison ∧ x = 2) ∨
      (r.r = .unreachable ∧ x = 3))
    (hw : Gives (writeScalar d { bits := x, mark := (nthVal vs 1).mark }) s1 () s2)
    (hlog : Gives (do logOutcome 0 [x]; markNd) s2 () t) : Gives (probeCell d a g) s .done t := by
  refine gives_bind (cur_gives s) (gives_bind (check_of_true (by rw [hstrict]; rfl) _ _ s) (gives_bind ha (gives_bind hg
    (gives_bind hd (gives_bind hvs (gives_bind (useClean_gives hm s1) (gives_bind (cur_gives s1) ?_)))))))
  obtain ⟨n, hn, rfl⟩ := probeCode_gives (ea := (nthVal vs 0).bits) s1 hx
  rw [hr]
  exact gives_bind hn (endProbe_gives hw hlog)

theorem fieldType_true {ty : Nat} (h1 : 1 ≤ ty) (h10 : ty ≤ 10) : fieldType ty = true := by
  simp [fieldType, h1, h10]

theorem loadExact_gives {n : Nat} {s2 s3 s4 : State} {l : Leaf} {x : LineSnap} (ha : srcBound a s) (hd : dstBound d s)
    (hvs : Operands [a] s vs s1) (hm : (nthVal vs 0).mark = false) (hl : Admitted .read (nthVal vs 0).bits s1 l s2)
    (h1 : 1 ≤ l.ty) (h10 : l.ty ≤ 10) (hal : (nthVal vs 0).bits.toNat % n = 0)
    (hob : Gives (obtain true [(l, (nthVal vs 0).bits.toNat)]) s2 true s3)
    (hx : Gives (obtained l (nthVal vs 0).bits.toNat) s3 x s4)
    (hw : Gives (writeScalar d
        { bits := BitVec.ofNat 64 (x.data.toNat / 2 ^ (8 * ((nthVal vs 0).bits.toNat % 128)) % 2 ^ (8 * n))
          mark := decide (x.marks.toNat / 2 ^ ((nthVal vs 0).bits.toNat % 128) % 2 ^ n ≠ 0) }) s4 () t) :
    Gives (loadExact n d a) s .done t :=
  gives_bind ha (gives_bind hd (gives_bind hvs (gives_bind (useClean_gives hm s1)
    (gives_bind (fieldAccess_gives hl (onlyTypes_none (fieldType_true h1 h10)))
    (gives_bind (check_of_true (decide_eq_true hal) _ _ s2) (gives_bind hob (gives_bind hx
    (gives_bind hw (gives_pure _ _)))))))))

end

/-- Settles O14. -/
theorem fieldWaitsAndReadsComplete : Obligations.FieldWaitsAndReadsComplete := by
  refine ⟨fun d a t s s1 u vs r k first hi hsrc hd hvs hm hr hp hw => ?_,
    fun d a s s1 u vs r k first hi hsrc hd hvs hm hr hp hw => ?_,
    fun d a t s s1 vs hi hsrc hd hvs hm => stillAsks_of_ends fun hr hask => ?_,
    fun d a s s1 vs hi hsrc hd hvs hm => stillAsks_of_ends fun hr hask => ?_,
    fun d a g s s1 vs hi ha hg hd hvs hm hm1 => stillAsks_of_ends fun hr hask => ?_,
    fun d a g s s1 t vs r k first hi ha hg hd hvs hm hm1 hr hp hw => ?_,
    fun d a g s s1 s2 t vs r x hi hstrict ha hg hd hvs hm hr hx hw hlog => ?_, ?_⟩
  · have ha := hsrc a (List.mem_cons_self ..)
    have ht := hsrc t (List.mem_cons_of_mem _ (List.mem_cons_self ..))
    exact issue_gives hi (awaitCell_reply_gives ha ht hd hvs hm hr hp hw)
  · exact issue_gives hi (awaitFilledCell_reply_gives (hsrc a (List.mem_cons_self ..)) hd hvs hm hr hp hw)
  · have ha := hsrc a (List.mem_cons_self ..)
    have ht := hsrc t (List.mem_cons_of_mem _ (List.mem_cons_self ..))
    exact issue_gives hi (awaitCell_asked_gives ha ht hd hvs hm hr hask)
  · exact issue_gives hi (awaitFilledCell_asked_gives (hsrc a (List.mem_cons_self ..)) hd hvs hm hr hask)
  · exact issue_gives hi (awaitAnyCell_asked_gives ha hg hd hvs hm hm1 hr hask)
  · exact issue_gives hi (awaitAnyCell_reply_gives ha hg hd hvs hm hm1 hr hp hw)
  · exact issue_gives hi (probeCell_gives hstrict ha hg hd hvs hm hr hx hw hlog)
  · simp only [List.forall_mem_cons, List.not_mem_nil, false_imp_iff, implies_true, and_true]
    exact ⟨fun d a s s1 s2 s3 s4 t vs l x hi ha hd hvs hm hl h1 h10 hal hob hx hw =>
        issue_gives hi (loadExact_gives ha hd hvs hm hl h1 h10 hal hob hx hw),
      fun d a s s1 s2 s3 s4 t vs l x hi ha hd hvs hm hl h1 h10 hal hob hx hw =>
        issue_gives hi (loadExact_gives ha hd hvs hm hl h1 h10 hal hob hx hw)⟩

/-! Accesses that are on their way when held joins leave (R340, R341). -/

section
variable {s t : State}

theorem forall₂_freed_find {l l' : List Context} (h : List.Forall₂ Context.Freed l l') (k : Key) :
    Option.Rel Context.Freed (l.find? fun c => c.key == k) (l'.find? fun c => c.key == k) := by
  induction h with
  | nil => exact .none
  | @cons c c' l l' hc _ ih =>
    rw [List.find?_cons, List.find?_cons, hc.key]
    split
    · exact .some hc
    · exact ih

theorem State.Freed.ctx (h : s.Freed t) (k : Key) : Option.Rel Context.Freed (s.ctx? k) (t.ctx? k) := by
  obtain ⟨cur, ctxs, cores, msgs, n, rfl, hcur, hctxs⟩ := h
  rw [State.ctx?, State.ctx?]
  dsimp only
  rw [hcur.key]
  split
  · exact .some hcur
  · exact forall₂_freed_find hctxs k

/-- What is acknowledged does not hang on where the others stand. -/
theorem State.Freed.acked (h : s.Freed t) (o : Key × Nat) : t.acked o = s.acked o := by
  have hctx := h.ctx o.1
  rw [State.acked, State.acked]
  generalize s.ctx? o.1 = a at hctx
  generalize t.ctx? o.1 = b at hctx
  cases hctx with
  | none => rfl
  | some hc => exact congrArg (!·) (hc.any_n o.2)

/-- An access on its way is still on its way. -/
theorem Context.Freed.outsOf {c c' : Context} (h : c.Freed c') {core : Nat} {p : Out → Bool}
    (hp : ∀ o b, p { o with held := b } = p o) {w : Key × Nat}
    (hw : w ∈ (c.outs.filter (fun o => (o.core == core || c.core == core) && !o.held && p o)).map (fun o => (c.key, o.n))) :
    w ∈ (c'.outs.filter (fun o => (o.core == core || c'.core == core) && !o.held && p o)).map (fun o => (c'.key, o.n)) := by
  obtain ⟨o, ho, rfl⟩ := List.mem_map.1 hw
  obtain ⟨hmem, hcond⟩ := List.mem_filter.1 ho
  simp only [Bool.and_eq_true, Bool.not_eq_true'] at hcond
  obtain ⟨o', ho', heq, hheld⟩ := h.out hmem
  have hheld' : o'.held = false := by
    cases hh : o'.held with
    | false => rfl
    | true =>
      rw [hheld hh] at hcond
      exact absurd hcond.1.2 (by decide)
  have hcore : c'.core = c.core := by
    obtain ⟨g, -, -, rfl⟩ := h
    rfl
  refine List.mem_map.2 ⟨o', List.mem_filter.2 ⟨ho', ?_⟩, ?_⟩
  · have hpo : p o' = true := by
      rw [heq, hp]
      exact hcond.2
    rw [hheld', hcore, hpo, show o'.core = o.core by rw [heq], hcond.1.1]
    rfl
  · rw [h.key, show o'.n = o.n by rw [heq]]

theorem State.Freed.allCtxs (h : s.Freed t) : List.Forall₂ Context.Freed s.allCtxs t.allCtxs := by
  obtain ⟨cur, ctxs, cores, msgs, n, rfl, hcur, hctxs⟩ := h
  rw [State.allCtxs, State.allCtxs]
  dsimp only
  split
  · exact .cons hcur hctxs
  · exact hctxs

theorem State.Freed.outsOf (h : s.Freed t) {core : Nat} {p : Out → Bool} (hp : ∀ o b, p { o with held := b } = p o)
    {w : Key × Nat} (hw : w ∈ s.outsOf core p) : w ∈ t.outsOf core p := by
  have hall := h.allCtxs
  rw [State.outsOf] at hw ⊢
  generalize s.allCtxs = l at hall hw
  generalize t.allCtxs = l' at hall ⊢
  induction hall with
  | nil => exact hw
  | cons hc _ ih =>
    rw [List.flatMap_cons, List.mem_append] at hw ⊢
    exact hw.imp (hc.outsOf hp) ih

end

/-! R229, R230, R74, R77. -/

section
variable {s s1 s2 s3 t : State} {a n : Scalar} {vs : List Val} {ea len : Word}

/-- FREEZE once its operands are read. -/
def freezeSteps (ea n : Word) : M Flow := do
  if (← cur).phase = 0 then
    rangeOperands 128 ea n
    let pages ← rangePages (onlyTypes fieldType) ea.toNat n.toNat
    if !(← waitAcks false) then return .park (.acks .fills)
    deliverPosted
    goBehind (fun _ h => rangeHas pages ea.toNat n.toNat (h.req.cell / 128)) (rangeHas pages ea.toNat n.toNat)
  if (← cur).phase = 1 then
    if !(← freezeBehind (onlyTypes fieldType) ea.toNat n.toNat) then return .park (.acks .ahead)
  if !(← waitAcks false) then return .park (.acks .fills)
  ownFailure
  return .done

/-- FALLOW once its operands are read. -/
def fallowSteps (ea n : Word) : M Flow := do
  if (← cur).phase = 0 then
    rangeOperands 4096 ea n
    let pages ← rangePages refuseFallow ea.toNat n.toNat
    match pages.find? (fun p => p.2.remote) with
    | some p => raiseInfo (pageFault .permission p.1 p.2)
    | none => pure ()
    if !(← waitAcks false) then return .park (.acks .fills)
    goBehind (fun _ h => rangeHas pages ea.toNat n.toNat (h.req.cell / 128)) (rangeHas pages ea.toNat n.toNat)
  if (← cur).phase = 1 then
    if !(← freezeBehind refuseFallow ea.toNat n.toNat) then return .park (.acks .ahead)
  if (← cur).phase = 2 then
    if !(← waitAcks false) then return .park (.acks .fills)
    ownFailure
    let c ← cur
    modify fun s =>
      (((s.leaves c.asid ea.toNat n.toNat).map (fun p => p.2.1)).foldl State.bumpGen s).startInval (some c.key)
        c.asid ea.toNat n.toNat
    modCur fun c => { c with phase := 3 }
  let s ← get
  if s.invals.any (fun v => v.by_ == some s.cur.key) then return .park .invalidation
  modify fun s => s.resetLines s.cur.asid ea.toNat n.toNat
  return .done

theorem freezeRange_gives {f : Flow} (ha : srcBound a s) (hn : srcBound n s) (hvs : Operands [a, n] s vs s1)
    (hm : (nthVal vs 0).mark = false) (hm1 : (nthVal vs 1).mark = false)
    (h : Gives (freezeSteps (nthVal vs 0).bits (nthVal vs 1).bits) s1 f t) : Gives (freezeRange a n) s f t :=
  gives_bind ha (gives_bind hn (gives_bind hvs (gives_bind (useClean_gives hm s1) (gives_bind (useClean_gives hm1 s1) h))))

theorem fallowRange_gives {f : Flow} (ha : srcBound a s) (hn : srcBound n s) (hvs : Operands [a, n] s vs s1)
    (hm : (nthVal vs 0).mark = false) (hm1 : (nthVal vs 1).mark = false)
    (h : Gives (fallowSteps (nthVal vs 0).bits (nthVal vs 1).bits) s1 f t) : Gives (fallowRange a n) s f t :=
  gives_bind ha (gives_bind hn (gives_bind hvs (gives_bind (useClean_gives hm s1) (gives_bind (useClean_gives hm1 s1) h))))

theorem ownFailure_gives (h : s.cur.posted = []) : Gives ownFailure s () s := by
  refine gives_bind (cur_gives s) ?_
  rw [h]
  exact gives_pure _ _

/-- The freezes have gone out, and every home has confirmed. -/
theorem freezeSteps_confirmed (hphase : s.cur.phase = 2) (hack : Acknowledged false s t) (hp : t.cur.posted = []) :
    Gives (freezeSteps ea len) s .done t := by
  refine gives_bind (cur_gives s) ?_
  rw [if_neg (by rw [hphase]; decide)]
  refine gives_bind (cur_gives s) ?_
  rw [if_neg (by rw [hphase]; decide)]
  exact gives_bind (waitAcks_gives hack) (gives_bind (ownFailure_gives hp) (gives_pure _ _))

/-- The invalidation has ended. -/
theorem fallowSteps_invalidated (hphase : s.cur.phase = 3) (hinv : ∀ v ∈ s.invals, v.by_ ≠ some s.cur.key) :
    Gives (fallowSteps ea len) s .done (s.resetLines s.cur.asid ea.toNat len.toNat) := by
  have hany : (s.invals.any fun v => v.by_ == some s.cur.key) = false :=
    List.any_eq_false.2 fun v hv hb => hinv v hv (by simpa using hb)
  refine gives_bind (cur_gives s) ?_
  rw [if_neg (by rw [hphase]; decide)]
  refine gives_bind (cur_gives s) ?_
  rw [if_neg (by rw [hphase]; decide)]
  refine gives_bind (cur_gives s) ?_
  rw [if_neg (by rw [hphase]; decide)]
  refine gives_bind (get_gives s) ?_
  rw [hany]
  exact rfl

theorem behindAll_gives (s : State) : Gives behindAll s (s.cur.ahead.all s.acked) s := rfl

/-- Something that the context has noted is not acknowledged. -/
theorem freezeBehind_waits {refuse : Leaf → Option FaultCode} {x y : Nat} (h : ∃ w ∈ s.cur.ahead, s.acked w = false) :
    Gives (freezeBehind refuse x y) s false s := by
  have hall : s.cur.ahead.all s.acked = false := by
    obtain ⟨w, hw, hack⟩ := h
    exact List.all_eq_false.2 ⟨w, hw, by rw [hack]; decide⟩
  refine gives_bind (behindAll_gives s) ?_
  rw [hall]
  exact gives_pure _ _

theorem freezeSteps_waits (hphase : s.cur.phase = 1) (h : ∃ w ∈ s.cur.ahead, s.acked w = false) :
    Gives (freezeSteps ea len) s (.park (.acks .ahead)) s := by
  refine gives_bind (cur_gives s) ?_
  rw [if_neg (by rw [hphase]; decide)]
  refine gives_bind (cur_gives s) ?_
  rw [if_pos hphase]
  exact gives_bind (freezeBehind_waits h) (gives_pure _ _)

theorem fallowSteps_waits (hphase : s.cur.phase = 1) (h : ∃ w ∈ s.cur.ahead, s.acked w = false) :
    Gives (fallowSteps ea len) s (.park (.acks .ahead)) s := by
  refine gives_bind (cur_gives s) ?_
  rw [if_neg (by rw [hphase]; decide)]
  refine gives_bind (cur_gives s) ?_
  rw [if_pos hphase]
  exact gives_bind (freezeBehind_waits h) (gives_pure _ _)

/-- The state once the held joins to the lines of `at_` have left and the context stands behind what is on its way to them. -/
def behind (at_ : Nat → Bool) (s : State) : State :=
  let d := s.drainHeld s.cur.core (fun h => at_ (h.req.cell / 128))
  { d with cur := { d.cur with phase := 1, ahead := d.outsOf s.cur.core (fun o => !o.store && at_ o.line) } }

theorem goBehind_gives (at_ : Nat → Bool) (s : State) :
    Gives (goBehind (fun _ h => at_ (h.req.cell / 128)) at_) s () (behind at_ s) := rfl

/-- Noting what a context stands behind acknowledges nothing. -/
theorem acked_noted (d : State) (ws : List (Key × Nat)) (w : Key × Nat) :
    ({ d with cur := { d.cur with phase := 1, ahead := ws } } : State).acked w = d.acked w := by
  rw [State.acked, State.acked, State.ctx?, State.ctx?]
  by_cases h : (d.busy && d.cur.key == w.1) = true
  · rw [if_pos h, if_pos h]
  · rw [if_neg h, if_neg h]

section
variable (at_ : Nat → Bool) (s : State)

theorem behind_acked (w : Key × Nat) : (behind at_ s).acked w = s.acked w :=
  (acked_noted _ _ w).trans ((freed_drainHeld s _ _).acked w)

/-- Everything of the core on its way to the lines is noted. -/
theorem mem_behind_ahead {w : Key × Nat} (hw : w ∈ s.outsOf s.cur.core (fun o => !o.store && at_ o.line)) :
    w ∈ (behind at_ s).cur.ahead := (freed_drainHeld s _ _).outsOf (fun _ _ => rfl) hw

/-- No join to the lines is held any more. -/
theorem behind_hold : ∀ h ∈ ((behind at_ s).core s.cur.core).hold, at_ (h.req.cell / 128) = false := by
  intro h hh
  have heq : ((behind at_ s).core s.cur.core).hold = (s.core s.cur.core).hold.filter fun h => !at_ (h.req.cell / 128) :=
    drainHeld_hold s s.cur.core fun h => at_ (h.req.cell / 128)
  rw [heq] at hh
  simpa using (List.mem_filter.1 hh).2

theorem behind_spaces : (behind at_ s).mem = s.mem ∧ (behind at_ s).md = s.md := by
  obtain ⟨cur, ctxs, cores, msgs, n, heq, -⟩ := freed_drainHeld s s.cur.core fun h => at_ (h.req.cell / 128)
  rw [behind, heq]
  exact ⟨rfl, rfl⟩

end

/-- Both instructions before their freezes go out: what they wait for, and where they then stand. -/
def GoesBehind (body : M Flow) (s : State) (at_ : Nat → Bool) (s3 : State) : Prop :=
  (∃ w ∈ s3.outsOf s3.cur.core (fun o => !o.store && at_ o.line), s3.acked w = false) →
    Gives body s (.park (.acks .ahead)) (behind at_ s3)

theorem behind_unacked {at_ : Nat → Bool}
    (h : ∃ w ∈ s.outsOf s.cur.core (fun o => !o.store && at_ o.line), s.acked w = false) :
    ∃ w ∈ (behind at_ s).cur.ahead, (behind at_ s).acked w = false := by
  obtain ⟨w, hw, hack⟩ := h
  exact ⟨w, mem_behind_ahead at_ s hw, (behind_acked at_ s w).trans hack⟩

variable {pages : List (Nat × Leaf)}

theorem freezeSteps_begins (hphase : s.cur.phase = 0) (hops : Gives (rangeOperands 128 ea len) s () s)
    (hpages : Gives (rangePages (onlyTypes fieldType) ea.toNat len.toNat) s pages s2) (hack : Acknowledged false s2 s3)
    (hp : s3.cur.posted = []) : GoesBehind (freezeSteps ea len) s (rangeHas pages ea.toNat len.toNat) s3 := by
  intro h
  refine gives_bind (cur_gives s) ?_
  rw [if_pos hphase]
  refine gives_bind hops (gives_bind hpages (gives_bind (waitAcks_gives hack) (gives_bind (deliverPosted_gives hp)
    (gives_bind (goBehind_gives _ s3) (gives_bind (cur_gives _) ?_)))))
  exact gives_bind (freezeBehind_waits (behind_unacked h)) (gives_pure _ _)

theorem fallowSteps_begins (hphase : s.cur.phase = 0) (hops : Gives (rangeOperands 4096 ea len) s () s)
    (hpages : Gives (rangePages (onlyTypes fieldType) ea.toNat len.toNat) s pages s2)
    (hlocal : ∀ x ∈ pages, x.2.remote = false) (hack : Acknowledged false s2 s3) :
    GoesBehind (fallowSteps ea len) s (rangeHas pages ea.toNat len.toNat) s3 := by
  intro h
  have hfind : pages.find? (fun p => p.2.remote) = none :=
    List.find?_eq_none.2 fun x hx => by rw [hlocal x hx]; decide
  refine gives_bind (cur_gives s) ?_
  rw [if_pos hphase]
  refine gives_bind hops (gives_bind hpages ?_)
  rw [hfind]
  refine gives_bind (waitAcks_gives hack) (gives_bind (goBehind_gives _ s3) (gives_bind (cur_gives _) ?_))
  exact gives_bind (freezeBehind_waits (behind_unacked h)) (gives_pure _ _)

/-- What either instruction leaves when it parks behind what is on its way. -/
theorem parked_behind {i : Instr} {body : M Flow} {at_ : Nat → Bool} (hi : issues i s = true)
    (hexec : ∀ s, exec i s = issue i body s) (hb : GoesBehind body s at_ s3) :
    let ahead := s3.outsOf s3.cur.core (fun o => !o.store && at_ o.line)
    (∃ w ∈ ahead, s3.acked w = false) →
      ∃ t : State, Ends i s (.park (.acks .ahead)) t ∧ t.cur.phase = 1 ∧ (∀ w ∈ ahead, w ∈ t.cur.ahead) ∧
        (∀ h ∈ (t.core s3.cur.core).hold, at_ (h.req.cell / 128) = false) ∧ t.mem = s3.mem ∧ t.md = s3.md :=
  fun h => ⟨_, (hexec s).trans (issue_gives hi (hb h)), rfl, fun _ hw => mem_behind_ahead at_ s3 hw, behind_hold at_ s3,
    behind_spaces at_ s3⟩

end

theorem goesBehind_freeze {s s1 s3 : State} {a n : Scalar} {vs : List Val} {at_ : Nat → Bool} (ha : srcBound a s)
    (hn : srcBound n s) (hvs : Operands [a, n] s vs s1) (hm : (nthVal vs 0).mark = false) (hm1 : (nthVal vs 1).mark = false)
    (h : GoesBehind (freezeSteps (nthVal vs 0).bits (nthVal vs 1).bits) s1 at_ s3) : GoesBehind (freezeRange a n) s at_ s3 :=
  fun hw => freezeRange_gives ha hn hvs hm hm1 (h hw)

theorem goesBehind_fallow {s s1 s3 : State} {a n : Scalar} {vs : List Val} {at_ : Nat → Bool} (ha : srcBound a s)
    (hn : srcBound n s) (hvs : Operands [a, n] s vs s1) (hm : (nthVal vs 0).mark = false) (hm1 : (nthVal vs 1).mark = false)
    (h : GoesBehind (fallowSteps (nthVal vs 0).bits (nthVal vs 1).bits) s1 at_ s3) : GoesBehind (fallowRange a n) s at_ s3 :=
  fun hw => fallowRange_gives ha hn hvs hm hm1 (h hw)

/-- Settles O15. -/
theorem freezesAndFallowsComplete : Obligations.FreezesAndFallowsComplete := by
  refine ⟨fun a n s s1 t vs hi ha hn hvs hm hm1 hphase hack hp => issue_gives hi
      (freezeRange_gives ha hn hvs hm hm1 (freezeSteps_confirmed hphase hack hp)),
    fun a n s s1 vs hi ha hn hvs hm hm1 hphase hinv => issue_gives hi
      (fallowRange_gives ha hn hvs hm hm1 (fallowSteps_invalidated hphase hinv)), ?_, ?_⟩
  · simp only [rangeInstrs, List.forall_mem_cons, List.not_mem_nil, false_imp_iff, implies_true, and_true]
    exact ⟨fun a n s s1 s2 s3 vs pages hi ha hn hvs hm hm1 hphase hops hpages _ hack hp => parked_behind hi (fun _ => rfl)
        (goesBehind_freeze ha hn hvs hm hm1 (freezeSteps_begins hphase hops hpages hack hp)),
      fun a n s s1 s2 s3 vs pages hi ha hn hvs hm hm1 hphase hops hpages hlocal hack _ => parked_behind hi (fun _ => rfl)
        (goesBehind_fallow ha hn hvs hm hm1 (fallowSteps_begins hphase hops hpages hlocal hack))⟩
  · simp only [rangeInstrs, List.forall_mem_cons, List.not_mem_nil, false_imp_iff, implies_true, and_true]
    exact ⟨fun a n s s1 vs hi ha hn hvs hm hm1 hphase h => issue_gives hi
        (freezeRange_gives ha hn hvs hm hm1 (freezeSteps_waits hphase h)),
      fun a n s s1 vs hi ha hn hvs hm hm1 hphase h => issue_gives hi
        (fallowRange_gives ha hn hvs hm hm1 (fallowSteps_waits hphase h))⟩

end Sys2Proof.Machine
end

section
/-! PROOFS. Scalar loads and stores, and the reads of frozen lines (R214 to R217). -/
namespace Sys2Proof.Machine
open Sys2Proof.Claims

/-- The address of a load or store is the one of R215. -/
theorem scalarAddr_eq (base : Word) (off : BitVec 11) (size : Fin 4) : scalarAddr base off size = effective base off size := by
  have hoff : sext64 off = BitVec.ofInt 64 off.toInt := by
    rw [sext64, ← BitVec.toInt_signExtend_of_le (x := off) (v := 64) (by decide), BitVec.ofInt_toInt]
  rw [scalarAddr, effective, BitVec.ofInt_add, BitVec.ofInt_mul, ← hoff, BitVec.ofInt_natCast, BitVec.ofInt_natCast,
    BitVec.ofNat_toNat, BitVec.setWidth_eq]

section
variable {s s1 s2 s3 s4 t : State} {d b v : Scalar} {size : Fin 4} {off : BitVec 11} {pl : Place}

theorem loadScalar_gives {vs : List Val} {ext : Nat → Nat → Word} {x m : Nat} (hb : srcBound b s) (hd : dstBound d s)
    (hvs : Operands [b] s vs s1) (hm : (nthVal vs 0).mark = false)
    (hal : (effective (nthVal vs 0).bits off size).toNat % 2 ^ size.val = 0)
    (hpl : Gives (access .read (2 ^ size.val) (effective (nthVal vs 0).bits off size).toNat) s1 pl s2)
    (hwait : Gives (placeWaits .read pl (2 ^ size.val)) s2 false s3)
    (hx : Gives (readPlace pl (2 ^ size.val) (effective (nthVal vs 0).bits off size).toNat) s3 (some (x, m)) s4)
    (hw : Gives (writeScalar d { bits := ext (8 * 2 ^ size.val) x, mark := decide (m ≠ 0) }) s4 () t) :
    Gives (loadScalar d b size off ext) s .done t := by
  rw [← scalarAddr_eq] at hal hpl hx
  exact gives_bind hb (gives_bind hd (gives_bind hvs (gives_bind (useClean_gives hm s1)
    (gives_bind (check_of_true (decide_eq_true hal) _ _ s1) (gives_bind hpl (gives_bind hwait (gives_bind hx
    (gives_bind hw (gives_pure _ _)))))))))

/-- Each instruction of the list is the load with its extension. -/
theorem loads_exec : ∀ p ∈ loads, ∀ d b size off s,
    exec (p.1 d b size off) s = issue (p.1 d b size off) (loadScalar d b size off p.2) s := by
  simp only [loads, List.forall_mem_cons, List.not_mem_nil, false_imp_iff, implies_true, and_true]
  exact ⟨fun _ _ _ _ _ => rfl, fun _ _ _ _ _ => rfl⟩

/-- A store into a DEVICE page waits for no other. -/
def DeviceFree (pl : Place) (s : State) : Prop := ∀ l, pl = .page l → l.ty = 11 → ∀ o ∈ s.cur.outs, o.store = false

theorem storeScalar_gives {x : Word} {y : Val} (hb : srcBound b s) (hv : srcBound v s) (hx : Gives (readClean b) s x s1)
    (hal : (effective x off size).toNat % 2 ^ size.val = 0)
    (hpl : Gives (access .write (2 ^ size.val) (effective x off size).toNat) s1 pl s2)
    (hwait : Gives (placeWaits .write pl (2 ^ size.val)) s2 false s3) (hfree : DeviceFree pl s3)
    (hchip : Gives (checkChip pl (2 ^ size.val) (effective x off size).toNat) s3 () s3) (hy : Gives (readScalar v) s3 y s4)
    (hw : Gives (writePlace pl (2 ^ size.val) (effective x off size).toNat (y.bits.toNat % 2 ^ (8 * 2 ^ size.val))
      (if y.mark then 2 ^ 2 ^ size.val - 1 else 0)) s4 () t) : Gives (storeScalar v b size off) s .done t := by
  rw [← scalarAddr_eq] at hal hpl hchip hw
  refine gives_bind hb (gives_bind hv (gives_bind hx (gives_bind (check_of_true (decide_eq_true hal) _ _ s1)
    (gives_bind hpl (gives_bind hwait ?_)))))
  have hrest : Gives (do
      checkChip pl (2 ^ size.val) (scalarAddr x off size).toNat
      let y ← readScalar v
      writePlace pl (2 ^ size.val) (scalarAddr x off size).toNat (y.bits.toNat % 2 ^ (8 * 2 ^ size.val))
        (if y.mark then 2 ^ 2 ^ size.val - 1 else 0)
      return Flow.done) s3 .done t :=
    gives_bind hchip (gives_bind hy (gives_bind hw (gives_pure Flow.done t)))
  cases pl with
  | page l =>
    refine gives_bind (cur_gives s3) ?_
    have hno : (decide (l.ty = 11) && s3.cur.outs.any fun o => o.store) = false := by
      rw [Bool.and_eq_false_iff, decide_eq_false_iff_not, or_iff_not_imp_left, not_not]
      exact fun hty => List.any_eq_false.2 fun o ho => by rw [hfree l rfl hty o ho]; decide
    rw [hno]
    exact hrest
  | stack _ | slice _ | chip _ _ | device _ => exact hrest

end

/-! R109, R111, R214: a line of constants or code, from a gateway on its way or from its home. -/

theorem set_gives (u s : State) : Gives (set u : M PUnit) s ⟨⟩ u := rfl

theorem modify_gives (f : State → State) (s : State) : Gives (modify f : M PUnit) s ⟨⟩ (f s) := rfl

section
variable {core : Nat} {asid : BitVec 12} {l : Leaf} {va : Nat} {s : State} {g key : Nat}

/-- No gateway on the way holds the line. -/
def NoReplica (s : State) (core key : Nat) : Prop := ∀ g, s.gateFor core key = some g → s.replica? g (key / 128) = none

theorem gateRead_of_no_replica (h : NoReplica s core key) (va : Nat) (gen : BitVec 8) (ok : LineSnap → Bool) :
    Gives (gateRead core asid key va gen ok) s none s := by
  cases hg : s.gateFor core key with
  | none => exact gateRead_of_no_gate hg va gen ok
  | some g =>
    refine gives_bind (get_gives s) ?_
    rw [hg]
    dsimp only
    rw [h g hg]
    exact gives_pure none s

theorem readFrozen_lost {code : FaultCode} (h : NoReplica s core (l.key va))
    (hcode : s.homeCode l va (dieOf core) = some code) : Gives (readFrozen core asid l va) s (.error code) s := by
  refine gives_bind (gateRead_of_no_replica h va l.gen _) (gives_bind (get_gives s) ?_)
  rw [hcode]
  exact gives_pure _ s

/-- The line and what its read leaves. -/
theorem readFrozen_home (h : NoReplica s core (l.key va)) (hhome : s.homeCode l va (dieOf core) = none) :
    Gives (readFrozen core asid l va) s (.ok (s.snap (l.key va / 128) l.ty))
      (if (s.snap (l.key va / 128) l.ty).frozenClean then
        (s.countAt l.cnt (l.key va) (BitVec.ofNat 64 va) asid).leaveReplica core asid (l.key va) va l.ty l.gen
      else s.countAt l.cnt (l.key va) (BitVec.ofNat 64 va) asid) := by
  refine gives_bind (gateRead_of_no_replica h va l.gen _) (gives_bind (get_gives s) ?_)
  rw [hhome]
  exact gives_bind (set_gives _ _) (gives_pure _ _)

theorem countAt_replicas (s : State) (cnt : Bool) (key : Nat) (va : Word) (asid : BitVec 12) :
    (s.countAt cnt key va asid).replicas = s.replicas ∧ (s.countAt cnt key va asid).choices = s.choices := by
  obtain ⟨m, cs, h⟩ := s.countAt_eq cnt key va asid
  rw [h]
  exact ⟨rfl, rfl⟩

/-- What a line read through a gateway that does not hold it changes. -/
theorem leaveReplica_eq {ty : Nat} {gen : BitVec 8} (s : State) (hg : s.gateFor core key = some g)
    (hr : s.replica? g (key / 128) = none) : ∃ rs cs, s.leaveReplica core asid key va ty gen =
      { s with replicas := rs, choices := cs } := by
  rw [State.leaveReplica, hg]
  dsimp only
  rw [State.refreshBy, show (s.snap (key / 128) ty).line = key / 128 from rfl, hr, State.chooseNow]
  cases s.choices with
  | nil =>
    dsimp only
    split
    · exact ⟨_, _, rfl⟩
    · exact ⟨_, _, rfl⟩
  | cons c rest =>
    dsimp only
    split
    · exact ⟨_, _, rfl⟩
    · exact ⟨_, _, rfl⟩

/-- Where the replacement choices leave it alone, the gateway then holds it. -/
theorem leaveReplica_mem {ty : Nat} {gen : BitVec 8} (hg : s.gateFor core key = some g)
    (hr : s.replica? g (key / 128) = none) (hc : s.choices = []) (hkey : key < 2 ^ 51) :
    { gate := g, snap := s.snap (key / 128) ty, gen := gen, names := [(asid, va / 128)] } ∈
      (s.leaveReplica core asid key va ty gen).replicas := by
  have hline : decide (key / 128 < 2 ^ 44) = true := decide_eq_true (by omega)
  rw [State.leaveReplica, hg]
  dsimp only
  rw [State.refreshBy, show (s.snap (key / 128) ty).line = key / 128 from rfl, hr, State.chooseNow, hc]
  dsimp only
  rw [hline, if_pos (by decide), State.putReplica]
  dsimp only
  rw [keepFirst, if_pos (beq_self_eq_true g)]
  exact List.mem_cons_self ..

theorem choose_gives (h : s.choices = []) : Gives choose s true s := by
  refine gives_bind (get_gives s) ?_
  rw [h]
  exact gives_pure true s

theorem replicaGood_frozen {r : Replica} {gen : BitVec 8} (hf : r.snap.frozenClean = true) (hgen : r.gen = gen) :
    s.replicaGood r gen = true := by
  have hty : r.snap.ty ≠ 0 := by
    simp only [LineSnap.frozenClean, Bool.and_eq_true, decide_eq_true_eq] at hf
    omega
  rw [State.replicaGood, if_neg hty, hgen, beq_self_eq_true, Bool.or_true]

/-- A frozen replica answers, and notes the address it was read by. -/
theorem gateRead_frozen {r : Replica} {gen : BitVec 8} (hg : s.gateFor core key = some g)
    (hr : s.replica? g (key / 128) = some r) (hc : s.choices = []) (hf : r.snap.frozenClean = true) (hgen : r.gen = gen) :
    Gives (gateRead core asid key va gen LineSnap.frozenClean) s (some r.snap)
      (s.nameReplica g (key / 128) (asid, va / 128)) := by
  refine gives_bind (get_gives s) ?_
  rw [hg]
  dsimp only
  rw [hr]
  refine gives_bind (choose_gives hc) ?_
  rw [replicaGood_frozen hf hgen]
  rw [if_neg (by decide), if_pos hf]
  exact gives_bind (modify_gives _ _) (gives_pure _ _)

/-- The replica with the address noted. -/
def Replica.named (name : BitVec 12 × Nat) (r : Replica) : Replica :=
  { r with names := name :: r.names.filter (fun n => n != name) }

theorem mem_nameReplica {r : Replica} {line : Nat} (name : BitVec 12 × Nat) (hr : s.replica? g line = some r) :
    r.named name ∈ (s.nameReplica g line name).replicas := by
  have hmem := List.mem_of_find?_eq_some hr
  have hcond := List.find?_some hr
  rw [Bool.and_eq_true, beq_iff_eq, beq_iff_eq] at hcond
  refine List.mem_map.2 ⟨r, hmem, ?_⟩
  rw [if_pos (by simp [hcond.1, hcond.2])]
  rfl

theorem nameReplica_snap (line : Nat) (name : BitVec 12 × Nat) :
    (s.nameReplica g line name).replicas.map Replica.snap = s.replicas.map Replica.snap := by
  rw [State.nameReplica, List.map_map]
  refine List.map_congr_left fun r _ => ?_
  rw [Function.comp_apply]
  split <;> rfl

end

theorem frozenLinesAreRead : FrozenLinesAreRead := by
  intro core asid l va s
  refine ⟨fun code hno hcode => readFrozen_lost hno hcode, fun hgate hhome => readFrozen_of_no_gate hgate hhome,
    fun g hg hr hhome => ?_, fun g r hg hr hc hf hgen => ?_⟩
  · have hno : NoReplica s core (l.key va) := fun g' hg' => by
      rw [hg] at hg'
      cases hg'
      exact hr
    have h := readFrozen_home (asid := asid) hno hhome
    refine ⟨fun hf => ?_, fun hf => ?_⟩
    · rwa [hf] at h
    · rw [hf, if_pos rfl] at h
      obtain ⟨hreps, hchoices⟩ := countAt_replicas s l.cnt (l.key va) (BitVec.ofNat 64 va) asid
      have hg' : (s.countAt l.cnt (l.key va) (BitVec.ofNat 64 va) asid).gateFor core (l.key va) = some g := by
        rw [State.countAt_gateFor, hg]
      have hr' : (s.countAt l.cnt (l.key va) (BitVec.ofNat 64 va) asid).replica? g (l.key va / 128) = none := by
        rw [State.replica?, hreps]
        exact hr
      refine ⟨_, h, ?_, fun hc hkey => ⟨_, leaveReplica_mem hg' hr' hc hkey, rfl, rfl, rfl, rfl⟩⟩
      obtain ⟨rs, cs, heq⟩ := leaveReplica_eq (asid := asid) (va := va) (ty := l.ty) (gen := l.gen) _ hg' hr'
      rw [heq]
  · refine ⟨_, gives_bind (gateRead_frozen hg hr hc hf hgen) (gives_pure _ _), rfl, nameReplica_snap _ _,
      _, mem_nameReplica _ hr, ?_, rfl, List.mem_cons_self ..⟩
    have hcond := List.find?_some hr
    rw [Bool.and_eq_true, beq_iff_eq] at hcond
    exact hcond.1

/-- Settles O16. -/
theorem scalarMemoryAccessesComplete : Obligations.ScalarMemoryAccessesComplete := by
  refine ⟨fun p hp d b size off s s1 s2 s3 s4 t vs pl x m hi hb hd hvs hm hal hpl hwait hx hw => ?_,
    fun v b size off s s1 s2 s3 s4 t x pl y hi hb hv hx hal hpl hwait hfree hchip hy hw => ?_,
    fun d imm s s1 s2 t l x hi hd h8 hwin hl hty hx hpoison hstate hw => ?_, frozenLinesAreRead⟩
  · exact (loads_exec p hp d b size off s).trans
      (issue_gives hi (loadScalar_gives hb hd hvs hm hal hpl hwait hx hw))
  · exact issue_gives hi (storeScalar_gives hb hv hx hal hpl hwait hfree hchip hy hw)
  · have hconst : Gives (loadConst (ldcAddr s imm)) s (BitVec.ofNat 64 (x.bytes ((ldcAddr s imm).toNat % 128) 8)) s2 := by
      refine gives_bind (check_of_true (by rw [Bool.and_eq_true, decide_eq_true_eq, beq_iff_eq]; exact ⟨h8, hwin⟩) _ _ s) (gives_bind hl
        (gives_bind (check_of_true (decide_eq_true hty) _ _ s1) ?_))
      have hr := readConst_of_readFrozen (e := ldcAddr s imm) hx
      rw [hpoison, hstate] at hr
      exact hr
    exact ldc_completes hi hd hconst hw

end Sys2Proof.Machine
end

section
/-! PROOFS. What an effect keeps: a relation between the states before and after it, step by step. -/
namespace Sys2Proof.Machine
open Sys2Proof.Claims

/-- A relation of states that effects in a row keep. -/
structure Chain (R : State → State → Prop) : Prop where
  refl : ∀ s, R s s
  trans : ∀ {s t u}, R s t → R t u → R s u

/-- What a result leaves is related to `s`: the state after it, or the one a kept fault keeps. -/
def Left {α : Type} (R : State → State → Prop) (s : State) : Except Stop (α × State) → Prop
  | .ok (_, t) => R s t
  | .error (.kept _ t) => R s t
  | .error _ => True

/-- What `m` leaves at `s` is related to `s`. -/
def KeepsAt {α : Type} (R : State → State → Prop) (m : M α) (s : State) : Prop := Left R s (m s)

/-- Wherever it starts. -/
def Keeps {α : Type} (R : State → State → Prop) (m : M α) : Prop := ∀ s, KeepsAt R m s

section
variable {α β : Type} {R : State → State → Prop} {m : M α} {k : α → M β} {s t : State} {x : α}

theorem KeepsAt.of_gives (h : KeepsAt R m s) (hg : Gives m s x t) : R s t := by
  rw [KeepsAt, hg] at h
  exact h

theorem keepsAt_of_gives (hg : Gives m s x t) (h : R s t) : KeepsAt R m s := by
  rw [KeepsAt, hg]
  exact h

theorem Chain.left (hR : Chain R) (h : R s t) {r : Except Stop (α × State)} (hr : Left R t r) : Left R s r := by
  match r with
  | .ok (_, u) => exact hR.trans h hr
  | .error (.kept _ u) => exact hR.trans h hr
  | .error (.fault _) => trivial
  | .error (.faultAt ..) => trivial
  | .error (.deliver ..) => trivial
  | .error (.park _) => trivial
  | .error .stall => trivial

theorem keepsAt_bind (hR : Chain R) (hm : KeepsAt R m s) (hk : ∀ x t, Gives m s x t → KeepsAt R (k x) t) :
    KeepsAt R (m >>= k) s := by
  cases h : m s with
  | ok r => rw [KeepsAt, bind_of_gives h]; exact hR.left (hm.of_gives h) (hk r.1 r.2 h)
  | error e =>
    rw [KeepsAt, bind_of_error h]
    rw [KeepsAt, h] at hm
    cases e <;> exact hm

theorem keeps_bind (hR : Chain R) (hm : Keeps R m) (hk : ∀ x, Keeps R (k x)) : Keeps R (m >>= k) :=
  fun s => keepsAt_bind hR (hm s) fun x t _ => hk x t

/-- Two ways to a common rest. -/
theorem keeps_join (hR : Chain R) {c : Prop} [Decidable c] {m' : M α} (hm : Keeps R m) (hm' : Keeps R m')
    (hk : ∀ x, Keeps R (k x)) : Keeps R (if c then m >>= k else m' >>= k) := by
  split
  · exact keeps_bind hR hm hk
  · exact keeps_bind hR hm' hk

theorem keeps_pure (hR : Chain R) (x : α) : Keeps R (pure x) := hR.refl

theorem keepsAt_get {k : State → M β} (h : KeepsAt R (k s) s) : KeepsAt R (get >>= k) s := h

theorem keepsAt_cur {k : Context → M β} (h : KeepsAt R (k s.cur) s) : KeepsAt R (cur >>= k) s := h

theorem keepsAt_set {k : PUnit → M β} {t : State} (hR : Chain R) (h : R s t) (hk : KeepsAt R (k ⟨⟩) t) :
    KeepsAt R (set t >>= k) s := hR.left h hk

theorem keepsAt_modify {f : State → State} (h : R s (f s)) : KeepsAt R (modify f : M PUnit) s := h

theorem keepsAt_throw (e : Stop) (h : ∀ f t, e = .kept f t → R s t) : KeepsAt R (throw e : M α) s := by
  cases e with
  | kept f t => exact h f t rfl
  | _ => trivial

theorem keeps_raise (code : FaultCode) (addr : Word) : Keeps R (raise code addr : M α) := fun _ => trivial

theorem keeps_check (hR : Chain R) (ok : Bool) (code : FaultCode) (addr : Word) : Keeps R (check ok code addr) := by
  unfold check
  split
  · exact keeps_pure hR ()
  · exact keeps_raise code addr

theorem keeps_mapM (hR : Chain R) {f : β → M α} (h : ∀ x, Keeps R (f x)) (l : List β) : Keeps R (l.mapM f) := by
  induction l with
  | nil => exact keeps_pure hR []
  | cons x l ih =>
    rw [List.mapM_cons]
    exact keeps_bind hR (h x) fun _ => keeps_bind hR ih fun _ => keeps_pure hR _

end

theorem Left.mono {R R' : State → State → Prop} (h : ∀ {s t}, R s t → R' s t) {α : Type} {s : State}
    {r : Except Stop (α × State)} (hr : Left R s r) : Left R' s r := by
  match r with
  | .ok (_, _) => exact h hr
  | .error (.kept _ _) => exact h hr
  | .error (.fault _) => trivial
  | .error (.faultAt ..) => trivial
  | .error (.deliver ..) => trivial
  | .error (.park _) => trivial
  | .error .stall => trivial

theorem Keeps.mono {R R' : State → State → Prop} (h : ∀ {s t}, R s t → R' s t) {α : Type} {m : M α} (hm : Keeps R m) :
    Keeps R' m := fun s => (hm s).mono h

/-! Translation and channel reads. -/

/-- Only translation caches, and the choices that stand for their replacement, differ. -/
def CachesOnly (s t : State) : Prop := t = { s with tlb := t.tlb, tableCache := t.tableCache, choices := t.choices }

theorem cachesOnly_chain : Chain CachesOnly := ⟨fun _ => rfl, fun h h' => h'.trans (by rw [h])⟩

/-- Only the channels differ. -/
def ChansOnly (s t : State) : Prop := t = { s with chans := t.chans }

theorem chansOnly_chain : Chain ChansOnly := ⟨fun _ => rfl, fun h h' => h'.trans (by rw [h])⟩

/-- What the operands of the current context's instruction are read from is the same. -/
def SameOperands (s t : State) : Prop :=
  t.cur.regs = s.cur.regs ∧ t.cur.unit = s.cur.unit ∧ t.cur.voperand = s.cur.voperand

theorem sameOperands_chain : Chain SameOperands :=
  ⟨fun _ => ⟨rfl, rfl, rfl⟩, fun ⟨h1, h2, h3⟩ ⟨h1', h2', h3'⟩ => ⟨h1'.trans h1, h2'.trans h2, h3'.trans h3⟩⟩

theorem CachesOnly.cur {s t : State} (h : CachesOnly s t) : t.cur = s.cur := by rw [h]

theorem ChansOnly.cur {s t : State} (h : ChansOnly s t) : t.cur = s.cur := by rw [h]

theorem sameOperands_of_cur {s t : State} (h : t.cur = s.cur) : SameOperands s t := by rw [SameOperands, h]; exact ⟨rfl, rfl, rfl⟩

theorem keeps_choose : Keeps CachesOnly choose := by
  intro s
  refine keepsAt_get ?_
  split
  · exact cachesOnly_chain.refl s
  · exact keepsAt_set cachesOnly_chain rfl (cachesOnly_chain.refl _)

theorem keeps_serve (hit : Option TlbEntry) : Keeps CachesOnly (serve hit) := by
  unfold serve
  split
  · exact keeps_bind cachesOnly_chain keeps_choose fun _ => keeps_pure cachesOnly_chain _
  · exact keeps_pure cachesOnly_chain _

theorem keeps_tryTranslate (core : Nat) (asid : BitVec 12) (sys : Bool) (kind : AccessKind) (va : Nat) :
    Keeps CachesOnly (tryTranslate core asid sys kind va) := by
  have hR := cachesOnly_chain
  refine fun s => keepsAt_get ?_
  dsimp only
  refine keeps_bind hR (keeps_serve _) (fun first => keeps_join hR (keeps_pure hR _) (keeps_serve _) fun cached => ?_) s
  split
  · split <;> exact keeps_pure hR _
  · refine keeps_join hR (keeps_pure hR _) keeps_choose fun fromCache => ?_
    split
    · exact keeps_pure hR _
    · split
      · exact keeps_pure hR _
      · split
        · exact fun s => keepsAt_bind hR rfl fun _ t _ => hR.refl t
        · exact keeps_pure hR _

theorem keeps_translate (kind : AccessKind) (va : Nat) : Keeps CachesOnly (translate kind va) := by
  refine fun s => keepsAt_cur (keeps_bind cachesOnly_chain (keeps_tryTranslate _ _ _ _ _) (fun r => ?_) s)
  split
  · exact keeps_pure cachesOnly_chain _
  · exact fun _ => trivial

theorem keeps_fieldAccess (kind : AccessKind) (refuse : Leaf → Option FaultCode) (ea : Word) :
    Keeps CachesOnly (fieldAccess kind refuse ea) := by
  unfold fieldAccess
  dsimp only
  split
  · exact keeps_raise _ _
  · exact keeps_raise _ _
  · exact keeps_raise _ _
  · exact keeps_raise _ _
  · refine fun s => keepsAt_cur ?_
    split <;> exact trivial
  · refine fun s => keepsAt_cur ?_
    split <;> exact trivial
  · refine keeps_bind cachesOnly_chain (keeps_translate _ _) fun l => ?_
    split
    · exact fun _ => trivial
    · split
      · exact fun _ => trivial
      · exact keeps_pure cachesOnly_chain _

theorem keeps_portChan {R : State → State → Prop} (hR : Chain R) (p : Fin 8) : Keeps R (portChan p) := by
  refine fun s => keepsAt_get ?_
  split
  · trivial
  · split
    · trivial
    · exact hR.refl s

theorem keeps_takeItem (p : Fin 8) : Keeps ChansOnly (takeItem p) := by
  have hR := chansOnly_chain
  refine keeps_bind hR (keeps_portChan hR p) fun ch => ?_
  split
  · exact fun _ => trivial
  · exact keeps_bind hR (fun _ => rfl) fun _ => keeps_pure hR _

theorem keeps_readScalar (x : Scalar) : Keeps ChansOnly (readScalar x) := by
  have hR := chansOnly_chain
  cases x with
  | g n => exact hR.refl
  | q a => exact hR.refl
  | c p => exact keeps_bind hR (keeps_takeItem p) fun _ => keeps_pure hR _
  | rsv n => exact hR.refl

theorem keeps_readVec (x : VSpec) : Keeps ChansOnly (readVec x) := by
  cases x with
  | v n => exact chansOnly_chain.refl
  | y a => exact chansOnly_chain.refl
  | c p => exact keeps_takeItem p

/-- The value a named scalar holds; a port has none before its item is taken. -/
def namedScalar (r : Regs) : Scalar → Option Val
  | .g n => some (r.readG n)
  | .q a => some r.q[a]
  | .c _ => none
  | .rsv _ => some { bits := 0 }

/-- The value a named vector holds. -/
def namedVector (r : Regs) : VSpec → Option Vec
  | .v n => some r.v[n]
  | .y a => some r.y[a]
  | .c _ => none

theorem readScalar_of_named {x : Scalar} {v : Val} {s : State} (h : namedScalar s.cur.regs x = some v) :
    Gives (readScalar x) s v s := by
  cases x with
  | c p => cases h
  | _ => cases h; rfl

theorem readVec_of_named {x : VSpec} {v : Vec} {s : State} (h : namedVector s.cur.regs x = some v) :
    Gives (readVec x) s v s := by
  cases x with
  | c p => cases h
  | _ => cases h; rfl

theorem gives_unique {α : Type} {m : M α} {s t u : State} {x y : α} (h : Gives m s x t) (h' : Gives m s y u) :
    x = y ∧ t = u := by
  rw [Gives, h] at h'
  cases h'
  exact ⟨rfl, rfl⟩

/-! Results taken apart. -/

theorem gives_bind_inv {α β : Type} {m : M α} {k : α → M β} {s t : State} {y : β} (h : Gives (m >>= k) s y t) :
    ∃ x u, Gives m s x u ∧ Gives (k x) u y t := by
  cases hm : m s with
  | ok r => exact ⟨r.1, r.2, hm, by rwa [Gives, bind_of_gives hm] at h⟩
  | error e => rw [Gives, bind_of_error hm] at h; cases h

theorem gives_mapM_cons {α β : Type} {f : β → M α} {x : β} {l : List β} {s t : State} {ys : List α}
    (h : Gives ((x :: l).mapM f) s ys t) :
    ∃ y u r, Gives (f x) s y u ∧ Gives (l.mapM f) u r t ∧ ys = y :: r := by
  rw [List.mapM_cons] at h
  obtain ⟨y, u, hy, h⟩ := gives_bind_inv h
  obtain ⟨r, v, hr, h⟩ := gives_bind_inv h
  cases h
  exact ⟨y, u, r, hy, hr, rfl⟩

end Sys2Proof.Machine
end

section
/-! PROOFS. Operands that depend on no item, vector loads and stores, and the tile accesses (R231, R247 to R254). -/
namespace Sys2Proof.Machine
open Sys2Proof.Claims

/-! R231: a named operand holds what is read of it later. -/

theorem keeps_mapM_named {f : Scalar → M Val} (hf : ∀ x, Keeps SameOperands (f x))
    (hval : ∀ x v (s : State), namedScalar s.cur.regs x = some v → Gives (f x) s v s) {xs : List Scalar} {s t : State}
    {vs : List Val} (h : Gives (xs.mapM f) s vs t) :
    SameOperands s t ∧ ∀ i x v, xs[i]? = some x → namedScalar s.cur.regs x = some v → nthVal vs i = v := by
  induction xs generalizing s vs with
  | nil => cases h; exact ⟨sameOperands_chain.refl _, fun i x v hi => by cases hi⟩
  | cons x xs ih =>
    obtain ⟨y, u, r, hy, hr, rfl⟩ := gives_mapM_cons h
    have hu : SameOperands s u := (hf x s).of_gives hy
    obtain ⟨hut, hrest⟩ := ih hr
    refine ⟨sameOperands_chain.trans hu hut, fun i z v hi hv => ?_⟩
    cases i with
    | zero =>
      cases hi
      exact (gives_unique hy (hval x v s hv)).1
    | succ i => exact hrest i z v hi (by rw [hu.1]; exact hv)

section
variable {s t : State} {xs : List Scalar} {vs : List Val} {x : Scalar} {y : VSpec} {v : Vec} {w : Word}

theorem operands_kept (h : Operands xs s vs t) : SameOperands s t ∧ (s.cur.operands = none →
    ∀ i x v, xs[i]? = some x → namedScalar s.cur.regs x = some v → nthVal vs i = v) := by
  obtain ⟨c, u, hc, h⟩ := gives_bind_inv h
  cases hc
  cases hop : s.cur.operands with
  | some ws =>
    rw [hop] at h
    cases h
    exact ⟨sameOperands_chain.refl _, fun h => by cases h⟩
  | none =>
    rw [hop] at h
    obtain ⟨ws, u, hm, h⟩ := gives_bind_inv h
    cases h
    have hR := sameOperands_chain
    obtain ⟨hsame, hval⟩ := keeps_mapM_named (fun x => by
      cases x with
      | c p =>
        exact keeps_bind hR (keeps_portChan hR p) fun _ => keeps_bind hR
          ((keeps_takeItem p).mono fun h => sameOperands_of_cur h.cur) fun _ =>
          keeps_bind hR (fun _ => ⟨rfl, rfl, rfl⟩) fun _ => keeps_pure hR _
      | _ => exact (keeps_readScalar _).mono fun h => sameOperands_of_cur h.cur) (fun x v s hv => by
      cases x with
      | c p => cases hv
      | _ => exact readScalar_of_named hv) hm
    exact ⟨hsame, fun _ => hval⟩

/-- No marked value stands in a named operand. -/
def NamedClean (s : State) (x : Scalar) : Prop :=
  s.cur.operands = none → ∀ v, namedScalar s.cur.regs x = some v → v.mark = false

theorem checkNamed_gives (h : NamedClean s x) : Gives (checkNamed x) s () s := by
  cases hv : namedScalar s.cur.regs x with
  | none => cases x with
    | c p => rfl
    | _ => cases hv
  | some v =>
    have hrest : Gives (do if (← cur).operands.isNone then let _ ← readClean x) s () s := by
      refine gives_bind (cur_gives s) ?_
      cases hop : s.cur.operands with
      | some _ => exact gives_pure () s
      | none =>
        exact gives_bind (gives_bind (readScalar_of_named hv) (useClean_gives (h hop v hv) s)) (gives_pure () s)
    cases x with
    | c p => cases hv
    | _ => exact hrest

theorem operands_clean {i : Nat} (h : Operands xs s vs t) (hi : xs[i]? = some x) (hm : (nthVal vs i).mark = false) :
    NamedClean s x := fun hop v hv => by rw [← (operands_kept h).2 hop i x v hi hv]; exact hm

theorem readScalar_clean {v : Val} (h : Gives (readScalar x) s v t) (hm : v.mark = false) : NamedClean s x :=
  fun _ u hu => by rw [← (gives_unique h (readScalar_of_named hu)).1]; exact hm

theorem readClean_inv (h : Gives (readClean x) s w t) : ∃ v, Gives (readScalar x) s v t ∧ v.mark = false ∧ v.bits = w := by
  obtain ⟨v, u, hv, h⟩ := gives_bind_inv h
  cases hm : v.mark with
  | true => rw [useClean, hm] at h; cases h
  | false =>
    obtain ⟨rfl, rfl⟩ := gives_unique (useClean_gives hm u) h
    exact ⟨v, hv, hm, rfl⟩

theorem readClean_clean (h : Gives (readClean x) s w t) : NamedClean s x := by
  obtain ⟨v, hv, hm, _⟩ := readClean_inv h
  exact readScalar_clean hv hm

theorem readClean_chans (h : Gives (readClean x) s w t) : ChansOnly s t := by
  obtain ⟨v, hv, _, _⟩ := readClean_inv h
  exact (keeps_readScalar x s).of_gives hv

theorem NamedClean.of_cur (h : NamedClean t x) (hc : t.cur = s.cur) : NamedClean s x := by rwa [NamedClean, hc] at h

/-- No active lane of a named vector of offsets is marked. -/
def NamedLanesClean (s : State) (y : VSpec) : Prop :=
  s.cur.voperand = none → ∀ v, namedVector s.cur.regs y = some v → v.mark &&& lanesAt s = 0

theorem checkNamedLanes_gives (h : NamedLanesClean s y) : Gives (checkNamedLanes y) s () s := by
  cases hv : namedVector s.cur.regs y with
  | none => cases y with
    | c p => rfl
    | _ => cases hv
  | some v =>
    have hrest : Gives (do
        if (← cur).voperand.isNone then check (decide ((← readVec y).mark &&& (← activeLanes) = 0)) .poison) s () s := by
      refine gives_bind (cur_gives s) ?_
      cases hop : s.cur.voperand with
      | some _ => exact gives_pure () s
      | none =>
        exact gives_bind (readVec_of_named hv) (gives_bind (activeLanes_gives s)
          (check_of_true (decide_eq_true (h hop v hv)) _ _ s))
    cases y with
    | c p => cases hv
    | _ => exact hrest

theorem lanesAt_of_unit (h : t.cur.unit = s.cur.unit) : lanesAt t = lanesAt s := by rw [lanesAt, lanesAt, h]

theorem readVec_clean (h : Gives (readVec y) s v t) (hm : v.mark &&& lanesAt t = 0) : NamedLanesClean s y := by
  intro _ u hu
  obtain ⟨rfl, rfl⟩ := gives_unique h (readVec_of_named hu)
  exact hm

theorem NamedLanesClean.of_same (h : NamedLanesClean t y) (hs : SameOperands s t) : NamedLanesClean s y := by
  obtain ⟨hregs, hunit, hvop⟩ := hs
  intro hop v hv
  rw [← lanesAt_of_unit hunit]
  exact h (hvop.trans hop) v (by rw [hregs]; exact hv)

theorem readVecOnce_clean (h : Gives (readVecOnce y) s v t) (hm : v.mark &&& lanesAt t = 0) : NamedLanesClean s y := by
  intro hop u hu
  obtain ⟨c, c', hc, h⟩ := gives_bind_inv h
  cases hc
  rw [hop] at h
  cases y with
  | c p => cases hu
  | _ =>
    cases hu
    cases h
    exact hm

end

/-! R247 to R250: vector loads and stores. -/

section
variable {s s1 s2 s3 s4 s5 t : State} {d y : VSpec} {b o : Scalar} {vs : List Val} {ps : List Piece}
  {ws : List (Nat × Nat × Nat)} {lanes : List (Nat × Nat)} {v : Vec}

theorem finishLoad_gives (hwait : Gives (piecesWait .read ps) s false s1) (hread : Gives (readLanes ps lanes) s1 (some ws) s2)
    (hw : Gives (writeVec d (vecOfWords ws)) s2 () t) : Gives (finishLoad d ps lanes) s .done t :=
  gives_bind hwait (gives_bind hread (gives_bind hw (gives_pure _ _)))

theorem finishStore_gives (hwait : Gives (piecesWait .write ps) s false s1)
    (hchip : Gives (ps.forM fun p => checkChip p.place p.n p.va) s1 () s1) (hv : Gives (readVec y) s1 v s2)
    (hw : Gives (writeLanes ps lanes v) s2 () t) : Gives (finishStore y ps lanes) s .done t :=
  gives_bind hwait (gives_bind hchip (gives_bind hv (gives_bind hw (gives_pure _ _))))

theorem blockAddr_gives (h0 : (nthVal vs 0).mark = false) (h1 : (nthVal vs 1).mark = false) (s : State) :
    Gives (blockAddr vs) s ((nthVal vs 0).bits + (nthVal vs 1).bits).toNat s :=
  gives_bind (useClean_gives h0 s) (gives_bind (useClean_gives h1 s) (gives_pure _ _))

/-- The pieces of one word per lane, after the mask is read. -/
theorem pieces_of_lanes {α : Type} {k : BitVec 128 → M α} {x : α} (h : Gives (k (lanesAt s)) s x t) :
    Gives (do k (← activeLanes)) s x t := gives_bind (activeLanes_gives s) h

theorem execVld_completes (hi : issues (.vld d b o) s = true) (hb : srcBound b s) (ho : srcBound o s) (hd : vdstBound d s)
    (hvs : Operands [b, o] s vs s1) (h0 : (nthVal vs 0).mark = false) (h1 : (nthVal vs 1).mark = false)
    (hps : Gives (vecPieces .read true 512 ((nthVal vs 0).bits + (nthVal vs 1).bits).toNat) s1 ps s2)
    (hload : Gives (finishLoad d ps ((laneList (lanesAt s2)).map fun l =>
      (l, ((nthVal vs 0).bits + (nthVal vs 1).bits).toNat + 4 * l))) s2 .done t) : Completes (.vld d b o) s t :=
  issue_gives hi (gives_bind hb (gives_bind ho (gives_bind hd (gives_bind (checkNamed_gives (operands_clean hvs rfl h0))
    (gives_bind (checkNamed_gives (operands_clean hvs rfl h1)) (gives_bind hvs (gives_bind (blockAddr_gives h0 h1 s1)
    (gives_bind hps (gives_bind (activeLanes_gives s2) hload)))))))))

theorem execVldb_completes (hi : issues (.vldb d b o) s = true) (hb : srcBound b s) (ho : srcBound o s) (hd : vdstBound d s)
    (hvs : Operands [b, o] s vs s1) (h0 : (nthVal vs 0).mark = false) (h1 : (nthVal vs 1).mark = false)
    (hps : Gives (vecPieces .read false 4 ((nthVal vs 0).bits + (nthVal vs 1).bits).toNat) s1 ps s2)
    (hload : Gives (finishLoad d ps ((List.range 128).map fun l =>
      (l, ((nthVal vs 0).bits + (nthVal vs 1).bits).toNat))) s2 .done t) : Completes (.vldb d b o) s t :=
  issue_gives hi (gives_bind hb (gives_bind ho (gives_bind hd (gives_bind (checkNamed_gives (operands_clean hvs rfl h0))
    (gives_bind (checkNamed_gives (operands_clean hvs rfl h1)) (gives_bind hvs (gives_bind (blockAddr_gives h0 h1 s1)
    (gives_bind hps hload))))))))

theorem execVlds_completes (hi : issues (.vlds d b o) s = true) (hb : srcBound b s) (ho : srcBound o s) (hd : vdstBound d s)
    (hvs : Operands [b, o] s vs s1) (h0 : (nthVal vs 0).mark = false) (h1 : (nthVal vs 1).mark = false)
    (hps : Gives (lanePieces .read (strideLanes (lanesAt s1) (nthVal vs 0).bits (nthVal vs 1).bits)) s1 ps s2)
    (hload : Gives (finishLoad d ps (strideLanes (lanesAt s1) (nthVal vs 0).bits (nthVal vs 1).bits)) s2 .done t) :
    Completes (.vlds d b o) s t :=
  issue_gives hi (gives_bind hb (gives_bind ho (gives_bind hd (gives_bind (checkNamed_gives (operands_clean hvs rfl h0))
    (gives_bind (checkNamed_gives (operands_clean hvs rfl h1)) (gives_bind hvs (gives_bind (useClean_gives h0 s1)
    (gives_bind (useClean_gives h1 s1) (gives_bind (activeLanes_gives s1) (gives_bind hps hload))))))))))

/-- The addresses of the lanes with offsets. -/
def offsetsOf (m : BitVec 128) (w : Word) (ix : Vec) : List (Nat × Nat) :=
  (laneList m).map fun l => (l, (w + (lane ix.bits l).setWidth 64).toNat)

theorem offsetLanes_gives {ix : Vec} {m : BitVec 128} {w : Word} (h : ix.mark &&& m = 0) (s : State) :
    Gives (offsetLanes m w ix) s (offsetsOf m w ix) s :=
  gives_bind (check_of_true (decide_eq_true h) _ _ s) (gives_pure _ s)

theorem execVgather_completes {ix : VSpec} {i : Vec} (hi : issues (.vgather d b ix) s = true) (hb : srcBound b s)
    (hix : vsrcBound ix s) (hd : vdstBound d s) (hvs : Operands [b] s vs s1) (hiv : Gives (readVecOnce ix) s1 i s2)
    (h0 : (nthVal vs 0).mark = false) (hm : i.mark &&& lanesAt s2 = 0)
    (hps : Gives (lanePieces .read (offsetsOf (lanesAt s2) (nthVal vs 0).bits i)) s2 ps s3)
    (hload : Gives (finishLoad d ps (offsetsOf (lanesAt s2) (nthVal vs 0).bits i)) s3 .done t) :
    Completes (.vgather d b ix) s t := by
  have hlanes := (readVecOnce_clean hiv hm).of_same (operands_kept hvs).1
  exact issue_gives hi (gives_bind hb (gives_bind hix (gives_bind hd
    (gives_bind (checkNamed_gives (operands_clean hvs rfl h0)) (gives_bind (checkNamedLanes_gives hlanes) (gives_bind hvs
    (gives_bind hiv (gives_bind (useClean_gives h0 s2) (gives_bind (activeLanes_gives s2)
    (gives_bind (offsetLanes_gives hm s2) (gives_bind hps hload)))))))))))

theorem execVst_completes {u v : Val} (hi : issues (.vst y b o) s = true) (hb : srcBound b s) (ho : srcBound o s)
    (hy : vsrcBound y s) (hu : Gives (readScalar b) s u s1) (hv : Gives (readScalar o) s1 v s2) (h0 : u.mark = false)
    (h1 : v.mark = false) (hps : Gives (vecPieces .write true 512 (u.bits + v.bits).toNat) s2 ps s3)
    (hstore : Gives (finishStore y ps ((laneList (lanesAt s3)).map fun l => (l, (u.bits + v.bits).toNat + 4 * l))) s3 .done t) :
    Completes (.vst y b o) s t :=
  issue_gives hi (gives_bind hb (gives_bind ho (gives_bind hy (gives_bind (checkNamed_gives (readScalar_clean hu h0))
    (gives_bind (checkNamed_gives ((readScalar_clean hv h1).of_cur ((keeps_readScalar b s).of_gives hu).cur)) (gives_bind hu
    (gives_bind hv (gives_bind (blockAddr_gives (vs := [u, v]) h0 h1 s2)
    (gives_bind hps (gives_bind (activeLanes_gives s3) hstore))))))))))

theorem execVsts_completes {u v : Word} (hi : issues (.vsts y b o) s = true) (hb : srcBound b s) (ho : srcBound o s)
    (hy : vsrcBound y s) (hu : Gives (readClean b) s u s1) (hv : Gives (readClean o) s1 v s2)
    (hps : Gives (lanePieces .write (strideLanes (lanesAt s2) u v)) s2 ps s3)
    (hstore : Gives (finishStore y ps (strideLanes (lanesAt s2) u v)) s3 .done t) : Completes (.vsts y b o) s t :=
  issue_gives hi (gives_bind hb (gives_bind ho (gives_bind hy (gives_bind (checkNamed_gives (readClean_clean hu))
    (gives_bind (checkNamed_gives ((readClean_clean hv).of_cur (readClean_chans hu).cur)) (gives_bind hu (gives_bind hv
    (gives_bind (activeLanes_gives s2) (gives_bind hps hstore)))))))))

theorem readVec_clean_of_chans {ix : VSpec} {i : Vec} (hs : ChansOnly s s1) (h : Gives (readVec ix) s1 i s2)
    (hm : i.mark &&& lanesAt s2 = 0) : NamedLanesClean s ix := by
  have hlanes : lanesAt s2 = lanesAt s1 := lanesAt_of_unit (by rw [((keeps_readVec ix s1).of_gives h).cur])
  exact NamedLanesClean.of_same (readVec_clean h hm) (sameOperands_of_cur hs.cur)

theorem execVscatter_completes {ix : VSpec} {u : Word} {i : Vec} (hi : issues (.vscatter y b ix) s = true) (hb : srcBound b s)
    (hix : vsrcBound ix s) (hy : vsrcBound y s) (hu : Gives (readClean b) s u s1) (hiv : Gives (readVec ix) s1 i s2)
    (hm : i.mark &&& lanesAt s2 = 0) (hps : Gives (lanePieces .write (offsetsOf (lanesAt s2) u i)) s2 ps s3)
    (hstore : Gives (finishStore y ps (offsetsOf (lanesAt s2) u i)) s3 .done t) : Completes (.vscatter y b ix) s t :=
  issue_gives hi (gives_bind hb (gives_bind hix (gives_bind hy (gives_bind (checkNamed_gives (readClean_clean hu))
    (gives_bind (checkNamedLanes_gives (readVec_clean_of_chans (readClean_chans hu) hiv hm)) (gives_bind hu (gives_bind hiv
    (gives_bind (activeLanes_gives s2) (gives_bind (offsetLanes_gives hm s2) (gives_bind hps hstore))))))))))

end

/-! R253, R254: the tile accesses. -/

section
variable {s s1 s2 t : State} {d v : VSpec} {tile : Fin 16} {k : Scalar} {x : Word} {w : Vec} {reads : Bool}

/-- What the checks of the tile need. -/
def TileOpen (s : State) (tile : Fin 16) (reads : Bool) : Prop :=
  tile.val < s.cur.tiles ∧ s.cur.lampCfg[tile] = none ∧ (reads = true → s.cur.discTiles.getLsbD tile.val = false)

theorem vaccTile_gives (h : TileOpen s tile reads) : Gives (vaccTile tile reads) s () s := by
  obtain ⟨htile, hlamp, hdisc⟩ := h
  refine gives_bind (cur_gives s) (gives_bind (check_of_true (decide_eq_true htile) _ _ s)
    (gives_bind (check_of_true (by rw [hlamp]; rfl) _ _ s) (check_of_true ?_ _ _ s)))
  cases reads with
  | false => rfl
  | true => rw [hdisc rfl]; rfl

theorem TileOpen.of_cur (h : TileOpen t tile reads) (hc : t.cur = s.cur) : TileOpen s tile reads := by
  rwa [TileOpen, hc] at h

theorem vaccIndex_gives (hx : Gives (readClean k) s x s1) (h : x.toNat < 32) : Gives (vaccIndex k) s x.toNat s1 :=
  gives_bind hx (gives_bind (check_of_true (decide_eq_true h) _ _ s1) (gives_pure _ _))

/-- The checks of R254, up to the wait for engine commands. -/
def vaccChecked (tile : Fin 16) (k : Scalar) (reads : Bool) : M Nat :=
  match k with
  | .c _ => do
    vaccTile tile reads
    vaccIndex k
  | _ => do
    let n ← vaccIndex k
    vaccTile tile reads
    pure n

theorem vaccChecked_gives (hx : Gives (readClean k) s x s1) (h : x.toNat < 32) (ht : TileOpen s1 tile reads) :
    Gives (vaccChecked tile k reads) s x.toNat s1 := by
  have hrest : Gives (do
      let n ← vaccIndex k
      vaccTile tile reads
      pure n) s x.toNat s1 := gives_bind (vaccIndex_gives hx h) (gives_bind (vaccTile_gives ht) (gives_pure _ _))
  cases k with
  | c p => exact gives_bind (vaccTile_gives (ht.of_cur (readClean_chans hx).cur)) (vaccIndex_gives hx h)
  | g n => exact hrest
  | q a => exact hrest
  | rsv n => exact hrest

theorem vaccChunk_eq (tile : Fin 16) (k : Scalar) (reads : Bool) : vaccChunk tile k reads = (do
    let n ← vaccChecked tile k reads
    if (← cur).tileWaits tile.val then throw .stall
    return n) := by
  cases k <;> simp only [vaccChunk, vaccChecked, bind_assoc, pure_bind]

theorem vaccChunk_gives (hx : Gives (readClean k) s x s1) (h : TileChunk s1 tile x)
    (hdisc : reads = true → s1.cur.discTiles.getLsbD tile.val = false) : Gives (vaccChunk tile k reads) s x.toNat s1 := by
  obtain ⟨hn, htile, hlamp, hwait⟩ := h
  rw [vaccChunk_eq]
  refine gives_bind (vaccChecked_gives hx hn ⟨htile, hlamp, hdisc⟩) (gives_bind (cur_gives s1) ?_)
  rw [hwait]
  exact gives_pure _ _

theorem vaccChunk_stalls (hx : Gives (readClean k) s x s1) (hn : x.toNat < 32) (ht : TileOpen s1 tile reads)
    (hwait : s1.cur.tileWaits tile.val = true) : vaccChunk tile k reads s = .error .stall := by
  rw [vaccChunk_eq, bind_of_gives (vaccChecked_gives hx hn ht), bind_of_gives (cur_gives s1), hwait]
  rfl

/-- An instruction whose effect has to wait keeps its core, and none of its effect. -/
theorem issue_stalls {i : Instr} {body : M Flow} (h : issues i s = true) (hb : body s = .error .stall) :
    issue i body s = .next { s with stalled := true } := by
  obtain ⟨h1, h2, h3, h4, h5⟩ := (issues_iff i s).1 h
  simp [issue, h1, h2, h3, h4, h5, runBody, hb]

theorem tileAccess_waits (hk : srcBound k s) (hd : vdstBound d s) (hv : vsrcBound v s) (hx : Gives (readClean k) s x s1)
    (hn : x.toNat < 32) (htile : tile.val < s1.cur.tiles) (hlamp : s1.cur.lampCfg[tile] = none)
    (hdisc : s1.cur.discTiles.getLsbD tile.val = false) (hwait : s1.cur.tileWaits tile.val = true) :
    ∀ i ∈ ([.vlda d tile k, .vsta v tile k, .vadda v tile k] : List Instr), issues i s = true →
      exec i s = .next { s with stalled := true } := by
  have hstall (reads : Bool) := vaccChunk_stalls (reads := reads) hx hn ⟨htile, hlamp, fun _ => hdisc⟩ hwait
  simp only [List.forall_mem_cons, List.not_mem_nil, false_imp_iff, implies_true, and_true]
  exact ⟨fun hi => issue_stalls hi ((bind_of_gives hk _).trans ((bind_of_gives hd _).trans (bind_of_error (hstall true) _))),
    fun hi => issue_stalls hi ((bind_of_gives hk _).trans ((bind_of_gives hv _).trans (bind_of_error (hstall false) _))),
    fun hi => issue_stalls hi ((bind_of_gives hk _).trans ((bind_of_gives hv _).trans (bind_of_error (hstall true) _)))⟩

end

/-- Settles O17: the addresses pass their checks, the words are moved, and a tile that a command names bars them. -/
theorem vectorMemoryAccessesComplete : Obligations.VectorMemoryAccessesComplete := by
  refine ⟨?_, fun d b st s s1 s2 s3 s4 t vs ps ws hi hb hst hd hvs h0 h1 hps hwait hread hw =>
      execVlds_completes hi hb hst hd hvs h0 h1 hps (finishLoad_gives hwait hread hw),
    fun d b ix s s1 s2 s3 s4 s5 t vs i ps ws hi hb hix hd hvs hiv h0 hm hps hwait hread hw =>
      execVgather_completes hi hb hix hd hvs hiv h0 hm hps (finishLoad_gives hwait hread hw),
    fun y b o s s1 s2 s3 s4 s5 t u v ps w hi hb ho hy hu hv h0 h1 hps hwait hchip hread hw =>
      execVst_completes hi hb ho hy hu hv h0 h1 hps (finishStore_gives hwait hchip hread hw),
    fun y b st s s1 s2 s3 s4 s5 t u v ps w hi hb hst hy hu hv hps hwait hchip hread hw =>
      execVsts_completes hi hb hst hy hu hv hps (finishStore_gives hwait hchip hread hw),
    fun y b ix s s1 s2 s3 s4 s5 t u i ps w hi hb hix hy hu hiv hm hps hwait hchip hread hw =>
      execVscatter_completes hi hb hix hy hu hiv hm hps (finishStore_gives hwait hchip hread hw),
    fun d tile k s s1 t x hi hk hd hx hchunk hdisc hw =>
      issue_gives hi (gives_bind hk (gives_bind hd (gives_bind (vaccChunk_gives hx hchunk fun _ => hdisc)
        (gives_bind (get_gives s1) (gives_bind hw (gives_pure _ _)))))),
    fun v tile k s s1 s2 t x w hi hk hv hx hchunk hread hw =>
      issue_gives hi (gives_bind hk (gives_bind hv (gives_bind (vaccChunk_gives hx hchunk fun h => by cases h)
        (gives_bind hread (gives_bind (activeLanes_gives s2) (gives_bind hw (gives_pure _ _))))))),
    fun v tile k s s1 s2 x w hi hk hv hx hchunk hdisc hread => ?_,
    fun d v tile k i hmem s s1 x hi hk hd hv hx hn htile hlamp hdisc hwait =>
      tileAccess_waits hk hd hv hx hn htile hlamp hdisc hwait i hmem hi⟩
  · simp only [List.forall_mem_cons, List.not_mem_nil, false_imp_iff, implies_true, and_true]
    exact ⟨fun d b o s s1 s2 s3 s4 t vs ps ws hi hb ho hd hvs h0 h1 hps hwait hread hw =>
        execVld_completes hi hb ho hd hvs h0 h1 hps (finishLoad_gives hwait hread hw),
      fun d b o s s1 s2 s3 s4 t vs ps ws hi hb ho hd hvs h0 h1 hps hwait hread hw =>
        execVldb_completes hi hb ho hd hvs h0 h1 hps (finishLoad_gives hwait hread hw)⟩
  · obtain ⟨helems, hflags⟩ := lanesF2_computes 0 FFmt.add s2 (s2.chunk s2.cur tile.val x.toNat).bits w.bits
    refine ⟨_, _, helems, hflags, fun t ht => ?_⟩
    obtain ⟨_, s3, hw, hf⟩ := gives_bind_inv ht
    exact issue_gives hi (gives_bind hk (gives_bind hv (gives_bind (vaccChunk_gives hx hchunk fun _ => hdisc)
      (gives_bind hread (gives_bind (activeLanes_gives s2) (gives_bind (get_gives s2) (gives_bind hw
      (gives_bind hf (gives_pure _ _)))))))))

end Sys2Proof.Machine
end

section
/-! PROOFS. The joins of a vector (R251, R252). -/
namespace Sys2Proof.Machine
open Sys2Proof.Claims

section
variable {s s1 s2 s3 s4 t : State} {x ix : VSpec} {b : Scalar} {refuse : Leaf → Option FaultCode}

/-- An access whose page type nothing refuses is the same under a refusal that it passes. -/
theorem fieldAccess_refuse {kind : AccessKind} {ea : Word} {l : Leaf} (h : Gives (fieldAccess kind (fun _ => none) ea) s l t)
    (hr : refuse l = none) : Gives (fieldAccess kind refuse ea) s l t := by
  unfold fieldAccess at h ⊢
  dsimp only at h ⊢
  generalize windowOf ea.toNat = window at h ⊢
  cases window with
  | global =>
    obtain ⟨l', u, hl, h⟩ := gives_bind_inv h
    have hll : l' = l := by
      split at h
      · cases h
      · cases h; rfl
    subst hll
    refine gives_bind hl ?_
    rw [hr]
    exact h
  | _ => exact h

/-- What is asked of the value of a lane: the value a join takes, where it has one. -/
abbrev LaneOperand := Leaf → Word → Option Int

/-- The value of a lane as an operand. -/
def laneVal (v : Vec) (l : Nat) : Word := (lane v.bits l).setWidth 64

/-- The check of one lane's cell (R251). -/
def laneCell (refuse : Leaf → Option FaultCode) (w : Nat) (operand : LaneOperand) (named : Option Vec) (p : Nat × Nat) :
    M (Leaf × Nat × Nat) := do
  let ea := BitVec.ofNat 64 p.2
  let l ← fieldAccess .write refuse ea
  check (decide (p.2 % (w / 8) = 0)) .address ea
  check (named.all fun v => (operand l (laneVal v p.1)).isSome) .range ea
  return (l, p.1, p.2)

theorem laneCells_give {w : Nat} {operand : LaneOperand} {named : Option Vec} {at_ : Nat → Nat} {lanes : List Nat}
    {ls : List Leaf} (h : Gives (lanes.mapM fun l => fieldAccess .write (fun _ => none) (BitVec.ofNat 64 (at_ l))) s ls t)
    (hr : ∀ l ∈ ls, refuse l = none) (hal : ∀ l ∈ lanes, at_ l % (w / 8) = 0)
    (hn : ∀ p ∈ lanes.zip ls, (named.all fun v => (operand p.2 (laneVal v p.1)).isSome) = true) :
    Gives ((lanes.map fun l => (l, at_ l)).mapM (laneCell refuse w operand named)) s
      ((lanes.zip ls).map fun p => (p.2, p.1, at_ p.1)) t := by
  induction lanes generalizing s ls with
  | nil => cases h; exact gives_pure _ _
  | cons l lanes ih =>
    obtain ⟨y, u, r, hy, hrest, rfl⟩ := gives_mapM_cons h
    rw [List.map_cons, List.mapM_cons]
    refine gives_bind (gives_bind (fieldAccess_refuse hy (hr y (List.mem_cons_self ..)))
      (gives_bind (check_of_true (decide_eq_true (hal l (List.mem_cons_self ..))) _ _ u)
      (gives_bind (check_of_true (hn (l, y) (List.mem_cons_self ..)) _ _ u) (gives_pure _ u)))) ?_
    exact gives_bind (ih hrest (fun z hz => hr z (List.mem_cons_of_mem _ hz)) (fun z hz => hal z (List.mem_cons_of_mem _ hz))
      (fun p hp => hn p (List.mem_cons_of_mem _ hp))) (gives_pure _ _)

theorem gives_mapM_same {α β : Type} {f : β → M α} {g : β → α} {l : List β} (h : ∀ p ∈ l, Gives (f p) s (g p) s) :
    Gives (l.mapM f) s (l.map g) s := by
  induction l with
  | nil => exact gives_pure _ s
  | cons p l ih =>
    rw [List.mapM_cons]
    exact gives_bind (h p (List.mem_cons_self ..)) (gives_bind (ih fun q hq => h q (List.mem_cons_of_mem _ hq)) (gives_pure _ s))

theorem namedVec_gives (x : VSpec) (s : State) : Gives (namedVec x) s (namedVector s.cur.regs x) s := by
  cases x <;> rfl

/-- A list of which each element has a value is the list of the values. -/
theorem values_of_some {α : Type} {l : List α} {f : α → Option Int} {ys : List Int} (h : l.map f = ys.map some) :
    ys = l.map (fun p => (f p).getD 0) ∧ ∀ p ∈ l, f p = some ((f p).getD 0) := by
  induction l generalizing ys with
  | nil => exact ⟨by simpa using h.symm, fun p hp => by cases hp⟩
  | cons p l ih =>
    cases ys with
    | nil => cases h
    | cons y ys =>
      rw [List.map_cons, List.map_cons, List.cons.injEq] at h
      obtain ⟨hp, hrest⟩ := h
      obtain ⟨hys, hall⟩ := ih hrest
      refine ⟨by rw [List.map_cons, hp, ← hys]; rfl, fun q hq => ?_⟩
      rcases List.mem_cons.1 hq with rfl | hq
      · rw [hp]; rfl
      · exact hall q hq

/-- One join per active lane, after every lane has been checked. -/
theorem joinLanes_gives {w : Nat} {operand : LaneOperand} {u : Word} {i v : Vec} {ls : List Leaf} {f : Nat × Leaf → Int}
    (hb : srcBound b s) (hix : vsrcBound ix s) (hx : vsrcBound x s) (hu : Gives (readClean b) s u s1)
    (hiv : Gives (readVec ix) s1 i s2) (hm : i.mark &&& lanesAt s2 = 0)
    (hls : Gives ((laneList (lanesAt s2)).mapM fun l =>
      fieldAccess .write (fun _ => none) (BitVec.ofNat 64 (u + (lane i.bits l).setWidth 64).toNat)) s2 ls s3)
    (hr : ∀ l ∈ ls, refuse l = none)
    (hal : ∀ l ∈ laneList (lanesAt s2), (u + (lane i.bits l).setWidth 64).toNat % (w / 8) = 0)
    (hv : Gives (readVec x) s3 v s4)
    (hall : ∀ p ∈ (laneList (lanesAt s2)).zip ls, operand p.2 (laneVal v p.1) = some (f p))
    (hj : Gives (((laneList (lanesAt s2)).zip ls).forM fun p =>
      joinCell p.2 (u + (lane i.bits p.1).setWidth 64).toNat w (f p) (v.mark.getLsbD p.1) false) s4 () t) :
    Gives (joinLanes x b ix refuse w operand) s .done t := by
  have hcur : s3.cur = s2.cur := ((keeps_mapM cachesOnly_chain (fun l => keeps_fieldAccess _ _ _) _ s2).of_gives hls).cur
  have hnamed : ∀ p ∈ (laneList (lanesAt s2)).zip ls,
      ((namedVector s2.cur.regs x).all fun v => (operand p.2 (laneVal v p.1)).isSome) = true := fun p hp => by
    cases hn : namedVector s2.cur.regs x with
    | none => rfl
    | some v' =>
      rw [← hcur] at hn
      obtain ⟨rfl, _⟩ := gives_unique hv (readVec_of_named hn)
      rw [Option.all_some, hall p hp]
      rfl
  refine gives_bind hb (gives_bind hix (gives_bind hx (gives_bind (checkNamed_gives (readClean_clean hu))
    (gives_bind (checkNamedLanes_gives (readVec_clean_of_chans (readClean_chans hu) hiv hm)) (gives_bind hu (gives_bind hiv
    (gives_bind (activeLanes_gives s2) (gives_bind (offsetLanes_gives hm s2) (gives_bind (namedVec_gives x s2)
    (gives_bind (laneCells_give hls hr hal hnamed) (gives_bind hv ?_)))))))))))
  refine gives_bind (gives_mapM_same (g := fun p => (p.1, p.2.2, f (p.2.1, p.1), v.mark.getLsbD p.2.1)) fun p hp => ?_) ?_
  · obtain ⟨q, hq, rfl⟩ := List.mem_map.1 hp
    have hval := hall q hq
    dsimp only [laneVal] at hval ⊢
    rw [hval]
    exact gives_pure _ _
  · refine gives_bind (x := ()) ?_ (gives_pure _ _)
    simpa only [List.forM_eq_forM, List.forM_map] using hj

end

/-- Settles O18. -/
theorem vectorJoinsComplete : Obligations.VectorJoinsComplete := by
  refine ⟨fun x b ix s s1 s2 s3 s4 t u i v ls hi hb hix hx hu hiv hm hls hty hal hv hj => ?_,
    fun x b ix s s1 s2 s3 s4 t u i v ls ys hi hb hix hx hu hiv hm hls hty hal hv hys hj => ?_⟩
  · exact issue_gives hi (joinLanes_gives (f := fun p => ((lane v.bits p.1).toNat : Nat)) hb hix hx hu hiv hm hls
      (fun l hl => refuseJoin_none (.inr (.inl rfl)) (hty l hl).1 (hty l hl).2 fun _ => by decide) hal hv
      (fun p _ => by rw [laneVal, BitVec.toNat_setWidth_of_le (by decide)]) hj)
  · obtain ⟨hlist, hall⟩ := values_of_some hys
    rw [hlist, ← List.map_prod_left_eq_zip, List.forM_eq_forM, List.forM_map] at hj
    exact issue_gives hi (joinLanes_gives hb hix hx hu hiv hm hls
      (fun l hl => onlyTypes_none (decide_eq_true (hty l hl))) hal hv hall hj)

end Sys2Proof.Machine
end

section
/-! PROOFS. Spawns and sends (R281 to R285), and the channel twins (R286). -/
namespace Sys2Proof.Machine
open Sys2Proof.Claims

/-! R377: the outcome a log holds. -/

section
variable {s : State} {q : Fin 64} {ws : List Word} {kind : Nat}

theorem replayed_off (kind : Nat) (h : s.cur.replaying = false) : Gives (replayed kind) s none s := by
  refine gives_bind (get_gives s) ?_
  dsimp only
  rw [h]
  exact gives_pure _ s

theorem logHas_find (h : LogHas s q ws) :
    ((List.range s.queues[q].rlogsize.toNat).map (s.logWords s.queues[q].rlog.toNat)).find?
      (fun ws => ws.take 2 == [s.cur.taskKey, s.cur.regs.icount]) = some ws := by
  obtain ⟨_, i, hi, rfl, hfirst, hbefore⟩ := h
  rw [List.find?_map, Option.map_eq_some_iff]
  refine ⟨i, List.find?_range_eq_some.2 ⟨beq_iff_eq.2 hfirst, List.mem_range.2 hi, fun j hj => ?_⟩, rfl⟩
  rw [Bool.not_eq_true', Function.comp_apply, beq_eq_false_iff_ne]
  exact hbefore j hj

/-- In replay the log is looked up. -/
theorem replayed_on (h : LogHas s q ws) (hon : s.cur.replaying = true) : replayed kind s =
    (if ws[2]? = some (BitVec.ofNat 64 kind) then pure (some (s.logOutcomeOf ws)) else raise .nondeterminism : M _) s := by
  rw [replayed, bind_of_gives (get_gives s)]
  dsimp only
  rw [hon, h.1]
  dsimp only
  rw [logHas_find h, if_neg (by decide)]

theorem replayed_gives (h : LogHas s q ws) (hon : s.cur.replaying = true) (hk : ws[2]? = some (BitVec.ofNat 64 kind)) :
    Gives (replayed kind) s (some (s.logOutcomeOf ws)) s := by
  rw [Gives, replayed_on h hon, if_pos hk]
  rfl

theorem replayed_raises (h : LogHas s q ws) (hon : s.cur.replaying = true) (hk : ws[2]? ≠ some (BitVec.ofNat 64 kind)) :
    replayed kind s = .error (.fault { code := .nondeterminism }) := by
  rw [replayed_on h hon, if_neg hk]
  rfl

end

/-! R281 to R285. -/

section
variable {s s1 s2 s3 s4 s5 t : State} {core rec d : Scalar} {vs : List Val} {r : TaskRec} {k n kind : Nat} {high : Bool} {v : Val}

/-- The record taken and the accesses acknowledged, and then the rest. -/
theorem record_eq {α : Type} {f : TaskRec → M α} {g : M α} (h : RecordAtHand k v high s r s2) : (do
      match (← takeRecord k (← useClean v) high) with
      | none => g
      | some r => if !(← waitAcks true) then g else f r : M α) s = f r s2 := by
  obtain ⟨hm, m, hr, hacks⟩ := h
  refine (bind_of_gives (useClean_gives hm s) _).trans ((bind_of_gives hr _).trans ?_)
  exact bind_of_gives (waitAcks_gives hacks) _

theorem record_gives {α : Type} {f : TaskRec → M α} {g : M α} {x : α} (h : RecordAtHand k v high s r s2)
    (hf : Gives (f r) s2 x t) : Gives (do
      match (← takeRecord k (← useClean v) high) with
      | none => g
      | some r => if !(← waitAcks true) then g else f r) s x t := (record_eq h).trans hf

theorem sendCore_gives (h : Sendable v) (s : State) : Gives (sendCore v) s v.bits.toNat s :=
  gives_bind (useClean_gives h.1 s) (gives_bind (check_of_true (decide_eq_true h.2) _ _ s) (gives_pure _ s))

theorem tryDeliver_room {d : Nat} (hd : s.redirect n (dieOf s.cur.core) = some d) (hroom : s.inboxRoom d high = true) :
    Gives (tryDeliver n high r) s true (s.putInbox d high r) := by
  refine gives_bind (get_gives s) ?_
  rw [hd]
  dsimp only
  rw [if_pos hroom]
  exact gives_bind (set_gives _ _) (gives_pure _ _)

theorem tryDeliver_refused (h : ∀ d, s.redirect n (dieOf s.cur.core) = some d → s.inboxRoom d high = false) :
    Gives (tryDeliver n high r) s false s := by
  refine gives_bind (get_gives s) ?_
  cases hd : s.redirect n (dieOf s.cur.core) with
  | none => exact gives_pure _ s
  | some d =>
    dsimp only
    rw [if_neg (by rw [h d hd]; decide)]
    exact gives_pure _ s

/-- A send that has its record delivers it or parks. -/
theorem sendTask_gives {b : Bool} (hc : srcBound core s) (hr : srcBound rec s) (hvs : Operands [core, rec] s vs s1)
    (hn : Sendable (nthVal vs 0)) (hrec : RecordAtHand 2 (nthVal vs 1) high s1 r s2)
    (hb : Gives (tryDeliver (nthVal vs 0).bits.toNat high r) s2 b t) :
    Gives (sendTask high core rec) s (if b then .done else .park (.inbox (nthVal vs 0).bits.toNat high)) t := by
  refine gives_bind hc (gives_bind hr (gives_bind hvs (gives_bind (sendCore_gives hn s1) (record_gives hrec
    (gives_bind hb ?_)))))
  cases b <;> exact gives_pure _ t

/-- What a send that does not wait does with its record: `sent` says whether it stands in the inbox. -/
def sendOutcome (kind : Nat) (d : Scalar) (sent : Bool) : M Unit := do
  writeScalar d { bits := if sent then 0 else 1 }
  logOutcome kind [if sent then 0 else 1]
  markNd

/-- The rest of a send that does not wait, once its record is at hand. -/
def deliverOnce (kind : Nat) (high : Bool) (d : Scalar) (n : Nat) (r : TaskRec) : M Flow := do
  let logged ← replayed kind
  let sent ← match logged with
    | some out => if out.headD 0 = 0 then tryDeliver n high r else pure false
    | none => tryDeliver n high r
  match logged with
  | some out => if out.headD 0 = 0 && !sent then return .stall
  | none => pure ()
  let st : Word := if sent then 0 else 1
  writeScalar d { bits := st }
  logOutcome kind [st]
  markNd
  return .done

theorem trySend_eq (hs : s.cur.strict = false) (hc : srcBound core s) (hr : srcBound rec s) (hd : dstBound d s)
    (hvs : Operands [core, rec] s vs s1) (hn : Sendable (nthVal vs 0)) (hrec : RecordAtHand 2 (nthVal vs 1) high s1 r s2) :
    trySend kind high d core rec s = deliverOnce kind high d (nthVal vs 0).bits.toNat r s2 :=
  (bind_of_gives (cur_gives s) _).trans ((bind_of_gives (check_of_true (by rw [hs]; rfl) _ _ s) _).trans
    ((bind_of_gives hc _).trans ((bind_of_gives hr _).trans ((bind_of_gives hd _).trans ((bind_of_gives hvs _).trans
    ((bind_of_gives (sendCore_gives hn s1) _).trans (record_eq hrec)))))))

theorem trySend_gives {f : Flow} (hs : s.cur.strict = false) (hc : srcBound core s) (hr : srcBound rec s) (hd : dstBound d s)
    (hvs : Operands [core, rec] s vs s1) (hn : Sendable (nthVal vs 0)) (hrec : RecordAtHand 2 (nthVal vs 1) high s1 r s2)
    (h : Gives (deliverOnce kind high d (nthVal vs 0).bits.toNat r) s2 f t) : Gives (trySend kind high d core rec) s f t :=
  (trySend_eq hs hc hr hd hvs hn hrec).trans h

theorem sendOutcome_done {sent : Bool} (h : Gives (sendOutcome kind d sent) s () t) : Gives (do
    let st : Word := if sent then 0 else 1
    writeScalar d { bits := st }
    logOutcome kind [st]
    markNd
    return Flow.done) s .done t := by
  obtain ⟨_, u, hw, h⟩ := gives_bind_inv h
  obtain ⟨_, v, hlog, hnd⟩ := gives_bind_inv h
  exact gives_bind hw (gives_bind hlog (gives_bind hnd (gives_pure _ _)))

/-- Outside replay the inbox decides. -/
theorem deliverOnce_live {sent : Bool} (hoff : s.cur.replaying = false) (hsent : Gives (tryDeliver n high r) s sent s1)
    (h : Gives (sendOutcome kind d sent) s1 () t) : Gives (deliverOnce kind high d n r) s .done t :=
  gives_bind (replayed_off kind hoff) (gives_bind hsent (sendOutcome_done h))

/-- A send that failed when it was recorded fails again. -/
theorem deliverOnce_failed {out : List Word} (hlog : Gives (replayed kind) s (some out) s) (hout : out.headD 0 ≠ 0)
    (h : Gives (sendOutcome kind d false) s () t) : Gives (deliverOnce kind high d n r) s .done t := by
  refine gives_bind hlog ?_
  dsimp only
  rw [if_neg hout]
  refine gives_bind (gives_pure false s) ?_
  rw [if_neg (by rw [decide_eq_false hout]; decide)]
  exact sendOutcome_done h

/-- One that succeeded then is put there when there is room. -/
theorem deliverOnce_repeated {out : List Word} (hlog : Gives (replayed kind) s (some out) s) (hout : out.headD 0 = 0)
    (hsent : Gives (tryDeliver n high r) s true s1) (h : Gives (sendOutcome kind d true) s1 () t) :
    Gives (deliverOnce kind high d n r) s .done t := by
  refine gives_bind hlog ?_
  dsimp only
  rw [if_pos hout]
  refine gives_bind hsent ?_
  rw [if_neg (by simp)]
  exact sendOutcome_done h

theorem deliverOnce_waits {out : List Word} (hlog : Gives (replayed kind) s (some out) s) (hout : out.headD 0 = 0)
    (hsent : Gives (tryDeliver n high r) s false s) : Gives (deliverOnce kind high d n r) s .stall s := by
  refine gives_bind hlog ?_
  dsimp only
  rw [if_pos hout]
  refine gives_bind hsent ?_
  rw [if_pos (by rw [decide_eq_true hout]; decide)]
  exact gives_pure _ s

end

theorem spawns_complete {rec arg : Scalar} {s s1 s2 : State} {vs : List Val} {r : TaskRec}
    (hi : issues (.spawn rec arg) s = true) (hr : srcBound rec s) (ha : srcBound arg s) (hvs : Operands [rec, arg] s vs s1)
    (hrec : RecordAtHand 2 (nthVal vs 0) false s1 r s2) : Completes (.spawn rec arg) s
      (s2.pushDeque s2.cur.core (if arg = .g 0 then r else
        { r.setWord 2 (nthVal vs 1).bits with argMark := (nthVal vs 1).mark })) := by
  refine issue_gives hi (gives_bind hr (gives_bind ha (gives_bind hvs (record_gives hrec (gives_bind (cur_gives s2) ?_)))))
  have hif : (if arg = .g 0 then r else { r.setWord 2 (nthVal vs 1).bits with argMark := (nthVal vs 1).mark }) =
      if (arg == .g 0) = true then r else { r.setWord 2 (nthVal vs 1).bits with argMark := (nthVal vs 1).mark } := by
    simp only [beq_iff_eq]
  rw [hif]
  exact gives_bind (modify_gives _ s2) (gives_pure _ _)

theorem spawnws_complete {rec cell trig : Scalar} {s s1 s2 s3 s4 s5 t : State} {vs : List Val} {r : TaskRec} {l : Leaf}
    (hi : issues (.spawnw rec cell trig) s = true) (hr : srcBound rec s) (hc : srcBound cell s) (ht : srcBound trig s)
    (hvs : Operands [rec, cell, trig] s vs s1) (hm : (nthVal vs 0).mark = false)
    (hrec : Gives (takeRecord 3 (nthVal vs 0).bits false) s1 (some r) s2) (hm1 : (nthVal vs 1).mark = false)
    (hl : Admitted .read (nthVal vs 1).bits s2 l s3) (h1 : 1 ≤ l.ty) (h10 : l.ty ≤ 10)
    (hal : l.ty = 1 → (nthVal vs 1).bits.toNat % 8 = 0) (hacks : Acknowledged true s3 s4)
    (hahead : Gives (clearAhead (l.key (nthVal vs 1).bits.toNat)) s4 true s5)
    (hsend : Gives (sendHome l (nthVal vs 1).bits.toNat (.test (l.key (nthVal vs 1).bits.toNat) l.ty l.arg
      (.await (nthVal vs 2).bits) (.watch s5.cur.key s5.cur.core r s5.cur.regs.pc))) s5 () t) :
    Completes (.spawnw rec cell trig) s t := by
  refine issue_gives hi (gives_bind hr (gives_bind hc (gives_bind ht (gives_bind hvs (gives_bind (useClean_gives hm s1)
    (gives_bind hrec (gives_bind (useClean_gives hm1 s2) (gives_bind (fieldAccess_gives hl (onlyTypes_none (fieldType_true h1 h10)))
    (gives_bind (check_of_true ?_ _ _ s3) (gives_bind (waitAcks_gives hacks) (gives_bind hahead (gives_bind (cur_gives s5)
    (gives_bind hsend (gives_pure _ _))))))))))))))
  rw [Bool.or_eq_true, decide_eq_true_eq, decide_eq_true_eq]
  exact Decidable.not_or_of_imp hal

theorem sends_complete : ∀ p ∈ sends, ∀ core rec s,
    exec (p.1 core rec) s = issue (p.1 core rec) (sendTask p.2 core rec) s := by
  simp only [sends, List.forall_mem_cons, List.not_mem_nil, false_imp_iff, implies_true, and_true]
  exact ⟨fun _ _ _ => rfl, fun _ _ _ => rfl⟩

theorem trySends_exec : ∀ p ∈ trySends, ∀ x core rec s,
    exec (p.1 x core rec) s = issue (p.1 x core rec) (trySend p.2.1 p.2.2 x core rec) s := by
  simp only [trySends, List.forall_mem_cons, List.not_mem_nil, false_imp_iff, implies_true, and_true]
  exact ⟨fun _ _ _ _ => rfl, fun _ _ _ _ => rfl⟩

/-- A core in scheduling takes its own records (R284). -/
theorem redirect_self {c bd : Nat} {s : State} (h : c < 768) (hout : (s.core c).out = false) (hdr : (s.core c).drained = false)
    (hlost : s.coreLost c = false) (hapart : s.apart bd (dieOf c) = false) : s.redirect c bd = some c := by
  rw [State.redirect, List.append_assoc, List.singleton_append, List.find?_cons_of_pos]
  simp [State.canTake, h, hout, hdr, hlost, hapart]

/-- A record in an inbox: it stands last there, and no other core changes. -/
theorem putInbox_core (c : Nat) (high : Bool) (r : TaskRec) (s : State) :
    ((s.putInbox c high r).core c).inbox = (s.core c).inbox ++ (if high then [] else [r]) ∧
      ((s.putInbox c high r).core c).high = (s.core c).high ++ (if high then [r] else []) ∧
      ∀ k, k ≠ c → (s.putInbox c high r).core k = s.core k := by
  have hsame : (s.putInbox c high r).core c = if high then { s.core c with high := (s.core c).high ++ [r] }
      else { s.core c with inbox := (s.core c).inbox ++ [r] } :=
    core_modCore_same s c fun _ => by cases high <;> rfl
  rw [hsame]
  refine ⟨?_, ?_, fun k hk => ?_⟩
  · cases high <;> simp
  · cases high <;> simp
  · refine State.core_setCore_other _ _ ?_
    cases high <;> exact fun h => hk ((h.symm.trans (State.core_num s c)))

/-- Settles O19: a record at hand goes to its deque, its home or an inbox, or waits for room. -/
theorem spawnsAndSendsComplete : Obligations.SpawnsAndSendsComplete := by
  refine ⟨⟨fun rec arg s s1 s2 vs r hi hr ha hvs hrec => spawns_complete hi hr ha hvs hrec,
      fun rec cell trig s s1 s2 s3 s4 s5 t vs r l hi hr hc ht hvs hm hrec hm1 hl h1 h10 hal hacks hahead hsend =>
        spawnws_complete hi hr hc ht hvs hm hrec hm1 hl h1 h10 hal hacks hahead hsend⟩,
    fun p hp core rec s s1 s2 vs r hi hc hr hvs hn hrec => ⟨fun d hd hroom => ?_, fun hno => ?_⟩,
    fun p hp x core rec s s1 s2 vs r d hi hs hc hr hx hvs hn hrec hoff hd => ⟨fun t hroom ht => ?_, fun t hroom ht => ?_⟩,
    fun p hp x core rec s s1 s2 t vs r hi hs hc hr hx hvs hn hrec hoff hd ht => ?_,
    fun p hp x core rec s s1 s2 vs r q ws hi hs hc hr hx hvs hn hrec hon hlog => ⟨fun hk => ?_, fun hk =>
      ⟨fun t hout ht => ?_, fun d t hout hd hroom ht => ?_, fun hout hno => ?_⟩⟩,
    fun c bd s h hout hdr hlost hapart => redirect_self h hout hdr hlost hapart, fun c high r s => ?_⟩
  · exact (sends_complete p hp core rec s).trans
      (issue_gives hi (sendTask_gives hc hr hvs hn hrec (tryDeliver_room hd hroom)))
  · exact (sends_complete p hp core rec s).trans
      (issue_gives hi (sendTask_gives hc hr hvs hn hrec (tryDeliver_refused hno)))
  · exact (trySends_exec p hp x core rec s).trans (issue_gives hi (trySend_gives hs hc hr hx hvs hn hrec
      (deliverOnce_live hoff (tryDeliver_room hd hroom) ht)))
  · exact (trySends_exec p hp x core rec s).trans (issue_gives hi (trySend_gives hs hc hr hx hvs hn hrec
      (deliverOnce_live hoff (tryDeliver_refused fun d' hd' => by rw [hd] at hd'; cases hd'; exact hroom) ht)))
  · exact (trySends_exec p hp x core rec s).trans (issue_gives hi (trySend_gives hs hc hr hx hvs hn hrec
      (deliverOnce_live hoff (tryDeliver_refused fun d' hd' => by rw [hd] at hd'; cases hd') ht)))
  · exact (trySends_exec p hp x core rec s).trans (issue_raises hi ((trySend_eq hs hc hr hx hvs hn hrec).trans
      (bind_of_error (replayed_raises hlog hon hk) _)))
  · exact (trySends_exec p hp x core rec s).trans (issue_gives hi (trySend_gives hs hc hr hx hvs hn hrec
      (deliverOnce_failed (replayed_gives hlog hon hk) hout ht)))
  · exact (trySends_exec p hp x core rec s).trans (issue_gives hi (trySend_gives hs hc hr hx hvs hn hrec
      (deliverOnce_repeated (replayed_gives hlog hon hk) hout (tryDeliver_room hd hroom) ht)))
  · exact (trySends_exec p hp x core rec s).trans (issue_gives hi (trySend_gives hs hc hr hx hvs hn hrec
      (deliverOnce_waits (replayed_gives hlog hon hk) hout (tryDeliver_refused hno))))
  · obtain ⟨hin, hhigh, hother⟩ := putInbox_core c high r s
    exact ⟨hin, hhigh, hother, rfl, rfl⟩

/-! R286: the channel twins. -/

section
variable {s s1 s2 s3 t : State} {p : Fin 8} {e : PortEnd} {ch : Channel} {n kind : Nat} {st d : Scalar} {sending wide : Option Bool}

theorem twinPort_gives (h : boundAt s p e ch) (hs : sending = none ∨ sending = some e.sending)
    (hw : wide = none ∨ wide = some ch.wide) : Gives (twinPort (.c p) sending wide) s (p, e, ch) s := by
  obtain ⟨hport, hchan⟩ := h
  refine gives_bind (cur_gives s) ?_
  rw [hport]
  refine gives_bind (check_of_true ?_ _ _ s) (gives_bind (get_gives s) ?_)
  · rw [Bool.or_eq_true, beq_iff_eq, beq_iff_eq]
    exact hs
  · rw [hchan]
    refine gives_bind (check_of_true ?_ _ _ s) (gives_pure _ s)
    rw [Bool.or_eq_true, beq_iff_eq, beq_iff_eq]
    exact hw

/-- Outside replay a twin acts on what it sees. -/
theorem twinActs_live {able now : M Bool} {b : Bool} (hoff : s.cur.replaying = false) (h : Gives able s b t) :
    Gives (twinActs kind able now) s b t := gives_bind (replayed_off kind hoff) h

theorem twinTake_item {x : Vec} (hoff : s.cur.replaying = false) (hseen : Gives (itemsSeen ch) s n s1) (hn : 0 < n)
    (hx : Gives (takeItem p) s1 x s2) : Gives (twinTake kind p ch) s (some x) s2 := by
  refine gives_bind (twinActs_live (b := true) hoff (gives_bind hseen ?_)) (gives_bind hx (gives_pure _ _))
  rw [decide_eq_true hn]
  exact gives_pure _ _

theorem twinTake_none (hoff : s.cur.replaying = false) (hseen : Gives (itemsSeen ch) s 0 s1) :
    Gives (twinTake kind p ch) s none s1 :=
  gives_bind (twinActs_live (b := false) hoff (gives_bind hseen (gives_pure _ _))) (gives_pure _ _)

theorem twinSend_item {x : Vec} (hoff : s.cur.replaying = false) (hseen : Gives (slotsSeen ch) s n s1) (hn : 0 < n)
    (hx : Gives (putItem p x) s1 () s2) (he : Gives (endTwin kind st 1 []) s2 .done t) :
    Gives (twinSend kind st p ch x) s .done t := by
  refine gives_bind (twinActs_live (b := true) hoff (gives_bind hseen ?_)) (gives_bind hx he)
  rw [decide_eq_true hn]
  exact gives_pure _ _

theorem twinSend_none {x : Vec} (hoff : s.cur.replaying = false) (hseen : Gives (slotsSeen ch) s 0 s1)
    (he : Gives (endTwin kind st 0 []) s1 .done t) : Gives (twinSend kind st p ch x) s .done t :=
  gives_bind (twinActs_live (b := false) hoff (gives_bind hseen (gives_pure _ _))) he

/-- A twin that may run makes its checks, and then goes on. -/
theorem twin_gives {α : Type} {k : Fin 8 × PortEnd × Channel → M α} {x : α} {i : Instr} (h : TwinOn i s p e ch)
    (hs : sending = none ∨ sending = some e.sending) (hw : wide = none ∨ wide = some ch.wide) (hk : Gives (k (p, e, ch)) s x t) :
    Gives (do
      check (!(← cur).strict) .nondeterminism
      k (← twinPort (.c p) sending wide)) s x t :=
  gives_bind (cur_gives s) (gives_bind (check_of_true (by rw [h.2.1]; rfl) _ _ s) (gives_bind (twinPort_gives h.2.2 hs hw) hk))

end

/-- Settles O20: outside replay a twin acts on what its end sees. -/
theorem channelTwinsTakeOrAnswer : Obligations.ChannelTwinsTakeOrAnswer := by
  refine ⟨fun st data p s s1 s2 t e ch n x h he hw hd hst hoff hseen => ⟨fun hn hx hend => ?_, fun hn hend => ?_⟩,
    fun st data p s s1 s2 t e ch n x h he hw hd hst hoff hseen => ⟨fun hn hx hend => ?_, fun hn hend => ?_⟩,
    fun st val p s s1 s2 s3 t e ch n v h he hw hst hv hoff hseen => ⟨fun hn hx hend => ?_, fun hn hend => ?_⟩,
    fun st val p s s1 s2 s3 t e ch n v h he hw hval hst hv hoff hseen => ⟨fun hn hx hend => ?_, fun hn hend => ?_⟩,
    fun d p s s1 t e ch n h hd hoff hseen hend => ?_⟩
  · exact issue_gives h.1 (twin_gives h (.inr (by rw [he])) (.inr (by rw [hw])) (gives_bind hd (gives_bind hst
      (gives_bind (twinTake_item hoff hseen hn hx) hend))))
  · subst hn
    exact issue_gives h.1 (twin_gives h (.inr (by rw [he])) (.inr (by rw [hw])) (gives_bind hd (gives_bind hst
      (gives_bind (twinTake_none hoff hseen) hend))))
  · exact issue_gives h.1 (twin_gives h (.inr (by rw [he])) (.inr (by rw [hw])) (gives_bind hd (gives_bind hst
      (gives_bind (twinTake_item hoff hseen hn hx) hend))))
  · subst hn
    exact issue_gives h.1 (twin_gives h (.inr (by rw [he])) (.inr (by rw [hw])) (gives_bind hd (gives_bind hst
      (gives_bind (twinTake_none hoff hseen) hend))))
  · exact issue_gives h.1 (twin_gives h (.inr (by rw [he])) (.inr (by rw [hw])) (gives_bind hst (gives_bind hv
      (twinSend_item hoff hseen hn hx hend))))
  · subst hn
    exact issue_gives h.1 (twin_gives h (.inr (by rw [he])) (.inr (by rw [hw])) (gives_bind hst (gives_bind hv
      (twinSend_none hoff hseen hend))))
  · exact issue_gives h.1 (twin_gives h (.inr (by rw [he])) (.inr (by rw [hw])) (gives_bind hval (gives_bind hst (gives_bind hv
      (twinSend_item hoff hseen hn hx hend)))))
  · subst hn
    exact issue_gives h.1 (twin_gives h (.inr (by rw [he])) (.inr (by rw [hw])) (gives_bind hval (gives_bind hst (gives_bind hv
      (twinSend_none hoff hseen hend)))))
  · refine issue_gives h.1 (twin_gives h (.inl rfl) (.inl rfl) (gives_bind hd (gives_bind (replayed_off 5 hoff) ?_)))
    cases hs : e.sending with
    | true => rw [hs] at hseen; exact gives_bind hseen hend
    | false => rw [hs] at hseen; exact gives_bind hseen hend

end Sys2Proof.Machine
end

section
/-! PROOFS. END, HALT, YIELD, traps and their return (R292 to R296). -/
namespace Sys2Proof.Machine
open Sys2Proof.Claims

theorem mem_putCtx (c : Context) (l : List Context) : c ∈ putCtx l c := List.mem_of_find?_eq_some (putCtx_find c l)

/-! Contexts changed one after another. -/

theorem Chain.foldl {α : Type} {R : State → State → Prop} (hR : Chain R) {f : State → α → State} (h : ∀ s x, R s (f s x))
    (l : List α) (s : State) : R s (l.foldl f s) := by
  induction l generalizing s with
  | nil => exact hR.refl s
  | cons x l ih => exact hR.trans (h s x) (ih _)

/-- Only contexts differ. -/
def CtxsOnly (s t : State) : Prop := t = { s with cur := t.cur, ctxs := t.ctxs }

theorem ctxsOnly_chain : Chain CtxsOnly := ⟨fun _ => rfl, fun h h' => h'.trans (by rw [h])⟩

theorem ctxsOnly_setCtx (s : State) (c : Context) : CtxsOnly s (s.setCtx c) := by
  unfold State.setCtx
  split <;> exact rfl

theorem ctxsOnly_modCtx (s : State) (k : Key) (f : Context → Context) : CtxsOnly s (s.modCtx k f) := by
  unfold State.modCtx
  split
  · exact ctxsOnly_setCtx _ _
  · exact rfl

/-! What the end of a task changes. -/

section
variable (s : State)

theorem refreshSuspended_eq : ∃ qs, s.refreshSuspended = { s with queues := qs } := ⟨_, rfl⟩

theorem postCompletion_eq (q : Fin 64) (ws : List Word) : ∃ m qs v, s.postCompletion q ws =
    { s with mem := m, queues := qs, vectors := v } := ⟨_, _, _, rfl⟩

theorem complete_eq (id status code node : Nat) : ∃ ls m qs v, s.complete id status code node =
    { s with launches := ls, mem := m, queues := qs, vectors := v } := by
  unfold State.complete
  split
  · exact ⟨_, _, _, _, rfl⟩
  · dsimp only
    split
    · exact ⟨_, _, _, _, rfl⟩
    · exact ⟨_, _, _, _, rfl⟩

theorem settleLaunch_eq (id : Nat) : ∃ ls m qs v, s.settleLaunch id =
    { s with launches := ls, mem := m, queues := qs, vectors := v } := by
  unfold State.settleLaunch
  split
  · exact ⟨_, _, _, _, rfl⟩
  · split
    · exact complete_eq s id 0 0 0
    · exact ⟨_, _, _, _, rfl⟩

/-- The crews without a context that is gone. -/
def crewsWithout (k : Key) (crews : List Crew) : List Crew :=
  (crews.map fun w => { w with keys := w.keys.filter fun x => x != k }).filter fun w => !w.started || !w.keys.isEmpty

theorem not_mem_crewsWithout {k : Key} {crews : List Crew} : ∀ w ∈ crewsWithout k crews, k ∉ w.keys := by
  intro w hw
  obtain ⟨x, _, rfl⟩ := List.mem_map.1 (List.mem_filter.1 hw).1
  simp

theorem freeCtx_cur (h : s.busy = true) : ∃ sp cs chs qs, s.freeCtx s.cur =
    { s with busy := false, spare := sp, cores := cs, crews := crewsWithout s.cur.key s.crews, chans := chs, queues := qs } := by
  unfold State.freeCtx
  rw [State.dropCtx, h, beq_self_eq_true, Bool.true_and, if_pos rfl]
  cases s.cur.inH <;> exact ⟨_, _, _, _, rfl⟩

theorem countEnd_eq (c : Context) (reaped : Bool) : ∃ ls, s.countEnd c reaped = { s with launches := ls } := ⟨_, rfl⟩

theorem finished_eq (h : s.busy = true) : ∃ ls m qs v sp cs chs, finished s =
    { s with busy := false, launches := ls, mem := m, queues := qs, vectors := v, spare := sp, cores := cs
             crews := crewsWithout s.cur.key s.crews, chans := chs } := by
  obtain ⟨ls, hcount⟩ := countEnd_eq s s.cur false
  obtain ⟨sp, cs, chs, qs, hfree⟩ := freeCtx_cur { s with launches := ls } h
  obtain ⟨ls', m, qs', v, hset⟩ := settleLaunch_eq (({ s with launches := ls } : State).freeCtx s.cur) s.cur.launch
  refine ⟨ls', m, qs', v, sp, cs, chs, ?_⟩
  rw [finished, hcount, hset, hfree]

end

/-! END and HALT. -/

section
variable {s t t1 t2 t3 : State}

theorem finishTask_gives (s : State) : Gives finishTask s .ended (finished s) :=
  gives_bind (cur_gives s) (gives_bind (modify_gives _ s) (gives_pure _ _))

theorem commandsDone_gives (h : CommandsDone s.cur) : Gives commandsDone s true s := by
  refine gives_bind (cur_gives s) ?_
  have hnone : s.cur.cmds.any Cmd.incomplete = false := List.any_eq_false.2 fun m hm => by rw [(h m hm).1]; decide
  have hfault : s.cur.cmds.find? (fun m => !m.incomplete && m.fault.isSome && !m.delivered) = none := by
    refine List.find?_eq_none.2 fun m hm => ?_
    cases hf : m.fault.isSome with
    | false => simp
    | true => simp [(h m hm).2 hf]
  rw [hnone, Context.pendingFault, hfault]
  exact gives_pure _ s

/-- Steps 1 and 2 of R292 are done. -/
theorem endBody_ready {halt : Bool} {f : Flow} (hjoin : s.cur.endJoin = none) (hacks : Acknowledged true s t)
    (hposted : t.cur.posted = []) (hcmds : CommandsDone t.cur) (h : Gives (do
      if halt || decide (t.cur.cell = 0) then
        let f ← finishTask
        if halt then modify fun s => (s.modCore t.cur.core (fun k => { k with drained := true })).wakeSenders
        return f
      completionJoin t.cur.cell
      if !(← waitAcks true) then return .park (.acks .all)
      reportCompletionJoin
      finishTask) t f t1) : Gives (endBody halt) s f t1 := by
  refine gives_bind (cur_gives s) ?_
  rw [if_pos (by rw [hjoin]; rfl)]
  exact gives_bind (waitAcks_gives hacks) (gives_bind (deliverPosted_gives hposted) (gives_bind (commandsDone_gives hcmds)
    (gives_bind (cur_gives t) h)))

theorem endTask_ends (hi : issues .endTask s = true) (hjoin : s.cur.endJoin = none) (hacks : Acknowledged true s t)
    (hposted : t.cur.posted = []) (hcmds : CommandsDone t.cur) (hcell : t.cur.cell = 0) :
    Ends .endTask s .ended (finished t) := by
  refine issue_gives hi (endBody_ready hjoin hacks hposted hcmds ?_)
  rw [hcell]
  exact gives_bind (finishTask_gives t) (gives_pure _ _)

theorem halt_ends (hi : issues .halt s = true) (hjoin : s.cur.endJoin = none) (hacks : Acknowledged true s t)
    (hposted : t.cur.posted = []) (hcmds : CommandsDone t.cur) :
    Ends .halt s .ended ((finished t).modCore t.cur.core (fun k => { k with drained := true })).wakeSenders :=
  issue_gives hi (endBody_ready hjoin hacks hposted hcmds
    (gives_bind (finishTask_gives t) (gives_bind (modify_gives _ _) (gives_pure _ _))))

/-- 1 joined into the completion cell. -/
theorem completionJoin_gives {cell : BitVec 48} {l : Leaf} (hl : Admitted .write (cell.setWidth 64) s l t1) (h2 : 2 ≤ l.ty)
    (h9 : l.ty ≤ 9) (hal : cell.toNat % 8 = 0) (hj : Gives (joinCell l cell.toNat 64 1 false true) t1 () t2) :
    Gives (completionJoin cell) s () { t2 with cur := { t2.cur with endJoin := some t1.cur.nextOut } } := by
  have hto : ((cell.setWidth 64 : Word)).toNat = cell.toNat := BitVec.toNat_setWidth_of_le (by decide)
  rw [← hto] at hal hj
  exact gives_bind (fieldAccess_gives hl (refuseJoin_none (.inr (.inr rfl)) h2 h9 fun _ => by decide))
    (gives_bind (check_of_true (decide_eq_true hal) _ _ t1) (gives_bind (cur_gives t1) (gives_bind hj (modify_gives _ _))))

theorem endTask_joins {l : Leaf} (hi : issues .endTask s = true) (hjoin : s.cur.endJoin = none) (hacks : Acknowledged true s t)
    (hposted : t.cur.posted = []) (hcmds : CommandsDone t.cur) (hcell : t.cur.cell ≠ 0)
    (hl : Admitted .write (t.cur.cell.setWidth 64) t l t1) (h2 : 2 ≤ l.ty) (h9 : l.ty ≤ 9) (hal : t.cur.cell.toNat % 8 = 0)
    (hj : Gives (joinCell l t.cur.cell.toNat 64 1 false true) t1 () t2)
    (hwait : Gives (waitAcks true) { t2 with cur := { t2.cur with endJoin := some t1.cur.nextOut } } false t3) :
    Ends .endTask s (.park (.acks .all)) t3 := by
  refine issue_gives hi (endBody_ready hjoin hacks hposted hcmds ?_)
  rw [decide_eq_false hcell, if_neg (by decide)]
  exact gives_bind (completionJoin_gives hl h2 h9 hal hj) (gives_bind hwait (gives_pure _ _))

theorem endTask_joined {n : Nat} (hi : issues .endTask s = true) (hjoin : s.cur.endJoin = some n)
    (hacks : Acknowledged true s t) (hposted : ∀ p ∈ t.cur.posted, p.n ≠ n) : Ends .endTask s .ended (finished t) := by
  have hend : t.cur.endJoin = some n := by
    obtain ⟨cur, ctxs, cores, msgs, m, heq, ⟨g, _, _, hcur⟩, _⟩ := freed_drainHeld (s := s) (core := s.cur.core)
      (p := Held.ofCtx s.cur.key)
    rw [hacks.1, heq, hcur]
    exact hjoin
  have hnone : t.cur.posted.find? (fun p => t.cur.endJoin == some p.n) = none :=
    List.find?_eq_none.2 fun p hp => by rw [hend, beq_iff_eq, Option.some.injEq]; exact fun h => hposted p hp h.symm
  have hreport : Gives reportCompletionJoin t () t := by
    refine gives_bind (cur_gives t) ?_
    rw [hnone]
    exact gives_pure _ t
  refine issue_gives hi (gives_bind (cur_gives s) ?_)
  rw [if_neg (by rw [hjoin]; exact Bool.false_ne_true)]
  exact gives_bind (waitAcks_gives hacks) (gives_bind hreport (finishTask_gives t))

end

/-! YIELD, TRAP and BREAKPT. -/

section
variable {s s1 : State}

theorem settle_yield (len : Nat) (c : Context) (s : State) : (settle len c .yield s).busy = false ∧
    ∃ n, { s.cur.finish len with status := .ready n } ∈ (settle len c .yield s).ctxs :=
  ⟨rfl, _, mem_putCtx _ _⟩

theorem yields : ∀ i ∈ [Instr.yield, .yield16], ∀ s, exec i s = issue i yieldBody s := by
  simp only [List.forall_mem_cons, List.not_mem_nil, false_imp_iff, implies_true, and_true]
  exact ⟨fun _ => rfl, fun _ => rfl⟩

theorem yieldBody_gives (s : State) : Gives yieldBody s (if s.cur.inH then .done else .yield) s := by
  refine gives_bind (cur_gives s) ?_
  cases s.cur.inH <;> exact gives_pure _ s

theorem trapBody_gives {a : Scalar} {v : Val} (kind : Nat) (ha : srcBound a s)
    (hroom : s.recordsFull s.cur.key { code := .illegalInstruction } = false) (hv : Gives (readScalar a) s v s1) :
    Gives (trapBody kind a) s (.trap kind v) s1 := by
  refine gives_bind ha (gives_bind (get_gives s) ?_)
  rw [hroom]
  exact gives_bind hv (gives_pure _ _)

theorem drainHeld_of_empty {n : Nat} (p : Held → Bool) (h : (s.core n).hold = []) : s.drainHeld n p = s := by
  rw [drainHeld_eq, h]
  rfl

/-- The context after a trap. -/
theorem settle_trap (len kind : Nat) (arg : Val) (c : Context) (h : (s.core s.cur.core).hold = []) :
    ∃ ctxs n, settle len c (.trap kind arg) s = ({ s with cur := s.cur.finish len, ctxs := ctxs, nextSeq := n } : State).leave
      { s.cur.finish len with
        status := .stopped
        regs := { (s.cur.finish len).regs with pc := c.unitStart.pc }
        unitPc := c.unitStart.pc
        nextPc := (s.cur.finish len).regs.pc
        stop := some { kind := kind, info := { code := .illegalInstruction }, pc := c.regs.pc, arg := arg } } := by
  obtain ⟨ctxs, n, hc⟩ := completed_eq s (s.cur.finish len)
  refine ⟨ctxs, n, ?_⟩
  rw [settle]
  dsimp only
  rw [hc, drainHeld_of_empty]
  exact h

end

/-! ERET. -/

theorem eretBody_gives {rec act : Scalar} {s s1 s2 s3 : State} {x a : Word} {l : Leaf} {r : FaultRec} (hr : srcBound rec s)
    (ha : srcBound act s) (hx : Gives (readClean rec) s x s1) (hact : Gives (readClean act) s1 a s2) (ha1 : a.toNat ≤ 1)
    (hal : x.toNat % 8 = 0) (hwin : windowOf x.toNat = .global)
    (hl : Gives (tryTranslate s2.cur.core s2.cur.asid s2.cur.sys .read x.toNat) s2 (.ok l) s3) (hlocal : l.remote = false)
    (hfind : s3.records.find? (fun r => r.live && r.at_.isSome && r.at_ == some (l.key x.toNat)) = some r)
    (hkind : a = 1 → r.kind = 1 ∨ r.kind = 2) : Gives (eretBody rec act) s .done (s3.endService r (a.getLsbD 0)) := by
  refine gives_bind hr (gives_bind ha (gives_bind hx (gives_bind hact (gives_bind (check_of_true ?_ _ _ s2)
    (gives_bind (check_of_true (decide_eq_true hal) _ _ s2) (gives_bind (cur_gives s2) ?_))))))
  · exact decide_eq_true ((wbits_eq_zero_iff_lt (lo := 1) (by decide) a).2 (by omega))
  · rw [hwin]
    refine gives_bind hl ?_
    dsimp only
    rw [hlocal]
    refine gives_bind (gives_pure _ s3) (gives_bind (get_gives s3) ?_)
    rw [if_neg (by decide), hfind]
    refine gives_bind (check_of_true ?_ _ _ s3) (gives_bind (modify_gives _ s3) (gives_pure _ _))
    rcases Nat.le_one_iff_eq_zero_or_eq_one.1 ha1 with h0 | h1
    · rw [BitVec.eq_of_toNat_eq (x := a) (y := 0) h0]
      rfl
    · rcases hkind (BitVec.eq_of_toNat_eq h1) with h | h <;> simp [h]

/-- Settles O21: what an instruction ends by, and what that leaves. -/
theorem tasksEndYieldTrapAndReturn : Obligations.TasksEndYieldTrapAndReturn := by
  refine ⟨⟨fun s t hi hjoin hacks hposted hcmds hcell => endTask_ends hi hjoin hacks hposted hcmds hcell,
      fun s t t1 t2 t3 l hi hjoin hacks hposted hcmds hcell hl h2 h9 hal hj hwait =>
        endTask_joins hi hjoin hacks hposted hcmds hcell hl h2 h9 hal hj hwait,
      fun s t n hi hjoin hacks hposted => endTask_joined hi hjoin hacks hposted,
      fun s t hi hjoin hacks hposted hcmds => halt_ends hi hjoin hacks hposted hcmds, fun s hs => ?_⟩,
    ⟨fun i hmem s hi hh => ?_, fun i hmem s hi hh => ?_, ?_, fun len kind arg c s hs hhold => ?_⟩,
    fun rec act s s1 s2 s3 x a l r hi hr ha hx hact ha1 hal hwin hl hlocal hfind hkind =>
      issue_gives hi (eretBody_gives hr ha hx hact ha1 hal hwin hl hlocal hfind hkind), fun s r after => ?_⟩
  · obtain ⟨ls, m, qs, v, sp, cs, chs, h⟩ := finished_eq s hs
    rw [h]
    exact ⟨rfl, rfl, not_mem_crewsWithout⟩
  · have h := yieldBody_gives s
    rw [hh, if_pos rfl] at h
    exact (yields i hmem s).trans (issue_gives hi h)
  · have h := yieldBody_gives s
    rw [hh, if_neg (by decide)] at h
    obtain ⟨hbusy, n, hctx⟩ := settle_yield i.len s.cur s
    exact ⟨_, (yields i hmem s).trans (issue_gives hi h), hbusy, _, hctx, rfl, rfl, ⟨n, rfl⟩, rfl⟩
  · simp only [List.forall_mem_cons, List.not_mem_nil, false_imp_iff, implies_true, and_true]
    exact ⟨fun a s s1 v hi ha hroom hv => issue_gives hi (trapBody_gives 1 ha hroom hv),
      fun a s s1 v hi ha hroom hv => issue_gives hi (trapBody_gives 2 ha hroom hv)⟩
  · obtain ⟨ctxs, n, h⟩ := settle_trap len kind arg c hhold
    rw [h]
    exact ⟨rfl, _, mem_putCtx _ _, rfl, rfl, rfl, rfl, rfl, rfl, rfl⟩
  · have h : CtxsOnly s (r.engines.foldl (fun s e => s.modCtx e.1 fun c => { c with cmds := c.cmds.map fun m =>
        if m.seq = e.2 then m.restart else m }) s) := ctxsOnly_chain.foldl (fun s _ => ctxsOnly_modCtx s _ _) _ s
    rw [State.endService, h]
    exact ⟨rfl, rfl, rfl⟩

end Sys2Proof.Machine
end

section
/-! PROOFS. System registers, fences, invalidations and scratchpad marks (R154 to R157, R287 to R300). -/
namespace Sys2Proof.Machine
open Sys2Proof.Claims

/-! R155: the table gives ASID as it was written, and SYSRD the twelve bits of the register. -/

/-- A context whose ASID register holds a bit above its twelve, as no store through the on-chip map leaves it. -/
def wideAsid : State :=
  { State.reset with
    busy := true
    cur := { placedContext 0 with written := Vector.ofFn fun i => if i = 1 then some 0x1000 else none } }

/-- The state in which g1 holds that bit. -/
def wideAsidRead : State :=
  { wideAsid with cur := { wideAsid.cur with regs := wideAsid.cur.regs.writeG 1 { bits := 0x1000 } } }

/-- What an outcome leaves in g1. -/
def g1After : Host.Outcome State Fault Refusal → Word
  | .next t => (t.cur.regs.readG 1).bits
  | _ => 0

theorem g1After_sysrd : g1After (exec (.sysrd (.g 1) 5) wideAsid) = 0 := by decide

theorem g1After_table : g1After (.next (settle (Instr.sysrd (.g 1) 5).len wideAsid.cur .done wideAsidRead)) = 0x1000 := by
  decide

theorem wideAsid_issues : issues (.sysrd (.g 1) 5) wideAsid = true := by decide

theorem asid_mem_registers :
    (5, fun c : Context => c.written[1].getD (c.key.asid.setWidth 64)) ∈ registers := by
  simp [registers]

/-- Refutes O22: the statement is about every state, and where `written[1]` of the context holds a bit above the twelve of
ASID (R155), the table gives that bit and SYSRD does not read it. -/
theorem not_systemRegistersAreReadAndWritten : ¬ Obligations.SystemRegistersAreReadAndWritten := by
  rintro ⟨⟨hread, _⟩, _⟩
  have h := hread _ asid_mem_registers (.g 1) 5 wideAsid wideAsidRead rfl wideAsid_issues rfl rfl
  have hg := congrArg g1After h
  rw [g1After_sysrd, g1After_table] at hg
  exact absurd hg (by decide)

/-! R287, R289, R290: fences. -/

section
variable {s t : State} {scope : Fin 4}

theorem acquireDropsL1 : AcquireDropsL1 := by
  intro s
  refine ⟨?_, fun n hn => ?_, ?_, rfl, rfl, rfl⟩
  · have h := core_modCore_same s s.cur.core (f := fun k => { k with l1 := k.l1.filter fun x => x.frozen }) fun _ => rfl
    exact congrArg Core.l1 h
  · exact State.core_setCore_other _ _ fun h => hn (h.symm.trans (State.core_num s _))
  · have hspoil (c : Context) : (if (c.core == s.cur.core) = true then c.spoilL1 false else c).regs = c.regs := by
      unfold Context.spoilL1
      split
      · split <;> rfl
      · rfl
    show (if s.busy = true then _ else s.cur : Context).regs = s.cur.regs
    split
    · exact hspoil s.cur
    · rfl

/-- The rest of a fence whose release half is done. -/
theorem fence_rest {acq : Bool} (h : s.cur.posted = []) : Gives (do
    deliverPosted
    if acq then acquire
    return Flow.done) s .done (if acq then afterAcquire s else s) := by
  refine gives_bind (deliverPosted_gives h) ?_
  cases acq
  · exact gives_pure _ s
  · exact gives_bind (acquire_gives s) (gives_pure _ _)

theorem fence_acquires (h : s.cur.posted = []) : Gives (fence true false scope) s .done (afterAcquire s) :=
  fence_rest (acq := true) h

theorem fence_releases {acq : Bool} (hrel : ReleaseDone scope s t) (h : t.cur.posted = []) :
    Gives (fence acq true scope) s .done (if acq then afterAcquire t else t) := by
  rw [ReleaseDone] at hrel
  unfold fence
  by_cases h0 : scope.val = 0
  · rw [if_pos h0] at hrel
    subst hrel
    rw [if_neg (by simp [h0])]
    exact fence_rest h
  · rw [if_neg h0] at hrel
    obtain ⟨rfl, hall⟩ := hrel
    rw [if_pos (by simp [h0])]
    refine gives_bind (cur_gives s) (gives_bind (modify_gives _ s) (gives_bind (cur_gives _) ?_))
    rw [if_neg (by rw [List.all_eq_true.2 hall]; decide)]
    exact fence_rest h

theorem fence_parks {acq : Bool} (h0 : scope.val ≠ 0)
    (h : ∃ o ∈ (s.drainHeld s.cur.core (Held.ofCtx s.cur.key)).cur.outs, o.doneAt scope.val (dieOf s.cur.core) = false) :
    Gives (fence acq true scope) s (.park (.acks (.fence scope.val))) (s.drainHeld s.cur.core (Held.ofCtx s.cur.key)) := by
  obtain ⟨o, ho, hdone⟩ := h
  unfold fence
  rw [if_pos (by simp [h0])]
  refine gives_bind (cur_gives s) (gives_bind (modify_gives _ s) (gives_bind (cur_gives _) ?_))
  rw [if_pos (by rw [Bool.not_eq_true', List.all_eq_false]; exact ⟨o, ho, by rw [hdone]; decide⟩)]
  exact gives_pure _ _

end

/-! R298, R299: invalidations. -/

section
variable {s s1 : State} {i : Instr} {asid addr len : Scalar} {vs : List Val}

theorem invalOperands_gives (h : InvalOperands i asid addr len s vs s1) : Gives (invalOperands asid addr len) s
    ((nthVal vs 0).bits.setWidth 12, (nthVal vs 1).bits.toNat, (nthVal vs 2).bits.toNat) s1 := by
  obtain ⟨_, ha, hb, hc, hvs, h0, h1, h2, hasid, hlen, hrange⟩ := h
  refine gives_bind ha (gives_bind hb (gives_bind hc (gives_bind hvs (gives_bind (useClean_gives h0 s1)
    (gives_bind (useClean_gives h1 s1) (gives_bind (useClean_gives h2 s1) (gives_bind (check_of_true ?_ _ _ s1)
    (gives_bind (check_of_true ?_ _ _ s1) (gives_pure _ s1)))))))))
  · rw [Bool.and_eq_true, decide_eq_true_eq, decide_eq_true_eq, wbits_zero_eq_mod]
    exact ⟨(wbits_eq_zero_iff_lt (lo := 12) (by decide) _).2 hasid, hlen⟩
  · rw [Bool.or_eq_true, Bool.and_eq_true, decide_eq_true_eq, decide_eq_true_eq, wbits_zero_eq_mod]
    exact hrange

theorem startInval_key (s : State) (by_ : Option Key) (asid : BitVec 12) (lo size : Nat) :
    (s.startInval by_ asid lo size).cur.key = s.cur.key ∧
      ∃ v ∈ (s.startInval by_ asid lo size).invals, v.by_ = by_ := by
  have hfreed : s.Freed (s.cores.foldl (fun s k =>
      s.drainHeld k.num fun h => h.req.tags.any fun t => t.under asid lo size) s) :=
    Chain.foldl ⟨.refl, .trans⟩ (fun s k => freed_drainHeld s k.num _) s.cores s
  obtain ⟨cur, _, _, _, _, heq, hcur, _⟩ := hfreed
  refine ⟨?_, _, List.mem_append_right _ (List.mem_singleton_self _), rfl⟩
  rw [State.startInval, heq]
  show (if s.busy = true then _ else cur : Context).key = s.cur.key
  rw [← hcur.key]
  split
  · unfold Context.spoilL1
    split
    · split <;> rfl
    · rfl
  · rfl

theorem tlbinv_begins (h : InvalOperands (.tlbinv asid addr len) asid addr len s vs s1) (hphase : s1.cur.phase = 0)
    (houts : ∀ o ∈ s1.cur.outs, o.store = false) {u : State}
    (hu : u = s1.startInval (some s1.cur.key) ((nthVal vs 0).bits.setWidth 12) (nthVal vs 1).bits.toNat
      (nthVal vs 2).bits.toNat) :
    Ends (.tlbinv asid addr len) s .stall { u with cur := { u.cur with phase := 1 } } := by
  subst hu
  obtain ⟨hkey, v, hv, hby⟩ := startInval_key s1 (some s1.cur.key) ((nthVal vs 0).bits.setWidth 12)
    (nthVal vs 1).bits.toNat (nthVal vs 2).bits.toNat
  refine issue_gives h.1 (gives_bind (invalOperands_gives h) (gives_bind (cur_gives s1) ?_))
  rw [if_pos hphase]
  refine gives_bind (cur_gives s1) ?_
  rw [List.any_eq_false.2 fun o ho => by rw [houts o ho]; decide]
  refine gives_bind (modify_gives _ s1) (gives_bind (modify_gives _ _) (gives_bind (get_gives _) ?_))
  rw [if_pos (by exact List.any_eq_true.2 ⟨v, hv, beq_iff_eq.2 (hby.trans (congrArg some hkey.symm))⟩)]
  exact gives_pure _ _

theorem tlbinv_completes (h : InvalOperands (.tlbinv asid addr len) asid addr len s vs s1) (hphase : s1.cur.phase = 1)
    (hdone : ∀ v ∈ s1.invals, v.by_ ≠ some s1.cur.key) : Completes (.tlbinv asid addr len) s s1 := by
  refine issue_gives h.1 (gives_bind (invalOperands_gives h) (gives_bind (cur_gives s1) ?_))
  rw [if_neg (by rw [hphase]; decide)]
  refine gives_bind (get_gives s1) ?_
  rw [if_neg (by rw [List.any_eq_false.2 fun v hv => by rw [beq_iff_eq]; exact hdone v hv]; decide)]
  exact gives_pure _ _

end

/-! R122, R300: lines of the slice marked. -/

/-- Only what reading operands changes differs. -/
def ReadsOnly (s t : State) : Prop :=
  t = { s with chans := t.chans
               cur := { s.cur with items := t.cur.items, operands := t.cur.operands, voperand := t.cur.voperand } }

theorem readsOnly_chain : Chain ReadsOnly :=
  ⟨fun _ => rfl, fun h h' => h'.trans (by rw [h])⟩

theorem ChansOnly.readsOnly {s t : State} (h : ChansOnly s t) : ReadsOnly s t := by
  rw [ReadsOnly, h]

theorem keeps_readOnce (xs : List Scalar) : Keeps ReadsOnly (readOnce xs) := by
  have hR := readsOnly_chain
  refine fun s => keepsAt_cur ?_
  split
  · exact hR.refl s
  · refine keeps_bind hR (keeps_mapM hR (fun x => ?_) xs) (fun vs => ?_) s
    · cases x with
      | c p =>
        refine keeps_bind hR (keeps_portChan hR p) fun ch => keeps_bind hR ((keeps_takeItem p).mono ChansOnly.readsOnly)
          fun x => keeps_bind hR ?_ fun _ => keeps_pure hR _
        exact fun _ => rfl
      | _ => exact (keeps_readScalar _).mono ChansOnly.readsOnly
    · refine keeps_bind hR ?_ fun _ => keeps_pure hR _
      exact fun _ => rfl

/-- A cleared range of a byte space, whether or not it is in canonical form, reads as zero, and the rest as before. -/
theorem read_clear_all (m : Memory) (a n x : Nat) :
    (m.clear a n).read x = if a ≤ x ∧ x < a + n then 0 else m.read x := by
  induction m with
  | nil => simp [Memory.clear, Memory.read]
  | cons c m ih =>
    unfold Memory.clear at ih ⊢
    rw [List.filter_cons]
    by_cases hc : a ≤ c.1 ∧ c.1 < a + n
    · rw [if_neg (by simp [hc]), ih]
      by_cases hx : a ≤ x ∧ x < a + n
      · rw [if_pos hx, if_pos hx]
      · rw [if_neg hx, if_neg hx, Memory.read, if_neg (by omega)]
    · rw [if_pos (by rw [← Bool.decide_and, decide_eq_false hc]; rfl), Memory.read, ih]
      by_cases hx : x = c.1
      · rw [if_pos hx, if_neg (by omega), Memory.read, if_pos hx]
      · rw [if_neg hx]
        by_cases h : a ≤ x ∧ x < a + n
        · rw [if_pos h, if_pos h]
        · rw [if_neg h, if_neg h, Memory.read, if_neg hx]

/-- Lines of a byte space cleared, from a base on. -/
def clearLines (base : Nat) (ls : List Nat) (m : Mem) : Mem := ls.foldl (fun m l => m.clear (base + 128 * l) 128) m

theorem clearLines_read {base : Nat} {ls : List Nat} {m : Mem} {l b : Nat} (hl : l ∈ ls) (hb : b < 128) :
    (clearLines base ls m).cells.read (base + 128 * l + b) = 0 := by
  induction ls using List.reverseRecOn with
  | nil => cases hl
  | append_singleton ls k ih =>
    rw [clearLines, List.foldl_append, List.foldl_cons, List.foldl_nil, Mem.clear, read_clear_all]
    split
    · rfl
    · next hout =>
      rcases List.mem_append.1 hl with h | h
      · exact ih h
      · rw [List.mem_singleton] at h
        subst h
        omega

/-- The byte space that holds the current context's slice, where its slice starts there, and the state with another. -/
def State.sliceStore (s : State) : Mem := if s.cur.inH then s.cur.area else s.scratch

def State.sliceStart (s : State) : Nat := if s.cur.inH then 0 else s.cur.sliceBase

def State.withSlice (s : State) (m : Mem) : State :=
  if s.cur.inH then { s with cur := { s.cur with area := m } } else { s with scratch := m }

theorem withSlice_store (s : State) (m : Mem) : (s.withSlice m).sliceStore = m := by
  unfold State.withSlice
  split
  · next h => exact if_pos h
  · next h => exact if_neg h

theorem withSlice_start (s : State) (m : Mem) : (s.withSlice m).sliceStart = s.sliceStart := by
  unfold State.withSlice
  split <;> rfl

theorem withSlice_withSlice (s : State) (m m' : Mem) : (s.withSlice m).withSlice m' = s.withSlice m' := by
  by_cases h : s.cur.inH = true
  · have hto (m : Mem) : s.withSlice m = { s with cur := { s.cur with area := m } } := if_pos h
    rw [hto, hto]
    exact if_pos h
  · have hto (m : Mem) : s.withSlice m = { s with scratch := m } := if_neg h
    rw [hto, hto]
    exact if_neg h

theorem withSlice_self (s : State) : s.withSlice s.sliceStore = s := by
  unfold State.withSlice State.sliceStore
  split <;> rfl

theorem modCtx_current {s : State} (hbusy : s.busy = true) (f : Context → Context) (hf : (f s.cur).key = s.cur.key) :
    s.modCtx s.cur.key f = { s with cur := f s.cur } := by
  have hctx : s.ctx? s.cur.key = some s.cur := if_pos (by rw [hbusy, beq_self_eq_true]; rfl)
  rw [State.modCtx, hctx]
  exact if_pos (by rw [hbusy, hf, beq_self_eq_true]; rfl)

theorem sliceClear_current {s : State} (hbusy : s.busy = true) (a n : Nat) :
    s.sliceClear s.cur a n = s.withSlice (s.sliceStore.clear (s.sliceStart + a) n) := by
  unfold State.sliceClear State.withSlice State.sliceStore State.sliceStart
  split
  · rw [modCtx_current hbusy _ rfl, Nat.zero_add]
  · rfl

theorem withSlice_busy (s : State) (m : Mem) : (s.withSlice m).busy = s.busy := by
  unfold State.withSlice
  split <;> rfl

/-- What the current context's slice holds after lines of it are cleared. -/
theorem sliceClears_eq {s : State} (hbusy : s.busy = true) (ls : List Nat) :
    ls.foldl (fun s l => s.sliceClear s.cur (128 * l) 128) s = s.withSlice (clearLines s.sliceStart ls s.sliceStore) := by
  induction ls generalizing s with
  | nil => exact (withSlice_self s).symm
  | cons l ls ih =>
    rw [List.foldl_cons, sliceClear_current hbusy, ih ((withSlice_busy s _).trans hbusy), withSlice_withSlice, withSlice_store,
      withSlice_start]
    rfl

theorem mem_linesOf {o n l : Nat} (ho : o % 128 = 0) (hn : n % 128 = 0) (h0 : n ≠ 0) :
    l ∈ linesOf o n ↔ o / 128 ≤ l ∧ l < (o + n) / 128 := by
  rw [linesOf, if_neg h0, List.mem_map]
  constructor
  · rintro ⟨i, hi, rfl⟩
    rw [List.mem_range] at hi
    omega
  · rintro ⟨h1, h2⟩
    exact ⟨l - o / 128, List.mem_range.2 (by omega), by omega⟩

section
variable {s s1 : State} {i : Instr} {off len : Scalar} {o n : Nat}

/-- The checks of an SPMARK pass, and its effect follows. -/
theorem spmark_gives {discard : Bool} {t : State} (h : MarkOperands i off len s o n s1) (he : Gives (do
      if discard then
        modCur fun c => { c with discLines := c.discLines.filter (fun l => !(linesOf o n).contains l) ++ linesOf o n }
      else
        modify fun s => ((linesOf o n).filter fun l => s1.cur.discLines.contains l).foldl
          (fun s l => s.sliceClear s.cur (128 * l) 128) s
        modCur fun c => { c with discLines := c.discLines.filter (fun l => !(linesOf o n).contains l) }
      return Flow.done) s1 .done t) : Gives (spmarkBody discard off len) s .done t := by
  obtain ⟨_, hoff, hlen, vs, hvs, h0, h1, rfl, rfl, hal, hal', hne, hlt, hfits, harea, hwait⟩ := h
  refine gives_bind hoff (gives_bind hlen (gives_bind hvs (gives_bind (useClean_gives h0 s1) (gives_bind (useClean_gives h1 s1)
    (gives_bind (check_of_true ?_ _ _ s1) (gives_bind (get_gives s1) (gives_bind (check_of_true hfits _ _ s1)
    (gives_bind (check_of_true (by rw [harea]; rfl) _ _ s1) ?_))))))))
  · rw [wbits_zero_eq_mod, wbits_zero_eq_mod, (wbits_eq_zero_iff_lt (lo := 21) (by decide) _).2 hlt]
    have hn0 : (nthVal vs 1).bits ≠ 0 := fun h => hne (by rw [h]; rfl)
    rw [decide_eq_true (p := _ % 2 ^ 7 = 0) hal, decide_eq_true (p := _ % 2 ^ 7 = 0) hal', decide_eq_true hn0]
    rfl
  · rw [if_neg (by rw [hwait]; decide)]
    exact he

theorem markOperands_busy (h : MarkOperands i off len s o n s1) : s1.busy = true := by
  obtain ⟨hi, _, _, vs, hvs, _⟩ := h
  have hr : ReadsOnly s s1 := (keeps_readOnce _ s).of_gives hvs
  rw [hr]
  exact ((issues_iff i s).1 hi).1

theorem spmarkDiscard_completes (h : MarkOperands (.spmarkDiscard off len) off len s o n s1) : ∃ t : State,
    Completes (.spmarkDiscard off len) s t ∧ t = { s1 with cur := { s1.cur with discLines := t.cur.discLines } } ∧
    ∀ l, l ∈ t.cur.discLines ↔ (l ∈ s1.cur.discLines ∨ (o / 128 ≤ l ∧ l < (o + n) / 128)) := by
  obtain ⟨ho, hn, h0⟩ : o % 128 = 0 ∧ n % 128 = 0 ∧ n ≠ 0 := by
    obtain ⟨_, _, _, _, _, _, _, _, _, ho, hn, h0, _⟩ := h
    exact ⟨ho, hn, h0⟩
  refine ⟨_, issue_gives h.1 (spmark_gives (discard := true) h (gives_bind (modify_gives _ s1) (gives_pure _ _))), rfl,
    fun l => ?_⟩
  show l ∈ s1.cur.discLines.filter (fun l => !(linesOf o n).contains l) ++ linesOf o n ↔ _
  rw [List.mem_append, List.mem_filter, Bool.not_eq_true', ← Bool.not_eq_true, List.contains_iff_mem, mem_linesOf ho hn h0]
  tauto

theorem spmarkKeep_completes (h : MarkOperands (.spmarkKeep off len) off len s o n s1) : ∃ t : State,
    Completes (.spmarkKeep off len) s t ∧ t.mem = s1.mem ∧ t.acc = s1.acc ∧ t.cur.regs = s1.cur.regs ∧
    (∀ l, l ∈ t.cur.discLines ↔ (l ∈ s1.cur.discLines ∧ ¬ (o / 128 ≤ l ∧ l < (o + n) / 128))) ∧
    (∀ l b, l ∈ s1.cur.discLines → o / 128 ≤ l → l < (o + n) / 128 → b < 128 →
      (if t.cur.inH then t.cur.area.cells.read (128 * l + b)
       else t.scratch.cells.read (t.cur.sliceBase + 128 * l + b)) = 0) := by
  obtain ⟨ho, hn, h0⟩ : o % 128 = 0 ∧ n % 128 = 0 ∧ n ≠ 0 := by
    obtain ⟨_, _, _, _, _, _, _, _, _, ho, hn, h0, _⟩ := h
    exact ⟨ho, hn, h0⟩
  have hlines (l : Nat) : l ∈ s1.cur.discLines.filter (fun l => !(linesOf o n).contains l) ↔
      (l ∈ s1.cur.discLines ∧ ¬ (o / 128 ≤ l ∧ l < (o + n) / 128)) := by
    rw [List.mem_filter, Bool.not_eq_true', ← Bool.not_eq_true, List.contains_iff_mem, mem_linesOf ho hn h0]
  have hhit {l : Nat} (hl : l ∈ s1.cur.discLines) (h1 : o / 128 ≤ l) (h2 : l < (o + n) / 128) :
      l ∈ (linesOf o n).filter fun l => s1.cur.discLines.contains l :=
    List.mem_filter.2 ⟨(mem_linesOf ho hn h0).2 ⟨h1, h2⟩, List.contains_iff_mem.2 hl⟩
  have hclears := sliceClears_eq (markOperands_busy h) ((linesOf o n).filter fun l => s1.cur.discLines.contains l)
  have heff := spmark_gives (discard := false) h (gives_bind (modify_gives _ s1) (gives_bind (modify_gives _ _)
    (gives_pure _ _)))
  rw [hclears, State.withSlice, State.sliceStart, State.sliceStore] at heff
  refine ⟨_, issue_gives h.1 heff, ?_⟩
  cases hh : s1.cur.inH with
  | true =>
    rw [if_pos rfl, if_pos rfl, if_pos rfl]
    refine ⟨rfl, rfl, rfl, hlines, fun l b hl h1 h2 hb => ?_⟩
    have hread := clearLines_read (base := 0) (m := s1.cur.area) (hhit hl h1 h2) hb
    rw [Nat.zero_add] at hread
    exact (if_pos hh).trans hread
  | false =>
    rw [if_neg (by decide), if_neg (by decide), if_neg (by decide)]
    refine ⟨rfl, rfl, rfl, hlines, fun l b hl h1 h2 hb => ?_⟩
    exact (if_neg (by rw [Context.inH] at hh; rw [Context.inH, hh]; decide)).trans
      (clearLines_read (m := s1.scratch) (hhit hl h1 h2) hb)

end

/-- Settles O23: each completes with its effect once nothing it waits for is left. -/
theorem fencesInvalidationsAndMarksComplete : Obligations.FencesInvalidationsAndMarksComplete :=
  ⟨acquireDropsL1,
    ⟨fun _ _ hi h => issue_gives hi (fence_acquires h), fun _ _ _ hi hrel h => issue_gives hi (fence_releases hrel h),
      fun _ _ _ hi hrel h => issue_gives hi (fence_releases hrel h), fun _ _ hi h0 h => issue_gives hi (fence_parks h0 h)⟩,
    fun _ _ _ _ _ _ h hphase houts => tlbinv_begins h hphase houts rfl,
    fun _ _ _ _ _ _ h hphase hdone => tlbinv_completes h hphase hdone,
    fun _ _ _ _ _ _ h => issue_gives h.1 (gives_bind (invalOperands_gives h) (gives_bind (modify_gives _ _) (gives_pure _ _))),
    fun _ _ _ _ _ _ h => spmarkDiscard_completes h, fun _ _ _ _ _ _ h => spmarkKeep_completes h⟩

end Sys2Proof.Machine
end

section
/-! PROOFS. Engine commands in common, copy sets, barriers and copies (R124 to R128, R175 to R177, R255 to R263). -/
namespace Sys2Proof.Machine
open Sys2Proof.Claims

section
variable {s t u m : State} {a b : Scalar} {x y : Word} {i : Instr} {id : Option Nat} {ps : List Nat} {k : CmdKind}

theorem twoOperands_gives {f : Flow} {c : Word → Word → M Flow} (h : TwoOperands i a b s x y t) (hc : Gives (c x y) t f u) :
    Gives (do
      checkSrc a
      checkSrc b
      let x ← readClean a
      let y ← readClean b
      c x y) s f u := by
  obtain ⟨_, ha, hb, m, hx, hy⟩ := h
  exact gives_bind ha (gives_bind hb (gives_bind hx (gives_bind hy hc)))

theorem twoOperands_chans (h : TwoOperands i a b s x y t) : ChansOnly s t := by
  obtain ⟨_, _, _, m, hx, hy⟩ := h
  exact chansOnly_chain.trans (readClean_chans hx) (readClean_chans hy)

theorem twoOperands_busy (h : TwoOperands i a b s x y t) : t.busy = true := by
  rw [twoOperands_chans h]
  exact ((issues_iff i s).1 h.1).1

/-! R256: acceptance. -/

theorem stallsAccept_gives (h : Unhindered id ps k s) : Gives (stallsAccept id ps k) s () s := by
  obtain ⟨hheld, hbound, hplaced⟩ := h
  have hbs : (s.cur.bound ps).any (fun m => m.incomplete && !m.kind.isMatrix) = false :=
    List.any_eq_false.2 fun m hm => by
      cases hi : m.incomplete with
      | false => exact Bool.false_ne_true
      | true => rw [hbound m hm hi]; decide
  have hcs : s.cur.cmds.any (fun m => m.incomplete &&
      !(placedBefore s.cur.cmds.reverse ((s.cur.bound ps).map Cmd.seq) k.isMatrix).contains m.seq &&
        s.conflict s.cur m k) = false :=
    List.any_eq_false.2 fun m hm => by
      cases hi : m.incomplete with
      | false => simp
      | true =>
        rcases hplaced m hm hi with hp | hc
        · rw [List.contains_iff_mem.2 hp]; simp
        · rw [hc]; simp
  refine gives_bind (get_gives s) ?_
  rw [if_neg]
  · exact gives_pure () s
  · rw [hbs, hcs, Bool.or_false, Bool.or_false]
    cases id with
    | none => exact Bool.false_ne_true
    | some n =>
      cases hn : s.cur.holder n with
      | none => dsimp only; rw [hn]; exact Bool.false_ne_true
      | some m => dsimp only; rw [hn, Option.any_some, hheld n m rfl hn]; exact Bool.false_ne_true

theorem acceptCmd_gives (h : NoneFailed ps s) : Gives (acceptCmd id ps k) s () (accepted s id ps k) := by
  have hnone : s.cur.cmds.find? (fun m => (s.cur.bound ps).any (fun b => b.seq == m.seq) && !m.incomplete &&
      m.fault.isSome && !m.delivered) = none := by
    refine List.find?_eq_none.2 fun m hm hc => ?_
    simp only [Bool.and_eq_true, List.any_eq_true, beq_iff_eq, Bool.not_eq_true'] at hc
    obtain ⟨⟨⟨⟨b, hb, hseq⟩, hinc⟩, hfault⟩, hdel⟩ := hc
    rcases h m hm ⟨b, hb, hseq⟩ with h | h | h
    · rw [h] at hinc; cases hinc
    · rw [h] at hfault; cases hfault
    · rw [h] at hdel; cases hdel
  refine gives_bind (cur_gives s) ?_
  dsimp only
  rw [hnone]
  exact gives_bind (get_gives s) (gives_bind (modify_gives _ s) (modify_gives _ _))

theorem noneFailed_nil (s : State) : NoneFailed [] s := by
  rintro m _ ⟨b, hb, _⟩
  cases hb

theorem checkId_gives {n : Nat} (h : n ≠ 63) (s : State) : Gives (checkId n) s () s :=
  check_of_true (decide_eq_true h) _ _ s

end

/-! R124, R125, R128, R262, R263. -/

section
variable {s t u : State} {a b : Scalar} {x y : Word}

theorem ccfg_completes (h : TwoOperands (.ccfg a b) a b s x y t) (hlen : (copyCfg x y).len ≠ 0) (hrows : (copyCfg x y).rows ≠ 0)
    (hmax : (copyCfg x y).len ≤ 0x200000) (hmode : (copyCfg x y).mode ≠ 3)
    (hjw : (copyCfg x y).jw = 0 ∨ (copyCfg x y).mode = 2) (hres : wbits y 52 12 = 0) : Completes (.ccfg a b) s
      { t with cur := { t.cur with copySets := t.cur.copySets.set (wbits y 48 2 % 4) (x, y) } } := by
  refine issue_gives h.1 (twoOperands_gives h (gives_bind (check_of_true ?_ _ _ t) (gives_bind (modify_gives _ t) (gives_pure _ _))))
  simp [hlen, hrows, hmax, hmode, hjw, hres]

/-- A change of a context that keeps its name is one of the current context, or of one of the others. -/
theorem modCtx_cases {k : Key} {f : Context → Context} (hf : ∀ c, (f c).key = c.key) (s : State) :
    (s.busy = true ∧ s.cur.key = k ∧ s.modCtx k f = { s with cur := f s.cur }) ∨ ∃ cs, s.modCtx k f = { s with ctxs := cs } := by
  by_cases h : (s.busy && s.cur.key == k) = true
  · obtain ⟨hbusy, hkey⟩ := Bool.and_eq_true_iff.1 h
    rw [beq_iff_eq] at hkey
    subst hkey
    exact .inl ⟨hbusy, rfl, modCtx_current hbusy f (hf _)⟩
  · refine .inr ?_
    rw [State.modCtx, State.ctx?, if_neg h]
    cases hfind : s.ctxs.find? (fun c => c.key == k) with
    | none => exact ⟨s.ctxs, rfl⟩
    | some c =>
      have hkey := List.find?_some hfind
      rw [beq_iff_eq] at hkey
      dsimp only
      rw [State.setCtx, hf, hkey, if_neg h]
      exact ⟨_, rfl⟩

theorem modCtx_named {k : Key} (hbusy : s.busy = true) (hk : s.cur.key = k) (f : Context → Context)
    (hf : (f s.cur).key = s.cur.key) : s.modCtx k f = { s with cur := f s.cur } := hk ▸ modCtx_current hbusy f hf

/-- Only slices differ: the scratchpads, and what stands in place of one in a context. -/
def SlicesOnly (s t : State) : Prop :=
  t = { s with scratch := t.scratch, ctxs := t.ctxs
               cur := { s.cur with area := t.cur.area, discLines := t.cur.discLines } }

theorem slicesOnly_chain : Chain SlicesOnly := ⟨fun _ => rfl, fun h h' => h'.trans (by rw [h])⟩

theorem slicesOnly_modCtx (s : State) (k : Key) {f : Context → Context}
    (hf : ∀ c, f c = { c with area := (f c).area, discLines := (f c).discLines }) : SlicesOnly s (s.modCtx k f) := by
  rcases modCtx_cases (k := k) (f := f) (fun c => by rw [hf c]) s with ⟨_, _, h⟩ | ⟨cs, h⟩
  · rw [h, SlicesOnly, hf s.cur]
  · rw [h]
    exact rfl

theorem slicesOnly_sliceClear (s : State) (c : Context) (off n : Nat) : SlicesOnly s (s.sliceClear c off n) := by
  unfold State.sliceClear
  split
  · exact slicesOnly_modCtx s c.key fun _ => rfl
  · exact rfl

theorem slicesOnly_sliceWrite (s : State) (k : Key) (off n x marks : Nat) : SlicesOnly s (s.sliceWrite k off n x marks) := by
  have hR := slicesOnly_chain
  unfold State.sliceWrite
  split
  · exact hR.refl s
  · next c _ =>
    dsimp only
    refine hR.trans (hR.foldl (fun s l => slicesOnly_sliceClear s c (128 * l) 128)
      ((linesOf off n).filter fun l => c.discLines.contains l) s) ?_
    split
    · split
      · exact slicesOnly_modCtx _ k fun _ => rfl
      · exact hR.trans (slicesOnly_modCtx _ k fun _ => rfl) (slicesOnly_modCtx _ k fun _ => rfl)
    · split
      · exact rfl
      · exact hR.trans (slicesOnly_modCtx _ k fun _ => rfl) rfl

/-- The current context without a barrier object. -/
def Context.withoutBarrier (c : Context) (off : Nat) : Context :=
  { c with
    barriers := c.barriers.filter (fun b => b.off != off)
    cmds := c.cmds.map (fun m => if m.kind.barrier == some off then { m with phase := none } else m) }

def State.withoutBarrier (s : State) (off : Nat) : State := { s with cur := s.cur.withoutBarrier off }

/-- The current context with another barrier object. -/
def State.withBarrier (s : State) (b : Barrier) : State := { s with cur := { s.cur with barriers := s.cur.barriers ++ [b] } }

/-- What a barrier object entered or removed leaves. -/
theorem setBarrier_eq (hbusy : s.busy = true) (off e : Nat) : ∃ t, SlicesOnly (s.withoutBarrier off) t ∧
    s.setBarrier s.cur.key off e = if e = 0 then t else t.withBarrier { off := off, expected := e } := by
  have hwithout : s.modCtx s.cur.key (fun c => { c with
      barriers := c.barriers.filter (fun b => b.off != off)
      cmds := c.cmds.map (fun m => if m.kind.barrier == some off then { m with phase := none } else m) }) =
      s.withoutBarrier off := modCtx_current hbusy _ rfl
  have hwrite (v : Nat) := slicesOnly_sliceWrite (s.withoutBarrier off) s.cur.key off 16 v 0
  by_cases he : e = 0
  · have hex : ∃ t, SlicesOnly (s.withoutBarrier off) t ∧ s.setBarrier s.cur.key off e = t := by
      refine ⟨_, ?_, rfl⟩
      rw [State.setBarrier, hwithout, if_pos he]
      split
      · exact hwrite _
      · exact slicesOnly_chain.refl _
    obtain ⟨t, ht, heq⟩ := hex
    exact ⟨t, ht, by rw [if_pos he, heq]⟩
  · refine ⟨_, hwrite 0, ?_⟩
    rw [if_neg he, State.setBarrier, hwithout, if_neg he]
    have hkey : ((s.withoutBarrier off).sliceWrite s.cur.key off 16 0 0).cur.key = s.cur.key := by rw [hwrite 0]; rfl
    have hbusy' : ((s.withoutBarrier off).sliceWrite s.cur.key off 16 0 0).busy = true := by rw [hwrite 0]; exact hbusy
    exact modCtx_named hbusy' hkey (fun c => { c with barriers := c.barriers ++ [{ off := off, expected := e }] }) rfl

theorem setBarrier_current (hbusy : s.busy = true) (off e : Nat) : (s.setBarrier s.cur.key off e).mem = s.mem ∧
    (s.setBarrier s.cur.key off e).cur.regs = s.cur.regs ∧
    (s.setBarrier s.cur.key off e).cur.barriers = s.cur.barriers.filter (fun b => b.off != off) ++
      (if e = 0 then [] else [{ off := off, expected := e }]) := by
  obtain ⟨t, ht, heq⟩ := setBarrier_eq hbusy off e
  rw [heq]
  split
  · rw [ht, List.append_nil]
    exact ⟨rfl, rfl, rfl⟩
  · rw [ht]
    exact ⟨rfl, rfl, rfl⟩

theorem cbar_completes {off exp : Scalar} {o e : Word} (h : TwoOperands (.cbar off exp) off exp s o e u) (ho : o.toNat < 2 ^ 21)
    (hal : o.toNat % 16 = 0) (hfits : u.cur.sliceFits o.toNat 16 = true) (he : e.toNat < 2 ^ 32)
    (hroom : (∃ b ∈ u.cur.barriers, b.off = o.toNat) ∨ e = 0 ∨ u.cur.barriers.length < 16)
    (harea : u.touchesArea u.cur o.toNat 16 = false)
    (hnames : (∃ b ∈ u.cur.barriers, b.off = o.toNat) → u.cur.copyNames o.toNat = false)
    (hnew : (∀ b ∈ u.cur.barriers, b.off ≠ o.toNat) → e ≠ 0 → u.storeWaits u.cur o.toNat 16 = false) :
    Completes (.cbar off exp) s (u.setBarrier u.cur.key o.toNat e.toNat) := by
  have hknown : u.cur.barriers.any (fun b => b.off == o.toNat) = decide (∃ b ∈ u.cur.barriers, b.off = o.toNat) := by
    rw [Bool.eq_iff_iff, List.any_eq_true, decide_eq_true_eq]
    simp only [beq_iff_eq]
  refine issue_gives h.1 (twoOperands_gives h (gives_bind (check_of_true ?_ _ _ u) (gives_bind (get_gives u)
    (gives_bind (check_of_true hfits _ _ u) (gives_bind (check_of_true ?_ _ _ u) (gives_bind (check_of_true ?_ _ _ u)
    (gives_bind (check_of_true (by rw [harea]; rfl) _ _ u) ?_)))))))
  · rw [(wbits_eq_zero_iff_lt (lo := 21) (by decide) _).2 ho, wbits_zero_eq_mod, decide_eq_true (p := _ % 2 ^ 4 = 0) hal]
    rfl
  · exact decide_eq_true ((wbits_eq_zero_iff_lt (lo := 32) (by decide) _).2 he)
  · rw [hknown, Bool.or_eq_true, Bool.or_eq_true, decide_eq_true_eq, decide_eq_true_eq, decide_eq_true_eq, or_assoc]
    exact hroom
  · rw [hknown]
    have hrest : Gives (do
        modify fun s => s.setBarrier s.cur.key o.toNat e.toNat
        return Flow.done) u .done (u.setBarrier u.cur.key o.toNat e.toNat) := gives_bind (modify_gives _ u) (gives_pure _ _)
    by_cases hk : ∃ b ∈ u.cur.barriers, b.off = o.toNat
    · rw [decide_eq_true hk, hnames hk]
      exact hrest
    · rw [decide_eq_false hk]
      by_cases he0 : e = 0
      · subst he0
        exact hrest
      · rw [hnew (fun b hb hoff => hk ⟨b, hb, hoff⟩) he0,
          decide_eq_true (p := e ≠ 0) he0]
        exact hrest

end

/-! R255 to R261: copies accepted. -/

section
variable {s s2 t u : State} {a b : Scalar} {x y : Word} {cfg : Word × Word} {op : CopyOp} {mig : Bool} {i : Instr}

/-- A copy command once its operands are read. -/
def copyRest (op : CopyOp) (wa wb : Word) (iv : Val) : M Flow := do
  check (decide (wbits wa 62 2 = 0) && decide (wbits wb 54 10 = 0)) .illegalOperand
  let id := wbits wa 50 6
  checkId id
  let c ← cur
  let cfg := c.copySets[wbits wa 48 2 % 4]'(Nat.mod_lt _ (by decide))
  let g := copyCfg cfg.1 cfg.2
  let src := wbits wa 0 48
  let dst := wbits wb 0 48
  check (decide (g.len ≠ 0)) .illegalOperand
  check (op.accepts g.mode) .illegalOperand
  check (!g.ben || c.barriers.any (fun x => x.off == g.bar)) .illegalOperand
  check (g.limitsOk dst) .illegalOperand
  check (op != .join || inScratchWindow src) .illegalOperand
  let ps := [wbits wa 56 6, wbits wb 48 6]
  let k := op.kind cfg (BitVec.ofNat 48 src) (BitVec.ofNat 48 dst) (iv.bits.setWidth 48) false
  stallsAccept (some id) ps k
  checkSlice (if op == .gather then [] else rowRanges src g.sstride g.rows g.len)
    (if g.mode = 0 then rowRanges dst g.dstride g.rows g.len else [])
  let mig ← copyOperands op g src dst
  if op == .gather then gatherList (← useClean iv) g.rows
  acceptCmd (some id) ps (op.kind cfg (BitVec.ofNat 48 src) (BitVec.ofNat 48 dst) (iv.bits.setWidth 48) mig)
  return .done

/-- The index operand of a copy command, where it has one. -/
def copyIndex (ix : Option Scalar) : M Val :=
  match ix with
  | some x => readScalar x
  | none => pure { bits := 0 }

theorem copyCommand_gives {ix : Option Scalar} {v : Val} {f : Flow} {sl : State} (h : TwoOperands i a b s x y s2)
    (hix : ∀ z, ix = some z → srcBound z s) (hv : Gives (copyIndex ix) s2 v sl) (hrest : Gives (copyRest op x y v) sl f t) :
    Gives (copyCommand op a b ix) s f t := by
  obtain ⟨_, ha, hb, m, hx, hy⟩ := h
  cases ix with
  | none =>
    obtain ⟨rfl, rfl⟩ := gives_unique hv (gives_pure _ s2)
    exact gives_bind ha (gives_bind hb (gives_bind hx (gives_bind hy hrest)))
  | some z => exact gives_bind ha (gives_bind hb (gives_bind (hix z rfl) (gives_bind hx (gives_bind hy
      (gives_bind hv hrest)))))

/-- The slice bytes a copy command reads and writes by its configuration set. -/
def copyReads (op : CopyOp) (x : Word) (g : CopyCfg) : List (Nat × Nat) :=
  if op == .gather then [] else rowRanges (wbits x 0 48) g.sstride g.rows g.len

def copyWrites (y : Word) (g : CopyCfg) : List (Nat × Nat) :=
  if g.mode = 0 then rowRanges (wbits y 0 48) g.dstride g.rows g.len else []

/-- The command that is accepted. -/
def copyKind (op : CopyOp) (cfg : Word × Word) (x y : Word) (v : Val) (mig : Bool) : CmdKind :=
  op.kind cfg (BitVec.ofNat 48 (wbits x 0 48)) (BitVec.ofNat 48 (wbits y 0 48)) (v.bits.setWidth 48) mig

/-- A copy command whose checks pass is accepted. -/
theorem copyRest_gives {v : Val} (h : CopyOn op x y cfg (copyKind op cfg x y v false) s)
    (hslice : Gives (checkSlice (copyReads op x (copyCfg cfg.1 cfg.2)) (copyWrites y (copyCfg cfg.1 cfg.2))) s () s)
    (hop : Gives (copyOperands op (copyCfg cfg.1 cfg.2) (wbits x 0 48) (wbits y 0 48)) s mig t)
    (hlist : if op = .gather then v.mark = false ∧ Gives (gatherList v.bits (copyCfg cfg.1 cfg.2).rows) t () u else u = t)
    (hfail : NoneFailed [wbits x 56 6, wbits y 48 6] u) : Gives (copyRest op x y v) s .done
      (accepted u (some (wbits x 50 6)) [wbits x 56 6, wbits y 48 6] (copyKind op cfg x y v mig)) := by
  obtain ⟨hx62, hy54, hid, rfl, hlen, haccepts, hben, hlimits, hscratch, hfree⟩ := h
  refine gives_bind (check_of_true (by rw [hx62, hy54]; rfl) _ _ s) (gives_bind (checkId_gives hid s) (gives_bind (cur_gives s)
    (gives_bind (check_of_true (decide_eq_true hlen) _ _ s) (gives_bind (check_of_true haccepts _ _ s)
    (gives_bind (check_of_true ?_ _ _ s) (gives_bind (check_of_true hlimits _ _ s) (gives_bind (check_of_true ?_ _ _ s)
    (gives_bind (stallsAccept_gives hfree) (gives_bind hslice (gives_bind hop ?_))))))))))
  · rw [Bool.or_eq_true, Bool.not_eq_true', ← Bool.not_eq_true, ← imp_iff_not_or, List.any_eq_true]
    simpa only [beq_iff_eq] using hben
  · rw [Bool.or_eq_true, bne_iff_ne, ne_eq, ← imp_iff_not_or]
    exact hscratch
  · by_cases hg : op = .gather
    · rw [if_pos hg] at hlist
      rw [if_pos (beq_iff_eq.2 hg)]
      exact gives_bind (useClean_gives hlist.1 t) (gives_bind hlist.2 (gives_bind (acceptCmd_gives hfail) (gives_pure _ _)))
    · rw [if_neg hg] at hlist
      subst hlist
      rw [if_neg (by rwa [beq_iff_eq])]
      exact gives_bind (acceptCmd_gives hfail) (gives_pure _ _)

end

/-- Settles O24: each makes its checks, and then keeps its set, its object or its command. -/
theorem copySetsBarriersAndCopiesComplete : Obligations.CopySetsBarriersAndCopiesComplete := by
  refine ⟨⟨fun a b s t x y h hlen hrows hmax hmode hjw hres => ccfg_completes h hlen hrows hmax hmode hjw hres,
      fun off exp s u o e h ho hal hfits he hroom harea hnames hnew =>
        ⟨_, cbar_completes h ho hal hfits he hroom harea hnames hnew, ?_⟩⟩,
    fun a b s s2 t x y cfg mig h hon hslice hop hfail => ?_,
    fun ix a b s s2 s3 t u x y v cfg h hix hv hon hslice hop hm hlist hfail => ?_,
    fun a b s s2 t x y cfg mig h hon hslice hop hfail => ?_⟩
  · obtain ⟨hmem, hregs, hbarriers⟩ := setBarrier_current (twoOperands_busy h) o.toNat e.toNat
    refine ⟨hmem, hregs, hbarriers.trans ?_⟩
    congr 1
    exact if_congr ⟨fun h => BitVec.eq_of_toNat_eq h, fun h => by rw [h]; rfl⟩ rfl rfl
  · exact issue_gives h.1 (copyCommand_gives (v := { bits := 0 }) h (fun _ hz => by cases hz) (gives_pure _ s2)
      (copyRest_gives (op := .copy) hon hslice hop rfl hfail))
  · have hmode : (copyCfg cfg.1 cfg.2).mode = 0 := by
      obtain ⟨_, _, _, _, _, haccepts, _⟩ := hon
      exact of_decide_eq_true haccepts
    refine issue_gives h.1 (copyCommand_gives h (fun z hz => by cases hz; exact hix) hv
      (copyRest_gives (op := .gather) hon ?_ hop (by rw [if_pos rfl]; exact ⟨hm, hlist⟩) hfail))
    rw [copyWrites, if_pos hmode]
    exact hslice
  · have hmode : (copyCfg cfg.1 cfg.2).mode = 2 := by
      obtain ⟨_, _, _, _, _, haccepts, _⟩ := hon
      exact of_decide_eq_true haccepts
    refine issue_gives h.1 (copyCommand_gives (v := { bits := 0 }) h (fun _ hz => by cases hz) (gives_pure _ s2)
      (copyRest_gives (op := .join) hon ?_ hop rfl hfail))
    rw [copyWrites, if_neg (by rw [hmode]; decide)]
    exact hslice

end Sys2Proof.Machine
end

section
/-! PROOFS. Matrix commands accepted (R181, R182, R265 to R271). -/
namespace Sys2Proof.Machine
open Sys2Proof.Claims

section
variable {s t : State} {a b : Word} {ra rb : Scalar} {n : Nat}

theorem checkCount_gives (h : n < t.cur.tiles) : Gives (checkCount n) t () t :=
  gives_bind (cur_gives t) (check_of_true (decide_eq_true h) _ _ t)

theorem checkEvent_gives (h : t.cur.lampCfg[n % 16]'(Nat.mod_lt _ (by decide)) = none) : Gives (checkEvent n) t () t :=
  gives_bind (cur_gives t) (check_of_true (by rw [show t.cur.lampCfg[Fin.ofNat 16 n] = none from h]; rfl) _ _ t)

theorem checkTile_gives (h : TileOk t n) : Gives (checkTile n) t () t :=
  gives_bind (checkCount_gives h.1) (checkEvent_gives h.2)

theorem checkLive_gives (h : TileLive t n) : Gives (checkLive n) t () t :=
  gives_bind (cur_gives t) (check_of_true (by rw [show t.cur.discTiles.getLsbD n = false from h]; rfl) _ _ t)

theorem markTile_gives (t : State) (n : Nat) (d : Bool) : Gives (markTile n d) t () (marked t n d) := modify_gives _ t

theorem mcfg_completes {view off : Scalar} {x o : Word} (h : TwoOperands (.mcfg view off) view off s x o t) (hx : x.toNat < 8)
    (ho : o.toNat % 32 = 0) (hwait : t.cur.loadWaits o.toNat 32 = false) (hmark : t.sliceMarked t.cur o.toNat 32 = false)
    (hslice : Gives (checkSlice [(o.toNat, 32)] []) t () t) {d : BitVec 256}
    (hd : d = BitVec.ofNat 256 (t.sliceRead t.cur o.toNat 32)) (hfields : viewFieldsOk d = true) (how : 1 ≤ (viewOf d).ow)
    (hoh : 1 ≤ (viewOf d).oh) :
    Completes (.mcfg view off) s { t with cur := { t.cur with views := t.cur.views.set (x.toNat % 8) d } } := by
  subst hd
  refine issue_gives h.1 (twoOperands_gives h (gives_bind (check_of_true ?_ _ _ t) (gives_bind (cur_gives t) ?_)))
  · rw [(wbits_eq_zero_iff_lt (lo := 3) (by decide) _).2 hx, wbits_zero_eq_mod, decide_eq_true (p := _ % 2 ^ 5 = 0) ho]
    rfl
  · rw [if_neg (by rw [hwait, Bool.and_false]; decide)]
    exact gives_bind hslice (gives_bind (get_gives t) (gives_bind (check_of_true (by rw [hmark]; rfl) _ _ t)
      (gives_bind (get_gives t) (gives_bind (check_of_true hfields _ _ t)
      (gives_bind (check_of_true (by rw [decide_eq_true how, decide_eq_true hoh]; rfl) _ _ t)
      (gives_bind (modify_gives _ t) (gives_pure _ _)))))))

theorem zeroTile_gives {x : Scalar} {w : Word} (discard : Bool) (hx : srcBound x s) (hw : Gives (readClean x) s w t)
    (h16 : w.toNat < 16) (htile : TileOk t w.toNat) {k : CmdKind}
    (hk : k = if discard then CmdKind.mdiscard w.toNat else .mzero w.toNat) (hfree : Unhindered none [] k t) :
    Gives (zeroTile discard x) s .done (marked (accepted t none [] k) w.toNat discard) := by
  subst hk
  exact gives_bind hx (gives_bind hw (gives_bind
    (check_of_true (decide_eq_true ((wbits_eq_zero_iff_lt (lo := 4) (by decide) w).2 h16)) _ _ t)
    (gives_bind (checkTile_gives htile) (gives_bind (stallsAccept_gives hfree)
    (gives_bind (acceptCmd_gives (noneFailed_nil t)) (gives_bind (markTile_gives _ _ _) (gives_pure _ _)))))))

/-- The end of a command that takes the discard mark of its tile where ZF is set. -/
theorem accept_clears {k : CmdKind} {zf : Bool} (hfail : NoneFailed (matrixPreds b) t) : Gives (do
    acceptCmd (some (matrixId b)) (matrixPreds b) k
    if zf then markTile n false
    return Flow.done) t .done (if zf then marked (accepted t (some (matrixId b)) (matrixPreds b) k) n false
      else accepted t (some (matrixId b)) (matrixPreds b) k) := by
  refine gives_bind (acceptCmd_gives hfail) ?_
  cases zf
  · exact gives_pure _ _
  · exact gives_bind (markTile_gives _ _ _) (gives_pure _ _)

/-- A tile is checked for its discard mark but where ZF makes its words zero. -/
theorem checkLive_unless {zf : Bool} {α : Type} {c : M α} {f : α} {u : State} (h : zf = false → TileLive t n) (hc : Gives c t f u) :
    Gives (do
      if !zf then checkLive n
      c) t f u := by
  cases zf
  · exact gives_bind (checkLive_gives (h rfl)) hc
  · exact hc

theorem mma_completes (h : TwoOperands (.mma ra rb) ra rb s a b t) (hv : wbits a 21 4 < 8) (hal : a.toNat % 128 = 0)
    (hid : matrixId b ≠ 63) (ha25 : wbits a 25 7 = 0) (ha48 : wbits a 48 16 = 0) (hg : wbits a 32 16 ≠ 0)
    (hb32 : wbits b 32 3 = 0) (hb36 : wbits b 36 28 = 0) {d : BitVec 256}
    (hd : d = t.cur.views[wbits a 21 4 % 8]'(Nat.mod_lt _ (by decide)))
    (hfree : Unhindered (some (matrixId b)) (matrixPreds b) (.mma d a b) t) (htile : TileOk t (wbits b 0 4))
    (hlive : b.getLsbD 35 = false → TileLive t (wbits b 0 4)) (hranges : Gives (mmaRanges d a b) t () t)
    (hfail : NoneFailed (matrixPreds b) t) : Completes (.mma ra rb) s
      (if b.getLsbD 35 then marked (accepted t (some (matrixId b)) (matrixPreds b) (.mma d a b)) (wbits b 0 4) false
        else accepted t (some (matrixId b)) (matrixPreds b) (.mma d a b)) := by
  subst hd
  refine issue_gives h.1 (twoOperands_gives h (gives_bind (check_of_true ?_ _ _ t) (gives_bind (checkId_gives hid t)
    (gives_bind (check_of_true ?_ _ _ t) (gives_bind (cur_gives t) (gives_bind (stallsAccept_gives hfree)
    (gives_bind (checkTile_gives htile) (checkLive_unless hlive (gives_bind hranges (accept_clears hfail))))))))))
  · rw [wbits_zero_eq_mod, decide_eq_true hv, decide_eq_true (p := _ % 2 ^ 7 = 0) hal]
    rfl
  · rw [ha48, ha25, hb36, hb32, decide_eq_true hg]
    rfl

theorem mscaleacc_completes (h : TwoOperands (.mscaleacc ra rb) ra rb s a b t) (ha55 : wbits a 55 9 = 0)
    (ha26 : wbits a 26 3 = 0) (ha29 : wbits a 29 2 = 0) (hal : a.toNat % 4 = 0) (hb36 : wbits b 36 28 = 0)
    (hb33 : wbits b 33 2 = 0) (hb8 : wbits b 8 6 = 0) (hid : matrixId b ≠ 63)
    (hfree : Unhindered (some (matrixId b)) (matrixPreds b) (.mscaleacc a b) t) (hsrc : TileOk t (wbits b 4 4))
    (hsrcLive : TileLive t (wbits b 4 4)) (htile : TileOk t (wbits b 0 4))
    (hlive : b.getLsbD 35 = false → TileLive t (wbits b 0 4))
    (hslice : Gives (checkSlice [(wbits a 0 21, 8 * fmtWidth (wbits a 21 5)), (wbits a 29 21, 8 * fmtWidth (wbits a 50 5))] [])
       t () t) (hf1 : wbits a 21 5 ≤ 12) (hf2 : wbits a 50 5 ≤ 12) (hfail : NoneFailed (matrixPreds b) t) :
    Completes (.mscaleacc ra rb) s
      (if b.getLsbD 35 then marked (accepted t (some (matrixId b)) (matrixPreds b) (.mscaleacc a b)) (wbits b 0 4) false
        else accepted t (some (matrixId b)) (matrixPreds b) (.mscaleacc a b)) := by
  refine issue_gives h.1 (twoOperands_gives h (gives_bind (check_of_true ?_ _ _ t) (gives_bind (check_of_true ?_ _ _ t)
    (gives_bind (checkId_gives hid t) (gives_bind (check_of_true ?_ _ _ t) (gives_bind (stallsAccept_gives hfree)
    (gives_bind (checkCount_gives hsrc.1) (gives_bind (checkCount_gives htile.1) (gives_bind (checkEvent_gives hsrc.2)
    (gives_bind (checkEvent_gives htile.2) (gives_bind (checkLive_gives hsrcLive) (checkLive_unless hlive
    (gives_bind hslice (accept_clears hfail))))))))))))))
  · rw [ha55, ha26, ha29, wbits_zero_eq_mod, decide_eq_true (p := _ % 2 ^ 2 = 0) hal]
    rfl
  · rw [hb36, hb33, hb8]
    rfl
  · rw [decide_eq_true hf1, decide_eq_true hf2]
    rfl

theorem mload_completes (h : TwoOperands (.mload ra rb) ra rb s a b t) (ha26 : wbits a 26 38 = 0) (hal : a.toNat % 128 = 0)
    (hb32 : wbits b 32 32 = 0) (hb4 : wbits b 4 10 = 0) (hid : matrixId b ≠ 63)
    (hfree : Unhindered (some (matrixId b)) (matrixPreds b) (.mload a b) t) (htile : TileOk t (wbits b 0 4))
    (hslice : Gives (checkSlice [(wbits a 0 21, 512 * fmtWidth (wbits a 21 5))] []) t () t)
    (hfmt : isCodebook (wbits a 21 5) = false) (hfail : NoneFailed (matrixPreds b) t) : Completes (.mload ra rb) s
      (marked (accepted t (some (matrixId b)) (matrixPreds b) (.mload a b)) (wbits b 0 4) false) := by
  refine issue_gives h.1 (twoOperands_gives h (gives_bind (check_of_true ?_ _ _ t) (gives_bind (check_of_true ?_ _ _ t)
    (gives_bind (checkId_gives hid t) (gives_bind (stallsAccept_gives hfree) (gives_bind (checkTile_gives htile)
    (gives_bind hslice (gives_bind (check_of_true (by rw [hfmt]; rfl) _ _ t) (gives_bind (acceptCmd_gives hfail)
    (gives_bind (markTile_gives _ _ _) (gives_pure _ _)))))))))))
  · rw [ha26, wbits_zero_eq_mod, decide_eq_true (p := _ % 2 ^ 7 = 0) hal]
    rfl
  · rw [hb32, hb4]
    rfl

theorem mstore_completes (h : TwoOperands (.mstore ra rb) ra rb s a b t) (ha30 : wbits a 30 34 = 0) (hrm : wbits a 26 3 < 6)
    (hal : a.toNat % 128 = 0) (hb33 : wbits b 33 31 = 0) (hb4 : wbits b 4 10 = 0) (hid : matrixId b ≠ 63) {k : CmdKind}
    (hk : k = .mstore a b t.cur.regs.icount t.cur.regs.seed)
    (hfree : Unhindered (some (matrixId b)) (matrixPreds b) k t) (htile : TileOk t (wbits b 0 4))
    (hlive : TileLive t (wbits b 0 4)) (hslice : Gives (checkSlice [] [(wbits a 0 21, 512 * fmtWidth (wbits a 21 5))]) t () t)
    (hfmt : isTarget (wbits a 21 5) = true) (hfail : NoneFailed (matrixPreds b) t) :
    Completes (.mstore ra rb) s (accepted t (some (matrixId b)) (matrixPreds b) k) := by
  subst hk
  refine issue_gives h.1 (twoOperands_gives h (gives_bind (check_of_true ?_ _ _ t) (gives_bind (check_of_true ?_ _ _ t)
    (gives_bind (checkId_gives hid t) (gives_bind (cur_gives t) (gives_bind (stallsAccept_gives hfree)
    (gives_bind (checkTile_gives htile) (gives_bind (checkLive_gives hlive) (gives_bind hslice
    (gives_bind (check_of_true hfmt _ _ t) (gives_bind (acceptCmd_gives hfail) (gives_pure _ _))))))))))))
  · rw [ha30, decide_eq_true hrm, wbits_zero_eq_mod, decide_eq_true (p := _ % 2 ^ 7 = 0) hal]
    rfl
  · rw [hb33, hb4]
    rfl

end

/-- Settles O25: each makes its checks, and is accepted. -/
theorem matrixCommandsAreAccepted : Obligations.MatrixCommandsAreAccepted := by
  refine ⟨fun view off s t x o h hx ho hwait hmark hslice hfields how hoh =>
      mcfg_completes h hx ho hwait hmark hslice rfl hfields how hoh, ?_,
    fun ra rb s t a b h hv hal hid ha25 ha48 hg hb32 hb36 hfree htile hlive hranges hfail =>
      mma_completes h hv hal hid ha25 ha48 hg hb32 hb36 rfl hfree htile hlive hranges hfail,
    fun ra rb s t a b h ha55 ha26 ha29 hal hb36 hb33 hb8 hid hfree hsrc hsrcLive htile hlive hslice hf1 hf2 hfail =>
      mscaleacc_completes h ha55 ha26 ha29 hal hb36 hb33 hb8 hid hfree hsrc hsrcLive htile hlive hslice hf1 hf2 hfail,
    fun ra rb s t a b h ha26 hal hb32 hb4 hid hfree htile hslice hfmt hfail =>
      mload_completes h ha26 hal hb32 hb4 hid hfree htile hslice hfmt hfail,
    fun ra rb s t a b h ha30 hrm hal hb33 hb4 hid hfree htile hlive hslice hfmt hfail =>
      mstore_completes h ha30 hrm hal hb33 hb4 hid rfl hfree htile hlive hslice hfmt hfail⟩
  simp only [List.forall_mem_cons, List.not_mem_nil, false_imp_iff, implies_true, and_true]
  exact ⟨fun a s t x hi ha hx h16 htile hfree => issue_gives hi (zeroTile_gives false ha hx h16 htile rfl hfree),
    fun a s t x hi ha hx h16 htile hfree => issue_gives hi (zeroTile_gives true ha hx h16 htile rfl hfree)⟩

end Sys2Proof.Machine
end

section
/-! PROOFS. Waits for engine commands, and lamp commands (R179, R185 to R191, R272 to R278). -/
namespace Sys2Proof.Machine
open Sys2Proof.Claims

section
variable {s t u : State} {a b : Word} {ra rb : Scalar} {ms : List Cmd} {cls : CmdKind → Bool}

/-! R179, R272, R278. -/

theorem engineWaits_exec : ∀ p ∈ ([(.mwait, CmdKind.isMatrix), (.lwait, CmdKind.isLamp)] :
    List ((Scalar → Scalar → Instr) × (CmdKind → Bool))), ∀ d id s,
    exec (p.1 d id) s = issue (p.1 d id) (waitEngine p.2 d id) s := by
  simp only [List.forall_mem_cons, List.not_mem_nil, false_imp_iff, implies_true, and_true]
  exact ⟨fun _ _ _ => rfl, fun _ _ _ => rfl⟩

/-- The commands that an id names. -/
theorem waitedFor_gives {id : Word} (h : id.toNat < 64) (hall : id = 63 → ms = u.cur.cmds.filter fun m => cls m.kind)
    (hone : id ≠ 63 → ms = (u.cur.holder id.toNat).toList ∧ ∀ m ∈ ms, cls m.kind = true) :
    Gives (waitedFor cls id) u ms u := by
  have hid : wbits id 0 6 = id.toNat := (wbits_zero_eq_mod id 6).trans (Nat.mod_eq_of_lt h)
  refine gives_bind (check_of_true (decide_eq_true ((wbits_eq_zero_iff_lt (lo := 6) (by decide) id).2 h)) _ _ u)
    (gives_bind (cur_gives u) ?_)
  rw [hid]
  by_cases h63 : id = 63
  · rw [if_pos (by rw [h63]; rfl), hall h63]
    exact gives_pure _ u
  · rw [if_neg fun hn : id.toNat = 63 => h63 (BitVec.eq_of_toNat_eq hn)]
    obtain ⟨rfl, hcls⟩ := hone h63
    cases hm : u.cur.holder id.toNat with
    | none => exact gives_pure _ u
    | some m =>
      rw [hm] at hcls
      exact gives_bind (check_of_true (hcls m (List.mem_singleton_self m)) _ _ u) (gives_pure _ u)

/-- A wait of which no command is left, and none has a fault to deliver. -/
theorem waitEngine_gives {d id : Scalar} {vs : List Val} (hid : srcBound id s) (hd : dstBound d s)
    (hvs : Operands [id] s vs u) (hm : (nthVal vs 0).mark = false) (hms : Gives (waitedFor cls (nthVal vs 0).bits) u ms u)
    (hdone : ∀ m ∈ ms, m.incomplete = false ∧ (m.fault = none ∨ m.delivered = true))
    (hw : Gives (writeScalar d { bits := 0 }) u () t) : Gives (waitEngine cls d id) s .done t := by
  have hnone : ms.find? (fun m => m.fault.isSome && !m.delivered) = none := List.find?_eq_none.2 fun m hm => by
    rcases (hdone m hm).2 with h | h <;> simp [h]
  refine gives_bind hid (gives_bind hd (gives_bind hvs (gives_bind (useClean_gives hm u) (gives_bind hms ?_))))
  rw [if_neg (by rw [List.any_eq_false.2 fun m hm => by rw [(hdone m hm).1]; decide]; decide), hnone]
  exact gives_bind hw (gives_pure _ _)

theorem waitEngine_parks {d id : Scalar} {vs : List Val} (hid : srcBound id s) (hd : dstBound d s)
    (hvs : Operands [id] s vs u) (hm : (nthVal vs 0).mark = false) (hms : Gives (waitedFor cls (nthVal vs 0).bits) u ms u)
    (hleft : ∃ m ∈ ms, m.incomplete = true) : Gives (waitEngine cls d id) s (.park (.commands (ms.map Cmd.seq))) u := by
  refine gives_bind hid (gives_bind hd (gives_bind hvs (gives_bind (useClean_gives hm u) (gives_bind hms ?_))))
  rw [if_pos (List.any_eq_true.2 hleft)]
  exact gives_pure _ u

/-! R274. -/

/-- The checks of LCFG before the configuration is looked at pass. -/
theorem lcfg_gives {tile off : Scalar} {x o : Word} {f : Flow} (h : TwoOperands (.lcfg tile off) tile off s x o u)
    (hx : x.toNat < 16) (ho : o.toNat < 2 ^ 21) (hal : o.toNat % 64 = 0) (htile : u.cur.tileWaits x.toNat = false)
    (hstore : u.storeWaits u.cur o.toNat 64 = false) (hcount : x.toNat < u.cur.tiles)
    (hfits : u.cur.sliceFits o.toNat 64 = true) (hslice : Gives (checkSlice [(o.toNat + 4, 4)] []) u () u)
    (hrest : Gives (do
      if (lampCfgOf (u.sliceRead u.cur o.toNat 64)).theta = 0 then
        check (!u.sliceMarked u.cur (o.toNat + 4) 4) .poison
        modCur fun c => { c with lampCfg := c.lampCfg.set (x.toNat % 16) none }
        modify fun s => s.dropSparks s.cur x.toNat
        return .done
      checkLive x.toNat
      checkSlice [(o.toNat, 64)] []
      checkLampCfg o.toNat
      check (decide (u.crewOn u.cur ≤ 1)) .illegalOperand
      modify fun s => (s.dropSparks s.cur x.toNat).writeBank s.cur.key o.toNat 0
        (lampCfgOf (s.sliceRead s.cur o.toNat 64)).first
      modCur fun c => { c with lampCfg := c.lampCfg.set (x.toNat % 16) (some o.toNat) }
      return .done) u f t) : Gives (lcfgBody tile off) s f t := by
  refine twoOperands_gives h (gives_bind (check_of_true ?_ _ _ u) (gives_bind (check_of_true ?_ _ _ u)
    (gives_bind (get_gives u) ?_)))
  · rw [(wbits_eq_zero_iff_lt (lo := 4) (by decide) _).2 hx, (wbits_eq_zero_iff_lt (lo := 21) (by decide) _).2 ho]
    rfl
  · exact decide_eq_true ((wbits_zero_eq_mod o 6).trans hal)
  · rw [if_neg (by rw [htile, hstore, Bool.and_false]; decide)]
    exact gives_bind (checkCount_gives hcount) (gives_bind (check_of_true hfits _ _ u) (gives_bind hslice hrest))

/-! R275 to R277. -/

theorem lspark_completes (h : TwoOperands (.lspark ra rb) ra rb s a b u) (ha48 : wbits a 48 16 = 0) (ha26 : wbits a 26 6 = 0)
    (hb0 : wbits b 0 14 = 0) (hid : wbits b 14 6 ≠ 63) (hcore : lampCore (BitVec.ofNat 26 (wbits a 0 26)) ≤ 767)
    (hfree : Unhindered (some (wbits b 14 6)) [wbits b 20 6, wbits b 26 6] (.lspark a b) u)
    (howner : (u.lampOwner u.cur (BitVec.ofNat 26 (wbits a 0 26))).isSome = true)
    (hfail : NoneFailed [wbits b 20 6, wbits b 26 6] u) :
    Completes (.lspark ra rb) s (accepted u (some (wbits b 14 6)) [wbits b 20 6, wbits b 26 6] (.lspark a b)) :=
  issue_gives h.1 (twoOperands_gives h (gives_bind (check_of_true (by rw [ha48, ha26, hb0]; rfl) _ _ u)
    (gives_bind (checkId_gives hid u) (gives_bind (check_of_true (decide_eq_true hcore) _ _ u)
    (gives_bind (stallsAccept_gives hfree) (gives_bind (get_gives u) (gives_bind (check_of_true howner _ _ u)
    (gives_bind (acceptCmd_gives hfail) (gives_pure _ _)))))))))

theorem lrun_completes {o : Nat} (h : TwoOperands (.lrun ra rb) ra rb s a b u) (ha4 : wbits a 4 28 = 0)
    (ha32 : wbits a 32 32 ≠ 0) (hb32 : wbits b 32 32 = 0) (hb0 : wbits b 0 14 = 0) (hid : wbits b 14 6 ≠ 63)
    (hcount : wbits a 0 4 < u.cur.tiles) (hcfg : u.cur.lampCfg[wbits a 0 4 % 16]'(Nat.mod_lt _ (by decide)) = some o)
    (hslice : Gives (checkSlice [(o, 64)] []) u () u)
    (hfree : Unhindered (some (wbits b 14 6)) [wbits b 20 6, wbits b 26 6] (.lrun a b) u)
    (hmark : u.sliceMarked u.cur (o + 4) 4 = false) (htheta : (lampCfgOf (u.sliceRead u.cur o 64)).theta ≠ 0)
    (hcheck : Gives (checkLampCfg o) u () u) (hstep : (lampCfgOf (u.sliceRead u.cur o 64)).step + wbits a 32 32 ≤ 2 ^ 32)
    (hfail : NoneFailed [wbits b 20 6, wbits b 26 6] u) {v : State}
    (hv : v = accepted u (some (wbits b 14 6)) [wbits b 20 6, wbits b 26 6] (.lrun a b)) :
    Completes (.lrun ra rb) s { v with cur := { v.cur with cmds := v.cur.cmds.map (fun m =>
      if m.seq = u.cur.nextCmd then { m with bank := u.sliceImage u.cur, fired := (lampCfgOf (u.sliceRead u.cur o 64)).fired }
      else m) } } := by
  subst hv
  refine issue_gives h.1 (twoOperands_gives h (gives_bind (check_of_true ?_ _ _ u) (gives_bind (checkId_gives hid u)
    (gives_bind (stallsAccept_gives hfree) (gives_bind (checkCount_gives hcount) (gives_bind (get_gives u) ?_))))))
  · rw [ha4, hb32, hb0, decide_eq_true ha32]
    rfl
  · rw [hcfg]
    exact gives_bind hslice (gives_bind (check_of_true (by rw [hmark]; rfl) _ _ u)
      (gives_bind (check_of_true (decide_eq_true htheta) _ _ u) (gives_bind hcheck
      (gives_bind (check_of_true (decide_eq_true hstep) _ _ u) (gives_bind (cur_gives u) (gives_bind (acceptCmd_gives hfail)
      (gives_bind (modify_gives _ _) (gives_pure _ _))))))))

/-- What LSTOP does to one command of its tile. -/
def stopRun (k : Key) (s : State) (m : Cmd) : State :=
  if m.state == .accepted then s.completeCmd k m.seq none else s.modCmd k m.seq fun m => { m with stopAsked := true }

/-- The commands that LSTOP finds. -/
def runsOf (c : Context) (n : Nat) : List Cmd := c.cmds.filter fun m => m.incomplete && m.kind.runTile == some n

theorem lstop_completes {r : Scalar} {x : Word} (hi : issues (.lstop r) s = true) (hr : srcBound r s)
    (hx : Gives (readClean r) s x u) (h16 : x.toNat < 16) (hcount : x.toNat < u.cur.tiles)
    (hcfg : (u.cur.lampCfg[x.toNat % 16]'(Nat.mod_lt _ (by decide))).isSome = true) :
    Completes (.lstop r) s ((runsOf u.cur x.toNat).foldl (stopRun u.cur.key) u) :=
  issue_gives hi (gives_bind hr (gives_bind hx (gives_bind
    (check_of_true (decide_eq_true ((wbits_eq_zero_iff_lt (lo := 4) (by decide) x).2 h16)) _ _ u)
    (gives_bind (checkCount_gives hcount) (gives_bind (cur_gives u) (gives_bind (check_of_true hcfg _ _ u)
    (gives_bind (modify_gives _ u) (gives_pure _ _))))))))

/-- A command of the current context changed. -/
theorem modCmd_current (hbusy : s.busy = true) (seq : Nat) (f : Cmd → Cmd) : s.modCmd s.cur.key seq f =
    { s with cur := { s.cur with cmds := s.cur.cmds.map fun m => if m.seq = seq then f m else m } } :=
  modCtx_current hbusy _ rfl

theorem completeCmd_eq (s : State) (k : Key) (seq : Nat) (f : Option FaultInfo) :
    ∃ t, t = s.modCmd k seq (fun m => { m with state := .done, fault := f.map fun x => { x with engine := m.id } }) ∧
      ∃ st ctxs, s.completeCmd k seq f =
        { t with cur := { t.cur with status := st }, ctxs := ctxs, nextSeq := t.nextSeq + 1 } := by
  refine ⟨_, rfl, ?_⟩
  exact wakeWhere_eq _ _

/-- What LSTOP leaves of the state where the context runs. -/
structure Stops (s t : State) : Prop where
  busy : t.busy = s.busy
  key : t.cur.key = s.cur.key
  regs : t.cur.regs = s.cur.regs
  mem : t.mem = s.mem

theorem stopRun_cmds (hbusy : s.busy = true) (m : Cmd) : ((stopRun s.cur.key s m).cur.cmds = s.cur.cmds.map fun c =>
      if c.seq = m.seq then (if m.state = .accepted then { c with state := .done, fault := none } else { c with stopAsked := true })
      else c) ∧ Stops s (stopRun s.cur.key s m) := by
  unfold stopRun
  by_cases h : m.state = .accepted
  · rw [if_pos (beq_iff_eq.2 h)]
    obtain ⟨t, ht, st, ctxs, heq⟩ := completeCmd_eq s s.cur.key m.seq none
    rw [modCmd_current hbusy] at ht
    subst ht
    rw [heq]
    exact ⟨by simp only [if_pos h]; rfl, rfl, rfl, rfl, rfl⟩
  · rw [if_neg (by rwa [beq_iff_eq]), modCmd_current hbusy]
    exact ⟨by simp only [if_neg h], rfl, rfl, rfl, rfl⟩

theorem stopRuns_stops (k : Key) (l : List Cmd) (hbusy : s.busy = true) (hk : s.cur.key = k) : Stops s (l.foldl (stopRun k) s) := by
  induction l generalizing s with
  | nil => exact ⟨rfl, rfl, rfl, rfl⟩
  | cons m l ih =>
    subst hk
    obtain ⟨_, hb, hkey, hregs, hmem⟩ := stopRun_cmds hbusy m
    obtain ⟨hb', hkey', hregs', hmem'⟩ := ih (hb.trans hbusy) hkey
    exact ⟨hb'.trans hb, hkey'.trans hkey, hregs'.trans hregs, hmem'.trans hmem⟩

end

/-- Settles O26: each makes its checks, and waits, is accepted or changes its bank. -/
theorem engineWaitsAndLampCommandsComplete : Obligations.EngineWaitsAndLampCommandsComplete := by
  refine ⟨fun p hp d id s u vs ms hi hid hd hvs hm hlt hall hone => ⟨fun hleft => ?_, fun hdone t hw => ?_⟩,
    fun tile off s u x o h hx ho hal htile hstore hcount hfits hslice => ⟨fun htheta hmark => ?_,
      fun htheta hlive hall hcfg hcrew => ?_⟩,
    fun ra rb s u a b h ha48 ha26 hb0 hid hcore hfree howner hfail =>
      lspark_completes h ha48 ha26 hb0 hid hcore hfree howner hfail,
    fun ra rb s u a b o h ha4 ha32 hb32 hb0 hid hcount hcfg hslice hfree hmark htheta hcheck hstep hfail =>
      lrun_completes h ha4 ha32 hb32 hb0 hid hcount hcfg hslice hfree hmark htheta hcheck hstep hfail rfl,
    fun r s u x hi hr hx h16 hcount hcfg => ⟨_, lstop_completes hi hr hx h16 hcount hcfg, ?_⟩⟩
  · exact (engineWaits_exec p hp d id s).trans
      (issue_gives hi (waitEngine_parks hid hd hvs hm (waitedFor_gives hlt hall hone) hleft))
  · exact (engineWaits_exec p hp d id s).trans
      (issue_gives hi (waitEngine_gives hid hd hvs hm (waitedFor_gives hlt hall hone) hdone hw))
  · refine issue_gives h.1 (lcfg_gives h hx ho hal htile hstore hcount hfits hslice ?_)
    rw [if_pos htheta]
    exact gives_bind (check_of_true (by rw [hmark]; rfl) _ _ u) (gives_bind (modify_gives _ u)
      (gives_bind (modify_gives _ _) (gives_pure _ _)))
  · refine issue_gives h.1 (lcfg_gives h hx ho hal htile hstore hcount hfits hslice ?_)
    rw [if_neg htheta]
    exact gives_bind (checkLive_gives hlive) (gives_bind hall (gives_bind hcfg
      (gives_bind (check_of_true (decide_eq_true hcrew) _ _ u) (gives_bind (modify_gives _ u)
      (gives_bind (modify_gives _ _) (gives_pure _ _))))))
  · have hbusy : u.busy = true := by
      rw [readClean_chans hx]
      exact ((issues_iff _ s).1 hi).1
    obtain ⟨_, _, hregs, hmem⟩ := stopRuns_stops u.cur.key (runsOf u.cur x.toNat) hbusy rfl
    refine ⟨hregs, hmem, fun hnone => ?_, fun m hone hinc htile => ?_⟩
    · have hempty : runsOf u.cur x.toNat = [] := List.filter_eq_nil_iff.2 fun m hm => by
        rcases hnone m hm with h | h <;> simp [h]
      rw [hempty]
      rfl
    · have hthis : runsOf u.cur x.toNat = [m] := by
        rw [runsOf, hone, List.filter_cons_of_pos (by rw [hinc, htile]; simp), List.filter_nil]
      rw [hthis, List.foldl_cons, List.foldl_nil, (stopRun_cmds hbusy m).1, hone, List.map_cons, List.map_nil, if_pos rfl]

end Sys2Proof.Machine
end

section
/-! PROOFS. Byte spaces whose bytes a step writes in one range alone; a frame and what is written into it (R355, R356). -/
namespace Sys2Proof.Machine
open Sys2Proof.Claims

/-! A byte space. -/

/-- A write leaves every other byte, in whatever form the space is. -/
theorem Memory.read_write_of_ne {a x : Nat} {b : Byte} (h : x ≠ a) : ∀ m : Memory, (m.write a b).read x = m.read x
  | [] => by
    unfold Memory.write
    split
    · rfl
    · exact if_neg h
  | (a', b') :: r => by
    have hr : ∀ b, Memory.read ((a, b) :: r) x = Memory.read r x := fun _ => if_neg h
    rw [Memory.write]
    split
    · split
      · rfl
      · rw [Memory.read, if_neg h]
    · split
      case isTrue ha =>
        subst ha
        split
        · exact (hr _).symm
        · rw [hr, hr]
      case isFalse =>
        rw [Memory.read, Memory.read_write_of_ne h r, ← Memory.read]

theorem Memory.read_writeN_apart {y : Nat} : ∀ (n a x : Nat) (m : Memory), (y < a ∨ a + n ≤ y) → (m.writeN a n x).read y = m.read y
  | 0, _, _, _, _ => rfl
  | n + 1, a, x, m, hy => by
    rw [Memory.writeN, Memory.read_writeN_apart n (a + 1) (x / 256) _ (by omega), Memory.read_write_of_ne (by omega)]

theorem Memory.readN_congr {m m' : Memory} : ∀ (n a : Nat), (∀ x, a ≤ x → x < a + n → m'.read x = m.read x) →
    m'.readN a n = m.readN a n
  | 0, _, _ => rfl
  | n + 1, a, h => by
    rw [Memory.readN, Memory.readN, h a (by omega) (by omega), Memory.readN_congr n (a + 1) fun x h1 h2 => h x (by omega) (by omega)]

theorem Mem.wf_iff {m : Mem} : m.wf = true ↔ m.cells.wf = true ∧ m.marks.wf = true := by
  rw [Mem.wf, Bool.and_eq_true]

/-- `m'` is `m` with bytes of [lo, hi) written. -/
def Mem.Within (lo hi : Nat) (m m' : Mem) : Prop :=
  (m.wf = true → m'.wf = true) ∧ ∀ a, a < lo ∨ hi ≤ a → m'.cells.read a = m.cells.read a

section
variable {lo hi : Nat} {m m' m'' : Mem}

theorem Mem.Within.refl (lo hi : Nat) (m : Mem) : m.Within lo hi m := ⟨id, fun _ _ => rfl⟩

theorem Mem.Within.trans (h : m.Within lo hi m') (h' : m'.Within lo hi m'') : m.Within lo hi m'' :=
  ⟨h'.1 ∘ h.1, fun a ha => (h'.2 a ha).trans (h.2 a ha)⟩

theorem Mem.Within.mono {lo' hi' : Nat} (h : m.Within lo hi m') (hlo : lo' ≤ lo) (hhi : hi ≤ hi') : m.Within lo' hi' m' :=
  ⟨h.1, fun a ha => h.2 a (by omega)⟩

/-- What lies outside the range reads as before. -/
theorem Mem.Within.readN (h : m.Within lo hi m') {a n : Nat} (ha : a + n ≤ lo ∨ hi ≤ a) : m'.readN a n = m.readN a n :=
  Memory.readN_congr n a fun x _ _ => h.2 x (by omega)

theorem Mem.within_writeN (a n x : Nat) (mark : Bool) : m.Within a (a + n) (m.writeN a n x mark) :=
  ⟨fun h => Mem.wf_iff.2 ⟨Memory.writeN_wf n a x (Mem.wf_iff.1 h).1, Memory.fill_wf n a (Mem.wf_iff.1 h).2⟩,
    fun _ hy => Memory.read_writeN_apart n a x _ hy⟩

/-- Bytes written one by one keep the canonical form. -/
theorem Memory.writes_wf {α : Type} (a : α → Nat) (b : α → Byte) (l : List α) : ∀ {m : Memory}, m.wf = true →
    Memory.wf (l.foldl (fun k i => k.write (a i) (b i)) m) = true := by
  induction l with
  | nil => exact id
  | cons x l ih => exact fun h => ih (Memory.write_wf h)

theorem Mem.within_writeMarks (a n x marks : Nat) : m.Within a (a + n) (m.writeMarks a n x marks) :=
  ⟨fun h => Mem.wf_iff.2 ⟨Memory.writeN_wf n a x (Mem.wf_iff.1 h).1,
      Memory.writes_wf (fun i => a + i) (fun i => if marks / 2 ^ i % 2 = 1 then 1 else 0) _ (Mem.wf_iff.1 h).2⟩,
    fun _ hy => Memory.read_writeN_apart n a x _ hy⟩

theorem Mem.within_foldl {α : Type} {f : Mem → α → Mem} (l : List α) (h : ∀ m, ∀ x ∈ l, Mem.Within lo hi m (f m x)) :
    ∀ m, Mem.Within lo hi m (l.foldl f m) := by
  induction l with
  | nil => exact fun m => .refl lo hi m
  | cons x l ih =>
    exact fun m => (h m x List.mem_cons_self).trans (ih (fun m y hy => h m y (List.mem_cons_of_mem x hy)) _)

theorem Mem.within_copyFrom (b : Nat) (src : Mem) (a n : Nat) : m.Within b (b + n) (m.copyFrom b src a n) := by
  refine Mem.within_foldl _ (fun m i hi => ?_) m
  have : i < n / 128 := List.mem_range.1 hi
  exact (Mem.within_writeMarks (b + 128 * i) 128 _ _).mono (by omega) (by omega)

/-- A number written is the number read. -/
theorem Mem.readN_writeN (a n x : Nat) (mark : Bool) (h : m.wf = true) : (m.writeN a n x mark).readN a n = x % 2 ^ (8 * n) :=
  Memory.readN_writeN n a x (Mem.wf_iff.1 h).1

theorem Mem.readN_writeMarks (a n x marks : Nat) (h : m.wf = true) : (m.writeMarks a n x marks).readN a n = x % 2 ^ (8 * n) :=
  Memory.readN_writeN n a x (Mem.wf_iff.1 h).1

end

/-! A state. -/

/-- `t` is `s` with bytes of memory in [lo, hi) written, and free values drawn. -/
def WritesIn (lo hi : Nat) (s t : State) : Prop :=
  t = { s with mem := t.mem, free := t.free } ∧ s.mem.Within lo hi t.mem

theorem writesIn_chain (lo hi : Nat) : Chain (WritesIn lo hi) :=
  ⟨fun s => ⟨rfl, .refl lo hi s.mem⟩, fun h h' => ⟨h'.1.trans (by rw [h.1]), h.2.trans h'.2⟩⟩

section
variable {lo hi : Nat} {s t : State}

theorem WritesIn.trans {u : State} (h : WritesIn lo hi s t) (h' : WritesIn lo hi t u) : WritesIn lo hi s u :=
  (writesIn_chain lo hi).trans h h'

theorem WritesIn.mono {lo' hi' : Nat} (h : WritesIn lo hi s t) (hlo : lo' ≤ lo) (hhi : hi ≤ hi') : WritesIn lo' hi' s t :=
  ⟨h.1, h.2.mono hlo hhi⟩

theorem writesIn_foldl {α : Type} {f : State → α → State} (l : List α) (h : ∀ s, ∀ x ∈ l, WritesIn lo hi s (f s x)) (s : State) :
    WritesIn lo hi s (l.foldl f s) := by
  induction l generalizing s with
  | nil => exact (writesIn_chain lo hi).refl s
  | cons x l ih =>
    exact (h s x List.mem_cons_self).trans (ih (fun s y hy => h s y (List.mem_cons_of_mem x hy)) _)

theorem writesIn_mem (s : State) {m : Mem} (h : s.mem.Within lo hi m) : WritesIn lo hi s { s with mem := m } := ⟨rfl, h⟩

theorem writesIn_putFrame (s : State) (f off : Nat) (v : MWord) (hlo : lo ≤ f + off) (hhi : f + off + 8 ≤ hi) :
    WritesIn lo hi s (s.putFrame f off v) :=
  ⟨rfl, (Mem.within_writeMarks (f + off) 8 _ _).mono hlo hhi⟩

theorem writesIn_writeN (s : State) (a n x : Nat) (mark : Bool) (hlo : lo ≤ a) (hhi : a + n ≤ hi) :
    WritesIn lo hi s { s with mem := s.mem.writeN a n x mark } :=
  ⟨rfl, (Mem.within_writeN a n x mark).mono hlo hhi⟩

theorem writesIn_copyFrom (s : State) (src : Mem) (a b n : Nat) (hlo : lo ≤ b) (hhi : b + n ≤ hi) :
    WritesIn lo hi s { s with mem := s.mem.copyFrom b src a n } :=
  ⟨rfl, (Mem.within_copyFrom b src a n).mono hlo hhi⟩

theorem putFrame_readN (s : State) (f off : Nat) (v : MWord) (h : s.mem.wf = true) :
    (s.putFrame f off v).mem.readN (f + off) 8 = v.bits.toNat := by
  rw [State.putFrame, Mem.readN_writeMarks _ _ _ _ h]
  exact Nat.mod_eq_of_lt v.bits.isLt

/-- What one of the elements writes and none of the others changes stands after all of them. -/
theorem foldl_establishes {α : Type} {f : State → α → State} {P : State → Prop} {l : List α} {x : α} (hx : x ∈ l)
    (hwf : ∀ s y, y ∈ l → s.mem.wf = true → (f s y).mem.wf = true) (hset : ∀ s, s.mem.wf = true → P (f s x))
    (hkeep : ∀ s y, y ∈ l → s.mem.wf = true → P s → P (f s y)) {s : State} (h : s.mem.wf = true) : P (l.foldl f s) := by
  have keep : ∀ l' : List α, l' ⊆ l → ∀ t : State, t.mem.wf = true → P t → P (l'.foldl f t) := by
    intro l'
    induction l' with
    | nil => exact fun _ _ _ hp => hp
    | cons y l' ih =>
      intro hsub t ht hp
      have hy : y ∈ l := hsub List.mem_cons_self
      exact ih (fun z hz => hsub (List.mem_cons_of_mem y hz)) _ (hwf t y hy ht) (hkeep t y hy ht hp)
  have wf : ∀ l' : List α, l' ⊆ l → ∀ t : State, t.mem.wf = true → (l'.foldl f t).mem.wf = true := by
    intro l'
    induction l' with
    | nil => exact fun _ _ h => h
    | cons y l' ih =>
      exact fun hsub t ht => ih (fun z hz => hsub (List.mem_cons_of_mem y hz)) _ (hwf t y (hsub List.mem_cons_self) ht)
  obtain ⟨pre, post, rfl⟩ := List.append_of_mem hx
  rw [List.foldl_append, List.foldl_cons]
  have hpre := wf pre (List.subset_append_left _ _) s h
  exact keep post (fun z hz => List.mem_append_right _ (List.mem_cons_of_mem x hz)) _ (hwf _ x hx hpre) (hset _ hpre)

/-- A service-table entry outside what is written reads as before. -/
theorem WritesIn.frameAt (h : WritesIn lo hi s t) {k : Key}
    (ha : let e := s.bar1.svcbase.toNat + 32 * k.asid.toNat
      e + 32 ≤ lo ∨ hi ≤ e) : t.frameAt k = s.frameAt k := by
  have hb : t.bar1 = s.bar1 := by rw [h.1]
  dsimp only at ha
  rw [State.frameAt, State.frameAt, State.svcWord, State.svcWord, State.word, State.word, hb, h.2.readN (by omega)]

end

/-! What a context writes into its frame. -/

section
variable {s : State} {c : Context}

/-- The registers go into the first 0x4100 bytes of the frame. -/
theorem fileOffsets_lt {inH : Bool} {off : Nat} (h : off ∈ fileOffsets inH) :
    frameOffset off + 8 ≤ 0x4100 ∧ 0x200 ≤ frameOffset off ∧ (off < 0x240 ∨ 0x1000 ≤ off) ∧ off % 8 = 0 := by
  rw [fileOffsets, List.mem_append] at h
  rcases h with h | h
  · obtain ⟨i, hi, rfl⟩ := List.mem_map.1 h
    have := List.mem_range.1 hi
    rw [frameOffset, if_pos (by omega)]
    omega
  · cases inH
    all_goals
      obtain ⟨i, hi, rfl⟩ := List.mem_map.1 h
      have := List.mem_range.1 hi
      rw [frameOffset, if_neg (by omega)]
      omega

/-- The word of a register file written into a frame. -/
def putFile (f : Nat) (c : Context) (s : State) (off : Nat) : State :=
  match s.fileWord c off with
  | some v => s.putFrame f (frameOffset off) v
  | none => s

theorem writesIn_putFile (f : Nat) (c : Context) (s : State) (off : Nat) :
    WritesIn (f + frameOffset off) (f + frameOffset off + 8) s (putFile f c s off) := by
  rw [putFile]
  split
  · exact writesIn_putFrame s f _ _ le_rfl le_rfl
  · exact (writesIn_chain _ _).refl s

/-- The system registers of a context written into its frame. -/
def putSys (f : Nat) (w : Nat → Word) (s : State) : State := (List.range 64).foldl (fun s n => s.putFrame f (8 * n) { bits := w n }) s

/-- The words of a frame whose layout is not fixed. -/
def openOffsets : List Nat := (List.range 7).map (fun i => 0x448 + 8 * i) ++ (List.range 256).map (fun i => 0x800 + 8 * i)

theorem openOffsets_between {off : Nat} (h : off ∈ openOffsets) : 0x448 ≤ off ∧ off + 8 ≤ 0x1000 := by
  rcases List.mem_append.1 h with h | h
  all_goals
    obtain ⟨i, hi, rfl⟩ := List.mem_map.1 h
    have := List.mem_range.1 hi
    omega

/-- Those words written. -/
def putOpen (f : Nat) (s : State) : State := openOffsets.foldl (fun s off => s.putFrame f off { bits := Config.framePart (s.free + off) }) s

/-- The system registers and the register files of a context written into its frame. -/
def putFiles (s : State) (c : Context) : State :=
  (fileOffsets c.inH).foldl (putFile (s.frameAt c.key) { c with regs := c.unitStart })
    (putSys (s.frameAt c.key) (fun n => if n = 3 then s.cycleNow + c.cycleOff
      else ({ c with regs := c.unitStart } : Context).sysWord n) s)

/-- Free values drawn up to number `n`. -/
def drawn (n : Nat) (s : State) : State := { s with free := n }

theorem drawn_mem (n : Nat) (s : State) : (drawn n s).mem = s.mem := rfl

theorem writesIn_drawn (lo hi n : Nat) (s : State) : WritesIn lo hi s (drawn n s) := ⟨rfl, .refl lo hi s.mem⟩

theorem saveRegs_eq (s : State) (c : Context) : s.saveRegs c =
    drawn (s.free + 4096) (putOpen (s.frameAt c.key)
      ((putFiles s c).putFrame (s.frameAt c.key) 0x440 { bits := c.unitStart.pc.setWidth 64 })) := by
  unfold State.saveRegs drawn putOpen putFiles putSys openOffsets
  generalize List.range 64 = l
  generalize List.range 7 = l7
  generalize List.range 256 = l2
  rfl

theorem writesIn_putSys (f : Nat) (w : Nat → Word) (s : State) : WritesIn f (f + 0x200) s (putSys f w s) :=
  writesIn_foldl _ (fun s n hn => by
    have := List.mem_range.1 hn
    exact writesIn_putFrame s f _ _ (by omega) (by omega)) s

theorem writesIn_putFiles (s : State) (c : Context) :
    WritesIn (s.frameAt c.key) (s.frameAt c.key + 0x4100) s (putFiles s c) :=
  ((writesIn_putSys _ _ s).mono le_rfl (by omega)).trans (writesIn_foldl _ (fun s off hoff => by
    have := fileOffsets_lt hoff
    exact (writesIn_putFile _ _ s off).mono (by omega) (by omega)) _)

theorem writesIn_putOpen (f : Nat) (s : State) : WritesIn (f + 0x448) (f + 0x1000) s (putOpen f s) :=
  writesIn_foldl _ (fun s off hoff => by
    have := openOffsets_between hoff
    exact writesIn_putFrame s f _ _ (by omega) (by omega)) s

theorem writesIn_saveRegs (s : State) (c : Context) :
    WritesIn (s.frameAt c.key) (s.frameAt c.key + 0x4100) s (s.saveRegs c) := by
  rw [saveRegs_eq]
  exact (((writesIn_putFiles s c).trans (writesIn_putFrame _ _ _ _ (by omega) (by omega))).trans
    ((writesIn_putOpen _ _).mono (by omega) (by omega))).trans (writesIn_drawn _ _ _ _)

theorem saveRegs_mem (s : State) (c : Context) : (s.saveRegs c).mem =
    (putOpen (s.frameAt c.key) ((putFiles s c).putFrame (s.frameAt c.key) 0x440 { bits := c.unitStart.pc.setWidth 64 })).mem :=
  (congrArg State.mem (saveRegs_eq s c)).trans (drawn_mem _ _)

/-- The frame holds the PC of the unit's start. -/
theorem saveRegs_pc (s : State) (c : Context) (h : s.mem.wf = true) :
    (s.saveRegs c).mem.readN (s.frameAt c.key + 0x440) 8 = c.unitStart.pc.toNat := by
  have hw := (writesIn_putFiles s c).2.1 h
  rw [saveRegs_mem, (writesIn_putOpen _ _).2.readN (.inl (by omega)), putFrame_readN _ _ _ _ hw]
  exact (BitVec.toNat_setWidth _ _).trans
    (Nat.mod_eq_of_lt (c.unitStart.pc.isLt.trans (by norm_num : 2 ^ 48 < 2 ^ 64)))

/-- A general register written into a frame. -/
theorem putFile_g (f : Nat) (c : Context) (n : Fin 32) (s : State) (h : s.mem.wf = true) :
    (putFile f { c with regs := c.unitStart } s (8 * n.val)).mem.readN (f + 0x200 + 8 * n.val) 8 = c.unitStart.g[n].bits.toNat := by
  have hn := n.isLt
  have hport : portAt (8 * n.val) = none := if_neg (by simp; omega)
  have hdiv : 8 * n.val / 8 % 32 = n.val := by omega
  have hword : s.fileWord { c with regs := c.unitStart } (8 * n.val) = some c.unitStart.g[n].toWord := by
    rw [State.fileWord, hport]
    exact (if_pos (by omega)).trans (by simp only [hdiv]; rfl)
  rw [putFile, hword, Nat.add_assoc, show 0x200 + 8 * n.val = frameOffset (8 * n.val) from
    (Nat.add_comm _ _).trans (if_pos (by omega)).symm]
  exact putFrame_readN s f _ _ h

/-- The frame holds the general registers of the unit's start. -/
theorem saveRegs_g (s : State) (c : Context) (n : Fin 32) (h : s.mem.wf = true) :
    (s.saveRegs c).mem.readN (s.frameAt c.key + 0x200 + 8 * n.val) 8 = c.unitStart.g[n].bits.toNat := by
  have hn := n.isLt
  rw [saveRegs_mem, (writesIn_putOpen _ _).2.readN (.inl (by omega)),
    (writesIn_putFrame _ _ _ _ le_rfl le_rfl).2.readN (.inl (by omega))]
  have hmem : 8 * n.val ∈ fileOffsets c.inH :=
    List.mem_append_left _ (List.mem_map.2 ⟨n.val, List.mem_range.2 (by omega), rfl⟩)
  exact foldl_establishes (f := putFile (s.frameAt c.key) { c with regs := c.unitStart }) (l := fileOffsets c.inH)
    (P := fun t => t.mem.readN (s.frameAt c.key + 0x200 + 8 * n.val) 8 = c.unitStart.g[n].bits.toNat) hmem
    (fun t off _ => (writesIn_putFile _ _ t off).2.1) (fun t => putFile_g (s.frameAt c.key) c n t) (fun t off hoff ht hp => by
      by_cases he : off = 8 * n.val
      · subst he
        exact putFile_g (s.frameAt c.key) c n t ht
      · have := fileOffsets_lt hoff
        refine ((writesIn_putFile _ _ t off).2.readN ?_).trans hp
        rw [frameOffset] at this ⊢
        split_ifs at this ⊢ <;> omega)
    ((writesIn_putSys _ _ s).2.1 h)

theorem writesIn_saveTables (s : State) (c : Context) :
    WritesIn (s.frameAt c.key + 0x480) (s.frameAt c.key + 0x800) s (s.saveTables c) := by
  refine (((writesIn_foldl _ (fun s i hi => ?_) s).trans (writesIn_foldl _ (fun s i _ => ?_) _)).trans
    (writesIn_foldl _ (fun s i _ => ?_) _)).trans (writesIn_foldl _ (fun s i _ => ?_) _)
  · have := List.mem_range.1 hi
    exact writesIn_writeN s _ _ _ _ (by omega) (by omega)
  all_goals
    have := i.isLt
    exact writesIn_writeN s _ _ _ _ (by omega) (by omega)

/-- A barrier object of a live line lies in the slice. -/
theorem liveLine_lt {o : Nat} (hH : c.inH = false) (ho : o % 16 = 0) (h : c.liveLine (o / 128) = true) :
    o + 16 ≤ 4096 * c.foot := by
  have hl : o / 128 < c.sliceLines := of_decide_eq_true (Bool.and_eq_true_iff.1 h).1
  rw [Context.sliceLines, hH, if_neg Bool.false_ne_true] at hl
  omega

/-- The barriers of a context that stand in the image of its slice. -/
def imageBarriers (c : Context) : List Barrier := c.barriers.filter (fun b => !c.inH && c.liveLine (b.off / 128))

theorem mem_imageBarriers {b : Barrier} : b ∈ imageBarriers c ↔
    b ∈ c.barriers ∧ c.inH = false ∧ c.liveLine (b.off / 128) = true := by
  rw [imageBarriers, List.mem_filter, Bool.and_eq_true, Bool.not_eq_true']

/-- The live lines of a context's slice copied into its frame `f`. -/
def putLines (f : Nat) (c : Context) (s : State) : State :=
  ((List.range (32 * c.foot)).filter c.liveLine).foldl (fun (s : State) l =>
    { s with mem := s.mem.copyFrom (f + 0x5000 + 128 * l) s.scratch (c.sliceBase + 128 * l) 128 }) s

/-- The live tiles of a context copied into its frame `f`. -/
def putTiles (f : Nat) (c : Context) (s : State) : State :=
  ((List.range c.tiles).filter c.liveTile).foldl (fun (s : State) t =>
    { s with mem := s.mem.copyFrom (f + 0x5000 + 4096 * c.foot + 2 ^ 14 * t) s.acc (c.tileWord t 0) (2 ^ 14) }) s

/-- The live maps of lines and tiles written into a frame `f`. -/
def putLive (f lines tiles : Nat) (s : State) : State :=
  { s with mem := (s.mem.writeN (f + 0x4100) 2048 lines false).writeN (f + 0x4900) 8 tiles false }

theorem saveSlice_eq (s : State) (c : Context) : ∃ lines tiles, s.saveSlice c =
    putTiles (s.frameAt c.key) c
      ((putLines (s.frameAt c.key) c (putLive (s.frameAt c.key) lines tiles s)).saveBarriers (s.frameAt c.key) c) :=
  ⟨_, _, rfl⟩

theorem writesIn_putLive (f lines tiles : Nat) (s : State) :
    WritesIn (f + 0x4100) (f + 0x4908) s (putLive f lines tiles s) :=
  writesIn_mem s (((Mem.within_writeN _ _ _ _).mono (by omega) (by omega)).trans
    ((Mem.within_writeN _ _ _ _).mono (by omega) (by omega)))

theorem writesIn_putLines (f : Nat) (c : Context) (s : State) :
    WritesIn (f + 0x5000) (f + 0x5000 + 4096 * c.foot) s (putLines f c s) :=
  writesIn_foldl _ (fun s l hl => by
    have := List.mem_range.1 (List.mem_filter.1 hl).1
    exact writesIn_copyFrom s s.scratch _ _ _ (by omega) (by omega)) s

theorem writesIn_putTiles (f : Nat) (c : Context) (s : State) :
    WritesIn (f + 0x5000 + 4096 * c.foot) (f + 0x5000 + 4096 * c.foot + 2 ^ 14 * c.tiles) s (putTiles f c s) :=
  writesIn_foldl _ (fun s t ht => by
    have := List.mem_range.1 (List.mem_filter.1 ht).1
    exact writesIn_copyFrom s s.acc _ _ _ (by omega) (by omega)) s

/-- The barrier objects go into the image, whatever their offset. -/
theorem saveBarriers_within (f : Nat) (c : Context) (s : State) {hi : Nat} (hhi : ∀ b ∈ imageBarriers c, b.off + 16 ≤ hi) :
    WritesIn (f + 0x5000) (f + 0x5000 + hi) s (s.saveBarriers f c) :=
  writesIn_foldl _ (fun s b hb => by
    have := hhi b hb
    exact writesIn_writeN s _ _ _ _ (by omega) (by omega)) s

/-- A barrier object stands in the image where no other overlaps it. -/
theorem saveBarriers_reads (f : Nat) (c : Context) {s : State} (h : s.mem.wf = true) {b : Barrier} (hb : b ∈ imageBarriers c)
    (hapart : ∀ x ∈ c.barriers, x = b ∨ x.off + 16 ≤ b.off ∨ b.off + 16 ≤ x.off) :
    (s.saveBarriers f c).mem.readN (f + 0x5000 + b.off) 16 = b.word % 2 ^ 128 := by
  have hwrites (t : State) (x : Barrier) : WritesIn (f + 0x5000 + x.off) (f + 0x5000 + x.off + 16) t
      { t with mem := t.mem.writeN (f + 0x5000 + x.off) 16 x.word false } := writesIn_writeN t _ _ _ _ le_rfl le_rfl
  refine foldl_establishes (l := imageBarriers c) (P := fun t => t.mem.readN (f + 0x5000 + b.off) 16 = b.word % 2 ^ 128) hb
    (fun t x _ => (hwrites t x).2.1) (fun t ht => Mem.readN_writeN _ 16 _ _ ht) (fun t x hx ht hp => ?_) h
  rcases hapart x (mem_imageBarriers.1 hx).1 with rfl | hx
  · exact Mem.readN_writeN _ 16 _ _ ht
  · exact ((hwrites t x).2.readN (by omega)).trans hp

theorem writesIn_saveSparks (s : State) (c : Context) (n : Nat) :
    WritesIn (s.frameAt c.key + (0x5000 + 4096 * c.foot + 2 ^ 14 * c.tiles))
      (s.frameAt c.key + (0x5000 + 4096 * c.foot + 2 ^ 14 * c.tiles) + 16 * n) s (s.saveSparks c n) :=
  (writesIn_foldl _ (fun s i hi => by
    have := List.mem_range.1 hi
    exact writesIn_putFrame s _ _ _ (by omega) (by omega)) s).trans (writesIn_drawn _ _ _ _)

end
end Sys2Proof.Machine
end

section
/-! PROOFS. Contexts found by their keys; a context taken into its frame, halted and resumed (R354 to R359). -/
namespace Sys2Proof.Machine
open Sys2Proof.Claims

/-! A context found by its key. -/

section
variable {s t : State} {k : Key} {c : Context}

theorem ctx_key (h : s.ctx? k = some c) : c.key = k := by
  rw [State.ctx?] at h
  split at h
  case isTrue hcur =>
    cases h
    exact beq_iff_eq.1 (Bool.and_eq_true_iff.1 hcur).2
  case isFalse => 
    have hkey := List.find?_some h
    exact beq_iff_eq.1 hkey

/-- Who is found hangs on the contexts and on the one that has the turn. -/
theorem ctx_congr (hcur : t.cur = s.cur) (hbusy : t.busy = s.busy) (hctxs : t.ctxs = s.ctxs) (k : Key) : t.ctx? k = s.ctx? k := by
  rw [State.ctx?, State.ctx?, hcur, hbusy, hctxs]

theorem ctx_modCtx (h : s.ctx? k = some c) {f : Context → Context} (hf : (f c).key = c.key) : (s.modCtx k f).ctx? k = some (f c) := by
  rw [State.modCtx, h, ← ctx_key h, ← hf]
  exact State.ctx_setCtx s (f c)

theorem find_map_key {f : Context → Context} (hf : ∀ c, (f c).key = c.key) (k : Key) (l : List Context) :
    (l.map f).find? (fun c => c.key == k) = (l.find? (fun c => c.key == k)).map f := by
  rw [List.find?_map]
  congr 2
  funext c
  rw [Function.comp_apply, hf c]

theorem ctx_mapCtxs {f : Context → Context} (hf : ∀ c, (f c).key = c.key) (s : State) (k : Key) :
    (s.mapCtxs f).ctx? k = (s.ctx? k).map f := by
  rw [State.ctx?, State.ctx?, State.mapCtxs]
  dsimp only
  cases hbusy : s.busy
  · rw [Bool.false_and, Bool.false_and, if_neg Bool.false_ne_true, if_neg Bool.false_ne_true, find_map_key hf]
  · rw [if_pos rfl, hf, find_map_key hf]
    split <;> rfl

/-- Held joins that leave change a context in what it counts on alone. -/
theorem State.Freed.found (h : s.Freed t) (hc : s.ctx? k = some c) : ∃ c', t.ctx? k = some c' ∧ c.Freed c' := by
  have hrel := h.ctx k
  rw [hc] at hrel
  cases ht : t.ctx? k with
  | none =>
    rw [ht] at hrel
    nomatch hrel
  | some c' =>
    rw [ht] at hrel
    cases hrel with
    | some hf => exact ⟨c', rfl, hf⟩

/-- A context put back, its core freed where it was running there. -/
def State.putAside (s : State) (c : Context) : State := if s.busy && s.cur.key == c.key then s.leave c else s.setCtx c

theorem ctx_putAside (s : State) (c : Context) : (s.putAside c).ctx? c.key = some c := by
  rw [State.putAside]
  split
  · exact putCtx_find c s.ctxs
  · exact State.ctx_setCtx s c

theorem putAside_eq (s : State) (c : Context) : ∃ cur ctxs busy stalled,
    s.putAside c = { s with cur := cur, ctxs := ctxs, busy := busy, stalled := stalled } := by
  rw [State.putAside]
  split
  · exact ⟨_, _, _, _, rfl⟩
  · rw [State.setCtx]
    split <;> exact ⟨_, _, _, _, rfl⟩

/-- Held joins that leave leave every spark queue. -/
theorem drainHeld_sparks (s : State) (core : Nat) (p : Held → Bool) (n : Nat) :
    ((s.drainHeld core p).core n).sparks = (s.core n).sparks := by
  by_cases hn : n = core
  · subst hn
    rw [drainHeld_eq]
    split
    · rfl
    · rw [core_congr (sendHelds_cores n _ _),
        core_setCore_of_num s (c := (s.core n).without p) (State.core_num s n)]
      rfl
  · rw [drainHeld_core_other s core p hn]

/-- What stays as it is when held joins leave. -/
theorem State.Freed.fields (h : s.Freed t) : t.mem = s.mem ∧ t.bar1 = s.bar1 ∧ t.records = s.records ∧ t.nextSeq = s.nextSeq ∧
    t.scratch = s.scratch ∧ t.acc = s.acc ∧ t.md = s.md ∧ t.busy = s.busy ∧ t.resumes = s.resumes := by
  obtain ⟨cur, ctxs, cores, msgs, n, rfl, -, -⟩ := h
  exact ⟨rfl, rfl, rfl, rfl, rfl, rfl, rfl, rfl, rfl⟩

/-! A context saved (R356). -/

/-- The context as its frame has taken it in. -/
def Context.framed (c : Context) (sparks : List Spark) : Context :=
  { c with slot := none, leaving := false, tileMap := [], cmds := c.cmds.map Cmd.record, sparks := sparks }

/-- The registers, tables, slice and tiles of a context, and `n` sparks, written into its frame. -/
def State.frameWrites (s : State) (c : Context) (n : Nat) : State :=
  (((s.saveRegs c).saveTables c).saveSlice c).saveSparks c n

/-- What a context that leaves its slot writes into its frame. -/
def State.written (s : State) (c : Context) : State := (s.takeSparks c).1.frameWrites c (s.takeSparks c).2.length

theorem saveCtx_eq (h : s.ctx? k = some c) (hslot : c.slot.isSome = true) : s.saveCtx k =
    (((s.written c).putAside (c.framed (s.takeSparks c).2)).drainHeld c.core (Held.ofCtx k)).refreshSuspended := by
  have hk : (c.framed (s.takeSparks c).2).key = k := (ctx_key h : c.key = k)
  rw [State.saveCtx, h, State.putAside, hk]
  dsimp only
  rw [if_neg (by rw [Option.isNone_iff_eq_none]; rintro he; rw [he] at hslot; nomatch hslot)]
  rfl

theorem WritesIn.sameButMem {lo hi : Nat} (h : WritesIn lo hi s t) : t.busy = s.busy ∧ t.cur = s.cur ∧ t.ctxs = s.ctxs ∧
    t.records = s.records := by
  rw [h.1]
  exact ⟨rfl, rfl, rfl, rfl⟩

theorem writesIn_slice (s : State) (c : Context) : WritesIn (s.frameAt c.key + 0x4100)
    (s.frameAt c.key + 0x5000 + 4096 * c.foot + 2 ^ 14 * c.tiles + 16) s (s.saveSlice c) := by
  obtain ⟨lines, tiles, h⟩ := saveSlice_eq s c
  rw [h]
  have hbar (u : State) : WritesIn (s.frameAt c.key + 0x5000) (s.frameAt c.key + 0x5000 + (4096 * c.foot + 16)) u
      (u.saveBarriers (s.frameAt c.key) c) := saveBarriers_within _ c u fun b hb => by
    obtain ⟨-, hH, hl⟩ := mem_imageBarriers.1 hb
    have : b.off / 128 < c.sliceLines := of_decide_eq_true (Bool.and_eq_true_iff.1 hl).1
    rw [Context.sliceLines, hH, if_neg Bool.false_ne_true] at this
    omega
  exact ((((writesIn_putLive _ _ _ s).mono (by omega) (by omega)).trans ((writesIn_putLines _ c _).mono (by omega) (by omega))).trans
    ((hbar _).mono (by omega) (by omega))).trans ((writesIn_putTiles _ c _).mono (by omega) (by omega))

theorem saved_sameButMem (s : State) (c : Context) : (s.written c).busy = s.busy ∧ (s.written c).cur = s.cur ∧
    (s.written c).ctxs = s.ctxs ∧ (s.written c).records = s.records := by
  obtain ⟨h1, h2, h3, h4⟩ := (writesIn_saveRegs (s.takeSparks c).1 c).sameButMem
  obtain ⟨i1, i2, i3, i4⟩ := (writesIn_saveTables ((s.takeSparks c).1.saveRegs c) c).sameButMem
  obtain ⟨j1, j2, j3, j4⟩ := (writesIn_slice (((s.takeSparks c).1.saveRegs c).saveTables c) c).sameButMem
  obtain ⟨k1, k2, k3, k4⟩ := (writesIn_saveSparks ((((s.takeSparks c).1.saveRegs c).saveTables c).saveSlice c) c
    (s.takeSparks c).2.length).sameButMem
  exact ⟨k1.trans (j1.trans (i1.trans h1)), k2.trans (j2.trans (i2.trans h2)), k3.trans (j3.trans (i3.trans h3)),
    k4.trans (j4.trans (i4.trans h4))⟩

theorem refreshSuspended_ctx (s : State) (k : Key) : s.refreshSuspended.ctx? k = s.ctx? k := by
  obtain ⟨qs, h⟩ := refreshSuspended_eq (s := s)
  rw [h]
  rfl

theorem refreshSuspended_mem (s : State) : s.refreshSuspended.mem = s.mem := by
  obtain ⟨qs, h⟩ := refreshSuspended_eq (s := s)
  rw [h]

theorem refreshSuspended_records (s : State) : s.refreshSuspended.records = s.records := by
  obtain ⟨qs, h⟩ := refreshSuspended_eq (s := s)
  rw [h]

/-- A context taken into its frame is there, with its registers and as it stood. -/
theorem saveCtx_found (h : s.ctx? k = some c) (hslot : c.slot.isSome = true) : ∃ c', (s.saveCtx k).ctx? k = some c' ∧
    (c.framed (s.takeSparks c).2).Freed c' ∧ (s.saveCtx k).mem = (s.written c).mem ∧ (s.saveCtx k).records = s.records := by
  have hfreed := freed_drainHeld ((s.written c).putAside (c.framed (s.takeSparks c).2)) c.core (Held.ofCtx k)
  have hput := ctx_putAside (s.written c) (c.framed (s.takeSparks c).2)
  rw [show (c.framed (s.takeSparks c).2).key = k from (ctx_key h : c.key = k)] at hput
  obtain ⟨c', hc', hf⟩ := hfreed.found hput
  obtain ⟨hmem, -, hrec, -⟩ := hfreed.fields
  obtain ⟨cur, ctxs, busy, stalled, hp⟩ := putAside_eq (s.written c) (c.framed (s.takeSparks c).2)
  refine ⟨c', ?_, hf, ?_, ?_⟩
  · rw [saveCtx_eq h hslot, refreshSuspended_ctx, hc']
  · rw [saveCtx_eq h hslot, refreshSuspended_mem, hmem, hp]
  · rw [saveCtx_eq h hslot, refreshSuspended_records, hrec, hp]
    exact (saved_sameButMem s c).2.2.2

theorem Context.Freed.inFrame {sparks : List Spark} {c' : Context} (h : (c.framed sparks).Freed c') : InFrame c c' ∧
    c'.status = c.status ∧ c'.stop = c.stop := by
  obtain ⟨g, -, -, rfl⟩ := h
  exact ⟨⟨rfl, rfl, rfl⟩, rfl, rfl⟩

/-- What FrameApart says of the service-table entry, for a range inside the frame. -/
theorem frameAt_of_writesIn {lo hi : Nat} (h : WritesIn lo hi s t) (ha : FrameApart s k) (hlo : s.frameAt k ≤ lo)
    (hhi : hi ≤ s.frameAt k + 2 ^ 22) : t.frameAt k = s.frameAt k := by
  have ha' : s.bar1.svcbase.toNat + 32 * k.asid.toNat + 32 ≤ s.frameAt k ∨
      s.frameAt k + 2 ^ 22 ≤ s.bar1.svcbase.toNat + 32 * k.asid.toNat := ha
  exact h.frameAt (by dsimp only; omega)

theorem frameApart_of_writesIn {lo hi : Nat} (ha : FrameApart s k) (h : WritesIn lo hi s t) (hlo : s.frameAt k ≤ lo)
    (hhi : hi ≤ s.frameAt k + 2 ^ 22) : FrameApart t k := by
  have hF := frameAt_of_writesIn h ha hlo hhi
  rw [FrameApart] at ha ⊢
  rw [hF, show t.bar1 = s.bar1 by rw [h.1]]
  exact ha

theorem saveSparks_zero (s : State) (c : Context) : s.saveSparks c 0 = drawn (s.free + 2 * 0) s := rfl

section
variable {n : Nat} (ha : FrameApart s c.key) (hfit : 0x5000 + 4096 * c.foot + 2 ^ 14 * c.tiles + 16 * n ≤ 2 ^ 22)
include ha hfit

/-- The parts of a frame written after the registers: the tables, the slice and the sparks. -/
theorem frameWrites_steps : ∃ t : State, WritesIn (s.frameAt c.key + 0x480) (s.frameAt c.key + 0x800) (s.saveRegs c) t ∧
    t.frameAt c.key = s.frameAt c.key ∧
    WritesIn (s.frameAt c.key + 0x5000 + 4096 * c.foot + 2 ^ 14 * c.tiles) (s.frameAt c.key + 2 ^ 22)
      (t.saveSlice c) (s.frameWrites c n) := by
  have h1 := writesIn_saveRegs s c
  have hF1 := frameAt_of_writesIn h1 ha (by omega) (by omega)
  have ha1 := frameApart_of_writesIn ha h1 (by omega) (by omega)
  have h2 := writesIn_saveTables (s.saveRegs c) c
  have hF2 := frameAt_of_writesIn h2 ha1 (by omega) (by omega)
  have ha2 := frameApart_of_writesIn ha1 h2 (by omega) (by omega)
  rw [hF1] at h2 hF2
  refine ⟨_, h2, hF2, ?_⟩
  have h3 := writesIn_slice ((s.saveRegs c).saveTables c) c
  rw [State.frameWrites]
  by_cases hn : n = 0
  · subst hn
    rw [saveSparks_zero]
    exact writesIn_drawn _ _ _ _
  · have hF3 := frameAt_of_writesIn h3 ha2 (by omega) (by omega)
    have h4 := writesIn_saveSparks (((s.saveRegs c).saveTables c).saveSlice c) c n
    rw [hF3, hF2] at h4
    exact h4.mono (by omega) (by omega)

/-- What the registers leave below the tables stands in the frame. -/
theorem frameWrites_readN {a m : Nat} (hlo : s.frameAt c.key ≤ a) (hhi : a + m ≤ s.frameAt c.key + 0x480) :
    (s.frameWrites c n).mem.readN a m = (s.saveRegs c).mem.readN a m := by
  obtain ⟨t, h2, hF, h4⟩ := frameWrites_steps ha hfit
  have h3 := writesIn_slice t c
  rw [hF] at h3
  rw [h4.2.readN (.inl (by omega)), h3.2.readN (.inl (by omega)), h2.2.readN (.inl (by omega))]

/-- A barrier object of a live line stands in the frame's image of the slice. -/
theorem frameWrites_barrier (hwf : s.mem.wf = true) {b : Barrier} (hb : b ∈ c.barriers)
    (hapart : ∀ x ∈ c.barriers, x = b ∨ x.off + 16 ≤ b.off ∨ b.off + 16 ≤ x.off) (h16 : b.off % 16 = 0) (hH : c.inH = false)
    (hlive : c.liveLine (b.off / 128) = true) :
    (s.frameWrites c n).mem.readN (s.frameAt c.key + 0x5000 + b.off) 16 = b.word % 2 ^ 128 := by
  obtain ⟨t, h2, hF, h4⟩ := frameWrites_steps ha hfit
  have hoff := liveLine_lt hH h16 hlive
  have hwf1 : (s.saveRegs c).mem.wf = true := (writesIn_saveRegs s c).2.1 hwf
  obtain ⟨lines, tiles, h⟩ := saveSlice_eq t c
  rw [h4.2.readN (.inl (by omega)), h, hF, (writesIn_putTiles _ c _).2.readN (.inl (by omega))]
  exact saveBarriers_reads _ c ((writesIn_putLines _ c _).2.1 ((writesIn_putLive _ lines tiles t).2.1 (h2.2.1 hwf1)))
    (mem_imageBarriers.2 ⟨hb, hH, hlive⟩) hapart

end

/-- What the frame of a context holds once it is saved. -/
structure FrameOf (m : Mem) (f : Nat) (c : Context) : Prop where
  pc : m.readN (f + 0x440) 8 = c.unitStart.pc.toNat
  regs : ∀ n : Fin 32, m.readN (f + 0x200 + 8 * n.val) 8 = c.unitStart.g[n].bits.toNat
  barriers : ∀ b ∈ c.barriers, (∀ x ∈ c.barriers, x = b ∨ x.off + 16 ≤ b.off ∨ b.off + 16 ≤ x.off) → b.off % 16 = 0 →
    c.inH = false → c.liveLine (b.off / 128) = true → m.readN (f + 0x5000 + b.off) 16 = b.word % 2 ^ 128

theorem frameWrites_frameOf {n : Nat} (hwf : s.mem.wf = true) (ha : FrameApart s c.key)
    (hfit : 0x5000 + 4096 * c.foot + 2 ^ 14 * c.tiles + 16 * n ≤ 2 ^ 22) :
    FrameOf (s.frameWrites c n).mem (s.frameAt c.key) c where
  pc := (frameWrites_readN ha hfit (by omega) (by omega)).trans (saveRegs_pc s c hwf)
  regs n := by
    have := n.isLt
    exact (frameWrites_readN ha hfit (by omega) (by omega)).trans (saveRegs_g s c n hwf)
  barriers b hb hapart h16 hH hlive := frameWrites_barrier ha hfit hwf hb hapart h16 hH hlive

theorem written_frameOf (hwf : s.mem.wf = true) (ha : FrameApart s c.key) (hfit : FrameHolds s c) :
    FrameOf (s.written c).mem (s.frameAt c.key) c := frameWrites_frameOf (s := (s.takeSparks c).1) hwf ha hfit

end
end Sys2Proof.Machine
end

section
/-! PROOFS. Pre-emption and resumption (R354, R357 to R359). -/
namespace Sys2Proof.Machine
open Sys2Proof.Claims

section
variable {s t : State} {k : Key} {c : Context}

/-- A context that a pre-emption has marked. -/
def State.marked (s : State) (c : Context) : Context :=
  { c with
    leaving := true
    preempted := c.preempted || s.launchSuspended c.launch || !c.leaving
    status := match c.status with
      | .running => .ready s.nextSeq
      | .suspended => .ready s.nextSeq
      | st => st }

/-- A crew called out leaves the context that calls it. -/
theorem pullCrew_found (h : s.ctx? k = some c) (c' : Context) (hk : c'.key = k) (pre : Bool) :
    (s.pullCrew c' pre).ctx? k = some c := by
  rw [State.pullCrew]
  split
  · exact h
  · rw [ctx_mapCtxs (fun x => by split <;> rfl), h, Option.map_some, if_neg]
    rw [ctx_key h, hk]
    simp

theorem pullCrew_eq (s : State) (c : Context) (pre : Bool) : ∃ cur ctxs, s.pullCrew c pre = { s with cur := cur, ctxs := ctxs } := by
  rw [State.pullCrew]
  split
  · exact ⟨_, _, rfl⟩
  · exact ⟨_, _, rfl⟩

/-- The context put aside as marked, and its crew called out with it. -/
def State.calledOut (s : State) (c : Context) : State :=
  (({ s with nextSeq := s.nextSeq + 1 } : State).putAside (s.marked c)).pullCrew (s.marked c)
    (c.preempted || s.launchSuspended c.launch || !c.leaving)

theorem halt_eq (s : State) (c : Context) : s.halt c = (s.calledOut c).drainHeld c.core (Held.ofCtx c.key) := rfl

theorem calledOut_eq (s : State) (c : Context) : ∃ cur ctxs busy stalled n,
    s.calledOut c = { s with cur := cur, ctxs := ctxs, busy := busy, stalled := stalled, nextSeq := n } := by
  obtain ⟨cur, ctxs, busy, stalled, hq⟩ := putAside_eq { s with nextSeq := s.nextSeq + 1 } (s.marked c)
  obtain ⟨cur', ctxs', hp⟩ := pullCrew_eq (({ s with nextSeq := s.nextSeq + 1 } : State).putAside (s.marked c)) (s.marked c)
    (c.preempted || s.launchSuspended c.launch || !c.leaving)
  rw [hq] at hp
  exact ⟨_, _, _, _, _, (congrArg (fun u => State.pullCrew u _ _) hq).trans hp⟩

/-- A context halted is there as it is marked, up to what it has seen leave; nothing of memory changes. -/
theorem halt_found (h : s.ctx? k = some c) : ∃ c', (s.halt c).ctx? k = some c' ∧ (s.marked c).Freed c' ∧
    (s.halt c).mem = s.mem ∧ (s.halt c).bar1 = s.bar1 ∧ ∀ n, ((s.halt c).core n).sparks = (s.core n).sparks := by
  have hk : (s.marked c).key = k := (ctx_key h : c.key = k)
  have hput := ctx_putAside { s with nextSeq := s.nextSeq + 1 } (s.marked c)
  rw [hk] at hput
  have hfound : (s.calledOut c).ctx? k = some (s.marked c) := pullCrew_found hput (s.marked c) hk _
  have hfreed := freed_drainHeld (s.calledOut c) c.core (Held.ofCtx c.key)
  obtain ⟨c', hc', hf⟩ := hfreed.found hfound
  obtain ⟨hmem, hbar, -⟩ := hfreed.fields
  obtain ⟨cur, ctxs, busy, stalled, n, hq⟩ := calledOut_eq s c
  have hcores : (s.calledOut c).cores = s.cores := by rw [hq]
  rw [halt_eq]
  refine ⟨c', hc', hf, hmem.trans (by rw [hq]), hbar.trans (by rw [hq]), fun n => ?_⟩
  rw [drainHeld_sparks, core_congr hcores]

/-- `c'` is `c` on its way to its frame. -/
def OnItsWay (c c' : Context) : Prop :=
  c' = { c with leaving := c'.leaving, preempted := c'.preempted, status := c'.status, outs := c'.outs }

theorem onItsWay_of_freed {c' : Context} (h : (s.marked c).Freed c') : OnItsWay c c' ∧ c'.leaving = true ∧
    c'.status = (s.marked c).status := by
  obtain ⟨g, -, -, rfl⟩ := h
  exact ⟨rfl, rfl, rfl⟩

/-- The state in which a pre-empted context is saved. -/
def State.halting (s : State) (c : Context) : State := if c.leaving && c.status != .running then s else s.halt c

/-- A pre-empted context is on its way to its frame, a running one ready, a parked one parked. -/
theorem halting_found (h : s.ctx? k = some c) : ∃ c', (s.halting c).ctx? k = some c' ∧ OnItsWay c c' ∧
    (c.status = .running → ∃ n, c'.status = .ready n) ∧ (∀ w n, c.status = .parked w n → c'.status = c.status) ∧
    (s.halting c).mem = s.mem ∧ (s.halting c).bar1 = s.bar1 ∧
    ∀ n, ((s.halting c).core n).sparks = (s.core n).sparks := by
  rw [State.halting]
  split
  case isTrue hl =>
    refine ⟨c, h, rfl, fun hr => ?_, fun _ _ _ => rfl, rfl, rfl, fun _ => rfl⟩
    rw [hr] at hl
    simp at hl
  case isFalse =>
    obtain ⟨c', hc', hf, hmem, hbar, hsparks⟩ := halt_found h
    obtain ⟨hway, -, hst⟩ := onItsWay_of_freed hf
    refine ⟨c', hc', hway, fun hr => ⟨s.nextSeq, ?_⟩, fun w n hp => ?_, hmem, hbar, hsparks⟩
    · rw [hst, State.marked, hr]
    · rw [hst, State.marked, hp]

theorem preemption_eq (h : s.ctx? k = some c) (hslot : c.slot.isSome = true) (hst : c.status ≠ .stopped)
    (hleave : s.mustLeave c = true) (hunit : c.status = .running → c.unit = none) :
    preemption k s = if c.settled then (s.halting c).saveCtx k else s.halting c := by
  have hcond : (c.slot.isNone || c.status == .stopped || !s.mustLeave c || (c.status == .running && c.unit.isSome)) = false := by
    rw [hleave]
    cases hs : c.slot with
    | none => rw [hs] at hslot; nomatch hslot
    | some _ =>
      by_cases hr : c.status = .running
      · simp [hr, hunit hr]
      · simp [hr, hst]
  rw [preemption, h]
  dsimp only
  rw [hcond, if_neg Bool.false_ne_true]
  rfl

/-- What a frame holds of a context on its way it holds of the context. -/
theorem frameOf_of_onItsWay {m : Mem} {f : Nat} {c' : Context} (h : OnItsWay c c') (hf : FrameOf m f c') : FrameOf m f c := by
  rw [h] at hf
  exact ⟨hf.pc, hf.regs, hf.barriers⟩

theorem inFrame_of_onItsWay {c' d : Context} (h : OnItsWay c c') (hf : InFrame c' d) : InFrame c d :=
  ⟨hf.1, hf.2.1, hf.2.2.trans (by rw [h])⟩

theorem frameHolds_of_onItsWay {c' : Context} (h : OnItsWay c c') (hsparks : ∀ n, (t.core n).sparks = (s.core n).sparks)
    (hfit : FrameHolds s c) : FrameHolds t c' := by
  have hlen : (t.takeSparks c').2 = (s.takeSparks c).2 := by
    rw [h]
    exact congrArg (List.filter _) (hsparks c.core)
  rw [FrameHolds, hlen, h]
  exact hfit

/-- A pre-empted context whose commands are settled is in its frame, which holds it. -/
theorem preemption_saves (h : s.ctx? k = some c) (hslot : c.slot.isSome = true) (hst : c.status ≠ .stopped)
    (hleave : s.mustLeave c = true) (hunit : c.status = .running → c.unit = none) (hset : c.settled = true)
    (hwf : s.mem.wf = true) (ha : FrameApart s k) (hfit : FrameHolds s c) :
    ∃ c', (preemption k s).ctx? k = some c' ∧ InFrame c c' ∧ (c.status = .running → ∃ n, c'.status = .ready n) ∧
      (∀ w n, c.status = .parked w n → c'.status = c.status) ∧ FrameOf (preemption k s).mem (s.frameAt k) c := by
  rw [preemption_eq h hslot hst hleave hunit, if_pos hset]
  obtain ⟨c1, hc1, hway, hrun, hpark, hmem, hbar, hsparks⟩ := halting_found h
  have hslot1 : c1.slot.isSome = true := by rw [hway]; exact hslot
  obtain ⟨c', hc', hf, hmem', -⟩ := saveCtx_found hc1 hslot1
  obtain ⟨hin, hst', -⟩ := hf.inFrame
  have hframe : (s.halting c).frameAt k = s.frameAt k := by
    rw [State.frameAt, State.frameAt, State.svcWord, State.svcWord, State.word, State.word, hmem, hbar]
  have ha1 : FrameApart (s.halting c) c1.key := by
    rw [ctx_key hc1, FrameApart, hframe, hbar]
    exact ha
  have hof := written_frameOf (hmem.symm ▸ hwf) ha1 (frameHolds_of_onItsWay hway hsparks hfit)
  rw [ctx_key hc1, hframe] at hof
  refine ⟨c', hc', inFrame_of_onItsWay hway hin, fun hr => hst' ▸ hrun hr, fun w n hp => hst'.trans (hpark w n hp), ?_⟩
  rw [hmem']
  exact frameOf_of_onItsWay hway hof

/-- A pre-empted context whose commands are not settled is ready, on its way to its frame. -/
theorem preemption_halts (h : s.ctx? k = some c) (hslot : c.slot.isSome = true) (hrun : c.status = .running)
    (hunit : c.unit = none) (hleave : s.mustLeave c = true) (hset : c.settled = false) :
    ∃ c', (preemption k s).ctx? k = some c' ∧ c'.slot = c.slot ∧ c'.leaving = true ∧ c'.status = .ready s.nextSeq ∧
      c'.regs = c.regs ∧ (preemption k s).mem = s.mem := by
  rw [preemption_eq h hslot (by rw [hrun]; decide) hleave (fun _ => hunit), hset, if_neg Bool.false_ne_true,
    State.halting, if_neg (by rw [hrun]; simp)]
  obtain ⟨c', hc', hf, hmem, -⟩ := halt_found h
  obtain ⟨hway, hl, hst⟩ := onItsWay_of_freed hf
  refine ⟨c', hc', by rw [hway], hl, by rw [hst, State.marked, hrun], by rw [hway], hmem⟩

/-- A context inside a unit runs on. -/
theorem preemption_waits (h : s.ctx? k = some c) (hrun : c.status = .running) (hunit : c.unit.isSome = true) :
    preemption k s = s := by
  rw [preemption, h]
  dsimp only
  rw [if_pos (by rw [hrun, hunit]; simp)]

/-! The bound of a running MMA (R359). -/

/-- A command of a context changed. -/
def Context.withCmd (c : Context) (seq : Nat) (f : Cmd → Cmd) : Context :=
  { c with cmds := c.cmds.map (fun m => if m.seq = seq then f m else m) }

theorem cmd_withCmd {seq : Nat} {m : Cmd} (h : c.cmd? seq = some m) {f : Cmd → Cmd} (hf : ∀ x, (f x).seq = x.seq) :
    (c.withCmd seq f).cmd? seq = some (f m) := by
  have hseq := List.find?_some h
  rw [Context.cmd?, Context.withCmd, List.find?_map]
  have hkey : ((fun x : Cmd => x.seq == seq) ∘ fun x => if x.seq = seq then f x else x) = fun x => x.seq == seq := by
    funext x
    rw [Function.comp_apply]
    split
    · rw [hf]
    · rfl
  rw [hkey]
  exact (congrArg (Option.map _) h).trans (congrArg some (if_pos (beq_iff_eq.1 hseq)))

theorem ctxsOnly_modCmd (s : State) (k : Key) (seq : Nat) (f : Cmd → Cmd) : CtxsOnly s (s.modCmd k seq f) := ctxsOnly_modCtx s k _

/-- An MMA stopped after `n` more groups. -/
def Cmd.stoppedAt (n : Nat) (m : Cmd) : Cmd := { m with groups := m.groups + n, state := .accepted }

theorem tileFill_eq (s : State) (c : Context) (t : Nat) (f : Nat → Nat × Bool) : ∃ m, s.tileFill c t f = { s with acc := m } :=
  ⟨_, rfl⟩

theorem runMma_eq (s : State) (c : Context) (view : BitVec 256) (a b : Word) (g0 n : Nat) :
    ∃ m, s.runMma c view a b g0 n = { s with acc := m } := tileFill_eq s c _ _

theorem modCmd_stoppedAt {seq : Nat} {m : Cmd} (h : s.ctx? k = some c) (hm : c.cmd? seq = some m) (n : Nat) :
    (s.modCmd k seq (Cmd.stoppedAt n)).ctx? k = some (c.withCmd seq (Cmd.stoppedAt n)) ∧
    (c.withCmd seq (Cmd.stoppedAt n)).cmd? seq = some (m.stoppedAt n) ∧ (s.modCmd k seq (Cmd.stoppedAt n)).acc = s.acc ∧
    (s.modCmd k seq (Cmd.stoppedAt n)).mem = s.mem ∧ (s.modCmd k seq (Cmd.stoppedAt n)).scratch = s.scratch := by
  have honly := ctxsOnly_modCmd s k seq (Cmd.stoppedAt n)
  refine ⟨ctx_modCtx h rfl, cmd_withCmd hm fun _ => rfl, ?_⟩
  rw [honly]
  exact ⟨rfl, rfl, rfl⟩

/-- An MMA that cannot complete in time stops at a group boundary. -/
theorem mmaPreemptBound_stops {seq : Nat} {m : Cmd} {view : BitVec 256} {a b : Word} (h : s.ctx? k = some c)
    (hm : c.cmd? seq = some m) (hkind : m.kind = .mma view a b) (hst : c.status = .stopped ∨ c.leaving = true)
    (hstart : m.state = .started) (hlt : groupsBound b < wbits a 32 16 - m.groups) :
    ∃ (c' : Context) (n : Nat), (mmaPreemptBound k seq s).ctx? k = some c' ∧
        groupsBound b ≤ n ∧ m.groups + n < wbits a 32 16 ∧
        c'.cmd? seq = some { m with groups := m.groups + n, state := .accepted } ∧
        (mmaPreemptBound k seq s).acc = (s.runMma c view a b m.groups n).acc ∧ (mmaPreemptBound k seq s).mem = s.mem ∧
        (mmaPreemptBound k seq s).scratch = s.scratch ∧ c'.regs = c.regs := by
  have hcond : ((c.status == .stopped || c.leaving) && m.state == .started &&
      decide (groupsBound b < wbits a 32 16 - m.groups)) = true := by
    rw [hstart, decide_eq_true hlt]
    rcases hst with hst | hst <;> simp [hst]
  rw [mmaPreemptBound, h]
  dsimp only
  rw [hm]
  dsimp only
  rw [hkind]
  dsimp only
  rw [if_pos hcond]
  have hmod := Nat.mod_lt (Config.groupsRun s.free) (by omega : 0 < wbits a 32 16 - m.groups - groupsBound b)
  generalize hn : groupsBound b + Config.groupsRun s.free % (wbits a 32 16 - m.groups - groupsBound b) = n
  obtain ⟨acc, hrun⟩ := runMma_eq s c view a b m.groups n
  have hfound : (s.runMma c view a b m.groups n).ctx? k = some c := by
    rw [hrun]
    exact h
  obtain ⟨hmod, hcmd, hacc, hmem, hscratch⟩ := modCmd_stoppedAt hfound hm n
  exact ⟨_, n, hmod, by omega, by omega, hcmd.trans (by rw [Cmd.stoppedAt, hkind]), hacc, hmem.trans (by rw [hrun]),
    hscratch.trans (by rw [hrun]), rfl⟩

/-- One that can runs on. -/
theorem mmaPreemptBound_waits {seq : Nat} {m : Cmd} {view : BitVec 256} {a b : Word} (h : s.ctx? k = some c)
    (hm : c.cmd? seq = some m) (hkind : m.kind = .mma view a b) (hle : wbits a 32 16 - m.groups ≤ groupsBound b) :
    mmaPreemptBound k seq s = s := by
  rw [mmaPreemptBound, h]
  dsimp only
  rw [hm]
  dsimp only
  rw [hkind]
  dsimp only
  rw [decide_eq_false (Nat.not_lt.2 hle), Bool.and_false, if_neg Bool.false_ne_true]

/-! Resumption (R354). -/

/-- A context ready at its unit, or after its trap. -/
def Context.resumedAt (c : Context) (after : Bool) (seq : Nat) : Context :=
  { c with status := .ready seq, stop := none, regs := { c.regs with pc := if after then c.nextPc else c.unitPc } }

theorem resumeCtx_found {after : Bool} (h : s.ctx? k = some c) (hst : c.status = .stopped) : resumeCtx k after s =
    { s.setCtx (c.resumedAt after s.nextSeq) with nextSeq := s.nextSeq + 1 } := by
  rw [resumeCtx, h]
  dsimp only
  rw [if_pos (by rw [hst]; rfl)]
  rfl

theorem ctx_resumedAt {after : Bool} (h : s.ctx? k = some c) (n : Nat) :
    (s.setCtx (c.resumedAt after n)).ctx? k = some (c.resumedAt after n) := by
  have hk : (c.resumedAt after n).key = k := (ctx_key h : c.key = k)
  have hset := State.ctx_setCtx s (c.resumedAt after n)
  rwa [hk] at hset

/-- A resume record readies its stopped context. -/
theorem resumeRecord_readies {after : Bool} (hr : s.resumes.find? (fun r => r.1 == k) = some (k, after))
    (h : s.ctx? k = some c) (hst : c.status = .stopped) (hstop : c.stop = none) :
    (resumeRecord k s).ctx? k = some (c.resumedAt after s.nextSeq) ∧
    (resumeRecord k s).resumes = dropResume k s.resumes := by
  have h1 : ({ s with resumes := dropResume k s.resumes } : State).ctx? k = some c := h
  have hfound := ctx_resumedAt (after := after) h1 s.nextSeq
  have honly := ctxsOnly_setCtx { s with resumes := dropResume k s.resumes } (c.resumedAt after s.nextSeq)
  rw [resumeRecord, hr]
  dsimp only
  rw [h1]
  dsimp only
  rw [if_neg (by rw [hstop]; exact Bool.false_ne_true), resumeCtx_found h1 hst]
  dsimp only
  split
  · exact ⟨hfound, by rw [State.putFrame]; dsimp only; rw [honly]⟩
  · exact ⟨hfound, by dsimp only; rw [honly]⟩

theorem resumeRecord_waits {after : Bool} (hr : s.resumes.find? (fun r => r.1 == k) = some (k, after))
    (h : s.ctx? k = some c) (hstop : c.stop.isSome = true) : resumeRecord k s = s := by
  rw [resumeRecord, hr]
  dsimp only
  rw [show ({ s with resumes := dropResume k s.resumes } : State).ctx? k = some c from h]
  exact if_pos hstop

theorem resumeRecord_drops {after : Bool} (hr : s.resumes.find? (fun r => r.1 == k) = some (k, after))
    (h : s.ctx? k = none) : resumeRecord k s = { s with resumes := dropResume k s.resumes } := by
  rw [resumeRecord, hr]
  dsimp only
  rw [show ({ s with resumes := dropResume k s.resumes } : State).ctx? k = none from h]

end

/-- Settles O35: a context that must leave is halted and its frame written part by part, each part where the others do not
write; a running MMA keeps the groups it has done; a resume record sets the PC. -/
theorem contextsLeaveAndResume : Obligations.ContextsLeaveAndResume := by
  refine ⟨?_, ?_, ?_, ?_, ?_, ?_, ?_, fun _ _ => rfl⟩
  · intro k s c h hslot hst hleave hunit hset hwf ha hfit
    obtain ⟨c', hc', hin, hrun, hpark, hof⟩ := preemption_saves h hslot hst hleave hunit hset hwf ha hfit
    exact ⟨_, c', rfl, hc', hin, hrun, hpark, hof.pc, hof.regs, hof.barriers⟩
  · exact fun k s c h hrun hunit => congrArg _ (preemption_waits h hrun hunit)
  · intro k s c h hslot hrun hunit hleave hset
    obtain ⟨c', hc'⟩ := preemption_halts h hslot hrun hunit hleave hset
    exact ⟨_, c', rfl, hc'⟩
  · intro k seq s c m view a b h hm hkind hst hstart
    refine ⟨fun hlt => ?_, fun hle => congrArg _ (mmaPreemptBound_waits h hm hkind hle)⟩
    obtain ⟨c', n, hc'⟩ := mmaPreemptBound_stops h hm hkind hst hstart hlt
    exact ⟨_, c', n, rfl, hc'⟩
  · intro k after s c hr h hst hstop
    obtain ⟨hc', hres⟩ := resumeRecord_readies hr h hst hstop
    exact ⟨_, _, rfl, hc', rfl, rfl, rfl, hres⟩
  · exact fun k after s c hr h hstop => congrArg _ (resumeRecord_waits hr h hstop)
  · exact fun k after s hr h => congrArg _ (resumeRecord_drops hr h)

end Sys2Proof.Machine
end

section
/-! PROOFS. What the homes change, each operation in one step (R60 to R79, R101): memory and its metadata in canonical form,
watches, messages and counters, and no context, core or record. -/
namespace Sys2Proof.Machine
open Sys2Proof.Claims

/-- Memory and metadata that are in canonical form still are. -/
def KeepsForm (s t : State) : Prop := (s.mem.wf = true → t.mem.wf = true) ∧ (s.md.wf = true → t.md.wf = true)

theorem keepsForm_chain : Chain KeepsForm := ⟨fun _ => ⟨id, id⟩, fun h h' => ⟨h'.1 ∘ h.1, h'.2 ∘ h.2⟩⟩

theorem keepsForm_of_eq {s t : State} (hmem : t.mem = s.mem) (hmd : t.md = s.md) : KeepsForm s t := by
  rw [KeepsForm, hmem, hmd]
  exact ⟨id, id⟩

/-- Only what homes hold differs. -/
def HomeShape (s t : State) : Prop :=
  t = { s with mem := t.mem, md := t.md, watches := t.watches, msgs := t.msgs, nextMsg := t.nextMsg, forwards := t.forwards
               poisonLog := t.poisonLog, bar1 := t.bar1, vectors := t.vectors, counters := t.counters }

/-- What a home does: it changes what homes hold alone, and keeps canonical forms. -/
def HomeOnly (s t : State) : Prop := HomeShape s t ∧ KeepsForm s t

theorem homeOnly_chain : Chain HomeOnly :=
  ⟨fun s => ⟨rfl, keepsForm_chain.refl s⟩, fun h h' => ⟨h'.1.trans (by rw [h.1]), keepsForm_chain.trans h.2 h'.2⟩⟩

theorem HomeOnly.trans {s t u : State} (h : HomeOnly s t) (h' : HomeOnly t u) : HomeOnly s u := homeOnly_chain.trans h h'

section
variable {s t : State}

theorem homeOnly_refl (s : State) : HomeOnly s s := homeOnly_chain.refl s

theorem homeOnly_of_eq (h : HomeShape s t) (hmem : t.mem = s.mem) (hmd : t.md = s.md) : HomeOnly s t :=
  ⟨h, keepsForm_of_eq hmem hmd⟩

theorem homeOnly_mem (s : State) {m : Mem} (h : s.mem.wf = true → m.wf = true) : HomeOnly s { s with mem := m } := ⟨rfl, h, id⟩

theorem homeOnly_md (s : State) (line : Nat) (b : Byte) : HomeOnly s { s with md := s.md.write line b } :=
  ⟨rfl, id, Memory.write_wf⟩

theorem homeOnly_both (s : State) {m : Mem} (line : Nat) (b : Byte) (h : s.mem.wf = true → m.wf = true) :
    HomeOnly s { s with mem := m, md := s.md.write line b } := ⟨rfl, h, Memory.write_wf⟩

theorem homeOnly_send (s : State) (m : Msg) : HomeOnly s (s.send m) := homeOnly_of_eq rfl rfl rfl

theorem homeOnly_respond (s : State) (src : Node) (loc : Loc) (w : Who) (asid : BitVec 12) (va : Word) (gen : BitVec 8)
    (b : Body) (snap : Option LineSnap) (key : Nat) : HomeOnly s (s.respond src loc w asid va gen b snap key) := by
  rw [State.respond]
  split
  · exact homeOnly_refl s
  · exact homeOnly_send s _

theorem homeOnly_raiseVector (s : State) (n : Nat) : HomeOnly s (s.raiseVector n) := homeOnly_of_eq rfl rfl rfl

theorem homeOnly_hostLog (s : State) (rule a b : Nat) : HomeOnly s (s.hostLog rule a b) := by
  rw [State.hostLog]
  split
  · exact homeOnly_refl s
  · exact ⟨rfl, (Mem.within_writeN _ _ _ _).1, id⟩

theorem homeOnly_spoilReplies (s : State) (line : Nat) : HomeOnly s (s.spoilReplies line) := homeOnly_of_eq rfl rfl rfl

theorem homeOnly_setCounter (s : State) (unit n : Nat) : HomeOnly s (s.setCounter unit n) := homeOnly_of_eq rfl rfl rfl

theorem homeOnly_notify (s : State) (unit : Nat) (va : Word) (asid : BitVec 12) : HomeOnly s (s.notify unit va asid) := by
  rw [State.notify]
  dsimp only
  split
  · exact homeOnly_refl s
  · split
    · exact homeOnly_mem s (Mem.within_writeN _ _ _ _).1
    · refine ⟨rfl, fun h => ?_, id⟩
      exact (Mem.within_writeN _ _ _ _).1 ((Mem.within_writeN _ _ _ _).1 h)

theorem homeOnly_countAt (s : State) (cnt : Bool) (key : Nat) (va : Word) (asid : BitVec 12) :
    HomeOnly s (s.countAt cnt key va asid) := by
  rw [State.countAt]
  split
  · dsimp only
    split
    · split
      · exact (homeOnly_setCounter s _ _).trans (homeOnly_notify _ _ _ _)
      · exact homeOnly_setCounter s _ _
    · exact homeOnly_refl s
  · exact homeOnly_refl s

theorem homeOnly_markWatched (s : State) (line : Nat) : HomeOnly s (s.markWatched line) := homeOnly_md s line _

theorem homeOnly_foldl {α : Type} {f : State → α → State} (h : ∀ s x, HomeOnly s (f s x)) (l : List α) (s : State) :
    HomeOnly s (l.foldl f s) := homeOnly_chain.foldl h l s

theorem homeOnly_retestOne (s : State) (w : Watch) : HomeOnly s (s.retestOne w) := by
  rw [State.retestOne]
  split
  · exact homeOnly_refl s
  · exact (homeOnly_of_eq (t := { s with watches := s.watches.filter (fun x => !(x == w)) }) rfl rfl rfl).trans
      (homeOnly_respond _ _ _ _ _ _ _ _ _ _)

theorem homeOnly_retest (s : State) (line : Nat) : HomeOnly s (s.retest line) := by
  rw [State.retest]
  split
  · exact homeOnly_refl s
  · exact (homeOnly_foldl homeOnly_retestOne _ s).trans (homeOnly_markWatched _ _)

theorem homeOnly_endForward (s : State) (line : Nat) : HomeOnly s (s.endForward line) := by
  rw [State.endForward]
  split
  · exact homeOnly_refl s
  · exact homeOnly_of_eq rfl rfl rfl

theorem homeOnly_poisonLine (s : State) (line : Nat) : HomeOnly s (s.poisonLine line) :=
  ((homeOnly_spoilReplies s line).trans (u := { s.spoilReplies line with
      md := (s.spoilReplies line).md.write line (mdOf (mdWatched (s.md.read line)) (mdWidth (s.md.read line)) true
        (mdState (s.md.read line)))
      poisonLog := (s.spoilReplies line).poisonLog ++ [line] }) ⟨rfl, id, Memory.write_wf⟩).trans (homeOnly_hostLog _ _ _ _)

theorem Mem.wf_clear {m : Mem} (a n : Nat) (h : m.wf = true) : (m.clear a n).wf = true :=
  Mem.wf_iff.2 ⟨Memory.clear_wf (Mem.wf_iff.1 h).1, Memory.clear_wf (Mem.wf_iff.1 h).2⟩

theorem Mem.wf_mk {c m : Memory} (hc : c.wf = true) (hm : m.wf = true) : ({ cells := c, marks := m } : Mem).wf = true :=
  Mem.wf_iff.2 ⟨hc, hm⟩

theorem lineBottom_wf {s : State} (line ty w : Nat) (h : s.mem.wf = true) : (s.lineBottom line ty w).mem.wf = true :=
  Mem.wf_mk (Memory.writeN_wf 128 (128 * line) _ (Mem.wf_iff.1 h).1) (Memory.clear_wf (Mem.wf_iff.1 h).2)

theorem lineBottom_eq (s : State) (line ty w : Nat) : s.lineBottom line ty w = { s with mem := (s.lineBottom line ty w).mem } := rfl

/-- A line set to bottom, its metadata written. -/
theorem homeOnly_bottom (s : State) (line ty w : Nat) (b : Byte) :
    HomeOnly s { s.lineBottom line ty w with md := s.md.write line b } := by
  rw [lineBottom_eq]
  exact homeOnly_both s line b (lineBottom_wf line ty w)

/-- The line of a join, of the join's width. -/
def State.widened (s : State) (j : JoinReq) : State :=
  if mdWidth (s.md.read (j.cell / 128)) = 0 then
    { (s.endForward (j.cell / 128)).lineBottom (j.cell / 128) j.ty j.width with
      md := (s.endForward (j.cell / 128)).md.write (j.cell / 128) (mdOf (mdWatched (s.md.read (j.cell / 128))) (widthCode j.width)
        (mdPoison (s.md.read (j.cell / 128))) (mdState (s.md.read (j.cell / 128)))) }
  else s.endForward (j.cell / 128)

/-- What a join makes of the old contents of its cell. -/
def JoinReq.result (j : JoinReq) (old : Nat) : Nat :=
  if j.ty = 10 then fxCell (signed 96 old + j.val) (old / 2 ^ 96 + j.count) else cellJoin j.ty j.width old j.val.toNat

/-- The cell of a join with the join's result. -/
def State.joinCell (s : State) (j : JoinReq) : State :=
  { s with mem := { s.mem with cells := s.mem.cells.writeN j.cell (j.width / 8) (j.result (s.mem.readN j.cell (j.width / 8))) } }

theorem joinAt_eq (s : State) (j : JoinReq) : s.joinAt j =
    if mdState (s.md.read (j.cell / 128)) = 2 then (s, some .writeAfterFreeze)
    else if mdWidth (s.md.read (j.cell / 128)) ≠ 0 && mdWidth (s.md.read (j.cell / 128)) ≠ widthCode j.width then
      (s, some .widthMismatch)
    else ((if j.mark then ((s.widened j).joinCell j).poisonLine (j.cell / 128) else (s.widened j).joinCell j).retest
      (j.cell / 128), none) := rfl

theorem homeOnly_widened (s : State) (j : JoinReq) : HomeOnly s (s.widened j) := by
  rw [State.widened]
  split
  · exact (homeOnly_endForward s _).trans (homeOnly_bottom _ _ _ _ _)
  · exact homeOnly_endForward s _

theorem homeOnly_joinCell (s : State) (j : JoinReq) : HomeOnly s (s.joinCell j) :=
  homeOnly_mem s fun h => Mem.wf_iff.2 ⟨Memory.writeN_wf _ _ _ (Mem.wf_iff.1 h).1, (Mem.wf_iff.1 h).2⟩

theorem homeOnly_joinAt (s : State) (j : JoinReq) : HomeOnly s (s.joinAt j).1 := by
  rw [joinAt_eq]
  split
  · exact homeOnly_refl s
  split
  · exact homeOnly_refl s
  have h := (homeOnly_widened s j).trans (homeOnly_joinCell _ j)
  refine HomeOnly.trans ?_ (homeOnly_retest _ _)
  split
  · exact h.trans (homeOnly_poisonLine _ _)
  · exact h

theorem homeOnly_fillAt (s : State) (line : Nat) (data : BitVec 1024) (mark : Bool) : HomeOnly s (s.fillAt line data mark).1 := by
  have hpoison (u : State) : HomeOnly u ((u.poisonLine line).retest line) := (homeOnly_poisonLine u line).trans (homeOnly_retest _ _)
  rw [State.fillAt]
  dsimp only
  split
  · exact homeOnly_refl s
  split
  · split
    · dsimp only
      split
      · exact hpoison s
      · exact homeOnly_refl s
    · exact hpoison s
  · refine (homeOnly_endForward s line).trans (HomeOnly.trans (t := { s.endForward line with
        mem := (s.endForward line).mem.writeN (128 * line) 128 data.toNat false
        md := (s.endForward line).md.write line (mdOf (mdWatched (s.md.read line)) 1 (mdPoison (s.md.read line)) 1) })
        (homeOnly_both _ _ _ (Mem.within_writeN _ _ _ _).1) ?_)
    split
    · exact hpoison _
    · exact homeOnly_retest _ _

theorem homeOnly_freezeAt (s : State) (line ty : Nat) : HomeOnly s (s.freezeAt line ty) := by
  rw [State.freezeAt]
  dsimp only
  split
  · exact homeOnly_endForward s line
  refine (homeOnly_endForward s line).trans (HomeOnly.trans ?_ (homeOnly_retest _ _))
  split
  · refine homeOnly_both _ _ _ fun h => ?_
    split
    · exact Mem.wf_clear _ _ h
    · exact h
  split
  · exact homeOnly_bottom _ _ _ _ _
  · exact homeOnly_md _ _ _

end
end Sys2Proof.Machine
end

section
/-! PROOFS. Faults taken, their records and the fault queues (R97, R351 to R353, R369, R395). -/
namespace Sys2Proof.Machine
open Sys2Proof.Claims

section
variable {s t : State} {f : FaultInfo} {pc : CodeAddr} {k : Key}

/-! A fault taken (R351, steps 1 to 3). -/

theorem code_num_lt (c : FaultCode) : c.num < 256 := by cases c <;> decide

/-- FAULTCODE holds the code and the sub-code in its low bytes. -/
theorem word_code (f : FaultInfo) : wbits f.word 0 8 = f.code.num ∧ wbits f.word 8 8 = f.sub.toNat := by
  have hc := code_num_lt f.code
  have hs := f.sub.isLt
  rw [wbits, wbits, bitsOf, bitsOf, FaultInfo.word, BitVec.toNat_ofNat]
  omega

theorem putBack_eq (s : State) (taken : List (Nat × Vec)) : ∃ cs, s.putBack taken = { s with chans := cs } := by
  induction taken with
  | nil => exact ⟨_, rfl⟩
  | cons x l ih =>
    obtain ⟨cs, h⟩ := ih
    rw [State.putBack, List.foldr_cons, ← State.putBack, h]
    split
    · exact ⟨_, rfl⟩
    · exact ⟨_, rfl⟩

/-- A record with one more context listed. -/
def FaultRec.listing (k : Key) (r : FaultRec) : FaultRec := { r with attached := r.attached ++ [k] }

/-- What opening or joining a record leaves: memory and the records alone differ. -/
def RecordsOnly (s t : State) : Prop := t = { s with mem := t.mem, records := t.records, nextSeq := t.nextSeq }

theorem recordsOnly_chain : Chain RecordsOnly := ⟨fun _ => rfl, fun h h' => h'.trans (by rw [h])⟩

theorem rewriteRecord_eq (s : State) (id : Nat) : ∃ m, s.rewriteRecord id = { s with mem := m } := by
  rw [State.rewriteRecord]
  split
  · exact ⟨_, rfl⟩
  · split
    · exact ⟨_, rfl⟩
    · exact ⟨_, rfl⟩

theorem recordsOnly_modRecord (s : State) (id : Nat) (g : FaultRec → FaultRec) : RecordsOnly s (s.modRecord id g) := by
  obtain ⟨m, h⟩ := rewriteRecord_eq { s with records := s.records.map (fun r => if r.id = id then g r else r) } id
  rw [State.modRecord, h]
  rfl

theorem recordsOnly_postRecord (s : State) (r : FaultRec) : RecordsOnly s (s.postRecord r) := rfl

theorem recordsOnly_attach (s : State) (r : FaultRec) (k : Key) : RecordsOnly s (s.attach r k) := by
  rw [State.attach]
  dsimp only
  split
  · exact recordsOnly_modRecord s _ _
  · refine recordsOnly_chain.trans (recordsOnly_modRecord s r.id (FaultRec.listing k)) ?_
    split
    · exact recordsOnly_modRecord _ _ _
    · exact recordsOnly_postRecord _ _

theorem recordsOnly_openRecord (s : State) (k : Key) (pc : CodeAddr) (f : FaultInfo) : RecordsOnly s (s.openRecord k pc f).1 := by
  rw [State.openRecord]
  split
  · exact recordsOnly_attach s _ _
  · exact recordsOnly_postRecord s _

/-- The number of a fault's record. -/
theorem openRecord_id (s : State) (k : Key) (pc : CodeAddr) (f : FaultInfo) :
    (s.openRecord k pc f).2 = ((s.attachTo k.asid f).map FaultRec.id).getD s.nextSeq := by
  rw [State.openRecord]
  cases s.attachTo k.asid f <;> rfl

/-- A context at the boundary of its unit, with the fault it has met. -/
def Context.faulted (c : Context) (pc : CodeAddr) (f : FaultInfo) (record : Nat) : Context :=
  { c with
    regs := c.unitStart, unit := none, status := .stopped, faultCode := f.word, faultAddr := f.addr
    faultPc := pc.setWidth 64, asked := false, reply := none, lines := [], spoilt := [], dropL1 := none, lostReply := none
    phase := 0, operands := none, voperand := none, ahead := [], items := [], unitPc := c.unitStart.pc
    stop := some { kind := 0, info := f, pc := pc, record := record } }

/-- The items that go back when the unit of a context faults. -/
def Context.taken (c : Context) : List (Nat × Vec) :=
  (match c.unit with
    | some u => u.taken
    | none => []) ++ c.items

theorem takeFaultAt_eq (pc : CodeAddr) (f : FaultInfo) (s : State) : takeFaultAt pc f s =
    if s.recordsFull s.cur.key f then { s with stalled := true }
    else (((s.openRecord s.cur.key pc f).1.putBack s.cur.taken).leave
      (s.cur.faulted pc f (s.openRecord s.cur.key pc f).2)).drainHeld s.cur.core (Held.ofCtx s.cur.key) := rfl

/-- A fault taken stops its context, frees the core and changes memory and the records as its record does. -/
theorem takeFaultAt_stops (h : s.recordsFull s.cur.key f = false) :
    (takeFaultAt pc f s).busy = false ∧ (takeFaultAt pc f s).md = s.md ∧ (takeFaultAt pc f s).scratch = s.scratch ∧
    (takeFaultAt pc f s).acc = s.acc ∧ (takeFaultAt pc f s).mem = (s.openRecord s.cur.key pc f).1.mem ∧
    (takeFaultAt pc f s).records = (s.openRecord s.cur.key pc f).1.records ∧
    ∃ c, (takeFaultAt pc f s).ctx? s.cur.key = some c ∧ (s.cur.faulted pc f (s.openRecord s.cur.key pc f).2).Freed c := by
  rw [takeFaultAt_eq, h, if_neg Bool.false_ne_true]
  have hopen := recordsOnly_openRecord s s.cur.key pc f
  obtain ⟨cs, hput⟩ := putBack_eq (s.openRecord s.cur.key pc f).1 s.cur.taken
  have hfound : (((s.openRecord s.cur.key pc f).1.putBack s.cur.taken).leave
      (s.cur.faulted pc f (s.openRecord s.cur.key pc f).2)).ctx? s.cur.key =
      some (s.cur.faulted pc f (s.openRecord s.cur.key pc f).2) :=
    putCtx_find (s.cur.faulted pc f (s.openRecord s.cur.key pc f).2) _
  have hfreed := freed_drainHeld (((s.openRecord s.cur.key pc f).1.putBack s.cur.taken).leave
      (s.cur.faulted pc f (s.openRecord s.cur.key pc f).2)) s.cur.core (Held.ofCtx s.cur.key)
  obtain ⟨c, hc, hf⟩ := hfreed.found hfound
  obtain ⟨hmem, -, hrec, -, hscratch, hacc, hmd, hbusy, -⟩ := hfreed.fields
  refine ⟨hbusy, hmd.trans ?_, hscratch.trans ?_, hacc.trans ?_, hmem.trans ?_, hrec.trans ?_, c, hc, hf⟩
  all_goals
    rw [State.leave, hput]
  all_goals
    dsimp only
  all_goals
    rw [hopen]

theorem takeFaultAt_waits (h : s.recordsFull s.cur.key f = true) : takeFaultAt pc f s = { s with stalled := true } := by
  rw [takeFaultAt_eq, h, if_pos rfl]

/-- A fault that joins no record opens its own. -/
theorem openRecord_opens (h : s.attachTo k.asid f = none) : (s.openRecord k pc f).1 =
    s.postRecord { id := 0, asid := k.asid, ctxid := k.ctxid, kind := 0, info := f, pc := pc, attached := [k], posted := false } := by
  rw [State.openRecord, h]

theorem Mem.putRecord_other (m : Mem) (pa : Nat) (r : FaultRec) (n a : Nat) (h : a < pa ∨ pa + 64 ≤ a) :
    (m.putRecord pa r n).cells.read a = m.cells.read a := (Mem.within_writeMarks pa 64 _ _).2 a h

theorem find_map_id {l : List FaultRec} {g : FaultRec → FaultRec} (hg : ∀ r, (g r).id = r.id) (id : Nat) :
    (l.map (fun r => if r.id = id then g r else r)).find? (fun r => r.id == id) = (l.find? (fun r => r.id == id)).map g := by
  induction l with
  | nil => rfl
  | cons x l ih =>
    rw [List.map_cons, List.find?_cons, List.find?_cons]
    by_cases hx : x.id = id
    · rw [if_pos hx, hg, hx, beq_self_eq_true]
      rfl
    · rw [if_neg hx, beq_eq_false_iff_ne.2 hx]
      exact ih

/-- A record changed is changed where it stands in memory alone. -/
theorem modRecord_mem {id : Nat} {g : FaultRec → FaultRec} (hid : ∀ r, (g r).id = r.id) (hat : ∀ r, (g r).at_ = r.at_)
    {a : Nat} (ha : ∀ r ∈ s.records, r.id = id → ∀ pa, r.at_ = some pa → a < pa ∨ pa + 64 ≤ a) :
    (s.modRecord id g).mem.cells.read a = s.mem.cells.read a := by
  rw [State.modRecord, State.rewriteRecord]
  dsimp only
  rw [find_map_id hid]
  cases hfind : s.records.find? (fun r => r.id == id) with
  | none => rfl
  | some r =>
    rw [Option.map_some]
    dsimp only
    rw [hat]
    cases hpa : r.at_ with
    | none => rfl
    | some pa =>
      have hrid := List.find?_some hfind
      exact Mem.putRecord_other _ _ _ _ _ (ha r (List.mem_of_find?_eq_some hfind) (beq_iff_eq.1 hrid) pa hpa)

theorem modRecord_records (s : State) (id : Nat) (g : FaultRec → FaultRec) :
    (s.modRecord id g).records = s.records.map (fun r => if r.id = id then g r else r) := by
  obtain ⟨m, h⟩ := rewriteRecord_eq { s with records := s.records.map (fun r => if r.id = id then g r else r) } id
  rw [State.modRecord, h]

/-- A fault that joins an outstanding record is listed in it. -/
theorem openRecord_joins {r : FaultRec} (h : s.attachTo k.asid f = some r) (hone : ∀ y ∈ s.records, y.id = r.id → y = r)
    (hlen : r.attached.length < 16) : (s.openRecord k pc f).1.records =
      s.records.map (fun y => if y.id = r.id then { y with attached := y.attached ++ [k] } else y) ∧
    ∀ a, (∀ pa, r.at_ = some pa → a < pa ∨ pa + 64 ≤ a) → (s.openRecord k pc f).1.mem.cells.read a = s.mem.cells.read a := by
  have heq : (s.openRecord k pc f).1 = s.modRecord r.id (FaultRec.listing k) := by
    rw [State.openRecord, h]
    exact if_pos (by omega)
  rw [heq]
  refine ⟨modRecord_records s _ _, fun a ha => modRecord_mem (g := FaultRec.listing k) (fun _ => rfl) (fun _ => rfl) fun y hy hid pa hpa => ?_⟩
  rw [hone y hy hid] at hpa
  exact ha pa hpa

/-! The stop of a context (R351, steps 4 to 6). -/

theorem faultStop_eq {c : Context} {x : StopRec} (h : s.ctx? k = some c) (hst : c.status = .stopped) (hstop : c.stop = some x)
    (hset : c.settled = true) : faultStop k s =
      ((s.modCtx k (fun c => { c with stop := none })).recordStop c x).saveCtx k := by
  rw [faultStop, h]
  dsimp only
  rw [hstop]
  dsimp only
  rw [hst, hset, if_pos (by rfl)]

theorem postFault_eq (s : State) (id : Nat) : ∃ rs, s.postFault id = { s with records := rs } := by
  rw [State.postFault]
  dsimp only
  split <;> exact ⟨_, rfl⟩

theorem recordStop_eq (s : State) (c : Context) (x : StopRec) : ∃ rs n, s.recordStop c x = { s with records := rs, nextSeq := n } := by
  rw [State.recordStop]
  split
  · obtain ⟨rs, h⟩ := postFault_eq s x.record
    exact ⟨rs, s.nextSeq, h⟩
  · exact ⟨_, _, rfl⟩

/-- A stopped context is in its frame, and its record posted. -/
theorem faultStop_saves {c : Context} {x : StopRec} (h : s.ctx? k = some c) (hst : c.status = .stopped)
    (hstop : c.stop = some x) (hset : c.settled = true) (hslot : c.slot.isSome = true) :
    ∃ c', (faultStop k s).ctx? k = some c' ∧ InFrame c c' ∧ c'.status = .stopped ∧ c'.stop = none ∧
      (faultStop k s).records = ((s.modCtx k (fun c => { c with stop := none })).recordStop c x).records := by
  rw [faultStop_eq h hst hstop hset]
  have hmod := ctx_modCtx h (f := fun c => { c with stop := none }) rfl
  obtain ⟨rs, n, hrec⟩ := recordStop_eq (s.modCtx k (fun c => { c with stop := none })) c x
  have hfound : ((s.modCtx k (fun c => { c with stop := none })).recordStop c x).ctx? k = some { c with stop := none } := by
    rw [hrec]
    exact hmod
  obtain ⟨c', hc', hf, -, hrecords⟩ := saveCtx_found hfound hslot
  obtain ⟨hin, hst', hstop'⟩ := hf.inFrame
  exact ⟨c', hc', hin, hst'.trans hst, hstop', hrecords⟩

/-- The service record of a context that stops for a trap or a breakpoint. -/
def Context.stopRecord (c : Context) (x : StopRec) (id : Nat) : FaultRec :=
  { id := id, asid := c.key.asid, ctxid := c.key.ctxid, kind := x.kind, info := x.info, pc := x.pc, arg := x.arg
    attached := [c.key] }

/-- The records that a posting moves behind the others. -/
def FaultRec.postsWith (id : Nat) (r : FaultRec) : Bool := r.id == id || r.lead.any (fun l => l.1 == id)

theorem postFault_posted {id : Nat} (h : ∀ y ∈ s.records, y.id = id → y.posted = true) : s.postFault id = s := by
  have : s.records.any (fun r => r.id == id && !r.posted) = false := by
    rw [List.any_eq_false]
    intro r hr hp
    obtain ⟨hid, hp⟩ := Bool.and_eq_true_iff.1 hp
    rw [h r hr (beq_iff_eq.1 hid)] at hp
    nomatch hp
  rw [State.postFault, this]
  rfl

theorem postFault_records {id : Nat} {y : FaultRec} (hy : y ∈ s.records) (hid : y.id = id) (hp : y.posted = false) :
    (s.postFault id).records = s.records.filter (fun r : FaultRec => !r.postsWith id) ++
      (s.records.filter (FaultRec.postsWith id)).map (fun r => { r with posted := true }) := by
  have : s.records.any (fun r => r.id == id && !r.posted) = true :=
    List.any_eq_true.2 ⟨y, hy, by rw [hid, hp, beq_self_eq_true]; rfl⟩
  rw [State.postFault, this]
  rfl

/-- The record posted is the one there was, posted. -/
theorem find_posted (l : List FaultRec) (id : Nat) :
    (l.filter (fun r : FaultRec => !r.postsWith id) ++
      (l.filter (FaultRec.postsWith id)).map (fun r : FaultRec => { r with posted := true })).find? (fun z => z.id == id) = (l.find? (fun z => z.id == id)).map (fun z => { z with posted := true }) := by
  have hnone : (l.filter (fun r : FaultRec => !r.postsWith id)).find? (fun z => z.id == id) = none := by
    refine List.find?_eq_none.2 fun z hz hid => ?_
    have := (List.mem_filter.1 hz).2
    rw [FaultRec.postsWith, hid] at this
    nomatch this
  rw [List.find?_append, hnone, Option.none_or, List.find?_map, List.find?_filter]
  congr 2
  funext z
  rw [FaultRec.postsWith]
  by_cases hz : (z.id == id) = true
  · simp [hz]
  · simp [hz]

/-- A posting leaves the records that are not of it. -/
theorem mem_posted {l : List FaultRec} {id : Nat} {z : FaultRec} (hz : z.id ≠ id) (hlead : ∀ n, z.lead ≠ some (id, n)) :
    z ∈ l.filter (fun r : FaultRec => !r.postsWith id) ++ (l.filter (FaultRec.postsWith id)).map (fun r : FaultRec => { r with posted := true }) ↔ z ∈ l := by
  have hof : ∀ r : FaultRec, r.id = z.id → r.lead = z.lead → r.postsWith id = false := by
    intro r hid hl
    rw [FaultRec.postsWith, hid, hl, beq_eq_false_iff_ne.2 hz, Bool.false_or]
    cases he : z.lead with
    | none => rfl
    | some p =>
      obtain ⟨a, n⟩ := p
      refine beq_eq_false_iff_ne.2 fun ha => ?_
      dsimp only at ha
      exact hlead n (by rw [he, ha])
  rw [List.mem_append, List.mem_filter, hof z rfl rfl]
  refine ⟨fun h => ?_, fun h => .inl ⟨h, rfl⟩⟩
  rcases h with h | h
  · exact h.1
  · obtain ⟨r, hr, rfl⟩ := List.mem_map.1 h
    have := (List.mem_filter.1 hr).2
    rw [hof r rfl rfl] at this
    nomatch this

/-! Fault queues (R352, R369). -/

theorem nextRecord_mem {asid : BitVec 12} {r : FaultRec} (h : s.nextRecord asid = some r) : r ∈ s.records :=
  List.mem_of_find?_eq_some h

/-- Joins of other address spaces wait on. -/
theorem retryQueueJoins_none {asid : BitVec 12} (h : ∀ x ∈ s.queueJoins, x.1 ≠ asid) : s.retryQueueJoins asid = s := by
  have hfold (l : List (BitVec 12 × Nat)) (hl : ∀ x ∈ l, x.1 ≠ asid) (done : List (BitVec 12 × Nat)) :
      l.foldl (fun (r : State × List (BitVec 12 × Nat)) x =>
        match if x.1 == asid then r.1.joinQueueCell asid x.2 else none with
        | some t => (t, r.2)
        | none => (r.1, r.2 ++ [x])) (s, done) = (s, done ++ l) := by
    induction l generalizing done with
    | nil => rw [List.append_nil]; rfl
    | cons x l ih =>
      have hx : (x.1 == asid) = false := beq_eq_false_iff_ne.2 (hl x List.mem_cons_self)
      rw [List.foldl_cons, hx]
      exact (ih (fun y hy => hl y (List.mem_cons_of_mem x hy)) _).trans (by rw [List.append_assoc]; rfl)
  rw [State.retryQueueJoins]
  exact congrArg (fun r : State × List (BitVec 12 × Nat) => { r.1 with queueJoins := r.2 }) (hfold _ h [])

/-- A queue's only join tried again. -/
theorem retryQueueJoins_one {asid : BitVec 12} {cell : Nat} (h : s.queueJoins = [(asid, cell)]) :
    s.retryQueueJoins asid = match s.joinQueueCell asid cell with
      | some t => { t with queueJoins := [] }
      | none => s := by
  rw [State.retryQueueJoins, h, List.foldl_cons, List.foldl_nil, beq_self_eq_true, if_pos rfl]
  cases s.joinQueueCell asid cell with
  | some t => rfl
  | none => exact congrArg (fun l => { s with queueJoins := l }) h.symm

theorem leads_faultRecordWrite {asid : BitVec 12} (h : faultRecordWrite asid s = t) : Leads (.faultRecordWrite asid) s t :=
  congrArg Host.Outcome.next h

theorem writeNextRecord_none {asid : BitVec 12} (h : s.nextRecord asid = none) : s.writeNextRecord asid = s := by
  rw [State.writeNextRecord, h]

/-- Whether the join into a queue's cell waits. -/
theorem joinQueueCell_none_iff {asid : BitVec 12} {cell : Nat} : s.joinQueueCell asid cell = none ↔ QueueCellBlocked s asid cell := by
  rw [State.joinQueueCell, QueueCellBlocked]
  dsimp only
  by_cases h0 : cell = 0
  · rw [if_pos h0]
    exact ⟨nofun, fun ⟨_, _, _, _, _, _, hne, _⟩ => absurd h0 hne⟩
  rw [if_neg h0]
  cases hw : walk s asid cell with
  | error e => exact ⟨nofun, fun ⟨_, _, h, _⟩ => nomatch h⟩
  | ok p =>
    obtain ⟨l, n⟩ := p
    dsimp only
    constructor
    · intro h
      split at h
      case h_1 hcond hleaf =>
        simp only [Bool.and_eq_true, beq_iff_eq, decide_eq_true_eq] at hcond
        split at h
        case isTrue hj => exact ⟨l, n, rfl, hcond.1.1, hcond.1.2, hcond.2, h0, hleaf, hj⟩
        case isFalse => split at h <;> nomatch h
      case h_2 => nomatch h
    · rintro ⟨l', n', he, hwin, hty, hal, -, hleaf, hj⟩
      cases he
      have hcond : (windowOf cell == Window.global && decide (l.ty = 9) && decide (cell % 8 = 0)) = true := by
        rw [hwin, hty, hal]
        rfl
      rw [hcond, hleaf]
      dsimp only
      rw [if_pos hj]

/-- A join into a queue's cell acts at its home alone. -/
theorem homeOnly_joinQueueCell {asid : BitVec 12} {cell : Nat} (h : s.joinQueueCell asid cell = some t) : HomeOnly s t := by
  rw [State.joinQueueCell] at h
  dsimp only at h
  split at h
  · cases h
    exact homeOnly_refl s
  split at h
  · cases h
    exact homeOnly_hostLog s _ _ _
  split at h
  · split at h
    · nomatch h
    split at h
    · cases h
      exact homeOnly_hostLog s _ _ _
    · cases h
      have hjoin (j : JoinReq) (cnt : Bool) (key : Nat) (va : Word) :
          HomeOnly s ((s.countAt cnt key va asid).joinAt j).1 := (homeOnly_countAt s _ _ _ _).trans (homeOnly_joinAt _ j)
      split
      · exact (hjoin _ _ _ _).trans (homeOnly_hostLog _ _ _ _)
      · exact hjoin _ _ _ _
  · cases h
    exact homeOnly_hostLog s _ _ _

theorem askQueueCell_blocked {asid : BitVec 12} {cell : Nat} (h : QueueCellBlocked s asid cell) :
    s.askQueueCell asid cell = { s with queueJoins := s.queueJoins ++ [(asid, cell)] } := by
  rw [State.askQueueCell, joinQueueCell_none_iff.2 h]
  rfl

theorem nextRecord_congr (h : t.records = s.records) (asid : BitVec 12) : t.nextRecord asid = s.nextRecord asid := by
  rw [State.nextRecord, State.nextRecord, h]

/-- A join that no longer waits is made. -/
theorem faultRecordWrite_joins {asid : BitVec 12} {cell : Nat} (h : s.queueJoins = [(asid, cell)])
    (hnone : s.nextRecord asid = none) (hgo : ¬QueueCellBlocked s asid cell) :
    faultRecordWrite asid s = { s.askQueueCell asid cell with queueJoins := [] } ∧
    (s.askQueueCell asid cell).queueJoins = s.queueJoins := by
  cases hj : s.joinQueueCell asid cell with
  | none => exact absurd (joinQueueCell_none_iff.1 hj) hgo
  | some t =>
    have hask : s.askQueueCell asid cell = t := by
      rw [State.askQueueCell, hj]
      rfl
    have hshape := (homeOnly_joinQueueCell hj).1
    have hrec : t.records = s.records := by rw [hshape]
    rw [faultRecordWrite, retryQueueJoins_one h, hj, hask]
    refine ⟨writeNextRecord_none ((nextRecord_congr ?_ asid).trans hnone), by rw [hshape]⟩
    exact hrec

theorem faultRecordWrite_waits {asid : BitVec 12} {cell : Nat} (h : s.queueJoins = [(asid, cell)])
    (hnone : s.nextRecord asid = none) (hblock : QueueCellBlocked s asid cell) : faultRecordWrite asid s = s := by
  rw [faultRecordWrite, retryQueueJoins_one h, joinQueueCell_none_iff.2 hblock]
  exact writeNextRecord_none hnone

theorem faultRecordWrite_full {asid : BitVec 12} {r : FaultRec} (h : s.nextRecord asid = some r)
    (hfull : s.queueFull (s.faultQueue asid) = true) (hjoins : ∀ x ∈ s.queueJoins, x.1 ≠ asid) :
    faultRecordWrite asid s = s := by
  rw [faultRecordWrite, retryQueueJoins_none hjoins, State.writeNextRecord, h]
  dsimp only
  rw [hfull, Bool.or_true, if_pos rfl]

theorem faultQueueFullSignal_raises {asid : BitVec 12} {r : FaultRec} (h : s.nextRecord asid = some r)
    (hfq : s.faultQueue asid ≠ 0) (hfull : s.queueFull (s.faultQueue asid) = true) :
    faultQueueFullSignal asid s = s.raiseVector 64 := by
  rw [faultQueueFullSignal, h, hfull, decide_eq_true hfq]
  rfl

/-! A record's words in memory (R353). -/

/-- The place of the next record in its queue. -/
def State.recordPlace (s : State) (fq : Nat) : Nat := fq + 64 + 64 * ((s.queueHeader fq).1 % (s.queueHeader fq).2.2)

/-- The state with the next record written and producer raised. -/
def State.recordWritten (s : State) (asid : BitVec 12) (r : FaultRec) : State :=
  { s with
    mem := (s.mem.putRecord (s.recordPlace (s.faultQueue asid)) r (s.leadIndex r)).writeN (s.faultQueue asid) 8
      ((s.queueHeader (s.faultQueue asid)).1 + 1) false
    records := (s.records.map (fun x => if x.id = r.id then
        { x with at_ := some (s.recordPlace (s.faultQueue asid)), idx := (s.queueHeader (s.faultQueue asid)).1 } else x)).filter
      (fun x => x.id != r.id || (x.live || x.kind == 7)) }

theorem faultRecordWrite_writes {asid : BitVec 12} {r : FaultRec} (hjoins : ∀ x ∈ s.queueJoins, x.1 ≠ asid)
    (h : s.nextRecord asid = some r) (hfq : s.faultQueue asid ≠ 0) (hroom : s.queueFull (s.faultQueue asid) = false) :
    faultRecordWrite asid s = ((s.recordWritten asid r).raiseVector 64).askQueueCell asid
      (s.mem.readN (s.faultQueue asid + 0x18) 8) := by
  rw [faultRecordWrite, retryQueueJoins_none hjoins, State.writeNextRecord, h]
  dsimp only
  rw [hroom, decide_eq_false hfq, Bool.or_false, if_neg Bool.false_ne_true]
  rfl

/-- A byte written. -/
theorem Memory.read_writeN_at : ∀ (n a x i : Nat) {m : Memory}, m.wf = true → i < n →
    ((m.writeN a n x).read (a + i)).toNat = x / 2 ^ (8 * i) % 256
  | 0, _, _, _, _, _, h => nomatch h
  | n + 1, a, x, 0, m, hm, _ => by
    rw [Memory.writeN, Memory.read_writeN_apart n (a + 1) _ _ (by omega), Memory.read_write hm, Nat.add_zero, if_pos rfl, BitVec.toNat_ofNat]
    omega
  | n + 1, a, x, i + 1, m, hm, hi => by
    rw [Memory.writeN, show a + (i + 1) = a + 1 + i by omega,
      Memory.read_writeN_at n (a + 1) (x / 256) i (Memory.write_wf hm) (by omega), Nat.div_div_eq_div_mul,
      show 8 * (i + 1) = 8 + 8 * i by omega, Nat.pow_add]

/-- Bytes inside what is written. -/
theorem Memory.readN_writeN_inside : ∀ (l i : Nat) {m : Memory} (n a x : Nat), m.wf = true → i + l ≤ n →
    (m.writeN a n x).readN (a + i) l = x / 2 ^ (8 * i) % 2 ^ (8 * l)
  | 0, i, m, n, a, x, _, _ => by rw [Memory.readN, Nat.mul_zero, Nat.pow_zero, Nat.mod_one]
  | l + 1, i, m, n, a, x, hm, h => by
    rw [Memory.readN, Memory.read_writeN_at n a x i hm (by omega), Nat.add_assoc,
      Memory.readN_writeN_inside l (i + 1) n a x hm (by omega), show 8 * (i + 1) = 8 * i + 8 by omega, Nat.pow_add,
      ← Nat.div_div_eq_div_mul, show 8 * (l + 1) = 8 + 8 * l by omega, Nat.pow_add, Nat.mod_mul]

/-- Bytes of a record in memory. -/
theorem Mem.readN_putRecord {m : Mem} (hm : m.wf = true) (pa : Nat) (r : FaultRec) (lead i n : Nat) (h : i + n ≤ 64) :
    (m.putRecord pa r lead).readN (pa + i) n = packList 64 (r.words lead) / 2 ^ (8 * i) % 2 ^ (8 * n) := by
  rw [Mem.readN, Mem.putRecord, Mem.writeMarks, Memory.readN_writeN_inside n i 64 pa _ (Mem.wf_iff.1 hm).1 h]

theorem packList_four (a b c d : Nat) (l : List Nat) : ∃ rest, packList 64 ([a, b, c, d] ++ l) =
    a % 2 ^ 64 + 2 ^ 64 * (b % 2 ^ 64 + 2 ^ 64 * (c % 2 ^ 64 + 2 ^ 64 * rest)) := ⟨_, rfl⟩

/-- The fields of the first word of a record. -/
theorem word0_fields {code sub level kind asid ctx : Nat} (rest : Nat) (hsub : sub < 2 ^ 5) (hlevel : level < 2 ^ 8)
    (hkind : kind < 16) (hasid : asid < 2 ^ 12) (hctx : ctx < 2 ^ 16) (y : Nat)
    (hy : y = (code % 2 ^ 16 + sub * 2 ^ 16 + level * 2 ^ 24 + kind * 2 ^ 32 + asid * 2 ^ 36 + ctx * 2 ^ 48) % 2 ^ 64 +
      2 ^ 64 * rest) :
    y / 2 ^ (8 * 4) % 2 ^ (8 * 1) % 16 = kind ∧ y / 2 ^ (8 * 6) % 2 ^ (8 * 2) = ctx ∧ y / 2 ^ (8 * 0) % 2 ^ (8 * 1) = code % 2 ^ 8 := by
  omega

theorem bitsOf_lt (x i n : Nat) : bitsOf x i n < 2 ^ n := Nat.mod_lt _ (by positivity)

/-- The fields of a record's words that every record has. -/
theorem record_fields (r : FaultRec) (lead : Nat) (hkind : r.kind < 16) :
    packList 64 (r.words lead) / 2 ^ (8 * 4) % 2 ^ (8 * 1) % 16 = r.kind ∧
    packList 64 (r.words lead) / 2 ^ (8 * 6) % 2 ^ (8 * 2) = r.ctxid.toNat ∧
    (r.kind ≠ 1 → r.kind ≠ 2 → packList 64 (r.words lead) / 2 ^ (8 * 0) % 2 ^ (8 * 1) = r.info.code.num) := by
  obtain ⟨rest, h⟩ := packList_four _ _ _ _ _
  obtain ⟨h4, h6, h0⟩ := word0_fields _ (bitsOf_lt _ 24 5) (bitsOf_lt _ 32 8) hkind r.asid.isLt r.ctxid.isLt _ h
  refine ⟨h4, h6, fun h1 h2 => h0.trans ?_⟩
  have hcode := (word_code r.info).1
  rw [wbits, bitsOf, Nat.pow_zero, Nat.div_one] at hcode
  rw [if_neg (by simp [h1, h2]), hcode]

theorem word1_field {a b : Nat} (rest y : Nat) (hy : y = a % 2 ^ 64 + 2 ^ 64 * (b % 2 ^ 64 + 2 ^ 64 * rest)) :
    y / 2 ^ (8 * 8) % 2 ^ (8 * 8) = b % 2 ^ 64 := by
  omega

/-- The address of a record that says what fault it was. -/
theorem record_addr (r : FaultRec) (lead : Nat) (h1 : r.kind ≠ 1) (h2 : r.kind ≠ 2) :
    packList 64 (r.words lead) / 2 ^ (8 * 8) % 2 ^ (8 * 8) = r.info.addr.toNat := by
  obtain ⟨rest, h⟩ := packList_four _ _ _ _ _
  refine (word1_field _ _ h).trans ?_
  rw [if_neg (by simp [h1, h2])]
  exact Nat.mod_eq_of_lt r.info.addr.isLt

/-- The place of the instruction, and the engine command, of a record. -/
theorem record_pc (r : FaultRec) (lead : Nat) (h7 : r.kind ≠ 7) :
    packList 64 (r.words lead) / 2 ^ (8 * 16) % 2 ^ (8 * 6) = r.pc.toNat ∧
    ∀ id, r.cmdId = some id → packList 64 (r.words lead) / 2 ^ (8 * 22) % 2 ^ (8 * 1) = id % 64 + 64 := by
  obtain ⟨rest, h⟩ := packList_four _ _ _ _ _
  have hpc := r.pc.isLt
  rw [FaultRec.words, h, if_neg h7]
  refine ⟨?_, fun id hid => ?_⟩
  · cases r.cmdId with
    | none => dsimp only; omega
    | some id => dsimp only; omega
  · rw [hid]
    dsimp only
    omega

section
variable {asid : BitVec 12} {r : FaultRec}

theorem recordWritten_mem (s : State) (asid : BitVec 12) (r : FaultRec) : (s.recordWritten asid r).mem =
    (s.mem.putRecord (s.recordPlace (s.faultQueue asid)) r (s.leadIndex r)).writeN (s.faultQueue asid) 8
      ((s.queueHeader (s.faultQueue asid)).1 + 1) false := rfl

theorem raiseVector_vectors (s : State) (n : Nat) : (s.raiseVector n).vectors = s.vectors ||| ((1 : BitVec 66) <<< n) := rfl

theorem raiseVector_mem (s : State) (n : Nat) : (s.raiseVector n).mem = s.mem := rfl

theorem raiseVector_records (s : State) (n : Nat) : (s.raiseVector n).records = s.records := rfl

theorem recordWritten_vectors (s : State) (asid : BitVec 12) (r : FaultRec) : (s.recordWritten asid r).vectors = s.vectors := by
  rw [State.recordWritten]

/-- Bytes of the record written. -/
theorem recordWritten_readN (hwf : s.mem.wf = true) (i n : Nat) (h : i + n ≤ 64) :
    (s.recordWritten asid r).mem.readN (s.recordPlace (s.faultQueue asid) + i) n =
      packList 64 (r.words (s.leadIndex r)) / 2 ^ (8 * i) % 2 ^ (8 * n) := by
  rw [recordWritten_mem, (Mem.within_writeN _ 8 _ _).readN (.inr (by rw [State.recordPlace]; omega)),
    Mem.readN_putRecord hwf _ r _ i n h]

theorem recordWritten_producer (hwf : s.mem.wf = true) (hlt : (s.queueHeader (s.faultQueue asid)).1 + 1 < 2 ^ 64) :
    (s.recordWritten asid r).mem.readN (s.faultQueue asid) 8 = (s.queueHeader (s.faultQueue asid)).1 + 1 := by
  have hw : (s.mem.putRecord (s.recordPlace (s.faultQueue asid)) r (s.leadIndex r)).wf = true :=
    (Mem.within_writeMarks _ 64 _ _).1 hwf
  rw [recordWritten_mem, Mem.readN_writeN _ 8 _ _ hw]
  exact Nat.mod_eq_of_lt hlt

theorem recordWritten_other {a : Nat} (h1 : a < s.recordPlace (s.faultQueue asid) ∨ s.recordPlace (s.faultQueue asid) + 64 ≤ a)
    (h2 : a < s.faultQueue asid ∨ s.faultQueue asid + 8 ≤ a) :
    (s.recordWritten asid r).mem.cells.read a = s.mem.cells.read a := by
  rw [recordWritten_mem, (Mem.within_writeN _ 8 _ _).2 a h2, Mem.putRecord_other _ _ _ _ _ h1]

/-- A live record stays, with its place. -/
theorem recordWritten_live (h : s.nextRecord asid = some r) (hlive : r.live = true) :
    ∃ y ∈ (s.recordWritten asid r).records, y.id = r.id ∧ y.at_ = some (s.recordPlace (s.faultQueue asid)) := by
  refine ⟨{ r with at_ := some (s.recordPlace (s.faultQueue asid)), idx := (s.queueHeader (s.faultQueue asid)).1 },
    List.mem_filter.2 ⟨List.mem_map.2 ⟨r, nextRecord_mem h, if_pos rfl⟩, ?_⟩, rfl, rfl⟩
  dsimp only
  rw [hlive, Bool.true_or, Bool.or_true]

end
end

/-- Settles O36: a fault's record is opened or joined before its context stops; the stop posts it; the queue's words are read
back field by field. -/
theorem faultsStopAndAreRecorded : Obligations.FaultsStopAndAreRecorded := by
  refine ⟨⟨?_, fun f pc s h => takeFaultAt_waits h⟩, ?_, ?_, ?_, fun _ _ => rfl, fun _ _ _ => askQueueCell_blocked, ?_, ?_⟩
  · intro f pc s _ hfull
    obtain ⟨hbusy, hmd, hscratch, hacc, hmem, hrec, c, hc, hf⟩ := takeFaultAt_stops (pc := pc) hfull
    refine ⟨hbusy, hmd, hscratch, hacc, fun hnone => ?_, fun r hr hone hlen => ?_, c, hc, ?_⟩
    · rw [hmem, hrec, openRecord_opens hnone]
      exact ⟨rfl, _, rfl, rfl, rfl, rfl, rfl, rfl, rfl, rfl, rfl, rfl, rfl⟩
    · rw [hmem, hrec]
      exact openRecord_joins hr hone hlen
    · obtain ⟨g, -, -, rfl⟩ := hf
      refine ⟨rfl, rfl, rfl, rfl, rfl, (word_code f).1, (word_code f).2, rfl, rfl, rfl, ?_⟩
      rw [← openRecord_id s s.cur.key pc f]
      rfl
  · intro k s c x h hst hstop hset hslot hkind
    obtain ⟨c', hc', hin, hst', hstop', hrec⟩ := faultStop_saves h hst hstop hset hslot
    have honly := ctxsOnly_modCtx s k (fun c => { c with stop := none })
    have hrecs : (s.modCtx k (fun c => { c with stop := none })).records = s.records := by rw [honly]
    refine ⟨_, c', c.stopRecord x (s.modCtx k (fun c => { c with stop := none })).nextSeq, rfl, hc', hin, hst', hstop',
      hrec.trans ?_, ?_⟩
    · rw [State.recordStop, if_neg hkind, ← hrecs]
      rfl
    · exact ⟨congrArg Key.asid (ctx_key h), congrArg Key.ctxid (ctx_key h), rfl, rfl, rfl, rfl, congrArg ([·]) (ctx_key h), rfl, rfl, rfl⟩
  · intro k s c x h hst hstop hset hslot hkind
    obtain ⟨c', hc', hin, hst', hstop', hrec⟩ := faultStop_saves h hst hstop hset hslot
    have honly := ctxsOnly_modCtx s k (fun c => { c with stop := none })
    have hrecs : (s.modCtx k (fun c => { c with stop := none })).records = s.records := by rw [honly]
    rw [State.recordStop, if_pos hkind] at hrec
    refine ⟨_, c', rfl, hc', hin, hst', hstop', fun hall => ?_, fun y hy hid hp => ⟨?_, fun z hz hlead => ?_⟩⟩
    · rw [hrec, postFault_posted (by rwa [hrecs]), hrecs]
    · rw [hrec, postFault_records (hrecs.symm ▸ hy) hid hp, hrecs]
      exact find_posted s.records x.record
    · rw [hrec, postFault_records (hrecs.symm ▸ hy) hid hp, hrecs]
      exact mem_posted hz hlead
  · intro asid s r hjoins h hkind
    dsimp only
    intro hfq hroom hlt hwf
    have hfields := record_fields r (s.leadIndex r) hkind
    have hw := leads_faultRecordWrite (faultRecordWrite_writes hjoins h hfq hroom)
    obtain ⟨u, hu⟩ : ∃ u, u = (s.recordWritten asid r).raiseVector 64 := ⟨_, rfl⟩
    have hm : u.mem = (s.recordWritten asid r).mem := by rw [hu, raiseVector_mem]
    rw [← hu] at hw
    refine ⟨u, hw, ?_, by rw [hu, raiseVector_vectors, recordWritten_vectors], ?_⟩
    · rw [hm]
      exact recordWritten_producer hwf hlt
    · rw [hm]
      rw [show s.faultQueue asid + 64 + 64 * ((s.queueHeader (s.faultQueue asid)).1 % (s.queueHeader (s.faultQueue asid)).2.2) =
        s.recordPlace (s.faultQueue asid) from rfl]
      have hbyte := recordWritten_readN (asid := asid) (r := r) hwf 0 1 (by omega)
      rw [Nat.add_zero] at hbyte
      refine ⟨?_, ?_, fun h1 h2 => ⟨?_, ?_, fun h7 => ⟨?_, fun id hid => ?_⟩⟩, ?_, ?_⟩
      · rw [← hfields.1]
        exact congrArg (· % 16) (recordWritten_readN hwf 4 1 (by omega))
      · exact (recordWritten_readN hwf 6 2 (by omega)).trans hfields.2.1
      · exact hbyte.trans (hfields.2.2 h1 h2)
      · exact (recordWritten_readN hwf 8 8 (by omega)).trans (record_addr r _ h1 h2)
      · exact (recordWritten_readN hwf 16 6 (by omega)).trans (record_pc r _ h7).1
      · exact (recordWritten_readN hwf 22 1 (by omega)).trans ((record_pc r _ h7).2 id hid)
      · rw [hu, raiseVector_records]
        exact recordWritten_live h
      · exact fun a h1 h2 => recordWritten_other h1 h2
  · intro asid cell s h hnone
    refine ⟨fun hblock => leads_faultRecordWrite (faultRecordWrite_waits h hnone hblock), fun _ hgo => ?_⟩
    obtain ⟨hw, hq⟩ := faultRecordWrite_joins h hnone hgo
    exact ⟨_, leads_faultRecordWrite hw, rfl, hq⟩
  · intro asid s r h hfq hfull
    refine ⟨fun hjoins => leads_faultRecordWrite (faultRecordWrite_full h hfull hjoins), ?_⟩
    exact congrArg Host.Outcome.next (faultQueueFullSignal_raises h hfq hfull)

end Sys2Proof.Machine
end

section
/-! PROOFS. What an instruction that works on registers keeps (R12, R143, R172, R193, R231): the relation of the states before
and after its effect, operand by operand, and what completion makes of it. -/
namespace Sys2Proof.Machine
open Sys2Proof.Claims

/-! Registers. -/

/-- Only the destinations `ds` differ in the register files, besides the PC, STATUS and ICOUNT. -/
def RegsFrame (ds : List Dest) (r r' : Regs) : Prop :=
  r' = { r with pc := r'.pc, g := r'.g, q := r'.q, v := r'.v, y := r'.y, status := r'.status, icount := r'.icount } ∧
  (∀ n : Fin 32, (n.val = 0 ∨ Dest.scalar (.g n) ∉ ds) → r'.g[n] = r.g[n]) ∧
  ((∀ a, Dest.scalar (.q a) ∉ ds) → r'.q = r.q) ∧
  (∀ n : Fin 16, Dest.vector (.v n) ∉ ds → r'.v[n] = r.v[n]) ∧
  ((∀ a, Dest.vector (.y a) ∉ ds) → r'.y = r.y)

theorem registerFrame_iff {i : Instr} {s t : State} : RegisterFrame i s t ↔ RegsFrame i.dests s.cur.regs t.cur.regs := Iff.rfl

/-- STATUS gains sticky flags at most, and none where `fl` is not set. -/
def StatusFrame (fl : Bool) (x x' : Word) : Prop :=
  (fl = false → x' = x) ∧ (∀ k, x'.getLsbD k = true → x.getLsbD k = true ∨ k < 5) ∧
  ∀ k, x.getLsbD k = true → x'.getLsbD k = true

section
variable {ds : List Dest} {fl : Bool} {r r' r'' : Regs} {x x' x'' : Word}

theorem RegsFrame.refl (ds : List Dest) (r : Regs) : RegsFrame ds r r :=
  ⟨rfl, fun _ _ => rfl, fun _ => rfl, fun _ _ => rfl, fun _ => rfl⟩

theorem RegsFrame.trans (h : RegsFrame ds r r') (h' : RegsFrame ds r' r'') : RegsFrame ds r r'' := by
  obtain ⟨h0, hg, hq, hv, hy⟩ := h
  obtain ⟨h0', hg', hq', hv', hy'⟩ := h'
  refine ⟨?_, fun n hn => (hg' n hn).trans (hg n hn), fun hn => (hq' hn).trans (hq hn), fun n hn => (hv' n hn).trans (hv n hn),
    fun hn => (hy' hn).trans (hy hn)⟩
  rw [h0', h0]

theorem StatusFrame.refl (fl : Bool) (x : Word) : StatusFrame fl x x := ⟨fun _ => rfl, fun _ h => .inl h, fun _ h => h⟩

theorem StatusFrame.trans (h : StatusFrame fl x x') (h' : StatusFrame fl x' x'') : StatusFrame fl x x'' := by
  obtain ⟨h0, h1, h2⟩ := h
  obtain ⟨h0', h1', h2'⟩ := h'
  refine ⟨fun hf => (h0' hf).trans (h0 hf), fun k hk => ?_, fun k hk => h2' k (h2 k hk)⟩
  rcases h1' k hk with hk | hk
  · exact h1 k hk
  · exact .inr hk

theorem statusFrame_flags (x : Word) (f : BitVec 5) (h : fl = false → f = 0) : StatusFrame fl x (x ||| f.setWidth 64) := by
  refine ⟨fun hf => ?_, fun k hk => ?_, fun k hk => ?_⟩
  · rw [h hf]
    simp
  · rw [BitVec.getLsbD_or, Bool.or_eq_true] at hk
    rcases hk with hk | hk
    · exact .inl hk
    · rw [BitVec.getLsbD_setWidth, Bool.and_eq_true] at hk
      exact .inr (BitVec.lt_of_getLsbD hk.2)
  · rw [BitVec.getLsbD_or, hk, Bool.true_or]

theorem regsFrame_writeG {n : Fin 32} (h : Dest.scalar (.g n) ∈ ds) (r : Regs) (v : Val) : RegsFrame ds r (r.writeG n v) := by
  rw [Regs.writeG]
  split
  · exact .refl ds r
  case isFalse h0 =>
    refine ⟨rfl, fun k hk => ?_, fun _ => rfl, fun _ _ => rfl, fun _ => rfl⟩
    have hne : n ≠ k := by
      rintro rfl
      exact hk.elim h0 fun hk => hk h
    exact Vector.getElem_set_ne n.isLt k.isLt fun he => hne (Fin.ext he)

theorem regsFrame_pushQ {a : Fin 16} (h : Dest.scalar (.q a) ∈ ds) (r : Regs) (v : Val) : RegsFrame ds r (r.pushQ v) := by
  rw [Regs.pushQ]
  exact ⟨rfl, fun _ _ => rfl, fun hn => absurd h (hn a), fun _ _ => rfl, fun _ => rfl⟩

theorem regsFrame_setV {n : Fin 16} (h : Dest.vector (.v n) ∈ ds) (r : Regs) (v : Vec) :
    RegsFrame ds r { r with v := r.v.set n v } :=
  ⟨rfl, fun _ _ => rfl, fun _ => rfl, fun k hk => Vector.getElem_set_ne n.isLt k.isLt fun he => hk (by rwa [← Fin.ext he]), fun _ => rfl⟩

theorem regsFrame_pushY {a : Fin 8} (h : Dest.vector (.y a) ∈ ds) (r : Regs) (v : Vec) : RegsFrame ds r (r.pushY v) := by
  rw [Regs.pushY]
  exact ⟨rfl, fun _ _ => rfl, fun _ => rfl, fun _ _ => rfl, fun hn => absurd h (hn a)⟩

/-- The zeros of a guarded-off instruction go to its destinations. -/
theorem pushZeros_frame (ds : List Dest) (c : Context) : RegsFrame ds c.regs (pushZeros ds c).regs ∧
    (pushZeros ds c).regs.status = c.regs.status ∧ pushZeros ds c = { c with regs := (pushZeros ds c).regs } := by
  have hfold (l : List Dest) (hl : l ⊆ ds) (c : Context) : RegsFrame ds c.regs (pushZeros l c).regs ∧
      (pushZeros l c).regs.status = c.regs.status ∧ pushZeros l c = { c with regs := (pushZeros l c).regs } := by
    induction l generalizing c with
    | nil => exact ⟨.refl ds c.regs, rfl, rfl⟩
    | cons x l ih =>
      have hx : x ∈ ds := hl List.mem_cons_self
      obtain ⟨h1, h2, h3⟩ := ih (fun y hy => hl (List.mem_cons_of_mem x hy)) (pushZeros [x] c)
      have hstep : pushZeros (x :: l) c = pushZeros l (pushZeros [x] c) := rfl
      rw [hstep]
      have hone : RegsFrame ds c.regs (pushZeros [x] c).regs ∧ (pushZeros [x] c).regs.status = c.regs.status ∧
          pushZeros [x] c = { c with regs := (pushZeros [x] c).regs } := by
        match x, hx with
        | .scalar (.q a), hx => exact ⟨regsFrame_pushQ hx _ _, rfl, rfl⟩
        | .vector (.y a), hx => exact ⟨regsFrame_pushY hx _ _, rfl, rfl⟩
        | .scalar (.g _), _ => exact ⟨.refl ds _, rfl, rfl⟩
        | .scalar (.c _), _ => exact ⟨.refl ds _, rfl, rfl⟩
        | .scalar (.rsv _), _ => exact ⟨.refl ds _, rfl, rfl⟩
        | .vector (.v _), _ => exact ⟨.refl ds _, rfl, rfl⟩
        | .vector (.c _), _ => exact ⟨.refl ds _, rfl, rfl⟩
      exact ⟨hone.1.trans h1, h2.trans hone.2.1, h3.trans (by rw [hone.2.2])⟩
  exact hfold ds (List.Subset.refl ds) c

end

/-! States. -/

/-- The keys and registers of the contexts that are not current are the same. -/
def SameOthers (s t : State) : Prop := t.ctxs.map (fun c => (c.key, c.regs)) = s.ctxs.map (fun c => (c.key, c.regs))

/-- What an effect on registers leaves: the destinations `ds`, sticky flags where `fl` is set, items of channels, and contexts
woken for them. -/
structure RegisterOnly (ds : List Dest) (fl : Bool) (s t : State) : Prop where
  shape : t = { s with cur := t.cur, chans := t.chans, ctxs := t.ctxs, nextSeq := t.nextSeq }
  others : SameOthers s t
  cur : t.cur = { s.cur with regs := t.cur.regs, status := t.cur.status }
  running : s.cur.status = .running → t.cur.status = .running
  regs : RegsFrame ds s.cur.regs t.cur.regs
  status : StatusFrame fl s.cur.regs.status t.cur.regs.status

section
variable {ds : List Dest} {fl : Bool} {s t : State}

theorem registerOnly_chain (ds : List Dest) (fl : Bool) : Chain (RegisterOnly ds fl) where
  refl s := ⟨rfl, rfl, rfl, id, .refl ds _, .refl fl _⟩
  trans h h' := ⟨h'.shape.trans (by rw [h.shape]), h'.others.trans h.others, h'.cur.trans (by rw [h.cur]),
    h'.running ∘ h.running, h.regs.trans h'.regs, h.status.trans h'.status⟩

theorem registerOnly_of_chansOnly (h : ChansOnly s t) : RegisterOnly ds fl s t := by
  have hcur := h.cur
  have hctxs : t.ctxs = s.ctxs := by rw [h]
  exact ⟨by rw [h], congrArg _ hctxs, by rw [hcur], fun hr => hcur ▸ hr, hcur ▸ .refl ds _, hcur ▸ .refl fl _⟩

theorem keeps_readScalar_only (x : Scalar) : Keeps (RegisterOnly ds fl) (readScalar x) :=
  (keeps_readScalar x).mono registerOnly_of_chansOnly

theorem keeps_readVec_only (x : VSpec) : Keeps (RegisterOnly ds fl) (readVec x) :=
  (keeps_readVec x).mono registerOnly_of_chansOnly

theorem wokenIf_running {p : Context → Wait → Bool} {n : Nat} {c : Context} (h : c.status = .running) :
    (c.wokenIf p n).status = .running := by
  rw [Context.wokenIf, h]
  exact h

/-- Contexts woken keep their registers, and one that runs goes on. -/
theorem registerOnly_wakeWhere (s : State) (p : Context → Wait → Bool) : RegisterOnly ds fl s (s.wakeWhere p) := by
  have hctx (c : Context) : c.wokenIf p s.nextSeq = { c with status := (c.wokenIf p s.nextSeq).status } := by
    obtain ⟨st, h⟩ := wokenIf_eq p s.nextSeq c
    rw [h]
  have hcur : (s.wakeWhere p).cur = { s.cur with status := (s.wakeWhere p).cur.status } := by
    rw [wakeWhere_map]
    dsimp only
    split
    · exact hctx s.cur
    · rfl
  refine ⟨rfl, ?_, hcur.trans (by rw [hcur]), fun hr => ?_, ?_, ?_⟩
  · rw [SameOthers, wakeWhere_map, List.map_map]
    refine List.map_congr_left fun c _ => ?_
    rw [Function.comp_apply, hctx c]
  · rw [wakeWhere_map]
    dsimp only
    split
    · exact wokenIf_running hr
    · exact hr
  · rw [hcur]
    exact .refl ds _
  · rw [hcur]
    exact .refl fl _

theorem keeps_putItem_only (p : Fin 8) (x : Vec) : Keeps (RegisterOnly ds fl) (putItem p x) := by
  have hR := registerOnly_chain ds fl
  refine keeps_bind hR (keeps_portChan hR p) fun ch s => keepsAt_get ?_
  split
  · exact hR.trans (registerOnly_of_chansOnly (t := s.setChan (ch.withItem x)) rfl) (registerOnly_wakeWhere (s.setChan (ch.withItem x)) _)
  · trivial

theorem keeps_modRegs_only {f : Regs → Regs} (h : ∀ r, RegsFrame ds r (f r)) (hs : ∀ r : Regs, StatusFrame fl r.status (f r).status) :
    Keeps (RegisterOnly ds fl) (modRegs f) := fun s => ⟨rfl, rfl, rfl, id, h s.cur.regs, hs s.cur.regs⟩

theorem writeG_status (r : Regs) (n : Fin 32) (v : Val) : (r.writeG n v).status = r.status := by
  rw [Regs.writeG]
  split <;> rfl

theorem keeps_writeScalar_only {d : Scalar} (h : Dest.scalar d ∈ ds) (v : Val) : Keeps (RegisterOnly ds fl) (writeScalar d v) := by
  cases d with
  | g n => exact keeps_modRegs_only (fun r => regsFrame_writeG h r v) fun r => by rw [writeG_status]; exact .refl fl _
  | q a => exact keeps_modRegs_only (fun r => regsFrame_pushQ h r v) fun r => .refl fl _
  | c p => exact keeps_putItem_only p _
  | rsv n => exact keeps_pure (registerOnly_chain ds fl) ()

theorem keeps_activeLanes {R : State → State → Prop} (hR : Chain R) : Keeps R activeLanes :=
  fun s => keepsAt_of_gives (activeLanes_gives s) (hR.refl s)

theorem keeps_writeVec_only {d : VSpec} (h : Dest.vector d ∈ ds) (v : Vec) : Keeps (RegisterOnly ds fl) (writeVec d v) := by
  refine keeps_bind (registerOnly_chain ds fl) (keeps_activeLanes (registerOnly_chain ds fl)) fun m => ?_
  cases d with
  | v n => exact keeps_modRegs_only (fun r => regsFrame_setV h r _) fun r => .refl fl _
  | y a => exact keeps_modRegs_only (fun r => regsFrame_pushY h r _) fun r => .refl fl _
  | c p => exact keeps_putItem_only p _

theorem keeps_raiseFlagsN_only (n : Nat) (h : fl = false → n = 0) : Keeps (RegisterOnly ds fl) (raiseFlagsN n) :=
  keeps_modRegs_only (f := fun r => { r with status := r.status ||| (BitVec.ofNat 5 n).setWidth 64 })
    (fun r => ⟨rfl, fun _ _ => rfl, fun _ => rfl, fun _ _ => rfl, fun _ => rfl⟩)
    fun r => statusFrame_flags r.status (BitVec.ofNat 5 n) fun hf => by
      rw [h hf]
      rfl

theorem keeps_checkPort {R : State → State → Prop} (hR : Chain R) (p : Fin 8) (sending wide : Bool) :
    Keeps R (checkPort p sending wide) := by
  refine fun s => keepsAt_get (keeps_bind hR (keeps_check hR _ _ _) (fun _ => ?_) s)
  split
  · exact keeps_raise _ _
  · refine keeps_bind hR (keeps_check hR _ _ _) fun _ => ?_
    split
    · exact keeps_raise _ _
    · exact keeps_check hR _ _ _

theorem keeps_checkSrc {R : State → State → Prop} (hR : Chain R) (x : Scalar) : Keeps R (checkSrc x) := by
  cases x with
  | c p => exact keeps_checkPort hR p _ _
  | _ => exact keeps_pure hR ()

theorem keeps_checkDst {R : State → State → Prop} (hR : Chain R) (x : Scalar) : Keeps R (checkDst x) := by
  cases x with
  | c p => exact keeps_checkPort hR p _ _
  | _ => exact keeps_pure hR ()

theorem keeps_checkVSrc {R : State → State → Prop} (hR : Chain R) (x : VSpec) : Keeps R (checkVSrc x) := by
  cases x with
  | c p => exact keeps_checkPort hR p _ _
  | _ => exact keeps_pure hR ()

theorem keeps_checkVDst {R : State → State → Prop} (hR : Chain R) (x : VSpec) : Keeps R (checkVDst x) := by
  cases x with
  | c p => exact keeps_checkPort hR p _ _
  | _ => exact keeps_pure hR ()

theorem keeps_cur {R : State → State → Prop} (hR : Chain R) : Keeps R cur := hR.refl

end

/-! The operand forms. -/

section
variable {ds : List Dest} {fl : Bool} {d a b : Scalar} {vd va vb : VSpec}

theorem keeps_alu2 (h : Dest.scalar d ∈ ds) (f : Word → Word → Word) : Keeps (RegisterOnly ds fl) (alu2 d a b f) := by
  have hR := registerOnly_chain ds fl
  exact keeps_bind hR (keeps_checkSrc hR a) fun _ => keeps_bind hR (keeps_checkSrc hR b) fun _ => keeps_bind hR (keeps_checkDst hR d)
    fun _ => keeps_bind hR (keeps_readScalar_only a) fun _ => keeps_bind hR (keeps_readScalar_only b) fun _ =>
    keeps_bind hR (keeps_writeScalar_only h _) fun _ => keeps_pure hR _

theorem keeps_alu1 (h : Dest.scalar d ∈ ds) (f : Word → Word) : Keeps (RegisterOnly ds fl) (alu1 d a f) := by
  have hR := registerOnly_chain ds fl
  exact keeps_bind hR (keeps_checkSrc hR a) fun _ => keeps_bind hR (keeps_checkDst hR d)
    fun _ => keeps_bind hR (keeps_readScalar_only a) fun _ => keeps_bind hR (keeps_writeScalar_only h _) fun _ => keeps_pure hR _

theorem keeps_aluConst (h : Dest.scalar d ∈ ds) (x : Word) : Keeps (RegisterOnly ds fl) (aluConst d x) := by
  have hR := registerOnly_chain ds fl
  exact keeps_bind hR (keeps_checkDst hR d) fun _ => keeps_bind hR (keeps_writeScalar_only h _) fun _ => keeps_pure hR _

theorem keeps_fpu2 (h : Dest.scalar d ∈ ds) (f : Rounding → FValue → FValue → FResult) :
    Keeps (RegisterOnly ds true) (fpu2 d a b f) := by
  have hR := registerOnly_chain ds true
  exact keeps_bind hR (keeps_checkSrc hR a) fun _ => keeps_bind hR (keeps_checkSrc hR b) fun _ => keeps_bind hR (keeps_checkDst hR d)
    fun _ => keeps_bind hR (keeps_readScalar_only a) fun _ => keeps_bind hR (keeps_readScalar_only b) fun _ =>
    keeps_bind hR (keeps_cur hR) fun _ => keeps_bind hR (keeps_writeScalar_only h _) fun _ =>
    keeps_bind hR (keeps_raiseFlagsN_only _ nofun) fun _ => keeps_pure hR _

theorem keeps_fpu1 (h : Dest.scalar d ∈ ds) (f : Rounding → Word → FResult) : Keeps (RegisterOnly ds true) (fpu1 d a f) := by
  have hR := registerOnly_chain ds true
  exact keeps_bind hR (keeps_checkSrc hR a) fun _ => keeps_bind hR (keeps_checkDst hR d)
    fun _ => keeps_bind hR (keeps_readScalar_only a) fun _ => keeps_bind hR (keeps_cur hR) fun _ =>
    keeps_bind hR (keeps_writeScalar_only h _) fun _ => keeps_bind hR (keeps_raiseFlagsN_only _ nofun) fun _ => keeps_pure hR _

theorem keeps_vec2 (h : Dest.vector vd ∈ ds) {k : Context → BitVec 128 → VecBits → VecBits → VecBits × Nat}
    (hk : fl = false → ∀ c m x y, (k c m x y).2 = 0) : Keeps (RegisterOnly ds fl) (vec2 vd va vb k) := by
  have hR := registerOnly_chain ds fl
  exact keeps_bind hR (keeps_checkVSrc hR va) fun _ => keeps_bind hR (keeps_checkVSrc hR vb) fun _ =>
    keeps_bind hR (keeps_checkVDst hR vd) fun _ => keeps_bind hR (keeps_readVec_only va) fun _ =>
    keeps_bind hR (keeps_readVec_only vb) fun _ => keeps_bind hR (keeps_activeLanes hR) fun _ => keeps_bind hR (keeps_cur hR) fun _ =>
    keeps_bind hR (keeps_writeVec_only h _) fun _ => keeps_bind hR (keeps_raiseFlagsN_only _ fun hf => hk hf _ _ _ _) fun _ =>
    keeps_pure hR _

theorem keeps_vec1 (h : Dest.vector vd ∈ ds) {k : Context → BitVec 128 → VecBits → VecBits × Nat}
    (hk : fl = false → ∀ c m x, (k c m x).2 = 0) : Keeps (RegisterOnly ds fl) (vec1 vd va k) := by
  have hR := registerOnly_chain ds fl
  exact keeps_bind hR (keeps_checkVSrc hR va) fun _ =>
    keeps_bind hR (keeps_checkVDst hR vd) fun _ => keeps_bind hR (keeps_readVec_only va) fun _ =>
    keeps_bind hR (keeps_activeLanes hR) fun _ => keeps_bind hR (keeps_cur hR) fun _ =>
    keeps_bind hR (keeps_writeVec_only h _) fun _ => keeps_bind hR (keeps_raiseFlagsN_only _ fun hf => hk hf _ _ _) fun _ =>
    keeps_pure hR _

theorem keeps_vec3 (h : Dest.vector vd ∈ ds) {k : Context → BitVec 128 → VecBits → VecBits → VecBits → VecBits × Nat}
    (hk : fl = false → ∀ c m x y z, (k c m x y z).2 = 0) : Keeps (RegisterOnly ds fl) (vec3 vd va vb k) := by
  have hR := registerOnly_chain ds fl
  exact keeps_bind hR (keeps_checkVSrc hR va) fun _ => keeps_bind hR (keeps_checkVSrc hR vb) fun _ =>
    keeps_bind hR (keeps_readVec_only va) fun _ => keeps_bind hR (keeps_readVec_only vb) fun _ =>
    keeps_bind hR (keeps_readVec_only vd) fun _ => keeps_bind hR (keeps_activeLanes hR) fun _ => keeps_bind hR (keeps_cur hR) fun _ =>
    keeps_bind hR (keeps_writeVec_only h _) fun _ => keeps_bind hR (keeps_raiseFlagsN_only _ fun hf => hk hf _ _ _ _ _) fun _ =>
    keeps_pure hR _

/-- Operations on codes set no flag. -/
theorem elementwise_code (w : Nat) (m : BitVec 128) (f : Nat → Nat) : (elementwise w m fun e => { code := f e }).2 = 0 := by
  have hfold : ∀ (l : List FResult) (n : Nat), (∀ r ∈ l, r.flags = 0) → l.foldl (fun acc r => acc ||| r.flags) n = n := by
    intro l
    induction l with
    | nil => exact fun _ _ => rfl
    | cons r l ih =>
      intro n h
      rw [List.foldl_cons, h r List.mem_cons_self, Nat.or_zero]
      exact ih n fun x hx => h x (List.mem_cons_of_mem r hx)
  refine hfold _ 0 fun r hr => ?_
  obtain ⟨e, -, rfl⟩ := List.mem_map.1 hr
  split <;> rfl

theorem keeps_codes2 (h : Dest.vector vd ∈ ds) (w : Nat) (op : Nat → Nat → Nat) :
    Keeps (RegisterOnly ds fl) (vec2 vd va vb (lanesCode2 w op)) := keeps_vec2 h fun _ _ m _ _ => elementwise_code w m _

theorem keeps_codes1 (h : Dest.vector vd ∈ ds) (w : Nat) (op : Nat → Nat) :
    Keeps (RegisterOnly ds fl) (vec1 vd va (lanesCode1 w op)) := keeps_vec1 h fun _ _ m _ => elementwise_code w m _

theorem keeps_bits2 (h : Dest.vector vd ∈ ds) (op : VecBits → VecBits → VecBits) :
    Keeps (RegisterOnly ds fl) (vec2 vd va vb (lanesBits2 op)) := keeps_vec2 h fun _ _ _ _ _ => rfl

theorem keeps_bfi (h : Dest.scalar d ∈ ds) : Keeps (RegisterOnly ds fl) (do
    checkSrc a
    checkSrc b
    let old ← readScalar d
    let x ← readScalar a
    let y ← readScalar b
    writeScalar d { bits := insertField old.bits x.bits y.bits, mark := old.mark || x.mark || y.mark }
    return Flow.done) := by
  have hR := registerOnly_chain ds fl
  exact keeps_bind hR (keeps_checkSrc hR a) fun _ => keeps_bind hR (keeps_checkSrc hR b) fun _ =>
    keeps_bind hR (keeps_readScalar_only d) fun _ => keeps_bind hR (keeps_readScalar_only a) fun _ =>
    keeps_bind hR (keeps_readScalar_only b) fun _ => keeps_bind hR (keeps_writeScalar_only h _) fun _ => keeps_pure hR _

theorem keeps_vec0 (h : Dest.vector vd ∈ ds) (x : VecBits) : Keeps (RegisterOnly ds fl) (vec0 vd x) := by
  have hR := registerOnly_chain ds fl
  exact keeps_bind hR (keeps_checkVDst hR vd) fun _ => keeps_bind hR (keeps_writeVec_only h _) fun _ => keeps_pure hR _

theorem keeps_broadcastLanes (h : Dest.vector vd ∈ ds) : Keeps (RegisterOnly ds fl) (broadcastLanes vd a) := by
  have hR := registerOnly_chain ds fl
  exact keeps_bind hR (keeps_checkSrc hR a) fun _ => keeps_bind hR (keeps_checkVDst hR vd) fun _ =>
    keeps_bind hR (keeps_readScalar_only a) fun _ => keeps_bind hR (keeps_writeVec_only h _) fun _ => keeps_pure hR _

theorem keeps_extractLane (h : Dest.scalar d ∈ ds) : Keeps (RegisterOnly ds fl) (extractLane d a va) := by
  have hR := registerOnly_chain ds fl
  exact keeps_bind hR (keeps_checkSrc hR a) fun _ => keeps_bind hR (keeps_checkVSrc hR va) fun _ =>
    keeps_bind hR (keeps_checkDst hR d) fun _ => keeps_bind hR (keeps_readScalar_only a) fun _ =>
    keeps_bind hR (keeps_readVec_only va) fun _ => keeps_bind hR (keeps_check hR _ _ _) fun _ =>
    keeps_bind hR (keeps_activeLanes hR) fun _ => keeps_join hR (keeps_writeScalar_only h _) (keeps_writeScalar_only h _) fun _ =>
    keeps_pure hR _

theorem keeps_insertLane (h : Dest.vector vd ∈ ds) : Keeps (RegisterOnly ds fl) (insertLane vd a b) := by
  have hR := registerOnly_chain ds fl
  exact keeps_bind hR (keeps_checkSrc hR a) fun _ => keeps_bind hR (keeps_checkSrc hR b) fun _ =>
    keeps_bind hR (keeps_readScalar_only a) fun _ => keeps_bind hR (keeps_readScalar_only b) fun _ =>
    keeps_bind hR (keeps_readVec_only vd) fun _ => keeps_bind hR (keeps_check hR _ _ _) fun _ =>
    keeps_bind hR (keeps_writeVec_only h _) fun _ => keeps_pure hR _

theorem keeps_permuteLanes (h : Dest.vector vd ∈ ds) : Keeps (RegisterOnly ds fl) (permuteLanes vd va vb) := by
  have hR := registerOnly_chain ds fl
  exact keeps_bind hR (keeps_checkVSrc hR va) fun _ => keeps_bind hR (keeps_checkVSrc hR vb) fun _ =>
    keeps_bind hR (keeps_checkVDst hR vd) fun _ => keeps_bind hR (keeps_readVec_only va) fun _ =>
    keeps_bind hR (keeps_readVec_only vb) fun _ => keeps_bind hR (keeps_writeVec_only h _) fun _ => keeps_pure hR _

theorem keeps_convertLanes (h : Dest.vector vd ∈ ds) (ok : Bool) (f : Rounding → Bool → Nat → FResult) :
    Keeps (RegisterOnly ds true) (convertLanes ok vd va f) := by
  have hR := registerOnly_chain ds true
  exact keeps_bind hR (keeps_checkVSrc hR va) fun _ => keeps_bind hR (keeps_checkVDst hR vd) fun _ =>
    keeps_bind hR (keeps_check hR _ _ _) fun _ => keeps_vec1 h nofun

theorem keeps_packLanes (h : Dest.vector vd ∈ ds) (n : Nat) : Keeps (RegisterOnly ds fl) (packLanes n vd va vb) := by
  have hR := registerOnly_chain ds fl
  exact keeps_bind hR (keeps_checkVSrc hR va) fun _ => keeps_bind hR (keeps_checkVSrc hR vb) fun _ =>
    keeps_bind hR (keeps_checkVDst hR vd) fun _ => keeps_bind hR (keeps_readVec_only va) fun _ =>
    keeps_bind hR (keeps_readVec_only vb) fun _ => keeps_bind hR (keeps_writeVec_only h _) fun _ => keeps_pure hR _

theorem keeps_unpackLanes (h : Dest.vector vd ∈ ds) (n : Nat) (half sign : Bool) :
    Keeps (RegisterOnly ds fl) (unpackLanes n half sign vd va) := by
  have hR := registerOnly_chain ds fl
  exact keeps_bind hR (keeps_checkVSrc hR va) fun _ => keeps_bind hR (keeps_checkVDst hR vd) fun _ =>
    keeps_bind hR (keeps_readVec_only va) fun _ => keeps_bind hR (keeps_writeVec_only h _) fun _ => keeps_pure hR _

theorem keeps_reduceLanes (h : Dest.vector vd ∈ ds) (op : ReduceOp) (t : Fin 8) :
    Keeps (RegisterOnly ds true) (reduceLanes op t vd va) := by
  have hR := registerOnly_chain ds true
  exact keeps_bind hR (keeps_checkVSrc hR va) fun _ => keeps_bind hR (keeps_checkVDst hR vd) fun _ =>
    keeps_bind hR (keeps_readVec_only va) fun _ => keeps_bind hR (keeps_activeLanes hR) fun _ =>
    keeps_bind hR (keeps_writeVec_only h _) fun _ => keeps_bind hR (keeps_raiseFlagsN_only _ nofun) fun _ => keeps_pure hR _

theorem keeps_scanLanes (h : Dest.vector vd ∈ ds) (op : ReduceOp) (t : Fin 8) :
    Keeps (RegisterOnly ds true) (scanLanes op t vd va) := by
  have hR := registerOnly_chain ds true
  exact keeps_bind hR (keeps_checkVSrc hR va) fun _ => keeps_bind hR (keeps_checkVDst hR vd) fun _ =>
    keeps_bind hR (keeps_readVec_only va) fun _ => keeps_bind hR (keeps_activeLanes hR) fun _ =>
    keeps_bind hR (keeps_writeVec_only h _) fun _ => keeps_bind hR (keeps_raiseFlagsN_only _ nofun) fun _ => keeps_pure hR _

theorem keeps_guard {k : Context → Flow} : Keeps (RegisterOnly ds fl) (do return k (← cur)) :=
  keeps_bind (registerOnly_chain ds fl) (keeps_cur (registerOnly_chain ds fl)) fun _ => keeps_pure (registerOnly_chain ds fl) _

end

/-- Every register instruction is issued with an effect that only changes its destinations, and sets no flag where it has none. -/
theorem registerBody (i : Instr) (h : flagFree i = true ∨ flagSetting i = true) :
    ∃ body, (∀ s, exec i s = issue i body s) ∧ Keeps (RegisterOnly i.dests (!flagFree i)) body := by
  have hd {d : Dest} : d ∈ [d] := List.mem_singleton_self d
  cases i with
  | nop16 | nop => exact ⟨_, fun _ => rfl, keeps_pure (registerOnly_chain _ _) _⟩
  | guard | vguard => exact ⟨_, fun _ => rfl, keeps_guard⟩
  | add | sub | and | or | xor | shl | shr | sra | min | max | minn | maxn | mul | mulh | mulhn | div | divn | rem | remn | bfx
  | cmp => exact ⟨_, fun _ => rfl, keeps_alu2 hd _⟩
  | clz | popc | addi | andi | ori | xori | shli | shri | srai | cmpi => exact ⟨_, fun _ => rfl, keeps_alu1 hd _⟩
  | bfi => exact ⟨_, fun _ => rfl, keeps_bfi hd⟩
  | movi => exact ⟨_, fun _ => rfl, keeps_aluConst hd _⟩
  | addpc => exact ⟨_, fun _ => rfl, keeps_bind (registerOnly_chain _ _) (keeps_cur (registerOnly_chain _ _)) fun _ => keeps_aluConst hd _⟩
  | cmpf | fadd | fsub | fmul => exact ⟨_, fun _ => rfl, keeps_fpu2 hd _⟩
  | ftoi | itof => exact ⟨_, fun _ => rfl, keeps_fpu1 hd _⟩
  | vaddF32S | vsubF32S | vmulF32S | vaddBf16S | vadd | vsub | vmul | vscaleb | vcmpeq | vcmplt | vcmple =>
    exact ⟨_, fun _ => rfl, keeps_vec2 hd nofun⟩
  | vfmaF32S | vfmaBf16S | vfma | vfms => exact ⟨_, fun _ => rfl, keeps_vec3 hd nofun⟩
  | vsqrt | vrcp | vrsq | vexp2 | vlog2 => exact ⟨_, fun _ => rfl, keeps_vec1 hd nofun⟩
  | vmaxF32S | vminF32S | vmin | vmax | viaddI32S | visubI32S | vimaxI32S | viminI32S | viadd | visub | vimul | vimin | vimax
  | viminn | vimaxn | vishl | vishr | visra | vicmpeq | vicmplt | vicmpltn | viaddsat =>
    exact ⟨_, fun _ => rfl, keeps_codes2 hd _ _⟩
  | vabs | vneg | viabs | vkey => exact ⟨_, fun _ => rfl, keeps_codes1 hd _ _⟩
  | viandS | viorS | vixorS | viand | vior | vixor => exact ⟨_, fun _ => rfl, keeps_bits2 hd _⟩
  | vmovS | vmov => exact ⟨_, fun _ => rfl, keeps_vec1 hd fun _ _ _ _ => rfl⟩
  | vsel => exact ⟨_, fun _ => rfl, keeps_vec3 hd fun _ _ _ _ _ _ => rfl⟩
  | viota => exact ⟨_, fun _ => rfl, keeps_vec0 hd _⟩
  | vbcast => exact ⟨_, fun _ => rfl, keeps_broadcastLanes hd⟩
  | vextr => exact ⟨_, fun _ => rfl, keeps_extractLane hd⟩
  | vins => exact ⟨_, fun _ => rfl, keeps_insertLane hd⟩
  | vperm => exact ⟨_, fun _ => rfl, keeps_permuteLanes hd⟩
  | vcvtF2x | vcvtX2f | vcvtI2x | vcvtX2i => exact ⟨_, fun _ => rfl, keeps_convertLanes hd _ _⟩
  | vpack => exact ⟨_, fun _ => rfl, keeps_packLanes hd _⟩
  | vunpack => exact ⟨_, fun _ => rfl, keeps_unpackLanes hd _ _ _⟩
  | vrsum | vrmax | vrmin | vramax => exact ⟨_, fun _ => rfl, keeps_reduceLanes hd _ _⟩
  | vscan => exact ⟨_, fun _ => rfl, keeps_scanLanes hd _ _⟩
  | _ => exact absurd h (by rintro (h | h) <;> nomatch h)

end Sys2Proof.Machine
end

section
/-! PROOFS. How an issued instruction can end, by what its effect keeps (R167, R194, R351). -/
namespace Sys2Proof.Machine
open Sys2Proof.Claims

/-- How an instruction at `s` ends whose effect keeps `R`: its flow is settled after the effect or after the zeros of a
guarded-off instruction; a fault is taken, of the state itself, of what its effect kept, or of one with a delivery noted; or it
stays, or parks. -/
inductive EndsKeeping (R : State → State → Prop) (i : Instr) (s : State) : State → Prop
  | settled (f : Flow) (u : State) : R s u → EndsKeeping R i s (settle i.len s.cur f u)
  | off : EndsKeeping R i s (settle i.len s.cur .done { s with cur := pushZeros i.dests s.cur })
  | fault (pc : CodeAddr) (f : FaultInfo) (u : State) : R s u → EndsKeeping R i s (takeFaultAt pc f u)
  | delivered (f : FaultInfo) (n : Note) : s.recordsFull s.cur.key f = false → EndsKeeping R i s (takeFault f (n.mark s))
  | parks (w : Wait) : EndsKeeping R i s (parkCur w s)
  | stalls : EndsKeeping R i s { s with stalled := true }

section
variable {R : State → State → Prop} {i : Instr} {body : M Flow} {s t : State}

theorem runBody_endsKeeping (hR : Chain R) (hk : Keeps R body) (h : runBody i body s = .next t) : EndsKeeping R i s t := by
  have hs := hk s
  rw [KeepsAt] at hs
  rw [runBody] at h
  cases hb : body s with
  | ok r =>
    rw [hb] at h hs
    cases h
    exact .settled r.1 r.2 hs
  | error e =>
    rw [hb] at h hs
    cases e with
    | fault f => cases h; exact .fault _ f s (hR.refl s)
    | faultAt pc f => cases h; exact .fault pc f s (hR.refl s)
    | kept f u =>
      simp only [Host.Outcome.next.injEq] at h
      subst h
      split
      · exact .stalls
      · exact .fault _ f u hs
    | deliver f n =>
      simp only [Host.Outcome.next.injEq] at h
      subst h
      split
      · exact .stalls
      case isFalse hf => exact .delivered f n (Bool.eq_false_iff.2 hf)
    | park w => cases h; exact .parks w
    | stall => cases h; exact .stalls

theorem issue_endsKeeping (hR : Chain R) (hk : Keeps R body) (hbusy : s.busy = true) (h : issue i body s = .next t) :
    EndsKeeping R i s t := by
  rw [issue, if_neg (by rw [hbusy]; decide)] at h
  cases hc : stepChecks i true s.cur with
  | some code =>
    rw [hc] at h
    cases h
    exact .fault _ _ s (hR.refl s)
  | none =>
    rw [hc] at h
    dsimp only at h
    split at h
    · cases h
      exact .off
    split at h
    · cases h
      exact .fault _ _ s (hR.refl s)
    split at h
    · cases h
      exact .fault _ _ s (hR.refl s)
    · exact runBody_endsKeeping hR hk h

theorem Note.mark_fields (n : Note) (s : State) : n.mark s = { s with cur := (n.mark s).cur } ∧
    (n.mark s).cur = { s.cur with posted := (n.mark s).cur.posted, cmds := (n.mark s).cur.cmds } := by
  cases n <;> exact ⟨rfl, rfl⟩

theorem Note.mark_recordsFull (n : Note) (s : State) (f : FaultInfo) :
    (n.mark s).recordsFull (n.mark s).cur.key f = s.recordsFull s.cur.key f := by
  cases n <;> rfl

theorem State.Freed.busy_eq (h : s.Freed t) : t.busy = s.busy := by
  obtain ⟨-, -, -, -, -, -, -, hbusy, -⟩ := h.fields
  exact hbusy

/-- A fault taken frees the core, or waits at the limit of records. -/
theorem takeFaultAt_busy (pc : CodeAddr) (f : FaultInfo) (s : State) (h : (takeFaultAt pc f s).busy = true) :
    takeFaultAt pc f s = { s with stalled := true } := by
  cases hf : s.recordsFull s.cur.key f with
  | true => exact takeFaultAt_waits hf
  | false =>
    rw [(takeFaultAt_stops hf).1] at h
    exact absurd h Bool.false_ne_true

end

/-! Register instructions, when their context goes on. -/

/-- What a register instruction leaves when its context goes on. -/
structure RegisterStep (ds : List Dest) (fl : Bool) (s t : State) : Prop where
  shape : t = { s with cur := t.cur, chans := t.chans, ctxs := t.ctxs, nextSeq := t.nextSeq, stalled := t.stalled }
  others : SameOthers s t
  cur : t.cur = { s.cur with
    regs := t.cur.regs, unit := t.cur.unit, viaTarget := t.cur.viaTarget, asked := t.cur.asked, reply := t.cur.reply
    lines := t.cur.lines, spoilt := t.cur.spoilt, dropL1 := t.cur.dropL1, lostReply := t.cur.lostReply, phase := t.cur.phase, operands := t.cur.operands
    voperand := t.cur.voperand, ahead := t.cur.ahead, items := t.cur.items }
  regs : RegsFrame ds s.cur.regs t.cur.regs
  status : StatusFrame fl s.cur.regs.status t.cur.regs.status

section
variable {ds : List Dest} {fl : Bool} {s t u : State}

theorem registerStep_chain (ds : List Dest) (fl : Bool) : Chain (RegisterStep ds fl) where
  refl s := ⟨rfl, rfl, rfl, .refl ds _, .refl fl _⟩
  trans h h' := ⟨h'.shape.trans (by rw [h.shape]), h'.others.trans h.others, h'.cur.trans (by rw [h.cur]),
    h.regs.trans h'.regs, h.status.trans h'.status⟩

theorem RegisterOnly.step (hrun : s.cur.status = .running) (h : RegisterOnly ds fl s t) : RegisterStep ds fl s t := by
  refine ⟨h.shape.trans (by rw [h.shape]), h.others, ?_, h.regs, h.status⟩
  have hst : t.cur.status = s.cur.status := (h.running hrun).trans hrun.symm
  have hcur := h.cur
  rw [hst] at hcur
  rw [hcur]

theorem registerStep_stalled (s : State) : RegisterStep ds fl s { s with stalled := true } :=
  ⟨rfl, rfl, rfl, .refl ds _, .refl fl _⟩

theorem finish_frame (c : Context) (len : Nat) : RegsFrame ds c.regs (c.finish len).regs :=
  ⟨rfl, fun _ _ => rfl, fun _ => rfl, fun _ _ => rfl, fun _ => rfl⟩

theorem releaseSlots_only (s : State) (k : Key) : RegisterOnly ds fl s (s.releaseSlots k) := by
  rw [State.releaseSlots]
  split
  · exact registerOnly_wakeWhere s _
  · exact (registerOnly_chain ds fl).refl s

/-- The current context gone on to `c`, and those that waited for a slot of it woken. -/
theorem registerStep_completed {c : Context} (h : RegisterStep ds fl s { s with cur := c }) :
    RegisterStep ds fl s (s.completed c) := by
  have hw := releaseSlots_only (ds := ds) (fl := fl) { s with cur := c } c.key
  obtain ⟨ctxs, n, he⟩ := completed_eq s c
  have hothers : SameOthers s (s.completed c) := hw.others.trans h.others
  rw [he] at hothers ⊢
  exact ⟨rfl, hothers, h.cur, h.regs, h.status⟩

theorem registerStep_finished (s : State) (len : Nat) (un : Option UnitState) :
    RegisterStep ds fl s { s with cur := { s.cur.finish len with unit := un } } :=
  ⟨rfl, rfl, rfl, finish_frame s.cur len, .refl fl _⟩

theorem settle_registerStep {len : Nat} {c0 : Context} {f : Flow} (hrun : s.cur.status = .running) 
    (h : (settle len c0 f s).busy = true) : RegisterStep ds fl s (settle len c0 f s) := by
  cases f with
  | done => exact registerStep_completed (registerStep_finished s len none)
  | guarded g l => exact registerStep_finished s len _
  | transfer next toTarget taken => exact registerStep_finished s len _
  | park w => nomatch h
  | stall => exact registerStep_stalled s
  | yield => nomatch h
  | trap kind arg =>
    rw [settle] at h
    dsimp only at h
    rw [(freed_drainHeld _ _ _).busy_eq] at h
    nomatch h
  | ended => exact (releaseSlots_only s c0.key).step hrun

end
end Sys2Proof.Machine
end

section
/-! PROOFS. What loads, exact reads, waits and joins leave when they are issued (R217, R221 to R228, R247 to R253). -/
namespace Sys2Proof.Machine
open Sys2Proof.Claims

/-- What a reading effect leaves: requests and joins on their way, what caches and gateways hold, and the destinations `ds`; where
`ldc` is set, what the home has counted and notified. -/
structure Reads (ldc : Bool) (ds : List Dest) (s t : State) : Prop where
  shape : t = { s with
    cur := t.cur, ctxs := t.ctxs, cores := t.cores, chans := t.chans, msgs := t.msgs, nextMsg := t.nextMsg, replicas := t.replicas
    tlb := t.tlb, tableCache := t.tableCache, choices := t.choices, nextSeq := t.nextSeq, mem := t.mem, counters := t.counters }
  key : t.cur.key = s.cur.key
  regs : RegsFrame ds s.cur.regs t.cur.regs
  status : t.cur.regs.status = s.cur.regs.status
  still : ldc = false → t.mem = s.mem ∧ t.counters = s.counters
  quiet : s.bar1.notifybase = 0 → t.mem = s.mem
  form : s.mem.wf = true → t.mem.wf = true

theorem reads_chain (ldc : Bool) (ds : List Dest) : Chain (Reads ldc ds) where
  refl s := ⟨rfl, rfl, .refl ds _, rfl, fun _ => ⟨rfl, rfl⟩, fun _ => rfl, id⟩
  trans {s t u} h h' := by
    refine ⟨h'.shape.trans (by rw [h.shape]), h'.key.trans h.key, h.regs.trans h'.regs, h'.status.trans h.status, fun hl => ?_,
      fun hq => ?_, h'.form ∘ h.form⟩
    · exact ⟨(h'.still hl).1.trans (h.still hl).1, (h'.still hl).2.trans (h.still hl).2⟩
    · have hbar : t.bar1 = s.bar1 := by rw [h.shape]
      exact (h'.quiet (by rw [hbar, hq])).trans (h.quiet hq)

section
variable {ldc : Bool} {ds : List Dest} {s t : State}

theorem reads_of_shape (h : t = { s with
    cur := t.cur, ctxs := t.ctxs, cores := t.cores, chans := t.chans, msgs := t.msgs, nextMsg := t.nextMsg, replicas := t.replicas
    tlb := t.tlb, tableCache := t.tableCache, choices := t.choices, nextSeq := t.nextSeq })
    (hk : t.cur.key = s.cur.key) (hr : t.cur.regs = s.cur.regs) : Reads ldc ds s t := by
  have hm : t.mem = s.mem := by rw [h]
  have hc : t.counters = s.counters := by rw [h]
  exact ⟨h.trans (by rw [hm, hc]), hk, hr ▸ .refl ds _, by rw [hr], fun _ => ⟨hm, hc⟩, fun _ => hm, fun hw => hm ▸ hw⟩

theorem RegisterOnly.reads (h : RegisterOnly ds false s t) : Reads ldc ds s t := by
  have hm : t.mem = s.mem := by rw [h.shape]
  have hc : t.counters = s.counters := by rw [h.shape]
  exact ⟨h.shape.trans (by rw [h.shape]), by rw [h.cur], h.regs, h.status.1 rfl, fun _ => ⟨hm, hc⟩, fun _ => hm, fun hw => hm ▸ hw⟩

theorem CachesOnly.reads (h : CachesOnly s t) : Reads ldc ds s t := by
  have hcur := h.cur
  exact reads_of_shape (h.trans (by rw [h])) (by rw [hcur]) (by rw [hcur])

theorem ReadsOnly.reads (h : ReadsOnly s t) : Reads ldc ds s t :=
  reads_of_shape (h.trans (by rw [h])) (by rw [h]) (by rw [h])

theorem State.Freed.reads (h : s.Freed t) : Reads ldc ds s t := by
  obtain ⟨cur, ctxs, cores, msgs, n, rfl, ⟨g, -, -, rfl⟩, -⟩ := h
  exact reads_of_shape rfl rfl rfl

theorem keeps_modCur_reads {f : Context → Context} (hk : ∀ c, (f c).key = c.key) (hr : ∀ c, (f c).regs = c.regs) :
    Keeps (Reads ldc ds) (modCur f) := fun s => reads_of_shape (t := { s with cur := f s.cur }) rfl (hk s.cur) (hr s.cur)

theorem keeps_modify_freed {f : State → State} (h : ∀ s : State, s.Freed (f s)) : Keeps (Reads ldc ds) (modify f) :=
  fun s => (h s).reads

/-! Operands. -/

theorem keeps_useClean {R : State → State → Prop} (hR : Chain R) (v : Val) : Keeps R (useClean v) :=
  keeps_bind hR (keeps_check hR _ _ _) fun _ => keeps_pure hR _

theorem keeps_readOnce_reads (xs : List Scalar) : Keeps (Reads ldc ds) (readOnce xs) := (keeps_readOnce xs).mono ReadsOnly.reads

theorem keeps_readScalar_reads (x : Scalar) : Keeps (Reads ldc ds) (readScalar x) :=
  (keeps_readScalar x).mono fun h => h.readsOnly.reads

theorem keeps_readVec_reads (x : VSpec) : Keeps (Reads ldc ds) (readVec x) :=
  (keeps_readVec x).mono fun h => h.readsOnly.reads

theorem keeps_readClean_reads (x : Scalar) : Keeps (Reads ldc ds) (readClean x) :=
  keeps_bind (reads_chain ldc ds) (keeps_readScalar_reads x) fun _ => keeps_useClean (reads_chain ldc ds) _

theorem keeps_readVecOnce (x : VSpec) : Keeps (Reads ldc ds) (readVecOnce x) := by
  have hR := reads_chain ldc ds
  have hrest (v : Vec) : Keeps (Reads ldc ds) (do modCur fun c => { c with voperand := some v }; return v) :=
    keeps_bind hR (keeps_modCur_reads (fun _ => rfl) fun _ => rfl) fun _ => keeps_pure hR _
  refine fun s => keepsAt_cur ?_
  split
  · exact hR.refl s
  · cases x with
    | c p =>
      refine keeps_bind hR (keeps_portChan hR p) (fun ch => keeps_bind hR ((keeps_takeItem p).mono fun h => h.readsOnly.reads)
        fun item => keeps_bind hR ?_ fun _ => hrest item) s
      exact keeps_modCur_reads (fun _ => rfl) fun _ => rfl
    | v n => exact keeps_bind hR (keeps_readVec_reads _) (fun _ => hrest _) s
    | y a => exact keeps_bind hR (keeps_readVec_reads _) (fun _ => hrest _) s

theorem keeps_checkNamed (x : Scalar) : Keeps (Reads ldc ds) (checkNamed x) := by
  have hR := reads_chain ldc ds
  have hread : Keeps (Reads ldc ds) (do if (← cur).operands.isNone then let _ ← readClean x) := by
    refine fun s => keepsAt_cur ?_
    split
    · exact keeps_bind hR (keeps_readClean_reads x) (fun _ => keeps_pure hR _) s
    · exact hR.refl s
  cases x with
  | c p => exact keeps_pure hR ()
  | _ => exact hread

theorem keeps_checkNamedLanes (x : VSpec) : Keeps (Reads ldc ds) (checkNamedLanes x) := by
  have hR := reads_chain ldc ds
  have hread : Keeps (Reads ldc ds)
      (do if (← cur).voperand.isNone then check (decide ((← readVec x).mark &&& (← activeLanes) = 0)) .poison) := by
    refine fun s => keepsAt_cur ?_
    split
    · exact keeps_bind hR (keeps_readVec_reads x) (fun _ => keeps_bind hR (keeps_activeLanes hR) fun _ => keeps_check hR _ _ _) s
    · exact hR.refl s
  cases x with
  | c p => exact keeps_pure hR ()
  | _ => exact hread

theorem keeps_writeScalar_reads {d : Scalar} (h : Dest.scalar d ∈ ds) (v : Val) : Keeps (Reads ldc ds) (writeScalar d v) :=
  (keeps_writeScalar_only h v).mono RegisterOnly.reads

theorem keeps_writeVec_reads {d : VSpec} (h : Dest.vector d ∈ ds) (v : Vec) : Keeps (Reads ldc ds) (writeVec d v) :=
  (keeps_writeVec_only h v).mono RegisterOnly.reads

theorem keeps_fieldAccess_reads (kind : AccessKind) (refuse : Leaf → Option FaultCode) (ea : Word) :
    Keeps (Reads ldc ds) (fieldAccess kind refuse ea) := (keeps_fieldAccess kind refuse ea).mono CachesOnly.reads

/-! Waiting for acknowledgements; joins. -/

theorem keeps_waitAcks (stores : Bool) : Keeps (Reads ldc ds) (waitAcks stores) := by
  have hR := reads_chain ldc ds
  exact keeps_bind hR (keeps_cur hR) fun c => keeps_bind hR (keeps_modify_freed fun s => freed_drainHeld s c.core _) fun _ =>
    keeps_bind hR (keeps_cur hR) fun _ => keeps_pure hR _

theorem keeps_deliverPosted {R : State → State → Prop} (hR : Chain R) : Keeps R deliverPosted := by
  refine fun s => keepsAt_cur ?_
  split
  · exact hR.refl s
  · exact keepsAt_get trivial

theorem keeps_newOut (l : Leaf) (va : Nat) (store held : Bool) : Keeps (Reads ldc ds) (newOut l va store held) := by
  have hR := reads_chain ldc ds
  exact keeps_bind hR (keeps_cur hR) fun c => keeps_bind hR (keeps_modCur_reads (fun _ => rfl) fun _ => rfl) fun _ => keeps_pure hR _

theorem freed_postJoin (s : State) (core : Nat) (asid : BitVec 12) (l : Leaf) (va : Nat) (j : JoinReq) (hold : Bool) :
    s.Freed (s.postJoin core asid l va j hold) := by
  rw [State.postJoin]
  dsimp only
  split
  · exact (freed_makeRoom s core _).trans (freed_modCore _ core _)
  · exact freed_send s _

theorem keeps_joinCell (l : Leaf) (va w : Nat) (x : Int) (mark rel : Bool) : Keeps (Reads ldc ds) (joinCell l va w x mark rel) := by
  have hR := reads_chain ldc ds
  exact keeps_bind hR (keeps_newOut l va false (!rel)) fun _ => keeps_bind hR (keeps_cur hR) fun c =>
    keeps_modify_freed fun s => freed_postJoin s c.core c.asid l va _ _

theorem keeps_joinScalar (w : Nat) (rel : Bool) (addr val : Scalar) : Keeps (Reads ldc ds) (joinScalar w rel addr val) := by
  have hR := reads_chain ldc ds
  refine keeps_bind hR (keeps_checkSrc hR addr) fun _ => keeps_bind hR (keeps_checkSrc hR val) fun _ =>
    keeps_bind hR (keeps_readOnce_reads _) fun vs => keeps_bind hR (keeps_useClean hR _) fun ea =>
    keeps_bind hR (keeps_fieldAccess_reads _ _ _) fun l => keeps_bind hR (keeps_check hR _ _ _) fun _ => ?_
  have hjoin : Keeps (Reads ldc ds) (do
      joinCell l ea.toNat w ((nthVal vs 1).bits.toNat % 2 ^ w : Nat) (nthVal vs 1).mark rel
      return Flow.done) := keeps_bind hR (keeps_joinCell _ _ _ _ _ _) fun _ => keeps_pure hR _
  split
  · refine keeps_bind hR (keeps_waitAcks false) fun b => ?_
    split
    · exact keeps_pure hR _
    · exact keeps_bind hR (keeps_deliverPosted hR) fun _ => hjoin
  · exact hjoin

theorem keeps_xjoinScalar (isF rel : Bool) (addr val : Scalar) : Keeps (Reads ldc ds) (xjoinScalar isF rel addr val) := by
  have hR := reads_chain ldc ds
  refine keeps_bind hR (keeps_checkSrc hR addr) fun _ => keeps_bind hR (keeps_checkSrc hR val) fun _ =>
    keeps_bind hR (keeps_readOnce_reads _) fun vs => keeps_bind hR (keeps_useClean hR _) fun ea =>
    keeps_bind hR (keeps_fieldAccess_reads _ _ _) fun l => keeps_bind hR (keeps_check hR _ _ _) fun _ => ?_
  split
  · exact keeps_raise _ _
  case h_2 x _ =>
    have hjoin : Keeps (Reads ldc ds) (do
        joinCell l ea.toNat 128 x (nthVal vs 1).mark rel
        return Flow.done) := keeps_bind hR (keeps_joinCell _ _ _ _ _ _) fun _ => keeps_pure hR _
    split
    · refine keeps_bind hR (keeps_waitAcks false) fun b => ?_
      split
      · exact keeps_pure hR _
      · exact keeps_bind hR (keeps_deliverPosted hR) fun _ => hjoin
    · exact hjoin

theorem keeps_forM {R : State → State → Prop} (hR : Chain R) {β : Type} {f : β → M Unit} (h : ∀ x, Keeps R (f x)) (l : List β) :
    Keeps R (l.forM f) := by
  induction l with
  | nil => exact keeps_pure hR ()
  | cons x l ih => exact keeps_bind hR (h x) fun _ => ih

theorem keeps_offsetLanes {R : State → State → Prop} (hR : Chain R) (m : BitVec 128) (b : Word) (ix : Vec) :
    Keeps R (offsetLanes m b ix) := keeps_bind hR (keeps_check hR _ _ _) fun _ => keeps_pure hR _

theorem keeps_namedVec (x : VSpec) : Keeps (Reads ldc ds) (namedVec x) := by
  have hR := reads_chain ldc ds
  cases x with
  | c p => exact keeps_pure hR none
  | v n => exact keeps_bind hR (keeps_readVec_reads _) fun _ => keeps_pure hR _
  | y a => exact keeps_bind hR (keeps_readVec_reads _) fun _ => keeps_pure hR _

theorem keeps_joinLanes (x : VSpec) (base : Scalar) (ix : VSpec) (refuse : Leaf → Option FaultCode) (w : Nat)
    (operand : Leaf → Word → Option Int) : Keeps (Reads ldc ds) (joinLanes x base ix refuse w operand) := by
  have hR := reads_chain ldc ds
  refine keeps_bind hR (keeps_checkSrc hR base) fun _ => keeps_bind hR (keeps_checkVSrc hR ix) fun _ =>
    keeps_bind hR (keeps_checkVSrc hR x) fun _ => keeps_bind hR (keeps_checkNamed base) fun _ =>
    keeps_bind hR (keeps_checkNamedLanes ix) fun _ => keeps_bind hR (keeps_readClean_reads base) fun _ =>
    keeps_bind hR (keeps_readVec_reads ix) fun _ => keeps_bind hR (keeps_activeLanes hR) fun _ =>
    keeps_bind hR (keeps_offsetLanes hR _ _ _) fun _ => keeps_bind hR (keeps_namedVec x) fun _ =>
    keeps_bind hR (keeps_mapM hR (fun p => ?_) _) fun _ => keeps_bind hR (keeps_readVec_reads x) fun _ =>
    keeps_bind hR (keeps_mapM hR (fun p => ?_) _) fun _ => keeps_bind hR (keeps_forM hR (fun j => keeps_joinCell _ _ _ _ _ _) _) fun _ =>
    keeps_pure hR _
  · exact keeps_bind hR (keeps_fieldAccess_reads _ _ _) fun _ => keeps_bind hR (keeps_check hR _ _ _) fun _ =>
      keeps_bind hR (keeps_check hR _ _ _) fun _ => keeps_pure hR _
  · split
    · exact keeps_raise _ _
    · exact keeps_pure hR _

/-! Lines read. -/

theorem keeps_newRequest : Keeps (Reads ldc ds) newRequest := by
  have hR := reads_chain ldc ds
  exact keeps_bind hR (keeps_modCur_reads (fun _ => rfl) fun _ => rfl) fun _ => keeps_bind hR (keeps_cur hR) fun _ => keeps_pure hR _

theorem keeps_sendHome (l : Leaf) (va : Nat) (b : Body) : Keeps (Reads ldc ds) (sendHome l va b) := by
  have hR := reads_chain ldc ds
  exact keeps_bind hR (keeps_cur hR) fun _ => keeps_modify_freed fun s => freed_send s _

theorem reads_modCore (s : State) (n : Nat) (f : Core → Core) : Reads ldc ds s (s.modCore n f) :=
  (freed_modCore s n f).reads

theorem keeps_fromL1 (l : Leaf) (va : Nat) : Keeps (Reads ldc ds) (fromL1 l va) := by
  have hR := reads_chain ldc ds
  refine fun s => keepsAt_get ?_
  dsimp only
  split
  · exact hR.refl s
  split
  · exact hR.refl s
  refine keeps_bind hR (keeps_choose.mono CachesOnly.reads) (fun held => ?_) s
  split
  · exact keeps_bind hR (keeps_modCur_reads (fun _ => rfl) fun _ => rfl) fun _ => keeps_pure hR _
  · exact keeps_bind hR (keeps_modify_freed fun s => freed_modCore s _ _) fun _ => keeps_pure hR _

theorem keeps_missing (need : List (Leaf × Nat)) : Keeps (Reads ldc ds) (missing need) := by
  have hR := reads_chain ldc ds
  induction need with
  | nil => exact keeps_pure hR []
  | cons x rest ih =>
    have hrest (hit : Bool) : Keeps (Reads ldc ds) (do
        let more ← missing rest
        return if hit then more else x :: more) := keeps_bind hR ih fun _ => keeps_pure hR _
    refine fun s => keepsAt_cur ?_
    dsimp only
    split
    · exact hrest true s
    · exact keeps_bind hR (keeps_fromL1 _ _) (fun hit => hrest hit) s

theorem keeps_obtain (exact : Bool) (need : List (Leaf × Nat)) : Keeps (Reads ldc ds) (obtain exact need) := by
  have hR := reads_chain ldc ds
  refine fun s => keepsAt_get ?_
  dsimp only
  split
  · trivial
  split
  · exact hR.refl s
  refine keeps_bind hR (keeps_missing need) (fun out => ?_) s
  split
  · exact keeps_pure hR _
  split
  · exact keeps_pure hR _
  exact keeps_bind hR keeps_newRequest fun _ => keeps_bind hR (keeps_forM hR (fun x => keeps_sendHome _ _ _) _) fun _ =>
    keeps_pure hR _

theorem reads_mapCtxs (s : State) {f : Context → Context} (hk : ∀ c, (f c).key = c.key) (hr : ∀ c, (f c).regs = c.regs) :
    Reads ldc ds s (s.mapCtxs f) := by
  refine reads_of_shape rfl ?_ ?_ <;>
  · rw [State.mapCtxs]
    dsimp only
    split
    · simp only [hk, hr]
    · rfl

theorem reads_l1Drop (s : State) (core line : Nat) : Reads ldc ds s (s.l1Drop core line) := reads_modCore s core _

theorem reads_l1Put (s : State) (core : Nat) (x : L1Line) : Reads ldc ds s (s.l1Put core x) :=
  (reads_chain ldc ds).trans (reads_l1Drop s core x.snap.line) (reads_modCore _ core _)

theorem reads_spoilRead (s : State) (line : Nat) : Reads ldc ds s (s.spoilRead line) := by
  refine reads_mapCtxs s (fun c => ?_) fun c => ?_ <;>
  · split <;> rfl

theorem keeps_obtained (l : Leaf) (va : Nat) : Keeps (Reads ldc ds) (obtained l va) := by
  have hR := reads_chain ldc ds
  refine fun s => keepsAt_cur ?_
  split
  · refine keeps_bind hR (fun u => ?_) (fun _ => keeps_pure hR _) s
    refine hR.trans ?_ (reads_spoilRead _ _)
    split
    · exact reads_l1Put u _ _
    · exact reads_l1Drop u _ _
  · exact hR.refl s

theorem reads_replicas {rs : List Replica} {cs : List Bool} : Reads ldc ds s { s with replicas := rs, choices := cs } :=
  reads_of_shape rfl rfl rfl

theorem keeps_gateRead (core : Nat) (asid : BitVec 12) (key va : Nat) (gen : BitVec 8) (ok : LineSnap → Bool) :
    Keeps (Reads ldc ds) (gateRead core asid key va gen ok) := by
  have hR := reads_chain ldc ds
  refine fun s => keepsAt_get ?_
  split
  · exact hR.refl s
  split
  · exact hR.refl s
  refine keeps_bind hR (keeps_choose.mono CachesOnly.reads) (fun b => ?_) s
  split
  · exact keeps_bind hR (fun u => reads_replicas) fun _ => keeps_pure hR _
  split
  · exact keeps_bind hR (fun u => reads_replicas) fun _ => keeps_pure hR _
  · exact keeps_pure hR _

theorem reads_leaveReplica (s : State) (core : Nat) (asid : BitVec 12) (key va ty : Nat) (gen : BitVec 8) :
    Reads ldc ds s (s.leaveReplica core asid key va ty gen) := by
  rw [State.leaveReplica]
  split
  · exact (reads_chain ldc ds).refl s
  rw [State.refreshBy]
  split
  · exact reads_replicas
  obtain ⟨b, cs, h⟩ : ∃ b cs, s.chooseNow = (b, { s with choices := cs }) := by
    rw [State.chooseNow]
    split
    · exact ⟨true, s.choices, rfl⟩
    · exact ⟨_, _, rfl⟩
  rw [h]
  dsimp only
  split
  · exact reads_replicas
  · exact reads_replicas

theorem keeps_stackBytes (core : Nat) (asid : BitVec 12) (pa n va : Nat) : Keeps (Reads ldc ds) (stackBytes core asid pa n va) := by
  have hR := reads_chain ldc ds
  have hrest {f : State → State} (hf : ∀ s, Reads ldc ds s (f s)) (x : Option LineSnap) : Keeps (Reads ldc ds) (match x with
      | some x => return (x.bytes (pa % 128) n, x.markBits (pa % 128) n)
      | none => do
        modify f
        return ((← get).mem.readN pa n, (← get).mem.markBits pa n)) := by
    split
    · exact keeps_pure hR _
    · exact keeps_bind hR (fun s => hf s) fun _ s => keepsAt_get (keepsAt_get (hR.refl s))
  unfold stackBytes
  dsimp only
  by_cases hfits : pa % 128 + n ≤ 128
  · simp only [hfits, decide_true, if_true]
    exact keeps_bind hR (keeps_gateRead _ _ _ _ _ _) fun x => hrest (fun s => reads_leaveReplica s core asid pa va 0 0) x
  · simp only [hfits, decide_false, if_false]
    exact keeps_bind hR (keeps_pure hR none) fun x => hrest (fun s => hR.refl s) x

theorem keeps_orRaise {R : State → State → Prop} (hR : Chain R) {α : Type} (x : Except FaultInfo α) : Keeps R (orRaise x) := by
  cases x with
  | ok a => exact keeps_pure hR a
  | error f => exact fun _ => trivial

theorem keeps_steerFor (c : Context) (kind : AccessKind) (n va : Nat) : Keeps CachesOnly (steerFor c kind n va) := by
  have hR := cachesOnly_chain
  refine fun s => keepsAt_get ?_
  dsimp only
  split
  · exact hR.refl s
  split
  · exact hR.refl s
  · exact hR.refl s
  · refine keeps_bind hR (keeps_tryTranslate _ _ _ _ _) (fun x => ?_) s
    split
    · exact keeps_pure hR _
    · exact keeps_pure hR _
  · split
    · exact hR.refl s
    split <;> exact hR.refl s
  · split
    · exact hR.refl s
    split
    · exact hR.refl s
    split <;> exact hR.refl s
  · split <;> exact hR.refl s
  · split <;> exact hR.refl s

theorem keeps_steer (kind : AccessKind) (n va : Nat) : Keeps CachesOnly (steer kind n va) := by
  have hR := cachesOnly_chain
  refine fun s => keepsAt_get (keeps_bind hR (keeps_steerFor _ _ _ _) (fun p => ?_) s)
  split
  · split
    · exact fun _ => trivial
    · exact keeps_orRaise hR _
  · exact keeps_orRaise hR _

theorem keeps_access (kind : AccessKind) (n va : Nat) : Keeps CachesOnly (access kind n va) := by
  have hR := cachesOnly_chain
  refine keeps_bind hR (keeps_steer _ _ _) fun p => ?_
  split
  · refine fun s => keepsAt_cur (keeps_bind hR (keeps_orRaise hR _) (fun _ => ?_) s)
    split
    · exact fun _ => trivial
    · exact keeps_pure hR _
  · exact keeps_pure hR _

theorem keeps_placeWaits {R : State → State → Prop} (hR : Chain R) (kind : AccessKind) (p : Place) (n : Nat) :
    Keeps R (placeWaits kind p n) := by
  refine fun s => keepsAt_get ?_
  cases p <;> exact hR.refl s

theorem keeps_readPlace (p : Place) (n va : Nat) : Keeps (Reads ldc ds) (readPlace p n va) := by
  have hR := reads_chain ldc ds
  refine fun s => keepsAt_get ?_
  cases p with
  | page l =>
    dsimp only
    split
    · exact hR.refl s
    refine keeps_bind hR (keeps_obtain false _) (fun b => ?_) s
    split
    · exact keeps_bind hR (keeps_obtained l va) fun _ => keeps_pure hR _
    · exact keeps_pure hR _
  | stack pa =>
    dsimp only
    split
    · trivial
    · exact keeps_bind hR (keeps_stackBytes _ _ _ _ _) (fun _ => keeps_pure hR _) s
  | slice o => exact hR.refl s
  | chip core off => exact keeps_bind hR (keeps_orRaise hR _) (fun _ => keeps_pure hR _) s
  | device off => exact keeps_bind hR (keeps_orRaise hR _) (fun _ => keeps_pure hR _) s

theorem keeps_loadScalar {data : Scalar} (h : Dest.scalar data ∈ ds) (base : Scalar) (size : Fin 4) (off : BitVec 11)
    (ext : Nat → Nat → Word) : Keeps (Reads ldc ds) (loadScalar data base size off ext) := by
  have hR := reads_chain ldc ds
  refine keeps_bind hR (keeps_checkSrc hR base) fun _ => keeps_bind hR (keeps_checkDst hR data) fun _ =>
    keeps_bind hR (keeps_readOnce_reads _) fun vs => keeps_bind hR (keeps_useClean hR _) fun b =>
    keeps_bind hR (keeps_check hR _ _ _) fun _ => keeps_bind hR ((keeps_access _ _ _).mono CachesOnly.reads) fun p =>
    keeps_bind hR (keeps_placeWaits hR _ _ _) fun w => ?_
  split
  · exact keeps_pure hR _
  refine keeps_bind hR (keeps_readPlace _ _ _) fun r => ?_
  split
  · exact keeps_pure hR _
  · exact keeps_bind hR (keeps_writeScalar_reads h _) fun _ => keeps_pure hR _

theorem keeps_loadExact {d : Scalar} (h : Dest.scalar d ∈ ds) (n : Nat) (addr : Scalar) :
    Keeps (Reads ldc ds) (loadExact n d addr) := by
  have hR := reads_chain ldc ds
  refine keeps_bind hR (keeps_checkSrc hR addr) fun _ => keeps_bind hR (keeps_checkDst hR d) fun _ =>
    keeps_bind hR (keeps_readOnce_reads _) fun vs => keeps_bind hR (keeps_useClean hR _) fun ea =>
    keeps_bind hR (keeps_fieldAccess_reads _ _ _) fun l => keeps_bind hR (keeps_check hR _ _ _) fun _ =>
    keeps_bind hR (keeps_obtain true _) fun b => ?_
  split
  · exact keeps_bind hR (keeps_obtained _ _) fun _ => keeps_bind hR (keeps_writeScalar_reads h _) fun _ => keeps_pure hR _
  · exact keeps_pure hR _

/-! Constants. -/

theorem reads_countAt {cnt : Bool} {key : Nat} {va : Word} {asid : BitVec 12} :
    Reads true ds s (s.countAt cnt key va asid) := by
  have hform := (homeOnly_countAt s cnt key va asid).2.1
  have hquiet : s.bar1.notifybase = 0 → (s.countAt cnt key va asid).mem = s.mem := by
    intro hq
    rw [State.countAt]
    split
    · dsimp only
      split
      · split
        · rw [State.notify, if_pos (by exact congrArg BitVec.toNat hq)]
          rfl
        · rfl
      · rfl
    · rfl
  obtain ⟨m, cs, h⟩ := s.countAt_eq cnt key va asid
  rw [h] at hform hquiet ⊢
  exact ⟨rfl, rfl, .refl ds _, rfl, nofun, hquiet, hform⟩

theorem keeps_readFrozen (core : Nat) (asid : BitVec 12) (l : Leaf) (va : Nat) :
    Keeps (Reads true ds) (readFrozen core asid l va) := by
  have hR := reads_chain true ds
  refine keeps_bind hR (keeps_gateRead _ _ _ _ _ _) fun x => ?_
  split
  · exact keeps_pure hR _
  refine fun s => keepsAt_get ?_
  split
  · exact hR.refl s
  refine keepsAt_set hR ?_ (hR.refl _)
  split
  · exact hR.trans reads_countAt (reads_leaveReplica ..)
  · exact reads_countAt

theorem keeps_readConst (l : Leaf) (e : Word) : Keeps (Reads true ds) (readConst l e) := by
  have hR := reads_chain true ds
  refine fun s => keepsAt_cur (keeps_bind hR (keeps_readFrozen _ _ _ _) (fun x => ?_) s)
  split
  · exact fun s => keepsAt_get trivial
  split
  · exact fun s => hR.refl s
  split
  · exact fun s => hR.refl s
  · exact keeps_pure hR _

/-! Waits. -/

theorem keeps_goBehind (drain : State → Held → Bool) (at_ : Nat → Bool) : Keeps (Reads ldc ds) (goBehind drain at_) := by
  have hR := reads_chain ldc ds
  exact keeps_bind hR (keeps_cur hR) fun c => keeps_bind hR (keeps_modify_freed fun s => freed_drainHeld s c.core _) fun _ s =>
    reads_of_shape (t := { s with cur := { s.cur with phase := 1, ahead := s.outsOf c.core (fun o => !o.store && at_ o.line) } })
      rfl rfl rfl

theorem keeps_sendTest (l : Leaf) (va : Nat) (k : TestKind) : Keeps (Reads ldc ds) (sendTest l va k) := by
  have hR := reads_chain ldc ds
  have hbehind : Keeps (Reads ldc ds) behindAll := fun s => keepsAt_get (hR.refl s)
  refine keeps_bind hR (fun s => keepsAt_cur ?_) fun b => ?_
  · split
    · exact keeps_bind hR (keeps_goBehind _ _) (fun _ => hbehind) s
    · exact hbehind s
  · split
    · exact keeps_bind hR keeps_newRequest fun _ => keeps_bind hR (keeps_sendHome _ _ _) fun _ => keeps_pure hR _
    · exact keeps_pure hR _

theorem reads_acquireL1 (s : State) (core : Nat) : Reads ldc ds s (s.acquireL1 core) := by
  refine (reads_chain ldc ds).trans (reads_modCore s core _) (reads_mapCtxs _ (fun c => ?_) fun c => ?_) <;>
  · split
    · rw [Context.spoilL1]
      split <;> rfl
    · rfl

theorem keeps_passedOr {R : State → State → Prop} (hR : Chain R) (ea : Word) (r : TestResult) : Keeps R (passedOr ea r) := by
  cases r with
  | passed i first => exact keeps_pure hR _
  | lost code => exact fun s => keepsAt_get (keepsAt_cur trivial)
  | _ => exact keeps_raise _ _

theorem keeps_endWait {d : Scalar} (h : Dest.scalar d ∈ ds) (ea : Word) (mark : Bool) (r : TestResult) (pick : Nat → Word → Word) :
    Keeps (Reads ldc ds) (endWait d ea mark r pick) := by
  have hR := reads_chain ldc ds
  have hacquire : Keeps (Reads ldc ds) acquire := keeps_bind hR (keeps_cur hR) fun c s => reads_acquireL1 s c.core
  exact keeps_bind hR (keeps_passedOr hR ea r) fun _ => keeps_bind hR (keeps_writeScalar_reads h _) fun _ =>
    keeps_bind hR hacquire fun _ => keeps_pure hR _

theorem keeps_waitReply {R : State → State → Prop} (hR : Chain R) : Keeps R waitReply := fun s => keepsAt_get (hR.refl s)

theorem keeps_startWait (l : Leaf) (ea : Word) (k : TestKind) : Keeps (Reads ldc ds) (startWait l ea k) := by
  have hR := reads_chain ldc ds
  refine keeps_bind hR (keeps_waitAcks false) fun b => ?_
  split
  · exact keeps_pure hR _
  refine keeps_bind hR (keeps_deliverPosted hR) fun _ => keeps_bind hR (keeps_sendTest _ _ _) fun b => ?_
  split
  · exact keeps_waitReply hR
  · exact keeps_pure hR _

theorem keeps_awaitCell {d : Scalar} (h : Dest.scalar d ∈ ds) (addr trig : Scalar) : Keeps (Reads ldc ds) (awaitCell d addr trig) := by
  have hR := reads_chain ldc ds
  refine keeps_bind hR (keeps_checkSrc hR addr) fun _ => keeps_bind hR (keeps_checkSrc hR trig) fun _ =>
    keeps_bind hR (keeps_checkDst hR d) fun _ => keeps_bind hR (keeps_readOnce_reads _) fun vs =>
    keeps_bind hR (keeps_useClean hR _) fun ea => keeps_bind hR (keeps_cur hR) fun c => ?_
  split
  · exact keeps_endWait h _ _ _ _
  split
  · exact keeps_bind hR (keeps_waitReply hR) fun _ => keeps_pure hR _
  · exact keeps_bind hR (keeps_fieldAccess_reads _ _ _) fun l => keeps_bind hR (keeps_check hR _ _ _) fun _ => keeps_startWait _ _ _

theorem keeps_awaitFilledCell {d : Scalar} (h : Dest.scalar d ∈ ds) (addr : Scalar) :
    Keeps (Reads ldc ds) (awaitFilledCell d addr) := by
  have hR := reads_chain ldc ds
  refine keeps_bind hR (keeps_checkSrc hR addr) fun _ =>
    keeps_bind hR (keeps_checkDst hR d) fun _ => keeps_bind hR (keeps_readOnce_reads _) fun vs =>
    keeps_bind hR (keeps_useClean hR _) fun ea => keeps_bind hR (keeps_cur hR) fun c => ?_
  split
  · exact keeps_endWait h _ _ _ _
  split
  · exact keeps_bind hR (keeps_waitReply hR) fun _ => keeps_pure hR _
  · exact keeps_bind hR (keeps_fieldAccess_reads _ _ _) fun l => keeps_bind hR (keeps_check hR _ _ _) fun _ => keeps_startWait _ _ _

theorem keeps_readTriggers {R : State → State → Prop} (hR : Chain R) (list ea : Word) : Keeps R (readTriggers list ea) := by
  refine keeps_bind hR (keeps_check hR _ _ _) fun _ => keeps_bind hR (keeps_check hR _ _ _) fun _ s => keepsAt_get ?_
  refine keeps_bind hR (keeps_check hR _ _ _) (fun _ => ?_) s
  split
  · exact fun _ => trivial
  · exact keeps_bind hR (keeps_check hR _ _ _) fun _ => keeps_bind hR (keeps_check hR _ _ _) fun _ =>
      keeps_bind hR (keeps_check hR _ _ _) fun _ => keeps_pure hR _

theorem keeps_awaitAnyCell {d : Scalar} (h : Dest.scalar d ∈ ds) (addr list : Scalar) :
    Keeps (Reads ldc ds) (awaitAnyCell d addr list) := by
  have hR := reads_chain ldc ds
  refine keeps_bind hR (keeps_checkSrc hR addr) fun _ => keeps_bind hR (keeps_checkSrc hR list) fun _ =>
    keeps_bind hR (keeps_checkDst hR d) fun _ => keeps_bind hR (keeps_readOnce_reads _) fun vs =>
    keeps_bind hR (keeps_useClean hR _) fun ea => keeps_bind hR (keeps_useClean hR _) fun lw =>
    keeps_bind hR (keeps_cur hR) fun c => ?_
  split
  · exact keeps_endWait h _ _ _ _
  split
  · exact keeps_bind hR (keeps_waitReply hR) fun _ => keeps_pure hR _
  have hrest (ts : List Val) : Keeps (Reads ldc ds) (do
      modCur fun c => { c with operands := some (vs.take 2 ++ ts) }
      let l ← fieldAccess .read (fun l =>
        if l.ty = 1 then none else if fieldType l.ty then some .triggerSet else some .badType) ea
      check (decide (ea.toNat % 8 = 0)) .address ea
      startWait l ea (.any (ts.map Val.bits))) := by
    refine keeps_bind hR ?_ fun _ => keeps_bind hR (keeps_fieldAccess_reads _ _ _) fun l =>
      keeps_bind hR (keeps_check hR _ _ _) fun _ => keeps_startWait _ _ _
    exact keeps_modCur_reads (fun _ => rfl) fun _ => rfl
  split
  · exact keeps_bind hR (keeps_readTriggers hR _ _) fun ts => hrest ts
  · exact hrest _

/-! Vector loads. -/

theorem keeps_vecPiece (kind : AccessKind) (n va : Nat) : Keeps CachesOnly (vecPiece kind n va) := by
  have hR := cachesOnly_chain
  refine keeps_bind hR (keeps_steer _ _ _) fun p => ?_
  split
  · refine fun s => keepsAt_cur (keeps_bind hR (keeps_orRaise hR _) (fun _ => ?_) s)
    split
    · exact fun _ => trivial
    · exact keeps_pure hR _
  · exact keeps_pure hR _

theorem keeps_blockPiece (kind : AccessKind) (n va : Nat) : Keeps CachesOnly (blockPiece kind n va) := by
  intro s
  have h := keeps_vecPiece kind n va s
  rw [KeepsAt] at h ⊢
  rw [blockPiece]
  split
  · trivial
  · exact h

theorem keeps_vecPieces (kind : AccessKind) (block : Bool) (n va : Nat) : Keeps CachesOnly (vecPieces kind block n va) := by
  have hR := cachesOnly_chain
  have hpieces : Keeps CachesOnly (
      let first := 4096 - va % 4096
      if windowOf va == .global && decide (first < n) then do
        let p ← blockPiece kind first va
        let q ← blockPiece kind (n - first) (va + first)
        return [p, q]
      else if windowOf va == .global && block then do return [← blockPiece kind n va]
      else do return [← vecPiece kind n va]) := by
    dsimp only
    split
    · exact keeps_bind hR (keeps_blockPiece _ _ _) fun _ => keeps_bind hR (keeps_blockPiece _ _ _) fun _ => keeps_pure hR _
    split
    · exact keeps_bind hR (keeps_blockPiece _ _ _) fun _ => keeps_pure hR _
    · exact keeps_bind hR (keeps_vecPiece _ _ _) fun _ => keeps_pure hR _
  refine keeps_bind hR (keeps_check hR _ _ _) fun _ => keeps_bind hR (keeps_check hR _ _ _) fun _ =>
    keeps_bind hR (keeps_cur hR) fun c => ?_
  dsimp only
  split
  · exact keeps_bind hR (keeps_raise _ _) fun _ => hpieces
  · exact hpieces

theorem keeps_lanePieces (kind : AccessKind) (lanes : List (Nat × Nat)) : Keeps CachesOnly (lanePieces kind lanes) :=
  keeps_bind cachesOnly_chain (keeps_mapM cachesOnly_chain (fun _ => keeps_vecPieces kind false 4 _) lanes) fun _ =>
    keeps_pure cachesOnly_chain _

theorem keeps_piecesWait {R : State → State → Prop} (hR : Chain R) (kind : AccessKind) (ps : List Piece) :
    Keeps R (piecesWait kind ps) := by
  rw [piecesWait]
  induction ps with
  | nil => exact keeps_pure hR false
  | cons p ps ih =>
    rw [List.anyM_cons]
    refine keeps_bind hR (keeps_placeWaits hR _ _ _) fun b => ?_
    split
    · exact keeps_pure hR true
    · exact ih

theorem keeps_readLanes (ps : List Piece) (lanes : List (Nat × Nat)) : Keeps (Reads ldc ds) (readLanes ps lanes) := by
  have hR := reads_chain ldc ds
  refine keeps_bind hR (keeps_obtain false _) fun b => ?_
  split
  · exact keeps_pure hR _
  refine keeps_bind hR (keeps_mapM hR (fun p => ?_) _) fun chip => keeps_bind hR (keeps_mapM hR (fun x => ?_) _) fun _ =>
    keeps_pure hR _
  · split
    · exact fun s => keepsAt_get (keeps_bind hR (keeps_orRaise hR _) (fun _ => keeps_pure hR _) s)
    · exact keeps_pure hR _
  · split
    · exact keeps_pure hR _
    split
    · split <;> exact keeps_pure hR _
    · exact fun s => keepsAt_get (hR.refl s)
    all_goals
      refine keeps_bind hR (keeps_readPlace _ _ _) fun d => ?_
      split <;> exact keeps_pure hR _

theorem keeps_finishLoad {d : VSpec} (h : Dest.vector d ∈ ds) (ps : List Piece) (lanes : List (Nat × Nat)) :
    Keeps (Reads ldc ds) (finishLoad d ps lanes) := by
  have hR := reads_chain ldc ds
  refine keeps_bind hR (keeps_piecesWait hR _ _) fun b => ?_
  split
  · exact keeps_pure hR _
  refine keeps_bind hR (keeps_readLanes _ _) fun r => ?_
  split
  · exact keeps_pure hR _
  · exact keeps_bind hR (keeps_writeVec_reads h _) fun _ => keeps_pure hR _

theorem keeps_blockAddr {R : State → State → Prop} (hR : Chain R) (vs : List Val) : Keeps R (blockAddr vs) :=
  keeps_bind hR (keeps_useClean hR _) fun _ => keeps_bind hR (keeps_useClean hR _) fun _ => keeps_pure hR _

theorem keeps_vaccTile {R : State → State → Prop} (hR : Chain R) (tile : Fin 16) (reads : Bool) : Keeps R (vaccTile tile reads) :=
  keeps_bind hR (keeps_cur hR) fun _ => keeps_bind hR (keeps_check hR _ _ _) fun _ => keeps_bind hR (keeps_check hR _ _ _) fun _ =>
    keeps_check hR _ _ _

theorem keeps_vaccChunk (tile : Fin 16) (k : Scalar) (reads : Bool) : Keeps (Reads ldc ds) (vaccChunk tile k reads) := by
  have hR := reads_chain ldc ds
  have hindex : Keeps (Reads ldc ds) (vaccIndex k) :=
    keeps_bind hR (keeps_readClean_reads k) fun _ => keeps_bind hR (keeps_check hR _ _ _) fun _ => keeps_pure hR _
  have hrest (n : Nat) : Keeps (Reads ldc ds) (do if (← cur).tileWaits tile.val then throw .stall else pure n) := by
    refine fun s => keepsAt_cur ?_
    split
    · trivial
    · exact hR.refl s
  cases k with
  | c p => exact keeps_bind hR (keeps_vaccTile hR _ _) fun _ => keeps_bind hR hindex fun n => hrest n
  | _ => exact keeps_bind hR hindex fun n => keeps_bind hR (keeps_vaccTile hR _ _) fun _ => hrest n

end
end Sys2Proof.Machine
end

section
/-! PROOFS. The frames of register instructions and of those that read or join (O37). -/
namespace Sys2Proof.Machine
open Sys2Proof.Claims

/-- Whether it is LDC. -/
def isLdc : Instr → Bool
  | .ldc .. => true
  | _ => false

/-- The effect of VLD. -/
def vldBody (d : VSpec) (base off : Scalar) : M Flow := do
  checkSrc base
  checkSrc off
  checkVDst d
  checkNamed base
  checkNamed off
  let va ← blockAddr (← readOnce [base, off])
  let ps ← vecPieces .read true 512 va
  finishLoad d ps ((laneList (← activeLanes)).map (fun l => (l, va + 4 * l)))

theorem keeps_vld {ldc : Bool} {ds : List Dest} {d : VSpec} (h : Dest.vector d ∈ ds) (base off : Scalar) :
    Keeps (Reads ldc ds) (vldBody d base off) := by
  have hR := reads_chain ldc ds
  have hps (n va : Nat) : Keeps (Reads ldc ds) (vecPieces .read true n va) :=
    (keeps_vecPieces .read true n va).mono CachesOnly.reads
  have hload (n : Nat) : Keeps (Reads ldc ds) (do
      let va ← blockAddr (← readOnce [base, off])
      let ps ← vecPieces .read true n va
      finishLoad d ps ((laneList (← activeLanes)).map (fun l => (l, va + 4 * l)))) :=
    keeps_bind hR (keeps_readOnce_reads _) fun _ => keeps_bind hR (keeps_blockAddr hR _) fun va => keeps_bind hR (hps n va) fun _ =>
      keeps_bind hR (keeps_activeLanes hR) fun _ => keeps_finishLoad h _ _
  exact keeps_bind hR (keeps_checkSrc hR base) fun _ => keeps_bind hR (keeps_checkSrc hR off) fun _ =>
    keeps_bind hR (keeps_checkVDst hR d) fun _ => keeps_bind hR (keeps_checkNamed base) fun _ =>
    keeps_bind hR (keeps_checkNamed off) fun _ => hload 512

/-- Every load, exact read, wait and join is issued with a reading effect. -/
theorem readingBody (i : Instr) (h : readsOrJoins i = true) :
    ∃ body, (∀ s, exec i s = issue i body s) ∧ Keeps (Reads (isLdc i) i.dests) body := by
  have hR (b : Bool) (ds : List Dest) : Chain (Reads b ds) := reads_chain b ds
  have hd {d : Dest} : d ∈ [d] := List.mem_singleton_self d
  cases i with
  | ldc d imm =>
    refine ⟨_, fun _ => rfl, keeps_bind (hR _ _) (keeps_checkDst (hR _ _) d) fun _ => keeps_bind (hR _ _) (keeps_cur (hR _ _)) fun _ =>
      keeps_bind (hR _ _) (keeps_check (hR _ _) _ _ _) fun _ =>
      keeps_bind (hR _ _) ((keeps_translate _ _).mono CachesOnly.reads) fun _ =>
      keeps_bind (hR _ _) (keeps_check (hR _ _) _ _ _) fun _ => keeps_bind (hR _ _) (keeps_readConst _ _) fun _ =>
      keeps_bind (hR _ _) (keeps_writeScalar_reads hd _) fun _ => keeps_pure (hR _ _) _⟩
  | ld | ldz => exact ⟨_, fun _ => rfl, keeps_loadScalar hd _ _ _ _⟩
  | ldxW | ldxD => exact ⟨_, fun _ => rfl, keeps_loadExact hd _ _⟩
  | await => exact ⟨_, fun _ => rfl, keeps_awaitCell hd _ _⟩
  | awaitAny => exact ⟨_, fun _ => rfl, keeps_awaitAnyCell hd _ _⟩
  | awaitFilled => exact ⟨_, fun _ => rfl, keeps_awaitFilledCell hd _⟩
  | joinH | joinW | joinD | joinHRel | joinWRel | joinDRel => exact ⟨_, fun _ => rfl, keeps_joinScalar _ _ _ _⟩
  | xjoinF | xjoinI | xjoinFRel | xjoinIRel => exact ⟨_, fun _ => rfl, keeps_xjoinScalar _ _ _ _⟩
  | vjoin | vxjoin => exact ⟨_, fun _ => rfl, keeps_joinLanes _ _ _ _ _ _⟩
  | vld d base off => exact ⟨vldBody d base off, fun _ => rfl, keeps_vld hd base off⟩
  | vldb d base off =>
    exact ⟨_, fun _ => rfl, keeps_bind (hR _ _) (keeps_checkSrc (hR _ _) base) fun _ =>
      keeps_bind (hR _ _) (keeps_checkSrc (hR _ _) off) fun _ => keeps_bind (hR _ _) (keeps_checkVDst (hR _ _) d) fun _ =>
      keeps_bind (hR _ _) (keeps_checkNamed base) fun _ => keeps_bind (hR _ _) (keeps_checkNamed off) fun _ =>
      keeps_bind (hR _ _) (keeps_readOnce_reads _) fun _ => keeps_bind (hR _ _) (keeps_blockAddr (hR _ _) _) fun _ =>
      keeps_bind (hR _ _) ((keeps_vecPieces _ _ _ _).mono CachesOnly.reads) fun ps =>
      keeps_finishLoad hd _ _⟩
  | vlds d base stride =>
    exact ⟨_, fun _ => rfl, keeps_bind (hR _ _) (keeps_checkSrc (hR _ _) base) fun _ =>
      keeps_bind (hR _ _) (keeps_checkSrc (hR _ _) stride) fun _ => keeps_bind (hR _ _) (keeps_checkVDst (hR _ _) d) fun _ =>
      keeps_bind (hR _ _) (keeps_checkNamed base) fun _ => keeps_bind (hR _ _) (keeps_checkNamed stride) fun _ =>
      keeps_bind (hR _ _) (keeps_readOnce_reads _) fun _ => keeps_bind (hR _ _) (keeps_useClean (hR _ _) _) fun _ =>
      keeps_bind (hR _ _) (keeps_useClean (hR _ _) _) fun _ => keeps_bind (hR _ _) (keeps_activeLanes (hR _ _)) fun _ =>
      keeps_bind (hR _ _) ((keeps_lanePieces _ _).mono CachesOnly.reads) fun _ => keeps_finishLoad hd _ _⟩
  | vgather d base ix =>
    exact ⟨_, fun _ => rfl, keeps_bind (hR _ _) (keeps_checkSrc (hR _ _) base) fun _ =>
      keeps_bind (hR _ _) (keeps_checkVSrc (hR _ _) ix) fun _ => keeps_bind (hR _ _) (keeps_checkVDst (hR _ _) d) fun _ =>
      keeps_bind (hR _ _) (keeps_checkNamed base) fun _ => keeps_bind (hR _ _) (keeps_checkNamedLanes ix) fun _ =>
      keeps_bind (hR _ _) (keeps_readOnce_reads _) fun _ => keeps_bind (hR _ _) (keeps_readVecOnce ix) fun _ =>
      keeps_bind (hR _ _) (keeps_useClean (hR _ _) _) fun _ => keeps_bind (hR _ _) (keeps_activeLanes (hR _ _)) fun _ =>
      keeps_bind (hR _ _) (keeps_offsetLanes (hR _ _) _ _ _) fun _ =>
      keeps_bind (hR _ _) ((keeps_lanePieces _ _).mono CachesOnly.reads) fun _ => keeps_finishLoad hd _ _⟩
  | vlda d tile k =>
    exact ⟨_, fun _ => rfl, keeps_bind (hR _ _) (keeps_checkSrc (hR _ _) k) fun _ =>
      keeps_bind (hR _ _) (keeps_checkVDst (hR _ _) d) fun _ => keeps_bind (hR _ _) (keeps_vaccChunk _ _ _) fun _ s =>
      keepsAt_get (keeps_bind (hR _ _) (keeps_writeVec_reads hd _) (fun _ => keeps_pure (hR _ _) _) s)⟩
  | _ => exact absurd h (by nofun)

/-! Register instructions. -/

section
variable {i : Instr} {s t : State}

theorem registerStep_of_ends {fl : Bool} (hrun : s.cur.status = .running)
    (h : EndsKeeping (RegisterOnly i.dests fl) i s t) (hbusy : t.busy = true) : RegisterStep i.dests fl s t := by
  have hR := registerStep_chain i.dests fl
  cases h with
  | settled f u hu => exact hR.trans (hu.step hrun) (settle_registerStep (hu.running hrun) hbusy)
  | off =>
    obtain ⟨hregs, hstatus, hshape⟩ := pushZeros_frame i.dests s.cur
    have hzeros : RegisterOnly i.dests fl s { s with cur := pushZeros i.dests s.cur } :=
      ⟨rfl, rfl, hshape.trans (by rw [hshape]), fun hr => by rw [hshape]; exact hr, hregs, by rw [hstatus]; exact .refl fl _⟩
    exact hR.trans (hzeros.step hrun) (settle_registerStep (hzeros.running hrun) hbusy)
  | fault pc f u hu =>
    rw [takeFaultAt_busy pc f u hbusy]
    exact hR.trans (hu.step hrun) (registerStep_stalled u)
  | delivered f n hn =>
    rw [takeFault, (takeFaultAt_stops ((n.mark_recordsFull s f).trans hn)).1] at hbusy
    exact absurd hbusy Bool.false_ne_true
  | parks w => nomatch hbusy
  | stalls => exact registerStep_stalled s

/-! What ends an instruction, or takes its fault, changes besides its effect. -/

/-- Only contexts, what leaves the cores' buffers, and the core's progress differ. -/
def SettledOnly (s t : State) : Prop :=
  t = { s with cur := t.cur, busy := t.busy, ctxs := t.ctxs, cores := t.cores, msgs := t.msgs, nextMsg := t.nextMsg
               nextSeq := t.nextSeq, stalled := t.stalled }

theorem settledOnly_chain : Chain SettledOnly := ⟨fun _ => rfl, fun h h' => h'.trans (by rw [h])⟩

theorem State.Freed.settledOnly (h : s.Freed t) : SettledOnly s t := by
  obtain ⟨cur, ctxs, cores, msgs, n, rfl, -⟩ := h
  rfl

theorem settledOnly_completed (s : State) (c : Context) : SettledOnly s (s.completed c) := by
  obtain ⟨ctxs, n, h⟩ := completed_eq s c
  rw [h]
  rfl

theorem settledOnly_settle (len : Nat) (c0 : Context) (f : Flow) (s : State) : SettledOnly s (settle len c0 f s) := by
  have hR := settledOnly_chain
  cases f with
  | done => exact settledOnly_completed s _
  | guarded g l => rfl
  | transfer next toTarget taken => rfl
  | park w => rfl
  | stall => rfl
  | yield => exact hR.trans (settledOnly_completed s (s.cur.finish len)) rfl
  | trap kind arg =>
    exact hR.trans (settledOnly_completed s (s.cur.finish len)) (hR.trans (by rw [State.leave]; rfl) (freed_drainHeld _ _ _).settledOnly)
  | ended =>
    obtain ⟨st, ctxs, n, h⟩ := releaseSlots_eq s c0.key
    rw [settle, h]
    rfl

/-- Besides what settling changes, a fault taken changes its records, where they stand in memory, and the channels whose items
go back. -/
def FaultedOnly (s t : State) : Prop :=
  t = { s with cur := t.cur, busy := t.busy, ctxs := t.ctxs, cores := t.cores, msgs := t.msgs, nextMsg := t.nextMsg
               nextSeq := t.nextSeq, stalled := t.stalled, mem := t.mem, records := t.records, chans := t.chans }

theorem faultedOnly_chain : Chain FaultedOnly := ⟨fun _ => rfl, fun h h' => h'.trans (by rw [h])⟩

theorem SettledOnly.faultedOnly (h : SettledOnly s t) : FaultedOnly s t := h.trans (by rw [h])

theorem faultedOnly_takeFaultAt (pc : CodeAddr) (f : FaultInfo) (s : State) : FaultedOnly s (takeFaultAt pc f s) := by
  have hR := faultedOnly_chain
  rw [takeFaultAt_eq]
  split
  · rfl
  obtain ⟨u, hu⟩ : ∃ u, u = (s.openRecord s.cur.key pc f).1 := ⟨_, rfl⟩
  have hopen : FaultedOnly s u := by
    have h := recordsOnly_openRecord s s.cur.key pc f
    rw [← hu] at h
    exact h.trans (by rw [h])
  obtain ⟨cs, hput⟩ := putBack_eq u s.cur.taken
  rw [← hu, hput]
  exact hR.trans hopen (hR.trans (by rw [State.leave]; rfl) (freed_drainHeld _ _ _).settledOnly.faultedOnly)

/-- An instruction settled on its core changes the PC and ICOUNT of its registers. -/
theorem settle_regs {ds : List Dest} {len : Nat} {c0 : Context} {f : Flow} (h : (settle len c0 f s).busy = true) :
    RegsFrame ds s.cur.regs (settle len c0 f s).cur.regs ∧ (settle len c0 f s).cur.regs.status = s.cur.regs.status := by
  cases f with
  | done => exact ⟨finish_frame s.cur len, rfl⟩
  | guarded g l => exact ⟨finish_frame s.cur len, rfl⟩
  | transfer next toTarget taken => exact ⟨finish_frame s.cur len, rfl⟩
  | park w => nomatch h
  | stall => exact ⟨.refl ds _, rfl⟩
  | yield => nomatch h
  | trap kind arg =>
    rw [settle] at h
    dsimp only at h
    rw [(freed_drainHeld _ _ _).busy_eq] at h
    nomatch h
  | ended =>
    have hr := releaseSlots_only (ds := ds) (fl := false) s c0.key
    exact ⟨hr.regs, hr.status.1 rfl⟩

/-! Reading and joining instructions. -/

/-- What only contexts, caches, messages, records and memory's counted requests make differ. -/
def IssuedOnly (s t : State) : Prop :=
  t = { s with cur := t.cur, ctxs := t.ctxs, cores := t.cores, chans := t.chans, msgs := t.msgs, nextMsg := t.nextMsg
               replicas := t.replicas, tlb := t.tlb, tableCache := t.tableCache, choices := t.choices, nextSeq := t.nextSeq
               mem := t.mem, counters := t.counters, busy := t.busy, stalled := t.stalled, records := t.records }

theorem issuedOnly_chain : Chain IssuedOnly := ⟨fun _ => rfl, fun h h' => h'.trans (by rw [h])⟩

theorem Reads.issuedOnly {ldc : Bool} {ds : List Dest} (h : Reads ldc ds s t) : IssuedOnly s t := h.shape.trans (by rw [h.shape])

theorem FaultedOnly.issuedOnly (h : FaultedOnly s t) : IssuedOnly s t := h.trans (by rw [h])

theorem issuedOnly_mark (n : Note) (s : State) : IssuedOnly s (n.mark s) := by
  have h := (n.mark_fields s).1
  exact h.trans (by rw [h])

theorem issuedOnly_of_ends {ldc : Bool} {ds : List Dest} (h : EndsKeeping (Reads ldc ds) i s t) : IssuedOnly s t := by
  have hR := issuedOnly_chain
  cases h with
  | settled f u hu => exact hR.trans hu.issuedOnly (settledOnly_settle _ _ f u).faultedOnly.issuedOnly
  | off => exact hR.trans (t := { s with cur := pushZeros i.dests s.cur }) rfl (settledOnly_settle _ _ _ _).faultedOnly.issuedOnly
  | fault pc f u hu => exact hR.trans hu.issuedOnly (faultedOnly_takeFaultAt pc f u).issuedOnly
  | delivered f n hn => exact hR.trans (issuedOnly_mark n s) (faultedOnly_takeFaultAt _ f _).issuedOnly
  | parks w => rfl
  | stalls => rfl

/-- The context that meets a fault whose record can be opened has stopped. -/
theorem takeFaultAt_stopped {pc : CodeAddr} {f : FaultInfo} (h : s.recordsFull s.cur.key f = false) :
    ∃ c, (takeFaultAt pc f s).ctx? s.cur.key = some c ∧ c.status = .stopped := by
  obtain ⟨-, -, -, -, -, -, c, hc, g, -, -, rfl⟩ := takeFaultAt_stops (pc := pc) h
  exact ⟨_, hc, rfl⟩

/-- What an instruction that reads or joins keeps of memory where it takes no fault. -/
structure Unfaulted (ldc : Bool) (s t : State) : Prop where
  records : t.records = s.records
  mem : s.bar1.notifybase = 0 ∨ ldc = false → t.mem = s.mem
  counters : ldc = false → t.counters = s.counters

theorem unfaulted_chain_settled {ldc : Bool} {ds : List Dest} {u : State} (hu : Reads ldc ds s u) (h : SettledOnly u t) :
    Unfaulted ldc s t := by
  have hmem : t.mem = u.mem := by rw [h]
  have hcounters : t.counters = u.counters := by rw [h]
  have hrecords : u.records = s.records := by rw [hu.shape]
  refine ⟨?_, fun hq => hmem.trans (hq.elim hu.quiet fun hl => (hu.still hl).1), fun hl => hcounters.trans (hu.still hl).2⟩
  rw [h, ← hrecords]

theorem unfaulted_of_ends {ldc : Bool} {ds : List Dest} (h : EndsKeeping (Reads ldc ds) i s t)
    (hgoes : ∀ c, t.ctx? s.cur.key = some c → c.status ≠ .stopped) : Unfaulted ldc s t := by
  have hrefl := (reads_chain ldc ds).refl s
  cases h with
  | settled f u hu => exact unfaulted_chain_settled hu (settledOnly_settle _ _ f u)
  | off =>
    exact unfaulted_chain_settled hrefl (settledOnly_chain.trans (t := { s with cur := pushZeros i.dests s.cur }) rfl (settledOnly_settle _ _ _ _))
  | fault pc f u hu =>
    cases hf : u.recordsFull u.cur.key f with
    | true => exact unfaulted_chain_settled hu (by rw [takeFaultAt_waits hf]; rfl)
    | false =>
      obtain ⟨c, hc, hst⟩ := takeFaultAt_stopped (pc := pc) hf
      rw [hu.key] at hc
      exact absurd hst (hgoes c hc)
  | delivered f n hn =>
    obtain ⟨c, hc, hst⟩ := takeFaultAt_stopped (pc := (n.mark s).cur.regs.pc) ((n.mark_recordsFull s f).trans hn)
    have hkey : (n.mark s).cur.key = s.cur.key := by rw [(n.mark_fields s).2]
    rw [hkey] at hc
    exact absurd hst (hgoes c hc)
  | parks w => exact unfaulted_chain_settled hrefl rfl
  | stalls => exact unfaulted_chain_settled hrefl rfl

theorem regs_of_ends {ldc : Bool} (h : EndsKeeping (Reads ldc i.dests) i s t) (hbusy : t.busy = true) :
    RegsFrame i.dests s.cur.regs t.cur.regs ∧ t.cur.regs.status = s.cur.regs.status := by
  cases h with
  | settled f u hu =>
    obtain ⟨hr, hs⟩ := settle_regs (ds := i.dests) hbusy
    exact ⟨hu.regs.trans hr, hs.trans hu.status⟩
  | off =>
    obtain ⟨hregs, hstatus, -⟩ := pushZeros_frame i.dests s.cur
    obtain ⟨hr, hs⟩ := settle_regs (ds := i.dests) hbusy
    exact ⟨hregs.trans hr, hs.trans hstatus⟩
  | fault pc f u hu =>
    rw [takeFaultAt_busy pc f u hbusy]
    exact ⟨hu.regs, hu.status⟩
  | delivered f n hn =>
    rw [takeFault, (takeFaultAt_stops ((n.mark_recordsFull s f).trans hn)).1] at hbusy
    exact absurd hbusy Bool.false_ne_true
  | parks w => nomatch hbusy
  | stalls => exact ⟨.refl _ _, rfl⟩

end

theorem isLdc_false {i : Instr} (h : ∀ d imm, i ≠ .ldc d imm) : isLdc i = false := by
  cases i with
  | ldc d imm => exact absurd rfl (h d imm)
  | _ => rfl

/-- Settles O37: register effects keep to their destinations and flags; reading effects to requests and destinations. -/
theorem registerAndReadingFrames : Obligations.RegisterAndReadingFrames := by
  refine ⟨fun i s t hi hbusy hrun hexec hgoes => ?_, fun i s t hi hbusy hrun hexec => ?_⟩
  · obtain ⟨body, hbody, hkeeps⟩ := registerBody i hi
    rw [hbody] at hexec
    have h := registerStep_of_ends hrun (issue_endsKeeping (registerOnly_chain _ _) hkeeps hbusy hexec) hgoes
    obtain ⟨hsame, hsticky, hkept⟩ := h.status
    exact ⟨h.shape, h.others, h.regs, fun hf => hsame (by rw [hf]; rfl), hsticky, hkept, h.cur⟩
  · obtain ⟨body, hbody, hkeeps⟩ := readingBody i hi
    rw [hbody] at hexec
    have h := issue_endsKeeping (reads_chain _ _) hkeeps hbusy hexec
    have hshape := issuedOnly_of_ends h
    refine ⟨by rw [hshape], by rw [hshape], by rw [hshape], by rw [hshape], by rw [hshape], by rw [hshape], by rw [hshape],
      by rw [hshape], fun hun => ?_, regs_of_ends h⟩
    obtain ⟨hrecords, hmem, hcounters⟩ := unfaulted_of_ends h hun
    exact ⟨hrecords, fun hq => hmem (hq.imp_right isLdc_false), fun hl => hcounters (isLdc_false hl)⟩

end Sys2Proof.Machine
end

section
/-! PROOFS. Where the bytes of a store go, and what else a store to the stack changes (O38). -/
namespace Sys2Proof.Machine
open Sys2Proof.Claims

/-! Marks written. -/

theorem Mem.marks_writeMarks_other (m : Mem) (a n x marks b : Nat) (h : b < a ∨ a + n ≤ b) :
    (m.writeMarks a n x marks).marks.read b = m.marks.read b := by
  have hfold : ∀ (l : List Nat) (k : Memory), (∀ i ∈ l, a + i ≠ b) →
      (l.foldl (fun k i => k.write (a + i) (if marks / 2 ^ i % 2 = 1 then 1 else 0)) k).read b = k.read b := by
    intro l
    induction l with
    | nil => exact fun _ _ => rfl
    | cons i l ih =>
      intro k hl
      rw [List.foldl_cons, ih _ fun j hj => hl j (List.mem_cons_of_mem i hj)]
      exact Memory.read_write_of_ne (fun hb => hl i List.mem_cons_self hb.symm) k
  refine hfold _ _ fun i hi => ?_
  have := List.mem_range.1 hi
  omega

/-! A line of a stack, stored to (R111, R217, R335). -/

/-- What a store to a stack does to the copies of one line. -/
def storeLine (core : Nat) (s : State) (line : Nat) : State :=
  ((s.storePerformed core line).l1Drop core line).spoilStored core line

theorem stackStore_eq (s : State) (core pa n x marks : Nat) :
    s.stackStore core pa n x marks = (linesOf pa n).foldl (storeLine core) { s with mem := s.mem.writeMarks pa n x marks } := rfl

section
variable {s t : State} {core line : Nat}

theorem storePerformed_eq (s : State) (core line : Nat) : ∃ rs, s.storePerformed core line =
    { s with replicas := rs, msgs := (s.spoilReplies line).msgs } := by
  rw [State.storePerformed]
  split
  · exact ⟨_, rfl⟩
  · exact ⟨_, rfl⟩

/-- Of the line only the replica on the core's own way is left, renewed. -/
theorem storePerformed_line {r : Replica} (hr : r ∈ (s.storePerformed core line).replicas) (hline : r.snap.line = line) :
    some r.gate = s.gateFor core (128 * line) ∧ (r.snap.ty = 0 → r.snap.data = (s.snap line 0).data) := by
  rw [State.storePerformed] at hr
  cases hg : s.gateFor core (128 * line) with
  | none =>
    rw [hg] at hr
    obtain ⟨-, hkeep⟩ := List.mem_filter.1 hr
    rw [hline] at hkeep
    simp at hkeep
  | some g =>
    rw [hg] at hr
    obtain ⟨r0, hr0, hr⟩ := List.mem_map.1 hr
    obtain ⟨-, hkeep⟩ := List.mem_filter.1 hr0
    split at hr
    case isTrue hc =>
      simp only [Bool.and_eq_true, decide_eq_true_eq] at hc
      subst hr
      exact ⟨congrArg some hc.1.1, fun _ => rfl⟩
    case isFalse hc =>
      subst hr
      rw [hline] at hkeep
      have hgate : r0.gate = g := by simpa using hkeep
      refine ⟨congrArg some hgate, fun hty => absurd ?_ hc⟩
      simp [hgate, hline, hty]

/-- The replicas of other lines are left alone. -/
theorem storePerformed_others {r : Replica} (hline : r.snap.line ≠ line) :
    r ∈ (s.storePerformed core line).replicas ↔ r ∈ s.replicas := by
  rw [State.storePerformed]
  have hfilter : r ∈ s.replicas.filter (fun r => r.snap.line != line || some r.gate == s.gateFor core (128 * line)) ↔
      r ∈ s.replicas := by
    rw [List.mem_filter]
    simp [hline]
  cases hg : s.gateFor core (128 * line) with
  | none =>
    rw [hg] at hfilter
    exact hfilter
  | some g =>
    rw [hg] at hfilter
    refine Iff.trans ⟨fun h => ?_, fun h => List.mem_map.2 ⟨r, h, ?_⟩⟩ hfilter
    · obtain ⟨r0, hr0, hr⟩ := List.mem_map.1 h
      split at hr
      · subst hr
        exact absurd rfl hline
      · exact hr ▸ hr0
    · rw [if_neg (by simp [hline])]

end

/-- What is left of the lines `done`, to which a core has stored. -/
structure StoredLines (core : Nat) (done : List Nat) (s t : State) : Prop where
  shape : t = { s with replicas := t.replicas, msgs := t.msgs, cores := t.cores, ctxs := t.ctxs, cur := t.cur }
  left : ∀ r ∈ t.replicas, r.snap.line ∈ done → some r.gate = s.gateFor core (128 * r.snap.line) ∧
    (r.snap.ty = 0 → r.snap.data = (s.snap r.snap.line 0).data)
  others : ∀ r, r.snap.line ∉ done → (r ∈ t.replicas ↔ r ∈ s.replicas)
  msgs : t.msgs.map (fun m => (m.id, m.body, m.loc)) = s.msgs.map (fun m => (m.id, m.body, m.loc))
  stale : ∀ m ∈ t.msgs, ∀ y, m.snap = some y → y.line ∈ done → m.stale = true
  dropped : ∀ y ∈ (t.core core).l1, y.snap.line ∉ done
  kept : ∀ y, y.snap.line ∉ done → (y ∈ (t.core core).l1 ↔ y ∈ (s.core core).l1)
  cores : ∀ k, k ≠ core → t.core k = s.core k
  ctxs : t.ctxs = s.ctxs.map (Spoiled core done)
  cur : t.cur = if s.busy then Spoiled core done s.cur else s.cur

section
variable {s t : State} {core line : Nat} {done : List Nat}

theorem spoiled_nil (core : Nat) (c : Context) : Spoiled core [] c = c := by
  rw [Spoiled]
  split
  · rw [List.append_nil]
  · rfl

theorem storedLines_nil (core : Nat) (s : State) : StoredLines core [] s s := by
  refine ⟨rfl, fun _ _ hl => absurd hl List.not_mem_nil, fun _ _ => Iff.rfl, rfl,
    fun _ _ _ _ hl => absurd hl List.not_mem_nil, fun _ _ => List.not_mem_nil, fun _ _ => Iff.rfl, fun _ _ => rfl, ?_, ?_⟩
  · rw [List.map_congr_left (g := id) fun c _ => spoiled_nil core c, List.map_id]
  · rw [spoiled_nil]
    split <;> rfl

/-- A context spoilt for the lines of one store after those of others. -/
theorem spoiled_append (core : Nat) (done : List Nat) (line : Nat) (c : Context) :
    (if (Spoiled core done c).core == core && ((Spoiled core done c).asked || !(Spoiled core done c).lines.isEmpty) then
      { Spoiled core done c with spoilt := (Spoiled core done c).spoilt ++ [line] } else Spoiled core done c) =
    Spoiled core (done ++ [line]) c := by
  have hiff (c : Context) : (c.core == core && (c.asked || !c.lines.isEmpty)) = true ↔ c.core = core ∧ (c.asked = true ∨ c.lines ≠ []) := by
    simp
  by_cases hc : c.core = core ∧ (c.asked = true ∨ c.lines ≠ [])
  · rw [Spoiled, Spoiled, if_pos hc, if_pos hc, if_pos ((hiff _).2 hc), List.append_assoc]
  · rw [Spoiled, Spoiled, if_neg hc, if_neg hc, if_neg (mt (hiff c).1 hc)]

/-- A core without a line in its L1. -/
def Core.withoutLine (line : Nat) (k : Core) : Core := { k with l1 := k.l1.filter (fun y => y.snap.line != line) }

theorem storedLines_step (h : StoredLines core done s t) (line : Nat) :
    StoredLines core (done ++ [line]) s (storeLine core t line) := by
  obtain ⟨rs, hperf⟩ := storePerformed_eq t core line
  have hgate : t.gateFor core (128 * line) = s.gateFor core (128 * line) := by rw [h.shape]; rfl
  have hsnap : t.snap line 0 = s.snap line 0 := by rw [h.shape]; rfl
  have hbusy : t.busy = s.busy := by rw [h.shape]
  have hreps : (storeLine core t line).replicas = (t.storePerformed core line).replicas := rfl
  have hmsgs : (storeLine core t line).msgs = (t.spoilReplies line).msgs := by
    rw [storeLine, hperf]
    rfl
  have hcore (k : Nat) : (storeLine core t line).core k = 
      (t.modCore core (Core.withoutLine line)).core k := by
    rw [storeLine, hperf]
    rfl
  have hl1 : ((storeLine core t line).core core).l1 = (t.core core).l1.filter (fun y => y.snap.line != line) := by
    rw [hcore, core_modCore_same (f := Core.withoutLine line) t core fun _ => rfl]
    rfl
  have hmem {x : Nat} : x ∈ done ++ [line] ↔ x ∈ done ∨ x = line := by rw [List.mem_append, List.mem_singleton]
  refine ⟨?_, fun r hr hl => ?_, fun r hr => ?_, ?_, fun m hm y hy hl => ?_, fun y hy => ?_, fun y hy => ?_, fun k hk => ?_, ?_, ?_⟩
  · rw [storeLine, hperf, h.shape]
    rfl
  · rw [hreps] at hr
    by_cases hline : r.snap.line = line
    · rw [hline, ← hgate, ← hsnap]
      exact storePerformed_line hr hline
    · exact h.left r ((storePerformed_others hline).1 hr) ((hmem.1 hl).resolve_right hline)
  · rw [hmem, not_or] at hr
    rw [hreps, storePerformed_others hr.2, h.others r hr.1]
  · rw [hmsgs, State.spoilReplies, List.map_map, ← h.msgs]
    refine List.map_congr_left fun m _ => ?_
    rw [Function.comp_apply]
    split <;> rfl
  · rw [hmsgs] at hm
    obtain ⟨m0, hm0, rfl⟩ := List.mem_map.1 hm
    by_cases hc : m0.snap.any (fun x => x.line == line) = true
    · rw [if_pos hc]
    · rw [if_neg hc] at hy ⊢
      refine h.stale m0 hm0 y hy ((hmem.1 hl).resolve_right fun hline => hc ?_)
      rw [hy, Option.any_some, hline, beq_self_eq_true]
  · rw [hl1] at hy
    obtain ⟨hy0, hline⟩ := List.mem_filter.1 hy
    rw [hmem, not_or]
    exact ⟨h.dropped y hy0, by simpa using hline⟩
  · rw [hmem, not_or] at hy
    rw [hl1, List.mem_filter, ← h.kept y hy.1]
    simp [hy.2]
  · rw [hcore, ← h.cores k hk]
    exact State.core_setCore_other t _ fun hk' => hk (hk'.symm.trans (State.core_num t core))
  · rw [storeLine, hperf, State.spoilStored]
    show t.ctxs.map _ = _
    rw [h.ctxs, List.map_map]
    exact List.map_congr_left fun c _ => spoiled_append core done line c
  · rw [storeLine, hperf, State.spoilStored]
    show (if t.busy then _ else t.cur) = _
    rw [hbusy, h.cur]
    split
    · exact spoiled_append core done line s.cur
    · rfl

theorem storedLines_foldl (h : StoredLines core done s t) (lines : List Nat) :
    StoredLines core (done ++ lines) s (lines.foldl (storeLine core) t) := by
  induction lines generalizing done t with
  | nil => rwa [List.append_nil]
  | cons line lines ih =>
    have h' := ih (storedLines_step h line)
    rwa [List.append_assoc] at h'

end
end Sys2Proof.Machine
end

section
/-! PROOFS. Stores, place by place (O38). -/
namespace Sys2Proof.Machine
open Sys2Proof.Claims

section
variable {s t : State} {n va x marks o pa : Nat}

/-! The places. -/

theorem touched_nil (h : s.cur.touchesDiscarded o n = false) :
    (linesOf o n).filter (fun l => s.cur.discLines.contains l) = [] :=
  List.filter_eq_nil_iff.2 fun l hl => List.any_eq_false.1 h l hl

theorem sliceWrite_live (hbusy : s.busy = true) (h : s.cur.touchesDiscarded o n = false) :
    s.sliceWrite s.cur.key o n x marks =
      if s.cur.inH then { s with cur := { s.cur with area := s.cur.area.writeMarks o n x marks } }
      else { s with scratch := s.scratch.writeMarks (s.cur.sliceBase + o) n x marks } := by
  have hctx : s.ctx? s.cur.key = some s.cur := if_pos (by rw [hbusy, beq_self_eq_true]; rfl)
  rw [State.sliceWrite, hctx]
  dsimp only
  rw [touched_nil h]
  dsimp only [List.foldl_nil, List.isEmpty_nil]
  rw [if_pos rfl]
  split
  · exact modCtx_current hbusy _ rfl
  · rfl

theorem writeSlice_scratch (hbusy : s.busy = true) (hh : s.cur.inH = false) (h : s.cur.touchesDiscarded o n = false) :
    Gives (writePlace (.slice o) n va x marks) s () { s with scratch := s.scratch.writeMarks (s.cur.sliceBase + o) n x marks } := by
  refine gives_bind (get_gives s) ?_
  have hw := sliceWrite_live (x := x) (marks := marks) hbusy h
  rw [hh, if_neg Bool.false_ne_true] at hw
  exact hw ▸ modify_gives (fun s => s.sliceWrite s.cur.key o n x marks) s

theorem writeSlice_area (hbusy : s.busy = true) (hh : s.cur.inH = true) (h : s.cur.touchesDiscarded o n = false) :
    Gives (writePlace (.slice o) n va x marks) s () { s with cur := { s.cur with area := s.cur.area.writeMarks o n x marks } } := by
  refine gives_bind (get_gives s) ?_
  have hw := sliceWrite_live (x := x) (marks := marks) hbusy h
  rw [hh, if_pos rfl] at hw
  exact hw ▸ modify_gives (fun s => s.sliceWrite s.cur.key o n x marks) s

theorem writeStack_gives (h : s.lostCode pa (dieOf s.cur.core) = none) :
    Gives (writePlace (.stack pa) n va x marks) s () (s.stackStore s.cur.core pa n x marks) := by
  refine gives_bind (get_gives s) ?_
  dsimp only
  rw [h]
  exact set_gives _ s

/-- A line in L1 with the bytes of a store. -/
def L1Line.stored (l : Leaf) (va n x marks : Nat) (y : L1Line) : L1Line :=
  if y.snap.line == l.line va && l.ty = 0 then { y with snap := y.snap.put (va % 128) n x marks } else y

/-- The message of a store to a page. -/
def storeMsg (l : Leaf) (va n x marks : Nat) (s : State) : Msg where
  id := 0
  src := .core s.cur.core
  dst := homeNode (l.key va)
  body := .store (l.key va) n (BitVec.ofNat 1024 x) (BitVec.ofNat 128 marks) { who := .ctx s.cur.key s.cur.nextOut, va := BitVec.ofNat 64 va }
  cnt := l.cnt
  asid := s.cur.asid
  va := BitVec.ofNat 64 va
  gen := l.gen
  bad := l.badPage

/-- What a store to a page changes on its core before its message sets out. -/
def storeIssued (l : Leaf) (va n x marks : Nat) (s : State) : State :=
  ((withOut l va true false s).modCore s.cur.core (fun k => { k with l1 := k.l1.map (L1Line.stored l va n x marks) })).spoilStored
    s.cur.core (l.line va)

theorem storeIssued_cur (l : Leaf) (va n x marks : Nat) (s : State) :
    (storeIssued l va n x marks s).cur.core = s.cur.core ∧ (storeIssued l va n x marks s).cur.asid = s.cur.asid ∧
    (storeIssued l va n x marks s).cur.regs = s.cur.regs := by
  rw [storeIssued, State.spoilStored, State.mapCtxs]
  dsimp only
  split
  · split <;> exact ⟨rfl, rfl, rfl⟩
  · exact ⟨rfl, rfl, rfl⟩

theorem writePage_gives (l : Leaf) (n va x marks : Nat) (s : State) :
    Gives (writePlace (.page l) n va x marks) s () ((storeIssued l va n x marks s).send (storeMsg l va n x marks s)) := by
  obtain ⟨hcore, hasid, -⟩ := storeIssued_cur l va n x marks s
  refine gives_bind (get_gives s) (gives_bind (cur_gives s) (gives_bind (newOut_gives l va s true false)
    (gives_bind (modify_gives _ _) (gives_bind (cur_gives _) ?_))))
  have hsend : (storeIssued l va n x marks s).send (storeMsg l va n x marks s) =
      (storeIssued l va n x marks s).send { storeMsg l va n x marks s with
        src := .core (storeIssued l va n x marks s).cur.core, asid := (storeIssued l va n x marks s).cur.asid } := by
    rw [hcore, hasid]
    rfl
  rw [hsend]
  exact modify_gives _ _

/-! The store instruction through the scratchpad window. -/

theorem windowOf_scratch {va : Nat} (h1 : 0x7FFFFFE00000 ≤ va) (h2 : va < 0x800000000000) : windowOf va = .scratch := by
  rw [windowOf, if_neg (by omega), if_neg (by omega), if_neg (by omega), if_pos h2]

theorem steer_slice (hn : 0 < n) (h1 : 0x7FFFFFE00000 ≤ va) (h2 : va + n ≤ 0x800000000000)
    (hfits : s.cur.sliceFits (va - 0x7FFFFFE00000) n = true) (hbar : s.cur.touchesBarrier (va - 0x7FFFFFE00000) n = false)
    (harea : s.touchesArea s.cur (va - 0x7FFFFFE00000) n = false) :
    Gives (access .write n va) s (.slice (va - 0x7FFFFFE00000)) s := by
  have hw : windowOf va = .scratch := windowOf_scratch h1 (by omega)
  have hw' : windowOf (va + n - 1) = .scratch := windowOf_scratch (by omega) (by omega)
  have hsteer : Gives (steerFor s.cur .write n va) s (.ok (.slice (va - 0x7FFFFFE00000))) s := by
    refine gives_bind (get_gives s) ?_
    have hin : ¬ va + n > 2 ^ 48 := by omega
    simp only [hw, hw', hin, decide_false, bne_self_eq_false, Bool.or_self, Bool.false_eq_true, if_false]
    rw [show va - scratchWindow = va - 0x7FFFFFE00000 from rfl, hfits, hbar, harea]
    exact gives_pure _ s
  exact gives_bind (gives_bind (get_gives s) (gives_bind hsteer (gives_pure _ s))) (gives_pure _ s)

end

theorem scratchStore_completes {v b : Fin 32} {size : Fin 4} {off : BitVec 11} {s : State} {ea o : Nat}
    (hi : issues (.st (.g v) (.g b) size off) s = true) (hslot : s.cur.slot = some .a) (hmark : (s.cur.regs.readG b).mark = false)
    (hea : (effective (s.cur.regs.readG b).bits off size).toNat = ea) (ho : ea - 0x7FFFFFE00000 = o)
    (hal : ea % 2 ^ size.val = 0) (h1 : 0x7FFFFFE00000 ≤ ea) (h2 : ea < 0x800000000000) (hfits : o + 2 ^ size.val ≤ s.cur.foot * 4096)
    (hbar : s.cur.touchesBarrier o (2 ^ size.val) = false) (harea : s.touchesArea s.cur o (2 ^ size.val) = false)
    (hwait : s.storeWaits s.cur o (2 ^ size.val) = false) (hdisc : s.cur.touchesDiscarded o (2 ^ size.val) = false) :
    Completes (.st (.g v) (.g b) size off) s { s with
      scratch := s.scratch.writeMarks (s.cur.sliceBase + o) (2 ^ size.val)
        ((s.cur.regs.readG v).bits.toNat % 2 ^ (8 * 2 ^ size.val)) (if (s.cur.regs.readG v).mark then 2 ^ 2 ^ size.val - 1 else 0) } := by
  subst hea ho
  have hbusy : s.busy = true := by
    simp only [issues, Bool.and_eq_true] at hi
    exact hi.1.1.1.1
  have hh : s.cur.inH = false := by rw [Context.inH, hslot]; rfl
  have hn : 0 < 2 ^ size.val := Nat.two_pow_pos _
  have hdvd : 2 ^ size.val ∣ 0x800000000000 := by
    refine Nat.pow_dvd_pow 2 (m := size.val) (n := 47) (by omega) |>.trans (by decide)
  have hend : (effective (s.cur.regs.readG b).bits off size).toNat + 2 ^ size.val ≤ 0x800000000000 := by
    obtain ⟨q, hq⟩ := Nat.dvd_of_mod_eq_zero hal
    obtain ⟨p, hp⟩ := hdvd
    have hlt : q < p := by
      refine Nat.lt_of_mul_lt_mul_left (a := 2 ^ size.val) ?_
      rw [← hq, ← hp]
      exact h2
    have hle : 2 ^ size.val * (q + 1) ≤ 2 ^ size.val * p := Nat.mul_le_mul_left _ hlt
    rw [Nat.mul_succ, ← hq, ← hp] at hle
    exact hle
  have hfit : s.cur.sliceFits ((effective (s.cur.regs.readG b).bits off size).toNat - 0x7FFFFFE00000) (2 ^ size.val) = true := by
    rw [Context.sliceFits, Context.sliceSize, hh]
    exact decide_eq_true hfits
  have hpl := steer_slice hn h1 hend hfit hbar harea
  have hplace : Gives (placeWaits .write (.slice ((effective (s.cur.regs.readG b).bits off size).toNat - 0x7FFFFFE00000)) (2 ^ size.val)) s false s := by
    refine gives_bind (get_gives s) ?_
    exact hwait ▸ gives_pure _ s
  have hread : Gives (readScalar (.g v)) s (s.cur.regs.readG v) s := readScalar_of_named rfl
  have hclean : Gives (readClean (.g b)) s (s.cur.regs.readG b).bits s :=
    gives_bind (readScalar_of_named rfl) (useClean_gives hmark s)
  have hw := writeSlice_scratch (va := (effective (s.cur.regs.readG b).bits off size).toNat) (x := (s.cur.regs.readG v).bits.toNat % 2 ^ (8 * 2 ^ size.val))
    (marks := if (s.cur.regs.readG v).mark then 2 ^ 2 ^ size.val - 1 else 0) hbusy hh hdisc
  have hstore := storeScalar_gives (v := .g v) (b := .g b) rfl rfl hclean hal hpl hplace (fun l hl => nomatch hl) rfl hread hw
  exact issue_gives hi hstore

/-- Settles O38. -/
theorem storesTakeTheirBytesAlone : Obligations.StoresTakeTheirBytesAlone := by
  refine ⟨fun v b size off s hi hslot hmark => ?_,
    fun l n va x marks s => ?_, fun pa n va x marks s hlost hwf => ?_, fun o n va x marks s hbusy hh hdisc hwf => ?_,
    fun o n va x marks s hbusy hh hdisc hwf => ?_⟩
  · intro ea o hal h1 h2 hfits hwf hbar harea hwait hdisc
    refine ⟨_, scratchStore_completes hi hslot hmark rfl rfl hal h1 h2 hfits hbar harea hwait hdisc, ?_⟩
    obtain ⟨ctxs, m, ht⟩ := settle_done_eq (Instr.st (.g v) (.g b) size off).len s.cur
      { s with scratch := s.scratch.writeMarks (s.cur.sliceBase + o) (2 ^ size.val)
                 ((s.cur.regs.readG v).bits.toNat % 2 ^ (8 * 2 ^ size.val))
                 (if (s.cur.regs.readG v).mark then 2 ^ 2 ^ size.val - 1 else 0) }
    rw [ht]
    refine ⟨?_, fun a ha => ⟨(Mem.within_writeMarks _ _ _ _).2 a ha, Mem.marks_writeMarks_other _ _ _ _ _ a ha⟩, rfl, rfl, rfl, rfl,
      rfl⟩
    exact (Mem.readN_writeMarks _ _ _ _ hwf).trans (Nat.mod_mod _ _)
  · obtain ⟨-, -, hregs⟩ := storeIssued_cur l va n x marks s
    exact ⟨_, { storeMsg l va n x marks s with id := s.nextMsg }, writePage_gives l n va x marks s, rfl, rfl, rfl, rfl, hregs,
      rfl, rfl, rfl, rfl, rfl⟩
  · have h := storedLines_foldl (storedLines_nil s.cur.core { s with mem := s.mem.writeMarks pa n x marks }) (linesOf pa n)
    rw [← stackStore_eq, List.nil_append] at h
    have hmem : (s.stackStore s.cur.core pa n x marks).mem = s.mem.writeMarks pa n x marks := by rw [h.shape]
    have hsnap (line : Nat) : (s.stackStore s.cur.core pa n x marks).snap line 0 =
        State.snap { s with mem := s.mem.writeMarks pa n x marks } line 0 := by rw [h.shape]; rfl
    refine ⟨_, writeStack_gives hlost, ?_, fun r hr hl => ?_, h.others, h.msgs, h.stale, h.dropped, h.kept, h.cores, h.ctxs, h.cur,
      ?_, fun a ha => ?_⟩
    · rw [h.shape]
    · obtain ⟨hgate, hdata⟩ := h.left r hr hl
      exact ⟨hgate, fun hty => (hdata hty).trans (congrArg LineSnap.data (hsnap _).symm)⟩
    · rw [hmem, Mem.readN_writeMarks _ _ _ _ hwf]
    · rw [hmem]
      exact ⟨(Mem.within_writeMarks _ _ _ _).2 a ha, Mem.marks_writeMarks_other _ _ _ _ _ a ha⟩
  · exact ⟨_, writeSlice_scratch hbusy hh hdisc, rfl, Mem.readN_writeMarks _ _ _ _ hwf,
      fun a ha => ⟨(Mem.within_writeMarks _ _ _ _).2 a ha, Mem.marks_writeMarks_other _ _ _ _ _ a ha⟩⟩
  · exact ⟨_, writeSlice_area hbusy hh hdisc, rfl, Mem.readN_writeMarks _ _ _ _ hwf, fun a ha => (Mem.within_writeMarks _ _ _ _).2 a ha⟩

end Sys2Proof.Machine
end

section
/-! PROOFS. What homes do to messages and watches: answers sent, requests gone, watches tested again (R67, R117). -/
namespace Sys2Proof.Machine
open Sys2Proof.Claims

/-! Messages. -/

/-- No message is lost, and every new one has a new number. -/
structure MsgStep (s t : State) : Prop where
  next : s.nextMsg ≤ t.nextMsg
  keeps : ∀ a ∈ s.msgs, ∃ b ∈ t.msgs, b.id = a.id ∧ b.body = a.body ∧ b.src = a.src ∧ b.dst = a.dst
  new : ∀ b ∈ t.msgs, (∃ a ∈ s.msgs, a.id = b.id) ∨ s.nextMsg ≤ b.id

theorem msgStep_chain : Chain MsgStep where
  refl s := ⟨Nat.le_refl _, fun a ha => ⟨a, ha, rfl, rfl, rfl, rfl⟩, fun b hb => .inl ⟨b, hb, rfl⟩⟩
  trans {s t u} h h' := by
    refine ⟨h.next.trans h'.next, fun a ha => ?_, fun c hc => ?_⟩
    · obtain ⟨b, hb, h1, h2, h3, h4⟩ := h.keeps a ha
      obtain ⟨c, hc, k1, k2, k3, k4⟩ := h'.keeps b hb
      exact ⟨c, hc, k1.trans h1, k2.trans h2, k3.trans h3, k4.trans h4⟩
    · rcases h'.new c hc with ⟨b, hb, hid⟩ | hle
      · rw [← hid]
        exact h.new b hb
      · exact .inr (h.next.trans hle)

section
variable {s t u : State}

theorem MsgStep.trans (h : MsgStep s t) (h' : MsgStep t u) : MsgStep s u := msgStep_chain.trans h h'

theorem msgStep_refl (s : State) : MsgStep s s := msgStep_chain.refl s

theorem msgStep_of_eq (hm : t.msgs = s.msgs) (hn : t.nextMsg = s.nextMsg) : MsgStep s t := by
  have h := msgStep_refl s
  exact ⟨hn ▸ h.next, hm ▸ h.keeps, fun b hb => h.new b (hm ▸ hb)⟩

theorem msgStep_send (s : State) (m : Msg) : MsgStep s (s.send m) := by
  refine ⟨Nat.le_succ _, fun a ha => ⟨a, List.mem_append_left _ ha, rfl, rfl, rfl, rfl⟩, fun b hb => ?_⟩
  rcases List.mem_append.1 hb with hb | hb
  · exact .inl ⟨b, hb, rfl⟩
  · rw [List.mem_singleton.1 hb]
    exact .inr (Nat.le_refl _)

theorem msgStep_respond (s : State) (src : Node) (loc : Loc) (w : Who) (asid : BitVec 12) (va : Word) (gen : BitVec 8)
    (b : Body) (snap : Option LineSnap) (key : Nat) : MsgStep s (s.respond src loc w asid va gen b snap key) := by
  rw [State.respond]
  split
  · exact msgStep_refl s
  · exact msgStep_send s _

theorem msgStep_foldl {α : Type} {f : State → α → State} (h : ∀ s x, MsgStep s (f s x)) (l : List α) (s : State) :
    MsgStep s (l.foldl f s) := msgStep_chain.foldl h l s

/-- Messages changed one by one in what is no part of who sent what to whom. -/
theorem msgStep_map {f : Msg → Msg} (hm : t.msgs = s.msgs.map f) (hn : t.nextMsg = s.nextMsg)
    (hf : ∀ m, (f m).id = m.id ∧ (f m).body = m.body ∧ (f m).src = m.src ∧ (f m).dst = m.dst) : MsgStep s t := by
  refine ⟨hn ▸ Nat.le_refl _, fun a ha => ⟨f a, hm ▸ List.mem_map_of_mem ha, hf a⟩, fun b hb => ?_⟩
  rw [hm] at hb
  obtain ⟨a, ha, rfl⟩ := List.mem_map.1 hb
  exact .inl ⟨a, ha, (hf a).1.symm⟩

theorem msgStep_spoilReplies (s : State) (line : Nat) : MsgStep s (s.spoilReplies line) := by
  refine msgStep_map rfl rfl fun m => ?_
  split <;> exact ⟨rfl, rfl, rfl, rfl⟩

theorem msgStep_hostLog (s : State) (rule a b : Nat) : MsgStep s (s.hostLog rule a b) := by
  rw [State.hostLog]
  split
  · exact msgStep_refl s
  · exact msgStep_of_eq rfl rfl

theorem msgStep_poisonLine (s : State) (line : Nat) : MsgStep s (s.poisonLine line) :=
  ((msgStep_spoilReplies s line).trans (u := { s.spoilReplies line with
      md := (s.spoilReplies line).md.write line (mdOf (mdWatched (s.md.read line)) (mdWidth (s.md.read line)) true
        (mdState (s.md.read line)))
      poisonLog := (s.spoilReplies line).poisonLog ++ [line] }) (msgStep_of_eq rfl rfl)).trans (msgStep_hostLog _ _ _ _)

theorem countAt_msgs (s : State) (cnt : Bool) (key : Nat) (va : Word) (asid : BitVec 12) :
    (s.countAt cnt key va asid).msgs = s.msgs ∧ (s.countAt cnt key va asid).nextMsg = s.nextMsg := by
  obtain ⟨m, cs, h⟩ := s.countAt_eq cnt key va asid
  rw [h]
  exact ⟨rfl, rfl⟩

theorem msgStep_countAt (s : State) (cnt : Bool) (key : Nat) (va : Word) (asid : BitVec 12) :
    MsgStep s (s.countAt cnt key va asid) := msgStep_of_eq (countAt_msgs s cnt key va asid).1 (countAt_msgs s cnt key va asid).2

theorem msgStep_retestOne (s : State) (w : Watch) : MsgStep s (s.retestOne w) := by
  rw [State.retestOne]
  split
  · exact msgStep_refl s
  · exact (msgStep_of_eq (s := s) (t := { s with watches := s.watches.filter (fun x => !(x == w)) }) rfl rfl).trans (msgStep_respond _ _ _ _ _ _ _ _ _ _)

theorem msgStep_retest (s : State) (line : Nat) : MsgStep s (s.retest line) := by
  rw [State.retest]
  split
  · exact msgStep_refl s
  · exact (msgStep_foldl msgStep_retestOne _ s).trans (msgStep_of_eq rfl rfl)

theorem endForward_eq (s : State) (line : Nat) : ∃ fs, s.endForward line = { s with forwards := fs } := by
  rw [State.endForward]
  split
  · exact ⟨_, rfl⟩
  · exact ⟨_, rfl⟩

theorem msgStep_endForward (s : State) (line : Nat) : MsgStep s (s.endForward line) := by
  obtain ⟨fs, h⟩ := endForward_eq s line
  rw [h]
  exact msgStep_of_eq rfl rfl

theorem msgStep_bottom (s : State) (line ty w : Nat) (b : Byte) :
    MsgStep s { s.lineBottom line ty w with md := s.md.write line b } := by
  rw [lineBottom_eq]
  exact msgStep_of_eq rfl rfl

theorem msgStep_widened (s : State) (j : JoinReq) : MsgStep s (s.widened j) := by
  rw [State.widened]
  split
  · exact (msgStep_endForward s _).trans (msgStep_bottom _ _ _ _ _)
  · exact msgStep_endForward s _

theorem msgStep_joinAt (s : State) (j : JoinReq) : MsgStep s (s.joinAt j).1 := by
  rw [joinAt_eq]
  split
  · exact msgStep_refl s
  split
  · exact msgStep_refl s
  have h : MsgStep s ((s.widened j).joinCell j) := (msgStep_widened s j).trans (msgStep_of_eq rfl rfl)
  refine MsgStep.trans ?_ (msgStep_retest _ _)
  split
  · exact h.trans (msgStep_poisonLine _ _)
  · exact h

theorem msgStep_fillAt (s : State) (line : Nat) (data : BitVec 1024) (mark : Bool) : MsgStep s (s.fillAt line data mark).1 := by
  have hpoison (u : State) : MsgStep u ((u.poisonLine line).retest line) := (msgStep_poisonLine u line).trans (msgStep_retest _ _)
  rw [State.fillAt]
  dsimp only
  split
  · exact msgStep_refl s
  split
  · split
    · dsimp only
      split
      · exact hpoison s
      · exact msgStep_refl s
    · exact hpoison s
  · refine (msgStep_endForward s line).trans (MsgStep.trans (t := { s.endForward line with
        mem := (s.endForward line).mem.writeN (128 * line) 128 data.toNat false
        md := (s.endForward line).md.write line (mdOf (mdWatched (s.md.read line)) 1 (mdPoison (s.md.read line)) 1) })
        (msgStep_of_eq rfl rfl) ?_)
    split
    · exact hpoison _
    · exact msgStep_retest _ _

theorem msgStep_freezeAt (s : State) (line ty : Nat) : MsgStep s (s.freezeAt line ty) := by
  rw [State.freezeAt]
  dsimp only
  split
  · exact msgStep_endForward s line
  refine (msgStep_endForward s line).trans (MsgStep.trans ?_ (msgStep_retest _ _))
  split
  · exact msgStep_of_eq rfl rfl
  split
  · exact msgStep_bottom _ _ _ _ _
  · exact msgStep_of_eq rfl rfl

theorem HomeOnly.coreOf (h : HomeOnly s t) (w : Who) : t.coreOf w = s.coreOf w := by
  rw [h.1]
  rfl

/-! Acknowledgements (R117). -/

/-- Whoever `w` is has an answer on its way, if it is still there. -/
def HasAnswer (s t : State) (src : Node) (w : Who) (b : Body) : Prop :=
  ∀ core, s.coreOf w = some core → ∃ a ∈ t.msgs, a.body = b ∧ a.src = src ∧ a.dst = .core core

theorem HasAnswer.step {src : Node} {w : Who} {b : Body} (h : HasAnswer s t src w b) (ht : MsgStep t u) : HasAnswer s u src w b := by
  intro core hcore
  obtain ⟨a, ha, h1, h2, h3⟩ := h core hcore
  obtain ⟨c, hc, -, k2, k3, k4⟩ := ht.keeps a ha
  exact ⟨c, hc, k2.trans h1, k3.trans h2, k4.trans h3⟩

theorem respond_answers (s : State) (src : Node) (loc : Loc) (w : Who) (asid : BitVec 12) (va : Word) (gen : BitVec 8)
    (b : Body) (snap : Option LineSnap) (key : Nat) :
    HasAnswer s (s.respond src loc w asid va gen b snap key) src w b := by
  intro core hcore
  rw [State.respond, hcore]
  exact ⟨_, List.mem_append_right _ (List.mem_singleton_self _), rfl, rfl, rfl⟩

/-- The acknowledgement of one contributor. -/
def ackOne (x : Msg) (code : Option FaultCode) (snap : Option LineSnap) (s : State) (t : Tag) : State :=
  s.respond x.dst (homeLoc x.dst) t.who t.who.asid t.va x.gen (.ack t code) snap x.body.key

/-- A message set behind the wakes of its request. -/
def Msg.after (n1 : Nat) (wakes : List Nat) (m : Msg) : Msg := if n1 ≤ m.id then { m with behind := wakes } else m

theorem ackAll_eq (s : State) (x : Msg) (n0 : Nat) (code : Option FaultCode) (snap : Option LineSnap) :
    ∃ wakes, s.ackAll x n0 code snap = { x.body.tags.foldl (ackOne x code snap) s with
      msgs := (x.body.tags.foldl (ackOne x code snap) s).msgs.map (Msg.after s.nextMsg wakes) } := ⟨_, rfl⟩

theorem Msg.after_fields (n1 : Nat) (wakes : List Nat) (m : Msg) : (m.after n1 wakes).id = m.id ∧ (m.after n1 wakes).body = m.body ∧
    (m.after n1 wakes).src = m.src ∧ (m.after n1 wakes).dst = m.dst ∧ (m.after n1 wakes).snap = m.snap ∧
    (m.after n1 wakes).stale = m.stale := by
  rw [Msg.after]
  split <;> exact ⟨rfl, rfl, rfl, rfl, rfl, rfl⟩

theorem msgStep_after {wakes : List Nat} {n : Nat} (u : State) : MsgStep u { u with msgs := u.msgs.map (Msg.after n wakes) } := by
  refine msgStep_map rfl rfl fun m => ?_
  obtain ⟨h1, h2, h3, h4, -⟩ := Msg.after_fields n wakes m
  exact ⟨h1, h2, h3, h4⟩

theorem msgStep_ackAll (s : State) (x : Msg) (n0 : Nat) (code : Option FaultCode) (snap : Option LineSnap) :
    MsgStep s (s.ackAll x n0 code snap) := by
  obtain ⟨wakes, h⟩ := ackAll_eq s x n0 code snap
  rw [h]
  exact (msgStep_foldl (fun _ _ => msgStep_respond _ _ _ _ _ _ _ _ _ _) _ s).trans (msgStep_after _)

theorem homeOnly_ackAll (s : State) (x : Msg) (n0 : Nat) (code : Option FaultCode) (snap : Option LineSnap) :
    HomeOnly s (s.ackAll x n0 code snap) := by
  obtain ⟨wakes, h⟩ := ackAll_eq s x n0 code snap
  rw [h]
  exact (homeOnly_foldl (fun _ _ => homeOnly_respond _ _ _ _ _ _ _ _ _ _) _ s).trans (homeOnly_of_eq rfl rfl rfl)

/-- Only messages differ. -/
def MsgsOnly (s t : State) : Prop := t = { s with msgs := t.msgs, nextMsg := t.nextMsg }

theorem msgsOnly_chain : Chain MsgsOnly := ⟨fun _ => rfl, fun h h' => h'.trans (by rw [h])⟩

theorem msgsOnly_respond (s : State) (src : Node) (loc : Loc) (w : Who) (asid : BitVec 12) (va : Word) (gen : BitVec 8)
    (b : Body) (snap : Option LineSnap) (key : Nat) : MsgsOnly s (s.respond src loc w asid va gen b snap key) := by
  rw [State.respond]
  split <;> rfl

theorem msgsOnly_ackAll (s : State) (x : Msg) (n0 : Nat) (code : Option FaultCode) (snap : Option LineSnap) :
    MsgsOnly s (s.ackAll x n0 code snap) := by
  obtain ⟨wakes, h⟩ := ackAll_eq s x n0 code snap
  have hf : MsgsOnly s (x.body.tags.foldl (ackOne x code snap) s) :=
    msgsOnly_chain.foldl (fun _ _ => msgsOnly_respond _ _ _ _ _ _ _ _ _ _) _ s
  rw [h, MsgsOnly]
  exact hf ▸ rfl

theorem ackFold_answers {x : Msg} {code : Option FaultCode} {snap : Option LineSnap} (tags : List Tag) (s u : State)
    (hu : ∀ w, u.coreOf w = s.coreOf w) {tag : Tag} (htag : tag ∈ tags) :
    HasAnswer s (tags.foldl (ackOne x code snap) u) x.dst tag.who (.ack tag code) := by
  induction tags generalizing u with
  | nil => nomatch htag
  | cons t tags ih =>
    have hstep (v : State) : MsgStep v (tags.foldl (ackOne x code snap) v) :=
      msgStep_foldl (fun _ _ => msgStep_respond _ _ _ _ _ _ _ _ _ _) _ v
    rcases List.mem_cons.1 htag with rfl | htag
    · intro core hcore
      exact HasAnswer.step (s := u) (respond_answers u x.dst (homeLoc x.dst) tag.who tag.who.asid tag.va x.gen (.ack tag code) snap
        x.body.key) (hstep _) core ((hu _).trans hcore)
    · refine ih (ackOne x code snap u t) (fun w => ?_) htag
      exact (HomeOnly.coreOf (homeOnly_respond _ _ _ _ _ _ _ _ _ _) w).trans (hu w)

/-- A request taken off and done with is gone. -/
theorem msg?_none_of_step {m : Nat} (h : MsgStep (s.dropMsg m) t) (hm : m < s.nextMsg) : t.msg? m = none := by
  refine List.find?_eq_none.2 fun b hb hid => ?_
  have hid : b.id = m := by simpa using hid
  rcases h.new b hb with ⟨a, ha, ha'⟩ | hle
  · have hne := (List.mem_filter.1 ha).2
    rw [ha', hid] at hne
    simp at hne
  · rw [hid] at hle
    exact absurd hm (Nat.not_lt.2 hle)

/-- The request is done with, and every contributor is answered. -/
theorem allAcked_of_step {m n0 : Nat} {x : Msg} {code : Option FaultCode} {snap : Option LineSnap}
    (h : MsgStep (s.dropMsg m) u) (hcore : ∀ w, u.coreOf w = s.coreOf w) :
    AllAcked s (u.ackAll x n0 code snap) m x code := by
  refine fun tag htag => ⟨msg?_none_of_step (h.trans (msgStep_ackAll _ _ _ _ _)), ?_⟩
  obtain ⟨wakes, he⟩ := ackAll_eq u x n0 code snap
  rw [he]
  exact (ackFold_answers x.body.tags s u hcore htag).step (msgStep_after _)

end
end Sys2Proof.Machine
end

section
/-! PROOFS. Metadata bytes, and the watches of a line tested again (R63, R67). -/
namespace Sys2Proof.Machine
open Sys2Proof.Claims

/-! Metadata (R63). -/

theorem mdOf_fields (w p : Bool) (wd st : Nat) : mdWatched (mdOf w wd p st) = w ∧ mdWidth (mdOf w wd p st) = wd % 4 ∧
    mdPoison (mdOf w wd p st) = p ∧ mdState (mdOf w wd p st) = st % 4 := by
  have hall : ∀ (w p : Bool) (a b : Fin 4),
      (let m : BitVec 8 := BitVec.ofNat 8 (b.val + (if p then 4 else 0) + a.val * 8 + (if w then 32 else 0))
       mdWatched m = w ∧ mdWidth m = a.val ∧ mdPoison m = p ∧ mdState m = b.val) := by decide
  have h := hall w p ⟨wd % 4, Nat.mod_lt _ (by decide)⟩ ⟨st % 4, Nat.mod_lt _ (by decide)⟩
  exact h

theorem mdWidth_lt (b : BitVec 8) : mdWidth b < 4 := Nat.mod_lt _ (by decide)

theorem mdState_lt (b : BitVec 8) : mdState b < 4 := Nat.mod_lt _ (by decide)

section
variable {s t u : State} {line : Nat}

theorem read_md_same {b : Byte} {m : Memory} (h : m.wf = true) : (m.write line b).read line = b := by
  rw [Memory.read_write h, if_pos rfl]

theorem read_md_other {b : Byte} {m : Memory} {k : Nat} (h : k ≠ line) : (m.write line b).read k = m.read k :=
  Memory.read_write_of_ne h m

/-! Tests (R68 to R71). -/

theorem test_congr {x y : LineSnap} {key : Nat} {k : TestKind} (hty : x.ty = y.ty) (hdata : x.data = y.data)
    (hst : mdState x.md = mdState y.md) (hw : mdWidth x.md = mdWidth y.md) (hp : mdPoison x.md = mdPoison y.md) :
    x.test key k = y.test key k := by
  have hbytes (a n : Nat) : x.bytes a n = y.bytes a n := by rw [LineSnap.bytes, LineSnap.bytes, hdata]
  have hcell (a n : Nat) : x.cell a n = y.cell a n := hbytes _ _
  cases k <;> simp only [LineSnap.test, hty, hst, hw, hp, hbytes, hcell]

theorem testLine_congr (hmem : t.mem = s.mem) (hst : ∀ l, mdState (t.md.read l) = mdState (s.md.read l))
    (hw : ∀ l, mdWidth (t.md.read l) = mdWidth (s.md.read l)) (hp : ∀ l, mdPoison (t.md.read l) = mdPoison (s.md.read l))
    (key ty : Nat) (k : TestKind) : t.testLine key ty k = s.testLine key ty k :=
  test_congr rfl (by rw [State.snap, State.snap, hmem]) (hst _) (hw _) (hp _)

/-- WATCHED alone changes. -/
theorem markWatched_fields (hwf : s.md.wf = true) (l : Nat) :
    mdState ((s.markWatched line).md.read l) = mdState (s.md.read l) ∧
    mdWidth ((s.markWatched line).md.read l) = mdWidth (s.md.read l) ∧
    mdPoison ((s.markWatched line).md.read l) = mdPoison (s.md.read l) := by
  by_cases hl : l = line
  · subst hl
    obtain ⟨-, h2, h3, h4⟩ := mdOf_fields (s.watches.any (fun w => w.cell / 128 == l)) (mdPoison (s.md.read l))
      (mdWidth (s.md.read l)) (mdState (s.md.read l))
    have hread : (s.markWatched l).md.read l = mdOf (s.watches.any (fun w => w.cell / 128 == l)) (mdWidth (s.md.read l))
      (mdPoison (s.md.read l)) (mdState (s.md.read l)) := read_md_same hwf
    rw [hread, h2, h3, h4, Nat.mod_eq_of_lt (mdWidth_lt _), Nat.mod_eq_of_lt (mdState_lt _)]
    exact ⟨rfl, rfl, rfl⟩
  · have hread : (s.markWatched line).md.read l = s.md.read l := read_md_other hl
    rw [hread]
    exact ⟨rfl, rfl, rfl⟩

theorem markWatched_watched (hwf : s.md.wf = true) :
    mdWatched ((s.markWatched line).md.read line) = s.watches.any (fun w => w.cell / 128 == line) := by
  have hread : (s.markWatched line).md.read line = mdOf (s.watches.any (fun w => w.cell / 128 == line)) (mdWidth (s.md.read line))
    (mdPoison (s.md.read line)) (mdState (s.md.read line)) := read_md_same hwf
  rw [hread]
  exact (mdOf_fields _ _ _ _).1

/-! Watches tested again (R67). -/

/-- The outcome of a watch, tested again. -/
def State.outcome (s : State) (w : Watch) : Option TestResult := s.testLine w.cell w.ty w.kind

/-- The watches `l` have been tested again at `s`. -/
structure TestedAgain (l : List Watch) (s u : State) : Prop where
  shape : u = { s with watches := u.watches, msgs := u.msgs, nextMsg := u.nextMsg }
  watches : ∀ w, w ∈ u.watches ↔ w ∈ s.watches ∧ ¬ (w ∈ l ∧ (s.outcome w).isSome = true)
  answers : ∀ w ∈ l, ∀ r, s.outcome w = some r → HasAnswer s u w.home w.who (.result w.who r)

theorem testedAgain_nil (s : State) : TestedAgain [] s s :=
  ⟨rfl, fun w => by simp, fun _ hw => absurd hw List.not_mem_nil⟩

theorem TestedAgain.outcome {l : List Watch} (h : TestedAgain l s u) (w : Watch) : u.outcome w = s.outcome w := by
  rw [h.shape]
  rfl

theorem TestedAgain.coreOf {l : List Watch} (h : TestedAgain l s u) (w : Who) : u.coreOf w = s.coreOf w := by
  rw [h.shape]
  rfl

theorem retestOne_eq (s : State) (w : Watch) : s.retestOne w = match s.outcome w with
    | none => s
    | some r => ({ s with watches := s.watches.filter (fun x => !(x == w)) } : State).respond w.home (homeLoc w.home) w.who w.asid w.va
        w.gen (.result w.who r) (some (s.snap (w.cell / 128) w.ty)) w.cell := rfl

theorem testedAgain_step {l : List Watch} (h : TestedAgain l s u) (w : Watch) : TestedAgain (l ++ [w]) s (u.retestOne w) := by
  have hmem {x : Watch} : x ∈ l ++ [w] ↔ x ∈ l ∨ x = w := by rw [List.mem_append, List.mem_singleton]
  rw [retestOne_eq, h.outcome]
  cases ho : s.outcome w with
  | none =>
    refine ⟨h.shape, fun x => ?_, fun x hx r hr => h.answers x ((hmem.1 hx).resolve_right fun hxw => ?_) r hr⟩
    · rw [h.watches x]
      refine and_congr_right fun _ => not_congr ⟨fun ⟨h1, h2⟩ => ⟨hmem.2 (.inl h1), h2⟩, fun ⟨h1, h2⟩ => ⟨(hmem.1 h1).resolve_right fun hxw => ?_, h2⟩⟩
      rw [hxw, ho] at h2
      nomatch h2
    · rw [hxw, ho] at hr
      nomatch hr
  | some r0 =>
    have hresp := msgsOnly_respond { u with watches := u.watches.filter (fun x => !(x == w)) } w.home (homeLoc w.home) w.who w.asid w.va
        w.gen (.result w.who r0) (some (u.snap (w.cell / 128) w.ty)) w.cell
    have hstep := (msgStep_of_eq (s := u) (t := { u with watches := u.watches.filter (fun x => !(x == w)) }) rfl rfl).trans
      (msgStep_respond { u with watches := u.watches.filter (fun x => !(x == w)) } w.home (homeLoc w.home) w.who w.asid w.va
        w.gen (.result w.who r0) (some (u.snap (w.cell / 128) w.ty)) w.cell)
    have hans := respond_answers { u with watches := u.watches.filter (fun x => !(x == w)) } w.home (homeLoc w.home) w.who w.asid w.va
        w.gen (.result w.who r0) (some (u.snap (w.cell / 128) w.ty)) w.cell
    dsimp only
    generalize State.respond { u with watches := u.watches.filter (fun x => !(x == w)) } w.home (homeLoc w.home) w.who w.asid w.va
        w.gen (.result w.who r0) (some (u.snap (w.cell / 128) w.ty)) w.cell = v at hresp hstep hans ⊢
    have hwatches : v.watches = u.watches.filter (fun x => !(x == w)) := by rw [hresp]
    refine ⟨hresp.trans (by rw [hwatches, h.shape]), fun x => ?_, fun x hx r hr => ?_⟩
    · rw [hwatches, List.mem_filter, h.watches x, and_assoc]
      refine and_congr_right fun _ => ?_
      by_cases hxw : x = w
      · subst hxw
        simp [ho]
      · simp [hxw]
    · rcases hmem.1 hx with hx | rfl
      · exact (h.answers x hx r hr).step hstep
      · rw [ho] at hr
        cases hr
        exact fun core hcore => hans core ((h.coreOf x.who).trans hcore)

theorem testedAgain_foldl {l : List Watch} (h : TestedAgain l s u) (ws : List Watch) :
    TestedAgain (l ++ ws) s (ws.foldl State.retestOne u) := by
  induction ws generalizing l u with
  | nil => rwa [List.append_nil]
  | cons w ws ih =>
    have h' := ih (testedAgain_step h w)
    rwa [List.append_assoc] at h'

/-- The watches of the line. -/
def State.watchesOf (s : State) (line : Nat) : List Watch := s.watches.filter (fun w => w.cell / 128 == line)

theorem mem_watchesOf {w : Watch} : w ∈ s.watchesOf line ↔ w ∈ s.watches ∧ w.cell / 128 = line := by
  rw [State.watchesOf, List.mem_filter, beq_iff_eq]

theorem retest_eq (s : State) (line : Nat) : s.retest line =
    if (s.watchesOf line).isEmpty then s else ((s.watchesOf line).foldl State.retestOne s).markWatched line := rfl

/-- What testing the watches of a line again leaves. -/
theorem retest_retested (hwf : s.md.wf = true) (line : Nat) : Retested s (s.retest line) line := by
  rw [retest_eq]
  by_cases hempty : (s.watchesOf line).isEmpty = true
  · rw [if_pos hempty]
    have hnone : ∀ w ∈ s.watches, w.cell / 128 ≠ line := fun w hw hl => by
      have hmem := mem_watchesOf.2 ⟨hw, hl⟩
      rw [List.isEmpty_iff.1 hempty] at hmem
      nomatch hmem
    exact ⟨fun _ h => h, fun _ h _ => h, fun w hw hl => absurd hl (hnone w hw), fun ⟨w, hw, hl⟩ => absurd hl (hnone w hw)⟩
  · rw [if_neg hempty]
    have h := testedAgain_foldl (testedAgain_nil s) (s.watchesOf line)
    rw [List.nil_append] at h
    obtain ⟨u, hu⟩ : ∃ u, u = (s.watchesOf line).foldl State.retestOne s := ⟨_, rfl⟩
    rw [← hu] at h ⊢
    have hmd : u.md = s.md := by rw [h.shape]
    have hmem : u.mem = s.mem := by rw [h.shape]
    have hwfu : u.md.wf = true := by rw [hmd]; exact hwf
    have hfields := markWatched_fields (line := line) hwfu
    have htest (w : Watch) : (u.markWatched line).testLine w.cell w.ty w.kind = s.outcome w :=
      testLine_congr (s := s) (t := u.markWatched line) hmem (fun l => by rw [(hfields l).1, hmd]) (fun l => by rw [(hfields l).2.1, hmd])
        (fun l => by rw [(hfields l).2.2, hmd]) _ _ _
    refine ⟨fun w hw => ((h.watches w).1 hw).1, fun w hw hl => (h.watches w).2 ⟨hw, fun hc => hl (mem_watchesOf.1 hc.1).2⟩,
      fun w hw hl => ⟨fun hn => ?_, fun r hr => ?_⟩, fun _ => ?_⟩
    · rw [htest] at hn
      exact (h.watches w).2 ⟨hw, fun hc => by rw [hn] at hc; nomatch hc.2⟩
    · rw [htest] at hr
      have hin := mem_watchesOf.2 ⟨hw, hl⟩
      exact ⟨fun hc => ((h.watches w).1 hc).2 ⟨hin, by rw [hr]; rfl⟩, h.answers w hin r hr⟩
    · rw [markWatched_watched hwfu, List.any_eq_true]
      exact exists_congr fun w => and_congr_right fun _ => beq_iff_eq

/-- What is said of watches tested again holds of states that agree with them. -/
theorem Retested.transfer {s' t' : State} (h : Retested s t line) (hs : s'.watches = s.watches) (hc : ∀ w, s'.coreOf w = s.coreOf w)
    (hmem : t'.mem = t.mem) (hmd : t'.md = t.md) (hw : t'.watches = t.watches) (hstep : MsgStep t t') : Retested s' t' line := by
  obtain ⟨h1, h2, h3, h4⟩ := h
  have htest (w : Watch) : t'.testLine w.cell w.ty w.kind = t.testLine w.cell w.ty w.kind :=
    testLine_congr hmem (fun l => by rw [hmd]) (fun l => by rw [hmd]) (fun l => by rw [hmd]) _ _ _
  rw [Retested, hs, hw, hmd]
  refine ⟨h1, h2, fun w hw hl => ?_, h4⟩
  obtain ⟨hnone, hsome⟩ := h3 w hw hl
  rw [htest]
  refine ⟨hnone, fun r hr => ⟨(hsome r hr).1, fun core hcore => ?_⟩⟩
  have hans : HasAnswer s t w.home w.who (.result w.who r) := (hsome r hr).2
  exact (hans.step hstep) core ((hc w.who).symm.trans hcore)

/-- Testing again changes WATCHED of the line, watches and messages alone. -/
theorem retest_shape (s : State) (line : Nat) :
    s.retest line = { s with watches := (s.retest line).watches, msgs := (s.retest line).msgs, nextMsg := (s.retest line).nextMsg
                             md := (s.retest line).md } := by
  rw [retest_eq]
  split
  · rfl
  · have h := testedAgain_foldl (testedAgain_nil s) (s.watchesOf line)
    obtain ⟨u, hu⟩ : ∃ u, u = (s.watchesOf line).foldl State.retestOne s := ⟨_, rfl⟩
    rw [← hu] at h ⊢
    rw [State.markWatched, h.shape]

theorem retest_mem (s : State) (line : Nat) : (s.retest line).mem = s.mem := by rw [retest_shape]

theorem retest_fields (hwf : s.md.wf = true) (l : Nat) :
    mdState ((s.retest line).md.read l) = mdState (s.md.read l) ∧ mdWidth ((s.retest line).md.read l) = mdWidth (s.md.read l) ∧
    mdPoison ((s.retest line).md.read l) = mdPoison (s.md.read l) := by
  rw [retest_eq]
  split
  · exact ⟨rfl, rfl, rfl⟩
  · have h := testedAgain_foldl (testedAgain_nil s) (s.watchesOf line)
    obtain ⟨u, hu⟩ : ∃ u, u = (s.watchesOf line).foldl State.retestOne s := ⟨_, rfl⟩
    rw [← hu] at h ⊢
    have hmd : u.md = s.md := by rw [h.shape]
    have hfields := markWatched_fields (s := u) (line := line) (by rw [hmd]; exact hwf) l
    rwa [hmd] at hfields

theorem retest_mdOutside (s : State) (line : Nat) : MdOutside s (s.retest line) line := by
  intro k hk
  rw [retest_eq]
  split
  · rfl
  · have h := testedAgain_foldl (testedAgain_nil s) (s.watchesOf line)
    obtain ⟨u, hu⟩ : ∃ u, u = (s.watchesOf line).foldl State.retestOne s := ⟨_, rfl⟩
    rw [← hu] at h ⊢
    have hread : (u.markWatched line).md.read k = u.md.read k := read_md_other hk
    rw [hread, h.shape]

end
end Sys2Proof.Machine
end

section
/-! PROOFS. Joins at their home (O39): the cells of the line, its metadata, and what is answered. -/
namespace Sys2Proof.Machine
open Sys2Proof.Claims

/-! Lines of memory. -/

theorem Memory.read_clear_apart {a n x : Nat} (h : x < a ∨ a + n ≤ x) : ∀ m : Memory, (m.clear a n).read x = m.read x
  | [] => rfl
  | (a', b') :: r => by
    have ih := Memory.read_clear_apart h r
    unfold Memory.clear at ih ⊢
    rw [List.filter_cons]
    split
    · rw [Memory.read, Memory.read, ih]
    case isFalse hc =>
      rw [ih, Memory.read, if_neg]
      rintro rfl
      refine hc ?_
      simp only [Bool.not_eq_true', Bool.and_eq_false_iff, decide_eq_false_iff_not]
      omega

theorem cellBottom_lt (ty : Nat) {w : Nat} (hw : 0 < w) : cellBottom ty w < 2 ^ w := by
  have hlt : 2 ^ (w - 1) < 2 ^ w := Nat.pow_lt_pow_right (by decide) (by omega)
  have hpos : 0 < 2 ^ (w - 1) := Nat.two_pow_pos _
  rw [cellBottom.eq_def]
  split <;> omega

section
variable {s t u : State} {line ty : Nat}

theorem lineBottom_mem (s : State) (line ty w : Nat) : (s.lineBottom line ty w).mem =
    { cells := s.mem.cells.writeN (128 * line) 128 (packList w (List.replicate (1024 / w) (cellBottom ty w)))
      marks := s.mem.marks.clear (128 * line) 128 } := rfl

/-- Every cell of a line at bottom reads as bottom. -/
theorem lineBottom_cell {n k : Nat} (hn : 0 < n) (hdvd : n ∣ 128) (hwf : s.mem.wf = true) (hk : k < 128 / n) :
    (s.lineBottom line ty (8 * n)).mem.readN (128 * line + k * n) n = cellBottom ty (8 * n) := by
  obtain ⟨q, hq⟩ := hdvd
  have hq' : 128 / n = q := by rw [hq, Nat.mul_div_cancel_left _ hn]
  have hlen : 1024 / (8 * n) = q := by rw [← Nat.div_div_eq_div_mul, hq']
  have hend : k * n + n ≤ 128 := by
    rw [hq, Nat.mul_comm k n, ← Nat.mul_succ]
    exact Nat.mul_le_mul_left _ (hq' ▸ hk)
  have hread := Memory.readN_writeN_inside n (k * n) 128 (128 * line)
    (packList (8 * n) (List.replicate (1024 / (8 * n)) (cellBottom ty (8 * n)))) (Mem.wf_iff.1 hwf).1 hend
  rw [lineBottom_mem, Mem.readN, hread, show 8 * (k * n) = 8 * n * k by rw [Nat.mul_comm k n, Nat.mul_assoc], packList_elem _ _ _ (by
    rw [List.length_replicate, hlen]; exact hq' ▸ hk), List.getElem_replicate, Nat.mod_eq_of_lt (cellBottom_lt ty (by omega))]

theorem lineBottom_outside (s : State) (line ty w b : Nat) (hb : b < 128 * line ∨ 128 * line + 128 ≤ b) :
    (s.lineBottom line ty w).mem.cells.read b = s.mem.cells.read b ∧
    (s.lineBottom line ty w).mem.marks.read b = s.mem.marks.read b := by
  rw [lineBottom_mem]
  refine ⟨?_, Memory.read_clear_apart hb s.mem.marks⟩
  dsimp only
  rw [Memory.read_writeN_apart _ _ _ _ hb]

theorem readN_lt (m : Mem) (a n : Nat) : m.readN a n < 2 ^ (8 * n) := by
  have h : ∀ (n a : Nat), Memory.readN m.cells a n < 2 ^ (8 * n) := by
    intro n
    induction n with
    | zero => exact fun _ => Nat.one_pos
    | succ n ih =>
      intro a
      have hb := (m.cells.read a).isLt
      have hr := ih (a + 1)
      rw [Memory.readN, show 8 * (n + 1) = 8 + 8 * n by omega, Nat.pow_add]
      omega
  exact h n a

/-! The join of two values (R60). -/

theorem cellJoin_lt {ty w old new : Nat} (hold : old < 2 ^ w) (hnew : new < 2 ^ w) : cellJoin ty w old new < 2 ^ w := by
  rw [cellJoin.eq_def]
  split
  · split <;> assumption
  · exact max_lt hold hnew
  · split <;> assumption
  · split <;> assumption
  · exact (min_le_left _ _).trans_lt hold
  · split <;> assumption
  · exact Nat.or_lt_two_pow hold hnew
  · exact (min_le_right _ _).trans_lt (Nat.sub_one_lt (Nat.two_pow_pos w).ne')
  · exact hnew

theorem joined_cellJoin {ty w old new : Nat} (h2 : 2 ≤ ty) (h9 : ty ≤ 9) (hold : old < 2 ^ w) (hnew : new < 2 ^ w) :
    Joined ty w old new (cellJoin ty w old new) := by
  refine ⟨cellJoin_lt hold hnew, ?_⟩
  have hty : ty = 2 ∨ ty = 3 ∨ ty = 4 ∨ ty = 5 ∨ ty = 6 ∨ ty = 7 ∨ ty = 8 ∨ ty = 9 := by omega
  rcases hty with rfl | rfl | rfl | rfl | rfl | rfl | rfl | rfl
  · show signed w (if signed w old < signed w new then new else old) = max (signed w old) (signed w new)
    split <;> omega
  · rfl
  · show orderKey w (if orderKey w old < orderKey w new then new else old) = max (orderKey w old) (orderKey w new)
    split <;> omega
  · show signed w (if signed w new < signed w old then new else old) = min (signed w old) (signed w new)
    split <;> omega
  · rfl
  · show orderKey w (if orderKey w new < orderKey w old then new else old) = min (orderKey w old) (orderKey w new)
    split <;> omega
  · rfl
  · rfl

/-! Requests at their home. -/

theorem msg?_id {m : Nat} {x : Msg} (h : s.msg? m = some x) : x.id = m := by
  simpa using List.find?_some h

theorem atHome_some {m : Nat} {x : Msg} {b : Body} (h : AtHome s m x b) (hb : b.isRequest = true) : s.atHome m = some x := by
  obtain ⟨hm, hloc, hbody, -, -, hroom⟩ := h
  rw [State.atHome, hm]
  dsimp only
  rw [if_pos]
  rw [hloc, hbody, hb, hroom]
  rfl

theorem countAccess_off {x : Msg} (h : x.cnt = false) (s : State) : s.countAccess x = s := by
  rw [State.countAccess, h, State.countAt, Bool.false_and, if_neg Bool.false_ne_true]

theorem gatewaysHold_iff : s.gatewaysHold line = false ↔ Claims.NoReplica s line := by
  rw [State.gatewaysHold, Bool.or_eq_false_iff, List.any_eq_false]
  refine and_congr_right fun _ => forall_congr' fun r => imp_congr_right fun _ => ?_
  rw [beq_iff_eq]

theorem homeJoin_refuses {m : Nat} {x : Msg} {j : JoinReq} (h : AtHome s m x (.join j)) (hm : j.mark = true)
    (hst : mdState (s.md.read (j.cell / 128)) ≠ 2) (hr : ¬ Claims.NoReplica s (j.cell / 128)) :
    homeJoin m s = s.invalidateAll (j.cell / 128) := by
  have hat := atHome_some h rfl
  obtain ⟨-, -, hbody, hfault, -, -⟩ := h
  rw [homeJoin, hat]
  dsimp only
  rw [hbody]
  dsimp only
  rw [hfault]
  dsimp only
  rw [if_pos]
  rw [hm, decide_eq_true hst]
  cases hg : s.gatewaysHold (j.cell / 128) with
  | true => rfl
  | false => exact absurd (gatewaysHold_iff.1 hg) hr

theorem homeJoin_eq {m : Nat} {x : Msg} {j : JoinReq} (hat : s.atHome m = some x) (hbody : x.body = .join j)
    (hfault : s.homeFault x = none)
    (hm : j.mark = true → mdState (s.md.read (j.cell / 128)) ≠ 2 → Claims.NoReplica s (j.cell / 128)) :
    homeJoin m s = (((s.dropMsg x.id).countAccess x).joinAt j).1.ackAll x s.nextMsg (((s.dropMsg x.id).countAccess x).joinAt j).2
      (some ((((s.dropMsg x.id).countAccess x).joinAt j).1.snap (j.cell / 128) j.ty)) := by
  rw [homeJoin, hat]
  dsimp only
  rw [hbody]
  dsimp only
  rw [hfault]
  dsimp only
  rw [if_neg]
  rw [Bool.and_eq_true, Bool.and_eq_true, decide_eq_true_eq]
  rintro ⟨⟨hmark, hst⟩, hg⟩
  rw [gatewaysHold_iff.2 (hm hmark hst)] at hg
  nomatch hg

theorem homeJoin_performs {m : Nat} {x : Msg} {j : JoinReq} (h : AtHome s m x (.join j))
    (hm : j.mark = true → mdState (s.md.read (j.cell / 128)) ≠ 2 → Claims.NoReplica s (j.cell / 128)) :
    homeJoin m s = ((s.dropMsg m).joinAt j).1.ackAll x s.nextMsg ((s.dropMsg m).joinAt j).2
      (some (((s.dropMsg m).joinAt j).1.snap (j.cell / 128) j.ty)) := by
  have hat := atHome_some h rfl
  obtain ⟨hmsg, -, hbody, hfault, hcnt, -⟩ := h
  rw [homeJoin_eq hat hbody hfault hm, countAccess_off hcnt, msg?_id hmsg]

/-- A refused join changes nothing at its home. -/
theorem homeJoin_refused {m : Nat} {x : Msg} {j : JoinReq} {code : FaultCode} (h : AtHome s m x (.join j))
    (hm : j.mark = true → mdState (s.md.read (j.cell / 128)) ≠ 2 → Claims.NoReplica s (j.cell / 128))
    (hr : (s.dropMsg m).joinAt j = (s.dropMsg m, some code)) :
    ∃ t : State, Leads (.homeJoin m) s t ∧ AllAcked s t m x (some code) ∧ t.mem = s.mem ∧ t.md = s.md := by
  refine ⟨_, congrArg Host.Outcome.next (homeJoin_performs h hm), ?_⟩
  rw [hr]
  have hmsgs := msgsOnly_ackAll (s.dropMsg m) x s.nextMsg (some code) (some ((s.dropMsg m).snap (j.cell / 128) j.ty))
  refine ⟨allAcked_of_step (msgStep_refl _) fun _ => rfl, ?_, ?_⟩
  · rw [hmsgs]
    rfl
  · rw [hmsgs]
    rfl

/-! A join performed. -/

/-- The join can be performed at a line of this metadata. -/
def JoinFits (md : BitVec 8) (j : JoinReq) : Prop := mdState md ≠ 2 ∧ (mdWidth md = 0 ∨ mdWidth md = widthCode j.width)

/-- The home with the cell joined, before the watches are tested again. -/
def State.joinWritten (s : State) (j : JoinReq) : State :=
  if j.mark then ((s.widened j).joinCell j).poisonLine (j.cell / 128) else (s.widened j).joinCell j

theorem joinAt_performed {j : JoinReq} (h : JoinFits (s.md.read (j.cell / 128)) j) :
    s.joinAt j = ((s.joinWritten j).retest (j.cell / 128), none) := by
  rw [joinAt_eq, if_neg h.1, if_neg]
  · rfl
  · simp only [ne_eq, Bool.and_eq_true, decide_eq_true_eq, not_and, not_not]
    exact h.2.resolve_left

theorem homeOnly_joinWritten (s : State) (j : JoinReq) : HomeOnly s (s.joinWritten j) := by
  have h := (homeOnly_widened s j).trans (homeOnly_joinCell _ j)
  rw [State.joinWritten]
  split
  · exact h.trans (homeOnly_poisonLine _ _)
  · exact h

theorem msgStep_joinWritten (s : State) (j : JoinReq) : MsgStep s (s.joinWritten j) := by
  have h : MsgStep s ((s.widened j).joinCell j) := (msgStep_widened s j).trans (msgStep_of_eq rfl rfl)
  rw [State.joinWritten]
  split
  · exact h.trans (msgStep_poisonLine _ _)
  · exact h

/-- Only memory's lines, their metadata and the poison log are changed before the watches are looked at. -/
theorem widened_watches (s : State) (j : JoinReq) : (s.widened j).watches = s.watches ∧ (s.widened j).bar1 = s.bar1 := by
  obtain ⟨fs, hf⟩ := endForward_eq s (j.cell / 128)
  rw [State.widened, hf]
  split
  · rw [lineBottom_eq]
    exact ⟨rfl, rfl⟩
  · exact ⟨rfl, rfl⟩

theorem poisonLine_watches (s : State) (line : Nat) : (s.poisonLine line).watches = s.watches := by
  rw [State.poisonLine, State.hostLog]
  dsimp only
  split <;> rfl

theorem poisonLine_md (s : State) (line : Nat) : (s.poisonLine line).md =
    s.md.write line (mdOf (mdWatched (s.md.read line)) (mdWidth (s.md.read line)) true (mdState (s.md.read line))) := by
  rw [State.poisonLine, State.hostLog]
  dsimp only
  split <;> rfl

theorem poisonLine_mem (h : s.bar1.logsize = 0) : (s.poisonLine line).mem = s.mem := by
  rw [State.poisonLine, State.hostLog]
  dsimp only
  rw [if_pos (show (s.spoilReplies line).bar1.logsize = 0 from h)]
  rfl

theorem joinWritten_watches (s : State) (j : JoinReq) : (s.joinWritten j).watches = s.watches := by
  have h : ((s.widened j).joinCell j).watches = s.watches := (widened_watches s j).1
  rw [State.joinWritten]
  split
  · rw [poisonLine_watches, h]
  · exact h

/-! The metadata of the line. -/

theorem poisonLine_fields (hwf : s.md.wf = true) : mdState ((s.poisonLine line).md.read line) = mdState (s.md.read line) ∧
    mdWidth ((s.poisonLine line).md.read line) = mdWidth (s.md.read line) ∧ mdPoison ((s.poisonLine line).md.read line) = true := by
  obtain ⟨-, h2, h3, h4⟩ := mdOf_fields (mdWatched (s.md.read line)) true (mdWidth (s.md.read line)) (mdState (s.md.read line))
  rw [poisonLine_md, read_md_same hwf, h2, h3, h4, Nat.mod_eq_of_lt (mdWidth_lt _), Nat.mod_eq_of_lt (mdState_lt _)]
  exact ⟨rfl, rfl, rfl⟩

theorem poisonLine_mdOutside (s : State) (line : Nat) : MdOutside s (s.poisonLine line) line := fun k hk => by
  rw [poisonLine_md, read_md_other hk]

theorem widthCode_lt (w : Nat) : widthCode w < 4 := by
  rw [widthCode.eq_def]
  split <;> decide

/-- What joining makes of the metadata: the width is the join's, all else but POISON stands. -/
theorem widened_fields (hwf : s.md.wf = true) {j : JoinReq} (h : JoinFits (s.md.read (j.cell / 128)) j) :
    mdState ((s.widened j).md.read (j.cell / 128)) = mdState (s.md.read (j.cell / 128)) ∧
    mdWidth ((s.widened j).md.read (j.cell / 128)) = widthCode j.width ∧
    mdPoison ((s.widened j).md.read (j.cell / 128)) = mdPoison (s.md.read (j.cell / 128)) := by
  obtain ⟨fs, hf⟩ := endForward_eq s (j.cell / 128)
  rw [State.widened, hf]
  split
  · obtain ⟨-, h2, h3, h4⟩ := mdOf_fields (mdWatched (s.md.read (j.cell / 128))) (mdPoison (s.md.read (j.cell / 128)))
      (widthCode j.width) (mdState (s.md.read (j.cell / 128)))
    dsimp only
    rw [read_md_same hwf, h2, h3, h4, Nat.mod_eq_of_lt (widthCode_lt _), Nat.mod_eq_of_lt (mdState_lt _)]
    exact ⟨rfl, rfl, rfl⟩
  case isFalse hset => exact ⟨rfl, h.2.resolve_left hset, rfl⟩

theorem widened_mdOutside (s : State) (j : JoinReq) : MdOutside s (s.widened j) (j.cell / 128) := by
  intro k hk
  obtain ⟨fs, hf⟩ := endForward_eq s (j.cell / 128)
  rw [State.widened, hf]
  split
  · exact read_md_other hk
  · rfl

theorem joinWritten_fields (hwf : s.md.wf = true) {j : JoinReq} (h : JoinFits (s.md.read (j.cell / 128)) j) :
    mdState ((s.joinWritten j).md.read (j.cell / 128)) = mdState (s.md.read (j.cell / 128)) ∧
    mdWidth ((s.joinWritten j).md.read (j.cell / 128)) = widthCode j.width ∧
    mdPoison ((s.joinWritten j).md.read (j.cell / 128)) = (j.mark || mdPoison (s.md.read (j.cell / 128))) := by
  obtain ⟨h1, h2, h3⟩ := widened_fields hwf h
  have hwf' : ((s.widened j).joinCell j).md.wf = true := (homeOnly_widened s j).2.2 hwf
  cases hm : j.mark with
  | true =>
    rw [State.joinWritten, hm, if_pos rfl]
    obtain ⟨k1, k2, k3⟩ := poisonLine_fields (line := j.cell / 128) hwf'
    exact ⟨k1.trans h1, k2.trans h2, k3⟩
  | false =>
    rw [State.joinWritten, hm, if_neg Bool.false_ne_true]
    exact ⟨h1, h2, h3⟩

theorem joinWritten_mdOutside (s : State) (j : JoinReq) : MdOutside s (s.joinWritten j) (j.cell / 128) := by
  have h : MdOutside s ((s.widened j).joinCell j) (j.cell / 128) := widened_mdOutside s j
  rw [State.joinWritten]
  split
  · exact fun k hk => (poisonLine_mdOutside _ _ k hk).trans (h k hk)
  · exact h

/-! The cells of the line. -/

/-- The value of a cell before the join: bottom in a line without a width. -/
def cellBefore (s : State) (j : JoinReq) (a n : Nat) : Nat :=
  if mdWidth (s.md.read (j.cell / 128)) = 0 then cellBottom j.ty j.width else s.mem.readN a n

theorem widened_mem (s : State) (j : JoinReq) : (s.widened j).mem =
    if mdWidth (s.md.read (j.cell / 128)) = 0 then (s.lineBottom (j.cell / 128) j.ty j.width).mem else s.mem := by
  obtain ⟨fs, hf⟩ := endForward_eq s (j.cell / 128)
  rw [State.widened, hf]
  split <;> rfl

theorem widened_cell {j : JoinReq} {n k : Nat} (hwf : s.mem.wf = true) (hn : 0 < n) (hdvd : n ∣ 128) (hw : j.width = 8 * n)
    (hk : k < 128 / n) : (s.widened j).mem.readN (128 * (j.cell / 128) + k * n) n = cellBefore s j (128 * (j.cell / 128) + k * n) n := by
  rw [widened_mem, cellBefore]
  split
  · rw [hw]
    exact lineBottom_cell hn hdvd hwf hk
  · rfl

theorem widened_outside (s : State) (j : JoinReq) : MemOutside s (s.widened j) (128 * (j.cell / 128)) 128 := by
  intro b hb
  rw [widened_mem]
  split
  · exact lineBottom_outside s _ _ _ b hb
  · exact ⟨rfl, rfl⟩

/-- The place of an aligned cell in its line. -/
theorem cell_place {c n : Nat} (hn : 0 < n) (hdvd : n ∣ 128) (hal : c % n = 0) :
    c % 128 / n < 128 / n ∧ c = 128 * (c / 128) + c % 128 / n * n := by
  have hal' : c % 128 % n = 0 := by rw [Nat.mod_mod_of_dvd _ hdvd, hal]
  refine ⟨Nat.div_lt_div_of_lt_of_dvd hdvd (Nat.mod_lt _ (by decide)), ?_⟩
  rw [Nat.div_mul_cancel (Nat.dvd_of_mod_eq_zero hal'), Nat.div_add_mod]

theorem cell_inside {c n : Nat} (hn : 0 < n) (hdvd : n ∣ 128) (hal : c % n = 0) : c + n ≤ 128 * (c / 128) + 128 := by
  obtain ⟨hk, hc⟩ := cell_place hn hdvd hal
  obtain ⟨q, hq⟩ := hdvd
  have hq' : 128 / n = q := by rw [hq, Nat.mul_div_cancel_left _ hn]
  have hle : (c % 128 / n + 1) * n ≤ q * n := Nat.mul_le_mul_right n (hq' ▸ hk)
  rw [Nat.succ_mul, Nat.mul_comm q n, ← hq] at hle
  omega

theorem joinCell_outside (s : State) (j : JoinReq) {n : Nat} (hn : 0 < n) (hdvd : n ∣ 128) (hw : j.width = 8 * n)
    (hal : j.cell % n = 0) : MemOutside s ((s.widened j).joinCell j) (128 * (j.cell / 128)) 128 := by
  intro b hb
  obtain ⟨h1, h2⟩ := widened_outside s j b hb
  have hin := cell_inside hn hdvd hal
  have hdm := Nat.div_mul_le_self j.cell 128
  have hdiv : j.width / 8 = n := by rw [hw, Nat.mul_div_cancel_left _ (by decide)]
  refine ⟨(Memory.read_writeN_apart _ _ _ _ ?_).trans h1, h2⟩
  rw [hdiv]
  omega

theorem joinCell_cell (s : State) (j : JoinReq) {n : Nat} (hwf : s.mem.wf = true) (hn : 0 < n) (hdvd : n ∣ 128) (hw : j.width = 8 * n)
    (hal : j.cell % n = 0) : ((s.widened j).joinCell j).mem.readN j.cell n = j.result (cellBefore s j j.cell n) % 2 ^ (8 * n) := by
  have hdiv : j.width / 8 = n := by rw [hw, Nat.mul_div_cancel_left _ (by decide)]
  have hwf' : (s.widened j).mem.wf = true := (homeOnly_widened s j).2.1 hwf
  obtain ⟨hk, hc⟩ := cell_place hn hdvd hal
  have hold : (s.widened j).mem.readN j.cell n = cellBefore s j j.cell n := by
    have h := widened_cell (j := j) hwf hn hdvd hw hk
    rwa [← hc] at h
  have hwrite : ((s.widened j).joinCell j).mem.readN j.cell n =
      Memory.readN ((s.widened j).mem.cells.writeN j.cell (j.width / 8) (j.result ((s.widened j).mem.readN j.cell (j.width / 8)))) j.cell n := rfl
  rw [hwrite, hdiv, hold]
  exact Memory.readN_writeN n j.cell _ (Mem.wf_iff.1 hwf').1

theorem joinCell_others (s : State) (j : JoinReq) {n k : Nat} (hwf : s.mem.wf = true) (hn : 0 < n) (hdvd : n ∣ 128) (hw : j.width = 8 * n)
    (hal : j.cell % n = 0) (hk : k < 128 / n) (hne : 128 * (j.cell / 128) + k * n ≠ j.cell) :
    ((s.widened j).joinCell j).mem.readN (128 * (j.cell / 128) + k * n) n = cellBefore s j (128 * (j.cell / 128) + k * n) n := by
  have hdiv : j.width / 8 = n := by rw [hw, Nat.mul_div_cancel_left _ (by decide)]
  rw [← widened_cell hwf hn hdvd hw hk]
  obtain ⟨-, hc⟩ := cell_place hn hdvd hal
  refine Memory.readN_congr n _ fun x h1 h2 => Memory.read_writeN_apart _ _ _ _ ?_
  rw [hdiv]
  have hneq : k ≠ j.cell % 128 / n := by
    rintro rfl
    exact hne hc.symm
  rcases Nat.lt_or_gt_of_ne hneq with hlt | hgt
  · have := Nat.mul_le_mul_right n hlt
    rw [Nat.succ_mul] at this
    omega
  · have := Nat.mul_le_mul_right n hgt
    rw [Nat.succ_mul] at this
    omega

end
end Sys2Proof.Machine
end

section
/-! PROOFS. Requests counted first (R101), and what is said of joins at their home (O39). -/
namespace Sys2Proof.Machine
open Sys2Proof.Claims

section
variable {s t : State} {m : Nat} {x : Msg}

/-! Counters (R101, R102). -/

theorem counter_setCounter_same (s : State) (u n : Nat) : (s.setCounter u n).counter u = n := by
  rw [State.counter, State.setCounter]
  dsimp only
  split
  case isTrue h =>
    have hnone : (s.counters.filter (fun c => c.1 != u)).find? (fun c => c.1 == u) = none := by
      refine List.find?_eq_none.2 fun c hc => ?_
      have := (List.mem_filter.1 hc).2
      simpa using this
    rw [hnone, h]
    rfl
  · rw [List.find?_cons_of_pos (by simp)]
    rfl

theorem counter_setCounter_other (s : State) {u v : Nat} (n : Nat) (h : v ≠ u) : (s.setCounter u n).counter v = s.counter v := by
  have hfilter : ∀ l : List (Nat × Nat), (l.filter (fun c => c.1 != u)).find? (fun c => c.1 == v) = l.find? (fun c => c.1 == v) := by
    intro l
    induction l with
    | nil => rfl
    | cons c l ih =>
      by_cases hc : c.1 = u
      · rw [List.filter_cons_of_neg (by simp [hc]), ih, List.find?_cons_of_neg]
        simpa [hc] using h.symm
      · rw [List.filter_cons_of_pos (by simpa using hc), List.find?_cons, List.find?_cons, ih]
  rw [State.counter, State.counter, State.setCounter]
  dsimp only
  split
  · rw [hfilter]
  · rw [List.find?_cons_of_neg (by simpa using h.symm), hfilter]

theorem notify_counters (s : State) (unit : Nat) (va : Word) (asid : BitVec 12) : (s.notify unit va asid).counters = s.counters := by
  obtain ⟨m, h⟩ := s.notify_eq unit va asid
  rw [h]

theorem countingRule : CountingRule := by
  intro cnt key va asid s
  dsimp only
  rw [State.countAt]
  cases hc : (cnt && (secondTier key 1 || hostMemory key 1)) with
  | false =>
    rw [if_neg Bool.false_ne_true]
    exact ⟨fun _ => rfl, nofun, fun _ _ => rfl, fun _ => rfl⟩
  | true =>
    rw [if_pos rfl]
    by_cases hn : s.counter (key / 65536) < 65535
    · rw [if_pos hn]
      have hcounters (v : State) (hv : v.counters = (s.setCounter (key / 65536) (s.counter (key / 65536) + 1)).counters) :
          v.counter (key / 65536) = s.counter (key / 65536) + 1 ∧ ∀ u, u ≠ key / 65536 → v.counter u = s.counter u := by
        have hcount (u : Nat) : v.counter u = (s.setCounter (key / 65536) (s.counter (key / 65536) + 1)).counter u := by
          rw [State.counter, hv, ← State.counter]
        exact ⟨(hcount _).trans (counter_setCounter_same s _ _), fun u hu => (hcount u).trans (counter_setCounter_other s _ hu)⟩
      split
      case isTrue ht =>
        obtain ⟨h1, h2⟩ := hcounters _ (notify_counters _ _ va asid)
        exact ⟨nofun, fun _ => .inl (by rw [h1]; omega), h2, fun hne => absurd ht hne⟩
      · obtain ⟨h1, h2⟩ := hcounters _ rfl
        exact ⟨nofun, fun _ => .inl (by rw [h1]; omega), h2, fun _ => rfl⟩
    · rw [if_neg hn]
      exact ⟨nofun, fun _ => by omega, fun _ _ => rfl, fun _ => rfl⟩

/-! A request counted before it is performed. -/

/-- The state in which the request's access has been counted. -/
def accessCounted (s : State) (x : Msg) : State := (s.countAt true x.body.key x.va x.asid).putMsg { x with cnt := false }

/-- The state with other messages. -/
def State.withMsgs (s : State) (l : List Msg) : State := { s with msgs := l }

theorem notify_withMsgs (s : State) (l : List Msg) (unit : Nat) (va : Word) (asid : BitVec 12) :
    (s.withMsgs l).notify unit va asid = (s.notify unit va asid).withMsgs l := by
  have hbar : (s.withMsgs l).bar1 = s.bar1 := rfl
  have hmem : (s.withMsgs l).mem = s.mem := rfl
  simp only [State.notify, hbar, hmem]
  split
  · rfl
  · split <;> rfl

theorem countAt_withMsgs (s : State) (cnt : Bool) (key : Nat) (va : Word) (asid : BitVec 12) (l : List Msg) :
    (s.withMsgs l).countAt cnt key va asid = (s.countAt cnt key va asid).withMsgs l := by
  have hset (u n : Nat) : (s.withMsgs l).setCounter u n = (s.setCounter u n).withMsgs l := rfl
  have hcounter (u : Nat) : (s.withMsgs l).counter u = s.counter u := rfl
  have hbar : (s.withMsgs l).bar1 = s.bar1 := rfl
  simp only [State.countAt, hset, hcounter, hbar, notify_withMsgs]
  split
  · split
    · split <;> rfl
    · rfl
  · rfl

theorem dropMsg_withMsgs (s : State) (m : Nat) : s.dropMsg m = s.withMsgs (s.msgs.filter (fun y => y.id != m)) := rfl

/-- Counting first changes memory's notifications, counters and the request's mark alone. -/
theorem counted_shape (s : State) (x : Msg) : ∃ mem cs, accessCounted s x = { s with
    mem := mem, counters := cs, msgs := s.msgs.map (fun y => if y.id = x.id then { x with cnt := false } else y) } := by
  obtain ⟨mem, cs, h⟩ := s.countAt_eq true x.body.key x.va x.asid
  exact ⟨mem, cs, by rw [accessCounted, State.putMsg, h]⟩

theorem counted_dropMsg (hcnt : x.cnt = true) : ((accessCounted s x).dropMsg x.id).countAccess { x with cnt := false } =
    (s.dropMsg x.id).countAccess x := by
  have hfilter : (s.msgs.map (fun y => if y.id = x.id then { x with cnt := false } else y)).filter (fun y => y.id != x.id) =
      s.msgs.filter (fun y => y.id != x.id) := by
    induction s.msgs with
    | nil => rfl
    | cons y l ih =>
      rw [List.map_cons]
      by_cases hy : y.id = x.id
      · rw [if_pos hy, List.filter_cons_of_neg (by simp), List.filter_cons_of_neg (by simp [hy]), ih]
      · rw [if_neg hy, List.filter_cons_of_pos (by simpa using hy), List.filter_cons_of_pos (by simpa using hy), ih]
  rw [countAccess_off rfl, State.countAccess, hcnt, dropMsg_withMsgs, dropMsg_withMsgs, countAt_withMsgs]
  obtain ⟨mem, cs, h⟩ := s.countAt_eq true x.body.key x.va x.asid
  rw [accessCounted, State.putMsg, h]
  exact congrArg (State.withMsgs { s with mem := mem, counters := cs }) hfilter

theorem find_replaced {l : List Msg} {y : Msg} (hy : y.id = m) (h : l.find? (fun z => z.id == m) = some x) :
    (l.map (fun z => if z.id = y.id then y else z)).find? (fun z => z.id == m) = some y := by
  induction l with
  | nil => nomatch h
  | cons z l ih =>
    rw [List.map_cons]
    by_cases hz : z.id = m
    · rw [if_pos (hz.trans hy.symm)]
      exact List.find?_cons_of_pos (by simpa using hy)
    · rw [List.find?_cons_of_neg (by simpa using hz)] at h
      rw [if_neg (by rw [hy]; exact hz), List.find?_cons_of_neg (by simpa using hz)]
      exact ih h

theorem msg?_putMsg {y : Msg} (hy : y.id = m) (h : s.msg? m = some x) : (s.putMsg y).msg? m = some y := find_replaced hy h

theorem counted_msg (hm : s.msg? m = some x) : (accessCounted s x).msg? m = some { x with cnt := false } := by
  obtain ⟨mem, cs, h⟩ := s.countAt_eq true x.body.key x.va x.asid
  have hid := msg?_id hm
  rw [accessCounted, h]
  exact msg?_putMsg (s := { s with mem := mem, counters := cs }) (y := { x with cnt := false }) hid hm

/-- Room for the answers is not less when the request itself has been counted. -/
theorem counted_hasRoom (hloc : x.loc = .arrived) (h : s.hasRoom x = true) : (accessCounted s x).hasRoom { x with cnt := false } = true := by
  obtain ⟨mem, cs, hs⟩ := counted_shape s x
  have hle : ∀ l : List Msg, ((l.map (fun y => if y.id = x.id then { x with cnt := false } else y)).filter
      (fun y => y.src == x.dst && y.channel.1 == 1 && y.loc == .source)).length ≤
      (l.filter (fun y => y.src == x.dst && y.channel.1 == 1 && y.loc == .source)).length := by
    intro l
    induction l with
    | nil => exact Nat.le_refl _
    | cons y l ih =>
      rw [List.map_cons]
      by_cases hy : y.id = x.id
      · rw [if_pos hy, List.filter_cons_of_neg (by rw [hloc]; simp)]
        refine ih.trans ?_
        rw [List.filter_cons]
        split
        · exact Nat.le_succ _
        · exact Nat.le_refl _
      · rw [if_neg hy, List.filter_cons, List.filter_cons]
        split
        · exact Nat.succ_le_succ ih
        · exact ih
  have hlen := hle s.msgs
  rw [State.hasRoom, Bool.or_eq_true, decide_eq_true_eq, decide_eq_true_eq] at h ⊢
  rw [hs]
  dsimp only
  omega

theorem counted_atHome (hm : s.msg? m = some x) (hloc : x.loc = .arrived) (hreq : x.body.isRequest = true) (hroom : s.hasRoom x = true) :
    s.atHome m = some x ∧ (accessCounted s x).atHome m = some { x with cnt := false } := by
  constructor
  · rw [State.atHome, hm]
    dsimp only
    rw [hloc, hreq, hroom]
    rfl
  · rw [State.atHome, counted_msg hm]
    dsimp only
    rw [counted_hasRoom hloc hroom, hloc, hreq]
    rfl

theorem counted_homeFault : (accessCounted s x).homeFault { x with cnt := false } = s.homeFault x := by
  obtain ⟨mem, cs, h⟩ := counted_shape s x
  rw [h]
  rfl

theorem counted_md : (accessCounted s x).md = s.md ∧ (accessCounted s x).nextMsg = s.nextMsg ∧ (accessCounted s x).replicas = s.replicas := by
  obtain ⟨mem, cs, h⟩ := counted_shape s x
  rw [h]
  exact ⟨rfl, rfl, rfl⟩

theorem counted_invalidating {line : Nat} (hreq : x.body.isRequest = true) (h : s.invalidating line = false) :
    (accessCounted s x).invalidating line = false := by
  obtain ⟨mem, cs, hs⟩ := counted_shape s x
  rw [State.invalidating, hs]
  dsimp only
  rw [List.any_map, List.any_eq_false]
  intro y hy
  rw [Function.comp_apply]
  have hno := List.any_eq_false.1 h y hy
  by_cases hid : y.id = x.id
  · rw [if_pos hid]
    dsimp only
    cases hb : x.body with
    | inval l g => rw [hb] at hreq; nomatch hreq
    | _ => exact Bool.false_ne_true
  · rw [if_neg hid]
    exact hno

theorem counted_noReplica {line : Nat} (hreq : x.body.isRequest = true) (h : Claims.NoReplica s line) :
    Claims.NoReplica (accessCounted s x) line :=
  ⟨counted_invalidating hreq h.1, fun r hr => h.2 r (counted_md.2.2 ▸ hr)⟩

theorem homeJoin_counted {j : JoinReq} (hb : x.body = .join j) (hno : j.mark = true → Claims.NoReplica s (j.cell / 128)) :
    CountsFirst .homeJoin s m x := by
  intro hm hloc hfault hcnt hroom
  have hreq : x.body.isRequest = true := by rw [hb]; rfl
  obtain ⟨hat, hat'⟩ := counted_atHome hm hloc hreq hroom
  have hmd := (counted_md (s := s) (x := x)).1
  refine congrArg Host.Outcome.next ((homeJoin_eq hat hb hfault fun hmark _ => hno hmark).trans (Eq.symm ?_))
  refine (homeJoin_eq (s := accessCounted s x) hat' hb (counted_homeFault.trans hfault) fun hmark _ => counted_noReplica hreq (hno hmark)).trans ?_
  rw [counted_dropMsg hcnt, counted_md.2.1]
  rfl

end
end Sys2Proof.Machine
end

section
/-! PROOFS. Joins at their home settled (O39). -/
namespace Sys2Proof.Machine
open Sys2Proof.Claims

section
variable {s t : State} {m : Nat} {x : Msg}

theorem Memory.readN_add (m : Memory) (n : Nat) : ∀ (k a : Nat), m.readN a (k + n) = m.readN a k + 2 ^ (8 * k) * m.readN (a + k) n
  | 0, a => by rw [Nat.zero_add, Memory.readN, Nat.mul_zero, Nat.pow_zero, Nat.one_mul, Nat.zero_add]; rfl
  | k + 1, a => by
    rw [Nat.add_right_comm, Memory.readN, Memory.readN, Memory.readN_add m n k (a + 1), show a + (k + 1) = a + 1 + k by omega,
      show 8 * (k + 1) = 8 * k + 8 by omega, Nat.pow_add]
    ring

/-- The two parts of a value in memory. -/
theorem readN_parts (m : Mem) (a k n : Nat) : m.readN a k = m.readN a (k + n) % 2 ^ (8 * k) ∧
    m.readN (a + k) n = m.readN a (k + n) / 2 ^ (8 * k) := by
  have h : m.readN a (k + n) = m.readN a k + 2 ^ (8 * k) * m.readN (a + k) n := Memory.readN_add m.cells n k a
  have hlt := readN_lt m a k
  rw [h, Nat.add_mul_mod_self_left, Nat.mod_eq_of_lt hlt, Nat.add_mul_div_left _ _ (Nat.two_pow_pos _), Nat.div_eq_of_lt hlt,
    Nat.zero_add]
  exact ⟨rfl, rfl⟩

/-- What a request at a home does that writes its line, has its watches tested again and is acknowledged. -/
theorem written_acked {u : State} {line n0 : Nat} {code : Option FaultCode} {snap : Option LineSnap}
    (hu : HomeOnly (s.dropMsg m) u) (hstep : MsgStep (s.dropMsg m) u) (hw : u.watches = s.watches) (hwf : u.md.wf = true) :
    AllAcked s ((u.retest line).ackAll x n0 code snap) m x code ∧ Retested s ((u.retest line).ackAll x n0 code snap) line := by
  have hall := hu.trans (homeOnly_retest u line)
  refine ⟨allAcked_of_step (hstep.trans (msgStep_retest u line)) fun w => hall.coreOf w, ?_⟩
  obtain ⟨wakes, he⟩ := ackAll_eq (u.retest line) x n0 code snap
  have honly := msgsOnly_ackAll (u.retest line) x n0 code snap
  exact Retested.transfer (retest_retested hwf line) hw.symm (fun w => (hu.coreOf w).symm) (by rw [honly]) (by rw [honly]) (by rw [honly])
    (msgStep_ackAll _ _ _ _ _)

theorem acked_kept {u : State} {n0 : Nat} {code : Option FaultCode} {snap : Option LineSnap} :
    (u.ackAll x n0 code snap).mem = u.mem ∧ (u.ackAll x n0 code snap).md = u.md := by
  have honly := msgsOnly_ackAll u x n0 code snap
  exact ⟨by rw [honly], by rw [honly]⟩

theorem homeJoin_joined {j : JoinReq} (h : AtHome s m x (.join j)) (hwf : s.md.wf = true)
    (hm : j.mark = true → Claims.NoReplica s (j.cell / 128)) (hfit : JoinFits (s.md.read (j.cell / 128)) j) :
    ∃ t : State, Leads (.homeJoin m) s t ∧ AllAcked s t m x none ∧ t.mem = ((s.dropMsg m).joinWritten j).mem ∧
      MdOutside s t (j.cell / 128) ∧ mdWidth (t.md.read (j.cell / 128)) = widthCode j.width ∧
      mdState (t.md.read (j.cell / 128)) = mdState (s.md.read (j.cell / 128)) ∧
      mdPoison (t.md.read (j.cell / 128)) = (j.mark || mdPoison (s.md.read (j.cell / 128))) ∧ Retested s t (j.cell / 128) := by
  have hexec := homeJoin_performs h fun hmark _ => hm hmark
  obtain ⟨v, hv⟩ : ∃ v, v = s.dropMsg m := ⟨_, rfl⟩
  have hvmd : v.md = s.md := by rw [hv]; rfl
  have hvw : v.watches = s.watches := by rw [hv]; rfl
  rw [← hv] at hexec ⊢
  have hfitv : JoinFits (v.md.read (j.cell / 128)) j := by rw [hvmd]; exact hfit
  have hwfv : v.md.wf = true := by rw [hvmd]; exact hwf
  rw [joinAt_performed hfitv] at hexec
  obtain ⟨hst, hwd, hpo⟩ := joinWritten_fields hwfv hfitv
  have hout := joinWritten_mdOutside v j
  have honly := homeOnly_joinWritten v j
  have hstep := msgStep_joinWritten v j
  have hwatch := (joinWritten_watches v j).trans hvw
  obtain ⟨u, hu⟩ : ∃ u, u = v.joinWritten j := ⟨_, rfl⟩
  rw [← hu] at hexec hst hwd hpo hout honly hstep hwatch ⊢
  have hwfu : u.md.wf = true := honly.2.2 hwfv
  obtain ⟨hacked, hre⟩ := written_acked (x := x) (line := j.cell / 128) (n0 := s.nextMsg) (code := none)
    (snap := some ((u.retest (j.cell / 128)).snap (j.cell / 128) j.ty)) (hv ▸ honly) (hv ▸ hstep) hwatch hwfu
  obtain ⟨hst', hwd', hpo'⟩ := retest_fields (line := j.cell / 128) hwfu (j.cell / 128)
  refine ⟨_, congrArg Host.Outcome.next hexec, hacked, acked_kept.1.trans (retest_mem _ _), fun k hk => ?_, ?_, ?_, ?_, hre⟩
  · rw [acked_kept.2, retest_mdOutside _ _ k hk, hout k hk, hvmd]
  · rw [acked_kept.2, hwd', hwd]
  · rw [acked_kept.2, hst', hst, hvmd]
  · rw [acked_kept.2, hpo', hpo, hvmd]

theorem joinWritten_plain {j : JoinReq} (h : j.mark = false) : s.joinWritten j = (s.widened j).joinCell j := by
  rw [State.joinWritten, h, if_neg Bool.false_ne_true]

theorem joinWritten_mem_unlogged {j : JoinReq} (h : s.bar1.logsize = 0) :
    (s.joinWritten j).mem = ((s.widened j).joinCell j).mem := by
  rw [State.joinWritten]
  split
  · exact poisonLine_mem ((congrArg _ (widened_watches s j).2).trans h)
  · rfl

/-- A width of a cell in bytes. -/
theorem width_bytes {w : Nat} (h : w ∈ [16, 32, 64, 128]) : 0 < w / 8 ∧ w / 8 ∣ 128 ∧ w = 8 * (w / 8) := by
  simp only [List.mem_cons, List.not_mem_nil, or_false] at h
  rcases h with rfl | rfl | rfl | rfl <;> decide

theorem cellBefore_lt (s : State) (j : JoinReq) (a : Nat) {n : Nat} (hn : 0 < n) (hw : j.width = 8 * n) :
    cellBefore s j a n < 2 ^ (8 * n) := by
  rw [cellBefore]
  split
  · rw [hw]
    exact cellBottom_lt j.ty (by omega)
  · exact readN_lt _ _ _

theorem joined_result {j : JoinReq} {old : Nat} (h2 : 2 ≤ j.ty) (h9 : j.ty ≤ 9) (hold : old < 2 ^ j.width) (h0 : 0 ≤ j.val)
    (hval : j.val < 2 ^ j.width) : Joined j.ty j.width old j.val.toNat (j.result old % 2 ^ j.width) := by
  have hnew : j.val.toNat < 2 ^ j.width := by
    rw [Int.toNat_lt h0]
    exact_mod_cast hval
  have hj := joined_cellJoin h2 h9 hold hnew
  rw [JoinReq.result, if_neg (by omega), Nat.mod_eq_of_lt hj.1]
  exact hj

theorem joined_cell {j : JoinReq} (hwf : s.mem.wf = true) (hwidth : j.width ∈ [16, 32, 64, 128]) (hal : j.cell % (j.width / 8) = 0)
    (h2 : 2 ≤ j.ty) (h9 : j.ty ≤ 9) (h0 : 0 ≤ j.val) (hval : j.val < 2 ^ j.width) :
    Joined j.ty j.width (cellBefore s j j.cell (j.width / 8)) j.val.toNat
      (((s.widened j).joinCell j).mem.readN j.cell (j.width / 8)) := by
  obtain ⟨hn, hdvd, hw⟩ := width_bytes hwidth
  rw [joinCell_cell s j hwf hn hdvd hw hal, ← hw]
  have hold := cellBefore_lt s j j.cell hn hw
  rw [← hw] at hold
  exact joined_result h2 h9 hold h0 hval

theorem fxCell_parts (sum : Int) (count : Nat) : fxCell sum count % 2 ^ 128 % 2 ^ (8 * 12) = (sum % 2 ^ 96).toNat ∧
    fxCell sum count % 2 ^ 128 / 2 ^ (8 * 12) = min count (2 ^ 32 - 1) := by
  have hlt : (sum % 2 ^ 96).toNat < 2 ^ 96 := by omega
  rw [fxCell, unsignedOf]
  norm_num at *
  omega

theorem fxsum_cell {j : JoinReq} (hwf : s.mem.wf = true) (hty : j.ty = 10) (hwidth : j.width = 128) (hal : j.cell % 16 = 0) :
    ((s.widened j).joinCell j).mem.readN j.cell 12 = ((signed 96 (cellBefore s j j.cell 16) + j.val) % 2 ^ 96).toNat ∧
    ((s.widened j).joinCell j).mem.readN (j.cell + 12) 4 = min (cellBefore s j j.cell 16 / 2 ^ 96 + j.count) (2 ^ 32 - 1) := by
  obtain ⟨hlow, hhigh⟩ := readN_parts ((s.widened j).joinCell j).mem j.cell 12 4
  rw [hlow, hhigh, joinCell_cell s j hwf (n := 16) (by decide) (by decide) hwidth hal, JoinReq.result, if_pos hty]
  exact fxCell_parts _ _

/-- Settles O39: a request at its home is the writing of its cell, the test of the line's watches and the acknowledgements, and
each of these is said by its own lemmas. -/
theorem homesPerformJoins : Obligations.HomesPerformJoins := by
  unfold Obligations.HomesPerformJoins
  refine ⟨?_, ?_, ?_, ?_, ?_, fun m s x j h hm hst hr => congrArg Host.Outcome.next (homeJoin_refuses h hm hst hr), countingRule,
    fun m s x j hb hno => homeJoin_counted hb hno⟩
  · intro m s x j h hmark hform h2 h9 hwidth hal h0 hval line n unset hst hfit
    have hwidth' : j.width ∈ [16, 32, 64, 128] := by
      simp only [List.mem_cons, List.not_mem_nil, or_false] at hwidth ⊢
      omega
    obtain ⟨hn, hdvd, hw⟩ := width_bytes hwidth'
    obtain ⟨hwfm, -, -, hwfd⟩ := hform
    obtain ⟨t, hl, hack, hmem, hout, hwd, hst', hpo, hre⟩ := homeJoin_joined h hwfd (by simp [hmark]) ⟨hst, hfit⟩
    rw [joinWritten_plain hmark] at hmem
    refine ⟨t, hl, hack, ?_, ?_, ?_, hout, hwd, hst', by rw [hpo, hmark, Bool.false_or], hre⟩
    · rw [hmem]
      exact joined_cell (s := s.dropMsg m) hwfm hwidth' hal h2 h9 h0 hval
    · intro k hk hne
      rw [hmem]
      exact joinCell_others (s.dropMsg m) j hwfm hn hdvd hw hal hk hne
    · intro b hb
      rw [hmem]
      exact joinCell_outside (s.dropMsg m) j hn hdvd hw hal b hb
  · intro m s x j h hmark hform hty hwidth hal hst unset old hfit
    obtain ⟨hwfm, -, -, hwfd⟩ := hform
    have hcode : widthCode j.width = 3 := by rw [hwidth]; rfl
    obtain ⟨t, hl, hack, hmem, -, hwd, -, -, hre⟩ := homeJoin_joined h hwfd (by simp [hmark]) ⟨hst, hcode ▸ hfit⟩
    rw [joinWritten_plain hmark] at hmem
    have hold : cellBefore (s.dropMsg m) j j.cell 16 = old := by
      rw [cellBefore, hty, hwidth]
      rfl
    obtain ⟨hsum, hcount⟩ := fxsum_cell (s := s.dropMsg m) (j := j) hwfm hty hwidth hal
    refine ⟨t, hl, hack, ?_, ?_, ?_, hwd.trans hcode, hre⟩
    · rw [hmem, hsum, hold]
    · rw [hmem, hcount, hold]
    · intro b hb
      rw [hmem]
      exact joinCell_outside (s.dropMsg m) j (n := 16) (by decide) (by decide) hwidth hal b hb
  · intro m s x j h hst
    refine homeJoin_refused h (fun _ hne => absurd hst hne) ?_
    rw [joinAt_eq, if_pos]
    exact hst
  · intro m s x j h hm hst hw0 hw
    refine homeJoin_refused h (fun hmark _ => hm hmark) ?_
    rw [joinAt_eq, if_neg, if_pos]
    · simpa using ⟨hw0, hw⟩
    · exact hst
  · intro m s x j h hmark hform line hst hfit hno
    obtain ⟨hwfm, -, -, hwfd⟩ := hform
    obtain ⟨t, hl, hack, hmem, -, hwd, hst', hpo, hre⟩ := homeJoin_joined h hwfd (fun _ => hno) ⟨hst, hfit⟩
    refine ⟨t, hl, hack, by rw [hpo, hmark, Bool.true_or], hst', hwd, hre, fun hlog hwidth hal => ?_⟩
    rw [joinWritten_mem_unlogged (s := s.dropMsg m) hlog] at hmem
    obtain ⟨hn, hdvd, hw⟩ := width_bytes hwidth
    refine ⟨fun b hb => ?_, fun h2 h9 hw64 h0 hval => ?_⟩
    · rw [hmem]
      exact joinCell_outside (s.dropMsg m) j hn hdvd hw hal b hb
    · rw [hmem]
      exact joined_cell (s := s.dropMsg m) hwfm hwidth hal h2 h9 h0 hval

end
end Sys2Proof.Machine
end

section
/-! PROOFS. Fills, freezes and stores at their home (O40). -/
namespace Sys2Proof.Machine
open Sys2Proof.Claims

section
variable {s t u : State} {m line n0 : Nat} {x : Msg} {code : Option FaultCode} {snap : Option LineSnap}

/-- `t` is `u` once the line's watches have been tested again and the request has been acknowledged. -/
structure Performed (s u t : State) (m : Nat) (x : Msg) (line : Nat) (code : Option FaultCode) : Prop where
  acked : AllAcked s t m x code
  retested : Retested s t line
  mem : t.mem = u.mem
  state : mdState (t.md.read line) = mdState (u.md.read line)
  width : mdWidth (t.md.read line) = mdWidth (u.md.read line)
  poison : mdPoison (t.md.read line) = mdPoison (u.md.read line)
  outside : MdOutside u t line

theorem performed (hu : HomeOnly (s.dropMsg m) u) (hstep : MsgStep (s.dropMsg m) u) (hw : u.watches = s.watches) (hwf : s.md.wf = true) :
    Performed s u ((u.retest line).ackAll x n0 code snap) m x line code := by
  have hwfu : u.md.wf = true := hu.2.2 hwf
  obtain ⟨hacked, hre⟩ := written_acked (x := x) (line := line) (n0 := n0) (code := code) (snap := snap) hu hstep hw hwfu
  obtain ⟨hst, hwd, hpo⟩ := retest_fields (line := line) hwfu line
  obtain ⟨hmem, hmd⟩ := acked_kept (u := u.retest line) (x := x) (n0 := n0) (code := code) (snap := snap)
  exact ⟨hacked, hre, hmem.trans (retest_mem u line), by rw [hmd, hst], by rw [hmd, hwd], by rw [hmd, hpo],
    fun k hk => by rw [hmd, retest_mdOutside u line k hk]⟩

/-- A request acknowledged with nothing done. -/
theorem acked_unchanged : AllAcked s ((s.dropMsg m).ackAll x n0 code snap) m x code ∧ ((s.dropMsg m).ackAll x n0 code snap).mem = s.mem ∧
    ((s.dropMsg m).ackAll x n0 code snap).md = s.md :=
  ⟨allAcked_of_step (msgStep_refl _) fun _ => rfl, acked_kept.1, acked_kept.2⟩

/-! Bytes outside what is written. -/

theorem Memory.read_fill_apart {b : Byte} {y : Nat} : ∀ (n a : Nat) (m : Memory), (y < a ∨ a + n ≤ y) → (m.fill a b n).read y = m.read y
  | 0, _, _, _ => rfl
  | n + 1, a, m, h => by
    rw [Memory.fill, Memory.read_fill_apart n (a + 1) _ (by omega), Memory.read_write_of_ne (by omega) m]

theorem Memory.read_writes_apart {α : Type} (a : α → Nat) (b : α → Byte) {y : Nat} (l : List α) (h : ∀ i ∈ l, y ≠ a i) :
    ∀ m : Memory, Memory.read (l.foldl (fun k i => k.write (a i) (b i)) m) y = m.read y := by
  induction l with
  | nil => exact fun _ => rfl
  | cons i l ih =>
    intro m
    rw [List.foldl_cons, ih (fun j hj => h j (List.mem_cons_of_mem _ hj)), Memory.read_write_of_ne (h i List.mem_cons_self) m]

theorem writeN_outside (m : Mem) (a n v : Nat) (mark : Bool) {b : Nat} (h : b < a ∨ a + n ≤ b) :
    (m.writeN a n v mark).cells.read b = m.cells.read b ∧ (m.writeN a n v mark).marks.read b = m.marks.read b :=
  ⟨Memory.read_writeN_apart n a v _ h, Memory.read_fill_apart n a _ h⟩

theorem writeMarks_outside (m : Mem) (a n v marks : Nat) {b : Nat} (h : b < a ∨ a + n ≤ b) :
    (m.writeMarks a n v marks).cells.read b = m.cells.read b ∧ (m.writeMarks a n v marks).marks.read b = m.marks.read b := by
  refine ⟨Memory.read_writeN_apart n a v _ h, Memory.read_writes_apart _ _ _ (fun i hi => ?_) _⟩
  have := List.mem_range.1 hi
  omega

/-! Fills (R73). -/

theorem homeFill_eq {data : BitVec 1024} {mark : Bool} {tag : Tag} (hat : s.atHome m = some x) (hb : x.body = .fill line data mark tag)
    (hf : s.homeFault x = none) (hno : s.fillPoisons line data mark = true → Claims.NoReplica s line) :
    homeFill m s = (((s.dropMsg x.id).countAccess x).fillAt line data mark).1.ackAll x s.nextMsg
      (((s.dropMsg x.id).countAccess x).fillAt line data mark).2
      (some ((((s.dropMsg x.id).countAccess x).fillAt line data mark).1.snap line 1)) := by
  rw [homeFill, hat]
  dsimp only
  rw [hb]
  dsimp only
  rw [hf]
  dsimp only
  rw [if_neg]
  rw [Bool.and_eq_true, not_and, Bool.not_eq_true]
  exact fun hp => gatewaysHold_iff.2 (hno hp)

theorem homeFill_performs {data : BitVec 1024} {mark : Bool} {tag : Tag} (h : AtHome s m x (.fill line data mark tag))
    (hno : s.fillPoisons line data mark = true → Claims.NoReplica s line) :
    homeFill m s = ((s.dropMsg m).fillAt line data mark).1.ackAll x s.nextMsg ((s.dropMsg m).fillAt line data mark).2
      (some (((s.dropMsg m).fillAt line data mark).1.snap line 1)) := by
  have hat := atHome_some h rfl
  obtain ⟨hm, -, hb, hf, hcnt, -⟩ := h
  rw [homeFill_eq hat hb hf hno, countAccess_off hcnt, msg?_id hm]

theorem homeFill_waits {data : BitVec 1024} {mark : Bool} {tag : Tag} (h : AtHome s m x (.fill line data mark tag))
    (hp : s.fillPoisons line data mark = true) (hr : ¬ Claims.NoReplica s line) : Leads (.homeFill m) s (s.invalidateAll line) := by
  have hat := atHome_some h rfl
  obtain ⟨-, -, hb, hf, -, -⟩ := h
  refine congrArg Host.Outcome.next ?_
  rw [homeFill, hat]
  dsimp only
  rw [hb]
  dsimp only
  rw [hf]
  dsimp only
  rw [if_pos]
  rw [hp, Bool.true_and, ← Bool.not_eq_false, gatewaysHold_iff]
  exact hr

/-- The line with the bytes of a fill. -/
def State.filled (s : State) (line : Nat) (data : BitVec 1024) : State :=
  { s.endForward line with
    mem := (s.endForward line).mem.writeN (128 * line) 128 data.toNat false
    md := (s.endForward line).md.write line (mdOf (mdWatched (s.md.read line)) 1 (mdPoison (s.md.read line)) 1) }

theorem filled_eq (s : State) (line : Nat) (data : BitVec 1024) : ∃ fs, s.filled line data = { s with
    mem := s.mem.writeN (128 * line) 128 data.toNat false, forwards := fs
    md := s.md.write line (mdOf (mdWatched (s.md.read line)) 1 (mdPoison (s.md.read line)) 1) } := by
  obtain ⟨fs, h⟩ := endForward_eq s line
  exact ⟨fs, by rw [State.filled, h]⟩

/-- The state with the line poisoned where `mark` says so. -/
def State.poisonedIf (s : State) (mark : Bool) (line : Nat) : State := if mark then s.poisonLine line else s

theorem homeOnly_poisonedIf (s : State) (mark : Bool) (line : Nat) : HomeOnly s (s.poisonedIf mark line) := by
  cases mark
  · exact homeOnly_refl s
  · exact homeOnly_poisonLine s line

theorem msgStep_poisonedIf (s : State) (mark : Bool) (line : Nat) : MsgStep s (s.poisonedIf mark line) := by
  cases mark
  · exact msgStep_refl s
  · exact msgStep_poisonLine s line

theorem poisonedIf_watches (s : State) (mark : Bool) (line : Nat) : (s.poisonedIf mark line).watches = s.watches := by
  cases mark
  · rfl
  · exact poisonLine_watches s line

theorem poisonedIf_fields (hwf : s.md.wf = true) (mark : Bool) :
    mdState ((s.poisonedIf mark line).md.read line) = mdState (s.md.read line) ∧
    mdWidth ((s.poisonedIf mark line).md.read line) = mdWidth (s.md.read line) ∧
    mdPoison ((s.poisonedIf mark line).md.read line) = (mark || mdPoison (s.md.read line)) := by
  cases mark
  · exact ⟨rfl, rfl, rfl⟩
  · exact poisonLine_fields hwf

theorem poisonedIf_mdOutside (s : State) (mark : Bool) (line : Nat) : MdOutside s (s.poisonedIf mark line) line := by
  cases mark
  · exact fun _ _ => rfl
  · exact poisonLine_mdOutside s line

theorem poisonedIf_mem {mark : Bool} (h : mark = true → s.bar1.logsize = 0) : (s.poisonedIf mark line).mem = s.mem := by
  cases mark
  · rfl
  · exact poisonLine_mem (h rfl)

theorem fillAt_new (data : BitVec 1024) (mark : Bool) (h : mdState (s.md.read line) = 0) :
    s.fillAt line data mark = (((s.filled line data).poisonedIf mark line).retest line, none) := by
  rw [State.fillAt]
  dsimp only
  rw [if_neg (by rw [h]; decide), if_neg (by rw [h]; decide)]
  rfl

theorem fillAt_frozen (data : BitVec 1024) (mark : Bool) (h : mdState (s.md.read line) = 2) :
    s.fillAt line data mark = (s, some .writeAfterFreeze) := by
  rw [State.fillAt]
  dsimp only
  rw [if_pos h]

theorem fillAt_again {data : BitVec 1024} (h : mdState (s.md.read line) = 1) (hd : s.mem.readN (128 * line) 128 = data.toNat) :
    s.fillAt line data false = (s, none) := by
  rw [State.fillAt]
  dsimp only
  rw [if_neg (by rw [h]; decide), if_pos h, if_pos hd]
  rfl

theorem fillAt_poisons {data : BitVec 1024} {mark : Bool} (h : mdState (s.md.read line) = 1)
    (hp : mark = true ∨ s.mem.readN (128 * line) 128 ≠ data.toNat) : s.fillAt line data mark =
      ((s.poisonLine line).retest line, if s.mem.readN (128 * line) 128 = data.toNat then none else some .fillConflict) := by
  rw [State.fillAt]
  dsimp only
  rw [if_neg (by rw [h]; decide), if_pos h]
  split
  case isTrue hd => rw [hp.resolve_right (not_not.2 hd), if_pos rfl]
  · rfl

theorem fillPoisons_iff {data : BitVec 1024} {mark : Bool} : s.fillPoisons line data mark = true ↔
    mdState (s.md.read line) ≠ 2 ∧ (mark = true ∨ mdState (s.md.read line) = 1 ∧ s.mem.readN (128 * line) 128 ≠ data.toNat) := by
  simp only [State.fillPoisons, Bool.and_eq_true, Bool.or_eq_true, decide_eq_true_eq]

/-- A fill of a line without bytes. -/
theorem homeFill_new {data : BitVec 1024} {mark : Bool} {tag : Tag} (h : AtHome s m x (.fill line data mark tag))
    (hform : Sys2Proof.Safety.memoryOk s) (hst : mdState (s.md.read line) = 0) (hno : mark = true → Claims.NoReplica s line) :
    ∃ t : State, Leads (.homeFill m) s t ∧ AllAcked s t m x none ∧
      ((mark = true → s.bar1.logsize = 0) → t.mem.readN (128 * line) 128 = data.toNat ∧ MemOutside s t (128 * line) 128) ∧
      MdOutside s t line ∧ mdState (t.md.read line) = 1 ∧ mdWidth (t.md.read line) = 1 ∧
      mdPoison (t.md.read line) = (mark || mdPoison (s.md.read line)) ∧ Retested s t line := by
  obtain ⟨hwfm, -, -, hwfd⟩ := hform
  have hp : s.fillPoisons line data mark = true → Claims.NoReplica s line := fun hp =>
    hno ((fillPoisons_iff.1 hp).2.resolve_right fun h1 => by rw [hst] at h1; exact absurd h1.1 (by decide))
  have hexec := homeFill_performs h hp
  rw [fillAt_new (s := s.dropMsg m) data mark hst] at hexec
  obtain ⟨fs, hv⟩ := filled_eq (s.dropMsg m) line data
  obtain ⟨v, hvd⟩ : ∃ v, v = (s.dropMsg m).filled line data := ⟨_, rfl⟩
  rw [← hvd] at hexec hv
  have hmem : v.mem = s.mem.writeN (128 * line) 128 data.toNat false := by rw [hv]; rfl
  have hmd : v.md = s.md.write line (mdOf (mdWatched (s.md.read line)) 1 (mdPoison (s.md.read line)) 1) := by rw [hv]; rfl
  have hbar : v.bar1 = s.bar1 := by rw [hv]; rfl
  have honly : HomeOnly (s.dropMsg m) v := by
    rw [hv]
    exact ⟨rfl, fun hw => (Mem.within_writeN _ _ _ _).1 hw, Memory.write_wf⟩
  have hstep : MsgStep (s.dropMsg m) v := msgStep_of_eq (by rw [hv]) (by rw [hv])
  have hwatch : v.watches = s.watches := by rw [hv]; rfl
  have hwfv : v.md.wf = true := honly.2.2 hwfd
  obtain ⟨h1, h2, h3⟩ := poisonedIf_fields (line := line) hwfv mark
  obtain ⟨-, k1, k2, k3⟩ := mdOf_fields (mdWatched (s.md.read line)) (mdPoison (s.md.read line)) 1 1
  have hread : v.md.read line = mdOf (mdWatched (s.md.read line)) 1 (mdPoison (s.md.read line)) 1 := by rw [hmd]; exact read_md_same hwfd
  have hperf := performed (s := s) (x := x) (line := line) (n0 := s.nextMsg) (code := none)
    (snap := some (((v.poisonedIf mark line).retest line).snap line 1)) (honly.trans (homeOnly_poisonedIf v mark line))
    (hstep.trans (msgStep_poisonedIf v mark line)) ((poisonedIf_watches v mark line).trans hwatch) hwfd
  refine ⟨_, congrArg Host.Outcome.next hexec, hperf.acked, fun hlog => ?_, fun k hk => ?_, ?_, ?_, ?_, hperf.retested⟩
  · have hm := hperf.mem.trans ((poisonedIf_mem fun hmark => by rw [hbar]; exact hlog hmark).trans hmem)
    refine ⟨?_, fun b hb => ?_⟩
    · rw [hm, Mem.readN_writeN _ _ _ _ hwfm]
      exact Nat.mod_eq_of_lt data.isLt
    · rw [hm]
      exact writeN_outside s.mem _ _ _ _ hb
  · rw [hperf.outside k hk, poisonedIf_mdOutside v mark line k hk, hmd]
    exact read_md_other hk
  · rw [hperf.state, h1, hread, k3]
  · rw [hperf.width, h2, hread, k1]
  · rw [hperf.poison, h3, hread, k2]

/-- A fill that poisons a line which is filled. -/
theorem homeFill_poisons {data : BitVec 1024} {mark : Bool} {tag : Tag} (h : AtHome s m x (.fill line data mark tag))
    (hwfd : s.md.wf = true) (hst : mdState (s.md.read line) = 1) (hp : mark = true ∨ s.mem.readN (128 * line) 128 ≠ data.toNat)
    (hno : Claims.NoReplica s line) :
    ∃ t : State, Leads (.homeFill m) s t ∧
      AllAcked s t m x (if s.mem.readN (128 * line) 128 = data.toNat then none else some .fillConflict) ∧
      (s.bar1.logsize = 0 → t.mem = s.mem) ∧ mdState (t.md.read line) = 1 ∧ mdPoison (t.md.read line) = true ∧ Retested s t line := by
  have hexec := homeFill_performs h fun _ => hno
  have hfill := fillAt_poisons (s := s.dropMsg m) hst hp
  have hkept : (s.dropMsg m).mem = s.mem := rfl
  rw [hkept] at hfill
  generalize (if s.mem.readN (128 * line) 128 = data.toNat then none else some FaultCode.fillConflict) = code at hfill ⊢
  rw [hfill] at hexec
  obtain ⟨h1, -, h3⟩ := poisonLine_fields (s := s.dropMsg m) (line := line) hwfd
  have hperf := performed (s := s) (x := x) (line := line) (n0 := s.nextMsg) (code := code)
    (snap := some ((((s.dropMsg m).poisonLine line).retest line).snap line 1)) (homeOnly_poisonLine (s.dropMsg m) line)
    (msgStep_poisonLine (s.dropMsg m) line) (poisonLine_watches (s.dropMsg m) line) hwfd
  have hmem (hlog : s.bar1.logsize = 0) : ((s.dropMsg m).poisonLine line).mem = s.mem := poisonLine_mem hlog
  exact ⟨_, congrArg Host.Outcome.next hexec, hperf.acked, fun hlog => hperf.mem.trans (hmem hlog),
    hperf.state.trans (h1.trans hst), hperf.poison.trans h3, hperf.retested⟩

theorem homeFill_frozen {data : BitVec 1024} {mark : Bool} {tag : Tag} (h : AtHome s m x (.fill line data mark tag))
    (hst : mdState (s.md.read line) = 2) :
    ∃ t : State, Leads (.homeFill m) s t ∧ AllAcked s t m x (some .writeAfterFreeze) ∧ t.mem = s.mem ∧ t.md = s.md := by
  have hexec := homeFill_performs h fun hp => absurd hst (fillPoisons_iff.1 hp).1
  rw [fillAt_frozen (s := s.dropMsg m) data mark hst] at hexec
  exact ⟨_, congrArg Host.Outcome.next hexec, acked_unchanged⟩

theorem homeFill_again {data : BitVec 1024} {tag : Tag} (h : AtHome s m x (.fill line data false tag))
    (hst : mdState (s.md.read line) = 1) (hd : s.mem.readN (128 * line) 128 = data.toNat) :
    ∃ t : State, Leads (.homeFill m) s t ∧ AllAcked s t m x none ∧ t.mem = s.mem ∧ t.md = s.md := by
  have hexec := homeFill_performs h fun hp => absurd hd ((fillPoisons_iff.1 hp).2.resolve_left Bool.false_ne_true).2
  rw [fillAt_again (s := s.dropMsg m) hst hd] at hexec
  exact ⟨_, congrArg Host.Outcome.next hexec, acked_unchanged⟩

end
end Sys2Proof.Machine
end

section
/-! PROOFS. Freezes and stores at their home (O40). -/
namespace Sys2Proof.Machine
open Sys2Proof.Claims

section
variable {s t u : State} {m line ty : Nat} {x : Msg}

/-! Freezes (R74). -/

theorem homeFreeze_eq {tag : Tag} (hat : s.atHome m = some x) (hb : x.body = .freeze line ty tag) (hf : s.homeFault x = none) :
    homeFreeze m s = (((s.dropMsg x.id).countAccess x).freezeAt line ty).ackAll x s.nextMsg none
      (some ((((s.dropMsg x.id).countAccess x).freezeAt line ty).snap line ty)) := by
  rw [homeFreeze, hat]
  dsimp only
  rw [hb]
  dsimp only
  rw [hf]

/-- The width a freeze leaves. -/
def frozenWidth (ty w : Nat) : Nat := if ty = 1 then w else if w = 0 then 3 else w

/-- The memory a freeze leaves. -/
def State.frozenMem (s : State) (line ty : Nat) : Mem :=
  if mdWidth (s.md.read line) = 0 then
    if ty = 1 then s.mem.clear (128 * line) 128 else (s.lineBottom line ty (if ty = 10 then 128 else 64)).mem
  else s.mem

/-- The line frozen. -/
def State.frozen (s : State) (line ty : Nat) : State :=
  { s.endForward line with
    mem := s.frozenMem line ty
    md := s.md.write line (mdOf (mdWatched (s.md.read line)) (frozenWidth ty (mdWidth (s.md.read line))) (mdPoison (s.md.read line)) 2) }

theorem freezeAt_eq (s : State) (line ty : Nat) : s.freezeAt line ty =
    if mdState (s.md.read line) = 2 then s.endForward line else (s.frozen line ty).retest line := by
  obtain ⟨fs, h⟩ := endForward_eq s line
  rw [State.freezeAt, State.frozen, State.frozenMem, frozenWidth, h]
  dsimp only
  by_cases hst : mdState (s.md.read line) = 2
  · rw [if_pos hst, if_pos hst]
  rw [if_neg hst, if_neg hst]
  refine congrArg (State.retest · line) ?_
  by_cases hty : ty = 1
  · rw [if_pos hty, if_pos hty, if_pos hty]
  by_cases hw : mdWidth (s.md.read line) = 0
  · rw [if_neg hty, if_neg hty, if_neg hty, if_pos hw, if_pos hw, if_pos hw, lineBottom_eq]
    rfl
  · rw [if_neg hty, if_neg hty, if_neg hw, if_neg hw, if_neg hw, if_neg hty]

theorem frozenMem_wf (h : s.mem.wf = true) : (s.frozenMem line ty).wf = true := by
  rw [State.frozenMem]
  split
  · split
    · exact Mem.wf_clear _ _ h
    · exact lineBottom_wf _ _ _ h
  · exact h

theorem frozenMem_outside (s : State) (line ty : Nat) {b : Nat} (h : b < 128 * line ∨ 128 * line + 128 ≤ b) :
    (s.frozenMem line ty).cells.read b = s.mem.cells.read b ∧ (s.frozenMem line ty).marks.read b = s.mem.marks.read b := by
  rw [State.frozenMem]
  split
  · split
    · exact ⟨Memory.read_clear_apart h _, Memory.read_clear_apart h _⟩
    · exact lineBottom_outside s line ty _ b h
  · exact ⟨rfl, rfl⟩

theorem readN_clear (a n : Nat) {m : Mem} (hwf : m.wf = true) : (m.clear a n).readN a n = 0 := by
  have h : ∀ k b, a ≤ b → b + k ≤ a + n → Memory.readN (m.cells.clear a n) b k = 0 := by
    intro k
    induction k with
    | zero => exact fun _ _ _ => rfl
    | succ k ih =>
      intro b hb hk
      rw [Memory.readN, Memory.read_clear (Mem.wf_iff.1 hwf).1, if_pos (by omega), ih (b + 1) (by omega) (by omega)]
      rfl
  exact h n a (Nat.le_refl _) (Nat.le_refl _)

/-- The request of a freeze at its home, by what the line was. -/
theorem homeFreeze_performs {tag : Tag} (h : AtHome s m x (.freeze line ty tag)) (hform : Sys2Proof.Safety.memoryOk s) :
    ∃ t : State, Leads (.homeFreeze m) s t ∧ AllAcked s t m x none ∧
      (mdState (s.md.read line) = 2 → t.mem = s.mem ∧ t.md = s.md) ∧
      (mdState (s.md.read line) ≠ 2 → t.mem = s.frozenMem line ty ∧ MdOutside s t line ∧ mdState (t.md.read line) = 2 ∧
        mdPoison (t.md.read line) = mdPoison (s.md.read line) ∧
        mdWidth (t.md.read line) = frozenWidth ty (mdWidth (s.md.read line)) ∧ Retested s t line) := by
  obtain ⟨hwfm, -, -, hwfd⟩ := hform
  have hat := atHome_some h rfl
  obtain ⟨hm, -, hb, hf, hcnt, -⟩ := h
  have hexec := homeFreeze_eq hat hb hf
  rw [countAccess_off hcnt, msg?_id hm, freezeAt_eq] at hexec
  by_cases hst : mdState (s.md.read line) = 2
  · rw [if_pos (show mdState ((s.dropMsg m).md.read line) = 2 from hst)] at hexec
    obtain ⟨fs, hfs⟩ := endForward_eq (s.dropMsg m) line
    have hend : ((s.dropMsg m).endForward line).mem = s.mem ∧ ((s.dropMsg m).endForward line).md = s.md := by
      rw [hfs]
      exact ⟨rfl, rfl⟩
    refine ⟨_, congrArg Host.Outcome.next hexec, allAcked_of_step (msgStep_endForward _ _) fun w => (homeOnly_endForward _ _).coreOf w,
      fun _ => ⟨acked_kept.1.trans hend.1, acked_kept.2.trans hend.2⟩, fun hne => absurd hst hne⟩
  · rw [if_neg (show ¬ mdState ((s.dropMsg m).md.read line) = 2 from hst)] at hexec
    obtain ⟨fs, hfs⟩ := endForward_eq (s.dropMsg m) line
    have hv : (s.dropMsg m).frozen line ty = { s.dropMsg m with
        forwards := fs, mem := s.frozenMem line ty
        md := s.md.write line (mdOf (mdWatched (s.md.read line)) (frozenWidth ty (mdWidth (s.md.read line))) (mdPoison (s.md.read line)) 2) } := by
      rw [State.frozen, hfs]
      rfl
    obtain ⟨v, hvd⟩ : ∃ v, v = (s.dropMsg m).frozen line ty := ⟨_, rfl⟩
    rw [← hvd] at hexec hv
    have hmd : v.md = s.md.write line (mdOf (mdWatched (s.md.read line)) (frozenWidth ty (mdWidth (s.md.read line))) (mdPoison (s.md.read line)) 2) := by
      rw [hv]
    have hread := read_md_same (line := line) (b := mdOf (mdWatched (s.md.read line)) (frozenWidth ty (mdWidth (s.md.read line)))
      (mdPoison (s.md.read line)) 2) hwfd
    obtain ⟨-, k1, k2, k3⟩ := mdOf_fields (mdWatched (s.md.read line)) (mdPoison (s.md.read line)) (frozenWidth ty (mdWidth (s.md.read line))) 2
    have honly : HomeOnly (s.dropMsg m) v := by
      rw [hv]
      exact ⟨rfl, frozenMem_wf, Memory.write_wf⟩
    have hperf := performed (s := s) (x := x) (line := line) (n0 := s.nextMsg) (code := none) (snap := some ((v.retest line).snap line ty))
      honly (msgStep_of_eq (by rw [hv]) (by rw [hv])) (by rw [hv]; rfl) hwfd
    have hw4 : frozenWidth ty (mdWidth (s.md.read line)) < 4 := by
      have := mdWidth_lt (s.md.read line)
      rw [frozenWidth]
      split
      · exact this
      · split <;> omega
    refine ⟨_, congrArg Host.Outcome.next hexec, hperf.acked, fun h2 => absurd h2 hst, fun _ => ⟨hperf.mem.trans (by rw [hv]),
      fun k hk => ?_, ?_, ?_, ?_, hperf.retested⟩⟩
    · rw [hperf.outside k hk, hmd]
      exact read_md_other hk
    · rw [hperf.state, hmd, hread, k3]
    · rw [hperf.poison, hmd, hread, k2]
    · rw [hperf.width, hmd, hread, k1, Nat.mod_eq_of_lt hw4]

/-! Stores (R335). -/

/-- The gateway on a store's own way. -/
def State.ownGate (s : State) (x : Msg) (pa : Nat) : Option Nat :=
  match x.src with
  | .core c => s.pathGate c (homeBd pa)
  | _ => none

/-- The line of a store with its bytes, and no answer or replica as it was. -/
def State.stored (s : State) (own : Option Nat) (pa n : Nat) (data : BitVec 1024) (marks : BitVec 128) : State :=
  match own with
  | some g => (State.spoilReplies { s with mem := s.mem.writeMarks pa n data.toNat marks.toNat } (pa / 128)).renewReplica g (pa / 128)
  | none => State.spoilReplies { s with mem := s.mem.writeMarks pa n data.toNat marks.toNat } (pa / 128)

theorem homeStore_eq {pa n : Nat} {data : BitVec 1024} {marks : BitVec 128} {tag : Tag} (hat : s.atHome m = some x)
    (hb : x.body = .store pa n data marks tag) (hf : s.homeFault x = none) (hold : s.olderStore x = false)
    (hno : Claims.NoReplica s (pa / 128)) :
    homeStore m s = (((s.dropMsg x.id).countAccess x).stored (s.ownGate x pa) pa n data marks).ackAll x s.nextMsg none none := by
  have hgates (own : Option Nat) : ((s.replicas.filter (fun r => r.snap.line == pa / 128 && some r.gate != own)).map (fun r => r.gate)).isEmpty = true := by
    rw [List.isEmpty_iff, List.map_eq_nil_iff, List.filter_eq_nil_iff]
    intro r hr hc
    exact hno.2 r hr (beq_iff_eq.1 (Bool.and_eq_true_iff.1 hc).1)
  rw [homeStore, hat]
  dsimp only
  rw [hb]
  dsimp only
  rw [hf]
  dsimp only
  rw [if_neg (by rw [hold, hno.1]; exact Bool.false_ne_true), if_neg (by rw [hgates]; exact Bool.false_ne_true)]
  rfl

/-- What a store leaves of the rest of the state. -/
theorem stored_fields (s : State) (own : Option Nat) (pa n : Nat) (data : BitVec 1024) (marks : BitVec 128) :
    ∃ rs, s.stored own pa n data marks = { s with
      mem := s.mem.writeMarks pa n data.toNat marks.toNat, replicas := rs
      msgs := s.msgs.map (fun m => if m.snap.any (fun x => x.line == pa / 128) then { m with stale := true } else m) } := by
  cases own with
  | none => exact ⟨s.replicas, rfl⟩
  | some g => exact ⟨_, rfl⟩

/-- Every message that carries the line is stale. -/
def AllStale (s : State) (line : Nat) : Prop := ∀ a ∈ s.msgs, ∀ y, a.snap = some y → y.line = line → a.stale = true

theorem ackAll_allStale (n0 : Nat) (code : Option FaultCode) (h : AllStale s line) : AllStale (s.ackAll x n0 code none) line := by
  have hone (u : State) (t : Tag) (hu : AllStale u line) : AllStale (ackOne x code none u t) line := by
    rw [ackOne, State.respond]
    split
    · exact hu
    · intro a ha y hy
      rcases List.mem_append.1 ha with ha | ha
      · exact hu a ha y hy
      · rw [List.mem_singleton.1 ha] at hy
        nomatch hy
  have hfold (tags : List Tag) (u : State) (hu : AllStale u line) : AllStale (tags.foldl (ackOne x code none) u) line := by
    induction tags generalizing u with
    | nil => exact hu
    | cons t tags ih => exact ih _ (hone u t hu)
  obtain ⟨wakes, he⟩ := ackAll_eq s x n0 code none
  rw [he]
  intro a ha y hy
  obtain ⟨b, hb, rfl⟩ := List.mem_map.1 ha
  obtain ⟨-, -, -, -, hsnap, hstale⟩ := Msg.after_fields s.nextMsg wakes b
  rw [hstale]
  exact hfold _ s h b hb y (hsnap ▸ hy)

theorem homeStore_performs {pa n : Nat} {data : BitVec 1024} {marks : BitVec 128} {tag : Tag} (h : AtHome s m x (.store pa n data marks tag))
    (hform : Sys2Proof.Safety.memoryOk s) (hold : s.olderStore x = false) (hno : Claims.NoReplica s (pa / 128)) :
    ∃ t : State, Leads (.homeStore m) s t ∧ AllAcked s t m x none ∧ t.mem.readN pa n = data.toNat % 2 ^ (8 * n) ∧
      MemOutside s t pa n ∧ t.md = s.md ∧ AllStale t (pa / 128) := by
  obtain ⟨hwfm, -, -, hwfd⟩ := hform
  have hat := atHome_some h rfl
  obtain ⟨hm, -, hb, hf, hcnt, -⟩ := h
  have hexec := homeStore_eq hat hb hf hold hno
  rw [countAccess_off hcnt, msg?_id hm] at hexec
  obtain ⟨rs, hv⟩ := stored_fields (s.dropMsg m) (s.ownGate x pa) pa n data marks
  obtain ⟨v, hvd⟩ : ∃ v, v = (s.dropMsg m).stored (s.ownGate x pa) pa n data marks := ⟨_, rfl⟩
  rw [← hvd] at hexec hv
  have hmem : v.mem = s.mem.writeMarks pa n data.toNat marks.toNat := by rw [hv]; rfl
  have hstep : MsgStep (s.dropMsg m) v := by
    refine msgStep_map (f := fun m => if m.snap.any (fun x => x.line == pa / 128) then { m with stale := true } else m) (by rw [hv]) (by rw [hv])
      fun a => ?_
    split <;> exact ⟨rfl, rfl, rfl, rfl⟩
  have hstale : AllStale v (pa / 128) := by
    rw [hv]
    intro a ha y hy hl
    obtain ⟨b, hb, rfl⟩ := List.mem_map.1 ha
    by_cases hc : b.snap.any (fun x => x.line == pa / 128) = true
    · rw [if_pos hc]
    · rw [if_neg hc] at hy
      rw [hy] at hc
      simp [hl] at hc
  refine ⟨_, congrArg Host.Outcome.next hexec, allAcked_of_step hstep (fun w => by rw [hv]; rfl), ?_, fun b hb => ?_, ?_,
    ackAll_allStale _ _ hstale⟩
  · rw [acked_kept.1, hmem, Mem.readN_writeMarks _ _ _ _ hwfm]
  · rw [acked_kept.1, hmem]
    exact writeMarks_outside s.mem _ _ _ _ hb
  · rw [acked_kept.2, hv]
    rfl

end
end Sys2Proof.Machine
end

section
/-! PROOFS. Reads and threshold tests at their home (O40). -/
namespace Sys2Proof.Machine
open Sys2Proof.Claims

section
variable {s t u : State} {m line cell ty : Nat} {x : Msg} {w : Who} {k : TestKind} {arg : BitVec 8} {b : Body}
  {snap : Option LineSnap} {loc : Loc} {asid : BitVec 12} {va : Word} {gen : BitVec 8} {key : Nat}

/-! One answer to a request. -/

/-- `t` is the state with the request answered, and nothing else done. -/
structure Replied (s t : State) (m : Nat) (x : Msg) (w : Who) (b : Body) : Prop where
  answered : Answered s t m x w b
  only : MsgsOnly (s.dropMsg m) t

theorem replied : Replied s ((s.dropMsg m).respond x.dst loc w asid va gen b snap key) m x w b :=
  ⟨⟨msg?_none_of_step (msgStep_respond _ _ _ _ _ _ _ _ _ _), fun core hcore =>
    respond_answers (s.dropMsg m) x.dst loc w asid va gen b snap key core hcore⟩, msgsOnly_respond _ _ _ _ _ _ _ _ _ _⟩

theorem Replied.kept (h : Replied s t m x w b) : t.mem = s.mem ∧ t.md = s.md ∧ t.watches = s.watches := by
  rw [h.only]
  exact ⟨rfl, rfl, rfl⟩

theorem respond_new {a : Msg} (ha : a ∈ ((s.dropMsg m).respond x.dst loc w asid va gen b snap key).msgs) (hnew : a ∉ s.msgs) :
    a.snap = snap := by
  have hold : a ∉ (s.dropMsg m).msgs := fun h => hnew (List.mem_filter.1 h).1
  rw [State.respond] at ha
  split at ha
  · exact absurd ha hold
  · rcases List.mem_append.1 ha with ha | ha
    · exact absurd ha hold
    · rw [List.mem_singleton.1 ha]

/-! Reads (R72, R335). -/

theorem answerRead_eq (hf : s.homeFault x = none) (code : Option FaultCode) : s.answerRead x w line ty code =
    ((s.dropMsg x.id).countAccess x).respond x.dst (homeLoc x.dst) w x.asid x.va x.gen (.data w code)
      (if code.isNone then some (((s.dropMsg x.id).countAccess x).snap line ty) else none) (128 * line) := by
  cases code <;> simp only [State.answerRead, hf] <;> rfl

theorem homeLoad_eq (hat : s.atHome m = some x) (hb : x.body = .load line ty w) (hf : s.homeFault x = none) :
    homeLoad m s = s.answerRead x w line ty none := by
  rw [homeLoad, hat]
  dsimp only
  rw [hb]
  dsimp only
  rw [hf]

theorem homeExactRead_eq (hat : s.atHome m = some x) (hb : x.body = .exact line ty w) (hf : s.homeFault x = none) :
    homeExactRead m s = s.answerRead x w line ty (s.exactFault line) := by
  rw [homeExactRead, hat]
  dsimp only
  rw [hb]
  dsimp only
  rw [hf]

/-- A read answered at its home. -/
theorem answerRead_replies (hm : s.msg? m = some x) (hf : s.homeFault x = none) (hcnt : x.cnt = false) (code : Option FaultCode) :
    Replied s (s.answerRead x w line ty code) m x w (.data w code) ∧
      (code = none → ∀ a ∈ (s.answerRead x w line ty code).msgs, a ∉ s.msgs → a.snap = some (s.snap line ty)) := by
  rw [answerRead_eq hf, countAccess_off hcnt, msg?_id hm]
  refine ⟨replied, fun hc a ha hnew => ?_⟩
  rw [respond_new ha hnew, hc]
  rfl

/-! The line a test sees. -/

theorem snap_bytes (s : State) (line ty : Nat) {a n : Nat} (h : a + n ≤ 128) :
    (s.snap line ty).bytes a n = s.mem.readN (128 * line + a) n := by
  have hwhole : (BitVec.ofNat 1024 (s.mem.readN (128 * line) 128)).toNat = s.mem.readN (128 * line) 128 :=
    Nat.mod_eq_of_lt (readN_lt _ _ _)
  have hbytes : (s.snap line ty).bytes a n = s.mem.readN (128 * line) 128 / 2 ^ (8 * a) % 2 ^ (8 * n) :=
    congrArg (fun d => d / 2 ^ (8 * a) % 2 ^ (8 * n)) hwhole
  obtain ⟨r, hr⟩ := Nat.exists_eq_add_of_le h
  rw [hbytes, (readN_parts s.mem (128 * line + a) n r).1, (readN_parts s.mem (128 * line) a (n + r)).2, hr, Nat.add_assoc]

theorem snap_cell (s : State) {n : Nat} (hn : 0 < n) (hdvd : n ∣ 128) :
    (s.snap (cell / 128) ty).cell cell n = s.mem.readN (cell - cell % n) n := by
  have hal : alignDown cell n = cell - cell % n := by
    rw [alignDown]
    have := Nat.div_add_mod cell n
    rw [Nat.mul_comm] at this
    omega
  have hdvd' : n ∣ cell - cell % n := Nat.dvd_sub_mod cell
  have hline : (cell - cell % n) / 128 = cell / 128 := by
    obtain ⟨q, hq⟩ := hdvd
    have hlt := Nat.mod_lt cell hn
    have h1 : (cell - cell % n) / n = cell / n := by
      conv_rhs => rw [← Nat.sub_add_cancel (Nat.mod_le cell n), Nat.add_div_of_dvd_right hdvd', Nat.div_eq_of_lt hlt, Nat.add_zero]
    rw [hq, ← Nat.div_div_eq_div_mul, ← Nat.div_div_eq_div_mul, h1]
  have hin := cell_inside (c := cell - cell % n) hn hdvd (Nat.mod_eq_zero_of_dvd hdvd')
  have hsplit := Nat.div_add_mod (cell - cell % n) 128
  rw [LineSnap.cell, hal, snap_bytes s _ ty (by omega), ← hline, hsplit]

theorem widthBytes_fits (ty : Nat) (b : BitVec 8) : 0 < widthBytes ty (mdWidth b) ∧ widthBytes ty (mdWidth b) ∣ 128 := by
  have h : ∀ c : Fin 4, 0 < 2 ^ c.val ∧ 2 ^ c.val ∣ 128 := by decide
  rw [widthBytes]
  split
  · decide
  · exact h ⟨mdWidth b, mdWidth_lt b⟩

theorem cellPassed_iff {v n : Nat} {trig : Word} (h2 : 2 ≤ ty) (h10 : ty ≤ 10) : cellPassed ty n v trig = true ↔ Passes ty n v trig := by
  have hty : ty = 2 ∨ ty = 3 ∨ ty = 4 ∨ ty = 5 ∨ ty = 6 ∨ ty = 7 ∨ ty = 8 ∨ ty = 9 ∨ ty = 10 := by omega
  rcases hty with rfl | rfl | rfl | rfl | rfl | rfl | rfl | rfl | rfl <;> exact decide_eq_true_iff

theorem passesUnset_iff {trig : Word} : passesUnset ty trig = true ↔ trig = 0 ∧ (ty = 3 ∨ ty = 8 ∨ ty = 9 ∨ ty = 10) := by
  simp only [passesUnset, Bool.and_eq_true, Bool.or_eq_true, decide_eq_true_eq]
  constructor
  · rintro ⟨h, rfl⟩
    exact ⟨rfl, by omega⟩
  · rintro ⟨rfl, h⟩
    exact ⟨by omega, rfl⟩

/-! Tests (R68 to R71). -/

/-- A probe. -/
def TestKind.isProbe : TestKind → Bool
  | .probe _ => true
  | _ => false

/-- The trigger of a test of a growing line. -/
def TestKind.trigger : TestKind → Word
  | .await t => t
  | .probe t => t
  | _ => 0

theorem testLine_growing (hty : ty ≠ 1) : s.testLine cell ty k =
    if mdWidth (s.md.read (cell / 128)) ≠ 0 ∧ k.isProbe = false ∧ cell % widthBytes ty (mdWidth (s.md.read (cell / 128))) ≠ 0 then
      some .misaligned
    else if mdPoison (s.md.read (cell / 128)) then some .poison
    else if mdWidth (s.md.read (cell / 128)) = 0 then (if passesUnset ty k.trigger then some (.passed 0 0) else none)
    else if cellPassed ty (8 * widthBytes ty (mdWidth (s.md.read (cell / 128))))
      (s.mem.readN (cell - cell % widthBytes ty (mdWidth (s.md.read (cell / 128)))) (widthBytes ty (mdWidth (s.md.read (cell / 128)))))
      k.trigger then some (.passed 0 0)
    else if mdState (s.md.read (cell / 128)) = 2 then some .unreachable else none := by
  obtain ⟨hn, hdvd⟩ := widthBytes_fits ty (s.md.read (cell / 128))
  have htest : s.testLine cell ty k =
      if decide (mdWidth (s.md.read (cell / 128)) ≠ 0) && !k.isProbe && decide (cell % widthBytes ty (mdWidth (s.md.read (cell / 128))) ≠ 0) then
        some .misaligned
      else if mdPoison (s.md.read (cell / 128)) then some .poison
      else if mdWidth (s.md.read (cell / 128)) = 0 then (if passesUnset ty k.trigger then some (.passed 0 0) else none)
      else if cellPassed ty (8 * widthBytes ty (mdWidth (s.md.read (cell / 128))))
        ((s.snap (cell / 128) ty).cell cell (widthBytes ty (mdWidth (s.md.read (cell / 128))))) k.trigger then some (.passed 0 0)
      else if decide (mdState (s.md.read (cell / 128)) = 2) then some .unreachable else none := by
    cases k <;> exact if_neg hty
  rw [htest, snap_cell s hn hdvd]
  simp only [Bool.and_eq_true, Bool.not_eq_true', decide_eq_true_eq, and_assoc]

theorem testLine_first (hk : ∀ trigs, k ≠ .any trigs) : s.testLine cell 1 k =
    if mdPoison (s.md.read (cell / 128)) then some .poison
    else if mdWidth (s.md.read (cell / 128)) = 1 then
      some (.passed 0 (BitVec.ofNat 64 (s.mem.readN (128 * (cell / 128)) 8)))
    else if mdState (s.md.read (cell / 128)) = 2 then some .unreachable else none := by
  have hfirst : (s.snap (cell / 128) 1).bytes 0 8 = s.mem.readN (128 * (cell / 128)) 8 := snap_bytes s _ 1 (by decide)
  have hone : (s.snap (cell / 128) 1).ty = 1 := rfl
  have hmd : (s.snap (cell / 128) 1).md = s.md.read (cell / 128) := rfl
  rw [← hfirst]
  cases k with
  | any trigs => exact absurd rfl (hk trigs)
  | _ => simp only [State.testLine, LineSnap.test, hone, hmd, if_true, decide_eq_true_eq]

theorem testLine_any {trigs : List Word} : s.testLine cell 1 (.any trigs) =
    if mdPoison (s.md.read (cell / 128)) then some .poison
    else if mdWidth (s.md.read (cell / 128)) = 1 then
      some (match trigIndex trigs (BitVec.ofNat 64 (s.mem.readN (128 * (cell / 128)) 8)) with
        | some i => .passed i (BitVec.ofNat 64 (s.mem.readN (128 * (cell / 128)) 8))
        | none => .unreachable)
    else if mdState (s.md.read (cell / 128)) = 2 then some .unreachable else none := by
  have hfirst : (s.snap (cell / 128) 1).bytes 0 8 = s.mem.readN (128 * (cell / 128)) 8 := snap_bytes s _ 1 (by decide)
  have hone : (s.snap (cell / 128) 1).ty = 1 := rfl
  have hmd : (s.snap (cell / 128) 1).md = s.md.read (cell / 128) := rfl
  rw [← hfirst]
  simp only [State.testLine, LineSnap.test, hone, hmd, if_true, decide_eq_true_eq]
  cases trigIndex trigs (BitVec.ofNat 64 ((s.snap (cell / 128) 1).bytes 0 8)) <;> rfl

theorem trigIndex_first {trigs : List Word} {v : Word} {i : Nat} (hi : trigs[i]? = some v) (hfirst : ∀ j, j < i → trigs[j]? ≠ some v) :
    trigIndex trigs v = some i := by
  obtain ⟨hlt, hget⟩ := List.getElem?_eq_some_iff.1 hi
  have hidx : trigs.findIdx (fun t => t == v) = i := by
    refine (List.findIdx_eq hlt).2 ⟨by simp [hget], fun j hj => ?_⟩
    have hne := hfirst j hj
    rw [List.getElem?_eq_getElem (hj.trans hlt)] at hne
    simpa using hne
  rw [trigIndex]
  rw [hidx, if_pos hlt]

theorem trigIndex_absent {trigs : List Word} {v : Word} (h : v ∉ trigs) : trigIndex trigs v = none := by
  rw [trigIndex]
  rw [if_neg]
  rw [List.findIdx_lt_length]
  rintro ⟨t, ht, hv⟩
  exact h (beq_iff_eq.1 hv ▸ ht)

/-- The outcome of a test that is answered at once, if it is. -/
def State.testReply (s : State) (cell ty : Nat) (k : TestKind) : Option TestResult :=
  (s.testLine cell ty k).or (if k.isProbe then some .notPassed else none)

/-- The watch of a test. -/
def watchOf (x : Msg) (cell ty : Nat) (arg : BitVec 8) (k : TestKind) (w : Who) : Watch :=
  { cell := cell, ty := ty, arg := arg, kind := k, who := w, va := x.va, home := x.dst, asid := x.asid, gen := x.gen }

/-- What a home does with a test whose access has been counted. -/
def State.tested (s : State) (x : Msg) (cell ty : Nat) (arg : BitVec 8) (k : TestKind) (w : Who) : State :=
  match s.testReply cell ty k with
  | some r => s.respond x.dst (homeLoc x.dst) w x.asid x.va x.gen (.result w r) (some (s.snap (cell / 128) ty)) cell
  | none => ({ s with watches := s.watches ++ [watchOf x cell ty arg k w] } : State).markWatched (cell / 128)

theorem thresholdTest_eq (hat : s.atHome m = some x) (hb : x.body = .test cell ty arg k w) (hf : s.homeFault x = none)
    (hfw : ∀ f ∈ s.forwards, f.1 ≠ cell / 128) :
    thresholdTest m s = ((s.dropMsg x.id).countAccess x).tested x cell ty arg k w := by
  have hnone : s.forwards.find? (fun f => f.1 == cell / 128) = none :=
    List.find?_eq_none.2 fun f hf' hc => hfw f hf' (beq_iff_eq.1 hc)
  rw [thresholdTest, hat]
  dsimp only
  rw [hb]
  dsimp only
  rw [hf]
  dsimp only
  rw [hnone]
  dsimp only
  rw [State.tested, State.testReply]
  cases ((s.dropMsg x.id).countAccess x).testLine cell ty k with
  | some r => rfl
  | none => cases k <;> rfl

theorem thresholdTest_tests (h : AtHome s m x (.test cell ty arg k w)) (hfw : ∀ f ∈ s.forwards, f.1 ≠ cell / 128) :
    thresholdTest m s = (s.dropMsg m).tested x cell ty arg k w := by
  have hat := atHome_some h rfl
  obtain ⟨hm, -, hb, hf, hcnt, -⟩ := h
  rw [thresholdTest_eq hat hb hf hfw, countAccess_off hcnt, msg?_id hm]

theorem tested_replies {r : TestResult} (hr : s.testReply cell ty k = some r) :
    Replied s ((s.dropMsg m).tested x cell ty arg k w) m x w (.result w r) := by
  have hr' : (s.dropMsg m).testReply cell ty k = some r := hr
  rw [State.tested, hr']
  exact replied

theorem tested_watches (hr : s.testReply cell ty k = none) : ((s.dropMsg m).tested x cell ty arg k w).mem = s.mem ∧
    ((s.dropMsg m).tested x cell ty arg k w).watches = s.watches ++ [watchOf x cell ty arg k w] ∧
    (Sys2Proof.Safety.memoryOk s → MdOutside s ((s.dropMsg m).tested x cell ty arg k w) (cell / 128) ∧
      mdWatched (((s.dropMsg m).tested x cell ty arg k w).md.read (cell / 128)) = true) := by
  have hr' : (s.dropMsg m).testReply cell ty k = none := hr
  rw [State.tested, hr']
  refine ⟨rfl, rfl, ?_⟩
  rintro ⟨-, -, -, hwf⟩
  refine ⟨fun l hl => read_md_other hl, ?_⟩
  dsimp only
  rw [markWatched_watched (by exact hwf), List.any_append, List.any_cons]
  simp [watchOf]

/-- A test leaves memory alone, whether it is answered or held. -/
theorem tested_mem : ((s.dropMsg m).tested x cell ty arg k w).mem = s.mem := by
  cases hr : s.testReply cell ty k with
  | some r => exact (tested_replies hr).kept.1
  | none => exact (tested_watches hr).1

/-! Tests sent on (R105). -/

theorem thresholdTest_forwards {dest : Nat} (hat : s.atHome m = some x) (hb : x.body = .test cell ty arg k w) (hf : s.homeFault x = none)
    (hfw : s.forwards.find? (fun f => f.1 == cell / 128) = some (cell / 128, dest)) :
    thresholdTest m s = (s.countAccess x).putMsg { x with
      body := .test (128 * dest + cell % 128) ty arg k w, src := x.dst, dst := homeNode (128 * dest + cell % 128), loc := .source } := by
  rw [thresholdTest, hat]
  dsimp only
  rw [hb]
  dsimp only
  rw [hf]
  dsimp only
  rw [hfw]
  dsimp only
  rw [State.forwardTest, hb]

end
end Sys2Proof.Machine
end

section
/-! PROOFS. What homes do with requests settled (O40). -/
namespace Sys2Proof.Machine
open Sys2Proof.Claims

section
variable {s t u : State} {m line cell ty : Nat} {x : Msg} {w : Who} {k : TestKind} {arg : BitVec 8}

/-! Requests counted first (R101). -/

/-- A request is as one counted before it, where what it does is said by the home with its access counted. -/
theorem countsFirst_of {i : Nat → Instr} {f : Nat → State → State} {g : State → Nat → Msg → State} {b : Body}
    (hi : ∀ s, exec (i m) s = .next (f m s)) (hg : ∀ u n, g u n { x with cnt := false } = g u n x) (hb : x.body = b) (hreq : b.isRequest = true)
    (hs : s.atHome m = some x → s.homeFault x = none → f m s = g ((s.dropMsg x.id).countAccess x) s.nextMsg x)
    (hc : (accessCounted s x).atHome m = some { x with cnt := false } → (accessCounted s x).homeFault { x with cnt := false } = none →
      f m (accessCounted s x) =
        g (((accessCounted s x).dropMsg x.id).countAccess { x with cnt := false }) (accessCounted s x).nextMsg { x with cnt := false }) :
    CountsFirst i s m x := by
  intro hm hloc hfault hcnt hroom
  obtain ⟨hat, hat'⟩ := counted_atHome hm hloc (hb ▸ hreq) hroom
  have hright := hc hat' (counted_homeFault.trans hfault)
  rw [counted_dropMsg hcnt, counted_md.2.1, hg] at hright
  exact (hi s).trans (Eq.trans (congrArg Host.Outcome.next ((hs hat hfault).trans hright.symm)) (hi _).symm)

theorem homeFill_counted {data : BitVec 1024} {mark : Bool} {tag : Tag} (hb : x.body = .fill line data mark tag)
    (h : Claims.NoReplica s line ∨ s.fillPoisons line data mark = false ∧ s.counter (line / 512) + 1 ≠ s.bar1.cntthresh) :
    CountsFirst .homeFill s m x := by
  refine countsFirst_of (f := homeFill) (g := fun u n x => (u.fillAt line data mark).1.ackAll x n (u.fillAt line data mark).2
    (some ((u.fillAt line data mark).1.snap line 1))) (fun _ => rfl) (fun _ _ => rfl) hb rfl
    (fun hat hf => homeFill_eq hat hb hf fun hp => h.resolve_right fun h2 => by rw [hp] at h2; exact absurd h2.1 (by decide))
    (fun hat hf => homeFill_eq hat hb hf fun hp => ?_)
  rcases h with hno | ⟨hnot, hthresh⟩
  · exact counted_noReplica (by rw [hb]; rfl) hno
  · have hunit : x.body.key / 65536 = line / 512 := by
      rw [hb]
      show 128 * line / 65536 = line / 512
      omega
    obtain ⟨-, -, -, hkept⟩ := countingRule true x.body.key x.va x.asid s
    have hmem : (accessCounted s x).mem = s.mem := by
      rw [accessCounted, hkept (by rw [hunit]; exact hthresh)]
      rfl
    rw [State.fillPoisons, hmem, counted_md.1, ← State.fillPoisons, hnot] at hp
    nomatch hp

theorem homeFreeze_counted {tag : Tag} (hb : x.body = .freeze line ty tag) : CountsFirst .homeFreeze s m x :=
  countsFirst_of (f := homeFreeze) (g := fun u n x => (u.freezeAt line ty).ackAll x n none (some ((u.freezeAt line ty).snap line ty)))
    (fun _ => rfl) (fun _ _ => rfl) hb rfl (fun hat hf => homeFreeze_eq hat hb hf) (fun hat hf => homeFreeze_eq hat hb hf)

theorem counted_olderStore (h : s.olderStore x = false) : (accessCounted s x).olderStore { x with cnt := false } = false := by
  obtain ⟨mem, cs, hs⟩ := counted_shape s x
  rw [State.olderStore] at h ⊢
  rw [hs]
  dsimp only
  cases hb : x.body with
  | store pa n data marks tag =>
    rw [hb] at h
    dsimp only at h ⊢
    rw [List.any_map, List.any_eq_false]
    intro y hy
    rw [Function.comp_apply]
    by_cases hid : y.id = x.id
    · rw [if_pos hid]
      simp
    · rw [if_neg hid]
      exact List.any_eq_false.1 h y hy
  | _ => rfl

theorem homeStore_counted {pa n : Nat} {data : BitVec 1024} {marks : BitVec 128} {tag : Tag} (hb : x.body = .store pa n data marks tag)
    (hold : s.olderStore x = false) (hno : Claims.NoReplica s (pa / 128)) : CountsFirst .homeStore s m x := by
  have hown : (accessCounted s x).ownGate { x with cnt := false } pa = s.ownGate x pa := by
    obtain ⟨mem, cs, hs⟩ := counted_shape s x
    rw [hs]
    rfl
  refine countsFirst_of (f := homeStore) (g := fun u n0 x => (u.stored (s.ownGate x pa) pa n data marks).ackAll x n0 none none)
    (fun _ => rfl) (fun _ _ => rfl) hb rfl (fun hat hf => homeStore_eq hat hb hf hold hno) fun hat hf => ?_
  refine (homeStore_eq (s := accessCounted s x) hat hb hf (counted_olderStore hold) (counted_noReplica (by rw [hb]; rfl) hno)).trans ?_
  rw [hown]
  rfl

theorem homeLoad_counted (hb : x.body = .load line ty w) : CountsFirst .homeLoad s m x :=
  countsFirst_of (f := homeLoad)
    (g := fun u _ x => u.respond x.dst (homeLoc x.dst) w x.asid x.va x.gen (.data w none) (some (u.snap line ty)) (128 * line))
    (fun _ => rfl) (fun _ _ => rfl) hb rfl (fun hat hf => (homeLoad_eq hat hb hf).trans (answerRead_eq hf none))
    (fun hat hf => (homeLoad_eq hat hb hf).trans (answerRead_eq hf none))

theorem homeExactRead_counted (hb : x.body = .exact line ty w) : CountsFirst .homeExactRead s m x := by
  have hfault : (accessCounted s x).exactFault line = s.exactFault line := by
    rw [State.exactFault, State.exactFault, counted_md.1]
  refine countsFirst_of (f := homeExactRead) (g := fun u _ x => u.respond x.dst (homeLoc x.dst) w x.asid x.va x.gen
      (.data w (s.exactFault line)) (if (s.exactFault line).isNone then some (u.snap line ty) else none) (128 * line))
    (fun _ => rfl) (fun _ _ => rfl) hb rfl (fun hat hf => (homeExactRead_eq hat hb hf).trans (answerRead_eq hf _)) fun hat hf => ?_
  rw [homeExactRead_eq hat hb hf, answerRead_eq hf, hfault]

theorem thresholdTest_counted (hb : x.body = .test cell ty arg k w) (hfw : ∀ f ∈ s.forwards, f.1 ≠ cell / 128) :
    CountsFirst .thresholdTest s m x := by
  have hfw' : ∀ f ∈ (accessCounted s x).forwards, f.1 ≠ cell / 128 := by
    obtain ⟨mem, cs, hs⟩ := counted_shape s x
    rw [hs]
    exact hfw
  exact countsFirst_of (f := thresholdTest) (g := fun u _ x => u.tested x cell ty arg k w) (fun _ => rfl) (fun _ _ => rfl) hb rfl
    (fun hat hf => thresholdTest_eq hat hb hf hfw) (fun hat hf => thresholdTest_eq hat hb hf hfw')

/-! The clauses. -/

theorem fills_at_home : ∀ (m line : Nat) (data : BitVec 1024) (tag : Tag) (s : State) (x : Msg), AtHome s m x (.fill line data false tag) →
    Sys2Proof.Safety.memoryOk s → (let md := s.md.read line
    (mdState md = 0 → ∃ t : State, Leads (.homeFill m) s t ∧ AllAcked s t m x none ∧ t.mem.readN (128 * line) 128 = data.toNat ∧
      MemOutside s t (128 * line) 128 ∧ MdOutside s t line ∧ mdState (t.md.read line) = 1 ∧ mdWidth (t.md.read line) = 1 ∧
      mdPoison (t.md.read line) = mdPoison md ∧ Retested s t line) ∧
    (mdState md = 1 → s.mem.readN (128 * line) 128 = data.toNat →
      ∃ t : State, Leads (.homeFill m) s t ∧ AllAcked s t m x none ∧ t.mem = s.mem ∧ t.md = s.md) ∧
    (mdState md = 1 → s.mem.readN (128 * line) 128 ≠ data.toNat →
      ((s.invalidating line = true ∨ ∃ r ∈ s.replicas, r.snap.line = line) → Leads (.homeFill m) s (s.invalidateAll line)) ∧
      (s.invalidating line = false → (∀ r ∈ s.replicas, r.snap.line ≠ line) →
        ∃ t : State, Leads (.homeFill m) s t ∧ AllAcked s t m x (some .fillConflict) ∧ mdPoison (t.md.read line) = true ∧
          Retested s t line)) ∧
    (mdState md = 2 → ∃ t : State, Leads (.homeFill m) s t ∧ AllAcked s t m x (some .writeAfterFreeze) ∧ t.mem = s.mem ∧
      t.md = s.md)) := by
  intro m line data tag s x h hform md
  have hwfd : s.md.wf = true := hform.2.2.2
  refine ⟨fun hst => ?_, homeFill_again h, fun hst hne => ⟨fun hr => ?_, fun hi hr => ?_⟩, homeFill_frozen h⟩
  · obtain ⟨t, hl, hack, hmem, hout, h1, h2, h3, hre⟩ := homeFill_new h hform hst (by simp)
    obtain ⟨hread, hmo⟩ := hmem (by simp)
    exact ⟨t, hl, hack, hread, hmo, hout, h1, h2, by rw [h3, Bool.false_or], hre⟩
  · refine homeFill_waits h (fillPoisons_iff.2 ⟨by rw [hst]; decide, .inr ⟨hst, hne⟩⟩) fun hno => ?_
    rcases hr with hr | ⟨r, hr, hl⟩
    · rw [hno.1] at hr
      nomatch hr
    · exact hno.2 r hr hl
  · obtain ⟨t, hl, hack, -, -, hp, hre⟩ := homeFill_poisons h hwfd hst (.inr hne) ⟨hi, hr⟩
    rw [if_neg hne] at hack
    exact ⟨t, hl, hack, hp, hre⟩

theorem marked_fills_at_home : ∀ (m line : Nat) (data : BitVec 1024) (tag : Tag) (s : State) (x : Msg),
    AtHome s m x (.fill line data true tag) → Sys2Proof.Safety.memoryOk s → (let md := s.md.read line
    (mdState md ≠ 2 → ¬ Claims.NoReplica s line → Leads (.homeFill m) s (s.invalidateAll line)) ∧
    (mdState md = 0 → Claims.NoReplica s line → ∃ t : State, Leads (.homeFill m) s t ∧ AllAcked s t m x none ∧
      (s.bar1.logsize = 0 → t.mem.readN (128 * line) 128 = data.toNat ∧ MemOutside s t (128 * line) 128) ∧
      MdOutside s t line ∧ mdState (t.md.read line) = 1 ∧ mdWidth (t.md.read line) = 1 ∧ mdPoison (t.md.read line) = true ∧
      Retested s t line) ∧
    (mdState md = 1 → Claims.NoReplica s line → ∃ t : State, Leads (.homeFill m) s t ∧
      AllAcked s t m x (if s.mem.readN (128 * line) 128 = data.toNat then none else some .fillConflict) ∧
      (s.bar1.logsize = 0 → t.mem = s.mem) ∧ mdState (t.md.read line) = 1 ∧ mdPoison (t.md.read line) = true ∧
      Retested s t line) ∧
    (mdState md = 2 → ∃ t : State, Leads (.homeFill m) s t ∧ AllAcked s t m x (some .writeAfterFreeze) ∧ t.mem = s.mem ∧
      t.md = s.md)) := by
  intro m line data tag s x h hform md
  have hwfd : s.md.wf = true := hform.2.2.2
  refine ⟨fun hst hr => homeFill_waits h (fillPoisons_iff.2 ⟨hst, .inl rfl⟩) hr, fun hst hno => ?_,
    fun hst hno => homeFill_poisons h hwfd hst (.inl rfl) hno, homeFill_frozen h⟩
  obtain ⟨t, hl, hack, hmem, hout, h1, h2, h3, hre⟩ := homeFill_new h hform hst fun _ => hno
  exact ⟨t, hl, hack, fun hlog => hmem fun _ => hlog, hout, h1, h2, by rw [h3, Bool.true_or], hre⟩

theorem freezes_at_home : ∀ (m line ty : Nat) (tag : Tag) (s : State) (x : Msg), AtHome s m x (.freeze line ty tag) →
    Sys2Proof.Safety.memoryOk s → ∃ t : State, Leads (.homeFreeze m) s t ∧ AllAcked s t m x none ∧ mdState (t.md.read line) = 2 ∧
      mdPoison (t.md.read line) = mdPoison (s.md.read line) ∧ MemOutside s t (128 * line) 128 ∧ MdOutside s t line ∧
      (mdWidth (s.md.read line) ≠ 0 → t.mem = s.mem ∧ mdWidth (t.md.read line) = mdWidth (s.md.read line)) ∧
      (mdState (s.md.read line) = 2 → t.mem = s.mem ∧ t.md = s.md) ∧
      (mdState (s.md.read line) ≠ 2 → Retested s t line ∧ (mdWidth (s.md.read line) = 0 →
        (ty = 1 → t.mem.readN (128 * line) 128 = 0 ∧ mdWidth (t.md.read line) = 0) ∧
        (ty ≠ 1 → let n := if ty = 10 then 16 else 8
          mdWidth (t.md.read line) = 3 ∧
            ∀ k, k < 128 / n → t.mem.readN (128 * line + k * n) n = cellBottom ty (8 * n)))) := by
  intro m line ty tag s x h hform
  have hwfm : s.mem.wf = true := hform.1
  obtain ⟨t, hl, hack, hfrozen, hnew⟩ := homeFreeze_performs h hform
  by_cases hst : mdState (s.md.read line) = 2
  · obtain ⟨hmem, hmd⟩ := hfrozen hst
    refine ⟨t, hl, hack, by rw [hmd, hst], by rw [hmd], fun b _ => by rw [hmem]; exact ⟨rfl, rfl⟩, fun k _ => by rw [hmd],
      fun _ => ⟨hmem, by rw [hmd]⟩, fun _ => ⟨hmem, hmd⟩, fun hne => absurd hst hne⟩
  · obtain ⟨hmem, hout, h1, h2, h3, hre⟩ := hnew hst
    refine ⟨t, hl, hack, h1, h2, fun b hb => ?_, hout, fun hw => ⟨?_, ?_⟩, fun h2 => absurd h2 hst, fun _ => ⟨hre, fun hw => ⟨?_, ?_⟩⟩⟩
    · rw [hmem]
      exact frozenMem_outside s line ty hb
    · rw [hmem, State.frozenMem, if_neg hw]
    · rw [h3, frozenWidth, if_neg hw]
      split <;> rfl
    · rintro rfl
      rw [hmem, State.frozenMem, if_pos hw, if_pos rfl, h3, frozenWidth, if_pos rfl]
      exact ⟨readN_clear _ _ hwfm, hw⟩
    · intro hty n
      refine ⟨by rw [h3, frozenWidth, if_neg hty, if_pos hw], fun k hk => ?_⟩
      have hn : 0 < n ∧ n ∣ 128 ∧ (if ty = 10 then 128 else 64) = 8 * n := by
        by_cases h10 : ty = 10
        · have : n = 16 := if_pos h10
          rw [this, if_pos h10]
          decide
        · have : n = 8 := if_neg h10
          rw [this, if_neg h10]
          decide
      rw [hmem, State.frozenMem, if_pos hw, if_neg hty, hn.2.2]
      exact lineBottom_cell hn.1 hn.2.1 hwfm hk

theorem thresholds_at_home : ∀ (m cell ty : Nat) (arg : BitVec 8) (k : TestKind) (trig : Word) (w : Who) (s : State) (x : Msg),
    AtHome s m x (.test cell ty arg k w) → (k = .await trig ∨ k = .probe trig) →
    (∀ f ∈ s.forwards, f.1 ≠ cell / 128) → 2 ≤ ty → ty ≤ 10 →
    (let line := cell / 128
     let md := s.md.read line
     let n := widthBytes ty (mdWidth md)
     let unset := mdWidth md = 0
     let passes := if unset then trig = 0 ∧ (ty = 3 ∨ ty = 8 ∨ ty = 9 ∨ ty = 10)
       else Passes ty (8 * n) (s.mem.readN cell n) trig
     mdPoison md = false → (unset → mdState md = 0) → (¬ unset → cell % n = 0) →
     ∃ t : State, Leads (.thresholdTest m) s t ∧ t.mem = s.mem ∧
       (passes → Answered s t m x w (.result w (.passed 0 0)) ∧ t.watches = s.watches ∧ t.md = s.md) ∧
       (¬ passes → mdState md = 2 → Answered s t m x w (.result w .unreachable) ∧ t.watches = s.watches ∧ t.md = s.md) ∧
       (¬ passes → mdState md ≠ 2 → k = .probe trig →
         Answered s t m x w (.result w .notPassed) ∧ t.watches = s.watches ∧ t.md = s.md) ∧
       (¬ passes → mdState md ≠ 2 → k = .await trig →
         (Sys2Proof.Safety.memoryOk s → MdOutside s t line ∧ mdWatched (t.md.read line) = true) ∧
         t.watches = s.watches ++ [{ cell := cell, ty := ty, arg := arg, kind := k, who := w, va := x.va, home := x.dst
                                     asid := x.asid, gen := x.gen }])) := by
  intro m cell ty arg k trig w s x h hk hfw h2 h10 line md n unset passes hpo hun hal
  have htrig : k.trigger = trig := by rcases hk with rfl | rfl <;> rfl
  obtain ⟨b, hpassb, hpass⟩ : ∃ b : Bool, (b = true ↔ passes) ∧ s.testLine cell ty k =
      if b then some (.passed 0 0) else if mdState md = 2 then some .unreachable else none := by
    rw [testLine_growing (by omega), htrig, hpo, if_neg (fun hc => hc.2.2 (hal hc.1)), if_neg Bool.false_ne_true]
    by_cases hw : unset
    · have hst : ¬ mdState md = 2 := by rw [hun hw]; decide
      have hiff : passes ↔ trig = 0 ∧ (ty = 3 ∨ ty = 8 ∨ ty = 9 ∨ ty = 10) := iff_of_eq (if_pos hw)
      rw [if_pos hw, if_neg hst]
      exact ⟨passesUnset ty trig, passesUnset_iff.trans hiff.symm, rfl⟩
    · have hiff : passes ↔ Passes ty (8 * n) (s.mem.readN cell n) trig := iff_of_eq (if_neg hw)
      rw [if_neg hw, hal hw, Nat.sub_zero]
      exact ⟨cellPassed ty (8 * n) (s.mem.readN cell n) trig, (cellPassed_iff h2 h10).trans hiff.symm, rfl⟩
  have hreplied (r : TestResult) (hr : s.testReply cell ty k = some r) :
      Answered s ((s.dropMsg m).tested x cell ty arg k w) m x w (.result w r) ∧
        ((s.dropMsg m).tested x cell ty arg k w).watches = s.watches ∧ ((s.dropMsg m).tested x cell ty arg k w).md = s.md :=
    ⟨(tested_replies hr).answered, (tested_replies hr).kept.2.2, (tested_replies hr).kept.2.1⟩
  refine ⟨_, congrArg Host.Outcome.next (thresholdTest_tests h hfw), tested_mem, fun hp => hreplied _ ?_, fun hp hst => hreplied _ ?_,
    fun hp hst hprobe => hreplied _ ?_, fun hp hst hawait => ?_⟩
  · rw [State.testReply, hpass, if_pos (hpassb.2 hp)]
    rfl
  · rw [State.testReply, hpass, if_neg (mt hpassb.1 hp), if_pos hst]
    rfl
  · rw [State.testReply, hpass, if_neg (mt hpassb.1 hp), if_neg hst, hprobe]
    rfl
  · have hr : s.testReply cell ty k = none := by
      rw [State.testReply, hpass, if_neg (mt hpassb.1 hp), if_neg hst, hawait]
      rfl
    exact ⟨(tested_watches hr).2.2, (tested_watches hr).2.1⟩

theorem firsts_at_home (h : AtHome s m x (.test cell 1 arg k w)) (hfw : ∀ f ∈ s.forwards, f.1 ≠ cell / 128) :
    ∃ t : State, Leads (.thresholdTest m) s t ∧ t.mem = s.mem ∧
      (∀ r, s.testLine cell 1 k = some r → Answered s t m x w (.result w r) ∧ t.watches = s.watches) ∧
      (s.testLine cell 1 k = none → k.isProbe = false → ∃ h : Watch, t.watches = s.watches ++ [h] ∧ h.cell = cell ∧ h.who = w) := by
  refine ⟨_, congrArg Host.Outcome.next (thresholdTest_tests h hfw), tested_mem, fun r hr => ?_, fun hn hk => ?_⟩
  · have hr' : s.testReply cell 1 k = some r := by
      rw [State.testReply, hr]
      rfl
    exact ⟨(tested_replies hr').answered, (tested_replies hr').kept.2.2⟩
  · have hr' : s.testReply cell 1 k = none := by
      rw [State.testReply, hn, hk]
      rfl
    exact ⟨watchOf x cell 1 arg k w, (tested_watches hr').2.1, rfl, rfl⟩

theorem misplaced_at_home : ∀ (m cell ty : Nat) (arg : BitVec 8) (k : TestKind) (w : Who) (s : State) (x : Msg),
    AtHome s m x (.test cell ty arg k w) → (∀ f ∈ s.forwards, f.1 ≠ cell / 128) → 1 ≤ ty → ty ≤ 10 →
    (let md := s.md.read (cell / 128)
     let n := widthBytes ty (mdWidth md)
     let apart := ty ≠ 1 ∧ mdWidth md ≠ 0 ∧ cell % n ≠ 0
     ∃ t : State, Leads (.thresholdTest m) s t ∧ t.mem = s.mem ∧
       (apart → (∀ trig, k ≠ .probe trig) → Answered s t m x w (.result w .misaligned) ∧ t.watches = s.watches ∧ t.md = s.md) ∧
       (mdPoison md = true → (¬ apart ∨ ∃ trig, k = .probe trig) →
         Answered s t m x w (.result w .poison) ∧ t.watches = s.watches ∧ t.md = s.md) ∧
       (∀ trig, mdPoison md = false → apart → k = .probe trig →
         (let passes := Passes ty (8 * n) (s.mem.readN (cell - cell % n) n) trig
          (passes → Answered s t m x w (.result w (.passed 0 0))) ∧
          (¬ passes → mdState md = 2 → Answered s t m x w (.result w .unreachable)) ∧
          (¬ passes → mdState md ≠ 2 → Answered s t m x w (.result w .notPassed))))) := by
  intro m cell ty arg k w s x h hfw h1 h10 md n apart
  have hreplied (r : TestResult) (hr : s.testReply cell ty k = some r) :
      Answered s ((s.dropMsg m).tested x cell ty arg k w) m x w (.result w r) ∧
        ((s.dropMsg m).tested x cell ty arg k w).watches = s.watches ∧ ((s.dropMsg m).tested x cell ty arg k w).md = s.md :=
    ⟨(tested_replies hr).answered, (tested_replies hr).kept.2.2, (tested_replies hr).kept.2.1⟩
  refine ⟨_, congrArg Host.Outcome.next (thresholdTest_tests h hfw), tested_mem, fun ⟨hty, hw, hal⟩ hk => hreplied _ ?_,
    fun hpo hap => hreplied _ ?_, ?_⟩
  · have hprobe : k.isProbe = false := by
      cases k with
      | probe trig => exact absurd rfl (hk trig)
      | _ => rfl
    rw [State.testReply, testLine_growing hty, if_pos ⟨hw, hprobe, hal⟩]
    rfl
  · have hpoison : s.testLine cell ty k = some .poison := by
      by_cases hty : ty = 1
      · subst hty
        cases k with
        | any trigs => exact testLine_any.trans (if_pos hpo)
        | _ =>
          refine (testLine_first ?_).trans (if_pos hpo)
          exact fun _ => nofun
      · rw [testLine_growing hty, hpo, if_neg, if_pos rfl]
        rintro ⟨hw, hprobe, hal⟩
        rcases hap with hap | ⟨trig, rfl⟩
        · exact hap ⟨hty, hw, hal⟩
        · nomatch hprobe
    rw [State.testReply, hpoison]
    rfl
  · rintro trig hpo ⟨hty, hw, hal⟩ rfl passes
    have hpassb : cellPassed ty (8 * n) (s.mem.readN (cell - cell % n) n) trig = true ↔ passes := cellPassed_iff (by omega) h10
    have htest : s.testLine cell ty (.probe trig) = if cellPassed ty (8 * n) (s.mem.readN (cell - cell % n) n) trig then some (.passed 0 0)
        else if mdState md = 2 then some .unreachable else none := by
      rw [testLine_growing hty, hpo, if_neg (fun hc => nomatch hc.2.1), if_neg Bool.false_ne_true, if_neg hw]
      rfl
    refine ⟨fun hp => (hreplied _ ?_).1, fun hp hst => (hreplied _ ?_).1, fun hp hst => (hreplied _ ?_).1⟩
    · rw [State.testReply, htest, if_pos (hpassb.2 hp)]
      rfl
    · rw [State.testReply, htest, if_neg (mt hpassb.1 hp), if_pos hst]
      rfl
    · rw [State.testReply, htest, if_neg (mt hpassb.1 hp), if_neg hst]
      rfl

theorem lists_at_home : ∀ (m cell : Nat) (arg : BitVec 8) (trigs : List Word) (w : Who) (s : State) (x : Msg),
    AtHome s m x (.test cell 1 arg (.any trigs) w) → (∀ f ∈ s.forwards, f.1 ≠ cell / 128) →
    (let md := s.md.read (cell / 128)
     let first : Word := BitVec.ofNat 64 (s.mem.readN (128 * (cell / 128)) 8)
     mdPoison md = false → ∃ t : State, Leads (.thresholdTest m) s t ∧ t.mem = s.mem ∧
       (∀ i : Nat, mdWidth md = 1 → trigs[i]? = some first → (∀ j : Nat, j < i → trigs[j]? ≠ some first) →
         Answered s t m x w (.result w (.passed i first)) ∧ t.watches = s.watches) ∧
       ((mdWidth md = 1 ∧ first ∉ trigs ∨ mdWidth md ≠ 1 ∧ mdState md = 2) →
         Answered s t m x w (.result w .unreachable) ∧ t.watches = s.watches) ∧
       (mdWidth md ≠ 1 → mdState md ≠ 2 → ∃ h : Watch, t.watches = s.watches ++ [h] ∧ h.cell = cell ∧ h.who = w)) := by
  intro m cell arg trigs w s x h hfw md first hpo
  obtain ⟨t, hl, hmem, hsome, hnone⟩ := firsts_at_home h hfw
  rw [testLine_any, hpo, if_neg Bool.false_ne_true] at hsome hnone
  refine ⟨t, hl, hmem, fun i hw hi hfirst => hsome _ ?_, fun hcase => hsome _ ?_, fun hw hst => hnone ?_ rfl⟩
  · rw [if_pos hw, trigIndex_first hi hfirst]
  · rcases hcase with ⟨hw, habs⟩ | ⟨hw, hst⟩
    · rw [if_pos hw, trigIndex_absent habs]
    · rw [if_neg hw, if_pos hst]
  · rw [if_neg hw, if_neg hst]

/-- Settles O40: each request at its home is one equation of the home with its access counted, and what it leaves is read off
that equation. -/
theorem homesFillFreezeReadAndTest : Obligations.HomesFillFreezeReadAndTest := by
  unfold Obligations.HomesFillFreezeReadAndTest
  refine ⟨⟨fills_at_home, marked_fills_at_home, freezes_at_home,
    fun m pa n data marks tag s x h hform hold hi hr => homeStore_performs h hform hold ⟨hi, hr⟩, ?_, ?_⟩,
    ⟨thresholds_at_home, ?_⟩, ⟨misplaced_at_home, lists_at_home, ?_, ?_, ?_⟩⟩
  · intro m line ty w s x h
    have hat := atHome_some h rfl
    obtain ⟨hm, -, hb, hf, hcnt, -⟩ := h
    obtain ⟨hrep, hnew⟩ := answerRead_replies (w := w) (line := line) (ty := ty) hm hf hcnt none
    exact ⟨_, congrArg Host.Outcome.next (homeLoad_eq hat hb hf), hrep.answered, hrep.kept.1, hrep.kept.2.1, hnew rfl⟩
  · intro m line ty w s x h md
    have hat := atHome_some h rfl
    obtain ⟨hm, -, hb, hf, hcnt, -⟩ := h
    obtain ⟨hrep, hnew⟩ := answerRead_replies (w := w) (line := line) (ty := ty) hm hf hcnt (s.exactFault line)
    refine ⟨_, congrArg Host.Outcome.next (homeExactRead_eq hat hb hf), hrep.kept.1, hrep.kept.2.1, fun hpo => ?_, fun hpo hst => ?_,
      fun hpo hst => ?_⟩
    · have hfault : s.exactFault line = some .poison := if_pos hpo
      rw [hfault] at hrep ⊢
      exact hrep.answered
    · have hfault : s.exactFault line = some .prematureRead := by
        rw [State.exactFault]
        rw [if_neg (by rw [hpo]; exact Bool.false_ne_true), if_pos hst]
      rw [hfault] at hrep ⊢
      exact hrep.answered
    · have hfault : s.exactFault line = none := by
        rw [State.exactFault]
        rw [if_neg (by rw [hpo]; exact Bool.false_ne_true), if_neg hst]
      rw [hfault] at hrep hnew ⊢
      exact ⟨hrep.answered, hnew rfl⟩
  · intro m cell arg w s x h hfw md hpo
    obtain ⟨t, hl, hmem, hsome, hnone⟩ := firsts_at_home h hfw
    rw [testLine_first (k := .filled) (fun _ => nofun), hpo, if_neg Bool.false_ne_true] at hsome hnone
    refine ⟨t, hl, hmem, fun hw => hsome _ (if_pos hw), fun hw hst => hsome _ ?_, fun hw hst => hnone ?_ rfl⟩
    · rw [if_neg hw, if_pos hst]
    · rw [if_neg hw, if_neg hst]
  · exact fun m s x => ⟨fun line data mark tag hb h => homeFill_counted hb h, fun line ty tag hb => homeFreeze_counted hb,
      fun pa n data marks tag hb hold hno => homeStore_counted hb hold hno, fun line ty w hb => homeLoad_counted hb,
      fun line ty w hb => homeExactRead_counted hb, fun cell ty arg k w hb hfw => thresholdTest_counted hb hfw⟩
  · intro m cell ty dest arg k w s x h hfw
    have hat := atHome_some h rfl
    obtain ⟨hm, -, hb, hf, hcnt, -⟩ := h
    have hid := msg?_id hm
    have hexec := thresholdTest_forwards hat hb hf hfw
    rw [countAccess_off hcnt] at hexec
    exact ⟨_, _, congrArg Host.Outcome.next hexec, msg?_putMsg hid hm, rfl, rfl, rfl, rfl, rfl, rfl, rfl⟩
  · intro m cell ty dest arg k w s x hm hloc hb hf hcnt hroom hfw
    obtain ⟨hat, -⟩ := counted_atHome hm hloc (by rw [hb]; rfl) hroom
    have hid := msg?_id hm
    have hexec := thresholdTest_forwards hat hb hf hfw
    obtain ⟨mem, cs, hc⟩ := s.countAt_eq true x.body.key x.va x.asid
    rw [State.countAccess, hcnt] at hexec
    refine ⟨_, _, congrArg Host.Outcome.next hexec, msg?_putMsg (x := x) hid ?_, rfl, rfl, rfl, rfl, ?_⟩
    · rw [hc]
      exact hm
    · rw [hc]
      rfl

end
end Sys2Proof.Machine
end

section
/-! PROOFS. The rules of the routes (R113, R118 to R120). -/
namespace Sys2Proof.Machine
open Sys2Proof.Claims

/-! Round the ring of base dies (R113). -/

theorem any_dead {dead : BitVec 4} {es : List Nat} : (!es.any fun e => dead.getLsbD e) = true ↔ ∀ e ∈ es, dead.getLsbD e = false := by
  simp

/-- The way round the ring, by which ways are whole. -/
theorem ringEast_eq (dead : BitVec 4) (a b : Nat) [Decidable (∀ e ∈ eastEdges a b, dead.getLsbD e = false)]
    [Decidable (∀ e ∈ eastEdges b a, dead.getLsbD e = false)] : ringEast dead a b =
    if ∀ e ∈ eastEdges a b, dead.getLsbD e = false then
      if ∀ e ∈ eastEdges b a, dead.getLsbD e = false then
        if (eastEdges a b).length = (eastEdges b a).length then some (decide (3 ∉ eastEdges a b))
        else some (decide ((eastEdges a b).length < (eastEdges b a).length))
      else some true
    else if ∀ e ∈ eastEdges b a, dead.getLsbD e = false then some false else none := by
  have hcontains : (!(eastEdges a b).contains 3) = decide (3 ∉ eastEdges a b) := by
    rw [List.contains_eq_mem, decide_not]
  rw [ringEast, hcontains]
  by_cases he : ∀ e ∈ eastEdges a b, dead.getLsbD e = false
  · rw [any_dead.2 he, if_pos he, Bool.true_and]
    by_cases hw : ∀ e ∈ eastEdges b a, dead.getLsbD e = false
    · rw [any_dead.2 hw, if_pos hw, if_pos rfl]
    · rw [if_neg (mt any_dead.1 hw), if_neg hw, if_pos rfl]
  · rw [Bool.not_eq_true _ |>.mp (mt any_dead.1 he), if_neg he, Bool.false_and, if_neg Bool.false_ne_true, if_neg Bool.false_ne_true]
    by_cases hw : ∀ e ∈ eastEdges b a, dead.getLsbD e = false
    · rw [if_pos (any_dead.2 hw), if_pos hw]
    · rw [if_neg (mt any_dead.1 hw), if_neg hw]

theorem ringRule : RingRule := by
  classical
  intro dead a b _ _ _ whole east west
  have heq := ringEast_eq dead a b
  by_cases he : whole east
  · rw [if_pos he] at heq
    by_cases hw : whole west
    · rw [if_pos hw] at heq
      refine ⟨⟨fun h => ?_, fun h => absurd he h.1⟩, fun _ hn => absurd hw hn, fun _ hn => absurd he hn, fun _ _ hlt => ?_,
        fun _ _ hlt => ?_, fun _ _ hlen => heq.trans (if_pos hlen)⟩
      · rw [h] at heq
        split at heq <;> nomatch heq
      · rw [heq, if_neg (Nat.ne_of_lt hlt), decide_eq_true hlt]
      · rw [heq, if_neg (Nat.ne_of_gt hlt), decide_eq_false (Nat.not_lt_of_gt hlt)]
    · rw [if_neg hw] at heq
      exact ⟨⟨fun h => (nomatch heq.symm.trans h), fun h => absurd he h.1⟩, fun _ _ => heq, fun hw' => absurd hw' hw,
        fun _ hw' => absurd hw' hw, fun _ hw' => absurd hw' hw, fun _ hw' => absurd hw' hw⟩
  · rw [if_neg he] at heq
    refine ⟨?_, fun he' => absurd he' he, fun hw _ => heq.trans (if_pos hw), fun he' => absurd he' he, fun he' => absurd he' he,
      fun he' => absurd he' he⟩
    by_cases hw : whole west
    · rw [heq, if_pos hw]
      exact ⟨nofun, fun h => absurd hw h.2⟩
    · rw [heq, if_neg hw]
      exact ⟨fun _ => ⟨he, hw⟩, fun _ => rfl⟩

/-! Between packages (R118 to R120). -/

theorem dimsBetween_first {a b k : Nat} (hk : k < 3) (hsame : ∀ j, j < k → bitsOf a (4 * j) 4 = bitsOf b (4 * j) 4)
    (hdiff : bitsOf a (4 * k) 4 ≠ bitsOf b (4 * k) 4) : ∃ l, dimsBetween a b = k :: l := by
  have hk3 : k = 0 ∨ k = 1 ∨ k = 2 := by omega
  have hrange : List.range 3 = [0, 1, 2] := rfl
  rw [dimsBetween, hrange]
  rcases hk3 with rfl | rfl | rfl
  · exact ⟨_, List.filter_cons_of_pos (by simpa using hdiff)⟩
  · have h0 := hsame 0 (by decide)
    exact ⟨_, (List.filter_cons_of_neg (by simpa using h0)).trans (List.filter_cons_of_pos (by simpa using hdiff))⟩
  · have h0 := hsame 0 (by decide)
    have h1 := hsame 1 (by decide)
    exact ⟨_, (List.filter_cons_of_neg (by simpa using h0)).trans
      ((List.filter_cons_of_neg (by simpa using h1)).trans (List.filter_cons_of_pos (by simpa using hdiff)))⟩

/-- A link of a dimension, a direction and a half. -/
def linkAt (k : Nat) (up half : Bool) : Nat := 2 * k + (if up then 0 else 1) + (if half then 6 else 0)

theorem linkAt_lt {k : Nat} (hk : k < 3) (up half : Bool) : linkAt k up half < 12 := by
  cases up <;> cases half <;> simp only [linkAt, if_true, if_false, Bool.false_eq_true] <;> omega

theorem linkOf_eq {s : State} {k : Nat} (hk : k < 3) (up : Bool) (pa : Nat) :
    s.linkOf (2 * k + (if up then 0 else 1)) pa =
      if s.linkUp (Fin.ofNat 12 (linkAt k up (decide (bitsOf pa 7 1 = 1)))) then
        some (Fin.ofNat 12 (linkAt k up (decide (bitsOf pa 7 1 = 1)))).val
      else if s.linkUp (Fin.ofNat 12 (linkAt k up (!decide (bitsOf pa 7 1 = 1)))) then
        some (Fin.ofNat 12 (linkAt k up (!decide (bitsOf pa 7 1 = 1)))).val
      else none := by
  have hval (half : Bool) : (Fin.ofNat 12 (linkAt k up half)).val = linkAt k up half := Nat.mod_eq_of_lt (linkAt_lt hk up half)
  have hbit : bitsOf pa 7 1 = 0 ∨ bitsOf pa 7 1 = 1 := by
    have : bitsOf pa 7 1 < 2 := Nat.mod_lt _ (by decide)
    omega
  rw [hval, hval, State.linkOf]
  rcases hbit with hbit | hbit <;> rw [hbit] <;> rfl

theorem linkRule : LinkRule := by
  intro s own pkg pa k hown hk hsame hdiff n up link b
  obtain ⟨l, hl⟩ := dimsBetween_first hk hsame hdiff
  have hopp : (2 * k + if up then 1 else 0) = 2 * k + if (!up) then 0 else 1 := by cases up <;> rfl
  have hfor : s.linkFor pkg pa = match s.linkOf (2 * k + (if up then 0 else 1)) pa with
      | some l => some l
      | none => s.linkOf (2 * k + (if up then 1 else 0)) pa := by
    rw [State.linkFor, hown]
    dsimp only
    rw [hl]
    rfl
  rw [hfor, hopp, linkOf_eq hk, linkOf_eq hk]
  show _ = if s.linkUp (Fin.ofNat 12 (linkAt k up b)) then some (Fin.ofNat 12 (linkAt k up b)).val
    else if s.linkUp (Fin.ofNat 12 (linkAt k up !b)) then some (Fin.ofNat 12 (linkAt k up !b)).val
    else if s.linkUp (Fin.ofNat 12 (linkAt k (!up) b)) then some (Fin.ofNat 12 (linkAt k (!up) b)).val
    else if s.linkUp (Fin.ofNat 12 (linkAt k (!up) !b)) then some (Fin.ofNat 12 (linkAt k (!up) !b)).val else none
  by_cases h1 : s.linkUp (Fin.ofNat 12 (linkAt k up b)) = true
  · rw [if_pos h1, if_pos h1]
  rw [if_neg h1, if_neg h1]
  by_cases h2 : s.linkUp (Fin.ofNat 12 (linkAt k up !b)) = true
  · rw [if_pos h2, if_pos h2]
  · rw [if_neg h2, if_neg h2]

/-- One hexadecimal digit of a number replaced. -/
theorem digit_replaced {a y k j : Nat} (hy : y < 16) :
    bitsOf (a - bitsOf a (4 * k) 4 * 2 ^ (4 * k) + y * 2 ^ (4 * k)) (4 * j) 4 = if j = k then y else bitsOf a (4 * j) 4 := by
  have hpos : 0 < 2 ^ (4 * k) := Nat.two_pow_pos _
  obtain ⟨q, hq⟩ : ∃ q, q = a / 2 ^ (4 * k) / 16 := ⟨_, rfl⟩
  obtain ⟨d, hd⟩ : ∃ d, d = bitsOf a (4 * k) 4 := ⟨_, rfl⟩
  have hdlt : d < 16 := hd ▸ Nat.mod_lt _ (by decide)
  obtain ⟨lo, hlo⟩ : ∃ lo, lo = a % 2 ^ (4 * k) := ⟨_, rfl⟩
  have hlolt : lo < 2 ^ (4 * k) := hlo ▸ Nat.mod_lt _ hpos
  have ha : a = (16 * q + d) * 2 ^ (4 * k) + lo := by
    rw [hlo, hq, hd, bitsOf, show 2 ^ 4 = 16 from rfl, Nat.div_add_mod, Nat.mul_comm, Nat.div_add_mod]
  have hnew : a - bitsOf a (4 * k) 4 * 2 ^ (4 * k) + y * 2 ^ (4 * k) = (16 * q + y) * 2 ^ (4 * k) + lo := by
    rw [← hd, ha, Nat.add_mul, Nat.add_mul]
    omega
  rw [hnew]
  have hdiv (z : Nat) : ((16 * q + z) * 2 ^ (4 * k) + lo) / 2 ^ (4 * k) = 16 * q + z := by
    rw [Nat.add_comm, Nat.add_mul_div_right _ _ hpos, Nat.div_eq_of_lt hlolt, Nat.zero_add]
  rcases Nat.lt_trichotomy j k with hj | rfl | hj
  · rw [if_neg (Nat.ne_of_lt hj)]
    have hmod (z : Nat) : bitsOf ((16 * q + z) * 2 ^ (4 * k) + lo) (4 * j) 4 = lo % (2 ^ (4 * j) * 16) / 2 ^ (4 * j) := by
      obtain ⟨r, hr⟩ : ∃ r, (16 * q + z) * 2 ^ (4 * k) = 2 ^ (4 * j) * 16 * r := by
        obtain ⟨i, rfl⟩ := Nat.exists_eq_add_of_lt hj
        refine ⟨(16 * q + z) * 2 ^ (4 * i), ?_⟩
        rw [show 4 * (j + i + 1) = 4 * j + 4 + 4 * i by omega, Nat.pow_add, Nat.pow_add]
        ring
      rw [hr, bitsOf, show 2 ^ 4 = 16 from rfl, ← Nat.mod_mul_right_div_self, Nat.mul_add_mod]
    rw [hmod, ha, hmod]
  · rw [if_pos rfl, bitsOf, hdiv, show 2 ^ 4 = 16 from rfl, Nat.mul_add_mod, Nat.mod_eq_of_lt hy]
  · rw [if_neg (Nat.ne_of_gt hj)]
    have hhigh (z : Nat) (hz : z < 16) : bitsOf ((16 * q + z) * 2 ^ (4 * k) + lo) (4 * j) 4 = q / 2 ^ (4 * (j - k - 1)) % 16 := by
      have hpow : 2 ^ (4 * j) = 2 ^ (4 * k) * (16 * 2 ^ (4 * (j - k - 1))) := by
        rw [show (16 : Nat) = 2 ^ 4 from rfl, ← Nat.pow_add, ← Nat.pow_add]
        congr 1
        omega
      rw [bitsOf, hpow, ← Nat.div_div_eq_div_mul, hdiv, ← Nat.div_div_eq_div_mul, Nat.mul_add_div (by decide), Nat.div_eq_of_lt hz,
        Nat.add_zero]
      rfl
    rw [hhigh y hy, ha, hhigh d hdlt]

theorem neighbourRule : NeighbourRule := by
  intro s a k up _ hring hx x n
  have hnx : x < n := hx
  have hn16 : n ≤ 16 := hring
  have hy : (if up then (if x + 1 < n then x + 1 else 0) else (if x = 0 then n - 1 else x - 1)) =
      if up then (x + 1) % n else (x + n - 1) % n := by
    cases up with
    | true =>
      rw [if_pos rfl, if_pos rfl]
      by_cases h : x + 1 < n
      · rw [if_pos h, Nat.mod_eq_of_lt h]
      · rw [if_neg h, show x + 1 = n by omega, Nat.mod_self]
    | false =>
      rw [if_neg Bool.false_ne_true, if_neg Bool.false_ne_true]
      by_cases h : x = 0
      · rw [if_pos h, h, Nat.zero_add, Nat.mod_eq_of_lt (by omega)]
      · rw [if_neg h, show x + n - 1 = x - 1 + n by omega, Nat.add_mod_right, Nat.mod_eq_of_lt (by omega)]
  have hlt : (if up then (x + 1) % n else (x + n - 1) % n) < 16 := by
    split <;> exact Nat.lt_of_lt_of_le (Nat.mod_lt _ (by omega)) hn16
  have hnext : (s.neighbour a k up).1 = a - bitsOf a (4 * k) 4 * 2 ^ (4 * k) + (if up then (x + 1) % n else (x + n - 1) % n) * 2 ^ (4 * k) := by
    rw [← hy]
    rfl
  refine ⟨?_, fun j _ hj => ?_, ?_⟩
  · rw [hnext, digit_replaced hlt, if_pos rfl]
  · rw [hnext, digit_replaced hlt, if_neg hj]
  · have hcross : (s.neighbour a k up).2 = if up then decide ((if up then (if x + 1 < n then x + 1 else 0) else (if x = 0 then n - 1 else x - 1)) = 0)
        else decide (x = 0) := rfl
    rw [hcross]
    cases up with
    | true =>
      rw [if_pos rfl, if_pos rfl, if_pos rfl, decide_eq_true_eq]
      split <;> omega
    | false => exact decide_eq_true_iff

theorem heading_eq {s : State} {way : Option (Nat × Bool)} {a b k : Nat} (hk : k < 3)
    (hsame : ∀ j, j < k → bitsOf a (4 * j) 4 = bitsOf b (4 * j) 4) (hdiff : bitsOf a (4 * k) 4 ≠ bitsOf b (4 * k) 4) :
    s.heading way a b = some (match way with
      | some (j, up) => (k, if j = k then up else s.positive k (bitsOf a (4 * k) 4) (bitsOf b (4 * k) 4))
      | none => (k, s.positive k (bitsOf a (4 * k) 4) (bitsOf b (4 * k) 4))) := by
  obtain ⟨l, hl⟩ := dimsBetween_first hk hsame hdiff
  rw [State.heading, hl]
  rfl

theorem headingRule : HeadingRule := by
  intro s way a b k hk hsame hdiff
  rw [heading_eq hk hsame hdiff]
  refine ⟨?_, fun hne => ?_⟩
  · rintro up rfl
    dsimp only
    rw [if_pos rfl]
  · cases way with
    | none => rfl
    | some w =>
      obtain ⟨j, up⟩ := w
      dsimp only
      rw [if_neg]
      · rfl
      · rintro rfl
        exact hne up rfl

end Sys2Proof.Machine
end

section
/-! PROOFS. One hop of a message on the mesh and the ring (R112 to R116). -/
namespace Sys2Proof.Machine
open Sys2Proof.Claims

section
variable {s t : State} {m bd cx cy die : Nat} {x y : Msg} {l : Loc}

/-! A message put in another place. -/

/-- Only contexts and the stamp differ. -/
def InContexts (s t : State) : Prop := t = { s with cur := t.cur, ctxs := t.ctxs, nextSeq := t.nextSeq }

theorem inContexts_chain : Chain InContexts := ⟨fun _ => rfl, fun h h' => h'.trans (by rw [h])⟩

theorem inContexts_modCtx (s : State) (k : Key) (f : Context → Context) : InContexts s (s.modCtx k f) := by
  have h := ctxsOnly_modCtx s k f
  exact h.trans (by rw [h])

theorem inContexts_markPassed (s : State) (b : Body) (link : Bool) : InContexts s (s.markPassed b link) := by
  rw [State.markPassed]
  split
  · exact rfl
  · exact inContexts_chain.trans (inContexts_chain.foldl (fun _ _ => inContexts_modCtx _ _ _) _ s) rfl

theorem inContexts_moveTo (s : State) (y : Msg) : InContexts (s.putMsg y) (s.moveTo y) := by
  rw [State.moveTo]
  split
  · split
    · exact inContexts_markPassed _ _ _
    · exact rfl
  · exact inContexts_markPassed _ _ _
  · exact rfl

theorem msg?_putMsg_other {k : Nat} (h : k ≠ y.id) : (s.putMsg y).msg? k = s.msg? k := by
  rw [State.msg?, State.putMsg, State.msg?]
  dsimp only
  induction s.msgs with
  | nil => rfl
  | cons z l ih =>
    rw [List.map_cons, List.find?_cons, List.find?_cons, ih]
    by_cases hz : z.id = y.id
    · rw [if_pos hz, beq_false_of_ne (Ne.symm h), beq_false_of_ne (by rw [hz]; exact Ne.symm h)]
    · rw [if_neg hz]

theorem stands_id (h : Stands s m x l) : x.id = m := msg?_id h.1

/-- A message put in another place, with what it carries of its way. -/
theorem goesRound_of {l₀ : Loc} (h : Stands s m x l₀) (hid : y.id = m)
    (hy : y = { x with loc := l, dateline := y.dateline, fails := y.fails, way := y.way, turned := y.turned }) (ht : InContexts (s.putMsg y) t) :
    GoesRound s t x l y.way y.dateline ∧ t.msg? m = some y := by
  have hm := h.1
  have hxm := stands_id h
  have hmsg (k : Nat) : t.msg? k = (s.putMsg y).msg? k := by
    rw [ht]
    rfl
  have hsame : t.msg? m = some y := (hmsg m).trans (msg?_putMsg hid hm)
  refine ⟨⟨⟨y, by rw [hxm]; exact hsame, hy, fun k hk => ?_, by rw [ht]; rfl, by rw [ht]; rfl, by rw [ht]; rfl, by rw [ht]; rfl⟩,
    fun z hz => ?_⟩, hsame⟩
  · rw [hmsg, msg?_putMsg_other]
    rwa [hid, ← hxm]
  · rw [hxm, hsame] at hz
    cases hz
    exact ⟨rfl, rfl⟩

theorem movesTo_put {l₀ : Loc} (h : Stands s m x l₀) : MovesTo s (s.putMsg { x with loc := l }) x l := by
  have hid := stands_id h
  exact (goesRound_of (y := { x with loc := l }) h hid rfl (inContexts_chain.refl _)).1.1

/-! A hop (R113). -/

theorem routerForward_router (h : Stands s m x (.router bd cx cy)) : routerForward m false s = s.forward x bd cx cy := by
  rw [routerForward, h.1]
  dsimp only
  rw [h.2]
  rfl

theorem forward_hops (hop : s.hop x bd cx cy = some y) : s.forward x bd cx cy = s.moveTo y := by
  rw [State.forward, hop]

/-- A hop of a message from where it stands. -/
theorem hop_goes {l₀ : Loc} (h : Stands s m x l₀) (hop : s.hop x bd cx cy = some y) (hid : y.id = m)
    (hy : y = { x with loc := l, dateline := y.dateline, fails := y.fails, way := y.way, turned := y.turned }) :
    GoesRound s (s.forward x bd cx cy) x l y.way y.dateline := by
  rw [forward_hops hop]
  exact (goesRound_of h hid hy (inContexts_moveTo s y)).1

/-- A hop on the base die of a message's destination. -/
theorem hop_home (hbd : x.dst.place.1 = bd) (hrem : ∀ p d, x.dst ≠ .remote p d) (hgate : ∀ g, x.dst ≠ .gate g) :
    s.hop x bd cx cy = some { x with loc := nextRouter bd cx cy x.dst.place.2 } := by
  have hbody : s.hop x bd cx cy =
      if cx ≠ x.dst.place.2.1 then some { x with loc := .router bd (towards cx x.dst.place.2.1) cy }
      else if cy ≠ x.dst.place.2.2 then some { x with loc := .router bd cx (towards cy x.dst.place.2.2) }
      else some { x with loc := .arrived } := by
    rw [State.hop]
    cases hd : x.dst with
    | remote p d => exact absurd hd (hrem p d)
    | gate g => exact absurd hd (hgate g)
    | _ =>
      rw [hd] at hbd
      dsimp only
      rw [if_neg Bool.false_ne_true, if_neg (not_not.2 hbd.symm)]
  rw [hbody, nextRouter]
  by_cases hx : cx = x.dst.place.2.1
  · have h1 : ¬ cx < x.dst.place.2.1 := by omega
    have h2 : ¬ x.dst.place.2.1 < cx := by omega
    rw [if_neg (not_not.2 hx), if_neg h1, if_neg h2]
    by_cases hy : cy = x.dst.place.2.2
    · have h3 : ¬ cy < x.dst.place.2.2 := by omega
      have h4 : ¬ x.dst.place.2.2 < cy := by omega
      rw [if_neg (not_not.2 hy), if_neg h3, if_neg h4]
    · rw [if_pos hy, towards]
      split
      · rfl
      · have h5 : x.dst.place.2.2 < cy := by omega
        rw [if_pos h5, if_pos h5]
  · rw [if_pos hx, towards]
    split
    · rfl
    · have h3 : x.dst.place.2.1 < cx := by omega
      rw [if_pos h3, if_pos h3]

/-- What a message that makes for another base die does at a router. -/
theorem hop_ring (hfor : MakesFor s x die) (hne : bd ≠ die) : s.hop x bd cx cy =
    match ringEast s.deadEdges bd die with
    | none => none
    | some east =>
      if cx ≠ (if east then 7 else 0) then some { x with loc := .router bd (towards cx (if east then 7 else 0)) cy }
      else if (match x.src with
        | .core c => x.body.isRequest && decide (c / 192 = bd)
        | _ => false) then some { x with loc := .gate (gateAt bd east) } else some (crossEdge x bd cy east) := by
  rw [State.hop]
  rcases hfor with ⟨hrem, hd⟩ | ⟨p, d, l, hdst, hl, hdie⟩
  · cases hdst : x.dst with
    | remote p d => exact absurd hdst (hrem p d)
    | _ =>
      rw [hdst] at hd
      dsimp only
      rw [if_neg Bool.false_ne_true, hd, if_pos hne] <;> rfl
  · simp only [hdst, hl, Option.isNone_some, hdie]
    rw [if_neg Bool.false_ne_true, if_pos hne] <;> rfl

/-- What a message across the edge of a die carries. -/
theorem crossEdge_eq (x : Msg) (bd cy : Nat) (e : Bool) :
    ∃ l, crossEdge x bd cy e = { x with
        loc := l, dateline := x.dateline || (if e then decide (bd = 3) else decide (bd = 0)) } ∧
      ((∃ c, x.dst = .core c ∧ x.body.isResponse = true ∧ c / 192 = (if e then (bd + 1) % 4 else (bd + 3) % 4)) →
        l = .gate (gateAt (if e then (bd + 1) % 4 else (bd + 3) % 4) (!e))) ∧
      ((∀ c, x.dst = .core c → x.body.isResponse = true → c / 192 ≠ (if e then (bd + 1) % 4 else (bd + 3) % 4)) →
        l = .router (if e then (bd + 1) % 4 else (bd + 3) % 4) (if e then 0 else 7) cy) := by
  obtain ⟨next, hnext⟩ : ∃ n, n = (if e then (bd + 1) % 4 else (bd + 3) % 4) := ⟨_, rfl⟩
  rw [crossEdge]
  dsimp only
  rw [← hnext]
  by_cases hhome : ∃ c, x.dst = .core c ∧ x.body.isResponse = true ∧ c / 192 = next
  · obtain ⟨c, hc, hresp, hcn⟩ := hhome
    rw [if_pos (by rw [hc]; dsimp only; rw [hresp, decide_eq_true hcn]; rfl)]
    exact ⟨_, rfl, fun _ => rfl, fun h => absurd hcn (h c hc hresp)⟩
  · have hno : ∀ c, x.dst = .core c → x.body.isResponse = true → c / 192 ≠ next := fun c hc hresp hcn => hhome ⟨c, hc, hresp, hcn⟩
    rw [if_neg]
    · exact ⟨_, rfl, fun h => absurd h hhome, fun _ => rfl⟩
    · cases hd : x.dst with
      | core c =>
        intro h
        obtain ⟨h1, h2⟩ := Bool.and_eq_true_iff.1 h
        exact hno c hd h1 (of_decide_eq_true h2)
      | _ => exact Bool.false_ne_true

/-- A hop onto a link. -/
theorem hop_link {p d l : Nat} (hdst : x.dst = .remote p d) (hl : s.linkFor p (x.body.key % 2 ^ 52) = some l) (hbd : bd = linkDie l) :
    s.hop x bd cx cy = some { x with loc := .link l, dateline := false } := by
  simp only [State.hop, hdst, hl, Option.isNone_some]
  rw [if_neg Bool.false_ne_true, if_neg (not_not.2 hbd)]

theorem hop_noLink {p d : Nat} (hdst : x.dst = .remote p d) (hl : s.linkFor p (x.body.key % 2 ^ 52) = none) :
    s.hop x bd cx cy = none := by
  simp only [State.hop, hdst, hl, Option.isNone_none, if_true]

/-! Joins that wait (R116). -/

theorem routerForward_busy (h : Stands s m x (.router bd cx cy)) : routerForward m true s =
    match x.body with
    | .join j => s.enterBuffer x j bd cx cy
    | _ => s := by
  rw [routerForward, h.1]
  dsimp only
  rw [h.2]
  rfl

/-- The held join that one merges with. -/
def State.mergesWith (s : State) (x : Msg) (j : JoinReq) (bd cx cy : Nat) : Option Msg :=
  (s.buffered bd cx cy).find? (fun o => match o.body with
    | .join k => k.mayMerge j && o.bad == x.bad
    | _ => false)

/-- Two messages made one. -/
def mergedMsg (o x : Msg) (r : JoinReq) : Msg :=
  { o with id := min o.id x.id, body := .join r, cnt := o.cnt || x.cnt, dateline := o.dateline || x.dateline }

theorem enterBuffer_eq (s : State) (x : Msg) (j : JoinReq) (bd cx cy : Nat) : s.enterBuffer x j bd cx cy =
    match s.mergesWith x j bd cx cy with
    | some o => match o.body with
      | .join k => { s with
          msgs := (s.msgs.filter (fun z => z.id != x.id)).map (fun z => if z.id = o.id then mergedMsg o x (k.merge j) else z) }
      | _ => s
    | none => if (s.buffered bd cx cy).length < 32 then s.putMsg { x with loc := .buffer bd cx cy } else s := rfl

theorem enterBuffer_alone {j : JoinReq} (h : s.mergesWith x j bd cx cy = none) (hroom : (s.buffered bd cx cy).length < 32) :
    s.enterBuffer x j bd cx cy = s.putMsg { x with loc := .buffer bd cx cy } := by
  rw [enterBuffer_eq, h]
  exact if_pos hroom

theorem enterBuffer_merges {o : Msg} {j k : JoinReq} (h : s.mergesWith x j bd cx cy = some o) (hk : o.body = .join k) :
    s.enterBuffer x j bd cx cy = { s with
      msgs := (s.msgs.filter (fun z => z.id != x.id)).map (fun z => if z.id = o.id then mergedMsg o x (k.merge j) else z) } := by
  rw [enterBuffer_eq, h]
  dsimp only
  rw [hk]

/-- Of two messages made one, the lower number stands. -/
theorem merged_numbers {o z : Msg} {l : List Msg} (ho : o ∈ l) (hne : o.id ≠ m) (hz : z.id = min o.id m) :
    ((l.filter (fun y => y.id != m)).map (fun y => if y.id = o.id then z else y)).find? (fun y => y.id == min o.id m) = some z ∧
    ((l.filter (fun y => y.id != m)).map (fun y => if y.id = o.id then z else y)).find? (fun y => y.id == max o.id m) = none := by
  have hother : ∀ y ∈ l.filter (fun y => y.id != m), y.id ≠ m := fun y hy => by simpa using (List.mem_filter.1 hy).2
  constructor
  · have hall : ∀ y ∈ (l.filter (fun y => y.id != m)).map (fun y => if y.id = o.id then z else y), y.id = min o.id m → y = z := by
      intro y hy hid
      obtain ⟨a, ha, rfl⟩ := List.mem_map.1 hy
      have ham := hother a ha
      by_cases hao : a.id = o.id
      · rw [if_pos hao]
      · rw [if_neg hao] at hid
        rcases Nat.le_total o.id m with hle | hle
        · rw [Nat.min_eq_left hle] at hid
          exact absurd hid hao
        · rw [Nat.min_eq_right hle] at hid
          exact absurd hid ham
    have hmem : z ∈ (l.filter (fun y => y.id != m)).map (fun y => if y.id = o.id then z else y) :=
      List.mem_map.2 ⟨o, List.mem_filter.2 ⟨ho, by simpa using hne⟩, if_pos rfl⟩
    obtain ⟨a, ha⟩ := Option.isSome_iff_exists.1 ((List.find?_isSome (p := fun y : Msg => y.id == min o.id m)).2 ⟨z, hmem, beq_iff_eq.2 hz⟩)
    rw [ha, hall a (List.mem_of_find?_eq_some ha) (by simpa using List.find?_some ha)]
  · refine List.find?_eq_none.2 fun y hy hid => ?_
    have hid : y.id = max o.id m := by simpa using hid
    obtain ⟨a, ha, rfl⟩ := List.mem_map.1 hy
    have ham := hother a ha
    by_cases hao : a.id = o.id
    · rw [if_pos hao, hz] at hid
      omega
    · rw [if_neg hao] at hid
      omega

/-! A held join that leaves its core (R288). -/

theorem eraseIdx_filter {α : Type} [DecidableEq α] {a : α} : ∀ {l : List α} {i : Nat}, l[i]? = some a → (∀ b ∈ l.eraseIdx i, b ≠ a) →
    l.filter (fun b => b == a) = [a] ∧ l.filter (fun b => !(b == a)) = l.eraseIdx i
  | [], _, h, _ => nomatch h
  | b :: l, 0, h, hne => by
    obtain rfl : b = a := by simpa using h
    rw [List.eraseIdx_cons_zero] at hne ⊢
    refine ⟨?_, ?_⟩
    · rw [List.filter_cons_of_pos (by simp), List.filter_eq_nil_iff.2 fun c hc => by simpa using hne c hc]
    · rw [List.filter_cons_of_neg (by simp), List.filter_eq_self.2 fun c hc => by simpa using hne c hc]
  | b :: l, i + 1, h, hne => by
    rw [List.eraseIdx_cons_succ] at hne ⊢
    obtain ⟨h1, h2⟩ := eraseIdx_filter (l := l) (i := i) h fun c hc => hne c (List.mem_cons_of_mem _ hc)
    have hb := hne b List.mem_cons_self
    rw [List.filter_cons_of_neg (by simpa using hb), List.filter_cons_of_pos (by simpa using hb), h1, h2]
    exact ⟨rfl, rfl⟩

theorem heldJoin_leaves {core i : Nat} {h : Held} (hi : (s.core core).hold[i]? = some h) (hone : ∀ y ∈ (s.core core).hold.eraseIdx i, y ≠ h) :
    ∃ (t : State) (m : Msg), Leads (.heldJoinTimeout core i) s t ∧ (t.core core).hold = (s.core core).hold.eraseIdx i ∧
      t.msgs = s.msgs ++ [m] ∧ m.src = .core core ∧ m.dst = h.dst ∧ m.body = .join h.req ∧ m.loc = .source ∧ t.mem = s.mem ∧ t.md = s.md := by
  obtain ⟨hgo, hstay⟩ := eraseIdx_filter hi hone
  have hexec : heldJoinTimeout core i s = s.drainHeld core (fun y => y == h) := by
    rw [heldJoinTimeout, hi]
  have hfreed : s.Freed (s.drainHeld core (fun y => y == h)) := freed_drainHeld _ _ _
  have hhold : ((s.drainHeld core (fun y => y == h)).core core).hold = (s.core core).hold.eraseIdx i := (drainHeld_hold _ _ _).trans hstay
  have hdrain : s.drainHeld core (fun y => y == h) = sendHeld core (s.setCore ((s.core core).without fun y => y == h)) h := by
    rw [drainHeld_eq, hgo]
    rfl
  have hmsgs : (s.drainHeld core (fun y => y == h)).msgs = s.msgs ++ [{ h.msg core with
      id := (releaseTags h.req.tags (s.setCore ((s.core core).without fun y => y == h))).nextMsg }] := by
    rw [hdrain]
    exact congrArg (· ++ [_]) (releaseTags_msgs h.req.tags _)
  obtain ⟨cur, ctxs, cores, msgs, n, hfreed, -, -⟩ := hfreed
  exact ⟨_, _, congrArg Host.Outcome.next hexec, hhold, hmsgs, rfl, rfl, rfl, rfl, by rw [hfreed], by rw [hfreed]⟩

end
end Sys2Proof.Machine
end

section
/-! PROOFS. Messages that cannot be delivered, links and other packages (R118 to R120, R347, R372, R374). -/
namespace Sys2Proof.Machine
open Sys2Proof.Claims

section
variable {s t : State} {m bd cx cy die : Nat} {x y : Msg} {l : Loc} {code : FaultCode}

/-! Accesses that fail (R120, R347). -/

/-- An answer for whoever `w` is stands at its core. -/
def HasArrived (s t : State) (w : Who) (b : Body) : Prop :=
  ∀ core, s.coreOf w = some core → ∃ a ∈ t.msgs, a.body = b ∧ a.dst = .core core ∧ a.loc = .arrived

theorem respond_arrives (s : State) (src : Node) (w : Who) (asid : BitVec 12) (va : Word) (gen : BitVec 8) (b : Body)
    (snap : Option LineSnap) (key : Nat) : HasArrived s (s.respond src .arrived w asid va gen b snap key) w b := by
  intro core hcore
  rw [State.respond, hcore]
  exact ⟨_, List.mem_append_right _ (List.mem_singleton_self _), rfl, rfl, rfl⟩

theorem respond_keeps {a : Msg} (ha : a ∈ s.msgs) (src : Node) (loc : Loc) (w : Who) (asid : BitVec 12) (va : Word) (gen : BitVec 8)
    (b : Body) (snap : Option LineSnap) (key : Nat) : a ∈ (s.respond src loc w asid va gen b snap key).msgs := by
  rw [State.respond]
  split
  · exact ha
  · exact List.mem_append_left _ ha

/-- The acknowledgement of one contributor of an access that failed. -/
def failOne (x : Msg) (code : FaultCode) (s : State) (t : Tag) : State :=
  s.respond x.src .arrived t.who x.asid t.va x.gen (.ack t (some code)) none

theorem failOnes_arrive (tags : List Tag) (s u : State) (hu : ∀ w, u.coreOf w = s.coreOf w) {tag : Tag} (htag : tag ∈ tags) :
    HasArrived s (tags.foldl (failOne x code) u) tag.who (.ack tag (some code)) := by
  have hkeeps (ts : List Tag) (v : State) {a : Msg} (ha : a ∈ v.msgs) : a ∈ (ts.foldl (failOne x code) v).msgs := by
    induction ts generalizing v with
    | nil => exact ha
    | cons t ts ih => exact ih _ (respond_keeps ha _ _ _ _ _ _ _ _ _)
  induction tags generalizing u with
  | nil => exact absurd htag List.not_mem_nil
  | cons t tags ih =>
    rcases List.mem_cons.1 htag with rfl | htag
    · intro core hcore
      obtain ⟨a, ha, h1, h2, h3⟩ := respond_arrives u x.src tag.who x.asid tag.va x.gen (.ack tag (some code)) none 0 core ((hu _).trans hcore)
      exact ⟨a, hkeeps tags _ ha, h1, h2, h3⟩
    · refine ih (failOne x code u t) (fun w => ?_) htag
      exact (HomeOnly.coreOf (homeOnly_respond _ _ _ _ _ _ _ _ _ _) w).trans (hu w)

theorem failOnes_only (tags : List Tag) (u : State) : MsgStep u (tags.foldl (failOne x code) u) ∧ MsgsOnly u (tags.foldl (failOne x code) u) :=
  ⟨msgStep_foldl (fun _ _ => msgStep_respond _ _ _ _ _ _ _ _ _ _) _ u,
    msgsOnly_chain.foldl (fun _ _ => msgsOnly_respond _ _ _ _ _ _ _ _ _ _) _ u⟩

theorem failMsg_only : MsgStep (s.dropMsg x.id) (s.failMsg x code) ∧ MsgsOnly (s.dropMsg x.id) (s.failMsg x code) := by
  rw [State.failMsg]
  split
  case h_4 => exact failOnes_only _ _
  all_goals exact ⟨msgStep_respond _ _ _ _ _ _ _ _ _ _, msgsOnly_respond _ _ _ _ _ _ _ _ _ _⟩

/-- Whoever asked has the failure as its answer. -/
theorem failMsg_fails : FailedWith s (s.failMsg x code) x code := by
  obtain ⟨hstep, honly⟩ := failMsg_only (s := s) (x := x) (code := code)
  refine ⟨msg?_none_of_step hstep, by rw [honly]; rfl, by rw [honly]; rfl, fun w core hcore => ⟨fun line ty hb => ?_, fun cell ty arg k hb => ?_,
    fun tag htag hwho => ?_⟩⟩
  · have hfail : s.failMsg x code = (s.dropMsg x.id).respond x.src .arrived w x.asid x.va x.gen (.data w (some code)) none := by
      rw [State.failMsg]
      rcases hb with hb | hb <;> rw [hb]
    rw [hfail]
    exact respond_arrives (s.dropMsg x.id) _ _ _ _ _ _ _ _ core hcore
  · have hfail : s.failMsg x code = (s.dropMsg x.id).respond x.src .arrived w x.asid x.va x.gen (.result w (.lost code)) none := by
      rw [State.failMsg, hb]
    rw [hfail]
    exact respond_arrives (s.dropMsg x.id) _ _ _ _ _ _ _ _ core hcore
  · have hfail : s.failMsg x code = x.body.tags.foldl (failOne x code) (s.dropMsg x.id) := by
      rw [State.failMsg]
      cases hb : x.body with
      | load line ty w' => rw [hb] at htag; exact absurd htag List.not_mem_nil
      | exact line ty w' => rw [hb] at htag; exact absurd htag List.not_mem_nil
      | test cell ty arg k w' => rw [hb] at htag; exact absurd htag List.not_mem_nil
      | _ => rfl
    rw [hfail]
    subst hwho
    exact failOnes_arrive x.body.tags s (s.dropMsg x.id) (fun _ => rfl) htag core hcore

theorem loseAnswer_lost (h : Stands s m x l) : AnswerLost (s.loseAnswer x) x := by
  have hid := stands_id h
  refine ⟨{ x with body := x.body.lost, loc := .arrived, snap := none, behind := [], fails := 0 }, ?_, rfl, rfl, rfl,
    fun tag c hb => ?_, fun w c hb => ?_, fun w r hb => ?_⟩
  · have hm := h.1
    rw [← hid] at hm
    exact msg?_putMsg (x := x) rfl hm
  all_goals
    dsimp only
    rw [hb]
    rfl

theorem response_not_request {b : Body} (h : b.isResponse = true) : ¬ b.isRequest = true := by
  cases b <;> simp_all [Body.isResponse, Body.isRequest]

/-- A message for which no way is left. -/
theorem forward_fails (h : Stands s m x l) (hop : s.hop x bd cx cy = none) :
    (x.body.isRequest = true → FailedWith s (s.forward x bd cx cy) x .homeLost) ∧
    (x.body.isResponse = true → AnswerLost (s.forward x bd cx cy) x) := by
  rw [State.forward, hop]
  dsimp only
  refine ⟨fun hreq => ?_, fun hresp => ?_⟩
  · rw [if_pos hreq]
    exact failMsg_fails
  · rw [if_neg (response_not_request hresp), if_pos hresp]
    exact loseAnswer_lost h

/-! Gateways on the way (R113). -/

theorem routerForward_gate {g : Nat} (h : Stands s m x (.gate g)) (hreq : x.body.isRequest = true) (hread : x.body.isRead = false)
    (hstore : ∀ pa n data marks tag, x.body ≠ .store pa n data marks tag) (b : Bool) :
    routerForward m b s = s.putMsg (crossEdge x (g / 2) x.src.place.2.2 (decide (g % 2 = 1))) := by
  have hthrough : s.storeThrough x g = s := by
    rw [State.storeThrough]
    cases hb : x.body with
    | store pa n data marks tag => exact absurd hb (hstore _ _ _ _ _)
    | _ => rfl
  rw [routerForward, h.1]
  dsimp only
  rw [h.2]
  dsimp only
  rw [hreq, hread, if_pos (by rfl), hthrough, State.leaveGate, hreq]
  exact if_pos rfl

theorem routerForward_source (h : Stands s m x .source) (b : Bool) : routerForward m b s = s.enterMesh x := by
  rw [routerForward, h.1]
  dsimp only
  rw [h.2]

/-! Flits (R118 to R120). -/

theorem flitReceive_takes (h : Stands s m x l) (hl : (∃ k, l = .link k) ∨ ∃ q, l = .package q) : flitReceive m true s = s.flitArrives x := by
  rw [flitReceive, h.1]
  dsimp only
  rw [h.2]
  rcases hl with ⟨k, rfl⟩ | ⟨q, rfl⟩ <;> rfl

theorem flitReceive_bad {k : Nat} (h : Stands s m x (.link k)) : flitReceive m false s = s.putMsg { x with fails := x.fails + 1 } := by
  rw [flitReceive, h.1]
  dsimp only
  rw [h.2]
  rfl

/-- A message that has arrived over its links. -/
def offLinks (x : Msg) : Msg := { x with loc := .arrived, fails := 0, dateline := false, way := none, turned := false }

theorem flitArrives_link {p d k : Nat} (hdst : x.dst = .remote p d) (hloc : x.loc = .link k) : s.flitArrives x =
    if (match s.links[Fin.ofNat 12 k].farId with
      | some id => id.toNat
      | none => p) = p then s.putMsg (offLinks x)
    else s.putMsg { x with
      loc := .package (match s.links[Fin.ofNat 12 k].farId with
        | some id => id.toNat
        | none => p)
      fails := 0, way := some (k % 6 / 2, decide (k % 2 = 0)), turned := false
      dateline := (match s.ownId with
        | some own => (s.neighbour own.toNat (k % 6 / 2) (decide (k % 2 = 0))).2
        | none => false) && (dimsBetween (match s.links[Fin.ofNat 12 k].farId with
        | some id => id.toNat
        | none => p) p).head? == some (k % 6 / 2) } := by
  rw [State.flitArrives, offLinks]
  dsimp only
  rw [hdst, hloc] <;> rfl

theorem flitArrives_out {p d q k : Nat} {up : Bool} (hdst : x.dst = .remote p d) (hloc : x.loc = .package q)
    (hhead : s.heading x.way q p = some (k, up)) : s.flitArrives x =
    if (s.neighbour q k up).1 = p then s.putMsg (offLinks x) else s.putMsg (s.hopPackage x q p k up) := by
  rw [State.flitArrives, offLinks]
  dsimp only
  rw [hdst, hloc]
  dsimp only
  rw [hhead]

theorem flitArrives_in {q k : Nat} {up : Bool} {own : BitVec 12} (hdst : ∀ p d, x.dst ≠ .remote p d) (hloc : x.loc = .package q)
    (hown : s.ownId = some own) (hhead : s.heading x.way q own.toNat = some (k, up)) : s.flitArrives x =
    if (s.neighbour q k up).1 = own.toNat then s.comeIn x k up else s.putMsg (s.hopPackage x q own.toNat k up) := by
  rw [State.flitArrives]
  cases hd : x.dst with
  | remote p d => exact absurd hd (hdst p d)
  | _ =>
    rw [hloc]
    dsimp only
    rw [hown]
    dsimp only
    rw [hhead]

theorem comeIn_over {k j : Nat} {up : Bool} (h : s.linkOf (2 * k + (if up then 1 else 0)) x.pa = some j) :
    s.comeIn x k up = s.putMsg { x with loc := .router (linkDie j) 0 0, fails := 0, dateline := false, way := none, turned := false } := by
  rw [State.comeIn, State.linkInto, h]

theorem comeIn_turns {k : Nat} {up : Bool} (h : s.linkOf (2 * k + (if up then 1 else 0)) x.pa = none) :
    s.comeIn x k up = if x.turned then s.loseAnswer x
      else s.putMsg { x with fails := 0, dateline := false, way := some (k, !up), turned := true } := by
  rw [State.comeIn, State.linkInto, h]

theorem hopPackage_goes {q k dest : Nat} {up : Bool} (h : Stands s m x l) : GoesRound s (s.putMsg (s.hopPackage x q dest k up)) x
    (.package (s.neighbour q k up).1) (some (k, up))
    (stillCrossed k (s.neighbour q k up).1 dest (x.dateline || (s.neighbour q k up).2)) := by
  have hid := stands_id h
  exact (goesRound_of (y := s.hopPackage x q dest k up) h hid rfl (inContexts_chain.refl _)).1

/-! Links that fail (R120). -/

theorem comingIn_iff {k : Nat} : ComingIn s x k ↔ s.inLink x = some k := by
  constructor
  · rintro ⟨q, j, up, own, hloc, hdst, hown, hhead, hnext, hlink⟩
    rw [State.inLink]
    cases hd : x.dst with
    | remote p d => exact absurd hd (hdst p d)
    | _ =>
      rw [hloc, hown]
      dsimp only
      rw [hhead]
      exact (if_pos hnext).trans hlink
  · intro h
    rw [State.inLink] at h
    split at h
    case h_1 => nomatch h
    case h_2 q own hloc hown hnr =>
      split at h
      case h_1 j up hhead =>
        split at h
        case isTrue hnext => exact ⟨q, j, up, own, hloc, fun p d hd => hnr p d hd, hown, hhead, hnext, h⟩
        · nomatch h
      · nomatch h
    · nomatch h

theorem onLink_iff {k : Nat} : s.onLink k x = true ↔ x.loc = .link k ∨ ComingIn s x k := by
  rw [State.onLink, Bool.or_eq_true, beq_iff_eq, beq_iff_eq, comingIn_iff]

theorem linkDown_fails (l : Fin 12) (h : ∃ a ∈ s.msgs, (a.loc = .link l.val ∨ ComingIn s a l.val) ∧ 16 ≤ a.fails) :
    linkDown l s = s.linkFails l := by
  obtain ⟨a, ha, hon, hle⟩ := h
  rw [linkDown, if_pos]
  rw [List.any_eq_true]
  exact ⟨a, ha, by rw [onLink_iff.2 hon, decide_eq_true hle]; rfl⟩

theorem linkDown_stands (l : Fin 12) (h : ∀ a ∈ s.msgs, a.loc = .link l.val ∨ ComingIn s a l.val → a.fails < 16) : linkDown l s = s := by
  rw [linkDown, if_neg]
  rw [List.any_eq_true]
  rintro ⟨a, ha, hon⟩
  obtain ⟨h1, h2⟩ := Bool.and_eq_true_iff.1 hon
  exact Nat.not_le.2 (h a ha (onLink_iff.1 h1)) (of_decide_eq_true h2)

/-- What becomes of a message when a link fails. -/
def State.offLink (s : State) (l : Fin 12) (a : Msg) : Msg :=
  if a.loc == .link l.val then { a with loc := .router (linkDie l.val) 0 0, fails := 0 }
  else if s.inLink a == some l.val then { a with fails := 0 } else a

theorem linkFails_msgs (l : Fin 12) : (s.linkFails l).msgs = s.msgs.map (s.offLink l) := rfl

theorem offLink_loc (l : Fin 12) (a : Msg) : (s.offLink l a).loc ≠ .link l.val ∧ (s.offLink l a).id = a.id := by
  rw [State.offLink]
  split
  · exact ⟨nofun, rfl⟩
  case isFalse h =>
    have hloc : a.loc ≠ .link l.val := fun hl => h (beq_iff_eq.2 hl)
    split
    · exact ⟨hloc, rfl⟩
    · exact ⟨hloc, rfl⟩

theorem offLink_comingIn {l : Fin 12} {a : Msg} (h : ComingIn s a l.val) : s.offLink l a = { a with fails := 0 } := by
  have hloc : ¬ (a.loc == .link l.val) = true := by
    obtain ⟨q, k, up, own, hloc, -⟩ := h
    rw [hloc, beq_iff_eq]
    exact nofun
  rw [State.offLink, if_neg hloc, if_pos (beq_iff_eq.2 (comingIn_iff.1 h))]

/-! Links that come up (R372). -/

/-- The links of a list held down. -/
def heldDown (ks : List (Fin 12)) (v : Vector Link 12) : Vector Link 12 :=
  ks.foldl (fun (v : Vector Link 12) (k : Fin 12) =>
    let x : Link := { v[k] with up := false }
    v.set k x) v

theorem heldDown_get (ks : List (Fin 12)) (v : Vector Link 12) (k : Fin 12) :
    (heldDown ks v)[k] = if k ∈ ks then { v[k] with up := false } else v[k] := by
  induction ks generalizing v with
  | nil => rw [if_neg List.not_mem_nil]; rfl
  | cons j ks ih =>
    have hstep : heldDown (j :: ks) v = heldDown ks (v.set j { v[j] with up := false }) := rfl
    rw [hstep, ih]
    by_cases hjk : j = k
    · subst hjk
      have hget : (v.set j { v[j] with up := false })[j] = { v[j] with up := false } := Vector.getElem_set_self _
      rw [hget, if_pos List.mem_cons_self]
      split <;> rfl
    · have hget : (v.set j { v[j] with up := false })[k] = v[k] :=
        Vector.getElem_set_ne j.isLt k.isLt fun h => hjk (Fin.ext h)
      rw [hget]
      by_cases hk : k ∈ ks
      · rw [if_pos hk, if_pos (List.mem_cons_of_mem _ hk)]
      · rw [if_neg hk, if_neg]
        rintro hmem
        rcases List.mem_cons.1 hmem with rfl | hmem
        · exact hjk rfl
        · exact hk hmem

theorem linkTrained_eq (l : Fin 12) (far : BitVec 12) (h : s.bar1.pkgvalid = true) : linkTrained l far s = { s with
    links := (heldDown (s.duplicates l far) s.links).set l
      { up := decide (far ≠ s.bar1.pkgid) && (s.duplicates l far).isEmpty, farId := some far }
    mgmtReplies := s.mgmtReplies ++ [BitVec.ofNat 64 l.val, far.setWidth 64] } := by
  rw [linkTrained, h]
  rfl

theorem linkTrained_leaves (l : Fin 12) (far : BitVec 12) (h : s.bar1.pkgvalid = true) :
    ∃ t : State, Leads (.linkTrained l far) s t ∧
      t = { s with links := t.links, mgmtReplies := s.mgmtReplies ++ [BitVec.ofNat 64 l.val, far.setWidth 64] } ∧
      (t.links[l].up = true ↔ far ≠ s.bar1.pkgid ∧ s.duplicates l far = []) ∧ t.links[l].farId = some far ∧
      ∀ k : Fin 12, k ≠ l → t.links[k] = if k ∈ s.duplicates l far then { s.links[k] with up := false } else s.links[k] := by
  have hself (v : Vector Link 12) (x : Link) : (v.set l x)[l] = x := Vector.getElem_set_self _
  refine ⟨_, congrArg Host.Outcome.next (linkTrained_eq l far h), rfl, ?_, ?_, fun k hk => ?_⟩
  · dsimp only
    rw [hself, Bool.and_eq_true, decide_eq_true_eq, List.isEmpty_iff]
  · dsimp only
    rw [hself]
  · dsimp only
    rw [← heldDown_get]
    exact Vector.getElem_set_ne l.isLt k.isLt fun h => hk (Fin.ext h.symm)

end
end Sys2Proof.Machine
end

section
/-! PROOFS. The ways of messages settled (O41). -/
namespace Sys2Proof.Machine
open Sys2Proof.Claims

section
variable {s : State} {m bd cx cy die : Nat} {x : Msg}

/-- The mesh of a base die, and the joins that wait in it (R112 to R116). -/
theorem messages_cross_mesh :
  (∀ (m : Nat) (b : Bool) (s : State) (x : Msg), Stands s m x .source →
    s.lostAhead x = none →
    ∃ t : State, Leads (.routerForward m b) s t ∧ MovesTo s t x (.router x.src.place.1 x.src.place.2.1 x.src.place.2.2)) ∧
  (∀ (m bd cx cy : Nat) (s : State) (x : Msg), Stands s m x (.router bd cx cy) → x.dst.place.1 = bd →
    (∀ p d, x.dst ≠ .remote p d) → (∀ g, x.dst ≠ .gate g) →
    ∃ t : State, Leads (.routerForward m false) s t ∧ MovesTo s t x (nextRouter bd cx cy x.dst.place.2)) ∧
  (∀ (m bd cx cy : Nat) (s : State) (x : Msg), Stands s m x (.router bd cx cy) → (∀ j, x.body ≠ .join j) →
    Leads (.routerForward m true) s s) ∧
  (∀ (m bd cx cy : Nat) (s : State) (x : Msg) (j : JoinReq), Stands s m x (.router bd cx cy) → x.body = .join j →
    (s.buffered bd cx cy).length < 32 →
    (∀ o ∈ s.buffered bd cx cy, ∀ k, o.body = .join k → k.mayMerge j = true → o.bad ≠ x.bad) →
    ∃ t : State, Leads (.routerForward m true) s t ∧ MovesTo s t x (.buffer bd cx cy)) ∧
  (∀ (m bd cx cy : Nat) (s : State) (x o : Msg) (j k : JoinReq), Stands s m x (.router bd cx cy) → x.body = .join j →
    s.buffered bd cx cy = [o] → o.body = .join k → k.mayMerge j = true → o.bad = x.bad → o.id ≠ m →
    ∃ (t : State) (z : Msg), Leads (.routerForward m true) s t ∧ t.msg? (Nat.min o.id m) = some z ∧ t.msg? (Nat.max o.id m) = none ∧
      z.loc = .buffer bd cx cy ∧ z.body = .join (k.merge j) ∧ t.mem = s.mem) ∧
  (∀ (m bd cx cy : Nat) (s : State) (x : Msg), Stands s m x (.buffer bd cx cy) → x.dst.place.1 = bd →
    (∀ p d, x.dst ≠ .remote p d) → (∀ g, x.dst ≠ .gate g) →
    ∃ t : State, Leads (.combinedJoinDepart m) s t ∧ MovesTo s t x (nextRouter bd cx cy x.dst.place.2)) := by
  refine ⟨?_, ?_, ?_, ?_, ?_, ?_⟩
  · intro m b s x h hahead
    have hexec := routerForward_source h b
    rw [State.enterMesh, hahead] at hexec
    exact ⟨_, congrArg Host.Outcome.next hexec, movesTo_put h⟩
  · intro m bd cx cy s x h hbd hrem hgate
    have hid := stands_id h
    exact ⟨_, congrArg Host.Outcome.next (routerForward_router h),
      (hop_goes h (hop_home hbd hrem hgate) hid rfl).1⟩
  · intro m bd cx cy s x h hjoin
    refine congrArg Host.Outcome.next ((routerForward_busy h).trans ?_)
    cases hb : x.body with
    | join j => exact absurd hb (hjoin j)
    | _ => rfl
  · intro m bd cx cy s x j h hb hroom hno
    have hexec := routerForward_busy h
    rw [hb] at hexec
    have hnone : s.mergesWith x j bd cx cy = none := by
      refine List.find?_eq_none.2 fun o ho hc => ?_
      cases hk : o.body with
      | join k =>
        rw [hk] at hc
        obtain ⟨hmay, hbad⟩ := Bool.and_eq_true_iff.1 hc
        exact hno o ho k hk hmay (beq_iff_eq.1 hbad)
      | _ => rw [hk] at hc; nomatch hc
    exact ⟨_, congrArg Host.Outcome.next (hexec.trans (enterBuffer_alone hnone hroom)), movesTo_put h⟩
  · intro m bd cx cy s x o j k h hb hbuf hk hmay hbad hne
    have hid := stands_id h
    have hexec := routerForward_busy h
    rw [hb] at hexec
    have hsome : s.mergesWith x j bd cx cy = some o := by
      rw [State.mergesWith, hbuf]
      refine List.find?_cons_of_pos ?_
      rw [hk]
      dsimp only
      rw [hmay, hbad, beq_self_eq_true]
      rfl
    have ho : o ∈ s.buffered bd cx cy := hbuf ▸ List.mem_singleton_self o
    obtain ⟨hmem, hloc⟩ := List.mem_filter.1 ho
    obtain ⟨hlow, hhigh⟩ := merged_numbers (m := m) (z := mergedMsg o x (k.merge j)) hmem hne (by rw [← hid]; rfl)
    have hmerge := enterBuffer_merges hsome hk
    rw [hid] at hmerge
    refine ⟨_, mergedMsg o x (k.merge j), congrArg Host.Outcome.next (hexec.trans hmerge), hlow, hhigh, beq_iff_eq.1 hloc, rfl, rfl⟩
  · intro m bd cx cy s x h hbd hrem hgate
    have hid := stands_id h
    have hexec : combinedJoinDepart m s = s.forward x bd cx cy := by
      rw [combinedJoinDepart, h.1]
      dsimp only
      rw [h.2]
    exact ⟨_, congrArg Host.Outcome.next hexec, (hop_goes h (hop_home hbd hrem hgate) hid rfl).1⟩

theorem towards_of_ne {a b : Nat} (h : a ≠ b) : towards a b = if a < b then a + 1 else a - 1 := by
  rw [towards]
  by_cases hlt : a < b
  · rw [if_pos hlt, if_pos hlt]
  · rw [if_neg hlt, if_neg hlt, if_pos (by omega)]

/-- What a message at a router that makes for another base die does (R113). -/
theorem ring_hops (h : Stands s m x (.router bd cx cy)) (hfor : MakesFor s x die) (hne : bd ≠ die) {e : Bool}
    (he : ringEast s.deadEdges bd die = some e) :
    (cx ≠ (if e then 7 else 0) → ∃ t : State, Leads (.routerForward m false) s t ∧
      MovesTo s t x (.router bd (if cx < (if e then 7 else 0) then cx + 1 else cx - 1) cy)) ∧
    (cx = (if e then 7 else 0) → ∀ c, x.src = .core c → c / 192 = bd → x.body.isRequest = true →
      ∃ t : State, Leads (.routerForward m false) s t ∧ MovesTo s t x (.gate (gateAt bd e))) ∧
    (cx = (if e then 7 else 0) → (∀ c, x.src = .core c → x.body.isRequest = true → c / 192 ≠ bd) →
      ∃ t : State, Leads (.routerForward m false) s t ∧ ∃ l, s.hop x bd cx cy = some (crossEdge x bd cy e) ∧
        crossEdge x bd cy e = { x with loc := l, dateline := x.dateline || (if e then decide (bd = 3) else decide (bd = 0)) } ∧
        GoesRound s t x l x.way (x.dateline || (if e then decide (bd = 3) else decide (bd = 0)))) := by
  have hid := stands_id h
  have hexec : Leads (.routerForward m false) s (s.forward x bd cx cy) := congrArg Host.Outcome.next (routerForward_router h)
  have hhop := hop_ring (cx := cx) (cy := cy) hfor hne
  rw [he] at hhop
  dsimp only at hhop
  refine ⟨fun hx => ?_, fun hx c hc hcbd hreq => ?_, fun hx hno => ?_⟩
  · rw [if_pos hx] at hhop
    rw [towards_of_ne hx] at hhop
    exact ⟨_, hexec, (hop_goes h hhop hid rfl).1⟩
  · rw [if_neg (not_not.2 hx), if_pos] at hhop
    · exact ⟨_, hexec, (hop_goes h hhop hid rfl).1⟩
    · rw [hc]
      dsimp only
      rw [hreq, decide_eq_true hcbd]
      rfl
  · rw [if_neg (not_not.2 hx), if_neg] at hhop
    · obtain ⟨l, hcross, -, -⟩ := crossEdge_eq x bd cy e
      refine ⟨_, hexec, l, hhop, hcross, ?_⟩
      rw [hcross] at hhop
      exact hop_goes h hhop hid rfl
    · cases hs : x.src with
      | core c =>
        intro hc
        obtain ⟨h1, h2⟩ := Bool.and_eq_true_iff.1 hc
        exact hno c hs h1 (of_decide_eq_true h2)
      | _ => exact Bool.false_ne_true

/-- The ways across the edges of a die, and onto links (R113, R118). -/
theorem messages_leave_dies :
  (∀ (m bd cx cy die : Nat) (e : Bool) (s : State) (x : Msg), Stands s m x (.router bd cx cy) → MakesFor s x die →
    bd ≠ die → ringEast s.deadEdges bd die = some e → cx = (if e then 7 else 0) →
    (∀ c, x.src = .core c → x.body.isRequest = true → c / 192 ≠ bd) →
    (let next := if e then (bd + 1) % 4 else (bd + 3) % 4
     let crossed := x.dateline || (if e then decide (bd = 3) else decide (bd = 0))
     ∃ t : State, Leads (.routerForward m false) s t ∧
       ((∃ c, x.dst = .core c ∧ x.body.isResponse = true ∧ c / 192 = next) →
         GoesRound s t x (.gate (gateAt next (!e))) x.way crossed) ∧
       ((∀ c, x.dst = .core c → x.body.isResponse = true → c / 192 ≠ next) →
         GoesRound s t x (.router next (if e then 0 else 7) cy) x.way crossed))) ∧
  (∀ (m g : Nat) (s : State) (x : Msg), Stands s m x (.gate g) → x.body.isRequest = true → x.body.isRead = false →
    (∀ pa n data marks tag, x.body ≠ .store pa n data marks tag) →
    (let e := decide (g % 2 = 1)
     ∃ t : State, Leads (.routerForward m false) s t ∧ GoesRound s t x
       (.router (if e then (g / 2 + 1) % 4 else (g / 2 + 3) % 4) (if e then 0 else 7) x.src.place.2.2) x.way
       (x.dateline || (if e then decide (g / 2 = 3) else decide (g / 2 = 0))))) ∧
  (∀ (m bd cx cy p d l : Nat) (s : State) (x : Msg), Stands s m x (.router bd cx cy) → x.dst = .remote p d →
    s.linkFor p (x.body.key % 2 ^ 52) = some l → bd = linkDie l →
    ∃ t : State, Leads (.routerForward m false) s t ∧ GoesRound s t x (.link l) x.way false) ∧
  (∀ (m bd cx cy : Nat) (s : State) (x : Msg), Stands s m x (.router bd cx cy) →
    ((∃ p d, x.dst = .remote p d ∧ s.linkFor p (x.body.key % 2 ^ 52) = none) ∨
      ∃ die, MakesFor s x die ∧ bd ≠ die ∧ ringEast s.deadEdges bd die = none) →
    ∃ t : State, Leads (.routerForward m false) s t ∧ (x.body.isRequest = true → FailedWith s t x .homeLost) ∧
      (x.body.isResponse = true → AnswerLost t x)) ∧
  (∀ (m : Nat) (code : FaultCode) (s : State) (x : Msg), Stands s m x .source → s.lostAhead x = some code →
    ∃ t : State, Leads (.routerForward m false) s t ∧ FailedWith s t x code) := by
  refine ⟨?_, ?_, ?_, ?_, ?_⟩
  · intro m bd cx cy die e s x h hfor hne he hx hno next crossed
    obtain ⟨t, hl, l, -, hcross, hgoes⟩ := (ring_hops h hfor hne he).2.2 hx hno
    obtain ⟨l', hcross', hgate, hrouter⟩ := crossEdge_eq x bd cy e
    have hll : l = l' := congrArg Msg.loc (hcross.symm.trans hcross')
    refine ⟨t, hl, fun hc => ?_, fun hc => ?_⟩
    · rw [hll, hgate hc] at hgoes
      exact hgoes
    · rw [hll, hrouter hc] at hgoes
      exact hgoes
  · intro m g s x h hreq hread hstore e
    have hid := stands_id h
    obtain ⟨l, hcross, -, hrouter⟩ := crossEdge_eq x (g / 2) x.src.place.2.2 e
    rw [hrouter fun c _ hresp => absurd hreq (response_not_request hresp)] at hcross
    have hexec := routerForward_gate h hreq hread hstore false
    obtain ⟨y, hy⟩ : ∃ y, y = crossEdge x (g / 2) x.src.place.2.2 e := ⟨_, rfl⟩
    rw [← hy] at hcross hexec
    have hgoes := (goesRound_of h (by rw [hcross]; exact hid) (by rw [hcross]) (inContexts_chain.refl (s.putMsg y))).1
    have hway : y.way = x.way := by rw [hcross]
    have hdate : y.dateline = (x.dateline || if e = true then decide (g / 2 = 3) else decide (g / 2 = 0)) := by rw [hcross]
    rw [hway, hdate] at hgoes
    exact ⟨_, congrArg Host.Outcome.next hexec, hgoes⟩
  · intro m bd cx cy p d l s x h hdst hl hbd
    have hid := stands_id h
    exact ⟨_, congrArg Host.Outcome.next (routerForward_router h), hop_goes h (hop_link hdst hl hbd) hid rfl⟩
  · intro m bd cx cy s x h hno
    have hhop : s.hop x bd cx cy = none := by
      rcases hno with ⟨p, d, hdst, hl⟩ | ⟨die, hfor, hne, he⟩
      · exact hop_noLink hdst hl
      · rw [hop_ring hfor hne, he]
    exact ⟨_, congrArg Host.Outcome.next (routerForward_router h), forward_fails h hhop⟩
  · intro m code s x h hahead
    have hexec := routerForward_source h false
    rw [State.enterMesh, hahead] at hexec
    exact ⟨_, congrArg Host.Outcome.next hexec, failMsg_fails⟩

/-- A message taken off the links. -/
theorem offLinks_moves {l : Loc} (h : Stands s m x l) : MovesTo s (s.putMsg (offLinks x)) x .arrived := by
  have hid := stands_id h
  exact (goesRound_of (y := offLinks x) h hid rfl (inContexts_chain.refl _)).1.1

/-- The ways between packages (R118 to R120). -/
theorem messages_cross_links :
  (∀ (m l p d : Nat) (s : State) (x : Msg), Stands s m x (.link l) → x.dst = .remote p d → l < 12 →
    (s.links[Fin.ofNat 12 l].farId = none ∨ s.links[Fin.ofNat 12 l].farId = some (BitVec.ofNat 12 p)) → p < 4096 →
    ∃ t : State, Leads (.flitReceive m true) s t ∧ MovesTo s t x .arrived) ∧
  (∀ (m l p d : Nat) (f own : BitVec 12) (s : State) (x : Msg), Stands s m x (.link l) → x.dst = .remote p d → l < 12 →
    s.links[Fin.ofNat 12 l].farId = some f → f.toNat ≠ p → s.ownId = some own →
    (let k := l % 6 / 2
     let up := decide (l % 2 = 0)
     ∃ t : State, Leads (.flitReceive m true) s t ∧ GoesRound s t x (.package f.toNat) (some (k, up))
       (stillCrossed k f.toNat p (s.neighbour own.toNat k up).2))) ∧
  (∀ (m q p d k : Nat) (up : Bool) (s : State) (x : Msg), Stands s m x (.package q) → x.dst = .remote p d →
    s.heading x.way q p = some (k, up) →
    (let r := s.neighbour q k up
     ∃ t : State, Leads (.flitReceive m true) s t ∧ (r.1 = p → MovesTo s t x .arrived) ∧
       (r.1 ≠ p → GoesRound s t x (.package r.1) (some (k, up)) (stillCrossed k r.1 p (x.dateline || r.2))))) ∧
  (∀ (m q k : Nat) (up : Bool) (own : BitVec 12) (s : State) (x : Msg), Stands s m x (.package q) →
    (∀ p d, x.dst ≠ .remote p d) → s.ownId = some own → s.heading x.way q own.toNat = some (k, up) →
    (let r := s.neighbour q k up
     ∃ t : State, Leads (.flitReceive m true) s t ∧
       (r.1 ≠ own.toNat → GoesRound s t x (.package r.1) (some (k, up)) (stillCrossed k r.1 own.toNat (x.dateline || r.2))) ∧
       (∀ l, r.1 = own.toNat → s.linkOf (2 * k + (if up then 1 else 0)) x.pa = some l →
         GoesRound s t x (.router (linkDie l) 0 0) none false) ∧
       (r.1 = own.toNat → s.linkOf (2 * k + (if up then 1 else 0)) x.pa = none →
         (x.turned = false → GoesRound s t x (.package q) (some (k, !up)) false ∧ ∀ y, t.msg? m = some y → y.turned = true) ∧
         (x.turned = true → AnswerLost t x)))) := by
  refine ⟨?_, ?_, ?_, ?_⟩
  · intro m l p d s x h hdst _ hfar hp
    have hexec := (flitReceive_takes h (.inl ⟨l, rfl⟩)).trans (flitArrives_link hdst h.2)
    rw [if_pos] at hexec
    · exact ⟨_, congrArg Host.Outcome.next hexec, offLinks_moves h⟩
    · rcases hfar with hfar | hfar
      · rw [hfar]
      · rw [hfar]
        exact Nat.mod_eq_of_lt hp
  · intro m l p d f own s x h hdst _ hfar hne hown k up
    have hid := stands_id h
    have hexec := (flitReceive_takes h (.inl ⟨l, rfl⟩)).trans (flitArrives_link hdst h.2)
    rw [hfar, hown] at hexec
    dsimp only at hexec
    rw [if_neg hne] at hexec
    have hgoes := (goesRound_of (l := .package f.toNat) (y := { x with
      loc := .package f.toNat, fails := 0, way := some (k, up), turned := false
      dateline := (s.neighbour own.toNat k up).2 && (dimsBetween f.toNat p).head? == some k }) h hid rfl (inContexts_chain.refl _)).1
    have hcrossed : stillCrossed k f.toNat p (s.neighbour own.toNat k up).2 =
        ((s.neighbour own.toNat k up).2 && (dimsBetween f.toNat p).head? == some k) := Bool.and_comm _ _
    rw [hcrossed]
    exact ⟨_, congrArg Host.Outcome.next hexec, hgoes⟩
  · intro m q p d k up s x h hdst hhead r
    have hexec := (flitReceive_takes h (.inr ⟨q, rfl⟩)).trans (flitArrives_out hdst h.2 hhead)
    by_cases hr : (s.neighbour q k up).1 = p
    · rw [if_pos hr] at hexec
      exact ⟨_, congrArg Host.Outcome.next hexec, fun _ => offLinks_moves h, fun hne => absurd hr hne⟩
    · rw [if_neg hr] at hexec
      exact ⟨_, congrArg Host.Outcome.next hexec, fun heq => absurd heq hr, fun _ => hopPackage_goes h⟩
  · intro m q k up own s x h hdst hown hhead r
    have hid := stands_id h
    have hexec := (flitReceive_takes h (.inr ⟨q, rfl⟩)).trans (flitArrives_in hdst h.2 hown hhead)
    by_cases hr : (s.neighbour q k up).1 = own.toNat
    · rw [if_pos hr] at hexec
      cases hl : s.linkOf (2 * k + (if up then 1 else 0)) x.pa with
      | some j =>
        rw [comeIn_over hl] at hexec
        refine ⟨_, congrArg Host.Outcome.next hexec, fun hne => absurd hr hne, fun l _ hsome => ?_, fun _ hnone => (nomatch hnone)⟩
        cases hsome
        exact (goesRound_of (y := { x with loc := .router (linkDie j) 0 0, fails := 0, dateline := false, way := none, turned := false }) h hid rfl
          (inContexts_chain.refl _)).1
      | none =>
        rw [comeIn_turns hl] at hexec
        refine ⟨_, congrArg Host.Outcome.next hexec, fun hne => absurd hr hne, fun l _ hsome => (nomatch hsome), fun _ _ =>
          ⟨fun hturn => ?_, fun hturn => ?_⟩⟩
        · rw [hturn, if_neg Bool.false_ne_true]
          have hy : ({ x with fails := 0, dateline := false, way := some (k, !up), turned := true } : Msg) =
              { x with loc := .package q, fails := 0, dateline := false, way := some (k, !up), turned := true } := by rw [← h.2]
          obtain ⟨hgoes, hmsg⟩ := goesRound_of (l := .package q) (y := { x with fails := 0, dateline := false, way := some (k, !up), turned := true })
            h hid hy (inContexts_chain.refl _)
          refine ⟨hgoes, fun y hsome => ?_⟩
          rw [hmsg] at hsome
          cases hsome
          rfl
        · rw [hturn, if_pos rfl]
          exact loseAnswer_lost h
    · rw [if_neg hr] at hexec
      exact ⟨_, congrArg Host.Outcome.next hexec, fun _ => hopPackage_goes h, fun l heq => absurd heq hr, fun heq => absurd heq hr⟩

/-- Settles O41: a message's step is one hop of it, put in its new place, and where no way is left its access fails; the routes
are the rules of the ring and of the packages. -/
theorem messagesCrossMeshDiesAndLinks : Obligations.MessagesCrossMeshDiesAndLinks := by
  unfold Obligations.MessagesCrossMeshDiesAndLinks
  obtain ⟨h1, h2, h3, h4, h5, h6⟩ := messages_cross_mesh
  obtain ⟨k1, k2, k3, k4, k5⟩ := messages_leave_dies
  obtain ⟨l1, l2, l3, l4⟩ := messages_cross_links
  refine ⟨⟨h1, h2, h3, h4, h5, h6, fun core i h s hi hone => heldJoin_leaves hi hone⟩, ringRule, linkRule, neighbourRule, headingRule,
    fun m bd cx cy die e s x h hfor hne he hx => (ring_hops h hfor hne he).1 hx,
    fun m bd cx cy die c e s x h hfor hne he hx hc hcbd hreq => (ring_hops h hfor hne he).2.1 hx c hc hcbd hreq,
    k1, k2, k3, k4, k5, l1, l2, l3, l4, ?_, ?_, fun l s h => congrArg Host.Outcome.next (linkDown_stands l h),
    fun l far s h => linkTrained_leaves l far h⟩
  · intro m l s x h
    have hid := stands_id h
    have hy : ({ x with fails := x.fails + 1 } : Msg) = { x with loc := .link l, fails := x.fails + 1 } := by rw [← h.2]
    obtain ⟨hgoes, hmsg⟩ := goesRound_of (l := .link l) (y := { x with fails := x.fails + 1 }) h hid hy (inContexts_chain.refl _)
    exact ⟨_, congrArg Host.Outcome.next (flitReceive_bad h), hgoes.1, hmsg⟩
  · intro l s h
    refine ⟨_, congrArg Host.Outcome.next (linkDown_fails l h), ?_, fun k hk => ?_, fun a ha => ?_, fun a ha hin => ?_, ?_, rfl⟩
    · exact congrArg Link.up (Vector.getElem_set_self _)
    · exact Vector.getElem_set_ne l.isLt k.isLt fun heq => hk (Fin.ext heq.symm)
    · rw [linkFails_msgs] at ha
      obtain ⟨b, -, rfl⟩ := List.mem_map.1 ha
      exact (offLink_loc l b).1
    · rw [linkFails_msgs, ← offLink_comingIn hin]
      exact List.mem_map_of_mem ha
    · rw [linkFails_msgs, List.map_map]
      exact List.map_congr_left fun a _ => (offLink_loc l a).2

end
end Sys2Proof.Machine
end

section
/-! PROOFS. The last invalidation of a line that a poisoning waits for, where message numbers have come round (O42). -/
namespace Sys2Proof.Machine
open Sys2Proof.Claims

/-- The invalidation of line 0 at gateway 0. -/
def lastInval : Msg := { id := 0, src := .cxl, dst := .gate 0, body := .inval 0 0, loc := .gate 0 }

/-- Whoever a test of line 0 is held for: a SPAWNW record. -/
def spawner : Who := .watch { asid := 0, ctxid := 0 } 0 { asid := 0, launch := 0, words := Vector.replicate 8 0 } 0

/-- The test that is held. -/
def spawnTest : Watch :=
  { cell := 0, ty := 1, arg := 0, kind := .filled, who := spawner, va := 0, home := .cxl, asid := 0, gen := 0 }

/-- A poisoning of line 0 waits for that invalidation, and the number of the next message is the invalidation's. -/
def numberComesRound : State := { State.reset with msgs := [lastInval], poisoning := [0], watches := [spawnTest] }

/-- The answer to the test that the poisoning ends takes the number of the invalidation. -/
theorem numberComesRound_answers : ((gatewayInvalidation 0 numberComesRound).msg? 0).isSome = true := by decide

theorem numberComesRound_inval : Stands numberComesRound 0 lastInval (.gate 0) := ⟨by decide, by decide⟩

theorem numberComesRound_form : Sys2Proof.Safety.memoryOk numberComesRound := ⟨by decide, by decide, by decide, by decide⟩

/-- Refutes O42: its last clause says that no message has the number of an invalidation that has been taken, for every state,
and where the next message gets that very number, the poisoning that the invalidation ends sends an answer under it. -/
theorem not_gatewaysAnswerWhatTheirReplicasMay : ¬ Obligations.GatewaysAnswerWhatTheirReplicasMay := by
  unfold Obligations.GatewaysAnswerWhatTheirReplicasMay
  intro h
  obtain ⟨-, -, -, -, -, -, -, -, -, -, -, -, hinval⟩ := h
  obtain ⟨t, hl, hnone, -⟩ := (hinval 0 0 0 0 numberComesRound lastInval numberComesRound_inval rfl).2 List.mem_cons_self
    numberComesRound_form (fun _ hr => absurd hr List.not_mem_nil) (fun y hy hne => by
      rw [List.mem_singleton.1 hy] at hne
      exact absurd rfl hne)
  have ht : gatewayInvalidation 0 numberComesRound = t := Host.Outcome.next.inj hl
  have hsome := numberComesRound_answers
  rw [ht, hnone] at hsome
  nomatch hsome

end Sys2Proof.Machine
end

section
/-! PROOFS. Commands of a context, and the units of a copy counted (R126, R130, R134). -/
namespace Sys2Proof.Machine
open Sys2Proof.Claims

section
variable {s t : State} {k : Key} {seq n : Nat} {c : Context} {m : Cmd} {g : CopyCfg}

/-! A command of a context changed. -/

theorem hasCmd_seq (h : HasCmd s k seq c m) : m.seq = seq := by simpa using List.find?_some h.2

theorem hasCmd_modCmd (h : HasCmd s k seq c m) {f : Cmd → Cmd} (hf : ∀ x, (f x).seq = x.seq) :
    HasCmd (s.modCmd k seq f) k seq (c.withCmd seq f) (f m) :=
  ⟨ctx_modCtx h.1 rfl, cmd_withCmd h.2 hf⟩

theorem ctx_wakeWhere (s : State) (p : Context → Wait → Bool) (k : Key) :
    (s.wakeWhere p).ctx? k = (s.ctx? k).map (Context.wokenIf p s.nextSeq) := by
  have hkey (c : Context) : (c.wokenIf p s.nextSeq).key = c.key := by
    obtain ⟨st, h⟩ := wokenIf_eq p s.nextSeq c
    rw [h]
  rw [wakeWhere_map, State.ctx?, State.ctx?]
  dsimp only
  cases hbusy : s.busy
  · rw [Bool.false_and, Bool.false_and, if_neg Bool.false_ne_true, if_neg Bool.false_ne_true, find_map_key hkey]
  · rw [if_pos rfl, hkey, find_map_key hkey]
    split <;> rfl

theorem hasCmd_wakeWhere (h : HasCmd s k seq c m) (p : Context → Wait → Bool) :
    ∃ st, HasCmd (s.wakeWhere p) k seq { c with status := st } m := by
  obtain ⟨st, hst⟩ := wokenIf_eq p s.nextSeq c
  exact ⟨st, by rw [ctx_wakeWhere, h.1, Option.map_some, hst], h.2⟩

theorem hasCmd_completeCmd (h : HasCmd s k seq c m) (f : Option FaultInfo) :
    ∃ c', HasCmd (s.completeCmd k seq f) k seq c' { m with state := .done, fault := f.map fun x => { x with engine := m.id } } ∧
      c'.barriers = c.barriers := by
  have hdone := hasCmd_modCmd h (f := fun m => { m with state := .done, fault := f.map fun x => { x with engine := m.id } }) fun _ => rfl
  obtain ⟨st, hst⟩ := hasCmd_wakeWhere hdone (fun c w => match w with
    | .commands seqs => c.key == k && !c.cmds.any (fun m => seqs.contains m.seq && m.incomplete)
    | _ => false)
  exact ⟨_, hst, rfl⟩

/-! Only contexts and the stamp change. -/

theorem inContexts_modCmd (s : State) (k : Key) (seq : Nat) (f : Cmd → Cmd) : InContexts s (s.modCmd k seq f) := inContexts_modCtx s k _

theorem inContexts_wakeWhere (s : State) (p : Context → Wait → Bool) : InContexts s (s.wakeWhere p) := by
  rw [wakeWhere_map]
  exact rfl

theorem inContexts_completeCmd (s : State) (k : Key) (seq : Nat) (f : Option FaultInfo) : InContexts s (s.completeCmd k seq f) :=
  inContexts_chain.trans (inContexts_modCmd s k seq _) (inContexts_wakeWhere _ _)

theorem inContexts_countUnit (s : State) (k : Key) (off n : Nat) : InContexts s (s.countUnit k off n) := by
  rw [State.countUnit]
  split
  · exact inContexts_chain.trans (inContexts_modCtx s k _) (inContexts_wakeWhere _ _)
  · exact inContexts_modCtx s k _

theorem inContexts_countBytes (s : State) (k : Key) (seq n : Nat) : InContexts s (s.countBytes k seq n) := by
  rw [State.countBytes]
  split
  · exact rfl
  · split
    · exact rfl
    · dsimp only
      split
      · exact inContexts_chain.trans (inContexts_modCmd s k seq _) (inContexts_countUnit _ _ _ _)
      · exact inContexts_modCmd s k seq _

/-! Units counted. -/

/-- The bytes of a copy command. -/
def Cmd.total (m : Cmd) : Nat :=
  match m.kind.cfg with
  | some g => g.rows * g.len
  | none => 0

theorem countUnits_eq (h : HasCmd s k seq c m) (n : Nat) : s.countUnits k seq (n + 1) =
    match m.units with
    | [] => if m.bytes = m.total then s.completeCmd k seq none else s
    | x :: rest =>
      if x.left ≠ 0 then s
      else match x.fault with
        | some f =>
          if rest.all (fun y => decide (y.left = 0)) then
            ((s.countBytes k seq (m.total - m.bytes)).modCmd k seq (fun m => { m with units := [] })).completeCmd k seq (some f)
          else s
        | none =>
          ((s.countBytes k seq x.n).modCmd k seq (fun m => { m with units := rest, counted := m.counted + 1 })).countUnits k seq n := by
  rw [State.countUnits, h.1]
  dsimp only
  rw [h.2]
  rfl

theorem inContexts_countUnits (k : Key) (seq : Nat) : ∀ (n : Nat) (s : State), InContexts s (s.countUnits k seq n)
  | 0, _ => rfl
  | n + 1, s => by
    have hmod (u : State) (f : Cmd → Cmd) (j : Nat) : InContexts u ((u.countBytes k seq j).modCmd k seq f) :=
      inContexts_chain.trans (inContexts_countBytes u k seq j) (inContexts_modCmd _ k seq f)
    cases hc : s.ctx? k with
    | none =>
      rw [State.countUnits, hc]
      exact rfl
    | some c =>
      cases hm : c.cmd? seq with
      | none =>
        rw [State.countUnits, hc]
        dsimp only
        rw [hm]
        exact rfl
      | some m =>
        rw [countUnits_eq ⟨hc, hm⟩]
        split
        · split
          · exact inContexts_completeCmd s k seq none
          · exact rfl
        split
        · exact rfl
        split
        · split
          · exact inContexts_chain.trans (hmod _ _ _) (inContexts_completeCmd _ k seq _)
          · exact rfl
        · exact inContexts_chain.trans (hmod _ _ _) (inContexts_countUnits k seq n _)

/-- A barrier after `n` bytes have been counted into it (R126). -/
def Barrier.after (b : Barrier) (n : Nat) : Barrier :=
  if b.expected ≤ b.counted + n then { b with counted := b.counted + n - b.expected, phase := !b.phase, flips := b.flips + 1 }
  else { b with counted := b.counted + n }

/-- What a count of a command makes of the barriers of its context. -/
def BarrierCounted (c c' : Context) (m : Cmd) (n : Nat) : Prop :=
  ∀ off b, m.kind.barrier = some off → c.barriers.find? (fun y => y.off == off) = some b →
    c'.barriers.find? (fun y => y.off == off) = some (b.after n)

theorem barrier_counted {bs : List Barrier} {b : Barrier} {off : Nat} (h : bs.find? (fun y => y.off == off) = some b) (n : Nat) :
    (bs.map (fun b => if b.off ≠ off then b
      else if b.expected ≤ b.counted + n then { b with counted := b.counted + n - b.expected, phase := !b.phase, flips := b.flips + 1 }
      else { b with counted := b.counted + n })).find? (fun y => y.off == off) = some (b.after n) := by
  have hoff : b.off = off := by simpa using List.find?_some h
  rw [List.find?_map]
  have hkey : ((fun y : Barrier => y.off == off) ∘ fun b => if b.off ≠ off then b
      else if b.expected ≤ b.counted + n then { b with counted := b.counted + n - b.expected, phase := !b.phase, flips := b.flips + 1 }
      else { b with counted := b.counted + n }) = fun y => y.off == off := by
    funext y
    rw [Function.comp_apply]
    split
    · rfl
    · split <;> rfl
  rw [hkey, h, Option.map_some, if_neg (not_not.2 hoff)]
  rfl

theorem hasCmd_countUnit (h : HasCmd s k seq c m) (off n : Nat) : ∃ c', HasCmd (s.countUnit k off n) k seq c' m ∧
    ∀ b, c.barriers.find? (fun y => y.off == off) = some b → c'.barriers.find? (fun y => y.off == off) = some (b.after n) := by
  have hmod : ∃ c', HasCmd (s.modCtx k (fun c => { c with barriers := c.barriers.map (fun b => if b.off ≠ off then b
      else if b.expected ≤ b.counted + n then { b with counted := b.counted + n - b.expected, phase := !b.phase, flips := b.flips + 1 }
      else { b with counted := b.counted + n }) })) k seq c' m ∧
      ∀ b, c.barriers.find? (fun y => y.off == off) = some b → c'.barriers.find? (fun y => y.off == off) = some (b.after n) :=
    ⟨_, ⟨ctx_modCtx h.1 rfl, h.2⟩, fun b hb => barrier_counted hb n⟩
  obtain ⟨c', hc', hb⟩ := hmod
  rw [State.countUnit]
  split
  · obtain ⟨st, hst⟩ := hasCmd_wakeWhere hc' (fun c w => c.key == k && w == .barrier off)
    exact ⟨_, hst, hb⟩
  · exact ⟨_, hc', hb⟩

theorem hasCmd_countBytes (h : HasCmd s k seq c m) (n : Nat) : ∃ (c' : Context) (ph : Option Nat),
    HasCmd (s.countBytes k seq n) k seq c' { m with bytes := m.bytes + n, phase := ph } ∧ BarrierCounted c c' m n := by
  have hmod := hasCmd_modCmd h (f := fun m => { m with bytes := m.bytes + n, phase := match m.kind.barrier with
    | some off => c.phaseOf off
    | none => none }) fun _ => rfl
  rw [State.countBytes, h.1]
  dsimp only
  rw [h.2]
  dsimp only
  cases hb : m.kind.barrier with
  | none => exact ⟨_, _, hmod, fun off b hoff => by rw [hb] at hoff; nomatch hoff⟩
  | some off =>
    obtain ⟨c', hc', hbar⟩ := hasCmd_countUnit hmod off n
    refine ⟨c', _, hc', fun off' b hoff hfind => ?_⟩
    rw [hb] at hoff
    cases hoff
    exact hbar b hfind

/-- The last of the units that have been issued, performed without a fault, is counted. -/
theorem unit_counted (h : HasCmd s k seq c m) {z : IssuedUnit} (hu : m.units = [z]) (hleft : z.left = 0) (hfault : z.fault = none)
    (hg : m.kind.cfg = some g) (n : Nat) : ∃ (c' : Context) (m' : Cmd), HasCmd (s.countUnits k seq (n + 2)) k seq c' m' ∧
      m'.units = [] ∧ m'.counted = m.counted + 1 ∧ m'.bytes = m.bytes + z.n ∧ (m.fault = none → m'.fault = none) ∧
      m'.state = (if m.bytes + z.n = g.rows * g.len then .done else m.state) ∧ BarrierCounted c c' m z.n := by
  rw [countUnits_eq h, hu]
  dsimp only
  rw [if_neg (not_not.2 hleft), hfault]
  dsimp only
  obtain ⟨c1, ph, h1, hbar⟩ := hasCmd_countBytes h z.n
  have h2 := hasCmd_modCmd h1 (f := fun m => { m with units := [], counted := m.counted + 1 }) fun _ => rfl
  rw [countUnits_eq h2]
  dsimp only
  have htotal : (Cmd.total { m with bytes := m.bytes + z.n, phase := ph, units := [], counted := m.counted + 1 }) = g.rows * g.len := by
    rw [Cmd.total]
    dsimp only
    rw [hg]
  rw [htotal]
  by_cases hlast : m.bytes + z.n = g.rows * g.len
  · rw [if_pos hlast, if_pos hlast]
    obtain ⟨c3, h3, hb3⟩ := hasCmd_completeCmd h2 none
    refine ⟨c3, _, h3, rfl, rfl, rfl, fun _ => rfl, rfl, fun off b hoff hfind => ?_⟩
    rw [hb3]
    exact hbar off b hoff hfind
  · rw [if_neg hlast, if_neg hlast]
    exact ⟨_, _, h2, rfl, rfl, rfl, id, rfl, hbar⟩

/-- The last of the units that have been issued has faulted: its command completes with the fault. -/
theorem unit_faulted (h : HasCmd s k seq c m) {z : IssuedUnit} {f : FaultInfo} (hu : m.units = [z]) (hleft : z.left = 0)
    (hfault : z.fault = some f) (hg : m.kind.cfg = some g) (hle : m.bytes ≤ g.rows * g.len) (n : Nat) :
    ∃ (c' : Context) (m' : Cmd), HasCmd (s.countUnits k seq (n + 1)) k seq c' m' ∧ m'.state = .done ∧
      m'.fault = some { f with engine := m.id } ∧ m'.units = [] ∧ m'.bytes = g.rows * g.len := by
  have htotal : m.total = g.rows * g.len := by rw [Cmd.total, hg]
  rw [countUnits_eq h, hu]
  dsimp only
  rw [if_neg (not_not.2 hleft), hfault]
  dsimp only
  rw [if_pos (by rfl)]
  obtain ⟨c1, ph, h1, -⟩ := hasCmd_countBytes h (m.total - m.bytes)
  have h2 := hasCmd_modCmd h1 (f := fun m => { m with units := [] }) fun _ => rfl
  obtain ⟨c3, h3, -⟩ := hasCmd_completeCmd h2 (some f)
  refine ⟨c3, _, h3, rfl, rfl, rfl, ?_⟩
  dsimp only
  rw [htotal]
  omega

/-- Behind a unit that is not performed nothing is counted. -/
theorem units_wait (h : HasCmd s k seq c m) {z : IssuedUnit} {rest : List IssuedUnit} (hu : m.units = z :: rest) (hleft : z.left ≠ 0) (n : Nat) :
    s.countUnits k seq (n + 1) = s := by
  rw [countUnits_eq h, hu]
  exact if_pos hleft

theorem units_none (h : HasCmd s k seq c m) (hu : m.units = []) (hlt : m.bytes ≠ m.total) (n : Nat) : s.countUnits k seq (n + 1) = s := by
  rw [countUnits_eq h, hu]
  exact if_neg hlt

end
end Sys2Proof.Machine
end

section
/-! PROOFS. The next unit of a copy issued (R130, R131, R134). -/
namespace Sys2Proof.Machine
open Sys2Proof.Claims

section
variable {s s1 s2 t : State} {k : Key} {seq u v marks : Nat} {c : Context} {m : Cmd} {g : CopyCfg} {x y : CopyUnit} {p : Place}

/-- A command with one more unit issued. -/
def Cmd.issued (u : Nat) (x : CopyUnit) (left : Nat) (f : Option FaultInfo) (m : Cmd) : Cmd :=
  { m with units := m.units ++ [{ u := u, n := x.n, left := left, fault := f }], row := some (x.row, x.src - x.off) }

/-- What an issued unit leaves, by what performing it comes to. -/
def State.unitIssued (s : State) (c : Context) (m : Cmd) (u : Nat) (x : CopyUnit) (r : UnitResult × State) : State :=
  match r.1 with
  | .wait => s
  | .sent left w => w.modCmd c.key m.seq (Cmd.issued u x left none)
  | .fault f => if f.code == .translation then r.2.stallCmd c m f else r.2.modCmd c.key m.seq (Cmd.issued u x 0 (some f))

theorem issueUnit_eq (s : State) (c : Context) (m : Cmd) (g : CopyCfg) (u : Nat) (x : CopyUnit) : s.issueUnit c m g u x =
    if s.unitWaits c m x || m.units.any (fun y => y.fault.isSome) then s
    else match s.runM (match s.markedRow c m x with
        | some f => pure (.fault f)
        | none => performUnit c m g u x) with
      | none => s
      | some r => s.unitIssued c m u x r := by
  rw [State.issueUnit]
  split
  · rfl
  · cases State.runM s (match s.markedRow c m x with
        | some f => pure (.fault f)
        | none => performUnit c m g u x) with
    | none => rfl
    | some r =>
      obtain ⟨r, w⟩ := r
      rfl

/-- A running copy at its next unit. -/
structure AtUnit (s : State) (k : Key) (seq u : Nat) (c : Context) (m : Cmd) (g : CopyCfg) (x : CopyUnit) : Prop where
  has : HasCmd s k seq c m
  copy : m.kind.isCopy = true
  started : m.state = .started
  engaged : c.engaged = true
  next : u = m.nextUnit
  cfg : m.kind.cfg = some g
  unit : ∃ y, s.copyUnit c m.kind u = some y ∧ x = m.fixRow y
  free : s.unitWaits c m x = false
  unfaulted : ∀ z ∈ m.units, z.fault = none

theorem copyUnitPerformed_issues (h : AtUnit s k seq u c m g x) {r : UnitResult × State}
    (hr : s.runM (match s.markedRow c m x with
        | some f => pure (.fault f)
        | none => performUnit c m g u x) = some r) :
    copyUnitPerformed k seq u s = (s.unitIssued c m u x r).countUnits k seq (m.units.length + 2) := by
  obtain ⟨hhas, hcopy, hstart, heng, hnext, hcfg, ⟨y, hy, rfl⟩, hfree, hunf⟩ := h
  have hslot : c.slot.isNone = false := by
    rw [Context.engaged, Bool.and_eq_true, Bool.and_eq_true] at heng
    obtain ⟨⟨h1, -⟩, -⟩ := heng
    rw [← Option.not_isSome, h1]
    rfl
  have hany : m.units.any (fun y => y.fault.isSome) = false := by
    rw [List.any_eq_false]
    intro z hz
    rw [hunf z hz]
    exact Bool.false_ne_true
  rw [copyUnitPerformed, hhas.1]
  dsimp only
  rw [hhas.2]
  dsimp only
  rw [hcopy, hslot, hstart, if_neg (by decide), heng, hcfg, hy]
  dsimp only
  rw [if_pos (by rw [decide_eq_true hnext]; rfl), issueUnit_eq, hfree, hany, if_neg (by decide), hr]

/-- A unit that is not of a migration copy reads its source first. -/
theorem performUnit_plain (hmig : ∀ a b p q, m.kind ≠ .ccopy a b p q true) : performUnit c m g u x = (do
    match (← readUnit c x.src x.n) with
    | .wait => return .wait
    | .fault f => return .fault f
    | .ok v marks =>
      if windowOf x.dst != windowOf (x.dst + x.dn - 1) then return .fault (faultAtVa .address x.dst)
      match (← copyPlace c .write (decide (g.mode ≠ 0)) (g.refuse c.sys) x.dn x.dst) with
      | .error f => return .fault f
      | .ok p => return (← get).writeUnit c m g u x p v marks) := by
  have hno : ¬ (match m.kind with
      | .ccopy _ _ _ _ b => b
      | _ => false) = true := by
    cases hk : m.kind with
    | ccopy a b p q mig =>
      cases mig
      · exact Bool.false_ne_true
      · exact absurd hk (hmig a b p q)
    | _ => exact Bool.false_ne_true
  rw [performUnit]
  exact if_neg hno

theorem performUnit_ready (hmig : ∀ a b p q, m.kind ≠ .ccopy a b p q true) (h : UnitReady s s1 s2 c g x v marks p)
    (hwin : windowOf x.dst = windowOf (x.dst + x.dn - 1)) :
    Gives (performUnit c m g u x) s (s2.writeUnit c m g u x p v marks) s2 := by
  obtain ⟨hread, hplace⟩ := h
  rw [performUnit_plain hmig]
  refine gives_bind hread ?_
  dsimp only
  rw [if_neg (by rw [hwin, bne_self_eq_false]; exact Bool.false_ne_true)]
  exact gives_bind hplace (gives_bind (get_gives s2) (gives_pure _ _))

theorem performUnit_faults (hmig : ∀ a b p q, m.kind ≠ .ccopy a b p q true) {f : FaultInfo}
    (hwin : windowOf x.dst = windowOf (x.dst + x.dn - 1))
    (h : Gives (readUnit c x.src x.n) s (.fault f) s1 ∨ ∃ s0 v marks, Gives (readUnit c x.src x.n) s (.ok v marks) s0 ∧
      Gives (copyPlace c .write (decide (g.mode ≠ 0)) (g.refuse c.sys) x.dn x.dst) s0 (.error f) s1) :
    Gives (performUnit c m g u x) s (.fault f) s1 := by
  rw [performUnit_plain hmig]
  rcases h with hread | ⟨s0, v, marks, hread, hplace⟩
  · exact gives_bind hread (gives_pure _ _)
  · refine gives_bind hread ?_
    dsimp only
    rw [if_neg (by rw [hwin, bne_self_eq_false]; exact Bool.false_ne_true)]
    exact gives_bind hplace (gives_pure _ _)

theorem runM_of_gives {α : Type} {a : M α} {r : α} (h : Gives a s r t) : s.runM a = some (r, t) := by
  rw [State.runM, h]

theorem atUnit_issuing (h : Issuing s k seq u c m g x) : AtUnit s k seq u c m g x ∧ m.units = [] ∧ s.markedRow c m x = none ∧
    (∀ a b p q, m.kind ≠ .ccopy a b p q true) ∧ windowOf x.dst = windowOf (x.dst + x.dn - 1) := by
  obtain ⟨hhas, hcopy, hmig, hstart, heng, hunits, hu, hcfg, hunit, hrow, hwin⟩ := h
  exact ⟨⟨hhas, hcopy, hstart, heng, by rw [hu, Cmd.nextUnit, hunits]; rfl, hcfg, hunit, by rw [State.unitWaits, hunits]; rfl,
    fun z hz => by rw [hunits] at hz; exact absurd hz List.not_mem_nil⟩, hunits, hrow, hmig, hwin⟩

/-- A copy issues its next unit: what performing the unit comes to, counted. -/
theorem issuing_performs (h : Issuing s k seq u c m g x) (hr : UnitReady s s1 s2 c g x v marks p) :
    copyUnitPerformed k seq u s = (s.unitIssued c m u x (s2.writeUnit c m g u x p v marks, s2)).countUnits k seq 2 := by
  obtain ⟨hat, hunits, hrow, hmig, hwin⟩ := atUnit_issuing h
  have hrun := runM_of_gives (performUnit_ready (u := u) hmig hr hwin)
  rw [copyUnitPerformed_issues hat (r := (s2.writeUnit c m g u x p v marks, s2)) (by rw [hrow]; exact hrun), hunits]
  rfl

/-- A unit performed at once is counted. -/
theorem atUnit_sent {w : State} {c1 : Context} (hat : AtUnit s k seq u c m g x) (hunits : m.units = [])
    (hexec : copyUnitPerformed k seq u s = (s.unitIssued c m u x (.sent 0 w, s2)).countUnits k seq 2)
    (hc : w.ctx? k = some c1) (hm : c1.cmd? seq = some m) :
    ∃ (t : State) (c' : Context) (m' : Cmd), Leads (.copyUnitPerformed k seq u) s t ∧ InContexts w t ∧ HasCmd t k seq c' m' ∧
      m'.units = [] ∧ m'.counted = m.counted + 1 ∧ m'.bytes = m.bytes + x.n ∧ (m.fault = none → m'.fault = none) ∧
      m'.state = (if m.bytes + x.n = g.rows * g.len then .done else m.state) ∧ BarrierCounted c1 c' m x.n := by
  have hissued : s.unitIssued c m u x (.sent 0 w, s2) = w.modCmd k seq (Cmd.issued u x 0 none) := by
    rw [State.unitIssued]
    dsimp only
    rw [ctx_key hat.has.1, hasCmd_seq hat.has]
  rw [hissued] at hexec
  have hadd := hasCmd_modCmd (s := w) ⟨hc, hm⟩ (f := Cmd.issued u x 0 none) fun _ => rfl
  obtain ⟨c', m', hhas, h1, h2, h3, h4, h5, h6⟩ := unit_counted hadd (z := { u := u, n := x.n, left := 0 }) (g := g)
    (by rw [Cmd.issued, hunits]; rfl) rfl rfl hat.cfg 0
  exact ⟨_, c', m', congrArg Host.Outcome.next hexec,
    inContexts_chain.trans (inContexts_modCmd w k seq _) (inContexts_countUnits k seq 2 _), hhas, h1, h2, h3, h4, h5, h6⟩

theorem issuing_sent {w : State} {c1 : Context} (h : Issuing s k seq u c m g x) (hr : UnitReady s s1 s2 c g x v marks p)
    (hw : s2.writeUnit c m g u x p v marks = .sent 0 w) (hc : w.ctx? k = some c1) (hm : c1.cmd? seq = some m) :
    ∃ (t : State) (c' : Context) (m' : Cmd), Leads (.copyUnitPerformed k seq u) s t ∧ InContexts w t ∧ HasCmd t k seq c' m' ∧
      m'.units = [] ∧ m'.counted = m.counted + 1 ∧ m'.bytes = m.bytes + x.n ∧ (m.fault = none → m'.fault = none) ∧
      m'.state = (if m.bytes + x.n = g.rows * g.len then .done else m.state) ∧ BarrierCounted c1 c' m x.n := by
  obtain ⟨hat, hunits, -, -, -⟩ := atUnit_issuing h
  have hexec := issuing_performs h hr
  rw [hw] at hexec
  exact atUnit_sent hat hunits hexec hc hm

/-- A unit that has faulted completes its command (R134). -/
theorem issuing_faulted {w : State} {c1 : Context} {f : FaultInfo} (hat : AtUnit s k seq u c m g x) (hunits : m.units = [])
    (hexec : copyUnitPerformed k seq u s = (s.unitIssued c m u x (.fault f, w)).countUnits k seq 2) (hcode : f.code ≠ .translation)
    (hc : w.ctx? k = some c1) (hm : c1.cmd? seq = some m) (hlt : m.bytes < g.rows * g.len) :
    ∃ t, Leads (.copyUnitPerformed k seq u) s t ∧ InContexts w t ∧ CompletedFaulted t k seq m g f := by
  have hkey := ctx_key hat.has.1
  have hseq := hasCmd_seq hat.has
  have hissued : s.unitIssued c m u x (.fault f, w) = w.modCmd k seq (Cmd.issued u x 0 (some f)) := by
    rw [State.unitIssued]
    dsimp only
    rw [if_neg (by rw [beq_iff_eq]; exact hcode), hkey, hseq]
  rw [hissued] at hexec
  have hadd := hasCmd_modCmd (s := w) ⟨hc, hm⟩ (f := Cmd.issued u x 0 (some f)) fun _ => rfl
  obtain ⟨c', m', hhas, h1, h2, h3, h4⟩ := unit_faulted hadd (z := { u := u, n := x.n, left := 0, fault := some f }) (g := g)
    (by rw [Cmd.issued, hunits]; rfl) rfl rfl hat.cfg (Nat.le_of_lt hlt) 1
  exact ⟨_, congrArg Host.Outcome.next hexec,
    inContexts_chain.trans (inContexts_modCmd w k seq _) (inContexts_countUnits k seq 2 _), c', m', hhas, h1, h2, h3, h4⟩

/-! Units into a page (R128 to R130). -/

theorem sends_msgs {α : Type} (f : α → Msg) (l : List α) (s : State) : ∃ ms, (l.foldl (fun s a => s.send (f a)) s) =
    { s with msgs := s.msgs ++ ms, nextMsg := s.nextMsg + l.length } ∧ ms.map Msg.body = l.map fun a => (f a).body := by
  induction l generalizing s with
  | nil => exact ⟨[], by rw [List.append_nil]; rfl, rfl⟩
  | cons a l ih =>
    obtain ⟨ms, hms, hbody⟩ := ih (s.send (f a))
    refine ⟨{ f a with id := s.nextMsg } :: ms, ?_, ?_⟩
    · rw [List.foldl_cons, hms]
      simp only [State.send, List.append_assoc, List.singleton_append, List.length_cons, Nat.add_assoc, Nat.add_comm 1]
    · rw [List.map_cons, List.map_cons, hbody]

/-- The message of a unit to the home of a page. -/
def unitMsg (c : Context) (l : Leaf) (va : Nat) (b : Body) : Msg :=
  { id := 0, src := .core c.core, dst := homeNode (l.key va), body := b, cnt := l.cnt, asid := c.asid
    va := BitVec.ofNat 64 va, gen := l.gen, bad := l.badPage }

/-- What a unit into a page sends. -/
theorem writeUnit_page {l : Leaf} {es : List (Nat × Int × Bool)} (hj : l.jblock = false) (hes : UnitElements g x l v marks es) :
    ∃ (w : State) (ms : List Msg), s.writeUnit c m g u x (.page l) v marks = .sent (unitBodies c m g u x l v marks es).length w ∧
      w = { s with msgs := s.msgs ++ ms, nextMsg := w.nextMsg } ∧ ms.map Msg.body = unitBodies c m g u x l v marks es ∧
      (unitBodies c m g u x l v marks es).length ≠ 0 := by
  have hone (b : Body) : ∃ ms, s.sendUnit c l x.dst b = { s with msgs := s.msgs ++ ms, nextMsg := s.nextMsg + 1 } ∧ ms.map Msg.body = [b] :=
    ⟨[{ unitMsg c l x.dst b with id := s.nextMsg }], rfl, rfl⟩
  have hrule : s.writeUnit c m g u x (.page l) v marks = match g.mode with
      | 0 => .sent 1 (s.sendUnit c l x.dst (.store (l.key x.dst) x.n (BitVec.ofNat 1024 v) (BitVec.ofNat 128 marks)
          { who := .copy c.key m.seq u, va := BitVec.ofNat 64 x.dst }))
      | 1 => .sent 1 (s.sendUnit c l x.dst (.fill (l.line x.dst) (BitVec.ofNat 1024 v) (anyMark marks)
          { who := .copy c.key m.seq u, va := BitVec.ofNat 64 x.dst }))
      | _ =>
        if x.dst % g.cellBytes ≠ 0 then .fault (faultAtVa .address x.dst)
        else match g.elements l x.dst x.n v marks with
          | .error f => .fault f
          | .ok es => .sent es.length (es.foldl (fun s e => s.send (unitMsg c l e.1 (.join
              { cell := l.key e.1, width := 8 * g.cellBytes, ty := l.ty, arg := l.arg, val := e.2.1, mark := e.2.2
                tags := [{ who := .copy c.key m.seq u, va := BitVec.ofNat 64 e.1 }] }))) s) := by
    rw [State.writeUnit]
    dsimp only
    exact if_neg (by rw [hj]; exact Bool.false_ne_true)
  rw [hrule, unitBodies]
  match hmode : g.mode with
  | 0 =>
    obtain ⟨ms, hms, hbody⟩ := hone (.store (l.key x.dst) x.n (BitVec.ofNat 1024 v) (BitVec.ofNat 128 marks)
      { who := .copy c.key m.seq u, va := BitVec.ofNat 64 x.dst })
    exact ⟨_, ms, rfl, by rw [hms], hbody, Nat.one_ne_zero⟩
  | 1 =>
    obtain ⟨ms, hms, hbody⟩ := hone (.fill (l.line x.dst) (BitVec.ofNat 1024 v) (anyMark marks)
      { who := .copy c.key m.seq u, va := BitVec.ofNat 64 x.dst })
    exact ⟨_, ms, rfl, by rw [hms], hbody, Nat.one_ne_zero⟩
  | n + 2 =>
    obtain ⟨hal, helems, hne⟩ := hes (by rw [hmode]; exact Nat.le_add_left 2 n)
    obtain ⟨ms, hms, hbody⟩ := sends_msgs (fun e : Nat × Int × Bool => unitMsg c l e.1 (.join
      { cell := l.key e.1, width := 8 * g.cellBytes, ty := l.ty, arg := l.arg, val := e.2.1, mark := e.2.2
        tags := [{ who := .copy c.key m.seq u, va := BitVec.ofNat 64 e.1 }] })) es s
    dsimp only
    rw [if_neg (not_not.2 hal), helems, if_neg (by omega), if_neg (by omega)]
    dsimp only
    rw [List.length_map, hms]
    refine ⟨_, ms, rfl, rfl, hbody, ?_⟩
    exact fun h => hne (List.length_eq_zero_iff.1 h)

end
end Sys2Proof.Machine
end

section
/-! PROOFS. Units of a copy performed at once, and units sent (R126, R128 to R131). -/
namespace Sys2Proof.Machine
open Sys2Proof.Claims

section
variable {s s1 s2 t w : State} {k : Key} {seq u v marks o pa : Nat} {c c1 : Context} {m : Cmd} {g : CopyCfg} {x : CopyUnit} {l : Leaf}

/-! Into a slice. -/

theorem sliceClears_scratch (hh : c.inH = false) (ls : List Nat) (s : State) : ∃ mem, ls.foldl (fun s l => s.sliceClear c (128 * l) 128) s =
    { s with scratch := mem } ∧ (s.scratch.wf = true → mem.wf = true) := by
  induction ls generalizing s with
  | nil => exact ⟨s.scratch, rfl, id⟩
  | cons l ls ih =>
    have hone : s.sliceClear c (128 * l) 128 = { s with scratch := s.scratch.clear (c.sliceBase + 128 * l) 128 } := by
      rw [State.sliceClear, hh]
      rfl
    rw [List.foldl_cons, hone]
    obtain ⟨mem, hmem, hwf⟩ := ih { s with scratch := s.scratch.clear (c.sliceBase + 128 * l) 128 }
    exact ⟨mem, hmem, fun h => hwf (Mem.wf_clear _ _ h)⟩

/-- A write to the slice of a context that is not a handler's. -/
theorem sliceWrite_named (h : s.ctx? k = some c) (hh : c.inH = false) (hwf : s.scratch.wf = true) :
    ∃ (t : State) (c' : Context), s.sliceWrite k o x.n v marks = t ∧ t.ctx? k = some c' ∧ c' = { c with discLines := c'.discLines } ∧
      t.scratch.readN (c.sliceBase + o) x.n = v % 2 ^ (8 * x.n) := by
  rw [State.sliceWrite, h]
  dsimp only
  generalize (linesOf o x.n).filter (fun l => c.discLines.contains l) = hit
  obtain ⟨mem, hmem, hkeep⟩ := sliceClears_scratch hh hit s
  rw [hmem, hh, if_neg Bool.false_ne_true]
  have hread : (mem.writeMarks (c.sliceBase + o) x.n v marks).readN (c.sliceBase + o) x.n = v % 2 ^ (8 * x.n) :=
    Mem.readN_writeMarks _ _ _ _ (hkeep hwf)
  have h1 : ({ s with scratch := mem } : State).ctx? k = some c := h
  split
  · exact ⟨_, c, rfl, h1, rfl, hread⟩
  · refine ⟨_, { c with discLines := c.discLines.filter (fun l => !hit.contains l) }, rfl, ?_, rfl, ?_⟩
    · exact ctx_modCtx (f := fun x => { x with discLines := x.discLines.filter (fun l => !hit.contains l) }) h1 rfl
    · rw [State.modCtx_scratch]
      exact hread

theorem copyUnit_slice (hi : Issuing s k seq u c m g x) (hr : UnitReady s s1 s2 c g x v marks (.slice o)) (hc : s2.ctx? k = some c)
    (hh : c.inH = false) (hwf : s2.scratch.wf = true) :
    ∃ (t : State) (c' : Context) (m' : Cmd), Leads (.copyUnitPerformed k seq u) s t ∧ HasCmd t k seq c' m' ∧ m'.units = [] ∧
      m'.counted = m.counted + 1 ∧ m'.bytes = m.bytes + x.n ∧
      m'.state = (if m.bytes + x.n = g.rows * g.len then .done else .started) ∧
      t.scratch.readN (c.sliceBase + o) x.n = v % 2 ^ (8 * x.n) ∧ BarrierCounted c c' m x.n := by
  have hhas := (atUnit_issuing hi).1.has
  have hstart := (atUnit_issuing hi).1.started
  obtain ⟨w, c1, hw, hc1, hshape, hread⟩ := sliceWrite_named (o := o) (x := x) (v := v) (marks := marks) hc hh hwf
  have hkey := ctx_key hhas.1
  have hwrite : s2.writeUnit c m g u x (.slice o) v marks = .sent 0 w := by rw [State.writeUnit, hkey, ← hw]
  obtain ⟨t, c', m', hleads, hctx, h1, h2, h3, h4, -, h5, h6⟩ :=
    issuing_sent hi hr hwrite hc1 (by rw [hshape]; exact hhas.2)
  refine ⟨t, c', m', hleads, h1, h2, h3, h4, by rw [h5, hstart], ?_, ?_⟩
  · rw [hctx]
    exact hread
  · intro off b hoff hfind
    exact h6 off b hoff (by rw [hshape]; exact hfind)

/-! Into a stack, a scratchpad, a register. -/

theorem storedLines_ctx {core : Nat} {done : List Nat} (h : StoredLines core done s t) (k : Key) :
    t.ctx? k = (s.ctx? k).map (Spoiled core done) := by
  have hkey (c : Context) : (Spoiled core done c).key = c.key := by
    rw [Spoiled]
    split <;> rfl
  have hbusy : t.busy = s.busy := by rw [h.shape]
  rw [State.ctx?, State.ctx?, hbusy, h.ctxs, h.cur]
  cases s.busy
  · rw [Bool.false_and, Bool.false_and, if_neg Bool.false_ne_true, if_neg Bool.false_ne_true, find_map_key hkey]
  · rw [if_pos rfl, hkey, find_map_key hkey]
    split <;> rfl

theorem counted_sent (hi : Issuing s k seq u c m g x) {p : Place} (hr : UnitReady s s1 s2 c g x v marks p)
    (hw : s2.writeUnit c m g u x p v marks = .sent 0 w) (hc : w.ctx? k = some c1) (hm : c1.cmd? seq = some m) :
    ∃ t : State, Leads (.copyUnitPerformed k seq u) s t ∧ Counted t k seq x.n m g ∧ InContexts w t := by
  obtain ⟨t, c', m', hleads, hctx, h1, h2, h3, h4, h5, h6, -⟩ := issuing_sent hi hr hw hc hm
  exact ⟨t, hleads, ⟨c', m', h1, h2, h3, h4, h5, h6⟩, hctx⟩

theorem copyUnit_stack (hi : Issuing s k seq u c m g x) (hr : UnitReady s s1 s2 c g x v marks (.stack pa)) (hc : s2.ctx? k = some c)
    (hwf : s2.mem.wf = true) (hlost : s2.lostCode pa (dieOf c.core) = none) :
    ∃ t : State, Leads (.copyUnitPerformed k seq u) s t ∧ Counted t k seq x.n m g ∧
      t.mem.readN pa x.n = v % 2 ^ (8 * x.n) ∧ MemOutside s2 t pa x.n ∧ t.scratch = s2.scratch := by
  have hstored := storedLines_foldl (storedLines_nil c.core { s2 with mem := s2.mem.writeMarks pa x.n v marks }) (linesOf pa x.n)
  obtain ⟨w, hw⟩ : ∃ w, w = (linesOf pa x.n).foldl (storeLine c.core) { s2 with mem := s2.mem.writeMarks pa x.n v marks } := ⟨_, rfl⟩
  rw [← hw] at hstored
  have hwrite : s2.writeUnit c m g u x (.stack pa) v marks = .sent 0 w := by
    rw [State.writeUnit, hlost, hw, ← stackStore_eq]
  have hctx : w.ctx? k = some (Spoiled c.core ([] ++ linesOf pa x.n) c) := by
    rw [storedLines_ctx hstored]
    exact congrArg (Option.map _) hc
  have hcmd : (Spoiled c.core ([] ++ linesOf pa x.n) c).cmd? seq = some m := by
    rw [Spoiled]
    split <;> exact (atUnit_issuing hi).1.has.2
  have hmem : w.mem = s2.mem.writeMarks pa x.n v marks := by rw [hstored.shape]
  have hscratch : w.scratch = s2.scratch := by rw [hstored.shape]
  obtain ⟨t, hleads, hcounted, ht⟩ := counted_sent hi hr hwrite hctx hcmd
  have htmem : t.mem = w.mem := by rw [ht]
  refine ⟨t, hleads, hcounted, ?_, fun b hb => ?_, by rw [ht]; exact hscratch⟩
  · rw [htmem, hmem]
    exact Mem.readN_writeMarks _ _ _ _ hwf
  · rw [htmem, hmem]
    exact writeMarks_outside _ _ _ _ _ hb

theorem copyUnit_chip {core off : Nat} (hi : Issuing s k seq u c m g x) (hr : UnitReady s s1 s2 c g x v marks (.chip core off))
    (hw : s2.chipWrite core off x.n v marks (BitVec.ofNat 64 x.dst) = .ok w) (hc : w.ctx? k = some c1) (hm : c1.cmd? seq = some m) :
    ∃ t : State, Leads (.copyUnitPerformed k seq u) s t ∧ Counted t k seq x.n m g ∧ t.mem = w.mem ∧ t.scratch = w.scratch ∧
      t.acc = w.acc := by
  have hwrite : s2.writeUnit c m g u x (.chip core off) v marks = .sent 0 w := by
    rw [State.writeUnit, hw]
  obtain ⟨t, hleads, hcounted, ht⟩ := counted_sent hi hr hwrite hc hm
  exact ⟨t, hleads, hcounted, by rw [ht], by rw [ht], by rw [ht]⟩

theorem copyUnit_device {off : Nat} (hi : Issuing s k seq u c m g x) (hr : UnitReady s s1 s2 c g x v marks (.device off))
    (hw : s2.deviceWrite off x.n v (BitVec.ofNat 64 x.dst) = .ok w) (hc : w.ctx? k = some c1) (hm : c1.cmd? seq = some m) :
    ∃ t : State, Leads (.copyUnitPerformed k seq u) s t ∧ Counted t k seq x.n m g ∧ t.bar1 = w.bar1 ∧ t.mem = w.mem := by
  have hwrite : s2.writeUnit c m g u x (.device off) v marks = .sent 0 w := by
    rw [State.writeUnit, hw]
  obtain ⟨t, hleads, hcounted, ht⟩ := counted_sent hi hr hwrite hc hm
  exact ⟨t, hleads, hcounted, by rw [ht], by rw [ht]⟩

/-! Into a page. -/

/-- A unit sent stands outstanding behind those before it. -/
theorem copyUnit_page {es : List (Nat × Int × Bool)} {z : IssuedUnit} {rest : List IssuedUnit} (hat : AtUnit s k seq u c m g x)
    (hrow : s.markedRow c m x = none) (hmig : ∀ a b p q, m.kind ≠ .ccopy a b p q true)
    (hwin : windowOf x.dst = windowOf (x.dst + x.dn - 1)) (hr : UnitReady s s1 s2 c g x v marks (.page l)) (hc : s2.ctx? k = some c)
    (hj : l.jblock = false) (hes : UnitElements g x l v marks es)
    (hfirst : m.units ++ [{ u := u, n := x.n, left := (unitBodies c m g u x l v marks es).length }] = z :: rest)
    (hleft : (unitBodies c m g u x l v marks es).length ≠ 0 → z.left ≠ 0) :
    ∃ (t : State) (c' : Context) (ms : List Msg), Leads (.copyUnitPerformed k seq u) s t ∧ t.msgs = s2.msgs ++ ms ∧
      ms.map Msg.body = unitBodies c m g u x l v marks es ∧ t.mem = s2.mem ∧ t.scratch = s2.scratch ∧
      HasCmd t k seq c' { m with units := m.units ++ [{ u := u, n := x.n, left := (unitBodies c m g u x l v marks es).length }]
                                 row := some (x.row, x.src - x.off) } := by
  obtain ⟨w, ms, hwrite, hw, hbodies, hlen⟩ := writeUnit_page (s := s2) (c := c) (m := m) (u := u) hj hes
  have hrun := runM_of_gives (performUnit_ready (u := u) hmig hr hwin)
  have hexec := copyUnitPerformed_issues hat (r := (s2.writeUnit c m g u x (.page l) v marks, s2)) (by rw [hrow]; exact hrun)
  have hctx : w.ctx? k = some c := by
    rw [hw]
    exact hc
  have hissued : s.unitIssued c m u x (s2.writeUnit c m g u x (.page l) v marks, s2) =
      w.modCmd k seq (Cmd.issued u x (unitBodies c m g u x l v marks es).length none) := by
    rw [hwrite, State.unitIssued]
    dsimp only
    rw [ctx_key hat.has.1, hasCmd_seq hat.has]
  have hadd := hasCmd_modCmd (s := w) ⟨hctx, hat.has.2⟩ (f := Cmd.issued u x (unitBodies c m g u x l v marks es).length none) fun _ => rfl
  rw [hissued, units_wait hadd hfirst (hleft hlen)] at hexec
  have hin := inContexts_modCmd w k seq (Cmd.issued u x (unitBodies c m g u x l v marks es).length none)
  refine ⟨_, _, ms, congrArg Host.Outcome.next hexec, ?_, hbodies, ?_, ?_, hadd⟩
  · rw [hin, hw]
  · rw [hin, hw]
  · rw [hin, hw]

theorem copyUnit_firstPage {es : List (Nat × Int × Bool)} (hi : Issuing s k seq u c m g x) (hr : UnitReady s s1 s2 c g x v marks (.page l))
    (hc : s2.ctx? k = some c) (hj : l.jblock = false) (hes : UnitElements g x l v marks es) :
    ∃ (t : State) (c' : Context) (ms : List Msg), Leads (.copyUnitPerformed k seq u) s t ∧ t.msgs = s2.msgs ++ ms ∧
      ms.map Msg.body = unitBodies c m g u x l v marks es ∧ t.mem = s2.mem ∧ t.scratch = s2.scratch ∧
      HasCmd t k seq c' { m with units := [{ u := u, n := x.n, left := (unitBodies c m g u x l v marks es).length }]
                                 row := some (x.row, x.src - x.off) } := by
  obtain ⟨hat, hunits, hrow, hmig, hwin⟩ := atUnit_issuing hi
  have h := copyUnit_page hat hrow hmig hwin hr hc hj hes (by rw [hunits]; rfl) id
  rwa [hunits] at h

theorem copyUnit_nextPage {es : List (Nat × Int × Bool)} (hi : IssuingBehind s k seq u c m g x)
    (hr : UnitReady s s1 s2 c g x v marks (.page l)) (hc : s2.ctx? k = some c) (hj : l.jblock = false) (hes : UnitElements g x l v marks es) :
    ∃ (t : State) (c' : Context) (ms : List Msg), Leads (.copyUnitPerformed k seq u) s t ∧ t.msgs = s2.msgs ++ ms ∧
      ms.map Msg.body = unitBodies c m g u x l v marks es ∧ t.mem = s2.mem ∧ t.scratch = s2.scratch ∧
      HasCmd t k seq c' { m with units := m.units ++ [{ u := u, n := x.n, left := (unitBodies c m g u x l v marks es).length }]
                                 row := some (x.row, x.src - x.off) } := by
  obtain ⟨hhas, hcopy, hmig, hstart, heng, ⟨y, rest, hunits, hleft⟩, hfaults, hu, hcfg, hunit, hrow, hwin, hfree⟩ := hi
  have hwaits : s.unitWaits c m x = false := by
    rw [State.unitWaits, List.any_eq_false]
    intro z hz
    rw [Bool.and_eq_true, decide_eq_true_eq]
    rintro ⟨hz0, hover⟩
    cases hcopied : s.copyUnit c m.kind z.u with
    | none =>
      rw [hcopied] at hover
      exact Bool.false_ne_true hover
    | some z' =>
      rw [hcopied] at hover
      exact Bool.false_ne_true ((hfree z hz hz0 z' hcopied).symm.trans hover)
  exact copyUnit_page ⟨hhas, hcopy, hstart, heng, hu, hcfg, hunit, hwaits, hfaults⟩ hrow hmig hwin hr hc hj hes
    (by rw [hunits]; rfl) fun _ => hleft

end
end Sys2Proof.Machine
end

section
/-! PROOFS. Units acknowledged, counted, faulted, and migrated (R105, R129, R130, R134); O43. -/
namespace Sys2Proof.Machine
open Sys2Proof.Claims

section
variable {s s1 s2 t w : State} {k : Key} {seq u v marks : Nat} {c c1 : Context} {m y : Cmd} {g : CopyCfg} {x : CopyUnit} {f : FaultInfo}

/-! A copy started, a unit acknowledged, a unit counted. -/

theorem copyCommandStart_starts (h : HasCmd s k seq c m) (hfirst : FirstReady s c m CmdKind.isCopy)
    (hroom : (s.coreCmds c.core (fun _ y => y.holdsStream)).length < 4) :
    ∃ (t : State) (c' : Context), Leads (.copyCommandStart k seq) s t ∧ HasCmd t k seq c' { m with state := .started } ∧
      t.mem = s.mem ∧ t.scratch = s.scratch := by
  obtain ⟨hcopy, hready, hnone⟩ := hfirst
  have hexec : copyCommandStart k seq s = s.modCmd k seq (fun m => { m with state := .started }) := by
    rw [copyCommandStart, h.1]
    dsimp only
    rw [h.2]
    dsimp only
    rw [hcopy, hready, hnone, decide_eq_true hroom]
    rfl
  have hin := inContexts_modCmd s k seq (fun m => { m with state := .started })
  exact ⟨_, _, congrArg Host.Outcome.next hexec, hasCmd_modCmd h fun _ => rfl, by rw [hin], by rw [hin]⟩

theorem msg?_dropMsg_same (s : State) (m : Nat) : (s.dropMsg m).msg? m = none := by
  rw [State.msg?, State.dropMsg, List.find?_eq_none]
  intro x hx
  have := (List.mem_filter.1 hx).2
  simpa using this

/-- An acknowledgement taken by a unit (R130). -/
def IssuedUnit.acked (s : State) (k : Key) (va : Word) (code : Option FaultCode) (x : IssuedUnit) : IssuedUnit :=
  { x with
    left := x.left - 1
    fault := match x.fault, code with
      | some f, some e => if va.toNat < f.addr.toNat then some (s.answerFault k.asid e va) else some f
      | some f, none => some f
      | none, some e => some (s.answerFault k.asid e va)
      | none, none => none }

/-- A command whose unit `u` has taken an acknowledgement. -/
def Cmd.unitAcked (s : State) (k : Key) (u : Nat) (va : Word) (code : Option FaultCode) (m : Cmd) : Cmd :=
  { m with units := m.units.map (fun x => if x.u = u then x.acked s k va code else x) }

theorem takeAck_copy (s : State) (k : Key) (seq u : Nat) (va : Word) (code : Option FaultCode) :
    s.takeAck { who := .copy k seq u, va := va } code = s.modCmd k seq (Cmd.unitAcked s k u va code) := rfl

theorem unitAcked_one {z : IssuedUnit} (hunits : y.units = [z]) (hu : z.u = u) (hnone : z.fault = none) (va : Word) (code : Option FaultCode) :
    Cmd.unitAcked s k u va code y = { y with units := [{ z with left := z.left - 1
                                                                fault := code.map (fun e => s.answerFault k.asid e va) }] } := by
  have hz : z.acked s k va code = { z with left := z.left - 1, fault := code.map (fun e => s.answerFault k.asid e va) } := by
    unfold IssuedUnit.acked
    rw [hnone]
    cases code <;> rfl
  rw [Cmd.unitAcked, hunits, List.map_singleton, if_pos hu, hz]

theorem unit_acknowledged {id : Nat} {va : Word} {code : Option FaultCode} {a : Msg} {z : IssuedUnit} (hm : s.msg? id = some a)
    (hloc : a.loc = .arrived) (hbehind : ∀ w ∈ s.msgs, w.id ∉ a.behind) (hbody : a.body = .ack { who := .copy k seq u, va := va } code)
    (h : HasCmd s k seq c y) (hunits : y.units = [z]) (hu : z.u = u) (hnone : z.fault = none) :
    ∃ (t : State) (c' : Context), Leads (.ackArrival id) s t ∧ t.msg? id = none ∧
      HasCmd t k seq c' { y with units := [{ z with left := z.left - 1
                                                    fault := code.map (fun e => s.answerFault k.asid e va) }] } ∧
      t.mem = s.mem ∧ t.md = s.md := by
  have hexec : ackArrival id s = (s.dropMsg id).modCmd k seq (Cmd.unitAcked (s.dropMsg id) k u va code) := by
    have hmsgs : s.msgs.any (fun y => a.behind.contains y.id) = false :=
      List.any_eq_false.2 fun w hw => by simpa using hbehind w hw
    rw [ackArrival, hm]
    dsimp only
    rw [hloc, hmsgs, if_neg (by decide), hbody, msg?_id hm]
    exact takeAck_copy _ _ _ _ _ _
  have hhas : HasCmd (s.dropMsg id) k seq c y := h
  have hin := inContexts_modCmd (s.dropMsg id) k seq (Cmd.unitAcked (s.dropMsg id) k u va code)
  have hmod := hasCmd_modCmd hhas (f := Cmd.unitAcked (s.dropMsg id) k u va code) fun _ => rfl
  rw [unitAcked_one hunits hu hnone] at hmod
  refine ⟨_, _, congrArg Host.Outcome.next hexec, ?_, hmod, ?_, ?_⟩
  · rw [hin]
    exact msg?_dropMsg_same s id
  · rw [hin]
    rfl
  · rw [hin]
    rfl

theorem copyUnitPerformed_counts (h : HasCmd s k seq c m) (hcopy : m.kind.isCopy = true) (hstate : m.state = .started ∨ m.state = .stalled)
    (hslot : c.slot.isSome = true) (hu : u ≠ m.nextUnit) : copyUnitPerformed k seq u s = s.countUnits k seq (m.units.length + 2) := by
  have hnone : c.slot.isNone = false := by rw [← Option.not_isSome, hslot]; rfl
  have hstates : (m.state != .started && m.state != .stalled) = false := by
    rcases hstate with hst | hst <;> rw [hst] <;> rfl
  rw [copyUnitPerformed, h.1]
  dsimp only
  rw [h.2]
  dsimp only
  rw [hcopy, hnone, hstates, if_neg (by decide), decide_eq_false hu]
  rfl

theorem unit_performed {z : IssuedUnit} (h : HasCmd s k seq c m) (hcopy : m.kind.isCopy = true) (hg : m.kind.cfg = some g)
    (hstate : m.state = .started ∨ m.state = .stalled) (hslot : c.slot.isSome = true) (hunits : m.units = [z]) (hleft : z.left = 0)
    (hle : m.bytes + z.n ≤ g.rows * g.len) (hu : u ≠ m.counted + 1) :
    ∃ t : State, Leads (.copyUnitPerformed k seq u) s t ∧ t.mem = s.mem ∧ t.scratch = s.scratch ∧
      (z.fault = none → Counted t k seq z.n m g) ∧ ∀ f, z.fault = some f → CompletedFaulted t k seq m g f := by
  have hexec := copyUnitPerformed_counts h hcopy hstate hslot (u := u) (by rw [Cmd.nextUnit, hunits]; exact hu)
  rw [hunits] at hexec
  have hin := inContexts_countUnits k seq 3 s
  refine ⟨_, congrArg Host.Outcome.next hexec, ?_, ?_, fun hnone => ?_, fun f hf => ?_⟩
  · show (s.countUnits k seq 3).mem = s.mem
    rw [hin]
  · show (s.countUnits k seq 3).scratch = s.scratch
    rw [hin]
  · obtain ⟨c', m', h1, h2, h3, h4, h5, h6, -⟩ := unit_counted h hunits hleft hnone hg 1
    exact ⟨c', m', h1, h2, h3, h4, h5, h6⟩
  · obtain ⟨c', m', h1, h2, h3, h4, h5⟩ := unit_faulted h hunits hleft hf hg (by omega) 2
    exact ⟨c', m', h1, h2, h3, h4, h5⟩

/-! A unit that faults. -/

/-- Where a unit has met a TRANSLATION fault, nothing is counted. -/
theorem stalled_counts {w : State} (hc : w.ctx? k = some c) (hm : c.cmd? seq = some m) (hunits : m.units = []) (hlt : m.bytes ≠ m.total)
    (n : Nat) : (w.stallCmd c m f).countUnits k seq (n + 1) = w.stallCmd c m f := by
  have hkey := ctx_key hc
  have hseq : m.seq = seq := hasCmd_seq ⟨hc, hm⟩
  have hstall := hasCmd_modCmd (s := w) ⟨hc, hm⟩ (f := fun x => { x with state := .stalled }) fun _ => rfl
  rw [State.stallCmd, hkey, hseq]
  split
  · exact units_none ⟨hc, hm⟩ hunits hlt n
  · dsimp only
    split
    · refine units_none (c := c.withCmd seq fun x => { x with state := .stalled }) (m := { m with state := .stalled }) ?_ hunits hlt n
      exact hstall
    · refine units_none (c := c.withCmd seq fun x => { x with state := .stalled }) (m := { m with state := .stalled }) ?_ hunits hlt n
      exact hstall

theorem inContexts_stallCmd (s : State) (c : Context) (m : Cmd) (f : FaultInfo) :
    (s.stallCmd c m f).mem = s.mem ∧ (s.stallCmd c m f).scratch = s.scratch := by
  have hin := inContexts_modCmd s c.key m.seq (fun x => { x with state := .stalled })
  rw [State.stallCmd]
  split
  · exact ⟨rfl, rfl⟩
  · dsimp only
    split
    · exact ⟨by rw [hin], by rw [hin]⟩
    · exact ⟨by rw [hin]; rfl, by rw [hin]; rfl⟩

theorem postRecord_records (w : State) (r : FaultRec) : (w.postRecord r).records = w.records ++ [{ r with id := w.nextSeq }] := rfl

theorem stallCmd_stalls {w : State} (hc : w.ctx? k = some c) (hm : c.cmd? seq = some m) (hfull : w.recordsFull k f = false)
    (hattach : w.attachTo k.asid f = none) :
    (∃ c', HasCmd (w.stallCmd c m f) k seq c' { m with state := .stalled }) ∧ ∃ r : FaultRec,
      (w.stallCmd c m f).records = w.records ++ [r] ∧ r.kind = 8 ∧ r.info = f ∧ r.pc = m.pc ∧ r.asid = k.asid ∧ r.ctxid = k.ctxid ∧
      r.engines = [(k, seq)] := by
  have hkey := ctx_key hc
  obtain rfl : m.seq = seq := hasCmd_seq ⟨hc, hm⟩
  have hstall := hasCmd_modCmd (s := w) ⟨hc, hm⟩ (f := fun x => { x with state := .stalled }) fun _ => rfl
  have hin := inContexts_modCmd w k m.seq (fun x => { x with state := .stalled })
  rw [State.stallCmd, hkey, hfull, if_neg Bool.false_ne_true, hattach]
  dsimp only
  refine ⟨⟨c.withCmd m.seq fun x => { x with state := .stalled }, ?_⟩, ?_⟩
  · exact hstall
  · rw [postRecord_records, hin]
    exact ⟨_, rfl, rfl, rfl, rfl, rfl, rfl, rfl⟩

theorem unit_faults (hi : Issuing s k seq u c m g x) (hc : s1.ctx? k = some c) (hlt : m.bytes < g.rows * g.len)
    (h : Gives (readUnit c x.src x.n) s (.fault f) s1 ∨ ∃ s0 v marks, Gives (readUnit c x.src x.n) s (.ok v marks) s0 ∧
      Gives (copyPlace c .write (decide (g.mode ≠ 0)) (g.refuse c.sys) x.dn x.dst) s0 (.error f) s1) :
    ∃ t : State, Leads (.copyUnitPerformed k seq u) s t ∧ t.mem = s1.mem ∧ t.scratch = s1.scratch ∧
      (f.code ≠ .translation → CompletedFaulted t k seq m g f) ∧
      (f.code = .translation → s1.recordsFull k f = false → s1.attachTo k.asid f = none →
        (∃ c', HasCmd t k seq c' { m with state := .stalled }) ∧ ∃ r : FaultRec, t.records = s1.records ++ [r] ∧ r.kind = 8 ∧
          r.info = f ∧ r.pc = m.pc ∧ r.asid = k.asid ∧ r.ctxid = k.ctxid ∧ r.engines = [(k, seq)]) := by
  obtain ⟨hat, hunits, hrow, hmig, hwin⟩ := atUnit_issuing hi
  have hrun := runM_of_gives (performUnit_faults (m := m) (u := u) hmig hwin h)
  have hexec := copyUnitPerformed_issues hat (r := (.fault f, s1)) (by rw [hrow]; exact hrun)
  rw [hunits] at hexec
  by_cases hcode : f.code = .translation
  · have hissued : s.unitIssued c m u x (.fault f, s1) = s1.stallCmd c m f := by
      rw [State.unitIssued]
      dsimp only
      rw [hcode]
      rfl
    have htotal : m.bytes ≠ m.total := by
      rw [Cmd.total, hat.cfg]
      exact Nat.ne_of_lt hlt
    rw [hissued, List.length_nil, stalled_counts hc hat.has.2 hunits htotal 1] at hexec
    obtain ⟨hmem, hscratch⟩ := inContexts_stallCmd s1 c m f
    exact ⟨_, congrArg Host.Outcome.next hexec, hmem, hscratch, fun hne => absurd hcode hne,
      fun _ hfull hattach => stallCmd_stalls hc hat.has.2 hfull hattach⟩
  · obtain ⟨t, hleads, hin, hdone⟩ := issuing_faulted hat hunits hexec hcode hc hat.has.2 hlt
    exact ⟨t, hleads, by rw [hin], by rw [hin], fun _ => hdone, fun h => absurd h hcode⟩

theorem markedRow_poison (h : s.markedRow c m x = some f) : f.code = .poison := by
  rw [State.markedRow] at h
  split at h
  · dsimp only at h
    split at h
    · cases h
      rfl
    · nomatch h
  · nomatch h

theorem unit_markedRow {y : CopyUnit} (h : HasCmd s k seq c m) (hcopy : m.kind.isCopy = true) (hstart : m.state = .started)
    (heng : c.engaged = true) (hunits : m.units = []) (hu : u = m.counted) (hg : m.kind.cfg = some g)
    (hy : s.copyUnit c m.kind u = some y) (hx : x = m.fixRow y) (hrow : s.markedRow c m x = some f) (hlt : m.bytes < g.rows * g.len) :
    f.code = .poison ∧ ∃ t : State, Leads (.copyUnitPerformed k seq u) s t ∧ CompletedFaulted t k seq m g f := by
  have hat : AtUnit s k seq u c m g x := ⟨h, hcopy, hstart, heng, by rw [hu, Cmd.nextUnit, hunits]; rfl, hg, ⟨y, hy, hx⟩,
    by rw [State.unitWaits, hunits]; rfl, fun z hz => by rw [hunits] at hz; exact absurd hz List.not_mem_nil⟩
  have hpoison := markedRow_poison hrow
  have hexec := copyUnitPerformed_issues hat (r := (.fault f, s)) (by rw [hrow]; rfl)
  rw [hunits] at hexec
  obtain ⟨t, hleads, -, hdone⟩ := issuing_faulted hat hunits hexec (by rw [hpoison]; decide) h.1 h.2 hlt
  exact ⟨hpoison, t, hleads, hdone⟩

/-! A unit of a migration copy (R105, R129). -/

theorem countRead_off {l : Leaf} (h : l.cnt = false) (s : State) (c : Context) (va : Nat) : s.countRead c l va = s := by
  rw [State.countRead, h]
  rfl

theorem moveLine_moves (hform : Sys2Proof.Safety.memoryOk s) (a b : Nat) : ∃ t, s.moveLine a b = t ∧
    (∀ k, t.ctx? k = s.ctx? k) ∧ t.mem.readN (128 * b) 128 = s.mem.readN (128 * a) 128 ∧ MemOutside s t (128 * b) 128 ∧
    mdState (t.md.read b) = mdState (s.md.read a) ∧ mdWidth (t.md.read b) = mdWidth (s.md.read a) ∧
    mdPoison (t.md.read b) = mdPoison (s.md.read a) ∧ t.forwards.find? (fun f => f.1 == a) = some (a, b) ∧
    ∀ w ∈ s.watches, w.cell / 128 = a → { w with cell := 128 * b + w.cell % 128, home := homeNode (128 * b) } ∈ t.watches := by
  obtain ⟨hmem, -, -, hmd⟩ := hform
  obtain ⟨n, hn⟩ : ∃ n : State, n = { s with
    mem := s.mem.writeMarks (128 * b) 128 (s.mem.readN (128 * a) 128) (s.mem.markBits (128 * a) 128)
    md := s.md.write b (s.md.read a)
    forwards := (a, b) :: s.forwards.filter (fun f => f.1 != a && f.1 != b)
    watches := s.watches.map (fun (w : Watch) =>
      if w.cell / 128 = a then { w with cell := 128 * b + w.cell % 128, home := homeNode (128 * b) } else w)
    halves := s.halves.map (fun h => if h.1 = a then (b, h.2) else h) } := ⟨_, rfl⟩
  have hnmem : n.mem = s.mem.writeMarks (128 * b) 128 (s.mem.readN (128 * a) 128) (s.mem.markBits (128 * a) 128) := by rw [hn]
  have hnmd : n.md = s.md.write b (s.md.read a) := by rw [hn]
  have hnwf : n.md.wf = true := by
    rw [hnmd]
    exact Memory.write_wf hmd
  obtain ⟨h1, h2, h3⟩ := markWatched_fields (s := n) (line := a) hnwf b
  obtain ⟨g1, g2, g3⟩ := markWatched_fields (s := n.markWatched a) (line := b) (Memory.write_wf hnwf) b
  have hread : n.md.read b = s.md.read a := by
    rw [hnmd]
    exact read_md_same hmd
  rw [hread] at h1 h2 h3
  obtain ⟨z, hz⟩ : ∃ z, z = (n.markWatched a).markWatched b := ⟨_, rfl⟩
  have hmove : s.moveLine a b = z := by
    rw [hz, hn]
    rfl
  have hshape : z = { n with md := z.md } := by
    rw [hz]
    rfl
  rw [← hz] at g1 g2 g3
  refine ⟨z, hmove, fun k => ?_, ?_, fun x hx => ?_, g1.trans h1, g2.trans h2, g3.trans h3, ?_, fun w hw ha => ?_⟩
  · rw [State.ctx?, State.ctx?, hshape, hn]
  · rw [hshape]
    dsimp only
    rw [hnmem, Mem.readN_writeMarks _ _ _ _ hmem, Nat.mod_eq_of_lt (readN_lt s.mem (128 * a) 128)]
  · rw [hshape]
    dsimp only
    rw [hnmem]
    exact writeMarks_outside _ _ _ _ _ hx
  · rw [hshape, hn]
    exact List.find?_cons_of_pos (beq_self_eq_true a)
  · rw [hshape, hn]
    exact List.mem_map.2 ⟨w, hw, if_pos ha⟩

theorem migrateUnit_gives {a b : Leaf} (hn : x.n = 128)
    (ha : Gives (copyPlace c .read false (refuseSource c.sys) x.n x.src) s (.ok (.page a)) s1)
    (hb : Gives (copyPlace c .write false (fun _ => none) x.n x.dst) s1 (.ok (.page b)) s2) (hmig : migrates c g a b = true)
    (houts : ∀ o ∈ c.outs, o.store = false) (hpa : a.line x.src ∉ s2.poisoning) (hpb : b.line x.dst ∉ s2.poisoning)
    (hha : s2.homeCode a x.src (dieOf c.core) = none) (hhb : s2.homeCode b x.dst (dieOf c.core) = none) (hca : a.cnt = false)
    (hcb : b.cnt = false) : Gives (migrateUnit c g x) s (.sent 0 (s2.moveLine (a.line x.src) (b.line x.dst))) s2 := by
  have houts' : c.outs.any (fun o => o.store && o.line == a.line x.src) = false :=
    List.any_eq_false.2 fun o ho => by rw [houts o ho, Bool.false_and]; exact Bool.false_ne_true
  have hpois : (s2.poisoning.contains (a.line x.src) || s2.poisoning.contains (b.line x.dst)) = false := by
    simp [hpa, hpb]
  rw [migrateUnit]
  refine gives_bind ha (gives_bind hb (gives_bind (get_gives s2) ?_))
  rw [hmig, if_neg (by decide), houts', if_neg Bool.false_ne_true, hpois, if_neg Bool.false_ne_true, hha, hhb,
    countRead_off hca, countRead_off hcb]
  exact gives_pure _ _

theorem performUnit_migrates {p q : Word} {src dst : BitVec 48} (hkind : m.kind = .ccopy p q src dst true) :
    performUnit c m g u x = migrateUnit c g x := by
  rw [performUnit, hkind]
  rfl

theorem unit_migrates {a b : Leaf} {p q : Word} {src dst : BitVec 48} (h : HasCmd s k seq c m) (hkind : m.kind = .ccopy p q src dst true)
    (hstart : m.state = .started) (heng : c.engaged = true) (hunits : m.units = []) (hnorow : m.row = none) (hu : u = m.counted)
    (hg : m.kind.cfg = some g) (hx : s.copyUnit c m.kind u = some x) (hn : x.n = 128)
    (hgives : Gives (migrateUnit c g x) s (.sent 0 (s2.moveLine (a.line x.src) (b.line x.dst))) s2) (hc : s2.ctx? k = some c)
    (hform : Sys2Proof.Safety.memoryOk s2) :
    ∃ t : State, Leads (.copyUnitPerformed k seq u) s t ∧ Counted t k seq 128 m g ∧
      InContexts (s2.moveLine (a.line x.src) (b.line x.dst)) t := by
  have hfix : m.fixRow x = x := by
    rw [Cmd.fixRow, hnorow]
  have hat : AtUnit s k seq u c m g x := ⟨h, by rw [hkind]; rfl, hstart, heng, by rw [hu, Cmd.nextUnit, hunits]; rfl, hg,
    ⟨x, hx, hfix.symm⟩, by rw [State.unitWaits, hunits]; rfl, fun z hz => by rw [hunits] at hz; exact absurd hz List.not_mem_nil⟩
  have hrow : s.markedRow c m x = none := by
    rw [State.markedRow, hkind]
  have hrun := runM_of_gives hgives
  have hexec := copyUnitPerformed_issues hat (r := (.sent 0 (s2.moveLine (a.line x.src) (b.line x.dst)), s2))
    (by rw [hrow, performUnit_migrates hkind]; exact hrun)
  rw [hunits] at hexec
  obtain ⟨w, hw, hctx, -⟩ := moveLine_moves hform (a.line x.src) (b.line x.dst)
  obtain ⟨t, c', m', hleads, hin, h1, h2, h3, h4, h5, h6, -⟩ := atUnit_sent hat hunits hexec (by rw [hw, hctx]; exact hc) h.2
  rw [hn] at h4 h6
  exact ⟨t, hleads, ⟨c', m', h1, h2, h3, h4, h5, h6⟩, hin⟩

end

/-- Settles O43, case by case: what performing the next unit comes to is issued, and the units that are performed are counted in
order. -/
theorem copiesRunInUnits : Obligations.CopiesRunInUnits := by
  refine ⟨fun _ _ _ _ _ h hfirst hroom => copyCommandStart_starts h hfirst hroom, ?_, ?_, ?_, ⟨?_, ?_, ?_⟩, ⟨?_, ?_, ?_, ?_⟩, ?_⟩
  · intro k seq u v marks o s s1 s2 c m g x hi hr hc hh hwf
    exact copyUnit_slice hi hr hc hh hwf
  · intro k seq u v marks l s s1 s2 c m g x es hi hr hc hj hes bodies
    exact copyUnit_firstPage hi hr hc hj hes
  · intro k seq u v marks l s s1 s2 c m g x es hi hr hc hj hes bodies
    exact copyUnit_nextPage hi hr hc hj hes
  · intro k seq u v marks pa s s1 s2 c m g x hi hr hc hwf hlost
    exact copyUnit_stack hi hr hc hwf hlost
  · intro k seq u v marks core off s s1 s2 w c c1 m g x hi hr hw hc hm
    exact copyUnit_chip hi hr hw hc hm
  · intro k seq u v marks off s s1 s2 w c c1 m g x hi hr hw hc hm
    exact copyUnit_device hi hr hw hc hm
  · intro m u seq k va code s x c y z hm hloc hbehind hbody h hunits hu hnone
    exact unit_acknowledged hm hloc hbehind hbody h hunits hu hnone
  · intro k seq u s c m g z h hcopy hg hstate hslot hunits hleft hle hu
    exact unit_performed h hcopy hg hstate hslot hunits hleft hle hu
  · intro k seq u f s s1 c m g x hi hc hlt h
    exact unit_faults hi hc hlt h
  · intro k seq u f s c m g x y h hcopy hstart heng hunits hu hg hy hx hrow hlt
    exact unit_markedRow h hcopy hstart heng hunits hu hg hy hx hrow hlt
  · intro k seq u a b s s1 s2 c m g x p q src dst h hkind hstart heng hunits hnorow hu hg hx hn ha hb hmig houts hpa hpb hha hhb hca hcb
      hne hc hform la lb
    have hgives := migrateUnit_gives hn ha hb hmig houts hpa hpb hha hhb hca hcb
    obtain ⟨t, hleads, hcounted, hin⟩ := unit_migrates h hkind hstart heng hunits hnorow hu hg hx hn hgives hc hform
    obtain ⟨w, hw, -, hcells, hout, hst, hwd, hpo, hfwd, hwatch⟩ := moveLine_moves hform la lb
    rw [hw] at hin
    have hmem : t.mem = w.mem := by rw [hin]
    have hmd : t.md = w.md := by rw [hin]
    have hforwards : t.forwards = w.forwards := by rw [hin]
    have hwatches : t.watches = w.watches := by rw [hin]
    refine ⟨t, hleads, hcounted, by rw [hmem]; exact hcells, fun b hb => ?_, by rw [hmd]; exact hst, by rw [hmd]; exact hwd,
      by rw [hmd]; exact hpo, by rw [hforwards]; exact hfwd, by rw [hwatches]; exact hwatch⟩
    rw [hmem]
    exact hout b hb

end Sys2Proof.Machine
end

section
/-! PROOFS. Words of tiles, the bytes of slices, and commands completed (R122, R178 to R181). -/
namespace Sys2Proof.Machine
open Sys2Proof.Claims

section
variable {s t : State} {k : Key} {seq o n v marks : Nat} {c : Context} {m : Cmd}

/-! Bytes with one mark. -/

theorem Mem.marked_congr {m m' : Mem} {a n : Nat} (h : ∀ x, a ≤ x → x < a + n → m'.marks.read x = m.marks.read x) :
    m'.marked a n = m.marked a n := by
  rw [Mem.marked, Mem.marked, Bool.eq_iff_iff, List.any_eq_true, List.any_eq_true]
  refine exists_congr fun i => and_congr_right fun hi => ?_
  have := List.mem_range.1 hi
  rw [h (a + i) (by omega) (by omega)]

theorem Mem.marked_writeN {m : Mem} (h : m.wf = true) (a n x : Nat) (b : Bool) :
    (m.writeN a (n + 1) x b).marked a (n + 1) = b := by
  have hread (i : Nat) (hi : i < n + 1) : (m.marks.fill a (if b then 1 else 0) (n + 1)).read (a + i) = if b then 1 else 0 := by
    rw [Memory.read_fill _ _ (Mem.wf_iff.1 h).2, if_pos (by omega)]
  rw [Mem.marked]
  cases b
  · refine List.any_eq_false.2 fun i hi => ?_
    rw [Mem.writeN, hread i (List.mem_range.1 hi)]
    decide
  · refine List.any_eq_true.2 ⟨0, List.mem_range.2 (Nat.succ_pos n), ?_⟩
    rw [Mem.writeN, hread 0 (Nat.succ_pos n)]
    decide

/-! Tiles. -/

/-- The words of a tile written in order, as far as `n`. -/
structure WordsWritten (base : Nat) (f : Nat → Nat × Bool) (n : Nat) (m : Mem) : Prop where
  wf : m.wf = true
  cells : ∀ i, i < n → m.readN (base + 4 * i) 4 = (f i).1 % 2 ^ 32
  marks : ∀ i, i < n → m.marked (base + 4 * i) 4 = (f i).2

theorem wordsWritten (base : Nat) (f : Nat → Nat × Bool) {m : Mem} (h : m.wf = true) (n : Nat) :
    WordsWritten base f n ((List.range n).foldl (fun m w => m.writeN (base + 4 * w) 4 (f w).1 (f w).2) m) := by
  induction n with
  | zero => exact ⟨h, fun _ hi => absurd hi (Nat.not_lt_zero _), fun _ hi => absurd hi (Nat.not_lt_zero _)⟩
  | succ n ih =>
    rw [List.range_succ, List.foldl_append, List.foldl_cons, List.foldl_nil]
    generalize (List.range n).foldl (fun m w => m.writeN (base + 4 * w) 4 (f w).1 (f w).2) m = m' at ih
    obtain ⟨hwf, hcells, hmarks⟩ := ih
    refine ⟨(Mem.within_writeN _ _ _ _).1 hwf, fun i hi => ?_, fun i hi => ?_⟩
    · by_cases hn : i = n
      · rw [hn]
        exact Mem.readN_writeN _ _ _ _ hwf
      · rw [← hcells i (by omega)]
        exact Memory.readN_congr _ _ fun x _ _ => (writeN_outside m' _ _ _ _ (by omega)).1
    · by_cases hn : i = n
      · rw [hn]
        exact Mem.marked_writeN hwf _ 3 _ _
      · rw [← hmarks i (by omega)]
        exact Mem.marked_congr fun x _ _ => (writeN_outside m' _ _ _ _ (by omega)).2

theorem tileWord_eq (c : Context) (t w : Nat) : c.tileWord t w = c.tileWord t 0 + 4 * w := by
  rw [Context.tileWord, Context.tileWord, Nat.mul_zero, Nat.add_zero]

/-- A word of a tile that has been written whole. -/
theorem tileFill_word (h : s.acc.wf = true) {tile w : Nat} (f : Nat → Nat × Bool) (hw : w < 4096) :
    (s.tileFill c tile f).tileWordOf c tile w = ((f w).1 % 2 ^ 32, (f w).2) := by
  have hwords : WordsWritten (c.tileWord tile 0) f 4096 (s.tileFill c tile f).acc := by
    have hfold : (s.tileFill c tile f).acc =
        (List.range 4096).foldl (fun m w => m.writeN (c.tileWord tile 0 + 4 * w) 4 (f w).1 (f w).2) s.acc := by
      have hstep : (fun (m : Mem) w => m.writeN (c.tileWord tile w) 4 (f w).1 (f w).2) =
          fun m w => m.writeN (c.tileWord tile 0 + 4 * w) 4 (f w).1 (f w).2 := by
        funext m w
        rw [tileWord_eq]
      rw [State.tileFill, hstep]
    rw [hfold]
    exact wordsWritten _ f h 4096
  rw [State.tileWordOf, State.tileRead, tileWord_eq, hwords.cells w hw, hwords.marks w hw]

theorem tileZero_word {tile w : Nat} (h : s.acc.wf = true) (hw : w < 4096) : (s.tileZero c tile).tileWordOf c tile w = (0, false) := by
  have hinside : ∀ x, c.tileWord tile w ≤ x → x < c.tileWord tile w + 4 →
      c.tileWord tile 0 ≤ x ∧ x < c.tileWord tile 0 + 2 ^ 14 := by
    intro x
    rw [tileWord_eq c tile w]
    omega
  obtain ⟨hcells, hmarks⟩ := Mem.wf_iff.1 h
  have hzero (k : Memory) (hk : k.wf = true) (x : Nat) (hx : c.tileWord tile w ≤ x) (hx' : x < c.tileWord tile w + 4) :
      (k.clear (c.tileWord tile 0) (2 ^ 14)).read x = 0 := by
    rw [Memory.read_clear hk, if_pos (hinside x hx hx')]
  have hnum : (s.tileZero c tile).tileRead c tile w = 0 := by
    have hc := Memory.readN_congr (m := []) (m' := s.acc.cells.clear (c.tileWord tile 0) (2 ^ 14)) 4 (c.tileWord tile w)
      fun x hx hx' => hzero _ hcells x hx hx'
    exact hc
  have hmark : (s.tileZero c tile).acc.marked (c.tileWord tile w) 4 = false := by
    refine List.any_eq_false.2 fun i hi => ?_
    have := List.mem_range.1 hi
    rw [State.tileZero, Mem.clear, hzero _ hmarks _ (by omega) (by omega)]
    decide
  rw [State.tileWordOf, hnum, hmark]

/-- Another tile's word stands. -/
theorem tileZero_other {tile other w : Nat} (h : (c.tileMap[other]?).getD 0 ≠ (c.tileMap[tile]?).getD 0) (hw : w < 4096) :
    (s.tileZero c tile).tileWordOf c other w = s.tileWordOf c other w := by
  have hapart : ∀ x, c.tileWord other w ≤ x → x < c.tileWord other w + 4 →
      x < c.tileWord tile 0 ∨ c.tileWord tile 0 + 2 ^ 14 ≤ x := by
    rw [Context.tileWord, Context.tileWord]
    intro x
    omega
  have hnum : (s.tileZero c tile).tileRead c other w = s.tileRead c other w :=
    Memory.readN_congr _ _ fun x hx hx' => Memory.read_clear_apart (hapart x hx hx') _
  have hmark : (s.tileZero c tile).acc.marked (c.tileWord other w) 4 = s.acc.marked (c.tileWord other w) 4 :=
    Mem.marked_congr fun x hx hx' => Memory.read_clear_apart (hapart x hx hx') _
  rw [State.tileWordOf, hnum, hmark, State.tileWordOf]

/-! Slices. -/

/-- The byte space that holds a context's slice. -/
def State.store (s : State) (c : Context) : Mem := if c.inH then c.area else s.scratch

/-- Where a slice offset lies in it. -/
def Context.storeAt (c : Context) (off : Nat) : Nat := if c.inH then off else c.sliceBase + off

theorem store_area (h : c.inH = true) (s : State) : s.store c = c.area := if_pos h

theorem store_scratch (h : ¬ c.inH = true) (s : State) : s.store c = s.scratch := if_neg h

theorem sliceRead_store (s : State) (c : Context) (off n : Nat) : s.sliceRead c off n = (s.store c).readN (c.storeAt off) n := by
  rw [State.sliceRead, State.store, Context.storeAt]
  split <;> rfl

theorem sliceMarks_store (s : State) (c : Context) (off n : Nat) : s.sliceMarks c off n = (s.store c).markBits (c.storeAt off) n := by
  rw [State.sliceMarks, State.store, Context.storeAt]
  split <;> rfl

theorem storeAt_add (c : Context) (off i : Nat) : c.storeAt (off + i) = c.storeAt off + i := by
  rw [Context.storeAt, Context.storeAt]
  split <;> omega

/-- Only a scratchpad's bytes and contexts differ. -/
def InSlices (s t : State) : Prop := t = { s with scratch := t.scratch, cur := t.cur, ctxs := t.ctxs }

theorem inSlices_chain : Chain InSlices := ⟨fun _ => rfl, fun h h' => h'.trans (by rw [h])⟩

theorem inSlices_modCtx (s : State) (k : Key) (f : Context → Context) : InSlices s (s.modCtx k f) := by
  have h := ctxsOnly_modCtx s k f
  exact h.trans (by rw [h])

/-- A slice, its lines cleared. -/
structure SliceCleared (s t : State) (k : Key) (c : Context) : Prop where
  shape : InSlices s t
  has : ∃ a, t.ctx? k = some { c with area := a } ∧ ((s.store c).wf = true → (t.store { c with area := a }).wf = true)

theorem sliceClear_cleared {c0 : Context} (hk : c0.key = k) (hh : c.inH = c0.inH) (h : s.ctx? k = some c) (l : Nat) :
    SliceCleared s (s.sliceClear c0 l 128) k c := by
  rw [State.sliceClear, ← hh, hk]
  by_cases hin : c.inH = true
  · rw [if_pos hin]
    refine ⟨inSlices_modCtx s k _, c.area.clear l 128, ctx_modCtx h rfl, ?_⟩
    rw [store_area hin, store_area (by exact hin)]
    exact Mem.wf_clear _ _
  · rw [if_neg hin]
    refine ⟨rfl, c.area, h, ?_⟩
    rw [store_scratch hin, store_scratch (by exact hin)]
    exact Mem.wf_clear _ _

theorem sliceClears_cleared {c0 : Context} (hk : c0.key = k) (hh : c.inH = c0.inH) (ls : List Nat) (h : s.ctx? k = some c) :
    SliceCleared s (ls.foldl (fun s l => s.sliceClear c0 (128 * l) 128) s) k c := by
  induction ls generalizing s c with
  | nil => exact ⟨rfl, c.area, h, id⟩
  | cons l ls ih =>
    obtain ⟨hshape, a, ha, hwfa⟩ := sliceClear_cleared hk hh h (128 * l)
    rw [List.foldl_cons]
    obtain ⟨hshape', a', ha', hwfa'⟩ := ih (c := { c with area := a }) hh ha
    exact ⟨inSlices_chain.trans hshape hshape', a', ha', fun h => hwfa' (hwfa h)⟩

/-- What a write to a slice leaves: the bytes written over what its lines held, where no discarded one is touched. -/
structure SliceWritten (s t : State) (k : Key) (c c' : Context) (o n v marks : Nat) : Prop where
  shape : InSlices s t
  has : t.ctx? k = some c'
  context : c' = { c with discLines := c'.discLines, area := c'.area }
  bytes : ∃ m0 : Mem, ((s.store c).wf = true → m0.wf = true) ∧ t.store c' = m0.writeMarks (c.storeAt o) n v marks ∧ (c.touchesDiscarded o n = false → m0 = s.store c)

theorem sliceWrite_written (h : s.ctx? k = some c) (o n v marks : Nat) :
    ∃ c', SliceWritten s (s.sliceWrite k o n v marks) k c c' o n v marks := by
  have hkey := ctx_key h
  have hhit : c.touchesDiscarded o n = false → (linesOf o n).filter (fun l => c.discLines.contains l) = [] := fun h =>
    List.filter_eq_nil_iff.2 fun l hl => List.any_eq_false.1 h l hl
  rw [State.sliceWrite, h]
  dsimp only
  generalize (linesOf o n).filter (fun l => c.discLines.contains l) = hit at hhit
  obtain ⟨hshape, a, ha, hwfa⟩ := sliceClears_cleared hkey rfl hit h
  have hsame : hit = [] → hit.foldl (fun s l => s.sliceClear c (128 * l) 128) s = s := by
    rintro rfl
    rfl
  generalize hit.foldl (fun s l => s.sliceClear c (128 * l) 128) s = u at hshape ha hwfa hsame
  have hu : c.touchesDiscarded o n = false → u.store { c with area := a } = s.store c := fun hd => by
    have hus := hsame (hhit hd)
    rw [hus, h] at ha
    have hca : c = { c with area := a } := Option.some.inj ha
    rw [hus, ← hca]
  -- the discarded lines that are live now
  obtain ⟨w, ds, hw, hwshape, hwctx, hwstore⟩ : ∃ (w : State) (ds : List Nat), (if hit.isEmpty then u
      else u.modCtx k (fun x => { x with discLines := x.discLines.filter (fun l => !hit.contains l) })) = w ∧ InSlices s w ∧
      w.ctx? k = some { c with area := a, discLines := ds } ∧ w.scratch = u.scratch := by
    split
    · exact ⟨u, c.discLines, rfl, hshape, ha, rfl⟩
    · refine ⟨_, c.discLines.filter (fun l => !hit.contains l), rfl, inSlices_chain.trans hshape (inSlices_modCtx u k _), ?_, ?_⟩
      · exact ctx_modCtx (f := fun x => { x with discLines := x.discLines.filter (fun l => !hit.contains l) }) ha rfl
      · rw [State.modCtx_scratch]
  rw [hw]
  by_cases hin : c.inH = true
  · rw [if_pos hin]
    have hm0 : u.store { c with area := a } = a := store_area (c := { c with area := a }) hin u
    refine ⟨{ c with area := a.writeMarks o n v marks, discLines := ds },
      inSlices_chain.trans hwshape (inSlices_modCtx w k _), ctx_modCtx hwctx rfl, rfl, a, hm0 ▸ hwfa, ?_, fun hd => hm0 ▸ hu hd⟩
    rw [Context.storeAt, if_pos hin, store_area (by exact hin)]
  · rw [if_neg hin]
    have hm0 : u.store { c with area := a } = u.scratch := store_scratch (c := { c with area := a }) hin u
    refine ⟨{ c with area := a, discLines := ds }, inSlices_chain.trans hwshape rfl, hwctx, rfl, u.scratch, hm0 ▸ hwfa, ?_,
      fun hd => hm0 ▸ hu hd⟩
    rw [Context.storeAt, if_neg hin, store_scratch (by exact hin)]
    dsimp only
    rw [hwstore]

/-! A command complete. -/

/-- A command completed, and its context woken where it waits for no other. -/
structure CmdCompleted (s t : State) (k : Key) (seq : Nat) (c : Context) (m : Cmd) (f : Option FaultInfo) (c' : Context) : Prop where
  has : HasCmd t k seq c' { m with state := .done, fault := f.map fun x => { x with engine := m.id } }
  context : c' = { c with cmds := c'.cmds, status := c'.status }
  woken : ∀ seqs n, c.status = .parked (.commands seqs) n →
    (∀ y ∈ c.cmds, y.seq ∈ seqs → y.seq = seq ∨ y.incomplete = false) → c'.status = .ready s.nextSeq
  shape : InContexts s t

theorem completeCmd_completes (h : HasCmd s k seq c m) (f : Option FaultInfo) :
    ∃ c', CmdCompleted s (s.completeCmd k seq f) k seq c m f c' := by
  obtain ⟨u, hu⟩ : ∃ u, u = s.modCmd k seq (fun m => { m with state := .done, fault := f.map fun x => { x with engine := m.id } }) := ⟨_, rfl⟩
  have hdone := hasCmd_modCmd h (f := fun m => { m with state := .done, fault := f.map fun x => { x with engine := m.id } }) fun _ => rfl
  rw [← hu] at hdone
  have hseq : u.nextSeq = s.nextSeq := by
    rw [hu]
    exact State.modCtx_nextSeq _ _ _
  obtain ⟨p, hp⟩ : ∃ p : Context → Wait → Bool, p = fun c w => match w with
      | .commands seqs => c.key == k && !c.cmds.any (fun m => seqs.contains m.seq && m.incomplete)
      | _ => false := ⟨_, rfl⟩
  have hctx := ctx_wakeWhere u p k
  rw [hdone.1, Option.map_some] at hctx
  have hexec : s.completeCmd k seq f = u.wakeWhere p := by
    rw [hp, hu]
    rfl
  obtain ⟨st, hst⟩ := wokenIf_eq p u.nextSeq (c.withCmd seq fun m => { m with state := .done, fault := f.map fun x => { x with engine := m.id } })
  refine ⟨_, ⟨by rw [hexec]; exact hctx, ?_⟩, ?_, fun seqs n hpark hall => ?_, inContexts_completeCmd s k seq f⟩
  · rw [hst]
    exact hdone.2
  · rw [hst]
    rfl
  · have hyes : p (c.withCmd seq fun m => { m with state := .done, fault := f.map fun x => { x with engine := m.id } }) (.commands seqs) =
        true := by
      rw [hp]
      dsimp only
      rw [Bool.and_eq_true, Bool.not_eq_true', List.any_eq_false]
      have hkey : (c.key == k) = true := beq_iff_eq.2 (ctx_key h.1)
      refine ⟨hkey, fun y hy => ?_⟩
      obtain ⟨y0, hy0, rfl⟩ := List.mem_map.1 hy
      rw [Bool.and_eq_true, not_and, List.contains_iff_mem]
      split
      · exact fun _ => Bool.false_ne_true
      next hne =>
        intro hmem
        rcases hall y0 hy0 hmem with hsame | hdone
        · exact absurd hsame hne
        · rw [hdone]
          exact Bool.false_ne_true
    have hstatus : (c.withCmd seq fun m => { m with state := .done, fault := f.map fun x => { x with engine := m.id } }).status =
        .parked (.commands seqs) n := hpark
    rw [Context.wokenIf, hstatus]
    dsimp only
    rw [if_pos hyes, hseq, Context.wake, hstatus]

end
end Sys2Proof.Machine
end

section
/-! PROOFS. Matrix commands run (R53 to R55, R57, R179 to R181, R269 to R271); O44. -/
namespace Sys2Proof.Machine
open Sys2Proof.Claims

section
variable {s t : State} {k : Key} {seq : Nat} {c : Context} {m : Cmd} {a b : Word}

/-! Started and completed. -/

theorem matrixCommandStart_starts (h : HasCmd s k seq c m) (hfirst : FirstReady s c m CmdKind.isMatrix)
    (hbusy : s.coreCmds c.core (fun _ y => y.kind.isMatrix && y.state == .started) = []) :
    ∃ (t : State) (c' : Context), Leads (.matrixCommandStart k seq) s t ∧ HasCmd t k seq c' { m with state := .started } ∧ t.acc = s.acc ∧
      t.scratch = s.scratch ∧ t.mem = s.mem := by
  obtain ⟨hkind, hready, hnone⟩ := hfirst
  have hexec : matrixCommandStart k seq s = s.modCmd k seq (fun m => { m with state := .started }) := by
    rw [matrixCommandStart, h.1]
    dsimp only
    rw [h.2]
    dsimp only
    rw [hkind, hready, hbusy, hnone]
    rfl
  have hin := inContexts_modCmd s k seq (fun m => { m with state := .started })
  exact ⟨_, _, congrArg Host.Outcome.next hexec, hasCmd_modCmd h fun _ => rfl, by rw [hin], by rw [hin], by rw [hin]⟩

/-- Only accumulators, a scratchpad's bytes and contexts differ. -/
def InTiles (s t : State) : Prop := t = { s with acc := t.acc, scratch := t.scratch, cur := t.cur, ctxs := t.ctxs }

/-- The command's context after its work. -/
structure MatrixRun (s t : State) (k : Key) (c c1 : Context) : Prop where
  shape : InTiles s t
  has : t.ctx? k = some c1
  context : c1 = { c with discLines := c1.discLines, area := c1.area }

theorem matrixRun_acc (h : s.ctx? k = some c) (acc : Mem) : MatrixRun s { s with acc := acc } k c c := ⟨rfl, h, rfl⟩

theorem tileZero_eq (s : State) (c : Context) (tile : Nat) : ∃ acc, s.tileZero c tile = { s with acc := acc } := ⟨_, rfl⟩

theorem runScale_eq (s : State) (c : Context) (a b : Word) : ∃ acc, s.runScale c a b = { s with acc := acc } := by
  rw [State.runScale]
  dsimp only
  split
  · exact tileFill_eq (s.tileZero c _) c _ _
  · exact tileFill_eq s c _ _

theorem runLoad_eq (s : State) (c : Context) (a b : Word) : ∃ acc, s.runLoad c a b = { s with acc := acc } := tileFill_eq s c _ _

theorem runMatrix_runs (h : s.ctx? k = some c) (m : Cmd) : ∃ c1, MatrixRun s (s.runMatrix c m) k c c1 := by
  have hacc {t : State} (ht : ∃ acc, t = { s with acc := acc }) : ∃ c1, MatrixRun s t k c c1 := by
    obtain ⟨acc, rfl⟩ := ht
    exact ⟨c, matrixRun_acc h acc⟩
  rw [State.runMatrix]
  split
  · exact hacc (tileZero_eq s c _)
  · exact hacc (runMma_eq s c _ _ _ _ _)
  · exact hacc (runScale_eq s c _ _)
  · exact hacc (runLoad_eq s c _ _)
  · obtain ⟨c1, hshape, hhas, hctx, -⟩ := sliceWrite_written h _ _ _ _
    rw [State.runStore, ctx_key h]
    exact ⟨c1, hshape.trans (by rw [hshape]), hhas, hctx⟩
  · exact ⟨c, rfl, h, rfl⟩

theorem matrixRun_cmd {c1 : Context} (h : HasCmd s k seq c m) (hr : MatrixRun s t k c c1) : HasCmd t k seq c1 m :=
  ⟨hr.has, by rw [hr.context]; exact h.2⟩

/-- A command that completes has done its work. -/
theorem matrixCommandComplete_completes (h : HasCmd s k seq c m) (hkind : m.kind.isMatrix = true) (hstart : m.state = .started) :
    ∃ (t : State) (c1 c' : Context), Leads (.matrixCommandComplete k seq) s t ∧ MatrixRun s (s.runMatrix c m) k c c1 ∧
      CmdCompleted (s.runMatrix c m) t k seq c1 m none c' := by
  obtain ⟨c1, hrun⟩ := runMatrix_runs h.1 m
  obtain ⟨c', hdone⟩ := completeCmd_completes (matrixRun_cmd h hrun) none
  have hexec : matrixCommandComplete k seq s = (s.runMatrix c m).completeCmd k seq none := by
    rw [matrixCommandComplete, h.1]
    dsimp only
    rw [h.2]
    dsimp only
    rw [hkind, hstart]
    rfl
  exact ⟨_, c1, c', congrArg Host.Outcome.next hexec, hrun, hdone⟩

theorem matrixCommandComplete_ends (h : HasCmd s k seq c m) (hkind : m.kind.isMatrix = true) (hstart : m.state = .started) :
    ∃ (t : State) (c' : Context), Leads (.matrixCommandComplete k seq) s t ∧ HasCmd t k seq c' { m with state := .done, fault := none } ∧
      t.acc = (s.runMatrix c m).acc ∧ t.scratch = (s.runMatrix c m).scratch ∧ t.mem = s.mem ∧ t.md = s.md ∧
      ∀ seqs n, c.status = .parked (.commands seqs) n →
        (∀ y ∈ c.cmds, y.seq ∈ seqs → y.seq = seq ∨ y.incomplete = false) → c'.status = .ready s.nextSeq := by
  obtain ⟨t, c1, c', hleads, ⟨hshape, -, hctx⟩, ⟨hhas, -, hwoken, hin⟩⟩ := matrixCommandComplete_completes h hkind hstart
  refine ⟨t, c', hleads, hhas, by rw [hin], by rw [hin], ?_, ?_, fun seqs n hpark hall => ?_⟩
  · rw [hin, hshape]
  · rw [hin, hshape]
  · have hnext : (s.runMatrix c m).nextSeq = s.nextSeq := by rw [hshape]
    rw [← hnext]
    exact hwoken seqs n (by rw [hctx]; exact hpark) (by rw [hctx]; exact hall)

/-- What a command leaves of the accumulators, where its work is in them alone. -/
theorem matrix_leaves (h : HasCmd s k seq c m) (hkind : m.kind.isMatrix = true) (hstart : m.state = .started) :
    ∃ t, Leads (.matrixCommandComplete k seq) s t ∧ t.acc = (s.runMatrix c m).acc ∧ t.scratch = (s.runMatrix c m).scratch ∧ t.mem = s.mem := by
  obtain ⟨t, -, hleads, -, hacc, hscratch, hmem, -⟩ := matrixCommandComplete_ends h hkind hstart
  exact ⟨t, hleads, hacc, hscratch, hmem⟩

theorem tileWordOf_acc (h : t.acc = s.acc) (c : Context) (tile w : Nat) : t.tileWordOf c tile w = s.tileWordOf c tile w := by
  rw [State.tileWordOf, State.tileRead, h, State.tileWordOf, State.tileRead]

theorem tileRead_fst (s : State) (c : Context) (tile w : Nat) : s.tileRead c tile w = (s.tileWordOf c tile w).1 := rfl

theorem mzero_zeroes {tile : Nat} (h : HasCmd s k seq c m) (hkind : m.kind = .mzero tile) (hstart : m.state = .started)
    (hwf : s.acc.wf = true) : ∃ t : State, Leads (.matrixCommandComplete k seq) s t ∧ (∀ w, w < 4096 → t.tileRead c tile w = 0) ∧
      ∀ a, (a < c.tileWord tile 0 ∨ c.tileWord tile 4096 ≤ a) → t.acc.cells.read a = s.acc.cells.read a := by
  obtain ⟨t, hleads, hacc, -, -⟩ := matrix_leaves h (by rw [hkind]; rfl) hstart
  rw [State.runMatrix, hkind] at hacc
  refine ⟨t, hleads, fun w hw => ?_, fun x hx => ?_⟩
  · rw [tileRead_fst, tileWordOf_acc hacc, tileZero_word hwf hw]
  · rw [hacc]
    rw [tileWord_eq c tile 4096] at hx
    exact Memory.read_clear_apart (by omega) _

/-! MMA (R53 to R55). -/

theorem any_or {α : Type} (l : List α) (p q : α → Bool) : (l.any p || l.any q) = l.any fun x => p x || q x := by
  rw [Bool.eq_iff_iff]
  simp only [Bool.or_eq_true, List.any_eq_true, and_or_left, exists_or]

section
variable {v : View} {i j g0 n : Nat} {acc : Nat × Bool}

/-- An element of A, and of B, of an MMA. -/
abbrev State.mmaA (s : State) (c : Context) (v : View) (b : Word) (i q : Nat) : FValue × Bool := s.aElement c v (wbits b 4 5) i q

abbrev State.mmaB (s : State) (c : Context) (a b : Word) (q j : Nat) : FValue × Bool := s.bElement c (wbits a 0 21) (wbits b 9 5) q j

theorem mmaElement_zero : s.mmaElement c v a b i j g0 0 acc = acc := rfl

theorem mmaElement_succ : s.mmaElement c v a b i j g0 (n + 1) acc =
    (addGroup (isIntFmt (wbits b 4 5) && isIntFmt (wbits b 9 5)) (s.mmaElement c v a b i j g0 n acc).1
      ((List.range 8).map fun e => (s.mmaA c v b i (8 * (g0 + n) + e)).1) ((List.range 8).map fun e => (s.mmaB c a b (8 * (g0 + n) + e) j).1),
     (s.mmaElement c v a b i j g0 n acc).2 ||
      (List.range 8).any fun e => (s.mmaA c v b i (8 * (g0 + n) + e)).2 || (s.mmaB c a b (8 * (g0 + n) + e) j).2) := by
  rw [State.mmaElement, List.range_succ (n := n), List.foldl_append, List.foldl_cons, List.foldl_nil, ← State.mmaElement]
  dsimp only
  simp only [List.map_map, List.any_map, Function.comp_def, Bool.or_assoc]
  rw [any_or]

theorem foldl_sum {α : Type} (f : α → Int) (l : List α) (x : Int) : l.foldl (fun t y => t + f y) x = x + (l.map f).sum := by
  induction l generalizing x with
  | nil => exact (Int.add_zero x).symm
  | cons y l ih => rw [List.foldl_cons, ih, List.map_cons, List.sum_cons, Int.add_assoc]

theorem addGroup_int (x : Nat) (f g : Nat → FValue) (l : List Nat) :
    ((addGroup true x (l.map f) (l.map g) : Nat) : Int) % 2 ^ 32 =
      ((x : Int) + (l.map fun e => (f e).dyadic.1 * (g e).dyadic.1).sum) % 2 ^ 32 := by
  rw [addGroup, if_pos rfl, List.zip_map', foldl_sum, List.map_map, Int.zero_add, unsignedOf]
  dsimp only [Function.comp_def]
  generalize (x : Int) + _ = y
  omega

theorem addGroup_float (x : Nat) (f g : Nat → FValue) (l : List Nat) :
    addGroup false x (l.map f) (l.map g) = addWord x (groupSum (l.map fun e => product [f e, g e])) := by
  rw [addGroup, if_neg Bool.false_ne_true, List.zip_map', List.map_map]
  rfl

/-- The places of the next group. -/
theorem range_group (n : Nat) : List.range (8 * (n + 1)) = List.range (8 * n) ++ (List.range 8).map (8 * n + ·) := by
  rw [Nat.mul_add, Nat.mul_one, List.range_add]

theorem mmaElement_int (ha : isIntFmt (wbits b 4 5) = true) (hb : isIntFmt (wbits b 9 5) = true) :
    ((s.mmaElement c v a b i j g0 n acc).1 : Int) % 2 ^ 32 = ((acc.1 : Int) + ((List.range (8 * n)).map fun q =>
      (s.mmaA c v b i (8 * g0 + q)).1.dyadic.1 * (s.mmaB c a b (8 * g0 + q) j).1.dyadic.1).sum) % 2 ^ 32 := by
  induction n with
  | zero =>
    rw [mmaElement_zero]
    simp
  | succ n ih =>
    rw [mmaElement_succ, ha, hb, Bool.and_true, addGroup_int, range_group, List.map_append, List.sum_append, List.map_map]
    simp only [Function.comp_def, Nat.mul_add, Nat.add_assoc] at ih ⊢
    omega

theorem mmaElement_float (h : (isIntFmt (wbits b 4 5) && isIntFmt (wbits b 9 5)) = false) (d : Nat) :
    (s.mmaElement c v a b i j g0 (d + 1) acc).1 = addWord (s.mmaElement c v a b i j g0 d acc).1 (groupSum ((List.range 8).map fun e =>
      product [(s.mmaA c v b i (8 * (g0 + d) + e)).1, (s.mmaB c a b (8 * (g0 + d) + e) j).1])) := by
  rw [mmaElement_succ, h, addGroup_float]

theorem mmaElement_mark : (s.mmaElement c v a b i j g0 n acc).2 = (acc.2 || (List.range (8 * n)).any fun q =>
    (s.mmaA c v b i (8 * g0 + q)).2 || (s.mmaB c a b (8 * g0 + q) j).2) := by
  induction n with
  | zero =>
    rw [mmaElement_zero]
    exact (Bool.or_false _).symm
  | succ n ih =>
    rw [mmaElement_succ, range_group, List.any_append, List.any_map]
    dsimp only
    rw [ih, Bool.or_assoc]
    simp only [Function.comp_def, Nat.mul_add, Nat.add_assoc]

end

/-- An element of the tile an MMA leaves. -/
theorem mma_word {view : BitVec 256} (h : HasCmd s k seq c m) (hkind : m.kind = .mma view a b) (hstart : m.state = .started)
    (hwf : s.acc.wf = true) : ∃ t : State, Leads (.matrixCommandComplete k seq) s t ∧ t.scratch = s.scratch ∧ t.mem = s.mem ∧
      ∀ i j, i < 64 → j < 64 → t.tileWordOf c (wbits b 0 4) (64 * i + j) =
        (let e := s.mmaElement c (viewOf view) a b i j m.groups (wbits a 32 16 - m.groups)
          (if b.getLsbD 35 && decide (m.groups = 0) then (0, false) else s.tileWordOf c (wbits b 0 4) (64 * i + j))
         (e.1 % 2 ^ 32, e.2)) := by
  obtain ⟨t, hleads, hacc, hscratch, hmem⟩ := matrix_leaves h (by rw [hkind]; rfl) hstart
  have hrun : s.runMatrix c m = s.runMma c view a b m.groups (wbits a 32 16 - m.groups) := by rw [State.runMatrix, hkind]
  rw [hrun] at hacc hscratch
  obtain ⟨acc, hshape⟩ := runMma_eq s c view a b m.groups (wbits a 32 16 - m.groups)
  refine ⟨t, hleads, by rw [hscratch, hshape], hmem, fun i j hi hj => ?_⟩
  rw [tileWordOf_acc hacc, State.runMma]
  dsimp only
  rw [tileFill_word hwf _ (by omega), show (64 * i + j) / 64 = i by omega, show (64 * i + j) % 64 = j by omega]

theorem mma_integer {view : BitVec 256} (h : HasCmd s k seq c m) (hkind : m.kind = .mma view a b) (hstart : m.state = .started)
    (hgroups : m.groups = 0) (hwf : s.acc.wf = true) (ha : isIntFmt (wbits b 4 5) = true) (hb : isIntFmt (wbits b 9 5) = true) :
    ∃ t : State, Leads (.matrixCommandComplete k seq) s t ∧ ∀ i j, i < 64 → j < 64 →
      t.tileRead c (wbits b 0 4) (64 * i + j) =
        (((if b.getLsbD 35 then 0 else (s.tileRead c (wbits b 0 4) (64 * i + j) : Int)) +
          ((List.range (8 * wbits a 32 16)).map (fun q =>
            (s.aElement c (viewOf view) (wbits b 4 5) i q).1.dyadic.1 *
            (s.bElement c (wbits a 0 21) (wbits b 9 5) q j).1.dyadic.1)).sum) % 2 ^ 32).toNat := by
  obtain ⟨t, hleads, -, -, hword⟩ := mma_word h hkind hstart hwf
  refine ⟨t, hleads, fun i j hi hj => ?_⟩
  rw [tileRead_fst, hword i j hi hj, hgroups, Nat.sub_zero, decide_eq_true rfl, Bool.and_true]
  have hold : ((if b.getLsbD 35 = true then (0, false) else s.tileWordOf c (wbits b 0 4) (64 * i + j)).1 : Int) =
      if b.getLsbD 35 then 0 else (s.tileRead c (wbits b 0 4) (64 * i + j) : Int) := by
    split <;> rfl
  have hsum := mmaElement_int (s := s) (c := c) (v := viewOf view) (a := a) (i := i) (j := j) (g0 := 0) (n := wbits a 32 16)
    (acc := if b.getLsbD 35 = true then (0, false) else s.tileWordOf c (wbits b 0 4) (64 * i + j)) ha hb
  rw [hold] at hsum
  simp only [Nat.mul_zero, Nat.zero_add] at hsum
  rw [← hsum]
  dsimp only
  omega

theorem mma_runs {view : BitVec 256} (h : RunsMatrix s k seq c m) (hkind : m.kind = .mma view a b) :
    let tile := wbits b 0 4
    let groups := wbits a 32 16 - m.groups
    let zeroed := b.getLsbD 35 && decide (m.groups = 0)
    let x (i q : Nat) := s.aElement c (viewOf view) (wbits b 4 5) i q
    let y (q j : Nat) := s.bElement c (wbits a 0 21) (wbits b 9 5) q j
    ∃ t : State, Leads (.matrixCommandComplete k seq) s t ∧ t.scratch = s.scratch ∧ t.mem = s.mem ∧
      ∀ i j, i < 64 → j < 64 →
        ((isIntFmt (wbits b 4 5) && isIntFmt (wbits b 9 5)) = false → ∃ f : Nat → Nat,
          f 0 = (wordBefore s c zeroed tile (64 * i + j)).1 ∧
          (∀ d, f (d + 1) = addWord (f d) (groupSum ((List.range 8).map (fun e =>
            product [(x i (8 * (m.groups + d) + e)).1, (y (8 * (m.groups + d) + e) j).1])))) ∧
          t.tileRead c tile (64 * i + j) = f groups % 2 ^ 32) ∧
        (t.tileWordOf c tile (64 * i + j)).2 = ((wordBefore s c zeroed tile (64 * i + j)).2 ||
          (List.range (8 * groups)).any (fun q => (x i (8 * m.groups + q)).2 || (y (8 * m.groups + q) j).2)) := by
  intro tile groups zeroed x y
  obtain ⟨hhas, hstart, hwf⟩ := h
  obtain ⟨t, hleads, hscratch, hmem, hword⟩ := mma_word hhas hkind hstart hwf
  refine ⟨t, hleads, hscratch, hmem, fun i j hi hj => ⟨fun hint => ?_, ?_⟩⟩
  · refine ⟨fun d => (s.mmaElement c (viewOf view) a b i j m.groups d (wordBefore s c zeroed tile (64 * i + j))).1, rfl,
      fun d => mmaElement_float hint d, ?_⟩
    rw [tileRead_fst, hword i j hi hj]
    rfl
  · rw [hword i j hi hj]
    exact mmaElement_mark

/-! Scaling, loads and stores of a tile (R57, R181, R270, R271). -/

theorem mscaleacc_runs (h : RunsMatrix s k seq c m) (hkind : m.kind = .mscaleacc a b) :
    let tile := wbits b 0 4
    let source := wbits b 4 4
    let zf := b.getLsbD 35
    ∃ t : State, Leads (.matrixCommandComplete k seq) s t ∧ t.scratch = s.scratch ∧ t.mem = s.mem ∧ ∀ w, w < 4096 →
      (source = tile ∨ (c.tileMap[source]?).getD 0 ≠ (c.tileMap[tile]?).getD 0) →
      (let x := wordBefore s c (zf && decide (source = tile)) source w
       let old := wordBefore s c zf tile w
       let row := scaleAt s c (wbits a 0 21) (wbits a 21 5) (w / 64)
       let col := scaleAt s c (wbits a 29 21) (wbits a 50 5) (w % 64)
       t.tileWordOf c tile w =
         (addWord old.1 (product [wordValue (b.getLsbD 32) x.1, row.1, col.1]) % 2 ^ 32, old.2 || x.2 || row.2 || col.2)) := by
  intro tile source zf
  obtain ⟨hhas, hstart, hwf⟩ := h
  obtain ⟨t, hleads, hacc, hscratch, hmem⟩ := matrix_leaves hhas (by rw [hkind]; rfl) hstart
  have hrun : s.runMatrix c m = s.runScale c a b := by rw [State.runMatrix, hkind]
  rw [hrun] at hacc hscratch
  obtain ⟨acc, hshape⟩ := runScale_eq s c a b
  refine ⟨t, hleads, by rw [hscratch, hshape], hmem, fun w hw hapart => ?_⟩
  obtain ⟨s0, hs0⟩ : ∃ s0, s0 = if zf then s.tileZero c tile else s := ⟨_, rfl⟩
  have hs0wf : s0.acc.wf = true := by
    rw [hs0]
    split
    · exact Mem.wf_clear _ _ hwf
    · exact hwf
  have hold : s0.tileWordOf c tile w = wordBefore s c zf tile w := by
    rw [hs0, wordBefore]
    split
    · exact tileZero_word hwf hw
    · rfl
  have hx : s0.tileWordOf c source w = wordBefore s c (zf && decide (source = tile)) source w := by
    by_cases heq : source = tile
    · rw [decide_eq_true heq, Bool.and_true, heq, hold]
    · rw [decide_eq_false heq, Bool.and_false, wordBefore, if_neg Bool.false_ne_true, hs0]
      split
      · exact tileZero_other (hapart.resolve_left heq) hw
      · rfl
  rw [tileWordOf_acc hacc, State.runScale]
  dsimp only
  rw [← hold, ← hx]
  have hfill : ∀ f, ((if b.getLsbD 35 = true then s.tileZero c (wbits b 0 4) else s).tileFill c tile f).tileWordOf c tile w =
      ((f w).1 % 2 ^ 32, (f w).2) := fun f => by
    rw [← tileFill_word hs0wf f hw, hs0]
  rw [hfill, hs0]
  rfl

theorem mload_runs (h : RunsMatrix s k seq c m) (hkind : m.kind = .mload a b) :
    let fmt := wbits a 21 5
    ∃ t : State, Leads (.matrixCommandComplete k seq) s t ∧ t.scratch = s.scratch ∧ t.mem = s.mem ∧ ∀ w, w < 4096 →
      (let e := s.runElem c (wbits a 0 21) (fmtWidth fmt) w
       t.tileWordOf c (wbits b 0 4) w =
         (if isIntFmt fmt then unsignedOf 32 (intValue fmt e.1) else (fp32.convert rne false (elemValue fmt e.1)).code % 2 ^ 32,
           e.2)) := by
  intro fmt
  obtain ⟨hhas, hstart, hwf⟩ := h
  obtain ⟨t, hleads, hacc, hscratch, hmem⟩ := matrix_leaves hhas (by rw [hkind]; rfl) hstart
  have hrun : s.runMatrix c m = s.runLoad c a b := by rw [State.runMatrix, hkind]
  rw [hrun] at hacc hscratch
  obtain ⟨acc, hshape⟩ := runLoad_eq s c a b
  refine ⟨t, hleads, by rw [hscratch, hshape], hmem, fun w hw => ?_⟩
  rw [tileWordOf_acc hacc, State.runLoad]
  dsimp only
  rw [tileFill_word hwf _ hw]
  by_cases hint : isIntFmt fmt = true
  · rw [if_pos hint, if_pos hint, Nat.mod_eq_of_lt]
    rw [unsignedOf]
    omega
  · rw [if_neg hint, if_neg hint]

end
end Sys2Proof.Machine
end

section
/-! PROOFS. MSTORE (R181, R271), and O44 put together. -/
namespace Sys2Proof.Machine
open Sys2Proof.Claims

section
variable {s t : State} {k : Key} {seq : Nat} {c : Context} {m : Cmd} {a b icount seed : Word}

/-! Bytes and marks written one by one. -/

theorem Memory.read_writes_at (a n j : Nat) (f : Nat → Byte) {m : Memory} (hm : m.wf = true) (hj : j < n) :
    ((List.range n).foldl (fun k i => k.write (a + i) (f i)) m).read (a + j) = f j := by
  induction n with
  | zero => exact absurd hj (Nat.not_lt_zero j)
  | succ n ih =>
    rw [List.range_succ, List.foldl_append, List.foldl_cons, List.foldl_nil]
    have hwf := Memory.writes_wf (a + ·) f (List.range n) hm
    by_cases hn : j = n
    · rw [hn, Memory.read_write hwf, if_pos rfl]
    · rw [Memory.read_write_of_ne (by omega), ih (by omega)]

theorem markBits_fold (p : Nat → Prop) [DecidablePred p] (l : List Nat) (x : Nat) :
    x ≤ l.foldl (fun acc i => if p i then acc + 2 ^ i else acc) x ∧
    ((∃ i ∈ l, p i) → 0 < l.foldl (fun acc i => if p i then acc + 2 ^ i else acc) x) := by
  induction l generalizing x with
  | nil => exact ⟨Nat.le_refl x, fun ⟨i, hi, _⟩ => absurd hi List.not_mem_nil⟩
  | cons y l ih =>
    rw [List.foldl_cons]
    obtain ⟨hle, hpos⟩ := ih (if p y then x + 2 ^ y else x)
    have hy : p y → 0 < if p y then x + 2 ^ y else x := fun h => by
      rw [if_pos h]
      exact Nat.lt_of_lt_of_le (Nat.two_pow_pos y) (Nat.le_add_left _ x)
    refine ⟨Nat.le_trans (by split; exacts [Nat.le_add_right _ _, Nat.le_refl x]) hle, ?_⟩
    rintro ⟨i, hi, hp⟩
    rcases List.mem_cons.1 hi with rfl | hi
    · exact Nat.lt_of_lt_of_le (hy hp) hle
    · exact hpos ⟨i, hi, hp⟩

theorem anyMark_of_read {m : Mem} {x n i : Nat} (hi : i < n) (h : m.marks.read (x + i) ≠ 0) : anyMark (m.markBits x n) = true :=
  decide_eq_true (Nat.ne_of_gt ((markBits_fold _ _ _).2 ⟨i, List.mem_range.2 hi, h⟩))

/-! Elements of a run written whole. -/

theorem div_mod_inner {x i j w : Nat} (h : j + w ≤ i) : x % 2 ^ i / 2 ^ j % 2 ^ w = x / 2 ^ j % 2 ^ w := by
  refine Nat.eq_of_testBit_eq fun e => ?_
  simp only [Nat.testBit_mod_two_pow, Nat.testBit_div_two_pow]
  by_cases he : e < w
  · rw [decide_eq_true (show e + j < i by omega), Bool.true_and]
  · rw [decide_eq_false he, Bool.false_and, Bool.false_and]

/-- The bits of an element lie in the bytes of it. -/
theorem element_place (e w : Nat) : 8 * (e * w / 8) + e * w % 8 = e * w ∧ e * w % 8 + w ≤ 8 * ((e * w + w + 7) / 8 - e * w / 8) := by
  generalize e * w = y
  omega

theorem element_inside {e w : Nat} (he : e < 4096) : e * w / 8 + ((e * w + w + 7) / 8 - e * w / 8) ≤ 512 * w := by
  have hle : e * w + w ≤ 4096 * w := by
    have := Nat.mul_le_mul_right w (Nat.succ_le_of_lt he)
    rwa [Nat.succ_mul] at this
  generalize e * w = y at hle
  omega

/-- An element of a run that has been written. -/
theorem runElem_written {m0 : Mem} (hwf : m0.wf = true) {off w v marks e : Nat}
    (hstore : t.store c = m0.writeMarks (c.storeAt off) (512 * w) v marks) (he : e < 4096) :
    (t.runElem c off w e).1 = v / 2 ^ (e * w) % 2 ^ w ∧
    (w ≠ 0 → marks / 2 ^ (e * w / 8) % 2 = 1 → (t.runElem c off w e).2 = true) := by
  obtain ⟨hplace, hbits⟩ := element_place e w
  have hinside := element_inside (w := w) he
  obtain ⟨hcells, hmarks⟩ := Mem.wf_iff.1 hwf
  rw [State.runElem]
  dsimp only
  rw [sliceRead_store, sliceMarks_store, storeAt_add, hstore]
  refine ⟨?_, fun hw hmark => ?_⟩
  · have hread : (m0.writeMarks (c.storeAt off) (512 * w) v marks).readN (c.storeAt off + e * w / 8) ((e * w + w + 7) / 8 - e * w / 8) =
        v / 2 ^ (8 * (e * w / 8)) % 2 ^ (8 * ((e * w + w + 7) / 8 - e * w / 8)) :=
      Memory.readN_writeN_inside _ _ _ _ _ hcells hinside
    rw [hread, bitsOf, div_mod_inner hbits, Nat.div_div_eq_div_mul, ← Nat.pow_add, hplace]
  · refine anyMark_of_read (i := 0) (by omega) ?_
    have hread := Memory.read_writes_at (c.storeAt off) (512 * w) (e * w / 8) (fun i => if marks / 2 ^ i % 2 = 1 then 1 else 0)
      hmarks (by omega)
    rw [Nat.add_zero, Mem.writeMarks, hread, if_pos hmark]
    decide

/-! What MSTORE writes. -/

/-- The codes of a tile's words (R181). -/
def State.storeCodes (s : State) (c : Context) (a b icount seed : Word) : List Nat :=
  (List.range 4096).map fun e =>
    (convertTo (wbits a 21 5) { mode := wbits a 26 3, seed := seed.toNat, icount := icount.toNat, elem := e } (a.getLsbD 29)
      (wordValue (b.getLsbD 32) (s.tileWordOf c (wbits b 0 4) e).1)).code

/-- All the bits of each element whose word is marked. -/
def State.storeOnes (s : State) (c : Context) (w : Nat) (b : Word) : Nat :=
  packList w ((List.range 4096).map fun e => if (s.tileWordOf c (wbits b 0 4) e).2 then 2 ^ w - 1 else 0)

/-- The marks of the bytes of the run. -/
def State.storeMarks (s : State) (c : Context) (w : Nat) (b : Word) : Nat :=
  packList 1 ((List.range (512 * w)).map (fun i => if bitsOf (s.storeOnes c w b) (8 * i) 8 = 0 then 0 else 1))

theorem runStore_eq (s : State) (c : Context) (a b icount seed : Word) : s.runStore c a b icount seed =
    s.sliceWrite c.key (wbits a 0 21) (512 * fmtWidth (wbits a 21 5))
      (packList (fmtWidth (wbits a 21 5)) (s.storeCodes c a b icount seed)) (s.storeMarks c (fmtWidth (wbits a 21 5)) b) := by
  have hcodes : (List.zip (List.range 4096) ((List.range 4096).map (fun e => s.tileWordOf c (wbits b 0 4) e))).map (fun p =>
      (convertTo (wbits a 21 5) { mode := wbits a 26 3, seed := seed.toNat, icount := icount.toNat, elem := p.1 } (a.getLsbD 29)
        (wordValue (b.getLsbD 32) p.2.1)).code) = s.storeCodes c a b icount seed := by
    rw [State.storeCodes]
    generalize List.range 4096 = l
    induction l with
    | nil => rfl
    | cons e l ih => rw [List.map_cons, List.zip_cons_cons, List.map_cons, List.map_cons, ih]
  have hones : packList (fmtWidth (wbits a 21 5)) (((List.range 4096).map (fun e => s.tileWordOf c (wbits b 0 4) e)).map
      (fun x => if x.2 then 2 ^ fmtWidth (wbits a 21 5) - 1 else 0)) = s.storeOnes c (fmtWidth (wbits a 21 5)) b := by
    rw [List.map_map]
    rfl
  rw [State.runStore, hcodes, hones]
  rfl

theorem storeMarks_set {w e : Nat} (he : e < 4096) (hw : w ≠ 0) (h : (s.tileWordOf c (wbits b 0 4) e).2 = true) :
    s.storeMarks c w b / 2 ^ (e * w / 8) % 2 = 1 := by
  have hin := element_inside (w := w) he
  obtain ⟨hplace, hbits⟩ := element_place e w
  have hlen : e * w / 8 < 512 * w := by omega
  have hones : s.storeOnes c w b / 2 ^ (w * e) % 2 ^ w = 2 ^ w - 1 := by
    rw [State.storeOnes, packList_elem _ _ _ (by rw [List.length_map, List.length_range]; exact he), List.getElem_map,
      List.getElem_range, if_pos h, Nat.mod_eq_of_lt (Nat.sub_lt (Nat.two_pow_pos w) Nat.one_pos)]
  -- the first bit of the element is set, and it lies in this byte
  have hbit : (s.storeOnes c w b).testBit (e * w) = true := by
    have h0 : (s.storeOnes c w b / 2 ^ (w * e) % 2 ^ w).testBit 0 = true := by
      rw [hones, Nat.testBit_two_pow_sub_one, decide_eq_true (Nat.pos_of_ne_zero hw)]
    rwa [Nat.testBit_mod_two_pow, Nat.testBit_div_two_pow, Nat.zero_add, decide_eq_true (Nat.pos_of_ne_zero hw), Bool.true_and,
      Nat.mul_comm] at h0
  have hbyte : bitsOf (s.storeOnes c w b) (8 * (e * w / 8)) 8 ≠ 0 := by
    intro hz
    have hb : (bitsOf (s.storeOnes c w b) (8 * (e * w / 8)) 8).testBit (e * w % 8) = true := by
      rw [bitsOf, Nat.testBit_mod_two_pow, Nat.testBit_div_two_pow, Nat.add_comm, hplace, hbit, decide_eq_true (Nat.mod_lt _ (by decide))]
      rfl
    rw [hz, Nat.zero_testBit] at hb
    exact Bool.false_ne_true hb
  have helem := packList_elem 1 ((List.range (512 * w)).map (fun i => if bitsOf (s.storeOnes c w b) (8 * i) 8 = 0 then 0 else 1))
    (e * w / 8) (by rw [List.length_map, List.length_range]; exact hlen)
  rw [List.getElem_map, List.getElem_range, if_neg hbyte, Nat.one_mul] at helem
  exact helem

theorem store_congr {c' : Context} (hin : c'.inH = c.inH) (harea : c'.area = c.area) (hs : t.scratch = s.scratch) :
    t.store c' = s.store c := by
  rw [State.store, State.store, hin, harea, hs]

theorem mstore_runs (h : RunsMatrix s k seq c m) (hkind : m.kind = .mstore a b icount seed) (hscratch : s.scratch.wf = true)
    (harea : c.area.wf = true) :
    let fmt := wbits a 21 5
    let off := wbits a 0 21
    let n := 512 * fmtWidth fmt
    ∃ (t : State) (c' : Context), Leads (.matrixCommandComplete k seq) s t ∧
      HasCmd t k seq c' { m with state := .done, fault := none } ∧ t.acc = s.acc ∧ t.mem = s.mem ∧
      (∀ e, e < 4096 →
        (let x := s.tileWordOf c (wbits b 0 4) e
         (t.runElem c' off (fmtWidth fmt) e).1 =
           (convertTo fmt { mode := wbits a 26 3, seed := seed.toNat, icount := icount.toNat, elem := e } (a.getLsbD 29)
             (wordValue (b.getLsbD 32) x.1)).code % 2 ^ fmtWidth fmt ∧
         (x.2 = true → fmtWidth fmt ≠ 0 → (t.runElem c' off (fmtWidth fmt) e).2 = true))) ∧
      (c.inH = false → c.touchesDiscarded off n = false → ∀ p, (p < c.sliceBase + off ∨ c.sliceBase + off + n ≤ p) →
        t.scratch.cells.read p = s.scratch.cells.read p) := by
  intro fmt off n
  obtain ⟨hhas, hstart, -⟩ := h
  obtain ⟨t, c1, c', hleads, hrun, ⟨hdone, hctx, -, hin⟩⟩ := matrixCommandComplete_completes hhas (by rw [hkind]; rfl) hstart
  have hwork : s.runMatrix c m = s.sliceWrite k off n (packList (fmtWidth fmt) (s.storeCodes c a b icount seed))
      (s.storeMarks c (fmtWidth fmt) b) := by
    rw [State.runMatrix, hkind]
    dsimp only
    rw [runStore_eq, ctx_key hhas.1]
  obtain ⟨c2, hshape, hhas2, hctx2, m0, hm0, hstore, hlive⟩ := sliceWrite_written hhas.1 off n
    (packList (fmtWidth fmt) (s.storeCodes c a b icount seed)) (s.storeMarks c (fmtWidth fmt) b)
  rw [← hwork] at hshape hhas2 hstore
  obtain rfl : c1 = c2 := Option.some.inj (hrun.has.symm.trans hhas2)
  have hwf0 : m0.wf = true := hm0 (by rw [State.store]; split <;> assumption)
  have hat : c'.storeAt off = c.storeAt off := by rw [hctx, hctx2]; rfl
  have hscr : t.scratch = (s.runMatrix c m).scratch := by rw [hin]
  have hstore' : t.store c' = m0.writeMarks (c'.storeAt off) n (packList (fmtWidth fmt) (s.storeCodes c a b icount seed))
      (s.storeMarks c (fmtWidth fmt) b) := by
    rw [hat, ← hstore]
    exact store_congr (by rw [hctx]; rfl) (by rw [hctx]) hscr
  refine ⟨t, c', hleads, hdone, by rw [hin, hshape], by rw [hin, hshape], fun e he => ?_, fun hh hdisc p hp => ?_⟩
  · obtain ⟨hcode, hmark⟩ := runElem_written hwf0 hstore' he
    refine ⟨hcode.trans ?_, fun hx hw => hmark hw (storeMarks_set he hw hx)⟩
    rw [Nat.mul_comm e, packList_elem _ _ _ (by rw [State.storeCodes, List.length_map, List.length_range]; exact he)]
    simp only [State.storeCodes, List.getElem_map, List.getElem_range]
    rfl
  · have hno : ¬ c.inH = true := by rw [hh]; exact Bool.false_ne_true
    have hno1 : ¬ c1.inH = true := by rw [hctx2]; exact hno
    have hplace : c.storeAt off = c.sliceBase + off := if_neg hno
    have hlive' := hlive hdisc
    rw [store_scratch hno] at hlive'
    rw [store_scratch hno1, hplace, hlive'] at hstore
    rw [hscr, hstore]
    exact (writeMarks_outside _ _ _ _ _ hp).1

end

/-- Settles O44, command by command: a command that completes leaves what its work comes to (`matrixCommandComplete_completes`). -/
theorem matrixCommandsRun : Obligations.MatrixCommandsRun :=
  ⟨fun _ _ _ _ _ h hfirst hbusy => matrixCommandStart_starts h hfirst hbusy,
    fun _ _ _ _ _ h hkind hstart => matrixCommandComplete_ends h hkind hstart,
    fun _ _ _ _ _ _ h hkind hstart hwf => mzero_zeroes h hkind hstart hwf,
    fun _ _ _ _ _ _ _ _ h hkind hstart hgroups hwf ha hb => mma_integer h hkind hstart hgroups hwf ha hb,
    fun _ _ _ _ _ _ _ _ h hkind => mma_runs h hkind,
    fun _ _ _ _ _ _ _ h hkind => mscaleacc_runs h hkind,
    fun _ _ _ _ _ _ _ h hkind => mload_runs h hkind,
    fun _ _ _ _ _ _ _ _ _ h hkind hscratch harea => mstore_runs h hkind hscratch harea⟩

end Sys2Proof.Machine
end

section
/-! PROOFS. A barrier wait whose test is counted by a notification in memory (O45). -/
namespace Sys2Proof.Machine
open Sys2Proof.Claims

/-- The page of a barrier cell in the second tier, its accesses counted. -/
def countedPage : Leaf :=
  { pa := 2 ^ 40, size := 4096, ty := 9, arg := 0, gen := 0, w := true, x := true, sys := false, cnt := true, jblock := false
    remote := false, pkg := 0 }

/-- The configuration of a bank: threshold 1, one member, and the barrier cell at 0x20000. -/
def waitingImage : Mem := { cells := [(4, 1), (34, 2), (40, 1)] }

/-- A run of one step that waits at its barrier. -/
def waitingRun : Cmd :=
  { seq := 1, id := none, kind := .lrun (2 ^ 32) 0, preds := [], pc := 0, state := .started, stamp := 1, lamp := .waiting
    bank := waitingImage }

/-- Its context. -/
def waitingKey : Key := { asid := 1, ctxid := 2 }

def waitingContext : Context :=
  { Context.empty with
    key := waitingKey, slot := some .a, status := .running, cmds := [waitingRun], lampCfg := (Vector.replicate 16 none).set 0 (some 0) }

/-- The page of the barrier cell is translated, and the first access notifies the host, whose queue has no room. -/
def countedWait : State :=
  { State.reset with
    cur := waitingContext, busy := true
    tlb := [{ level := 0, unit := 0, asid := 1, page := 0x20000, leaf := countedPage }]
    bar1 := { State.reset.bar1 with notifybase := 0x1000, cntthresh := 1 } }

/-- The barrier cell is found with its page, and finding it changes neither memory nor the context. -/
def cellFound : Bool :=
  match barrierPage waitingContext .read 0x20000 countedWait with
  | .ok (.ok l, t) => decide (l = countedPage) && decide (t.mem.readN 0x1010 8 = 0) && decide (t.ctx? waitingKey = some waitingContext) &&
      t.scratch.wf
  | _ => false

theorem countedWait_cellFound : cellFound = true := by decide +kernel

theorem countedWait_finds : ∃ t, Gives (barrierPage waitingContext .read 0x20000) countedWait (.ok countedPage) t ∧
    t.mem.readN 0x1010 8 = 0 ∧ t.ctx? waitingKey = some waitingContext ∧ t.scratch.wf = true := by
  have h := countedWait_cellFound
  rw [cellFound] at h
  split at h
  next l t hgives =>
    simp only [Bool.and_eq_true, decide_eq_true_eq] at h
    obtain ⟨⟨⟨rfl, hmem⟩, hctx⟩, hwf⟩ := h
    exact ⟨t, hgives, hmem, hctx, hwf⟩
  next => nomatch h

/-- The step counts the notification that the host's queue has no room for. -/
theorem countedWait_notifies : (lampStep waitingKey 1 countedWait).mem.readN 0x1010 8 = 1 := by decide +kernel

theorem countedWait_runAt : RunAt countedWait waitingKey 1 waitingContext waitingRun (2 ^ 32) 0 0 (lampCfgOf (waitingImage.readN 0 64)) .waiting :=
  ⟨⟨rfl, rfl⟩, rfl, rfl, rfl, rfl, lampCfgOf (waitingImage.readN 0 64), by decide +kernel, by decide +kernel⟩

/-- Refutes O45: its last clause says that the barrier wait of a step changes no byte of memory, and where the page of the cell
counts its accesses (R101), the test that makes its unit's counter reach the threshold writes to the notification queue (R102). -/
theorem not_lampBanksStepAndSpark : ¬ Obligations.LampBanksStepAndSpark := by
  unfold Obligations.LampBanksStepAndSpark
  intro h
  obtain ⟨-, -, -, -, -, -, -, hwait⟩ := h
  obtain ⟨s1, hfound, hmem, hctx, hwf⟩ := countedWait_finds
  obtain ⟨t, -, -, hleads, -, hkept, -⟩ := hwait .waiting List.mem_cons_self waitingKey 1 0 countedPage countedWait s1 waitingContext
    waitingRun (2 ^ 32) 0 (lampCfgOf (waitingImage.readN 0 64)) countedWait_runAt rfl hfound hctx hwf rfl
  have ht : lampStep waitingKey 1 countedWait = t := Host.Outcome.next.inj hleads
  have hnotified := countedWait_notifies
  rw [ht, hkept, hmem] at hnotified
  nomatch hnotified

end Sys2Proof.Machine
end

section
/-! PROOFS. An invalidation where two contexts have one key (O46). -/
namespace Sys2Proof.Machine
open Sys2Proof.Claims

/-- An invalidation of the whole of address space 1 that waits for nothing. -/
def wholeInval : Inval := { id := 1, by_ := none, asid := 1, lo := 0, size := 0, l1Only := false, msgs := [], whos := [], outs := [] }

/-- The key of both contexts. -/
def sharedKey : Key := { asid := 1, ctxid := 0 }

/-- A context of the address space, in its slot, with no target register prepared. -/
def atItsSlot : Context := { Context.empty with key := sharedKey, slot := some .a }

/-- Another one of its key, in its frame, whose ASID register names address space 5 (R147). -/
def awayFromIt : Context := { Context.empty with key := sharedKey, slot := none, written := Context.empty.written.set 1 (some 5) }

/-- The frame of that key holds a prepared target register. -/
def keyTwice : State :=
  { State.reset with cur := awayFromIt, busy := true, ctxs := [atItsSlot], invals := [wholeInval], mem := { cells := [(0x388, 1)] } }

/-- The register is fetched again in the frame, and its target cannot be translated. -/
theorem keyTwice_writes : (tlbinvComplete 0 keyTwice).mem.cells.read 0x389 ≠ 0 := by decide +kernel

/-- The contexts of the address space hold nothing to fetch again. -/
theorem keyTwice_quiet : ∀ c ∈ keyTwice.allCtxs, c.asid = wholeInval.asid → c.slot.isSome = true ∧
    ∀ n : Fin 8, c.regs.b[n].rearmed wholeInval.lo wholeInval.size = false ∧
      c.unitStart.b[n].rearmed wholeInval.lo wholeInval.size = false := by
  intro c hc hasid
  have hboth : c = awayFromIt ∨ c = atItsSlot := by
    have hall : keyTwice.allCtxs = [awayFromIt, atItsSlot] := rfl
    rw [hall] at hc
    simpa using hc
  rcases hboth with rfl | rfl
  · exact absurd hasid (by decide)
  · exact ⟨rfl, by decide⟩

/-- Refutes O46: the last clause on ends of invalidations says that no byte of memory changes where no context of the address
space holds a target register to fetch again, for every state; where a context of the key of one of them has another value in its
ASID register, that one is found by the key, and its frame is written. -/
theorem not_answersAndInvalidationsArrive : ¬ Obligations.AnswersAndInvalidationsArrive := by
  unfold Obligations.AnswersAndInvalidationsArrive
  intro h
  obtain ⟨-, hends, -⟩ := h
  obtain ⟨t, hleads, -, -, -, -, -, hmem⟩ := hends 0 keyTwice wholeInval rfl rfl
  have ht : tlbinvComplete 0 keyTwice = t := Host.Outcome.next.inj hleads
  have hwrites := keyTwice_writes
  rw [ht, hmem keyTwice_quiet] at hwrites
  exact hwrites rfl

end Sys2Proof.Machine
end

section
/-! PROOFS. What each kind of graph node does when it starts (R320 to R327); O47. -/
namespace Sys2Proof.Machine
open Sys2Proof.Claims

section
variable {s s1 u v w t e : State} {g n kind : Nat} {a : NodeAt}

/-! A node started. -/

/-- What a node that may start is. -/
theorem startable_spec (h : s.startable g n kind = some (a, s1)) : s.graph? g = some a.g ∧ a.g.node? n = some a.n ∧
    a.n.state = .ready ∧ nodeKind a.ws = kind ∧ Gives (agentConsts (s.walkerCtx a.g) (a.g.nodeVa n) 8) s (.ok a.ws) s1 := by
  rw [State.startable] at h
  split at h
  case h_1 => nomatch h
  next x hx =>
  split at h
  case h_1 => nomatch h
  next y hy =>
  split at h
  case isTrue => nomatch h
  next hready =>
  split at h
  case h_2 => nomatch h
  next ws s2 hrun =>
  split at h
  case isFalse => nomatch h
  next hkind =>
    cases h
    have hstate : y.state = .ready := by
      by_contra hne
      exact hready (by simp [hne])
    refine ⟨hx, hy, hstate, hkind, ?_⟩
    rw [State.runM] at hrun
    split at hrun
    next r hr =>
      cases hrun
      exact hr
    next => nomatch hrun

theorem graph?_id {x : Graph} (h : s.graph? g = some x) : x.id = g := by simpa using List.find?_some h

theorem node?_idx {x : Graph} {y : GNode} (h : x.node? n = some y) : y.idx = n := by simpa using List.find?_some h

/-- A node whose action ends without a failure. -/
theorem startNode_acts {act : NodeAt → M (Except FaultCode Unit)} (h : Starts s g n kind a u) (hact : Gives (act a) u (.ok ()) t) :
    s.startNode g n kind act = t := by
  obtain ⟨s1, hstart, hok, rfl⟩ := h
  rw [State.startNode, hstart]
  dsimp only
  rw [hok, if_neg (by decide), runM_of_gives hact]

theorem startNode_leads {i : Instr} {act : NodeAt → M (Except FaultCode Unit)}
    (hexec : exec i s = .next (s.startNode g n kind act)) (h : Starts s g n kind a u) (hact : Gives (act a) u (.ok ()) t) : Leads i s t := by
  rw [startNode_acts h hact] at hexec
  exact hexec

theorem limit_gives {ok : Bool} {k : M (Except FaultCode Unit)} (h : ok = true) (hk : Gives k s (.ok ()) t) :
    Gives (limit ok k) s (.ok ()) t := by
  rw [limit, h]
  exact hk

/-! TASKSET and CREW (R324, R326). -/

theorem tasksetRecord_sent (s : State) (a : NodeAt) (r : TaskRec) (i c k : Nat) (x : TaskRec) :
    (s.sendRecord c k x).tasksetRecord a r i = s.tasksetRecord a r i := rfl

/-- The records of a TASKSET, sent in order. -/
def State.sendTaskset (s : State) (a : NodeAt) (r : TaskRec) (first cores n : Nat) : State :=
  (List.range n).foldl (fun s i => s.sendRecord ((first + i % cores) % 768) 3 (s.tasksetRecord a r i)) s

theorem sendTaskset_sends (s : State) (a : NodeAt) (r : TaskRec) (first cores n : Nat) :
    (s.sendTaskset a r first cores n).transit.map (fun x => (x.core, x.kind, x.r)) = s.transit.map (fun x => (x.core, x.kind, x.r)) ++
      (List.range n).map (fun i => ((first + i % cores) % 768, 3, s.tasksetRecord a r i)) ∧
    (s.sendTaskset a r first cores n).mem = s.mem ∧
    ∀ i, (s.sendTaskset a r first cores n).tasksetRecord a r i = s.tasksetRecord a r i := by
  induction n with
  | zero => exact ⟨(List.append_nil _).symm, rfl, fun _ => rfl⟩
  | succ n ih =>
    obtain ⟨htransit, hmem, hrec⟩ := ih
    have hstep : s.sendTaskset a r first cores (n + 1) = (s.sendTaskset a r first cores n).sendRecord ((first + n % cores) % 768) 3
        ((s.sendTaskset a r first cores n).tasksetRecord a r n) := by
      rw [State.sendTaskset, List.range_succ, List.foldl_append]
      rfl
    rw [hstep, List.range_succ, List.map_append, ← List.append_assoc, ← htransit, hrec n]
    refine ⟨?_, hmem, hrec⟩
    rw [State.sendRecord, List.map_append]
    rfl

/-- The words of a record of a TASKSET (R324). -/
theorem tasksetRecord_words (t : State) (a : NodeAt) (r : TaskRec) (i : Nat) (hp : nw a 4 32 3 ≤ 5) :
    (t.tasksetRecord a r i).handler = r.handler ∧ (t.tasksetRecord a r i).cell.toNat = nw a 1 0 48 ∧
    (t.tasksetRecord a r i).words[(2 + nw a 4 32 3) % 8]'(Nat.mod_lt _ (by decide)) = BitVec.ofNat 64 i := by
  have hat : (2 + nw a 4 32 3) % 8 = 2 + nw a 4 32 3 := Nat.mod_eq_of_lt (by omega)
  have hwords : (t.tasksetRecord a r i).words = (r.words.set 1 (BitVec.ofNat 64 (r.words[1].toNat % 2 ^ 16 + nw a 1 0 48 * 2 ^ 16))).set
      ((2 + nw a 4 32 3) % 8) (BitVec.ofNat 64 i) (Nat.mod_lt _ (by decide)) := rfl
  have hother (j : Nat) (hj : j < 2) : (t.tasksetRecord a r i).words[j] =
      (r.words.set 1 (BitVec.ofNat 64 (r.words[1].toNat % 2 ^ 16 + nw a 1 0 48 * 2 ^ 16)))[j] := by
    simp only [hwords]
    exact Vector.getElem_set_ne (Nat.mod_lt _ (by decide)) (by omega) (by omega)
  refine ⟨?_, ?_, ?_⟩
  · rw [TaskRec.handler, TaskRec.handler]
    have h0 := hother 0 (by decide)
    rw [Vector.getElem_set_ne (by decide) (by decide) (by decide)] at h0
    rw [h0]
  · have hcell : nw a 1 0 48 < 2 ^ 48 := bitsOf_lt _ _ _
    have h1 := hother 1 (by decide)
    rw [Vector.getElem_set_self] at h1
    rw [TaskRec.cell, h1, wbits, bitsOf, BitVec.toNat_ofNat, BitVec.toNat_ofNat]
    omega
  · simp only [hwords]
    exact Vector.getElem_set_self _

theorem nodeTaskset_starts {r : TaskRec} (h : Starts s g n 1 a u)
    (hlimits : 1 ≤ nw a 4 0 32 ∧ nw a 4 32 3 ≤ 5 ∧ nw a 4 35 29 = 0 ∧ nw a 5 20 44 = 0 ∧ 1 ≤ nw a 5 10 10 ∧ nw a 5 10 10 ≤ 768)
    (hrec : Gives (agentRecord (walkerOf a u) a.g.launch (nodeWord a.ws 3).toNat) u (.ok r) v) (hcls : r.cls = 0)
    (hcount : Gives (countCell (walkerOf a u) (nodeWord a.ws 1).toNat) v none t) :
    CountsTest (.nodeTaskset g n) s (t.sendTaskset a r (nw a 5 0 10) (nw a 5 10 10) (nw a 4 0 32)) (walkerOf a u) (nodeQuiet a.ws)
      (nodeWord a.ws 1).toNat := by
  obtain ⟨h1, h2, h3, h4, h5, h6⟩ := hlimits
  -- what is done before the test of the COUNT cell
  have hbody {e : State} (he : Gives (do
      if !nodeQuiet a.ws then agentAsk (walkerOf a u) (fun ty => decide (ty = 9)) (nodeWord a.ws 1).toNat
      return (Except.ok () : Except FaultCode Unit)) (t.sendTaskset a r (nw a 5 0 10) (nw a 5 10 10) (nw a 4 0 32)) (.ok ()) e) :
      Leads (.nodeTaskset g n) s e := by
    refine startNode_leads rfl h (limit_gives ?_ ?_)
    · rw [nw] at h1 h2 h3 h4 h5 h6
      simp [h1, h2, h3, h4, h5, h6]
    · refine gives_bind (get_gives u) (gives_bind hrec ?_)
      dsimp only
      rw [if_neg (not_not.2 hcls)]
      exact gives_bind hcount (gives_bind (modify_gives _ _) he)
  refine ⟨fun hq => hbody ?_, fun hq e he => hbody ?_⟩
  · rw [hq]
    exact gives_pure _ _
  · rw [hq]
    exact gives_bind he (gives_pure _ _)

theorem nodeCrew_starts {ms : List (Nat × TaskRec)} {ds : List Word} (h : Starts s g n 2 a u)
    (hlimits : 1 ≤ nw a 4 0 4 ∧ nw a 4 0 4 ≤ 8 ∧ nw a 4 4 6 ≤ 32 ∧ nw a 4 10 54 = 0)
    (hmembers : Gives (crewMembers a (walkerOf a u) 0 (nw a 4 0 4)) u (.ok ms) v) (hcores : (ms.map (fun m => m.1)).Nodup)
    (hdescs : Gives (agentConsts (walkerOf a u) (nodeWord a.ws 5).toNat (nw a 4 4 6)) v (.ok ds) w) (hok : ds.all (descOk ms) = true)
    (hports : (descPorts ds).Nodup) (hcount : Gives (countCell (walkerOf a u) (nodeWord a.ws 1).toNat) w none t) :
    CountsTest (.nodeCrew g n) s { t with
      nextSeq := t.nextSeq + 1
      crews := t.crews ++ [{ id := t.nextSeq, launch := a.g.launch, order := t.nextSeq, members := ms, descs := ds }] }
      (walkerOf a u) false (nodeWord a.ws 1).toNat := by
  obtain ⟨h1, h2, h3, h4⟩ := hlimits
  refine ⟨fun hq => absurd hq (by decide), fun _ e he => startNode_leads rfl h (limit_gives ?_ ?_)⟩
  · rw [nw] at h1 h2 h3 h4
    simp [h1, h2, h3, h4]
  · refine gives_bind (get_gives u) (gives_bind hmembers ?_)
    dsimp only
    rw [decide_eq_true hcores, if_neg (by decide)]
    refine gives_bind hdescs ?_
    dsimp only
    rw [hok, decide_eq_true hports, if_neg (by decide)]
    exact gives_bind hcount (gives_bind (modify_gives _ _) (gives_bind he (gives_pure _ _)))

/-! COPY (R321). -/

theorem nodeCopy_starts {mig : Bool} (h : Starts s g n 3 a u) (hok : nodeCopyOk a.ws = true)
    (hmig : Gives (agentMigrates (walkerOf a u) (nodeCopyOf a.ws).1 (nodeCopyOf a.ws).2.1 (nodeCopyOf a.ws).2.2.1 (nodeCopyOf a.ws).2.2.2)
      u (.ok mig) v) :
    Leads (.nodeCopy g n) s (v.modNode a.g.id a.n.idx (fun y => { y with mig := mig })) := by
  obtain ⟨s1, hstart, -⟩ := id h
  obtain ⟨hg, hn, hready, -, -⟩ := startable_spec hstart
  have hexec : nodeCopy g n s = s.startNode g n 3 (fun a => limit (nodeCopyOk a.ws) (copyBody a)) := by
    rw [nodeCopy, hg]
    dsimp only
    rw [hn]
    dsimp only
    rw [hready]
    rfl
  refine startNode_leads (congrArg Host.Outcome.next hexec) h (limit_gives hok ?_)
  exact gives_bind (get_gives u) (gives_bind hmig (gives_bind (modify_gives _ _) (gives_pure _ _)))

theorem nodeCopy_goes {x : Graph} {y : GNode} {ws : List Word} {z : CopyUnit} (hg : s.graph? g = some x) (hn : x.node? n = some y)
    (hrun : y.state = .running) (hwalks : s.walks x = true) (hws : Gives (agentConsts (s.walkerCtx x) (x.nodeVa n) 8) s (.ok ws) s1)
    (hkind : nodeKind ws = 3)
    (hunit : agentUnit (nodeCopyOf ws).2.1 (nodeCopyOf ws).2.2.1 (nodeCopyOf ws).2.2.2 y.done = some z)
    (hdone : Gives (agentCopyUnit (s1.walkerCtx x) (nodeCopyOf ws).1 y.mig z) s1 .done t) :
    Leads (.nodeCopy g n) s (t.modNode x.id y.idx (fun y => { y with done := y.done + 1 })) := by
  have hexec : nodeCopy g n s = t.modNode x.id y.idx (fun y => { y with done := y.done + 1 }) := by
    rw [nodeCopy, hg]
    dsimp only
    rw [hn]
    dsimp only
    rw [hrun, hwalks, if_pos (by rfl), runM_of_gives hws]
    dsimp only
    rw [if_pos hkind, State.nodeCopyStep, hunit]
    dsimp only
    rw [runM_of_gives hdone]
  exact congrArg Host.Outcome.next hexec

/-! COND and WHILE (R327). -/

theorem nodeCond_starts {x : Word} (h : Starts s g n 4 a u) (hdeg : nw a 2 48 16 = 2)
    (hx : Gives (agentExact (walkerOf a u) (nodeWord a.ws 3).toNat) u (.ok x) t) :
    Leads (.nodeCond g n) s (t.modNode a.g.id a.n.idx (fun y => { y with taken := some (if x = 0 then 1 else 0) })) :=
  startNode_leads rfl h (limit_gives (decide_eq_true hdeg)
    (gives_bind (get_gives u) (gives_bind hx (gives_bind (modify_gives _ _) (gives_pure _ _)))))

theorem nodeWhile_starts {x : Word} {ps : List Nat} (h : Starts s g n 5 a u)
    (hok : a.g.whileOk a.n.idx (nw a 4 0 16) (nw a 4 16 16) = true)
    (hps : Gives (nodePreds (walkerOf a u) a.g (nw a 4 0 16) (nw a 4 16 16 + 1 - nw a 4 0 16)) u (.ok ps) v) (hfirst : ps.headD 0 = 0)
    (hx : Gives (agentExact (walkerOf a u) (nodeWord a.ws 3).toNat) v (.ok x) t) :
    Leads (.nodeWhile g n) s (if x ≠ 0 && a.n.w < nw a 4 32 32 then t.startBody a.g.id (nw a 4 0 16) (nw a 4 16 16) ps
      else t.modNode a.g.id a.n.idx (fun y => { y with taken := some 0 })) :=
  startNode_leads rfl h (limit_gives hok (gives_bind (get_gives u) (gives_bind hps (limit_gives (decide_eq_true hfirst)
    (gives_bind hx (gives_bind (modify_gives _ _) (gives_pure _ _)))))))

/-! FREEZE, FALLOW and WAITCELL (R321). -/

theorem nodeFreeze_starts (h : Starts s g n 6 a u)
    (hrange : rangeFault 128 (nodeWord a.ws 3).toNat (nodeWord a.ws 4).toNat = none)
    (hfreeze : Gives (agentFreeze (walkerOf a u) false (nodeWord a.ws 3).toNat (nodeWord a.ws 4).toNat) u none t) :
    Leads (.nodeFreeze g n) s t := by
  refine startNode_leads rfl h ?_
  rw [freezeBody, hrange]
  exact gives_bind (get_gives u) (gives_bind hfreeze (gives_pure _ _))

theorem bumpGens_invals (ls : List Nat) (s : State) : (ls.foldl State.bumpGen s).invals = s.invals :=
  Chain.foldl (R := fun s t : State => t.invals = s.invals) ⟨fun _ => rfl, fun h h' => h'.trans h⟩ (f := State.bumpGen) (fun _ _ => rfl) ls s

theorem startInval_invals (s : State) (by_ : Option Key) (asid : BitVec 12) (lo size : Nat) :
    ∃ v, (s.startInval by_ asid lo size).invals = s.invals ++ [v] ∧ v.asid = asid ∧ v.lo = lo ∧ v.size = size ∧ v.by_ = by_ := by
  have hfreed : s.Freed (s.cores.foldl (fun s k =>
      s.drainHeld k.num fun h => h.req.tags.any fun t => t.under asid lo size) s) :=
    Chain.foldl ⟨.refl, .trans⟩ (fun s k => freed_drainHeld s k.num _) s.cores s
  obtain ⟨cur, _, _, _, _, heq, -⟩ := hfreed
  rw [State.startInval, heq]
  exact ⟨_, rfl, rfl, rfl, rfl, rfl⟩

theorem nodeFallow_starts (h : Starts s g n 7 a u)
    (hrange : rangeFault 4096 (nodeWord a.ws 3).toNat (nodeWord a.ws 4).toNat = none)
    (hfreeze : Gives (agentFreeze (walkerOf a u) true (nodeWord a.ws 3).toNat (nodeWord a.ws 4).toNat) u none t) :
    ∃ (e : State) (v : Inval), Leads (.nodeFallow g n) s e ∧ e.invals = t.invals ++ [v] ∧ v.asid = (walkerOf a u).key.asid ∧
      v.lo = (nodeWord a.ws 3).toNat ∧ v.size = (nodeWord a.ws 4).toNat ∧ v.by_ = none := by
  obtain ⟨d, hd⟩ : ∃ d, d = ((t.leaves (walkerOf a u).key.asid (nodeWord a.ws 3).toNat (nodeWord a.ws 4).toNat).map
    (fun p => p.2.1)).foldl State.bumpGen t := ⟨_, rfl⟩
  have hinvals : d.invals = t.invals := by
    rw [hd]
    exact bumpGens_invals _ _
  obtain ⟨v, hv, hvs⟩ := startInval_invals d none (walkerOf a u).key.asid (nodeWord a.ws 3).toNat (nodeWord a.ws 4).toNat
  refine ⟨(d.startInval none (walkerOf a u).key.asid (nodeWord a.ws 3).toNat (nodeWord a.ws 4).toNat).modNode
      a.g.id a.n.idx (fun y => { y with done := t.nextSeq + 1 }), v, startNode_leads rfl h ?_, hinvals ▸ hv, hvs⟩
  rw [fallowBody]
  refine gives_bind (get_gives u) ?_
  dsimp only
  rw [hrange]
  refine gives_bind hfreeze (gives_bind (x := ()) ?_ (gives_pure _ _))
  rw [hd]
  exact modify_gives _ _

theorem nodeWaitcell_starts {b : Bool} (h : Starts s g n 8 a u)
    (hask : Gives (agentAsk (walkerOf a u) fieldType (nodeWord a.ws 3).toNat) u () v)
    (htest : Gives (agentTest (walkerOf a v) fieldType (nodeWord a.ws 3).toNat (nodeWord a.ws 4)) v (.ok b) t) :
    Leads (.nodeWaitcell g n) s t :=
  startNode_leads rfl h (gives_bind (get_gives u) (gives_bind hask (gives_bind (get_gives v) (gives_bind htest (gives_pure _ _)))))

/-! NOTIFY and END (R321, R330). -/

theorem postCompletion_mem (s : State) (q : Fin 64) (ws : List Word) :
    (s.postCompletion q ws).mem = s.mem.writeN (completionAt s q) 32 (packList 64 (ws.map BitVec.toNat)) false := by
  rw [State.postCompletion, completionAt]

theorem postCompletion_queue (s : State) (q : Fin 64) (ws : List Word) :
    (s.postCompletion q ws).queues[q] = { s.queues[q] with ctail := s.queues[q].ctail + 1 } := by
  have h : (s.postCompletion q ws).queues = s.queues.set q { s.queues[q] with ctail := s.queues[q].ctail + 1 } := by
    rw [State.postCompletion]
  simp only [h]
  exact Vector.getElem_set_self _

theorem postCompletion_vectors (s : State) (q : Fin 64) (ws : List Word) :
    (s.postCompletion q ws).vectors = s.vectors ||| ((1 : BitVec 66) <<< q.val) := by
  rw [State.postCompletion]
  exact raiseVector_vectors s q.val

/-- A completion stands in its ring (R367). -/
theorem postCompletion_posted (hwf : s.mem.wf = true) (q : Fin 64) {ws : List Word} (hlen : ws.length = 4) :
    Claims.Posted s (s.postCompletion q ws) q ws := by
  refine ⟨fun i hi => ?_, postCompletion_queue s q ws, postCompletion_vectors s q ws⟩
  have hplace : 8 * (8 * i) = 64 * i := by omega
  have hread := Memory.readN_writeN_inside 8 (8 * i) 32 (completionAt s q) (packList 64 (ws.map BitVec.toNat)) (Mem.wf_iff.1 hwf).1
    (by omega)
  have helem := packList_elem 64 (ws.map BitVec.toNat) i (by rw [List.length_map, hlen]; exact hi)
  have hword : ws[i]? = some ws[i] := List.getElem?_eq_getElem (by omega)
  rw [postCompletion_mem, Mem.readN, Mem.writeN, hread, hplace, hword, Option.getD_some]
  rw [List.getElem_map, Nat.mod_eq_of_lt ws[i].isLt] at helem
  exact helem

/-- The words a NOTIFY posts. -/
def notifyWords (a : NodeAt) (l : Launch) : List Word :=
  nodeWord a.ws 3 :: (List.finRange 3).map (Config.notifyWord l.tag (a.g.nodeVa a.n.idx) a.n.w (nodeWord a.ws 3))

theorem nodeNotify_starts {l : Launch} {q : Fin 64} (h : Starts s g n 9 a u) (hl : u.launch? a.g.launch = some l) (hq : l.queue = some q)
    (hwf : u.mem.wf = true) : ∃ (t : State) (ws : List Word), Leads (.nodeNotify g n) s t ∧ Claims.Posted u t q ws ∧ ws.length = 4 ∧
      ws[0]? = some (nodeWord a.ws 3) := by
  have hmod := modify_gives (fun s : State => match s.launch? a.g.launch with
    | some l => match l.queue with
      | some q => s.postCompletion q (notifyWords a l)
      | none => s
    | none => s) u
  simp only [hl, hq] at hmod
  exact ⟨u.postCompletion q (notifyWords a l), notifyWords a l, startNode_leads rfl h (gives_bind hmod (gives_pure _ _)),
    postCompletion_posted hwf q rfl, rfl, rfl⟩

theorem nodeEnd_starts (h : Starts s g n 10 a u) : Leads (.nodeEnd g n) s (u.modGraph a.g.id (fun x => { x with ended := true })) :=
  startNode_leads rfl h (gives_bind (modify_gives _ _) (gives_pure _ _))

end

/-- Settles O47, kind by kind: what a node's action gives is what its start leads to (`startNode_leads`). -/
theorem graphNodesDoTheirWork : Obligations.GraphNodesDoTheirWork := by
  refine ⟨?_, ?_, ?_, ?_, ?_, ?_, ?_, ?_, ?_, ?_, ?_⟩
  · intro g n s u v t a r h hlimits hrec hcls hcount
    obtain ⟨hsent, hmem, hrecs⟩ := sendTaskset_sends t a r (nw a 5 0 10) (nw a 5 10 10) (nw a 4 0 32)
    exact ⟨_, nodeTaskset_starts h hlimits hrec hcls hcount, hsent, hmem, fun i _ => tasksetRecord_words t a r i hlimits.2.1⟩
  · intro g n s u v w t a ms ds h hlimits hmembers hcores hdescs hok hports hcount
    exact nodeCrew_starts h hlimits hmembers hcores hdescs hok hports hcount
  · intro g n s u v a mig h hok k hmig
    exact nodeCopy_starts h hok hmig
  · intro g n s s1 t x y ws z hg hn hrun hwalks hws hkind k hunit hdone
    exact nodeCopy_goes hg hn hrun hwalks hws hkind hunit hdone
  · intro g n s u t a x h hdeg hx
    exact nodeCond_starts h hdeg hx
  · intro g n s u v t a x ps h hok hps hfirst hx
    have hleads := nodeWhile_starts h hok hps hfirst hx
    refine ⟨fun hend => ?_, fun hne hlt => ?_⟩
    · rwa [if_neg] at hleads
      rcases hend with h0 | hle
      · simp [h0]
      · simp [Nat.not_lt.2 hle]
    · rwa [if_pos] at hleads
      rw [decide_eq_true hne, decide_eq_true hlt]
      rfl
  · intro g n s u t a h hrange hfreeze
    exact nodeFreeze_starts h hrange hfreeze
  · intro g n s u t a h hrange hfreeze
    exact nodeFallow_starts h hrange hfreeze
  · intro g n s u v t a b h hask htest
    exact nodeWaitcell_starts h hask htest
  · intro g n s u a l q h hl hq hwf
    exact nodeNotify_starts h hl hq hwf
  · intro g n s u a h
    exact nodeEnd_starts h

end Sys2Proof.Machine
end

section
/-! PROOFS. A launch reaped where the core runs a task of another launch with the same key (O48). -/
namespace Sys2Proof.Machine
open Sys2Proof.Claims

/-- The launch that is reaped. -/
def reapedLaunch : Launch := { id := 1, queue := none, tag := 0, mode := 0, asid := 1, kind := 2 }

/-- Its task. -/
def reapedTask : Context := { Context.empty with key := { asid := 1, ctxid := 0 }, launch := 1 }

/-- A task of launch 2, with the turn, has the same key. -/
def taskTwice : State :=
  { State.reset with cur := { reapedTask with launch := 2 }, busy := true, ctxs := [reapedTask], launches := [reapedLaunch] }

/-- What is found by the key is the task of launch 2. -/
theorem taskTwice_stays : (taskTwice.reapAll 1).allCtxs = [reapedTask] := by decide +kernel

/-- Refutes O48: its clause on reaping says that no task of the launch is left, for every state; a context is taken out by its
key, and where the core runs a context of the same key and of another launch, that one goes and the launch's own stays. -/
theorem not_graphNodesAndGraphsComplete : ¬ Obligations.GraphNodesAndGraphsComplete := by
  unfold Obligations.GraphNodesAndGraphsComplete
  intro h
  obtain ⟨-, -, -, -, hreap, -⟩ := h
  obtain ⟨-, hgone, -⟩ := hreap taskTwice 1 reapedLaunch rfl
  exact hgone reapedTask (by rw [taskTwice_stays]; exact List.mem_singleton_self _) rfl

end Sys2Proof.Machine
end

section
/-! PROOFS. A context with a slice in a frame that was saved from slot H (O49). -/
namespace Sys2Proof.Machine
open Sys2Proof.Claims

/-- A woken context in its frame, with STATUS.HI set and a slice of one unit. -/
def handlerWithSlice : Context :=
  { Context.empty with
    key := { asid := 1, ctxid := 0 }, slot := none, status := .ready 0, foot := 1
    regs := { Regs.zero with status := 0x4000 } }

/-- Its frame, at address 0: its live map has line 2 of the slice, whose first byte there is 1. -/
def handlerInFrame : State :=
  { State.reset with
    ctxs := [handlerWithSlice]
    mem := (State.reset.mem.writeN 0x4100 1 4 false).writeN 0x5100 1 1 false }

theorem handlerInFrame_woken : handlerInFrame.woken 0 = [handlerWithSlice] := by decide +kernel

theorem handlerInFrame_wf : Sys2Proof.Safety.memoryOk handlerInFrame := by
  refine ⟨?_, ?_, ?_, ?_⟩ <;> decide +kernel

/-- The frame says that line 2 is live. -/
theorem handlerInFrame_live :
    bitsOf (handlerInFrame.mem.readN (handlerInFrame.frameAt handlerWithSlice.key + 0x4100 + 2 / 8) 1) (2 % 8) 1 = 1 := by
  decide +kernel

theorem handlerInFrame_byte :
    handlerInFrame.mem.cells.read (handlerInFrame.frameAt handlerWithSlice.key + 0x5000 + 128 * 2 + 0) = 1 := by
  decide +kernel

/-- The slice of the context is not restored: slot H has the handler area alone. -/
theorem handlerInFrame_slice : (coreDispatch 0 handlerInFrame).scratch.cells.read (128 * 2 + 0) = 0 := by decide +kernel

/-- Refutes O49: its clause on a frame saved from slot H says that the live lines of a slice of FOOT units are restored, for
every woken context with STATUS.HI; one restored into slot H has its handler area and no slice (R306), so a context with a
FOOT of 1 has its live line 2 in the frame alone. -/
theorem not_coresChooseWorkInOrder : ¬ Obligations.CoresChooseWorkInOrder := by
  unfold Obligations.CoresChooseWorkInOrder
  intro h
  obtain ⟨-, -, -, -, hframe, -⟩ := h
  obtain ⟨t, c', hleads, -, hrestored⟩ := hframe 0 handlerInFrame handlerWithSlice []
    ⟨by decide +kernel, by decide +kernel⟩ (by decide +kernel) (by decide +kernel) handlerInFrame_woken rfl
    (by decide +kernel) (by decide +kernel) (by decide +kernel) rfl handlerInFrame_wf
  have ht : coreDispatch 0 handlerInFrame = t := Host.Outcome.next.inj hleads
  obtain ⟨-, hcore, -, hbase, -, -, -, -, -, -, hlines⟩ := hrestored
  have hline := hlines 2 0 (by decide) (by decide) handlerInFrame_live
  have hplace : c'.sliceBase = 0 := by rw [Context.sliceBase, hcore, hbase]; rfl
  rw [handlerInFrame_byte, ← ht, hplace, Nat.zero_add, handlerInFrame_slice] at hline
  exact absurd hline (by decide)

end Sys2Proof.Machine
end

section
/-! PROOFS. A teardown of a queue with one task inside a unit and another whose held join merged with one of its joins (O52). -/
namespace Sys2Proof.Machine
open Sys2Proof.Claims

/-- A launch of queue 0. -/
def tornLaunch : Launch := { id := 1, queue := some 0, tag := 0, mode := 0, asid := 1, kind := 0 }

/-- A task of the launch that is parked on its core. -/
def tornTask : Context :=
  { Context.empty with key := { asid := 1, ctxid := 0 }, launch := 1, status := .ready 0 }

/-- Another task of the launch, inside a unit, with a join held in the combining buffer of the core. -/
def unitTask : Context :=
  { Context.empty with
    key := { asid := 1, ctxid := 1 }, launch := 1, status := .running, unit := some { saved := Regs.zero }
    outs := [{ n := 0, line := 0, store := false, va := 0, held := true }] }

/-- The join of both: the first of the two has merged into the second. -/
def joinOfBoth : Held :=
  { req := { cell := 0, width := 64, ty := 2, arg := 0, val := 0
             tags := [{ who := .ctx tornTask.key 0, va := 0 }, { who := .ctx unitTask.key 0, va := 0 }] }
    dst := homeNode 0, cnt := false, asid := 1, va := 0, gen := 0 }

/-- The two tasks on core 0, and the held join there. -/
def heldForBoth : State :=
  { State.reset with
    ctxs := [tornTask, unitTask], launches := [tornLaunch], cores := [{ num := 0, hold := [joinOfBoth] }] }

/-- Where no context is parked, none is parked for room in an inbox. -/
theorem senders_of_none_parked (s : State) (h : ∀ c ∈ s.allCtxs, c.parkedAt = none) : s.senders = [] := by
  rw [State.senders, List.filterMap_eq_nil_iff]
  intro c hc
  have hparked := h c (List.mem_mergeSort.mp hc)
  rw [Context.parkedAt] at hparked
  split at hparked
  · exact absurd hparked (by simp)
  next hstatus =>
    split
    next n high at_ heq => exact absurd heq (hstatus _ _)
    · rfl

theorem wakeSenders_of_none_parked (s : State) (h : ∀ c ∈ s.allCtxs, c.parkedAt = none) : s.wakeSenders = s := by
  rw [State.wakeSenders, senders_of_none_parked s h, List.foldl_nil]

/-- The teardown sends the join of the task it kills, so the other one's stands in the buffer no more. -/
theorem heldForBoth_torn :
    ((teardown 0 heldForBoth).ctx? unitTask.key).map (fun c => c.outs.map Out.held) = some [false] := by
  rw [teardown, State.tearDown, wakeSenders_of_none_parked _ (by decide +kernel)]
  decide +kernel

/-- Refutes O52: its clause on a teardown that finds a task inside a unit says that the task stays as it was; the joins held for
a task that is killed leave the core's buffer, and one that has merged with a join of the task inside its unit takes that along,
which its context notes. -/
theorem not_launchQueuesAreServed : ¬ Obligations.LaunchQueuesAreServed := by
  unfold Obligations.LaunchQueuesAreServed
  intro h
  obtain ⟨-, -, -, -, -, -, -, -, -, -, htear, -⟩ := h
  obtain ⟨t, hleads, -, -, -, -, hkept, -⟩ := htear 0 heldForBoth unitTask tornLaunch (by decide +kernel) rfl rfl rfl
    (by decide +kernel)
  have ht : teardown 0 heldForBoth = t := Host.Outcome.next.inj hleads
  have htorn := heldForBoth_torn
  rw [ht, hkept] at htorn
  exact absurd htorn (by decide)

end Sys2Proof.Machine
end

section
/-! PROOFS. A host write of a filled line with other contents, where there is a host event log (O53). -/
namespace Sys2Proof.Machine
open Sys2Proof.Claims

/-- A page of FILL1 lines. -/
def hostPage : Leaf :=
  { pa := 0x40000, size := 4096, ty := 1, arg := 0, gen := 0, w := true, x := false, sys := false, cnt := false, jblock := false
    remote := false, pkg := 0 }

/-- Its first line is filled with zeros, the host has written 5 to the upper half of it, and the host event log has one entry. -/
def conflictingHalf : State :=
  { State.reset with
    tlb := [{ level := 0, unit := 0, asid := 0, page := 0x20000, leaf := hostPage }]
    bar1 := { State.reset.bar1 with logbase := 0x1000, logsize := 1 }
    md := State.reset.md.write 0x800 (mdOf false 1 false 1)
    halves := [(0x800, true, 5)] }

/-- What the clause needs of the state after the translation, and its first register of BAR1. -/
def hostPageFound : Bool :=
  match tryTranslate 0 conflictingHalf.bar1.hostasid true .write 0x20000 conflictingHalf with
  | .ok (.ok l, t) => decide (l = hostPage) && decide (t.homeCode l 0x20000 = none) && decide (t.bar1.logprod = 0) &&
      decide (t.bar1.logsize = 1) && decide (t.halves = [(0x800, true, 5)]) && decide (mdState (t.md.read 0x800) = 1) &&
      !t.gatewaysHold 0x800 && (t.mem.wf && t.scratch.wf && t.acc.wf && t.md.wf) &&
      decide (t.mem.readN (128 * 0x800) 128 ≠ (0 : BitVec 512).toNat + (5 : BitVec 512).toNat * 2 ^ 512)
  | _ => false

theorem conflictingHalf_pageFound : hostPageFound = true := by decide +kernel

/-- The conflict poisons the line, which is logged (R79), and the fill is logged as well (R364). -/
theorem conflictingHalf_logs : (hostWriteHalf 0x20000 0 conflictingHalf).bar1.logprod = 2 := by decide +kernel

theorem conflictingHalf_found : ∃ t, HostPage conflictingHalf .write 0x20000 hostPage t ∧ t.homeCode hostPage 0x20000 = none ∧
    t.bar1.logprod = 0 ∧ t.bar1.logsize = 1 ∧ t.halves = [(0x800, true, 5)] ∧ mdState (t.md.read 0x800) = 1 ∧
    t.gatewaysHold 0x800 = false ∧ Sys2Proof.Safety.memoryOk t ∧ t.mem.readN (128 * 0x800) 128 ≠ (0 : BitVec 512).toNat + (5 : BitVec 512).toNat * 2 ^ 512 := by
  have h := conflictingHalf_pageFound
  rw [hostPageFound] at h
  split at h
  next l t hgives =>
    simp only [Bool.and_eq_true, decide_eq_true_eq, Bool.not_eq_true'] at h
    obtain ⟨⟨⟨⟨⟨⟨⟨⟨rfl, hhome⟩, hprod⟩, hsize⟩, hhalves⟩, hstate⟩, hgates⟩, ⟨⟨hmem, hscratch⟩, hacc⟩, hmd⟩, hdata⟩ := h
    exact ⟨t, ⟨rfl, by decide +kernel, hgives⟩, hhome, hprod, hsize, hhalves, hstate, hgates, ⟨hmem, hscratch, hacc, hmd⟩, hdata⟩
  next => nomatch h

theorem hostPage_line : hostPage.line (0x20000 : BitVec 48).toNat = 0x800 := by decide +kernel

theorem lowerHalf : decide ((0x20000 : BitVec 48).toNat % 128 = 64) = false := by decide +kernel

/-- Refutes O53: its clause on a fill that conflicts says that one entry is made in the host event log; the poisoning of the
line makes an entry of its own (R79), so there are two. -/
theorem not_theHostReadsAndWrites : ¬ Obligations.TheHostReadsAndWrites := by
  unfold Obligations.TheHostReadsAndWrites
  intro h
  obtain ⟨-, -, -, -, -, -, -, -, hhalf, -⟩ := h
  obtain ⟨s1, hpage, hhome, hprod, hsize, hhalves, hstate, hgates, hform, hdata⟩ := conflictingHalf_found
  have hline := hhalf 0x20000 0 hostPage conflictingHalf s1 hpage rfl hhome rfl
  simp only [hostPage_line, lowerHalf, Bool.false_eq_true, if_true, if_false] at hline
  obtain ⟨-, -, -, hconflict, -⟩ := hline
  obtain ⟨t, hleads, -, -, hlogged, -⟩ := hconflict 5 (by rw [hhalves]; decide +kernel)
    (fun h0 => absurd (hstate.symm.trans h0) (by decide)) rfl hgates hform (Or.inr hdata)
  have ht : hostWriteHalf 0x20000 0 conflictingHalf = t := Host.Outcome.next.inj hleads
  have hlogs := conflictingHalf_logs
  rw [ht, (hlogged.2 (by rw [hsize]; decide)).1] at hlogs
  have hone : s1.bar1.logprod + 1 = 2 := hlogs
  rw [hprod] at hone
  exact absurd hone (by decide)

end Sys2Proof.Machine
end

section
/-! PROOFS. Uncorrectable errors: lines poisoned, and what else they strike marked (O56). -/
namespace Sys2Proof.Machine
open Sys2Proof.Claims
variable {s t : State} {line : Nat}

theorem invalidating_iff : s.invalidating line = true ↔ ∃ m ∈ s.msgs, ∃ g, m.body = .inval line g := by
  rw [State.invalidating, List.any_eq_true]
  refine exists_congr fun m => and_congr_right fun _ => ⟨fun h => ?_, fun ⟨g, h⟩ => by rw [h]; exact beq_self_eq_true _⟩
  split at h
  next l g hbody => exact ⟨g, by rw [hbody, beq_iff_eq.1 h]⟩
  · nomatch h

/-- Sending invalidations changes the messages alone, and one to a gateway stands among them. -/
theorem sendInvals_shape (src : Node) (line : Nat) (gates : List Nat) (s : State) :
    (∃ ms n, s.sendInvals src line gates = { s with msgs := s.msgs ++ ms, nextMsg := n }) ∧
    ∀ g ∈ gates, ∃ m ∈ (s.sendInvals src line gates).msgs, m.body = .inval line g := by
  induction gates generalizing s with
  | nil => exact ⟨⟨[], s.nextMsg, by rw [List.append_nil]; rfl⟩, fun g hg => nomatch hg⟩
  | cons g gates ih =>
    obtain ⟨⟨ms, n, hshape⟩, hsent⟩ := ih (s.send { id := 0, src := src, dst := .gate g, body := .inval line g })
    have heq : s.sendInvals src line (g :: gates) =
        (s.send { id := 0, src := src, dst := .gate g, body := .inval line g }).sendInvals src line gates := rfl
    rw [heq]
    refine ⟨⟨_, n, by rw [hshape, State.send, List.append_assoc]⟩, fun g' hg' => ?_⟩
    rcases List.mem_cons.1 hg' with rfl | hg'
    · rw [hshape]
      exact ⟨_, List.mem_append_left _ (List.mem_append_right _ (List.mem_singleton_self _)), rfl⟩
    · exact hsent g' hg'

theorem invalidateAll_shape (s : State) (line : Nat) :
    (∃ ms n, s.invalidateAll line = { s with msgs := ms, nextMsg := n }) ∧ (s.invalidateAll line).invalidating line = true := by
  rw [State.invalidateAll]
  split
  next h => exact ⟨⟨s.msgs, s.nextMsg, rfl⟩, h⟩
  next =>
    obtain ⟨⟨ms, n, hshape⟩, hsent⟩ := sendInvals_shape (homeNode (128 * line)) line (List.range 8) s
    obtain ⟨m, hm, hbody⟩ := hsent 0 (by decide)
    exact ⟨⟨_, n, hshape⟩, invalidating_iff.2 ⟨m, hm, 0, hbody⟩⟩

/-! Lines. -/

theorem poisonSoon_free (h : s.gatewaysHold line = false) : s.poisonSoon line =
    ({ s with poisoning := s.poisoning.filter (fun l => l != line) }.poisonLine line).retest line := by
  rw [State.poisonSoon, h, if_neg Bool.false_ne_true]

/-- A line that no gateway answers for is poisoned at once. -/
theorem poisonSoon_poisons (hwf : s.md.wf = true) (h : s.gatewaysHold line = false) :
    mdPoison ((s.poisonSoon line).md.read line) = true ∧
    mdState ((s.poisonSoon line).md.read line) = mdState (s.md.read line) ∧
    ∀ k, k ≠ line → (s.poisonSoon line).md.read k = s.md.read k := by
  rw [poisonSoon_free h]
  obtain ⟨u, hu⟩ : ∃ u : State, u = { s with poisoning := s.poisoning.filter (fun l => l != line) } := ⟨_, rfl⟩
  have hmd : u.md = s.md := by rw [hu]
  rw [← hu, ← hmd]
  have hwfu : u.md.wf = true := by rw [hmd]; exact hwf
  have hwfp : (u.poisonLine line).md.wf = true := (homeOnly_poisonLine u line).2.2 hwfu
  obtain ⟨hstate, -, hpoison⟩ := poisonLine_fields (line := line) hwfu
  obtain ⟨hstate', -, hpoison'⟩ := retest_fields (line := line) hwfp line
  exact ⟨hpoison'.trans hpoison, hstate'.trans hstate,
    fun k hk => (retest_mdOutside _ line k hk).trans (poisonLine_mdOutside u line k hk)⟩

/-- A line that a gateway may answer for waits, its invalidations on their way. -/
theorem poisonSoon_waits (h : s.gatewaysHold line = true) :
    line ∈ (s.poisonSoon line).poisoning ∧ (s.poisonSoon line).invalidating line = true ∧
    (s.poisonSoon line).md = s.md ∧ (s.poisonSoon line).mem = s.mem := by
  obtain ⟨⟨ms, n, hshape⟩, hinval⟩ := invalidateAll_shape s line
  rw [State.poisonSoon, h, if_pos rfl]
  refine ⟨?_, hinval, by rw [hshape], by rw [hshape]⟩
  by_cases hin : s.poisoning.contains line = true
  · rw [if_pos hin]
    exact List.contains_iff_mem.1 hin
  · rw [if_neg hin]
    exact List.mem_append_right _ (List.mem_singleton_self _)

theorem gatewaysHold_of_replica (h : s.invalidating line = true ∨ ∃ r ∈ s.replicas, r.snap.line = line) :
    s.gatewaysHold line = true := by
  rw [State.gatewaysHold, Bool.or_eq_true, List.any_eq_true]
  exact h.imp id fun ⟨r, hr, hl⟩ => ⟨r, hr, beq_iff_eq.2 hl⟩

theorem gatewaysHold_of_none (hi : s.invalidating line = false) (hr : ∀ r ∈ s.replicas, r.snap.line ≠ line) :
    s.gatewaysHold line = false := by
  rw [State.gatewaysHold, hi, Bool.false_or, List.any_eq_false]
  exact fun r hmem => fun he => hr r hmem (beq_iff_eq.1 he)

theorem struck_lines : (∀ (pa : Nat) (s : State), Sys2Proof.Safety.memoryOk s → s.invalidating (pa / 128) = false →
    (∀ r ∈ s.replicas, r.snap.line ≠ pa / 128) →
    ∃ t : State, Leads (.uncorrectableError (.line pa)) s t ∧ mdPoison (t.md.read (pa / 128)) = true ∧
      mdState (t.md.read (pa / 128)) = mdState (s.md.read (pa / 128)) ∧ (∀ k, k ≠ pa / 128 → t.md.read k = s.md.read k)) ∧
    ∀ (pa : Nat) (s : State), (s.invalidating (pa / 128) = true ∨ ∃ r ∈ s.replicas, r.snap.line = pa / 128) →
    ∃ t : State, Leads (.uncorrectableError (.line pa)) s t ∧ pa / 128 ∈ t.poisoning ∧ t.invalidating (pa / 128) = true ∧
      t.md = s.md ∧ t.mem = s.mem :=
  ⟨fun pa s ⟨_, _, _, hmd⟩ hi hr => ⟨s.poisonSoon (pa / 128), rfl, poisonSoon_poisons hmd (gatewaysHold_of_none hi hr)⟩,
    fun pa s h => ⟨s.poisonSoon (pa / 128), rfl, poisonSoon_waits (gatewaysHold_of_replica h)⟩⟩

/-! Bytes. -/

/-- Striking bytes marks them and no other, and changes no byte. -/
theorem strike_marks {m : Mem} (h : m.wf = true) (a n x : Nat) :
    (m.strike a n).marks.read x = if a ≤ x ∧ x < a + n then 1 else m.marks.read x :=
  Memory.read_fill n a (Bool.and_eq_true_iff.1 h).2

theorem struck_bytes : (∀ (pa n : Nat) (s : State), s.mem.wf = true →
    ∃ t : State, Leads (.uncorrectableError (.memory pa n)) s t ∧ t.mem.cells = s.mem.cells ∧ t.md = s.md ∧
      (∀ a, t.mem.marks.read a = if pa ≤ a ∧ a < pa + n then 1 else s.mem.marks.read a)) ∧
    (∀ (core off n : Nat) (s : State), core < 768 → off + n ≤ 2 ^ 21 → s.scratch.wf = true →
    ∃ t : State, Leads (.uncorrectableError (.scratch core off n)) s t ∧ t.scratch.cells = s.scratch.cells ∧
      (∀ a, t.scratch.marks.read a =
        if core * 2 ^ 21 + off ≤ a ∧ a < core * 2 ^ 21 + off + n then 1 else s.scratch.marks.read a)) ∧
    ∀ (core w : Nat) (s : State), core < 768 → w < 2 ^ 16 → s.acc.wf = true →
    ∃ t : State, Leads (.uncorrectableError (.tile core w)) s t ∧ t.acc.cells = s.acc.cells ∧
      (∀ a, t.acc.marks.read a =
        if core * 2 ^ 18 + 4 * w ≤ a ∧ a < core * 2 ^ 18 + 4 * w + 4 then 1 else s.acc.marks.read a) := by
  refine ⟨fun pa n s h => ⟨_, rfl, rfl, rfl, strike_marks h pa n⟩, fun core off n s hcore hoff h => ?_,
    fun core w s hcore hw h => ?_⟩
  · have hin : (decide (core < 768) && decide (off + n ≤ 2 ^ 21)) = true := by rw [decide_eq_true hcore, decide_eq_true hoff]; rfl
    exact ⟨{ s with scratch := s.scratch.strike (core * 2 ^ 21 + off) n }, congrArg Host.Outcome.next (if_pos hin), rfl,
      strike_marks h _ n⟩
  · have hin : (decide (core < 768) && decide (w < 2 ^ 16)) = true := by rw [decide_eq_true hcore, decide_eq_true hw]; rfl
    exact ⟨{ s with acc := s.acc.strike (core * 2 ^ 18 + 4 * w) 4 }, congrArg Host.Outcome.next (if_pos hin), rfl,
      strike_marks h _ 4⟩

/-! Registers. -/

section
variable {k : Key} {c : Context} {s : State}

/-- What strikes a register of a context changes the context, and no byte of memory. -/
theorem strikes_context {e : ErrTarget} {f : Context → Context} (he : uncorrectableError e s = s.modCtx k f)
    (hf : (f c).key = c.key) (h : s.ctx? k = some c) :
    Leads (.uncorrectableError e) s (s.modCtx k f) ∧ (s.modCtx k f).ctx? k = some (f c) :=
  ⟨congrArg Host.Outcome.next he, ctx_modCtx h hf⟩

end

theorem set_other {α : Type} {m : Nat} (v : Vector α m) (n i : Fin m) (x : α) (h : i ≠ n) : (v.set n x)[i] = v[i] :=
  Vector.getElem_set_ne n.isLt i.isLt fun e => h (Fin.ext e.symm)

theorem set_same {α : Type} {m : Nat} (v : Vector α m) (n : Fin m) (x : α) : (v.set n x)[n] = x := Vector.getElem_set_self _

theorem struck_scalars : (∀ (k : Key) (n : Fin 32) (s : State) (c : Context), s.ctx? k = some c →
    ∃ (t : State) (c' : Context), Leads (.uncorrectableError (.scalar k n)) s t ∧ t.ctx? k = some c' ∧
      c'.regs.g[n] = { c.regs.g[n] with mark := true } ∧ (∀ i : Fin 32, i ≠ n → c'.regs.g[i] = c.regs.g[i])) ∧
    ∀ (k : Key) (n : Fin 16) (s : State) (c : Context), s.ctx? k = some c →
    ∃ (t : State) (c' : Context), Leads (.uncorrectableError (.queue k n)) s t ∧ t.ctx? k = some c' ∧
      c'.regs.q[n] = { c.regs.q[n] with mark := true } ∧ (∀ i : Fin 16, i ≠ n → c'.regs.q[i] = c.regs.q[i]) ∧
      c'.regs.g = c.regs.g := by
  refine ⟨fun k n s c h => ?_, fun k n s c h => ?_⟩
  · obtain ⟨hleads, hctx⟩ := strikes_context (e := .scalar k n) rfl rfl h
    exact ⟨_, _, hleads, hctx, set_same _ n _, fun i hi => set_other _ n i _ hi⟩
  · obtain ⟨hleads, hctx⟩ := strikes_context (e := .queue k n) rfl rfl h
    exact ⟨_, _, hleads, hctx, set_same _ n _, fun i hi => set_other _ n i _ hi, rfl⟩

/-- A lane of a vector marked. -/
def Vec.strike (l : Fin 128) (v : Vec) : Vec := { v with mark := v.mark ||| ((1 : BitVec 128) <<< l.val) }

theorem struck_lanes : (∀ (k : Key) (n : Fin 16) (l : Fin 128) (s : State) (c : Context), s.ctx? k = some c →
    ∃ (t : State) (c' : Context), Leads (.uncorrectableError (.lane k n l)) s t ∧ t.ctx? k = some c' ∧
      c'.regs.v[n].bits = c.regs.v[n].bits ∧ c'.regs.v[n].mark = c.regs.v[n].mark ||| ((1 : BitVec 128) <<< l.val)) ∧
    ∀ (k : Key) (n : Fin 8) (l : Fin 128) (s : State) (c : Context), s.ctx? k = some c →
    ∃ (t : State) (c' : Context), Leads (.uncorrectableError (.queueLane k n l)) s t ∧ t.ctx? k = some c' ∧
      c'.regs.y[n].bits = c.regs.y[n].bits ∧ c'.regs.y[n].mark = c.regs.y[n].mark ||| ((1 : BitVec 128) <<< l.val) ∧
      c'.regs.v = c.regs.v := by
  refine ⟨fun k n l s c h => ?_, fun k n l s c h => ?_⟩
  · obtain ⟨hleads, hctx⟩ := strikes_context (e := .lane k n l) rfl rfl h
    have hsame := set_same c.regs.v n (c.regs.v[n].strike l)
    exact ⟨_, _, hleads, hctx, (congrArg Vec.bits hsame).trans rfl, (congrArg Vec.mark hsame).trans rfl⟩
  · obtain ⟨hleads, hctx⟩ := strikes_context (e := .queueLane k n l) rfl rfl h
    have hsame := set_same c.regs.y n (c.regs.y[n].strike l)
    exact ⟨_, _, hleads, hctx, (congrArg Vec.bits hsame).trans rfl, (congrArg Vec.mark hsame).trans rfl, rfl⟩

theorem struck_target (k : Key) (n : Fin 8) (s : State) (c : Context) (h : s.ctx? k = some c) :
    ∃ (t : State) (c' : Context), Leads (.uncorrectableError (.target k n)) s t ∧ t.ctx? k = some c' ∧ c'.regs.b[n].marks ≠ 0 ∧
      c'.regs.b[n] = { c.regs.b[n] with marks := c'.regs.b[n].marks } ∧ (∀ i : Fin 8, i ≠ n → c'.regs.b[i] = c.regs.b[i]) ∧
      t.mem = s.mem := by
  obtain ⟨hleads, hctx⟩ := strikes_context (e := .target k n) rfl rfl h
  have hsame := set_same c.regs.b n { c.regs.b[n] with marks := 3 }
  refine ⟨_, _, hleads, hctx, ?_, ?_, fun i hi => set_other _ n i _ hi, State.modCtx_mem _ _ _⟩
  · intro h0
    have hzero : (3 : BitVec 2) = 0 := (congrArg Target.marks hsame).symm.trans h0
    exact absurd hzero (by decide)
  · exact hsame.trans (congrArg (fun m => { c.regs.b[n] with marks := m }) (congrArg Target.marks hsame).symm)

/-- Bytes of the handler's area marked, where it is one and they lie in it. -/
def Context.strikeArea (off n : Nat) (c : Context) : Context :=
  if c.inH && decide (off + n ≤ 256) then { c with area := c.area.strike off n } else c

theorem struck_area (k : Key) (off n : Nat) (s : State) (c : Context) (h : s.ctx? k = some c) (hh : c.inH = true)
    (hin : off + n ≤ 256) (hwf : c.area.wf = true) :
    ∃ (t : State) (c' : Context), Leads (.uncorrectableError (.area k off n)) s t ∧ t.ctx? k = some c' ∧ c'.area.cells = c.area.cells ∧
      c'.regs = c.regs ∧ t.mem = s.mem ∧ t.scratch = s.scratch ∧
      (∀ a, c'.area.marks.read a = if off ≤ a ∧ a < off + n then 1 else c.area.marks.read a) := by
  have hstrike : c.strikeArea off n = { c with area := c.area.strike off n } := by
    rw [Context.strikeArea, hh, decide_eq_true hin, Bool.true_and, if_pos rfl]
  obtain ⟨hleads, hctx⟩ := strikes_context (e := .area k off n) (f := Context.strikeArea off n) rfl (by rw [hstrike]) h
  rw [hstrike] at hctx
  exact ⟨_, _, hleads, hctx, rfl, rfl, State.modCtx_mem _ _ _, State.modCtx_scratch _ _ _, strike_marks hwf off n⟩

/-! Items of channels, and the instruction cache. -/

/-- A lane of an item of a channel marked. -/
def Channel.strike (i : Nat) (l : Fin 128) (ch : Channel) : Channel := { ch with items := ch.items.modify i (Vec.strike l) }

theorem struck_item (chan i : Nat) (l : Fin 128) (s : State) (ch : Channel) (v : Vec)
    (h : s.chans.find? (fun x => x.id == chan) = some ch) (hv : ch.items[i]? = some v) :
    ∃ (t : State) (ch' : Channel) (v' : Vec), Leads (.uncorrectableError (.item chan i l)) s t ∧
      t.chans.find? (fun x => x.id == chan) = some ch' ∧ ch'.items[i]? = some v' ∧ v'.bits = v.bits ∧
      v'.mark = v.mark ||| ((1 : BitVec 128) <<< l.val) ∧ (∀ j, j ≠ i → ch'.items[j]? = ch.items[j]?) ∧ t.mem = s.mem := by
  have hfind : (s.chans.map (fun ch => if ch.id = chan then ch.strike i l else ch)).find? (fun x => x.id == chan) =
      some (ch.strike i l) := by
    have hsame (x : Channel) : (if x.id = chan then x.strike i l else x).id = x.id := by split <;> rfl
    rw [List.find?_map]
    simp only [Function.comp_def, hsame]
    have hid := List.find?_some h
    rw [beq_iff_eq] at hid
    rw [h, Option.map_some, if_pos hid]
  refine ⟨{ s with chans := s.chans.map (fun ch => if ch.id = chan then ch.strike i l else ch) }, ch.strike i l, v.strike l, rfl, hfind,
    ?_, rfl, rfl, fun j hj => ?_, rfl⟩
  · rw [Channel.strike, List.getElem?_modify, hv]
    simp
  · rw [Channel.strike, List.getElem?_modify]
    simp [Ne.symm hj]

theorem struck_icache (core va : Nat) (s : State) (c : Context) (h : s.executing core = some c) :
    ∃ t : State, Leads (.uncorrectableError (.icache core va)) s t ∧
      (t.core core).icErrors = (c.asid, va) :: (s.core core).icErrors := by
  refine ⟨s.modCore core (fun k => { k with icErrors := (c.asid, va) :: k.icErrors }), congrArg Host.Outcome.next ?_, ?_⟩
  · rw [uncorrectableError, h]
  · rw [core_modCore_same s core (f := fun k => { k with icErrors := (c.asid, va) :: k.icErrors }) fun _ => rfl]

/-- Settles O56, one lemma for each kind of place that an error strikes. -/
theorem errorsPoisonOrMark : Obligations.ErrorsPoisonOrMark := by
  obtain ⟨hpoisons, hwaits⟩ := struck_lines
  obtain ⟨hmemory, hscratch, htile⟩ := struck_bytes
  obtain ⟨hscalar, hqueue⟩ := struck_scalars
  obtain ⟨hlane, hqueueLane⟩ := struck_lanes
  exact ⟨hpoisons, hwaits, hmemory, hscratch, htile, hscalar, hlane, hqueue, hqueueLane, struck_target, struck_area, struck_item,
    struck_icache⟩

end Sys2Proof.Machine
end

section
/-! PROOFS. What the command processors and the graph walkers change when they read, join and freeze for themselves. -/
namespace Sys2Proof.Machine
open Sys2Proof.Claims

/-- Only what homes hold, and what translating leaves, differs. -/
def AgentShape (s t : State) : Prop :=
  t = { s with mem := t.mem, md := t.md, watches := t.watches, msgs := t.msgs, nextMsg := t.nextMsg, forwards := t.forwards
               poisonLog := t.poisonLog, bar1 := t.bar1, vectors := t.vectors, counters := t.counters
               tlb := t.tlb, tableCache := t.tableCache, choices := t.choices }

/-- What an agent that acts at the homes changes; it keeps canonical forms. -/
def AgentOnly (s t : State) : Prop := AgentShape s t ∧ KeepsForm s t

theorem agentOnly_chain : Chain AgentOnly :=
  ⟨fun s => ⟨rfl, keepsForm_chain.refl s⟩, fun h h' => ⟨h'.1.trans (by rw [h.1]), keepsForm_chain.trans h.2 h'.2⟩⟩

theorem HomeOnly.agentOnly {s t : State} (h : HomeOnly s t) : AgentOnly s t := ⟨Eq.trans h.1 (by rw [h.1]), h.2⟩

theorem CachesOnly.agentOnly {s t : State} (h : CachesOnly s t) : AgentOnly s t :=
  ⟨Eq.trans h (by rw [h]), keepsForm_of_eq (by rw [h]) (by rw [h])⟩

theorem agentOnly_countRead (s : State) (c : Context) (l : Leaf) (va : Nat) : AgentOnly s (s.countRead c l va) :=
  (homeOnly_countAt s _ _ _ _).agentOnly

theorem agentOnly_countTest (s : State) (c : Context) (l : Leaf) (va : Nat) : AgentOnly s (s.countTest c l va) :=
  agentOnly_chain.foldl (fun _ _ => (homeOnly_countAt _ _ _ _ _).agentOnly) _ _

section
variable (c : Context)

theorem agentOnly_tryTranslate (core : Nat) (asid : BitVec 12) (sys : Bool) (kind : AccessKind) (va : Nat) :
    Keeps AgentOnly (tryTranslate core asid sys kind va) := (keeps_tryTranslate _ _ _ _ _).mono CachesOnly.agentOnly

theorem agentOnly_pure {α : Type} (x : α) : Keeps AgentOnly (pure x) := keeps_pure agentOnly_chain x

theorem agentOnly_bind {α β : Type} {m : M α} {k : α → M β} (hm : Keeps AgentOnly m) (hk : ∀ x, Keeps AgentOnly (k x)) :
    Keeps AgentOnly (m >>= k) := keeps_bind agentOnly_chain hm hk

/-- A home's answer read after the access is counted. -/
theorem agentOnly_set {β : Type} {s t : State} {k : PUnit → M β} (h : AgentOnly s t) (hk : KeepsAt AgentOnly (k ⟨⟩) t) :
    KeepsAt AgentOnly (set t >>= k) s := keepsAt_set agentOnly_chain h hk

theorem agentOnly_copyPlace (kind : AccessKind) (field : Bool) (refuse : Leaf → Option FaultCode) (n va : Nat) :
    Keeps AgentOnly (copyPlace c kind field refuse n va) := by
  have hsteer := (keeps_steerFor c kind n va).mono CachesOnly.agentOnly
  unfold copyPlace
  dsimp only
  split
  · exact agentOnly_pure _
  · refine agentOnly_bind hsteer fun r => ?_
    split
    · exact agentOnly_pure _
    · split <;> exact agentOnly_pure _
    · exact agentOnly_pure _

/-- A constant, read at its home. -/
theorem agentOnly_const (va : Nat) (asks : Bool) : Keeps AgentOnly (agentConst c va asks) := by
  unfold agentConst
  dsimp only
  split
  · exact agentOnly_pure _
  refine agentOnly_bind (agentOnly_tryTranslate _ _ _ _ _) fun r => ?_
  split
  · exact agentOnly_pure _
  next l =>
    split
    · exact agentOnly_pure _
    refine fun s => keepsAt_get ?_
    split
    · exact agentOnly_pure _ s
    · refine agentOnly_set (t := if asks then s.countRead c l va else s) ?_ ?_
      · split
        · exact agentOnly_countRead s c l va
        · exact agentOnly_chain.refl s
      · split
        · exact agentOnly_pure _ _
        · split <;> exact agentOnly_pure _ _

theorem agentOnly_constsFrom (first : Nat) : ∀ n va, Keeps AgentOnly (agentConstsFrom c first va n)
  | 0, _ => agentOnly_pure _
  | n + 1, va => by
    rw [agentConstsFrom]
    refine agentOnly_bind (agentOnly_const c va _) fun r => ?_
    split
    · exact agentOnly_pure _
    · refine agentOnly_bind (agentOnly_constsFrom first n _) fun r => ?_
      split <;> exact agentOnly_pure _

theorem agentOnly_consts (va n : Nat) : Keeps AgentOnly (agentConsts c va n) := agentOnly_constsFrom c va n va

theorem agentOnly_field (kind : AccessKind) (refuse : Leaf → Option FaultCode) (align va : Nat) :
    Keeps AgentOnly (agentField c kind refuse align va) := by
  unfold agentField
  refine agentOnly_bind (agentOnly_copyPlace c _ _ _ _ _) fun r => ?_
  split
  · exact agentOnly_pure _
  · split
    · exact agentOnly_pure _
    · dsimp only
      split
      · exact fun _ => trivial
      · refine fun s => keepsAt_get ?_
        split
        · exact keepsAt_get (agentOnly_pure _ s)
        · exact agentOnly_pure _ s
  · exact agentOnly_pure _

theorem agentOnly_exact (va : Nat) : Keeps AgentOnly (agentExact c va) := by
  unfold agentExact
  refine agentOnly_bind (agentOnly_field c _ _ _ _) fun r => ?_
  split
  · exact agentOnly_pure _
  next l =>
    refine agentOnly_bind (fun s => keepsAt_modify (agentOnly_countRead s c l va)) fun _ => fun s => keepsAt_get ?_
    split
    · exact agentOnly_pure _ s
    · exact keepsAt_get (agentOnly_pure _ s)

theorem agentOnly_ask (types : Nat → Bool) (va : Nat) : Keeps AgentOnly (agentAsk c types va) := by
  unfold agentAsk
  refine agentOnly_bind (agentOnly_field c _ _ _ _) fun r => ?_
  split
  · exact agentOnly_pure _
  next l => exact fun s => keepsAt_modify (agentOnly_countTest s c l va)

theorem agentOnly_test (types : Nat → Bool) (va : Nat) (trig : Word) : Keeps AgentOnly (agentTest c types va trig) := by
  unfold agentTest
  refine agentOnly_bind (agentOnly_field c _ _ _ _) fun r => ?_
  split
  · exact agentOnly_pure _
  · split
    · exact agentOnly_pure _
    · refine fun s => keepsAt_get ?_
      split <;> exact agentOnly_pure _ s

theorem agentOnly_join (va : Nat) : Keeps AgentOnly (agentJoin c va) := by
  unfold agentJoin
  refine agentOnly_bind (agentOnly_field c _ _ _ _) fun r => ?_
  split
  · exact agentOnly_pure _
  next l =>
    refine fun s => keepsAt_get ?_
    exact agentOnly_set (agentOnly_chain.trans (agentOnly_countRead s c l va) (homeOnly_joinAt _ _).agentOnly) (agentOnly_pure _ _)

/-! Records. -/

theorem agentOnly_recordWord (va : Nat) (asks : Bool) : Keeps AgentOnly (agentRecordWord c va asks) := by
  unfold agentRecordWord
  refine agentOnly_bind (agentOnly_copyPlace c _ _ _ _ _) fun r => ?_
  split
  · exact agentOnly_pure _
  next l =>
    split
    · exact agentOnly_bind (agentOnly_const c va asks) fun _ => agentOnly_pure _
    · refine fun s => keepsAt_get ?_
      split
      · exact agentOnly_pure _ s
      · refine agentOnly_set (t := if asks then s.countRead c l va else s) ?_ (agentOnly_pure _ _)
        split
        · exact agentOnly_countRead s c l va
        · exact agentOnly_chain.refl s
  · refine fun s => keepsAt_get ?_
    split <;> exact agentOnly_pure _ s
  · exact fun s => keepsAt_get (agentOnly_pure _ s)
  · exact agentOnly_pure _

theorem agentOnly_recordWords (first : Nat) : ∀ n va, Keeps AgentOnly (agentRecordWords c first va n)
  | 0, _ => agentOnly_pure _
  | n + 1, va => by
    rw [agentRecordWords]
    refine agentOnly_bind (agentOnly_recordWord c va _) fun r => ?_
    split
    · exact agentOnly_pure _
    · refine agentOnly_bind (agentOnly_recordWords first n _) fun r => ?_
      split <;> exact agentOnly_pure _

theorem agentOnly_record (launch va : Nat) : Keeps AgentOnly (agentRecord c launch va) := by
  unfold agentRecord
  split
  · exact agentOnly_pure _
  refine agentOnly_bind (agentOnly_recordWords c va 8 va) fun r => ?_
  split
  · exact agentOnly_pure _
  · split
    · exact agentOnly_pure _
    · dsimp only
      split
      · exact agentOnly_pure _
      · split <;> exact agentOnly_pure _

/-! Ranges. -/

theorem agentOnly_pages (local_ : Bool) : ∀ vas, Keeps AgentOnly (agentPages c local_ vas)
  | [] => agentOnly_pure _
  | va :: rest => by
    rw [agentPages]
    refine agentOnly_bind (agentOnly_field c _ _ _ _) fun r => ?_
    split
    · exact agentOnly_pure _
    · split
      · exact agentOnly_pure _
      · refine agentOnly_bind (agentOnly_pages local_ rest) fun r => ?_
        split <;> exact agentOnly_pure _

theorem agentOnly_freeze (local_ : Bool) (a n : Nat) : Keeps AgentOnly (agentFreeze c local_ a n) := by
  unfold agentFreeze
  refine agentOnly_bind (agentOnly_pages c local_ _) fun r => ?_
  split
  · exact agentOnly_pure _
  next ps =>
    refine agentOnly_bind (fun s => keepsAt_modify ?_) fun _ => agentOnly_pure _
    refine agentOnly_chain.foldl (fun s p => agentOnly_chain.foldl (fun s i => ?_) _ _) _ _
    dsimp only
    split
    · exact agentOnly_chain.trans (agentOnly_countRead s c p.2 _) (homeOnly_freezeAt _ _ _).agentOnly
    · exact agentOnly_chain.refl s

/-! Migration copies. -/

theorem agentOnly_leafAt (kind : AccessKind) (va : Nat) : Keeps AgentOnly (leafAt c kind va) := by
  unfold leafAt
  split
  · exact agentOnly_pure _
  refine agentOnly_bind (agentOnly_tryTranslate _ _ _ _ _) fun r => ?_
  split <;> exact agentOnly_pure _

theorem agentOnly_migrationAt (g : CopyCfg) (src dst : Nat) : Keeps AgentOnly (migrationAt c g src dst) := by
  unfold migrationAt
  split
  · exact agentOnly_pure _
  refine agentOnly_bind (agentOnly_leafAt c _ _) fun r => ?_
  split
  · exact agentOnly_pure _
  · split
    · exact agentOnly_pure _
    refine agentOnly_bind (agentOnly_leafAt c _ _) fun r => ?_
    split
    · exact agentOnly_pure _
    · exact agentOnly_pure _

theorem agentOnly_migrates (fill : Bool) (src dst : BitVec 48) (len : Nat) : Keeps AgentOnly (agentMigrates c fill src dst len) := by
  unfold agentMigrates
  split
  · exact agentOnly_pure _
  refine agentOnly_bind (agentOnly_migrationAt c _ _ _) fun r => ?_
  split
  · exact agentOnly_pure _
  · split <;> exact agentOnly_pure _

end

end Sys2Proof.Machine
end

section
/-! PROOFS. The legacy commands of a context (O51). -/
namespace Sys2Proof.Machine
open Sys2Proof.Claims
variable {k : Key} {l : Legacy} {s s0 s1 : State} {fill mig : Bool} {x : CopyUnit} {op : Nat}

theorem legacyHead_find (h : s.legacyHead k op = some l) : s.legacy.find? (fun l => l.k == k) = some l ∧ l.op = op := by
  rw [State.legacyHead] at h
  split at h
  next l' hfind =>
    split at h
    next hop =>
      obtain rfl := Option.some.inj h
      exact ⟨hfind, hop⟩
    · nomatch h
  · nomatch h

/-! The end of a command. -/

theorem legacyDone_plain (h : l.cell = 0) : s.legacyDone l = some (s.setLegacy l none) := by
  rw [State.legacyDone, if_pos h]

theorem legacyDone_joins (h : l.cell ≠ 0) (hjoin : Gives (agentJoin (s.legacyCtx l) l.cell.toNat) s none s1) :
    s.legacyDone l = some (s1.setLegacy l none) := by
  rw [State.legacyDone, if_neg h, runM_of_gives hjoin]

theorem legacyDone_waits (h : l.cell ≠ 0) (hjoin : s.runM (agentJoin (s.legacyCtx l) l.cell.toNat) = none) : s.legacyDone l = none := by
  rw [State.legacyDone, if_neg h, hjoin]

/-! A copy or fill. -/

/-- A unit of a command, whether it is of a migration copy found first. -/
def legacyUnit (s : State) (l : Legacy) (fill : Bool) (x : CopyUnit) : M (Except FaultInfo (Bool × AgentUnit)) := do
  match (← if l.done = 0 then agentMigrates (s.legacyCtx l) fill l.src l.dst l.len else pure (.ok l.mig)) with
  | .error f => return .error f
  | .ok mig => return .ok (mig, ← agentCopyUnit (s.legacyCtx l) fill mig x)

/-- The unit, whether it is of a migration copy being known. -/
def legacyAct (c : Context) (fill : Bool) (x : CopyUnit) : Except FaultInfo Bool → M (Except FaultInfo (Bool × AgentUnit))
  | .error f => pure (.error f)
  | .ok mig => do return .ok (mig, ← agentCopyUnit c fill mig x)

theorem legacyUnit_eq (s : State) (l : Legacy) (fill : Bool) (x : CopyUnit) : legacyUnit s l fill x =
    (if l.done = 0 then agentMigrates (s.legacyCtx l) fill l.src l.dst l.len else pure (.ok l.mig)) >>=
      legacyAct (s.legacyCtx l) fill x := by
  have hact : (legacyAct (s.legacyCtx l) fill x) = fun r => match r with
      | .error f => pure (.error f)
      | .ok mig => do return .ok (mig, ← agentCopyUnit (s.legacyCtx l) fill mig x) := by
    funext r
    cases r <;> rfl
  rw [legacyUnit, hact]
  split <;> rfl

/-- What the command comes to with its unit. -/
def legacyLeft (s : State) (l : Legacy) : Option (Except FaultInfo (Bool × AgentUnit) × State) → State
  | none => s
  | some (.ok (_, .wait), s1) => s1
  | some (.error f, s1) | some (.ok (_, .fault f), s1) => s1.legacyFault l f
  | some (.ok (mig, .done), s1) => s1.setLegacy l (some { l with done := l.done + 1, mig := mig })

theorem legacyCopyStep_unit (hu : agentUnit l.src l.dst l.len l.done = some x) (ha : s.legacyAway l [x.src, x.dst] = false) :
    s.legacyCopyStep l fill = legacyLeft s l (s.runM (legacyUnit s l fill x)) := by
  rw [State.legacyCopyStep, hu]
  dsimp only
  rw [ha, if_neg Bool.false_ne_true]
  rfl

theorem legacyCopyStep_away (hu : agentUnit l.src l.dst l.len l.done = some x) (ha : s.legacyAway l [x.src, x.dst] = true) :
    s.legacyCopyStep l fill = s := by
  rw [State.legacyCopyStep, hu]
  dsimp only
  rw [ha, if_pos rfl]

theorem legacyCopyStep_ends (hu : agentUnit l.src l.dst l.len l.done = none) : s.legacyCopyStep l fill = (s.legacyDone l).getD s := by
  rw [State.legacyCopyStep, hu]

theorem legacyUnit_gives {r : AgentUnit} (hmig : Migrates s l fill (.ok mig) s0)
    (hunit : Gives (agentCopyUnit (s.legacyCtx l) fill mig x) s0 r s1) : Gives (legacyUnit s l fill x) s (.ok (mig, r)) s1 := by
  rw [legacyUnit_eq]
  exact gives_bind hmig (gives_bind hunit (gives_pure _ _))

theorem legacyUnit_refused {f : FaultInfo} (hmig : Migrates s l fill (.error f) s1) : Gives (legacyUnit s l fill x) s (.error f) s1 := by
  rw [legacyUnit_eq]
  exact gives_bind hmig (gives_pure _ _)

/-- A command that faults has its record. -/
theorem legacyFault_records (s : State) (l : Legacy) (f : FaultInfo) : ∃ r : FaultRec,
    (s.legacyFault l f).legacy = (s.setLegacy l none).legacy ∧ (s.legacyFault l f).records = s.records ++ [r] ∧ r.kind = 6 ∧
    r.info = f ∧ r.pc = l.pc ∧ r.asid = l.k.asid ∧ r.ctxid = l.k.ctxid :=
  ⟨_, rfl, postRecord_records (s.setLegacy l none) _, rfl, rfl, rfl, rfl, rfl⟩

/-- A copy and a fill take a step with their first command, if it is of their operation. -/
theorem legacy_steps (p : (Key → Instr) × Nat × Bool)
    (hp : p ∈ ([(.legacyCopy, 1, false), (.legacyFill, 2, true)] : List ((Key → Instr) × Nat × Bool)))
    (h : s.legacyHead k p.2.1 = some l) : Leads (p.1 k) s (s.legacyCopyStep l p.2.2) := by
  rcases List.mem_cons.1 hp with rfl | hp
  · exact congrArg Host.Outcome.next (by rw [legacyCopy, h])
  · obtain rfl := List.mem_singleton.1 hp
    exact congrArg Host.Outcome.next (by rw [legacyFill, h])

theorem legacy_copies : ∀ p ∈ ([(.legacyCopy, 1, false), (.legacyFill, 2, true)] : List ((Key → Instr) × Nat × Bool)),
    ∀ (k : Key) (s : State) (l : Legacy), s.legacyHead k p.2.1 = some l →
    (∀ x s0 s1 mig, agentUnit l.src l.dst l.len l.done = some x → s.legacyAway l [x.src, x.dst] = false →
      Migrates s l p.2.2 (.ok mig) s0 → Gives (agentCopyUnit (s.legacyCtx l) p.2.2 mig x) s0 .done s1 →
      Leads (p.1 k) s (s1.setLegacy l (some { l with done := l.done + 1, mig := mig }))) ∧
    (∀ x s0 s1 f, agentUnit l.src l.dst l.len l.done = some x → s.legacyAway l [x.src, x.dst] = false →
      ((∃ mig, Migrates s l p.2.2 (.ok mig) s0 ∧ Gives (agentCopyUnit (s.legacyCtx l) p.2.2 mig x) s0 (.fault f) s1) ∨
        Migrates s l p.2.2 (.error f) s1) →
      ∃ (t : State) (r : FaultRec), Leads (p.1 k) s t ∧ t.legacy = (s1.setLegacy l none).legacy ∧ t.records = s1.records ++ [r] ∧ r.kind = 6 ∧
        r.info = f ∧ r.pc = l.pc ∧ r.asid = l.k.asid ∧ r.ctxid = l.k.ctxid) ∧
    (∀ x, agentUnit l.src l.dst l.len l.done = some x → s.legacyAway l [x.src, x.dst] = true → Leads (p.1 k) s s) ∧
    (agentUnit l.src l.dst l.len l.done = none → l.cell = 0 → Leads (p.1 k) s (s.setLegacy l none)) ∧
    (∀ s1, agentUnit l.src l.dst l.len l.done = none → l.cell ≠ 0 →
      Gives (agentJoin (s.legacyCtx l) l.cell.toNat) s none s1 → Leads (p.1 k) s (s1.setLegacy l none)) := by
  intro p hp k s l h
  have hsteps := legacy_steps p hp h
  refine ⟨fun x s0 s1 mig hu ha hmig hunit => ?_, fun x s0 s1 f hu ha hfault => ?_, fun x hu ha => ?_, fun hu hcell => ?_,
    fun s1 hu hcell hjoin => ?_⟩
  · rwa [legacyCopyStep_unit hu ha, runM_of_gives (legacyUnit_gives hmig hunit)] at hsteps
  · have hleft : s.legacyCopyStep l p.2.2 = s1.legacyFault l f := by
      rw [legacyCopyStep_unit hu ha]
      rcases hfault with ⟨mig, hmig, hunit⟩ | hmig
      · rw [runM_of_gives (legacyUnit_gives hmig hunit)]
        rfl
      · rw [runM_of_gives (legacyUnit_refused hmig)]
        rfl
    rw [hleft] at hsteps
    obtain ⟨r, hrecord⟩ := legacyFault_records s1 l f
    exact ⟨_, r, hsteps, hrecord⟩
  · rwa [legacyCopyStep_away hu ha] at hsteps
  · rwa [legacyCopyStep_ends hu, legacyDone_plain hcell] at hsteps
  · rwa [legacyCopyStep_ends hu, legacyDone_joins hcell hjoin] at hsteps

/-! A launch. -/

theorem setLegacy_eq (s : State) (l : Legacy) (new : Option Legacy) :
    s.setLegacy l new = { s with legacy := State.setLegacy.go l new s.legacy } := rfl

/-- A first command changed and then taken out is taken out. -/
theorem setLegacy_twice {l1 : Legacy} (hk : l1.k = l.k) : ∀ ls : List Legacy, ls.find? (fun x => x.k == k) = some l →
    State.setLegacy.go l1 none (State.setLegacy.go l (some l1) ls) = State.setLegacy.go l none ls
  | [], h => nomatch h
  | x :: ls, h => by
    have hlk := List.find?_some h
    rw [beq_iff_eq] at hlk
    rw [List.find?_cons] at h
    split at h
    next =>
      obtain rfl := Option.some.inj h
      rw [State.setLegacy.go, if_pos rfl, State.setLegacy.go, if_pos rfl, State.setLegacy.go, if_pos rfl]
    next hne =>
      have hxk : x.k ≠ k := fun he => by rw [he, beq_self_eq_true] at hne; nomatch hne
      have hl : x ≠ l := fun he => hxk (he ▸ hlk)
      have hl1 : x ≠ l1 := fun he => hxk (by rw [he, hk, hlk])
      rw [State.setLegacy.go, if_neg hl, State.setLegacy.go, if_neg hl1, State.setLegacy.go, if_neg hl, setLegacy_twice hk ls h]

theorem legacyLaunch_eq (h : s.legacyHead k 3 = some l) (hdone : l.done = 0) (ha : s.legacyAway l [l.src.toNat] = false) :
    legacyLaunch k s = match s.runM (agentRecord (s.legacyCtx l) 0 l.src.toNat) with
      | none => s
      | some (.error f, s1) => s1.legacyFault l f
      | some (.ok r, s1) =>
        match s1.redirect (l.dst.toNat % 1024) with
        | none => s
        | some core =>
          if !s1.inboxRoom core (decide (r.cls = 1)) then s
          else
            let x : Launch := { id := s1.nextSeq, queue := none, tag := 0, mode := 0, asid := l.k.asid, kind := 3 }
            let s2 : State := { s1 with nextSeq := s1.nextSeq + 1, launches := s1.launches ++ [x] }
            let l1 : Legacy := { l with done := 1 }
            let s3 := (s2.putInbox core (decide (r.cls = 1)) { r with key := l.key, launch := x.id }).setLegacy l (some l1)
            (s3.legacyDone l1).getD s3 := by
  rw [legacyLaunch, h]
  dsimp only
  rw [if_neg (not_not_intro hdone), ha, if_neg Bool.false_ne_true] <;> rfl

/-- A launch whose record has been delivered has its end. -/
theorem legacyLaunch_ends (h : s.legacyHead k 3 = some l) (hdone : l.done ≠ 0) : legacyLaunch k s = (s.legacyDone l).getD s := by
  rw [legacyLaunch, h]
  dsimp only
  rw [if_pos hdone]

/-- The launch that a command makes. -/
def legacyLaunchOf (s : State) (l : Legacy) : Launch :=
  { id := s.nextSeq, queue := none, tag := 0, mode := 0, asid := l.k.asid, kind := 3 }

/-- The record of a launch delivered. -/
def launchDelivered (s : State) (l : Legacy) (core : Nat) (r : TaskRec) : State :=
  (({ s with nextSeq := s.nextSeq + 1, launches := s.launches ++ [legacyLaunchOf s l] } : State).putInbox core (decide (r.cls = 1))
    { r with key := l.key, launch := s.nextSeq }).setLegacy l (some { l with done := 1 })

theorem launchDelivered_legacy (s : State) (l : Legacy) (core : Nat) (r : TaskRec) :
    (launchDelivered s l core r).legacy = (s.setLegacy l (some { l with done := 1 })).legacy := rfl

/-- The record stands last in the inbox of its class. -/
theorem launchDelivered_core (s : State) (l : Legacy) (core : Nat) (r : TaskRec) :
    (r.cls = 1 → ((launchDelivered s l core r).core core).high = (s.core core).high ++ [{ r with key := l.key, launch := s.nextSeq }]) ∧
    (r.cls ≠ 1 → ((launchDelivered s l core r).core core).inbox = (s.core core).inbox ++ [{ r with key := l.key, launch := s.nextSeq }]) := by
  obtain ⟨hinbox, hhigh, -⟩ := putInbox_core core (decide (r.cls = 1)) { r with key := l.key, launch := s.nextSeq }
    { s with nextSeq := s.nextSeq + 1, launches := s.launches ++ [legacyLaunchOf s l] }
  refine ⟨fun h => hhigh.trans ?_, fun h => hinbox.trans ?_⟩
  · rw [decide_eq_true h, if_pos rfl]
    rfl
  · rw [decide_eq_false h, if_neg Bool.false_ne_true]
    rfl

theorem legacy_launches : ∀ (k : Key) (s s1 : State) (l : Legacy) (r : TaskRec) (core : Nat), s.legacyHead k 3 = some l →
    l.done = 0 → s.legacyAway l [l.src.toNat] = false → Gives (agentRecord (s.legacyCtx l) 0 l.src.toNat) s (.ok r) s1 →
    s1.redirect (l.dst.toNat % 1024) = some core → s1.inboxRoom core (decide (r.cls = 1)) = true →
    ∃ s2 t : State, Leads (.legacyLaunch k) s t ∧ s2.legacy = (s1.setLegacy l (some { l with done := 1 })).legacy ∧
      s2.launches = s1.launches ++ [{ id := s1.nextSeq, queue := none, tag := 0, mode := 0, asid := l.k.asid, kind := 3 }] ∧
       (r.cls = 1 → (s2.core core).high = (s1.core core).high ++ [{ r with key := l.key, launch := s1.nextSeq }]) ∧
       (r.cls ≠ 1 → (s2.core core).inbox = (s1.core core).inbox ++ [{ r with key := l.key, launch := s1.nextSeq }]) ∧
       (l.cell = 0 → t = { s2 with legacy := (s1.setLegacy l none).legacy }) ∧
       (∀ s3, l.cell ≠ 0 → Gives (agentJoin (s2.legacyCtx { l with done := 1 }) l.cell.toNat) s2 none s3 →
         t = s3.setLegacy { l with done := 1 } none) ∧
       (l.cell ≠ 0 → s2.runM (agentJoin (s2.legacyCtx { l with done := 1 }) l.cell.toNat) = none → t = s2) := by
  intro k s s1 l r core h hdone ha hrec hcore hroom
  have hkept : s1.legacy = s.legacy := by rw [((agentOnly_record _ _ _ s).of_gives hrec).1]
  have hexec : legacyLaunch k s = ((launchDelivered s1 l core r).legacyDone { l with done := 1 }).getD (launchDelivered s1 l core r) := by
    rw [legacyLaunch_eq h hdone ha, runM_of_gives hrec]
    dsimp only
    rw [hcore]
    dsimp only
    rw [hroom]
    rfl
  obtain ⟨hhigh, hinbox⟩ := launchDelivered_core s1 l core r
  refine ⟨launchDelivered s1 l core r, legacyLaunch k s, rfl, rfl, rfl, hhigh, hinbox, fun hcell => ?_, fun s3 hcell hjoin => ?_,
    fun hcell hwait => ?_⟩
  · have hfind := (legacyHead_find h).1
    rw [← hkept] at hfind
    rw [hexec, legacyDone_plain (l := { l with done := 1 }) hcell, Option.getD_some]
    exact congrArg (fun ls => { launchDelivered s1 l core r with legacy := ls }) (setLegacy_twice (l := l) (l1 := { l with done := 1 }) rfl _ hfind)
  · rw [hexec, legacyDone_joins (l := { l with done := 1 }) hcell hjoin, Option.getD_some]
  · rw [hexec, legacyDone_waits (l := { l with done := 1 }) hcell hwait, Option.getD_none]

/-- Settles O51: a copy and a fill take a unit or come to their end, a launch delivers its record and then joins its cell. -/
theorem legacyCommandsRun : Obligations.LegacyCommandsRun := by
  refine ⟨legacy_copies, legacy_launches, fun k s s1 l h hdone hcell hjoin => ?_, fun k s s1 l f h hdone ha hrec => ?_⟩
  · exact congrArg Host.Outcome.next (by rw [legacyLaunch_ends h hdone, legacyDone_joins hcell hjoin, Option.getD_some])
  · obtain ⟨r, -, hrecords, hkind, hinfo, hpc, -⟩ := legacyFault_records s1 l f
    exact ⟨_, r, congrArg Host.Outcome.next (by rw [legacyLaunch_eq h hdone ha, runM_of_gives hrec]), hrecords, hkind, hinfo, hpc⟩

end Sys2Proof.Machine
end

section
/-! PROOFS. Who is found by a key when contexts change, leave and are taken out, and the watches that end with a fault code. -/
namespace Sys2Proof.Machine
open Sys2Proof.Claims
variable {s t : State} {c : Context} {k : Key}

/-! Contexts of other keys. -/

theorem putCtx_find_other (h : c.key ≠ k) : ∀ l : List Context,
    (putCtx l c).find? (fun x => x.key == k) = l.find? (fun x => x.key == k)
  | [] => by rw [putCtx, List.find?_cons, beq_false_of_ne h]
  | x :: l => by
    rw [putCtx]
    split
    next he => rw [List.find?_cons, List.find?_cons, beq_false_of_ne h, he, beq_false_of_ne h]
    next => rw [List.find?_cons, List.find?_cons, putCtx_find_other h l]

theorem ctx_setCtx_other (h : c.key ≠ k) : (s.setCtx c).ctx? k = s.ctx? k := by
  rw [State.setCtx]
  split
  next hcur =>
    obtain ⟨hbusy, hkey⟩ := Bool.and_eq_true_iff.1 hcur
    rw [beq_iff_eq] at hkey
    rw [State.ctx?, State.ctx?]
    dsimp only
    rw [hkey, beq_false_of_ne h, Bool.and_false, if_neg Bool.false_ne_true, if_neg Bool.false_ne_true]
  next =>
    rw [State.ctx?, State.ctx?]
    dsimp only
    rw [putCtx_find_other h]

theorem ctx_modCtx_other {k' : Key} {f : Context → Context} (hf : ∀ c, (f c).key = c.key) (h : k' ≠ k) :
    (s.modCtx k' f).ctx? k = s.ctx? k := by
  rw [State.modCtx]
  split
  next c hc =>
    have hkey : (f c).key = k' := (hf c).trans (ctx_key hc)
    exact ctx_setCtx_other (by rw [hkey]; exact h)
  · rfl

theorem find_dropped {k' : Key} (h : k' ≠ k) : ∀ l : List Context,
    (l.filter (fun x => x.key != k')).find? (fun x => x.key == k) = l.find? (fun x => x.key == k)
  | [] => rfl
  | x :: l => by
    rw [List.filter_cons]
    split
    next => rw [List.find?_cons, List.find?_cons, find_dropped h l]
    next hx =>
      have hkey : x.key = k' := by
        rw [Bool.not_eq_true, bne_eq_false_iff_eq] at hx
        exact hx
      rw [List.find?_cons, hkey, beq_false_of_ne h, find_dropped h l]

/-- The context that leaves is found where it stands. -/
theorem ctx_leave (s : State) (c : Context) : (s.leave c).ctx? c.key = some c := by
  rw [State.leave, State.ctx?]
  dsimp only
  rw [Bool.false_and, if_neg Bool.false_ne_true]
  exact putCtx_find c s.ctxs

/-- One of another key is found as before when the current context leaves. -/
theorem ctx_leave_other (hbusy : s.busy = true) (hc : s.cur.key = c.key) (h : c.key ≠ k) : (s.leave c).ctx? k = s.ctx? k := by
  rw [State.leave, State.ctx?, State.ctx?]
  dsimp only
  rw [Bool.false_and, if_neg Bool.false_ne_true, putCtx_find_other h, hc, beq_false_of_ne h, Bool.and_false, if_neg Bool.false_ne_true]

theorem ctx_dropCtx_other {k' : Key} (h : k' ≠ k) : (s.dropCtx k').ctx? k = s.ctx? k := by
  rw [State.dropCtx]
  split
  next hcur =>
    obtain ⟨-, hkey⟩ := Bool.and_eq_true_iff.1 hcur
    rw [beq_iff_eq] at hkey
    rw [State.ctx?, State.ctx?]
    dsimp only
    rw [Bool.false_and, if_neg Bool.false_ne_true, hkey, beq_false_of_ne h, Bool.and_false, if_neg Bool.false_ne_true]
  next =>
    rw [State.ctx?, State.ctx?]
    dsimp only
    rw [find_dropped h]

theorem mem_of_ctx (h : s.ctx? k = some c) : c ∈ s.allCtxs := by
  rw [State.ctx?] at h
  rw [State.allCtxs, List.mem_append]
  split at h
  next hcur =>
    left
    rw [(Bool.and_eq_true_iff.1 hcur).1, if_pos rfl, ← Option.some.inj h]
    exact List.mem_singleton_self _
  next => exact Or.inr (List.mem_of_find?_eq_some h)

/-! The outcome of a test at its context. -/

/-- The context of `k` waits in `u` for the outcome of its request `n`, as it did as `c`. -/
def AwaitsTest (c : Context) (k : Key) (n : Nat) (u : State) : Prop :=
  ∃ c' : Context, u.ctx? k = some c' ∧ c'.regs = c.regs ∧ c'.asked = true ∧ c'.nextReq = n ∧ c'.reply = none ∧ c'.status = c.status

/-- The outcome is there: the test has ended with the code, and the context is ready if it was parked for it. -/
def TestLost (code : FaultCode) (c : Context) (k : Key) (n : Nat) (u : State) : Prop :=
  ∃ c' : Context, u.ctx? k = some c' ∧ c'.reply = some { n := n, r := .lost code } ∧ c'.regs = c.regs ∧
    ∀ st, c.status = .parked .reply st → ∃ st', c'.status = .ready st'

section
variable {u : State} {n : Nat} {code : FaultCode} {w : Who} {va : Word}

theorem wokenIf_none {p : Context → Wait → Bool} (h : ∀ x, p c x = false) (st : Nat) : c.wokenIf p st = c := by
  rw [Context.wokenIf]
  split
  · rw [h, if_neg Bool.false_ne_true]
  · rfl

/-- What does not go to an instruction of the context leaves it as it is. -/
theorem takeResult_other (r : TestResult) (h : ∀ n, w ≠ .ctx k n) : (u.takeResult w r va).ctx? k = u.ctx? k := by
  cases w with
  | copy => rfl
  | watch k' core rec pc =>
    rw [State.takeResult]
    split
    · rfl
    next code _ =>
      obtain ⟨ls, m, qs, v, hs⟩ := settleLaunch_eq (s := u.postRecord
        { id := 0, asid := k'.asid, ctxid := k'.ctxid, kind := 3, info := u.answerFault k'.asid code va, pc := pc, live := false })
        rec.launch
      rw [hs]
      rfl
  | ctx k' n =>
    have hne : k' ≠ k := fun he => h n (by rw [he])
    rw [State.takeResult]
    split
    · rfl
    · split
      · rw [ctx_wakeWhere, ctx_modCtx_other (fun _ => by rfl) hne]
        cases hc : u.ctx? k with
        | none => rfl
        | some c' =>
          have hk : c'.key ≠ k' := fun he => hne (by rw [← he, ctx_key hc])
          rw [Option.map_some, wokenIf_none fun x => by rw [beq_false_of_ne hk, Bool.false_and]]
      · rfl

/-- An outcome for another request of the context, or for one that is not there, is left. -/
theorem takeResult_left {m : Nat} (r : TestResult) {c' : Context} (hc : u.ctx? k = some c')
    (h : (c'.asked && c'.nextReq == m && c'.reply.isNone) = false) : u.takeResult (.ctx k m) r va = u := by
  rw [State.takeResult, hc]
  dsimp only
  rw [if_neg (by rw [h]; exact Bool.false_ne_true)]

theorem takeResult_lost (h : TestLost code c k n u) (w : Who) (r : TestResult) : TestLost code c k n (u.takeResult w r va) := by
  obtain ⟨c', hc, hreply, hrest⟩ := h
  by_cases hw : ∃ m, w = .ctx k m
  · obtain ⟨m, rfl⟩ := hw
    have hleft : (c'.asked && c'.nextReq == m && c'.reply.isNone) = false := by rw [hreply]; exact Bool.and_false _
    rw [takeResult_left r hc hleft]
    exact ⟨c', hc, hreply, hrest⟩
  · exact ⟨c', by rw [takeResult_other r fun m he => hw ⟨m, he⟩, hc], hreply, hrest⟩

/-- The outcome of a request there. -/
def Context.withLost (n : Nat) (code : FaultCode) (c : Context) : Context := { c with reply := some { n := n, r := .lost code } }

/-- The outcome of the request that the context waits for ends its test. -/
theorem takeResult_loses (h : AwaitsTest c k n u) : TestLost code c k n (u.takeResult (.ctx k n) (.lost code) va) := by
  obtain ⟨c', hc, hregs, hasked, hn, hreply, hst⟩ := h
  have htaken : u.takeResult (.ctx k n) (.lost code) va =
      (u.modCtx k (Context.withLost n code)).wakeWhere (fun x w => x.key == k && w == .reply) := by
    rw [State.takeResult, hc]
    dsimp only
    rw [if_pos (by rw [hasked, hn, hreply, beq_self_eq_true]; rfl)]
    rfl
  have hmod : (u.modCtx k (Context.withLost n code)).ctx? k = some (c'.withLost n code) := ctx_modCtx hc rfl
  obtain ⟨st', hst'⟩ := wokenIf_eq (fun x w => x.key == k && w == .reply) (u.modCtx k (Context.withLost n code)).nextSeq
    (c'.withLost n code)
  rw [TestLost, htaken, ctx_wakeWhere, hmod, Option.map_some]
  refine ⟨_, rfl, by rw [hst']; rfl, by rw [hst']; exact hregs, fun st hpark => ⟨(u.modCtx k (Context.withLost n code)).nextSeq, ?_⟩⟩
  rw [← hst] at hpark
  have hparked : (c'.withLost n code).status = .parked .reply st := hpark
  have hkey : (c'.withLost n code).key = k := (ctx_key hc : c'.key = k)
  rw [Context.wokenIf, hparked]
  dsimp only
  rw [hkey, beq_self_eq_true, beq_self_eq_true, Bool.true_and, if_pos rfl, Context.wake, hparked]

theorem takeResult_awaits (h : AwaitsTest c k n u) (w : Who) : AwaitsTest c k n (u.takeResult w (.lost code) va) ∨
    TestLost code c k n (u.takeResult w (.lost code) va) := by
  by_cases hw : ∃ m, w = .ctx k m
  · obtain ⟨m, rfl⟩ := hw
    by_cases hm : m = n
    · subst hm
      exact .inr (takeResult_loses h)
    · obtain ⟨c', hc, hregs, hasked, hn, hrest⟩ := h
      have hleft : (c'.asked && c'.nextReq == m && c'.reply.isNone) = false := by
        rw [hn, beq_false_of_ne (Ne.symm hm), Bool.and_false, Bool.false_and]
      rw [takeResult_left _ hc hleft]
      exact .inl ⟨c', hc, hregs, hasked, hn, hrest⟩
  · obtain ⟨c', hc, hrest⟩ := h
    exact .inl ⟨c', by rw [takeResult_other _ fun m he => hw ⟨m, he⟩, hc], hrest⟩

/-- The watches failed one by one: a context that waited for one of them has its outcome. -/
theorem failed_lost (ws : List Watch) (h : AwaitsTest c k n u ∨ TestLost code c k n u)
    (hw : TestLost code c k n u ∨ ∃ w ∈ ws, w.who = .ctx k n) :
    TestLost code c k n (ws.foldl (fun s w => s.takeResult w.who (.lost code) w.va) u) := by
  induction ws generalizing u with
  | nil => exact hw.elim id fun ⟨_, hm, _⟩ => nomatch hm
  | cons w ws ih =>
    rw [List.foldl_cons]
    refine ih ?_ ?_
    · exact h.elim (fun h => takeResult_awaits h _) fun h => .inr (takeResult_lost h _ _)
    · rcases hw with hlost | ⟨v, hv, hwho⟩
      · exact .inl (takeResult_lost hlost _ _)
      · rcases List.mem_cons.1 hv with rfl | hv
        · left
          rw [hwho]
          exact h.elim takeResult_loses fun h => takeResult_lost h _ _
        · exact .inr ⟨v, hv, hwho⟩

end

/-! Watches that end. -/

/-- Ending watches changes them and the metadata of their lines alone. -/
theorem endWatches_shape (s : State) (p : Watch → Bool) :
    ∃ md, s.endWatches p = { s with watches := s.watches.filter (fun w => !p w), md := md } :=
  ⟨_, Chain.foldl (R := fun s t : State => t = { s with md := t.md }) ⟨fun _ => rfl, fun h h' => h'.trans (by rw [h])⟩
    (f := State.markWatched) (fun _ _ => rfl) _ _⟩

theorem endWatches_wf (p : Watch → Bool) (h : s.md.wf = true) : (s.endWatches p).md.wf = true :=
  Chain.foldl (R := fun s t : State => s.md.wf = true → t.md.wf = true) ⟨fun _ h => h, fun h h' hwf => h' (h hwf)⟩
    (f := State.markWatched) (fun s line => (homeOnly_markWatched s line).2.2) _ _ h

/-- What a result changes at whoever it is for. -/
def ResultTaken (s t : State) : Prop :=
  t = { s with cur := t.cur, ctxs := t.ctxs, nextSeq := t.nextSeq, transit := t.transit, records := t.records
               launches := t.launches, mem := t.mem, queues := t.queues, vectors := t.vectors } ∧ (s.mem.wf = true → t.mem.wf = true)

theorem resultTaken_chain : Chain ResultTaken :=
  ⟨fun _ => ⟨rfl, id⟩, fun h h' => ⟨h'.1.trans (by rw [h.1]), h'.2 ∘ h.2⟩⟩

theorem postCompletion_mem_wf (q : Fin 64) (ws : List Word) (h : s.mem.wf = true) : (s.postCompletion q ws).mem.wf = true :=
  (Mem.within_writeN _ _ _ _).1 h

theorem complete_mem_wf (id status code node : Nat) (h : s.mem.wf = true) : (s.complete id status code node).mem.wf = true := by
  rw [State.complete]
  split
  · exact h
  · dsimp only
    split
    · exact postCompletion_mem_wf (s := { s with launches := s.launches.filter (fun x => x.id != id) }) _ _ h
    · exact h

theorem settleLaunch_mem_wf (id : Nat) (h : s.mem.wf = true) : (s.settleLaunch id).mem.wf = true := by
  rw [State.settleLaunch]
  split
  · exact h
  · split
    · exact complete_mem_wf id 0 0 0 h
    · exact h

theorem InContexts.resultTaken (h : InContexts s t) : ResultTaken s t := ⟨Eq.trans h (by rw [h]), fun hwf => by rw [h]; exact hwf⟩

theorem resultTaken_takeResult (s : State) (w : Who) (r : TestResult) (va : Word) : ResultTaken s (s.takeResult w r va) := by
  rw [State.takeResult.eq_def]
  split
  · split
    · exact resultTaken_chain.refl s
    · split
      · exact (inContexts_chain.trans (inContexts_modCtx _ _ _) (inContexts_wakeWhere _ _)).resultTaken
      · exact resultTaken_chain.refl s
  · exact resultTaken_chain.refl s
  next k core rec pc =>
    split
    · exact ⟨rfl, id⟩
    next code _ =>
      obtain ⟨u, hu⟩ : ∃ u, u = s.postRecord { id := 0, asid := k.asid, ctxid := k.ctxid, kind := 3, info := s.answerFault k.asid code va
                                               pc := pc, live := false } := ⟨_, rfl⟩
      have hsu : ResultTaken s u := by rw [hu]; exact ⟨rfl, id⟩
      rw [← hu]
      obtain ⟨ls, m, qs, v, hs⟩ := settleLaunch_eq (s := u) rec.launch
      exact resultTaken_chain.trans hsu ⟨by rw [hs], settleLaunch_mem_wf _⟩

/-- Failing watches takes them out, and its outcomes go to whoever holds them. -/
theorem failWatches_shape (s : State) (p : Watch → Bool) (code : FaultCode) : ∃ md, (s.md.wf = true → md.wf = true) ∧
    ResultTaken { s with watches := s.watches.filter (fun w => !p w), md := md } (s.failWatches p code) := by
  obtain ⟨md, hmd⟩ := endWatches_shape s p
  refine ⟨md, fun h => ?_, ?_⟩
  · have hwf := endWatches_wf p h
    rw [hmd] at hwf
    exact hwf
  · rw [State.failWatches, hmd]
    exact resultTaken_chain.foldl (fun s w => resultTaken_takeResult s _ _ _) _ _

theorem failWatches_watches (s : State) (p : Watch → Bool) (code : FaultCode) :
    (s.failWatches p code).watches = s.watches.filter (fun w => !p w) := by
  obtain ⟨md, -, h, -⟩ := failWatches_shape s p code
  rw [h]

/-- A context that waits for a watch which fails has the code as the outcome. -/
theorem failWatches_lost {p : Watch → Bool} {code : FaultCode} {w : Watch} {n : Nat} (hw : w ∈ s.watches) (hp : p w = true)
    (hwho : w.who = .ctx k n) (h : AwaitsTest c k n s) : TestLost code c k n (s.failWatches p code) := by
  obtain ⟨md, hmd⟩ := endWatches_shape s p
  have hsame : (s.endWatches p).ctx? k = s.ctx? k := by rw [hmd]; rfl
  have hwaits : AwaitsTest c k n (s.endWatches p) := by
    obtain ⟨c', hc, hrest⟩ := h
    exact ⟨c', hsame.trans hc, hrest⟩
  exact failed_lost _ (.inl hwaits) (.inr ⟨w, List.mem_filter.2 ⟨hw, hp⟩, hwho⟩)

end Sys2Proof.Machine
end

section
/-! PROOFS. Pages moved, and memory dies taken offline (O54). -/
namespace Sys2Proof.Machine
open Sys2Proof.Claims
variable {s t u : State} {die : Fin 8}

/-! What an invalidation begun changes. -/

/-- Only contexts, cores, what is on its way and what translating and reading leaves differ. -/
def InvalBegun (s t : State) : Prop :=
  t = { s with cur := t.cur, ctxs := t.ctxs, cores := t.cores, msgs := t.msgs, nextMsg := t.nextMsg, replicas := t.replicas
               tlb := t.tlb, tableCache := t.tableCache, nextSeq := t.nextSeq, invals := t.invals }

theorem invalBegun_chain : Chain InvalBegun := ⟨fun _ => rfl, fun h h' => h'.trans (by rw [h])⟩

theorem State.Freed.invalBegun (h : s.Freed t) : InvalBegun s t := by
  obtain ⟨cur, ctxs, cores, msgs, n, rfl, -⟩ := h
  rfl

theorem invalBegun_dropReplicasOf (s : State) (p : Nat → Bool) : InvalBegun s (s.dropReplicasOf p) := rfl

theorem invalBegun_dropTranslations (s : State) (asid : BitVec 12) (lo size : Nat) : InvalBegun s (s.dropTranslations asid lo size) := rfl

theorem invalBegun_dropLines (s : State) (asid : BitVec 12) (lo size : Nat) : InvalBegun s (s.dropLines asid lo size) := rfl

theorem invalBegun_dropCode (s : State) (asid : BitVec 12) (lo size : Nat) : InvalBegun s (s.dropCode asid lo size) := rfl

theorem invalBegun_invals (s : State) (vs : List Inval) : InvalBegun s { s with nextSeq := s.nextSeq + 1, invals := vs } := rfl

theorem invalBegun_startInval (s : State) (by_ : Option Key) (asid : BitVec 12) (lo size : Nat) :
    InvalBegun s (s.startInval by_ asid lo size) := by
  have hdrained : InvalBegun s (s.cores.foldl (fun s k => s.drainHeld k.num fun h => h.req.tags.any fun t => t.under asid lo size) s) :=
    invalBegun_chain.foldl (fun s k => (freed_drainHeld s k.num _).invalBegun) s.cores s
  have htrans {a b c : State} (h : InvalBegun a b) (h' : InvalBegun b c) : InvalBegun a c := invalBegun_chain.trans h h'
  exact htrans (htrans (htrans (htrans (htrans hdrained (invalBegun_dropReplicasOf _ _)) (invalBegun_dropTranslations _ _ _ _))
    (invalBegun_dropLines _ _ _ _)) (invalBegun_dropCode _ _ _ _)) (invalBegun_invals _ _)

/-! Bytes copied. -/

/-- The cells of a list, of which none is twice, written at their places moved by a distance. -/
theorem read_cells_moved (a b o : Nat) : ∀ (l : Memory) (k : Memory), l.wf = true → (∀ c ∈ l, a ≤ c.1) → k.wf = true →
    Memory.read (l.foldl (fun k c => k.write (c.1 - a + b) c.2) k) (b + o) = if l.read (a + o) = 0 then k.read (b + o) else l.read (a + o)
  | [], k, _, _, _ => by rw [List.foldl_nil, Memory.read, if_pos rfl]
  | (x, v) :: l, k, hwf, hge, hk => by
    obtain ⟨hv, hlt, hl⟩ := Memory.wf_cons.1 hwf
    have hax : a ≤ x := hge _ List.mem_cons_self
    rw [List.foldl_cons, read_cells_moved a b o l _ hl (fun c hc => hge c (List.mem_cons_of_mem _ hc)) (Memory.write_wf hk),
      Memory.read_write hk, Memory.read]
    by_cases hx : x = a + o
    · have hnone : Memory.read l (a + o) = 0 := Memory.read_below fun c hc => hx ▸ hlt c hc
      rw [hnone, if_pos rfl, if_pos (by omega), if_pos hx.symm, if_neg hv]
    · have hne : ¬ b + o = x - a + b := by omega
      rw [if_neg hne, if_neg (Ne.symm hx)]

/-- A byte that a filter keeps, whatever it is, reads as before. -/
theorem read_filter {p : Host.Cell → Bool} {x : Nat} (h : ∀ v, p (x, v) = true) : ∀ m : Memory, Memory.read (m.filter p) x = m.read x
  | [] => rfl
  | (y, v) :: m => by
    rw [List.filter_cons]
    by_cases hx : x = y
    · subst hx
      rw [if_pos (h v), Memory.read, Memory.read, if_pos rfl, if_pos rfl]
    · split
      · rw [Memory.read, Memory.read, if_neg hx, if_neg hx, read_filter h m]
      · rw [Memory.read, if_neg hx, read_filter h m]

theorem copyRange_read (m : Memory) (a b n o : Nat) (h : m.wf = true) (ho : o < n) :
    (m.copyRange a b n).read (b + o) = m.read (a + o) := by
  have hcleared : (m.clear b n).read (b + o) = 0 := by rw [Memory.read_clear h, if_pos (by omega)]
  have hkept : Memory.read (m.filter (fun c => decide (a ≤ c.1) && decide (c.1 < a + n))) (a + o) = m.read (a + o) :=
    read_filter (fun v => by rw [Bool.and_eq_true, decide_eq_true_eq, decide_eq_true_eq]; exact ⟨by omega, by omega⟩) m
  rw [Memory.copyRange, read_cells_moved a b o _ _ (Memory.filter_wf h)
    (fun c hc => of_decide_eq_true (Bool.and_eq_true_iff.1 (List.mem_filter.1 hc).2).1) (Memory.clear_wf h), hcleared, hkept]
  split
  next h0 => exact h0.symm
  · rfl

/-! A page moved. -/

/-- Contents, marks, metadata, watches and halves at the new frame. -/
def State.pageCopied (s : State) (a b n : Nat) : State :=
  { s with
    mem := { cells := s.mem.cells.copyRange a b n, marks := s.mem.marks.copyRange a b n }
    md := s.md.copyRange (a / 128) (b / 128) (n / 128)
    watches := s.watches.map (fun (w : Watch) =>
      if a ≤ w.cell && w.cell < a + n then { w with cell := w.cell - a + b, home := homeNode (w.cell - a + b) } else w)
    halves := s.halves.map (fun h => if a / 128 ≤ h.1 && h.1 < (a + n) / 128 then (h.1 - a / 128 + b / 128, h.2) else h) }

/-- A leaf entry names the new frame, and the translations of its page are invalidated. -/
def State.entryMoved (a b : Nat) (s : State) (l : BitVec 12 × Nat × Nat × Leaf) : State :=
  (s.putEntry l.2.2.1 ((s.word l.2.2.1).toNat % 2 ^ 12 + (l.2.2.2.pa - a + b) + (s.word l.2.2.1).toNat / 2 ^ 52 * 2 ^ 52)
    (s.word (l.2.2.1 + 8)).toNat).startInval none l.1 l.2.1 l.2.2.2.size

theorem movePage_eq (s : State) (a b n : Nat) : s.movePage a b n =
    (s.allLeaves.filter (fun l => !l.2.2.2.remote && inside l.2.2.2.pa l.2.2.2.size a n)).foldl (State.entryMoved a b)
      (s.pageCopied a b n) := rfl

/-- What moving pages changes. -/
def PageMoved (s t : State) : Prop :=
  t = { s with mem := t.mem, md := t.md, watches := t.watches, halves := t.halves, cur := t.cur, ctxs := t.ctxs, cores := t.cores
               msgs := t.msgs, nextMsg := t.nextMsg, replicas := t.replicas, tlb := t.tlb, tableCache := t.tableCache
               nextSeq := t.nextSeq, invals := t.invals }

theorem pageMoved_chain : Chain PageMoved := ⟨fun _ => rfl, fun h h' => h'.trans (by rw [h])⟩

theorem InvalBegun.pageMoved (h : InvalBegun s t) : PageMoved s t := Eq.trans h (by rw [h])

theorem entryMoved_mem (a b : Nat) (s : State) (l : BitVec 12 × Nat × Nat × Leaf) :
    ∃ x, (State.entryMoved a b s l).mem = s.mem.writeN l.2.2.1 16 x false ∧ (State.entryMoved a b s l).md = s.md := by
  have hput (pa w0 w1 : Nat) : ((s.putEntry pa w0 w1).startInval none l.1 l.2.1 l.2.2.2.size).mem =
      s.mem.writeN pa 16 (w0 + w1 * 2 ^ 64) false ∧
      ((s.putEntry pa w0 w1).startInval none l.1 l.2.1 l.2.2.2.size).md = s.md := by
    rw [invalBegun_startInval (s.putEntry pa w0 w1) none l.1 l.2.1 l.2.2.2.size, State.putEntry]
    exact ⟨rfl, rfl⟩
  exact ⟨_, hput _ _ _⟩

theorem pageMoved_entryMoved (a b : Nat) (s : State) (l : BitVec 12 × Nat × Nat × Leaf) : PageMoved s (State.entryMoved a b s l) := by
  have hput (pa w0 w1 : Nat) : PageMoved s (s.putEntry pa w0 w1) := rfl
  exact pageMoved_chain.trans (hput _ _ _) (invalBegun_startInval _ _ _ _ _).pageMoved

theorem pageMoved_movePage (s : State) (a b n : Nat) : PageMoved s (s.movePage a b n) := by
  have hcopied : PageMoved s (s.pageCopied a b n) := rfl
  rw [movePage_eq]
  exact pageMoved_chain.trans hcopied (pageMoved_chain.foldl (pageMoved_entryMoved a b) _ _)

/-- The entries that name the new frame stand outside a range, so its bytes and marks stay. -/
theorem entriesMoved_outside {b n : Nat} (a b' : Nat) (ls : List (BitVec 12 × Nat × Nat × Leaf)) (s : State)
    (h : ∀ l ∈ ls, l.2.2.1 + 16 ≤ b ∨ b + n ≤ l.2.2.1) :
    (∀ o, o < n → (ls.foldl (State.entryMoved a b') s).mem.cells.read (b + o) = s.mem.cells.read (b + o) ∧
      (ls.foldl (State.entryMoved a b') s).mem.marks.read (b + o) = s.mem.marks.read (b + o)) ∧
    (ls.foldl (State.entryMoved a b') s).md = s.md := by
  induction ls generalizing s with
  | nil => exact ⟨fun _ _ => ⟨rfl, rfl⟩, rfl⟩
  | cons l ls ih =>
    obtain ⟨hbytes, hmd⟩ := ih (State.entryMoved a b' s l) fun x hx => h x (List.mem_cons_of_mem _ hx)
    obtain ⟨x, hmem, hmd'⟩ := entryMoved_mem a b' s l
    have hout := h l List.mem_cons_self
    rw [List.foldl_cons]
    refine ⟨fun o ho => ?_, hmd.trans hmd'⟩
    obtain ⟨hcells, hmarks⟩ := hbytes o ho
    obtain ⟨hcell, hmark⟩ := writeN_outside s.mem l.2.2.1 16 x false (b := b + o) (by omega)
    rw [hcells, hmarks, hmem]
    exact ⟨hcell, hmark⟩

theorem page_moved (a b n : Nat) (s : State) (hform : Sys2Proof.Safety.memoryOk s) (ha : a % 128 = 0) (hb : b % 128 = 0)
    (hn : n % 128 = 0) (hleaves : ∀ l ∈ s.allLeaves, l.2.2.1 + 16 ≤ b ∨ b + n ≤ l.2.2.1) :
    (∀ o, o < n → (s.movePage a b n).mem.cells.read (b + o) = s.mem.cells.read (a + o) ∧
      (s.movePage a b n).mem.marks.read (b + o) = s.mem.marks.read (a + o)) ∧
    ∀ k, k < n / 128 → (s.movePage a b n).md.read (b / 128 + k) = s.md.read (a / 128 + k) := by
  obtain ⟨hmem, -, -, hmd⟩ := hform
  obtain ⟨hcells, hmarks⟩ := Mem.wf_iff.1 hmem
  obtain ⟨hbytes, hkept⟩ := entriesMoved_outside (n := n) a b _ (s.pageCopied a b n) fun l hl => hleaves l (List.mem_of_mem_filter hl)
  rw [movePage_eq]
  refine ⟨fun o ho => ?_, fun k hk => ?_⟩
  · obtain ⟨h1, h2⟩ := hbytes o ho
    exact ⟨h1.trans (copyRange_read _ a b n o hcells ho), h2.trans (copyRange_read _ a b n o hmarks ho)⟩
  · rw [hkept]
    exact copyRange_read _ _ _ _ k hmd hk

/-! A die emptied. -/

/-- What has been noted of dies and of what the host asked. -/
structure SameOrders (s t : State) : Prop where
  offline : t.offline = s.offline
  mgmtOffline : t.mgmtOffline = s.mgmtOffline
  emptied : t.emptied = s.emptied
  lost : t.lost = s.lost
  freePages : t.freePages = s.freePages

theorem emptyDie_shape (s : State) (die : Fin 8) (pairs : List (Nat × Nat × Nat)) (free : List (Nat × Nat)) :
    ∃ u, PageMoved s u ∧ s.emptyDie die pairs free = { u with freePages := free, emptied := u.emptied ||| ((1 : BitVec 8) <<< die.val) } ∧
      (pairs = [] → u = s) :=
  ⟨_, pageMoved_chain.foldl (fun _ _ => pageMoved_movePage _ _ _ _) pairs s, rfl, fun h => by rw [h, List.foldl_nil]⟩

/-- The die is noted as emptied, and the free pages are those left. -/
theorem emptyDie_notes (s : State) (die : Fin 8) (pairs : List (Nat × Nat × Nat)) (free : List (Nat × Nat)) :
    SameOrders { s with freePages := free, emptied := s.emptied ||| ((1 : BitVec 8) <<< die.val) } (s.emptyDie die pairs free) ∧
    (pairs = [] → s.emptyDie die pairs free = { s with freePages := free, emptied := s.emptied ||| ((1 : BitVec 8) <<< die.val) }) := by
  obtain ⟨u, hmoved, heq, hnone⟩ := emptyDie_shape s die pairs free
  rw [heq]
  refine ⟨?_, fun h => by rw [hnone h]⟩
  constructor <;> rw [hmoved]

theorem SameOrders.trans (h : SameOrders s t) (h' : SameOrders t u) : SameOrders s u :=
  ⟨h'.1.trans h.1, h'.2.trans h.2, h'.3.trans h.3, h'.4.trans h.4, h'.5.trans h.5⟩

/-! Orders noted and overruled. -/

theorem noteOrder_shape (s : State) (die : Fin 8) (forced : Bool) : ∃ ms, s.noteOrder die forced = { s with mgmtOffline := ms } ∧
    ((die, forced) ∉ s.offline → (die, forced) ∈ ms) := by
  rw [State.noteOrder]
  split
  next h => exact ⟨s.mgmtOffline, rfl, fun hn => absurd (List.contains_iff_mem.1 h) hn⟩
  next => exact ⟨_, rfl, fun _ => List.mem_cons_self⟩

/-- Overruling takes out the host's contrary order, and tells the host. -/
theorem overrule_eq (s : State) (die : Fin 8) (forced : Bool) : ∃ os v, s.overrule die forced = { s with offline := os, vectors := v } ∧
    (∀ x, x ∈ os ↔ x ∈ s.offline ∧ (x = (die, !forced) → (die, forced) ∈ s.offline)) ∧
    ((die, !forced) ∈ s.offline → (die, forced) ∉ s.offline → v.getLsbD 65 = true) ∧
    ((die, forced) ∈ s.offline → v = s.vectors) := by
  rw [State.overrule]
  split
  next h =>
    rw [Bool.and_eq_true, Bool.not_eq_true', List.contains_iff_mem, ← Bool.not_eq_true, List.contains_iff_mem] at h
    obtain ⟨hin, hout⟩ := h
    refine ⟨_, _, rfl, fun x => ?_, fun _ _ => ?_, fun hf => absurd hf hout⟩
    · rw [List.mem_filter, bne_iff_ne]
      exact and_congr_right fun _ => ⟨fun hne he => absurd he hne, fun himp he => hout (himp he)⟩
    · rw [State.raiseVector, BitVec.getLsbD_or]
      exact Bool.or_eq_true_iff.2 (.inr (by decide))
  next h =>
    rw [Bool.and_eq_true, Bool.not_eq_true', List.contains_iff_mem, ← Bool.not_eq_true, List.contains_iff_mem] at h
    refine ⟨s.offline, s.vectors, rfl, fun x => ⟨fun hx => ⟨hx, fun he => ?_⟩, fun hx => hx.1⟩, fun hin hout => absurd ⟨hin, hout⟩ h,
      fun _ => rfl⟩
    by_contra hout
    exact h ⟨he ▸ hx, hout⟩

/-! The requests. -/

theorem mayEmpty_standing (h : MayEmpty s die) : (s.fencedDies.getLsbD die.val || s.emptied.getLsbD die.val) = false := by
  obtain ⟨hfenced, hemptied, -⟩ := h
  rw [hfenced, hemptied]
  rfl

theorem offlineRequest_empties (h : MayEmpty s die) (hall : (s.offlinePlan die).2.1 = []) : offlineRequest die s =
    ((s.emptyDie die (s.offlinePlan die).1 (s.offlinePlan die).2.2).noteOrder die false).overrule die false := by
  rw [offlineRequest]
  dsimp only
  rw [mayEmpty_standing h, if_neg Bool.false_ne_true, hall, List.isEmpty_nil, if_neg (by decide), h.2.2, if_neg (by decide)]

theorem offlineRequest_refused (h : MayEmpty s die) (hsome : (s.offlinePlan die).2.1 ≠ []) : offlineRequest die s =
    { s.overrule die false with offline := (s.overrule die false).offline.filter (fun y => y != (die, false)) } := by
  have hne : (s.offlinePlan die).2.1.isEmpty = false := by rw [List.isEmpty_eq_false_iff]; exact hsome
  rw [offlineRequest]
  dsimp only
  rw [mayEmpty_standing h, if_neg Bool.false_ne_true, hne, if_pos (by decide)]

theorem request_carried_out (die : Fin 8) (s : State) (h : MayEmpty s die) (hall : (s.offlinePlan die).2.1 = []) :
    ∃ t : State, Leads (.offlineRequest die) s t ∧ t.emptied = s.emptied ||| ((1 : BitVec 8) <<< die.val) ∧
      t.freePages = (s.offlinePlan die).2.2 ∧ t.lost = s.lost ∧
      ((die, false) ∉ s.offline → (die, false) ∈ t.mgmtOffline) ∧
      ((s.offlinePlan die).1 = [] → t.mem = s.mem ∧ t.md = s.md) := by
  have hexec := offlineRequest_empties h hall
  obtain ⟨x, hx⟩ : ∃ x, x = s.offlinePlan die := ⟨_, rfl⟩
  rw [← hx] at hexec ⊢
  obtain ⟨hsame, hnone⟩ := emptyDie_notes s die x.1 x.2.2
  refine ⟨_, congrArg Host.Outcome.next hexec, ?_⟩
  obtain ⟨u, hu⟩ : ∃ u, u = s.emptyDie die x.1 x.2.2 := ⟨_, rfl⟩
  rw [← hu] at hsame hnone ⊢
  obtain ⟨ms, hnote, hin⟩ := noteOrder_shape u die false
  obtain ⟨os, v, hover, -⟩ := overrule_eq { u with mgmtOffline := ms } die false
  rw [hnote, hover]
  refine ⟨hsame.emptied, hsame.freePages, hsame.lost, fun hout => hin ?_, fun hpairs => ?_⟩
  · rw [hsame.offline]
    exact hout
  · have hus := hnone hpairs
    have hmem : u.mem = s.mem := by rw [hus]
    have hmd : u.md = s.md := by rw [hus]
    exact ⟨hmem, hmd⟩

theorem request_refused (die : Fin 8) (f : Bool) (s : State) (h : MayEmpty s die) (hsome : (s.offlinePlan die).2.1 ≠ [])
    (_ : (die, f) ∈ s.offline) :
    ∃ t : State, Leads (.offlineRequest die) s t ∧ t = { s with offline := t.offline, vectors := t.vectors } ∧
      (∀ x, x ∈ t.offline ↔ x ∈ s.offline ∧ x ≠ (die, false) ∧ (x = (die, true) → (die, false) ∈ s.offline)) ∧
      ((die, true) ∈ s.offline → (die, false) ∉ s.offline → t.vectors.getLsbD 65 = true) ∧
      ((die, false) ∈ s.offline → t.vectors = s.vectors) := by
  obtain ⟨os, v, hover, hmem, hraised, hkept⟩ := overrule_eq s die false
  refine ⟨_, congrArg Host.Outcome.next (offlineRequest_refused h hsome), ?_⟩
  rw [hover]
  refine ⟨rfl, fun x => ?_, hraised, hkept⟩
  rw [List.mem_filter, bne_iff_ne, hmem, and_assoc]
  exact and_congr_right fun _ => and_comm

/-- What is logged for the host changes its log alone. -/
def LoggedOnly (s t : State) : Prop := t = { s with mem := t.mem, bar1 := t.bar1, vectors := t.vectors }

theorem loggedOnly_chain : Chain LoggedOnly := ⟨fun _ => rfl, fun h h' => h'.trans (by rw [h])⟩

theorem loggedOnly_hostLog (s : State) (rule a b : Nat) : LoggedOnly s (s.hostLog rule a b) := by
  rw [State.hostLog]
  dsimp only
  split <;> exact rfl

/-- Whether a watch is on one of the pages. -/
def onPages (ps : List (Nat × Nat)) (w : Watch) : Bool := ps.any (fun p => decide (p.1 ≤ w.cell) && decide (w.cell < p.1 + p.2))

theorem offlineForced_empties (h : MayEmpty s die) (hu : u = s.emptyDie die (s.offlinePlan die).1 (s.offlinePlan die).2.2) :
    offlineForced die s = (((s.offlinePlan die).2.1.foldl (fun (s : State) p => s.hostLog 375 p.1 p.2)
      (({ u with lost := u.lost ++ (s.offlinePlan die).2.1 } : State).failWatches (onPages (s.offlinePlan die).2.1) .dataLost)).noteOrder
        die true).overrule die true := by
  rw [offlineForced]
  dsimp only
  rw [mayEmpty_standing h, if_neg Bool.false_ne_true, h.2.2, if_neg (by decide), hu]
  rfl

theorem forced_carried_out (die : Fin 8) (s : State) (h : MayEmpty s die) :
    ∃ t : State, Leads (.offlineForced die) s t ∧ t.emptied = s.emptied ||| ((1 : BitVec 8) <<< die.val) ∧
      t.lost = s.lost ++ (s.offlinePlan die).2.1 ∧ t.freePages = (s.offlinePlan die).2.2 ∧
      ((die, true) ∉ s.offline → (die, true) ∈ t.mgmtOffline) ∧
      ((die, false) ∈ s.offline → (die, true) ∉ s.offline → t.vectors.getLsbD 65 = true ∧ (die, false) ∉ t.offline) ∧
      ((s.offlinePlan die).1 = [] → ∀ w ∈ s.watches, ∀ p ∈ (s.offlinePlan die).2.1, p.1 ≤ w.cell → w.cell < p.1 + p.2 →
        w ∉ t.watches ∧ WatchLost s t w .dataLost) := by
  have hexec (u : State) (hu : u = s.emptyDie die (s.offlinePlan die).1 (s.offlinePlan die).2.2) := offlineForced_empties h hu
  obtain ⟨q, hq⟩ : ∃ q, q = s.offlinePlan die := ⟨_, rfl⟩
  rw [← hq] at hexec ⊢
  obtain ⟨hsame, hnone⟩ := emptyDie_notes s die q.1 q.2.2
  obtain ⟨u, hu⟩ : ∃ u, u = s.emptyDie die q.1 q.2.2 := ⟨_, rfl⟩
  rw [← hu] at hsame hnone
  refine ⟨_, congrArg Host.Outcome.next (hexec u hu), ?_⟩
  obtain ⟨x, hx⟩ : ∃ x : State, x = { u with lost := u.lost ++ q.2.1 } := ⟨_, rfl⟩
  obtain ⟨y, hy⟩ : ∃ y, y = x.failWatches (onPages q.2.1) .dataLost := ⟨_, rfl⟩
  obtain ⟨z, hz⟩ : ∃ z, z = q.2.1.foldl (fun (s : State) p => s.hostLog 375 p.1 p.2) y := ⟨_, rfl⟩
  rw [← hx, ← hy, ← hz]
  have hlog : LoggedOnly y z := hz ▸ loggedOnly_chain.foldl (fun _ _ => loggedOnly_hostLog _ _ _ _) _ _
  obtain ⟨md, -, htaken, -⟩ := failWatches_shape x (onPages q.2.1) .dataLost
  rw [← hy] at htaken
  obtain ⟨ms, hnote, hin⟩ := noteOrder_shape z die true
  obtain ⟨os, v, hover, hmem, hraised, -⟩ := overrule_eq { z with mgmtOffline := ms } die true
  have hoffline : z.offline = s.offline := by rw [hlog, htaken, hx]; exact hsame.offline
  rw [hnote, hover]
  refine ⟨?_, ?_, ?_, fun hout => hin (by rw [hoffline]; exact hout), fun hf ht => ?_, fun hpairs w hw p hp hlo hhi => ⟨?_, ?_⟩⟩
  · show z.emptied = _
    rw [hlog, htaken, hx]
    exact hsame.emptied
  · show z.lost = _
    rw [hlog, htaken, hx]
    exact congrArg (· ++ q.2.1) hsame.lost
  · show z.freePages = _
    rw [hlog, htaken, hx]
    exact hsame.freePages
  · have hf' : (die, false) ∈ z.offline := by rw [hoffline]; exact hf
    have ht' : (die, true) ∉ z.offline := by rw [hoffline]; exact ht
    exact ⟨hraised hf' ht', fun hin' => ht' (((hmem _).1 hin').2 rfl)⟩
  · have hon : onPages q.2.1 w = true :=
      List.any_eq_true.2 ⟨p, hp, by rw [Bool.and_eq_true, decide_eq_true_eq, decide_eq_true_eq]; exact ⟨hlo, hhi⟩⟩
    show w ∉ z.watches
    rw [hlog]
    show w ∉ y.watches
    rw [hy, failWatches_watches, List.mem_filter, hon]
    exact fun hc => nomatch hc.2
  · intro k n c hwho hc hasked hn hreply
    have hon : onPages q.2.1 w = true :=
      List.any_eq_true.2 ⟨p, hp, by rw [Bool.and_eq_true, decide_eq_true_eq, decide_eq_true_eq]; exact ⟨hlo, hhi⟩⟩
    have hxw : x.watches = s.watches := by rw [hx, hnone hpairs]
    have hxc : x.ctx? k = s.ctx? k := by rw [hx, hnone hpairs]; rfl
    have hlost := failWatches_lost (p := onPages q.2.1) (code := .dataLost) (by rw [hxw]; exact hw) hon hwho
      ⟨c, hxc.trans hc, rfl, hasked, hn, hreply, rfl⟩
    rw [← hy] at hlost
    obtain ⟨c', hc', hrest⟩ := hlost
    have hzc : z.ctx? k = y.ctx? k := by rw [hlog]; rfl
    exact ⟨c', hzc.trans hc', hrest⟩

/-! Requests that come late. -/

theorem overtaken_iff : s.overtaken die = true ↔ Overtaken s die := by
  rw [State.overtaken, List.any_eq_true, Overtaken]
  refine ⟨fun ⟨f, _, h⟩ => ⟨f, ?_⟩, fun ⟨f, h⟩ => ⟨f, by cases f <;> decide, ?_⟩⟩
  · rw [Bool.and_eq_true, Bool.or_eq_true, List.contains_iff_mem, List.contains_iff_mem] at h
    exact h
  · rw [Bool.and_eq_true, Bool.or_eq_true, List.contains_iff_mem, List.contains_iff_mem]
    exact h

/-- The requests on the die are over, and the host is told where one has been overtaken. -/
theorem offlineOver_eq (s : State) (die : Fin 8) : ∃ os v, s.offlineOver die = { s with offline := os, vectors := v } ∧
    (∀ x, x ∈ os ↔ x ∈ s.offline ∧ x.1 ≠ die) ∧ (Overtaken s die → v = s.vectors ||| ((1 : BitVec 66) <<< 65)) ∧
    (¬ Overtaken s die → v = s.vectors) := by
  rw [State.offlineOver]
  split
  next h =>
    exact ⟨_, _, rfl, fun x => by rw [List.mem_filter, bne_iff_ne]; rfl, fun _ => rfl, fun hn => absurd (overtaken_iff.1 h) hn⟩
  next h =>
    exact ⟨_, _, rfl, fun x => by rw [List.mem_filter, bne_iff_ne], fun ho => absurd (overtaken_iff.2 ho) h, fun _ => rfl⟩

theorem offline_late (i : Fin 8 → Instr) (hi : i ∈ ([.offlineRequest, .offlineForced] : List (Fin 8 → Instr))) (die : Fin 8) (s : State)
    (h : s.fencedDies.getLsbD die.val = true ∨ s.emptied.getLsbD die.val = true) : Leads (i die) s (s.offlineLate die) := by
  have hstand : (s.fencedDies.getLsbD die.val || s.emptied.getLsbD die.val) = true := Bool.or_eq_true_iff.2 h
  rcases List.mem_cons.1 hi with rfl | hi
  · exact congrArg Host.Outcome.next (by rw [offlineRequest, hstand]; rfl)
  · obtain rfl := List.mem_singleton.1 hi
    exact congrArg Host.Outcome.next (by rw [offlineForced, hstand]; rfl)

theorem late_requests (i : Fin 8 → Instr) (hi : i ∈ ([.offlineRequest, .offlineForced] : List (Fin 8 → Instr))) (die : Fin 8) (s : State)
    (h : s.fencedDies.getLsbD die.val = true ∨ s.emptied.getLsbD die.val = true) :
    (s.fencedDies.getLsbD die.val = true ∨ Overtaken s die →
      ∃ t : State, Leads (i die) s t ∧ t = { s with offline := t.offline, vectors := t.vectors } ∧
        (∀ x, x ∈ t.offline ↔ x ∈ s.offline ∧ x.1 ≠ die) ∧
        (Overtaken s die → t.vectors = s.vectors ||| ((1 : BitVec 66) <<< 65)) ∧ (¬ Overtaken s die → t.vectors = s.vectors)) ∧
    (s.fencedDies.getLsbD die.val = false → ¬ Overtaken s die → Leads (i die) s s) := by
  have hleads := offline_late i hi die s h
  refine ⟨fun hover => ?_, fun hfenced hover => ?_⟩
  · have hlate : s.offlineLate die = s.offlineOver die := by
      rw [State.offlineLate, if_pos (Bool.or_eq_true_iff.2 (hover.imp id overtaken_iff.2))]
    obtain ⟨os, v, heq, hrest⟩ := offlineOver_eq s die
    rw [hlate, heq] at hleads
    exact ⟨_, hleads, rfl, hrest⟩
  · have hno : s.overtaken die = false := by rw [← Bool.not_eq_true]; exact fun ho => hover (overtaken_iff.1 ho)
    have hlate : s.offlineLate die = s := by rw [State.offlineLate, hfenced, hno]; rfl
    rwa [hlate] at hleads

theorem bit_cleared (x : BitVec 8) (die : Fin 8) : (x &&& ~~~ ((1 : BitVec 8) <<< die.val)).getLsbD die.val = false := by
  have hlt := die.isLt
  rw [BitVec.getLsbD_and, BitVec.getLsbD_not, BitVec.getLsbD_shiftLeft]
  simp [hlt]

theorem offline_completes (die : Fin 8) (s : State) (h : s.emptied.getLsbD die.val = true) :
    ∃ t : State, Leads (.offlineComplete die) s t ∧ t.fencedDies = s.fencedDies ||| ((1 : BitVec 8) <<< die.val) ∧
      t.emptied.getLsbD die.val = false ∧ t.mem = s.mem ∧ t.md = s.md ∧ (∀ x, x ∈ t.offline ↔ x ∈ s.offline ∧ x.1 ≠ die) ∧
      (Overtaken s die → t.vectors = s.vectors ||| ((1 : BitVec 66) <<< 65)) ∧ (¬ Overtaken s die → t.vectors = s.vectors) := by
  have hexec : offlineComplete die s = ({ s with
      fencedDies := s.fencedDies ||| ((1 : BitVec 8) <<< die.val), emptied := s.emptied &&& ~~~ ((1 : BitVec 8) <<< die.val) } :
        State).offlineOver die := by
    rw [offlineComplete, h]
    rfl
  obtain ⟨os, v, heq, hmem, hover, hnot⟩ := offlineOver_eq { s with
      fencedDies := s.fencedDies ||| ((1 : BitVec 8) <<< die.val), emptied := s.emptied &&& ~~~ ((1 : BitVec 8) <<< die.val) } die
  exact ⟨_, congrArg Host.Outcome.next (hexec.trans heq), rfl, bit_cleared _ die, rfl, rfl, hmem, hover, hnot⟩

/-- Settles O54: the requests carried out, refused and late, and a page moved byte by byte. -/
theorem memoryDiesGoOffline : Obligations.MemoryDiesGoOffline :=
  ⟨request_carried_out, request_refused, forced_carried_out, late_requests, offline_completes,
    fun a b n s hform ha hb hn _ hleaves => page_moved a b n s hform ha hb hn hleaves⟩

end Sys2Proof.Machine
end

section
/-! PROOFS. Where contexts stand, and what killing some of them leaves of the others. -/
namespace Sys2Proof.Machine
open Sys2Proof.Claims
variable {s t u : State} {c c' : Context} {k : Key}

/-! Where contexts stand. -/

/-- The contexts' keys, each with its core. -/
def State.places (s : State) : List (Key × Nat) := s.allCtxs.map (fun c => (c.key, c.core))

/-- A context of the same key on the same core. -/
def Context.AtPlace (c c' : Context) : Prop := c'.key = c.key ∧ c'.core = c.core

theorem places_eq (s : State) : s.places = (if s.busy then [(s.cur.key, s.cur.core)] else []) ++ s.ctxs.map (fun c => (c.key, c.core)) := by
  rw [State.places, State.allCtxs, List.map_append]
  split <;> rfl

theorem places_congr (hcur : t.cur = s.cur) (hbusy : t.busy = s.busy) (hctxs : t.ctxs = s.ctxs) : t.places = s.places := by
  rw [places_eq, places_eq, hcur, hbusy, hctxs]

theorem mem_places : (k, n) ∈ s.places ↔ ∃ c ∈ s.allCtxs, c.key = k ∧ c.core = n := by
  rw [State.places, List.mem_map]
  exact exists_congr fun c => and_congr_right fun _ => by rw [Prod.mk.injEq]

theorem putCtx_places (c' : Context) (l : List Context) (hf : l.find? (fun x => x.key == c'.key) = some c) (h : c.AtPlace c') :
    (putCtx l c').map (fun x => (x.key, x.core)) = l.map (fun x => (x.key, x.core)) := by
  induction l with
  | nil => nomatch hf
  | cons x l ih =>
    rw [putCtx]
    by_cases hx : x.key = c'.key
    · rw [List.find?_cons_of_pos (by simpa using hx)] at hf
      cases hf
      rw [if_pos hx, List.map_cons, List.map_cons, h.1, h.2]
    · rw [List.find?_cons_of_neg (by simpa using hx)] at hf
      rw [if_neg hx, List.map_cons, List.map_cons, ih hf]

/-- A context found and put back stands where it stood. -/
theorem setCtx_places (hc : s.ctx? k = some c) (h : c.AtPlace c') : (s.setCtx c').places = s.places := by
  have hkey : c'.key = k := h.1.trans (ctx_key hc)
  rw [State.ctx?] at hc
  rw [State.setCtx, hkey]
  split
  next hcur =>
    rw [if_pos hcur] at hc
    obtain rfl := Option.some.inj hc
    rw [places_eq, places_eq, (Bool.and_eq_true_iff.1 hcur).1, if_pos rfl, if_pos rfl, h.1, h.2]
  next hcur =>
    rw [if_neg hcur, ← hkey] at hc
    rw [places_eq, places_eq]
    dsimp only
    rw [putCtx_places c' s.ctxs hc h]

theorem modCtx_places {f : Context → Context} (hf : ∀ c : Context, c.AtPlace (f c)) (s : State) (k : Key) :
    (s.modCtx k f).places = s.places := by
  rw [State.modCtx]
  split
  next c hc => exact setCtx_places hc (hf c)
  · rfl

theorem mapCtxs_places {f : Context → Context} (hf : ∀ c : Context, c.AtPlace (f c)) (s : State) : (s.mapCtxs f).places = s.places := by
  have hmap (l : List Context) : (l.map f).map (fun c => (c.key, c.core)) = l.map (fun c => (c.key, c.core)) := by
    rw [List.map_map]
    exact List.map_congr_left fun c _ => Prod.ext (hf c).1 (hf c).2
  rw [places_eq, places_eq, State.mapCtxs]
  dsimp only
  rw [hmap]
  split
  · rw [(hf s.cur).1, (hf s.cur).2]
  · rfl

theorem atPlace_wokenIf (p : Context → Wait → Bool) (n : Nat) (c : Context) : c.AtPlace (c.wokenIf p n) := by
  obtain ⟨st, h⟩ := wokenIf_eq p n c
  rw [h]
  exact ⟨rfl, rfl⟩

theorem wakeWhere_places (s : State) (p : Context → Wait → Bool) : (s.wakeWhere p).places = s.places :=
  (places_congr rfl rfl rfl).trans (mapCtxs_places (atPlace_wokenIf p s.nextSeq) s)

theorem freed_places (h : s.Freed t) : t.places = s.places := by
  obtain ⟨cur, ctxs, cores, msgs, n, rfl, hcur, hctxs⟩ := h
  have hat {c c' : Context} (h : c.Freed c') : c.AtPlace c' := by
    obtain ⟨g, -, -, rfl⟩ := h
    exact ⟨rfl, rfl⟩
  have hmap {l l' : List Context} (h : List.Forall₂ Context.Freed l l') :
      l'.map (fun c => (c.key, c.core)) = l.map (fun c => (c.key, c.core)) := by
    induction h with
    | nil => rfl
    | cons hc _ ih => rw [List.map_cons, List.map_cons, ih, (hat hc).1, (hat hc).2]
  rw [places_eq, places_eq]
  dsimp only
  rw [hmap hctxs, (hat hcur).1, (hat hcur).2]

theorem dropCtx_places (s : State) (k : Key) : (s.dropCtx k).places.Sublist s.places := by
  rw [State.dropCtx]
  split
  · rw [places_eq, places_eq]
    dsimp only
    rw [if_neg Bool.false_ne_true]
    exact List.sublist_append_right _ _
  · rw [places_eq, places_eq]
    exact List.Sublist.append_left (List.filter_sublist.map _) _

/-- Taken out by its key, a context of which there is one is gone. -/
theorem dropCtx_gone (h : (s.places.map Prod.fst).Nodup) (k : Key) : k ∉ (s.dropCtx k).places.map Prod.fst := by
  rw [places_eq, List.map_append, List.nodup_append] at h
  obtain ⟨-, -, hdisjoint⟩ := h
  rw [State.dropCtx]
  split
  next hcur =>
    obtain ⟨hbusy, hkey⟩ := Bool.and_eq_true_iff.1 hcur
    rw [beq_iff_eq] at hkey
    rw [places_eq]
    dsimp only
    rw [if_neg Bool.false_ne_true, List.nil_append]
    rw [hbusy, if_pos rfl] at hdisjoint
    exact fun hin => hdisjoint s.cur.key (List.mem_singleton_self _) k hin hkey
  next hcur =>
    rw [places_eq]
    dsimp only
    intro hin
    rw [List.map_append, List.mem_append] at hin
    rcases hin with hin | hin
    · split at hin
      next hbusy =>
        obtain rfl : k = s.cur.key := List.mem_singleton.1 hin
        exact hcur (Bool.and_eq_true_iff.2 ⟨hbusy, beq_self_eq_true _⟩)
      · nomatch hin
    · rw [List.map_map, List.mem_map] at hin
      obtain ⟨c, hc, hck⟩ := hin
      have hne := (List.mem_filter.1 hc).2
      rw [bne_iff_ne] at hne
      exact hne hck

/-! Slices written. -/

theorem sliceClear_places (s : State) (c : Context) (off n : Nat) : (s.sliceClear c off n).places = s.places := by
  rw [State.sliceClear]
  split
  · exact modCtx_places (fun _ => by exact ⟨rfl, rfl⟩) _ _
  · rfl

theorem sliceWrite_places (s : State) (k : Key) (off n x marks : Nat) : (s.sliceWrite k off n x marks).places = s.places := by
  rw [State.sliceWrite]
  split
  · rfl
  next c _ =>
    dsimp only
    obtain ⟨u, hu⟩ : ∃ u, u = ((linesOf off n).filter (fun l => c.discLines.contains l)).foldl (fun s l => s.sliceClear c (128 * l) 128) s :=
      ⟨_, rfl⟩
    have hus : u.places = s.places := by
      rw [hu]
      exact Chain.foldl (R := fun s t : State => t.places = s.places) ⟨fun _ => rfl, fun h h' => h'.trans h⟩
        (fun s l => sliceClear_places s c (128 * l) 128) _ _
    rw [← hu]
    obtain ⟨v, hv, hvs⟩ : ∃ v, (if ((linesOf off n).filter (fun l => c.discLines.contains l)).isEmpty then u
        else u.modCtx k (fun x => { x with discLines := x.discLines.filter (fun l =>
          !((linesOf off n).filter (fun l => c.discLines.contains l)).contains l) })) = v ∧ v.places = s.places := by
      refine ⟨_, rfl, ?_⟩
      split
      · exact hus
      · exact Eq.trans (modCtx_places (fun _ => by exact ⟨rfl, rfl⟩) _ _) hus
    rw [hv]
    split
    · exact Eq.trans (modCtx_places (fun _ => by exact ⟨rfl, rfl⟩) _ _) hvs
    · exact hvs

theorem runMatrix_places (s : State) (c : Context) (m : Cmd) : (s.runMatrix c m).places = s.places := by
  have hacc {t : State} (ht : ∃ acc, t = { s with acc := acc }) : t.places = s.places := by
    obtain ⟨acc, rfl⟩ := ht
    rfl
  rw [State.runMatrix]
  split
  · exact hacc (tileZero_eq s c _)
  · exact hacc (runMma_eq s c _ _ _ _ _)
  · exact hacc (runScale_eq s c _ _)
  · exact hacc (runLoad_eq s c _ _)
  · exact sliceWrite_places _ _ _ _ _ _
  · rfl

/-! A context killed. -/

/-- What killing contexts changes. -/
def Killing (s t : State) : Prop :=
  t = { s with acc := t.acc, scratch := t.scratch, spare := t.spare, cur := t.cur, busy := t.busy, ctxs := t.ctxs, cores := t.cores
               chans := t.chans, crews := t.crews, msgs := t.msgs, nextMsg := t.nextMsg, watches := t.watches, md := t.md
               queues := t.queues }

theorem killing_chain : Chain Killing := ⟨fun _ => rfl, fun h h' => h'.trans (by rw [h])⟩

/-- Contexts stand where they stood, if they are there, and no watch is new. -/
structure Fewer (s t : State) : Prop where
  places : t.places.Sublist s.places
  watches : ∀ w ∈ t.watches, w ∈ s.watches

theorem fewer_chain : Chain Fewer :=
  ⟨fun _ => ⟨List.Sublist.refl _, fun _ h => h⟩, fun h h' => ⟨h'.1.trans h.1, fun w hw => h.2 w (h'.2 w hw)⟩⟩

theorem fewer_of_eq (hp : t.places = s.places) (hw : t.watches = s.watches) : Fewer s t :=
  ⟨hp ▸ List.Sublist.refl _, fun w h => hw ▸ h⟩

/-- What a context is found as, as far as a test that it waits for goes. -/
def Context.WaitsAlike (c c' : Context) : Prop :=
  c'.regs = c.regs ∧ c'.asked = c.asked ∧ c'.nextReq = c.nextReq ∧ c'.reply = c.reply ∧ c'.status = c.status

/-- The context of a key is found, and waits as it did. -/
def FoundAlike (k : Key) (s t : State) : Prop := ∀ c, s.ctx? k = some c → ∃ c', t.ctx? k = some c' ∧ c.WaitsAlike c'

theorem foundAlike_chain (k : Key) : Chain (FoundAlike k) :=
  ⟨fun _ c h => ⟨c, h, rfl, rfl, rfl, rfl, rfl⟩, fun h h' c hc => by
    obtain ⟨c1, hc1, h1, h2, h3, h4, h5⟩ := h c hc
    obtain ⟨c2, hc2, k1, k2, k3, k4, k5⟩ := h' c1 hc1
    exact ⟨c2, hc2, k1.trans h1, k2.trans h2, k3.trans h3, k4.trans h4, k5.trans h5⟩⟩

theorem foundAlike_of_eq (h : t.ctx? k = s.ctx? k) : FoundAlike k s t := fun c hc => ⟨c, h.trans hc, rfl, rfl, rfl, rfl, rfl⟩

theorem freed_foundAlike (h : s.Freed t) (k : Key) : FoundAlike k s t := fun c hc => by
  obtain ⟨c', hc', g, -, -, rfl⟩ := h.found hc
  exact ⟨_, hc', rfl, rfl, rfl, rfl, rfl⟩

theorem FoundAlike.awaits {n : Nat} (h : FoundAlike k s t) (ha : AwaitsTest c k n s) : AwaitsTest c k n t := by
  obtain ⟨c1, hc1, h1, h2, h3, h4, h5⟩ := ha
  obtain ⟨c2, hc2, k1, k2, k3, k4, k5⟩ := h c1 hc1
  exact ⟨c2, hc2, k1.trans h1, k2.trans h2, k3.trans h3, k4.trans h4, k5.trans h5⟩

/-- A change that does to the others nothing that matters here. -/
structure Spared (x : Key) (s t : State) : Prop where
  shape : Killing s t
  fewer : Fewer s t
  kept : ∀ w ∈ s.watches, w.who.ofCtx x = false → w ∈ t.watches
  others : ∀ k, x ≠ k → FoundAlike k s t

theorem spared_chain (x : Key) : Chain (Spared x) :=
  ⟨fun s => ⟨killing_chain.refl s, fewer_chain.refl s, fun _ h _ => h, fun k _ => (foundAlike_chain k).refl s⟩,
    fun h h' => ⟨killing_chain.trans h.1 h'.1, fewer_chain.trans h.2 h'.2, fun w hw ho => h'.3 w (h.3 w hw ho) ho,
      fun k hk => (foundAlike_chain k).trans (h.4 k hk) (h'.4 k hk)⟩⟩

section
variable {x : Key}

theorem sliceClear_other (h : c.key ≠ k) (off n : Nat) : (s.sliceClear c off n).ctx? k = s.ctx? k := by
  rw [State.sliceClear]
  split
  · exact ctx_modCtx_other (fun _ => by rfl) h
  · rfl

theorem sliceWrite_other (h : x ≠ k) (off n v marks : Nat) : (s.sliceWrite x off n v marks).ctx? k = s.ctx? k := by
  rw [State.sliceWrite]
  split
  · rfl
  next c hc =>
    have hkey : c.key ≠ k := by rw [ctx_key hc]; exact h
    dsimp only
    obtain ⟨u, hu⟩ : ∃ u, u = ((linesOf off n).filter (fun l => c.discLines.contains l)).foldl (fun s l => s.sliceClear c (128 * l) 128) s :=
      ⟨_, rfl⟩
    have hus : u.ctx? k = s.ctx? k := by
      rw [hu]
      exact Chain.foldl (R := fun s t : State => t.ctx? k = s.ctx? k) ⟨fun _ => rfl, fun h h' => h'.trans h⟩
        (fun s l => sliceClear_other hkey (128 * l) 128) _ _
    rw [← hu]
    obtain ⟨v, hv, hvs⟩ : ∃ v, (if ((linesOf off n).filter (fun l => c.discLines.contains l)).isEmpty then u
        else u.modCtx x (fun y => { y with discLines := y.discLines.filter (fun l =>
          !((linesOf off n).filter (fun l => c.discLines.contains l)).contains l) })) = v ∧ v.ctx? k = s.ctx? k := by
      refine ⟨_, rfl, ?_⟩
      split
      · exact hus
      · exact Eq.trans (ctx_modCtx_other (fun _ => by rfl) h) hus
    rw [hv]
    split
    · exact Eq.trans (ctx_modCtx_other (fun _ => by rfl) h) hvs
    · exact hvs

theorem inTiles_sliceWrite (s : State) (x : Key) (off n v marks : Nat) : InTiles s (s.sliceWrite x off n v marks) := by
  cases hc : s.ctx? x with
  | none =>
    rw [State.sliceWrite, hc]
    exact rfl
  | some c =>
    obtain ⟨c1, hshape, -⟩ := sliceWrite_written hc off n v marks
    exact hshape.trans (by rw [hshape])

theorem spared_runMatrix (s : State) (c : Context) (m : Cmd) : Spared c.key s (s.runMatrix c m) := by
  have hin : InTiles s (s.runMatrix c m) ∧ ∀ k, c.key ≠ k → (s.runMatrix c m).ctx? k = s.ctx? k := by
    have hacc {t : State} (ht : ∃ acc, t = { s with acc := acc }) : InTiles s t ∧ ∀ k, c.key ≠ k → t.ctx? k = s.ctx? k := by
      obtain ⟨acc, rfl⟩ := ht
      exact ⟨rfl, fun _ _ => rfl⟩
    rw [State.runMatrix]
    split
    · exact hacc (tileZero_eq s c _)
    · exact hacc (runMma_eq s c _ _ _ _ _)
    · exact hacc (runScale_eq s c _ _)
    · exact hacc (runLoad_eq s c _ _)
    · exact ⟨inTiles_sliceWrite _ _ _ _ _ _, fun k hk => sliceWrite_other hk _ _ _ _⟩
    · exact ⟨rfl, fun _ _ => rfl⟩
  obtain ⟨hshape, hothers⟩ := hin
  have hwatches : (s.runMatrix c m).watches = s.watches := by rw [hshape]
  exact ⟨Eq.trans hshape (by rw [hshape]), fewer_of_eq (runMatrix_places s c m) hwatches, fun w hw _ => by rw [hwatches]; exact hw,
    fun k hk => foundAlike_of_eq (hothers k hk)⟩

theorem spared_putBack (s : State) (taken : List (Nat × Vec)) : Spared x s (s.putBack taken) := by
  obtain ⟨cs, h⟩ := putBack_eq s taken
  rw [h]
  exact ⟨rfl, fewer_of_eq rfl rfl, fun _ hw _ => hw, fun k _ => foundAlike_of_eq rfl⟩

/-- Taking out the tests of a context takes out its watches. -/
theorem spared_dropRequests (s : State) : Spared x s (s.dropRequests x) := by
  obtain ⟨ms, hms⟩ : ∃ ms, s.dropRequests x = ({ s with msgs := ms } : State).endWatches (fun w => w.who.ofCtx x) := ⟨_, rfl⟩
  obtain ⟨md, hmd⟩ := endWatches_shape ({ s with msgs := ms } : State) (fun w => w.who.ofCtx x)
  have hplaces : (s.dropRequests x).places = s.places := by
    rw [hms, hmd]
    exact places_congr rfl rfl rfl
  have hwatches : (s.dropRequests x).watches = s.watches.filter (fun w => !w.who.ofCtx x) := by rw [hms, hmd]
  have hctx (k : Key) : (s.dropRequests x).ctx? k = s.ctx? k := by
    rw [hms, hmd]
    exact rfl
  have hshape : Killing s (s.dropRequests x) := by
    rw [hms, hmd]
    exact rfl
  exact ⟨hshape, ⟨hplaces ▸ List.Sublist.refl _, fun w hw => List.mem_of_mem_filter (hwatches ▸ hw)⟩,
    fun w hw ho => by rw [hwatches]; exact List.mem_filter.2 ⟨hw, by rw [ho]; rfl⟩, fun k _ => foundAlike_of_eq (hctx k)⟩

theorem spared_freed (h : s.Freed t) : Spared x s t := by
  have hwatches : t.watches = s.watches := by
    obtain ⟨cur, ctxs, cores, msgs, n, rfl, -⟩ := h
    rfl
  have hshape : Killing s t := by
    obtain ⟨cur, ctxs, cores, msgs, n, rfl, -⟩ := h
    rfl
  exact ⟨hshape, fewer_of_eq (freed_places h) hwatches, fun w hw _ => by rw [hwatches]; exact hw, fun k _ => freed_foundAlike h k⟩

theorem freeCtx_eq (s : State) (c : Context) : ∃ sp cs crews chans qs, s.freeCtx c =
    { s.dropCtx c.key with spare := sp, cores := cs, crews := crews, chans := chans, queues := qs } := by
  rw [State.freeCtx]
  cases c.inH <;> exact ⟨_, _, _, _, _, rfl⟩

theorem dropCtx_eq (s : State) (k : Key) : ∃ b cs, s.dropCtx k = { s with busy := b, ctxs := cs } := by
  rw [State.dropCtx]
  split
  · exact ⟨_, _, rfl⟩
  · exact ⟨_, _, rfl⟩

theorem spared_freeCtx (s : State) (c : Context) : Spared c.key s (s.freeCtx c) := by
  obtain ⟨sp, cs, crews, chans, qs, h⟩ := freeCtx_eq s c
  obtain ⟨b, ctxs, hdrop⟩ := dropCtx_eq s c.key
  have hplaces : (s.freeCtx c).places = (s.dropCtx c.key).places := by rw [h]; exact places_congr rfl rfl rfl
  have hctx (k : Key) : (s.freeCtx c).ctx? k = (s.dropCtx c.key).ctx? k := by rw [h]; rfl
  have hwatches : (s.freeCtx c).watches = s.watches := by rw [h, hdrop]
  refine ⟨by rw [h, hdrop]; exact rfl, ⟨by rw [hplaces]; exact dropCtx_places s _, fun w hw => by rwa [hwatches] at hw⟩,
    fun w hw _ => by rw [hwatches]; exact hw, fun k hk => foundAlike_of_eq ((hctx k).trans (ctx_dropCtx_other hk))⟩

/-- The context that is freed is gone, if no other has its key. -/
theorem freeCtx_gone (h : (s.places.map Prod.fst).Nodup) (c : Context) : c.key ∉ (s.freeCtx c).places.map Prod.fst := by
  obtain ⟨sp, cs, crews, chans, qs, hfree⟩ := freeCtx_eq s c
  have hplaces : (s.freeCtx c).places = (s.dropCtx c.key).places := by rw [hfree]; exact places_congr rfl rfl rfl
  rw [hplaces]
  exact dropCtx_gone h c.key

end

theorem Fewer.nodup (h : Fewer s t) (hn : (s.places.map Prod.fst).Nodup) : (t.places.map Prod.fst).Nodup := (h.1.map Prod.fst).nodup hn

theorem kill_spares (s : State) (c : Context) : Spared c.key s (s.kill c) ∧
    ((s.places.map Prod.fst).Nodup → c.key ∉ (s.kill c).places.map Prod.fst) := by
  have hR := spared_chain c.key
  obtain ⟨u, hu⟩ : ∃ u, u = c.cmds.foldl (fun s m => if m.kind.isMatrix && m.state == .started then s.runMatrix c m else s) s := ⟨_, rfl⟩
  have hmatrix : Spared c.key s u := by
    rw [hu]
    refine hR.foldl (fun s m => ?_) _ _
    split
    · exact spared_runMatrix s c m
    · exact hR.refl s
  obtain ⟨taken, v, hv, hkill⟩ : ∃ taken v, v = ((u.putBack taken).dropRequests c.key).drainHeld c.core (Held.ofCtx c.key) ∧
      s.kill c = v.freeCtx c := ⟨_, _, rfl, by rw [State.kill, ← hu]⟩
  have hbefore : Spared c.key s v := by
    rw [hv]
    exact hR.trans hmatrix (hR.trans (hR.trans (spared_putBack u taken) (spared_dropRequests _)) (spared_freed (freed_drainHeld _ _ _)))
  rw [hkill]
  exact ⟨hR.trans hbefore (spared_freeCtx v c), fun hn => freeCtx_gone (hbefore.fewer.nodup hn) c⟩

/-- Contexts killed one by one. -/
structure AllKilled (xs : List Context) (s t : State) : Prop where
  shape : Killing s t
  fewer : Fewer s t
  gone : (s.places.map Prod.fst).Nodup → ∀ x ∈ xs, x.key ∉ t.places.map Prod.fst
  kept : ∀ w ∈ s.watches, (∀ x ∈ xs, w.who.ofCtx x.key = false) → w ∈ t.watches
  others : ∀ k, (∀ x ∈ xs, x.key ≠ k) → FoundAlike k s t

theorem kills (xs : List Context) (s : State) : AllKilled xs s (xs.foldl State.kill s) := by
  induction xs generalizing s with
  | nil => exact ⟨killing_chain.refl s, fewer_chain.refl s, fun _ _ h => (nomatch h), fun _ hw _ => hw, fun k _ => (foundAlike_chain k).refl s⟩
  | cons x xs ih =>
    obtain ⟨hspared, hgone⟩ := kill_spares s x
    have h := ih (s.kill x)
    rw [List.foldl_cons]
    refine ⟨killing_chain.trans hspared.shape h.shape, fewer_chain.trans hspared.fewer h.fewer, ?_, ?_, ?_⟩
    · intro hn y hy
      rcases List.mem_cons.1 hy with rfl | hy
      · exact fun hin => hgone hn ((h.fewer.places.map Prod.fst).subset hin)
      · exact h.gone (hspared.fewer.nodup hn) y hy
    · intro w hw ho
      exact h.kept w (hspared.kept w hw (ho x List.mem_cons_self)) fun y hy => ho y (List.mem_cons_of_mem _ hy)
    · intro k hk
      exact (foundAlike_chain k).trans (hspared.others k (hk x List.mem_cons_self)) (h.others k fun y hy => hk y (List.mem_cons_of_mem _ hy))

end Sys2Proof.Machine
end

section
/-! PROOFS. O55: a compute die lost (R374), quads, reset and the management port (R371 to R379). -/
namespace Sys2Proof.Machine
open Sys2Proof.Claims
variable {s t u : State}

/-! Senders woken. -/

/-- What holds of a state and of each state with one more context woken holds once the senders are woken. -/
theorem wakeSenders_induction {P : State → Prop} (h : P s) (hs : ∀ u k, P u → P (u.wakeCtx k)) : P s.wakeSenders := by
  have hfold (l : List (Key × Nat × Bool)) (p : State × List (Nat × Bool)) (hp : P p.1) :
      P (l.foldl (fun (p : State × List (Nat × Bool)) x =>
        if (p.2.filter (fun y => y == x.2)).length < s.inboxFree x.2.1 x.2.2 then (p.1.wakeCtx x.1, x.2 :: p.2) else p) p).1 := by
    induction l generalizing p with
    | nil => exact hp
    | cons x l ih =>
      rw [List.foldl_cons]
      refine ih _ ?_
      split
      · exact hs _ _ hp
      · exact hp
  exact hfold s.senders (s, []) h

theorem inContexts_wakeCtx (s : State) (k : Key) : InContexts s (s.wakeCtx k) :=
  inContexts_chain.trans (inContexts_modCtx s k fun c => c.wake s.nextSeq) rfl

theorem inContexts_wakeSenders (s : State) : InContexts s s.wakeSenders :=
  wakeSenders_induction (P := InContexts s) rfl fun u k h => inContexts_chain.trans h (inContexts_wakeCtx u k)

theorem atPlace_wake (n : Nat) (c : Context) : c.AtPlace (c.wake n) := by
  obtain ⟨st, h⟩ := wake_eq c n
  rw [h]
  exact ⟨rfl, rfl⟩

theorem wakeSenders_places (s : State) : s.wakeSenders.places = s.places :=
  wakeSenders_induction (P := fun u => u.places = s.places) rfl fun u k h =>
    ((places_congr rfl rfl rfl).trans (modCtx_places (atPlace_wake u.nextSeq) u k)).trans h

/-- Waking contexts leaves a test that has ended with a fault code as it is. -/
theorem wakeCtx_lost {code : FaultCode} {c : Context} {k : Key} {n : Nat} (h : TestLost code c k n u) (k' : Key) :
    TestLost code c k n (u.wakeCtx k') := by
  obtain ⟨c', hc, hreply, hregs, hready⟩ := h
  have hsame : (u.wakeCtx k').ctx? k = (u.modCtx k' fun c => c.wake u.nextSeq).ctx? k := rfl
  rw [TestLost, hsame]
  by_cases hk : k' = k
  · subst hk
    obtain ⟨st', hst'⟩ := wake_eq c' u.nextSeq
    have hmod : (u.modCtx k' fun c => c.wake u.nextSeq).ctx? k' = some (c'.wake u.nextSeq) :=
      ctx_modCtx (f := fun c => c.wake u.nextSeq) hc (by rw [hst'])
    refine ⟨_, hmod, by rw [hst']; exact hreply, by rw [hst']; exact hregs, fun st hst => ?_⟩
    obtain ⟨st1, h1⟩ := hready st hst
    refine ⟨st1, ?_⟩
    rw [Context.wake, h1]
    exact h1
  · have hmod : (u.modCtx k' fun c => c.wake u.nextSeq).ctx? k = u.ctx? k :=
      ctx_modCtx_other (f := fun c => c.wake u.nextSeq) (fun c => (atPlace_wake u.nextSeq c).1) hk
    exact ⟨c', hmod.trans hc, hreply, hregs, hready⟩

theorem wakeSenders_lost {code : FaultCode} {c : Context} {k : Key} {n : Nat} (h : TestLost code c k n s) :
    TestLost code c k n s.wakeSenders :=
  wakeSenders_induction (P := TestLost code c k n) h fun _ k' h => wakeCtx_lost h k'

theorem wakeSenders_core (s : State) (n : Nat) : s.wakeSenders.core n = s.core n := by
  rw [inContexts_wakeSenders s]
  rfl

/-! Quads (R371, R376). -/

/-- A core in or out of scheduling. -/
def Core.scheduled (out : Bool) (k : Core) : Core := { k with out := out }

theorem mod_core_set (s : State) (m : Nat) (out : Bool) (n : Nat) :
    (s.modCore m (Core.scheduled out)).core n = if n = m then { s.core n with out := out } else s.core n := by
  split
  next h =>
    subst h
    exact core_modCore_same s n (f := Core.scheduled out) fun _ => by rfl
  next h => exact State.core_setCore_other _ _ (by rw [Core.scheduled, State.core_num]; exact Ne.symm h)

theorem cores_set (out : Bool) (ms : List Nat) (s : State) (n : Nat) :
    (ms.foldl (fun s m => s.modCore m (Core.scheduled out)) s).core n = if n ∈ ms then { s.core n with out := out } else s.core n := by
  induction ms generalizing s with
  | nil => rfl
  | cons m ms ih =>
    rw [List.foldl_cons, ih, mod_core_set]
    by_cases hm : n = m
    · subst hm
      simp
    · simp [hm]

theorem setQuad_core (s : State) (quad : Nat) (out : Bool) (n : Nat) :
    (s.setQuad quad out).core n = if n / 4 = quad then { s.core n with out := out } else s.core n := by
  have hcores := cores_set out ((List.range 4).map (4 * quad + ·)) s n
  rw [List.foldl_map] at hcores
  have hin : n ∈ (List.range 4).map (4 * quad + ·) ↔ n / 4 = quad := by
    rw [List.mem_map]
    constructor
    · rintro ⟨i, hi, rfl⟩
      have := List.mem_range.1 hi
      omega
    · exact fun h => ⟨n % 4, List.mem_range.2 (Nat.mod_lt _ (by decide)), by omega⟩
  exact hcores.trans (if_congr hin rfl rfl)

/-- Only the cores differ. -/
def CoresOnly (s t : State) : Prop := t = { s with cores := t.cores }

theorem coresOnly_chain : Chain CoresOnly := ⟨fun _ => rfl, fun h h' => h'.trans (by rw [h])⟩

theorem coresOnly_setQuad (s : State) (quad : Nat) (out : Bool) : CoresOnly s (s.setQuad quad out) :=
  coresOnly_chain.foldl (f := fun s i => s.modCore (4 * quad + i) (fun k => { k with out := out })) (fun _ _ => rfl) _ s

theorem quadSet_fold (out : Bool) (qs : List Nat) (s : State) : QuadSet s (qs.foldl (fun s q => s.setQuad q out) s) qs out := by
  induction qs generalizing s with
  | nil => exact fun n => ⟨fun h => (nomatch h), fun _ => rfl⟩
  | cons q qs ih =>
    intro n
    obtain ⟨hin, hout⟩ := ih (s.setQuad q out) n
    rw [setQuad_core] at hin hout
    rw [List.foldl_cons]
    constructor
    · intro h
      by_cases hqs : n / 4 ∈ qs
      · rw [hin hqs]
        split
        · rfl
        · rfl
      · rw [hout hqs, if_pos ((List.mem_cons.1 h).resolve_right hqs)]
    · intro h
      rw [List.mem_cons, not_or] at h
      rw [hout h.2, if_neg h.1]

/-- Quads set, and the senders that then have room woken. -/
theorem quadSet_woken (out : Bool) (qs : List Nat) (s : State) :
    QuadSet s (qs.foldl (fun s q => s.setQuad q out) s).wakeSenders qs out ∧
      (qs.foldl (fun s q => s.setQuad q out) s).wakeSenders.mem = s.mem := by
  constructor
  · intro n
    rw [wakeSenders_core]
    exact quadSet_fold out qs s n
  · rw [inContexts_wakeSenders, coresOnly_chain.foldl (f := fun s q => s.setQuad q out) (fun s q => coresOnly_setQuad s q out) qs s]

/-! Watches that end, and what their outcomes change. -/

theorem complete_launches (s : State) (id status code node : Nat) : (s.complete id status code node).launches =
    if (s.launch? id).isSome then s.launches.filter (fun l => l.id != id) else s.launches := by
  rw [State.complete]
  cases hl : s.launch? id with
  | none => rfl
  | some l =>
    dsimp only
    rw [Option.isSome_some, if_pos rfl]
    split
    next q _ =>
      obtain ⟨m, qs, v, hpost⟩ := postCompletion_eq (s := { s with launches := s.launches.filter (fun x => x.id != id) }) q
        (l.words status code node)
      rw [hpost]
    · rfl

theorem complete_launches_subset (s : State) (id status code node : Nat) : ∀ l ∈ (s.complete id status code node).launches, l ∈ s.launches := by
  intro l hl
  rw [complete_launches] at hl
  split at hl
  · exact List.mem_of_mem_filter hl
  · exact hl

/-- A launch that completes is gone. -/
theorem complete_launch_gone (s : State) (id status code node : Nat) : ∀ l ∈ (s.complete id status code node).launches, l.id ≠ id := by
  intro l hl
  rw [complete_launches] at hl
  split at hl
  next => simpa using (List.mem_filter.1 hl).2
  next hnone =>
    rw [Bool.not_eq_true, Option.isSome_eq_false_iff, Option.isNone_iff_eq_none, State.launch?] at hnone
    simpa using List.find?_eq_none.1 hnone l hl

theorem settleLaunch_launches (s : State) (id : Nat) : ∀ l ∈ (s.settleLaunch id).launches, l ∈ s.launches := by
  rw [State.settleLaunch]
  split
  · exact fun _ h => h
  · split
    · exact complete_launches_subset s id 0 0 0
    · exact fun _ h => h

/-- A watch of a SPAWNW that ends with a fault code has its record posted. -/
theorem takeResult_record {code : FaultCode} (s : State) (k : Key) (core : Nat) (rec : TaskRec) (pc : CodeAddr) (va : Word) :
    ∃ rs n, s.takeResult (.watch k core rec pc) (.lost code) va =
      ({ s with records := rs, nextSeq := n } : State).settleLaunch rec.launch := ⟨_, _, rfl⟩

/-- A result that ends a test with a fault code sends no record. -/
theorem takeResult_ends {code : FaultCode} (s : State) (w : Who) (va : Word) :
    (s.takeResult w (.lost code) va).transit = s.transit ∧ (s.takeResult w (.lost code) va).places = s.places ∧
      ∀ l ∈ (s.takeResult w (.lost code) va).launches, l ∈ s.launches := by
  cases w with
  | ctx k n =>
    rw [State.takeResult]
    split
    · exact ⟨rfl, rfl, fun _ h => h⟩
    · split
      · obtain ⟨u, hu⟩ : ∃ u, u = s.modCtx k (Context.withLost n code) := ⟨_, rfl⟩
        have hplaces : u.places = s.places := by
          rw [hu]
          exact modCtx_places (f := Context.withLost n code) (fun _ => by exact ⟨rfl, rfl⟩) s k
        have hcontexts : InContexts s u := by
          rw [hu]
          exact inContexts_modCtx _ _ _
        have hmod : s.modCtx k (fun c => { c with reply := some { n := n, r := .lost code } }) = u := hu.symm
        rw [hmod]
        have hall : InContexts s (u.wakeWhere fun x w => x.key == k && w == .reply) :=
          inContexts_chain.trans hcontexts (inContexts_wakeWhere _ _)
        exact ⟨by rw [hall], (wakeWhere_places _ _).trans hplaces, fun l hl => by rw [hall] at hl; exact hl⟩
      · exact ⟨rfl, rfl, fun _ h => h⟩
  | copy => exact ⟨rfl, rfl, fun _ h => h⟩
  | watch k core rec pc =>
    obtain ⟨rs, n, hrecord⟩ := takeResult_record (code := code) s k core rec pc va
    rw [hrecord]
    refine ⟨?_, ?_, settleLaunch_launches _ _⟩
    · obtain ⟨ls, m, qs, v, hs⟩ := settleLaunch_eq (s := { s with records := rs, nextSeq := n }) rec.launch
      rw [hs]
    · obtain ⟨ls, m, qs, v, hs⟩ := settleLaunch_eq (s := { s with records := rs, nextSeq := n }) rec.launch
      rw [hs]
      exact places_congr rfl rfl rfl

/-- Watches that end with a fault code: the contexts stand where they stood, and nothing sets out. -/
theorem failWatches_ends (s : State) (p : Watch → Bool) (code : FaultCode) :
    (s.failWatches p code).transit = s.transit ∧ (s.failWatches p code).places = s.places ∧
      ∀ l ∈ (s.failWatches p code).launches, l ∈ s.launches := by
  obtain ⟨md, hmd⟩ := endWatches_shape s p
  have hends : Chain fun s t : State => t.transit = s.transit ∧ t.places = s.places ∧ ∀ l ∈ t.launches, l ∈ s.launches :=
    ⟨fun _ => ⟨rfl, rfl, fun _ h => h⟩, fun h h' => ⟨h'.1.trans h.1, h'.2.1.trans h.2.1, fun l hl => h.2.2 l (h'.2.2 l hl)⟩⟩
  rw [State.failWatches, hmd]
  obtain ⟨htransit, hplaces, hlaunches⟩ := hends.foldl (fun s w => takeResult_ends s w.who w.va) (s.watches.filter p)
    { s with watches := s.watches.filter (fun w => !p w), md := md }
  exact ⟨htransit, hplaces.trans (places_congr rfl rfl rfl), hlaunches⟩

/-! A compute die lost (R374). -/

/-- What a die's loss changes. -/
def DieLost (s t : State) : Prop :=
  t = { s with acc := t.acc, scratch := t.scratch, spare := t.spare, cur := t.cur, busy := t.busy, ctxs := t.ctxs, cores := t.cores
               chans := t.chans, crews := t.crews, msgs := t.msgs, nextMsg := t.nextMsg, watches := t.watches, md := t.md
               queues := t.queues, resumes := t.resumes, records := t.records, stoppedDies := t.stoppedDies, transit := t.transit
               graphs := t.graphs, launches := t.launches, mem := t.mem, vectors := t.vectors, nextSeq := t.nextSeq }

theorem dieLost_chain : Chain DieLost := ⟨fun _ => rfl, fun h h' => h'.trans (by rw [h])⟩

/-- The launches that a list of numbers names have completed. -/
theorem completeAll (ids : List Nat) (status code node : Nat) (s : State) :
    DieLost s (ids.foldl (fun s id => s.complete id status code node) s) ∧
      (∃ ls m qs v, ids.foldl (fun s id => s.complete id status code node) s =
        { s with launches := ls, mem := m, queues := qs, vectors := v }) ∧
      (∀ l ∈ (ids.foldl (fun s id => s.complete id status code node) s).launches, l ∈ s.launches ∧ l.id ∉ ids) := by
  induction ids generalizing s with
  | nil => exact ⟨rfl, ⟨s.launches, s.mem, s.queues, s.vectors, rfl⟩, fun l hl => ⟨hl, List.not_mem_nil⟩⟩
  | cons id ids ih =>
    obtain ⟨-, ⟨ls, m, qs, v, heq⟩, hlaunches⟩ := ih (s.complete id status code node)
    obtain ⟨ls1, m1, qs1, v1, h1⟩ := complete_eq s id status code node
    have hall : ((id :: ids).foldl (fun s id => s.complete id status code node) s) =
        { s with launches := ls, mem := m, queues := qs, vectors := v } := by rw [List.foldl_cons, heq, h1]
    refine ⟨by rw [hall]; exact rfl, ⟨ls, m, qs, v, hall⟩, fun l hl => ?_⟩
    obtain ⟨hin, hids⟩ := hlaunches l hl
    refine ⟨complete_launches_subset s id status code node l hin, fun hmem => ?_⟩
    rcases List.mem_cons.1 hmem with he | hmem
    · exact complete_launch_gone s id status code node l hin he
    · exact hids hmem

/-- The die is lost: what ran there is gone and its launches have completed, the watches at its homes have ended. -/
structure LostDie (bd : Nat) (s t : State) : Prop where
  shape : DieLost s t
  fewer : Fewer s t
  stopped : t.stoppedDies = s.stoppedDies ||| ((1 : BitVec 4) <<< bd)
  gone : (s.places.map Prod.fst).Nodup → ∀ c ∈ t.allCtxs, dieOf c.core ≠ bd
  transit : ∀ x ∈ t.transit, dieOf x.core ≠ bd
  graphs : ∀ x ∈ t.graphs, x.walker ≠ bd
  launches : ∀ c ∈ s.allCtxs, dieOf c.core = bd → t.launch? c.launch = none
  watches : ∀ w ∈ t.watches, w.cell < 2 ^ 51 → homeBd w.cell ≠ bd
  lost : (s.places.map Prod.fst).Nodup → ∀ w ∈ s.watches, w.cell < 2 ^ 51 → homeBd w.cell = bd →
    (∀ (k : Key) (n : Nat) (c : Context), w.who = .ctx k n → s.ctx? k = some c → dieOf c.core ≠ bd) → WatchLost s t w .homeLost

/-- A watch at the homes of a die. -/
def Watch.atDie (bd : Nat) (w : Watch) : Bool := decide (w.cell < 2 ^ 51) && decide (homeBd w.cell = bd)

/-- The contexts on a die. -/
def State.onDie (s : State) (bd : Nat) : List Context := s.allCtxs.filter (fun c => decide (dieOf c.core = bd))

/-- The die has stopped: its records and graphs are gone. -/
def State.stopDie (s : State) (bd : Nat) : State := { s with
  stoppedDies := s.stoppedDies ||| ((1 : BitVec 4) <<< bd)
  transit := s.transit.filter (fun t => !decide (dieOf t.core = bd))
  cores := s.cores.map (fun (k : Core) =>
    if dieOf k.num = bd then { k with inbox := [], high := [], deque := [], glean := .idle } else k)
  graphs := s.graphs.filter (fun x => !decide (x.walker = bd)) }

theorem loseDie_eq (s : State) (bd : Nat) : ∃ (ids : List Nat) (dead : Key → Bool) (u x y : State),
    u = (s.onDie bd).foldl State.kill s ∧ x = (u.deadRecords dead).stopDie bd ∧
    y = ids.foldl (fun s id => s.complete id 3 FaultCode.homeLost.num 0) x ∧
    s.loseDie bd = (y.failWatches (Watch.atDie bd) .homeLost).wakeSenders ∧ ∀ c ∈ s.onDie bd, c.launch ∈ ids :=
  ⟨_, _, _, _, _, rfl, rfl, rfl, rfl, fun c hc =>
    List.mem_dedup.2 (List.mem_append_left _ (List.mem_append_left _ (List.mem_map.2 ⟨c, hc, rfl⟩)))⟩

/-- Stopping a die leaves its contexts and the watches. -/
theorem stopDie_shape (u : State) (dead : Key → Bool) (bd : Nat) : ∃ rs ms stopped transit cores graphs,
    (u.deadRecords dead).stopDie bd = { u with resumes := rs, records := ms, stoppedDies := stopped, transit := transit, cores := cores
                                               graphs := graphs } := ⟨_, _, _, _, _, _, rfl⟩

theorem stopDie_stops (u : State) (dead : Key → Bool) (bd : Nat) :
    ((u.deadRecords dead).stopDie bd).stoppedDies = u.stoppedDies ||| ((1 : BitVec 4) <<< bd) ∧
      (∀ x ∈ ((u.deadRecords dead).stopDie bd).transit, dieOf x.core ≠ bd) ∧
      ∀ x ∈ ((u.deadRecords dead).stopDie bd).graphs, x.walker ≠ bd := by
  refine ⟨rfl, fun x hx => ?_, fun x hx => ?_⟩
  · have h := (List.mem_filter.1 hx).2
    simpa using h
  · have h := (List.mem_filter.1 hx).2
    simpa using h

/-- A context killed with its die: none of its key and core is left. -/
theorem onDie_gone {bd : Nat} (h : AllKilled (s.onDie bd) s u) (hn : (s.places.map Prod.fst).Nodup) {c : Context}
    (hc : (c.key, c.core) ∈ u.places) : dieOf c.core ≠ bd := by
  intro hdie
  obtain ⟨c0, hc0, hkey, hcore⟩ := mem_places.1 (h.fewer.places.subset hc)
  have hon : c0 ∈ s.onDie bd := List.mem_filter.2 ⟨hc0, decide_eq_true (by rw [hcore, hdie])⟩
  exact h.gone hn c0 hon (by rw [hkey]; exact List.mem_map.2 ⟨_, hc, rfl⟩)

/-- Of contexts with distinct keys, the one of a key stands on one core. -/
theorem place_unique (hn : (s.places.map Prod.fst).Nodup) {c c' : Context} (hc : c ∈ s.allCtxs) (hc' : c' ∈ s.allCtxs)
    (hkey : c.key = c'.key) : c.core = c'.core := by
  have h : (c.key, c.core) ∈ s.places := mem_places.2 ⟨c, hc, rfl, rfl⟩
  have h' : (c'.key, c'.core) ∈ s.places := mem_places.2 ⟨c', hc', rfl, rfl⟩
  exact congrArg Prod.snd (List.inj_on_of_nodup_map hn h h' hkey)

/-- A watch of a context that is not on the die outlasts the contexts that are, and its context waits for it as before. -/
theorem watch_outlasts {bd : Nat} (h : AllKilled (s.onDie bd) s u) (hn : (s.places.map Prod.fst).Nodup) {w : Watch} (hw : w ∈ s.watches)
    {k : Key} {n : Nat} {c : Context} (hwho : w.who = .ctx k n) (hc : s.ctx? k = some c) (hdie : dieOf c.core ≠ bd) :
    w ∈ u.watches ∧ FoundAlike k s u := by
  have hne (x : Context) (hx : x ∈ s.onDie bd) : x.key ≠ k := by
    intro hkey
    obtain ⟨hx, hon⟩ := List.mem_filter.1 hx
    have hcore : x.core = c.core := place_unique hn hx (mem_of_ctx hc) (hkey.trans (ctx_key hc).symm)
    exact hdie (hcore ▸ of_decide_eq_true hon)
  refine ⟨h.kept w hw fun x hx => ?_, h.others k hne⟩
  rw [hwho]
  exact beq_false_of_ne (Ne.symm (hne x hx))

/-- Watches have ended with a fault code, and the senders with room have been woken. -/
structure WatchesFailed (p : Watch → Bool) (code : FaultCode) (s t : State) : Prop where
  shape : DieLost s t
  same : t.stoppedDies = s.stoppedDies ∧ t.transit = s.transit ∧ t.graphs = s.graphs ∧ t.places = s.places
  launches : ∀ l ∈ t.launches, l ∈ s.launches
  watches : t.watches = s.watches.filter (fun w => !p w)
  lost : ∀ w ∈ s.watches, p w = true → ∀ (k : Key) (n : Nat) (c : Context), w.who = .ctx k n → AwaitsTest c k n s →
    TestLost code c k n t

theorem watchesFailed (s : State) (p : Watch → Bool) (code : FaultCode) :
    WatchesFailed p code s (s.failWatches p code).wakeSenders := by
  obtain ⟨md, -, hfailed, -⟩ := failWatches_shape s p code
  obtain ⟨htransit, hplaces, hlaunches⟩ := failWatches_ends s p code
  have hwoken := inContexts_wakeSenders (s.failWatches p code)
  refine ⟨?_, ⟨?_, ?_, ?_, (wakeSenders_places _).trans hplaces⟩, ?_, ?_, fun w hw hp k n c hwho hawaits =>
    wakeSenders_lost (failWatches_lost hw hp hwho hawaits)⟩
  · rw [hwoken, hfailed]
    exact rfl
  · rw [hwoken, hfailed]
  · rw [hwoken, htransit]
  · rw [hwoken, hfailed]
  · rw [hwoken]
    exact hlaunches
  · rw [hwoken]
    exact failWatches_watches s p code

theorem loseDie_loses (s : State) (bd : Nat) : LostDie bd s (s.loseDie bd) := by
  obtain ⟨ids, dead, u, x, y, hu, hx, hy, heq, hids⟩ := loseDie_eq s bd
  have hkills := kills (s.onDie bd) s
  rw [← hu] at hkills
  obtain ⟨hcompletes, ⟨ls, m, qs, vec, hcompleted⟩, hlaunches⟩ := completeAll ids 3 FaultCode.homeLost.num 0 x
  rw [← hy] at hcompletes hcompleted hlaunches
  obtain ⟨rs, ms, stopped, transit, cores, graphs, hshape⟩ := stopDie_shape u dead bd
  obtain ⟨hstops, htransits, hgraphs⟩ := stopDie_stops u dead bd
  rw [← hx] at hshape hstops htransits hgraphs
  have hfailed := watchesFailed y (Watch.atDie bd) .homeLost
  rw [← heq] at hfailed
  obtain ⟨hstopped, htransit, hgraph, hplaces⟩ := hfailed.same
  have hyWatches : y.watches = u.watches := by rw [hcompleted, hshape]
  have hyCtx (k : Key) : y.ctx? k = u.ctx? k := by
    rw [hcompleted, hshape]
    rfl
  have hyPlaces : y.places = u.places := by
    rw [hcompleted, hshape]
    exact places_congr rfl rfl rfl
  have hyTransit : y.transit = x.transit := by rw [hcompleted]
  have hyGraphs : y.graphs = x.graphs := by rw [hcompleted]
  have hyStopped : y.stoppedDies = x.stoppedDies := by rw [hcompleted]
  have hall : DieLost s (s.loseDie bd) := by
    have hsu : DieLost s u := Eq.trans hkills.shape (by rw [hkills.shape])
    have hux : DieLost u x := by
      rw [hshape]
      exact rfl
    exact dieLost_chain.trans hsu (dieLost_chain.trans hux (dieLost_chain.trans hcompletes hfailed.shape))
  have hplace {c : Context} (hc : c ∈ (s.loseDie bd).allCtxs) : (c.key, c.core) ∈ u.places := by
    rw [← hyPlaces, ← hplaces]
    exact mem_places.2 ⟨c, hc, rfl, rfl⟩
  have hsublist : (s.loseDie bd).places.Sublist s.places := by
    rw [hplaces, hyPlaces]
    exact hkills.fewer.places
  refine ⟨hall, ⟨hsublist, fun w hw => ?_⟩, ?_, fun hn c hc => onDie_gone hkills hn (hplace hc), ?_, ?_, fun c hc hdie => ?_,
    fun w hw hcell hhome => ?_, ?_⟩
  · rw [hfailed.watches, hyWatches] at hw
    exact hkills.fewer.watches w (List.mem_of_mem_filter hw)
  · rw [hstopped, hyStopped, hstops, hkills.shape]
  · rw [htransit, hyTransit]
    exact htransits
  · rw [hgraph, hyGraphs]
    exact hgraphs
  · rw [State.launch?, List.find?_eq_none]
    intro l hl hid
    rw [beq_iff_eq] at hid
    refine (hlaunches l (hfailed.launches l hl)).2 ?_
    rw [hid]
    exact hids c (List.mem_filter.2 ⟨hc, decide_eq_true hdie⟩)
  · rw [hfailed.watches] at hw
    have hno := (List.mem_filter.1 hw).2
    rw [Watch.atDie, decide_eq_true hcell, decide_eq_true hhome] at hno
    nomatch hno
  · intro hn w hw hcell hhome hoff k n c hwho hc hasked hnext hreply
    obtain ⟨hin, halike⟩ := watch_outlasts hkills hn hw hwho hc (hoff k n c hwho hc)
    obtain ⟨c', hc', hrest⟩ : AwaitsTest c k n u := halike.awaits ⟨c, hc, rfl, hasked, hnext, hreply, rfl⟩
    have hat : Watch.atDie bd w = true := by rw [Watch.atDie, decide_eq_true hcell, decide_eq_true hhome]; rfl
    exact hfailed.lost w (by rw [hyWatches]; exact hin) hat k n c hwho ⟨c', (hyCtx k).trans hc', hrest⟩

end Sys2Proof.Machine
end

section
/-! PROOFS. O55: the management port and service life (R371 to R379). -/
namespace Sys2Proof.Machine
open Sys2Proof.Claims
variable {s t u : State}

theorem nodup_places (h : (s.allCtxs.map Context.key).Nodup) : (s.places.map Prod.fst).Nodup := by
  rw [State.places, List.map_map]
  exact h

/-! Quads. -/

theorem ageingCheck_sets (qs : List Nat) (s : State) (h : ∀ q ∈ qs, q < 192) :
    ∃ t : State, Leads (.ageingCheck qs) s t ∧ QuadSet s t qs true ∧ t.mem = s.mem := by
  have hall : qs.filter (fun q => decide (q < 192)) = qs := List.filter_eq_self.2 fun q hq => decide_eq_true (h q hq)
  refine ⟨_, rfl, ?_⟩
  rw [hall]
  exact quadSet_woken true qs s

theorem quadOrder_sets (die : Fin 4) (quad : Fin 48) (s : State) :
    (∃ t : State, Leads (.quadTakeOut die quad) s t ∧ QuadSet s t [48 * die.val + quad.val] true ∧ t.mem = s.mem) ∧
    ∃ t : State, Leads (.quadReturn die quad) s t ∧ QuadSet s t [48 * die.val + quad.val] false ∧ t.mem = s.mem :=
  ⟨⟨_, rfl, quadSet_woken true [48 * die.val + quad.val] s⟩, ⟨_, rfl, quadSet_woken false [48 * die.val + quad.val] s⟩⟩

/-- A core no longer drained. -/
def Core.released (k : Core) : Core := { k with drained := false }

theorem coreRelease_releases (core : Nat) (s : State) : ∃ t : State, Leads (.coreRelease core) s t ∧
    t.core core = { s.core core with drained := false } ∧ ∀ n, n ≠ core → t.core n = s.core n := by
  refine ⟨(s.modCore core Core.released).wakeSenders, rfl, ?_, fun n hn => ?_⟩
  · rw [wakeSenders_core]
    exact core_modCore_same s core (f := Core.released) fun _ => by rfl
  · rw [wakeSenders_core]
    exact State.core_setCore_other _ _ (by rw [Core.released, State.core_num]; exact hn.symm)

/-! Reset. -/

/-- Once every watch is dropped no line that had one is WATCHED. -/
theorem marks_cleared (ls : List Nat) (h : s.md.wf = true) (hno : s.watches = []) (line : Nat) :
    (line ∈ ls ∨ mdWatched (s.md.read line) = false) → mdWatched ((ls.foldl State.markWatched s).md.read line) = false := by
  induction ls generalizing s with
  | nil => exact fun hor => hor.elim (fun hmem => (nomatch hmem)) id
  | cons l ls ih =>
    intro hor
    rw [List.foldl_cons]
    refine ih ((homeOnly_markWatched s l).2.2 h) hno ?_
    by_cases hl : line = l
    · subst hl
      right
      rw [markWatched_watched h, hno]
      rfl
    · refine hor.imp (fun hmem => (List.mem_cons.1 hmem).resolve_left hl) fun hclear => ?_
      have hread : (s.markWatched l).md.read line = s.md.read line := read_md_other hl
      rw [hread]
      exact hclear

theorem dropWatches_clears (h : s.md.wf = true) (w : Watch) (hw : w ∈ s.watches) :
    mdWatched ((s.dropWatches fun _ => true).md.read (w.cell / 128)) = false := by
  have hno : s.watches.filter (fun _ => !true) = [] := List.filter_eq_nil_iff.2 fun _ _ => Bool.false_ne_true
  have hall : s.watches.filter (fun _ => true) = s.watches := List.filter_eq_self.2 fun _ _ => rfl
  rw [State.dropWatches, State.endWatches, hall, hno]
  exact marks_cleared (s := { s with watches := [] }) _ h rfl _ (.inl (List.mem_map.2 ⟨w, hw, rfl⟩))

/-- What reset keeps of the state. -/
theorem deviceReset_keeps (s : State) : (deviceReset s).mem = s.mem ∧ (deviceReset s).md = (s.dropWatches fun _ => true).md ∧
    (deviceReset s).firmware = s.firmware ∧ (deviceReset s).edges = s.edges ∧ (deviceReset s).mgmtReplies = s.mgmtReplies :=
  ⟨rfl, rfl, rfl, rfl, rfl⟩

/-- What reset leaves of what runs: nothing. -/
theorem deviceReset_clears (s : State) : (deviceReset s).bar1 = State.reset.bar1 ∧ (deviceReset s).queues = State.reset.queues ∧
    (deviceReset s).links = State.reset.links ∧ (deviceReset s).allCtxs = [] ∧ (deviceReset s).cores = [] ∧
    (deviceReset s).launches = [] ∧ (deviceReset s).graphs = [] ∧ (deviceReset s).records = [] ∧ (deviceReset s).msgs = [] ∧
    (deviceReset s).watches = [] ∧ (deviceReset s).transit = [] :=
  ⟨rfl, rfl, rfl, rfl, rfl, rfl, rfl, rfl, rfl, rfl, rfl⟩

theorem deviceReset_resets (s : State) : ∃ t : State, Leads .deviceReset s t ∧ t.mem = s.mem ∧
    t.md = (s.dropWatches (fun _ => true)).md ∧ t.firmware = s.firmware ∧ t.edges = s.edges ∧
    t.bar1 = State.reset.bar1 ∧ t.queues = State.reset.queues ∧ t.links = State.reset.links ∧ t.allCtxs = [] ∧ t.cores = [] ∧
    t.launches = [] ∧ t.graphs = [] ∧ t.records = [] ∧ t.msgs = [] ∧ t.watches = [] ∧ t.transit = [] ∧
    (Sys2Proof.Safety.memoryOk s → ∀ w ∈ s.watches, mdWatched (t.md.read (w.cell / 128)) = false) := by
  obtain ⟨hmem, hmd, hfirmware, hedges, -⟩ := deviceReset_keeps s
  obtain ⟨hbar, hqueues, hlinks, hctxs, hcores, hlaunches, hgraphs, hrecords, hmsgs, hwatches, htransit⟩ := deviceReset_clears s
  refine ⟨deviceReset s, rfl, hmem, hmd, hfirmware, hedges, hbar, hqueues, hlinks, hctxs, hcores, hlaunches, hgraphs, hrecords, hmsgs,
    hwatches, htransit, fun hok w hw => ?_⟩
  obtain ⟨-, -, -, hwf⟩ := hok
  rw [hmd]
  exact dropWatches_clears hwf w hw

theorem thermalTrip_resets (s : State) : ∃ (t : State) (x : Word), Leads .thermalTrip s t ∧ t.mem = s.mem ∧ t.allCtxs = [] ∧
    t.bar1 = State.reset.bar1 ∧ t.mgmtReplies = s.mgmtReplies ++ [x] := by
  obtain ⟨hmem, -, -, -, hreplies⟩ := deviceReset_keeps s
  obtain ⟨hbar, -, -, hctxs, -⟩ := deviceReset_clears s
  obtain ⟨r, hr⟩ : ∃ r, r = deviceReset s := ⟨_, rfl⟩
  rw [← hr] at hmem hreplies hbar hctxs
  exact ⟨r.replyReading, Config.reading r.free, by rw [hr]; exact rfl, hmem, hctxs, hbar, congrArg (· ++ _) hreplies⟩

/-! A base die fenced (R371). -/

theorem endOfflineOf_shape (s : State) (die : Fin 4) : ∃ v off, s.endOfflineOf die = { s with vectors := v, offline := off } := by
  rw [State.endOfflineOf]
  dsimp only
  split
  · exact ⟨_, _, rfl⟩
  · exact ⟨_, _, rfl⟩

/-- No request of the host for a memory die of the base die is left, and if there was one the host receives vector 65. -/
theorem endOfflineOf_ends (s : State) (die : Fin 4) : (∀ x ∈ (s.endOfflineOf die).offline, x.1.val / 2 ≠ die.val) ∧
    ((∃ x ∈ s.offline, x.1.val / 2 = die.val) → (s.endOfflineOf die).vectors.getLsbD 65 = true) := by
  rw [State.endOfflineOf]
  dsimp only
  split
  next =>
    refine ⟨fun x hx => ?_, fun _ => ?_⟩
    · have h := (List.mem_filter.1 hx).2
      simpa using h
    · rw [raiseVector_vectors, BitVec.getLsbD_or]
      simp
  next hnone =>
    rw [List.any_eq_true] at hnone
    exact ⟨fun x hx he => hnone ⟨x, hx, decide_eq_true he⟩, fun ⟨x, hx, he⟩ => absurd ⟨x, hx, decide_eq_true he⟩ hnone⟩

theorem bit_set (die : Fin 4) (x : BitVec 4) : (x ||| ((1 : BitVec 4) <<< die.val)).getLsbD die.val = true := by
  rw [BitVec.getLsbD_or, BitVec.getLsbD_shiftLeft]
  simp [die.isLt]

theorem fenceBaseDie_fences (die : Fin 4) (s : State) (hn : (s.allCtxs.map Context.key).Nodup) :
    ∃ t : State, Leads (.fenceBaseDie die) s t ∧ t.fencedBase = s.fencedBase ||| ((1 : BitVec 4) <<< die.val) ∧
      t.fencedDies = s.fencedDies ||| ((3 : BitVec 8) <<< (2 * die.val)) ∧ t.stoppedDies.getLsbD die.val = true ∧
      (∀ c ∈ t.allCtxs, dieOf c.core ≠ die.val) ∧ (∀ x ∈ t.transit, dieOf x.core ≠ die.val) ∧
      (∀ x ∈ t.graphs, x.walker ≠ die.val) ∧
      (∀ c ∈ s.allCtxs, dieOf c.core = die.val → t.launch? c.launch = none) ∧
      (∀ x ∈ t.offline, x.1.val / 2 ≠ die.val) ∧
      ((∃ x ∈ s.offline, x.1.val / 2 = die.val) → t.vectors.getLsbD 65 = true) ∧
      (∀ w ∈ s.watches, w.cell < 2 ^ 51 → homeBd w.cell = die.val → w ∉ t.watches ∧
        ((∀ (k : Key) (n : Nat) (c : Context), w.who = .ctx k n → s.ctx? k = some c → dieOf c.core ≠ die.val) →
          WatchLost s t w .homeLost)) := by
  obtain ⟨s1, hs1, b, d, hshape⟩ : ∃ s1 : State, s1 = { s with
      fencedBase := s.fencedBase ||| ((1 : BitVec 4) <<< die.val)
      fencedDies := s.fencedDies ||| ((3 : BitVec 8) <<< (2 * die.val)) } ∧ ∃ b d, s1 = { s with fencedBase := b, fencedDies := d } :=
    ⟨_, rfl, _, _, rfl⟩
  have hbase : s1.fencedBase = s.fencedBase ||| ((1 : BitVec 4) <<< die.val) := by rw [hs1]
  have hdies : s1.fencedDies = s.fencedDies ||| ((3 : BitVec 8) <<< (2 * die.val)) := by rw [hs1]
  have hplaces : s1.places = s.places := by
    rw [hshape]
    exact places_congr rfl rfl rfl
  have hlost := loseDie_loses s1 die.val
  obtain ⟨u, hu⟩ : ∃ u, u = s1.loseDie die.val := ⟨_, rfl⟩
  have hleads : Leads (.fenceBaseDie die) s (u.endOfflineOf die) := by
    rw [hu, hs1]
    exact rfl
  rw [← hu] at hlost
  have hnodup : (s1.places.map Prod.fst).Nodup := hplaces ▸ nodup_places hn
  obtain ⟨v, off, hends⟩ := endOfflineOf_shape u die
  obtain ⟨hoffline, hvector⟩ := endOfflineOf_ends u die
  have hsame : u.offline = s.offline := by rw [hlost.shape, hshape]
  have hgone := hlost.gone hnodup
  refine ⟨_, hleads, ?_, ?_, ?_, ?_, ?_, ?_, ?_, hoffline, hsame ▸ hvector, ?_⟩
  all_goals rw [hends]
  · exact Eq.trans (by rw [hlost.shape]) hbase
  · exact Eq.trans (by rw [hlost.shape]) hdies
  · exact Eq.trans (congrArg (BitVec.getLsbD · die.val) hlost.stopped) (bit_set die _)
  · exact hgone
  · exact hlost.transit
  · exact hlost.graphs
  · exact fun c hc hdie => hlost.launches c (by rw [hshape]; exact hc) hdie
  · intro w hw hcell hhome
    have hw1 : w ∈ s1.watches := by rw [hshape]; exact hw
    refine ⟨fun hin => hlost.watches w hin hcell hhome, fun hoff k n c hwho hc => ?_⟩
    have hsame (k : Key) : s1.ctx? k = s.ctx? k := by
      rw [hshape]
      rfl
    exact hlost.lost hnodup w hw1 hcell hhome (fun k n c hwho hc => hoff k n c hwho ((hsame k).symm.trans hc)) k n c hwho
      ((hsame k).trans hc)

/-! The watchdog (R374). -/

/-- A die that has been lost stays so: it issues nothing, nothing stands there and no watch is held at its homes. -/
structure IsLost (bd : Nat) (t : State) : Prop where
  stopped : t.stoppedDies.getLsbD bd = true
  gone : ∀ p ∈ t.places, dieOf p.2 ≠ bd
  watches : ∀ w ∈ t.watches, w.cell < 2 ^ 51 → homeBd w.cell ≠ bd

/-- What a tick of the watchdog does for one die. -/
def tickOne (lost : Nat → Bool) (t : State) (bd : Nat) : State := if lost bd then t.loseDie bd else t

theorem isLost_loseDie {bd bd' : Nat} (h : IsLost bd s) : IsLost bd (s.loseDie bd') := by
  have hlost := loseDie_loses s bd'
  refine ⟨?_, fun p hp => h.gone p (hlost.fewer.places.subset hp), fun w hw => h.watches w (hlost.fewer.watches w hw)⟩
  rw [hlost.stopped, BitVec.getLsbD_or, h.stopped, Bool.true_or]

theorem loseDie_isLost {bd : Nat} (hbd : bd < 4) (hn : (s.places.map Prod.fst).Nodup) : IsLost bd (s.loseDie bd) := by
  have hlost := loseDie_loses s bd
  refine ⟨?_, fun p hp hdie => ?_, hlost.watches⟩
  · rw [hlost.stopped]
    exact bit_set ⟨bd, hbd⟩ s.stoppedDies
  · obtain ⟨c, hc, -, hcore⟩ := mem_places.1 (show (p.1, p.2) ∈ _ from hp)
    exact hlost.gone hn c hc (hcore ▸ hdie)

theorem ticks_lose (lost : Nat → Bool) (l : List Nat) (hl : ∀ bd ∈ l, bd < 4) (s : State) (hn : (s.places.map Prod.fst).Nodup) :
    ∀ bd, (bd ∈ l ∧ lost bd = true ∨ IsLost bd s) → IsLost bd (l.foldl (tickOne lost) s) := by
  induction l generalizing s with
  | nil => exact fun bd h => h.elim (fun ⟨hmem, _⟩ => (nomatch hmem)) id
  | cons x l ih =>
    intro bd h
    rw [List.foldl_cons, tickOne]
    split
    next hx =>
      refine ih (fun y hy => hl y (List.mem_cons_of_mem _ hy)) _ ((loseDie_loses s x).fewer.nodup hn) bd ?_
      rcases h with ⟨hmem, hbd⟩ | h
      · rcases List.mem_cons.1 hmem with rfl | hmem
        · exact .inr (loseDie_isLost (hl _ List.mem_cons_self) hn)
        · exact .inl ⟨hmem, hbd⟩
      · exact .inr (isLost_loseDie h)
    next hx =>
      refine ih (fun y hy => hl y (List.mem_cons_of_mem _ hy)) s hn bd (h.imp_left fun ⟨hmem, hbd⟩ => ⟨?_, hbd⟩)
      exact (List.mem_cons.1 hmem).resolve_left fun he => hx (he ▸ hbd)

/-- The dies that the watchdog finds lost and not yet stopped. -/
def State.lostNow (s : State) (bd : Nat) : Bool := s.bdLost bd && !s.stoppedDies.getLsbD bd

theorem watchdogTick_eq (s : State) : watchdogTick s = (List.range 4).foldl (tickOne s.lostNow) s := rfl

theorem ticks_none (lost : Nat → Bool) (l : List Nat) (h : ∀ bd ∈ l, lost bd = false) (s : State) : l.foldl (tickOne lost) s = s := by
  induction l with
  | nil => rfl
  | cons x l ih =>
    rw [List.foldl_cons, tickOne, h x List.mem_cons_self, if_neg Bool.false_ne_true]
    exact ih fun y hy => h y (List.mem_cons_of_mem _ hy)

theorem watchdogTick_ticks (s : State) :
    ((∀ bd, bd < 4 → s.bdLost bd = false ∨ s.stoppedDies.getLsbD bd = true) → Leads .watchdogTick s s) ∧
    ((s.allCtxs.map Context.key).Nodup → ∃ t : State, Leads .watchdogTick s t ∧ ∀ bd, bd < 4 → s.bdLost bd = true →
      s.stoppedDies.getLsbD bd = false → t.stoppedDies.getLsbD bd = true ∧ (∀ c ∈ t.allCtxs, dieOf c.core ≠ bd) ∧
        ∀ w ∈ t.watches, w.cell < 2 ^ 51 → homeBd w.cell ≠ bd) := by
  constructor
  · intro h
    refine congrArg Host.Outcome.next ((watchdogTick_eq s).trans (ticks_none _ _ (fun bd hbd => ?_) s))
    rw [State.lostNow]
    rcases h bd (List.mem_range.1 hbd) with h | h
    · rw [h, Bool.false_and]
    · rw [h, Bool.not_true, Bool.and_false]
  · intro hn
    refine ⟨watchdogTick s, rfl, fun bd hbd hlost hrunning => ?_⟩
    have hnow : s.lostNow bd = true := by rw [State.lostNow, hlost, hrunning]; rfl
    rw [watchdogTick_eq]
    obtain ⟨hstopped, hgone, hwatches⟩ := ticks_lose s.lostNow (List.range 4) (fun _ h => List.mem_range.1 h) s (nodup_places hn) bd
      (.inl ⟨List.mem_range.2 hbd, hnow⟩)
    exact ⟨hstopped, fun c hc => hgone _ (mem_places.2 ⟨c, hc, rfl, rfl⟩), hwatches⟩

/-! The standby (R373, R374), the package's id (R372) and the words answered (R370, R371). -/

theorem standby_orders (s : State) : (s.standbyDown = false → Leads .standbyTakeOver s { s with standby := true }) ∧
    (s.standbyDown = true → Leads .standbyTakeOver s s) ∧
    Leads .standbyStandDown s { s with standby := false, standbyDown := true } ∧
    (s.bdLost 2 = true → Leads .standbySelfFence s { s with standby := false, standbyDown := true }) ∧
    (s.bdLost 2 = false → Leads .standbySelfFence s s) :=
  ⟨fun h => congrArg Host.Outcome.next (if_neg (by rw [h]; exact Bool.false_ne_true)), fun h => congrArg Host.Outcome.next (if_pos h), rfl,
    fun h => congrArg Host.Outcome.next (if_pos h), fun h => congrArg Host.Outcome.next (if_neg (by rw [h]; exact Bool.false_ne_true))⟩

theorem setPackageId_sets (id : BitVec 12) (s : State) :
    (s.bar1.pkgvalid = false → Leads (.setPackageId id) s { s with bar1 := { s.bar1 with pkgvalid := true, pkgid := id } }) ∧
    (s.bar1.pkgvalid = true → Leads (.setPackageId id) s s) :=
  ⟨fun h => congrArg Host.Outcome.next (if_neg (by rw [h]; exact Bool.false_ne_true)), fun h => congrArg Host.Outcome.next (if_pos h)⟩

theorem reading_replies (i : Instr) (hi : i ∈ ([.spdmMeasurement, .sensorRead] : List Instr)) (s : State) :
    ∃ (t : State) (x : Word), Leads i s t ∧ t = { s with mgmtReplies := s.mgmtReplies ++ [x], free := s.free + 1 } := by
  rcases List.mem_cons.1 hi with rfl | hi
  · exact ⟨_, Config.reading s.free, rfl, rfl⟩
  · obtain rfl := List.mem_singleton.1 hi
    exact ⟨_, Config.reading s.free, rfl, rfl⟩

theorem mgmtReadLogs_replies (s : State) : ∃ t : State, Leads .mgmtReadLogs s t ∧ t = { s with mgmtReplies := t.mgmtReplies } ∧
    t.mgmtReplies = s.mgmtReplies ++ s.poisonLog.map (fun l => BitVec.ofNat 64 (128 * l)) ++
      (List.range (2 * min s.bar1.logprod.toNat s.bar1.logsize)).map
        (fun i => BitVec.ofNat 64 (s.mem.readN (s.bar1.logbase.toNat + 8 * i) 8)) :=
  ⟨mgmtReadLogs s, rfl, rfl, (List.append_assoc _ _ _).symm⟩

/-- Settles O55: a die that is lost has its contexts killed one by one, its launches completed and its watches ended
(`loseDie_loses`); the rest is read off the orders of the management port. -/
theorem thePackageIsManaged : Obligations.ThePackageIsManaged := by
  unfold Obligations.ThePackageIsManaged
  exact ⟨ageingCheck_sets, quadOrder_sets, coreRelease_releases, deviceReset_resets, thermalTrip_resets, fun _ => rfl, fenceBaseDie_fences,
    fun _ _ => rfl, watchdogTick_ticks, standby_orders, setPackageId_sets, fun _ _ => rfl, reading_replies, mgmtReadLogs_replies⟩

end Sys2Proof.Machine
end

section
/-! PROOFS. Tasks started (R306), contexts taken to their frames to make room (R312), and what both leave. -/
namespace Sys2Proof.Machine
open Sys2Proof.Claims
variable {s t u : State} {c : Context} {k : Key} {r : TaskRec} {id : BitVec 16}

/-! Who is found. -/

theorem ctx_none_iff : s.ctx? k = none ↔ ∀ c ∈ s.allCtxs, c.key ≠ k := by
  rw [State.ctx?, State.allCtxs]
  split
  next hcur =>
    obtain ⟨hbusy, hkey⟩ := Bool.and_eq_true_iff.1 hcur
    rw [hbusy, if_pos rfl]
    exact ⟨fun h => (nomatch h), fun h => absurd (beq_iff_eq.1 hkey) (h s.cur List.mem_cons_self)⟩
  next hcur =>
    rw [List.find?_eq_none]
    constructor
    · intro h c hc
      rcases List.mem_append.1 hc with hc | hc
      · split at hc
        next hbusy =>
          obtain rfl := List.mem_singleton.1 hc
          exact fun he => hcur (by rw [hbusy, he, beq_self_eq_true]; rfl)
        · nomatch hc
      · exact fun he => h c hc (beq_iff_eq.2 he)
    · exact fun h c hc he => h c (List.mem_append_right _ hc) (beq_iff_eq.1 he)

/-- A frame that is free is no context's. -/
theorem freeFrame_fresh {asid : BitVec 12} (h : s.freeFrame asid = some id) : s.ctx? { asid := asid, ctxid := id } = none := by
  obtain ⟨n, hid, hlt, hfree⟩ : ∃ n, id = BitVec.ofNat 16 n ∧ n < s.frameCount asid ∧ s.frameHeld asid n = false := by
    have hok {n : Nat} (hn : (decide (n < s.frameCount asid) && !s.frameHeld asid n) = true) :
        n < s.frameCount asid ∧ s.frameHeld asid n = false := by
      obtain ⟨h1, h2⟩ := Bool.and_eq_true_iff.1 hn
      exact ⟨of_decide_eq_true h1, by simpa using h2⟩
    rw [State.freeFrame] at h
    dsimp only at h
    split at h
    next n hpick =>
      split at hpick
      · split at hpick
        next hn =>
          obtain rfl := Option.some.inj hpick
          exact ⟨_, (Option.some.inj h).symm, hok hn⟩
        · nomatch hpick
      · nomatch hpick
    next =>
      obtain ⟨n, hn, hid⟩ := Option.map_eq_some_iff.1 h
      exact ⟨n, hid.symm, hok (n := n) (by simpa using List.find?_some hn)⟩
  rw [ctx_none_iff]
  intro c hc hkey
  have hlow : n < 2 ^ 16 := lt_of_lt_of_le hlt (by
    rw [State.frameCount, wbits]
    exact (bitsOf_lt _ 0 16).le)
  rw [State.frameHeld, List.any_eq_false] at hfree
  refine hfree c hc ?_
  rw [hkey, beq_self_eq_true, Bool.true_and, hid, BitVec.toNat_ofNat, Nat.mod_eq_of_lt hlow]
  exact decide_eq_true rfl

/-- Frames are held as before where the contexts' keys are the same. -/
theorem frameHeld_congr (h : ∀ k, s.ctx? k = none ↔ t.ctx? k = none) (asid : BitVec 12) (n : Nat) : t.frameHeld asid n = s.frameHeld asid n := by
  have hheld (u : State) : u.frameHeld asid n = true ↔ ∃ k : Key, k.asid = asid ∧ k.ctxid.toNat = n ∧ u.ctx? k ≠ none := by
    rw [State.frameHeld, List.any_eq_true]
    constructor
    · rintro ⟨c, hc, hp⟩
      obtain ⟨hasid, hn⟩ := Bool.and_eq_true_iff.1 hp
      exact ⟨c.key, beq_iff_eq.1 hasid, of_decide_eq_true hn, fun hnone => ctx_none_iff.1 hnone c hc rfl⟩
    · rintro ⟨k, hasid, hn, hsome⟩
      rw [ne_eq, ctx_none_iff, not_forall] at hsome
      obtain ⟨c, hc⟩ := hsome
      rw [Classical.not_imp, not_not] at hc
      exact ⟨c, hc.1, by rw [hc.2, hasid, beq_self_eq_true, Bool.true_and]; exact decide_eq_true hn⟩
  rw [Bool.eq_iff_iff, hheld, hheld]
  exact exists_congr fun k => and_congr_right fun _ => and_congr_right fun _ => not_congr (h k).symm

theorem freeFrame_congr (h : ∀ k, s.ctx? k = none ↔ t.ctx? k = none) (hcount : ∀ a, t.frameCount a = s.frameCount a)
    (hpool : t.framePool = s.framePool) (asid : BitVec 12) : t.freeFrame asid = s.freeFrame asid := by
  have hheld : t.frameHeld asid = s.frameHeld asid := funext (frameHeld_congr h asid)
  rw [State.freeFrame, State.freeFrame, hheld, hcount, hpool]

/-! A task started (R306). -/

/-- The general registers of a task that starts. -/
def TaskRec.payload (r : TaskRec) (i : Fin 32) : Val :=
  if 1 ≤ i.val ∧ i.val ≤ 6 then
    { bits := r.words[(i.val + 1) % 8]'(Nat.mod_lt _ (by decide)), mark := i.val == 1 && r.argMark }
  else { bits := 0 }

theorem taskRegs_g (r : TaskRec) (status : Word) (i : Fin 32) : (r.regs status).g[i] =
    if h : 1 ≤ i.val ∧ i.val ≤ 6 then { bits := r.words[i.val + 1]'(by omega), mark := decide (i.val = 1) && r.argMark }
    else { bits := 0 } := by
  have hg : (r.regs status).g = Vector.ofFn r.payload := rfl
  rw [hg, Fin.getElem_fin, Vector.getElem_ofFn, TaskRec.payload]
  dsimp only
  by_cases h : 1 ≤ i.val ∧ i.val ≤ 6
  · rw [if_pos h, dif_pos h]
    have hmod : (i.val + 1) % 8 = i.val + 1 := Nat.mod_eq_of_lt (by omega)
    simp only [hmod]
    rfl
  · rw [if_neg h, dif_neg h]

/-- The status word of a task that starts in a mode (R306, R378). -/
def statusWord (sys high : Bool) (mode : Nat) : Word :=
  BitVec.ofNat 64 ((if sys then 2 ^ 15 else 0) + (if high then 2 ^ 14 else 0) + (if mode = 1 then 2 ^ 10 else 0) +
    (if mode = 2 then 2 ^ 11 else 0))

theorem statusWord_bits (sys high : Bool) (mode : Nat) : (statusWord sys high mode).getLsbD 15 = sys ∧
    (statusWord sys high mode).getLsbD 14 = high ∧ wbits (statusWord sys high mode) 0 10 = 0 := by
  obtain ⟨m, hm, hlow⟩ : ∃ m, statusWord sys high mode = statusWord sys high m ∧ m < 3 := by
    by_cases h : mode < 3
    · exact ⟨mode, rfl, h⟩
    · refine ⟨0, ?_, by decide⟩
      rw [statusWord, statusWord, if_neg (by omega : ¬ mode = 1), if_neg (by omega : ¬ mode = 2)]
      rfl
  rw [hm]
  clear hm
  revert sys high m
  decide

theorem startStatus_bits (s : State) (r : TaskRec) (high : Bool) : (s.startStatus r high).getLsbD 15 = r.sys ∧
    (s.startStatus r high).getLsbD 14 = high ∧ wbits (s.startStatus r high) 0 10 = 0 := by
  obtain ⟨mode, h⟩ : ∃ mode, s.startStatus r high = statusWord r.sys high mode := ⟨_, rfl⟩
  rw [h]
  exact statusWord_bits r.sys high mode

theorem noteKey_shape (s : State) (id : Nat) (key : Word) : ∃ ls qs, s.noteKey id key = { s with launches := ls, queues := qs } := by
  rw [State.noteKey]
  split
  · exact ⟨_, _, rfl⟩
  · split
    · exact ⟨_, _, rfl⟩
    · split
      · exact ⟨_, _, rfl⟩
      · exact ⟨_, _, rfl⟩

theorem newContext_fresh (s : State) (r : TaskRec) (core : Nat) (p : Room) (id : BitVec 16) :
    (s.newContext r core p id).spoilL1 false = s.newContext r core p id := rfl

/-- What an acquire makes of a context. -/
def Context.acquired (core : Nat) (c : Context) : Context := if c.core == core then c.spoilL1 false else c

theorem acquired_eq (core : Nat) (c : Context) : ∃ d, c.acquired core = { c with dropL1 := d } := by
  rw [Context.acquired, Context.spoilL1]
  split
  · split
    · exact ⟨_, rfl⟩
    · exact ⟨c.dropL1, rfl⟩
  · exact ⟨c.dropL1, rfl⟩

/-- The state in which the task's core acquires. -/
def State.placed (s : State) (r : TaskRec) (core : Nat) (p : Room) (id : BitVec 16) : State :=
  let c := s.newContext r core p id
  { s.popFrame with
    nextSeq := s.nextSeq + 1
    ctxs := putCtx s.ctxs c
    scratch := s.scratch.clear c.sliceBase (4096 * c.foot)
    acc := p.tiles.foldl (fun m t => m.clear (core * 2 ^ 18 + t * 2 ^ 14) (2 ^ 14)) s.acc }

theorem startTask_eq (s : State) (r : TaskRec) (core : Nat) (p : Room) (id : BitVec 16) : s.startTask r core p id =
    (((s.placed r core p id).acquireL1 core).noteKey r.launch r.key, s.newContext r core p id) := rfl

/-- A core without the lines of its L1 that are not frozen. -/
def Core.acquired (k : Core) : Core := { k with l1 := k.l1.filter (fun x => x.frozen) }

theorem acquireL1_eq (s : State) (core : Nat) : s.acquireL1 core = (s.modCore core Core.acquired).mapCtxs (Context.acquired core) := rfl

theorem acquireL1_core (s : State) (core n : Nat) : ∃ l, (s.acquireL1 core).core n = { s.core n with l1 := l } := by
  rw [acquireL1_eq]
  have hmap : ((s.modCore core Core.acquired).mapCtxs (Context.acquired core)).core n = (s.modCore core Core.acquired).core n := rfl
  rw [hmap]
  by_cases hn : n = core
  · subst hn
    exact ⟨_, core_modCore_same s n (f := Core.acquired) fun _ => by rfl⟩
  · exact ⟨(s.core n).l1, State.core_setCore_other _ _ (by rw [Core.acquired, State.core_num]; exact fun he => hn he.symm)⟩

theorem acquireL1_ctx (s : State) (core : Nat) (k : Key) : (s.acquireL1 core).ctx? k = (s.ctx? k).map (Context.acquired core) := by
  have hkey (c : Context) : (c.acquired core).key = c.key := by
    obtain ⟨d, h⟩ := acquired_eq core c
    rw [h]
  rw [acquireL1_eq, ctx_mapCtxs hkey]
  rfl

/-- A task started: it is found, ready, and its slice is zero; other contexts stand as they did, and cores but for L1 lines. -/
structure Started (s : State) (r : TaskRec) (core : Nat) (p : Room) (id : BitVec 16) (t : State) : Prop where
  found : t.ctx? { asid := r.asid, ctxid := id } = some (s.newContext r core p id)
  others : ∀ k, k ≠ { asid := r.asid, ctxid := id } → t.ctx? k = (s.ctx? k).map (Context.acquired core)
  cores : ∀ n, ∃ l, t.core n = { s.core n with l1 := l }
  slice : ∀ o, o < 4096 * r.foot → t.scratch.cells.read ((s.newContext r core p id).sliceBase + o) = 0
  shape : t = { s with framePool := t.framePool, nextSeq := t.nextSeq, cur := t.cur, ctxs := t.ctxs, cores := t.cores
                       scratch := t.scratch, acc := t.acc, launches := t.launches, queues := t.queues }

theorem startTask_starts (h : s.ctx? { asid := r.asid, ctxid := id } = none) (core : Nat) (p : Room) :
    Started s r core p id (s.startTask r core p id).1 := by
  have hfree : ¬ (s.busy && s.cur.key == { asid := r.asid, ctxid := id }) = true := by
    intro hcur
    rw [State.ctx?, if_pos hcur] at h
    nomatch h
  obtain ⟨c, hc⟩ : ∃ c, c = s.newContext r core p id := ⟨_, rfl⟩
  have hkey : c.key = { asid := r.asid, ctxid := id } := by rw [hc]; rfl
  obtain ⟨ls, qs, hnote⟩ := noteKey_shape ((s.placed r core p id).acquireL1 core) r.launch r.key
  have hctx (k : Key) : (s.startTask r core p id).1.ctx? k = ((s.placed r core p id).ctx? k).map (Context.acquired core) := by
    rw [startTask_eq, hnote]
    exact acquireL1_ctx _ core k
  have hcores (n : Nat) : (s.startTask r core p id).1.core n = ((s.placed r core p id).acquireL1 core).core n := by
    rw [startTask_eq, hnote]
    rfl
  refine ⟨?_, fun k hk => ?_, fun n => ?_, fun o ho => ?_, ?_⟩
  · rw [hctx, ← hc]
    have hfound : (s.placed r core p id).ctx? { asid := r.asid, ctxid := id } = some c := by
      rw [← hkey, State.ctx?]
      have hbusy : ¬ ((s.placed r core p id).busy && (s.placed r core p id).cur.key == c.key) = true := by rw [hkey]; exact hfree
      rw [if_neg hbusy, hc]
      exact putCtx_find _ _
    rw [hfound, Option.map_some, Context.acquired, hc, newContext_fresh, ite_self]
  · rw [hctx]
    congr 1
    rw [State.ctx?, State.ctx?]
    have hfind : (putCtx s.ctxs c).find? (fun x => x.key == k) = s.ctxs.find? (fun x => x.key == k) :=
      putCtx_find_other (by rw [hkey]; exact fun he => hk he.symm) _
    have hctxs : (s.placed r core p id).ctxs = putCtx s.ctxs c := by rw [hc]; rfl
    rw [hctxs, hfind]
    rfl
  · rw [hcores]
    exact acquireL1_core (s.placed r core p id) core n
  · have hscratch : (s.startTask r core p id).1.scratch = s.scratch.clear (s.newContext r core p id).sliceBase (4096 * r.foot) := by
      rw [startTask_eq, hnote]
      rfl
    rw [hscratch, Mem.clear]
    dsimp only
    rw [read_clear_all, if_pos ⟨by omega, by omega⟩]
  · rw [startTask_eq, hnote]
    rfl

/-! A context put to run. -/

/-- The context as it runs. -/
def Context.asRunning (c : Context) : Context := { c with status := .running }

theorem run_eq (s : State) (c : Context) : s.run c = if s.turn = c.core && !s.busy then
    { s with cur := c.asRunning, busy := true, stalled := false, ctxs := s.ctxs.filter (fun x => x.key != c.key) }
  else s.setCtx c.asRunning := rfl

theorem run_found (s : State) (c : Context) : (s.run c).ctx? c.key = some c.asRunning := by
  rw [run_eq]
  split
  · rw [State.ctx?]
    dsimp only
    rw [if_pos]
    exact beq_self_eq_true (c.key : Key)
  · exact State.ctx_setCtx s c.asRunning

theorem run_others (s : State) (h : c.key ≠ k) : (s.run c).ctx? k = s.ctx? k := by
  have hne : ¬ (c.asRunning.key == k) = true := fun he => h (beq_iff_eq.1 he)
  rw [run_eq]
  split
  next hidle =>
    have hbusy : s.busy = false := by simpa using (Bool.and_eq_true_iff.1 hidle).2
    rw [State.ctx?, State.ctx?, hbusy]
    dsimp only
    rw [Bool.true_and, if_neg hne, Bool.false_and, if_neg Bool.false_ne_true, find_dropped h]
  · exact ctx_setCtx_other h

theorem run_shape (s : State) (c : Context) : ∃ cur busy stalled ctxs, s.run c = { s with cur := cur, busy := busy, stalled := stalled, ctxs := ctxs } := by
  rw [run_eq]
  split
  · exact ⟨_, _, _, _, rfl⟩
  · rw [State.setCtx]
    split
    · exact ⟨_, _, _, _, rfl⟩
    · exact ⟨_, _, _, _, rfl⟩

/-- A task started and put to run. -/
theorem Started.runs {core : Nat} {p : Room} (h : Started s r core p id t) :
    StartedAs (t.run (s.newContext r core p id)) r core p.slot id true := by
  obtain ⟨cur, busy, stalled, ctxs, hrun⟩ := run_shape t (s.newContext r core p id)
  have hscratch : (t.run (s.newContext r core p id)).scratch = t.scratch := by rw [hrun]
  obtain ⟨h15, h14, h0⟩ := startStatus_bits s r (p.slot == .h)
  refine ⟨(s.newContext r core p id).asRunning, run_found t _, rfl, rfl, rfl, rfl, rfl, rfl, rfl, rfl, rfl, rfl, taskRegs_g r _, h15, ?_, h0,
    fun _ => rfl, fun hrunning => (nomatch hrunning), fun o ho => ?_⟩
  · refine h14.trans ?_
    by_cases hslot : p.slot = .h
    · rw [hslot]
      rfl
    · rw [beq_false_of_ne hslot, decide_eq_false hslot]
  · rw [hscratch]
    exact h.slice o ho

theorem run_core (s : State) (c : Context) (n : Nat) : (s.run c).core n = s.core n := by
  obtain ⟨cur, busy, stalled, ctxs, h⟩ := run_shape s c
  rw [h]
  rfl

/-! Contexts taken to their frames (R312, R356). -/

theorem core_kept {α : Type} {f : Core → Core} {g : Core → α} (hnum : ∀ c, (f c).num = c.num) (hg : ∀ c, g (f c) = g c) (s : State)
    (m n : Nat) : g ((s.modCore m f).core n) = g (s.core n) := by
  by_cases hn : n = m
  · subst hn
    rw [core_modCore_same s n hnum, hg]
  · have hother : (s.modCore m f).core n = s.core n :=
      State.core_setCore_other _ _ (by rw [hnum, State.core_num]; exact fun he => hn he.symm)
    rw [hother]

/-- What a core gleans is kept. -/
def GleansKept (s t : State) : Prop := ∀ n, (t.core n).glean = (s.core n).glean

theorem gleansKept_chain : Chain GleansKept := ⟨fun _ _ => rfl, fun h h' n => (h' n).trans (h n)⟩

theorem gleansKept_of_cores (h : t.cores = s.cores) : GleansKept s t := fun n => congrArg Core.glean (core_congr h n)

theorem gleansKept_drainHeld (s : State) (core : Nat) (p : Held → Bool) : GleansKept s (s.drainHeld core p) := by
  rw [drainHeld_eq]
  split
  · exact gleansKept_chain.refl s
  · intro n
    rw [core_congr (sendHelds_cores core _ _) n]
    exact core_kept (f := Core.without p) (g := Core.glean) (fun _ => by rfl) (fun _ => by rfl) s core n

theorem find_mapped_num {f : Core → Core} (hf : ∀ c, (f c).num = c.num) (n : Nat) (l : List Core) :
    (l.map f).find? (fun c => c.num == n) = (l.find? (fun c => c.num == n)).map f := by
  rw [List.find?_map]
  congr 2
  funext c
  rw [Function.comp_apply, hf c]

theorem gleansKept_map {f : Core → Core} (hnum : ∀ c, (f c).num = c.num) (hglean : ∀ c, (f c).glean = c.glean)
    (h : t.cores = s.cores.map f) : GleansKept s t := by
  intro n
  rw [State.core, State.core, h, find_mapped_num hnum]
  cases s.cores.find? (fun c => c.num == n) with
  | none => rfl
  | some c => exact hglean c

/-- What makes room for a task keeps of the others: no context comes, and each core gleans as it did. -/
structure RoomMade (s t : State) : Prop where
  keys : ∀ k, s.ctx? k = none → t.ctx? k = none
  gleans : GleansKept s t

theorem roomMade_chain : Chain RoomMade :=
  ⟨fun s => ⟨fun _ h => h, gleansKept_chain.refl s⟩, fun h h' => ⟨fun k hk => h'.1 k (h.1 k hk), gleansKept_chain.trans h.2 h'.2⟩⟩

theorem putAside_other (h : c.key ≠ k) : (s.putAside c).ctx? k = s.ctx? k := by
  rw [State.putAside]
  split
  next hcur =>
    obtain ⟨hbusy, hkey⟩ := Bool.and_eq_true_iff.1 hcur
    exact ctx_leave_other hbusy (beq_iff_eq.1 hkey) h
  · exact ctx_setCtx_other h

theorem roomMade_pullCrew (s : State) (c : Context) (pre : Bool) : RoomMade s (s.pullCrew c pre) := by
  obtain ⟨cur, ctxs, hshape⟩ := pullCrew_eq s c pre
  refine ⟨fun k hk => ?_, gleansKept_of_cores (by rw [hshape])⟩
  rw [State.pullCrew]
  split
  · exact hk
  · rw [ctx_mapCtxs (fun x => by split <;> rfl), hk]
    rfl

theorem written_cores (s : State) (c : Context) : (s.written c).cores = (s.takeSparks c).1.cores := by
  have h1 := (writesIn_saveRegs (s.takeSparks c).1 c).1
  have h2 := (writesIn_saveTables ((s.takeSparks c).1.saveRegs c) c).1
  have h3 := (writesIn_slice (((s.takeSparks c).1.saveRegs c).saveTables c) c).1
  have h4 := (writesIn_saveSparks ((((s.takeSparks c).1.saveRegs c).saveTables c).saveSlice c) c (s.takeSparks c).2.length).1
  rw [State.written, State.frameWrites, h4, h3, h2, h1]

theorem gleansKept_takeSparks (s : State) (c : Context) : GleansKept s (s.takeSparks c).1 :=
  gleansKept_map (fun _ => by rfl) (fun _ => by rfl) rfl

theorem roomMade_saveCtx (s : State) (x : Key) : RoomMade s (s.saveCtx x) := by
  cases hc : s.ctx? x with
  | none =>
    rw [State.saveCtx, hc]
    exact roomMade_chain.refl s
  | some c =>
    by_cases hslot : c.slot.isSome = true
    · rw [saveCtx_eq hc hslot]
      obtain ⟨hbusy, hcur, hctxs, -⟩ := saved_sameButMem s c
      refine ⟨fun k hk => ?_, ?_⟩
      · rw [refreshSuspended_ctx]
        have hne : (c.framed (s.takeSparks c).2).key ≠ k := by
          have hkey : (c.framed (s.takeSparks c).2).key = x := (ctx_key hc : c.key = x)
          rw [hkey]
          rintro rfl
          rw [hc] at hk
          nomatch hk
        have hput : ((s.written c).putAside (c.framed (s.takeSparks c).2)).ctx? k = none :=
          (putAside_other hne).trans ((ctx_congr hcur hbusy hctxs k).trans hk)
        have hfreed := (freed_drainHeld ((s.written c).putAside (c.framed (s.takeSparks c).2)) c.core (Held.ofCtx x)).ctx k
        rw [hput] at hfreed
        cases hd : (((s.written c).putAside (c.framed (s.takeSparks c).2)).drainHeld c.core (Held.ofCtx x)).ctx? k with
        | none => rfl
        | some c' =>
          rw [hd] at hfreed
          nomatch hfreed
      · obtain ⟨qs, href⟩ := refreshSuspended_eq (s := ((s.written c).putAside (c.framed (s.takeSparks c).2)).drainHeld c.core (Held.ofCtx x))
        obtain ⟨cur, ctxs, busy, stalled, hput⟩ := putAside_eq (s.written c) (c.framed (s.takeSparks c).2)
        have hcores : ((s.written c).putAside (c.framed (s.takeSparks c).2)).cores = (s.takeSparks c).1.cores := by
          rw [hput]
          exact written_cores s c
        refine gleansKept_chain.trans (gleansKept_takeSparks s c) (gleansKept_chain.trans (gleansKept_of_cores hcores)
          (gleansKept_chain.trans (gleansKept_drainHeld _ _ _) (gleansKept_of_cores (by rw [href]))))
    · have hsaved : s.saveCtx x = s.saveRegs c := by
        rw [State.saveCtx, hc]
        dsimp only
        rw [if_pos (by simpa using hslot)]
      obtain ⟨hbusy, hcur, hctxs, -⟩ := (writesIn_saveRegs s c).sameButMem
      have hshape := (writesIn_saveRegs s c).1
      rw [hsaved]
      exact ⟨fun k hk => (ctx_congr hcur hbusy hctxs k).trans hk, gleansKept_of_cores (by rw [hshape])⟩

theorem roomMade_evict (s : State) (ks : List Key) : RoomMade s (s.evict ks) := by
  rw [State.evict]
  refine roomMade_chain.foldl (fun s k => ?_) ks s
  split
  · exact roomMade_chain.trans (roomMade_pullCrew s _ false) (roomMade_saveCtx _ k)
  · exact roomMade_chain.refl s

theorem makeFit_room {core foot tiles : Nat} {p : Room} (h : s.makeFit core foot tiles = some (t, p)) : RoomMade s t := by
  rw [State.makeFit] at h
  split at h
  · nomatch h
  · obtain ⟨q, -, hq⟩ := Option.map_eq_some_iff.1 h
    rw [← (Prod.mk.inj hq).1]
    exact roomMade_evict s q.1

end Sys2Proof.Machine
end

section
/-! PROOFS. O50: suspension and time slices (R314, R315). -/
namespace Sys2Proof.Machine
open Sys2Proof.Claims
variable {s t u : State} {c : Context} {k : Key} {r : TaskRec} {id : BitVec 16} {core : Nat}

/-! A context set aside (R314, R315). -/

/-- The context as it is set aside. -/
def Context.aside (st : Status) (c : Context) : Context := { c with status := st }

theorem setAside_eq (h : s.executing core = some c) (hunit : c.unit = none) (st : Status) : s.setAside core st =
    some { s.putAside (c.aside st) with nextSeq := s.nextSeq + 1 } := by
  rw [State.setAside, h]
  dsimp only
  rw [if_neg (by rw [hunit]; exact Bool.false_ne_true)]
  rfl

/-- A context set aside is found so; the others and what it does not hold stand as they did. -/
structure SetAside (s : State) (c : Context) (st : Status) (t : State) : Prop where
  found : t.ctx? c.key = some (c.aside st)
  others : ∀ k, k ≠ c.key → t.ctx? k = s.ctx? k
  shape : t = { s with cur := t.cur, ctxs := t.ctxs, busy := t.busy, stalled := t.stalled, nextSeq := t.nextSeq }

theorem putAside_sets (s : State) (c : Context) (st : Status) :
    SetAside s c st { s.putAside (c.aside st) with nextSeq := s.nextSeq + 1 } := by
  obtain ⟨cur, ctxs, busy, stalled, h⟩ := putAside_eq s (c.aside st)
  exact ⟨ctx_putAside s (c.aside st), fun k hk => putAside_other (fun he => hk he.symm), by rw [h]⟩

theorem timeSlice_moves (hrun : s.executing core = some c) (hH : c.inH = false) (hwork : s.workWaits core = true) :
    (c.unit = none → ∃ (t : State) (c' : Context), Leads (.timeSliceExpiry core) s t ∧ t.ctx? c.key = some c' ∧
      c'.status = .ready s.nextSeq ∧ c'.regs = c.regs ∧ c'.slot = c.slot ∧ t.mem = s.mem) ∧
    (c.unit.isSome = true → Leads (.timeSliceExpiry core) s s) := by
  have heq : timeSliceExpiry core s = (s.setAside core (.ready s.nextSeq)).getD s := by
    rw [timeSliceExpiry, hrun]
    dsimp only
    rw [hH, hwork, if_neg (by decide)]
  constructor
  · intro hunit
    have haside := putAside_sets s c (.ready s.nextSeq)
    refine ⟨_, _, congrArg Host.Outcome.next (heq.trans (by rw [setAside_eq hrun hunit, Option.getD_some])), haside.found, rfl, rfl, rfl, ?_⟩
    rw [haside.shape]
  · intro hunit
    refine congrArg Host.Outcome.next (heq.trans ?_)
    rw [State.setAside, hrun]
    dsimp only
    rw [if_pos hunit, Option.getD_none]

/-! A handler started in slot H (R314). -/

/-- A context of the list after one is put in its place is that one or was there. -/
theorem mem_putCtx_old {x : Context} : ∀ {l : List Context}, x ∈ putCtx l c → x = c ∨ x ∈ l
  | [], h => .inl (List.mem_singleton.1 h)
  | y :: l, h => by
    rw [putCtx] at h
    split at h
    · exact (List.mem_cons.1 h).imp id (List.mem_cons_of_mem _)
    · rcases List.mem_cons.1 h with rfl | h
      · exact .inr List.mem_cons_self
      · exact (mem_putCtx_old h).imp id (List.mem_cons_of_mem _)

theorem putAside_contexts {x : Context} (h : x ∈ (s.putAside c).allCtxs) : x = c ∨ x ∈ s.allCtxs := by
  rw [State.allCtxs, List.mem_append] at h ⊢
  rw [State.putAside] at h
  split at h
  · rcases h with h | h
    · nomatch h
    · exact (mem_putCtx_old h).imp id .inr
  · rw [State.setCtx] at h
    split at h
    next hcur =>
      rw [(Bool.and_eq_true_iff.1 hcur).1, if_pos rfl] at h
      rcases h with h | h
      · exact .inl (List.mem_singleton.1 h)
      · exact .inr (.inr h)
    · rcases h with h | h
      · exact .inr (.inl h)
      · exact (mem_putCtx_old h).imp id .inr

/-- A slot that no context holds is held by none after one of its contexts is set aside. -/
theorem inSlot_aside {sl : Slot} {st : Status} {n : Nat} (hc : c ∈ s.allCtxs) (h : s.inSlot core sl = none) :
    ({ s.putAside (c.aside st) with nextSeq := n } : State).inSlot core sl = none := by
  have hnone {u : State} : u.inSlot core sl = none ↔ ∀ x ∈ u.allCtxs, x.core = core → x.slot ≠ some sl := by
    rw [State.inSlot, List.find?_eq_none, State.residents]
    constructor
    · intro h x hx hcore hslot
      exact h x (List.mem_filter.2 ⟨hx, by rw [hcore, hslot]; simp⟩) (by rw [hslot]; exact beq_self_eq_true _)
    · intro h x hx hslot
      obtain ⟨hx, hp⟩ := List.mem_filter.1 hx
      exact h x hx (beq_iff_eq.1 (Bool.and_eq_true_iff.1 hp).1) (beq_iff_eq.1 hslot)
  rw [hnone] at h ⊢
  intro x hx
  have hx' : x ∈ (s.putAside (c.aside st)).allCtxs := hx
  rcases putAside_contexts hx' with rfl | hx'
  · exact h c hc
  · exact h x hx'

theorem highReady_ready (h : s.highReady core = some (r, id)) : s.canTake core = true ∧ s.inSlot core .h = none ∧
    (∃ rest, (s.core core).high = r :: rest) ∧ s.recordHeld r = false ∧ s.freeFrame r.asid = some id := by
  rw [State.highReady] at h
  split at h
  · nomatch h
  next hready =>
    rw [Bool.or_eq_true, not_or] at hready
    split at h
    · nomatch h
    next r' rest hhigh =>
      split at h
      · nomatch h
      next hheld =>
        obtain ⟨id', hid, hpair⟩ := Option.map_eq_some_iff.1 h
        obtain ⟨rfl, rfl⟩ := Prod.mk.inj hpair
        exact ⟨by simpa using hready.1, by simpa using hready.2, ⟨rest, hhigh⟩, by simpa using hheld, hid⟩

theorem highReady_of (hcan : s.canTake core = true) (hslot : s.inSlot core .h = none) {rest : List TaskRec} (hhigh : (s.core core).high = r :: rest)
    (hheld : s.recordHeld r = false) (hid : s.freeFrame r.asid = some id) : s.highReady core = some (r, id) := by
  rw [State.highReady, hcan, hslot, hhigh]
  dsimp only
  rw [hheld, hid, if_neg (by decide), if_neg Bool.false_ne_true, Option.map_some]

/-- A core without the head of its high inbox. -/
def Core.dropHigh (k : Core) : Core := { k with high := k.high.drop 1 }

/-- The state with the head of the high inbox taken. -/
def State.highTaken (s : State) (core : Nat) : State := (s.modCore core Core.dropHigh).inboxMoved core true

theorem startHigh_eq (h : s.highReady core = some (r, id)) : s.startHigh core =
    some (((s.highTaken core).startTask r core { slot := .h, base := 0, tiles := [] } id).1.run
      ((s.highTaken core).newContext r core { slot := .h, base := 0, tiles := [] } id)) := by
  rw [State.startHigh, h]
  rfl

theorem inboxMoved_wakes (s : State) (core : Nat) (high : Bool) : s.inboxMoved core high = s ∨ ∃ k, s.inboxMoved core high = s.wakeCtx k := by
  rw [State.inboxMoved]
  split
  · split
    · exact .inr ⟨_, rfl⟩
    · exact .inl rfl
  · exact .inl rfl

/-- Waking a context leaves one that is not parked, and brings none. -/
theorem wakeCtx_ctx (s : State) (k' k : Key) : (s.ctx? k = none → (s.wakeCtx k').ctx? k = none) ∧
    ∀ c, s.ctx? k = some c → c.parkedAt = none → (s.wakeCtx k').ctx? k = some c := by
  have hsame : (s.wakeCtx k').ctx? k = (s.modCtx k' fun c => c.wake s.nextSeq).ctx? k := rfl
  rw [hsame]
  by_cases hk : k' = k
  · subst hk
    constructor
    · intro hnone
      rw [State.modCtx, hnone]
      exact hnone
    · intro c hc hidle
      have hwake : c.wake s.nextSeq = c := by
        rw [Context.wake]
        split
        next hst =>
          rw [Context.parkedAt, hst] at hidle
          nomatch hidle
        · rfl
      exact (ctx_modCtx (f := fun c => c.wake s.nextSeq) hc (by rw [hwake])).trans (by rw [hwake])
  · have hother : (s.modCtx k' fun c => c.wake s.nextSeq).ctx? k = s.ctx? k :=
      ctx_modCtx_other (f := fun c => c.wake s.nextSeq) (fun c => (atPlace_wake s.nextSeq c).1) hk
    exact ⟨fun h => hother.trans h, fun c hc _ => hother.trans hc⟩

theorem highTaken_ctx (s : State) (core : Nat) (k : Key) : (s.ctx? k = none → (s.highTaken core).ctx? k = none) ∧
    ∀ c, s.ctx? k = some c → c.parkedAt = none → (s.highTaken core).ctx? k = some c := by
  obtain ⟨v, hv, hvs⟩ : ∃ v, v = s.modCore core Core.dropHigh ∧ ∀ k, v.ctx? k = s.ctx? k := ⟨_, rfl, fun _ => rfl⟩
  rw [State.highTaken, ← hv, ← hvs]
  rcases inboxMoved_wakes v core true with h | ⟨k', h⟩
  · rw [h]
    exact ⟨id, fun _ hc _ => hc⟩
  · rw [h]
    exact wakeCtx_ctx v k' k

theorem highTaken_core (s : State) (core : Nat) : ((s.highTaken core).core core).high = (s.core core).high.drop 1 := by
  obtain ⟨v, hv, hvs⟩ : ∃ v, v = s.modCore core Core.dropHigh ∧ v.core core = (s.core core).dropHigh :=
    ⟨_, rfl, core_modCore_same s core (f := Core.dropHigh) fun _ => by rfl⟩
  have hsame : (s.highTaken core).core core = v.core core := by
    rw [State.highTaken, ← hv]
    rcases inboxMoved_wakes v core true with h | ⟨k', h⟩
    · rw [h]
    · rw [h, inContexts_wakeCtx v k']
      rfl
  rw [hsame, hvs]
  rfl

/-- A record that can start in slot H runs there, with what ran before as it was. -/
theorem startHigh_starts (h : s.highReady core = some (r, id)) : ∃ t, s.startHigh core = some t ∧ StartedAs t r core .h id true ∧
    (t.core core).high = (s.core core).high.drop 1 ∧
    ∀ k c, s.ctx? k = some c → c.parkedAt = none → t.ctx? k = some (c.acquired core) := by
  obtain ⟨-, -, -, -, hid⟩ := highReady_ready h
  have hfresh : (s.highTaken core).ctx? { asid := r.asid, ctxid := id } = none := (highTaken_ctx s core _).1 (freeFrame_fresh hid)
  have hstarted := startTask_starts hfresh core { slot := .h, base := 0, tiles := [] }
  refine ⟨_, startHigh_eq h, hstarted.runs, ?_, fun k c hc hidle => ?_⟩
  · rw [run_core]
    obtain ⟨l, hl⟩ := hstarted.cores core
    rw [hl]
    exact highTaken_core s core
  · have hne : k ≠ { asid := r.asid, ctxid := id } := by
      rintro rfl
      rw [freeFrame_fresh hid] at hc
      nomatch hc
    rw [run_others _ (fun he => hne he.symm), hstarted.others k hne, (highTaken_ctx s core k).2 c hc hidle, Option.map_some]

theorem highPriorityStart_starts (h : s.highReady core = some (r, id)) (hrun : s.executing core = some c) (hc : s.ctx? c.key = some c)
    (hunit : c.unit = none) : ∃ (t : State) (c' : Context), Leads (.highPriorityStart core) s t ∧ StartedAs t r core .h id true ∧
      t.ctx? c.key = some c' ∧ c'.status = .suspended ∧ c'.regs = c.regs ∧ (t.core core).high = (s.core core).high.drop 1 := by
  obtain ⟨hcan, hslot, ⟨rest, hhigh⟩, hheld, hid⟩ := highReady_ready h
  have haside := putAside_sets s c .suspended
  have hset := setAside_eq hrun hunit .suspended
  have hempty := inSlot_aside (st := .suspended) (n := s.nextSeq + 1) (mem_of_ctx hc) hslot
  obtain ⟨u, hu⟩ : ∃ u : State, u = { s.putAside (c.aside .suspended) with nextSeq := s.nextSeq + 1 } := ⟨_, rfl⟩
  rw [← hu] at haside hset hempty
  have hcore : u.core core = s.core core := by
    rw [haside.shape]
    rfl
  have hkeys (k : Key) : s.ctx? k = none ↔ u.ctx? k = none := by
    by_cases hk : k = c.key
    · subst hk
      rw [hc, haside.found]
      exact ⟨fun he => (nomatch he), fun he => (nomatch he)⟩
    · rw [haside.others k hk]
  have hframe : u.freeFrame r.asid = some id := by
    rw [freeFrame_congr hkeys (fun a => by rw [haside.shape]; rfl) (by rw [haside.shape]), hid]
  have hready : u.highReady core = some (r, id) := by
    refine highReady_of (rest := rest) ?_ hempty (by rw [hcore, hhigh]) ?_ hframe
    · rw [haside.shape]
      exact hcan
    · rw [haside.shape]
      exact hheld
  obtain ⟨t, ht, hstarted, hqueue, hothers⟩ := startHigh_starts hready
  have hfound := hothers c.key _ haside.found rfl
  obtain ⟨d, hd⟩ := acquired_eq core (c.aside .suspended)
  refine ⟨t, _, congrArg Host.Outcome.next ?_, hstarted, hfound, by rw [hd]; rfl, by rw [hd]; rfl, by rw [hqueue, hcore]⟩
  rw [highPriorityStart, h, hset]
  dsimp only
  rw [ht, Option.isNone_some, if_neg Bool.false_ne_true, Option.getD_some]

end Sys2Proof.Machine
end

section
/-! PROOFS. O50: gleaning (R316, R317) and the arrival of records (R284, R308). -/
namespace Sys2Proof.Machine
open Sys2Proof.Claims
variable {s t u : State} {c : Context} {k : Key} {r : TaskRec} {id : BitVec 16} {core : Nat}

/-! Cores changed. -/

theorem core_modCore_other {f : Core → Core} (hf : ∀ c, (f c).num = c.num) (s : State) {m n : Nat} (h : n ≠ m) :
    (s.modCore m f).core n = s.core n :=
  State.core_setCore_other _ _ (by rw [hf, State.core_num]; exact fun he => h he.symm)

/-- A core with another gleaning. -/
def Core.gleaning (x : Glean) (k : Core) : Core := { k with glean := x }

/-- A core with a record at the bottom of its deque. -/
def Core.pushed (r : TaskRec) (k : Core) : Core := { k with deque := r :: k.deque }

/-- A core without the top record of its deque. -/
def Core.dropTop (k : Core) : Core := { k with deque := k.deque.dropLast }

theorem gleaning_core (s : State) (core : Nat) (x : Glean) : (s.modCore core (Core.gleaning x)).core core = (s.core core).gleaning x :=
  core_modCore_same s core (f := Core.gleaning x) fun _ => by rfl

theorem pushDeque_core (s : State) (core : Nat) (r : TaskRec) : (s.pushDeque core r).core core = (s.core core).pushed r :=
  core_modCore_same s core (f := Core.pushed r) fun _ => by rfl

/-! Gleaning. -/

theorem gleanPass_starts (hidle : s.executing core = none) (hcan : s.canTake core = true) (hglean : (s.core core).glean = .idle)
    (hnone : s.chooseWork core = none) : ∃ t : State, Leads (.gleanPass core) s t ∧
      (t.core core).glean = .probing ((victims core).filter (fun v => !(s.core v).out)) ∧ t.mem = s.mem := by
  refine ⟨s.modCore core (Core.gleaning (.probing ((victims core).filter (fun v => !(s.core v).out)))),
    congrArg Host.Outcome.next ?_, by rw [gleaning_core]; rfl, rfl⟩
  rw [gleanPass, hidle, hcan, hglean, hnone, if_neg (by decide)]
  rfl

theorem gleanProbe_probes {v : Nat} {rest : List Nat} (hne : core ≠ v) (hglean : (s.core core).glean = .probing (v :: rest)) :
    (s.canTake core = false → ∃ t : State, Leads (.gleanProbe core) s t ∧ (t.core core).glean = .idle) ∧
    (s.canTake core = true → (s.core v).deque = [] →
      ∃ t : State, Leads (.gleanProbe core) s t ∧ (t.core core).glean = .probing rest) ∧
    (∀ r, s.canTake core = true → s.apart (dieOf core) (dieOf v) = false → (s.core v).deque.getLast? = some r →
      s.couldFit core r.foot r.tiles = true → s.launchSuspended r.launch = false → s.coreLost v = false →
      ∃ t : State, Leads (.gleanProbe core) s t ∧ (t.core core).glean = .carrying r ∧
        (t.core v).deque = (s.core v).deque.dropLast) := by
  have hprobe : gleanProbe core s =
      if !s.canTake core then s.modCore core (Core.gleaning .idle)
      else match (s.core v).deque.getLast? with
      | none => s.modCore core (Core.gleaning (.probing rest))
      | some r =>
        if s.couldFit core r.foot r.tiles && !s.launchSuspended r.launch && !s.coreLost v && !s.apart (dieOf core) (dieOf v) then
          (s.modCore v Core.dropTop).modCore core (Core.gleaning (.carrying r))
        else s.modCore core (Core.gleaning (.probing rest)) := by
    rw [gleanProbe, hglean]
    rfl
  refine ⟨fun hno => ⟨_, congrArg Host.Outcome.next (hprobe.trans (if_pos (by rw [hno]; rfl))), by rw [gleaning_core]; rfl⟩,
    fun hcan hempty => ⟨s.modCore core (Core.gleaning (.probing rest)), congrArg Host.Outcome.next ?_, by rw [gleaning_core]; rfl⟩,
    fun r hcan hjoined hlast hfit hlive hup =>
      ⟨(s.modCore v Core.dropTop).modCore core (Core.gleaning (.carrying r)), congrArg Host.Outcome.next ?_, by rw [gleaning_core]; rfl, ?_⟩⟩
  · rw [hprobe, hcan, if_neg (by decide), hempty, List.getLast?_nil]
  · rw [hprobe, hcan, if_neg (by decide), hlast]
    dsimp only
    rw [hfit, hlive, hup, hjoined, if_pos (by rfl)]
  · rw [core_modCore_other (f := Core.gleaning (.carrying r)) (fun _ => by rfl) _ (fun he => hne he.symm),
      core_modCore_same s v (f := Core.dropTop) fun _ => by rfl]
    rfl

theorem dispatch_starts {s1 : State} {p : Room} (hheld : s.recordHeld r = false) (hid : s.freeFrame r.asid = some id)
    (hfit : s.makeFit core r.foot r.tiles = some (s1, p)) :
    s.dispatch core r = some ((s1.startTask r core p id).1.run (s1.newContext r core p id)) ∧
      Started s1 r core p id (s1.startTask r core p id).1 := by
  refine ⟨?_, startTask_starts ((makeFit_room hfit).keys _ (freeFrame_fresh hid)) core p⟩
  rw [State.dispatch, hheld, hid, hfit, if_neg Bool.false_ne_true]
  rfl

theorem gleanedRecord_waits (hglean : (s.core core).glean = .carrying r) (hrun : s.executing core = some c) :
    ∃ t : State, Leads (.gleanedRecordArrival core) s t ∧ (t.core core).glean = .idle ∧
      (t.core core).deque = r :: (s.core core).deque := by
  refine ⟨(s.modCore core (Core.gleaning .idle)).pushDeque core r, congrArg Host.Outcome.next ?_, ?_, ?_⟩
  · obtain ⟨u, hu, hbusy⟩ : ∃ u, u = s.modCore core (Core.gleaning .idle) ∧ u.executing core = some c := ⟨_, rfl, hrun⟩
    have harrival : gleanedRecordArrival core s =
        match (if (u.executing core).isNone && u.canTake core then u.dispatch core r else none) with
        | some s2 => s2
        | none => u.pushDeque core r := by
      rw [gleanedRecordArrival, hglean, hu]
      rfl
    rw [harrival, hbusy, ← hu]
    rfl
  · rw [pushDeque_core, gleaning_core]
    rfl
  · rw [pushDeque_core, gleaning_core]
    rfl

theorem canTake_of_core (hout : (t.core core).out = (s.core core).out) (hdrained : (t.core core).drained = (s.core core).drained)
    (hstopped : t.stoppedDies = s.stoppedDies) : t.canTake core = s.canTake core := by
  rw [State.canTake, State.canTake, hout, hdrained, State.coreLost, State.coreLost, hstopped]

theorem gleanedRecord_starts {s1 : State} {p : Room} (hglean : (s.core core).glean = .carrying r) (hidle : s.executing core = none)
    (hcan : s.canTake core = true) (hheld : s.recordHeld r = false) (hid : s.freeFrame r.asid = some id)
    (hfit : (s.modCore core (Core.gleaning .idle)).makeFit core r.foot r.tiles = some (s1, p)) :
    ∃ t : State, Leads (.gleanedRecordArrival core) s t ∧ (t.core core).glean = .idle ∧ StartedAs t r core p.slot id true := by
  obtain ⟨u, hu, hidle1, hheld1, hid1, hcore⟩ : ∃ u, u = s.modCore core (Core.gleaning .idle) ∧ u.executing core = none ∧
      u.recordHeld r = false ∧ u.freeFrame r.asid = some id ∧ u.core core = (s.core core).gleaning .idle :=
    ⟨_, rfl, hidle, hheld, hid, gleaning_core s core .idle⟩
  have hstopped : u.stoppedDies = s.stoppedDies := by rw [hu]; rfl
  have hcan1 : u.canTake core = true :=
    (canTake_of_core (by rw [hcore]; rfl) (by rw [hcore]; rfl) hstopped).trans hcan
  rw [← hu] at hfit
  obtain ⟨hdispatch, hstarted⟩ := dispatch_starts hheld1 hid1 hfit
  have harrival : gleanedRecordArrival core s =
      match (if (u.executing core).isNone && u.canTake core then u.dispatch core r else none) with
      | some s2 => s2
      | none => u.pushDeque core r := by
    rw [gleanedRecordArrival, hglean, hu]
    rfl
  refine ⟨_, congrArg Host.Outcome.next ?_, ?_, hstarted.runs⟩
  · rw [harrival, hidle1, hcan1, if_pos (by rfl), hdispatch]
  · rw [run_core]
    obtain ⟨l, hl⟩ := hstarted.cores core
    have hkept : (s1.core core).glean = .idle := ((makeFit_room hfit).gleans core).trans (by rw [hcore]; rfl)
    rw [hl]
    exact hkept

/-! Arrivals. -/

theorem dequeRecord_arrives {i : Nat} {x : Transit} (hx : s.transit[i]? = some x) (hkind : x.kind = 0) :
    ∃ t : State, Leads (.dequeRecordArrival i) s t ∧ t.transit = s.transit.filter (fun y => y.id != x.id) ∧
      (t.core x.core).deque = x.r :: (s.core x.core).deque := by
  refine ⟨(s.dropTransit x.id).pushDeque x.core x.r, congrArg Host.Outcome.next ?_, rfl, ?_⟩
  · rw [dequeRecordArrival, hx]
    dsimp only
    rw [hkind, if_pos (by rfl)]
  · rw [pushDeque_core]
    rfl

theorem inboxRecord_arrives {i : Nat} {x : Transit} (hx : s.transit[i]? = some x) (hkind : x.kind = 1 ∨ x.kind = 2)
    (hcore : s.redirect x.core = some core) :
    (s.inboxRoom core (decide (x.kind = 2)) = true → ∃ t : State, Leads (.inboxRecordArrival i) s t ∧
      t.transit = s.transit.filter (fun y => y.id != x.id) ∧
      (x.kind = 1 → (t.core core).inbox = (s.core core).inbox ++ [x.r] ∧ (t.core core).high = (s.core core).high) ∧
      (x.kind = 2 → (t.core core).high = (s.core core).high ++ [x.r] ∧ (t.core core).inbox = (s.core core).inbox)) ∧
    (s.inboxRoom core (decide (x.kind = 2)) = false → Leads (.inboxRecordArrival i) s s) := by
  have hplain : ¬ (decide (x.kind = 0) || decide (x.kind = 3)) = true := by
    rw [decide_eq_false (by omega : ¬ x.kind = 0), decide_eq_false (by omega : ¬ x.kind = 3)]
    exact Bool.false_ne_true
  have harrival : inboxRecordArrival i s = if s.inboxRoom core (decide (x.kind = 2)) then
      (s.dropTransit x.id).putInbox core (decide (x.kind = 2)) x.r else s := by
    rw [inboxRecordArrival, hx]
    dsimp only
    rw [if_neg hplain, hcore]
  refine ⟨fun hroom => ⟨_, congrArg Host.Outcome.next (harrival.trans (if_pos hroom)), rfl, ?_, ?_⟩,
    fun hfull => congrArg Host.Outcome.next (harrival.trans (if_neg (by rw [hfull]; exact Bool.false_ne_true)))⟩
  all_goals
    intro hk
    obtain ⟨hinbox, hhigh, -⟩ := putInbox_core core (decide (x.kind = 2)) x.r (s.dropTransit x.id)
    rw [hinbox, hhigh, hk]
  · exact ⟨rfl, List.append_nil _⟩
  · exact ⟨rfl, List.append_nil _⟩

end Sys2Proof.Machine
end

section
/-! PROOFS. O50: a fault taken at a context that need not be the current one, and what follows: handlers that overrun (R314)
and crews in deadlock (R326). -/
namespace Sys2Proof.Machine
open Sys2Proof.Claims
variable {s t u : State} {c : Context} {k : Key} {f : FaultInfo} {core : Nat}

/-! The current context changed. -/

/-- The same contexts are found. -/
def SameFound (s t : State) : Prop := ∀ k, t.ctx? k = s.ctx? k

theorem sameFound_chain : Chain SameFound := ⟨fun _ _ => rfl, fun h h' k => (h' k).trans (h k)⟩

theorem sameFound_unload (s : State) : SameFound s s.unload := by
  intro k
  rw [State.unload]
  split
  next hbusy =>
    rw [State.ctx?, State.ctx?, hbusy]
    dsimp only
    rw [Bool.false_and, if_neg Bool.false_ne_true, Bool.true_and]
    by_cases hk : s.cur.key = k
    · subst hk
      rw [if_pos (beq_self_eq_true _)]
      exact putCtx_find s.cur s.ctxs
    · rw [if_neg (fun he => hk (beq_iff_eq.1 he)), putCtx_find_other hk]
  · rfl

theorem unload_idle (s : State) : s.unload.busy = false := by
  rw [State.unload]
  split
  · rfl
  next h => exact Bool.not_eq_true _ ▸ h

theorem sameFound_load (h : s.busy = false) (x : Key) : SameFound s (s.load x) := by
  intro k
  rw [State.load]
  split
  next c hc =>
    have hkey : c.key = x := by simpa using List.find?_some hc
    rw [State.ctx?, State.ctx?, h]
    dsimp only
    rw [Bool.false_and, if_neg Bool.false_ne_true, Bool.true_and, hkey]
    by_cases hk : x = k
    · subst hk
      rw [if_pos (beq_self_eq_true _), hc]
    · rw [if_neg (fun he => hk (beq_iff_eq.1 he)), find_dropped hk]
  · rfl

theorem load_loads (h : s.busy = false) (hc : s.ctx? k = some c) : (s.load k).busy = true ∧ (s.load k).cur = c := by
  rw [State.ctx?, h, Bool.false_and, if_neg Bool.false_ne_true] at hc
  rw [State.load, hc]
  exact ⟨rfl, rfl⟩

/-- Only which context is the current one differs. -/
def CurrentOnly (s t : State) : Prop := t = { s with cur := t.cur, busy := t.busy, ctxs := t.ctxs, stalled := t.stalled }

theorem currentOnly_chain : Chain CurrentOnly := ⟨fun _ => rfl, fun h h' => h'.trans (by rw [h])⟩

theorem currentOnly_unload (s : State) : CurrentOnly s s.unload := by
  rw [State.unload]
  split <;> exact rfl

theorem currentOnly_load (s : State) (x : Key) : CurrentOnly s (s.load x) := by
  rw [State.load]
  split <;> exact rfl

/-! A fault taken at a context. -/

theorem recordsFull_congr (h : t.records = s.records) (k : Key) (f : FaultInfo) : t.recordsFull k f = s.recordsFull k f := by
  rw [State.recordsFull, State.recordsFull, State.attachTo, State.attachTo, h]

/-- A context's fault is taken between a change of the current context and the change back. -/
theorem faultAt_between (hc : s.ctx? k = some c) : ∃ u, SameFound s u ∧ CurrentOnly s u ∧ u.busy = true ∧ u.cur = c ∧
    SameFound (takeFault f u) (s.faultAt k f) ∧ CurrentOnly (takeFault f u) (s.faultAt k f) := by
  by_cases hcur : (s.busy && s.cur.key == k) = true
  · have hfault : s.faultAt k f = takeFault f s := by rw [State.faultAt, if_pos hcur]
    rw [State.ctx?, if_pos hcur] at hc
    rw [hfault]
    exact ⟨s, sameFound_chain.refl s, currentOnly_chain.refl s, (Bool.and_eq_true_iff.1 hcur).1, Option.some.inj hc,
      sameFound_chain.refl _, currentOnly_chain.refl _⟩
  · have hidle := unload_idle s
    have hc1 : s.unload.ctx? k = some c := (sameFound_unload s k).trans hc
    obtain ⟨hbusy, hcurrent⟩ := load_loads hidle hc1
    refine ⟨s.unload.load k, sameFound_chain.trans (sameFound_unload s) (sameFound_load hidle k),
      currentOnly_chain.trans (currentOnly_unload s) (currentOnly_load _ k), hbusy, hcurrent, ?_⟩
    obtain ⟨v, hv⟩ : ∃ v, v = takeFault f (s.unload.load k) := ⟨_, rfl⟩
    obtain ⟨w, hw, hsame, hidle', honly⟩ : ∃ w, w = { v.unload with stalled := s.stalled } ∧ SameFound v w ∧ w.busy = false ∧
        CurrentOnly v w :=
      ⟨{ v.unload with stalled := s.stalled }, rfl, fun k => sameFound_unload v k, unload_idle v,
        currentOnly_chain.trans (currentOnly_unload v) (rfl : CurrentOnly v.unload { v.unload with stalled := s.stalled })⟩
    have hfault : s.faultAt k f = if s.busy then w.load s.cur.key else w := by
      rw [State.faultAt, if_neg hcur, hw, hv]
      dsimp only
      rw [hbusy, if_neg (by decide)]
    rw [hfault, ← hv]
    split
    · exact ⟨sameFound_chain.trans hsame (sameFound_load hidle' _), currentOnly_chain.trans honly (currentOnly_load w _)⟩
    · exact ⟨hsame, honly⟩

/-- A context's fault that waits for a record leaves every context as it is. -/
theorem faultAt_waits (hc : s.ctx? k = some c) (h : s.recordsFull k f = true) :
    SameFound s (s.faultAt k f) ∧ CurrentOnly s (s.faultAt k f) := by
  obtain ⟨u, hsame, honly, -, hcur, hsame', honly'⟩ := faultAt_between (f := f) hc
  have hrecords : u.records = s.records := by rw [honly]
  have hfull : u.recordsFull u.cur.key f = true := by rw [hcur, ctx_key hc, recordsFull_congr hrecords, h]
  have hwaits : takeFault f u = { u with stalled := true } := takeFaultAt_waits hfull
  rw [hwaits] at hsame' honly'
  exact ⟨sameFound_chain.trans hsame (fun k => hsame' k),
    currentOnly_chain.trans honly (currentOnly_chain.trans (rfl : CurrentOnly u { u with stalled := true }) honly')⟩

/-- A context stopped by a fault that is of no page: its record is opened, and the others and memory stand as they did. -/
structure FaultedAt (s : State) (c : Context) (f : FaultInfo) (t : State) : Prop where
  found : ∃ n c', t.ctx? c.key = some c' ∧ (c.faulted c.regs.pc f n).Freed c'
  others : ∀ k, k ≠ c.key → ∀ x, s.ctx? k = some x → ∃ x', t.ctx? k = some x' ∧ x.Freed x'
  mem : t.mem = s.mem
  records : ∃ r, t.records = s.records ++ [r] ∧ r.asid = c.key.asid ∧ r.ctxid = c.key.ctxid

theorem leave_found_other (h : c.key ≠ k) (hbusy : s.busy = true) (hcur : s.cur.key = c.key) {x : Context} (hx : s.ctx? k = some x) :
    (s.leave c).ctx? k = some x := (ctx_leave_other hbusy hcur h).trans hx

theorem takeFault_faults (hbusy : s.busy = true) (hsize : f.size = 0) (h : s.recordsFull s.cur.key f = false) :
    FaultedAt s s.cur f (takeFault f s) := by
  have hnone : s.attachTo s.cur.key.asid f = none := by rw [State.attachTo, if_pos hsize]
  obtain ⟨-, -, -, -, hmem, hrecords, c', hc', hf⟩ := takeFaultAt_stops (pc := s.cur.regs.pc) h
  have hopen := openRecord_opens (pc := s.cur.regs.pc) hnone
  have hopened := recordsOnly_openRecord s s.cur.key s.cur.regs.pc f
  refine ⟨⟨_, c', hc', hf⟩, fun k hk x hx => ?_, hmem.trans (by rw [hopen]; rfl), ?_⟩
  · obtain ⟨cs, hput⟩ := putBack_eq (s.openRecord s.cur.key s.cur.regs.pc f).1 s.cur.taken
    obtain ⟨v, hv⟩ : ∃ v, v = (s.openRecord s.cur.key s.cur.regs.pc f).1.putBack s.cur.taken := ⟨_, rfl⟩
    rw [← hv] at hput
    have hvbusy : v.busy = true := by rw [hput, hopened, hbusy]
    have hvkey : v.cur.key = s.cur.key := by rw [hput, hopened]
    have hvx : v.ctx? k = some x := by
      rw [hput, hopened]
      exact hx
    have hleft := leave_found_other (s := v) (c := s.cur.faulted s.cur.regs.pc f (s.openRecord s.cur.key s.cur.regs.pc f).2)
      (fun he => hk he.symm) hvbusy hvkey hvx
    have htaken : takeFault f s = (v.leave (s.cur.faulted s.cur.regs.pc f (s.openRecord s.cur.key s.cur.regs.pc f).2)).drainHeld s.cur.core
        (Held.ofCtx s.cur.key) := by
      rw [takeFault, takeFaultAt_eq, h, if_neg Bool.false_ne_true, hv]
    rw [htaken]
    exact (freed_drainHeld _ _ _).found hleft
  · refine ⟨_, hrecords.trans (by rw [hopen, postRecord_records]), rfl, rfl⟩

theorem faultAt_faults (hc : s.ctx? k = some c) (hsize : f.size = 0) (h : s.recordsFull k f = false) : FaultedAt s c f (s.faultAt k f) := by
  obtain ⟨u, hsame, honly, hbusy, hcur, hsame', honly'⟩ := faultAt_between (f := f) hc
  have hrecords : u.records = s.records := by rw [honly]
  have hmem : u.mem = s.mem := by rw [honly]
  have hfull : u.recordsFull u.cur.key f = false := by rw [hcur, ctx_key hc, recordsFull_congr hrecords, h]
  obtain ⟨⟨n, c', hc', hf⟩, hothers, hmem1, r, hr, hasid, hctxid⟩ := takeFault_faults hbusy hsize hfull
  rw [hcur] at hc' hf hothers hasid hctxid
  refine ⟨⟨n, c', (hsame' _).trans hc', hf⟩, fun k' hk x hx => ?_, ?_, r, ?_, hasid, hctxid⟩
  · obtain ⟨x', hx', hfx⟩ := hothers k' hk x ((hsame k').trans hx)
    exact ⟨x', (hsame' k').trans hx', hfx⟩
  · exact Eq.trans (by rw [honly']) (hmem1.trans hmem)
  · exact Eq.trans (by rw [honly']) (hr.trans (by rw [hrecords]))

/-! A handler that overruns (R314). -/

theorem handlerOverrun_faults (hslot : s.inSlot core .h = some c) (hc : s.ctx? c.key = some c) (hrun : c.status ≠ .stopped)
    (hfull : s.recordsFull c.key { code := .handlerOverrun } = false) (hend : s.atEnd c = false) :
    ∃ (t : State) (c' : Context), Leads (.handlerOverrun core) s t ∧ t.ctx? c.key = some c' ∧ c'.status = .stopped ∧
      wbits c'.faultCode 0 8 = 0x08 ∧ c'.faultPc = c.regs.pc.setWidth 64 ∧ c'.regs = c.unitStart ∧ t.mem = s.mem := by
  obtain ⟨⟨n, c', hc', g, -, -, rfl⟩, -, hmem, -⟩ := faultAt_faults (f := { code := .handlerOverrun }) hc rfl hfull
  refine ⟨_, _, congrArg Host.Outcome.next ?_, hc', rfl, (word_code { code := .handlerOverrun }).1, rfl, rfl, hmem⟩
  rw [handlerOverrun, hslot]
  dsimp only
  rw [hend, beq_false_of_ne hrun, if_neg (by decide)]

theorem handlerOverrun_ends (hslot : s.inSlot core .h = some c) (hend : s.atEnd c = true) : Leads (.handlerOverrun core) s s := by
  refine congrArg Host.Outcome.next ?_
  rw [handlerOverrun, hslot]
  dsimp only
  rw [hend, Bool.or_true, if_pos rfl]

/-! Crews in deadlock (R326). -/

theorem channelStuck_iff (s : State) (c : Context) : s.channelStuck c = true ↔ StuckOnChannel s c := by
  rw [State.channelStuck, StuckOnChannel]
  constructor
  · intro h
    split at h
    next id n hst =>
      obtain ⟨ch, hch, hstuck⟩ := Option.any_eq_true _ _ |>.1 h
      have hid : ch.id = id := by simpa using List.find?_some hch
      refine ⟨ch, n, by rw [hst, hid], by rw [hid]; exact hch, ?_⟩
      simpa using hstuck
    · nomatch h
  · rintro ⟨ch, n, hst, hch, hstuck⟩
    rw [hst]
    dsimp only
    rw [hch]
    simpa using hstuck

/-- A context stopped with a code. -/
def StoppedWith (code : Nat) (c : Context) : Prop := c.status = .stopped ∧ wbits c.faultCode 0 8 = code

theorem Context.Freed.stoppedWith {code : Nat} {c' : Context} (h : c.Freed c') (hs : StoppedWith code c) : StoppedWith code c' := by
  obtain ⟨g, -, -, rfl⟩ := h
  exact hs

/-- The contexts that a fault may still be taken at: found, and stopped so already, or with room for its record. -/
def MayFault (f : FaultInfo) (s : State) (k : Key) : Prop :=
  ∃ c, s.ctx? k = some c ∧ (StoppedWith f.code.num c ∨ s.recordsFull k f = false)

/-- The context of the key is stopped so. -/
def IsStopped (f : FaultInfo) (s : State) (k : Key) : Prop := ∃ c, s.ctx? k = some c ∧ StoppedWith f.code.num c

theorem recordsFull_other {r : FaultRec} (hr : t.records = s.records ++ [r]) (hsize : f.size = 0) (hk : ¬ (r.asid = k.asid ∧ r.ctxid = k.ctxid)) :
    t.recordsFull k f = s.recordsFull k f := by
  have hmine : (r.live && r.asid == k.asid && r.ctxid == k.ctxid) = false := by
    rw [Bool.and_assoc, Bool.and_eq_false_iff]
    right
    rw [Bool.and_eq_false_iff]
    by_cases hasid : r.asid = k.asid
    · exact .inr (beq_false_of_ne fun he => hk ⟨hasid, he⟩)
    · exact .inl (beq_false_of_ne hasid)
  rw [State.recordsFull, State.recordsFull, State.attachTo, State.attachTo, if_pos hsize, if_pos hsize, hr, List.filter_append,
    List.filter_cons, hmine, if_neg Bool.false_ne_true, List.filter_nil, List.append_nil]

/-- A fault at one context: it is stopped, those stopped so stay, and the others may still take theirs. -/
theorem faultAt_step (hsize : f.size = 0) (h : MayFault f s k) : IsStopped f (s.faultAt k f) k ∧ (s.faultAt k f).mem = s.mem ∧
    (∀ k', IsStopped f s k' → IsStopped f (s.faultAt k f) k') ∧ ∀ k', MayFault f s k' → MayFault f (s.faultAt k f) k' := by
  obtain ⟨c, hc, hor⟩ := h
  by_cases hfull : s.recordsFull k f = true
  · obtain ⟨hsame, honly⟩ := faultAt_waits hc hfull
    have hstopped : StoppedWith f.code.num c := hor.resolve_right (by rw [hfull]; decide)
    have hrecords : (s.faultAt k f).records = s.records := by rw [honly]
    refine ⟨⟨c, (hsame k).trans hc, hstopped⟩, by rw [honly], fun k' ⟨x, hx, hs⟩ => ⟨x, (hsame k').trans hx, hs⟩,
      fun k' ⟨x, hx, hs⟩ => ⟨x, (hsame k').trans hx, by rwa [recordsFull_congr hrecords]⟩⟩
  · rw [Bool.not_eq_true] at hfull
    obtain ⟨⟨n, c', hc', hf⟩, hothers, hmem, r, hr, hasid, hctxid⟩ := faultAt_faults hc hsize hfull
    have hkey := ctx_key hc
    have hnow : StoppedWith f.code.num c' := hf.stoppedWith ⟨rfl, (word_code f).1⟩
    rw [hkey] at hc'
    refine ⟨⟨c', hc', hnow⟩, hmem, fun k' ⟨x, hx, hs⟩ => ?_, fun k' ⟨x, hx, hs⟩ => ?_⟩
    · by_cases hk : k' = k
      · exact ⟨c', hk ▸ hc', hnow⟩
      · obtain ⟨x', hx', hfx⟩ := hothers k' (by rw [hkey]; exact hk) x hx
        exact ⟨x', hx', hfx.stoppedWith hs⟩
    · by_cases hk : k' = k
      · exact ⟨c', hk ▸ hc', .inl hnow⟩
      · obtain ⟨x', hx', hfx⟩ := hothers k' (by rw [hkey]; exact hk) x hx
        refine ⟨x', hx', hs.imp hfx.stoppedWith fun hroom => ?_⟩
        rw [recordsFull_other hr hsize, hroom]
        rintro ⟨h1, h2⟩
        rw [hkey] at hasid hctxid
        obtain ⟨a', i'⟩ := k'
        obtain ⟨a, i⟩ := k
        exact hk (by rw [Key.mk.injEq]; exact ⟨h1.symm.trans hasid, h2.symm.trans hctxid⟩)

theorem faultAll_stops (hsize : f.size = 0) (cs : List Context) (h : ∀ c ∈ cs, MayFault f s c.key) :
    (cs.foldl (fun s c => s.faultAt c.key f) s).mem = s.mem ∧
    ∀ k, (IsStopped f s k ∨ ∃ c ∈ cs, c.key = k) → IsStopped f (cs.foldl (fun s c => s.faultAt c.key f) s) k := by
  induction cs generalizing s with
  | nil => exact ⟨rfl, fun k hk => hk.elim id fun ⟨_, hm, _⟩ => (nomatch hm)⟩
  | cons c cs ih =>
    obtain ⟨hnow, hmem, hkept, hmay⟩ := faultAt_step hsize (h c List.mem_cons_self)
    obtain ⟨hmem', hall⟩ := ih fun x hx => hmay _ (h x (List.mem_cons_of_mem _ hx))
    rw [List.foldl_cons]
    refine ⟨hmem'.trans hmem, fun k hk => hall k ?_⟩
    rcases hk with hk | ⟨x, hx, hxk⟩
    · exact .inl (hkept k hk)
    · rcases List.mem_cons.1 hx with rfl | hx
      · exact .inl (hxk ▸ hnow)
      · exact .inr ⟨x, hx, hxk⟩

theorem crewDeadlock_stops {crew : Nat} {w : Crew} (hw : s.crews.find? (fun x => x.id == crew) = some w)
    (hsome : w.keys.filterMap s.ctx? ≠ [])
    (h : ∀ c ∈ w.keys.filterMap s.ctx?, StuckOnChannel s c ∧ s.recordsFull c.key { code := .crewDeadlock } = false) :
    ∃ t : State, Leads (.crewDeadlock crew) s t ∧ t.mem = s.mem ∧
      ∀ k ∈ w.keys, ∀ c, s.ctx? k = some c → ∃ c' : Context, t.ctx? k = some c' ∧ c'.status = .stopped ∧
        wbits c'.faultCode 0 8 = 0x43 := by
  have hmay (c : Context) (hc : c ∈ w.keys.filterMap s.ctx?) : MayFault { code := .crewDeadlock } s c.key := by
    obtain ⟨k, -, hk⟩ := List.mem_filterMap.1 hc
    exact ⟨c, by rw [ctx_key hk]; exact hk, .inr (h c hc).2⟩
  obtain ⟨hmem, hstopped⟩ := faultAll_stops (f := { code := .crewDeadlock }) rfl _ hmay
  refine ⟨_, congrArg Host.Outcome.next ?_, hmem, fun k hk c hc =>
    hstopped k (.inr ⟨c, List.mem_filterMap.2 ⟨k, hk, hc⟩, ctx_key hc⟩)⟩
  have hall : (w.keys.filterMap s.ctx?).all s.channelStuck = true := List.all_eq_true.2 fun c hc => (channelStuck_iff s c).2 (h c hc).1
  rw [crewDeadlock, hw]
  dsimp only
  rw [hall, Bool.and_true, if_pos]
  rw [Bool.not_eq_true', List.isEmpty_eq_false_iff]
  exact hsome

theorem crewDeadlock_none {crew : Nat} {w : Crew} (hw : s.crews.find? (fun x => x.id == crew) = some w)
    (h : ∃ c ∈ w.keys.filterMap s.ctx?, ¬ StuckOnChannel s c) : Leads (.crewDeadlock crew) s s := by
  obtain ⟨c, hc, hfree⟩ := h
  refine congrArg Host.Outcome.next ?_
  rw [crewDeadlock, hw]
  dsimp only
  rw [if_neg]
  rw [Bool.and_eq_true, List.all_eq_true]
  exact fun ⟨_, hall⟩ => hfree ((channelStuck_iff s c).1 (hall c hc))

end Sys2Proof.Machine
end

section
/-! PROOFS. O50: a crew started, with its channels (R141, R326). -/
namespace Sys2Proof.Machine
open Sys2Proof.Claims
variable {s t u : State} {c : Context} {k : Key}

/-- A member of the crew `w` stands on its core, ready at its handler, as the context of one of the keys. -/
def MemberStarted (w : Nat) (keys : List Key) (t : State) (m : Nat × TaskRec) : Prop :=
  ∃ k ∈ keys, ∃ c, t.ctx? k = some c ∧ c.core = m.1 ∧ c.crew = some w ∧ c.regs.pc = m.2.handler ∧ ∃ n, c.status = .ready n

/-- A context changed in nothing that a member is known by. -/
def Context.SameMember (c c' : Context) : Prop :=
  c'.key = c.key ∧ c'.core = c.core ∧ c'.crew = c.crew ∧ c'.regs = c.regs ∧ c'.status = c.status

/-- Contexts are found as before but for what no member is known by. -/
def MembersKept (s t : State) : Prop := ∀ k c, s.ctx? k = some c → ∃ c', t.ctx? k = some c' ∧ c.SameMember c'

theorem membersKept_chain : Chain MembersKept :=
  ⟨fun _ _ c h => ⟨c, h, rfl, rfl, rfl, rfl, rfl⟩, fun h h' k c hc => by
    obtain ⟨c1, hc1, a1, a2, a3, a4, a5⟩ := h k c hc
    obtain ⟨c2, hc2, b1, b2, b3, b4, b5⟩ := h' k c1 hc1
    exact ⟨c2, hc2, b1.trans a1, b2.trans a2, b3.trans a3, b4.trans a4, b5.trans a5⟩⟩

theorem membersKept_modCtx {f : Context → Context} (hf : ∀ c : Context, c.SameMember (f c)) (s : State) (k' : Key) :
    MembersKept s (s.modCtx k' f) := by
  intro k c hc
  by_cases hk : k' = k
  · subst hk
    exact ⟨f c, ctx_modCtx hc (hf c).1, hf c⟩
  · exact ⟨c, (ctx_modCtx_other (fun c => (hf c).1) hk).trans hc, rfl, rfl, rfl, rfl, rfl⟩

theorem MemberStarted.kept {w : Nat} {keys keys' : List Key} {m : Nat × TaskRec} (h : MemberStarted w keys s m) (hkeys : ∀ k ∈ keys, k ∈ keys')
    (hkept : MembersKept s t) : MemberStarted w keys' t m := by
  obtain ⟨k, hk, c, hc, hcore, hcrew, hpc, n, hst⟩ := h
  obtain ⟨c', hc', -, h2, h3, h4, h5⟩ := hkept k c hc
  exact ⟨k, hkeys k hk, c', hc', h2.trans hcore, h3.trans hcrew, (congrArg Regs.pc h4).trans hpc, n, h5.trans hst⟩

/-! Crews changed. -/

theorem modCrew_find {w v : Crew} {f : Crew → Crew} (hf : ∀ w, (f w).id = w.id) (h : s.crews.find? (fun x => x.id == w.id) = some v) :
    (s.modCrew w.id f).crews.find? (fun x => x.id == w.id) = some (f v) := by
  have hv : v.id = w.id := by simpa using List.find?_some h
  have hp : ((fun x : Crew => x.id == w.id) ∘ fun x => if x.id = w.id then f x else x) = fun x => x.id == w.id := by
    funext x
    rw [Function.comp_apply]
    split
    · rw [hf]
    · rfl
  rw [State.modCrew]
  dsimp only
  rw [List.find?_map, hp, h, Option.map_some, if_pos hv]

/-- A crew with one more key. -/
def Crew.withKey (k : Key) (w : Crew) : Crew := { w with keys := w.keys ++ [k] }

/-- A context of a crew. -/
def Context.ofCrew (w : Nat) (c : Context) : Context := { c with crew := some w }

/-- One member started in the place held for it. -/
theorem startMember_starts {w v : Crew} {core : Nat} {r : TaskRec} {p : Room} {id : BitVec 16} (hid : s.freeFrame r.asid = some id)
    (hv : s.crews.find? (fun x => x.id == w.id) = some v) (ht : t = (((s.startTask r core p id).1.modCtx (s.newContext r core p id).key
      (Context.ofCrew w.id)).modCrew w.id (Crew.withKey (s.newContext r core p id).key))) :
    MembersKept s t ∧ t.crews.find? (fun x => x.id == w.id) = some (v.withKey { asid := r.asid, ctxid := id }) ∧
      MemberStarted w.id [{ asid := r.asid, ctxid := id }] t (core, r) := by
  have hfresh := freeFrame_fresh hid
  have hstarted := startTask_starts hfresh core p
  obtain ⟨c, hc⟩ : ∃ c, c = s.newContext r core p id := ⟨_, rfl⟩
  obtain ⟨u, hu⟩ : ∃ u, u = (s.startTask r core p id).1 := ⟨_, rfl⟩
  rw [← hc, ← hu] at ht
  rw [← hu] at hstarted
  have hkey : c.key = { asid := r.asid, ctxid := id } := by rw [hc]; rfl
  rw [hkey] at ht
  have hfound : u.ctx? { asid := r.asid, ctxid := id } = some c := by rw [hstarted.found, hc]
  have hctx (k : Key) : t.ctx? k = (u.modCtx { asid := r.asid, ctxid := id } (Context.ofCrew w.id)).ctx? k := by rw [ht]; rfl
  refine ⟨fun k x hx => ?_, ?_, { asid := r.asid, ctxid := id }, List.mem_singleton_self _, c.ofCrew w.id, ?_⟩
  · have hne : k ≠ { asid := r.asid, ctxid := id } := by
      rintro rfl
      rw [hfresh] at hx
      nomatch hx
    obtain ⟨d, hd⟩ := acquired_eq core x
    refine ⟨x.acquired core, ?_, ?_⟩
    · rw [hctx, ctx_modCtx_other (f := Context.ofCrew w.id) (fun _ => by rfl) (fun he => hne he.symm), hstarted.others k hne, hx, Option.map_some]
    · rw [hd]
      exact ⟨rfl, rfl, rfl, rfl, rfl⟩
  · rw [ht]
    refine modCrew_find (f := Crew.withKey { asid := r.asid, ctxid := id }) (fun _ => by rfl) ?_
    have hcrews : (u.modCtx { asid := r.asid, ctxid := id } (Context.ofCrew w.id)).crews = s.crews := by
      rw [State.modCtx_crews, hstarted.shape]
    rw [hcrews]
    exact hv
  · exact ⟨(hctx _).trans (ctx_modCtx hfound rfl), by rw [hc]; rfl, rfl, by rw [hc]; rfl, s.nextSeq, by rw [hc]; rfl⟩

theorem startMembers_starts {w : Crew} (ms : List (Nat × TaskRec)) {s s1 : State} {v : Crew} (hv : s.crews.find? (fun x => x.id == w.id) = some v)
    (h : s.startMembers w ms = some s1) : MembersKept s s1 ∧ ∃ keys : List Key, keys.length = ms.length ∧
      s1.crews.find? (fun x => x.id == w.id) = some { v with keys := v.keys ++ keys } ∧ ∀ m ∈ ms, MemberStarted w.id keys s1 m := by
  induction ms generalizing s v with
  | nil =>
    rw [State.startMembers] at h
    obtain rfl := Option.some.inj h
    exact ⟨membersKept_chain.refl s, [], rfl, by rw [List.append_nil]; exact hv, fun _ hm => (nomatch hm)⟩
  | cons m ms ih =>
    obtain ⟨core, r⟩ := m
    rw [State.startMembers] at h
    split at h
    next p id _ hid =>
      obtain ⟨t, ht⟩ : ∃ t, t = (((s.startTask r core p id).1.modCtx (s.newContext r core p id).key
        (Context.ofCrew w.id)).modCrew w.id (Crew.withKey (s.newContext r core p id).key)) := ⟨_, rfl⟩
      obtain ⟨hkept, hcrew, hmember⟩ := startMember_starts hid hv ht
      have hrest : t.startMembers w ms = some s1 := by
        rw [ht]
        exact h
      obtain ⟨hkept', keys, hlen, hcrew', hmembers⟩ := ih hcrew hrest
      refine ⟨membersKept_chain.trans hkept hkept', { asid := r.asid, ctxid := id } :: keys, by rw [List.length_cons, List.length_cons, hlen], ?_,
        fun m hm => ?_⟩
      · rw [hcrew', Crew.withKey, List.append_assoc, List.singleton_append]
      · rcases List.mem_cons.1 hm with rfl | hm
        · exact hmember.kept (fun k hk => List.mem_cons.2 (.inl (List.mem_singleton.1 hk))) hkept'
        · exact (hmembers m hm).kept (fun k hk => List.mem_cons_of_mem _ hk) (membersKept_chain.refl s1)
    · nomatch h

/-! Channels made. -/

/-- The channel that a descriptor asks for is there. -/
def ChannelMade (w : Nat) (d : ChanDesc) (t : State) : Prop :=
  ∃ ch ∈ t.chans, ch.crew = w ∧ ch.slots = d.slots ∧ ch.wide = d.wide ∧ ch.area = d.area ∧ ch.items = []

/-- Binding a channel leaves the crews, the members and the channels there are. -/
structure Binding (s t : State) : Prop where
  crews : t.crews = s.crews
  members : MembersKept s t
  chans : ∀ ch ∈ s.chans, ch ∈ t.chans

theorem binding_chain : Chain Binding :=
  ⟨fun s => ⟨rfl, membersKept_chain.refl s, fun _ h => h⟩,
    fun h h' => ⟨h'.1.trans h.1, membersKept_chain.trans h.2 h'.2, fun ch hch => h'.3 ch (h.3 ch hch)⟩⟩

theorem binding_modCtx {f : Context → Context} (hf : ∀ c : Context, c.SameMember (f c)) (s : State) (k : Key) : Binding s (s.modCtx k f) :=
  ⟨State.modCtx_crews _ _ _, membersKept_modCtx hf s k, fun _ h => by rw [State.modCtx_chans]; exact h⟩

theorem sameMember_bind (port : Nat) (e : PortEnd) (c : Context) : c.SameMember (c.bind port e) := ⟨rfl, rfl, rfl, rfl, rfl⟩

/-- The context of a crew's member on a core. -/
def State.memberOn (s : State) (w core : Nat) : Option Context := s.allCtxs.find? (fun c => c.crew == some w && c.core == core)

theorem memberOn_some {w core : Nat} {keys : List Key} {m : Nat × TaskRec} (h : MemberStarted w keys s m) (hm : m.1 = core) :
    ∃ c, s.memberOn w core = some c := by
  obtain ⟨k, -, c, hc, hcore, hcrew, -⟩ := h
  rw [← Option.isSome_iff_exists, State.memberOn, List.find?_isSome]
  exact ⟨c, mem_of_ctx hc, by rw [hcore, hm, hcrew, beq_self_eq_true, beq_self_eq_true]; rfl⟩

/-- The channel of a descriptor between two contexts. -/
def ChanDesc.channel (d : ChanDesc) (id w : Nat) (src dst : Key) : Channel :=
  { id := id, crew := w, src := src, dst := dst, slots := d.slots, wide := d.wide, area := d.area }

theorem bindChannel_eq (s : State) (w : Nat) (d : ChanDesc) : s.bindChannel w d = match s.memberOn w d.score, s.memberOn w d.dcore with
    | some a, some b =>
      ((({ s with
          nextSeq := s.nextSeq + 1
          chans := s.chans ++ [d.channel s.nextSeq w a.key b.key] } : State).modCtx
        a.key (fun c => c.bind d.sport { chan := s.nextSeq, sending := true })).modCtx b.key
          (fun c => c.bind d.dport { chan := s.nextSeq, sending := false }))
    | _, _ => s := rfl

theorem bindChannel_binds (s : State) (w : Nat) (d : ChanDesc) : Binding s (s.bindChannel w d) ∧
    (∀ a b, s.memberOn w d.score = some a → s.memberOn w d.dcore = some b → ChannelMade w d (s.bindChannel w d)) := by
  rw [bindChannel_eq]
  split
  next a b _ _ =>
    obtain ⟨u, hu, hchans⟩ : ∃ u : State, u = { s with
        nextSeq := s.nextSeq + 1
        chans := s.chans ++ [d.channel s.nextSeq w a.key b.key] } ∧
        u.chans = s.chans ++ [d.channel s.nextSeq w a.key b.key] :=
      ⟨_, rfl, rfl⟩
    have hsu : Binding s u := by
      refine ⟨by rw [hu], fun k c hc => ⟨c, by rw [hu]; exact hc, rfl, rfl, rfl, rfl, rfl⟩, fun ch hch => ?_⟩
      rw [hchans]
      exact List.mem_append_left _ hch
    have hports := binding_chain.trans (binding_modCtx (sameMember_bind d.sport { chan := s.nextSeq, sending := true }) u a.key)
      (binding_modCtx (sameMember_bind d.dport { chan := s.nextSeq, sending := false }) _ b.key)
    rw [← hu]
    refine ⟨binding_chain.trans hsu hports, fun _ _ _ _ =>
      ⟨d.channel s.nextSeq w a.key b.key, hports.chans _ ?_, rfl, rfl, rfl, rfl, rfl⟩⟩
    rw [hchans]
    exact List.mem_append_right _ (List.mem_singleton_self _)
  next hnone =>
    exact ⟨binding_chain.refl s, fun a b ha hb => absurd hb (hnone a b ha)⟩

theorem bindChannels_bind {w : Nat} {keys : List Key} (ms : List (Nat × TaskRec)) (ds : List Word) (s : State)
    (hms : ∀ m ∈ ms, MemberStarted w keys s m) :
    Binding s (ds.foldl (fun s d => s.bindChannel w (chanDesc d)) s) ∧
    ∀ d ∈ ds, (∃ m ∈ ms, m.1 = (chanDesc d).score) → (∃ m ∈ ms, m.1 = (chanDesc d).dcore) →
      ChannelMade w (chanDesc d) (ds.foldl (fun s d => s.bindChannel w (chanDesc d)) s) := by
  induction ds generalizing s with
  | nil => exact ⟨binding_chain.refl s, fun _ hd => (nomatch hd)⟩
  | cons d ds ih =>
    obtain ⟨hbinds, hmade⟩ := bindChannel_binds s w (chanDesc d)
    obtain ⟨hrest, hall⟩ := ih (s.bindChannel w (chanDesc d)) fun m hm => (hms m hm).kept (fun _ h => h) hbinds.members
    rw [List.foldl_cons]
    refine ⟨binding_chain.trans hbinds hrest, fun x hx hsrc hdst => ?_⟩
    rcases List.mem_cons.1 hx with rfl | hx
    · obtain ⟨m, hm, hms1⟩ := hsrc
      obtain ⟨m', hm', hms2⟩ := hdst
      obtain ⟨a, ha⟩ := memberOn_some (hms m hm) hms1
      obtain ⟨b, hb⟩ := memberOn_some (hms m' hm') hms2
      obtain ⟨ch, hch, hfields⟩ := hmade a b ha hb
      exact ⟨ch, hrest.chans ch hch, hfields⟩
    · exact hall x hx hsrc hdst

/-! The crew started. -/

/-- The crew as it runs. -/
def Crew.begun (w : Crew) : Crew := { w with started := true, reserved := [] }

theorem crewStart_starts {crew : Nat} {s s1 : State} {w : Crew} (hw : s.crews.find? (fun x => x.id == crew) = some w) (hnew : w.started = false)
    (hlive : s.launchSuspended w.launch = false)
    (hready : ∀ m ∈ w.members, s.canTake m.1 = true ∧ (∃ r ∈ w.reserved, r.1 = m.1) ∧ s.handlerLoading m.2 = false)
    (hs1 : s.startMembers w w.members = some s1) :
    ∃ (t : State) (w' : Crew), Leads (.crewStart crew) s t ∧ t.crews.find? (fun x => x.id == crew) = some w' ∧ w'.started = true ∧
      w'.reserved = [] ∧ w'.keys.length = w.keys.length + w.members.length ∧
      (∀ m ∈ w.members, ∃ k ∈ w'.keys, ∃ c, t.ctx? k = some c ∧ c.core = m.1 ∧ c.crew = some w.id ∧
        c.regs.pc = m.2.handler ∧ ∃ n, c.status = .ready n) ∧
      (∀ d ∈ w.descs, (∃ m ∈ w.members, m.1 = (chanDesc d).score) → (∃ m ∈ w.members, m.1 = (chanDesc d).dcore) →
        ∃ ch ∈ t.chans, ch.crew = w.id ∧ ch.slots = (chanDesc d).slots ∧ ch.wide = (chanDesc d).wide ∧
          ch.area = (chanDesc d).area ∧ ch.items = []) := by
  have hid : w.id = crew := by simpa using List.find?_some hw
  have hplaces : w.members.all (fun m => s.canTake m.1 && w.reserved.any (fun r => r.1 == m.1)) = true := by
    refine List.all_eq_true.2 fun m hm => ?_
    obtain ⟨hcan, ⟨p, hp, hpm⟩, -⟩ := hready m hm
    rw [hcan, Bool.true_and, List.any_eq_true]
    exact ⟨p, hp, by rw [hpm]; exact beq_self_eq_true _⟩
  have hloaded : w.members.any (fun m => s.handlerLoading m.2) = false :=
    List.any_eq_false.2 fun m hm => by rw [(hready m hm).2.2]; exact Bool.false_ne_true
  have hleads : crewStart crew s = w.descs.foldl (fun s d => s.bindChannel w.id (chanDesc d)) (s1.modCrew w.id Crew.begun) := by
    rw [crewStart, hw]
    dsimp only
    rw [hlive, hnew, hplaces, hloaded, hs1, if_neg Bool.false_ne_true, if_neg Bool.false_ne_true, if_pos (by rfl)]
    rfl
  subst hid
  obtain ⟨-, keys, hlen, hcrew, hmembers⟩ := startMembers_starts w.members hw hs1
  obtain ⟨u, hu, hctx⟩ : ∃ u, u = s1.modCrew w.id Crew.begun ∧ ∀ k, u.ctx? k = s1.ctx? k := ⟨_, rfl, fun _ => rfl⟩
  have hbegun : u.crews.find? (fun x => x.id == w.id) = some ({ w with keys := w.keys ++ keys } : Crew).begun := by
    rw [hu]
    exact modCrew_find (f := Crew.begun) (fun _ => by rfl) hcrew
  have hstarted (m) (hm : m ∈ w.members) : MemberStarted w.id (w.keys ++ keys) u m :=
    (hmembers m hm).kept (fun _ h => List.mem_append_right _ h) fun k c hc => ⟨c, (hctx k).trans hc, rfl, rfl, rfl, rfl, rfl⟩
  obtain ⟨hbinds, hmade⟩ := bindChannels_bind w.members w.descs u hstarted
  rw [← hu] at hleads
  refine ⟨_, _, congrArg Host.Outcome.next hleads, by rw [hbinds.crews]; exact hbegun, rfl, rfl, ?_,
    fun m hm => (hstarted m hm).kept (fun _ h => h) hbinds.members, hmade⟩
  exact List.length_append.trans (by rw [hlen])

/-- Settles O50: a task started is found as its record has it (`startTask_starts`), making room for it takes out none
(`makeFit_room`), and a fault taken at one context leaves the others theirs (`faultAt_step`). -/
theorem coresAndCrewsShareWork : Obligations.CoresAndCrewsShareWork := by
  unfold Obligations.CoresAndCrewsShareWork
  exact ⟨⟨fun _ _ _ _ _ hready hrun hc hunit _ => highPriorityStart_starts hready hrun hc hunit,
    fun _ _ _ => handlerOverrun_faults, fun _ _ _ => handlerOverrun_ends,
    fun _ _ _ hrun _ hH hwork => timeSlice_moves hrun hH hwork, fun _ _ => gleanPass_starts, fun _ _ _ _ => gleanProbe_probes,
    fun _ _ _ _ => gleanedRecord_waits,
    fun _ _ _ _ _ _ hglean hidle hcan hheld hid hfit _ => gleanedRecord_starts hglean hidle hcan hheld hid hfit,
    fun _ _ _ => dequeRecord_arrives, fun _ _ _ _ => inboxRecord_arrives⟩,
    fun _ _ _ _ => crewStart_starts, fun _ _ _ => crewDeadlock_stops, fun _ _ _ => crewDeadlock_none⟩

end Sys2Proof.Machine
end

section
/-! PROOFS. O33: the canonical form of the byte spaces (R12), and what the ends of an instruction make of it. -/
namespace Sys2Proof.Machine
open Sys2Proof.Claims
open Sys2Proof.Safety (memoryOk)
variable {s t : State}

/-- What leads from `s` to `t` keeps the canonical form of the byte spaces. -/
def Canonical (s t : State) : Prop := memoryOk s → memoryOk t

theorem canonical_chain : Chain Canonical := ⟨fun _ => id, fun h h' => h' ∘ h⟩

/-- A change outside the byte spaces. -/
theorem canonical_of_eq (hmem : t.mem = s.mem) (hscratch : t.scratch = s.scratch) (hacc : t.acc = s.acc) (hmd : t.md = s.md) :
    Canonical s t := by
  rw [Canonical, memoryOk, memoryOk, hmem, hscratch, hacc, hmd]
  exact id

/-- A change of memory alone. -/
theorem canonical_of_mem {m : Mem} (hwf : s.mem.wf = true → m.wf = true) : Canonical s { s with mem := m } :=
  fun ⟨h1, h2, h3, h4⟩ => ⟨hwf h1, h2, h3, h4⟩

theorem canonical_of_scratch {m : Mem} (hwf : s.scratch.wf = true → m.wf = true) : Canonical s { s with scratch := m } :=
  fun ⟨h1, h2, h3, h4⟩ => ⟨h1, hwf h2, h3, h4⟩

theorem canonical_of_acc {m : Mem} (hwf : s.acc.wf = true → m.wf = true) : Canonical s { s with acc := m } :=
  fun ⟨h1, h2, h3, h4⟩ => ⟨h1, h2, hwf h3, h4⟩

/-! From what a change is known to leave. -/

theorem KeepsForm.canonical (h : KeepsForm s t) (hscratch : t.scratch = s.scratch) (hacc : t.acc = s.acc) : Canonical s t := by
  rintro ⟨h1, h2, h3, h4⟩
  exact ⟨h.1 h1, hscratch ▸ h2, hacc ▸ h3, h.2 h4⟩

theorem HomeOnly.canonical (h : HomeOnly s t) : Canonical s t := h.2.canonical (by rw [h.1]) (by rw [h.1])

theorem AgentOnly.canonical (h : AgentOnly s t) : Canonical s t := h.2.canonical (by rw [h.1]) (by rw [h.1])

theorem CachesOnly.canonical (h : CachesOnly s t) : Canonical s t := canonical_of_eq (by rw [h]) (by rw [h]) (by rw [h]) (by rw [h])

theorem ChansOnly.canonical (h : ChansOnly s t) : Canonical s t := canonical_of_eq (by rw [h]) (by rw [h]) (by rw [h]) (by rw [h])

theorem CtxsOnly.canonical (h : CtxsOnly s t) : Canonical s t := canonical_of_eq (by rw [h]) (by rw [h]) (by rw [h]) (by rw [h])

theorem InContexts.canonical (h : InContexts s t) : Canonical s t := canonical_of_eq (by rw [h]) (by rw [h]) (by rw [h]) (by rw [h])

theorem CoresOnly.canonical (h : CoresOnly s t) : Canonical s t := canonical_of_eq (by rw [h]) (by rw [h]) (by rw [h]) (by rw [h])

theorem ReadsOnly.canonical (h : ReadsOnly s t) : Canonical s t := canonical_of_eq (by rw [h]) (by rw [h]) (by rw [h]) (by rw [h])

theorem SettledOnly.canonical (h : SettledOnly s t) : Canonical s t := canonical_of_eq (by rw [h]) (by rw [h]) (by rw [h]) (by rw [h])

theorem CurrentOnly.canonical (h : CurrentOnly s t) : Canonical s t := canonical_of_eq (by rw [h]) (by rw [h]) (by rw [h]) (by rw [h])

theorem State.Freed.canonical (h : s.Freed t) : Canonical s t := h.settledOnly.canonical

theorem RegisterOnly.canonical {ds : List Dest} {fl : Bool} (h : RegisterOnly ds fl s t) : Canonical s t :=
  canonical_of_eq (by rw [h.shape]) (by rw [h.shape]) (by rw [h.shape]) (by rw [h.shape])

theorem Reads.canonical {ldc : Bool} {ds : List Dest} (h : Reads ldc ds s t) : Canonical s t := by
  rintro ⟨h1, h2, h3, h4⟩
  have hscratch : t.scratch = s.scratch := by rw [h.shape]
  have hacc : t.acc = s.acc := by rw [h.shape]
  have hmd : t.md = s.md := by rw [h.shape]
  exact ⟨h.form h1, hscratch ▸ h2, hacc ▸ h3, hmd ▸ h4⟩

theorem WritesIn.canonical {lo hi : Nat} (h : WritesIn lo hi s t) : Canonical s t := by
  rw [h.1]
  exact canonical_chain.trans (canonical_of_mem h.2.1) (canonical_of_eq rfl rfl rfl rfl)

theorem ResultTaken.canonical (h : ResultTaken s t) : Canonical s t := by
  rintro ⟨h1, h2, h3, h4⟩
  have hscratch : t.scratch = s.scratch := by rw [h.1]
  have hacc : t.acc = s.acc := by rw [h.1]
  have hmd : t.md = s.md := by rw [h.1]
  exact ⟨h.2 h1, hscratch ▸ h2, hacc ▸ h3, hmd ▸ h4⟩

/-! Records of faults (R351, R353). -/

theorem canonical_writeMarks (s : State) (a n x marks : Nat) : Canonical s { s with mem := s.mem.writeMarks a n x marks } :=
  canonical_of_mem (Mem.within_writeMarks a n x marks).1

theorem canonical_writeN (s : State) (a n x : Nat) (mark : Bool) : Canonical s { s with mem := s.mem.writeN a n x mark } :=
  canonical_of_mem (Mem.within_writeN a n x mark).1

theorem canonical_rewriteRecord (s : State) (id : Nat) : Canonical s (s.rewriteRecord id) := by
  rw [State.rewriteRecord]
  split
  · exact canonical_chain.refl s
  · split
    · exact canonical_writeMarks s _ _ _ _
    · exact canonical_chain.refl s

theorem canonical_modRecord (s : State) (id : Nat) (g : FaultRec → FaultRec) : Canonical s (s.modRecord id g) :=
  canonical_chain.trans (t := { s with records := s.records.map (fun r => if r.id = id then g r else r) })
    (canonical_of_eq rfl rfl rfl rfl) (canonical_rewriteRecord _ id)

theorem canonical_postRecord (s : State) (r : FaultRec) : Canonical s (s.postRecord r) := canonical_of_eq rfl rfl rfl rfl

theorem canonical_attach (s : State) (r : FaultRec) (k : Key) : Canonical s (s.attach r k) := by
  rw [State.attach]
  dsimp only
  split
  · exact canonical_modRecord s _ _
  · refine canonical_chain.trans (canonical_modRecord s r.id (FaultRec.listing k)) ?_
    split
    · exact canonical_modRecord _ _ _
    · exact canonical_postRecord _ _

theorem canonical_openRecord (s : State) (k : Key) (pc : CodeAddr) (f : FaultInfo) : Canonical s (s.openRecord k pc f).1 := by
  rw [State.openRecord]
  split
  · exact canonical_attach s _ _
  · exact canonical_postRecord s _

theorem canonical_putBack (s : State) (taken : List (Nat × Vec)) : Canonical s (s.putBack taken) := by
  obtain ⟨cs, h⟩ := putBack_eq s taken
  rw [h]
  exact canonical_of_eq rfl rfl rfl rfl

theorem canonical_leave (s : State) (c : Context) : Canonical s (s.leave c) := canonical_of_eq rfl rfl rfl rfl

/-- A fault taken (R351). -/
theorem canonical_takeFaultAt (pc : CodeAddr) (f : FaultInfo) (s : State) : Canonical s (takeFaultAt pc f s) := by
  rw [takeFaultAt_eq]
  split
  · exact canonical_of_eq rfl rfl rfl rfl
  · exact canonical_chain.trans (canonical_openRecord s _ _ _) (canonical_chain.trans (canonical_putBack _ _)
      (canonical_chain.trans (canonical_leave _ _) (freed_drainHeld _ _ _).canonical))

theorem canonical_takeFault (f : FaultInfo) (s : State) : Canonical s (takeFault f s) := canonical_takeFaultAt _ f s

/-! How an instruction ends (R167, R194). -/

theorem canonical_mark (n : Note) (s : State) : Canonical s (n.mark s) := by
  have h := (n.mark_fields s).1
  rw [h]
  exact canonical_of_eq rfl rfl rfl rfl

theorem canonical_settle (len : Nat) (c0 : Context) (f : Flow) (s : State) : Canonical s (settle len c0 f s) :=
  (settledOnly_settle len c0 f s).canonical

theorem EndsKeeping.canonical {R : State → State → Prop} {i : Instr} (hR : ∀ {s t}, R s t → Canonical s t) (h : EndsKeeping R i s t) :
    Canonical s t := by
  cases h with
  | settled f u hu => exact canonical_chain.trans (hR hu) (canonical_settle _ _ f u)
  | off =>
    exact canonical_chain.trans (t := { s with cur := pushZeros i.dests s.cur }) (canonical_of_eq rfl rfl rfl rfl) (canonical_settle _ _ _ _)
  | fault pc f u hu => exact canonical_chain.trans (hR hu) (canonical_takeFaultAt pc f u)
  | delivered f n hn => exact canonical_chain.trans (canonical_mark n s) (canonical_takeFault f _)
  | parks w => exact canonical_of_eq rfl rfl rfl rfl
  | stalls => exact canonical_of_eq rfl rfl rfl rfl

/-- An instruction issued with an effect that keeps canonical forms keeps them. -/
theorem canonical_issue {i : Instr} {body : M Flow} (hk : Keeps Canonical body) (h : issue i body s = .next t) : Canonical s t := by
  cases hbusy : s.busy with
  | false =>
    rw [issue, if_pos (by rw [hbusy]; rfl)] at h
    cases h
    exact canonical_chain.refl s
  | true => exact (issue_endsKeeping canonical_chain hk hbusy h).canonical id

theorem canonical_issueTransfer {i : Instr} {body : M Flow} (hk : Keeps Canonical body) (h : issueTransfer i body s = .next t) :
    Canonical s t := by
  rw [issueTransfer] at h
  split at h
  · cases h
    exact canonical_chain.refl s
  · split at h
    · cases h
      exact canonical_takeFault _ s
    · exact (runBody_endsKeeping canonical_chain hk h).canonical id

/-- Register instructions, loads, exact reads, waits and joins. -/
theorem canonical_registerBody {i : Instr} (h : flagFree i = true ∨ flagSetting i = true) :
    ∃ body, (∀ s, exec i s = issue i body s) ∧ Keeps Canonical body := by
  obtain ⟨body, hbody, hk⟩ := registerBody i h
  exact ⟨body, hbody, hk.mono RegisterOnly.canonical⟩

theorem canonical_readingBody {i : Instr} (h : readsOrJoins i = true) :
    ∃ body, (∀ s, exec i s = issue i body s) ∧ Keeps Canonical body := by
  obtain ⟨body, hbody, hk⟩ := readingBody i h
  exact ⟨body, hbody, hk.mono Reads.canonical⟩

end Sys2Proof.Machine
end

section
/-! PROOFS. O33: transfers and prepares, stores, and tile accesses (R198 to R206, R215, R247 to R254). -/
namespace Sys2Proof.Machine
open Sys2Proof.Claims
open Sys2Proof.Safety (memoryOk)
variable {s t : State} {α β : Type}

/-! Effects that keep canonical forms. -/

theorem canonical_bind {m : M α} {k : α → M β} (hm : Keeps Canonical m) (hk : ∀ x, Keeps Canonical (k x)) : Keeps Canonical (m >>= k) :=
  keeps_bind canonical_chain hm hk

theorem canonical_pure (x : α) : Keeps Canonical (pure x) := keeps_pure canonical_chain x

theorem canonical_get : Keeps Canonical (get : M State) := canonical_chain.refl

theorem canonical_cur : Keeps Canonical cur := canonical_chain.refl

theorem canonical_modify {f : State → State} (h : ∀ s, Canonical s (f s)) : Keeps Canonical (modify f : M PUnit) := h

theorem canonical_modCur (f : Context → Context) : Keeps Canonical (modCur f) := fun s => canonical_of_eq (t := { s with cur := f s.cur }) rfl rfl rfl rfl

theorem canonical_modRegs (f : Regs → Regs) : Keeps Canonical (modRegs f) := canonical_modCur _

theorem canonical_orRaise (x : Except FaultInfo α) : Keeps Canonical (orRaise x) := keeps_orRaise canonical_chain x

theorem canonical_forM {f : β → M Unit} (h : ∀ x, Keeps Canonical (f x)) (l : List β) : Keeps Canonical (l.forM f) :=
  keeps_forM canonical_chain h l

/-- What reading and asking effects keep. -/
theorem Keeps.readsCanonical {m : M α} (h : Keeps (Reads true []) m) : Keeps Canonical m := h.mono Reads.canonical

theorem Keeps.cachesCanonical {m : M α} (h : Keeps CachesOnly m) : Keeps Canonical m := h.mono CachesOnly.canonical

theorem canonical_readScalar (x : Scalar) : Keeps Canonical (readScalar x) := (keeps_readScalar x).mono ChansOnly.canonical

theorem canonical_readVec (x : VSpec) : Keeps Canonical (readVec x) := (keeps_readVec x).mono ChansOnly.canonical

theorem canonical_readOnce (xs : List Scalar) : Keeps Canonical (readOnce xs) := (keeps_readOnce xs).mono ReadsOnly.canonical

theorem canonical_useClean (v : Val) : Keeps Canonical (useClean v) := keeps_useClean canonical_chain v

theorem canonical_readClean (x : Scalar) : Keeps Canonical (readClean x) := (keeps_readClean_reads x).readsCanonical

theorem canonical_writeScalar (d : Scalar) (v : Val) : Keeps Canonical (writeScalar d v) :=
  (keeps_writeScalar_reads (ldc := true) (ds := [.scalar d]) (List.mem_singleton_self _) v).mono Reads.canonical

theorem canonical_writeVec (d : VSpec) (v : Vec) : Keeps Canonical (writeVec d v) :=
  (keeps_writeVec_reads (ldc := true) (ds := [.vector d]) (List.mem_singleton_self _) v).mono Reads.canonical

theorem canonical_check (ok : Bool) (code : FaultCode) (addr : Word) : Keeps Canonical (check ok code addr) :=
  keeps_check canonical_chain ok code addr

theorem canonical_checkSrc (x : Scalar) : Keeps Canonical (checkSrc x) := keeps_checkSrc canonical_chain x

theorem canonical_checkDst (x : Scalar) : Keeps Canonical (checkDst x) := keeps_checkDst canonical_chain x

theorem canonical_checkVSrc (x : VSpec) : Keeps Canonical (checkVSrc x) := keeps_checkVSrc canonical_chain x

theorem canonical_activeLanes : Keeps Canonical activeLanes := keeps_activeLanes canonical_chain

theorem canonical_tryTranslate (core : Nat) (asid : BitVec 12) (sys : Bool) (kind : AccessKind) (va : Nat) :
    Keeps Canonical (tryTranslate core asid sys kind va) := (keeps_tryTranslate core asid sys kind va).cachesCanonical

theorem canonical_readFrozen (core : Nat) (asid : BitVec 12) (l : Leaf) (va : Nat) : Keeps Canonical (readFrozen core asid l va) :=
  (keeps_readFrozen core asid l va).readsCanonical

/-! Fetches (R81, R198). -/

theorem canonical_modCore (s : State) (n : Nat) (f : Core → Core) : Canonical s (s.modCore n f) := canonical_of_eq rfl rfl rfl rfl

theorem canonical_codeHeld (core : Nat) (asid : BitVec 12) (va : Nat) (l : Leaf) : Keeps Canonical (codeHeld core asid va l) := by
  refine canonical_bind canonical_get fun s => ?_
  split
  · exact canonical_bind keeps_choose.cachesCanonical fun _ => canonical_pure _
  · exact canonical_pure _

theorem canonical_fetchHalf (core : Nat) (asid : BitVec 12) (sys : Bool) (va : Nat) : Keeps Canonical (fetchHalf core asid sys va) := by
  rw [fetchHalf]
  split
  · exact canonical_pure _
  refine canonical_bind (canonical_tryTranslate _ _ _ _ _) fun x => ?_
  split
  · split <;> exact canonical_pure _
  · split
    · exact canonical_pure _
    split
    · exact canonical_pure _
    refine canonical_bind (canonical_codeHeld _ _ _ _) fun h => ?_
    split
    · exact canonical_pure _
    refine canonical_bind (canonical_readFrozen _ _ _ _) fun y => ?_
    split
    · exact canonical_pure _
    split
    · exact canonical_pure _
    split
    · exact canonical_pure _
    refine canonical_bind canonical_get fun _ => ?_
    split
    · exact canonical_pure _
    · exact canonical_bind (canonical_modify fun s => canonical_of_eq rfl rfl rfl rfl) fun _ => canonical_pure _

theorem canonical_fetchBytes (core : Nat) (asid : BitVec 12) (sys : Bool) (va : Nat) : Keeps Canonical (fetchBytes core asid sys va) := by
  refine canonical_bind (canonical_fetchHalf _ _ _ _) fun x => ?_
  split
  · exact canonical_pure _
  · split
    · exact canonical_pure _
    · refine canonical_bind (canonical_fetchHalf _ _ _ _) fun y => ?_
      split <;> exact canonical_pure _

theorem canonical_fetchCheck (core : Nat) (asid : BitVec 12) (sys : Bool) (addr : Word) : Keeps Canonical (fetchCheck core asid sys addr) := by
  rw [fetchCheck]
  split
  · exact canonical_pure _
  split
  · exact canonical_pure _
  refine canonical_bind (canonical_fetchBytes _ _ _ _) fun x => ?_
  split <;> exact canonical_pure _

/-! Prepares and transfers. -/

theorem canonical_setTarget (n : Fin 8) (t : Target) : Keeps Canonical (setTarget n t) := canonical_modRegs _

theorem canonical_prepareTarget (n : Fin 8) (addr : Word) (cause : Option Cause) : Keeps Canonical (prepareTarget n addr cause) := by
  refine canonical_bind canonical_cur fun c => ?_
  split
  · exact canonical_bind (canonical_pure _) fun _ => canonical_setTarget _ _
  · exact canonical_bind (canonical_fetchCheck _ _ _ _) fun _ => canonical_setTarget _ _

theorem canonical_codeRead (addr : Word) (size : Nat) : Keeps Canonical (codeRead addr size) := by
  refine canonical_bind canonical_cur fun c => ?_
  dsimp only
  split
  · exact canonical_pure _
  refine canonical_bind (canonical_tryTranslate _ _ _ _ _) fun x => ?_
  split
  · exact canonical_pure _
  split
  · exact canonical_pure _
  refine canonical_bind (canonical_readFrozen _ _ _ _) fun y => ?_
  split <;> exact canonical_pure _

theorem canonical_jumpTable (t i : Word) : Keeps Canonical (jumpTable t i) := by
  refine canonical_bind (canonical_codeRead _ _) fun x => ?_
  split
  · exact canonical_pure _
  dsimp only
  split
  · refine canonical_bind (canonical_codeRead _ _) fun y => ?_
    split <;> exact canonical_pure _
  · exact canonical_pure _

theorem canonical_raiseInfo (f : FaultInfo) : Keeps Canonical (raiseInfo f : M α) := fun _ => trivial

theorem canonical_delaySlot : Keeps Canonical delaySlot := by
  refine canonical_bind canonical_get fun s => canonical_bind (canonical_fetchBytes _ _ _ _) fun x => ?_
  split
  · exact fun _ => trivial
  · split
    · exact fun _ => trivial
    · exact canonical_bind (canonical_check _ _ _) fun _ => canonical_pure _

theorem canonical_checkTarget (n : Fin 8) (tgt : Target) : Keeps Canonical (checkTarget n tgt) := by
  refine canonical_bind canonical_get fun s => canonical_bind (canonical_check _ _ _) fun _ => ?_
  split
  · exact canonical_pure _
  split
  · refine canonical_bind (canonical_fetchCheck _ _ _ _) fun x => ?_
    split
    · exact canonical_setTarget _ _
    · exact canonical_setTarget _ _
    · exact canonical_setTarget _ _
    · exact canonical_raiseInfo _
  · exact canonical_raiseInfo _

theorem canonical_transfer (n : Fin 8) {cond : M (Bool × List (Nat × Vec))} (hc : Keeps Canonical cond) (link : Option (Fin 8)) :
    Keeps Canonical (transfer n cond link) := by
  refine canonical_bind canonical_cur fun c => canonical_bind (canonical_check _ _ _) fun _ => canonical_bind canonical_delaySlot fun len => ?_
  dsimp only
  split
  · exact canonical_pure _
  refine canonical_bind hc fun x => ?_
  have hlink (f : Flow) : Keeps Canonical (match link with
      | some l => do
        prepareTarget l ((c.regs.pc + 4 + BitVec.ofNat 48 len).setWidth 64) none
        pure f
      | none => pure f) := by
    cases link with
    | none => exact canonical_pure _
    | some l => exact canonical_bind (canonical_prepareTarget _ _ _) fun _ => canonical_pure _
  split
  · exact canonical_bind (canonical_checkTarget _ _) fun _ => hlink _
  · exact hlink _

theorem canonical_branchBit (g : Scalar) (bit : Fin 64) (sense : Bool) : Keeps Canonical (branchBit g bit sense) := by
  rw [branchBit.eq_def]
  split
  · exact canonical_bind (keeps_portChan canonical_chain _) fun _ => canonical_bind ((keeps_takeItem _).mono ChansOnly.canonical) fun _ =>
      canonical_bind (canonical_useClean _) fun _ => canonical_pure _
  · exact canonical_bind (canonical_readClean _) fun _ => canonical_pure _

theorem canonical_checkCondition (g : Scalar) : Keeps Canonical (checkCondition g) := by
  refine canonical_bind canonical_cur fun c => ?_
  split
  · exact canonical_pure _
  · exact canonical_checkSrc g

theorem canonical_transferBody {i : Instr} (h : i.isTransfer = true) : ∃ body, (∀ s, exec i s = issueTransfer i body s) ∧ Keeps Canonical body := by
  cases i with
  | jmp n => exact ⟨_, fun _ => rfl, canonical_transfer n (canonical_pure _) none⟩
  | brT n g bit | brF n g bit =>
    exact ⟨_, fun _ => rfl, canonical_bind (canonical_checkCondition g) fun _ => canonical_transfer n (canonical_branchBit g bit _) none⟩
  | call n l => exact ⟨_, fun _ => rfl, canonical_transfer n (canonical_pure _) (some l)⟩
  | bdec n g =>
    exact ⟨_, fun _ => rfl, canonical_transfer n (canonical_bind (canonical_readClean g) fun _ =>
      canonical_bind (canonical_writeScalar g _) fun _ => canonical_pure _) none⟩
  | _ => nomatch h

end Sys2Proof.Machine
end

section
/-! PROOFS. O33: stores and tile accesses (R215, R247 to R254). -/
namespace Sys2Proof.Machine
open Sys2Proof.Claims
open Sys2Proof.Safety (memoryOk)
variable {s t : State} {α β : Type}

/-! Slices. -/

theorem canonical_modCtx (s : State) (k : Key) (f : Context → Context) : Canonical s (s.modCtx k f) := (ctxsOnly_modCtx s k f).canonical

theorem canonical_sliceClear (s : State) (c : Context) (off n : Nat) : Canonical s (s.sliceClear c off n) := by
  rw [State.sliceClear]
  split
  · exact canonical_modCtx _ _ _
  · exact canonical_of_scratch (Mem.wf_clear _ _)

theorem canonical_sliceWrite (s : State) (k : Key) (off n x marks : Nat) : Canonical s (s.sliceWrite k off n x marks) := by
  rw [State.sliceWrite]
  split
  · exact canonical_chain.refl s
  next c _ =>
    dsimp only
    obtain ⟨u, hu, hs⟩ : ∃ u, u = ((linesOf off n).filter (fun l => c.discLines.contains l)).foldl (fun s l => s.sliceClear c (128 * l) 128) s ∧
        Canonical s u := ⟨_, rfl, canonical_chain.foldl (fun s l => canonical_sliceClear s c (128 * l) 128) _ s⟩
    rw [← hu]
    obtain ⟨v, hv, hvs⟩ : ∃ v, (if ((linesOf off n).filter (fun l => c.discLines.contains l)).isEmpty then u
        else u.modCtx k (fun x => { x with discLines := x.discLines.filter (fun l =>
          !((linesOf off n).filter (fun l => c.discLines.contains l)).contains l) })) = v ∧ Canonical s v := by
      refine ⟨_, rfl, ?_⟩
      split
      · exact hs
      · exact canonical_chain.trans hs (canonical_modCtx _ _ _)
    rw [hv]
    split
    · exact canonical_chain.trans hvs (canonical_modCtx _ _ _)
    · exact canonical_chain.trans hvs (canonical_of_scratch (Mem.within_writeMarks _ _ _ _).1)

theorem canonical_writeSlice (off n x marks : Nat) : Keeps Canonical (writeSlice off n x marks) :=
  canonical_modify fun s => canonical_sliceWrite s _ off n x marks

/-! Stacks, the on-chip map and device registers. -/

theorem canonical_stackStore (s : State) (core pa n x marks : Nat) : Canonical s (s.stackStore core pa n x marks) := by
  rw [State.stackStore]
  refine canonical_chain.trans (canonical_writeMarks s pa n x marks) (canonical_chain.foldl (fun u line => ?_) _ _)
  obtain ⟨rs, h⟩ := storePerformed_eq u core line
  rw [h]
  exact canonical_of_eq rfl rfl rfl rfl

theorem canonical_setCtx (s : State) (c : Context) : Canonical s (s.setCtx c) := (ctxsOnly_setCtx s c).canonical

theorem canonical_setSlotWord (s : State) (core slot off : Nat) (v : MWord) : Canonical s (s.setSlotWord core slot off v) := by
  rw [State.setSlotWord]
  split
  · exact canonical_setCtx _ _
  · exact canonical_of_eq rfl rfl rfl rfl

theorem canonical_setSlotSys (s : State) (core slot n : Nat) (x : Word) : Canonical s (s.setSlotSys core slot n x) := by
  rw [State.setSlotSys]
  split
  · exact canonical_setCtx _ _
  · exact canonical_of_eq rfl rfl rfl rfl

theorem canonical_chipWrite {core off n x marks : Nat} {va : Word} (h : s.chipWrite core off n x marks va = .ok t) : Canonical s t := by
  rw [State.chipWrite] at h
  split at h
  · nomatch h
  · split at h
    · nomatch h
    · cases h
      exact canonical_chain.trans (canonical_of_scratch (Mem.within_writeMarks _ _ _ _).1)
        (canonical_chain.foldl (fun u c => canonical_modCtx u _ _) _ _)
  · split at h
    · nomatch h
    · cases h
      exact canonical_of_acc (Mem.within_writeMarks _ _ _ _).1
  · split at h
    · nomatch h
    split at h
    · nomatch h
    · cases h
      exact canonical_chain.foldl (fun u w => canonical_setSlotWord u _ _ _ _) _ _
  · split at h
    · nomatch h
    · cases h
      exact canonical_chain.foldl (fun u w => canonical_setSlotSys u _ _ _ _) _ _

theorem canonical_bar1Write (s : State) (off : Nat) (x : Word) : Canonical s (s.bar1Write off x) := by
  rw [State.bar1Write.eq_def]
  split
  case h_4 | h_9 =>
    split <;> exact canonical_of_eq rfl rfl rfl rfl
  case h_5 =>
    dsimp only
    split <;> exact canonical_of_eq rfl rfl rfl rfl
  all_goals exact canonical_of_eq rfl rfl rfl rfl

theorem canonical_deviceWrite {off n x : Nat} {va : Word} (h : s.deviceWrite off n x va = .ok t) : Canonical s t := by
  rw [State.deviceWrite] at h
  split at h
  · cases h
    exact canonical_bar1Write s _ _
  · nomatch h

/-- A write that is refused leaves the state. -/
theorem canonical_setOrRaise {x : Except FaultInfo State} (h : ∀ t, x = .ok t → Canonical s t) :
    KeepsAt Canonical (do set (← orRaise x)) s := by
  cases x with
  | error f => trivial
  | ok t => exact h t rfl

theorem canonical_sendHome (l : Leaf) (va : Nat) (b : Body) : Keeps Canonical (sendHome l va b) := (keeps_sendHome l va b).readsCanonical

theorem canonical_newOut (l : Leaf) (va : Nat) (store held : Bool) : Keeps Canonical (newOut l va store held) :=
  (keeps_newOut l va store held).readsCanonical

theorem canonical_storePage (l : Leaf) (va n x marks : Nat) : Keeps Canonical (storePage l va n x marks) :=
  canonical_bind canonical_cur fun _ => canonical_bind (canonical_newOut _ _ _ _) fun _ =>
    canonical_bind (canonical_modify fun _ => canonical_of_eq rfl rfl rfl rfl) fun _ => canonical_sendHome _ _ _

theorem canonical_writePlace (p : Place) (n va x marks : Nat) : Keeps Canonical (writePlace p n va x marks) := by
  refine fun s => keepsAt_get ?_
  cases p with
  | page l => exact canonical_storePage l va n x marks s
  | stack pa =>
    dsimp only
    split
    · trivial
    · exact canonical_stackStore s _ _ _ _ _
  | slice o => exact canonical_writeSlice o n x marks s
  | chip core off => exact canonical_setOrRaise fun _ => canonical_chipWrite
  | device off => exact canonical_setOrRaise fun _ => canonical_deviceWrite

theorem canonical_checkChip (p : Place) (n va : Nat) : Keeps Canonical (checkChip p n va) := by
  rw [checkChip.eq_def]
  split
  · exact canonical_bind canonical_get fun _ => canonical_bind (canonical_orRaise _) fun _ => canonical_pure _
  · exact canonical_pure _

theorem canonical_access (kind : AccessKind) (n va : Nat) : Keeps Canonical (access kind n va) := (keeps_access kind n va).cachesCanonical

theorem canonical_placeWaits (kind : AccessKind) (p : Place) (n : Nat) : Keeps Canonical (placeWaits kind p n) :=
  keeps_placeWaits canonical_chain kind p n

theorem canonical_storeScalar (data base : Scalar) (size : Fin 4) (off : BitVec 11) : Keeps Canonical (storeScalar data base size off) := by
  refine canonical_bind (canonical_checkSrc _) fun _ => canonical_bind (canonical_checkSrc _) fun _ => canonical_bind (canonical_readClean _) fun b =>
    canonical_bind (canonical_check _ _ _) fun _ => canonical_bind (canonical_access _ _ _) fun p => canonical_bind (canonical_placeWaits _ _ _) fun w => ?_
  have hrest : Keeps Canonical (do
      checkChip p (2 ^ size.val) (scalarAddr b off size).toNat
      let v ← readScalar data
      writePlace p (2 ^ size.val) (scalarAddr b off size).toNat (v.bits.toNat % 2 ^ (8 * 2 ^ size.val))
        (if v.mark then 2 ^ 2 ^ size.val - 1 else 0)
      pure Flow.done) :=
    canonical_bind (canonical_checkChip _ _ _) fun _ => canonical_bind (canonical_readScalar _) fun _ =>
      canonical_bind (canonical_writePlace _ _ _ _ _) fun _ => canonical_pure _
  split
  · dsimp only
    split
    · exact fun _ => trivial
    · refine canonical_bind canonical_cur fun _ => ?_
      split
      · exact fun _ => trivial
      · exact hrest
  · dsimp only
    split
    · exact fun _ => trivial
    · exact hrest

end Sys2Proof.Machine
end

section
/-! PROOFS. O33: vector stores, tile accesses, and the field instructions that wait for their homes (R229, R230, R247 to R254). -/
namespace Sys2Proof.Machine
open Sys2Proof.Claims
open Sys2Proof.Safety (memoryOk)
variable {s t : State} {α β : Type}

/-! Vector stores (R247, R248). -/

theorem canonical_checkNamed (x : Scalar) : Keeps Canonical (checkNamed x) := (keeps_checkNamed x).readsCanonical

theorem canonical_checkNamedLanes (x : VSpec) : Keeps Canonical (checkNamedLanes x) := (keeps_checkNamedLanes x).readsCanonical

theorem canonical_writeLanes (ps : List Piece) (lanes : List (Nat × Nat)) (v : Vec) : Keeps Canonical (writeLanes ps lanes v) := by
  refine canonical_bind (canonical_forM (fun x => ?_) _) fun _ => canonical_forM (fun p => ?_) _
  · split
    · exact canonical_pure _
    · dsimp only
      split
      · exact canonical_storePage _ _ _ _ _
      · exact canonical_writeSlice _ _ _ _
      · exact canonical_writePlace _ _ _ _ _
      · exact canonical_pure _
  · split
    · exact canonical_bind canonical_get fun _ => canonical_bind (canonical_orRaise _) fun _ =>
        fun _ => keepsAt_get (canonical_setOrRaise fun _ => canonical_chipWrite)
    · exact canonical_pure _

theorem canonical_finishStore (src : VSpec) (ps : List Piece) (lanes : List (Nat × Nat)) : Keeps Canonical (finishStore src ps lanes) := by
  refine canonical_bind (keeps_piecesWait canonical_chain _ _) fun w => ?_
  dsimp only
  split
  · exact fun _ => trivial
  · exact canonical_bind (canonical_forM (fun _ => canonical_checkChip _ _ _) _) fun _ => canonical_bind (canonical_readVec _) fun _ =>
      canonical_bind (canonical_writeLanes _ _ _) fun _ => canonical_pure _

theorem canonical_lanePieces (kind : AccessKind) (lanes : List (Nat × Nat)) : Keeps Canonical (lanePieces kind lanes) :=
  (keeps_lanePieces kind lanes).cachesCanonical

theorem canonical_vecPieces (kind : AccessKind) (block : Bool) (n va : Nat) : Keeps Canonical (vecPieces kind block n va) :=
  (keeps_vecPieces kind block n va).cachesCanonical

/-- What is left of VST once its operands are read: a block of `n` bytes. -/
theorem canonical_blockStore (x : VSpec) (n : Nat) (vs : List Val) : Keeps Canonical (do
    let va ← blockAddr vs
    let ps ← vecPieces .write true n va
    finishStore x ps ((laneList (← activeLanes)).map (fun l => (l, va + 4 * l)))) :=
  canonical_bind (keeps_blockAddr canonical_chain _) fun _ => canonical_bind (canonical_vecPieces _ _ _ _) fun _ =>
    canonical_bind canonical_activeLanes fun _ => canonical_finishStore _ _ _

/-- The stores that spread a vector over memory. -/
theorem canonical_storeBody {i : Instr} (h : (∃ x b o, i = .vst x b o) ∨ (∃ x b o, i = .vsts x b o) ∨ (∃ x b o, i = .vscatter x b o) ∨
    ∃ d b z o, i = .st d b z o) : ∃ body, (∀ s, exec i s = issue i body s) ∧ Keeps Canonical body := by
  obtain ⟨x, b, o, rfl⟩ | ⟨x, b, o, rfl⟩ | ⟨x, b, o, rfl⟩ | ⟨d, b, z, o, rfl⟩ := h
  · exact ⟨_, fun _ => rfl, canonical_bind (canonical_checkSrc _) fun _ => canonical_bind (canonical_checkSrc _) fun _ =>
      canonical_bind (canonical_checkVSrc _) fun _ => canonical_bind (canonical_checkNamed _) fun _ =>
      canonical_bind (canonical_checkNamed _) fun _ => canonical_bind (canonical_readScalar _) fun _ =>
      canonical_bind (canonical_readScalar _) fun _ => canonical_blockStore _ 512 _⟩
  · exact ⟨_, fun _ => rfl, canonical_bind (canonical_checkSrc _) fun _ => canonical_bind (canonical_checkSrc _) fun _ =>
      canonical_bind (canonical_checkVSrc _) fun _ => canonical_bind (canonical_checkNamed _) fun _ =>
      canonical_bind (canonical_checkNamed _) fun _ => canonical_bind (canonical_readClean _) fun _ =>
      canonical_bind (canonical_readClean _) fun _ => canonical_bind canonical_activeLanes fun _ =>
      canonical_bind (canonical_lanePieces _ _) fun _ => canonical_finishStore _ _ _⟩
  · exact ⟨_, fun _ => rfl, canonical_bind (canonical_checkSrc _) fun _ => canonical_bind (canonical_checkVSrc _) fun _ =>
      canonical_bind (canonical_checkVSrc _) fun _ => canonical_bind (canonical_checkNamed _) fun _ =>
      canonical_bind (canonical_checkNamedLanes _) fun _ => canonical_bind (canonical_readClean _) fun _ =>
      canonical_bind (canonical_readVec _) fun _ => canonical_bind canonical_activeLanes fun _ =>
      canonical_bind (keeps_offsetLanes canonical_chain _ _ _) fun _ =>
      canonical_bind (canonical_lanePieces _ _) fun _ => canonical_finishStore _ _ _⟩
  · exact ⟨_, fun _ => rfl, canonical_storeScalar _ _ _ _⟩

/-! Tiles (R253, R254). -/

theorem canonical_vaccChunk (tile : Fin 16) (k : Scalar) (reads : Bool) : Keeps Canonical (vaccChunk tile k reads) :=
  (keeps_vaccChunk tile k reads).readsCanonical

theorem canonical_tileZero (s : State) (c : Context) (tl : Nat) : Canonical s (s.tileZero c tl) := by
  rw [State.tileZero]
  exact canonical_of_acc (Mem.wf_clear _ _)

theorem canonical_reviveTile (tl : Nat) : Keeps Canonical (reviveTile tl) := by
  refine canonical_bind canonical_cur fun c => ?_
  split
  · exact canonical_bind (canonical_modify fun s => canonical_tileZero s c tl) fun _ => canonical_modCur _
  · exact canonical_pure _

theorem canonical_writeChunk (tile k : Nat) (m : BitVec 128) (v : Vec) : Keeps Canonical (writeChunk tile k m v) := by
  rw [writeChunk]
  split
  · exact canonical_pure _
  · refine canonical_bind (canonical_reviveTile tile) fun _ => canonical_bind canonical_cur fun c => canonical_modify fun s => ?_
    exact canonical_of_acc fun h => List.foldlRecOn (motive := fun m : Mem => m.wf = true) _ _ h fun m hm _ _ => (Mem.within_writeN _ _ _ _).1 hm

theorem canonical_raiseFlagsN (n : Nat) : Keeps Canonical (raiseFlagsN n) :=
  (keeps_raiseFlagsN_only (ds := []) (fl := true) n (nomatch ·)).mono RegisterOnly.canonical

theorem canonical_tileBody {i : Instr} (h : (∃ x tl k, i = .vsta x tl k) ∨ ∃ x tl k, i = .vadda x tl k) :
    ∃ body, (∀ s, exec i s = issue i body s) ∧ Keeps Canonical body := by
  obtain ⟨x, tl, k, rfl⟩ | ⟨x, tl, k, rfl⟩ := h
  · refine ⟨_, fun _ => rfl, canonical_bind (canonical_checkSrc _) fun _ => canonical_bind (canonical_checkVSrc _) fun _ =>
      canonical_bind (canonical_vaccChunk _ _ _) fun _ => ?_⟩
    exact canonical_bind (canonical_readVec _) fun _ => canonical_bind canonical_activeLanes fun _ =>
      canonical_bind (canonical_writeChunk _ _ _ _) fun _ => canonical_pure _
  · refine ⟨_, fun _ => rfl, canonical_bind (canonical_checkSrc _) fun _ => canonical_bind (canonical_checkVSrc _) fun _ =>
      canonical_bind (canonical_vaccChunk _ _ _) fun _ => ?_⟩
    refine canonical_bind (canonical_readVec _) fun _ => canonical_bind canonical_activeLanes fun _ => canonical_bind canonical_get fun _ => ?_
    exact canonical_bind (canonical_writeChunk _ _ _ _) fun _ => canonical_bind (canonical_raiseFlagsN _) fun _ => canonical_pure _

end Sys2Proof.Machine
end

section
/-! PROOFS. O33: prepares, probes, freezes and fallows (R198, R201, R227 to R230). -/
namespace Sys2Proof.Machine
open Sys2Proof.Claims
open Sys2Proof.Safety (memoryOk)
variable {s t : State} {α β : Type}

/-! Parts that several instructions have. -/

theorem canonical_raise (code : FaultCode) (addr : Word) : Keeps Canonical (raise code addr : M α) := fun _ => trivial

theorem canonical_throwStall : Keeps Canonical (throw .stall : M α) := fun _ => trivial

theorem canonical_fieldAccess (kind : AccessKind) (refuse : Leaf → Option FaultCode) (ea : Word) :
    Keeps Canonical (fieldAccess kind refuse ea) := (keeps_fieldAccess kind refuse ea).cachesCanonical

theorem canonical_waitAcks (stores : Bool) : Keeps Canonical (waitAcks stores) := (keeps_waitAcks stores).readsCanonical

theorem canonical_deliverPosted : Keeps Canonical deliverPosted := keeps_deliverPosted canonical_chain

theorem canonical_goBehind (drain : State → Held → Bool) (at_ : Nat → Bool) : Keeps Canonical (goBehind drain at_) :=
  (keeps_goBehind drain at_).readsCanonical

theorem canonical_sendTest (l : Leaf) (va : Nat) (k : TestKind) : Keeps Canonical (sendTest l va k) := (keeps_sendTest l va k).readsCanonical

theorem canonical_markNd : Keeps Canonical markNd := canonical_modRegs _

theorem canonical_replayed (kind : Nat) : Keeps Canonical (replayed kind) := by
  refine canonical_bind canonical_get fun s => ?_
  dsimp only
  split
  · exact canonical_pure _
  split
  · exact canonical_raise _ _
  split
  · exact canonical_raise _ _
  split
  · exact canonical_pure _
  · exact canonical_raise _ _

theorem canonical_logOutcome (kind : Nat) (out : List Word) : Keeps Canonical (logOutcome kind out) := by
  refine canonical_bind canonical_get fun s => ?_
  dsimp only
  split
  · split
    · exact canonical_pure _
    · split
      · exact canonical_modify fun u => canonical_chain.trans (canonical_writeN u _ _ _ _) (canonical_of_eq rfl rfl rfl rfl)
      · exact canonical_pure _
  · exact canonical_pure _

/-! Prepares. -/

theorem canonical_prepareBody {i : Instr} (h : (∃ n imm, i = .prep n imm) ∨ (∃ n a, i = .prepr n a) ∨ (∃ n x y, i = .prepx n x y) ∨
    ∃ n l, i = .pmove n l) : ∃ body, (∀ s, exec i s = issue i body s) ∧ Keeps Canonical body := by
  obtain ⟨n, imm, rfl⟩ | ⟨n, a, rfl⟩ | ⟨n, x, y, rfl⟩ | ⟨n, l, rfl⟩ := h
  · exact ⟨_, fun _ => rfl, canonical_bind canonical_cur fun _ => canonical_bind (canonical_prepareTarget _ _ _) fun _ => canonical_pure _⟩
  · exact ⟨_, fun _ => rfl, canonical_bind (canonical_checkSrc _) fun _ => canonical_bind (canonical_readClean _) fun _ =>
      canonical_bind (canonical_prepareTarget _ _ _) fun _ => canonical_pure _⟩
  · exact ⟨_, fun _ => rfl, canonical_bind (canonical_checkSrc _) fun _ => canonical_bind (canonical_checkSrc _) fun _ =>
      canonical_bind (canonical_readClean _) fun _ => canonical_bind (canonical_readClean _) fun _ =>
      canonical_bind (canonical_jumpTable _ _) fun _ => canonical_bind (canonical_prepareTarget _ _ _) fun _ => canonical_pure _⟩
  · exact ⟨_, fun _ => rfl, canonical_bind canonical_cur fun _ => canonical_bind (canonical_setTarget _ _) fun _ => canonical_pure _⟩

/-! PROBE. -/

theorem canonical_endProbe (d : Scalar) (mark : Bool) (x : Word) : Keeps Canonical (endProbe d mark x) :=
  canonical_bind (canonical_writeScalar _ _) fun _ => canonical_bind (canonical_logOutcome _ _) fun _ =>
    canonical_bind canonical_markNd fun _ => canonical_pure _

theorem canonical_probeCode (ea : Word) (r : TestResult) : Keeps Canonical (probeCode ea r) := by
  rw [probeCode.eq_def]
  split
  case h_5 => exact canonical_raise _ _
  case h_6 => exact canonical_bind canonical_get fun _ => canonical_bind canonical_cur fun _ => canonical_raiseInfo _
  all_goals exact canonical_pure _

theorem canonical_probeCell (d addr trig : Scalar) : Keeps Canonical (probeCell d addr trig) := by
  refine canonical_bind canonical_cur fun _ => canonical_bind (canonical_check _ _ _) fun _ => canonical_bind (canonical_checkSrc _) fun _ =>
    canonical_bind (canonical_checkSrc _) fun _ => canonical_bind (canonical_checkDst _) fun _ => canonical_bind (canonical_readOnce _) fun vs =>
    canonical_bind (canonical_useClean _) fun ea => canonical_bind canonical_cur fun c => ?_
  split
  · exact canonical_bind (canonical_probeCode _ _) fun _ => canonical_endProbe _ _ _
  · split
    · exact canonical_pure _
    refine canonical_bind (canonical_fieldAccess _ _ _) fun l => canonical_bind (canonical_check _ _ _) fun _ =>
      canonical_bind (canonical_replayed _) fun r => ?_
    split
    · exact canonical_endProbe _ _ _
    · exact canonical_bind (canonical_sendTest _ _ _) fun _ => canonical_pure _

/-! FREEZE and FALLOW. -/

theorem canonical_rangePages (refuse : Leaf → Option FaultCode) (a n : Nat) : Keeps Canonical (rangePages refuse a n) :=
  keeps_mapM canonical_chain (fun _ => canonical_bind (canonical_fieldAccess _ _ _) fun _ => canonical_pure _) _

theorem canonical_freezeLines (pages : List (Nat × Leaf)) (a n : Nat) : Keeps Canonical (freezeLines pages a n) := by
  refine canonical_forM (fun p => canonical_forM (fun i => ?_) _) _
  dsimp only
  split
  · exact canonical_bind (canonical_newOut _ _ _ _) fun _ => canonical_bind canonical_cur fun _ =>
      canonical_bind (canonical_sendHome _ _ _) fun _ => canonical_modCur _
  · exact canonical_pure _

theorem canonical_behindAll : Keeps Canonical behindAll := canonical_bind canonical_get fun _ => canonical_pure _

theorem canonical_freezeBehind (refuse : Leaf → Option FaultCode) (a n : Nat) : Keeps Canonical (freezeBehind refuse a n) := by
  refine canonical_bind canonical_behindAll fun b => ?_
  split
  · exact canonical_pure _
  · exact canonical_bind (canonical_rangePages _ _ _) fun _ => canonical_bind (canonical_modCur _) fun _ =>
      canonical_bind (canonical_freezeLines _ _ _) fun _ => canonical_pure _

theorem canonical_ownFailure : Keeps Canonical ownFailure := by
  refine canonical_bind canonical_cur fun c => ?_
  dsimp only
  split
  · exact canonical_pure _
  · exact canonical_bind canonical_get fun _ => fun _ => trivial

theorem canonical_rangeOperands (g : Nat) (ea len : Word) : Keeps Canonical (rangeOperands g ea len) :=
  canonical_bind (canonical_check _ _ _) fun _ => canonical_check _ _ _

/-- A wait for acknowledgements (R76): it parks, or what follows goes on. -/
theorem canonical_afterAcks {stores : Bool} {w : AckWait} {k : M Flow} (hk : Keeps Canonical k) : Keeps Canonical (do
    if !(← waitAcks stores) then return .park (.acks w)
    k) := by
  refine canonical_bind (canonical_waitAcks _) fun b => ?_
  split
  · exact canonical_pure _
  · exact hk

theorem canonical_afterFreezes {refuse : Leaf → Option FaultCode} {a n : Nat} {k : M Flow} (hk : Keeps Canonical k) : Keeps Canonical (do
    if !(← freezeBehind refuse a n) then return .park (.acks .ahead)
    k) := by
  refine canonical_bind (canonical_freezeBehind _ _ _) fun b => ?_
  split
  · exact canonical_pure _
  · exact hk

theorem canonical_freezeRange (addr len : Scalar) : Keeps Canonical (freezeRange addr len) := by
  refine canonical_bind (canonical_checkSrc _) fun _ => canonical_bind (canonical_checkSrc _) fun _ => canonical_bind (canonical_readOnce _) fun vs =>
    canonical_bind (canonical_useClean _) fun ea => canonical_bind (canonical_useClean _) fun n => canonical_bind canonical_cur fun c => ?_
  have hend : Keeps Canonical (do
      if !(← waitAcks false) then return .park (.acks .fills)
      ownFailure
      return Flow.done) := canonical_afterAcks (canonical_bind canonical_ownFailure fun _ => canonical_pure _)
  have hfrozen : Keeps Canonical (do
      if (← cur).phase = 1 then
        if !(← freezeBehind (onlyTypes fieldType) ea.toNat n.toNat) then return .park (.acks .ahead)
      if !(← waitAcks false) then return .park (.acks .fills)
      ownFailure
      return Flow.done) := by
    refine canonical_bind canonical_cur fun _ => ?_
    dsimp only
    split
    · exact canonical_afterFreezes hend
    · exact hend
  dsimp only at hfrozen ⊢
  split
  · exact canonical_bind (canonical_rangeOperands _ _ _) fun _ => canonical_bind (canonical_rangePages _ _ _) fun _ => canonical_afterAcks
      (canonical_bind canonical_deliverPosted fun _ => canonical_bind (canonical_goBehind _ _) fun _ => hfrozen)
  · exact hfrozen

/-! The invalidation of a FALLOW (R77, R230). -/

theorem InvalBegun.canonical (h : InvalBegun s t) : Canonical s t := canonical_of_eq (by rw [h]) (by rw [h]) (by rw [h]) (by rw [h])

theorem canonical_bumpGen (s : State) (pa : Nat) : Canonical s (s.bumpGen pa) := by
  rw [State.bumpGen]
  exact canonical_writeN s _ _ _ _

theorem canonical_bumpGens (ls : List Nat) (s : State) : Canonical s (ls.foldl State.bumpGen s) := canonical_chain.foldl canonical_bumpGen ls s

theorem canonical_startInval (s : State) (by_ : Option Key) (asid : BitVec 12) (lo size : Nat) : Canonical s (s.startInval by_ asid lo size) :=
  (invalBegun_startInval s by_ asid lo size).canonical

theorem canonical_forgetLines (s : State) (first n : Nat) : Canonical s (s.forgetLines first n) := canonical_of_eq rfl rfl rfl rfl

theorem canonical_of_md {m : Memory} (hwf : s.md.wf = true → m.wf = true) : Canonical s { s with md := m } :=
  fun ⟨h1, h2, h3, h4⟩ => ⟨h1, h2, h3, hwf h4⟩

theorem canonical_resetLines (s : State) (asid : BitVec 12) (lo size : Nat) : Canonical s (s.resetLines asid lo size) := by
  refine canonical_chain.foldl (fun u p => ?_) _ s
  exact canonical_chain.trans (canonical_forgetLines u _ _) (canonical_of_md Memory.clear_wf)

theorem canonical_fallowRange (addr len : Scalar) : Keeps Canonical (fallowRange addr len) := by
  refine canonical_bind (canonical_checkSrc _) fun _ => canonical_bind (canonical_checkSrc _) fun _ => canonical_bind (canonical_readOnce _) fun vs =>
    canonical_bind (canonical_useClean _) fun ea => canonical_bind (canonical_useClean _) fun n => canonical_bind canonical_cur fun c => ?_
  have hend : Keeps Canonical (do
      let s ← get
      if s.invals.any (fun v => v.by_ == some s.cur.key) then return .park .invalidation
      modify fun s => s.resetLines s.cur.asid ea.toNat n.toNat
      return Flow.done) := by
    refine canonical_bind canonical_get fun s => ?_
    split
    · exact canonical_pure _
    · exact canonical_bind (canonical_modify fun s => canonical_resetLines s _ _ _) fun _ => canonical_pure _
  have hinval : Keeps Canonical (do
      if (← cur).phase = 2 then
        if !(← waitAcks false) then return .park (.acks .fills)
        ownFailure
        let c ← cur
        modify fun s =>
          (((s.leaves c.asid ea.toNat n.toNat).map (fun p => p.2.1)).foldl State.bumpGen s).startInval (some c.key)
            c.asid ea.toNat n.toNat
        modCur fun c => { c with phase := 3 }
      let s ← get
      if s.invals.any (fun v => v.by_ == some s.cur.key) then return .park .invalidation
      modify fun s => s.resetLines s.cur.asid ea.toNat n.toNat
      return Flow.done) := by
    refine canonical_bind canonical_cur fun _ => ?_
    dsimp only
    split
    · exact canonical_afterAcks (canonical_bind canonical_ownFailure fun _ => canonical_bind canonical_cur fun _ =>
        canonical_bind (canonical_modify fun s => canonical_chain.trans (canonical_bumpGens _ s) (canonical_startInval _ _ _ _ _)) fun _ =>
        canonical_bind (canonical_modCur _) fun _ => hend)
    · exact hend
  have hfrozen : Keeps Canonical (do
      if (← cur).phase = 1 then
        if !(← freezeBehind refuseFallow ea.toNat n.toNat) then return .park (.acks .ahead)
      if (← cur).phase = 2 then
        if !(← waitAcks false) then return .park (.acks .fills)
        ownFailure
        let c ← cur
        modify fun s =>
          (((s.leaves c.asid ea.toNat n.toNat).map (fun p => p.2.1)).foldl State.bumpGen s).startInval (some c.key)
            c.asid ea.toNat n.toNat
        modCur fun c => { c with phase := 3 }
      let s ← get
      if s.invals.any (fun v => v.by_ == some s.cur.key) then return .park .invalidation
      modify fun s => s.resetLines s.cur.asid ea.toNat n.toNat
      return Flow.done) := by
    refine canonical_bind canonical_cur fun _ => ?_
    dsimp only at hinval ⊢
    split
    · exact canonical_afterFreezes hinval
    · exact hinval
  dsimp only at hfrozen ⊢
  split
  · refine canonical_bind (canonical_rangeOperands _ _ _) fun _ => canonical_bind (canonical_rangePages _ _ _) fun _ => ?_
    split
    · exact fun _ => trivial
    · exact canonical_afterAcks (canonical_bind (canonical_goBehind _ _) fun _ => hfrozen)
  · exact hfrozen

end Sys2Proof.Machine
end

section
/-! PROOFS. O33: task records, sends and channel twins (R280 to R286). -/
namespace Sys2Proof.Machine
open Sys2Proof.Claims
open Sys2Proof.Safety (memoryOk)
variable {s t : State} {α β : Type}

/-! Records read (R280). -/

theorem canonical_recordPart (n va : Nat) : Keeps Canonical (recordPart n va) := by
  refine canonical_bind (keeps_steer _ _ _).cachesCanonical fun p => ?_
  split
  · split
    · exact canonical_pure _
    · exact canonical_raiseInfo _
  · exact canonical_raise _ _
  · exact canonical_raise _ _
  · exact canonical_pure _

theorem canonical_recordParts (va : Nat) : Keeps Canonical (recordParts va) := by
  rw [recordParts]
  split
  · exact canonical_bind (canonical_recordPart _ _) fun _ => canonical_bind (canonical_recordPart _ _) fun _ => canonical_pure _
  · exact canonical_bind (canonical_recordPart _ _) fun _ => canonical_pure _

theorem canonical_readPlace (p : Place) (n va : Nat) : Keeps Canonical (readPlace p n va) := (keeps_readPlace p n va).readsCanonical

theorem canonical_readConst (l : Leaf) (e : Word) : Keeps Canonical (readConst l e) := (keeps_readConst l e).readsCanonical

theorem canonical_recordWord (ps : List Piece) (va : Nat) : Keeps Canonical (recordWord ps va) := by
  rw [recordWord]
  split
  · exact canonical_pure _
  split
  · split
    · exact canonical_bind (canonical_readConst _ _) fun _ => canonical_pure _
    · refine canonical_bind (canonical_readPlace _ _ _) fun x => ?_
      split <;> exact canonical_pure _
  · refine canonical_bind (canonical_readPlace _ _ _) fun x => ?_
    split <;> exact canonical_pure _
  · exact canonical_bind canonical_get fun _ => canonical_pure _
  · exact canonical_pure _

theorem canonical_piecesWait (kind : AccessKind) (ps : List Piece) : Keeps Canonical (piecesWait kind ps) := keeps_piecesWait canonical_chain kind ps

theorem canonical_obtain (exact_ : Bool) (need : List (Leaf × Nat)) : Keeps Canonical (obtain exact_ need) := (keeps_obtain exact_ need).readsCanonical

theorem canonical_readRecord (ea : Word) (high : Bool) : Keeps Canonical (readRecord ea high) := by
  refine canonical_bind (canonical_check _ _ _) fun _ => canonical_bind (canonical_recordParts _) fun ps =>
    canonical_bind (canonical_piecesWait _ _) fun w => ?_
  split
  · exact canonical_pure _
  refine canonical_bind (canonical_obtain _ _) fun b => ?_
  split
  · exact canonical_pure _
  · exact canonical_bind (keeps_mapM canonical_chain (fun _ => canonical_recordWord _ _) _) fun _ => canonical_bind (canonical_check _ _ _) fun _ =>
      canonical_bind (canonical_check _ _ _) fun _ => canonical_bind (canonical_check _ _ _) fun _ => canonical_bind canonical_cur fun _ =>
      canonical_bind (canonical_check _ _ _) fun _ => canonical_pure _

theorem canonical_takeRecord (k : Nat) (ea : Word) (high : Bool) : Keeps Canonical (takeRecord k ea high) := by
  refine canonical_bind canonical_cur fun c => ?_
  dsimp only
  split
  · exact canonical_pure _
  refine canonical_bind (canonical_readRecord _ _) fun x => ?_
  split
  · exact canonical_pure _
  · exact canonical_bind (canonical_modCur _) fun _ => canonical_pure _

/-! Spawns and sends (R281 to R285). -/

/-- The same wait where what follows stands still meanwhile. -/
theorem canonical_stallUntil {m : M Bool} {k : M Flow} (hm : Keeps Canonical m) (hk : Keeps Canonical k) : Keeps Canonical (do
    if !(← m) then return .stall
    k) := by
  refine canonical_bind hm fun b => ?_
  split
  · exact canonical_pure _
  · exact hk

theorem canonical_clearAhead (key : Nat) : Keeps Canonical (clearAhead key) := by
  refine canonical_bind canonical_cur fun c => ?_
  dsimp only
  split
  · exact canonical_bind (canonical_goBehind _ _) fun _ => canonical_behindAll
  · exact canonical_behindAll

theorem canonical_pushDeque (s : State) (c : Nat) (r : TaskRec) : Canonical s (s.pushDeque c r) := canonical_modCore s c _

theorem canonical_putInbox (s : State) (c : Nat) (high : Bool) (r : TaskRec) : Canonical s (s.putInbox c high r) := canonical_modCore s c _

theorem canonical_spawnTask (record arg : Scalar) : Keeps Canonical (spawnTask record arg) := by
  refine canonical_bind (canonical_checkSrc _) fun _ => canonical_bind (canonical_checkSrc _) fun _ => canonical_bind (canonical_readOnce _) fun vs =>
    canonical_bind (canonical_useClean _) fun ea => canonical_bind (canonical_takeRecord _ _ _) fun x => ?_
  split
  · exact canonical_pure _
  · exact canonical_stallUntil (canonical_waitAcks _) (canonical_bind canonical_cur fun _ =>
      canonical_bind (canonical_modify fun s => canonical_pushDeque s _ _) fun _ => canonical_pure _)

theorem canonical_spawnWatch (record cell trig : Scalar) : Keeps Canonical (spawnWatch record cell trig) := by
  refine canonical_bind (canonical_checkSrc _) fun _ => canonical_bind (canonical_checkSrc _) fun _ => canonical_bind (canonical_checkSrc _) fun _ =>
    canonical_bind (canonical_readOnce _) fun vs => canonical_bind (canonical_useClean _) fun ea =>
    canonical_bind (canonical_takeRecord _ _ _) fun x => ?_
  split
  · exact canonical_pure _
  · exact canonical_bind (canonical_useClean _) fun _ => canonical_bind (canonical_fieldAccess _ _ _) fun _ =>
      canonical_bind (canonical_check _ _ _) fun _ => canonical_stallUntil (canonical_waitAcks _)
      (canonical_stallUntil (canonical_clearAhead _) (canonical_bind canonical_cur fun _ => canonical_bind (canonical_sendHome _ _ _) fun _ =>
        canonical_pure _))

theorem canonical_sendCore (x : Val) : Keeps Canonical (sendCore x) :=
  canonical_bind (canonical_useClean _) fun _ => canonical_bind (canonical_check _ _ _) fun _ => canonical_pure _

theorem canonical_tryDeliver (core : Nat) (high : Bool) (r : TaskRec) : Keeps Canonical (tryDeliver core high r) := by
  refine fun s => keepsAt_get ?_
  split
  · exact canonical_pure _ s
  split
  · exact keepsAt_set canonical_chain (canonical_putInbox s _ _ _) (canonical_pure _ _)
  · exact canonical_pure _ s

theorem canonical_sendTask (high : Bool) (core record : Scalar) : Keeps Canonical (sendTask high core record) := by
  refine canonical_bind (canonical_checkSrc _) fun _ => canonical_bind (canonical_checkSrc _) fun _ => canonical_bind (canonical_readOnce _) fun vs =>
    canonical_bind (canonical_sendCore _) fun n => canonical_bind (canonical_useClean _) fun ea => canonical_bind (canonical_takeRecord _ _ _) fun x => ?_
  split
  · exact canonical_pure _
  · refine canonical_stallUntil (canonical_waitAcks _) (canonical_bind (canonical_tryDeliver _ _ _) fun b => ?_)
    split <;> exact canonical_pure _

/-- How an instruction that logs what it met ends (R377). -/
theorem canonical_endTwin (kind : Nat) (st : Scalar) (x : Word) (more : List Word) : Keeps Canonical (endTwin kind st x more) :=
  canonical_bind (canonical_writeScalar _ _) fun _ => canonical_bind (canonical_logOutcome _ _) fun _ =>
    canonical_bind canonical_markNd fun _ => canonical_pure _

theorem canonical_trySend (kind : Nat) (high : Bool) (d core record : Scalar) : Keeps Canonical (trySend kind high d core record) := by
  refine canonical_bind canonical_cur fun _ => canonical_bind (canonical_check _ _ _) fun _ => canonical_bind (canonical_checkSrc _) fun _ =>
    canonical_bind (canonical_checkSrc _) fun _ => canonical_bind (canonical_checkDst _) fun _ => canonical_bind (canonical_readOnce _) fun vs =>
    canonical_bind (canonical_sendCore _) fun n => canonical_bind (canonical_useClean _) fun ea => canonical_bind (canonical_takeRecord _ _ _) fun x => ?_
  split
  · exact canonical_pure _
  · refine canonical_stallUntil (canonical_waitAcks _) (canonical_bind (canonical_replayed _) fun logged => ?_)
    have hend (sent : Bool) : Keeps Canonical (endTwin kind d (if sent then 0 else 1) []) := canonical_endTwin _ _ _ _
    dsimp only
    cases logged with
    | none => exact canonical_bind (canonical_tryDeliver _ _ _) fun sent => hend sent
    | some out =>
      have hsent (sent : Bool) : Keeps Canonical (if (decide (out.headD 0 = 0) && !sent) = true then pure Flow.stall
          else endTwin kind d (if sent then 0 else 1) []) := by
        split
        · exact canonical_pure _
        · exact hend sent
      dsimp only
      split
      · exact canonical_bind (canonical_tryDeliver _ _ _) fun sent => hsent sent
      · exact canonical_bind (canonical_pure _) fun sent => hsent sent

/-! Channel twins (R286). -/

theorem canonical_twinPort (x : Scalar) (sending wide : Option Bool) : Keeps Canonical (twinPort x sending wide) := by
  rw [twinPort.eq_def]
  split
  · refine canonical_bind canonical_cur fun c => ?_
    split
    · exact canonical_raise _ _
    refine canonical_bind (canonical_check _ _ _) fun _ => canonical_bind canonical_get fun s => ?_
    split
    · exact canonical_raise _ _
    · exact canonical_bind (canonical_check _ _ _) fun _ => canonical_pure _
  · exact canonical_raise _ _

theorem canonical_draw : Keeps Canonical draw := fun _ => keepsAt_get (keepsAt_set canonical_chain (canonical_of_eq rfl rfl rfl rfl) (canonical_pure _ _))

theorem canonical_setChan (s : State) (ch : Channel) : Canonical s (s.setChan ch) := canonical_of_eq rfl rfl rfl rfl

theorem canonical_itemsSeen (ch : Channel) : Keeps Canonical (itemsSeen ch) :=
  canonical_bind canonical_draw fun _ => canonical_bind (canonical_modify fun s => canonical_setChan s _) fun _ => canonical_pure _

theorem canonical_slotsSeen (ch : Channel) : Keeps Canonical (slotsSeen ch) :=
  canonical_bind canonical_draw fun _ s => keepsAt_get (keepsAt_set canonical_chain (canonical_setChan s _) (canonical_pure _ _))

theorem canonical_twinActs {kind : Nat} {able now : M Bool} (hable : Keeps Canonical able) (hnow : Keeps Canonical now) :
    Keeps Canonical (twinActs kind able now) := by
  refine canonical_bind (canonical_replayed _) fun x => ?_
  split
  · exact hable
  split
  · refine canonical_bind hnow fun b => ?_
    split
    · exact canonical_pure _
    · exact canonical_throwStall
  · exact canonical_pure _

theorem canonical_twinTake (kind : Nat) (p : Fin 8) (ch : Channel) : Keeps Canonical (twinTake kind p ch) := by
  refine canonical_bind (canonical_twinActs (canonical_bind (canonical_itemsSeen _) fun _ => canonical_pure _) (canonical_pure _)) fun b => ?_
  split
  · exact canonical_bind ((keeps_takeItem _).mono ChansOnly.canonical) fun _ => canonical_pure _
  · exact canonical_pure _

theorem canonical_putItem (p : Fin 8) (x : Vec) : Keeps Canonical (putItem p x) :=
  (keeps_putItem_only (ds := []) (fl := true) p x).mono RegisterOnly.canonical

theorem canonical_twinSend (kind : Nat) (st : Scalar) (p : Fin 8) (ch : Channel) (x : Vec) : Keeps Canonical (twinSend kind st p ch x) := by
  refine canonical_bind (canonical_twinActs (canonical_bind (canonical_slotsSeen _) fun _ => canonical_pure _)
    (canonical_bind canonical_get fun _ => canonical_pure _)) fun b => ?_
  split
  · exact canonical_bind (canonical_putItem _ _) fun _ => canonical_endTwin _ _ _ _
  · exact canonical_endTwin _ _ _ _

theorem canonical_ctryrecv (st port data : Scalar) : ∃ body, (∀ s, exec (.ctryrecv st port data) s = issue (.ctryrecv st port data) body s) ∧
    Keeps Canonical body := by
  refine ⟨_, fun _ => rfl, canonical_bind canonical_cur fun _ => canonical_bind (canonical_check _ _ _) fun _ =>
    canonical_bind (canonical_twinPort _ _ _) fun _ => canonical_bind (canonical_checkDst _) fun _ => canonical_bind (canonical_checkDst _) fun _ =>
    canonical_bind (canonical_twinTake _ _ _) fun x => ?_⟩
  split
  · exact canonical_bind (canonical_writeScalar _ _) fun _ => canonical_endTwin _ _ _ _
  · split
    · exact canonical_bind (canonical_writeScalar _ _) fun _ => canonical_endTwin _ _ _ _
    · exact canonical_endTwin _ _ _ _

theorem canonical_ctryrecvV (st port : Scalar) (data : VSpec) :
    ∃ body, (∀ s, exec (.ctryrecvV st port data) s = issue (.ctryrecvV st port data) body s) ∧ Keeps Canonical body := by
  refine ⟨_, fun _ => rfl, canonical_bind canonical_cur fun _ => canonical_bind (canonical_check _ _ _) fun _ =>
    canonical_bind (canonical_twinPort _ _ _) fun _ => canonical_bind (keeps_checkVDst canonical_chain _) fun _ =>
    canonical_bind (canonical_checkDst _) fun _ => canonical_bind (canonical_twinTake _ _ _) fun x => ?_⟩
  split
  · exact canonical_bind (canonical_writeVec _ _) fun _ => canonical_endTwin _ _ _ _
  · split
    · exact canonical_bind (canonical_writeVec _ _) fun _ => canonical_endTwin _ _ _ _
    · exact canonical_endTwin _ _ _ _

theorem canonical_ccount (d port : Scalar) : ∃ body, (∀ s, exec (.ccount d port) s = issue (.ccount d port) body s) ∧ Keeps Canonical body := by
  refine ⟨_, fun _ => rfl, canonical_bind canonical_cur fun _ => canonical_bind (canonical_check _ _ _) fun _ =>
    canonical_bind (canonical_twinPort _ _ _) fun _ => canonical_bind (canonical_checkDst _) fun _ =>
    canonical_bind (canonical_replayed _) fun x => ?_⟩
  split
  · exact canonical_endTwin _ _ _ _
  · split
    · exact canonical_bind (canonical_slotsSeen _) fun _ => canonical_endTwin _ _ _ _
    · exact canonical_bind (canonical_itemsSeen _) fun _ => canonical_endTwin _ _ _ _

/-- The instructions on task records and channels. -/
def tasksAndTwins : Instr → Bool
  | .spawn .. | .spawnw .. | .send .. | .sendHi .. | .sendNb .. | .sendHiNb .. | .ctryrecv .. | .ctryrecvV .. | .ctrysend .. | .ctrysendV ..
  | .ccount .. => true
  | _ => false

theorem canonical_taskBody {i : Instr} (h : tasksAndTwins i = true) : ∃ body, (∀ s, exec i s = issue i body s) ∧ Keeps Canonical body := by
  cases i with
  | spawn r a => exact ⟨_, fun _ => rfl, canonical_spawnTask r a⟩
  | spawnw r c tr => exact ⟨_, fun _ => rfl, canonical_spawnWatch r c tr⟩
  | send c r => exact ⟨_, fun _ => rfl, canonical_sendTask false c r⟩
  | sendHi c r => exact ⟨_, fun _ => rfl, canonical_sendTask true c r⟩
  | sendNb d c r => exact ⟨_, fun _ => rfl, canonical_trySend 6 false d c r⟩
  | sendHiNb d c r => exact ⟨_, fun _ => rfl, canonical_trySend 7 true d c r⟩
  | ctryrecv st p d => exact canonical_ctryrecv st p d
  | ctryrecvV st p d => exact canonical_ctryrecvV st p d
  | ctrysend st p x =>
    exact ⟨_, fun _ => rfl, canonical_bind canonical_cur fun _ => canonical_bind (canonical_check _ _ _) fun _ =>
      canonical_bind (canonical_twinPort _ _ _) fun _ => canonical_bind (canonical_checkDst _) fun _ => canonical_bind (canonical_readScalar _) fun _ =>
      canonical_twinSend _ _ _ _ _⟩
  | ctrysendV st p x =>
    exact ⟨_, fun _ => rfl, canonical_bind canonical_cur fun _ => canonical_bind (canonical_check _ _ _) fun _ =>
      canonical_bind (canonical_twinPort _ _ _) fun _ => canonical_bind (canonical_checkVSrc _) fun _ => canonical_bind (canonical_checkDst _) fun _ =>
      canonical_bind (canonical_readVec _) fun _ => canonical_twinSend _ _ _ _ _⟩
  | ccount d p => exact canonical_ccount d p
  | _ => nomatch h

end Sys2Proof.Machine
end

section
/-! PROOFS. O33: the fences and the system instructions (R287 to R303). -/
namespace Sys2Proof.Machine
open Sys2Proof.Claims
open Sys2Proof.Safety (memoryOk)
variable {s t : State} {α β : Type}

/-! Fences. -/

theorem canonical_acquire : Keeps Canonical acquire :=
  canonical_bind canonical_cur fun _ => canonical_modify fun _ => canonical_of_eq rfl rfl rfl rfl

theorem canonical_drainHeld (s : State) (core : Nat) (p : Held → Bool) : Canonical s (s.drainHeld core p) := (freed_drainHeld s core p).canonical

theorem canonical_fence (acq rel : Bool) (scope : Fin 4) : Keeps Canonical (fence acq rel scope) := by
  have hend : Keeps Canonical (do
      deliverPosted
      if acq then acquire
      return Flow.done) := by
    refine canonical_bind canonical_deliverPosted fun _ => ?_
    dsimp only
    split
    · exact canonical_bind canonical_acquire fun _ => canonical_pure _
    · exact canonical_pure _
  rw [fence]
  dsimp only at hend ⊢
  split
  · refine canonical_bind canonical_cur fun c => canonical_bind (canonical_modify fun s => canonical_drainHeld s _ _) fun _ =>
      canonical_bind canonical_cur fun d => ?_
    split
    · exact canonical_pure _
    · exact hend
  · exact hend

/-! The end of a task. -/

theorem canonical_settleLaunch (s : State) (id : Nat) : Canonical s (s.settleLaunch id) := by
  obtain ⟨ls, m, qs, v, h⟩ := settleLaunch_eq (s := s) id
  have hmem : (s.settleLaunch id).mem = m := by rw [h]
  rw [h]
  refine canonical_chain.trans (canonical_of_mem (m := m) fun hs => hmem ▸ settleLaunch_mem_wf id hs) (canonical_of_eq rfl rfl rfl rfl)

theorem canonical_freeCtx (s : State) (c : Context) : Canonical s (s.freeCtx c) := by
  obtain ⟨_, _, _, _, _, h⟩ := freeCtx_eq s c
  obtain ⟨_, _, h'⟩ := dropCtx_eq s c.key
  rw [h, h']
  exact canonical_of_eq rfl rfl rfl rfl

theorem canonical_countEnd (s : State) (c : Context) (reaped : Bool) : Canonical s (s.countEnd c reaped) := canonical_of_eq rfl rfl rfl rfl

theorem canonical_finishTask : Keeps Canonical finishTask :=
  canonical_bind canonical_cur fun c => canonical_bind (canonical_modify fun s => canonical_chain.trans (canonical_countEnd s c false)
    (canonical_chain.trans (canonical_freeCtx _ _) (canonical_settleLaunch _ _))) fun _ => canonical_pure _

theorem canonical_commandsDone : Keeps Canonical commandsDone := by
  refine canonical_bind canonical_cur fun c => ?_
  split
  · exact canonical_pure _
  split
  · exact fun _ => trivial
  · exact canonical_pure _

theorem canonical_joinCell (l : Leaf) (va w : Nat) (x : Int) (mark rel : Bool) : Keeps Canonical (joinCell l va w x mark rel) :=
  (keeps_joinCell l va w x mark rel).readsCanonical

theorem canonical_completionJoin (cell : BitVec 48) : Keeps Canonical (completionJoin cell) :=
  canonical_bind (canonical_fieldAccess _ _ _) fun _ => canonical_bind (canonical_check _ _ _) fun _ => canonical_bind canonical_cur fun _ =>
    canonical_bind (canonical_joinCell _ _ _ _ _ _) fun _ => canonical_modCur _

theorem canonical_reportCompletionJoin : Keeps Canonical reportCompletionJoin := by
  refine canonical_bind canonical_cur fun c => ?_
  split
  · exact canonical_pure _
  · exact canonical_modify fun s => canonical_postRecord s _

theorem canonical_wakeSenders (s : State) : Canonical s s.wakeSenders := (inContexts_wakeSenders s).canonical

theorem canonical_endBody (halt : Bool) : Keeps Canonical (endBody halt) := by
  have hend : Keeps Canonical (do
      if !(← waitAcks true) then return .park (.acks .all)
      reportCompletionJoin
      finishTask) := canonical_afterAcks (canonical_bind canonical_reportCompletionJoin fun _ => canonical_finishTask)
  refine canonical_bind canonical_cur fun c => ?_
  dsimp only
  split
  · refine canonical_afterAcks (canonical_bind canonical_deliverPosted fun _ => canonical_bind canonical_commandsDone fun b => ?_)
    split
    · exact canonical_bind canonical_cur fun _ => canonical_pure _
    refine canonical_bind canonical_cur fun d => ?_
    split
    · refine canonical_bind canonical_finishTask fun f => ?_
      split
      · exact canonical_bind (canonical_modify fun s => canonical_chain.trans (canonical_modCore s _ _) (canonical_wakeSenders _)) fun _ =>
          canonical_pure _
      · exact canonical_pure _
    · exact canonical_bind (canonical_completionJoin _) fun _ => hend
  · exact hend

/-! Traps and their return. -/

theorem canonical_yieldBody : Keeps Canonical yieldBody := by
  refine canonical_bind canonical_cur fun c => ?_
  split <;> exact canonical_pure _

theorem canonical_trapBody (kind : Nat) (arg : Scalar) : Keeps Canonical (trapBody kind arg) := by
  refine canonical_bind (canonical_checkSrc _) fun _ => canonical_bind canonical_get fun s => ?_
  dsimp only
  split
  · exact fun _ => trivial
  · exact canonical_bind (canonical_readScalar _) fun _ => canonical_pure _

theorem canonical_endService (s : State) (r : FaultRec) (after : Bool) : Canonical s (s.endService r after) :=
  canonical_chain.trans (canonical_chain.foldl (fun u e => canonical_modCtx u e.1 (fun c => { c with cmds := c.cmds.map (fun m =>
    if m.seq = e.2 then m.restart else m) })) r.engines s) (canonical_of_eq rfl rfl rfl rfl)

theorem canonical_eretBody (record act : Scalar) : Keeps Canonical (eretBody record act) := by
  refine canonical_bind (canonical_checkSrc _) fun _ => canonical_bind (canonical_checkSrc _) fun _ => canonical_bind (canonical_readClean _) fun ea =>
    canonical_bind (canonical_readClean _) fun a => canonical_bind (canonical_check _ _ _) fun _ => canonical_bind (canonical_check _ _ _) fun _ =>
    canonical_bind canonical_cur fun c => ?_
  have hend (key : Option Nat) : Keeps Canonical (do
      match (← get).records.find? (fun r => r.live && r.at_.isSome && r.at_ == key) with
      | none => raise .illegalOperand
      | some r =>
        check (!(a.getLsbD 0 && decide (r.kind ≠ 1) && decide (r.kind ≠ 2))) .illegalOperand
        modify fun s => s.endService r (a.getLsbD 0)
        return Flow.done) := by
    refine canonical_bind canonical_get fun s => ?_
    split
    · exact canonical_raise _ _
    · exact canonical_bind (canonical_check _ _ _) fun _ => canonical_bind (canonical_modify fun s => canonical_endService s _ _) fun _ => canonical_pure _
  dsimp only
  split
  · refine canonical_bind (canonical_tryTranslate _ _ _ _ _) fun x => ?_
    split
    · exact canonical_bind (canonical_pure _) fun _ => hend _
    · exact canonical_bind (canonical_pure _) fun _ => hend _
  · exact canonical_bind (canonical_pure _) fun _ => hend _

/-! System registers. -/

theorem canonical_liveReading (cycle : Bool) : Keeps Canonical (liveReading cycle) := by
  refine canonical_bind canonical_cur fun c => ?_
  split
  · exact canonical_bind canonical_draw fun _ => canonical_pure _
  · exact canonical_pure _

theorem canonical_sysrdBody (d : Scalar) (reg : Fin 64) : Keeps Canonical (sysrdBody d reg) := by
  rw [sysrdBody]
  split
  · refine canonical_bind canonical_cur fun _ => canonical_bind (canonical_check _ _ _) fun _ => canonical_bind (canonical_checkDst _) fun _ =>
      canonical_bind (canonical_replayed _) fun x => ?_
    dsimp only
    split
    · exact canonical_bind (canonical_pure _) fun _ => canonical_endTwin _ _ _ _
    · exact canonical_bind (canonical_liveReading _) fun _ => canonical_endTwin _ _ _ _
  · exact canonical_bind (canonical_checkDst _) fun _ => canonical_bind canonical_cur fun _ => canonical_bind (canonical_writeScalar _ _) fun _ =>
      canonical_pure _

theorem canonical_submitLegacy : Keeps Canonical submitLegacy :=
  canonical_bind canonical_cur fun _ => canonical_bind (canonical_check _ _ _) fun _ => canonical_bind (canonical_check _ _ _) fun _ =>
    canonical_bind (canonical_check _ _ _) fun _ => canonical_bind (canonical_check _ _ _) fun _ => canonical_stallUntil (canonical_waitAcks _)
    (canonical_bind (canonical_modify fun _ => canonical_of_eq rfl rfl rfl rfl) fun _ => canonical_pure _)

theorem canonical_syswrBody (reg : Fin 64) (a : Scalar) : Keeps Canonical (syswrBody reg a) := by
  refine canonical_bind (canonical_checkSrc _) fun _ => canonical_bind (canonical_readOnce _) fun vs => canonical_bind (canonical_useClean _) fun x =>
    canonical_bind (canonical_check _ _ _) fun _ => canonical_bind canonical_cur fun c => ?_
  split
  · exact canonical_bind (canonical_modRegs _) fun _ => canonical_pure _
  split
  · split
    · exact canonical_submitLegacy
    · exact canonical_pure _
  · refine canonical_bind (canonical_check _ _ _) fun _ => canonical_bind (canonical_check _ _ _) fun _ => ?_
    dsimp only
    split
    · exact canonical_bind (canonical_modCur _) fun _ => canonical_pure _
    · exact canonical_pure _

/-! TLBINV, L1INV and SPMARK. -/

theorem canonical_invalOperands (asid addr len : Scalar) : Keeps Canonical (invalOperands asid addr len) :=
  canonical_bind (canonical_checkSrc _) fun _ => canonical_bind (canonical_checkSrc _) fun _ => canonical_bind (canonical_checkSrc _) fun _ =>
    canonical_bind (canonical_readOnce _) fun _ => canonical_bind (canonical_useClean _) fun _ => canonical_bind (canonical_useClean _) fun _ =>
    canonical_bind (canonical_useClean _) fun _ => canonical_bind (canonical_check _ _ _) fun _ => canonical_bind (canonical_check _ _ _) fun _ =>
    canonical_pure _

theorem canonical_tlbinvBody (asid addr len : Scalar) : Keeps Canonical (tlbinvBody asid addr len) := by
  have hend : Keeps Canonical (do
      let s ← get
      if s.invals.any (fun v => v.by_ == some s.cur.key) then return Flow.stall else return Flow.done) := by
    refine canonical_bind canonical_get fun s => ?_
    split <;> exact canonical_pure _
  refine canonical_bind (canonical_invalOperands _ _ _) fun x => canonical_bind canonical_cur fun c => ?_
  dsimp only
  split
  · refine canonical_bind canonical_cur fun d => ?_
    split
    · exact canonical_pure _
    · exact canonical_bind (canonical_modify fun s => canonical_startInval s _ _ _ _) fun _ => canonical_bind (canonical_modCur _) fun _ => hend
  · exact hend

theorem canonical_l1inv (s : State) (asid : BitVec 12) (lo size : Nat) : Canonical s (s.l1inv asid lo size) :=
  (invalBegun_chain.trans (invalBegun_dropLines s asid lo size) (invalBegun_dropReplicasOf _ _)).canonical

theorem canonical_spmarkBody (discard : Bool) (off len : Scalar) : Keeps Canonical (spmarkBody discard off len) := by
  refine canonical_bind (canonical_checkSrc _) fun _ => canonical_bind (canonical_checkSrc _) fun _ => canonical_bind (canonical_readOnce _) fun vs =>
    canonical_bind (canonical_useClean _) fun o => canonical_bind (canonical_useClean _) fun n => canonical_bind (canonical_check _ _ _) fun _ =>
    canonical_bind canonical_get fun s => canonical_bind (canonical_check _ _ _) fun _ => canonical_bind (canonical_check _ _ _) fun _ => ?_
  dsimp only
  split
  · exact canonical_pure _
  split
  · exact canonical_bind (canonical_modCur _) fun _ => canonical_pure _
  · exact canonical_bind (canonical_modify fun s => canonical_chain.foldl (fun u l => canonical_sliceClear u u.cur (128 * l) 128) _ s) fun _ =>
      canonical_bind (canonical_modCur _) fun _ => canonical_pure _

/-- The fences and the system instructions. -/
def systemInstr : Instr → Bool
  | .fenceAcq .. | .fenceRel .. | .fenceFull .. | .endTask | .halt | .yield | .yield16 | .trap .. | .breakpt .. | .eret .. | .sysrd .. | .syswr ..
  | .tlbinv .. | .l1inv .. | .spmarkKeep .. | .spmarkDiscard .. => true
  | _ => false

theorem canonical_systemBody {i : Instr} (h : systemInstr i = true) : ∃ body, (∀ s, exec i s = issue i body s) ∧ Keeps Canonical body := by
  cases i with
  | fenceAcq sc => exact ⟨_, fun _ => rfl, canonical_fence true false sc⟩
  | fenceRel sc => exact ⟨_, fun _ => rfl, canonical_fence false true sc⟩
  | fenceFull sc => exact ⟨_, fun _ => rfl, canonical_fence true true sc⟩
  | endTask => exact ⟨_, fun _ => rfl, canonical_endBody false⟩
  | halt => exact ⟨_, fun _ => rfl, canonical_endBody true⟩
  | yield | yield16 => exact ⟨_, fun _ => rfl, canonical_yieldBody⟩
  | trap a => exact ⟨_, fun _ => rfl, canonical_trapBody 1 a⟩
  | breakpt a => exact ⟨_, fun _ => rfl, canonical_trapBody 2 a⟩
  | eret r a => exact ⟨_, fun _ => rfl, canonical_eretBody r a⟩
  | sysrd d r => exact ⟨_, fun _ => rfl, canonical_sysrdBody d r⟩
  | syswr r a => exact ⟨_, fun _ => rfl, canonical_syswrBody r a⟩
  | tlbinv a b c => exact ⟨_, fun _ => rfl, canonical_tlbinvBody a b c⟩
  | l1inv a b c =>
    exact ⟨_, fun _ => rfl, canonical_bind (canonical_invalOperands a b c) fun _ =>
      canonical_bind (canonical_modify fun s => canonical_l1inv s _ _ _) fun _ => canonical_pure _⟩
  | spmarkKeep o n => exact ⟨_, fun _ => rfl, canonical_spmarkBody false o n⟩
  | spmarkDiscard o n => exact ⟨_, fun _ => rfl, canonical_spmarkBody true o n⟩
  | _ => nomatch h

end Sys2Proof.Machine
end

section
/-! PROOFS. O33: commands accepted, barrier objects and waits for the engines (R124 to R127, R175 to R179, R255 to R278). -/
namespace Sys2Proof.Machine
open Sys2Proof.Claims
open Sys2Proof.Safety (memoryOk)
variable {s t : State} {α β : Type}

theorem keeps_ite {R : State → State → Prop} {c : Prop} [Decidable c] {m m' : M α} (h : Keeps R m) (h' : Keeps R m') :
    Keeps R (if c then m else m') := by
  split
  · exact h
  · exact h'

/-! Checks that commands have in common. -/

theorem canonical_stallsAccept (id : Option Nat) (ps : List Nat) (k : CmdKind) : Keeps Canonical (stallsAccept id ps k) := by
  refine canonical_bind canonical_get fun s => ?_
  dsimp only
  split
  all_goals
    split
    · exact canonical_throwStall
    · exact canonical_pure _

theorem canonical_acceptCmd (id : Option Nat) (ps : List Nat) (k : CmdKind) : Keeps Canonical (acceptCmd id ps k) := by
  refine canonical_bind canonical_cur fun c => ?_
  have hend {f : State → Context → Context} : Keeps Canonical (do
      let s ← get
      modify fun s => { s with nextSeq := s.nextSeq + 1 }
      modCur (f s)) :=
    canonical_bind canonical_get fun _ => canonical_bind (canonical_modify fun _ => canonical_of_eq rfl rfl rfl rfl) fun _ => canonical_modCur _
  dsimp only
  split
  · split
    · exact fun _ => trivial
    · exact hend
  · exact hend

theorem canonical_checkSlice (reads writes : List (Nat × Nat)) : Keeps Canonical (checkSlice reads writes) := by
  refine canonical_bind canonical_get fun s => ?_
  dsimp only
  split
  · exact fun _ => trivial
  split
  · split
    · exact fun _ => trivial
    · exact fun _ => trivial
  split
  · exact canonical_raise _ _
  · exact canonical_pure _

theorem canonical_checkId (id : Nat) : Keeps Canonical (checkId id) := canonical_check _ _ _

theorem canonical_checkCount (n : Nat) : Keeps Canonical (checkCount n) := canonical_bind canonical_cur fun _ => canonical_check _ _ _

theorem canonical_checkEvent (n : Nat) : Keeps Canonical (checkEvent n) := canonical_bind canonical_cur fun _ => canonical_check _ _ _

theorem canonical_checkTile (n : Nat) : Keeps Canonical (checkTile n) := canonical_bind (canonical_checkCount n) fun _ => canonical_checkEvent n

theorem canonical_checkLive (n : Nat) : Keeps Canonical (checkLive n) := canonical_bind canonical_cur fun _ => canonical_check _ _ _

theorem canonical_markTile (n : Nat) (discarded : Bool) : Keeps Canonical (markTile n discarded) := canonical_modCur _

/-! Waits. -/

theorem canonical_waitedFor (cls : CmdKind → Bool) (id : Word) : Keeps Canonical (waitedFor cls id) := by
  refine canonical_bind (canonical_check _ _ _) fun _ => canonical_bind canonical_cur fun c => ?_
  split
  · exact canonical_pure _
  split
  · exact canonical_pure _
  · exact canonical_bind (canonical_check _ _ _) fun _ => canonical_pure _

theorem canonical_waitEngine (cls : CmdKind → Bool) (d id : Scalar) : Keeps Canonical (waitEngine cls d id) := by
  refine canonical_bind (canonical_checkSrc _) fun _ => canonical_bind (canonical_checkDst _) fun _ => canonical_bind (canonical_readOnce _) fun vs =>
    canonical_bind (canonical_useClean _) fun x => canonical_bind (canonical_waitedFor _ _) fun ms => ?_
  have hend : Keeps Canonical (do
      writeScalar d { bits := 0 }
      return Flow.done) := canonical_bind (canonical_writeScalar _ _) fun _ => canonical_pure _
  split
  · exact canonical_pure _
  split
  · split
    · exact fun _ => trivial
    · exact hend
  · exact hend

theorem canonical_waitbBody (d off ph : Scalar) : Keeps Canonical (waitbBody d off ph) := by
  refine canonical_bind (canonical_checkSrc _) fun _ => canonical_bind (canonical_checkSrc _) fun _ => canonical_bind (canonical_checkDst _) fun _ =>
    canonical_bind (canonical_readOnce _) fun vs => canonical_bind (canonical_useClean _) fun o => canonical_bind (canonical_useClean _) fun p =>
    canonical_bind (canonical_check _ _ _) fun _ => canonical_bind canonical_cur fun c => ?_
  split
  · exact canonical_raise _ _
  next b _ =>
    have hend : Keeps Canonical (do
        writeScalar d { bits := if b.phase then 1 else 0 }
        acquire
        return Flow.done) := canonical_bind (canonical_writeScalar _ _) fun _ => canonical_bind canonical_acquire fun _ => canonical_pure _
    refine keeps_ite (canonical_pure _) ?_
    dsimp only
    split
    · exact fun _ => trivial
    · exact hend

/-! Configuration sets and barrier objects. -/

theorem canonical_ccfgBody (a b : Scalar) : Keeps Canonical (ccfgBody a b) :=
  canonical_bind (canonical_checkSrc _) fun _ => canonical_bind (canonical_checkSrc _) fun _ => canonical_bind (canonical_readClean _) fun _ =>
    canonical_bind (canonical_readClean _) fun _ => canonical_bind (canonical_check _ _ _) fun _ => canonical_bind (canonical_modCur _) fun _ =>
    canonical_pure _

theorem canonical_setBarrier (s : State) (k : Key) (off e : Nat) : Canonical s (s.setBarrier k off e) := by
  rw [State.setBarrier]
  obtain ⟨u, hu, hs⟩ : ∃ u, s.modCtx k (fun c => { c with
      barriers := c.barriers.filter (fun b => b.off != off)
      cmds := c.cmds.map (fun m => if m.kind.barrier == some off then { m with phase := none } else m) }) = u ∧ Canonical s u :=
    ⟨_, rfl, canonical_modCtx _ _ _⟩
  rw [hu]
  split
  · split
    · exact canonical_chain.trans hs (canonical_sliceWrite _ _ _ _ _ _)
    · exact hs
  · exact canonical_chain.trans hs (canonical_chain.trans (canonical_sliceWrite _ _ _ _ _ _) (canonical_modCtx _ _ _))

theorem canonical_cbarBody (off e : Scalar) : Keeps Canonical (cbarBody off e) := by
  refine canonical_bind (canonical_checkSrc _) fun _ => canonical_bind (canonical_checkSrc _) fun _ => canonical_bind (canonical_readClean _) fun o =>
    canonical_bind (canonical_readClean _) fun x => canonical_bind (canonical_check _ _ _) fun _ => canonical_bind canonical_get fun s =>
    canonical_bind (canonical_check _ _ _) fun _ => canonical_bind (canonical_check _ _ _) fun _ => canonical_bind (canonical_check _ _ _) fun _ =>
    canonical_bind (canonical_check _ _ _) fun _ => ?_
  dsimp only
  split
  · exact fun _ => trivial
  split
  · exact fun _ => trivial
  · exact canonical_bind (canonical_modify fun s => canonical_setBarrier s _ _ _) fun _ => canonical_pure _

/-! Copies. -/

theorem canonical_copyPlace (c : Context) (kind : AccessKind) (field : Bool) (refuse : Leaf → Option FaultCode) (n va : Nat) :
    Keeps Canonical (copyPlace c kind field refuse n va) := (agentOnly_copyPlace c kind field refuse n va).mono AgentOnly.canonical

theorem canonical_leafAt (c : Context) (kind : AccessKind) (va : Nat) : Keeps Canonical (leafAt c kind va) := by
  rw [leafAt]
  split
  · exact canonical_pure _
  refine canonical_bind (canonical_tryTranslate _ _ _ _ _) fun x => ?_
  split <;> exact canonical_pure _

theorem canonical_migrationAt (c : Context) (g : CopyCfg) (src dst : Nat) : Keeps Canonical (migrationAt c g src dst) := by
  rw [migrationAt]
  split
  · exact canonical_pure _
  refine canonical_bind (canonical_leafAt _ _ _) fun x => ?_
  split
  · exact canonical_pure _
  split
  · exact canonical_pure _
  refine canonical_bind (canonical_leafAt _ _ _) fun y => ?_
  split <;> exact canonical_pure _

theorem canonical_copyOperands (op : CopyOp) (g : CopyCfg) (src dst : Nat) : Keeps Canonical (copyOperands op g src dst) := by
  refine canonical_bind canonical_cur fun c => ?_
  have hend (mig : Option (Leaf × Leaf)) : Keeps Canonical (match mig with
      | some _ => do
        check (decide (g.len % 128 = 0) && decide (g.sstride % 128 = 0) && decide (g.dstride % 128 = 0) &&
          decide (src % 128 = 0) && decide (dst % 128 = 0)) .illegalOperand
        return true
      | none => do
        let _dst ← orRaise (← copyPlace c .write (decide (g.mode ≠ 0)) (g.refuse c.sys) 1 dst)
        check (decide (g.mode ≠ 2) || decide (dst % g.cellBytes = 0)) .address (BitVec.ofNat 64 dst)
        return false) := by
    cases mig with
    | some x => exact canonical_bind (canonical_check _ _ _) fun _ => canonical_pure _
    | none => exact canonical_bind (canonical_copyPlace _ _ _ _ _ _) fun _ => canonical_bind (canonical_orRaise _) fun _ =>
        canonical_bind (canonical_check _ _ _) fun _ => canonical_pure _
  have hmoved := keeps_join (c := (op == CopyOp.copy) = true) canonical_chain (canonical_migrationAt c g src dst) (canonical_pure none) hend
  dsimp only
  refine keeps_ite ?_ hmoved
  exact canonical_bind (canonical_copyPlace _ _ _ _ _ _) fun _ => canonical_bind (canonical_orRaise _) fun _ => hmoved

theorem canonical_gatherList (ix : Word) (rows : Nat) : Keeps Canonical (gatherList ix rows) := by
  refine canonical_bind canonical_cur fun c => canonical_bind (canonical_check _ _ _) fun _ => canonical_bind (canonical_check _ _ _) fun _ => ?_
  dsimp only
  split
  · split
    · exact fun _ => trivial
    · exact fun _ => trivial
  · exact canonical_bind canonical_get fun _ => canonical_check _ _ _

/-- What a copy command does once its operands are read. -/
theorem canonical_copyAccept (op : CopyOp) (wa wb : Word) (iv : Val) : Keeps Canonical (do
    check (decide (wbits wa 62 2 = 0) && decide (wbits wb 54 10 = 0)) .illegalOperand
    let id := wbits wa 50 6
    checkId id
    let c ← cur
    let cfg := c.copySets[wbits wa 48 2 % 4]'(Nat.mod_lt _ (by decide))
    let g := copyCfg cfg.1 cfg.2
    let src := wbits wa 0 48
    let dst := wbits wb 0 48
    check (decide (g.len ≠ 0)) .illegalOperand
    check (op.accepts g.mode) .illegalOperand
    check (!g.ben || c.barriers.any (fun x => x.off == g.bar)) .illegalOperand
    check (g.limitsOk dst) .illegalOperand
    check (op != .join || inScratchWindow src) .illegalOperand
    let ps := [wbits wa 56 6, wbits wb 48 6]
    let k := op.kind cfg (BitVec.ofNat 48 src) (BitVec.ofNat 48 dst) (iv.bits.setWidth 48) false
    stallsAccept (some id) ps k
    checkSlice (if op == .gather then [] else rowRanges src g.sstride g.rows g.len)
      (if g.mode = 0 then rowRanges dst g.dstride g.rows g.len else [])
    let mig ← copyOperands op g src dst
    if op == .gather then gatherList (← useClean iv) g.rows
    acceptCmd (some id) ps (op.kind cfg (BitVec.ofNat 48 src) (BitVec.ofNat 48 dst) (iv.bits.setWidth 48) mig)
    return Flow.done) := by
  refine canonical_bind (canonical_check _ _ _) fun _ => canonical_bind (canonical_checkId _) fun _ => canonical_bind canonical_cur fun c =>
    canonical_bind (canonical_check _ _ _) fun _ => canonical_bind (canonical_check _ _ _) fun _ => canonical_bind (canonical_check _ _ _) fun _ =>
    canonical_bind (canonical_check _ _ _) fun _ => canonical_bind (canonical_check _ _ _) fun _ => canonical_bind (canonical_stallsAccept _ _ _) fun _ =>
    canonical_bind (canonical_checkSlice _ _) fun _ => canonical_bind (canonical_copyOperands _ _ _ _) fun mig => ?_
  have hend : Keeps Canonical (do
      acceptCmd (some (wbits wa 50 6)) [wbits wa 56 6, wbits wb 48 6] (op.kind (c.copySets[wbits wa 48 2 % 4]'(Nat.mod_lt _ (by decide)))
        (BitVec.ofNat 48 (wbits wa 0 48)) (BitVec.ofNat 48 (wbits wb 0 48)) (iv.bits.setWidth 48) mig)
      return Flow.done) := canonical_bind (canonical_acceptCmd _ _ _) fun _ => canonical_pure _
  dsimp only
  exact keeps_ite (canonical_bind (canonical_useClean _) fun _ => canonical_bind (canonical_gatherList _ _) fun _ => hend) hend

theorem canonical_copyCommand (op : CopyOp) (a b : Scalar) (ix : Option Scalar) : Keeps Canonical (copyCommand op a b ix) := by
  refine canonical_bind (canonical_checkSrc _) fun _ => canonical_bind (canonical_checkSrc _) fun _ => ?_
  cases ix with
  | none =>
    exact canonical_bind (canonical_readClean _) fun _ => canonical_bind (canonical_readClean _) fun _ =>
      canonical_bind (canonical_pure _) fun iv => canonical_copyAccept op _ _ iv
  | some x =>
    exact canonical_bind (canonical_checkSrc _) fun _ => canonical_bind (canonical_readClean _) fun _ => canonical_bind (canonical_readClean _) fun _ =>
      canonical_bind (canonical_readScalar _) fun iv => canonical_copyAccept op _ _ iv

/-! Lamp banks (R273 to R277). -/

theorem canonical_checkEntry (g : LampCfg) (i : Nat) : Keeps Canonical (checkEntry g i) :=
  canonical_bind (canonical_checkSlice _ _) fun _ => canonical_bind canonical_get fun _ => canonical_bind (canonical_check _ _ _) fun _ =>
    canonical_check _ _ _

theorem canonical_checkLampCfg (off : Nat) : Keeps Canonical (checkLampCfg off) := by
  refine canonical_bind canonical_get fun s => canonical_bind (canonical_check _ _ _) fun _ => canonical_bind (canonical_check _ _ _) fun _ =>
    canonical_bind (canonical_checkSlice _ _) fun _ => ?_
  dsimp only
  refine keeps_ite (fun _ => trivial) (canonical_bind (canonical_check _ _ _) fun _ => ?_)
  refine canonical_forM (fun cell => ?_) _
  exact keeps_ite (fun _ => trivial) (canonical_forM (fun _ => canonical_checkEntry _ _) _)

theorem canonical_dropSparks (s : State) (c : Context) (n : Nat) : Canonical s (s.dropSparks c n) := canonical_modCore s _ _

theorem canonical_writeBank (s : State) (k : Key) (off fired step : Nat) : Canonical s (s.writeBank k off fired step) :=
  canonical_chain.trans (canonical_sliceWrite _ _ _ _ _ _) (canonical_sliceWrite _ _ _ _ _ _)

theorem canonical_lcfgBody (tile off : Scalar) : Keeps Canonical (lcfgBody tile off) := by
  refine canonical_bind (canonical_checkSrc _) fun _ => canonical_bind (canonical_checkSrc _) fun _ => canonical_bind (canonical_readClean _) fun gt =>
    canonical_bind (canonical_readClean _) fun go => canonical_bind (canonical_check _ _ _) fun _ => canonical_bind (canonical_check _ _ _) fun _ =>
    canonical_bind canonical_get fun s => ?_
  dsimp only
  refine keeps_ite (fun _ => trivial) (canonical_bind (canonical_checkCount _) fun _ => canonical_bind (canonical_check _ _ _) fun _ =>
    canonical_bind (canonical_checkSlice _ _) fun _ => ?_)
  split
  · exact canonical_bind (canonical_check _ _ _) fun _ => canonical_bind (canonical_modCur _) fun _ =>
      canonical_bind (canonical_modify fun s => canonical_dropSparks s _ _) fun _ => canonical_pure _
  · exact canonical_bind (canonical_checkLive _) fun _ => canonical_bind (canonical_checkSlice _ _) fun _ => canonical_bind (canonical_checkLampCfg _) fun _ =>
      canonical_bind (canonical_check _ _ _) fun _ => canonical_bind (canonical_modify fun s => canonical_chain.trans (canonical_dropSparks s _ _)
      (canonical_writeBank _ _ _ _ _)) fun _ => canonical_bind (canonical_modCur _) fun _ => canonical_pure _

theorem canonical_lsparkBody (ra rb : Scalar) : Keeps Canonical (lsparkBody ra rb) :=
  canonical_bind (canonical_checkSrc _) fun _ => canonical_bind (canonical_checkSrc _) fun _ => canonical_bind (canonical_readClean _) fun _ =>
    canonical_bind (canonical_readClean _) fun _ => canonical_bind (canonical_check _ _ _) fun _ => canonical_bind (canonical_checkId _) fun _ =>
    canonical_bind (canonical_check _ _ _) fun _ => canonical_bind (canonical_stallsAccept _ _ _) fun _ => canonical_bind canonical_get fun _ =>
    canonical_bind (canonical_check _ _ _) fun _ => canonical_bind (canonical_acceptCmd _ _ _) fun _ => canonical_pure _

/-- A run accepted keeps the slice as it stands (R276). -/
theorem canonical_runAccept (id : Option Nat) (ps : List Nat) (k : CmdKind) (image : Mem) (fired : Nat) : Keeps Canonical (do
    let seq := (← cur).nextCmd
    acceptCmd id ps k
    modCur fun c => { c with cmds := c.cmds.map (fun m => if m.seq = seq then { m with bank := image, fired := fired } else m) }
    return Flow.done) :=
  canonical_bind canonical_cur fun _ => canonical_bind (canonical_acceptCmd _ _ _) fun _ => canonical_bind (canonical_modCur _) fun _ => canonical_pure _

theorem canonical_lrunBody (ra rb : Scalar) : Keeps Canonical (lrunBody ra rb) := by
  refine canonical_bind (canonical_checkSrc _) fun _ => canonical_bind (canonical_checkSrc _) fun _ => canonical_bind (canonical_readClean _) fun a =>
    canonical_bind (canonical_readClean _) fun b => canonical_bind (canonical_check _ _ _) fun _ => canonical_bind (canonical_checkId _) fun _ =>
    canonical_bind (canonical_stallsAccept _ _ _) fun _ => canonical_bind (canonical_checkCount _) fun _ => canonical_bind canonical_get fun s => ?_
  split
  · exact canonical_raise _ _
  · exact canonical_bind (canonical_checkSlice _ _) fun _ => canonical_bind (canonical_check _ _ _) fun _ => canonical_bind (canonical_check _ _ _) fun _ =>
      canonical_bind (canonical_checkLampCfg _) fun _ => canonical_bind (canonical_check _ _ _) fun _ => canonical_runAccept _ _ _ _ _

theorem canonical_completeCmd (s : State) (k : Key) (seq : Nat) (f : Option FaultInfo) : Canonical s (s.completeCmd k seq f) :=
  (inContexts_completeCmd s k seq f).canonical

theorem canonical_modCmd (s : State) (k : Key) (seq : Nat) (f : Cmd → Cmd) : Canonical s (s.modCmd k seq f) := (inContexts_modCmd s k seq f).canonical

theorem canonical_lstopBody (a : Scalar) : Keeps Canonical (lstopBody a) := by
  refine canonical_bind (canonical_checkSrc _) fun _ => canonical_bind (canonical_readClean _) fun x => canonical_bind (canonical_check _ _ _) fun _ =>
    canonical_bind (canonical_checkCount _) fun _ => canonical_bind canonical_cur fun c => canonical_bind (canonical_check _ _ _) fun _ =>
    canonical_bind (canonical_modify fun s => canonical_chain.foldl (fun u m => ?_) _ s) fun _ => canonical_pure _
  split
  · exact canonical_completeCmd _ _ _ _
  · exact canonical_modCmd _ _ _ _

/-! The matrix engine (R265 to R271). -/

theorem canonical_mcfgBody (view off : Scalar) : Keeps Canonical (mcfgBody view off) := by
  refine canonical_bind (canonical_checkSrc _) fun _ => canonical_bind (canonical_checkSrc _) fun _ => canonical_bind (canonical_readClean _) fun gv =>
    canonical_bind (canonical_readClean _) fun o => canonical_bind (canonical_check _ _ _) fun _ => canonical_bind canonical_cur fun c => ?_
  dsimp only
  exact keeps_ite (fun _ => trivial) (canonical_bind (canonical_checkSlice _ _) fun _ => canonical_bind canonical_get fun _ =>
    canonical_bind (canonical_check _ _ _) fun _ => canonical_bind canonical_get fun _ => canonical_bind (canonical_check _ _ _) fun _ =>
    canonical_bind (canonical_check _ _ _) fun _ => canonical_bind (canonical_modCur _) fun _ => canonical_pure _)

theorem canonical_zeroTile (discard : Bool) (a : Scalar) : Keeps Canonical (zeroTile discard a) :=
  canonical_bind (canonical_checkSrc _) fun _ => canonical_bind (canonical_readClean _) fun _ => canonical_bind (canonical_check _ _ _) fun _ =>
    canonical_bind (canonical_checkTile _) fun _ => canonical_bind (canonical_stallsAccept _ _ _) fun _ => canonical_bind (canonical_acceptCmd _ _ _) fun _ =>
    canonical_bind (canonical_markTile _ _) fun _ => canonical_pure _

/-- The tile that a command writes whole loses its discard mark. -/
theorem canonical_markIf (b : Bool) (n : Nat) : Keeps Canonical (do
    if b then markTile n false
    return Flow.done) :=
  keeps_ite (canonical_bind (canonical_markTile _ _) fun _ => canonical_pure _) (canonical_pure _)

theorem canonical_mmaRanges (x : BitVec 256) (a b : Word) : Keeps Canonical (mmaRanges x a b) :=
  canonical_bind (canonical_check _ _ _) fun _ => canonical_bind (canonical_check _ _ _) fun _ => canonical_bind (canonical_check _ _ _) fun _ =>
    canonical_checkSlice _ _

theorem canonical_mmaBody (ra rb : Scalar) : Keeps Canonical (mmaBody ra rb) := by
  refine canonical_bind (canonical_checkSrc _) fun _ => canonical_bind (canonical_checkSrc _) fun _ => canonical_bind (canonical_readClean _) fun a =>
    canonical_bind (canonical_readClean _) fun b => canonical_bind (canonical_check _ _ _) fun _ => canonical_bind (canonical_checkId _) fun _ =>
    canonical_bind (canonical_check _ _ _) fun _ => canonical_bind canonical_cur fun c => canonical_bind (canonical_stallsAccept _ _ _) fun _ =>
    canonical_bind (canonical_checkTile _) fun _ => ?_
  have hend := canonical_bind (canonical_mmaRanges (c.views[wbits a 21 4 % 8]'(Nat.mod_lt _ (by decide))) a b) fun _ =>
    canonical_bind (canonical_acceptCmd (some (matrixId b)) (matrixPreds b) (.mma (c.views[wbits a 21 4 % 8]'(Nat.mod_lt _ (by decide))) a b)) fun _ =>
    canonical_markIf (b.getLsbD 35) (wbits b 0 4)
  exact keeps_ite (canonical_bind (canonical_checkLive _) fun _ => hend) hend

theorem canonical_mscaleaccBody (ra rb : Scalar) : Keeps Canonical (mscaleaccBody ra rb) := by
  refine canonical_bind (canonical_checkSrc _) fun _ => canonical_bind (canonical_checkSrc _) fun _ => canonical_bind (canonical_readClean _) fun a =>
    canonical_bind (canonical_readClean _) fun b => canonical_bind (canonical_check _ _ _) fun _ => canonical_bind (canonical_check _ _ _) fun _ =>
    canonical_bind (canonical_checkId _) fun _ => canonical_bind (canonical_check _ _ _) fun _ => canonical_bind (canonical_stallsAccept _ _ _) fun _ =>
    canonical_bind (canonical_checkCount _) fun _ => canonical_bind (canonical_checkCount _) fun _ => canonical_bind (canonical_checkEvent _) fun _ =>
    canonical_bind (canonical_checkEvent _) fun _ => canonical_bind (canonical_checkLive _) fun _ => ?_
  have hend := canonical_bind (canonical_checkSlice [(wbits a 0 21, 8 * fmtWidth (wbits a 21 5)), (wbits a 29 21, 8 * fmtWidth (wbits a 50 5))] []) fun _ =>
    canonical_bind (canonical_acceptCmd (some (matrixId b)) (matrixPreds b) (.mscaleacc a b)) fun _ => canonical_markIf (b.getLsbD 35) (wbits b 0 4)
  exact keeps_ite (canonical_bind (canonical_checkLive _) fun _ => hend) hend

theorem canonical_mloadBody (ra rb : Scalar) : Keeps Canonical (mloadBody ra rb) :=
  canonical_bind (canonical_checkSrc _) fun _ => canonical_bind (canonical_checkSrc _) fun _ => canonical_bind (canonical_readClean _) fun _ =>
    canonical_bind (canonical_readClean _) fun _ => canonical_bind (canonical_check _ _ _) fun _ => canonical_bind (canonical_check _ _ _) fun _ =>
    canonical_bind (canonical_checkId _) fun _ => canonical_bind (canonical_stallsAccept _ _ _) fun _ => canonical_bind (canonical_checkTile _) fun _ =>
    canonical_bind (canonical_checkSlice _ _) fun _ => canonical_bind (canonical_check _ _ _) fun _ => canonical_bind (canonical_acceptCmd _ _ _) fun _ =>
    canonical_bind (canonical_markTile _ _) fun _ => canonical_pure _

theorem canonical_mstoreBody (ra rb : Scalar) : Keeps Canonical (mstoreBody ra rb) :=
  canonical_bind (canonical_checkSrc _) fun _ => canonical_bind (canonical_checkSrc _) fun _ => canonical_bind (canonical_readClean _) fun _ =>
    canonical_bind (canonical_readClean _) fun _ => canonical_bind (canonical_check _ _ _) fun _ => canonical_bind (canonical_check _ _ _) fun _ =>
    canonical_bind (canonical_checkId _) fun _ => canonical_bind canonical_cur fun _ => canonical_bind (canonical_stallsAccept _ _ _) fun _ =>
    canonical_bind (canonical_checkTile _) fun _ => canonical_bind (canonical_checkLive _) fun _ => canonical_bind (canonical_checkSlice _ _) fun _ =>
    canonical_bind (canonical_check _ _ _) fun _ => canonical_bind (canonical_acceptCmd _ _ _) fun _ => canonical_pure _

/-- The instructions that drive the engines. -/
def engineInstr : Instr → Bool
  | .ccfg .. | .cbar .. | .waitb .. | .ccopy .. | .cgather .. | .cjoin .. | .mcfg .. | .mzero .. | .mdiscard .. | .mma .. | .mscaleacc .. | .mload ..
  | .mstore .. | .mwait .. | .lcfg .. | .lspark .. | .lrun .. | .lstop .. | .lwait .. => true
  | _ => false

theorem canonical_engineBody {i : Instr} (h : engineInstr i = true) : ∃ body, (∀ s, exec i s = issue i body s) ∧ Keeps Canonical body := by
  cases i with
  | ccfg a b => exact ⟨_, fun _ => rfl, canonical_ccfgBody a b⟩
  | cbar o e => exact ⟨_, fun _ => rfl, canonical_cbarBody o e⟩
  | waitb d o p => exact ⟨_, fun _ => rfl, canonical_waitbBody d o p⟩
  | ccopy a b => exact ⟨_, fun _ => rfl, canonical_copyCommand .copy a b none⟩
  | cgather ix a b => exact ⟨_, fun _ => rfl, canonical_copyCommand .gather a b (some ix)⟩
  | cjoin a b => exact ⟨_, fun _ => rfl, canonical_copyCommand .join a b none⟩
  | mcfg v o => exact ⟨_, fun _ => rfl, canonical_mcfgBody v o⟩
  | mzero a => exact ⟨_, fun _ => rfl, canonical_zeroTile false a⟩
  | mdiscard a => exact ⟨_, fun _ => rfl, canonical_zeroTile true a⟩
  | mma a b => exact ⟨_, fun _ => rfl, canonical_mmaBody a b⟩
  | mscaleacc a b => exact ⟨_, fun _ => rfl, canonical_mscaleaccBody a b⟩
  | mload a b => exact ⟨_, fun _ => rfl, canonical_mloadBody a b⟩
  | mstore a b => exact ⟨_, fun _ => rfl, canonical_mstoreBody a b⟩
  | mwait d i => exact ⟨_, fun _ => rfl, canonical_waitEngine _ d i⟩
  | lcfg a o => exact ⟨_, fun _ => rfl, canonical_lcfgBody a o⟩
  | lspark a b => exact ⟨_, fun _ => rfl, canonical_lsparkBody a b⟩
  | lrun a b => exact ⟨_, fun _ => rfl, canonical_lrunBody a b⟩
  | lstop a => exact ⟨_, fun _ => rfl, canonical_lstopBody a⟩
  | lwait d i => exact ⟨_, fun _ => rfl, canonical_waitEngine _ d i⟩
  | _ => nomatch h

end Sys2Proof.Machine
end

section
/-! PROOFS. O33: messages on their way, at their homes, and what comes back (R60 to R79, R99 to R120). -/
namespace Sys2Proof.Machine
open Sys2Proof.Claims
open Sys2Proof.Safety (memoryOk)
variable {s t : State}

theorem canonical_refl (s : State) : Canonical s s := canonical_chain.refl s

theorem Canonical.trans {s t u : State} (h : Canonical s t) (h' : Canonical t u) : Canonical s u := canonical_chain.trans h h'

/-- Before it, nothing changes but what is outside the byte spaces. -/
theorem canonical_after {s t u : State} (h : Canonical t u) (hmem : t.mem = s.mem) (hscratch : t.scratch = s.scratch) (hacc : t.acc = s.acc)
    (hmd : t.md = s.md) : Canonical s u := (canonical_of_eq hmem hscratch hacc hmd).trans h

/-- Whichever way it goes. -/
theorem canonical_ite {c : Prop} [Decidable c] {t u : State} (h : Canonical s t) (h' : Canonical s u) : Canonical s (if c then t else u) := by
  split
  · exact h
  · exact h'

/-! Messages in the state. -/

theorem canonical_dropMsg (s : State) (id : Nat) : Canonical s (s.dropMsg id) := canonical_of_eq rfl rfl rfl rfl

theorem canonical_putMsg (s : State) (m : Msg) : Canonical s (s.putMsg m) := canonical_of_eq rfl rfl rfl rfl

theorem canonical_respond (s : State) (src : Node) (loc : Loc) (w : Who) (asid : BitVec 12) (va : Word) (gen : BitVec 8) (b : Body)
    (snap : Option LineSnap) (key : Nat) : Canonical s (s.respond src loc w asid va gen b snap key) :=
  (homeOnly_respond s src loc w asid va gen b snap key).canonical

theorem canonical_failMsg (s : State) (m : Msg) (code : FaultCode) : Canonical s (s.failMsg m code) := by
  rw [State.failMsg]
  split
  · exact (canonical_dropMsg s _).trans (canonical_respond _ _ _ _ _ _ _ _ _ _)
  · exact (canonical_dropMsg s _).trans (canonical_respond _ _ _ _ _ _ _ _ _ _)
  · exact (canonical_dropMsg s _).trans (canonical_respond _ _ _ _ _ _ _ _ _ _)
  · exact (canonical_dropMsg s _).trans (canonical_chain.foldl (fun u tg => canonical_respond u _ _ _ _ _ _ _ _ _) _ _)

theorem canonical_loseAnswer (s : State) (m : Msg) : Canonical s (s.loseAnswer m) := canonical_putMsg s _

theorem canonical_wakeWhere (s : State) (p : Context → Wait → Bool) : Canonical s (s.wakeWhere p) := (inContexts_wakeWhere s p).canonical

theorem canonical_markPassed (s : State) (b : Body) (link : Bool) : Canonical s (s.markPassed b link) := by
  rw [State.markPassed]
  split
  · exact canonical_refl s
  · exact Canonical.trans (canonical_chain.foldl (fun u o => canonical_modCtx u _ _) _ s) (canonical_wakeWhere _ _)

theorem canonical_moveTo (s : State) (m : Msg) : Canonical s (s.moveTo m) := by
  rw [State.moveTo]
  split
  · exact canonical_ite ((canonical_putMsg s m).trans (canonical_markPassed _ _ _)) (canonical_putMsg s m)
  · exact (canonical_putMsg s m).trans (canonical_markPassed _ _ _)
  · exact canonical_putMsg s m

theorem canonical_forward (s : State) (m : Msg) (bd x y : Nat) : Canonical s (s.forward m bd x y) := by
  rw [State.forward]
  split
  · exact canonical_moveTo s _
  · refine canonical_ite (canonical_failMsg s _ _) (canonical_ite (canonical_loseAnswer s _) ?_)
    split
    · exact canonical_putMsg s _
    · exact canonical_dropMsg s _

theorem canonical_enterBuffer (s : State) (m : Msg) (j : JoinReq) (bd x y : Nat) : Canonical s (s.enterBuffer m j bd x y) := by
  rw [State.enterBuffer]
  dsimp only
  split
  · split
    · exact canonical_of_eq rfl rfl rfl rfl
    · exact canonical_refl s
  · exact canonical_ite (canonical_putMsg s _) (canonical_refl s)

theorem canonical_mergeAway (s : State) (m : Msg) (j : JoinReq) (p : Nat) : Canonical s (s.mergeAway m j p) := by
  rw [State.mergeAway]
  split
  · split
    · exact (canonical_dropMsg s _).trans (canonical_putMsg _ _)
    · exact canonical_refl s
  · exact canonical_refl s

theorem canonical_enterMesh (s : State) (m : Msg) : Canonical s (s.enterMesh m) := by
  rw [State.enterMesh]
  split
  · exact canonical_failMsg s _ _
  · exact canonical_putMsg s _

theorem canonical_leaveGate (s : State) (m : Msg) (g : Nat) : Canonical s (s.leaveGate m g) :=
  canonical_ite (canonical_putMsg s _) (canonical_putMsg s _)

theorem canonical_storeThrough (s : State) (m : Msg) (g : Nat) : Canonical s (s.storeThrough m g) := by
  rw [State.storeThrough]
  split
  · exact canonical_of_eq rfl rfl rfl rfl
  · exact canonical_refl s

theorem canonical_routerForward (m : Nat) (b : Bool) (s : State) : Canonical s (routerForward m b s) := by
  rw [routerForward]
  split
  · exact canonical_refl s
  split
  · exact canonical_enterMesh s _
  · refine canonical_ite ?_ (canonical_forward s _ _ _ _)
    split
    · exact canonical_enterBuffer s _ _ _ _ _
    · exact canonical_refl s
  · exact canonical_ite ((canonical_storeThrough s _ _).trans (canonical_leaveGate _ _ _)) (canonical_refl s)
  · refine canonical_ite ?_ (canonical_refl s)
    split
    · exact canonical_mergeAway s _ _ _
    · exact canonical_refl s
  · exact canonical_refl s

theorem canonical_combinedJoinDepart (m : Nat) (s : State) : Canonical s (combinedJoinDepart m s) := by
  rw [combinedJoinDepart]
  split
  · exact canonical_refl s
  split
  · exact canonical_forward s _ _ _ _
  · exact canonical_refl s

theorem canonical_heldJoinTimeout (core i : Nat) (s : State) : Canonical s (heldJoinTimeout core i s) := by
  rw [heldJoinTimeout]
  split
  · exact canonical_refl s
  · exact canonical_drainHeld s _ _

/-! Gateways. -/

theorem canonical_chooseNow (s : State) : Canonical s s.chooseNow.2 := by
  rw [State.chooseNow]
  split
  · exact canonical_refl s
  · exact canonical_of_eq rfl rfl rfl rfl

theorem canonical_refreshBy (s : State) (g : Nat) (x : LineSnap) (gen : BitVec 8) (name : BitVec 12 × Nat) (makes : Bool) :
    Canonical s (s.refreshBy g x gen name makes) := by
  rw [State.refreshBy]
  split
  · exact canonical_of_eq rfl rfl rfl rfl
  · exact canonical_ite ((canonical_chooseNow s).trans (canonical_of_eq rfl rfl rfl rfl)) (canonical_chooseNow s)

theorem canonical_replicaTest (m : Nat) (s : State) : Canonical s (replicaTest m s) := by
  rw [replicaTest]
  split
  · exact canonical_refl s
  split
  · refine canonical_ite (canonical_refl s) ?_
    split
    · exact canonical_leaveGate s _ _
    · obtain ⟨p, hp, hs⟩ : ∃ p, s.chooseNow = p ∧ Canonical s p.2 := ⟨_, rfl, canonical_chooseNow s⟩
      rw [hp]
      dsimp only
      refine canonical_ite (hs.trans (canonical_after (canonical_leaveGate _ _ _) rfl rfl rfl rfl)) ?_
      split
      · exact hs.trans (canonical_after ((canonical_dropMsg _ _).trans (canonical_respond _ _ _ _ _ _ _ _ _ _)) rfl rfl rfl rfl)
      · exact hs.trans (canonical_leaveGate _ _ _)
  · exact canonical_refl s

theorem canonical_refresh (s : State) (g : Nat) (m : Msg) (x : LineSnap) : Canonical s (s.refresh g m x) := by
  rw [State.refresh]
  exact canonical_ite (canonical_refl s) (canonical_refreshBy s _ _ _ _ _)

theorem canonical_gatewayResponsePass (m : Nat) (s : State) : Canonical s (gatewayResponsePass m s) := by
  rw [gatewayResponsePass]
  split
  · exact canonical_refl s
  split
  · refine canonical_ite (canonical_refl s) ?_
    split
    · exact canonical_ite (canonical_leaveGate s _ _) ((canonical_refresh s _ _ _).trans (canonical_leaveGate _ _ _))
    · exact canonical_leaveGate s _ _
  · exact canonical_refl s

/-! Links. -/

theorem canonical_comeIn (s : State) (m : Msg) (k : Nat) (up : Bool) : Canonical s (s.comeIn m k up) := by
  rw [State.comeIn]
  split
  · exact canonical_putMsg s _
  · exact canonical_ite (canonical_loseAnswer s _) (canonical_putMsg s _)

theorem canonical_flitArrives (s : State) (m : Msg) : Canonical s (s.flitArrives m) := by
  rw [State.flitArrives]
  dsimp only
  split
  · exact canonical_ite (canonical_putMsg s _) (canonical_putMsg s _)
  · split
    · exact canonical_ite (canonical_putMsg s _) (canonical_putMsg s _)
    · exact canonical_putMsg s _
  · split
    · exact canonical_refl s
    split
    · exact canonical_ite (canonical_comeIn s _ _ _) (canonical_putMsg s _)
    · exact canonical_refl s
  · exact canonical_refl s

theorem canonical_flitReceive (m : Nat) (b : Bool) (s : State) : Canonical s (flitReceive m b s) := by
  rw [flitReceive]
  split
  · exact canonical_refl s
  · exact canonical_ite (canonical_refl s) (canonical_ite (canonical_flitArrives s _) (canonical_putMsg s _))

theorem canonical_linkDown (l : Fin 12) (s : State) : Canonical s (linkDown l s) :=
  canonical_ite (canonical_of_eq rfl rfl rfl rfl) (canonical_refl s)

/-! Homes. -/

theorem canonical_ackAll (s : State) (x : Msg) (n0 : Nat) (code : Option FaultCode) (snap : Option LineSnap) :
    Canonical s (s.ackAll x n0 code snap) := (homeOnly_ackAll s x n0 code snap).canonical

theorem canonical_countAccess (s : State) (x : Msg) : Canonical s (s.countAccess x) := (homeOnly_countAt s _ _ _ _).canonical

/-- A request taken from the messages and counted (R101). -/
theorem canonical_taken (s : State) (x : Msg) : Canonical s ((s.dropMsg x.id).countAccess x) :=
  (canonical_dropMsg s _).trans (canonical_countAccess _ _)

theorem canonical_refused (s : State) (x : Msg) (n0 : Nat) (code : Option FaultCode) : Canonical s ((s.dropMsg x.id).ackAll x n0 code none) :=
  (canonical_dropMsg s _).trans (canonical_ackAll _ _ _ _ _)

theorem canonical_sendInvals (s : State) (src : Node) (line : Nat) (gates : List Nat) : Canonical s (s.sendInvals src line gates) :=
  canonical_chain.foldl (fun u _ => (homeOnly_send u _).canonical) gates s

theorem canonical_invalidateAll (s : State) (line : Nat) : Canonical s (s.invalidateAll line) := by
  rw [State.invalidateAll]
  exact canonical_ite (canonical_refl s) (canonical_sendInvals s _ _ _)

theorem canonical_homeJoin (m : Nat) (s : State) : Canonical s (homeJoin m s) := by
  rw [homeJoin]
  split
  · exact canonical_refl s
  split
  · split
    · exact canonical_refused s _ _ _
    · exact canonical_ite (canonical_invalidateAll s _) ((canonical_taken s _).trans ((homeOnly_joinAt _ _).canonical.trans (canonical_ackAll _ _ _ _ _)))
  · exact canonical_refl s

theorem canonical_homeFill (m : Nat) (s : State) : Canonical s (homeFill m s) := by
  rw [homeFill]
  split
  · exact canonical_refl s
  split
  · split
    · exact canonical_refused s _ _ _
    · exact canonical_ite (canonical_invalidateAll s _) ((canonical_taken s _).trans ((homeOnly_fillAt _ _ _ _).canonical.trans (canonical_ackAll _ _ _ _ _)))
  · exact canonical_refl s

theorem canonical_homeFreeze (m : Nat) (s : State) : Canonical s (homeFreeze m s) := by
  rw [homeFreeze]
  split
  · exact canonical_refl s
  split
  · split
    · exact canonical_refused s _ _ _
    · exact (canonical_taken s _).trans ((homeOnly_freezeAt _ _ _).canonical.trans (canonical_ackAll _ _ _ _ _))
  · exact canonical_refl s

theorem canonical_forwardTest (s : State) (x : Msg) (line : Nat) : Canonical s (s.forwardTest x line) := by
  rw [State.forwardTest]
  split
  · exact canonical_putMsg s _
  · exact canonical_refl s

theorem canonical_markWatched (s : State) (line : Nat) : Canonical s (s.markWatched line) := (homeOnly_markWatched s line).canonical

theorem canonical_thresholdTest (m : Nat) (s : State) : Canonical s (thresholdTest m s) := by
  rw [thresholdTest]
  split
  · exact canonical_refl s
  next x _ =>
    cases x.body with
    | test cell ty arg k w =>
      dsimp only
      have htaken := canonical_taken s x
      split
      · exact (canonical_dropMsg s _).trans (canonical_respond _ _ _ _ _ _ _ _ _ _)
      · cases s.forwards.find? (fun f => f.1 == cell / 128) with
        | some f => exact (canonical_countAccess s _).trans (canonical_forwardTest _ _ _)
        | none =>
          dsimp only
          split
          · exact htaken.trans (canonical_respond _ _ _ _ _ _ _ _ _ _)
          · split
            · exact htaken.trans (canonical_respond _ _ _ _ _ _ _ _ _ _)
            · exact htaken.trans (canonical_after (canonical_markWatched _ _) rfl rfl rfl rfl)
    | _ => exact canonical_refl s

/-- A store that its home takes (R86). -/
theorem canonical_storeTaken (s : State) (x : Msg) (pa n v marks line : Nat) (own : Option Nat) : Canonical s (
    let s1 := (s.dropMsg x.id).countAccess x
    let s2 := ({ s1 with mem := s1.mem.writeMarks pa n v marks }).spoilReplies line
    (match own with
      | some g => s2.renewReplica g line
      | none => s2).ackAll x s.nextMsg none none) := by
  have hstored : Canonical s (({ (s.dropMsg x.id).countAccess x with
      mem := ((s.dropMsg x.id).countAccess x).mem.writeMarks pa n v marks } : State).spoilReplies line) :=
    (canonical_taken s x).trans ((canonical_writeMarks _ _ _ _ _).trans (canonical_of_eq rfl rfl rfl rfl))
  dsimp only
  cases own with
  | none => exact hstored.trans (canonical_ackAll _ _ _ _ _)
  | some g => exact hstored.trans (canonical_after (canonical_ackAll _ _ _ _ _) rfl rfl rfl rfl)

theorem canonical_homeStore (m : Nat) (s : State) : Canonical s (homeStore m s) := by
  rw [homeStore]
  split
  · exact canonical_refl s
  split
  · split
    · exact canonical_refused s _ _ _
    · exact canonical_ite (canonical_refl s) (canonical_ite (canonical_sendInvals s _ _ _) (canonical_storeTaken s _ _ _ _ _ _ _))
  · exact canonical_refl s

theorem canonical_answerRead (s : State) (x : Msg) (w : Who) (line ty : Nat) (code : Option FaultCode) :
    Canonical s (s.answerRead x w line ty code) := by
  rw [State.answerRead.eq_def]
  have htaken : Canonical s (if (s.homeFault x).isSome then s.dropMsg x.id else (s.dropMsg x.id).countAccess x) :=
    canonical_ite (canonical_dropMsg s _) (canonical_taken s x)
  dsimp only
  split
  · exact htaken.trans (canonical_respond _ _ _ _ _ _ _ _ _ _)
  · exact htaken.trans (canonical_respond _ _ _ _ _ _ _ _ _ _)

theorem canonical_homeLoad (m : Nat) (s : State) : Canonical s (homeLoad m s) := by
  rw [homeLoad]
  split
  · exact canonical_refl s
  split
  · exact canonical_answerRead s _ _ _ _ _
  · exact canonical_refl s

theorem canonical_homeExactRead (m : Nat) (s : State) : Canonical s (homeExactRead m s) := by
  rw [homeExactRead]
  split
  · exact canonical_refl s
  split
  · split
    · exact canonical_answerRead s _ _ _ _ _
    · exact canonical_answerRead s _ _ _ _ _
  · exact canonical_refl s

/-! What comes back. -/

theorem canonical_takeAck (s : State) (tg : Tag) (code : Option FaultCode) : Canonical s (s.takeAck tg code) := by
  rw [State.takeAck]
  split
  · split
    · exact canonical_refl s
    · exact (canonical_modCtx s _ _).trans (canonical_wakeWhere _ _)
  · exact canonical_modCtx s _ _
  · exact canonical_refl s

theorem canonical_takeData (s : State) (w : Who) (code : Option FaultCode) (va : Word) (gen : BitVec 8) (snap : Option LineSnap) :
    Canonical s (s.takeData w code va gen snap) := by
  rw [State.takeData.eq_def]
  split
  · exact canonical_modCtx s _ _
  · exact canonical_refl s

theorem canonical_endAsk (s : State) (w : Who) : Canonical s (s.endAsk w) := by
  rw [State.endAsk.eq_def]
  split
  · exact canonical_ite (canonical_refl s) (canonical_modCtx s _ _)
  · exact canonical_refl s

theorem canonical_ackArrival (m : Nat) (s : State) : Canonical s (ackArrival m s) := by
  rw [ackArrival]
  split
  · exact canonical_refl s
  refine canonical_ite (canonical_refl s) ?_
  split
  · exact (canonical_dropMsg s _).trans (canonical_takeAck _ _ _)
  · exact (canonical_dropMsg s _).trans ((canonical_takeData _ _ _ _ _ _).trans (canonical_endAsk _ _))
  · exact canonical_refl s

theorem canonical_takeResult (s : State) (w : Who) (r : TestResult) (va : Word) : Canonical s (s.takeResult w r va) :=
  (resultTaken_takeResult s w r va).canonical

theorem canonical_wakeResult (m : Nat) (s : State) : Canonical s (wakeResult m s) := by
  rw [wakeResult]
  split
  · exact canonical_refl s
  refine canonical_ite (canonical_refl s) ?_
  split
  · exact (canonical_dropMsg s _).trans (canonical_takeResult _ _ _ _)
  · exact canonical_refl s

/-! Invalidations. -/

theorem canonical_poisonSoon (s : State) (line : Nat) : Canonical s (s.poisonSoon line) := by
  rw [State.poisonSoon]
  refine canonical_ite ((canonical_invalidateAll s _).trans (canonical_of_eq rfl rfl rfl rfl)) ?_
  exact canonical_after ((homeOnly_poisonLine _ _).canonical.trans (homeOnly_retest _ _).canonical) rfl rfl rfl rfl

theorem canonical_gatewayInvalidation (m : Nat) (s : State) : Canonical s (gatewayInvalidation m s) := by
  rw [gatewayInvalidation]
  split
  · exact canonical_refl s
  split
  · exact canonical_ite (canonical_after (canonical_poisonSoon _ _) rfl rfl rfl rfl) (canonical_of_eq rfl rfl rfl rfl)
  · exact canonical_refl s

theorem canonical_refetch (s : State) (c : Context) (lo size : Nat) (tg : Target) : Canonical s (s.refetch c lo size tg).2 := by
  rw [State.refetch]
  split
  · exact canonical_refl s
  · have h := canonical_fetchCheck c.core c.asid c.sys (tg.addr.setWidth 64) s
    rw [KeepsAt] at h
    split
    · exact canonical_refl s
    next r s1 heq =>
      rw [heq] at h
      exact h

theorem canonical_putFrame (s : State) (f off : Nat) (v : MWord) : Canonical s (s.putFrame f off v) := canonical_writeMarks s _ _ _ _

/-- A target fetched again, or kept as the one before it. -/
theorem canonical_refetchIf {p : Prop} [Decidable p] {s u : State} (hs : Canonical s u) (c : Context) (lo size : Nat) (x tg : Target) :
    Canonical s (if p then (x, u) else u.refetch c lo size tg).2 := by
  split
  · exact hs
  · exact hs.trans (canonical_refetch u c lo size tg)

theorem canonical_rearm (s : State) (k : Key) (lo size : Nat) (n : Fin 8) : Canonical s (s.rearm k lo size n) := by
  rw [State.rearm]
  split
  · exact canonical_refl s
  next c _ =>
    dsimp only
    have h1 := canonical_refetch s c lo size c.regs.b[n]
    have h2 := canonical_refetchIf (p := c.unitStart.b[n] = c.regs.b[n]) h1 c lo size (s.refetch c lo size c.regs.b[n]).1 c.unitStart.b[n]
    refine canonical_ite (h2.trans (canonical_modCtx _ _ _)) ?_
    have h3 {p : Prop} [Decidable p] := canonical_refetchIf (p := p) h2 c lo size
    refine canonical_ite ((h3 _ _).trans (canonical_modCtx _ _ _)) ((h3 _ _).trans ((canonical_modCtx _ _ _).trans
      (canonical_chain.foldl (fun u off => ?_) _ _)))
    split
    · exact canonical_putFrame u _ _ _
    · exact canonical_refl u

theorem canonical_endInval (s : State) (v : Inval) : Canonical s (s.endInval v) := by
  rw [State.endInval]
  have hdropped : Canonical s (((({ s with invals := s.invals.filter (fun x => x.id != v.id) } : State).dropLines v.asid v.lo v.size).dropCode
      v.asid v.lo v.size).dropReplicas v.asid v.lo v.size) := canonical_of_eq rfl rfl rfl rfl
  exact hdropped.trans ((canonical_chain.foldl (fun u c => canonical_chain.foldl (fun u n => canonical_rearm u _ _ _ n) _ u) _ _).trans
    (canonical_wakeWhere _ _))

theorem canonical_tlbinvComplete (i : Nat) (s : State) : Canonical s (tlbinvComplete i s) := by
  rw [tlbinvComplete]
  split
  · exact canonical_refl s
  · exact canonical_ite (canonical_endInval s _) (canonical_refl s)

end Sys2Proof.Machine
end

section
/-! PROOFS. O33: the engines at work (R126 to R134, R179 to R192, R269 to R278). -/
namespace Sys2Proof.Machine
open Sys2Proof.Claims
open Sys2Proof.Safety (memoryOk)
variable {s t : State}

/-! Units of copies. -/

theorem canonical_gateRead (core : Nat) (asid : BitVec 12) (key va : Nat) (gen : BitVec 8) (ok : LineSnap → Bool) :
    Keeps Canonical (gateRead core asid key va gen ok) := (keeps_gateRead core asid key va gen ok).readsCanonical

theorem canonical_stackBytes (core : Nat) (asid : BitVec 12) (pa n va : Nat) : Keeps Canonical (stackBytes core asid pa n va) :=
  (keeps_stackBytes core asid pa n va).readsCanonical

theorem canonical_countRead (s : State) (c : Context) (l : Leaf) (va : Nat) : Canonical s (s.countRead c l va) := (agentOnly_countRead s c l va).canonical

theorem canonical_leaveReplica (s : State) (core : Nat) (asid : BitVec 12) (key va ty : Nat) (gen : BitVec 8) :
    Canonical s (s.leaveReplica core asid key va ty gen) := by
  rw [State.leaveReplica]
  split
  · exact canonical_refl s
  · exact canonical_refreshBy s _ _ _ _ _

theorem canonical_readPart (c : Context) (va n : Nat) : Keeps Canonical (readPart c va n) := by
  refine canonical_bind (canonical_copyPlace _ _ _ _ _ _) fun x => ?_
  split
  · exact canonical_pure _
  next p =>
    refine canonical_bind canonical_get fun u => ?_
    cases p with
    | page l =>
      refine keeps_ite (canonical_pure _) (canonical_bind (canonical_gateRead _ _ _ _ _ _) fun y => ?_)
      split
      · exact canonical_pure _
      split
      · exact canonical_pure _
      · refine canonical_bind (canonical_modify fun v => canonical_countRead v _ _ _) fun _ => ?_
        split
        · exact canonical_pure _
        · exact canonical_pure _
        · exact canonical_bind (canonical_modify fun v => canonical_leaveReplica v _ _ _ _ _ _) fun _ => canonical_pure _
    | stack pa =>
      refine keeps_ite (canonical_pure _) ?_
      split
      · exact canonical_pure _
      · exact canonical_bind (canonical_stackBytes _ _ _ _ _) fun _ => canonical_pure _
    | slice o => exact canonical_pure _
    | chip core off =>
      dsimp only
      split <;> exact canonical_pure _
    | device off =>
      dsimp only
      split <;> exact canonical_pure _

theorem canonical_readParts (c : Context) : ∀ ps, Keeps Canonical (readParts c ps)
  | [] => canonical_pure _
  | p :: ps => by
    refine canonical_bind (canonical_readPart c p.1 p.2) fun x => ?_
    split
    · exact canonical_pure _
    · exact canonical_bind (canonical_readParts c ps) fun _ => canonical_pure _

theorem canonical_readUnit (c : Context) (va n : Nat) : Keeps Canonical (readUnit c va n) :=
  keeps_ite (canonical_pure _) (canonical_readParts c _)

/-- What a unit's write leaves on its way. -/
def UnitResult.Keeps (s : State) : UnitResult → Prop
  | .sent _ t => Canonical s t
  | _ => True

theorem canonical_sendUnit (s : State) (c : Context) (l : Leaf) (va : Nat) (b : Body) : Canonical s (s.sendUnit c l va b) :=
  (homeOnly_send s _).canonical

theorem canonical_writeUnit (s : State) (c : Context) (m : Cmd) (g : CopyCfg) (u : Nat) (x : CopyUnit) (p : Place) (v marks : Nat) :
    (s.writeUnit c m g u x p v marks).Keeps s := by
  rw [State.writeUnit.eq_def]
  cases p with
  | slice o => exact canonical_sliceWrite s _ _ _ _ _
  | stack pa =>
    dsimp only
    split
    · trivial
    · exact canonical_stackStore s _ _ _ _ _
  | chip core off =>
    dsimp only
    split
    next h => exact canonical_chipWrite h
    · trivial
  | device off =>
    dsimp only
    split
    next h => exact canonical_deviceWrite h
    · trivial
  | page l =>
    dsimp only
    split
    · trivial
    split
    · exact canonical_sendUnit s _ _ _ _
    · exact canonical_sendUnit s _ _ _ _
    split
    · trivial
    split
    · trivial
    · exact canonical_chain.foldl (fun w e => canonical_sendUnit w _ _ _ _) _ s

theorem canonical_moveLine (s : State) (a b : Nat) : Canonical s (s.moveLine a b) := by
  rw [State.moveLine]
  refine Canonical.trans ?_ ((canonical_markWatched _ _).trans (canonical_markWatched _ _))
  exact fun ⟨h1, h2, h3, h4⟩ => ⟨(Mem.within_writeMarks _ _ _ _).1 h1, h2, h3, Memory.write_wf h4⟩

/-- An effect that comes to a unit's result: what it leaves, and what the result holds, keep canonical forms. -/
def UnitsAt (m : M UnitResult) (s : State) : Prop := ∀ r t, m s = .ok (r, t) → Canonical s t ∧ r.Keeps s

theorem UnitResult.Keeps.after {r : UnitResult} (h : r.Keeps t) (hs : Canonical s t) : r.Keeps s := by
  cases r with
  | sent n u => exact hs.trans h
  | fault f => trivial
  | wait => trivial

theorem unitsAt_bind {α : Type} {m : M α} {k : α → M UnitResult} (hm : Keeps Canonical m) (hk : ∀ x s, UnitsAt (k x) s) : UnitsAt (m >>= k) s := by
  intro r t h
  cases he : m s with
  | error e =>
    rw [bind_of_error he] at h
    nomatch h
  | ok p =>
    have hs := (hm s).of_gives he
    rw [bind_of_gives he] at h
    obtain ⟨ht, hr⟩ := hk p.1 p.2 r t h
    exact ⟨hs.trans ht, hr.after hs⟩

theorem unitsAt_pure {r : UnitResult} (h : r.Keeps s) : UnitsAt (pure r) s := by
  intro r' t hr
  cases hr
  exact ⟨canonical_refl s, h⟩

theorem unitsAt_ite {p : Prop} [Decidable p] {m m' : M UnitResult} (h : UnitsAt m s) (h' : UnitsAt m' s) : UnitsAt (if p then m else m') s := by
  split
  · exact h
  · exact h'

theorem unitsAt_get {k : State → M UnitResult} (h : UnitsAt (k s) s) : UnitsAt (get >>= k) s := h

theorem unitsAt_migrateUnit (c : Context) (g : CopyCfg) (x : CopyUnit) (s : State) : UnitsAt (migrateUnit c g x) s := by
  refine unitsAt_bind (canonical_copyPlace _ _ _ _ _ _) fun a s => unitsAt_bind (canonical_copyPlace _ _ _ _ _ _) fun b s => ?_
  split
  · exact unitsAt_pure trivial
  · exact unitsAt_pure trivial
  · refine unitsAt_get ?_
    split
    · exact unitsAt_pure trivial
    split
    · exact unitsAt_pure trivial
    split
    · exact unitsAt_pure trivial
    split
    · exact unitsAt_pure trivial
    · exact unitsAt_pure trivial
    · exact unitsAt_pure ((canonical_countRead s _ _ _).trans ((canonical_countRead _ _ _ _).trans (canonical_moveLine _ _ _)))
  · exact unitsAt_pure trivial

theorem unitsAt_performUnit (c : Context) (m : Cmd) (g : CopyCfg) (u : Nat) (x : CopyUnit) (s : State) : UnitsAt (performUnit c m g u x) s := by
  have hplain (s : State) : UnitsAt (do
      match (← readUnit c x.src x.n) with
      | .wait => return .wait
      | .fault f => return .fault f
      | .ok v marks =>
        if windowOf x.dst != windowOf (x.dst + x.dn - 1) then return .fault (faultAtVa .address x.dst)
        match (← copyPlace c .write (decide (g.mode ≠ 0)) (g.refuse c.sys) x.dn x.dst) with
        | .error f => return .fault f
        | .ok p => return (← get).writeUnit c m g u x p v marks) s := by
    refine unitsAt_bind (canonical_readUnit _ _ _) fun d s => ?_
    split
    · exact unitsAt_pure trivial
    · exact unitsAt_pure trivial
    split
    · exact unitsAt_pure trivial
    refine unitsAt_bind (canonical_copyPlace _ _ _ _ _ _) fun p s => ?_
    split
    · exact unitsAt_pure trivial
    · exact unitsAt_get (unitsAt_pure (canonical_writeUnit s _ _ _ _ _ _ _ _))
  exact unitsAt_ite (unitsAt_migrateUnit c g x s) (hplain s)

theorem runM_eq_some {α : Type} {m : M α} {r : α × State} (h : s.runM m = some r) : m s = .ok r := by
  rw [State.runM] at h
  cases he : m s with
  | error e => rw [he] at h; nomatch h
  | ok p => rw [he] at h; rw [Option.some.inj h]

theorem canonical_stallCmd (s : State) (c : Context) (m : Cmd) (f : FaultInfo) : Canonical s (s.stallCmd c m f) := by
  rw [State.stallCmd]
  refine canonical_ite (canonical_refl s) ?_
  dsimp only
  split
  · exact (canonical_modCmd s _ _ _).trans (canonical_of_eq rfl rfl rfl rfl)
  · exact (canonical_modCmd s _ _ _).trans (canonical_postRecord _ _)

theorem canonical_unitIssued (s : State) (c : Context) (m : Cmd) (u : Nat) (x : CopyUnit) {r : UnitResult × State} (hs : Canonical s r.2)
    (hr : r.1.Keeps s) : Canonical s (s.unitIssued c m u x r) := by
  obtain ⟨r, v⟩ := r
  rw [State.unitIssued.eq_def]
  cases r with
  | wait => exact canonical_refl s
  | sent left w => exact Canonical.trans hr (canonical_modCmd _ _ _ _)
  | fault f => exact canonical_ite (Canonical.trans hs (canonical_stallCmd _ _ _ _)) (Canonical.trans hs (canonical_modCmd _ _ _ _))

theorem canonical_issueUnit (s : State) (c : Context) (m : Cmd) (g : CopyCfg) (u : Nat) (x : CopyUnit) : Canonical s (s.issueUnit c m g u x) := by
  rw [issueUnit_eq]
  refine canonical_ite (canonical_refl s) ?_
  have hunit : UnitsAt (match s.markedRow c m x with
      | some f => pure (.fault f)
      | none => performUnit c m g u x) s := by
    split
    · exact unitsAt_pure trivial
    · exact unitsAt_performUnit c m g u x s
  split
  · exact canonical_refl s
  next r hrun =>
    obtain ⟨hs, hr⟩ := hunit r.1 r.2 (runM_eq_some hrun)
    exact canonical_unitIssued s c m u x hs hr

theorem canonical_countUnits (s : State) (k : Key) (seq n : Nat) : Canonical s (s.countUnits k seq n) := (inContexts_countUnits k seq n s).canonical

theorem canonical_copyUnitPerformed (k : Key) (seq u : Nat) (s : State) : Canonical s (copyUnitPerformed k seq u s) := by
  rw [copyUnitPerformed]
  split
  · exact canonical_refl s
  split
  · exact canonical_refl s
  · refine canonical_ite (canonical_refl s) (Canonical.trans (canonical_ite ?_ (canonical_refl s)) (canonical_countUnits _ _ _ _))
    split
    · exact canonical_issueUnit s _ _ _ _ _
    · exact canonical_refl s

theorem canonical_copyCommandStart (k : Key) (seq : Nat) (s : State) : Canonical s (copyCommandStart k seq s) := by
  rw [copyCommandStart]
  split
  · exact canonical_refl s
  split
  · exact canonical_refl s
  · exact canonical_ite (canonical_modCmd s _ _ _) (canonical_refl s)

/-! The matrix engine. -/

theorem canonical_tileFill (s : State) (c : Context) (n : Nat) (f : Nat → Nat × Bool) : Canonical s (s.tileFill c n f) := by
  rw [State.tileFill]
  exact canonical_of_acc fun h => List.foldlRecOn (motive := fun m : Mem => m.wf = true) _ _ h fun m hm _ _ => (Mem.within_writeN _ _ _ _).1 hm

theorem canonical_runMma (s : State) (c : Context) (view : BitVec 256) (a b : Word) (g0 n : Nat) : Canonical s (s.runMma c view a b g0 n) := by
  rw [State.runMma]
  exact canonical_tileFill s _ _ _

theorem canonical_runScale (s : State) (c : Context) (a b : Word) : Canonical s (s.runScale c a b) := by
  rw [State.runScale]
  dsimp only
  split
  · exact (canonical_tileZero s c _).trans (canonical_tileFill _ _ _ _)
  · exact canonical_tileFill s _ _ _

theorem canonical_runMatrix (s : State) (c : Context) (m : Cmd) : Canonical s (s.runMatrix c m) := by
  rw [State.runMatrix]
  split
  · exact canonical_tileZero s c _
  · exact canonical_runMma s _ _ _ _ _ _
  · exact canonical_runScale s _ _ _
  · rw [State.runLoad]
    exact canonical_tileFill s _ _ _
  · rw [State.runStore]
    exact canonical_sliceWrite s _ _ _ _ _
  · exact canonical_refl s

theorem canonical_matrixCommandStart (k : Key) (seq : Nat) (s : State) : Canonical s (matrixCommandStart k seq s) := by
  rw [matrixCommandStart]
  split
  · exact canonical_refl s
  split
  · exact canonical_refl s
  · exact canonical_ite (canonical_modCmd s _ _ _) (canonical_refl s)

theorem canonical_matrixCommandComplete (k : Key) (seq : Nat) (s : State) : Canonical s (matrixCommandComplete k seq s) := by
  rw [matrixCommandComplete]
  split
  · exact canonical_refl s
  split
  · exact canonical_refl s
  · exact canonical_ite ((canonical_runMatrix s _ _).trans (canonical_completeCmd _ _ _ _)) (canonical_refl s)

theorem canonical_mmaPreemptBound (k : Key) (seq : Nat) (s : State) : Canonical s (mmaPreemptBound k seq s) := by
  rw [mmaPreemptBound]
  split
  · exact canonical_refl s
  split
  · exact canonical_refl s
  split
  · refine canonical_ite (((canonical_runMma s _ _ _ _ _ _).trans (canonical_modCmd _ _ _ _)).trans (canonical_of_eq rfl rfl rfl rfl)) (canonical_refl s)
  · exact canonical_refl s

/-! Lamp banks. -/

theorem canonical_emit (s : State) (e : Context) (seq : Nat) (target : BitVec 26) (weight : BitVec 16) (step : Nat) :
    Canonical s (s.emit e seq target weight step) :=
  canonical_after (canonical_modCmd _ _ _ _) rfl rfl rfl rfl

theorem canonical_settleSpark (s : State) (x : Spark) (code : Option FaultCode) : Canonical s (s.settleSpark x code) := by
  rw [State.settleSpark]
  have hs := canonical_modCmd s x.emitter x.seq (fun m => { m with
    unsettled := m.unsettled - 1
    sparkFaults := match code with
      | some e => m.sparkFaults ++ [(x.order, { code := e, addr := x.target.setWidth 64 })]
      | none => m.sparkFaults })
  split
  · exact hs
  split
  · exact hs
  split
  · exact hs.trans (canonical_completeCmd _ _ _ _)
  · exact hs

theorem canonical_sparkArrival (i : Nat) (s : State) : Canonical s (sparkArrival i s) := by
  rw [sparkArrival]
  split
  · exact canonical_refl s
  · dsimp only
    split
    · exact (canonical_modCore s _ _).trans (canonical_settleSpark _ _ _)
    · exact (canonical_modCore s _ _).trans (canonical_settleSpark _ _ _)

theorem canonical_fireCell (s : State) (c : Context) (m : Cmd) (g : LampCfg) (n cell : Nat) : Canonical s (s.fireCell c m g n cell) := by
  rw [State.fireCell]
  exact canonical_chain.foldl (fun u _ => canonical_emit u _ _ _ _ _) _ s

theorem canonical_iteFst {α : Type} {c : Prop} [Decidable c] {p q : State × α} (h : Canonical s p.1) (h' : Canonical s q.1) :
    Canonical s (if c then p else q).1 := by
  split
  · exact h
  · exact h'

theorem canonical_stepCell (s : State) (c : Context) (m : Cmd) (tile : Nat) (g : LampCfg) (n : Nat) (xs : List Spark) (fired cell : Nat) :
    Canonical s (s.stepCell c m tile g n xs fired cell).1 := by
  have hput (u : State) (x : Nat) (mark : Bool) : Canonical u { u with acc := u.acc.writeN (c.tileWord tile cell) 4 x mark } :=
    canonical_of_acc (Mem.within_writeN _ _ _ _).1
  rw [State.stepCell]
  refine canonical_iteFst (hput s _ _) ?_
  exact (canonical_ite (canonical_sliceWrite s _ _ _ _ _) (canonical_refl s)).trans ((canonical_fireCell _ _ _ _ _ _).trans (hput _ _ _))

theorem canonical_integrate (s : State) (c : Context) (m : Cmd) (tile : Nat) (g : LampCfg) : Canonical s (s.integrate c m tile g) := by
  rw [State.integrate]
  have hcells (l : List Nat) (f : State × Nat → Nat → State × Nat) (hf : ∀ p x, Canonical p.1 (f p x).1) (p : State × Nat) :
      Canonical p.1 (l.foldl f p).1 :=
    List.foldlRecOn (motive := fun q => Canonical p.1 q.1) l f (canonical_refl p.1) fun q hq x _ => hq.trans (hf q x)
  exact (hcells _ _ (fun p x => canonical_stepCell p.1 _ _ _ _ _ _ _ _) (s, g.fired)).trans ((canonical_modCore _ _ _).trans (canonical_modCmd _ _ _ _))

theorem canonical_endStep (s : State) (c : Context) (m : Cmd) (off : Nat) (g : LampCfg) (f : Option FaultInfo) :
    Canonical s (s.endStep c m off g f) := by
  rw [State.endStep.eq_def]
  have hs := canonical_writeBank s c.key off m.fired (g.step + 1)
  refine canonical_ite (hs.trans (canonical_completeCmd _ _ _ _)) ?_
  split
  · exact hs.trans (canonical_completeCmd _ _ _ _)
  · exact canonical_ite (hs.trans (canonical_completeCmd _ _ _ _)) (hs.trans (canonical_modCmd _ _ _ _))

theorem canonical_barrierPage (c : Context) (kind : AccessKind) (va : Nat) : Keeps Canonical (barrierPage c kind va) := by
  refine canonical_bind (canonical_copyPlace _ _ _ _ _ _) fun x => ?_
  split
  · exact canonical_pure _
  · refine keeps_ite (canonical_pure _) (canonical_bind canonical_get fun u => ?_)
    split
    · exact canonical_bind canonical_get fun _ => canonical_pure _
    · exact canonical_pure _
  · exact canonical_pure _

/-- What an effect leaves where it does not stop. -/
theorem canonical_runM {α : Type} {m : M α} {r : α × State} (hm : Keeps Canonical m) (h : s.runM m = some r) : Canonical s r.2 :=
  (hm s).of_gives (runM_eq_some h)

theorem canonical_barrierJoin (s : State) (c : Context) (m : Cmd) (off : Nat) (g : LampCfg) : Canonical s (s.barrierJoin c m off g) := by
  rw [State.barrierJoin]
  split
  · exact canonical_refl s
  next f s1 h =>
    have hs : Canonical s s1 := canonical_runM (canonical_barrierPage c _ _) h
    exact canonical_ite (hs.trans (canonical_stallCmd _ _ _ _)) (hs.trans (canonical_endStep _ _ _ _ _ _))
  next l s1 h =>
    have hs : Canonical s s1 := canonical_runM (canonical_barrierPage c _ _) h
    refine canonical_ite (canonical_refl s) ?_
    have hjoined (j : JoinReq) := hs.trans ((canonical_countRead s1 c l g.barrier).trans (homeOnly_joinAt _ j).canonical)
    dsimp only
    split
    · exact (hjoined _).trans (canonical_endStep _ _ _ _ _ _)
    · exact (hjoined _).trans (canonical_modCmd _ _ _ _)

theorem canonical_barrierWait (s : State) (c : Context) (m : Cmd) (off : Nat) (g : LampCfg) : Canonical s (s.barrierWait c m off g) := by
  rw [State.barrierWait]
  split
  · exact canonical_refl s
  next f s1 h =>
    have hs : Canonical s s1 := canonical_runM (canonical_barrierPage c _ _) h
    exact canonical_ite (hs.trans (canonical_stallCmd _ _ _ _)) (hs.trans (canonical_endStep _ _ _ _ _ _))
  next l s1 h =>
    have hs : Canonical s s1 := canonical_runM (canonical_barrierPage c _ _) h
    have hasked : Canonical s (if m.lamp = .asked then s1
        else (s1.countTest c l g.barrier).modCmd c.key m.seq (fun m => { m with lamp := .asked })) :=
      canonical_ite hs (hs.trans ((agentOnly_countTest s1 c l g.barrier).canonical.trans (canonical_modCmd _ _ _ _)))
    dsimp only
    generalize (if m.lamp = .asked then s1
        else (s1.countTest c l g.barrier).modCmd c.key m.seq (fun m => { m with lamp := .asked })) = s2 at hasked ⊢
    split
    · exact hasked
    · exact hasked.trans (canonical_endStep _ _ _ _ _ _)

theorem canonical_runStep (s : State) (c : Context) (m : Cmd) (tile : Nat) : Canonical s (s.runStep c m tile) := by
  rw [State.runStep]
  split
  · exact canonical_refl s
  · dsimp only
    split
    · exact canonical_ite (canonical_integrate s _ _ _ _) (canonical_refl s)
    · exact canonical_ite (canonical_barrierJoin s _ _ _ _) (canonical_refl s)
    · exact canonical_ite (canonical_barrierWait s _ _ _ _) (canonical_refl s)
    · exact canonical_ite (canonical_barrierWait s _ _ _ _) (canonical_refl s)

theorem canonical_lampStep (k : Key) (seq : Nat) (s : State) : Canonical s (lampStep k seq s) := by
  rw [lampStep]
  split
  · exact canonical_refl s
  split
  · exact canonical_refl s
  split
  · exact canonical_ite ((canonical_modCmd s _ _ _).trans (canonical_emit _ _ _ _ _ _)) (canonical_refl s)
  · exact canonical_ite ((canonical_modCmd s _ _ _).trans (canonical_runStep _ _ _ _))
      (canonical_ite (canonical_runStep s _ _ _) (canonical_refl s))
  · exact canonical_refl s

end Sys2Proof.Machine
end

section
/-! PROOFS. O33: frames, the scheduler and the stops (R97, R306 to R318, R351 to R360). -/
namespace Sys2Proof.Machine
open Sys2Proof.Claims
open Sys2Proof.Safety (memoryOk)
variable {s t : State}

/-! Frames saved (R356, R359). -/

theorem canonical_frameWrites (s : State) (c : Context) (n : Nat) : Canonical s (s.frameWrites c n) := by
  rw [State.frameWrites]
  exact (writesIn_saveRegs s c).canonical.trans ((writesIn_saveTables _ c).canonical.trans ((writesIn_slice _ c).canonical.trans
    (writesIn_saveSparks _ c n).canonical))

theorem canonical_takeSparks (s : State) (c : Context) : Canonical s (s.takeSparks c).1 := by
  rw [State.takeSparks]
  exact canonical_of_eq rfl rfl rfl rfl

theorem canonical_written (s : State) (c : Context) : Canonical s (s.written c) := by
  rw [State.written]
  exact (canonical_takeSparks s c).trans (canonical_frameWrites _ c _)

theorem canonical_putAside (s : State) (c : Context) : Canonical s (s.putAside c) := canonical_ite (canonical_leave s c) (canonical_setCtx s c)

theorem canonical_refreshSuspended (s : State) : Canonical s s.refreshSuspended := by
  obtain ⟨qs, h⟩ := refreshSuspended_eq (s := s)
  rw [h]
  exact canonical_of_eq rfl rfl rfl rfl

theorem canonical_saveCtx (s : State) (k : Key) : Canonical s (s.saveCtx k) := by
  cases h : s.ctx? k with
  | none => rw [State.saveCtx, h]; exact canonical_refl s
  | some c =>
    cases hslot : c.slot with
    | none =>
      rw [State.saveCtx, h]
      dsimp only
      rw [if_pos (by rw [hslot]; rfl)]
      exact (writesIn_saveRegs s c).canonical
    | some sl =>
      rw [saveCtx_eq h (by rw [hslot]; rfl)]
      exact (canonical_written s c).trans ((canonical_putAside _ _).trans ((canonical_drainHeld _ _ _).trans (canonical_refreshSuspended _)))

theorem canonical_pullCrew (s : State) (c : Context) (pre : Bool) : Canonical s (s.pullCrew c pre) := by
  obtain ⟨cur, ctxs, h⟩ := pullCrew_eq s c pre
  rw [h]
  exact canonical_of_eq rfl rfl rfl rfl

theorem canonical_evict (s : State) (ks : List Key) : Canonical s (s.evict ks) := by
  rw [State.evict]
  refine canonical_chain.foldl (fun u k => ?_) ks s
  split
  · exact (canonical_pullCrew u _ _).trans (canonical_saveCtx _ k)
  · exact canonical_refl u

theorem canonical_makeFit {core foot tiles : Nat} {p : Room} (h : s.makeFit core foot tiles = some (t, p)) : Canonical s t := by
  rw [State.makeFit] at h
  split at h
  · nomatch h
  · obtain ⟨q, -, hq⟩ := Option.map_eq_some_iff.1 h
    rw [← (Prod.mk.inj hq).1]
    exact canonical_evict s q.1

/-! Frames restored (R360). -/

theorem canonical_copyScratch (s : State) (b : Nat) (src : Mem) (a n : Nat) : Canonical s { s with scratch := s.scratch.copyFrom b src a n } :=
  canonical_of_scratch (Mem.within_copyFrom b src a n).1

theorem canonical_copyAcc (s : State) (b : Nat) (src : Mem) (a n : Nat) : Canonical s { s with acc := s.acc.copyFrom b src a n } :=
  canonical_of_acc (Mem.within_copyFrom b src a n).1

theorem canonical_restoreCtx (s : State) (k : Key) (p : Room) : Canonical s (s.restoreCtx k p) := by
  rw [State.restoreCtx]
  split
  · exact canonical_refl s
  · refine Canonical.trans ?_ (canonical_setCtx _ _)
    refine Canonical.trans ?_ (canonical_chain.foldl (fun u _ => canonical_copyAcc u _ _ _ _) _ _)
    refine Canonical.trans ?_ (canonical_chain.foldl (fun u _ => canonical_copyScratch u _ _ _ _) _ _)
    exact (canonical_putBack s _).trans (canonical_modCore _ _ _)

/-! A fault at a context (R351). -/

theorem canonical_unload (s : State) : Canonical s s.unload := (currentOnly_unload s).canonical

theorem canonical_load (s : State) (k : Key) : Canonical s (s.load k) := (currentOnly_load s k).canonical

theorem canonical_faultAt (s : State) (k : Key) (f : FaultInfo) : Canonical s (s.faultAt k f) := by
  rw [State.faultAt]
  refine canonical_ite (canonical_takeFault f s) ?_
  dsimp only
  refine canonical_ite (canonical_refl s) ?_
  have hfault : Canonical s { (takeFault f (s.unload.load k)).unload with stalled := s.stalled } :=
    (canonical_unload s).trans ((canonical_load _ k).trans ((canonical_takeFault f _).trans ((canonical_unload _).trans (canonical_of_eq rfl rfl rfl rfl))))
  exact canonical_ite (hfault.trans (canonical_load _ _)) hfault

/-! Work chosen (R306 to R317). -/

theorem canonical_run (s : State) (c : Context) : Canonical s (s.run c) := by
  obtain ⟨_, _, _, _, h⟩ := run_shape s c
  rw [h]
  exact canonical_of_eq rfl rfl rfl rfl

theorem canonical_noteKey (s : State) (id : Nat) (key : Word) : Canonical s (s.noteKey id key) := by
  obtain ⟨_, _, h⟩ := noteKey_shape s id key
  rw [h]
  exact canonical_of_eq rfl rfl rfl rfl

theorem canonical_placed (s : State) (r : TaskRec) (core : Nat) (p : Room) (id : BitVec 16) : Canonical s (s.placed r core p id) := by
  rw [State.placed]
  exact fun ⟨h1, h2, h3, h4⟩ => ⟨h1, Mem.wf_clear _ _ h2,
    List.foldlRecOn (motive := fun m : Mem => m.wf = true) _ _ h3 fun m hm _ _ => Mem.wf_clear _ _ hm, h4⟩

theorem canonical_acquireL1 (s : State) (core : Nat) : Canonical s (s.acquireL1 core) := canonical_of_eq rfl rfl rfl rfl

theorem canonical_startTask (s : State) (r : TaskRec) (core : Nat) (p : Room) (id : BitVec 16) : Canonical s (s.startTask r core p id).1 := by
  rw [startTask_eq]
  exact (canonical_placed s r core p id).trans ((canonical_acquireL1 _ core).trans (canonical_noteKey _ _ _))

theorem canonical_wakeCtx (s : State) (k : Key) : Canonical s (s.wakeCtx k) := (inContexts_wakeCtx s k).canonical

theorem canonical_inboxMoved (s : State) (core : Nat) (high : Bool) : Canonical s (s.inboxMoved core high) := by
  obtain h | ⟨k, h⟩ := inboxMoved_wakes s core high
  · rw [h]
    exact canonical_refl s
  · rw [h]
    exact canonical_wakeCtx s k

theorem canonical_startHigh {core : Nat} (h : s.startHigh core = some t) : Canonical s t := by
  rw [State.startHigh] at h
  split at h
  · nomatch h
  · cases h
    exact (canonical_modCore s _ _).trans ((canonical_inboxMoved _ _ _).trans ((canonical_startTask _ _ _ _ _).trans (canonical_run _ _)))

theorem canonical_continueSuspended {core : Nat} (h : s.continueSuspended core = some t) : Canonical s t := by
  rw [State.continueSuspended] at h
  split at h
  · nomatch h
  · obtain ⟨c, -, rfl⟩ := Option.map_eq_some_iff.1 h
    exact canonical_run s c

theorem canonical_goOn (s : State) (k : Key) : Canonical s (match s.ctx? k with
    | some x => s.run x
    | none => s) := by
  split
  · exact canonical_run s _
  · exact canonical_refl s

theorem canonical_runWoken {core : Nat} {c : Context} (h : s.runWoken core c = some t) : Canonical s t := by
  rw [State.runWoken] at h
  dsimp only at h
  split at h
  · cases h
    exact canonical_goOn s c.key
  split at h
  · split at h
    · nomatch h
    · cases h
      exact (canonical_restoreCtx s c.key _).trans (canonical_goOn _ c.key)
  · split at h
    next hfit =>
      cases h
      exact (canonical_makeFit hfit).trans ((canonical_restoreCtx _ c.key _).trans (canonical_goOn _ c.key))
    · nomatch h

theorem canonical_runFirst {core : Nat} : ∀ {cs : List Context}, s.runFirst core cs = some t → Canonical s t
  | [], h => nomatch h
  | c :: cs, h => by
    rw [State.runFirst] at h
    split at h
    next hrun =>
      cases h
      exact canonical_runWoken hrun
    · exact canonical_runFirst h

theorem canonical_reserveCrew {core : Nat} (h : s.reserveCrew core = some t) : Canonical s t := by
  rw [State.reserveCrew] at h
  split at h
  · nomatch h
  split at h
  · nomatch h
  split at h
  · nomatch h
  next hfit =>
    cases h
    exact (canonical_makeFit hfit).trans (canonical_of_eq rfl rfl rfl rfl)

theorem canonical_dispatch {core : Nat} {r : TaskRec} (h : s.dispatch core r = some t) : Canonical s t := by
  rw [State.dispatch] at h
  split at h
  · nomatch h
  split at h
  · nomatch h
  split at h
  · nomatch h
  next hfit =>
    cases h
    exact (canonical_makeFit hfit).trans ((canonical_startTask _ _ _ _ _).trans (canonical_run _ _))

theorem canonical_takeInbox {core : Nat} (h : s.takeInbox core = some t) : Canonical s t := by
  rw [State.takeInbox] at h
  split at h
  · nomatch h
  · obtain ⟨u, hu, rfl⟩ := Option.map_eq_some_iff.1 h
    exact (canonical_dispatch hu).trans ((canonical_modCore _ _ _).trans (canonical_inboxMoved _ _ _))

theorem canonical_takeDeque {core : Nat} (h : s.takeDeque core = some t) : Canonical s t := by
  rw [State.takeDeque] at h
  split at h
  · nomatch h
  · obtain ⟨u, hu, rfl⟩ := Option.map_eq_some_iff.1 h
    exact (canonical_dispatch hu).trans (canonical_modCore _ _ _)

theorem canonical_chooseWork {core : Nat} (h : s.chooseWork core = some t) : Canonical s t := by
  rw [State.chooseWork] at h
  split at h
  · nomatch h
  split at h
  next hw => cases h; exact canonical_startHigh hw
  split at h
  next hw => cases h; exact canonical_continueSuspended hw
  split at h
  next hw => cases h; exact canonical_runFirst hw
  split at h
  next hw => cases h; exact canonical_reserveCrew hw
  split at h
  · nomatch h
  split at h
  next hw => cases h; exact canonical_takeInbox hw
  · exact canonical_takeDeque h

/-- What is done where it can be. -/
theorem canonical_getD {o : Option State} (h : ∀ t, o = some t → Canonical s t) : Canonical s (o.getD s) := by
  cases o with
  | none => exact canonical_refl s
  | some t => exact h t rfl

theorem canonical_coreDispatch (core : Nat) (s : State) : Canonical s (coreDispatch core s) := canonical_getD fun _ => canonical_chooseWork

theorem canonical_setAside {core : Nat} {st : Status} (h : s.setAside core st = some t) : Canonical s t := by
  rw [State.setAside] at h
  split at h
  · nomatch h
  next c _ =>
    split at h
    · nomatch h
    · cases h
      exact (canonical_putAside s { c with status := st }).trans (canonical_of_eq rfl rfl rfl rfl)

theorem canonical_highPriorityStart (core : Nat) (s : State) : Canonical s (highPriorityStart core s) := by
  rw [highPriorityStart]
  refine canonical_ite (canonical_refl s) ?_
  split
  · exact canonical_refl s
  next s1 hs =>
    cases h : s1.startHigh core with
    | none => exact canonical_refl s
    | some u => exact (canonical_setAside hs).trans (canonical_startHigh h)

theorem canonical_handlerOverrun (core : Nat) (s : State) : Canonical s (handlerOverrun core s) := by
  rw [handlerOverrun]
  split
  · exact canonical_refl s
  · exact canonical_ite (canonical_refl s) (canonical_faultAt s _ _)

theorem canonical_timeSliceExpiry (core : Nat) (s : State) : Canonical s (timeSliceExpiry core s) := by
  rw [timeSliceExpiry]
  split
  · exact canonical_refl s
  · exact canonical_ite (canonical_refl s) (canonical_getD fun _ => canonical_setAside)

theorem canonical_gleanPass (core : Nat) (s : State) : Canonical s (gleanPass core s) := by
  rw [gleanPass]
  exact canonical_ite (canonical_refl s) (canonical_modCore s _ _)

theorem canonical_gleanProbe (core : Nat) (s : State) : Canonical s (gleanProbe core s) := by
  rw [gleanProbe]
  split
  · exact canonical_modCore s _ _
  · refine canonical_ite (canonical_modCore s _ _) ?_
    split
    · exact canonical_modCore s _ _
    · exact canonical_ite ((canonical_modCore s _ _).trans (canonical_modCore _ _ _)) (canonical_modCore s _ _)
  · exact canonical_refl s

theorem canonical_gleanedRecordArrival (core : Nat) (s : State) : Canonical s (gleanedRecordArrival core s) := by
  rw [gleanedRecordArrival]
  split
  next r _ =>
    have hidle := canonical_modCore s core (fun k => { k with glean := .idle })
    dsimp only
    split
    next u hu =>
      split at hu
      · exact hidle.trans (canonical_dispatch hu)
      · nomatch hu
    · exact hidle.trans (canonical_pushDeque _ _ _)
  · exact canonical_refl s

theorem canonical_dropTransit (s : State) (id : Nat) : Canonical s (s.dropTransit id) := canonical_of_eq rfl rfl rfl rfl

theorem canonical_dequeRecordArrival (i : Nat) (s : State) : Canonical s (dequeRecordArrival i s) := by
  rw [dequeRecordArrival]
  split
  · exact canonical_refl s
  · exact canonical_ite ((canonical_dropTransit s _).trans (canonical_pushDeque _ _ _)) (canonical_refl s)

theorem canonical_inboxRecordArrival (i : Nat) (s : State) : Canonical s (inboxRecordArrival i s) := by
  rw [inboxRecordArrival]
  split
  · exact canonical_refl s
  refine canonical_ite (canonical_refl s) ?_
  split
  · exact canonical_refl s
  · exact canonical_ite ((canonical_dropTransit s _).trans (canonical_putInbox _ _ _ _)) (canonical_refl s)

/-! Crews. -/

theorem canonical_modCrew (s : State) (id : Nat) (f : Crew → Crew) : Canonical s (s.modCrew id f) := canonical_of_eq rfl rfl rfl rfl

theorem canonical_startMembers {w : Crew} : ∀ (ms : List (Nat × TaskRec)) (s : State), s.startMembers w ms = some t → Canonical s t
  | [], s, h => by
    cases h
    exact canonical_refl _
  | (core, r) :: ms, s, h => by
    rw [State.startMembers] at h
    split at h
    · exact (canonical_startTask s _ _ _ _).trans ((canonical_modCtx _ _ _).trans ((canonical_modCrew _ _ _).trans (canonical_startMembers ms _ h)))
    · nomatch h

theorem canonical_bindChannel (s : State) (w : Nat) (d : ChanDesc) : Canonical s (s.bindChannel w d) := by
  rw [State.bindChannel]
  dsimp only
  split
  · exact canonical_after ((canonical_modCtx _ _ _).trans (canonical_modCtx _ _ _)) rfl rfl rfl rfl
  · exact canonical_refl s

theorem canonical_restartMembers (s : State) (w : Crew) : Canonical s (s.restartMembers w) := by
  rw [State.restartMembers]
  refine (canonical_modCrew s _ _).trans (canonical_chain.foldl (fun u c => ?_) _ _)
  split
  · exact canonical_restoreCtx u _ _
  · exact canonical_refl u

theorem canonical_crewStart (crew : Nat) (s : State) : Canonical s (crewStart crew s) := by
  rw [crewStart]
  split
  · exact canonical_refl s
  refine canonical_ite (canonical_refl s) (canonical_ite (canonical_ite (canonical_restartMembers s _) (canonical_refl s))
    (canonical_ite ?_ (canonical_refl s)))
  split
  next h => exact (canonical_startMembers _ s h).trans ((canonical_modCrew _ _ _).trans (canonical_chain.foldl (fun u d => canonical_bindChannel u _ _) _ _))
  · exact canonical_refl s

theorem canonical_crewDeadlock (crew : Nat) (s : State) : Canonical s (crewDeadlock crew s) := by
  rw [crewDeadlock]
  split
  · exact canonical_refl s
  · exact canonical_ite (canonical_chain.foldl (fun u c => canonical_faultAt u _ _) _ s) (canonical_refl s)

/-! Pre-emption and stops. -/

theorem canonical_halt (s : State) (c : Context) : Canonical s (s.halt c) := by
  rw [halt_eq, State.calledOut]
  exact (canonical_of_eq (t := ({ s with nextSeq := s.nextSeq + 1 } : State)) rfl rfl rfl rfl).trans ((canonical_putAside _ _).trans
    ((canonical_pullCrew _ _ _).trans (canonical_drainHeld _ _ _)))

theorem canonical_preemption (k : Key) (s : State) : Canonical s (preemption k s) := by
  rw [preemption]
  split
  · exact canonical_refl s
  next c _ =>
    have hhalt : Canonical s (if c.leaving && c.status != .running then s else s.halt c) := canonical_ite (canonical_refl s) (canonical_halt s c)
    exact canonical_ite (canonical_refl s) (canonical_ite (hhalt.trans (canonical_saveCtx _ k)) hhalt)

theorem canonical_recordStop (s : State) (c : Context) (x : StopRec) : Canonical s (s.recordStop c x) := by
  obtain ⟨rs, n, h⟩ := recordStop_eq s c x
  rw [h]
  exact canonical_of_eq rfl rfl rfl rfl

theorem canonical_faultStop (k : Key) (s : State) : Canonical s (faultStop k s) := by
  rw [faultStop]
  split
  · exact canonical_refl s
  split
  · exact canonical_refl s
  · exact canonical_ite ((canonical_modCtx s _ _).trans ((canonical_recordStop _ _ _).trans (canonical_saveCtx _ k))) (canonical_refl s)

/-! Fault queues. -/

theorem canonical_askQueueCell (s : State) (asid : BitVec 12) (cell : Nat) : Canonical s (s.askQueueCell asid cell) := by
  rw [State.askQueueCell]
  cases h : s.joinQueueCell asid cell with
  | none => exact canonical_of_eq rfl rfl rfl rfl
  | some u => exact (homeOnly_joinQueueCell h).canonical

theorem canonical_retryQueueJoins (s : State) (asid : BitVec 12) : Canonical s (s.retryQueueJoins asid) := by
  rw [State.retryQueueJoins]
  refine Canonical.trans (t := (s.queueJoins.foldl (fun (r : State × List (BitVec 12 × Nat)) x =>
    match if x.1 == asid then r.1.joinQueueCell asid x.2 else none with
    | some t => (t, r.2)
    | none => (r.1, r.2 ++ [x])) (s, [])).1) ?_ (canonical_of_eq rfl rfl rfl rfl)
  refine List.foldlRecOn (motive := fun q : State × List (BitVec 12 × Nat) => Canonical s q.1) _ _ (canonical_refl s) fun q hq x _ => ?_
  split
  next u hu =>
    split at hu
    · exact hq.trans (homeOnly_joinQueueCell hu).canonical
    · nomatch hu
  · exact hq

theorem canonical_recordPut (s : State) (pa : Nat) (r : FaultRec) (lead fq n : Nat) (rs : List FaultRec) :
    Canonical s (({ s with mem := (s.mem.putRecord pa r lead).writeN fq 8 n false, records := rs } : State).raiseVector 64) :=
  (canonical_of_mem (m := (s.mem.putRecord pa r lead).writeN fq 8 n false) fun h =>
    (Mem.within_writeN _ _ _ _).1 ((Mem.within_writeMarks _ _ _ _).1 h)).trans (canonical_of_eq rfl rfl rfl rfl)

theorem canonical_writeNextRecord (s : State) (asid : BitVec 12) : Canonical s (s.writeNextRecord asid) := by
  rw [State.writeNextRecord]
  split
  · exact canonical_refl s
  next r _ =>
    exact canonical_ite (canonical_refl s) ((canonical_recordPut s _ r _ _ _ _).trans (canonical_askQueueCell _ _ _))

theorem canonical_faultRecordWrite (asid : BitVec 12) (s : State) : Canonical s (faultRecordWrite asid s) :=
  (canonical_retryQueueJoins s asid).trans (canonical_writeNextRecord _ asid)

theorem canonical_faultQueueFullSignal (asid : BitVec 12) (s : State) : Canonical s (faultQueueFullSignal asid s) :=
  canonical_ite (homeOnly_raiseVector s 64).canonical (canonical_refl s)

theorem canonical_resumeCtx (k : Key) (after : Bool) (s : State) : Canonical s (resumeCtx k after s) := by
  rw [resumeCtx]
  split
  · exact canonical_ite ((canonical_setCtx s _).trans (canonical_of_eq rfl rfl rfl rfl)) (canonical_refl s)
  · exact canonical_refl s

theorem canonical_resumeRecord (k : Key) (s : State) : Canonical s (resumeRecord k s) := by
  rw [resumeRecord]
  split
  · exact canonical_refl s
  next after _ =>
    have hs : Canonical s { s with resumes := dropResume k s.resumes } := canonical_of_eq rfl rfl rfl rfl
    dsimp only
    split
    · exact hs
    · exact canonical_ite (canonical_refl s) (canonical_ite (hs.trans ((canonical_resumeCtx _ _ _).trans (canonical_putFrame _ _ _ _)))
        (hs.trans (canonical_resumeCtx _ _ _)))

end Sys2Proof.Machine
end

section
/-! PROOFS. O33: the agents and the graph walkers (R303, R319 to R330). -/
namespace Sys2Proof.Machine
open Sys2Proof.Claims
open Sys2Proof.Safety (memoryOk)
variable {s t : State} (c : Context)

theorem Keeps.agentCanonical {α : Type} {m : M α} (h : Keeps AgentOnly m) : Keeps Canonical m := h.mono AgentOnly.canonical

/-! Units of an agent's copy (R303, R321). -/

theorem canonical_agentWrite {fill : Bool} {x : CopyUnit} {p : Place} {v marks : Nat} (h : s.agentWrite c fill x p v marks = .ok t) :
    Canonical s t := by
  rw [State.agentWrite.eq_def] at h
  cases p with
  | slice o =>
    cases h
    exact canonical_sliceWrite s _ _ _ _ _
  | stack pa =>
    dsimp only at h
    split at h
    · cases h
    · cases h
      exact canonical_stackStore s _ _ _ _ _
  | chip core off => exact canonical_chipWrite h
  | device off => exact canonical_deviceWrite h
  | page l =>
    dsimp only at h
    split at h
    · cases h
    have hcount := canonical_countRead s c l x.dst
    split at h
    · split at h
      · cases h
      · cases h
        exact hcount.trans (homeOnly_fillAt _ _ _ _).canonical
    · cases h
      exact hcount.trans ((canonical_writeMarks _ _ _ _ _).trans (canonical_of_eq rfl rfl rfl rfl))

theorem canonical_migrateUnit (g : CopyCfg) (x : CopyUnit) : Keeps Canonical (migrateUnit c g x) := by
  refine canonical_bind (canonical_copyPlace _ _ _ _ _ _) fun a => canonical_bind (canonical_copyPlace _ _ _ _ _ _) fun b => ?_
  split
  · exact canonical_pure _
  · exact canonical_pure _
  · refine canonical_bind canonical_get fun s => ?_
    refine keeps_ite (canonical_pure _) (keeps_ite (canonical_pure _) (keeps_ite (canonical_pure _) ?_))
    split
    · exact canonical_pure _
    · exact canonical_pure _
    · exact canonical_pure _
  · exact canonical_pure _

theorem canonical_sentUnit (g : CopyCfg) (x : CopyUnit) : Keeps Canonical (do
    match (← migrateUnit c g x) with
    | .sent _ s1 =>
      set s1
      return AgentUnit.done
    | .fault f => return .fault f
    | .wait => throw .stall) := by
  intro s
  have hunit := unitsAt_migrateUnit c g x s
  cases he : migrateUnit c g x s with
  | error e =>
    have h := canonical_migrateUnit c g x s
    rw [KeepsAt, he] at h
    rw [KeepsAt, bind_of_error he]
    cases e with
    | kept f u => exact h
    | _ => trivial
  | ok p =>
    obtain ⟨hs, hr⟩ := hunit p.1 p.2 he
    rw [KeepsAt, bind_of_gives he]
    cases hp : p.1 with
    | sent n u =>
      rw [hp] at hr
      exact hr
    | fault f => exact hs
    | wait => trivial

theorem canonical_agentCopyUnit (fill mig : Bool) (x : CopyUnit) : Keeps Canonical (agentCopyUnit c fill mig x) := by
  have hplain : Keeps Canonical (do
      match (← readUnit c x.src x.n) with
      | .wait => throw .stall
      | .fault f => return AgentUnit.fault f
      | .ok v marks =>
        if windowOf x.dst != windowOf (x.dst + x.dn - 1) then return .fault (faultAtVa .address x.dst)
        let refuse := if fill then onlyTypes (fun ty => decide (ty = 1)) else refusePlain c.sys
        match (← copyPlace c .write fill refuse x.dn x.dst) with
        | .error f => return .fault f
        | .ok p =>
          match p with
          | .page l => if l.jblock then throw .stall
          | _ => pure ()
          match (← get).agentHeld fill x p v marks with
          | some line =>
            modify fun s => s.invalidateAll line
            return .wait
          | none =>
            match (← get).agentWrite c fill x p v marks with
            | .error f => return .fault f
            | .ok s1 =>
              set s1
              return .done) := by
    refine canonical_bind (canonical_readUnit c _ _) fun r => ?_
    cases r with
    | wait => exact fun _ => trivial
    | fault f => exact canonical_pure _
    | ok v marks =>
      refine keeps_ite (canonical_pure _) ?_
      refine canonical_bind (canonical_copyPlace c _ _ _ _ _) fun p => ?_
      have hend (p : Place) : Keeps Canonical (do
          match (← get).agentHeld fill x p v marks with
          | some line =>
            modify fun s => s.invalidateAll line
            return AgentUnit.wait
          | none =>
            match (← get).agentWrite c fill x p v marks with
            | .error f => return .fault f
            | .ok s1 =>
              set s1
              return .done) := by
        refine canonical_bind canonical_get fun s => ?_
        split
        · exact canonical_bind (canonical_modify fun s => canonical_invalidateAll s _) fun _ => canonical_pure _
        · intro s
          refine keepsAt_get ?_
          split
          · exact canonical_refl s
          · exact keepsAt_set canonical_chain (canonical_agentWrite c ‹_›) (canonical_pure _ _)
      cases p with
      | error f => exact canonical_pure _
      | ok p =>
        cases p with
        | page l => 
          dsimp only
          split
          · exact fun _ => trivial
          · exact hend _
        | slice o => exact hend (.slice o)
        | stack pa => exact hend (.stack pa)
        | chip core off => exact hend (.chip core off)
        | device off => exact hend (.device off)
  rw [agentCopyUnit]
  split
  · exact canonical_sentUnit c _ x
  · exact hplain

/-! The legacy window's commands (R303). -/

theorem canonical_setLegacy (s : State) (l : Legacy) (new : Option Legacy) : Canonical s (s.setLegacy l new) := canonical_of_eq rfl rfl rfl rfl

theorem canonical_legacyFault (s : State) (l : Legacy) (f : FaultInfo) : Canonical s (s.legacyFault l f) :=
  (canonical_setLegacy s l none).trans (canonical_postRecord _ _)

theorem canonical_legacyDone {l : Legacy} (h : s.legacyDone l = some t) : Canonical s t := by
  rw [State.legacyDone] at h
  split at h
  · cases h
    exact canonical_setLegacy s l none
  split at h
  · cases h
  next s1 hrun =>
    cases h
    exact (canonical_runM (agentOnly_join _ _).agentCanonical hrun).trans (canonical_setLegacy _ l none)
  next f s1 hrun =>
    cases h
    exact (canonical_runM (agentOnly_join _ _).agentCanonical hrun).trans (canonical_legacyFault _ l f)

theorem canonical_legacyEnds (s : State) (l : Legacy) : Canonical s ((s.legacyDone l).getD s) := canonical_getD fun _ => canonical_legacyDone

theorem canonical_legacyCopyStep (s : State) (l : Legacy) (fill : Bool) : Canonical s (s.legacyCopyStep l fill) := by
  rw [State.legacyCopyStep]
  split
  · exact canonical_legacyEnds s l
  next x _ =>
    refine canonical_ite (canonical_refl s) ?_
    have hact : Keeps Canonical (do
        match (← if l.done = 0 then agentMigrates (s.legacyCtx l) fill l.src l.dst l.len else pure (.ok l.mig)) with
        | .error f => return Except.error f
        | .ok mig => return .ok (mig, ← agentCopyUnit (s.legacyCtx l) fill mig x)) := by
      have hend (r : Except FaultInfo Bool) : Keeps Canonical (match r with
          | .error f => pure (Except.error f)
          | .ok mig => do return .ok (mig, ← agentCopyUnit (s.legacyCtx l) fill mig x)) := by
        cases r with
        | error f => exact canonical_pure _
        | ok mig => exact canonical_bind (canonical_agentCopyUnit _ _ _ _) fun _ => canonical_pure _
      dsimp only
      split
      · exact canonical_bind (agentOnly_migrates _ _ _ _ _).agentCanonical hend
      · exact canonical_bind (canonical_pure _) hend
    dsimp only
    split
    · exact canonical_refl s
    next hrun => exact canonical_runM hact hrun
    next hrun => exact (canonical_runM hact hrun).trans (canonical_legacyFault _ _ _)
    next hrun => exact (canonical_runM hact hrun).trans (canonical_legacyFault _ _ _)
    next hrun => exact (canonical_runM hact hrun).trans (canonical_setLegacy _ _ _)

theorem canonical_legacyCopy (k : Key) (s : State) : Canonical s (legacyCopy k s) := by
  rw [legacyCopy]
  split
  · exact canonical_refl s
  · exact canonical_legacyCopyStep s _ _

theorem canonical_legacyFill (k : Key) (s : State) : Canonical s (legacyFill k s) := by
  rw [legacyFill]
  split
  · exact canonical_refl s
  · exact canonical_legacyCopyStep s _ _

theorem canonical_legacyLaunch (k : Key) (s : State) : Canonical s (legacyLaunch k s) := by
  rw [legacyLaunch]
  split
  · exact canonical_refl s
  next l _ =>
    refine canonical_ite (canonical_legacyEnds s l) (canonical_ite (canonical_refl s) ?_)
    split
    · exact canonical_refl s
    next f s1 hrun => exact (canonical_runM (agentOnly_record _ _ _).agentCanonical hrun).trans (canonical_legacyFault _ _ _)
    next r s1 hrun =>
      have hread : Canonical s s1 := canonical_runM (agentOnly_record _ _ _).agentCanonical hrun
      split
      · exact canonical_refl s
      · refine canonical_ite (canonical_refl s) (hread.trans ?_)
        exact canonical_after ((canonical_putInbox _ _ _ _).trans ((canonical_setLegacy _ _ _).trans (canonical_legacyEnds _ _))) rfl rfl rfl rfl

/-! Nodes in the state. -/

theorem canonical_modGraph (s : State) (g : Nat) (f : Graph → Graph) : Canonical s (s.modGraph g f) := canonical_of_eq rfl rfl rfl rfl

theorem canonical_modNode (s : State) (g n : Nat) (f : GNode → GNode) : Canonical s (s.modNode g n f) := canonical_modGraph s g _

theorem canonical_failNode (s : State) (x : Graph) (n : Nat) (code : FaultCode) : Canonical s (s.failNode x n code) := by
  rw [State.failNode]
  exact canonical_ite (canonical_refl s) ((canonical_modGraph s _ _).trans (canonical_postRecord _ _))

theorem canonical_startable {g n kind : Nat} {a : NodeAt} (h : s.startable g n kind = some (a, t)) : Canonical s t := by
  rw [State.startable] at h
  split at h
  · cases h
  split at h
  · cases h
  split at h
  · cases h
  split at h
  next ws s1 hrun =>
    split at h
    · cases h
      exact canonical_runM (agentOnly_consts _ _ _).agentCanonical hrun
    · cases h
  · cases h

theorem canonical_startNode (s : State) (g n kind : Nat) {act : NodeAt → M (Except FaultCode Unit)} (hact : ∀ a, Keeps Canonical (act a)) :
    Canonical s (s.startNode g n kind act) := by
  rw [State.startNode]
  split
  · exact canonical_refl s
  next a s1 h =>
    have hread := canonical_startable h
    refine canonical_ite (hread.trans (canonical_failNode _ _ _ _)) ?_
    split
    · exact canonical_refl s
    next h2 => exact hread.trans ((canonical_modNode _ _ _ _).trans (canonical_runM (hact a) h2))
    next h2 => exact hread.trans ((canonical_modNode _ _ _ _).trans ((canonical_runM (hact a) h2).trans (canonical_failNode _ _ _ _)))

theorem canonical_limit (ok : Bool) {k : M (Except FaultCode Unit)} (hk : Keeps Canonical k) : Keeps Canonical (limit ok k) :=
  keeps_ite hk (canonical_pure _)

end Sys2Proof.Machine
end

section
/-! PROOFS. O33: what the nodes of a graph do, and how they complete (R320 to R330). -/
namespace Sys2Proof.Machine
open Sys2Proof.Claims
open Sys2Proof.Safety (memoryOk)
variable {s t : State} (a : NodeAt)

/-! Their starts. -/

theorem canonical_countCell (c : Context) (va : Nat) : Keeps Canonical (countCell c va) := by
  rw [countCell]
  refine keeps_ite (canonical_pure _) (canonical_bind (agentOnly_field _ _ _ _ _).agentCanonical fun r => ?_)
  cases r with
  | error f => exact canonical_pure _
  | ok l => exact canonical_bind canonical_get fun _ => canonical_pure _

theorem canonical_sendRecord (s : State) (c kind : Nat) (r : TaskRec) : Canonical s (s.sendRecord c kind r) := canonical_of_eq rfl rfl rfl rfl

theorem canonical_tasksetBody : Keeps Canonical (tasksetBody a) := by
  refine canonical_limit _ (canonical_bind canonical_get fun s => ?_)
  refine canonical_bind (agentOnly_record _ _ _).agentCanonical fun r => ?_
  cases r with
  | error f => exact canonical_pure _
  | ok r =>
    refine keeps_ite (canonical_pure _) (canonical_bind (canonical_countCell _ _) fun code => ?_)
    cases code with
    | some code => exact canonical_pure _
    | none =>
      refine canonical_bind (canonical_modify fun s => canonical_chain.foldl (fun u i => canonical_sendRecord u _ _ _) _ s) fun _ => ?_
      exact keeps_ite (canonical_bind (agentOnly_ask _ _ _).agentCanonical fun _ => canonical_pure _) (canonical_pure _)

theorem canonical_crewMembers (c : Context) : ∀ (m i : Nat), Keeps Canonical (crewMembers a c i m)
  | 0, _ => canonical_pure _
  | m + 1, i => by
    refine canonical_bind (agentOnly_consts _ _ _).agentCanonical fun ws => ?_
    cases ws with
    | error f => exact canonical_pure _
    | ok ws =>
      refine keeps_ite (canonical_pure _) (canonical_bind (agentOnly_record _ _ _).agentCanonical fun r => ?_)
      cases r with
      | error f => exact canonical_pure _
      | ok r =>
        refine keeps_ite (canonical_pure _) (canonical_bind (canonical_crewMembers c m (i + 1)) fun rest => ?_)
        cases rest with
        | error code => exact canonical_pure _
        | ok rest => exact canonical_bind canonical_get fun _ => canonical_pure _

theorem canonical_crewBody : Keeps Canonical (crewBody a) := by
  refine canonical_limit _ (canonical_bind canonical_get fun s => ?_)
  refine canonical_bind (canonical_crewMembers a _ _ _) fun ms => ?_
  cases ms with
  | error code => exact canonical_pure _
  | ok ms =>
    refine keeps_ite (canonical_pure _) (canonical_bind (agentOnly_consts _ _ _).agentCanonical fun ds => ?_)
    cases ds with
    | error f => exact canonical_pure _
    | ok ds =>
      refine keeps_ite (canonical_pure _) (canonical_bind (canonical_countCell _ _) fun code => ?_)
      cases code with
      | some code => exact canonical_pure _
      | none =>
        refine canonical_bind (canonical_modify fun s => canonical_of_eq rfl rfl rfl rfl) fun _ => ?_
        exact canonical_bind (agentOnly_ask _ _ _).agentCanonical fun _ => canonical_pure _

theorem canonical_copyBody : Keeps Canonical (copyBody a) := by
  refine canonical_bind canonical_get fun s => canonical_bind (agentOnly_migrates _ _ _ _ _).agentCanonical fun r => ?_
  cases r with
  | error f => exact canonical_pure _
  | ok mig => exact canonical_bind (canonical_modify fun s => canonical_modNode s _ _ _) fun _ => canonical_pure _

theorem canonical_nodeCopyStep (s : State) (x : Graph) (y : GNode) (ws : List Word) : Canonical s (s.nodeCopyStep x y ws) := by
  rw [State.nodeCopyStep]
  split
  · exact canonical_refl s
  split
  · exact canonical_refl s
  next hrun => exact canonical_runM (canonical_agentCopyUnit _ _ _ _) hrun
  next hrun => exact (canonical_runM (canonical_agentCopyUnit _ _ _ _) hrun).trans (canonical_failNode _ _ _ _)
  next hrun => exact (canonical_runM (canonical_agentCopyUnit _ _ _ _) hrun).trans (canonical_modNode _ _ _ _)

theorem canonical_nodeCopy (g n : Nat) (s : State) : Canonical s (nodeCopy g n s) := by
  rw [nodeCopy]
  split
  · exact canonical_refl s
  split
  · exact canonical_refl s
  refine canonical_ite ?_ (canonical_startNode s g n 3 fun a => canonical_limit _ (canonical_copyBody a))
  split
  next hrun => exact canonical_ite ((canonical_runM (agentOnly_consts _ _ _).agentCanonical hrun).trans (canonical_nodeCopyStep _ _ _ _)) (canonical_refl s)
  · exact canonical_refl s

theorem canonical_condBody : Keeps Canonical (condBody a) := by
  refine canonical_limit _ (canonical_bind canonical_get fun s => canonical_bind (agentOnly_exact _ _).agentCanonical fun r => ?_)
  cases r with
  | error f => exact canonical_pure _
  | ok x => exact canonical_bind (canonical_modify fun s => canonical_modNode s _ _ _) fun _ => canonical_pure _

theorem canonical_nodePreds (c : Context) (x : Graph) : ∀ (k i : Nat), Keeps Canonical (nodePreds c x i k)
  | 0, _ => canonical_pure _
  | k + 1, i => by
    refine canonical_bind (agentOnly_const _ _ _).agentCanonical fun w => ?_
    cases w with
    | error f => exact canonical_pure _
    | ok w =>
      refine canonical_bind (canonical_nodePreds c x k (i + 1)) fun rest => ?_
      cases rest with
      | error code => exact canonical_pure _
      | ok rest => exact canonical_pure _

theorem canonical_whileBody : Keeps Canonical (whileBody a) := by
  refine canonical_limit _ (canonical_bind canonical_get fun s => canonical_bind (canonical_nodePreds _ _ _ _) fun ps => ?_)
  cases ps with
  | error code => exact canonical_pure _
  | ok ps =>
    refine canonical_limit _ (canonical_bind (agentOnly_exact _ _).agentCanonical fun r => ?_)
    cases r with
    | error f => exact canonical_pure _
    | ok x => exact canonical_bind (canonical_modify fun s => canonical_ite (canonical_modGraph s _ _) (canonical_modNode s _ _ _)) fun _ => canonical_pure _

theorem canonical_freezeBody : Keeps Canonical (freezeBody a) := by
  rw [freezeBody]
  split
  · exact canonical_pure _
  · refine canonical_bind canonical_get fun s => canonical_bind (agentOnly_freeze _ _ _ _).agentCanonical fun r => ?_
    cases r with
    | some f => exact canonical_pure _
    | none => exact canonical_pure _

theorem canonical_fallowBody : Keeps Canonical (fallowBody a) := by
  refine canonical_bind canonical_get fun s => ?_
  dsimp only
  split
  · exact canonical_pure _
  · refine canonical_bind (agentOnly_freeze _ _ _ _).agentCanonical fun r => ?_
    cases r with
    | some f => exact canonical_pure _
    | none =>
      refine canonical_bind (canonical_modify fun s => ?_) fun _ => canonical_pure _
      exact (canonical_bumpGens _ s).trans ((canonical_startInval _ _ _ _ _).trans (canonical_modNode _ _ _ _))

theorem canonical_waitcellBody : Keeps Canonical (waitcellBody a) := by
  refine canonical_bind canonical_get fun s => canonical_bind (agentOnly_ask _ _ _).agentCanonical fun _ => ?_
  refine canonical_bind canonical_get fun s => canonical_bind (agentOnly_test _ _ _ _).agentCanonical fun r => ?_
  cases r with
  | error f => exact canonical_pure _
  | ok b => exact canonical_pure _

theorem canonical_postCompletion (s : State) (q : Fin 64) (ws : List Word) : Canonical s (s.postCompletion q ws) :=
  (canonical_writeN s _ _ _ _).trans (canonical_of_eq rfl rfl rfl rfl)

theorem canonical_complete (s : State) (id status code node : Nat) : Canonical s (s.complete id status code node) := by
  rw [State.complete]
  split
  · exact canonical_refl s
  · dsimp only
    split
    · exact canonical_after (canonical_postCompletion _ _ _) rfl rfl rfl rfl
    · exact canonical_of_eq rfl rfl rfl rfl

theorem canonical_notifyBody : Keeps Canonical (notifyBody a) := by
  refine canonical_bind (canonical_modify fun s => ?_) fun _ => canonical_pure _
  split
  · split
    · exact canonical_postCompletion s _ _
    · exact canonical_refl s
  · exact canonical_refl s

theorem canonical_endNodeBody : Keeps Canonical (endNodeBody a) :=
  canonical_bind (canonical_modify fun s => canonical_modGraph s _ _) fun _ => canonical_pure _

/-! Their completion. -/

theorem canonical_endWatches (s : State) (p : Watch → Bool) : Canonical s (s.endWatches p) := by
  obtain ⟨md, h⟩ := endWatches_shape s p
  have hmd : (s.endWatches p).md = md := by rw [h]
  rw [h]
  exact canonical_chain.trans (canonical_of_md fun hs => hmd ▸ endWatches_wf p hs) (canonical_of_eq rfl rfl rfl rfl)

theorem canonical_dropTests (s : State) (p : Who → Bool) : Canonical s (s.dropTests p) := by
  rw [State.dropTests]
  exact canonical_after (canonical_endWatches _ _) rfl rfl rfl rfl

theorem canonical_reap (s : State) (c : Context) : Canonical s (s.reap c) :=
  (canonical_dropTests s _).trans ((canonical_countEnd _ c true).trans (canonical_freeCtx _ c))

theorem canonical_reapAll (s : State) (launch : Nat) : Canonical s (s.reapAll launch) := canonical_chain.foldl canonical_reap _ s

theorem canonical_regionDone (c : Context) (va : Nat) : Keeps Canonical (regionDone c va) := by
  refine canonical_bind (agentOnly_consts _ _ _).agentCanonical fun ws => ?_
  cases ws with
  | error f => exact canonical_pure _
  | ok ws =>
    refine keeps_ite (canonical_pure _) (keeps_ite ?_ (keeps_ite (canonical_pure _) ?_))
    · exact canonical_bind (canonical_modify fun s => canonical_l1inv s _ _ _) fun _ => canonical_pure _
    · refine canonical_bind (agentOnly_freeze _ _ _ _).agentCanonical fun r => ?_
      cases r with
      | some f => exact canonical_pure _
      | none => exact canonical_pure _

theorem canonical_regionsDone (c : Context) : ∀ (n va : Nat), Keeps Canonical (regionsDone c va n)
  | 0, _ => canonical_pure _
  | n + 1, va => by
    refine canonical_bind (canonical_regionDone c va) fun r => ?_
    cases r with
    | some code => exact canonical_pure _
    | none => exact canonical_regionsDone c n (va + 16)

theorem canonical_countInto (x : Graph) (n succ : Nat) (run : Bool) : Keeps Canonical (countInto x n succ run) := by
  refine canonical_bind canonical_get fun s => ?_
  dsimp only
  split
  · exact canonical_pure _
  · exact keeps_ite (canonical_pure _) (canonical_bind (canonical_modify fun s => canonical_modNode s _ _ _) fun _ => canonical_pure _)

theorem canonical_edgesDone (c : Context) (x : Graph) (n va : Nat) (runs : Nat → Bool) :
    ∀ (k i : Nat), Keeps Canonical (edgesDone c x n va runs i k)
  | 0, _ => canonical_pure _
  | k + 1, i => by
    refine canonical_bind (agentOnly_consts _ _ _).agentCanonical fun ws => ?_
    cases ws with
    | error f => exact canonical_pure _
    | ok ws =>
      refine keeps_ite (canonical_pure _) ?_
      have hcount (code : Option FaultCode) : Keeps Canonical (match code with
          | some code => pure (some code)
          | none => edgesDone c x n va runs (i + 1) k) := by
        cases code with
        | some code => exact canonical_pure _
        | none => exact canonical_edgesDone c x n va runs k (i + 1)
      have hregions (code : Option FaultCode) : Keeps Canonical (match code with
          | some code => pure (some code)
          | none => do
            match (← if wbits (nodeWord ws 0) 0 16 = 0xFFFF then pure none else countInto x n (wbits (nodeWord ws 0) 0 16) (runs i)) with
            | some code => return some code
            | none => edgesDone c x n va runs (i + 1) k) := by
        cases code with
        | some code => exact canonical_pure _
        | none =>
          dsimp only
          split
          · exact canonical_bind (canonical_pure _) hcount
          · exact canonical_bind (canonical_countInto x n _ _) hcount
      dsimp only
      split
      · exact canonical_bind (canonical_regionsDone c _ _) hregions
      · exact canonical_bind (canonical_pure _) hregions

theorem canonical_endIteration (s : State) (x : Graph) (n : Nat) : Canonical s (s.endIteration x n) := by
  rw [State.endIteration]
  split
  · exact canonical_modNode s _ _ _
  · exact canonical_refl s

theorem canonical_finishNode (s : State) (x : Graph) (y : GNode) (ws : List Word) (run : Bool) : Canonical s (s.finishNode x y ws run) := by
  rw [State.finishNode]
  split
  · exact canonical_refl s
  next hrun => exact (canonical_modNode s _ _ _).trans ((canonical_runM (canonical_edgesDone _ _ _ _ _ _ _) hrun).trans (canonical_endIteration _ _ _))
  next hrun => exact (canonical_modNode s _ _ _).trans ((canonical_runM (canonical_edgesDone _ _ _ _ _ _ _) hrun).trans (canonical_failNode _ _ _ _))

/-- A test that its node waits for. -/
theorem canonical_tested (c : Context) (types : Nat → Bool) (va : Nat) (trig : Word) : Keeps Canonical (do
    match (← agentTest c types va trig) with
    | .error f => return some f.code
    | .ok true => return none
    | .ok false => throw .stall) := by
  refine canonical_bind (agentOnly_test _ _ _ _).agentCanonical fun r => ?_
  split
  · exact canonical_pure _
  · exact canonical_pure _
  · exact fun _ => trivial

theorem canonical_nodeDone (x : Graph) (y : GNode) (ws : List Word) (c : Context) : Keeps Canonical (nodeDone x y ws c) := by
  rw [nodeDone]
  split
  · refine keeps_ite ?_ (canonical_tested _ _ _ _)
    refine canonical_bind canonical_get fun s => keeps_ite ?_ fun _ => trivial
    exact canonical_bind (canonical_modify fun s => canonical_reapAll s _) fun _ => canonical_pure _
  · exact canonical_tested _ _ _ _
  · exact keeps_ite (fun _ => trivial) (canonical_pure _)
  · exact keeps_ite (canonical_pure _) fun _ => trivial
  · refine canonical_bind canonical_get fun s => keeps_ite (fun _ => trivial) ?_
    exact canonical_bind (canonical_modify fun s => canonical_resetLines s _ _ _) fun _ => canonical_pure _
  · exact canonical_tested _ _ _ _
  · exact canonical_pure _

theorem canonical_nodeComplete (g n : Nat) (s : State) : Canonical s (nodeComplete g n s) := by
  rw [nodeComplete]
  split
  · exact canonical_refl s
  split
  · exact canonical_refl s
  refine canonical_ite (canonical_refl s) ?_
  split
  · exact canonical_refl s
  next hread => exact canonical_ite ((canonical_runM (agentOnly_consts _ _ _).agentCanonical hread).trans (canonical_failNode _ _ _ _)) (canonical_refl s)
  next hread =>
    have hs := canonical_runM (agentOnly_consts _ _ _).agentCanonical hread
    split
    · exact canonical_ite (hs.trans (canonical_finishNode _ _ _ _ _)) (canonical_ite (canonical_refl s) (hs.trans (canonical_failNode _ _ _ _)))
    · split
      · exact canonical_refl s
      next hdone => exact hs.trans ((canonical_runM (canonical_nodeDone _ _ _ _) hdone).trans (canonical_failNode _ _ _ _))
      next hdone => exact hs.trans ((canonical_runM (canonical_nodeDone _ _ _ _) hdone).trans (canonical_finishNode _ _ _ _ _))
    · exact canonical_refl s

theorem canonical_graphComplete (g : Nat) (s : State) : Canonical s (graphComplete g s) := by
  rw [graphComplete]
  split
  · exact canonical_refl s
  refine canonical_ite (canonical_refl s) ?_
  dsimp only
  split
  · exact canonical_after (canonical_complete _ _ _ _ _) rfl rfl rfl rfl
  · exact canonical_ite (canonical_after (canonical_complete _ _ _ _ _) rfl rfl rfl rfl) (canonical_refl s)

theorem canonical_graphStallFail (g : Nat) (s : State) : Canonical s (graphStallFail g s) := by
  rw [graphStallFail]
  split
  · exact canonical_refl s
  refine canonical_ite (canonical_refl s) ?_
  split
  · exact canonical_failNode s _ _ _
  · exact canonical_refl s

end Sys2Proof.Machine
end

section
/-! PROOFS. O33: image loads (R25 to R35). -/
namespace Sys2Proof.Machine
open Sys2Proof.Claims
open Sys2Proof.Safety (memoryOk)
variable {s t : State}

theorem canonical_fileBytes (c : Context) (base off n : Nat) : Keeps Canonical (fileBytes c base off n) := by
  rw [fileBytes]
  refine keeps_ite (canonical_pure _) (keeps_ite (canonical_pure _) (canonical_bind (canonical_readParts c _) fun r => ?_))
  split
  · exact canonical_pure _
  · exact canonical_pure _

theorem canonical_sectionAt (c : Context) (base image off : Nat) : Keeps Canonical (sectionAt c base image off) := by
  refine canonical_bind (canonical_fileBytes c _ _ _) fun r => ?_
  cases r with
  | none => exact canonical_pure _
  | some x => exact canonical_pure _

theorem canonical_readAll {α : Type} {f : Nat → M (Option α)} (hf : ∀ i, Keeps Canonical (f i)) :
    ∀ (n i : Nat), Keeps Canonical (readAll f i n)
  | 0, _ => canonical_pure _
  | n + 1, i => by
    refine canonical_bind (hf i) fun r => ?_
    cases r with
    | none => exact canonical_pure _
    | some x =>
      refine canonical_bind (canonical_readAll hf n (i + 1)) fun xs => ?_
      cases xs with
      | none => exact canonical_pure _
      | some xs => exact canonical_pure _

theorem canonical_imageSections (c : Context) (base dir i : Nat) : Keeps Canonical (imageSections c base dir i) := by
  refine canonical_bind (canonical_fileBytes c _ _ _) fun r => ?_
  cases r with
  | none => exact canonical_pure _
  | some x => exact canonical_readAll (fun j => canonical_sectionAt c base i _) _ _

theorem canonical_readContainer (c : Context) (base : Nat) : Keeps Canonical (readContainer c base) := by
  refine canonical_bind (canonical_fileBytes c _ _ _) fun r => ?_
  cases r with
  | none => exact canonical_pure _
  | some h =>
    refine keeps_ite (canonical_pure _) ?_
    refine canonical_bind (canonical_readAll (fun i => canonical_imageSections c _ _ i) _ _) fun ss => ?_
    refine canonical_bind (canonical_readAll (fun i => canonical_fileBytes c _ _ _) _ _) fun ps => ?_
    refine canonical_bind (canonical_readAll (fun i => canonical_fileBytes c _ _ _) _ _) fun es => ?_
    split
    · exact canonical_pure _
    · exact canonical_pure _

/-! Mapping and writing (R25, R26). -/

theorem canonical_takeFrames (s : State) (n : Nat) : Canonical s (s.takeFrames n).2 :=
  fun ⟨h1, h2, h3, h4⟩ => ⟨Mem.wf_clear _ _ h1, h2, h3, Memory.clear_wf h4⟩

theorem canonical_putEntry (s : State) (pa w0 w1 : Nat) : Canonical s (s.putEntry pa w0 w1) := canonical_writeN s _ _ _ _

theorem canonical_mapBelow (va w0 w1 : Nat) : ∀ (n table : Nat) (s : State), Canonical s (mapBelow va w0 w1 n table s)
  | 0, _, s => canonical_putEntry s _ _ _
  | n + 1, table, s => by
    rw [mapBelow]
    exact canonical_ite (canonical_mapBelow va w0 w1 n _ s)
      ((canonical_takeFrames s _).trans ((canonical_putEntry _ _ _ _).trans (canonical_mapBelow va w0 w1 n _ _)))

theorem canonical_mapPage (s : State) (asid : BitVec 12) (x : Section) (va pa : Nat) : Canonical s (s.mapPage asid x va pa) :=
  canonical_mapBelow _ _ _ _ _ s

theorem canonical_joinLine (s : State) (x : Section) (va line data n : Nat) : Canonical s (s.joinLine x va line data n) :=
  canonical_chain.foldl (fun u _ => (homeOnly_joinAt u _).canonical) _ s

theorem canonical_fillLines (s : State) (line : Nat) (ls : List (Nat × Nat × Nat)) :
    Canonical s (ls.foldl (fun s l => (s.fillAt (line + l.1) (BitVec.ofNat 1024 l.2.1) false).1) s) :=
  canonical_chain.foldl (fun u _ => (homeOnly_fillAt u _ _ _).canonical) _ s

theorem canonical_freezeLinesAt (s : State) (line n ty : Nat) :
    Canonical s ((List.range n).foldl (fun s i => s.freezeAt (line + i) ty) s) :=
  canonical_chain.foldl (fun u _ => (homeOnly_freezeAt u _ _).canonical) _ s

theorem canonical_writeLines (s : State) (pa : Nat) (ls : List (Nat × Nat × Nat)) :
    Canonical s { s with mem := ls.foldl (fun m l => m.writeN (pa + 128 * l.1) l.2.2 l.2.1 false) s.mem } :=
  canonical_of_mem fun h => List.foldlRecOn (motive := fun m : Mem => m.wf = true) _ _ h fun _ hm _ _ => (Mem.within_writeN _ _ _ _).1 hm

/-- The contents of a field section, which go where it has any. -/
theorem canonical_contents (s : State) (x : Section) (va line : Nat) (ls : List (Nat × Nat × Nat)) : Canonical s (
    if x.host then s
    else if x.ty = 1 then ls.foldl (fun s l => (s.fillAt (line + l.1) (BitVec.ofNat 1024 l.2.1) false).1) s
    else ls.foldl (fun s l => s.joinLine x (va + 128 * l.1) (line + l.1) l.2.1 l.2.2) s) :=
  canonical_ite (canonical_refl s) (canonical_ite (canonical_fillLines s _ _) (canonical_chain.foldl (fun u _ => canonical_joinLine u _ _ _ _ _) _ s))

theorem canonical_writeSection (s : State) (x : Section) (pa data : Nat) : Canonical s (s.writeSection x pa data) := by
  rw [State.writeSection]
  dsimp only
  split
  · exact (canonical_fillLines s _ _).trans (canonical_freezeLinesAt _ _ _ _)
  · exact (canonical_fillLines s _ _).trans (canonical_freezeLinesAt _ _ _ _)
  · exact canonical_writeLines s _ _
  · refine canonical_ite (Canonical.trans ?_ (canonical_freezeLinesAt _ _ _ _)) ?_
    · exact canonical_contents s x _ _ _
    · exact canonical_contents s x _ _ _

theorem canonical_mapPages (s : State) (asid : BitVec 12) (x : Section) (pa n : Nat) :
    Canonical s ((List.range n).foldl (fun s i => s.mapPage asid x (x.va + 4096 * i) (pa + 4096 * i)) s) :=
  canonical_chain.foldl (fun u _ => canonical_mapPage u _ _ _ _) _ s

theorem canonical_loadSection (s : State) (c : Context) (base : Nat) (x : Section) : Canonical s (s.loadSection c base x) := by
  rw [State.loadSection]
  split
  next hrun =>
    exact (canonical_runM (canonical_fileBytes _ _ _ _) hrun).trans
      ((canonical_takeFrames _ _).trans ((canonical_mapPages _ _ _ _ _).trans (canonical_writeSection _ _ _ _)))
  · exact canonical_refl s

theorem canonical_loadImage {launch base : Nat} {asid : BitVec 12} (h : s.loadImage launch asid base = some t) : Canonical s t := by
  rw [State.loadImage] at h
  dsimp only at h
  split at h
  next hrun =>
    split at h
    · cases h
      refine (canonical_runM (canonical_readContainer _ _) hrun).trans ?_
      exact (canonical_chain.foldl (fun u x => canonical_loadSection u _ _ _) _ _).trans (canonical_of_eq rfl rfl rfl rfl)
    · cases h
  · cases h

/-! The boot tree (R34, R35). -/

theorem canonical_preloadLine (s : State) (core : Nat) (asid : BitVec 12) (va : Nat) : Canonical s (s.preloadLine core asid va) := by
  rw [State.preloadLine]
  split
  · exact canonical_of_eq rfl rfl rfl rfl
  · exact canonical_refl s

theorem canonical_bootTextReceive (load core : Nat) (s : State) : Canonical s (bootTextReceive load core s) := by
  rw [bootTextReceive]
  split
  · exact canonical_refl s
  split
  · exact canonical_refl s
  · refine canonical_ite (canonical_refl s) ?_
    exact canonical_after ((canonical_modCore _ core _).trans (canonical_chain.foldl (fun u va => canonical_preloadLine u _ _ _) _ _)) rfl rfl rfl rfl

theorem canonical_imageLoadComplete (load : Nat) (s : State) : Canonical s (imageLoadComplete load s) := by
  rw [imageLoadComplete]
  split
  · exact canonical_refl s
  · exact canonical_ite (canonical_after (canonical_complete _ _ _ _ _) rfl rfl rfl rfl) (canonical_refl s)

end Sys2Proof.Machine
end

section
/-! PROOFS. O33: the host, its queues and registers (R331, R361 to R369, R398). -/
namespace Sys2Proof.Machine
open Sys2Proof.Claims
open Sys2Proof.Safety (memoryOk)
variable {s t : State}

theorem canonical_modQueue (s : State) (q : Fin 64) (f : Queue → Queue) : Canonical s (s.modQueue q f) := canonical_of_eq rfl rfl rfl rfl

theorem canonical_doorbell (q : Fin 64) (tail : BitVec 32) (s : State) : Canonical s (doorbell q tail s) :=
  canonical_ite (canonical_refl s) (canonical_modQueue s q _)

theorem canonical_looked (s : State) : Canonical s s.looked := canonical_of_eq rfl rfl rfl rfl

theorem canonical_hostLog (s : State) (rule a b : Nat) : Canonical s (s.hostLog rule a b) :=
  canonical_ite (canonical_refl s) ((canonical_writeN s _ _ _ _).trans (canonical_of_eq rfl rfl rfl rfl))

/-! Launches (R331). -/

theorem canonical_accept (s : State) (q : Fin 64) (ws : List Word) : Canonical s (s.accept q ws).1 := canonical_of_eq rfl rfl rfl rfl

theorem canonical_reject (s : State) (id : Nat) (code : FaultCode) : Canonical s (s.reject id code) := canonical_complete s _ _ _ _

/-- An entry accepted and then rejected. -/
theorem canonical_rejected (s : State) (q : Fin 64) (ws : List Word) (id : Nat) (code : FaultCode) :
    Canonical s ((s.accept q ws).1.reject id code) := (canonical_accept s q ws).trans (canonical_reject _ _ _)

theorem canonical_launchRecord (q : Fin 64) (s : State) : Canonical s (launchRecord q s) := by
  rw [launchRecord]
  split
  · exact canonical_looked s
  next ws _ =>
    have haccept := canonical_accept s q ws
    refine canonical_ite (canonical_refl s) (canonical_ite (canonical_rejected s q ws _ _) ?_)
    split
    · exact canonical_refl s
    next hrun => exact haccept.trans ((canonical_runM (agentOnly_record _ _ _).agentCanonical hrun).trans (canonical_reject _ _ _))
    next hrun =>
      exact canonical_ite (canonical_refl s)
        (haccept.trans ((canonical_runM (agentOnly_record _ _ _).agentCanonical hrun).trans (canonical_sendRecord _ _ _ _)))

theorem canonical_readNodes (c : Context) (base : Nat) : ∀ (k i : Nat), Keeps Canonical (readNodes c base i k)
  | 0, _ => canonical_pure _
  | k + 1, i => by
    refine canonical_bind (agentOnly_consts _ _ _).agentCanonical fun ws => ?_
    cases ws with
    | error f => exact canonical_pure _
    | ok ws =>
      refine canonical_bind (canonical_readNodes c base k (i + 1)) fun rest => ?_
      cases rest with
      | error e => exact canonical_pure _
      | ok rest => exact canonical_pure _

theorem canonical_launchGraph (q : Fin 64) (s : State) : Canonical s (launchGraph q s) := by
  rw [launchGraph]
  split
  · exact canonical_looked s
  next ws _ =>
    have haccept := canonical_accept s q ws
    refine canonical_ite (canonical_refl s) (canonical_ite (canonical_rejected s q ws _ _) ?_)
    dsimp only
    split
    · exact canonical_refl s
    next hrun => exact haccept.trans ((canonical_runM (canonical_readNodes _ _ _ _) hrun).trans (canonical_of_eq rfl rfl rfl rfl))
    next hrun =>
      exact haccept.trans ((canonical_runM (canonical_readNodes _ _ _ _) hrun).trans (canonical_after (canonical_failNode _ _ _ _) rfl rfl rfl rfl))

/-- One of two, the first where it comes to something. -/
theorem canonical_getOr {o : Option State} (ht : Canonical s t) (h : ∀ u, o = some u → Canonical s u) : Canonical s (o.getD t) := by
  cases o with
  | none => exact ht
  | some u => exact h u rfl

theorem canonical_launchImageLoad (q : Fin 64) (s : State) : Canonical s (launchImageLoad q s) := by
  rw [launchImageLoad]
  split
  · exact canonical_looked s
  next ws _ =>
    have hrejected := canonical_rejected s q ws (s.accept q ws).2 .illegalOperand
    refine canonical_ite (canonical_refl s) (canonical_ite hrejected ?_)
    exact canonical_getOr hrejected fun _ hload => (canonical_accept s q ws).trans (canonical_loadImage hload)

/-! Suspension and teardown (R361, R368). -/

theorem canonical_refreshed (h : Canonical s t) : Canonical s t.refreshSuspended := h.trans (canonical_refreshSuspended t)

theorem canonical_queueSuspend (q : Fin 64) (s : State) : Canonical s (queueSuspend q s) := by
  rw [queueSuspend]
  exact canonical_refreshed (canonical_of_eq rfl rfl rfl rfl)

theorem canonical_queueResume (q : Fin 64) (s : State) : Canonical s (queueResume q s) := by
  rw [queueResume]
  exact canonical_refreshed (canonical_of_eq rfl rfl rfl rfl)

/-- The matrix commands that run complete first. -/
theorem canonical_runsMatrix (s : State) (c : Context) (ms : List Cmd) :
    Canonical s (ms.foldl (fun s m => if m.kind.isMatrix && m.state == .started then s.runMatrix c m else s) s) := by
  refine canonical_chain.foldl (fun u m => ?_) _ s
  exact canonical_ite (canonical_runMatrix u c m) (canonical_refl u)

theorem canonical_kill (s : State) (c : Context) : Canonical s (s.kill c) := by
  rw [State.kill]
  refine Canonical.trans (canonical_runsMatrix s c c.cmds) ?_
  exact (canonical_putBack _ _).trans ((canonical_dropTests _ _).trans ((canonical_drainHeld _ _ _).trans (canonical_freeCtx _ _)))

theorem canonical_killAll (s : State) (cs : List Context) (dead : Key → Bool) : Canonical s ((cs.foldl State.kill s).deadRecords dead) :=
  (canonical_chain.foldl canonical_kill cs s).trans (canonical_of_eq rfl rfl rfl rfl)

theorem canonical_completeEach (s : State) (ids : List Nat) (status code node : Nat) :
    Canonical s (ids.foldl (fun s id => s.complete id status code node) s) := canonical_chain.foldl (fun u id => canonical_complete u id _ _ _) ids s

theorem canonical_tearEnd (s : State) (q : Fin 64) : Canonical s (s.tearEnd q) := by
  rw [State.tearEnd]
  exact Canonical.trans (canonical_ite (canonical_refl s) (canonical_writeN s _ _ _ _))
    ((canonical_modQueue _ q _).trans (canonical_refreshSuspended _))

/-- The first steps of a teardown. -/
theorem canonical_tornApart (s : State) (mine : TaskRec → Bool) (graphs : List Graph) (loads : List Load) (tasks : List Context)
    (dead : Key → Bool) (ids : List Nat) (q : Fin 64) (f : Queue → Queue) : Canonical s ((ids.foldl (fun s id => s.complete id 3 0 0)
      ((tasks.foldl State.kill { ((s.dropRecords mine).dropSpawnWatches mine).wakeSenders with graphs := graphs, loads := loads }).deadRecords
        dead)).modQueue q f) := by
  have hdropped : Canonical s ((s.dropRecords mine).dropSpawnWatches mine).wakeSenders :=
    canonical_after ((canonical_dropTests (s.dropRecords mine) _).trans (canonical_wakeSenders _)) rfl rfl rfl rfl
  exact hdropped.trans (canonical_after ((canonical_killAll _ tasks dead).trans ((canonical_completeEach _ ids _ _ _).trans (canonical_modQueue _ q f)))
    rfl rfl rfl rfl)

theorem canonical_teardown (q : Fin 64) (s : State) : Canonical s (teardown q s) := by
  rw [teardown, State.tearDown]
  exact canonical_ite ((canonical_tornApart s _ _ _ _ _ _ q _).trans (canonical_tearEnd _ q)) (canonical_tornApart s _ _ _ _ _ _ q _)

/-! Registers (R365, R366). -/

/-- SUSPEND written. -/
theorem canonical_suspendWritten {a b : Prop} [Decidable a] [Decidable b] (q : Fin 64) (h : Canonical s t) :
    Canonical s (if a then queueSuspend q t else if b then queueResume q t else t) :=
  canonical_ite (h.trans (canonical_queueSuspend q t)) (canonical_ite (h.trans (canonical_queueResume q t)) h)

theorem canonical_controlWrite (s : State) (q : Fin 64) (x : Word) : Canonical s (s.controlWrite q x) := by
  rw [State.controlWrite]
  exact canonical_ite ((canonical_suspendWritten q (canonical_modQueue s q _)).trans (canonical_teardown q _))
    (canonical_suspendWritten q (canonical_modQueue s q _))

theorem canonical_bar0Write (s : State) (off : Nat) (x : Word) : Canonical s (s.bar0Write off x) := by
  rw [State.bar0Write.eq_def]
  refine canonical_ite (canonical_refl s) ?_
  dsimp only
  split
  · exact canonical_modQueue s _ _
  · exact canonical_modQueue s _ _
  · exact canonical_doorbell _ _ s
  · exact canonical_modQueue s _ _
  · exact canonical_controlWrite s _ x
  · exact canonical_modQueue s _ _
  · exact canonical_modQueue s _ _
  · exact canonical_modQueue s _ _
  · exact canonical_modQueue s _ _
  · exact canonical_refl s

theorem canonical_registerWrite (bar : Bar) (off : Nat) (val : BitVec 64) (s : State) : Canonical s (registerWrite bar off val s) := by
  cases bar with
  | bar0 => exact canonical_bar0Write s off val
  | bar1 => exact canonical_bar1Write s off val

/-! Reads and writes of the host (R364, R398). -/

theorem canonical_badHostWrite (s : State) (off : Nat) : Canonical s (s.badHostWrite off) :=
  (canonical_hostLog s _ _ _).trans (canonical_of_eq rfl rfl rfl rfl)

theorem canonical_hostFill (s : State) (c : Context) (l : Leaf) (va data : Nat) : Canonical s (s.hostFill c l va data) := by
  rw [State.hostFill]
  have hcount := canonical_countRead s c l va
  have hfill : Canonical s (if (s.countRead c l va).fillPoisons (l.line va) (BitVec.ofNat 1024 data) false = true then
      ((s.countRead c l va).poisonSoon (l.line va), some FaultCode.fillConflict)
      else (s.countRead c l va).fillAt (l.line va) (BitVec.ofNat 1024 data) false).1 :=
    canonical_iteFst (hcount.trans (canonical_poisonSoon _ _)) (hcount.trans (homeOnly_fillAt _ _ _ _).canonical)
  exact Canonical.trans (canonical_ite (hfill.trans (canonical_hostLog _ _ _ _)) hfill) (canonical_of_eq rfl rfl rfl rfl)

theorem canonical_hostWriteHalf (off : BitVec 48) (data : BitVec 512) (s : State) : Canonical s (hostWriteHalf off data s) := by
  rw [hostWriteHalf]
  refine canonical_ite (canonical_badHostWrite s _) ?_
  split
  · exact canonical_refl s
  next hrun => exact (canonical_runM (canonical_tryTranslate _ _ _ _ _) hrun).trans (canonical_badHostWrite _ _)
  next hrun =>
    have hs := canonical_runM (canonical_tryTranslate _ _ _ _ _) hrun
    refine canonical_ite (hs.trans (canonical_badHostWrite _ _)) (canonical_ite (canonical_refl s) ?_)
    dsimp only
    split
    · exact hs.trans (canonical_after (canonical_hostFill _ _ _ _ _) rfl rfl rfl rfl)
    · exact canonical_ite (hs.trans (canonical_of_eq rfl rfl rfl rfl)) (hs.trans (canonical_badHostWrite _ _))

/-- A read that is answered with a poisoned completion. -/
theorem canonical_badHostRead (s : State) (off : Nat) : Canonical s { s.hostLog 364 off 2 with hostReplies := s.hostReplies ++ [none] } :=
  (canonical_hostLog s _ _ _).trans (canonical_of_eq rfl rfl rfl rfl)

theorem canonical_hostRead (off : BitVec 48) (s : State) : Canonical s (hostRead off s) := by
  rw [hostRead]
  refine canonical_ite (canonical_badHostRead s _) ?_
  split
  · exact canonical_refl s
  next hrun => exact (canonical_runM (canonical_tryTranslate _ _ _ _ _) hrun).trans (canonical_badHostRead _ _)
  next hrun =>
    have hs := canonical_runM (canonical_tryTranslate _ _ _ _ _) hrun
    refine canonical_ite (hs.trans (canonical_badHostRead _ _)) (canonical_ite (hs.trans ((canonical_countRead _ _ _ _).trans (canonical_badHostRead _ _))) ?_)
    exact hs.trans ((canonical_countRead _ _ _ _).trans (canonical_of_eq rfl rfl rfl rfl))

end Sys2Proof.Machine
end

section
/-! PROOFS. O33: service life, errors and the offlining of memory dies (R79, R350, R370 to R379). -/
namespace Sys2Proof.Machine
open Sys2Proof.Claims
open Sys2Proof.Safety (memoryOk)
variable {s t : State}

/-! Memory dies taken offline (R375). -/

theorem Memory.copyRange_wf {m : Memory} (a b n : Nat) (h : m.wf = true) : (m.copyRange a b n).wf = true :=
  Memory.writes_wf _ _ _ (Memory.clear_wf h)

theorem canonical_pageCopied (s : State) (a b n : Nat) : Canonical s (s.pageCopied a b n) :=
  fun ⟨h1, h2, h3, h4⟩ => ⟨Mem.wf_mk (Memory.copyRange_wf _ _ _ (Mem.wf_iff.1 h1).1) (Memory.copyRange_wf _ _ _ (Mem.wf_iff.1 h1).2), h2, h3,
    Memory.copyRange_wf _ _ _ h4⟩

theorem canonical_movePage (s : State) (a b n : Nat) : Canonical s (s.movePage a b n) := by
  rw [movePage_eq]
  exact (canonical_pageCopied s a b n).trans (canonical_chain.foldl (f := State.entryMoved a b)
    (fun u _ => (canonical_putEntry u _ _ _).trans (canonical_startInval _ _ _ _ _)) _ _)

theorem canonical_emptyDie (s : State) (die : Fin 8) (pairs : List (Nat × Nat × Nat)) (free : List (Nat × Nat)) :
    Canonical s (s.emptyDie die pairs free) :=
  Canonical.trans (canonical_chain.foldl (f := fun (s : State) (p : Nat × Nat × Nat) => s.movePage p.1 p.2.1 p.2.2)
    (fun u _ => canonical_movePage u _ _ _) pairs s) (canonical_of_eq rfl rfl rfl rfl)

theorem canonical_overrule (s : State) (die : Fin 8) (forced : Bool) : Canonical s (s.overrule die forced) :=
  canonical_ite (canonical_of_eq rfl rfl rfl rfl) (canonical_refl s)

theorem canonical_noteOrder (s : State) (die : Fin 8) (forced : Bool) : Canonical s (s.noteOrder die forced) :=
  canonical_ite (canonical_refl s) (canonical_of_eq rfl rfl rfl rfl)

theorem canonical_offlineOver (s : State) (die : Fin 8) : Canonical s (s.offlineOver die) :=
  Canonical.trans (t := if s.overtaken die then s.raiseVector 65 else s) (canonical_ite (canonical_of_eq rfl rfl rfl rfl) (canonical_refl s))
    (canonical_of_eq rfl rfl rfl rfl)

theorem canonical_offlineLate (s : State) (die : Fin 8) : Canonical s (s.offlineLate die) :=
  canonical_ite (canonical_offlineOver s die) (canonical_refl s)

theorem canonical_offlineRequest (die : Fin 8) (s : State) : Canonical s (offlineRequest die s) := by
  rw [offlineRequest]
  refine canonical_ite (canonical_offlineLate s die) (canonical_ite ?_ (canonical_ite (canonical_refl s) ?_))
  · exact (canonical_overrule s die false).trans (canonical_of_eq rfl rfl rfl rfl)
  · exact (canonical_emptyDie s die _ _).trans ((canonical_noteOrder _ die false).trans (canonical_overrule _ die false))

theorem canonical_failWatches (s : State) (p : Watch → Bool) (code : FaultCode) : Canonical s (s.failWatches p code) :=
  (canonical_endWatches s p).trans (canonical_chain.foldl (fun u (w : Watch) => canonical_takeResult u w.who (.lost code) w.va) _ _)

/-- The host told of each page lost. -/
theorem canonical_logPages (s : State) (rule : Nat) (ps : List (Nat × Nat)) : Canonical s (ps.foldl (fun s p => s.hostLog rule p.1 p.2) s) :=
  canonical_chain.foldl (fun u _ => canonical_hostLog u _ _ _) ps s

theorem canonical_lost (s : State) (ps : List (Nat × Nat)) : Canonical s { s with lost := s.lost ++ ps } := canonical_of_eq rfl rfl rfl rfl

theorem canonical_offlineForced (die : Fin 8) (s : State) : Canonical s (offlineForced die s) := by
  rw [offlineForced]
  refine canonical_ite (canonical_offlineLate s die) (canonical_ite (canonical_refl s) ?_)
  refine Canonical.trans ?_ ((canonical_noteOrder _ die true).trans (canonical_overrule _ die true))
  refine Canonical.trans ?_ (canonical_logPages _ _ _)
  refine Canonical.trans ?_ (canonical_failWatches _ _ _)
  exact (canonical_emptyDie s die _ _).trans (canonical_lost _ _)

theorem canonical_offlineComplete (die : Fin 8) (s : State) : Canonical s (offlineComplete die s) := by
  rw [offlineComplete]
  exact canonical_ite (canonical_refl s) (canonical_after (canonical_offlineOver _ die) rfl rfl rfl rfl)

/-! Scheduling orders and the management port (R370 to R376). -/

theorem canonical_setQuad (s : State) (quad : Nat) (out : Bool) : Canonical s (s.setQuad quad out) :=
  canonical_chain.foldl (fun u _ => canonical_modCore u _ _) _ s

theorem canonical_setQuads (s : State) (qs : List Nat) (out : Bool) : Canonical s (qs.foldl (fun s q => s.setQuad q out) s) :=
  canonical_chain.foldl (fun u q => canonical_setQuad u q out) qs s

theorem canonical_replyReading (s : State) : Canonical s s.replyReading := canonical_of_eq rfl rfl rfl rfl

theorem canonical_mgmtReadLogs (s : State) : Canonical s (mgmtReadLogs s) := canonical_of_eq rfl rfl rfl rfl

theorem canonical_setPackageId (id : BitVec 12) (s : State) : Canonical s (setPackageId id s) :=
  canonical_ite (canonical_refl s) (canonical_of_eq rfl rfl rfl rfl)

theorem canonical_linkTrained (l : Fin 12) (farId : BitVec 12) (s : State) : Canonical s (linkTrained l farId s) :=
  canonical_ite (canonical_refl s) (canonical_of_eq rfl rfl rfl rfl)

/-- A reset keeps memory and metadata, and empties the scratchpads and accumulators. -/
theorem canonical_deviceReset (s : State) : Canonical s (deviceReset s) := fun ⟨h1, _, _, h4⟩ => ⟨h1, rfl, rfl, endWatches_wf _ h4⟩

theorem canonical_loseDie (s : State) (bd : Nat) : Canonical s (s.loseDie bd) := by
  obtain ⟨ids, dead, u, x, y, hu, hx, hy, heq, -⟩ := loseDie_eq s bd
  have hkilled : Canonical s (u.deadRecords dead) := hu ▸ canonical_killAll s _ dead
  have hstopped : Canonical s x := hx ▸ hkilled.trans (canonical_of_eq rfl rfl rfl rfl)
  have hcompleted : Canonical x y := hy ▸ canonical_completeEach x ids _ _ _
  rw [heq]
  exact hstopped.trans (hcompleted.trans ((canonical_failWatches y _ _).trans (canonical_wakeSenders _)))

theorem canonical_endOfflineOf (s : State) (die : Fin 4) : Canonical s (s.endOfflineOf die) :=
  canonical_ite (canonical_of_eq rfl rfl rfl rfl) (canonical_refl s)

theorem canonical_fenceBaseDie (die : Fin 4) (s : State) : Canonical s (fenceBaseDie die s) := by
  rw [fenceBaseDie]
  refine Canonical.trans ?_ (canonical_endOfflineOf _ die)
  exact canonical_after (canonical_loseDie _ _) rfl rfl rfl rfl

theorem canonical_watchdogTick (s : State) : Canonical s (watchdogTick s) := by
  rw [watchdogTick]
  refine canonical_chain.foldl (fun t bd => ?_) _ s
  exact canonical_ite (canonical_loseDie t bd) (canonical_refl t)

/-! Uncorrectable errors (R79, R350). -/

theorem Mem.wf_strike {m : Mem} (a n : Nat) (h : m.wf = true) : (m.strike a n).wf = true :=
  Mem.wf_mk (Mem.wf_iff.1 h).1 (Memory.fill_wf n a (Mem.wf_iff.1 h).2)

theorem canonical_uncorrectableError (e : ErrTarget) (s : State) : Canonical s (uncorrectableError e s) := by
  cases e with
  | line pa => exact canonical_poisonSoon s _
  | memory pa n =>
    exact Canonical.trans (t := { s with mem := s.mem.strike pa n }) (canonical_of_mem (Mem.wf_strike _ _)) (canonical_of_eq rfl rfl rfl rfl)
  | scratch core off n => exact canonical_ite (canonical_of_scratch (Mem.wf_strike _ _)) (canonical_refl s)
  | tile core w => exact canonical_ite (canonical_of_acc (Mem.wf_strike _ _)) (canonical_refl s)
  | scalar k n => exact canonical_modCtx s k _
  | lane k n l => exact canonical_modCtx s k _
  | queue k n => exact canonical_modCtx s k _
  | queueLane k n l => exact canonical_modCtx s k _
  | target k n => exact canonical_modCtx s k _
  | area k off n => exact canonical_modCtx s k _
  | item chan i l => exact canonical_of_eq rfl rfl rfl rfl
  | icache core va =>
    rw [uncorrectableError]
    split
    · exact canonical_modCore s core _
    · exact canonical_refl s

end Sys2Proof.Machine
end

section
/-! PROOFS. O33: every instruction and event, and so every step, keeps the canonical form of the byte spaces. -/
namespace Sys2Proof.Machine
open Sys2Proof.Claims
open Sys2Proof.Safety (memoryOk)
variable {s t : State}

/-! Instructions and events. -/

theorem canonical_event {f : State → State} (hf : ∀ s, Canonical s (f s)) (h : event f s = .next t) : Canonical s t :=
  Host.Outcome.next.inj h ▸ hf s

theorem canonical_quadOrder (quad : Nat) (out : Bool) (s : State) : Canonical s (s.setQuad quad out).wakeSenders :=
  (canonical_setQuad s quad out).trans (canonical_wakeSenders _)

/-- The events. -/
theorem canonical_execEvent {i : Instr} (he : i.isEvent = true) (h : exec i s = .next t) : Canonical s t := by
  cases i with
  | legacyCopy k => exact canonical_event (canonical_legacyCopy k) h
  | legacyFill k => exact canonical_event (canonical_legacyFill k) h
  | legacyLaunch k => exact canonical_event (canonical_legacyLaunch k) h
  | homeJoin m => exact canonical_event (canonical_homeJoin m) h
  | homeFill m => exact canonical_event (canonical_homeFill m) h
  | homeFreeze m => exact canonical_event (canonical_homeFreeze m) h
  | thresholdTest m => exact canonical_event (canonical_thresholdTest m) h
  | homeStore m => exact canonical_event (canonical_homeStore m) h
  | homeLoad m => exact canonical_event (canonical_homeLoad m) h
  | homeExactRead m => exact canonical_event (canonical_homeExactRead m) h
  | ackArrival m => exact canonical_event (canonical_ackArrival m) h
  | wakeResult m => exact canonical_event (canonical_wakeResult m) h
  | replicaTest m => exact canonical_event (canonical_replicaTest m) h
  | gatewayResponsePass m => exact canonical_event (canonical_gatewayResponsePass m) h
  | gatewayInvalidation m => exact canonical_event (canonical_gatewayInvalidation m) h
  | routerForward m busy => exact canonical_event (canonical_routerForward m busy) h
  | combinedJoinDepart m => exact canonical_event (canonical_combinedJoinDepart m) h
  | heldJoinTimeout core n => exact canonical_event (canonical_heldJoinTimeout core n) h
  | flitReceive m crcOk => exact canonical_event (canonical_flitReceive m crcOk) h
  | linkDown l => exact canonical_event (canonical_linkDown l) h
  | copyCommandStart k seq => exact canonical_event (canonical_copyCommandStart k seq) h
  | copyUnitPerformed k seq u => exact canonical_event (canonical_copyUnitPerformed k seq u) h
  | matrixCommandStart k seq => exact canonical_event (canonical_matrixCommandStart k seq) h
  | matrixCommandComplete k seq => exact canonical_event (canonical_matrixCommandComplete k seq) h
  | lampStep k seq => exact canonical_event (canonical_lampStep k seq) h
  | sparkArrival n => exact canonical_event (canonical_sparkArrival n) h
  | tlbinvComplete n => exact canonical_event (canonical_tlbinvComplete n) h
  | coreDispatch core => exact canonical_event (canonical_coreDispatch core) h
  | highPriorityStart core => exact canonical_event (canonical_highPriorityStart core) h
  | handlerOverrun core => exact canonical_event (canonical_handlerOverrun core) h
  | timeSliceExpiry core => exact canonical_event (canonical_timeSliceExpiry core) h
  | gleanPass core => exact canonical_event (canonical_gleanPass core) h
  | gleanProbe core => exact canonical_event (canonical_gleanProbe core) h
  | gleanedRecordArrival core => exact canonical_event (canonical_gleanedRecordArrival core) h
  | dequeRecordArrival n => exact canonical_event (canonical_dequeRecordArrival n) h
  | inboxRecordArrival n => exact canonical_event (canonical_inboxRecordArrival n) h
  | crewStart crew => exact canonical_event (canonical_crewStart crew) h
  | crewDeadlock crew => exact canonical_event (canonical_crewDeadlock crew) h
  | preemption k => exact canonical_event (canonical_preemption k) h
  | mmaPreemptBound k seq => exact canonical_event (canonical_mmaPreemptBound k seq) h
  | faultStop k => exact canonical_event (canonical_faultStop k) h
  | faultRecordWrite asid => exact canonical_event (canonical_faultRecordWrite asid) h
  | faultQueueFullSignal asid => exact canonical_event (canonical_faultQueueFullSignal asid) h
  | resumeRecord k => exact canonical_event (canonical_resumeRecord k) h
  | vectorRetention k => exact canonical_event canonical_refl h
  | nodeTaskset g n => exact canonical_event (fun s => canonical_startNode s g n 1 canonical_tasksetBody) h
  | nodeCrew g n => exact canonical_event (fun s => canonical_startNode s g n 2 canonical_crewBody) h
  | nodeCopy g n => exact canonical_event (canonical_nodeCopy g n) h
  | nodeCond g n => exact canonical_event (fun s => canonical_startNode s g n 4 canonical_condBody) h
  | nodeWhile g n => exact canonical_event (fun s => canonical_startNode s g n 5 canonical_whileBody) h
  | nodeFreeze g n => exact canonical_event (fun s => canonical_startNode s g n 6 canonical_freezeBody) h
  | nodeFallow g n => exact canonical_event (fun s => canonical_startNode s g n 7 canonical_fallowBody) h
  | nodeWaitcell g n => exact canonical_event (fun s => canonical_startNode s g n 8 canonical_waitcellBody) h
  | nodeNotify g n => exact canonical_event (fun s => canonical_startNode s g n 9 canonical_notifyBody) h
  | nodeEnd g n => exact canonical_event (fun s => canonical_startNode s g n 10 canonical_endNodeBody) h
  | nodeComplete g n => exact canonical_event (canonical_nodeComplete g n) h
  | graphComplete g => exact canonical_event (canonical_graphComplete g) h
  | graphStallFail g => exact canonical_event (canonical_graphStallFail g) h
  | doorbell q tail => exact canonical_event (canonical_doorbell q tail) h
  | launchRecord q => exact canonical_event (canonical_launchRecord q) h
  | launchGraph q => exact canonical_event (canonical_launchGraph q) h
  | launchImageLoad q => exact canonical_event (canonical_launchImageLoad q) h
  | bootTextReceive load core => exact canonical_event (canonical_bootTextReceive load core) h
  | imageLoadComplete load => exact canonical_event (canonical_imageLoadComplete load) h
  | queueSuspend q => exact canonical_event (canonical_queueSuspend q) h
  | queueResume q => exact canonical_event (canonical_queueResume q) h
  | teardown q => exact canonical_event (canonical_teardown q) h
  | registerWrite bar off val => exact canonical_event (canonical_registerWrite bar off val) h
  | offlineRequest die => exact canonical_event (canonical_offlineRequest die) h
  | offlineForced die => exact canonical_event (canonical_offlineForced die) h
  | offlineComplete die => exact canonical_event (canonical_offlineComplete die) h
  | hostWriteHalf off data => exact canonical_event (canonical_hostWriteHalf off data) h
  | hostRead off => exact canonical_event (canonical_hostRead off) h
  | accessCounterHalving =>
    cases h
    exact canonical_of_eq rfl rfl rfl rfl
  | ageingCheck qs => exact canonical_event (fun s => (canonical_setQuads s _ true).trans (canonical_wakeSenders _)) h
  | mgmtReadLogs => exact canonical_event canonical_mgmtReadLogs h
  | deviceReset => exact canonical_event canonical_deviceReset h
  | fenceBaseDie die => exact canonical_event (canonical_fenceBaseDie die) h
  | quadTakeOut die quad => exact canonical_event (canonical_quadOrder (48 * die.val + quad.val) true) h
  | quadReturn die quad => exact canonical_event (canonical_quadOrder (48 * die.val + quad.val) false) h
  | coreRelease core => exact canonical_event (fun s => (canonical_modCore s core _).trans (canonical_wakeSenders _)) h
  | standbyTakeOver =>
    cases h
    exact canonical_ite (canonical_refl s) (canonical_of_eq rfl rfl rfl rfl)
  | standbyStandDown =>
    cases h
    exact canonical_of_eq rfl rfl rfl rfl
  | standbySelfFence =>
    cases h
    exact canonical_ite (canonical_of_eq rfl rfl rfl rfl) (canonical_refl s)
  | setPackageId id => exact canonical_event (canonical_setPackageId id) h
  | firmwareUpdate image =>
    cases h
    exact canonical_of_eq rfl rfl rfl rfl
  | spdmMeasurement => exact canonical_event canonical_replyReading h
  | sensorRead => exact canonical_event canonical_replyReading h
  | dieEdgeFailure edge =>
    cases h
    exact canonical_of_eq rfl rfl rfl rfl
  | watchdogTick => exact canonical_event canonical_watchdogTick h
  | uncorrectableError e => exact canonical_event (canonical_uncorrectableError e) h
  | thermalThrottle =>
    cases h
    exact canonical_of_eq rfl rfl rfl rfl
  | thermalTrip => exact canonical_event (fun s => (canonical_deviceReset s).trans (canonical_replyReading _)) h
  | linkTrained l farId => exact canonical_event (canonical_linkTrained l farId) h
  | _ => nomatch he

/-- The instructions of the families above. -/
def ofFamily (i : Instr) : Bool :=
  flagFree i || flagSetting i || readsOrJoins i || tasksAndTwins i || systemInstr i || engineInstr i

theorem canonical_familyBody {i : Instr} (h : ofFamily i = true) : ∃ body, (∀ s, exec i s = issue i body s) ∧ Keeps Canonical body := by
  simp only [ofFamily, Bool.or_eq_true] at h
  obtain ((((h | h) | h) | h) | h) | h := h
  · exact canonical_registerBody (.inl h)
  · exact canonical_registerBody (.inr h)
  · exact canonical_readingBody h
  · exact canonical_taskBody h
  · exact canonical_systemBody h
  · exact canonical_engineBody h

/-- The instructions but transfers and events. -/
theorem canonical_issuedBody {i : Instr} (he : i.isEvent = false) (ht : i.isTransfer = false) :
    ∃ body, (∀ s, exec i s = issue i body s) ∧ Keeps Canonical body := by
  cases hf : ofFamily i with
  | true => exact canonical_familyBody hf
  | false =>
    have hnone : (i.isEvent || i.isTransfer || ofFamily i) = false := by rw [he, ht, hf]; rfl
    cases i with
    | vst x b o => exact canonical_storeBody (.inl ⟨_, _, _, rfl⟩)
    | vsts x b o => exact canonical_storeBody (.inr (.inl ⟨_, _, _, rfl⟩))
    | vscatter x b o => exact canonical_storeBody (.inr (.inr (.inl ⟨_, _, _, rfl⟩)))
    | st d b z o => exact canonical_storeBody (.inr (.inr (.inr ⟨_, _, _, _, rfl⟩)))
    | vsta x tl k => exact canonical_tileBody (.inl ⟨_, _, _, rfl⟩)
    | vadda x tl k => exact canonical_tileBody (.inr ⟨_, _, _, rfl⟩)
    | prep n imm => exact canonical_prepareBody (.inl ⟨_, _, rfl⟩)
    | prepr n a => exact canonical_prepareBody (.inr (.inl ⟨_, _, rfl⟩))
    | prepx n x y => exact canonical_prepareBody (.inr (.inr (.inl ⟨_, _, _, rfl⟩)))
    | pmove n l => exact canonical_prepareBody (.inr (.inr (.inr ⟨_, _, rfl⟩)))
    | probe d addr trig => exact ⟨_, fun _ => rfl, canonical_probeCell d addr trig⟩
    | freeze addr len => exact ⟨_, fun _ => rfl, canonical_freezeRange addr len⟩
    | fallow addr len => exact ⟨_, fun _ => rfl, canonical_fallowRange addr len⟩
    | _ => nomatch hnone

theorem canonical_exec {i : Instr} (h : exec i s = .next t) : Canonical s t := by
  cases he : i.isEvent with
  | true => exact canonical_execEvent he h
  | false =>
    cases ht : i.isTransfer with
    | true =>
      obtain ⟨body, hbody, hk⟩ := canonical_transferBody ht
      exact canonical_issueTransfer hk (hbody s ▸ h)
    | false =>
      obtain ⟨body, hbody, hk⟩ := canonical_issuedBody he ht
      exact canonical_issue hk (hbody s ▸ h)

/-! The events that may be due (notes/assumptions/5.md). -/

/-- Every one of them is an instruction's meaning. -/
def Executes (fs : List Event) : Prop := ∃ is : List Instr, fs = is.map exec

theorem executes_append {fs gs : List Event} (hg : Executes gs) (hf : Executes fs) : Executes (fs ++ gs) := by
  obtain ⟨is, rfl⟩ := hf
  obtain ⟨js, rfl⟩ := hg
  exact ⟨is ++ js, (List.map_append ..).symm⟩

theorem executes_flatMap {α : Type} {f : α → List Event} (hf : ∀ x, Executes (f x)) (l : List α) : Executes (l.flatMap f) := by
  induction l with
  | nil => exact ⟨[], rfl⟩
  | cons x l ih => exact executes_append ih (hf x)

theorem executes_map {α : Type} {f : α → Event} (g : α → Instr) (hg : ∀ x, f x = exec (g x)) (l : List α) : Executes (l.map f) :=
  ⟨l.map g, by rw [List.map_map]; exact List.map_congr_left fun x _ => hg x⟩

theorem executes_messageEvents (m : Msg) : Executes (messageEvents m) := by
  rw [messageEvents]
  split
  · exact ⟨[.routerForward m.id false], rfl⟩
  · exact ⟨[.routerForward m.id false], rfl⟩
  · exact ⟨[.combinedJoinDepart m.id], rfl⟩
  · exact ⟨[.replicaTest m.id, .gatewayResponsePass m.id, .gatewayInvalidation m.id, .routerForward m.id false], rfl⟩
  · exact ⟨[.flitReceive m.id true], rfl⟩
  · exact ⟨[.flitReceive m.id true], rfl⟩
  · exact ⟨[.homeJoin m.id, .homeFill m.id, .homeFreeze m.id, .thresholdTest m.id, .homeStore m.id, .homeLoad m.id, .homeExactRead m.id,
      .ackArrival m.id, .wakeResult m.id, .gatewayInvalidation m.id], rfl⟩

theorem executes_commandEvents (c : Context) : Executes (commandEvents c) :=
  executes_flatMap (fun m : Cmd => ⟨[.copyCommandStart c.key m.seq, .copyUnitPerformed c.key m.seq m.nextUnit, .matrixCommandStart c.key m.seq,
    .matrixCommandComplete c.key m.seq, .lampStep c.key m.seq], rfl⟩) _

theorem executes_stopEvents (c : Context) : Executes (stopEvents c) := ⟨[.faultStop c.key, .preemption c.key], rfl⟩

theorem executes_coreEvents (s : State) (n : Nat) : Executes (coreEvents s n) := by
  rw [coreEvents]
  refine executes_append ?_ ⟨[.highPriorityStart n, .coreDispatch n, .gleanedRecordArrival n, .gleanProbe n], rfl⟩
  split
  · exact ⟨[.gleanPass n], rfl⟩
  · exact ⟨[], rfl⟩

theorem executes_graphEvents (x : Graph) : Executes (graphEvents x) :=
  executes_append ⟨[.graphComplete x.id, .graphStallFail x.id], rfl⟩ (executes_flatMap (fun y : GNode => ⟨[.nodeTaskset x.id y.idx, .nodeCrew x.id y.idx,
    .nodeCopy x.id y.idx, .nodeCond x.id y.idx, .nodeWhile x.id y.idx, .nodeFreeze x.id y.idx, .nodeFallow x.id y.idx, .nodeWaitcell x.id y.idx,
    .nodeNotify x.id y.idx, .nodeEnd x.id y.idx, .nodeComplete x.id y.idx], rfl⟩) _)

theorem executes_dueEvents (s : State) : Executes s.dueEvents := by
  have hheld (k : Core) : Executes (if k.hold.isEmpty then [] else [execHeldJoinTimeout k.num 0]) := by
    split
    · exact ⟨[], rfl⟩
    · exact ⟨[.heldJoinTimeout k.num 0], rfl⟩
  have hoffline (x : Fin 8 × Bool) : (if x.2 then execOfflineForced x.1 else execOfflineRequest x.1) =
      exec (if x.2 then .offlineForced x.1 else .offlineRequest x.1) := by
    split <;> rfl
  have hload (l : Load) : Executes (l.placed.map (fun p => execBootTextReceive l.id p.1) ++ [execImageLoadComplete l.id]) :=
    executes_append ⟨[.imageLoadComplete l.id], rfl⟩ (executes_map (fun p : Nat × Nat => .bootTextReceive l.id p.1) (fun _ => rfl) _)
  exact executes_append (executes_flatMap hheld _) <| executes_append (executes_map .offlineComplete (fun _ => rfl) _) <|
    executes_append (executes_map _ hoffline _) <| executes_append (executes_map .teardown (fun _ => rfl) _) <|
    executes_append (executes_flatMap (fun q : Fin 64 => ⟨[.launchRecord q, .launchGraph q, .launchImageLoad q], rfl⟩) _) <|
    executes_append (executes_flatMap hload _) <| executes_append (executes_flatMap executes_graphEvents _) <|
    executes_append (executes_flatMap (fun l : Legacy => ⟨[.legacyCopy l.k, .legacyFill l.k, .legacyLaunch l.k], rfl⟩) _) <|
    executes_append (executes_flatMap (executes_coreEvents s) _) <|
    executes_append (executes_flatMap (fun w : Crew => ⟨[.crewStart w.id, .crewDeadlock w.id], rfl⟩) _) <|
    executes_append (executes_map .tlbinvComplete (fun _ => rfl) _) <|
    executes_append (executes_map (fun r : Key × Bool => .resumeRecord r.1) (fun _ => rfl) _) <|
    executes_append (executes_map .faultRecordWrite (fun _ => rfl) _) <| executes_append (executes_flatMap executes_stopEvents _) <|
    executes_append (executes_flatMap (fun i : Nat => ⟨[.dequeRecordArrival i, .inboxRecordArrival i], rfl⟩) _) <|
    executes_append (executes_map .sparkArrival (fun _ => rfl) _) <| executes_append (executes_flatMap executes_commandEvents _)
    (executes_flatMap executes_messageEvents _)

theorem canonical_firstChange {is : List Instr} (h : firstChange s (is.map exec) = some t) : Canonical s t := by
  induction is with
  | nil => cases h
  | cons i is ih =>
    rw [List.map_cons, firstChange] at h
    split at h
    next u hu =>
      split at h
      · exact ih h
      · cases h
        exact canonical_exec hu
    · exact ih h

theorem canonical_autoNext (h : autoNext s = some t) : Canonical s t := by
  obtain ⟨is, his⟩ := executes_dueEvents s
  rw [autoNext, his] at h
  exact canonical_firstChange h

/-! What a step does next. -/

/-- The state at which an action goes on. -/
def Action.at : Action → State
  | .run _ s => s
  | .done s => s

theorem canonical_issueBadField (i : Instr) (s : State) : Canonical s (issueBadField i s) := by
  rw [issueBadField]
  split
  · exact canonical_takeFault _ s
  · exact canonical_refl s

theorem canonical_issueNext (s : State) : Canonical s (issueNext s).at := by
  rw [issueNext]
  split
  · exact canonical_refl s
  split
  · exact canonical_refl s
  next hfetch => exact ((canonical_fetchBytes _ _ _ _ s).of_gives hfetch).trans (canonical_takeFault _ _)
  next hfetch =>
    refine Canonical.trans ((canonical_fetchBytes _ _ _ _ s).of_gives hfetch) ?_
    split
    · split
      · exact canonical_takeFault _ _
      · exact canonical_takeFault _ _
    split
    · exact canonical_refl _
    · exact canonical_issueBadField _ _
    · split
      next h => exact canonical_issue (canonical_raise _ _) h
      · exact canonical_refl _
    · exact canonical_takeFault _ _
    · exact canonical_takeFault _ _

theorem canonical_runOn (s : State) : Canonical s (runOn s).at := by
  rw [runOn]
  split
  · exact canonical_issueNext s
  split
  · exact canonical_teardown _ s
  split
  · exact canonical_preemption _ s
  split
  · exact canonical_highPriorityStart _ s
  · exact canonical_issueNext s

theorem canonical_switchTo (core : Nat) (s : State) : Canonical s (switchTo core s) := by
  rw [switchTo]
  refine canonical_ite (canonical_refl s) ?_
  have hunloaded : Canonical s (if s.busy then { s with ctxs := putCtx s.ctxs s.cur, busy := false } else s) :=
    canonical_ite (canonical_of_eq rfl rfl rfl rfl) (canonical_refl s)
  dsimp only
  split
  · exact hunloaded.trans (canonical_of_eq rfl rfl rfl rfl)
  · exact hunloaded.trans (canonical_of_eq rfl rfl rfl rfl)

theorem canonical_nextAction (s : State) : Canonical s (nextAction s).at := by
  rw [nextAction]
  split
  · split
    · exact canonical_of_eq rfl rfl rfl rfl
    · exact canonical_of_eq rfl rfl rfl rfl
  next c rest _ =>
    have hturn : Canonical s (switchTo c { s with sched := rest }) := canonical_after (canonical_switchTo c _) rfl rfl rfl rfl
    dsimp only
    split
    · exact hturn.trans (canonical_runOn _)
    · exact hturn
  · split
    · exact canonical_runOn s
    split
    next h => exact (canonical_autoNext h).trans (canonical_of_eq rfl rfl rfl rfl)
    split
    · exact canonical_after ((canonical_switchTo _ _).trans (canonical_runOn _)) rfl rfl rfl rfl
    split
    · exact canonical_after (canonical_runOn _) rfl rfl rfl rfl
    · exact canonical_refl s

/-- Settles O33: what an instruction or event changes of the byte spaces it writes by the operations that keep the canonical form
(`canonical_exec`), and so does what a step does before it (`canonical_nextAction`). -/
theorem everyStepKeepsByteSpacesCanonical : Obligations.EveryStepKeepsByteSpacesCanonical := by
  intro s t hs h
  have hnext := canonical_nextAction s
  cases hact : nextAction s with
  | run i u =>
    rw [hact] at hnext
    rw [step_of_run hact] at h
    exact canonical_exec h (hnext hs)
  | done u =>
    rw [hact] at hnext
    rw [step_of_done hact] at h
    cases h
    exact hnext hs

end Sys2Proof.Machine
end
